-- ==== Sys2Proof/Word.lean ====
section
/-!
DEFINITION. The word type of the module's registers and the plainest arithmetic over it.
-/

namespace Sys2Proof

/-- Registers are 32 bits wide (spec/00 R4). -/
abbrev Word := BitVec 32

/-- One byte. -/
abbrev Byte := BitVec 8

end Sys2Proof
end

