-- ==== Sys2Proof/Syntax.lean ====
section
/-!
DEFINITION. The commands of the module: one constructor for each row of the opcode table, with its operands.
-/

namespace Sys2Proof

/-- A law image: identifier, latency, initial exponents and mantissas of ST0 to ST31, initial K4 to K7, the CF program
and the SF program (spec/04 R87). -/
structure LawImage where
  id : Nat
  lat : Nat
  st : List (Int × List Int)
  k47 : List Word
  cf : List Word
  sf : List Word
deriving DecidableEq, Repr

/-- The module's outcome of the parts of a start that lie outside it (spec/01 R22, spec/15 R355, R368): the PUF response, none where it
cannot be reconstructed, each bank passes every check of R368, the SC reports its start-up tests within 200 ms, the
start's cause as KB_BOOT.RCAUSE names it, the time in ns that the PD0 RTC measured while the internal store lasted, the
tiles (memory, tile) that the start-up test finds bad, the laws of the images loaded, the check-value
units whose loaded range does not match, and the journal slots that are torn and unreadable (spec/16 R390, R395, spec/14
R342). -/
structure StartIn where
  puf : Option (List Byte)
  bankOk : List Bool
  scOk : Bool
  cause : Nat
  rtcNs : Nat
  tilesBad : List (Nat × Nat)
  laws : List (Option LawImage)
  loadBad : List Nat
  torn : List Nat
  unread : List Nat
deriving DecidableEq, Repr

/-- What reaches an upstream receiver in one CF (spec/03 R54, R66): nothing in time, a frame aborted by a code violation
or a K-symbol, or 144 bits, with the deviation of the first character from its expected instant in ns; or the 10-bit characters
that came, bit `a` the most significant, as the line code has them (spec/03 R52, R53). -/
inductive UpArrival where
  | missing
  | violation
  | frame (bits : BitVec 144) (dev : Int)
  | chars (cs : List (BitVec 10)) (dev : Int)
deriving DecidableEq, Repr

/-- A fast-path sample of an output at a CF tick: the barrier transfer passed its check, the sum of the two SAR codes of
the current, the corrected current in mA and voltage in mV, and the corrected samples since the tick before, which only
the summaries use (spec/04 R81, R100, spec/07 R165). -/
structure FastSample where
  ok : Bool
  raw : Int
  iMa : Int
  vMv : Int
  between : List (Int × Int)
deriving DecidableEq, Repr

/-- A GNSS time message (spec/02 R38): UTC day since 1958-01-01, second of day (86 400 for 23:59:60), status A, and how
long after its edge it ended, in ms. -/
structure GnssMsg where
  day : Nat
  sec : Nat
  statusA : Bool
  endMs : Nat
deriving DecidableEq, Repr

/-- Values of a vehicle's request (spec/06 Table 6.8): 0.1 A, 0.1 V, kW. -/
structure VehValues where
  iTgt : Int
  iMax : Nat
  idMax : Nat
  vTgt : Nat
  vMax : Nat
  pMax : Nat
  pdMax : Nat
deriving DecidableEq, Repr

/-- Cipher suites and groups of spec/06 Table 6.4. -/
inductive TlsSuite where
  | ecdheEcdsaAes128CbcSha256 | ecdhEcdsaAes128CbcSha256 | aes256GcmSha384 | chacha20Poly1305Sha256
deriving DecidableEq, Repr
inductive TlsGroup where
  | secp256r1 | secp521r1 | x448
deriving DecidableEq, Repr

/-- What a vehicle's TLS handshake offers (spec/06 R140): the versions 1.2 and 1.3, and of the suites and groups of Table 6.4
those that it names. -/
structure TlsHello where
  v12 : Bool
  v13 : Bool
  suites : List TlsSuite
  groups : List TlsGroup
  /-- Roots that the vehicle names (spec/15 R358). -/
  roots : List (List Byte)
deriving DecidableEq, Repr

/-- What a PowerDelivery request asks for (spec/06 Table 6.5). -/
inductive PowerKind where
  | start | stop | standby | renegotiate
deriving DecidableEq, Repr

/-- The 32 precision samples of an output in an SF (spec/07 R164, R171): voltage in µV; sensor input in nV (shunt) or in µA
secondary (zero-flux); the fast-path means over the same 31.25 µs in mV and mA; the first sample of the next SF; and the
shunt temperature in 0.01 °C, none when invalid. `discAfter` samples at the start of the next SF are discarded, and the sample given
of it is the first valid one (R166). In an early commit the lists hold the samples taken so far. -/
structure MetOutIn where
  v : List Int
  u : List Int
  fv : List Int
  fi : List Int
  vAfter : Int
  uAfter : Int
  discAfter : Nat
  tsh : Option Int
deriving DecidableEq, Repr

/-- The 32 samples of a feed's channels V1, V2, V3, VN in mV and I1, I2, I3, IN in µA, both secondary; the samples one
cycle earlier; and the first valid sample of the next SF, after `discAfter` discarded ones (spec/07 R164, R166, R175). -/
structure FeedIn where
  ch : List (List Int)
  cyc : List (List Int)
  after : List Int
  discAfter : Nat
deriving DecidableEq, Repr

/-- What a rotation step measured (spec/07 R167, R170): the spare's offset or gain; the movement in ppm of the reference
ratio; means of the spare and of the active converter in each of the 64 SFs of SHADOW, in µV for a voltage, nV or µA for a
current. -/
structure RotResult where
  meas : Int
  refPpm : Int
  sf : List (Int × Int)
deriving DecidableEq, Repr

/-- What the Safety Island measures at an output at an SF tick (spec/09 R222, R223): the connector current in mA, the pilot's high
plateau or CE in mV, the pole voltages to PE and the output voltage in mV. -/
structure IslIn where
  iMa : Int
  pilotMv : Int
  vP : Int
  vN : Int
  vMv : Int
deriving DecidableEq, Repr

/-- Results of an output's latent tests (spec/09 R253): the comparators of its set that forced STOP, the links at which STOP was seen
and BSTATE STOP came back, the off-path of the two switches of its pair, and the insulation monitor's self-test. -/
structure LatentRes where
  comps : BitVec 5
  stops : BitVec 48
  hs : Bool
  ls : Bool
  imd : Bool
deriving DecidableEq, Repr

/-- A part that starts an access inside the module: the initiators of spec/01 Table 1.6 and the writers of Table 1.3. -/
inductive Party where
  | sc | guard | kc | mc | vc0 | vc1 | ce0 | ce1 | gc | capture | ring | clock | logger
deriving DecidableEq, Repr

/-- What an access aims at (spec/01 Tables 1.3, 1.4 and 1.6, R15): the Island by register offset, the key store, a core's SRAM
by the core's number in GLB_CORE_STATE with an offset (0 is the Island's SRAM), an exchange table with its half where it has two, the firmware banks, the capture store, the logs and trace archive,
an MRAM region in the order of Table 1.3. -/
inductive Place where
  | island (off : Nat)
  | keyStore
  | sram (core off : Nat)
  | table (n half : Nat)
  | banks
  | capStore
  | archive
  | mram (region : Nat)
deriving DecidableEq, Repr

/-- An access over the internal fabric beside what the parts' own commands do: a read or a write, a scrub write-back or not, and
what a write carries (spec/01 R14, R15, R20, R21). -/
structure PartAccess where
  who : Party
  place : Place
  write : Bool
  scrub : Bool
  data : List Byte
deriving DecidableEq, Repr

/-- What the world presents to the module at an SF tick: the Island's measurements by output, PT1000 readings in 0.1 °C by
output, the zone temperatures ZA, ZB and ZC in mK, the samples of outputs and feeds, and the writers whose table or slot
was not complete in the ending SF: VC0, VC1, MC, CE0, CE1, the GC, the GC's switch supervision, its panels to Mallas frames, its
background work, and a legal commit that ended past its slot (spec/02 Table 2.2); the seal input (spec/08
R219), the presence line of PNL0 (spec/11 R278); and the items of spec/16 R388 whose newer MRAM copy cannot be read. `unwr` names memory and byte address of each data read of an unwritten
word (spec/16 R384); `islMem` is a fault that the SC's scrub of the Island's own SRAM has found, true where it is
uncorrectable (spec/09 Table 9.8); `access` lists the accesses over the internal fabric in the ending SF (spec/01 R20). `rails` are
the voltages of the four 24 V rails and `coils` the eight holding currents as the GC's converter reads them, `soSup` the safe
outputs' supply (spec/09, spec/10; the registers' units). -/
structure SfIn where
  isl : List IslIn
  pt : List (List Int)
  zones : List Int
  met : List MetOutIn
  feeds : List FeedIn
  late : List Bool
  sealed : Bool
  panel0 : Bool
  mramBad : List (Nat × Nat)
  unwr : List (Nat × Nat)
  islMem : Option Bool
  access : List PartAccess
  rails : List Nat
  coils : List Nat
  soSup : Nat
deriving DecidableEq, Repr

/-- A tariff calendar (spec/08 R194): seasons (month, day, week profile), week profiles (day profile by weekday from
Monday), day profiles (minute, rate 1 to 16), special days (days since 1958-01-01, day profile), standard offset from UTC
in minutes, daylight-saving transitions (s UTC since 1958-01-01, offset from UTC in minutes from then on), and rate prices
in 10^−4 currency per kWh. -/
structure Cal where
  seasons : List (Nat × Nat × Nat)
  weeks : List (List Nat)
  days : List (List (Nat × Nat))
  special : List (Nat × Nat)
  std : Int
  dst : List (Nat × Int)
  prices : List Nat
deriving DecidableEq, Repr

/-- A calibration set of an output (spec/07 Table 7.14, R171, R174) or of a feed. -/
structure CalSet where
  sensor : Nat
  abs : Bool
  legacy : Bool
  rcab : Nat
  rcal : Nat
  alpha : Int
  beta : Int
  tCal : Int
  nlOn : Nat
  nlOff : Nat
  vt : Nat
  ct : Nat
  in5 : Bool
  f60 : Bool
  nct : Bool
deriving DecidableEq, Repr

/-- The value that a SET carries in its buffer, as the object codec reads it (spec/08 Table 8.11): a passive calendar with
its activation in s UTC since 1958-01-01; a demand configuration INT, n, BDAY; a calibration set; anything else. -/
inductive ObjValue where
  | calendar (c : Cal) (activation : Nat)
  | demand (interval sub bday : Nat)
  | calibration (c : CalSet)
  | other
deriving DecidableEq, Repr

/-- What an ACTION carries in its buffer, as the object codec reads it: a time in TAI ns with the UTC offset in s; an image
block's container offset; nothing else than the bytes of the buffer. -/
inductive ActArg where
  | none
  | time (tai : Nat) (ofs : Int)
  | block (offset : Nat)
deriving DecidableEq, Repr

/-- A descriptor as the module reads it (spec/14 Table 14.4), with the content of the host buffer that a request operation
reads; none where the read of the buffer fails. -/
structure Descr where
  idx : Nat
  tag : Nat
  type : Nat
  op : Nat
  flags : Nat
  sess : Nat
  buf : Nat
  len : Nat
  deadline : Nat
  inline : List Byte
  data : Option (List Byte)
deriving DecidableEq, Repr

/-- Per-output limits in exchange table 2: grant and limit in 0.1 A, voltage limit in 0.1 V, power limit in kW, the
grant that the budgets allow in 0.1 A, and the session the row was made for. -/
structure LimRow where
  g : Int
  ilim : Int
  vlim : Nat
  plim : Nat
deriving DecidableEq, Repr

/-- Per-bundle limits in exchange table 2. -/
structure LimBnd where
  active : Bool
  members : List Nat
  g : Int
  ilim : Int
  vlim : Nat
  plim : Nat
deriving DecidableEq, Repr

/-- Exchange table 2: limits, map 1 by link, allocated weights by link (mantissas that sum to 4 194 304 per output). -/
structure LimTable where
  outs : List LimRow
  bnds : List LimBnd
  map : List (Option Nat)
  alloc : List Int
deriving DecidableEq, Repr


/-- A card in a reader's field: 0 ISO/IEC 14443 A, 1 ISO/IEC 14443 B, 2 ISO/IEC 15693, and its UID or PUPI (spec/12 R302). -/
structure Card where
  prot : Fin 3
  uid : List Byte
deriving DecidableEq, Repr

/-- Where the supply of a writing port collapses (spec/12 Table 12.6): not at all, in steps 1 or 2, in step 3, in step 4 with
the commit word torn, in step 4 after it, in step 5. -/
inductive Cut where
  | none | receive | shadow | torn | committed | answer
deriving DecidableEq, Repr

/-- A tile as its cells read (spec/16 Table 16.1): each word's data, row parity and state; the column word and its parity. -/
structure MemTile where
  words : List (Word × BitVec 4 × BitVec 2)
  col : Word
  colPar : BitVec 4
deriving DecidableEq, Repr

/-- A write: word number in its memory, data, byte enables, and the core that makes it, none for a channel (spec/16 R385, R387). -/
structure MemWrite where
  word : Nat
  data : Word
  be : BitVec 4
  core : Option (Fin 8)
deriving DecidableEq, Repr

/-- Items of one output that the twin mirrors (spec/06 R156, spec/17 R422): session state and number, EVCCID, the
authorisation result, the join tag, the vehicle's values, its transfer flag; trip, weld lockout, a passed weld test, pair
on; pump, fans and lock commanded; the segment of its session (spec/08 R207). -/
structure MirOut where
  sstate : Nat
  session : Nat
  evccid : Nat
  authOk : Bool
  join : Nat
  v : VehValues
  xfer : Bool
  trip : Nat
  weld : Bool
  weldOk : Bool
  pair : Bool
  pump : Bool
  fan1 : Bool
  fan2 : Bool
  lock : Bool
  seg : Option Nat
deriving DecidableEq, Repr

/-- A mirror frame (spec/17 R422): the outputs, exchange table 2, MX_ASG of every link, the holder's mode, its pending token
announcement, the sender's clock offset in ns as the receiver measures it (spec/01 R23), and the sender's TIME_STATUS.VALID. -/
structure Mirror where
  outs : List MirOut
  t2 : LimTable
  asg : List Word
  mode : Nat
  token : Bool
  ofs : Int
  valid : Bool
deriving DecidableEq, Repr

/-- The commands. -/
inductive Instr where
  /-- POWER_UP (R437). -/
  | powerUp (a : BitVec 16) (b : BitVec 16)
  /-- MODULE_START (R22). -/
  | moduleStart (inp : StartIn)
  /-- SC_STARTUP_TIMEOUT (R22). -/
  | scStartupTimeout
  /-- REGISTER_WRITE (R7). -/
  | registerWrite (offset : Nat) (value : Word)
  /-- UNSUPPORTED_ACCESS (R328). -/
  | unsupportedAccess (bar : Nat) (offset : Nat) (width : Nat)
  /-- READ_OFF_DOMAIN (R23). -/
  | readOffDomain (pd : Fin 10) (offset : Nat)
  /-- COMMIT (R25). -/
  | commit
  /-- DOMAIN_RAIL_LOST (R13). -/
  | domainRailLost (pd : Fin 10)
  /-- FRONT_END_SUPPLY_FAULT (R23). -/
  | frontEndSupplyFault (fe : Fin 10)
  /-- BARRIER_TRANSFER_BAD (R166). -/
  | barrierTransferBad (fe : Fin 10) (fast : Bool) (sample : Fin 32)
  /-- ZONE_DIFF_EXCEEDED (R23). -/
  | zoneDiffExceeded
  /-- ZONE_DIFF_CLEARED (R23). -/
  | zoneDiffCleared
  /-- CF_TICK (R28). -/
  | cfTick
  /-- SF_TICK (R16). -/
  | sfTick (inp : SfIn)
  /-- LEGAL_COMMIT_OVERRUN (R31). -/
  | legalCommitOverrun
  /-- ALLOCATOR_SLOT (R118). -/
  | allocatorSlot
  /-- MOVE_STEP_END (R126). -/
  | moveStepEnd (link : Fin 48)
  /-- MOVE_STEP_TIMEOUT (R127). -/
  | moveStepTimeout (link : Fin 48)
  /-- MX_EXCL_CLEAR (R127). -/
  | mxExclClear (lo : Word) (hi : Word)
  /-- CE_EXCL_CLEAR (R101). -/
  | ceExclClear (ce : Fin 2) (mask : Word)
  /-- COOLING_FAILED (R132). -/
  | coolingFailed (out : Fin 8)
  /-- COOLING_RESTORED (R132). -/
  | coolingRestored (out : Fin 8)
  /-- PUMP_RUNON_END (R131). -/
  | pumpRunonEnd (out : Fin 8)
  /-- TIME_LEAP_WRITE (R34). -/
  | timeLeapWrite (value : Word)
  /-- LEAP_SECOND_APPLY (R34). -/
  | leapSecondApply
  /-- GNSS_PPS_EDGE (R38). -/
  | gnssPpsEdge (at_ : Nat)
  /-- GNSS_MESSAGE (R38). -/
  | gnssMessage (msg : GnssMsg)
  /-- PPS_MISSING (R38). -/
  | ppsMissing
  /-- CORRECTION_APPLY (R42). -/
  | correctionApply
  /-- SLEW_END (R42). -/
  | slewEnd
  /-- SET_TIME (R41). -/
  | setTime (ring : Fin 64)
  /-- PTP_DELAY_REQUEST (R45). -/
  | ptpDelayRequest (port : Fin 2) (peer : Bool)
  /-- UPSTREAM_FRAME (R66). -/
  | upstreamFrame (link : Fin 48) (arrival : UpArrival)
  /-- LINK_LOST (R66). -/
  | linkLost (link : Fin 48)
  /-- ARRIVAL_DRIFT (R63). -/
  | arrivalDrift (link : Fin 48)
  /-- BLOCK_CLOCK_FAULT (R64). -/
  | blockClockFault (link : Fin 48)
  /-- COMMA_LOCK (R73). -/
  | commaLock (link : Fin 48)
  /-- TRAIN_MEASUREMENT (R60). -/
  | trainMeasurement (link : Fin 48) (sum : Nat) (least : Nat) (most : Nat)
  /-- TRAIN_TIMEOUT (R73). -/
  | trainTimeout (link : Fin 48)
  /-- LINK_RETRY (R73). -/
  | linkRetry (link : Fin 48)
  /-- LINK_SILENT (R73). -/
  | linkSilent (link : Fin 48)
  /-- START_SEND (R68). -/
  | startSend (link : Fin 48)
  /-- RETRAIN (R74). -/
  | retrain (link : Fin 48)
  /-- STOP_LINE_ASSERT (R68). -/
  | stopLineAssert (links : List (Fin 48))
  /-- STOP_LINE_RELEASE (R446). -/
  | stopLineRelease (out : Fin 8)
  /-- CE_WINDOW_START (R81). -/
  | ceWindowStart (ce : Fin 2) (fast : List FastSample)
  /-- CE_WINDOW_END (R88). -/
  | ceWindowEnd (ce : Fin 2)
  /-- THIRD_LAW_OVERRUN (R31). -/
  | thirdLawOverrun (ce : Fin 2)
  /-- NOP (R86). -/
  | nop (ce : Fin 2) (d : BitVec 7) (a : BitVec 7) (b : BitVec 7) (k : BitVec 3)
  /-- END (R88). -/
  | endProgram (ce : Fin 2) (d : BitVec 7) (a : BitVec 7) (b : BitVec 7) (k : BitVec 3)
  /-- LDA (R86). -/
  | lda (ce : Fin 2) (d : BitVec 7) (a : BitVec 7) (b : BitVec 7) (k : BitVec 3)
  /-- ADA (R84). -/
  | ada (ce : Fin 2) (d : BitVec 7) (a : BitVec 7) (b : BitVec 7) (k : BitVec 3)
  /-- SBA (R84). -/
  | sba (ce : Fin 2) (d : BitVec 7) (a : BitVec 7) (b : BitVec 7) (k : BitVec 3)
  /-- MUL (R86). -/
  | mul (ce : Fin 2) (d : BitVec 7) (a : BitVec 7) (b : BitVec 7) (k : BitVec 3)
  /-- MAC (R84). -/
  | mac (ce : Fin 2) (d : BitVec 7) (a : BitVec 7) (b : BitVec 7) (k : BitVec 3)
  /-- MSU (R84). -/
  | msu (ce : Fin 2) (d : BitVec 7) (a : BitVec 7) (b : BitVec 7) (k : BitVec 3)
  /-- ZRA (R86). -/
  | zra (ce : Fin 2) (d : BitVec 7) (a : BitVec 7) (b : BitVec 7) (k : BitVec 3)
  /-- MIN (R86). -/
  | min (ce : Fin 2) (d : BitVec 7) (a : BitVec 7) (b : BitVec 7) (k : BitVec 3)
  /-- MAX (R86). -/
  | max (ce : Fin 2) (d : BitVec 7) (a : BitVec 7) (b : BitVec 7) (k : BitVec 3)
  /-- CLP (R86). -/
  | clp (ce : Fin 2) (d : BitVec 7) (a : BitVec 7) (b : BitVec 7) (k : BitVec 3)
  /-- ABS (R86). -/
  | abs (ce : Fin 2) (d : BitVec 7) (a : BitVec 7) (b : BitVec 7) (k : BitVec 3)
  /-- NEG (R86). -/
  | neg (ce : Fin 2) (d : BitVec 7) (a : BitVec 7) (b : BitVec 7) (k : BitVec 3)
  /-- EXA (R86). -/
  | exa (ce : Fin 2) (d : BitVec 7) (a : BitVec 7) (b : BitVec 7) (k : BitVec 3)
  /-- RCP (R86). -/
  | rcp (ce : Fin 2) (d : BitVec 7) (a : BitVec 7) (b : BitVec 7) (k : BitVec 3)
  /-- SEL (R86). -/
  | sel (ce : Fin 2) (d : BitVec 7) (a : BitVec 7) (b : BitVec 7) (k : BitVec 3)
  /-- RSUM (R86). -/
  | rsum (ce : Fin 2) (d : BitVec 7) (a : BitVec 7) (b : BitVec 7) (k : BitVec 3)
  /-- RMAX (R86). -/
  | rmax (ce : Fin 2) (d : BitVec 7) (a : BitVec 7) (b : BitVec 7) (k : BitVec 3)
  /-- SPRD (R86). -/
  | sprd (ce : Fin 2) (d : BitVec 7) (a : BitVec 7) (b : BitVec 7) (k : BitVec 3)
  /-- STF (R85). -/
  | stf (ce : Fin 2) (d : BitVec 7) (a : BitVec 7) (b : BitVec 7) (k : BitVec 3)
  /-- STN (R85). -/
  | stn (ce : Fin 2) (d : BitVec 7) (a : BitVec 7) (b : BitVec 7) (k : BitVec 3)
  /-- MOV (R86). -/
  | mov (ce : Fin 2) (d : BitVec 7) (a : BitVec 7) (b : BitVec 7) (k : BitVec 3)
  /-- CGT (R86). -/
  | cgt (ce : Fin 2) (d : BitVec 7) (a : BitVec 7) (b : BitVec 7) (k : BitVec 3)
  /-- CGE (R86). -/
  | cge (ce : Fin 2) (d : BitVec 7) (a : BitVec 7) (b : BitVec 7) (k : BitVec 3)
  /-- KAND (R86). -/
  | kand (ce : Fin 2) (d : BitVec 7) (a : BitVec 7) (b : BitVec 7) (k : BitVec 3)
  /-- KOR (R86). -/
  | kor (ce : Fin 2) (d : BitVec 7) (a : BitVec 7) (b : BitVec 7) (k : BitVec 3)
  /-- KNOT (R86). -/
  | knot (ce : Fin 2) (d : BitVec 7) (a : BitVec 7) (b : BitVec 7) (k : BitVec 3)
  /-- SKZ (R86). -/
  | skz (ce : Fin 2) (d : BitVec 7) (a : BitVec 7) (b : BitVec 7) (k : BitVec 3)
  /-- TRG (R104). -/
  | trg (ce : Fin 2) (d : BitVec 7) (a : BitVec 7) (b : BitVec 7) (k : BitVec 3)
  /-- SWAP (R91). -/
  | swap (ce : Fin 2)
  /-- COEF_SWAP_APPLY (R91). -/
  | coefSwapApply (ce : Fin 2)
  /-- OUTPUT_FEEDBACK_LOST (R98). -/
  | outputFeedbackLost (ce : Fin 2) (lane : Fin 4)
  /-- FROZEN_FEEDBACK (R101). -/
  | frozenFeedback (ce : Fin 2) (lane : Fin 28)
  /-- CUP_ARM (R105). -/
  | cupArm (ce : Fin 2) (buf : Fin 8)
  /-- CUP_TRIG (R104). -/
  | cupTrig (ce : Fin 2) (buf : Fin 8)
  /-- CUP_DONE (R104). -/
  | cupDone (ce : Fin 2) (buf : Fin 8)
  /-- CUP_STREAM_RECORD (R105). -/
  | cupStreamRecord (ce : Fin 2) (buf : Fin 8)
  /-- PILOT_STATE_ACCEPTED (R136). -/
  | pilotStateAccepted (out : Fin 8) (high : List Int) (low : List Int)
  /-- MCS_LINE_STATE_ACCEPTED (R137). -/
  | mcsLineStateAccepted (out : Fin 8) (isId : Bool) (mv : List Int)
  /-- CM_SLAC_PARM_REQ (R138). -/
  | cmSlacParmReq (out : Fin 8)
  /-- CM_VALIDATE (R138). -/
  | cmValidate (out : Fin 8)
  /-- SLAC_MATCH (R138). -/
  | slacMatch (out : Fin 8) (profile : List Byte)
  /-- PLCA_LINK_UP (R139). -/
  | plcaLinkUp (out : Fin 8)
  /-- PHY_SIGNAL_LOST (R139). -/
  | phySignalLost (out : Fin 8)
  /-- SECC_DISCOVERY_REQ (R140). -/
  | seccDiscoveryReq (out : Fin 8)
  /-- TLS_HANDSHAKE (R140). -/
  | tlsHandshake (out : Fin 8) (slot : BitVec 8) (hello : TlsHello) (ok : Bool)
  /-- TCP_CLOSED (R150). -/
  | tcpClosed (out : Fin 8)
  /-- SUPPORTED_APP_PROTOCOL_REQ (R141). -/
  | supportedAppProtocolReq (out : Fin 8) (din : Bool) (iso2 : Bool) (iso20 : Bool)
  /-- SESSION_SETUP_REQ (R147). -/
  | sessionSetupReq (out : Fin 8) (session : Nat) (evccid : BitVec 48)
  /-- SERVICE_DISCOVERY_REQ (R142). -/
  | serviceDiscoveryReq (out : Fin 8)
  /-- SERVICE_DETAIL_REQ (R142). -/
  | serviceDetailReq (out : Fin 8)
  /-- SERVICE_SELECTION_REQ (R142). -/
  | serviceSelectionReq (out : Fin 8) (bpt : Bool) (dynamic : Bool)
  /-- PAYMENT_SELECTION_REQ (R147). -/
  | paymentSelectionReq (out : Fin 8) (contract : Bool)
  /-- PAYMENT_DETAILS_REQ (R142). -/
  | paymentDetailsReq (out : Fin 8) (emaid : List Byte) (chain : List Byte)
  /-- CERTIFICATE_INSTALLATION_REQ (R151). -/
  | certificateInstallationReq (out : Fin 8) (payload : List Byte)
  /-- AUTHORIZATION_REQ (R151). -/
  | authorizationReq (out : Fin 8) (ident : List Byte) (chain : List Byte)
  /-- CHARGE_PARAMETER_DISCOVERY_REQ (R147). -/
  | chargeParameterDiscoveryReq (out : Fin 8) (v : VehValues)
  /-- SCHEDULE_EXCHANGE_REQ (R142). -/
  | scheduleExchangeReq (out : Fin 8)
  /-- CABLE_CHECK_REQ (R147). -/
  | cableCheckReq (out : Fin 8)
  /-- PRECHARGE_REQ (R147). -/
  | prechargeReq (out : Fin 8) (vTgt : Nat)
  /-- POWER_DELIVERY_REQ (R147). -/
  | powerDeliveryReq (out : Fin 8) (kind : PowerKind)
  /-- CHARGE_LOOP_REQ (R143). -/
  | chargeLoopReq (out : Fin 8) (v : VehValues)
  /-- METERING_RECEIPT_REQ (R142). -/
  | meteringReceiptReq (out : Fin 8)
  /-- WELDING_DETECTION_REQ (R142). -/
  | weldingDetectionReq (out : Fin 8)
  /-- SESSION_STOP_REQ (R147). -/
  | sessionStopReq (out : Fin 8)
  /-- UNSUPPORTED_REQUEST (R142). -/
  | unsupportedRequest (out : Fin 8)
  /-- SLAC_TMO (R144). -/
  | slacTmo (out : Fin 8)
  /-- SETUP_TMO (R144). -/
  | setupTmo (out : Fin 8)
  /-- SEQ_TMO (R144). -/
  | seqTmo (out : Fin 8)
  /-- AUTH_TMO (R144). -/
  | authTmo (out : Fin 8)
  /-- CERT_TMO (R144). -/
  | certTmo (out : Fin 8)
  /-- CC_TMO (R144). -/
  | ccTmo (out : Fin 8)
  /-- PC_TMO (R144). -/
  | pcTmo (out : Fin 8)
  /-- LOOP_TMO (R144). -/
  | loopTmo (out : Fin 8)
  /-- STOP_TMO (R149). -/
  | stopTmo (out : Fin 8)
  /-- RESUME_WIN (R150). -/
  | resumeWin (out : Fin 8)
  /-- JOIN_WIN (R144). -/
  | joinWin (out : Fin 8)
  /-- LOCK_CONFIRM_TIMEOUT (R147). -/
  | lockConfirmTimeout (out : Fin 8)
  /-- PARAM_MODE_TIMEOUT (R146). -/
  | paramModeTimeout (out : Fin 8)
  /-- STOP_CURRENT_ZERO (R147). -/
  | stopCurrentZero (out : Fin 8)
  /-- WELDCHECK_TIMEOUT (R147). -/
  | weldcheckTimeout (out : Fin 8)
  /-- COMM_RETRY (R150). -/
  | commRetry (out : Fin 8)
  /-- VD_CTRL_STOP (R149). -/
  | vdCtrlStop (out : Fin 8)
  /-- VD_CTRL_JOIN (R152). -/
  | vdCtrlJoin (out : Fin 8) (earlier : BitVec 4)
  /-- OFFSET_CAPTURE (R163). -/
  | offsetCapture (out : Fin 8)
  /-- ROTATION_STEP_START (R167). -/
  | rotationStepStart (fe : Fin 10)
  /-- ROTATION_STEP_END (R167). -/
  | rotationStepEnd (fe : Fin 10) (res : RotResult)
  /-- HARMONIC_WINDOW_END (R176). -/
  | harmonicWindowEnd (feed : Fin 2)
  /-- MET_SNAP (R186). -/
  | metSnap
  /-- MET_SNAP_RELEASE (R186). -/
  | metSnapRelease
  /-- RECORD_SIGNED (R210). -/
  | recordSigned (ok : Bool)
  /-- SIGNING_RETRY (R210). -/
  | signingRetry (rec_ : Nat) (ok : Bool)
  /-- TOKEN_LOCK_EXPIRY (R217). -/
  | tokenLockExpiry
  /-- GET (R351). -/
  | get (ring : Fin 64)
  /-- SET (R351). -/
  | set (ring : Fin 64) (value : ObjValue)
  /-- ACTION (R351). -/
  | action (ring : Fin 64) (arg : ActArg)
  /-- SIN_CHANNEL_CHANGE (R229). -/
  | sinChannelChange (sin : Fin 16) (isB : Bool) (level : Bool)
  /-- GUARD_INPUT_ACCEPT (R229). -/
  | guardInputAccept (sin : Fin 16) (isB : Bool)
  /-- RESET_LATENT_COMPLETE (R248). -/
  | resetLatentComplete (pass : Bool)
  /-- DISCREPANCY_FAULT (R230). -/
  | discrepancyFault (sin : Fin 16)
  /-- TEST_PULSE (R232). -/
  | testPulse (source : Fin 2) (stuckA : BitVec 16) (stuckB : BitVec 16)
  /-- COMPARATOR_TRIP (R235). -/
  | comparatorTrip (out : Fin 8) (overvoltage : Bool) (value : Int)
  /-- PILOT_LOSS_TRIP (R234). -/
  | pilotLossTrip (out : Fin 8)
  /-- FAST_EARTH_FAULT (R244). -/
  | fastEarthFault (out : Fin 8)
  /-- PATH_DISAGREEMENT (R182). -/
  | pathDisagreement (out : Fin 8)
  /-- CONTROLLED_STOP_STAGE2 (R237). -/
  | controlledStopStage2 (out : Fin 8)
  /-- PAIR_OFF_DELAY (R227). -/
  | pairOffDelay (pair : Fin 8)
  /-- CONTACTOR_CURRENT_TIMEOUT (R239). -/
  | contactorCurrentTimeout (out : Fin 8)
  /-- WELD_TEST_END (R240). -/
  | weldTestEnd (out : Fin 8) (hvMax : Int)
  /-- WELD_CHECK_END (R240). -/
  | weldCheckEnd (out : Fin 8) (hvMin hvMax : Int) (diffMax : Nat)
  /-- INSULATION_RESULT (R242). -/
  | insulationResult (out : Fin 8) (rf : BitVec 24) (selfTest : Bool)
  /-- DEGRADED_EXPIRY (R247). -/
  | degradedExpiry
  /-- SAFETY_CANDIDATE (R249). -/
  | safetyCandidate (ring : Fin 64)
  /-- SAFETY_CONFIRM (R251). -/
  | safetyConfirm (ring : Fin 64)
  /-- SAFETY_RESET (R248). -/
  | safetyReset (ring : Fin 64)
  /-- CONFIRM_WINDOW_EXPIRY (R251). -/
  | confirmWindowExpiry
  /-- LATENT_TEST_DUE (R253). -/
  | latentTestDue (out : Fin 8) (res : LatentRes)
  /-- WATCHDOG_TIMEOUT (R252). -/
  | watchdogTimeout (core : Fin 9)
  /-- LOCKSTEP_MISMATCH (R252). -/
  | lockstepMismatch
  /-- CLOCK_MONITOR_FAULT (R252). -/
  | clockMonitorFault
  /-- ISLAND_SUPPLY_FAULT (R252). -/
  | islandSupplyFault (source : Fin 3) (good : Bool)
  /-- FETCH_TRAP (R389); `unwritten` is a fetch of a word in state 0b00 (R384), not an uncorrectable read. -/
  | fetchTrap (core : Fin 8) (mem : Fin 9) (addr : BitVec 32) (synd : Word) (unwritten : Bool)
  /-- REFRESH_FRAME (R267): `err` are the bits of the frame that the serial link turns over. -/
  | refreshFrame (err : BitVec 48)
  /-- SERIAL_WATCHDOG_EXPIRY (R267). -/
  | serialWatchdogExpiry
  /-- PS_ON (R259). -/
  | psOn (chan : Fin 24) (on : Bool)
  /-- PS_CLR (R264). -/
  | psClr (chan : Fin 24)
  /-- CURRENT_LIMIT_TRIP (R261). -/
  | currentLimitTrip (chan : Fin 24)
  /-- RAMP_TIMEOUT (R261). -/
  | rampTimeout (chan : Fin 24)
  /-- WIRE_MODEL_UPDATE (R262). -/
  | wireModelUpdate (chan : Fin 24) (amps : BitVec 12) (inLimit : Bool)
  /-- DIE_TEMP_CHECK (R263). -/
  | dieTempCheck (chan : Fin 24) (dt : BitVec 8)
  /-- PS_RETRY (R264). -/
  | psRetry (chan : Fin 24)
  /-- RETRY_RESTORE (R264). -/
  | retryRestore (chan : Fin 24)
  /-- RAIL_OVERCURRENT (R265). -/
  | railOvercurrent (rail : Fin 4) (inLimit : BitVec 24) (amps : List Nat)
  /-- RAIL_GUARD_SHED (R265). -/
  | railGuardShed (rail : Fin 4) (amps : List Nat)
  /-- RAIL_UNDERVOLTAGE (R266). -/
  | railUndervoltage (rail : Fin 4) (dV : BitVec 12) (heldUs : Nat)
  /-- RAIL_RECOVERED (R266). -/
  | railRecovered (rail : Fin 4) (dV : BitVec 12) (heldUs : Nat)
  /-- OPEN_LOAD (R276). -/
  | openLoad (chan : Fin 24)
  /-- PS_READBACK_MISMATCH (R276). -/
  | psReadbackMismatch (chan : Fin 24)
  /-- SO_READBACK_FAULT (R271). -/
  | soReadbackFault (pair : Fin 8) (hs : Bool) (ls : Bool)
  /-- SO_TEST_PULSE (R272). -/
  | soTestPulse (pair : Fin 8) (low : Bool) (offUs : Option Nat) (onUs : Option Nat)
  /-- SO_OVERCURRENT (R274). -/
  | soOvercurrent (pair : Fin 8)
  /-- SO_SUP_FAULT (R270). -/
  | soSupFault (dV : Nat)
  /-- PANEL_UPDATE_REQUEST (R286). -/
  | panelUpdateRequest (panel : Fin 2) (x : Nat) (y : Nat) (w : Nat) (h : Nat) (mode : Fin 3) (img : List Nat)
  /-- PANEL_FRAME (R286). -/
  | panelFrame (panel : Fin 2) (temp : Option Int) (droop : BitVec 5)
  /-- PANEL_RAIL_FAULT (R287). -/
  | panelRailFault (panel : Fin 2) (rails : BitVec 5)
  /-- PANEL_RAIL_STEP (R281). -/
  | panelRailStep (panel : Fin 2) (ok : Bool)
  /-- PANEL_RAIL_RETRY (R281). -/
  | panelRailRetry (panel : Fin 2)
  /-- PD8_IDLE_OFF (R280). -/
  | pd8IdleOff
  /-- PANEL_TEMP_WAKE (R280). -/
  | panelTempWake (temps : List (Option Int))
  /-- KEYPAD_WAKE (R294). -/
  | keypadWake
  /-- KEY_ACCEPTED (R293). -/
  | keyAccepted (code : Fin 16) (pressed : Nat)
  /-- KEY_A (R295). -/
  | keyA
  /-- KEY_DIGIT (R295). -/
  | keyDigit
  /-- KEY_STAR (R295). -/
  | keyStar
  /-- KEY_HASH (R295). -/
  | keyHash
  /-- KEY_C (R295). -/
  | keyC
  /-- KEY_D (R291). -/
  | keyD
  /-- KEY_TIMEOUT (R295). -/
  | keyTimeout
  /-- STRIP_REDRAW (R289). -/
  | stripRedraw
  /-- PAGE_TIMEOUT (R290). -/
  | pageTimeout
  /-- LEGAL_LINE_REDRAW (R291). -/
  | legalLineRedraw (line : Fin 4)
  /-- POLL_CYCLE (R299). -/
  | pollCycle (port : Fin 4) (iant : BitVec 16) (bad : Bool) (cards : List Card)
  /-- ANTENNA_FAULT (R301). -/
  | antennaFault (port : Fin 4)
  /-- ANTENNA_RETRY (R301). -/
  | antennaRetry (port : Fin 4)
  /-- CARD_HOLD_EXPIRY (R303). -/
  | cardHoldExpiry (port : Fin 4)
  /-- APDU (R352). -/
  | apdu (ring : Fin 64) (resp : Option (List Byte))
  /-- TAG_POWER_UP (R308). -/
  | tagPowerUp (byField : Bool)
  /-- FIELD_DETECTED (R306). -/
  | fieldDetected
  /-- TAG_FIELD_LOST (R310). -/
  | tagFieldLost
  /-- READ (R307). -/
  | tagRead (addr : BitVec 16) (len : Nat)
  /-- WRITE (R308). -/
  | tagWrite (addr : BitVec 16) (data : List Byte) (cut : Cut)
  /-- AUTH1 (R307). -/
  | auth1 (fieldMs : Nat)
  /-- AUTH2 (R310). -/
  | auth2 (data : List Byte)
  /-- HLTA (R310). -/
  | hlta
  /-- MARK (R310). -/
  | mark
  /-- PAGE (R310). -/
  | page
  /-- SNAP (R310). -/
  | snap
  /-- STATUS_SNAPSHOT (R304). -/
  | statusSnapshot (cut : Cut)
  /-- MIRROR_WRITE (R305). -/
  | mirrorWrite (cut : Cut)
  /-- MALLAS_CYCLE (R317). -/
  | mallasCycle (polls : List (List Byte))
  /-- MALLAS_ANSWER (R320). -/
  | mallasAnswer (fc : BitVec 36) (payload : List Byte) (hops : List (Int × Int)) (heard : List (Nat × Int))
  /-- MALLAS_EXCHANGE_FAIL (R322). -/
  | mallasExchangeFail (slave : Fin 64) (missing : Bool) (snr : Int) (peaks : List Nat)
  /-- SLAVE_LOST (R319). -/
  | slaveLost (slave : Fin 64)
  /-- DISCOVERY (R316). -/
  | discovery
  /-- DISCOVERY_ANSWER (R316). -/
  | discoveryAnswer (id : BitVec 48) (slot : Fin 8) (snr : Int)
  /-- TIME_FRAME (R323). -/
  | timeFrame
  /-- DB_TAIL (R336). -/
  | dbTail (ring : Fin 64) (tail : Word) (descs : List (Option Descr))
  /-- DB_CHEAD (R340). -/
  | dbChead (ring : Fin 64) (head : Word)
  /-- COMPLETION_DELIVERY (R339). -/
  | completionDelivery (ring : Fin 64) (ok : Bool)
  /-- DESCRIPTOR_EXPIRED (R339). -/
  | descriptorExpired (ring : Fin 64) (didx : Nat)
  /-- COALESCE_TIMEOUT (R341). -/
  | coalesceTimeout (ring : Fin 64)
  /-- ENABLE (R353). -/
  | enable (ring : Fin 64)
  /-- DISABLE (R353). -/
  | disable (ring : Fin 64)
  /-- RESUME (R343). -/
  | resume (ring : Fin 64)
  /-- FLUSH (R343). -/
  | flush (ring : Fin 64)
  /-- LINK_DOWN (R344). -/
  | linkDown
  /-- FUNCTION_LEVEL_RESET (R344). -/
  | functionLevelReset
  /-- RECV_EVENTS (R330). -/
  | recvEvents (ring : Fin 64) (dma : Bool)
  /-- RECV_RECORD (R340). -/
  | recvRecord (ring : Fin 64) (dma : Bool)
  /-- RECV_REQ (R349). -/
  | recvReq (ring : Fin 64) (dma : Bool)
  /-- ANSWER (R349). -/
  | answer (ring : Fin 64)
  /-- STOP (R349). -/
  | stop (ring : Fin 64)
  /-- PRICE (R349). -/
  | price (ring : Fin 64) (fits : Bool)
  /-- RECV_TRACE (R330). -/
  | recvTrace (ring : Fin 64) (dma : Bool)
  /-- ROLE_CHALLENGE (R361). -/
  | roleChallenge (ring : Fin 64)
  /-- ROLE_OPEN (R361). -/
  | roleOpen (ring : Fin 64)
  /-- ROLE_CLOSE (R362). -/
  | roleClose (ring : Fin 64)
  /-- ROLE_SESSION_TIMEOUT (R362). -/
  | roleSessionTimeout (handle : Nat)
  /-- KEY_IMPORT (R359). -/
  | keyImport (ring : Fin 64)
  /-- KEY_GENERATE (R360). -/
  | keyGenerate (ring : Fin 64)
  /-- KEY_PUBLIC (R358). -/
  | keyPublic (ring : Fin 64)
  /-- KEY_DELETE (R379). -/
  | keyDelete (ring : Fin 64)
  /-- CERT_INSTALL (R358). -/
  | certInstall (ring : Fin 64)
  /-- ATTEST (R379). -/
  | attest (ring : Fin 64)
  /-- FVK_REVOKE (R378). -/
  | fvkRevoke (ring : Fin 64) (valid : Bool)
  /-- SET_LIMITED (R363). -/
  | setLimited (ring : Fin 64)
  /-- KEY_FLIP (R360). -/
  | keyFlip (slot : BitVec 8)
  /-- UPDATE_OPEN (R372). -/
  | updateOpen (ring : Fin 64)
  /-- UPDATE_WRITE (R374). -/
  | updateWrite (ring : Fin 64)
  /-- UPDATE_VERIFY (R374). -/
  | updateVerify (ring : Fin 64)
  /-- UPDATE_ABORT (R374). -/
  | updateAbort (ring : Fin 64)
  /-- ACTIVATE (R375). -/
  | activate (ring : Fin 64)
  /-- ACTIVATION_PAUSE_END (R375). -/
  | activationPauseEnd (laws : List (Option LawImage)) (loadBad : List Nat)
  /-- ACTIVATION_FAIL (R376). -/
  | activationFail
  /-- UPDATE_CONFIRM (R370). -/
  | updateConfirm (ring : Fin 64)
  /-- TRIAL_CONFIRM_TIMER (R370). -/
  | trialConfirmTimer
  /-- DEFERRED_START (R370). -/
  | deferredStart
  /-- CORRECTION_WRITE_BACK (R390). -/
  | correctionWriteBack (mem : Fin 9) (tile : Nat) (t : MemTile) (stuck : Bool)
  /-- MERGE_DRAIN (R386). -/
  | mergeDrain (mem : Fin 9) (arrived : Option MemWrite) (busy : Bool) (t : MemTile)
  /-- SCRUB_TILE (R392). -/
  | scrubTile (mem : Fin 9) (t : MemTile) (stuck : Bool)
  /-- SCRUB_PASS_LATE (R393). -/
  | scrubPassLate (mem : Fin 9)
  /-- CVU_SWEEP (R396). -/
  | cvuSweep (cvu : Fin 8) (crc : Word) (unc : Bool)
  /-- CVU_GUARD_HIT (R396). -/
  | cvuGuardHit (cvu : Fin 8) (writer : Fin 8) (addr : BitVec 32)
  /-- MD_REQ_COMMISSION (R402). -/
  | mdReqCommission
  /-- MD_REQ_STANDBY (R400). -/
  | mdReqStandby
  /-- MD_REQ_RUN (R403). -/
  | mdReqRun
  /-- MD_REQ_BENCH (R404). -/
  | mdReqBench
  /-- MD_REQ_START (R399). -/
  | mdReqStart
  /-- STANDBY_ENTRY (R400). -/
  | standbyEntry
  /-- STANDBY_STOP_TIMEOUT (R400). -/
  | standbyStopTimeout
  /-- BENCH_WINDOW_EXPIRY (R404). -/
  | benchWindowExpiry
  /-- BN_HOLD (R405). -/
  | bnHold (hold : Bool)
  /-- BN_STEP (R405). -/
  | bnStep (n : BitVec 16)
  /-- BENCH_STEP_DONE (R405). -/
  | benchStepDone
  /-- LOGIC_INPUT_EXCURSION (R406). -/
  | logicInputExcursion (a : BitVec 16) (b : BitVec 16)
  /-- HOLD_ENTRY (R407). -/
  | holdEntry (a : BitVec 16) (b : BitVec 16) (met : List MetOutIn) (feeds : List FeedIn)
  /-- HOLD_END (R407). -/
  | holdEnd (a : BitVec 16) (b : BitVec 16)
  /-- STORE_SWITCH (R408). -/
  | storeSwitch (a : BitVec 16) (b : BitVec 16)
  /-- SHEDDING_STEP (R408). -/
  | sheddingStep
  /-- HOLDUP_FINAL_COMMIT (R184). -/
  | holdupFinalCommit
  /-- END_OF_STORE (R409). -/
  | endOfStore (met : List MetOutIn) (feeds : List FeedIn)
  /-- SUPPLY_RESTART (R410). -/
  | supplyRestart (a : BitVec 16) (b : BitVec 16)
  /-- STORE_CHARGED (R403). -/
  | storeCharged (v : BitVec 16)
  /-- STORE_TEST (R411). -/
  | storeTest (euse : BitVec 16)
  /-- FREEZE_N_ASSERTED (R412). -/
  | freezeNAsserted
  /-- FRZ_REQ (R412). -/
  | frzReq
  /-- FREEZE_CLOCK_STOP (R413). -/
  | freezeClockStop
  /-- CAPTURE_END (R416). -/
  | captureEnd (sections : Nat) (bytes : Nat) (ok : Bool)
  /-- CAPTURE_ENGINE_TEST (R420). -/
  | captureEngineTest (pass : Bool)
  /-- CAP_READ (R418). -/
  | capRead (addr : BitVec 32) (n : Nat)
  /-- READ_INDEX (R418). -/
  | readIndex (n : Nat)
  /-- PAIRING_RECORD (R421). -/
  | pairingRecord (serial : BitVec 64) (src : Fin 2) (chk : Word) (hash : Word)
  /-- MIRROR_FRAME (R422). -/
  | mirrorFrame (ok : Bool) (m : Mirror) (isl : Option Nat)
  /-- HANDOVER (R424). -/
  | handover (ready : Bool)
  /-- TOKEN_TAKEOVER (R424). -/
  | tokenTakeover
  /-- TWIN_LINK_LOST (R424). -/
  | twinLinkLost
  /-- STORE_END (R408). -/
  | storeEnd
  /-- CONNECTOR_OVERTEMPERATURE (R234). -/
  | connectorOvertemperature (out : Fin 8)
  /-- RAIL_RAMP_PAUSE (R266). -/
  | railRampPause (rail : Fin 4) (dV : BitVec 12)
  /-- RAIL_RAMPS_RESUME (R265). -/
  | railRampsResume (rail : Fin 4) (amps : List Nat)
  /-- PS_RAMP_COMPLETE (R261). -/
  | psRampComplete (chan : Fin 24)
  /-- PCIE_LINK_UP (R344). -/
  | pcieLinkUp (speed : Fin 3) (width : Fin 5)
  /-- REGISTER_READ (R49). -/
  | registerRead (offset : Nat)
  /-- MSIX_UNMASK (R341). -/
  | msixUnmask (vec : Fin 64)
  /-- KEY_RELEASED (R293). -/
  | keyReleased (allOpen : Bool)
  /-- PTP_SYNC_ANNOUNCE (R45). -/
  | ptpSyncAnnounce
deriving DecidableEq, Repr

end Sys2Proof
end

