-- ==== Sys2Proof/Decode.lean ====
section
/-!
DEFINITION. The commands that a word spells by the opcode table's bits. No row of the table gives bits: a command reaches the
module as an access, a frame, a pin event or the end of a time, and no word spells one.
-/

namespace Sys2Proof

/-- The command that `nbits` bits spell: none. -/
def decodeTableWord (_nbits _w : Nat) : Option Instr := none

end Sys2Proof
end

