-- ==== Sys2Proof/Machine/Bits.lean ====
section
/-!
DEFINITION. Bit-field, sign, saturation and check-value helpers, and the sparse table that registers are held in.
-/

namespace Sys2Proof.Machine

/-- Two's complement value of the low `w` bits of `n`. -/
def sext (w n : Nat) : Int :=
  if n % 2 ^ w < 2 ^ (w - 1) then ((n % 2 ^ w : Nat) : Int) else ((n % 2 ^ w : Nat) : Int) - ((2 ^ w : Nat) : Int)

/-- The `w`-bit two's complement code of `i`. -/
def enc (w : Nat) (i : Int) : Nat := (i % ((2 ^ w : Nat) : Int)).toNat

/-- `i` held inside the interval `lo` to `hi`. -/
def clampI (lo hi i : Int) : Int := max lo (min hi i)

/-- `i` saturated to a signed field of `w` bits. -/
def satS (w : Nat) (i : Int) : Int := clampI (-((2 ^ (w - 1) : Nat) : Int)) (((2 ^ (w - 1) : Nat) : Int) - 1) i

/-- `n` saturated to an unsigned field of `w` bits. -/
def satU (w n : Nat) : Nat := min n (2 ^ w - 1)

/-- Bit `k` of `n`. -/
def bit (n k : Nat) : Bool := n / 2 ^ k % 2 == 1

/-- `n` with bit `k` at `b`. -/
def setBit (n k : Nat) (b : Bool) : Nat := n - (if bit n k then 2 ^ k else 0) + (if b then 2 ^ k else 0)

/-- A Bool as a one-bit field. -/
def b2n (b : Bool) : Nat := if b then 1 else 0

/-- Bits `msb` to `lsb` of a register word. -/
def getBits (w : Word) (msb lsb : Nat) : Nat := w.toNat / 2 ^ lsb % 2 ^ (msb + 1 - lsb)

/-- The word `w` with bits `msb` to `lsb` at `v`. -/
def putBits (w : Word) (msb lsb v : Nat) : Word :=
  BitVec.ofNat 32
    (w.toNat % 2 ^ lsb + v % 2 ^ (msb + 1 - lsb) * 2 ^ lsb + w.toNat / 2 ^ (msb + 1) * 2 ^ (msb + 1))

/-- Integer division of `a` by `b`, rounded to the nearest, halves away from zero. -/
def divRound (a b : Int) : Int :=
  if a < 0 then -((2 * (-a) + b) / (2 * b)) else (2 * a + b) / (2 * b)

/-- Entry `i` of a list of instances. -/
def nth {α : Type} (d : α) (l : List α) (i : Nat) : α := l.getD i d

/-- A list of instances with entry `i` changed by `f`. -/
def upd {α : Type} (l : List α) (i : Nat) (f : α → α) : List α := l.modify i f

/-- Bytes of a little-endian buffer as a number. -/
def leNat : List Byte → Nat
  | [] => 0
  | b :: t => b.toNat + 256 * leNat t

/-- `n` bytes of a number, least significant first. -/
def toLE : Nat → Nat → List Byte
  | 0, _ => []
  | n + 1, v => BitVec.ofNat 8 v :: toLE n (v / 256)

/-- Bytes `at` to `at + len - 1` of a buffer as a little-endian number. -/
def leAt (b : List Byte) (start len : Nat) : Nat := leNat ((b.drop start).take len)

/-- A sparse table keyed by number: the value at `k`, or `d` where the table lists none. -/
def Sparse.get {α : Type} (d : α) : List (Nat × α) → Nat → α
  | [], _ => d
  | (k', v) :: t, k => if k = k' then v else if k < k' then d else Sparse.get d t k

/-- Write `v` at `k`, keeping keys rising and listing no entry equal to the unlisted value `d`. -/
def Sparse.put {α : Type} [DecidableEq α] (d : α) (k : Nat) (v : α) : List (Nat × α) → List (Nat × α)
  | [] => if v = d then [] else [(k, v)]
  | (k', v') :: t =>
    if k < k' then (if v = d then (k', v') :: t else (k, v) :: (k', v') :: t)
    else if k = k' then (if v = d then t else (k, v) :: t)
    else (k', v') :: Sparse.put d k v t

/-- The canonical form of a sparse table: keys strictly rising above `lo`, no entry at its unlisted value. -/
def Sparse.wfFrom {α : Type} [DecidableEq α] (d : Nat → α) : Option Nat → List (Nat × α) → Bool
  | _, [] => true
  | lo, (k, v) :: t =>
    (match lo with | none => true | some l => decide (l < k)) && decide (v ≠ d k) && Sparse.wfFrom d (some k) t

/-- CRC step of `w` bits with polynomial `poly`, most significant bit first. -/
def crcBits (w poly : Nat) : Nat → Nat → Nat
  | 0, c => c
  | n + 1, c => crcBits w poly n (if bit c (w - 1) then (c * 2 % 2 ^ w) ^^^ poly else c * 2 % 2 ^ w)

/-- CRC of `w` bits (8 or more) over bytes, most significant bit first. -/
def crcMsb (w poly init : Nat) (bs : List Byte) : Nat :=
  bs.foldl (fun c b => crcBits w poly 8 (c ^^^ (b.toNat * 2 ^ (w - 8)))) init

/-- CRC step with the reflected polynomial `poly`, least significant bit first. -/
def crcBitsR (poly : Nat) : Nat → Nat → Nat
  | 0, c => c
  | n + 1, c => crcBitsR poly n (if c % 2 == 1 then (c / 2) ^^^ poly else c / 2)

/-- CRC-32C over bytes: polynomial 0x1EDC_6F41 reflected, initial value and final inversion of all ones. -/
def crc32c (bs : List Byte) : Nat :=
  (bs.foldl (fun c b => crcBitsR 0x82F63B78 8 (c ^^^ b.toNat)) 0xFFFFFFFF) ^^^ 0xFFFFFFFF

end Sys2Proof.Machine
end

