-- ==== Sys2Proof/Machine/RegMap.lean ====
section
/-!
DEFINITION. Host-visible register space of BAR0: every register of the chapters' register tables, with its
offset, its fields, their access codes (spec/00 Table 0.3, R4 to R7) and their reset values.
-/

namespace Sys2Proof.Machine

/-- A field `NAME[msb:lsb]` of the register at a BAR0 offset (spec/00 R4). -/
structure Fld where
  reg : Nat
  msb : Nat
  lsb : Nat
deriving DecidableEq, Repr

/-- Access codes of spec/00 Table 0.3. -/
inductive Access where
  | rw | ro | w1c | w1s | wo | lk | siw | cnt
deriving DecidableEq, Repr

/-- Which instances a register counts, for the fitted instances of spec/00 R2. -/
inductive Inst where
  | none | link | out
deriving DecidableEq, Repr

/-- One field of a register table. -/
structure FieldSpec where
  msb : Nat
  lsb : Nat
  acc : List Access
  reset : Nat
deriving DecidableEq, Repr

/-- One register of a register table, with its instances as (stride, count) pairs, the widest stride first. -/
structure RegSpec where
  base : Nat
  dims : List (Nat × Nat)
  inst : Inst
  fields : List FieldSpec
deriving DecidableEq, Repr

/-- GLB_IDENT, Table 1.8. -/
abbrev R_GLB_IDENT : Nat := 0x00000
abbrev GLB_IDENT_VENDOR : Fld := ⟨R_GLB_IDENT, 31, 16⟩
abbrev GLB_IDENT_DEVICE : Fld := ⟨R_GLB_IDENT, 15, 0⟩
/-- GLB_HWREV, Table 1.9. -/
abbrev R_GLB_HWREV : Nat := 0x00004
abbrev GLB_HWREV_VARIANT : Fld := ⟨R_GLB_HWREV, 15, 8⟩
abbrev GLB_HWREV_REV : Fld := ⟨R_GLB_HWREV, 7, 0⟩
/-- GLB_FW_LEGAL, Table 1.10. -/
abbrev R_GLB_FW_LEGAL : Nat := 0x00008
abbrev GLB_FW_LEGAL_MAJOR : Fld := ⟨R_GLB_FW_LEGAL, 31, 24⟩
abbrev GLB_FW_LEGAL_MINOR : Fld := ⟨R_GLB_FW_LEGAL, 23, 16⟩
abbrev GLB_FW_LEGAL_BUILD : Fld := ⟨R_GLB_FW_LEGAL, 15, 0⟩
/-- GLB_FW_UPD, Table 1.10. -/
abbrev R_GLB_FW_UPD : Nat := 0x0000C
abbrev GLB_FW_UPD_MAJOR : Fld := ⟨R_GLB_FW_UPD, 31, 24⟩
abbrev GLB_FW_UPD_MINOR : Fld := ⟨R_GLB_FW_UPD, 23, 16⟩
abbrev GLB_FW_UPD_BUILD : Fld := ⟨R_GLB_FW_UPD, 15, 0⟩
/-- GLB_SERIAL_LO, Table 1.11. -/
abbrev R_GLB_SERIAL_LO : Nat := 0x00010
abbrev GLB_SERIAL_LO_SERIAL : Fld := ⟨R_GLB_SERIAL_LO, 31, 0⟩
/-- GLB_SERIAL_HI, Table 1.11. -/
abbrev R_GLB_SERIAL_HI : Nat := 0x00014
abbrev GLB_SERIAL_HI_SERIAL : Fld := ⟨R_GLB_SERIAL_HI, 31, 0⟩
/-- GLB_LIFECYCLE, Table 1.12. -/
abbrev R_GLB_LIFECYCLE : Nat := 0x00018
abbrev GLB_LIFECYCLE_STATE : Fld := ⟨R_GLB_LIFECYCLE, 1, 0⟩
/-- GLB_MODE, Table 1.13. -/
abbrev R_GLB_MODE : Nat := 0x0001C
abbrev GLB_MODE_ACT_PAUSE : Fld := ⟨R_GLB_MODE, 8, 8⟩
abbrev GLB_MODE_PREV : Fld := ⟨R_GLB_MODE, 7, 4⟩
abbrev GLB_MODE_MODE : Fld := ⟨R_GLB_MODE, 3, 0⟩
/-- GLB_CFG_COMMIT, Table 1.14. -/
abbrev R_GLB_CFG_COMMIT : Nat := 0x00020
abbrev GLB_CFG_COMMIT_COMMITTED : Fld := ⟨R_GLB_CFG_COMMIT, 1, 1⟩
abbrev GLB_CFG_COMMIT_COMMIT : Fld := ⟨R_GLB_CFG_COMMIT, 0, 0⟩
/-- GLB_CORE_STATE, Table 1.15. -/
abbrev R_GLB_CORE_STATE : Nat := 0x00024
abbrev GLB_CORE_STATE_GC : Fld := ⟨R_GLB_CORE_STATE, 15, 14⟩
abbrev GLB_CORE_STATE_CE1 : Fld := ⟨R_GLB_CORE_STATE, 13, 12⟩
abbrev GLB_CORE_STATE_CE0 : Fld := ⟨R_GLB_CORE_STATE, 11, 10⟩
abbrev GLB_CORE_STATE_VC1 : Fld := ⟨R_GLB_CORE_STATE, 9, 8⟩
abbrev GLB_CORE_STATE_VC0 : Fld := ⟨R_GLB_CORE_STATE, 7, 6⟩
abbrev GLB_CORE_STATE_MC : Fld := ⟨R_GLB_CORE_STATE, 5, 4⟩
abbrev GLB_CORE_STATE_KC : Fld := ⟨R_GLB_CORE_STATE, 3, 2⟩
abbrev GLB_CORE_STATE_SC : Fld := ⟨R_GLB_CORE_STATE, 1, 0⟩
/-- GLB_PD_STATE, Table 1.16. -/
abbrev R_GLB_PD_STATE : Nat := 0x00028
abbrev GLB_PD_STATE_PGOOD : Fld := ⟨R_GLB_PD_STATE, 25, 16⟩
abbrev GLB_PD_STATE_ON : Fld := ⟨R_GLB_PD_STATE, 9, 0⟩
/-- GLB_STATUS, Table 1.17. -/
abbrev R_GLB_STATUS : Nat := 0x0002C
abbrev GLB_STATUS_PD_LOST : Fld := ⟨R_GLB_STATUS, 2, 2⟩
abbrev GLB_STATUS_ISO_WR : Fld := ⟨R_GLB_STATUS, 1, 1⟩
abbrev GLB_STATUS_ZONE_DT : Fld := ⟨R_GLB_STATUS, 0, 0⟩
/-- GLB_ZONE_TEMP, Table 1.18. -/
abbrev R_GLB_ZONE_TEMP : Nat := 0x00030
abbrev GLB_ZONE_TEMP_DTMAX : Fld := ⟨R_GLB_ZONE_TEMP, 31, 24⟩
abbrev GLB_ZONE_TEMP_ZC : Fld := ⟨R_GLB_ZONE_TEMP, 23, 16⟩
abbrev GLB_ZONE_TEMP_ZB : Fld := ⟨R_GLB_ZONE_TEMP, 15, 8⟩
abbrev GLB_ZONE_TEMP_ZA : Fld := ⟨R_GLB_ZONE_TEMP, 7, 0⟩
/-- GLB_ISO_VIOL, Table 1.19. -/
abbrev R_GLB_ISO_VIOL : Nat := 0x00034
abbrev GLB_ISO_VIOL_SRC : Fld := ⟨R_GLB_ISO_VIOL, 31, 28⟩
abbrev GLB_ISO_VIOL_COUNT : Fld := ⟨R_GLB_ISO_VIOL, 27, 16⟩
abbrev GLB_ISO_VIOL_OFFSET : Fld := ⟨R_GLB_ISO_VIOL, 15, 0⟩
/-- FRM_CFG, Table 2.7. -/
abbrev R_FRM_CFG : Nat := 0x10000
abbrev FRM_CFG_LONG_FIBRE : Fld := ⟨R_FRM_CFG, 2, 2⟩
abbrev FRM_CFG_CF_SEL : Fld := ⟨R_FRM_CFG, 1, 0⟩
/-- FRM_STATUS, Table 2.8. -/
abbrev R_FRM_STATUS : Nat := 0x10004
abbrev FRM_STATUS_WINDOW : Fld := ⟨R_FRM_STATUS, 28, 16⟩
abbrev FRM_STATUS_CF_PER_SF : Fld := ⟨R_FRM_STATUS, 13, 0⟩
/-- FRM_SF_LO, Table 2.9. -/
abbrev R_FRM_SF_LO : Nat := 0x10008
abbrev FRM_SF_LO_SF_COUNT : Fld := ⟨R_FRM_SF_LO, 31, 0⟩
/-- FRM_SF_HI, Table 2.9. -/
abbrev R_FRM_SF_HI : Nat := 0x1000C
abbrev FRM_SF_HI_SF_COUNT : Fld := ⟨R_FRM_SF_HI, 31, 0⟩
/-- FRM_OVR, Table 2.10. -/
abbrev R_FRM_OVR : Nat := 0x10010
abbrev FRM_OVR_CE_LAW : Fld := ⟨R_FRM_OVR, 31, 24⟩
abbrev FRM_OVR_CE_SF : Fld := ⟨R_FRM_OVR, 23, 16⟩
abbrev FRM_OVR_MC_COMMIT : Fld := ⟨R_FRM_OVR, 15, 8⟩
abbrev FRM_OVR_GC : Fld := ⟨R_FRM_OVR, 7, 0⟩
/-- TIME_NS_LO, Table 2.11. -/
abbrev R_TIME_NS_LO : Nat := 0x10020
abbrev TIME_NS_LO_TAI_NS : Fld := ⟨R_TIME_NS_LO, 31, 0⟩
/-- TIME_NS_HI, Table 2.11. -/
abbrev R_TIME_NS_HI : Nat := 0x10024
abbrev TIME_NS_HI_TAI_NS : Fld := ⟨R_TIME_NS_HI, 31, 0⟩
/-- TIME_UTC, Table 2.12. -/
abbrev R_TIME_UTC : Nat := 0x10028
abbrev TIME_UTC_UTC_OFS : Fld := ⟨R_TIME_UTC, 15, 0⟩
/-- TIME_LEAP, Table 2.13. -/
abbrev R_TIME_LEAP : Nat := 0x1002C
abbrev TIME_LEAP_DIR : Fld := ⟨R_TIME_LEAP, 31, 31⟩
abbrev TIME_LEAP_AT_DAY : Fld := ⟨R_TIME_LEAP, 15, 0⟩
/-- TIME_STATUS, Table 2.14. -/
abbrev R_TIME_STATUS : Nat := 0x10030
abbrev TIME_STATUS_CLKCLASS : Fld := ⟨R_TIME_STATUS, 23, 16⟩
abbrev TIME_STATUS_GNSS_OK : Fld := ⟨R_TIME_STATUS, 5, 5⟩
abbrev TIME_STATUS_SLEWING : Fld := ⟨R_TIME_STATUS, 4, 4⟩
abbrev TIME_STATUS_VALID : Fld := ⟨R_TIME_STATUS, 3, 3⟩
abbrev TIME_STATUS_STATE : Fld := ⟨R_TIME_STATUS, 2, 0⟩
/-- TIME_CTRL, Table 2.15. -/
abbrev R_TIME_CTRL : Nat := 0x10034
abbrev TIME_CTRL_SLEW_RATE : Fld := ⟨R_TIME_CTRL, 23, 14⟩
abbrev TIME_CTRL_STEP_LIMIT : Fld := ⟨R_TIME_CTRL, 13, 10⟩
abbrev TIME_CTRL_BAUD : Fld := ⟨R_TIME_CTRL, 9, 8⟩
abbrev TIME_CTRL_REQ_VALID : Fld := ⟨R_TIME_CTRL, 3, 3⟩
abbrev TIME_CTRL_PPS_FREE : Fld := ⟨R_TIME_CTRL, 2, 2⟩
abbrev TIME_CTRL_PPS_EN : Fld := ⟨R_TIME_CTRL, 1, 1⟩
abbrev TIME_CTRL_GNSS_EN : Fld := ⟨R_TIME_CTRL, 0, 0⟩
/-- TIME_HOLD_ERR, Table 2.16. -/
abbrev R_TIME_HOLD_ERR : Nat := 0x10038
abbrev TIME_HOLD_ERR_ERR_NS : Fld := ⟨R_TIME_HOLD_ERR, 31, 0⟩
/-- TIME_LAST_STEP, Table 2.17. -/
abbrev R_TIME_LAST_STEP : Nat := 0x1003C
abbrev TIME_LAST_STEP_STEP_MS : Fld := ⟨R_TIME_LAST_STEP, 31, 0⟩
/-- TIME_OFFSET, Table 2.18. -/
abbrev R_TIME_OFFSET : Nat := 0x10040
abbrev TIME_OFFSET_OFS_NS : Fld := ⟨R_TIME_OFFSET, 31, 0⟩
/-- TICK_PHASE, Table 2.19. -/
abbrev R_TICK_PHASE : Nat := 0x10044
abbrev TICK_PHASE_PHASE_NS : Fld := ⟨R_TICK_PHASE, 19, 0⟩
/-- GNSS_DLY, Table 2.20. -/
abbrev R_GNSS_DLY : Nat := 0x10048
abbrev GNSS_DLY_DLY_NS : Fld := ⟨R_GNSS_DLY, 15, 0⟩
/-- PTP_CFG0, Table 2.21. -/
abbrev R_PTP_CFG0 : Nat := 0x10050
abbrev PTP_CFG0_PRIO1 : Fld := ⟨R_PTP_CFG0, 31, 24⟩
abbrev PTP_CFG0_PRIO2 : Fld := ⟨R_PTP_CFG0, 23, 16⟩
abbrev PTP_CFG0_DOMAIN : Fld := ⟨R_PTP_CFG0, 15, 9⟩
abbrev PTP_CFG0_PROFILE : Fld := ⟨R_PTP_CFG0, 1, 1⟩
abbrev PTP_CFG0_EN : Fld := ⟨R_PTP_CFG0, 0, 0⟩
/-- PTP_CFG1, Table 2.21. -/
abbrev R_PTP_CFG1 : Nat := 0x10054
abbrev PTP_CFG1_PRIO1 : Fld := ⟨R_PTP_CFG1, 31, 24⟩
abbrev PTP_CFG1_PRIO2 : Fld := ⟨R_PTP_CFG1, 23, 16⟩
abbrev PTP_CFG1_DOMAIN : Fld := ⟨R_PTP_CFG1, 15, 9⟩
abbrev PTP_CFG1_PROFILE : Fld := ⟨R_PTP_CFG1, 1, 1⟩
abbrev PTP_CFG1_EN : Fld := ⟨R_PTP_CFG1, 0, 0⟩
/-- CQ_GCFG, Table 3.16. -/
abbrev R_CQ_GCFG : Nat := 0x20000
abbrev CQ_GCFG_TWIN_EN : Fld := ⟨R_CQ_GCFG, 2, 2⟩
abbrev CQ_GCFG_SRC_ID : Fld := ⟨R_CQ_GCFG, 1, 1⟩
abbrev CQ_GCFG_TOK : Fld := ⟨R_CQ_GCFG, 0, 0⟩
/-- CQ_EN_LO, Table 3.17. -/
abbrev R_CQ_EN_LO : Nat := 0x20004
abbrev CQ_EN_LO_EN : Fld := ⟨R_CQ_EN_LO, 31, 0⟩
/-- CQ_EN_HI, Table 3.17. -/
abbrev R_CQ_EN_HI : Nat := 0x20008
abbrev CQ_EN_HI_EN : Fld := ⟨R_CQ_EN_HI, 15, 0⟩
/-- CQ_STOP_LO, Table 3.18. -/
abbrev R_CQ_STOP_LO : Nat := 0x2000C
abbrev CQ_STOP_LO_STOP : Fld := ⟨R_CQ_STOP_LO, 31, 0⟩
/-- CQ_STOP_HI, Table 3.18. -/
abbrev R_CQ_STOP_HI : Nat := 0x20010
abbrev CQ_STOP_HI_STOP : Fld := ⟨R_CQ_STOP_HI, 15, 0⟩
/-- CQ_CTRL, Table 3.19. -/
abbrev R_CQ_CTRL (n : Nat) : Nat := 0x21000 + n * 0x20
abbrev CQ_CTRL_RETRAIN (n : Nat) : Fld := ⟨R_CQ_CTRL n, 0, 0⟩
/-- CQ_STATE, Table 3.20. -/
abbrev R_CQ_STATE (n : Nat) : Nat := 0x21004 + n * 0x20
abbrev CQ_STATE_DSEQ (n : Nat) : Fld := ⟨R_CQ_STATE n, 31, 24⟩
abbrev CQ_STATE_USEQ (n : Nat) : Fld := ⟨R_CQ_STATE n, 23, 16⟩
abbrev CQ_STATE_OBEYS (n : Nat) : Fld := ⟨R_CQ_STATE n, 12, 12⟩
abbrev CQ_STATE_FLT (n : Nat) : Fld := ⟨R_CQ_STATE n, 11, 11⟩
abbrev CQ_STATE_BSTATE (n : Nat) : Fld := ⟨R_CQ_STATE n, 10, 8⟩
abbrev CQ_STATE_LSTATE (n : Nat) : Fld := ⟨R_CQ_STATE n, 2, 0⟩
/-- CQ_DELAY, Table 3.21. -/
abbrev R_CQ_DELAY (n : Nat) : Nat := 0x21008 + n * 0x20
abbrev CQ_DELAY_TURN (n : Nat) : Fld := ⟨R_CQ_DELAY n, 31, 16⟩
abbrev CQ_DELAY_DLY (n : Nat) : Fld := ⟨R_CQ_DELAY n, 15, 0⟩
/-- CQ_ERR, Table 3.22. -/
abbrev R_CQ_ERR (n : Nat) : Nat := 0x2100C + n * 0x20
abbrev CQ_ERR_CRC (n : Nat) : Fld := ⟨R_CQ_ERR n, 31, 24⟩
abbrev CQ_ERR_MISS (n : Nat) : Fld := ⟨R_CQ_ERR n, 23, 16⟩
abbrev CQ_ERR_SEQ (n : Nat) : Fld := ⟨R_CQ_ERR n, 15, 8⟩
abbrev CQ_ERR_CODE (n : Nat) : Fld := ⟨R_CQ_ERR n, 7, 0⟩
/-- CQ_BLK, Table 3.23. -/
abbrev R_CQ_BLK (n : Nat) : Nat := 0x21010 + n * 0x20
abbrev CQ_BLK_FREQ (n : Nat) : Fld := ⟨R_CQ_BLK n, 31, 16⟩
abbrev CQ_BLK_FAULT (n : Nat) : Fld := ⟨R_CQ_BLK n, 11, 0⟩
/-- CQ_ID_LO, Table 3.24. -/
abbrev R_CQ_ID_LO (n : Nat) : Nat := 0x21014 + n * 0x20
abbrev CQ_ID_LO_ID (n : Nat) : Fld := ⟨R_CQ_ID_LO n, 31, 0⟩
/-- CQ_ID_HI, Table 3.24. -/
abbrev R_CQ_ID_HI (n : Nat) : Nat := 0x21018 + n * 0x20
abbrev CQ_ID_HI_ID (n : Nat) : Fld := ⟨R_CQ_ID_HI n, 31, 0⟩
/-- CE_GCFG, Table 4.11. -/
abbrev R_CE_GCFG : Nat := 0x30000
abbrev CE_GCFG_LIVE_COEF : Fld := ⟨R_CE_GCFG, 0, 0⟩
/-- CE_CTRL, Table 4.12. -/
abbrev R_CE_CTRL (c : Nat) : Nat := 0x30100 + c * 0x100
abbrev CE_CTRL_SWAP (c : Nat) : Fld := ⟨R_CE_CTRL c, 0, 0⟩
/-- CE_STATUS, Table 4.13. -/
abbrev R_CE_STATUS (c : Nat) : Nat := 0x30104 + c * 0x100
abbrev CE_STATUS_LAW_ID (c : Nat) : Fld := ⟨R_CE_STATUS c, 31, 16⟩
abbrev CE_STATUS_OVR_RUN (c : Nat) : Fld := ⟨R_CE_STATUS c, 5, 4⟩
abbrev CE_STATUS_LAT (c : Nat) : Fld := ⟨R_CE_STATUS c, 3, 2⟩
abbrev CE_STATUS_STATE (c : Nat) : Fld := ⟨R_CE_STATUS c, 1, 0⟩
/-- CE_CYC, Table 4.14. -/
abbrev R_CE_CYC (c : Nat) : Nat := 0x30108 + c * 0x100
abbrev CE_CYC_PEAK (c : Nat) : Fld := ⟨R_CE_CYC c, 31, 16⟩
abbrev CE_CYC_STATIC (c : Nat) : Fld := ⟨R_CE_CYC c, 15, 0⟩
/-- CE_SAT, Table 4.15. -/
abbrev R_CE_SAT (c : Nat) : Nat := 0x3010C + c * 0x100
abbrev CE_SAT_LANE (c : Nat) : Fld := ⟨R_CE_SAT c, 31, 0⟩
/-- CE_RUN, Table 4.16. -/
abbrev R_CE_RUN (c : Nat) : Nat := 0x30110 + c * 0x100
abbrev CE_RUN_LANE (c : Nat) : Fld := ⟨R_CE_RUN c, 31, 0⟩
/-- CE_VALID, Table 4.16. -/
abbrev R_CE_VALID (c : Nat) : Nat := 0x30114 + c * 0x100
abbrev CE_VALID_LANE (c : Nat) : Fld := ⟨R_CE_VALID c, 31, 0⟩
/-- CE_FRZ, Table 4.17. -/
abbrev R_CE_FRZ (c : Nat) : Nat := 0x30118 + c * 0x100
abbrev CE_FRZ_FRZ_DI (c : Nat) : Fld := ⟨R_CE_FRZ c, 14, 8⟩
abbrev CE_FRZ_FRZ_N (c : Nat) : Fld := ⟨R_CE_FRZ c, 6, 0⟩
/-- CE_SOFT, Table 4.18. -/
abbrev R_CE_SOFT (c : Nat) : Nat := 0x3011C + c * 0x100
abbrev CE_SOFT_BLK_SF (c : Nat) : Fld := ⟨R_CE_SOFT c, 23, 16⟩
abbrev CE_SOFT_RATE (c : Nat) : Fld := ⟨R_CE_SOFT c, 15, 0⟩
/-- CE_EXCL, Table 4.19. -/
abbrev R_CE_EXCL (c : Nat) : Nat := 0x30120 + c * 0x100
abbrev CE_EXCL_LANE (c : Nat) : Fld := ⟨R_CE_EXCL c, 23, 0⟩
/-- CE_CLAMP, Table 4.20. -/
abbrev R_CE_CLAMP (c j : Nat) : Nat := 0x30124 + c * 0x100 + j * 0x4
abbrev CE_CLAMP_ILIM (c j : Nat) : Fld := ⟨R_CE_CLAMP c j, 19, 0⟩
/-- CUP_CFG, Table 4.21. -/
abbrev R_CUP_CFG (c b : Nat) : Nat := 0x31000 + c * 0x200 + b * 0x40
abbrev CUP_CFG_TRIG (c b : Nat) : Fld := ⟨R_CUP_CFG c b, 17, 17⟩
abbrev CUP_CFG_ARM (c b : Nat) : Fld := ⟨R_CUP_CFG c b, 16, 16⟩
abbrev CUP_CFG_GRP (c b : Nat) : Fld := ⟨R_CUP_CFG c b, 15, 12⟩
abbrev CUP_CFG_DEC (c b : Nat) : Fld := ⟨R_CUP_CFG c b, 11, 2⟩
abbrev CUP_CFG_MODE (c b : Nat) : Fld := ⟨R_CUP_CFG c b, 1, 0⟩
/-- CUP_SRC, Table 4.22. -/
abbrev R_CUP_SRC (c b : Nat) : Nat := 0x31004 + c * 0x200 + b * 0x40
abbrev CUP_SRC_LANE (c b : Nat) : Fld := ⟨R_CUP_SRC c b, 12, 8⟩
abbrev CUP_SRC_OPND (c b : Nat) : Fld := ⟨R_CUP_SRC c b, 6, 0⟩
/-- CUP_TRIG, Table 4.23. -/
abbrev R_CUP_TRIG (c b : Nat) : Nat := 0x31008 + c * 0x200 + b * 0x40
abbrev CUP_TRIG_CODE (c b : Nat) : Fld := ⟨R_CUP_TRIG c b, 31, 16⟩
abbrev CUP_TRIG_KIND (c b : Nat) : Fld := ⟨R_CUP_TRIG c b, 2, 0⟩
/-- CUP_LEVEL, Table 4.24. -/
abbrev R_CUP_LEVEL (c b : Nat) : Nat := 0x3100C + c * 0x200 + b * 0x40
abbrev CUP_LEVEL_MANT (c b : Nat) : Fld := ⟨R_CUP_LEVEL c b, 31, 8⟩
abbrev CUP_LEVEL_EXP (c b : Nat) : Fld := ⟨R_CUP_LEVEL c b, 7, 0⟩
/-- CUP_PRE, Table 4.25. -/
abbrev R_CUP_PRE (c b : Nat) : Nat := 0x31010 + c * 0x200 + b * 0x40
abbrev CUP_PRE_PRE (c b : Nat) : Fld := ⟨R_CUP_PRE c b, 15, 0⟩
/-- CUP_STAT, Table 4.26. -/
abbrev R_CUP_STAT (c b : Nat) : Nat := 0x31014 + c * 0x200 + b * 0x40
abbrev CUP_STAT_GAPS (c b : Nat) : Fld := ⟨R_CUP_STAT c b, 31, 16⟩
abbrev CUP_STAT_STATE (c b : Nat) : Fld := ⟨R_CUP_STAT c b, 2, 0⟩
/-- CE_CV, Table 4.27. -/
abbrev R_CE_CV (c v l : Nat) : Nat := 0x38000 + c * 0x4000 + v * 0x80 + l * 0x4
abbrev CE_CV_MANT (c v l : Nat) : Fld := ⟨R_CE_CV c v l, 23, 0⟩
/-- CE_CVE, Table 4.28. -/
abbrev R_CE_CVE (c v : Nat) : Nat := 0x3A000 + c * 0x4000 + v * 0x4
abbrev CE_CVE_EXP (c v : Nat) : Fld := ⟨R_CE_CVE c v, 7, 0⟩
/-- SH_SITE_CFG, Table 5.4. -/
abbrev R_SH_SITE_CFG : Nat := 0x40000
abbrev SH_SITE_CFG_SITE_PCAP : Fld := ⟨R_SH_SITE_CFG, 15, 0⟩
/-- SH_ASSIGN, Table 5.5. -/
abbrev R_SH_ASSIGN : Nat := 0x40004
abbrev SH_ASSIGN_RELEASE : Fld := ⟨R_SH_ASSIGN, 23, 16⟩
abbrev SH_ASSIGN_MARGIN : Fld := ⟨R_SH_ASSIGN, 15, 8⟩
abbrev SH_ASSIGN_MAXMOVE : Fld := ⟨R_SH_ASSIGN, 3, 0⟩
/-- SH_STATUS, Table 5.6. -/
abbrev R_SH_STATUS : Nat := 0x40008
abbrev SH_STATUS_HOLD : Fld := ⟨R_SH_STATUS, 8, 8⟩
abbrev SH_STATUS_FEED_HARM : Fld := ⟨R_SH_STATUS, 7, 6⟩
abbrev SH_STATUS_FEED_LIM : Fld := ⟨R_SH_STATUS, 5, 4⟩
abbrev SH_STATUS_DEG : Fld := ⟨R_SH_STATUS, 3, 3⟩
abbrev SH_STATUS_SITE_LIM : Fld := ⟨R_SH_STATUS, 2, 2⟩
abbrev SH_STATUS_ACTIVE : Fld := ⟨R_SH_STATUS, 1, 0⟩
/-- SH_SITE_P, Table 5.7. -/
abbrev R_SH_SITE_P : Nat := 0x4000C
abbrev SH_SITE_P_ALLOC : Fld := ⟨R_SH_SITE_P, 31, 16⟩
abbrev SH_SITE_P_BUDGET : Fld := ⟨R_SH_SITE_P, 15, 0⟩
/-- FEED_CFG, Table 5.8. -/
abbrev R_FEED_CFG (f : Nat) : Nat := 0x40020 + f * 0x20
abbrev FEED_CFG_ETA (f : Nat) : Fld := ⟨R_FEED_CFG f, 25, 16⟩
abbrev FEED_CFG_PLIM (f : Nat) : Fld := ⟨R_FEED_CFG f, 15, 0⟩
/-- FEED_HCTL, Table 5.9. -/
abbrev R_FEED_HCTL (f : Nat) : Nat := 0x40024 + f * 0x20
abbrev FEED_HCTL_FLOOR (f : Nat) : Fld := ⟨R_FEED_HCTL f, 31, 24⟩
abbrev FEED_HCTL_STEP (f : Nat) : Fld := ⟨R_FEED_HCTL f, 23, 16⟩
abbrev FEED_HCTL_IR (f : Nat) : Fld := ⟨R_FEED_HCTL f, 15, 0⟩
/-- FEED_HARM, Table 5.10. -/
abbrev R_FEED_HARM (f : Nat) : Nat := 0x40028 + f * 0x20
abbrev FEED_HARM_TDD_LIM (f : Nat) : Fld := ⟨R_FEED_HARM f, 31, 24⟩
abbrev FEED_HARM_LOW_LIM (f : Nat) : Fld := ⟨R_FEED_HARM f, 23, 16⟩
abbrev FEED_HARM_HIGH_LIM (f : Nat) : Fld := ⟨R_FEED_HARM f, 15, 8⟩
/-- FEED_STAT, Table 5.11. -/
abbrev R_FEED_STAT (f : Nat) : Nat := 0x4002C + f * 0x20
abbrev FEED_STAT_HFACT (f : Nat) : Fld := ⟨R_FEED_STAT f, 31, 24⟩
abbrev FEED_STAT_BUDGET (f : Nat) : Fld := ⟨R_FEED_STAT f, 15, 0⟩
/-- FEED_EXP, Table 5.12. -/
abbrev R_FEED_EXP (f : Nat) : Nat := 0x40030 + f * 0x20
abbrev FEED_EXP_PEXP (f : Nat) : Fld := ⟨R_FEED_EXP f, 15, 0⟩
/-- OUT_CFG, Table 5.13. -/
abbrev R_OUT_CFG (j : Nat) : Nat := 0x40100 + j * 0x40
abbrev OUT_CFG_PRIO (j : Nat) : Fld := ⟨R_OUT_CFG j, 25, 24⟩
abbrev OUT_CFG_VC (j : Nat) : Fld := ⟨R_OUT_CFG j, 19, 19⟩
abbrev OUT_CFG_CE (j : Nat) : Fld := ⟨R_OUT_CFG j, 18, 18⟩
abbrev OUT_CFG_TYPE (j : Nat) : Fld := ⟨R_OUT_CFG j, 17, 17⟩
abbrev OUT_CFG_EN (j : Nat) : Fld := ⟨R_OUT_CFG j, 16, 16⟩
abbrev OUT_CFG_VMAX (j : Nat) : Fld := ⟨R_OUT_CFG j, 10, 0⟩
/-- OUT_IRAT, Table 5.14. -/
abbrev R_OUT_IRAT (j : Nat) : Nat := 0x40104 + j * 0x40
abbrev OUT_IRAT_I_UNCOOLED (j : Nat) : Fld := ⟨R_OUT_IRAT j, 31, 16⟩
abbrev OUT_IRAT_I_COOLED (j : Nat) : Fld := ⟨R_OUT_IRAT j, 15, 0⟩
/-- OUT_RAMP, Table 5.15. -/
abbrev R_OUT_RAMP (j : Nat) : Nat := 0x40108 + j * 0x40
abbrev OUT_RAMP_RATE (j : Nat) : Fld := ⟨R_OUT_RAMP j, 15, 0⟩
/-- OUT_DER, Table 5.16. -/
abbrev R_OUT_DER (j : Nat) : Nat := 0x4010C + j * 0x40
abbrev OUT_DER_TC_ZERO (j : Nat) : Fld := ⟨R_OUT_DER j, 31, 24⟩
abbrev OUT_DER_TC_DR (j : Nat) : Fld := ⟨R_OUT_DER j, 23, 16⟩
abbrev OUT_DER_T_ZERO (j : Nat) : Fld := ⟨R_OUT_DER j, 15, 8⟩
abbrev OUT_DER_T_DR (j : Nat) : Fld := ⟨R_OUT_DER j, 7, 0⟩
/-- OUT_PT, Table 5.17. -/
abbrev R_OUT_PT (j : Nat) : Nat := 0x40110 + j * 0x40
abbrev OUT_PT_ROLE (j : Nat) : Fld := ⟨R_OUT_PT j, 7, 0⟩
/-- OUT_COOL, Table 5.18. -/
abbrev R_OUT_COOL (j : Nat) : Nat := 0x40114 + j * 0x40
abbrev OUT_COOL_FAN2 (j : Nat) : Fld := ⟨R_OUT_COOL j, 20, 16⟩
abbrev OUT_COOL_FAN1 (j : Nat) : Fld := ⟨R_OUT_COOL j, 12, 8⟩
abbrev OUT_COOL_PUMP (j : Nat) : Fld := ⟨R_OUT_COOL j, 4, 0⟩
/-- OUT_COOLT, Table 5.19. -/
abbrev R_OUT_COOLT (j : Nat) : Nat := 0x40118 + j * 0x40
abbrev OUT_COOLT_RUNON (j : Nat) : Fld := ⟨R_OUT_COOLT j, 31, 24⟩
abbrev OUT_COOLT_DT_MAX (j : Nat) : Fld := ⟨R_OUT_COOLT j, 23, 16⟩
abbrev OUT_COOLT_TF2 (j : Nat) : Fld := ⟨R_OUT_COOLT j, 15, 8⟩
abbrev OUT_COOLT_TF1 (j : Nat) : Fld := ⟨R_OUT_COOLT j, 7, 0⟩
/-- OUT_PUMPW, Table 5.20. -/
abbrev R_OUT_PUMPW (j : Nat) : Nat := 0x4011C + j * 0x40
abbrev OUT_PUMPW_IMAX (j : Nat) : Fld := ⟨R_OUT_PUMPW j, 31, 16⟩
abbrev OUT_PUMPW_IMIN (j : Nat) : Fld := ⟨R_OUT_PUMPW j, 15, 0⟩
/-- OUT_STAT, Table 5.21. -/
abbrev R_OUT_STAT (j : Nat) : Nat := 0x40120 + j * 0x40
abbrev OUT_STAT_DERATE (j : Nat) : Fld := ⟨R_OUT_STAT j, 31, 24⟩
abbrev OUT_STAT_NBLK (j : Nat) : Fld := ⟨R_OUT_STAT j, 23, 16⟩
abbrev OUT_STAT_LIMBY (j : Nat) : Fld := ⟨R_OUT_STAT j, 15, 8⟩
abbrev OUT_STAT_MARGIN_LOW (j : Nat) : Fld := ⟨R_OUT_STAT j, 7, 7⟩
abbrev OUT_STAT_COOL_FAIL (j : Nat) : Fld := ⟨R_OUT_STAT j, 6, 6⟩
abbrev OUT_STAT_BND (j : Nat) : Fld := ⟨R_OUT_STAT j, 3, 0⟩
/-- OUT_GRANT, Table 5.22. -/
abbrev R_OUT_GRANT (j : Nat) : Nat := 0x40124 + j * 0x40
abbrev OUT_GRANT_VAL (j : Nat) : Fld := ⟨R_OUT_GRANT j, 19, 0⟩
/-- OUT_ILIM, Table 5.22. -/
abbrev R_OUT_ILIM (j : Nat) : Nat := 0x40128 + j * 0x40
abbrev OUT_ILIM_VAL (j : Nat) : Fld := ⟨R_OUT_ILIM j, 19, 0⟩
/-- OUT_PWR, Table 5.23. -/
abbrev R_OUT_PWR (j : Nat) : Nat := 0x4012C + j * 0x40
abbrev OUT_PWR_GRANT (j : Nat) : Fld := ⟨R_OUT_PWR j, 31, 16⟩
abbrev OUT_PWR_MEAS (j : Nat) : Fld := ⟨R_OUT_PWR j, 15, 0⟩
/-- OUT_TEMP, Table 5.24. -/
abbrev R_OUT_TEMP (j : Nat) : Nat := 0x40130 + j * 0x40
abbrev OUT_TEMP_RET (j : Nat) : Fld := ⟨R_OUT_TEMP j, 31, 24⟩
abbrev OUT_TEMP_SUP (j : Nat) : Fld := ⟨R_OUT_TEMP j, 23, 16⟩
abbrev OUT_TEMP_PINN (j : Nat) : Fld := ⟨R_OUT_TEMP j, 15, 8⟩
abbrev OUT_TEMP_PINP (j : Nat) : Fld := ⟨R_OUT_TEMP j, 7, 0⟩
/-- BND_CFG, Table 5.25. -/
abbrev R_BND_CFG (b : Nat) : Nat := 0x40300 + b * 0x10
abbrev BND_CFG_MEMBERS (b : Nat) : Fld := ⟨R_BND_CFG b, 7, 0⟩
/-- BND_STAT, Table 5.26. -/
abbrev R_BND_STAT (b : Nat) : Nat := 0x40304 + b * 0x10
abbrev BND_STAT_ACTIVE (b : Nat) : Fld := ⟨R_BND_STAT b, 31, 31⟩
abbrev BND_STAT_IN_SESSION (b : Nat) : Fld := ⟨R_BND_STAT b, 7, 0⟩
/-- BND_GRANT, Table 5.27. -/
abbrev R_BND_GRANT (b : Nat) : Nat := 0x40308 + b * 0x10
abbrev BND_GRANT_VAL (b : Nat) : Fld := ⟨R_BND_GRANT b, 19, 0⟩
/-- BND_ILIM, Table 5.27. -/
abbrev R_BND_ILIM (b : Nat) : Nat := 0x4030C + b * 0x10
abbrev BND_ILIM_VAL (b : Nat) : Fld := ⟨R_BND_ILIM b, 19, 0⟩
/-- MX_WIRE, Table 5.28. -/
abbrev R_MX_WIRE (n : Nat) : Nat := 0x40400 + n * 0x4
abbrev MX_WIRE_CE (n : Nat) : Fld := ⟨R_MX_WIRE n, 9, 9⟩
abbrev MX_WIRE_FEED (n : Nat) : Fld := ⟨R_MX_WIRE n, 8, 8⟩
abbrev MX_WIRE_WIRED (n : Nat) : Fld := ⟨R_MX_WIRE n, 7, 0⟩
/-- MX_ASG, Table 5.29. -/
abbrev R_MX_ASG (n : Nat) : Nat := 0x40500 + n * 0x4
abbrev MX_ASG_MX_STATE (n : Nat) : Fld := ⟨R_MX_ASG n, 23, 16⟩
abbrev MX_ASG_STEP (n : Nat) : Fld := ⟨R_MX_ASG n, 11, 8⟩
abbrev MX_ASG_DEST (n : Nat) : Fld := ⟨R_MX_ASG n, 7, 4⟩
abbrev MX_ASG_OUT (n : Nat) : Fld := ⟨R_MX_ASG n, 3, 0⟩
/-- MX_EXCL_LO, Table 5.30. -/
abbrev R_MX_EXCL_LO : Nat := 0x40600
abbrev MX_EXCL_LO_LINK : Fld := ⟨R_MX_EXCL_LO, 31, 0⟩
/-- MX_EXCL_HI, Table 5.30. -/
abbrev R_MX_EXCL_HI : Nat := 0x40604
abbrev MX_EXCL_HI_LINK : Fld := ⟨R_MX_EXCL_HI, 31, 0⟩
/-- VD_GCFG, Table 6.12. -/
abbrev R_VD_GCFG : Nat := 0x50000
abbrev VD_GCFG_JOIN_WIN : Fld := ⟨R_VD_GCFG, 31, 24⟩
abbrev VD_GCFG_RESUME_WIN : Fld := ⟨R_VD_GCFG, 23, 16⟩
abbrev VD_GCFG_PPRIO : Fld := ⟨R_VD_GCFG, 5, 4⟩
abbrev VD_GCFG_RETRY : Fld := ⟨R_VD_GCFG, 1, 0⟩
/-- VD_TMO0, Table 6.13. -/
abbrev R_VD_TMO0 : Nat := 0x50004
abbrev VD_TMO0_SLAC_TMO : Fld := ⟨R_VD_TMO0, 31, 24⟩
abbrev VD_TMO0_CERT_TMO : Fld := ⟨R_VD_TMO0, 23, 16⟩
abbrev VD_TMO0_AUTH_TMO : Fld := ⟨R_VD_TMO0, 15, 0⟩
/-- VD_TMO1, Table 6.14. -/
abbrev R_VD_TMO1 : Nat := 0x50008
abbrev VD_TMO1_CC_TMO : Fld := ⟨R_VD_TMO1, 31, 24⟩
abbrev VD_TMO1_PC_TMO : Fld := ⟨R_VD_TMO1, 23, 16⟩
abbrev VD_TMO1_STOP_TMO : Fld := ⟨R_VD_TMO1, 15, 8⟩
abbrev VD_TMO1_LOOP_TMO : Fld := ⟨R_VD_TMO1, 7, 0⟩
/-- VD_CFG, Table 6.15. -/
abbrev R_VD_CFG (j : Nat) : Nat := 0x50100 + j * 0x40
abbrev VD_CFG_LOCK (j : Nat) : Fld := ⟨R_VD_CFG j, 23, 19⟩
abbrev VD_CFG_ISO2_TLS (j : Nat) : Fld := ⟨R_VD_CFG j, 15, 15⟩
abbrev VD_CFG_BPT (j : Nat) : Fld := ⟨R_VD_CFG j, 12, 12⟩
abbrev VD_CFG_PNC (j : Nat) : Fld := ⟨R_VD_CFG j, 11, 11⟩
abbrev VD_CFG_EIM (j : Nat) : Fld := ⟨R_VD_CFG j, 10, 10⟩
abbrev VD_CFG_D_OK (j : Nat) : Fld := ⟨R_VD_CFG j, 9, 9⟩
abbrev VD_CFG_ISO20 (j : Nat) : Fld := ⟨R_VD_CFG j, 2, 2⟩
abbrev VD_CFG_ISO2 (j : Nat) : Fld := ⟨R_VD_CFG j, 1, 1⟩
abbrev VD_CFG_DIN (j : Nat) : Fld := ⟨R_VD_CFG j, 0, 0⟩
/-- VD_STAT, Table 6.16. -/
abbrev R_VD_STAT (j : Nat) : Nat := 0x50104 + j * 0x40
abbrev VD_STAT_REASON (j : Nat) : Fld := ⟨R_VD_STAT j, 31, 27⟩
abbrev VD_STAT_TLS (j : Nat) : Fld := ⟨R_VD_STAT j, 26, 26⟩
abbrev VD_STAT_PROTO (j : Nat) : Fld := ⟨R_VD_STAT j, 25, 24⟩
abbrev VD_STAT_PILOT (j : Nat) : Fld := ⟨R_VD_STAT j, 23, 20⟩
abbrev VD_STAT_LINK (j : Nat) : Fld := ⟨R_VD_STAT j, 19, 19⟩
abbrev VD_STAT_JOINED (j : Nat) : Fld := ⟨R_VD_STAT j, 18, 18⟩
abbrev VD_STAT_SSTATE (j : Nat) : Fld := ⟨R_VD_STAT j, 3, 0⟩
/-- VD_PILOT, Table 6.17. -/
abbrev R_VD_PILOT (j : Nat) : Nat := 0x50108 + j * 0x40
abbrev VD_PILOT_LOW (j : Nat) : Fld := ⟨R_VD_PILOT j, 31, 16⟩
abbrev VD_PILOT_HIGH (j : Nat) : Fld := ⟨R_VD_PILOT j, 15, 0⟩
/-- VD_EVI, Table 6.17. -/
abbrev R_VD_EVI (j : Nat) : Nat := 0x5010C + j * 0x40
abbrev VD_EVI_IMAX (j : Nat) : Fld := ⟨R_VD_EVI j, 31, 16⟩
abbrev VD_EVI_ITGT (j : Nat) : Fld := ⟨R_VD_EVI j, 15, 0⟩
/-- VD_EVV, Table 6.17. -/
abbrev R_VD_EVV (j : Nat) : Nat := 0x50110 + j * 0x40
abbrev VD_EVV_VMAX (j : Nat) : Fld := ⟨R_VD_EVV j, 31, 16⟩
abbrev VD_EVV_VTGT (j : Nat) : Fld := ⟨R_VD_EVV j, 15, 0⟩
/-- VD_EVP, Table 6.17. -/
abbrev R_VD_EVP (j : Nat) : Nat := 0x50114 + j * 0x40
abbrev VD_EVP_PDMAX (j : Nat) : Fld := ⟨R_VD_EVP j, 31, 16⟩
abbrev VD_EVP_PMAX (j : Nat) : Fld := ⟨R_VD_EVP j, 15, 0⟩
/-- VD_EVSE, Table 6.17. -/
abbrev R_VD_EVSE (j : Nat) : Nat := 0x50118 + j * 0x40
abbrev VD_EVSE_ILIM (j : Nat) : Fld := ⟨R_VD_EVSE j, 31, 16⟩
abbrev VD_EVSE_IDLIM (j : Nat) : Fld := ⟨R_VD_EVSE j, 15, 0⟩
/-- VD_EVCC_LO, Table 6.17. -/
abbrev R_VD_EVCC_LO (j : Nat) : Nat := 0x5011C + j * 0x40
abbrev VD_EVCC_LO_EVCCID (j : Nat) : Fld := ⟨R_VD_EVCC_LO j, 31, 0⟩
/-- VD_EVCC_HI, Table 6.17. -/
abbrev R_VD_EVCC_HI (j : Nat) : Nat := 0x50120 + j * 0x40
abbrev VD_EVCC_HI_EVCCID (j : Nat) : Fld := ⟨R_VD_EVCC_HI j, 15, 0⟩
/-- VD_SESS, Table 6.17. -/
abbrev R_VD_SESS (j : Nat) : Nat := 0x50124 + j * 0x40
abbrev VD_SESS_SESSION (j : Nat) : Fld := ⟨R_VD_SESS j, 31, 0⟩
/-- VD_DYN, Table 6.17. -/
abbrev R_VD_DYN (j : Nat) : Nat := 0x50128 + j * 0x40
abbrev VD_DYN_EN (j : Nat) : Fld := ⟨R_VD_DYN j, 31, 31⟩
abbrev VD_DYN_PSET (j : Nat) : Fld := ⟨R_VD_DYN j, 15, 0⟩
/-- VD_CTRL, Table 6.17. -/
abbrev R_VD_CTRL (j : Nat) : Nat := 0x5012C + j * 0x40
abbrev VD_CTRL_JOIN_OUT (j : Nat) : Fld := ⟨R_VD_CTRL j, 11, 8⟩
abbrev VD_CTRL_JOIN (j : Nat) : Fld := ⟨R_VD_CTRL j, 1, 1⟩
abbrev VD_CTRL_STOP (j : Nat) : Fld := ⟨R_VD_CTRL j, 0, 0⟩
/-- VD_ERR, Table 6.17. -/
abbrev R_VD_ERR (j : Nat) : Nat := 0x50130 + j * 0x40
abbrev VD_ERR_SLAC (j : Nat) : Fld := ⟨R_VD_ERR j, 31, 24⟩
abbrev VD_ERR_TLS (j : Nat) : Fld := ⟨R_VD_ERR j, 23, 16⟩
abbrev VD_ERR_TMO (j : Nat) : Fld := ⟨R_VD_ERR j, 15, 8⟩
abbrev VD_ERR_PILOT (j : Nat) : Fld := ⟨R_VD_ERR j, 7, 0⟩
/-- MET_GCFG, Table 7.8. -/
abbrev R_MET_GCFG : Nat := 0x60000
abbrev MET_GCFG_ROT_INT : Fld := ⟨R_MET_GCFG, 31, 16⟩
abbrev MET_GCFG_CALCNT : Fld := ⟨R_MET_GCFG, 5, 0⟩
/-- MET_STATUS, Table 7.9. -/
abbrev R_MET_STATUS : Nat := 0x60004
abbrev MET_STATUS_HOLDUP : Fld := ⟨R_MET_STATUS, 2, 2⟩
abbrev MET_STATUS_REF_WARN : Fld := ⟨R_MET_STATUS, 1, 1⟩
abbrev MET_STATUS_SEAL : Fld := ⟨R_MET_STATUS, 0, 0⟩
/-- MET_REF, Table 7.10. -/
abbrev R_MET_REF : Nat := 0x60008
abbrev MET_REF_FE : Fld := ⟨R_MET_REF, 31, 28⟩
abbrev MET_REF_DEV : Fld := ⟨R_MET_REF, 15, 0⟩
/-- MET_SNAP, Table 7.11. -/
abbrev R_MET_SNAP : Nat := 0x6000C
abbrev MET_SNAP_REL : Fld := ⟨R_MET_SNAP, 1, 1⟩
abbrev MET_SNAP_SNAP : Fld := ⟨R_MET_SNAP, 0, 0⟩
/-- MET_OCFG, Table 7.12. -/
abbrev R_MET_OCFG (j : Nat) : Nat := 0x60100 + j * 0x40
abbrev MET_OCFG_RCAB (j : Nat) : Fld := ⟨R_MET_OCFG j, 31, 16⟩
abbrev MET_OCFG_LEGACY (j : Nat) : Fld := ⟨R_MET_OCFG j, 3, 3⟩
abbrev MET_OCFG_ABS (j : Nat) : Fld := ⟨R_MET_OCFG j, 2, 2⟩
abbrev MET_OCFG_SENSOR (j : Nat) : Fld := ⟨R_MET_OCFG j, 1, 0⟩
/-- MET_RSH, Table 7.12. -/
abbrev R_MET_RSH (j : Nat) : Nat := 0x60104 + j * 0x40
abbrev MET_RSH_RCAL (j : Nat) : Fld := ⟨R_MET_RSH j, 31, 0⟩
/-- MET_VSF, Table 7.12. -/
abbrev R_MET_VSF (j : Nat) : Nat := 0x60108 + j * 0x40
abbrev MET_VSF_V (j : Nat) : Fld := ⟨R_MET_VSF j, 31, 0⟩
/-- MET_ISF, Table 7.12. -/
abbrev R_MET_ISF (j : Nat) : Nat := 0x6010C + j * 0x40
abbrev MET_ISF_I (j : Nat) : Fld := ⟨R_MET_ISF j, 31, 0⟩
/-- MET_IRMS, Table 7.12. -/
abbrev R_MET_IRMS (j : Nat) : Nat := 0x60110 + j * 0x40
abbrev MET_IRMS_IRMS (j : Nat) : Fld := ⟨R_MET_IRMS j, 31, 0⟩
/-- MET_PSF, Table 7.12. -/
abbrev R_MET_PSF (j : Nat) : Nat := 0x60114 + j * 0x40
abbrev MET_PSF_P (j : Nat) : Fld := ⟨R_MET_PSF j, 31, 0⟩
/-- MET_TSH, Table 7.12. -/
abbrev R_MET_TSH (j : Nat) : Nat := 0x60118 + j * 0x40
abbrev MET_TSH_OFFS (j : Nat) : Fld := ⟨R_MET_TSH j, 31, 16⟩
abbrev MET_TSH_TSH (j : Nat) : Fld := ⟨R_MET_TSH j, 15, 0⟩
/-- MET_ROT, Table 7.12. -/
abbrev R_MET_ROT (j : Nat) : Nat := 0x6011C + j * 0x40
abbrev MET_ROT_DEV (j : Nat) : Fld := ⟨R_MET_ROT j, 31, 16⟩
abbrev MET_ROT_STEP (j : Nat) : Fld := ⟨R_MET_ROT j, 15, 12⟩
abbrev MET_ROT_CALCHK (j : Nat) : Fld := ⟨R_MET_ROT j, 11, 11⟩
abbrev MET_ROT_TGT (j : Nat) : Fld := ⟨R_MET_ROT j, 10, 10⟩
abbrev MET_ROT_SPARE (j : Nat) : Fld := ⟨R_MET_ROT j, 7, 6⟩
abbrev MET_ROT_ICONV (j : Nat) : Fld := ⟨R_MET_ROT j, 5, 4⟩
abbrev MET_ROT_VCONV (j : Nat) : Fld := ⟨R_MET_ROT j, 3, 2⟩
/-- MET_OSTAT, Table 7.12. -/
abbrev R_MET_OSTAT (j : Nat) : Nat := 0x60120 + j * 0x40
abbrev MET_OSTAT_OOC (j : Nat) : Fld := ⟨R_MET_OSTAT j, 5, 5⟩
abbrev MET_OSTAT_HOLDUP (j : Nat) : Fld := ⟨R_MET_OSTAT j, 4, 4⟩
abbrev MET_OSTAT_OVR (j : Nat) : Fld := ⟨R_MET_OSTAT j, 3, 3⟩
abbrev MET_OSTAT_SUBST (j : Nat) : Fld := ⟨R_MET_OSTAT j, 2, 2⟩
abbrev MET_OSTAT_ACC (j : Nat) : Fld := ⟨R_MET_OSTAT j, 1, 1⟩
abbrev MET_OSTAT_NOLOAD (j : Nat) : Fld := ⟨R_MET_OSTAT j, 0, 0⟩
/-- MET_ERR, Table 7.12. -/
abbrev R_MET_ERR (j : Nat) : Nat := 0x60124 + j * 0x40
abbrev MET_ERR_DISC (j : Nat) : Fld := ⟨R_MET_ERR j, 31, 24⟩
abbrev MET_ERR_SUBST (j : Nat) : Fld := ⟨R_MET_ERR j, 23, 16⟩
abbrev MET_ERR_ROTF (j : Nat) : Fld := ⟨R_MET_ERR j, 15, 8⟩
abbrev MET_ERR_OVR (j : Nat) : Fld := ⟨R_MET_ERR j, 7, 0⟩
/-- MET_FCFG, Table 7.13. -/
abbrev R_MET_FCFG (f : Nat) : Nat := 0x60400 + f * 0x80
abbrev MET_FCFG_VT_RATIO (f : Nat) : Fld := ⟨R_MET_FCFG f, 19, 8⟩
abbrev MET_FCFG_NCT (f : Nat) : Fld := ⟨R_MET_FCFG f, 3, 3⟩
abbrev MET_FCFG_IN5 (f : Nat) : Fld := ⟨R_MET_FCFG f, 2, 2⟩
abbrev MET_FCFG_F60 (f : Nat) : Fld := ⟨R_MET_FCFG f, 1, 1⟩
/-- MET_FCT, Table 7.13. -/
abbrev R_MET_FCT (f : Nat) : Nat := 0x60404 + f * 0x80
abbrev MET_FCT_CT_RATIO (f : Nat) : Fld := ⟨R_MET_FCT f, 15, 0⟩
/-- MET_FP, Table 7.13. -/
abbrev R_MET_FP (f : Nat) : Nat := 0x60408 + f * 0x80
abbrev MET_FP_P (f : Nat) : Fld := ⟨R_MET_FP f, 31, 0⟩
/-- MET_FPP, Table 7.13. -/
abbrev R_MET_FPP (f p : Nat) : Nat := 0x6040C + f * 0x80 + p * 0x4
abbrev MET_FPP_P (f p : Nat) : Fld := ⟨R_MET_FPP f p, 31, 0⟩
/-- MET_FV, Table 7.13. -/
abbrev R_MET_FV (f p : Nat) : Nat := 0x60418 + f * 0x80 + p * 0x4
abbrev MET_FV_V (f p : Nat) : Fld := ⟨R_MET_FV f p, 31, 0⟩
/-- MET_FI, Table 7.13. -/
abbrev R_MET_FI (f p : Nat) : Nat := 0x60428 + f * 0x80 + p * 0x4
abbrev MET_FI_I (f p : Nat) : Fld := ⟨R_MET_FI f p, 31, 0⟩
/-- MET_FFREQ, Table 7.13. -/
abbrev R_MET_FFREQ (f : Nat) : Nat := 0x60438 + f * 0x80
abbrev MET_FFREQ_FREQ (f : Nat) : Fld := ⟨R_MET_FFREQ f, 19, 0⟩
/-- MET_FHW, Table 7.13. -/
abbrev R_MET_FHW (f : Nat) : Nat := 0x6043C + f * 0x80
abbrev MET_FHW_TRANSIENT (f : Nat) : Fld := ⟨R_MET_FHW f, 31, 31⟩
abbrev MET_FHW_VALID (f : Nat) : Fld := ⟨R_MET_FHW f, 30, 30⟩
abbrev MET_FHW_TDD (f : Nat) : Fld := ⟨R_MET_FHW f, 19, 10⟩
abbrev MET_FHW_THDV (f : Nat) : Fld := ⟨R_MET_FHW f, 9, 0⟩
/-- MET_FHSEL, Table 7.13. -/
abbrev R_MET_FHSEL (f : Nat) : Nat := 0x60440 + f * 0x80
abbrev MET_FHSEL_CH (f : Nat) : Fld := ⟨R_MET_FHSEL f, 10, 8⟩
abbrev MET_FHSEL_ORDER (f : Nat) : Fld := ⟨R_MET_FHSEL f, 5, 0⟩
/-- MET_FHVAL, Table 7.13. -/
abbrev R_MET_FHVAL (f : Nat) : Nat := 0x60444 + f * 0x80
abbrev MET_FHVAL_G (f : Nat) : Fld := ⟨R_MET_FHVAL f, 31, 0⟩
/-- MET_FSTAT, Table 7.13. -/
abbrev R_MET_FSTAT (f : Nat) : Nat := 0x60448 + f * 0x80
abbrev MET_FSTAT_HOLDUP (f : Nat) : Fld := ⟨R_MET_FSTAT f, 3, 3⟩
abbrev MET_FSTAT_OVR (f : Nat) : Fld := ⟨R_MET_FSTAT f, 2, 2⟩
abbrev MET_FSTAT_FTRACK (f : Nat) : Fld := ⟨R_MET_FSTAT f, 1, 1⟩
abbrev MET_FSTAT_RES_FAIL (f : Nat) : Fld := ⟨R_MET_FSTAT f, 0, 0⟩
/-- MET_FERR, Table 7.13. -/
abbrev R_MET_FERR (f : Nat) : Nat := 0x6044C + f * 0x80
abbrev MET_FERR_TRANS (f : Nat) : Fld := ⟨R_MET_FERR f, 31, 24⟩
abbrev MET_FERR_RES (f : Nat) : Fld := ⟨R_MET_FERR f, 23, 16⟩
abbrev MET_FERR_DISC (f : Nat) : Fld := ⟨R_MET_FERR f, 15, 8⟩
abbrev MET_FERR_OVR (f : Nat) : Fld := ⟨R_MET_FERR f, 7, 0⟩
/-- LEG_STATUS, Table 8.12. -/
abbrev R_LEG_STATUS : Nat := 0x70000
abbrev LEG_STATUS_FULL : Fld := ⟨R_LEG_STATUS, 7, 7⟩
abbrev LEG_STATUS_SUSPEND : Fld := ⟨R_LEG_STATUS, 6, 6⟩
abbrev LEG_STATUS_REENTER : Fld := ⟨R_LEG_STATUS, 5, 5⟩
abbrev LEG_STATUS_RATE : Fld := ⟨R_LEG_STATUS, 3, 0⟩
/-- LEG_CHK, Table 8.13. -/
abbrev R_LEG_CHK : Nat := 0x70004
abbrev LEG_CHK_CHK : Fld := ⟨R_LEG_CHK, 31, 0⟩
/-- LEG_COUNTS, Table 8.14. -/
abbrev R_LEG_COUNTS : Nat := 0x70008
abbrev LEG_COUNTS_BILLN : Fld := ⟨R_LEG_COUNTS, 31, 16⟩
abbrev LEG_COUNTS_LEGFW : Fld := ⟨R_LEG_COUNTS, 3, 0⟩
/-- LEG_SEL, Table 8.15. -/
abbrev R_LEG_SEL : Nat := 0x7000C
abbrev LEG_SEL_RATE : Fld := ⟨R_LEG_SEL, 15, 12⟩
abbrev LEG_SEL_QTY : Fld := ⟨R_LEG_SEL, 11, 8⟩
abbrev LEG_SEL_CH : Fld := ⟨R_LEG_SEL, 3, 0⟩
/-- LEG_RD_LO, Table 8.16. -/
abbrev R_LEG_RD_LO : Nat := 0x70010
abbrev LEG_RD_LO_M : Fld := ⟨R_LEG_RD_LO, 31, 0⟩
/-- LEG_RD_HI, Table 8.16. -/
abbrev R_LEG_RD_HI : Nat := 0x70014
abbrev LEG_RD_HI_VALID : Fld := ⟨R_LEG_RD_HI, 8, 8⟩
abbrev LEG_RD_HI_M : Fld := ⟨R_LEG_RD_HI, 7, 0⟩
/-- LEG_ROLL, Table 8.16. -/
abbrev R_LEG_ROLL : Nat := 0x70018
abbrev LEG_ROLL_C : Fld := ⟨R_LEG_ROLL, 31, 0⟩
/-- LEG_HWM_LO, Table 8.17. -/
abbrev R_LEG_HWM_LO : Nat := 0x7001C
abbrev LEG_HWM_LO_T : Fld := ⟨R_LEG_HWM_LO, 31, 0⟩
/-- LEG_HWM_HI, Table 8.17. -/
abbrev R_LEG_HWM_HI : Nat := 0x70020
abbrev LEG_HWM_HI_T : Fld := ⟨R_LEG_HWM_HI, 31, 0⟩
/-- LEG_MAXT_LO, Table 8.17. -/
abbrev R_LEG_MAXT_LO : Nat := 0x70024
abbrev LEG_MAXT_LO_T : Fld := ⟨R_LEG_MAXT_LO, 31, 0⟩
/-- LEG_MAXT_HI, Table 8.17. -/
abbrev R_LEG_MAXT_HI : Nat := 0x70028
abbrev LEG_MAXT_HI_T : Fld := ⟨R_LEG_MAXT_HI, 31, 0⟩
/-- LEG_DEM, Table 8.18. -/
abbrev R_LEG_DEM : Nat := 0x7002C
abbrev LEG_DEM_PEND : Fld := ⟨R_LEG_DEM, 31, 31⟩
abbrev LEG_DEM_BDAY : Fld := ⟨R_LEG_DEM, 20, 16⟩
abbrev LEG_DEM_INT : Fld := ⟨R_LEG_DEM, 15, 8⟩
abbrev LEG_DEM_SUB : Fld := ⟨R_LEG_DEM, 7, 4⟩
/-- LEG_REC, Table 8.19. -/
abbrev R_LEG_REC : Nat := 0x70030
abbrev LEG_REC_PENDING : Fld := ⟨R_LEG_REC, 31, 16⟩
abbrev LEG_REC_CAP : Fld := ⟨R_LEG_REC, 15, 0⟩
/-- LEG_TVER, Table 8.19. -/
abbrev R_LEG_TVER : Nat := 0x70034
abbrev LEG_TVER_VER : Fld := ⟨R_LEG_TVER, 31, 0⟩
/-- TOK_CFG, Table 8.20. -/
abbrev R_TOK_CFG : Nat := 0x70038
abbrev TOK_CFG_VALID_DAYS : Fld := ⟨R_TOK_CFG, 15, 8⟩
abbrev TOK_CFG_LOCK_N : Fld := ⟨R_TOK_CFG, 7, 4⟩
abbrev TOK_CFG_LOCK_T : Fld := ⟨R_TOK_CFG, 3, 0⟩
/-- TOK_STAT, Table 8.21. -/
abbrev R_TOK_STAT : Nat := 0x7003C
abbrev TOK_STAT_WIN : Fld := ⟨R_TOK_STAT, 24, 16⟩
abbrev TOK_STAT_LOCKED : Fld := ⟨R_TOK_STAT, 8, 8⟩
abbrev TOK_STAT_FAILS : Fld := ⟨R_TOK_STAT, 7, 4⟩
abbrev TOK_STAT_PEND : Fld := ⟨R_TOK_STAT, 3, 0⟩
/-- TOK_FLOOR, Table 8.21. -/
abbrev R_TOK_FLOOR : Nat := 0x70040
abbrev TOK_FLOOR_FLOOR : Fld := ⟨R_TOK_FLOOR, 19, 0⟩
/-- LEG_ERR, Table 8.22. -/
abbrev R_LEG_ERR : Nat := 0x70044
abbrev LEG_ERR_TOK : Fld := ⟨R_LEG_ERR, 31, 24⟩
abbrev LEG_ERR_SIGN : Fld := ⟨R_LEG_ERR, 23, 16⟩
abbrev LEG_ERR_ACC : Fld := ⟨R_LEG_ERR, 15, 8⟩
abbrev LEG_ERR_OVW : Fld := ⟨R_LEG_ERR, 7, 0⟩
/-- SI_STATUS, Table 9.9. -/
abbrev R_SI_STATUS : Nat := 0x80000
abbrev SI_STATUS_CAUSE : Fld := ⟨R_SI_STATUS, 31, 24⟩
abbrev SI_STATUS_REG2 : Fld := ⟨R_SI_STATUS, 17, 17⟩
abbrev SI_STATUS_REG1 : Fld := ⟨R_SI_STATUS, 16, 16⟩
abbrev SI_STATUS_DEGC : Fld := ⟨R_SI_STATUS, 9, 8⟩
abbrev SI_STATUS_ARCH : Fld := ⟨R_SI_STATUS, 7, 6⟩
abbrev SI_STATUS_CONF : Fld := ⟨R_SI_STATUS, 5, 5⟩
abbrev SI_STATUS_CAND : Fld := ⟨R_SI_STATUS, 4, 4⟩
abbrev SI_STATUS_ISTATE : Fld := ⟨R_SI_STATUS, 2, 0⟩
/-- SI_CHK, Table 9.9. -/
abbrev R_SI_CHK : Nat := 0x80004
abbrev SI_CHK_CHK : Fld := ⟨R_SI_CHK, 31, 0⟩
/-- SI_CAND_CHK, Table 9.9. -/
abbrev R_SI_CAND_CHK : Nat := 0x80008
abbrev SI_CAND_CHK_CHK : Fld := ⟨R_SI_CAND_CHK, 31, 0⟩
/-- SI_ARCH, Table 9.9. -/
abbrev R_SI_ARCH : Nat := 0x8000C
abbrev SI_ARCH_LEFT : Fld := ⟨R_SI_ARCH, 4, 0⟩
/-- SI_DEG_REM, Table 9.9. -/
abbrev R_SI_DEG_REM : Nat := 0x80010
abbrev SI_DEG_REM_REM : Fld := ⟨R_SI_DEG_REM, 31, 0⟩
/-- SI_SIN, Table 9.9. -/
abbrev R_SI_SIN : Nat := 0x80014
abbrev SI_SIN_B : Fld := ⟨R_SI_SIN, 31, 16⟩
abbrev SI_SIN_A : Fld := ⟨R_SI_SIN, 15, 0⟩
/-- SI_SIN_ST, Table 9.9. -/
abbrev R_SI_SIN_ST : Nat := 0x80018
abbrev SI_SIN_ST_DISC : Fld := ⟨R_SI_SIN_ST, 31, 16⟩
abbrev SI_SIN_ST_DEM : Fld := ⟨R_SI_SIN_ST, 15, 0⟩
/-- SI_SO, Table 9.9. -/
abbrev R_SI_SO : Nat := 0x8001C
abbrev SI_SO_RB : Fld := ⟨R_SI_SO, 31, 16⟩
abbrev SI_SO_LSC : Fld := ⟨R_SI_SO, 15, 8⟩
abbrev SI_SO_HSC : Fld := ⟨R_SI_SO, 7, 0⟩
/-- SI_SITE, Table 9.9. -/
abbrev R_SI_SITE : Nat := 0x80020
abbrev SI_SITE_PERMIT : Fld := ⟨R_SI_SITE, 16, 16⟩
abbrev SI_SITE_CAP : Fld := ⟨R_SI_SITE, 15, 0⟩
/-- SI_FAULT, Table 9.9. -/
abbrev R_SI_FAULT : Nat := 0x80024
abbrev SI_FAULT_COUNT : Fld := ⟨R_SI_FAULT, 31, 16⟩
abbrev SI_FAULT_CLASS : Fld := ⟨R_SI_FAULT, 7, 0⟩
/-- SI_LATENT, Table 9.9. -/
abbrev R_SI_LATENT : Nat := 0x80028
abbrev SI_LATENT_DEFER : Fld := ⟨R_SI_LATENT, 31, 24⟩
abbrev SI_LATENT_AGE : Fld := ⟨R_SI_LATENT, 23, 0⟩
/-- SI_OSTAT, Table 9.9. -/
abbrev R_SI_OSTAT (j : Nat) : Nat := 0x80030 + j * 0x4
abbrev SI_OSTAT_IMD (j : Nat) : Fld := ⟨R_SI_OSTAT j, 15, 12⟩
abbrev SI_OSTAT_INJ (j : Nat) : Fld := ⟨R_SI_OSTAT j, 11, 11⟩
abbrev SI_OSTAT_WELD (j : Nat) : Fld := ⟨R_SI_OSTAT j, 10, 10⟩
abbrev SI_OSTAT_LATCH (j : Nat) : Fld := ⟨R_SI_OSTAT j, 9, 9⟩
abbrev SI_OSTAT_PAIR (j : Nat) : Fld := ⟨R_SI_OSTAT j, 8, 8⟩
abbrev SI_OSTAT_TRIP (j : Nat) : Fld := ⟨R_SI_OSTAT j, 7, 0⟩
/-- SI_IMD, Table 9.9. -/
abbrev R_SI_IMD (j : Nat) : Nat := 0x80050 + j * 0x4
abbrev SI_IMD_ASYM (j : Nat) : Fld := ⟨R_SI_IMD j, 31, 24⟩
abbrev SI_IMD_RF (j : Nat) : Fld := ⟨R_SI_IMD j, 23, 0⟩
/-- SP_G0, Table 9.10. -/
abbrev R_SP_G0 : Nat := 0x80100
abbrev SP_G0_SO_DLY : Fld := ⟨R_SP_G0, 12, 8⟩
abbrev SP_G0_DEG_EN : Fld := ⟨R_SP_G0, 5, 4⟩
abbrev SP_G0_REMOTE_RST : Fld := ⟨R_SP_G0, 2, 2⟩
abbrev SP_G0_ARCH : Fld := ⟨R_SP_G0, 1, 0⟩
/-- SP_G1, Table 9.10. -/
abbrev R_SP_G1 : Nat := 0x80104
abbrev SP_G1_T_DEG : Fld := ⟨R_SP_G1, 31, 16⟩
abbrev SP_G1_P_DEG : Fld := ⟨R_SP_G1, 6, 0⟩
/-- SP_G2, Table 9.10. -/
abbrev R_SP_G2 : Nat := 0x80108
abbrev SP_G2_SCAP : Fld := ⟨R_SP_G2, 31, 16⟩
abbrev SP_G2_STOP1_T : Fld := ⟨R_SP_G2, 15, 0⟩
/-- SP_SIN, Table 9.10. -/
abbrev R_SP_SIN (i : Nat) : Nat := 0x80140 + i * 0x4
abbrev SP_SIN_SCOPE (i : Nat) : Fld := ⟨R_SP_SIN i, 31, 24⟩
abbrev SP_SIN_TEST (i : Nat) : Fld := ⟨R_SP_SIN i, 23, 20⟩
abbrev SP_SIN_WIN (i : Nat) : Fld := ⟨R_SP_SIN i, 15, 6⟩
abbrev SP_SIN_TYPE (i : Nat) : Fld := ⟨R_SP_SIN i, 5, 4⟩
abbrev SP_SIN_ROLE (i : Nat) : Fld := ⟨R_SP_SIN i, 2, 0⟩
/-- SP_OUT_0, Table 9.10. -/
abbrev R_SP_OUT_0 (j : Nat) : Nat := 0x80200 + j * 0x10
abbrev SP_OUT_0_LOCK_FB (j : Nat) : Fld := ⟨R_SP_OUT_0 j, 20, 16⟩
abbrev SP_OUT_0_MIRROR (j : Nat) : Fld := ⟨R_SP_OUT_0 j, 12, 8⟩
abbrev SP_OUT_0_PAIR (j : Nat) : Fld := ⟨R_SP_OUT_0 j, 3, 0⟩
/-- SP_OUT_1, Table 9.10. -/
abbrev R_SP_OUT_1 (j : Nat) : Nat := 0x80204 + j * 0x10
abbrev SP_OUT_1_OV_TRIP (j : Nat) : Fld := ⟨R_SP_OUT_1 j, 31, 16⟩
abbrev SP_OUT_1_OC_TRIP (j : Nat) : Fld := ⟨R_SP_OUT_1 j, 15, 0⟩
/-- SP_OUT_2, Table 9.10. -/
abbrev R_SP_OUT_2 (j : Nat) : Nat := 0x80208 + j * 0x10
abbrev SP_OUT_2_ASYM (j : Nat) : Fld := ⟨R_SP_OUT_2 j, 14, 8⟩
abbrev SP_OUT_2_T_TRIP (j : Nat) : Fld := ⟨R_SP_OUT_2 j, 7, 0⟩
/-- SP_OUT_3, Table 9.10. -/
abbrev R_SP_OUT_3 (j : Nat) : Nat := 0x8020C + j * 0x10
abbrev SP_OUT_3_R_WARN (j : Nat) : Fld := ⟨R_SP_OUT_3 j, 31, 16⟩
abbrev SP_OUT_3_R_FAULT (j : Nat) : Fld := ⟨R_SP_OUT_3 j, 15, 0⟩
/-- PS_WDG, Table 10.7. -/
abbrev R_PS_WDG : Nat := 0x90000
abbrev PS_WDG_EXP : Fld := ⟨R_PS_WDG, 31, 24⟩
abbrev PS_WDG_FSA : Fld := ⟨R_PS_WDG, 1, 1⟩
abbrev PS_WDG_ARMED : Fld := ⟨R_PS_WDG, 0, 0⟩
/-- PS_LINK, Table 10.7. -/
abbrev R_PS_LINK : Nat := 0x90004
abbrev PS_LINK_CRC : Fld := ⟨R_PS_LINK, 31, 24⟩
abbrev PS_LINK_SEQ : Fld := ⟨R_PS_LINK, 23, 16⟩
/-- PS_RSTAT, Table 10.7. -/
abbrev R_PS_RSTAT : Nat := 0x90008
abbrev PS_RSTAT_GUARD : Fld := ⟨R_PS_RSTAT, 7, 4⟩
abbrev PS_RSTAT_UV : Fld := ⟨R_PS_RSTAT, 3, 0⟩
/-- PS_RAIL, Table 10.7. -/
abbrev R_PS_RAIL (r : Nat) : Nat := 0x90010 + r * 0x4
abbrev PS_RAIL_ILIM (r : Nat) : Fld := ⟨R_PS_RAIL r, 31, 26⟩
abbrev PS_RAIL_V (r : Nat) : Fld := ⟨R_PS_RAIL r, 23, 12⟩
abbrev PS_RAIL_I (r : Nat) : Fld := ⟨R_PS_RAIL r, 11, 0⟩
/-- SO_DIAG, Table 10.7. -/
abbrev R_SO_DIAG (k : Nat) : Nat := 0x90400 + k * 0x10
abbrev SO_DIAG_ICOIL (k : Nat) : Fld := ⟨R_SO_DIAG k, 31, 16⟩
abbrev SO_DIAG_PULSE (k : Nat) : Fld := ⟨R_SO_DIAG k, 15, 8⟩
abbrev SO_DIAG_DISC (k : Nat) : Fld := ⟨R_SO_DIAG k, 7, 0⟩
/-- SO_TP, Table 10.7. -/
abbrev R_SO_TP (k : Nat) : Nat := 0x90404 + k * 0x10
abbrev SO_TP_LS_RESP (k : Nat) : Fld := ⟨R_SO_TP k, 31, 16⟩
abbrev SO_TP_HS_RESP (k : Nat) : Fld := ⟨R_SO_TP k, 15, 0⟩
/-- SO_SUP, Table 10.7. -/
abbrev R_SO_SUP : Nat := 0x90480
abbrev SO_SUP_V : Fld := ⟨R_SO_SUP, 11, 0⟩
/-- PS_CFG, Table 10.8. -/
abbrev R_PS_CFG (n : Nat) : Nat := 0x90100 + n * 0x20
abbrev PS_CFG_FS (n : Nat) : Fld := ⟨R_PS_CFG n, 31, 30⟩
abbrev PS_CFG_PRIO (n : Nat) : Fld := ⟨R_PS_CFG n, 29, 28⟩
abbrev PS_CFG_OWNER (n : Nat) : Fld := ⟨R_PS_CFG n, 27, 24⟩
abbrev PS_CFG_WIRE (n : Nat) : Fld := ⟨R_PS_CFG n, 23, 21⟩
abbrev PS_CFG_IRATE (n : Nat) : Fld := ⟨R_PS_CFG n, 15, 8⟩
abbrev PS_CFG_EN (n : Nat) : Fld := ⟨R_PS_CFG n, 0, 0⟩
/-- PS_TIM, Table 10.8. -/
abbrev R_PS_TIM (n : Nat) : Nat := 0x90104 + n * 0x20
abbrev PS_TIM_RETRY_DLY (n : Nat) : Fld := ⟨R_PS_TIM n, 31, 24⟩
abbrev PS_TIM_RETRY_N (n : Nat) : Fld := ⟨R_PS_TIM n, 23, 21⟩
abbrev PS_TIM_INRUSH_T (n : Nat) : Fld := ⟨R_PS_TIM n, 15, 8⟩
abbrev PS_TIM_SLEW_T (n : Nat) : Fld := ⟨R_PS_TIM n, 7, 0⟩
/-- PS_LIM, Table 10.8. -/
abbrev R_PS_LIM (n : Nat) : Nat := 0x90108 + n * 0x20
abbrev PS_LIM_OPEN (n : Nat) : Fld := ⟨R_PS_LIM n, 31, 24⟩
abbrev PS_LIM_DT_LIM (n : Nat) : Fld := ⟨R_PS_LIM n, 23, 16⟩
/-- PS_CMD, Table 10.8. -/
abbrev R_PS_CMD (n : Nat) : Nat := 0x9010C + n * 0x20
abbrev PS_CMD_CLR (n : Nat) : Fld := ⟨R_PS_CMD n, 1, 1⟩
abbrev PS_CMD_ON (n : Nat) : Fld := ⟨R_PS_CMD n, 0, 0⟩
/-- PS_STAT, Table 10.8. -/
abbrev R_PS_STAT (n : Nat) : Nat := 0x90110 + n * 0x20
abbrev PS_STAT_I (n : Nat) : Fld := ⟨R_PS_STAT n, 31, 20⟩
abbrev PS_STAT_DT (n : Nat) : Fld := ⟨R_PS_STAT n, 19, 12⟩
abbrev PS_STAT_FSA (n : Nat) : Fld := ⟨R_PS_STAT n, 7, 7⟩
abbrev PS_STAT_THERM (n : Nat) : Fld := ⟨R_PS_STAT n, 6, 6⟩
abbrev PS_STAT_LIMIT (n : Nat) : Fld := ⟨R_PS_STAT n, 5, 5⟩
abbrev PS_STAT_STATE (n : Nat) : Fld := ⟨R_PS_STAT n, 2, 0⟩
/-- PS_TRIP, Table 10.8. -/
abbrev R_PS_TRIP (n : Nat) : Nat := 0x90114 + n * 0x20
abbrev PS_TRIP_COUNT (n : Nat) : Fld := ⟨R_PS_TRIP n, 31, 24⟩
abbrev PS_TRIP_X (n : Nat) : Fld := ⟨R_PS_TRIP n, 23, 16⟩
abbrev PS_TRIP_LEFT (n : Nat) : Fld := ⟨R_PS_TRIP n, 10, 8⟩
abbrev PS_TRIP_CAUSE (n : Nat) : Fld := ⟨R_PS_TRIP n, 2, 0⟩
/-- PNL_GCFG, Table 11.8. -/
abbrev R_PNL_GCFG : Nat := 0xA0000
abbrev PNL_GCFG_PD8_IDLE : Fld := ⟨R_PNL_GCFG, 31, 24⟩
abbrev PNL_GCFG_PAGE_T : Fld := ⟨R_PNL_GCFG, 23, 16⟩
abbrev PNL_GCFG_PNL0_EN : Fld := ⟨R_PNL_GCFG, 0, 0⟩
/-- PNL_PAGE, Table 11.8. -/
abbrev R_PNL_PAGE : Nat := 0xA0004
abbrev PNL_PAGE_PAGE : Fld := ⟨R_PNL_PAGE, 3, 0⟩
/-- PNL_CFG, Table 11.8. -/
abbrev R_PNL_CFG (p : Nat) : Nat := 0xA0100 + p * 0x40
abbrev PNL_CFG_HEIGHT (p : Nat) : Fld := ⟨R_PNL_CFG p, 26, 16⟩
abbrev PNL_CFG_WIDTH (p : Nat) : Fld := ⟨R_PNL_CFG p, 10, 0⟩
/-- PNL_VCOM, Table 11.8. -/
abbrev R_PNL_VCOM (p : Nat) : Nat := 0xA0104 + p * 0x40
abbrev PNL_VCOM_VCOM (p : Nat) : Fld := ⟨R_PNL_VCOM p, 7, 0⟩
/-- PNL_HEAT, Table 11.8. -/
abbrev R_PNL_HEAT (p : Nat) : Nat := 0xA0108 + p * 0x40
abbrev PNL_HEAT_HEAT_ON (p : Nat) : Fld := ⟨R_PNL_HEAT p, 15, 8⟩
abbrev PNL_HEAT_CH (p : Nat) : Fld := ⟨R_PNL_HEAT p, 4, 0⟩
/-- PNL_TBL, Table 11.8. -/
abbrev R_PNL_TBL (p : Nat) : Nat := 0xA010C + p * 0x40
abbrev PNL_TBL_VER (p : Nat) : Fld := ⟨R_PNL_TBL p, 31, 16⟩
abbrev PNL_TBL_TYPE (p : Nat) : Fld := ⟨R_PNL_TBL p, 15, 8⟩
abbrev PNL_TBL_OK (p : Nat) : Fld := ⟨R_PNL_TBL p, 0, 0⟩
/-- PNL_STAT, Table 11.8. -/
abbrev R_PNL_STAT (p : Nat) : Nat := 0xA0110 + p * 0x40
abbrev PNL_STAT_TEMP (p : Nat) : Fld := ⟨R_PNL_STAT p, 31, 24⟩
abbrev PNL_STAT_BAND (p : Nat) : Fld := ⟨R_PNL_STAT p, 23, 20⟩
abbrev PNL_STAT_QUEUE (p : Nat) : Fld := ⟨R_PNL_STAT p, 13, 8⟩
abbrev PNL_STAT_HEAT (p : Nat) : Fld := ⟨R_PNL_STAT p, 7, 7⟩
abbrev PNL_STAT_PRESENT (p : Nat) : Fld := ⟨R_PNL_STAT p, 6, 6⟩
abbrev PNL_STAT_STATE (p : Nat) : Fld := ⟨R_PNL_STAT p, 2, 0⟩
/-- PNL_BAL, Table 11.8. -/
abbrev R_PNL_BAL (p : Nat) : Nat := 0xA0114 + p * 0x40
abbrev PNL_BAL_RESID (p : Nat) : Fld := ⟨R_PNL_BAL p, 31, 16⟩
abbrev PNL_BAL_MAXABS (p : Nat) : Fld := ⟨R_PNL_BAL p, 15, 0⟩
/-- PNL_RAIL, Table 11.8. -/
abbrev R_PNL_RAIL (p : Nat) : Nat := 0xA0118 + p * 0x40
abbrev PNL_RAIL_DROOP (p : Nat) : Fld := ⟨R_PNL_RAIL p, 12, 8⟩
abbrev PNL_RAIL_FAIL (p : Nat) : Fld := ⟨R_PNL_RAIL p, 4, 0⟩
/-- PNL_ERR, Table 11.8. -/
abbrev R_PNL_ERR (p : Nat) : Nat := 0xA011C + p * 0x40
abbrev PNL_ERR_BADF (p : Nat) : Fld := ⟨R_PNL_ERR p, 31, 24⟩
abbrev PNL_ERR_ABORT (p : Nat) : Fld := ⟨R_PNL_ERR p, 23, 16⟩
abbrev PNL_ERR_RAILF (p : Nat) : Fld := ⟨R_PNL_ERR p, 15, 8⟩
abbrev PNL_ERR_QOVF (p : Nat) : Fld := ⟨R_PNL_ERR p, 7, 0⟩
/-- KP_CFG, Table 11.8. -/
abbrev R_KP_CFG : Nat := 0xA0200
abbrev KP_CFG_KEY_T : Fld := ⟨R_KP_CFG, 31, 24⟩
abbrev KP_CFG_PNL0_OUTS : Fld := ⟨R_KP_CFG, 15, 8⟩
abbrev KP_CFG_SVC_PAGE : Fld := ⟨R_KP_CFG, 1, 1⟩
abbrev KP_CFG_EN : Fld := ⟨R_KP_CFG, 0, 0⟩
/-- KP_STAT, Table 11.8. -/
abbrev R_KP_STAT : Nat := 0xA0204
abbrev KP_STAT_OVF : Fld := ⟨R_KP_STAT, 31, 24⟩
abbrev KP_STAT_LAST : Fld := ⟨R_KP_STAT, 23, 20⟩
abbrev KP_STAT_OUT : Fld := ⟨R_KP_STAT, 19, 16⟩
abbrev KP_STAT_DIGITS : Fld := ⟨R_KP_STAT, 12, 8⟩
abbrev KP_STAT_STATE : Fld := ⟨R_KP_STAT, 2, 0⟩
/-- NR_GCFG, Table 12.8. -/
abbrev R_NR_GCFG : Nat := 0xB0000
abbrev NR_GCFG_CARD_HOLD : Fld := ⟨R_NR_GCFG, 23, 16⟩
abbrev NR_GCFG_POLL_T : Fld := ⟨R_NR_GCFG, 15, 8⟩
abbrev NR_GCFG_GUARD : Fld := ⟨R_NR_GCFG, 4, 0⟩
/-- NR_CFG, Table 12.8. -/
abbrev R_NR_CFG (n : Nat) : Nat := 0xB0100 + n * 0x20
abbrev NR_CFG_OUTS (n : Nat) : Fld := ⟨R_NR_CFG n, 15, 8⟩
abbrev NR_CFG_ALWAYS (n : Nat) : Fld := ⟨R_NR_CFG n, 5, 5⟩
abbrev NR_CFG_V (n : Nat) : Fld := ⟨R_NR_CFG n, 3, 3⟩
abbrev NR_CFG_B (n : Nat) : Fld := ⟨R_NR_CFG n, 2, 2⟩
abbrev NR_CFG_A (n : Nat) : Fld := ⟨R_NR_CFG n, 1, 1⟩
abbrev NR_CFG_EN (n : Nat) : Fld := ⟨R_NR_CFG n, 0, 0⟩
/-- NR_STAT, Table 12.8. -/
abbrev R_NR_STAT (n : Nat) : Nat := 0xB0104 + n * 0x20
abbrev NR_STAT_IANT (n : Nat) : Fld := ⟨R_NR_STAT n, 31, 16⟩
abbrev NR_STAT_PROT (n : Nat) : Fld := ⟨R_NR_STAT n, 9, 8⟩
abbrev NR_STAT_STATE (n : Nat) : Fld := ⟨R_NR_STAT n, 2, 0⟩
/-- NR_UID_0, Table 12.8. -/
abbrev R_NR_UID_0 (n : Nat) : Nat := 0xB0108 + n * 0x20
abbrev NR_UID_0_UID (n : Nat) : Fld := ⟨R_NR_UID_0 n, 31, 0⟩
/-- NR_UID_1, Table 12.8. -/
abbrev R_NR_UID_1 (n : Nat) : Nat := 0xB010C + n * 0x20
abbrev NR_UID_1_UID (n : Nat) : Fld := ⟨R_NR_UID_1 n, 31, 0⟩
/-- NR_UID_2, Table 12.8. -/
abbrev R_NR_UID_2 (n : Nat) : Nat := 0xB0110 + n * 0x20
abbrev NR_UID_2_LEN (n : Nat) : Fld := ⟨R_NR_UID_2 n, 27, 24⟩
abbrev NR_UID_2_UID (n : Nat) : Fld := ⟨R_NR_UID_2 n, 15, 0⟩
/-- NR_ERR, Table 12.8. -/
abbrev R_NR_ERR (n : Nat) : Nat := 0xB0114 + n * 0x20
abbrev NR_ERR_CRC (n : Nat) : Fld := ⟨R_NR_ERR n, 31, 24⟩
abbrev NR_ERR_COLL (n : Nat) : Fld := ⟨R_NR_ERR n, 23, 16⟩
abbrev NR_ERR_ANT (n : Nat) : Fld := ⟨R_NR_ERR n, 15, 8⟩
abbrev NR_ERR_DEFER (n : Nat) : Fld := ⟨R_NR_ERR n, 7, 0⟩
/-- NT_CFG, Table 12.8. -/
abbrev R_NT_CFG : Nat := 0xB0200
abbrev NT_CFG_SNAP_T : Fld := ⟨R_NT_CFG, 15, 8⟩
abbrev NT_CFG_MBX_EN : Fld := ⟨R_NT_CFG, 1, 1⟩
abbrev NT_CFG_AUTH_EN : Fld := ⟨R_NT_CFG, 0, 0⟩
/-- NT_STAT, Table 12.8. -/
abbrev R_NT_STAT : Nat := 0xB0204
abbrev NT_STAT_MQ : Fld := ⟨R_NT_STAT, 23, 16⟩
abbrev NT_STAT_FAILS : Fld := ⟨R_NT_STAT, 11, 8⟩
abbrev NT_STAT_KEY : Fld := ⟨R_NT_STAT, 2, 2⟩
abbrev NT_STAT_AUTH : Fld := ⟨R_NT_STAT, 1, 1⟩
abbrev NT_STAT_FIELD : Fld := ⟨R_NT_STAT, 0, 0⟩
/-- NT_MBX, Table 12.8. -/
abbrev R_NT_MBX : Nat := 0xB0208
abbrev NT_MBX_RESULT : Fld := ⟨R_NT_MBX, 17, 16⟩
abbrev NT_MBX_SEQ : Fld := ⟨R_NT_MBX, 15, 0⟩
/-- NT_ERR, Table 12.8. -/
abbrev R_NT_ERR : Nat := 0xB020C
abbrev NT_ERR_FWD : Fld := ⟨R_NT_ERR, 31, 24⟩
abbrev NT_ERR_DISC : Fld := ⟨R_NT_ERR, 23, 16⟩
abbrev NT_ERR_AUTHF : Fld := ⟨R_NT_ERR, 15, 8⟩
abbrev NT_ERR_MOVF : Fld := ⟨R_NT_ERR, 7, 0⟩
/-- ML_GCFG, Table 13.5. -/
abbrev R_ML_GCFG : Nat := 0xC0000
abbrev ML_GCFG_DISC_T : Fld := ⟨R_ML_GCFG, 31, 24⟩
abbrev ML_GCFG_POLL_CYC : Fld := ⟨R_ML_GCFG, 23, 16⟩
abbrev ML_GCFG_TIME_EN : Fld := ⟨R_ML_GCFG, 1, 1⟩
abbrev ML_GCFG_EN : Fld := ⟨R_ML_GCFG, 0, 0⟩
/-- ML_CPL, Table 13.5. -/
abbrev R_ML_CPL : Nat := 0xC0004
abbrev ML_CPL_DLY : Fld := ⟨R_ML_CPL, 15, 0⟩
/-- ML_STAT, Table 13.5. -/
abbrev R_ML_STAT : Nat := 0xC0008
abbrev ML_STAT_OVR : Fld := ⟨R_ML_STAT, 31, 24⟩
abbrev ML_STAT_NLOST : Fld := ⟨R_ML_STAT, 13, 8⟩
abbrev ML_STAT_NACT : Fld := ⟨R_ML_STAT, 7, 2⟩
abbrev ML_STAT_STATE : Fld := ⟨R_ML_STAT, 1, 0⟩
/-- ML_ERR, Table 13.5. -/
abbrev R_ML_ERR : Nat := 0xC000C
abbrev ML_ERR_CRC : Fld := ⟨R_ML_ERR, 31, 24⟩
abbrev ML_ERR_NORESP : Fld := ⟨R_ML_ERR, 23, 16⟩
abbrev ML_ERR_IMP : Fld := ⟨R_ML_ERR, 15, 8⟩
abbrev ML_ERR_UNK : Fld := ⟨R_ML_ERR, 7, 0⟩
/-- ML_ID_LO, Table 13.5. -/
abbrev R_ML_ID_LO (n : Nat) : Nat := 0xC0100 + n * 0x10
abbrev ML_ID_LO_ID (n : Nat) : Fld := ⟨R_ML_ID_LO n, 31, 0⟩
/-- ML_ID_HI, Table 13.5. -/
abbrev R_ML_ID_HI (n : Nat) : Nat := 0xC0104 + n * 0x10
abbrev ML_ID_HI_EN (n : Nat) : Fld := ⟨R_ML_ID_HI n, 31, 31⟩
abbrev ML_ID_HI_ID (n : Nat) : Fld := ⟨R_ML_ID_HI n, 15, 0⟩
/-- ML_LQ, Table 13.5. -/
abbrev R_ML_LQ (n : Nat) : Nat := 0xC0108 + n * 0x10
abbrev ML_LQ_SNR (n : Nat) : Fld := ⟨R_ML_LQ n, 31, 24⟩
abbrev ML_LQ_RPT1 (n : Nat) : Fld := ⟨R_ML_LQ n, 23, 18⟩
abbrev ML_LQ_RPT2 (n : Nat) : Fld := ⟨R_ML_LQ n, 17, 12⟩
abbrev ML_LQ_MODE (n : Nat) : Fld := ⟨R_ML_LQ n, 8, 6⟩
abbrev ML_LQ_HOPS (n : Nat) : Fld := ⟨R_ML_LQ n, 1, 0⟩
/-- ML_SST, Table 13.5. -/
abbrev R_ML_SST (n : Nat) : Nat := 0xC010C + n * 0x10
abbrev ML_SST_AGE (n : Nat) : Fld := ⟨R_ML_SST n, 31, 8⟩
abbrev ML_SST_MISS (n : Nat) : Fld := ⟨R_ML_SST n, 7, 4⟩
abbrev ML_SST_STATE (n : Nat) : Fld := ⟨R_ML_SST n, 1, 0⟩
/-- HR_STATUS, Table 14.14. -/
abbrev R_HR_STATUS : Nat := 0xD0000
abbrev HR_STATUS_JUSED : Fld := ⟨R_HR_STATUS, 20, 8⟩
abbrev HR_STATUS_STATE : Fld := ⟨R_HR_STATUS, 2, 0⟩
/-- HR_EPOCH, Table 14.14. -/
abbrev R_HR_EPOCH : Nat := 0xD0004
abbrev HR_EPOCH_EPOCH : Fld := ⟨R_HR_EPOCH, 31, 0⟩
/-- HR_LINK, Table 14.14. -/
abbrev R_HR_LINK : Nat := 0xD0008
abbrev HR_LINK_WIDTH : Fld := ⟨R_HR_LINK, 9, 4⟩
abbrev HR_LINK_SPEED : Fld := ⟨R_HR_LINK, 3, 0⟩
/-- HR_ERR, Table 14.14. -/
abbrev R_HR_ERR : Nat := 0xD000C
abbrev HR_ERR_LINKDN : Fld := ⟨R_HR_ERR, 31, 24⟩
abbrev HR_ERR_FLR : Fld := ⟨R_HR_ERR, 23, 16⟩
abbrev HR_ERR_TORN : Fld := ⟨R_HR_ERR, 15, 8⟩
abbrev HR_ERR_UNREAD : Fld := ⟨R_HR_ERR, 7, 0⟩
/-- HR_WINSUM, Table 14.14. -/
abbrev R_HR_WINSUM : Nat := 0xD0010
abbrev HR_WINSUM_SUM : Fld := ⟨R_HR_WINSUM, 14, 0⟩
/-- RING_CFG, Table 14.14. -/
abbrev R_RING_CFG (n : Nat) : Nat := 0xD0100 + n * 0x40
abbrev RING_CFG_VEC (n : Nat) : Fld := ⟨R_RING_CFG n, 29, 24⟩
abbrev RING_CFG_WIN (n : Nat) : Fld := ⟨R_RING_CFG n, 23, 15⟩
abbrev RING_CFG_INST (n : Nat) : Fld := ⟨R_RING_CFG n, 7, 4⟩
abbrev RING_CFG_TYPE (n : Nat) : Fld := ⟨R_RING_CFG n, 3, 0⟩
/-- RING_SIZE, Table 14.14. -/
abbrev R_RING_SIZE (n : Nat) : Nat := 0xD0104 + n * 0x40
abbrev RING_SIZE_LOG2 (n : Nat) : Fld := ⟨R_RING_SIZE n, 3, 0⟩
/-- RING_DBASE_LO, Table 14.14. -/
abbrev R_RING_DBASE_LO (n : Nat) : Nat := 0xD0108 + n * 0x40
abbrev RING_DBASE_LO_BASE (n : Nat) : Fld := ⟨R_RING_DBASE_LO n, 31, 0⟩
/-- RING_DBASE_HI, Table 14.14. -/
abbrev R_RING_DBASE_HI (n : Nat) : Nat := 0xD010C + n * 0x40
abbrev RING_DBASE_HI_BASE (n : Nat) : Fld := ⟨R_RING_DBASE_HI n, 31, 0⟩
/-- RING_CBASE_LO, Table 14.14. -/
abbrev R_RING_CBASE_LO (n : Nat) : Nat := 0xD0110 + n * 0x40
abbrev RING_CBASE_LO_BASE (n : Nat) : Fld := ⟨R_RING_CBASE_LO n, 31, 0⟩
/-- RING_CBASE_HI, Table 14.14. -/
abbrev R_RING_CBASE_HI (n : Nat) : Nat := 0xD0114 + n * 0x40
abbrev RING_CBASE_HI_BASE (n : Nat) : Fld := ⟨R_RING_CBASE_HI n, 31, 0⟩
/-- RING_SBASE_LO, Table 14.14. -/
abbrev R_RING_SBASE_LO (n : Nat) : Nat := 0xD0118 + n * 0x40
abbrev RING_SBASE_LO_BASE (n : Nat) : Fld := ⟨R_RING_SBASE_LO n, 31, 0⟩
/-- RING_SBASE_HI, Table 14.14. -/
abbrev R_RING_SBASE_HI (n : Nat) : Nat := 0xD011C + n * 0x40
abbrev RING_SBASE_HI_BASE (n : Nat) : Fld := ⟨R_RING_SBASE_HI n, 31, 0⟩
/-- RING_COAL, Table 14.14. -/
abbrev R_RING_COAL (n : Nat) : Nat := 0xD0120 + n * 0x40
abbrev RING_COAL_COAL_N (n : Nat) : Fld := ⟨R_RING_COAL n, 23, 16⟩
abbrev RING_COAL_COAL_T (n : Nat) : Fld := ⟨R_RING_COAL n, 15, 0⟩
/-- RING_CTRL, Table 14.14. -/
abbrev R_RING_CTRL (n : Nat) : Nat := 0xD0124 + n * 0x40
abbrev RING_CTRL_FLUSH (n : Nat) : Fld := ⟨R_RING_CTRL n, 3, 3⟩
abbrev RING_CTRL_RESUME (n : Nat) : Fld := ⟨R_RING_CTRL n, 2, 2⟩
abbrev RING_CTRL_DISABLE (n : Nat) : Fld := ⟨R_RING_CTRL n, 1, 1⟩
abbrev RING_CTRL_ENABLE (n : Nat) : Fld := ⟨R_RING_CTRL n, 0, 0⟩
/-- RING_STAT, Table 14.14. -/
abbrev R_RING_STAT (n : Nat) : Nat := 0xD0128 + n * 0x40
abbrev RING_STAT_OUTST (n : Nat) : Fld := ⟨R_RING_STAT n, 24, 16⟩
abbrev RING_STAT_ERR (n : Nat) : Fld := ⟨R_RING_STAT n, 7, 4⟩
abbrev RING_STAT_STATE (n : Nat) : Fld := ⟨R_RING_STAT n, 2, 0⟩
/-- RING_ACK, Table 14.14. -/
abbrev R_RING_ACK (n : Nat) : Nat := 0xD012C + n * 0x40
abbrev RING_ACK_ACK_IDX (n : Nat) : Fld := ⟨R_RING_ACK n, 31, 0⟩
/-- RING_CPROD, Table 14.14. -/
abbrev R_RING_CPROD (n : Nat) : Nat := 0xD0130 + n * 0x40
abbrev RING_CPROD_CPROD (n : Nat) : Fld := ⟨R_RING_CPROD n, 31, 0⟩
/-- RING_CHEAD, Table 14.14. -/
abbrev R_RING_CHEAD (n : Nat) : Nat := 0xD0134 + n * 0x40
abbrev RING_CHEAD_CHEAD (n : Nat) : Fld := ⟨R_RING_CHEAD n, 31, 0⟩
/-- RING_ERR, Table 14.14. -/
abbrev R_RING_ERR (n : Nat) : Nat := 0xD0138 + n * 0x40
abbrev RING_ERR_BAD (n : Nat) : Fld := ⟨R_RING_ERR n, 31, 24⟩
abbrev RING_ERR_DMA (n : Nat) : Fld := ⟨R_RING_ERR n, 23, 16⟩
abbrev RING_ERR_REPLAY (n : Nat) : Fld := ⟨R_RING_ERR n, 15, 8⟩
abbrev RING_ERR_WAIT (n : Nat) : Fld := ⟨R_RING_ERR n, 7, 0⟩
/-- KB_BOOT, Table 15.13. -/
abbrev R_KB_BOOT : Nat := 0xE0000
abbrev KB_BOOT_RCAUSE : Fld := ⟨R_KB_BOOT, 31, 28⟩
abbrev KB_BOOT_FVK : Fld := ⟨R_KB_BOOT, 19, 16⟩
abbrev KB_BOOT_REVOKED : Fld := ⟨R_KB_BOOT, 11, 8⟩
abbrev KB_BOOT_PEND : Fld := ⟨R_KB_BOOT, 2, 2⟩
abbrev KB_BOOT_TRIAL : Fld := ⟨R_KB_BOOT, 1, 1⟩
abbrev KB_BOOT_ACTIVE : Fld := ⟨R_KB_BOOT, 0, 0⟩
/-- KB_BANK_VER, Table 15.13. -/
abbrev R_KB_BANK_VER (b : Nat) : Nat := 0xE0010 + b * 0x10
abbrev KB_BANK_VER_VERSION (b : Nat) : Fld := ⟨R_KB_BANK_VER b, 31, 0⟩
/-- KB_BANK_STAT, Table 15.13. -/
abbrev R_KB_BANK_STAT (b : Nat) : Nat := 0xE0014 + b * 0x10
abbrev KB_BANK_STAT_SVN (b : Nat) : Fld := ⟨R_KB_BANK_STAT b, 31, 24⟩
abbrev KB_BANK_STAT_STATE (b : Nat) : Fld := ⟨R_KB_BANK_STAT b, 3, 0⟩
/-- KB_BANK_LEGAL, Table 15.13. -/
abbrev R_KB_BANK_LEGAL (b : Nat) : Nat := 0xE0018 + b * 0x10
abbrev KB_BANK_LEGAL_LEGAL_VER (b : Nat) : Fld := ⟨R_KB_BANK_LEGAL b, 31, 0⟩
/-- UPD_CFG, Table 15.13. -/
abbrev R_UPD_CFG : Nat := 0xE0030
abbrev UPD_CFG_CONF_T : Fld := ⟨R_UPD_CFG, 31, 16⟩
abbrev UPD_CFG_MANUAL : Fld := ⟨R_UPD_CFG, 0, 0⟩
/-- UPD_STATUS, Table 15.13. -/
abbrev R_UPD_STATUS : Nat := 0xE0034
abbrev UPD_STATUS_REASON : Fld := ⟨R_UPD_STATUS, 31, 24⟩
abbrev UPD_STATUS_PROGRESS : Fld := ⟨R_UPD_STATUS, 15, 8⟩
abbrev UPD_STATUS_STATE : Fld := ⟨R_UPD_STATUS, 2, 0⟩
/-- UPD_LOCK, Table 15.13. -/
abbrev R_UPD_LOCK : Nat := 0xE0038
abbrev UPD_LOCK_HOLDER : Fld := ⟨R_UPD_LOCK, 31, 0⟩
/-- KB_CNT, Table 15.13. -/
abbrev R_KB_CNT : Nat := 0xE003C
abbrev KB_CNT_ID_LEFT : Fld := ⟨R_KB_CNT, 16, 16⟩
abbrev KB_CNT_ARB_LEFT : Fld := ⟨R_KB_CNT, 15, 8⟩
abbrev KB_CNT_ARB : Fld := ⟨R_KB_CNT, 7, 0⟩
/-- KEY_SEL, Table 15.13. -/
abbrev R_KEY_SEL : Nat := 0xE0050
abbrev KEY_SEL_SLOT : Fld := ⟨R_KEY_SEL, 7, 0⟩
/-- KEY_ATTR, Table 15.13. -/
abbrev R_KEY_ATTR : Nat := 0xE0054
abbrev KEY_ATTR_MASK : Fld := ⟨R_KEY_ATTR, 31, 16⟩
abbrev KEY_ATTR_CHAIN : Fld := ⟨R_KEY_ATTR, 5, 5⟩
abbrev KEY_ATTR_ORIGIN : Fld := ⟨R_KEY_ATTR, 4, 4⟩
abbrev KEY_ATTR_PUB : Fld := ⟨R_KEY_ATTR, 3, 3⟩
abbrev KEY_ATTR_ALG : Fld := ⟨R_KEY_ATTR, 2, 0⟩
/-- KEY_ID, Table 15.13. -/
abbrev R_KEY_ID : Nat := 0xE0058
abbrev KEY_ID_ID : Fld := ⟨R_KEY_ID, 31, 0⟩
/-- KEY_VER, Table 15.13. -/
abbrev R_KEY_VER : Nat := 0xE005C
abbrev KEY_VER_VER : Fld := ⟨R_KEY_VER, 31, 0⟩
/-- ROLE_STAT, Table 15.13. -/
abbrev R_ROLE_STAT : Nat := 0xE0060
abbrev ROLE_STAT_MAKER : Fld := ⟨R_ROLE_STAT, 19, 15⟩
abbrev ROLE_STAT_METRO : Fld := ⟨R_ROLE_STAT, 14, 10⟩
abbrev ROLE_STAT_SERV : Fld := ⟨R_ROLE_STAT, 9, 5⟩
abbrev ROLE_STAT_OPER : Fld := ⟨R_ROLE_STAT, 4, 0⟩
/-- MI_GCFG, Table 16.7. -/
abbrev R_MI_GCFG : Nat := 0xF0000
abbrev MI_GCFG_MRAM_T : Fld := ⟨R_MI_GCFG, 31, 16⟩
abbrev MI_GCFG_SRAM_T : Fld := ⟨R_MI_GCFG, 15, 8⟩
/-- MI_STATUS, Table 16.7. -/
abbrev R_MI_STATUS : Nat := 0xF0004
abbrev MI_STATUS_LATE : Fld := ⟨R_MI_STATUS, 24, 16⟩
abbrev MI_STATUS_UNC : Fld := ⟨R_MI_STATUS, 8, 0⟩
/-- MI_SCR, Table 16.7. -/
abbrev R_MI_SCR (m : Nat) : Nat := 0xF0100 + m * 0x20
abbrev MI_SCR_LAST (m : Nat) : Fld := ⟨R_MI_SCR m, 31, 16⟩
abbrev MI_SCR_PROG (m : Nat) : Fld := ⟨R_MI_SCR m, 6, 0⟩
/-- MI_CNT, Table 16.7. -/
abbrev R_MI_CNT (m : Nat) : Nat := 0xF0104 + m * 0x20
abbrev MI_CNT_CORR (m : Nat) : Fld := ⟨R_MI_CNT m, 31, 24⟩
abbrev MI_CNT_UNC (m : Nat) : Fld := ⟨R_MI_CNT m, 23, 16⟩
abbrev MI_CNT_UNWR (m : Nat) : Fld := ⟨R_MI_CNT m, 15, 8⟩
abbrev MI_CNT_MERGE (m : Nat) : Fld := ⟨R_MI_CNT m, 7, 0⟩
/-- MI_ADDR, Table 16.7. -/
abbrev R_MI_ADDR (m : Nat) : Nat := 0xF0108 + m * 0x20
abbrev MI_ADDR_ADDR (m : Nat) : Fld := ⟨R_MI_ADDR m, 31, 0⟩
/-- MI_SYND, Table 16.7. -/
abbrev R_MI_SYND (m : Nat) : Nat := 0xF010C + m * 0x20
abbrev MI_SYND_SYND (m : Nat) : Fld := ⟨R_MI_SYND m, 31, 0⟩
/-- MI_REMAP, Table 16.7. -/
abbrev R_MI_REMAP (m : Nat) : Nat := 0xF0110 + m * 0x20
abbrev MI_REMAP_USED (m : Nat) : Fld := ⟨R_MI_REMAP m, 15, 8⟩
abbrev MI_REMAP_SPARE (m : Nat) : Fld := ⟨R_MI_REMAP m, 7, 0⟩
/-- MI_POIS, Table 16.7. -/
abbrev R_MI_POIS (m : Nat) : Nat := 0xF0114 + m * 0x20
abbrev MI_POIS_COUNT (m : Nat) : Fld := ⟨R_MI_POIS m, 15, 0⟩
/-- CVU_CFG, Table 16.7. -/
abbrev R_CVU_CFG (u : Nat) : Nat := 0xF0400 + u * 0x20
abbrev CVU_CFG_PERIOD (u : Nat) : Fld := ⟨R_CVU_CFG u, 23, 16⟩
abbrev CVU_CFG_ACTION (u : Nat) : Fld := ⟨R_CVU_CFG u, 7, 6⟩
abbrev CVU_CFG_STATE (u : Nat) : Fld := ⟨R_CVU_CFG u, 3, 2⟩
abbrev CVU_CFG_GUARD (u : Nat) : Fld := ⟨R_CVU_CFG u, 1, 1⟩
abbrev CVU_CFG_SWEEP (u : Nat) : Fld := ⟨R_CVU_CFG u, 0, 0⟩
/-- CVU_BASE, Table 16.7. -/
abbrev R_CVU_BASE (u : Nat) : Nat := 0xF0404 + u * 0x20
abbrev CVU_BASE_BASE (u : Nat) : Fld := ⟨R_CVU_BASE u, 31, 0⟩
/-- CVU_LEN, Table 16.7. -/
abbrev R_CVU_LEN (u : Nat) : Nat := 0xF0408 + u * 0x20
abbrev CVU_LEN_LEN (u : Nat) : Fld := ⟨R_CVU_LEN u, 31, 0⟩
/-- CVU_EXP, Table 16.7. -/
abbrev R_CVU_EXP (u : Nat) : Nat := 0xF040C + u * 0x20
abbrev CVU_EXP_EXPECT (u : Nat) : Fld := ⟨R_CVU_EXP u, 31, 0⟩
/-- CVU_ACC, Table 16.7. -/
abbrev R_CVU_ACC (u : Nat) : Nat := 0xF0410 + u * 0x20
abbrev CVU_ACC_ACC (u : Nat) : Fld := ⟨R_CVU_ACC u, 31, 0⟩
/-- CVU_CNT, Table 16.7. -/
abbrev R_CVU_CNT (u : Nat) : Nat := 0xF0414 + u * 0x20
abbrev CVU_CNT_HITS (u : Nat) : Fld := ⟨R_CVU_CNT u, 31, 24⟩
abbrev CVU_CNT_FAILS (u : Nat) : Fld := ⟨R_CVU_CNT u, 23, 16⟩
abbrev CVU_CNT_SWEEPS (u : Nat) : Fld := ⟨R_CVU_CNT u, 15, 0⟩
/-- MD_REQ, Table 17.11. -/
abbrev R_MD_REQ : Nat := 0x100000
abbrev MD_REQ_TARGET : Fld := ⟨R_MD_REQ, 3, 0⟩
/-- MD_STAT, Table 17.11. -/
abbrev R_MD_STAT : Nat := 0x100004
abbrev MD_STAT_BENCH_WAIT : Fld := ⟨R_MD_STAT, 8, 8⟩
abbrev MD_STAT_ENTRY : Fld := ⟨R_MD_STAT, 7, 4⟩
abbrev MD_STAT_REASON : Fld := ⟨R_MD_STAT, 3, 0⟩
/-- SUP_V, Table 17.11. -/
abbrev R_SUP_V : Nat := 0x100010
abbrev SUP_V_B : Fld := ⟨R_SUP_V, 31, 16⟩
abbrev SUP_V_A : Fld := ⟨R_SUP_V, 15, 0⟩
/-- SUP_STAT, Table 17.11. -/
abbrev R_SUP_STAT : Nat := 0x100014
abbrev SUP_STAT_HOLDUP_LOW : Fld := ⟨R_SUP_STAT, 6, 6⟩
abbrev SUP_STAT_EOS : Fld := ⟨R_SUP_STAT, 5, 5⟩
abbrev SUP_STAT_STORE_RDY : Fld := ⟨R_SUP_STAT, 4, 4⟩
abbrev SUP_STAT_STORE : Fld := ⟨R_SUP_STAT, 3, 3⟩
abbrev SUP_STAT_HOLD : Fld := ⟨R_SUP_STAT, 2, 2⟩
abbrev SUP_STAT_B_OK : Fld := ⟨R_SUP_STAT, 1, 1⟩
abbrev SUP_STAT_A_OK : Fld := ⟨R_SUP_STAT, 0, 0⟩
/-- SUP_STORE, Table 17.11. -/
abbrev R_SUP_STORE : Nat := 0x100018
abbrev SUP_STORE_EUSE : Fld := ⟨R_SUP_STORE, 31, 16⟩
abbrev SUP_STORE_V : Fld := ⟨R_SUP_STORE, 15, 0⟩
/-- SUP_CNT, Table 17.11. -/
abbrev R_SUP_CNT : Nat := 0x10001C
abbrev SUP_CNT_DIPS : Fld := ⟨R_SUP_CNT, 31, 24⟩
abbrev SUP_CNT_HOLDUPS : Fld := ⟨R_SUP_CNT, 23, 16⟩
abbrev SUP_CNT_EOS : Fld := ⟨R_SUP_CNT, 15, 8⟩
abbrev SUP_CNT_INPUT : Fld := ⟨R_SUP_CNT, 7, 0⟩
/-- FRZ_CFG, Table 17.11. -/
abbrev R_FRZ_CFG : Nat := 0x100030
abbrev FRZ_CFG_AUTO_RST : Fld := ⟨R_FRZ_CFG, 8, 8⟩
abbrev FRZ_CFG_AUTO : Fld := ⟨R_FRZ_CFG, 3, 0⟩
/-- FRZ_CTRL, Table 17.11. -/
abbrev R_FRZ_CTRL : Nat := 0x100034
abbrev FRZ_CTRL_REQ : Fld := ⟨R_FRZ_CTRL, 4, 4⟩
abbrev FRZ_CTRL_PROT : Fld := ⟨R_FRZ_CTRL, 3, 0⟩
/-- FRZ_STAT, Table 17.11. -/
abbrev R_FRZ_STAT : Nat := 0x100038
abbrev FRZ_STAT_LAST : Fld := ⟨R_FRZ_STAT, 7, 6⟩
abbrev FRZ_STAT_CAP_OK : Fld := ⟨R_FRZ_STAT, 5, 5⟩
/-- CAP_IDX, Table 17.11. -/
abbrev R_CAP_IDX (s : Nat) : Nat := 0x100040 + s * 0x10
abbrev CAP_IDX_INDEX (s : Nat) : Fld := ⟨R_CAP_IDX s, 31, 0⟩
/-- CAP_ST, Table 17.11. -/
abbrev R_CAP_ST (s : Nat) : Nat := 0x100044 + s * 0x10
abbrev CAP_ST_STATUS (s : Nat) : Fld := ⟨R_CAP_ST s, 25, 24⟩
abbrev CAP_ST_SIZE (s : Nat) : Fld := ⟨R_CAP_ST s, 23, 0⟩
/-- CAP_TIME_LO, Table 17.11. -/
abbrev R_CAP_TIME_LO (s : Nat) : Nat := 0x100048 + s * 0x10
abbrev CAP_TIME_LO_T (s : Nat) : Fld := ⟨R_CAP_TIME_LO s, 31, 0⟩
/-- CAP_TIME_HI, Table 17.11. -/
abbrev R_CAP_TIME_HI (s : Nat) : Nat := 0x10004C + s * 0x10
abbrev CAP_TIME_HI_T (s : Nat) : Fld := ⟨R_CAP_TIME_HI s, 31, 0⟩
/-- CAP_PAGE, Table 17.11. -/
abbrev R_CAP_PAGE : Nat := 0x100080
abbrev CAP_PAGE_SLOT : Fld := ⟨R_CAP_PAGE, 14, 13⟩
abbrev CAP_PAGE_PAGE : Fld := ⟨R_CAP_PAGE, 12, 0⟩
/-- BN_CTRL, Table 17.11. -/
abbrev R_BN_CTRL : Nat := 0x1000A0
abbrev BN_CTRL_STEP_N : Fld := ⟨R_BN_CTRL, 31, 16⟩
abbrev BN_CTRL_MET : Fld := ⟨R_BN_CTRL, 2, 2⟩
abbrev BN_CTRL_STEP : Fld := ⟨R_BN_CTRL, 1, 1⟩
abbrev BN_CTRL_HOLD : Fld := ⟨R_BN_CTRL, 0, 0⟩
/-- TW_CFG, Table 17.11. -/
abbrev R_TW_CFG : Nat := 0x1000C0
abbrev TW_CFG_EN : Fld := ⟨R_TW_CFG, 0, 0⟩
/-- TW_STAT, Table 17.11. -/
abbrev R_TW_STAT : Nat := 0x1000C4
abbrev TW_STAT_PEER_MODE : Fld := ⟨R_TW_STAT, 11, 8⟩
abbrev TW_STAT_LINK : Fld := ⟨R_TW_STAT, 7, 7⟩
abbrev TW_STAT_STATE : Fld := ⟨R_TW_STAT, 2, 0⟩
/-- TW_CTRL, Table 17.11. -/
abbrev R_TW_CTRL : Nat := 0x1000C8
abbrev TW_CTRL_HANDOVER : Fld := ⟨R_TW_CTRL, 0, 0⟩
/-- TW_OFS, Table 17.11. -/
abbrev R_TW_OFS : Nat := 0x1000CC
abbrev TW_OFS_OFS : Fld := ⟨R_TW_OFS, 31, 0⟩
/-- TW_HASH, Table 17.11. -/
abbrev R_TW_HASH : Nat := 0x1000D0
abbrev TW_HASH_HASH : Fld := ⟨R_TW_HASH, 31, 0⟩
/-- TW_PEER_LO, Table 17.11. -/
abbrev R_TW_PEER_LO : Nat := 0x1000D4
abbrev TW_PEER_LO_SERIAL : Fld := ⟨R_TW_PEER_LO, 31, 0⟩
/-- TW_PEER_HI, Table 17.11. -/
abbrev R_TW_PEER_HI : Nat := 0x1000D8
abbrev TW_PEER_HI_SERIAL : Fld := ⟨R_TW_PEER_HI, 31, 0⟩
/-- TW_ERR, Table 17.11. -/
abbrev R_TW_ERR : Nat := 0x1000DC
abbrev TW_ERR_CRC : Fld := ⟨R_TW_ERR, 31, 24⟩
abbrev TW_ERR_MISS : Fld := ⟨R_TW_ERR, 23, 16⟩
abbrev TW_ERR_TAKE : Fld := ⟨R_TW_ERR, 15, 8⟩
abbrev TW_ERR_LOSS : Fld := ⟨R_TW_ERR, 7, 0⟩
/-- CAP_WIN, Table 17.11. -/
abbrev R_CAP_WIN : Nat := 0x101000
abbrev CAP_WIN_DATA : Fld := ⟨R_CAP_WIN, 31, 0⟩

/-- The register table of the block at BAR0 index 0x00 (spec/01). -/
def regTable01 : List RegSpec := [
  ⟨0x00000, [], .none, [⟨31, 16, [.ro], 31569⟩, ⟨15, 0, [.ro], 38472⟩]⟩,
  ⟨0x00004, [], .none, [⟨15, 8, [.ro], 0⟩, ⟨7, 0, [.ro], 65⟩]⟩,
  ⟨0x00008, [], .none, [⟨31, 24, [.ro], 1⟩, ⟨23, 16, [.ro], 0⟩, ⟨15, 0, [.ro], 0⟩]⟩,
  ⟨0x0000C, [], .none, [⟨31, 24, [.ro], 1⟩, ⟨23, 16, [.ro], 0⟩, ⟨15, 0, [.ro], 0⟩]⟩,
  ⟨0x00010, [], .none, [⟨31, 0, [.ro], 0⟩]⟩,
  ⟨0x00014, [], .none, [⟨31, 0, [.ro], 0⟩]⟩,
  ⟨0x00018, [], .none, [⟨1, 0, [.ro], 0⟩]⟩,
  ⟨0x0001C, [], .none, [⟨8, 8, [.ro], 0⟩, ⟨7, 4, [.ro], 0⟩, ⟨3, 0, [.ro], 0⟩]⟩,
  ⟨0x00020, [], .none, [⟨1, 1, [.ro], 0⟩, ⟨0, 0, [.w1s], 0⟩]⟩,
  ⟨0x00024, [], .none, [⟨15, 14, [.ro], 0⟩, ⟨13, 12, [.ro], 0⟩, ⟨11, 10, [.ro], 0⟩, ⟨9, 8, [.ro], 0⟩, ⟨7, 6, [.ro], 0⟩, ⟨5, 4, [.ro], 0⟩, ⟨3, 2, [.ro], 0⟩, ⟨1, 0, [.ro], 0⟩]⟩,
  ⟨0x00028, [], .none, [⟨25, 16, [.ro], 0⟩, ⟨9, 0, [.ro], 1⟩]⟩,
  ⟨0x0002C, [], .none, [⟨2, 2, [.w1c], 0⟩, ⟨1, 1, [.w1c], 0⟩, ⟨0, 0, [.ro], 0⟩]⟩,
  ⟨0x00030, [], .none, [⟨31, 24, [.ro], 0⟩, ⟨23, 16, [.ro], 0⟩, ⟨15, 8, [.ro], 0⟩, ⟨7, 0, [.ro], 0⟩]⟩,
  ⟨0x00034, [], .none, [⟨31, 28, [.ro], 0⟩, ⟨27, 16, [.ro], 0⟩, ⟨15, 0, [.ro], 0⟩]⟩]

/-- The register table of the block at BAR0 index 0x01 (spec/02). -/
def regTable02 : List RegSpec := [
  ⟨0x10000, [], .none, [⟨2, 2, [.rw,.lk], 0⟩, ⟨1, 0, [.rw,.lk], 0⟩]⟩,
  ⟨0x10004, [], .none, [⟨28, 16, [.ro], 300⟩, ⟨13, 0, [.ro], 1000⟩]⟩,
  ⟨0x10008, [], .none, [⟨31, 0, [.ro], 0⟩]⟩,
  ⟨0x1000C, [], .none, [⟨31, 0, [.ro], 0⟩]⟩,
  ⟨0x10010, [], .none, [⟨31, 24, [.w1c], 0⟩, ⟨23, 16, [.w1c], 0⟩, ⟨15, 8, [.w1c], 0⟩, ⟨7, 0, [.w1c], 0⟩]⟩,
  ⟨0x10020, [], .none, [⟨31, 0, [.ro], 0⟩]⟩,
  ⟨0x10024, [], .none, [⟨31, 0, [.ro], 0⟩]⟩,
  ⟨0x10028, [], .none, [⟨15, 0, [.ro], 0⟩]⟩,
  ⟨0x1002C, [], .none, [⟨31, 31, [.rw], 0⟩, ⟨15, 0, [.rw], 0⟩]⟩,
  ⟨0x10030, [], .none, [⟨23, 16, [.ro], 248⟩, ⟨5, 5, [.ro], 0⟩, ⟨4, 4, [.ro], 0⟩, ⟨3, 3, [.ro], 0⟩, ⟨2, 0, [.ro], 0⟩]⟩,
  ⟨0x10034, [], .none, [⟨23, 14, [.rw,.lk], 500⟩, ⟨13, 10, [.rw,.lk], 2⟩, ⟨9, 8, [.rw,.lk], 0⟩, ⟨3, 3, [.rw,.lk], 0⟩, ⟨2, 2, [.rw], 0⟩, ⟨1, 1, [.rw], 1⟩, ⟨0, 0, [.rw,.lk], 1⟩]⟩,
  ⟨0x10038, [], .none, [⟨31, 0, [.ro], 0⟩]⟩,
  ⟨0x1003C, [], .none, [⟨31, 0, [.ro], 0⟩]⟩,
  ⟨0x10040, [], .none, [⟨31, 0, [.ro], 0⟩]⟩,
  ⟨0x10044, [], .none, [⟨19, 0, [.ro], 0⟩]⟩,
  ⟨0x10048, [], .none, [⟨15, 0, [.rw,.lk], 0⟩]⟩,
  ⟨0x10050, [], .none, [⟨31, 24, [.rw,.lk], 128⟩, ⟨23, 16, [.rw,.lk], 128⟩, ⟨15, 9, [.rw,.lk], 0⟩, ⟨1, 1, [.rw,.lk], 0⟩, ⟨0, 0, [.rw,.lk], 1⟩]⟩,
  ⟨0x10054, [], .none, [⟨31, 24, [.rw,.lk], 128⟩, ⟨23, 16, [.rw,.lk], 128⟩, ⟨15, 9, [.rw,.lk], 0⟩, ⟨1, 1, [.rw,.lk], 0⟩, ⟨0, 0, [.rw,.lk], 1⟩]⟩]

/-- The register table of the block at BAR0 index 0x02 (spec/03). -/
def regTable03 : List RegSpec := [
  ⟨0x20000, [], .none, [⟨2, 2, [.rw,.lk], 0⟩, ⟨1, 1, [.rw,.lk], 0⟩, ⟨0, 0, [.ro], 1⟩]⟩,
  ⟨0x20004, [], .none, [⟨31, 0, [.rw,.lk], 0⟩]⟩,
  ⟨0x20008, [], .none, [⟨15, 0, [.rw,.lk], 0⟩]⟩,
  ⟨0x2000C, [], .none, [⟨31, 0, [.ro], 0⟩]⟩,
  ⟨0x20010, [], .none, [⟨31, 0, [.ro], 0⟩]⟩,
  ⟨0x21000, [(0x20, 48)], .link, [⟨0, 0, [.w1s], 0⟩]⟩,
  ⟨0x21004, [(0x20, 48)], .link, [⟨31, 24, [.ro], 0⟩, ⟨23, 16, [.ro], 0⟩, ⟨12, 12, [.ro], 0⟩, ⟨11, 11, [.ro], 0⟩, ⟨10, 8, [.ro], 0⟩, ⟨2, 0, [.ro], 0⟩]⟩,
  ⟨0x21008, [(0x20, 48)], .link, [⟨31, 16, [.ro], 0⟩, ⟨15, 0, [.ro], 0⟩]⟩,
  ⟨0x2100C, [(0x20, 48)], .link, [⟨31, 24, [.w1c], 0⟩, ⟨23, 16, [.w1c], 0⟩, ⟨15, 8, [.w1c], 0⟩, ⟨7, 0, [.w1c], 0⟩]⟩,
  ⟨0x21010, [(0x20, 48)], .link, [⟨31, 16, [.ro], 0⟩, ⟨11, 0, [.ro], 0⟩]⟩,
  ⟨0x21014, [(0x20, 48)], .link, [⟨31, 0, [.ro], 0⟩]⟩,
  ⟨0x21018, [(0x20, 48)], .link, [⟨31, 0, [.ro], 0⟩]⟩]

/-- The register table of the block at BAR0 index 0x03 (spec/04). -/
def regTable04 : List RegSpec := [
  ⟨0x30000, [], .none, [⟨0, 0, [.rw,.lk], 0⟩]⟩,
  ⟨0x30100, [(0x100, 2)], .none, [⟨0, 0, [.w1s], 0⟩]⟩,
  ⟨0x30104, [(0x100, 2)], .none, [⟨31, 16, [.ro], 0⟩, ⟨5, 4, [.ro], 0⟩, ⟨3, 2, [.ro], 0⟩, ⟨1, 0, [.ro], 0⟩]⟩,
  ⟨0x30108, [(0x100, 2)], .none, [⟨31, 16, [.ro], 0⟩, ⟨15, 0, [.ro], 0⟩]⟩,
  ⟨0x3010C, [(0x100, 2)], .none, [⟨31, 0, [.w1c], 0⟩]⟩,
  ⟨0x30110, [(0x100, 2)], .none, [⟨31, 0, [.ro], 0⟩]⟩,
  ⟨0x30114, [(0x100, 2)], .none, [⟨31, 0, [.ro], 0⟩]⟩,
  ⟨0x30118, [(0x100, 2)], .none, [⟨14, 8, [.rw,.lk], 10⟩, ⟨6, 0, [.rw,.lk], 8⟩]⟩,
  ⟨0x3011C, [(0x100, 2)], .none, [⟨23, 16, [.rw,.lk], 20⟩, ⟨15, 0, [.rw,.lk], 100⟩]⟩,
  ⟨0x30120, [(0x100, 2)], .none, [⟨23, 0, [.w1c], 0⟩]⟩,
  ⟨0x30124, [(0x100, 2), (0x4, 4)], .none, [⟨19, 0, [.siw], 0⟩]⟩,
  ⟨0x31000, [(0x200, 2), (0x40, 8)], .none, [⟨17, 17, [.w1s], 0⟩, ⟨16, 16, [.w1s], 0⟩, ⟨15, 12, [.rw], 0⟩, ⟨11, 2, [.rw], 1⟩, ⟨1, 0, [.rw], 0⟩]⟩,
  ⟨0x31004, [(0x200, 2), (0x40, 8)], .none, [⟨12, 8, [.rw], 0⟩, ⟨6, 0, [.rw], 0⟩]⟩,
  ⟨0x31008, [(0x200, 2), (0x40, 8)], .none, [⟨31, 16, [.rw], 0⟩, ⟨2, 0, [.rw], 0⟩]⟩,
  ⟨0x3100C, [(0x200, 2), (0x40, 8)], .none, [⟨31, 8, [.rw], 0⟩, ⟨7, 0, [.rw], 0⟩]⟩,
  ⟨0x31010, [(0x200, 2), (0x40, 8)], .none, [⟨15, 0, [.rw], 0⟩]⟩,
  ⟨0x31014, [(0x200, 2), (0x40, 8)], .none, [⟨31, 16, [.w1c], 0⟩, ⟨2, 0, [.ro], 0⟩]⟩,
  ⟨0x38000, [(0x4000, 2), (0x80, 64), (0x4, 32)], .none, [⟨23, 0, [.rw,.lk], 0⟩]⟩,
  ⟨0x3A000, [(0x4000, 2), (0x4, 64)], .none, [⟨7, 0, [.rw,.lk], 0⟩]⟩]

/-- The register table of the block at BAR0 index 0x04 (spec/05). -/
def regTable05 : List RegSpec := [
  ⟨0x40000, [], .none, [⟨15, 0, [.rw], 32000⟩]⟩,
  ⟨0x40004, [], .none, [⟨23, 16, [.rw,.lk], 50⟩, ⟨15, 8, [.rw,.lk], 10⟩, ⟨3, 0, [.rw,.lk], 2⟩]⟩,
  ⟨0x40008, [], .none, [⟨8, 8, [.ro], 0⟩, ⟨7, 6, [.ro], 0⟩, ⟨5, 4, [.ro], 0⟩, ⟨3, 3, [.ro], 0⟩, ⟨2, 2, [.ro], 0⟩, ⟨1, 0, [.ro], 0⟩]⟩,
  ⟨0x4000C, [], .none, [⟨31, 16, [.ro], 0⟩, ⟨15, 0, [.ro], 0⟩]⟩,
  ⟨0x40020, [(0x20, 2)], .none, [⟨25, 16, [.rw,.lk], 960⟩, ⟨15, 0, [.rw], 16000⟩]⟩,
  ⟨0x40024, [(0x20, 2)], .none, [⟨31, 24, [.rw,.lk], 50⟩, ⟨23, 16, [.rw,.lk], 5⟩, ⟨15, 0, [.rw,.lk], 0⟩]⟩,
  ⟨0x40028, [(0x20, 2)], .none, [⟨31, 24, [.rw,.lk], 50⟩, ⟨23, 16, [.rw,.lk], 40⟩, ⟨15, 8, [.rw,.lk], 15⟩]⟩,
  ⟨0x4002C, [(0x20, 2)], .none, [⟨31, 24, [.ro], 100⟩, ⟨15, 0, [.ro], 0⟩]⟩,
  ⟨0x40030, [(0x20, 2)], .none, [⟨15, 0, [.rw], 0⟩]⟩,
  ⟨0x40100, [(0x40, 8)], .out, [⟨25, 24, [.rw], 1⟩, ⟨19, 19, [.rw,.lk], 0⟩, ⟨18, 18, [.rw,.lk], 0⟩, ⟨17, 17, [.rw,.lk], 1⟩, ⟨16, 16, [.rw,.lk], 0⟩, ⟨10, 0, [.rw,.lk], 1250⟩]⟩,
  ⟨0x40104, [(0x40, 8)], .out, [⟨31, 16, [.rw,.lk], 500⟩, ⟨15, 0, [.rw,.lk], 3000⟩]⟩,
  ⟨0x40108, [(0x40, 8)], .out, [⟨15, 0, [.rw,.lk], 300⟩]⟩,
  ⟨0x4010C, [(0x40, 8)], .out, [⟨31, 24, [.rw,.lk], 75⟩, ⟨23, 16, [.rw,.lk], 60⟩, ⟨15, 8, [.rw,.lk], 95⟩, ⟨7, 0, [.rw,.lk], 80⟩]⟩,
  ⟨0x40110, [(0x40, 8)], .out, [⟨7, 0, [.rw,.lk], 228⟩]⟩,
  ⟨0x40114, [(0x40, 8)], .out, [⟨20, 16, [.rw,.lk], 31⟩, ⟨12, 8, [.rw,.lk], 31⟩, ⟨4, 0, [.rw,.lk], 31⟩]⟩,
  ⟨0x40118, [(0x40, 8)], .out, [⟨31, 24, [.rw,.lk], 12⟩, ⟨23, 16, [.rw,.lk], 15⟩, ⟨15, 8, [.rw,.lk], 55⟩, ⟨7, 0, [.rw,.lk], 45⟩]⟩,
  ⟨0x4011C, [(0x40, 8)], .out, [⟨31, 16, [.rw,.lk], 800⟩, ⟨15, 0, [.rw,.lk], 50⟩]⟩,
  ⟨0x40120, [(0x40, 8)], .out, [⟨31, 24, [.ro], 100⟩, ⟨23, 16, [.ro], 0⟩, ⟨15, 8, [.ro], 0⟩, ⟨7, 7, [.ro], 0⟩, ⟨6, 6, [.ro], 0⟩, ⟨3, 0, [.ro], 15⟩]⟩,
  ⟨0x40124, [(0x40, 8)], .out, [⟨19, 0, [.ro], 0⟩]⟩,
  ⟨0x40128, [(0x40, 8)], .out, [⟨19, 0, [.ro], 0⟩]⟩,
  ⟨0x4012C, [(0x40, 8)], .out, [⟨31, 16, [.ro], 0⟩, ⟨15, 0, [.ro], 0⟩]⟩,
  ⟨0x40130, [(0x40, 8)], .out, [⟨31, 24, [.ro], 128⟩, ⟨23, 16, [.ro], 128⟩, ⟨15, 8, [.ro], 128⟩, ⟨7, 0, [.ro], 128⟩]⟩,
  ⟨0x40300, [(0x10, 4)], .none, [⟨7, 0, [.rw,.lk], 0⟩]⟩,
  ⟨0x40304, [(0x10, 4)], .none, [⟨31, 31, [.ro], 0⟩, ⟨7, 0, [.ro], 0⟩]⟩,
  ⟨0x40308, [(0x10, 4)], .none, [⟨19, 0, [.ro], 0⟩]⟩,
  ⟨0x4030C, [(0x10, 4)], .none, [⟨19, 0, [.ro], 0⟩]⟩,
  ⟨0x40400, [(0x4, 48)], .link, [⟨9, 9, [.rw,.lk], 0⟩, ⟨8, 8, [.rw,.lk], 0⟩, ⟨7, 0, [.rw,.lk], 0⟩]⟩,
  ⟨0x40500, [(0x4, 48)], .link, [⟨23, 16, [.ro], 0⟩, ⟨11, 8, [.ro], 0⟩, ⟨7, 4, [.ro], 15⟩, ⟨3, 0, [.ro], 15⟩]⟩,
  ⟨0x40600, [], .none, [⟨31, 0, [.w1c], 0⟩]⟩,
  ⟨0x40604, [], .none, [⟨31, 0, [.w1c], 0⟩]⟩]

/-- The register table of the block at BAR0 index 0x05 (spec/06). -/
def regTable06 : List RegSpec := [
  ⟨0x50000, [], .none, [⟨31, 24, [.rw,.lk], 30⟩, ⟨23, 16, [.rw,.lk], 60⟩, ⟨5, 4, [.rw,.lk], 0⟩, ⟨1, 0, [.rw,.lk], 3⟩]⟩,
  ⟨0x50004, [], .none, [⟨31, 24, [.rw,.lk], 50⟩, ⟨23, 16, [.rw,.lk], 50⟩, ⟨15, 0, [.rw,.lk], 200⟩]⟩,
  ⟨0x50008, [], .none, [⟨31, 24, [.rw,.lk], 15⟩, ⟨23, 16, [.rw,.lk], 10⟩, ⟨15, 8, [.rw,.lk], 20⟩, ⟨7, 0, [.rw,.lk], 20⟩]⟩,
  ⟨0x50100, [(0x40, 8)], .out, [⟨23, 19, [.rw,.lk], 31⟩, ⟨15, 15, [.rw,.lk], 1⟩, ⟨12, 12, [.rw,.lk], 0⟩, ⟨11, 11, [.rw,.lk], 1⟩, ⟨10, 10, [.rw,.lk], 1⟩, ⟨9, 9, [.rw,.lk], 0⟩, ⟨2, 2, [.rw,.lk], 1⟩, ⟨1, 1, [.rw,.lk], 1⟩, ⟨0, 0, [.rw,.lk], 1⟩]⟩,
  ⟨0x50104, [(0x40, 8)], .out, [⟨31, 27, [.ro], 0⟩, ⟨26, 26, [.ro], 0⟩, ⟨25, 24, [.ro], 0⟩, ⟨23, 20, [.ro], 0⟩, ⟨19, 19, [.ro], 0⟩, ⟨18, 18, [.ro], 0⟩, ⟨3, 0, [.ro], 0⟩]⟩,
  ⟨0x50108, [(0x40, 8)], .out, [⟨31, 16, [.ro], 0⟩, ⟨15, 0, [.ro], 0⟩]⟩,
  ⟨0x5010C, [(0x40, 8)], .out, [⟨31, 16, [.ro], 0⟩, ⟨15, 0, [.ro], 0⟩]⟩,
  ⟨0x50110, [(0x40, 8)], .out, [⟨31, 16, [.ro], 0⟩, ⟨15, 0, [.ro], 0⟩]⟩,
  ⟨0x50114, [(0x40, 8)], .out, [⟨31, 16, [.ro], 0⟩, ⟨15, 0, [.ro], 0⟩]⟩,
  ⟨0x50118, [(0x40, 8)], .out, [⟨31, 16, [.ro], 0⟩, ⟨15, 0, [.ro], 0⟩]⟩,
  ⟨0x5011C, [(0x40, 8)], .out, [⟨31, 0, [.ro], 0⟩]⟩,
  ⟨0x50120, [(0x40, 8)], .out, [⟨15, 0, [.ro], 0⟩]⟩,
  ⟨0x50124, [(0x40, 8)], .out, [⟨31, 0, [.ro], 0⟩]⟩,
  ⟨0x50128, [(0x40, 8)], .out, [⟨31, 31, [.rw], 0⟩, ⟨15, 0, [.rw], 0⟩]⟩,
  ⟨0x5012C, [(0x40, 8)], .out, [⟨11, 8, [.rw], 0⟩, ⟨1, 1, [.w1s], 0⟩, ⟨0, 0, [.w1s], 0⟩]⟩,
  ⟨0x50130, [(0x40, 8)], .out, [⟨31, 24, [.w1c], 0⟩, ⟨23, 16, [.w1c], 0⟩, ⟨15, 8, [.w1c], 0⟩, ⟨7, 0, [.w1c], 0⟩]⟩]

/-- The register table of the block at BAR0 index 0x06 (spec/07). -/
def regTable07 : List RegSpec := [
  ⟨0x60000, [], .none, [⟨31, 16, [.rw,.lk], 300⟩, ⟨5, 0, [.ro], 0⟩]⟩,
  ⟨0x60004, [], .none, [⟨2, 2, [.ro], 0⟩, ⟨1, 1, [.ro], 0⟩, ⟨0, 0, [.ro], 0⟩]⟩,
  ⟨0x60008, [], .none, [⟨31, 28, [.ro], 0⟩, ⟨15, 0, [.ro], 0⟩]⟩,
  ⟨0x6000C, [], .none, [⟨1, 1, [.w1s], 0⟩, ⟨0, 0, [.w1s], 0⟩]⟩,
  ⟨0x60100, [(0x40, 8)], .out, [⟨31, 16, [.ro], 0⟩, ⟨3, 3, [.ro], 0⟩, ⟨2, 2, [.ro], 0⟩, ⟨1, 0, [.ro], 0⟩]⟩,
  ⟨0x60104, [(0x40, 8)], .out, [⟨31, 0, [.ro], 0⟩]⟩,
  ⟨0x60108, [(0x40, 8)], .out, [⟨31, 0, [.ro], 0⟩]⟩,
  ⟨0x6010C, [(0x40, 8)], .out, [⟨31, 0, [.ro], 0⟩]⟩,
  ⟨0x60110, [(0x40, 8)], .out, [⟨31, 0, [.ro], 0⟩]⟩,
  ⟨0x60114, [(0x40, 8)], .out, [⟨31, 0, [.ro], 0⟩]⟩,
  ⟨0x60118, [(0x40, 8)], .out, [⟨31, 16, [.ro], 0⟩, ⟨15, 0, [.ro], 32768⟩]⟩,
  ⟨0x6011C, [(0x40, 8)], .out, [⟨31, 16, [.ro], 0⟩, ⟨15, 12, [.ro], 0⟩, ⟨11, 11, [.ro], 0⟩, ⟨10, 10, [.ro], 0⟩, ⟨7, 6, [.ro], 2⟩, ⟨5, 4, [.ro], 1⟩, ⟨3, 2, [.ro], 0⟩]⟩,
  ⟨0x60120, [(0x40, 8)], .out, [⟨5, 5, [.ro], 0⟩, ⟨4, 4, [.ro], 0⟩, ⟨3, 3, [.ro], 0⟩, ⟨2, 2, [.ro], 0⟩, ⟨1, 1, [.ro], 0⟩, ⟨0, 0, [.ro], 0⟩]⟩,
  ⟨0x60124, [(0x40, 8)], .out, [⟨31, 24, [.w1c], 0⟩, ⟨23, 16, [.w1c], 0⟩, ⟨15, 8, [.w1c], 0⟩, ⟨7, 0, [.w1c], 0⟩]⟩,
  ⟨0x60400, [(0x80, 2)], .none, [⟨19, 8, [.ro], 0⟩, ⟨3, 3, [.ro], 0⟩, ⟨2, 2, [.ro], 0⟩, ⟨1, 1, [.ro], 0⟩]⟩,
  ⟨0x60404, [(0x80, 2)], .none, [⟨15, 0, [.ro], 0⟩]⟩,
  ⟨0x60408, [(0x80, 2)], .none, [⟨31, 0, [.ro], 0⟩]⟩,
  ⟨0x6040C, [(0x80, 2), (0x4, 3)], .none, [⟨31, 0, [.ro], 0⟩]⟩,
  ⟨0x60418, [(0x80, 2), (0x4, 4)], .none, [⟨31, 0, [.ro], 0⟩]⟩,
  ⟨0x60428, [(0x80, 2), (0x4, 4)], .none, [⟨31, 0, [.ro], 0⟩]⟩,
  ⟨0x60438, [(0x80, 2)], .none, [⟨19, 0, [.ro], 0⟩]⟩,
  ⟨0x6043C, [(0x80, 2)], .none, [⟨31, 31, [.ro], 0⟩, ⟨30, 30, [.ro], 0⟩, ⟨19, 10, [.ro], 0⟩, ⟨9, 0, [.ro], 0⟩]⟩,
  ⟨0x60440, [(0x80, 2)], .none, [⟨10, 8, [.rw], 0⟩, ⟨5, 0, [.rw], 1⟩]⟩,
  ⟨0x60444, [(0x80, 2)], .none, [⟨31, 0, [.ro], 0⟩]⟩,
  ⟨0x60448, [(0x80, 2)], .none, [⟨3, 3, [.ro], 0⟩, ⟨2, 2, [.ro], 0⟩, ⟨1, 1, [.ro], 0⟩, ⟨0, 0, [.ro], 0⟩]⟩,
  ⟨0x6044C, [(0x80, 2)], .none, [⟨31, 24, [.w1c], 0⟩, ⟨23, 16, [.w1c], 0⟩, ⟨15, 8, [.w1c], 0⟩, ⟨7, 0, [.w1c], 0⟩]⟩]

/-- The register table of the block at BAR0 index 0x07 (spec/08). -/
def regTable08 : List RegSpec := [
  ⟨0x70000, [], .none, [⟨7, 7, [.ro], 0⟩, ⟨6, 6, [.ro], 0⟩, ⟨5, 5, [.ro], 0⟩, ⟨3, 0, [.ro], 0⟩]⟩,
  ⟨0x70004, [], .none, [⟨31, 0, [.ro], 0⟩]⟩,
  ⟨0x70008, [], .none, [⟨31, 16, [.ro], 0⟩, ⟨3, 0, [.ro], 0⟩]⟩,
  ⟨0x7000C, [], .none, [⟨15, 12, [.rw], 0⟩, ⟨11, 8, [.rw], 0⟩, ⟨3, 0, [.rw], 0⟩]⟩,
  ⟨0x70010, [], .none, [⟨31, 0, [.ro], 0⟩]⟩,
  ⟨0x70014, [], .none, [⟨8, 8, [.ro], 0⟩, ⟨7, 0, [.ro], 0⟩]⟩,
  ⟨0x70018, [], .none, [⟨31, 0, [.ro], 0⟩]⟩,
  ⟨0x7001C, [], .none, [⟨31, 0, [.ro], 0⟩]⟩,
  ⟨0x70020, [], .none, [⟨31, 0, [.ro], 0⟩]⟩,
  ⟨0x70024, [], .none, [⟨31, 0, [.ro], 0⟩]⟩,
  ⟨0x70028, [], .none, [⟨31, 0, [.ro], 0⟩]⟩,
  ⟨0x7002C, [], .none, [⟨31, 31, [.ro], 0⟩, ⟨20, 16, [.ro], 1⟩, ⟨15, 8, [.ro], 15⟩, ⟨7, 4, [.ro], 1⟩]⟩,
  ⟨0x70030, [], .none, [⟨31, 16, [.ro], 0⟩, ⟨15, 0, [.ro], 1024⟩]⟩,
  ⟨0x70034, [], .none, [⟨31, 0, [.ro], 0⟩]⟩,
  ⟨0x70038, [], .none, [⟨15, 8, [.rw,.lk], 30⟩, ⟨7, 4, [.rw,.lk], 5⟩, ⟨3, 0, [.rw,.lk], 2⟩]⟩,
  ⟨0x7003C, [], .none, [⟨24, 16, [.ro], 0⟩, ⟨8, 8, [.ro], 0⟩, ⟨7, 4, [.ro], 0⟩, ⟨3, 0, [.ro], 0⟩]⟩,
  ⟨0x70040, [], .none, [⟨19, 0, [.ro], 0⟩]⟩,
  ⟨0x70044, [], .none, [⟨31, 24, [.w1c], 0⟩, ⟨23, 16, [.w1c], 0⟩, ⟨15, 8, [.w1c], 0⟩, ⟨7, 0, [.w1c], 0⟩]⟩]

/-- The register table of the block at BAR0 index 0x08 (spec/09). -/
def regTable09 : List RegSpec := [
  ⟨0x80000, [], .none, [⟨31, 24, [.ro], 0⟩, ⟨17, 17, [.ro], 0⟩, ⟨16, 16, [.ro], 0⟩, ⟨9, 8, [.ro], 0⟩, ⟨7, 6, [.ro], 0⟩, ⟨5, 5, [.ro], 0⟩, ⟨4, 4, [.ro], 0⟩, ⟨2, 0, [.ro], 0⟩]⟩,
  ⟨0x80004, [], .none, [⟨31, 0, [.ro], 0⟩]⟩,
  ⟨0x80008, [], .none, [⟨31, 0, [.ro], 0⟩]⟩,
  ⟨0x8000C, [], .none, [⟨4, 0, [.ro], 0⟩]⟩,
  ⟨0x80010, [], .none, [⟨31, 0, [.ro], 0⟩]⟩,
  ⟨0x80014, [], .none, [⟨31, 16, [.ro], 0⟩, ⟨15, 0, [.ro], 0⟩]⟩,
  ⟨0x80018, [], .none, [⟨31, 16, [.ro], 0⟩, ⟨15, 0, [.ro], 0⟩]⟩,
  ⟨0x8001C, [], .none, [⟨31, 16, [.ro], 0⟩, ⟨15, 8, [.ro], 0⟩, ⟨7, 0, [.ro], 0⟩]⟩,
  ⟨0x80020, [], .none, [⟨16, 16, [.ro], 0⟩, ⟨15, 0, [.ro], 0⟩]⟩,
  ⟨0x80024, [], .none, [⟨31, 16, [.ro], 0⟩, ⟨7, 0, [.ro], 0⟩]⟩,
  ⟨0x80028, [], .none, [⟨31, 24, [.ro], 0⟩, ⟨23, 0, [.ro], 0⟩]⟩,
  ⟨0x80030, [(0x4, 8)], .out, [⟨15, 12, [.ro], 0⟩, ⟨11, 11, [.ro], 0⟩, ⟨10, 10, [.ro], 0⟩, ⟨9, 9, [.ro], 0⟩, ⟨8, 8, [.ro], 0⟩, ⟨7, 0, [.ro], 0⟩]⟩,
  ⟨0x80050, [(0x4, 8)], .out, [⟨31, 24, [.ro], 0⟩, ⟨23, 0, [.ro], 16777215⟩]⟩,
  ⟨0x80100, [], .none, [⟨12, 8, [.ro], 1⟩, ⟨5, 4, [.ro], 3⟩, ⟨2, 2, [.ro], 0⟩, ⟨1, 0, [.ro], 1⟩]⟩,
  ⟨0x80104, [], .none, [⟨31, 16, [.ro], 60⟩, ⟨6, 0, [.ro], 50⟩]⟩,
  ⟨0x80108, [], .none, [⟨31, 16, [.ro], 32000⟩, ⟨15, 0, [.ro], 100⟩]⟩,
  ⟨0x80140, [(0x4, 16)], .none, [⟨31, 24, [.ro], 0⟩, ⟨23, 20, [.ro], 0⟩, ⟨15, 6, [.ro], 50⟩, ⟨5, 4, [.ro], 0⟩, ⟨2, 0, [.ro], 0⟩]⟩,
  ⟨0x80200, [(0x10, 8)], .out, [⟨20, 16, [.ro], 31⟩, ⟨12, 8, [.ro], 31⟩, ⟨3, 0, [.ro], 15⟩]⟩,
  ⟨0x80204, [(0x10, 8)], .out, [⟨31, 16, [.ro], 1300⟩, ⟨15, 0, [.ro], 3300⟩]⟩,
  ⟨0x80208, [(0x10, 8)], .out, [⟨14, 8, [.ro], 60⟩, ⟨7, 0, [.ro], 100⟩]⟩,
  ⟨0x8020C, [(0x10, 8)], .out, [⟨31, 16, [.ro], 500⟩, ⟨15, 0, [.ro], 100⟩]⟩]

/-- The register table of the block at BAR0 index 0x09 (spec/10). -/
def regTable10 : List RegSpec := [
  ⟨0x90000, [], .none, [⟨31, 24, [.w1c], 0⟩, ⟨1, 1, [.ro], 0⟩, ⟨0, 0, [.ro], 0⟩]⟩,
  ⟨0x90004, [], .none, [⟨31, 24, [.w1c], 0⟩, ⟨23, 16, [.w1c], 0⟩]⟩,
  ⟨0x90008, [], .none, [⟨7, 4, [.ro], 0⟩, ⟨3, 0, [.ro], 0⟩]⟩,
  ⟨0x90010, [(0x4, 4)], .none, [⟨31, 26, [.rw,.lk], 40⟩, ⟨23, 12, [.ro], 0⟩, ⟨11, 0, [.ro], 0⟩]⟩,
  ⟨0x90400, [(0x10, 8)], .none, [⟨31, 16, [.ro], 0⟩, ⟨15, 8, [.w1c], 0⟩, ⟨7, 0, [.w1c], 0⟩]⟩,
  ⟨0x90404, [(0x10, 8)], .none, [⟨31, 16, [.ro], 0⟩, ⟨15, 0, [.ro], 0⟩]⟩,
  ⟨0x90480, [], .none, [⟨11, 0, [.ro], 0⟩]⟩,
  ⟨0x90100, [(0x20, 24)], .none, [⟨31, 30, [.rw,.lk], 0⟩, ⟨29, 28, [.rw,.lk], 1⟩, ⟨27, 24, [.ro], 0⟩, ⟨23, 21, [.rw,.lk], 0⟩, ⟨15, 8, [.rw,.lk], 10⟩, ⟨0, 0, [.rw,.lk], 0⟩]⟩,
  ⟨0x90104, [(0x20, 24)], .none, [⟨31, 24, [.rw,.lk], 10⟩, ⟨23, 21, [.rw,.lk], 3⟩, ⟨15, 8, [.rw,.lk], 10⟩, ⟨7, 0, [.rw,.lk], 0⟩]⟩,
  ⟨0x90108, [(0x20, 24)], .none, [⟨31, 24, [.rw,.lk], 0⟩, ⟨23, 16, [.rw,.lk], 60⟩]⟩,
  ⟨0x9010C, [(0x20, 24)], .none, [⟨1, 1, [.w1s], 0⟩, ⟨0, 0, [.rw], 0⟩]⟩,
  ⟨0x90110, [(0x20, 24)], .none, [⟨31, 20, [.ro], 0⟩, ⟨19, 12, [.ro], 0⟩, ⟨7, 7, [.ro], 0⟩, ⟨6, 6, [.ro], 0⟩, ⟨5, 5, [.ro], 0⟩, ⟨2, 0, [.ro], 0⟩]⟩,
  ⟨0x90114, [(0x20, 24)], .none, [⟨31, 24, [.w1c], 0⟩, ⟨23, 16, [.ro], 50⟩, ⟨10, 8, [.ro], 3⟩, ⟨2, 0, [.ro], 0⟩]⟩]

/-- The register table of the block at BAR0 index 0x0a (spec/11). -/
def regTable11 : List RegSpec := [
  ⟨0xA0000, [], .none, [⟨31, 24, [.rw,.lk], 5⟩, ⟨23, 16, [.rw,.lk], 60⟩, ⟨0, 0, [.rw,.lk], 0⟩]⟩,
  ⟨0xA0004, [], .none, [⟨3, 0, [.rw], 0⟩]⟩,
  ⟨0xA0100, [(0x40, 2)], .none, [⟨26, 16, [.rw,.lk], 1200⟩, ⟨10, 0, [.rw,.lk], 1600⟩]⟩,
  ⟨0xA0104, [(0x40, 2)], .none, [⟨7, 0, [.rw,.lk], 150⟩]⟩,
  ⟨0xA0108, [(0x40, 2)], .none, [⟨15, 8, [.rw,.lk], 238⟩, ⟨4, 0, [.rw,.lk], 31⟩]⟩,
  ⟨0xA010C, [(0x40, 2)], .none, [⟨31, 16, [.ro], 0⟩, ⟨15, 8, [.ro], 0⟩, ⟨0, 0, [.ro], 0⟩]⟩,
  ⟨0xA0110, [(0x40, 2)], .none, [⟨31, 24, [.ro], 128⟩, ⟨23, 20, [.ro], 15⟩, ⟨13, 8, [.ro], 0⟩, ⟨7, 7, [.ro], 0⟩, ⟨6, 6, [.ro], 0⟩, ⟨2, 0, [.ro], 0⟩]⟩,
  ⟨0xA0114, [(0x40, 2)], .none, [⟨31, 16, [.ro], 0⟩, ⟨15, 0, [.ro], 0⟩]⟩,
  ⟨0xA0118, [(0x40, 2)], .none, [⟨12, 8, [.ro], 0⟩, ⟨4, 0, [.ro], 0⟩]⟩,
  ⟨0xA011C, [(0x40, 2)], .none, [⟨31, 24, [.w1c], 0⟩, ⟨23, 16, [.w1c], 0⟩, ⟨15, 8, [.w1c], 0⟩, ⟨7, 0, [.w1c], 0⟩]⟩,
  ⟨0xA0200, [], .none, [⟨31, 24, [.rw,.lk], 30⟩, ⟨15, 8, [.rw,.lk], 0⟩, ⟨1, 1, [.rw,.lk], 0⟩, ⟨0, 0, [.rw,.lk], 0⟩]⟩,
  ⟨0xA0204, [], .none, [⟨31, 24, [.w1c], 0⟩, ⟨23, 20, [.ro], 0⟩, ⟨19, 16, [.ro], 15⟩, ⟨12, 8, [.ro], 0⟩, ⟨2, 0, [.ro], 0⟩]⟩]

/-- The register table of the block at BAR0 index 0x0b (spec/12). -/
def regTable12 : List RegSpec := [
  ⟨0xB0000, [], .none, [⟨23, 16, [.rw,.lk], 30⟩, ⟨15, 8, [.rw,.lk], 25⟩, ⟨4, 0, [.rw,.lk], 6⟩]⟩,
  ⟨0xB0100, [(0x20, 4)], .none, [⟨15, 8, [.rw,.lk], 0⟩, ⟨5, 5, [.rw,.lk], 0⟩, ⟨3, 3, [.rw,.lk], 1⟩, ⟨2, 2, [.rw,.lk], 1⟩, ⟨1, 1, [.rw,.lk], 1⟩, ⟨0, 0, [.rw,.lk], 0⟩]⟩,
  ⟨0xB0104, [(0x20, 4)], .none, [⟨31, 16, [.ro], 0⟩, ⟨9, 8, [.ro], 0⟩, ⟨2, 0, [.ro], 0⟩]⟩,
  ⟨0xB0108, [(0x20, 4)], .none, [⟨31, 0, [.ro], 0⟩]⟩,
  ⟨0xB010C, [(0x20, 4)], .none, [⟨31, 0, [.ro], 0⟩]⟩,
  ⟨0xB0110, [(0x20, 4)], .none, [⟨27, 24, [.ro], 0⟩, ⟨15, 0, [.ro], 0⟩]⟩,
  ⟨0xB0114, [(0x20, 4)], .none, [⟨31, 24, [.w1c], 0⟩, ⟨23, 16, [.w1c], 0⟩, ⟨15, 8, [.w1c], 0⟩, ⟨7, 0, [.w1c], 0⟩]⟩,
  ⟨0xB0200, [], .none, [⟨15, 8, [.rw,.lk], 10⟩, ⟨1, 1, [.rw,.lk], 1⟩, ⟨0, 0, [.rw,.lk], 1⟩]⟩,
  ⟨0xB0204, [], .none, [⟨23, 16, [.ro], 0⟩, ⟨11, 8, [.ro], 0⟩, ⟨2, 2, [.ro], 0⟩, ⟨1, 1, [.ro], 0⟩, ⟨0, 0, [.ro], 0⟩]⟩,
  ⟨0xB0208, [], .none, [⟨17, 16, [.ro], 0⟩, ⟨15, 0, [.ro], 0⟩]⟩,
  ⟨0xB020C, [], .none, [⟨31, 24, [.w1c], 0⟩, ⟨23, 16, [.w1c], 0⟩, ⟨15, 8, [.w1c], 0⟩, ⟨7, 0, [.w1c], 0⟩]⟩]

/-- The register table of the block at BAR0 index 0x0c (spec/13). -/
def regTable13 : List RegSpec := [
  ⟨0xC0000, [], .none, [⟨31, 24, [.rw,.lk], 60⟩, ⟨23, 16, [.rw,.lk], 10⟩, ⟨1, 1, [.rw,.lk], 1⟩, ⟨0, 0, [.rw,.lk], 0⟩]⟩,
  ⟨0xC0004, [], .none, [⟨15, 0, [.rw,.lk], 0⟩]⟩,
  ⟨0xC0008, [], .none, [⟨31, 24, [.w1c], 0⟩, ⟨13, 8, [.ro], 0⟩, ⟨7, 2, [.ro], 0⟩, ⟨1, 0, [.ro], 0⟩]⟩,
  ⟨0xC000C, [], .none, [⟨31, 24, [.w1c], 0⟩, ⟨23, 16, [.w1c], 0⟩, ⟨15, 8, [.w1c], 0⟩, ⟨7, 0, [.w1c], 0⟩]⟩,
  ⟨0xC0110, [(0x10, 62)], .none, [⟨31, 0, [.rw,.lk], 0⟩]⟩,
  ⟨0xC0114, [(0x10, 62)], .none, [⟨31, 31, [.rw,.lk], 0⟩, ⟨15, 0, [.rw,.lk], 0⟩]⟩,
  ⟨0xC0118, [(0x10, 62)], .none, [⟨31, 24, [.ro], 0⟩, ⟨23, 18, [.ro], 0⟩, ⟨17, 12, [.ro], 0⟩, ⟨8, 6, [.ro], 4⟩, ⟨1, 0, [.ro], 0⟩]⟩,
  ⟨0xC011C, [(0x10, 62)], .none, [⟨31, 8, [.ro], 0⟩, ⟨7, 4, [.ro], 0⟩, ⟨1, 0, [.ro], 0⟩]⟩]

/-- The register table of the block at BAR0 index 0x0d (spec/14). -/
def regTable14 : List RegSpec := [
  ⟨0xD0000, [], .none, [⟨20, 8, [.ro], 0⟩, ⟨2, 0, [.ro], 1⟩]⟩,
  ⟨0xD0004, [], .none, [⟨31, 0, [.ro], 0⟩]⟩,
  ⟨0xD0008, [], .none, [⟨9, 4, [.ro], 0⟩, ⟨3, 0, [.ro], 0⟩]⟩,
  ⟨0xD000C, [], .none, [⟨31, 24, [.w1c], 0⟩, ⟨23, 16, [.w1c], 0⟩, ⟨15, 8, [.w1c], 0⟩, ⟨7, 0, [.w1c], 0⟩]⟩,
  ⟨0xD0010, [], .none, [⟨14, 0, [.ro], 0⟩]⟩,
  ⟨0xD0100, [(0x40, 64)], .none, [⟨29, 24, [.rw], 0⟩, ⟨23, 15, [.rw,.lk], 16⟩, ⟨7, 4, [.rw,.lk], 0⟩, ⟨3, 0, [.rw,.lk], 0⟩]⟩,
  ⟨0xD0104, [(0x40, 64)], .none, [⟨3, 0, [.rw], 0⟩]⟩,
  ⟨0xD0108, [(0x40, 64)], .none, [⟨31, 0, [.rw], 0⟩]⟩,
  ⟨0xD010C, [(0x40, 64)], .none, [⟨31, 0, [.rw], 0⟩]⟩,
  ⟨0xD0110, [(0x40, 64)], .none, [⟨31, 0, [.rw], 0⟩]⟩,
  ⟨0xD0114, [(0x40, 64)], .none, [⟨31, 0, [.rw], 0⟩]⟩,
  ⟨0xD0118, [(0x40, 64)], .none, [⟨31, 0, [.rw], 0⟩]⟩,
  ⟨0xD011C, [(0x40, 64)], .none, [⟨31, 0, [.rw], 0⟩]⟩,
  ⟨0xD0120, [(0x40, 64)], .none, [⟨23, 16, [.rw], 1⟩, ⟨15, 0, [.rw], 0⟩]⟩,
  ⟨0xD0124, [(0x40, 64)], .none, [⟨3, 3, [.w1s], 0⟩, ⟨2, 2, [.w1s], 0⟩, ⟨1, 1, [.w1s], 0⟩, ⟨0, 0, [.w1s], 0⟩]⟩,
  ⟨0xD0128, [(0x40, 64)], .none, [⟨24, 16, [.ro], 0⟩, ⟨7, 4, [.ro], 0⟩, ⟨2, 0, [.ro], 0⟩]⟩,
  ⟨0xD012C, [(0x40, 64)], .none, [⟨31, 0, [.ro], 0⟩]⟩,
  ⟨0xD0130, [(0x40, 64)], .none, [⟨31, 0, [.ro], 0⟩]⟩,
  ⟨0xD0134, [(0x40, 64)], .none, [⟨31, 0, [.ro], 0⟩]⟩,
  ⟨0xD0138, [(0x40, 64)], .none, [⟨31, 24, [.w1c], 0⟩, ⟨23, 16, [.w1c], 0⟩, ⟨15, 8, [.w1c], 0⟩, ⟨7, 0, [.w1c], 0⟩]⟩]

/-- The register table of the block at BAR0 index 0x0e (spec/15). -/
def regTable15 : List RegSpec := [
  ⟨0xE0000, [], .none, [⟨31, 28, [.ro], 0⟩, ⟨19, 16, [.ro], 0⟩, ⟨11, 8, [.ro], 0⟩, ⟨2, 2, [.ro], 0⟩, ⟨1, 1, [.ro], 0⟩, ⟨0, 0, [.ro], 0⟩]⟩,
  ⟨0xE0010, [(0x10, 2)], .none, [⟨31, 0, [.ro], 0⟩]⟩,
  ⟨0xE0014, [(0x10, 2)], .none, [⟨31, 24, [.ro], 0⟩, ⟨3, 0, [.ro], 0⟩]⟩,
  ⟨0xE0018, [(0x10, 2)], .none, [⟨31, 0, [.ro], 0⟩]⟩,
  ⟨0xE0030, [], .none, [⟨31, 16, [.rw,.lk], 600⟩, ⟨0, 0, [.rw,.lk], 0⟩]⟩,
  ⟨0xE0034, [], .none, [⟨31, 24, [.ro], 0⟩, ⟨15, 8, [.ro], 0⟩, ⟨2, 0, [.ro], 0⟩]⟩,
  ⟨0xE0038, [], .none, [⟨31, 0, [.ro], 0⟩]⟩,
  ⟨0xE003C, [], .none, [⟨16, 16, [.ro], 0⟩, ⟨15, 8, [.ro], 0⟩, ⟨7, 0, [.ro], 0⟩]⟩,
  ⟨0xE0050, [], .none, [⟨7, 0, [.rw], 0⟩]⟩,
  ⟨0xE0054, [], .none, [⟨31, 16, [.ro], 0⟩, ⟨5, 5, [.ro], 0⟩, ⟨4, 4, [.ro], 0⟩, ⟨3, 3, [.ro], 0⟩, ⟨2, 0, [.ro], 0⟩]⟩,
  ⟨0xE0058, [], .none, [⟨31, 0, [.ro], 0⟩]⟩,
  ⟨0xE005C, [], .none, [⟨31, 0, [.ro], 0⟩]⟩,
  ⟨0xE0060, [], .none, [⟨19, 15, [.ro], 0⟩, ⟨14, 10, [.ro], 0⟩, ⟨9, 5, [.ro], 0⟩, ⟨4, 0, [.ro], 0⟩]⟩]

/-- The register table of the block at BAR0 index 0x0f (spec/16). -/
def regTable16 : List RegSpec := [
  ⟨0xF0000, [], .none, [⟨31, 16, [.rw,.lk], 600⟩, ⟨15, 8, [.rw,.lk], 50⟩]⟩,
  ⟨0xF0004, [], .none, [⟨24, 16, [.ro], 0⟩, ⟨8, 0, [.ro], 0⟩]⟩,
  ⟨0xF0100, [(0x20, 9)], .none, [⟨31, 16, [.ro], 0⟩, ⟨6, 0, [.ro], 0⟩]⟩,
  ⟨0xF0104, [(0x20, 9)], .none, [⟨31, 24, [.w1c], 0⟩, ⟨23, 16, [.w1c], 0⟩, ⟨15, 8, [.w1c], 0⟩, ⟨7, 0, [.w1c], 0⟩]⟩,
  ⟨0xF0108, [(0x20, 9)], .none, [⟨31, 0, [.ro], 0⟩]⟩,
  ⟨0xF010C, [(0x20, 9)], .none, [⟨31, 0, [.ro], 0⟩]⟩,
  ⟨0xF0110, [(0x20, 9)], .none, [⟨15, 8, [.ro], 0⟩, ⟨7, 0, [.ro], 16⟩]⟩,
  ⟨0xF0114, [(0x20, 9)], .none, [⟨15, 0, [.ro], 0⟩]⟩,
  ⟨0xF0400, [(0x20, 8)], .none, [⟨23, 16, [.ro], 10⟩, ⟨7, 6, [.ro], 0⟩, ⟨3, 2, [.ro], 0⟩, ⟨1, 1, [.ro], 0⟩, ⟨0, 0, [.ro], 0⟩]⟩,
  ⟨0xF0404, [(0x20, 8)], .none, [⟨31, 0, [.ro], 0⟩]⟩,
  ⟨0xF0408, [(0x20, 8)], .none, [⟨31, 0, [.ro], 0⟩]⟩,
  ⟨0xF040C, [(0x20, 8)], .none, [⟨31, 0, [.ro], 0⟩]⟩,
  ⟨0xF0410, [(0x20, 8)], .none, [⟨31, 0, [.ro], 0⟩]⟩,
  ⟨0xF0414, [(0x20, 8)], .none, [⟨31, 24, [.w1c], 0⟩, ⟨23, 16, [.w1c], 0⟩, ⟨15, 0, [.ro], 0⟩]⟩]

/-- The register table of the block at BAR0 index 0x10 (spec/17). -/
def regTable17 : List RegSpec := [
  ⟨0x100000, [], .none, [⟨3, 0, [.wo], 0⟩]⟩,
  ⟨0x100004, [], .none, [⟨8, 8, [.ro], 0⟩, ⟨7, 4, [.ro], 0⟩, ⟨3, 0, [.ro], 0⟩]⟩,
  ⟨0x100010, [], .none, [⟨31, 16, [.ro], 0⟩, ⟨15, 0, [.ro], 0⟩]⟩,
  ⟨0x100014, [], .none, [⟨6, 6, [.ro], 0⟩, ⟨5, 5, [.ro], 0⟩, ⟨4, 4, [.ro], 0⟩, ⟨3, 3, [.ro], 0⟩, ⟨2, 2, [.ro], 0⟩, ⟨1, 1, [.ro], 0⟩, ⟨0, 0, [.ro], 0⟩]⟩,
  ⟨0x100018, [], .none, [⟨31, 16, [.ro], 0⟩, ⟨15, 0, [.ro], 0⟩]⟩,
  ⟨0x10001C, [], .none, [⟨31, 24, [.w1c], 0⟩, ⟨23, 16, [.w1c], 0⟩, ⟨15, 8, [.w1c], 0⟩, ⟨7, 0, [.w1c], 0⟩]⟩,
  ⟨0x100030, [], .none, [⟨8, 8, [.rw,.lk], 0⟩, ⟨3, 0, [.rw,.lk], 0⟩]⟩,
  ⟨0x100034, [], .none, [⟨4, 4, [.w1s], 0⟩, ⟨3, 0, [.rw], 0⟩]⟩,
  ⟨0x100038, [], .none, [⟨7, 6, [.ro], 0⟩, ⟨5, 5, [.ro], 0⟩]⟩,
  ⟨0x100040, [(0x10, 4)], .none, [⟨31, 0, [.ro], 0⟩]⟩,
  ⟨0x100044, [(0x10, 4)], .none, [⟨25, 24, [.ro], 0⟩, ⟨23, 0, [.ro], 0⟩]⟩,
  ⟨0x100048, [(0x10, 4)], .none, [⟨31, 0, [.ro], 0⟩]⟩,
  ⟨0x10004C, [(0x10, 4)], .none, [⟨31, 0, [.ro], 0⟩]⟩,
  ⟨0x100080, [], .none, [⟨14, 13, [.rw], 0⟩, ⟨12, 0, [.rw], 0⟩]⟩,
  ⟨0x1000A0, [], .none, [⟨31, 16, [.rw], 1⟩, ⟨2, 2, [.rw], 0⟩, ⟨1, 1, [.w1s], 0⟩, ⟨0, 0, [.rw], 0⟩]⟩,
  ⟨0x1000C0, [], .none, [⟨0, 0, [.rw,.lk], 0⟩]⟩,
  ⟨0x1000C4, [], .none, [⟨11, 8, [.ro], 0⟩, ⟨7, 7, [.ro], 0⟩, ⟨2, 0, [.ro], 0⟩]⟩,
  ⟨0x1000C8, [], .none, [⟨0, 0, [.w1s], 0⟩]⟩,
  ⟨0x1000CC, [], .none, [⟨31, 0, [.ro], 0⟩]⟩,
  ⟨0x1000D0, [], .none, [⟨31, 0, [.ro], 0⟩]⟩,
  ⟨0x1000D4, [], .none, [⟨31, 0, [.ro], 0⟩]⟩,
  ⟨0x1000D8, [], .none, [⟨31, 0, [.ro], 0⟩]⟩,
  ⟨0x1000DC, [], .none, [⟨31, 24, [.w1c], 0⟩, ⟨23, 16, [.w1c], 0⟩, ⟨15, 8, [.w1c], 0⟩, ⟨7, 0, [.w1c], 0⟩]⟩,
  ⟨0x101000, [(0x4, 1024)], .none, [⟨31, 0, [.ro], 0⟩]⟩]

end Sys2Proof.Machine
end

