-- ==== Sys2Proof/Config.lean ====
section
/-!
DEFINITION. What an implementation fixes and what spec/ leaves open: free values without a body, and the functions of the
published standards that spec/ cites and does not restate (log entries 2 and 9). Nothing can be proved of their values, so
a statement holds whatever they are.
-/

namespace Sys2Proof.Config

/-- A free value: the `n`-th number that a random generator or an unstated result yields. -/
opaque freeNat : Nat → Nat

/-- How far into its CF the stop line of a link was asserted, by the instant of the CF tick and the link (spec/03 R69). -/
opaque stopInstant : Nat → Nat → Nat

/-- A channel sampled every 31.25 µs from instant `t0` on, resampled to `n` samples evenly over the span from `a` to `b`, instants in
ns: the interpolation is not given (spec/07 R176). -/
opaque resample (x : List Int) (t0 a b n : Nat) : List Int

/-- SHAKE256 of a message, to `n` bytes. -/
opaque shake256 (msg : List Byte) (n : Nat) : List Byte

/-- The label under which a key is derived from the root key: 0 the store key, 1 the seed of the identity key (spec/15 R355; their
bytes are not given, log entry 82). -/
opaque rootLabel (key : Nat) : List Byte

/-- ECDSA over SHA-256 of a message: the 64-byte signature, and its check with a public key. -/
opaque ecdsaSign (key msg : List Byte) : List Byte
opaque ecdsaVerify (pub msg sig : List Byte) : Bool

/-- Falcon-1024 over a message: the signature in compressed format, and its check. -/
opaque falconSign (key msg : List Byte) : List Byte
opaque falconVerify (pub msg sig : List Byte) : Bool

/-- The public half of a key of an algorithm (spec/15 Table 15.2). -/
opaque publicOf (alg : Nat) (key : List Byte) : List Byte

/-- Name of the root of a certificate chain (spec/15 R358): the DER form of a chain is not the spec's. -/
opaque chainRoot (chain : List Byte) : List Byte

/-- AES-256-GCM opened under a key: the plaintext, none when the tag fails. -/
opaque gcmOpen (key iv aad ct tag : List Byte) : Option (List Byte)

/-- Antenna drive current of a reader port in mA, stored at commissioning (spec/12 R301). -/
opaque antennaCurrent (port : Nat) : Nat

/-- Bytes of an item of the lid tag whose fields the memory map lists without their places (spec/12 Table 12.3), from the
fields' values: 0 identity record, 1 capture index, 2 status snapshot, 3 mirror header, 4 diagnostic area after the set in
force. -/
opaque tagRecord (item : Nat) (values : List Nat) : List Byte

/-- A-XDR encoding of an attribute of an interface class from its values (spec/14 R351). -/
opaque axdr (cls attr : Nat) (values : List Nat) : List Byte

/-- OCMF 1.0 text of a record from its fields (spec/08 R213). -/
opaque ocmfText (fields : List (String × String)) : List Byte

/-- Data word under which an event record and an event line carry an event's data (spec/12 Table 12.4): the packing is not
given. -/
opaque eventWord : Nat → List Nat → Nat

/-- The lid tag's double-size UID from the module serial; length in ns of a reader port's command of a protocol with its answer window
(spec/12 R299, R300, R304; log entry 79). -/
opaque tagUid : Nat → BitVec 56
opaque nfcFrameNs : Nat → Nat

/-- Bytes of the calibration set of a channel, from its values: the layout is not given (spec/08 R190). -/
opaque calBytes (channel : Nat) (values : List Int) : List Byte

/-- Where a check-value unit's range starts in its memory (spec/16 Table 16.7). -/
opaque regionBase (unit : Nat) : Nat

/-- A byte of the capture store that its header does not give, from the subject blocks captured, by captures since MANUFACTURE
and offset in the slot (spec/17 Table 17.6). -/
opaque captureByte (blocks : List (Nat × BitVec 32)) (index offset : Nat) : Byte

/-- Type of a panel, which its roast table must name (spec/11 R282). -/
opaque panelType (panel : Nat) : Nat

/-- Grey levels, row by row, of what PNL0's legal field shows, from its values: 1 a legal line, 2 the legal check value. The strip and
pages of PNL1 are rendered from their contents (Machine/Pages.lean). -/
opaque render (kind : Nat) (values : List Nat) : List Nat

end Sys2Proof.Config
end

