-- ==== Sys2Proof/Machine/State.lean ====
section
/-!
DEFINITION. The state of the module as plain data: the register map of BAR0, the event log, the timers, and for each
chapter of spec/ the state it gives the machine that no register holds; the reasons a step can stop; and the state
right after reset.
-/

namespace Sys2Proof.Machine

/-- Reasons a step stops with a fault.
`notPresent`: raised by no meaning of this model; the spec gives the block no access to an absent address that stops
it (reads of reserved offsets answer 0). Safe. -/
inductive Fault where
  | notPresent
deriving DecidableEq, Repr

/-- Reasons a step refuses a command.
`notModelled`: raised by the dispatcher for a command that has no meaning yet. Safe: the machine stops. -/
inductive Refusal where
  | notModelled (mnemonic : String)
deriving DecidableEq, Repr

/-- An event of the event log: its code, its data, its legal time stamp, and the UTC offset and whether time was not valid
when it was logged (spec/00 R8, spec/12 Table 12.4). The log engine stands in PD2: an event raised while PD2 is off waits in
its part's queue, and `outage` numbers that outage; 0 is an event that was logged at once (spec/01 R13, R14). -/
structure Event where
  code : Nat
  data : List Nat
  time : Nat
  ofs : Int
  invalid : Bool
  outage : Nat
deriving DecidableEq, Repr

/-- The durations that the module counts across SF ticks in legal time (spec/02 R35). -/
inductive Timer where
  /-- Training of a link, 100 ms (spec/03 R73). -/
  | train (link : Nat)
  /-- Pause after a failed training, 1 s (spec/03 R73). -/
  | retry (link : Nat)
  /-- A LOST link without valid characters, 1 ms (spec/03 R73). -/
  | silent (link : Nat)
  /-- A move step with a limit: 2 ms or 60 ms (spec/05 Table 5.2). -/
  | moveStep (link : Nat)
  /-- Pump run-on (spec/05 R131). -/
  | runOn (out : Nat)
  /-- SLAC_TMO (spec/06 Table 6.6). -/
  | slac (out : Nat)
  /-- SETUP_TMO. -/
  | setup (out : Nat)
  /-- SEQ_TMO. -/
  | seq (out : Nat)
  /-- AUTH_TMO. -/
  | auth (out : Nat)
  /-- CERT_TMO. -/
  | cert (out : Nat)
  /-- CC_TMO. -/
  | cc (out : Nat)
  /-- PC_TMO. -/
  | pc (out : Nat)
  /-- LOOP_TMO. -/
  | loop (out : Nat)
  /-- STOP_TMO. -/
  | stop (out : Nat)
  /-- RESUME_WIN. -/
  | resume (out : Nat)
  /-- JOIN_WIN. -/
  | join (out : Nat)
  /-- Lock confirmation, 1 s (spec/06 R147). -/
  | lockConfirm (out : Nat)
  /-- Wait in PARAM for RUN or DEGRADED, 60 s (spec/06 R146). -/
  | paramMode (out : Nat)
  /-- WELDCHECK, 5 s (spec/06 R147). -/
  | weldWait (out : Nat)
  /-- Retry pause, 3 s (spec/06 R150). -/
  | retryPause (out : Nat)
  /-- ROT_INT since the last switchover (spec/07 R167). -/
  | rot (fe : Nat)
  /-- Token entry lock, LOCK_T × 5 min (spec/08 R217). -/
  | tokenLock
  /-- 1 s after a signing failure (spec/08 R210). -/
  | signRetry (rec : Nat)
  /-- SO_DLY before a pair turns off (spec/09 R227). -/
  | pairOff (pair : Nat)
  /-- STOP1_T of a controlled stop (spec/09 R237). -/
  | ctlStop (out : Nat)
  /-- Function 12 of an output (spec/09 R237, Table 9.5). -/
  | failStop (out : Nat)
  /-- 50 ms after SSTATE leaves the set of R239. -/
  | leave50 (out : Nat)
  /-- The 200 ms pre-closure weld test (spec/09 R240). -/
  | weldTest (out : Nat)
  /-- The 100 ms post-opening check (spec/09 R240). -/
  | weldCheck (out : Nat)
  /-- 300 s for the host confirmation (spec/09 R251). -/
  | candHost
  /-- 60 s for the local acknowledgement (spec/09 R251). -/
  | candAck
  /-- Controlled stop before the safe state (spec/09 R247, R252). -/
  | afterStop
  /-- Latent tests before the module leaves SAFE, 200 ms maximum (spec/09 R248). -/
  | latent
  /-- 10 ms without a valid refresh (spec/10 R267). -/
  | psWdg
  /-- RETRY_DLY since a trip (spec/10 R264). -/
  | psDelay (chan : Nat)
  /-- On without a trip, 60 s (spec/10 R264). -/
  | psOn (chan : Nat)
  /-- 10 s after a rail fault (spec/11 R281). -/
  | railRetry (panel : Nat)
  /-- PD8 has not been needed, PD8_IDLE (spec/11 R280). -/
  | pd8Idle
  /-- 60 s between temperature readings with PD8 off (spec/11 R280). -/
  | pnlWake
  | kpMsg
  /-- KEY_T without a key (spec/11 R295). -/
  | keyT
  /-- Key D shows the check value, 10 s (spec/11 R291). -/
  | chkShow
  /-- Since the last redraw of the strip (spec/11 R289). -/
  | strip
  /-- PAGE_T without a selection (spec/11 R290). -/
  | page
  /-- Since the last redraw of a legal line (spec/11 R291). -/
  | line (n : Nat)
  /-- CARD_HOLD (spec/12 R303). -/
  | cardHold (port : Nat)
  /-- 60 s after an antenna fault (spec/12 R301). -/
  | antRetry (port : Nat)
  /-- POLL_T since the start of a cycle (spec/12 R299). -/
  | poll (port : Nat)
  /-- Since an identifier was posted (spec/14 R352). -/
  | posted (port : Nat)
  /-- SNAP_T since the last status snapshot (spec/12 Table 12.3). -/
  | snap
  /-- POLL_CYC since the start of a cycle (spec/13 R317). -/
  | mlCyc
  /-- DISC_T since the last discovery (spec/13 R316). -/
  | mlDisc
  /-- Since a slave's last valid answer (spec/13 Table 13.5). -/
  | mlAge (slave : Nat)
  /-- DEADLINE of a descriptor (spec/14 Table 14.4). -/
  | deadline (slot : Nat)
  /-- 15 min without a descriptor naming the session (spec/15 R362). -/
  | roleIdle (handle : Nat)
  /-- 60 s of a ROLE_CHALLENGE nonce (spec/15 R361). -/
  | nonce (num : Nat)
  /-- CONF_T of a trial bank (spec/15 R370). -/
  | trial
  /-- The activation pause, 180 ms (spec/15 R375). -/
  | pause
  /-- Since the start of a scrub pass (spec/16 R392). -/
  | scrub (mem : Nat)
  /-- PERIOD of a check-value unit (spec/16 R394). -/
  | cvu (unit : Nat)
  /-- 10 s for the transfer flags after a request (spec/17 R400). -/
  | reqStop
  /-- The 60 s BENCH window (spec/17 R404). -/
  | bench
  /-- The 50 ms wait of a safe freeze (spec/17 R413). -/
  | freeze
  /-- 24 h since the store test (spec/17 R411). -/
  | storeTest
  /-- 24 h since the capture engine's test (spec/17 R420). -/
  | capTest
  /-- 200 ms for the SC's report, from the Island's release (spec/01 R22). -/
  | scStart
  /-- The 1 s interval of Sync, Announce and Pdelay (spec/02 R45). -/
  | ptp
deriving DecidableEq, Repr

/-- The parts of spec/01 that no register of BAR0 index 0x00 holds. -/
structure GlbSt where
  /-- Consecutive SF ticks that VC0 missed with the limit table (R12). -/
  vc0Missed : Nat
  /-- Consecutive SF ticks above 25 K, and at or below 23 K (R23). -/
  zoneOver : Nat
  zoneUnder : Nat
  /-- Domains whose off period has raised E:0x0005 already (R23). -/
  offRead : List Nat
  /-- Outages of PD2 that are over: the events raised in them are in the log (R13, R14). -/
  outages : Nat
  /-- Front ends not ready: 0 to 7 OUT0 to OUT7, 8 and 9 the feeds (R23). -/
  feNotReady : List Nat
  /-- Fast-path transfers discarded, by output front end; no register shows them (R23). -/
  fastDisc : List Nat
  /-- The Safety Island is released, and the SC has reported its start-up tests (R21, R22). -/
  islReleased : Bool
  scReported : Bool
  /-- The stored configuration copy: every configuration field by register (R25, R401). -/
  storedCfg : Option (List (Nat × Word))
  /-- LK fields written since the last commit, by register: they take effect at the next one (R402). -/
  edit : List (Nat × Word)
deriving DecidableEq, Repr

/-- The global part right after reset. -/
def GlbSt.reset : GlbSt where
  vc0Missed := 0
  zoneOver := 0
  zoneUnder := 0
  offRead := []
  outages := 0
  feNotReady := []
  fastDisc := List.replicate 8 0
  islReleased := false
  scReported := false
  storedCfg := none
  edit := []

/-- What a grandmaster port sends at a 1 s interval (spec/02 R45, R46, Table 2.6): the domain, the priorities, the clockClass
announced, timeTraceable and frequencyTraceable, two-step Sync, a Pdelay message of its own (power profile), the count and the UTC
offset. -/
structure PtpMsg where
  domain : Nat
  prio1 : Nat
  prio2 : Nat
  clkClass : Nat
  timeTr : Bool
  freqTr : Bool
  twoStep : Bool
  pdelay : Bool
  tai : Nat
  ofs : Int
  /-- Transport: Ethernet Layer 2 with Ethertype 0x88F7; else UDP over IPv4. -/
  l2 : Bool
deriving DecidableEq, Repr

/-- An answer to a delay request: the domain, peer-to-peer or end-to-end, the count when the request came, and the transport. -/
structure PtpAns where
  domain : Nat
  peer : Bool
  tai : Nat
  l2 : Bool
deriving DecidableEq, Repr

/-- The clock and the frames (spec/02), beside the registers of BAR0 index 0x01. -/
structure TimeSt where
  /-- Legal time: TAI nanoseconds since 1958-01-01 (R33). -/
  count : Nat
  /-- SF ticks since the last entry to BOOT (Table 2.9). -/
  sfCount : Nat
  /-- Number of the CF in progress within its SF (R28). -/
  cfIndex : Nat
  /-- Length in ns of the SF in progress: 1 000 000, or more under R44. -/
  sfLen : Nat
  /-- FRM_CFG.CF_SEL in force (R29). -/
  cfSel : Nat
  /-- FRM_CFG.LONG_FIBRE in force (R29). -/
  longFibre : Bool
  /-- An accepted correction that is not yet applied, in ns (R42). -/
  corr : Option Int
  /-- The first SF tick after its acceptance has come. -/
  corrDue : Bool
  /-- The correction is the one that R39 confirmed, or a host setting: its step enters LOCKING or FREERUN. -/
  corrGnss : Bool
  /-- The correction is a host's setting: ring and journal slot of its descriptor, UTC offset (R41). -/
  setBy : Option (Nat × Nat × Int)
  /-- What is left of the slew in progress, in ns (R42). -/
  slewLeft : Int
  /-- The present SF tick has added its slew increment. -/
  slewTicked : Bool
  /-- Consecutive PPS with an offset of at most 100 ns (Table 2.3). -/
  goodRun : Nat
  /-- Consecutive PPS with an offset above 1 µs (R37). -/
  farRun : Nat
  /-- Consecutive missing or invalid PPS (R38). -/
  missRun : Nat
  /-- Consecutive PPS beyond the step limit that agree within 1 µs (R39). -/
  r39Run : Nat
  /-- Least and greatest offset of that run. -/
  r39Lo : Int
  r39Hi : Int
  /-- E:0x0106 is raised for the present confirmation (R39). -/
  r39Told : Bool
  /-- Count at the last valid PPS since the start, if any (R38). -/
  lastPps : Option Nat
  /-- Count at an accepted PPS edge that waits for its message (R38). -/
  edge : Option Nat
  /-- UTC offset in force at that edge (R38). -/
  edgeOfs : Int
  /-- What the count has advanced by from the work of the SF tick before to that of the last one, slew increments included (R35), and
  the scale `life` at the last one. -/
  advance : Nat
  seen : Nat
  /-- Holdover estimate in units of 1/86 400 000 000 ns (R40). -/
  holdAcc : Nat
  /-- ZC reading in mK at the entry to holdover, and whether it has moved by more than 1 K since (R40). -/
  zcEntry : Int
  zcMoved : Bool
  /-- Last ZC reading in mK. -/
  zcNow : Int
  /-- SF-rate work of CE c was late in the SF before (R31). -/
  ceSfLate : List Bool
  /-- Kinds of work that have raised E:0x0120 in the present SF (R32). -/
  ovrTold : List Nat
  /-- Latches of the four HI registers (R49, R220). -/
  nsHi : Option Nat
  sfHi : Option Nat
  hwmHi : Option Nat
  maxtHi : Option Nat
  /-- State of the two PTP site ports: 0 disabled, 1 grandmaster, 2 passive (R46, E:0x0110). -/
  ptpPort : List Nat
  /-- Sync and Announce messages sent by each port, and delay answers, with the last of each (R45, R46). -/
  ptpSent : List Nat
  ptpAnswers : List Nat
  ptpLast : List (Option PtpMsg)
  ptpAns : List (Option PtpAns)
  /-- What the count has advanced by, slew increments and no steps: durations are differences of it (R35). -/
  life : Nat
  /-- Nanoseconds since the last tick, as far as an access has shown them (R33). -/
  sub : Nat
  /-- The legal time shown before the last slew increment, below which no reading falls (R33). -/
  floor : Nat
  /-- A leap second that was pending at the PPS edge that waits: its day, and the offset from its end on (R38). -/
  edgeLeap : Option (Nat × Int)
  /-- Day whose second 23:59:59 the last negative leap second skipped (R38). -/
  skipDay : Option Nat
  /-- PPS_OUT: the whole TAI second at which it last rose, and its pulses (R47). -/
  ppsRose : Option Nat
  ppsCount : Nat
deriving DecidableEq, Repr

/-- The clock right after reset: FREERUN_UNSET, count 0 (log entry 4). -/
def TimeSt.reset : TimeSt where
  count := 0
  sfCount := 0
  cfIndex := 0
  sfLen := 1000000
  cfSel := 0
  longFibre := false
  corr := none
  corrDue := false
  corrGnss := false
  setBy := none
  slewLeft := 0
  slewTicked := false
  goodRun := 0
  farRun := 0
  missRun := 0
  r39Run := 0
  r39Lo := 0
  r39Hi := 0
  r39Told := false
  lastPps := none
  edge := none
  edgeOfs := 0
  advance := 0
  seen := 0
  holdAcc := 0
  zcEntry := 0
  zcMoved := false
  zcNow := 0
  ceSfLate := [false, false]
  ovrTold := []
  nsHi := none
  sfHi := none
  hwmHi := none
  maxtHi := none
  ptpPort := [0, 0]
  ptpSent := [0, 0]
  ptpAnswers := [0, 0]
  ptpLast := [none, none]
  ptpAns := [none, none]
  life := 0
  sub := 0
  floor := 0
  edgeLeap := none
  skipDay := none
  ppsRose := none
  ppsCount := 0

/-- What goes over a link as one character: a data byte or a K-symbol of Table 3.2. -/
inductive LineSym where
  | data (b : Byte)
  | idle
  | sync
  | sfsync
  | echo
  | stop
deriving DecidableEq, Repr

/-- A downstream frame as a link's serialiser sends it (Tables 3.3 and 3.4). -/
structure DownFrame where
  type : Nat
  hold : Bool
  tok : Bool
  src : Nat
  cmd : Nat
  seq : Nat
  iref : Int
  vlim : Nat
  vff : Int
  tag : Nat
  data : Nat
  arg : Nat
deriving DecidableEq, Repr

/-- A Choquin link, beside its registers (spec/03). -/
structure LinkSt where
  /-- Who asserts the stop line for the link (R68, R446): 0 to 7 the SC for that output, 8 the safe state, 9 a power-down
  or a change of mode, 10 a stop of a link that no output has. The line is asserted while any of them does. -/
  stopBy : List Nat
  /-- The line is released, and the serialiser resumes at the next CF tick (R68). -/
  freeing : Bool
  /-- STOP was entered from ALIGNED, ACTIVE or LOST (Table 3.15). -/
  stopAligned : Bool
  /-- Instant at which the first STOP left, on the scale of durations (R35), and E:0x020F raised for it (R69). -/
  stopAt : Nat
  stopTold : Bool
  /-- Consecutive invalid and consecutive valid upstream frames (R66, R445). -/
  invalidRun : Nat
  validRun : Nat
  /-- CFs since the last valid frame, for the USEQ check; a USEQ is known. -/
  missed : Nat
  useqKnown : Bool
  /-- The present CF has a valid upstream frame; the frame of this CF has been judged, or its window has begun; the CF before
  had a valid frame. -/
  valid : Bool
  judged : Bool
  prevValid : Bool
  /-- Upstream tags received in this training, bit k = tag k (R445). -/
  tags : Nat
  /-- The measurement of R60 is accepted; the last one was refused for F out of range. -/
  measOk : Bool
  fOut : Bool
  /-- Training has failed and the 1 s pause runs (R73). -/
  failed : Bool
  /-- Consecutive CFs outside ±8 ns (R63), consecutive reports beyond 100 ppm (R64). -/
  driftRun : Nat
  clkRun : Nat
  /-- DISABLE before a retrain: the instant it began (R63). -/
  drainAt : Option Nat
  /-- The link goes to TRAIN once the commands under way have left (R56, Table 3.15). -/
  retrainDue : Bool
  /-- Command being sent, its argument and the frames left of its 4; the commands that wait for it, with theirs (R56). -/
  cmd : Nat
  cmdArg : Nat
  cmdLeft : Nat
  cmdNext : List (Nat × Nat)
  /-- DISABLE is sent from now on (R66, R98). -/
  disabling : Bool
  /-- START has been sent since the block left service (R68). -/
  startSent : Bool
  /-- The last command sent was MX_OPEN or MX_CLOSE. -/
  lastMx : Bool
  /-- FLT has risen and no fault code has come since (R73). -/
  fltNew : Bool
  /-- Downstream sequence number (R65). -/
  seq : Nat
  /-- E:0x0204 and E:0x020B raised in this SF. -/
  told204 : Bool
  told20B : Bool
  /-- Sample of the last valid frame (Table 3.8), and the block's declarations (Table 3.9). -/
  imeas : Int
  vout : Nat
  vdc : Nat
  temp : Int
  iavail : Nat
  mxState : Nat
  srcEcho : Nat
  rated : Nat
  tu : Nat
  protVer : Nat
  /-- Last downstream frame launched. -/
  down : DownFrame
  /-- What the serialiser has sent since the CF tick, as runs of symbols, and the running disparity before it (true: positive);
  the disparity of the receiver (R52, R53). -/
  tx : List (Nat × LineSym)
  txRd : Bool
  rxRd : Bool
deriving DecidableEq, Repr

/-- A link that is off. -/
def LinkSt.off : LinkSt where
  stopBy := []
  freeing := false
  stopAligned := false
  stopAt := 0
  stopTold := false
  invalidRun := 0
  validRun := 0
  missed := 0
  useqKnown := false
  valid := false
  judged := false
  prevValid := false
  tags := 0
  measOk := false
  fOut := false
  failed := false
  driftRun := 0
  clkRun := 0
  drainAt := none
  retrainDue := false
  cmd := 0
  cmdArg := 0
  cmdLeft := 0
  cmdNext := []
  disabling := false
  startSent := false
  lastMx := false
  fltNew := false
  seq := 0
  told204 := false
  told20B := false
  imeas := 0
  vout := 0
  vdc := 0
  temp := 0
  iavail := 0
  mxState := 0
  srcEcho := 0
  rated := 0
  tu := 0
  protVer := 0
  down := ⟨0, false, false, 0, 0, 0, 0, 0, 0, 0, 0, 0⟩
  tx := []
  txRd := false
  rxRd := false

/-- What the links have in common: the count and the offset of the next SF tick as the present one fixed them (R57); a new holder's
frames carry TOK = 1 from the next CF tick on (R72). -/
structure LinkCommon where
  nextCount : Nat
  nextOfs : Nat
  tokWait : Bool
deriving DecidableEq, Repr

/-- A stage: 32 mantissas with one exponent; lane `k` is `m k × 2^(e − 23)` (spec/04 R78). -/
structure Stage where
  e : Int
  m : List Int
deriving DecidableEq, Repr

/-- An accumulator: 32 lane values with one exponent; lane `k` is `q k × 2^(ea − 46)` (spec/04 R79). -/
structure Acc where
  ea : Int
  q : List Int
deriving DecidableEq, Repr

/-- The stage that reads 0. -/
def Stage.zero : Stage := ⟨0, List.replicate 32 0⟩

/-- The operands a program writes: law stages, output stages DN0 to DN2, accumulators and masks (spec/04 R80). -/
structure CeCtx where
  st : List Stage
  dn : List Stage
  acc : List Acc
  k : List Word
  /-- Instructions that SKZ still skips. -/
  skip : Nat
  /-- END is reached. -/
  ended : Bool
  /-- Cycles spent (Table 4.5). -/
  cycles : Nat
deriving DecidableEq, Repr

/-- A context with every operand at 0. -/
def CeCtx.zero : CeCtx where
  st := List.replicate 32 Stage.zero
  dn := List.replicate 3 Stage.zero
  acc := List.replicate 4 ⟨0, List.replicate 32 0⟩
  k := List.replicate 8 0
  skip := 0
  ended := false
  cycles := 0

/-- A block lane of a CE beside its operands (spec/04 R95 to R101). -/
structure BlockLane where
  /-- Consecutive invalid CFs of the input. -/
  invalidRun : Nat
  /-- The lane is frozen since it last left K1 (R100). -/
  frozen : Bool
  /-- Consecutive identical valid frames, the raw IMEAS and VOUT they carry, and the IREF sent over the last 64 of them, newest
  first. -/
  sameRun : Nat
  rawI : Int
  rawV : Nat
  irefs : List Int
  /-- Share weight in units of 2^−42, CFs left of its ramp, and the mantissa that went out in IN7 (R95). -/
  weight : Int
  rampLeft : Nat
  mant : Int
  /-- DN values sent in the last CF, in counts; the lane is held, and its input is valid, in this CF. -/
  lastI : Int
  lastVl : Nat
  lastVf : Int
  held : Bool
  valid : Bool
deriving DecidableEq, Repr

/-- An output lane of a CE beside its operands (spec/04 R93 to R101). -/
structure OutLane where
  /-- Reference generator in 1/5 120 000 A: its value at the last SF tick, the change over the SF, the CFs it has stepped,
  its output, and soft start in progress (R93 to R95). -/
  x : Int
  delta : Int
  steps : Nat
  out : Int
  soft : Bool
  invalidRun : Nat
  frozen : Bool
  sameRun : Nat
  rawI : Int
  /-- IN5 over the last 64 identical samples, newest first (R100). -/
  in5s : List Int
  /-- Reported failed in exchange table 3 since the pair last read off (R98, R99). -/
  failed : Bool
  /-- The barrier has discarded the fast sample of this CF (R166). -/
  badFast : Bool
  /-- The third invalid CF has come while the lane was in K1 (R98). -/
  lost : Bool
  /-- Last valid sample: current in mA, voltage in mV; fast-path summaries of the SF: sums, count and extremes (R165). -/
  iMa : Int
  vMv : Int
  sumI : Int
  sumV : Int
  n : Nat
  iMin : Int
  iMax : Int
  vMin : Int
  vMax : Int
  /-- E:0x0312 raised in this SF. -/
  told312 : Bool
deriving DecidableEq, Repr

/-- A cupping sample with the count, the SF count and the CF index of its CF (spec/04 R103, R106). -/
structure CupSample where
  mant : Int
  exp : Int
  time : Nat
  sf : Nat
  cf : Nat
deriving DecidableEq, Repr

/-- A record for the TRACE ring: its header fields of Table 4.8 and its samples. -/
structure CupRecord where
  ce : Nat
  buf : Nat
  dec : Nat
  src : Nat
  trig : Option Nat
  gaps : Nat
  samples : List CupSample
deriving DecidableEq, Repr

/-- A cupping buffer beside its registers (spec/04 R103 to R106). -/
structure CupBuf where
  /-- Samples, newest first; how many CFs until the next one. -/
  samples : List CupSample
  skipCf : Nat
  /-- Samples still to record from the trigger sample on; samples taken since arming or since the last record. -/
  postLeft : Nat
  taken : Nat
  /-- Records that wait for a host buffer, oldest first; records of a DONE buffer that the host ring has completed;
  E:0x0322 raised in this SF. -/
  records : List CupRecord
  sent : Nat
  told322 : Bool
deriving DecidableEq, Repr

/-- A control engine beside its registers (spec/04). -/
structure CeSt where
  /-- The image's law; the reason of R87 for which the last one was refused (0 none). -/
  image : Option LawImage
  refusedFor : Nat
  /-- Operands as END last committed them, the working copies of the window, and the SF program's own. -/
  com : CeCtx
  work : CeCtx
  sf : CeCtx
  inp : List Stage
  cv : List Stage
  /-- The compute window is open; the last window overran (HOLD). -/
  window : Bool
  overran : Bool
  /-- Block lane to link, output lane to output, bundle lane to bundle, fixed at commit (R76). -/
  laneLink : List (Option Nat)
  laneOut : List (Option Nat)
  laneBnd : List (Option Nat)
  /-- Group maps: block lane to output lane 24 to 27, output lane to bundle lane 28 to 31 (R77). -/
  map1 : List (Option Nat)
  map2 : List (Option Nat)
  blocks : List BlockLane
  outs : List OutLane
  cups : List CupBuf
  /-- The sequencer has acted on the third consecutive overrun (R31, R88). -/
  third : Bool
  /-- An SF tick has come since SWAP was set (R91). -/
  swapDue : Bool
  /-- Once-per-SF flags: E:0x0305, and the lanes that raised E:0x0316. -/
  told305 : Bool
  told316 : List Nat
deriving DecidableEq, Repr

/-- A block lane at rest. -/
def BlockLane.rest : BlockLane := ⟨0, false, 0, 0, 0, [], 0, 0, 0, 0, 0, 0, false, false⟩

/-- An output lane at rest. -/
def OutLane.rest : OutLane :=
  ⟨0, 0, 0, 0, false, 0, false, 0, 0, [], false, false, false, 0, 0, 0, 0, 0, 0, 0, 0, 0, false⟩

/-- A cupping buffer that is off. -/
def CupBuf.off : CupBuf := ⟨[], 0, 0, 0, [], 0, false⟩

/-- A control engine without a law. -/
def CeSt.reset : CeSt where
  image := none
  refusedFor := 0
  com := CeCtx.zero
  work := CeCtx.zero
  sf := CeCtx.zero
  inp := List.replicate 16 Stage.zero
  cv := List.replicate 64 Stage.zero
  window := false
  overran := false
  third := false
  swapDue := false
  laneLink := List.replicate 24 none
  laneOut := List.replicate 4 none
  laneBnd := List.replicate 4 none
  map1 := List.replicate 24 none
  map2 := List.replicate 4 none
  blocks := List.replicate 24 BlockLane.rest
  outs := List.replicate 4 OutLane.rest
  cups := List.replicate 8 CupBuf.off
  told305 := false
  told316 := []

/-- An entry of exchange table 0 (spec/06 Table 6.8): currents in 0.1 A, voltages in 0.1 V, powers in kW. -/
structure VehRow where
  sstate : Nat
  /-- A session stands: from SETUP to WELDCHECK, or lost while it may resume (spec/06 R150). -/
  held : Bool
  /-- The transfer flag. -/
  xfer : Bool
  /-- The VC commands the lock channel on (R260). -/
  lock : Bool
  /-- Session number of the lead member, 0 where not joined (R152), and the vehicle's values. -/
  join : Nat
  iTgt : Int
  iMax : Nat
  idMax : Nat
  vTgt : Nat
  vMax : Nat
  pMax : Nat
  pdMax : Nat
deriving DecidableEq, Repr

/-- Per-SF result of the precision path for an output in exchange table 1 (spec/07 Table 7.3a): mean power in mW, current in mA,
voltage in mV; `valid` unless the SF is flagged SUBST or OVR; the energies of the SF in 2^−32 µWh, I_RMS in mA, P_SF in W, and the
flags NOLOAD, SUBST, OVR, HOLDUP, CALCHK, LEGACY and OOC from bit 0 up. -/
structure MetRow where
  pMw : Int
  iMa : Int
  vMv : Int
  valid : Bool
  eImp : Nat
  eExp : Nat
  iRms : Nat
  pW : Int
  flags : Nat
deriving DecidableEq, Repr

/-- Result of a feed's last harmonic window (spec/07 Table 7.3a): NEW, TRANSIENT; TDD, largest low-order and largest high-order
group of the worst phase in 0.1 % of IR; the window's running number, by which the allocator knows a result that it has used; the
verdict of spec/05 R122 on the values as they stand unrounded: 1 exceeded, 2 clear, 3
otherwise. -/
structure WinRow where
  new : Bool
  no : Nat
  trans : Bool
  tdd : Nat
  low : Nat
  high : Nat
  verdict : Nat
deriving DecidableEq, Repr

/-- A feed in exchange table 1 (spec/07 Table 7.3a): power in W in total and per phase, energies of the SF in 2^−32 µWh, RMS of
the last cycle per channel in 0.1 V and 0.1 A, frequency in 0.1 mHz, the window result, and the flags SUBST, OVR, RES_FAIL, FTRACK
and OOC from bit 0 up. -/
structure FeedRow where
  p : Int
  ph : List Int
  eImp : Nat
  eExp : Nat
  rms : List Nat
  freq : Nat
  win : WinRow
  flags : Nat
deriving DecidableEq, Repr

/-- Per-output part of exchange table 3: mean fast-path current (mA) and voltage (mV) of an SF, failed report,
temperatures in 0.1 °C (none: invalid), and the switching requests of the cooling loop. -/
structure SumRow where
  iMa : Int
  vMv : Int
  iMin : Int
  iMax : Int
  vMin : Int
  vMax : Int
  n : Nat
  failed : Bool
  pinP : Option Int
  pinN : Option Int
  sup : Option Int
  ret : Option Int
  pump : Bool
  fan1 : Bool
  fan2 : Bool
deriving DecidableEq, Repr

/-- Per-link part of exchange table 3 (spec/01 Table 1.4, spec/05 R126, R128, spec/04 R101): link and block state, IAVAIL in
25 mA, the lane in K1, MX_STATE, the step of its move, and frozen feedback. -/
structure LinkRow where
  lst : Nat
  bst : Nat
  iavail : Nat
  run : Bool
  mx : Nat
  step : Nat
  frozen : Bool
deriving DecidableEq, Repr

/-- Exchange table 5, the SC's publication block (spec/01 R19): site cap in kW, degraded state, P_DEG in %, clamps in 0.1 A, and
the status mirror of BAR0 index 0x08 as register words by offset. -/
structure ScBlock where
  published : Bool
  cap : Nat
  deg : Bool
  pDeg : Nat
  clamps : List Nat
  mirror : List (Nat × Word)
deriving DecidableEq, Repr

/-- A block's move beside MX_ASGn (spec/05 R126, R127). -/
structure Move where
  /-- Source output (or the contactor that reads closed), none for a block whose contactors are open. -/
  src : Option Nat
  /-- Destination output; none for a return to the pool (R111). -/
  dest : Option Nat
  /-- The step at which a move decided in the slot starts at the next SF tick; 0 none. -/
  start : Nat
  /-- OPEN has ended, so the next slot names no output; CLOSE has ended, so the next slot names the destination. -/
  unmap : Bool
  joinDue : Bool
  /-- That slot has run, so ENABLE goes out at the next SF tick. -/
  joinMapped : Bool
  /-- The block was disabled inside its output by an abandoned move and re-enters at JOIN (R127). -/
  reenter : Bool
  /-- E:0x0410 is raised for the present loss (R128). -/
  told410 : Bool
  /-- MX_CLOSE waits for the block's other contactors to read open (Table 5.2). -/
  closeDue : Bool
  /-- The step at which a new token holder takes the move up once the block is READY; 0 none (R127). -/
  resume : Nat
deriving DecidableEq, Repr

/-- Outputs, sharing and cooling beside the registers of BAR0 index 0x04 (spec/05), with the exchange tables. -/
structure ShareSt where
  /-- Front and back buffers of the exchange tables 0 to 5 (spec/01 R16, Table 1.4): of table 1 the outputs' and the feeds' part, of
  table 3 the summaries and the block states, of table 4 the status registers of switches, panels, readers and Mallas slaves. -/
  t0 : List VehRow
  t0b : List VehRow
  t1 : List MetRow
  t1b : List MetRow
  feeds : List FeedRow
  feedsb : List FeedRow
  t2 : LimTable
  t2b : LimTable
  t3 : List SumRow
  t3b : List SumRow
  t3l : List LinkRow
  t3lb : List LinkRow
  t4 : List (Nat × Word)
  t4b : List (Nat × Word)
  t5 : ScBlock
  t5b : ScBlock
  /-- Table 1, and each CE's half of table 3, have swapped at the last SF tick: their fronts are of the same SF (spec/01 R17). -/
  fresh1 : Bool
  fresh3 : List Bool
  /-- The active allocator has marked table 2 complete in the present SF. -/
  t2Mark : Bool
  /-- Clamp register of each allocator, VC0's and VC1's, in 0.1 A per output (spec/01 R19). -/
  clampA : List (List Nat)
  /-- The move of each block (R126, R127). -/
  moves : List Move
  /-- Time for which each block could leave its consumer, and its member output of a bundle, together with the blocks of higher
  number, in ns (R124). -/
  surplusNs : List Nat
  memberNs : List Nat
  /-- Derating factor as a fraction, and E:0x0405 raised in the session (R130). -/
  derate : List (Nat × Nat)
  derTold : List Bool
  /-- PT1000 inputs in 0.1 °C, four per output, an empty list before the first reading, `none` an invalid one (R129). -/
  pt : List (List (Option Int))
  /-- Times in ns: pump current outside its window, return − supply above DT_MAX, no failure condition (R132). -/
  pumpBadNs : List Nat
  dtBadNs : List Nat
  coolOkNs : List Nat
  /-- The pump channel has tripped since it was last commanded (R132). -/
  pumpTrip : List Bool
  /-- Requests of the cooling loop (R131). -/
  pump : List Bool
  fan1 : List Bool
  fan2 : List Bool
  /-- The pump's conditions have cleared and it runs on. -/
  runOn : List Bool
  /-- Legal time at the last E:0x040A of each feed and the last E:0x040D. -/
  feedTold : List (Option Nat)
  siteTold : Option Nat
  /-- Number of the last harmonic window that the allocator has acted on, per feed (spec/07 R179). -/
  harmUsed : List Nat
  /-- E:0x0411 raised in the session of each output. -/
  told411 : List Bool
  /-- Bundles active since an SF tick (R114). -/
  bndActive : List Bool
deriving DecidableEq, Repr

def VehRow.rest : VehRow := ⟨0, false, false, false, 0, 0, 0, 0, 0, 0, 0, 0⟩
def MetRow.rest : MetRow := ⟨0, 0, 0, false, 0, 0, 0, 0, 0⟩
def WinRow.rest : WinRow := ⟨false, 0, false, 0, 0, 0, 3⟩
def FeedRow.rest : FeedRow := ⟨0, [0, 0, 0], 0, 0, List.replicate 8 0, 0, WinRow.rest, 0⟩
def LinkRow.rest : LinkRow := ⟨0, 0, 0, false, 0, 0, false⟩
def ScBlock.rest : ScBlock := ⟨false, 0, false, 0, List.replicate 8 0, []⟩
def LimRow.rest : LimRow := ⟨0, 0, 0, 0⟩
def LimBnd.rest : LimBnd := ⟨false, [], 0, 0, 0, 0⟩
def SumRow.rest : SumRow := ⟨0, 0, 0, 0, 0, 0, 0, false, none, none, none, none, false, false, false⟩
def Move.rest : Move := ⟨none, none, 0, false, false, false, false, false, false, 0⟩
def LimTable.rest : LimTable :=
  ⟨List.replicate 8 LimRow.rest, List.replicate 4 LimBnd.rest, List.replicate 48 none, List.replicate 48 0⟩

/-- Sharing right after reset: empty tables (log entry 5). -/
def ShareSt.reset : ShareSt where
  t0 := List.replicate 8 VehRow.rest
  t0b := List.replicate 8 VehRow.rest
  t1 := List.replicate 8 MetRow.rest
  t1b := List.replicate 8 MetRow.rest
  feeds := [FeedRow.rest, FeedRow.rest]
  feedsb := [FeedRow.rest, FeedRow.rest]
  t2 := LimTable.rest
  t2b := LimTable.rest
  t3 := List.replicate 8 SumRow.rest
  t3b := List.replicate 8 SumRow.rest
  t3l := List.replicate 48 LinkRow.rest
  t3lb := List.replicate 48 LinkRow.rest
  t4 := []
  t4b := []
  t5 := ScBlock.rest
  t5b := ScBlock.rest
  fresh1 := false
  fresh3 := [false, false]
  t2Mark := false
  clampA := [List.replicate 8 0, List.replicate 8 0]
  moves := List.replicate 48 Move.rest
  surplusNs := List.replicate 48 0
  memberNs := List.replicate 48 0
  derate := List.replicate 8 (1, 1)
  derTold := List.replicate 8 false
  pt := List.replicate 8 []
  pumpBadNs := List.replicate 8 0
  dtBadNs := List.replicate 8 0
  coolOkNs := List.replicate 8 0
  pumpTrip := List.replicate 8 false
  pump := List.replicate 8 false
  fan1 := List.replicate 8 false
  fan2 := List.replicate 8 false
  runOn := List.replicate 8 false
  feedTold := [none, none]
  siteTold := none
  harmUsed := [0, 0]
  told411 := List.replicate 8 false
  bndActive := List.replicate 4 false

/-- A request posted to host software on a VEHICLE ring (spec/06 Table 6.10, spec/14 Table 14.11). Kind: 1 authorisation,
2 certificate installation. `deadline` is the legal instant after which an answer is late; `sent` the request has been
handed to a host buffer. -/
structure HostReq where
  rid : Nat
  kind : Nat
  out : Nat
  idType : Nat
  ident : List Byte
  session : Nat
  tai : Nat
  deadlineMs : Nat
  payload : List Byte
  sent : Bool
deriving DecidableEq, Repr

/-- A TLS connection: version 1.3, else 1.2; its suite and group (spec/06 R140). -/
structure TlsConn where
  v13 : Bool
  suite : TlsSuite
  group : TlsGroup
deriving DecidableEq, Repr

/-- EVSE limits that a response carries (spec/06 R143, R153): maximum charge and discharge current in A, the output's own grant as
the present limit of each in A, voltage in 0.1 V, power in kW. -/
structure EvseLimits where
  iMax : Nat
  idMax : Nat
  gChg : Nat
  gDis : Nat
  vMax : Nat
  pMax : Nat
deriving DecidableEq, Repr

/-- No limit above 0. -/
def EvseLimits.zero : EvseLimits := ⟨0, 0, 0, 0, 0, 0⟩

/-- The schedule tuple of Scheduled mode: its length in h, the output's limits, and the price table, empty without one
(spec/06 R142). -/
structure SchedTuple where
  hours : Nat
  lim : EvseLimits
  price : List Byte
deriving DecidableEq, Repr

/-- A service of the offer (spec/06 R142, R155). -/
inductive SvcKind where
  | dc
  | mcs
  | dcBpt
  | mcsBpt
deriving DecidableEq, Repr

/-- What a response carries beside its code (spec/06 R142, R143, R151): the limits, present voltage in mV and current in mA,
the import and export readings in Wh, a schedule tuple, a payload of the host. -/
structure VehMsg where
  lim : EvseLimits
  vMv : Int
  iMa : Int
  imp : Nat
  exp : Nat
  sched : Option SchedTuple
  payload : List Byte
  /-- The services offered, in a response to ServiceDiscovery (R142, R155). -/
  services : List SvcKind
deriving DecidableEq, Repr

/-- No response yet. -/
def VehMsg.rest : VehMsg := ⟨EvseLimits.zero, 0, 0, 0, 0, none, [], []⟩

/-- The dialogue of one output beside its registers (spec/06). -/
structure Veh where
  /-- What the signalling circuit drives: 0 +12 V constant, 1 5 % duty cycle, 2 −12 V constant, 3 CE at 0 V, 4 nothing. -/
  drive : Nat
  /-- Accepted state of the MCS ID line: 0 no connector, 1 inserted, 2 invalid. -/
  idState : Nat
  /-- Exchange table 0 values of the session (Table 6.8). -/
  row : VehRow
  /-- Retries used, and the TLS retry used (R150). -/
  retries : Nat
  tlsRetried : Bool
  /-- Communication is lost and the session may resume (R150). -/
  lost : Bool
  /-- Reason with which the session ends when it is not resumed or when its stop completes. -/
  endReason : Nat
  /-- The session number has been given, and authorisation is positive (R147, R150). -/
  started : Bool
  authOk : Bool
  /-- Outstanding host answers, by request number (R151). -/
  authReq : Option Nat
  certReq : Option Nat
  /-- Payment option: 0 none, 1 EIM, 2 contract or PnC. -/
  payment : Nat
  /-- The certificate host answer: 0 none, 1 payload, 2 failed; its payload for the vehicle. -/
  certAns : Nat
  certPay : List Byte
  /-- An EVSE stop stands with this reason, 0 none; a response has announced it (R149). -/
  evseStop : Nat
  stopTold : Bool
  /-- ChargeParameterDiscovery has been answered in this PARAM (R142). -/
  paramDone : Bool
  /-- How far the session's services have come: 0 nothing, 1 discovered, 2 selected; PaymentDetails has come; ScheduleExchange has been
  answered in this PARAM (R142). -/
  svc : Nat
  payDone : Bool
  schedDone : Bool
  /-- Lock commanded and confirmed (R147). -/
  lockCmd : Bool
  lockOk : Bool
  /-- The SC has been asked to close the pair; the insulation result is good (R147). -/
  pairAsked : Bool
  insulOk : Bool
  /-- The first precharge request has come; the voltage has come within 10 V (R144). -/
  preAsked : Bool
  preOk : Bool
  /-- Dynamic control mode; bidirectional service selected (R142, R155). -/
  dynamic : Bool
  bpt : Bool
  /-- Price table that host software last supplied (R142). -/
  price : List Byte
  /-- Credit limit of the authorisation and its unit: 0 none, 1 0.1 currency unit, 2 Wh (R151, spec/08 Table 8.6). -/
  credit : Nat
  creditUnit : Nat
  /-- Credit limit of a token, with its unit (spec/08 R209, R216). -/
  tokCredit : Nat
  tokUnit : Nat
  /-- Identifier of the session and its type: 0 none, 1 EIM, 2 contract, 3 card, 4 token, 5 host (spec/08 Table 8.6). -/
  idType : Nat
  ident : List Byte
  /-- Contract certificate chain that PaymentDetails delivered. -/
  chain : List Byte
  /-- How far the dialogue has come in SETUP: 0 nothing, 1 protocol selected, 2 session set up, 3 service selected. -/
  phase : Nat
  /-- The vehicle has sent SessionStop; a stop told to the MC for the session's record. -/
  stopReq : Bool
  /-- Count at the entry to AUTH (spec/12 R303). -/
  authAt : Nat
  /-- A token that waits for the answer to this session's authorisation (spec/08 R216). -/
  token : Option Nat
  /-- SECC discovery answered, TCP connection open. -/
  sdp : Bool
  tcp : Bool
  /-- The TLS connection (R140). -/
  tls : Option TlsConn
  /-- The lead member's output, for a joined session, and which of all joins made it a member (R152); joined before its communication
  failed. -/
  lead : Option Nat
  joinNo : Nat
  wasJoined : Bool
  /-- Last response to the vehicle: 0 none, 1 OK, 2 Ongoing, 3 FAILED, 4 sequence error, 5 service not offered, 6 not
  required. -/
  resp : Nat
  /-- The last response announced a stop. -/
  respStop : Bool
  /-- What the last response carried. -/
  msg : VehMsg
  /-- Network membership key of the matching under way or confirmed, and the attenuation profile last answered (R138). -/
  nmk : Option Nat
  atten : List Byte
  /-- Limits announced when the supply-warning hold began (R157). -/
  holdI : Option EvseLimits
deriving DecidableEq, Repr

/-- An output without a vehicle. -/
def Veh.idle : Veh where
  drive := 0
  idState := 0
  row := VehRow.rest
  retries := 0
  tlsRetried := false
  lost := false
  endReason := 0
  started := false
  authOk := false
  authReq := none
  certReq := none
  payment := 0
  certAns := 0
  certPay := []
  evseStop := 0
  stopTold := false
  paramDone := false
  svc := 0
  payDone := false
  schedDone := false
  lockCmd := false
  lockOk := false
  pairAsked := false
  insulOk := false
  preAsked := false
  preOk := false
  dynamic := false
  bpt := false
  price := []
  credit := 0
  creditUnit := 0
  tokCredit := 0
  tokUnit := 0
  idType := 0
  ident := []
  chain := []
  phase := 0
  stopReq := false
  authAt := 0
  token := none
  sdp := false
  tcp := false
  tls := none
  lead := none
  joinNo := 0
  wasJoined := false
  resp := 0
  respStop := false
  msg := VehMsg.rest
  nmk := none
  atten := []
  holdI := none

/-- What the dialogues have in common. -/
structure VehCommon where
  /-- The next session number and request number (R145, R151). -/
  nextSession : Nat
  nextReq : Nat
  /-- Requests posted to the host whose answer is awaited or that wait for a buffer (R151). -/
  posted : List HostReq
  /-- Members taken into joined sessions so far (R152). -/
  joins : Nat
deriving DecidableEq, Repr

/-- Spare rotation of one front end (spec/07 R167 to R170): 0 to 7 the outputs', 8 and 9 the feeds'. -/
structure RotSt where
  /-- Step of Table 7.3, SFs left of it, target channel. -/
  step : Nat
  left : Nat
  tgt : Nat
  /-- Converter that is the spare, and the converter on each channel. -/
  spare : Nat
  conv : List Nat
  /-- Measured offset and gain of each converter. -/
  zero : List Int
  gain : List Int
  /-- Consecutive failures on the target; targets whose calibration check has failed. -/
  fails : Nat
  calchk : List Nat
  /-- SFs of SHADOW left out of the comparison for discards, by their number in it (R169). -/
  leftOut : List Nat
  /-- The bandgap ratio's deviation in ppm (R170). -/
  refDev : Int
deriving DecidableEq, Repr

/-- Metering of one output beside its registers (spec/07 R163 to R174). Energies are in units of 2^−32 µWh. -/
structure MetOut where
  /-- Calibration set (R171, R174): α in 10^−9/K, β in 10^−12/K², T_cal in 0.01 °C, NL_ON and NL_OFF in W. -/
  alpha : Int
  beta : Int
  tCal : Int
  nlOn : Nat
  nlOff : Nat
  /-- Last valid shunt temperature in 0.01 °C, and whether the present one is invalid (R171). -/
  tsh : Int
  tshBad : Bool
  /-- Offset capture: SFs met so far and the sum of the samples in sixths; the offset in force, as such a sum over 64 SF
  (R163). -/
  capRun : Nat
  capSum : Int
  off : Int
  /-- Import and export accumulators, and the energies of the last SF (R172). -/
  imp : Nat
  exp : Nat
  sfImp : Nat
  sfExp : Nat
  /-- What an early commit of the running SF has put into the accumulators already (R183, R184). -/
  earlyImp : Nat
  earlyExp : Nat
  /-- The last SF: no-load, substituted, over range, out of conditions. MET_OSTAT shows it unless a snapshot is held (R186). -/
  noLoad : Bool
  subst : Bool
  ovr : Bool
  ooc : Bool
  /-- Legacy mode: consecutive SFs towards a start or a stop, and their energies (R174). -/
  nlRun : Nat
  pendImp : Nat
  pendExp : Nat
  /-- Count at the last E:0x0608 and E:0x0609 (R173). -/
  toldIn : Option Nat
  toldOut : Option Nat
  /-- Discarded samples of the running SF, and how many samples at the end of the SF before were discarded (R166). -/
  disc : List Nat
  tail : Nat
  lastV : Int
  lastU : Int
  /-- Metering has stopped in hold-up (R184). -/
  stopped : Bool
deriving DecidableEq, Repr

/-- A harmonic window (spec/07 R176, R177): instant in ns of its first sample, the rising zero crossings of L1 from the one that
opens it on, newest first, the frequencies tracked in it in 0.1 mHz, and its samples per channel in sixths of mV and µA, newest
first. -/
structure HarmWin where
  t0 : Nat
  marks : List Nat
  freqs : List Nat
  ch : List (List Int)
deriving DecidableEq, Repr

def HarmWin.rest : HarmWin := ⟨0, [], [], List.replicate 8 []⟩

/-- Metering of one feed beside its registers (spec/07 R175 to R178). -/
structure MetFeed where
  imp : Nat
  exp : Nat
  sfImp : Nat
  sfExp : Nat
  earlyImp : Nat
  earlyExp : Nat
  disc : List Nat
  tail : Nat
  /-- Last sample of each channel, filled where it was not valid. -/
  last : List Int
  /-- Last valid sample of each channel, as it came (R166). -/
  lastOk : List Int
  /-- Sums of squares of the running cycle and its samples. -/
  sumSq : List Nat
  n : Nat
  /-- Instants in ns of the last rising zero crossings of L1, newest first. -/
  cross : List Nat
  /-- Last-cycle RMS per channel in 0.1 V and 0.1 A primary, and frequency in 0.1 mHz (R175). -/
  rms : List Nat
  freq : Nat
  /-- Harmonic window in progress, and the last one that has completed and is not evaluated yet (R176). -/
  win : HarmWin
  done : Option HarmWin
  /-- The last window evaluated: twice the squares of the groups by channel and order, in mV² or mA² primary, over a denominator
  per channel; and its result for exchange table 1, NEW until it has been published (R176, R179). -/
  groups : List (List Nat)
  gDen : List Nat
  res : WinRow
  /-- Metering has stopped in a hold-up; the last SF: substituted, over range (R184, R186). -/
  stopped : Bool
  subst : Bool
  ovr : Bool
deriving DecidableEq, Repr

/-- Metrology (spec/07). -/
structure MetSt where
  outs : List MetOut
  feeds : List MetFeed
  rots : List RotSt
  /-- Snapshot requested; snapshot held (R186). -/
  snapPend : Bool
  snapHeld : Bool
  /-- Front ends that raised E:0x0605 in this SF (R166). -/
  told605 : List Nat
  /-- The last hold-up commit has been made (R184). -/
  finalDone : Bool
deriving DecidableEq, Repr

def RotSt.rest (n : Nat) : RotSt :=
  ⟨0, 0, 0, n, List.range n, List.replicate (n + 1) 0, List.replicate (n + 1) 0, 0, [], [], 0⟩
def MetOut.rest : MetOut :=
  ⟨0, 0, 2500, 1, 1, 2500, false, 0, 0, 0, 0, 0, 0, 0, 0, 0, false, false, false, false, 0, 0, 0, none, none, [], 0, 0, 0, false⟩
def MetFeed.rest : MetFeed :=
  ⟨0, 0, 0, 0, 0, 0, [], 0, List.replicate 8 0, List.replicate 8 0, List.replicate 8 0, 0, [], List.replicate 8 0, 0, HarmWin.rest, none
  , List.replicate 8 [], List.replicate 8 1, WinRow.rest, false, false, false⟩

/-- Metrology right after reset (log entry 7). -/
def MetSt.reset : MetSt where
  outs := List.replicate 8 MetOut.rest
  feeds := List.replicate 2 MetFeed.rest
  rots := List.replicate 8 (RotSt.rest 2) ++ List.replicate 2 (RotSt.rest 8)
  snapPend := false
  snapHeld := false
  told605 := []
  finalDone := false

/-- An entry of a load profile (spec/08 Table 8.4). -/
structure ProfEntry where
  time : Nat
  eImp : Nat
  eExp : Nat
  durMs : Nat
  flags : Nat
  rate : Nat
  clock : Nat
  gap : Nat
  read : Bool
deriving DecidableEq, Repr

/-- Legal registers of a channel beside its totals, which metrology holds (spec/08 R191, R195, R203): accumulators per rate
in 2^−32 µWh, demands in kW, the energies of the last subintervals in Wh, newest first, the totals at the opening of the
running one, its flags, the load profile, newest first, and the legal time of the last E:0x0717. -/
structure LegChan where
  rImp : List Nat
  rExp : List Nat
  cur : Nat
  max : Nat
  maxAt : Nat
  hist : List Nat
  openImp : Nat
  openExp : Nat
  flags : Nat
  prof : List ProfEntry
  told717 : Option Nat
deriving DecidableEq, Repr

/-- A member of a session record (spec/08 R205, R206): readings in Wh at its start and end, import per rate likewise. -/
structure LegMember where
  out : Nat
  session : Nat
  flags : Nat
  impS : Nat
  expS : Nat
  rateS : List Nat
  impE : Nat
  expE : Nat
  rateE : List Nat
  ended : Bool
  /-- Count value and clock state of its start and end readings (R213). -/
  tS : Nat
  clkS : Nat
  tE : Nat
  clkE : Nat
deriving DecidableEq, Repr

/-- A session segment in progress (spec/08 R205 to R209). -/
structure LegSess where
  session : Nat
  seg : Nat
  members : List LegMember
  flags : Nat
  tStart : Nat
  clkStart : Nat
  reason : Nat
  segEnd : Nat
  idType : Nat
  ident : List Byte
  /-- Credit limits by unit: 1 in 0.1 currency unit, 2 in Wh (R209); E:0x0711 raised. -/
  credit : List (Nat × Nat)
  told711 : Bool
  /-- Outputs, with their session numbers, that have joined and have no member block yet (R206); count value and clock state of the
  last end readings. -/
  joins : List (Nat × Nat)
  tEnd : Nat
  clkEnd : Nat
deriving DecidableEq, Repr

/-- A DMR record's content (spec/08 Table 8.6): a session segment, or for type 2 a snapshot of ten channels (import,
export, maximum demand, capture time); and the snapshot's registers per rate, import and export, which the profile of billing periods
keeps beside the signed record (R196). -/
structure DmrBody where
  type : Nat
  session : Nat
  seg : Nat
  flags : Nat
  tStart : Nat
  tEnd : Nat
  utcOfs : Int
  clkStart : Nat
  clkEnd : Nat
  eImp : Nat
  eExp : Nat
  reason : Nat
  segEnd : Nat
  idType : Nat
  ident : List Byte
  tver : Nat
  credit : Nat
  creditUnit : Nat
  fwLegal : Nat
  members : List LegMember
  rates : List (Nat × Nat)
  chans : List (Nat × Nat × Nat × Nat)
  rateRegs : List (List Nat × List Nat)
deriving DecidableEq, Repr

/-- A record in the store (spec/08 R210 to R213): its number, the signature section once signed, and how far it has come on
the DMR and the OCMF ring: 0 waiting, 1 handed to a buffer, 2 consumed. -/
structure LegRec where
  num : Nat
  body : DmrBody
  sig : Option (List Byte)
  failed : Bool
  dmr : Nat
  ocmf : Nat
deriving DecidableEq, Repr

/-- A token identifier in the replay window (spec/08 R216). -/
structure TokEnt where
  tid : Nat
  pending : Bool
deriving DecidableEq, Repr

/-- The legal part and the billing beside the registers of BAR0 index 0x07 (spec/08). -/
structure LegSt where
  chans : List LegChan
  /-- HWM, unset until the first commit with valid time, and MAXT (R198). -/
  hwm : Option Nat
  maxt : Nat
  /-- The running subinterval: opened, its legal time in ns, its flags common to all channels (R195, R204). -/
  subOpen : Bool
  subNs : Nat
  subFlags : Nat
  /-- Calendar in force, passive calendar with its activation in s UTC since 1958 and its version (R194). -/
  cal : Cal
  passive : Option (Cal × Nat × Nat)
  tver : Nat
  /-- Demand configuration that awaits the billing-period close: INT, n, BDAY (R195). -/
  demNew : Option (Nat × Nat × Nat)
  /-- The running billing period: flags, start and clock state at its start; the last 24 records, newest first (R196). -/
  pFlags : Nat
  pStart : Nat
  pClk : Nat
  periods : List DmrBody
  /-- Segments in progress, records, and the number of the next record. -/
  sessions : List LegSess
  store : List LegRec
  nextRec : Nat
  /-- Events of the log that the MC has looked at; count and clock state at the last commit. -/
  seen : Nat
  lastCount : Nat
  lastClk : Nat
  /-- Replay window of the tokens, and accepted tokens that wait for the next commit: TID, output, credit, unit (R216). -/
  window : List TokEnt
  tokWait : List (Nat × Nat × Nat × Nat)
  /-- The legal audit log, newest first (R221). -/
  audit : List Event
deriving DecidableEq, Repr

def LegChan.rest : LegChan := ⟨List.replicate 16 0, List.replicate 16 0, 0, 0, 0, [], 0, 0, 0, [], none⟩
def LegMember.rest : LegMember := ⟨0, 0, 0, 0, 0, [], 0, 0, [], false, 0, 0, 0, 0⟩

/-- The calendar of a module to which none has been written: rate 1 always (log entry 8). -/
def Cal.rest : Cal := ⟨[(1, 1, 0)], [[0, 0, 0, 0, 0, 0, 0]], [[(0, 1)]], [], 0, [], List.replicate 16 0⟩

/-- The legal part right after reset (log entry 8). -/
def LegSt.reset : LegSt where
  chans := List.replicate 10 LegChan.rest
  hwm := none
  maxt := 0
  subOpen := false
  subNs := 0
  subFlags := 0
  cal := Cal.rest
  passive := none
  tver := 0
  demNew := none
  pFlags := 0
  pStart := 0
  pClk := 0
  periods := []
  sessions := []
  store := []
  nextRec := 1
  seen := 0
  lastCount := 0
  lastClk := 0
  window := []
  tokWait := []
  audit := []

/-- A safety output pair beside its registers (spec/09 R226, spec/10 R271 to R274). -/
structure SoPair where
  /-- Commands of the two switches. -/
  hsc : Bool
  lsc : Bool
  /-- Failed switches: the state in which the switch is stuck. -/
  hsStuck : Option Bool
  lsStuck : Option Bool
  /-- Count at the last turn-on, and at the last turn-off (R272, R273). -/
  onAt : Nat
  offAt : Option Nat
  /-- A switch current limit has turned the pair off; held until a SERVICE reset (R274). -/
  held : Bool
deriving DecidableEq, Repr

/-- One safety input (spec/09 R228 to R233). -/
structure SinSt where
  /-- Channel levels, true = contact closed, and the levels that the Guard Logic has accepted. -/
  a : Bool
  b : Bool
  ga : Bool
  gb : Bool
  /-- Demand as the SC and as the Guard Logic see it. -/
  dem : Bool
  gdem : Bool
  /-- SF count at the first tick of the present disagreement (R230). -/
  disFrom : Option Nat
  /-- Discrepancy or test fault held; both channels have shown demand together, and then normal (R231). -/
  fault : Bool
  both : Bool
  cleared : Bool
  /-- E:0x0807 raised for the present demand. -/
  told : Bool
  /-- Legal time at which the present operation of a RESET input began (R229). -/
  opAt : Option Nat
  /-- Instant from which the channels that the Guard Logic has accepted disagree (R230). -/
  gdisAt : Option Nat
  /-- Channel levels as the SC has sampled them, a low level in a pulse window left out (R229, R232). -/
  sa : Bool
  sb : Bool
deriving DecidableEq, Repr

/-- The Safety Island's part of one output (spec/09 R234 to R244, R253). -/
structure IslOut where
  /-- Standing or last trip; functions whose latch stands; an unlatched trip that stands, 0 none. -/
  trip : Nat
  latched : List Nat
  unlatched : Nat
  weld : Bool
  /-- The pre-closure weld test: 0 none, 1 running, 2 passed (R240). -/
  weldTest : Nat
  /-- A post-opening check runs (R240). -/
  weldCheck : Bool
  /-- The insulation self-test, or a latent test, has failed (R242, R252). -/
  selfFail : Bool
  latFail : Bool
  /-- Insulation monitor: 0 off, 1 measuring, 2 good, 3 warning, 4 fault, 5 passive; R_F in 100 Ω; asymmetry in %. -/
  imd : Nat
  inj : Bool
  rf : Nat
  asym : Nat
  /-- Consecutive ticks: pilot outside its window, asymmetry above ASYM, pin above T_TRIP, path disagreement. -/
  pilotRun : Nat
  asymRun : Nat
  tempRun : Nat
  pathRun : Nat
  /-- Controlled stop in progress: its function, 0 none; stage 2 has come (R237). -/
  stopFn : Nat
  stage2 : Bool
  /-- SSTATE has left the set of R239 while the pair was on. -/
  leaving : Bool
  /-- SF count at the entry to TRANSFER (R243). -/
  xferAt : Option Nat
  /-- Latent tests: due, passed once since the start, and count at the last pass (R253). -/
  latDue : Bool
  latDone : Bool
  latAt : Nat
  /-- The overcurrent and the overvoltage comparator as the SC sampled them at the last tick (R223). -/
  oc : Bool
  ov : Bool
  /-- The insulation monitor's self-test of this CABLECHECK is still to come (Table 9.6). -/
  selfDue : Bool
deriving DecidableEq, Repr

/-- The Safety Island beside the mirror registers of BAR0 index 0x08 (spec/09). -/
structure IslSt where
  pairs : List SoPair
  sins : List SinSt
  outs : List IslOut
  /-- ISTATE: 0 starting, 1 unconfirmed, 2 armed, 3 degraded, 4 safe; the safe-state cause; the degraded cause. -/
  istate : Nat
  cause : Nat
  degc : Nat
  /-- Mode from which DEGRADED was entered; T_REM in ns (R247). -/
  degFrom : Nat
  tRem : Nat
  /-- A D1 or D2 cause stands: pairs with a failed switch are in `pairs`; the PD1 regulators; another monitored supply is lost. -/
  reg1 : Bool
  reg2 : Bool
  supBad : Bool
  /-- Thresholds of each output's comparators: OC_TRIP, OV_TRIP, ASYM and T_TRIP (R222). -/
  thr : List (Nat × Nat × Nat × Nat)
  /-- Rows of Table 9.8 with a module reaction that stand. -/
  faults : List Nat
  faultClass : Nat
  faultCount : Nat
  /-- The set in force is confirmed, its check value, and the architecture changes left. -/
  conf : Bool
  chk : Nat
  /-- Candidate: its image, its check value, and the stage: 0 none, 1 accepted, 2 confirmed by the host (R251). -/
  cand : List Byte
  candChk : Nat
  candStage : Nat
  /-- Ring and journal slot of the SAFETY_CONFIRM descriptor that waits for the local acknowledgement (spec/14 R350). -/
  confBy : Option (Nat × Nat)
  /-- An accepted reset runs the latent tests; it was a SERVICE reset (R248). -/
  resetting : Bool
  resetSvc : Bool
  /-- The permit is present; the safe-state cause that follows the controlled stop in progress, 0 none (R247, R252). -/
  permit : Bool
  afterStop : Nat
  /-- The Guard Logic's stop of the module (safe state) stands. -/
  safe : Bool
  /-- `TimeSt.life` when T_REM was last counted down (R247, spec/02 R35). -/
  degSeen : Nat
  /-- Overruns of the switch supervision that the GC has passed to the SC (spec/02 Table 2.2). -/
  swLate : Nat
  /-- Causes of R245 that have stood since DEGRADED was entered: a pair's number, 8 for the regulators. -/
  degIds : List Nat
  /-- SF count, plus 1, of the last pulse window of TSA and of TSB that has ended (R233). -/
  pulseOver : List Nat
deriving DecidableEq, Repr

def SoPair.off : SoPair := ⟨false, false, none, none, 0, none, false⟩
def SinSt.rest : SinSt := ⟨true, true, true, true, false, false, none, false, false, false, false, none, none, true, true⟩
def IslOut.rest : IslOut :=
  ⟨0, [], 0, false, 0, false, false, false, 0, false, 0xFFFFFF, 0, 0, 0, 0, 0, 0, false, false, none, false, false, 0, false, false, false⟩

/-- The Island right after reset: starting, every pair off (log entry 6). -/
def IslSt.reset : IslSt where
  pairs := List.replicate 8 SoPair.off
  sins := List.replicate 16 SinSt.rest
  outs := List.replicate 8 IslOut.rest
  istate := 0
  cause := 0
  degc := 0
  degFrom := 0
  tRem := 3600000000000
  reg1 := true
  reg2 := true
  supBad := false
  thr := List.replicate 8 (3300, 1300, 60, 100)
  faults := []
  faultClass := 0
  faultCount := 0
  conf := false
  chk := 0
  cand := []
  candChk := 0
  candStage := 0
  confBy := none
  resetting := false
  resetSvc := false
  permit := true
  afterStop := 0
  safe := false
  degSeen := 0
  swLate := 0
  degIds := []
  pulseOver := [0, 0]

/-- A PS channel beside its registers (spec/10 R259 to R267). -/
structure PsChan where
  /-- Commanded state; fail-safe state loaded into the switch logic. -/
  cmd : Bool
  fs : Nat
  /-- Wire model x in units of 10^−12 (R262). -/
  x : Nat
  /-- Its ramp is paused by the rail guard, by undervoltage. -/
  pauseG : Bool
  pauseU : Bool
  /-- Its next turn-on is an attempt: it has tripped and has not been on since; an attempt has been made since its retry count was last
  full (R264). -/
  tripped : Bool
  used : Bool
  /-- E:0x0903 raised in the present WAIT; E:0x0908 in the present on-period. -/
  told903 : Bool
  told908 : Bool
  /-- Instant since which its ramp is paused, and the length of the pauses of this turn-on in ns (R265). -/
  pauseAt : Option Nat
  pauseNs : Nat
  /-- Instant since which its current is below OPEN, outside ramp and inrush (R276). -/
  lowAt : Option Nat
deriving DecidableEq, Repr

/-- The switch logic (spec/10). -/
structure PsSt where
  chans : List PsChan
  /-- Consecutive valid refreshes while the fail-safe table is in force; E:0x0912 raised in this SF. -/
  good : Nat
  told912 : Bool
  /-- The frame of this SF has come, or its slot was lost; number of the last frame that the GC built, and the commanded states in
  it; sequence number of the last frame received, none since PD9's power-up (R260, R267, R268). -/
  sent : Bool
  txSeq : Nat
  txOn : Nat
  rxSeq : Option Nat
  /-- Instant at which each rail's guard last began to act (R265). -/
  guardAt : List Nat
  /-- Each rail: 0 in range, 1 below 16.0 V, 2 turned off below 12.0 V; instant of the next restored channel (R266). -/
  uv : List Nat
  restAt : List (Option Nat)
deriving DecidableEq, Repr

def PsChan.rest : PsChan := ⟨false, 0, 500000000000, false, false, false, false, false, false, none, 0, none⟩

/-- A region of a panel (spec/11 R279). -/
structure PnlRect where
  x : Nat
  y : Nat
  w : Nat
  h : Nat
deriving DecidableEq, Repr

/-- A waveform that a pixel runs (spec/11 R282, R286): mode 0 GREY16, 1 MONO, 2 CLEAR; band, next frame, levels; or a residue
pass (R288); the panel's reading at its start, and the region of the request (R284). -/
structure PixDrive where
  mode : Nat
  band : Nat
  frame : Nat
  src : Nat
  dst : Nat
  residue : Bool
  t0 : Option Int
  rect : PnlRect
deriving DecidableEq, Repr

/-- A pixel (spec/11 R285 to R288): its level, integral and waveform, the pending target with its mode and region, and whether it is
marked, runs a compensation pass, or lost its waveform to a rail fault. -/
structure Pix where
  level : Nat
  integral : Int
  drive : Option PixDrive
  pend : Option (Nat × Nat × PnlRect)
  mark : Bool
  comp : Bool
  broken : Bool
deriving DecidableEq, Repr

/-- A region update: rectangle, mode, target levels row by row (spec/11 R279). -/
structure PnlUpd where
  x : Nat
  y : Nat
  w : Nat
  h : Nat
  mode : Nat
  img : List Nat
deriving DecidableEq, Repr

/-- A panel beside its registers (spec/11). -/
structure Panel where
  /-- Roast table loaded; step of the rail power-up in progress, 0 none; pixels that are not at rest on white. -/
  tbl : List Byte
  step : Nat
  pix : List (Nat × Pix)
  queue : List PnlUpd
  /-- Temperature hold: 0 none, 1 cold, 2 hot, 3 sensor invalid (R283). -/
  hold : Nat
  /-- E:0x0A02 raised in this SF. -/
  told02 : Bool
  /-- Rails that are up, in the order VGL, VSL, VGH, VSH, VCOM; VCOM below ground in 10 mV, 0 off; the instant of the last step of a
  power-down (R281). -/
  up : Nat
  vcom : Nat
  downAt : Option Nat
  /-- A frame runs (R286, R288). -/
  run : Bool
  /-- Instants at which the current rail step and the current frame began (R281, R286). -/
  stepAt : Nat
  frameAt : Nat
deriving DecidableEq, Repr

/-- Instance that an event line names after the code (spec/11 R289, R9). -/
inductive Suffix where
  | none | out | cq | ce | bnd | feed | ps | lr | so | sin | pnl | kp | nr | nt | ml | ring | bank | slot | mem | cvu | sup | cap | tw
deriving DecidableEq, Repr

/-- An event line (spec/11 R289): UTC legal time in ms since 1958-01-01, a "?" for an uncertain one, the code, the suffix with its
number and, on a CE, the lane, and the data word. -/
structure EventLine where
  utcMs : Int
  unsure : Bool
  code : Nat
  suffix : Suffix
  num : Nat
  lane : Option Nat
  data : Nat
deriving DecidableEq, Repr

/-- What the PNL1 strip shows (spec/11 Table 11.5): module serial, mode name, clock state letter, VALID tick, UTC legal time to the
minute, the two check values in groups of four hex digits, the last capture, the last 8 events. -/
structure Strip where
  serial : Nat
  mode : String
  clk : Char
  valid : Bool
  utcMin : Int
  siChk : Nat × Nat
  legChk : Nat × Nat
  cap : Option Nat
  events : List EventLine
deriving DecidableEq, Repr

/-- A firmware bank on the identity page (spec/15 R381). -/
structure BankLine where
  version : Nat
  state : Nat
  svn : Nat
  trial : Bool
  arb : Nat
  fvk : Nat
deriving DecidableEq, Repr

/-- A CE on the engine page (spec/04 R108). -/
structure EngineLine where
  lawId : Nat
  static : Nat
  peak : Nat
  ovrRun : Nat
deriving DecidableEq, Repr

/-- An output on the output page (spec/05 R134, spec/06 R159): G and ILIM in A, f in %, the LIMBY letters, "K"; session state
abbreviation, pilot state letter, protocol, last end reason. -/
structure OutLine where
  g : Int
  ilim : Int
  f : Nat
  limby : String
  k : Bool
  sstate : String
  pilot : Char
  proto : Nat
  reason : Nat
deriving DecidableEq, Repr

/-- An output and a feed on the metrology page (spec/07 R187): V_SF, I_SF, P_SF, mode letter, "L", "C", rotation step; P, frequency,
THDV, TDD, h_f. -/
structure MetLine where
  v : Int
  i : Int
  p : Int
  mode : Char
  legacy : Bool
  calchk : Bool
  step : Nat
deriving DecidableEq, Repr
structure FeedLine where
  p : Int
  freq : Nat
  thdv : Nat
  tdd : Nat
  hf : Nat
deriving DecidableEq, Repr

/-- A reader port and a Mallas slave on their pages (spec/12 R312, spec/13 R326). -/
structure PortLine where
  state : Nat
  idLen : Nat
  prot : Nat
deriving DecidableEq, Repr
structure SlaveLine where
  state : Nat
  mode : Nat
  hops : Nat
  snr : Int
  miss : Nat
deriving DecidableEq, Repr

/-- The supplies, modes and twin page (spec/14 R354, spec/16 R398, spec/17 R428): the host interface's state, journal use and
epoch, link speed and width, the rings in RECOVER or ERROR; USED and COUNT of each memory and STATE of each check-value unit; the
logic inputs, store voltage, EUSE, HOLD, INDEX and STATUS of each capture slot, the twin's state and offset. -/
structure SupPage where
  hrState : Nat
  jused : Nat
  epoch : Nat
  speed : Nat
  width : Nat
  rings : List Nat
  mems : List (Nat × Nat)
  units : List Nat
  logicA : Nat
  logicB : Nat
  store : Nat
  euse : Nat
  hold : Bool
  caps : List (Nat × Nat)
  twin : Nat
  ofs : Int
deriving DecidableEq, Repr

/-- A page of PNL1 (spec/11 Table 11.6), each as its owning chapter states it, and the commissioning view (R290): the candidate
check value and "PRESS RESET". -/
inductive Page where
  | events (lines : List EventLine)
  | identity (serial hwrev legal upd : Nat) (legChk siChk : Nat × Nat) (banks : List BankLine)
  | time (clk : Char) (valid : Bool) (utcMs : Int)
  | links (lstate : List Char)
  | engines (ces : List EngineLine)
  | outputs (outs : List OutLine)
  | metrology (outs : List MetLine) (feeds : List FeedLine)
  | billing (rate : Nat) (suspend reenter : Bool) (pending cap : Nat) (legChk : Nat × Nat)
  | safety (istate arch : Nat) (chk : Nat × Nat) (remH remMin : Nat) (trips : List Nat) (sins : List Char)
  | switches (chans : List Char) (rails : List (Nat × Nat)) (pairs : List (Nat × Nat))
  | contactless (ports : List PortLine) (field : Bool) (fails head : Nat) (gap : Bool)
  | mallas (slaves : List SlaveLine) (errs : List Nat)
  | supplies (x : SupPage)
  | confirm (chk : Nat × Nat)
deriving DecidableEq, Repr

/-- A line of the legal field (spec/11 R291): output, session state, energy of the session and import total in Wh, rate, time
drawn, MONO updates since the last CLEAR. -/
structure LegalLine where
  out : Nat
  sstate : Nat
  energy : Nat
  total : Nat
  rate : Nat
  time : Nat
  monos : Nat
deriving DecidableEq, Repr

/-- What the GC's part of PNL0 shows: the prompt, the digits entered in groups of four (spec/11 R295), and the host's price text by output (spec/11 R291). -/
structure Pnl0Rest where
  msg : Nat × Nat
  digits : List (List Nat)
  prices : List (List Byte)
deriving DecidableEq, Repr

/-- Panels and keypad (spec/11). -/
structure PnlSt where
  panels : List Panel
  /-- Heater commands. -/
  heat : List Bool
  /-- Key FIFO, oldest first; two keys have read pressed and not all are released; digits entered; keys of the service page
  sequence. -/
  fifo : List Nat
  multi : Bool
  digits : List Nat
  stars : List Nat
  /-- What PNL0 prompts: 0 nothing, 1 LOCKED with minutes, 2 NO SESSION WAITING, 3 OUTPUT?, 4 TOKEN OK, 5 a refusal reason. -/
  msg : Nat × Nat
  strip : Option Strip
  /-- The page that PNL1 shows; the legal check value while the legal field shows it (R290, R291). -/
  page : Option Page
  chk : Option (Nat × Nat)
  /-- The four lines of the legal field (R291). -/
  lines : List LegalLine
  /-- Length of the event log and the mode when the strip was last drawn. -/
  drawn : Nat × Nat
  /-- Requests that a full queue refused, which the GC repeats in its next slot (R286); what the GC's part of PNL0 shows (R291). -/
  again : List (Nat × PnlUpd)
  rest : Option Pnl0Rest
  /-- E:0x0A0D raised for the absence that lasts; PD8 is on for one SF to read the panels (R278, R280). -/
  told0D : Bool
  wake : Bool
deriving DecidableEq, Repr

def Pix.rest : Pix := ⟨15, 0, none, none, false, false, false⟩
def Panel.off : Panel := ⟨[], 0, [], [], 0, false, 0, 0, none, false, 0, 0⟩
def LegalLine.rest : LegalLine := ⟨0, 0, 0, 0, 0, 0, 0⟩
def PnlSt.reset : PnlSt := ⟨[Panel.off, Panel.off], [false, false], [], false, [], [], (0, 0), none, none, none, List.replicate 4 LegalLine.rest, (0, 0), [], none, false, false⟩

/-- A reader port beside its registers (spec/12 R299 to R303). -/
structure NfcPort where
  /-- Identifier held for a session; the identifiers read and not ignored within the last 3 s, with their instants (R303). -/
  held : Option (List Byte)
  recent : List (List Byte × Nat)
  /-- Consecutive cycles with the antenna current outside its window (R301). -/
  badCycles : Nat
  /-- The card that the last poll selected, and the identifier last posted (R303). -/
  card : Option (List Byte)
  posted : Option (List Byte)
  /-- Cards of the last poll in the order in which anticollision found them (R302). -/
  found : List (List Byte)
deriving DecidableEq, Repr

/-- A shadow slot of the lid tag: target address, data, and whether the commit word stands (spec/12 Table 12.6). -/
structure TagShadow where
  addr : Nat
  data : List Byte
  committed : Bool
deriving DecidableEq, Repr

/-- The lid tag (spec/12 R304 to R310). -/
structure TagSt where
  /-- Memory below the shadow slots; shadow slots of the field's port and of the module's port; the commit counter. -/
  mem : List Host.Cell
  rf : Option TagShadow
  mod : Option TagShadow
  cnt : Nat
  /-- Service key in the configuration area. -/
  key : List Byte
  /-- Instant of the last start, which the identity record carries (Table 12.3). -/
  started : Nat
  /-- An external field powers the tag; an authenticated session; the RndT that waits for AUTH2; consecutive failures. -/
  field : Bool
  auth : Bool
  rndT : Option (List Byte)
  fails : Nat
  /-- What the GC has not yet read: sessions, failures, a third failure, shadows completed and discarded (R308, R310). -/
  newAuth : Nat
  newFail : Nat
  newThird : Bool
  fwd : Nat
  disc : Nat
  /-- The tag's last answer: status, where the answer has one, and data; none where it gave none. -/
  ans : Option (Option Nat × List Byte)
  /-- Mirror header: head index, record count, last sequence number, GAP (R305). -/
  head : Nat
  count : Nat
  lastSeq : Nat
  gap : Bool
  /-- Events of the log that the engine has looked at, those that wait for the port, E:0x0B17 raised in this SF. -/
  looked : Nat
  queue : List Nat
  told17 : Bool
  /-- Records left out of the mirror since the last E:0x0B17 (R305, R312). -/
  left : Nat
  /-- Mode of the last status snapshot; last mailbox SEQ executed and its result. -/
  snapMode : Nat
  seq : Nat
  result : Nat
deriving DecidableEq, Repr

def NfcPort.rest : NfcPort := ⟨none, [], 0, none, none, []⟩

/-- The lid tag right after reset: memory of zeros (log entry 21). -/
def TagSt.reset : TagSt where
  mem := []
  rf := none
  mod := none
  cnt := 0
  key := []
  started := 0
  field := false
  auth := false
  rndT := none
  fails := 0
  newAuth := 0
  newFail := 0
  newThird := false
  fwd := 0
  disc := 0
  ans := none
  head := 0
  count := 0
  lastSeq := 0
  gap := false
  looked := 0
  queue := []
  told17 := false
  left := 0
  snapMode := 0
  seq := 0
  result := 0

/-- A hop between two stations (0 the module): link SNR in 0.5 dB, mode, consecutive exchanges that would allow the faster mode
(spec/13 R320, R321). -/
structure MlHop where
  a : Nat
  b : Nat
  snr : Int
  mode : Nat
  up : Nat
deriving DecidableEq, Repr

/-- A slave beside its registers (spec/13 R316 to R321). -/
structure MlSlave where
  /-- Found by discovery: its next poll confirms its address. -/
  confirm : Bool
  /-- Repeaters of its route; E:0x0C09 raised for the present lack of one. -/
  route : List Nat
  noRoute : Bool
  /-- Data of its poll and of its last answer. -/
  poll : List Byte
  ans : List Byte
deriving DecidableEq, Repr

/-- The Mallas link beside the registers of BAR0 index 0x0C (spec/13). -/
structure MlSt where
  slaves : List MlSlave
  hops : List MlHop
  /-- Slaves still to be polled in this cycle; mode of the retry in progress; the cycle has run late. -/
  todo : List Nat
  retry : Option Nat
  late : Bool
  /-- Receive window announced for the answer of the exchange, and those of the discovery slots: begin and end (R318). -/
  win : Option (Nat × Nat)
  discWins : List (Nat × Nat)
  /-- Poll that waits to be sent, and the instant at which its exchange starts (R319, R323). -/
  next : Option (Nat × List Bool)
  sendAt : Nat
  /-- E:0x0C05 raised in this SF. -/
  told05 : Bool
  /-- Discovery slots still open (R316). -/
  slots : List Nat
  /-- Second of the last time frame; last frame sent: frame control and the bits of its payload; count and offset of the time frame, and
  the legal time at which the modem begins it (R323). -/
  lastSec : Option Nat
  frame : Option (Nat × List Bool)
  time : Option (Nat × Int × Nat)
deriving DecidableEq, Repr

def MlSlave.rest : MlSlave := ⟨false, [], false, [], []⟩
def MlSt.reset : MlSt := ⟨List.replicate 63 MlSlave.rest, [], [], none, false, none, [], none, 0, false, [], none, none, none⟩

/-- What a delivered completion keeps for the host until it is consumed (spec/14 R340). -/
inductive Held where
  | none
  | record (num : Nat) (ocmf : Bool)
  | cup (r : CupRecord)
  | events (first : Nat)
  | request (rid : Nat)
deriving DecidableEq, Repr

/-- A completion (spec/14 Table 14.5), with the bytes written into the buffer. -/
structure Compl where
  cidx : Nat
  didx : Nat
  tag : Nat
  status : Nat
  op : Nat
  cflags : Nat
  len : Nat
  result : Nat
  time : Nat
  data : List Byte
  irq : Bool
  held : Held
deriving DecidableEq, Repr

/-- A journal slot (spec/14 Table 14.8): the descriptor, the number under which its deadline is timed, the step (1 ACK, 2
START, 3 DONE), the completion, and whether the serving part's marker shows the operation applied (R342). -/
structure JSlot where
  d : Descr
  num : Nat
  step : Nat
  comp : Option Compl
  applied : Bool
  /-- Legal time of acknowledgement, which step 1 writes; the operation runs again after a start, so that it completes with REPLAY. -/
  ackAt : Nat
  again : Bool
  /-- Found unreadable at a start: the outcome is unknown (spec/14 R342). -/
  lost : Bool := false
deriving DecidableEq, Repr

/-- The status block that the module writes (spec/14 Table 14.7). -/
structure StatusBlk where
  ack : Nat
  cprod : Nat
  dtail : Nat
  state : Nat
  err : Nat
  epoch : Nat
deriving DecidableEq, Repr

/-- A ring beside its registers (spec/14). -/
structure RingSt where
  /-- Journal slots in index order; descriptors read that wait for the window or the journal (R337). -/
  slots : List JSlot
  waiting : List (Option Descr)
  /-- Last DB_TAIL value taken, the next CIDX, and the doorbells latched while HELD: DB_TAIL and DB_CHEAD (R346). -/
  dtail : Nat
  cidx : Nat
  latched : Option (Nat × List (Option Descr))
  latchedHead : Option Nat := none
  /-- Delivered completions not yet consumed, oldest first (R340). -/
  unread : List (Nat × Held)
  /-- Completions delivered since the last message, and the instant of the first of them; messages are sent through the vector
  (R341). -/
  unsig : Nat
  unsigAt : Nat
  /-- E:0x0D07 and E:0x0D08 raised in this SF. -/
  told07 : Bool
  told08 : Bool
  /-- DISABLE has been written (Table 14.14); RECOVER was entered at a start (R343). -/
  closing : Bool
  restart : Bool
  /-- Last completion entry, status block and data written to host memory. -/
  sent : Option Compl
  sblk : StatusBlk
deriving DecidableEq, Repr

/-- The ring engine beside the registers of BAR0 index 0x0D (spec/14). -/
structure HostSt where
  rings : List RingSt
  /-- Number of the next journal slot; the PCIe link is up; the engine is quiescent (R345). -/
  nextSlot : Nat
  linkUp : Bool
  quiet : Bool
  /-- The link went down with its supply or in a freeze, which is logged when it comes up again (R347). -/
  linkLost : Bool
  /-- MSI-X: masked, pending and the messages sent, by vector (R341). -/
  mask : List Bool
  pend : List Bool
  msgs : List Nat
  /-- MSI-X table: message address and data, by vector; vector, address and data of the last message (R328, R341). -/
  msix : List (Nat × Nat)
  lastMsg : Option (Nat × Nat × Nat)
  /-- Max read request size that the host has set: 0 128 B, 1 256 B, 2 512 B (Table 14.1). -/
  mrrs : Nat
  /-- Events of the log handed to each EVENT ring, by ring (R340). -/
  evSent : List Nat
  /-- The descriptor being served came in a role session opened while the time was not valid: events carry TIME_INVALID (spec/15
  R361). -/
  unsure : Bool
deriving DecidableEq, Repr

def RingSt.off : RingSt := ⟨[], [], 0, 0, none, none, [], 0, 0, false, false, false, false, none, ⟨0, 0, 0, 0, 0, 0⟩⟩

/-- The ring engine right after reset: link down, vectors masked (log entry 14). -/
def HostSt.reset : HostSt where
  rings := List.replicate 64 RingSt.off
  nextSlot := 0
  linkUp := false
  quiet := false
  linkLost := false
  mask := List.replicate 64 true
  pend := List.replicate 64 false
  msgs := List.replicate 64 0
  msix := List.replicate 64 (0, 0)
  lastMsg := none
  mrrs := 2
  evSent := List.replicate 64 0
  unsure := false

/-- A copy of a key in a slot (spec/15 R356, Table 15.2). -/
structure KeyCopy where
  alg : Nat
  key : List Byte
  mask : Nat
  pub : Bool
  imported : Bool
  ver : Nat
deriving DecidableEq, Repr

/-- A key slot: two copies, the selector, a flip that waits for the next SF tick, and the certificate chain (R356, R358,
R360). -/
structure KeySlot where
  a : KeyCopy
  b : KeyCopy
  selB : Bool
  flip : Bool
  /-- An SF tick has come since the new key was written. -/
  due : Bool
  chain : List Byte
deriving DecidableEq, Repr

/-- A role session (spec/15 R361, R362): role 1 OPERATOR, 2 SERVICE, 3 METROLOGY, 4 MAKER; flagged while it was opened with
time not valid. -/
structure RoleSess where
  handle : Nat
  role : Nat
  holder : Nat
  flagged : Bool
deriving DecidableEq, Repr

/-- A region entry of a container header (spec/15 Table 15.8): id, flags, bank offset, length, body offset in the container,
body length, first 12 bytes of the region's hash. -/
structure RegionEnt where
  id : Nat
  flags : Nat
  bankOff : Nat
  len : Nat
  bodyOff : Nat
  bodyLen : Nat
  hash : List Byte
deriving DecidableEq, Repr

/-- A bank header's fields (spec/15 Table 15.8). -/
structure BankHdr where
  kind : Nat
  fvk : Nat
  version : Nat
  svn : Nat
  baseHash : List Byte
  targetHash : List Byte
  legalHash : List Byte
  legalVer : Nat
  regions : List RegionEnt
  raw : List Byte
deriving DecidableEq, Repr

/-- A firmware bank: header and region contents by id (spec/15 R365). -/
structure Bank where
  hdr : BankHdr
  regions : List (Nat × List Byte)
deriving DecidableEq, Repr

/-- The key core beside the registers of BAR0 index 0x0E (spec/15). -/
structure KeySt where
  /-- Key slots by number; an unlisted slot is empty. -/
  slots : List (Nat × KeySlot)
  /-- Open role sessions, the next handle, outstanding nonces with the number that times each, the next number. -/
  roles : List RoleSess
  nextHandle : Nat
  nonces : List (Nat × List Byte)
  nextNonce : Nat
  /-- The two firmware banks (R365). -/
  banks : List Bank
  /-- Handle of the session that holds the bank lock (R372). -/
  lock : Option Nat
  /-- Update in progress: header, container bytes received from byte 4096 on; it came through the legal object (R374,
  R377). -/
  upd : Option BankHdr
  stream : List Byte
  legal : Bool
  /-- The activation pause: ring and journal slot of the ACTIVATE descriptor (R375). -/
  pause : Option (Nat × Nat)
  /-- A start that waits for the transfer flags, with its RCAUSE (R370, R377). -/
  deferred : Option Nat
  /-- A start has begun, with this RCAUSE, and MODULE_START has not yet completed it. -/
  begun : Option Nat
  /-- The module has no valid bank or no root key (R355, R368). -/
  noBank : Bool
  noRoot : Bool
  /-- Lid tag key to be written to the tag (R360). -/
  tagKeyDue : Bool
  /-- The fuses: the 256-bit secret, and the four firmware verification keys whose hash they hold; the root key in its register (R355). -/
  fuse : List Byte
  fvkFused : List Byte
  root : List Byte
deriving DecidableEq, Repr

def KeyCopy.empty : KeyCopy := ⟨0, [], 0, false, false, 0⟩
def KeySlot.empty : KeySlot := ⟨KeyCopy.empty, KeyCopy.empty, false, false, false, []⟩
def BankHdr.empty : BankHdr := ⟨0, 0, 0, 0, [], [], [], 0, [], []⟩
def Bank.empty : Bank := ⟨BankHdr.empty, []⟩

/-- The bank of a delivered module: release 1.0 of both parts (spec/01 Table 1.10; the build and the contents are the model's
choice, log entry 15). -/
def Bank.factory : Bank := ⟨{ BankHdr.empty with version := 0x01000000, legalVer := 0x01000000 }, []⟩

/-- The key core right after reset: empty slots, with their hash in the fuses, the factory bank and an empty one (log entries 15, 82). -/
def KeySt.reset : KeySt where
  slots := []
  roles := []
  nextHandle := 1
  nonces := []
  nextNonce := 1
  banks := [Bank.factory, Bank.empty]
  lock := none
  upd := none
  stream := []
  legal := false
  pause := none
  deferred := none
  begun := none
  noBank := false
  noRoot := false
  tagKeyDue := false
  fuse := List.replicate 32 0
  fvkFused := []
  root := []

/-- A memory with its controller and its scrub engine, beside its registers (spec/16 R386, R390, R392). -/
structure MemUnit where
  /-- The tile that the scrub engine reads next; it takes one port cycle in four; late already told in this pass. -/
  pos : Nat
  urgent : Bool
  late : Bool
  /-- Merge buffer, oldest first. -/
  buf : List MemWrite
  /-- Tiles that a spare serves. -/
  remap : List Nat
  /-- E:0x0F01 raised in this SF. -/
  told01 : Bool
  /-- Pass period that the GC has last set, in ns, 0 before it has (R392). -/
  pace : Nat
deriving DecidableEq, Repr

/-- Memory integrity beside the registers of BAR0 index 0x0F (spec/16). -/
structure MemSt where
  /-- 0 KC, 1 MC, 2 VC0, 3 VC1, 4 CE0, 5 CE1, 6 GC, 7 exchange area, 8 MRAM. -/
  mems : List MemUnit
  /-- Poisoned words by memory and word number. -/
  pois : List (Nat × Nat)
  /-- Words corrected, by memory and word number, with the count at the last correction (R390). -/
  fixed : List (Nat × Nat × Nat)
  /-- The KC's hard-fault list (R390). -/
  hard : List (Nat × Nat)
  /-- Last tile that a controller wrote: memory, tile, content. -/
  wrote : Option (Nat × Nat × MemTile)
  /-- Corrections read inside a compute window, which are written back after it: memory, word, tile, read-back fails (R383). -/
  back : List (Nat × Nat × MemTile × Bool)
  /-- Items held twice of which only the older copy can be read, with the content at that time (R388). -/
  oneCopy : List (Nat × List Nat)
deriving DecidableEq, Repr

def MemUnit.rest : MemUnit := ⟨0, false, false, [], [], false, 0⟩
def MemSt.reset : MemSt := ⟨List.replicate 9 MemUnit.rest, [], [], [], none, [], []⟩

/-- A capture slot's header (spec/17 Table 17.7), the BAR0 registers that its section 3 holds, and the state that the others do. -/
structure CapSlot where
  index : Nat
  time : Nat
  serial : Nat
  kind : Nat
  source : Nat
  status : Nat
  mode : Nat
  si : Nat
  sections : Nat
  bytes : Nat
  fwUpd : Nat
  fwLegal : Nat
  epoch : Nat
  regs : List (Nat × Word)
  /-- What the sections of the links, of the control engines with their cupping buffers, of the Island, of the ring engine and of
  the exchange area are read from (Table 17.6). -/
  links : List LinkSt
  ces : List CeSt
  isl : IslSt
  host : HostSt
  sh : ShareSt
deriving DecidableEq, Repr

/-- A safe freeze in progress (spec/17 R412, R413): its source, the mode and SI_STATUS at the request, and the instant (State.age) at which
its waits ended. -/
structure FrzReq where
  source : Nat
  mode : Nat
  si : Nat
  ready : Option Nat
deriving DecidableEq, Repr

/-- Modes, supplies and capture beside the registers of BAR0 index 0x10 (spec/17). -/
structure SysSt where
  /-- Change that waits for the transfer flags: 0 none, 2 STANDBY, 15 a start (R400). -/
  req : Nat
  /-- SF ticks since the store switch closed, outputs' currents at that instant in 0.1 A, the sequence of Table 17.3 is over. -/
  shed : Option Nat
  shedI : List Nat
  shedDone : Bool
  /-- SF at which the shedding last went on: one step of Table 17.3 per SF tick (R408). -/
  shedSf : Nat
  /-- The supply failed while the module was in FROZEN (R36). -/
  frozenLoss : Bool
  /-- CF ticks left of a bench step; a write of HOLD or STEP waits for its tick (R405). -/
  step : Option Nat
  /-- The freeze in progress; the capture in progress: its slot, none where no slot was free (R412, R416). -/
  frz : Option FrzReq
  capturing : Bool
  cap : Option Nat
  slots : List (Option CapSlot)
  /-- Captures since MANUFACTURE; what the capture port last returned. -/
  captures : Nat
  capOut : List Byte
  /-- The capture engine's test is due after a start, the store test likewise (R411, R420). -/
  capDue : Bool
  storeDue : Bool
  /-- The end-of-store warning came before the final commit (spec/07 R184). -/
  cut : Bool
  /-- The logs and trace archive in NOR flash, which the GC writes: its entries, oldest first (spec/01 R15). -/
  archive : List (List Byte)
deriving DecidableEq, Repr

/-- The twin beside its registers (spec/17 R421 to R425). -/
structure TwinSt where
  /-- A pairing record has come; its SRC_ID, safety check value and hash. -/
  paired : Bool
  src : Nat
  chk : Nat
  hash : Nat
  /-- Consecutive SFs without a mirror frame; a valid one has come in this SF; the last one; the last one sent. -/
  missed : Nat
  got : Bool
  last : Option Mirror
  sent : Option Mirror
  /-- Consecutive mirror frames with a clock offset above 1 µs (spec/01 R23). -/
  ofsRun : Nat
  /-- A commanded passing in progress on this module: 1 the holder gives the token at the next tick, 2 the standby takes it. -/
  passing : Nat
  /-- The pairing record of the SF: serial, SRC_ID, SI_CHK and TW_HASH (R421). -/
  record : Option (Nat × Nat × Nat × Nat)
deriving DecidableEq, Repr

def TwinSt.rest : TwinSt := ⟨false, 0, 0, 0, 0, false, none, none, 0, 0, none⟩
def SysSt.reset : SysSt where
  req := 0
  shed := none
  shedI := List.replicate 8 0
  shedDone := false
  shedSf := 0
  frozenLoss := false
  step := none
  frz := none
  capturing := false
  cap := none
  slots := [none, none, none, none]
  captures := 0
  capOut := []
  capDue := false
  storeDue := false
  cut := false
  archive := []

/-- The state of the module. -/
structure State where
  /-- Commands that wait, first in, first out. -/
  pending : List Instr
  /-- Registers of BAR0 by offset; an unlisted offset holds its reset value (`regReset`). -/
  regs : List (Nat × Word)
  /-- The events raised, newest first: the MRAM event log, ahead of it those that wait for PD2 (spec/00 R8, spec/01 R13). -/
  log : List Event
  /-- Durations that run, with the legal time each has counted, in ns (spec/02 R35). -/
  timers : List (Timer × Nat)
  /-- Value of the last register read or status the host was given. -/
  hostRead : Word
  /-- The model's own counter: which free value comes next. -/
  fresh : Nat
  /-- Global state (spec/01). -/
  glb : GlbSt
  /-- Clock and frames (spec/02). -/
  tim : TimeSt
  /-- The 48 Choquin links (spec/03). -/
  links : List LinkSt
  /-- What the links have in common (spec/03 R57). -/
  linkc : LinkCommon
  /-- CE0 and CE1 (spec/04). -/
  ces : List CeSt
  /-- Outputs, sharing, cooling and the exchange tables (spec/05, spec/01 R16). -/
  sh : ShareSt
  /-- The dialogue of each output (spec/06). -/
  veh : List Veh
  /-- What the dialogues have in common (spec/06). -/
  vehc : VehCommon
  /-- Metrology (spec/07). -/
  met : MetSt
  /-- Legal registers, tariffs, records and tokens (spec/08). -/
  leg : LegSt
  /-- The Safety Island (spec/09). -/
  isl : IslSt
  /-- The switch logic (spec/10). -/
  ps : PsSt
  /-- Panels and keypad (spec/11). -/
  pnl : PnlSt
  /-- Reader ports (spec/12). -/
  nfc : List NfcPort
  /-- The lid tag (spec/12). -/
  tag : TagSt
  /-- The Mallas link (spec/13). -/
  ml : MlSt
  /-- Rings, journal and MSI-X (spec/14). -/
  host : HostSt
  /-- Key slots, roles, banks and updates (spec/15). -/
  keys : KeySt
  /-- Memory integrity (spec/16). -/
  mem : MemSt
  /-- Modes, supplies and capture (spec/17). -/
  sys : SysSt
  /-- The twin (spec/17). -/
  twin : TwinSt
deriving DecidableEq, Repr

/-- The machine right after reset: every register at its reset value, mode BOOT, nothing pending. -/
def State.reset : State where
  pending := []
  regs := []
  log := []
  timers := []
  hostRead := 0
  fresh := 0
  glb := GlbSt.reset
  tim := TimeSt.reset
  links := List.replicate 48 LinkSt.off
  linkc := ⟨0, 0, false⟩
  ces := [CeSt.reset, CeSt.reset]
  sh := ShareSt.reset
  veh := List.replicate 8 Veh.idle
  vehc := ⟨1, 1, [], 0⟩
  met := MetSt.reset
  leg := LegSt.reset
  isl := IslSt.reset
  ps := ⟨List.replicate 24 PsChan.rest, 0, false, false, 0, 0, none, [0, 0, 0, 0], [0, 0, 0, 0], List.replicate 4 none⟩
  pnl := PnlSt.reset
  nfc := List.replicate 4 NfcPort.rest
  tag := TagSt.reset
  ml := MlSt.reset
  host := HostSt.reset
  keys := KeySt.reset
  mem := MemSt.reset
  sys := SysSt.reset
  twin := TwinSt.rest

end Sys2Proof.Machine
end

