-- ==== Sys2Proof/Machine/Ops.lean ====
section
/-!
DEFINITION. The named operations over the state that every chapter's meanings share: reading and writing registers and
their fields, raising an event, the timers of legal time, the module's mode, and the instances a variant has.
-/

namespace Sys2Proof.Machine

open Sys2Proof

/-! ### The register map -/

/-- The register table of a subject block (spec/00 Table 0.6). -/
def regSpecs : Nat → List RegSpec
  | 0x00 => regTable01 | 0x01 => regTable02 | 0x02 => regTable03 | 0x03 => regTable04
  | 0x04 => regTable05 | 0x05 => regTable06 | 0x06 => regTable07 | 0x07 => regTable08
  | 0x08 => regTable09 | 0x09 => regTable10 | 0x0A => regTable11 | 0x0B => regTable12
  | 0x0C => regTable13 | 0x0D => regTable14 | 0x0E => regTable15 | 0x0F => regTable16
  | 0x10 => regTable17 | _ => []

/-- The instance numbers of an offset within a register's instances, widest stride first. -/
def locate : Nat → List (Nat × Nat) → Option (List Nat)
  | d, [] => if d = 0 then some [] else none
  | d, (st, n) :: t => if d / st < n then (locate (d % st) t).map (d / st :: ·) else none

/-- The register at a BAR0 offset with its instance numbers; none at a reserved offset (spec/00 R5). -/
def findReg (off : Nat) : Option (RegSpec × List Nat) :=
  (regSpecs (off / 0x10000)).findSome? fun r =>
    if r.base ≤ off then (locate (off - r.base) r.dims).map fun is => (r, is) else none

/-- Reset value of a register as its table gives it, the fields that the tables give in words left at 0. -/
def tableReset (off : Nat) : Nat :=
  match findReg off with
  | none => 0
  | some (r, _) => r.fields.foldl (fun a f => a + f.reset * 2 ^ f.lsb) 0

/-- What the tables give in words (log entry 3): the variant and lifecycle of a delivered module, the default CE and
VC of spec/05 R447, the actions of spec/16 R396, spare tiles of the MRAM, and the limited counts as yet unused. -/
def wordReset (off : Nat) : Nat :=
  if off = 0x4 then 0x100
  else if off = 0x18 then 1
  else if off / 0x10000 = 4 then
    if 0x40200 ≤ off ∧ off < 0x40300 ∧ off % 0x40 = 0 then 0xC0000
    else if 0x40460 ≤ off ∧ off < 0x404C0 then 0x200 else 0
  else if off = R_MET_GCFG then 32
  else if off = R_LEG_COUNTS then 8
  else if off = R_SI_ARCH then 16
  else if off = R_KB_CNT then 0x4000
  else if off = R_KB_BANK_STAT 0 then 3
  else if off = R_KB_BANK_VER 0 ∨ off = R_KB_BANK_LEGAL 0 then 0x01000000
  else if off = R_MI_REMAP 8 then 112
  else if 0xF0420 ≤ off ∧ off < 0xF04E0 ∧ off % 0x20 = 0 then 0x40
  else 0

/-- Reset value of the register at a BAR0 offset. -/
def regReset (off : Nat) : Word := BitVec.ofNat 32 (tableReset off + wordReset off)

/-- The register word at a BAR0 offset. -/
def State.reg (s : State) (off : Nat) : Word := Sparse.get (regReset off) s.regs off

/-- The state with the register word at a BAR0 offset replaced. -/
def State.setReg (s : State) (off : Nat) (w : Word) : State :=
  { s with regs := Sparse.put (regReset off) off w s.regs }

/-- A field's value. -/
def State.fld (s : State) (f : Fld) : Nat := getBits (s.reg f.reg) f.msb f.lsb

/-- A field's value read as two's complement. -/
def State.fldS (s : State) (f : Fld) : Int := sext (f.msb + 1 - f.lsb) (s.fld f)

/-- A one-bit field. -/
def State.flag (s : State) (f : Fld) : Bool := s.fld f == 1

/-- Set a field, the value taken modulo the field's width. -/
def State.setFld (s : State) (f : Fld) (v : Nat) : State :=
  s.setReg f.reg (putBits (s.reg f.reg) f.msb f.lsb v)

/-- Set a field to a value saturated to its width. -/
def State.setSat (s : State) (f : Fld) (v : Nat) : State := s.setFld f (satU (f.msb + 1 - f.lsb) v)

/-- Set a field to a signed value saturated to its width. -/
def State.setFldS (s : State) (f : Fld) (v : Int) : State :=
  s.setFld f (enc (f.msb + 1 - f.lsb) (satS (f.msb + 1 - f.lsb) v))

/-- Set a one-bit field. -/
def State.setFlag (s : State) (f : Fld) (b : Bool) : State := s.setFld f (b2n b)

/-- Count one in a field that saturates. -/
def State.inc (s : State) (f : Fld) : State := s.setSat f (s.fld f + 1)

/-- Bit `k` of a pair of LO and HI registers that hold one bit per link. -/
def State.linkBit (s : State) (lo hi : Nat) (k : Nat) : Bool :=
  if k < 32 then bit (s.reg lo).toNat k else bit (s.reg hi).toNat (k - 32)

/-- Set bit `k` of such a pair. -/
def State.setLinkBit (s : State) (lo hi : Nat) (k : Nat) (b : Bool) : State :=
  if k < 32 then s.setReg lo (BitVec.ofNat 32 (setBit (s.reg lo).toNat k b))
  else s.setReg hi (BitVec.ofNat 32 (setBit (s.reg hi).toNat (k - 32) b))

/-! ### Control -/

/-- Apply `f` where `c` holds. -/
def State.iff (s : State) (c : Bool) (f : State → State) : State := if c then f s else s

/-- Apply `f` for each entry of a list, in order. -/
def State.each {α : Type} (s : State) (l : List α) (f : State → α → State) : State := l.foldl f s

/-! ### Instances -/

/-- Links fitted (spec/00 Table 0.1). -/
def State.nLinks (s : State) : Nat := if s.fld GLB_HWREV_VARIANT = 2 then 24 else 48

/-- Outputs fitted (spec/00 Table 0.1). -/
def State.nOuts (s : State) : Nat := if s.fld GLB_HWREV_VARIANT = 2 then 4 else 8

/-- The instances numbered below `n`. -/
def idx (n : Nat) : List Nat := List.range n

/-! ### Time and events -/

/-- Length of a CF in ns for a CF_SEL (spec/02 R28). -/
def cfNs : Nat → Nat
  | 0 => 1000 | 1 => 2000 | 2 => 5000 | _ => 10000

/-- CFs per SF for a CF_SEL (spec/02 Table 2.1). -/
def cfPerSf (sel : Nat) : Nat := 1000000 / cfNs sel

/-- Nanoseconds of the SF in progress, as far as ticks and accesses have shown them (spec/02 R33). -/
def State.inSf (s : State) : Nat := s.tim.cfIndex * cfNs s.tim.cfSel + s.tim.sub

/-- The count now, interpolated between SF ticks; a negative slew increment does not take it back (spec/02 R33). -/
def State.now (s : State) : Nat := max s.tim.floor (s.tim.count + s.inSf)

/-- The instant on the scale of durations, which no step moves (spec/02 R35). -/
def State.age (s : State) : Nat := s.tim.life + s.inSf

/-- A domain's rail is inside its window: a domain outside it counts as off (spec/01 R13). -/
def State.pdGood (s : State) (n : Nat) : Bool := bit (s.fld GLB_PD_STATE_ON) n && bit (s.fld GLB_PD_STATE_PGOOD) n

/-- An event with its legal time stamp; TIME_INVALID where the time is not valid, or the operation being served came in a session
opened under such a time (spec/15 R361); raised with PD2 off, it carries the number of that outage (spec/00 R8, spec/01 R13). -/
def State.newEvent (s : State) (code : Nat) (data : List Nat) : Event :=
  ⟨code, data, s.now, s.fldS TIME_UTC_UTC_OFS, !s.flag TIME_STATUS_VALID || s.host.unsure, if s.pdGood 2 then 0 else s.glb.outages + 1⟩

/-- Enter an event in the log with its legal time stamp (spec/00 R8). -/
def State.logEvent (s : State) (code : Nat) (data : List Nat) : State :=
  { s with log := s.newEvent code data :: s.log }

/-- The MRAM event log, newest first: without what an outage of PD2 still holds in the parts' queues (spec/01 R13, R14). -/
def State.logged (s : State) : List Event := s.log.dropWhile fun e => e.outage == s.glb.outages + 1

/-- Samples a cupping buffer holds (spec/04 R103). -/
def cupSize : Nat := 65536

/-- Buffer `b` of CE `c`. -/
def State.cup (s : State) (c b : Nat) : CupBuf := nth CupBuf.off (nth CeSt.reset s.ces c).cups b

/-- Change buffer `b` of CE `c`. -/
def State.updCup (s : State) (c b : Nat) (f : CupBuf → CupBuf) : State :=
  { s with ces := upd s.ces c fun e => { e with cups := upd e.cups b f } }

/-- The buffer takes triggers: it is armed, its pre-trigger samples are recorded (spec/04 R104, Table 4.26). -/
def State.cupOpen (s : State) (c b : Nat) : Bool :=
  s.fld (CUP_STAT_STATE c b) == 2

/-- The buffer has taken a sample in this CF, with its pre-trigger samples before it: a trigger in this CF has it as its trigger
sample, so that a group has one CF number (spec/04 R104). -/
def State.cupThisCf (s : State) (c b : Nat) : Bool :=
  match (s.cup c b).samples.head? with
  | some p => p.sf == s.tim.sfCount && p.cf == s.tim.cfIndex && decide (s.fld (CUP_PRE_PRE c b) < (s.cup c b).taken)
  | none => false

/-- Start the post-trigger recording of one buffer (spec/04 R104). -/
def State.cupStart (s : State) (c b : Nat) : State :=
  (s.setFld (CUP_STAT_STATE c b) 3).updCup c b fun u =>
    { u with postLeft := cupSize - s.fld (CUP_PRE_PRE c b) - b2n (s.cupThisCf c b) }

/-- All sixteen buffers. -/
def allCups : List (Nat × Nat) := (idx 2).flatMap fun c => (idx 8).map fun b => (c, b)

/-- The buffers a trigger of buffer (c, b) starts: itself and its group on either CE (spec/04 R104). -/
def State.cupGroup (s : State) (c b : Nat) : List (Nat × Nat) :=
  allCups.filter fun p => s.cupOpen p.1 p.2 &&
    (p == (c, b) || (s.fld (CUP_CFG_GRP c b) != 0 && s.fld (CUP_CFG_GRP p.1 p.2) == s.fld (CUP_CFG_GRP c b)))

/-- Raise an event: log it, and trigger the cupping buffers that wait for its code (KIND 4), whose own E:0x0320 may
trigger others; the depth is bounded by the number of buffers. -/
def State.eventN : Nat → State → Nat → List Nat → State
  | 0, s, code, data => s.logEvent code data
  | n + 1, s, code, data =>
    let s := s.logEvent code data
    let hit := allCups.filter fun p => s.cupOpen p.1 p.2 && s.fld (CUP_TRIG_KIND p.1 p.2) == 4
      && s.fld (CUP_TRIG_CODE p.1 p.2) == code
    s.each hit fun s p =>
      s.each (s.cupGroup p.1 p.2) fun s q => State.eventN n (s.cupStart q.1 q.2) 0x0320 [q.1, q.2]

/-- Raise an event (spec/00 R8). -/
def State.event (s : State) (code : Nat) (data : List Nat) : State := State.eventN 16 s code data

/-- Trigger a cupping buffer and its group (spec/04 R104). -/
def State.cupTrigger (s : State) (c b : Nat) : State :=
  if s.cupOpen c b then
    s.each (s.cupGroup c b) fun s q => (s.cupStart q.1 q.2).event 0x0320 [q.1, q.2]
  else s

/-! ### Timers of legal time (spec/02 R35) -/

/-- The timer runs. -/
def State.timing (s : State) (t : Timer) : Bool := s.timers.any fun p => p.1 == t

/-- Legal time the timer has counted, 0 where it does not run. -/
def State.elapsed (s : State) (t : Timer) : Nat :=
  match s.timers.find? fun p => p.1 == t with
  | some p => p.2
  | none => 0

/-- Stop the timer. -/
def State.stopTimer (s : State) (t : Timer) : State :=
  { s with timers := s.timers.filter fun p => !(p.1 == t) }

/-- Start the timer afresh. -/
def State.startTimer (s : State) (t : Timer) : State :=
  { s with timers := s.timers.filter (fun p => !(p.1 == t)) ++ [(t, 0)] }

/-- Let the timer run from a time already counted. -/
def State.setTimer (s : State) (t : Timer) (ns : Nat) : State :=
  { s with timers := s.timers.filter (fun p => !(p.1 == t)) ++ [(t, ns)] }

/-- The timer runs and has counted at least `ns`. -/
def State.due (s : State) (t : Timer) (ns : Nat) : Bool := s.timing t && decide (ns ≤ s.elapsed t)

/-- One millisecond and one second in ns. -/
def ms : Nat := 1000000
def sec : Nat := 1000000000

/-- Start and end of the compute window in ns after the CF tick (spec/03 Table 3.12). -/
def winStart (cfSel : Nat) (long : Bool) : Nat :=
  match cfSel with
  | 0 => 358 | 1 => 708 | 2 => if long then 2708 else 2208 | _ => 2708
def winEnd (cfSel : Nat) (long : Bool) : Nat :=
  match cfSel with
  | 0 => 658 | 1 => 1308 | 2 => if long then 3308 else 2808 | _ => 7308

/-- Nanoseconds until the next tick, from the last one: a CF, or what the SF has left after its last CF (spec/02 R28, R44). -/
def State.tickNs (s : State) : Nat :=
  let cf := cfNs s.tim.cfSel
  if (s.tim.cfIndex + 1) * cf < ms then cf else s.tim.sfLen - s.tim.cfIndex * cf

/-! ### Modes -/

/-- GLB_MODE.MODE: 0 BOOT, 1 COMMISSION, 2 STANDBY, 3 RUN, 4 DEGRADED, 5 SAFE, 6 FROZEN, 7 BENCH (spec/01 Table 1.13). -/
def State.mode (s : State) : Nat := s.fld GLB_MODE_MODE

/-- The module is in RUN or DEGRADED. -/
def State.running (s : State) : Bool := s.mode == 3 || s.mode == 4

/-- LK fields take writes: in COMMISSION and BENCH before configuration commit (spec/00 Table 0.3). -/
def State.unlocked (s : State) : Bool := (s.mode == 1 || s.mode == 7) && !s.flag GLB_CFG_COMMIT_COMMITTED

/-- State code of core `i` in GLB_CORE_STATE: 0 SC, 1 KC, 2 MC, 3 VC0, 4 VC1, 5 CE0, 6 CE1, 7 GC (spec/01 Table 1.15). -/
def coreFld (i : Nat) : Fld := ⟨R_GLB_CORE_STATE, 2 * i + 1, 2 * i⟩

/-- The core runs. -/
def State.coreRuns (s : State) (i : Nat) : Bool := s.fld (coreFld i) == 1

/-- A domain is commanded on. -/
def State.pdOn (s : State) (n : Nat) : Bool := bit (s.fld GLB_PD_STATE_ON) n

/-- The lifecycle locks every HV output out: BENCH-ONLY (spec/00 R3). -/
def State.hvLocked (s : State) : Bool := s.fld GLB_LIFECYCLE_STATE == 2

/-- The functional clocks run: the module is not in FROZEN, and PD0 has its supply (spec/17 R399, R412). -/
def State.clocked (s : State) : Bool := s.mode != 6 && s.pdOn 0

/-- The outcome of a command that needs those clocks: `t`, or no change without them. -/
def State.live (s t : State) : Host.Outcome State Fault Refusal := .next (if s.clocked then t else s)

/-- The outcome of a command that needs domain `pd` too: without its rail, no change (spec/01 R13). -/
def State.liveOn (s : State) (pd : Nat) (t : State) : Host.Outcome State Fault Refusal :=
  .next (if s.clocked && s.pdGood pd then t else s)

/-- The supply-warning hold (spec/17 R407). -/
def State.holding (s : State) : Bool := s.flag SUP_STAT_HOLD

/-- Draw the next free value. -/
def State.draw (s : State) : Nat × State := (Config.freeNat s.fresh, { s with fresh := s.fresh + 1 })

/-! ### Links, outputs and dialogues -/

/-- Link `n`. -/
def State.lk (s : State) (n : Nat) : LinkSt := nth LinkSt.off s.links n

/-- Change link `n`. -/
def State.updLk (s : State) (n : Nat) (f : LinkSt → LinkSt) : State := { s with links := upd s.links n f }

/-- Control engine `c`. -/
def State.ce (s : State) (c : Nat) : CeSt := nth CeSt.reset s.ces c

/-- Change control engine `c`. -/
def State.updCe (s : State) (c : Nat) (f : CeSt → CeSt) : State := { s with ces := upd s.ces c f }

/-- The dialogue of output `j`. -/
def State.vh (s : State) (j : Nat) : Veh := nth Veh.idle s.veh j

/-- Change the dialogue of output `j`. -/
def State.updVh (s : State) (j : Nat) (f : Veh → Veh) : State := { s with veh := upd s.veh j f }

/-- Metering of output `j` and of feed `f`. -/
def State.mo (s : State) (j : Nat) : MetOut := nth MetOut.rest s.met.outs j
def State.mf (s : State) (f : Nat) : MetFeed := nth MetFeed.rest s.met.feeds f

/-- One Wh in accumulator units of 2^−32 µWh (spec/08 R191). -/
def unitWh : Nat := 10 ^ 6 * 2 ^ 32

/-- Totals of a metering channel, 0 to 7 outputs, 8 and 9 feeds, in accumulator units, and their readings in Wh. -/
def State.totImp (s : State) (c : Nat) : Nat := if c < 8 then (s.mo c).imp else (s.mf (c - 8)).imp
def State.totExp (s : State) (c : Nat) : Nat := if c < 8 then (s.mo c).exp else (s.mf (c - 8)).exp
def State.whImp (s : State) (c : Nat) : Nat := s.totImp c / unitWh
def State.whExp (s : State) (c : Nat) : Nat := s.totExp c / unitWh

/-- Session state of output `j` (spec/06 Table 6.7). -/
def State.sstate (s : State) (j : Nat) : Nat := s.fld (VD_STAT_SSTATE j)

/-- Transfer flag of a session state (spec/06 Table 6.7). -/
def xferOf (st : Nat) : Bool := st == 5 || st == 6 || st == 7

/-- Transfer flag of output `j`. -/
def State.xfer (s : State) (j : Nat) : Bool := xferOf (s.sstate j)

/-- CE and VC that serve output `j` (spec/05 R447). -/
def State.outCe (s : State) (j : Nat) : Nat := s.fld (OUT_CFG_CE j)
def State.outVc (s : State) (j : Nat) : Nat := s.fld (OUT_CFG_VC j)

/-- CE that holds the lane of link `n`. -/
def State.linkCe (s : State) (n : Nat) : Nat := s.fld (MX_WIRE_CE n)

/-- Lane number 0 to 3 of output `j` on its CE, if it has one (spec/04 R76). -/
def State.outLane (s : State) (j : Nat) : Option Nat :=
  let l := (s.ce (s.outCe j)).laneOut
  if l.contains (some j) then some (l.idxOf (some j)) else none

/-- Lane number 0 to 23 of link `n` on its CE, if it has one (spec/04 R76). -/
def State.linkLane (s : State) (n : Nat) : Option Nat :=
  let l := (s.ce (s.linkCe n)).laneLink
  if l.contains (some n) then some (l.idxOf (some n)) else none

/-- The SC clamp of output `j` in 0.1 A (spec/04 Table 4.20). -/
def State.clamp (s : State) (j : Nat) : Nat :=
  match s.outLane j with
  | some l => s.fld (CE_CLAMP_ILIM (s.outCe j) l)
  | none => 0

/-! ### Safety Island -/

/-- Change the Island's part that no register holds. -/
def State.updIsl (s : State) (f : IslSt → IslSt) : State := { s with isl := f s.isl }

/-- A fault of Table 9.8 is detected: SI_FAULT shows its class (R252). -/
def State.faultSeen (s : State) (row : Nat) : State :=
  s.updIsl fun i => { i with faultClass := row, faultCount := min 65535 (i.faultCount + 1) }

/-- SO pair `k`, safety input `i` and the Island's part of output `j`. -/
def State.so (s : State) (k : Nat) : SoPair := nth SoPair.off s.isl.pairs k
def State.sin (s : State) (i : Nat) : SinSt := nth SinSt.rest s.isl.sins i
def State.io (s : State) (j : Nat) : IslOut := nth IslOut.rest s.isl.outs j

/-- Change one of them. -/
def State.updSo (s : State) (k : Nat) (f : SoPair → SoPair) : State :=
  s.updIsl fun i => { i with pairs := upd i.pairs k f }
def State.updSin (s : State) (n : Nat) (f : SinSt → SinSt) : State :=
  s.updIsl fun i => { i with sins := upd i.sins n f }
def State.updIo (s : State) (j : Nat) (f : IslOut → IslOut) : State :=
  s.updIsl fun i => { i with outs := upd i.outs j f }

/-- SO pair of output `j` in the set in force (spec/09 Table 9.10). -/
def State.pairOf (s : State) (j : Nat) : Option Nat :=
  if s.fld (SP_OUT_0_PAIR j) < 8 then some (s.fld (SP_OUT_0_PAIR j)) else none

/-- What a switch reads: its command, or the state in which it is stuck (spec/10 R271). -/
def SoPair.hs (p : SoPair) : Bool := p.hsStuck.getD p.hsc
def SoPair.ls (p : SoPair) : Bool := p.lsStuck.getD p.lsc

/-- A contactor is energised only while both switches conduct (spec/09 R226). -/
def SoPair.on (p : SoPair) : Bool := p.hs && p.ls

/-- Output `j` is energised: its SO pair reads on in both switches. -/
def State.pairReads (s : State) (j : Nat) : Bool :=
  match s.pairOf j with
  | some k => (s.so k).on
  | none => false

/-- The output's pair is commanded on. -/
def State.pairCmd (s : State) (j : Nat) : Bool :=
  match s.pairOf j with
  | some k => (s.so k).hsc
  | none => false

/-- Output that a pair serves in the set in force. -/
def State.outOfPair (s : State) (k : Nat) : Option Nat := (idx 8).find? fun j => s.pairOf j == some k

/-! ### Modes, capture and the twin -/

/-- Change the part of the modes and supplies, or of the twin, that no register holds. -/
def State.updSys (s : State) (f : SysSt → SysSt) : State := { s with sys := f s.sys }
def State.updTwin (s : State) (f : TwinSt → TwinSt) : State := { s with twin := f s.twin }

/-- The pair is in MISMATCH (spec/17 R421). -/
def State.twinBad (s : State) : Bool :=
  s.flag CQ_GCFG_TWIN_EN && s.twin.paired &&
    (s.twin.src == s.fld CQ_GCFG_SRC_ID || s.twin.chk != s.isl.chk || s.twin.hash != s.fld TW_HASH_HASH)

/-- The holder announces that the token will pass (spec/17 R424). -/
def State.twinAnnounce (s : State) : State :=
  if s.flag CQ_GCFG_TWIN_EN && s.flag CQ_GCFG_TOK && !s.twinBad && s.twin.passing == 0 then
    s.updTwin fun t => { t with passing := 1 }
  else s

/-- A freeze request is ignored: FROZEN, hold-up, or no capture slot free (spec/17 R412). -/
def State.frzBlocked (s : State) : Bool := s.mode == 6 || s.sys.shed.isSome || s.fld FRZ_CTRL_PROT == 15

/-- A freeze is requested by a source (spec/17 R412), with the mode and SI_STATUS at the request. -/
def State.frzMark (s : State) (src mode si : Nat) : State :=
  if s.frzBlocked then s.event 0x100F [src]
  else
    let s := s.event 0x100B [src]
    if s.sys.frz.isSome then s
    else ((s.updSys fun x => { x with frz := some ⟨src, mode, si, none⟩ }).startTimer .freeze).twinAnnounce

/-- The cause of a safe state requests a freeze where FRZ_CFG.AUTO names its group (spec/17 R412, Table 17.11). -/
def State.frzAuto (s : State) (cause mode si : Nat) : State :=
  let k := if cause = 0xC0 then 2 else if 0x81 ≤ cause ∧ cause ≤ 0x8B then 1 else if 1 ≤ cause ∧ cause < 0x80 then 0 else 4
  if bit (s.fld FRZ_CFG_AUTO) k then s.frzMark 2 mode si else s

end Sys2Proof.Machine
end

