-- ==== Sys2Proof/Machine/Flags.lean ====
section
/-!
DEFINITION. The rounding and the saturation of the control engines, with the flags they set (spec/04 R83 to R85).
-/

namespace Sys2Proof.Machine

/-- `n / d` rounded to nearest with ties to even, for `d > 0` (R83). -/
def rneDiv (n d : Int) : Int :=
  let q := n / d
  let r := n - q * d
  if 2 * r < d then q else if d < 2 * r then q + 1 else if q % 2 = 0 then q else q + 1

/-- `x × 2^k` for a signed `k`, rounded to nearest with ties to even (R83). -/
def scale (x : Int) (k : Int) : Int :=
  if 0 ≤ k then x * (2 : Int) ^ k.toNat else rneDiv x ((2 : Int) ^ (-k).toNat)

/-- Limits of a mantissa and of an accumulator lane. -/
def mantMax : Int := 2 ^ 23 - 1
def mantMin : Int := -(2 ^ 23)
def accMax : Int := 2 ^ 55 - 1
def accMin : Int := -(2 ^ 55)

/-- A lane value with its saturation flag. -/
structure Lane where
  v : Int
  sat : Bool
deriving DecidableEq, Repr

/-- A value held inside an accumulator lane, with the saturation flag (R84). -/
def satAcc (x : Int) : Lane := ⟨clampI accMin accMax x, decide (x < accMin ∨ accMax < x)⟩

/-- A value held inside a mantissa, with the saturation flag (R85). -/
def satMant (x : Int) : Lane := ⟨clampI mantMin mantMax x, decide (x < mantMin ∨ mantMax < x)⟩

/-- A term with exponent `et` aligned to `ea`: shifted right with rounding, a shift beyond 56 giving 0, or shifted left
with saturation (R84). -/
def alignTo (ea et t : Int) : Lane :=
  if et ≤ ea then (if 56 < ea - et then ⟨0, false⟩ else ⟨scale t (et - ea), false⟩) else satAcc (scale t (et - ea))

/-- An accumulator value in the units of a stage with exponent `e`, before saturation (R85). -/
def toStage (e ea q : Int) : Int := scale q (ea - e - 23)

/-- The exponent fits the lane: after rounding it lies between −2^e and 2^e × (1 − 2^−23) (R85). -/
def fitsExp (e ea q : Int) : Bool := decide (mantMin ≤ toStage e ea q ∧ toStage e ea q ≤ mantMax)

/-- The smallest exponent that fits a lane that is not 0 (R85). -/
def laneExp (ea q : Int) : Int :=
  let g := ea - 46 + (Nat.log2 q.natAbs : Int)
  if fitsExp g ea q then g else if fitsExp (g + 1) ea q then g + 1 else g + 2

/-- Lanes 0 to 31. -/
def lanes : List Nat := List.range 32

/-- Lane `k` is in mask `m`. -/
def inMask (m : Word) (k : Nat) : Bool := m.getLsbD k

/-- The lane mask of the flags set in a list of lanes. -/
def satMask (l : List Lane) : Nat :=
  (lanes.zip l).foldl (fun a p => if p.2.sat then a + 2 ^ p.1 else a) 0

/-- The mask of the lanes that satisfy `p`. -/
def maskOf (p : Nat → Bool) : Word := BitVec.ofNat 32 (lanes.foldl (fun a k => if p k then a + 2 ^ k else a) 0)

/-- Values of a list of lanes. -/
def laneVals (l : List Lane) : List Int := l.map (·.v)

end Sys2Proof.Machine
end

