-- ==== Sys2Proof/Machine/Operands.lean ====
section
/-!
DEFINITION. Operand forms of the control engines' instructions (spec/04 R80, Table 4.2, Table 4.5).
-/

namespace Sys2Proof.Machine

open Sys2Proof

/-- A field marked acc names A0 to A3. -/
def isAcc (n : BitVec 7) : Bool := decide (0x34 ≤ n.toNat ∧ n.toNat ≤ 0x37)

/-- A field that names a stage to read: a law, input or output stage, DN3 or a coefficient vector. -/
def isSrc (n : BitVec 7) : Bool := decide (n.toNat ≤ 0x33 ∨ 0x40 ≤ n.toNat)

/-- A field marked stage names a law stage or an output stage. -/
def isDst (n : BitVec 7) : Bool := decide (n.toNat ≤ 0x1F ∨ (0x30 ≤ n.toNat ∧ n.toNat ≤ 0x32))

/-- A field marked mask where it is read, and where it is written. -/
def isMask (n : BitVec 7) : Bool := decide (n.toNat ≤ 7)
def isMaskW (n : BitVec 7) : Bool := decide (4 ≤ n.toNat ∧ n.toNat ≤ 7)

/-- A field that selects group map 1 or 2. -/
def isMap (n : BitVec 7) : Bool := decide (n.toNat ≤ 1)

/-- The stage that an operand number reads, in a context of engine `c`; DN3 and what is no stage read 0. -/
def readStage (c : CeSt) (w : CeCtx) (n : BitVec 7) : Stage :=
  let n := n.toNat
  if n < 0x20 then nth Stage.zero w.st n
  else if n < 0x30 then nth Stage.zero c.inp (n - 0x20)
  else if n < 0x33 then nth Stage.zero w.dn (n - 0x30)
  else if 0x40 ≤ n then nth Stage.zero c.cv (n - 0x40)
  else Stage.zero

/-- Accumulator named by a field. -/
def readAcc (w : CeCtx) (n : BitVec 7) : Acc := nth ⟨0, []⟩ w.acc (n.toNat - 0x34)

/-- Mask named by a mask field or by K. -/
def readMask (w : CeCtx) (n : Nat) : Word := nth 0 w.k n

/-- Lane `k` of a stage and of an accumulator. -/
def Stage.lane (s : Stage) (k : Nat) : Int := nth 0 s.m k
def Acc.lane (a : Acc) (k : Nat) : Int := nth 0 a.q k

/-- Write an accumulator, a law or output stage, a mask. -/
def writeAcc (w : CeCtx) (n : BitVec 7) (a : Acc) : CeCtx := { w with acc := w.acc.set (n.toNat - 0x34) a }
def writeStage (w : CeCtx) (n : BitVec 7) (t : Stage) : CeCtx :=
  if n.toNat < 0x20 then { w with st := w.st.set n.toNat t } else { w with dn := w.dn.set (n.toNat - 0x30) t }
def writeMask (w : CeCtx) (n : BitVec 7) (m : Word) : CeCtx := { w with k := w.k.set n.toNat m }

/-- A seven-bit immediate, signed (Table 4.5). -/
def imm7 (n : BitVec 7) : Int := sext 7 n.toNat

/-- The group map that a map field names: for each lane its target lane, if any (R77). -/
def groupMap (c : CeSt) (n : BitVec 7) : Nat → Option Nat := fun k =>
  if n.toNat = 0 then (if k < 24 then nth none c.map1 k else none)
  else (if 24 ≤ k ∧ k < 28 then nth none c.map2 (k - 24) else none)

/-- The target lanes of a group map: output lanes of map 1, bundle lanes of map 2 (R77). -/
def isTarget (n : BitVec 7) (k : Nat) : Bool :=
  if n.toNat = 0 then decide (24 ≤ k ∧ k < 28) else decide (28 ≤ k ∧ k < 32)

/-- The operands an opcode may take (Table 4.5), as R87 checks them at load: a word's opcode, D, A, B and K. -/
def legalOperands (op : Nat) (d a b : BitVec 7) (k : BitVec 3) : Bool :=
  let z (n : BitVec 7) : Bool := n == 0
  match op with
  | 0x00 | 0x01 => z d && z a && z b && k == 0
  | 0x08 | 0x09 | 0x0A | 0x10 | 0x11 | 0x16 | 0x18 => isAcc d && isSrc a && z b
  | 0x0B | 0x0C | 0x0D | 0x12 => isAcc d && isSrc a && isSrc b
  | 0x0E | 0x15 => isAcc d && z a
  | 0x13 | 0x14 => isAcc d && z a && z b
  | 0x19 | 0x1A | 0x1B => isAcc d && isSrc a && isMap b
  | 0x20 | 0x21 => isDst d && isAcc a && z b
  | 0x22 => isDst d && isSrc a && z b && k == 0
  | 0x28 | 0x29 => isMaskW d && isSrc a && isSrc b
  | 0x2A | 0x2B => isMaskW d && isMask a && isMask b
  | 0x2C => isMaskW d && isMask a && z b
  | 0x30 => z d && isMask a && decide (1 ≤ b.toNat) && k == 0
  | 0x31 => z d && z a && decide (b.toNat ≤ 7) && k == 0
  | _ => false

/-- Cycles of an opcode (Table 4.5); none where the opcode is reserved. -/
def opCycles : Nat → Option Nat
  | 0x00 | 0x01 | 0x08 | 0x09 | 0x0A | 0x0B | 0x0C | 0x0D | 0x0E => some 1
  | 0x10 | 0x11 | 0x13 | 0x14 | 0x15 | 0x18 => some 1
  | 0x12 | 0x1B | 0x20 => some 2
  | 0x16 => some 8
  | 0x19 | 0x1A => some 4
  | 0x21 => some 3
  | 0x22 | 0x28 | 0x29 | 0x2A | 0x2B | 0x2C | 0x30 | 0x31 => some 1
  | _ => none

end Sys2Proof.Machine
end

