-- ==== Sys2Proof/Machine/CeAlu.lean ====
section
/-!
DEFINITION. The instructions of the control engines (spec/04 R86, Table 4.5): each as a function of the engine and of
the context its program writes, and as the command that runs it.
-/

namespace Sys2Proof.Machine

open Sys2Proof

/-- What one instruction does to its context, with the mask of lanes that saturated. -/
abbrev CeEffect := CeSt → CeCtx → CeCtx × Nat

/-- EA held between its limits (R79). -/
def clampEa (e : Int) : Int := clampI (-256) 255 e

/-- Set accumulator `d` at exponent `ea`: lanes in the mask take `f`, given at exponent `ef`; the others keep their
values, re-expressed at the new EA (R79, R84, R86). -/
def accAt (w : CeCtx) (d : BitVec 7) (k : BitVec 3) (ef : Int) (f : Nat → Int) : CeCtx × Nat :=
  let m := readMask w k.toNat
  let old := readAcc w d
  let ea := clampEa ef
  let ls := lanes.map fun i => if inMask m i then
      (let t := alignTo ea ef (f i); if t.sat then t else satAcc t.v)
    else alignTo ea old.ea (old.lane i)
  (writeAcc w d ⟨ea, laneVals ls⟩, satMask ls)

/-- Change accumulator `d` at its own exponent on the lanes of the mask. -/
def accOn (w : CeCtx) (d : BitVec 7) (k : BitVec 3) (f : Acc → Nat → Lane) : CeCtx × Nat :=
  let m := readMask w k.toNat
  let old := readAcc w d
  let ls := lanes.map fun i => if inMask m i then f old i else ⟨old.lane i, false⟩
  (writeAcc w d ⟨old.ea, laneVals ls⟩, satMask ls)

/-- A stage lane as an accumulator value at the stage's exponent. -/
def srcQ (t : Stage) (i : Nat) : Int := t.lane i * 2 ^ 23

/-- Add `sign` times an aligned term to a lane. -/
def addTerm (sign : Int) (old : Acc) (i : Nat) (et t : Int) : Lane :=
  let al := alignTo old.ea et t
  let r := satAcc (old.lane i + sign * al.v)
  ⟨r.v, r.sat || al.sat⟩

def ceLda (d a : BitVec 7) (k : BitVec 3) : CeEffect := fun c w =>
  let t := readStage c w a
  accAt w d k t.e (srcQ t)

def ceAdd (sign : Int) (d a : BitVec 7) (k : BitVec 3) : CeEffect := fun c w =>
  let t := readStage c w a
  accOn w d k fun old i => addTerm sign old i t.e (srcQ t i)

def ceMul (d a b : BitVec 7) (k : BitVec 3) : CeEffect := fun c w =>
  let x := readStage c w a
  let y := readStage c w b
  accAt w d k (x.e + y.e) fun i => x.lane i * y.lane i

def ceMac (sign : Int) (d a b : BitVec 7) (k : BitVec 3) : CeEffect := fun c w =>
  let x := readStage c w a
  let y := readStage c w b
  accOn w d k fun old i => addTerm sign old i (x.e + y.e) (x.lane i * y.lane i)

def ceZra (d b : BitVec 7) (k : BitVec 3) : CeEffect := fun _ w => accAt w d k (imm7 b) fun _ => 0

def ceMinMax (f : Int → Int → Int) (d a : BitVec 7) (k : BitVec 3) : CeEffect := fun c w =>
  let t := readStage c w a
  accOn w d k fun old i =>
    let al := alignTo old.ea t.e (srcQ t i)
    ⟨f (old.lane i) al.v, al.sat⟩

def ceClp (d a b : BitVec 7) (k : BitVec 3) : CeEffect := fun c w =>
  let lo := readStage c w a
  let hi := readStage c w b
  accOn w d k fun old i =>
    let l := alignTo old.ea lo.e (srcQ lo i)
    let h := alignTo old.ea hi.e (srcQ hi i)
    ⟨max l.v (min (old.lane i) h.v), l.sat || h.sat⟩

def ceAbs (d : BitVec 7) (k : BitVec 3) : CeEffect := fun _ w =>
  accOn w d k fun old i => satAcc (old.lane i).natAbs

def ceNeg (d : BitVec 7) (k : BitVec 3) : CeEffect := fun _ w =>
  accOn w d k fun old i => satAcc (-(old.lane i))

def ceExa (d b : BitVec 7) (k : BitVec 3) : CeEffect := fun _ w =>
  let old := readAcc w d
  accAt w d k (old.ea + imm7 b) old.lane

/-- Reciprocal: EA = 15 − E, q = round(2^54 / m), the largest value with a flag for m = 0. -/
def ceRcp (d a : BitVec 7) (k : BitVec 3) : CeEffect := fun c w =>
  let t := readStage c w a
  let q (i : Nat) : Int :=
    let m := t.lane i
    if m = 0 then accMax else if m < 0 then -(rneDiv (2 ^ 54) (-m)) else rneDiv (2 ^ 54) m
  let r := accAt w d k (15 - t.e) q
  let z := lanes.foldl (fun x i => if inMask (readMask w k.toNat) i && t.lane i == 0 && !bit r.2 i then x + 2 ^ i else x) 0
  (r.1, r.2 + z)

def ceSel (d a : BitVec 7) (k : BitVec 3) : CeEffect := fun c w =>
  let t := readStage c w a
  accOn w d k fun old i => alignTo old.ea t.e (srcQ t i)

/-- Members of target lane `g` in a group map. -/
def membersOf (mp : Nat → Option Nat) (g : Nat) : List Nat := lanes.filter fun i => mp i == some g

/-- Reduction over the groups of a map: target lanes take `f` of their members' values, 0 without members; other lanes
take 0. -/
def ceReduce (f : List Int → Int) (d a b : BitVec 7) (k : BitVec 3) : CeEffect := fun c w =>
  let t := readStage c w a
  let mp := groupMap c b
  accAt w d k t.e fun i => if isTarget b i then f ((membersOf mp i).map (srcQ t)) else 0

/-- Sum and greatest of a list, 0 for none. -/
def sumL (l : List Int) : Int := l.foldl (· + ·) 0
def maxL : List Int → Int
  | [] => 0
  | x :: t => t.foldl max x

/-- Members take their target lane's value; a target lane that is assigned and fitted takes its own, and a lane in no group 0
(R77). -/
def ceSprd (d a b : BitVec 7) (k : BitVec 3) : CeEffect := fun c w =>
  let t := readStage c w a
  let mp := groupMap c b
  accAt w d k t.e fun i =>
    if isTarget b i then (if inMask (readMask w 0) i then srcQ t i else 0) else match mp i with | some g => srcQ t g | none => 0

/-- Store accumulator `a` into stage `d` at exponent `e` on the lanes of the mask; the others are re-expressed at `e`. -/
def storeAt (w : CeCtx) (d a : BitVec 7) (k : BitVec 3) (old : Stage) (e : Int) : CeCtx × Nat :=
  let m := readMask w k.toNat
  let acc := readAcc w a
  let ls := lanes.map fun i =>
    if inMask m i then satMant (toStage e acc.ea (acc.lane i)) else satMant (scale (old.lane i) (old.e - e))
  (writeStage w d ⟨e, laneVals ls⟩, satMask ls)

def ceStf (d a : BitVec 7) (k : BitVec 3) : CeEffect := fun c w =>
  let old := readStage c w d
  storeAt w d a k old old.e

/-- The exponent of a normalised store (R85). -/
def normExp (old : Stage) (acc : Acc) (m : Word) : Int :=
  let es := lanes.filterMap fun i =>
    if inMask m i then (if acc.lane i = 0 then none else some (laneExp acc.ea (acc.lane i)))
    else (if old.lane i = 0 then none else some (laneExp old.e (srcQ old i)))
  match es with
  | [] => old.e
  | x :: t => clampI (-128) 127 (t.foldl max x)

def ceStn (d a : BitVec 7) (k : BitVec 3) : CeEffect := fun c w =>
  let old := readStage c w d
  storeAt w d a k old (normExp old (readAcc w a) (readMask w k.toNat))

def ceMov (d a : BitVec 7) : CeEffect := fun c w => (writeStage w d (readStage c w a), 0)

/-- The exact comparison of two lanes with different exponents. -/
def cmpLane (f : Int → Int → Bool) (x y : Stage) (i : Nat) : Bool :=
  let e := min x.e y.e
  f (x.lane i * 2 ^ (x.e - e).toNat) (y.lane i * 2 ^ (y.e - e).toNat)

def ceCmp (f : Int → Int → Bool) (d a b : BitVec 7) (k : BitVec 3) : CeEffect := fun c w =>
  let x := readStage c w a
  let y := readStage c w b
  let m := readMask w k.toNat
  (writeMask w d (maskOf fun i => inMask m i && cmpLane f x y i), 0)

/-- A bitwise operation on masks: the lanes in K are written, the others of the destination keep their values (R86). -/
def ceLogic (f : Word → Word → Word) (d a b : BitVec 7) (k : BitVec 3) : CeEffect := fun _ w =>
  let m := readMask w k.toNat
  (writeMask w d ((f (readMask w a.toNat) (readMask w b.toNat) &&& m) ||| (readMask w d.toNat &&& ~~~m)), 0)

def ceSkz (a b : BitVec 7) : CeEffect := fun _ w =>
  (if readMask w a.toNat = 0 then { w with skip := b.toNat } else w, 0)

/-- CE `c` runs a law (CE_STATUSc.STATE 1). -/
def State.ceRuns (s : State) (c : Nat) : Bool := s.fld (CE_STATUS_STATE c) == 1 && s.coreRuns (5 + c)

/-- The context that an instruction of CE `c` writes now: the law's working copies inside the window, outside it the SF program's
own operands with the masks that hardware writes (R88, R90; the masks are DEDUCED, log entry 59). -/
def State.ctx (s : State) (c : Nat) : CeCtx :=
  let e := s.ce c
  if e.window then e.work else { e.sf with k := e.com.k.take 4 ++ e.sf.k.drop 4 }

/-- Put back that context. -/
def State.setCtx (s : State) (c : Nat) (w : CeCtx) : State :=
  s.updCe c fun e => if e.window then { e with work := w } else { e with sf := w }

/-- Record saturated lanes: CE_SATc, and E:0x0305 at most once per SF per CE (R84, R85). -/
def State.ceSaturate (s : State) (c : Nat) (m : Nat) : State :=
  if m = 0 then s else
  let s := s.setReg (R_CE_SAT c) (s.reg (R_CE_SAT c) ||| BitVec.ofNat 32 m)
  if (s.ce c).told305 then s else (s.updCe c fun e => { e with told305 := true }).event 0x0305 [c]

/-- An instruction takes effect: its CE runs, its program has not ended, and its operands are legal (R80, R87, R88). -/
def State.ceTakes (s : State) (c : Nat) (legal : Bool) : Bool := legal && s.ceRuns c && !(s.ctx c).ended

/-- Run one instruction of CE `c`: skipped under SKZ, otherwise its effect, its cycles and its saturation flags. -/
def State.ceStep (s : State) (c : Nat) (op : Nat) (d a b : BitVec 7) (k : BitVec 3) (f : CeEffect) : State :=
  if s.ceTakes c (legalOperands op d a b k) then
    let w := s.ctx c
    if w.skip ≠ 0 then s.setCtx c { w with skip := w.skip - 1 }
    else
      let r := f (s.ce c) { w with cycles := w.cycles + (opCycles op).getD 0 }
      (s.setCtx c r.1).ceSaturate c r.2
  else s

def execNop (ce : Fin 2) (d a b : BitVec 7) (k : BitVec 3) (s : State) : Host.Outcome State Fault Refusal :=
  s.live (s.ceStep ce 0x00 d a b k fun _ w => (w, 0))

/-- END commits the working stages and masks K4 to K7 at once (R88); the SF program ends. The accumulators go over to the next
window with them (DESIGN CHOICE, log entry 59). -/
def ceCommit (e : CeSt) : CeSt :=
  if e.window then
    { e with
      work := { e.work with ended := true }
      com := { e.work with ended := true, k := (e.com.k.take 4) ++ (e.work.k.drop 4) } }
  else { e with sf := { e.sf with ended := true } }

/-- The cycles of a compute window (R59, Table 3.12). -/
def State.winCycles (s : State) : Nat := winEnd s.tim.cfSel s.tim.longFibre - winStart s.tim.cfSel s.tim.longFibre

/-- The law that has spent these cycles is past the end of its window, which corrected reads can bring about (R88, R89). -/
def State.pastWindow (s : State) (c : Nat) : Bool := (s.ce c).window && decide (s.winCycles ≤ (s.ce c).work.cycles)

/-- END is reached within the window, or not at all (R88). -/
def execEndProgram (ce : Fin 2) (d a b : BitVec 7) (k : BitVec 3) (s : State) : Host.Outcome State Fault Refusal :=
  s.live (if s.pastWindow ce then s else if s.ceTakes ce (legalOperands 0x01 d a b k) && (s.ctx ce).skip == 0
    then (s.ceStep ce 0x01 d a b k fun _ w => (w, 0)).updCe ce ceCommit
    else s.ceStep ce 0x01 d a b k fun _ w => (w, 0))

def execLda (ce : Fin 2) (d a b : BitVec 7) (k : BitVec 3) (s : State) : Host.Outcome State Fault Refusal :=
  s.live (s.ceStep ce 0x08 d a b k (ceLda d a k))
def execAda (ce : Fin 2) (d a b : BitVec 7) (k : BitVec 3) (s : State) : Host.Outcome State Fault Refusal :=
  s.live (s.ceStep ce 0x09 d a b k (ceAdd 1 d a k))
def execSba (ce : Fin 2) (d a b : BitVec 7) (k : BitVec 3) (s : State) : Host.Outcome State Fault Refusal :=
  s.live (s.ceStep ce 0x0A d a b k (ceAdd (-1) d a k))
def execMul (ce : Fin 2) (d a b : BitVec 7) (k : BitVec 3) (s : State) : Host.Outcome State Fault Refusal :=
  s.live (s.ceStep ce 0x0B d a b k (ceMul d a b k))
def execMac (ce : Fin 2) (d a b : BitVec 7) (k : BitVec 3) (s : State) : Host.Outcome State Fault Refusal :=
  s.live (s.ceStep ce 0x0C d a b k (ceMac 1 d a b k))
def execMsu (ce : Fin 2) (d a b : BitVec 7) (k : BitVec 3) (s : State) : Host.Outcome State Fault Refusal :=
  s.live (s.ceStep ce 0x0D d a b k (ceMac (-1) d a b k))
def execZra (ce : Fin 2) (d a b : BitVec 7) (k : BitVec 3) (s : State) : Host.Outcome State Fault Refusal :=
  s.live (s.ceStep ce 0x0E d a b k (ceZra d b k))
def execMin (ce : Fin 2) (d a b : BitVec 7) (k : BitVec 3) (s : State) : Host.Outcome State Fault Refusal :=
  s.live (s.ceStep ce 0x10 d a b k (ceMinMax min d a k))
def execMax (ce : Fin 2) (d a b : BitVec 7) (k : BitVec 3) (s : State) : Host.Outcome State Fault Refusal :=
  s.live (s.ceStep ce 0x11 d a b k (ceMinMax max d a k))
def execClp (ce : Fin 2) (d a b : BitVec 7) (k : BitVec 3) (s : State) : Host.Outcome State Fault Refusal :=
  s.live (s.ceStep ce 0x12 d a b k (ceClp d a b k))
def execAbs (ce : Fin 2) (d a b : BitVec 7) (k : BitVec 3) (s : State) : Host.Outcome State Fault Refusal :=
  s.live (s.ceStep ce 0x13 d a b k (ceAbs d k))
def execNeg (ce : Fin 2) (d a b : BitVec 7) (k : BitVec 3) (s : State) : Host.Outcome State Fault Refusal :=
  s.live (s.ceStep ce 0x14 d a b k (ceNeg d k))
def execExa (ce : Fin 2) (d a b : BitVec 7) (k : BitVec 3) (s : State) : Host.Outcome State Fault Refusal :=
  s.live (s.ceStep ce 0x15 d a b k (ceExa d b k))
def execRcp (ce : Fin 2) (d a b : BitVec 7) (k : BitVec 3) (s : State) : Host.Outcome State Fault Refusal :=
  s.live (s.ceStep ce 0x16 d a b k (ceRcp d a k))
def execSel (ce : Fin 2) (d a b : BitVec 7) (k : BitVec 3) (s : State) : Host.Outcome State Fault Refusal :=
  s.live (s.ceStep ce 0x18 d a b k (ceSel d a k))
def execRsum (ce : Fin 2) (d a b : BitVec 7) (k : BitVec 3) (s : State) : Host.Outcome State Fault Refusal :=
  s.live (s.ceStep ce 0x19 d a b k (ceReduce sumL d a b k))
def execRmax (ce : Fin 2) (d a b : BitVec 7) (k : BitVec 3) (s : State) : Host.Outcome State Fault Refusal :=
  s.live (s.ceStep ce 0x1A d a b k (ceReduce maxL d a b k))
def execSprd (ce : Fin 2) (d a b : BitVec 7) (k : BitVec 3) (s : State) : Host.Outcome State Fault Refusal :=
  s.live (s.ceStep ce 0x1B d a b k (ceSprd d a b k))
def execStf (ce : Fin 2) (d a b : BitVec 7) (k : BitVec 3) (s : State) : Host.Outcome State Fault Refusal :=
  s.live (s.ceStep ce 0x20 d a b k (ceStf d a k))
def execStn (ce : Fin 2) (d a b : BitVec 7) (k : BitVec 3) (s : State) : Host.Outcome State Fault Refusal :=
  s.live (s.ceStep ce 0x21 d a b k (ceStn d a k))
def execMov (ce : Fin 2) (d a b : BitVec 7) (k : BitVec 3) (s : State) : Host.Outcome State Fault Refusal :=
  s.live (s.ceStep ce 0x22 d a b k (ceMov d a))
def execCgt (ce : Fin 2) (d a b : BitVec 7) (k : BitVec 3) (s : State) : Host.Outcome State Fault Refusal :=
  s.live (s.ceStep ce 0x28 d a b k (ceCmp (fun x y => decide (y < x)) d a b k))
def execCge (ce : Fin 2) (d a b : BitVec 7) (k : BitVec 3) (s : State) : Host.Outcome State Fault Refusal :=
  s.live (s.ceStep ce 0x29 d a b k (ceCmp (fun x y => decide (y ≤ x)) d a b k))
def execKand (ce : Fin 2) (d a b : BitVec 7) (k : BitVec 3) (s : State) : Host.Outcome State Fault Refusal :=
  s.live (s.ceStep ce 0x2A d a b k (ceLogic (· &&& ·) d a b k))
def execKor (ce : Fin 2) (d a b : BitVec 7) (k : BitVec 3) (s : State) : Host.Outcome State Fault Refusal :=
  s.live (s.ceStep ce 0x2B d a b k (ceLogic (· ||| ·) d a b k))
def execKnot (ce : Fin 2) (d a b : BitVec 7) (k : BitVec 3) (s : State) : Host.Outcome State Fault Refusal :=
  s.live (s.ceStep ce 0x2C d a b k (ceLogic (fun x _ => ~~~x) d a b k))
def execSkz (ce : Fin 2) (d a b : BitVec 7) (k : BitVec 3) (s : State) : Host.Outcome State Fault Refusal :=
  s.live (s.ceStep ce 0x30 d a b k (ceSkz a b))

/-- TRG triggers buffer `b` of its CE, for a buffer of KIND 6 (R104). -/
def execTrg (ce : Fin 2) (d a b : BitVec 7) (k : BitVec 3) (s : State) : Host.Outcome State Fault Refusal :=
  s.live (if s.ceTakes ce (legalOperands 0x31 d a b k) && (s.ctx ce).skip == 0 && s.fld (CUP_TRIG_KIND ce b.toNat) == 6
    then (s.ceStep ce 0x31 d a b k fun _ w => (w, 0)).cupTrigger ce b.toNat
    else s.ceStep ce 0x31 d a b k fun _ w => (w, 0))

end Sys2Proof.Machine
end

