-- ==== Sys2Proof/Machine/LineCode.lean ====
section
/-!
DEFINITION. The line code of a Choquin link: the 8b/10b characters with running disparity, the K-symbols, and what a receiver
finds in a run of characters (spec/03 R52 to R54).
-/

namespace Sys2Proof.Machine

open Sys2Proof

/-- Six bits `abcdei` of the data groups D.0 to D.31 after negative disparity, `a` first (R52: IEEE 802.3 Clause 36). -/
def sixBits : List Nat :=
  [0x27, 0x1D, 0x2D, 0x31, 0x35, 0x29, 0x19, 0x38, 0x39, 0x25, 0x15, 0x34, 0x0D, 0x2C, 0x1C, 0x17,
   0x1B, 0x23, 0x13, 0x32, 0x0B, 0x2A, 0x1A, 0x3A, 0x33, 0x26, 0x16, 0x36, 0x0E, 0x2E, 0x1E, 0x2B]

/-- Four bits `fghj` of the data groups D.x.0 to D.x.7 after negative disparity; the last is the primary form. -/
def fourBits : List Nat := [0xB, 0x9, 0x5, 0xC, 0xD, 0xA, 0x6, 0xE]

/-- Ones in a number below 2^`n`. -/
def onesOf (n v : Nat) : Nat := ((List.range n).filter fun k => bit v k).length

/-- A six-bit or four-bit group after the disparity `rd` (true: positive): an unbalanced one is complemented, and of the balanced
ones 111000 and 1100, which alternate too. -/
def subGroup (n : Nat) (rd : Bool) (v : Nat) : Nat :=
  if rd && (onesOf n v * 2 != n || v == 0x38 || (n == 4 && v == 0xC)) then 2 ^ n - 1 - v else v

/-- Disparity after a group (IEEE 802.3 Clause 36): positive after more ones, 000111 and 0011, negative after more zeros, 111000
and 1100, otherwise as before. -/
def rdAfter (n : Nat) (rd : Bool) (v : Nat) : Bool :=
  if n < onesOf n v * 2 then true else if onesOf n v * 2 < n then false
  else if (n == 6 && v == 0x07) || (n == 4 && v == 0x3) then true
  else if (n == 6 && v == 0x38) || (n == 4 && v == 0xC) then false else rd

/-- The alternate form of D.x.7 that avoids five like bits in a row. -/
def alt7 (x : Nat) (rd : Bool) : Bool :=
  if rd then x == 11 || x == 13 || x == 14 else x == 17 || x == 18 || x == 20

/-- The character of a data byte after disparity `rd`: ten bits, `a` the most significant (R52). -/
def dataChar (rd : Bool) (b : Nat) : Nat :=
  let x := b % 32
  let y := b / 32
  let six := subGroup 6 rd (nth 0 sixBits x)
  let mid := rdAfter 6 rd six
  let four := if y = 7 ∧ alt7 x mid then (if mid then 0x8 else 0x7) else subGroup 4 mid (nth 0 fourBits y)
  six * 16 + four

/-- K28.5, K28.1, K28.2, K28.3 and K27.7 after negative disparity. -/
def kChars : List (LineSym × Nat) :=
  [(.idle, 0xFA), (.sync, 0xF9), (.sfsync, 0xF5), (.echo, 0xF3), (.stop, 0x368)]

/-- The ten bits of a symbol after disparity `rd`; a K-symbol's form after positive disparity is the complement. -/
def symChar (rd : Bool) : LineSym → Nat
  | .data b => dataChar rd b.toNat
  | k =>
    let c := ((kChars.find? fun p => p.1 == k).map (·.2)).getD 0
    if rd then 0x3FF - c else c

/-- Disparity after a character. -/
def rdChar (rd : Bool) (c : Nat) : Bool := rdAfter 4 (rdAfter 6 rd (c / 16)) (c % 16)

/-- The bits of a character in the order in which they go out (R52). -/
def charBits (c : Nat) : List Bool := (List.range 10).map fun k => bit c (9 - k)

/-- The symbol that a character stands for after disparity `rd`; none where it has a code or disparity error (R53). -/
def decodeChar (rd : Bool) (c : Nat) : Option LineSym :=
  match (kChars.map (·.1)).find? fun k => symChar rd k == c with
  | some k => some k
  | none => ((List.range 256).find? fun b => dataChar rd b == c).map fun b => .data (BitVec.ofNat 8 b)

/-- Disparity after a run of equal symbols. -/
def rdRun (rd : Bool) (n : Nat) (x : LineSym) : Bool :=
  let once := rdChar rd (symChar rd x)
  if once == rd || n % 2 == 0 then rd else once

/-- What a serialiser has sent since a CF tick, as runs of symbols, and the disparity after it. -/
def rdRuns (rd : Bool) (l : List (Nat × LineSym)) : Bool := l.foldl (fun r p => rdRun r p.1 p.2) rd

/-- The characters of such runs. -/
def runChars (rd : Bool) (l : List (Nat × LineSym)) : List Nat :=
  ((l.flatMap fun p => List.replicate p.1 p.2).foldl (fun (a : Bool × List Nat) x =>
    let c := symChar a.1 x
    (rdChar a.1 c, a.2 ++ [c])) (rd, [])).2

/-! ### Receiving (R53, R54) -/

/-- A receiver: the disparity, the bytes of the frame under way (newest first), whether a K-symbol came last, whether any character
was valid, the errors outside the first frame (code violations, and frames aborted after it), and the first frame: its bytes, or none where it was aborted. -/
structure Rx where
  rd : Bool
  cur : Option (List Byte)
  afterK : Bool
  any : Bool
  stray : Nat
  got : Option (Option (List Byte))
deriving DecidableEq, Repr

/-- One character. A frame begins with the first data character after a K-symbol and has exactly `n` of them; a code violation or
a K-symbol inside it aborts it. Data characters after a K-symbol and then a code violation begin no frame until the next K-symbol
(DESIGN CHOICE, log entry 69). -/
def Rx.take (n : Nat) (a : Rx) (c : Nat) : Rx :=
  let r : Rx := { a with rd := rdChar a.rd c, afterK := false }
  match decodeChar a.rd c, a.cur with
  | none, none => { r with stray := r.stray + 1 }
  | none, some _ => { r with cur := none, got := r.got.or (some none), stray := r.stray + b2n a.got.isSome }
  | some (.data b), some bs =>
    if bs.length + 1 = n then { r with any := true, cur := none, got := r.got.or (some (some (b :: bs).reverse)) }
    else { r with any := true, cur := some (b :: bs) }
  | some (.data b), none => { r with any := true, cur := if a.afterK then some [b] else none }
  | some _, none => { r with any := true, afterK := true }
  | some _, some _ => { r with any := true, afterK := true, cur := none, got := r.got.or (some none), stray := r.stray + b2n a.got.isSome }

/-- A run of characters. -/
def rxRun (n : Nat) (rd : Bool) (cs : List Nat) : Rx :=
  cs.foldl (Rx.take n) ⟨rd, none, false, false, 0, none⟩

end Sys2Proof.Machine
end

