-- ==== Sys2Proof/Machine/Choquin.lean ====
section
/-!
DEFINITION. Operations of the Choquin links (spec/03): frames, link states, commands to a block, the stop line.
-/

namespace Sys2Proof.Machine

open Sys2Proof

/-- State of link `n` (Table 3.15): 0 OFF, 1 LOCK, 2 TRAIN, 3 ALIGNED, 4 ACTIVE, 5 LOST, 6 STOP. -/
def State.lst (s : State) (n : Nat) : Nat := s.fld (CQ_STATE_LSTATE n)

/-- Block state of link `n` (Table 3.7): 0 INIT, 1 READY, 2 RUN, 3 HOLD, 4 RAMPDOWN, 5 LOST, 6 STOP, 7 FAULT. -/
def State.bst (s : State) (n : Nat) : Nat := s.fld (CQ_STATE_BSTATE n)

/-- The stop line is asserted for the link (R68). -/
def LinkSt.stopLine (l : LinkSt) : Bool := !l.stopBy.isEmpty

/-- The serialiser sends STOP: the line is asserted, or was released since the last CF tick (R68). -/
def LinkSt.sendsStop (l : LinkSt) : Bool := l.stopLine || l.freeing

/-- Change the state of a link; every change raises E:0x0201 (R73). -/
def State.setLst (s : State) (n new : Nat) : State :=
  if s.lst n = new then s
  else (s.setFld (CQ_STATE_LSTATE n) new).event 0x0201 [n, s.lst n, new]

/-- A link that holds a measured delay F counts as aligned (R73). -/
def State.alignedLink (s : State) (n : Nat) : Bool :=
  s.lst n == 3 || s.lst n == 4 || s.lst n == 5 || (s.lst n == 6 && (s.lk n).stopAligned)

/-- Some link is aligned (R29, R44). -/
def State.anyAligned (s : State) : Bool := (idx s.nLinks).any fun n => s.alignedLink n

/-- A command begins to go out, in 4 frames (R56). -/
def LinkSt.begin (l : LinkSt) (cmd arg : Nat) : LinkSt :=
  { l with cmd := cmd, cmdArg := arg, cmdLeft := 4, lastMx := cmd == 3 || cmd == 4, disabling := l.disabling && cmd == 2 }

/-- A command for a link: it goes out after those under way, each in its 4 frames (R56); one that is the last of them already
runs on unbroken. A TRAIN frame carries no command but START (R445). -/
def State.sendCmd (s : State) (n cmd arg : Nat) : State :=
  let l := s.lk n
  if s.lst n == 2 && cmd != 5 then s
  else if l.cmdLeft = 0 then s.updLk n fun l => l.begin cmd arg
  else if l.cmdNext.getLastD (l.cmd, l.cmdArg) = (cmd, arg) then s
  else s.updLk n fun l => { l with cmdNext := l.cmdNext ++ [(cmd, arg)] }

/-- One frame of the command under way has left. -/
def LinkSt.cmdStep (l : LinkSt) : LinkSt :=
  if l.cmdLeft = 1 then match l.cmdNext with
    | p :: t => { l with cmdNext := t }.begin p.1 p.2
    | [] => { l with cmdLeft := 0 }
  else { l with cmdLeft := l.cmdLeft - 1 }

/-- Commands of Table 3.5. -/
def cmdEnable : Nat := 1
def cmdDisable : Nat := 2
def cmdMxOpen : Nat := 3
def cmdMxClose : Nat := 4
def cmdStart : Nat := 5

/-- The link enters TRAIN: a training begins afresh (R445). -/
def State.toTrain (s : State) (n : Nat) : State :=
  ((s.setLst n 2).updLk n fun l =>
    { l with
      tags := 0, measOk := false, fOut := false
      failed := false, useqKnown := false, validRun := 0, invalidRun := 0, driftRun := 0, clkRun := 0
      drainAt := none, retrainDue := false, startSent := false, disabling := false, cmdLeft := 0, cmdNext := [] }).startTimer (.train n)

/-- Enabled at commit and PD7 on: OFF goes to LOCK; otherwise the link is OFF (Table 3.15). -/
def State.linkPower (s : State) (n : Nat) : State :=
  if s.linkBit R_CQ_EN_LO R_CQ_EN_HI n && s.pdGood 7 then s.iff (s.lst n == 0) (·.setLst n 1)
  else s.iff (s.lst n != 0) fun s => ((s.setLst n 0).updLk n fun _ => LinkSt.off).setLinkBit R_CQ_STOP_LO R_CQ_STOP_HI n false

/-- Greatest one-way fibre delay for the CF in force, in 0.1 ns (Table 2.1). -/
def maxDelay (cfSel : Nat) (long : Bool) : Nat :=
  match cfSel with
  | 0 => 1500 | 1 => 5000 | 2 => if long then 25000 else 20000 | _ => 25000

/-- Characters of a CF, 8 ns each, and those between SYNC and the downstream frame, which is launched 24 ns after the window's end
(R52, Table 3.12; that the fill is a whole number of characters is DEDUCED, log entry 56). -/
def cfChars (cfSel : Nat) : Nat := cfNs cfSel / 8
def fillChars (cfSel : Nat) (long : Bool) : Nat := (winEnd cfSel long + 24) / 8 - 1

/-- Threshold below which a block's current counts as zero, in 100 µA: the larger of 2 A and 1 % of the rating (R56). -/
def State.zeroThr (s : State) (n : Nat) : Nat := max 20000 ((s.lk n).rated * 100)

/-- Fields of an upstream frame (Tables 3.7 and 3.8). -/
structure UpFields where
  type : Nat
  bstate : Nat
  flt : Bool
  srcEcho : Nat
  useq : Nat
  imeas : Int
  vout : Nat
  vdc : Nat
  dseq : Nat
  temp : Int
  iavail : Nat
  mx : Nat
  tag : Nat
  data : Nat
deriving DecidableEq, Repr

/-- Bits `hi` to `lo` of a number. -/
def bits (w hi lo : Nat) : Nat := w / 2 ^ lo % 2 ^ (hi + 1 - lo)

/-- The fields of 144 upstream bits: header in bits 143:128, payload in bits 127:16, CRC in bits 15:0 (R55). -/
def upDecode (f : BitVec 144) : UpFields :=
  let w := f.toNat
  { type := bits w 143 142, bstate := bits w 141 139, flt := bits w 138 138 == 1, srcEcho := bits w 137 137,
    useq := bits w 135 128, imeas := sext 24 (bits w 127 104), vout := bits w 103 88, vdc := bits w 87 72,
    dseq := bits w 71 64, temp := sext 8 (bits w 63 56), iavail := bits w 55 40, mx := bits w 39 32,
    tag := bits w 31 28, data := bits w 27 16 }

/-- Bytes of a number, most significant first. -/
def beBytes (n v : Nat) : List Byte := (toLE n v).reverse

/-- CRC-16 of R55: polynomial 0x1021, initial value 0xFFFF, most significant bit first, no inversion. -/
def crc16 (bs : List Byte) : Nat := crcMsb 16 0x1021 0xFFFF bs

/-- The CRC of an upstream frame matches (R55). -/
def upCrcOk (f : BitVec 144) : Bool := crc16 (beBytes 16 (f.toNat / 65536)) == f.toNat % 65536

/-- The 112 bits of a downstream frame (Tables 3.3 and 3.4, R55). -/
def DownFrame.bits (f : DownFrame) : Nat :=
  let hdr := f.type * 2 ^ 14 + b2n f.hold * 2 ^ 13 + b2n f.tok * 2 ^ 12 + f.src % 2 * 2 ^ 11 + f.cmd % 8 * 2 ^ 8 + f.seq % 256
  let pay := enc 24 f.iref * 2 ^ 56 + f.vlim % 65536 * 2 ^ 40 + enc 16 f.vff * 2 ^ 24 + f.tag % 16 * 2 ^ 20
    + f.data % 65536 * 2 ^ 4 + f.arg % 16
  let hp := hdr * 2 ^ 80 + pay
  hp * 65536 + crc16 (beBytes 12 hp)

/-- Auxiliary word of a downstream frame for CF `cf` (Table 3.6): tag and data. -/
def State.downAux (s : State) (n cf : Nat) (train : Bool) : Nat × Nat :=
  match cf with
  | 1 | 2 | 3 | 4 => (cf, s.linkc.nextCount / 65536 ^ (cf - 1) % 65536)
  | 5 => (5, s.linkc.nextOfs)
  | 6 => if train && !(s.lk n).measOk then (0, 0) else (6, s.fld (CQ_DELAY_DLY n))
  | 7 => (7, s.tim.cfSel + b2n s.tim.longFibre * 4 + n * 8)
  | _ => (0, 0)

/-- TOK of the module's frames: 1 outside twin operation, the token inside it, which a commanded passing leaves unclaimed for one
CF (R70 to R72). -/
def State.tok (s : State) : Bool := !s.flag CQ_GCFG_TWIN_EN || (s.flag CQ_GCFG_TOK && !s.linkc.tokWait)

/-- The block of link `n` carries the pre-closure weld test of its output: the lowest link that map 1 names for it
(spec/09 R240). -/
def State.weldBlock (s : State) (n : Nat) : Bool :=
  match nth none s.sh.t2.map n with
  | some j => (s.io j).weldTest == 1 && (idx n).all fun k => nth none s.sh.t2.map k != some j
  | none => false

/-- Bytes of a downstream frame, the most significant first, as the serialiser sends them (R52). -/
def DownFrame.syms (f : DownFrame) : List (Nat × LineSym) := (beBytes 14 f.bits).map fun b => (1, .data b)

/-- Launch the downstream frame of link `n` with the references given (R55, R65, R445). No frame leaves while the serialiser
sends STOP or the link is off (R68); in LOCK it sends IDLE and SYNC only. In TRAIN every frame is a TRAIN frame. SEQ counts the
frames that leave: that it stands still in a CF without one is a DESIGN CHOICE (R65, log entry 57). -/
def State.launch (s : State) (n : Nat) (hold : Bool) (iref : Int) (vlim : Nat) (vff : Int) : State :=
  let l := s.lk n
  if l.sendsStop || s.lst n == 0 || s.lst n == 1 || !s.pdGood 7 then s
  else
    let train := s.lst n == 2
    let aux := s.downAux n s.tim.cfIndex train
    let seq := (l.seq + 1) % 256
    let cmd := if l.disabling then cmdDisable else if l.cmdLeft ≠ 0 then l.cmd else 0
    let cmd := if train && cmd != cmdStart then 0 else cmd
    let mx := cmd == cmdMxOpen || cmd == cmdMxClose
    let iref := if s.weldBlock n then 20000 else iref
    let vlim := if s.weldBlock n then 2000 else vlim
    let f : DownFrame :=
      { type := if train then 1 else 0, hold := hold, tok := s.tok, src := s.fld CQ_GCFG_SRC_ID
        cmd := cmd, seq := seq
        iref := if train then 0 else iref, vlim := if train then 0 else vlim, vff := if train then 0 else vff
        tag := aux.1, data := aux.2, arg := if mx then l.cmdArg else 0 }
    s.updLk n fun l =>
      { l.cmdStep with seq := seq, down := f, tx := l.tx ++ (fillChars s.tim.cfSel s.tim.longFibre, .idle) :: f.syms }

/-- The characters of a CF end, the rest of them IDLE, or STOP as long as the serialiser sends it; the next begins with `x`
(R53, R68). -/
def LinkSt.cfSyms (l : LinkSt) (total : Nat) (x : LineSym) : LinkSt :=
  let sent := l.tx.foldl (fun a p => a + p.1) 0
  let fill : Nat × LineSym := (total - sent, if l.sendsStop then .stop else .idle)
  { l with txRd := rdRuns l.txRd (l.tx ++ [fill]), tx := [(1, x)] }

/-- A CF tick at the serialiser: SYNC, at CF 0 SFSYNC (Table 3.2); a line that was released resumes with it (R68). -/
def LinkSt.cfTick (l : LinkSt) (total : Nat) (x : LineSym) : LinkSt :=
  let l := l.cfSyms total (if l.stopLine then .stop else x)
  { l with freeing := false }

/-- Masks of a list of links: CQ0 to CQ31 and CQ32 to CQ47. -/
def linkMasks (l : List Nat) : List Nat :=
  [l.foldl (fun a n => if n < 32 then setBit a n true else a) 0,
   l.foldl (fun a n => if 32 ≤ n then setBit a (n - 32) true else a) 0]

/-- The block of link `n` is usable: the link is ALIGNED or ACTIVE (R127). -/
def State.usable (s : State) (n : Nat) : Bool := s.lst n == 3 || s.lst n == 4

end Sys2Proof.Machine
end

