-- ==== Sys2Proof/Machine/TimeBase.lean ====
section
/-!
DEFINITION. Legal time, its sources, corrections and the site time reference (spec/02).
-/

namespace Sys2Proof.Machine

open Sys2Proof

/-- Clock states (Table 2.3): 0 FREERUN_UNSET, 1 FREERUN, 2 LOCKING, 3 LOCKED, 4 HOLDOVER, 5 HOLDOVER_EXT,
6 TWIN_FOLLOW. -/
def State.clk (s : State) : Nat := s.fld TIME_STATUS_STATE

/-- Change the part of the clock that no register holds. -/
def State.updTim (s : State) (f : TimeSt → TimeSt) : State := { s with tim := f s.tim }

/-- clockClass of a state (Table 2.3); none where it is not announced. -/
def clkClass : Nat → Option Nat
  | 3 => some 6 | 4 => some 7 | 5 => some 187 | 6 => none | _ => some 248

/-- Change the clock state, with a value of VALID: E:0x0101, and the announced clockClass follows; holdover starts its estimate at 0 on
entry from LOCKED (R37, R40). Where none is announced, in TWIN_FOLLOW, TIME_STATUS.CLKCLASS keeps its value (DESIGN CHOICE, log entry
68). -/
def State.setClkV (s : State) (new : Nat) (valid : Bool) : State :=
  if s.clk = new then s
  else
    let old := s.clk
    let s := (s.setFld TIME_STATUS_STATE new).setFlag TIME_STATUS_VALID valid
    let s := match clkClass new with
      | some c => s.setFld TIME_STATUS_CLKCLASS c
      | none => s
    let s := s.iff (old == 3 && new == 4) (·.updTim fun t =>
      { t with holdAcc := 0, zcEntry := t.zcNow, zcMoved := false })
    let s := s.iff (new != 4 && new != 5) (·.setFld TIME_HOLD_ERR_ERR_NS 0)
    s.event 0x0101 [old, new]

/-- Change the clock state, with the VALID that Table 2.3 gives it. -/
def State.setClk (s : State) (new : Nat) : State := s.setClkV new (new != 0)

/-- The step limit in ns (R42). -/
def State.stepLimit (s : State) : Int := (s.fld TIME_CTRL_STEP_LIMIT * sec : Nat)

/-- Largest slew increment in ns: SLEW_RATE × 1 ms (R42). -/
def State.slewMax (s : State) : Int := (s.fld TIME_CTRL_SLEW_RATE : Nat)

/-- The next slew increment of a remaining correction. -/
def State.slewInc (s : State) (left : Int) : Int := clampI (-s.slewMax) s.slewMax left

/-- The UTC offset in force. -/
def State.utcOfs (s : State) : Int := s.fldS TIME_UTC_UTC_OFS

/-- The offset after the pending leap second (R34). -/
def State.leapOfs (s : State) : Int := if s.flag TIME_LEAP_DIR then s.utcOfs - 1 else s.utcOfs + 1

/-- The instant T of the pending leap second on the count (R34). -/
def State.leapAt (s : State) : Int := ((s.fld TIME_LEAP_AT_DAY + 1 : Nat) * 86400 + s.leapOfs) * 1000000000

/-- Fix the count and the offset that the next SF tick will carry (R57). -/
def State.fixNext (s : State) : State :=
  let inc := if s.flag TIME_STATUS_SLEWING then s.slewInc s.tim.slewLeft else 0
  let nc := ((s.tim.count + s.tim.sfLen : Nat) + inc).toNat
  let ofs := if s.fld TIME_LEAP_AT_DAY ≠ 0 ∧ s.leapAt ≤ nc then s.leapOfs else s.utcOfs
  { s with linkc := { s.linkc with nextCount := nc, nextOfs := enc 16 ofs } }

/-- Length of the SF in progress, by the count at the tick that opened it: with no link aligned it ends at a whole millisecond
of the count, never before 1 ms; a realignment raises E:0x0109, once for the SF (R44). -/
def State.realign (s : State) : State :=
  let len := if s.anyAligned then ms else ms + (ms - s.tim.count % ms) % ms
  let first := s.tim.sfLen == ms && len != ms
  (s.updTim fun t => { t with sfLen := len }).iff first fun s => s.event 0x0109 []

/-- PPS_OUT runs (R47). -/
def State.ppsOut (s : State) : Bool :=
  s.flag TIME_CTRL_PPS_EN && (s.clk == 1 && s.flag TIME_CTRL_PPS_FREE || decide (2 ≤ s.clk))

/-- PPS_OUT rises at a whole TAI second of the count that an advance from the count `old` on has reached, once: an increment that takes
the count back over it lets it rise no second time (R47). -/
def State.ppsRise (s : State) (old : Nat) : State :=
  let k := s.tim.count / sec
  s.iff (s.ppsOut && decide (old / sec < k) && s.tim.ppsRose != some k) fun s =>
    s.updTim fun t => { t with ppsRose := some k, ppsCount := t.ppsCount + 1 }

/-- Advance the count and every running timer by a slew increment; PPS_OUT rises where it reaches a whole second (R33, R35, R47). -/
def State.advanceBy (s : State) (inc : Int) : State :=
  let old := s.tim.count
  State.ppsRise { s with
    timers := s.timers.map fun p => (p.1, ((p.2 : Int) + inc).toNat)
    tim :=
      { s.tim with
        count := ((s.tim.count : Int) + inc).toNat, life := ((s.tim.life : Int) + inc).toNat, floor := s.now } } old

/-- Accept a correction: it is applied at the first SF tick that follows (R42); a new offset of 0 ends a slew (R43). -/
def State.acceptCorr (s : State) (c : Int) (gnss : Bool) : State :=
  if c = 0 && !s.flag TIME_STATUS_SLEWING then s else s.updTim fun t => { t with corr := some c, corrDue := false, corrGnss := gnss }

/-- A PPS that is invalid or missing: runs are broken, and the third takes LOCKED to HOLDOVER (R37, R38). -/
def State.badPps (s : State) : State :=
  let s := (s.setFlag TIME_STATUS_GNSS_OK false).updTim fun t =>
    { t with missRun := t.missRun + 1, goodRun := 0, farRun := 0, r39Run := 0, edge := none }
  s.iff (s.clk == 3 && decide (3 ≤ s.tim.missRun)) (·.setClk 4)

/-- An invalid PPS or message raises E:0x0105 (R38). -/
def State.invalidPps (s : State) : State := s.badPps.event 0x0105 []

/-- An offset within the step limit: states of Table 2.3 and the lock criterion, and the correction (R37, R42). -/
def State.ppsWithin (s : State) (ofs : Int) : State :=
  let good := decide (ofs.natAbs ≤ 100)
  let far := decide (1000 < ofs.natAbs)
  let s := s.updTim fun t =>
    { t with
      r39Run := 0, r39Told := false
      goodRun := if good then t.goodRun + 1 else 0
      farRun := if far then t.farRun + 1 else 0 }
  let s := if s.clk == 0 || s.clk == 1 || s.clk == 4 || s.clk == 5 then
      (s.setClk 2).updTim fun t => { t with goodRun := b2n good, farRun := 0 }
    else if s.clk == 2 then s.iff (decide (60 ≤ s.tim.goodRun)) fun s => (s.setClk 3).updTim fun t => { t with farRun := 0 }
    else if s.clk == 3 then s.iff (decide (3 ≤ s.tim.farRun)) fun s => (s.setClk 2).updTim fun t => { t with goodRun := 0 }
    else s
  s.acceptCorr ofs false

/-- An offset beyond the step limit: ten consecutive PPS that agree within 1 µs confirm it (R39). -/
def State.ppsBeyond (s : State) (ofs : Int) : State :=
  let t := s.tim
  let lo := min t.r39Lo ofs
  let hi := max t.r39Hi ofs
  let agree := decide (0 < t.r39Run ∧ hi - lo ≤ 1000)
  let run := if agree then t.r39Run + 1 else 1
  let s := s.updTim fun t =>
    { t with
      r39Run := run, r39Lo := if agree then lo else ofs, r39Hi := if agree then hi else ofs
      goodRun := 0, farRun := t.farRun + 1 }
  let s := if s.tim.r39Told then s else (s.updTim fun t => { t with r39Told := true }).event 0x0106 []
  if 10 ≤ run then (s.acceptCorr ofs true).updTim fun t => { t with r39Run := 0, r39Told := false } else s

/-- A valid PPS at count `e` with the offset measured (R37 to R39). -/
def State.validPps (s : State) (e : Nat) (ofs : Int) : State :=
  let s := (s.setFlag TIME_STATUS_GNSS_OK true).setFldS TIME_OFFSET_OFS_NS ofs
  let s := s.updTim fun t => { t with missRun := 0, lastPps := some e, edge := none }
  if (ofs.natAbs : Int) ≤ s.stepLimit then s.ppsWithin ofs else s.ppsBeyond ofs

/-- GNSS governs the count: enabled, and not the standby of a twin pair. -/
def State.gnssOn (s : State) : Bool := s.flag TIME_CTRL_GNSS_EN && s.clk != 6

/-- The middle of the window in which the next edge is expected; none where any instant is accepted (R38). -/
def State.ppsWindow (s : State) : Option Nat :=
  match s.tim.lastPps with
  | some p => if s.tim.missRun < 3 then some (p + (s.tim.missRun + 1) * sec) else none
  | none => none

/-- GNSS_PPS_EDGE: a rising edge at the given count. An earlier edge without a message is invalid; an edge outside the
window is invalid (R38); it clears GNSS_OK and raises E:0x0105, and breaks no run and counts as no PPS: the PPS of that second
counts once, when its window ends without an edge (DESIGN CHOICE, log entry 51). -/
def execGnssPpsEdge (at_ : Nat) (s : State) : Host.Outcome State Fault Refusal :=
  s.live (if s.gnssOn then
    let s := s.iff s.tim.edge.isSome (·.invalidPps)
    let inside := match s.ppsWindow with
      | none => true
      | some w => decide (w ≤ at_ + ms ∧ at_ ≤ w + ms)
    let leap := if s.fld TIME_LEAP_AT_DAY = 0 then none else some (s.fld TIME_LEAP_AT_DAY, s.leapOfs)
    if inside then s.updTim fun t => { t with edge := some at_, edgeOfs := s.utcOfs, edgeLeap := leap }
    else (s.setFlag TIME_STATUS_GNSS_OK false).event 0x0105 []
  else s)

/-- A message's day and second are acceptable (R38): 23:59:60 only on the day of a pending positive leap second,
23:59:59 not on the day of a pending negative one, nor once that one has skipped it. -/
def State.msgDayOk (s : State) (m : GnssMsg) : Bool :=
  let leapDay := s.fld TIME_LEAP_AT_DAY != 0 && s.fld TIME_LEAP_AT_DAY == m.day
  if m.sec = 86400 then leapDay && !s.flag TIME_LEAP_DIR
  else if m.sec = 86399 then !(leapDay && s.flag TIME_LEAP_DIR) && s.tim.skipDay != some m.day
  else decide (m.sec < 86400)

/-- The UTC offset under which a message is converted: the one in force at its edge, and after the end of a leap second's day the
new one, which the edge at T may be ahead of the tick that applies it (R38). -/
def State.msgOfs (s : State) (m : GnssMsg) : Int :=
  match s.tim.edgeLeap with
  | some (day, ofs) => if day < m.day then ofs else s.tim.edgeOfs
  | none => s.tim.edgeOfs

/-- GNSS_MESSAGE: it names the preceding edge and must end 50 ms to 950 ms after it, with status A (R38). -/
def execGnssMessage (msg : GnssMsg) (s : State) : Host.Outcome State Fault Refusal :=
  s.live (if s.gnssOn then
    match s.tim.edge with
    | none => s
    | some e =>
      if msg.statusA && decide (50 ≤ msg.endMs ∧ msg.endMs ≤ 950) && s.msgDayOk msg then
        let src : Int := ((msg.day * 86400 + msg.sec : Nat) + s.msgOfs msg) * 1000000000 + s.fldS GNSS_DLY_DLY_NS
        s.validPps e (src - e)
      else s.invalidPps
  else s)

/-- PPS_MISSING: the window has ended without an edge (R38). A clock in LOCKED whose GNSS_EN a commit clears expects none, and stays
LOCKED (DESIGN CHOICE, log entry 53). -/
def execPpsMissing (s : State) : Host.Outcome State Fault Refusal :=
  s.live (match s.ppsWindow with
    | some w => if s.gnssOn && s.tim.edge.isNone && decide (w + ms ≤ s.now) then s.badPps else s
    | none => s)

/-- Apply a due correction at the SF tick: a step beyond the limit, else the first increment of a slew (R42, R43). A step that
cancels a slew raises E:0x0104 for it; a new offset that replaces the remainder of a slew raises no second E:0x0103 (DESIGN CHOICE,
log entry 52). -/
def State.applyCorr (s : State) (c : Int) : State :=
  let s := s.updTim fun t => { t with corr := none, corrDue := false }
  if s.stepLimit < (c.natAbs : Int) then
    let s := s.iff (s.flag TIME_STATUS_SLEWING) fun s =>
      ((s.setFlag TIME_STATUS_SLEWING false).updTim fun t => { t with slewLeft := 0 }).event 0x0104 []
    let sh (o : Option Nat) : Option Nat := o.map fun n => ((n : Int) + c).toNat
    let s := s.updTim fun t => { t with count := ((t.count : Int) + c).toNat, lastPps := sh t.lastPps, edge := sh t.edge, floor := 0, ppsRose := none }
    let s := (s.setFldS TIME_LAST_STEP_STEP_MS (clampI (-0x7FFFFFFF) 0x7FFFFFFF (Int.tdiv c 1000000))).setFld TICK_PHASE_PHASE_NS
      (s.tim.count % ms)
    let s := (s.event 0x0102 []).realign
    (s.iff s.tim.corrGnss fun s => (s.setClk 2).updTim fun t => { t with goodRun := 0, farRun := 0 }).fixNext
  else
    let inc := s.slewInc c
    let was := s.flag TIME_STATUS_SLEWING
    let s := (s.advanceBy inc).updTim fun t => { t with slewLeft := c - inc, slewTicked := true }
    let s := (s.setFld TICK_PHASE_PHASE_NS (s.tim.count % ms)).realign
    (if was then s else (s.setFlag TIME_STATUS_SLEWING true).event 0x0103 []).fixNext

/-- SLEW_END: at an SF tick the last increment is added, SLEWING clears and E:0x0104 is raised (R42); a new offset that waits has
replaced what was left (R43). -/
def execSlewEnd (s : State) : Host.Outcome State Fault Refusal :=
  s.live (if s.flag TIME_STATUS_SLEWING && s.tim.corr.isNone && (s.tim.slewLeft == 0 ||
      (!s.tim.slewTicked && decide ((s.tim.slewLeft.natAbs : Int) ≤ s.slewMax))) then
    let s := (s.advanceBy s.tim.slewLeft).updTim fun t => { t with slewLeft := 0, slewTicked := true }
    let s := (s.setFld TICK_PHASE_PHASE_NS (s.tim.count % ms)).setFlag TIME_STATUS_SLEWING false
    ((s.event 0x0104 []).realign).fixNext
  else s)

/-- TIME_LEAP_WRITE: a host write announces a leap second; one whose instant is at or before the count is refused
(R34). -/
def State.hostLeap (s : State) (value : Word) : State :=
  let s := (s.setFld TIME_LEAP_DIR (getBits value 31 31)).setFld TIME_LEAP_AT_DAY (getBits value 15 0)
  if s.fld TIME_LEAP_AT_DAY ≠ 0 ∧ s.leapAt ≤ s.now then (s.setReg R_TIME_LEAP 0).event 0x0111 [] else s

def execTimeLeapWrite (value : Word) (s : State) : Host.Outcome State Fault Refusal := s.live (s.hostLeap value)

/-- A pending leap second is due at this tick (R34). -/
def State.leapDue (s : State) : Bool := s.fld TIME_LEAP_AT_DAY != 0 && decide (s.leapAt ≤ s.tim.count)

/-- The offset changes, E:0x0108 is raised and TIME_LEAP is cleared (R34). The leap second closes nothing: HWM, the latest boundary
that has been processed, keeps its instant of UTC, so its count value moves with those of the boundaries after it (spec/08 R201). -/
def State.applyLeap (s : State) : State :=
  let d := s.leapOfs - s.fldS TIME_UTC_UTC_OFS
  let s : State := { s with leg := { s.leg with hwm := s.leg.hwm.map fun h => ((h : Int) + d * sec).toNat } }
  let skip := s.flag TIME_LEAP_DIR
  let day := s.fld TIME_LEAP_AT_DAY
  let s := (s.setFldS TIME_UTC_UTC_OFS s.leapOfs).iff skip (·.updTim fun t => { t with skipDay := some day })
  ((s.setReg R_TIME_LEAP 0).event 0x0108 []).fixNext

/-- The standby module of a twin pair. -/
def State.isStandby (s : State) : Bool := s.flag CQ_GCFG_TWIN_EN && !s.flag CQ_GCFG_TOK

/-- State a PTP site port takes (R45, R46): 0 disabled, 1 grandmaster, 2 passive on the standby of a twin pair. -/
def State.ptpWanted (s : State) (p : Nat) : Nat :=
  if s.flag (if p = 0 then PTP_CFG0_EN else PTP_CFG1_EN) then (if s.isStandby then 2 else 1) else 0

/-- Bring the PTP ports to the states they take; a change raises E:0x0110 (Table 2.22). -/
def State.ptpRefresh (s : State) : State :=
  s.each (idx 2) fun s p =>
    let old := nth 0 s.tim.ptpPort p
    let new := s.ptpWanted p
    if old = new then s else (s.updTim fun t => { t with ptpPort := t.ptpPort.set p new }).event 0x0110 [p, old, new]

/-- Domain of a PTP port: 0 under the power profile (Tables 2.6 and 2.21). -/
def State.ptpDomain (s : State) (p : Nat) : Nat :=
  if s.flag (if p = 0 then PTP_CFG0_PROFILE else PTP_CFG1_PROFILE) then 0
  else s.fld (if p = 0 then PTP_CFG0_DOMAIN else PTP_CFG1_DOMAIN)

/-- A port under the power profile has DOMAIN forced to 0 (Table 2.21). -/
def State.ptpForce (s : State) : State :=
  (s.iff (s.flag PTP_CFG0_PROFILE) (·.setFld PTP_CFG0_DOMAIN 0)).iff (s.flag PTP_CFG1_PROFILE) (·.setFld PTP_CFG1_DOMAIN 0)

/-- Profile of a PTP port: 1 is the power profile (Table 2.6). -/
def State.ptpProfile (s : State) (p : Nat) : Nat := s.fld (if p = 0 then PTP_CFG0_PROFILE else PTP_CFG1_PROFILE)

/-- PTP_DELAY_REQUEST: a grandmaster port answers the request of its profile's delay mechanism: end-to-end under the
default profile, peer-to-peer under the power profile (R45). -/
def execPtpDelayRequest (port : Fin 2) (peer : Bool) (s : State) : Host.Outcome State Fault Refusal :=
  s.live (if nth 0 s.tim.ptpPort port == 1 && s.pdGood 6 && peer == (s.ptpProfile port == 1)
    then s.updTim fun t =>
      { t with ptpAnswers := upd t.ptpAnswers port (· + 1), ptpAns := t.ptpAns.set port (some ⟨s.ptpDomain port, peer, s.now, peer⟩) }
    else s)

/-- What port `p` sends: the clockClass announced; timeTraceable and frequencyTraceable in LOCKED alone (R45, R46). -/
def State.ptpMsg (s : State) (p : Nat) : PtpMsg :=
  { domain := s.ptpDomain p, prio1 := s.fld (if p = 0 then PTP_CFG0_PRIO1 else PTP_CFG1_PRIO1)
    prio2 := s.fld (if p = 0 then PTP_CFG0_PRIO2 else PTP_CFG1_PRIO2), clkClass := s.fld TIME_STATUS_CLKCLASS
    timeTr := s.clk == 3, freqTr := s.clk == 3, twoStep := true, pdelay := s.ptpProfile p == 1, tai := s.now, ofs := s.utcOfs, l2 := s.ptpProfile p == 1 }

/-- PTP_SYNC_ANNOUNCE: at every 1 s interval every enabled grandmaster port sends its messages (R45). -/
def execPtpSyncAnnounce (s : State) : Host.Outcome State Fault Refusal :=
  s.live (
    if s.timing .ptp && !s.due .ptp sec then s
    else (s.startTimer .ptp).each (idx 2) fun s p => if nth 0 s.tim.ptpPort p == 1 && s.pdGood 6
      then s.updTim fun t => { t with ptpSent := upd t.ptpSent p (· + 1), ptpLast := t.ptpLast.set p (some (s.ptpMsg p)) } else s)

/-- Level of PPS_OUT: a pulse of 100 ms from the whole second at which it rose (R47). -/
def State.ppsHigh (s : State) : Bool :=
  match s.tim.ppsRose with
  | some k => decide (k * sec ≤ s.now ∧ s.now < k * sec + 100 * ms)
  | none => false

/-- The 10 MHz output is the OCXO itself: it runs in every state, while PD0 supplies the OCXO (R27, R47). -/
def State.tenMhz (s : State) : Bool := s.pdOn 0

/-- Count an overrun of a kind of work, and raise E:0x0120 at most once per SF for the kind (R31, R32). Kinds:
0 law, 1 SF-rate CE work, 2 legal commit, and the GC's slots: 3 switch supervision, 4 panels to Mallas frames, 5 background. -/
def State.overrun (s : State) (kind core : Nat) (tell : Bool) : State :=
  let s := s.inc (match kind with
    | 0 => FRM_OVR_CE_LAW | 1 => FRM_OVR_CE_SF | 2 => FRM_OVR_MC_COMMIT | _ => FRM_OVR_GC)
  if tell && !s.tim.ovrTold.contains kind then
    (s.updTim fun t => { t with ovrTold := kind :: t.ovrTold }).event 0x0120
      [core, kind, if kind = 0 then s.tim.cfIndex else s.tim.sfCount]
  else s

/-- The count advances by the ending SF's length and the slew increment `inc`; every timer of legal time with it (R33, R35). -/
def State.sfAdvance (s : State) (inc : Int) : State :=
  let adv := ((s.tim.sfLen : Int) + inc).toNat
  let life := s.tim.life + adv
  { s with
    timers := s.timers.map fun p => (p.1, if p.1 == .trial && (s.mode == 0 || s.mode == 6) then p.2 else p.2 + adv)
    tim :=
      { s.tim with
        count := s.tim.count + adv, advance := life - s.tim.seen, seen := life, life := life, floor := s.now, sfCount := s.tim.sfCount + 1, cfIndex := 0, sub := 0
        slewLeft := s.tim.slewLeft - inc, slewTicked := inc ≠ 0
        corrDue := s.tim.corr.isSome, ovrTold := [] } }

/-- The error bound of holdover grows with an SF of length `len` (R40). -/
def State.sfHold (s : State) (len : Nat) : State :=
  if s.clk == 4 || s.clk == 5 then
    let moved := s.tim.zcMoved || decide (1000 < (s.tim.zcNow - s.tim.zcEntry).natAbs)
    let acc := s.tim.holdAcc + len * (if moved then 10 else 1)
    ((s.updTim fun t => { t with zcMoved := moved, holdAcc := acc }).setSat TIME_HOLD_ERR_ERR_NS (acc / 86400000000)).iff
      (s.clk == 4 && decide (10000 * 86400000000 < acc)) (·.setClk 5)
  else s

/-- A PPS edge without its message by 950 ms after it is no fix (R38). -/
def State.sfEdge (s : State) : State :=
  match s.tim.edge with
  | some e => s.iff (decide (e + 950 * ms < s.tim.count)) (·.invalidPps)
  | none => s

/-- The clock at an SF tick: the count advances by the ending SF's length and the slew increment, the last one being
left to SLEW_END; PPS_OUT rises at a whole second; the next SF is lengthened while no link is aligned (R33, R40, R42, R44, R47). -/
def State.sfTickTime (s : State) : State :=
  let len := s.tim.sfLen
  let old := s.tim.count
  let slewing := s.flag TIME_STATUS_SLEWING && s.tim.corr.isNone && decide (s.slewMax < (s.tim.slewLeft.natAbs : Int))
  let s := (s.sfAdvance (if slewing then s.slewInc s.tim.slewLeft else 0)).ppsRise old
  let s := ((s.setFld TICK_PHASE_PHASE_NS (s.tim.count % ms)).updTim fun t => { t with sfLen := ms }).realign
  ((s.sfHold len).sfEdge).fixNext

/-- The legal clock after a start (R36, R43, R44): its state, no slew and no pending correction, the SF tick aligned. The CF is
1 µs until a commit selects another; the CF ticks already counted keep their instants. -/
def State.startClock (s : State) (totalLoss : Bool) (rtcNs : Nat) : State :=
  let s := (s.setFlag TIME_STATUS_SLEWING false).updTim fun t =>
    { t with
      corr := none, setBy := none, corrDue := false, slewLeft := 0, goodRun := 0, farRun := 0, missRun := 0, r39Run := 0
      r39Told := false, lastPps := none, edge := none, edgeLeap := none, floor := s.now, sfCount := 0, sfLen := ms
      cfIndex := s.inSf / 1000, sub := s.inSf % 1000
      cfSel := 0, longFibre := false }
  let s := (s.setReg R_FRM_STATUS (regReset R_FRM_STATUS))
  let s := if totalLoss then
      let s := s.updTim fun t => { t with count := t.count + rtcNs, cfIndex := 0, sub := 0, holdAcc := 0 }
      let s := (s.setFld TIME_OFFSET_OFS_NS 0).setFlag TIME_STATUS_GNSS_OK false
      (s.setClk 0).setFlag TIME_STATUS_VALID false
    else match s.clk with
      | 2 => s.setClk 1
      | 3 => s.setClk 4
      | 6 => s.setClkV 1 (s.flag TIME_STATUS_VALID)
      | _ => s
  s.realign

end Sys2Proof.Machine
end

