-- ==== Sys2Proof/Machine/Moves.lean ====
section
/-!
DEFINITION. The frame sequencer's part in moving blocks between outputs (spec/05 R123 to R128).
-/

namespace Sys2Proof.Machine

open Sys2Proof

/-- Change the part of sharing that no register holds. -/
def State.updSh (s : State) (f : ShareSt → ShareSt) : State := { s with sh := f s.sh }

/-- The move of link `n`. -/
def State.mv (s : State) (n : Nat) : Move := nth Move.rest s.sh.moves n

/-- Change the move of link `n`. -/
def State.updMv (s : State) (n : Nat) (f : Move → Move) : State := s.updSh fun h => { h with moves := upd h.moves n f }

/-- Output that map 1 names for link `n` in the front buffer of exchange table 2 (R77). -/
def State.mapOf (s : State) (n : Nat) : Option Nat := nth none s.sh.t2.map n

/-- A register word in the front buffer of exchange table 4 (spec/01 Table 1.4). -/
def State.t4At (s : State) (off : Nat) : Word := ((s.sh.t4.find? fun p => p.1 == off).map (·.2)).getD 0

/-- Step of the block of link `n` (Table 5.2). -/
def State.mvStep (s : State) (n : Nat) : Nat := s.fld (MX_ASG_STEP n)

/-- The link is left out of every assignment: after an aborted move or after frozen feedback (R101, R127). -/
def State.excluded (s : State) (n : Nat) : Bool :=
  s.linkBit R_MX_EXCL_LO R_MX_EXCL_HI n ||
    (match s.linkLane n with
     | some l => bit (s.fld (CE_EXCL_LANE (s.linkCe n))) l
     | none => false)

/-- Block lane of link `n`. -/
def State.bl (s : State) (n : Nat) : BlockLane :=
  match s.linkLane n with
  | some l => nth BlockLane.rest (s.ce (s.linkCe n)).blocks l
  | none => BlockLane.rest

/-- Change the block lane of link `n`. -/
def State.updBl (s : State) (n : Nat) (f : BlockLane → BlockLane) : State :=
  match s.linkLane n with
  | some l => s.updCe (s.linkCe n) fun e => { e with blocks := upd e.blocks l f }
  | none => s

/-- Mask `i` of the hardware masks K0 to K3 as it stands. -/
def State.hwMask (s : State) (c i : Nat) : Word := nth 0 (s.ce c).com.k i

/-- The block lane of link `n` is in K1. -/
def State.inK1 (s : State) (n : Nat) : Bool :=
  match s.linkLane n with
  | some l => inMask (s.hwMask (s.linkCe n) 1) l
  | none => false

/-- Take a lane out of K1. -/
def State.dropK1 (s : State) (c lane : Nat) : State :=
  s.updCe c fun e => { e with com := { e.com with
    k := upd e.com.k 1 fun w => BitVec.ofNat 32 (setBit w.toNat lane false) } }

/-- CFs of a share ramp: BLK_SF SFs (R95). -/
def State.rampCfs (s : State) (c : Nat) : Nat := s.fld (CE_SOFT_BLK_SF c) * cfPerSf s.tim.cfSel

/-- Contactors that read back closed (Table 3.8). -/
def State.closedCts (s : State) (n : Nat) : List Nat := (idx 8).filter fun k => bit (s.lk n).mxState k

/-- Show a step and a destination in MX_ASGn. -/
def State.showStep (s : State) (n st : Nat) (dest : Option Nat) : State :=
  (s.setFld (MX_ASG_STEP n) st).setFld (MX_ASG_DEST n) (dest.getD 15)

/-- The output to which a block without a move belongs: the one whose contactor reads closed, or the pool (R127). -/
def State.belongs (s : State) (n : Nat) : Option Nat := (s.closedCts n).head?

/-- Abandon a move without exclusion: E:0x0404, and what R127 states for its step: a block at JOIN is the pool's to assign again (R124,
R125). `ended` marks the end of the destination's session. -/
def State.moveAbandon (s : State) (n : Nat) (ended : Bool) : State :=
  let st := s.mvStep n
  let s := s.updMv n fun m => { m with resume := 0 }
  if st = 0 then s.updMv n fun m => { m with start := 0 }
  else
    let s := ((s.showStep n 0 none).stopTimer (.moveStep n)).event 0x0404 [n]
    if st = 1 then
      (s.updBl n fun b => { b with rampLeft := s.rampCfs (s.linkCe n) }).updMv n fun m =>
        { m with dest := none, start := 0 }
    else
      let home := if st = 5 then none else s.belongs n
      let s := s.updMv n fun m =>
        { m with
          dest := home, start := 0, unmap := home.isNone, joinDue := false, joinMapped := false
          reenter := home.isSome }
      s.iff (ended && st == 5) fun s => s.sendCmd n cmdDisable 0

/-- Abort a move: the block stays disabled and is left out of every assignment, E:0x0403 (R127). -/
def State.moveAbort (s : State) (n : Nat) : State :=
  let s := ((s.showStep n 0 none).stopTimer (.moveStep n)).updMv n fun m =>
    { m with dest := none, start := 0, resume := 0, unmap := true, joinDue := false, joinMapped := false, reenter := false }
  (s.setLinkBit R_MX_EXCL_LO R_MX_EXCL_HI n true).event 0x0403 [n]

/-- A move of a link that frozen feedback has excluded goes no further: no step of it is commanded, and the allocator unmaps the
block (R101). -/
def State.moveDrop (s : State) (n : Nat) : State :=
  ((s.showStep n 0 none).stopTimer (.moveStep n)).updMv n fun m =>
    { m with dest := none, start := 0, resume := 0, joinDue := false, joinMapped := false, reenter := false, closeDue := false }

/-- MX_CLOSE goes out once no contactor but the destination's reads closed (R123, Table 5.2). -/
def State.closeStep (s : State) (n : Nat) : State :=
  let m := s.mv n
  if m.closeDue && s.mvStep n == 4 && (s.closedCts n).all (fun k => m.dest == some k) then
    (s.updMv n fun m => { m with closeDue := false }).sendCmd n cmdMxClose (m.dest.getD 0)
  else s

/-- Begin step DISABLE, OPEN or CLOSE of a move: its command goes out in 4 frames (R56, R126). CLOSE waits while another
contactor reads closed (R123). -/
def State.beginStep (s : State) (n st : Nat) : State :=
  let m := s.mv n
  let s := (s.showStep n st m.dest).startTimer (.moveStep n)
  match st with
  | 2 => s.sendCmd n cmdDisable 0
  | 3 => s.sendCmd n cmdMxOpen (m.src.getD 0)
  | 4 => (s.updMv n fun m => { m with closeDue := true }).closeStep n
  | _ => s

/-- MOVE_STEP_END: the step's end condition is met and the next step begins (Table 5.2). -/
def State.moveStepEnd (s : State) (n : Nat) : State :=
  let m := s.mv n
  match s.mvStep n with
  | 1 => if (s.bl n).weight == 0 || !s.inK1 n then s.beginStep n 2 else s
  | 2 => if s.bst n = 1 then (if m.src.isSome then s.beginStep n 3 else s.beginStep n 4) else s
  | 3 =>
    if m.src.all (fun k => !bit (s.lk n).mxState k) then
      let s := s.updMv n fun m => { m with unmap := true, src := none }
      if m.dest.isNone then (s.showStep n 0 none).stopTimer (.moveStep n) else s.beginStep n 4
    else s
  | 4 =>
    if m.dest.any (fun k => bit (s.lk n).mxState k) then
      ((s.showStep n 5 m.dest).stopTimer (.moveStep n)).updMv n fun m => { m with joinDue := true }
    else s
  | 5 =>
    if !m.joinDue && s.inK1 n && (s.bl n).rampLeft == 0 then
      ((s.showStep n 0 none).updMv n fun m => { m with dest := none, reenter := false }).event 0x0402 [n]
    else s
  | _ => s

/-- Limit of a step in ns (Table 5.2): DISABLE 2 ms, OPEN and CLOSE 60 ms. -/
def stepLimit : Nat → Nat
  | 2 => 2 * ms
  | _ => 60 * ms

def execMoveStepEnd (link : Fin 48) (s : State) : Host.Outcome State Fault Refusal :=
  s.live (s.moveStepEnd link)

/-- MOVE_STEP_TIMEOUT: DISABLE, OPEN or CLOSE has exceeded its limit, so the move is aborted (R127). -/
def execMoveStepTimeout (link : Fin 48) (s : State) : Host.Outcome State Fault Refusal :=
  s.live (if 2 ≤ s.mvStep link && s.mvStep link ≤ 4 && s.due (.moveStep link) (stepLimit (s.mvStep link))
    then s.moveAbort link else s)

/-- MX_EXCL_CLEAR: bits written as 1 clear; the blocks return to the pool (R127). -/
def State.mxExclClear (s : State) (lo hi : Word) : State :=
  let s := s.setReg R_MX_EXCL_LO (s.reg R_MX_EXCL_LO &&& ~~~lo)
  s.setReg R_MX_EXCL_HI (s.reg R_MX_EXCL_HI &&& ~~~hi)

def execMxExclClear (lo hi : Word) (s : State) : Host.Outcome State Fault Refusal := s.live (s.mxExclClear lo hi)

/-- CE_EXCL_CLEAR: bits written as 1 clear; the lanes are frozen no longer (R101). -/
def State.ceExclClear (s : State) (c : Nat) (mask : Word) : State :=
  let s := s.setReg (R_CE_EXCL c) (s.reg (R_CE_EXCL c) &&& ~~~mask)
  s.updCe c fun e =>
    { e with
      blocks := e.blocks.mapIdx fun i b => if inMask mask i then { b with frozen := false, sameRun := 0 } else b }

def execCeExclClear (ce : Fin 2) (mask : Word) (s : State) : Host.Outcome State Fault Refusal :=
  s.live (s.ceExclClear ce mask)

end Sys2Proof.Machine
end

