-- ==== Sys2Proof/Machine/Links.lean ====
section
/-!
DEFINITION. The commands of the Choquin links: upstream frames, training, link loss, START, RETRAIN and the stop line
(spec/03).
-/

namespace Sys2Proof.Machine

open Sys2Proof

/-- A link leaves ALIGNED or ACTIVE: its lane leaves K1 and its move is abandoned (R98, R127). -/
def State.leaveService (s : State) (n : Nat) : State :=
  let s := match s.linkLane n with
    | some l => s.dropK1 (s.linkCe n) l
    | none => s
  s.moveAbandon n false

/-- Take a link to TRAIN from any state (Table 3.15). -/
def State.retrainNow (s : State) (n : Nat) : State :=
  let was := s.usable n
  (s.toTrain n).iff was (·.leaveService n)

/-- A retrain: a command under way leaves in its 4 frames first, since no TRAIN frame may carry it (R56, R445). -/
def State.retrainLink (s : State) (n : Nat) : State :=
  if (s.lk n).cmdLeft = 0 then s.retrainNow n else s.updLk n fun l => { l with retrainDue := true }

/-- Take a link to LOCK: it holds no measured delay (Table 3.15). -/
def State.toLock (s : State) (n : Nat) : State :=
  (((s.setLst n 1).stopTimer (.train n)).stopTimer (.silent n)).updLk n fun l =>
    { l with
      failed := false, useqKnown := false, validRun := 0, invalidRun := 0, measOk := false, tags := 0
      disabling := false, startSent := false, cmdLeft := 0, cmdNext := [], drainAt := none, retrainDue := false, stopAligned := false }

/-- The module judges the link's upstream frames under R66: it holds a measured delay (R445, R73). -/
def State.judges (s : State) (n : Nat) : Bool := s.alignedLink n

/-- An invalid upstream frame, counted in `cnt` (R66); in TRAIN frames are not judged (R445). -/
def State.badFrame (s : State) (n : Nat) (cnt : Option Fld) : State :=
  let s := s.updLk n fun l => { l with judged := true, valid := false, validRun := 0, driftRun := 0 }
  if s.judges n then
    let s := match cnt with
      | some f => s.inc f
      | none => s
    let s := s.updLk n fun l => { l with invalidRun := l.invalidRun + 1 }
    if (s.lk n).told204 then s
    else (s.updLk n fun l => { l with told204 := true }).event 0x0204 [n]
  else s

/-- Auxiliary word of an upstream frame (Table 3.9). -/
def State.upAux (s : State) (n : Nat) (u : UpFields) : State :=
  let s := s.updLk n fun l => { l with tags := if 1 ≤ u.tag ∧ u.tag ≤ 10 then setBit l.tags u.tag true else l.tags }
  match u.tag with
  | 1 => s.setFld ⟨R_CQ_ID_LO n, 11, 0⟩ u.data
  | 2 => s.setFld ⟨R_CQ_ID_LO n, 23, 12⟩ u.data
  | 3 => (s.setFld ⟨R_CQ_ID_LO n, 31, 24⟩ u.data).setFld ⟨R_CQ_ID_HI n, 3, 0⟩ (u.data / 256)
  | 4 => s.setFld ⟨R_CQ_ID_HI n, 15, 4⟩ u.data
  | 6 => s.updLk n fun l => { l with rated := u.data }
  | 7 => s.setFld (CQ_DELAY_TURN n) u.data
  | 8 => s.updLk n fun l => { l with tu := u.data }
  | 9 =>
    let f := sext 12 u.data
    (s.setFldS (CQ_BLK_FREQ n) f).updLk n fun l => { l with clkRun := if 1000 < f.natAbs then l.clkRun + 1 else 0 }
  | 10 => s.updLk n fun l => { l with protVer := u.data }
  | _ => s

/-- CQ_BLK.FAULT keeps the last fault code; 0x000 is none (Tables 3.10 and 3.23; DEDUCED, log entry 25). -/
def State.faultCode (s : State) (n code : Nat) : State := if code = 0 then s else s.setFld (CQ_BLK_FAULT n) code

/-- The fault report of a frame: E:0x020B with the code at the first frame that carries it after FLT rises or the code
changes, at most once per SF; E:0x020C and E:0x020D by code; a refused matrix command aborts the move (R73, R127). -/
def State.upFault (s : State) (n : Nat) (u : UpFields) : State :=
  let rose := u.flt && !s.flag (CQ_STATE_FLT n)
  let fresh := u.flt && (rose || (s.lk n).fltNew)
  if u.flt && u.tag == 5 then
    let report := fresh || s.fld (CQ_BLK_FAULT n) != u.data
    let s := (s.faultCode n u.data).updLk n fun l => { l with fltNew := false }
    if report then
      let s := s.iff (!(s.lk n).told20B) fun s =>
        (s.updLk n fun l => { l with told20B := true }).event 0x020B [n, u.data]
      if u.data = 5 then
        s.iff (s.lk n).lastMx fun s => (s.event 0x020C [n, u.data]).iff (2 ≤ s.mvStep n && s.mvStep n ≤ 4) (·.moveAbort n)
      else if u.data = 6 then s.event 0x020C [n, u.data]
      else if u.data = 7 then s.event 0x020D [n, u.data] else s
    else s
  else
    let s := s.iff (u.tag == 5) (·.faultCode n u.data)
    s.updLk n fun l => { l with fltNew := fresh }

/-- Take a frame's fields: the block's declarations and sample (Tables 3.7, 3.8, 3.20). -/
def State.takeFrame (s : State) (n : Nat) (u : UpFields) : State :=
  let s := (s.upAux n u).upFault n u
  let s := s.updLk n fun l =>
    { l with
      imeas := u.imeas, vout := u.vout, vdc := u.vdc, temp := u.temp, iavail := u.iavail, mxState := u.mx
      srcEcho := u.srcEcho, useqKnown := true, missed := 0 }
  let s := ((s.setFld (CQ_STATE_DSEQ n) u.dseq).setFld (CQ_STATE_USEQ n) u.useq).setFlag (CQ_STATE_OBEYS n)
    (u.srcEcho == s.fld CQ_GCFG_SRC_ID)
  ((s.setFlag (CQ_STATE_FLT n) u.flt).setFld (CQ_STATE_BSTATE n) u.bstate).setFld (MX_ASG_MX_STATE n) u.mx

/-- All of tags 0x1 to 0xA have come (R445). -/
def tagsAll : Nat := 0x7FE

/-- State changes that a valid NORMAL frame brings (Table 3.15, R445). ALIGNED goes to ACTIVE on a block in RUN once this module's own
last command is ENABLE: whose ENABLE counts after a commanded passing is not given (DESIGN CHOICE, log entry 69). -/
def State.linkNext (s : State) (n : Nat) (u : UpFields) : State :=
  let l := s.lk n
  match s.lst n with
  | 2 =>
    if l.measOk && !l.failed && l.tags == tagsAll && (u.bstate == 1 || s.isStandby)
    then ((s.setLst n 3).stopTimer (.train n)).updLk n fun l => { l with invalidRun := 0, driftRun := 0, clkRun := 0 }
    else s
  | 3 => s.iff (u.bstate == 2 && l.cmd == cmdEnable) (·.setLst n 4)
  | 4 => s.iff (u.bstate == 1) (·.setLst n 3)
  | 5 => s.iff (u.bstate == 1 && l.startSent) fun s => (s.setLst n 3).stopTimer (.silent n)
  | 6 => s.iff (u.bstate == 1 && l.startSent && !l.stopLine && l.stopAligned) (·.setLst n 3)
  | _ => s

/-- A frame that the block sampled, at the tick of its CF, 20 µs or more after the first STOP left plus F, and whose BSTATE is not STOP:
the block failed to stop (R69). From START on it leaves STOP by command (DEDUCED, log entry 69). -/
def State.failedToStop (s : State) (n : Nat) (u : UpFields) : State :=
  let l := s.lk n
  if s.lst n == 6 && !l.startSent && !l.stopTold && u.bstate != 6
      && decide ((l.stopAt + 20000) * 10 + s.fld (CQ_DELAY_DLY n) ≤ (s.tim.life + s.tim.cfIndex * cfNs s.tim.cfSel) * 10)
  then (s.updLk n fun l => { l with stopTold := true }).event 0x020F [n] else s

/-- A valid upstream frame whose first character came `dev` ns after tick + F + TU (R63, R66). That one of TYPE TRAIN outside TRAIN
carries no sample, ends the run of invalid frames and is counted nowhere is a DESIGN CHOICE (log entry 57). -/
def State.goodFrame (s : State) (n : Nat) (u : UpFields) (dev : Int) : State :=
  let s := (s.takeFrame n u).updLk n fun l =>
    { l with judged := true, valid := u.type == 0, invalidRun := 0, validRun := if u.type = 0 then l.validRun + 1 else 0 }
  let s := s.updLk n fun l => { l with driftRun := if s.usable n && decide (8 < dev.natAbs) then l.driftRun + 1 else 0 }
  (s.failedToStop n u).iff (u.type == 0) (·.linkNext n u)

/-- A frame's last character is decoded after the start of the window (R59): the deserialiser is taken to need its maximum of
24 ns (DESIGN CHOICE, log entry 57). -/
def State.lateFrame (s : State) (n : Nat) (dev : Int) : Bool :=
  decide (((winStart s.tim.cfSel s.tim.longFibre * 10 : Nat) : Int)
    < (s.fld (CQ_DELAY_DLY n) : Int) + 10 * ((s.lk n).tu + 144 + 24 + dev))

/-- The USEQ check of R66. -/
def State.useqOk (s : State) (n : Nat) (u : UpFields) : Bool :=
  !(s.lk n).useqKnown || u.useq == (s.fld (CQ_STATE_USEQ n) + (s.lk n).missed) % 256

/-- The frame of this CF whose 144 bits have come (R55, R66). -/
def State.judgeFrame (s : State) (n : Nat) (f : BitVec 144) (dev : Int) : State :=
  let u := upDecode f
  if s.judges n && s.lateFrame n dev then s.badFrame n (some (CQ_ERR_MISS n))
  else if !upCrcOk f then (s.iff (s.judges n) (·.faultSeen 4)).badFrame n (some (CQ_ERR_CRC n))
  else if 2 ≤ u.type then s.badFrame n none
  else if s.judges n && !s.useqOk n u then
    (s.event 0x0206 [n]).badFrame n (some (CQ_ERR_SEQ n))
  else s.goodFrame n u dev

/-- A frame of this CF that was aborted (R54). It is counted with the code violations, also where a permitted K-symbol aborted it
(DESIGN CHOICE, log entry 57); a violation counts in every state with comma alignment (R53, R66). -/
def State.abortFrame (s : State) (n : Nat) : State := (s.inc (CQ_ERR_CODE n)).badFrame n none

/-- The characters of this CF (R52 to R54): every error outside the first frame counts; the first frame is judged, and in a CF that has
been judged already its abort counts alone (R66). -/
def State.upChars (s : State) (n : Nat) (cs : List (BitVec 10)) (dev : Int) : State :=
  let r := rxRun 18 (s.lk n).rxRd (cs.map (·.toNat))
  let s := s.updLk n fun l => { l with rxRd := r.rd }
  let s := s.setSat (CQ_ERR_CODE n) (s.fld (CQ_ERR_CODE n) + r.stray)
  if (s.lk n).judged then s.iff (r.got == some none) (·.inc (CQ_ERR_CODE n))
  else
    let s := s.iff (s.lst n == 5 && r.any) (·.startTimer (.silent n))
    match r.got with
    | none => s.badFrame n (some (CQ_ERR_MISS n))
    | some none => s.abortFrame n
    | some (some bs) => s.judgeFrame n (BitVec.ofNat 144 (leNat bs.reverse)) dev

/-- UPSTREAM_FRAME: judge the frame of this CF (R53 to R55, R66, R445). -/
def State.upstreamFrame (s : State) (n : Nat) (a : UpArrival) : State :=
  if s.lst n == 0 || s.lst n == 1 then s
  else match a with
    | .chars cs dev => s.upChars n cs dev
    | .missing => if (s.lk n).judged then s else s.badFrame n (some (CQ_ERR_MISS n))
    | .violation => if (s.lk n).judged then s.inc (CQ_ERR_CODE n) else (s.iff (s.lst n == 5) (·.startTimer (.silent n))).abortFrame n
    | .frame f dev => if (s.lk n).judged then s else (s.iff (s.lst n == 5) (·.startTimer (.silent n))).judgeFrame n f dev

def execUpstreamFrame (link : Fin 48) (arrival : UpArrival) (s : State) : Host.Outcome State Fault Refusal :=
  s.live (s.upstreamFrame link arrival)

/-- A block lane leaves its output: its share weight is 0 from the next CF, E:0x0311 (R98). -/
def State.laneDropped (s : State) (n : Nat) : State :=
  match s.linkLane n with
  | some l =>
    if s.inK1 n then
      ((s.dropK1 (s.linkCe n) l).updBl n fun b => { b with weight := 0, rampLeft := 0 }).event 0x0311 [s.linkCe n, l, n]
    else s
  | none => s

/-- Three consecutive invalid CFs on the link or on its lane (R66, R98). -/
def State.threeInvalid (s : State) (n : Nat) : Bool :=
  decide (3 ≤ (s.lk n).invalidRun) || (s.lst n == 4 && decide (3 ≤ (s.bl n).invalidRun))

/-- LINK_LOST (R66, R98, R127). -/
def State.linkLost (s : State) (n : Nat) : State :=
  if s.usable n && s.threeInvalid n then
    let s := (s.setLst n 5).event 0x0205 [n]
    let s := (s.updLk n fun l =>
      { l with
        disabling := true, cmdLeft := 0, cmdNext := [], useqKnown := false, validRun := 0, startSent := false, drainAt := none
        retrainDue := false }).startTimer (.silent n)
    (s.laneDropped n).moveAbandon n false
  else s

def execLinkLost (link : Fin 48) (s : State) : Host.Outcome State Fault Refusal := s.live (s.linkLost link)

/-- ARRIVAL_DRIFT: 16 consecutive CFs outside ±8 ns: E:0x0208, DISABLE, then a retrain (R63). -/
def execArrivalDrift (link : Fin 48) (s : State) : Host.Outcome State Fault Refusal :=
  s.live (if s.usable link && (s.lk link).drainAt.isNone && decide (16 ≤ (s.lk link).driftRun) then
    ((s.event 0x0208 [link]).sendCmd link cmdDisable 0).updLk link fun l => { l with driftRun := 0, drainAt := some s.age }
  else s)

/-- A retrain that waits: after an arrival drift until the current is at the zero threshold or 1 ms has passed (R63), and in any
case until the commands under way have left (R56). -/
def State.drainDone (s : State) (n : Nat) : State :=
  let l := s.lk n
  let due := match l.drainAt with
    | some t => decide (l.imeas.natAbs ≤ s.zeroThr n ∨ t + ms ≤ s.age)
    | none => l.retrainDue
  s.iff (due && l.cmdLeft == 0) (·.retrainNow n)

/-- BLOCK_CLOCK_FAULT: two consecutive reports beyond 100 ppm: E:0x0207, to TRAIN (R64). -/
def execBlockClockFault (link : Fin 48) (s : State) : Host.Outcome State Fault Refusal :=
  s.live (if s.usable link && decide (2 ≤ (s.lk link).clkRun) then (s.event 0x0207 [link]).retrainLink link else s)

/-- COMMA_LOCK: LOCK to TRAIN (Table 3.15). -/
def execCommaLock (link : Fin 48) (s : State) : Host.Outcome State Fault Refusal :=
  s.live (if s.lst link == 1 then s.toTrain link else s)

/-- F in 0.1 ns from the sum of 256 round trips in ns and TE (R60). -/
def delayOf (sum te : Nat) : Int := divRound ((sum : Int) * 5 - te * 1280) 256

/-- TRAIN_MEASUREMENT: 256 round trips with their least and greatest value, in ns (R60). A block whose clock is still
outside ±100 ppm is not accepted (R64). That a computed F below 0 is out of range is a DESIGN CHOICE (log entry 57). -/
def execTrainMeasurement (link : Fin 48) (sum least most : Nat) (s : State) : Host.Outcome State Fault Refusal :=
  s.live (
    let l := s.lk link
    if s.lst link == 2 && !l.failed && !l.measOk then
      let te := s.fld (CQ_DELAY_TURN link)
      let f := delayOf sum te
      let out := decide (f < 0 ∨ (maxDelay s.tim.cfSel s.tim.longFibre : Int) < f)
      let ok := !out && decide (most ≤ least + 4 ∧ 16 ≤ te ∧ te ≤ 200 ∧ l.tu ≤ 40) && bit l.tags 7 && bit l.tags 8
        && decide ((s.fldS (CQ_BLK_FREQ link)).natAbs ≤ 1000)
      (s.setSat (CQ_DELAY_DLY link) f.toNat).updLk link fun l => { l with measOk := ok, fOut := out }
    else s)

/-- TRAIN_TIMEOUT: not complete within 100 ms; the link pauses 1 s (Table 3.15). -/
def execTrainTimeout (link : Fin 48) (s : State) : Host.Outcome State Fault Refusal :=
  s.live (if s.lst link == 2 && s.due (.train link) (100 * ms) then
    let s := s.event (if (s.lk link).fOut then 0x0202 else 0x0203) [link]
    ((s.stopTimer (.train link)).startTimer (.retry link)).updLk link fun l => { l with failed := true }
  else s)

/-- LINK_RETRY: 1 s after a failed training the link returns to LOCK (Table 3.15). -/
def execLinkRetry (link : Fin 48) (s : State) : Host.Outcome State Fault Refusal :=
  s.live (if s.lst link == 2 && (s.lk link).failed && s.due (.retry link) sec
    then (s.stopTimer (.retry link)).toLock link else s)

/-- LINK_SILENT: a LOST link without valid characters for 1 ms returns to LOCK (Table 3.15). -/
def execLinkSilent (link : Fin 48) (s : State) : Host.Outcome State Fault Refusal :=
  s.live (if s.lst link == 5 && s.due (.silent link) ms then s.toLock link else s)

/-- The states in which START is due: LOST, STOP after release, TRAIN with a block in LOST or STOP, and on a twin that has
taken the token ALIGNED with a block in LOST (R68, R72, R445). -/
def State.startDue (s : State) (n : Nat) : Bool :=
  let l := s.lk n
  decide (16 ≤ l.validRun) && !l.startSent &&
    (s.lst n == 5 || (s.lst n == 6 && !l.stopLine && l.stopAligned)
      || (s.lst n == 3 && s.bst n == 5 && s.flag CQ_GCFG_TWIN_EN && s.flag CQ_GCFG_TOK)
      || (s.lst n == 2 && l.measOk && !l.failed && (s.bst n == 5 || s.bst n == 6)))

/-- START_SEND: START goes out in 4 frames after 16 consecutive valid frames (R56, R68, R445). -/
def execStartSend (link : Fin 48) (s : State) : Host.Outcome State Fault Refusal :=
  s.live (if s.startDue link then
    (s.sendCmd link cmdStart 0).updLk link fun l => { l with startSent := true, disabling := false }
  else s)

/-- RETRAIN: accepted in LOCK, TRAIN, ALIGNED and LOST, refused in ACTIVE and STOP (Table 3.19); ignored for a link that is not
fitted (spec/00 R2). -/
def State.hostRetrain (s : State) (n : Nat) : State :=
  if s.nLinks ≤ n then s else
  match s.lst n with
  | 1 | 2 | 3 | 5 => ((s.stopTimer (.retry n)).stopTimer (.silent n)).retrainLink n
  | 4 | 6 => s.event 0x020E [n, s.lst n]
  | _ => s

def execRetrain (link : Fin 48) (s : State) : Host.Outcome State Fault Refusal := s.live (s.hostRetrain link)

/-- Instant at which the first STOP of a link leaves: how far the CF in progress has come when the line is asserted is a free value
(R69, log entry 58). -/
def State.stopStart (s : State) (n : Nat) : Nat :=
  s.age + Config.stopInstant s.age n % max 1 (s.tickNs - s.tim.sub)

/-- Take one link to STOP (Table 3.15). -/
def State.stopLink (s : State) (n why : Nat) : State :=
  let first := s.lst n != 6
  let at' := if (s.lk n).freeing then (s.lk n).stopAt else s.stopStart n
  let from' := s.lst n
  let held := from' == 3 || from' == 4 || from' == 5
  let s := s.updLk n fun l => { l with stopBy := if l.stopBy.contains why then l.stopBy else l.stopBy ++ [why] }
  let s := s.iff first fun s =>
    (s.setLst n 6).updLk n fun l => { l with stopAligned := held }
  let s := s.updLk n fun l =>
    { l with
      stopAt := at', stopTold := false, validRun := 0, invalidRun := 0, startSent := false, cmdLeft := 0, cmdNext := []
      disabling := false, drainAt := none, retrainDue := false, freeing := false
      tx := if l.freeing then l.tx else l.tx ++ [(1, .stop)] }
  let s := (((s.stopTimer (.train n)).stopTimer (.retry n)).stopTimer (.silent n)).setLinkBit R_CQ_STOP_LO R_CQ_STOP_HI n true
  s.iff first (·.leaveService n)

/-- Assert the stop line for links, for one reason: links that are OFF send nothing; E:0x0209 carries the lowest of the links whose line
was not asserted yet and all of them as masks, and the cupping buffers of KIND 5 on their CEs trigger (R68, R104). -/
def State.stopLines (s : State) (ns : List Nat) (why : Nat) : State :=
  let live := ns.filter fun n => s.lst n != 0
  let old := live.filter fun n => (s.lk n).stopLine
  let new := live.filter fun n => !(s.lk n).stopLine
  let s := s.each old fun s n => s.updLk n fun l =>
    { l with stopBy := if l.stopBy.contains why then l.stopBy else l.stopBy ++ [why] }
  if new.isEmpty then s
  else
    let s := (s.each new fun s n => s.stopLink n why).event 0x0209 (new.headD 0 :: linkMasks new)
    let ces := (idx 2).filter fun c => new.any fun n => s.linkCe n == c
    s.each (allCups.filter fun p => ces.contains p.1 && s.fld (CUP_TRIG_KIND p.1 p.2) == 5) fun s p => s.cupTrigger p.1 p.2

/-- Release the stop line for the links and the reason given; where nothing else asserts it, E:0x020A, and a link that
held no delay goes to LOCK (R68, Table 3.15). The serialiser sends STOP until the next CF tick, and CQ_STOP shows it. -/
def State.releaseLines (s : State) (ns : List Nat) (why : Nat) : State :=
  let had := ns.filter fun n => (s.lk n).stopLine
  let s := s.each had fun s n => s.updLk n fun l => { l with stopBy := l.stopBy.filter (· != why) }
  let freed := had.filter fun n => !(s.lk n).stopLine
  if freed.isEmpty then s
  else
    let s := s.each freed fun s n => s.updLk n fun l => { l with validRun := 0, startSent := false, freeing := true }
    let s := s.event 0x020A (freed.headD 0 :: linkMasks freed)
    s.each freed fun s n => s.iff (s.lst n == 6 && !(s.lk n).stopAligned) (·.toLock n)

/-- The output that a link's stop line is asserted for: the output it serves; 10 for a block of the pool (R446). -/
def State.stopReason (s : State) (n : Nat) : Nat :=
  match s.mapOf n with
  | some j => j
  | none => (s.belongs n).getD 10

/-- STOP_LINE_ASSERT: the stop line is asserted for links of one cause (R68). -/
def execStopLineAssert (links : List (Fin 48)) (s : State) : Host.Outcome State Fault Refusal :=
  s.live (
    let ls := links.map (·.val)
    let whys := (ls.map s.stopReason).eraseDups
    s.each whys fun s' w => s'.stopLines (ls.filter fun n => s.stopReason n == w) w)

/-- The last fast-path current of output `j` in mA. -/
def State.fastI (s : State) (j : Nat) : Int :=
  match s.outLane j with
  | some l => (nth OutLane.rest (s.ce (s.outCe j)).outs l).iMa
  | none => 0

/-- The stop line that the Safety Island asserts for an output is released once its pair reads off and its fast-path
current is at or below 2 A; that of the safe state by the same rule once the module has left SAFE (R446). -/
def State.releaseOutput (s : State) (j : Nat) : State :=
  if !s.pairReads j && decide ((s.fastI j).natAbs ≤ 2000) then
    let s := (s.releaseLines (idx 48) j).releaseLines (idx 48) 10
    s.iff (!s.isl.safe) fun s =>
      s.releaseLines ((idx 48).filter fun n => s.stopReason n == j || s.stopReason n == 10) 8
  else s

/-- STOP_LINE_RELEASE (R446). -/
def execStopLineRelease (out : Fin 8) (s : State) : Host.Outcome State Fault Refusal := s.live (s.releaseOutput out)

/-- A link at a CF tick: its block samples, and the frame of a new CF is awaited (R59). -/
def LinkSt.cfNew (l : LinkSt) : LinkSt :=
  { l with prevValid := l.valid, valid := false, judged := false, missed := l.missed + 1 }

/-- The serialisers of the links that are on, at a CF tick; one that has been released resumes (R68). -/
def State.linkSend (s : State) (n : Nat) : State :=
  if s.lst n == 0 || !s.pdGood 7 then s
  else
    let s := s.iff ((s.lk n).freeing && !(s.lk n).stopLine) (·.setLinkBit R_CQ_STOP_LO R_CQ_STOP_HI n false)
    s.updLk n fun l => l.cfTick (cfChars s.tim.cfSel) (if s.tim.cfIndex = 0 then .sfsync else .sync)

/-- The links at a CF tick: SYNC goes out, a new CF's frames are awaited, and retrains and matrix commands that wait may go (R28, R53, R59,
R63, R123);
from here on a new holder claims the token (R72). -/
def State.linksCf (s : State) : State :=
  let s : State := { s with links := s.links.map LinkSt.cfNew, linkc := { s.linkc with tokWait := false } }
  let s := (s.each (idx s.nLinks) (·.linkSend)).each (idx s.nLinks) (·.drainDone)
  s.each (idx s.nLinks) (·.closeStep)

/-- The links at an SF tick: events that come at most once per SF may come again (R66, R73). -/
def State.linksSf (s : State) : State :=
  { s with links := s.links.map (fun (l : LinkSt) => { l with told204 := false, told20B := false }) }

/-- A frame that has not come by the start of the window is missing (R59, R66). -/
def State.missFrames (s : State) (c : Nat) : State :=
  s.each ((idx s.nLinks).filter fun n => s.linkCe n == c && s.lst n != 0 && s.lst n != 1 && !(s.lk n).judged) fun s n =>
    s.badFrame n (some (CQ_ERR_MISS n))

end Sys2Proof.Machine
end

