-- ==== Sys2Proof/Machine/Sharing.lean ====
section
/-!
DEFINITION. The allocator's slot, block assignment, derating and cable cooling (spec/05). Powers inside the allocator
are exact fractions in units of 0.1 mW, that is 1 mV × 0.1 A.
-/

namespace Sys2Proof.Machine

open Sys2Proof

/-- An exact fraction, reduced, with a positive denominator. -/
structure Q where
  num : Int
  den : Nat
deriving DecidableEq, Repr

/-- The reduced fraction `n / d`; 0 for `d = 0`. -/
def Q.mk' (n : Int) (d : Nat) : Q :=
  if d = 0 then ⟨0, 1⟩ else let g := Nat.gcd n.natAbs d; ⟨n / g, d / g⟩

def Q.ofInt (n : Int) : Q := ⟨n, 1⟩
def Q.add (x y : Q) : Q := Q.mk' (x.num * y.den + y.num * x.den) (x.den * y.den)
def Q.sub (x y : Q) : Q := Q.mk' (x.num * y.den - y.num * x.den) (x.den * y.den)
def Q.mul (x y : Q) : Q := Q.mk' (x.num * y.num) (x.den * y.den)
def Q.div (x y : Q) : Q :=
  if y.num = 0 then ⟨0, 1⟩ else if y.num < 0 then Q.mk' (-(x.num * y.den)) (x.den * y.num.natAbs)
  else Q.mk' (x.num * y.den) (x.den * y.num.natAbs)
def Q.lt (x y : Q) : Bool := decide (x.num * y.den < y.num * x.den)
def Q.le (x y : Q) : Bool := !(Q.lt y x)
def Q.min (x y : Q) : Q := if Q.lt y x then y else x
def Q.floor (x : Q) : Int := x.num / x.den
def Q.sum (l : List Q) : Q := l.foldl Q.add ⟨0, 1⟩

/-- 1 kW and 1 W in the allocator's unit. -/
def kwU : Int := 10000000
def wU : Int := 10000

/-- Split `total` in proportion to the weights, each share rounded down and the rest handed out one by one to the
largest discarded fractions, a tie going to the earlier entry (R95, R115). -/
def shareOut (total : Nat) (w : List Nat) : List Nat :=
  let sum := w.foldl (· + ·) 0
  if sum = 0 then w.map fun _ => 0
  else
    let base := w.map fun x => total * x / sum
    let frac := w.map fun x => total * x % sum
    let rest := total - base.foldl (· + ·) 0
    let rank (i : Nat) : Nat :=
      let fi := nth 0 frac i
      ((idx w.length).filter fun k => fi < nth 0 frac k || (nth 0 frac k == fi && k < i)).length
    (idx w.length).map fun i => nth 0 base i + (if rank i < rest ∧ nth 0 w i ≠ 0 then 1 else 0)

/-- Exchange table 0 entry of output `j` in the front buffer. -/
def State.t0 (s : State) (j : Nat) : VehRow := nth VehRow.rest s.sh.t0 j

/-- Derating factor f of output `j` as a fraction (R130). -/
def State.derateOf (s : State) (j : Nat) : Nat × Nat := nth (1, 1) s.sh.derate j

/-- f is below 1. -/
def State.derated (s : State) (j : Nat) : Bool := decide ((s.derateOf j).1 < (s.derateOf j).2)

/-- Derated cable rating of output `j` in 0.1 A (Table 5.1 bit 0). -/
def State.ratingOf (s : State) (j : Nat) : Int :=
  let r := if s.flag (OUT_STAT_COOL_FAIL j) then s.fld (OUT_IRAT_I_UNCOOLED j) else s.fld (OUT_IRAT_I_COOLED j)
  ((r * 10 * (s.derateOf j).1 / (s.derateOf j).2 : Nat) : Int)

/-- Links whose blocks the output has: named in map 1, in no move that leaves it, not excluded. -/
def State.blocksOf (s : State) (j : Nat) : List Nat :=
  (idx s.nLinks).filter fun n => s.mapOf n == some j && !s.excluded n

/-- A block is leaving its output: a move with another destination has started or will start. -/
def State.leaving (s : State) (n : Nat) : Bool :=
  let m := s.mv n
  (s.mvStep n != 0 && s.mvStep n != 5) || m.start != 0

/-- The front row of link `n` in exchange table 3, from which the allocator takes block states and IAVAIL (spec/01 R18). -/
def State.lrow (s : State) (n : Nat) : LinkRow := nth LinkRow.rest s.sh.t3l n

/-- The block of link `n` is reported usable: its link ALIGNED or ACTIVE and its lane not frozen (R127, R128). -/
def State.seenUsable (s : State) (n : Nat) : Bool :=
  let r := s.lrow n
  (r.lst == 3 || r.lst == 4) && !r.frozen

/-- IAVAIL of link `n` in 25 mA; a block that is not usable counts for nothing (R128). -/
def State.iavailOf (s : State) (n : Nat) : Nat := if s.seenUsable n then (s.lrow n).iavail else 0

/-- Blocks of output `j` whose lanes are reported in K1. -/
def State.runBlocks (s : State) (j : Nat) : List Nat := (s.blocksOf j).filter fun n => (s.lrow n).run

/-- Sum of IAVAIL over the output's block lanes in K1, in 0.1 A (Table 5.1 bit 3). -/
def State.k1Iavail (s : State) (j : Nat) : Int :=
  ((s.runBlocks j).foldl (fun a n => a + (s.lrow n).iavail) 0 / 4 : Nat)

/-- The clamp register of the active allocator for output `j`, in 0.1 A (spec/01 R19). -/
def State.allocClamp (s : State) (j : Nat) : Nat := nth 0 (nth [] s.sh.clampA (s.fld SH_STATUS_ACTIVE)) j

/-- An output takes part: the module runs, and table 0 reports energy transfer (R111). -/
def State.takesPart (s : State) (j : Nat) : Bool := s.running && (s.t0 j).xfer && s.flag (OUT_CFG_EN j)

/-- The terms of Table 5.1 but the grant's, with their bits. -/
def State.limTerms (s : State) (j : Nat) : List (Nat × Int) :=
  [(0, s.ratingOf j), (2, ((s.t0 j).iMax : Int)), (3, s.k1Iavail j), (4, (s.allocClamp j : Int))]

/-- Lowest of a list of terms. -/
def lowest (l : List (Nat × Int)) : Int :=
  match l with
  | [] => 0
  | x :: t => t.foldl (fun a p => min a p.2) x.2

/-- ILIM without the grant term, 0 for an output that takes no part (R110, R111). -/
def State.ilim0 (s : State) (j : Nat) : Int := if s.takesPart j then max 0 (lowest (s.limTerms j)) else 0

/-- Members of bundle `b` in the session for which it is active, while two or more share it, or before that in the first session that
two or more share; one that is reported failed has left it (R114, R116). -/
def State.bndMembers (s : State) (b : Nat) : List Nat :=
  let ms := (idx s.nOuts).filter fun j => bit (s.fld (BND_CFG_MEMBERS b)) j && (s.t0 j).join != 0
    && !(nth SumRow.rest s.sh.t3 j).failed
  let mates (j : Nat) : List Nat := ms.filter fun k => (s.t0 k).join == (s.t0 j).join
  let of := if nth false s.sh.bndActive b then ms.filter (bit (s.fld (BND_STAT_IN_SESSION b))) else ms
  match of.find? fun j => decide (2 ≤ (mates j).length) with
  | none => []
  | some j => mates j

/-- Members in session of bundle `b` while it is active (R114). -/
def State.bndNow (s : State) (b : Nat) : List Nat := if nth false s.sh.bndActive b then s.bndMembers b else []

/-- Voltage limit in 0.1 V and power limit in kW of an output; every member of an active bundle receives the lowest voltage limit
of its members (R110, R115). -/
def State.vlimOwn (s : State) (j : Nat) : Nat := min (s.fld (OUT_CFG_VMAX j) * 10) (s.t0 j).vMax
def State.vlimOf (s : State) (j : Nat) : Nat :=
  match (idx 4).find? fun b => (s.bndNow b).contains j with
  | some b => (s.bndNow b).foldl (fun a k => min a (s.vlimOwn k)) 65535
  | none => s.vlimOwn j
def State.plimOf (s : State) (j : Nat) : Nat := min 3750 (s.t0 j).pMax

/-- A consumer of R117. -/
structure Cons where
  outs : List Nat
  bnd : Option Nat
  cls : Nat
  /-- Planning voltage in mV and wanted current in 0.1 A. -/
  v : Nat
  w : Int
  lim : Int
  dis : Bool
  /-- Target voltage in 0.1 V: the lowest of the members' (spec/06 R153). No rule lets it bound the demand. -/
  vTgt : Nat
  /-- Demand, feed fractions and power. -/
  d : Q
  a0 : Q
  a1 : Q
  p : Q
deriving DecidableEq, Repr

/-- No consumer. -/
def Cons.rest : Cons := ⟨[], none, 0, 0, 0, 0, false, 0, ⟨0, 1⟩, ⟨0, 1⟩, ⟨0, 1⟩, ⟨0, 1⟩⟩

/-- Feed of link `n`. -/
def State.feedOf (s : State) (n : Nat) : Nat := s.fld (MX_WIRE_FEED n)

/-- A block in the pool: enabled, in no output and no move, not excluded (R124, R125). -/
def State.inPool (s : State) (n : Nat) : Bool :=
  s.linkBit R_CQ_EN_LO R_CQ_EN_HI n && (nth none s.sh.t2b.map n).isNone && s.mvStep n == 0 && (s.mv n).start == 0
    && !s.excluded n && !(s.mv n).reenter

/-- Contactor to output `j` is wired at link `n` (R123). -/
def State.wired (s : State) (n j : Nat) : Bool := bit (s.fld (MX_WIRE_WIRED n)) j

/-- Feed fractions of a consumer (R118). -/
def State.feedFracs (s : State) (outs : List Nat) : Q × Q :=
  let own := outs.flatMap s.blocksOf
  let bl := if own.isEmpty then (idx s.nLinks).filter (fun n => s.inPool n && outs.any (s.wired n)) else own
  let f0 := bl.filter fun n => s.feedOf n == 0
  let sum (l : List Nat) := l.foldl (fun a n => a + s.iavailOf n) 0
  if bl.isEmpty then (⟨0, 1⟩, ⟨0, 1⟩)
  else
    let (x, y) := if sum bl = 0 then (f0.length, bl.length) else (sum f0, sum bl)
    (Q.mk' x y, Q.mk' ((y : Int) - x) y)

/-- Connector voltage for planning, in mV: the highest of the members, or the limit below 50 V (R117). -/
def State.planV (s : State) (outs : List Nat) (vlim : Nat) : Nat :=
  let v := outs.foldl (fun a j => max a (nth SumRow.rest s.sh.t3 j).vMv) 0
  if v < 50000 then vlim * 100 else v.toNat

/-- Make a consumer of its outputs. -/
def State.mkCons (s : State) (outs : List Nat) (bnd : Option Nat) : Cons :=
  let tgt := outs.foldl (fun a j => a + (s.t0 j).iTgt) 0
  let sumI := outs.foldl (fun a j => a + s.ilim0 j) 0
  let sumMax : Int := outs.foldl (fun a j => a + (s.t0 j).iMax) 0
  let vl := outs.foldl (fun a j => min a (s.vlimOf j)) 65535
  let pl := match bnd with
    | some _ => min 15000 (outs.foldl (fun a j => a + (s.t0 j).pMax) 0)
    | none => outs.foldl (fun a j => min a (s.plimOf j)) 3750
  let lim := match bnd with
    | some _ => min 120000 (min sumI sumMax)
    | none => sumI
  let dis := tgt < 0
  let sumDis : Int := outs.foldl (fun a j => a + (s.t0 j).idMax) 0
  let sumPd := outs.foldl (fun a j => a + (s.t0 j).pdMax) 0
  let lim := if dis then
      min (outs.foldl (fun a j => a + min (s.ratingOf j) (min (s.k1Iavail j) (s.allocClamp j))) 0) sumDis
    else lim
  let pl := if dis then min pl sumPd else pl
  let w := min (tgt.natAbs : Int) (max 0 lim)
  let v := s.planV outs vl
  let fr := s.feedFracs outs
  { outs := outs, bnd := bnd, cls := outs.foldl (fun a j => max a (s.fld (OUT_CFG_PRIO j))) 0, v := v, w := w
    lim := lim, dis := dis, vTgt := ((outs.map fun j => (s.t0 j).vTgt).min?).getD 0, d := Q.min (Q.ofInt (v * w)) (Q.ofInt (pl * kwU)), a0 := fr.1, a1 := fr.2, p := ⟨0, 1⟩ }

/-- The consumers of the slot: active bundles, then the outputs in transfer of no active bundle (R117). -/
def State.consumers (s : State) : List Cons :=
  let bs := (idx 4).filterMap fun b =>
    let m := (s.bndNow b).filter s.takesPart
    if m.isEmpty then none else some (s.mkCons m (some b))
  let inB := bs.flatMap (·.outs)
  bs ++ ((idx s.nOuts).filter fun j => s.takesPart j && !inB.contains j).map fun j => s.mkCons [j] none

/-- Site budget in the allocator's unit (R117). -/
def State.siteBudget (s : State) : Q :=
  let cap := if s.sh.t5.published then s.sh.t5.cap else 0
  let b := min 32000 (min (s.fld SH_SITE_CFG_SITE_PCAP) cap)
  if s.sh.t5.deg then Q.mk' (b * kwU * s.sh.t5.pDeg) 100 else Q.ofInt (b * kwU)

/-- Measured output power of a consumer in the allocator's unit. -/
def State.consP (s : State) (c : Cons) : Int :=
  c.outs.foldl (fun a j => a + (nth MetRow.rest s.sh.t1 j).pMw * 10) 0

/-- Output-side budget of feed `f` (R121). -/
def State.feedBudget (s : State) (f : Nat) (cs : List Cons) : Q :=
  let eta := s.fld (FEED_CFG_ETA f)
  let a (c : Cons) := if f = 0 then c.a0 else c.a1
  let chg := Q.sum ((cs.filter fun c => !c.dis).map fun c =>
    Q.mul (a c) (Q.mk' (s.consP c * 1000) eta))
  let base := Q.sub (Q.ofInt ((nth FeedRow.rest s.sh.feeds f).p * wU)) chg
  let top := Q.mk' (s.fld (FEED_CFG_PLIM f) * kwU * s.fld (FEED_STAT_HFACT f)) 100
  let b := Q.mul (Q.sub top base) (Q.mk' eta 1000)
  if Q.lt b ⟨0, 1⟩ then ⟨0, 1⟩ else b

/-- Powers granted so far. -/
structure Fill where
  cs : List Cons
  u0 : Q
  u1 : Q
  sum : Q
deriving DecidableEq, Repr

/-- The inner loop of the allocation in one class: raise every unsatisfied consumer by the same amount until a budget
binds (R118). -/
def fillClass (b b0 b1 : Q) : Nat → List Nat → Fill → Fill
  | 0, _, f => f
  | n + 1, set, f =>
    match set with
    | [] => f
    | i :: t =>
      if Q.le b f.sum then f
      else
        let c (k : Nat) := nth Cons.rest f.cs k
        let room (k : Nat) := Q.sub (c k).d (c k).p
        let dp := t.foldl (fun a k => Q.min a (room k)) (room i)
        let dp := Q.min dp (Q.div (Q.sub b f.sum) (Q.ofInt set.length))
        let s0 := Q.sum (set.map fun k => (c k).a0)
        let s1 := Q.sum (set.map fun k => (c k).a1)
        let dp := if 0 < s0.num then Q.min dp (Q.div (Q.sub b0 f.u0) s0) else dp
        let dp := if 0 < s1.num then Q.min dp (Q.div (Q.sub b1 f.u1) s1) else dp
        let f : Fill :=
          { cs := f.cs.mapIdx fun k x => if set.contains k then { x with p := Q.add x.p dp } else x
            u0 := Q.add f.u0 (Q.mul s0 dp), u1 := Q.add f.u1 (Q.mul s1 dp)
            sum := Q.add f.sum (Q.mul dp (Q.ofInt set.length)) }
        let set := set.filter fun k =>
          let x := nth Cons.rest f.cs k
          Q.lt x.p x.d && !(Q.le b0 f.u0 && decide (0 < x.a0.num)) && !(Q.le b1 f.u1 && decide (0 < x.a1.num))
        fillClass b b0 b1 n set f

/-- Discharge grants: the export that each feed still allows on the consumer's share, after conversion; a consumer with a share on
neither feed has no export that PEXP allows (R119). PEXP stands on the grid side: it is divided by ETA (DESIGN CHOICE, log entry 71). -/
def State.fillDischarge (s : State) (cs : List Cons) : List Cons :=
  let ex (f : Nat) : Q := Q.div (Q.ofInt (s.fld (FEED_EXP_PEXP f) * kwU)) (Q.mk' (s.fld (FEED_CFG_ETA f)) 1000)
  (cs.foldl (fun (acc : List Cons × Q × Q) c =>
    if c.dis then
      let lim (a e : Q) (p : Q) := if 0 < a.num then Q.min p (Q.div e a) else p
      let p := if c.a0.num ≤ 0 ∧ c.a1.num ≤ 0 then ⟨0, 1⟩ else lim c.a1 acc.2.2 (lim c.a0 acc.2.1 c.d)
      (acc.1 ++ [{ c with p := p }], Q.sub acc.2.1 (Q.mul c.a0 p), Q.sub acc.2.2 (Q.mul c.a1 p))
    else (acc.1 ++ [c], acc.2)) ([], ex 0, ex 1)).1

/-- The allocation of one slot (R118, R119). -/
def State.allocate (s : State) : Fill × Q × Q × Q :=
  let cs := s.fillDischarge s.consumers
  let b := s.siteBudget
  let b0 := s.feedBudget 0 cs
  let b1 := s.feedBudget 1 cs
  let f : Fill := ⟨cs, ⟨0, 1⟩, ⟨0, 1⟩, ⟨0, 1⟩⟩
  let f := [3, 2, 1, 0].foldl (fun f cls =>
    let set := (idx f.cs.length).filter fun i =>
      match f.cs[i]? with
      | some c => c.cls == cls && !c.dis && decide (0 < c.d.num)
      | none => false
    fillClass b b0 b1 40 set f) f
  (f, b, b0, b1)

/-- Grant of a consumer in 0.1 A, negative for discharge; no rise during the supply-warning hold (R118 to R120). -/
def Cons.grant (c : Cons) : Int :=
  let g := if c.v = 0 then 0 else (Q.div c.p (Q.ofInt c.v)).floor
  if c.dis then -g else g

/-- The budgets hold a charging consumer below its demand. -/
def Cons.cut (c : Cons) : Bool := !c.dis && Q.lt c.p c.d

/-- Bits 1 and 6 of LIMBY: f is below 1, cooling has failed (R110). -/
def State.limbyHeat (s : State) (j : Nat) : Nat := 2 * b2n (s.derated j) + 64 * b2n (s.flag (OUT_STAT_COOL_FAIL j))

/-- Apply a consumer's grant to its outputs' rows of the limit table (R110, R115). -/
def State.grantRows (s : State) (c : Cons) : List (Nat × LimRow × Nat) :=
  let held (j : Nat) (g : Int) : Int :=
    let old := (nth LimRow.rest s.sh.t2.outs j).g
    if s.holding then (if c.dis then max g (min old 0) else min g (max old 0)) else g
  let gs : List Int := match c.bnd with
    | none => [c.grant]
    | some _ =>
      let sh := shareOut c.grant.natAbs (c.outs.map fun j => (s.ilim0 j).toNat)
      sh.map fun (x : Nat) => if c.dis then -(x : Int) else (x : Int)
  (c.outs.zip gs).map fun (j, g) =>
    let g := held j g
    let terms := s.limTerms j ++ (if c.cut then [(5, (g.natAbs : Int))] else [])
    let il := max 0 (lowest terms)
    let by' := terms.foldl (fun a p => if p.2 = il then setBit a p.1 true else a) 0
    (j, ⟨g, il, s.vlimOf j, s.plimOf j⟩, by' + s.limbyHeat j)

/-- The row of an output that takes no part: G = 0 and ILIM = 0, whose bits are those of the terms that are 0 (R110, R111). -/
def State.idleRow (s : State) (j : Nat) : LimRow × Nat :=
  (⟨0, 0, s.vlimOf j, s.plimOf j⟩,
    (s.limTerms j).foldl (fun a p => if p.2 = 0 then setBit a p.1 true else a) 0 + s.limbyHeat j)

/-- Power of a current at a planning voltage, in kW. -/
def powKw (v : Nat) (i : Int) : Int := Int.tdiv (v * i) kwU

/-- Write grants and limits into the back buffer of table 2 and into the output, bundle and site registers. -/
def State.publishGrants (s : State) (f : Fill) : State :=
  let rows := f.cs.flatMap s.grantRows
  let s := s.each (idx 8) fun s j =>
    let (r, by', v) : LimRow × Nat × Nat := match rows.find? fun p => p.1 == j with
      | some (_, r, b) => (r, b, s.planV [j] (s.vlimOf j))
      | none => ((s.idleRow j).1, (s.idleRow j).2, 0)
    let s := s.updSh fun h => { h with t2b := { h.t2b with outs := h.t2b.outs.set j r } }
    let s := ((s.setFldS (OUT_GRANT_VAL j) r.g).setFldS (OUT_ILIM_VAL j) r.ilim).setFld (OUT_STAT_LIMBY j) by'
    let s := (s.setFldS (OUT_PWR_GRANT j) (powKw v r.g)).setFldS (OUT_PWR_MEAS j)
      (Int.tdiv (nth MetRow.rest s.sh.t1 j).pMw 1000000)
    s.setSat (OUT_STAT_NBLK j) (s.runBlocks j).length
  s.each (idx 4) fun s b =>
    let ms := s.bndNow b
    let mem := rows.filter fun p => ms.contains p.1
    let g := mem.foldl (fun a p => a + p.2.1.g) 0
    let il := mem.foldl (fun a p => a + p.2.1.ilim) 0
    let tr := ms.filter fun j => (s.t0 j).xfer
    let mx : Int := tr.foldl (fun a j => a + (s.t0 j).iMax) 0
    let row : LimBnd :=
      if ms.isEmpty then LimBnd.rest
      else ⟨true, ms, g, min 120000 (min il mx), ms.foldl (fun a j => min a (s.vlimOwn j)) 65535,
        min 15000 (tr.foldl (fun a j => a + (s.t0 j).pMax) 0)⟩
    let s := s.updSh fun h => { h with t2b := { h.t2b with bnds := h.t2b.bnds.set b row } }
    (s.setFldS (BND_GRANT_VAL b) row.g).setFldS (BND_ILIM_VAL b) row.ilim

/-- One minute of legal time in ns. -/
def minuteNs : Nat := 60 * sec

/-- Report the budgets, and raise E:0x040A and E:0x040D where one binds, again at most every 60 s (R121, R134). -/
def State.reportBudgets (s : State) (f : Fill) (b b0 b1 : Q) : State :=
  let unsat (g : Cons → Bool) : Bool := f.cs.any fun c => c.cut && g c
  let bindS := Q.le b f.sum && unsat fun _ => true
  let bindF (k : Nat) : Bool :=
    if k = 0 then Q.le b0 f.u0 && unsat fun c => decide (0 < c.a0.num) else Q.le b1 f.u1 && unsat fun c => decide (0 < c.a1.num)
  let kw (q : Q) : Nat := (Q.div q (Q.ofInt kwU)).floor.toNat
  let s := (s.setSat SH_SITE_P_BUDGET (kw b)).setSat SH_SITE_P_ALLOC (kw f.sum)
  let s := (s.setSat (FEED_STAT_BUDGET 0) (kw b0)).setSat (FEED_STAT_BUDGET 1) (kw b1)
  let s := (s.setFlag SH_STATUS_SITE_LIM bindS).setFlag SH_STATUS_DEG s.sh.t5.deg
  let s := s.setFld SH_STATUS_FEED_LIM (b2n (bindF 0) + 2 * b2n (bindF 1))
  let s := s.setFld SH_STATUS_FEED_HARM
    (b2n (decide (s.fld (FEED_STAT_HFACT 0) < 100)) + 2 * b2n (decide (s.fld (FEED_STAT_HFACT 1) < 100)))
  let again (o : Option Nat) : Bool := match o with
    | none => true
    | some t => decide (t + minuteNs ≤ s.age)
  let s := if bindS then
      s.iff (again s.sh.siteTold) fun s => (s.updSh fun h => { h with siteTold := some s.age }).event 0x040D []
    else s.updSh fun h => { h with siteTold := none }
  s.each (idx 2) fun s k =>
    if bindF k then
      s.iff (again (nth none s.sh.feedTold k)) fun s =>
        (s.updSh fun h => { h with feedTold := h.feedTold.set k (some s.age) }).event 0x040A [k]
    else s.updSh fun h => { h with feedTold := h.feedTold.set k none }

/-- The harmonic factor takes a window's result in the first slot after it appears in table 1, where it is NEW, and acts on it
once (R122, spec/07 R179). -/
def State.harmFactor (s : State) : State :=
  s.each (idx 2) fun s f =>
    let w := (nth FeedRow.rest s.sh.feeds f).win
    let r := if w.new && w.no != nth 0 s.sh.harmUsed f then w.verdict else 0
    let h := s.fld (FEED_STAT_HFACT f)
    let s := s.iff w.new fun s => s.updSh fun x => { x with harmUsed := x.harmUsed.set f w.no }
    if s.fld (FEED_HCTL_IR f) = 0 then s.setFld (FEED_STAT_HFACT f) 100
    else if r = 1 then
      (s.setFld (FEED_STAT_HFACT f) (max (s.fld (FEED_HCTL_FLOOR f)) (h - s.fld (FEED_HCTL_STEP f)))).event 0x040B [f]
    else if r = 2 ∧ h < 100 then
      (s.setFld (FEED_STAT_HFACT f) (h + 1)).iff (h + 1 == 100) fun s => s.event 0x040C [f]
    else s

/-! ### Block assignment (R124 to R128) -/

/-- Wanted current of output `j` for the need judgement in 0.1 A, LIMBY bits 3 and 5 left out (R124). -/
def State.needLim (s : State) (j : Nat) : Int :=
  max 0 (min (s.ratingOf j) (min ((s.t0 j).iMax : Int) (s.allocClamp j : Int)))

/-- Wanted current of a consumer for the judgement: the lower of the vehicle's target and the limit of the other terms (R124). -/
def State.needW (s : State) (c : Cons) : Nat :=
  let tgt := c.outs.foldl (fun a j => a + (s.t0 j).iTgt) 0
  let lim := c.outs.foldl (fun a j => a + (s.needLim j).toNat) 0
  min tgt.natAbs (if c.bnd.isSome then min 120000 lim else lim)

/-- Wanted currents of the outputs in transfer: an output's own, or a member's share of its bundle's (R124). A need of a bundle as
a consumer is a need of one of its members, since their wanted currents sum to its own. -/
def State.needs (s : State) (cs : List Cons) : List (Nat × Nat) :=
  cs.flatMap fun c =>
    match c.bnd with
    | none => c.outs.map fun j => (j, s.needW c)
    | some _ => c.outs.zip (shareOut (s.needW c) (c.outs.map fun j => (s.needLim j).toNat))

/-- Class, and lowest member number, of the consumer that output `j` belongs to. -/
def consOf (cs : List Cons) (j : Nat) : Option Cons := cs.find? fun c => c.outs.contains j

/-- The capacity in 25 mA meets a wanted current in 0.1 A with its margin (R124). -/
def State.meets (s : State) (cap w : Nat) : Bool := decide (w * 4 * (100 + s.fld SH_ASSIGN_MARGIN) ≤ cap * 100)

/-- Blocks that serve output `j`: its own without those that leave, and those on their way to it (R124). -/
def State.serving (s : State) (j : Nat) : List Nat :=
  (idx s.nLinks).filter fun n =>
    !s.excluded n && ((s.mapOf n == some j && !s.leaving n) ||
      ((s.mv n).dest == some j && (s.mvStep n != 0 || (s.mv n).start != 0 || (s.mv n).reenter)))

/-- Blocks of a consumer or of a member, given its outputs, each of which could leave it now, highest link first; a block in a move or
one that is not usable is no surplus (R124, R128). Each block is judged by itself against the blocks that remain (DESIGN CHOICE, log
entry 71). -/
def State.spare (s : State) (outs : List Nat) (w : Nat) : List Nat :=
  let own := (idx s.nLinks).filter fun n =>
    outs.any (fun j => (s.blocksOf j).contains n) && !s.leaving n && s.mvStep n == 0 && s.seenUsable n
  let total := own.foldl (fun a n => a + s.iavailOf n) 0
  own.reverse.filter fun n => s.meets (total - s.iavailOf n) w

/-- Count the time for which each block could leave its consumer, and its member output of a bundle (R124). -/
def State.countSpare (s : State) (cs : List Cons) (needs : List (Nat × Nat)) : State :=
  let can := cs.flatMap fun c => s.spare c.outs (s.needW c)
  let mem := needs.flatMap fun p => s.spare [p.1] p.2
  let tick (can : List Nat) (n t : Nat) : Nat := if can.contains n then t + s.tim.advance else 0
  s.updSh fun h => { h with surplusNs := h.surplusNs.mapIdx (tick can), memberNs := h.memberNs.mapIdx (tick mem) }

/-- RELEASE in ns (R124). -/
def State.releaseNs (s : State) : Nat := s.fld SH_ASSIGN_RELEASE * 100 * ms

/-- Decide a move of link `n` to output `j`, by what exchange table 3 reports of the block; it starts at the next SF tick (R125, R126,
spec/01 R18). -/
def State.decideMove (s : State) (n : Nat) (dest : Option Nat) : State :=
  let src := match s.mapOf n with
    | some j => some j
    | none => (idx 8).find? fun k => bit (s.lrow n).mx k
  let st := if (s.mapOf n).isSome && ((s.lrow n).run || (s.lrow n).bst == 2 || (s.lrow n).bst == 3) then 1
    else if (s.mapOf n).isSome then 2 else if src.isSome then 3 else 4
  s.updMv n fun m => { m with src := src, dest := dest, start := st, reenter := false }

/-- First block that may serve a need of output `j`, in the order of R125. -/
def State.findSource (s : State) (cs : List Cons) (needs : List (Nat × Nat)) (j : Nat) : Option Nat :=
  let me := consOf cs j
  let fits (n : Nat) : Bool := s.wired n j && s.linkCe n == s.outCe j
  let pool := ((idx s.nLinks).filter fun n => s.inPool n && s.seenUsable n && fits n).head?
  let held (ns : List Nat) (l : List Nat) : Option Nat :=
    (l.filter fun n => decide (s.releaseNs ≤ nth 0 ns n) && fits n).head?
  let ofCons (c : Cons) : Option Nat := held s.sh.surplusNs (s.spare c.outs (s.needW c))
  let ofMember (k : Nat) : Option Nat := match needs.find? fun p => p.1 == k with
    | some p => held s.sh.memberNs (s.spare [k] p.2)
    | none => none
  let mine := me.elim 0 (·.cls)
  let order (cls : Nat) : List Cons :=
    let of := cs.filter fun c => c.cls == cls && some c != me
    (idx 8).flatMap fun k => of.filter fun c => c.outs.head? == some k
  let mates := match me with
    | some c => if c.bnd.isSome then c.outs.filter (· != j) else []
    | none => []
  pool.orElse fun _ => (((idx mine).flatMap order ++ order mine).filterMap ofCons ++ mates.filterMap ofMember).head?

/-- Moves that count against MAXMOVE on CE `c` in this slot: those decided to serve needs (R125). -/
def State.movesOn (s : State) (c : Nat) : Nat :=
  ((idx 48).filter fun n => s.linkCe n == c && (s.mv n).start != 0 && (s.mv n).dest.isSome).length

/-- Serve the need of one output: one block at a time until met, unserved, MAXMOVE is spent or no move may start. A need that no source
can serve is told in either case (R120, R124, R125). -/
def State.serveNeed (cs : List Cons) (needs : List (Nat × Nat)) (j w : Nat) : Nat → State → State
  | 0, s => s
  | k + 1, s =>
    let cap := (s.serving j).foldl (fun a n => a + s.iavailOf n) 0
    if s.meets cap w then s.setFlag (OUT_STAT_MARGIN_LOW j) false
    else match s.findSource cs needs j with
      | some n =>
        if s.holding || decide (s.fld SH_ASSIGN_MAXMOVE ≤ s.movesOn (s.outCe j)) then s
        else State.serveNeed cs needs j w k (s.decideMove n (some j))
      | none =>
        let s := s.setFlag (OUT_STAT_MARGIN_LOW j) true
        if nth false s.sh.told411 j then s
        else (s.updSh fun h => { h with told411 := h.told411.set j true }).event 0x0411 [j]

/-- Assignment of one slot: surplus times, returns of outputs out of transfer, then needs by class (R111, R125). No move
starts during the supply-warning hold, in which every consumer is judged all the same (R120, R124). -/
def State.assign (s : State) (cs : List Cons) : State :=
  let needs := s.needs cs
  let s := s.countSpare cs needs
  let s := s.each (idx 48) fun s n => match s.mapOf n with
    | some j => s.iff (!s.holding && !s.takesPart j && s.mvStep n == 0 && (s.mv n).start == 0 && !(s.mv n).reenter
        && s.seenUsable n && !s.excluded n) (·.decideMove n none)
    | none => s
  let order := [3, 2, 1, 0].flatMap fun cls => (idx 8).filter fun j => (consOf cs j).any fun c => c.cls == cls
  s.each (order ++ (idx 8).filter fun j => (consOf cs j).isNone) fun s j => match needs.find? fun p => p.1 == j with
    | some p => State.serveNeed cs needs j p.2 48 s
    | none => s.setFlag (OUT_STAT_MARGIN_LOW j) false

/-- Carry the ends of OPEN and CLOSE, exclusions and re-entries into map 1 of the back buffer; where both steps have ended before
the slot, the destination is what map 1 names next (R77, R101, R126, R127). -/
def State.updateMap (s : State) : State :=
  s.each (idx 48) fun s n =>
    let m := s.mv n
    let setMap (s : State) (o : Option Nat) : State := s.updSh fun h => { h with t2b := { h.t2b with map := h.t2b.map.set n o } }
    if s.excluded n then (setMap s none).updMv n fun m => { m with unmap := false, joinDue := false, joinMapped := false }
    else if m.joinDue then (setMap s m.dest).updMv n fun m => { m with unmap := false, joinMapped := true }
    else if m.unmap then (setMap s none).updMv n fun m => { m with unmap := false }
    else if m.reenter && s.mvStep n == 0 then
      if !m.dest.any s.takesPart then (setMap s none).updMv n fun m => { m with reenter := false, dest := none }
      else
        let s := setMap s m.dest
        s.iff (s.seenUsable n) fun s =>
          (s.showStep n 5 m.dest).updMv n fun m => { m with joinDue := true, joinMapped := true, reenter := false }
    else s

/-- Allocated weights: IAVAIL over the sum of the output's usable blocks, as mantissas that sum to 4 194 304 (R95, R126). -/
def State.allocWeights (s : State) : State :=
  s.each (idx 8) fun s j =>
    let bl := (idx 48).filter fun n => nth none s.sh.t2b.map n == some j && !s.excluded n && s.seenUsable n
    let ws := shareOut 4194304 (bl.map fun n => s.iavailOf n)
    s.each (bl.zip ws) fun s p =>
      s.updSh fun h => { h with t2b := { h.t2b with alloc := h.t2b.alloc.set p.1 (p.2 : Int) } }

/-- Capacity lost on an output raises E:0x0410 once per loss (R128). -/
def State.capacityLost (s : State) : State :=
  s.each (idx 48) fun s n => match s.mapOf n with
    | some j =>
      let gone := s.takesPart j && (!s.seenUsable n || s.excluded n)
      if gone && !(s.mv n).told410 then (s.updMv n fun m => { m with told410 := true }).event 0x0410 [j, n]
      else if !gone then s.updMv n fun m => { m with told410 := false } else s
    | none => s.updMv n fun m => { m with told410 := false }

/-- The slot of the active allocator: budgets, grants, limits, block decisions; the limit table is marked complete
(R18, R118). -/
def State.allocSlot (s : State) : State :=
  let s := s.harmFactor
  let (f, b, b0, b1) := s.allocate
  let s := (s.publishGrants f).reportBudgets f b b0 b1
  let s := (((s.capacityLost).assign f.cs).updateMap).allocWeights
  s.updSh fun h => { h with t2Mark := true }

/-- Core of the active allocator: VC0 or VC1 (R12). -/
def State.allocCore (s : State) : Nat := if s.fld SH_STATUS_ACTIVE = 1 then 4 else 3

/-- The slot of the active allocator, once in an SF: from 600 µs to 900 µs after the tick (spec/01 R18). -/
def State.inSlot (s : State) : Bool := decide (600000 ≤ s.inSf ∧ s.inSf < 900000) && !s.sh.t2Mark

/-- ALLOCATOR_SLOT: the VC that runs the active allocator computes the limit table in its slot; a VC that does not run publishes
nothing. -/
def execAllocatorSlot (s : State) : Host.Outcome State Fault Refusal :=
  s.live (if s.coreRuns s.allocCore && s.inSlot then s.allocSlot else s)

/-! ### Derating and cooling (R129 to R132) -/

/-- Linear fall from 1 at `lo` to 0 at `hi`, as a fraction; temperatures in 0.1 °C. -/
def fall (t lo hi : Int) : Nat × Nat :=
  if t ≤ lo then (1, 1) else if hi ≤ t then (0, 1) else ((hi - t).toNat, (hi - lo).toNat)

/-- The lower of two fractions. -/
def fracMin (x y : Nat × Nat) : Nat × Nat := if y.1 * x.2 < x.1 * y.2 then y else x

/-- A fraction in lowest terms. -/
def fracRed (x : Nat × Nat) : Nat × Nat := (x.1 / Nat.gcd x.1 x.2, x.2 / Nat.gcd x.1 x.2)

/-- Reading of the input that has a role: 0 DC+ pin, 1 DC− pin, 2 supply, 3 return (R129). -/
def State.ptRole (s : State) (j role : Nat) : Option Int :=
  let r := s.fld (OUT_PT_ROLE j)
  match (idx 4).find? fun i => r / 4 ^ i % 4 == role with
  | some i => nth none (nth [] s.sh.pt j) i
  | none => none

/-- A set of PT1000 readings of output `j` has been taken since power-up: a reading not yet taken is not an invalid one
(R129, log entry 5). -/
def State.ptRead (s : State) (j : Nat) : Bool := (nth [] s.sh.pt j).length == 4

/-- T_pin of R129 in 0.1 °C, none when both pins are invalid. -/
def State.tPin (s : State) (j : Nat) : Option Int :=
  match s.ptRole j 0, s.ptRole j 1 with
  | some a, some b => some (max a b)
  | some a, none => some (a + 100)
  | none, some b => some (b + 100)
  | none, none => none

/-- T_ret of R129, none when both coolant readings are invalid. -/
def State.tRet (s : State) (j : Nat) : Option Int :=
  match s.ptRole j 3, s.ptRole j 2 with
  | some a, _ => some a
  | none, some b => some (b + (s.fld (OUT_COOLT_DT_MAX j) : Int) * 10)
  | none, none => none

/-- Derating factor before its rate limit (R130). -/
def State.derateNow (s : State) (j : Nat) : Nat × Nat :=
  let fp := match s.tPin j with
    | some t => fall t (s.fld (OUT_DER_T_DR j) * 10 : Nat) (s.fld (OUT_DER_T_ZERO j) * 10 : Nat)
    | none => (0, 1)
  let fc := match s.tRet j with
    | some t => fall t (s.fld (OUT_DER_TC_DR j) * 10 : Nat) (s.fld (OUT_DER_TC_ZERO j) * 10 : Nat)
    | none => (1, 1)
  if s.ptRead j then fracMin fp fc else (1, 1)

/-- Temperature code of OUT_TEMPj: signed °C, 0x80 invalid (Table 5.24). -/
def tempCode : Option Int → Nat
  | some t => enc 8 (clampI (-127) 127 (divRound t 10))
  | none => 0x80

/-- Take new PT1000 readings (0.1 °C) of output `j`: a reading outside −50 °C to +200 °C is invalid and raises E:0x0407
once per occurrence (R129). -/
def State.takePt (s : State) (j : Nat) (raw : List Int) : State :=
  let rd := raw.map fun t => if t < -500 ∨ 2000 < t then none else some t
  let old := nth [] s.sh.pt j
  let s := s.each (idx 4) fun s i =>
    s.iff ((nth none rd i).isNone && ((nth none old i).isSome || old.length != 4) && decide (i < rd.length)) fun s =>
      s.event 0x0407 [j, i]
  let s := s.updSh fun h => { h with pt := h.pt.set j (if rd.length = 4 then rd else old) }
  let s := (s.setFld (OUT_TEMP_PINP j) (tempCode (s.ptRole j 0))).setFld (OUT_TEMP_PINN j) (tempCode (s.ptRole j 1))
  (s.setFld (OUT_TEMP_SUP j) (tempCode (s.ptRole j 2))).setFld (OUT_TEMP_RET j) (tempCode (s.ptRole j 3))

/-- A factor after a rise of 0.02 per second of legal time, over `adv` ns (R130). -/
def riseOf (x : Nat × Nat) (adv : Nat) : Nat × Nat := fracRed (x.1 * 100000000000 + 2 * adv * x.2, x.2 * 100000000000)

/-- Derating of output `j` in an SF: a fall acts at once and a rise is limited; E:0x0405 once per session in which f is below
1, E:0x0406 when it is 1 again (R130). -/
def State.derateStep (s : State) (j : Nat) : State :=
  let was := s.derated j
  let f := fracMin (s.derateNow j) (riseOf (s.derateOf j) s.tim.advance)
  let s := (s.updSh fun h => { h with derate := h.derate.set j f }).setFld (OUT_STAT_DERATE j) (f.1 * 100 / f.2)
  let told := nth false s.sh.derTold j
  if s.derated j && !told && decide (1 ≤ s.sstate j ∧ s.sstate j ≤ 10) then
    (s.updSh fun h => { h with derTold := h.derTold.set j true }).event 0x0405 [j]
  else if was && !s.derated j && told then s.event 0x0406 [j]
  else s

/-- Channel of a cooling role; none where the field holds 0x1F (R131). -/
def psChan (n : Nat) : Option Nat := if n < 24 then some n else none

/-- The pump's conditions hold (R131). -/
def State.pumpNeeded (s : State) (j : Nat) : Bool :=
  s.pairReads j || s.xfer j ||
    (match s.tPin j with
     | some t => decide ((s.fld (OUT_DER_T_DR j) : Int) * 10 - 200 ≤ t)
     | none => false)

/-- A condition of R132 stands at output `j`; an output that is not enabled has no cooling to fail (R109). -/
def State.coolBad (s : State) (j : Nat) : Bool :=
  s.flag (OUT_CFG_EN j) && (decide (2 * sec ≤ nth 0 s.sh.pumpBadNs j) || decide (10 * sec ≤ nth 0 s.sh.dtBadNs j)
    || nth false s.sh.pumpTrip j || (s.ptRead j && (s.tRet j).isNone))

/-- The cooling loop of output `j` in an SF (R131, R132); the pump channel's current comes from the front buffer of exchange
table 4. -/
def State.coolStep (s : State) (j : Nat) : State :=
  let adv := s.tim.advance
  let need := s.pumpNeeded j
  let was := nth false s.sh.pump j
  let ro := nth false s.sh.runOn j
  let s := if need then (s.stopTimer (.runOn j)).updSh fun h => { h with pump := h.pump.set j true, runOn := h.runOn.set j false }
    else if was && !ro then (s.startTimer (.runOn j)).updSh fun h => { h with runOn := h.runOn.set j true }
    else s
  let fan (on : Bool) (tf : Nat) : Bool := match s.tRet j with
    | some t => if (tf * 10 : Nat) ≤ t then true else if t < (tf * 10 : Int) - 50 then false else on
    | none => on
  let s := s.updSh fun h =>
    { h with
      fan1 := h.fan1.set j (fan (nth false h.fan1 j) (s.fld (OUT_COOLT_TF1 j)))
      fan2 := h.fan2.set j (fan (nth false h.fan2 j) (s.fld (OUT_COOLT_TF2 j))) }
  let pumpBad := match psChan (s.fld (OUT_COOL_PUMP j)) with
    | some n =>
      let i := getBits (s.t4At (PS_STAT_I n).reg) (PS_STAT_I n).msb (PS_STAT_I n).lsb
      nth false s.sh.pump j && (decide (i < s.fld (OUT_PUMPW_IMIN j)) || decide (s.fld (OUT_PUMPW_IMAX j) < i))
    | none => false
  let dtBad := match s.ptRole j 3, s.ptRole j 2 with
    | some r, some u => decide ((s.fld (OUT_COOLT_DT_MAX j) : Int) * 10 < r - u)
    | _, _ => false
  let s := s.updSh fun h =>
    { h with
      pumpBadNs := h.pumpBadNs.set j (if pumpBad then nth 0 h.pumpBadNs j + adv else 0)
      dtBadNs := h.dtBadNs.set j (if dtBad then nth 0 h.dtBadNs j + adv else 0) }
  let bad := s.coolBad j
  s.updSh fun h => { h with coolOkNs := h.coolOkNs.set j (if bad then 0 else nth 0 h.coolOkNs j + adv) }

/-- COOLING_FAILED: E:0x0408, and the rating falls to I_UNCOOLED from the next slot (R132). -/
def execCoolingFailed (out : Fin 8) (s : State) : Host.Outcome State Fault Refusal :=
  s.live (if s.coolBad out && !s.flag (OUT_STAT_COOL_FAIL out) then
    ((s.setFlag (OUT_STAT_COOL_FAIL out) true).updSh fun h => { h with coolOkNs := h.coolOkNs.set out 0 }).event 0x0408 [out]
  else s)

/-- COOLING_RESTORED: 60 s without a condition (R132). -/
def execCoolingRestored (out : Fin 8) (s : State) : Host.Outcome State Fault Refusal :=
  s.live (if s.flag (OUT_STAT_COOL_FAIL out) && !s.coolBad out && decide (60 * sec ≤ nth 0 s.sh.coolOkNs out) then
    (s.setFlag (OUT_STAT_COOL_FAIL out) false).event 0x0409 [out]
  else s)

/-- PUMP_RUNON_END: the run-on has expired, so the pump channel is switched off (R131). -/
def execPumpRunonEnd (out : Fin 8) (s : State) : Host.Outcome State Fault Refusal :=
  s.live (if s.due (.runOn out) (s.fld (OUT_COOLT_RUNON out) * 10 * sec) && !s.pumpNeeded out then
    (s.stopTimer (.runOn out)).updSh fun h => { h with pump := h.pump.set out false, runOn := h.runOn.set out false }
  else s)

/-- Bundles at an SF tick: active while two or more members share one session; another session of two or more takes its place only after
its release (R114). -/
def State.bundleTick (s : State) : State :=
  s.each (idx 4) fun s b =>
    let was := nth false s.sh.bndActive b
    let s := s.iff (was && (s.bndMembers b).isEmpty) fun s =>
      (s.updSh fun h => { h with bndActive := h.bndActive.set b false }).event 0x040F [b]
    let ms := s.bndMembers b
    let on := !ms.isEmpty
    let was := nth false s.sh.bndActive b
    let s := (s.updSh fun h => { h with bndActive := h.bndActive.set b on })
    let s := (s.setFlag (BND_STAT_ACTIVE b) on).setFld (BND_STAT_IN_SESSION b) (ms.foldl (fun a j => setBit a j true) 0)
    let s := s.each (idx 8) fun s j =>
      if bit (s.fld (BND_CFG_MEMBERS b)) j then s.setFld (OUT_STAT_BND j) (if ms.contains j then b else 15) else s
    s.iff (on && !was) (·.event 0x040E [b])

/-- The session of output `j` is over, as table 0 reports it: it stands in no state from SETUP to WELDCHECK, and is not lost with a
resumption to come (spec/06 R150, Table 6.7). -/
def State.sessionOver (s : State) (j : Nat) : Bool := !(s.t0 j).held

/-- A move begins at step `st`; at LEAVE the weight of the block falls (Table 5.2). -/
def State.moveFrom (s : State) (n st : Nat) : State :=
  if st = 1 then (s.updBl n fun b => { b with rampLeft := s.rampCfs (s.linkCe n) }).showStep n 1 (s.mv n).dest
  else if st = 5 then (s.showStep n 5 (s.mv n).dest).updMv n fun m => { m with joinDue := true }
  else s.beginStep n st

/-- In CABLECHECK the pre-closure weld test has one block of the output enabled, and the others follow once it has passed (spec/09
R240). -/
def State.testEnable (s : State) (n j : Nat) : Bool := (s.t0 j).sstate != 5 || (s.io j).weldTest == 2 || s.weldBlock n

/-- Moves at an SF tick: decided moves start, but for a block whose link has gone since the slot (R128); a move taken over from the other module goes on once its block is READY, the end of
the destination's session abandons a move, and ENABLE goes out where map 1 now names the destination (R126, R127). A block mapped to
an output in transfer whose link is usable again is enabled into it (R128). -/
def State.moveTick (s : State) : State :=
  s.each (idx 48) fun s n =>
    let m := s.mv n
    let s := if m.start = 0 then s
      else if s.usable n && !s.excluded n then ((s.updMv n fun m => { m with start := 0 }).event 0x0401 [n]).moveFrom n m.start
      else s.updMv n fun m => { m with start := 0, src := none, dest := none }
    let s := s.iff (m.resume != 0 && s.usable n && s.bst n == 1 && !s.excluded n) fun s =>
      (s.updMv n fun m => { m with resume := 0 }).moveFrom n m.resume
    let s := s.iff (s.mvStep n != 0 && (s.mv n).dest.any s.sessionOver) (·.moveAbandon n true)
    let m := s.mv n
    let failed (j : Nat) : Bool := match s.outLane j with
      | some l => (nth OutLane.rest (s.ce (s.outCe j)).outs l).failed
      | none => true
    if m.joinDue && m.joinMapped && !s.excluded n then
      (s.updMv n fun m => { m with joinDue := false, joinMapped := false }).sendCmd n cmdEnable 0
    else match s.mapOf n with
      | some j => s.iff (s.mvStep n == 0 && s.testEnable n j && s.lst n == 3 && s.bst n == 1 && s.takesPart j && !s.excluded n
          && !failed j && (s.lk n).cmdLeft == 0 && !m.reenter) fun s => s.sendCmd n cmdEnable 0
      | none => s

end Sys2Proof.Machine
end

