-- ==== Sys2Proof/Machine/Law.lean ====
section
/-!
DEFINITION. The law of a control engine: its check at load, its lanes, its reference generator and its coefficients
(spec/04 R76, R87 to R95).
-/

namespace Sys2Proof.Machine

open Sys2Proof

/-! ### Law images (R87) -/

/-- Fields of an instruction word: OP, D, A, B, K (R86). -/
def insOp (w : Word) : Nat := getBits w 31 24
def insD (w : Word) : BitVec 7 := BitVec.ofNat 7 (getBits w 23 17)
def insA (w : Word) : BitVec 7 := BitVec.ofNat 7 (getBits w 16 10)
def insB (w : Word) : BitVec 7 := BitVec.ofNat 7 (getBits w 9 3)
def insK (w : Word) : BitVec 3 := BitVec.ofNat 3 (getBits w 2 0)

/-- The word of an instruction: OP, D, A, B, K (R86). -/
def insWord (op : Nat) (d a b : BitVec 7) (k : BitVec 3) : Word :=
  BitVec.ofNat 32 (op % 256 * 2 ^ 24 + d.toNat * 2 ^ 17 + a.toNat * 2 ^ 10 + b.toNat * 2 ^ 3 + k.toNat)

/-- The word of a control-engine instruction in a law image (Table 4.5); none for any other command. -/
def lawEncode : Instr → Option Word
  | .nop _ d a b k => some (insWord 0x00 d a b k)
  | .endProgram _ d a b k => some (insWord 0x01 d a b k)
  | .lda _ d a b k => some (insWord 0x08 d a b k)
  | .ada _ d a b k => some (insWord 0x09 d a b k)
  | .sba _ d a b k => some (insWord 0x0A d a b k)
  | .mul _ d a b k => some (insWord 0x0B d a b k)
  | .mac _ d a b k => some (insWord 0x0C d a b k)
  | .msu _ d a b k => some (insWord 0x0D d a b k)
  | .zra _ d a b k => some (insWord 0x0E d a b k)
  | .min _ d a b k => some (insWord 0x10 d a b k)
  | .max _ d a b k => some (insWord 0x11 d a b k)
  | .clp _ d a b k => some (insWord 0x12 d a b k)
  | .abs _ d a b k => some (insWord 0x13 d a b k)
  | .neg _ d a b k => some (insWord 0x14 d a b k)
  | .exa _ d a b k => some (insWord 0x15 d a b k)
  | .rcp _ d a b k => some (insWord 0x16 d a b k)
  | .sel _ d a b k => some (insWord 0x18 d a b k)
  | .rsum _ d a b k => some (insWord 0x19 d a b k)
  | .rmax _ d a b k => some (insWord 0x1A d a b k)
  | .sprd _ d a b k => some (insWord 0x1B d a b k)
  | .stf _ d a b k => some (insWord 0x20 d a b k)
  | .stn _ d a b k => some (insWord 0x21 d a b k)
  | .mov _ d a b k => some (insWord 0x22 d a b k)
  | .cgt _ d a b k => some (insWord 0x28 d a b k)
  | .cge _ d a b k => some (insWord 0x29 d a b k)
  | .kand _ d a b k => some (insWord 0x2A d a b k)
  | .kor _ d a b k => some (insWord 0x2B d a b k)
  | .knot _ d a b k => some (insWord 0x2C d a b k)
  | .skz _ d a b k => some (insWord 0x30 d a b k)
  | .trg _ d a b k => some (insWord 0x31 d a b k)
  | _ => none

/-- The instruction that a word of CE `c`'s law spells (Table 4.5); none for a reserved opcode. -/
def lawDecode (c : Fin 2) (w : Word) : Option Instr :=
  match insOp w with
  | 0x00 => some (.nop c (insD w) (insA w) (insB w) (insK w))
  | 0x01 => some (.endProgram c (insD w) (insA w) (insB w) (insK w))
  | 0x08 => some (.lda c (insD w) (insA w) (insB w) (insK w))
  | 0x09 => some (.ada c (insD w) (insA w) (insB w) (insK w))
  | 0x0A => some (.sba c (insD w) (insA w) (insB w) (insK w))
  | 0x0B => some (.mul c (insD w) (insA w) (insB w) (insK w))
  | 0x0C => some (.mac c (insD w) (insA w) (insB w) (insK w))
  | 0x0D => some (.msu c (insD w) (insA w) (insB w) (insK w))
  | 0x0E => some (.zra c (insD w) (insA w) (insB w) (insK w))
  | 0x10 => some (.min c (insD w) (insA w) (insB w) (insK w))
  | 0x11 => some (.max c (insD w) (insA w) (insB w) (insK w))
  | 0x12 => some (.clp c (insD w) (insA w) (insB w) (insK w))
  | 0x13 => some (.abs c (insD w) (insA w) (insB w) (insK w))
  | 0x14 => some (.neg c (insD w) (insA w) (insB w) (insK w))
  | 0x15 => some (.exa c (insD w) (insA w) (insB w) (insK w))
  | 0x16 => some (.rcp c (insD w) (insA w) (insB w) (insK w))
  | 0x18 => some (.sel c (insD w) (insA w) (insB w) (insK w))
  | 0x19 => some (.rsum c (insD w) (insA w) (insB w) (insK w))
  | 0x1A => some (.rmax c (insD w) (insA w) (insB w) (insK w))
  | 0x1B => some (.sprd c (insD w) (insA w) (insB w) (insK w))
  | 0x20 => some (.stf c (insD w) (insA w) (insB w) (insK w))
  | 0x21 => some (.stn c (insD w) (insA w) (insB w) (insK w))
  | 0x22 => some (.mov c (insD w) (insA w) (insB w) (insK w))
  | 0x28 => some (.cgt c (insD w) (insA w) (insB w) (insK w))
  | 0x29 => some (.cge c (insD w) (insA w) (insB w) (insK w))
  | 0x2A => some (.kand c (insD w) (insA w) (insB w) (insK w))
  | 0x2B => some (.kor c (insD w) (insA w) (insB w) (insK w))
  | 0x2C => some (.knot c (insD w) (insA w) (insB w) (insK w))
  | 0x30 => some (.skz c (insD w) (insA w) (insB w) (insK w))
  | 0x31 => some (.trg c (insD w) (insA w) (insB w) (insK w))
  | _ => none

/-- Position of END in a program. -/
def endPos (p : List Word) : Option Nat := p.findIdx? fun w => insOp w == 1

/-- Static cycle count: cycles from the first instruction to END, every SKZ not taken. -/
def staticCycles (p : List Word) : Nat :=
  (p.take (match endPos p with | some i => i + 1 | none => p.length)).foldl (fun a w => a + (opCycles (insOp w)).getD 0) 0

/-- Reasons 1 to 3 for one program; 0 for none. -/
def progReason (cfProg : Bool) (p : List Word) : Nat :=
  let last := (endPos p).getD p.length
  if p.any fun w => (opCycles (insOp w)).isNone then 1
  else if p.any fun w => !legalOperands (insOp w) (insD w) (insA w) (insB w) (insK w) then 2
  else if (cfProg && (endPos p).isNone) || ((idx p.length).any fun i =>
      match p[i]? with
      | some w => insOp w == 0x30 && decide (i < last) && decide (last < i + 1 + (insB w).toNat)
      | none => false) then 3
  else 0

/-- The reason for which an image is refused, 0 for none (R87). -/
def lawReason (img : LawImage) (cfSel : Nat) (long : Bool) : Nat :=
  let r := progReason true img.cf
  if r ≠ 0 then r
  else if winEnd cfSel long - winStart cfSel long - 16 < staticCycles img.cf then 4
  else if img.lat ≠ 1 + b2n long then 5
  else
    let r := progReason false img.sf
    if r ≠ 0 then r else if 500000 < staticCycles img.sf then 6 else 0

/-- Operands as the image gives them (R80, R81). -/
def lawCtx (img : LawImage) : CeCtx :=
  { CeCtx.zero with
    st := (idx 32).map fun i => match img.st[i]? with
      | some (e, m) => ⟨e, (idx 32).map (nth 0 m)⟩
      | none => Stage.zero
    k := List.replicate 4 0 ++ (idx 4).map (nth 0 img.k47) }

/-- The law starts: STATE running, LAW_ID and LAT, E:0x0301. -/
def State.lawStart (s : State) (c : Nat) (img : LawImage) : State :=
  let s := s.updCe c fun e => { e with com := lawCtx img, work := CeCtx.zero, sf := { CeCtx.zero with k := (lawCtx img).k }, window := false, third := false }
  let s := ((s.setFld (CE_STATUS_STATE c) 1).setFld (CE_STATUS_LAW_ID c) img.id).setFld (CE_STATUS_LAT c) img.lat
  ((s.setFld (CE_STATUS_OVR_RUN c) 0).setSat (CE_CYC_STATIC c) (staticCycles img.cf)).event 0x0301 [c]

/-- The CE loads an image at a start or an activation: it checks it, and starts it or refuses it with E:0x0302. -/
def State.lawLoad (s : State) (c : Nat) (o : Option LawImage) : State :=
  let s := (s.updCe c fun e => { e with image := o, refusedFor := 0 }).setFld (CE_STATUS_STATE c) 0
  match o with
  | none => s
  | some img =>
    let r := lawReason img s.tim.cfSel s.tim.longFibre
    if r = 0 then s.lawStart c img
    else (s.updCe c fun e => { e with refusedFor := r }).event 0x0302 [c, r]

/-- The check of a CE's image at a commit with the frame choice that the commit brings: E:0x0302 where it fails. -/
def State.lawCheck (s : State) (c cfSel : Nat) (long : Bool) : State × Bool :=
  match (s.ce c).image with
  | none => (s, true)
  | some img =>
    let r := lawReason img cfSel long
    if r = 0 then (s, true)
    else ((s.updCe c fun e => { e with refusedFor := r }).event 0x0302 [c, r], false)

/-- LK fields of the control engines in range (R107). -/
def State.ceCfgOk (s : State) : Bool :=
  (idx 2).all fun c =>
    let di := s.fld (CE_FRZ_FRZ_DI c)
    let n := s.fld (CE_FRZ_FRZ_N c)
    let rate := s.fld (CE_SOFT_RATE c)
    decide (1 ≤ di ∧ di ≤ 100 ∧ 4 ≤ n ∧ n ≤ 64 ∧ 1 ≤ s.fld (CE_SOFT_BLK_SF c) ∧ 1 ≤ rate ∧ rate ≤ 3000)

/-- Copy the shadow coefficients to the active bank (R91). -/
def State.copyCv (s : State) (c : Nat) : State :=
  let cv := (idx 64).map fun v =>
    (⟨s.fldS (CE_CVE_EXP c v), (idx 32).map fun l => s.fldS (CE_CV_MANT c v l)⟩ : Stage)
  s.updCe c fun e => { e with cv := cv }

/-- Pad a list of instances to `n` lanes. -/
def padLanes (n : Nat) (l : List Nat) : List (Option Nat) := (idx n).map fun i => l[i]?

/-- The instances that take a CE's lanes: all that are assigned to it, or where they are more than the lanes, the enabled ones
(log entry 12). -/
def lanesFor (n : Nat) (all : List Nat) (en : Nat → Bool) : List Nat := if all.length ≤ n then all else all.filter en

/-- Lanes of CE `c` from the assignment: links and outputs in ascending number, bundles by their lowest output (R76). -/
def State.assignLanes (s : State) (c : Nat) : State :=
  let ls := lanesFor 24 ((idx 48).filter fun n => s.fld (MX_WIRE_CE n) == c) fun n => s.linkBit R_CQ_EN_LO R_CQ_EN_HI n
  let os := lanesFor 4 ((idx 8).filter fun j => s.fld (OUT_CFG_CE j) == c) fun j => s.flag (OUT_CFG_EN j)
  let bs := os.filterMap fun j => (idx 4).find? fun b =>
    let m := s.fld (BND_CFG_MEMBERS b)
    bit m j && !((idx j).any fun k => bit m k)
  s.updCe c fun e => { e with laneLink := padLanes 24 ls, laneOut := padLanes 4 os, laneBnd := padLanes 4 bs }

/-- What a commit does on CE `c`: lanes, coefficients, PEAK; a law that is not running starts, unless its core has
halted (R76, R87, R91). -/
def State.ceCommitApply (s : State) (c : Nat) : State :=
  let s := (((s.assignLanes c).copyCv c).setFld (CE_CYC_PEAK c) 0).updCe c fun e => { e with refusedFor := 0 }
  match (s.ce c).image with
  | some img =>
    let s := s.setSat (CE_CYC_STATIC c) (staticCycles img.cf)
    if s.fld (CE_STATUS_STATE c) == 1 || s.fld (CE_STATUS_STATE c) == 3 || s.fld (coreFld (5 + c)) == 2 then s else s.lawStart c img
  | none => s

/-! ### Reference generator (R93 to R95), in 1/5 120 000 A -/

/-- One ampere and 0.1 A in the generator's unit. -/
def genA : Int := 5120000
def genDA : Int := 512000

/-- Goal G of output `j` from the front buffer of table 2. -/
def State.genGoal (s : State) (j : Nat) : Int := (nth LimRow.rest s.sh.t2.outs j).g * genDA

/-- Output lane `l` of CE `c`. -/
def State.ol (s : State) (c l : Nat) : OutLane := nth OutLane.rest (s.ce c).outs l

/-- Change output lane `l` of CE `c`. -/
def State.updOl (s : State) (c l : Nat) (f : OutLane → OutLane) : State :=
  s.updCe c fun e => { e with outs := upd e.outs l f }

/-- CFs per SF. -/
def State.nCf (s : State) : Nat := cfPerSf s.tim.cfSel

/-- Change over the SF towards the goal: limited to the output's rate, or the soft-start rate in its direction. -/
def State.genDelta (s : State) (c j : Nat) (soft : Bool) (x : Int) : Int :=
  let g := s.genGoal j
  if soft then
    let r := (s.fld (CE_SOFT_RATE c) : Int) * genA
    if x < g then r else if g < x then -r else 0
  else
    let r := (s.fld (OUT_RAMP_RATE j) : Int) * genA
    clampI (-r) r (g - x)

/-- The generator at an SF tick (R93): its own value, the goal, and the step. -/
def State.genTick (s : State) (c l : Nat) : State :=
  match nth none (s.ce c).laneOut l with
  | none => s
  | some j =>
    let o := s.ol c l
    let soft := o.soft && o.out != s.genGoal j
    s.updOl c l fun o => { o with x := o.out, steps := 0, soft := soft, delta := s.genDelta c j soft o.out }

/-- The generator in a CF: it steps unless the lane's input is invalid, starts at IN0 when the lane enters K1, and is
limited by the clamp, which stops it until the next SF tick and leaves a soft start that has not reached G in progress
(R93 to R95, R98). -/
def State.genStep (s : State) (c l j : Nat) (pause enter : Bool) : State :=
  let o := s.ol c l
  let g := s.genGoal j
  let soft := o.soft
  let o : OutLane :=
    if enter then
      let x := (satMant (rneDiv (o.iMa * 512) 1000)).v * 10000
      { o with x := x, out := x, steps := 0, soft := true, delta := s.genDelta c j true x }
    else if pause then o
    else
      let k := o.steps + 1
      let y := o.x + rneDiv (o.delta * k) s.nCf
      let reached := o.soft && decide ((0 < o.delta ∧ g ≤ y) ∨ (o.delta < 0 ∧ y ≤ g) ∨ y = g)
      if reached then { o with x := g, out := g, delta := 0, steps := 0, soft := false }
      else { o with steps := k, out := y }
  let cl := (s.clamp j : Int) * genDA
  let cut (v : Int) : OutLane := { o with x := v, out := v, delta := 0, steps := 0, soft := (soft || enter) && v != g }
  let o : OutLane := if cl < o.out then cut cl else if o.out < -cl then cut (-cl) else o
  s.updOl c l fun _ => o

/-! ### Share weights (R95), in units of 2^−42 -/

/-- One as a weight, and as a mantissa of IN7. -/
def wOne : Nat := 4398046511104
def mOne : Nat := 4194304

/-- Allocated weight of link `n` from the front buffer of table 2. -/
def State.allocOf (s : State) (n : Nat) : Nat := (nth 0 s.sh.t2.alloc n).toNat * 1048576

/-- Share `total` among links in proportion to weights, equally where all are 0. -/
def propShare (total : Nat) (ws : List Nat) : List Nat :=
  let sum : Nat := ws.foldl (· + ·) 0
  if sum = 0 then ws.map fun _ => (rneDiv (total : Nat) (ws.length : Nat)).toNat else ws.map fun w => (rneDiv (total * w : Nat) sum).toNat

/-- The weights of the member lanes of output `j` in this CF: `mem` are its links in K1, `new` those that entered now. At or below 2 A a
starting lane starts with one part in the number of member lanes in K1, whether others run already or not; where every member lane
in K1 is leaving and none is left to scale up, the sum of the mantissas falls with theirs (DESIGN CHOICE, log entry 70). -/
def State.weights (s : State) (j : Nat) (mem new : List Nat) : State :=
  let iOut : Int := s.fastI j
  let frac (n : Nat) : Nat :=
    if iOut.natAbs ≤ 2000 then (rneDiv (wOne : Nat) (mem.length : Nat)).toNat
    else min wOne (rneDiv ((s.lk n).imeas * wOne * iOut.sign) (iOut.natAbs * 10 : Nat)).toNat
  let leavingW (n : Nat) : Bool := decide (1 ≤ s.mvStep n ∧ s.mvStep n ≤ 4)
  let s := s.each mem fun s n =>
    let b := s.bl n
    if new.contains n then
      s.updBl n fun b => { b with weight := (frac n : Nat), rampLeft := s.rampCfs (s.linkCe n) }
    else if b.rampLeft ≠ 0 then
      let tgt : Int := if leavingW n then 0 else (s.allocOf n : Nat)
      s.updBl n fun b => { b with weight := b.weight + rneDiv (tgt - b.weight) b.rampLeft, rampLeft := b.rampLeft - 1 }
    else s
  let ramp := mem.filter fun n => (s.bl n).rampLeft != 0 || new.contains n || leavingW n
  let rest := mem.filter fun n => !ramp.contains n
  let sumOf (l : List Nat) : Nat := l.foldl (fun a n => a + (s.bl n).weight.toNat) 0
  let s :=
    if rest.isEmpty then
      let st := ramp.filter fun n => !leavingW n
      let lv := ramp.filter leavingW
      let sh := propShare (wOne - min wOne (sumOf lv)) (st.map fun n => (s.bl n).weight.toNat)
      s.each (st.zip sh) fun s p => s.updBl p.1 fun b => { b with weight := (p.2 : Nat) }
    else
      let sh := propShare (wOne - min wOne (sumOf ramp)) (rest.map s.allocOf)
      s.each (rest.zip sh) fun s p => s.updBl p.1 fun b => { b with weight := (p.2 : Nat) }
  let total := if mem.all leavingW then (rneDiv (sumOf mem : Nat) 1048576).toNat else mOne
  let ms := shareOut total (mem.map fun n => (s.bl n).weight.toNat)
  s.each (mem.zip ms) fun s p => s.updBl p.1 fun b => { b with mant := (p.2 : Nat) }

end Sys2Proof.Machine
end

