-- ==== Sys2Proof/Machine/MemCode.lean ====
section
/-!
DEFINITION. The row and column parity code of the memories: checking a tile, corrections and their write-back, poison and hard faults
(spec/16 R382 to R391).
-/

namespace Sys2Proof.Machine

open Sys2Proof

/-! ### The code (R382 to R387) -/

def State.updMem (s : State) (f : MemSt → MemSt) : State := { s with mem := f s.mem }
def State.unit (s : State) (m : Nat) : MemUnit := nth MemUnit.rest s.mem.mems m
def State.updUnit (s : State) (m : Nat) (f : MemUnit → MemUnit) : State := s.updMem fun x => { x with mems := upd x.mems m f }

/-- Even parity of each byte of a word. -/
def rowParity (d : Word) : BitVec 4 :=
  BitVec.ofNat 4 ((idx 4).foldl (fun a k =>
    a + b2n ((idx 8).foldl (fun p i => p != d.getLsbD (8 * k + i)) false) * 2 ^ k) 0)

/-- Bytes of a word whose parity does not match. -/
def badBytes (d : Word) (p : BitVec 4) : List Nat := (idx 4).filter fun k => (rowParity d).getLsbD k != p.getLsbD k

/-- Data, parity and state of word `w` of a tile. -/
def tileAt (t : MemTile) (w : Nat) : Word × BitVec 4 × BitVec 2 := nth (0, 0, 0) t.words w

/-- Word `w` is valid: state 0b11. -/
def tileValid (t : MemTile) (w : Nat) : Bool := (tileAt t w).2.2 == 3#2

/-- Word `w` is poisoned: state 0b01 or 0b10. -/
def tilePoisoned (t : MemTile) (w : Nat) : Bool := (tileAt t w).2.2 == 1#2 || (tileAt t w).2.2 == 2#2

/-- XOR of the data of the valid words. -/
def tileColumn (t : MemTile) : Word :=
  (idx 16).foldl (fun a w => if tileValid t w then a ^^^ (tileAt t w).1 else a) 0

/-- The syndrome: the stored column word XOR the recomputed one. -/
def tileSyndrome (t : MemTile) : Word := t.col ^^^ tileColumn t

/-- The tile with its column word recomputed, with fresh parity. -/
def tileReCol (t : MemTile) : MemTile := { t with col := tileColumn t, colPar := rowParity (tileColumn t) }

/-- The tile with one word replaced. -/
def tilePut (t : MemTile) (w : Nat) (d : Word) (st : BitVec 2) : MemTile :=
  { t with words := t.words.set w (d, rowParity d, st) }

/-- Outcome of a checked tile (Table 16.2): good; corrected, with the word; the words that are uncorrectable. -/
inductive TileOut where
  | good
  | fixed (word : Nat) (t : MemTile)
  | bad (words : List Nat)
deriving DecidableEq, Repr

/-- Bytes with a parity failure, by word. -/
def tileFails (t : MemTile) : List (Nat × Nat) :=
  (idx 16).flatMap fun w => if tileValid t w then (badBytes (tileAt t w).1 (tileAt t w).2.1).map fun k => (w, k) else []

/-- Check a tile (Table 16.2). -/
def tileCheck (t : MemTile) : TileOut :=
  let colBad := rowParity t.col != t.colPar
  let syn := tileSyndrome t
  match tileFails t, colBad with
  | [], false => if syn = 0 then .good else .bad ((idx 16).filter (tileValid t))
  | [], true => .fixed 0 (tileReCol t)
  | [(w, k)], false =>
    let d := (tileAt t w).1
    if syn = 0 then .fixed w (tilePut t w d 3)
    else
      let hits := (idx 32).filter fun i => syn.getLsbD i
      (match hits with
       | [i] => if i / 8 = k then .fixed w (tilePut t w (d ^^^ syn) 3) else .bad [w]
       | _ => .bad [w])
  | fs, _ => .bad (fs.map (·.1)).eraseDups

/-- The tile as the controller knows it: words poisoned before stay poisoned. -/
def State.tileNow (s : State) (m tile : Nat) (t : MemTile) : MemTile :=
  (idx 16).foldl (fun t w =>
    if s.mem.pois.contains (m, 16 * tile + w) && !tilePoisoned t w then { t with words := t.words.set w ((tileAt t w).1, (tileAt t w).2.1, 1#2) } else t) t

/-- Words of a tile are poisoned; the column word is then that of the words left (R382, R383). -/
def tilePoison (t : MemTile) (ws : List Nat) : MemTile :=
  tileReCol (ws.foldl (fun t w => { t with words := t.words.set w ((tileAt t w).1, (tileAt t w).2.1, 1#2) }) t)

/-- Show how many words of a memory are poisoned. -/
def State.poisRegs (s : State) (m : Nat) : State :=
  let n := (s.mem.pois.filter fun p => p.1 == m).length
  (s.setSat (MI_POIS_COUNT m) n).setReg R_MI_STATUS
    (BitVec.ofNat 32 (setBit (s.reg R_MI_STATUS).toNat m (n != 0)))

/-- Poison words of a memory. -/
def State.poisonWords (s : State) (m : Nat) (ws : List Nat) : State :=
  (s.updMem fun x => { x with pois := x.pois ++ (ws.map fun w => (m, w)).filter fun p => !x.pois.contains p }).poisRegs m

/-- Address and syndrome of the last corrected or uncorrectable word (Table 16.7). -/
def State.memTrace (s : State) (m word : Nat) (syn : Word) : State :=
  (s.setFld (MI_ADDR_ADDR m) (4 * word)).setFld (MI_SYND_SYND m) syn.toNat

/-- A hard fault: its tile goes to a spare, E:0x0F04, or stays without one, E:0x0F05 (R390, R391). -/
def State.hardFault (s : State) (m tile : Nat) : State :=
  if s.fld (MI_REMAP_USED m) < s.fld (MI_REMAP_SPARE m) then
    let s := (s.inc (MI_REMAP_USED m)).updUnit m fun u => { u with remap := u.remap ++ [tile] }
    let s := s.updMem fun x =>
      { x with hard := if m < 8 && !x.hard.contains (m, tile) then x.hard ++ [(m, tile)] else x.hard
               fixed := x.fixed.filter fun p => !(p.1 == m && p.2.1 / 16 == tile) }
    s.event 0x0F04 [m, 64 * tile]
  else s.event 0x0F05 [m, 64 * tile]

/-- A correction is counted and traced, with E:0x0F01 at most once per SF per memory (R383, R398). -/
def State.noteCorrection (s : State) (m word : Nat) (syn : Word) : State :=
  let s := (s.inc (MI_CNT_CORR m)).memTrace m word syn
  s.iff (!(s.unit m).told01) fun s => (s.updUnit m fun u => { u with told01 := true }).event 0x0F01 [m, 4 * word]

/-- A corrected word is written back; a read-back that still fails, or the same word within 24 h, is a hard fault (R383, R390). -/
def State.writeBack (s : State) (m word : Nat) (t : MemTile) (stuck : Bool) : State :=
  let again := s.mem.fixed.any fun p => p.1 == m && p.2.1 == word && decide (s.age < p.2.2 + 86400 * sec)
  let s := s.updMem fun x =>
    { x with wrote := some (m, word / 16, t)
             fixed := x.fixed.filter (fun p => !(p.1 == m && p.2.1 == word)) ++ [(m, word, s.age)] }
  if stuck || again then s.hardFault m (word / 16) else s

/-- A memory whose CE is in its compute window: nothing is written back or scrubbed there (R383, R392). -/
def State.inWindow (s : State) (m : Nat) : Bool := (m == 4 || m == 5) && (s.ce (m - 4)).window

/-- A correction: noted, and written back at the next idle cycle, which falls outside a compute window (R383). -/
def State.corrected (s : State) (m word : Nat) (syn : Word) (t : MemTile) (stuck : Bool) : State :=
  let s := s.noteCorrection m word syn
  if s.inWindow m then
    s.updMem fun x => { x with back := x.back.filter (fun p => !(p.1 == m && p.2.1 == word)) ++ [(m, word, t, stuck)] }
  else s.writeBack m word t stuck

/-- A compute window is over: the corrections that waited for it are written back (R383, R390). -/
def State.backAll (s : State) (m : Nat) : State :=
  let due := s.mem.back.filter fun p => p.1 == m
  (s.updMem fun x => { x with back := x.back.filter fun p => p.1 != m }).each due fun s p => s.writeBack m p.2.1 p.2.2.1 p.2.2.2

end Sys2Proof.Machine
end

