-- ==== Sys2Proof/Machine/ControlEngine.lean ====
section
/-!
DEFINITION. The compute window of a control engine, its reaction to lost and frozen feedback, its coefficients and its
cupping buffers (spec/04 R81, R82, R88 to R106).
-/

namespace Sys2Proof.Machine

open Sys2Proof

/-- Link of block lane `k`, output of output lane `l`, bundle of bundle lane `b` on CE `c` (R76). -/
def State.laneLink (s : State) (c k : Nat) : Option Nat := nth none (s.ce c).laneLink k
def State.laneOut (s : State) (c l : Nat) : Option Nat := nth none (s.ce c).laneOut l
def State.laneBnd (s : State) (c b : Nat) : Option Nat := nth none (s.ce c).laneBnd b

/-- Links that map 1 assigns to output `j` (R77). -/
def State.members (s : State) (j : Nat) : List Nat := (idx 48).filter fun n => s.mapOf n == some j

/-! ### Feedback (R97 to R101) -/

/-- From the lowest to the highest of the `n` newest values of a list. -/
def spanOf (n : Nat) (l : List Int) : Int :=
  match l.take n with
  | [] => 0
  | x :: t => t.foldl max x - t.foldl min x

/-- FRZ_N identical samples while the reference over the same CFs spans more than FRZ_DI, for a block lane and for an output lane
(R100). -/
def State.frozenBlock (s : State) (c : Nat) (b : BlockLane) : Bool :=
  let n := s.fld (CE_FRZ_FRZ_N c)
  decide (n ≤ b.sameRun ∧ (s.fld (CE_FRZ_FRZ_DI c) * 5000 : Nat) < spanOf n b.irefs)
def State.frozenOut (s : State) (c : Nat) (o : OutLane) : Bool :=
  let n := s.fld (CE_FRZ_FRZ_N c)
  decide (n ≤ o.sameRun ∧ ((s.fld (CE_FRZ_FRZ_DI c) : Nat) : Int) * genA < 2 * spanOf n o.in5s)

/-- Take the fast sample of an output lane: its run of identical raw samples, the summaries, and its count of invalid
CFs (R97, R100, R165). -/
def State.takeFast (s : State) (c l : Nat) (f : FastSample) : State :=
  let o := s.ol c l
  let ok := f.ok && !o.badFast
  let same := decide (0 < o.sameRun) && o.rawI == f.raw
  let o : OutLane :=
    if ok && !o.frozen then
      { o with
        sameRun := if same then o.sameRun + 1 else 1, rawI := f.raw
        in5s := if same then (o.out :: o.in5s).take 64 else [o.out] }
    else o
  let all := (if ok then [(f.iMa, f.vMv)] else []) ++ f.between
  let o := all.foldl (fun (o : OutLane) p =>
    { o with
      sumI := o.sumI + p.1, sumV := o.sumV + p.2, n := o.n + 1
      iMin := if o.n = 0 then p.1 else min o.iMin p.1, iMax := if o.n = 0 then p.1 else max o.iMax p.1
      vMin := if o.n = 0 then p.2 else min o.vMin p.2, vMax := if o.n = 0 then p.2 else max o.vMax p.2 }) o
  let valid := ok && !o.frozen && !s.frozenOut c o
  let o : OutLane :=
    { o with
      iMa := if valid then f.iMa else o.iMa, vMv := if valid then f.vMv else o.vMv
      invalidRun := if valid then 0 else o.invalidRun + 1, badFast := false }
  s.updOl c l fun _ => o

/-- SEQ of the frame whose references are in force at this CF's sampling instant (R65, R97). -/
def State.seqInForce (s : State) (n : Nat) : Nat :=
  ((s.lk n).seq + 256 - b2n s.tim.longFibre) % 256

/-- Judge the input of a block lane (R97, R100): validity, E:0x0316, the run of identical frames, invalid CFs. A valid frame
with another DSEQ counts as an invalid CF only where it reports RUN; where it does not, it neither extends nor breaks the run of
invalid CFs, which only a valid one does (R97, R98, log 26). -/
def State.judgeBlock (s : State) (c k n : Nat) : State :=
  let b := s.bl n
  let l := s.lk n
  let bst := s.bst n
  let base := s.lst n == 4 && l.valid && !b.frozen && !bit (s.fld (CE_EXCL_LANE c)) k
  let dOk := bst == 3 || s.fld (CQ_STATE_DSEQ n) == s.seqInForce n
  let s := s.iff (base && !dOk && bst == 2 && !(s.ce c).told316.contains k) fun s =>
    (s.updCe c fun e => { e with told316 := k :: e.told316 }).event 0x0316 [c, k, n]
  let same := decide (0 < b.sameRun) && b.rawI == l.imeas && b.rawV == (l.vout : Int)
  let b : BlockLane :=
    if base && dOk then
      { b with
        sameRun := if same then b.sameRun + 1 else 1, rawI := l.imeas, rawV := l.vout
        irefs := if same then (b.lastI :: b.irefs).take 64 else [b.lastI] }
    else b
  let valid := base && dOk && !s.frozenBlock c b
  s.updBl n fun _ =>
    { b with
      valid := valid
      invalidRun :=
        if valid || s.lst n != 4 then 0 else if base && !dOk && bst != 2 then b.invalidRun else b.invalidRun + 1 }

/-! ### The masks K0 to K3 (Table 4.3a) -/

/-- K1 for block lane `k` with link `n`: link ACTIVE and block in RUN or HOLD; entered only with a valid input (R96). -/
def State.runBlock (s : State) (c k n : Nat) : Bool :=
  let b := s.bl n
  s.lst n == 4 && (s.bst n == 2 || s.bst n == 3) && !b.frozen && !bit (s.fld (CE_EXCL_LANE c)) k && !s.frozenBlock c b
    && (inMask (s.hwMask c 1) k || b.valid)

/-- The input of output lane `l` is valid in this CF. -/
def State.validOut (s : State) (c l : Nat) : Bool := (s.ol c l).invalidRun == 0

/-- K1 for output lane `l` with output `j`, given the block lanes in K1 (Table 4.3a, R96, R98, R99). -/
def State.runOut (s : State) (c l j : Nat) (blocks : List Nat) : Bool :=
  let o := s.ol c l
  s.pairReads j && (s.t0 j).xfer && !o.failed && decide (o.invalidRun < 3) && !s.frozenOut c o
    && blocks.any (fun k => nth none (s.ce c).map1 k == some (24 + l))
    && (inMask (s.hwMask c 1) (24 + l) || s.validOut c l)

/-- Block lane `k` is held with its output: the output lane's input is invalid (R98, Table 4.6). -/
def State.outHeld (s : State) (c k : Nat) : Bool :=
  match nth none (s.ce c).map1 k with
  | some t => decide (24 ≤ t) && !s.validOut c (t - 24)
  | none => false

/-- The four hardware masks of a window; K2 is clear for a lane that is held. -/
def State.hwMasks (s : State) (c : Nat) : List Word :=
  let kb := (idx 24).filter fun k => match s.laneLink c k with
    | some n => s.runBlock c k n
    | none => false
  let ko := (idx 4).filter fun l => match s.laneOut c l with
    | some j => s.runOut c l j kb
    | none => false
  let mem (b : Nat) : List Nat := (idx 4).filter fun l => nth none (s.ce c).map2 l == some (28 + b)
  let k0 (i : Nat) : Bool :=
    if i < 24 then (s.laneLink c i).any (fun n => decide (n < s.nLinks))
    else if i < 28 then (s.laneOut c (i - 24)).any (fun j => decide (j < s.nOuts))
    else (s.laneBnd c (i - 28)).isSome
  let k1 (i : Nat) : Bool :=
    if i < 24 then kb.contains i else if i < 28 then ko.contains (i - 24)
    else (mem (i - 28)).any ko.contains
  let k2 (i : Nat) : Bool :=
    if i < 24 then (match s.laneLink c i with
      | some n => (s.bl n).valid && !s.outHeld c i
      | none => false)
    else if i < 28 then (s.laneOut c (i - 24)).isSome && s.validOut c (i - 24)
    else !(mem (i - 28)).isEmpty && (mem (i - 28)).all (s.validOut c)
  let old := s.hwMask c 1
  [maskOf k0, maskOf k1, maskOf k2, maskOf fun i => k1 i && !inMask old i]

/-- Set masks K0 to K3. -/
def State.setHw (s : State) (c : Nat) (ks : List Word) : State :=
  s.updCe c fun e => { e with com := { e.com with k := ks ++ e.com.k.drop 4 } }

/-! ### Input stages (Table 4.3) -/

/-- Fixed exponents of IN0 to IN15. -/
def inExp : Nat → Int
  | 0 => 14 | 1 => 11 | 2 => 11 | 3 => 14 | 4 => 8 | 5 => 14 | 6 => 11 | 7 => 1 | 8 => 14 | 9 => 14 | 10 => 14 | _ => 0

/-- Mantissa of `num / den` at exponent `e` (R81). -/
def conv (e num den : Int) : Int := (satMant (rneDiv (num * 2 ^ (23 - e).toNat) den)).v

/-- Input `i` of block lane `k` with link `n`; a held lane keeps IN0 to IN4 (R98). -/
def State.inBlock (s : State) (n i : Nat) (old : Int) : Int :=
  let l := s.lk n
  let b := s.bl n
  let e := inExp i
  if b.held && decide (i < 5) then old
  else match i with
    | 0 => conv e l.imeas 10000
    | 1 => conv e l.vout 40
    | 2 => conv e l.vdc 40
    | 3 => conv e l.iavail 40
    | 4 => conv e l.temp 1
    | 7 => b.mant
    | 8 => conv e b.lastI 10000
    | _ => 0

/-- Hottest valid connector pin in 0.1 °C (R129). -/
def State.hotPin (s : State) (j : Nat) : Int :=
  match s.ptRole j 0, s.ptRole j 1 with
  | some a, some b => max a b
  | some a, none => a
  | none, some b => b
  | none, none => 0

/-- Sum of IAVAIL over the member blocks of output `j`, in 25 mA. -/
def State.sumIavail (s : State) (j : Nat) : Nat := (s.members j).foldl (fun a n => a + (s.lk n).iavail) 0

/-- Input `i` of output lane `l` with output `j`. -/
def State.inOut (s : State) (c l j i : Nat) (old : Int) : Int :=
  let o := s.ol c l
  let e := inExp i
  let r := nth LimRow.rest s.sh.t2.outs j
  if !s.validOut c l && (i == 0 || i == 1 || i == 4) then old
  else match i with
    | 0 => conv e o.iMa 1000
    | 1 => conv e o.vMv 1000
    | 3 => conv e (s.sumIavail j) 40
    | 4 => conv e (s.hotPin j) 10
    | 5 => conv e o.out genA
    | 6 => conv e r.vlim 10
    | 9 => conv e (min r.ilim (s.clamp j : Int)) 10
    | 10 => conv e r.plim 1
    | _ => 0

/-- Input `i` of bundle lane with bundle `b`. -/
def State.inBnd (s : State) (b i : Nat) : Int :=
  let r := nth LimBnd.rest s.sh.t2.bnds b
  let e := inExp i
  match i with
  | 3 => conv e (r.members.foldl (fun a j => a + s.sumIavail j) 0) 40
  | 5 => conv e r.g 10
  | 9 => conv e r.ilim 10
  | 10 => conv e r.plim 1
  | _ => 0

/-- Input stage `i` in full; lanes of no link, output or bundle, and block lanes in no group, read 0 (R77, R81). -/
def State.inStage (s : State) (c i : Nat) : Stage :=
  let old := nth Stage.zero (s.ce c).inp i
  ⟨inExp i, lanes.map fun k =>
    if k < 24 then (match s.laneLink c k with
      | some n => if (nth none (s.ce c).map1 k).isSome then s.inBlock n i (old.lane k) else 0
      | none => 0)
    else if k < 28 then (match s.laneOut c (k - 24) with
      | some j => s.inOut c (k - 24) j i (old.lane k)
      | none => 0)
    else (match s.laneBnd c (k - 28) with
      | some b => s.inBnd b i
      | none => 0)⟩

/-! ### CE_WINDOW_START -/

/-- What an output lane does in a window beyond its masks: E:0x0312 for one or two invalid CFs, the mark of a third, whether or not the
lane was in K1, the generator; a lane whose pair reads off is failed and frozen no longer (R98, R99). -/
def State.outLaneWork (s : State) (c l j : Nat) (was run : Bool) : State :=
  let o := s.ol c l
  let s := s.iff (!s.pairReads j) fun s => s.updOl c l fun o =>
    { o with failed := false, frozen := false, lost := false, sameRun := if o.frozen then 0 else o.sameRun }
  let s := s.iff (decide (3 ≤ o.invalidRun) && !o.failed && s.pairReads j) fun s =>
    s.updOl c l fun o => { o with lost := true }
  let s := s.iff (decide (1 ≤ o.invalidRun ∧ o.invalidRun ≤ 2) && !o.told312) fun s =>
    (s.updOl c l fun o => { o with told312 := true }).event 0x0312 [c, 24 + l, j]
  s.genStep c l j (run && decide (0 < o.invalidRun)) (run && !was)

/-- CE_WINDOW_START: missing frames, feedback, masks K0 to K3, generators, share weights, input stages; the law begins on
working copies (R81, R88, R93 to R100). A CE that is held runs no law (spec/17 R405). -/
def State.windowStart (s : State) (c : Nat) (fast : List FastSample) : State :=
  let s := s.missFrames c
  let outs := (idx 4).filterMap fun l => (s.laneOut c l).map fun j => (l, j)
  let blks := (idx 24).filterMap fun k => (s.laneLink c k).map fun n => (k, n)
  let s := s.each outs fun s p => s.takeFast c p.1 (nth ⟨false, 0, 0, 0, []⟩ fast p.1)
  let s := s.each blks fun s p => s.judgeBlock c p.1 p.2
  let old := s.hwMask c 1
  let ks := s.hwMasks c
  let k1 := nth 0 ks 1
  let s := s.each outs fun s p => s.outLaneWork c p.1 p.2 (inMask old (24 + p.1)) (inMask k1 (24 + p.1))
  let s := s.each blks fun s p =>
    s.updBl p.2 fun b =>
      { b with
        held := s.lst p.2 == 4 && (!b.valid || s.outHeld c p.1)
        weight := if inMask k1 p.1 then b.weight else 0, mant := if inMask k1 p.1 then b.mant else 0 }
  let s := s.each outs fun s p =>
    let mem := blks.filter fun q => nth none (s.ce c).map1 q.1 == some (24 + p.1) && inMask k1 q.1
    let new := mem.filter fun q => !inMask old q.1
    s.iff (!mem.isEmpty) (·.weights p.2 (mem.map (·.2)) (new.map (·.2)))
  let s := s.setHw c ks
  let s := s.updCe c fun e => { e with inp := (idx 16).map (s.inStage c) }
  let s := s.iff (s.tim.cfIndex == 0) fun s =>
    (s.setReg (R_CE_RUN c) (nth 0 ks 1)).setReg (R_CE_VALID c) (nth 0 ks 2)
  s.iff (s.ceRuns c) fun s => s.updCe c fun e =>
    { e with window := true, work := { e.com with skip := 0, ended := false, cycles := 0 } }

def execCeWindowStart (ce : Fin 2) (fast : List FastSample) (s : State) : Host.Outcome State Fault Refusal :=
  s.live (if s.pdGood 4 then s.windowStart ce fast else s)

/-! ### CE_WINDOW_END -/

/-- A DN lane in counts of 1/`per`: rounded and saturated to the field (R82, R83). -/
def dnCount (t : Stage) (k : Nat) (per lo hi : Int) : Int := clampI lo hi (scale (t.lane k * per) (t.e - 23))

/-- References of block lane `k` in counts: IREF limited to ±IAVAIL of the last valid frame, VLIM, VFF (R82). -/
def State.dnRefs (s : State) (c k n : Nat) : Int × Nat × Int :=
  let dn (i : Nat) := nth Stage.zero (s.ce c).com.dn i
  let ia : Int := (s.lk n).iavail * 250
  (clampI (-ia) ia (dnCount (dn 0) k 10000 (-8388608) 8388607), (dnCount (dn 1) k 40 0 65535).toNat,
    dnCount (dn 2) k 40 (-32768) 32767)

/-- Send a lane's frame with the references of the previous CF (R88, R98) or with the law's. -/
def State.launchPrev (s : State) (n : Nat) (hold : Bool) : State :=
  let b := s.bl n
  s.launch n hold b.lastI b.lastVl b.lastVf
def State.launchNew (s : State) (c k n : Nat) : State :=
  let r := s.dnRefs c k n
  (s.updBl n fun b => { b with lastI := r.1, lastVl := r.2.1, lastVf := r.2.2 }).launch n false r.1 r.2.1 r.2.2

/-- Value of an operand as a cupping buffer records it (R103): accumulators and reserved numbers read as 0. -/
def State.cupValue (s : State) (c opnd lane : Nat) : Int × Int :=
  let n := BitVec.ofNat 7 opnd
  let t := if isSrc n then readStage (s.ce c) (s.ce c).com n else Stage.zero
  (t.lane lane, t.e)

/-- `a < b` for two block-floating values. -/
def bfLt (a b : Int × Int) : Bool :=
  let e := min a.2 b.2
  decide (a.1 * 2 ^ (a.2 - e).toNat < b.1 * 2 ^ (b.2 - e).toNat)

/-- The source crosses the level between two consecutive samples: rising, falling or either way (Table 4.7). -/
def crosses (kind : Nat) (level a b : Int × Int) : Bool :=
  let up := bfLt a level && !bfLt b level
  let down := bfLt level a && !bfLt level b
  (kind == 1 && up) || (kind == 2 && down) || (kind == 3 && (up || down))

/-- Decimation of a buffer: 0 acts as 1 and above 1000 as 1000 (R107). -/
def State.cupDec (s : State) (c b : Nat) : Nat := max 1 (min 1000 (s.fld (CUP_CFG_DEC c b)))

/-- One CF of a cupping buffer that records (R103, R104). -/
def State.cupSample (s : State) (c b : Nat) : State :=
  let st := s.fld (CUP_STAT_STATE c b)
  let u := s.cup c b
  if st = 0 ∨ st = 4 ∨ (st = 3 ∧ u.postLeft = 0) then s
  else if u.skipCf ≠ 0 then s.updCup c b fun u => { u with skipCf := u.skipCf - 1 }
  else
    let v := s.cupValue c (s.fld (CUP_SRC_OPND c b)) (s.fld (CUP_SRC_LANE c b))
    let level := (s.fldS (CUP_LEVEL_MANT c b), s.fldS (CUP_LEVEL_EXP c b))
    let kind := s.fld (CUP_TRIG_KIND c b)
    let hit := match u.samples.head? with
      | some p => decide (1 ≤ kind ∧ kind ≤ 3) && crosses kind level (p.mant, p.exp) v
      | none => false
    let s := s.iff hit (·.cupTrigger c b)
    let keep := if st = 5 then 4096 else cupSize
    let x : CupSample := ⟨v.1, v.2, s.now, s.tim.sfCount, s.tim.cfIndex⟩
    let s := s.updCup c b fun u =>
      { u with
        samples := (x :: u.samples).take keep, skipCf := s.cupDec c b - 1, taken := u.taken + 1
        postLeft := u.postLeft - 1 }
    s.iff (s.fld (CUP_STAT_STATE c b) == 1 && decide (s.fld (CUP_PRE_PRE c b) ≤ (s.cup c b).taken))
      (·.setFld (CUP_STAT_STATE c b) 2)

/-- CE_WINDOW_END (R82, R88, R98, R102): an unfinished program is aborted and the previous references go out with HOLD;
a lane held sends its previous references; otherwise the committed DN stages go out. Corrections that waited are written back (spec/16
R383). In an activation pause the frame
sequencers send NOP frames with IREF 0 (spec/15 Table 15.11). -/
def State.windowEnd (s : State) (c : Nat) : State :=
  let e := s.ce c
  let done := e.window && e.work.ended
  let unfinished := e.window && !e.work.ended
  let s := (s.updCe c fun e => { e with window := false, overran := unfinished }).backAll (4 + c)
  let s := s.iff unfinished fun s =>
    (s.setSat (CE_STATUS_OVR_RUN c) (min 3 (s.fld (CE_STATUS_OVR_RUN c) + 1))).overrun 0 (5 + c) true
  let s := s.iff done fun s =>
    let s := (s.setFld (CE_STATUS_OVR_RUN c) 0).updCe c fun e => { e with third := false }
    s.setSat (CE_CYC_PEAK c) (max (s.fld (CE_CYC_PEAK c)) e.work.cycles)
  let stopped := s.fld (CE_STATUS_STATE c) == 2 || s.fld (CE_STATUS_STATE c) == 3
  let pause := s.flag GLB_MODE_ACT_PAUSE && s.fld (coreFld (5 + c)) == 0
  let s := s.each ((idx 24).filterMap fun k => (s.laneLink c k).map fun n => (k, n)) fun s p =>
    if pause then s.launch p.2 false 0 0 0
    else if unfinished || stopped then s.launchPrev p.2 true
    else if (s.bl p.2).held then s.launchPrev p.2 false
    else s.launchNew c p.1 p.2
  s.each (idx 8) fun s b => s.cupSample c b

def execCeWindowEnd (ce : Fin 2) (s : State) : Host.Outcome State Fault Refusal := s.live (if s.pdGood 4 then s.windowEnd ce else s)

/-! ### Ramp-downs by the sequencer (R31, R88, R98, R101) -/

/-- DISABLE on every member link of the output, which is reported failed and leaves K1. -/
def State.failLane (s : State) (c l : Nat) : State :=
  match s.laneOut c l with
  | none => s
  | some j =>
    let s := s.each (s.members j) fun s n => s.sendCmd n cmdDisable 0
    (s.updOl c l fun o => { o with failed := true, lost := false }).dropK1 c (24 + l)

/-- Every output of the CE. -/
def State.failAll (s : State) (c : Nat) : State := s.each (idx 4) fun s l => s.failLane c l

/-- THIRD_LAW_OVERRUN: E:0x0121 and the ramp-down (R31). -/
def execThirdLawOverrun (ce : Fin 2) (s : State) : Host.Outcome State Fault Refusal :=
  s.live (if s.fld (CE_STATUS_OVR_RUN ce) == 3 && !(s.ce ce).third then
    ((s.failAll ce).updCe ce fun e => { e with third := true }).event 0x0121 [5 + ce.val]
  else s)

/-- A CE halts on a fetch trap: E:0x0303 and the ramp-down (R88). -/
def State.ceHalt (s : State) (c : Nat) : State :=
  (((s.setFld (CE_STATUS_STATE c) 2).updCe c fun e => { e with window := false }).failAll c).event 0x0303 [c]

/-- OUTPUT_FEEDBACK_LOST: the third consecutive invalid CF of an output lane (R98). -/
def execOutputFeedbackLost (ce : Fin 2) (lane : Fin 4) (s : State) : Host.Outcome State Fault Refusal :=
  s.live (if (s.ol ce lane).lost then
    (s.failLane ce lane).event 0x0313 [ce, 24 + lane.val, (s.laneOut ce lane).getD 15]
  else s)

/-- FROZEN_FEEDBACK: a block lane is disabled and excluded; an output lane is ramped down (R100, R101). -/
def execFrozenFeedback (ce : Fin 2) (lane : Fin 28) (s : State) : Host.Outcome State Fault Refusal :=
  s.live (
    if lane.val < 24 then match s.laneLink ce lane with
      | some n =>
        if s.frozenBlock ce (s.bl n) && !(s.bl n).frozen then
          let s := (((s.sendCmd n cmdDisable 0).dropK1 ce lane).moveDrop n).updBl n fun b =>
            { b with frozen := true, valid := false, sameRun := 0, weight := 0, rampLeft := 0 }
          (s.setFld (CE_EXCL_LANE ce) (setBit (s.fld (CE_EXCL_LANE ce)) lane true)).event 0x0314 [ce, lane, n]
        else s
      | none => s
    else
      let l := lane.val - 24
      if (s.laneOut ce l).isSome && s.frozenOut ce (s.ol ce l) && !(s.ol ce l).frozen then
        ((s.failLane ce l).updOl ce l fun o => { o with frozen := true, sameRun := 0 }).event 0x0315
          [ce, lane, (s.laneOut ce l).getD 15]
      else s)

/-! ### Coefficients (R91) -/

/-- SWAP: a host write of CE_CTRLc.SWAP; with LIVE_COEF = 0 it is ignored with E:0x0331. -/
def State.hostSwap (s : State) (c : Nat) : State :=
  if s.flag CE_GCFG_LIVE_COEF then s.setFlag (CE_CTRL_SWAP c) true else s.event 0x0331 [c]

def execSwap (ce : Fin 2) (s : State) : Host.Outcome State Fault Refusal := s.live (s.hostSwap ce)

/-- COEF_SWAP_APPLY: at the SF tick after SWAP the shadow bank is copied, SWAP clears, E:0x0330. -/
def execCoefSwapApply (ce : Fin 2) (s : State) : Host.Outcome State Fault Refusal :=
  s.live (if s.flag (CE_CTRL_SWAP ce) && (s.ce ce).swapDue then
    (((s.copyCv ce).setFlag (CE_CTRL_SWAP ce) false).updCe ce fun e => { e with swapDue := false }).event 0x0330 [ce]
  else s)

/-! ### Cupping buffers (R103 to R106) -/

/-- Arm a buffer: it fills its pre-trigger samples, or streams; MODE 0 keeps it off (R105). -/
def State.cupArm (s : State) (c b : Nat) : State :=
  let mode := s.fld (CUP_CFG_MODE c b)
  if mode = 0 then s
  else
    let s := (s.updCup c b fun u =>
      { u with samples := [], skipCf := 0, postLeft := 0, taken := 0, records := [], sent := 0 }).setFlag
        (CUP_CFG_ARM c b) true
    s.setFld (CUP_STAT_STATE c b) (if mode = 3 then 5 else if s.fld (CUP_PRE_PRE c b) = 0 then 2 else 1)

def execCupArm (ce : Fin 2) (buf : Fin 8) (s : State) : Host.Outcome State Fault Refusal := s.live (s.cupArm ce buf)

/-- A buffer whose MODE is 0 is off, which ends a recording (Tables 4.7, 4.21). -/
def State.cupMode (s : State) (c b : Nat) : State :=
  if s.fld (CUP_CFG_MODE c b) = 0 then (s.setFlag (CUP_CFG_ARM c b) false).setFld (CUP_STAT_STATE c b) 0 else s

/-- CUP_TRIG: a host trigger for a buffer of KIND 7 (R104). -/
def State.cupHostTrig (s : State) (c b : Nat) : State :=
  s.iff (s.fld (CUP_TRIG_KIND c b) == 7) (·.cupTrigger c b)

def execCupTrig (ce : Fin 2) (buf : Fin 8) (s : State) : Host.Outcome State Fault Refusal := s.live (s.cupHostTrig ce buf)

/-- A record of consecutive samples, oldest first (R106, Table 4.8). -/
def State.cupRecord (s : State) (c b : Nat) (trig : Option Nat) (gaps : Nat) (xs : List CupSample) : CupRecord :=
  { ce := c, buf := b, dec := s.cupDec c b, src := s.fld (CUP_SRC_OPND c b) + s.fld (CUP_SRC_LANE c b) * 256
    trig := trig, gaps := gaps, samples := xs }

/-- CUP_DONE: the buffer is full; DONE, E:0x0321, and 16 records go out, oldest sample first (R104, R105). -/
def execCupDone (ce : Fin 2) (buf : Fin 8) (s : State) : Host.Outcome State Fault Refusal :=
  s.live (if s.fld (CUP_STAT_STATE ce buf) == 3 && (s.cup ce buf).postLeft == 0 then
    let xs := (s.cup ce buf).samples.reverse
    let pre := s.fld (CUP_PRE_PRE ce buf)
    let recs := (idx 16).map fun r =>
      s.cupRecord ce buf (if pre / 4096 = r then some (pre % 4096) else none) 0 ((xs.drop (r * 4096)).take 4096)
    let s := (s.setFld (CUP_STAT_STATE ce buf) 4).setFlag (CUP_CFG_ARM ce buf) false
    (s.updCup ce buf fun u => { u with records := recs, sent := 0 }).event 0x0321 [ce, buf]
  else s)

/-- CUP_STREAM_RECORD: 4096 samples are gathered; behind by 16 records, the oldest unsent one is overwritten and counted
(R105). -/
def execCupStreamRecord (ce : Fin 2) (buf : Fin 8) (s : State) : Host.Outcome State Fault Refusal :=
  s.live (if s.fld (CUP_STAT_STATE ce buf) == 5 && decide (4096 ≤ (s.cup ce buf).taken) then
    let u := s.cup ce buf
    let behind := decide (16 ≤ u.records.length)
    let s := s.iff behind fun s => s.inc (CUP_STAT_GAPS ce buf)
    let kept : List CupRecord := if behind then (match u.records with
      | lost :: next :: t => { next with gaps := next.gaps + lost.gaps + 1 } :: t
      | _ => []) else u.records
    let r := s.cupRecord ce buf none 0 u.samples.reverse
    let s := s.updCup ce buf fun u => { u with samples := [], taken := 0, records := kept ++ [r] }
    if behind && !u.told322 then
      (s.updCup ce buf fun u => { u with told322 := true }).event 0x0322 [ce, buf]
    else s
  else s)

/-- The host ring has completed a record of the buffer; an AUTO buffer re-arms after its last one (R105). -/
def State.cupRecordSent (s : State) (c b : Nat) : State :=
  let s := s.updCup c b fun u => { u with sent := u.sent + 1 }
  s.iff (s.fld (CUP_CFG_MODE c b) == 2 && s.fld (CUP_STAT_STATE c b) == 4 && decide (16 ≤ (s.cup c b).sent))
    (·.cupArm c b)

/-! ### The control engines at an SF tick (R77, R90, R91, R93) -/

/-- Group maps from the front buffer of table 2 (R77). -/
def State.takeMaps (s : State) (c : Nat) : State :=
  let m1 := (idx 24).map fun k => match s.laneLink c k with
    | some n => match s.mapOf n with
      | some j => if (s.ce c).laneOut.contains (some j) then some (24 + (s.ce c).laneOut.idxOf (some j)) else none
      | none => none
    | none => none
  let m2 := (idx 4).map fun l => match s.laneOut c l with
    | some j => ((idx 4).find? fun b => match s.laneBnd c b with
      | some bn => (nth LimBnd.rest s.sh.t2.bnds bn).members.contains j
      | none => false).map (28 + ·)
    | none => none
  s.updCe c fun e => { e with map1 := m1, map2 := m2 }

/-- CE `c` at an SF tick, after the exchange swap. -/
def State.ceTick (s : State) (c : Nat) : State :=
  let s := (s.takeMaps c).each (idx 4) fun s l => s.genTick c l
  s.updCe c fun e =>
    { e with
      swapDue := s.flag (CE_CTRL_SWAP c), told305 := false, told316 := []
      sf := { e.sf with skip := 0, ended := false, cycles := 0 }
      cups := e.cups.map (fun (u : CupBuf) => { u with told322 := false }) }

/-- The SF program of CE `c`: cooling and derating of its outputs that are enabled (spec/05 R109), and its half of exchange table 3 (R90, R165). -/
def State.ceSfProgram (s : State) (c : Nat) : State :=
  let outs := (idx 4).filterMap fun l => (s.laneOut c l).map fun j => (l, j)
  let s := s.each outs fun s p => s.iff (s.flag (OUT_CFG_EN p.2)) fun s => (s.derateStep p.2).coolStep p.2
  s.each outs fun s p =>
    let o := s.ol c p.1
    let j := p.2
    let n : Int := max 1 o.n
    let row : SumRow :=
      { iMa := if o.n = 0 then o.iMa else rneDiv o.sumI n, vMv := if o.n = 0 then o.vMv else rneDiv o.sumV n
        iMin := o.iMin, iMax := o.iMax, vMin := o.vMin, vMax := o.vMax, n := o.n, failed := o.failed
        pinP := s.ptRole j 0, pinN := s.ptRole j 1, sup := s.ptRole j 2, ret := s.ptRole j 3
        pump := nth false s.sh.pump j, fan1 := nth false s.sh.fan1 j, fan2 := nth false s.sh.fan2 j }
    let s := s.updSh fun h => { h with t3b := h.t3b.set j row }
    s.updOl c p.1 fun o => { o with sumI := 0, sumV := 0, n := 0, iMin := 0, iMax := 0, vMin := 0, vMax := 0, told312 := false }

end Sys2Proof.Machine
end

