-- ==== Sys2Proof/Machine/Vehicle.lean ====
section
/-!
DEFINITION. The vehicle dialogue: connector signalling, links, the session and its states, communication failure, host
answers and bundled sessions (spec/06).
-/

namespace Sys2Proof.Machine

open Sys2Proof

/-! ### Sessions -/

/-- Session number of output `j`. -/
def State.sess (s : State) (j : Nat) : Nat := s.fld (VD_SESS_SESSION j)

/-- Fast-path voltage of output `j` in the last SF, in mV (R143). -/
def State.outV (s : State) (j : Nat) : Int := (nth SumRow.rest s.sh.t3 j).vMv

/-- A CCS output (R135). -/
def State.ccs (s : State) (j : Nat) : Bool := s.fld (OUT_CFG_TYPE j) == 0

/-- Drive of the signalling circuit. -/
def State.drive (s : State) (j d : Nat) : State := s.updVh j fun v => { v with drive := d }

/-- What the signalling of an output drives in a session state: −12 V, or CE at 0 V, while UNAVAILABLE; the 5 % duty cycle of a CCS
output from the acceptance of state B; +12 V before, and on CE (R135, R137). A FAULT keeps the duty cycle, and a standby module's
circuits are high-impedance (R156). -/
def State.driveOf (s : State) (j st : Nat) : Nat :=
  if s.flag CQ_GCFG_TWIN_EN && !s.flag CQ_GCFG_TOK then 4
  else if st = 13 then (if s.ccs j then 2 else 3)
  else if s.ccs j && st != 0 then 1 else 0

/-- The signalling of an output that is UNAVAILABLE, by its type: the pilot generates state F, CE none (R135, R137). -/
def State.park (s : State) (j : Nat) : State :=
  let s := s.drive j (s.driveOf j 13)
  if s.ccs j then s.setFld (VD_STAT_PILOT j) 5 else s.iff (s.fld (VD_STAT_PILOT j) == 5) (·.setFld (VD_STAT_PILOT j) 0)

/-- TLS is in use no longer. -/
def State.tlsDown (s : State) (j : Nat) : State := (s.updVh j fun v => { v with tls := none }).setFlag (VD_STAT_TLS j) false

/-- The VC that serves the output runs, the output is enabled, and the module drives the connector (R146, R156). -/
def State.served (s : State) (j : Nat) : Bool :=
  s.flag (OUT_CFG_EN j) && decide (j < s.nOuts) && s.coreRuns (3 + s.outVc j) && s.tok
    && (s.mode == 2 || s.running)

/-- Nothing keeps the output from new sessions: the Safety Island, its front end, a law of its CE that was refused (spec/01
R23, spec/04 R87, spec/09 R236, R240, R242, R252, spec/10 R274). -/
def State.outFree (s : State) (j : Nat) : Bool :=
  let o := s.io j
  o.latched.isEmpty && !o.weld && !o.selfFail && !o.latFail && !s.glb.feNotReady.contains j
    && (s.ce (s.outCe j)).refusedFor == 0
    && (match s.pairOf j with
        | some k => !(s.so k).held
        | none => true)

/-- Enter a session state: E:0x0501 with the output, its session, the old and new codes and, at ENDED, the reason (R145). VD_STATj
keeps the last end reason through the next session (Table 6.16). -/
def State.setSState (s : State) (j new reason : Nat) : State :=
  let old := s.sstate j
  if old = new then s
  else
    let s := s.setFld (VD_STAT_SSTATE j) new
    let s := s.iff (reason != 0) (·.setFld (VD_STAT_REASON j) reason)
    s.event 0x0501 [j, s.sess j, old, new, if new = 11 then reason else 0]

/-- Stop every timer of the dialogue but RESUME_WIN and JOIN_WIN. -/
def State.quiet (s : State) (j : Nat) : State :=
  let ts : List Timer := [.slac j, .setup j, .seq j, .auth j, .cert j, .cc j, .pc j, .loop j, .stop j, .lockConfirm j,
    .paramMode j, .weldWait j, .retryPause j]
  { s with timers := s.timers.filter fun p => !ts.contains p.1 }

/-- An expiry of a timer of Table 6.6 counts in VD_ERRj.TMO. -/
def State.expired (s : State) (j : Nat) : State := s.inc (VD_ERR_TMO j)

/-- Members of the joined session that output `j` is in (R152). -/
def State.joined (s : State) (j : Nat) : List Nat :=
  match (s.vh j).lead with
  | some l => (idx 8).filter fun k => (s.vh k).lead == some l
  | none => []

/-- Join tag of exchange table 0: session number of the lead member (Table 6.8). -/
def State.joinTag (s : State) (j : Nat) : Nat :=
  match (s.vh j).lead with
  | some l => s.sess l
  | none => 0

/-- A member leaves its joined session: E:0x0511; the earliest of the others leads where it led, and the last one left is joined no
longer (R152, R154). -/
def State.leaveJoin (s : State) (j : Nat) : State :=
  match (s.vh j).lead with
  | none => s
  | some _ =>
    let rest := (s.joined j).filter (· != j)
    let s := (s.updVh j fun v => { v with lead := none, wasJoined := true }).setFlag (VD_STAT_JOINED j) false
    let s := s.event 0x0511 [j, s.sess j]
    match rest with
    | [k] => (s.updVh k fun v => { v with lead := none, wasJoined := true }).setFlag (VD_STAT_JOINED k) false
    | k :: t =>
      let first := t.foldl (fun a m => if (s.vh m).joinNo < (s.vh a).joinNo then m else a) k
      if rest.all (fun m => (s.vh m).lead == some j)
        then s.each rest fun s m => s.updVh m fun v => { v with lead := some first } else s
    | [] => s

/-- Change the legal part that no register holds. -/
def State.updLeg (s : State) (f : LegSt → LegSt) : State := { s with leg := f s.leg }

/-- The replay window's registers (spec/08 Table 8.21). -/
def State.tokRegs (s : State) : State :=
  (s.setSat TOK_STAT_WIN s.leg.window.length).setSat TOK_STAT_PEND (s.leg.window.filter (·.pending)).length

/-- The authorisation of a token of output `j` is decided: its entry becomes USED, or leaves the window (spec/08 R216). -/
def State.tokSettle (s : State) (j : Nat) (ok : Bool) : State :=
  match (s.vh j).token with
  | none => s
  | some tid =>
    let s := s.updVh j fun v => { v with token := none }
    let s := s.updLeg fun l =>
      { l with
        window := if ok then l.window.map fun e => if e.tid = tid then { e with pending := false } else e
          else l.window.filter fun e => !(e.tid == tid && e.pending)
        tokWait := l.tokWait.filter fun w => w.2.1 != j }
    s.tokRegs

/-- Request to the host that the dialogue of output `j` awaits is withdrawn. -/
def State.dropReqs (s : State) (j : Nat) : State :=
  let s := s.tokSettle j false
  { s with vehc := { s.vehc with posted := s.vehc.posted.filter fun r => r.out != j || r.sent } }

/-- A retry pause is cut short: a CCS output that has accepted state B drives the 5 % duty cycle again (R135). -/
def State.endPause (s : State) (j : Nat) : State :=
  s.iff (s.timing (.retryPause j) && s.ccs j && (s.vh j).drive == 0) (·.drive j 1)

/-- The dialogue is over: ENDED with a reason; the session leaves its bundle (R147, R154). -/
def State.endNow (s : State) (j reason : Nat) : State :=
  let s := (((s.endPause j).quiet j).stopTimer (.resume j)).leaveJoin j
  let s := (s.dropReqs j).updVh j fun v =>
    { v with lost := false, authReq := none, certReq := none, evseStop := 0, stopTold := false, endReason := reason
             pairAsked := false, row := VehRow.rest }
  s.setSState j 11 reason

/-- Enter STOPPING with the reason with which the session will end (R147, R149); the charge loop is over. -/
def State.stopNow (s : State) (j reason : Nat) : State :=
  let s := (((s.stopTimer (.stop j)).stopTimer (.loop j)).updVh j fun v =>
    { v with endReason := reason, evseStop := 0, stopTold := false })
  (s.leaveJoin j).setSState j 9 0

/-- A session ends for a reason of its own state: through STOPPING where current may flow, at once before, and a stop in
progress keeps its reason (R147, R149). -/
def State.finish (s : State) (j reason : Nat) : State :=
  match s.sstate j with
  | 7 | 8 => s.stopNow j reason
  | 9 | 10 => s
  | 0 | 11 | 12 | 13 => s
  | _ => s.endNow j reason

/-- An EVSE stop: the next response announces it; a session without a link ends at once (R149). -/
def State.evseStopOne (s : State) (j reason : Nat) : State :=
  match s.sstate j with
  | 2 | 3 | 4 | 5 | 6 | 7 | 8 =>
    if (s.vh j).evseStop = 0 then s.updVh j fun v => { v with evseStop := reason, stopTold := false } else s
  | 1 => s.endNow j reason
  | _ => s

/-- An output that a CE reports failed: an EVSE stop with reason 15, and the session leaves its bundle. It gets no grace: in transfer or
standby STOPPING at once, and the next response still announces the stop; before transfer the session ends once it has been announced
(R149, R154). -/
def State.outFailed (s : State) (j : Nat) : State :=
  match s.sstate j with
  | 7 | 8 =>
    let told := (s.vh j).stopTold
    (s.stopNow j 15).updVh j fun v => { v with evseStop := 15, stopTold := told }
  | _ =>
    let s := (s.leaveJoin j).evseStopOne j 15
    s.iff (decide (5 ≤ s.sstate j ∧ s.sstate j ≤ 6) && (s.vh j).stopTold) (·.endNow j (s.vh j).evseStop)

/-- A stop by host software or by credit applies to every member of a joined session (R154). -/
def State.evseStopAll (s : State) (j reason : Nat) : State :=
  let ms := s.joined j
  s.each (if ms.isEmpty then [j] else ms) fun s k => s.evseStopOne k reason

/-- A safety reaction: no message, reason 14 (R149). -/
def State.safetyEnd (s : State) (j : Nat) : State :=
  let ms := s.joined j
  s.each (if ms.isEmpty then [j] else ms) fun s k =>
    let s := s.finish k 14
    s.iff (s.sstate k == 9) fun s => s.updVh k fun v => { v with endReason := 14 }

/-- The output becomes UNAVAILABLE, with reason 14 for a session that it ends, or IDLE again when it may be served
(R135, R137, R146). A new vehicle must be accepted afresh. -/
def State.vehMode (s : State) (j : Nat) : State :=
  let ok := s.mode == 2 || s.running
  if ok then
    if s.sstate j = 13 then
      ((s.updVh j fun v => { Veh.idle with lockCmd := v.lockCmd, drive := s.driveOf j 0, price := v.price, holdI := v.holdI }).setFld (VD_STAT_PILOT j) 0).setSState j 0 0
    else s
  else if s.sstate j = 13 then s
  else
    let open' := s.sstate j != 0 && s.sstate j != 11 && s.sstate j != 12
    let s := (((s.quiet j).stopTimer (.resume j)).leaveJoin j).dropReqs j
    let s := (s.updVh j fun v => { Veh.idle with lockCmd := v.lockCmd, endReason := 14, price := v.price, holdI := v.holdI }).park j
    let s := (s.tlsDown j).setFlag (VD_STAT_LINK j) false
    s.setSState j 13 (if open' then 14 else 0)

/-! ### Communication failure (R150) -/

/-- Retry: +12 V constant (CCS) or CE held for 3 s, then PLUGGED again; after the last retry the session ends, unless a resume is
still possible: its matching waits for the vehicle until RESUME_WIN. The next matching takes a new key (R138). -/
def State.retryOr (s : State) (j reason : Nat) : State :=
  let v := s.vh j
  let s := ((s.quiet j).updVh j fun v =>
    { v with
      sdp := false, tcp := false, phase := 0, pairAsked := false, nmk := none, svc := if v.lost then v.svc else 0
      payDone := v.lost && v.payDone }).setFlag (VD_STAT_LINK j) false
  let s := (s.tlsDown j).dropReqs j
  let s := s.updVh j fun v => { v with authReq := none, certReq := none }
  if v.retries < s.fld VD_GCFG_RETRY then
    let s := (s.updVh j fun v => { v with retries := v.retries + 1, drive := if s.ccs j then 0 else v.drive })
    (s.setSState j 1 0).startTimer (.retryPause j)
  else if v.lost then (s.iff (s.ccs j) (·.drive j 1)).setSState j 1 0
  else s.endNow j reason

/-- Cause of a communication failure: 0 the link or another cause, 1 TLS handshake, 2 SEQ_TMO, 3 LOOP_TMO, 4 matching. The reason
of a session that is not resumed is 9 after LOOP_TMO and 10 otherwise, as Table 6.9 has it (log entry 64). An EVSE stop that stands is announced again after a resume
(R149). -/
def State.commLost (s : State) (j cause : Nat) : State :=
  let v := s.vh j
  let why := if cause = 3 then 9 else 10
  let st := s.sstate j
  match st with
  | 1 =>
    let s := (s.inc (VD_ERR_SLAC j)).event (if s.ccs j then 0x0504 else 0x0505) [j, s.sess j]
    s.retryOr j (if v.lost then v.endReason else 6)
  | 2 =>
    let s := s.iff (cause != 1) fun s => s.event 0x050F [j, s.sess j]
    let s := s.iff v.lead.isSome fun s => (s.leaveJoin j).updVh j fun v => { v with wasJoined := false }
    if cause = 1 ∧ v.tlsRetried then s.endNow j 7
    else
      let s := s.updVh j fun v => { v with tlsRetried := v.tlsRetried || cause == 1 }
      s.retryOr j (if cause = 1 then 7 else if v.lost then v.endReason else why)
  | 3 | 4 | 5 | 6 | 7 | 8 =>
    let s := s.event (if cause = 3 then 0x050E else 0x050F) [j, s.sess j]
    let s := (s.leaveJoin j).updVh j fun v =>
      { v with lost := true, endReason := why, stopTold := false, paramDone := false, schedDone := false, row := if st = 5 ∨ st = 6 then { v.row with vTgt := 0 } else v.row }
    (s.retryOr j why).startTimer (.resume j)
  | 9 | 10 => (s.event 0x050F [j, s.sess j]).setFlag (VD_STAT_LINK j) false
  | _ => (s.setFlag (VD_STAT_LINK j) false).tlsDown j

/-! ### Responses (R143) -/

/-- The lower of two limits in each part. -/
def EvseLimits.meet (a b : EvseLimits) : EvseLimits :=
  ⟨min a.iMax b.iMax, min a.idMax b.idMax, min a.gChg b.gChg, min a.gDis b.gDis, min a.vMax b.vMax, min a.pMax b.pMax⟩

/-- Bidirectional service is offered (R155). -/
def State.bptOffered (s : State) (j : Nat) : Bool :=
  s.fld (VD_STAT_PROTO j) == 3 && s.flag (VD_CFG_BPT j) && ((idx 2).any fun f => decide (0 < s.fld (FEED_EXP_PEXP f))
    && ((idx s.nLinks).any fun n => s.wired n j && s.feedOf n == f))

/-- Maximum current of an output in A: its ILIM, in an active bundle its part I_B × ILIM_j / ΣILIM, rounded down and capped at
ILIM_j (R153). -/
def State.maxCurrent (s : State) (j : Nat) : Nat :=
  let own := (nth LimRow.rest s.sh.t2.outs j).ilim.toNat
  let b := (idx 4).find? fun b => (nth LimBnd.rest s.sh.t2.bnds b).active
    && (nth LimBnd.rest s.sh.t2.bnds b).members.contains j
  match b with
  | some b =>
    let bd := nth LimBnd.rest s.sh.t2.bnds b
    let sum := bd.members.foldl (fun a k => a + (nth LimRow.rest s.sh.t2.outs k).ilim.toNat) 0
    if sum = 0 then 0 else min own (bd.ilim.toNat * own / sum) / 10
  | none => own / 10

/-- The limits that a response announces, from exchange table 2 as it stands: in a hold none rises above its value when the
hold began (R143, R153, R157). Without bidirectional service there is no discharge. -/
def State.announced (s : State) (j : Nat) : EvseLimits :=
  let r := nth LimRow.rest s.sh.t2.outs j
  let v := s.vh j
  let i := s.maxCurrent j
  let bpt := v.bpt && s.bptOffered j
  let lim : EvseLimits :=
    { iMax := i, idMax := if bpt then min i (v.row.idMax / 10) else 0, gChg := r.g.toNat / 10
      gDis := if bpt then (-r.g).toNat / 10 else 0, vMax := r.vlim, pMax := r.plim }
  match v.holdI with
  | some h => if s.holding then lim.meet h else lim
  | none => lim

/-- Send a response, `loop` one of the charge loop: the limits announced, the present values of exchange table 3, the legal
readings; an EVSE stop that waits is announced and its STOP_TMO starts; LOOP_TMO starts on a charge-loop response and SEQ_TMO on
any other (R143, R144, R149). -/
def State.reply (s : State) (j code : Nat) (loop : Bool) : State :=
  let v := s.vh j
  let st := s.sstate j
  let lim := s.announced j
  let t3 := nth SumRow.rest s.sh.t3 j
  let m : VehMsg :=
    { lim := lim, vMv := t3.vMv, iMa := t3.iMa, imp := s.whImp j % 10 ^ 12, exp := s.whExp j % 10 ^ 12, sched := none, payload := [], services := [] }
  let tell := v.evseStop != 0 && !v.stopTold
  let s := s.updVh j fun v => { v with resp := code, respStop := v.evseStop != 0, stopTold := v.stopTold || tell, msg := m }
  let s := (s.setSat (VD_EVSE_ILIM j) lim.iMax).setSat (VD_EVSE_IDLIM j) lim.idMax
  let s := s.iff tell fun s =>
    (s.event 0x0513 [j, s.sess j, v.evseStop]).iff (decide (2 ≤ st ∧ st ≤ 8)) (·.startTimer (.stop j))
  if loop ∧ st = 7 then s.startTimer (.loop j) else if 2 ≤ st ∧ st ≤ 10 then s.startTimer (.seq j) else s

/-- A response outside the charge loop. -/
def State.respond (s : State) (j code : Nat) : State := s.reply j code false

/-- The dialogue of the output takes requests: the link is up, no retry pause runs, and the VC runs. -/
def State.dialog (s : State) (j : Nat) : Bool :=
  s.flag (VD_STAT_LINK j) && !s.timing (.retryPause j) && s.served j && decide (2 ≤ s.sstate j ∧ s.sstate j ≤ 10)

/-- An unsupported or out-of-sequence request: sequence error, and the session ends with reason 8, through STOPPING where current
may flow and at once in a stop (R142). -/
def State.seqError (s : State) (j : Nat) : State :=
  let s := s.respond j 4
  if s.sstate j = 9 ∨ s.sstate j = 10 then s.endNow j 8 else s.finish j 8

/-- Serve a request where `ok` holds, after SEQ_TMO has stopped; answer a sequence error elsewhere. -/
def State.request (s : State) (j : Nat) (ok : Bool) (f : State → State) : State :=
  if s.dialog j then
    let s := s.stopTimer (.seq j)
    if ok then f s else s.seqError j
  else s

/-- Protocol of the session: 1 DIN, 2 ISO 15118-2, 3 ISO 15118-20. -/
def State.proto (s : State) (j : Nat) : Nat := s.fld (VD_STAT_PROTO j)

/-! ### Host answers (R151) -/

/-- Post an authorisation request; AUTH_TMO starts. A later identifier replaces one that is outstanding. -/
def State.postAuth (s : State) (j idType : Nat) (ident payload : List Byte) : State :=
  let s := s.iff (idType != 4) (·.tokSettle j false)
  let rid := s.vehc.nextReq
  let r : HostReq :=
    { rid := rid, kind := 1, out := j, idType := idType, ident := ident, session := s.sess j, tai := s.now
      deadlineMs := s.fld VD_TMO0_AUTH_TMO * 10, payload := payload, sent := false }
  let s : State := { s with vehc := { s.vehc with nextReq := rid + 1, posted := s.vehc.posted ++ [r] } }
  (s.updVh j fun v => { v with authReq := some rid, idType := idType, ident := ident }).startTimer (.auth j)

/-- Post a certificate-installation request; CERT_TMO starts. -/
def State.postCert (s : State) (j : Nat) (payload : List Byte) : State :=
  let rid := s.vehc.nextReq
  let r : HostReq :=
    { rid := rid, kind := 2, out := j, idType := 0, ident := [], session := s.sess j, tai := s.now
      deadlineMs := s.fld VD_TMO0_CERT_TMO * 100, payload := payload, sent := false }
  let s : State := { s with vehc := { s.vehc with nextReq := rid + 1, posted := s.vehc.posted ++ [r] } }
  (s.updVh j fun v => { v with certReq := some rid, certAns := 0, certPay := [] }).startTimer (.cert j)

/-- Bundle of output `j` (R113). -/
def State.bundleOf (s : State) (j : Nat) : Option Nat := (idx 4).find? fun b => bit (s.fld (BND_CFG_MEMBERS b)) j

/-- EVCCID of output `j`. -/
def State.evcc (s : State) (j : Nat) : Nat := s.fld (VD_EVCC_LO_EVCCID j) + s.fld (VD_EVCC_HI_EVCCID j) * 2 ^ 32

/-- Authorisation is positive: the session passes from AUTH to PARAM, and the first of a bundle opens JOIN_WIN (R144,
R147). While the record store is full it ends at AUTH with reason 14 (spec/08 R210). -/
def State.passAuth (s : State) (j : Nat) : State :=
  if s.flag LEG_STATUS_FULL ∧ s.sstate j = 3 then s.endNow j 14 else
  let s := (s.stopTimer (.auth j)).updVh j fun v => { v with authOk := true, authReq := none, paramDone := false }
  let first := match s.bundleOf j with
    | some b => (idx 8).all fun k => k == j || !bit (s.fld (BND_CFG_MEMBERS b)) k || !s.timing (.join k)
    | none => false
  let s := s.iff (first && (s.vh j).lead.isNone) (·.startTimer (.join j))
  s.iff (s.sstate j == 3) (·.setSState j 4 0)

/-- Join output `j` to the session of output `k`: it asks no host any more (R152). JOIN_WIN runs on for a bundle that still lacks a member (Table 6.6). -/
def State.joinTo (s : State) (j k : Nat) : State :=
  let lead := (s.vh k).lead.getD k
  let n := s.vehc.joins
  let s := s.iff (s.vh k).lead.isNone (·.updVh k fun v => { v with lead := some k, joinNo := n + 1 })
  let s := (s.updVh j fun v => { v with lead := some lead, joinNo := n + 2 }).stopTimer (.auth j)
  let s := (s.tokSettle j false).updVh j fun v => { v with authReq := none }
  let s : State :=
    { s with vehc := { s.vehc with
        joins := n + 2, posted := s.vehc.posted.filter fun r => r.out != j || r.sent || r.kind != 1 } }
  let s := (s.setFlag (VD_STAT_JOINED j) true).setFlag (VD_STAT_JOINED k) true
  let full := match s.bundleOf j with
    | some b => (idx 8).all fun m => !bit (s.fld (BND_CFG_MEMBERS b)) m || (s.vh m).lead == some lead
    | none => true
  let s := s.iff full (·.stopTimer (.join lead))
  s.event 0x0510 [j, s.sess lead]

/-- The earlier member that output `j` may join: of its bundle, past AUTH, the JOIN_WIN of its lead running; a member that has
resumed rejoins without that limit (R152, R154). -/
def State.joinable (s : State) (j k : Nat) : Bool :=
  let l := (s.vh k).lead.getD k
  j != k && s.bundleOf j == s.bundleOf k && (s.bundleOf j).isSome && (s.vh k).authOk && (s.vh j).lead.isNone
    && decide (4 ≤ s.sstate k ∧ s.sstate k ≤ 8)
    && ((s.vh j).wasJoined || (s.timing (.join l) && decide (s.elapsed (.join l) < s.fld VD_GCFG_JOIN_WIN * sec)))

/-! ### Connector signalling (R135 to R137) -/

/-- Window of a high plateau in 10 mV: 0 A to 4 E, 6 invalid (Table 6.2). -/
def pilotWin (h : Int) : Nat :=
  if 1350 ≤ h ∨ h < -150 then 6 else if 1050 ≤ h then 0 else if 750 ≤ h then 1 else if 450 ≤ h then 2
  else if 150 ≤ h then 3 else 4

/-- The state of one evaluation: windows, diode check while a duty cycle is driven, D_OK (R136). The second part marks a
diode fault. A diode fault, a sample out of range and D without D_OK are one window, invalid, for the four evaluations, and so are C
and D with D_OK (DESIGN CHOICE, log entry 72). -/
def State.pilotEval (s : State) (j : Nat) (h l : Int) : Nat × Bool :=
  let w := pilotWin h
  let bcd := w == 1 || w == 2 || w == 3
  let diode := bcd && s.ccs j && (s.vh j).drive == 1 && !decide (-1350 ≤ l ∧ l < -1050)
  if diode then (6, true)
  else if w = 3 then (if s.flag (VD_CFG_D_OK j) then 2 else 6, false) else (w, false)

/-- The connector is gone: IDLE, reason 17 for a session in progress (R147). -/
def State.unplug (s : State) (j : Nat) : State :=
  let st := s.sstate j
  if st = 13 then s
  else
    let sess := st != 0 && st != 11 && st != 12
    let s := (((s.quiet j).stopTimer (.resume j)).stopTimer (.join j)).leaveJoin j
    let s := (s.dropReqs j).updVh j fun v =>
      { Veh.idle with
        idState := v.idState, lockCmd := v.lockCmd, started := v.started, price := v.price, holdI := v.holdI
        endReason := if sess then 17 else v.endReason }
    let s := (s.tlsDown j).setFlag (VD_STAT_LINK j) false
    s.setSState j 0 (if sess then 17 else 0)

/-- A new session of output `j`: what is told once per session may be told again (spec/05 R125, R130). -/
def State.untold (s : State) (j : Nat) : State :=
  s.updSh fun h => { h with derTold := h.derTold.set j false, told411 := h.told411.set j false }

/-- Plug-in: PLUGGED with a session number; a CCS output drives the 5 % duty cycle and waits for SLAC (R135, R138, R145). -/
def State.plugIn (s : State) (j : Nat) : State :=
  if s.sstate j = 0 ∧ s.served j ∧ s.outFree j then
    let n := s.vehc.nextSession
    let s : State := { s with vehc := { s.vehc with nextSession := (n + 1) % 2 ^ 32 } }
    let s := s.updVh j fun v => { Veh.idle with drive := s.driveOf j 1, idState := v.idState, lockCmd := v.lockCmd, price := v.price, holdI := v.holdI }
    let s := ((s.untold j).setFld (VD_SESS_SESSION j) n).setFld (VD_STAT_PROTO j) 0
    let s := (s.setReg (R_VD_EVCC_LO j) 0).setReg (R_VD_EVCC_HI j) 0
    (s.setSState j 1 0).iff (s.ccs j) (·.startTimer (.slac j))
  else s

/-- Signalling is invalid: FAULT. A session in progress is over without a reason of Table 6.18 (R147, log entry 64). -/
def State.signalFault (s : State) (j : Nat) : State :=
  let st := s.sstate j
  let s := ((((s.endPause j).quiet j).stopTimer (.resume j)).leaveJoin j).dropReqs j
  let s := s.updVh j fun v => { v with lost := false, row := VehRow.rest, pairAsked := false, evseStop := 0, stopTold := false }
  (s.iff (st != 0 && st != 11 && st != 12) (·.setFld (VD_STAT_REASON j) 0)).setSState j 12 0

/-- An accepted state of the pilot or of CE (R136, R137, R147, R149). -/
def State.acceptPilot (s : State) (j st : Nat) (diode : Bool) : State :=
  let old := s.fld (VD_STAT_PILOT j)
  let s := s.setFld (VD_STAT_PILOT j) st
  if st = 6 then
    if old = 6 then s
    else
      let s := (s.inc (VD_ERR_PILOT j)).event 0x0502 [j, s.sess j]
      let s := s.iff diode fun s => s.event 0x0503 [j, s.sess j]
      s.signalFault j
  else if st = 0 then s.unplug j
  else if st = 1 then
    if s.sstate j = 7 ∧ old = 2 then s.stopNow j 1
    else if s.ccs j ∨ (s.vh j).idState = 1 then s.plugIn j else s
  else s

/-- PILOT_STATE_ACCEPTED: four consecutive evaluations of the CCS pilot, plateaus in 10 mV (R136). -/
def execPilotStateAccepted (out : Fin 8) (high low : List Int) (s : State) : Host.Outcome State Fault Refusal :=
  s.live (
    let j := out.val
    let ev := (high.zip (low ++ List.replicate high.length 0)).map fun p => s.pilotEval j p.1 p.2
    match ev with
    | [a, b, c, d] =>
      if s.ccs j && s.served j && a.1 == b.1 && b.1 == c.1 && c.1 == d.1 then
        let s := (s.setFldS (VD_PILOT_HIGH j) (nth 0 high 3)).setFldS (VD_PILOT_LOW j) (nth 0 low 3)
        s.acceptPilot j a.1 a.2
      else s
    | _ => s)

/-- Window of the ID line in mV: 0 no connector, 1 inserted, 2 invalid (Table 6.3): a short and any other value are one window for the four
evaluations (DESIGN CHOICE, log entry 72). -/
def idWin (v : Int) : Nat := if 4500 ≤ v then 0 else if 2000 ≤ v ∧ v < 3400 then 1 else 2

/-- MCS_LINE_STATE_ACCEPTED: four consecutive evaluations, in mV, of the ID line or of CE (R137). -/
def execMcsLineStateAccepted (out : Fin 8) (isId : Bool) (mv : List Int) (s : State) : Host.Outcome State Fault Refusal :=
  s.live (
    let j := out.val
    let win (v : Int) : Nat := if isId then idWin v else (s.pilotEval j (v / 10) 0).1
    match mv with
    | [a, b, c, d] =>
      if !s.ccs j && s.served j && win a == win b && win b == win c && win c == win d then
        if isId then
          let old := (s.vh j).idState
          let s := (s.setFldS (VD_PILOT_LOW j) (d / 10)).updVh j fun v => { v with idState := win a }
          match win a with
          | 0 => s.unplug j
          | 1 => if s.fld (VD_STAT_PILOT j) = 1 then s.plugIn j else s
          | _ => s.iff (old != 2) fun s =>
            ((s.inc (VD_ERR_PILOT j)).event 0x0502 [j, s.sess j]).signalFault j
        else (s.setFldS (VD_PILOT_HIGH j) (d / 10)).acceptPilot j (win a) false
      else s
    | _ => s)

/-! ### Links (R138 to R140) -/

/-- CM_SLAC_PARM_REQ: the module answers, with a new network membership key of the KC's random generator for this matching; 128
random bits do not recur (R138). A lost session's matching waits beyond SLAC_TMO (R150). -/
def execCmSlacParmReq (out : Fin 8) (s : State) : Host.Outcome State Fault Refusal :=
  s.live (
    if s.ccs out && s.served out && s.sstate out == 1 && !s.timing (.retryPause out)
        && (s.timing (.slac out) || (s.vh out).lost) then
      let d := s.draw
      d.2.updVh out fun v => { v with nmk := some (d.1 % 2 ^ 128), atten := [], resp := 1 }
    else s)

/-- CM_VALIDATE is answered "not required" (R138). -/
def execCmValidate (out : Fin 8) (s : State) : Host.Outcome State Fault Refusal :=
  s.live (if s.ccs out && s.served out && s.sstate out == 1 then s.updVh out fun v => { v with resp := 6 } else s)

/-- The link comes up: PLUGGED to SETUP, SETUP_TMO starts (R144, R147). -/
def State.linkUp (s : State) (j : Nat) : State :=
  if s.served j && s.sstate j == 1 && !s.timing (.retryPause j) then
    let s := ((s.stopTimer (.slac j)).setFlag (VD_STAT_LINK j) true).startTimer (.setup j)
    s.setSState j 2 0
  else s

/-- SLAC_MATCH: the attenuation sounding has been answered with the measured profile, and the vehicle has confirmed a match
(R138). -/
def execSlacMatch (out : Fin 8) (profile : List Byte) (s : State) : Host.Outcome State Fault Refusal :=
  s.live (if s.ccs out && (s.vh out).nmk.isSome then (s.updVh out fun v => { v with atten := profile }).linkUp out else s)

/-- PLCA_LINK_UP: the vehicle's node has used a transmit opportunity (R139). -/
def execPlcaLinkUp (out : Fin 8) (s : State) : Host.Outcome State Fault Refusal :=
  s.live (if s.ccs out then s else s.linkUp out)

/-- PHY_SIGNAL_LOST: no signal for 10 ms (R139, R150). -/
def execPhySignalLost (out : Fin 8) (s : State) : Host.Outcome State Fault Refusal :=
  s.live (if s.flag (VD_STAT_LINK out) || (s.sstate out == 1 && !s.timing (.retryPause out)) then s.commLost out 0 else s)

/-- SECC_DISCOVERY_REQ is answered once the link is up (R140). -/
def execSeccDiscoveryReq (out : Fin 8) (s : State) : Host.Outcome State Fault Refusal :=
  s.live (if s.dialog out && s.sstate out == 2 then s.updVh out fun v => { v with sdp := true, tcp := true, resp := 1 } else s)

/-- A TLS handshake fails: E:0x0508, counted, and communication is lost (R140, R150). -/
def State.tlsFailed (s : State) (j : Nat) : State :=
  ((s.inc (VD_ERR_TLS j)).event 0x0508 [j, s.sess j]).commLost j 1

/-- TCP_CLOSED: the connection has closed or reset, or a TLS alert came (R150). -/
def execTcpClosed (out : Fin 8) (s : State) : Host.Outcome State Fault Refusal :=
  s.live (if s.dialog out && (s.vh out).tcp then (s.updVh out fun v => { v with tcp := false }).commLost out 0
    else if s.sstate out = 11 then (s.updVh out fun v => { v with tcp := false }).tlsDown out
    else s)

/-! ### Protocol and session set-up (R141, R142) -/

/-- Ranking of PPRIO. -/
def ranking : Nat → List Nat
  | 1 => [2, 3, 1]
  | 2 => [1, 2, 3]
  | _ => [3, 2, 1]

/-- What the module offers in a TLS handshake, by the protocols enabled, and so what it agrees on with the vehicle: TLS 1.3 for ISO
15118-20, else TLS 1.2 for ISO 15118-2; of the suites and groups of Table 6.4, in its order, the first that the vehicle names (R140,
log entry 30). -/
def State.tlsPick (s : State) (j : Nat) (h : TlsHello) : Option TlsConn :=
  let pick (on v13 : Bool) (su : List TlsSuite) (gr : List TlsGroup) : Option TlsConn :=
    match on, su.find? h.suites.contains, gr.find? h.groups.contains with
    | true, some a, some b => some ⟨v13, a, b⟩
    | _, _, _ => none
  match pick (h.v13 && s.flag (VD_CFG_ISO20 j)) true [.aes256GcmSha384, .chacha20Poly1305Sha256] [.secp521r1, .x448] with
  | some c => some c
  | none => pick (h.v12 && s.flag (VD_CFG_ISO2 j)) false [.ecdheEcdsaAes128CbcSha256, .ecdhEcdsaAes128CbcSha256] [.secp256r1]

/-- A protocol may be selected: the vehicle offers it, the output enables it, and the connection has the transport security of Table
6.4: DIN SPEC 70121 none, ISO 15118-2 TLS 1.2, or none where EIM may do without, ISO 15118-20 TLS 1.3. -/
def State.protoOk (s : State) (j : Nat) (din iso2 iso20 : Bool) (p : Nat) : Bool :=
  let tls := (s.vh j).tls.map (·.v13)
  match p with
  | 1 => din && s.flag (VD_CFG_DIN j) && tls == none
  | 2 => iso2 && s.flag (VD_CFG_ISO2 j)
      && (tls == some false || (tls == none && s.flag (VD_CFG_EIM j) && !s.flag (VD_CFG_ISO2_TLS j)))
  | _ => iso20 && s.flag (VD_CFG_ISO20 j) && tls == some true

/-- SUPPORTED_APP_PROTOCOL_REQ (R141). -/
def execSupportedAppProtocolReq (out : Fin 8) (din iso2 iso20 : Bool) (s : State) : Host.Outcome State Fault Refusal :=
  s.live (s.request out (s.sstate out == 2 && (s.vh out).phase == 0 && (s.vh out).tcp) fun s =>
    match (ranking (s.fld VD_GCFG_PPRIO)).find? (s.protoOk out din iso2 iso20) with
    | some p =>
      let s := ((s.setFld (VD_STAT_PROTO out) p).updVh out fun v => { v with phase := 1 }).event 0x0506 [out, s.sess out, p]
      s.respond out 1
    | none => ((s.respond out 3).event 0x0507 [out, s.sess out]).endNow out 5)

/-- STATE of a reader port, which stays at 5 while its antenna fault stands (spec/12 R301). -/
def State.portShow (s : State) (n st : Nat) : State := if s.fld (NR_STAT_STATE n) = 5 then s else s.setFld (NR_STAT_STATE n) st

/-- Port that holds a card for output `j` (spec/12 R303). -/
def State.heldCard (s : State) (j : Nat) : Option (Nat × List Byte) :=
  (idx 4).findSome? fun p =>
    match (nth NfcPort.rest s.nfc p).held with
    | some u =>
      if bit (s.fld (NR_CFG_OUTS p)) j && s.timing (.cardHold p) && !s.due (.cardHold p) (s.fld NR_GCFG_CARD_HOLD * sec)
      then some (p, u) else none
    | none => none

/-- The session enters AUTH: a joined session asks no host; under EIM a held card, else the vehicle's own identifier, is
posted (R151, R152, spec/12 R303). -/
def State.enterAuth (s : State) (j : Nat) : State :=
  let s := (s.setSState j 3 0).updVh j fun v => { v with authAt := s.now }
  let v := s.vh j
  if v.lead.isSome ∧ v.lead ≠ some j then s
  else if v.payment = 1 then
    match s.heldCard j with
    | some (p, u) =>
      let s : State := { s with nfc := upd s.nfc p fun q => { q with held := none, posted := some u } }
      let s := ((s.stopTimer (.cardHold p)).startTimer (.posted p)).portShow p 1
      (s.postAuth j 3 u []).event 0x0B02 [p, s.sess j]
    | none => s.postAuth j 1 (toLE 6 (s.evcc j)).reverse []
  else s

/-- A resumed session (R150): without new authorisation it re-enters at PARAM, else at AUTH; a member with the EVCCID of another
rejoins it (R152, R154), one without it when the host joins it again. -/
def State.resume (s : State) (j : Nat) : State :=
  let s := (s.stopTimer (.resume j)).updVh j fun v => { v with lost := false, endReason := 0, phase := 2, paramDone := false, schedDone := false }
  let s := s.event 0x0515 [j, s.sess j]
  let s := match (idx 8).find? fun k => (s.vh j).wasJoined && s.joinable j k && s.evcc k == s.evcc j with
    | some k => s.joinTo j k
    | none => s
  if (s.vh j).authOk then s.setSState j 4 0 else s.enterAuth j

/-- SESSION_SETUP_REQ: EVCCID is recorded; a lost session is resumed when it is named within RESUME_WIN; the same EVCCID on
an earlier member of the bundle joins the sessions (R145, R150, R152). -/
def execSessionSetupReq (out : Fin 8) (session : Nat) (evccid : BitVec 48) (s : State) : Host.Outcome State Fault Refusal :=
  s.live (s.request out (s.sstate out == 2 && (s.vh out).phase == 1) fun s =>
    let j := out.val
    let v := s.vh j
    let s := s.stopTimer (.setup j)
    let s := (s.setFld (VD_EVCC_LO_EVCCID j) (evccid.toNat % 2 ^ 32)).setFld (VD_EVCC_HI_EVCCID j) (evccid.toNat / 2 ^ 32)
    if v.lost && session == s.sess j && s.timing (.resume j) && !s.due (.resume j) (s.fld VD_GCFG_RESUME_WIN * sec) then (s.resume j).respond j 1
    else
      let s := if v.lost then
          let n := s.vehc.nextSession
          let s := (s.leaveJoin j).stopTimer (.resume j)
          let s := s.setSState j 11 v.endReason
          let s : State := { s with vehc := { s.vehc with nextSession := (n + 1) % 2 ^ 32 } }
          let s := ((s.untold j).setFld (VD_SESS_SESSION j) n).updVh j fun v =>
            { Veh.idle with
              drive := v.drive, idState := v.idState, lockCmd := v.lockCmd, price := v.price, holdI := v.holdI, sdp := true, tcp := true
              tls := v.tls, phase := 1, nmk := v.nmk, atten := v.atten }
          s.setSState j 2 0
        else s
      let s := s.updVh j fun v => { v with phase := 2, started := true }
      let mate := (idx 8).find? fun k => s.joinable j k && s.evcc k == evccid.toNat
      let s := match mate with
        | some k => s.joinTo j k
        | none => s
      s.respond j 1)

/-- Services are discussed in SETUP; under ISO 15118-20 also after authorisation (Table 6.5). -/
def State.svcOk (s : State) (j : Nat) : Bool :=
  (s.sstate j == 2 && decide (2 ≤ (s.vh j).phase))
    || (s.proto j == 3 && (s.sstate j == 3 || s.sstate j == 4 || s.sstate j == 8))

/-- The services that the module offers on output `j`: DC, or MCS on an MCS output, and its bidirectional one (R142, R155). -/
def State.offer (s : State) (j : Nat) : List SvcKind :=
  let bpt := s.bptOffered j
  if s.ccs j then (if bpt then [.dc, .dcBpt] else [.dc]) else (if bpt then [.mcs, .mcsBpt] else [.mcs])

/-- SERVICE_DISCOVERY_REQ: the response carries the services offered (R142). -/
def execServiceDiscoveryReq (out : Fin 8) (s : State) : Host.Outcome State Fault Refusal :=
  s.live (s.request out (s.svcOk out) fun s =>
    (s.respond out 1).updVh out fun v => { v with svc := max v.svc 1, msg := { v.msg with services := s.offer out } })

/-- SERVICE_DETAIL_REQ, after ServiceDiscovery: not part of DIN SPEC 70121 (Table 6.5). -/
def execServiceDetailReq (out : Fin 8) (s : State) : Host.Outcome State Fault Refusal :=
  s.live (s.request out (s.svcOk out && decide (2 ≤ s.proto out ∧ 1 ≤ (s.vh out).svc)) fun s => s.respond out 1)

/-- SERVICE_SELECTION_REQ, after ServiceDiscovery: ISO 15118-20 only (Table 6.5); a bidirectional service that is not offered is answered so,
with E:0x0516 (R155). -/
def execServiceSelectionReq (out : Fin 8) (bpt dynamic : Bool) (s : State) : Host.Outcome State Fault Refusal :=
  s.live (s.request out (s.svcOk out && s.proto out == 3 && decide (1 ≤ (s.vh out).svc)) fun s =>
    if bpt && !s.bptOffered out then (s.event 0x0516 [out, s.sess out]).respond out 5
    else (s.updVh out fun v => { v with bpt := bpt, dynamic := dynamic, svc := 2 }).respond out 1)

/-- PAYMENT_SELECTION_REQ, after ServiceDiscovery but under ISO 15118-20: EIM, or contract under ISO 15118 with TLS, as the output offers them (Tables 6.4, 6.5). -/
def execPaymentSelectionReq (out : Fin 8) (contract : Bool) (s : State) : Host.Outcome State Fault Refusal :=
  s.live (s.request out (s.sstate out == 2 && decide (2 ≤ (s.vh out).phase) && (s.proto out == 3 || decide (1 ≤ (s.vh out).svc))) fun s =>
    let j := out.val
    let tls := s.flag (VD_STAT_TLS j)
    let ok := if contract then s.flag (VD_CFG_PNC j) && tls && decide (2 ≤ s.proto j)
      else s.flag (VD_CFG_EIM j) && (s.proto j != 2 || tls || !s.flag (VD_CFG_ISO2_TLS j))
    if ok then
      ((s.updVh j fun v => { v with payment := if contract then 2 else 1, phase := 3 }).enterAuth j).respond j 1
    else s.respond j 3)

/-- PAYMENT_DETAILS_REQ: ISO 15118-2 under contract payment: the eMAID with its chain is posted (R151). -/
def execPaymentDetailsReq (out : Fin 8) (emaid chain : List Byte) (s : State) : Host.Outcome State Fault Refusal :=
  s.live (s.request out (s.sstate out == 3 && s.proto out == 2 && (s.vh out).payment == 2) fun s =>
    let s := s.updVh out fun v => { v with chain := chain, payDone := true }
    let local' := (s.vh out).lead.isSome && (s.vh out).lead != some out.val
    (s.iff (!local') fun s => s.postAuth out 2 emaid chain).respond out 1)

/-- CERTIFICATE_INSTALLATION_REQ: posted to the host; Ongoing while its answer is outstanding, FAILED after CERT_TMO
(R143, R151). -/
def execCertificateInstallationReq (out : Fin 8) (payload : List Byte) (s : State) : Host.Outcome State Fault Refusal :=
  s.live (s.request out (s.sstate out == 3 && decide (2 ≤ s.proto out) && (s.vh out).payment == 2) fun s =>
    let v := s.vh out
    if v.certAns ≠ 0 then
      ((s.updVh out fun v => { v with certAns := 0, certPay := [] }).respond out (if v.certAns = 1 then 1 else 3)).updVh out fun x =>
        { x with msg := { x.msg with payload := v.certPay } }
    else if v.certReq.isSome then s.respond out 2
    else (s.postCert out payload).respond out 2)

/-- The vehicle may ask for authorisation: under ISO 15118-2 and a contract after PaymentDetails (Table 6.5). -/
def State.authAsk (s : State) (j : Nat) : Bool :=
  s.sstate j == 4 || (s.sstate j == 3 && (s.proto j != 2 || (s.vh j).payment != 2 || (s.vh j).payDone))

/-- AUTHORIZATION_REQ: answered with the result, locally for a joined session, Ongoing while the host's answer is
outstanding (R143, R151, R152). -/
def execAuthorizationReq (out : Fin 8) (ident chain : List Byte) (s : State) : Host.Outcome State Fault Refusal :=
  s.live (s.request out (s.authAsk out) fun s =>
    let j := out.val
    let v := s.vh j
    if s.flag LEG_STATUS_FULL && s.sstate j == 3 then (s.respond j 3).endNow j 14
    else if v.authOk then (s.iff (s.sstate j == 3) (·.setSState j 4 0)).respond j 1
    else match v.lead with
      | some l =>
        if l ≠ j ∧ (s.vh l).authOk then
          ((s.updVh j fun v => { v with idType := (s.vh l).idType, ident := (s.vh l).ident }).passAuth j).respond j 1
        else s.respond j 2
      | none =>
        if v.authReq.isSome then s.respond j 2
        else
          let s := if v.payment = 2 then s.postAuth j 2 ident chain
            else s.postAuth j 1 (if ident.isEmpty then (toLE 6 (s.evcc j)).reverse else ident) []
          s.respond j 2)

/-! ### Parameters and checks -/

/-- Record the vehicle's values (Table 6.8) and show them; currents in 0.1 A are shown in A, cut (DESIGN CHOICE, log entry 72). -/
def State.takeValues (s : State) (j : Nat) (q : VehValues) : State :=
  let s := s.updVh j fun v =>
    { v with row := { v.row with
        iTgt := q.iTgt, iMax := q.iMax, idMax := q.idMax, vTgt := q.vTgt, vMax := q.vMax, pMax := q.pMax, pdMax := q.pdMax } }
  let s := (s.setSat (VD_EVI_IMAX j) (q.iMax / 10)).setFldS (VD_EVI_ITGT j) (Int.tdiv q.iTgt 10)
  let s := (s.setSat (VD_EVV_VMAX j) q.vMax).setSat (VD_EVV_VTGT j) q.vTgt
  (s.setSat (VD_EVP_PDMAX j) q.pdMax).setSat (VD_EVP_PMAX j) q.pMax

/-- A request with vehicle values, `loop` one of the charge loop: discharge while bidirectional service is not offered, or was not
selected, is answered so, with E:0x0516 (R155). -/
def State.valuesReq (s : State) (j : Nat) (q : VehValues) (loop : Bool) : State :=
  if q.iTgt < 0 && !((s.vh j).bpt && s.bptOffered j) then (s.event 0x0516 [j, s.sess j]).reply j 5 loop
  else (s.takeValues j q).reply j 1 loop

/-- CHARGE_PARAMETER_DISCOVERY_REQ, in PARAM or after a renegotiation; under ISO 15118-20 after ServiceSelection (Table 6.5). -/
def execChargeParameterDiscoveryReq (out : Fin 8) (v : VehValues) (s : State) : Host.Outcome State Fault Refusal :=
  s.live (s.request out ((s.sstate out == 4 || s.sstate out == 8) && (s.proto out != 3 || (s.vh out).svc == 2)) fun s =>
    (s.valuesReq out v false).updVh out fun x => { x with paramDone := true })

/-- SCHEDULE_EXCHANGE_REQ: ISO 15118-20, after ChargeParameterDiscovery (Table 6.5). In Scheduled mode one tuple of 24 h carries the output's limits, with the price
table last supplied (R142). -/
def execScheduleExchangeReq (out : Fin 8) (s : State) : Host.Outcome State Fault Refusal :=
  s.live (s.request out ((s.sstate out == 4 || s.sstate out == 8) && s.proto out == 3 && (s.vh out).paramDone) fun s =>
    (s.respond out 1).updVh out fun v =>
      { v with schedDone := true, msg := { v.msg with sched := if v.dynamic then none else some ⟨24, v.msg.lim, v.price⟩ } })

/-- Test voltage in 0.1 V: the lower of the vehicle's maximum and the output's limit (R147). -/
def State.testV (s : State) (j : Nat) : Nat := min (s.vh j).row.vMax (s.fld (OUT_CFG_VMAX j) * 10)

/-- CABLE_CHECK_REQ: after ChargeParameterDiscovery, under ISO 15118-20 after ScheduleExchange, PARAM to CABLECHECK while the pilot is in C and the module is in RUN or DEGRADED; in STANDBY the
answer is Ongoing for at most 60 s (R146, R147). -/
def execCableCheckReq (out : Fin 8) (s : State) : Host.Outcome State Fault Refusal :=
  s.live (s.request out ((s.sstate out == 4 && (s.vh out).paramDone && (s.proto out != 3 || (s.vh out).schedDone)) || s.sstate out == 5 || s.sstate out == 6) fun s =>
    let j := out.val
    match s.sstate j with
    | 4 =>
      if s.fld (VD_STAT_PILOT j) ≠ 2 then s.respond j 2
      else if s.running && (s.io j).latDone then
        let s := (s.stopTimer (.paramMode j)).updVh j fun v =>
          { v with lockCmd := true, lockOk := false, pairAsked := false, insulOk := false, preAsked := false, preOk := false }
        (((s.setSState j 5 0).startTimer (.lockConfirm j)).startTimer (.cc j)).respond j 2
      else (s.iff (!s.timing (.paramMode j)) (·.startTimer (.paramMode j))).respond j 2
    | 5 => s.respond j 2
    | _ => s.respond j 1)

/-- The insulation result of the SC is good: CABLECHECK to PRECHARGE (R147). -/
def State.insulGood (s : State) (j : Nat) : State :=
  if s.sstate j = 5 ∧ (s.vh j).pairAsked then
    ((s.stopTimer (.cc j)).updVh j fun v => { v with insulOk := true }).setSState j 6 0
  else s

/-- The output voltage is within 10 V of the vehicle's target (R144). -/
def State.preNear (s : State) (j : Nat) : Bool :=
  decide ((s.outV j - ((s.vh j).row.vTgt * 100 : Nat)).natAbs ≤ 10000)

/-- Take note of a precharge that has come within 10 V: PC_TMO stops. It stays reached where the vehicle then changes its target or the
voltage leaves the band (DESIGN CHOICE, log entry 72). -/
def State.preCheck (s : State) (j : Nat) : State :=
  if s.sstate j = 6 ∧ (s.vh j).preAsked ∧ s.preNear j then
    (s.stopTimer (.pc j)).updVh j fun v => { v with preOk := true }
  else s

/-- PRECHARGE_REQ (R144, R148). -/
def execPrechargeReq (out : Fin 8) (vTgt : Nat) (s : State) : Host.Outcome State Fault Refusal :=
  s.live (s.request out (s.sstate out == 6) fun s =>
    let first := !(s.vh out).preAsked
    let s := (s.updVh out fun v => { v with preAsked := true, row := { v.row with vTgt := vTgt } }).setSat (VD_EVV_VTGT out) vTgt
    let s := (s.iff first (·.startTimer (.pc out))).preCheck out
    s.respond out (if (s.vh out).preOk then 1 else 2))

/-- POWER_DELIVERY_REQ: start, stop (before PRECHARGE as the answer to an EVSE stop announced), standby (ISO 15118-20) and renegotiation (ISO 15118-2) (R147, R149, Table 6.5). -/
def execPowerDeliveryReq (out : Fin 8) (kind : PowerKind) (s : State) : Host.Outcome State Fault Refusal :=
  s.live (
    let j := out.val
    let st := s.sstate j
    match kind with
    | .start => s.request j (st == 6 || st == 8) fun s =>
      if s.glb.feNotReady.contains j || (st = 6 && !(s.vh j).preOk) then s.respond j 3 else (s.setSState j 7 0).respond j 1
    | .stop => s.request j (decide (6 ≤ st ∧ st ≤ 9) || (decide (st ≤ 5) && (s.vh j).stopTold)) fun s =>
      let why := if (s.vh j).evseStop ≠ 0 then (s.vh j).evseStop else 1
      if st = 9 then s.respond j 1
      else if st ≤ 6 then (s.respond j 1).endNow j why
      else (s.stopNow j why).respond j 1
    | .standby => s.request j (st == 7 && s.proto j == 3) fun s => ((s.stopTimer (.loop j)).setSState j 8 0).respond j 1
    | .renegotiate => s.request j (st == 7 && s.proto j == 2) fun s => ((s.stopTimer (.loop j)).setSState j 8 0).respond j 1)

/-- CHARGE_LOOP_REQ: LOOP_TMO stops (R143, R144, R155). -/
def execChargeLoopReq (out : Fin 8) (v : VehValues) (s : State) : Host.Outcome State Fault Refusal :=
  s.live (s.request out (s.sstate out == 7) fun s => (s.stopTimer (.loop out)).valuesReq out v true)

/-- METERING_RECEIPT_REQ: ISO 15118-2 (Table 6.5). -/
def execMeteringReceiptReq (out : Fin 8) (s : State) : Host.Outcome State Fault Refusal :=
  s.live (s.request out (s.proto out == 2 && decide (7 ≤ s.sstate out ∧ s.sstate out ≤ 9)) fun s => s.respond out 1)

/-- WELDING_DETECTION_REQ. -/
def execWeldingDetectionReq (out : Fin 8) (s : State) : Host.Outcome State Fault Refusal :=
  s.live (s.request out (s.sstate out == 10) fun s => s.respond out 1)

/-- SESSION_STOP_REQ: WELDCHECK to ENDED with the reason of the stop (R147). -/
def execSessionStopReq (out : Fin 8) (s : State) : Host.Outcome State Fault Refusal :=
  s.live (s.request out (s.sstate out == 10) fun s => (s.respond out 1).endNow out (s.vh out).endReason)

/-- UNSUPPORTED_REQUEST (R142). -/
def execUnsupportedRequest (out : Fin 8) (s : State) : Host.Outcome State Fault Refusal :=
  s.live (s.request out false id)

/-! ### Timers (Table 6.6) -/

/-- SLAC_TMO: failure in PLUGGED. -/
def execSlacTmo (out : Fin 8) (s : State) : Host.Outcome State Fault Refusal :=
  s.live (if s.due (.slac out) (s.fld VD_TMO0_SLAC_TMO * sec) then (s.expired out).commLost out 4 else s)

/-- SETUP_TMO, 20 s: failure in SETUP. -/
def execSetupTmo (out : Fin 8) (s : State) : Host.Outcome State Fault Refusal :=
  s.live (if s.due (.setup out) (20 * sec) then (s.expired out).commLost out 0 else s)

/-- SEQ_TMO, 60 s: communication lost. -/
def execSeqTmo (out : Fin 8) (s : State) : Host.Outcome State Fault Refusal :=
  s.live (if s.due (.seq out) (60 * sec) then ((s.stopTimer (.seq out)).expired out).commLost out 2 else s)

/-- AUTH_TMO: refusal, reason 4, E:0x0509 (R151). -/
def execAuthTmo (out : Fin 8) (s : State) : Host.Outcome State Fault Refusal :=
  s.live (if s.due (.auth out) (s.fld VD_TMO0_AUTH_TMO * 10 * ms) then
    let s := (((s.stopTimer (.auth out)).expired out).tokSettle out false).event 0x0509 [out, s.sess out]
    (s.updVh out fun v => { v with authReq := none }).endNow out 4
  else s)

/-- CERT_TMO: FAILED to the vehicle; the session continues (R151). -/
def execCertTmo (out : Fin 8) (s : State) : Host.Outcome State Fault Refusal :=
  s.live (if s.due (.cert out) (s.fld VD_TMO0_CERT_TMO * 100 * ms) then
    (((s.stopTimer (.cert out)).expired out).event 0x050B [out, s.sess out]).updVh out fun v =>
      { v with certReq := none, certAns := 2 }
  else s)

/-- CC_TMO: reason 11. -/
def execCcTmo (out : Fin 8) (s : State) : Host.Outcome State Fault Refusal :=
  s.live (if s.due (.cc out) (s.fld VD_TMO1_CC_TMO * sec) then
    (((s.stopTimer (.cc out)).expired out).event 0x050C [out, s.sess out]).endNow out 11
  else s)

/-- PC_TMO: reason 12. -/
def execPcTmo (out : Fin 8) (s : State) : Host.Outcome State Fault Refusal :=
  s.live (if s.due (.pc out) (s.fld VD_TMO1_PC_TMO * sec) then
    (((s.stopTimer (.pc out)).expired out).event 0x050D [out, s.sess out]).endNow out 12
  else s)

/-- LOOP_TMO: communication lost. -/
def execLoopTmo (out : Fin 8) (s : State) : Host.Outcome State Fault Refusal :=
  s.live (if s.due (.loop out) (s.fld VD_TMO1_LOOP_TMO * 50 * ms) then
    ((s.stopTimer (.loop out)).expired out).commLost out 3
  else s)

/-- STOP_TMO: the module ramps to zero; a session that has not come to TRANSFER ends (R149). -/
def execStopTmo (out : Fin 8) (s : State) : Host.Outcome State Fault Refusal :=
  s.live (if s.due (.stop out) (s.fld VD_TMO1_STOP_TMO * 100 * ms) then
    let why := (s.vh out).evseStop
    let s := (s.stopTimer (.stop out)).expired out
    if s.sstate out = 7 ∨ s.sstate out = 8 then s.stopNow out why
    else s.iff (decide (2 ≤ s.sstate out ∧ s.sstate out ≤ 6)) (·.endNow out why)
  else s)

/-- RESUME_WIN: the session is ENDED (R150). -/
def execResumeWin (out : Fin 8) (s : State) : Host.Outcome State Fault Refusal :=
  s.live (if s.due (.resume out) (s.fld VD_GCFG_RESUME_WIN * sec) then
    let s := (s.stopTimer (.resume out)).expired out
    s.iff (s.vh out).lost fun s => s.endNow out (s.vh out).endReason
  else s)

/-- JOIN_WIN: a later session runs on its own. -/
def execJoinWin (out : Fin 8) (s : State) : Host.Outcome State Fault Refusal :=
  s.live (if s.due (.join out) (s.fld VD_GCFG_JOIN_WIN * sec) then (s.stopTimer (.join out)).expired out else s)

/-- LOCK_CONFIRM_TIMEOUT: the lock is not confirmed within 1 s: reason 13 (R147). -/
def execLockConfirmTimeout (out : Fin 8) (s : State) : Host.Outcome State Fault Refusal :=
  s.live (if s.due (.lockConfirm out) sec && s.sstate out == 5 && !(s.vh out).lockOk then
    (s.stopTimer (.lockConfirm out)).endNow out 13
  else s)

/-- PARAM_MODE_TIMEOUT: 60 s in PARAM without RUN or DEGRADED: reason 14 (R146). -/
def execParamModeTimeout (out : Fin 8) (s : State) : Host.Outcome State Fault Refusal :=
  s.live (if s.due (.paramMode out) (60 * sec) && s.sstate out == 4 && !s.running then
    (s.stopTimer (.paramMode out)).endNow out 14
  else s)

/-- STOP_CURRENT_ZERO: at or below 2 A, STOPPING to WELDCHECK; the SC is asked to open the pair (R147). -/
def execStopCurrentZero (out : Fin 8) (s : State) : Host.Outcome State Fault Refusal :=
  s.live (if s.sstate out == 9 && decide ((s.fastI out).natAbs ≤ 2000) then
    ((s.updVh out fun v => { v with pairAsked := false }).startTimer (.weldWait out)).setSState out 10 0
  else s)

/-- WELDCHECK_TIMEOUT: 5 s (R147). -/
def execWeldcheckTimeout (out : Fin 8) (s : State) : Host.Outcome State Fault Refusal :=
  s.live (if s.due (.weldWait out) (5 * sec) && s.sstate out == 10 then s.endNow out (s.vh out).endReason else s)

/-- COMM_RETRY: 3 s after the failure the dialogue restarts at PLUGGED (R150). -/
def execCommRetry (out : Fin 8) (s : State) : Host.Outcome State Fault Refusal :=
  s.live (if s.due (.retryPause out) (3 * sec) && s.sstate out == 1 then
    let s := s.stopTimer (.retryPause out)
    if s.ccs out then (s.drive out 1).startTimer (.slac out) else s
  else s)

/-! ### Host commands -/

/-- VD_CTRL_STOP: an EVSE stop with reason 2 (Table 6.17). -/
def State.hostStop (s : State) (j : Nat) : State := s.iff (j < s.nOuts) (·.evseStopAll j 2)

def execVdCtrlStop (out : Fin 8) (s : State) : Host.Outcome State Fault Refusal := s.live (s.hostStop out)

/-- VD_CTRL_JOIN: join to an earlier member; outside the bundle or after JOIN_WIN it is refused with E:0x0512 (R152, R158). A write
of the register of an output that is not fitted is ignored (spec/00 R2). -/
def State.hostJoin (s : State) (j k : Nat) : State :=
  if k < 8 ∧ s.joinable j k ∧ 2 ≤ s.sstate j ∧ s.sstate j ≤ 8 then s.joinTo j k else s.event 0x0512 [j, s.sess j]

def execVdCtrlJoin (out : Fin 8) (earlier : BitVec 4) (s : State) : Host.Outcome State Fault Refusal :=
  s.live (s.iff (out.val < s.nOuts) fun s => (s.setFld (VD_CTRL_JOIN_OUT out) earlier.toNat).hostJoin out earlier.toNat)

/-! ### The VC's work at an SF tick (R148) -/

/-- A safety input reads normal in both channels by its type (spec/09 Table 9.2). -/
def State.sinNormal (s : State) (i : Nat) : Bool :=
  let x := s.sin i
  match s.fld (SP_SIN_TYPE i) with
  | 0 => x.sa && x.sb
  | 1 => x.sa && !x.sb
  | _ => x.sa

/-- The LOCK_FB input of output `j` is normal: the lock is confirmed. -/
def State.lockFb (s : State) (j : Nat) : Bool :=
  let i := s.fld (SP_OUT_0_LOCK_FB j)
  decide (i < 16) && s.sinNormal i && !(s.sin i).dem

/-- Target of Dynamic mode in 0.1 A: PSET over the present voltage, within the vehicle's limits of power and of current, and never a
discharge that is not offered (R155). -/
def State.dynTarget (s : State) (j : Nat) : Int :=
  let v := s.vh j
  let r := v.row
  let mv := s.outV j
  if v.dynamic && s.flag (VD_DYN_EN j) && decide (0 < mv) then
    let bpt := v.bpt && s.bptOffered j
    let p := clampI (if bpt then -(r.pdMax : Int) else 0) r.pMax (s.fldS (VD_DYN_PSET j))
    clampI (if bpt then -(r.idMax : Int) else 0) r.iMax (Int.tdiv (p * 10000000) mv)
  else r.iTgt

/-- Entry of exchange table 0 (R148, Table 6.8). -/
def State.rowNow (s : State) (j : Nat) : VehRow :=
  let st := s.sstate j
  let r := { (s.vh j).row with sstate := st, held := decide (2 ≤ st ∧ st ≤ 10) || (st == 1 && s.timing (.resume j)), xfer := xferOf st, lock := (s.vh j).lockCmd, join := s.joinTag j }
  match st with
  | 5 => { r with iMax := 20, vTgt := s.testV j }
  | 6 => { r with iMax := 20 }
  | 7 => { r with iTgt := s.dynTarget j }
  | _ => { r with iTgt := 0, iMax := 0 }

/-- The VC of output `j` at an SF tick: lock confirmation and release, precharge, a failed output (R147, R149). -/
def State.vehStep (s : State) (j : Nat) : State :=
  let ok := (s.vh j).lockCmd && s.lockFb j
  let s := s.updVh j fun v => { v with lockOk := ok }
  let s := s.iff (s.sstate j == 5 && ok) fun s =>
    (s.stopTimer (.lockConfirm j)).updVh j fun v => { v with pairAsked := true }
  let s := s.preCheck j
  let st := s.sstate j
  let s := s.iff ((nth SumRow.rest s.sh.t3 j).failed && decide (5 ≤ st ∧ st ≤ 8)) (·.outFailed j)
  let rel := (st == 0 || decide (11 ≤ st)) && !(s.vh j).lost && decide (s.outV j < 60000)
  s.iff rel fun s => s.updVh j fun v => { v with lockCmd := false }

/-- Both VCs at an SF tick. -/
def State.vehTick (s : State) : State :=
  s.each (idx s.nOuts) fun s j => s.iff (s.coreRuns (3 + s.outVc j)) (·.vehStep j)

end Sys2Proof.Machine
end

