-- ==== Sys2Proof/Machine/Switches.lean ====
section
/-!
DEFINITION. The protected switches: channels, wire model, thermal latch, retries, shared rails, refresh and fail-safe
(spec/10 R258 to R269, R276).
-/

namespace Sys2Proof.Machine

open Sys2Proof

def State.updPs (s : State) (f : PsSt → PsSt) : State := { s with ps := f s.ps }
def State.pc (s : State) (n : Nat) : PsChan := nth PsChan.rest s.ps.chans n
def State.updPc (s : State) (n : Nat) (f : PsChan → PsChan) : State := s.updPs fun p => { p with chans := upd p.chans n f }

/-- State of a channel: 0 OFF, 1 RAMP, 2 ON, 3 WAIT, 4 LOCKOUT, 5 UV off. -/
def State.psState (s : State) (n : Nat) : Nat := s.fld (PS_STAT_STATE n)

/-- The channel is on, or ramps. -/
def State.psIsOn (s : State) (n : Nat) : Bool := s.psState n == 1 || s.psState n == 2

/-- Rail of a channel, and the channels of a rail (Table 10.2). -/
def railOf (n : Nat) : Nat := n / 6
def onRail (r : Nat) : List Nat := (idx 24).filter fun n => railOf n == r

/-- Sum of a rail's channel currents in 10 mA, and its register in 0.1 A, rounded down (R265, Table 10.7, log entry 77). -/
def State.railSum (s : State) (r : Nat) : Nat := (onRail r).foldl (fun a n => a + s.fld (PS_STAT_I n)) 0
def State.railShow (s : State) (r : Nat) : State := s.setSat (PS_RAIL_I r) (s.railSum r / 10)

/-- A channel turns off: to the state given. -/
def State.psOffTo (s : State) (n st : Nat) : State :=
  ((((s.stopTimer (.psOn n)).setFld (PS_STAT_STATE n) st).setFlag (PS_STAT_LIMIT n) false).setFld (PS_STAT_I n) 0).railShow (railOf n)
    |>.updPc n fun c => { c with pauseG := false, pauseU := false, pauseAt := none, pauseNs := 0, lowAt := none }

/-- Length in ns of a channel's ramp, and of its inrush window, which a pause does not extend (R261, R265). -/
def State.psRampNs (s : State) (n : Nat) : Nat := s.fld (PS_TIM_SLEW_T n) * 250000
def State.psWindowNs (s : State) (n : Nat) : Nat := s.psRampNs n + s.fld (PS_TIM_INRUSH_T n) * ms

/-- The channel is in its inrush window, which runs from its turn-on (R261). -/
def State.psInWindow (s : State) (n : Nat) : Bool := s.psIsOn n && !s.due (.psOn n) (s.psWindowNs n)

/-- State of a channel's rail: 0 in range, 1 below 16.0 V, 2 turned off (R266). -/
def State.railUv (s : State) (n : Nat) : Nat := nth 0 s.ps.uv (railOf n)

/-- Pause or resume a channel's ramp, and count the length of the pause (R265, R266). -/
def State.psPause (s : State) (n : Nat) (f : PsChan → PsChan) : State :=
  s.updPc n fun c =>
    let d := f c
    if d.pauseG || d.pauseU then { d with pauseAt := some (c.pauseAt.getD s.age) }
    else { d with pauseAt := none, pauseNs := c.pauseNs + (c.pauseAt.map fun t => s.age - t).getD 0 }

/-- Outputs whose pump a channel drives. -/
def State.pumpOuts (s : State) (n : Nat) : List Nat := (idx 8).filter fun j => psChan (s.fld (OUT_COOL_PUMP j)) == some n

/-- A channel turns on under R261: the ramp and the inrush window begin; a trip of its pump is over (spec/05 R132). On a rail below
16.0 V its ramp is paused at once, and on one that undervoltage has turned off it waits for the rail (R266). -/
def State.psTurnOn (s : State) (n : Nat) : State :=
  if s.railUv n = 2 then s.psOffTo n 5
  else
  let low := s.railUv n == 1
  let js := s.pumpOuts n
  let s := s.updSh fun h => { h with pumpTrip := h.pumpTrip.mapIdx fun j b => b && !js.contains j }
  ((s.setFld (PS_STAT_STATE n) 1).startTimer (.psOn n)).updPc n fun c =>
    { c with tripped := false, pauseG := false, pauseU := low, told908 := false, pauseAt := if low then some s.age else none,
             pauseNs := 0, lowAt := none }

/-- A trip: WAIT, or LOCKOUT where no retry is left (R264); a pump that trips fails its cooling (spec/05 R132). -/
def State.psTrip (s : State) (n cause : Nat) : State :=
  if !s.psIsOn n then s
  else
    let s := (s.psOffTo n 3).updPc n fun c => { c with tripped := true, told903 := false }
    let s := (((s.setFld (PS_TRIP_CAUSE n) cause).inc (PS_TRIP_COUNT n)).event 0x0901 [n, cause]).startTimer (.psDelay n)
    let js := s.pumpOuts n
    let s := s.updSh fun h => { h with pumpTrip := h.pumpTrip.mapIdx fun j b => b || js.contains j }
    s.iff (s.fld (PS_TRIP_LEFT n) == 0) fun s => ((s.stopTimer (.psDelay n)).setFld (PS_STAT_STATE n) 4).event 0x0904 [n]

/-- A commanded state reaches the channel (R264, R267): a channel that has tripped since, or whose latch is set, waits. -/
def State.psCommand (s : State) (n : Nat) (on : Bool) : State :=
  let c := s.pc n
  let s := s.updPc n fun c => { c with cmd := on }
  if !s.flag (PS_CFG_EN n) then s
  else if on then
    if s.psState n = 0 ∧ (!c.cmd ∨ !s.psIsOn n) then
      if c.tripped || s.flag (PS_STAT_THERM n) then (s.setFld (PS_STAT_STATE n) 3).updPc n fun c => { c with told903 := false }
      else s.psTurnOn n
    else s
  else match s.psState n with
    | 4 => s
    | 0 => s
    | _ => s.psOffTo n 0

/-- PD9 goes off: every channel turns off, and the wire models restart at 0.5; the watchdog is not armed until the first
valid refresh (R268, R269). -/
def State.psPowerDown (s : State) : State :=
  let s := s.each (idx 24) fun s n =>
    (((s.psOffTo n 0).stopTimer (.psDelay n)).setFlag (PS_STAT_FSA n) false).updPc n fun c => { PsChan.rest with fs := c.fs }
  let s := s.each (idx 24) fun s n =>
    ((s.setFlag (PS_STAT_THERM n) false).setFld (PS_TRIP_X n) 50).setFld (PS_TRIP_LEFT n) (s.fld (PS_TIM_RETRY_N n))
  (((s.setFlag PS_WDG_ARMED false).setFlag PS_WDG_FSA false).stopTimer .psWdg).updPs fun p =>
    { p with good := 0, rxSeq := none, uv := [0, 0, 0, 0], restAt := List.replicate 4 none }

/-- The Mallas modem stops with PD9: STATE 2 while the link is enabled (spec/13 R324, Table 13.5). -/
def State.mlStop (s : State) : State :=
  let s := s.setFld ML_STAT_STATE (if s.flag ML_GCFG_EN then 2 else 0)
  { s with ml := { s.ml with todo := [], retry := none, win := none, discWins := [], next := none, slots := [] } }

/-! ### Owners and the commit (R259) -/

/-- Owners that name a channel: 1 a CE, 2 a VC, 3 the GC, each with the core's number; the fields of an output that is not enabled
name none (R259, spec/05 R109). -/
def State.psNamed (s : State) (n : Nat) : List (Nat × Nat) :=
  let is (f : Fld) : Bool := s.fld f == n
  let en := (idx s.nOuts).filter fun j => s.flag (OUT_CFG_EN j)
  (en.flatMap fun j =>
      [OUT_COOL_PUMP j, OUT_COOL_FAN1 j, OUT_COOL_FAN2 j].filterMap fun f => if is f then some (1, s.outCe j) else none)
    ++ (en.filterMap fun j => if is (VD_CFG_LOCK j) then some (2, s.outVc j) else none)
    ++ ((idx 2).filterMap fun p => if is (PNL_HEAT_CH p) then some (3, 0) else none)

/-- Maximum of IRATE for a WIRE code, in 0.1 A, and τ in s (Table 10.3). -/
def wireMax (w : Nat) : Nat := nth 0 [30, 50, 60, 80, 100, 120] w
def wireTau (w : Nat) : Nat := nth 60 [10, 14, 18, 25, 40, 60] w

/-- The switch configuration passes its checks (R259, Tables 10.7 and 10.8). -/
def State.psCfgOk (s : State) : Bool :=
  ((idx 4).all fun r => decide (10 ≤ s.fld (PS_RAIL_ILIM r) ∧ s.fld (PS_RAIL_ILIM r) ≤ 40))
    && (idx 24).all fun n =>
      let own := s.psNamed n
      let slew := s.fld (PS_TIM_SLEW_T n)
      own.all (fun o => o == own.headD o) && (own.isEmpty || s.flag (PS_CFG_EN n)) && decide (s.fld (PS_CFG_WIRE n) < 6)
        && decide (1 ≤ s.fld (PS_CFG_IRATE n) ∧ s.fld (PS_CFG_IRATE n) ≤ wireMax (s.fld (PS_CFG_WIRE n)))
        && s.fld (PS_CFG_FS n) != 3 && !((own.any fun o => o.1 == 2) && s.fld (PS_CFG_FS n) == 0)
        && decide (1 ≤ s.fld (PS_TIM_RETRY_DLY n)) && decide (1 ≤ s.fld (PS_TIM_INRUSH_T n) ∧ s.fld (PS_TIM_INRUSH_T n) ≤ 100)
        && (slew == 0 || decide (2 ≤ slew ∧ slew ≤ 200))
        && decide (20 ≤ s.fld (PS_LIM_DT_LIM n) ∧ s.fld (PS_LIM_DT_LIM n) ≤ 80)

/-- At a commit the owners are derived and the fail-safe states are loaded (R259, R268). -/
def State.psCommit (s : State) : State :=
  s.each (idx 24) fun s n =>
    let s := (s.setFld (PS_CFG_OWNER n) ((s.psNamed n).headD (0, 0)).1).updPc n fun c => { c with fs := s.fld (PS_CFG_FS n) }
    s.iff (!(s.pc n).tripped && !(s.pc n).used) (·.setFld (PS_TRIP_LEFT n) (s.fld (PS_TIM_RETRY_N n)))

/-! ### Commands, refresh and fail-safe (R259, R260, R267) -/

/-- PS_ON: a host write of PS_CMDn.ON; ignored with E:0x090E for a channel that the host does not own, but in BENCH
(R259). -/
def State.hostPs (s : State) (n : Nat) (on : Bool) : State :=
  if s.fld (PS_CFG_OWNER n) = 0 ∨ s.mode = 7 then s.setFlag (PS_CMD_ON n) on else s.event 0x090E [n]

def execPsOn (chan : Fin 24) (on : Bool) (s : State) : Host.Outcome State Fault Refusal := s.live (s.hostPs chan on)

/-- State that the owner of a channel commands, from the fronts of the exchange tables and from PS_CMDn (R259, R260): in BENCH the
host commands every channel (log entry 19). -/
def State.psWanted (s : State) (n : Nat) : Bool :=
  if s.mode = 7 then s.flag (PS_CMD_ON n)
  else match s.fld (PS_CFG_OWNER n) with
    | 0 => s.flag (PS_CMD_ON n)
    | 1 => ((idx 8).filter fun j => s.flag (OUT_CFG_EN j)).any fun j =>
      let r := nth SumRow.rest s.sh.t3 j
      (r.pump && s.fld (OUT_COOL_PUMP j) == n) || (r.fan1 && s.fld (OUT_COOL_FAN1 j) == n) || (r.fan2 && s.fld (OUT_COOL_FAN2 j) == n)
    | 2 => ((idx 8).filter fun j => s.flag (OUT_CFG_EN j)).any fun j => (s.t0 j).lock && s.fld (VD_CFG_LOCK j) == n
    | _ => (idx 2).any fun p => nth false s.pnl.heat p && s.fld (PNL_HEAT_CH p) == n

/-- The sequence number follows on the previous frame's; the first frame after PD9's power-up has none before it (R267, log entry
19). -/
def State.psSeqOk (s : State) (seq : BitVec 8) : Bool :=
  match s.ps.rxSeq with
  | some r => seq.toNat == (r + 1) % 256
  | none => true

/-- Channels as a mask. -/
def chanMask (l : List Nat) : Nat := l.foldl (fun a n => a + 2 ^ n) 0

/-- A refresh frame: the sequence number, the commanded states of the 24 channels, channel 23 first, and the CRC-16 of these four
bytes (R260; the order of the parts is log entry 77). -/
def psFrame (seq st : Nat) : BitVec 48 :=
  let body := seq * 2 ^ 24 + st
  BitVec.ofNat 48 (body * 65536 + crc16 (beBytes 4 body))

/-- The check of a received frame, its sequence number and its states. -/
def psFrameOk (f : BitVec 48) : Bool := crc16 (beBytes 4 (f.toNat / 65536)) == f.toNat % 65536
def psFrameSeq (f : BitVec 48) : BitVec 8 := f.extractLsb' 40 8
def psFrameOn (f : BitVec 48) (n : Nat) : Bool := f.getLsbD (16 + n)

/-- The frame that the GC builds next; in an activation pause the KC repeats the last commanded states (R260, spec/15 Table 15.11). -/
def State.psNextOn (s : State) : Nat := if s.flag GLB_MODE_ACT_PAUSE then s.ps.txOn else chanMask ((idx 24).filter s.psWanted)
def State.psNextFrame (s : State) : BitVec 48 := psFrame ((s.ps.txSeq + 1) % 256) s.psNextOn

/-- REFRESH_FRAME: the frame of this SF, which the GC builds and the switch logic receives with the bits `err` turned over. A valid one
arms the watchdog and commands the channels; with the fail-safe table in force the third one in a row resumes them: E:0x0911 (R260, R267,
spec/15 Table 15.11). -/
def execRefreshFrame (err : BitVec 48) (s : State) : Host.Outcome State Fault Refusal :=
  s.live (if !s.pdGood 9 || !(s.coreRuns 7 || s.flag GLB_MODE_ACT_PAUSE) || s.ps.sent then s
    else
      let f := s.psNextFrame ^^^ err
      let crcOk := psFrameOk f
      let seq := psFrameSeq f
      let ok := crcOk && s.psSeqOk seq
      let on := s.psNextOn
      let s := s.updPs fun p =>
        { p with sent := true, txSeq := (p.txSeq + 1) % 256, txOn := on,
                 rxSeq := if crcOk then some seq.toNat else p.rxSeq.map fun r => (r + 1) % 256 }
      if !ok then
        let s := (if crcOk then s.inc PS_LINK_SEQ else s.inc PS_LINK_CRC).updPs fun p => { p with good := 0 }
        s.iff (!s.ps.told912) fun s => (s.updPs fun p => { p with told912 := true }).event 0x0912 []
      else
        let s := ((s.setFlag PS_WDG_ARMED true).startTimer .psWdg).updPs fun p => { p with good := p.good + 1 }
        if s.flag PS_WDG_FSA && decide (s.ps.good < 3) then s
        else
        let s := s.iff (s.flag PS_WDG_FSA) fun s =>
          ((s.setFlag PS_WDG_FSA false).each (idx 24) fun s n => s.setFlag (PS_STAT_FSA n) false).event 0x0911 []
        s.each (idx 24) fun s n => s.psCommand n (psFrameOn f n))

/-- SERIAL_WATCHDOG_EXPIRY: the fail-safe table applies, E:0x0910 (R267). -/
def execSerialWatchdogExpiry (s : State) : Host.Outcome State Fault Refusal :=
  s.live (if s.pdGood 9 && s.flag PS_WDG_ARMED && !s.flag PS_WDG_FSA && s.due .psWdg (10 * ms) then
    let s := (((s.setFlag PS_WDG_FSA true).inc PS_WDG_EXP).event 0x0910 []).updPs fun p => { p with good := 0 }
    s.each (idx 24) fun s n =>
      let s := s.setFlag (PS_STAT_FSA n) true
      match (s.pc n).fs with
      | 0 => s.psCommand n false
      | 1 => s.psCommand n true
      | _ => s
  else s)

/-! ### Turn-on, wire model and thermal latch (R261 to R263) -/

/-- PS_RAMP_COMPLETE: the ramp ends at SLEW_T and its pauses, without current limit: the output has reached the rail (R261, Table
10.5). -/
def execPsRampComplete (chan : Fin 24) (s : State) : Host.Outcome State Fault Refusal :=
  s.live (if s.psState chan == 1 && !(s.pc chan).pauseG && !(s.pc chan).pauseU && !s.flag (PS_STAT_LIMIT chan)
      && s.due (.psOn chan) (s.psRampNs chan + (s.pc chan).pauseNs) then s.setFld (PS_STAT_STATE chan) 2
  else s)

/-- CURRENT_LIMIT_TRIP: in limit at the end of the inrush window, or for 100 µs outside it, cause SHORT; inside the window the limit
may act without a trip (R261). -/
def execCurrentLimitTrip (chan : Fin 24) (s : State) : Host.Outcome State Fault Refusal :=
  s.live (if s.psInWindow chan then s else s.psTrip chan 1)

/-- RAMP_TIMEOUT: cause RAMP, at 2 × SLEW_T + INRUSH_T, longer by the pauses; no ramp that is paused times out (R261, R265). -/
def execRampTimeout (chan : Fin 24) (s : State) : Host.Outcome State Fault Refusal :=
  s.live (if s.psState chan == 1 && !(s.pc chan).pauseG && !(s.pc chan).pauseU
      && s.due (.psOn chan) (s.psRampNs chan + s.psWindowNs chan + (s.pc chan).pauseNs) then s.psTrip chan 5 else s)

/-- The latch is released when ΔT ≤ DT_LIM − 20 K and x ≤ 0.5: E:0x0907 (R263). -/
def State.psRelease (s : State) (n : Nat) : State :=
  if s.flag (PS_STAT_THERM n) && decide (s.fld (PS_STAT_DT n) + 20 ≤ s.fld (PS_LIM_DT_LIM n))
      && decide ((s.pc n).x ≤ 500000000000) then
    (s.setFlag (PS_STAT_THERM n) false).event 0x0907 [n]
  else s

/-- Set the latch: E:0x0906 (R263). -/
def State.psLatch (s : State) (n : Nat) : State :=
  if s.flag (PS_STAT_THERM n) then s else (s.setFlag (PS_STAT_THERM n) true).event 0x0906 [n]

/-- The wire model after 100 µs at a current in 10 mA: units of 10^−12, rounded down (log entry 19). -/
def wireStep (x amps irate tau : Nat) : Nat :=
  let k2 : Int := (amps * amps * 10 ^ 12 / (irate * irate * 100) : Nat)
  ((x : Int) + (k2 - x) / (tau * 10000 : Nat)).toNat

/-- A channel's current in 10 mA, and since when it is below OPEN, outside its ramp and INRUSH_T (R276). -/
def State.psCurrent (s : State) (n i : Nat) : State :=
  let low := s.psState n == 2 && !s.psInWindow n && decide (i < s.fld (PS_LIM_OPEN n))
  ((s.setFld (PS_STAT_I n) i).railShow (railOf n)).updPc n fun c =>
    { c with lowAt := if low then some (c.lowAt.getD s.age) else none }

/-- WIRE_MODEL_UPDATE: current in 10 mA, 0 for a channel that is off, and whether it is in current limit; x ≥ 1.21 trips
I2T and sets the latch (R262, R263). -/
def execWireModelUpdate (chan : Fin 24) (amps : BitVec 12) (inLimit : Bool) (s : State) : Host.Outcome State Fault Refusal :=
  s.live (
    let n := chan.val
    if !s.pdGood 9 then s
    else
      let i := if s.psIsOn n then amps.toNat else 0
      let x := wireStep (s.pc n).x i (max 1 (s.fld (PS_CFG_IRATE n))) (wireTau (s.fld (PS_CFG_WIRE n)))
      let s := ((s.updPc n fun c => { c with x := x }).setSat (PS_TRIP_X n) (x / 10000000000)).psCurrent n i
      let s := s.setFlag (PS_STAT_LIMIT n) (inLimit && s.psIsOn n)
      let s := s.iff (decide (1210000000000 ≤ x) && s.psIsOn n) fun s => (s.psTrip n 2).psLatch n
      s.psRelease n)

/-- DIE_TEMP_CHECK: die minus case in K; at DT_LIM the channel turns off with cause DT and the latch is set (R263). -/
def execDieTempCheck (chan : Fin 24) (dt : BitVec 8) (s : State) : Host.Outcome State Fault Refusal :=
  s.live (
    let n := chan.val
    if !s.pdGood 9 then s
    else
      let s := s.setFld (PS_STAT_DT n) dt.toNat
      if s.fld (PS_LIM_DT_LIM n) ≤ dt.toNat then (s.psTrip n 4).psLatch n else s.psRelease n)

/-! ### Retries (R264) -/

/-- PS_RETRY: RETRY_DLY after the trip, with the channel commanded on and a retry left: an attempt, E:0x0902; or E:0x0903
once while the latch is set. -/
def execPsRetry (chan : Fin 24) (s : State) : Host.Outcome State Fault Refusal :=
  s.live (
    let n := chan.val
    let c := s.pc n
    let left := s.fld (PS_TRIP_LEFT n)
    let waited := !s.timing (.psDelay n) || s.due (.psDelay n) (s.fld (PS_TIM_RETRY_DLY n) * 100 * ms)
    if s.pdGood 9 && s.psState n == 3 && c.cmd && waited && s.railUv n != 2 then
      if s.flag (PS_STAT_THERM n) then
        s.iff (!c.told903 && decide (0 < left)) fun s => (s.updPc n fun c => { c with told903 := true }).event 0x0903 [n]
      else if !c.tripped then s.psTurnOn n
      else if left = 0 then s
      else ((((s.stopTimer (.psDelay n)).setFld (PS_TRIP_LEFT n) (left - 1)).updPc n fun c => { c with used := true }).event 0x0902 [n]).psTurnOn n
    else s)

/-- RETRY_RESTORE: 60 s on without a trip. -/
def execRetryRestore (chan : Fin 24) (s : State) : Host.Outcome State Fault Refusal :=
  s.live (if s.psIsOn chan && s.due (.psOn chan) (60 * sec) then
    (s.setFld (PS_TRIP_LEFT chan) (s.fld (PS_TIM_RETRY_N chan))).updPc chan fun c => { c with used := false }
  else s)

/-- PS_CLR: ends LOCKOUT and restores the retries, E:0x0905; the channel still waits for the latch, and its turn-on is an attempt. -/
def State.hostPsClr (s : State) (n : Nat) : State :=
  if s.psState n = 4 then
    let s := ((s.setFld (PS_TRIP_LEFT n) (s.fld (PS_TIM_RETRY_N n))).event 0x0905 [n]).updPc n fun c => { c with used := false, told903 := false }
    s.setFld (PS_STAT_STATE n) (if (s.pc n).cmd then 3 else 0)
  else s

def execPsClr (chan : Fin 24) (s : State) : Host.Outcome State Fault Refusal := s.live (s.hostPsClr chan)

/-! ### Shared rails (R265, R266) -/

/-- The channel currents of a rail, in 10 mA, as the switch logic measures them; an off channel carries none. -/
def State.psAmps (s : State) (r : Nat) (amps : List Nat) : State :=
  (s.each ((onRail r).zip (amps ++ List.replicate 6 0)) fun s p => s.setSat (PS_STAT_I p.1) (if s.psIsOn p.1 then p.2 else 0)).railShow r

/-- Their sum, and the limit of the rail in 10 mA. -/
def State.ampSum (s : State) (r : Nat) (amps : List Nat) : Nat :=
  (((onRail r).zip (amps ++ List.replicate 6 0)).filter fun p => s.psIsOn p.1).foldl (fun a p => a + p.2) 0
def State.railLim (s : State) (r : Nat) : Nat := s.fld (PS_RAIL_ILIM r) * 100

/-- RAIL_OVERCURRENT: the sum of the rail's six currents, in 10 mA, exceeds ILIM for 50 µs: channels in current limit outside their
inrush windows trip RAIL; where the sum still exceeds ILIM, every ramp of the rail pauses (R265). -/
def execRailOvercurrent (rail : Fin 4) (inLimit : BitVec 24) (amps : List Nat) (s : State) : Host.Outcome State Fault Refusal :=
  s.live (if !s.pdGood 9 || decide (s.ampSum rail amps ≤ s.railLim rail) then s
    else
      let s := s.psAmps rail amps
      let cs := onRail rail
      let off := cs.filter fun n => inLimit.getLsbD n && s.psIsOn n && !s.psInWindow n
      let s := s.iff (!bit (s.fld PS_RSTAT_GUARD) rail) fun s => s.updPs fun p => { p with guardAt := p.guardAt.set rail s.age }
      let s := s.setFld PS_RSTAT_GUARD (setBit (s.fld PS_RSTAT_GUARD) rail true)
      let s := s.iff (!off.isEmpty) fun s => (s.event 0x090A [rail, 1, chanMask off]).each off fun s n => s.psTrip n 3
      let ramps := cs.filter fun n => s.psState n == 1
      s.iff (decide (s.railLim rail < s.ampSum rail amps) && !ramps.isEmpty) fun s =>
        (s.each ramps fun s n => s.psPause n fun c => { c with pauseG := true }).event 0x090A [rail, 2, chanMask ramps])

/-- Channels that the guard turns off: lowest PRIO first, the highest number first within a PRIO, until the sum fits. -/
def shedList (sum lim : Nat) : List (Nat × Nat) → List Nat
  | [] => []
  | (n, i) :: t => if sum ≤ lim then [] else n :: shedList (sum - i) lim t

/-- RAIL_GUARD_SHED: 1 ms later the sum still exceeds ILIM; currents of the rail's six channels in 10 mA (R265). -/
def execRailGuardShed (rail : Fin 4) (amps : List Nat) (s : State) : Host.Outcome State Fault Refusal :=
  s.live (if s.pdGood 9 && bit (s.fld PS_RSTAT_GUARD) rail && decide (nth 0 s.ps.guardAt rail + ms ≤ s.age) then
    let s := s.psAmps rail amps
    let on := ((onRail rail).zip (amps ++ List.replicate 6 0)).filter fun p => s.psIsOn p.1
    let order := (idx 4).flatMap fun pr => (on.filter fun p => s.fld (PS_CFG_PRIO p.1) == pr).reverse
    let off := shedList (s.ampSum rail amps) (s.railLim rail) order
    if off.isEmpty then s
    else (s.event 0x090A [rail, 3, chanMask off]).each off fun s n => s.psTrip n 3
  else s)

/-- RAIL_RAMPS_RESUME: the sum of the rail's six currents, in 10 mA, is at or below ILIM − 2 A: the guard no longer acts, and the
ramps that it paused go on, with E:0x090A (R265). -/
def execRailRampsResume (rail : Fin 4) (amps : List Nat) (s : State) : Host.Outcome State Fault Refusal :=
  s.live (if s.pdGood 9 && bit (s.fld PS_RSTAT_GUARD) rail && decide (s.ampSum rail amps + 200 ≤ s.railLim rail) then
    let s := (s.psAmps rail amps).setFld PS_RSTAT_GUARD (setBit (s.fld PS_RSTAT_GUARD) rail false)
    let ramps := (onRail rail).filter fun n => (s.pc n).pauseG
    s.iff (!ramps.isEmpty) fun s =>
      (s.each ramps fun s n => s.psPause n fun c => { c with pauseG := false }).event 0x090A [rail, 4, chanMask ramps]
  else s)

/-- A rail's voltage in 0.1 V: its register and PS_RSTAT.UV; below 16.0 V every ramp of the rail pauses, and from 16.0 V on the ramps
of a rail that was not turned off go on (R266, Table 10.7). -/
def State.railVolts (s : State) (r dV : Nat) : State :=
  let low := decide (dV < 160)
  let s := (s.setFld PS_RSTAT_UV (setBit (s.fld PS_RSTAT_UV) r low)).setSat (PS_RAIL_V r) dV
  let s := s.iff (nth 0 s.ps.uv r != 2) fun s => s.updPs fun p => { p with uv := p.uv.set r (b2n low) }
  s.each ((onRail r).filter fun n => s.psState n == 1) fun s n => s.psPause n fun c => { c with pauseU := low }

/-- RAIL_RAMP_PAUSE: the rail has fallen below 16.0 V, in 0.1 V (R266). -/
def execRailRampPause (rail : Fin 4) (dV : BitVec 12) (s : State) : Host.Outcome State Fault Refusal :=
  s.live (if !s.pdGood 9 || decide (160 ≤ dV.toNat) then s else s.railVolts rail dV.toNat)

/-- RAIL_UNDERVOLTAGE: below 12.0 V, in 0.1 V, for 1 ms, held in µs: every channel of the rail turns off, E:0x090B; no trip (R266). -/
def execRailUndervoltage (rail : Fin 4) (dV : BitVec 12) (heldUs : Nat) (s : State) : Host.Outcome State Fault Refusal :=
  s.live (if !s.pdGood 9 || decide (120 ≤ dV.toNat) || decide (heldUs < 1000) || nth 0 s.ps.uv rail == 2 then s
    else
      let s := ((s.railVolts rail dV.toNat).updPs fun p => { p with uv := p.uv.set rail 2, restAt := p.restAt.set rail none }).event 0x090B [rail]
      s.each ((onRail rail).filter s.psIsOn) fun s n => s.psOffTo n 5)

/-- The next channel of a recovered rail that is still commanded on turns on, lowest number first; one whose latch is set waits. After
the last E:0x090C (R266). -/
def State.railRestore (s : State) (r : Nat) : State :=
  let s := s.each ((onRail r).filter fun n => s.psState n == 5 && !(s.pc n).cmd) fun s n => s.psOffTo n 0
  let s := match (onRail r).find? fun n => s.psState n == 5 with
    | none => s
    | some n =>
      let s := if s.flag (PS_STAT_THERM n) || (s.pc n).tripped then s.setFld (PS_STAT_STATE n) 3 else s.psTurnOn n
      s.updPs fun p => { p with restAt := p.restAt.set r (some (s.age + 2 * ms)) }
  if (onRail r).any fun n => s.psState n == 5 then s
  else (s.updPs fun p => { p with restAt := p.restAt.set r none }).event 0x090C [r]

/-- RAIL_RECOVERED: at or above 17.0 V, in 0.1 V, for 10 ms, held in µs: the rail's first channel turns on at once, the next ones 2 ms
apart (R266; at the SF ticks, log entry 77). -/
def execRailRecovered (rail : Fin 4) (dV : BitVec 12) (heldUs : Nat) (s : State) : Host.Outcome State Fault Refusal :=
  s.live (if s.pdGood 9 && nth 0 s.ps.uv rail == 2 && decide (170 ≤ dV.toNat) && decide (10000 ≤ heldUs) then
    ((s.updPs fun p => { p with uv := p.uv.set rail 0 }).railVolts rail dV.toNat).railRestore rail
  else s)

/-- Switch logic at an SF tick: rails whose next channel is due are restored (R266). -/
def State.railTick (s : State) : State :=
  s.each (idx 4) fun s r => match (nth none s.ps.restAt r) with
    | some t => if t ≤ s.age then s.railRestore r else s
    | none => s

/-! ### Diagnostics (R276) -/

/-- OPEN_LOAD: the current below OPEN for 1 s after the ramp and INRUSH_T; once per on-period; the standby of a twin pair does not check (R276,
spec/17 Table 17.10). -/
def execOpenLoad (chan : Fin 24) (s : State) : Host.Outcome State Fault Refusal :=
  s.live (if s.psState chan == 2 && s.fld (PS_LIM_OPEN chan) != 0 && !(s.pc chan).told908 && s.tok
      && (match (s.pc chan).lowAt with | some t => decide (t + sec ≤ s.age) | none => false) then
    (s.updPc chan fun c => { c with told908 := true }).event 0x0908 [chan]
  else s)

/-- PS_READBACK_MISMATCH: an off channel above 3 V, or one that is on, out of its ramp and not in current limit, below rail − 2 V, for
10 ms (R276). -/
def execPsReadbackMismatch (chan : Fin 24) (s : State) : Host.Outcome State Fault Refusal :=
  s.live (if s.pdGood 9 && ((s.psState chan == 2 && !s.flag (PS_STAT_LIMIT chan)) || !s.psIsOn chan) then s.event 0x0909 [chan] else s)

end Sys2Proof.Machine
end

