-- ==== Sys2Proof/Machine/Panels.lean ====
section
/-!
DEFINITION. The panel controller: rails, roast tables, temperature holds and the heater, updates, pixel balance and
compensation (spec/11 R278 to R288).
-/

namespace Sys2Proof.Machine

open Sys2Proof

def State.updPnl (s : State) (f : PnlSt → PnlSt) : State := { s with pnl := f s.pnl }
def State.pn (s : State) (p : Nat) : Panel := nth Panel.off s.pnl.panels p
def State.updPn (s : State) (p : Nat) (f : Panel → Panel) : State := s.updPnl fun x => { x with panels := upd x.panels p f }

/-- State of a panel: 0 off, 1 idle, 2 updating, 3 paused, 4 cold hold, 5 hot hold, 6 rail fault, 7 disabled. -/
def State.pnState (s : State) (p : Nat) : Nat := s.fld (PNL_STAT_STATE p)

/-- The panel is in use: PNL1 always, PNL0 where it is enabled and present (R278). -/
def State.pnUsed (s : State) (p : Nat) : Bool := p == 1 || (s.flag PNL_GCFG_PNL0_EN && s.flag (PNL_STAT_PRESENT p))

/-! ### Roast tables (R282) -/

/-- Signed byte of a table. -/
def tblS (b : List Byte) (i : Nat) : Int := sext 8 (leAt b i 1)

/-- Bounds, frame rate and frame counts of band `k`. -/
def bandLo (b : List Byte) (k : Nat) : Int := tblS b (12 + 8 * k)
def bandHi (b : List Byte) (k : Nat) : Int := tblS b (13 + 8 * k)
def bandRate (b : List Byte) (k : Nat) : Nat := leAt b (14 + 8 * k) 1
def bandFrames (b : List Byte) (k mode : Nat) : Nat := leAt b (15 + 8 * k + mode) 1

/-- Drive code of frame `f` of transition `t` (Table 11.3). -/
def driveCode (b : List Byte) (k mode t f : Nat) : Nat :=
  leAt b (108 + 12288 * k + 4096 * mode + 16 * t + f / 4) 1 / 4 ^ (f % 4) % 4

/-- Contribution of a drive code to the integral. -/
def driveSum : Nat → Int
  | 1 => 1
  | 2 => -1
  | _ => 0

/-- A transition keeps the balance: no 0b11, sum 0, running sum within ±32. -/
def transOk (codes : List Nat) : Bool :=
  let r := codes.foldl (fun (a : Int × Bool) c =>
    let v := a.1 + driveSum c
    (v, a.2 && c != 3 && decide (-32 ≤ v ∧ v ≤ 32))) (0, true)
  r.2 && r.1 == 0

/-- The checks of R282. -/
def tableOk (type : Nat) (b : List Byte) : Bool :=
  leAt b 0 4 == 0x31545352 && leAt b 4 2 == type && leAt b 6 1 == 12 && b.length == 147564
    && crc32c (b.drop 12) == leAt b 8 4
    && bandLo b 0 == -20 && bandHi b 11 == 60
    && ((idx 12).all fun k =>
      decide (bandLo b k < bandHi b k) && (k == 0 || bandLo b k == bandHi b (k - 1))
        && decide (50 ≤ bandRate b k ∧ bandRate b k ≤ 85)
        && (idx 3).all fun m =>
          decide (bandFrames b k m ≤ (if m = 1 then 12 else 64))
            && (idx 256).all fun t => transOk ((idx 64).map fun f => driveCode b k m t f))

/-- A pixel's driving stops where it is: its integral stays, and its target waits for the residue and compensation passes (R287,
R288). -/
def Pix.halt (q : Pix) : Pix :=
  match q.drive with
  | none => q
  | some d => { q with drive := none, pend := some (q.pend.getD (d.dst, d.mode, d.rect)), broken := true, comp := false, mark := false }

/-- Driving stops and the rails that are up begin to power down, from the last to the first (R281). -/
def Panel.halt (x : Panel) (now : Nat) : Panel :=
  { x with step := 0, run := false, downAt := if x.up = 0 then none else some (x.downAt.getD now), pix := x.pix.map fun q => (q.1, q.2.halt) }

/-- Load a roast table: accepted, or E:0x0A08 and the panel is disabled until a valid one is loaded. -/
def State.loadTable (s : State) (p : Nat) (b : List Byte) : State :=
  if tableOk (Config.panelType p) b then
    let s := (s.updPn p fun x => { x with tbl := b }).setFlag (PNL_TBL_OK p) true
    (s.setFld (PNL_TBL_TYPE p) (leAt b 4 2)).iff (s.pnState p == 7) (·.setFld (PNL_STAT_STATE p) 0)
  else
    let s := (s.updPn p fun x => { x.halt s.age with tbl := [], queue := [] }).setFlag (PNL_TBL_OK p) false
    ((s.setFld (PNL_STAT_QUEUE p) 0).setFld (PNL_STAT_STATE p) 7).event 0x0A08 [p]

/-- Load a panel's table from region 8 or 9 of a bank; the version that it shows is a free value (Table 15.4, log entry 20). -/
def State.loadRoast (s : State) (p : Nat) (b : List Byte) : State :=
  let d := s.draw
  let v := d.1
  let s := d.2
  (s.loadTable p b).setFld (PNL_TBL_VER p) v

/-! ### Temperature, bands and heater (R283) -/

/-- Band for a reading: the one in force until the reading is 1 K beyond its bound. -/
def bandFor (b : List Byte) (cur : Nat) (t : Int) : Nat :=
  if cur < 12 ∧ bandLo b cur - 1 < t ∧ t < bandHi b cur + 1 then cur
  else ((idx 12).find? fun k => decide (bandLo b k ≤ t) && (decide (t < bandHi b k) || (k == 11 && t == 60))).getD 15

/-- A reading of a panel's sensor, none where it is invalid: the band, the holds of updates, and the heater. -/
def State.takeTemp (s : State) (p : Nat) (t : Option Int) : State :=
  let old := (s.pn p).hold
  let new := match t with
    | none => 3
    | some v =>
      if v < -20 ∨ (old = 1 ∧ v < -19) then 1
      else if 60 < v ∨ (old = 2 ∧ 59 < v) then 2 else 0
  let s := s.setFld (PNL_STAT_TEMP p) (match t with
    | none => 0x80
    | some v => enc 8 (satS 8 v))
  let s := match t with
    | none => s
    | some v =>
      let s := s.setFld (PNL_STAT_BAND p) (if s.flag (PNL_TBL_OK p) then bandFor (s.pn p).tbl (s.fld (PNL_STAT_BAND p)) v else 15)
      let on := s.fldS (PNL_HEAT_HEAT_ON p)
      let none' := s.fld (PNL_HEAT_CH p) == 0x1F
      let h := !none' && (decide (v < on) || (nth false s.pnl.heat p && decide (v < on + 5)))
      let s := (s.updPnl fun x => { x with heat := x.heat.set p h }).setFlag (PNL_STAT_HEAT p) h
      s.iff (none' && decide (v < -20) && old != 1) fun s => s.event 0x0A13 [p]
  if old = new then s
  else
    let s := s.updPn p fun x => { x with hold := new }
    match new with
    | 1 => s.event 0x0A04 [p]
    | 2 => s.event 0x0A05 [p]
    | 3 => s.event 0x0A0F [p]
    | _ => if old = 3 then s else s.event 0x0A06 [p]

/-! ### Rails (R281, R287, R288) -/

/-- Balance registers (R285). -/
def State.pnBal (s : State) (p : Nat) : State :=
  let x := s.pn p
  let rest := x.pix.filter fun q => q.2.drive.isNone && q.2.integral != 0
  let top := x.pix.foldl (fun a q => max a q.2.integral.natAbs) 0
  (s.setSat (PNL_BAL_RESID p) rest.length).setSat (PNL_BAL_MAXABS p) top

/-- State of a panel whose rails are up. -/
def State.pnShow (s : State) (p : Nat) : State :=
  let x := s.pn p
  let busy := x.pix.any fun q => q.2.drive.isSome
  if s.pnState p = 0 ∨ 6 ≤ s.pnState p then s
  else s.setFld (PNL_STAT_STATE p)
    (if busy then (if s.holding then 3 else 2) else if x.hold = 1 then 4 else if x.hold = 2 then 5 else 1)

/-- Start a waveform of a pixel. -/
def Pix.start (q : Pix) (mode band dst : Nat) (t0 : Option Int) (r : PnlRect) : Pix :=
  { q with drive := some ⟨mode, band, 0, q.level, dst, false, t0, r⟩ }

/-- What follows a pixel's waveform at a frame boundary: where a rail fault left an integral, the residue pass; where it is marked or
a rail fault stopped it, the compensation pass, CLEAR to its target; else its pending target. None starts where no band is in force
(R283, R286 to R288; log entry 78). -/
def Pix.next (band : Nat) (t0 : Option Int) (q : Pix) : Pix :=
  if 12 ≤ band then q
  else match q.pend with
    | none => q
    | some (l, m, r) =>
      if q.broken && q.integral != 0 then { q with drive := some ⟨2, band, 0, q.level, q.level, true, t0, r⟩ }
      else if q.broken || q.mark then { q.start 2 band l t0 r with pend := none, mark := false, comp := true, broken := false }
      else { q.start m band l t0 r with pend := none }

/-- PANEL_RAIL_STEP: one rail of VGL, VSL, VGH, VSH, VCOM is inside its window, 1 ms after its step at the least, and the next
begins; VCOM has the level of PNL_VCOM, and after it the panel is ready. A rail that is not within 10 ms aborts: the rails already up power
down, E:0x0A01 (R281, R288). -/
def execPanelRailStep (panel : Fin 2) (ok : Bool) (s : State) : Host.Outcome State Fault Refusal :=
  .next (
    let p := panel.val
    let k := (s.pn p).step
    if k = 0 || !s.pdGood 8 || decide (s.age < (s.pn p).stepAt + (if ok then ms else 10 * ms)) then s
    else if !ok then
      let s := (s.updPn p (·.halt s.age)).setFld (PNL_STAT_STATE p) 6
      (((s.setFld (PNL_RAIL_FAIL p) (2 ^ (k - 1))).inc (PNL_ERR_RAILF p)).event 0x0A01 [p]).startTimer (.railRetry p)
    else if k < 5 then s.updPn p fun x => { x with step := k + 1, up := k, stepAt := s.age }
    else
      let s := s.updPn p fun x => { x with step := 0, up := 5, vcom := s.fld (PNL_VCOM_VCOM p) }
      (s.setFld (PNL_STAT_STATE p) 1).pnShow p)

/-- The panel's rails begin to power up, unless they are up or still power down, or a fault or a refused table keeps them down. -/
def State.pnPower (s : State) (p : Nat) : State :=
  s.iff (s.pnState p == 0 && (s.pn p).step == 0 && (s.pn p).downAt.isNone && s.pdGood 8) fun s => s.updPn p fun x => { x with step := 1, stepAt := s.age }

/-- A power-down step of the panels' rails, 1 ms after the one before at the least: the controller's hold capacitance carries it
through a loss of PD8 (R281; taken at the SF ticks, log entry 78). -/
def State.railsDown (s : State) : State :=
  s.each (idx 2) fun s p =>
    match (s.pn p).downAt with
    | some t => s.iff (decide (t + ms ≤ s.age)) fun s =>
        s.updPn p fun x => { x with up := x.up - 1, vcom := 0, downAt := if x.up ≤ 1 then none else some s.age }
    | none => s

/-- PANEL_RAIL_RETRY: 10 s after a rail fault (R281). -/
def execPanelRailRetry (panel : Fin 2) (s : State) : Host.Outcome State Fault Refusal :=
  s.live (if s.pnState panel == 6 && s.due (.railRetry panel) (10 * sec) && s.pdGood 8 then
    ((s.stopTimer (.railRetry panel)).setFld (PNL_STAT_STATE panel) 0).pnPower panel
  else s)

/-- PANEL_RAIL_FAULT: rails outside ±15 % after 1 ms: driving stops, the rails power down, E:0x0A01; the integrals stay
(R287). -/
def execPanelRailFault (panel : Fin 2) (rails : BitVec 5) (s : State) : Host.Outcome State Fault Refusal :=
  s.live (
    let p := panel.val
    if s.pnState p = 0 ∨ 6 ≤ s.pnState p then s
    else
      let s := s.updPn p (·.halt s.age)
      let s := ((s.setFld (PNL_STAT_STATE p) 6).setFld (PNL_RAIL_FAIL p) rails.toNat).inc (PNL_ERR_RAILF p)
      ((s.event 0x0A01 [p]).startTimer (.railRetry p)).pnBal p)

/-- Updates of a panel that are queued or in flight: an update in flight is the region of a waveform or of a pending target. -/
def Panel.updates (x : Panel) : Nat :=
  x.queue.length + (x.pix.foldl (fun a q => (q.2.drive.toList.map (·.rect)) ++ (q.2.pend.toList.map (·.2.2)) ++ a) []).eraseDups.length

/-- PD8 goes off, or the module freezes: driving stops, the rails power down; updates that this stops raise E:0x0A0B with the panel and
its balance, and count one by one. The integrals, and the keypad's FIFO, are lost (R288, R293). -/
def State.panelsStop (s : State) : State :=
  s.each (idx 2) fun s p =>
    let x := s.pn p
    let nz := x.pix.filter fun q => q.2.integral != 0
    let top := nz.foldl (fun a q => max a q.2.integral.natAbs) 0
    let s := s.iff (x.updates != 0) fun s =>
      (s.setSat (PNL_ERR_ABORT p) (s.fld (PNL_ERR_ABORT p) + x.updates)).event 0x0A0B [p, nz.length, top]
    let s := s.updPn p fun x =>
      { x.halt s.age with
        queue := []
        pix := (x.pix.map fun q => (q.1, { Pix.rest with level := q.2.level })).filter fun q => q.2 != Pix.rest }
    let s := (s.setFld (PNL_STAT_QUEUE p) 0).iff (s.pnState p != 7) (·.setFld (PNL_STAT_STATE p) 0)
    ((s.stopTimer (.railRetry p)).pnBal p).updPnl fun x => { x with fifo := [], multi := false }

/-! ### Updates and frames (R284 to R288) -/

/-- Queue an update; a full queue refuses it with E:0x0A09, and it is repeated in the next slot (R286). -/
def State.pnQueue (s : State) (p : Nat) (u : PnlUpd) : State :=
  if !s.flag (PNL_TBL_OK p) || !s.pnUsed p then s
  else if 32 ≤ (s.pn p).queue.length then
    ((s.updPnl fun x => { x with again := x.again ++ [(p, u)] }).inc (PNL_ERR_QOVF p)).event 0x0A09 [p]
  else
    let s := s.updPn p fun x => { x with queue := x.queue ++ [u] }
    (s.setFld (PNL_STAT_QUEUE p) (s.pn p).queue.length).pnPower p

/-- First row of the legal field of PNL0 (R291). -/
def State.legalRow (s : State) : Nat := s.fld (PNL_CFG_HEIGHT 0) - 600

/-- Region of an update. -/
def PnlUpd.rect (u : PnlUpd) : PnlRect := ⟨u.x, u.y, u.w, u.h⟩

/-- Keys of the pixels of a region, in row order. -/
def regionKeys (width : Nat) (u : PnlRect) : List Nat :=
  (idx u.h).flatMap fun r => (idx u.w).map fun c => (u.y + r) * width + u.x + c

/-- A target reaches a pixel: its waveform starts, or it waits behind the one in flight (R286). -/
def Pix.target (q : Pix) (mode band dst : Nat) (t0 : Option Int) (r : PnlRect) : Pix :=
  if q.drive.isSome || q.broken || q.mark then { q with pend := some (dst, mode, r) } else { q.start mode band dst t0 r with pend := none }

/-- Start an update at a frame boundary. -/
def State.pnBegin (s : State) (p : Nat) (t0 : Int) (u : PnlUpd) : State :=
  let band := s.fld (PNL_STAT_BAND p)
  let keys := regionKeys (s.fld (PNL_CFG_WIDTH p)) u.rect
  s.updPn p fun x =>
    { x with
      pix := (keys.zip u.img).foldl (fun l k =>
        Sparse.put Pix.rest k.1 ((Sparse.get Pix.rest l k.1).target u.mode band k.2 (some t0) u.rect) l) x.pix }

/-- One frame of a pixel: its drive counts in the integral as commanded; in a bad frame every pixel with a waveform is marked, since
0b00 is a drive of Table 11.3 too; a waveform that ends is followed by a compensation pass or by the pending target (R285 to R288). -/
def Pix.frame (tbl : List Byte) (band : Nat) (t0 : Option Int) (bad : Bool) (q : Pix) : Pix :=
  match q.drive with
  | none => q.next band t0
  | some d =>
    if d.residue then
      let v := if 0 < q.integral then q.integral - 1 else q.integral + 1
      let q := { q with integral := v, mark := q.mark || bad, drive := some { d with frame := d.frame + 1 } }
      if v = 0 then { q with drive := none }.next band t0 else q
    else
      let c := driveCode tbl d.band d.mode (16 * d.src + d.dst) d.frame
      let q := { q with integral := q.integral + driveSum c, mark := q.mark || bad }
      if d.frame + 1 < bandFrames tbl d.band d.mode then { q with drive := some { d with frame := d.frame + 1 } }
      else
        let q := { q with level := d.dst, drive := none, comp := false }
        { q with pend := if q.mark then some (q.pend.getD (q.level, 2, d.rect)) else q.pend }.next band t0

/-- Region of a waveform that ends with this frame, where the reading then differs by more than 3 K from the one at its start (R284). -/
def Pix.drift (tbl : List Byte) (t : Option Int) (q : Pix) : Option PnlRect :=
  match q.drive, t with
  | some d, some t => match d.t0 with
    | some t0 => if !d.residue ∧ bandFrames tbl d.band d.mode ≤ d.frame + 1 ∧ 3 < (t - t0).natAbs then some d.rect else none
    | none => none
  | _, _ => none

/-- Band of the oldest waveform in flight: every frame boundary counts one frame of each. -/
def Panel.oldest (x : Panel) : Option PixDrive :=
  x.pix.foldl (fun a q => match a, q.2.drive with
    | some b, some d => some (if b.frame < d.frame then d else b)
    | none, d => d
    | b, none => b) none

/-- Period of the frame that runs, in ns: the rate of the band of the oldest waveform in flight; none runs without a waveform (R286). -/
def Panel.period (x : Panel) : Nat :=
  match x.oldest with
  | some d => sec / bandRate x.tbl d.band
  | none => 0

/-- The newest image of a region: where a pixel is going, or where it stands. -/
def State.pnImage (s : State) (p : Nat) (u : PnlRect) : List Nat :=
  (regionKeys (s.fld (PNL_CFG_WIDTH p)) u).map fun k =>
    let q := Sparse.get Pix.rest (s.pn p).pix k
    match q.pend, q.drive with
    | some l, _ => l.1
    | none, some d => d.dst
    | none, none => q.level

/-- PANEL_FRAME: a frame boundary, where the running frame's period is over: the frame that ends, with the rails that left their windows
in it, drives every waveform; then queued updates start where the temperature permits, and the next frame begins. In a supply-warning
hold none begins: E:0x0A0A (R283 to R288). -/
def execPanelFrame (panel : Fin 2) (temp : Option Int) (droop : BitVec 5) (s : State) : Host.Outcome State Fault Refusal :=
  s.live (
    let p := panel.val
    if s.pnState p = 0 || decide (6 ≤ s.pnState p) || !s.pdGood 8 || !s.pnUsed p
        || ((s.pn p).run && decide (s.age < (s.pn p).frameAt + (s.pn p).period)) then s
    else
      let x := s.pn p
      let busy (l : List (Nat × Pix)) : Bool := l.any fun q => q.2.drive.isSome
      let owed (l : List (Nat × Pix)) : Bool := l.any fun q => q.2.mark || q.2.comp
      let bad := x.run && droop != 0 && busy x.pix
      let had := owed x.pix
      let s := s.iff (!s.holding && (!x.queue.isEmpty || x.pix.any fun q => q.2.pend.isSome)) (·.takeTemp p temp)
      let band := if s.holding then 15 else s.fld (PNL_STAT_BAND p)
      let s := s.iff bad fun s =>
        let s := (s.setFld (PNL_RAIL_DROOP p) droop.toNat).inc (PNL_ERR_BADF p)
        s.iff (!x.told02) fun s => (s.updPn p fun y => { y with told02 := true }).event 0x0A02 [p]
      let drift := if x.run then (x.pix.filterMap fun q => q.2.drift x.tbl temp).eraseDups else []
      let s := s.updPn p fun y =>
        { y with
          pix := (y.pix.map fun q => (q.1, if x.run then q.2.frame y.tbl band temp bad
            else if q.2.drive.isSome then q.2 else q.2.next band temp)).filter fun q => q.2 != Pix.rest }
      let s := s.iff (had && !owed (s.pn p).pix) fun s => s.event 0x0A03 [p]
      let s := s.each drift fun s r => (s.event 0x0A07 [p]).pnQueue p ⟨r.x, r.y, r.w, r.h, 0, s.pnImage p r⟩
      let s := match temp with
        | some t =>
          if !s.holding ∧ !x.queue.isEmpty ∧ (s.pn p).hold = 0 then
            ((s.updPn p fun y => { y with queue := y.queue.drop x.queue.length }).setFld (PNL_STAT_QUEUE p)
              ((s.pn p).queue.drop x.queue.length).length).each x.queue fun s u => s.pnBegin p t u
          else s
        | none => s
      let on := busy (s.pn p).pix
      let s := s.updPn p fun y => { y with run := on && !s.holding, frameAt := s.age }
      let s := s.iff (s.holding && on && s.pnState p == 2) fun s => s.event 0x0A0A [p]
      (s.pnShow p).pnBal p)

/-- Once-per-SF marks, and the presence line of PNL0: enabled and absent, E:0x0A0D; the GC repeats what a full queue refused, and
a panel with updates whose rails are down powers up (R278, R281, R286). -/
def State.panelSf (s : State) (present : Bool) : State :=
  let s := s.updPnl fun x => { x with panels := x.panels.map fun (q : Panel) => { q with told02 := false } }
  let s := (s.setFlag (PNL_STAT_PRESENT 0) present).setFlag (PNL_STAT_PRESENT 1) true
  let gone := s.flag PNL_GCFG_PNL0_EN && !present
  let s := s.iff (gone && !s.pnl.told0D) fun s => s.event 0x0A0D [0]
  let us := s.pnl.again
  let s := (s.updPnl fun x => { x with told0D := gone, again := [] }).each us fun s u => s.pnQueue u.1 u.2
  s.each (idx 2) fun s p => s.iff ((s.pn p).updates != 0) (·.pnPower p)

/-- Panel configuration in range (Table 11.8). -/
def State.pnlCfgOk (s : State) : Bool :=
  let idle := s.fld PNL_GCFG_PD8_IDLE
  decide (1 ≤ idle ∧ idle ≤ 60) && decide (1 ≤ s.fld PNL_GCFG_PAGE_T)
    && ((idx 2).all fun p =>
      let v := s.fld (PNL_VCOM_VCOM p)
      let w := s.fld (PNL_CFG_WIDTH p)
      let h := s.fld (PNL_CFG_HEIGHT p)
      let on := s.fldS (PNL_HEAT_HEAT_ON p)
      let ch := s.fld (PNL_HEAT_CH p)
      decide (30 ≤ v ∧ v ≤ 250 ∧ 1 ≤ w ∧ w ≤ 1600 ∧ 1 ≤ h ∧ h ≤ 1200) && decide (-30 ≤ on ∧ on ≤ -10) && (decide (ch < 24) || ch == 0x1F))
    && decide (10 ≤ s.fld KP_CFG_KEY_T ∧ s.fld KP_CFG_KEY_T ≤ 120)
    && decide (((idx 8).filter fun j => bit (s.fld KP_CFG_PNL0_OUTS) j).length ≤ 4)

end Sys2Proof.Machine
end

