-- ==== Sys2Proof/Machine/Island.lean ====
section
/-!
DEFINITION. The Safety Island: inputs, trips, controlled stops, the safe state, contactors and weld tests, insulation
monitoring, degraded mode, resets, the parameter set and latent tests (spec/09), with the safety output pairs (spec/10
R270 to R274).
-/

namespace Sys2Proof.Machine

open Sys2Proof

/-! ### Modes -/

/-- Command the domains of `mask` on and the others off. A domain that goes on has its rail in the window at once (log entry
16). PD7 goes off with the stop line asserted on every link that is not OFF, whereupon the links are OFF; it comes on with
the enabled links in LOCK (R399, spec/03 Table 3.15). PD8 takes
the panels with it, PD9 the switches and the Mallas modem (spec/10 R269, spec/11 R288, spec/13 R324). With PD2 back, the queues go into the log (spec/01 R14). `stop` is false after a bench freeze only. -/
def State.pdSwitch (s : State) (stop : Bool) (mask : Nat) : State :=
  let on := s.fld GLB_PD_STATE_ON
  let mask := if s.sys.shed.isSome then mask &&& (on ||| 0xF) else mask
  let s := s.iff (bit on 8 && !bit mask 8) (·.panelsStop)
  let s := s.iff (bit on 9 && !bit mask 9) fun s => (s.psPowerDown).mlStop
  let s := s.iff (stop && bit on 7 && !bit mask 7) fun s => s.stopLines ((idx s.nLinks).filter fun n => s.lst n != 0) 9
  let pg := (idx 10).foldl (fun a n => if bit mask n && (!bit on n || bit (s.fld GLB_PD_STATE_PGOOD) n) then a + 2 ^ n else a) 0
  let back := !s.pdGood 2 && bit mask 2 && bit pg 2
  let s := (s.setFld GLB_PD_STATE_ON mask).setFld GLB_PD_STATE_PGOOD pg
  let s : State := { s with glb := { s.glb with
    offRead := s.glb.offRead.filter fun n => !bit mask n, outages := s.glb.outages + b2n back } }
  s.iff (bit on 7 != bit mask 7) fun s => s.each (idx s.nLinks) (·.linkPower)

/-- Command domains with the stop line asserted ahead of PD7. -/
def State.pdSet (s : State) (mask : Nat) : State := s.pdSwitch true mask

/-- Domains that are on in a mode (spec/01 Table 1.2): PD8 is the GC's own affair, and the domains of BOOT and FROZEN follow
the start and the capture. -/
def State.pdOf (s : State) (m : Nat) : Nat :=
  let on := s.fld GLB_PD_STATE_ON
  let pd8 := if bit on 8 then 0x100 else 0
  match m with
  | 0 => on
  | 6 => on
  | 1 => 0x27F + pd8
  | 7 => (if s.fld GLB_LIFECYCLE_STATE = 2 && !s.flag BN_CTRL_MET then 0x2F7 else 0x2FF) + pd8
  | _ => 0x2FF + pd8

/-- Enter a mode: E:0x0001; the domains follow; COMMISSION and BENCH unlock the configuration; the outputs follow (R399,
R402, spec/01 Table 1.13, spec/06 R146). BENCH holds every pair off (R404). -/
def State.setMode (s : State) (m : Nat) : State :=
  let old := s.mode
  if old = m then s
  else
    let s := ((s.setFld GLB_MODE_PREV old).setFld GLB_MODE_MODE m).event 0x0001 [old, m]
    let s := s.iff (m == 4) (·.setFld MD_STAT_ENTRY old)
    let s := s.iff (s.sys.req == 2) fun s => (s.updSys fun x => { x with req := 0 }).stopTimer .reqStop
    let s := s.pdSet (s.pdOf m)
    let s := s.iff (m == 1 || m == 7) (·.setFlag GLB_CFG_COMMIT_COMMITTED false)
    let s := s.iff (m == 7) fun s => s.updIsl fun i => { i with pairs := i.pairs.map fun (p : SoPair) => { p with hsc := false, lsc := false } }
    s.each (idx s.nOuts) (·.vehMode)

/-- Change ISTATE; a change raises E:0x0801. -/
def State.setIstate (s : State) (n : Nat) : State :=
  if s.isl.istate = n then s
  else (s.updIsl fun i => { i with istate := n }).event 0x0801 [s.isl.istate, n]

/-! ### Pairs, stop lines and clamps -/

/-- Turn a pair off: both switches (R226). -/
def State.pairOffNow (s : State) (k : Nat) : State :=
  (s.stopTimer (.pairOff k)).updSo k fun p => { p with hsc := false, lsc := false, offAt := if p.hsc then some s.age else p.offAt }

/-- Turn a pair off SO_DLY after the stop line (R227). -/
def State.pairOffSoon (s : State) (k : Nat) : State :=
  if (s.so k).hsc && !s.timing (.pairOff k) then s.startTimer (.pairOff k) else s

/-- Apply an operation to the pair of output `j`. -/
def State.onPair (s : State) (j : Nat) (f : State → Nat → State) : State :=
  match s.pairOf j with
  | some k => f s k
  | none => s

/-- PAIR_OFF_DELAY: SO_DLY has passed since the stop line (R227). -/
def execPairOffDelay (pair : Fin 8) (s : State) : Host.Outcome State Fault Refusal :=
  s.liveOn 1 (if s.due (.pairOff pair) (s.fld SP_G0_SO_DLY * ms) then s.pairOffNow pair else s)

/-- Links that map 1 names for output `j` or whose contactor to it reads closed (R236). -/
def State.outLinks (s : State) (j : Nat) : List Nat :=
  (idx s.nLinks).filter fun n => s.mapOf n == some j || (s.closedCts n).contains j

/-- The SC writes an output's clamp into each allocator's register and its CE's (R19, R94). -/
def State.setClamp (s : State) (j v : Nat) : State :=
  let s := s.updSh fun h => { h with clampA := h.clampA.map fun a => a.set j (satU 20 v) }
  match s.outLane j with
  | some l => s.setSat (CE_CLAMP_ILIM (s.outCe j) l) v
  | none => s

/-- Clamp that the SC writes for an output, 0.1 A: 0 in the safe state, after a trip and in a controlled stop; P_DEG of
I_COOLED in DEGRADED; the ramp of spec/17 Table 17.3 in hold-up; full scale elsewhere (R236 to R238, R246; the full scale is the model's choice, log entry 31). -/
def State.clampNow (s : State) (j : Nat) : Nat :=
  let o := s.io j
  if let some k := s.sys.shed then nth 0 s.sys.shedI j * (7 - k) / 7
  else if s.isl.safe || s.mode == 7 || o.stopFn != 0 || !o.latched.isEmpty || (s.pairOf j).any (fun k => s.timing (.pairOff k)) then 0
  else if s.mode == 4 then s.fld (OUT_IRAT_I_COOLED j) * 10 * s.fld SP_G1_P_DEG / 100
  else 0xFFFFF

/-! ### Trips, controlled stops and the safe state (R236 to R238) -/

/-- Function of Table 9.4 that an input demands, by its role (Table 9.2). -/
def roleFn : Nat → Nat
  | 1 => 3 | 2 => 4 | 3 => 13 | 5 => 14 | 6 => 9 | _ => 0

/-- Functions whose trip is latched (Table 9.4). -/
def latching (fn : Nat) : Bool := [1, 2, 3, 4, 6, 7, 8, 10, 11].contains fn

/-- An output trip for a function (R236). The weld test that the output has passed counts no more, so that its pair stays off until the
next CABLECHECK (DEDUCED from R239, log entry 76). -/
def State.tripOut (s : State) (j fn : Nat) : State :=
  let s := s.updIo j fun o =>
    { o with
      trip := fn, latched := if latching fn && !o.latched.contains fn then o.latched ++ [fn] else o.latched
      unlatched := if latching fn then 0 else fn, weldTest := 0 }
  let s := ((s.stopLines (s.outLinks j) j).setClamp j 0).onPair j (·.pairOffSoon ·)
  (s.safetyEnd j).event 0x0805 [j, fn]

/-- Trip where the function has not tripped the output already. -/
def State.tripNew (s : State) (j fn : Nat) : State :=
  let o := s.io j
  if o.latched.contains fn || (!latching fn && o.unlatched == fn) then s
  else s.tripOut j fn

/-- First stage of a controlled stop: the clamp goes to 0 (R237). Function 12 and the others run their own times, so that either may
come during a stop for the other. -/
def State.controlledStop (s : State) (j fn : Nat) : State :=
  let t : Timer := if fn = 12 then .failStop j else .ctlStop j
  let s := if (s.io j).stopFn ≠ 0 then s
    else (s.setClamp j 0).updIo j fun o => { o with stopFn := fn, stage2 := false }
  s.iff (!s.timing t && !(s.io j).stage2) (·.startTimer t)

/-- The first stage is over: STOP1_T has passed, or 5 ms for function 12 (R237). -/
def State.stop1Over (s : State) (j : Nat) : Bool := s.due (.ctlStop j) (s.fld SP_G2_STOP1_T * ms) || s.due (.failStop j) (5 * ms)

/-- Fast-path current above 5 % of I_COOLED. -/
def State.above5 (s : State) (j : Nat) : Bool := decide (s.fld (OUT_IRAT_I_COOLED j) * 50 < (s.fastI j).natAbs)

/-- CONTROLLED_STOP_STAGE2: an output still above 5 % of I_COOLED gets the stop line; the pair follows (R237). -/
def execControlledStopStage2 (out : Fin 8) (s : State) : Host.Outcome State Fault Refusal :=
  s.liveOn 1 (if (s.io out).stopFn != 0 && !(s.io out).stage2 && s.stop1Over out then
    let s := (s.stopTimer (.ctlStop out)).updIo out fun o => { o with stage2 := true }
    s.iff (s.above5 out) fun s => (s.stopLines (s.outLinks out) out).onPair out (·.pairOffSoon ·)
  else s)

/-- The module safe state (R238). `at_` are outputs whose pairs turn off at once (R227). -/
def State.safeState (s : State) (cause : Nat) (at_ : List Nat) : State :=
  let s := s.each at_ fun s j => s.onPair j (·.pairOffNow ·)
  if s.isl.safe then s
  else
    let was := s.mode
    let si := (s.reg R_SI_STATUS).toNat
    let s := s.updIsl fun i => { i with safe := true, cause := cause, afterStop := 0, resetting := false }
    let s := ((s.stopTimer .afterStop).stopTimer .latent).stopLines (idx s.nLinks) 8
    let s := s.each (idx 8) fun s j => (s.setClamp j 0).onPair j (·.pairOffSoon ·)
    let s := s.setIstate 4
    let s := (s.iff (was != 0 && was != 6) (·.setMode 5)).event 0x0802 [cause]
    let s := s.iff (decide (0x81 ≤ cause ∧ cause ≤ 0x8B)) (·.twinAnnounce)
    s.frzAuto cause was si

/-- The module reaction to a fault that has been counted: the safe state (R245). -/
def State.faultHeld (s : State) (row : Nat) : State :=
  (s.updIsl fun i => { i with faults := if i.faults.contains row then i.faults else i.faults ++ [row] }).safeState (0x80 + row) []

/-- A fault with a module reaction leads to the safe state (R245, R252). -/
def State.faultSafe (s : State) (row : Nat) : State := (s.faultSeen row).faultHeld row

/-- A controlled stop of outputs that the safe state follows (R247, R252). -/
def State.stopThenSafe (s : State) (js : List Nat) (fn cause : Nat) : State :=
  let s := s.each js (·.controlledStop · fn)
  (s.updIsl fun i => { i with afterStop := cause }).startTimer .afterStop

/-- Demands of functions 1 and 2 on the thresholds of the output's comparators: connector current in mA beyond OC_TRIP in either
direction, HV sense in mV beyond OV_TRIP (Table 9.4). -/
def State.ocDemand (s : State) (j : Nat) (iMa : Int) : Bool := decide ((nth (0, 0, 0, 0) s.isl.thr j).1 * 1000 < iMa.natAbs)
def State.ovDemand (s : State) (j : Nat) (vMv : Int) : Bool := decide ((nth (0, 0, 0, 0) s.isl.thr j).2.1 * 1000 < vMv.natAbs)

/-- COMPARATOR_TRIP: the Guard Logic trips on overcurrent or overvoltage, the value in mA or mV (R234, R235). -/
def execComparatorTrip (out : Fin 8) (overvoltage : Bool) (value : Int) (s : State) : Host.Outcome State Fault Refusal :=
  s.liveOn 1 (if overvoltage then s.iff (s.ovDemand out value) (·.tripNew out 2) else s.iff (s.ocDemand out value) (·.tripNew out 1))

/-- PILOT_LOSS_TRIP: function 5 (Table 9.4). -/
def execPilotLossTrip (out : Fin 8) (s : State) : Host.Outcome State Fault Refusal :=
  s.liveOn 1 (if (s.t0 out).xfer then s.tripNew out 5 else s)

/-- FAST_EARTH_FAULT: function 8, E:0x080C (R244). -/
def State.earthFault (s : State) (j : Nat) : State :=
  if (s.io j).latched.contains 8 then s else (s.event 0x080C [j, 8]).tripNew j 8

def execFastEarthFault (out : Fin 8) (s : State) : Host.Outcome State Fault Refusal := s.liveOn 1 (s.earthFault out)

/-- CONNECTOR_OVERTEMPERATURE: the Guard Logic's comparator, function 6 (R235). -/
def execConnectorOvertemperature (out : Fin 8) (s : State) : Host.Outcome State Fault Refusal := s.liveOn 1 (s.tripNew out 6)

/-- PATH_DISAGREEMENT: confirmed in 10 consecutive SF, function 11, E:0x080E (Table 9.4). -/
def execPathDisagreement (out : Fin 8) (s : State) : Host.Outcome State Fault Refusal :=
  s.liveOn 1 (if decide (10 ≤ (s.io out).pathRun) && !(s.io out).latched.contains 11 then
    ((s.faultSeen 7).event 0x080E [out, 11]).tripNew out 11
  else s)

/-! ### Safety inputs (R228 to R233) -/

/-- A channel shows its demand state (Table 9.2). -/
def chanDem (type : Nat) (isB level : Bool) : Bool :=
  match type with
  | 0 => !level
  | 1 => if isB then level else !level
  | _ => !isB && !level

/-- Both channels of an input disagree (types EQUIV and ANTI). -/
def sinDisagree (type : Nat) (a b : Bool) : Bool := decide (type < 2) && chanDem type false a != chanDem type true b

/-- Demand from two levels: entered at either channel, left only when both are normal (R229). -/
def demOf (type : Nat) (a b fault : Bool) : Bool := fault || chanDem type false a || chanDem type true b

/-- Role and type of an input in the set in force. -/
def State.sinRole (s : State) (i : Nat) : Nat := s.fld (SP_SIN_ROLE i)
def State.sinType (s : State) (i : Nat) : Nat := s.fld (SP_SIN_TYPE i)

/-- Test source of a channel: 0 none, 1 TSA, 2 TSB (Table 9.10). -/
def State.testSrc (s : State) (i : Nat) (isB : Bool) : Nat := s.fld (SP_SIN_TEST i) / (if isB then 4 else 1) % 4

/-- A channel's source is in its off-pulse or the 100 µs of settling: TSA drops at the start of each 100 ms period of the SF count, TSB
50 ms later (R232). The off-pulse is taken to last its 300 µs (DESIGN CHOICE, log entry 76). -/
def State.inPulse (s : State) (i : Nat) (isB : Bool) : Bool :=
  let k := s.testSrc i isB
  k != 0 && s.tim.sfCount % 100 == (k - 1) * 50 && decide (s.inSf < 400000) && nth 0 s.isl.pulseOver (k - 1) != s.tim.sfCount + 1

/-- The SC evaluates an input as it has sampled it (R229). -/
def State.sampleSin (s : State) (i : Nat) : State :=
  if s.sinRole i = 0 then s
  else s.updSin i fun x =>
    let d := demOf (s.sinType i) x.sa x.sb x.fault
    { x with dem := d, told := x.told && (d || x.gdem) }

/-- Outputs in an input's scope. -/
def State.inScope (s : State) (i : Nat) : List Nat := (idx s.nOuts).filter fun j => bit (s.fld (SP_SIN_SCOPE i)) j

/-- Outputs that name the input as their lock feedback or mirror contact. -/
def State.namedBy (s : State) (i : Nat) (mirror : Bool) : List Nat :=
  (idx s.nOuts).filter fun j => s.fld (if mirror then SP_OUT_0_MIRROR j else SP_OUT_0_LOCK_FB j) == i

/-- A weld locks the output out, E:0x080D (R240). -/
def State.weldFound (s : State) (j : Nat) : State :=
  if (s.io j).weld then s
  else
    let s := (s.updIo j fun o => { o with weld := true, trip := 9, weldTest := 0 }).onPair j (·.pairOffNow ·)
    (s.safetyEnd j).event 0x080D [j, 9]

/-- Reaction of an input in demand, by its role (Tables 9.2 and 9.4). -/
def State.reactSin (s : State) (i : Nat) : State :=
  match s.sinRole i with
  | 1 =>
    if s.fld (SP_SIN_SCOPE i) = 0 then s.safeState 3 [] else s.each (s.inScope i) (·.tripNew · 3)
  | 2 => s.each (s.inScope i) (·.tripNew · 4)
  | 3 =>
    let s := s.iff s.isl.permit fun s => (s.updIsl fun x => { x with permit := false }).event 0x081D [i, 13]
    s.each (idx s.nOuts) fun s j => s.iff ((s.io j).stopFn == 0) fun s => (s.controlledStop j 13).safetyEnd j
  | 5 => s.each (s.namedBy i false) fun s j => s.iff (s.pairCmd j && (s.io j).unlatched != 14) fun s =>
      (s.event 0x081E [j, 14]).tripOut j 14
  | 6 => s.each (s.namedBy i true) fun s j => s.iff (!s.pairCmd j && !s.pairReads j) (·.weldFound j)
  | _ => s

/-- An input in demand reacts; E:0x0807 once per demand. -/
def State.demandSin (s : State) (i : Nat) : State :=
  let s := if (s.sin i).told || s.sinRole i == 4 then s
    else (s.updSin i fun x => { x with told := true }).event 0x0807 [i, roleFn (s.sinRole i)]
  s.reactSin i

/-- The Guard Logic's own evaluation permits the output: none of the functions that it evaluates demands a trip, and no trip of one of
them stands (R225, Table 9.4). -/
def State.guardPermits (s : State) (j : Nat) : Bool :=
  let o := s.io j
  !s.isl.safe && o.unlatched == 0 && !(o.latched.any fun fn => [1, 2, 3, 4, 6, 8].contains fn) && (idx 16).all fun i => !(s.sin i).gdem ||
    (match s.sinRole i with
     | 1 => s.fld (SP_SIN_SCOPE i) != 0 && !(s.inScope i).contains j
     | 2 => !(s.inScope i).contains j
     | 5 => !(s.namedBy i false).contains j
     | _ => true)

/-- The low-side switch of an output's pair. In SA-1 the SC commands it with the high side; in SA-2 the Guard Logic commands it, on
only while the SC requests the pair and the Guard Logic permits the output (Table 9.1). A pair that a trip turns off follows R227. -/
def State.lowSide (s : State) (j : Nat) : State :=
  s.onPair j fun s k =>
    if s.timing (.pairOff k) then s
    else s.updSo k fun p => { p with lsc := p.hsc && (s.fld SP_G0_ARCH != 2 || s.guardPermits j) }

/-- GUARD_INPUT_ACCEPT: the Guard Logic accepts a channel that has held its level for 1 ms (R229), but no low level in a pulse window
(R232). -/
def execGuardInputAccept (sin : Fin 16) (isB : Bool) (s : State) : Host.Outcome State Fault Refusal :=
  s.liveOn 1 (
    let i := sin.val
    if s.sinRole i = 0 || (s.inPulse i isB && !(if isB then (s.sin i).b else (s.sin i).a)) then s
    else
      let s := s.updSin i fun x =>
        let x := if isB then { x with gb := x.b } else { x with ga := x.a }
        let d := demOf (s.sinType i) x.ga x.gb x.fault
        { x with
          gdem := d, told := x.told && (d || x.dem)
          gdisAt := if sinDisagree (s.sinType i) x.ga x.gb then (match x.gdisAt with | some t => some t | none => some s.age) else none }
      (s.iff (s.sin i).gdem (·.demandSin i)).each (idx s.nOuts) (·.lowSide ·))

/-- The SC's discrepancy check: the channels have disagreed at every tick for W; and the Guard Logic's backup in SA-2, with a window
of 1.05 W + 1 ms on what it has accepted (R230). -/
def State.scDisc (s : State) (i : Nat) : Bool :=
  let x := s.sin i
  sinDisagree (s.sinType i) x.sa x.sb && x.disFrom.any fun t => decide (t + s.fld (SP_SIN_WIN i) ≤ s.tim.sfCount)
def State.guardDisc (s : State) (i : Nat) : Bool :=
  s.fld SP_G0_ARCH == 2 && (s.sin i).gdisAt.any fun t => decide (t + s.fld (SP_SIN_WIN i) * 1050000 + ms ≤ s.age)

/-- DISCREPANCY_FAULT: a fault from either channel holds the input (R230). -/
def execDiscrepancyFault (sin : Fin 16) (s : State) : Host.Outcome State Fault Refusal :=
  s.liveOn 1 (
    let i := sin.val
    if s.sinRole i != 0 && !(s.sin i).fault && ((s.coreRuns 0 && s.scDisc i) || s.guardDisc i) then
      (s.updSin i fun x => { x with fault := true, both := false, cleared := false, dem := true }).event 0x0808 [i, roleFn (s.sinRole i)]
    else s)

/-- A channel that its source feeds and that is still low at the window's end is in demand from that instant, at the SC and at the
Guard Logic (R233). -/
def State.pulseEnd (s : State) (i src : Nat) : State :=
  let x := s.sin i
  let lowA := s.testSrc i false == src && !x.a
  let lowB := s.testSrc i true == src && !x.b
  if !lowA && !lowB then s
  else
    let s := s.updSin i fun x =>
      let x := if lowA then { x with sa := false, ga := false } else x
      let x := if lowB then { x with sb := false, gb := false } else x
      { x with gdem := demOf (s.sinType i) x.ga x.gb x.fault }
    let s := s.sampleSin i
    s.iff ((s.sin i).dem || (s.sin i).gdem) (·.demandSin i)

/-- TEST_PULSE: the pulse window of a source ends. Channels fed by the source that did not fall have a test fault; a channel that is
in demand is not judged, and one still low is in demand from here (R232, R233). -/
def execTestPulse (source : Fin 2) (stuckA stuckB : BitVec 16) (s : State) : Host.Outcome State Fault Refusal :=
  s.liveOn 1 (if s.tim.sfCount % 100 ≠ source.val * 50 then s else
    let s := s.updIsl fun x => { x with pulseOver := x.pulseOver.set source.val (s.tim.sfCount + 1) }
    s.each ((idx 16).filter fun i => s.sinRole i != 0) fun s i =>
    let x := s.sin i
    let bad (isB : Bool) (m : BitVec 16) (lv : Bool) : Bool :=
      m.getLsbD i && s.testSrc i isB == source.val + 1 && lv && !chanDem (s.sinType i) isB lv
    let s := s.pulseEnd i (source.val + 1)
    if s.sinRole i != 0 && !x.fault && (bad false stuckA x.a || bad true stuckB x.b) then
      let s := s.updSin i fun x => { x with fault := true, both := false, cleared := false, dem := true }
      ((s.faultSeen 9).event 0x0809 [i, roleFn (s.sinRole i)]).demandSin i
    else s)

/-! ### Contactors, weld tests and insulation (R239 to R244) -/

/-- SSTATE is in the set of R239. -/
def closeSet (st : Nat) : Bool := decide (5 ≤ st ∧ st ≤ 9)

/-- The conditions of R239 on the session state in exchange table 0; BENCH-ONLY locks every output out (spec/00 R3). -/
def State.mayClose (s : State) (j : Nat) : Bool :=
  let o := s.io j
  closeSet (s.t0 j).sstate && s.lockFb j && o.latched.isEmpty && o.unlatched == 0 && !o.weld && !o.latFail && !o.selfFail
    && o.weldTest == 2 && s.running && !s.hvLocked && o.stopFn == 0 && !s.isl.safe
    && (s.pairOf j).any fun k => !(s.so k).held && !s.timing (.pairOff k)

/-- The SC at an SF tick turns the pair of output `j` on, or off once SSTATE has left the set and the current is at or
below 2 A; the weld tests begin and end with the session's states. SSTATE is that of exchange table 0 at this tick (R223, R224, R239,
R240). While the pre-closure test runs, `State.testEnable` enables one block of the output, and `State.launch` sends it the test's
references. -/
def State.contactor (s : State) (j : Nat) : State :=
  let st := (s.t0 j).sstate
  let s := s.iff (st == 5 && (s.io j).weldTest == 0 && !s.pairCmd j && !(s.io j).weld) fun s =>
    (s.updIo j fun o => { o with weldTest := 1 }).startTimer (.weldTest j)
  let s := s.iff (!closeSet st && (s.io j).weldTest != 0) fun s =>
    (s.updIo j fun o => { o with weldTest := 0 }).stopTimer (.weldTest j)
  let s := (s.iff (!s.pairCmd j && s.mayClose j) fun s => s.onPair j fun s k => s.updSo k fun p =>
    { p with hsc := true, onAt := s.age }).lowSide j
  let s := s.iff (s.pairCmd j && !closeSet st && !(s.pairOf j).any fun k => s.timing (.pairOff k)) fun s =>
    if (s.fastI j).natAbs ≤ 2000 then
      ((s.onPair j (·.pairOffNow ·)).updIo j fun o => { o with leaving := false }).stopTimer (.leave50 j)
    else if (s.io j).leaving then s
    else (s.updIo j fun o => { o with leaving := true }).startTimer (.leave50 j)
  let s := s.iff (closeSet st || !s.pairCmd j) fun s => (s.updIo j fun o => { o with leaving := false }).stopTimer (.leave50 j)
  let ready := (s.blocksOf j).all fun n => s.bst n == 1
  let s := s.iff (st == 10 && !s.pairReads j && ready && !(s.io j).weldCheck && !s.timing (.weldCheck j)) fun s =>
    (s.updIo j fun o => { o with weldCheck := true }).startTimer (.weldCheck j)
  s.iff (st != 10) fun s => (s.updIo j fun o => { o with weldCheck := false }).stopTimer (.weldCheck j)

/-- CONTACTOR_CURRENT_TIMEOUT: 50 ms without the current at or below 2 A (R239). -/
def execContactorCurrentTimeout (out : Fin 8) (s : State) : Host.Outcome State Fault Refusal :=
  s.liveOn 1 (if (s.io out).leaving && s.due (.leave50 out) (50 * ms) then
    let s := (s.stopTimer (.leave50 out)).updIo out fun o => { o with leaving := false }
    (s.stopLines (s.outLinks out) out).onPair out (·.pairOffSoon ·)
  else s)

/-- WELD_TEST_END: the highest HV sense in mV within the 200 ms (R240). -/
def execWeldTestEnd (out : Fin 8) (hvMax : Int) (s : State) : Host.Outcome State Fault Refusal :=
  s.liveOn 1 (if (s.io out).weldTest == 1 && s.due (.weldTest out) (200 * ms) then
    let s := s.stopTimer (.weldTest out)
    if 10000 < hvMax then s.weldFound out else s.updIo out fun o => { o with weldTest := 2 }
  else s)

/-- WELD_CHECK_END: the lowest and the highest HV sense in mV and the largest difference between it and the blocks' VOUT within
the 100 ms (R240). -/
def execWeldCheckEnd (out : Fin 8) (hvMin hvMax : Int) (diffMax : Nat) (s : State) : Host.Outcome State Fault Refusal :=
  s.liveOn 1 (if (s.io out).weldCheck && s.due (.weldCheck out) (100 * ms) then
    let s := s.stopTimer (.weldCheck out)
    if hvMax < 60000 then s.event 0x0820 [out, 9] else if 60000 < hvMin ∧ diffMax < 20000 then s.weldFound out else s
  else s)

/-- Members of output `j`'s active bundle that are in TRANSFER. -/
def State.bndTransfer (s : State) (j : Nat) : List Nat :=
  match s.bundleOf j with
  | some b => if nth false s.sh.bndActive b then (idx 8).filter fun k => bit (s.fld (BND_STAT_IN_SESSION b)) k && (s.t0 k).sstate == 7 else []
  | none => []

/-- The monitor of output `j` injects: alone on its circuit, or the member longest in TRANSFER (R243). -/
def State.injector (s : State) (j : Nat) : Bool :=
  let ms' := s.bndTransfer j
  s.tok && (decide (ms'.length < 2) || !ms'.contains j ||
    ms'.all fun k => decide ((s.io j).xferAt.getD 0 < (s.io k).xferAt.getD 0 ∨
      ((s.io j).xferAt.getD 0 = (s.io k).xferAt.getD 0 ∧ j ≤ k)))

/-- Since when each output has been in TRANSFER, as exchange table 0 shows it (R243). -/
def State.imdMark (s : State) (j : Nat) : State :=
  s.updIo j fun o =>
    { o with xferAt := if (s.t0 j).sstate = 7 then (match o.xferAt with | some t => some t | none => some s.tim.sfCount) else none }

/-- The monitors at an SF tick: on from CABLECHECK to the end of WELDCHECK, with a self-test at the entry (Table 9.6, R243). -/
def State.imdTick (s : State) (j : Nat) : State :=
  let st := (s.t0 j).sstate
  let span := decide (5 ≤ st ∧ st ≤ 10)
  let inj := span && s.injector j
  s.updIo j fun o =>
    { o with
      inj := inj, selfDue := span && (o.selfDue || o.imd == 0)
      imd := if !span then 0 else if !inj then 5 else if o.imd = 0 || o.imd = 5 then 1 else o.imd
      rf := if span then o.rf else 0xFFFFFF }

/-- U of R242 in V. -/
def State.imdU (s : State) (j : Nat) : Nat :=
  match s.bundleOf j with
  | some b =>
    if (s.t0 j).sstate == 7 && nth false s.sh.bndActive b then
      ((idx 8).filter fun k => bit (s.fld (BND_CFG_MEMBERS b)) k).foldl (fun a k => min a (s.fld (OUT_CFG_VMAX k))) 65535
    else s.fld (OUT_CFG_VMAX j)
  | none => s.fld (OUT_CFG_VMAX j)

/-- INSULATION_RESULT: R_F in 100 Ω; above 10 MΩ it is out of range. The first result of a CABLECHECK comes with the outcome of the
self-test, and after a failure each one until it passes: a failed one leaves R_F invalid (R241, R242, Table 9.9). -/
def execInsulationResult (out : Fin 8) (rf : BitVec 24) (selfTest : Bool) (s : State) : Host.Outcome State Fault Refusal :=
  s.liveOn 1 (
    let j := out.val
    let st := (s.t0 j).sstate
    if st < 5 || 10 < st then s
    else if ((s.io j).selfDue || (s.io j).selfFail) && !selfTest then
      (s.updIo j fun o => { o with selfFail := true, rf := 0xFFFFFF }).iff (!(s.io j).selfFail) fun s => (s.faultSeen 11).event 0x081B [j]
    else
      let old := (s.io j).rf * 100
      let s := s.updIo j fun o => { o with selfFail := false, selfDue := false, rf := if 100000 < rf.toNat then 0xFFFFFF else rf.toNat }
      let r := rf.toNat * 100
      let u := s.imdU j
      let warn := s.fld (SP_OUT_3_R_WARN j) * u
      let bad := s.fld (SP_OUT_3_R_FAULT j) * u
      let show' (s : State) (c : Nat) : State := s.updIo j fun o => { o with imd := if o.inj then c else 5 }
      if bad ≤ r then
        let s := if warn ≤ r then show' s 2 else (show' s 3).iff (decide (warn ≤ old)) fun s => s.event 0x080A [j, 7]
        s.iff (st == 5 && s.pairReads j) (·.insulGood j)
      else
        let s := (show' s 4).iff (decide (bad ≤ old)) fun s => s.event 0x080B [j, 7]
        let s := s.iff (s.sstate j == 5) fun s => (s.event 0x050C [j, s.sess j]).endNow j 11
        s.tripNew j 7)

/-! ### Degraded mode (R245 to R247) -/

/-- Causes D1 and D2 that stand: pairs with a failed switch, and a regulator outside its window. -/
def State.d1Pairs (s : State) : List Nat :=
  (idx 8).filter fun k => (s.so k).hsStuck.isSome != (s.so k).lsStuck.isSome
def State.d2 (s : State) : Bool := s.isl.reg1 != s.isl.reg2

/-- The causes that stand: the pairs of D1, and 8 for D2. -/
def State.degCauses (s : State) : List Nat := s.d1Pairs ++ (if s.d2 then [8] else [])

/-- The SC at its tick: a cause leads from RUN or STANDBY to DEGRADED when it is enabled and T_DEG is not 0, else to the
safe state; a second cause leads from DEGRADED to the safe state, whether the first still stands or not (R245). -/
def State.degradedTick (s : State) : State :=
  let l := s.degCauses
  let n := l.length
  let row (k : Nat) : Nat := if k = 8 then 2 else 6
  if n = 0 ∨ s.isl.safe then s
  else
    let c := if s.d1Pairs.isEmpty then 2 else 1
    let row' := row (nth 8 l 0)
    if s.mode = 4 then
      match l.find? fun k => !s.isl.degIds.contains k with
      | some k => s.safeState (0x80 + row k) []
      | none => s
    else if s.mode = 2 ∨ s.mode = 3 then
      if 2 ≤ n || !bit (s.fld SP_G0_DEG_EN) (c - 1) || s.fld SP_G1_T_DEG == 0 then s.safeState (0x80 + row') []
      else
        let s := s.updIsl fun i => { i with degc := c, degFrom := s.mode, degIds := l }
        ((s.setIstate 3).setMode 4).event 0x080F [c]
    else s

/-- T_REM counts down in DEGRADED by what legal time has advanced since the cycle before, slew increments included (R247, spec/02
R35). -/
def State.degCount (s : State) : State :=
  (s.iff (s.mode == 4) fun s => s.updIsl fun i => { i with tRem := i.tRem - (s.tim.life - i.degSeen) }).updIsl fun i =>
    { i with degSeen := s.tim.life }

/-- DEGRADED_EXPIRY: T_REM has reached 0: a controlled stop of every output, then the safe state, E:0x0810 (R247). -/
def execDegradedExpiry (s : State) : Host.Outcome State Fault Refusal :=
  s.liveOn 1 (if s.mode == 4 && s.isl.tRem == 0 && s.isl.afterStop == 0 then
    (s.stopThenSafe (idx s.nOuts) 13 0xC0).event 0x0810 []
  else s)

/-- The safe state that follows a controlled stop: once every pair is off, or STOP1_T and SO_DLY have passed. -/
def State.afterStopTick (s : State) : State :=
  if s.isl.afterStop != 0 && ((idx 8).all (fun k => !(s.so k).hsc)
      || s.due .afterStop ((s.fld SP_G2_STOP1_T + s.fld SP_G0_SO_DLY) * ms)) then
    s.safeState s.isl.afterStop []
  else s

/-! ### Resets (R248) -/

/-- An input's function stands in demand, with a fault held by what its channels show: lock feedback while a pair that it guards is on, a mirror contact while its pair is off
(Tables 9.2 and 9.4; DEDUCED, log entry 12). -/
def State.sinDemands (s : State) (i : Nat) : Bool :=
  let x := s.sin i
  let t := s.sinType i
  (if x.fault then demOf t x.sa x.sb false || demOf t x.ga x.gb false else x.dem || x.gdem) && (match s.sinRole i with
    | 0 | 4 => false
    | 5 => (s.namedBy i false).any s.pairCmd
    | 6 => (s.namedBy i true).any fun j => !s.pairCmd j && !s.pairReads j
    | _ => true)

/-- The demand of a function that output `j` has latched stands, on the Island's own measurements (Table 9.4). -/
def State.fnDemands (s : State) (j fn : Nat) : Bool :=
  let o := s.io j
  match fn with
  | 1 => o.oc
  | 2 => o.ov
  | 6 => o.tempRun != 0
  | 7 => decide (o.rf * 100 < s.fld (SP_OUT_3_R_FAULT j) * s.imdU j)
  | 8 => o.asymRun != 0
  | 11 => o.pathRun != 0
  | _ => false

/-- The blocking cause of a reset, coded as SI_STATUS.CAUSE codes causes: a demand that stands, a latched discrepancy or test fault
that has not met R231, a fault of Table 9.8 with a module reaction; none where the reset is accepted (R248). -/
def State.resetBlock (s : State) : Option Nat :=
  let dem := (idx 16).find? s.sinDemands
  let flt := (idx 16).find? fun i => (s.sin i).fault && !(s.sin i).cleared
  let fns := (idx 8).findSome? fun j => (s.io j).latched.find? (s.fnDemands j)
  match dem, flt, fns with
  | some i, _, _ => some (roleFn (s.sinRole i))
  | none, some i, _ => some (roleFn (s.sinRole i))
  | none, none, some fn => some fn
  | none, none, none =>
    if !s.isl.faults.isEmpty then some (0x80 + nth 0 s.isl.faults 0)
    else if s.d2 then some 0x82
    else if s.isl.pairs.any fun p => p.hsStuck.isSome || p.lsStuck.isSome then some 0x86 else none

/-- The latch of a function of output `j` may clear: function 6 needs the pins 10 K below T_TRIP (Table 9.4). -/
def State.demandGone (s : State) (j fn : Nat) : Bool :=
  match fn with
  | 6 => (match s.tPin j with
    | some t => decide (t < ((s.fld (SP_OUT_2_T_TRIP j) : Int) - 10) * 10)
    | none => true)
  | _ => !s.fnDemands j fn

/-- Clear every latched trip whose demand is gone; a SERVICE reset also ends weld lockouts and holds (R248, R274). -/
def State.clearLatches (s : State) (svc : Bool) : State :=
  let s := s.each (idx 8) fun s j =>
    let o := s.io j
    let left := o.latched.filter fun fn => !s.demandGone j fn
    let had := !o.latched.isEmpty
    let s := s.updIo j fun o =>
      { o with latched := left, weld := o.weld && !svc }
    s.iff (had && left.isEmpty) fun s => s.event 0x0806 (j :: o.latched)
  let s := s.iff svc fun s => s.updIsl fun i => { i with pairs := i.pairs.map fun (p : SoPair) => { p with held := false } }
  s.each (idx 16) fun s i => s.iff (s.sin i).fault fun s =>
    (s.updSin i fun x => { x with fault := false, both := false, cleared := false }).sampleSin i

/-- An accepted SERVICE reset with the cause cleared returns T_REM to T_DEG, E:0x0811: in DEGRADED, which it leaves for the mode
before, and after an expiry or a safe state that left T_REM as it was, where R248 says the mode (R247; log entry 76). -/
def State.restoreDeg (s : State) : State :=
  let full := s.fld SP_G1_T_DEG * 60 * sec
  if s.mode = 4 then
    let s := s.updIsl fun i => { i with degc := 0, degIds := [], tRem := full }
    ((s.setIstate 2).setMode s.isl.degFrom).event 0x0811 []
  else if s.isl.tRem = full then s
  else (s.updIsl fun i => { i with degc := 0, degIds := [], tRem := full }).event 0x0811 []

/-- Judge a reset request (R248). -/
def State.resetRequest (s : State) (svc : Bool) : State :=
  match s.resetBlock with
  | some c => s.event 0x0804 [c]
  | none =>
    let s := (s.event 0x0803 []).clearLatches svc
    if s.isl.safe then (s.updIsl fun i => { i with resetting := true, resetSvc := svc }).startTimer .latent
    else s.iff svc (·.restoreDeg)

/-- The blocking cause of a host reset: it needs REMOTE_RST = 1 and no latched cause of function 3 or 4 (R248). -/
def State.hostResetBlock (s : State) : Option Nat :=
  let barred := (s.isl.safe && (s.isl.cause == 3 || s.isl.cause == 4))
    || (idx 8).any fun j => (s.io j).latched.contains 3 || (s.io j).latched.contains 4
  if s.flag SP_G0_REMOTE_RST && !barred then s.resetBlock else some s.isl.cause

/-- A host reset in the SERVICE role (R248). -/
def State.hostReset (s : State) : State :=
  match s.hostResetBlock with
  | some c => s.event 0x0804 [c]
  | none => s.resetRequest true

/-- RESET_LATENT_COMPLETE: the latent tests after an accepted reset pass, and the module goes to STANDBY, and in BENCH-ONLY
to BENCH, the one mode that it operates in beside BOOT (spec/00 R3, log entry 46); the stop line of the safe state is released by
the rule of R446 (R248). -/
def execResetLatentComplete (pass : Bool) (s : State) : Host.Outcome State Fault Refusal :=
  s.liveOn 1 (if s.isl.safe && s.isl.resetting then
    let s := (s.stopTimer .latent).updIsl fun i => { i with resetting := false }
    if pass then
      let s := s.updIsl fun i => { i with safe := false, cause := 0, degc := 0, degIds := [] }
      let s := s.iff s.isl.resetSvc (·.restoreDeg)
      let s := (s.setIstate (if s.isl.conf then 2 else 1)).setMode (if s.hvLocked then 7 else 2)
      let free := (idx 48).filter fun n =>
        let w := s.stopReason n
        w == 10 || (!s.pairReads w && decide ((s.fastI w).natAbs ≤ 2000))
      s.releaseLines free 8
    else (s.faultSeen 11).event 0x081B [8]
  else s)

/-! ### The safety parameter set (R249 to R251) -/

/-- Word `i` of an image. -/
def imgWord (img : List Byte) (off : Nat) : Nat := leAt img (off - 0x100) 4

/-- Field bits `hi` to `lo` of the image word at a mirror offset. -/
def imgFld (img : List Byte) (off hi lo : Nat) : Nat := imgWord img off / 2 ^ lo % 2 ^ (hi + 1 - lo)

/-- Bits that Table 9.10 leaves reserved at an offset of the image. -/
def spUsed (off : Nat) : Nat :=
  if off = 0x100 then 0x1F37 else if off = 0x104 then 0xFFFF007F else if off = 0x108 then 0xFFFFFFFF
  else if 0x140 ≤ off ∧ off < 0x180 then 0xFFF0FFF7
  else if 0x200 ≤ off ∧ off < 0x280 then
    (match (off - 0x200) % 0x10 with
     | 0 => 0x1F1F0F | 4 => 0xFFFFFFFF | 8 => 0x7FFF | _ => 0xFFFFFFFF)
  else 0

/-- A value inside an interval. -/
def within (v lo hi : Nat) : Bool := decide (lo ≤ v ∧ v ≤ hi)

/-- The fields of a candidate are in range (Table 9.10); reserved bits are 0. -/
def State.spRange (s : State) (img : List Byte) : Bool :=
  let f := imgFld img
  img.length == 512
    && ((idx 128).all fun i => (imgWord img (0x100 + 4 * i) &&& (0xFFFFFFFF ^^^ spUsed (0x100 + 4 * i))) == 0)
    && within (f 0x100 12 8) 0 20 && within (f 0x100 1 0) 1 2 && within (f 0x104 31 16) 0 480 && within (f 0x104 6 0) 10 100
    && within (f 0x108 15 0) 10 1000
    && ((idx 16).all fun i =>
      let o := 0x140 + 4 * i
      within (f o 15 6) 10 500 && within (f o 2 0) 0 6 && within (f o 5 4) 0 2 && within (f o 21 20) 0 2 && within (f o 23 22) 0 2)
    && ((idx 8).all fun j =>
      let o := 0x200 + 16 * j
      let sinOk (n : Nat) : Bool := decide (n < 16) || n == 31
      sinOk (f o 20 16) && sinOk (f o 12 8) && (decide (f o 3 0 < 8) || f o 3 0 == 15)
        && within (f (o + 4) 31 16) 100 1400 && within (f (o + 4) 15 0) 100 3600 && within (f (o + 8) 14 8) 30 90
        && within (f (o + 8) 7 0) 60 120 && decide (s.fld (OUT_DER_T_ZERO j) + 5 ≤ f (o + 8) 7 0)
        && decide (f (o + 12) 15 0 < f (o + 12) 31 16))

/-- Why a candidate is refused, 0 where it is not (R249): 1 a field out of range, 2 SINGLE in SA-2, 3 an enabled output
without a pair or a lock feedback, 4 a pair named twice, 5 not exactly one RESET input. -/
def State.candReason (s : State) (img : List Byte) : Nat :=
  let f := imgFld img
  let role (i : Nat) := f (0x140 + 4 * i) 2 0
  let pair (j : Nat) := f (0x200 + 16 * j) 3 0
  if !s.spRange img then 1
  else if f 0x100 1 0 == 2 && (idx 16).any (fun i => role i != 0 && f (0x140 + 4 * i) 5 4 == 2) then 2
  else if (idx s.nOuts).any (fun j => s.flag (OUT_CFG_EN j) &&
      (pair j == 15 || !((idx 16).any fun i => f (0x200 + 16 * j) 20 16 == i && role i == 5))) then 3
  else if (idx 8).any (fun j => (idx 8).any fun k => decide (j < k) && pair j != 15 && pair j == pair k) then 4
  else if ((idx 16).filter fun i => role i == 4).length ≠ 1 then 5 else 0

/-- Discard the candidate, E:0x0814 with the reason. -/
def State.dropCand (s : State) (why : Nat) : State :=
  (((s.stopTimer .candHost).stopTimer .candAck).updIsl fun i => { i with cand := [], candChk := 0, candStage := 0 }).event
    0x0814 [why]

/-- Stage 1: the SC checks a candidate; an accepted one waits 300 s for the host confirmation (R249 to R251). -/
def State.takeCandidate (s : State) (img : List Byte) : State :=
  let r := s.candReason img
  if r ≠ 0 then s.event 0x0814 [r]
  else
    let chk := crc32c img
    let s := (s.stopTimer .candAck).startTimer .candHost
    (s.updIsl fun i => { i with cand := img, candChk := chk, candStage := 1 }).event 0x0812 [chk]

/-- Stage 2: the host confirmation; a matching one opens 60 s for the local acknowledgement (R251). -/
def State.hostConfirm (s : State) (chk : Nat) : State :=
  if s.isl.candStage ≠ 1 then s.event 0x0814 [9]
  else if chk ≠ s.isl.candChk then s.dropCand 6
  else ((s.stopTimer .candHost).startTimer .candAck).updIsl fun i => { i with candStage := 2 }

/-- The SC sets the comparator thresholds from the set in force (R222, R251). -/
def State.setThresholds (s : State) : State :=
  s.updIsl fun i => { i with thr := (idx 8).map fun j =>
    (s.fld (SP_OUT_1_OC_TRIP j), s.fld (SP_OUT_1_OV_TRIP j), s.fld (SP_OUT_2_ASYM j), s.fld (SP_OUT_2_T_TRIP j)) }

/-- Stage 3: the local acknowledgement; the set is written and in force, and a change of architecture consumes one of the
16 (R225, R251). -/
def State.ackCandidate (s : State) : State :=
  let img := s.isl.cand
  let change := s.isl.conf && imgFld img 0x100 1 0 != s.fld SP_G0_ARCH
  let left := s.fld SI_ARCH_LEFT
  if change && left == 0 then (s.event 0x08F3 []).dropCand 11
  else
    let old := s.fld SP_G0_ARCH
    let s := s.iff change fun s => (s.setFld SI_ARCH_LEFT (left - 1)).event 0x0815 [old, imgFld img 0x100 1 0]
    let s := s.each (idx 128) fun s i => s.setReg (0x80100 + 4 * i) (BitVec.ofNat 32 (imgWord img (0x100 + 4 * i)))
    let chk := s.isl.candChk
    let s := (s.stopTimer .candAck).updIsl fun i =>
      { i with cand := [], candChk := 0, candStage := 0, conf := true, chk := chk
               tRem := if i.conf then i.tRem else s.fld SP_G1_T_DEG * 60 * sec }
    ((s.iff (s.isl.istate == 1) (·.setIstate 2)).setThresholds).event 0x0813 [chk]

/-! ### Latent tests and monitors (R252, R253) -/

/-- Latent tests fall due: the output's links are first ALIGNED, or 24 h have passed (R253). -/
def State.latentTick (s : State) (j : Nat) : State :=
  let o := s.io j
  let links := (idx s.nLinks).any fun n => s.wired n j && s.usable n
  let due := s.flag (OUT_CFG_EN j) && ((!o.latDone && links) || (o.latDone && decide (o.latAt + 86400 * sec ≤ s.age)))
  s.updIo j fun o => { o with latDue := o.latDue || due }

/-- The latent tests of an output pass: every comparator forced STOP, every link of the output saw it and its block answered BSTATE
STOP, both switches opened, and the monitor's self-test passed (R253). -/
def State.latentOk (s : State) (j : Nat) (r : LatentRes) : Bool :=
  r.comps == 31 && r.hs && r.ls && r.imd
    && (idx s.nLinks).all fun n => !(s.wired n j && s.usable n) || r.stops.getLsbD n

/-- LATENT_TEST_DUE: run with the given results, or deferred while the transfer flag is 1, E:0x081C (R253). A failed test
locks the output out, E:0x081B; a passed one clears the failures it covers. -/
def execLatentTestDue (out : Fin 8) (res : LatentRes) (s : State) : Host.Outcome State Fault Refusal :=
  s.liveOn 1 (if !(s.io out).latDue then s
    else if (s.t0 out).xfer then s.event 0x081C [out]
    else if s.latentOk out res then
      let s := s.updIo out fun o => { o with latDue := false, latDone := true, latAt := s.age, latFail := false, selfFail := false }
      s.onPair out fun s k => s.updSo k fun p => { p with hsStuck := none, lsStuck := none }
    else
      let s := s.updIo out fun o => { o with latDue := false, latDone := true, latAt := s.age, latFail := true }
      (s.faultSeen 11).event 0x081B [out])

/-- CLOCK_MONITOR_FAULT: safe state (Table 9.8). -/
def execClockMonitorFault (s : State) : Host.Outcome State Fault Refusal :=
  s.liveOn 1 ((s.event 0x0818 []).faultSafe 3)

/-- ISLAND_SUPPLY_FAULT: source 0 and 1 are the PD1 regulators, 2 any other supply that the Island monitors; one
regulator alone is D2, judged at the SC's next tick (R245, Table 9.8). -/
def execIslandSupplyFault (source : Fin 3) (good : Bool) (s : State) : Host.Outcome State Fault Refusal :=
  s.liveOn 1 (
    let s := s.updIsl fun i =>
      { i with
        reg1 := if source = 0 then good else i.reg1, reg2 := if source = 1 then good else i.reg2
        supBad := if source = 2 then !good else i.supBad }
    let lost := s.isl.supBad || (!s.isl.reg1 && !s.isl.reg2)
    if good then s.iff (!lost) fun s => s.updIsl fun i => { i with faults := i.faults.filter (· != 2) }
    else
      let s := (s.faultSeen 2).event 0x0817 [source]
      s.iff lost (·.faultHeld 2))

/-! ### Safety output pairs (spec/10 R271 to R274) -/

/-- Switches of a pair that conduct otherwise than commanded: the state in which each is stuck; both start the safe state at once
(R271). -/
def State.switchFault (s : State) (k : Nat) (hs ls : Option Bool) : State :=
  let s := s.updSo k fun p => { p with hsStuck := hs.orElse fun _ => p.hsStuck, lsStuck := ls.orElse fun _ => p.lsStuck }
  s.iff ((s.so k).hsStuck.isSome && (s.so k).lsStuck.isSome) fun s => s.safeState 0x86 []

/-- SO_READBACK_FAULT: a mismatch has stood for 500 µs (R271). -/
def execSoReadbackFault (pair : Fin 8) (hs ls : Bool) (s : State) : Host.Outcome State Fault Refusal :=
  s.liveOn 1 (if !hs && !ls then s
    else
      let s := s.iff hs fun s => s.event 0x0921 [pair, 0]
      let s := s.iff ls fun s => s.event 0x0921 [pair, 1]
      let p := s.so pair
      (s.faultSeen 6).switchFault pair (if hs then some (!p.hsc) else none) (if ls then some (!p.lsc) else none))

/-- SO_TEST_PULSE: the off and on responses in µs of one switch of a pair that is commanded on, in that switch's ms of each 100 ms
of the SF count; it passes within 150 µs and 100 µs. A command that has turned the pair off inside the window, 300 µs at the most,
discards the result; no pulse starts within 10 ms of the turn-on. A switch that does not open conducts for good, one that does not close
again never does (R272, R273). -/
def execSoTestPulse (pair : Fin 8) (low : Bool) (offUs onUs : Option Nat) (s : State) : Host.Outcome State Fault Refusal :=
  s.liveOn 1 (
    let p := s.so pair
    let turnedOff := !p.hsc && (match p.offAt with | some t => decide (s.age < t + 300000) | none => false)
    let failed (s : State) (stuck : Bool) : State :=
      (((s.inc (SO_DIAG_PULSE pair)).faultSeen 9).event 0x0922 [pair, b2n low]).switchFault pair (if low then none else some stuck)
        (if low then some stuck else none)
    if !(p.hsc || turnedOff) || s.tim.sfCount % 100 != (if low then 75 else 25) + pair.val || decide (s.age < p.onAt + 10 * ms) then s
    else if turnedOff then (s.inc (SO_DIAG_DISC pair)).event 0x0923 [pair, b2n low]
    else match offUs, onUs with
      | some a, some b =>
        if a ≤ 150 ∧ b ≤ 100 then
          let s := s.setSat (if low then SO_TP_LS_RESP pair else SO_TP_HS_RESP pair) a
          s.updSo pair fun p => if low then { p with lsStuck := none } else { p with hsStuck := none }
        else failed s (decide (150 < a))
      | some a, none => failed s (decide (150 < a))
      | none, _ => failed s true)

/-- SO_OVERCURRENT: both switches turn off, the output's stop line is asserted, and the output is held until a SERVICE
reset (R274). -/
def execSoOvercurrent (pair : Fin 8) (s : State) : Host.Outcome State Fault Refusal :=
  s.liveOn 1 (if (s.so pair).on then
    let s := ((s.pairOffNow pair).updSo pair fun p => { p with held := true }).event 0x0925 [pair]
    match s.outOfPair pair with
    | some j => (s.stopLines (s.outLinks j) j).safetyEnd j
    | none => s
  else s)

/-- SO_SUP_FAULT: SO_SUP in 0.1 V, outside 18 V to 32 V (R270, Table 10.9). -/
def execSoSupFault (dV : Nat) (s : State) : Host.Outcome State Fault Refusal :=
  s.liveOn 1 ((s.setSat SO_SUP_V dV).iff (!within dV 180 320) fun s => s.event 0x0924 [dV])

/-! ### The safety cycle (R223) -/

/-- SC's evaluation of one output from its measurements at the tick (Table 9.4). -/
def State.evalOut (s : State) (j : Nat) (m : IslIn) : State :=
  let o := s.io j
  let pBad := (s.t0 j).xfer && !(decide (1500 ≤ m.pilotMv ∧ m.pilotMv ≤ 7500))
  let unb := (m.vP + m.vN).natAbs * 100
  let aBad := decide (100000 ≤ m.vMv) && decide ((nth (0, 0, 0, 0) s.isl.thr j).2.2.1 * m.vMv.natAbs < unb)
  let oc := s.ocDemand j m.iMa
  let ov := s.ovDemand j m.vMv
  let pins := [s.ptRole j 0, s.ptRole j 1].filterMap id
  let tBad := pins.any fun t => decide (((nth (0, 0, 0, 0) s.isl.thr j).2.2.2 : Int) * 10 < t)
  let s := s.updIo j fun o =>
    { o with
      pilotRun := if pBad then o.pilotRun + 1 else 0, asymRun := if aBad then o.asymRun + 1 else 0
      tempRun := if tBad then o.tempRun + 1 else 0, asym := unb / max 1 m.vMv.natAbs, oc := oc, ov := ov }
  let s := (s.iff oc (·.tripNew j 1)).iff ov (·.tripNew j 2)
  let s := s.iff (pBad && decide (3 ≤ o.pilotRun)) (·.tripNew j 5)
  let s := s.iff (tBad && decide (2 ≤ o.tempRun)) (·.tripNew j 6)
  let s := s.iff (aBad && decide (10 ≤ o.asymRun)) (·.earthFault j)
  let failed := (nth SumRow.rest s.sh.t3 j).failed && s.pairCmd j
  s.iff (failed && !s.timing (.failStop j) && !(s.io j).stage2) (·.controlledStop j 12)

/-- The demand of an unlatched trip stands (functions 5 and 14 of Table 9.4). -/
def State.unlatchedDemand (s : State) (j : Nat) : Bool :=
  match (s.io j).unlatched with
  | 5 => (s.io j).pilotRun != 0
  | 14 => (idx 16).any fun i => s.fld (SP_OUT_0_LOCK_FB j) == i && s.sinRole i == 5 && ((s.sin i).dem || (s.sin i).gdem)
  | _ => false

/-- A controlled stop of an output is over once its pair is off and no session holds it; an unlatched trip clears with its
demand once the pair is off, E:0x0806 (DEDUCED, log entry 12). -/
def State.settle (s : State) (j : Nat) : State :=
  let s := s.iff ((s.io j).unlatched != 0 && !s.pairCmd j && !s.unlatchedDemand j) fun s =>
    (s.updIo j fun o => { o with unlatched := 0 }).event 0x0806 [j, (s.io j).unlatched]
  let idle := !s.pairCmd j && !closeSet (s.t0 j).sstate
  s.iff idle fun s =>
    s.iff ((s.io j).stopFn != 0 && (s.isl.afterStop == 0) && ((s.io j).stopFn != 13 || s.isl.permit)) fun s =>
      ((s.updIo j fun o => { o with stopFn := 0, stage2 := false }).stopTimer (.ctlStop j)).stopTimer (.failStop j)

/-- An output that failed and ramped down opens at 2 A, or after 10 ms (Table 9.5, function 12). -/
def State.failedOpen (s : State) (j : Nat) : State :=
  if s.timing (.failStop j) && s.pairCmd j && (decide ((s.fastI j).natAbs ≤ 2000) || s.due (.failStop j) (10 * ms)) then s.onPair j (·.pairOffNow ·) else s

/-- The SC's publication block (R19, R117, R246). -/
def State.scPublish (s : State) : State :=
  let s := s.each (idx s.nOuts) fun s j => s.setClamp j (s.clampNow j)
  s.updSh fun h =>
    { h with t5b := { h.t5b with
        published := true, cap := if s.isl.permit && !s.isl.safe then s.fld SP_G2_SCAP else 0
        deg := s.mode == 4, pDeg := s.fld SP_G1_P_DEG, clamps := (idx 8).map s.clampNow } }

/-- The status registers of Table 9.9 brought up to the Island's state. -/
def State.mirrorNow (s : State) : State :=
  let i := s.isl
  let mask (p : Nat → Bool) (n : Nat) : Nat := (idx n).foldl (fun a k => if p k then a + 2 ^ k else a) 0
  let s := ((s.setFld SI_STATUS_CAUSE i.cause).setFlag SI_STATUS_REG2 i.reg2).setFlag SI_STATUS_REG1 i.reg1
  let s := ((s.setFld SI_STATUS_DEGC i.degc).setFld SI_STATUS_ARCH (if i.conf then s.fld SP_G0_ARCH else 0)).setFlag
    SI_STATUS_CONF i.conf
  let s := (s.setFlag SI_STATUS_CAND (i.candStage != 0)).setFld SI_STATUS_ISTATE i.istate
  let s := ((s.setFld SI_CHK_CHK i.chk).setFld SI_CAND_CHK_CHK i.candChk).setSat SI_DEG_REM_REM (i.tRem / sec)
  let s := (s.setFld SI_SIN_A (mask (fun k => (s.sin k).a) 16)).setFld SI_SIN_B (mask (fun k => (s.sin k).b) 16)
  let s := (s.setFld SI_SIN_ST_DEM (mask (fun k => (s.sin k).dem) 16)).setFld SI_SIN_ST_DISC (mask (fun k => (s.sin k).fault) 16)
  let s := (s.setFld SI_SO_HSC (mask (fun k => (s.so k).hsc) 8)).setFld SI_SO_LSC (mask (fun k => (s.so k).lsc) 8)
  let s := s.setFld SI_SO_RB ((idx 8).foldl (fun a k => a + b2n (s.so k).hs * 4 ^ k + b2n (s.so k).ls * 2 * 4 ^ k) 0)
  let s := (s.setFlag SI_SITE_PERMIT i.permit).setSat SI_SITE_CAP s.sh.t5b.cap
  let s := (s.setFld SI_FAULT_COUNT i.faultCount).setFld SI_FAULT_CLASS i.faultClass
  let tested := (idx s.nOuts).filter fun j => (s.io j).latDone
  let oldest := tested.foldl (fun a j => max a (s.age - (s.io j).latAt)) 0
  let s := (s.setFld SI_LATENT_DEFER (mask (fun j => (s.io j).latDue && (s.t0 j).xfer) 8)).setSat SI_LATENT_AGE (oldest / sec)
  s.each (idx 8) fun s j =>
    let o := s.io j
    let s := ((s.setFld (SI_OSTAT_IMD j) o.imd).setFlag (SI_OSTAT_INJ j) o.inj).setFlag (SI_OSTAT_WELD j) o.weld
    let s := ((s.setFlag (SI_OSTAT_LATCH j) (!o.latched.isEmpty)).setFlag (SI_OSTAT_PAIR j) (s.pairCmd j)).setFld (SI_OSTAT_TRIP j) o.trip
    (s.setSat (SI_IMD_ASYM j) o.asym).setFld (SI_IMD_RF j) o.rf

/-- Registers of the status mirror. -/
def mirrorOffs : List Nat :=
  [R_SI_STATUS, R_SI_CHK, R_SI_CAND_CHK, R_SI_DEG_REM, R_SI_SIN, R_SI_SIN_ST, R_SI_SO, R_SI_SITE, R_SI_FAULT, R_SI_LATENT]
    ++ (idx 8).map R_SI_OSTAT ++ (idx 8).map R_SI_IMD

/-- The status mirror as an item of the SC's publication block (spec/01 R19). -/
def State.mirrorFill (s : State) : State :=
  let m := s.mirrorNow
  s.updSh fun h => { h with t5b := { h.t5b with mirror := mirrorOffs.map fun o => (o, m.reg o) } }

/-- The status mirror of BAR0 index 0x08 shows the front buffer of exchange table 5 (R224, R256). -/
def State.mirror (s : State) : State := s.each s.sh.t5.mirror fun s p => s.setReg p.1 p.2

/-- Sampling of every input at the tick, a low level in a pulse window left out: demand, disagreement, and the first condition of R231
(R229, R232). -/
def State.sampleAll (s : State) : State :=
  s.each (idx 16) fun s i =>
    if s.sinRole i = 0 then s
    else
      let t := s.sinType i
      let s := s.updSin i fun x =>
        { x with sa := x.a || (x.sa && s.inPulse i false), sb := x.b || (x.sb && s.inPulse i true) }
      let s := s.updSin i fun x =>
        let da := chanDem t false x.sa
        let db := if t = 2 then da else chanDem t true x.sb
        let both := x.both || (x.fault && da && db)
        { x with
          disFrom := if sinDisagree t x.sa x.sb then (match x.disFrom with | some n => some n | none => some s.tim.sfCount) else none
          both := both, cleared := x.cleared || (x.fault && both && !da && !db) }
      s.sampleSin i

/-- The SC's safety cycle (R223). -/
def State.safetyCycle (s : State) (m : List IslIn) : State :=
  if !s.coreRuns 0 then s
  else
    let s := s.sampleAll
    let s := s.each (idx 16) fun s i => s.iff ((s.sin i).dem && s.sinRole i != 0) (·.demandSin i)
    let perm := (idx 16).all fun i => s.sinRole i != 3 || !((s.sin i).dem || (s.sin i).gdem)
    let s := s.iff perm fun s => s.updIsl fun x => { x with permit := true }
    let stopped := (idx s.nLinks).filter fun n => (s.lk n).stopTold && (s.lk n).stopLine
    let s := s.iff (!stopped.isEmpty) fun s =>
      let js := (stopped.map s.stopReason).filter (· < 8)
      (s.iff (!s.isl.safe) fun s => s.each js fun s j => s.updIo j fun o =>
        { o with trip := 10, latched := if o.latched.contains 10 then o.latched else o.latched ++ [10] }).safeState 10 js
    let s := s.each ((idx s.nOuts).zip m) fun s p => s.evalOut p.1 p.2
    let s := (s.degCount).degradedTick
    let s := s.each (idx s.nOuts) (·.imdMark ·)
    let s := s.each (idx s.nOuts) fun s j => ((((s.contactor j).imdTick j).failedOpen j).settle j).latentTick j
    (s.afterStopTick).scPublish

end Sys2Proof.Machine
end

