-- ==== Sys2Proof/Machine/Metrology.lean ====
section
/-!
DEFINITION. Measurement and energy: the MC's arithmetic on the precision samples, substitution, no-load rules, feeds and
harmonic windows, spare rotation, offset capture and the snapshot (spec/07). Sums are exact integers over a common
denominator; energies are rounded once, to 2^−32 µWh, to nearest with ties to even (DESIGN CHOICE, log entry 32).
-/

namespace Sys2Proof.Machine

open Sys2Proof

/-- Integer square root, most significant bit first. -/
def isqrtBits : Nat → Nat → Nat → Nat
  | 0, _, r => r
  | b + 1, n, r => isqrtBits b n (if (r + 2 ^ b) * (r + 2 ^ b) ≤ n then r + 2 ^ b else r)

/-- The integer nearest to `√(n / d)`. -/
def roundSqrt (n d : Nat) : Nat :=
  if d = 0 then 0
  else
    let r := isqrtBits 64 (n / d) 0
    if (2 * r + 1) * (2 * r + 1) * d ≤ 4 * n then r + 1 else r

def State.updMet (s : State) (f : MetSt → MetSt) : State := { s with met := f s.met }

/-- The rotation of front end `e`, and changes of the parts. -/
def State.rot (s : State) (e : Nat) : RotSt := nth (RotSt.rest 2) s.met.rots e
def State.updMo (s : State) (j : Nat) (f : MetOut → MetOut) : State := s.updMet fun m => { m with outs := upd m.outs j f }
def State.updMf (s : State) (i : Nat) (f : MetFeed → MetFeed) : State := s.updMet fun m => { m with feeds := upd m.feeds i f }
def State.updRot (s : State) (e : Nat) (f : RotSt → RotSt) : State := s.updMet fun m => { m with rots := upd m.rots e f }

/-! ### Discarded samples (R166) -/

/-- First and last index of the run of discarded samples that holds sample `k`, in a span of `m` samples. -/
def runLo (d : List Nat) : Nat → Nat
  | 0 => 0
  | k + 1 => if d.contains k then runLo d k else k + 1
def runHi (d : List Nat) (m : Nat) : Nat → Nat → Nat
  | 0, k => k
  | n + 1, k => if d.contains (k + 1) && decide (k + 1 < m) then runHi d m n (k + 1) else k

/-- What lies around the samples of an SF: how many samples were discarded at the end of the SF before and at the start of the one
after. -/
structure Around where
  tail : Nat
  head : Nat
deriving DecidableEq, Repr

/-- Sample `k` in sixths: as it came, interpolated in a run of one or two, none in a longer run, whichever SFs the run lies in.
`last` is the valid sample before the SF and its discards, `after` the valid one that follows. -/
def fillAt (x : List Int) (d : List Nat) (w : Around) (last after : Int) (k : Nat) : Option Int :=
  if !d.contains k then some (6 * nth 0 x k)
  else
    let m := x.length
    let a := runLo d k
    let b := runHi d m m k
    let pre := if a = 0 then w.tail else 0
    let len := b + 1 - a + pre + (if b + 1 = m then w.head else 0)
    if 3 ≤ len then none
    else
      let lo : Int := (a : Int) - 1 - pre
      let l := if a = 0 then last else nth 0 x (a - 1)
      let r := if b + 1 = m then after else nth 0 x (b + 1)
      some (6 * l + (r - l) * 6 * ((k : Int) - lo) / ((len : Int) + 1))

/-- Discarded samples at the end of an SF. -/
def tailOf (d : List Nat) : Nat := if d.contains 31 then 32 - runLo d 31 else 0

/-- The last valid sample of an SF. -/
def lastValid (x : List Int) (d : List Nat) (old : Int) : Int :=
  (idx x.length).foldl (fun a k => if d.contains k then a else nth 0 x k) old

/-- Sum of a list of integers. -/
def sumI (l : List Int) : Int := l.foldl (· + ·) 0

/-- Samples held inside ±lim. -/
def clipAll (lim : Int) (l : List Int) : List Int := l.map (clampI (-lim) lim)

/-! ### Outputs (R171 to R174) -/

/-- Results of one SF of an output: current numerators over `den`, power numerators over `6 × 10^6 × den²`. -/
structure SfOut where
  v6 : List Int
  inum : List Int
  den : Int
  pnum : List Int
deriving DecidableEq, Repr

/-- Shunt factor over 10^16 at a temperature (R171). -/
def shuntK (m : MetOut) : Int :=
  10 ^ 16 + m.alpha * (m.tsh - m.tCal) * 10 ^ 5 + m.beta * (m.tsh - m.tCal) * (m.tsh - m.tCal)

/-- Samples of an offset capture: 64 SFs of 32 (R163). -/
def capN : Int := 2048

/-- Denominator of the current samples, in A. -/
def State.iDen (s : State) (j : Nat) : Int :=
  let rcal : Int := (s.fld (MET_RSH_RCAL j) : Nat)
  let d := if s.fld (MET_OCFG_SENSOR j) = 1 then capN * (6000 * rcal * shuntK (s.mo j)) else capN * 6000000
  if d ≤ 0 then 1 else d

/-- Numerator of a current sample: from the sensor input in sixths less the captured offset, or from the fast path in mA (R163,
R166, R171). -/
def State.iNum (s : State) (j : Nat) (u6 : Option Int) (fi : Int) : Int :=
  let rcal : Int := (s.fld (MET_RSH_RCAL j) : Nat)
  let off := (s.mo j).off
  match s.fld (MET_OCFG_SENSOR j), u6 with
  | 1, some u => if rcal = 0 then 0 else (capN * u - off) * 10000 * 10 ^ 16
  | 1, none => capN * (fi * 6 * rcal * shuntK (s.mo j))
  | 2, some u => rcal * (capN * u - off)
  | 2, none => capN * (fi * 6000)
  | _, _ => 0

/-- What the sensor input would read, in sixths and with its offset, at a fast-path current: what a substituted sample puts into the
mean that the offset capture forms (R163, R166). -/
def State.uOf (s : State) (j : Nat) (fi : Int) : Int :=
  let rcal : Int := (s.fld (MET_RSH_RCAL j) : Nat)
  let u := if s.fld (MET_OCFG_SENSOR j) = 1 then rneDiv (6 * fi * rcal * shuntK (s.mo j)) (10000 * 10 ^ 16)
    else if rcal = 0 then 0 else rneDiv (6000 * fi) rcal
  u + rneDiv (s.mo j).off capN

/-- Range of the sensor input: 100 mV in nV, or 2.5 A in µA (Table 7.1). -/
def State.uRange (s : State) (j : Nat) : Int := if s.fld (MET_OCFG_SENSOR j) = 2 then 2500000 else 100000000

/-- A substituted current stays inside the range of the sensor input (R161, R166). -/
def State.iSub (s : State) (j : Nat) (u6 : Option Int) (fi : Int) : Int :=
  let n := s.iNum j u6 fi
  match u6 with
  | some _ => n
  | none => clampI (s.iNum j (some (-6 * s.uRange j)) 0) (s.iNum j (some (6 * s.uRange j)) 0) n

/-- The sensor input's samples in sixths, clipped, with short runs of discards filled (R161, R166). -/
def State.uFill (s : State) (j : Nat) (x : MetOutIn) : List (Option Int) :=
  let m := s.mo j
  let u := clipAll (s.uRange j) x.u
  (idx u.length).map fun k => fillAt u m.disc ⟨m.tail, x.discAfter⟩ m.lastU (clampI (-s.uRange j) (s.uRange j) x.uAfter) k

/-- The samples of an output in an SF, or in the part of it that has run, turned into voltage, current and power (R166, R171). -/
def State.sfOut (s : State) (j : Nat) (x : MetOutIn) : SfOut :=
  let m := s.mo j
  let v := clipAll 1600000000 x.v
  let den := s.iDen j
  let rcab : Int := (s.fld (MET_OCFG_RCAB j) : Nat)
  let v6 := (idx v.length).map fun k => (fillAt v m.disc ⟨m.tail, x.discAfter⟩ m.lastV (clampI (-1600000000) 1600000000 x.vAfter) k).getD
    (6000 * clampI (-1600000) 1600000 (nth 0 x.fv k))
  let inum := (s.uFill j x).mapIdx fun k u => s.iSub j u (nth 0 x.fi k)
  { v6 := v6, inum := inum, den := den
    pnum := (v6.zip inum).map fun p => p.1 * p.2 * den - 6 * rcab * p.2 * p.2 }

/-- Denominator of a power. -/
def SfOut.pDen (r : SfOut) : Int := 6000000 * r.den * r.den

/-- Energy in 2^−32 µWh of a sum of power numerators over the 31.25 µs samples; 1 µWh = 3.6 mJ (R171, R172). -/
def SfOut.energy (r : SfOut) (p : Int) : Nat := (rneDiv (p * 5 * 2 ^ 32) (576 * r.pDen)).natAbs

/-- Import and export energy of the SF: NET_SF, or ABS sample by sample (R172). -/
def SfOut.energies (r : SfOut) (abs : Bool) : Nat × Nat :=
  if abs then (r.energy (sumI (r.pnum.filter (0 < ·))), r.energy (sumI (r.pnum.filter (· < 0))))
  else
    let p := sumI r.pnum
    if 0 < p then (r.energy p, 0) else (0, r.energy p)

/-- Sum of the squares of the current numerators. -/
def SfOut.sq (r : SfOut) : Nat := (sumI (r.inum.map fun x => x * x)).toNat

/-- I_rms below `quarters / 4` A: 0.25 A in no-load (R173, Table 7.4's rows "No-load" and "Start-up": from 0.25 A on, so at 0.5 A
at any voltage, an SF registers), 0.5 A in hold-up (R184). -/
def SfOut.rmsBelow (r : SfOut) (quarters : Nat) : Bool :=
  decide (16 * (r.sq : Int) < (r.inum.length : Int) * r.den * r.den * (quarters * quarters : Nat))

/-- Metrology front ends and the MC work (R13, R160). -/
def State.metOn (s : State) : Bool := s.pdGood 3 && s.coreRuns 2

/-- An event that comes at most once per 10 s. -/
def tenSec (now : Nat) : Option Nat → Bool
  | none => true
  | some t => decide (t + 10 * sec ≤ now)

/-- No-load in standard mode: nothing is added, and entry and exit are reported (R173; the rows "Start-up" and "No-load" of
Table 7.4, R180). -/
def State.noLoad (s : State) (j : Nat) (nl : Bool) : State :=
  let was := (s.mo j).noLoad
  let s := s.updMo j fun m => { m with noLoad := nl }
  if nl && !was && tenSec s.age (s.mo j).toldIn then (s.updMo j fun m => { m with toldIn := some s.age }).event 0x0608 [j]
  else if !nl && was && tenSec s.age (s.mo j).toldOut then (s.updMo j fun m => { m with toldOut := some s.age }).event 0x0609 [j]
  else s

/-- Legacy no-load mode: what the SF adds after the confirmation by ten SFs (R174). -/
def State.legacy (s : State) (j : Nat) (r : SfOut) (e : Nat × Nat) : State × Nat × Nat :=
  let m := s.mo j
  let p := (sumI r.pnum).natAbs
  let atLeast (w : Nat) : Bool := decide ((w : Int) * 32 * r.pDen ≤ p)
  if s.flag (MET_OSTAT_ACC j) then
    let n := if atLeast m.nlOff then 0 else m.nlRun + 1
    let stop := decide (10 ≤ n)
    ((s.updMo j fun m => { m with nlRun := if stop then 0 else n, pendImp := 0, pendExp := 0, noLoad := false }).setFlag
      (MET_OSTAT_ACC j) (!stop), e.1, e.2)
  else if atLeast m.nlOn then
    let i := m.pendImp + e.1
    let x := m.pendExp + e.2
    if 10 ≤ m.nlRun + 1 then
      ((s.updMo j fun m => { m with nlRun := 0, pendImp := 0, pendExp := 0, noLoad := false }).setFlag (MET_OSTAT_ACC j) true, i, x)
    else (s.updMo j fun m => { m with nlRun := m.nlRun + 1, pendImp := i, pendExp := x, noLoad := true }, 0, 0)
  else (s.updMo j fun m => { m with nlRun := 0, pendImp := 0, pendExp := 0, noLoad := true }, 0, 0)

/-- Reference monitor alarm of a front end (R170). -/
def RotSt.alarm (r : RotSt) : Bool := decide (100 < r.refDev.natAbs)

/-- Records of output `j` are out of conditions: shunt temperature, reference monitor, zone difference (R23, R170, R171). -/
def State.oocOut (s : State) (j : Nat) : Bool :=
  ((s.mo j).tshBad && s.fld (MET_OCFG_SENSOR j) == 1) || (s.rot j).alarm || s.flag GLB_STATUS_ZONE_DT || s.flag SUP_STAT_HOLDUP_LOW

/-- Flags of an output in exchange table 1 (Table 7.3a). -/
def State.outFlags (s : State) (j : Nat) : Nat :=
  let m := s.mo j
  b2n m.noLoad + 2 * b2n m.subst + 4 * b2n m.ovr + 8 * b2n (s.flag MET_STATUS_HOLDUP) + 16 * b2n (!(s.rot j).calchk.isEmpty) + 32 * b2n (s.flag (MET_OCFG_LEGACY j))
    + 64 * b2n m.ooc

/-- Sums of the last SF of an output, for exchange table 1 and, while no snapshot is held, for the registers (R179, R186). -/
def State.publishOut (s : State) (j : Nat) (r : SfOut) (valid : Bool) : State :=
  let p := sumI r.pnum
  let i := sumI r.inum
  let v := sumI r.v6
  let vMv := rneDiv v 192000
  let iMa := rneDiv (i * 1000) (32 * r.den)
  let row : MetRow :=
        { pMw := rneDiv (p * 1000) (32 * r.pDen), iMa := iMa, vMv := vMv, valid := valid, eImp := (s.mo j).sfImp, eExp := (s.mo j).sfExp
          iRms := roundSqrt (r.sq * 1000000) (32 * (r.den * r.den).toNat), pW := rneDiv p (32 * r.pDen), flags := s.outFlags j }
  let s := s.updSh fun h => { h with t1b := h.t1b.set j row }
  if s.met.snapHeld then s
  else
    let s := ((s.setFldS (MET_VSF_V j) vMv).setFldS (MET_ISF_I j) iMa).setFldS (MET_PSF_P j) (rneDiv p (32 * r.pDen))
    let m := s.mo j
    let s := (s.setFlag (MET_OSTAT_NOLOAD j) m.noLoad).setFlag (MET_OSTAT_SUBST j) m.subst
    let s := (s.setFlag (MET_OSTAT_OVR j) m.ovr).setFlag (MET_OSTAT_OOC j) m.ooc
    let s := s.setSat (MET_IRMS_IRMS j) (roundSqrt (r.sq * 1000000) (32 * (r.den * r.den).toNat))
    s.setFld (MET_TSH_TSH j) (if (s.mo j).tshBad then 0x8000 else enc 16 (satS 16 (s.mo j).tsh))

/-- The offset capture counts SFs with the pair open and the fast-path current within ±1 A (R163). `u6` are the samples of the
precision current channel, a substituted one as its current gives it. -/
def State.captureRun (s : State) (j : Nat) (u6 fi : List Int) : State :=
  let ok := !s.pairReads j && fi.all (fun x => decide (x.natAbs ≤ 1000)) && decide ((nth SumRow.rest s.sh.t3 j).iMin ≥ -1000 ∧ (nth SumRow.rest s.sh.t3 j).iMax ≤ 1000)
  s.updMo j fun m =>
    if !ok then { m with capRun := 0, capSum := 0 }
    else if m.capRun < 64 then { m with capRun := m.capRun + 1, capSum := m.capSum + sumI u6 }
    else m

/-- The MC's work for one output in an SF (R163 to R174, R184). -/
def State.meterOut (s : State) (j : Nat) (x : MetOutIn) : State :=
  let s := match x.tsh with
    | some t => s.updMo j fun m => { m with tsh := clampI (-4000) 15000 t, tshBad := false }
    | none =>
      let new := !(s.mo j).tshBad && s.fld (MET_OCFG_SENSOR j) == 1
      (s.updMo j fun m => { m with tshBad := true }).iff new fun s => s.event 0x0610 [j]
  let m := s.mo j
  let r := s.sfOut j x
  let us := s.uFill j x
  let long := us.any (·.isNone)
  let tOvr := s.fld (MET_OCFG_SENSOR j) == 1 && (match x.tsh with
    | some t => decide (t < -4000 ∨ 15000 < t)
    | none => false)
  let ovr := (x.v.any fun v => decide (1600000000 < v.natAbs)) || (x.u.any fun u => decide (s.uRange j < (u.natAbs : Int))) || tOvr
  let s := s.captureRun j (us.mapIdx fun k u => u.getD (clampI (-6 * s.uRange j) (6 * s.uRange j) (s.uOf j (nth 0 x.fi k)))) x.fi
  let s := s.iff long fun s => (s.inc (MET_ERR_SUBST j)).event 0x0606 [j]
  let s := s.iff ovr fun s => (s.inc (MET_ERR_OVR j)).event 0x0607 [j]
  let ooc := s.oocOut j
  let s := s.updMo j fun m => { m with subst := long, ovr := ovr, ooc := ooc }
  let e := r.energies (s.flag (MET_OCFG_ABS j))
  let p := if m.stopped then (s, 0, 0)
    else if s.flag (MET_OCFG_LEGACY j) then s.legacy j r e
    else if r.rmsBelow 1 then (s.noLoad j true, 0, 0) else (s.noLoad j false, e.1, e.2)
  let s := p.1
  let ei := p.2.1
  let ee := p.2.2
  let stop := s.flag MET_STATUS_HOLDUP && (r.rmsBelow 2 || !s.pairReads j)
  let s := s.updMo j fun m =>
    { m with
      imp := (m.imp + 2 ^ 128 - m.earlyImp + ei) % 2 ^ 128, exp := (m.exp + 2 ^ 128 - m.earlyExp + ee) % 2 ^ 128, sfImp := ei, sfExp := ee
      tail := (if (idx 32).all m.disc.contains then m.tail else 0) + tailOf m.disc, disc := []
      lastV := lastValid (clipAll 1600000000 x.v) m.disc m.lastV, lastU := lastValid (clipAll (s.uRange j) x.u) m.disc m.lastU, stopped := m.stopped || stop }
  (s.setFlag (MET_OSTAT_HOLDUP j) (m.stopped || stop)).publishOut j r (!long && !ovr)

/-- Energy of the part of the SF that has run, by the rules of the whole one (R183, R184). -/
def State.partOut (s : State) (j : Nat) (x : MetOutIn) : Nat × Nat :=
  let r := s.sfOut j x
  let e := r.energies (s.flag (MET_OCFG_ABS j))
  if (s.mo j).stopped || x.v.isEmpty then (0, 0)
  else if s.flag (MET_OCFG_LEGACY j) then (if s.flag (MET_OSTAT_ACC j) then e else (0, 0))
  else if r.rmsBelow 1 then (0, 0) else e

/-! ### Feeds (R175) -/

/-- In of a feed in A. -/
def State.feedIn (s : State) (f : Nat) : Nat := if s.flag (MET_FCFG_IN5 f) then 5 else 1

/-- Cycles of a window and of the frequency measurement. -/
def State.feedN (s : State) (f : Nat) : Nat := if s.flag (MET_FCFG_F60 f) then 12 else 10

/-- A rising zero crossing of L1 at `t` in the harmonic windows: the last one of a window closes it and opens the next (R176). No frequency is tracked before the first is
measured (R177). -/
def State.windowMark (s : State) (f : Nat) (t next freq : Nat) : State :=
  let n := s.feedN f
  let fs := if freq = 0 then [] else [freq]
  s.updMf f fun m =>
    let w := { m.win with marks := t :: m.win.marks, freqs := fs ++ m.win.freqs }
    let fresh : HarmWin := { HarmWin.rest with t0 := next, marks := [t], freqs := fs }
    if m.win.marks.isEmpty then { m with win := fresh }
    else if n < w.marks.length then { m with win := fresh, done := some w }
    else { m with win := w }

/-- A cycle of L1 completes at `t`, before the sample at `next`: RMS of every channel in 0.1 V and 0.1 A primary; frequency over the
last 10 or 12 cycles (R175). -/
def State.cycleDone (s : State) (f : Nat) (t next : Nat) : State :=
  let m := s.mf f
  let n := s.feedN f
  let cross := (t :: m.cross).take (n + 1)
  let vt := s.fld (MET_FCFG_VT_RATIO f)
  let ct := s.fld (MET_FCT_CT_RATIO f)
  let rms (c : Nat) : Nat :=
    if c < 4 then roundSqrt (nth 0 m.sumSq c * vt * vt) (36 * m.n * 10000) else roundSqrt (nth 0 m.sumSq c * ct * ct) (36 * m.n * 10 ^ 10)
  let s := if m.cross.isEmpty then s else s.updMf f fun m => { m with rms := (idx 8).map rms }
  let s := if cross.length = n + 1 ∧ nth 0 cross n < t then
      let fr := divRound ((n : Int) * 10 ^ 13) ((t - nth 0 cross n : Nat) : Int)
      let bad := decide (fr < 450000 ∨ 650000 < fr)
      let was := s.flag (MET_FSTAT_FTRACK f)
      let s := s.updMf f fun m => { m with freq := fr.toNat }
      (s.setFlag (MET_FSTAT_FTRACK f) bad).iff (bad && !was) fun s => s.event 0x060E [f]
    else s
  (s.updMf f fun m => { m with cross := cross, sumSq := List.replicate 8 0, n := 0 }).windowMark f t next (s.mf f).freq

/-- One sample of all channels, in sixths, at instant `t` ns. -/
def State.feedSample (s : State) (f : Nat) (x : List Int) (t : Nat) : State :=
  let v := nth 0 x 0
  let p := nth 0 (s.mf f).last 0
  let s := if p < 0 ∧ 0 ≤ v then s.cycleDone f (t - (v * 31250 / (v - p)).toNat) t else s
  s.updMf f fun m =>
    { m with
      sumSq := m.sumSq.mapIdx fun c a => a + (nth 0 x c * nth 0 x c).toNat, n := m.n + 1, last := x
      win := if m.win.marks.isEmpty then m.win else { m.win with ch := m.win.ch.mapIdx fun c l => nth 0 x c :: l } }

/-- Limits of a feed's channels in mV and µA (Table 7.1). -/
def State.feedLim (s : State) (f c : Nat) : Int := if c < 4 then 424264 else (2828427 * s.feedIn f : Nat)

/-- A feed's samples in sixths, clipped, with discards filled: by interpolation, else by the sample one cycle earlier (R161,
R166). -/
def State.feedFill (s : State) (f : Nat) (x : FeedIn) : List (List Int) :=
  let m := s.mf f
  (idx 8).map fun c =>
    let l := clipAll (s.feedLim f c) (nth [] x.ch c)
    (idx l.length).map fun k =>
      (fillAt l m.disc ⟨m.tail, x.discAfter⟩ (nth 0 m.lastOk c) (clampI (-s.feedLim f c) (s.feedLim f c) (nth 0 x.after c)) k).getD
        (6 * clampI (-s.feedLim f c) (s.feedLim f c) (nth 0 (nth [] x.cyc c) k))

/-- Power of phase `p` summed over the samples, in primary units: mV × µA × 36 (R175). -/
def State.phaseSum (s : State) (f p : Nat) (y : List (List Int)) : Int :=
  sumI (((nth [] y p).zip (nth [] y (4 + p))).map fun a => a.1 * a.2) * (s.fld (MET_FCFG_VT_RATIO f) : Nat)
    * (s.fld (MET_FCT_CT_RATIO f) : Nat)

/-- Import and export energy of a feed over the samples in 2^−32 µWh: NET_SF, with the no-load rule at 0.0005 In (R175). -/
def State.feedEnergies (s : State) (f : Nat) (y : List (List Int)) : Nat × Nat :=
  let tot := s.phaseSum f 0 y + s.phaseSum f 1 y + s.phaseSum f 2 y
  let inA := s.feedIn f
  let low := (idx 3).all fun p =>
    let l := nth [] y (4 + p)
    decide (sumI (l.map fun i => i * i) < 36 * (l.length : Int) * ((500 * inA) * (500 * inA) : Nat))
  let e := (rneDiv (tot * 5 * 2 ^ 32) (576 * 36000000000)).natAbs
  if low || (s.mf f).stopped then (0, 0) else if 0 < tot then (e, 0) else (0, e)

/-- Flags of a feed in exchange table 1: SUBST, OVR, RES_FAIL, FTRACK, OOC (Table 7.3a). -/
def State.oocFeed (s : State) (f : Nat) : Bool :=
  (s.rot (8 + f)).alarm || s.flag (MET_FSTAT_RES_FAIL f) || s.flag GLB_STATUS_ZONE_DT || s.flag SUP_STAT_HOLDUP_LOW
def State.feedFlags (s : State) (f : Nat) : Nat :=
  let m := s.mf f
  b2n m.subst + 2 * b2n m.ovr + 4 * b2n (s.flag (MET_FSTAT_RES_FAIL f)) + 8 * b2n (s.flag (MET_FSTAT_FTRACK f)) + 16 * b2n (s.oocFeed f)

/-- A feed's row of exchange table 1, and, while no snapshot is held, its registers. A window result is NEW in one SF (R179, R186). -/
def State.publishFeed (s : State) (f : Nat) (y : List (List Int)) : State :=
  let w (p : Int) : Int := rneDiv p (36 * 32 * 1000000000)
  let ph := (idx 3).map fun p => s.phaseSum f p y
  let m := s.mf f
  let row : FeedRow :=
        { p := w (sumI ph), ph := ph.map w, eImp := m.sfImp, eExp := m.sfExp, rms := m.rms, freq := m.freq, win := m.res
          flags := s.feedFlags f }
  let s := s.updSh fun h => { h with feedsb := h.feedsb.set f row }
  let s := s.updMf f fun m => { m with res := { m.res with new := false } }
  if s.met.snapHeld then s
  else
    let s := (s.setFldS (MET_FP_P f) (w (sumI ph))).each (idx 3) fun s p => s.setFldS (MET_FPP_P f p) (w (nth 0 ph p))
    let s := s.each (idx 4) fun s p => (s.setSat (MET_FV_V f p) (nth 0 m.rms p)).setSat (MET_FI_I f p) (nth 0 m.rms (4 + p))
    (s.setSat (MET_FFREQ_FREQ f) m.freq).setFlag (MET_FSTAT_OVR f) m.ovr

/-- The MC's work for one feed in an SF (R166, R175, R184). -/
def State.meterFeed (s : State) (f : Nat) (x : FeedIn) : State :=
  let m := s.mf f
  let y := s.feedFill f x
  let long := (idx 32).any fun k => (fillAt (nth [] x.ch 0) m.disc ⟨m.tail, x.discAfter⟩ 0 0 k).isNone
  let ovr := (idx 8).any fun c => (nth [] x.ch c).any fun v => decide (s.feedLim f c < (v.natAbs : Int))
  let s := s.iff ovr fun s => (s.inc (MET_FERR_OVR f)).event 0x0607 [8 + f]
  let s := s.iff long fun s => s.event 0x0606 [8 + f]
  let e := s.feedEnergies f y
  let start := s.age - ms
  let s := s.each (idx 32) fun s k => s.feedSample f (y.map fun c => nth 0 c k) (start + 31250 * k)
  (s.updMf f fun m =>
    { m with
      sfImp := e.1, sfExp := e.2
      imp := (m.imp + 2 ^ 128 - m.earlyImp + e.1) % 2 ^ 128, exp := (m.exp + 2 ^ 128 - m.earlyExp + e.2) % 2 ^ 128
      tail := (if (idx 32).all m.disc.contains then m.tail else 0) + tailOf m.disc, disc := [], subst := long, ovr := ovr
      lastOk := (idx 8).map fun c => lastValid (clipAll (s.feedLim f c) (nth [] x.ch c)) m.disc (nth 0 m.lastOk c) }).publishFeed f y

/-! ### Spare rotation (R167 to R170) -/

/-- Show an output's rotation in MET_ROTj. -/
def State.showRot (s : State) (e : Nat) : State :=
  if 8 ≤ e then s
  else
    let r := s.rot e
    let s := ((s.setFld (MET_ROT_STEP e) r.step).setFlag (MET_ROT_CALCHK e) (!r.calchk.isEmpty)).setFld (MET_ROT_TGT e) r.tgt
    ((s.setFld (MET_ROT_SPARE e) r.spare).setFld (MET_ROT_VCONV e) (nth 0 r.conv 0)).setFld (MET_ROT_ICONV e) (nth 0 r.conv 1)

/-- SFs of a rotation step (Table 7.3). -/
def rotSf : Nat → Nat
  | 1 => 32 | 2 => 64 | 3 => 68 | 4 => 1 | _ => 0

/-- Enter a step. -/
def State.rotStep (s : State) (e st : Nat) : State :=
  (s.updRot e fun r => { r with step := st, left := rotSf st, leftOut := [] }).showRot e

/-- Rotation may run: metrology on, no hold-up metering, not FROZEN (R169). -/
def State.rotMay (s : State) : Bool := s.metOn && !s.flag MET_STATUS_HOLDUP && s.mode != 6

/-- Abandon every rotation in progress, E:0x0614 with the front end and the spare (R169, R187). The count of failures begins
anew (DESIGN CHOICE, log entry 73). -/
def State.rotAbandon (s : State) : State :=
  s.each (idx 10) fun s e => s.iff ((s.rot e).step != 0) fun s =>
    (((s.rotStep e 0).updRot e fun r => { r with fails := 0 }).stopTimer (.rot e)).event 0x0614 [e, (s.rot e).spare]

/-- BENCH is entered; where that switches metrology off, rotation is abandoned (R169). -/
def State.enterBench (s : State) : State :=
  let on := s.pdOn 3
  let s := s.setMode 7
  s.iff (on && !s.pdOn 3) (·.rotAbandon)

/-- ROTATION_STEP_START: the GC starts a rotation, ROT_INT after the last switchover (R167, R168). -/
def execRotationStepStart (fe : Fin 10) (s : State) : Host.Outcome State Fault Refusal :=
  s.live (if (s.rot fe).step == 0 && s.rotMay && s.coreRuns 7
      && (!s.timing (.rot fe) || s.due (.rot fe) (s.fld MET_GCFG_ROT_INT * sec)) then
    (s.stopTimer (.rot fe)).rotStep fe 1
  else s)

/-- Full scale of a channel of a front end, in the units of `RotResult`. -/
def State.fullScale (s : State) (e tgt : Nat) : Int :=
  if e < 8 then (if tgt = 0 then 1600000000 else s.uRange e)
  else if tgt < 4 then 300000000 else (2000000 * s.feedIn (e - 8) : Nat)

/-- SHADOW's SFs that count in the comparison (R169), and the sums of the means of the spare and of the active converter over
them. -/
def State.shadowKept (s : State) (e : Nat) (r : RotResult) : List (Int × Int) :=
  ((idx 64).filter fun k => !(s.rot e).leftOut.contains k).map fun k => nth (0, 0) r.sf k
def State.shadowSums (s : State) (e : Nat) (r : RotResult) : Int × Int :=
  (sumI ((s.shadowKept e r).map (·.1)), sumI ((s.shadowKept e r).map (·.2)))

/-- The comparison of SHADOW passes: the means differ by no more than ±(50 ppm of reading + 10 ppm of full scale) (R167). -/
def State.shadowOk (s : State) (e : Nat) (r : RotResult) : Bool :=
  let m := s.shadowSums e r
  decide (((m.1 - m.2).natAbs * 1000000 : Nat) ≤
    (50 * m.2.natAbs : Nat) + 10 * s.fullScale e (s.rot e).tgt * (s.shadowKept e r).length)

/-- Next target of a front end. -/
def nextTgt (e t : Nat) : Nat := (t + 1) % (if e < 8 then 2 else 8)

/-- Reference monitor after a CAL_REF: alarm, flag and MET_REF (R170). -/
def State.refMonitor (s : State) (e : Nat) (ppm : Int) : State :=
  let was := (s.rot e).alarm
  let s := s.updRot e fun r => { r with refDev := ppm }
  let worst := (idx 10).foldl (fun a k => if (s.rot a).refDev.natAbs < (s.rot k).refDev.natAbs then k else a) 0
  let s := ((s.setFld MET_REF_FE worst).setFldS MET_REF_DEV (s.rot worst).refDev).setFlag MET_STATUS_REF_WARN
    ((idx 10).any fun k => (s.rot k).alarm)
  s.iff ((s.rot e).alarm && !was) fun s => s.event 0x0612 [e]

/-- ROTATION_STEP_END: the step's SFs have run and the GC moves the rotation on; the exchange of SWITCH was made at the SF tick
(R167 to R170). Events of rotation carry the front end, the converter and the target (R187). -/
def execRotationStepEnd (fe : Fin 10) (res : RotResult) (s : State) : Host.Outcome State Fault Refusal :=
  s.live (
    let e := fe.val
    let r := s.rot e
    if r.left ≠ 0 || !s.rotMay || !s.coreRuns 7 then s
    else match r.step with
    | 1 => (s.updRot e fun r => { r with zero := r.zero.set r.spare res.meas }).rotStep e 2
    | 2 => ((s.updRot e fun r => { r with gain := r.gain.set r.spare res.meas }).refMonitor e res.refPpm).rotStep e 3
    | 3 =>
      let m := s.shadowSums e res
      let d := m.1 - m.2
      let base := if m.2 = 0 then s.fullScale e r.tgt * (s.shadowKept e res).length else (m.2.natAbs : Int)
      let s := s.iff (decide (e < 8)) fun s => s.setFldS (MET_ROT_DEV e) (divRound (d * 10000000) base)
      if s.shadowOk e res then
        let had := r.calchk.contains r.tgt
        let s := s.updRot e fun r => { r with fails := 0, calchk := r.calchk.filter (· != r.tgt) }
        (s.iff had fun s => s.event 0x0604 [e, r.spare, r.tgt]).rotStep e 4
      else
        let s := s.iff (decide (e < 8)) fun s => s.inc (MET_ERR_ROTF e)
        if r.fails = 0 then ((s.updRot e fun r => { r with fails := 1 }).event 0x0602 [e, r.spare, r.tgt]).rotStep e 1
        else
          let s := s.updRot e fun r =>
            { r with fails := 0, tgt := nextTgt e r.tgt
                     calchk := if r.calchk.contains r.tgt then r.calchk else r.calchk ++ [r.tgt] }
          (s.event 0x0603 [e, r.spare, r.tgt]).rotStep e 1
    | 4 => (((s.updRot e fun r => { r with tgt := nextTgt e r.tgt }).event 0x0601 [e, nth 0 r.conv r.tgt, r.tgt]).rotStep e 0).iff
        (!s.timing (.rot e)) (·.startTimer (.rot e))
    | _ => s)

/-- The exchange of SWITCH: the spare becomes the target channel's converter; ROT_INT runs from here (R167, R168). -/
def State.rotExchange (s : State) (e : Nat) : State :=
  ((s.updRot e fun r => { r with conv := r.conv.set r.tgt r.spare, spare := nth 0 r.conv r.tgt }).showRot e).startTimer (.rot e)

/-- Rotation at an SF tick: the step's SFs run, an SF of SHADOW with a discard is left out, or SHADOW restarts, and the SF of SWITCH
ends with the exchange (R167 to R169). -/
def State.rotTick (s : State) (e : Nat) (disc : Bool) : State :=
  let r := s.rot e
  if r.step = 0 then s
  else
    let out := if disc && r.step == 3 && decide (1 ≤ r.left ∧ r.left ≤ 64) then (64 - r.left) :: r.leftOut else r.leftOut
    if r.step = 3 ∧ 8 < out.length then s.rotStep e 3
    else (s.updRot e fun r => { r with left := r.left - 1, leftOut := out }).iff (r.step == 4 && r.left == 1) (·.rotExchange e)

/-! ### The SF of the MC (R179, R182, R184, R186) -/

/-- An SF without metering: nothing is left to add to an early commit, an offset capture is interrupted (R163), and the feeds' cycles and windows begin anew. -/
def State.metIdle (s : State) : State :=
  s.updMet fun m =>
    { m with
      outs := m.outs.map fun o => { o with capRun := 0, capSum := 0, earlyImp := 0, earlyExp := 0, sfImp := 0, sfExp := 0 }
      feeds := m.feeds.map fun f =>
        { f with earlyImp := 0, earlyExp := 0, sfImp := 0, sfExp := 0, cross := [], win := HarmWin.rest, done := none } }

/-- Metering of the ending SF. -/
def State.metTick (s : State) (outs : List MetOutIn) (feeds : List FeedIn) : State :=
  if !s.metOn then s.metIdle
  else
    let s := s.each (idx 10) fun s e =>
      s.rotTick e (!(if e < 8 then (s.mo e).disc else (s.mf (e - 8)).disc).isEmpty)
    let s := s.each ((idx s.nOuts).zip outs) fun s p => s.meterOut p.1 p.2
    let s := s.each ((idx 2).zip feeds) fun s p => s.meterFeed p.1 p.2
    let all := s.flag MET_STATUS_HOLDUP && (idx s.nOuts).all fun j => (s.mo j).stopped
    let s := s.iff all fun s => (idx 2).foldl (fun s f =>
      (s.updMf f fun m => { m with stopped := true }).setFlag (MET_FSTAT_HOLDUP f) true) s
    let hold := s.met.snapPend
    let s := s.updMet fun m => { m with snapPend := false, snapHeld := m.snapHeld || hold, told605 := [] }
    s.iff hold fun s => s.setFlag MET_SNAP_SNAP true

/-- The SC's path comparison over tables 1 and 3 as they stand at the tick; an SF flagged SUBST or OVR is not compared
(R17, R182). -/
def State.pathCompare (s : State) : State :=
  s.each (idx s.nOuts) fun s j =>
    let p := nth MetRow.rest s.sh.t1 j
    let f := nth SumRow.rest s.sh.t3 j
    let bad (a b tol : Int) : Bool := decide ((a.natAbs : Int) + 200 * tol < 200 * ((a - b).natAbs : Int))
    let d := bad p.iMa f.iMa 2000 || bad p.vMv f.vMv 1000
    s.iff (s.sh.fresh1 && nth false s.sh.fresh3 (s.outCe j) && p.valid && decide (0 < f.n)) fun s => s.updIo j fun o => { o with pathRun := if d then o.pathRun + 1 else 0 }

/-- OFFSET_CAPTURE: 64 SFs with the pair open and near-zero current give a new offset; beyond ±2 A it is refused,
E:0x0611 (R163). -/
def execOffsetCapture (out : Fin 8) (s : State) : Host.Outcome State Fault Refusal :=
  s.live (
    let j := out.val
    let m := s.mo j
    if m.capRun < 64 then s
    else
      let t := s.updMo j fun m => { m with capRun := 0, capSum := 0 }
      let rcal : Int := (s.fld (MET_RSH_RCAL j) : Nat)
      let n6 : Int := 6 * 32 * 64
      let far := if s.fld (MET_OCFG_SENSOR j) = 2
        then decide (2 * 1000000 * n6 < (m.capSum * rcal).natAbs)
        else decide (2 * rcal * shuntK m * n6 < (m.capSum * 10 * 10 ^ 16).natAbs)
      if far then t.event 0x0611 [j]
      else (t.updMo j fun x => { x with off := m.capSum }).setFldS (MET_TSH_OFFS j) (rneDiv m.capSum (n6 * 10)))

/-- MET_SNAP: the data registers are held at the next publication (R186). -/
def State.metSnap (s : State) : State := if s.met.snapHeld then s else s.updMet fun m => { m with snapPend := true }

def execMetSnap (s : State) : Host.Outcome State Fault Refusal := s.live s.metSnap

/-- MET_SNAP_RELEASE (R186). -/
def State.metSnapRel (s : State) : State :=
  (s.updMet fun m => { m with snapPend := false, snapHeld := false }).setFlag MET_SNAP_SNAP false

def execMetSnapRelease (s : State) : Host.Outcome State Fault Refusal := s.live s.metSnapRel

/-! ### Harmonics (R176 to R178, R122) -/

/-- π over 2^−64. -/
def piFix : Int := 57952155664616982739

/-- Terms of the power series of a cosine or sine in 2^−64, from the term `t` of order `i` on, `q` the square of the angle. -/
def trigSum (q : Int) : Nat → Int → Int → Int
  | 0, _, _ => 0
  | n + 1, i, t => t + trigSum q n (i + 2) (-(t * q) / ((i + 1) * (i + 2) * 2 ^ 64))

/-- Cosine and sine of `2π k / m` in 2^−64 (DESIGN CHOICE of the precision, log entry 62). -/
def cosFix (m k : Nat) : Int :=
  let a := 2 * piFix * (k % m : Nat) / m
  trigSum (a * a / 2 ^ 64) 32 0 (2 ^ 64)
def sinFix (m k : Nat) : Int :=
  let a := 2 * piFix * (k % m : Nat) / m
  trigSum (a * a / 2 ^ 64) 32 1 a

/-- Squared magnitude, over 2^128, of bin `k` of the DFT of a list of samples (R176). -/
def dftSq (x : List Int) (k : Nat) : Nat :=
  let m := x.length
  let part (g : Nat → Nat → Int) : Int := sumI (x.mapIdx fun n v => v * g m (k * n))
  (part cosFix * part cosFix + part sinFix * part sinFix).toNat

/-- Twice the square of harmonic group `h`, of squared bins at 1/N of the fundamental (R176). -/
def group2 (sq : Nat → Nat) (n h : Nat) : Nat :=
  sq (h * n - n / 2) + sq (h * n + n / 2) + 2 * ((idx (n - 1)).foldl (fun a k => a + sq (h * n - n / 2 + 1 + k)) 0)

/-- Samples per cycle after the resampling (R176). -/
def perCycle : Nat := 256

/-- Twice the squares of groups 1 to 63 of a channel of a window over `N` cycles, in mV² or mA² primary over `groupDen`. The square
of a bin's RMS is twice its squared magnitude over the square of the sample count (R176). -/
def HarmWin.groups (w : HarmWin) (n c ratio : Nat) : List Nat :=
  let x := Config.resample (nth [] w.ch c).reverse w.t0 (w.marks.getLastD 0) (w.marks.headD 0) (perCycle * n)
  let bins := (idx (63 * n + n / 2 + 1)).map (dftSq x)
  (idx 64).map fun h => if h = 0 then 0 else 2 * ratio * ratio * group2 (nth 0 bins) n h
def groupDen (n c : Nat) : Nat := (perCycle * n) ^ 2 * 36 * 2 ^ 128 * (if c < 4 then 1 else 10 ^ 6)

/-- Sum of the squares of a channel's samples in a window from instant `a` on and before `b`, and how many there are. -/
def HarmWin.sumSq (w : HarmWin) (c a b : Nat) : Nat × Nat :=
  let l := (nth [] w.ch c).reverse
  ((idx l.length).filter fun k => decide (a ≤ w.t0 + 31250 * k ∧ w.t0 + 31250 * k < b)).foldl
    (fun p k => (p.1 + (nth 0 l k * nth 0 l k).toNat, p.2 + 1)) (0, 0)

/-- Half cycles of a window, as pairs of instants: those of L1's cycles for every phase (log entry 62). -/
def HarmWin.halves (w : HarmWin) : List (Nat × Nat) :=
  let ts := w.marks.reverse
  (ts.zip (ts.drop 1)).flatMap fun p => [(p.1, (p.1 + p.2) / 2), ((p.1 + p.2) / 2, p.2)]

/-- A half-cycle RMS of a phase voltage differs by more than 5 % from the RMS of the window's first cycle (R177). -/
def HarmWin.dips (w : HarmWin) : Bool :=
  let ts := w.marks.reverse
  (idx 3).any fun c =>
    let f := w.sumSq c (nth 0 ts 0) (nth 0 ts 1)
    w.halves.any fun p =>
      let h := w.sumSq c p.1 p.2
      decide (11025 * f.1 * h.2 < 10000 * h.1 * f.2 ∨ 10000 * h.1 * f.2 < 9025 * f.1 * h.2)

/-- Frequency tracking moved by more than 0.5 Hz within the window (R177). -/
def HarmWin.moved (w : HarmWin) : Bool :=
  decide (w.freqs.foldl min (w.freqs.headD 0) + 5000 < w.freqs.foldl max 0)

/-- The window is flagged TRANSIENT (R177). -/
def HarmWin.transient (w : HarmWin) : Bool := w.dips || w.moved

/-- The residual of a window, the RMS of i1 + i2 + i3 + iN, exceeds 2 % of In, `inA` in A (R178). -/
def HarmWin.residual (w : HarmWin) (inA : Nat) : Bool :=
  let n := (nth [] w.ch 4).length
  let sum (k : Nat) : Int := (idx 4).foldl (fun a c => a + nth 0 (nth [] w.ch (4 + c)) k) 0
  decide (36 * (n : Int) * ((20000 * inA) * (20000 * inA) : Nat) < sumI ((idx n).map fun k => sum k * sum k))

/-- Orders `a` to `b`. -/
def orders (a b : Nat) : List Nat := (idx (b + 1 - a)).map (· + a)

/-- Sum of a channel's groups of orders 2 to 63, as `groups` gives them. -/
def distortion (g : List Nat) : Nat := (orders 2 63).foldl (fun b h => b + nth 0 g h) 0

/-- The largest of a channel's groups of orders `a` to `b`. -/
def largest (g : List Nat) (a b : Nat) : Nat := (orders a b).foldl (fun m h => max m (nth 0 g h)) 0

/-- TDD², largest low-order and largest high-order group² of the worst phase, each doubled and over the currents' denominator (R122,
R176). -/
def worstPhase (g : List (List Nat)) : Nat × Nat × Nat :=
  let ph := (idx 3).map fun p => nth [] g (4 + p)
  let top (f : List Nat → Nat) : Nat := ph.foldl (fun a c => max a (f c)) 0
  (top distortion, top (largest · 2 11), top (largest · 12 63))

/-- Verdict of R122 on a window: 1 exceeded, 2 clear, 3 otherwise; `d` is the currents' denominator. -/
def State.harmVerdict (s : State) (f : Nat) (w : Nat × Nat × Nat) (d : Nat) : Nat :=
  let ir := s.fld (FEED_HCTL_IR f)
  let above (x lim : Nat) : Bool := decide (2 * (lim * ir) * (lim * ir) * d < x)
  let low (x lim : Nat) : Bool := decide (100 * x ≤ 162 * (lim * ir) * (lim * ir) * d)
  let ls := [(w.1, s.fld (FEED_HARM_TDD_LIM f)), (w.2.1, s.fld (FEED_HARM_LOW_LIM f)), (w.2.2, s.fld (FEED_HARM_HIGH_LIM f))]
  if ls.any fun p => above p.1 p.2 then 1 else if ls.all fun p => low p.1 p.2 then 2 else 3

/-- The selected group of the last window (Table 7.13); order 0 reads as 1. -/
def State.fhRefresh (s : State) (f : Nat) : State :=
  let o := if s.fld (MET_FHSEL_ORDER f) = 0 then 1 else s.fld (MET_FHSEL_ORDER f)
  let c := s.fld (MET_FHSEL_CH f)
  s.setSat (MET_FHVAL_G f) (roundSqrt (nth 0 (nth [] (s.mf f).groups c) o) (2 * nth 1 (s.mf f).gDen c))

/-- The result of a window: groups, TDD and THD, the TRANSIENT flag with its event, and the row of exchange table 1 (R176, R177,
R179). -/
def State.windowResult (s : State) (f : Nat) (w : HarmWin) : State :=
  let n := s.feedN f
  let g := (idx 8).map fun c => w.groups n c (if c < 4 then s.fld (MET_FCFG_VT_RATIO f) else s.fld (MET_FCT_CT_RATIO f))
  let d := groupDen n 4
  let ir := s.fld (FEED_HCTL_IR f)
  let p := worstPhase g
  let pct (x : Nat) : Nat := roundSqrt x (2 * ir * ir * d)
  let thd := (idx 4).foldl (fun a c => max a (roundSqrt (distortion (nth [] g c) * 1000000) (nth 0 (nth [] g c) 1))) 0
  let trans := w.transient
  let v := if trans || ir == 0 then 3 else s.harmVerdict f p d
  let s := s.updMf f fun m =>
    { m with
      groups := g, gDen := (idx 8).map (groupDen n)
      res := { new := true, no := m.res.no + 1, trans := trans, tdd := pct p.1, low := pct p.2.1, high := pct p.2.2, verdict := v } }
  let s := (s.setSat (MET_FHW_TDD f) (pct p.1)).setSat (MET_FHW_THDV f) thd
  let s := ((s.setFlag (MET_FHW_TRANSIENT f) trans).setFlag (MET_FHW_VALID f) true).fhRefresh f
  s.iff trans fun s => (s.inc (MET_FERR_TRANS f)).event 0x060D [f]

/-- The residual check of a window where a neutral CT is fitted (R178). -/
def State.residualCheck (s : State) (f : Nat) (w : HarmWin) : State :=
  let bad := s.flag (MET_FCFG_NCT f) && w.residual (s.feedIn f)
  let was := s.flag (MET_FSTAT_RES_FAIL f)
  (s.setFlag (MET_FSTAT_RES_FAIL f) bad).iff bad fun s => (s.inc (MET_FERR_RES f)).iff (!was) fun s => s.event 0x060F [f]

/-- HARMONIC_WINDOW_END: a window of the feed has completed and is evaluated; outside the tracking range it gives no result (R176 to
R178). -/
def execHarmonicWindowEnd (feed : Fin 2) (s : State) : Host.Outcome State Fault Refusal :=
  s.live (
    let f := feed.val
    match (s.mf f).done with
    | none => s
    | some w =>
      if !s.metOn || (s.mf f).stopped then s
      else
        let s := s.updMf f fun m => { m with done := none }
        if s.flag (MET_FSTAT_FTRACK f) then s else (s.windowResult f w).residualCheck f w)

/-- A precision transfer of front end `e` is discarded: counted, E:0x0605 at most once per SF and front end (R23, R166). -/
def State.precDiscard (s : State) (e k : Nat) : State :=
  let s := if e < 8 then (s.inc (MET_ERR_DISC e)).updMo e fun m => { m with disc := if m.disc.contains k then m.disc else m.disc ++ [k] }
    else (s.inc (MET_FERR_DISC (e - 8))).updMf (e - 8) fun m =>
      { m with disc := if m.disc.contains k then m.disc else m.disc ++ [k] }
  s.iff (!s.met.told605.contains e) fun s =>
    (s.updMet fun m => { m with told605 := m.told605 ++ [e] }).event 0x0605 [e]

end Sys2Proof.Machine
end

