-- ==== Sys2Proof/Machine/Cipher.lean ====
section
/-!
DEFINITION. The block cipher of the token engine and of the lid tag: AES of FIPS 197, CBC mode over it (spec/12 R307), and FF1 of
NIST SP 800-38G (spec/08 R214). The spec names these standards; their content is PRESUMED (log entry 75). Bytes are numbers below 256.
-/

namespace Sys2Proof.Machine

open Sys2Proof

/-- The byte substitution of AES, byte `x` at bits 8x, in rows of 32; and its inverse. -/
def sboxRows : List Nat :=
  [ 0xC072A49CAFA2D4ADF04759FA7DC982CA76ABD7FE2B670130C56F6BF27B777C63
  , 0x75B227EBE28012079A059618C323C7041531D871F1E5A534CCF73F362693FDB7
  , 0xCF584C4A39BECB6A5BB1FC20ED00D153842FE329B3D63B52A05A6E1B1A2C8309
  , 0xD2F3FF1021DAB6BCF5389D928F40A351A89F3C507F02F94585334D43FBAAEFD0
  , 0xDB0B5EDE14B8EE4688902A22DC4F816073195D643D7EA7C41744975FEC130CCD
  , 0x08AE7A65EAF4566CA94ED58D6D37C8E779E4959162ACD3C25C2406490A3A32E0
  , 0x9E1DC186B95735610EF6034866B53E708A8BBD4B1F74DDE8C6B4A61C2E2578BA
  , 0x16BB54B00F2D99416842E6BF0D89A18CDF2855CEE9871E9B948ED9691198F8E1 ]
def sboxInvRows : List Nat :=
  [ 0xCBE9DEC444438E3487FF2F9B8239E37CFBD7F3819EA340BF38A53630D56A0952
  , 0x25D18B6D49A25B76B224D92866A12E084EC3FA420B954CEE3D23C2A632947B54
  , 0x849D8DA75746155EDAB9EDFD5048706C92B6655DCC5CA4D41698688664F6F872
  , 0x6B8A130103BDAFC1020F3FCA8F1E2CD00645B3B80558E4F70AD3BC8C00ABD890
  , 0x6EDF751CE837F9E28535ADE72274AC9673E6B4F0CECFF297EADC674F4111913A
  , 0xF45ACD78FEC0DB9A2079D2C64B3E56FC1BBE18AA0E62B76F89C5291D711AF147
  , 0xEF9CC9939F7AE52D0D4AB519A97F51605FEC8027591012B131C7078833A8DD1F
  , 0x7D0C2155631469E126D677BA7E042B17619953833CBBEBC8B0F52AAE4D3BE0A0 ]
def lookup (rows : List Nat) (x : Nat) : Nat := nth 0 rows (x / 32) / 2 ^ (8 * (x % 32)) % 256

/-- Product in the field of AES, of which `b` takes `n` bits. -/
def gmul : Nat → Nat → Nat → Nat
  | 0, _, _ => 0
  | n + 1, a, b =>
    let r := gmul n (if 128 ≤ a then (2 * a) ^^^ 0x11B else 2 * a) (b / 2)
    if b % 2 = 1 then a ^^^ r else r

def xorBytes (a b : List Nat) : List Nat := List.zipWith (· ^^^ ·) a b

/-- The four-byte words of the key schedule, from the key's own words on. -/
def aesWords (key : List Nat) : List (List Nat) :=
  let nk := key.length / 4
  let first := (idx nk).map fun i => (key.drop (4 * i)).take 4
  (idx (4 * (nk + 7) - nk)).foldl (fun w k =>
    let i := nk + k
    let last := nth [] w (i - 1)
    let t := if i % nk = 0 then
        xorBytes ((last.drop 1 ++ last.take 1).map (lookup sboxRows)) [(idx (i / nk - 1)).foldl (fun a _ => gmul 2 a 2) 1, 0, 0, 0]
      else if 6 < nk ∧ i % nk = 4 then last.map (lookup sboxRows) else last
    w ++ [xorBytes (nth [] w (i - nk)) t]) first

/-- Round keys of 16 bytes. -/
def aesKeys (key : List Nat) : List (List Nat) :=
  let w := aesWords key
  (idx (key.length / 4 + 7)).map fun r => ((w.drop (4 * r)).take 4).flatten

/-- The bytes of a block by column, with row `r` turned by `sh r` columns. -/
def turnRows (sh : Nat → Nat) (b : List Nat) : List Nat := (idx 16).map fun i => nth 0 b (4 * ((i / 4 + sh (i % 4)) % 4) + i % 4)

/-- Each column times a circulant matrix whose first row is `m`. -/
def mixCols (m b : List Nat) : List Nat :=
  (idx 16).map fun i => (idx 4).foldl (fun a k => a ^^^ gmul 8 (nth 0 b (4 * (i / 4) + k)) (nth 0 m ((k + 4 - i % 4) % 4))) 0

/-- AES of one block under round keys, and its inverse. -/
def aesEnc (ks : List (List Nat)) (blk : List Nat) : List Nat :=
  let n := ks.length - 1
  let sub (b : List Nat) : List Nat := turnRows id (b.map (lookup sboxRows))
  let b := (idx (n - 1)).foldl (fun b r => xorBytes (mixCols [2, 3, 1, 1] (sub b)) (nth [] ks (r + 1))) (xorBytes blk (nth [] ks 0))
  xorBytes (sub b) (nth [] ks n)
def aesDec (ks : List (List Nat)) (blk : List Nat) : List Nat :=
  let n := ks.length - 1
  let sub (b : List Nat) : List Nat := (turnRows (4 - ·) b).map (lookup sboxInvRows)
  let b := (idx (n - 1)).foldl (fun b r => mixCols [14, 11, 13, 9] (xorBytes (sub b) (nth [] ks (n - 1 - r)))) (xorBytes blk (nth [] ks n))
  xorBytes (sub b) (nth [] ks 0)

/-- A message in blocks of 16 bytes. -/
def blocks16 (msg : List Byte) : List (List Nat) :=
  (idx (msg.length / 16)).map fun k => ((msg.drop (16 * k)).take 16).map (·.toNat)
def toBytes (l : List Nat) : List Byte := l.map (BitVec.ofNat 8)

/-- CBC mode with a zero IV under a key, and its inverse (spec/12 R307). -/
def cbcChain (ks : List (List Nat)) (blks : List (List Nat)) : List (List Nat) :=
  (blks.foldl (fun (acc : List (List Nat) × List Nat) b =>
    let c := aesEnc ks (xorBytes b acc.2)
    (acc.1 ++ [c], c)) ([], List.replicate 16 0)).1
def aesCbc (key msg : List Byte) : List Byte := toBytes (cbcChain (aesKeys (key.map (·.toNat))) (blocks16 msg)).flatten
def aesCbcInv (key msg : List Byte) : List Byte :=
  let ks := aesKeys (key.map (·.toNat))
  let bs := blocks16 msg
  toBytes (List.zipWith (fun b p => xorBytes (aesDec ks b) p) bs (List.replicate 16 0 :: bs)).flatten

/-- FF1 decryption of a 64-bit message, radix 2: ten Feistel rounds over halves of 32 bits (spec/08 R214). -/
def ff1Decrypt (key tweak : List Byte) (c : Nat) : Nat :=
  let ks := aesKeys (key.map (·.toNat))
  let t := tweak.length
  let p : List Byte := [1, 2, 1, 0, 0, 2, 10, 32] ++ (toLE 4 64).reverse ++ (toLE 4 t).reverse
  let r := (idx 10).foldl (fun (x : Nat × Nat) k =>
    let q := tweak ++ List.replicate ((11 + 15 * t) % 16) 0 ++ toLE 1 (9 - k) ++ (toLE 4 x.1).reverse
    let y := ((cbcChain ks (blocks16 (p ++ q))).getLastD []).take 8 |>.foldl (fun a b => a * 256 + b) 0
    ((x.2 + 2 ^ 32 - y % 2 ^ 32) % 2 ^ 32, x.1)) (c / 2 ^ 32 % 2 ^ 32, c % 2 ^ 32)
  r.1 * 2 ^ 32 + r.2

end Sys2Proof.Machine
end

