-- ==== Sys2Proof/Machine/Keys.lean ====
section
/-!
DEFINITION. Key slots and role sessions as the other subjects use them (spec/15 R356 to R362).
-/

namespace Sys2Proof.Machine

open Sys2Proof

/-! ### Key slots -/

def State.updKeys (s : State) (f : KeySt → KeySt) : State := { s with keys := f s.keys }

/-- Key slot `k`. -/
def State.slot (s : State) (k : Nat) : KeySlot := Sparse.get KeySlot.empty s.keys.slots k

/-- Replace key slot `k`. -/
def State.setSlot (s : State) (k : Nat) (x : KeySlot) : State :=
  s.updKeys fun q => { q with slots := Sparse.put KeySlot.empty k x q.slots }

/-- The copy that the selector names, and the other one (R356). -/
def KeySlot.now (k : KeySlot) : KeyCopy := if k.selB then k.b else k.a
def KeySlot.spare (k : KeySlot) : KeyCopy := if k.selB then k.a else k.b

/-- Write the unselected copy (R360). -/
def KeySlot.writeSpare (k : KeySlot) (c : KeyCopy) : KeySlot :=
  { k with a := if k.selB then c else k.a, b := if k.selB then k.b else c, flip := true }

/-- Destination engines (Table 15.3). -/
def engSig : Nat := 0
def engVerify : Nat := 1
def engTok : Nat := 2
def engTls (vc : Nat) : Nat := 3 + vc
def engWrap : Nat := 5
def engTag : Nat := 6

/-- The key in force of slot `k` for a job of engine `e`; none for an empty slot or one whose mask leaves the engine out
(R358). -/
def State.keyFor (s : State) (k e : Nat) : Option KeyCopy :=
  let c := (s.slot k).now
  if c.alg ≠ 0 ∧ bit c.mask e then some c else none

/-- A job that names a slot outside the mask is refused: E:0x0E11 (R358). -/
def State.jobRefused (s : State) (k : Nat) : State := s.event 0x0E11 [k]

/-- KEY_ID of a copy in slot `k` (Table 15.2). -/
def keyId (k : Nat) (c : KeyCopy) : Nat :=
  if c.alg = 0 then 0
  else if c.alg = 5 ∨ c.alg = 6 then leNat (Config.shake256 (toLE 1 k ++ toLE 4 c.ver) 4)
  else leNat (Config.shake256 (if c.pub then c.key else Config.publicOf c.alg c.key) 4)

/-- The module serial as 8 bytes. -/
def State.serial (s : State) : Nat := s.fld GLB_SERIAL_LO_SERIAL + s.fld GLB_SERIAL_HI_SERIAL * 2 ^ 32

/-- The root key is SHAKE256 over the PUF response and the fuse secret; the store key and the seed of the identity key are SHAKE256 over
it and a label each (R355; lengths and order are the model's choice, log entry 82). -/
def State.deriveRoot (s : State) (puf : List Byte) : List Byte := Config.shake256 (puf ++ s.keys.fuse) 32
def State.storeKey (s : State) : List Byte := Config.shake256 (s.keys.root ++ Config.rootLabel 0) 32
def State.seedKey (s : State) : List Byte := Config.shake256 (s.keys.root ++ Config.rootLabel 1) 32

/-- The firmware verification keys are those of the fuse hash (R355, Table 15.1). -/
def State.fvkOk (s : State) : Bool :=
  Config.shake256 ([4, 5, 6, 7].flatMap fun k => (s.slot k).now.key) 64 == Config.shake256 s.keys.fvkFused 64

/-! ### Roles -/

/-- Lifecycle states (spec/00 Table 0.5): 0 MANUFACTURE, 1 FIELD, 2 BENCH-ONLY, 3 RETIRED. -/
def State.lifecycle (s : State) : Nat := s.fld GLB_LIFECYCLE_STATE

/-- Role of a session handle: 0 PUBLIC for handle 0, none where no such session is open (R361). -/
def State.roleOf (s : State) (h : Nat) : Option Nat :=
  if h = 0 then some 0
  else match s.keys.roles.find? fun r => r.handle == h with
    | some r => if s.due (.roleIdle h) (900 * sec) then none else some r.role
    | none => none

/-- The holder of a session. -/
def State.holderOf (s : State) (h : Nat) : Nat :=
  match s.keys.roles.find? fun r => r.handle == h with
  | some r => r.holder
  | none => 0

/-- A descriptor that names a session keeps it open (R362). -/
def State.touchRole (s : State) (h : Nat) : State :=
  if s.timing (.roleIdle h) && (s.roleOf h).isSome then s.startTimer (.roleIdle h) else s

/-- Open sessions by role, in ROLE_STAT (Table 15.13). -/
def State.roleStat (s : State) : State :=
  let n (r : Nat) : Nat := (s.keys.roles.filter fun x => x.role == r).length
  (((s.setSat ROLE_STAT_OPER (n 1)).setSat ROLE_STAT_SERV (n 2)).setSat ROLE_STAT_METRO (n 3)).setSat ROLE_STAT_MAKER (n 4)

/-- METROLOGY rights: the role with the seal asserted, or MAKER in MANUFACTURE without it (R218, R362). -/
def State.metroRights (s : State) (role : Nat) : Bool :=
  (role == 3 && s.flag MET_STATUS_SEAL) || (role == 4 && s.lifecycle == 0)

end Sys2Proof.Machine
end

