-- ==== Sys2Proof/Machine/Legal.lean ====
section
/-!
DEFINITION. Legal registers, tariffs, demand, records and prepayment tokens (spec/08). Instants are in s UTC since
1958-01-01 where the calendar is concerned, and count values in ns elsewhere. Register readings are in Wh as
C × 10^12 + M (R193).
-/

namespace Sys2Proof.Machine

open Sys2Proof

/-- Raise an event and enter it in the legal audit log as well (R221). -/
def State.audit (s : State) (code : Nat) (data : List Nat) : State :=
  (s.event code data).updLeg fun l =>
    { l with audit := s.newEvent code data :: l.audit }

/-! ### Registers (R191 to R193) -/

/-- Channel `c`: 0 to 7 outputs, 8 and 9 feeds. -/
def State.chan (s : State) (c : Nat) : LegChan := nth LegChan.rest s.leg.chans c
def State.updChan (s : State) (c : Nat) (f : LegChan → LegChan) : State := s.updLeg fun l => { l with chans := upd l.chans c f }

/-- Channels fitted. -/
def State.hasChan (s : State) (c : Nat) : Bool := decide (c < s.nOuts ∨ (8 ≤ c ∧ c < 10))

/-- What an early commit of the SF has put into the registers (R183, R184). -/
def State.earlyOf (s : State) (c : Nat) : Nat × Nat :=
  if c < 8 then ((s.mo c).earlyImp, (s.mo c).earlyExp) else ((s.mf (c - 8)).earlyImp, (s.mf (c - 8)).earlyExp)
def State.setEarly (s : State) (c : Nat) (e : Nat × Nat) : State :=
  if c < 8 then s.updMo c fun m => { m with earlyImp := e.1, earlyExp := e.2 }
  else s.updMf (c - 8) fun m => { m with earlyImp := e.1, earlyExp := e.2 }

/-- The totals of a channel with `e` of the running SF in place of what an early commit had put there. -/
def State.addTotal (s : State) (c : Nat) (e : Nat × Nat) : State :=
  let o := s.earlyOf c
  let put (a x y : Nat) : Nat := (a + 2 ^ 128 - x + y) % 2 ^ 128
  if c < 8 then s.updMo c fun m => { m with imp := put m.imp o.1 e.1, exp := put m.exp o.2 e.2 }
  else s.updMf (c - 8) fun m => { m with imp := put m.imp o.1 e.1, exp := put m.exp o.2 e.2 }

/-- Energies of the ending SF (R172). -/
def State.sfImpOf (s : State) (c : Nat) : Nat := if c < 8 then (s.mo c).sfImp else (s.mf (c - 8)).sfImp
def State.sfExpOf (s : State) (c : Nat) : Nat := if c < 8 then (s.mo c).sfExp else (s.mf (c - 8)).sfExp

/-- Reading per rate in Wh. -/
def State.whRate (s : State) (c r : Nat) : Nat := nth 0 (s.chan c).rImp r / unitWh

/-- Rate in force, 1 to 16. -/
def State.rate (s : State) : Nat := s.fld LEG_STATUS_RATE + 1

/-! ### Status flags (Table 8.5) -/

def fOoc : Nat := 0
def fHoldup : Nat := 1
def fCut : Nat := 2
def fInvalid : Nat := 7
def fStep : Nat := 8
def fReent : Nat := 9
def fOutage : Nat := 10
def fShort : Nat := 11
def fGap : Nat := 12
def fTwin : Nat := 13
def fBundle : Nat := 14

/-- Bit `k` where `c` holds. -/
def bitIf (c : Bool) (k : Nat) : Nat := if c then 2 ^ k else 0

/-- Flags of the SF of a channel (R204, R23, R167, R170, R174, R178, R184, spec/17 R411). -/
def State.sfFlags (s : State) (c : Nat) : Nat :=
  let cal := !(s.rot c).calchk.isEmpty
  if c < 8 then
    bitIf (s.mo c).ooc 0 ||| bitIf (s.flag MET_STATUS_HOLDUP) 1 ||| bitIf (s.mo c).subst 3 ||| bitIf (s.mo c).ovr 4 ||| bitIf cal 5 ||| bitIf (s.flag (MET_OCFG_LEGACY c)) 6
      ||| bitIf (s.flag (MET_OCFG_ABS c)) 15
  else
    bitIf (s.oocFeed (c - 8)) 0 ||| bitIf (s.flag MET_STATUS_HOLDUP) 1 ||| bitIf (s.mf (c - 8)).subst 3
      ||| bitIf (s.mf (c - 8)).ovr 4 ||| bitIf cal 5

/-- Flags of the SF common to all channels: time not valid, re-entered time (R200, R201). -/
def State.timeFlags (s : State) : Nat :=
  bitIf (!s.flag TIME_STATUS_VALID) fInvalid ||| bitIf (s.flag LEG_STATUS_REENTER) fReent

/-! ### Calendar (R194) -/

/-- Month and day of the month of a day since 1958-01-01, proleptic Gregorian. -/
def monthDay (d : Nat) : Nat × Nat :=
  let doe := (d + 715085) % 146097
  let yoe := (doe - doe / 1460 + doe / 36524 - doe / 146096) / 365
  let doy := doe - (365 * yoe + yoe / 4 - yoe / 100)
  let mp := (5 * doy + 2) / 153
  (if mp < 10 then mp + 3 else mp - 9, doy - (153 * mp + 2) / 5 + 1)

/-- Offset of local time from UTC in s at an instant. -/
def calOfs (c : Cal) (u : Int) : Int :=
  60 * c.dst.foldl (fun a p => if (p.1 : Int) ≤ u then p.2 else a) c.std

/-- Spans of one offset: start (none: since ever), end (none: for ever), offset in s. -/
def calSpans (c : Cal) : List (Option Int × Option Int × Int) :=
  let starts : List (Option Int × Int) := (none, 60 * c.std) :: c.dst.map fun p => (some (p.1 : Int), 60 * p.2)
  starts.mapIdx fun i p => (p.1, (starts[i + 1]?).bind (·.1), p.2)

/-- Instant of a local time: its first occurrence where an hour repeats, the transition where an hour is skipped. -/
def calUtc (c : Cal) (l : Int) : Int :=
  let hit := (calSpans c).find? fun p =>
    let u := l - p.2.2
    (match p.1 with
      | none => true
      | some a => decide (a ≤ u)) && (match p.2.1 with
      | none => true
      | some b => decide (u < b))
  match hit with
  | some p => l - p.2.2
  | none =>
    match ((calSpans c).zip ((calSpans c).drop 1)).find? fun p =>
      match p.2.1 with
      | some a => decide (a + p.1.2.2 ≤ l ∧ l < a + p.2.2.2)
      | none => false with
    | some p => p.2.1.getD l
    | none => l - calOfs c l

/-- Day profile of a local day: a special day's, else that of the season's week. -/
def calDay (c : Cal) (d : Nat) : List (Nat × Nat) :=
  let md := monthDay d
  let le (p : Nat × Nat × Nat) : Bool := decide (p.1 < md.1 ∨ (p.1 = md.1 ∧ p.2.1 ≤ md.2))
  let k := match c.special.find? fun p => p.1 == d with
    | some p => p.2
    | none =>
      let last := (c.seasons.getLast?.map (·.2.2)).getD 0
      let w := c.seasons.foldl (fun a p => if le p then p.2.2 else a) last
      nth 0 (nth [] c.weeks w) ((d + 2) % 7)
  nth [] c.days k

/-- Rate in force at an instant: that of the latest switching time whose instant has come, looked for over the week before. In the
second pass of an hour that repeats, its switching times have been taken at their first occurrence. -/
def calRate (c : Cal) (u : Int) : Nat :=
  let d := ((u + calOfs c u) / 86400).toNat
  let hits := (idx 10).flatMap fun b =>
    if d + 1 < 9 - b then [] else
      let day := d + 1 - (9 - b)
      (calDay c day).filter fun p => decide (calUtc c ((day * 86400 + p.1 * 60 : Nat)) ≤ u)
  ((hits.getLast?).map (·.2)).getD 1

/-- A boundary (R197): instant in s UTC, demand, billing, tariff rate, and whether the passive calendar comes into force. -/
structure Boundary where
  u : Int
  demand : Bool
  billing : Bool
  rate : Option Nat
  activates : Bool
deriving DecidableEq, Repr

/-- Insert a boundary in order of time; boundaries at one instant become one. -/
def addBoundary (b : Boundary) : List Boundary → List Boundary
  | [] => [b]
  | h :: t =>
    if b.u < h.u then b :: h :: t
    else if b.u = h.u then
      { h with demand := h.demand || b.demand, billing := h.billing || b.billing
               rate := if b.rate.isSome then b.rate else h.rate, activates := h.activates || b.activates } :: t
    else h :: addBoundary b t

/-- Whole seconds of UTC at a count value. -/
def State.utcS (s : State) (count : Nat) : Int := ((count : Int) - s.utcOfs * 1000000000) / 1000000000

/-- Count value of a UTC instant, with the offset in force (R197). -/
def State.countOf (s : State) (u : Int) : Nat := ((u + s.utcOfs) * 1000000000).toNat

/-- Length of a subinterval in s (R195). -/
def State.subS (s : State) : Int := ((s.fld LEG_DEM_INT * 60 / max 1 (s.fld LEG_DEM_SUB) : Nat) : Int)

/-- Tariff switches and billing closes of a calendar after `lo` and up to `hi`. -/
def State.switches (s : State) (c : Cal) (lo hi : Int) (acc : List Boundary) : List Boundary :=
  if hi ≤ lo then acc
  else
    let d0 := ((lo + calOfs c lo) / 86400 - 1).toNat
    let d1 := ((hi + calOfs c hi) / 86400 + 1).toNat
    (idx (d1 + 1 - d0)).foldl (fun acc k =>
      let d := d0 + k
      let put (acc : List Boundary) (b : Boundary) : List Boundary := if lo < b.u ∧ b.u ≤ hi then addBoundary b acc else acc
      let acc := (calDay c d).foldl (fun acc p => put acc ⟨calUtc c ((d * 86400 + p.1 * 60 : Nat)), false, false, some p.2, false⟩) acc
      if s.fld LEG_DEM_BDAY ≠ 0 ∧ (monthDay d).2 = s.fld LEG_DEM_BDAY
      then put acc ⟨calUtc c ((d * 86400 : Nat)), false, true, none, false⟩ else acc) acc

/-- Boundaries after `lo` and up to `hi`, in order, the demand boundaries but for the first one left out, and how many
demand boundaries there are. Up to and at the instant at which a passive calendar comes into force the old one gives the billing
closes; the rate from that instant on is the new one's (R194, R196, R198; log entry 63). -/
def State.boundaries (s : State) (lo hi : Int) : List Boundary × Nat :=
  if hi ≤ lo then ([], 0)
  else
    let n := s.subS
    let dem := if n ≤ 0 then 0 else (hi / n - lo / n).toNat
    let b := if dem = 0 then [] else [⟨(lo / n + 1) * n, true, false, none, false⟩]
    match s.leg.passive with
    | none => (s.switches s.leg.cal lo hi b, dem)
    | some (c, act, _) =>
      let b := s.switches s.leg.cal lo (min hi (act : Int)) b
      let b := s.switches c (max lo act) hi b
      (if lo < (act : Int) ∧ (act : Int) ≤ hi then addBoundary ⟨act, false, false, some (calRate c act), true⟩ b else b, dem)

/-! ### Subintervals and profiles (R195, R203, R204) -/

/-- Enter a profile entry; the oldest of 4096 leaves, and one not read is counted, E:0x0717 at most once per hour and
channel (R203). -/
def State.profEntry (s : State) (c : Nat) (e : ProfEntry) : State :=
  let p := (s.chan c).prof
  let lost := decide (4096 ≤ p.length) && !((p.getLast?).map (·.read)).getD true
  let s := s.updChan c fun x => { x with prof := e :: p.take 4095 }
  if lost then
    let s := s.inc LEG_ERR_OVW
    let tell := match (s.chan c).told717 with
      | none => true
      | some t => decide (t + 3600 * sec ≤ s.age)
    s.iff tell fun s => (s.updChan c fun x => { x with told717 := some s.age }).event 0x0717 [c]
  else s

/-- Open a subinterval with flags (R195). -/
def State.openSub (s : State) (flags : Nat) : State :=
  let s := s.updLeg fun l => { l with subOpen := true, subNs := 0, subFlags := flags }
  s.each (idx 10) fun s c => s.updChan c fun x => { x with openImp := s.whImp c, openExp := s.whExp c, flags := 0 }

/-- Close the running subinterval: profile entries, current demand over the last n subintervals, rounded down to 1 kW (log
entry 33), and maximum demand with the legal time of the interval's end (R195, R203). -/
def State.closeSub (s : State) (tick cap : Nat) (flags : Nat) : State :=
  if !s.leg.subOpen then s
  else
    let n := max 1 (s.fld LEG_DEM_SUB)
    let int := max 1 (s.fld LEG_DEM_INT)
    let ms' := s.leg.subNs / ms
    let fl := s.leg.subFlags ||| flags
    let s := s.each ((idx 10).filter s.hasChan) fun s c =>
      let x := s.chan c
      let ei := s.whImp c - x.openImp
      let ee := s.whExp c - x.openExp
      let s := s.profEntry c ⟨tick, ei, ee, ms', fl ||| x.flags, s.rate, s.clk, 0, false⟩
      let h := (ei :: x.hist).take n
      let cur := h.foldl (· + ·) 0 * 60 / (int * 1000)
      s.updChan c fun x =>
        { x with hist := h, cur := cur, max := if x.max < cur then cur else x.max, maxAt := if x.max < cur then cap else x.maxAt }
    s.updLeg fun l => { l with subOpen := false }

/-- A GAP entry for subintervals skipped wholly; they count as zero energy in sliding demand (R199, log entry 33). While the count is
below MAXT it is REENTERED (R200). -/
def State.gapSubs (s : State) (tick n : Nat) : State :=
  let keep := max 1 (s.fld LEG_DEM_SUB)
  s.each ((idx 10).filter s.hasChan) fun s c =>
    (s.profEntry c ⟨tick, 0, 0, 0, 2 ^ fGap ||| bitIf (s.flag LEG_STATUS_REENTER && decide (tick < s.leg.maxt)) fReent, s.rate, s.clk, n, false⟩).updChan c fun x =>
      { x with hist := (List.replicate (min n keep) 0 ++ x.hist).take keep }

/-! ### Records (R196, R205 to R213) -/

/-- Put a record into the store (R210). -/
def State.putRecord (s : State) (b : DmrBody) : State :=
  s.updLeg fun l => { l with store := l.store ++ [⟨l.nextRec, b, none, false, 0, 0⟩], nextRec := l.nextRec + 1 }

/-- The legal firmware version word. -/
def State.fwLegal (s : State) : Nat := (s.reg R_GLB_FW_LEGAL).toNat

/-- A billing-period close: snapshot, maximum demands to 0, a record of type 2, E:0x0702; a demand configuration that waits
comes into force, E:0x0713 (R195, R196). -/
def State.closePeriod (s : State) (at_ : Nat) : State :=
  let l := s.leg
  let chans := (idx 10).map fun c => (s.whImp c, s.whExp c, (s.chan c).max, (s.chan c).maxAt)
  let perRate := (idx 10).map fun c => ((s.chan c).rImp.map (· / unitWh), (s.chan c).rExp.map (· / unitWh))
  let b : DmrBody :=
    { type := 2, session := 0, seg := 0, flags := l.pFlags, tStart := l.pStart, tEnd := at_, utcOfs := s.utcOfs
      clkStart := l.pClk, clkEnd := s.clk, eImp := 0, eExp := 0, reason := 0, segEnd := 0, idType := 0, ident := []
      tver := s.fld LEG_TVER_VER, credit := 0, creditUnit := 0, fwLegal := s.fwLegal, members := [], rates := []
      chans := chans, rateRegs := perRate }
  let s := s.updLeg fun l =>
    { l with periods := (b :: l.periods).take 24, pFlags := 0, pStart := at_, pClk := s.clk
             chans := l.chans.map fun x => { x with max := 0, maxAt := 0 } }
  let s := ((s.putRecord b).inc LEG_COUNTS_BILLN).audit 0x0702 [s.fld LEG_COUNTS_BILLN]
  match l.demNew with
  | none => s
  | some (i, n, d) =>
    let s := s.updLeg fun l => { l with demNew := none }
    let s := (((s.setFld LEG_DEM_INT i).setFld LEG_DEM_SUB n).setFld LEG_DEM_BDAY d).setFlag LEG_DEM_PEND false
    s.event 0x0713 [i, n, d]

/-- Take the boundaries between two instants in the order of R198; at one instant demand, billing, tariff. The first
demand boundary closes the running subinterval, later ones skip whole subintervals (R198, R199). -/
def State.takeBoundaries (s : State) (now : Nat) : State :=
  let hwm := s.leg.hwm.getD now
  let (bs, dem) := s.boundaries (s.utcS hwm) (s.utcS now)
  if bs.isEmpty then s
  else
    let s := s.each bs fun s b =>
      let at_ := s.countOf b.u
      let s := s.iff b.demand (·.closeSub now at_ 0)
      let s := s.iff b.billing (·.closePeriod at_)
      let s := if b.activates then
          match s.leg.passive with
          | some (c, _, v) => (s.updLeg fun l => { l with cal := c, passive := none }).setFld LEG_TVER_VER v
          | none => s
        else s
      let s := match b.rate with
        | some r => if r ≠ s.rate then (s.setFld LEG_STATUS_RATE (r - 1)).audit 0x0701 [r] else s
        | none => s
      s.updLeg fun l => { l with hwm := some at_ }
    let n := s.subS
    let last := if dem = 0 ∨ n ≤ 0 then 0 else s.countOf (s.utcS now / n * n)
    let s := s.updLeg fun l => { l with hwm := l.hwm.map (max last) }
    let s := s.iff (decide (1 < dem)) (·.gapSubs now (dem - 1))
    s.iff (decide (0 < dem)) (·.openSub 0)

/-! ### Sessions and segments (R205 to R209) -/

/-- Segment in progress under a session number. -/
def State.legSess (s : State) (k : Nat) : Option LegSess := s.leg.sessions.find? fun x => x.session == k
def State.updSess (s : State) (k : Nat) (f : LegSess → LegSess) : State :=
  s.updLeg fun l => { l with sessions := l.sessions.map fun x => if x.session = k then f x else x }

/-- The segment that holds an unended member of output `j` and session `n`. -/
def State.sessOf (s : State) (j n : Nat) : Option Nat :=
  (s.leg.sessions.find? fun x => x.members.any fun m => m.out == j && m.session == n && !m.ended).map (·.session)

/-- The credit limits that a dialogue carries: the host's and a token's, the lower where both have one unit (R209). -/
def creditOf (v : Veh) : List (Nat × Nat) :=
  let h := if v.creditUnit ≠ 0 ∧ v.credit ≠ 0 then [(v.creditUnit, v.credit)] else []
  let t := if v.tokUnit ≠ 0 then [(v.tokUnit, v.tokCredit)] else []
  match h, t with
  | [(a, x)], [(b, y)] => if a = b then [(a, min x y)] else [(a, x), (b, y)]
  | h, t => h ++ t

/-- A segment without readings yet, under session number `key`. -/
def State.newSess (s : State) (key j : Nat) : LegSess :=
  let v := s.vh ((s.vh j).lead.getD j)
  { session := key, seg := 0, members := [], flags := 0, tStart := 0, clkStart := 0, reason := 0, segEnd := 0, idType := v.idType
    ident := v.ident, credit := creditOf v, told711 := false, joins := [], tEnd := 0, clkEnd := 0 }

/-- A member block enters a segment; the first one gives it its start, its identification and its credit. -/
def LegSess.enter (x : LegSess) (m : LegMember) (v : Veh) : LegSess :=
  let y := { x with members := x.members ++ [m], joins := x.joins.filter (· != (m.out, m.session)) }
  if x.members.isEmpty then
    { y with tStart := m.tS, clkStart := m.clkS, idType := v.idType, ident := v.ident, credit := creditOf v }
  else y

/-- Session number of the segment in which output `j` with session `n` is a member that has not ended, or has joined. -/
def State.memberOf (s : State) (j n : Nat) : Option Nat :=
  (s.leg.sessions.find? fun x =>
    x.joins.contains (j, n) || x.members.any fun m => m.out == j && m.session == n && !m.ended).map (·.session)

/-- Output `j` with session `n` has joined the session `key` of a lead member: one record holds both, with the BUNDLE flag, whether
a segment of either is open already or not (R206; DEDUCED, log entry 74). -/
def State.legJoin (s : State) (j n key : Nat) : State :=
  let lead := (s.vh j).lead.getD j
  let into := (s.memberOf lead key).getD key
  let s := match s.legSess into with
    | some _ => s
    | none => s.updLeg fun l => { l with sessions := l.sessions ++ [{ s.newSess key lead with joins := [(lead, key)] }] }
  let s := s.updSess into fun x => { x with flags := x.flags ||| 2 ^ fBundle }
  match s.memberOf j n with
  | none => s.updSess into fun x => { x with joins := x.joins ++ [(j, n)] }
  | some k =>
    match s.legSess k with
    | none => s
    | some own =>
      if k = into ∨ bit own.flags fBundle then s
      else
        let s := s.updLeg fun l => { l with sessions := l.sessions.filter fun x => x.session != k }
        s.updSess into fun x =>
          let first := x.members.isEmpty || decide (own.tStart < x.tStart)
          { x with
            members := x.members ++ own.members, joins := x.joins ++ own.joins, flags := x.flags ||| own.flags
            tStart := if first then own.tStart else x.tStart, clkStart := if first then own.clkStart else x.clkStart }

/-- Output `j` enters CABLECHECK: its member opens with the readings of the last commit, which lacks the SF now ending
(R205, R206). A member that a token passing has opened stays (R207). -/
def State.openMember (s : State) (j n : Nat) : State :=
  let d := if s.metOn then 1 else 0
  let m : LegMember :=
    { LegMember.rest with
      out := j, session := n, impS := (s.totImp j - d * s.sfImpOf j) / unitWh, expS := (s.totExp j - d * s.sfExpOf j) / unitWh
      rateS := (idx 16).map (s.whRate j), tS := s.leg.lastCount, clkS := s.leg.lastClk }
  let v := s.vh ((s.vh j).lead.getD j)
  if (s.sessOf j n).isSome then s else match s.memberOf j n with
  | some k => s.updSess k (·.enter m v)
  | none => s.updLeg fun l => { l with sessions := l.sessions ++ [(s.newSess n j).enter m v] }

/-- A member takes its end readings, which hold at a count value and clock state (R205, R213). -/
def State.endMember (s : State) (key j n reason t clk : Nat) : State :=
  s.updSess key fun x =>
    { x with
      reason := reason, tEnd := t, clkEnd := clk
      members := x.members.map fun m =>
        if m.out = j ∧ m.session = n ∧ !m.ended then
          { m with ended := true, tE := t, clkE := clk, impE := s.whImp j, expE := s.whExp j, rateE := (idx 16).map fun k => s.whRate j k }
        else m }

/-- The record of a segment whose members have all ended (R205, R206). -/
def State.buildRecord (s : State) (x : LegSess) : State :=
  let rates := (idx 16).map fun k => (k + 1, sumI (x.members.map fun m => ((nth 0 m.rateE k : Nat) : Int) - (nth 0 m.rateS k : Nat)) |>.toNat)
  let cr := x.credit.headD (0, 0)
  let b : DmrBody :=
    { type := 1, session := x.session, seg := x.seg, flags := x.members.foldl (fun a m => a ||| m.flags) x.flags
      tStart := x.tStart, tEnd := x.tEnd, utcOfs := s.utcOfs, clkStart := x.clkStart, clkEnd := x.clkEnd
      eImp := x.members.foldl (fun a m => a + (m.impE - m.impS)) 0, eExp := x.members.foldl (fun a m => a + (m.expE - m.expS)) 0
      reason := x.reason, segEnd := x.segEnd, idType := x.idType, ident := x.ident, tver := s.fld LEG_TVER_VER
      credit := cr.2, creditUnit := cr.1, fwLegal := s.fwLegal, members := x.members, rates := rates.filter fun p => p.2 != 0
      chans := [], rateRegs := [] }
  (s.updLeg fun l => { l with sessions := l.sessions.filter fun y => y.session != x.session }).putRecord b

/-- Records of the segments that are complete: no member goes on, none that joined is still to come (R206). A session of which no
member has reached CABLECHECK leaves none (R205). -/
def State.buildDone (s : State) : State :=
  s.each (s.leg.sessions.filter fun x => x.joins.isEmpty && x.members.all (·.ended)) fun s x =>
    if x.members.isEmpty then s.updLeg fun l => { l with sessions := l.sessions.filter fun y => y.session != x.session }
    else s.buildRecord x

/-- Session changes that the VCs have reported since the MC last read them: E:0x0501 with output, session, old and new state and
reason, and E:0x0510 with the output that joins and its lead's session. Starts are taken before the ending SF is accrued, ends after it (R205). -/
def State.newStates (s : State) : List Event :=
  ((s.log.take (s.log.length - s.leg.seen)).filter fun e => e.code == 0x0501 || e.code == 0x0510).reverse

def State.sessionStarts (s : State) (es : List Event) : State :=
  s.each es fun s e =>
    let j := nth 0 e.data 0
    if e.code = 0x0510 then s.legJoin j (s.sess j) (nth 0 e.data 1) else s.iff (nth 0 e.data 3 == 5) (·.openMember j (nth 0 e.data 1))

def State.sessionEnds (s : State) (es : List Event) : State :=
  s.each es fun s e =>
    let j := nth 0 e.data 0
    let n := nth 0 e.data 1
    let new := nth 0 e.data 3
    let why := if nth 0 e.data 4 ≠ 0 then nth 0 e.data 4 else s.fld (VD_STAT_REASON j)
    if e.code = 0x0501 ∧ (new = 0 ∨ 11 ≤ new) then
      match s.sessOf j n with
      | some k => s.endMember k j n why s.tim.count s.clk
      | none => s.updLeg fun l => { l with sessions := l.sessions.map fun x => { x with joins := x.joins.filter (· != (j, n)) } }
    else s

/-- A credit limit is reached (R209): import energy, or energy per rate times its price in 10^−7 currency. -/
def State.creditUsed (s : State) (x : LegSess) (unit : Nat) : Nat :=
  x.members.foldl (fun a m =>
    let imp := if m.ended then m.impE else s.whImp m.out
    let rt (k : Nat) : Nat := if m.ended then nth 0 m.rateE k else s.whRate m.out k
    if unit = 2 then a + (imp - m.impS)
    else a + (idx 16).foldl (fun b k => b + (rt k - nth 0 m.rateS k) * nth 0 s.leg.cal.prices k) 0) 0

/-- The limits at a commit: E:0x0711 once, and an EVSE stop with reason 16 of every member that goes on, joined still or not (R209). -/
def State.creditCheck (s : State) : State :=
  s.each s.leg.sessions fun s x =>
    let hit := x.credit.any fun p => decide ((if p.1 = 2 then p.2 else p.2 * 10 ^ 6) ≤ s.creditUsed x p.1)
    if hit then
      let s := s.iff (!x.told711) fun s => (s.updSess x.session fun y => { y with told711 := true }).event 0x0711 [x.session]
      s.each (x.members.filter fun m => !m.ended && m.session == s.sess m.out) fun s m => s.evseStopAll m.out 16
    else s

/-! ### The commit (R192, R198 to R201) -/

/-- The energies `e` of the SF, which the totals hold, enter the accumulators of the rate in force with the same addend, in place of
what an early commit had put there (R191). A register's M is its Wh modulo 10^12 and its C their quotient (R193): where one of them
wraps, E:0x0703. -/
def State.addRate (s : State) (c : Nat) (e : Nat × Nat) : State :=
  let r := s.rate - 1
  let o := s.earlyOf c
  let roll (a b : Nat) : Bool := decide (a / (10 ^ 12 * unitWh) < b / (10 ^ 12 * unitWh))
  let x := s.chan c
  let ri := nth 0 x.rImp r
  let re := nth 0 x.rExp r
  let wrap := roll (s.totImp c - e.1 + o.1) (s.totImp c) || roll (s.totExp c - e.2 + o.2) (s.totExp c)
    || roll ri (ri - o.1 + e.1) || roll re (re - o.2 + e.2)
  let s := s.updChan c fun x =>
    { x with
      rImp := upd x.rImp r fun a => (a + 2 ^ 128 - o.1 + e.1) % 2 ^ 128
      rExp := upd x.rExp r fun a => (a + 2 ^ 128 - o.2 + e.2) % 2 ^ 128 }
  s.iff wrap fun s => s.audit 0x0703 [c]

/-- Flags enter the spans that run: a channel's subinterval, the billing period, and the sessions of an output (R204). -/
def State.flagChan (s : State) (c fl : Nat) : State :=
  (s.updChan c fun x => { x with flags := x.flags ||| fl }).updLeg fun l =>
    { l with
      pFlags := l.pFlags ||| fl
      sessions := l.sessions.map fun x =>
        { x with members := x.members.map fun m => if m.ended || m.out != c then m else { m with flags := m.flags ||| fl } } }

/-- Accrue the ending SF: rate accumulators, the subinterval's legal time, and the flags of every span (R191, R197,
R204). -/
def State.accrue (s : State) : State :=
  let tf := s.timeFlags
  let s := s.updLeg fun l =>
    { l with
      subNs := l.subNs + s.tim.advance, subFlags := l.subFlags ||| tf, pFlags := l.pFlags ||| tf
      sessions := l.sessions.map fun x => { x with flags := x.flags ||| tf } }
  s.each (idx 10) fun s c => s.iff s.metOn fun s =>
    ((s.addRate c (s.sfImpOf c, s.sfExpOf c)).setEarly c (0, 0)).flagChan c (s.sfFlags c)

/-- A commit before the SF ends: the energy of the samples taken so far enters totals and rates; the regular commit puts the whole
SF's in its place. No boundary moves (R183). Cut by the end of the store, the commit is flagged HOLDUP_CUT and metering is over
(R184). -/
def State.earlyCommit (s : State) (met : List MetOutIn) (feeds : List FeedIn) (cut : Bool) : State :=
  let put (s : State) (c : Nat) (e : Nat × Nat) : State := ((s.addTotal c e).addRate c e).setEarly c e
  let s := s.each ((idx s.nOuts).zip met) fun s p => put s p.1 (s.partOut p.1 p.2)
  let s := s.each ((idx 2).zip feeds) fun s p => put s (8 + p.1) (s.feedEnergies p.1 (s.feedFill p.1 p.2))
  if !cut then s
  else
    let s := s.each ((idx 10).filter s.hasChan) fun s c => (s.setEarly c (0, 0)).flagChan c (s.sfFlags c ||| 2 ^ fCut)
    let s := s.each (idx s.nOuts) fun s j => (s.updMo j fun m => { m with stopped := true }).setFlag (MET_OSTAT_HOLDUP j) true
    s.each (idx 2) fun s f => (s.updMf f fun m => { m with stopped := true }).setFlag (MET_FSTAT_HOLDUP f) true

/-- SUSPEND follows the validity of time (R201). -/
def State.legSuspend (s : State) : State :=
  let ok := s.flag TIME_STATUS_VALID
  let was := s.flag LEG_STATUS_SUSPEND
  if !ok && !was then (s.setFlag LEG_STATUS_SUSPEND true).audit 0x0707 []
  else if ok && was then (s.setFlag LEG_STATUS_SUSPEND false).audit 0x0708 []
  else s

/-- HWM and MAXT in their registers, and what the MC remembers of the commit (R198). -/
def State.legCommit (s : State) : State :=
  let now := s.tim.count
  let s := s.updLeg fun l =>
    { l with maxt := max l.maxt now, lastCount := now, lastClk := s.clk }
  let h := s.leg.hwm.getD 0
  let s := ((s.setFld LEG_HWM_LO_T (h % 2 ^ 32)).setFld LEG_HWM_HI_T (h / 2 ^ 32))
  (s.setFld LEG_MAXT_LO_T (s.leg.maxt % 2 ^ 32)).setFld LEG_MAXT_HI_T (s.leg.maxt / 2 ^ 32)

/-- HWM is set at the first commit with valid time, with the calendar's rate (log entry 33). -/
def State.hwmInit (s : State) : State :=
  match s.leg.hwm with
  | some _ => s
  | none =>
    let now := s.tim.count
    let r := calRate s.leg.cal (s.utcS now)
    (s.updLeg fun l => { l with hwm := some now, maxt := max l.maxt now }).setFld LEG_STATUS_RATE (r - 1)

/-- Accepted tokens enter the window as PENDING, and only then is the authorisation request posted; a full window loses its
smallest USED identifier, and FLOOR takes that value (R216). -/
def State.tokEnter (s : State) : State :=
  let w := s.leg.tokWait
  let s := s.updLeg fun l => { l with tokWait := [] }
  s.each w fun s t =>
    let (tid, j, lim, unit) := t
    let s := if s.leg.window.length < 256 then s
      else
        let used := (s.leg.window.filter fun e => !e.pending).map (·.tid)
        match used with
        | [] => s
        | h :: r =>
          let least := r.foldl min h
          (s.updLeg fun l => { l with window := l.window.filter fun e => e.tid != least }).setFld TOK_FLOOR_FLOOR
            (max (s.fld TOK_FLOOR_FLOOR) least)
    let s := (s.updLeg fun l => { l with window := l.window ++ [⟨tid, true⟩] }).tokRegs
    let s := s.updVh j fun v => { v with token := some tid, tokCredit := lim, tokUnit := unit }
    s.iff (s.sstate j == 3) (·.postAuth j 4 (toLE 3 tid) [])

/-- The count passes MAXT: re-entered time is over, E:0x0706 (R200). -/
def State.reentered (s : State) : State :=
  s.iff (s.flag LEG_STATUS_REENTER && decide (s.leg.maxt ≤ s.tim.count)) fun s => (s.setFlag LEG_STATUS_REENTER false).audit 0x0706 []

/-- The legal commit at an SF tick (R198). -/
def State.legTick (s : State) : State :=
  let es := s.newStates
  let s := s.updLeg fun l => { l with seen := s.log.length }
  let s := s.iff (!s.leg.subOpen) (·.openSub 0)
  let s := (s.sessionStarts es).accrue
  let s := s.iff (s.flag TIME_STATUS_VALID) fun s => (s.hwmInit).takeBoundaries s.tim.count
  let s := (s.sessionEnds es).buildDone
  let s := (s.legSuspend).reentered
  ((s.tokEnter).creditCheck).legCommit

/-- A step of the count from `old` at this tick: the running subinterval closes flagged STEP. Forward, the boundaries passed
over are processed, a GAP entry stands for whole subintervals, and the new subinterval opens STEP and SHORT, E:0x0704; one past MAXT
ends re-entered time;
backward, nothing is processed again, and re-entered time begins, E:0x0705 (R199 to R201). -/
def State.legStep (s : State) (old : Nat) : State :=
  let new := s.tim.count
  let s := s.closeSub old old (2 ^ fStep)
  let s := s.updLeg fun l =>
    { l with pFlags := l.pFlags ||| 2 ^ fStep, sessions := l.sessions.map fun x => { x with flags := x.flags ||| 2 ^ fStep } }
  let ok := s.flag TIME_STATUS_VALID
  let s := if old ≤ new then
      let s := s.iff ok fun s => (s.hwmInit).takeBoundaries new
      ((s.audit 0x0704 [new - old]).reentered).openSub (2 ^ fStep ||| 2 ^ fShort)
    else
      let s := (s.updLeg fun l => { l with maxt := max l.maxt old }).setFlag LEG_STATUS_REENTER true
      (s.audit 0x0705 [old - new]).openSub (2 ^ fStep ||| 2 ^ fReent)
  (s.legSuspend).legCommit

/-- At a start (R202, R208): the subinterval running at the final commit closes flagged OUTAGE, a restart subinterval opens
flagged SHORT, E:0x0709; open segments close with SEGEND 2, reason 14 and the flags HOLDUP or HOLDUP_CUT that the commits of the
hold-up have put into their spans (R204), those of a twin flagged TWIN_SEG (R207). -/
def State.legStart (s : State) : State :=
  let t := s.leg.lastCount
  let s := if s.leg.subOpen then
      ((s.closeSub t t (2 ^ fOutage)).openSub (2 ^ fShort)).audit 0x0709 []
    else s
  let s := s.each s.leg.sessions fun s x =>
    let s := s.each (x.members.filter fun m => !m.ended) fun s m => s.endMember x.session m.out m.session 14 t s.leg.lastClk
    s.updSess x.session fun y => { y with segEnd := 2, joins := [], flags := y.flags ||| bitIf (s.flag CQ_GCFG_TWIN_EN) fTwin }
  let s := s.buildDone
  let s := s.updLeg fun l =>
    { l with tokWait := [], seen := s.log.length, window := l.window.filter fun e => !e.pending }
  s.tokRegs

/-- The command token passes at this tick (R207): the old holder closes its segments with SEGEND 1, E:0x0718. -/
def State.legPass (s : State) : State :=
  s.each s.leg.sessions fun s x =>
    let s := s.each (x.members.filter fun m => !m.ended) fun s m => s.endMember x.session m.out m.session 0 s.tim.count s.clk
    let s := s.updSess x.session fun y => { y with segEnd := 1, joins := [], flags := y.flags ||| 2 ^ fTwin }
    (s.buildDone).iff (!x.members.isEmpty) fun s => s.event 0x0718 [x.session, x.seg]

/-- The new holder takes up output `j` with session `n`, joined to the session `join` (0: none): where the mirror names a segment in
progress it opens the next one, SEG one higher, with the readings of its own commit, whether or not current flows; the members of a
joined session share one (R206, R207). -/
def State.legTake (s : State) (j n join : Nat) (seg : Option Nat) : State :=
  let key := if join = 0 then n else join
  let m : LegMember :=
    { LegMember.rest with
      out := j, session := n, impS := s.whImp j, expS := s.whExp j, rateS := (idx 16).map (s.whRate j), tS := s.tim.count, clkS := s.clk }
  let fl := 2 ^ fTwin ||| bitIf (join != 0) fBundle
  if seg.isNone ∧ join = 0 then s
  else
    let s := match s.legSess key with
      | some _ => s
      | none => s.updLeg fun l => { l with sessions := l.sessions ++ [s.newSess key j] }
    s.updSess key fun x =>
      match seg with
      | some g => { x.enter m (s.vh j) with seg := max x.seg (g + 1), flags := x.flags ||| fl }
      | none => { x with joins := x.joins ++ [(j, n)], flags := x.flags ||| 2 ^ fBundle }

/-! ### Readings -/

/-- LEG_SEL latches the selected register and its rollover counter from the last commit (R192, Tables 8.15, 8.16). -/
def State.legSelect (s : State) : State :=
  let c := s.fld LEG_SEL_CH
  let q := s.fld LEG_SEL_QTY
  let r := s.fld LEG_SEL_RATE
  let ok := s.hasChan c && decide (q ≤ 5)
  let wh := match q with
    | 0 => s.whImp c
    | 1 => s.whExp c
    | 2 => s.whRate c r
    | 3 => nth 0 (s.chan c).rExp r / unitWh
    | _ => 0
  let v := if !ok then 0 else if q = 4 then (s.chan c).max else if q = 5 then (s.chan c).cur else wh % 10 ^ 12
  let s := (s.setFld LEG_RD_LO_M (v % 2 ^ 32)).setFld LEG_RD_HI_M (v / 2 ^ 32)
  (s.setFlag LEG_RD_HI_VALID ok).setFld LEG_ROLL_C (if ok then wh / 10 ^ 12 else 0)

/-! ### Records: encoding and signatures (R210 to R213) -/

/-- A DMR record's body (R211, Table 8.6). -/
def State.dmrBytes (s : State) (b : DmrBody) : List Byte :=
  let head := toLE 4 0x31524D44 ++ toLE 2 1 ++ toLE 2 b.type ++ toLE 8 s.serial ++ toLE 4 b.session ++ toLE 1 b.seg
    ++ toLE 1 b.members.length ++ toLE 2 b.flags ++ toLE 8 b.tStart ++ toLE 8 b.tEnd ++ toLE 2 (enc 16 b.utcOfs)
    ++ toLE 1 b.clkStart ++ toLE 1 b.clkEnd
  if b.type = 2 then
    head ++ b.chans.flatMap fun c => toLE 8 c.1 ++ toLE 8 c.2.1 ++ toLE 4 c.2.2.1 ++ toLE 8 c.2.2.2 ++ toLE 4 0
  else
    head ++ toLE 8 b.eImp ++ toLE 8 b.eExp ++ toLE 1 b.reason ++ toLE 1 b.segEnd ++ toLE 2 0 ++ toLE 1 b.idType
      ++ toLE 1 (min 40 b.ident.length) ++ (b.ident ++ List.replicate 40 0).take 40 ++ toLE 2 0 ++ toLE 4 b.tver
      ++ toLE 8 b.credit ++ toLE 1 b.creditUnit ++ toLE 3 0 ++ toLE 4 b.fwLegal
      ++ (b.members.flatMap fun m => toLE 1 m.out ++ toLE 1 0 ++ toLE 2 m.flags ++ toLE 8 m.impS ++ toLE 8 m.impE
          ++ toLE 8 m.expS ++ toLE 8 m.expE ++ toLE 4 0)
      ++ toLE 1 b.rates.length ++ toLE 3 0 ++ (b.rates.flatMap fun r => toLE 1 r.1 ++ toLE 3 0 ++ toLE 8 r.2)

/-- The signature section over a body (R211, Table 8.7, R212); none while a meter-signing key is missing. -/
def State.dmrSign (s : State) (b : DmrBody) : Option (List Byte) :=
  match s.keyFor 3 engSig, s.keyFor 2 engSig with
  | some e, some f =>
    let m := s.dmrBytes b
    let fs := Config.falconSign f.key m
    some (toLE 4 (keyId 3 e) ++ Config.ecdsaSign e.key m ++ toLE 4 (keyId 2 f) ++ toLE 2 fs.length ++ fs)
  | _, _ => none

/-- Legal firmware as major.minor.build. -/
def State.fwText (w : Nat) : String := toString (w / 2 ^ 24) ++ "." ++ toString (w / 2 ^ 16 % 256) ++ "." ++ toString (w % 2 ^ 16)

/-- A reading in kWh with 3 decimals. -/
def kwh (wh : Nat) : String :=
  let f := toString (wh % 1000)
  toString (wh / 1000) ++ "." ++ String.ofList (List.replicate (3 - f.length) '0') ++ f

/-- Bytes in hexadecimal. -/
def hexText (b : List Byte) : String :=
  String.ofList (b.flatMap fun x => [Nat.digitChar (x.toNat / 16), Nat.digitChar (x.toNat % 16)])

/-- An unsigned integer in DER, and the DER form of a signature r, s of 32 bytes each. -/
def derInt (b : List Byte) : List Byte :=
  let t := b.dropWhile (· == 0)
  let t := if 0x80 ≤ (t.headD 0x80).toNat then 0 :: t else t
  2 :: BitVec.ofNat 8 t.length :: t
def derSig (sg : List Byte) : List Byte :=
  let x := derInt (sg.take 32) ++ derInt ((sg.drop 32).take 32)
  0x30 :: BitVec.ofNat 8 x.length :: x

/-- An identifier: text for an eMAID and a host identifier, else its bytes. -/
def idText (ty : Nat) (b : List Byte) : String :=
  if ty = 2 ∨ ty = 5 then String.ofList (b.map fun x => Char.ofNat x.toNat) else hexText b

/-- Identification type of OCMF by ID_TYPE (Table 8.8): of the readers' protocols only ISO/IEC 15693 gives 8 bytes (spec/12 Table
12.8). -/
def ocmfId (ty : Nat) (ident : List Byte) : String :=
  match ty with
  | 1 => "ISO15118" | 2 => "ISO15118" | 4 => "LOCAL" | 5 => "CENTRAL"
  | 3 => if ident.length = 8 then "ISO15693" else "ISO14443"
  | _ => ""

/-- Time status of OCMF by clock state (Table 8.8). -/
def ocmfClock : Nat → String
  | 3 => "S" | 4 => "S" | 0 => "U" | _ => "I"

/-- The fields that an OCMF record fills (R213, Table 8.8): each member's readings with their own instants. -/
def State.ocmfFields (s : State) (r : LegRec) : List (String × String) :=
  let b := r.body
  let ef := (if (b.flags &&& (2 ^ fInvalid ||| 2 ^ fStep ||| 2 ^ fReent)) ≠ 0 then "t" else "")
    ++ (if (b.flags &&& (2 ^ fOoc ||| 2 ^ 5 ||| 2 ^ 3 ||| 2 ^ 4 ||| 2 ^ fCut)) ≠ 0 then "E" else "")
  let rd (tx : String) (t clk v : Nat) (obis : String) : List (String × String) :=
    [("TX", tx), ("TM", toString t ++ " " ++ ocmfClock clk), ("RV", kwh v), ("RI", obis), ("RU", "kWh"), ("RT", "DC"), ("ST", "G")]
  [("FV", "1.0"), ("GI", "DRIZAN DZ9648"), ("GS", toString s.serial), ("GV", State.fwText b.fwLegal)
  , ("PG", "T" ++ toString b.session ++ "-" ++ toString b.seg), ("MV", "Tarkibin Systems"), ("MM", "DZ9648")
  , ("MS", toString s.serial), ("MF", State.fwText b.fwLegal), ("IS", if b.idType ≠ 0 then "true" else "false")
  , ("IT", ocmfId b.idType b.ident), ("ID", idText b.idType b.ident), ("EF", ef)]
    ++ (b.members.flatMap fun m =>
      let o (d : String) : String := "1-" ++ toString (m.out + 1) ++ ":" ++ d ++ ".8.0"
      rd "B" m.tS m.clkS m.impS (o "1") ++ rd "E" m.tE m.clkE m.impE (o "1")
        ++ rd "B" m.tS m.clkS m.expS (o "2") ++ rd "E" m.tE m.clkE m.expE (o "2"))
    ++ [("SA", "ECDSA-secp256r1-SHA256"), ("SD", hexText (derSig (((r.sig.getD []).drop 4).take 64)))]

/-- Records signed and not yet released. -/
def State.unacked (s : State) : Nat := (s.leg.store.filter (·.sig.isSome)).length

/-- LEG_REC.PENDING and LEG_STATUS.FULL (R210). -/
def State.recRegs (s : State) : State :=
  (s.setSat LEG_REC_PENDING s.unacked).setFlag LEG_STATUS_FULL (decide (1024 ≤ s.unacked))

/-- A signing attempt of record `n`: queued with E:0x070A, and the marks at 896 and 1024 records; a failure counts, raises
E:0x070B once and is retried after 1 s (R210). -/
def State.signRecord (s : State) (n : Nat) (ok : Bool) : State :=
  match s.leg.store.find? fun r => r.num == n && r.sig.isNone with
  | none => s
  | some r =>
    match if ok then s.dmrSign r.body else none with
    | some sg =>
      let s := (s.stopTimer (.signRetry n)).updLeg fun l =>
        { l with store := l.store.map fun x => if x.num = n then { x with sig := some sg } else x }
      let s := (s.recRegs).event 0x070A [r.body.session]
      if s.unacked = 896 then s.event 0x070C [896] else if s.unacked = 1024 then s.event 0x070D [1024] else s
    | none =>
      let s := (s.inc LEG_ERR_SIGN).startTimer (.signRetry n)
      let s := s.iff ok (·.jobRefused (if (s.keyFor 3 engSig).isNone then 3 else 2))
      let s := s.iff (!r.failed) fun s => s.event 0x070B [r.body.session]
      s.updLeg fun l => { l with store := l.store.map fun x => if x.num = n then { x with failed := true } else x }

/-- RECORD_SIGNED: the signature engine ends its job on the oldest unsigned record, with or without success (R210). -/
def execRecordSigned (ok : Bool) (s : State) : Host.Outcome State Fault Refusal :=
  s.live (match s.leg.store.find? fun r => r.sig.isNone && !s.timing (.signRetry r.num) with
    | some r => if s.metOn then s.signRecord r.num ok else s
    | none => s)

/-- SIGNING_RETRY of a record (R210). -/
def execSigningRetry (rec_ : Nat) (ok : Bool) (s : State) : Host.Outcome State Fault Refusal :=
  s.live (if s.due (.signRetry rec_) sec then s.signRecord rec_ ok else s)

/-- OCMF records go out while a ring of type RECORD, instance 1, is enabled (R340). -/
def State.ocmfOn (s : State) : Bool :=
  (idx 64).any fun n => s.fld (RING_CFG_TYPE n) == 2 && s.fld (RING_CFG_INST n) == 1 && s.fld (RING_STAT_STATE n) != 0

/-- A record's completion is consumed: it is released once that holds on every ring it goes to (R210, R340). -/
def State.recConsumed (s : State) (n : Nat) (ocmf : Bool) : State :=
  let s := s.updLeg fun l =>
    { l with store := l.store.map fun r =>
        if r.num = n then { r with dmr := if ocmf then r.dmr else 2, ocmf := if ocmf then 2 else r.ocmf } else r }
  let on := s.ocmfOn
  (s.updLeg fun l =>
    { l with store := l.store.filter fun r => !(r.num == n && r.dmr == 2 && (r.ocmf == 2 || r.body.type != 1 || !on)) }).recRegs

/-! ### Tokens (R214 to R217) -/

/-- A token is refused: E:0x070F with the reason, counted; LOCK_N refusals in a row lock token entry, E:0x0710 (R215,
R217). -/
def State.tokRefuse (s : State) (j why : Nat) : State :=
  let s := ((s.inc LEG_ERR_TOK).event 0x070F [j, s.sess j, why]).inc TOK_STAT_FAILS
  if s.fld TOK_CFG_LOCK_N ≤ s.fld TOK_STAT_FAILS && !s.flag TOK_STAT_LOCKED then
    ((s.setFlag TOK_STAT_LOCKED true).startTimer .tokenLock).event 0x0710 [s.fld TOK_STAT_FAILS]
  else s

/-- Bytes over which CHK is computed: the class, then bits 63:10 shifted left by 2, as 7 bytes big-endian (Table 8.9). -/
def tokChkBytes (cls p : Nat) : List Byte := BitVec.ofNat 8 cls :: (toLE 7 (p / 2 ^ 10 * 4)).reverse

/-- Validation of a token entered for output `j` (R215, Table 8.10); the reason, or none and its TID, AMOUNT and class. -/
def State.tokCheck (s : State) (digits : List Nat) : Nat × Nat × Nat × Nat :=
  let n := digits.foldl (fun a d => a * 10 + d) 0
  if digits.length ≠ 20 ∨ digits.any (10 ≤ ·) ∨ 4 * 2 ^ 64 ≤ n then (1, 0, 0, 0)
  else
    let cls := n / 2 ^ 64
    if 2 ≤ cls then (2, 0, 0, 0)
    else match s.keyFor 8 engTok with
      | none => (9, 0, 0, 0)
      | some k =>
        let p := ff1Decrypt k.key (toLE 8 s.serial ++ [BitVec.ofNat 8 cls]) (n % 2 ^ 64) % 2 ^ 64
        let tid := p / 2 ^ 44
        let day : Nat := p / 2 ^ 10 % 2 ^ 14
        let today : Int := s.utcS s.now / 86400 - 22645
        if (p % 2 ^ 10 : Nat) ≠ crc32c (tokChkBytes cls p) % 2 ^ 10 then (3, 0, 0, 0)
        else if !(s.flag TIME_STATUS_VALID && decide ((day : Int) ≤ today + 1 ∧ today - day ≤ ((s.fld TOK_CFG_VALID_DAYS : Nat) : Int))) then (4, 0, 0, 0)
        else if tid ≤ s.fld TOK_FLOOR_FLOOR then (6, 0, 0, 0)
        else match s.leg.window.find? fun e => e.tid == tid with
          | some e => (if e.pending then 8 else 5, 0, 0, 0)
          | none => if s.leg.tokWait.any fun w => w.1 == tid then (8, 0, 0, 0) else (0, tid, p / 2 ^ 24 % 2 ^ 20, cls)

/-- The MC validates a token for output `j`: accepted, it waits for the next commit, E:0x070E (R215, R216). -/
def State.tokValidate (s : State) (j : Nat) (digits : List Nat) : State :=
  match s.tokCheck digits with
  | (0, tid, amount, cls) =>
    let s := (s.setFld TOK_STAT_FAILS 0).event 0x070E [j, s.sess j, tid]
    let s := s.tokSettle j false
    s.updLeg fun l =>
      { l with tokWait := l.tokWait ++ [(tid, j, if cls = 1 then amount * 1000 else amount, if cls = 1 then 2 else 1)] }
  | (why, _) => s.tokRefuse j why

/-- TOKEN_LOCK_EXPIRY: LOCK_T × 5 min of legal time have passed (R217). -/
def execTokenLockExpiry (s : State) : Host.Outcome State Fault Refusal :=
  s.live (if s.due .tokenLock (s.fld TOK_CFG_LOCK_T * 300 * sec) then
    ((s.stopTimer .tokenLock).setFlag TOK_STAT_LOCKED false).setFld TOK_STAT_FAILS 0 else s)

end Sys2Proof.Machine
end

