-- ==== Sys2Proof/Machine/Rings.lean ====
section
/-!
DEFINITION. The host rings: doorbells, the completion journal, delivery, MSI-X, link loss and starts, and the operations
that hand the module a buffer (spec/14). The content of host memory arrives with the commands: DB_TAIL carries the
descriptors that the module reads; what it writes stands in `sent` and `sblk` of the ring (log entry 14).
-/

namespace Sys2Proof.Machine

open Sys2Proof

def State.updHost (s : State) (f : HostSt → HostSt) : State := { s with host := f s.host }
def State.ring (s : State) (n : Nat) : RingSt := nth RingSt.off s.host.rings n
def State.updRing (s : State) (n : Nat) (f : RingSt → RingSt) : State := s.updHost fun h => { h with rings := upd h.rings n f }

/-- State of ring `n`: 0 OFF, 1 RUN, 2 RECOVER, 3 HELD, 4 ERROR. -/
def State.rstate (s : State) (n : Nat) : Nat := s.fld (RING_STAT_STATE n)
def State.rtype (s : State) (n : Nat) : Nat := s.fld (RING_CFG_TYPE n)
def State.rinst (s : State) (n : Nat) : Nat := s.fld (RING_CFG_INST n)

/-- Entries of ring `n`. -/
def State.rsize (s : State) (n : Nat) : Nat := 2 ^ s.fld (RING_SIZE_LOG2 n)

/-- Difference of two free-running indices (R331). -/
def dist32 (a b : Nat) : Nat := (a + 2 ^ 32 - b) % 2 ^ 32

/-- Journal slots in use. -/
def State.jused (s : State) : Nat := s.host.rings.foldl (fun a r => a + r.slots.length) 0

/-- HR_STATUS and the ring's OUTST (Table 14.14). -/
def State.hrRegs (s : State) (n : Nat) : State :=
  let any (k : Nat) : Bool := (idx 64).any fun m => s.rstate m == k
  let st := if !s.host.linkUp then 4 else if s.host.quiet then 3 else if any 3 then 2 else if any 2 then 1 else 0
  ((s.setSat (RING_STAT_OUTST n) (s.ring n).slots.length).setSat HR_STATUS_JUSED s.jused).setFld HR_STATUS_STATE st

/-- The engine may access host memory: the link is up, PD6 is on, and it is not quiescent (R344, R345). -/
def State.hostOn (s : State) : Bool := s.host.linkUp && !s.host.quiet && s.pdGood 6 && s.mode != 6

/-! ### Messages (R341) -/

/-- Send a message on a vector, to the address and with the data of its entry; a masked vector sets its pending bit. -/
def State.message (s : State) (v : Nat) : State :=
  s.updHost fun h =>
    if nth false h.mask v then { h with pend := h.pend.set v true }
    else
      let e := nth (0, 0) h.msix v
      { h with msgs := upd h.msgs v (· + 1), lastMsg := some (v, e.1, e.2) }

/-- A vector is unmasked: a pending message is sent. -/
def State.unmask (s : State) (v : Nat) : State :=
  let p := nth false s.host.pend v
  let s := s.updHost fun h => { h with mask := h.mask.set v false, pend := h.pend.set v false }
  s.iff (p && s.hostOn) (·.message v)

/-- Signal what ring `n` has delivered. -/
def State.signal (s : State) (n : Nat) : State :=
  let s := s.updRing n fun r => { r with unsig := 0 }
  s.iff s.hostOn (·.message (s.fld (RING_CFG_VEC n)))

/-- The status block follows the completions and comes before the message (R335). -/
def State.statusBlock (s : State) (n : Nat) : State :=
  s.iff s.hostOn (·.updRing n fun r => { r with sblk := ⟨s.fld (RING_ACK_ACK_IDX n), s.fld (RING_CPROD_CPROD n), r.dtail, s.rstate n, s.fld (RING_STAT_ERR n),
    s.fld HR_EPOCH_EPOCH⟩ })

/-- Change a ring's state: E:0x0D01 and a message (R341). -/
def State.setRing (s : State) (n st : Nat) : State :=
  if s.rstate n = st then s
  else ((((s.setFld (RING_STAT_STATE n) st).event 0x0D01 [n, st]).statusBlock n).signal n).hrRegs n

/-- Halt a ring: ERROR with the cause, E:0x0D02 (R338). -/
def State.haltRing (s : State) (n err : Nat) : State :=
  (((s.updRing n fun r => { r with waiting := [] }).setFld (RING_STAT_ERR n) err).setRing n 4).event 0x0D02 [n, err]

/-! ### Journal (R336 to R339, R342) -/

/-- Operations of a ring type (Tables 14.3, 14.13, 15.12). -/
def ringOps : Nat → List Nat
  | 1 => [1] | 2 => [1] | 3 => [1, 2, 3] | 4 => [1, 2, 3, 4] | 5 => [1] | 6 => [1]
  | 7 => [0x01, 0x10, 0x11, 0x12, 0x20, 0x21, 0x22, 0x24, 0x25, 0x26, 0x27, 0x28, 0x29, 0x2A, 0x2C, 0x30, 0x31, 0x32, 0x33,
      0x34, 0x35]
  | _ => []

/-- Least buffer of an operation (Table 14.3; the fixed formats of spec/09 R249 and spec/15). -/
def minBuf (type op inst : Nat) : Nat :=
  match type, op with
  | 1, _ => 32
  | 2, _ => if inst = 1 then 8192 else 2048
  | 4, 1 => 8192
  | 5, _ => 16416
  | 6, _ => 272
  | 7, 0x10 => 512 | 7, 0x20 => 32 | 7, 0x21 => 128 | 7, 0x30 => 4096
  | _, _ => 0

/-- An operation that hands the module an empty buffer. -/
def isRecv (type op : Nat) : Bool := op == 1 && (type == 1 || type == 2 || type == 4 || type == 5)

/-- What is wrong with an acknowledged descriptor: status and RESULT (R334, R338). -/
def State.descFault (s : State) (n : Nat) (d : Descr) : Option (Nat × Nat) :=
  let t := s.rtype n
  if d.type ≠ t then some (3, 8)
  else if !(ringOps t).contains d.op then some (11, 0)
  else if 2 ≤ d.flags then some (3, 10)
  else if d.buf % 8 ≠ 0 then some (3, 16)
  else if t = 1 ∧ d.len % 32 ≠ 0 then some (3, 24)
  else if d.len < minBuf t d.op (s.rinst n) then some (4, minBuf t d.op (s.rinst n))
  else none

/-- Change journal slot `num` of ring `n`. -/
def State.updSlot (s : State) (n num : Nat) (f : JSlot → JSlot) : State :=
  s.updRing n fun r => { r with slots := r.slots.map fun q => if q.num = num then f q else q }

/-- Step 3: the completion with its CIDX, once for each descriptor; BAD_DESC, UNSUPPORTED and BUF_ERR raise E:0x0D03 (R338, R342). -/
def State.completeWith (s : State) (n num status result : Nat) (data : List Byte) (held : Held) (cflags : Nat) : State :=
  match (s.ring n).slots.find? fun q => q.num == num && q.step != 3 with
  | none => s
  | some q =>
    let c : Compl :=
      { cidx := (s.ring n).cidx, didx := q.d.idx, tag := q.d.tag, status := status, op := q.d.op
        cflags := cflags ||| (if q.again then 1 else 0)
        len := data.length, result := result % 2 ^ 32, time := s.now, data := data, irq := q.d.flags % 2 == 1, held := held }
    let s := (s.stopTimer (.deadline num)).updSlot n num fun q => { q with step := 3, comp := some c }
    let s := s.updRing n fun r => { r with cidx := (r.cidx + 1) % 2 ^ 32 }
    let s := s.iff (status == 3 || status == 11) fun s => s.inc (RING_ERR_BAD n)
    s.iff (status == 3 || status == 4 || status == 11) fun s => s.event 0x0D03 [n, status]

/-- Complete with a status and RESULT. -/
def State.complete (s : State) (n num status result : Nat) : State := s.completeWith n num status result [] .none 0

/-- A DMA error: counted in RING_ERRn.DMA, with E:0x0D04 (R339, Table 14.15). -/
def State.dmaError (s : State) (n : Nat) : State :=
  let s := s.inc (RING_ERR_DMA n)
  s.event 0x0D04 [n, s.fld (RING_ERR_DMA n)]

/-- The buffer of a descriptor cannot be reached: BUF_ERR (Table 14.6). -/
def State.dmaFail (s : State) (n num : Nat) : State := (s.dmaError n).complete n num 4 0

/-- Complete OK with data in the buffer; a buffer too small for it completes with BUF_ERR and the length needed (R351). -/
def State.completeData (s : State) (n num result : Nat) (data : List Byte) (held : Held) : State :=
  match (s.ring n).slots.find? fun q => q.num == num with
  | some q => if q.d.len < data.length then s.complete n num 4 data.length else s.completeWith n num 0 result data held 0
  | none => s

/-- Acknowledge what waits while the window and the journal have room: IDX is checked, step 1 is written, ACK_IDX is
published; an invalid descriptor completes at once (R336 to R338). -/
def State.ackN : Nat → State → Nat → State
  | 0, s, _ => s
  | k + 1, s, n =>
    match (s.ring n).waiting with
    | [] => s
    | w :: rest =>
      if !(s.rstate n == 1 && s.pdGood 2 && !(s.ring n).closing && decide ((s.ring n).slots.length < s.fld (RING_CFG_WIN n)) && decide (s.jused < 4096))
      then s
      else match w with
        | none => s.haltRing n 5
        | some d =>
          let a := s.fld (RING_ACK_ACK_IDX n)
          if d.idx ≠ a then s.haltRing n 1
          else
            let num := s.host.nextSlot
            let s := (s.updRing n fun r => { r with waiting := rest, slots := r.slots ++ [⟨d, num, 1, none, false, s.now, false, false⟩] }).updHost
              fun h => { h with nextSlot := num + 1 }
            let s := s.iff (d.deadline != 0) (·.startTimer (.deadline num))
            let s := s.setFld (RING_ACK_ACK_IDX n) ((a + 1) % 2 ^ 32)
            let s := match s.descFault n d with
              | some (st, r) => s.complete n num st r
              | none => s
            State.ackN k s n

def State.acknowledge (s : State) (n : Nat) : State :=
  ((s.ackN (s.ring n).waiting.length n).statusBlock n).hrRegs n

/-- A ring that is being disabled and holds no descriptor is OFF (Table 14.14). -/
def State.closeRing (s : State) (n : Nat) : State :=
  s.iff ((s.ring n).closing && (s.ring n).slots.isEmpty) fun s =>
    (s.updRing n fun r => { r with closing := false }).setRing n 0

/-- Take a DB_TAIL value in RUN (R336, R338). -/
def State.takeTail (s : State) (n tail : Nat) (ds : List (Option Descr)) : State :=
  let a := s.fld (RING_ACK_ACK_IDX n)
  if 2 ^ 31 ≤ dist32 tail (s.ring n).dtail then s.haltRing n 2
  else if s.rsize n < dist32 tail a then s.haltRing n 3
  else
    let k := dist32 tail a
    (s.updRing n fun r => { r with dtail := tail, waiting := (ds ++ List.replicate k none).take k }).acknowledge n

/-- DB_TAIL: a new producer index, with the descriptors from ACK_IDX to it; latched while HELD, not taken in another state
(R336, R346, log entry 14). -/
def execDbTail (ring : Fin 64) (tail : Word) (descs : List (Option Descr)) (s : State) : Host.Outcome State Fault Refusal :=
  s.live (
    let n := ring.val
    if !s.hostOn then s
    else match s.rstate n with
      | 1 => s.takeTail n tail.toNat descs
      | 3 => s.updRing n fun r => { r with latched := some (tail.toNat, descs) }
      | _ => s)

/-! ### Delivery and consumption (R339 to R341) -/

/-- A completion is consumed: what it kept is released (R340). -/
def State.release (s : State) : Held → State
  | .record num ocmf => s.recConsumed num ocmf
  | .cup r => s.cupRecordSent r.ce r.buf
  | _ => s

/-- The data of a completion that the host never had are to be sent again (R343). -/
def State.resend (s : State) (n : Nat) : Held → State
  | .record num ocmf => s.updLeg fun l =>
    { l with store := l.store.map fun r =>
        if r.num = num then { r with dmr := if ocmf then r.dmr else 0, ocmf := if ocmf then 0 else r.ocmf } else r }
  | .cup r => s.updCup r.ce r.buf fun u => { u with records := r :: u.records }
  | .events first => s.updHost fun h => { h with evSent := upd h.evSent n fun k => min k first }
  | .request rid => { s with vehc := { s.vehc with posted := s.vehc.posted.map fun r => if r.rid = rid then { r with sent := false } else r } }
  | .none => s

/-- COMPLETION_DELIVERY: the oldest finished descriptor's completion is written, then CPROD, and both are confirmed; a full
completion ring makes it wait; a DMA error leaves it in the journal (R339, R341). -/
def execCompletionDelivery (ring : Fin 64) (ok : Bool) (s : State) : Host.Outcome State Fault Refusal :=
  s.live (
    let n := ring.val
    let p := s.fld (RING_CPROD_CPROD n)
    match (s.ring n).slots.find? fun q => (q.comp.map (·.cidx)) == some p with
    | none => s
    | some q => match q.comp with
      | none => s
      | some c =>
        if !(s.rstate n == 1 && s.hostOn) then s
        else if s.rsize n ≤ dist32 p (s.fld (RING_CHEAD_CHEAD n)) then
          s.iff (!(s.ring n).told07) fun s =>
            ((s.updRing n fun r => { r with told07 := true }).inc (RING_ERR_WAIT n)).event 0x0D07
              [n, ((s.ring n).slots.filter fun x => x.step == 3).length]
        else if !ok then s.dmaError n
        else
          let s := s.updRing n fun r =>
            { r with slots := r.slots.filter fun x => x.num != q.num, unread := r.unread ++ [(p, c.held)], sent := some c, unsig := r.unsig + 1
                     unsigAt := if r.unsig = 0 then s.age else r.unsigAt }
          let s := (s.setFld (RING_CPROD_CPROD n) ((p + 1) % 2 ^ 32)).statusBlock n
          let now := c.irq || s.fld (RING_COAL_COAL_T n) == 0 || decide (s.fld (RING_COAL_COAL_N n) ≤ (s.ring n).unsig)
          (((s.iff now (·.signal n)).acknowledge n).closeRing n).hrRegs n)

/-- Take a DB_CHEAD value: completions are consumed up to it, and what they kept is released; an index past CPROD or backwards
halts the ring (R338, R340). -/
def State.takeHead (s : State) (n head : Nat) : State :=
  let h := s.fld (RING_CHEAD_CHEAD n)
  let p := s.fld (RING_CPROD_CPROD n)
  let k := dist32 head h
  if dist32 p h < k then s.haltRing n 4
  else
    let gone := (s.ring n).unread.take k
    let s := (s.updRing n fun r => { r with unread := r.unread.drop k }).setFld (RING_CHEAD_CHEAD n) head
    s.each gone fun s e => s.release e.2

/-- DB_CHEAD: taken in RUN, latched while HELD, not taken in another state (R340, R346; DEDUCED, log entry 14). -/
def execDbChead (ring : Fin 64) (head : Word) (s : State) : Host.Outcome State Fault Refusal :=
  s.live (
    let n := ring.val
    if !s.hostOn then s
    else match s.rstate n with
      | 1 => s.takeHead n head.toNat
      | 3 => s.updRing n fun r => { r with latchedHead := some head.toNat }
      | _ => s)

/-- COALESCE_TIMEOUT: COAL_T has passed since the first completion not yet signalled (R341). -/
def execCoalesceTimeout (ring : Fin 64) (s : State) : Host.Outcome State Fault Refusal :=
  s.live (if decide (0 < (s.ring ring).unsig) && s.fld (RING_COAL_COAL_T ring) != 0 && s.hostOn
      && decide ((s.ring ring).unsigAt + s.fld (RING_COAL_COAL_T ring) * 1000 ≤ s.age) then s.signal ring else s)

/-- MSIX_UNMASK: a pending message is sent (R341). -/
def execMsixUnmask (vec : Fin 64) (s : State) : Host.Outcome State Fault Refusal :=
  s.live (s.unmask vec)

/-- DESCRIPTOR_EXPIRED: not started by its DEADLINE (R339). -/
def execDescriptorExpired (ring : Fin 64) (didx : Nat) (s : State) : Host.Outcome State Fault Refusal :=
  s.live (match (s.ring ring).slots.find? fun q => q.step == 1 && q.d.idx == didx with
    | some q => if s.due (.deadline q.num) (q.d.deadline * ms) then s.complete ring q.num 5 0 else s
    | none => s)

/-! ### Serving an operation -/

/-- Core that serves a ring: none for the event log engine (Table 14.3). -/
def servingCore (type inst : Nat) : Option Nat :=
  match type with
  | 2 => some 2 | 3 => some 2 | 4 => some (3 + inst) | 5 => some (5 + inst) | 6 => some 7 | 7 => some 1 | _ => none

/-- Acknowledged descriptors of the ring may run: RUN, ERROR, or RECOVER after a link loss, with the journal's MRAM powered (R338,
R344, spec/01 R13); without a valid bank only COMMAND rings are served (spec/15 R368). -/
def State.ringRuns (s : State) (n : Nat) : Bool :=
  (s.rstate n == 1 || s.rstate n == 4 || (s.rstate n == 2 && !(s.ring n).restart)) && !s.host.quiet && s.pdGood 2
    && (!s.keys.noBank || s.rtype n == 7)
    && (match servingCore (s.rtype n) (s.rinst n) with
        | some c => s.coreRuns c
        | none => true)

/-- The descriptor that an operation would start: the next in index order; on COMMAND, OBJECT and READER rings none while
one runs; a RECV descriptor that waits for data holds nothing back (R339). -/
def State.nextDesc (s : State) (n op : Nat) : Option JSlot :=
  let qs := (s.ring n).slots
  let serial := s.rtype n == 3 || s.rtype n == 6 || s.rtype n == 7
  if serial && qs.any (fun q => q.step == 2) then none
  else match (qs.filter fun q => q.step == 1).find? fun q => !isRecv (s.rtype n) q.d.op || q.d.op == op with
    | some q => if q.d.op = op then some q else none
    | none => none

/-- The session was opened while the time was not valid (spec/15 R361). -/
def State.sessFlagged (s : State) (h : Nat) : Bool := s.keys.roles.any fun r => r.handle == h && r.flagged

/-- Serve operation `op` of a ring of type `t`: past its deadline the descriptor completes with EXPIRED; else step 2 is
written and `f` serves it, and its session stays open (R339, R342, spec/15 R362). Events that a flagged session causes carry TIME_INVALID (spec/15 R361). -/
def State.serve (s : State) (n t op : Nat) (f : JSlot → State → State) : State :=
  if s.rtype n = t ∧ s.ringRuns n then
    match s.nextDesc n op with
    | none => s
    | some q =>
      if q.d.deadline ≠ 0 ∧ s.due (.deadline q.num) (q.d.deadline * ms + 1) then s.complete n q.num 5 0
      else
        let u := s.host.unsure
        let t := (((s.touchRole q.d.sess).stopTimer (.deadline q.num)).updSlot n q.num fun x => { x with step := 2 }).updHost fun h =>
          { h with unsure := u || s.sessFlagged q.d.sess }
        (((f q t).updHost fun h => { h with unsure := u }).closeRing n).hrRegs n
  else s

/-- The module holds the command token, where there is one (R348). -/
def State.holdsToken (s : State) : Bool := !s.flag CQ_GCFG_TWIN_EN || s.flag CQ_GCFG_TOK

/-- Field of the INLINE bytes of a descriptor. -/
def JSlot.inl (q : JSlot) (start len : Nat) : Nat := leAt q.d.inline start len

/-- Serve data of the module's own, `waiting` items of it, into a RECV descriptor: with data and no descriptor E:0x0D08 at most once per SF; a DMA
error completes BUF_ERR, and the data wait (R339). -/
def State.serveRecv (s : State) (n t waiting : Nat) (dma : Bool) (f : JSlot → State → State) : State :=
  if s.rtype n = t ∧ waiting ≠ 0 ∧ (s.nextDesc n 1).isNone ∧ s.rstate n = 1 then
    s.iff (!(s.ring n).told08) fun s => (s.updRing n fun r => { r with told08 := true }).event 0x0D08 [n, waiting]
  else if waiting ≠ 0 then
    s.serve n t 1 fun q s => if dma then f q s else s.dmaFail n q.num
  else s

/-! ### Operations that hand over a buffer -/

/-- The instance that a register of BAR0 belongs to: the suffix of the owning chapter's event lines, and the number; none for a register
of its whole subject. Slaves are numbered by address. -/
def offInst (off : Nat) : Option (Suffix × Nat) :=
  match findReg off with
  | some (_, n :: _) =>
    match off / 0x10000 with
    | 0x02 => some (.cq, n)
    | 0x03 => some (.ce, n)
    | 0x04 => some (if off < 0x40100 then .feed else if off < 0x40300 then .out else if off < 0x40400 then .bnd else .cq, n)
    | 0x05 => some (.out, n)
    | 0x06 => some (if off < 0x60400 then .out else .feed, n)
    | 0x09 => some (if off < 0x90100 then .lr else if off < 0x90400 then .ps else .so, n)
    | 0x0A => some (.pnl, n)
    | 0x0B => some (.nr, n)
    | 0x0C => some (.ml, n + 1)
    | 0x0D => some (.ring, n)
    | 0x0E => some (.bank, n)
    | 0x0F => some (if off < 0xF0400 then .mem else .cvu, n)
    | _ => none
  | _ => none

/-- The instance of an event, which its data name (R9): the suffix that the owning chapter gives its event lines, and the number. A
refused write (E:0xSSF1, E:0xSSF2) has its register's; events of no one instance have none. -/
def Event.inst (e : Event) : Suffix × Nat :=
  let cc := e.code % 256
  let d := nth 0 e.data 0
  let conv : Suffix × Nat := if d < 8 then (.out, d) else (.feed, d - 8)
  if (cc = 0xF1 ∨ cc = 0xF2) ∧ e.code ≠ 0x08F2 then (offInst d).getD (.none, 0)
  else if 0xF0 ≤ cc ∨ e.data.isEmpty then (if e.code / 256 = 0x10 ∧ cc < 0xF0 then
      (if 3 ≤ cc ∧ cc ≤ 0x0A then .sup else if 0x0B ≤ cc ∧ cc ≤ 0x0F then .cap else if 0x11 ≤ cc then .tw else .none, 0)
    else if e.code / 256 = 0x0B ∧ 0x10 ≤ cc ∧ cc < 0xF0 then (.nt, 0)
    else if e.code = 0x0A12 then (.kp, 0) else (.none, 0))
  else match e.code / 256 with
    | 0x02 => (.cq, d)
    | 0x03 => (.ce, d)
    | 0x04 =>
      if cc ≤ 4 then (.cq, d) else if 0x0A ≤ cc ∧ cc ≤ 0x0C then (.feed, d) else if cc = 0x0E ∨ cc = 0x0F then (.bnd, d) else (.out, d)
    | 0x05 => (.out, d)
    | 0x06 => if 0x0D ≤ cc ∧ cc ≤ 0x0F then (.feed, d) else conv
    | 0x07 => if cc = 3 ∨ cc = 0x17 then conv else if cc = 0x0E ∨ cc = 0x0F then (.out, d) else (.none, 0)
    | 0x08 =>
      if 7 ≤ cc ∧ cc ≤ 9 ∨ cc = 0x1D then (.sin, d)
      else if 5 ≤ cc ∧ cc ≤ 0x0E ∨ (0x1B ≤ cc ∧ d < 8) then (.out, d) else (.none, 0)
    | 0x09 => if cc ≤ 9 ∨ cc = 0x0E then (.ps, d) else if cc ≤ 0x0C then (.lr, d) else if cc = 0x24 then (.none, 0) else (.so, d)
    | 0x0A => if cc = 0x10 ∨ cc = 0x11 then (.kp, 0) else (.pnl, d)
    | 0x0B => if cc ≤ 7 then (.nr, d) else (.nt, 0)
    | 0x0C => (.ml, d)
    | 0x0D => if cc = 0x0A then (.none, 0) else (.ring, d)
    | 0x0E => if cc = 0x10 ∨ cc = 0x11 then (.slot, d) else if cc ≤ 0x0D ∧ cc ≠ 5 ∧ cc ≠ 6 ∧ cc ≠ 7 then (.bank, d) else (.none, 0)
    | 0x0F => if cc ≤ 7 then (.mem, d) else if 9 ≤ cc ∧ cc ≤ 0x0B then (.cvu, d) else (.none, 0)
    | 0x10 =>
      (if 3 ≤ cc ∧ cc ≤ 0x0A then .sup else if 0x0B ≤ cc ∧ cc ≤ 0x0F then .cap else if 0x11 ≤ cc then .tw else .none, 0)
    | _ => (.none, 0)

/-- The lane that an event of a CE concerns (spec/04 R108). -/
def Event.lane (e : Event) : Option Nat := if 0x0311 ≤ e.code ∧ e.code ≤ 0x0316 then e.data[1]? else none

/-- Instance kind of the event records (spec/12 Table 12.4); the other suffixes are kind 0. -/
def Suffix.kind : Suffix → Nat
  | .out => 1 | .cq => 2 | .ce => 3 | .bnd => 4 | .feed => 5 | .ps => 6 | .lr => 7 | .so => 8 | .sin => 9 | .pnl => 10
  | .kp => 11 | .nr => 12 | .nt => 13 | .none | .ml | .ring | .bank | .slot | .mem | .cvu | .sup | .cap | .tw => 0

/-- Data word of an event: the slave's address on the Mallas link, and the technician's identifier of a MARK; else its packing is not
given (spec/12 Tables 12.4, 12.7, spec/13 R326). -/
def Event.word (e : Event) : Nat :=
  if e.code = 0x0B16 ∨ (e.code / 256 = 0x0C ∧ e.code ≠ 0x0C07) then e.data.headD 0 else Config.eventWord e.code e.data

/-- An event record of 32 bytes (spec/12 Table 12.4); `seq` is the event sequence number. -/
def eventBytes (e : Event) (seq : Nat) : List Byte :=
  let i := e.inst
  let b := toLE 8 e.time ++ toLE 2 (enc 16 e.ofs) ++ toLE 2 e.code ++ toLE 4 e.word ++ toLE 1 i.1.kind
    ++ toLE 1 (if i.1.kind = 0 then 0 else i.2)
    ++ toLE 2 (b2n e.invalid) ++ toLE 4 seq ++ toLE 4 0
  b ++ toLE 4 (crc32c b)

/-- RECV_EVENTS: events that the ring has not yet had, oldest first, as many as the buffer takes (R330, R340). -/
def execRecvEvents (ring : Fin 64) (dma : Bool) (s : State) : Host.Outcome State Fault Refusal :=
  s.live (
    let n := ring.val
    let k := nth 0 s.host.evSent n
    s.serveRecv n 1 (s.logged.length - k) dma fun q s =>
      let es := ((s.logged.reverse).drop k).take (q.d.len / 32)
      let s := s.updHost fun h => { h with evSent := h.evSent.set n (k + es.length) }
      s.completeData n q.num 0 (es.mapIdx fun i e => eventBytes e (k + i + 1)).flatten (.events k))

/-- RECV_RECORD: the oldest signed record that the ring has not yet had, DMR or OCMF (R210, R213, R340). -/
def execRecvRecord (ring : Fin 64) (dma : Bool) (s : State) : Host.Outcome State Fault Refusal :=
  s.live (
    let n := ring.val
    let oc := s.rinst n == 1
    let rs := s.leg.store.filter fun r => r.sig.isSome && (if oc then r.ocmf == 0 && r.body.type == 1 else r.dmr == 0)
    match rs.head? with
    | none => s
    | some r => s.serveRecv n 2 rs.length dma fun q s =>
      let s := s.updLeg fun l =>
        { l with store := l.store.map fun x =>
            if x.num = r.num then { x with dmr := if oc then x.dmr else 1, ocmf := if oc then 1 else x.ocmf } else x }
      let b := if oc then Config.ocmfText (s.ocmfFields r) else s.dmrBytes r.body ++ r.sig.getD []
      if q.d.len < b.length then (s.resend n (.record r.num oc)).complete n q.num 4 b.length
      else s.completeWith n q.num 0 0 b (.record r.num oc) 0)

/-- A vehicle request as the buffer holds it (Table 14.11). -/
def reqBytes (r : HostReq) : List Byte :=
  toLE 4 r.rid ++ toLE 1 r.kind ++ toLE 1 r.out ++ toLE 1 r.idType ++ toLE 1 (min 40 r.ident.length) ++ toLE 4 r.session
    ++ (r.ident ++ List.replicate 40 0).take 40 ++ toLE 8 r.tai ++ toLE 4 r.deadlineMs ++ toLE 4 r.payload.length ++ r.payload

/-- RECV_REQ: the oldest request of the ring's VC that the host has not had; RESULT is its RID (R349). -/
def execRecvReq (ring : Fin 64) (dma : Bool) (s : State) : Host.Outcome State Fault Refusal :=
  s.live (
    let n := ring.val
    let rs := s.vehc.posted.filter fun r => !r.sent && s.outVc r.out == s.rinst n
    match rs.head? with
    | none => s
    | some r => s.serveRecv n 4 rs.length dma fun q s =>
      if q.d.len < (reqBytes r).length then s.complete n q.num 4 (reqBytes r).length
      else
        let s : State := { s with vehc := { s.vehc with posted := s.vehc.posted.map fun x => if x.rid = r.rid then { x with sent := true } else x } }
        s.completeWith n q.num 0 r.rid (reqBytes r) (.request r.rid) 0)

/-- A cupping record as the buffer holds it (spec/04 Table 4.8, R103). -/
def cupBytes (r : CupRecord) : List Byte :=
  let f := r.samples.headD ⟨0, 0, 0, 0, 0⟩
  toLE 1 r.ce ++ toLE 1 r.buf ++ toLE 2 r.dec ++ toLE 8 f.time ++ toLE 8 f.sf ++ toLE 2 f.cf ++ toLE 2 r.src
    ++ toLE 4 (r.trig.getD 0xFFFFFFFF) ++ toLE 2 r.gaps ++ toLE 2 r.samples.length
    ++ r.samples.flatMap fun x => toLE 1 (enc 8 x.exp) ++ toLE 3 (enc 24 x.mant)

/-- RECV_TRACE: the oldest record of a buffer of the ring's CE (R105, R106, R330). -/
def execRecvTrace (ring : Fin 64) (dma : Bool) (s : State) : Host.Outcome State Fault Refusal :=
  s.live (
    let n := ring.val
    let c := s.rinst n
    let rs := (idx 8).flatMap fun b => (s.cup c b).records
    match rs.head? with
    | none => s
    | some r => s.serveRecv n 5 rs.length dma fun q s =>
      let s := s.updCup c r.buf fun u => { u with records := u.records.drop 1 }
      s.completeWith n q.num 0 0 (cupBytes r) (.cup r) 0)

/-! ### Answers of the host (R349, R151) -/

/-- Certificates: the payload for the vehicle, or a failure, E:0x050B (R151, Table 6.19). -/
def State.answerCert (s : State) (j : Nat) (ok : Bool) (payload : List Byte) : State :=
  let s := (s.stopTimer (.cert j)).updVh j fun v =>
    { v with certReq := none, certAns := if ok then 1 else 2, certPay := if ok then payload else [] }
  s.iff (!ok) fun s => s.event 0x050B [j, s.sess j]

/-- Authorisation: accepted, the session goes on with its credit limit; refused, E:0x050A and reason 3 (R151). -/
def State.answerAuth (s : State) (j : Nat) (ok : Bool) (unit limit : Nat) : State :=
  if ok then
    let s := (s.updVh j fun v => { v with credit := limit, creditUnit := unit }).tokSettle j true
    (s.passAuth j).creditCheck
  else ((s.tokSettle j false).event 0x050A [j, s.sess j]).endNow j 3

/-- ANSWER: applied; LATE once its request is no longer awaited; REFUSED 1 for an unknown RID; NOT_HOLDER without the
token; a VERDICT that Table 14.12 does not name is an invalid field (R348, R349; DEDUCED, log entry 81). -/
def execAnswer (ring : Fin 64) (s : State) : Host.Outcome State Fault Refusal :=
  s.live (
    let n := ring.val
    s.serve n 4 2 fun q s =>
      let rid := q.inl 0 4
      let vdct := q.inl 4 1
      if !s.holdsToken then s.complete n q.num 7 0
      else if 2 < vdct then s.complete n q.num 3 36
      else match s.vehc.posted.find? fun r => r.rid == rid with
        | none => s.complete n q.num 1 1
        | some r =>
          let j := r.out
          let v := s.vh j
          let awaited := if r.kind = 1 then v.authReq == some rid && !s.due (.auth j) (s.fld VD_TMO0_AUTH_TMO * 10 * ms)
            else v.certReq == some rid && !s.due (.cert j) (s.fld VD_TMO0_CERT_TMO * 100 * ms)
          let done : State := { s with vehc := { s.vehc with posted := s.vehc.posted.filter fun x => x.rid != rid || !awaited } }
          if !awaited then done.complete n q.num 8 0
          else if r.kind = 1 then (done.answerAuth j (vdct == 1) (q.inl 5 1) (q.inl 8 8)).complete n q.num 0 0
          else match q.d.data with
            | none =>
              if vdct = 1 then s.dmaFail n q.num
              else (done.answerCert j false []).complete n q.num 0 0
            | some b => (done.answerCert j (vdct == 1) b).complete n q.num 0 0)

/-- STOP: an EVSE stop with reason 2, as VD_CTRLj.STOP makes it (R149, R349). -/
def execStop (ring : Fin 64) (s : State) : Host.Outcome State Fault Refusal :=
  s.live (
    let n := ring.val
    s.serve n 4 3 fun q s =>
      if !s.holdsToken then s.complete n q.num 7 0
      else if s.nOuts ≤ q.inl 0 1 then s.complete n q.num 3 32
      else (s.hostStop (q.inl 0 1)).complete n q.num 0 0)

/-- PRICE: the price table of an output; `fits` says whether it fits the protocol in use (R142, R349). -/
def execPrice (ring : Fin 64) (fits : Bool) (s : State) : Host.Outcome State Fault Refusal :=
  s.live (
    let n := ring.val
    s.serve n 4 4 fun q s =>
      let j := q.inl 0 1
      if !s.holdsToken then s.complete n q.num 7 0
      else if s.nOuts ≤ j then s.complete n q.num 3 32
      else match q.d.data with
        | none => s.dmaFail n q.num
        | some b => if fits then (s.updVh j fun v => { v with price := b }).complete n q.num 0 0 else s.complete n q.num 1 2)

/-! ### Ring control (R329, R343, Table 14.14) -/

/-- ENABLE: OFF to RUN, with the indices in force. -/
def State.ringEnable (s : State) (n : Nat) : State :=
  if s.rstate n = 0 ∧ s.rtype n ≠ 0 ∧ s.hostOn then (s.updRing n fun r => { r with closing := false, restart := false, waiting := [], dtail := s.fld (RING_ACK_ACK_IDX n) }).setRing n 1 else s

/-- DISABLE: acknowledging stops, posted RECV descriptors complete with CANCELLED, the others run to completion; then
OFF. -/
def State.ringDisable (s : State) (n : Nat) : State :=
  if s.rstate n = 1 then
    let posted := (s.ring n).slots.filter fun q => q.step == 1 && isRecv (s.rtype n) q.d.op
    let s := s.updRing n fun r => { r with closing := true, waiting := [] }
    ((s.each posted fun s q => s.complete n q.num 9 0).closeRing n).hrRegs n
  else s

/-- Operation that needs the command token (R348). -/
def needsToken (type op : Nat) : Bool := (type == 4 && op != 1) || type == 6 || (type == 7 && op == 1)

/-- What becomes of a descriptor found at a start (Table 14.9): none, it is used or executed normally; else its status and
RESULT, with E:0x0D06. -/
def State.afterStart (s : State) (n : Nat) (q : JSlot) : Option (Nat × Nat) :=
  let t := s.rtype n
  if q.lost then some (6, 2)
  else if q.step = 1 then
    if isRecv t q.d.op ∨ (t = 3 ∧ q.d.op = 1) then none
    else if needsToken t q.d.op && !s.holdsToken then some (7, 0)
    else some (5, 0)
  else if t = 3 ∧ q.d.op = 1 then none
  else if (t = 3 ∨ t = 7) ∧ q.applied then some (0, 0)
  else some (6, 0)

/-- RESUME: the host's memory is intact. After a start, stored completions are marked REPLAY, and the others complete under
Table 14.9; the ring enters RUN (R343). -/
def State.ringResume (s : State) (n : Nat) : State :=
  if s.rstate n = 2 ∧ s.hostOn then
    let s := if (s.ring n).restart then
        let qs := (s.ring n).slots
        let done := qs.filter fun q => q.step == 3 && !q.lost
        let s := s.updRing n fun r =>
          { r with slots := r.slots.map fun q => if q.step = 3 ∧ !q.lost then { q with comp := q.comp.map fun c => { c with cflags := c.cflags ||| 1 } } else q }
        let forced := qs.filter fun q => q.step != 3 && (s.afterStart n q).isSome
        let s := s.each forced fun s q =>
          match s.afterStart n q with
          | some (st, r) => s.completeWith n q.num st r [] .none (if st = 0 then 1 else 0)
          | none => s
        let s := s.updRing n fun r => { r with slots := r.slots.map fun q => if q.step = 2 then { q with step := 1, again := true } else q }
        let late := qs.filter fun q => (q.step != 3 || q.lost) && (match s.afterStart n q with
          | some (st, _) => st == 5 || st == 6
          | none => false)
        let s := s.iff (!done.isEmpty) fun s =>
          (s.setSat (RING_ERR_REPLAY n) (s.fld (RING_ERR_REPLAY n) + done.length)).event 0x0D05 [n, done.length]
        let lost := forced.filter fun q => match s.afterStart n q with
          | some (7, _) => true
          | _ => false
        let s := s.iff (!lost.isEmpty) fun s => s.event 0x0D0C [n, lost.length]
        s.iff (!late.isEmpty) fun s => s.event 0x0D06 [n, late.length]
      else s
    (s.updRing n fun r => { r with restart := false, waiting := [] }).setRing n 1
  else s

/-- FLUSH: outstanding completions count as consumed and their data are sent again; descriptors in the journal complete with
FLUSHED set, those that a start left done count as replayed; the ring enters RUN (R342, R343). -/
def State.ringFlush (s : State) (n : Nat) : State :=
  if (s.rstate n = 1 ∨ s.rstate n = 2 ∨ s.rstate n = 4) ∧ s.hostOn then
    let r := s.ring n
    let lost := r.unread
    let fl := 2 + (if r.restart then 1 else 0)
    let s := s.each lost.reverse fun s e => s.resend n e.2
    let s := (s.updRing n fun r => { r with unread := [], waiting := [], dtail := s.fld (RING_ACK_ACK_IDX n) }).setFld (RING_CHEAD_CHEAD n) (s.fld (RING_CPROD_CPROD n))
    let s := s.event 0x0D09 [n, lost.length]
    let keep := s.rtype n == 3 || s.rtype n == 7
    let s := s.each r.slots fun s q =>
      match q.step, q.comp with
      | 1, _ => if q.lost then s.completeWith n q.num 6 2 [] .none 2 else s.completeWith n q.num 9 0 [] .none 2
      | 2, _ => s.completeWith n q.num 6 (if q.lost then 2 else b2n q.applied) [] .none 2
      | _, some c =>
        let s := s.iff (!keep) (·.resend n c.held)
        s.updSlot n q.num fun x =>
          { x with comp := some (if keep ∨ q.lost then { c with cflags := c.cflags ||| (if q.lost then 2 else fl) }
              else { c with status := 9, result := 0, len := 0, data := [], held := .none, cflags := c.cflags ||| fl }) }
      | _, none => s
    let cut := r.slots.filter fun q => q.step == 2 || q.lost
    let again := r.slots.filter fun q => q.step == 3 && keep && !q.lost
    let s := s.iff (r.restart && !again.isEmpty) fun s =>
      (s.setSat (RING_ERR_REPLAY n) (s.fld (RING_ERR_REPLAY n) + again.length)).event 0x0D05 [n, again.length]
    let s := s.iff (r.restart && !cut.isEmpty) fun s => s.event 0x0D06 [n, cut.length]
    let s := (s.updRing n fun r => { r with restart := false, closing := false }).setFld (RING_STAT_ERR n) 0
    (s.setRing n 1).hrRegs n
  else s

def execEnable (ring : Fin 64) (s : State) : Host.Outcome State Fault Refusal := s.live (s.ringEnable ring)
def execDisable (ring : Fin 64) (s : State) : Host.Outcome State Fault Refusal := s.live (s.ringDisable ring)
def execResume (ring : Fin 64) (s : State) : Host.Outcome State Fault Refusal := s.live (s.ringResume ring)
def execFlush (ring : Fin 64) (s : State) : Host.Outcome State Fault Refusal := s.live (s.ringFlush ring)

/-! ### Link, starts, activation (R343 to R347) -/

/-- Enabled rings go to RECOVER; a ring in ERROR stays there at a link loss, and one that is being disabled goes on to OFF after it (R344,
log entries 14 and 81). -/
def State.ringsRecover (s : State) (start : Bool) : State :=
  s.each (idx 64) fun s n =>
    if s.rstate n = 1 ∨ s.rstate n = 3 ∨ (start ∧ (s.rstate n = 2 ∨ s.rstate n = 4)) then
      (s.updRing n fun r =>
        { r with waiting := [], latched := none, latchedHead := none, dtail := s.fld (RING_ACK_ACK_IDX n)
                 restart := r.restart || start, closing := r.closing && !start }).setRing n 2
    else s

/-- The link goes down: host access stops, enabled rings enter RECOVER, E:0x0D0A (R344). -/
def State.hostLinkDown (s : State) : State :=
  if s.host.linkUp then
    let s := s.updHost fun h => { h with linkUp := false }
    let s := ((s.inc HR_ERR_LINKDN).setFld HR_LINK_WIDTH 0).setFld HR_LINK_SPEED 0
    ((s.ringsRecover false).event 0x0D0A [0]).hrRegs 0
  else s

/-- LINK_DOWN (R344). -/
def execLinkDown (s : State) : Host.Outcome State Fault Refusal := s.live s.hostLinkDown

/-- The link goes with its supply, a freeze or a start: E:0x0D0A follows when it is up again (R347, Table 14.10). -/
def State.linkGone (s : State) : State :=
  s.iff s.host.linkUp fun s =>
    ((s.updHost fun h => { h with linkUp := false, linkLost := true }).setFld HR_LINK_WIDTH 0).setFld HR_LINK_SPEED 0

/-- FUNCTION_LEVEL_RESET (R344): the MSI-X table and the function's settings are as at reset, and every vector is masked (PRESUMED,
log entry 80). -/
def execFunctionLevelReset (s : State) : Host.Outcome State Fault Refusal :=
  s.live (if s.host.linkUp then ((((s.inc HR_ERR_FLR).ringsRecover false).event 0x0D0A [1]).hrRegs 0).updHost fun h =>
      { h with mask := HostSt.reset.mask, pend := HostSt.reset.pend, msix := HostSt.reset.msix, mrrs := HostSt.reset.mrrs }
  else s)

/-- PCIE_LINK_UP: HR_LINK reports speed and width; a loss that a start followed is logged now, E:0x0D0A (R344, Table 14.10). -/
def execPcieLinkUp (speed : Fin 3) (width : Fin 5) (s : State) : Host.Outcome State Fault Refusal :=
  s.live (if s.pdGood 6 && s.mode != 6 then
    let s := s.iff s.host.linkLost fun s => (s.inc HR_ERR_LINKDN).event 0x0D0A [0]
    ((((s.updHost fun h => { h with linkUp := true, quiet := false, linkLost := false }).setFld HR_LINK_SPEED (speed + 1)).setFld
      HR_LINK_WIDTH width).hrRegs 0)
  else s)

/-- At a start the journal is read: torn steps count as never written, E:0x0D0B; unreadable slots complete INTERRUPTED with
bit 1, E:0x0D0D, and their data are sent again; every enabled ring enters RECOVER; deadlines go on from the
acknowledgements' legal times (R342, R343, Table 14.8). -/
def State.journalStart (s : State) (torn unread : List Nat) : State :=
  let has (s : State) (num : Nat) : Option (Nat × JSlot) :=
    (idx 64).findSome? fun n => ((s.ring n).slots.find? fun q => q.num == num).map (n, ·)
  let s := s.each torn fun s num =>
    match has s num with
    | none => s
    | some (n, q) =>
      let s := match q.step with
        | 1 =>
          let s := s.iff (s.fld (RING_ACK_ACK_IDX n) == (q.d.idx + 1) % 2 ^ 32) (·.setFld (RING_ACK_ACK_IDX n) q.d.idx)
          s.updRing n fun r => { r with slots := r.slots.filter fun x => x.num != num }
        | 2 => s.updSlot n num fun x => { x with step := 1 }
        | _ =>
          let s := match q.comp with
            | some c => s.resend n c.held
            | none => s
          (s.updSlot n num fun x => { x with step := 2, comp := none }).updRing n fun r => { r with cidx := dist32 r.cidx 1 }
      let s := s.inc HR_ERR_TORN
      s.event 0x0D0B [n, s.fld HR_ERR_TORN]
  let s := s.each unread fun s num =>
    match has s num with
    | none => s
    | some (n, q) =>
      let s := s.inc HR_ERR_UNREAD
      let s := s.event 0x0D0D [n, s.fld HR_ERR_UNREAD]
      if q.step = 3 then
        let s := match q.comp with
          | some c => s.resend n c.held
          | none => s
        s.updSlot n num fun x =>
          { x with lost := true, comp := x.comp.map fun c => { c with status := 6, result := 2, len := 0, data := [], held := .none } }
      else s.updSlot n num fun x => { x with lost := true }
  let s := ((s.linkGone).updHost fun h => { h with quiet := false }).setFld HR_EPOCH_EPOCH (s.fld HR_EPOCH_EPOCH + 1)
  let s := s.each ((idx 64).flatMap fun n => (s.ring n).slots.filter fun q => q.step == 1 && q.d.deadline != 0) fun s q =>
    s.setTimer (.deadline q.num) (s.now - q.ackAt)
  ((s.ringsRecover true).setReg R_HR_LINK 0).hrRegs 0

/-- The activation pause holds every ring but EVENT, RECORD and OBJECT; descriptors that had started complete under Table 14.9,
without REPLAY, but for the ACTIVATE itself (R346). -/
def State.ringsHold (s : State) (own : Nat) : State :=
  s.each (idx 64) fun s n =>
    if s.rstate n = 1 ∧ !(s.rtype n == 1 || s.rtype n == 2 || s.rtype n == 3) then
      let s := s.setRing n 3
      let cut := (s.ring n).slots.filter fun q => q.step == 2 && q.num != own
      let gone := cut.filter fun q => !q.applied
      let s := s.each cut fun s q => match s.afterStart n q with
        | some (st, r) => s.complete n q.num st r
        | none => s
      (s.iff (!gone.isEmpty) fun s => s.event 0x0D06 [n, gone.length]).hrRegs n
    else s

/-- The pause ends: held rings run, and latched doorbells are taken (R346). -/
def State.ringsUnhold (s : State) : State :=
  s.each (idx 64) fun s n =>
    if s.rstate n = 3 then
      let s := s.setRing n 1
      let r := s.ring n
      let s := s.updRing n fun r => { r with latched := none, latchedHead := none }
      let s := match r.latchedHead with
        | some h => s.takeHead n h
        | none => s
      match r.latched with
      | some (t, ds) => if s.rstate n = 1 then s.takeTail n t ds else s
      | none => s
    else s

/-- The engine quiesces: it finishes its journal write and begins nothing new (R345). -/
def State.hostQuiet (s : State) : State := ((s.updHost fun h => { h with quiet := true }).hrRegs 0)

/-- Once-per-SF marks of the rings (R339). -/
def State.hostSf (s : State) : State :=
  s.updHost fun h => { h with rings := h.rings.map fun r => { r with told07 := false, told08 := false } }

/-- Operations that await the token complete NOT_HOLDER when it is lost, E:0x0D0C (R348). -/
def State.ringsNotHolder (s : State) : State :=
  s.each (idx 64) fun s n =>
    let qs := (s.ring n).slots.filter fun q => q.step != 3 && needsToken (s.rtype n) q.d.op
    if qs.isEmpty then s else (s.each qs fun s q => s.complete n q.num 7 0).event 0x0D0C [n, qs.length]

end Sys2Proof.Machine
end

