-- ==== Sys2Proof/Machine/Token.lean ====
section
/-!
DEFINITION. The command token of a twin pair: the pair's state, giving the token and taking it (spec/17 R421 to R425).
-/

namespace Sys2Proof.Machine

open Sys2Proof

/-- Links that the holder's assignments name are ALIGNED on this module's port (R423). -/
def State.twinLinks (s : State) (m : Mirror) : Bool :=
  (idx s.nLinks).all fun n => (nth none m.t2.map n).isNone || s.lst n == 3

/-- The standby may take the token in a commanded passing (R423). -/
def State.twinReady (s : State) : Bool :=
  s.flag CQ_GCFG_TWIN_EN && !s.flag CQ_GCFG_TOK && s.twin.paired && !s.twinBad && s.flag TW_STAT_LINK && s.twin.missed == 0
    && decide (s.twin.ofsRun < 3) && s.isl.istate == 2
    && (match s.twin.last with
        | some m => s.twinLinks m
        | none => false)

/-- TW_STAT.STATE (Table 17.11). -/
def State.twinState (s : State) : Nat :=
  if !s.flag CQ_GCFG_TWIN_EN then 0
  else if s.twinBad then 5
  else if !s.twin.paired then 1
  else if s.flag CQ_GCFG_TOK then 2
  else if s.twinReady then 3 else 4

/-- Bring TW_STAT.STATE up to date: a change raises E:0x1011, and MISMATCH E:0x1015 (R421, R423). -/
def State.twinRefresh (s : State) : State :=
  let new := s.twinState
  if s.fld TW_STAT_STATE = new then s
  else ((s.setFld TW_STAT_STATE new).event 0x1011 [new]).iff (new == 5) fun s => s.event 0x1015 []

/-- The dialogue of an output that the module no longer serves: its circuits are high-impedance (spec/06 R156). -/
def State.twinQuiet (s : State) (j : Nat) : State :=
  if s.sstate j = 13 then s.drive j 4
  else
    let s := (((s.quiet j).stopTimer (.resume j)).stopTimer (.join j)).dropReqs j
    let s := s.updVh j fun v => { Veh.idle with drive := 4, price := v.price, holdI := v.holdI }
    (((s.tlsDown j).setFlag (VD_STAT_LINK j) false).setFlag (VD_STAT_JOINED j) false).setSState j 0 0

/-- The holder gives the token away: TOK = 0, E:0x1013; segments close at this tick's commit; operations that need the token
complete NOT_HOLDER (R425, spec/08 R207, spec/14 R348). -/
def State.twinRelease (s : State) : State :=
  if s.flag CQ_GCFG_TWIN_EN && s.flag CQ_GCFG_TOK then
    let s := (s.setFlag CQ_GCFG_TOK false).event 0x1013 []
    let s := s.iff (s.coreRuns 2) (·.legPass)
    let s := (s.ringsNotHolder).ptpRefresh
    (s.each (idx s.nOuts) (·.twinQuiet)).twinRefresh
  else s

/-- Take up a mirrored output on taking the token: the session's items, the Island's lockouts and weld test, the cooling and
lock commands (R422, R425). TCP and TLS are not mirrored, so the vehicle's link is lost and the session resumes, in a commanded
passing too; a session number of the module's own comes after the mirrored one (spec/06 R145, R156). Whether the output is UNAVAILABLE is
for this module's own mode to say (R146); the services selected are not mirrored and count as selected (DESIGN CHOICE, log entry 72). -/
def State.twinOut (s : State) (ms : List MirOut) (cmd : Bool) (j : Nat) (m : MirOut) : State :=
  let lead := if m.join = 0 then none else (idx 8).find? fun k => (nth m ms k).session == m.join && k < ms.length
  let s : State :=
    { s with vehc := { s.vehc with
        nextSession := if s.vehc.nextSession ≤ m.session then (m.session + 1) % 2 ^ 32 else s.vehc.nextSession } }
  let s := s.updVh j fun v =>
    { Veh.idle with
      price := v.price, holdI := v.holdI
      drive := s.driveOf j (if m.sstate = 13 then 0 else m.sstate), authOk := m.authOk, started := decide (3 ≤ m.sstate ∧ m.sstate ≤ 10), lockCmd := m.lock
      lead := lead, svc := 2, pairAsked := m.pair, insulOk := m.xfer, preAsked := m.xfer, preOk := m.xfer, phase := 2 }
  let s := (s.setFld (VD_SESS_SESSION j) m.session).setFlag (VD_STAT_JOINED j) lead.isSome
  let s := (s.setFld (VD_EVCC_LO_EVCCID j) (m.evccid % 2 ^ 32)).setFld (VD_EVCC_HI_EVCCID j) (m.evccid / 2 ^ 32)
  let st := if m.sstate = 13 then 0 else m.sstate
  let s := ((s.takeValues j m.v).setSState j st 0).iff (st == 10) (·.startTimer (.weldWait j))
  let s := s.updIo j fun o =>
    { o with weld := o.weld || m.weld, weldTest := if cmd && m.weldOk then 2 else o.weldTest
             latched := if latching m.trip && !o.latched.contains m.trip then o.latched ++ [m.trip] else o.latched
             trip := if m.trip = 0 then o.trip else m.trip }
  let s := s.updSh fun h => { h with pump := h.pump.set j m.pump, fan1 := h.fan1.set j m.fan1, fan2 := h.fan2.set j m.fan2 }
  let s := s.iff (s.coreRuns 2) (·.legTake j m.session m.join m.seg)
  (s.commLost j 0).vehMode j

/-- A move that the former holder had under way, as MX_ASG mirrors it: MX_STATE implies its step, JOIN with the destination's
contactor closed, CLOSE with none closed, OPEN at the latest with another closed; it goes on from there once the block is READY
(spec/05 R127, R72). -/
def State.twinMove (s : State) (n : Nat) : State :=
  let st := s.mvStep n
  let d := s.fld (MX_ASG_DEST n)
  let dest := if d < 8 then some d else none
  let step :=
    if st = 0 then 0
    else if dest.any (fun k => bit (s.lk n).mxState k) then 5
    else if (s.closedCts n).isEmpty then (if dest.isSome then 4 else 0)
    else min st 3
  (s.showStep n step dest).updMv n fun _ =>
    { Move.rest with src := s.belongs n, dest := dest, unmap := st != 0 && decide (step = 0 ∨ step = 4), resume := step }

/-- The module takes the token: TOK = 1, E:0x1012, the mirrored limit table, assignments and moves, sessions, PTP (R425, spec/05
R120). In a commanded passing the pairs are on already, and the frames of this CF do not claim the token yet (spec/03 R72); the
sessions resume under R150 in either case (spec/06 R156). -/
def State.twinTake (s : State) (cmd : Bool) : State :=
  let s := ((s.setFlag CQ_GCFG_TOK true).inc TW_ERR_TAKE).event 0x1012 []
  let s : State := { s with linkc := { s.linkc with tokWait := cmd } }
  let s := (s.updTwin fun t => { t with passing := 0 }).iff (s.clk == 6) fun s =>
    let v := s.flag TIME_STATUS_VALID
    s.setClk (if v then 1 else 0)
  let s := s.each (idx s.nLinks) fun s n => s.updLk n fun l => { l with startSent := false, validRun := 0 }
  let s := match s.twin.last with
    | none => s
    | some m =>
      let s := s.updSh fun h => { h with t2 := m.t2, t2b := m.t2 }
      let s := s.each ((idx s.nLinks).zip m.asg) fun s p => (s.setReg (R_MX_ASG p.1) p.2).twinMove p.1
      s.each ((idx s.nOuts).zip m.outs) fun s p => s.twinOut m.outs cmd p.1 p.2
  (s.ptpRefresh).twinRefresh

end Sys2Proof.Machine
end

