-- ==== Sys2Proof/Machine/Boot.lean ====
section
/-!
DEFINITION. Roles, key commands, firmware banks, updates, activation, trial and fallback (spec/15).
-/

namespace Sys2Proof.Machine

open Sys2Proof

/-! ### Starts -/

/-- A start begins (R399): BOOT with its cause, every pair off, every core unreleased, the domains off but PD0; the
configuration is no longer committed; role sessions, the update lock and a pause end, and a key whose selector has not flipped stays
out of force; a bank in WRITING is EMPTY (R360, R362, R372, R374). A hold, a hold-up, a freeze and a bench hold are over; a holder that a start does not find on its store has announced
in its last mirror frame that the token passes, and has given it away (spec/17 R424). MODULE_START completes the start. -/
def State.beginStart (s : State) (cause : Nat) : State :=
  let s := s.iff (cause != 1) fun s =>
    (s.iff (s.flag CQ_GCFG_TWIN_EN && s.flag CQ_GCFG_TOK && !s.twinBad) fun s =>
      s.updTwin fun t => { t with sent := t.sent.map fun m => { m with token := true } }).twinRelease
  let s := s.updIsl fun i => { i with confBy := none, pairs := i.pairs.map fun (p : SoPair) => { p with hsc := false, lsc := false } }
  let s := (((s.setMode 0).pdSet 1).setFld GLB_PD_STATE_PGOOD 1).setReg R_GLB_CORE_STATE 0
  let s := ((s.setFlag GLB_CFG_COMMIT_COMMITTED false).setFlag GLB_MODE_ACT_PAUSE false).setFld KB_BOOT_RCAUSE cause
  let s := ((s.setFlag SUP_STAT_HOLD false).setFlag SUP_STAT_STORE false).setFlag SUP_STAT_EOS false
  let s := (((s.setFlag SH_STATUS_HOLD false).setFlag MET_STATUS_HOLDUP false).setReg R_BN_CTRL (regReset R_BN_CTRL)).setFlag
    MD_STAT_BENCH_WAIT false
  let s := s.each (idx 2) fun s f => (s.setFlag (MET_FSTAT_HOLDUP f) false).updMf f fun m =>
    { m with stopped := false, earlyImp := 0, earlyExp := 0 }
  let s := s.each (idx 8) fun s j => (s.setFlag (MET_OSTAT_HOLDUP j) false).updMo j fun m =>
    { m with stopped := false, earlyImp := 0, earlyExp := 0, capRun := 0, capSum := 0 }
  let s := s.updSys fun x => { x with req := 0, shed := none, shedDone := false, step := none, frz := none, capturing := false, cap := none }
  let s := s.updTwin fun t => { t with passing := 0, missed := 0, got := false, ofsRun := 0 }
  let s := s.each (idx 2) fun s b => s.iff (s.fld (KB_BANK_STAT_STATE b) == 1) (·.setFld (KB_BANK_STAT_STATE b) 0)
  let s : State := { s with timers := s.timers.filter fun p => p.1 == .trial || p.1 == .tokenLock }
  let s := s.updKeys fun k =>
    { k with
      slots := k.slots.map fun p => (p.1, { p.2 with flip := false, due := false })
      roles := [], nonces := [], lock := none, upd := none, stream := [], legal := false, pause := none, deferred := none
      begun := some cause }
  let s := ((s.setFld UPD_LOCK_HOLDER 0).setFld UPD_STATUS_STATE (if s.flag KB_BOOT_TRIAL then 4 else 0)).setFld UPD_STATUS_PROGRESS 0
  s.roleStat

/-- No output has its transfer flag at 1. -/
def State.noXfer (s : State) : Bool := (idx s.nOuts).all fun j => !s.xfer j

/-- A start that waits for the transfer flags, with its cause (R370, R377). -/
def State.deferStart (s : State) (cause : Nat) : State :=
  if s.noXfer then s.beginStart cause else s.updKeys fun k => { k with deferred := some cause }

/-- DEFERRED_START: the pending start is made once no output has its transfer flag at 1 (R370). -/
def execDeferredStart (s : State) : Host.Outcome State Fault Refusal :=
  s.live (match s.keys.deferred with
    | some c => if s.noXfer then s.beginStart c else s
    | none => s)

/-! ### Role sessions (R361, R362) -/

/-- Serve a COMMAND operation of any session (PUBLIC). -/
def State.servePublic (s : State) (n op : Nat) (f : JSlot → State → State) : State :=
  s.serve n 7 op fun q s => f q (s.touchRole q.d.sess)

/-- Serve a COMMAND operation under a role. In FIELD and BENCH-ONLY a MAKER session is refused with 7 but for what R362
leaves to it. -/
def State.serveRole (s : State) (n op : Nat) (roles : List Nat) (maker : Bool) (f : JSlot → Nat → State → State) : State :=
  s.serve n 7 op fun q s =>
    let s := s.touchRole q.d.sess
    match s.roleOf q.d.sess with
    | none => s.complete n q.num 2 (roles.headD 0)
    | some r =>
      if !roles.contains r then s.complete n q.num 2 (roles.headD 0)
      else if r == 4 && !maker && (s.lifecycle == 1 || s.lifecycle == 2) then s.complete n q.num 1 7
      else f q r s

/-- ROLE_CHALLENGE: a 32-byte nonce, good for one use within 60 s (R361). -/
def execRoleChallenge (ring : Fin 64) (s : State) : Host.Outcome State Fault Refusal :=
  s.live (s.servePublic ring 0x20 fun q s =>
    let p := s.draw
    let r := p.1
    let s := p.2
    let b := toLE 32 r
    let n := s.keys.nextNonce
    let s := (s.updKeys fun k => { k with nonces := k.nonces ++ [(n, b)], nextNonce := n + 1 }).startTimer (.nonce n)
    s.completeData ring q.num 0 b .none)

/-- Why a role token is refused, 0 where it is not (R361). -/
def State.tokenReason (s : State) (b : List Byte) : Nat :=
  let role := leAt b 4 1
  if b.length < 128 || leAt b 0 4 != 0x54525A44 || role == 0 || decide (4 < role) || leAt b 5 3 != 0 || leAt b 60 4 != 0 then 1
  else match s.keyFor (0x0B + role) engVerify with
    | none => 2
    | some k =>
      if !Config.ecdsaVerify k.key (b.take 64) ((b.drop 64).take 64) then 2
      else if leAt b 8 8 ≠ s.serial then 3
      else if s.flag TIME_STATUS_VALID && decide (leAt b 20 8 < s.now) then 4
      else if !(s.keys.nonces.any fun p => p.2 == (b.drop 28).take 32 && !s.due (.nonce p.1) (60 * sec)) then 5
      else if 16 ≤ s.keys.roles.length then 6
      else if s.lifecycle = 3 then 7 else 0

/-- ROLE_OPEN: E:0x0E13 and the handle, or E:0x0E14 and the reason; the nonce is used (R361). -/
def execRoleOpen (ring : Fin 64) (s : State) : Host.Outcome State Fault Refusal :=
  s.live (s.servePublic ring 0x21 fun q s =>
    match q.d.data with
    | none => s.dmaFail ring q.num
    | some b =>
      let r := s.tokenReason b
      let s := s.iff (r == 0 || decide (6 ≤ r)) fun s =>
        s.updKeys fun k => { k with nonces := k.nonces.filter fun p => p.2 != (b.drop 28).take 32 }
      if r ≠ 0 then (s.event 0x0E14 [r]).complete ring q.num 1 r
      else
        let h := s.keys.nextHandle
        let x : RoleSess := { handle := h, role := leAt b 4 1, holder := leAt b 16 4, flagged := !s.flag TIME_STATUS_VALID }
        let s := (s.updKeys fun k => { k with roles := k.roles ++ [x], nextHandle := h + 1 }).startTimer (.roleIdle h)
        ((s.roleStat).event 0x0E13 [x.role, x.holder]).complete ring q.num 0 h)

/-- UPD_STATUS.STATE (Table 15.13). -/
def State.updStatus (s : State) : State :=
  s.setFld UPD_STATUS_STATE
    (if s.flag GLB_MODE_ACT_PAUSE then 3 else if s.keys.upd.isSome then 1 else if s.flag KB_BOOT_TRIAL then 4 else 0)

/-- The inactive bank. -/
def State.other (s : State) : Nat := 1 - s.fld KB_BOOT_ACTIVE

/-- Bank `b`. -/
def State.bank (s : State) (b : Nat) : Bank := nth Bank.empty s.keys.banks b

/-- Put an image into bank `b`, with its state. -/
def State.setBank (s : State) (b : Nat) (x : Bank) (st : Nat) : State :=
  let s := s.updKeys fun k => { k with banks := upd k.banks b fun _ => x }
  (((s.setFld (KB_BANK_VER_VERSION b) x.hdr.version).setFld (KB_BANK_STAT_SVN b) x.hdr.svn).setFld
    (KB_BANK_LEGAL_LEGAL_VER b) x.hdr.legalVer).setFld (KB_BANK_STAT_STATE b) st

/-- Release the bank lock (R372). -/
def State.unlockBank (s : State) : State :=
  ((s.updKeys fun k => { k with lock := none, upd := none, stream := [], legal := false }).setFld UPD_LOCK_HOLDER 0).updStatus

/-- Abandon the update in progress: the bank is EMPTY, E:0x0E09 (R372, R374). -/
def State.dropUpdate (s : State) : State :=
  if s.keys.lock.isSome then ((s.setBank s.other Bank.empty 0).unlockBank).event 0x0E09 [s.other] else s

/-- A role session ends; an update that it holds is abandoned (R362, R372). -/
def State.endRole (s : State) (h : Nat) : State :=
  if s.keys.roles.any fun r => r.handle == h then
    let s := s.iff (s.keys.lock == some h) (·.dropUpdate)
    ((s.stopTimer (.roleIdle h)).updKeys fun k => { k with roles := k.roles.filter fun r => r.handle != h }).roleStat
  else s

/-- ROLE_CLOSE (R362). -/
def execRoleClose (ring : Fin 64) (s : State) : Host.Outcome State Fault Refusal :=
  s.live (s.serve ring 7 0x22 fun q s =>
    match s.roleOf q.d.sess with
    | some (_ + 1) => (s.endRole q.d.sess).complete ring q.num 0 0
    | _ => s.complete ring q.num 2 0)

/-- ROLE_SESSION_TIMEOUT: 15 min without a descriptor naming the session (R362). -/
def execRoleSessionTimeout (handle : Nat) (s : State) : Host.Outcome State Fault Refusal :=
  s.live (if s.due (.roleIdle handle) (900 * sec) then s.endRole handle else s)

/-! ### Keys (R356 to R360, R379) -/

/-- What Table 15.1 gives a slot: algorithms, the mask bits a key may have and must have, public keys only, import and
generation, the role of a replacement. -/
structure SlotRule where
  algs : List Nat
  mask : Nat
  pub : Bool
  imp : Bool
  gen : Bool
  role : Nat

def slotRule (k : Nat) : SlotRule :=
  if k = 0 then ⟨[1], 1, false, false, true, 4⟩
  else if k = 1 then ⟨[1], 1, false, false, true, 4⟩
  else if k = 2 then ⟨[1], 1, false, false, true, 3⟩
  else if k = 3 then ⟨[2], 1, false, false, true, 3⟩
  else if k = 8 then ⟨[6], 4, false, true, false, 1⟩
  else if k = 9 then ⟨[5], 64, false, true, true, 1⟩
  else if k = 10 then ⟨[6], 32, false, true, false, 1⟩
  else if 12 ≤ k ∧ k ≤ 15 then ⟨[2], 2, true, true, false, 4⟩
  else if 16 ≤ k then ⟨[2, 3, 4], 24, false, true, true, 1⟩
  else ⟨[], 0, false, false, false, 0⟩

/-- Slot 0 is generated in MANUFACTURE and never replaced, slot 0x0F replaced only in MANUFACTURE (Table 15.1). -/
def State.slotOpen (s : State) (k : Nat) : Bool :=
  !(k == 0 || k == 15) || (s.lifecycle == 0 && (k == 15 || (s.slot 0).now.alg == 0))

/-- The role that a replacement needs is held: METROLOGY rights for the meter-signing keys; MAKER with the seal for slot
0x0E (Table 15.1). -/
def State.slotRole (s : State) (k role : Nat) : Bool :=
  match (slotRule k).role with
  | 0 => false
  | 3 => s.metroRights role
  | r => role == r && (k != 14 || s.flag MET_STATUS_SEAL)

/-- KEY_VER that a replacement must exceed. -/
def State.slotVer (s : State) (k : Nat) : Nat := max (s.slot k).a.ver (s.slot k).b.ver

/-- Write a new key into the unselected copy; the selector flips at the next SF tick (R360). -/
def State.replaceKey (s : State) (k : Nat) (c : KeyCopy) : State :=
  s.setSlot k { (s.slot k).writeSpare c with due := false }

/-- Why a key blob for slot `k` is refused, and the key where it is not (R359). -/
def State.openBlob (s : State) (b : List Byte) : Nat × List Byte :=
  let k := leAt b 6 1
  let len := leAt b 40 4
  let r := slotRule k
  if b.length < 60 || leAt b 0 4 != 0x424B5A44 || leAt b 4 1 != 1 || decide (b.length < 60 + len) then (1, [])
  else if leAt b 16 8 ≠ s.serial then (2, [])
  else match s.keyFor 10 engWrap with
    | none => (3, [])
    | some kek =>
      if leAt b 24 4 ≠ keyId 10 kek then (3, [])
      else match Config.gcmOpen kek.key ((b.drop 28).take 12) (b.take 40) ((b.drop 44).take len) ((b.drop (44 + len)).take 16) with
        | none => (3, [])
        | some key =>
          let mask := leAt b 8 2
          if leAt b 12 4 ≤ s.slotVer k then (4, [])
          else if !r.imp || !s.slotOpen k || !r.algs.contains (leAt b 5 1) || mask == 0 || (mask &&& (0xFFFF ^^^ r.mask)) != 0 then (5, [])
          else (0, key)

/-- KEY_IMPORT: the blob's key goes into its slot; RESULT is the KEY_ID, or the refusal with E:0x0E11 (R359). -/
def execKeyImport (ring : Fin 64) (s : State) : Host.Outcome State Fault Refusal :=
  s.live (s.serve ring 7 0x24 fun q s =>
    let s := s.touchRole q.d.sess
    match q.d.data with
    | none => s.dmaFail ring q.num
    | some b =>
      let k := leAt b 6 1
      let o := s.openBlob b
      let rule := slotRule k
      if rule.role ≠ 0 ∧ !((s.roleOf q.d.sess).any fun r => s.slotRole k r) then s.complete ring q.num 2 rule.role
      else if o.1 ≠ 0 then (s.event 0x0E11 [k, o.1]).complete ring q.num 1 o.1
      else
        let c : KeyCopy := { alg := leAt b 5 1, key := o.2, mask := leAt b 8 2, pub := rule.pub, imported := true, ver := leAt b 12 4 }
        (s.replaceKey k c).complete ring q.num 0 (keyId k c))

/-- KEY_GENERATE: a key of the random source, with the next KEY_VER; a slot or algorithm that Table 15.1 does not give is a
descriptor field that is invalid (log entry 17). -/
def execKeyGenerate (ring : Fin 64) (s : State) : Host.Outcome State Fault Refusal :=
  s.live (s.serve ring 7 0x25 fun q s =>
    let s := s.touchRole q.d.sess
    let k := q.inl 0 1
    let rule := slotRule k
    if !rule.gen || !s.slotOpen k then s.complete ring q.num 3 32
    else if !((s.roleOf q.d.sess).any fun r => s.slotRole k r) then s.complete ring q.num 2 rule.role
    else if !rule.algs.contains (q.inl 1 1) then s.complete ring q.num 3 33
    else
      let p := s.draw
      let r := p.1
      let s := p.2
      let c : KeyCopy :=
        { alg := q.inl 1 1, key := toLE 66 r, mask := rule.mask, pub := false, imported := false, ver := s.slotVer k + 1 }
      (s.replaceKey k c).complete ring q.num 0 (keyId k c))

/-- KEY_FLIP: the SF tick after the replacement has come, and the selector names the new key: E:0x0E10 (R360). A
meter-signing key goes into the legal audit log; a new tag key is due for the tag. -/
def execKeyFlip (slot : BitVec 8) (s : State) : Host.Outcome State Fault Refusal :=
  s.live (
    let k := slot.toNat
    let x := s.slot k
    if x.flip && x.due then
      let s := s.setSlot k { x with selB := !x.selB, flip := false, due := false }
      let data := [k, keyId k (s.slot k).now]
      let s := if k = 2 ∨ k = 3 then s.audit 0x0E10 data else s.event 0x0E10 data
      s.iff (k == 9) fun s => s.updKeys fun q => { q with tagKeyDue := true }
    else s)

/-- Sign bytes with the attestation key; none where slot 1 cannot sign: E:0x0E11 (R358). -/
def State.attSign (s : State) (b : List Byte) : Option (List Byte) :=
  (s.keyFor 1 engSig).map fun k => b ++ Config.falconSign k.key b

/-- KEY_PUBLIC: the public half and KEY_VER, signed with slot 1 (R358). A symmetric or an empty slot has no public half
(log entry 17). -/
def execKeyPublic (ring : Fin 64) (s : State) : Host.Outcome State Fault Refusal :=
  s.live (s.servePublic ring 0x26 fun q s =>
    let k := q.inl 0 1
    let c := (s.slot k).now
    if c.alg = 0 ∨ 5 ≤ c.alg then s.complete ring q.num 3 32
    else match s.attSign ((if c.pub then c.key else Config.publicOf c.alg c.key) ++ toLE 4 c.ver) with
      | some b => s.completeData ring q.num 0 b .none
      | none => (s.jobRefused 1).complete ring q.num 1 1)

/-- KEY_DELETE: OPERATOR, TLS slots only; KEY_VER never falls (R357, R379). -/
def execKeyDelete (ring : Fin 64) (s : State) : Host.Outcome State Fault Refusal :=
  s.live (s.serveRole ring 0x27 [1] false fun q _ s =>
    let k := q.inl 0 1
    if k < 16 then s.complete ring q.num 3 32
    else
      let v := s.slotVer k
      (s.setSlot k { KeySlot.empty with a := { KeyCopy.empty with ver := v }, b := { KeyCopy.empty with ver := v } }).complete
        ring q.num 0 0)

/-- CERT_INSTALL: a chain of at most 8 KiB beside a TLS slot (R358). -/
def execCertInstall (ring : Fin 64) (s : State) : Host.Outcome State Fault Refusal :=
  s.live (s.serveRole ring 0x28 [1] false fun q _ s =>
    let k := q.inl 0 1
    if k < 16 then s.complete ring q.num 3 32
    else match q.d.data with
      | none => s.dmaFail ring q.num
      | some b => if 8192 < b.length then s.complete ring q.num 3 24
        else (s.setSlot k { s.slot k with chain := b }).complete ring q.num 0 0)

/-- ATTEST: the report of Table 15.12, signed with slot 1 (R379). -/
def execAttest (ring : Fin 64) (s : State) : Host.Outcome State Fault Refusal :=
  s.live (s.servePublic ring 0x29 fun q s =>
    let h (b : Nat) := (s.bank b).hdr.targetHash ++ toLE 1 (s.fld (KB_BANK_STAT_STATE b))
    let b := (q.d.inline.take 32) ++ toLE 8 s.serial ++ toLE 1 s.lifecycle ++ h 0 ++ h 1
      ++ toLE 4 (s.reg R_LEG_CHK).toNat ++ toLE 4 (s.reg R_SI_CHK).toNat ++ toLE 1 (s.fld KB_CNT_ARB)
    match s.attSign b with
    | some b => s.completeData ring q.num 0 b .none
    | none => (s.jobRefused 1).complete ring q.num 1 1)

/-- FVK_REVOKE: `valid` says whether the statement verifies under another FVK in force. 17 where no FVK would be left, 18
where the active or a STAGED bank is signed with it (R378). -/
def execFvkRevoke (ring : Fin 64) (valid : Bool) (s : State) : Host.Outcome State Fault Refusal :=
  s.live (s.serveRole ring 0x2A [4] true fun q _ s =>
    let k := q.inl 0 1
    let rev := s.fld KB_BOOT_REVOKED
    let uses (b : Nat) : Bool := (s.bank b).hdr.fvk == k && (b == s.fld KB_BOOT_ACTIVE || s.fld (KB_BANK_STAT_STATE b) == 2)
    if 4 ≤ k then s.complete ring q.num 3 32
    else if setBit rev k true = 15 then (s.setFld UPD_STATUS_REASON 17).complete ring q.num 1 17
    else if uses 0 || uses 1 then (s.setFld UPD_STATUS_REASON 18).complete ring q.num 1 18
    else if !valid then s.complete ring q.num 1 2
    else ((s.setFld KB_BOOT_REVOKED (setBit rev k true)).event 0x0E12 [k]).complete ring q.num 0 0)

/-- Erase the slots that RETIRED erases (R364). -/
def State.eraseKeys (s : State) : State :=
  s.updKeys fun k => { k with slots := k.slots.filter fun p => p.1 == 0 || p.1 == 11 || (4 ≤ p.1 && p.1 ≤ 7) || (12 ≤ p.1 && p.1 ≤ 15) }

/-- A lifecycle change is one of R364, under its role and in its mode; a 48-8-B can never enter FIELD (spec/00 Table 0.1). -/
def State.lifeOk (s : State) (role new : Nat) : Bool :=
  match s.lifecycle, new with
  | 0, 1 => role == 4 && !s.flag KB_CNT_ID_LEFT && s.fld GLB_HWREV_VARIANT != 3
  | 0, 2 => role == 4 && !s.flag KB_CNT_ID_LEFT
  | 1, 3 | 2, 3 => role == 2 && (s.mode == 2 || s.mode == 0)
  | _, _ => false

/-- SET_LIMITED: setting 0 is the module identity, once, by MAKER in MANUFACTURE; setting 1 is the lifecycle; 19 on a wrong
transition; a change without a count raises E:0x0EF3 (R363, R364). A module that becomes BENCH-ONLY in a mode that R3 of spec/00
bars makes a start, the one way to BOOT, and so does one that becomes RETIRED outside BOOT (log entry 46). -/
def execSetLimited (ring : Fin 64) (s : State) : Host.Outcome State Fault Refusal :=
  s.live (s.serveRole ring 0x2C [4, 2] false fun q role s =>
    let v := q.inl 8 8
    match q.inl 0 1 with
    | 0 =>
      if role ≠ 4 then s.complete ring q.num 2 4
      else if s.lifecycle ≠ 0 then (s.setFld UPD_STATUS_REASON 19).complete ring q.num 1 19
      else if !s.flag KB_CNT_ID_LEFT then (s.event 0x0EF3 [0]).complete ring q.num 1 19
      else
        let s := ((s.setFld GLB_SERIAL_LO_SERIAL v).setFld GLB_SERIAL_HI_SERIAL (v / 2 ^ 32)).setFlag KB_CNT_ID_LEFT false
        (s.event 0x0E15 [0]).complete ring q.num 0 0
    | 1 =>
      if !s.lifeOk role v then (s.setFld UPD_STATUS_REASON 19).complete ring q.num 1 19
      else
        let s := ((s.setFld GLB_LIFECYCLE_STATE v).event 0x0E15 [1]).event 0x0E16 [v]
        let s := s.complete ring q.num 0 0
        if v = 3 then (s.eraseKeys).iff (s.mode != 0) (·.beginStart 5) else s.iff (v == 2 && s.mode != 0 && s.mode != 7) (·.beginStart 5)
    | _ => s.complete ring q.num 3 32)

/-! ### Containers and banks (R365 to R367, R373, R374) -/

/-- Region entry `k` of a header. -/
def regionEnt (b : List Byte) (k : Nat) : RegionEnt :=
  let o := 256 + 32 * k
  { id := leAt b o 1, flags := leAt b (o + 1) 1, bankOff := leAt b (o + 4) 4, len := leAt b (o + 8) 4
    bodyOff := leAt b (o + 12) 4, bodyLen := leAt b (o + 16) 4, hash := (b.drop (o + 20)).take 12 }

/-- The fields of a container header (Table 15.8). -/
def headerOf (b : List Byte) : BankHdr :=
  { kind := leAt b 6 1, fvk := leAt b 7 1, version := leAt b 8 4, svn := leAt b 12 1
    baseHash := (b.drop 16).take 64, targetHash := (b.drop 80).take 64, legalHash := (b.drop 144).take 64
    legalVer := leAt b 208 4, regions := (List.range (leAt b 14 2)).map (regionEnt b), raw := b.take 4096 }

/-- Check 1: MAGIC, FORMAT, NREG and the region table. -/
def headerOk (b : List Byte) : Bool :=
  let h := headerOf b
  let n := leAt b 14 2
  decide (4096 ≤ b.length) && leAt b 0 4 == 0x50555A44 && leAt b 4 2 == 1 && decide (1 ≤ n ∧ n ≤ 10)
    && h.regions.all (fun e => decide (e.id < 10) && decide (e.flags < 4)) && (h.regions.map (·.id)).Nodup
    && decide (h.kind < 3) && decide (h.fvk < 4)

/-- The signature of a header verifies under its FVK, which is one of the fuse hash and not revoked (check 3, R355). -/
def State.headerSigned (s : State) (h : BankHdr) : Bool :=
  let n := leAt h.raw 2560 2
  !bit (s.fld KB_BOOT_REVOKED) h.fvk && decide (n ≤ 1462) && s.fvkOk &&
    (match s.keyFor (4 + h.fvk) engVerify with
     | some k => Config.falconVerify k.key (h.raw.take 2560) ((h.raw.drop 2562).take n)
     | none => false)

/-- Version that a container of a kind competes with: the legal section's for KIND 2. -/
def State.bankVer (s : State) (kind b : Nat) : Nat :=
  if kind = 2 then s.fld (KB_BANK_LEGAL_LEGAL_VER b) else s.fld (KB_BANK_VER_VERSION b)

/-- First failing check of Table 15.10 at the opening, 0 where all pass. -/
def State.headerReason (s : State) (b : List Byte) (legal force : Bool) : Nat :=
  let h := headerOf b
  let a := s.fld KB_BOOT_ACTIVE
  if !headerOk b then 1
  else if s.fld GLB_HWREV_REV < leAt b 13 1 then 11
  else if !s.headerSigned h then 2
  else if legal != (h.kind == 2) then 3
  else if h.svn < s.fld KB_CNT_ARB then 6
  else if !force && decide (h.version < s.bankVer h.kind a) then 7
  else if s.fld (KB_BANK_STAT_STATE s.other) = 2 ∧ h.version ≤ s.bankVer h.kind s.other then 8
  else if h.kind = 1 ∧ h.baseHash ≠ (s.bank a).hdr.targetHash then 4
  else if h.kind < 2 ∧ h.legalHash ≠ (s.bank a).hdr.legalHash then 5
  else if 120 * 2 ^ 20 < h.regions.foldl (fun t e => t + e.len) 0 then 10 else 0

/-- Open an update for a session (R372, R373): the answer is a status and RESULT. -/
def State.openUpdate (s : State) (sess : Nat) (b : List Byte) (legal force : Bool) : State × Nat × Nat :=
  let refuse (s : State) (r : Nat) : State × Nat × Nat := ((s.setFld UPD_STATUS_REASON r).event 0x0E07 [r], 1, r)
  match s.keys.lock with
  | some h => (s.event 0x0E06 [s.holderOf h], 10, s.holderOf h)
  | none =>
    if s.flag KB_BOOT_TRIAL then refuse s 12
    else
      let r := s.headerReason b legal force
      if r ≠ 0 then refuse s r
      else
        let s := s.setBank s.other Bank.empty 1
        let s := s.updKeys fun k => { k with lock := some sess, upd := some (headerOf b), stream := [], legal := legal }
        let s := ((s.setFld UPD_LOCK_HOLDER (s.holderOf sess)).setFld UPD_STATUS_PROGRESS 0).updStatus
        (s.event 0x0E05 [s.other, s.holderOf sess], 0, 0)

/-- UPDATE_OPEN (R372, R373). -/
def execUpdateOpen (ring : Fin 64) (s : State) : Host.Outcome State Fault Refusal :=
  s.live (s.serveRole ring 0x30 [2] false fun q _ s =>
    match q.d.data with
    | none => s.dmaFail ring q.num
    | some b =>
      let r := s.openUpdate q.d.sess b false (bit (q.inl 0 1) 0)
      r.1.complete ring q.num r.2.1 r.2.2)

/-- Bytes of the container's body. -/
def bodyLen (h : BankHdr) : Nat := h.regions.foldl (fun t e => max t (e.bodyOff + e.bodyLen - 4096)) 0

/-- Take a chunk at a container offset: in ascending order, at most 64 KiB; 13 otherwise (R374). -/
def State.writeUpdate (s : State) (off : Nat) (b : List Byte) : State × Nat :=
  match s.keys.upd with
  | none => (s, 13)
  | some h =>
    if off ≠ 4096 + s.keys.stream.length ∨ 65536 < b.length then (s.setFld UPD_STATUS_REASON 13, 13)
    else
      let st := s.keys.stream ++ b
      ((s.updKeys fun k => { k with stream := st }).setFld UPD_STATUS_PROGRESS
        (if bodyLen h = 0 then 100 else min 100 (st.length * 100 / bodyLen h)), 0)

/-- Serve an operation of the holder of the lock (R372). -/
def State.serveHolder (s : State) (n op : Nat) (f : JSlot → State → State) : State :=
  s.serve n 7 op fun q s =>
    let s := s.touchRole q.d.sess
    if s.keys.lock = some q.d.sess ∧ (s.roleOf q.d.sess).isSome then f q s else s.complete n q.num 2 2

/-- UPDATE_WRITE. -/
def execUpdateWrite (ring : Fin 64) (s : State) : Host.Outcome State Fault Refusal :=
  s.live (s.serveHolder ring 0x31 fun q s =>
    match q.d.data with
    | none => s.dmaFail ring q.num
    | some b =>
      let r := s.writeUpdate (q.inl 0 4) b
      r.1.complete ring q.num (if r.2 = 0 then 0 else 1) r.2)

/-- Apply a delta body to a base region (R367); none where it is malformed. -/
def applyDelta (base : List Byte) : Nat → List Byte → List Byte → Option (List Byte)
  | 0, _, _ => none
  | n + 1, body, acc =>
    match body with
    | [] => none
    | c :: t =>
      match c.toNat with
      | 0 => some acc
      | 1 =>
        let o := leAt t 0 4
        let l := leAt t 4 4
        if t.length < 8 ∨ base.length < o + l then none else applyDelta base n (t.drop 8) (acc ++ (base.drop o).take l)
      | 2 =>
        let l := leAt t 0 4
        if t.length < 4 + l then none else applyDelta base n (t.drop (4 + l)) (acc ++ (t.drop 4).take l)
      | _ => none

/-- Content of region `id` in a bank. -/
def Bank.region (b : Bank) (id : Nat) : List Byte :=
  match b.regions.find? fun r => r.1 == id with
  | some r => r.2
  | none => []

/-- A region as its entry builds it from the base bank and the container: copied, delta-encoded, or whole. -/
def buildRegion (base : Bank) (stream : List Byte) (e : RegionEnt) : Option (Nat × List Byte) :=
  let body := (stream.drop (e.bodyOff - 4096)).take e.bodyLen
  if bit e.flags 0 then some (e.id, base.region e.id)
  else if bit e.flags 1 then
    match applyDelta (base.region e.id) (body.length + 1) body [] with
    | some c => if c.length = e.len then some (e.id, c) else none
    | none => none
  else if body.length = e.bodyLen ∧ e.bodyLen = e.len then some (e.id, body) else none

/-- A bank built from the active one: KIND 2 replaces only region 2 (R377). -/
def buildBank (base : Bank) (h : BankHdr) (stream : List Byte) : Option Bank :=
  match h.regions.mapM (buildRegion base stream) with
  | none => none
  | some rs =>
    if h.kind = 2 then
      let keep := base.regions.map fun r => if r.1 = 2 then (rs.find? fun x => x.1 == 2).getD r else r
      some ⟨{ h with version := base.hdr.version }, keep⟩
    else some ⟨h, rs⟩

/-- The bank image: the header with bytes 2560 to 4095 taken as 0, then the regions end to end (R365, Table 15.8). -/
def Bank.image (b : Bank) : List Byte :=
  b.hdr.raw.take 2560 ++ List.replicate 1536 0 ++ (b.regions.map (·.2)).flatten

/-- Every region's hash begins as its entry says. -/
def Bank.regionsOk (b : Bank) (ids : List Nat) : Bool :=
  b.hdr.regions.all fun e => !ids.contains e.id || (Config.shake256 (b.region e.id) 64).take 12 == e.hash

/-- UPDATE_VERIFY's hash of the whole bank: STAGED and E:0x0E08; or EMPTY with reason 9, or 10 for a body that does not
build (R367, R374). The lock is released. -/
def State.verifyUpdate (s : State) : State × Nat :=
  match s.keys.upd with
  | none => (s, 9)
  | some h =>
    let b := s.other
    match buildBank (s.bank (s.fld KB_BOOT_ACTIVE)) h s.keys.stream with
    | none => ((((s.setBank b Bank.empty 0).unlockBank).setFld UPD_STATUS_REASON 10).event 0x0E07 [10], 10)
    | some x =>
      if Config.shake256 x.image 64 = h.targetHash ∧ x.regionsOk (List.range 10) then
        (((s.setBank b x 2).unlockBank).event 0x0E08 [b], 0)
      else ((((s.setBank b Bank.empty 0).unlockBank).setFld UPD_STATUS_REASON 9).event 0x0E07 [9], 9)

/-- UPDATE_VERIFY (R374). A module without a valid bank makes a start once an image is verified (R368; the start's cause is the
model's choice, log entry 17). -/
def execUpdateVerify (ring : Fin 64) (s : State) : Host.Outcome State Fault Refusal :=
  s.live (s.serveHolder ring 0x32 fun q s =>
    let r := s.verifyUpdate
    (r.1.complete ring q.num (if r.2 = 0 then 0 else 1) r.2).iff (r.2 == 0 && s.keys.noBank) (·.beginStart 5))

/-- UPDATE_ABORT: by the holder or by MAKER (R374). -/
def execUpdateAbort (ring : Fin 64) (s : State) : Host.Outcome State Fault Refusal :=
  s.live (s.serve ring 7 0x33 fun q s =>
    let s := s.touchRole q.d.sess
    match s.roleOf q.d.sess with
    | none => s.complete ring q.num 2 2
    | some r =>
      if s.keys.lock = some q.d.sess then (s.dropUpdate).complete ring q.num 0 0
      else if r ≠ 4 then s.complete ring q.num 2 2
      else if s.lifecycle = 1 ∨ s.lifecycle = 2 then s.complete ring q.num 1 7
      else (s.dropUpdate).complete ring q.num 0 0)

/-! ### Trial and fallback (R370) -/

/-- The active bank is confirmed: ACTIVE, the other confirmed one STAGED, ARB raised to its SVN, at most to 64:
E:0x0E0C. -/
def State.confirmTrial (s : State) : State :=
  let a := s.fld KB_BOOT_ACTIVE
  let arb := min 64 (max (s.fld KB_CNT_ARB) (s.fld (KB_BANK_STAT_SVN a)))
  let s := s.iff (s.fld (KB_BANK_STAT_STATE (1 - a)) == 3) (·.setFld (KB_BANK_STAT_STATE (1 - a)) 2)
  let s := ((s.setFld (KB_BANK_STAT_STATE a) 3).setFlag KB_BOOT_TRIAL false).stopTimer .trial
  let s := (s.setFld KB_CNT_ARB_LEFT (s.fld KB_CNT_ARB_LEFT - (arb - s.fld KB_CNT_ARB))).setFld KB_CNT_ARB arb
  (s.updStatus).event 0x0E0C [a, arb]

/-- The trial bank is FAILED and the other one is named: E:0x0E03 (R368, R370). -/
def State.markFailed (s : State) : State :=
  let a := s.fld KB_BOOT_ACTIVE
  let s := ((s.setFld (KB_BANK_STAT_STATE a) 5).setFld KB_BOOT_ACTIVE (1 - a)).setFlag KB_BOOT_TRIAL false
  ((s.stopTimer .trial).updStatus).event 0x0E03 [a]

/-- A trial that fails while the module runs: a start follows once no output has its transfer flag at 1 (R370). -/
def State.trialFail (s : State) : State := if s.flag KB_BOOT_TRIAL then (s.markFailed).deferStart 8 else s

/-- CONF_T has passed outside BOOT and FROZEN. -/
def State.confDue (s : State) : Bool := s.due .trial (s.fld UPD_CFG_CONF_T * sec)

/-- UPDATE_CONFIRM: 20 where no bank is in TRIAL; with MANUAL = 1 it confirms within CONF_T (R370). -/
def execUpdateConfirm (ring : Fin 64) (s : State) : Host.Outcome State Fault Refusal :=
  s.live (s.serveRole ring 0x35 [2] false fun q _ s =>
    if !s.flag KB_BOOT_TRIAL then (s.setFld UPD_STATUS_REASON 20).complete ring q.num 1 20
    else if !s.flag UPD_CFG_MANUAL then s.complete ring q.num 0 0
    else if s.confDue then (s.complete ring q.num 1 20).trialFail
    else (s.confirmTrial).complete ring q.num 0 0)

/-- TRIAL_CONFIRM_TIMER: CONF_T passes, which confirms the trial or, with MANUAL = 1, fails it (R370). -/
def execTrialConfirmTimer (s : State) : Host.Outcome State Fault Refusal :=
  s.live (if s.flag KB_BOOT_TRIAL && s.confDue then (if s.flag UPD_CFG_MANUAL then s.trialFail else s.confirmTrial) else s)

/-! ### Activation (R375 to R377) -/

/-- Why an activation is refused: a status and RESULT; none where it is accepted (R375). -/
def State.activateBlock (s : State) : Option (Nat × Nat) :=
  let open' (j : Nat) : Bool := let st := s.sstate j; !(st == 0 || st == 11 || st == 12 || st == 13)
  if s.mode ≠ 2 then some (12, s.mode)
  else if s.fld (KB_BANK_STAT_STATE s.other) ≠ 2 then some (1, 14)
  else if (idx s.nOuts).any open' then some (1, 15)
  else if s.flag CQ_GCFG_TWIN_EN && s.flag CQ_GCFG_TOK then some (1, 16)
  else none

/-- ACTIVATE: the activation pause begins: E:0x0E0A, rings other than EVENT, RECORD and OBJECT are HELD (R375). -/
def execActivate (ring : Fin 64) (s : State) : Host.Outcome State Fault Refusal :=
  s.live (s.serveRole ring 0x34 [2] false fun q _ s =>
    match s.activateBlock with
    | some (st, r) => (s.iff (st == 1) (·.setFld UPD_STATUS_REASON r)).complete ring q.num st r
    | none =>
      let s := (s.setFlag GLB_MODE_ACT_PAUSE true).event 0x0E0A [s.other]
      let s := ((s.ringsHold q.num).startTimer .pause).updKeys fun k => { k with pause := some (ring.val, q.num) }
      s.updStatus)

/-- The cores that an activation pause reloads: VC0, VC1, CE0, CE1 and the GC. -/
def pauseCores : List Nat := [3, 4, 5, 6, 7]

/-- A check-value unit is in LOAD: both channels are off (spec/16 R395). -/
def State.cvuToLoad (s : State) (u : Nat) : State :=
  (((s.setFld (CVU_CFG_STATE u) 1).setFlag (CVU_CFG_GUARD u) false).setFlag (CVU_CFG_SWEEP u) false).stopTimer (.cvu u)

/-- Check-value units of the regions that a pause reloads: every one but the MC's (spec/16 R395). -/
def pauseUnits : List Nat := [0, 2, 3, 4, 5, 6, 7]

/-- At the SF tick of a pause those cores stop, and the units of what is reloaded return to LOAD (Table 15.11, spec/16 R395). -/
def State.pauseTick (s : State) : State :=
  s.iff (s.flag GLB_MODE_ACT_PAUSE) fun s =>
    (s.each pauseCores fun s i => s.setFld (coreFld i) 0).each pauseUnits (·.cvuToLoad ·)

/-- A supply loss or a freeze ends the pause; the ACTIVATE completes after the start (R376). -/
def State.pauseCut (s : State) : State :=
  if s.flag GLB_MODE_ACT_PAUSE then
    (((s.setFlag GLB_MODE_ACT_PAUSE false).stopTimer .pause).updKeys fun k => { k with pause := none }).updStatus
  else s

/-- The pause fails: the new bank is FAILED, E:0x0E0D, and the module makes a start on the unchanged active bank (R376; the
cause is the model's choice, log entry 17). -/
def State.pauseFail (s : State) : State :=
  let b := s.other
  ((s.setFld (KB_BANK_STAT_STATE b) 5).event 0x0E0D [b]).beginStart 8

/-- ACTIVATION_FAIL: a region hash fails, a law is refused, or a core does not run by 180 ms (R376). -/
def execActivationFail (s : State) : Host.Outcome State Fault Refusal :=
  s.live (if s.flag GLB_MODE_ACT_PAUSE then s.pauseFail else s)

/-! ### TLS (R140, R358) -/

/-- The TLS slot whose chain the serving VC offers: of the slots with a chain whose mask names only its engine, the lowest one whose
chain has a root that the vehicle names, or else the lowest one (R140, R358). -/
def State.tlsSlot (s : State) (j : Nat) (hello : TlsHello) : Option Nat :=
  let ks := ((idx 256).drop 16).filter fun k =>
    (s.slot k).now.alg != 0 && (s.slot k).now.mask == 2 ^ engTls (s.outVc j) && !(s.slot k).chain.isEmpty
  match ks.find? fun k => hello.roots.contains (Config.chainRoot (s.slot k).chain) with
  | some k => some k
  | none => ks.head?

/-- TLS_HANDSHAKE: completes with the chain of a TLS slot whose mask names only the serving VC's engine, on a version, suite and group
of Table 6.4, or fails with E:0x0508 (R140). A slot outside the mask is refused with E:0x0E11 and the handshake fails; the VC names no other
slot than the one whose chain it offers (R358). -/
def execTlsHandshake (out : Fin 8) (slot : BitVec 8) (hello : TlsHello) (ok : Bool) (s : State) : Host.Outcome State Fault Refusal :=
  s.live (
    let j := out.val
    if !(s.dialog j && s.sstate j == 2 && (s.vh j).tcp && !s.flag (VD_STAT_TLS j)) then s
    else if (s.keyFor slot.toNat (engTls (s.outVc j))).isNone || slot.toNat < 16 then ((s.jobRefused slot.toNat).tlsFailed j)
    else if (s.slot slot.toNat).now.mask != 2 ^ engTls (s.outVc j) then s.tlsFailed j
    else if (s.tlsSlot j hello).any (· != slot.toNat) then s
    else if (s.slot slot.toNat).chain.isEmpty then s.tlsFailed j
    else match s.tlsPick j hello with
      | some c => if ok then (s.updVh j fun v => { v with tls := some c }).setFlag (VD_STAT_TLS j) true else s.tlsFailed j
      | none => s.tlsFailed j)

end Sys2Proof.Machine
end

