-- ==== Sys2Proof/Machine/Objects.lean ====
section
/-!
DEFINITION. What host software reaches through OBJECT rings and the safety and time commands of COMMAND rings: the legal
objects and their rights (spec/08 R218, R219), setting the time (spec/02 R41 to R43), and the safety candidate, its
confirmation and the host reset (spec/09 R248 to R251, spec/14 R350, R351).
-/

namespace Sys2Proof.Machine

open Sys2Proof

/-! ### The objects (Table 8.11) -/

/-- An object, with its channel b and rate e. -/
inductive Obj where
  | clock | fwId
  | energy (b : Nat) (exp : Bool) (e : Nat)
  | rollover (b e : Nat)
  | curDem (b : Nat) | maxDem (b : Nat)
  | demCfg | calendar | billing
  | profile (b : Nat) | periods (b : Nat)
  | records | token | counters
  | calib (b : Nat)
  | audit | transfer
deriving DecidableEq, Repr

/-- Object of an interface class and an OBIS code A to F; F is not judged (log entry 18). -/
def objOf (cls a b c d e : Nat) : Option Obj :=
  match cls, a, b, c, d, e with
  | 8, 0, 0, 1, 0, 0 => some .clock
  | 1, 1, 0, 0, 2, 0 => some .fwId
  | 3, 1, b, 1, 8, e => if e ≤ 16 then some (.energy b false e) else none
  | 3, 1, b, 2, 8, e => if e ≤ 16 then some (.energy b true e) else none
  | 1, 1, b, 128, 8, e => if e ≤ 16 then some (.rollover b e) else none
  | 5, 1, b, 1, 4, 0 => some (.curDem b)
  | 4, 1, b, 1, 6, 0 => some (.maxDem b)
  | 1, 1, 0, 0, 8, 0 => some .demCfg
  | 20, 0, 0, 13, 0, 0 => some .calendar
  | 9, 0, 0, 10, 0, 1 => some .billing
  | 7, 1, b, 99, 1, 0 => some (.profile b)
  | 7, 1, b, 98, 1, 0 => some (.periods b)
  | 7, 0, 0, 128, 1, 0 => some .records
  | 1, 0, 0, 128, 2, 0 => some .token
  | 1, 0, 0, 128, 3, 0 => some .counters
  | 1, 1, b, 128, 0, 0 => some (.calib b)
  | 7, 0, 0, 99, 98, 0 => some .audit
  | 18, 0, 0, 44, 0, 0 => some .transfer
  | _, _, _, _, _, _ => none

/-- Channel number b of an object, where it names one. -/
def Obj.chan : Obj → Option Nat
  | .energy b _ _ | .rollover b _ | .curDem b | .maxDem b | .profile b | .periods b | .calib b => some b
  | _ => none

/-- Object that a descriptor names, none where there is none or its channel is not fitted. -/
def State.objAt (s : State) (q : JSlot) : Option Obj :=
  match objOf (q.inl 0 2) (q.inl 2 1) (q.inl 3 1) (q.inl 4 1) (q.inl 5 1) (q.inl 6 1) with
  | none => none
  | some o => match o.chan with
    | none => some o
    | some b => if 1 ≤ b ∧ s.hasChan (b - 1) then some o else none

/-- Rights of a role: METROLOGY without the seal has what PUBLIC has (R219, R362). -/
def State.effRole (s : State) (r : Nat) : Nat := if r = 3 ∧ !s.flag MET_STATUS_SEAL then 0 else r

/-- R, W and A of Table 8.11. -/
def Obj.reads (o : Obj) (r : Nat) : Bool :=
  match o with
  | .billing | .transfer => false
  | .profile _ | .periods _ | .records | .token | .calib _ | .audit => r != 0
  | _ => true
def State.writes (s : State) (o : Obj) (r : Nat) : Bool :=
  match o with
  | .demCfg | .calendar => r == 1
  | .calib _ => s.metroRights r
  | _ => false
def State.acts (s : State) (o : Obj) (r : Nat) : Bool :=
  match o with
  | .clock | .calendar | .billing => r == 1
  | .transfer => s.metroRights r
  | _ => false

/-- An access without the right: ROLE with the role required, E:0x07F0 (R219, R351). -/
def State.objRefused (s : State) (n num role : Nat) : State :=
  ((s.inc LEG_ERR_ACC).event 0x07F0 [n]).complete n num 2 role

/-- A legal-part write is refused: E:0x0716, and E:0x07F3 where no change is left; ROLE where the right is missing, else
REFUSED with a RESULT that spec/ does not state (R219, log entry 18). -/
def State.legalRefused (s : State) (n num : Nat) (right left : Bool) : State :=
  let s := ((s.iff (!left) fun s => s.event 0x07F3 []).inc LEG_ERR_ACC).audit 0x0716 []
  if !right then (s.event 0x07F0 [n]).complete n num 2 3
  else
    let p := s.draw
    let r := p.1
    let s := p.2
    s.complete n num 1 r

/-! ### GET (R203, R351) -/

/-- The 32 bytes of an entry of a load profile (R203, Table 8.4). -/
def profBytes (e : ProfEntry) : List Byte :=
  toLE 8 e.time ++ toLE 4 e.eImp ++ toLE 4 e.eExp ++ toLE 4 e.durMs ++ toLE 2 e.flags ++ toLE 1 e.rate ++ toLE 1 e.clock
    ++ toLE 4 e.gap ++ toLE 4 0

/-- Inside the range of selector 1. -/
def JSlot.inRange (q : JSlot) (t : Nat) : Bool := q.inl 9 1 != 1 || (decide (q.inl 12 8 ≤ t) && decide (t ≤ q.inl 20 8))

/-- An energy register of a channel in Wh, as C × 10^12 + M: the total for `r` = 0, else rate `r` (R191, R193). -/
def State.regImp (s : State) (c r : Nat) : Nat := if r = 0 then s.whImp c else s.whRate c (r - 1)
def State.regExp (s : State) (c r : Nat) : Nat := if r = 0 then s.whExp c else nth 0 (s.chan c).rExp (r - 1) / unitWh

/-- The tables of a calendar (R194). -/
def calVals (c : Cal) : List Nat :=
  (c.seasons.flatMap fun x => [x.1, x.2.1, x.2.2]) ++ c.weeks.flatten ++ (c.days.flatMap fun d => d.flatMap fun x => [x.1, x.2])
    ++ (c.special.flatMap fun x => [x.1, x.2]) ++ [enc 64 c.std] ++ (c.dst.flatMap fun x => [x.1, enc 64 x.2]) ++ c.prices

/-- Values of an object. An energy register shows M, and the rollover object, which names no direction, the C of import and of export
(R191, Table 8.11). -/
def State.objVals (s : State) (q : JSlot) (o : Obj) : List Nat :=
  match o with
  | .clock => [s.now, enc 64 s.utcOfs, s.clk]
  | .fwId => [s.fwLegal, s.fld LEG_CHK_CHK]
  | .energy b e r =>
    [(if e then s.regExp (b - 1) r else s.regImp (b - 1) r) % 10 ^ 12]
  | .rollover b r => [s.regImp (b - 1) r / 10 ^ 12, s.regExp (b - 1) r / 10 ^ 12]
  | .curDem b => [(s.chan (b - 1)).cur]
  | .maxDem b => [(s.chan (b - 1)).max, (s.chan (b - 1)).maxAt]
  | .demCfg => [s.fld LEG_DEM_INT, s.fld LEG_DEM_SUB, s.fld LEG_DEM_BDAY]
  | .calendar => [s.fld LEG_TVER_VER, s.rate] ++ calVals s.leg.cal
      ++ (match s.leg.passive with
          | some (c, act, v) => [act, v] ++ calVals c
          | none => [])
  | .billing => []
  | .profile b => ((s.chan (b - 1)).prof.reverse.filter fun e => q.inRange e.time).flatMap fun e => (profBytes e).map BitVec.toNat
  | .periods b => (s.leg.periods.reverse.filter fun p => q.inRange p.tEnd).flatMap fun p =>
      let c := nth (0, 0, 0, 0) p.chans (b - 1)
      let r := nth ([], []) p.rateRegs (b - 1)
      [p.tStart, p.tEnd, p.flags, c.1, c.2.1, c.2.2.1, c.2.2.2] ++ r.1 ++ r.2
  | .records => (s.leg.store.filter fun r => q.inRange r.body.tEnd).flatMap fun r =>
      (s.dmrBytes r.body ++ r.sig.getD []).map BitVec.toNat
  | .token => [s.fld TOK_CFG_VALID_DAYS, s.fld TOK_CFG_LOCK_N, s.fld TOK_CFG_LOCK_T, s.fld TOK_FLOOR_FLOOR]
      ++ s.leg.window.flatMap fun e => [e.tid, b2n e.pending]
  | .counters => [s.fld KB_CNT_ID_LEFT, s.fld MET_GCFG_CALCNT, s.fld LEG_COUNTS_LEGFW, s.fld SI_ARCH_LEFT, s.fld KB_CNT_ARB]
  | .calib b =>
    if b ≤ 8 then
      let m := s.mo (b - 1)
      [(s.reg (R_MET_OCFG (b - 1))).toNat, (s.reg (R_MET_RSH (b - 1))).toNat, enc 64 m.alpha, enc 64 m.beta, enc 64 m.tCal, m.nlOn, m.nlOff]
    else [(s.reg (R_MET_FCFG (b - 9))).toNat, (s.reg (R_MET_FCT (b - 9))).toNat]
  | .audit => (s.leg.audit.reverse.filter fun e => q.inRange e.time).flatMap fun e => [e.time, e.code] ++ e.data
  | .transfer => []

/-- GET: the attribute's value as A-XDR; a selector that R351 does not name is an invalid field; entries of a load profile that are handed over count as read (R203, R351). -/
def execGet (ring : Fin 64) (s : State) : Host.Outcome State Fault Refusal :=
  s.live (
    let n := ring.val
    s.serve n 3 1 fun q s =>
      let s := s.touchRole q.d.sess
      match s.objAt q, s.roleOf q.d.sess with
      | none, _ => s.complete n q.num 3 32
      | some _, none => s.objRefused n q.num 1
      | some o, some r =>
        if !o.reads (s.effRole r) then s.objRefused n q.num 1
        else if 1 < q.inl 9 1 then s.complete n q.num 3 41
        else
          let b := Config.axdr (q.inl 0 2) (q.inl 8 1) (s.objVals q o)
          let s := match o with
            | .profile c => s.iff (decide (b.length ≤ q.d.len)) fun s => s.updChan (c - 1) fun (x : LegChan) =>
              { x with prof := x.prof.map fun (e : ProfEntry) => if q.inRange e.time then { e with read := true } else e }
            | _ => s
          s.completeData n q.num 0 b .none)

/-! ### SET (R194, R195, R219) -/

/-- A calendar keeps the bounds of R194. -/
def calOk (c : Cal) : Bool :=
  decide (c.seasons.length ≤ 4) && decide (c.weeks.length ≤ 8) && decide (c.days.length ≤ 8) && decide (c.special.length ≤ 64)
    && decide (c.dst.length ≤ 32)
    && c.days.all fun d => decide (d.length ≤ 16) && d.all fun x => decide (x.1 < 1440 ∧ 1 ≤ x.2 ∧ x.2 ≤ 16)

/-- A demand configuration keeps the bounds of R195 and R196. -/
def demOk (i n b : Nat) : Bool :=
  [1, 2, 3, 4, 5, 6, 10, 12, 15, 20, 30, 60].contains i && decide (1 ≤ n ∧ n ≤ 15) && i % n == 0 && decide (b ≤ 28)

/-- The activation of a passive calendar in s UTC: an instant that has passed acts at the next second (log entry 8). -/
def State.activation (s : State) (u : Int) : Nat := (max u (s.utcS s.tim.count + 1)).toNat

/-- Accept a passive calendar: the tariff version rises, E:0x0712 (R194). -/
def State.takeCalendar (s : State) (c : Cal) (act : Nat) : State :=
  let v := s.leg.tver + 1
  (s.updLeg fun l => { l with passive := some (c, s.activation act, v), tver := v }).event 0x0712 [v]

/-- A calibration set keeps the ranges that spec/07 gives: the sensor and the zero-flux ratio (Tables 7.1, 7.12), NL_ON and NL_OFF
(R174), VT_RATIO (Table 7.13). -/
def calibOk (b : Nat) (c : CalSet) : Bool :=
  if b ≤ 8 then
    decide (c.sensor ≤ 2) && (c.sensor != 2 || decide (1 ≤ c.rcal ∧ c.rcal ≤ 4000)) && decide (1 ≤ c.nlOn ∧ c.nlOn ≤ 500)
      && decide (1 ≤ c.nlOff ∧ c.nlOff ≤ c.nlOn)
  else decide (1 ≤ c.vt ∧ c.vt ≤ 4095)

/-- Write the calibration set of channel b; one of the 32 changes is consumed, E:0x0714 (R219). -/
def State.takeCalib (s : State) (b : Nat) (c : CalSet) : State :=
  let s := s.setFld MET_GCFG_CALCNT (s.fld MET_GCFG_CALCNT - 1)
  let s := if b ≤ 8 then
      let j := b - 1
      let s := ((s.setFld (MET_OCFG_SENSOR j) c.sensor).setFlag (MET_OCFG_ABS j) c.abs).setFlag (MET_OCFG_LEGACY j) c.legacy
      let s := (s.setFld (MET_OCFG_RCAB j) c.rcab).setFld (MET_RSH_RCAL j) c.rcal
      s.updMo j fun m => { m with alpha := c.alpha, beta := c.beta, tCal := c.tCal, nlOn := c.nlOn, nlOff := c.nlOff }
    else
      let f := b - 9
      let s := ((s.setFld (MET_FCFG_VT_RATIO f) c.vt).setFld (MET_FCT_CT_RATIO f) c.ct).setFlag (MET_FCFG_IN5 f) c.in5
      (s.setFlag (MET_FCFG_F60 f) c.f60).setFlag (MET_FCFG_NCT f) c.nct
  s.audit 0x0714 [b]

/-- SET: an object that takes a write, with a value of its type; another value is an invalid field (R219, R351). -/
def execSet (ring : Fin 64) (value : ObjValue) (s : State) : Host.Outcome State Fault Refusal :=
  s.live (
    let n := ring.val
    s.serve n 3 2 fun q s =>
      let s := s.touchRole q.d.sess
      match s.objAt q with
      | none => s.complete n q.num 3 32
      | some o =>
        let role := (s.roleOf q.d.sess).getD 9
        match o with
        | .calib b =>
          let left := s.fld MET_GCFG_CALCNT != 0
          if !s.metroRights role || !left then s.legalRefused n q.num (s.metroRights role) left
          else match value with
            | .calibration c => if calibOk b c then (s.takeCalib b c).complete n q.num 0 0 else s.complete n q.num 3 16
            | _ => s.complete n q.num 3 16
        | _ =>
          if !s.writes o role then s.objRefused n q.num 1
          else match o, value with
            | .calendar, .calendar c act =>
              if calOk c then (s.takeCalendar c act).complete n q.num 0 0 else s.complete n q.num 3 16
            | .demCfg, .demand i k b =>
              if demOk i k b then
                ((s.updLeg fun l => { l with demNew := some (i, k, b) }).setFlag LEG_DEM_PEND true).complete n q.num 0 0
              else s.complete n q.num 3 16
            | _, _ => s.complete n q.num 3 16)

/-! ### Setting the time (spec/02 R41 to R43) -/

/-- A host's time is accepted in FREERUN_UNSET and FREERUN: a correction that the next SF tick applies; elsewhere E:0x0111
and REFUSED, RESULT 0x0111. -/
def State.takeTime (s : State) (n num tai : Nat) (ofs : Int) : State :=
  if s.clk = 0 ∨ s.clk = 1 then
    s.updTim fun t =>
      { t with corr := some ((tai : Int) - s.now), corrDue := false, corrGnss := false, setBy := some (n, num, ofs) }
  else (s.event 0x0111 []).complete n num 1 0x0111

/-- SET_TIME: OPERATOR; one that is accepted completes at the SF tick that applies it (R41, R350); a module without the token raises E:0x0111 where R41 has
it, and completes NOT_HOLDER (R348). -/
def execSetTime (ring : Fin 64) (s : State) : Host.Outcome State Fault Refusal :=
  s.live (if s.tim.setBy.isSome then s
    else s.serveRole ring 1 [1] false fun q _ s =>
      if !s.holdsToken then (s.iff (decide (2 ≤ s.clk)) (·.event 0x0111 [])).complete ring q.num 7 0 else s.takeTime ring q.num (q.inl 0 8) (sext 16 (q.inl 8 2)))

/-- A new offset of 0 replaces what was left of a slew, which ends: E:0x0104 (R42, R43). -/
def State.dropSlew (s : State) : State :=
  let s := s.updTim fun t => { t with corr := none, corrDue := false }
  s.iff (s.flag TIME_STATUS_SLEWING) fun s =>
    (((s.setFlag TIME_STATUS_SLEWING false).updTim fun t => { t with slewLeft := 0 }).event 0x0104 []).fixNext

/-- A step is due at this tick: a leap second waits for it (R43). -/
def State.stepDue (s : State) : Bool :=
  s.tim.corrDue && (s.tim.corr.any fun c => decide (s.stepLimit < (c.natAbs : Int)))

/-- CORRECTION_APPLY: at the first SF tick after its acceptance a correction steps the count or starts a slew; a host
setting moves the state to FREERUN and completes; a step is a step for the legal registers (R41 to R43, R199, R200). A GNSS offset
accepted after a host's setting and before its tick replaces the correction alone: the setting still completes OK, sets the UTC
offset and moves the state to FREERUN (DESIGN CHOICE, log entry 54). -/
def execCorrectionApply (s : State) : Host.Outcome State Fault Refusal :=
  s.live (match s.tim.corr with
    | none => s
    | some c =>
      if !s.tim.corrDue then s
      else
        let old := s.tim.count
        let by_ := s.tim.setBy
        let s := s.updTim fun t => { t with setBy := none }
        let step := decide (s.stepLimit < (c.natAbs : Int))
        let s := if c = 0 then s.dropSlew else s.applyCorr c
        let s := match by_ with
          | some (n, num, ofs) => (((s.setFldS TIME_UTC_UTC_OFS ofs).setClk 1).fixNext).complete n num 0 0
          | none => s
        s.iff step (·.legStep old))

/-- LEAP_SECOND_APPLY: at the SF tick that reaches the instant the offset changes; the MC records it in the legal audit log
(R34, R43). -/
def execLeapSecondApply (s : State) : Host.Outcome State Fault Refusal :=
  s.live (if s.leapDue && !s.stepDue then
    let s := s.applyLeap
    s.updLeg fun l => { l with audit := s.newEvent 0x0108 [] :: l.audit }
  else s)

/-! ### ACTION (R41, R194, R196, R377) -/

/-- Activation of a legal firmware change: the conditions of R375, one of the 8 changes, E:0x0715, and a start on the new
bank in TRIAL with RCAUSE 7 (R219, R377). -/
def State.legalActivate (s : State) (n num : Nat) (right : Bool) : State :=
  let left := s.fld LEG_COUNTS_LEGFW
  if !right || left == 0 then s.legalRefused n num right (left != 0)
  else match s.activateBlock with
    | some (st, r) => (s.iff (st == 1) (·.setFld UPD_STATUS_REASON r)).complete n num st r
    | none =>
      let b := s.other
      let s := ((s.setFld LEG_COUNTS_LEGFW (left - 1)).audit 0x0715 [s.fld (KB_BANK_LEGAL_LEGAL_VER b)]).complete n num 0 0
      let s := ((s.setFld KB_BOOT_ACTIVE b).setFlag KB_BOOT_TRIAL true).setFld (KB_BANK_STAT_STATE b) 4
      (s.startTimer .trial).beginStart 7

/-- Methods of the legal firmware transfer object: 1 initiate with the container header in the buffer, 2 a block, 3 verify,
4 activate (IEC 62056-6-2 class 18; R372 to R374, R377). -/
def State.transferAct (s : State) (n : Nat) (q : JSlot) (arg : ActArg) (right : Bool) : State :=
  let holds := s.keys.lock == some q.d.sess && s.keys.legal
  let bytes := q.d.data.getD []
  match q.inl 8 1 with
  | 1 =>
    let r := s.openUpdate q.d.sess bytes true false
    r.1.complete n q.num r.2.1 r.2.2
  | 2 => match arg with
    | .block off =>
      if !holds then s.complete n q.num 2 3
      else
        let r := s.writeUpdate off bytes
        r.1.complete n q.num (if r.2 = 0 then 0 else 1) r.2
    | _ => s.complete n q.num 3 16
  | 3 =>
    if !holds then s.complete n q.num 2 3
    else
      let r := s.verifyUpdate
      r.1.complete n q.num (if r.2 = 0 then 0 else 1) r.2
  | 4 => s.legalActivate n q.num right
  | _ => s.complete n q.num 3 40

/-- ACTION: the clock, the activation of the passive calendar, the billing-period reset, and the legal firmware transfer
(Table 8.11). -/
def execAction (ring : Fin 64) (arg : ActArg) (s : State) : Host.Outcome State Fault Refusal :=
  s.live (
    let n := ring.val
    s.serve n 3 3 fun q s =>
      let s := s.touchRole q.d.sess
      match s.objAt q with
      | none => s.complete n q.num 3 32
      | some o =>
        let role := (s.roleOf q.d.sess).getD 9
        if o = .transfer ∧ q.inl 8 1 = 4 then s.transferAct n q arg (s.metroRights role)
        else if !s.acts o role then s.objRefused n q.num (if o = .transfer then 3 else 1)
        else match o, arg with
          | .clock, .time tai ofs => s.takeTime n q.num tai ofs
          | .calendar, _ =>
            let s := s.updLeg fun l => { l with passive := l.passive.map fun p => (p.1, s.activation 0, p.2.2) }
            s.complete n q.num 0 0
          | .billing, _ => (s.closePeriod s.tim.count).complete n q.num 0 0
          | .transfer, _ => s.transferAct n q arg true
          | _, _ => s.complete n q.num 3 16)

/-! ### Safety commands (spec/09 R248 to R251, Table 14.13) -/

/-- The descriptor that waits for the end of a confirmation completes. -/
def State.settleConf (s : State) (why : Nat) : State :=
  match s.isl.confBy with
  | some (n, num) => (s.updIsl fun i => { i with confBy := none }).complete n num (if why = 0 then 0 else 1) why
  | none => s

/-- SAFETY_CANDIDATE: in COMMISSION, under SERVICE; RESULT is the candidate check value. A candidate that replaces one in
confirmation ends that confirmation. -/
def execSafetyCandidate (ring : Fin 64) (s : State) : Host.Outcome State Fault Refusal :=
  s.live (s.serveRole ring 0x10 [2] false fun q _ s =>
    if s.mode ≠ 1 then s.complete ring q.num 12 s.mode
    else match q.d.data with
      | none => s.dmaFail ring q.num
      | some b =>
        let img := b.take 512
        let r := s.candReason img
        if r ≠ 0 then (s.takeCandidate img).complete ring q.num 1 r
        else
          let s := (s.settleConf 9).takeCandidate img
          s.complete ring q.num 0 s.isl.candChk)

/-- SAFETY_CONFIRM: the check value; a match waits for the local acknowledgement, and the descriptor with it. -/
def execSafetyConfirm (ring : Fin 64) (s : State) : Host.Outcome State Fault Refusal :=
  s.live (s.serveRole ring 0x11 [2] false fun q _ s =>
    let st := s.isl.candStage
    let s := s.hostConfirm (q.inl 0 4)
    if st ≠ 1 then s.complete ring q.num 1 9
    else if s.isl.candStage = 2 then s.updIsl fun i => { i with confBy := some (ring.val, q.num) }
    else s.complete ring q.num 1 6)

/-- CONFIRM_WINDOW_EXPIRY: 300 s without the host, or 60 s without the local acknowledgement, have passed (R251). -/
def execConfirmWindowExpiry (s : State) : Host.Outcome State Fault Refusal :=
  s.live (if s.isl.candStage == 1 && s.due .candHost (300 * sec) then s.dropCand 7
    else if s.isl.candStage == 2 && s.due .candAck (60 * sec) then (s.dropCand 8).settleConf 8 else s)

/-- The local acknowledgement of a candidate (R251): the descriptor that waits completes. -/
def State.acknowledgeCand (s : State) : State :=
  let chk := s.isl.candChk
  let s := s.ackCandidate
  s.settleConf (if s.isl.conf && s.isl.chk == chk then 0 else 11)

/-- A candidate goes with COMMISSION, and a confirmation that was in progress ends with it (R251). -/
def State.candTick (s : State) : State :=
  let s := s.iff (s.isl.candStage != 0 && s.mode != 1) fun s => s.dropCand 12
  s.iff (s.isl.confBy.isSome && s.isl.candStage != 2) fun s => s.settleConf 12

/-- SAFETY_RESET: OK with E:0x0803; REFUSED with the blocking cause (R248). -/
def execSafetyReset (ring : Fin 64) (s : State) : Host.Outcome State Fault Refusal :=
  s.live (s.serveRole ring 0x12 [2] false fun q _ s =>
    match s.hostResetBlock with
    | some c => (s.hostReset).complete ring q.num 1 c
    | none => (s.hostReset).complete ring q.num 0 0)

end Sys2Proof.Machine
end

