-- ==== Sys2Proof/Machine/Pages.lean ====
section
/-!
DEFINITION. What PNL1 shows: the event lines, the status strip and the pages of Table 11.6 (spec/11 R289, R290), each page as its
owning chapter states it.
-/

/-- Grey levels, row by row, of the strip, of a page of PNL1 and of the GC's part of PNL0: the typefaces and places are not given (spec/11 R289, R290). -/
opaque Sys2Proof.Config.renderStrip (strip : Sys2Proof.Machine.Strip) : List Nat
opaque Sys2Proof.Config.renderPage (page : Sys2Proof.Machine.Page) : List Nat
opaque Sys2Proof.Config.renderRest (rest : Sys2Proof.Machine.Pnl0Rest) : List Nat

namespace Sys2Proof.Machine

open Sys2Proof

/-- Two groups of four hex digits (spec/08 R190, spec/09 R250). -/
def chkGroups (v : Nat) : Nat × Nat := (v / 2 ^ 16 % 2 ^ 16, v % 2 ^ 16)

/-- Clock state letter (spec/02 R50). -/
def clkLetter (c : Nat) : Char :=
  if c ≤ 1 then 'F' else if c = 2 then 'K' else if c = 3 then 'L' else if c ≤ 5 then 'H' else 'T'

/-- Mode name (spec/01 Table 1.13). -/
def modeName (m : Nat) : String :=
  nth "" ["BOOT", "COMMISSION", "STANDBY", "RUN", "DEGRADED", "SAFE", "FROZEN", "BENCH"] m

/-- The event line of an event (R289). -/
def Event.line (e : Event) : EventLine :=
  let i := e.inst
  { utcMs := ((e.time : Int) - e.ofs * 1000000000) / 1000000, unsure := e.invalid, code := e.code, suffix := i.1, num := i.2
    lane := e.lane, data := e.word }

/-- The last `k` event lines, newest first. -/
def State.eventLines (s : State) (k : Nat) : List EventLine := (s.logged.take k).map (·.line)

/-- Index of the last capture. -/
def State.lastCap (s : State) : Option Nat :=
  let k := s.fld FRZ_STAT_LAST
  if k < 4 ∧ s.fld (CAP_IDX_INDEX k) ≠ 0 then some (s.fld (CAP_IDX_INDEX k)) else none

/-- The strip as it is drawn now (Table 11.5). -/
def State.stripNow (s : State) : Strip :=
  { serial := s.serial, mode := modeName s.mode, clk := clkLetter s.clk, valid := s.flag TIME_STATUS_VALID, utcMin := s.utcS s.now / 60
    siChk := chkGroups (s.fld SI_CHK_CHK), legChk := chkGroups (s.fld LEG_CHK_CHK), cap := s.lastCap, events := s.eventLines 8 }

/-! ### Pages -/

/-- Letters of the link page: LSTATE 0 to 6 (spec/03 R75). -/
def linkLetter (l : Nat) : Char := nth '?' ['O', 'K', 'T', 'A', 'R', 'L', 'S'] l

/-- Session state abbreviation (spec/06 Table 6.7). -/
def sstateName (st : Nat) : String :=
  nth "" ["ID", "PL", "SU", "AU", "PA", "CC", "PC", "TR", "PS", "ST", "WD", "EN", "FT", "UN"] st

/-- Pilot state letter (spec/06 Table 6.16); an invalid state shows "-". -/
def pilotLetter (p : Nat) : Char := nth '-' ['A', 'B', 'C', 'D', 'E', 'F'] p

/-- The binding LIMBY terms as letters (spec/05 R134). -/
def limbyLetters (m : Nat) : String :=
  String.ofList (((idx 6).filter fun k => bit m k).map fun k => nth '?' ['C', 'T', 'V', 'B', 'S', 'F'] k)

def State.bankLine (s : State) (b : Nat) : BankLine :=
  { version := s.fld (KB_BANK_VER_VERSION b), state := s.fld (KB_BANK_STAT_STATE b), svn := s.fld (KB_BANK_STAT_SVN b)
    trial := s.flag KB_BOOT_TRIAL && s.fld KB_BOOT_ACTIVE == b, arb := s.fld KB_CNT_ARB, fvk := (s.bank b).hdr.fvk }

def State.engineLine (s : State) (c : Nat) : EngineLine :=
  ⟨s.fld (CE_STATUS_LAW_ID c), s.fld (CE_CYC_STATIC c), s.fld (CE_CYC_PEAK c), s.fld (CE_STATUS_OVR_RUN c)⟩

def State.outLine (s : State) (j : Nat) : OutLine :=
  { g := Int.tdiv (s.fldS (OUT_GRANT_VAL j)) 10, ilim := Int.tdiv (s.fldS (OUT_ILIM_VAL j)) 10, f := s.fld (OUT_STAT_DERATE j)
    limby := limbyLetters (s.fld (OUT_STAT_LIMBY j)), k := s.flag (OUT_STAT_COOL_FAIL j), sstate := sstateName (s.sstate j)
    pilot := pilotLetter (s.fld (VD_STAT_PILOT j)), proto := s.proto j, reason := s.fld (VD_STAT_REASON j) }

def State.metLine (s : State) (j : Nat) : MetLine :=
  { v := s.fldS (MET_VSF_V j), i := s.fldS (MET_ISF_I j), p := s.fldS (MET_PSF_P j), mode := if s.flag (MET_OCFG_ABS j) then 'A' else 'N'
    legacy := s.flag (MET_OCFG_LEGACY j), calchk := s.flag (MET_ROT_CALCHK j), step := s.fld (MET_ROT_STEP j) }

def State.feedLine (s : State) (f : Nat) : FeedLine :=
  { p := s.fldS (MET_FP_P f), freq := s.fld (MET_FFREQ_FREQ f), thdv := s.fld (MET_FHW_THDV f), tdd := s.fld (MET_FHW_TDD f)
    hf := s.fld (FEED_STAT_HFACT f) }

/-- Character of a safety input (spec/09 R257). -/
def State.sinChar (s : State) (i : Nat) : Char := if (s.sin i).fault then 'X' else if (s.sin i).dem then 'D' else '.'

/-- Character of a PS channel (spec/10 R277); off in undervoltage it is off. -/
def State.chanChar (s : State) (n : Nat) : Char :=
  if s.flag (PS_STAT_FSA n) then 'F' else if s.flag (PS_STAT_THERM n) then 'T'
  else nth '.' ['.', '/', '1', 'R', 'L', '.'] (s.fld (PS_STAT_STATE n))

def State.portLine (s : State) (n : Nat) : PortLine := ⟨s.fld (NR_STAT_STATE n), s.fld (NR_UID_2_LEN n), s.fld (NR_STAT_PROT n)⟩

def State.slaveLine (s : State) (n : Nat) : SlaveLine :=
  { state := s.fld (ML_SST_STATE n), mode := s.fld (ML_LQ_MODE n), hops := s.fld (ML_LQ_HOPS n), snr := s.fldS (ML_LQ_SNR n)
    miss := s.fld (ML_SST_MISS n) }

def State.supPage (s : State) : SupPage :=
  { hrState := s.fld HR_STATUS_STATE, jused := s.fld HR_STATUS_JUSED, epoch := s.fld HR_EPOCH_EPOCH, speed := s.fld HR_LINK_SPEED
    width := s.fld HR_LINK_WIDTH, rings := (idx 64).filter fun n => s.fld (RING_STAT_STATE n) == 2 || s.fld (RING_STAT_STATE n) == 4
    mems := (idx 9).map fun m => (s.fld (MI_REMAP_USED m), s.fld (MI_POIS_COUNT m))
    units := (idx 8).map fun u => s.fld (CVU_CFG_STATE u), logicA := s.fld SUP_V_A, logicB := s.fld SUP_V_B, store := s.fld SUP_STORE_V
    euse := s.fld SUP_STORE_EUSE, hold := s.flag SUP_STAT_HOLD
    caps := (idx 4).map fun k => (s.fld (CAP_IDX_INDEX k), s.fld (CAP_ST_STATUS k)), twin := s.fld TW_STAT_STATE, ofs := s.fldS TW_OFS_OFS }

/-- The page of a number (Table 11.6): 13 to 15 are page 0. What the time page shows is not given: the model shows the clock state,
VALID and the UTC legal time (log entry 65). -/
def State.pageOf (s : State) : Nat → Page
  | 1 => .identity s.serial (s.reg R_GLB_HWREV).toNat (s.reg R_GLB_FW_LEGAL).toNat (s.reg R_GLB_FW_UPD).toNat
      (chkGroups (s.fld LEG_CHK_CHK)) (chkGroups (s.fld SI_CHK_CHK)) ((idx 2).map s.bankLine)
  | 2 => .time (clkLetter s.clk) (s.flag TIME_STATUS_VALID) (((s.now : Int) - s.utcOfs * 1000000000) / 1000000)
  | 3 => .links ((idx s.nLinks).map fun n => linkLetter (s.lst n))
  | 4 => .engines ((idx 2).map s.engineLine)
  | 5 => .outputs ((idx s.nOuts).map s.outLine)
  | 6 => .metrology ((idx s.nOuts).map s.metLine) ((idx 2).map s.feedLine)
  | 7 => .billing s.rate (s.flag LEG_STATUS_SUSPEND) (s.flag LEG_STATUS_REENTER) (s.fld LEG_REC_PENDING) (s.fld LEG_REC_CAP)
      (chkGroups (s.fld LEG_CHK_CHK))
  | 8 => .safety (s.fld SI_STATUS_ISTATE) (s.fld SI_STATUS_ARCH) (chkGroups (s.fld SI_CHK_CHK)) (s.fld SI_DEG_REM_REM / 3600)
      (s.fld SI_DEG_REM_REM / 60 % 60) ((idx s.nOuts).map fun j => s.fld (SI_OSTAT_TRIP j)) ((idx 16).map s.sinChar)
  | 9 => .switches ((idx 24).map s.chanChar) ((idx 4).map fun r => (s.fld (PS_RAIL_V r), s.fld (PS_RAIL_I r)))
      ((idx 8).map fun k => (s.fld (SO_DIAG_PULSE k), s.fld (SO_DIAG_DISC k)))
  | 10 => .contactless ((idx 4).map s.portLine) (s.flag NT_STAT_FIELD) (s.fld NT_STAT_FAILS) s.tag.head s.tag.gap
  | 11 => .mallas (((idx 63).drop 1).map s.slaveLine)
      [s.fld ML_ERR_CRC, s.fld ML_ERR_NORESP, s.fld ML_ERR_IMP, s.fld ML_ERR_UNK]
  | 12 => .supplies s.supPage
  | _ => .events (s.eventLines 64)

/-- What the page area of PNL1 shows: the commissioning view while a candidate awaits confirmation, else the page named in
PNL_PAGE (R290). -/
def State.pageNow (s : State) : Page :=
  if s.isl.candStage ≠ 0 then .confirm (chkGroups (s.fld SI_CAND_CHK_CHK)) else s.pageOf (s.fld PNL_PAGE_PAGE)

end Sys2Proof.Machine
end

