-- ==== Sys2Proof/Machine/Keypad.lean ====
section
/-!
DEFINITION. Panel updates and what the panels show, PD8, and the keypad with its token entry (spec/11 R279, R280, R289 to
R295).
-/

namespace Sys2Proof.Machine

open Sys2Proof

/-! ### PD8 (R280) -/

/-- PD8 goes on. -/
def State.pd8On (s : State) : State :=
  if bit (s.fld GLB_PD_STATE_ON) 8 then s
  else s.pdSet (s.fld GLB_PD_STATE_ON + 0x100)

/-- Reader port `n` polls (spec/12 R299): in STANDBY, RUN or DEGRADED, always, or while an output it serves is in PLUGGED, SETUP
or AUTH, or while it holds a card. -/
def State.portPolls (s : State) (n : Nat) : Bool :=
  s.flag (NR_CFG_EN n) && (s.mode == 2 || s.running) && s.fld (NR_STAT_STATE n) != 5
    && (s.flag (NR_CFG_ALWAYS n) || (nth NfcPort.rest s.nfc n).held.isSome
        || (idx s.nOuts).any fun j => bit (s.fld (NR_CFG_OUTS n)) j && decide (1 ≤ s.sstate j ∧ s.sstate j ≤ 3))

/-- Something needs PD8: an update queued or in flight, a reader port that polls, an open keypad entry, a compensation
pass. -/
def State.pd8Need (s : State) : Bool :=
  (s.pnl.panels.any fun p => !p.queue.isEmpty || p.step != 0 || p.pix.any fun q => q.2.drive.isSome || q.2.pend.isSome || q.2.mark || q.2.comp)
    || (idx 4).any s.portPolls || s.fld KP_STAT_STATE == 1 || s.fld KP_STAT_STATE == 2

/-- PD8 goes off. -/
def State.pd8Off (s : State) : State := ((s.stopTimer .pd8Idle).pdSet (s.fld GLB_PD_STATE_ON - 0x100)).startTimer .pnlWake

/-- The GC's watch on PD8 at an SF tick; PD8 that was on to read the panels goes off after its SF. -/
def State.pd8Tick (s : State) : State :=
  if s.pnl.wake && bit (s.fld GLB_PD_STATE_ON) 8 && !s.pd8Need then (s.updPnl fun x => { x with wake := false }).pd8Off
  else
  let s := s.updPnl fun x => { x with wake := false }
  if bit (s.fld GLB_PD_STATE_ON) 8 && !s.pd8Need then s.iff (!s.timing .pd8Idle) (·.startTimer .pd8Idle)
  else
    let s := s.stopTimer .pd8Idle
    s.iff (s.pd8Need && !bit (s.fld GLB_PD_STATE_ON) 8 && s.coreRuns 7 && decide (1 ≤ s.mode ∧ s.mode ≠ 6)
      && !s.flag SUP_STAT_STORE) (·.pd8On)

/-- PD8_IDLE_OFF: PD8 has not been needed for PD8_IDLE, and the GC switches it off. -/
def execPd8IdleOff (s : State) : Host.Outcome State Fault Refusal :=
  s.live (if s.due .pd8Idle (s.fld PNL_GCFG_PD8_IDLE * sec) && s.coreRuns 7 && bit (s.fld GLB_PD_STATE_ON) 8 && !s.pd8Need then
    s.pd8Off
  else s)

/-- PANEL_TEMP_WAKE: every 60 s the GC reads the panels that a heater serves, as long as the last reading was below HEAT_ON +
5 K; with PD8 off it is on for one SF for that (R280). -/
def execPanelTempWake (temps : List (Option Int)) (s : State) : Host.Outcome State Fault Refusal :=
  s.live (if (!s.timing .pnlWake || s.due .pnlWake (60 * sec)) && s.coreRuns 7 && decide (1 ≤ s.mode ∧ s.mode ≠ 6) then
    let want := (idx 2).any fun p => s.pnUsed p
      && s.fld (PNL_HEAT_CH p) != 0x1F && decide (s.fldS (PNL_STAT_TEMP p) < s.fldS (PNL_HEAT_HEAT_ON p) + 5)
    if !want then s
    else
      let s := s.iff (!bit (s.fld GLB_PD_STATE_ON) 8) fun s => (s.updPnl fun x => { x with wake := true }).pd8On
      (s.startTimer .pnlWake).each (idx 2) fun s p => s.iff (s.pnUsed p) (·.takeTemp p (nth none temps p))
  else s)

/-- KEYPAD_WAKE: with PD8 off, a row that reads low wakes it (R294). -/
def execKeypadWake (s : State) : Host.Outcome State Fault Refusal :=
  s.live (if s.flag KP_CFG_EN && !bit (s.fld GLB_PD_STATE_ON) 8 && bit (s.fld GLB_PD_STATE_ON) 0 && s.mode != 6 && s.mode != 0
    then s.pd8On else s)

/-! ### Updates (R279, R286, R291) -/

/-- The rectangle lies in the legal field. -/
def State.inLegal (s : State) (p y h : Nat) : Bool := p == 0 && decide (s.legalRow < y + h)

/-- PANEL_UPDATE_REQUEST: the GC hands over a region, a mode and a target image; one that overlaps the legal field is
refused with E:0x0A0E. A rectangle off the panel is no region of it (log entry 20). -/
def execPanelUpdateRequest (panel : Fin 2) (x y w h : Nat) (mode : Fin 3) (img : List Nat) (s : State) :
    Host.Outcome State Fault Refusal :=
  s.live (
    let p := panel.val
    if !s.coreRuns 7 || decide (s.fld (PNL_CFG_WIDTH p) < x + w) || decide (s.fld (PNL_CFG_HEIGHT p) < y + h) then s
    else if s.inLegal p y h then s.event 0x0A0E [p]
    else if mode.val = 1 ∧ img.any (fun l => l != 0 && l != 15) then s
    else (s.pd8On).pnQueue p ⟨x, y, w, h, mode, img.map (· % 16)⟩)

/-! ### PNL1 (R289, R290) -/

/-- The page area of PNL1 shows its page, the first one after a start in CLEAR (R288, R290). When a page is drawn again is not given:
the model draws it when it is selected or left, and with the strip (log entry 65). -/
def State.drawPage (s : State) : State :=
  let p := s.pageNow
  if !s.coreRuns 7 || s.pnl.page == some p then s
  else
    let mode := if s.pnl.page.isNone then 2 else 1
    ((s.updPnl fun x => { x with page := some p }).pd8On).pnQueue 1 ⟨0, 200, 1600, 1000, mode, Config.renderPage p⟩

/-- STRIP_REDRAW: after a mode change, an event, or 10 min, and no more often than every 10 s; the first one after
a start in CLEAR (R288, R289). -/
def execStripRedraw (s : State) : Host.Outcome State Fault Refusal :=
  s.live (
    let news := s.pnl.drawn != (s.log.length, s.mode)
    let early := s.timing .strip && !s.due .strip (10 * sec)
    if !s.coreRuns 7 || early || !(news || s.due .strip (600 * sec) || !s.timing .strip) then s
    else
      let t := s.stripNow
      let mode := if s.pnl.strip.isNone then 2 else 1
      let s := (s.updPnl fun x => { x with strip := some t, drawn := (s.log.length, s.mode) }).startTimer .strip
      ((s.pd8On).pnQueue 1 ⟨0, 0, 1600, 200, mode, Config.renderStrip t⟩).drawPage)

/-- A page is selected: 13 to 15 are shown as page 0 (R290). -/
def State.selectPage (s : State) (k : Nat) : State := ((s.setFld PNL_PAGE_PAGE k).startTimer .page).drawPage

/-- PAGE_TIMEOUT: PNL1 returns to page 0 after PAGE_T without a selection (R290). -/
def execPageTimeout (s : State) : Host.Outcome State Fault Refusal :=
  s.live (if s.due .page (s.fld PNL_GCFG_PAGE_T * 10 * sec) then ((s.stopTimer .page).setFld PNL_PAGE_PAGE 0).drawPage else s)

/-! ### PNL0 (R291, R292) -/

/-- PNL0 can update (R292). -/
def State.pnl0Ok (s : State) : Bool := s.pnUsed 0 && s.flag (PNL_TBL_OK 0) && (s.pn 0).hold == 0

/-- Output of a legal line: the first four bits of KP_CFG.PNL0_OUTS. -/
def State.lineOut (s : State) (k : Nat) : Option Nat := ((idx s.nOuts).filter fun j => bit (s.fld KP_CFG_PNL0_OUTS) j)[k]?

/-- Energy of the running or last session of an output, in Wh. -/
def State.sessEnergy (s : State) (j : Nat) (last : LegalLine) : Nat :=
  match s.leg.sessions.findSome? fun x => x.members.find? fun m => m.out == j && !m.ended with
  | some m => s.whImp j - m.impS
  | none =>
    match s.leg.store.findSome? fun r => r.body.members.find? fun m => m.out == j && m.session == s.sess j with
    | some m => m.impE - m.impS
    | none => last.energy

/-- LEGAL_LINE_REDRAW: every 1 s while the output is in TRANSFER, otherwise when the content changes and no more often than
once a minute; every 50th MONO update is made in CLEAR. While the field shows the legal check value no line is drawn; then each is
drawn anew (R291). -/
def execLegalLineRedraw (line : Fin 4) (s : State) : Host.Outcome State Fault Refusal :=
  s.live (
    let k := line.val
    match s.lineOut k with
    | none => s
    | some j =>
      let old := nth LegalLine.rest s.pnl.lines k
      let new : LegalLine :=
        { out := j, sstate := s.sstate j, energy := s.sessEnergy j old, total := s.whImp j % 10 ^ 12, rate := s.rate
          time := s.now, monos := (old.monos + 1) % 50 }
      let same := { new with time := old.time, monos := old.monos } == old
      let wait := if s.sstate j = 7 then sec else 60 * sec
      if !s.coreRuns 2 || !s.pnl0Ok || s.pnl.chk.isSome || (s.timing (.line k) && !s.due (.line k) wait) || (s.sstate j != 7 && same && s.timing (.line k)) then s
      else
        let s := (s.updPnl fun x => { x with lines := x.lines.set k new }).startTimer (.line k)
        let w := s.fld (PNL_CFG_WIDTH 0)
        (s.pd8On).pnQueue 0
          ⟨0, s.legalRow + 150 * k, w, 150, if new.monos = 0 then 2 else 1,
            Config.render 1 [new.out, new.sstate, new.energy, new.total, new.rate, new.time]⟩)

/-! ### Keypad (R293, R294) -/

/-- KEY_ACCEPTED: a key has read pressed for 20 ms, with `pressed` keys down; two or more lock the keypad until all are
released; a full FIFO drops the key: E:0x0A12 with the output of the open entry. -/
def execKeyAccepted (code : Fin 16) (pressed : Nat) (s : State) : Host.Outcome State Fault Refusal :=
  s.live (if !s.flag KP_CFG_EN || !s.pdGood 8 then s
    else if 2 ≤ pressed then s.updPnl fun x => { x with multi := true }
    else if s.pnl.multi then s
    else if 16 ≤ s.pnl.fifo.length then (s.inc KP_STAT_OVF).event 0x0A12 [s.fld KP_STAT_OUT]
    else (s.updPnl fun x => { x with fifo := x.fifo ++ [code.val] }).setFld KP_STAT_LAST code)

/-- KEY_RELEASED: a release of 20 ms; with every key open, keys are accepted again. -/
def execKeyReleased (allOpen : Bool) (s : State) : Host.Outcome State Fault Refusal :=
  s.live (if allOpen then s.updPnl fun x => { x with multi := false } else s)

/-- The GC has read a key: it leaves the FIFO, and KEY_T begins again. -/
def State.keyRead (s : State) : State :=
  (s.updPnl fun x => { x with fifo := x.fifo.tail }).iff (s.timing .keyT) (·.startTimer .keyT)

/-- The GC reads keys without a function (B), which do nothing but end a service page sequence: in its slot, and before another key. -/
def State.dropB (s : State) : State :=
  s.each (s.pnl.fifo.takeWhile (· == 0xB)) fun s _ => (s.keyRead).updPnl fun x => { x with stars := [] }

/-- The GC takes the oldest key, where it is one of `ks`. -/
def State.takeKey (s : State) (ks : List Nat) (f : Nat → State → State) : State :=
  if !s.coreRuns 7 then s
  else
    let s := s.dropB
    match s.pnl.fifo with
    | [] => s
    | k :: _ => if ks.contains k then f k s.keyRead else s

/-- State of token entry: 0 idle, 1 output selection, 2 entering, 3 submitted, 4 locked. -/
def State.kp (s : State) : Nat := s.fld KP_STAT_STATE

/-- Prompt of PNL0; a result stays for 10 s (R295). -/
def State.prompt (s : State) (m v : Nat) : State := (s.updPnl fun x => { x with msg := (m, v) }).startTimer .kpMsg

/-- The entry ends: the digit buffer is cleared (R295). -/
def State.endEntry (s : State) (st : Nat) : State :=
  ((((s.updPnl fun x => { x with digits := [] }).setFld KP_STAT_DIGITS 0).setFld KP_STAT_OUT 15).setFld KP_STAT_STATE st).stopTimer .keyT

/-- Outputs of PNL0 whose session is in AUTH with EIM selected. -/
def State.waiting (s : State) : List Nat :=
  (idx s.nOuts).filter fun j => bit (s.fld KP_CFG_PNL0_OUTS) j && s.sstate j == 3 && (s.vh j).payment == 1

/-- KEY_A opens token entry (R295, step 1). -/
def execKeyA (s : State) : Host.Outcome State Fault Refusal :=
  s.live (s.takeKey [0xA] fun _ s =>
    let s := s.updPnl fun x => { x with stars := [] }
    if s.kp = 1 ∨ s.kp = 2 ∨ !s.pnl0Ok then s
    else if s.flag TOK_STAT_LOCKED then
      (s.prompt 1 ((s.fld TOK_CFG_LOCK_T * 300 * sec - s.elapsed .tokenLock) / (60 * sec))).endEntry 4
    else match s.waiting with
      | [] => (s.prompt 2 0).endEntry 0
      | [j] => ((((s.prompt 0 0).endEntry 0).setFld KP_STAT_OUT j).setFld KP_STAT_STATE 2).startTimer .keyT
      | _ => (((s.prompt 3 0).endEntry 0).setFld KP_STAT_STATE 1).startTimer .keyT)

/-- An entry is open that the keypad refuses to go on with, while PNL0 cannot update (R292). -/
def State.entryShut (s : State) : Bool := (s.kp == 1 || s.kp == 2) && !s.pnl0Ok

/-- KEY_DIGIT chooses the output, adds a digit up to the twentieth, or completes a service page (R290, R292, R295). -/
def execKeyDigit (s : State) : Host.Outcome State Fault Refusal :=
  s.live (s.takeKey [0, 1, 2, 3, 4, 5, 6, 7, 8, 9] fun d s =>
    if s.entryShut then s
    else if s.kp = 1 then
      if s.waiting.contains d then ((s.prompt 0 0).setFld KP_STAT_OUT d).setFld KP_STAT_STATE 2 else s
    else if s.kp = 2 then
      if s.pnl.digits.length < 20 then
        let s := s.updPnl fun x => { x with digits := x.digits ++ [d] }
        s.setFld KP_STAT_DIGITS s.pnl.digits.length
      else s
    else match s.pnl.stars with
      | [0xE, 0xE] => s.updPnl fun x => { x with stars := [0xE, 0xE, d] }
      | [0xE, 0xE, t] =>
        (s.updPnl fun x => { x with stars := [] }).iff (s.flag KP_CFG_SVC_PAGE && decide (10 * t + d < 16)) (·.selectPage (10 * t + d))
      | _ => s.updPnl fun x => { x with stars := [] })

/-- KEY_STAR deletes the last digit, or begins a service page (R290, R292, R295). -/
def execKeyStar (s : State) : Host.Outcome State Fault Refusal :=
  s.live (s.takeKey [0xE] fun _ s =>
    if s.entryShut then s
    else if s.kp = 2 then
      let s := s.updPnl fun x => { x with digits := x.digits.dropLast }
      s.setFld KP_STAT_DIGITS s.pnl.digits.length
    else s.updPnl fun x => { x with stars := if x.stars = [0xE] then [0xE, 0xE] else [0xE] })

/-- KEY_HASH submits the digits to the MC: E:0x0A10; PNL0 shows the result (R292, R295, R215). -/
def execKeyHash (s : State) : Host.Outcome State Fault Refusal :=
  s.live (s.takeKey [0xF] fun _ s =>
    if s.entryShut then s
    else if s.kp = 2 ∧ s.coreRuns 2 then
      let j := s.fld KP_STAT_OUT
      let ds := s.pnl.digits
      let r := s.tokCheck ds
      let s := ((s.event 0x0A10 [j]).endEntry 3).tokValidate j ds
      if r.1 = 0 then s.prompt 4 r.2.2.1 else s.prompt 5 r.1
    else s.updPnl fun x => { x with stars := [] })

/-- What the GC's part of PNL0 shows now (R291). -/
def State.restNow (s : State) : Pnl0Rest :=
  ⟨s.pnl.msg, (idx 5).map fun g => (s.pnl.digits.drop (4 * g)).take 4, ((idx s.nOuts).filter fun j => bit (s.fld KP_CFG_PNL0_OUTS) j).map fun j => (s.vh j).price⟩

/-- The GC's panel slot: a result leaves after 10 s, and the part of PNL0 above the legal field is drawn where its content changed,
the first one after a start in CLEAR (R279, R288, R291, R295; log entry 65). -/
def State.restTick (s : State) : State :=
  let s := s.iff (4 ≤ s.pnl.msg.1 && s.due .kpMsg (10 * sec)) fun s =>
    let s := (s.stopTimer .kpMsg).updPnl fun x => { x with msg := (0, 0) }
    s.iff (s.kp == 3) (·.setFld KP_STAT_STATE 0)
  let r := s.restNow
  if !s.pnl0Ok || s.legalRow == 0 || s.pnl.rest == some r then s
  else
    let mode := if s.pnl.rest.isNone then 2 else 1
    ((s.updPnl fun x => { x with rest := some r }).pd8On).pnQueue 0
      ⟨0, 0, s.fld (PNL_CFG_WIDTH 0), s.legalRow, mode, Config.renderRest r⟩

/-- An open entry is cancelled: E:0x0A11 (R295). -/
def State.cancelEntry (s : State) : State :=
  if s.kp = 1 ∨ s.kp = 2 then (s.event 0x0A11 [s.fld KP_STAT_OUT]).endEntry 0 |>.prompt 0 0 else s

def execKeyC (s : State) : Host.Outcome State Fault Refusal :=
  s.live (s.takeKey [0xC] fun _ s => (s.updPnl fun x => { x with stars := [] }).cancelEntry)

/-- KEY_TIMEOUT: KEY_T without a key (R295). -/
def execKeyTimeout (s : State) : Host.Outcome State Fault Refusal :=
  s.live (if s.due .keyT (s.fld KP_CFG_KEY_T * sec) then (s.stopTimer .keyT).cancelEntry else s)

/-- KEY_D: the MC shows the legal check value in the legal field for 10 s; the lines are drawn anew after it (R190, R291). -/
def State.showChk (s : State) : State :=
  let g := chkGroups (s.fld LEG_CHK_CHK)
  let s := (s.updPnl fun x => { x with chk := some g }).startTimer .chkShow
  let s := s.each (idx 4) fun s k => s.stopTimer (.line k)
  (s.pd8On).pnQueue 0 ⟨0, s.legalRow, s.fld (PNL_CFG_WIDTH 0), 600, 1, Config.render 2 [g.1, g.2]⟩

/-- The MC ends the show of the check value after 10 s: the rows of the field that no line covers are white again, and the lines are drawn
anew (R291; log entry 65). -/
def State.chkTick (s : State) : State :=
  s.iff (s.due .chkShow (10 * sec) && s.pnl0Ok) fun s =>
    let s := (s.stopTimer .chkShow).updPnl fun x => { x with chk := none }
    let k := ((idx 4).filter fun k => (s.lineOut k).isSome).length
    let w := s.fld (PNL_CFG_WIDTH 0)
    let h := 600 - 150 * k
    s.iff (h != 0) fun s => (s.pd8On).pnQueue 0 ⟨0, s.legalRow + 150 * k, w, h, 1, List.replicate (w * h) 15⟩

def execKeyD (s : State) : Host.Outcome State Fault Refusal :=
  s.live (s.takeKey [0xD] fun _ s => if s.pnl0Ok && s.coreRuns 2 then s.showChk else s)

end Sys2Proof.Machine
end

