-- ==== Sys2Proof/Machine/Contactless.lean ====
section
/-!
DEFINITION. Reader ports, the lid tag and its mailbox (spec/12).
-/

namespace Sys2Proof.Machine

open Sys2Proof

def State.port (s : State) (n : Nat) : NfcPort := nth NfcPort.rest s.nfc n
def State.updPort (s : State) (n : Nat) (f : NfcPort → NfcPort) : State := { s with nfc := upd s.nfc n f }

/-! ### Reader ports (R299 to R303) -/

/-- The bits of a UID in the order of the cascade levels, a cascade tag before each level that does not end it (R302). -/
def cascade (uid : List Byte) : List Byte :=
  match uid.length with
  | 7 => 0x88#8 :: uid
  | 10 => 0x88#8 :: uid.take 3 ++ 0x88#8 :: uid.drop 3
  | _ => uid

/-- Bits of a byte string, least significant first. -/
def sendBits (b : List Byte) : List Bool := b.flatMap fun x => (idx 8).map fun k => x.getLsbD k

/-- At the first bit that differs, 1 comes first (R302). -/
def oneFirst : List Bool → List Bool → Bool
  | x :: s, y :: t => if x = y then oneFirst s t else x
  | _, _ => false

/-- Put a card into the order in which anticollision finds it; a UID that is there already is the same card. -/
def orderCard (u : List Byte) : List (List Byte) → List (List Byte)
  | [] => [u]
  | v :: t =>
    if u = v then v :: t
    else if oneFirst (sendBits (cascade u)) (sendBits (cascade v)) then u :: v :: t else v :: orderCard u t

/-- The protocol is enabled on the port. -/
def State.protOn (s : State) (n : Nat) (p : Fin 3) : Bool :=
  s.flag (match p with | 0 => NR_CFG_A n | 1 => NR_CFG_B n | _ => NR_CFG_V n)

/-- Cards that a poll finds: those of type A in anticollision order, then B and 15693. -/
def State.cardsFound (s : State) (n : Nat) (cs : List Card) : List Card :=
  let of (p : Fin 3) : List (List Byte) :=
    if s.protOn n p then ((cs.filter fun c => c.prot == p).map (·.uid)).foldl (fun a u => orderCard u a) [] else []
  (of 0).map (Card.mk 0) ++ (of 1).map (Card.mk 1) ++ (of 2).map (Card.mk 2)

/-- STATE of a port between cycles. -/
def State.portState (s : State) (n : Nat) : Nat := if (s.port n).held.isSome then 4 else if s.portPolls n then 1 else 0

/-- The session that takes an identifier: EIM selected, in AUTH the longest, and not joined to another one (R303). -/
def State.authWaiting (s : State) (n : Nat) : Option Nat :=
  let js := (idx s.nOuts).filter fun j =>
    bit (s.fld (NR_CFG_OUTS n)) j && s.sstate j == 3 && (s.vh j).payment == 1
      && ((s.vh j).lead.isNone || (s.vh j).lead == some j)
  js.find? fun j => js.all fun k => decide ((s.vh j).authAt < (s.vh k).authAt ∨ ((s.vh j).authAt = (s.vh k).authAt ∧ j ≤ k))

/-- A valid identifier is applied: posted for the session that waits, or held; either way it replaces the one that the port holds
(R303). -/
def State.cardApplied (s : State) (n : Nat) (uid : List Byte) : State :=
  match s.authWaiting n with
  | some j =>
    let s := (((s.postAuth j 3 uid []).updPort n fun p => { p with posted := some uid, held := none }).stopTimer (.cardHold n)).startTimer (.posted n)
    s.event 0x0B02 [n, j]
  | none =>
    let s := ((s.updPort n fun p => { p with held := some uid }).startTimer (.cardHold n)).setFld (NR_STAT_STATE n) 4
    (s.prompt 6 0).event 0x0B03 [n]

/-- The registers of a valid poll (Table 12.8). -/
def State.showCard (s : State) (n : Nat) (c : Card) : State :=
  let s := (s.setFld (NR_STAT_PROT n) (c.prot.val + 1)).setFld (NR_UID_0_UID n) (leAt c.uid 0 4)
  ((s.setFld (NR_UID_1_UID n) (leAt c.uid 4 4)).setFld (NR_UID_2_UID n) (leAt c.uid 8 2)).setFld (NR_UID_2_LEN n) c.uid.length

/-- The result of a poll: none on a frame with a bad check, refused with two or more cards, ignored on a card read within 3 s,
refused on a random UID, else applied (R302, R303). -/
def State.pollResult (s : State) (n : Nat) (bad : Bool) (cs : List Card) : State :=
  if bad then (s.inc (NR_ERR_CRC n)).updPort n fun p => { p with found := [], card := none }
  else
    let found := s.cardsFound n cs
    let s := s.updPort n fun p => { p with found := found.map (·.uid), card := none }
    match found with
    | [] => s
    | [c] =>
      let s := s.updPort n fun p => { p with card := some c.uid }
      if (s.port n).recent.any fun r => r.1 == c.uid && decide (s.age < r.2 + 3 * sec) then s
      else
        let s := (s.showCard n c).updPort n fun p =>
          { p with recent := (c.uid, s.age) :: p.recent.filter fun r => r.1 != c.uid && decide (s.age < r.2 + 3 * sec) }
        let s := s.event 0x0B01 [n]
        if c.prot = 0 ∧ c.uid.length = 4 ∧ c.uid.head? = some 0x08#8 then
          ((s.prompt 8 0).event 0x0B06 [n]).updPort n fun p => { p with card := none }
        else s.cardApplied n c.uid
    | _ => ((s.prompt 7 0).inc (NR_ERR_COLL n)).event 0x0B05 [n]

/-- The antenna drive current is outside ±30 % of the value stored at commissioning (R301). -/
def antennaBad (n iant : Nat) : Bool :=
  decide (iant * 10 < Config.antennaCurrent n * 7 ∨ Config.antennaCurrent n * 13 < iant * 10)

/-- Receive windows that the Mallas link has announced: beginning and end (R300, spec/13 R318). -/
def State.windows (s : State) : List (Nat × Nat) := s.ml.win.toList ++ s.ml.discWins

/-- Instant at which a step that lasts `len` from its begin to the end of its answer window can start, `t` at the earliest: after every
window that it would touch (R300). -/
def stepAt (ws : List (Nat × Nat)) : Nat → Nat → Nat → Nat
  | 0, t, _ => t
  | k + 1, t, len =>
    match ws.find? fun w => decide (t < w.2) && decide (w.1 < t + len + 1) with
    | some w => stepAt ws k w.2 len
    | none => t

/-- Steps of a poll cycle, each with its earliest distance from the step before, its length, and whether it waits for a window: field on,
the commands of the protocols enabled, field off (R299). The length of a command with its answer window is not given (log entry 79). -/
def State.pollSteps (s : State) (n : Nat) : List (Nat × Nat) :=
  (0, 0) :: ((([0, 1, 2] : List (Fin 3)).filter fun p => s.protOn n p).mapIdx fun i p =>
    (if i = 0 then s.fld NR_GCFG_GUARD * ms else 0, Config.nfcFrameNs p.val)) ++ [(0, 0)]

/-- Steps of a cycle that begins now which wait for a window (R300). -/
def State.deferred (s : State) (n : Nat) : Nat :=
  let ws := s.windows
  ((s.pollSteps n).foldl (fun (a : Nat × Nat) st =>
    let t := a.1 + st.1
    let u := stepAt ws (ws.length + 1) t st.2
    (u + st.2, a.2 + b2n (u != t))) (s.age, 0)).2

/-- POLL_CYCLE: `iant` is the antenna drive current in mA, `bad` a frame with a bad CRC or parity, `cards` what lies in the
field; steps that wait for windows of the Mallas link are counted (R299 to R303). -/
def execPollCycle (port : Fin 4) (iant : BitVec 16) (bad : Bool) (cards : List Card) (s : State) : Host.Outcome State Fault Refusal :=
  s.live (
    let n := port.val
    let early := s.timing (.poll n) && !s.due (.poll n) (s.fld NR_GCFG_POLL_T * 10 * ms)
    if !s.portPolls n || !s.pdGood 8 || !s.coreRuns 7 || decide (3 ≤ (s.port n).badCycles) then
      s.iff (s.port n).held.isNone (·.portShow n 0)
    else if early then s
    else
      let s := (s.startTimer (.poll n)).setFld (NR_STAT_IANT n) iant.toNat
      let s := s.updPort n fun p => { p with badCycles := if antennaBad n iant.toNat then p.badCycles + 1 else 0 }
      let s := s.iff (s.fld ML_STAT_STATE == 1) fun s => s.setSat (NR_ERR_DEFER n) (s.fld (NR_ERR_DEFER n) + s.deferred n)
      let s := s.pollResult n bad cards
      s.setFld (NR_STAT_STATE n) (s.portState n))

/-- STATE of the ports at an SF tick: a port that is not enabled is off, its antenna fault with it; one that does not poll and holds no
card is off (R299, R311). -/
def State.portTick (s : State) : State :=
  s.each (idx 4) fun s n =>
    if !s.flag (NR_CFG_EN n) then
      ((s.stopTimer (.antRetry n)).updPort n fun p => { p with badCycles := 0 }).setFld (NR_STAT_STATE n) 0
    else s.portShow n (if s.coreRuns 7 && s.pdGood 8 then s.portState n else if (s.port n).held.isSome then 4 else 0)

/-- ANTENNA_FAULT: three consecutive cycles outside the window; E:0x0B07 (R301). -/
def execAntennaFault (port : Fin 4) (s : State) : Host.Outcome State Fault Refusal :=
  s.live (if decide (3 ≤ (s.port port).badCycles) && s.fld (NR_STAT_STATE port) != 5 then
    (((s.setFld (NR_STAT_STATE port) 5).inc (NR_ERR_ANT port)).startTimer (.antRetry port)).event 0x0B07 [port]
  else s)

/-- ANTENNA_RETRY: after 60 s the port polls again (R301). -/
def execAntennaRetry (port : Fin 4) (s : State) : Host.Outcome State Fault Refusal :=
  s.live (if s.due (.antRetry port) (60 * sec) then
    let s := ((s.stopTimer (.antRetry port)).setFld (NR_STAT_STATE port) 0).updPort port fun p => { p with badCycles := 0 }
    s.setFld (NR_STAT_STATE port) (s.portState port)
  else s)

/-- CARD_HOLD_EXPIRY: E:0x0B04 (R303). -/
def execCardHoldExpiry (port : Fin 4) (s : State) : Host.Outcome State Fault Refusal :=
  s.live (if s.due (.cardHold port) (s.fld NR_GCFG_CARD_HOLD * sec) && (s.port port).held.isSome then
    let s := (s.stopTimer (.cardHold port)).updPort port fun p => { p with held := none }
    (s.portShow port (s.portState port)).event 0x0B04 [port]
  else s)

/-- APDU: a command length past the buffer is an invalid field; `resp` is the card's response within its frame waiting time (spec/14 R348, R352). -/
def execApdu (ring : Fin 64) (resp : Option (List Byte)) (s : State) : Host.Outcome State Fault Refusal :=
  s.live (
    let n := ring.val
    s.serve n 6 1 fun q s =>
      let p := q.inl 0 1
      if !s.holdsToken then s.complete n q.num 7 0
      else if 4 ≤ p then s.complete n q.num 3 32
      else if q.d.len < q.inl 4 4 then s.complete n q.num 3 36
      else match q.d.data with
        | none => s.dmaFail n q.num
        | some _ =>
          let x := s.port p
          let ok := x.card.isSome && x.card == x.posted && s.timing (.posted p)
            && !s.due (.posted p) (s.fld VD_TMO0_AUTH_TMO * 10 * ms)
          if !ok then s.complete n q.num 1 1
          else match resp with
            | none => s.complete n q.num 1 2
            | some b => if q.d.len < b.length then s.complete n q.num 4 b.length else s.completeData n q.num 0 b .none)

/-! ### The lid tag's memory (R304, R308, R309) -/

def State.updTag (s : State) (f : TagSt → TagSt) : State := { s with tag := f s.tag }

/-- What the tag's memory holds where nothing has been written. -/
def Memory.blank : Byte := 0

/-- Read a byte. -/
def Memory.read (m : List Host.Cell) (a : Nat) : Byte := Sparse.get Memory.blank m a

/-- Write a byte. -/
def Memory.write (m : List Host.Cell) (a : Nat) (b : Byte) : List Host.Cell := Sparse.put Memory.blank a b m

/-- The canonical form: addresses strictly rising, no entry equal to what an unlisted address reads as. -/
def Memory.wf (m : List Host.Cell) : Bool := Sparse.wfFrom (fun _ => Memory.blank) none m

/-- Read `n` bytes from an address on. -/
def Memory.readN (m : List Host.Cell) (a n : Nat) : List Byte := (idx n).map fun i => Memory.read m (a + i)

/-- Write bytes from an address on. -/
def Memory.writeN : List Host.Cell → Nat → List Byte → List Host.Cell
  | m, _, [] => m
  | m, a, b :: t => Memory.writeN (Memory.write m a b) (a + 1) t

/-- Complete a committed shadow, or discard one that is not (R308). -/
def State.tagComplete (s : State) (o : Option TagShadow) : State :=
  match o with
  | none => s
  | some w =>
    if w.committed then s.updTag fun t => { t with mem := Memory.writeN t.mem w.addr w.data, fwd := t.fwd + 1 }
    else s.updTag fun t => { t with disc := t.disc + 1 }

/-- The shadows of both ports, at power-up (R308). -/
def State.tagRecover (s : State) : State :=
  let s := s.tagComplete s.tag.rf
  (s.tagComplete s.tag.mod).updTag fun t => { t with rf := none, mod := none }

/-- A port's shadow slot: the RF port's, or the module port's (Table 12.6). -/
def State.tagSlot (s : State) (rf : Bool) (o : Option TagShadow) : State :=
  s.updTag fun t => if rf then { t with rf := o } else { t with mod := o }

/-- A write through a port's shadow slot, cut where the port's supply collapses (Table 12.6). A shadow that such a collapse left in
the module's slot is completed or discarded first: the supply has come back (R308). -/
def State.tagPut (s : State) (rf : Bool) (a : Nat) (b : List Byte) (cut : Cut) : State :=
  let s := s.iff (!rf && s.tag.mod.isSome) fun s => (s.tagComplete s.tag.mod).updTag fun t => { t with mod := none }
  match cut with
  | .receive => s
  | .shadow => s.tagSlot rf (some ⟨a, b, false⟩)
  | .torn => (s.updTag fun t => { t with cnt := t.cnt + 1 }).tagSlot rf (some ⟨a, b, false⟩)
  | .committed => (s.updTag fun t => { t with cnt := t.cnt + 1 }).tagSlot rf (some ⟨a, b, true⟩)
  | _ => s.updTag fun t => { t with mem := Memory.writeN t.mem a b, cnt := t.cnt + 1 }

/-- Bytes for an area of `n` bytes, filled with 0. -/
def fitArea (b : List Byte) (n : Nat) : List Byte := b.take n ++ List.replicate (n - b.length) 0

/-- The module port: blocks of up to 256 bytes (R309). -/
def State.tagModPut (s : State) : Nat → Nat → List Byte → State
  | 0, _, _ => s
  | k + 1, a, b => if b.isEmpty then s else (s.tagPut false a (b.take 256) .none).tagModPut k (a + 256) (b.drop 256)

/-- The tag's double-size UID, derived from the module serial; how is not given (R304, log entry 79). -/
def State.tagUid (s : State) : BitVec 56 := Config.tagUid s.serial

/-- Identity record, written by the KC at every start and commit (Table 12.3). -/
def State.tagIdentity (s : State) : State :=
  let v := [0x544C5A44, 1, s.serial, (s.reg R_GLB_HWREV).toNat, s.lifecycle, (s.reg R_GLB_FW_LEGAL).toNat,
    (s.reg R_GLB_FW_UPD).toNat, s.fld LEG_CHK_CHK, s.isl.chk, s.fld SP_G0_ARCH, s.tag.started]
  s.tagModPut 1 0 (fitArea (Config.tagRecord 0 v) 256)

/-- Capture index, written by the capture engine (R417). -/
def State.tagCapture (s : State) (slot index status cause time : Nat) : State :=
  s.tagModPut 1 0x100 (fitArea (Config.tagRecord 1 [index, time, cause, status, slot]) 256)

/-- The KC writes the identity record at a start (R304). -/
def State.tagStart (s : State) : State := (s.updTag fun t => { t with started := s.now }).tagIdentity

/-- Bytes of the status snapshot (Table 12.3): one shadow write holds them, the rest of the area is 0 (R309, log entry 79). -/
def State.snapBytes (s : State) : List Byte :=
  let v := [s.mode, s.clk, (s.reg R_GLB_CORE_STATE).toNat, (s.reg R_GLB_PD_STATE).toNat, (s.reg R_SI_STATUS).toNat]
    ++ (idx s.nOuts).flatMap (fun j => [s.sstate j, (s.io j).trip]) ++ [s.now]
  fitArea (Config.tagRecord 2 v) 256

/-- The diagnostic area: the set in force, then the status and error registers of every subject (Table 12.3). -/
def State.tagDiag (s : State) : State :=
  let set := (idx 128).flatMap fun i => toLE 4 (s.reg (0x80100 + 4 * i)).toNat
  s.tagModPut 96 0x9000 (set ++ fitArea (Config.tagRecord 4 (s.regs.flatMap fun p => [p.1, p.2.toNat])) 0x5E00)

/-- The GC's snapshot, one write through the module port's shadow slot, cut with the port's supply: never seen half-written (R309). -/
def State.tagSnap (s : State) (cut : Cut) : State :=
  let b := s.snapBytes
  ((s.updTag fun t => { t with snapMode := s.mode }).startTimer .snap).tagPut false 0x200 b cut

/-- Registers of the tag that the module holds. -/
def State.tagRegs (s : State) : State :=
  let t := s.tag
  let s := ((s.setFlag NT_STAT_FIELD t.field).setFlag NT_STAT_AUTH t.auth).setFlag NT_STAT_KEY (!t.key.isEmpty)
  let s := (s.setSat NT_STAT_FAILS t.fails).setSat NT_STAT_MQ t.queue.length
  (s.setFld NT_MBX_SEQ t.seq).setFld NT_MBX_RESULT t.result

/-- The GC reads the tag's counters: E:0x0B11, E:0x0B12, E:0x0B13, and failures that it has not yet reported (R308, R310). -/
def State.tagGcRead (s : State) : State :=
  let t := s.tag
  let s := s.iff (t.newAuth != 0) fun s => s.event 0x0B11 [t.newAuth]
  let s := s.iff (t.fwd != 0) fun s => (s.setSat NT_ERR_FWD (s.fld NT_ERR_FWD + t.fwd)).event 0x0B12 [t.fwd]
  let s := s.iff (t.disc != 0) fun s => (s.setSat NT_ERR_DISC (s.fld NT_ERR_DISC + t.disc)).event 0x0B13 [t.disc]
  let s := s.each (idx t.newFail) fun s _ => (s.inc NT_ERR_AUTHF).event 0x0B14 [t.fails]
  let s := s.iff t.newThird fun s => s.event 0x0B15 [t.fails]
  (s.updTag fun t => { t with newAuth := 0, fwd := 0, disc := 0, newFail := 0, newThird := false }).tagRegs

/-- The KC writes the service key into the tag (R310). -/
def State.tagKey (s : State) : State :=
  let k := match s.keyFor 9 engTag with
    | some c => c.key
    | none => []
  ((s.updTag fun t => { t with key := k }).updKeys fun x => { x with tagKeyDue := false }).tagRegs

/-- The GC can read the tag: it runs, outside FROZEN (R306). -/
def State.tagGc (s : State) : Bool := s.coreRuns 7 && s.mode != 6 && s.pdGood 0

/-- TAG_POWER_UP from the field or from PD0: any shadow is completed or discarded first (R308). -/
def execTagPowerUp (byField : Bool) (s : State) : Host.Outcome State Fault Refusal :=
  .next (((s.tagRecover).updTag fun t => { t with field := t.field || byField, ans := none }).tagRegs)

/-- FIELD_DETECTED: FD_N goes low. With the GC running E:0x0B10, the snapshot and the diagnostic area are refreshed and the
counters read (R306). -/
def execFieldDetected (s : State) : Host.Outcome State Fault Refusal :=
  .next (
    let s := (s.tagRecover).updTag fun t => { t with field := true }
    if s.tagGc then ((((s.tagRegs).event 0x0B10 []).tagSnap .none).tagDiag).tagGcRead else s)

/-- A tag session ends (R310). -/
def State.tagEnd (s : State) : State := (s.updTag fun t => { t with auth := false, rndT := none }).tagRegs

/-- TAG_FIELD_LOST. -/
def execTagFieldLost (s : State) : Host.Outcome State Fault Refusal :=
  .next ((s.updTag fun t => { t with field := false, ans := none }).tagEnd)

/-- HLTA from the reader ends the session (R310). -/
def execHlta (s : State) : Host.Outcome State Fault Refusal := .next ((s.updTag fun t => { t with ans := none }).tagEnd)

/-- The tag answers over the field. -/
def State.tagAnswer (s : State) (st : Option Nat) (b : List Byte) : State := s.updTag fun t => { t with ans := some (st, b) }

/-- A committed shadow stands. -/
def TagSt.shadowed (t : TagSt) : Bool :=
  let c (o : Option TagShadow) : Bool := match o with
    | some w => w.committed
    | none => false
  c t.rf || c t.mod

/-- The commands of Table 12.5 reach the tag while a field powers it; it answers none while a committed shadow stands (R308). -/
def State.tagCmd (s : State) (f : State → State) : State := if s.tag.field && !s.tag.shadowed then f s else s

/-- READ: 1 to 240 bytes; 0x6700 where malformed; 0x6982 for an authenticated area without authentication, and for the areas
that no RF command reads (R307, Table 12.3). -/
def execTagRead (addr : BitVec 16) (len : Nat) (s : State) : Host.Outcome State Fault Refusal :=
  .next (s.tagCmd fun s =>
    let a := addr.toNat
    if len = 0 ∨ 240 < len then s.tagAnswer (some 0x6700) []
    else if 0xF000 < a + len ∨ (0x9000 < a + len ∧ !s.tag.auth) then s.tagAnswer (some 0x6982) []
    else s.tagAnswer (some 0x9000) (Memory.readN s.tag.mem a len))

/-- WRITE: a mailbox block under authentication, through the field's shadow slot (R307, R308). With the field's collapse the
session ends and no answer is seen, except possibly after step 5. -/
def execTagWrite (addr : BitVec 16) (data : List Byte) (cut : Cut) (s : State) : Host.Outcome State Fault Refusal :=
  .next (s.tagCmd fun s =>
    let a := addr.toNat
    let lost (s : State) : State := (s.updTag fun t => { t with field := false, ans := none }).tagEnd
    if data.length ≠ 16 ∨ a % 16 ≠ 0 then s.tagAnswer (some 0x6700) []
    else if cut = .receive then lost s
    else if a < 0x8810 ∨ 0x9000 ≤ a ∨ !s.tag.auth then s.tagAnswer (some 0x6982) []
    else
      let s := s.tagPut true a data cut
      if cut = .none then s.tagAnswer (some 0x9000) [] else lost s)

/-- AUTH1: RndT. From the third consecutive failure only after 10 s of continuous field, `fieldMs`; the status of a refusal is
not given (R310). -/
def execAuth1 (fieldMs : Nat) (s : State) : Host.Outcome State Fault Refusal :=
  .next (s.tagCmd fun s =>
    let r := s.draw
    if !s.flag NT_CFG_AUTH_EN || (decide (3 ≤ s.tag.fails) && decide (fieldMs < 10000)) then r.2.tagAnswer (some r.1) []
    else
      let b := toLE 16 r.1
      (r.2.updTag fun t => { t with rndT := some b }).tagAnswer none b)

/-- Rotated left by one byte. -/
def rotl (b : List Byte) : List Byte := b.drop 1 ++ b.take 1

/-- A failed AUTH2 is counted; an open session ends by field loss or HLTA alone (R310). -/
def State.authFail (s : State) : State :=
  let s := s.updTag fun t =>
    { t with rndT := none, fails := t.fails + 1, newFail := t.newFail + 1, newThird := t.newThird || t.fails == 2 }
  let s := s.tagAnswer (some 0x6300) []
  if s.tagGc then
    let t := s.tag
    let s := s.each (idx t.newFail) fun s _ => (s.inc NT_ERR_AUTHF).event 0x0B14 [t.fails]
    let s := s.iff t.newThird fun s => s.event 0x0B15 [t.fails]
    (s.updTag fun t => { t with newFail := 0, newThird := false }).tagRegs
  else s.tagRegs

/-- AUTH2: RndR and the rotated RndT under the service key (R307, R310). -/
def execAuth2 (data : List Byte) (s : State) : Host.Outcome State Fault Refusal :=
  .next (s.tagCmd fun s =>
    if data.length ≠ 32 then s.tagAnswer (some 0x6700) []
    else
      let p := aesCbcInv s.tag.key data
      match s.tag.rndT with
      | none => s.authFail
      | some rndT =>
        if s.tag.key.isEmpty || !s.flag NT_CFG_AUTH_EN || p.drop 16 != rotl rndT then s.authFail
        else
          let s := s.updTag fun t => { t with auth := true, rndT := none, fails := 0, newAuth := t.newAuth + 1 }
          (s.tagAnswer none (aesCbc s.tag.key (rotl (p.take 16)))).tagRegs)

/-! ### The mailbox (R310) -/

/-- Mailbox slot `k`: SEQ, CMD, ARG, technician identifier. -/
def State.mbx (s : State) (k : Nat) : Nat × Nat × Nat × Nat :=
  let b := Memory.readN s.tag.mem (0x8810 + 16 * k) 8
  (leAt b 0 2, leAt b 2 1, leAt b 3 1, leAt b 4 4)

/-- How far a SEQ lies above the last one executed, modulo 65 536; 0 at or below it. -/
def seqAbove (last q : Nat) : Nat := let d := (q + 65536 - last) % 65536; if d < 32768 then d else 0

/-- The slot of the next entry: ascending SEQ, in the slot SEQ mod 127. -/
def State.mbxNext (s : State) : Option Nat :=
  let ks := (idx 127).filter fun k => let e := s.mbx k; e.1 % 127 == k && seqAbove s.tag.seq e.1 != 0
  ks.find? fun k => ks.all fun j => decide (seqAbove s.tag.seq (s.mbx k).1 ≤ seqAbove s.tag.seq (s.mbx j).1)

/-- An entry has been executed: the mailbox header names its SEQ and its result. -/
def State.mbxDone (s : State) (seq res : Nat) : State :=
  let s := s.updTag fun t => { t with seq := seq, result := res }
  (s.tagModPut 1 0x8800 (toLE 2 seq ++ toLE 1 res)).tagRegs

/-- Entries with another CMD than 1, 2 and 3 are refused (Table 12.7). -/
def State.mbxSkip : Nat → State → State
  | 0, s => s
  | n + 1, s =>
    match s.mbxNext with
    | none => s
    | some k => let e := s.mbx k; if 1 ≤ e.2.1 ∧ e.2.1 ≤ 3 then s else State.mbxSkip n (s.mbxDone e.1 2)

/-- The GC executes the next entry where its CMD is `cmd`; it reads no block while a committed shadow stands (R308). -/
def State.mbxRun (s : State) (cmd : Nat) (f : Nat → Nat → State → State × Nat) : State :=
  if s.tagGc && s.flag NT_CFG_MBX_EN && !s.tag.shadowed then
    let s := State.mbxSkip 127 s
    match s.mbxNext with
    | none => s
    | some k =>
      let e := s.mbx k
      if e.2.1 = cmd then let r := f e.2.2.1 e.2.2.2 s; r.1.mbxDone e.1 r.2 else s
  else s

/-- MARK logs E:0x0B16 with the technician identifier. -/
def execMark (s : State) : Host.Outcome State Fault Refusal := .next (s.mbxRun 1 fun _ tech s => (s.event 0x0B16 [tech], 1))

/-- PAGE shows a PNL1 page, refused above 15. -/
def execPage (s : State) : Host.Outcome State Fault Refusal :=
  .next (s.mbxRun 2 fun arg _ s => if 15 < arg then (s, 2) else (s.selectPage arg, 1))

/-- SNAP refreshes the snapshot and the diagnostic area. -/
def execSnap (s : State) : Host.Outcome State Fault Refusal := .next (s.mbxRun 3 fun _ _ s => ((s.tagSnap .none).tagDiag, 1))

/-- STATUS_SNAPSHOT: every SNAP_T and on every mode change; `cut` is where PD0's supply collapses (R304, R308). -/
def execStatusSnapshot (cut : Cut) (s : State) : Host.Outcome State Fault Refusal :=
  .next (if s.tagGc && (s.due .snap (s.fld NT_CFG_SNAP_T * sec) || !s.timing .snap || s.tag.snapMode != s.mode)
    then s.tagSnap cut else s)

/-! ### The event mirror (R305) -/

/-- New events join the 64 that may wait for the port; a further one is left out: GAP, and E:0x0B17 once per SF with the number left
out since the last one. -/
def State.mirrorTake (s : State) : State :=
  let s := s.each ((List.range s.logged.length).drop s.tag.looked) fun s i =>
    if s.tag.queue.length < 64 then s.updTag fun t => { t with queue := t.queue ++ [i], looked := i + 1 }
    else (s.updTag fun t => { t with gap := true, looked := i + 1, left := t.left + 1 }).inc NT_ERR_MOVF
  let k := s.tag.left
  (s.iff (!s.tag.told17 && k != 0) fun s => (s.updTag fun t => { t with told17 := true, left := 0 }).event 0x0B17 [k]).tagRegs

/-- Mirror header at 0x0400. -/
def State.mirrorHeader (s : State) : State :=
  s.tagModPut 1 0x400 (fitArea (Config.tagRecord 3 [s.tag.head, s.tag.count, s.tag.lastSeq, b2n s.tag.gap]) 64)

/-- MIRROR_WRITE: the event log engine writes the oldest event that waits, over the oldest record when the mirror is full; `cut`
is where PD0's supply collapses (R305, R308). -/
def execMirrorWrite (cut : Cut) (s : State) : Host.Outcome State Fault Refusal :=
  .next (if !s.pdGood 0 then s
    else
      let s := s.mirrorTake
      match s.tag.queue with
      | [] => s
      | i :: rest =>
        match (s.logged.reverse)[i]? with
        | none => s.updTag fun t => { t with queue := rest }
        | some e =>
          let s := s.tagPut false (0x800 + 32 * s.tag.head) (eventBytes e (i + 1)) cut
          if cut = .none then
            let s := s.updTag fun t =>
              { t with queue := rest, head := (t.head + 1) % 1024, count := min 1024 (t.count + 1), lastSeq := i + 1 }
            (s.mirrorHeader).tagRegs
          else s)

end Sys2Proof.Machine
end

