-- ==== Sys2Proof/Machine/Mallas.lean ====
section
/-!
DEFINITION. The Mallas link: frames, the polling cycle, modes and routes, discovery and time (spec/13).
-/

namespace Sys2Proof.Machine

open Sys2Proof

def State.updMl (s : State) (f : MlSt → MlSt) : State := { s with ml := f s.ml }
def State.sl (s : State) (n : Nat) : MlSlave := nth MlSlave.rest s.ml.slaves n
def State.updSl (s : State) (n : Nat) (f : MlSlave → MlSlave) : State := s.updMl fun m => { m with slaves := upd m.slaves n f }

/-- STATE of slave `n`: 0 disabled, 1 SEARCH, 2 ACTIVE, 3 LOST. -/
def State.slSt (s : State) (n : Nat) : Nat := s.fld (ML_SST_STATE n)

/-- Slave addresses. -/
def slaveNos : List Nat := (idx 63).drop 1

/-- The link runs. -/
def State.mlRuns (s : State) : Bool := s.fld ML_STAT_STATE == 1 && s.pdGood 9

/-! ### Frames (R314, R315, Tables 13.2, 13.3) -/

/-- Payload bits per symbol of a mode. -/
def mlBits : Nat → Nat
  | 0 => 108 | 1 => 72 | 2 => 36 | 3 => 9 | _ => 6

/-- Link SNR a mode requires, in 0.5 dB; none for ROB6. -/
def mlReq : Nat → Option Int
  | 0 => some 36 | 1 => some 24 | 2 => some 14 | 3 => some 4 | _ => none

/-- An SNR meets the requirement of a mode. -/
def mlMeets (m : Nat) (snr : Int) : Bool := match mlReq m with | some r => decide (r ≤ snr) | none => true

/-- The fastest mode whose requirement an SNR meets. -/
def mlFastest (snr : Int) : Nat := ((idx 4).find? fun m => mlMeets m snr).getD 4

/-- Symbols of a frame with `n` data bytes in a mode: preamble 4, frame control 4, payload with its CRC-16. -/
def mlPayload (m n : Nat) : Nat := (8 * (n + 2) + mlBits m - 1) / mlBits m
def mlSymbols (m n : Nat) : Nat := 8 + mlPayload m n

/-- Frame control: kind, mode, payload symbols, sender, destination, hops, and its CRC-8. -/
def mlControl (kind mode len src dst hops : Nat) : Nat :=
  let v := kind * 2 ^ 26 + mode * 2 ^ 23 + len * 2 ^ 14 + src * 2 ^ 8 + dst * 4 + hops
  v * 256 + crcMsb 8 0x07 0 (beBytes 4 v)

/-- The frame control's CRC-8 fits, and the mode is none of the reserved ones. -/
def mlControlOk (fc : Nat) : Bool := crcMsb 8 0x07 0 (beBytes 4 (fc / 256)) == fc % 256 && decide (bits fc 33 31 ≤ 4)

/-- A payload with its CRC-16. -/
def mlSeal (b : List Byte) : List Byte := b ++ beBytes 2 (crc16 b)

/-- Bits of a payload of whole symbols in a mode: data, CRC-16, and zeros after it, most significant bit first (R315; the order of the
bits is log entry 79). -/
def mlFrameBits (m : Nat) (b : List Byte) : List Bool :=
  let x := (mlSeal b).flatMap fun y => ((idx 8).map y.getLsbD).reverse
  x ++ List.replicate (mlPayload m b.length * mlBits m - x.length) false

/-- Length of a symbol in ns (Table 13.1). -/
def mlSym : Nat := 600000

/-- LEN names the symbols of a payload of `n` bytes, its CRC-16 among them (R315, Table 13.3). -/
def mlLenOk (fc n : Nat) : Bool := decide (1 ≤ bits fc 30 22) && bits fc 30 22 == mlPayload (bits fc 33 31) (n - 2)

/-- The payload's CRC-16 fits. -/
def mlPayloadOk (p : List Byte) : Bool := decide (2 ≤ p.length) && mlSeal (p.take (p.length - 2)) == p

/-! ### Hops and routes (R320, R321) -/

/-- The hop between two stations. -/
def State.mlHop (s : State) (a b : Nat) : Option MlHop := s.ml.hops.find? fun h => h.a == min a b && h.b == max a b

/-- Replace a hop. -/
def State.setHop (s : State) (h : MlHop) : State :=
  s.updMl fun m => { m with hops := m.hops.filter (fun x => !(x.a == h.a && x.b == h.b)) ++ [h] }

/-- Hops of a route from the module to slave `n`. -/
def hopsOf (route : List Nat) (n : Nat) : List (Nat × Nat) := (0 :: route).zip (route ++ [n])

/-- A hop is in use: the route of an ACTIVE slave goes over it, so its exchanges alone give its link SNR (R320). -/
def State.hopUsed (s : State) (a b : Nat) : Bool :=
  slaveNos.any fun n => s.slSt n == 2 && !(s.sl n).noRoute
    && (hopsOf (s.sl n).route n).any fun p => (p.1 == a && p.2 == b) || (p.1 == b && p.2 == a)

/-- A link SNR heard on a hop that no route uses takes the fastest mode that it allows (R321). -/
def State.hearHop (s : State) (a b : Nat) (snr : Int) : State :=
  if a = b ∨ s.hopUsed a b then s else s.setHop ⟨min a b, max a b, snr, mlFastest snr, 0⟩

/-- An exchange over a hop: down at once below the requirement of its mode; up one mode after three consecutive exchanges at 2 dB
or more above the requirement of the faster one. A change raises E:0x0C02. -/
def State.useHop (s : State) (n a b : Nat) (snr : Int) : State :=
  let h := (s.mlHop a b).getD ⟨min a b, max a b, snr, 4, 0⟩
  let faster := h.mode != 0 && (match mlReq (h.mode - 1) with | some r => decide (r + 4 ≤ snr) | none => false)
  let h' : MlHop :=
    if !mlMeets h.mode snr then { h with snr := snr, mode := mlFastest snr, up := 0 }
    else if faster then (if 2 ≤ h.up then { h with snr := snr, mode := h.mode - 1, up := 0 } else { h with snr := snr, up := h.up + 1 })
    else { h with snr := snr, up := 0 }
  (s.setHop h').iff (h.mode != h'.mode) fun s => s.event 0x0C02 [n, h.mode, h'.mode]

/-- Bytes of the poll of a slave: its route comes first, one byte for each repeater (R321; log entry 66); a poll that confirms the address
of a slave found by discovery then names its identity, whose address is the frame's destination (R316; log entry 79); then the data, 32 in
all. -/
def State.pollBytes (s : State) (n : Nat) (route : List Nat) : List Byte :=
  let id := if (s.sl n).confirm then toLE 6 (s.fld (ML_ID_LO_ID n) + s.fld (ML_ID_HI_ID n) * 2 ^ 32) else []
  (route.map (BitVec.ofNat 8) ++ id ++ (s.sl n).poll).take 32

/-- Exchange time of a route in symbols: every frame of the poll and of a full answer on every hop, and 2 symbols before each
frame after the first; none where a hop is not known. -/
def State.routeTime (s : State) (n : Nat) (route : List Nat) : Option Nat :=
  let hs := (hopsOf route n).map fun p => s.mlHop p.1 p.2
  if hs.all (·.isSome) then
    let t := hs.foldl (fun a h => match h with
      | some h => a + mlSymbols h.mode (s.pollBytes n route).length + mlSymbols h.mode 32
      | none => a) 0
    some (t + 2 * (2 * hs.length - 1))
  else none

/-- Routes of at most 3 hops in the order in which a tie prefers them: fewer hops, then the lower repeater. -/
def State.routes (s : State) (n : Nat) : List (List Nat) :=
  let rs := slaveNos.filter fun r => r != n && s.slSt r == 2
  [[]] ++ rs.map (fun r => [r]) ++ rs.flatMap fun r => (rs.filter (· != r)).map fun q => [r, q]

/-- The route of the shortest exchange time. -/
def State.bestRoute (s : State) (n : Nat) : Option (List Nat) :=
  ((s.routes n).foldl (fun (best : Option (Nat × List Nat)) r =>
    match s.routeTime n r, best with
    | some t, some b => if t < b.1 then some (t, r) else best
    | some t, none => some (t, r)
    | none, _ => best) none).map (·.2)

/-- Show a slave's route (Table 13.5). -/
def State.showRoute (s : State) (n : Nat) (r : Option (List Nat)) : State :=
  let route := r.getD []
  let first := s.mlHop 0 (route.headD n)
  let s := (s.setFld (ML_LQ_RPT1 n) (nth 0 route 0)).setFld (ML_LQ_RPT2 n) (nth 0 route 1)
  let s := (s.setFld (ML_LQ_HOPS n) (match r with | some l => l.length + 1 | none => 0)).setFld (ML_LQ_MODE n)
    (match r, first with | some _, some h => h.mode | _, _ => 4)
  match first with
  | some h => s.setFldS (ML_LQ_SNR n) h.snr
  | none => s

/-- Choose the route of slave `n` anew: a change raises E:0x0C03, the loss of every route E:0x0C09 (R321). -/
def State.reroute (s : State) (n : Nat) : State :=
  let old := s.sl n
  match s.bestRoute n with
  | some r =>
    let s := ((s.updSl n fun x => { x with route := r, noRoute := false }).showRoute n (some r))
    s.iff (old.route != r || old.noRoute) fun s => s.event 0x0C03 [n]
  | none =>
    let s := (s.updSl n fun x => { x with route := [], noRoute := true }).showRoute n none
    s.iff (!old.noRoute) fun s => s.event 0x0C09 [n]

/-- Routes of every ACTIVE slave. -/
def State.rerouteAll (s : State) : State := s.each (slaveNos.filter fun n => s.slSt n == 2) (·.reroute ·)

/-! ### States and polls (R316 to R319) -/

/-- Change a slave's state: E:0x0C01; the numbers ACTIVE and LOST follow. -/
def State.setSlave (s : State) (n st : Nat) : State :=
  if s.slSt n = st then s
  else
    let old := s.slSt n
    let s := s.setFld (ML_SST_STATE n) st
    let num (k : Nat) : Nat := (slaveNos.filter fun i => s.slSt i == k).length
    ((s.setFld ML_STAT_NACT (num 2)).setFld ML_STAT_NLOST (num 3)).event 0x0C01 [n, old, st]

/-- Mode of the first hop of a slave's route; direct in ROB6 without one. -/
def State.firstMode (s : State) (n : Nat) : Nat :=
  if (s.sl n).noRoute then 4 else match s.mlHop 0 ((s.sl n).route.headD n) with
    | some h => h.mode
    | none => 4

/-- Modes of the hops of a slave's route, the first one as given. -/
def State.routeModes (s : State) (n first : Nat) : List Nat :=
  if (s.sl n).noRoute then [first]
  else first :: ((hopsOf (s.sl n).route n).drop 1).map fun p => match s.mlHop p.1 p.2 with
    | some h => h.mode
    | none => 4

/-- Of the exchange with a slave, in symbols: from the start of the poll to the start of the last frame, the answer that the module
receives, and that frame's length. Frames follow one another after 2 symbols (R317, R318). -/
def State.exchange (s : State) (n first : Nat) : Nat × Nat :=
  let ms := s.routeModes n first
  let polls := ms.map fun m => mlSymbols m (s.pollBytes n (s.sl n).route).length
  let answers := (ms.drop 1).map fun m => mlSymbols m 32
  ((polls ++ answers).foldl (· + ·) 0 + 2 * (polls ++ answers).length, mlSymbols first 32)

/-- How long an exchange of `len` ns, which could start `gap` ns from now, waits: it gives way to a time frame that it would overlap
(R323). -/
def State.giveWay (s : State) (gap len : Nat) : Nat :=
  let t := s.now + gap
  let k := t / sec * sec
  let f := mlSymbols 4 10 * mlSym
  if !(s.flag ML_GCFG_TIME_EN && s.flag TIME_STATUS_VALID) then gap
  else if t < k + f then gap + (k + f - t)
  else if k + sec < t + len then gap + (k + sec + f - t)
  else gap

/-- The modem sends the poll that waits, once its exchange may start. -/
def State.pollOut (s : State) : State :=
  s.iff (decide (s.ml.sendAt ≤ s.age)) fun s => s.updMl fun m => { m with frame := m.next.orElse fun _ => m.frame, next := none }

/-- The poll of the slave whose turn it is, in the mode given, `gap` ns from now or after a time frame that it would overlap; the window of
its answer is announced, one symbol longer on either side (R315, R318, R319). -/
def State.sendPoll (s : State) (mode : Option Nat) (gap : Nat) : State :=
  match s.ml.todo with
  | [] => s.updMl fun m => { m with win := none, next := none }
  | n :: _ =>
    let m := mode.getD (s.firstMode n)
    let b := s.pollBytes n (s.sl n).route
    let x := s.exchange n m
    let t := s.age + s.giveWay gap ((x.1 + x.2) * mlSym)
    (s.updMl fun y =>
      { y with
        next := some (mlControl 0 m (mlPayload m b.length) 0 n 0, mlFrameBits m b), sendAt := t
        win := some (t + (x.1 - 1) * mlSym, t + (x.1 + x.2 + 1) * mlSym) }).pollOut

/-- The exchange with the first slave of the list is over. -/
def State.nextPoll (s : State) : State :=
  let s := match s.ml.todo with
    | n :: _ => s.updSl n fun x => { x with confirm := false }
    | [] => s
  (s.updMl fun m => { m with todo := m.todo.drop 1, retry := none }).sendPoll none 0

/-- A slave is polled no more in this cycle; where it was its turn, the next one's poll follows (R317). -/
def State.dropPoll (s : State) (n : Nat) : State :=
  let rest := s.ml.todo.filter (· != n)
  if s.ml.todo.head? = some n then (s.updMl fun m => { m with todo := n :: rest }).nextPoll else s.updMl fun m => { m with todo := rest }

/-- The link starts: every enabled slave is in SEARCH (R316, R324). -/
def State.mlStart (s : State) : State :=
  let s := s.updMl fun m =>
    { m with hops := [], todo := [], retry := none, late := false, win := none, discWins := [], next := none, slots := [] }
  let s := (s.stopTimer .mlCyc).stopTimer .mlDisc
  s.each slaveNos fun s n =>
    let s := (s.updSl n fun x => { x with confirm := false, route := [], noRoute := false }).stopTimer (.mlAge n)
    (((s.setFld (ML_SST_MISS n) 0).setFld (ML_SST_AGE n) 0).showRoute n none).setSlave n (b2n (s.flag (ML_ID_HI_EN n)))

/-- The slaves' enables that a commit has changed: a newly enabled one is in SEARCH, one no longer enabled is disabled (R316). -/
def State.mlEnables (s : State) : State :=
  s.each (slaveNos.filter fun n => s.flag (ML_ID_HI_EN n) != (s.slSt n != 0)) fun s n =>
    let on := s.flag (ML_ID_HI_EN n)
    let s := (s.updSl n fun x => { x with confirm := false, route := [], noRoute := false }).setSlave n (b2n on)
    s.iff (!on) fun s => (s.updMl fun m => { m with hops := m.hops.filter fun h => h.a != n && h.b != n }).dropPoll n

/-- STATE of the link follows EN and PD9 at an SF tick; a poll whose exchange may start is sent; the once-per-SF flag is cleared. -/
def State.mlTick (s : State) : State :=
  let s := s.updMl fun m => { m with told05 := false }
  let old := s.fld ML_STAT_STATE
  let new := if !s.flag ML_GCFG_EN then 0 else if s.pdGood 9 then 1 else 2
  if old = new then s.iff (new == 1) fun s => (s.mlEnables).pollOut
  else
    let s := s.setFld ML_STAT_STATE new
    if new = 1 then s.mlStart else s.mlStop

/-- AGE of a slave in 10 ms, saturating. -/
def State.mlAgeOf (s : State) (n : Nat) : Nat :=
  if s.timing (.mlAge n) then satU 24 (s.elapsed (.mlAge n) / (10 * ms)) else 0

/-- MALLAS_CYCLE: every POLL_CYC each ACTIVE slave is to be polled, in ascending address; a slave found by discovery becomes
ACTIVE with its poll. A cycle that has not ended is late: OVR counts it, and the next one starts at once when it ends. `polls`
are the frame contents that the GC supplies (R316, R317). -/
def execMallasCycle (polls : List (List Byte)) (s : State) : Host.Outcome State Fault Refusal :=
  s.live (
    let due := !s.timing .mlCyc || s.due .mlCyc (s.fld ML_GCFG_POLL_CYC * 100 * ms)
    if !s.mlRuns || !s.coreRuns 7 || !due then s
    else if !s.ml.todo.isEmpty then
      s.iff (!s.ml.late) fun s => (s.updMl fun m => { m with late := true }).inc ML_STAT_OVR
    else
      let s := s.each (slaveNos.filter fun n => (s.sl n).confirm) fun s n => s.setSlave n 2
      let act := slaveNos.filter fun n => s.slSt n == 2
      let s := s.each act fun s n => s.updSl n fun x => { x with poll := (nth [] polls n).take 32 }
      let s := (s.startTimer .mlCyc).updMl fun m => { m with todo := act, retry := none, late := false }
      (s.rerouteAll).sendPoll none 0)

/-- MALLAS_ANSWER: a response frame of the slave whose turn it is. `hops` are, for each hop of the route, the SNR that the
receiving slave reports and the one measured on the answer, `heard` the slaves whose frames it heard, in 0.5 dB. A frame that
fails its checks, its LEN among them, is discarded (R315, R320, R321). -/
def execMallasAnswer (fc : BitVec 36) (payload : List Byte) (hops : List (Int × Int)) (heard : List (Nat × Int)) (s : State) :
    Host.Outcome State Fault Refusal :=
  s.live (
    let c := fc.toNat
    let n := bits c 21 16
    if s.mlRuns && s.ml.next.isNone && s.ml.todo.head? == some n && mlControlOk c && mlLenOk c payload.length && bits c 35 34 == 1 && bits c 15 10 == 0 && mlPayloadOk payload
        && decide (payload.length ≤ 34) then
      let s := (s.startTimer (.mlAge n)).setFld (ML_SST_MISS n) 0
      let s := s.updSl n fun x => { x with ans := payload.take (payload.length - 2) }
      let s := s.each ((hopsOf (s.sl n).route n).zip hops) fun s p => s.useHop n p.1.1 p.1.2 (min p.2.1 p.2.2)
      let s := s.each (heard.filter fun p => p.1 != n && decide (1 ≤ p.1 ∧ p.1 ≤ 62)) fun s p => s.hearHop n p.1 p.2
      (s.rerouteAll).nextPoll
    else s)

/-- IMPULSE: the preamble met the mode's requirement, and one symbol or two consecutive ones exceed the mean noise by 10 dB
(R322). -/
def isImpulse (mode : Nat) (snr : Int) (peaks : List Nat) : Bool :=
  mlMeets mode snr && (match peaks with
    | [_] => true
    | [a, b] => a + 1 == b || b + 1 == a
    | _ => false)

/-- MALLAS_EXCHANGE_FAIL: the answer is missing, or fails a check with the preamble SNR and the symbols 10 dB above the mean
noise. The first failure is retried in the same mode after an impulse, else in the next more robust one; the second one misses
the slave for this cycle (R319, R322). -/
def execMallasExchangeFail (slave : Fin 64) (missing : Bool) (snr : Int) (peaks : List Nat) (s : State) :
    Host.Outcome State Fault Refusal :=
  s.live (
    let n := slave.val
    if !s.mlRuns || s.ml.next.isSome || s.ml.todo.head? != some n then s
    else
      let mode := s.ml.retry.getD (s.firstMode n)
      let imp := !missing && isImpulse mode snr peaks
      let s := if imp then
          (s.inc ML_ERR_IMP).iff (!s.ml.told05) fun s => (s.updMl fun m => { m with told05 := true }).event 0x0C05 [n]
        else (s.inc (if missing then ML_ERR_NORESP else ML_ERR_CRC)).event 0x0C04 [n]
      let s := s.iff (!imp && !missing) fun s => (s.useHop n 0 ((s.sl n).route.headD n) snr).showRoute n
        (if (s.sl n).noRoute then none else some (s.sl n).route)
      match s.ml.retry with
      | none =>
        let m := if imp then mode else min 4 (mode + 1)
        (s.updMl fun x => { x with retry := some m }).sendPoll (some m) (2 * mlSym)
      | some _ => (s.inc (ML_SST_MISS n)).nextPoll)

/-- SLAVE_LOST: three consecutive missed cycles; E:0x0C06; polled no more until discovery (R319). -/
def execSlaveLost (slave : Fin 64) (s : State) : Host.Outcome State Fault Refusal :=
  s.live (
    let n := slave.val
    if 1 ≤ n ∧ n ≤ 62 ∧ s.slSt n = 2 ∧ 3 ≤ s.fld (ML_SST_MISS n) then
      let s := (s.event 0x0C06 [n]).setSlave n 3
      let s := s.updMl fun m => { m with hops := m.hops.filter fun h => h.a != n && h.b != n }
      (s.rerouteAll).dropPoll n
    else s)

/-- Symbols of a discovery frame, and the length of an answer slot (R316). -/
def discSyms : Nat := mlSymbols 4 0
def discSlot : Nat := 60 * ms

/-- Answer slot `k` of the last discovery is open: 60 ms each, from the end of its frame on (R316; log entry 79). -/
def State.discOpen (s : State) (k : Nat) : Bool :=
  let t := s.elapsed .mlDisc
  s.timing .mlDisc && s.ml.slots.contains k && decide (discSyms * mlSym + k * discSlot ≤ t ∧ t < discSyms * mlSym + (k + 1) * discSlot)

/-- DISCOVERY: every DISC_T a ROB6 frame with 8 answer slots; in each slot the window of a ROB6 answer with an identity of 6 bytes, 2
symbols after the slot's begin, is announced (R316, R318). -/
def execDiscovery (s : State) : Host.Outcome State Fault Refusal :=
  s.live (if s.mlRuns && (!s.timing .mlDisc || s.due .mlDisc (s.fld ML_GCFG_DISC_T * sec)) then
    let w (k : Nat) : Nat × Nat :=
      let a := s.age + (discSyms + 1) * mlSym + k * discSlot
      (a, a + (mlSymbols 4 6 + 2) * mlSym)
    (s.startTimer .mlDisc).updMl fun m =>
      { m with slots := idx 8, discWins := (idx 8).map w, frame := some (mlControl 3 4 (mlPayload 4 0) 0 63 0, mlFrameBits 4 []) }
  else s)

/-- DISCOVERY_ANSWER: an identity in one of the open slots, with the SNR measured. An enabled identity of the table gets its
address in its next poll; another one raises E:0x0C07 (R316). -/
def execDiscoveryAnswer (id : BitVec 48) (slot : Fin 8) (snr : Int) (s : State) : Host.Outcome State Fault Refusal :=
  s.live (if !s.mlRuns || !s.discOpen slot.val then s
    else
      let s := s.updMl fun m => { m with slots := m.slots.filter (· != slot.val) }
      match slaveNos.find? fun n => s.flag (ML_ID_HI_EN n) && s.fld (ML_ID_LO_ID n) + s.fld (ML_ID_HI_ID n) * 2 ^ 32 == id.toNat with
      | none => (s.inc ML_ERR_UNK).event 0x0C07 [id.toNat]
      | some n =>
        if s.slSt n = 2 then s
        else ((s.updSl n fun x => { x with confirm := true }).hearHop 0 n snr).setFld (ML_SST_MISS n) 0)

/-- TIME_FRAME: at every whole TAI second while TIME_EN and VALID are 1, with the count and the offset; the modem begins it DLY before the
second, which its preamble then reaches at the coupler's terminals (R323). -/
def execTimeFrame (s : State) : Host.Outcome State Fault Refusal :=
  s.live (
    let k := s.now / sec
    if s.mlRuns && s.flag ML_GCFG_TIME_EN && s.flag TIME_STATUS_VALID && s.ml.lastSec != some k && decide (s.now < k * sec + s.tim.sfLen) then
      s.updMl fun m =>
        { m with lastSec := some k, time := some (k * sec, s.utcOfs, k * sec - s.fld ML_CPL_DLY)
                 frame := some (mlControl 2 4 (mlPayload 4 10) 0 63 0, mlFrameBits 4 (toLE 8 (k * sec) ++ toLE 2 (enc 16 s.utcOfs))) }
    else s)

end Sys2Proof.Machine
end

