-- ==== Sys2Proof/Machine/Memory.lean ====
section
/-!
DEFINITION. Cores that halt, the memory code, scrubbing, remapping and the check-value units (spec/16; spec/09 R252).
-/

namespace Sys2Proof.Machine

open Sys2Proof

/-! ### Cores that halt -/

/-- A core stops on a fault: code 2, E:0x0009; a CE takes its ramp-down (spec/04 R88); a bank in TRIAL fails (spec/15 R370). -/
def State.haltCore (s : State) (i : Nat) : State :=
  if s.fld (coreFld i) = 0 ∨ s.fld (coreFld i) = 2 then s
  else
    let s := (s.setFld (coreFld i) 2).event 0x0009 [i]
    let s := s.iff (i == 5 || i == 6) (·.ceHalt (i - 5))
    s.trialFail

/-! ### Reads that the code corrects (R383) -/

/-- A read that the code corrects costs 4 cycles: in a compute window those of the law whose CE reads its memory (spec/04 R89). -/
def State.readCost (s : State) (m : Nat) : State :=
  s.iff (m == 4 || m == 5) fun s => s.updCe (m - 4) fun e =>
    if e.window then (if e.work.ended then e else { e with work := { e.work with cycles := e.work.cycles + 4 } })
    else { e with sf := { e.sf with cycles := e.sf.cycles + 4 } }

/-- CORRECTION_WRITE_BACK: a tile that a read found correctable is written back, in a CE's memory after its compute window; `stuck` says
that the read-back fails (R383, R390). -/
def execCorrectionWriteBack (mem : Fin 9) (tile : Nat) (t : MemTile) (stuck : Bool) (s : State) : Host.Outcome State Fault Refusal :=
  s.live (
    let m := mem.val
    let t := s.tileNow m tile t
    match tileCheck t with
    | .fixed w t' => (s.corrected m (16 * tile + w) (tileSyndrome t) t' stuck).readCost m
    | _ => s)

/-! ### The merge buffer (R385 to R387) -/

/-- Bytes of `new` enabled by `be` over `old`. -/
def mergeWord (old new : Word) (be : BitVec 4) : Word :=
  BitVec.ofNat 32 ((idx 4).foldl (fun a k =>
    a + (if be.getLsbD k then new.toNat else old.toNat) / 2 ^ (8 * k) % 256 * 2 ^ (8 * k)) 0)

/-- Put a write into the buffer: merged into the entry of its word, or appended. -/
def putWrite (w : MemWrite) : List MemWrite → List MemWrite
  | [] => [w]
  | x :: t => if x.word = w.word then { x with data := mergeWord x.data w.data w.be, be := x.be ||| w.be, core := w.core } :: t else x :: putWrite w t

/-- A byte of word `i` fails its parity, so that a read of the word reads the whole tile (R383). -/
def wordFails (t : MemTile) (i : Nat) : Bool := tileValid t i && !(badBytes (tileAt t i).1 (tileAt t i).2.1).isEmpty

/-- The read-modify-write of an entry on its tile: none where it is not performed (R385, R387). -/
def writeTile (t : MemTile) (w : MemWrite) : Option MemTile :=
  let i := w.word % 16
  let full := w.be == 15#4
  let go (t : MemTile) : MemTile :=
    let old := if tileValid t i then (tileAt t i).1 else 0
    let new := mergeWord old w.data w.be
    let col := t.col ^^^ old ^^^ new
    { tilePut t i new 3 with col := col, colPar := rowParity col }
  if tilePoisoned t i then (if full then some (tileReCol (tilePut t i w.data 3)) else none)
  else if wordFails t i then
    match tileCheck t with
    | .good => some (go t)
    | .fixed _ t' => some (go t')
    | .bad _ => none
  else some (go t)

/-- The check of the old word of a read-modify-write: a correction, or the words of its tile that are uncorrectable
(R383, R385). -/
def State.checkOld (s : State) (m word : Nat) (t : MemTile) : State :=
  if wordFails t (word % 16) then
    match tileCheck t with
    | .good => s
    | .fixed i t' => (s.corrected m (16 * (word / 16) + i) (tileSyndrome t) t' false).readCost m
    | .bad ws => (s.poisonWords m (ws.map (16 * (word / 16) + ·))).memTrace m word (tileSyndrome t)
  else s

/-- A fetch trap stops a core that runs: E:0x0F02 and E:0x0009 (R389). -/
def State.trapCore (s : State) (core m addr : Nat) : State :=
  if s.fld (coreFld core) != 1 then s else (s.event 0x0F02 [m, addr]).haltCore core

/-- Drain the oldest entry of memory `m` through the read-modify-write of its tile. A write that is not performed is a fetch trap of
the core that made it, and halts a channel; a tile whose correction waits is not free (R386, R387). -/
def State.drainOne (s : State) (m : Nat) (t : MemTile) : State :=
  match (s.unit m).buf with
  | [] => s
  | w :: rest =>
    if s.mem.back.any fun p => p.1 == m && p.2.1 / 16 == w.word / 16 then s
    else
    let s := s.updUnit m fun u => { u with buf := rest }
    let t := s.tileNow m (w.word / 16) t
    let s := s.checkOld m w.word t
    match writeTile t w with
    | some t' =>
      (s.updMem fun x => { x with wrote := some (m, w.word / 16, t'), pois := x.pois.filter (· != (m, w.word)) }).poisRegs m
    | none =>
      let s := (s.poisonWords m [w.word]).memTrace m w.word (tileSyndrome t)
      match w.core with
      | some c => s.trapCore c m (4 * w.word)
      | none => s.event 0x0F02 [m, 4 * w.word]

/-- Core whose SRAM a memory is. -/
def memCore : Nat → Nat
  | 0 => 1 | 1 => 2 | 2 => 3 | 3 => 4 | 4 => 5 | 5 => 6 | _ => 7

/-- A core is released. -/
def State.released (s : State) (c : Nat) : Bool := s.fld (coreFld c) != 0

/-- Core `c` may write memory `m` at all: its own SRAM, or the KC a core's before its release; a table of the exchange area; a region
of MRAM, which of the cores the SC, the KC and the MC write. Where in the last two a region lies is not given (spec/01 Tables
1.3, 1.4 and 1.6, log entry 67). -/
def State.mayWrite (s : State) (m c : Nat) : Bool :=
  if m ≤ 6 then memCore m == c || (c == 1 && !s.released (memCore m))
  else if m = 7 then c != 1 else decide (c ≤ 2)

/-- A write of another part is not performed: E:0x0FF0 (spec/01 R14, R20). -/
def State.writeGate (s : State) (m : Nat) (w : Option MemWrite) : State × Option MemWrite :=
  match w with
  | some ⟨_, _, _, some c⟩ => if s.mayWrite m c then (s, w) else (s.event 0x0FF0 [if c.val = 0 then 0 else c.val + 1], none)
  | _ => (s, w)

/-- MERGE_DRAIN: a write that its memory does not take from its part is refused; another that has met a busy tile enters the buffer of 8, or its writer stalls, counted in MERGE; then, with
its tile free, the oldest entry drains through the read-modify-write of the tile `t` (R385, R386). -/
def execMergeDrain (mem : Fin 9) (arrived : Option MemWrite) (busy : Bool) (t : MemTile) (s : State) :
    Host.Outcome State Fault Refusal :=
  s.live (
    let m := mem.val
    let g := s.writeGate m arrived
    let s := g.1
    match g.2 with
    | none => if busy then s else s.drainOne m t
    | some w =>
      if (s.unit m).buf.length < 8 || (s.unit m).buf.any (fun x => x.word == w.word) then
        let s := s.updUnit m fun u => { u with buf := putWrite w u.buf }
        if busy then s else s.drainOne m t
      else
        let s := s.inc (MI_CNT_MERGE m)
        if busy then s else (s.drainOne m t).updUnit m fun u => { u with buf := putWrite w u.buf })

/-! ### Traps (R389) -/

/-- FETCH_TRAP: an uncorrectable read, which poisons its word, or a fetch of an unwritten word, which stays as it is (R384).
A read of the exchange area traps no core: the table counts as not published; where the tables lie in it is not given, so the
SF tick's operand names the writer (R16). -/
def execFetchTrap (core : Fin 8) (mem : Fin 9) (addr : BitVec 32) (synd : Word) (unwritten : Bool) (s : State) :
    Host.Outcome State Fault Refusal :=
  s.live (
    let m := mem.val
    let s := s.iff (!unwritten) fun s => (s.poisonWords m [addr.toNat / 4]).memTrace m (addr.toNat / 4) synd
    if m = 7 then s else s.trapCore core m addr.toNat)

/-! ### Check-value units (R393 to R396) -/

/-- Memory of a unit's range, the core that ACTION 1 halts, and the regions of the range (Table 16.5). -/
def cvuMem (u : Nat) : Nat := if u = 7 then 6 else u
def cvuRegions : Nat → List Nat
  | 0 => [0] | 1 => [2, 3] | 2 => [4] | 3 => [4] | 4 => [5] | 5 => [6] | 6 => [7] | _ => [8, 9]

/-- Bytes of a unit's range in the active bank. -/
def State.cvuBytes (s : State) (u : Nat) : List Byte :=
  (cvuRegions u).flatMap (s.bank (s.fld KB_BOOT_ACTIVE)).region

/-- A unit loads its range: LOAD, then EXPECT of the verified source; a mismatch raises E:0x0F0B and leaves the channels off, a
match arms them (R395). -/
def State.cvuLoad (s : State) (u : Nat) (ok : Bool) : State :=
  let b := s.cvuBytes u
  let s := ((s.setFld (CVU_BASE_BASE u) (Config.regionBase u)).setFld (CVU_LEN_LEN u) b.length).setFld (CVU_EXP_EXPECT u) (crc32c b)
  let s := ((s.setFld (CVU_CFG_STATE u) (if ok then 2 else 1)).setFlag (CVU_CFG_GUARD u) ok).setFlag (CVU_CFG_SWEEP u) ok
  if ok then s.startTimer (.cvu u) else (s.stopTimer (.cvu u)).event 0x0F0B [u]

/-- A unit takes its ACTION and is FAILED: it halts the core of its range; CVU0 leads to a start once no transfer flag is 1,
CVU7 disables the panels. In BENCH none is taken (R394, R396; the start's cause is the model's choice, log entry 23). -/
def State.cvuAct (s : State) (u : Nat) : State :=
  if s.mode = 7 then s
  else
    let s := (s.setFld (CVU_CFG_STATE u) 3).stopTimer (.cvu u)
    if s.fld (CVU_CFG_ACTION u) = 1 then s.haltCore (memCore (cvuMem u))
    else if u = 0 then s.deferStart 3
    else s.each (idx 2) fun s p => s.loadTable p []

/-- CVU_SWEEP: every PERIOD the range's CRC is compared with EXPECT; `unc` is a poisoned word on the way (R394, R396). -/
def execCvuSweep (cvu : Fin 8) (crc : Word) (unc : Bool) (s : State) : Host.Outcome State Fault Refusal :=
  s.live (
    let u := cvu.val
    if s.fld (CVU_CFG_STATE u) = 2 && s.flag (CVU_CFG_SWEEP u) && s.due (.cvu u) (s.fld (CVU_CFG_PERIOD u) * sec) then
      let s := (s.startTimer (.cvu u)).iff (!unc) (·.setFld (CVU_ACC_ACC u) crc.toNat)
      if unc || crc.toNat != s.fld (CVU_EXP_EXPECT u) then ((s.inc (CVU_CNT_FAILS u)).event 0x0F0A [u, b2n unc]).cvuAct u
      else s.inc (CVU_CNT_SWEEPS u)
    else s)

/-- CVU_GUARD_HIT: a write by a core lands in the range (R394, R396). -/
def execCvuGuardHit (cvu : Fin 8) (writer : Fin 8) (addr : BitVec 32) (s : State) : Host.Outcome State Fault Refusal :=
  s.live (
    let u := cvu.val
    let b := s.fld (CVU_BASE_BASE u)
    if s.fld (CVU_CFG_STATE u) = 2 && s.flag (CVU_CFG_GUARD u) && decide (b ≤ addr.toNat ∧ addr.toNat < b + s.fld (CVU_LEN_LEN u)) then
      ((s.inc (CVU_CNT_HITS u)).event 0x0F09 [u, writer, addr.toNat]).cvuAct u
    else s)

/-- A poisoned word in the range of an armed unit with ACTION 1 halts the unit's core at once (R393). -/
def State.poisonHalt (s : State) (m : Nat) (ws : List Nat) : State :=
  match (idx 7).find? fun u => cvuMem u == m && s.fld (CVU_CFG_ACTION u) == 1 && s.fld (CVU_CFG_STATE u) == 2
      && ws.any fun w => decide (s.fld (CVU_BASE_BASE u) ≤ 4 * w ∧ 4 * w < s.fld (CVU_BASE_BASE u) + s.fld (CVU_LEN_LEN u)) with
  | some u => s.haltCore (memCore (cvuMem u))
  | none => s

/-! ### Scrubbing (R392, R393) -/

/-- Tiles of a memory (spec/01 Tables 1.1 and 1.3, Table 16.4). -/
def memTiles : Nat → Nat
  | 0 => 16384 | 1 => 32768 | 6 => 32768 | 7 => 32768 | 8 => 262144 | _ => 65536

/-- Domain that powers a memory. -/
def memDomain : Nat → Nat
  | 1 => 3 | 2 => 5 | 3 => 5 | 4 => 4 | 5 => 4 | 6 => 9 | _ => 2

/-- The time at which a pass is late, in ns. -/
def State.scrubLate (s : State) (m : Nat) : Nat := if m = 8 then s.fld MI_GCFG_MRAM_T * sec else sec

/-- The engine goes on to the next tile; at the end of a pass LAST and LATE show it. -/
def State.scrubNext (s : State) (m : Nat) : State :=
  let p := (s.unit m).pos + 1
  if p < memTiles m then (s.updUnit m fun u => { u with pos := p }).setFld (MI_SCR_PROG m) (p * 100 / memTiles m)
  else
    let late := (s.unit m).late
    let s := s.setSat (MI_SCR_LAST m) (s.elapsed (.scrub m) / (if m = 8 then sec else ms))
    let s := s.setFld MI_STATUS_LATE (setBit (s.fld MI_STATUS_LATE) m late)
    ((s.updUnit m fun u => { u with pos := 0, urgent := false, late := false }).setFld (MI_SCR_PROG m) 0).startTimer (.scrub m)

/-- The engine may take its next tile: it spreads a pass over the period that the GC has last set, and takes no regard of it once it is
urgent (R392, R393). -/
def State.scrubPaced (s : State) (m : Nat) : Bool :=
  (s.unit m).urgent || decide ((s.unit m).pos * (s.unit m).pace ≤ s.elapsed (.scrub m) * memTiles m)

/-- SCRUB_TILE: the engine of a memory checks its next tile, which reads as `t`: corrected and written back, or its words
poisoned, E:0x0F03; not in a compute window of the memory's CE; a word whose state field has flipped is poisoned too (R384, R392, R393, Table 16.2). -/
def execScrubTile (mem : Fin 9) (t : MemTile) (stuck : Bool) (s : State) : Host.Outcome State Fault Refusal :=
  s.live (
    let m := mem.val
    if !s.pdGood (memDomain m) || s.mode == 6 || !s.scrubPaced m || s.inWindow m then s
    else
      let s := s.iff (!s.timing (.scrub m)) (·.startTimer (.scrub m))
      let tile := (s.unit m).pos
      let t := s.tileNow m tile t
      let s := s.poisonWords m (((idx 16).filter (tilePoisoned t)).map (16 * tile + ·))
      let s := match tileCheck t with
        | .good => s
        | .fixed w t' => s.corrected m (16 * tile + w) (tileSyndrome t) t' stuck
        | .bad ws =>
          let words := ws.map (16 * tile + ·)
          let s := ((s.inc (MI_CNT_UNC m)).poisonWords m words).memTrace m (words.headD (16 * tile)) (tileSyndrome t)
          let s := s.updMem fun x => { x with wrote := some (m, tile, tilePoison t ws) }
          (s.event 0x0F03 [m, 64 * tile]).poisonHalt m words
      s.scrubNext m)

/-- SCRUB_PASS_LATE: from 80 % of its time an engine takes one port cycle in four; at its time the pass is late, E:0x0F06
(R393, Table 16.4). -/
def execScrubPassLate (mem : Fin 9) (s : State) : Host.Outcome State Fault Refusal :=
  s.live (
    let m := mem.val
    let t := s.scrubLate m
    let s := s.iff (s.due (.scrub m) (t * 4 / 5)) fun s => s.updUnit m fun u => { u with urgent := true }
    if s.due (.scrub m) t && !(s.unit m).late then
      ((s.updUnit m fun u => { u with late := true }).setFld MI_STATUS_LATE (setBit (s.fld MI_STATUS_LATE) m true)).event 0x0F06 [m]
    else s)

/-- Memories at a start: every SRAM partition is cleared, its spares take the tiles of the hard-fault list and of the start-up
test, MRAM's those of its remap table (R384, R390). -/
def State.memStart (s : State) (bad : List (Nat × Nat)) : State :=
  let s := s.updMem fun x =>
    { x with pois := x.pois.filter (fun p => p.1 == 8), fixed := x.fixed.filter (fun p => p.1 == 8), wrote := none, back := []
             hard := x.hard ++ (bad.filter fun p => decide (p.1 < 8) && !x.hard.contains p).eraseDups }
  let s := s.each (idx 9) fun s m =>
    let r := if m = 8 then (s.unit m).remap ++ ((bad.filter fun p => p.1 == 8).map (·.2)).filter fun t => !(s.unit m).remap.contains t
      else (s.mem.hard.filter fun p => p.1 == m).map (·.2)
    let r := r.take (s.fld (MI_REMAP_SPARE m))
    let s := (s.updUnit m fun _ => { MemUnit.rest with remap := r }).setSat (MI_REMAP_USED m) r.length
    (s.setFld (MI_SCR_PROG m) 0).poisRegs m
  s.each (idx 9) fun s m => s.startTimer (.scrub m)

/-- The items that MRAM holds twice, by the number that the SF tick's operand gives them: 0 the legal register commit, 1 the safety set,
2 T_REM, 3 the limited-count counters, 4 ARB, 5 the lifecycle state: their content, by which a later write shows (R388). -/
def State.itemVal (s : State) (i : Nat) : List Nat :=
  match i with
  | 1 => [s.isl.chk]
  | 2 => [s.isl.tRem]
  | 3 => [s.fld MET_GCFG_CALCNT, s.fld LEG_COUNTS_LEGFW, s.fld SI_ARCH_LEFT, s.fld KB_CNT_ID_LEFT]
  | 4 => [s.fld KB_CNT_ARB]
  | _ => [s.lifecycle]

/-- The writer of an item: the MC, the SC or the KC (R388). -/
def itemWriter (i : Nat) : Nat := if i = 0 then 2 else if i ≤ 2 then 0 else 1

/-- The newer copy of an item cannot be read: E:0x0F0C with the address, and the older one serves until the writer's next write; where
that one is lost already, it is an uncorrectable read of the writer (R388, R389). -/
def State.copyLost (s : State) (i addr : Nat) : State :=
  let s := s.setFld (MI_ADDR_ADDR 8) addr
  if s.mem.oneCopy.any fun p => p.1 == i then s.trapCore (itemWriter i) 8 addr
  else (s.updMem fun x => { x with oneCopy := x.oneCopy ++ [(i, s.itemVal i)] }).event 0x0F0C [8, addr]

/-- Items that their writer has written since have two copies again: the MC commits in every SF (R388). -/
def State.copiesTick (s : State) : State :=
  s.updMem fun x => { x with oneCopy := x.oneCopy.filter fun p => if p.1 = 0 then !s.coreRuns 2 else s.itemVal p.1 == p.2 }

/-- Once-per-SF flags; MRAM items of which the newer copy cannot be read: E:0x0F0C; data reads of unwritten words: each counts
in UNWR, and the first of a memory in the SF raises E:0x0F07; the GC sets the engines' pace (R384, R388, R392, R398). -/
def State.memTick (s : State) (bad : List (Nat × Nat)) (unwr : List (Nat × Nat)) : State :=
  let s := s.updMem fun x => { x with mems := x.mems.map fun (u : MemUnit) => { u with told01 := false } }
  let s := s.iff (s.coreRuns 7) fun s => s.each (idx 9) fun s m => s.updUnit m fun u =>
    { u with pace := if m = 8 then s.fld MI_GCFG_MRAM_T * sec else s.fld MI_GCFG_SRAM_T * 10 * ms }
  let s := s.each [4, 5] fun s m => s.iff (!s.inWindow m) (·.backAll m)
  let s := (s.copiesTick).each bad fun s p => s.iff (decide (p.1 ≤ 5)) (·.copyLost p.1 p.2)
  s.each (idx 9) fun s m =>
    match unwr.filter fun u => u.1 == m with
    | [] => s
    | u :: us => (s.setSat (MI_CNT_UNWR m) (s.fld (MI_CNT_UNWR m) + us.length + 1)).event 0x0F07 [m, u.2]

/-- LK fields of the block in range (Table 16.7). -/
def State.memCfgOk (s : State) : Bool :=
  decide (60 ≤ s.fld MI_GCFG_MRAM_T ∧ s.fld MI_GCFG_MRAM_T ≤ 3600 ∧ 10 ≤ s.fld MI_GCFG_SRAM_T ∧ s.fld MI_GCFG_SRAM_T ≤ 90)

end Sys2Proof.Machine
end

