-- ==== Sys2Proof/Machine/Modes.lean ====
section
/-!
DEFINITION. Mode requests, bench hold, logic supplies and hold-up, freeze and capture, safety-input changes and core faults
(spec/17 R399 to R420, spec/09 R229, R252).
-/

namespace Sys2Proof.Machine

open Sys2Proof

/-! ### Mode requests (R399 to R404) -/

/-- A mode request is refused: MD_STAT.REASON, E:0x1001 with the target (R400). -/
def State.modeRefuse (s : State) (target reason : Nat) : State := (s.setFld MD_STAT_REASON reason).event 0x1001 [target]

/-- Sessions stop ahead of a change: an EVSE stop with reason 2 on every session whose transfer flag is 1; 10 s follow
(R400). -/
def State.modeStops (s : State) (req : Nat) : State :=
  let s := s.each ((idx s.nOuts).filter s.xfer) fun s j => s.evseStopAll j 2
  (s.updSys fun x => { x with req := req }).startTimer .reqStop

/-- What bars RUN, in the order of R403: reason 2, 3, 5 or 4; none where it may be entered. -/
def State.runBars (s : State) : List Nat :=
  (if s.flag GLB_CFG_COMMIT_COMMITTED then [] else [2]) ++ (if s.isl.istate == 2 then [] else [3])
    ++ (if s.flag SUP_STAT_STORE_RDY then [] else [5])
    ++ (if s.flag TIME_CTRL_REQ_VALID && !s.flag TIME_STATUS_VALID then [4] else [])

/-- A request for a mode (R400). BENCH-ONLY operates in BOOT and BENCH alone (spec/00 R3). In hold-up a start is certain, and requests change nothing (log entry 24). -/
def State.modeReq (s : State) (target : Nat) : State :=
  if s.sys.shed.isSome then s
  else match target, s.mode with
  | 2, 1 =>
    if s.hvLocked then s.modeRefuse 2 6
    else if !s.isl.conf then s.modeRefuse 2 8
    else if !s.flag GLB_CFG_COMMIT_COMMITTED then s.modeRefuse 2 2 else s.setMode 2
  | 2, 3 => if s.hvLocked then s.modeRefuse 2 6 else s.modeStops 2
  | 3, 2 =>
    if s.hvLocked then s.modeRefuse 3 6 else
    (match s.runBars with
     | [] => s.setMode 3
     | r :: rs =>
       let s := s.iff ((r :: rs).contains 5) fun s => s.event 0x1009 []
       let s := s.iff ((r :: rs).contains 4) fun s => s.event 0x0112 []
       s.modeRefuse 3 r)
  | 1, 2 => if s.hvLocked then s.modeRefuse 1 6 else s.setMode 1
  | 7, 1 | 7, 2 =>
    if s.mode = 1 ∧ !s.isl.conf then s.modeRefuse 7 8
    else if 2 ≤ s.lifecycle then s.modeRefuse 7 6
    else ((s.startTimer .bench).setFlag MD_STAT_BENCH_WAIT true).event 0x1002 []
  | 15, 6 => s.modeRefuse 15 1
  | 15, 3 | 15, 4 => s.modeStops 15
  | 15, _ => s.beginStart 5
  | t, _ => s.modeRefuse t 1

/-- MD_REQ_COMMISSION (R402). -/
def execMdReqCommission (s : State) : Host.Outcome State Fault Refusal := .next (s.modeReq 1)
/-- MD_REQ_STANDBY (R400). -/
def execMdReqStandby (s : State) : Host.Outcome State Fault Refusal := .next (s.modeReq 2)
/-- MD_REQ_RUN (R403). -/
def execMdReqRun (s : State) : Host.Outcome State Fault Refusal := .next (s.modeReq 3)
/-- MD_REQ_BENCH (R404). -/
def execMdReqBench (s : State) : Host.Outcome State Fault Refusal := .next (s.modeReq 7)
/-- MD_REQ_START (R399). -/
def execMdReqStart (s : State) : Host.Outcome State Fault Refusal := .next (s.modeReq 15)

/-- STANDBY_ENTRY: no transfer flag is 1, and the pending request is carried out (R400). -/
def execStandbyEntry (s : State) : Host.Outcome State Fault Refusal :=
  s.live (
    if s.sys.req == 2 && s.mode == 3 && s.noXfer then s.setMode 2
    else if s.sys.req == 15 && s.mode != 6 && s.noXfer then s.beginStart 5
    else s)

/-- STANDBY_STOP_TIMEOUT: 10 s after the request the SC stops the outputs whose transfer flag is still 1 (R400, R237). -/
def execStandbyStopTimeout (s : State) : Host.Outcome State Fault Refusal :=
  s.live (
    if s.sys.req != 0 && s.due .reqStop (10 * sec) then
      (s.stopTimer .reqStop).each ((idx s.nOuts).filter s.xfer) fun s j => (s.controlledStop j 13).safetyEnd j
    else s)

/-- The BENCH window closes. -/
def State.benchClose (s : State) : State := (s.stopTimer .bench).setFlag MD_STAT_BENCH_WAIT false

/-- BENCH_WINDOW_EXPIRY (R404). -/
def execBenchWindowExpiry (s : State) : Host.Outcome State Fault Refusal :=
  s.live (if s.due .bench (60 * sec) then (s.benchClose).modeRefuse 7 7 else s)

/-! ### Bench hold (R405) -/

/-- Cores that a bench hold holds: VC0, VC1, CE0, CE1, GC. -/
def benchCores : List Nat := [3, 4, 5, 6, 7]

/-- A core is held, or runs again; a CE that runs a law shows it (spec/04 Table 4.13). -/
def State.holdCore (s : State) (i new : Nat) : State :=
  let s := s.setFld (coreFld i) new
  s.iff (5 ≤ i && i ≤ 6 && s.fld (CE_STATUS_STATE (i - 5)) == 4 - new) (·.setFld (CE_STATUS_STATE (i - 5)) new)

/-- Hold or release those cores. -/
def State.coresTo (s : State) (now new : Nat) : State :=
  s.each benchCores fun s i => s.iff (s.fld (coreFld i) == now) (·.holdCore i new)

/-- BN_HOLD: a write of BN_CTRL.HOLD in BENCH; the cores follow at the next SF tick. -/
def State.hostHold (s : State) (hold : Bool) : State := if s.mode = 7 then s.setFlag BN_CTRL_HOLD hold else s

def execBnHold (hold : Bool) (s : State) : Host.Outcome State Fault Refusal := s.live (s.hostHold hold)

/-- The hold at an SF tick. -/
def State.benchTick (s : State) : State :=
  if s.mode == 7 && s.flag BN_CTRL_HOLD then s.iff s.sys.step.isNone (·.coresTo 1 3)
  else if s.mode == 6 then s
  else ((s.updSys fun x => { x with step := none }).setFlag BN_CTRL_STEP false).coresTo 3 1

/-- BN_STEP: the held cores run for STEP_N CFs. -/
def State.hostStep (s : State) (n : Nat) : State :=
  if s.mode == 7 && s.flag BN_CTRL_HOLD && s.sys.step.isNone && n != 0 && benchCores.any fun i => s.fld (coreFld i) == 3 then
    let s := ((s.setFld BN_CTRL_STEP_N n).setFlag BN_CTRL_STEP true).coresTo 3 1
    s.updSys fun x => { x with step := some n }
  else s

def execBnStep (n : BitVec 16) (s : State) : Host.Outcome State Fault Refusal := s.live (s.hostStep n.toNat)

/-- A CF of a step has run. -/
def State.benchCf (s : State) : State := s.updSys fun x => { x with step := x.step.map (· - 1) }

/-- BENCH_STEP_DONE: STEP_N CFs have run, and the cores hold again: E:0x1010. -/
def execBenchStepDone (s : State) : Host.Outcome State Fault Refusal :=
  s.live (
    if s.sys.step = some 0 then
      (((s.updSys fun x => { x with step := none }).setFlag BN_CTRL_STEP false).coresTo 1 3).event 0x1010 []
    else s)

/-! ### Logic supplies (R406 to R411) -/

/-- A logic input is within 18 V to 32 V; voltages in 10 mV. -/
def supOk (v : Nat) : Bool := decide (1800 ≤ v ∧ v ≤ 3200)

/-- Show the two inputs. -/
def State.takeSup (s : State) (a b : Nat) : State :=
  (((s.setSat SUP_V_A a).setSat SUP_V_B b).setFlag SUP_STAT_A_OK (supOk a)).setFlag SUP_STAT_B_OK (supOk b)

/-- POWER_UP: one input has been inside for 10 ms, and the unpowered module makes a start: supply loss where it had run on its
store, freeze where that was in FROZEN, power-up otherwise (R410, R437). -/
def execPowerUp (a b : BitVec 16) (s : State) : Host.Outcome State Fault Refusal :=
  .next (
    let dead := !s.pdOn 0 || (s.mode == 0 && s.keys.begun.isNone && s.reg R_GLB_CORE_STATE == 0)
    if dead && (supOk a.toNat || supOk b.toNat) then
      (s.takeSup a.toNat b.toNat).beginStart (if s.mode = 6 then 6 else if s.sys.shed.isSome then 1 else 0)
    else s)

/-- LOGIC_INPUT_EXCURSION: one input is outside while the other stays inside: E:0x1003 and nothing else (R406). -/
def execLogicInputExcursion (a b : BitVec 16) (s : State) : Host.Outcome State Fault Refusal :=
  .next (
    let s := s.takeSup a.toNat b.toNat
    if supOk a.toNat != supOk b.toNat then (s.inc SUP_CNT_INPUT).event 0x1003 [b2n (supOk a.toNat)] else s)

/-- HOLD_ENTRY: V_LOGIC, the higher input, has been below VWARN for 20 µs (R407, spec/07 R183, spec/06 R157). -/
def execHoldEntry (a b : BitVec 16) (met : List MetOutIn) (feeds : List FeedIn) (s : State) : Host.Outcome State Fault Refusal :=
  .next (
    let s := s.takeSup a.toNat b.toNat
    if max a.toNat b.toNat < 1650 && !s.holding && !s.flag SUP_STAT_STORE then
      let s := s.each (idx 8) fun s j => s.updVh j fun v => { v with holdI := some (s.announced j) }
      let s := (((s.setFlag SUP_STAT_HOLD true).setFlag SH_STATUS_HOLD true).inc SUP_CNT_DIPS).event 0x1004 []
      s.iff (s.metOn && s.mode != 6) fun s => (s.iff (s.pdGood 2) (·.earlyCommit met feeds false)).event 0x0613 []
    else s)

/-- HOLD_END: V_LOGIC has been above 17.5 V for 10 ms without interruption (R407). -/
def execHoldEnd (a b : BitVec 16) (s : State) : Host.Outcome State Fault Refusal :=
  .next (
    let s := s.takeSup a.toNat b.toNat
    if 1750 ≤ max a.toNat b.toNat && s.holding && !s.flag SUP_STAT_STORE then
      let s := s.each (idx 8) fun s j => s.updVh j fun v => { v with holdI := none }
      ((s.setFlag SUP_STAT_HOLD false).setFlag SH_STATUS_HOLD false).event 0x1005 []
    else s)

/-- A domain goes off, with the cores in it unreleased. -/
def State.shedCores (s : State) (cores : List Nat) (mask : Nat) : State :=
  (s.each cores fun s i => s.setFld (coreFld i) 0).pdSet (s.fld GLB_PD_STATE_ON &&& (0x3FF ^^^ mask))

/-- The end of Table 17.3: with the final commit made and the loads shed, the boot record takes RCAUSE 1, and PD1 and PD2 are
shed. -/
def State.closeOut (s : State) : State :=
  if s.sys.shed == some 7 && !s.pdOn 3 && !s.sys.shedDone then
    ((s.setFld KB_BOOT_RCAUSE 1).shedCores [0, 1] 0x006).updSys fun x => { x with shedDone := true }
  else s

/-- STORE_SWITCH: V_LOGIC has fallen below VRST: E:0x1006, PD8 is shed, the ramp begins from each output's current, and the MC
meters under R184 (R408, spec/07 R169, R184). In FROZEN only the capture goes on (R415). -/
def execStoreSwitch (a b : BitVec 16) (s : State) : Host.Outcome State Fault Refusal :=
  .next (
    let s := s.takeSup a.toNat b.toNat
    if max a.toNat b.toNat < 1400 && !s.flag SUP_STAT_STORE && s.pdOn 0 then
      let s := (((s.setFlag SUP_STAT_STORE true).setFlag SUP_STAT_STORE_RDY false).inc SUP_CNT_HOLDUPS).event 0x1006 []
      if s.mode = 6 then s.updSys fun x => { x with shed := some 7, shedDone := true, frozenLoss := true }
      else
        let i0 := (idx 8).map fun j => (s.fastI j).natAbs / 100
        let s := ((s.twinAnnounce).pauseCut).stopTimer .freeze
        let s := s.updSys fun x => { x with shed := some 0, shedI := i0, shedDone := false, shedSf := s.tim.sfCount, frz := none }
        let s := s.iff (s.metOn && !s.flag MET_STATUS_HOLDUP) fun s => ((s.setFlag MET_STATUS_HOLDUP true).event 0x060A []).rotAbandon
        s.pdSet (s.fld GLB_PD_STATE_ON &&& 0x2FF)
    else s)

/-- SHEDDING_STEP: at each SF tick after the store switch: clamps at I0 × (7 − k) / 7; at tick 7 the stop line, the pairs,
and PD7, PD4, PD5, PD9 and PD6 (Table 17.3). -/
def execSheddingStep (s : State) : Host.Outcome State Fault Refusal :=
  s.live (match s.sys.shed with
    | some k =>
      if k < 7 && s.tim.sfCount != s.sys.shedSf then
        let s := s.updSys fun x => { x with shed := some (k + 1), shedSf := s.tim.sfCount }
        let s := s.each (idx s.nOuts) fun s j => s.setClamp j (s.clampNow j)
        if k + 1 = 7 then
          let s := s.stopLines (idx s.nLinks) 9
          let s := s.each (idx 8) fun s p => s.pairOffSoon p
          let s := (s.shedCores [] 0x080).shedCores benchCores 0x230
          (((s.hostQuiet).shedCores [] 0x040).linkGone).closeOut
        else s
      else s
    | none => s)

/-- HOLDUP_FINAL_COMMIT: every output and feed has stopped metering: the MC's final commit, E:0x060B, and PD3 is released
(spec/07 R184). Metering that the end of the store has cut makes none. -/
def execHoldupFinalCommit (s : State) : Host.Outcome State Fault Refusal :=
  s.live (
    if s.flag MET_STATUS_HOLDUP && s.pdOn 3 && !s.sys.cut && (idx s.nOuts).all (fun j => (s.mo j).stopped) && (idx 2).all (fun f => (s.mf f).stopped) then
      ((s.event 0x060B []).shedCores [2] 0x008).closeOut
    else s)

/-! ### Capture (R416 to R420) -/

/-- Show a slot in its registers. -/
def State.slotRegs (s : State) (k : Nat) (c : CapSlot) : State :=
  let s := ((s.setFld (CAP_IDX_INDEX k) c.index).setFld (CAP_ST_STATUS k) c.status).setSat (CAP_ST_SIZE k) ((c.bytes + 4095) / 4096)
  (s.setFld (CAP_TIME_LO_T k) (c.time % 2 ^ 32)).setFld (CAP_TIME_HI_T k) (c.time / 2 ^ 32)

/-- The slot that the next capture takes: the oldest one that is not protected (R416). -/
def State.capSlot (s : State) : Option Nat :=
  let free := (idx 4).filter fun k => !bit (s.fld FRZ_CTRL_PROT) k
  let age (k : Nat) : Nat := match nth none s.sys.slots k with
    | some c => c.index
    | none => 0
  match free with
  | [] => none
  | h :: t => some (t.foldl (fun a k => if age k < age a then k else a) h)

/-- The lid tag's capture index is written, and the slot's registers follow (R417, Table 12.3). -/
def State.capIndex (s : State) (k : Nat) (c : CapSlot) : State :=
  let s := s.updSys fun x => { x with slots := x.slots.set k (some c) }
  ((s.slotRegs k c).setFld FRZ_STAT_LAST k).tagCapture k c.index c.status c.source c.time

/-- A capture ends with a status: the slot's header, E:0x100D, the tag's index (R416, R417). A capture that was not made has
failed. -/
def State.capDone (s : State) (sections bytes status : Nat) : State :=
  if !s.sys.capturing then s
  else
    let slot := s.sys.cap
    let s := s.updSys fun x => { x with capturing := false, cap := none }
    match slot with
    | none => s.event 0x100D [s.sys.captures, 3]
    | some k => match nth none s.sys.slots k with
      | none => s
      | some c => (s.event 0x100D [c.index, status]).capIndex k { c with sections := sections, bytes := bytes, status := status }

/-- A capture cut with the store, or by a start, is PARTIAL; how much of it was written is open (R409, R415). -/
def State.capCut (s : State) : State :=
  if s.sys.capturing then
    let p := s.draw
    let a := p.1
    let s := p.2
    let p := s.draw
    let b := p.1
    let s := p.2
    s.capDone (a % 10) (b % 2 ^ 25) 2
  else s

/-- Domains that stay on once the capture engine has read them all: PD0, PD2 and PD3 (Table 17.6, spec/01 Table 1.2). -/
def frozenMask : Nat := 0x00D

/-- Outputs whose fast-path current is above 2 A. -/
def State.above2 (s : State) : List Nat := (idx 8).filter fun j => decide (2000 < (s.fastI j).natAbs)

/-- The clocks stop: FROZEN, E:0x100C with the outputs still above 2 A, the host link down, the panels and rotation stopped, and
the capture begins (R413 to R417, spec/07 R169, spec/11 R288, spec/14 R347). -/
def State.clockStop (s : State) (kind : Nat) (r : FrzReq) : State :=
  let hot := s.above2.foldl (fun a j => a + 2 ^ j) 0
  let s := (s.updSys fun x => { x with frz := none }).stopTimer .freeze
  let s := s.iff s.metOn (·.rotAbandon)
  let slot := if s.flag FRZ_STAT_CAP_OK then s.capSlot else none
  let c : CapSlot :=
    { index := s.sys.captures + 1, time := s.now, serial := s.serial, kind := kind, source := r.source, status := 0, mode := r.mode
      si := r.si, sections := 0, bytes := 0, fwUpd := (s.reg R_GLB_FW_UPD).toNat, fwLegal := s.fwLegal, epoch := s.fld HR_EPOCH_EPOCH
      regs := s.regs, links := s.links, ces := s.ces, isl := s.isl, host := s.host, sh := s.sh }
  let s := s.setMode 6
  let s := ((s.linkGone).hostQuiet).pdSwitch false (s.fld GLB_PD_STATE_ON &&& 0x2FF)
  let s := s.each (idx 8) fun s i => s.iff (s.coreRuns i) (·.holdCore i 3)
  let s := (s.event 0x100C [hot]).updSys fun x => { x with capturing := true, cap := slot }
  match slot with
  | some k => (s.updSys fun x => { x with captures := x.captures + 1 }).capIndex k c
  | none => s.tagCapture 0 s.sys.captures 3 r.source s.now

/-- A freeze is requested by FREEZE_N or the host (R412): in BENCH it is instant (R414), elsewhere a safe freeze begins with the
safe state of cause 0xC1 (R413); an activation pause ends (spec/15 R376). A freeze that can take no slot is ignored. -/
def State.freezeReq (s : State) (src : Nat) : State :=
  let m := s.mode
  let si := (s.reg R_SI_STATUS).toNat
  let fresh := s.sys.frz.isNone
  let s := s.frzMark src m si
  match s.sys.frz with
  | none => s
  | some r =>
    if !fresh then s
    else
      let s := s.pauseCut
      if m = 7 then s.clockStop 1 r else if m = 0 then s else s.safeState 0xC1 []

/-- FREEZE_N_ASSERTED (R412). -/
def execFreezeNAsserted (s : State) : Host.Outcome State Fault Refusal := .next (s.freezeReq 0)

/-- FRZ_REQ: FRZ_CTRL.REQ (R412). -/
def execFrzReq (s : State) : Host.Outcome State Fault Refusal := .next (s.freezeReq 1)

/-- The waits of a safe freeze at an SF tick: every pair reads off and every current is at most 2 A, or 50 ms have passed; the
ring engine then quiesces (R413, spec/14 R345). -/
def State.freezeTick (s : State) : State :=
  match s.sys.frz with
  | none => s
  | some r =>
    if r.ready.isSome then s
    else if s.due .freeze (50 * ms) || ((idx 8).all (fun j => !s.pairReads j) && s.above2.isEmpty) then
      (s.updSys fun x => { x with frz := some { r with ready := some s.age } }).hostQuiet
    else s

/-- FREEZE_CLOCK_STOP: 0.3 ms after the SF tick that ended the waits (R413). -/
def execFreezeClockStop (s : State) : Host.Outcome State Fault Refusal :=
  s.live (match s.sys.frz with
    | some r => if r.ready.any fun t => decide (t + 300000 ≤ s.age) then s.clockStop 0 r else s
    | none => s)

/-- CAPTURE_END: the sections read, each domain switched off after its own; FRZ_CFG.AUTO_RST makes a start (R415, R416). -/
def execCaptureEnd (sections bytes : Nat) (ok : Bool) (s : State) : Host.Outcome State Fault Refusal :=
  .next (
    if s.sys.capturing then
      let s := s.capDone (if ok then 9 else min 9 sections) (min (2 ^ 25) bytes) (if ok then 1 else 3)
      let s := s.pdSwitch false (s.fld GLB_PD_STATE_ON &&& frozenMask)
      s.iff (s.flag FRZ_CFG_AUTO_RST && !s.flag SUP_STAT_STORE) (·.beginStart 6)
    else s)

/-- CAPTURE_ENGINE_TEST: at every start and every 24 h; a failure raises E:0x100E and clears CAP_OK (R420, spec/09 Table 9.8). -/
def execCaptureEngineTest (pass : Bool) (s : State) : Host.Outcome State Fault Refusal :=
  s.live (
    if s.mode != 6 && (s.sys.capDue || s.due .capTest (86400 * sec)) then
      let s := ((s.updSys fun x => { x with capDue := false }).startTimer .capTest).setFlag FRZ_STAT_CAP_OK pass
      s.iff (!pass) fun s => (s.event 0x100E []).faultSeen 11
    else s)

/-- Header of a slot (Table 17.7). -/
def capHeader (c : CapSlot) : List Byte :=
  let b : List Byte := ([0x44, 0x5A, 0x43, 0x42] : List Byte) ++ toLE 4 c.index ++ toLE 8 c.time ++ toLE 8 c.serial
    ++ toLE 1 c.kind ++ toLE 1 c.source ++ toLE 1 c.status ++ toLE 1 c.mode ++ toLE 4 c.si ++ toLE 4 c.sections ++ toLE 4 c.bytes
    ++ toLE 4 c.fwUpd ++ toLE 4 c.fwLegal ++ toLE 4 c.epoch ++ List.replicate 200 0
  b ++ toLE 4 (crc32c b)

/-- A byte of a slot's sections, from what was captured: how the sections lay it out is not given (log entry 60). -/
opaque capBody (c : CapSlot) (offset : Nat) : Byte

/-- A byte of the capture store: a slot's header, then its sections. -/
def State.capByte (s : State) (a : Nat) : Byte :=
  match nth none s.sys.slots (a / 2 ^ 25) with
  | some c => if a % 2 ^ 25 < 256 then nth 0 (capHeader c) (a % 2 ^ 25) else capBody c (a % 2 ^ 25)
  | none => Config.captureByte [] 0 a

/-- The capture port answers whenever PD0 and PD2 are powered (R418). -/
def State.capPort (s : State) (b : List Byte) : State :=
  if s.pdGood 0 && s.pdGood 2 then s.updSys fun x => { x with capOut := b } else s

/-- CAP_READ: `n` bytes from an address (R418). -/
def execCapRead (addr : BitVec 32) (n : Nat) (s : State) : Host.Outcome State Fault Refusal :=
  .next (s.capPort ((idx n).map fun i => s.capByte (addr.toNat + i)))

/-- READ_INDEX: the four slot headers, 1024 bytes, as far as the tool reads (R418). -/
def execReadIndex (n : Nat) (s : State) : Host.Outcome State Fault Refusal :=
  .next (s.capPort (((idx 4).flatMap fun k => (idx 256).map fun i => s.capByte (k * 2 ^ 25 + i)).take n))

/-! ### The store and the supply's return (R403, R408 to R411) -/

/-- STORE_CHARGED: the store has reached its charge (R403). -/
def execStoreCharged (v : BitVec 16) (s : State) : Host.Outcome State Fault Refusal :=
  .next (if s.flag SUP_STAT_STORE then s else (s.setFld SUP_STORE_V v.toNat).setFlag SUP_STAT_STORE_RDY true)

/-- STORE_TEST: the usable energy in mJ; below 2.1 J E:0x100A and HOLDUP_LOW (R411, spec/09 Table 9.8). -/
def execStoreTest (euse : BitVec 16) (s : State) : Host.Outcome State Fault Refusal :=
  s.live (
    if s.mode != 6 && !s.flag SUP_STAT_STORE && (s.sys.storeDue || s.due .storeTest (86400 * sec)) then
      let low := decide (euse.toNat < 2100)
      let s := ((s.updSys fun x => { x with storeDue := false }).startTimer .storeTest).setFld SUP_STORE_EUSE euse.toNat
      (s.setFlag SUP_STAT_HOLDUP_LOW low).iff low fun s => (s.event 0x100A []).faultSeen 11
    else s)

/-- END_OF_STORE: 0.1 J remain: E:0x1008; the MC commits its partial SF with HOLDUP_CUT, E:0x060C; the journal step and the
capture are closed (R409, spec/07 R184, spec/14 R345). -/
def execEndOfStore (met : List MetOutIn) (feeds : List FeedIn) (s : State) : Host.Outcome State Fault Refusal :=
  .next (
    if s.flag SUP_STAT_STORE && !s.flag SUP_STAT_EOS then
      let s := ((s.setFlag SUP_STAT_EOS true).inc SUP_CNT_EOS).event 0x1008 []
      let s := s.iff (s.flag MET_STATUS_HOLDUP && s.metOn) fun s =>
        ((s.iff (s.pdGood 2) (·.earlyCommit met feeds true)).updSys fun x => { x with cut := true }).event 0x060C []
      (s.hostQuiet).capCut
    else s)

/-- SUPPLY_RESTART: the sequence of Table 17.3 is over and an input has been inside for 10 ms (R410). -/
def execSupplyRestart (a b : BitVec 16) (s : State) : Host.Outcome State Fault Refusal :=
  .next (
    if s.sys.shedDone && s.pdOn 0 && (supOk a.toNat || supOk b.toNat) then
      ((s.takeSup a.toNat b.toNat).capCut).beginStart (if s.mode = 6 then 6 else 1)
    else s)

/-- STORE_END: PD0 loses power, and the RTC stops (R408); after the end-of-store warning the store can end before the sequence of
Table 17.3 has (R409, R410). -/
def execStoreEnd (s : State) : Host.Outcome State Fault Refusal :=
  .next (if s.flag SUP_STAT_STORE && (s.sys.shedDone || s.flag SUP_STAT_EOS) then s.pdSwitch false 0 else s)

/-! ### Safety inputs (spec/09 R229, R248, R251, R402, R404, R415) -/

/-- An input is a RESET input of the set in force, or of the candidate that waits for its local acknowledgement. -/
def State.resetInput (s : State) (i : Nat) : Bool :=
  s.sinRole i == 4 || (s.isl.candStage == 2 && imgFld s.isl.cand (0x140 + 4 * i) 2 0 == 4)

/-- Its type. -/
def State.resetType (s : State) (i : Nat) : Nat := if s.sinRole i = 4 then s.sinType i else imgFld s.isl.cand (0x140 + 4 * i) 5 4

/-- A valid operation of a RESET input: it opens BENCH within its window, confirms a candidate, leaves FROZEN, or asks for a
reset. -/
def State.resetOp (s : State) : State :=
  if s.mode = 6 then (s.capCut).beginStart 6
  else if !s.coreRuns 0 then s
  else if s.timing .bench && (s.mode == 1 || s.mode == 2) then (s.benchClose).enterBench
  else if s.isl.candStage == 2 then s.acknowledgeCand
  else s.resetRequest false

/-- SIN_CHANNEL_CHANGE: a channel changes level. The SC samples it at the next SF tick, and the Guard Logic accepts it once it
has held for 1 ms (R229); an operation of a RESET input is judged by its length, 0.1 s to 2 s. -/
def execSinChannelChange (sin : Fin 16) (isB level : Bool) (s : State) : Host.Outcome State Fault Refusal :=
  .next (
    let i := sin.val
    let s := s.updSin i fun x => if isB then { x with b := level } else { x with a := level }
    if s.resetInput i then
      let x := s.sin i
      let dem := demOf (s.resetType i) x.a x.b false
      match x.opAt with
      | none => if dem then s.updSin i fun x => { x with opAt := some s.age } else s
      | some t =>
        if dem then s
        else
          let s := s.updSin i fun x => { x with opAt := none }
          let len := s.age - t
          if len < 100 * ms then s else if 2 * sec < len then s.event 0x0804 [i] else s.resetOp
    else s)

/-- Domain of a core (spec/01 Table 1.2). -/
def coreDomain : Nat → Nat
  | 0 => 1 | 1 => 2 | 2 => 3 | 3 | 4 => 5 | 5 | 6 => 4 | _ => 9

/-! ### Core faults (spec/09 R252) -/

/-- WATCHDOG_TIMEOUT: E:0x0819. The SC's cycle or the Guard Logic's heartbeat: the safe state; VC or MC halted: controlled stop
of its outputs, of every output for the MC, then the safe state. Cores that a bench hold holds are left out (R405); a core
whose domain has lost its rail has stopped (spec/01 R13). -/
def execWatchdogTimeout (core : Fin 9) (s : State) : Host.Outcome State Fault Refusal :=
  s.live (
    let i := core.val
    if i = 8 then (if s.isl.faults.contains 5 then s else (s.event 0x0819 [8]).faultSafe 5)
    else
    let st := s.fld (coreFld i)
    let pd := coreDomain i
    let lost := i != 0 && s.pdOn pd && !s.pdGood pd
    if (st = 0 && !lost) || st == 3 then s
    else if i = 0 then
      if s.isl.faults.contains 5 && st == 2 then s else ((s.event 0x0819 [0]).faultSafe 5).haltCore 0
    else if 2 ≤ i ∧ i ≤ 4 then
      if s.isl.safe || s.isl.afterStop == 0x85 then s.haltCore i
      else
        let js := (idx s.nOuts).filter fun j => i == 2 || s.outVc j == i - 3
        let s := ((s.event 0x0819 [i]).faultSeen 5).updIsl fun x =>
          { x with faults := if x.faults.contains 5 then x.faults else x.faults ++ [5] }
        (s.stopThenSafe js 13 0x85).haltCore i
    else ((s.event 0x0819 [i]).faultSeen 5).haltCore i)

/-- LOCKSTEP_MISMATCH: the SC halts, E:0x0816, the Guard Logic enters the safe state (Table 9.8), and asks for a freeze where
FRZ_CFG.AUTO bit 3 is set (R412). -/
def execLockstepMismatch (s : State) : Host.Outcome State Fault Refusal :=
  s.live (
    if s.coreRuns 0 then
      let m := s.mode
      let si := (s.reg R_SI_STATUS).toNat
      let s := (s.event 0x0816 []).faultSafe 1
      let s := s.iff (bit (s.fld FRZ_CFG_AUTO) 3) (·.frzMark 3 m si)
      s.haltCore 0
    else s)

end Sys2Proof.Machine
end

