-- ==== Sys2Proof/Machine/Twin.lean ====
section
/-!
DEFINITION. The twin link: pairing records, mirror frames, handover, takeover and the twin's part of an SF tick (spec/17 R421
to R425).
-/

namespace Sys2Proof.Machine

open Sys2Proof

/-- A write aimed at the released Safety Island from outside is ignored: E:0x08F2, GLB_ISO_VIOL, ISO_WR (spec/01 R21); `src` is
the initiator's code (Table 1.19), `off` the register's offset in the Island's block. -/
def State.islViolation (s : State) (src off : Nat) : State :=
  let s := ((s.setFld GLB_ISO_VIOL_SRC src).inc GLB_ISO_VIOL_COUNT).setFld GLB_ISO_VIOL_OFFSET (off / 4 % 2 ^ 16)
  (s.setFlag GLB_STATUS_ISO_WR true).event 0x08F2 [src, off]

/-- A twin record or frame reaches the module: it is in twin operation, and its PD2 is powered. -/
def State.twinHears (s : State) : Bool := s.flag CQ_GCFG_TWIN_EN && s.pdGood 2

/-- PAIRING_RECORD: the twin's serial, SRC_ID, safety check value and hash (R421). -/
def execPairingRecord (serial : BitVec 64) (src : Fin 2) (chk hash : Word) (s : State) : Host.Outcome State Fault Refusal :=
  s.live (
    if s.twinHears then
      let s := s.updTwin fun t => { t with paired := true, src := src.val, chk := chk.toNat, hash := hash.toNat }
      let s := (s.setFld TW_PEER_LO_SERIAL (serial.toNat % 2 ^ 32)).setFld TW_PEER_HI_SERIAL (serial.toNat / 2 ^ 32)
      (s.setFlag TW_STAT_LINK true).twinRefresh
    else s)

/-- A standby's clock follows the holder's: TWIN_FOLLOW, VALID as the holder's, and the offset is corrected (spec/02 Table 2.3,
spec/01 R23). -/
def State.twinFollow (s : State) (m : Mirror) : State :=
  if s.flag CQ_GCFG_TOK then s else ((s.setClk 6).setFlag TIME_STATUS_VALID m.valid).acceptCorr m.ofs false

/-- The standby takes up a valid mirror frame. An announced token turns on the pairs that the holder has on, and passes at the
next tick (R422, R425); never in BENCH or in BENCH-ONLY, where every pair is held off (R404, spec/00 R3). -/
def State.twinFrame (s : State) (m : Mirror) : State :=
  let far := decide (1000 < m.ofs.natAbs)
  let s := (s.setFlag TW_STAT_LINK true).setFld TW_STAT_PEER_MODE m.mode
  let s := s.setFldS TW_OFS_OFS (satS 32 m.ofs)
  let s := s.updTwin fun t => { t with got := true, last := some m, missed := 0, ofsRun := if far then t.ofsRun + 1 else 0 }
  let s := s.iff (s.twin.ofsRun == 3) fun s => s.event 0x000A []
  let s := s.twinFollow m
  let s := s.iff (m.token && !s.flag CQ_GCFG_TOK && !s.twinBad && s.isl.istate == 2 && !s.hvLocked && s.mode != 7) fun s =>
    let s := s.updTwin fun t => { t with passing := 2 }
    s.each ((idx s.nOuts).zip m.outs) fun s p => s.iff (p.2.pair && !(s.io p.1).weld) fun s =>
      s.onPair p.1 fun s k => s.updSo k fun q => { q with hsc := true, lsc := true, onAt := s.age }
  s.twinRefresh

/-- MIRROR_FRAME: a bad check counts and reads as missing; a frame that comes to a holder means two claims of the token, and the
module with SRC_ID 1 withdraws (R422, R424). `isl` is an Island register that the frame would write (spec/01 R21). -/
def execMirrorFrame (ok : Bool) (m : Mirror) (isl : Option Nat) (s : State) : Host.Outcome State Fault Refusal :=
  s.live (
    if !s.twinHears then s
    else if !ok then s.inc TW_ERR_CRC
    else
      let s := match isl with
        | some o => s.islViolation 0xB o
        | none => s
      if s.flag CQ_GCFG_TOK && !s.twinBad then
        (s.setFlag TW_STAT_LINK true).iff (s.fld CQ_GCFG_SRC_ID == 1) (·.twinRelease)
      else s.twinFrame m)

/-- HANDOVER: TW_CTRL.HANDOVER on the holder, with the standby READY as its own frames show (R424). -/
def State.hostHandover (s : State) (ready : Bool) : State := if ready then s.twinAnnounce else s

def execHandover (ready : Bool) (s : State) : Host.Outcome State Fault Refusal := s.live (s.hostHandover ready)

/-- The link's last CF whose frame was due had a valid one: this CF, or the one before while its frame is awaited. -/
def State.hears (s : State) (n : Nat) : Bool := if (s.lk n).judged then (s.lk n).valid else (s.lk n).prevValid

/-- A block in RUN or HOLD reports that it obeys the other module (spec/03 R71). -/
def State.otherObeyed (s : State) : Bool :=
  (idx s.nLinks).any fun n => s.hears n && (s.bst n == 2 || s.bst n == 3) && !s.flag (CQ_STATE_OBEYS n)

/-- At least half of the enabled links report LOST or no upstream frame (R424). -/
def State.halfLost (s : State) : Bool :=
  let en := (idx s.nLinks).filter fun n => s.linkBit R_CQ_EN_LO R_CQ_EN_HI n
  let lost := en.filter fun n => s.bst n == 5 || s.lst n == 5 || !s.hears n
  !en.isEmpty && decide (en.length ≤ 2 * lost.length)

/-- TOKEN_TAKEOVER: no valid mirror frame for 2 consecutive SFs, and the links lost: the standby takes the token, READY or not,
with its Island armed, but never in MISMATCH, nor while a block obeys the other module (R421, R424, spec/03 R71). -/
def execTokenTakeover (s : State) : Host.Outcome State Fault Refusal :=
  s.live (
    if s.twinHears && !s.flag CQ_GCFG_TOK && !s.twinBad && decide (2 ≤ s.twin.missed) && s.halfLost && s.isl.istate == 2 && !s.otherObeyed then
      s.twinTake false
    else s)

/-- TWIN_LINK_LOST: E:0x1014; a standby's clock returns to FREERUN (R424, spec/02 Table 2.3). -/
def execTwinLinkLost (s : State) : Host.Outcome State Fault Refusal :=
  s.live (
    if s.flag TW_STAT_LINK then
      let s := (((s.setFlag TW_STAT_LINK false).inc TW_ERR_LOSS).event 0x1014 []).updTwin fun t => { t with got := false }
      let s := s.iff (s.clk == 6) fun s => s.setClk (if s.flag TIME_STATUS_VALID then 1 else 0)
      s.twinRefresh
    else s)

/-- Segment in progress of an output's session. -/
def State.segOf (s : State) (j : Nat) : Option Nat :=
  (s.leg.sessions.find? fun x => x.members.any fun m => m.out == j && !m.ended).map (·.seg)

/-- Function code of an output's latched trip, 0 without one. -/
def State.latchCode (s : State) (j : Nat) : Nat :=
  let o := s.io j
  if o.latched.contains o.trip then o.trip else o.latched.headD 0

/-- Items of an output that the holder mirrors (R422, spec/06 R156). -/
def State.mirOut (s : State) (j : Nat) : MirOut :=
  let v := s.vh j
  let r := v.row
  { sstate := s.sstate j, session := s.sess j, evccid := s.evcc j, authOk := v.authOk, join := s.joinTag j
    v := ⟨r.iTgt, r.iMax, r.idMax, r.vTgt, r.vMax, r.pMax, r.pdMax⟩
    xfer := s.xfer j, trip := s.latchCode j, weld := (s.io j).weld, weldOk := (s.io j).weldTest == 2, pair := s.pairCmd j
    pump := nth false s.sh.pump j, fan1 := nth false s.sh.fan1 j, fan2 := nth false s.sh.fan2 j, lock := v.lockCmd, seg := s.segOf j }

/-- The mirror frame of an SF (R422). -/
def State.mirrorOut (s : State) (token : Bool) : Mirror :=
  { outs := (idx s.nOuts).map s.mirOut, t2 := s.sh.t2, asg := (idx s.nLinks).map fun n => s.reg (R_MX_ASG n), mode := s.mode
    token := token, ofs := 0, valid := s.flag TIME_STATUS_VALID }

/-- The pairing record of an SF, sent in twin operation (R421). -/
def State.pairRecord (s : State) : Option (Nat × Nat × Nat × Nat) :=
  if s.flag CQ_GCFG_TWIN_EN && s.pdGood 2 then some (s.serial, s.fld CQ_GCFG_SRC_ID, s.fld SI_CHK_CHK, s.fld TW_HASH_HASH) else none

/-- The twin at an SF tick: each module sends its pairing record; the holder sends its mirror frame, and passes an announced token at the next tick; the former holder
turns its pairs off at the tick after; the standby counts missing frames and takes a token announced to it (R422 to R425). -/
def State.twinTick (s : State) : State :=
  let s := s.updTwin fun t => { t with record := s.pairRecord }
  if !s.flag CQ_GCFG_TWIN_EN then (s.updTwin fun t => { t with sent := none }).twinRefresh
  else if s.flag CQ_GCFG_TOK then
    match s.twin.passing with
    | 2 => ((s.twinRelease).updTwin fun t => { t with passing := 3, sent := none, missed := 0, got := false }).twinRefresh
    | p =>
      let m := s.mirrorOut (p == 1)
      (s.updTwin fun t => { t with sent := some m, passing := if p = 1 then 2 else 0 }).twinRefresh
  else
    let s := s.iff (s.twin.passing == 3) fun s =>
      (s.each (idx 8) fun s j => s.onPair j (·.pairOffNow ·)).updTwin fun t => { t with passing := 0 }
    let s := s.iff (!s.twin.got && s.twin.last.isSome) fun s =>
      (s.inc TW_ERR_MISS).updTwin fun t => { t with missed := t.missed + 1 }
    let s := s.updTwin fun t => { t with got := false, sent := none }
    s.iff (s.twin.passing == 2) (·.twinTake true) |>.twinRefresh

end Sys2Proof.Machine
end

