-- ==== Sys2Proof/Machine/Commit.lean ====
section
/-!
DEFINITION. The configuration: the fields that a write leaves waiting for a commit, the checks of every subject, and the
commit (spec/01 R25, spec/17 R401, R402).
-/

namespace Sys2Proof.Machine

open Sys2Proof

/-! ### Configuration fields -/

/-- Mask of a field's bits. -/
def FieldSpec.mask (f : FieldSpec) : Word := BitVec.ofNat 32 ((2 ^ (f.msb + 1 - f.lsb) - 1) * 2 ^ f.lsb)

/-- Shadow coefficients: a bank of its own, which a write reaches at once (spec/04 R91). -/
def isShadow (off : Nat) : Bool := decide (0x38000 ≤ off ∧ off < 0x40000)

/-- Bits of the LK fields of a register. -/
def lkMask (off : Nat) : Word :=
  match findReg off with
  | some (r, _) => r.fields.foldl (fun m f => if f.acc.contains .lk then m ||| f.mask else m) 0
  | none => 0

/-- A register as host software reads it back: LK fields as last written, in force or not. -/
def State.shown (s : State) (off : Nat) : Word :=
  match s.glb.edit.find? fun p => p.1 == off with
  | some p => (s.reg off &&& ~~~(lkMask off)) ||| p.2
  | none => s.reg off

/-- Leave a written value of a register's LK fields waiting for the next commit; the value in force waits for nothing
(R402). -/
def State.putEdit (s : State) (off : Nat) (w : Word) : State :=
  { s with glb := { s.glb with edit := Sparse.put (s.reg off &&& lkMask off) off (w &&& lkMask off) s.glb.edit } }

/-- The state with the waiting fields in force. -/
def State.withEdit (s : State) : State :=
  let t := s.each s.glb.edit fun s p => s.setReg p.1 ((s.reg p.1 &&& ~~~(lkMask p.1)) ||| p.2)
  { t with glb := { t.glb with edit := [] } }

/-- The configuration in force: the LK fields that differ from their reset values. -/
def State.cfgNow (s : State) : List (Nat × Word) :=
  s.regs.filterMap fun p =>
    let m := lkMask p.1
    if p.2 &&& m = regReset p.1 &&& m then none else some (p.1, p.2 &&& m)

/-- Every LK field at its reset value, and the stored copy waiting for a commit (R401). -/
def State.restoreCfg (s : State) : State :=
  let s := s.each s.cfgNow fun s p => s.setReg p.1 ((s.reg p.1 &&& ~~~(lkMask p.1)) ||| (regReset p.1 &&& lkMask p.1))
  { s with glb := { s.glb with edit := s.glb.storedCfg.getD [] } }

/-! ### Checks -/

/-- `lo` to `hi`. -/
def rng (lo hi v : Nat) : Bool := decide (lo ≤ v ∧ v ≤ hi)

/-- CF_SEL and LONG_FIBRE as they would come into force (spec/02 R29). -/
def State.cfOk (s : State) : Bool :=
  let sel := s.fld FRM_CFG_CF_SEL
  let long := s.flag FRM_CFG_LONG_FIBRE
  !((sel != s.tim.cfSel || long != s.tim.longFibre) && s.anyAligned) && !(long && sel != 2)

/-- Ranges of the time block (spec/02 Table 2.15). -/
def State.timeCfgOk (s : State) : Bool :=
  rng 10 500 (s.fld TIME_CTRL_SLEW_RATE) && rng 1 10 (s.fld TIME_CTRL_STEP_LIMIT) && s.fld TIME_CTRL_BAUD != 3

/-- PS channel named by a configuration field: a channel, or 0x1F for none (spec/05 Table 5.18). -/
def chanOk (n : Nat) : Bool := decide (n < 24) || n == 0x1F

/-- The roles of OUT_PTj name each role once (spec/05 R109). -/
def State.rolesOk (s : State) (j : Nat) : Bool :=
  let r := s.fld (OUT_PT_ROLE j)
  (idx 4).all fun k => (idx 4).any fun i => r / 4 ^ i % 4 == k

/-- Checks of an enabled output (spec/05 R109, Tables 5.14 to 5.18). -/
def State.outCfgOk (s : State) (j : Nat) : Bool :=
  decide (s.fld (OUT_CFG_VMAX j) ≤ 1250) && decide (s.fld (OUT_IRAT_I_COOLED j) ≤ 3000)
    && decide (s.fld (OUT_IRAT_I_UNCOOLED j) ≤ s.fld (OUT_IRAT_I_COOLED j)) && s.rolesOk j
    && decide (s.fld (OUT_DER_T_ZERO j) + 5 ≤ s.fld (SP_OUT_2_T_TRIP j)) && rng 1 3000 (s.fld (OUT_RAMP_RATE j))
    && chanOk (s.fld (OUT_COOL_PUMP j)) && chanOk (s.fld (OUT_COOL_FAN1 j)) && chanOk (s.fld (OUT_COOL_FAN2 j))

/-- Members of bundle `b` as configured, by output. -/
def State.bndCfg (s : State) (b : Nat) : List Nat := (idx 8).filter fun j => bit (s.fld (BND_CFG_MEMBERS b)) j

/-- Checks of a configured bundle (spec/05 R113). -/
def State.bndCfgOk (s : State) (b : Nat) : Bool :=
  let m := s.bndCfg b
  m.isEmpty || (rng 2 4 m.length
    && m.all (fun j => s.outCe j == s.outCe (m.headD 0) && s.fld (OUT_CFG_TYPE j) == s.fld (OUT_CFG_TYPE (m.headD 0)))
    && m.all fun j => ((idx 4).filter fun c => (s.bndCfg c).contains j).length == 1)

/-- Link `n` is enabled. -/
def State.linkEn (s : State) (n : Nat) : Bool := s.linkBit R_CQ_EN_LO R_CQ_EN_HI n

/-- A wired contactor leads to an output of the link's own CE; an enabled link has one (spec/05 R123). -/
def State.wireOk (s : State) (n : Nat) : Bool :=
  ((idx s.nOuts).all fun j => !s.wired n j || s.outCe j == s.linkCe n) && (!s.linkEn n || s.fld (MX_WIRE_WIRED n) != 0)

/-- Outputs, bundles, sharing and matrix (spec/05 R109, R113, R123, R447, Tables 5.5 to 5.9). -/
def State.shCfgOk (s : State) : Bool :=
  rng 1 255 (s.fld SH_ASSIGN_RELEASE) && rng 0 50 (s.fld SH_ASSIGN_MARGIN) && rng 1 8 (s.fld SH_ASSIGN_MAXMOVE)
    && ((idx 2).all fun f => rng 800 1000 (s.fld (FEED_CFG_ETA f)) && rng 10 100 (s.fld (FEED_HCTL_FLOOR f))
      && rng 1 20 (s.fld (FEED_HCTL_STEP f)))
    && ((idx s.nOuts).all fun j => !s.flag (OUT_CFG_EN j) || s.outCfgOk j)
    && ((idx 4).all s.bndCfgOk) && ((idx s.nLinks).all s.wireOk)
    && (idx 2).all fun c =>
      decide (((idx s.nOuts).filter fun j => s.flag (OUT_CFG_EN j) && s.outCe j == c).length ≤ 4)
        && decide (((idx s.nLinks).filter fun n => s.linkEn n && s.linkCe n == c).length ≤ 24)

/-- Vehicle dialogue: ranges, and for an enabled output its lock and its protocols (spec/06 R141, Tables 6.12 to 6.15). -/
def State.vehCfgOk (s : State) : Bool :=
  rng 5 120 (s.fld VD_GCFG_JOIN_WIN) && s.fld VD_GCFG_PPRIO != 3
    && rng 20 60 (s.fld VD_TMO0_SLAC_TMO) && rng 10 100 (s.fld VD_TMO0_CERT_TMO) && rng 50 4000 (s.fld VD_TMO0_AUTH_TMO)
    && rng 5 60 (s.fld VD_TMO1_CC_TMO) && rng 2 30 (s.fld VD_TMO1_PC_TMO) && rng 5 100 (s.fld VD_TMO1_STOP_TMO)
    && rng 4 100 (s.fld VD_TMO1_LOOP_TMO)
    && (idx s.nOuts).all fun j => !s.flag (OUT_CFG_EN j) || (decide (s.fld (VD_CFG_LOCK j) < 24)
      && !(s.fld (OUT_CFG_TYPE j) == 1 && (s.flag (VD_CFG_DIN j) || s.flag (VD_CFG_ISO2 j)))
      && (s.flag (VD_CFG_DIN j) || s.flag (VD_CFG_ISO2 j) || s.flag (VD_CFG_ISO20 j)))

/-- Rotation interval, tokens, readers, tag, Mallas link and trial length (Tables 7.8, 8.20, 12.8, 13.5, 15.13). -/
def State.rangesOk (s : State) : Bool :=
  rng 60 3600 (s.fld MET_GCFG_ROT_INT) && rng 1 255 (s.fld TOK_CFG_VALID_DAYS) && rng 1 15 (s.fld TOK_CFG_LOCK_N)
    && rng 1 15 (s.fld TOK_CFG_LOCK_T) && rng 5 120 (s.fld NR_GCFG_CARD_HOLD) && rng 10 200 (s.fld NR_GCFG_POLL_T)
    && rng 1 20 (s.fld NR_GCFG_GUARD) && rng 1 255 (s.fld NT_CFG_SNAP_T) && rng 10 255 (s.fld ML_GCFG_DISC_T)
    && rng 2 100 (s.fld ML_GCFG_POLL_CYC) && rng 60 3600 (s.fld UPD_CFG_CONF_T)

/-- Rings allowed of a type (spec/14 Table 14.3). -/
def ringsAllowed : Nat → Nat
  | 0 => 64 | 6 => 1 | t => if t ≤ 7 then 2 else 0

/-- Ring types, instances, windows, and of a ring that has a type its size and its completions per message (spec/14 R330, R337, R353). -/
def State.ringCfgOk (s : State) : Bool :=
  let all := idx 64
  all.all (fun n => rng 1 256 (s.fld (RING_CFG_WIN n)) && decide (s.fld (RING_CFG_TYPE n) ≤ 7)
      && (!([2, 4, 5].contains (s.fld (RING_CFG_TYPE n))) || decide (s.fld (RING_CFG_INST n) ≤ 1))
      && (s.fld (RING_CFG_TYPE n) == 0 || (rng 4 12 (s.fld (RING_SIZE_LOG2 n)) && rng 1 255 (s.fld (RING_COAL_COAL_N n)))))
    && ((idx 16).all fun t => decide ((all.filter fun n => s.fld (RING_CFG_TYPE n) == t).length ≤ ringsAllowed t))
    && ([2, 4, 5].all fun t => ((all.filter fun n => s.fld (RING_CFG_TYPE n) == t).map fun n => s.fld (RING_CFG_INST n)).Nodup)
    && decide ((all.filter fun n => s.fld (RING_STAT_STATE n) != 0).foldl (fun a n => a + s.fld (RING_CFG_WIN n)) 0 ≤ 4096)

/-- The configuration names an instance that is not fitted (spec/00 R2). -/
def State.namesUnfitted (s : State) : Bool :=
  let outs (m : Nat) : Bool := decide (2 ^ s.nOuts ≤ m)
  s.fld GLB_HWREV_VARIANT == 2
    && (((idx 48).any fun n => decide (s.nLinks ≤ n) && s.linkEn n)
      || ((idx 4).any fun b => outs (s.fld (BND_CFG_MEMBERS b))) || ((idx s.nLinks).any fun n => outs (s.fld (MX_WIRE_WIRED n)))
      || ((idx 4).any fun n => outs (s.fld (NR_CFG_OUTS n))) || outs (s.fld KP_CFG_PNL0_OUTS)
      || (idx 8).any fun j => decide (s.nOuts ≤ j) && s.flag (OUT_CFG_EN j))

/-- Every subject's checks but those of the laws. -/
def State.cfgOk (s : State) : Bool :=
  s.cfOk && s.timeCfgOk && s.ceCfgOk && s.shCfgOk && s.vehCfgOk && s.rangesOk && s.psCfgOk && s.pnlCfgOk && s.ringCfgOk
    && s.memCfgOk && s.flag TW_CFG_EN == s.flag CQ_GCFG_TWIN_EN

/-! ### The commit -/

/-- TW_HASH over a configuration, leaving out SRC_ID and GNSS_DLY (spec/17 R421; the form is the model's choice, log entry
24). -/
def cfgHash (c : List (Nat × Word)) : Nat :=
  crc32c (c.flatMap fun p =>
    if p.1 = R_GNSS_DLY then []
    else toLE 4 p.1 ++ toLE 4 (if p.1 = R_CQ_GCFG then (putBits p.2 1 1 0).toNat else p.2.toNat))

/-- The fields waiting come into force: the CF (its index is that of the new CF which the instant falls in), the lanes and laws of the CEs, the links, the switch channels, PTP, the twin,
the tag; the copy is stored where PD2 is powered (R25, R13, R29, R401 and the chapters' own rules). -/
def State.commitApply (s : State) : State :=
  let sel := s.fld FRM_CFG_CF_SEL
  let long := s.flag FRM_CFG_LONG_FIBRE
  let s := s.updTim fun t => { t with cfIndex := s.inSf / cfNs sel, sub := s.inSf % cfNs sel, cfSel := sel, longFibre := long }
  let s := (s.setFld FRM_STATUS_CF_PER_SF (cfPerSf sel)).setFld FRM_STATUS_WINDOW (winEnd sel long - winStart sel long)
  let s := s.each (idx 2) (·.ceCommitApply)
  let s := s.each (idx s.nLinks) (·.linkPower)
  let s := (s.psCommit).ptpForce
  let s := s.each (idx s.nOuts) fun s j => s.iff (s.sstate j == 13) (·.park j)
  let c := s.cfgNow
  let s : State := if s.pdGood 2 then { s with glb := { s.glb with storedCfg := some c } } else s
  let s := (s.setFld TW_HASH_HASH (cfgHash c)).setFlag GLB_CFG_COMMIT_COMMITTED true
  let s := ((s.ptpRefresh).tagIdentity).tagKey
  (s.event 0x0002 []).twinRefresh

/-- Commit the waiting fields: every check passes, or nothing changes and E:0x0003 is raised, with E:0x00F4 for an instance
that is not fitted and E:0x0302 for a law (R25, spec/04 R87). -/
def State.commit (s : State) : State :=
  let t := s.withEdit
  let sel := t.fld FRM_CFG_CF_SEL
  let long := t.flag FRM_CFG_LONG_FIBRE
  let p := s.lawCheck 0 sel long
  let s := p.1
  let law0 := p.2
  let p := s.lawCheck 1 sel long
  let s := p.1
  let law1 := p.2
  if t.namesUnfitted then (s.event 0x0003 []).event 0x00F4 []
  else if t.cfgOk && law0 && law1 then s.withEdit.commitApply
  else s.event 0x0003 []

/-- COMMIT: a host's request, accepted in COMMISSION, STANDBY and BENCH (R25). -/
def State.hostCommit (s : State) : State :=
  if s.mode = 1 ∨ s.mode = 2 ∨ s.mode = 7 then s.commit else s.event 0x0003 []

def execCommit (s : State) : Host.Outcome State Fault Refusal := s.live (s.hostCommit)

end Sys2Proof.Machine
end

