-- ==== Sys2Proof/Machine/Start.lean ====
section
/-!
DEFINITION. A start: the root key, the choice of a bank, the release of the parts in order, the restored journal and
configuration, and the mode that BOOT ends in (spec/01 R22, spec/15 R368, spec/17 R399, R401); the end of an activation
pause, which loads the same parts (spec/15 R375).
-/

namespace Sys2Proof.Machine

open Sys2Proof

/-! ### The bank (spec/15 R368) -/

/-- A bank passes the checks of R368: `good` is what reading its flash gives; its FVK is in force and its SVN is not below
ARB. -/
def State.bankBoots (s : State) (good : Bool) (b : Nat) : Bool :=
  good && !bit (s.fld KB_BOOT_REVOKED) (s.bank b).hdr.fvk && decide (s.fld KB_CNT_ARB ≤ s.fld (KB_BANK_STAT_SVN b))

/-- A trial bank that fails its verification is in trial no more (Table 15.9). -/
def State.endTrial (s : State) (b : Nat) : State :=
  s.iff (s.flag KB_BOOT_TRIAL && s.fld KB_BOOT_ACTIVE == b) fun s => (s.setFlag KB_BOOT_TRIAL false).stopTimer .trial

/-- One pass of the boot loop over bank `b`: it boots; an EMPTY or FAILED one is passed over; one that fails is INVALID. -/
def State.tryBank (s : State) (ok : List Bool) (b : Nat) : State × Bool :=
  let st := s.fld (KB_BANK_STAT_STATE b)
  if st = 0 ∨ st = 5 then (s, false)
  else if s.bankBoots (nth false ok b) b then (s, true)
  else ((s.setFld (KB_BANK_STAT_STATE b) 6).endTrial b, false)

/-- The active bank, then the other one: E:0x0E02. -/
def State.chooseBank (s : State) (ok : List Bool) : State × Option Nat :=
  let a := s.fld KB_BOOT_ACTIVE
  let p := s.tryBank ok a
  let s := p.1
  let hit := p.2
  if hit then (s, some a)
  else
    let p := s.tryBank ok (1 - a)
    let s := p.1
    let hit := p.2
    if hit then ((s.setFld KB_BOOT_ACTIVE (1 - a)).event 0x0E02 [1 - a], some (1 - a)) else (s, none)

/-- The bank whose regions load: a check-value unit that finds a mismatch raises E:0x0F0B, the bank fails as by its hash, and the pass
over the other one follows (R368, spec/16 R395). -/
def State.chooseLoaded (s : State) (ok : List Bool) (loadBad : List Nat) : State × Option Nat :=
  let a := s.fld KB_BOOT_ACTIVE
  let p := s.chooseBank ok
  match p.2, loadBad with
  | some b, _ :: _ =>
    let s := ((p.1.each loadBad (·.cvuLoad · false)).setFld (KB_BANK_STAT_STATE b) 6).endTrial b
    let q := s.tryBank ok (1 - b)
    if b = a && q.2 then ((q.1.setFld KB_BOOT_ACTIVE (1 - b)).event 0x0E02 [1 - b], some (1 - b))
    else if b = a then (q.1, none) else (s, none)
  | r, _ => (p.1, r)

/-- The boot record of the bank that boots: a STAGED one starts in TRIAL, unless a fallback named it; an INVALID one that
verifies is ACTIVE (Table 15.9, log entry 17). PEND clears, and the firmware registers follow. -/
def State.takeBank (s : State) (b : Nat) (fell : Bool) : State :=
  let h := (s.bank b).hdr
  let st := s.fld (KB_BANK_STAT_STATE b)
  let s := if st = 2 ∧ !fell then
      ((s.setFld (KB_BANK_STAT_STATE b) 4).setFlag KB_BOOT_TRIAL true).startTimer .trial
    else s.iff (st == 2 || st == 6) (·.setFld (KB_BANK_STAT_STATE b) 3)
  let s := (s.setFlag KB_BOOT_PEND false).setFld KB_BOOT_FVK h.fvk
  (s.setReg R_GLB_FW_UPD (BitVec.ofNat 32 h.version)).setReg R_GLB_FW_LEGAL (BitVec.ofNat 32 h.legalVer)

/-- Calibration set of a channel, as the legal check value covers it (spec/08 R190, spec/07 Table 7.14). -/
def State.calSet (s : State) (b : Nat) : List Byte :=
  if b < 8 then
    let m := s.mo b
    Config.calBytes b [s.fld (MET_OCFG_SENSOR b), s.fld (MET_OCFG_ABS b), s.fld (MET_OCFG_LEGACY b), s.fld (MET_OCFG_RCAB b),
      s.fld (MET_RSH_RCAL b), m.alpha, m.beta, m.tCal, m.nlOn, m.nlOff]
  else
    let f := b - 8
    Config.calBytes b [s.fld (MET_FCFG_VT_RATIO f), s.fld (MET_FCT_CT_RATIO f), s.fld (MET_FCFG_IN5 f), s.fld (MET_FCFG_F60 f),
      s.fld (MET_FCFG_NCT f)]

/-- Legal check value: the first 32 bits of SHAKE256 over the legal section and the calibration set (spec/08 R190). -/
def State.legalCheck (s : State) (b : Nat) : State :=
  s.setFld LEG_CHK_CHK (leAt (Config.shake256 ((s.bank b).region 2 ++ (idx 10).flatMap s.calSet) 4) 0 4)

/-! ### What the released parts do first -/

/-- Registers whose RW and W1C fields a start returns to their reset values, their domain having been off: those of the
subjects outside PD0, the Island's mirror and the key core, but for the set-up of the rings, which the journal restores; of
PD0's subjects only where PD0 lost its supply (log entry 24). -/
def startClears (lost : Bool) (off : Nat) : Bool :=
  let s := off / 0x10000
  if s = 0x00 ∨ s = 0x01 ∨ s = 0x10 then lost
  else s != 0x08 && s != 0x0E && !(decide (0xD0100 ≤ off ∧ off < 0xD1100) && decide (off % 0x40 < 0x20))

/-- A register's word with its RW and W1C fields, LK fields apart, at their reset values. -/
def wordStart (off : Nat) (w : Word) : Word :=
  match findReg off with
  | some (r, _) => r.fields.foldl (fun w f =>
      if (f.acc.contains .rw || f.acc.contains .w1c || f.acc.contains .wo) && !f.acc.contains .lk
      then (w &&& ~~~f.mask) ||| (regReset off &&& f.mask) else w) w
  | none => w

/-- The registers at a start. -/
def State.regStart (s : State) (lost : Bool) : State :=
  s.each (s.regs.filter fun p => startClears lost p.1) fun s p => s.setReg p.1 (wordStart p.1 p.2)

/-- A core is released. -/
def State.runCore (s : State) (i : Nat) : State := s.setFld (coreFld i) 1

/-- Change what no register holds of the global part. -/
def State.updGlb (s : State) (f : GlbSt → GlbSt) : State := { s with glb := f s.glb }

/-- The Island is released: it begins again with its latched trips and weld lockouts, which a start does not clear, with T_REM
and with a set in force (R254; log entry 12). -/
def State.islStart (s : State) : State :=
  let s := s.updIsl fun i =>
    { i with
      istate := 0, cause := 0, degc := 0, faults := [], safe := false, afterStop := 0, resetting := false, degIds := []
      cand := [], candChk := 0, candStage := 0, confBy := none
      sins := i.sins.map fun (x : SinSt) => { x with fault := false, both := false, cleared := false, disFrom := none, told := false }
      outs := i.outs.map fun (o : IslOut) =>
        { IslOut.rest with trip := if o.latched.isEmpty then 0 else o.trip, latched := o.latched, weld := o.weld } }
  (s.setIstate (if s.isl.conf then 2 else 1)).setThresholds

/-- The control engines and VCs begin without lanes, moves or sessions until a commit assigns them. Every output is
UNAVAILABLE in BOOT (spec/06 R146); the VCs have no slot in the SF that runs, so none of their publications is missed in it
(log entry 42). -/
def State.engStart (s : State) : State :=
  let s := s.each (idx 2) fun s c => s.updCe c fun e =>
    { CeSt.reset with image := e.image, refusedFor := e.refusedFor, cups := e.cups.map fun _ => CupBuf.off }
  let s := s.each (idx 2) fun s c => s.each (idx 8) fun s b => s.setFld (CUP_STAT_STATE c b) 0
  let s := s.each (idx 48) fun s n => s.setReg (R_MX_ASG n) (regReset (R_MX_ASG n))
  let s := s.each (idx s.nOuts) fun s j =>
    let st := s.sstate j
    let s := (s.updVh j fun v => { Veh.idle with lockCmd := v.lockCmd }).park j
    s.setSState j 13 (if st = 0 ∨ 11 ≤ st then 0 else 14)
  { s with sh := { ShareSt.reset with t2Mark := true, feedTold := s.sh.feedTold, siteTold := s.sh.siteTold } }

/-- The GC loads the roast tables of the bank, has no token entry open, redraws every page in CLEAR, reads the tag and starts the Mallas
link (spec/11 R282, R288, R295, spec/12 R308, spec/13 R324). -/
def State.gcStart (s : State) (b : Nat) : State :=
  let s := s.each (idx 2) fun s p => s.loadRoast p ((s.bank b).region (8 + p))
  let s := (s.updPnl fun x => { x with stars := [], fifo := [], msg := (0, 0) }).endEntry 0
  let s := s.updPnl fun x => { x with strip := none, page := none, chk := none, rest := none, again := [], lines := x.lines.map fun (l : LegalLine) => { l with monos := 49 } }
  let s := ((s.tagGcRead).mlStart).setFld ML_STAT_STATE (b2n (s.flag ML_GCFG_EN))
  s.each (idx 24) fun s n => s.updPc n fun c => { c with fs := s.fld (PS_CFG_FS n) }

/-- The stored configuration is re-applied and committed, and BOOT ends (R401, Table 17.1). -/
def State.endBoot (s : State) : State :=
  let s := s.restoreCfg
  let s := if s.glb.storedCfg.isSome then s.commit else s.event 0x0003 []
  match s.lifecycle with
  | 1 => s.setMode (if s.flag GLB_CFG_COMMIT_COMMITTED && s.isl.istate == 2 then 2 else 1)
  | 2 => s.enterBench
  | _ => s.setMode 1

/-- The releases of R22 from bank `b`, once the SC has reported: MC, GC, VCs and CEs, PD5 and PD4 immediately before
theirs. When a front end that reported not ready is ready again is left open by R23; it is at a start (DESIGN CHOICE, log entry
47). -/
def State.releaseAll (s : State) (inp : StartIn) (b : Nat) : State :=
  let s := ((s.runCore 2).legStart).updSys fun x => { x with cut := false }
  let s := (s.runCore 7).gcStart b
  let s := ((s.pdSet 0x26F).runCore 3).runCore 4
  let s := s.pdSet 0x27F
  let s := s.engStart
  let s := s.each (idx 2) fun s c => (s.runCore (5 + c)).lawLoad c (nth none inp.laws c)
  let s := (s.setFld SH_STATUS_ACTIVE 0).updGlb fun g => { g with vc0Missed := 0, feNotReady := [] }
  let s := s.each (idx 8) (·.cvuLoad · true)
  let s := s.updSys fun x => { x with capDue := true, storeDue := true }
  (s.event 0x0E01 [b, (s.bank b).hdr.version]).endBoot

/-- The KC's part of a start, once the root key is derived: a failed trial, the bank, and the releases (R368, R370). A
RETIRED module loads only the KC and the MC and stays in BOOT (R364); so does a module without a valid bank, which serves
its COMMAND rings, and one whose SC does not report: 200 ms run from the Island's release (R22). -/
def State.kcStart (s : State) (cause : Nat) (inp : StartIn) : State :=
  let s := (s.runCore 1).memStart inp.tilesBad
  let fail := s.flag KB_BOOT_TRIAL && (cause == 2 || cause == 3 || cause == 4)
  let s := s.iff fail fun s => (s.markFailed).setFld KB_BOOT_RCAUSE 8
  let fell := fail || cause == 8
  let p := s.chooseLoaded inp.bankOk inp.loadBad
  let s := p.1
  let b := p.2
  let s := s.journalStart inp.torn inp.unread
  match b with
  | none => ((s.updKeys fun k => { k with noBank := true }).tagStart).event 0x0E04 [s.fld KB_BOOT_ACTIVE]
  | some b =>
    let s := ((s.takeBank b fell).legalCheck b).tagStart
    if s.lifecycle = 3 then
      let s := (s.cvuLoad 0 true).cvuLoad 1 true
      (((s.runCore 2).legStart).updSys fun x => { x with cut := false }).event 0x0E01 [b, (s.bank b).hdr.version]
    else
      let s := ((s.pdSet 0x24F).runCore 0).updGlb fun g => { g with islReleased := true, scReported := inp.scOk }
      let s := s.iff (!inp.scOk) (·.startTimer .scStart)
      if inp.scOk then (s.islStart).releaseAll inp b else s

/-- A start: the legal clock resumes, PD2, PD3, PD6 and PD9 come on, and the KC's boot code derives the root key; without it
no core is released, PD1 stays off, and E:0x0E04 is raised (R22, spec/15 R355, spec/02 R36). -/
def State.makeStart (s : State) (cause : Nat) (inp : StartIn) : State :=
  let lost := cause == 0 || cause == 1 || (cause == 6 && s.sys.frozenLoss)
  let s := (((s.regStart lost).iff lost (·.setReg R_GLB_ISO_VIOL 0)).startClock lost inp.rtcNs).updSys fun x => { x with frozenLoss := false }
  let s := (s.updKeys fun k => { k with begun := none, noBank := false, noRoot := inp.puf.isNone, root := [] }).updGlb fun g =>
    { g with islReleased := false, scReported := false }
  let s := s.pdSet 0x24D
  match inp.puf with
  | some p => (s.updKeys fun k => { k with root := s.deriveRoot p }).kcStart cause inp
  | none => s.event 0x0E04 [s.fld KB_BOOT_ACTIVE]

/-- MODULE_START: completes the start that has begun, or makes one with the cause given. -/
def execModuleStart (inp : StartIn) (s : State) : Host.Outcome State Fault Refusal :=
  .next (
    if !s.pdOn 0 then s
    else match s.keys.begun with
      | some c => s.makeStart c inp
      | none => (s.beginStart inp.cause).makeStart inp.cause inp)

/-- SC_STARTUP_TIMEOUT: the SC has not reported within 200 ms: E:0x0009, and the module stays in BOOT with every pair open
(R22). In a trial the start that follows is one with a failure cause (spec/15 R370). -/
def execScStartupTimeout (s : State) : Host.Outcome State Fault Refusal :=
  s.live (
    if s.mode = 0 ∧ s.glb.islReleased ∧ !s.glb.scReported ∧ s.coreRuns 0 ∧ s.due .scStart (200 * ms) then
      (((s.stopTimer .scStart).setFld (coreFld 0) 2).event 0x0009 [0]).iff (s.flag KB_BOOT_TRIAL) (·.beginStart 4)
    else s)

/-! ### The end of an activation pause (spec/15 R375, R376) -/

/-- ACTIVATION_PAUSE_END: the laws of the new images by CE; every reloaded core runs, the roast
tables and the check-value units are loaded, the boot record names the new bank in
TRIAL, and ACTIVATE completes OK. A region hash, a law or a unit's load that fails, or 180 ms, fails the pause (R375, R376, spec/16
R395). -/
def execActivationPauseEnd (laws : List (Option LawImage)) (loadBad : List Nat) (s : State) : Host.Outcome State Fault Refusal :=
  s.live (
    match s.keys.pause with
    | none => s
    | some (n, num) =>
      if pauseCores.any fun i => s.fld (coreFld i) != 0 then s
      else
        let b := s.other
        let x := s.bank b
        if s.due .pause (180 * ms) || !x.regionsOk [0, 4, 5, 6, 7, 8, 9] then s.pauseFail
        else if !loadBad.isEmpty then (s.each (loadBad.filter pauseUnits.contains) (·.cvuLoad · false)).pauseFail
        else
          let s := s.each (idx 2) fun s c => s.lawLoad c (nth none laws c)
          if (idx 2).any fun c => (s.ce c).refusedFor != 0 then s.pauseFail
          else
            let s := (s.each [7, 3, 4, 5, 6] (·.runCore ·)).updSh fun h => { h with t2Mark := true }
            let s := (s.loadRoast 0 (x.region 8)).loadRoast 1 (x.region 9)
            let s := ((s.setFld KB_BOOT_ACTIVE b).setFlag KB_BOOT_TRIAL true).setFlag KB_BOOT_PEND true
            let s := ((s.setFld (KB_BANK_STAT_STATE b) 4).setFld KB_BOOT_FVK x.hdr.fvk).setReg R_GLB_FW_UPD (BitVec.ofNat 32 x.hdr.version)
            let s := (((s.setFlag GLB_MODE_ACT_PAUSE false).stopTimer .pause).startTimer .trial).updKeys fun k => { k with pause := none }
            let s := ((s.ringsUnhold).event 0x0E0B [b]).updStatus
            let s := s.each pauseUnits (·.cvuLoad · true)
            s.complete n num 0 0)

end Sys2Proof.Machine
end

