-- ==== Sys2Proof/Machine/Access.lean ====
section
/-!
DEFINITION. Host access to the registers of BAR0: reads with their latches and derived values, writes field by field under the
access codes, and the effects of the registers that act (spec/00 R2, R4 to R7, spec/02 R49, spec/14 R328, R329).
-/

namespace Sys2Proof.Machine

open Sys2Proof

/-! ### Reading -/

/-- A register of an instance that is not fitted (spec/00 R2). -/
def State.unfitted (s : State) (r : RegSpec) (is : List Nat) : Bool :=
  match r.inst, is with
  | .link, n :: _ => decide (s.nLinks ≤ n)
  | .out, j :: _ => decide (s.nOuts ≤ j)
  | _, _ => false

/-- A 64-bit value of now, low and high word. -/
def loW (v : Nat) : Word := BitVec.ofNat 32 v
def hiW (v : Nat) : Word := BitVec.ofNat 32 (v / 2 ^ 32)

/-- An access falls somewhere between the last tick and the next: how far the 1 GHz clock has come is a free value that never goes
back and never reaches the next tick (spec/02 R33, log entry 35). -/
def State.elapse (s : State) : State :=
  let p := s.draw
  let r := p.1
  let s := p.2
  let left := s.tickNs - s.tim.sub
  s.iff (decide (0 < left)) fun s => s.updTim fun t => { t with sub := t.sub + r % left }

/-- Reading a LO register latches its HI register, and the next read of HI takes what is latched (spec/02 R49, spec/08
R220). -/
def State.readPair (s : State) (off : Nat) : Option (Word × State) :=
  let t := s.tim
  if off = R_TIME_NS_LO then
    let s := s.elapse
    some (loW s.now, s.updTim fun t => { t with nsHi := some (s.now / 2 ^ 32) })
  else if off = R_FRM_SF_LO then some (loW t.sfCount, s.updTim fun t => { t with sfHi := some (t.sfCount / 2 ^ 32) })
  else if off = R_LEG_HWM_LO then some (s.reg off, s.updTim fun t => { t with hwmHi := some (s.reg R_LEG_HWM_HI).toNat })
  else if off = R_LEG_MAXT_LO then some (s.reg off, s.updTim fun t => { t with maxtHi := some (s.reg R_LEG_MAXT_HI).toNat })
  else if off = R_TIME_NS_HI then some (loW (t.nsHi.getD (s.now / 2 ^ 32)), s.updTim fun t => { t with nsHi := none })
  else if off = R_FRM_SF_HI then some (loW (t.sfHi.getD (t.sfCount / 2 ^ 32)), s.updTim fun t => { t with sfHi := none })
  else if off = R_LEG_HWM_HI then some (loW (t.hwmHi.getD (s.reg off).toNat), s.updTim fun t => { t with hwmHi := none })
  else if off = R_LEG_MAXT_HI then some (loW (t.maxtHi.getD (s.reg off).toNat), s.updTim fun t => { t with maxtHi := none })
  else none

/-- Attributes, identifier and version of the slot that KEY_SEL names (spec/15 Table 15.13). -/
def State.readKey (s : State) (off : Nat) : Word :=
  let k := s.fld KEY_SEL_SLOT
  let x := s.slot k
  let c := x.now
  if off = R_KEY_ATTR then
    putBits (putBits (putBits (putBits (putBits 0 31 16 c.mask) 5 5 (b2n (!x.chain.isEmpty))) 4 4 (b2n c.imported)) 3 3 (b2n c.pub)) 2 0 c.alg
  else if off = R_KEY_ID then loW (keyId k c) else loW c.ver

/-- A word of the page that CAP_PAGE names; 0 in FROZEN and in hold-up (spec/17 R419). -/
def State.readCap (s : State) (off : Nat) : Word :=
  if s.mode = 6 ∨ s.sys.shed.isSome then 0
  else
    let a := s.fld CAP_PAGE_SLOT * 2 ^ 25 + s.fld CAP_PAGE_PAGE * 4096 + (off - R_CAP_WIN)
    loW (leNat ((idx 4).map fun i => s.capByte (a + i)))

/-- What a read of a register answers. -/
def State.readReg (s : State) (off : Nat) : Word × State :=
  match findReg off with
  | none => (0, s)
  | some (r, is) =>
    if s.unfitted r is then (0, s)
    else match s.readPair off with
      | some x => x
      | none =>
        if off = R_KEY_ATTR ∨ off = R_KEY_ID ∨ off = R_KEY_VER then (s.readKey off, s)
        else if R_CAP_WIN ≤ off then (s.readCap off, s)
        else if off = R_HR_WINSUM then
          (loW (((idx 64).filter fun n => s.rstate n != 0).foldl (fun a n => a + s.fld (RING_CFG_WIN n)) 0), s)
        else if off = R_MET_FHSEL 0 ∨ off = R_MET_FHSEL 1 then
          (if getBits (s.shown off) 5 0 = 0 then putBits (s.shown off) 5 0 1 else s.shown off, s)
        else if 0xC0110 ≤ off ∧ off < 0xC04F0 ∧ off % 0x10 = 0xC then
          (putBits (s.reg off) 31 8 (s.mlAgeOf ((off - 0xC0100) / 0x10)), s)
        else (s.shown off, s)

/-- Domain of a subject block's registers: that of the part whose registers they are (spec/01 Table 1.2; DEDUCED, log entry 48).
A panel's and a reader's have a state for PD8 off, so PD9's GC answers for them; the Mallas link's have one for PD9 off, so they are read
without PD9 (spec/13 Table 13.5). -/
def regDomain (off : Nat) : Nat :=
  match off / 0x10000 with
  | 0x02 | 0x03 => 4
  | 0x04 | 0x05 => 5
  | 0x06 | 0x07 => 3
  | 0x08 => 1
  | 0x09 | 0x0A | 0x0B | 0x0F => 9
  | 0x0D => 6
  | 0x0E => 2
  | _ => 0

/-- A read into a domain that counts as off answers 0, with E:0x0005 once per off period (spec/01 R23). -/
def State.readOff (s : State) (pd : Nat) : State :=
  let s : State := { s with hostRead := 0 }
  if s.glb.offRead.contains pd then s
  else (s.updGlb fun g => { g with offRead := pd :: g.offRead }).event 0x0005 [pd]

/-! ### BAR2 and the configuration space (spec/14 R327, R328) -/

/-- Where BAR2 and the function's configuration space stand among the offsets of REGISTER_READ and REGISTER_WRITE, above BAR0's 2 MiB
(DESIGN CHOICE, log entry 80). -/
def bar2Base : Nat := 0x200000
def cfgBase : Nat := 0x400000

/-- A word of BAR2: doorbells read 0, then the MSI-X table and its pending bit array (Table 14.2). -/
def State.bar2Word (s : State) (o : Nat) : Nat :=
  if 0x10000 ≤ o ∧ o < 0x10400 then
    let v := (o - 0x10000) / 16
    let e := nth (0, 0) s.host.msix v
    match o / 4 % 4 with
    | 0 => e.1 % 2 ^ 32
    | 1 => e.1 / 2 ^ 32
    | 2 => e.2
    | _ => b2n (nth false s.host.mask v)
  else if o = 0x18000 ∨ o = 0x18004 then
    let k := (o - 0x18000) * 8
    ((idx 32).filter fun i => nth false s.host.pend (k + i)).foldl (fun a i => a + 2 ^ i) 0
  else 0

/-- Word `k` of an MSI-X entry takes a value: the low and high address words, then the data. -/
def msixPut (k v : Nat) (e : Nat × Nat) : Nat × Nat :=
  match k with
  | 0 => (e.1 / 2 ^ 32 * 2 ^ 32 + v, e.2)
  | 1 => (v * 2 ^ 32 + e.1 % 2 ^ 32, e.2)
  | _ => (e.1, v)

/-- A write of an MSI-X entry: message address, data, and its mask bit, whose clearing sends a pending message (R341). The doorbells have
commands of their own. -/
def State.bar2Write (s : State) (o : Nat) (w : Word) : State :=
  if 0x10000 ≤ o ∧ o < 0x10400 then
    let v := (o - 0x10000) / 16
    if o / 4 % 4 < 3 then s.updHost fun h => { h with msix := upd h.msix v (msixPut (o / 4 % 4) w.toNat) }
    else if w.getLsbD 0 then s.updHost fun h => { h with mask := h.mask.set v true }
    else s.unmask v
  else s

/-- A word of the configuration space, as far as Table 14.1 gives it: vendor and device ID, revision and class code, 256 B of payload with
function level reset, the read request size, 64 MSI-X vectors, AER; the places are PCI's, those of the capabilities the model's (PRESUMED,
log entry 80). -/
def State.cfgWord (s : State) (o : Nat) : Option Nat :=
  ([(0x00, 0x96487B51), (0x08, 0xFF0000 * 2 ^ 8 + s.fld GLB_HWREV_REV), (0x74, 2 ^ 28 + 1), (0x78, s.host.mrrs * 2 ^ 12),
    (0xB0, 63 * 2 ^ 16 + 0x11), (0x100, 0x00010001)].find? fun x => x.1 == o).map (·.2)

/-- A word goes to the host. -/
def State.answer (s : State) (v : Nat) : State := { s with hostRead := loW v }

/-- A read of the configuration space; a word that Table 14.1 does not give is free. -/
def State.cfgRead (s : State) (o : Nat) : State :=
  match s.cfgWord o with
  | some v => s.answer v
  | none =>
    let p := s.draw
    p.2.answer p.1

/-- What a read outside BAR0 answers. Without a link none reaches the module. -/
def State.readFn (s : State) (off : Nat) : State :=
  if !s.host.linkUp then s
  else if off < cfgBase then s.answer (s.bar2Word (off - bar2Base))
  else s.cfgRead (off - cfgBase)

/-- A write outside BAR0: the MSI-X table, or the read request size up to 512 B. -/
def State.writeFn (s : State) (off : Nat) (w : Word) : State :=
  if !s.host.linkUp then s
  else if off < cfgBase then s.bar2Write (off - bar2Base) w
  else s.iff (off == cfgBase + 0x78 && decide (getBits w 14 12 ≤ 2)) fun s => s.updHost fun h => { h with mrrs := getBits w 14 12 }

/-- REGISTER_READ: the value goes to the host (spec/00 R5), 0 from a domain that counts as off (spec/01 R23); BAR2 and the configuration
space lie above BAR0. -/
def execRegisterRead (offset : Nat) (s : State) : Host.Outcome State Fault Refusal :=
  s.live (
    if bar2Base ≤ offset then s.readFn offset
    else if (findReg offset).isSome && !s.pdGood (regDomain offset) then s.readOff (regDomain offset)
    else
      let x := s.readReg offset
      let t : State := x.2
      { t with hostRead := x.1 })

/-- UNSUPPORTED_ACCESS: no effect (spec/14 R328). -/
def execUnsupportedAccess (_bar _offset _width : Nat) (s : State) : Host.Outcome State Fault Refusal := s.live s

/-- READ_OFF_DOMAIN: a register of a domain that counts as off reads 0, with E:0x0005 once per off period (spec/01 R23). -/
def execReadOffDomain (pd : Fin 10) (_offset : Nat) (s : State) : Host.Outcome State Fault Refusal :=
  s.live (
    if s.pdGood pd then s else s.readOff pd)

/-! ### Writing -/

/-- A refused write of a subject's field raises an access event, whose data carry the offset and the number of the register's instance
(spec/00 Table 0.4, spec/04 R108). -/
def State.refused (s : State) (off cause : Nat) : State := s.event (off / 0x10000 * 0x100 + cause) (off :: (offInst off).toList.map (·.2))

/-- A host write reaches a field (spec/00 R6, R7): RW takes it; a W1C counter is cleared by any bit written as 1; LK takes a
changed value only while unlocked, or for a shadow coefficient with LIVE_COEF = 1 (spec/04 R91), SIW never; RO, WO and W1S
store nothing. -/
def State.writeField (w : Word) (off : Nat) (s : State) (f : FieldSpec) : State :=
  let v := getBits w f.msb f.lsb
  let here : Fld := ⟨off, f.msb, f.lsb⟩
  if f.acc.contains .lk then
    if v = getBits (s.shown off) f.msb f.lsb then s
    else if isShadow off then
      if s.unlocked || s.flag CE_GCFG_LIVE_COEF then s.setFld here v else s.refused off 0xF1
    else if s.unlocked then s.putEdit off (putBits (s.shown off) f.msb f.lsb v) else s.refused off 0xF1
  else if f.acc.contains .siw then (if v = s.fld here then s else s.refused off 0xF2)
  else if f.acc.contains .w1c then (if v = 0 then s else s.setFld here 0)
  else if f.acc.contains .rw then s.setFld here v
  else s

/-- Set-up fields of a ring: VEC, LOG2 and the bases (spec/14 R329; which fields they are is DEDUCED, log entry 15). -/
def isSetup (off : Nat) (f : FieldSpec) : Bool :=
  decide (0xD0100 ≤ off ∧ off < 0xD1100) && decide (off % 0x40 < 0x20) && !f.acc.contains .lk

/-- The fields of a register that a host write reaches: those of PNL1's size are read-only (spec/11 Table 11.8). -/
def hostFields (off : Nat) (r : RegSpec) : List FieldSpec := if off = R_PNL_CFG 1 then [] else r.fields

/-- Fields that act bit by bit: saturation flags and exclusions. -/
def bitwise (off : Nat) : Bool := off == R_CE_SAT 0 || off == R_CE_SAT 1

/-- A write of the fields of a register. A ring's set-up fields are written only in OFF, RECOVER and ERROR; elsewhere they keep
their values, with one E:0x0D0E (spec/14 R329). -/
def State.writeFields (s : State) (off : Nat) (r : RegSpec) (w : Word) : State :=
  let fs := hostFields off r
  let ring := (off - 0xD0100) / 0x40
  let barred := fs.any (isSetup off) && (s.rstate ring == 1 || s.rstate ring == 3)
  if bitwise off then s.setReg off (s.reg off &&& ~~~w)
  else
    let s := (fs.filter fun f => !(barred && isSetup off f)).foldl (State.writeField w off) s
    s.iff barred fun s => s.event 0x0D0E [ring, s.rstate ring]

/-- BN_CTRL, in BENCH only: HOLD, MET with PD3, and a step (spec/17 R404, R405). -/
def State.hostBench (s : State) (w : Word) : State :=
  if s.mode ≠ 7 then s
  else
    let s := s.setFlag BN_CTRL_MET (w.getLsbD 2)
    let off3 := s.pdOn 3 && !bit (s.pdOf 7) 3
    let s := (s.iff off3 (·.rotAbandon)).pdSet (s.pdOf 7)
    let s := s.hostHold (w.getLsbD 0)
    if w.getLsbD 1 then s.hostStep (getBits w 31 16) else s.setFld BN_CTRL_STEP_N (getBits w 31 16)

/-- Registers whose whole write has a meaning of its own, some of them without any field that stores it. -/
def State.wholeWrite (s : State) (off : Nat) (w : Word) : Option State :=
  if off = R_TIME_LEAP then some (s.hostLeap w)
  else if off = R_MX_EXCL_LO then some (s.mxExclClear w 0)
  else if off = R_MX_EXCL_HI then some (s.mxExclClear 0 w)
  else if off = R_CE_EXCL 0 then some (s.ceExclClear 0 w)
  else if off = R_CE_EXCL 1 then some (s.ceExclClear 1 w)
  else if off = R_MD_REQ then some (s.modeReq (getBits w 3 0))
  else if off = R_BN_CTRL then some (s.hostBench w)
  else none

/-- What a write of a register of one instance does beside its fields (spec/14 Table 14.2a and the registers' own tables). -/
def State.writeAct1 (s : State) (off i : Nat) (w : Word) : State :=
  let b := w.getLsbD
  if off = R_CQ_CTRL i then s.iff (b 0) (·.hostRetrain i)
  else if off = R_CE_CTRL i then s.iff (b 0) (·.hostSwap i)
  else if off = R_VD_CTRL i then (s.iff (b 0) (·.hostStop i)).iff (b 1) fun s => s.hostJoin i (getBits w 11 8)
  else if off = R_MET_FHSEL i then s.fhRefresh i
  else if off = R_RING_CTRL i then
    (((s.iff (b 0) (·.ringEnable i)).iff (b 1) (·.ringDisable i)).iff (b 2) (·.ringResume i)).iff (b 3) (·.ringFlush i)
  else s

/-- What a write of any other register does beside its fields. -/
def State.writeAct (s : State) (off : Nat) (is : List Nat) (w : Word) : State :=
  let b := w.getLsbD
  match is with
  | [i] => s.writeAct1 off i w
  | [c, n] =>
    if off = R_CUP_CFG c n then ((s.cupMode c n).iff (b 16) (·.cupArm c n)).iff (b 17) (·.cupHostTrig c n) else s
  | _ =>
    if off = R_GLB_CFG_COMMIT then s.iff (b 0) (·.hostCommit)
    else if off = R_MET_SNAP then (s.iff (b 0) (·.metSnap)).iff (b 1) (·.metSnapRel)
    else if off = R_LEG_SEL then s.legSelect
    else if off = R_PNL_PAGE then s.selectPage (getBits w 3 0)
    else if off = R_FRZ_CTRL then s.iff (b 4) (·.freezeReq 1)
    else if off = R_TW_CTRL then
      (if b 0 then
        let p := s.draw
        let r := p.1
        let s := p.2
        s.hostHandover (r % 2 == 1)
      else s)
    else s

/-- A write of a switch channel's command, which the owner may bar (spec/10 R259); a write of CLR with ON as it stands commands no
change of ON. -/
def State.writePs (s : State) (n : Nat) (w : Word) : State :=
  let s := if w.getLsbD 1 ∧ w.getLsbD 0 = s.flag (PS_CMD_ON n) then s else s.hostPs n (w.getLsbD 0)
  s.iff (w.getLsbD 1) (·.hostPsClr n)

/-- A host write of a register (spec/00 R2, R5 to R7, spec/01 R21). -/
def State.hostWrite (s : State) (off : Nat) (w : Word) : State :=
  if bar2Base ≤ off then s.writeFn off w
  else if off / 0x10000 = 8 then s.islViolation 9 (off % 0x10000)
  else match findReg off with
    | none => s
    | some (r, is) =>
      if s.unfitted r is then s
      else match s.wholeWrite off w with
        | some t => t
        | none =>
          if 0x90100 ≤ off ∧ off < 0x90400 ∧ off % 0x20 = 0xC then s.writePs ((off - 0x90100) / 0x20) w
          else (s.writeFields off r w).writeAct off is w

/-- REGISTER_WRITE. -/
def execRegisterWrite (offset : Nat) (value : Word) (s : State) : Host.Outcome State Fault Refusal :=
  s.live (s.hostWrite offset value)

end Sys2Proof.Machine
end

