-- ==== Sys2Proof/Machine/Ticks.lean ====
section
/-!
DEFINITION. The frame ticks: the control frame and the system frame with its exchange swap and the SF-rate work of every part
(spec/01 R12, R16, spec/02 R28 to R33); baseplate zones, domain rails, front-end supplies and barrier transfers
(spec/01 R13, R23); the overrun of the legal commit (spec/02 R31).
-/

namespace Sys2Proof.Machine

open Sys2Proof

/-! ### Zones, rails, supplies, transfers (spec/01 R13, R23) -/

/-- Zone readings in mK at an SF tick: published to 1 K, and the counts of consecutive ticks above 25 K and at or below 23 K. -/
def State.zoneTick (s : State) (z : List Int) : State :=
  let t (i : Nat) : Int := nth 0 z i
  let d := (max (t 0) (max (t 1) (t 2)) - min (t 0) (min (t 1) (t 2))).toNat
  let s := (s.setFldS GLB_ZONE_TEMP_ZA (divRound (t 0) 1000)).setFldS GLB_ZONE_TEMP_ZB (divRound (t 1) 1000)
  let s := (s.setFldS GLB_ZONE_TEMP_ZC (divRound (t 2) 1000)).setSat GLB_ZONE_TEMP_DTMAX ((d + 500) / 1000)
  s.updGlb fun g =>
    { g with
      zoneOver := if 25000 < d then g.zoneOver + 1 else 0
      zoneUnder := if d ≤ 23000 then g.zoneUnder + 1 else 0 }

/-- ZONE_DIFF_EXCEEDED: above 25 K at 10 000 consecutive SF ticks: ZONE_DT, E:0x0006. -/
def execZoneDiffExceeded (s : State) : Host.Outcome State Fault Refusal :=
  s.live (if 10000 ≤ s.glb.zoneOver ∧ !s.flag GLB_STATUS_ZONE_DT then (s.setFlag GLB_STATUS_ZONE_DT true).event 0x0006 [] else s)

/-- ZONE_DIFF_CLEARED: at or below 23 K at 10 000 consecutive SF ticks: E:0x0007. -/
def execZoneDiffCleared (s : State) : Host.Outcome State Fault Refusal :=
  s.live (if 10000 ≤ s.glb.zoneUnder ∧ s.flag GLB_STATUS_ZONE_DT then (s.setFlag GLB_STATUS_ZONE_DT false).event 0x0007 [] else s)

/-- What goes with a domain whose rail is lost: PD1 the SO drivers, PD4 the CEs' windows, PD6 the host link
(Table 1.2). PD7 to PD9 follow their switch-off. -/
def State.railGone (s : State) (pd : Nat) : State :=
  match pd with
  | 1 => s.updIsl fun i => { i with pairs := i.pairs.map fun (p : SoPair) => { p with hsc := false, lsc := false } }
  | 4 => s.each (idx 2) fun s c => s.updCe c fun e => { e with window := false }
  | 6 => (s.hostLinkDown).hostQuiet
  | _ => s

/-- DOMAIN_RAIL_LOST: the domain counts as off from that instant: PGOOD clears while ON stays, its cores no longer run,
PD_LOST, E:0x0004 (R13, Table 1.16). Without PD0 nothing is left on (log entry 16). -/
def execDomainRailLost (pd : Fin 10) (s : State) : Host.Outcome State Fault Refusal :=
  .next (
    let n := pd.val
    if !s.pdGood n then s
    else
      let on := s.fld GLB_PD_STATE_ON
      let s := (s.setFlag GLB_STATUS_PD_LOST true).event 0x0004 [n]
      if n = 0 then ((s.railGone 1).pdSwitch false 0).setReg R_GLB_CORE_STATE 0
      else
        let s := ((s.pdSwitch false (on &&& (0x3FF ^^^ 2 ^ n))).setFld GLB_PD_STATE_ON on).railGone n
        s.each ((idx 8).filter fun i => coreDomain i == n) fun s i => s.setFld (coreFld i) 0)

/-- FRONT_END_SUPPLY_FAULT: outside ±10 %, the front end reports not ready, its output cannot enter RUN, and E:0x0004 is
raised (Table 1.7). -/
def execFrontEndSupplyFault (fe : Fin 10) (s : State) : Host.Outcome State Fault Refusal :=
  s.live (
    if s.glb.feNotReady.contains fe.val || !s.pdGood 3 then s
    else
      let s := s.updGlb fun g => { g with feNotReady := g.feNotReady ++ [fe.val] }
      (s.setFlag GLB_STATUS_PD_LOST true).event 0x0004 [3, fe])

/-- BARRIER_TRANSFER_BAD: the transfer is discarded; a fast-path sample is counted and invalid at its CE, a precision sample is
counted and substituted by the MC (spec/07 R166). A feed has no fast path. -/
def execBarrierTransferBad (fe : Fin 10) (fast : Bool) (sample : Fin 32) (s : State) : Host.Outcome State Fault Refusal :=
  s.live (
    let e := fe.val
    if fast then
      (if e < 8 then
        let s := s.updGlb fun g => { g with fastDisc := upd g.fastDisc e (· + 1) }
        match s.outLane e with
        | some l => s.updOl (s.outCe e) l fun o => { o with badFast := true }
        | none => s
      else s)
    else if s.metOn then s.precDiscard e sample else s)

/-! ### Access between the parts (spec/01 R14, R15, R20, R21) -/

/-- Core number of a part, as GLB_CORE_STATE numbers the cores; none for what is no core. -/
def partyCore : Party → Option Nat
  | .sc => some 0 | .kc => some 1 | .mc => some 2 | .vc0 => some 3 | .vc1 => some 4 | .ce0 => some 5 | .ce1 => some 6
  | .gc => some 7 | _ => none

/-- Code of an initiator in GLB_ISO_VIOL (Table 1.19); 0 for a part that the table gives none (log entry 49). -/
def partySrc : Party → Nat
  | .kc => 2 | .mc => 3 | .vc0 => 4 | .vc1 => 5 | .ce0 => 6 | .ce1 => 7 | .gc => 8 | _ => 0

/-- The single writer of an MRAM region (Table 1.3). -/
def mramWriter : Nat → Option Party
  | 0 => some .mc | 1 => some .sc | 2 => some .ring | 3 | 4 => some .kc | 5 => some .clock | 6 => some .logger | _ => none

/-- The part that writes an exchange table, of tables 0 and 3 a half; of table 2 the active allocator alone (Table 1.4, R12). -/
def State.tableWriter (s : State) : Nat → Nat → Option Party
  | 0, h => if h = 0 then some .vc0 else some .vc1
  | 1, _ => some .mc
  | 2, _ => if s.fld SH_STATUS_ACTIVE = 0 then some .vc0 else some .vc1
  | 3, h => if h = 0 then some .ce0 else some .ce1
  | 4, _ => some .gc
  | 5, _ => some .sc
  | _, _ => none

/-- Access to the Safety Island, its registers and its SRAM (Table 1.6, first column). -/
def State.islPermits (s : State) (a : PartAccess) : Bool :=
  a.who == .sc || a.who == .guard || (a.who == .kc && a.write && !s.glb.islReleased)

/-- Table 1.6 permits the access, and Table 1.3 and R15 a write. A core's own SRAM is its own; the capture engine reads in
FROZEN, when no SF tick judges an access. -/
def State.permits (s : State) (a : PartAccess) : Bool :=
  match a.place with
  | .island _ | .sram 0 _ => s.islPermits a
  | .keyStore => a.who == .kc
  | .sram c _ =>
    if partyCore a.who == some c then true
    else match a.who with
      | .sc => !a.write
      | .kc => if a.write then !s.released c else c != 2 && s.released c
      | .gc => a.write && a.scrub
      | _ => false
  | .table n h => if a.write then s.tableWriter n h == some a.who else (partyCore a.who).isSome
  | .banks => a.who == .kc
  | .capStore => if a.write then a.who == .capture else a.who == .kc
  | .archive => !a.write || a.who == .gc
  | .mram r => !a.write || mramWriter r == some a.who

/-- Subject index of a target, for E:0xDDF0: the Island's, the keys' and banks', the memories', the capture store's (DEDUCED, log
entry 49). -/
def placeSubject : Place → Nat
  | .island _ | .sram 0 _ => 0x08
  | .keyStore | .banks => 0x0E
  | .sram _ _ | .table _ _ | .archive | .mram _ => 0x0F
  | .capStore => 0x10

/-- An access: one that is permitted is its part's own work, of which an entry of the archive is kept here; another is not
performed and raises E:0xDDF0, a write into the Island E:0x08F2 with the initiator and the offset. -/
def State.access (s : State) (a : PartAccess) : State :=
  if s.permits a then
    s.iff (a.write && a.place == .archive) fun s => s.updSys fun x => { x with archive := x.archive ++ [a.data] }
  else match a.place, a.write with
    | .island off, true | .sram 0 off, true => s.islViolation (partySrc a.who) off
    | p, _ => s.event (placeSubject p * 0x100 + 0xF0) [(partySrc a.who)]

/-! ### The exchange tables (spec/01 R16, R12) -/

/-- A writer that does not publish raises E:0x0008 with the table number: it runs and was late, or it has halted. Cores that
are not released or are held have nothing to publish (spec/15 Table 15.11, spec/17 R405). -/
def State.unpublished (s : State) (core table : Nat) : State :=
  s.iff (s.coreRuns core || s.fld (coreFld core) == 2) fun s => s.event 0x0008 [table]

/-- Rows of a table in two halves: from the back buffer in the writer's half, from the front elsewhere. -/
def halves {α : Type} (d : α) (n : Nat) (mine : Nat → Bool) (back front : List α) : List α :=
  (idx n).map fun i => nth d (if mine i then back else front) i

/-- What link `n`'s CE reports of it in exchange table 3. -/
def State.linkRow (s : State) (n : Nat) : LinkRow :=
  { lst := s.lst n, bst := s.bst n, iavail := (s.lk n).iavail, run := s.inK1 n, mx := (s.lk n).mxState, step := s.mvStep n
    frozen := (s.bl n).frozen || (match s.linkLane n with
      | some l => bit (s.fld (CE_EXCL_LANE (s.linkCe n))) l
      | none => false) }

/-- Output `j` is reported failed by its lane (spec/04 R88, R98). -/
def State.laneFailed (s : State) (j : Nat) : Bool :=
  match s.outLane j with
  | some l => (s.ol (s.outCe j) l).failed
  | none => false

/-- Status registers that the GC writes into exchange table 4: of the switches, panels and keypad, readers and lid tag, and Mallas
slaves (Table 1.4). -/
def gcOffs : List Nat :=
  (idx 24).map R_PS_STAT ++ (idx 2).map R_PNL_STAT ++ [R_KP_STAT] ++ (idx 4).map R_NR_STAT ++ [R_NT_STAT, R_ML_STAT]
    ++ (idx 63).map R_ML_SST

/-- What the writers have put into their back buffers by the end of the SF: the VCs their dialogues, the frame sequencers the block
states and the outputs that failed, the GC its status, the SC its mirror (R16; that each rewrites all of it is a DESIGN CHOICE, log
entry 61). The MC's, the allocator's and the SF programs' content is written where it is computed. -/
def State.fillBacks (s : State) : State :=
  let s := s.updSh fun h =>
    { h with
      t0b := (idx 8).map s.rowNow, t3lb := (idx 48).map s.linkRow
      t3b := h.t3b.mapIdx fun j r => { r with failed := s.laneFailed j }
      t4b := gcOffs.map fun o => (o, s.reg o) }
  s.iff (s.coreRuns 0) (·.mirrorFill)

/-- The half of table 0 that VC `v` writes. -/
def State.swap0 (s : State) (v : Nat) (late : Bool) : State :=
  if s.coreRuns (3 + v) && !late then
    s.updSh fun h => { h with t0 := halves VehRow.rest 8 (fun j => s.outVc j == v) h.t0b h.t0 }
  else s.unpublished (3 + v) 0

/-- Table 1, of the MC. -/
def State.swap1 (s : State) (late : Bool) : State :=
  let ok := s.coreRuns 2 && !late
  let s := if ok then s.updSh fun h => { h with t1 := h.t1b, feeds := h.feedsb } else s.unpublished 2 1
  s.updSh fun h => { h with t1b := h.t1, feedsb := h.feeds, fresh1 := ok }

/-- MX_ASGn.OUT shows map 1 as the front buffer of table 2 holds it (spec/05 Table 5.29). -/
def State.showMap (s : State) : State := s.each (idx 48) fun s n => s.setFld (MX_ASG_OUT n) ((s.mapOf n).getD 15)

/-- Table 2, of the active allocator; consecutive misses of VC0 are counted for R12. -/
def State.swap2 (s : State) : State :=
  let a := s.allocCore
  let miss := !s.sh.t2Mark && a == 3 && s.coreRuns 3
  let s := if s.sh.t2Mark then (s.updSh fun h => { h with t2 := h.t2b }).showMap else s.unpublished a 2
  (s.updSh fun h => { h with t2b := h.t2, t2Mark := false }).updGlb fun g => { g with vc0Missed := if miss then g.vc0Missed + 1 else 0 }

/-- The rows of table 3 that the frame sequencer of CE `c` reports: block states, and outputs that failed. -/
def State.seqRows (s : State) (c : Nat) : State :=
  s.updSh fun h =>
    { h with
      t3l := halves LinkRow.rest 48 (fun n => s.linkCe n == c) h.t3lb h.t3l
      t3 := h.t3.mapIdx fun j r => if s.outCe j = c then { r with failed := (nth SumRow.rest h.t3b j).failed } else r }

/-- The half of table 3 of CE `c`. A halted CE publishes no summaries; its frame sequencer, which is hardware, reports the outputs
failed and the block states all the same (spec/04 R88). SF-rate work that is late is completed in the next SF, once: a second consecutive overrun
raises E:0x0120 (spec/02 Table 2.2). -/
def State.swap3 (s : State) (c : Nat) (late : Bool) : State :=
  let s := s.updSh fun h => { h with fresh3 := h.fresh3.set c (s.ceRuns c && !late) }
  if !s.ceRuns c then s.iff (s.fld (coreFld (5 + c)) == 2) fun s => (s.unpublished (5 + c) 3).iff (s.pdGood 4) (·.seqRows c)
  else
    let second := nth false s.tim.ceSfLate c
    let s := s.updTim fun t => { t with ceSfLate := t.ceSfLate.set c late }
    if late then (s.overrun 1 (5 + c) second).unpublished (5 + c) 3
    else
      (s.updSh fun h => { h with t3 := halves SumRow.rest 8 (fun j => s.outCe j == c) h.t3b h.t3 }).seqRows c

/-- Table 4, of the GC. -/
def State.swap4 (s : State) (late : Bool) : State :=
  if s.coreRuns 7 && !late then s.updSh fun h => { h with t4 := h.t4b } else s.unpublished 7 4

/-- The swap of every table, and the back buffers reloaded from the fronts in force (R16). `late` names the writers that were
not complete: VC0, VC1, MC, CE0, CE1, the GC. -/
def State.exchangeSwap (s : State) (late : List Bool) : State :=
  let l (i : Nat) : Bool := nth false late i
  let s := (((s.fillBacks).swap0 0 (l 0)).swap0 1 (l 1)).swap1 (l 2)
  let s := (((s.swap2).swap3 0 (l 3)).swap3 1 (l 4)).swap4 (l 5)
  let s := if s.coreRuns 0 then s.updSh fun h => { h with t5 := h.t5b } else s.unpublished 0 5
  s.updSh fun h => { h with t0b := h.t0, t3b := h.t3, t3lb := h.t3l, t4b := h.t4, t5b := h.t5 }

/-- VC1's allocator takes over at the tick after VC0 halts, or after two missed slots in a row (R12). -/
def State.allocTakeover (s : State) : State :=
  if s.fld SH_STATUS_ACTIVE != 0 || !s.coreRuns 4 then s
  else if s.fld (coreFld 3) = 2 then (s.setFld SH_STATUS_ACTIVE 1).event 0x0009 [3]
  else if 2 ≤ s.glb.vc0Missed then (s.setFld SH_STATUS_ACTIVE 1).event 0x0008 [2, 1]
  else s

/-- Work of the ending SF that was late beside the tables (spec/02 Table 2.2): the GC's switch supervision, told and passed to the
SC, which costs the refresh of the SF that begins (spec/10 R268, log entry 77); the GC's panels, keypad, readers and Mallas frames, and its background work, counted and completed in the next SF; a legal
commit past 150 µs that has ended before this tick. It is found at the tick: the data of E:0x0120 carry the number of the SF that begins
(DESIGN CHOICE, log entry 68). -/
def State.lateWork (s : State) (late : List Bool) : State :=
  let l (i : Nat) : Bool := nth false late i
  let s := s.iff (s.coreRuns 7) fun s =>
    let s := s.iff (l 6) fun s =>
      ((s.overrun 3 7 true).updIsl fun i => { i with swLate := i.swLate + 1 }).updPs fun p => { p with sent := true }
    (s.iff (l 7) (·.overrun 4 7 false)).iff (l 8) (·.overrun 5 7 false)
  s.iff (s.coreRuns 2 && l 9) (·.overrun 2 2 true)

/-! ### The ticks (spec/02 R28) -/

/-- CF_TICK: the next CF of the SF in progress; CF 0 is the SF tick itself, and no CF tick falls in the time that a
realignment adds (spec/02 R28, R44). -/
def execCfTick (s : State) : Host.Outcome State Fault Refusal :=
  s.live (
    let t := s.tim
    if (t.cfIndex + 1) * cfNs t.cfSel < ms then
      ((s.updTim fun t => { t with cfIndex := t.cfIndex + 1, sub := 0 }).linksCf).benchCf
    else s)

/-- The parts of the engines and of the dialogue at an SF tick. -/
def State.sfControl (s : State) (inp : SfIn) : State :=
  let s := (((s.pauseTick).benchTick).bundleTick).moveTick
  let s := s.each ((idx s.nOuts).zip inp.pt) fun s p => s.iff (s.pdGood 3 && s.flag (OUT_CFG_EN p.1)) (·.takePt p.1 p.2)
  let s := s.each (idx 2) fun s c => s.iff (s.ceRuns c) fun s => (s.ceTick c).ceSfProgram c
  (s.benchCf).vehTick

/-- Measurements that the tick brings: rail voltages in 0.1 V (PD9), coil currents in 10 mA and SO_SUP in 0.1 V (PD1), shown in
their registers (spec/10 Table 10.7). -/
def State.railRegs (s : State) (inp : SfIn) : State :=
  let s := s.iff (s.pdGood 9) fun s => (s.each ((idx 4).zip inp.rails) fun s p => s.railVolts p.1 p.2).railTick
  s.iff (s.pdGood 1) fun s =>
    (s.each ((idx 8).zip inp.coils) fun s p => s.setSat (SO_DIAG_ICOIL p.1) p.2).setSat SO_SUP_V inp.soSup

/-- Metrology, the legal part, the twin, and the parts that the GC and the host ring engine serve. -/
def State.sfServices (s : State) (inp : SfIn) : State :=
  let s := (s.setFlag MET_STATUS_SEAL inp.sealed).metTick inp.met inp.feeds
  let s := ((s.iff (s.metOn && s.pdGood 2) (·.legTick)).twinTick).hostSf
  let s := ((s.railsDown).portTick).iff (s.coreRuns 2) (·.chkTick)
  let s := (s.iff (s.coreRuns 7) fun s => (((s.dropB).panelSf inp.panel0).restTick).pd8Tick).mlTick
  let s := ((s.memTick inp.mramBad inp.unwr).updPs fun p => { p with told912 := false }).updTag fun t => { t with told17 := false }
  let s := s.updKeys fun k => { k with slots := k.slots.map fun p => (p.1, { p.2 with due := p.2.flip }) }
  (s.iff (s.keys.tagKeyDue && s.coreRuns 1) (·.tagKey)).mirrorTake

/-- The SC's scrub of its own SRAM has found a fault: E:0x081A; an uncorrectable one halts the SC, and the safe state follows
(spec/09 Table 9.8). -/
def State.islScrub (s : State) (unc : Bool) : State :=
  let s := s.event 0x081A [b2n unc]
  if unc then (s.faultSafe 8).haltCore 0 else s.faultSeen 8

/-- The Island at an SF tick: what it published in the SF before shows in its mirror, the paths are compared, and the safety
cycle runs (spec/09 R223, R224, R17). -/
def State.sfIsland (s : State) (inp : SfIn) : State :=
  if s.coreRuns 0 then
    let s := ((s.mirror).pathCompare).candTick
    match inp.islMem with
    | none => s.safetyCycle inp.isl
    | some unc => (s.islScrub unc).iff (!unc) (·.safetyCycle inp.isl)
  else s

/-- SF_TICK: the count advances, the exchange tables swap, and the SF-rate work of every part is done on what they then hold
(spec/01 R16, spec/02 R28, R31, R33). In FROZEN only the count and its timers go on (spec/17 R412), and the
panels' rails finish their power-down (spec/11 R281). -/
def execSfTick (inp : SfIn) (s : State) : Host.Outcome State Fault Refusal :=
  .next (
    if !s.pdOn 0 then s
    else if s.mode = 6 then ((s.updTim fun t => { t with edge := none }).sfTickTime).railsDown
    else
      let s := s.each inp.access (·.access ·)
      let s := (s.updTim fun t => { t with zcNow := nth 0 inp.zones 2 }).sfTickTime
      let s := (((s.zoneTick inp.zones).linksSf).linksCf).exchangeSwap inp.late
      let s := (s.updPs fun p => { p with sent := false }).lateWork inp.late
      let s := ((s.railRegs inp).allocTakeover).sfControl inp
      ((s.sfServices inp).freezeTick).sfIsland inp)

/-- LEGAL_COMMIT_OVERRUN: the commit has not finished by the next SF tick: E:0x0120, and the MC is halted (spec/02
Table 2.2). -/
def execLegalCommitOverrun (s : State) : Host.Outcome State Fault Refusal :=
  s.live (if s.coreRuns 2 then (s.overrun 2 2 true).haltCore 2 else s)

end Sys2Proof.Machine
end

