-- ==== Sys2Proof/Machine/Dispatch.lean ====
section
/-!
DEFINITION. One arm per command: a direct call of its meaning.
-/

namespace Sys2Proof.Machine

open Sys2Proof

/-- The effect of a command on everything but the queue. -/
def exec (i : Instr) (s : State) : Host.Outcome State Fault Refusal :=
  match i with
  | .powerUp a b => Sys2Proof.Machine.execPowerUp a b s
  | .moduleStart inp => Sys2Proof.Machine.execModuleStart inp s
  | .scStartupTimeout => Sys2Proof.Machine.execScStartupTimeout s
  | .registerWrite offset value => Sys2Proof.Machine.execRegisterWrite offset value s
  | .unsupportedAccess bar offset width => Sys2Proof.Machine.execUnsupportedAccess bar offset width s
  | .readOffDomain pd offset => Sys2Proof.Machine.execReadOffDomain pd offset s
  | .commit => Sys2Proof.Machine.execCommit s
  | .domainRailLost pd => Sys2Proof.Machine.execDomainRailLost pd s
  | .frontEndSupplyFault fe => Sys2Proof.Machine.execFrontEndSupplyFault fe s
  | .barrierTransferBad fe fast sample => Sys2Proof.Machine.execBarrierTransferBad fe fast sample s
  | .zoneDiffExceeded => Sys2Proof.Machine.execZoneDiffExceeded s
  | .zoneDiffCleared => Sys2Proof.Machine.execZoneDiffCleared s
  | .cfTick => Sys2Proof.Machine.execCfTick s
  | .sfTick inp => Sys2Proof.Machine.execSfTick inp s
  | .legalCommitOverrun => Sys2Proof.Machine.execLegalCommitOverrun s
  | .allocatorSlot => Sys2Proof.Machine.execAllocatorSlot s
  | .moveStepEnd link => Sys2Proof.Machine.execMoveStepEnd link s
  | .moveStepTimeout link => Sys2Proof.Machine.execMoveStepTimeout link s
  | .mxExclClear lo hi => Sys2Proof.Machine.execMxExclClear lo hi s
  | .ceExclClear ce mask => Sys2Proof.Machine.execCeExclClear ce mask s
  | .coolingFailed out => Sys2Proof.Machine.execCoolingFailed out s
  | .coolingRestored out => Sys2Proof.Machine.execCoolingRestored out s
  | .pumpRunonEnd out => Sys2Proof.Machine.execPumpRunonEnd out s
  | .timeLeapWrite value => Sys2Proof.Machine.execTimeLeapWrite value s
  | .leapSecondApply => Sys2Proof.Machine.execLeapSecondApply s
  | .gnssPpsEdge at_ => Sys2Proof.Machine.execGnssPpsEdge at_ s
  | .gnssMessage msg => Sys2Proof.Machine.execGnssMessage msg s
  | .ppsMissing => Sys2Proof.Machine.execPpsMissing s
  | .correctionApply => Sys2Proof.Machine.execCorrectionApply s
  | .slewEnd => Sys2Proof.Machine.execSlewEnd s
  | .setTime ring => Sys2Proof.Machine.execSetTime ring s
  | .ptpDelayRequest port peer => Sys2Proof.Machine.execPtpDelayRequest port peer s
  | .upstreamFrame link arrival => Sys2Proof.Machine.execUpstreamFrame link arrival s
  | .linkLost link => Sys2Proof.Machine.execLinkLost link s
  | .arrivalDrift link => Sys2Proof.Machine.execArrivalDrift link s
  | .blockClockFault link => Sys2Proof.Machine.execBlockClockFault link s
  | .commaLock link => Sys2Proof.Machine.execCommaLock link s
  | .trainMeasurement link sum least most => Sys2Proof.Machine.execTrainMeasurement link sum least most s
  | .trainTimeout link => Sys2Proof.Machine.execTrainTimeout link s
  | .linkRetry link => Sys2Proof.Machine.execLinkRetry link s
  | .linkSilent link => Sys2Proof.Machine.execLinkSilent link s
  | .startSend link => Sys2Proof.Machine.execStartSend link s
  | .retrain link => Sys2Proof.Machine.execRetrain link s
  | .stopLineAssert links => Sys2Proof.Machine.execStopLineAssert links s
  | .stopLineRelease out => Sys2Proof.Machine.execStopLineRelease out s
  | .ceWindowStart ce fast => Sys2Proof.Machine.execCeWindowStart ce fast s
  | .ceWindowEnd ce => Sys2Proof.Machine.execCeWindowEnd ce s
  | .thirdLawOverrun ce => Sys2Proof.Machine.execThirdLawOverrun ce s
  | .nop ce d a b k => Sys2Proof.Machine.execNop ce d a b k s
  | .endProgram ce d a b k => Sys2Proof.Machine.execEndProgram ce d a b k s
  | .lda ce d a b k => Sys2Proof.Machine.execLda ce d a b k s
  | .ada ce d a b k => Sys2Proof.Machine.execAda ce d a b k s
  | .sba ce d a b k => Sys2Proof.Machine.execSba ce d a b k s
  | .mul ce d a b k => Sys2Proof.Machine.execMul ce d a b k s
  | .mac ce d a b k => Sys2Proof.Machine.execMac ce d a b k s
  | .msu ce d a b k => Sys2Proof.Machine.execMsu ce d a b k s
  | .zra ce d a b k => Sys2Proof.Machine.execZra ce d a b k s
  | .min ce d a b k => Sys2Proof.Machine.execMin ce d a b k s
  | .max ce d a b k => Sys2Proof.Machine.execMax ce d a b k s
  | .clp ce d a b k => Sys2Proof.Machine.execClp ce d a b k s
  | .abs ce d a b k => Sys2Proof.Machine.execAbs ce d a b k s
  | .neg ce d a b k => Sys2Proof.Machine.execNeg ce d a b k s
  | .exa ce d a b k => Sys2Proof.Machine.execExa ce d a b k s
  | .rcp ce d a b k => Sys2Proof.Machine.execRcp ce d a b k s
  | .sel ce d a b k => Sys2Proof.Machine.execSel ce d a b k s
  | .rsum ce d a b k => Sys2Proof.Machine.execRsum ce d a b k s
  | .rmax ce d a b k => Sys2Proof.Machine.execRmax ce d a b k s
  | .sprd ce d a b k => Sys2Proof.Machine.execSprd ce d a b k s
  | .stf ce d a b k => Sys2Proof.Machine.execStf ce d a b k s
  | .stn ce d a b k => Sys2Proof.Machine.execStn ce d a b k s
  | .mov ce d a b k => Sys2Proof.Machine.execMov ce d a b k s
  | .cgt ce d a b k => Sys2Proof.Machine.execCgt ce d a b k s
  | .cge ce d a b k => Sys2Proof.Machine.execCge ce d a b k s
  | .kand ce d a b k => Sys2Proof.Machine.execKand ce d a b k s
  | .kor ce d a b k => Sys2Proof.Machine.execKor ce d a b k s
  | .knot ce d a b k => Sys2Proof.Machine.execKnot ce d a b k s
  | .skz ce d a b k => Sys2Proof.Machine.execSkz ce d a b k s
  | .trg ce d a b k => Sys2Proof.Machine.execTrg ce d a b k s
  | .swap ce => Sys2Proof.Machine.execSwap ce s
  | .coefSwapApply ce => Sys2Proof.Machine.execCoefSwapApply ce s
  | .outputFeedbackLost ce lane => Sys2Proof.Machine.execOutputFeedbackLost ce lane s
  | .frozenFeedback ce lane => Sys2Proof.Machine.execFrozenFeedback ce lane s
  | .cupArm ce buf => Sys2Proof.Machine.execCupArm ce buf s
  | .cupTrig ce buf => Sys2Proof.Machine.execCupTrig ce buf s
  | .cupDone ce buf => Sys2Proof.Machine.execCupDone ce buf s
  | .cupStreamRecord ce buf => Sys2Proof.Machine.execCupStreamRecord ce buf s
  | .pilotStateAccepted out high low => Sys2Proof.Machine.execPilotStateAccepted out high low s
  | .mcsLineStateAccepted out isId mv => Sys2Proof.Machine.execMcsLineStateAccepted out isId mv s
  | .cmSlacParmReq out => Sys2Proof.Machine.execCmSlacParmReq out s
  | .cmValidate out => Sys2Proof.Machine.execCmValidate out s
  | .slacMatch out profile => Sys2Proof.Machine.execSlacMatch out profile s
  | .plcaLinkUp out => Sys2Proof.Machine.execPlcaLinkUp out s
  | .phySignalLost out => Sys2Proof.Machine.execPhySignalLost out s
  | .seccDiscoveryReq out => Sys2Proof.Machine.execSeccDiscoveryReq out s
  | .tlsHandshake out slot hello ok => Sys2Proof.Machine.execTlsHandshake out slot hello ok s
  | .tcpClosed out => Sys2Proof.Machine.execTcpClosed out s
  | .supportedAppProtocolReq out din iso2 iso20 => Sys2Proof.Machine.execSupportedAppProtocolReq out din iso2 iso20 s
  | .sessionSetupReq out session evccid => Sys2Proof.Machine.execSessionSetupReq out session evccid s
  | .serviceDiscoveryReq out => Sys2Proof.Machine.execServiceDiscoveryReq out s
  | .serviceDetailReq out => Sys2Proof.Machine.execServiceDetailReq out s
  | .serviceSelectionReq out bpt dynamic => Sys2Proof.Machine.execServiceSelectionReq out bpt dynamic s
  | .paymentSelectionReq out contract => Sys2Proof.Machine.execPaymentSelectionReq out contract s
  | .paymentDetailsReq out emaid chain => Sys2Proof.Machine.execPaymentDetailsReq out emaid chain s
  | .certificateInstallationReq out payload => Sys2Proof.Machine.execCertificateInstallationReq out payload s
  | .authorizationReq out ident chain => Sys2Proof.Machine.execAuthorizationReq out ident chain s
  | .chargeParameterDiscoveryReq out v => Sys2Proof.Machine.execChargeParameterDiscoveryReq out v s
  | .scheduleExchangeReq out => Sys2Proof.Machine.execScheduleExchangeReq out s
  | .cableCheckReq out => Sys2Proof.Machine.execCableCheckReq out s
  | .prechargeReq out vTgt => Sys2Proof.Machine.execPrechargeReq out vTgt s
  | .powerDeliveryReq out kind => Sys2Proof.Machine.execPowerDeliveryReq out kind s
  | .chargeLoopReq out v => Sys2Proof.Machine.execChargeLoopReq out v s
  | .meteringReceiptReq out => Sys2Proof.Machine.execMeteringReceiptReq out s
  | .weldingDetectionReq out => Sys2Proof.Machine.execWeldingDetectionReq out s
  | .sessionStopReq out => Sys2Proof.Machine.execSessionStopReq out s
  | .unsupportedRequest out => Sys2Proof.Machine.execUnsupportedRequest out s
  | .slacTmo out => Sys2Proof.Machine.execSlacTmo out s
  | .setupTmo out => Sys2Proof.Machine.execSetupTmo out s
  | .seqTmo out => Sys2Proof.Machine.execSeqTmo out s
  | .authTmo out => Sys2Proof.Machine.execAuthTmo out s
  | .certTmo out => Sys2Proof.Machine.execCertTmo out s
  | .ccTmo out => Sys2Proof.Machine.execCcTmo out s
  | .pcTmo out => Sys2Proof.Machine.execPcTmo out s
  | .loopTmo out => Sys2Proof.Machine.execLoopTmo out s
  | .stopTmo out => Sys2Proof.Machine.execStopTmo out s
  | .resumeWin out => Sys2Proof.Machine.execResumeWin out s
  | .joinWin out => Sys2Proof.Machine.execJoinWin out s
  | .lockConfirmTimeout out => Sys2Proof.Machine.execLockConfirmTimeout out s
  | .paramModeTimeout out => Sys2Proof.Machine.execParamModeTimeout out s
  | .stopCurrentZero out => Sys2Proof.Machine.execStopCurrentZero out s
  | .weldcheckTimeout out => Sys2Proof.Machine.execWeldcheckTimeout out s
  | .commRetry out => Sys2Proof.Machine.execCommRetry out s
  | .vdCtrlStop out => Sys2Proof.Machine.execVdCtrlStop out s
  | .vdCtrlJoin out earlier => Sys2Proof.Machine.execVdCtrlJoin out earlier s
  | .offsetCapture out => Sys2Proof.Machine.execOffsetCapture out s
  | .rotationStepStart fe => Sys2Proof.Machine.execRotationStepStart fe s
  | .rotationStepEnd fe res => Sys2Proof.Machine.execRotationStepEnd fe res s
  | .harmonicWindowEnd feed => Sys2Proof.Machine.execHarmonicWindowEnd feed s
  | .metSnap => Sys2Proof.Machine.execMetSnap s
  | .metSnapRelease => Sys2Proof.Machine.execMetSnapRelease s
  | .recordSigned ok => Sys2Proof.Machine.execRecordSigned ok s
  | .signingRetry rec_ ok => Sys2Proof.Machine.execSigningRetry rec_ ok s
  | .tokenLockExpiry => Sys2Proof.Machine.execTokenLockExpiry s
  | .get ring => Sys2Proof.Machine.execGet ring s
  | .set ring value => Sys2Proof.Machine.execSet ring value s
  | .action ring arg => Sys2Proof.Machine.execAction ring arg s
  | .sinChannelChange sin isB level => Sys2Proof.Machine.execSinChannelChange sin isB level s
  | .guardInputAccept sin isB => Sys2Proof.Machine.execGuardInputAccept sin isB s
  | .resetLatentComplete pass => Sys2Proof.Machine.execResetLatentComplete pass s
  | .discrepancyFault sin => Sys2Proof.Machine.execDiscrepancyFault sin s
  | .testPulse source stuckA stuckB => Sys2Proof.Machine.execTestPulse source stuckA stuckB s
  | .comparatorTrip out overvoltage value => Sys2Proof.Machine.execComparatorTrip out overvoltage value s
  | .pilotLossTrip out => Sys2Proof.Machine.execPilotLossTrip out s
  | .fastEarthFault out => Sys2Proof.Machine.execFastEarthFault out s
  | .pathDisagreement out => Sys2Proof.Machine.execPathDisagreement out s
  | .controlledStopStage2 out => Sys2Proof.Machine.execControlledStopStage2 out s
  | .pairOffDelay pair => Sys2Proof.Machine.execPairOffDelay pair s
  | .contactorCurrentTimeout out => Sys2Proof.Machine.execContactorCurrentTimeout out s
  | .weldTestEnd out hvMax => Sys2Proof.Machine.execWeldTestEnd out hvMax s
  | .weldCheckEnd out hvMin hvMax diffMax => Sys2Proof.Machine.execWeldCheckEnd out hvMin hvMax diffMax s
  | .insulationResult out rf selfTest => Sys2Proof.Machine.execInsulationResult out rf selfTest s
  | .degradedExpiry => Sys2Proof.Machine.execDegradedExpiry s
  | .safetyCandidate ring => Sys2Proof.Machine.execSafetyCandidate ring s
  | .safetyConfirm ring => Sys2Proof.Machine.execSafetyConfirm ring s
  | .safetyReset ring => Sys2Proof.Machine.execSafetyReset ring s
  | .confirmWindowExpiry => Sys2Proof.Machine.execConfirmWindowExpiry s
  | .latentTestDue out res => Sys2Proof.Machine.execLatentTestDue out res s
  | .watchdogTimeout core => Sys2Proof.Machine.execWatchdogTimeout core s
  | .lockstepMismatch => Sys2Proof.Machine.execLockstepMismatch s
  | .clockMonitorFault => Sys2Proof.Machine.execClockMonitorFault s
  | .islandSupplyFault source good => Sys2Proof.Machine.execIslandSupplyFault source good s
  | .fetchTrap core mem addr synd unwritten => Sys2Proof.Machine.execFetchTrap core mem addr synd unwritten s
  | .refreshFrame err => Sys2Proof.Machine.execRefreshFrame err s
  | .serialWatchdogExpiry => Sys2Proof.Machine.execSerialWatchdogExpiry s
  | .psOn chan on => Sys2Proof.Machine.execPsOn chan on s
  | .psClr chan => Sys2Proof.Machine.execPsClr chan s
  | .currentLimitTrip chan => Sys2Proof.Machine.execCurrentLimitTrip chan s
  | .rampTimeout chan => Sys2Proof.Machine.execRampTimeout chan s
  | .wireModelUpdate chan amps inLimit => Sys2Proof.Machine.execWireModelUpdate chan amps inLimit s
  | .dieTempCheck chan dt => Sys2Proof.Machine.execDieTempCheck chan dt s
  | .psRetry chan => Sys2Proof.Machine.execPsRetry chan s
  | .retryRestore chan => Sys2Proof.Machine.execRetryRestore chan s
  | .railOvercurrent rail inLimit amps => Sys2Proof.Machine.execRailOvercurrent rail inLimit amps s
  | .railGuardShed rail amps => Sys2Proof.Machine.execRailGuardShed rail amps s
  | .railUndervoltage rail dV heldUs => Sys2Proof.Machine.execRailUndervoltage rail dV heldUs s
  | .railRecovered rail dV heldUs => Sys2Proof.Machine.execRailRecovered rail dV heldUs s
  | .openLoad chan => Sys2Proof.Machine.execOpenLoad chan s
  | .psReadbackMismatch chan => Sys2Proof.Machine.execPsReadbackMismatch chan s
  | .soReadbackFault pair hs ls => Sys2Proof.Machine.execSoReadbackFault pair hs ls s
  | .soTestPulse pair low offUs onUs => Sys2Proof.Machine.execSoTestPulse pair low offUs onUs s
  | .soOvercurrent pair => Sys2Proof.Machine.execSoOvercurrent pair s
  | .soSupFault dV => Sys2Proof.Machine.execSoSupFault dV s
  | .panelUpdateRequest panel x y w h mode img => Sys2Proof.Machine.execPanelUpdateRequest panel x y w h mode img s
  | .panelFrame panel temp droop => Sys2Proof.Machine.execPanelFrame panel temp droop s
  | .panelRailFault panel rails => Sys2Proof.Machine.execPanelRailFault panel rails s
  | .panelRailStep panel ok => Sys2Proof.Machine.execPanelRailStep panel ok s
  | .panelRailRetry panel => Sys2Proof.Machine.execPanelRailRetry panel s
  | .pd8IdleOff => Sys2Proof.Machine.execPd8IdleOff s
  | .panelTempWake temps => Sys2Proof.Machine.execPanelTempWake temps s
  | .keypadWake => Sys2Proof.Machine.execKeypadWake s
  | .keyAccepted code pressed => Sys2Proof.Machine.execKeyAccepted code pressed s
  | .keyA => Sys2Proof.Machine.execKeyA s
  | .keyDigit => Sys2Proof.Machine.execKeyDigit s
  | .keyStar => Sys2Proof.Machine.execKeyStar s
  | .keyHash => Sys2Proof.Machine.execKeyHash s
  | .keyC => Sys2Proof.Machine.execKeyC s
  | .keyD => Sys2Proof.Machine.execKeyD s
  | .keyTimeout => Sys2Proof.Machine.execKeyTimeout s
  | .stripRedraw => Sys2Proof.Machine.execStripRedraw s
  | .pageTimeout => Sys2Proof.Machine.execPageTimeout s
  | .legalLineRedraw line => Sys2Proof.Machine.execLegalLineRedraw line s
  | .pollCycle port iant bad cards => Sys2Proof.Machine.execPollCycle port iant bad cards s
  | .antennaFault port => Sys2Proof.Machine.execAntennaFault port s
  | .antennaRetry port => Sys2Proof.Machine.execAntennaRetry port s
  | .cardHoldExpiry port => Sys2Proof.Machine.execCardHoldExpiry port s
  | .apdu ring resp => Sys2Proof.Machine.execApdu ring resp s
  | .tagPowerUp byField => Sys2Proof.Machine.execTagPowerUp byField s
  | .fieldDetected => Sys2Proof.Machine.execFieldDetected s
  | .tagFieldLost => Sys2Proof.Machine.execTagFieldLost s
  | .tagRead addr len => Sys2Proof.Machine.execTagRead addr len s
  | .tagWrite addr data cut => Sys2Proof.Machine.execTagWrite addr data cut s
  | .auth1 fieldMs => Sys2Proof.Machine.execAuth1 fieldMs s
  | .auth2 data => Sys2Proof.Machine.execAuth2 data s
  | .hlta => Sys2Proof.Machine.execHlta s
  | .mark => Sys2Proof.Machine.execMark s
  | .page => Sys2Proof.Machine.execPage s
  | .snap => Sys2Proof.Machine.execSnap s
  | .statusSnapshot cut => Sys2Proof.Machine.execStatusSnapshot cut s
  | .mirrorWrite cut => Sys2Proof.Machine.execMirrorWrite cut s
  | .mallasCycle polls => Sys2Proof.Machine.execMallasCycle polls s
  | .mallasAnswer fc payload hops heard => Sys2Proof.Machine.execMallasAnswer fc payload hops heard s
  | .mallasExchangeFail slave missing snr peaks => Sys2Proof.Machine.execMallasExchangeFail slave missing snr peaks s
  | .slaveLost slave => Sys2Proof.Machine.execSlaveLost slave s
  | .discovery => Sys2Proof.Machine.execDiscovery s
  | .discoveryAnswer id slot snr => Sys2Proof.Machine.execDiscoveryAnswer id slot snr s
  | .timeFrame => Sys2Proof.Machine.execTimeFrame s
  | .dbTail ring tail descs => Sys2Proof.Machine.execDbTail ring tail descs s
  | .dbChead ring head => Sys2Proof.Machine.execDbChead ring head s
  | .completionDelivery ring ok => Sys2Proof.Machine.execCompletionDelivery ring ok s
  | .descriptorExpired ring didx => Sys2Proof.Machine.execDescriptorExpired ring didx s
  | .coalesceTimeout ring => Sys2Proof.Machine.execCoalesceTimeout ring s
  | .enable ring => Sys2Proof.Machine.execEnable ring s
  | .disable ring => Sys2Proof.Machine.execDisable ring s
  | .resume ring => Sys2Proof.Machine.execResume ring s
  | .flush ring => Sys2Proof.Machine.execFlush ring s
  | .linkDown => Sys2Proof.Machine.execLinkDown s
  | .functionLevelReset => Sys2Proof.Machine.execFunctionLevelReset s
  | .recvEvents ring dma => Sys2Proof.Machine.execRecvEvents ring dma s
  | .recvRecord ring dma => Sys2Proof.Machine.execRecvRecord ring dma s
  | .recvReq ring dma => Sys2Proof.Machine.execRecvReq ring dma s
  | .answer ring => Sys2Proof.Machine.execAnswer ring s
  | .stop ring => Sys2Proof.Machine.execStop ring s
  | .price ring fits => Sys2Proof.Machine.execPrice ring fits s
  | .recvTrace ring dma => Sys2Proof.Machine.execRecvTrace ring dma s
  | .roleChallenge ring => Sys2Proof.Machine.execRoleChallenge ring s
  | .roleOpen ring => Sys2Proof.Machine.execRoleOpen ring s
  | .roleClose ring => Sys2Proof.Machine.execRoleClose ring s
  | .roleSessionTimeout handle => Sys2Proof.Machine.execRoleSessionTimeout handle s
  | .keyImport ring => Sys2Proof.Machine.execKeyImport ring s
  | .keyGenerate ring => Sys2Proof.Machine.execKeyGenerate ring s
  | .keyPublic ring => Sys2Proof.Machine.execKeyPublic ring s
  | .keyDelete ring => Sys2Proof.Machine.execKeyDelete ring s
  | .certInstall ring => Sys2Proof.Machine.execCertInstall ring s
  | .attest ring => Sys2Proof.Machine.execAttest ring s
  | .fvkRevoke ring valid => Sys2Proof.Machine.execFvkRevoke ring valid s
  | .setLimited ring => Sys2Proof.Machine.execSetLimited ring s
  | .keyFlip slot => Sys2Proof.Machine.execKeyFlip slot s
  | .updateOpen ring => Sys2Proof.Machine.execUpdateOpen ring s
  | .updateWrite ring => Sys2Proof.Machine.execUpdateWrite ring s
  | .updateVerify ring => Sys2Proof.Machine.execUpdateVerify ring s
  | .updateAbort ring => Sys2Proof.Machine.execUpdateAbort ring s
  | .activate ring => Sys2Proof.Machine.execActivate ring s
  | .activationPauseEnd laws loadBad => Sys2Proof.Machine.execActivationPauseEnd laws loadBad s
  | .activationFail => Sys2Proof.Machine.execActivationFail s
  | .updateConfirm ring => Sys2Proof.Machine.execUpdateConfirm ring s
  | .trialConfirmTimer => Sys2Proof.Machine.execTrialConfirmTimer s
  | .deferredStart => Sys2Proof.Machine.execDeferredStart s
  | .correctionWriteBack mem tile t stuck => Sys2Proof.Machine.execCorrectionWriteBack mem tile t stuck s
  | .mergeDrain mem arrived busy t => Sys2Proof.Machine.execMergeDrain mem arrived busy t s
  | .scrubTile mem t stuck => Sys2Proof.Machine.execScrubTile mem t stuck s
  | .scrubPassLate mem => Sys2Proof.Machine.execScrubPassLate mem s
  | .cvuSweep cvu crc unc => Sys2Proof.Machine.execCvuSweep cvu crc unc s
  | .cvuGuardHit cvu writer addr => Sys2Proof.Machine.execCvuGuardHit cvu writer addr s
  | .mdReqCommission => Sys2Proof.Machine.execMdReqCommission s
  | .mdReqStandby => Sys2Proof.Machine.execMdReqStandby s
  | .mdReqRun => Sys2Proof.Machine.execMdReqRun s
  | .mdReqBench => Sys2Proof.Machine.execMdReqBench s
  | .mdReqStart => Sys2Proof.Machine.execMdReqStart s
  | .standbyEntry => Sys2Proof.Machine.execStandbyEntry s
  | .standbyStopTimeout => Sys2Proof.Machine.execStandbyStopTimeout s
  | .benchWindowExpiry => Sys2Proof.Machine.execBenchWindowExpiry s
  | .bnHold hold => Sys2Proof.Machine.execBnHold hold s
  | .bnStep n => Sys2Proof.Machine.execBnStep n s
  | .benchStepDone => Sys2Proof.Machine.execBenchStepDone s
  | .logicInputExcursion a b => Sys2Proof.Machine.execLogicInputExcursion a b s
  | .holdEntry a b met feeds => Sys2Proof.Machine.execHoldEntry a b met feeds s
  | .holdEnd a b => Sys2Proof.Machine.execHoldEnd a b s
  | .storeSwitch a b => Sys2Proof.Machine.execStoreSwitch a b s
  | .sheddingStep => Sys2Proof.Machine.execSheddingStep s
  | .holdupFinalCommit => Sys2Proof.Machine.execHoldupFinalCommit s
  | .endOfStore met feeds => Sys2Proof.Machine.execEndOfStore met feeds s
  | .supplyRestart a b => Sys2Proof.Machine.execSupplyRestart a b s
  | .storeCharged v => Sys2Proof.Machine.execStoreCharged v s
  | .storeTest euse => Sys2Proof.Machine.execStoreTest euse s
  | .freezeNAsserted => Sys2Proof.Machine.execFreezeNAsserted s
  | .frzReq => Sys2Proof.Machine.execFrzReq s
  | .freezeClockStop => Sys2Proof.Machine.execFreezeClockStop s
  | .captureEnd sections bytes ok => Sys2Proof.Machine.execCaptureEnd sections bytes ok s
  | .captureEngineTest pass => Sys2Proof.Machine.execCaptureEngineTest pass s
  | .capRead addr n => Sys2Proof.Machine.execCapRead addr n s
  | .readIndex n => Sys2Proof.Machine.execReadIndex n s
  | .pairingRecord serial src chk hash => Sys2Proof.Machine.execPairingRecord serial src chk hash s
  | .mirrorFrame ok m isl => Sys2Proof.Machine.execMirrorFrame ok m isl s
  | .handover ready => Sys2Proof.Machine.execHandover ready s
  | .tokenTakeover => Sys2Proof.Machine.execTokenTakeover s
  | .twinLinkLost => Sys2Proof.Machine.execTwinLinkLost s
  | .storeEnd => Sys2Proof.Machine.execStoreEnd s
  | .connectorOvertemperature out => Sys2Proof.Machine.execConnectorOvertemperature out s
  | .railRampPause rail dV => Sys2Proof.Machine.execRailRampPause rail dV s
  | .railRampsResume rail amps => Sys2Proof.Machine.execRailRampsResume rail amps s
  | .psRampComplete chan => Sys2Proof.Machine.execPsRampComplete chan s
  | .pcieLinkUp speed width => Sys2Proof.Machine.execPcieLinkUp speed width s
  | .registerRead offset => Sys2Proof.Machine.execRegisterRead offset s
  | .msixUnmask vec => Sys2Proof.Machine.execMsixUnmask vec s
  | .keyReleased allOpen => Sys2Proof.Machine.execKeyReleased allOpen s
  | .ptpSyncAnnounce => Sys2Proof.Machine.execPtpSyncAnnounce s

end Sys2Proof.Machine
end

