-- ==== Sys2Proof/Machine/Step.lean ====
section
/-!
DEFINITION. The step of the module: the command at the front of the queue runs on the state with the queue's rest.
-/

namespace Sys2Proof.Machine

open Sys2Proof

/-- The state with a queue. -/
def State.withQueue (s : State) (q : List Instr) : State := { s with pending := q }

/-- Run the oldest waiting command; on an empty queue the module idles (log entry 1). -/
def step (s : State) : Host.Outcome State Fault Refusal :=
  match s.pending with
  | [] => .next s
  | c :: rest => exec c (s.withQueue rest)

/-- The state with the command that a word spells put at the front of its queue; unchanged where it spells none. -/
def State.withFetchWord (s : State) (nbits w : Nat) : State :=
  match decodeTableWord nbits w with
  | some c => s.withQueue (c :: s.pending)
  | none => s

end Sys2Proof.Machine
end

