-- ==== Sys2Proof/Safety.lean ====
section
/-!
DEFINITION. What counts as a safe run: the canonical form of the register map and of the lid tag's memory, the relation that
every command keeps between the state before it and the state after it, and what it means that an event was raised.
-/

namespace Sys2Proof.Machine

open Sys2Proof

/-- The module's instances are all there: 48 links, two control engines, eight outputs, four reader ports. -/
def State.sized (s : State) : Bool :=
  s.links.length == 48 && s.ces.length == 2 && s.veh.length == 8 && s.nfc.length == 4

/-- The register map and the tag's memory are in their canonical form: equal contents are equal data; and the instances are
all there. -/
def State.wf (s : State) : Bool := Sparse.wfFrom regReset none s.regs && Memory.wf s.tag.mem && s.sized

/-- What every command keeps: the queue, what the event log already holds, the order of the free values, and the canonical
forms. -/
structure State.Keeps (s t : State) : Prop where
  pending : t.pending = s.pending
  log : s.log <:+ t.log
  fresh : s.fresh ≤ t.fresh
  wf : s.wf = true → t.wf = true

/-- The command answers a next state and keeps what every command keeps. -/
def State.KeepsOut (s : State) (o : Host.Outcome State Fault Refusal) : Prop := ∃ t, o = .next t ∧ s.Keeps t

/-- An event with this code and data has been logged between `s` and `t`. -/
def State.Raised (s t : State) (code : Nat) (data : List Nat) : Prop :=
  ∃ e l, e.code = code ∧ e.data = data ∧ s.log <:+ l ∧ (e :: l) <:+ t.log

/-! ### What the statements about control engines speak of (spec/04 R78 to R87) -/

/-- The stage an operand field reads now, an accumulator, and a mask, as the next instruction of CE `c` sees them. -/
def State.src (s : State) (c : Nat) (n : BitVec 7) : Stage := readStage (s.ce c) (s.ctx c) n
def State.acc (s : State) (c : Nat) (n : BitVec 7) : Acc := readAcc (s.ctx c) n
def State.msk (s : State) (c n : Nat) : Word := readMask (s.ctx c) n

/-- Lane `i` is in the mask that K names. -/
def State.inK (s : State) (c : Nat) (k : BitVec 3) (i : Nat) : Bool := inMask (s.msk c k.toNat) i

/-- A stage holds 24-bit mantissas and an exponent of -128 to 127 (spec/04 R78). -/
def Stage.ok (t : Stage) : Bool :=
  decide (-128 ≤ t.e ∧ t.e ≤ 127) && lanes.all fun i => decide (mantMin ≤ t.lane i ∧ t.lane i ≤ mantMax)

/-- An accumulator holds 56-bit lanes and an exponent of -256 to 255 (spec/04 R79). -/
def Acc.ok (a : Acc) : Bool :=
  decide (-256 ≤ a.ea ∧ a.ea ≤ 255) && lanes.all fun i => decide (accMin ≤ a.lane i ∧ a.lane i ≤ accMax)

/-- CE `c` takes an instruction now and does not skip it: the clocks run, it runs a law that has not ended, the operands are
legal, and its operands are all there. -/
def State.ceReady (s : State) (c op : Nat) (d a b : BitVec 7) (k : BitVec 3) : Bool :=
  s.wf && s.clocked && s.ceTakes c (legalOperands op d a b k) && (s.ctx c).skip == 0 && (s.ctx c).acc.length == 4
    && (s.ctx c).st.length == 32 && (s.ctx c).dn.length == 3 && (s.ctx c).k.length == 8 && (s.ce c).com.k.length == 8

/-- `t` differs from `s` in the operands of CE `c` only in accumulator `d`, which has exponent `ea` and lanes `f`. -/
def State.AccSet (s : State) (c : Nat) (d : BitVec 7) (ea : Int) (f : Nat → Int) (t : State) : Prop :=
  (t.acc c d).ea = ea ∧ (∀ i < 32, (t.acc c d).lane i = f i) ∧
  (∀ n, isAcc n = true → n ≠ d → t.acc c n = s.acc c n) ∧
  (t.ctx c).st = (s.ctx c).st ∧ (t.ctx c).dn = (s.ctx c).dn ∧ (t.ctx c).k = (s.ctx c).k

/-- The same for a stage that a store writes. -/
def State.StageSet (s : State) (c : Nat) (d : BitVec 7) (e : Int) (f : Nat → Int) (t : State) : Prop :=
  (t.src c d).e = e ∧ (∀ i < 32, (t.src c d).lane i = f i) ∧ (∀ n, n ≠ d → t.src c n = s.src c n) ∧
  (t.ctx c).acc = (s.ctx c).acc ∧ (t.ctx c).k = (s.ctx c).k

/-- The same for a mask. -/
def State.MaskSet (s : State) (c : Nat) (d : BitVec 7) (f : Nat → Bool) (t : State) : Prop :=
  (∀ i < 32, inMask (t.msk c d.toNat) i = f i) ∧ (∀ n, n ≠ d.toNat → t.msk c n = s.msk c n) ∧
  (t.ctx c).st = (s.ctx c).st ∧ (t.ctx c).dn = (s.ctx c).dn ∧ (t.ctx c).acc = (s.ctx c).acc

/-- Between `s` and `t` command `cmd` was given to link `n`, which is not in TRAIN: it goes out in 4 frames from now on, or follows
what is under way (spec/03 R56). -/
def State.Sent (s t : State) (n cmd arg : Nat) : Prop :=
  s.lst n ≠ 2 →
    ((s.lk n).cmdLeft = 0 → (t.lk n).cmd = cmd ∧ (t.lk n).cmdArg = arg ∧ (t.lk n).cmdLeft = 4) ∧
    ((s.lk n).cmdLeft ≠ 0 → (t.lk n).cmdNext.getLastD ((t.lk n).cmd, (t.lk n).cmdArg) = (cmd, arg))

/-! ### What the statements about vehicles and rings speak of -/

/-- The dialogue of output `j` takes requests now, in session state `st` (spec/06 Tables 6.5 and 6.7). -/
def State.takesReq (s : State) (j st : Nat) : Bool := s.wf && s.clocked && s.dialog j && s.sstate j == st

/-- Ring `n` of type `t` has descriptor `q`, which has no deadline, ready for operation `op` (spec/14 R336 to R339). -/
def State.awaits (s : State) (n t op : Nat) (q : JSlot) : Bool :=
  s.wf && s.clocked && s.rtype n == t && s.ringRuns n && s.nextDesc n op == some q && q.d.deadline == 0
    && ((s.ring n).slots.filter fun x => x.num == q.num).length == 1

/-- The descriptor in journal slot `num` of ring `n` is completed with a status and RESULT (spec/14 R333, R342). -/
def State.Answered (t : State) (n num status result : Nat) : Prop :=
  ∃ x c, x ∈ (t.ring n).slots ∧ x.num = num ∧ x.step = 3 ∧ x.comp = some c ∧ c.status = status ∧ c.result = result % 2 ^ 32

/-- The parts of the state: one for each field of `State`. -/
inductive Part where
  | pending | regs | log | timers | hostRead | fresh | glb | tim | links | linkc | ces | sh | veh | vehc | met | leg | isl | ps
  | pnl | nfc | tag | ml | host | keys | mem | sys | twin
deriving DecidableEq, Repr

/-- A part is the same in two states. -/
def State.Same (s t : State) : Part → Prop
  | .pending => t.pending = s.pending
  | .regs => t.regs = s.regs
  | .log => t.log = s.log
  | .timers => t.timers = s.timers
  | .hostRead => t.hostRead = s.hostRead
  | .fresh => t.fresh = s.fresh
  | .glb => t.glb = s.glb
  | .tim => t.tim = s.tim
  | .links => t.links = s.links
  | .linkc => t.linkc = s.linkc
  | .ces => t.ces = s.ces
  | .sh => t.sh = s.sh
  | .veh => t.veh = s.veh
  | .vehc => t.vehc = s.vehc
  | .met => t.met = s.met
  | .leg => t.leg = s.leg
  | .isl => t.isl = s.isl
  | .ps => t.ps = s.ps
  | .pnl => t.pnl = s.pnl
  | .nfc => t.nfc = s.nfc
  | .tag => t.tag = s.tag
  | .ml => t.ml = s.ml
  | .host => t.host = s.host
  | .keys => t.keys = s.keys
  | .mem => t.mem = s.mem
  | .sys => t.sys = s.sys
  | .twin => t.twin = s.twin

/-- Nothing but the parts listed differs between `s` and `t`. -/
def State.Only (s : State) (l : List Part) (t : State) : Prop := ∀ p, p ∉ l → s.Same t p

/-- The parts of the state that a command can change; all the others stay as they are. -/
def touched : Instr → List Part
  | .powerUp _ _ | .scStartupTimeout | .legalCommitOverrun | .watchdogTimeout _ | .lockstepMismatch | .setLimited _
  | .updateVerify _ | .activationFail | .updateConfirm _ | .trialConfirmTimer | .deferredStart | .cvuSweep _ _ _
  | .cvuGuardHit _ _ _ | .mdReqCommission | .mdReqStandby | .mdReqRun | .mdReqBench | .mdReqStart | .standbyEntry =>
    [.regs, .log, .timers, .glb, .tim, .links, .ces, .sh, .veh, .vehc, .met, .leg, .isl,
     .ps, .pnl, .ml, .host, .keys, .sys, .twin]
  | .moduleStart _ =>
    [.regs, .log, .timers, .fresh, .glb, .tim, .links, .ces, .sh, .veh, .vehc, .met, .leg, .isl, .ps,
     .pnl, .tag, .ml, .host, .keys, .mem, .sys, .twin]
  | .registerWrite _ _ | .sinChannelChange _ _ _ | .supplyRestart _ _ =>
    [.regs, .log, .timers, .fresh, .glb, .tim, .links, .ces, .sh, .veh, .vehc, .met, .leg, .isl,
     .ps, .pnl, .tag, .ml, .host, .keys, .sys, .twin]
  | .unsupportedAccess _ _ _ => []
  | .readOffDomain _ _ => [.regs, .log, .hostRead, .glb, .ces]
  | .commit => [.regs, .log, .glb, .tim, .links, .ces, .veh, .ps, .tag, .keys]
  | .domainRailLost _ => [.regs, .log, .timers, .glb, .links, .ces, .sh, .isl, .ps, .pnl, .ml, .host]
  | .frontEndSupplyFault _ => [.regs, .log, .glb, .ces]
  | .barrierTransferBad _ _ _ => [.regs, .log, .glb, .ces, .met]
  | .zoneDiffExceeded | .zoneDiffCleared | .coolingRestored _ | .timeLeapWrite _ | .nop _ _ _ _ _
  | .endProgram _ _ _ _ _ | .lda _ _ _ _ _ | .ada _ _ _ _ _ | .sba _ _ _ _ _ | .mul _ _ _ _ _ | .mac _ _ _ _ _
  | .msu _ _ _ _ _ | .zra _ _ _ _ _ | .min _ _ _ _ _ | .max _ _ _ _ _ | .clp _ _ _ _ _ | .abs _ _ _ _ _
  | .neg _ _ _ _ _ | .exa _ _ _ _ _ | .rcp _ _ _ _ _ | .sel _ _ _ _ _ | .rsum _ _ _ _ _ | .rmax _ _ _ _ _
  | .sprd _ _ _ _ _ | .stf _ _ _ _ _ | .stn _ _ _ _ _ | .mov _ _ _ _ _ | .cgt _ _ _ _ _ | .cge _ _ _ _ _
  | .kand _ _ _ _ _ | .kor _ _ _ _ _ | .knot _ _ _ _ _ | .skz _ _ _ _ _ | .trg _ _ _ _ _ | .swap _ | .coefSwapApply _
  | .cupTrig _ _ | .cupDone _ _ | .cupStreamRecord _ _ | .psOn _ _ | .psReadbackMismatch _ | .soSupFault _
  | .logicInputExcursion _ _ => [.regs, .log, .ces]
  | .cfTick => [.regs, .log, .timers, .tim, .links, .linkc, .ces, .sh, .sys]
  | .sfTick _ =>
    [.regs, .log, .timers, .glb, .tim, .links, .linkc, .ces, .sh, .veh, .vehc, .met, .leg, .isl, .ps, .pnl,
     .nfc, .tag, .ml, .host, .keys, .mem, .sys, .twin]
  | .allocatorSlot | .coolingFailed _ => [.regs, .log, .ces, .sh]
  | .moveStepEnd _ | .linkLost _ | .blockClockFault _ | .retrain _ | .stopLineAssert _ | .frozenFeedback _ _ =>
    [.regs, .log, .timers, .links, .ces, .sh]
  | .moveStepTimeout _ => [.regs, .log, .timers, .ces, .sh]
  | .mxExclClear _ _ | .bnHold _ | .storeCharged _ | .psRampComplete _ => [.regs]
  | .ceExclClear _ _ | .cupArm _ _ => [.regs, .ces]
  | .pumpRunonEnd _ => [.timers, .sh]
  | .leapSecondApply => [.regs, .log, .tim, .linkc, .ces, .leg]
  | .gnssPpsEdge _ | .gnssMessage _ | .ppsMissing => [.regs, .log, .tim, .ces]
  | .correctionApply => [.regs, .log, .timers, .tim, .linkc, .ces, .leg, .host]
  | .slewEnd => [.regs, .log, .timers, .tim, .linkc, .ces]
  | .setTime _ => [.regs, .log, .timers, .tim, .ces, .host]
  | .ptpDelayRequest _ _ => [.tim]
  | .upstreamFrame _ _ | .controlledStopStage2 _ | .contactorCurrentTimeout _ =>
    [.regs, .log, .timers, .links, .ces, .sh, .isl]
  | .arrivalDrift _ | .ceWindowStart _ _ | .thirdLawOverrun _ | .outputFeedbackLost _ _ => [.regs, .log, .links, .ces]
  | .commaLock _ | .trainTimeout _ | .linkRetry _ | .linkSilent _ | .stopLineRelease _ =>
    [.regs, .log, .timers, .links, .ces]
  | .trainMeasurement _ _ _ _ => [.regs, .links]
  | .startSend _ => [.links]
  | .ceWindowEnd _ => [.regs, .log, .tim, .links, .ces, .mem]
  | .pilotStateAccepted _ _ _ | .mcsLineStateAccepted _ _ _ => [.regs, .log, .timers, .ces, .sh, .veh, .vehc, .leg]
  | .cmSlacParmReq _ => [.fresh, .veh]
  | .cmValidate _ | .seccDiscoveryReq _ => [.veh]
  | .slacMatch _ _ | .certTmo _ | .stopCurrentZero _ => [.regs, .log, .timers, .ces, .veh]
  | .plcaLinkUp _ | .antennaFault _ | .benchWindowExpiry => [.regs, .log, .timers, .ces]
  | .phySignalLost _ | .tlsHandshake _ _ _ _ | .tcpClosed _ | .supportedAppProtocolReq _ _ _ _
  | .serviceDiscoveryReq _ | .serviceDetailReq _ | .serviceSelectionReq _ _ _ | .paymentDetailsReq _ _ _
  | .certificateInstallationReq _ _ | .authorizationReq _ _ _ | .chargeParameterDiscoveryReq _ _
  | .scheduleExchangeReq _ | .cableCheckReq _ | .prechargeReq _ _ | .powerDeliveryReq _ _ | .chargeLoopReq _ _
  | .meteringReceiptReq _ | .weldingDetectionReq _ | .sessionStopReq _ | .unsupportedRequest _ | .slacTmo _
  | .setupTmo _ | .seqTmo _ | .authTmo _ | .ccTmo _ | .pcTmo _ | .loopTmo _ | .stopTmo _ | .resumeWin _
  | .lockConfirmTimeout _ | .paramModeTimeout _ | .weldcheckTimeout _ | .vdCtrlStop _ | .vdCtrlJoin _ _ =>
    [.regs, .log, .timers, .ces, .veh, .vehc, .leg]
  | .sessionSetupReq _ _ _ => [.regs, .log, .timers, .ces, .sh, .veh, .vehc, .leg, .nfc]
  | .paymentSelectionReq _ _ => [.regs, .log, .timers, .ces, .veh, .vehc, .leg, .nfc]
  | .joinWin _ | .tokenLockExpiry => [.regs, .timers]
  | .commRetry _ => [.timers, .veh]
  | .offsetCapture _ | .harmonicWindowEnd _ => [.regs, .log, .ces, .met]
  | .rotationStepStart _ => [.regs, .timers, .met]
  | .rotationStepEnd _ _ => [.regs, .log, .timers, .ces, .met]
  | .metSnap => [.met]
  | .metSnapRelease => [.regs, .met]
  | .recordSigned _ | .signingRetry _ _ => [.regs, .log, .timers, .ces, .leg]
  | .get _ => [.regs, .log, .timers, .ces, .leg, .host]
  | .set _ _ => [.regs, .log, .timers, .fresh, .ces, .met, .leg, .host]
  | .action _ _ | .activationPauseEnd _ _ =>
    [.regs, .log, .timers, .fresh, .glb, .tim, .links, .ces, .sh, .veh, .vehc, .met, .leg, .isl,
     .ps, .pnl, .ml, .host, .keys, .sys, .twin]
  | .guardInputAccept _ _ | .testPulse _ _ _ | .clockMonitorFault | .islandSupplyFault _ _ | .soReadbackFault _ _ _
  | .soTestPulse _ _ _ _ =>
    [.regs, .log, .timers, .glb, .links, .ces, .sh, .veh, .vehc, .leg, .isl, .ps, .pnl, .ml, .sys, .twin]
  | .resetLatentComplete _ =>
    [.regs, .log, .timers, .glb, .links, .ces, .sh, .veh, .vehc, .leg, .isl, .ps, .pnl, .ml, .sys]
  | .discrepancyFault _ | .latentTestDue _ _ => [.regs, .log, .ces, .isl]
  | .comparatorTrip _ _ _ | .pilotLossTrip _ | .fastEarthFault _ | .pathDisagreement _ | .insulationResult _ _ _
  | .soOvercurrent _ | .connectorOvertemperature _ =>
    [.regs, .log, .timers, .links, .ces, .sh, .veh, .vehc, .leg, .isl]
  | .pairOffDelay _ => [.timers, .isl]
  | .weldTestEnd _ _ | .weldCheckEnd _ _ _ _ => [.regs, .log, .timers, .ces, .veh, .vehc, .leg, .isl]
  | .degradedExpiry => [.regs, .log, .timers, .ces, .sh, .isl]
  | .safetyCandidate _ | .safetyConfirm _ | .confirmWindowExpiry => [.regs, .log, .timers, .ces, .isl, .host]
  | .safetyReset _ =>
    [.regs, .log, .timers, .glb, .links, .ces, .sh, .veh, .vehc, .leg, .isl, .ps, .pnl, .ml, .host, .sys]
  | .fetchTrap _ _ _ _ _ | .mergeDrain _ _ _ _ | .scrubTile _ _ _ =>
    [.regs, .log, .timers, .glb, .tim, .links, .ces, .sh, .veh, .vehc, .met, .leg, .isl, .ps,
     .pnl, .ml, .host, .keys, .mem, .sys, .twin]
  | .refreshFrame _ | .serialWatchdogExpiry | .currentLimitTrip _ | .rampTimeout _ | .wireModelUpdate _ _ _
  | .dieTempCheck _ _ | .psRetry _ | .railOvercurrent _ _ _ | .railGuardShed _ _ | .railRecovered _ _ _ =>
    [.regs, .log, .timers, .ces, .sh, .ps]
  | .psClr _ | .openLoad _ | .railRampsResume _ _ => [.regs, .log, .ces, .ps]
  | .retryRestore _ | .railRampPause _ _ => [.regs, .ps]
  | .railUndervoltage _ _ _ => [.regs, .log, .timers, .ces, .ps]
  | .panelUpdateRequest _ _ _ _ _ _ _ | .pd8IdleOff | .panelTempWake _ | .keypadWake | .keyDigit | .keyD
  | .stripRedraw | .pageTimeout | .legalLineRedraw _ | .storeEnd =>
    [.regs, .log, .timers, .glb, .links, .ces, .sh, .ps, .pnl, .ml]
  | .panelFrame _ _ _ | .keyAccepted _ _ => [.regs, .log, .ces, .pnl]
  | .panelRailFault _ _ | .panelRailStep _ _ | .keyC | .keyTimeout => [.regs, .log, .timers, .ces, .pnl]
  | .panelRailRetry _ | .keyA | .keyStar => [.regs, .timers, .pnl]
  | .keyHash => [.regs, .log, .timers, .ces, .veh, .leg, .pnl]
  | .pollCycle _ _ _ _ => [.regs, .log, .timers, .ces, .veh, .vehc, .leg, .pnl, .nfc]
  | .antennaRetry _ => [.regs, .timers, .nfc]
  | .cardHoldExpiry _ => [.regs, .log, .timers, .ces, .nfc]
  | .apdu _ _ | .dbTail _ _ _ | .completionDelivery _ _ | .descriptorExpired _ _ | .disable _ | .resume _
  | .recvEvents _ _ | .recvTrace _ _ | .keyPublic _ | .attest _ | .fvkRevoke _ _ =>
    [.regs, .log, .timers, .ces, .host]
  | .tagPowerUp _ | .tagFieldLost | .tagWrite _ _ _ | .hlta => [.regs, .tag]
  | .fieldDetected => [.regs, .log, .timers, .ces, .tag]
  | .tagRead _ _ => [.tag]
  | .auth1 _ => [.fresh, .tag]
  | .auth2 _ | .mark | .mirrorWrite _ => [.regs, .log, .ces, .tag]
  | .page => [.regs, .log, .timers, .glb, .links, .ces, .sh, .ps, .pnl, .tag, .ml]
  | .snap => [.regs, .timers, .tag]
  | .statusSnapshot _ => [.timers, .tag]
  | .mallasCycle _ | .mallasAnswer _ _ _ _ => [.regs, .log, .timers, .ces, .ml]
  | .mallasExchangeFail _ _ _ _ | .slaveLost _ | .discoveryAnswer _ _ _ => [.regs, .log, .ces, .ml]
  | .discovery => [.timers, .ml]
  | .timeFrame => [.ml]
  | .dbChead _ _ => [.regs, .log, .ces, .leg, .host]
  | .coalesceTimeout _ | .msixUnmask _ => [.host]
  | .enable _ | .linkDown | .functionLevelReset | .pcieLinkUp _ _ => [.regs, .log, .ces, .host]
  | .flush _ | .recvRecord _ _ => [.regs, .log, .timers, .ces, .vehc, .leg, .host]
  | .recvReq _ _ => [.regs, .log, .timers, .ces, .vehc, .host]
  | .answer _ | .stop _ => [.regs, .log, .timers, .ces, .veh, .vehc, .leg, .host]
  | .price _ _ => [.regs, .log, .timers, .ces, .veh, .host]
  | .roleChallenge _ | .keyGenerate _ => [.regs, .log, .timers, .fresh, .ces, .host, .keys]
  | .roleOpen _ | .roleClose _ | .keyImport _ | .keyDelete _ | .certInstall _ | .updateOpen _ | .updateWrite _
  | .updateAbort _ | .activate _ => [.regs, .log, .timers, .ces, .host, .keys]
  | .roleSessionTimeout _ => [.regs, .log, .timers, .ces, .keys]
  | .keyFlip _ => [.regs, .log, .ces, .leg, .keys]
  | .correctionWriteBack _ _ _ _ | .scrubPassLate _ => [.regs, .log, .ces, .mem]
  | .standbyStopTimeout => [.regs, .log, .timers, .ces, .sh, .veh, .vehc, .leg, .isl]
  | .bnStep _ => [.regs, .sys]
  | .benchStepDone => [.regs, .log, .ces, .sys]
  | .holdEntry _ _ _ _ => [.regs, .log, .ces, .veh, .met, .leg]
  | .holdEnd _ _ => [.regs, .log, .ces, .veh]
  | .storeSwitch _ _ => [.regs, .log, .timers, .glb, .links, .ces, .sh, .met, .ps, .pnl, .ml, .keys, .sys, .twin]
  | .sheddingStep => [.regs, .log, .timers, .glb, .links, .ces, .sh, .ps, .pnl, .ml, .host, .sys]
  | .holdupFinalCommit => [.regs, .log, .timers, .glb, .links, .ces, .sh, .ps, .pnl, .ml, .sys]
  | .endOfStore _ _ => [.regs, .log, .fresh, .ces, .met, .leg, .tag, .host, .sys]
  | .storeTest _ | .captureEngineTest _ => [.regs, .log, .timers, .ces, .isl, .sys]
  | .freezeNAsserted | .frzReq =>
    [.regs, .log, .timers, .glb, .links, .ces, .sh, .veh, .vehc, .met, .leg, .isl, .ps,
     .pnl, .tag, .ml, .host, .keys, .sys, .twin]
  | .freezeClockStop =>
    [.regs, .log, .timers, .glb, .links, .ces, .sh, .veh, .vehc, .met, .leg, .isl,
     .ps, .pnl, .tag, .ml, .host, .sys]
  | .captureEnd _ _ _ =>
    [.regs, .log, .timers, .glb, .tim, .links, .ces, .sh, .veh, .vehc, .met, .leg, .isl, .ps,
     .pnl, .tag, .ml, .host, .keys, .sys, .twin]
  | .capRead _ _ | .readIndex _ => [.sys]
  | .pairingRecord _ _ _ _ => [.regs, .log, .ces, .twin]
  | .mirrorFrame _ _ _ => [.regs, .log, .timers, .tim, .ces, .veh, .vehc, .leg, .isl, .host, .twin]
  | .handover _ => [.twin]
  | .tokenTakeover => [.regs, .log, .timers, .tim, .links, .linkc, .ces, .sh, .veh, .vehc, .leg, .isl, .twin]
  | .twinLinkLost => [.regs, .log, .tim, .ces, .twin]
  | .registerRead _ => [.regs, .log, .hostRead, .fresh, .glb, .tim, .ces]
  | .keyReleased _ => [.pnl]
  | .ptpSyncAnnounce => [.timers, .tim]

/-- The commands that act in every mode, the functional clocks running or not: what the supplies, the pins, the tag's field, the
capture port and a start bring (spec/17 R399, R412). All the others act only while those clocks run. -/
def actsUnclocked : Instr → Bool
  | .powerUp _ _ | .moduleStart _ | .domainRailLost _ | .sfTick _ | .sinChannelChange _ _ _ | .panelRailStep _ _
  | .tagPowerUp _ | .fieldDetected | .tagFieldLost | .tagRead _ _ | .tagWrite _ _ _ | .auth1 _ | .auth2 _ | .hlta
  | .mark | .page | .snap | .statusSnapshot _ | .mirrorWrite _ | .mdReqCommission | .mdReqStandby | .mdReqRun
  | .mdReqBench | .mdReqStart | .logicInputExcursion _ _ | .holdEntry _ _ _ _ | .holdEnd _ _ | .storeSwitch _ _
  | .endOfStore _ _ | .supplyRestart _ _ | .storeCharged _ | .freezeNAsserted | .frzReq | .captureEnd _ _ _
  | .capRead _ _ | .readIndex _ | .storeEnd => true
  | _ => false

/-- Offsets of the CUP_STAT registers: an event may trigger cupping buffers, and changes no other register (spec/04 R104). -/
def isCupStat (o : Nat) : Bool := (allCups.map fun p => R_CUP_STAT p.1 p.2).contains o

/-- No register differs but those listed, and CUP_STAT registers where an event was raised. -/
def State.RegsOnly (s : State) (l : List Nat) (t : State) : Prop := ∀ o, o ∉ l → isCupStat o = false → t.reg o = s.reg o

end Sys2Proof.Machine
end

