-- ==== Sys2Proof/WellFormed.lean ====
section
/-!
DEFINITION. Well-formed commands: the operands a sender can present. Every command has its effect whether well-formed or not;
the predicate says which terms stand for something that can reach the module.
-/

namespace Sys2Proof

/-- BAR0 is a window of 2 MiB (spec/00 R4), and host software accesses it with aligned 32-bit accesses (spec/14 R328). -/
def bar0Offset (off : Nat) : Bool := decide (off < 0x200000) && off % 4 == 0

/-- A register access reaches BAR0, or BAR2 or the configuration space, which the model puts at 0x20_0000 and 0x40_0000 (log entry 80). -/
def hostOffset (off : Nat) : Bool :=
  (decide (off < 0x220000) || (decide (0x400000 ≤ off) && decide (off < 0x401000))) && off % 4 == 0

/-- A start presents two banks, causes of KB_BOOT.RCAUSE and tiles of the nine memories (spec/15 R368, spec/16 R390). -/
def StartIn.wf (i : StartIn) : Bool :=
  i.bankOk.length == 2 && decide (i.cause < 16) && i.tilesBad.all fun t => decide (t.1 < 9)

/-- A law image has a 16-bit identifier, a latency of 1 or 2 CFs, ST0 to ST31 and K4 to K7 (spec/04 R87). -/
def LawImage.wf (i : LawImage) : Bool :=
  decide (i.id < 65536) && (i.lat == 1 || i.lat == 2) && i.st.length == 32 && i.k47.length == 4

/-- The world at an SF tick: eight outputs, three zones, two feeds, ten items of work (spec/01 R16, spec/02 Table 2.2, spec/00 Table 0.1). -/
def SfIn.wf (i : SfIn) : Bool :=
  i.isl.length == 8 && i.pt.length == 8 && i.zones.length == 3 && i.met.length == 8 && i.feeds.length == 2 && i.late.length == 10
    && i.rails.length == 4 && i.coils.length == 8 && i.unwr.all fun u => decide (u.1 < 9)

/-- Four fast-path samples come at a CF tick, one for each output lane of a CE (spec/04 R76). -/
def fastWf (l : List FastSample) : Bool := l.length == 4

/-- A GNSS message names a second of its day (spec/02 R38). -/
def GnssMsg.wf (m : GnssMsg) : Bool := decide (m.sec ≤ 86400)

/-- 256 round trips, each between the least and the greatest (spec/03 R60). -/
def trainWf (sum least most : Nat) : Bool := decide (least ≤ most ∧ 256 * least ≤ sum ∧ sum ≤ 256 * most)

/-- A command frame of the lid tag carries fewer than 256 bytes (spec/12 R307). -/
def tagLen (n : Nat) : Bool := decide (n < 256)

/-- UID of 4, 7 or 10 bytes under ISO/IEC 14443 A, PUPI of 4 under B, UID of 8 under ISO/IEC 15693 (spec/12 R302). -/
def Card.wf (c : Card) : Bool :=
  if c.prot = 0 then c.uid.length == 4 || c.uid.length == 7 || c.uid.length == 10
  else if c.prot = 1 then c.uid.length == 4 else c.uid.length == 8

/-- A tile has its words and a column word (spec/16 Table 16.1). -/
def MemTile.wf (t : MemTile) : Bool := decide (1 ≤ t.words.length)

/-- A rectangle with an area (spec/11 R286). -/
def rectWf (w h : Nat) : Bool := decide (1 ≤ w ∧ 1 ≤ h)

/-- The well-formed commands. -/
def Instr.wf : Instr → Bool
  | .moduleStart i => i.wf && i.laws.all fun l => (l.map LawImage.wf).getD true
  | .activationPauseEnd laws _ => laws.all fun l => (l.map LawImage.wf).getD true
  | .registerWrite off _ => hostOffset off
  | .registerRead off => hostOffset off
  | .readOffDomain _ off => bar0Offset off
  | .unsupportedAccess bar off width => decide (bar < 6) && !(width == 4 && off % 4 == 0)
  | .sfTick i => i.wf
  | .gnssMessage m => m.wf
  | .trainMeasurement _ sum least most => trainWf sum least most
  | .ceWindowStart _ fast => fastWf fast
  | .tagRead _ n => tagLen n
  | .tagWrite _ data _ => tagLen data.length
  | .panelUpdateRequest _ _ _ w h _ _ => rectWf w h
  | .correctionWriteBack _ _ t _ => t.wf
  | .mergeDrain _ _ _ t => t.wf
  | .scrubTile _ t _ => t.wf
  | .railGuardShed _ amps => amps.length == 6
  | .stopLineAssert links => !links.isEmpty
  | .railOvercurrent _ _ amps => amps.length == 6
  | .railRampsResume _ amps => amps.length == 6
  | .pollCycle _ _ _ cards => cards.all Card.wf
  | _ => true

end Sys2Proof
end

