-- ==== Sys2Proof/Certificates/Slice0/Obligations.lean ====
section
/-!
DEFINITION. The statements about the module that provers settle: what every command keeps, what each family of commands does,
and where a command completes.
-/

open Sys2Proof Sys2Proof.Machine

/-- For every state and every command c at the front of its queue, step is exec of c on the state with the queue's rest; on an empty queue step answers the same state. The queue and its idling are the model's own (log entry 1). -/
def Obligations.FrontCommandRuns : Prop :=
  (∀ (s : State) (c : Instr) (rest : List Instr), s.pending = c :: rest → step s = exec c (s.withQueue rest)) ∧
  (∀ s : State, s.pending = [] → step s = .next s)

/-- State.reset has an empty queue and an empty event log, GLB_MODE.MODE is BOOT (0), its register map and tag memory are canonical, and every register holds the value regReset gives it. -/
def Obligations.ResetStateIsCanonical : Prop :=
  State.reset.wf = true ∧ State.reset.pending = [] ∧ State.reset.log = [] ∧ State.reset.mode = 0 ∧
  ∀ o, State.reset.reg o = regReset o

/-- From every state whose register map and tag memory are canonical, if step answers next t then t is canonical too, its queue is the old queue without its first command, the event log of the old state is a suffix of the new one (events are only ever added), and the counter of free values does not go back. -/
def Obligations.StepKeepsStateCanonical : Prop :=
  ∀ s t : State, s.wf = true → step s = .next t →
    t.wf = true ∧ t.pending = s.pending.tail ∧ s.log <:+ t.log ∧ s.fresh ≤ t.fresh

/-- For every state, step answers a next state: no command of the module's table stops it. -/
def Obligations.EveryStepAnswersNext : Prop :=
  ∀ s : State, ∃ t, step s = .next t

/-- For every command c and every state s, if exec c s answers next t, then every field of the state that `touched c` does not list is the same in t as in s. The list is the frame of each command: no vehicle request changes the Safety Island's state, no Mallas exchange changes a legal register, no command of a control engine changes a timer, and no command but the queue's own step changes the queue. -/
def Obligations.CommandsKeepOtherParts : Prop :=
  ∀ (c : Instr) (s t : State), exec c s = .next t → s.Only (touched c) t

/-- In a state whose functional clocks do not run (mode FROZEN, or PD0 off), every command that is not one of the supplies', the pins', the tag's, the capture port's or a start's (`actsUnclocked`) answers the same state. -/
def Obligations.StoppedClocksHoldState : Prop :=
  ∀ (c : Instr) (s : State), s.clocked = false → actsUnclocked c = false → exec c s = .next s

/-- For every canonical state, code and data, `State.event` leaves in the log, directly above the old log, an entry with that code, those data, the legal time of the instant, the UTC offset in force, the mark of an invalid time and, while PD2 is off, the number of that outage, 0 otherwise; only CUP_STAT registers change (a cupping buffer of KIND 4 may trigger), and no part of the state but the registers, the log and the control engines. -/
def Obligations.EventEntersTheLog : Prop :=
  ∀ (s : State) (code : Nat) (data : List Nat), s.wf = true →
    ((⟨code, data, s.now, s.fldS TIME_UTC_UTC_OFS, !s.flag TIME_STATUS_VALID, if s.pdGood 2 = true then 0 else s.glb.outages + 1⟩
      :: s.log) <:+ (s.event code data).log) ∧
    s.RegsOnly [] (s.event code data) ∧ s.Only [.regs, .log, .ces] (s.event code data)

/-- For every command of a control engine's instruction set on CE c, the 32-bit word that the encoding of Table 4.5 gives it (OP in bits 31:24, D in 23:17, A in 16:10, B in 9:3, K in 2:0) decodes to the same instruction with the same operands; and every word that decodes is the encoding of what it decodes to. -/
def Obligations.LawWordsRoundTrip : Prop :=
  (∀ (c : Fin 2) (d a b : BitVec 7) (k : BitVec 3) (i : Instr) (w : Word),
    i ∈ [.nop c d a b k, .endProgram c d a b k, .lda c d a b k, .ada c d a b k, .sba c d a b k, .mul c d a b k,
      .mac c d a b k, .msu c d a b k, .zra c d a b k, .min c d a b k, .max c d a b k, .clp c d a b k, .abs c d a b k,
      .neg c d a b k, .exa c d a b k, .rcp c d a b k, .sel c d a b k, .rsum c d a b k, .rmax c d a b k,
      .sprd c d a b k, .stf c d a b k, .stn c d a b k, .mov c d a b k, .cgt c d a b k, .cge c d a b k,
      .kand c d a b k, .kor c d a b k, .knot c d a b k, .skz c d a b k, .trg c d a b k] →
    lawEncode i = some w → lawDecode c w = some i) ∧
  (∀ (c : Fin 2) (w : Word) (i : Instr), lawDecode c w = some i → lawEncode i = some w)

/-- While the clocks run, an access that is not an aligned 32-bit access answers the same state (UNSUPPORTED_ACCESS). A read of a reserved offset of BAR0 gives the host 0 and changes nothing else, and a write of a reserved offset of BAR0 outside the Safety Island's mirror changes nothing. With the link up, a doorbell of BAR2 reads 0 and an MSI-X entry reads as its address, data and mask bit; a write of an entry's data word replaces that word, and no register. Where BAR2 stands among the offsets of these commands is the model's choice (log entry 80). -/
def Obligations.ReservedOffsetsReadZero : Prop :=
  ∀ s : State, s.clocked = true →
    (∀ bar off width, exec (.unsupportedAccess bar off width) s = .next s) ∧
    (∀ off, off < bar2Base → findReg off = none → exec (.registerRead off) s = .next { s with hostRead := 0 }) ∧
    (∀ off w, off < bar2Base → findReg off = none → off / 0x10000 ≠ 8 → exec (.registerWrite off w) s = .next s) ∧
    (s.host.linkUp = true →
      (∀ off, bar2Base ≤ off → off < bar2Base + 0x10000 → exec (.registerRead off) s = .next { s with hostRead := 0 }) ∧
      (∀ v : Fin 64, ∃ t, exec (.registerRead (bar2Base + 0x10000 + 16 * v + 8)) s = .next t ∧
        t.hostRead = loW (nth (0, 0) s.host.msix v).2 ∧ s.Only [.hostRead] t) ∧
      (∀ v : Fin 64, ∃ t, exec (.registerRead (bar2Base + 0x10000 + 16 * v + 12)) s = .next t ∧
        t.hostRead = (if nth false s.host.mask v = true then 1 else 0) ∧ s.Only [.hostRead] t) ∧
      (∀ (v : Fin 64) (w : Word), s.host.msix.length = 64 →
        ∃ t, exec (.registerWrite (bar2Base + 0x10000 + 16 * v + 8) w) s = .next t ∧
          nth (0, 0) t.host.msix v = ((nth (0, 0) s.host.msix v).1, w.toNat) ∧
          (∀ u, u ≠ v.val → nth (0, 0) t.host.msix u = nth (0, 0) s.host.msix u) ∧ s.Only [.host] t))

/-- For a field of a register and the word a host writes: an RW field takes the value and no other register and no other field changes; an RO field keeps its value without an event; any bit written as 1 to a W1C counter field clears the field and a 0 leaves it; an LK field written with the value it shows is no write; an LK field outside COMMISSION and BENCH before commit keeps its value and raises E:0xDDF1 with the register's offset and the number of its instance, where it has one; inside, no register in force changes, since the value waits for the commit (R402); a SIW field written with another value raises E:0xDDF2. The shadow coefficients of R91 are the one LK exception and are excluded from the two LK clauses. -/
def Obligations.HostWritesObeyAccessTypes : Prop :=
  ∀ (s : State) (w : Word) (off : Nat) (f : FieldSpec), s.wf = true → f.lsb ≤ f.msb → f.msb < 32 →
    (f.acc = [.rw] →
      ((State.writeField w off s f).fld ⟨off, f.msb, f.lsb⟩ = getBits w f.msb f.lsb) ∧
      s.RegsOnly [off] (State.writeField w off s f) ∧
      ∀ g : Fld, g.reg = off → (g.msb < f.lsb ∨ f.msb < g.lsb) → (State.writeField w off s f).fld g = s.fld g) ∧
    (f.acc = [.ro] → State.writeField w off s f = s) ∧
    (f.acc = [.w1c] →
      (getBits w f.msb f.lsb = 0 → State.writeField w off s f = s) ∧
      (getBits w f.msb f.lsb ≠ 0 →
        (State.writeField w off s f).fld ⟨off, f.msb, f.lsb⟩ = 0 ∧ s.RegsOnly [off] (State.writeField w off s f))) ∧
    (f.acc = [.lk] → getBits w f.msb f.lsb = getBits (s.shown off) f.msb f.lsb → State.writeField w off s f = s) ∧
    (f.acc = [.lk] → getBits w f.msb f.lsb ≠ getBits (s.shown off) f.msb f.lsb → isShadow off = false →
      (s.unlocked = false → State.writeField w off s f = s.event (off / 0x10000 * 0x100 + 0xF1) (off :: (offInst off).toList.map (·.2))) ∧
      (s.unlocked = true → s.Only [.glb] (State.writeField w off s f))) ∧
    (f.acc = [.siw] → getBits w f.msb f.lsb ≠ s.fld ⟨off, f.msb, f.lsb⟩ →
      State.writeField w off s f = s.event (off / 0x10000 * 0x100 + 0xF2) (off :: (offInst off).toList.map (·.2)))

/-- While the clocks run: (REGISTER_WRITE) a write of KEY_SEL replaces its SLOT field and nothing else; a write aimed at the Safety Island's mirror leaves every register but GLB_ISO_VIOL and GLB_STATUS as it is, leaves the Island's state as it is, sets ISO_WR, records initiator 9 and the offset, and raises E:0x08F2. (REGISTER_READ) a read of GLB_MODE answers the register; a read of TIME_NS_LO answers the low word of the legal time of the access, which lies between the last tick and the next, and latches its high word, and the read of TIME_NS_HI that takes the latch answers that high word whatever the time is by then; a read of a register whose domain is off or out of its window answers 0, with E:0x0005 where none was raised in this off period, and changes no register. (READ_OFF_DOMAIN) the same for a domain named by the command. Which domain a register's block lies in is the model's reading (log entry 48). -/
def Obligations.HostRegisterCommandsComplete : Prop :=
  ∀ s : State, s.wf = true → s.clocked = true →
    (∀ w, exec (.registerWrite R_KEY_SEL w) s = .next (s.setFld KEY_SEL_SLOT (getBits w 7 0))) ∧
    (∀ off w, off / 0x10000 = 8 → ∃ t, exec (.registerWrite off w) s = .next t ∧
      t.fld GLB_ISO_VIOL_SRC = 9 ∧ t.fld GLB_ISO_VIOL_OFFSET = off % 0x10000 / 4 ∧ t.flag GLB_STATUS_ISO_WR = true ∧
      s.Raised t 0x08F2 [9, off % 0x10000] ∧ s.RegsOnly [R_GLB_ISO_VIOL, R_GLB_STATUS] t ∧ t.isl = s.isl) ∧
    (s.pdGood 0 = true → exec (.registerRead R_GLB_MODE) s = .next { s with hostRead := s.shown R_GLB_MODE }) ∧
    (s.pdGood 4 = true → s.tim.sub < s.tickNs →
      ∃ t n, exec (.registerRead R_TIME_NS_LO) s = .next t ∧ s.now ≤ n ∧ n < s.now + (s.tickNs - s.tim.sub) ∧ t.now = n ∧
        t.hostRead = loW n ∧ t.regs = s.regs ∧
        ∀ u : State, u.clocked = true → u.pdGood 4 = true → u.tim.nsHi = t.tim.nsHi →
          ∃ v, exec (.registerRead R_TIME_NS_HI) u = .next v ∧ v.hostRead = hiW n ∧ v.tim.nsHi = none) ∧
    (∀ off, findReg off ≠ none → s.pdGood (regDomain off) = false → ∃ t, exec (.registerRead off) s = .next t ∧ t.hostRead = 0 ∧
      s.RegsOnly [] t ∧ (s.glb.offRead.contains (regDomain off) = false → s.Raised t 0x0005 [regDomain off]) ∧
      (s.glb.offRead.contains (regDomain off) = true → t.log = s.log)) ∧
    (∀ (pd : Fin 10) off, s.pdGood pd = false → s.glb.offRead.contains pd.val = false →
      ∃ t, exec (.readOffDomain pd off) s = .next t ∧ t.hostRead = 0 ∧ s.Raised t 0x0005 [pd.val] ∧ s.RegsOnly [] t)

/-- With T = (AT_DAY + 1) x 86 400 s + new offset (the offset in force plus 1 s for DIR = 0, minus 1 s for DIR = 1): TIME_LEAP_WRITE with AT_DAY not 0 and T at or before the count leaves TIME_LEAP at 0 and raises E:0x0111; otherwise TIME_LEAP holds the two fields written and no event is raised; no other register changes. LEAP_SECOND_APPLY at a count that has reached T of the pending leap second, no step being due at the same tick, makes the offset in force the new one, clears TIME_LEAP, raises E:0x0108 and adds one entry to the legal audit log; with a step due at this tick it waits. -/
def Obligations.LeapSecondAnnouncedAndApplied : Prop :=
  ∀ s : State, s.wf = true → s.clocked = true →
    (∀ v : Word, getBits v 15 0 ≠ 0 →
      ((getBits v 15 0 + 1 : Nat) * 86400 + (if getBits v 31 31 = 1 then s.utcOfs - 1 else s.utcOfs + 1)) * 1000000000
        ≤ (s.now : Int) →
      ∃ t, exec (.timeLeapWrite v) s = .next t ∧ t.reg R_TIME_LEAP = 0 ∧ s.Raised t 0x0111 [] ∧ s.RegsOnly [R_TIME_LEAP] t) ∧
    (∀ v : Word, (getBits v 15 0 = 0 ∨ (s.now : Int) <
        ((getBits v 15 0 + 1 : Nat) * 86400 + (if getBits v 31 31 = 1 then s.utcOfs - 1 else s.utcOfs + 1)) * 1000000000) →
      ∃ t, exec (.timeLeapWrite v) s = .next t ∧ t.fld TIME_LEAP_AT_DAY = getBits v 15 0 ∧
        t.fld TIME_LEAP_DIR = getBits v 31 31 ∧ t.log = s.log ∧ s.RegsOnly [R_TIME_LEAP] t) ∧
    (s.stepDue = true → exec .leapSecondApply s = .next s) ∧
    (s.stepDue = false → s.fld TIME_LEAP_AT_DAY ≠ 0 → s.leapAt ≤ s.tim.count → -32768 ≤ s.leapOfs → s.leapOfs ≤ 32767 →
      ∃ t, exec .leapSecondApply s = .next t ∧ t.utcOfs = s.leapOfs ∧ t.reg R_TIME_LEAP = 0 ∧ s.Raised t 0x0108 [] ∧
        t.leg.audit.length = s.leg.audit.length + 1 ∧ s.RegsOnly [R_TIME_LEAP, R_TIME_UTC] t)

/-- With GNSS enabled on a module that is not a standby: GNSS_PPS_EDGE inside its window with no edge waiting is kept with the UTC offset of its instant and the pending leap second, and raises nothing; outside the window it clears GNSS_OK and raises E:0x0105. GNSS_MESSAGE for a waiting edge, with status A, ending 50 ms to 950 ms after it, with an acceptable second and an offset, measured under the UTC offset of the edge (the new one for a second after the day of a leap second that was pending at the edge), within the step limit, sets GNSS_OK and clears the count of missing edges; any other message for a waiting edge clears GNSS_OK, counts, and raises E:0x0105. PPS_MISSING at the end of a window without an edge clears GNSS_OK and counts; the third in a row in LOCKED changes the clock to HOLDOVER with E:0x0101. -/
def Obligations.GnssEdgesAndMessages : Prop :=
  ∀ s : State, s.wf = true → s.clocked = true → s.gnssOn = true →
    (∀ e : Nat, s.tim.edge = none → (∀ w, s.ppsWindow = some w → w ≤ e + ms ∧ e ≤ w + ms) →
      exec (.gnssPpsEdge e) s = .next (s.updTim fun t =>
        { t with
          edge := some e, edgeOfs := s.utcOfs
          edgeLeap := if s.fld TIME_LEAP_AT_DAY = 0 then none else some (s.fld TIME_LEAP_AT_DAY, s.leapOfs) })) ∧
    (∀ e w : Nat, s.tim.edge = none → s.ppsWindow = some w → ¬(w ≤ e + ms ∧ e ≤ w + ms) →
      ∃ t, exec (.gnssPpsEdge e) s = .next t ∧ t.flag TIME_STATUS_GNSS_OK = false ∧ s.Raised t 0x0105 [] ∧ t.tim = s.tim ∧
        s.RegsOnly [R_TIME_STATUS] t) ∧
    (∀ (m : GnssMsg) (e : Nat), s.tim.edge = some e → m.statusA = true → 50 ≤ m.endMs → m.endMs ≤ 950 → s.msgDayOk m = true →
      (((m.day * 86400 + m.sec : Nat) + s.msgOfs m) * 1000000000 + s.fldS GNSS_DLY_DLY_NS - e).natAbs ≤ s.stepLimit →
      ∃ t, exec (.gnssMessage m) s = .next t ∧ t.flag TIME_STATUS_GNSS_OK = true ∧ t.tim.missRun = 0 ∧ t.tim.lastPps = some e ∧
        t.tim.edge = none) ∧
    (∀ (m : GnssMsg) (e : Nat), s.tim.edge = some e → (m.statusA = false ∨ m.endMs < 50 ∨ 950 < m.endMs ∨ s.msgDayOk m = false) →
      ∃ t, exec (.gnssMessage m) s = .next t ∧ t.flag TIME_STATUS_GNSS_OK = false ∧ s.Raised t 0x0105 [] ∧
        t.tim.missRun = s.tim.missRun + 1 ∧ t.tim.edge = none) ∧
    (∀ w : Nat, s.ppsWindow = some w → s.tim.edge = none → w + ms ≤ s.now →
      ∃ t, exec .ppsMissing s = .next t ∧ t.flag TIME_STATUS_GNSS_OK = false ∧ t.tim.missRun = s.tim.missRun + 1 ∧
        (s.clk = 3 → 2 ≤ s.tim.missRun → t.clk = 4 ∧ s.Raised t 0x0101 [3, 4]) ∧ (s.clk ≠ 3 → t.log = s.log))

/-- CORRECTION_APPLY of a correction c that waits at this SF tick, not from a host setting: with |c| above STEP_LIMIT the count changes by exactly c, no slew is left, SLEWING reads 0 and E:0x0102 is raised (with E:0x0104 first where a slew ran: the model's choice, log entry 52); otherwise the count changes by the first increment (c limited to SLEW_RATE x 1 ms either way), the rest stays to be slewed, SLEWING reads 1, and E:0x0103 is raised where no slew ran; a correction of 0 replaces what is left of a slew, which ends with E:0x0104 and no change of the count. SLEW_END, when no new correction waits and at this tick only the last increment is left, adds it to the count, clears SLEWING and raises E:0x0104. -/
def Obligations.CorrectionsStepOrSlew : Prop :=
  ∀ s : State, s.wf = true → s.clocked = true →
    (∀ c : Int, s.tim.corr = some c → s.tim.corrDue = true → s.tim.setBy = none → s.stepLimit < (c.natAbs : Int) →
      0 ≤ (s.tim.count : Int) + c →
      ∃ t, exec .correctionApply s = .next t ∧ (t.tim.count : Int) = s.tim.count + c ∧ t.flag TIME_STATUS_SLEWING = false ∧
        t.tim.corr = none ∧ s.Raised t 0x0102 [] ∧ (s.flag TIME_STATUS_SLEWING = true → s.Raised t 0x0104 [])) ∧
    (s.tim.corr = some 0 → s.tim.corrDue = true → s.tim.setBy = none → s.flag TIME_STATUS_SLEWING = true →
      ∃ t, exec .correctionApply s = .next t ∧ t.tim.count = s.tim.count ∧ t.flag TIME_STATUS_SLEWING = false ∧ t.tim.slewLeft = 0 ∧
        t.tim.corr = none ∧ s.Raised t 0x0104 [] ∧ s.RegsOnly [R_TIME_STATUS] t) ∧
    (∀ c : Int, s.tim.corr = some c → s.tim.corrDue = true → s.tim.setBy = none → (c.natAbs : Int) ≤ s.stepLimit → c ≠ 0 →
      0 ≤ (s.tim.count : Int) + s.slewInc c →
      ∃ t, exec .correctionApply s = .next t ∧ (t.tim.count : Int) = s.tim.count + s.slewInc c ∧
        t.tim.slewLeft = c - s.slewInc c ∧ t.flag TIME_STATUS_SLEWING = true ∧
        (s.flag TIME_STATUS_SLEWING = false → s.Raised t 0x0103 [])) ∧
    (s.flag TIME_STATUS_SLEWING = true → s.tim.corr = none → s.tim.slewTicked = false → (s.tim.slewLeft.natAbs : Int) ≤ s.slewMax →
      0 ≤ (s.tim.count : Int) + s.tim.slewLeft →
      ∃ t, exec .slewEnd s = .next t ∧ (t.tim.count : Int) = s.tim.count + s.tim.slewLeft ∧ t.tim.slewLeft = 0 ∧
        t.flag TIME_STATUS_SLEWING = false ∧ s.Raised t 0x0104 [] ∧ s.RegsOnly [R_TICK_PHASE, R_TIME_STATUS] t)

/-- PTP_DELAY_REQUEST on a grandmaster port with PD6 good, of the mechanism of its profile, adds one answer on that port, with its domain, its mechanism, the time and the transport of the profile (Ethertype 0x88F7 for the power profile), and changes nothing else; PTP_SYNC_ANNOUNCE, 1 s or more after the last or the first of all, sends on every grandmaster port while PD6 is good: the count of messages grows by one and what went out is the message of that port (domain 0 under the power profile, its priorities, the clockClass, traceable in LOCKED alone, two-step); before 1 s has passed it sends nothing. -/
def Obligations.PtpPortsAnswerAndAnnounce : Prop :=
  ∀ s : State, s.clocked = true → s.pdGood 6 = true →
    (∀ (p : Fin 2) (peer : Bool), nth 0 s.tim.ptpPort p = 1 → peer = (s.ptpProfile p == 1) →
      exec (.ptpDelayRequest p peer) s = .next (s.updTim fun t =>
        { t with
          ptpAnswers := upd t.ptpAnswers p (· + 1)
          ptpAns := t.ptpAns.set p (some ⟨if s.ptpProfile p = 1 then 0 else
            s.fld (if p = 0 then PTP_CFG0_DOMAIN else PTP_CFG1_DOMAIN), peer, s.now, peer⟩) })) ∧
    (s.tim.ptpPort = [1, 1] → (s.timing .ptp = false ∨ s.due .ptp sec = true) → ∃ t, exec .ptpSyncAnnounce s = .next t ∧
      t.tim.ptpSent = upd (upd s.tim.ptpSent 0 (· + 1)) 1 (· + 1) ∧
      t.tim.ptpLast = (s.tim.ptpLast.set 0 (some (s.ptpMsg 0))).set 1 (some (s.ptpMsg 1)) ∧
      (s.ptpMsg 0).clkClass = s.fld TIME_STATUS_CLKCLASS ∧ ((s.ptpMsg 0).timeTr = true ↔ s.clk = 3) ∧
      (s.ptpProfile 0 = 1 → (s.ptpMsg 0).domain = 0) ∧ t.elapsed .ptp = 0 ∧ s.Only [.tim, .timers] t) ∧
    (s.timing .ptp = true → s.due .ptp sec = false → exec .ptpSyncAnnounce s = .next s)

/-- UPSTREAM_FRAME on a link that is trained and whose frame of this CF is not judged yet: a missing or late frame, a code violation and a CRC error each add 1 to their field of CQ_ERR (which stops at 255), end the run of valid frames, lengthen that of invalid CFs, and raise E:0x0204 once per SF; no other register changes. A NORMAL frame with a right CRC, in time and in sequence, ends the run of invalid CFs, lengthens that of valid frames, and gives IMEAS, USEQ and BSTATE; characters of a CF are decoded from the receiver's disparity: without a whole frame they count as a missing one, a frame they abort and every error outside their first frame count as code violations; a NORMAL frame takes ALIGNED to ACTIVE where BSTATE is RUN after an ENABLE, and ACTIVE to ALIGNED where BSTATE is READY. -/
def Obligations.UpstreamFramesAreJudged : Prop :=
  ∀ (s : State) (n : Fin 48), s.wf = true → s.clocked = true → s.alignedLink n = true → (s.lk n).judged = false →
    (∀ (a : UpArrival) (f : Fld), ((a = .missing ∧ f = CQ_ERR_MISS n) ∨ (a = .violation ∧ f = CQ_ERR_CODE n) ∨
        (∃ w dev, a = .frame w dev ∧ s.lateFrame n dev = true ∧ f = CQ_ERR_MISS n) ∨
        ∃ w dev, a = .frame w dev ∧ s.lateFrame n dev = false ∧ upCrcOk w = false ∧ f = CQ_ERR_CRC n) →
      ∃ t, exec (.upstreamFrame n a) s = .next t ∧ t.fld f = min 255 (s.fld f + 1) ∧
        (t.lk n).invalidRun = (s.lk n).invalidRun + 1 ∧ (t.lk n).validRun = 0 ∧ (t.lk n).valid = false ∧
        (t.lk n).judged = true ∧ ((s.lk n).told204 = false → s.Raised t 0x0204 [n.val]) ∧
        ((s.lk n).told204 = true → t.log = s.log) ∧ s.RegsOnly [R_CQ_ERR n] t) ∧
    (∀ (cs : List (BitVec 10)) (dev : Int), ∃ t, exec (.upstreamFrame n (.chars cs dev)) s = .next t ∧
      (t.lk n).rxRd = (rxRun 18 (s.lk n).rxRd (cs.map (·.toNat))).rd ∧ (t.lk n).judged = true ∧
      ((rxRun 18 (s.lk n).rxRd (cs.map (·.toNat))).got = none → t.fld (CQ_ERR_MISS n) = min 255 (s.fld (CQ_ERR_MISS n) + 1) ∧
        t.fld (CQ_ERR_CODE n) = min 255 (s.fld (CQ_ERR_CODE n) + (rxRun 18 (s.lk n).rxRd (cs.map (·.toNat))).stray)) ∧
      ((rxRun 18 (s.lk n).rxRd (cs.map (·.toNat))).got = some none →
        t.fld (CQ_ERR_CODE n) = min 255 (s.fld (CQ_ERR_CODE n) + (rxRun 18 (s.lk n).rxRd (cs.map (·.toNat))).stray + 1))) ∧
    (∀ (w : BitVec 144) (dev : Int), s.lateFrame n dev = false → upCrcOk w = true → (upDecode w).type = 0 →
      s.useqOk n (upDecode w) = true →
      ∃ t, exec (.upstreamFrame n (.frame w dev)) s = .next t ∧ (t.lk n).invalidRun = 0 ∧
        (t.lk n).validRun = (s.lk n).validRun + 1 ∧ (t.lk n).valid = true ∧ (t.lk n).imeas = (upDecode w).imeas ∧
        t.fld (CQ_STATE_USEQ n) = (upDecode w).useq ∧ t.bst n = (upDecode w).bstate ∧
        (s.lst n = 3 → (upDecode w).bstate = 2 → (s.lk n).cmd = cmdEnable → t.lst n = 4 ∧ s.Raised t 0x0201 [n.val, 3, 4]) ∧
        (s.lst n = 4 → (upDecode w).bstate = 1 → t.lst n = 3 ∧ s.Raised t 0x0201 [n.val, 4, 3]))

/-- COMMA_LOCK in LOCK takes the link to TRAIN with E:0x0201 and starts the 100 ms of training. TRAIN_MEASUREMENT in TRAIN sets DLY to F = (RT - TE) / 2 in 0.1 ns, rounded from 256 round trips, and accepts it where the spread is at most 4 ns, F is between 0 and the one-way maximum, TE is 16 ns to 200 ns, TU at most 40 ns, tags 0x7 and 0x8 have come and the clock is within 100 ppm. TRAIN_TIMEOUT after 100 ms raises E:0x0202 where F was out of range and E:0x0203 otherwise, and starts a pause; LINK_RETRY after 1 s takes the link to LOCK; LINK_SILENT takes a link that was LOST and silent for 1 ms to LOCK. -/
def Obligations.LinksTrain : Prop :=
  ∀ (s : State) (n : Fin 48), s.wf = true → s.clocked = true →
    (s.lst n = 1 → ∃ t, exec (.commaLock n) s = .next t ∧ t.lst n = 2 ∧ s.Raised t 0x0201 [n.val, 1, 2] ∧
      t.timing (.train n) = true ∧ t.elapsed (.train n) = 0 ∧ (t.lk n).tags = 0 ∧ (t.lk n).measOk = false ∧
      s.RegsOnly [R_CQ_STATE n] t) ∧
    (∀ (sum least most : Nat) (F : Int), s.lst n = 2 → (s.lk n).failed = false → (s.lk n).measOk = false →
      2 * (256 * F - (5 * (sum : Int) - 1280 * s.fld (CQ_DELAY_TURN n))).natAbs < 256 → 0 ≤ F →
      F ≤ maxDelay s.tim.cfSel s.tim.longFibre → most ≤ least + 4 → 16 ≤ s.fld (CQ_DELAY_TURN n) →
      s.fld (CQ_DELAY_TURN n) ≤ 200 → (s.lk n).tu ≤ 40 → bit (s.lk n).tags 7 = true → bit (s.lk n).tags 8 = true →
      (s.fldS (CQ_BLK_FREQ n)).natAbs ≤ 1000 →
      ∃ t, exec (.trainMeasurement n sum least most) s = .next t ∧ (t.lk n).measOk = true ∧ (t.fld (CQ_DELAY_DLY n) : Int) = F ∧
        t.log = s.log ∧ s.RegsOnly [R_CQ_DELAY n] t) ∧
    (s.lst n = 2 → s.due (.train n) (100 * ms) = true → ∃ t, exec (.trainTimeout n) s = .next t ∧
      s.Raised t (if (s.lk n).fOut = true then 0x0202 else 0x0203) [n.val] ∧ (t.lk n).failed = true ∧ t.lst n = 2 ∧
      t.timing (.train n) = false ∧ t.timing (.retry n) = true) ∧
    (s.lst n = 2 → (s.lk n).failed = true → s.due (.retry n) sec = true → ∃ t, exec (.linkRetry n) s = .next t ∧
      t.lst n = 1 ∧ s.Raised t 0x0201 [n.val, 2, 1] ∧ (t.lk n).failed = false ∧ t.timing (.retry n) = false) ∧
    (s.lst n = 5 → s.due (.silent n) ms = true → ∃ t, exec (.linkSilent n) s = .next t ∧ t.lst n = 1 ∧
      s.Raised t 0x0201 [n.val, 5, 1] ∧ t.timing (.silent n) = false)

/-- LINK_LOST on a usable link with three consecutive invalid CFs takes it to LOST, raises E:0x0205 and sends DISABLE from then on. ARRIVAL_DRIFT after 16 CFs outside 8 ns, no retrain being under way for it, raises E:0x0208 and begins DISABLE, keeping the instant; while one is under way it changes nothing. BLOCK_CLOCK_FAULT after two reports raises E:0x0207 and takes the link to TRAIN. RETRAIN takes LOCK, TRAIN, ALIGNED and LOST to TRAIN, and in ACTIVE and STOP only raises E:0x020E; for a link that is not fitted it is ignored. Either retrain waits for a command under way. START_SEND where START is due begins START in 4 frames and changes no register. A command sent while another is under way follows it. -/
def Obligations.LinksLeaveService : Prop :=
  ∀ (s : State) (n : Fin 48), s.wf = true → s.clocked = true →
    (s.usable n = true → 3 ≤ (s.lk n).invalidRun → ∃ t, exec (.linkLost n) s = .next t ∧ t.lst n = 5 ∧
      s.Raised t 0x0205 [n.val] ∧ (t.lk n).disabling = true ∧ t.timing (.silent n) = true) ∧
    (s.usable n = true → 16 ≤ (s.lk n).driftRun → (s.lk n).drainAt = none → ∃ t, exec (.arrivalDrift n) s = .next t ∧
      s.Raised t 0x0208 [n.val] ∧ (t.lk n).drainAt = some s.age ∧ t.lst n = s.lst n ∧ s.RegsOnly [] t ∧
      s.Sent t n cmdDisable 0) ∧
    ((s.lk n).drainAt.isSome = true → exec (.arrivalDrift n) s = .next s) ∧
    (s.usable n = true → 2 ≤ (s.lk n).clkRun → ∃ t, exec (.blockClockFault n) s = .next t ∧ s.Raised t 0x0207 [n.val] ∧
      ((s.lk n).cmdLeft = 0 → t.lst n = 2 ∧ (t.lk n).measOk = false ∧ t.timing (.train n) = true) ∧
      ((s.lk n).cmdLeft ≠ 0 → t.lst n = s.lst n ∧ (t.lk n).retrainDue = true)) ∧
    (n.val < s.nLinks → (s.lst n = 1 ∨ s.lst n = 2 ∨ s.lst n = 3 ∨ s.lst n = 5) → ∃ t, exec (.retrain n) s = .next t ∧
      t.timing (.silent n) = false ∧
      ((s.lk n).cmdLeft = 0 → t.lst n = 2 ∧ (t.lk n).measOk = false ∧ t.timing (.train n) = true) ∧
      ((s.lk n).cmdLeft ≠ 0 → t.lst n = s.lst n ∧ (t.lk n).retrainDue = true ∧ t.log = s.log)) ∧
    (n.val < s.nLinks → (s.lst n = 4 ∨ s.lst n = 6) → exec (.retrain n) s = .next (s.event 0x020E [n.val, s.lst n])) ∧
    (s.nLinks ≤ n.val → exec (.retrain n) s = .next s) ∧
    (s.startDue n = true → ∃ t, exec (.startSend n) s = .next t ∧
      ((s.lk n).cmdLeft = 0 → (t.lk n).cmd = cmdStart ∧ (t.lk n).cmdLeft = 4) ∧
      ((s.lk n).cmdLeft ≠ 0 → (t.lk n).cmdNext.getLastD ((t.lk n).cmd, (t.lk n).cmdArg) = (cmdStart, 0)) ∧
      (t.lk n).startSent = true ∧ (t.lk n).disabling = false ∧ s.Only [.links] t)

/-- STOP_LINE_ASSERT takes every link it names that is not OFF and has no stop line yet to STOP, with the line asserted and its bit of CQ_STOP set; for one link it raises E:0x0209 with the link and its mask. STOP_LINE_RELEASE of an output whose pair reads off and whose fast-path current is at most 2 A releases the line of every link that only this output holds, raises E:0x020A, and takes a link that held no delay to LOCK; the serialiser sends STOP, and the link's bit of CQ_STOP stays, until the next CF tick, at which the serialiser resumes and the bit clears. -/
def Obligations.StopLine : Prop :=
  ∀ s : State, s.wf = true → s.clocked = true →
    (∀ links : List (Fin 48), ∃ t, exec (.stopLineAssert links) s = .next t ∧
      ∀ n ∈ links, s.lst n ≠ 0 → (s.lk n).stopLine = false →
        t.lst n = 6 ∧ (t.lk n).stopLine = true ∧ t.linkBit R_CQ_STOP_LO R_CQ_STOP_HI n = true) ∧
    (∀ n : Fin 48, s.lst n ≠ 0 → (s.lk n).stopLine = false → ∃ t, exec (.stopLineAssert [n]) s = .next t ∧
      s.Raised t 0x0209 (if n.val < 32 then [n.val, 2 ^ n.val, 0] else [n.val, 0, 2 ^ (n.val - 32)])) ∧
    (∀ (j : Fin 8) (n : Fin 48), s.pairReads j = false → (s.fastI j).natAbs ≤ 2000 → (s.lk n).stopBy = [j.val] →
      ∃ t m, exec (.stopLineRelease j) s = .next t ∧ (t.lk n).stopLine = false ∧ s.Raised t 0x020A m ∧
        t.linkBit R_CQ_STOP_LO R_CQ_STOP_HI n = s.linkBit R_CQ_STOP_LO R_CQ_STOP_HI n ∧ (t.lk n).sendsStop = true ∧
        (s.lst n = 6 → (s.lk n).stopAligned = false → t.lst n = 1) ∧ (s.lst n = 6 → (s.lk n).stopAligned = true → t.lst n = 6)) ∧
    (∀ n : Fin 48, s.lst n ≠ 0 → s.pdGood 7 = true → (s.lk n).freeing = true → (s.lk n).stopLine = false →
      (s.linkSend n).linkBit R_CQ_STOP_LO R_CQ_STOP_HI n = false ∧ ((s.linkSend n).lk n).sendsStop = false)

/-- MOVE_STEP_END: with the share ramped to 0, or the lane out of its output, the block gets DISABLE (step 2); at READY with a source contactor it gets MX_OPEN for that output (step 3), each in 4 frames that begin at once or follow the command under way; with the contactor read open the move goes on to CLOSE (step 4), or ends where there is no destination; with the destination's contactor read closed it goes to JOIN (step 5); with the lane in K1 and its ramp at an end the move ends with E:0x0402. MOVE_STEP_TIMEOUT after 2 ms of DISABLE or 60 ms of OPEN or CLOSE ends the move, sets the link's bit of MX_EXCL and raises E:0x0403. MX_EXCL_CLEAR and CE_EXCL_CLEAR clear exactly the bits written as 1. -/
def Obligations.MovesOfBlocks : Prop :=
  ∀ s : State, s.wf = true → s.clocked = true →
    (∀ n : Fin 48,
      (s.mvStep n = 1 → (s.bl n).weight = 0 ∨ s.inK1 n = false → ∃ t, exec (.moveStepEnd n) s = .next t ∧ t.mvStep n = 2 ∧
        s.Sent t n cmdDisable 0 ∧ t.timing (.moveStep n) = true) ∧
      (∀ k, s.mvStep n = 2 → s.bst n = 1 → (s.mv n).src = some k → ∃ t, exec (.moveStepEnd n) s = .next t ∧ t.mvStep n = 3 ∧
        s.Sent t n cmdMxOpen k) ∧
      (∀ k, s.mvStep n = 3 → (s.mv n).src = some k → bit (s.lk n).mxState k = false → n < s.sh.moves.length →
        ∃ t, exec (.moveStepEnd n) s = .next t ∧ t.mvStep n = (if (s.mv n).dest = none then 0 else 4) ∧ (t.mv n).src = none) ∧
      (∀ k, s.mvStep n = 4 → (s.mv n).dest = some k → bit (s.lk n).mxState k = true → n < s.sh.moves.length →
        ∃ t, exec (.moveStepEnd n) s = .next t ∧ t.mvStep n = 5 ∧ (t.mv n).joinDue = true ∧ t.timing (.moveStep n) = false) ∧
      (s.mvStep n = 5 → (s.mv n).joinDue = false → s.inK1 n = true → (s.bl n).rampLeft = 0 →
        ∃ t, exec (.moveStepEnd n) s = .next t ∧ t.mvStep n = 0 ∧ s.Raised t 0x0402 [n.val]) ∧
      ((s.mvStep n = 2 ∧ s.due (.moveStep n) (2 * ms) = true ∨
          (s.mvStep n = 3 ∨ s.mvStep n = 4) ∧ s.due (.moveStep n) (60 * ms) = true) →
        ∃ t, exec (.moveStepTimeout n) s = .next t ∧ t.mvStep n = 0 ∧ t.linkBit R_MX_EXCL_LO R_MX_EXCL_HI n = true ∧
          s.Raised t 0x0403 [n.val] ∧ t.timing (.moveStep n) = false)) ∧
    (∀ lo hi : Word, ∃ t, exec (.mxExclClear lo hi) s = .next t ∧ t.reg R_MX_EXCL_LO = s.reg R_MX_EXCL_LO &&& ~~~lo ∧
      t.reg R_MX_EXCL_HI = s.reg R_MX_EXCL_HI &&& ~~~hi ∧ s.RegsOnly [R_MX_EXCL_LO, R_MX_EXCL_HI] t ∧ s.Only [.regs] t) ∧
    (∀ (c : Fin 2) (mask : Word), (s.ce c).blocks.length = 24 → ∃ t, exec (.ceExclClear c mask) s = .next t ∧
      t.reg (R_CE_EXCL c) = s.reg (R_CE_EXCL c) &&& ~~~mask ∧ s.RegsOnly [R_CE_EXCL c] t ∧
      ∀ k < 24, (nth BlockLane.rest (t.ce c).blocks k).frozen
        = ((nth BlockLane.rest (s.ce c).blocks k).frozen && !inMask mask k))

/-- On a CE that takes the instruction, with well-formed operands: LDA sets acc to the source with EA = E_src; ADA and SBA add and subtract the source aligned to EA, saturating a lane at 56 bits; ZRA sets 0 with EA = the immediate; EXA keeps the raw lanes and adds the immediate to EA (within -256 to 255). Lanes outside K keep their value, re-expressed where EA changes; no other accumulator, stage or mask changes. -/
def Obligations.CeAdditiveInstructions : Prop :=
  ∀ (s : State) (c : Fin 2) (d a b : BitVec 7) (k : BitVec 3), (s.src c a).ok = true → (s.acc c d).ok = true →
    (s.ceReady c 0x08 d a b k = true → ∃ t, exec (.lda c d a b k) s = .next t ∧
      s.AccSet c d (s.src c a).e (fun i => if s.inK c k i then (s.src c a).lane i * 2 ^ 23
        else (alignTo (s.src c a).e (s.acc c d).ea ((s.acc c d).lane i)).v) t) ∧
    (s.ceReady c 0x09 d a b k = true → ∃ t, exec (.ada c d a b k) s = .next t ∧
      s.AccSet c d (s.acc c d).ea (fun i => if s.inK c k i then clampI accMin accMax ((s.acc c d).lane i
        + (alignTo (s.acc c d).ea (s.src c a).e ((s.src c a).lane i * 2 ^ 23)).v) else (s.acc c d).lane i) t) ∧
    (s.ceReady c 0x0A d a b k = true → ∃ t, exec (.sba c d a b k) s = .next t ∧
      s.AccSet c d (s.acc c d).ea (fun i => if s.inK c k i then clampI accMin accMax ((s.acc c d).lane i
        - (alignTo (s.acc c d).ea (s.src c a).e ((s.src c a).lane i * 2 ^ 23)).v) else (s.acc c d).lane i) t) ∧
    (s.ceReady c 0x0E d a b k = true → ∃ t, exec (.zra c d a b k) s = .next t ∧
      s.AccSet c d (sext 7 b.toNat) (fun i => if s.inK c k i then 0
        else (alignTo (sext 7 b.toNat) (s.acc c d).ea ((s.acc c d).lane i)).v) t) ∧
    (s.ceReady c 0x15 d a b k = true → -256 ≤ (s.acc c d).ea + sext 7 b.toNat → (s.acc c d).ea + sext 7 b.toNat ≤ 255 →
      ∃ t, exec (.exa c d a b k) s = .next t ∧
      s.AccSet c d ((s.acc c d).ea + sext 7 b.toNat) (fun i => if s.inK c k i then (s.acc c d).lane i
        else (alignTo ((s.acc c d).ea + sext 7 b.toNat) (s.acc c d).ea ((s.acc c d).lane i)).v) t)

/-- On a CE that takes the instruction, with well-formed operands: MUL sets acc to the exact product of the mantissas with EA = E_a + E_b; MAC and MSU add and subtract the product aligned to EA, saturating at 56 bits; RCP sets EA = 15 - E and each lane of K to the integer nearest to 2^54 / m, and to the largest value where m is 0. Lanes outside K keep their value, re-expressed where EA changes. -/
def Obligations.CeProductsAndReciprocal : Prop :=
  ∀ (s : State) (c : Fin 2) (d a b : BitVec 7) (k : BitVec 3), (s.src c a).ok = true → (s.src c b).ok = true →
    (s.acc c d).ok = true →
    (s.ceReady c 0x0B d a b k = true → ∃ t, exec (.mul c d a b k) s = .next t ∧
      s.AccSet c d ((s.src c a).e + (s.src c b).e) (fun i => if s.inK c k i then (s.src c a).lane i * (s.src c b).lane i
        else (alignTo ((s.src c a).e + (s.src c b).e) (s.acc c d).ea ((s.acc c d).lane i)).v) t) ∧
    (s.ceReady c 0x0C d a b k = true → ∃ t, exec (.mac c d a b k) s = .next t ∧
      s.AccSet c d (s.acc c d).ea (fun i => if s.inK c k i then clampI accMin accMax ((s.acc c d).lane i
        + (alignTo (s.acc c d).ea ((s.src c a).e + (s.src c b).e) ((s.src c a).lane i * (s.src c b).lane i)).v)
        else (s.acc c d).lane i) t) ∧
    (s.ceReady c 0x0D d a b k = true → ∃ t, exec (.msu c d a b k) s = .next t ∧
      s.AccSet c d (s.acc c d).ea (fun i => if s.inK c k i then clampI accMin accMax ((s.acc c d).lane i
        - (alignTo (s.acc c d).ea ((s.src c a).e + (s.src c b).e) ((s.src c a).lane i * (s.src c b).lane i)).v)
        else (s.acc c d).lane i) t) ∧
    (s.ceReady c 0x16 d a b k = true → ∃ t, exec (.rcp c d a b k) s = .next t ∧ (t.acc c d).ea = 15 - (s.src c a).e ∧
      (∀ i < 32, s.inK c k i = true → (s.src c a).lane i = 0 → (t.acc c d).lane i = accMax) ∧
      (∀ i < 32, s.inK c k i = true → (s.src c a).lane i ≠ 0 →
        2 * ((t.acc c d).lane i * (s.src c a).lane i - 2 ^ 54).natAbs ≤ ((s.src c a).lane i).natAbs) ∧
      (∀ i < 32, s.inK c k i = false →
        (t.acc c d).lane i = (alignTo (15 - (s.src c a).e) (s.acc c d).ea ((s.acc c d).lane i)).v))

/-- On a CE that takes the instruction: MIN and MAX take the lesser and the greater of the lane and the aligned source; CLP holds the lane between the aligned low and high limits, the low limit last; SEL takes the aligned source; ABS and NEG take the magnitude and the negative, the most negative value saturating to 2^55 - 1. EA and the lanes outside K keep their values. -/
def Obligations.CeLimitsAndSigns : Prop :=
  ∀ (s : State) (c : Fin 2) (d a b : BitVec 7) (k : BitVec 3), (s.src c a).ok = true → (s.src c b).ok = true →
    (s.acc c d).ok = true →
    (s.ceReady c 0x10 d a b k = true → ∃ t, exec (.min c d a b k) s = .next t ∧
      s.AccSet c d (s.acc c d).ea (fun i => if s.inK c k i then
        Min.min ((s.acc c d).lane i) (alignTo (s.acc c d).ea (s.src c a).e ((s.src c a).lane i * 2 ^ 23)).v
        else (s.acc c d).lane i) t) ∧
    (s.ceReady c 0x11 d a b k = true → ∃ t, exec (.max c d a b k) s = .next t ∧
      s.AccSet c d (s.acc c d).ea (fun i => if s.inK c k i then
        Max.max ((s.acc c d).lane i) (alignTo (s.acc c d).ea (s.src c a).e ((s.src c a).lane i * 2 ^ 23)).v
        else (s.acc c d).lane i) t) ∧
    (s.ceReady c 0x12 d a b k = true → ∃ t, exec (.clp c d a b k) s = .next t ∧
      s.AccSet c d (s.acc c d).ea (fun i => if s.inK c k i then
        Max.max (alignTo (s.acc c d).ea (s.src c a).e ((s.src c a).lane i * 2 ^ 23)).v
          (Min.min ((s.acc c d).lane i) (alignTo (s.acc c d).ea (s.src c b).e ((s.src c b).lane i * 2 ^ 23)).v)
        else (s.acc c d).lane i) t) ∧
    (s.ceReady c 0x18 d a b k = true → ∃ t, exec (.sel c d a b k) s = .next t ∧
      s.AccSet c d (s.acc c d).ea (fun i => if s.inK c k i then
        (alignTo (s.acc c d).ea (s.src c a).e ((s.src c a).lane i * 2 ^ 23)).v else (s.acc c d).lane i) t) ∧
    (s.ceReady c 0x13 d a b k = true → ∃ t, exec (.abs c d a b k) s = .next t ∧
      s.AccSet c d (s.acc c d).ea (fun i => if s.inK c k i then
        (if (s.acc c d).lane i = accMin then accMax else ((s.acc c d).lane i).natAbs) else (s.acc c d).lane i) t) ∧
    (s.ceReady c 0x14 d a b k = true → ∃ t, exec (.neg c d a b k) s = .next t ∧
      s.AccSet c d (s.acc c d).ea (fun i => if s.inK c k i then
        (if (s.acc c d).lane i = accMin then accMax else -((s.acc c d).lane i)) else (s.acc c d).lane i) t ∧
      (∀ i < 32, inMask (t.reg (R_CE_SAT c)) i
        = (inMask (s.reg (R_CE_SAT c)) i || (s.inK c k i && (s.acc c d).lane i == accMin))))

/-- On a CE that takes the instruction, with EA = E_src: on a target lane of the map in K, RSUM writes the sum and RMAX the greatest of the source over the lanes that the map gives this target (0 where there is none); every other lane of K gets 0. SPRD writes to each lane of K that the map gives a target the source of that target lane, to a target lane that is assigned and fitted (K0) its own source, and 0 to the rest. -/
def Obligations.CeGroupInstructions : Prop :=
  ∀ (s : State) (c : Fin 2) (d a b : BitVec 7) (k : BitVec 3), (s.src c a).ok = true → (s.acc c d).ok = true →
    (s.ceReady c 0x19 d a b k = true → ∃ t, exec (.rsum c d a b k) s = .next t ∧ (t.acc c d).ea = (s.src c a).e ∧
      ∀ i < 32, s.inK c k i = true → (t.acc c d).lane i = if isTarget b i = true then
        (((lanes.filter fun j => groupMap (s.ce c) b j == some i).map fun j => (s.src c a).lane j * 2 ^ 23).sum) else 0) ∧
    (s.ceReady c 0x1A d a b k = true → ∃ t, exec (.rmax c d a b k) s = .next t ∧ (t.acc c d).ea = (s.src c a).e ∧
      ∀ i < 32, s.inK c k i = true →
        ((isTarget b i = false ∨ ∀ j < 32, groupMap (s.ce c) b j ≠ some i) → (t.acc c d).lane i = 0) ∧
        (∀ j < 32, isTarget b i = true → groupMap (s.ce c) b j = some i → (s.src c a).lane j * 2 ^ 23 ≤ (t.acc c d).lane i) ∧
        (∀ j < 32, isTarget b i = true → groupMap (s.ce c) b j = some i →
          ∃ m < 32, groupMap (s.ce c) b m = some i ∧ (t.acc c d).lane i = (s.src c a).lane m * 2 ^ 23)) ∧
    (s.ceReady c 0x1B d a b k = true → ∃ t, exec (.sprd c d a b k) s = .next t ∧ (t.acc c d).ea = (s.src c a).e ∧
      ∀ i < 32, s.inK c k i = true →
        (isTarget b i = true → (t.acc c d).lane i = if inMask (s.msk c 0) i = true then (s.src c a).lane i * 2 ^ 23 else 0) ∧
        (∀ g < 32, isTarget b i = false → groupMap (s.ce c) b i = some g → (t.acc c d).lane i = (s.src c a).lane g * 2 ^ 23) ∧
        (isTarget b i = false → groupMap (s.ce c) b i = none → (t.acc c d).lane i = 0))

/-- STF, STN and MOV complete on every CE that takes the instruction: STF stores the accumulator on the lanes of K at the stage's exponent, rounded and saturated to the mantissa, and keeps the other lanes of a well-formed stage as they are; STN does so at the exponent of R85 (least that fits every lane, within -128 to 127 for a well-formed stage) and re-expresses the other lanes; MOV copies all lanes and the exponent. No other stage, accumulator or mask changes, and the program spends 2, 3 and 1 cycles. -/
def Obligations.CeStores : Prop :=
  ∀ (s : State) (c : Fin 2) (d a b : BitVec 7) (k : BitVec 3),
    (s.ceReady c 0x20 d a b k = true → ∃ t, exec (.stf c d a b k) s = .next t ∧ (t.ctx c).cycles = (s.ctx c).cycles + 2 ∧
      s.StageSet c d (s.src c d).e (fun i => clampI mantMin mantMax (if s.inK c k i then
        scale ((s.acc c a).lane i) ((s.acc c a).ea - (s.src c d).e - 23) else (s.src c d).lane i)) t) ∧
    ((s.src c d).ok = true → ∀ i < 32, clampI mantMin mantMax ((s.src c d).lane i) = (s.src c d).lane i) ∧
    (s.ceReady c 0x21 d a b k = true → ∃ t e, exec (.stn c d a b k) s = .next t ∧
      (t.ctx c).cycles = (s.ctx c).cycles + 3 ∧ e = normExp (s.src c d) (s.acc c a) (s.msk c k.toNat) ∧
      s.StageSet c d e (fun i => clampI mantMin mantMax (if s.inK c k i then
        scale ((s.acc c a).lane i) ((s.acc c a).ea - e - 23) else scale ((s.src c d).lane i) ((s.src c d).e - e))) t ∧
      ((s.src c d).ok = true → -128 ≤ e ∧ e ≤ 127)) ∧
    (s.ceReady c 0x22 d a b k = true → ∃ t, exec (.mov c d a b k) s = .next t ∧ (t.ctx c).cycles = (s.ctx c).cycles + 1 ∧
      s.StageSet c d (s.src c a).e (fun i => (s.src c a).lane i) t)

/-- On a CE that takes the instruction: CGT (CGE) sets lane i of its mask exactly where i is in K and the value of a is greater than (at least) that of b, both being mantissa times a power of two; KAND, KOR and KNOT write the bitwise result over the masks named on the lanes in K and keep the other lanes. No other mask, accumulator or stage changes. -/
def Obligations.CeMaskInstructions : Prop :=
  ∀ (s : State) (c : Fin 2) (d a b : BitVec 7) (k : BitVec 3),
    (s.ceReady c 0x28 d a b k = true → (s.src c a).ok = true → (s.src c b).ok = true →
      ∃ t, exec (.cgt c d a b k) s = .next t ∧ s.MaskSet c d (fun i => s.inK c k i &&
        decide ((s.src c b).lane i * 2 ^ ((s.src c b).e + 128).toNat < (s.src c a).lane i * 2 ^ ((s.src c a).e + 128).toNat)) t) ∧
    (s.ceReady c 0x29 d a b k = true → (s.src c a).ok = true → (s.src c b).ok = true →
      ∃ t, exec (.cge c d a b k) s = .next t ∧ s.MaskSet c d (fun i => s.inK c k i &&
        decide ((s.src c b).lane i * 2 ^ ((s.src c b).e + 128).toNat ≤ (s.src c a).lane i * 2 ^ ((s.src c a).e + 128).toNat)) t) ∧
    (s.ceReady c 0x2A d a b k = true → ∃ t, exec (.kand c d a b k) s = .next t ∧
      s.MaskSet c d (fun i => if s.inK c k i then inMask (s.msk c a.toNat) i && inMask (s.msk c b.toNat) i
        else inMask (s.msk c d.toNat) i) t) ∧
    (s.ceReady c 0x2B d a b k = true → ∃ t, exec (.kor c d a b k) s = .next t ∧
      s.MaskSet c d (fun i => if s.inK c k i then inMask (s.msk c a.toNat) i || inMask (s.msk c b.toNat) i
        else inMask (s.msk c d.toNat) i) t) ∧
    (s.ceReady c 0x2C d a b k = true → ∃ t, exec (.knot c d a b k) s = .next t ∧
      s.MaskSet c d (fun i => if s.inK c k i then !inMask (s.msk c a.toNat) i else inMask (s.msk c d.toNat) i) t)

/-- On a CE that takes the instruction: NOP changes nothing of the engine's operands but the cycles spent; END inside the window ends the program and commits its stages, and of its masks K4 to K7; END of a law that has spent all cycles of its window changes nothing; outside the window it ends the SF program; SKZ on a mask without a lane set makes the next n instructions be skipped, and on another mask none; an instruction that is being skipped changes only the count that is left; TRG of an armed buffer of KIND 6 starts it and raises E:0x0320. -/
def Obligations.CeProgramFlow : Prop :=
  ∀ (s : State) (c : Fin 2) (d a b : BitVec 7) (k : BitVec 3),
    (s.ceReady c 0x00 d a b k = true → ∃ t, exec (.nop c d a b k) s = .next t ∧
      t.ctx c = { s.ctx c with cycles := (s.ctx c).cycles + 1 } ∧ t.regs = s.regs ∧ t.log = s.log) ∧
    (s.clocked = true → s.pastWindow c = true → exec (.endProgram c d a b k) s = .next s) ∧
    (s.ceReady c 0x01 d a b k = true → (s.ce c).window = false →
      ∃ t, exec (.endProgram c d a b k) s = .next t ∧ (t.ce c).sf.ended = true ∧ (t.ce c).com = (s.ce c).com) ∧
    (s.ceReady c 0x01 d a b k = true → (s.ce c).window = true → s.pastWindow c = false →
      ∃ t, exec (.endProgram c d a b k) s = .next t ∧ (t.ce c).work.ended = true ∧ (t.ce c).com.st = (s.ctx c).st ∧
        (t.ce c).com.dn = (s.ctx c).dn ∧
        ∀ i < 8, readMask (t.ce c).com i = if i < 4 then readMask (s.ce c).com i else s.msk c i) ∧
    (s.ceReady c 0x30 d a b k = true → ∃ t, exec (.skz c d a b k) s = .next t ∧
      (t.ctx c).skip = if s.msk c a.toNat = 0 then b.toNat else 0) ∧
    (s.wf = true → s.clocked = true → s.ceTakes c (legalOperands 0x08 d a b k) = true → (s.ctx c).skip ≠ 0 →
      (s.ce c).com.k.length = 8 →
      ∃ t, exec (.lda c d a b k) s = .next t ∧ t.ctx c = { s.ctx c with skip := (s.ctx c).skip - 1 } ∧ t.regs = s.regs) ∧
    (s.ceReady c 0x31 d a b k = true → s.fld (CUP_TRIG_KIND c b.toNat) = 6 → s.cupOpen c b.toNat = true →
      ∃ t, exec (.trg c d a b k) s = .next t ∧ s.Raised t 0x0320 [c, b.toNat] ∧ t.fld (CUP_STAT_STATE c b.toNat) = 3)

/-- For each kind of work (0 law, 1 SF-rate CE work, 2 legal commit, and of the GC's slots 3 switch supervision, 4 panels to Mallas frames, 5 background) an overrun adds 1 to the kind's field of FRM_OVR, which stops at 255, whether or not an event is raised; it raises E:0x0120 with the core, the kind and the number of the CF (for the law) or of the SF where the kind has raised none in this SF, and otherwise raises nothing; the advance of an SF forgets which kinds have raised it. -/
def Obligations.OverrunsAreCountedAndToldOncePerSf : Prop :=
  ∀ (s : State) (core : Nat), s.wf = true →
    (∀ kf ∈ [(0, FRM_OVR_CE_LAW), (1, FRM_OVR_CE_SF), (2, FRM_OVR_MC_COMMIT), (3, FRM_OVR_GC), (4, FRM_OVR_GC),
        (5, FRM_OVR_GC)],
      (s.overrun kf.1 core true).fld kf.2 = min 255 (s.fld kf.2 + 1) ∧
      s.RegsOnly [R_FRM_OVR] (s.overrun kf.1 core true) ∧
      (kf.1 ∉ s.tim.ovrTold →
        s.Raised (s.overrun kf.1 core true) 0x0120 [core, kf.1, if kf.1 = 0 then s.tim.cfIndex else s.tim.sfCount] ∧
        kf.1 ∈ (s.overrun kf.1 core true).tim.ovrTold) ∧
      (kf.1 ∈ s.tim.ovrTold → (s.overrun kf.1 core true).log = s.log)) ∧
    ∀ inc : Int, (s.sfAdvance inc).tim.ovrTold = []

/-- CE_WINDOW_START on a CE that runs a law in a powered domain opens the window on working copies of the committed stages and of masks K4 to K7, with no instruction skipped and END not reached. CE_WINDOW_END after END closes it, sets CE_STATUS.OVR_RUN to 0 and keeps the greatest cycle count; without END it keeps the committed stages, counts in OVR_RUN (at most 3) and in FRM_OVR.CE_LAW. THIRD_LAW_OVERRUN with OVR_RUN = 3 raises E:0x0121 and gives DISABLE, which goes out in 4 frames, to every link that feeds an output of the CE and is not in TRAIN. -/
def Obligations.ComputeWindows : Prop :=
  ∀ (s : State) (c : Fin 2), s.wf = true → s.clocked = true →
    (∀ fast, s.ceRuns c = true → s.pdGood 4 = true →
      ∃ t, exec (.ceWindowStart c fast) s = .next t ∧ (t.ce c).window = true ∧ (t.ce c).work.st = (s.ce c).com.st ∧
        (t.ce c).work.dn = (s.ce c).com.dn ∧ (t.ce c).work.k.drop 4 = (s.ce c).com.k.drop 4 ∧ (t.ce c).work.skip = 0 ∧
        (t.ce c).work.ended = false ∧ (t.ce c).com.st = (s.ce c).com.st) ∧
    (s.pdGood 4 = true → (s.ce c).window = true → (s.ce c).work.ended = true → (s.ce c).work.cycles ≤ 65535 →
      ∃ t, exec (.ceWindowEnd c) s = .next t ∧ (t.ce c).window = false ∧ t.fld (CE_STATUS_OVR_RUN c) = 0 ∧
        (t.ce c).third = false ∧ (t.ce c).com.st = (s.ce c).com.st ∧
        t.fld (CE_CYC_PEAK c) = max (s.fld (CE_CYC_PEAK c)) (s.ce c).work.cycles) ∧
    (s.pdGood 4 = true → (s.ce c).window = true → (s.ce c).work.ended = false →
      ∃ t, exec (.ceWindowEnd c) s = .next t ∧ (t.ce c).window = false ∧ (t.ce c).overran = true ∧
        t.fld (CE_STATUS_OVR_RUN c) = min 3 (s.fld (CE_STATUS_OVR_RUN c) + 1) ∧ (t.ce c).com.st = (s.ce c).com.st ∧
        t.fld FRM_OVR_CE_LAW = min 255 (s.fld FRM_OVR_CE_LAW + 1)) ∧
    (s.fld (CE_STATUS_OVR_RUN c) = 3 → (s.ce c).third = false →
      ∃ t, exec (.thirdLawOverrun c) s = .next t ∧ s.Raised t 0x0121 [5 + c.val] ∧ (t.ce c).third = true ∧
        ∀ l < 4, ∀ j, s.laneOut c l = some j → ∀ n ∈ s.members j, s.Sent t n cmdDisable 0)

/-- OUTPUT_FEEDBACK_LOST on a lane with its third invalid CF raises E:0x0313 and FROZEN_FEEDBACK on an output lane whose feedback is frozen raises E:0x0315, with the CE, the lane and the output; either gives DISABLE to every link that feeds the output and takes the lane out of K1. FROZEN_FEEDBACK on a block lane gives DISABLE to its link, ends a move of the block, sets its bit in CE_EXCL and raises E:0x0314. -/
def Obligations.LostAndFrozenFeedback : Prop :=
  ∀ (s : State) (c : Fin 2), s.wf = true → s.clocked = true →
    (∀ (l : Fin 4) (j : Nat), (s.ol c l).lost = true → s.laneOut c l = some j →
      ∃ t, exec (.outputFeedbackLost c l) s = .next t ∧ s.Raised t 0x0313 [c.val, 24 + l.val, j] ∧
        inMask (t.hwMask c 1) (24 + l.val) = false ∧
        ∀ n ∈ s.members j, s.Sent t n cmdDisable 0) ∧
    (∀ (k : Fin 28) (j : Nat), 24 ≤ k.val → s.laneOut c (k.val - 24) = some j → s.frozenOut c (s.ol c (k.val - 24)) = true →
      (s.ol c (k.val - 24)).frozen = false →
      ∃ t, exec (.frozenFeedback c k) s = .next t ∧ s.Raised t 0x0315 [c.val, k.val, j] ∧
        inMask (t.hwMask c 1) k.val = false ∧
        ∀ n ∈ s.members j, s.Sent t n cmdDisable 0) ∧
    (∀ (k : Fin 28) (n : Nat), k.val < 24 → n < 48 → s.laneLink c k = some n → s.frozenBlock c (s.bl n) = true →
      (s.bl n).frozen = false →
      ∃ t, exec (.frozenFeedback c k) s = .next t ∧ s.Raised t 0x0314 [c.val, k.val, n] ∧
        bit (t.fld (CE_EXCL_LANE c)) k.val = true ∧ s.Sent t n cmdDisable 0 ∧ t.mvStep n = 0 ∧
        s.RegsOnly [R_CE_EXCL c, R_MX_ASG n] t)

/-- SWAP with LIVE_COEF = 1 sets CE_CTRL.SWAP and changes no other register and no active coefficient; with LIVE_COEF = 0 it only raises E:0x0331. COEF_SWAP_APPLY after an SF tick makes every active vector the exponent and the 32 mantissas of the shadow bank, clears SWAP and raises E:0x0330. -/
def Obligations.CoefficientBanks : Prop :=
  ∀ (s : State) (c : Fin 2), s.wf = true → s.clocked = true →
    (s.flag CE_GCFG_LIVE_COEF = true → ∃ t, exec (.swap c) s = .next t ∧ t.flag (CE_CTRL_SWAP c) = true ∧
      s.RegsOnly [R_CE_CTRL c] t ∧ t.log = s.log ∧ t.ces = s.ces) ∧
    (s.flag CE_GCFG_LIVE_COEF = false → exec (.swap c) s = .next (s.event 0x0331 [c.val])) ∧
    (s.flag (CE_CTRL_SWAP c) = true → (s.ce c).swapDue = true →
      ∃ t, exec (.coefSwapApply c) s = .next t ∧ t.flag (CE_CTRL_SWAP c) = false ∧ s.Raised t 0x0330 [c.val] ∧
        (∀ v < 64, (nth Stage.zero (t.ce c).cv v).e = s.fldS (CE_CVE_EXP c v) ∧
          ∀ l < 32, (nth Stage.zero (t.ce c).cv v).lane l = s.fldS (CE_CV_MANT c v l)) ∧
        s.RegsOnly [R_CE_CTRL c] t)

/-- CUP_ARM with MODE not 0 empties the buffer and takes it to FILLING, to ARMED where no pre-trigger sample is asked, or to STREAM for MODE 3, and sets ARM; with MODE 0 it changes nothing. CUP_TRIG of an armed buffer of KIND 7 starts it and raises E:0x0320. CUP_DONE of a full buffer takes it to DONE, clears ARM, prepares 16 records and raises E:0x0321. CUP_STREAM_RECORD of 4096 samples adds one record; with 16 waiting the oldest is overwritten, GAPS counts it and E:0x0322 is raised once per SF. -/
def Obligations.CuppingBuffers : Prop :=
  ∀ (s : State) (c : Fin 2) (b : Fin 8), s.wf = true → s.clocked = true → (s.ce c).cups.length = 8 →
    (s.fld (CUP_CFG_MODE c b) ≠ 0 → ∃ t, exec (.cupArm c b) s = .next t ∧ t.flag (CUP_CFG_ARM c b) = true ∧
      t.fld (CUP_STAT_STATE c b) = (if s.fld (CUP_CFG_MODE c b) = 3 then 5 else if s.fld (CUP_PRE_PRE c b) = 0 then 2 else 1) ∧
      (t.cup c b).samples = [] ∧ (t.cup c b).taken = 0 ∧ (t.cup c b).records = [] ∧ t.log = s.log) ∧
    (s.fld (CUP_CFG_MODE c b) = 0 → exec (.cupArm c b) s = .next s) ∧
    (s.fld (CUP_TRIG_KIND c b) = 7 → s.cupOpen c b = true → ∃ t, exec (.cupTrig c b) s = .next t ∧
      t.fld (CUP_STAT_STATE c b) = 3 ∧ s.Raised t 0x0320 [c.val, b.val]) ∧
    (s.fld (CUP_STAT_STATE c b) = 3 → (s.cup c b).postLeft = 0 → ∃ t, exec (.cupDone c b) s = .next t ∧
      t.fld (CUP_STAT_STATE c b) = 4 ∧ t.flag (CUP_CFG_ARM c b) = false ∧ (t.cup c b).records.length = 16 ∧
      s.Raised t 0x0321 [c.val, b.val]) ∧
    (s.fld (CUP_STAT_STATE c b) = 5 → 4096 ≤ (s.cup c b).taken → (s.cup c b).records.length < 16 →
      ∃ t r, exec (.cupStreamRecord c b) s = .next t ∧ (t.cup c b).records = (s.cup c b).records ++ [r] ∧
        r.samples = (s.cup c b).samples.reverse ∧ r.gaps = 0 ∧ (t.cup c b).taken = 0 ∧ t.regs = s.regs ∧ t.log = s.log) ∧
    (s.fld (CUP_STAT_STATE c b) = 5 → 4096 ≤ (s.cup c b).taken → (s.cup c b).records.length = 16 →
      ∃ t, exec (.cupStreamRecord c b) s = .next t ∧ (t.cup c b).records.length = 16 ∧
        t.fld (CUP_STAT_GAPS c b) = min 65535 (s.fld (CUP_STAT_GAPS c b) + 1) ∧
        ((s.cup c b).told322 = false → s.Raised t 0x0322 [c.val, b.val]) ∧
        ((s.cup c b).told322 = true → t.log = s.log))

/-- CF_TICK before the last regular CF of the SF adds 1 to the number of the CF and leaves the count; every link's frame of the new CF is not yet judged. CF_TICK in the last regular CF, and in the time that a realignment adds, changes nothing. SF_TICK with PD0 supplied adds 1 to the count of SFs, whatever the mode. In FROZEN it leaves links, outputs, Island, metrology, keys and mode as they are, and with no slew under way adds the length of the SF to legal time. -/
def Obligations.FrameTicks : Prop :=
  ∀ s : State, s.wf = true →
    (s.clocked = true → (s.tim.cfIndex + 1) * cfNs s.tim.cfSel < ms → ∃ t, exec .cfTick s = .next t ∧
      t.tim.cfIndex = s.tim.cfIndex + 1 ∧ t.tim.count = s.tim.count ∧ t.tim.sfCount = s.tim.sfCount ∧
      ∀ n < 48, (t.lk n).judged = false ∧ (t.lk n).valid = false) ∧
    (s.clocked = true → ms ≤ (s.tim.cfIndex + 1) * cfNs s.tim.cfSel → exec .cfTick s = .next s) ∧
    (∀ inp : SfIn, s.pdOn 0 = true → ∃ t, exec (.sfTick inp) s = .next t ∧ t.tim.sfCount = s.tim.sfCount + 1) ∧
    (∀ inp : SfIn, s.pdOn 0 = true → s.mode = 6 → s.flag TIME_STATUS_SLEWING = false → ∃ t, exec (.sfTick inp) s = .next t ∧
      t.tim.count = s.tim.count + s.tim.sfLen ∧ t.mode = 6 ∧ t.links = s.links ∧ t.veh = s.veh ∧ t.isl = s.isl ∧
      t.met = s.met ∧ t.keys = s.keys ∧ t.ps = s.ps)

/-- ALLOCATOR_SLOT in its slot (600 µs to 900 µs of the SF, once) with the active allocator's core running marks table 2 complete in the back buffer and leaves every front table; with that core not running, outside the slot or a second time it changes nothing. LEGAL_COMMIT_OVERRUN with the MC running counts in FRM_OVR.MC_COMMIT, shows the MC halted and raises E:0x0009, with E:0x0120 where the kind has raised none in this SF. -/
def Obligations.AllocatorAndCommitSlots : Prop :=
  ∀ s : State, s.wf = true → s.clocked = true →
    (s.coreRuns s.allocCore = true → 600000 ≤ s.inSf → s.inSf < 900000 → s.sh.t2Mark = false →
      ∃ t, exec .allocatorSlot s = .next t ∧ t.sh.t2Mark = true ∧ t.sh.t2 = s.sh.t2 ∧
      t.sh.t0 = s.sh.t0 ∧ t.sh.t1 = s.sh.t1 ∧ t.sh.feeds = s.sh.feeds ∧ t.sh.t3 = s.sh.t3 ∧ t.sh.t3l = s.sh.t3l ∧ t.sh.t4 = s.sh.t4 ∧
      t.sh.t5 = s.sh.t5) ∧
    (s.coreRuns s.allocCore = false ∨ s.inSf < 600000 ∨ 900000 ≤ s.inSf ∨ s.sh.t2Mark = true → exec .allocatorSlot s = .next s) ∧
    (s.coreRuns 2 = true → s.flag KB_BOOT_TRIAL = false → ∃ t, exec .legalCommitOverrun s = .next t ∧
      t.fld FRM_OVR_MC_COMMIT = min 255 (s.fld FRM_OVR_MC_COMMIT + 1) ∧ t.fld (coreFld 2) = 2 ∧ s.Raised t 0x0009 [2] ∧
      (2 ∉ s.tim.ovrTold → s.Raised t 0x0120 [2, 2, s.tim.sfCount]))

/-- ZONE_DIFF_EXCEEDED after 10 000 SF ticks sets GLB_STATUS.ZONE_DT and raises E:0x0006, ZONE_DIFF_CLEARED after 10 000 clears it and raises E:0x0007, no other register changing. DOMAIN_RAIL_LOST of a good domain other than PD0 makes the domain count as off while it stays commanded on, sets PD_LOST and raises E:0x0004 with the domain; no core of the domain runs on. FRONT_END_SUPPLY_FAULT marks the front end not ready, sets PD_LOST and raises E:0x0004. BARRIER_TRANSFER_BAD of a fast sample counts it, discards the sample of the output's lane and changes no register. -/
def Obligations.RailsZonesAndSupplies : Prop :=
  ∀ s : State, s.wf = true → s.clocked = true →
    (10000 ≤ s.glb.zoneOver → s.flag GLB_STATUS_ZONE_DT = false → ∃ t, exec .zoneDiffExceeded s = .next t ∧
      t.flag GLB_STATUS_ZONE_DT = true ∧ s.Raised t 0x0006 [] ∧ s.RegsOnly [R_GLB_STATUS] t) ∧
    (10000 ≤ s.glb.zoneUnder → s.flag GLB_STATUS_ZONE_DT = true → ∃ t, exec .zoneDiffCleared s = .next t ∧
      t.flag GLB_STATUS_ZONE_DT = false ∧ s.Raised t 0x0007 [] ∧ s.RegsOnly [R_GLB_STATUS] t) ∧
    (∀ pd : Fin 10, pd.val ≠ 0 → s.pdGood pd = true → ∃ t, exec (.domainRailLost pd) s = .next t ∧ t.pdGood pd = false ∧
      t.pdOn pd = true ∧ t.flag GLB_STATUS_PD_LOST = true ∧ s.Raised t 0x0004 [pd.val] ∧
      ∀ i < 8, coreDomain i = pd.val → t.coreRuns i = false) ∧
    (∀ fe : Fin 10, fe.val ∉ s.glb.feNotReady → s.pdGood 3 = true → ∃ t, exec (.frontEndSupplyFault fe) s = .next t ∧
      t.glb.feNotReady = s.glb.feNotReady ++ [fe.val] ∧ t.flag GLB_STATUS_PD_LOST = true ∧ s.Raised t 0x0004 [3, fe.val] ∧
      s.RegsOnly [R_GLB_STATUS] t) ∧
    (∀ (fe : Fin 10) (x : Fin 32) (l : Nat), fe.val < 8 → fe.val < s.glb.fastDisc.length → s.outLane fe = some l → s.outCe fe < 2 → l < (s.ce (s.outCe fe)).outs.length →
      ∃ t, exec (.barrierTransferBad fe true x) s = .next t ∧ (t.ol (s.outCe fe) l).badFast = true ∧
        nth 0 t.glb.fastDisc fe = nth 0 s.glb.fastDisc fe + 1 ∧ s.Only [.glb, .ces] t)

/-- COOLING_FAILED while a condition of R132 stands sets OUT_STAT.COOL_FAIL and raises E:0x0408; COOLING_RESTORED after 60 s without one clears it and raises E:0x0409; no other register changes. PUMP_RUNON_END after RUNON with no reason to pump takes the request back, stops the timer, and changes no register. -/
def Obligations.CoolingLoops : Prop :=
  ∀ (s : State) (j : Fin 8), s.wf = true → s.clocked = true →
    (s.coolBad j = true → s.flag (OUT_STAT_COOL_FAIL j) = false → ∃ t, exec (.coolingFailed j) s = .next t ∧
      t.flag (OUT_STAT_COOL_FAIL j) = true ∧ s.Raised t 0x0408 [j.val] ∧ s.RegsOnly [R_OUT_STAT j] t) ∧
    (s.coolBad j = false → s.flag (OUT_STAT_COOL_FAIL j) = true → 60 * sec ≤ nth 0 s.sh.coolOkNs j →
      ∃ t, exec (.coolingRestored j) s = .next t ∧ t.flag (OUT_STAT_COOL_FAIL j) = false ∧ s.Raised t 0x0409 [j.val] ∧
        s.RegsOnly [R_OUT_STAT j] t) ∧
    (s.due (.runOn j) (s.fld (OUT_COOLT_RUNON j) * 10 * sec) = true → s.pumpNeeded j = false →
      ∃ t, exec (.pumpRunonEnd j) s = .next t ∧ nth false t.sh.pump j = false ∧ t.timing (.runOn j) = false ∧
        t.regs = s.regs ∧ t.log = s.log ∧ ∀ k, k ≠ j.val → nth false t.sh.pump k = nth false s.sh.pump k)

/-- MODULE_START, none having begun: without a root key the module stays in BOOT with PD0, PD2, PD3, PD6 and PD9 on and no core released, and raises E:0x0E04; in the deployed lifecycle, with a root key, an active bank whose flash, FVK and SVN pass and whose regions load, an SC that reports, no trial and no stored configuration, it derives that key (log entry 82), raises E:0x0E01 with that bank and its version and goes to COMMISSION. SC_STARTUP_TIMEOUT in BOOT, 200 ms after the Island's release without a report, shows the SC halted with E:0x0009. COMMIT outside COMMISSION, STANDBY and BENCH only raises E:0x0003; inside, with every check passed it brings the waiting fields into force, stores the copy where PD2 is powered, sets COMMITTED and raises E:0x0002; with a check of the fields failed it raises E:0x0003, and the waiting fields and COMMITTED stay. -/
def Obligations.StartsAndCommits : Prop :=
  ∀ s : State, s.wf = true →
    (∀ inp : StartIn, s.pdOn 0 = true → s.keys.begun = none → inp.puf = none →
      ∃ t, exec (.moduleStart inp) s = .next t ∧ t.mode = 0 ∧ t.fld GLB_PD_STATE_ON = 0x24D ∧ t.reg R_GLB_CORE_STATE = 0 ∧
        t.keys.begun = none ∧ s.Raised t 0x0E04 [s.fld KB_BOOT_ACTIVE]) ∧
    (∀ (inp : StartIn) (p : List Byte), s.pdOn 0 = true → s.keys.begun = none → inp.puf = some p → inp.scOk = true → inp.loadBad = [] → s.lifecycle = 1 →
      s.flag KB_BOOT_TRIAL = false → s.glb.storedCfg = none → s.fld (KB_BANK_STAT_STATE (s.fld KB_BOOT_ACTIVE)) = 3 →
      s.bankBoots (nth false inp.bankOk (s.fld KB_BOOT_ACTIVE)) (s.fld KB_BOOT_ACTIVE) = true →
      ∃ t, exec (.moduleStart inp) s = .next t ∧ t.mode = 1 ∧ t.keys.begun = none ∧
        t.keys.root = s.deriveRoot p ∧ s.Raised t 0x0E01 [s.fld KB_BOOT_ACTIVE, (s.bank (s.fld KB_BOOT_ACTIVE)).hdr.version]) ∧
    (s.clocked = true → s.mode = 0 → s.glb.islReleased = true → s.glb.scReported = false → s.coreRuns 0 = true →
      s.due .scStart (200 * ms) = true → s.flag KB_BOOT_TRIAL = false → ∃ t, exec .scStartupTimeout s = .next t ∧ t.fld (coreFld 0) = 2 ∧ t.mode = 0 ∧
        s.Raised t 0x0009 [0]) ∧
    (s.clocked = true → ¬(s.mode = 1 ∨ s.mode = 2 ∨ s.mode = 7) → exec .commit s = .next (s.event 0x0003 [])) ∧
    (s.clocked = true → (s.mode = 1 ∨ s.mode = 2 ∨ s.mode = 7) → s.withEdit.namesUnfitted = false → s.withEdit.cfgOk = true →
      (∀ c < 2, (s.lawCheck c (s.withEdit.fld FRM_CFG_CF_SEL) (s.withEdit.flag FRM_CFG_LONG_FIBRE)).2 = true) →
      ∃ t, exec .commit s = .next t ∧ t.flag GLB_CFG_COMMIT_COMMITTED = true ∧ t.glb.edit = [] ∧
        (s.withEdit.pdGood 2 = true → t.glb.storedCfg ≠ none) ∧
        s.Raised t 0x0002 []) ∧
    (s.clocked = true → (s.mode = 1 ∨ s.mode = 2 ∨ s.mode = 7) → s.withEdit.namesUnfitted = false → s.withEdit.cfgOk = false →
      ∃ t, exec .commit s = .next t ∧ t.glb.edit = s.glb.edit ∧ s.RegsOnly [] t ∧ s.Raised t 0x0003 [])

/-- On an output that the module serves, four equal evaluations are accepted. State B on a free idle CCS output gives PLUGGED with the next session number, E:0x0501 and SLAC_TMO started; so does ID "inserted" with CE in B on an MCS output, without SLAC. State A, or no connector on the ID line, gives IDLE from any state but UNAVAILABLE. A newly invalid state counts in VD_ERR.PILOT, raises E:0x0502 and gives FAULT (12). States C and D with D_OK only show the state. -/
def Obligations.VehiclesArePluggedInAndOut : Prop :=
  ∀ (s : State) (j : Fin 8), s.wf = true → s.clocked = true → s.served j = true →
    (s.ccs j = true → ∀ (h l : List Int) (st : Nat) (d : Bool), h.length = 4 → l.length = 4 →
        (h.zip l).map (fun p => s.pilotEval j p.1 p.2) = [(st, d), (st, d), (st, d), (st, d)] →
      ∃ t, exec (.pilotStateAccepted j h l) s = .next t ∧ t.fld (VD_STAT_PILOT j) = st % 16 ∧
        (st = 1 → s.sstate j = 0 → s.outFree j = true → t.sstate j = 1 ∧ t.sess j = s.vehc.nextSession % 2 ^ 32 ∧
          t.timing (.slac j) = true ∧ s.Raised t 0x0501 [j.val, s.vehc.nextSession % 2 ^ 32, 0, 1, 0]) ∧
        (st = 0 → s.sstate j ≠ 13 → t.sstate j = 0) ∧
        (st = 6 → s.fld (VD_STAT_PILOT j) ≠ 6 → t.sstate j = 12 ∧ s.Raised t 0x0502 [j.val, s.sess j] ∧
          t.fld (VD_ERR_PILOT j) = min 255 (s.fld (VD_ERR_PILOT j) + 1)) ∧
        (2 ≤ st → st ≤ 4 → t.sstate j = s.sstate j ∧ t.log = s.log)) ∧
    (s.ccs j = false → ∀ a b c d : Int, idWin a = idWin b → idWin b = idWin c → idWin c = idWin d →
      ∃ t, exec (.mcsLineStateAccepted j true [a, b, c, d]) s = .next t ∧
        (idWin a = 1 → s.fld (VD_STAT_PILOT j) = 1 → s.sstate j = 0 → s.outFree j = true → t.sstate j = 1 ∧
          t.sess j = s.vehc.nextSession % 2 ^ 32) ∧
        (idWin a = 0 → s.sstate j ≠ 13 → t.sstate j = 0) ∧
        (idWin a = 2 → (s.vh j).idState ≠ 2 → t.sstate j = 12 ∧ s.Raised t 0x0502 [j.val, s.sess j]))

/-- In PLUGGED with no retry pause: CM_SLAC_PARM_REQ is answered with a membership key drawn for it; CM_VALIDATE is answered "not required"; SLAC_MATCH on a CCS output, which keeps the attenuation profile it answered with, and PLCA_LINK_UP on an MCS output, set LINK, stop SLAC_TMO, start SETUP_TMO and enter SETUP with E:0x0501. SECC_DISCOVERY_REQ in SETUP is answered. TLS_HANDSHAKE that completes on a version, suite and group that the module offers, with the slot whose chain the VC offers, sets TLS; one on a slot whose mask names another engine, without a chain, or one that fails raises E:0x0508; no other slot is offered, so a command that names one changes nothing (log entry 17). A lost PHY signal, or a closed connection, in a session past SETUP raises E:0x050F, keeps the session as lost, starts RESUME_WIN and returns to PLUGGED; COMM_RETRY after 3 s drives the duty cycle and starts SLAC_TMO. -/
def Obligations.VehicleLinks : Prop :=
  ∀ (s : State) (j : Fin 8), s.wf = true → s.clocked = true →
    (s.served j = true → s.sstate j = 1 → s.timing (.retryPause j) = false →
      (s.ccs j = true → s.timing (.slac j) = true ∨ (s.vh j).lost = true → ∃ t k, exec (.cmSlacParmReq j) s = .next t ∧
        (t.vh j).nmk = some k ∧ k < 2 ^ 128 ∧ t.fresh = s.fresh + 1 ∧ (t.vh j).resp = 1 ∧ s.Only [.veh, .fresh] t) ∧
      (s.ccs j = true → ∃ t, exec (.cmValidate j) s = .next t ∧ (t.vh j).resp = 6 ∧ s.Only [.veh] t) ∧
      (∀ (c : Instr) (p : List Byte),
        (c = .slacMatch j p ∧ s.ccs j = true ∧ (s.vh j).nmk ≠ none ∨ c = .plcaLinkUp j ∧ s.ccs j = false ∧ p = (s.vh j).atten) →
        ∃ t, exec c s = .next t ∧ (t.vh j).atten = p ∧ t.sstate j = 2 ∧ t.flag (VD_STAT_LINK j) = true ∧ t.timing (.slac j) = false ∧
          t.timing (.setup j) = true ∧ s.Raised t 0x0501 [j.val, s.sess j, 1, 2, 0])) ∧
    (s.takesReq j 2 = true → ∃ t, exec (.seccDiscoveryReq j) s = .next t ∧ (t.vh j).tcp = true ∧ (t.vh j).resp = 1 ∧
      s.Only [.veh] t) ∧
    (∀ (slot : BitVec 8) (hello : TlsHello), s.takesReq j 2 = true → (s.vh j).tcp = true → s.flag (VD_STAT_TLS j) = false →
      (s.keyFor slot.toNat (engTls (s.outVc j))).isSome = true → 16 ≤ slot.toNat →
      (∀ con, s.tlsPick j hello = some con → s.tlsSlot j hello = some slot.toNat →
        ∃ t, exec (.tlsHandshake j slot hello true) s = .next t ∧ t.flag (VD_STAT_TLS j) = true ∧ (t.vh j).tls = some con ∧
          s.RegsOnly [R_VD_STAT j] t ∧ t.log = s.log) ∧
      (∀ k, s.tlsSlot j hello = some k → k ≠ slot.toNat → (s.slot slot.toNat).now.mask = 2 ^ engTls (s.outVc j) →
        ∀ ok, exec (.tlsHandshake j slot hello ok) s = .next s) ∧
      ∀ ok : Bool, ((s.slot slot.toNat).now.mask ≠ 2 ^ engTls (s.outVc j) ∨ s.tlsSlot j hello = none ∨
          s.tlsSlot j hello = some slot.toNat ∧ (ok = false ∨ s.tlsPick j hello = none)) →
        ∃ t, exec (.tlsHandshake j slot hello ok) s = .next t ∧ s.Raised t 0x0508 [j.val, s.sess j] ∧
          t.fld (VD_ERR_TLS j) = min 255 (s.fld (VD_ERR_TLS j) + 1)) ∧
    (3 ≤ s.sstate j → s.sstate j ≤ 8 →
      (s.flag (VD_STAT_LINK j) = true → ∃ t, exec (.phySignalLost j) s = .next t ∧ t.sstate j = 1 ∧ (t.vh j).lost = true ∧
        t.timing (.resume j) = true ∧ t.flag (VD_STAT_LINK j) = false ∧ s.Raised t 0x050F [j.val, s.sess j]) ∧
      (s.dialog j = true → (s.vh j).tcp = true → ∃ t, exec (.tcpClosed j) s = .next t ∧ t.sstate j = 1 ∧
        (t.vh j).lost = true ∧ (t.vh j).tcp = false ∧ t.timing (.resume j) = true ∧ s.Raised t 0x050F [j.val, s.sess j])) ∧
    (s.due (.retryPause j) (3 * sec) = true → s.sstate j = 1 → s.ccs j = true → ∃ t, exec (.commRetry j) s = .next t ∧
      (t.vh j).drive = 1 ∧ t.timing (.slac j) = true ∧ t.timing (.retryPause j) = false ∧ t.regs = s.regs)

/-- On a dialogue in SETUP: SUPPORTED_APP_PROTOCOL_REQ selects the highest-ranked protocol allowed, shows it and raises E:0x0506, or without one raises E:0x0507 and ends the session with reason 5. SESSION_SETUP_REQ records the EVCCID; one that names the lost session before RESUME_WIN has passed resumes it at PARAM or AUTH with E:0x0515. SERVICE_DISCOVERY_REQ is answered OK with the services that the output offers (DC or MCS, and the bidirectional one where its conditions hold), and after it SERVICE_DETAIL_REQ is answered OK; SERVICE_SELECTION_REQ takes the service, or refuses a bidirectional one that is not offered with E:0x0516; before SERVICE_DISCOVERY_REQ it is a sequence error that ends the session with reason 8. PAYMENT_SELECTION_REQ, after SERVICE_DISCOVERY_REQ but under ISO 15118-20, for external payment that the output offers enters AUTH and posts a request for the host. -/
def Obligations.SessionsAreSetUp : Prop :=
  ∀ (s : State) (j : Fin 8), s.takesReq j 2 = true →
    (∀ (din iso2 iso20 : Bool), (s.vh j).phase = 0 → (s.vh j).tcp = true →
      (∀ p, (ranking (s.fld VD_GCFG_PPRIO)).find? (s.protoOk j din iso2 iso20) = some p →
        ∃ t, exec (.supportedAppProtocolReq j din iso2 iso20) s = .next t ∧ t.proto j = p ∧ (t.vh j).phase = 1 ∧
          (t.vh j).resp = 1 ∧ s.Raised t 0x0506 [j.val, s.sess j, p]) ∧
      ((ranking (s.fld VD_GCFG_PPRIO)).find? (s.protoOk j din iso2 iso20) = none →
        ∃ t, exec (.supportedAppProtocolReq j din iso2 iso20) s = .next t ∧ t.sstate j = 11 ∧ t.fld (VD_STAT_REASON j) = 5 ∧
          (t.vh j).resp = 3 ∧ s.Raised t 0x0507 [j.val, s.sess j])) ∧
    (∀ (session : Nat) (ev : BitVec 48), (s.vh j).phase = 1 → (s.vh j).lost = false →
      ∃ t, exec (.sessionSetupReq j session ev) s = .next t ∧ t.evcc j = ev.toNat ∧ (t.vh j).phase = 2 ∧ (t.vh j).resp = 1 ∧
        t.timing (.setup j) = false ∧ t.timing (.seq j) = true) ∧
    (∀ ev : BitVec 48, (s.vh j).phase = 1 → (s.vh j).lost = true → s.timing (.resume j) = true →
      s.due (.resume j) (s.fld VD_GCFG_RESUME_WIN * sec) = false →
      ∃ t, exec (.sessionSetupReq j (s.sess j) ev) s = .next t ∧ (t.vh j).lost = false ∧ t.timing (.resume j) = false ∧
        t.sstate j = (if (s.vh j).authOk = true then 4 else 3) ∧ s.Raised t 0x0515 [j.val, s.sess j]) ∧
    (2 ≤ (s.vh j).phase →
      (∃ t, exec (.serviceDiscoveryReq j) s = .next t ∧ (t.vh j).resp = 1 ∧ t.sstate j = 2 ∧ t.timing (.seq j) = true ∧
        1 ≤ (t.vh j).svc ∧ ((if s.ccs j = true then SvcKind.dc else .mcs) ∈ (t.vh j).msg.services) ∧
        ((if s.ccs j = true then SvcKind.dcBpt else .mcsBpt) ∈ (t.vh j).msg.services ↔ s.bptOffered j = true)) ∧
      (s.proto j = 3 → (s.vh j).svc = 0 → ∀ bpt dyn : Bool, ∃ t, exec (.serviceSelectionReq j bpt dyn) s = .next t ∧
        (t.vh j).resp = 4 ∧ t.sstate j = 11 ∧ t.fld (VD_STAT_REASON j) = 8) ∧
      (2 ≤ s.proto j → 1 ≤ (s.vh j).svc → ∃ t, exec (.serviceDetailReq j) s = .next t ∧ (t.vh j).resp = 1 ∧ t.sstate j = 2 ∧
        t.timing (.seq j) = true) ∧
      (∀ bpt dyn : Bool, s.proto j = 3 → 1 ≤ (s.vh j).svc → (bpt = false ∨ s.bptOffered j = true) →
        ∃ t, exec (.serviceSelectionReq j bpt dyn) s = .next t ∧ (t.vh j).bpt = bpt ∧ (t.vh j).dynamic = dyn ∧ (t.vh j).resp = 1) ∧
      (∀ dyn : Bool, s.proto j = 3 → 1 ≤ (s.vh j).svc → s.bptOffered j = false → ∃ t, exec (.serviceSelectionReq j true dyn) s = .next t ∧
        (t.vh j).resp = 5 ∧ (t.vh j).bpt = (s.vh j).bpt ∧ s.Raised t 0x0516 [j.val, s.sess j]) ∧
      (s.flag (VD_CFG_EIM j) = true → s.proto j ≠ 2 → (s.proto j = 3 ∨ 1 ≤ (s.vh j).svc) → (s.vh j).lead = none → s.heldCard j = none →
        ∃ t, exec (.paymentSelectionReq j false) s = .next t ∧ t.sstate j = 3 ∧ (t.vh j).payment = 1 ∧ (t.vh j).resp = 1 ∧
          (t.vh j).authReq = some s.vehc.nextReq ∧ t.timing (.auth j) = true ∧ s.Raised t 0x0501 [j.val, s.sess j, 2, 3, 0]))

/-- On a dialogue in AUTH: PAYMENT_DETAILS_REQ under contract posts the eMAID and its chain and starts AUTH_TMO; CERTIFICATE_INSTALLATION_REQ posts the request, starts CERT_TMO and is answered Ongoing, and with an answer at hand is answered OK or FAILED by it, with the host's payload; AUTHORIZATION_REQ (under ISO 15118-2 with contract after PAYMENT_DETAILS_REQ) is Ongoing while the host's answer is outstanding and, once authorised with room for records, is answered OK and enters PARAM. AUTH_TMO counts, raises E:0x0509 and ends the session with reason 4; CERT_TMO counts, raises E:0x050B, keeps the session, and leaves FAILED for the vehicle. -/
def Obligations.AuthorisationOfSessions : Prop :=
  ∀ (s : State) (j : Fin 8),
    (s.takesReq j 3 = true →
      (∀ emaid chain, s.proto j = 2 → (s.vh j).payment = 2 → (s.vh j).lead = none →
        ∃ t r, exec (.paymentDetailsReq j emaid chain) s = .next t ∧ t.vehc.posted = s.vehc.posted ++ [r] ∧ r.kind = 1 ∧
          r.idType = 2 ∧ r.ident = emaid ∧ r.payload = chain ∧ r.out = j.val ∧ r.session = s.sess j ∧
          (t.vh j).authReq = some r.rid ∧ t.timing (.auth j) = true ∧ (t.vh j).resp = 1) ∧
      (∀ payload, 2 ≤ s.proto j → (s.vh j).payment = 2 → (s.vh j).certAns = 0 → (s.vh j).certReq = none →
        ∃ t r, exec (.certificateInstallationReq j payload) s = .next t ∧ t.vehc.posted = s.vehc.posted ++ [r] ∧ r.kind = 2 ∧
          r.payload = payload ∧ r.out = j.val ∧ (t.vh j).certReq = some r.rid ∧ t.timing (.cert j) = true ∧ (t.vh j).resp = 2) ∧
      (∀ payload, 2 ≤ s.proto j → (s.vh j).payment = 2 → (s.vh j).certAns ≠ 0 →
        ∃ t, exec (.certificateInstallationReq j payload) s = .next t ∧ (t.vh j).certAns = 0 ∧
          (t.vh j).msg.payload = (s.vh j).certPay ∧ (t.vh j).resp = if (s.vh j).certAns = 1 then 1 else 3) ∧
      (∀ ident chain, (s.proto j ≠ 2 ∨ (s.vh j).payment ≠ 2 ∨ (s.vh j).payDone = true) → s.flag LEG_STATUS_FULL = false → (s.vh j).authOk = true →
        ∃ t, exec (.authorizationReq j ident chain) s = .next t ∧ t.sstate j = 4 ∧ (t.vh j).resp = 1 ∧
          s.Raised t 0x0501 [j.val, s.sess j, 3, 4, 0]) ∧
      (∀ ident chain, (s.proto j ≠ 2 ∨ (s.vh j).payment ≠ 2 ∨ (s.vh j).payDone = true) → s.flag LEG_STATUS_FULL = false → (s.vh j).authOk = false → (s.vh j).lead = none → (s.vh j).authReq.isSome = true →
        ∃ t, exec (.authorizationReq j ident chain) s = .next t ∧ t.sstate j = 3 ∧ (t.vh j).resp = 2 ∧
          t.vehc.posted = s.vehc.posted)) ∧
    (s.wf = true → s.clocked = true → s.sstate j ≠ 11 → s.due (.auth j) (s.fld VD_TMO0_AUTH_TMO * 10 * ms) = true →
      ∃ t, exec (.authTmo j) s = .next t ∧ t.sstate j = 11 ∧ t.fld (VD_STAT_REASON j) = 4 ∧ s.Raised t 0x0509 [j.val, s.sess j] ∧
        t.fld (VD_ERR_TMO j) = min 255 (s.fld (VD_ERR_TMO j) + 1) ∧ t.timing (.auth j) = false) ∧
    (s.wf = true → s.clocked = true → s.due (.cert j) (s.fld VD_TMO0_CERT_TMO * 100 * ms) = true →
      ∃ t, exec (.certTmo j) s = .next t ∧ t.sstate j = s.sstate j ∧ (t.vh j).certAns = 2 ∧ (t.vh j).certReq = none ∧
        s.Raised t 0x050B [j.val, s.sess j] ∧ t.fld (VD_ERR_TMO j) = min 255 (s.fld (VD_ERR_TMO j) + 1) ∧
        t.timing (.cert j) = false ∧ s.RegsOnly [R_VD_ERR j] t)

/-- On a dialogue in the state named: CHARGE_PARAMETER_DISCOVERY_REQ in PARAM, and CHARGE_LOOP_REQ in TRANSFER, take the vehicle's values (a negative target without a bidirectional service selected and still offered is answered so, with E:0x0516, and taken no values of); a charge-loop response starts LOOP_TMO, any other SEQ_TMO. SCHEDULE_EXCHANGE_REQ under ISO 15118-20 is answered OK, with a tuple of 24 h, the limits announced and the price in Scheduled mode. CABLE_CHECK_REQ in PARAM after the parameters (and the schedule, under ISO 15118-20), with the pilot in C, the module in RUN or DEGRADED and the output's latent test done, commands the lock, starts CC_TMO and enters CABLECHECK, and is answered Ongoing in PARAM while one of the last two lacks; before the parameters or the schedule it is a sequence error. PRECHARGE_REQ takes the target and is OK once the voltage is near. POWER_DELIVERY_REQ start after precharge enters TRANSFER, and is refused while the output's front end is not ready; stop enters STOPPING, standby and renegotiation enter PAUSED under their protocols. METERING_RECEIPT_REQ under ISO 15118-2 and WELDING_DETECTION_REQ in WELDCHECK are answered OK; SESSION_STOP_REQ in WELDCHECK ends the session. UNSUPPORTED_REQUEST is answered with a sequence error and ends the session with reason 8, through STOPPING from TRANSFER, at once in PARAM and in WELDCHECK. -/
def Obligations.ChargingIsStartedAndStopped : Prop :=
  ∀ (s : State) (j : Fin 8),
    (∀ v : VehValues, ¬(v.iTgt < 0 ∧ ((s.vh j).bpt = false ∨ s.bptOffered j = false)) →
      ∀ c : Instr, (c = .chargeParameterDiscoveryReq j v ∧ s.takesReq j 4 = true ∧ (s.proto j ≠ 3 ∨ (s.vh j).svc = 2) ∨ c = .chargeLoopReq j v ∧ s.takesReq j 7 = true) →
        ∃ t, exec c s = .next t ∧ (t.vh j).resp = 1 ∧ (t.vh j).row.iTgt = v.iTgt ∧ (t.vh j).row.iMax = v.iMax ∧
          (t.vh j).row.vTgt = v.vTgt ∧ (t.vh j).row.vMax = v.vMax ∧ (t.vh j).row.pMax = v.pMax ∧ t.sstate j = s.sstate j ∧
          t.fld (VD_EVV_VMAX j) = min 65535 v.vMax ∧ t.fld (VD_EVP_PMAX j) = min 65535 v.pMax) ∧
    (∀ v : VehValues, s.takesReq j 7 = true → ∃ t, exec (.chargeLoopReq j v) s = .next t ∧ t.timing (.loop j) = true ∧
      t.elapsed (.loop j) = 0 ∧ t.timing (.seq j) = false ∧ t.sstate j = 7) ∧
    (∀ v : VehValues, v.iTgt < 0 → (s.vh j).bpt = false ∨ s.bptOffered j = false → s.takesReq j 7 = true → ∃ t, exec (.chargeLoopReq j v) s = .next t ∧
      (t.vh j).resp = 5 ∧ (t.vh j).row = (s.vh j).row ∧ s.Raised t 0x0516 [j.val, s.sess j]) ∧
    (s.takesReq j 4 = true → s.proto j = 3 → (s.vh j).paramDone = true → ∃ t, exec (.scheduleExchangeReq j) s = .next t ∧ (t.vh j).resp = 1 ∧ t.sstate j = 4 ∧
      (t.vh j).msg.sched = (if (s.vh j).dynamic = true then none else some ⟨24, (t.vh j).msg.lim, (s.vh j).price⟩)) ∧
    (s.takesReq j 4 = true → ((s.vh j).paramDone = false ∨ s.proto j = 3 ∧ (s.vh j).schedDone = false) → ∃ t, exec (.cableCheckReq j) s = .next t ∧ t.sstate j = 11 ∧
      t.fld (VD_STAT_REASON j) = 8 ∧ (t.vh j).resp = 4) ∧
    (s.takesReq j 4 = true → (s.vh j).paramDone = true → (s.proto j = 3 → (s.vh j).schedDone = true) → s.fld (VD_STAT_PILOT j) = 2 →
      (s.running = false ∨ (s.io j).latDone = false) → ∃ t, exec (.cableCheckReq j) s = .next t ∧ t.sstate j = 4 ∧ (t.vh j).resp = 2 ∧
        t.timing (.paramMode j) = true) ∧
    (s.takesReq j 4 = true → (s.vh j).paramDone = true → (s.proto j = 3 → (s.vh j).schedDone = true) → s.fld (VD_STAT_PILOT j) = 2 →
      s.running = true → (s.io j).latDone = true → ∃ t, exec (.cableCheckReq j) s = .next t ∧
      t.sstate j = 5 ∧ (t.vh j).lockCmd = true ∧ (t.vh j).resp = 2 ∧ t.timing (.cc j) = true ∧ t.timing (.lockConfirm j) = true ∧
      s.Raised t 0x0501 [j.val, s.sess j, 4, 5, 0]) ∧
    (∀ v : Nat, s.takesReq j 6 = true → ∃ t, exec (.prechargeReq j v) s = .next t ∧ (t.vh j).preAsked = true ∧
      (t.vh j).row.vTgt = v ∧ t.sstate j = 6 ∧ (t.vh j).resp = if (t.vh j).preOk = true then 1 else 2) ∧
    (s.takesReq j 6 = true → s.glb.feNotReady.contains j.val = true → ∃ t, exec (.powerDeliveryReq j .start) s = .next t ∧ t.sstate j = 6 ∧
      (t.vh j).resp = 3) ∧
    (s.takesReq j 6 = true → s.glb.feNotReady.contains j.val = false → (s.vh j).preOk = true → ∃ t, exec (.powerDeliveryReq j .start) s = .next t ∧ t.sstate j = 7 ∧
      (t.vh j).resp = 1 ∧ t.timing (.seq j) = true ∧ s.Raised t 0x0501 [j.val, s.sess j, 6, 7, 0]) ∧
    (s.takesReq j 7 = true →
      ((s.vh j).evseStop = 0 → ∃ t, exec (.powerDeliveryReq j .stop) s = .next t ∧ t.sstate j = 9 ∧ (t.vh j).endReason = 1 ∧
        (t.vh j).resp = 1) ∧
      (s.proto j = 3 → ∃ t, exec (.powerDeliveryReq j .standby) s = .next t ∧ t.sstate j = 8 ∧ (t.vh j).resp = 1 ∧
        t.timing (.loop j) = false) ∧
      (s.proto j = 2 → ∃ t, exec (.powerDeliveryReq j .renegotiate) s = .next t ∧ t.sstate j = 8 ∧ (t.vh j).resp = 1 ∧
        t.timing (.loop j) = false) ∧
      (s.proto j = 2 → ∃ t, exec (.meteringReceiptReq j) s = .next t ∧ t.sstate j = 7 ∧ (t.vh j).resp = 1) ∧
      ∃ t, exec (.unsupportedRequest j) s = .next t ∧ t.sstate j = 9 ∧ (t.vh j).endReason = 8 ∧ (t.vh j).resp = 4) ∧
    (s.takesReq j 10 = true →
      (∃ t, exec (.weldingDetectionReq j) s = .next t ∧ t.sstate j = 10 ∧ (t.vh j).resp = 1) ∧
      ∃ t, exec (.sessionStopReq j) s = .next t ∧ t.sstate j = 11 ∧ (t.vh j).resp = 1 ∧
        ((s.vh j).endReason ≠ 0 → (s.vh j).endReason < 32 → t.fld (VD_STAT_REASON j) = (s.vh j).endReason)) ∧
    (s.takesReq j 4 = true ∨ s.takesReq j 10 = true → ∃ t, exec (.unsupportedRequest j) s = .next t ∧ t.sstate j = 11 ∧ t.fld (VD_STAT_REASON j) = 8 ∧
      (t.vh j).resp = 4)

/-- When due: SLAC_TMO in PLUGGED counts, raises E:0x0504 (CCS) or E:0x0505 and, with retries left, starts the 3 s pause; SETUP_TMO in SETUP raises E:0x050F; SEQ_TMO and LOOP_TMO past SETUP raise E:0x050F and E:0x050E and keep the session as lost under RESUME_WIN; CC_TMO in CABLECHECK ends it with reason 11 and E:0x050C, PC_TMO in PRECHARGE with 12 and E:0x050D, an unconfirmed lock with 13, 60 s in PARAM without RUN with 14; STOP_TMO in TRANSFER enters STOPPING with the reason announced, and from SETUP to PRECHARGE ends the session with it; RESUME_WIN ends a lost session; JOIN_WIN only ends; STOP_CURRENT_ZERO enters WELDCHECK at 2 A or less, and WELDCHECK_TIMEOUT ends the session. -/
def Obligations.DialogueTimers : Prop :=
  ∀ (s : State) (j : Fin 8), s.wf = true → s.clocked = true →
    (s.due (.slac j) (s.fld VD_TMO0_SLAC_TMO * sec) = true → s.sstate j = 1 → (s.vh j).retries < s.fld VD_GCFG_RETRY →
      ∃ t, exec (.slacTmo j) s = .next t ∧ t.sstate j = 1 ∧ t.timing (.retryPause j) = true ∧ (t.vh j).retries = (s.vh j).retries + 1 ∧
        s.Raised t (if s.ccs j = true then 0x0504 else 0x0505) [j.val, s.sess j] ∧
        t.fld (VD_ERR_TMO j) = min 255 (s.fld (VD_ERR_TMO j) + 1) ∧ t.fld (VD_ERR_SLAC j) = min 255 (s.fld (VD_ERR_SLAC j) + 1)) ∧
    (s.due (.setup j) (20 * sec) = true → s.sstate j = 2 → (s.vh j).retries < s.fld VD_GCFG_RETRY →
      ∃ t, exec (.setupTmo j) s = .next t ∧ t.sstate j = 1 ∧ t.timing (.retryPause j) = true ∧ s.Raised t 0x050F [j.val, s.sess j]) ∧
    (3 ≤ s.sstate j → s.sstate j ≤ 8 →
      (s.due (.seq j) (60 * sec) = true → ∃ t, exec (.seqTmo j) s = .next t ∧ t.sstate j = 1 ∧ (t.vh j).lost = true ∧
        t.timing (.resume j) = true ∧ s.Raised t 0x050F [j.val, s.sess j]) ∧
      (s.due (.loop j) (s.fld VD_TMO1_LOOP_TMO * 50 * ms) = true → ∃ t, exec (.loopTmo j) s = .next t ∧ t.sstate j = 1 ∧
        (t.vh j).lost = true ∧ t.timing (.resume j) = true ∧ s.Raised t 0x050E [j.val, s.sess j])) ∧
    (s.due (.cc j) (s.fld VD_TMO1_CC_TMO * sec) = true → s.sstate j = 5 → ∃ t, exec (.ccTmo j) s = .next t ∧ t.sstate j = 11 ∧
      t.fld (VD_STAT_REASON j) = 11 ∧ s.Raised t 0x050C [j.val, s.sess j]) ∧
    (s.due (.pc j) (s.fld VD_TMO1_PC_TMO * sec) = true → s.sstate j = 6 → ∃ t, exec (.pcTmo j) s = .next t ∧ t.sstate j = 11 ∧
      t.fld (VD_STAT_REASON j) = 12 ∧ s.Raised t 0x050D [j.val, s.sess j]) ∧
    (s.due (.lockConfirm j) sec = true → s.sstate j = 5 → (s.vh j).lockOk = false → ∃ t, exec (.lockConfirmTimeout j) s = .next t ∧
      t.sstate j = 11 ∧ t.fld (VD_STAT_REASON j) = 13) ∧
    (s.due (.paramMode j) (60 * sec) = true → s.sstate j = 4 → s.running = false → ∃ t, exec (.paramModeTimeout j) s = .next t ∧
      t.sstate j = 11 ∧ t.fld (VD_STAT_REASON j) = 14) ∧
    (s.due (.stop j) (s.fld VD_TMO1_STOP_TMO * 100 * ms) = true → s.sstate j = 7 → ∃ t, exec (.stopTmo j) s = .next t ∧ t.sstate j = 9 ∧
      (t.vh j).endReason = (s.vh j).evseStop ∧ t.timing (.stop j) = false) ∧
    (s.due (.stop j) (s.fld VD_TMO1_STOP_TMO * 100 * ms) = true → 2 ≤ s.sstate j → s.sstate j ≤ 6 → (s.vh j).evseStop < 32 →
      ∃ t, exec (.stopTmo j) s = .next t ∧ t.sstate j = 11 ∧ t.fld (VD_STAT_REASON j) = (s.vh j).evseStop) ∧
    (s.due (.resume j) (s.fld VD_GCFG_RESUME_WIN * sec) = true → (s.vh j).lost = true → ∃ t, exec (.resumeWin j) s = .next t ∧
      t.sstate j = 11 ∧ (t.vh j).lost = false ∧ t.timing (.resume j) = false) ∧
    (s.due (.join j) (s.fld VD_GCFG_JOIN_WIN * sec) = true → ∃ t, exec (.joinWin j) s = .next t ∧ t.timing (.join j) = false ∧
      t.fld (VD_ERR_TMO j) = min 255 (s.fld (VD_ERR_TMO j) + 1) ∧ s.RegsOnly [R_VD_ERR j] t ∧ t.veh = s.veh) ∧
    (s.sstate j = 9 → (s.fastI j).natAbs ≤ 2000 → ∃ t, exec (.stopCurrentZero j) s = .next t ∧ t.sstate j = 10 ∧
      t.timing (.weldWait j) = true ∧ s.Raised t 0x0501 [j.val, s.sess j, 9, 10, 0]) ∧
    (s.due (.weldWait j) (5 * sec) = true → s.sstate j = 10 → ∃ t, exec (.weldcheckTimeout j) s = .next t ∧ t.sstate j = 11)

/-- VD_CTRL_STOP on an output of no joined session: from SETUP to PAUSED with no stop announced it leaves reason 2 to announce; in PLUGGED it ends the session with reason 2. VD_CTRL_JOIN naming an output that this one may join makes both members of one session and raises E:0x0510; any other is ignored and raises E:0x0512. Both are ignored for an output that is not fitted. -/
def Obligations.HostStopsAndJoins : Prop :=
  ∀ (s : State) (j : Fin 8), s.wf = true → s.clocked = true →
    (s.nOuts ≤ j.val → exec (.vdCtrlStop j) s = .next s ∧ ∀ k : BitVec 4, exec (.vdCtrlJoin j k) s = .next s) ∧
    (j.val < s.nOuts → (s.vh j).lead = none → 2 ≤ s.sstate j → s.sstate j ≤ 8 → (s.vh j).evseStop = 0 → ∃ t, exec (.vdCtrlStop j) s = .next t ∧
      (t.vh j).evseStop = 2 ∧ t.sstate j = s.sstate j ∧ t.regs = s.regs) ∧
    (j.val < s.nOuts → (s.vh j).lead = none → s.sstate j = 1 → ∃ t, exec (.vdCtrlStop j) s = .next t ∧ t.sstate j = 11 ∧
      t.fld (VD_STAT_REASON j) = 2) ∧
    (∀ k : BitVec 4, j.val < s.nOuts → k.toNat < 8 → s.joinable j k.toNat = true → 2 ≤ s.sstate j → s.sstate j ≤ 8 →
      ∃ t, exec (.vdCtrlJoin j k) s = .next t ∧ (t.vh j).lead = some ((s.vh k.toNat).lead.getD k.toNat) ∧
        (t.vh k.toNat).lead = (t.vh j).lead ∧ t.flag (VD_STAT_JOINED j) = true ∧ t.flag (VD_STAT_JOINED k.toNat) = true ∧
        s.Raised t 0x0510 [j.val, s.sess ((s.vh k.toNat).lead.getD k.toNat)]) ∧
    (∀ k : BitVec 4, j.val < s.nOuts → ¬(k.toNat < 8 ∧ s.joinable j k.toNat = true ∧ 2 ≤ s.sstate j ∧ s.sstate j ≤ 8) →
      ∃ t, exec (.vdCtrlJoin j k) s = .next t ∧ s.Raised t 0x0512 [j.val, s.sess j] ∧ t.veh = s.veh ∧ s.RegsOnly [R_VD_CTRL j] t)

/-- OFFSET_CAPTURE after 64 quiet SFs on a zero-flux output writes the mean as the new offset where it is within ±2 A, and refuses it with E:0x0611, registers unchanged, beyond. A rotation starts with AUTO_ZERO. A step whose SFs have run moves on, the GC running: AUTO_ZERO to CAL_REF with the offset, CAL_REF to SHADOW with the gain and the reference monitor, SHADOW that passes over the SFs kept to SWITCH, SWITCH to rest with E:0x0601 and ROT_INT running; spare and channel are exchanged, and ROT_INT begins, at the SF tick that ends SWITCH; SHADOW that fails once starts over with E:0x0602, twice leaves the target with E:0x0603 and its calibration check failed. A harmonic window that has completed inside the tracking range is shown as valid, as TRANSIENT by R177 (counted, E:0x060D; by a dip, or frequencies more than 0.5 Hz apart), and RES_FAIL follows the residual current; outside the range it gives no result. MET_SNAP asks for a snapshot, and its release ends it. -/
def Obligations.PrecisionFrontEnds : Prop :=
  ∀ s : State, s.wf = true → s.clocked = true →
    (∀ j : Fin 8, 64 ≤ (s.mo j).capRun → s.fld (MET_OCFG_SENSOR j) = 2 →
      (((s.mo j).capSum * (s.fld (MET_RSH_RCAL j) : Int)).natAbs ≤ 2000000 * 12288 → ∃ t, exec (.offsetCapture j) s = .next t ∧
        (t.mo j).off = (s.mo j).capSum ∧ t.fldS (MET_TSH_OFFS j) = satS 16 (rneDiv (s.mo j).capSum 122880) ∧ s.RegsOnly [R_MET_TSH j] t ∧ t.log = s.log) ∧
      (2000000 * 12288 < ((s.mo j).capSum * (s.fld (MET_RSH_RCAL j) : Int)).natAbs → ∃ t, exec (.offsetCapture j) s = .next t ∧
        s.RegsOnly [] t ∧ s.Raised t 0x0611 [j.val])) ∧
    (∀ fe : Fin 10, s.rotMay = true →
      ((s.rot fe).step = 0 → fe.val < s.met.rots.length → s.coreRuns 7 = true →
          (s.timing (.rot fe.val) = false ∨ s.due (.rot fe.val) (s.fld MET_GCFG_ROT_INT * sec) = true) →
        ∃ t, exec (.rotationStepStart fe) s = .next t ∧ (t.rot fe).step = 1 ∧ (t.rot fe).left = 32 ∧ s.Only [.regs, .timers, .met] t) ∧
      (∀ d : Bool, (s.rot fe).step = 4 → (s.rot fe).left = 1 →
        ((s.rotTick fe d).rot fe).spare = nth 0 (s.rot fe).conv (s.rot fe).tgt ∧
        ((s.rotTick fe d).rot fe).conv = (s.rot fe).conv.set (s.rot fe).tgt (s.rot fe).spare ∧
        ((s.rotTick fe d).rot fe).left = 0 ∧ (s.rotTick fe d).timing (.rot fe.val) = true ∧ (s.rotTick fe d).elapsed (.rot fe.val) = 0) ∧
      ∀ res : RotResult, (s.rot fe).left = 0 → s.coreRuns 7 = true →
        ((s.rot fe).step = 1 → ∃ t, exec (.rotationStepEnd fe res) s = .next t ∧ (t.rot fe).step = 2 ∧ (t.rot fe).left = 64 ∧
          (t.rot fe).zero = (s.rot fe).zero.set (s.rot fe).spare res.meas) ∧
        ((s.rot fe).step = 2 → ∃ t, exec (.rotationStepEnd fe res) s = .next t ∧ (t.rot fe).step = 3 ∧
          (t.rot fe).gain = (s.rot fe).gain.set (s.rot fe).spare res.meas ∧ (t.rot fe).refDev = res.refPpm ∧
          (100 < res.refPpm.natAbs → t.flag MET_STATUS_REF_WARN = true ∧
            ((s.rot fe).refDev.natAbs ≤ 100 → s.Raised t 0x0612 [fe.val]))) ∧
        ((s.rot fe).step = 3 →
          ((((s.shadowSums fe res).1 - (s.shadowSums fe res).2).natAbs * 1000000 : Int) ≤
              (50 * (s.shadowSums fe res).2.natAbs : Int) + 10 * s.fullScale fe (s.rot fe).tgt * (s.shadowKept fe res).length →
            ∃ t, exec (.rotationStepEnd fe res) s = .next t ∧ (t.rot fe).step = 4 ∧ (s.rot fe).tgt ∉ (t.rot fe).calchk) ∧
          ((50 * (s.shadowSums fe res).2.natAbs : Int) + 10 * s.fullScale fe (s.rot fe).tgt * (s.shadowKept fe res).length <
              (((s.shadowSums fe res).1 - (s.shadowSums fe res).2).natAbs * 1000000 : Int) →
            ∃ t, exec (.rotationStepEnd fe res) s = .next t ∧ (t.rot fe).step = 1 ∧
              ((s.rot fe).fails = 0 → (t.rot fe).tgt = (s.rot fe).tgt ∧ s.Raised t 0x0602 [fe.val, (s.rot fe).spare, (s.rot fe).tgt]) ∧
              ((s.rot fe).fails ≠ 0 → (s.rot fe).tgt ∈ (t.rot fe).calchk ∧ s.Raised t 0x0603 [fe.val, (s.rot fe).spare, (s.rot fe).tgt]))) ∧
        ((s.rot fe).step = 4 → ∃ t, exec (.rotationStepEnd fe res) s = .next t ∧ (t.rot fe).step = 0 ∧
          (t.rot fe).spare = (s.rot fe).spare ∧ (t.rot fe).conv = (s.rot fe).conv ∧ t.timing (.rot fe.val) = true ∧
          s.Raised t 0x0601 [fe.val, nth 0 (s.rot fe).conv (s.rot fe).tgt, (s.rot fe).tgt])) ∧
    (∀ (f : Fin 2) (w : HarmWin), s.metOn = true → (s.mf f).stopped = false → (s.mf f).done = some w →
      (s.flag (MET_FSTAT_FTRACK f) = true → ∃ t, exec (.harmonicWindowEnd f) s = .next t ∧ t.regs = s.regs ∧ t.log = s.log ∧
        (t.mf f).done = none) ∧
      (s.flag (MET_FSTAT_FTRACK f) = false →
      ∃ t, exec (.harmonicWindowEnd f) s = .next t ∧ t.flag (MET_FHW_VALID f) = true ∧ (t.mf f).done = none ∧
        (t.flag (MET_FHW_TRANSIENT f) = true ↔ w.dips = true ∨ ∃ x ∈ w.freqs, ∃ y ∈ w.freqs, x + 5000 < y) ∧
        (t.flag (MET_FHW_TRANSIENT f) = true → s.Raised t 0x060D [f.val] ∧
          t.fld (MET_FERR_TRANS f) = min 255 (s.fld (MET_FERR_TRANS f) + 1)) ∧
        (t.flag (MET_FSTAT_RES_FAIL f) = true ↔ s.flag (MET_FCFG_NCT f) = true ∧ w.residual (s.feedIn f) = true) ∧
        (s.flag (MET_FCFG_NCT f) = true → w.residual (s.feedIn f) = true → s.flag (MET_FSTAT_RES_FAIL f) = false →
          s.Raised t 0x060F [f.val]))) ∧
    (s.met.snapHeld = false → ∃ t, exec .metSnap s = .next t ∧ t.met.snapPend = true ∧ s.Only [.met] t) ∧
    ∃ t, exec .metSnapRelease s = .next t ∧ t.met.snapPend = false ∧ t.met.snapHeld = false ∧ t.flag MET_SNAP_SNAP = false ∧
      s.RegsOnly [R_MET_SNAP] t

/-- The signing of the oldest unsigned record that no retry holds back succeeds with the two meter-signing keys: it carries the signature section over its body, and E:0x070A is raised with its session. A signing that fails counts in LEG_ERR.SIGN, leaves the record unsigned, starts the second until the retry, and raises E:0x070B the first time. The retry, due, does the same for its record. -/
def Obligations.RecordsAreSigned : Prop :=
  ∀ (s : State) (r : LegRec), s.wf = true → s.clocked = true → s.metOn = true →
    ∀ c : Bool → Instr,
      (c = .recordSigned ∧ (s.leg.store.find? fun r => r.sig.isNone && !s.timing (.signRetry r.num)) = some r ∨
        c = .signingRetry r.num ∧ s.due (.signRetry r.num) sec = true ∧
          (s.leg.store.find? fun x => x.num == r.num && x.sig.isNone) = some r) →
      ((s.keyFor 3 engSig).isSome = true → (s.keyFor 2 engSig).isSome = true →
        ∃ t sg, exec (c true) s = .next t ∧ s.dmrSign r.body = some sg ∧ (∀ x ∈ t.leg.store, x.num = r.num → x.sig = some sg) ∧
          t.leg.store.map (·.num) = s.leg.store.map (·.num) ∧ t.timing (.signRetry r.num) = false ∧ s.Raised t 0x070A [r.body.session]) ∧
      ∃ t, exec (c false) s = .next t ∧ t.fld LEG_ERR_SIGN = min 255 (s.fld LEG_ERR_SIGN + 1) ∧ t.timing (.signRetry r.num) = true ∧
        t.due (.signRetry r.num) 1 = false ∧ t.leg.store.map (·.sig) = s.leg.store.map (·.sig) ∧
        (r.failed = false → s.Raised t 0x070B [r.body.session]) ∧ (r.failed = true → t.log = s.log)

/-- GET of an object that the role may read completes OK, or BUF_ERR with the length needed where the buffer is too small; an unknown selector completes BAD_DESC (log entry 81), a role without the right ROLE with E:0x07F0. SET by OPERATOR of a calendar within R194 makes it the passive one under the next tariff version, E:0x0712; of a demand configuration within R195 lets it wait for the billing-period close. A calibration set without METROLOGY rights is refused with ROLE 3, the set as it was. ACTION by OPERATOR of the billing reset closes the period and puts a record into the store; of the calendar brings the passive calendar's activation to the next second. SET_TIME by OPERATOR in FREERUN_UNSET or FREERUN leaves a correction for the next SF tick; in another state it completes REFUSED 0x0111 with E:0x0111. -/
def Obligations.LegalObjects : Prop :=
  ∀ (s : State) (n : Fin 64) (q : JSlot),
    (s.awaits n 3 1 q = true → ∀ o r, s.objAt q = some o → s.roleOf q.d.sess = some r →
      (o.reads (s.effRole r) = true → 1 < q.inl 9 1 → ∃ t, exec (.get n) s = .next t ∧ t.Answered n q.num 3 41) ∧
      (o.reads (s.effRole r) = true → q.inl 9 1 ≤ 1 → ∃ t b, exec (.get n) s = .next t ∧
        b = Config.axdr (q.inl 0 2) (q.inl 8 1) (s.objVals q o) ∧
        t.Answered n q.num (if q.d.len < b.length then 4 else 0) (if q.d.len < b.length then b.length else 0)) ∧
      (o.reads (s.effRole r) = false → ∃ t, exec (.get n) s = .next t ∧ t.Answered n q.num 2 1 ∧ s.Raised t 0x07F0 [n.val])) ∧
    (s.awaits n 3 2 q = true →
      (∀ c act, s.objAt q = some .calendar → s.roleOf q.d.sess = some 1 → calOk c = true →
        ∃ t, exec (.set n (.calendar c act)) s = .next t ∧ t.Answered n q.num 0 0 ∧ t.leg.tver = s.leg.tver + 1 ∧
          t.leg.passive = some (c, s.activation act, s.leg.tver + 1) ∧ t.leg.cal = s.leg.cal ∧ s.Raised t 0x0712 [s.leg.tver + 1]) ∧
      (∀ i k b, s.objAt q = some .demCfg → s.roleOf q.d.sess = some 1 → demOk i k b = true →
        ∃ t, exec (.set n (.demand i k b)) s = .next t ∧ t.Answered n q.num 0 0 ∧ t.leg.demNew = some (i, k, b) ∧
          t.flag LEG_DEM_PEND = true ∧ t.fld LEG_DEM_INT = s.fld LEG_DEM_INT) ∧
      (∀ b v r, s.objAt q = some (.calib b) → s.roleOf q.d.sess = some r → s.metroRights r = false →
        ∃ t, exec (.set n v) s = .next t ∧ t.Answered n q.num 2 3 ∧ t.met = s.met ∧ s.Raised t 0x0716 [] ∧ s.Raised t 0x07F0 [n.val])) ∧
    (s.awaits n 3 3 q = true → s.roleOf q.d.sess = some 1 →
      (∀ a, s.objAt q = some .billing → ∃ t, exec (.action n a) s = .next t ∧ t.Answered n q.num 0 0 ∧
        t.leg.nextRec = s.leg.nextRec + 1 ∧ t.leg.pStart = s.tim.count ∧
        t.fld LEG_COUNTS_BILLN = min (2 ^ 24 - 1) (s.fld LEG_COUNTS_BILLN + 1)) ∧
      (∀ a c act v, s.objAt q = some .calendar → s.leg.passive = some (c, act, v) →
        ∃ t, exec (.action n a) s = .next t ∧ t.Answered n q.num 0 0 ∧ t.leg.passive = some (c, s.activation 0, v))) ∧
    (s.awaits n 7 1 q = true → s.roleOf q.d.sess = some 1 → s.tim.setBy = none → s.holdsToken = true →
      ((s.clk = 0 ∨ s.clk = 1) → ∃ t, exec (.setTime n) s = .next t ∧ t.tim.corr = some ((q.inl 0 8 : Int) - s.now) ∧
        t.tim.setBy = some (n.val, q.num, sext 16 (q.inl 8 2)) ∧ t.tim.corrDue = false ∧ t.tim.count = s.tim.count) ∧
      (1 < s.clk → ∃ t, exec (.setTime n) s = .next t ∧ t.Answered n q.num 1 0x0111 ∧ s.Raised t 0x0111 [] ∧ t.tim = s.tim))

/-- With PD1's rail good: the trips of functions 1 (a current beyond OC_TRIP), 2 (a voltage beyond OV_TRIP), 5 (with the transfer flag of exchange table 0), 6, 8 and 11 (after 10 SFs), where the function does not stand already, raise E:0x0805 with output and function, put the output's clamp to 0 in its CE and in each allocator and begin SO_DLY of a pair that is on; the CE's clamp of every other output stays; a current or a voltage within its threshold changes nothing. PAIR_OFF_DELAY turns both switches off. Stage 2 of a controlled stop begins SO_DLY above 5 % of the rated current, as the 50 ms without the current at rest do. The weld test passes below 10 V and otherwise locks the output out with E:0x080D; the check after opening reports E:0x0820, or a weld. An insulation result that has fallen below the fault threshold raises E:0x080B, below the warning threshold E:0x080A; below the fault threshold it trips function 7, and in CABLECHECK ends the session; the failed self-test of a CABLECHECK raises E:0x081B and leaves R_F invalid. A latent test passes, with every comparator, link, switch and the monitor's self-test, fails with E:0x081B, or is put off with E:0x081C. -/
def Obligations.OutputsAreTrippedAndOpened : Prop :=
  ∀ (s : State) (j : Fin 8), s.wf = true → s.clocked = true → s.pdGood 1 = true →
    (∀ (c : Instr) (fn : Nat),
      ((∃ mA : Int, c = .comparatorTrip j false mA ∧ fn = 1 ∧ (nth (0, 0, 0, 0) s.isl.thr j).1 * 1000 < mA.natAbs) ∨
        (∃ mV : Int, c = .comparatorTrip j true mV ∧ fn = 2 ∧ (nth (0, 0, 0, 0) s.isl.thr j).2.1 * 1000 < mV.natAbs) ∨
        c = .pilotLossTrip j ∧ fn = 5 ∧ (s.t0 j).xfer = true ∨
        c = .connectorOvertemperature j ∧ fn = 6 ∨ c = .fastEarthFault j ∧ fn = 8 ∨
        c = .pathDisagreement j ∧ fn = 11 ∧ 10 ≤ (s.io j).pathRun) →
      fn ∉ (s.io j).latched → (s.io j).unlatched ≠ fn →
      ∃ t, exec c s = .next t ∧ s.Raised t 0x0805 [j.val, fn] ∧
        (∀ a ∈ t.sh.clampA, a.getD j.val 0 = 0) ∧
        (∀ l < 4, s.outLane j = some l → t.fld (CE_CLAMP_ILIM (s.outCe j) l) = 0 ∧
          ∀ c' < 2, ∀ l' < 4, (s.outCe j ≠ c' ∨ l ≠ l') → t.fld (CE_CLAMP_ILIM c' l') = s.fld (CE_CLAMP_ILIM c' l')) ∧
        (∀ k, s.pairOf j = some k → (s.so k).hsc = true → t.timing (.pairOff k) = true) ∧
        (fn = 8 → s.Raised t 0x080C [j.val, 8]) ∧ (fn = 11 → s.Raised t 0x080E [j.val, 11])) ∧
    (∀ v : Int, (v.natAbs ≤ (nth (0, 0, 0, 0) s.isl.thr j).1 * 1000 → exec (.comparatorTrip j false v) s = .next s) ∧
      (v.natAbs ≤ (nth (0, 0, 0, 0) s.isl.thr j).2.1 * 1000 → exec (.comparatorTrip j true v) s = .next s)) ∧
    (∀ k : Fin 8, s.due (.pairOff k.val) (s.fld SP_G0_SO_DLY * ms) = true → ∃ t, exec (.pairOffDelay k) s = .next t ∧
      (t.so k).hsc = false ∧ (t.so k).lsc = false ∧ t.timing (.pairOff k.val) = false ∧ s.Only [.timers, .isl] t) ∧
    ((s.io j).stopFn ≠ 0 → (s.io j).stage2 = false → (s.due (.ctlStop j.val) (s.fld SP_G2_STOP1_T * ms) = true ∨ s.due (.failStop j.val) (5 * ms) = true) →
      ∃ t, exec (.controlledStopStage2 j) s = .next t ∧ (t.io j).stage2 = true ∧ t.timing (.ctlStop j.val) = false ∧
        (s.above5 j = true → ∀ k, s.pairOf j = some k → (s.so k).hsc = true → t.timing (.pairOff k) = true)) ∧
    ((s.io j).leaving = true → s.due (.leave50 j.val) (50 * ms) = true →
      ∃ t, exec (.contactorCurrentTimeout j) s = .next t ∧ (t.io j).leaving = false ∧
        ∀ k, s.pairOf j = some k → (s.so k).hsc = true → t.timing (.pairOff k) = true) ∧
    (∀ hv : Int, (s.io j).weldTest = 1 → s.due (.weldTest j.val) (200 * ms) = true → (s.io j).weld = false →
      ∃ t, exec (.weldTestEnd j hv) s = .next t ∧
        (hv ≤ 10000 → (t.io j).weldTest = 2 ∧ (t.io j).weld = false ∧ t.log = s.log) ∧
        (10000 < hv → (t.io j).weldTest = 0 ∧ (t.io j).weld = true ∧ s.Raised t 0x080D [j.val, 9])) ∧
    (∀ (lo hi : Int) (diff : Nat), (s.io j).weldCheck = true → s.due (.weldCheck j.val) (100 * ms) = true → (s.io j).weld = false →
      ∃ t, exec (.weldCheckEnd j lo hi diff) s = .next t ∧ (hi < 60000 → s.Raised t 0x0820 [j.val, 9] ∧ (t.io j).weld = false) ∧
        (60000 ≤ hi → 60000 < lo → diff < 20000 → (t.io j).weld = true ∧ s.Raised t 0x080D [j.val, 9]) ∧
        (60000 ≤ hi → (lo ≤ 60000 ∨ 20000 ≤ diff) → (t.io j).weld = false ∧ t.log = s.log)) ∧
    (5 ≤ (s.t0 j).sstate → (s.t0 j).sstate ≤ 10 → ∀ rf : BitVec 24,
      ((s.io j).selfDue = true → (s.io j).selfFail = false → ∃ t, exec (.insulationResult j rf false) s = .next t ∧
        s.Raised t 0x081B [j.val] ∧ (t.io j).rf = 0xFFFFFF ∧ (t.io j).selfFail = true ∧ t.isl.faultClass = 11 ∧ s.RegsOnly [] t) ∧
      ∀ ok : Bool, (ok = true ∨ (s.io j).selfDue = false ∧ (s.io j).selfFail = false) →
       ∃ t, exec (.insulationResult j rf ok) s = .next t ∧
        (rf.toNat * 100 < s.fld (SP_OUT_3_R_FAULT j) * s.imdU j →
          (s.fld (SP_OUT_3_R_FAULT j) * s.imdU j ≤ (s.io j).rf * 100 → s.Raised t 0x080B [j.val, 7]) ∧
          (s.sstate j = 5 → t.sstate j = 11 ∧ t.fld (VD_STAT_REASON j) = 11 ∧ s.Raised t 0x050C [j.val, s.sess j]) ∧
          (7 ∉ (s.io j).latched → s.Raised t 0x0805 [j.val, 7])) ∧
        (s.fld (SP_OUT_3_R_FAULT j) * s.imdU j ≤ rf.toNat * 100 → rf.toNat * 100 < s.fld (SP_OUT_3_R_WARN j) * s.imdU j →
          s.fld (SP_OUT_3_R_WARN j) * s.imdU j ≤ (s.io j).rf * 100 → s.Raised t 0x080A [j.val, 7])) ∧
    ((s.io j).latDue = true → ∀ (r : LatentRes) (pass : Bool),
      (pass = true ↔ r.comps = 31 ∧ r.hs = true ∧ r.ls = true ∧ r.imd = true ∧
        ∀ n < s.nLinks, s.wired n j = true → s.usable n = true → r.stops.getLsbD n = true) →
      ((s.t0 j).xfer = true → ∃ t, exec (.latentTestDue j r) s = .next t ∧ s.Raised t 0x081C [j.val] ∧ (t.io j).latDue = true) ∧
      ((s.t0 j).xfer = false → ∃ t, exec (.latentTestDue j r) s = .next t ∧ (t.io j).latDue = false ∧ (t.io j).latDone = true ∧
        (t.io j).latAt = s.age ∧ (t.io j).latFail = !pass ∧ (pass = false → s.Raised t 0x081B [j.val])))

/-- With no trial under way and outside the safe state: a clock fault, a supply fault, the SC's watchdog, the Guard Logic's own heartbeat and a lockstep mismatch each lead to the safe state with their cause, E:0x0802 and mode SAFE; a watchdog of a VC or the MC halts the core and begins a controlled stop that the safe state follows; T_REM at 0 does the same with E:0x0810. An input's channel takes a new level; one accepted by the Guard Logic in demand raises E:0x0807, but a low level in a test pulse's window is none; a disagreement of W, or of 1.05 W + 1 ms on the Guard Logic's own levels in SA-2, raises E:0x0808, a channel that did not fall in its source's test pulse E:0x0809, both held as faults: all this but the watchdogs, lockstep and an input's level needs PD1's rail, without which these commands, the trips and tests of outputs and those of pairs change nothing. The latent tests after a reset lead to STANDBY, in BENCH-ONLY to BENCH (log entry 46), or fail with E:0x081B. The SERVICE role's candidate is taken or refused, its confirmation opens the 60 s for the local acknowledgement, its windows close with E:0x0814, and its reset is accepted with E:0x0803 or refused with E:0x0804. -/
def Obligations.IslandFaultsAndResets : Prop :=
  ∀ s : State, s.wf = true → s.clocked = true →
    (s.isl.safe = false → s.mode ≠ 0 → s.mode ≠ 6 → s.flag KB_BOOT_TRIAL = false →
      (∀ (c : Instr) (row code : Nat) (d : List Nat),
        (c = .clockMonitorFault ∧ s.pdGood 1 = true ∧ row = 3 ∧ code = 0x0818 ∧ d = [] ∨
          c = .islandSupplyFault 2 false ∧ s.pdGood 1 = true ∧ row = 2 ∧ code = 0x0817 ∧ d = [2] ∨
          c = .watchdogTimeout 0 ∧ s.fld (coreFld 0) = 1 ∧ row = 5 ∧ code = 0x0819 ∧ d = [0] ∨
          c = .watchdogTimeout 8 ∧ 5 ∉ s.isl.faults ∧ row = 5 ∧ code = 0x0819 ∧ d = [8] ∨
          c = .lockstepMismatch ∧ s.coreRuns 0 = true ∧ row = 1 ∧ code = 0x0816 ∧ d = []) →
        ∃ t, exec c s = .next t ∧ t.isl.safe = true ∧ t.isl.cause = 0x80 + row ∧ t.mode = 5 ∧ s.Raised t code d ∧
          s.Raised t 0x0802 [0x80 + row]) ∧
      (∀ i : Fin 9, 2 ≤ i.val → i.val ≤ 4 → s.fld (coreFld i) = 1 → s.isl.afterStop = 0 →
        ∃ t, exec (.watchdogTimeout i) s = .next t ∧ t.fld (coreFld i) = 2 ∧ t.isl.afterStop = 0x85 ∧ t.mode = s.mode ∧
          t.timing .afterStop = true ∧ s.Raised t 0x0819 [i.val] ∧ s.Raised t 0x0009 [i.val])) ∧
    (s.pdGood 1 = false → ∀ (j : Fin 8) (i : Fin 16) (src : Fin 3) (b : Bool) (hv hw : Int) (n : Nat) (m : BitVec 16) (rf : BitVec 24) (r : LatentRes),
      ∀ c ∈ [.clockMonitorFault, .islandSupplyFault src b, .degradedExpiry, .resetLatentComplete b, .guardInputAccept i b,
          .discrepancyFault i, .testPulse 0 m m, .comparatorTrip j b hv, .pilotLossTrip j, .connectorOvertemperature j,
          .fastEarthFault j, .pathDisagreement j, .pairOffDelay j, .controlledStopStage2 j, .contactorCurrentTimeout j,
          .weldTestEnd j hv, .weldCheckEnd j hv hw n, .insulationResult j rf b, .latentTestDue j r, .soOvercurrent j,
          .soReadbackFault j b b, .soTestPulse j b none none, .soSupFault n], exec c s = .next s) ∧
    (∀ src : Fin 3, s.pdGood 1 = true → ∃ t, exec (.islandSupplyFault src true) s = .next t ∧ s.Only [.isl] t ∧ (src = 0 → t.isl.reg1 = true) ∧
      (src = 1 → t.isl.reg2 = true)) ∧
    (s.pdGood 1 = true → s.mode = 4 → s.isl.tRem = 0 → s.isl.afterStop = 0 → ∃ t, exec .degradedExpiry s = .next t ∧ t.isl.afterStop = 0xC0 ∧
      t.timing .afterStop = true ∧ s.Raised t 0x0810 [] ∧
      ∀ j < s.nOuts, j < s.isl.outs.length → (s.io j).stopFn = 0 → (t.io j).stopFn = 13) ∧
    (∀ (i : Fin 16) (isB level : Bool), i.val < s.isl.sins.length →
      (s.resetInput i = false → ∃ t, exec (.sinChannelChange i isB level) s = .next t ∧ s.Only [.isl] t ∧
        (if isB = true then (t.sin i).b else (t.sin i).a) = level) ∧
      (s.pdGood 1 = true → s.sinRole i ≠ 0 → s.sinRole i ≠ 4 → chanDem (s.sinType i) isB (if isB = true then (s.sin i).b else (s.sin i).a) = true →
        s.inPulse i isB = false → (s.sin i).told = false → ∃ t, exec (.guardInputAccept i isB) s = .next t ∧ (t.sin i).gdem = true ∧
          (t.sin i).told = true ∧ s.Raised t 0x0807 [i.val, roleFn (s.sinRole i)]) ∧
      (s.pdGood 1 = true → s.inPulse i isB = true → (if isB = true then (s.sin i).b else (s.sin i).a) = false →
        exec (.guardInputAccept i isB) s = .next s)) ∧
    (∀ i : Fin 16, s.pdGood 1 = true → s.sinRole i ≠ 0 → (s.sin i).fault = false →
      ((∃ n, s.coreRuns 0 = true ∧ (s.sin i).disFrom = some n ∧ sinDisagree (s.sinType i) (s.sin i).sa (s.sin i).sb = true ∧
          n + s.fld (SP_SIN_WIN i) ≤ s.tim.sfCount) ∨
        (∃ n, s.fld SP_G0_ARCH = 2 ∧ (s.sin i).gdisAt = some n ∧ n + s.fld (SP_SIN_WIN i) * 1050000 + ms ≤ s.age)) → ∃ t, exec (.discrepancyFault i) s = .next t ∧ (t.sin i).fault = true ∧
        (t.sin i).dem = true ∧ s.Raised t 0x0808 [i.val, roleFn (s.sinRole i)]) ∧
    (∀ (src : Fin 2) (ma mb : BitVec 16) (i : Fin 16), s.pdGood 1 = true → (∀ c, (s.ce c).laneOut.length ≤ 4) → i.val < s.isl.sins.length → s.sinRole i ≠ 0 → (s.sin i).fault = false →
      ma.getLsbD i = true → s.tim.sfCount % 100 = src.val * 50 → s.testSrc i false = src.val + 1 → (s.sin i).a = true → chanDem (s.sinType i) false true = false →
      ∃ t, exec (.testPulse src ma mb) s = .next t ∧ (t.sin i).fault = true ∧ s.Raised t 0x0809 [i.val, roleFn (s.sinRole i)]) ∧
    (s.pdGood 1 = true → s.isl.safe = true → s.isl.resetting = true →
      (∃ t, exec (.resetLatentComplete true) s = .next t ∧ t.isl.safe = false ∧ t.isl.cause = 0 ∧
        t.mode = (if s.hvLocked = true then 7 else 2) ∧
        t.isl.resetting = false ∧ t.isl.istate = (if s.isl.conf = true then 2 else 1)) ∧
      ∃ t, exec (.resetLatentComplete false) s = .next t ∧ t.isl.safe = true ∧ t.mode = s.mode ∧ s.Raised t 0x081B [8]) ∧
    (s.isl.candStage = 1 → s.due .candHost (300 * sec) = true → ∃ t, exec .confirmWindowExpiry s = .next t ∧
      t.isl.candStage = 0 ∧ t.isl.cand = [] ∧ s.Raised t 0x0814 [7]) ∧
    (s.isl.candStage = 2 → s.due .candAck (60 * sec) = true → ∃ t, exec .confirmWindowExpiry s = .next t ∧
      t.isl.candStage = 0 ∧ t.isl.cand = [] ∧ s.Raised t 0x0814 [8]) ∧
    (∀ (n : Fin 64) (q : JSlot), s.roleOf q.d.sess = some 2 →
      (s.awaits n 7 0x10 q = true → s.mode = 1 → ∀ b, q.d.data = some b →
        (s.candReason (b.take 512) = 0 → ∃ t, exec (.safetyCandidate n) s = .next t ∧ t.isl.cand = b.take 512 ∧ t.isl.candStage = 1 ∧
          t.isl.candChk = crc32c (b.take 512) ∧ t.timing .candHost = true ∧ t.Answered n q.num 0 (crc32c (b.take 512))) ∧
        (s.candReason (b.take 512) ≠ 0 → ∃ t, exec (.safetyCandidate n) s = .next t ∧ t.isl = s.isl ∧
          t.Answered n q.num 1 (s.candReason (b.take 512)) ∧ s.Raised t 0x0814 [s.candReason (b.take 512)])) ∧
      (s.awaits n 7 0x11 q = true → s.isl.candStage = 1 →
        (q.inl 0 4 = s.isl.candChk → ∃ t, exec (.safetyConfirm n) s = .next t ∧ t.isl.candStage = 2 ∧ t.timing .candAck = true ∧
          t.isl.confBy = some (n.val, q.num)) ∧
        (q.inl 0 4 ≠ s.isl.candChk → ∃ t, exec (.safetyConfirm n) s = .next t ∧ t.isl.candStage = 0 ∧ t.Answered n q.num 1 6 ∧
          s.Raised t 0x0814 [6])) ∧
      (s.awaits n 7 0x12 q = true →
        (s.hostResetBlock = none → ∃ t, exec (.safetyReset n) s = .next t ∧ t.Answered n q.num 0 0 ∧ s.Raised t 0x0803 []) ∧
        (∀ b, s.hostResetBlock = some b → ∃ t, exec (.safetyReset n) s = .next t ∧ t.Answered n q.num 1 b ∧ t.isl = s.isl ∧
          s.Raised t 0x0804 [b])))

/-- PS_ON sets PS_CMD.ON for a channel that the host owns, or in BENCH; for another it changes nothing but E:0x090E. PS_CLR ends a lockout with E:0x0905 and all retries back. A current limit outside the inrush window or at its end, a ramp that has not ended by 2 × SLEW_T + INRUSH_T and its pauses, a wire model at 1.21 or a die at DT_LIM trips a channel that is on: cause and count shown, E:0x0901, WAIT, or LOCKOUT with E:0x0904 where no retry is left; the last two set the thermal latch. A ramp that ends at SLEW_T, without limit, is ON. A retry after RETRY_DLY turns the channel on with one retry fewer and E:0x0902, or waits for the latch with E:0x0903; 60 s without a trip restore the retries. A current 1 s below OPEN raises E:0x0908 once, a readback mismatch E:0x0909. The refresh frame that the GC builds in an SF, received as it was sent and in sequence, arms the watchdog and commands every enabled channel as its owner does; one with bits turned over that fails its check, or is out of sequence, is counted with E:0x0912; the watchdog's expiry applies the fail-safe table with E:0x0910. -/
def Obligations.SwitchChannels : Prop :=
  ∀ (s : State) (n : Fin 24), s.wf = true → s.clocked = true → n.val < s.ps.chans.length →
    (∀ on : Bool, ((s.fld (PS_CFG_OWNER n) = 0 ∨ s.mode = 7) → ∃ t, exec (.psOn n on) s = .next t ∧ t.flag (PS_CMD_ON n) = on ∧
        s.RegsOnly [R_PS_CMD n] t) ∧
      (s.fld (PS_CFG_OWNER n) ≠ 0 → s.mode ≠ 7 → ∃ t, exec (.psOn n on) s = .next t ∧ s.RegsOnly [] t ∧ s.Raised t 0x090E [n.val])) ∧
    (s.psState n = 4 → ∃ t, exec (.psClr n) s = .next t ∧ t.psState n = (if (s.pc n).cmd = true then 3 else 0) ∧
      t.fld (PS_TRIP_LEFT n) = s.fld (PS_TIM_RETRY_N n) ∧ s.Raised t 0x0905 [n.val]) ∧
    (∀ (c : Instr) (cause : Nat),
      (c = .currentLimitTrip n ∧ cause = 1 ∧ s.psIsOn n = true ∧ s.psInWindow n = false ∨
        c = .rampTimeout n ∧ cause = 5 ∧ s.psState n = 1 ∧ (s.pc n).pauseG = false ∧ (s.pc n).pauseU = false ∧
          s.due (.psOn n.val) (s.psRampNs n + s.psWindowNs n + (s.pc n).pauseNs) = true ∨
        (∃ dt : BitVec 8, c = .dieTempCheck n dt ∧ cause = 4 ∧ s.psIsOn n = true ∧ s.pdGood 9 = true ∧
          s.fld (PS_LIM_DT_LIM n) ≤ dt.toNat) ∨
        ∃ (a : BitVec 12) (l : Bool), c = .wireModelUpdate n a l ∧ cause = 2 ∧ s.psIsOn n = true ∧ s.pdGood 9 = true ∧
          1210000000000 ≤ wireStep (s.pc n).x a.toNat (max 1 (s.fld (PS_CFG_IRATE n))) (wireTau (s.fld (PS_CFG_WIRE n)))) →
      ∃ t, exec c s = .next t ∧ s.Raised t 0x0901 [n.val, cause] ∧ t.fld (PS_TRIP_CAUSE n) = cause ∧
        t.fld (PS_TRIP_COUNT n) = min 255 (s.fld (PS_TRIP_COUNT n) + 1) ∧ (t.pc n).tripped = true ∧
        (s.fld (PS_TRIP_LEFT n) ≠ 0 → t.psState n = 3 ∧ t.timing (.psDelay n.val) = true) ∧
        (s.fld (PS_TRIP_LEFT n) = 0 → t.psState n = 4 ∧ s.Raised t 0x0904 [n.val]) ∧
        ((cause = 2 ∨ cause = 4) → t.flag (PS_STAT_THERM n) = true)) ∧
    (s.pdGood 9 = true →
      (∀ (a : BitVec 12) (l : Bool), s.psIsOn n = false → ∃ t, exec (.wireModelUpdate n a l) s = .next t ∧ t.fld (PS_STAT_I n) = 0 ∧
        t.psState n = s.psState n ∧
        t.fld (PS_TRIP_X n) = min 255 (wireStep (s.pc n).x 0 (max 1 (s.fld (PS_CFG_IRATE n))) (wireTau (s.fld (PS_CFG_WIRE n))) / 10000000000)) ∧
      (∀ dt : BitVec 8, dt.toNat + 20 ≤ s.fld (PS_LIM_DT_LIM n) → s.flag (PS_STAT_THERM n) = true → (s.pc n).x ≤ 500000000000 →
        ∃ t, exec (.dieTempCheck n dt) s = .next t ∧ t.fld (PS_STAT_DT n) = dt.toNat ∧ t.flag (PS_STAT_THERM n) = false ∧
          s.Raised t 0x0907 [n.val])) ∧
    (s.psState n = 1 → (s.pc n).pauseG = false → (s.pc n).pauseU = false → s.flag (PS_STAT_LIMIT n) = false →
      s.due (.psOn n.val) (s.psRampNs n + (s.pc n).pauseNs) = true →
      ∃ t, exec (.psRampComplete n) s = .next t ∧ t.psState n = 2 ∧ t.log = s.log) ∧
    (s.psInWindow n = true → exec (.currentLimitTrip n) s = .next s) ∧
    (s.pdGood 9 = true → s.railUv n ≠ 2 → s.psState n = 3 → (s.pc n).cmd = true → s.fld (PS_TRIP_LEFT n) ≠ 0 →
      (s.timing (.psDelay n.val) = false ∨ s.due (.psDelay n.val) (s.fld (PS_TIM_RETRY_DLY n) * 100 * ms) = true) →
      (s.flag (PS_STAT_THERM n) = false → (s.pc n).tripped = true → ∃ t, exec (.psRetry n) s = .next t ∧ t.psState n = 1 ∧
        t.fld (PS_TRIP_LEFT n) = s.fld (PS_TRIP_LEFT n) - 1 ∧ t.timing (.psOn n.val) = true ∧ s.Raised t 0x0902 [n.val]) ∧
      (s.flag (PS_STAT_THERM n) = true → (s.pc n).told903 = false → ∃ t, exec (.psRetry n) s = .next t ∧ t.psState n = 3 ∧
        t.fld (PS_TRIP_LEFT n) = s.fld (PS_TRIP_LEFT n) ∧ s.Raised t 0x0903 [n.val])) ∧
    (s.psIsOn n = true → s.due (.psOn n.val) (60 * sec) = true → ∃ t, exec (.retryRestore n) s = .next t ∧
      t.fld (PS_TRIP_LEFT n) = s.fld (PS_TIM_RETRY_N n) ∧ (t.pc n).used = false ∧ t.psState n = s.psState n) ∧
    (s.psState n = 2 → s.fld (PS_LIM_OPEN n) ≠ 0 → (s.pc n).told908 = false → s.tok = true →
      (∃ t0, (s.pc n).lowAt = some t0 ∧ t0 + sec ≤ s.age) → ∃ t, exec (.openLoad n) s = .next t ∧
      (t.pc n).told908 = true ∧ s.Raised t 0x0908 [n.val] ∧ s.RegsOnly [] t) ∧
    (s.pdGood 9 = true → (s.psState n = 2 ∧ s.flag (PS_STAT_LIMIT n) = false ∨ s.psIsOn n = false) → ∃ t, exec (.psReadbackMismatch n) s = .next t ∧
      s.Raised t 0x0909 [n.val] ∧ s.RegsOnly [] t) ∧
    (s.pdGood 9 = true → s.flag PS_WDG_FSA = false → s.flag GLB_MODE_ACT_PAUSE = false → s.coreRuns 7 = true →
      s.ps.sent = false → s.psSeqOk (BitVec.ofNat 8 ((s.ps.txSeq + 1) % 256)) = true → ∃ t, exec (.refreshFrame 0) s = .next t ∧
        t.flag PS_WDG_ARMED = true ∧ t.timing .psWdg = true ∧ t.ps.sent = true ∧ t.ps.txSeq = (s.ps.txSeq + 1) % 256 ∧
        (s.flag (PS_CFG_EN n) = true →
          (s.psWanted n = false → s.psState n ≠ 4 → t.psState n = 0) ∧
          (s.psWanted n = true → s.psState n = 0 → (s.pc n).tripped = false → s.flag (PS_STAT_THERM n) = false → s.railUv n ≠ 2 →
            t.psState n = 1))) ∧
    (s.pdGood 9 = true → s.ps.told912 = false → s.coreRuns 7 = true → s.ps.sent = false → ∀ err f : BitVec 48,
      f = s.psNextFrame ^^^ err → (psFrameOk f && s.psSeqOk (psFrameSeq f)) = false → ∃ t, exec (.refreshFrame err) s = .next t ∧
      s.Raised t 0x0912 [] ∧ t.psState n = s.psState n ∧
      (psFrameOk f = false → t.fld PS_LINK_CRC = min 255 (s.fld PS_LINK_CRC + 1)) ∧
      (psFrameOk f = true → t.fld PS_LINK_SEQ = min 255 (s.fld PS_LINK_SEQ + 1))) ∧
    (s.pdGood 9 = true → s.flag PS_WDG_ARMED = true → s.flag PS_WDG_FSA = false → s.due .psWdg (10 * ms) = true →
      ∃ t, exec .serialWatchdogExpiry s = .next t ∧ t.flag PS_WDG_FSA = true ∧ t.flag (PS_STAT_FSA n) = true ∧
        t.fld PS_WDG_EXP = min 255 (s.fld PS_WDG_EXP + 1) ∧ s.Raised t 0x0910 [] ∧
        (s.flag (PS_CFG_EN n) = true → (s.pc n).fs = 0 → s.psIsOn n = true → t.psState n = 0))

/-- With PD9 good: rail currents whose sum exceeds ILIM mark the guard and trip every channel of the rail in current limit outside its inrush window with cause RAIL, or pause its ramps; a sum within ILIM does nothing; the guard's shedding, 1 ms later, turns off channels of the rail until what stays on fits ILIM, with E:0x090A; a sum at or below ILIM − 2 A clears the mark and the pauses, with E:0x090A. Below 16 V every ramp of the rail pauses; 1 ms below 12 V turns the rail's channels off, not as trips, with E:0x090B; 10 ms at 17 V turn on the lowest of those still commanded, the others later, and none left ends it with E:0x090C. With PD1 good: a pair in overcurrent turns off and is held, E:0x0925; a switch that does not follow its command raises E:0x0921, both switches lead to the safe state; a test pulse in its ms of the 100 ms period passes and shows its response, is discarded with E:0x0923 where the pair has been turned off within it, or fails with E:0x0922, the switch then held to conduct; SO_SUP outside 18 V to 32 V raises E:0x0924. -/
def Obligations.SwitchRailsAndPairs : Prop :=
  ∀ s : State, s.wf = true → s.clocked = true →
    (∀ r : Fin 4, s.pdGood 9 = true →
      (∀ (lim : BitVec 24) (amps : List Nat),
        (s.ampSum r amps ≤ s.fld (PS_RAIL_ILIM r) * 100 → exec (.railOvercurrent r lim amps) s = .next s) ∧
        (s.fld (PS_RAIL_ILIM r) * 100 < s.ampSum r amps → ∃ t, exec (.railOvercurrent r lim amps) s = .next t ∧
          bit (t.fld PS_RSTAT_GUARD) r = true ∧
          (∀ n ∈ onRail r, lim.getLsbD n = true → s.psIsOn n = true → s.psInWindow n = false →
            t.psState n = (if s.fld (PS_TRIP_LEFT n) = 0 then 4 else 3) ∧ s.Raised t 0x0901 [n, 3]) ∧
          (lim = 0 → ∀ n ∈ onRail r, n < s.ps.chans.length → s.psState n = 1 → (t.pc n).pauseG = true ∧ t.psState n = 1))) ∧
      (∀ amps : List Nat, bit (s.fld PS_RSTAT_GUARD) r = true → nth 0 s.ps.guardAt r + ms ≤ s.age → ∃ t off, exec (.railGuardShed r amps) s = .next t ∧
        (∀ n ∈ off, n ∈ onRail r ∧ s.psIsOn n = true) ∧ (∀ n < 24, t.psIsOn n = (s.psIsOn n && !off.contains n)) ∧
        (((onRail r).zip (amps ++ List.replicate 6 0)).filter fun p => t.psIsOn p.1).foldl (fun a p => a + p.2) 0
          ≤ s.fld (PS_RAIL_ILIM r) * 100 ∧
        (off ≠ [] → s.Raised t 0x090A [r.val, 3, chanMask off])) ∧
      (∀ (dv : BitVec 12) (us : Nat), dv.toNat < 120 → 1000 ≤ us → nth 0 s.ps.uv r ≠ 2 → ∃ t, exec (.railUndervoltage r dv us) s = .next t ∧ bit (t.fld PS_RSTAT_UV) r = true ∧ s.Raised t 0x090B [r.val] ∧
        ∀ n ∈ onRail r, s.psIsOn n = true → t.psState n = 5 ∧ t.fld (PS_TRIP_COUNT n) = s.fld (PS_TRIP_COUNT n)) ∧
      (∀ dv : BitVec 12, dv.toNat < 160 → ∃ t, exec (.railRampPause r dv) s = .next t ∧ t.fld (PS_RAIL_V r) = dv.toNat ∧
        bit (t.fld PS_RSTAT_UV) r = true ∧ ∀ n ∈ onRail r, n < s.ps.chans.length → s.psState n = 1 → (t.pc n).pauseU = true) ∧
      (∀ (dv : BitVec 12) (us : Nat), (120 ≤ dv.toNat ∨ us < 1000) → exec (.railUndervoltage r dv us) s = .next s) ∧
      (∀ (dv : BitVec 12) (us : Nat), 170 ≤ dv.toNat → 10000 ≤ us → r.val < s.ps.uv.length → nth 0 s.ps.uv r = 2 →
        ∃ t, exec (.railRecovered r dv us) s = .next t ∧ bit (t.fld PS_RSTAT_UV) r = false ∧
        (∀ n ∈ onRail r, s.psState n = 5 → (s.pc n).cmd = true → (s.pc n).tripped = false → s.flag (PS_STAT_THERM n) = false →
          (∀ m ∈ onRail r, s.psState m = 5 → (s.pc m).cmd = true → n ≤ m) → t.psState n = 1) ∧
        (∀ n ∈ onRail r, s.psState n = 5 → (s.pc n).cmd = true →
          (∃ m ∈ onRail r, m < n ∧ s.psState m = 5 ∧ (s.pc m).cmd = true) → t.psState n = 5) ∧
        ((∀ n ∈ onRail r, s.psState n = 5 → (s.pc n).cmd = false) → s.Raised t 0x090C [r.val] ∧
          ∀ n ∈ onRail r, s.psState n = 5 → t.psState n = 0)) ∧
      (∀ amps : List Nat, bit (s.fld PS_RSTAT_GUARD) r = true → s.ampSum r amps + 200 ≤ s.fld (PS_RAIL_ILIM r) * 100 →
        ∃ t, exec (.railRampsResume r amps) s = .next t ∧ bit (t.fld PS_RSTAT_GUARD) r = false ∧
        (∀ n ∈ onRail r, (t.pc n).pauseG = false ∧ t.psState n = s.psState n) ∧
        ((∃ n ∈ onRail r, (s.pc n).pauseG = true) → s.Raised t 0x090A [r.val, 4, chanMask ((onRail r).filter fun n => (s.pc n).pauseG)]))) ∧
    (s.pdGood 1 = true → ∀ k : Fin 8,
      ((s.so k).on = true → ∃ t, exec (.soOvercurrent k) s = .next t ∧ (t.so k).hsc = false ∧ (t.so k).lsc = false ∧
        (t.so k).held = true ∧ s.Raised t 0x0925 [k.val]) ∧
      (k.val < s.isl.pairs.length → s.isl.safe = false →
        (∃ t, exec (.soReadbackFault k true true) s = .next t ∧ t.isl.safe = true ∧ t.isl.cause = 0x86 ∧
          s.Raised t 0x0921 [k.val, 0] ∧ s.Raised t 0x0921 [k.val, 1]) ∧
        ((s.so k).lsStuck = none → ∃ t, exec (.soReadbackFault k true false) s = .next t ∧ t.isl.safe = false ∧
          (t.so k).hsStuck = some (!(s.so k).hsc) ∧ s.Raised t 0x0921 [k.val, 0]) ∧
        ((s.so k).hsStuck = none → ∃ t, exec (.soReadbackFault k false true) s = .next t ∧ t.isl.safe = false ∧
          (t.so k).lsStuck = some (!(s.so k).lsc) ∧ s.Raised t 0x0921 [k.val, 1])) ∧
      ((s.so k).onAt + 10 * ms ≤ s.age → ∀ low : Bool, s.tim.sfCount % 100 = (if low = true then 75 else 25) + k.val →
        (∀ (t0 : Nat) (a b : Option Nat), (s.so k).hsc = false → (s.so k).offAt = some t0 → s.age < t0 + 300000 →
          ∃ t, exec (.soTestPulse k low a b) s = .next t ∧ s.Raised t 0x0923 [k.val, b2n low] ∧
          t.fld (SO_DIAG_DISC k) = min 255 (s.fld (SO_DIAG_DISC k) + 1)) ∧
        (∀ a b : Nat, (s.so k).hsc = true → a ≤ 150 → b ≤ 100 → ∃ t, exec (.soTestPulse k low (some a) (some b)) s = .next t ∧ t.log = s.log ∧
          (if low = true then t.fld (SO_TP_LS_RESP k) else t.fld (SO_TP_HS_RESP k)) = a) ∧
        (∀ (a : Nat) (b : Option Nat), (s.so k).hsc = true → 150 < a → ∃ t, exec (.soTestPulse k low (some a) b) s = .next t ∧
          s.Raised t 0x0922 [k.val, b2n low] ∧ (k.val < s.isl.pairs.length → (if low = true then (t.so k).lsStuck else (t.so k).hsStuck) = some true) ∧ t.fld (SO_DIAG_PULSE k) = min 255 (s.fld (SO_DIAG_PULSE k) + 1)))) ∧
    (s.pdGood 1 = true → ∀ dv : Nat, ∃ t, exec (.soSupFault dv) s = .next t ∧ t.fld SO_SUP_V = min 4095 dv ∧
      ((dv < 180 ∨ 320 < dv) → s.Raised t 0x0924 [dv]) ∧ (180 ≤ dv → dv ≤ 320 → t.log = s.log))

/-- An update request on a panel in use joins its queue and switches PD8 on; one over the legal field is refused with E:0x0A0E, one to a full queue with E:0x0A09, and is repeated. A frame boundary ends the frame that runs, which advances every waveform by one frame, and starts what is queued at a good temperature; in a supply-warning hold no frame begins, and a panel that was updating pauses with E:0x0A0A. Rails come up one by one, each 1 ms after its step at the least; a rail that is not there after 10 ms gives E:0x0A01 and a retry after 10 s, as a rail fault does. Strip and legal lines are redrawn with the present content, a page times out to page 0 and is drawn, PD8 goes off when idle and on at a key; a temperature wake has PD8 on and reads the panels. A key accepted enters the FIFO, or is dropped with E:0x0A12; two keys lock the keypad until all are open. A opens the entry of the one waiting output, digits append, * deletes, # submits with E:0x0A10, while PNL0 cannot update an open entry takes no key, C and KEY_T cancel with E:0x0A11, D shows the legal check value, while the legal lines wait. -/
def Obligations.PanelsAndKeypad : Prop :=
  ∀ s : State, s.wf = true → s.clocked = true →
    (∀ (p : Fin 2) (x y w h : Nat) (m : Fin 3) (img : List Nat), p.val < s.pnl.panels.length → s.coreRuns 7 = true →
      x + w ≤ s.fld (PNL_CFG_WIDTH p) → y + h ≤ s.fld (PNL_CFG_HEIGHT p) →
      (s.inLegal p y h = true → ∃ t, exec (.panelUpdateRequest p x y w h m img) s = .next t ∧ s.RegsOnly [] t ∧ s.Raised t 0x0A0E [p.val]) ∧
      (s.inLegal p y h = false → (m.val = 1 → ∀ l ∈ img, l = 0 ∨ l = 15) → s.flag (PNL_TBL_OK p) = true → s.pnUsed p = true →
        bit (s.fld GLB_PD_STATE_ON) 8 = true →
        ((s.pn p).queue.length < 32 → ∃ t, exec (.panelUpdateRequest p x y w h m img) s = .next t ∧
          (t.pn p).queue = (s.pn p).queue ++ [⟨x, y, w, h, m, img.map (· % 16)⟩] ∧
          t.fld (PNL_STAT_QUEUE p) = (s.pn p).queue.length + 1) ∧
        (32 ≤ (s.pn p).queue.length → ∃ t, exec (.panelUpdateRequest p x y w h m img) s = .next t ∧
          t.pnl.panels = s.pnl.panels ∧ t.pnl.again = s.pnl.again ++ [(p.val, ⟨x, y, w, h, m, img.map (· % 16)⟩)] ∧
          s.Raised t 0x0A09 [p.val] ∧ t.fld (PNL_ERR_QOVF p) = min 255 (s.fld (PNL_ERR_QOVF p) + 1)))) ∧
    (∀ p : Fin 2,
      (s.pnState p ≠ 0 → s.pnState p < 6 → s.pdGood 8 = true → s.pnUsed p = true → ((s.pn p).run = false ∨ (s.pn p).frameAt + (s.pn p).period ≤ s.age) →
        (s.holding = false → (∀ q ∈ (s.pn p).pix, q.2.pend = none) → (s.pn p).queue = [] → ∀ temp, ∃ t,
          exec (.panelFrame p temp 0) s = .next t ∧ (t.pn p).pix = ((s.pn p).pix.map fun q =>
            (q.1, if (s.pn p).run = true then q.2.frame (s.pn p).tbl (s.fld (PNL_STAT_BAND p)) temp false else q.2)).filter
            fun q => q.2 != Pix.rest) ∧
        (∀ v : Int, s.holding = false → (s.pn p).hold = 0 → (s.pn p).run = false → (s.pn p).queue ≠ [] → -20 ≤ v → v ≤ 60 →
          ∃ t, exec (.panelFrame p (some v) 0) s = .next t ∧ (t.pn p).queue = [] ∧ t.fld (PNL_STAT_TEMP p) = enc 8 v) ∧
        (s.holding = true → ∀ temp d, ∃ t, exec (.panelFrame p temp d) s = .next t ∧ (t.pn p).run = false ∧
          (s.pnState p = 2 → ((t.pn p).pix.any fun q => q.2.drive.isSome) = true → t.pnState p = 3 ∧ s.Raised t 0x0A0A [p.val]))) ∧
      (∀ rails, s.pnState p ≠ 0 → s.pnState p < 6 → ∃ t, exec (.panelRailFault p rails) s = .next t ∧ t.pnState p = 6 ∧
        t.fld (PNL_RAIL_FAIL p) = rails.toNat ∧ t.timing (.railRetry p.val) = true ∧ s.Raised t 0x0A01 [p.val]) ∧
      ((s.pn p).step ≠ 0 → s.pdGood 8 = true →
        ((s.pn p).stepAt + 10 * ms ≤ s.age → ∃ t, exec (.panelRailStep p false) s = .next t ∧ t.pnState p = 6 ∧ (t.pn p).step = 0 ∧ t.timing (.railRetry p.val) = true ∧
          t.fld (PNL_RAIL_FAIL p) = 2 ^ ((s.pn p).step - 1) % 32 ∧ s.Raised t 0x0A01 [p.val]) ∧
        ((s.pn p).step < 5 → (s.pn p).stepAt + ms ≤ s.age → ∃ t, exec (.panelRailStep p true) s = .next t ∧ (t.pn p).step = (s.pn p).step + 1 ∧ s.Only [.pnl] t) ∧
        ((s.pn p).step = 5 → (s.pn p).stepAt + ms ≤ s.age → ∃ t, exec (.panelRailStep p true) s = .next t ∧ (t.pn p).step = 0 ∧ 1 ≤ t.pnState p ∧ t.pnState p ≤ 5)) ∧
      (s.pnState p = 6 → (s.pn p).step = 0 → p.val < s.pnl.panels.length → (s.pn p).downAt = none → s.due (.railRetry p.val) (10 * sec) = true →
        s.pdGood 8 = true → ∃ t, exec (.panelRailRetry p) s = .next t ∧ t.pnState p = 0 ∧ (t.pn p).step = 1)) ∧
    (s.due .pd8Idle (s.fld PNL_GCFG_PD8_IDLE * sec) = true → s.coreRuns 7 = true → bit (s.fld GLB_PD_STATE_ON) 8 = true →
      s.pd8Need = false → ∃ t, exec .pd8IdleOff s = .next t ∧ bit (t.fld GLB_PD_STATE_ON) 8 = false ∧ t.timing .pnlWake = true) ∧
    (s.flag KP_CFG_EN = true → s.sys.shed = none → bit (s.fld GLB_PD_STATE_ON) 8 = false → bit (s.fld GLB_PD_STATE_ON) 0 = true → s.mode ≠ 6 → s.mode ≠ 0 →
      ∃ t, exec .keypadWake s = .next t ∧ bit (t.fld GLB_PD_STATE_ON) 8 = true) ∧
    (∀ temps v, s.coreRuns 7 = true → s.sys.shed = none → 1 ≤ s.mode → s.mode ≠ 6 → s.pnUsed 1 = true →
      (s.timing .pnlWake = false ∨ s.due .pnlWake (60 * sec) = true) → s.fld (PNL_HEAT_CH 1) ≠ 0x1F →
      s.fldS (PNL_STAT_TEMP 1) < s.fldS (PNL_HEAT_HEAT_ON 1) + 5 → nth none temps 1 = some v →
      ∃ t, exec (.panelTempWake temps) s = .next t ∧ bit (t.fld GLB_PD_STATE_ON) 8 = true ∧ t.fld (PNL_STAT_TEMP 1) = enc 8 (satS 8 v) ∧ t.due .pnlWake sec = false) ∧
    (s.coreRuns 7 = true → s.timing .strip = false → ∃ t x, exec .stripRedraw s = .next t ∧ t.pnl.strip = some x ∧ x.mode = modeName s.mode ∧
      x.clk = clkLetter s.clk ∧ x.siChk = chkGroups (s.fld SI_CHK_CHK) ∧ x.legChk = chkGroups (s.fld LEG_CHK_CHK) ∧
      x.events = s.eventLines 8 ∧ t.timing .strip = true) ∧
    (s.due .page (s.fld PNL_GCFG_PAGE_T * 10 * sec) = true → ∃ t, exec .pageTimeout s = .next t ∧ t.fld PNL_PAGE_PAGE = 0 ∧
      t.timing .page = false ∧ (s.coreRuns 7 = false → s.RegsOnly [R_PNL_PAGE] t) ∧
      (s.coreRuns 7 = true → t.pnl.page = some ((s.stopTimer .page).setFld PNL_PAGE_PAGE 0).pageNow)) ∧
    (∀ (k : Fin 4) (j : Nat), s.lineOut k = some j → s.coreRuns 2 = true → s.pnl0Ok = true → s.timing (.line k.val) = false →
      s.pnl.chk = none → k.val < s.pnl.lines.length → ∃ t, exec (.legalLineRedraw k) s = .next t ∧ (nth LegalLine.rest t.pnl.lines k).out = j ∧
        (nth LegalLine.rest t.pnl.lines k).sstate = s.sstate j ∧ (nth LegalLine.rest t.pnl.lines k).total = s.whImp j % 10 ^ 12 ∧
        (nth LegalLine.rest t.pnl.lines k).time = s.now ∧ t.timing (.line k.val) = true) ∧
    (s.flag KP_CFG_EN = true → s.pdGood 8 = true → ∀ (code : Fin 16) (n : Nat),
      (2 ≤ n → ∃ t, exec (.keyAccepted code n) s = .next t ∧ t.pnl.multi = true ∧ t.pnl.fifo = s.pnl.fifo) ∧
      (n < 2 → s.pnl.multi = false → s.pnl.fifo.length < 16 → ∃ t, exec (.keyAccepted code n) s = .next t ∧
        t.pnl.fifo = s.pnl.fifo ++ [code.val] ∧ t.fld KP_STAT_LAST = code.val) ∧
      (n < 2 → s.pnl.multi = false → 16 ≤ s.pnl.fifo.length → ∃ t, exec (.keyAccepted code n) s = .next t ∧ t.pnl = s.pnl ∧
        t.fld KP_STAT_OVF = min 255 (s.fld KP_STAT_OVF + 1) ∧ s.Raised t 0x0A12 [s.fld KP_STAT_OUT])) ∧
    (∃ t, exec (.keyReleased true) s = .next t ∧ t.pnl.multi = false ∧ s.Only [.pnl] t) ∧
    (∀ (k : Nat) (rest : List Nat), s.pnl.fifo = k :: rest → s.coreRuns 7 = true →
      (k = 0xA → s.kp ≠ 1 → s.kp ≠ 2 → s.pnl0Ok = true → s.flag TOK_STAT_LOCKED = false → ∀ j, s.waiting = [j] →
        ∃ t, exec .keyA s = .next t ∧ t.kp = 2 ∧ t.fld KP_STAT_OUT = j ∧ t.pnl.digits = [] ∧ t.pnl.fifo = rest ∧ t.timing .keyT = true) ∧
      (k < 10 → s.kp = 2 → s.pnl0Ok = true → s.pnl.digits.length < 20 → ∃ t, exec .keyDigit s = .next t ∧ t.pnl.digits = s.pnl.digits ++ [k] ∧
        t.fld KP_STAT_DIGITS = s.pnl.digits.length + 1 ∧ t.pnl.fifo = rest) ∧
      (k = 0xE → s.kp = 2 → s.pnl0Ok = true → ∃ t, exec .keyStar s = .next t ∧ t.pnl.digits = s.pnl.digits.dropLast ∧ t.pnl.fifo = rest) ∧
      (s.kp = 2 → s.pnl0Ok = false → ∀ c : Instr, (c = .keyDigit ∧ k < 10 ∨ c = .keyStar ∧ k = 0xE ∨ c = .keyHash ∧ k = 0xF) →
        ∃ t, exec c s = .next t ∧ t.pnl = { s.pnl with fifo := rest } ∧ s.Only [.pnl, .timers] t) ∧
      (k = 0xF → s.kp = 2 → s.pnl0Ok = true → s.coreRuns 2 = true → ∃ t, exec .keyHash s = .next t ∧ t.kp = 3 ∧ t.pnl.digits = [] ∧
        s.Raised t 0x0A10 [s.fld KP_STAT_OUT]) ∧
      (k = 0xC → (s.kp = 1 ∨ s.kp = 2) → ∃ t, exec .keyC s = .next t ∧ t.kp = 0 ∧ t.pnl.digits = [] ∧ s.Raised t 0x0A11 [s.fld KP_STAT_OUT]) ∧
      (k = 0xD → s.pnl0Ok = true → s.coreRuns 2 = true → ∃ t, exec .keyD s = .next t ∧ t.timing .chkShow = true ∧ t.pnl.fifo = rest ∧
        t.pnl.chk = some (chkGroups (s.fld LEG_CHK_CHK)) ∧ ∀ m < 4, t.timing (.line m) = false)) ∧
    (s.due .keyT (s.fld KP_CFG_KEY_T * sec) = true → (s.kp = 1 ∨ s.kp = 2) → ∃ t, exec .keyTimeout s = .next t ∧ t.kp = 0 ∧
      t.pnl.digits = [] ∧ t.timing .keyT = false ∧ s.Raised t 0x0A11 [s.fld KP_STAT_OUT])

/-- A token submitted with # is judged. Refused, it counts one more refusal in TOK_STAT.FAILS, up to 15; where LOCK_N refusals are reached and the entry is not locked yet, TOK_STAT.LOCKED is set, the lock's time begins, and E:0x0710 is raised; below LOCK_N the lock stays as it was. Accepted, it sets the count to 0. While locked, A opens no entry. TOKEN_LOCK_EXPIRY changes nothing before LOCK_T × 300 s of legal time, and unlocks from then on. -/
def Obligations.TokenEntryIsLockedAfterRefusals : Prop :=
  ∀ s : State, s.wf = true → s.clocked = true →
    (∀ rest, s.pnl.fifo = 0xF :: rest → s.coreRuns 7 = true → s.coreRuns 2 = true → s.kp = 2 → s.pnl0Ok = true →
      ∃ t, exec .keyHash s = .next t ∧
        t.fld TOK_STAT_FAILS = (if (s.tokCheck s.pnl.digits).1 = 0 then 0 else min 15 (s.fld TOK_STAT_FAILS + 1)) ∧
        ((s.tokCheck s.pnl.digits).1 ≠ 0 →
          (s.fld TOK_CFG_LOCK_N ≤ min 15 (s.fld TOK_STAT_FAILS + 1) → s.flag TOK_STAT_LOCKED = false →
            t.flag TOK_STAT_LOCKED = true ∧ t.timing .tokenLock = true ∧ t.elapsed .tokenLock = 0 ∧
            s.Raised t 0x0710 [min 15 (s.fld TOK_STAT_FAILS + 1)]) ∧
          (min 15 (s.fld TOK_STAT_FAILS + 1) < s.fld TOK_CFG_LOCK_N → t.flag TOK_STAT_LOCKED = s.flag TOK_STAT_LOCKED))) ∧
    (∀ rest, s.pnl.fifo = 0xA :: rest → s.coreRuns 7 = true → s.kp ≠ 1 → s.kp ≠ 2 → s.pnl0Ok = true → s.flag TOK_STAT_LOCKED = true →
      ∃ t, exec .keyA s = .next t ∧ t.kp = 4 ∧ t.pnl.digits = []) ∧
    (s.due .tokenLock (s.fld TOK_CFG_LOCK_T * 300 * sec) = false → exec .tokenLockExpiry s = .next s) ∧
    (s.due .tokenLock (s.fld TOK_CFG_LOCK_T * 300 * sec) = true → ∃ t, exec .tokenLockExpiry s = .next t ∧
      t.flag TOK_STAT_LOCKED = false ∧ t.timing .tokenLock = false ∧ s.RegsOnly [R_TOK_STAT] t)

/-- A poll that is due shows the antenna current; one new card raises E:0x0B01 and its identifier is posted for the session that waits with E:0x0B02, or held with E:0x0B03; two raise E:0x0B05; a bad frame is counted; with no receive window announced no step is deferred. Three bad cycles take the port to FAULT with E:0x0B07, a retry back; a hold expires with E:0x0B04. An APDU reaches the card posted last, and is refused otherwise, or completes BAD_DESC where it is longer than its buffer (log entry 81). With a field and no committed shadow: READ answers the bytes and changes none; WRITE of a mailbox block under authentication stores exactly its 16 bytes, and without it nothing; AUTH1 gives a 16-byte challenge; AUTH2 opens the session where the rotated challenge comes back, and else counts a failure and leaves the session as it was. Power-up completes a committed shadow and discards another; losing the field and HLTA end the session. The mailbox runs MARK with E:0x0B16, PAGE up to 15 and SNAP, under its sequence number. The snapshot stands at 0x0200, the oldest waiting event at the mirror's head. -/
def Obligations.ReadersAndLidTag : Prop :=
  (∀ s : State, s.wf = true → s.clocked = true → ∀ n : Fin 4,
    (s.portPolls n = true → s.pdGood 8 = true → s.coreRuns 7 = true → (s.port n).badCycles < 3 → s.timing (.poll n.val) = false →
      ∀ (iant : BitVec 16) (cards : List Card),
        (∃ t, exec (.pollCycle n iant true cards) s = .next t ∧ t.fld (NR_STAT_IANT n) = iant.toNat ∧
          t.fld (NR_ERR_CRC n) = min 255 (s.fld (NR_ERR_CRC n) + 1) ∧ t.timing (.poll n.val) = true ∧
          (s.windows = [] → t.fld (NR_ERR_DEFER n) = s.fld (NR_ERR_DEFER n))) ∧
        (∀ c, s.cardsFound n cards = [c] → (∀ r ∈ (s.port n).recent, r.1 ≠ c.uid) → (c.prot ≠ 0 ∨ c.uid.length ≠ 4 ∨ c.uid.head? ≠ some 0x08#8) →
          ∃ t, exec (.pollCycle n iant false cards) s = .next t ∧ (t.port n).card = some c.uid ∧ s.Raised t 0x0B01 [n.val] ∧
            t.fld (NR_UID_2_LEN n) = c.uid.length % 16 ∧
            (∀ j, s.authWaiting n = some j → (t.port n).posted = some c.uid ∧ s.Raised t 0x0B02 [n.val, j]) ∧
            (s.authWaiting n = none → (t.port n).held = some c.uid ∧ t.timing (.cardHold n.val) = true ∧ s.Raised t 0x0B03 [n.val])) ∧
        (∀ c c' l, s.cardsFound n cards = c :: c' :: l → ∃ t, exec (.pollCycle n iant false cards) s = .next t ∧
          (t.port n).card = none ∧ t.vehc = s.vehc ∧ s.Raised t 0x0B05 [n.val])) ∧
    (3 ≤ (s.port n).badCycles → s.fld (NR_STAT_STATE n) ≠ 5 → ∃ t, exec (.antennaFault n) s = .next t ∧ t.fld (NR_STAT_STATE n) = 5 ∧
      t.fld (NR_ERR_ANT n) = min 255 (s.fld (NR_ERR_ANT n) + 1) ∧ t.timing (.antRetry n.val) = true ∧ s.Raised t 0x0B07 [n.val]) ∧
    (s.due (.antRetry n.val) (60 * sec) = true → ∃ t, exec (.antennaRetry n) s = .next t ∧ t.fld (NR_STAT_STATE n) ≠ 5 ∧
      (t.port n).badCycles = 0 ∧ t.timing (.antRetry n.val) = false ∧ t.log = s.log) ∧
    (s.due (.cardHold n.val) (s.fld NR_GCFG_CARD_HOLD * sec) = true → (s.port n).held.isSome = true →
      ∃ t, exec (.cardHoldExpiry n) s = .next t ∧ (t.port n).held = none ∧ s.Raised t 0x0B04 [n.val])) ∧
  (∀ (s : State) (n : Fin 64) (q : JSlot) (p : Fin 4) (cmd : List Byte), s.awaits n 6 1 q = true → s.holdsToken = true →
    q.inl 0 1 = p.val → q.d.data = some cmd →
      (∀ r, q.d.len < q.inl 4 4 → ∃ t, exec (.apdu n r) s = .next t ∧ t.Answered n q.num 3 36) ∧
      (∀ r, q.inl 4 4 ≤ q.d.len → (s.port p).card = none → ∃ t, exec (.apdu n r) s = .next t ∧ t.Answered n q.num 1 1) ∧
      (∀ u, q.inl 4 4 ≤ q.d.len → (s.port p).card = some u → (s.port p).posted = some u → s.timing (.posted p.val) = true →
        s.due (.posted p.val) (s.fld VD_TMO0_AUTH_TMO * 10 * ms) = false →
        (∀ b, b.length ≤ q.d.len → ∃ t, exec (.apdu n (some b)) s = .next t ∧ t.Answered n q.num 0 0) ∧
        ∃ t, exec (.apdu n none) s = .next t ∧ t.Answered n q.num 1 2)) ∧
  (∀ s : State, s.wf = true →
    (∀ byField : Bool, ∃ t, exec (.tagPowerUp byField) s = .next t ∧ t.tag.rf = none ∧ t.tag.mod = none ∧
      t.tag.field = (s.tag.field || byField) ∧
      (∀ w, s.tag.mod = none → s.tag.rf = some w →
        (w.committed = true → t.tag.fwd = s.tag.fwd + 1 ∧ ∀ a, Memory.read t.tag.mem a =
          if w.addr ≤ a ∧ a < w.addr + w.data.length then nth 0 w.data (a - w.addr) else Memory.read s.tag.mem a) ∧
        (w.committed = false → t.tag.disc = s.tag.disc + 1 ∧ t.tag.mem = s.tag.mem))) ∧
    (∃ t, exec .fieldDetected s = .next t ∧ t.tag.field = true ∧ (s.tagGc = true → s.Raised t 0x0B10 [])) ∧
    (∃ t, exec .tagFieldLost s = .next t ∧ t.tag.field = false ∧ t.tag.auth = false ∧ t.tag.mem = s.tag.mem) ∧
    (∃ t, exec .hlta s = .next t ∧ t.tag.auth = false ∧ t.tag.field = s.tag.field ∧ t.tag.mem = s.tag.mem) ∧
    (s.tag.field = true → s.tag.shadowed = false →
      (∀ (addr : BitVec 16) (len : Nat),
        (1 ≤ len → len ≤ 240 → addr.toNat + len ≤ 0x9000 → ∃ t, exec (.tagRead addr len) s = .next t ∧ s.Only [.tag] t ∧
          t.tag.mem = s.tag.mem ∧ t.tag.ans = some (some 0x9000, Memory.readN s.tag.mem addr.toNat len)) ∧
        ((len = 0 ∨ 240 < len) → ∃ t, exec (.tagRead addr len) s = .next t ∧ t.tag.mem = s.tag.mem ∧ t.tag.ans = some (some 0x6700, []))) ∧
      (∀ (addr : BitVec 16) (data : List Byte), data.length = 16 → addr.toNat % 16 = 0 → 0x8810 ≤ addr.toNat → addr.toNat < 0x9000 →
        (s.tag.auth = true → ∃ t, exec (.tagWrite addr data .none) s = .next t ∧ t.tag.ans = some (some 0x9000, []) ∧
          ∀ a, Memory.read t.tag.mem a =
            if addr.toNat ≤ a ∧ a < addr.toNat + 16 then nth 0 data (a - addr.toNat) else Memory.read s.tag.mem a) ∧
        (s.tag.auth = false → ∃ t, exec (.tagWrite addr data .none) s = .next t ∧ t.tag.mem = s.tag.mem ∧
          t.tag.ans = some (some 0x6982, []))) ∧
      (∀ ms' : Nat, s.flag NT_CFG_AUTH_EN = true → s.tag.fails < 3 → ∃ t b, exec (.auth1 ms') s = .next t ∧ t.tag.rndT = some b ∧
        b.length = 16 ∧ t.tag.ans = some (none, b) ∧ t.tag.auth = s.tag.auth) ∧
      (∀ (data : List Byte) (r : List Byte), data.length = 32 → s.tag.rndT = some r → s.tag.key ≠ [] → s.flag NT_CFG_AUTH_EN = true →
        ∃ t, exec (.auth2 data) s = .next t ∧ t.tag.auth = (s.tag.auth || (aesCbcInv s.tag.key data).drop 16 == rotl r) ∧
          t.tag.fails = (if (aesCbcInv s.tag.key data).drop 16 = rotl r then 0 else s.tag.fails + 1) ∧ t.tag.rndT = none)) ∧
    (∀ k e, s.tagGc = true → s.tag.shadowed = false → s.flag NT_CFG_MBX_EN = true → s.mbxNext = some k → s.mbx k = e →
      (e.2.1 = 1 → ∃ t, exec .mark s = .next t ∧ s.Raised t 0x0B16 [e.2.2.2] ∧ t.tag.seq = e.1 ∧ t.tag.result = 1) ∧
      (e.2.1 = 2 → ∃ t, exec .page s = .next t ∧ t.tag.seq = e.1 ∧ t.tag.result = (if 15 < e.2.2.1 then 2 else 1) ∧
        (e.2.2.1 ≤ 15 → t.fld PNL_PAGE_PAGE = e.2.2.1)) ∧
      (e.2.1 = 3 → ∃ t, exec .snap s = .next t ∧ t.tag.seq = e.1 ∧ t.tag.result = 1 ∧ t.timing .snap = true)) ∧
    (s.tagGc = true → s.timing .snap = false → ∃ t, exec (.statusSnapshot .none) s = .next t ∧ t.timing .snap = true ∧
      Memory.readN t.tag.mem 0x200 256 = s.snapBytes ∧ t.regs = s.regs) ∧
    (∀ i rest e, s.pdGood 0 = true → s.tag.looked = s.logged.length → s.tag.queue = i :: rest → (s.logged.reverse)[i]? = some e →
      ∃ t, exec (.mirrorWrite .none) s = .next t ∧ t.tag.queue = rest ∧ t.tag.lastSeq = i + 1 ∧
        t.tag.head = (s.tag.head + 1) % 1024 ∧ Memory.readN t.tag.mem (0x800 + 32 * s.tag.head) 32 = eventBytes e (i + 1)))

/-- With the link running: a cycle that is due takes up every slave that is ACTIVE or has answered a discovery, which becomes ACTIVE; a cycle that finds the last one unfinished is counted once as overrun. A response of the slave whose turn it is, polled, that passes its checks, its LEN among them, restarts its age, clears its misses, gives its content, and the next slave follows. The first failure of an exchange is retried, in the next more robust mode, or in the same one after an impulse; the second one is a miss. Three misses make the slave LOST with E:0x0C06. Discovery opens its eight slots; in an open one an identity of the table awaits its address, another one raises E:0x0C07. At a whole second the time frame carries the count and the offset, and begins the coupler's delay before it. -/
def Obligations.MallasLink : Prop :=
  ∀ s : State, s.wf = true → s.clocked = true →
    (s.mlRuns = true → s.coreRuns 7 = true → s.timing .mlCyc = false →
      (∀ polls, s.ml.todo = [] → s.ml.slaves.length = 63 → ∃ t, exec (.mallasCycle polls) s = .next t ∧ t.timing .mlCyc = true ∧
        (∀ n, n ∈ t.ml.todo ↔ 1 ≤ n ∧ n ≤ 62 ∧ (s.slSt n = 2 ∨ (s.sl n).confirm = true)) ∧
        (∀ n, 1 ≤ n → n ≤ 62 → (s.sl n).confirm = true → s.slSt n ≠ 2 → t.slSt n = 2 ∧ s.Raised t 0x0C01 [n, s.slSt n, 2])) ∧
      (∀ polls, s.ml.todo ≠ [] → s.ml.late = false → ∃ t, exec (.mallasCycle polls) s = .next t ∧ t.ml.todo = s.ml.todo ∧
        t.ml.late = true ∧ t.fld ML_STAT_OVR = min 255 (s.fld ML_STAT_OVR + 1))) ∧
    (∀ (fc : BitVec 36) (payload : List Byte) hops heard n rest, s.mlRuns = true → s.ml.next = none → s.ml.todo = n :: rest → n < s.ml.slaves.length →
      mlControlOk fc.toNat = true → mlLenOk fc.toNat payload.length = true → bits fc.toNat 35 34 = 1 → bits fc.toNat 21 16 = n → bits fc.toNat 15 10 = 0 →
      mlPayloadOk payload = true → payload.length ≤ 34 →
      ∃ t, exec (.mallasAnswer fc payload hops heard) s = .next t ∧ t.ml.todo = rest ∧ t.ml.retry = none ∧
        (t.sl n).ans = payload.take (payload.length - 2) ∧ t.timing (.mlAge n) = true ∧ t.elapsed (.mlAge n) = 0) ∧
    (∀ (n : Fin 64) rest, s.mlRuns = true → s.ml.next = none → s.ml.todo = n.val :: rest →
      (s.ml.retry = none →
        (∀ snr peaks, ∃ t, exec (.mallasExchangeFail n true snr peaks) s = .next t ∧ t.ml.todo = s.ml.todo ∧
          t.ml.retry = some (min 4 (s.firstMode n + 1)) ∧ t.fld ML_ERR_NORESP = min 255 (s.fld ML_ERR_NORESP + 1) ∧
          s.Raised t 0x0C04 [n.val]) ∧
        (∀ snr peaks, isImpulse (s.firstMode n) snr peaks = true → ∃ t, exec (.mallasExchangeFail n false snr peaks) s = .next t ∧
          t.ml.todo = s.ml.todo ∧ t.ml.retry = some (s.firstMode n) ∧ t.fld ML_ERR_IMP = min 255 (s.fld ML_ERR_IMP + 1))) ∧
      (∀ m, s.ml.retry = some m → ∀ missing snr peaks, ∃ t, exec (.mallasExchangeFail n missing snr peaks) s = .next t ∧
        t.ml.todo = rest ∧ t.ml.retry = none ∧ t.fld (ML_SST_MISS n) = min 15 (s.fld (ML_SST_MISS n) + 1))) ∧
    (∀ n : Fin 64, 1 ≤ n.val → n.val ≤ 62 → s.slSt n = 2 → 3 ≤ s.fld (ML_SST_MISS n) → ∃ t, exec (.slaveLost n) s = .next t ∧
      t.slSt n = 3 ∧ n.val ∉ t.ml.todo ∧ s.Raised t 0x0C06 [n.val] ∧ s.Raised t 0x0C01 [n.val, 2, 3]) ∧
    (s.mlRuns = true → s.timing .mlDisc = false → ∃ t, exec .discovery s = .next t ∧ t.ml.slots = [0, 1, 2, 3, 4, 5, 6, 7] ∧
      t.timing .mlDisc = true ∧ s.Only [.timers, .ml] t) ∧
    (∀ (id : BitVec 48) (slot : Fin 8) (snr : Int), s.mlRuns = true → s.discOpen slot = true →
      ((slaveNos.find? fun n => s.flag (ML_ID_HI_EN n) && s.fld (ML_ID_LO_ID n) + s.fld (ML_ID_HI_ID n) * 2 ^ 32 == id.toNat) = none →
        ∃ t, exec (.discoveryAnswer id slot snr) s = .next t ∧ s.Raised t 0x0C07 [id.toNat] ∧ slot.val ∉ t.ml.slots ∧
          t.fld ML_ERR_UNK = min 255 (s.fld ML_ERR_UNK + 1)) ∧
      (∀ n, (slaveNos.find? fun n => s.flag (ML_ID_HI_EN n) && s.fld (ML_ID_LO_ID n) + s.fld (ML_ID_HI_ID n) * 2 ^ 32 == id.toNat) = some n →
        s.slSt n ≠ 2 → n < s.ml.slaves.length → ∃ t, exec (.discoveryAnswer id slot snr) s = .next t ∧ (t.sl n).confirm = true ∧
          t.fld (ML_SST_MISS n) = 0 ∧ t.log = s.log)) ∧
    (s.mlRuns = true → s.flag ML_GCFG_TIME_EN = true → s.flag TIME_STATUS_VALID = true → s.ml.lastSec ≠ some (s.now / sec) →
      s.now % sec < s.tim.sfLen → ∃ t, exec .timeFrame s = .next t ∧ t.ml.time = some (s.now / sec * sec, s.utcOfs, s.now / sec * sec - s.fld ML_CPL_DLY) ∧
        t.ml.lastSec = some (s.now / sec) ∧ s.Only [.ml] t)

/-- With host access: a doorbell for the next descriptor acknowledges it into the journal, an invalid one completes at once; an index that goes backwards, that overruns the ring or that the descriptor does not carry halts the ring with its cause and E:0x0D02; a HELD ring latches its doorbells; without PD2's rail nothing is acknowledged. Delivery writes the completion and advances CPROD, a full ring makes it wait with E:0x0D07, a DMA error leaves it in the journal. DB_CHEAD consumes completions. A descriptor past its deadline completes EXPIRED. Messages go out when their vector is unmasked. ENABLE, DISABLE, RESUME and FLUSH move a ring among its states, link loss and a function level reset, which masks every vector, put enabled rings in RECOVER with E:0x0D0A. STOP ends a session that has no link yet and is announced to every other one. Events, records, requests and trace records go into a waiting buffer; the host's answer, with the payload for the vehicle or E:0x050B on a failure, stop and price apply and complete OK, NOT_HOLDER without the token; an answer whose payload cannot be read completes BUF_ERR and stays awaited, one with an unnamed verdict completes BAD_DESC (log entry 81). A link that was lost at a shed, a freeze or a start gives E:0x0D0A when it is up again. -/
def Obligations.HostRings : Prop :=
  ∀ (s : State) (n : Fin 64), s.wf = true → s.clocked = true → s.host.rings.length = 64 → s.host.msgs.length = 64 → s.host.evSent.length = 64 →
    (s.hostOn = true → s.rstate n = 1 →
      (∀ tail ds, (2 ^ 31 ≤ dist32 tail.toNat (s.ring n).dtail → ∃ t, exec (.dbTail n tail ds) s = .next t ∧ t.rstate n = 4 ∧
          t.fld (RING_STAT_ERR n) = 2 ∧ s.Raised t 0x0D02 [n.val, 2]) ∧
        (dist32 tail.toNat (s.ring n).dtail < 2 ^ 31 → s.rsize n < dist32 tail.toNat (s.fld (RING_ACK_ACK_IDX n)) →
          ∃ t, exec (.dbTail n tail ds) s = .next t ∧ t.rstate n = 4 ∧ t.fld (RING_STAT_ERR n) = 3 ∧ s.Raised t 0x0D02 [n.val, 3])) ∧
      (∀ tail ds, s.pdGood 2 = false → dist32 tail.toNat (s.ring n).dtail < 2 ^ 31 →
        dist32 tail.toNat (s.fld (RING_ACK_ACK_IDX n)) ≤ s.rsize n → ∃ t, exec (.dbTail n tail ds) s = .next t ∧
        t.fld (RING_ACK_ACK_IDX n) = s.fld (RING_ACK_ACK_IDX n) ∧ (t.ring n).slots = (s.ring n).slots) ∧
      (∀ tail d, s.pdGood 2 = true → dist32 tail.toNat (s.ring n).dtail < 2 ^ 31 → dist32 tail.toNat (s.fld (RING_ACK_ACK_IDX n)) = 1 →
        (s.ring n).closing = false → (s.ring n).slots.length < s.fld (RING_CFG_WIN n) → s.jused < 4096 →
        (d.idx = s.fld (RING_ACK_ACK_IDX n) → ∃ t, exec (.dbTail n tail [some d]) s = .next t ∧ t.fld (RING_ACK_ACK_IDX n) = tail.toNat ∧
          (s.descFault n d = none → (t.ring n).slots = (s.ring n).slots ++ [⟨d, s.host.nextSlot, 1, none, false, s.now, false, false⟩]) ∧
          (∀ st r, s.descFault n d = some (st, r) → t.Answered n s.host.nextSlot st r)) ∧
        (d.idx ≠ s.fld (RING_ACK_ACK_IDX n) → ∃ t, exec (.dbTail n tail [some d]) s = .next t ∧ t.rstate n = 4 ∧
          t.fld (RING_STAT_ERR n) = 1 ∧ (t.ring n).slots = (s.ring n).slots) ∧
        (∃ t, exec (.dbTail n tail [none]) s = .next t ∧ t.rstate n = 4 ∧ t.fld (RING_STAT_ERR n) = 5)) ∧
      (∀ q c, ((s.ring n).slots.find? fun q => (q.comp.map (·.cidx)) == some (s.fld (RING_CPROD_CPROD n))) = some q → q.comp = some c →
        (s.rsize n ≤ dist32 (s.fld (RING_CPROD_CPROD n)) (s.fld (RING_CHEAD_CHEAD n)) → (s.ring n).told07 = false → ∀ ok,
          ∃ t, exec (.completionDelivery n ok) s = .next t ∧ s.Raised t 0x0D07 [n.val, ((s.ring n).slots.filter fun x => x.step == 3).length] ∧ (t.ring n).slots = (s.ring n).slots ∧
            t.fld (RING_ERR_WAIT n) = min 255 (s.fld (RING_ERR_WAIT n) + 1)) ∧
        (dist32 (s.fld (RING_CPROD_CPROD n)) (s.fld (RING_CHEAD_CHEAD n)) < s.rsize n →
          (∃ t, exec (.completionDelivery n false) s = .next t ∧ s.Raised t 0x0D04 [n.val, min 255 (s.fld (RING_ERR_DMA n) + 1)] ∧ t.host = s.host ∧
            t.fld (RING_ERR_DMA n) = min 255 (s.fld (RING_ERR_DMA n) + 1)) ∧
          ((s.ring n).waiting = [] → (s.ring n).closing = false → ∃ t, exec (.completionDelivery n true) s = .next t ∧
            (t.ring n).sent = some c ∧ (t.ring n).slots = ((s.ring n).slots.filter fun x => x.num != q.num) ∧
            (t.ring n).unread = (s.ring n).unread ++ [(s.fld (RING_CPROD_CPROD n), c.held)] ∧
            t.fld (RING_CPROD_CPROD n) = (s.fld (RING_CPROD_CPROD n) + 1) % 2 ^ 32 ∧
            (c.irq = true → nth false s.host.mask (s.fld (RING_CFG_VEC n)) = false → (t.ring n).unsig = 0 ∧
              nth 0 t.host.msgs (s.fld (RING_CFG_VEC n)) = nth 0 s.host.msgs (s.fld (RING_CFG_VEC n)) + 1)))) ∧
      (∀ head : Word,
        (dist32 (s.fld (RING_CPROD_CPROD n)) (s.fld (RING_CHEAD_CHEAD n)) < dist32 head.toNat (s.fld (RING_CHEAD_CHEAD n)) →
          ∃ t, exec (.dbChead n head) s = .next t ∧ t.rstate n = 4 ∧ t.fld (RING_STAT_ERR n) = 4 ∧ s.Raised t 0x0D02 [n.val, 4]) ∧
        (dist32 head.toNat (s.fld (RING_CHEAD_CHEAD n)) ≤ dist32 (s.fld (RING_CPROD_CPROD n)) (s.fld (RING_CHEAD_CHEAD n)) →
          ∃ t, exec (.dbChead n head) s = .next t ∧ t.fld (RING_CHEAD_CHEAD n) = head.toNat ∧ t.rstate n = 1 ∧
            (t.ring n).unread = (s.ring n).unread.drop (dist32 head.toNat (s.fld (RING_CHEAD_CHEAD n)))))) ∧
    (s.hostOn = true → s.rstate n = 3 → ∀ tail ds, ∃ t, exec (.dbTail n tail ds) s = .next t ∧
      (t.ring n).latched = some (tail.toNat, ds) ∧ s.Only [.host] t) ∧
    (s.hostOn = true → s.rstate n = 3 → ∀ head : Word, ∃ t, exec (.dbChead n head) s = .next t ∧
      (t.ring n).latchedHead = some head.toNat ∧ s.Only [.host] t) ∧
    (∀ q didx, ((s.ring n).slots.find? fun q => q.step == 1 && q.d.idx == didx) = some q → s.due (.deadline q.num) (q.d.deadline * ms) = true →
      ∃ t, exec (.descriptorExpired n didx) s = .next t ∧ t.Answered n q.num 5 0) ∧
    (s.hostOn = true → 0 < (s.ring n).unsig → s.fld (RING_COAL_COAL_T n) ≠ 0 →
      (s.ring n).unsigAt + s.fld (RING_COAL_COAL_T n) * 1000 ≤ s.age → nth false s.host.mask (s.fld (RING_CFG_VEC n)) = false →
      ∃ t, exec (.coalesceTimeout n) s = .next t ∧ (t.ring n).unsig = 0 ∧ s.Only [.host] t ∧
        nth 0 t.host.msgs (s.fld (RING_CFG_VEC n)) = nth 0 s.host.msgs (s.fld (RING_CFG_VEC n)) + 1) ∧
    (s.hostOn = true → nth false s.host.pend n = true → ∃ t, exec (.msixUnmask n) s = .next t ∧ nth false t.host.mask n = false ∧
      nth false t.host.pend n = false ∧ nth 0 t.host.msgs n = nth 0 s.host.msgs n + 1 ∧ s.Only [.host] t) ∧
    (s.hostOn = true →
      (s.rstate n = 0 → s.rtype n ≠ 0 → ∃ t, exec (.enable n) s = .next t ∧ t.rstate n = 1 ∧ s.Raised t 0x0D01 [n.val, 1]) ∧
      (s.rstate n = 2 → (s.ring n).restart = false → ∃ t, exec (.resume n) s = .next t ∧ t.rstate n = 1 ∧
        (t.ring n).slots = (s.ring n).slots) ∧
      (s.rstate n = 2 → (s.ring n).restart = true → ((s.ring n).slots.map (·.num)).Nodup → ∃ t, exec (.resume n) s = .next t ∧
        t.rstate n = 1 ∧ (t.ring n).restart = false ∧
        (((s.ring n).slots.any fun q => q.step == 3 && !q.lost) = true →
          s.Raised t 0x0D05 [n.val, ((s.ring n).slots.filter fun q => q.step == 3 && !q.lost).length]) ∧
        (∀ q ∈ (s.ring n).slots, q.step ≠ 3 → ∀ st r, s.afterStart n q = some (st, r) → t.Answered n q.num st r)) ∧
      ((s.rstate n = 1 ∨ s.rstate n = 2 ∨ s.rstate n = 4) → ((s.ring n).slots.map (·.num)).Nodup → ∃ t, exec (.flush n) s = .next t ∧
        t.rstate n = 1 ∧ t.fld (RING_STAT_ERR n) = 0 ∧ (t.ring n).unread = [] ∧ s.Raised t 0x0D09 [n.val, (s.ring n).unread.length] ∧
        t.fld (RING_CHEAD_CHEAD n) = s.fld (RING_CPROD_CPROD n) ∧
        (∀ q ∈ (s.ring n).slots, (q.step = 1 → q.lost = false → t.Answered n q.num 9 0) ∧
          (q.step = 2 → q.lost = false → t.Answered n q.num 6 (b2n q.applied)) ∧ ((q.step = 1 ∨ q.step = 2) → q.lost = true → t.Answered n q.num 6 2)))) ∧
    (s.rstate n = 1 →
      ((s.ring n).slots = [] → ∃ t, exec (.disable n) s = .next t ∧ t.rstate n = 0 ∧ s.Raised t 0x0D01 [n.val, 0]) ∧
      ((s.ring n).slots ≠ [] → ∃ t, exec (.disable n) s = .next t ∧ t.rstate n = 1 ∧ (t.ring n).closing = true ∧
        ∀ q ∈ (s.ring n).slots, q.step = 1 → isRecv (s.rtype n) q.d.op = true → t.Answered n q.num 9 0)) ∧
    (s.host.linkUp = true →
      (∃ t, exec .linkDown s = .next t ∧ t.host.linkUp = false ∧ t.fld HR_LINK_WIDTH = 0 ∧ s.Raised t 0x0D0A [0] ∧
        (t.ring n).slots = (s.ring n).slots ∧ ((s.rstate n = 1 ∨ s.rstate n = 3) → t.rstate n = 2)) ∧
      (∃ t, exec .functionLevelReset s = .next t ∧ t.host.linkUp = true ∧ s.Raised t 0x0D0A [1] ∧
        (t.ring n).slots = (s.ring n).slots ∧ ((s.rstate n = 1 ∨ s.rstate n = 3) → t.rstate n = 2) ∧
        t.host.mask = List.replicate 64 true ∧ t.host.pend = List.replicate 64 false)) ∧
    (∀ (v : Fin 3) (w : Fin 5), s.pdGood 6 = true → ∃ t, exec (.pcieLinkUp v w) s = .next t ∧ t.host.linkUp = true ∧
      t.host.quiet = false ∧ t.fld HR_LINK_SPEED = v.val + 1 ∧ t.fld HR_LINK_WIDTH = w.val ∧
      (s.host.linkLost = true → s.Raised t 0x0D0A [0])) ∧
    (s.rtype n = 1 → s.rstate n = 1 → s.nextDesc n 1 = none → nth 0 s.host.evSent n < s.logged.length → (s.ring n).told08 = false →
      ∀ dma, ∃ t, exec (.recvEvents n dma) s = .next t ∧ s.Raised t 0x0D08 [n.val, s.logged.length - nth 0 s.host.evSent n] ∧ t.host.evSent = s.host.evSent) ∧
    (∀ q, s.awaits n 1 1 q = true → nth 0 s.host.evSent n < s.logged.length →
      (∃ t, exec (.recvEvents n false) s = .next t ∧ t.Answered n q.num 4 0 ∧ s.Raised t 0x0D04 [n.val, min 255 (s.fld (RING_ERR_DMA n) + 1)] ∧ t.host.evSent = s.host.evSent) ∧
      (∃ t, exec (.recvEvents n true) s = .next t ∧ t.Answered n q.num 0 0 ∧
        nth 0 t.host.evSent n = nth 0 s.host.evSent n + min (q.d.len / 32) (s.logged.length - nth 0 s.host.evSent n))) ∧
    (∀ q r, s.awaits n 2 1 q = true → s.rinst n ≠ 1 → (s.leg.store.find? fun r => r.sig.isSome && r.dmr == 0) = some r →
      (s.dmrBytes r.body ++ r.sig.getD []).length ≤ q.d.len → ∃ t, exec (.recvRecord n true) s = .next t ∧ t.Answered n q.num 0 0 ∧
        ∀ x ∈ t.leg.store, x.num = r.num → x.dmr = 1) ∧
    (∀ q r, s.awaits n 4 1 q = true → (s.vehc.posted.find? fun r => !r.sent && s.outVc r.out == s.rinst n) = some r →
      (reqBytes r).length ≤ q.d.len → ∃ t, exec (.recvReq n true) s = .next t ∧ t.Answered n q.num 0 r.rid ∧
        ∀ x ∈ t.vehc.posted, x.rid = r.rid → x.sent = true) ∧
    (∀ q r, s.awaits n 5 1 q = true → ((idx 8).findSome? fun b => (s.cup (s.rinst n) b).records.head?) = some r →
      ∃ t, exec (.recvTrace n true) s = .next t ∧ t.Answered n q.num 0 0 ∧
        (t.cup (s.rinst n) r.buf).records = (s.cup (s.rinst n) r.buf).records.drop 1) ∧
    (∀ q, s.awaits n 4 2 q = true →
      (s.holdsToken = false → ∃ t, exec (.answer n) s = .next t ∧ t.Answered n q.num 7 0 ∧ t.veh = s.veh) ∧
      (s.holdsToken = true → 2 < q.inl 4 1 → ∃ t, exec (.answer n) s = .next t ∧ t.Answered n q.num 3 36 ∧ t.veh = s.veh) ∧
      (s.holdsToken = true → q.inl 4 1 ≤ 2 → (s.vehc.posted.find? fun r => r.rid == q.inl 0 4) = none → ∃ t, exec (.answer n) s = .next t ∧
        t.Answered n q.num 1 1 ∧ t.veh = s.veh) ∧
      (∀ r, s.holdsToken = true → q.inl 4 1 ≤ 2 → (s.vehc.posted.find? fun r => r.rid == q.inl 0 4) = some r →
        ((s.vh r.out).authReq ≠ some (q.inl 0 4) → (s.vh r.out).certReq ≠ some (q.inl 0 4) → ∃ t, exec (.answer n) s = .next t ∧
          t.Answered n q.num 8 0 ∧ t.veh = s.veh) ∧
        (r.kind = 2 → r.out < 8 → (s.vh r.out).certReq = some (q.inl 0 4) →
          s.due (.cert r.out) (s.fld VD_TMO0_CERT_TMO * 100 * ms) = false →
          (q.inl 4 1 = 1 → q.d.data = none → ∃ t, exec (.answer n) s = .next t ∧ t.Answered n q.num 4 0 ∧ t.vehc = s.vehc ∧ t.veh = s.veh ∧
            s.Raised t 0x0D04 [n.val, min 255 (s.fld (RING_ERR_DMA n) + 1)]) ∧
          ((q.inl 4 1 = 1 → q.d.data ≠ none) → ∃ t, exec (.answer n) s = .next t ∧ t.Answered n q.num 0 0 ∧
          (t.vh r.out).certReq = none ∧ (t.vh r.out).certAns = (if q.inl 4 1 = 1 then 1 else 2) ∧
          (t.vh r.out).certPay = (if q.inl 4 1 = 1 then q.d.data.getD [] else []) ∧
          (q.inl 4 1 ≠ 1 → s.Raised t 0x050B [r.out, s.sess r.out]))) ∧
        (r.kind = 1 → r.out < 8 → (s.vh r.out).authReq = some (q.inl 0 4) →
          s.due (.auth r.out) (s.fld VD_TMO0_AUTH_TMO * 10 * ms) = false → q.inl 4 1 ≠ 1 → ∃ t, exec (.answer n) s = .next t ∧
          t.Answered n q.num 0 0 ∧ s.Raised t 0x050A [r.out, s.sess r.out] ∧ t.sstate r.out = 11))) ∧
    (∀ q, s.awaits n 4 3 q = true → s.holdsToken = true → q.inl 0 1 < s.nOuts → (s.vh (q.inl 0 1)).lead = none →
      ∃ t, exec (.stop n) s = .next t ∧ t.Answered n q.num 0 0 ∧
        (s.sstate (q.inl 0 1) = 1 → t.sstate (q.inl 0 1) = 11 ∧ t.fld (VD_STAT_REASON (q.inl 0 1)) = 2) ∧
        (2 ≤ s.sstate (q.inl 0 1) → s.sstate (q.inl 0 1) ≤ 8 → (s.vh (q.inl 0 1)).evseStop = 0 →
          (t.vh (q.inl 0 1)).evseStop = 2 ∧ t.sstate (q.inl 0 1) = s.sstate (q.inl 0 1))) ∧
    (∀ q b, s.awaits n 4 4 q = true → s.holdsToken = true → q.inl 0 1 < s.nOuts → q.d.data = some b → ∃ t, exec (.price n true) s = .next t ∧
      t.Answered n q.num 0 0 ∧ (t.vh (q.inl 0 1)).price = b)

/-- On a COMMAND ring: ROLE_CHALLENGE gives a fresh nonce; ROLE_OPEN opens a session with E:0x0E13 or is refused with E:0x0E14 and the reason; a session ends at ROLE_CLOSE or after 15 min. KEY_IMPORT and KEY_GENERATE write the unselected copy, which the flip at the SF tick puts in force with E:0x0E10; KEY_PUBLIC and ATTEST answer with signed data; KEY_DELETE and CERT_INSTALL act on TLS slots. FVK_REVOKE sets the bit with E:0x0E12. SET_LIMITED sets the serial once and moves the lifecycle with E:0x0E16. UPDATE_OPEN takes the bank lock or gives the reason, UPDATE_WRITE takes chunks in order, UPDATE_VERIFY leaves the bank STAGED or EMPTY, UPDATE_ABORT abandons the update with E:0x0E09. -/
def Obligations.RolesKeysAndUpdates : Prop :=
  ∀ s : State, s.wf = true → s.clocked = true → Sparse.wfFrom (fun _ => KeySlot.empty) none s.keys.slots = true → s.keys.banks.length = 2 →
    (∀ h, s.due (.roleIdle h) (900 * sec) = true → (s.keys.roles.any fun r => r.handle == h) = true →
      ∃ t, exec (.roleSessionTimeout h) s = .next t ∧ (∀ x ∈ t.keys.roles, x.handle ≠ h) ∧ t.timing (.roleIdle h) = false ∧
        (s.keys.lock = some h → t.keys.lock = none ∧ t.fld (KB_BANK_STAT_STATE s.other) = 0 ∧ s.Raised t 0x0E09 [s.other])) ∧
    (∀ k : BitVec 8, (s.slot k.toNat).flip = true → (s.slot k.toNat).due = true → ∃ t, exec (.keyFlip k) s = .next t ∧
      (t.slot k.toNat).selB = !(s.slot k.toNat).selB ∧ (t.slot k.toNat).now = (s.slot k.toNat).spare ∧ (t.slot k.toNat).flip = false ∧
      s.Raised t 0x0E10 [k.toNat, keyId k.toNat (s.slot k.toNat).spare]) ∧
    (∀ (n : Fin 64) (q : JSlot),
      (s.awaits n 7 0x20 q = true → 32 ≤ q.d.len → ∃ t, exec (.roleChallenge n) s = .next t ∧ t.Answered n q.num 0 0 ∧
        t.keys.nonces = s.keys.nonces ++ [(s.keys.nextNonce, toLE 32 (Config.freeNat s.fresh))] ∧ t.timing (.nonce s.keys.nextNonce) = true) ∧
      (∀ b, s.awaits n 7 0x21 q = true → q.d.data = some b → ∃ t, exec (.roleOpen n) s = .next t ∧
        if s.tokenReason b = 0 then t.Answered n q.num 0 s.keys.nextHandle ∧ s.Raised t 0x0E13 [leAt b 4 1, leAt b 16 4] ∧
          t.keys.roles = s.keys.roles ++ [⟨s.keys.nextHandle, leAt b 4 1, leAt b 16 4, !s.flag TIME_STATUS_VALID⟩]
        else t.Answered n q.num 1 (s.tokenReason b) ∧ t.keys.roles = s.keys.roles ∧ s.Raised t 0x0E14 [s.tokenReason b]) ∧
      (∀ r, s.awaits n 7 0x22 q = true → s.roleOf q.d.sess = some (r + 1) → ∃ t, exec (.roleClose n) s = .next t ∧
        t.Answered n q.num 0 0 ∧ ∀ x ∈ t.keys.roles, x.handle ≠ q.d.sess) ∧
      (∀ b, s.awaits n 7 0x24 q = true → q.d.data = some b → ∃ t, exec (.keyImport n) s = .next t ∧
        if (slotRule (leAt b 6 1)).role ≠ 0 ∧ ((s.roleOf q.d.sess).any fun r => s.slotRole (leAt b 6 1) r) = false then
          t.Answered n q.num 2 (slotRule (leAt b 6 1)).role ∧ t.keys.slots = s.keys.slots
        else if (s.openBlob b).1 ≠ 0 then
          t.Answered n q.num 1 (s.openBlob b).1 ∧ s.Raised t 0x0E11 [leAt b 6 1, (s.openBlob b).1] ∧ t.keys.slots = s.keys.slots
        else (t.slot (leAt b 6 1)).spare.key = (s.openBlob b).2 ∧ (t.slot (leAt b 6 1)).spare.alg = leAt b 5 1 ∧
          (t.slot (leAt b 6 1)).flip = true ∧ (t.slot (leAt b 6 1)).now = (s.slot (leAt b 6 1)).now ∧
          t.Answered n q.num 0 (keyId (leAt b 6 1) (t.slot (leAt b 6 1)).spare)) ∧
      (∀ r, s.awaits n 7 0x25 q = true → (slotRule (q.inl 0 1)).gen = true → s.slotOpen (q.inl 0 1) = true →
        (slotRule (q.inl 0 1)).algs.contains (q.inl 1 1) = true → s.roleOf q.d.sess = some r → s.slotRole (q.inl 0 1) r = true →
        ∃ t, exec (.keyGenerate n) s = .next t ∧ (t.slot (q.inl 0 1)).spare.key = toLE 66 (Config.freeNat s.fresh) ∧
          (t.slot (q.inl 0 1)).spare.ver = s.slotVer (q.inl 0 1) + 1 ∧ (t.slot (q.inl 0 1)).flip = true ∧
          (t.slot (q.inl 0 1)).now = (s.slot (q.inl 0 1)).now ∧ t.Answered n q.num 0 (keyId (q.inl 0 1) (t.slot (q.inl 0 1)).spare)) ∧
      (s.awaits n 7 0x26 q = true →
        (((s.slot (q.inl 0 1)).now.alg = 0 ∨ 5 ≤ (s.slot (q.inl 0 1)).now.alg) → ∃ t, exec (.keyPublic n) s = .next t ∧ t.Answered n q.num 3 32) ∧
        (1 ≤ (s.slot (q.inl 0 1)).now.alg → (s.slot (q.inl 0 1)).now.alg ≤ 4 → ∀ a, s.keyFor 1 engSig = some a →
          ∃ t b, exec (.keyPublic n) s = .next t ∧ b = (if (s.slot (q.inl 0 1)).now.pub then (s.slot (q.inl 0 1)).now.key
              else Config.publicOf (s.slot (q.inl 0 1)).now.alg (s.slot (q.inl 0 1)).now.key) ++ toLE 4 (s.slot (q.inl 0 1)).now.ver ∧
            (if q.d.len < (b ++ Config.falconSign a.key b).length then t.Answered n q.num 4 (b ++ Config.falconSign a.key b).length
              else t.Answered n q.num 0 0) ∧ t.keys = s.keys)) ∧
      (s.awaits n 7 0x29 q = true →
        (s.keyFor 1 engSig = none → ∃ t, exec (.attest n) s = .next t ∧ t.Answered n q.num 1 1 ∧ s.Raised t 0x0E11 [1]) ∧
        (∀ a, s.keyFor 1 engSig = some a → ∃ t b, exec (.attest n) s = .next t ∧
          b = (q.d.inline.take 32) ++ toLE 8 s.serial ++ toLE 1 s.lifecycle
            ++ ((s.bank 0).hdr.targetHash ++ toLE 1 (s.fld (KB_BANK_STAT_STATE 0)))
            ++ ((s.bank 1).hdr.targetHash ++ toLE 1 (s.fld (KB_BANK_STAT_STATE 1)))
            ++ toLE 4 (s.reg R_LEG_CHK).toNat ++ toLE 4 (s.reg R_SI_CHK).toNat ++ toLE 1 (s.fld KB_CNT_ARB) ∧
          (if q.d.len < (b ++ Config.falconSign a.key b).length then t.Answered n q.num 4 (b ++ Config.falconSign a.key b).length
            else t.Answered n q.num 0 0) ∧ t.keys = s.keys)) ∧
      (s.awaits n 7 0x27 q = true → s.roleOf q.d.sess = some 1 → 16 ≤ q.inl 0 1 → ∃ t, exec (.keyDelete n) s = .next t ∧
        t.Answered n q.num 0 0 ∧ (t.slot (q.inl 0 1)).now.alg = 0 ∧ t.slotVer (q.inl 0 1) = s.slotVer (q.inl 0 1)) ∧
      (∀ b, s.awaits n 7 0x28 q = true → s.roleOf q.d.sess = some 1 → 16 ≤ q.inl 0 1 → q.d.data = some b → b.length ≤ 8192 →
        ∃ t, exec (.certInstall n) s = .next t ∧ t.Answered n q.num 0 0 ∧ (t.slot (q.inl 0 1)).chain = b) ∧
      (s.awaits n 7 0x2A q = true → s.roleOf q.d.sess = some 4 → q.inl 0 1 < 4 → setBit (s.fld KB_BOOT_REVOKED) (q.inl 0 1) true ≠ 15 →
        (s.bank 0).hdr.fvk ≠ q.inl 0 1 → (s.bank 1).hdr.fvk ≠ q.inl 0 1 → ∃ t, exec (.fvkRevoke n true) s = .next t ∧
          t.Answered n q.num 0 0 ∧ bit (t.fld KB_BOOT_REVOKED) (q.inl 0 1) = true ∧ s.Raised t 0x0E12 [q.inl 0 1]) ∧
      (s.awaits n 7 0x2C q = true →
        (s.roleOf q.d.sess = some 4 → s.lifecycle = 0 → q.inl 0 1 = 0 → s.flag KB_CNT_ID_LEFT = true →
          ∃ t, exec (.setLimited n) s = .next t ∧ t.Answered n q.num 0 0 ∧ t.serial = q.inl 8 8 ∧ t.flag KB_CNT_ID_LEFT = false ∧
            s.Raised t 0x0E15 [0]) ∧
        (s.roleOf q.d.sess = some 2 → q.inl 0 1 = 1 → s.lifeOk 2 (q.inl 8 8) = true → ∃ t, exec (.setLimited n) s = .next t ∧
          t.Answered n q.num 0 0 ∧ t.lifecycle = q.inl 8 8 ∧ s.Raised t 0x0E16 [q.inl 8 8])) ∧
      (∀ b, s.awaits n 7 0x30 q = true → s.roleOf q.d.sess = some 2 → q.d.data = some b →
        (∀ h, s.keys.lock = some h → ∃ t, exec (.updateOpen n) s = .next t ∧ t.Answered n q.num 10 (s.holderOf h) ∧ t.keys.lock = some h ∧
          s.Raised t 0x0E06 [s.holderOf h]) ∧
        (s.keys.lock = none → s.flag KB_BOOT_TRIAL = false → ∃ t, exec (.updateOpen n) s = .next t ∧
          if s.headerReason b false (bit (q.inl 0 1) 0) = 0 then t.Answered n q.num 0 0 ∧ t.keys.lock = some q.d.sess ∧
            t.fld (KB_BANK_STAT_STATE s.other) = 1 ∧ s.Raised t 0x0E05 [s.other, s.holderOf q.d.sess]
          else t.Answered n q.num 1 (s.headerReason b false (bit (q.inl 0 1) 0)) ∧ t.keys.lock = none ∧
            s.Raised t 0x0E07 [s.headerReason b false (bit (q.inl 0 1) 0)])) ∧
      (∀ r, s.keys.lock = some q.d.sess → s.roleOf q.d.sess = some r →
        (∀ b h, s.awaits n 7 0x31 q = true → q.d.data = some b → s.keys.upd = some h → b.length ≤ 65536 →
          (q.inl 0 4 = 4096 + s.keys.stream.length → ∃ t, exec (.updateWrite n) s = .next t ∧ t.Answered n q.num 0 0 ∧
            t.keys.stream = s.keys.stream ++ b) ∧
          (q.inl 0 4 ≠ 4096 + s.keys.stream.length → ∃ t, exec (.updateWrite n) s = .next t ∧ t.Answered n q.num 1 13 ∧
            t.keys.stream = s.keys.stream)) ∧
        (∀ h, s.awaits n 7 0x32 q = true → s.keys.upd = some h → s.keys.noBank = false →
          (∀ x, buildBank (s.bank (s.fld KB_BOOT_ACTIVE)) h s.keys.stream = some x → ∃ t, exec (.updateVerify n) s = .next t ∧
            t.keys.lock = none ∧ if Config.shake256 x.image 64 = h.targetHash ∧ x.regionsOk (List.range 10) = true
              then t.Answered n q.num 0 0 ∧ t.fld (KB_BANK_STAT_STATE s.other) = 2 ∧ t.bank s.other = x ∧ s.Raised t 0x0E08 [s.other]
              else t.Answered n q.num 1 9 ∧ t.fld (KB_BANK_STAT_STATE s.other) = 0 ∧ s.Raised t 0x0E07 [9])) ∧
        (s.awaits n 7 0x33 q = true → ∃ t, exec (.updateAbort n) s = .next t ∧ t.Answered n q.num 0 0 ∧ t.keys.lock = none ∧
          t.fld (KB_BANK_STAT_STATE s.other) = 0 ∧ s.Raised t 0x0E09 [s.other])))

/-- A correctable tile is written back, counted and traced, with E:0x0F01 once per SF, in a compute window of the memory's CE without the write-back, which waits for its end (log entry 82); one whose read-back fails goes to a spare with E:0x0F04, or gives E:0x0F05 without one. A write that the memory takes from another part only is refused with E:0x0FF0; one to a busy tile enters the merge buffer or stalls, counted in MERGE; the oldest entry drains into its tile, or its word is poisoned and the core that wrote it trapped, a channel's told with E:0x0F02. The scrub engine, at its pace, goes on to its next tile; an uncorrectable one is counted, poisoned and told with E:0x0F03; a late pass gives E:0x0F06. A trap outside the exchange area gives E:0x0F02 and halts the running core, whose halt raises E:0x0009. A matching sweep is counted; a failed one or a guard hit gives E:0x0F0A or E:0x0F09, and the unit halts its core, or leads to a start for CVU0. -/
def Obligations.MemoryIntegrity : Prop :=
  ∀ s : State, s.wf = true → s.clocked = true → s.mem.mems.length = 9 →
    (∀ (m : Fin 9) (tile : Nat) (x : MemTile) (w : Nat) (u : MemTile), tileCheck (s.tileNow m tile x) = .fixed w u →
      ((s.mem.fixed.any fun p => p.1 == m.val && p.2.1 == 16 * tile + w && decide (s.age < p.2.2 + 86400 * sec)) = false →
        s.inWindow m = false → ∃ t, exec (.correctionWriteBack m tile x false) s = .next t ∧ t.mem.wrote = some (m.val, tile, u) ∧
          t.fld (MI_CNT_CORR m) = min 255 (s.fld (MI_CNT_CORR m) + 1) ∧ t.fld (MI_ADDR_ADDR m) = 4 * (16 * tile + w) % 2 ^ 32 ∧
          t.fld (MI_SYND_SYND m) = (tileSyndrome (s.tileNow m tile x)).toNat ∧
          ((s.unit m).told01 = false → s.Raised t 0x0F01 [m.val, 4 * (16 * tile + w)])) ∧
      (s.inWindow m = true → ∀ stuck, ∃ t, exec (.correctionWriteBack m tile x stuck) s = .next t ∧ t.mem.wrote = s.mem.wrote ∧
          (m.val, 16 * tile + w, u, stuck) ∈ t.mem.back ∧ t.fld (MI_CNT_CORR m) = min 255 (s.fld (MI_CNT_CORR m) + 1)) ∧
      (s.inWindow m = false → s.fld (MI_REMAP_USED m) < s.fld (MI_REMAP_SPARE m) → ∃ t, exec (.correctionWriteBack m tile x true) s = .next t ∧
        t.fld (MI_REMAP_USED m) = s.fld (MI_REMAP_USED m) + 1 ∧ tile ∈ (t.unit m).remap ∧ s.Raised t 0x0F04 [m.val, 64 * tile]) ∧
      (s.inWindow m = false → s.fld (MI_REMAP_SPARE m) ≤ s.fld (MI_REMAP_USED m) → ∃ t, exec (.correctionWriteBack m tile x true) s = .next t ∧
        (t.unit m).remap = (s.unit m).remap ∧ s.Raised t 0x0F05 [m.val, 64 * tile])) ∧
    (∀ (m : Fin 9) (x : MemTile),
      (∀ (w : MemWrite) (c : Fin 8), w.core = some c → s.mayWrite m c = false → ∃ t, exec (.mergeDrain m (some w) true x) s = .next t ∧ t.mem = s.mem ∧
        s.RegsOnly [] t ∧ s.Raised t 0x0FF0 [if c.val = 0 then 0 else c.val + 1]) ∧
      (∀ w, (∀ c, w.core = some c → s.mayWrite m c = true) → (s.unit m).buf.length < 8 → ∃ t, exec (.mergeDrain m (some w) true x) s = .next t ∧ (t.unit m).buf = putWrite w (s.unit m).buf ∧
        s.Only [.mem] t) ∧
      (∀ w, (∀ c, w.core = some c → s.mayWrite m c = true) → 8 ≤ (s.unit m).buf.length → ((s.unit m).buf.any fun y => y.word == w.word) = false → ∃ t,
        exec (.mergeDrain m (some w) true x) s = .next t ∧ t.mem = s.mem ∧ t.fld (MI_CNT_MERGE m) = min 255 (s.fld (MI_CNT_MERGE m) + 1)) ∧
      (∀ w rest, (s.unit m).buf = w :: rest → (s.mem.back.any fun p => p.1 == m.val && p.2.1 / 16 == w.word / 16) = false →
        (∀ u, tileCheck (s.tileNow m (w.word / 16) x) = .good → writeTile (s.tileNow m (w.word / 16) x) w = some u →
          ∃ t, exec (.mergeDrain m none false x) s = .next t ∧ (t.unit m).buf = rest ∧ t.mem.wrote = some (m.val, w.word / 16, u) ∧
            (m.val, w.word) ∉ t.mem.pois) ∧
        (writeTile (s.tileNow m (w.word / 16) x) w = none → s.flag KB_BOOT_TRIAL = false → ∃ t, exec (.mergeDrain m none false x) s = .next t ∧
          (t.unit m).buf = rest ∧ (m.val, w.word) ∈ t.mem.pois ∧
          (w.core = none → s.Raised t 0x0F02 [m.val, 4 * w.word]) ∧
          ∀ c : Fin 8, w.core = some c → s.fld (coreFld c) = 1 → s.Raised t 0x0F02 [m.val, 4 * w.word] ∧ t.fld (coreFld c) = 2))) ∧
    (∀ (m : Fin 9) (x : MemTile) (stuck : Bool), s.pdGood (memDomain m) = true → s.scrubPaced m = true → s.inWindow m = false →
      (tileCheck (s.tileNow m (s.unit m).pos x) = .good →
        ((s.unit m).pos + 1 < memTiles m → ∃ t, exec (.scrubTile m x stuck) s = .next t ∧ (t.unit m).pos = (s.unit m).pos + 1 ∧
          t.timing (.scrub m.val) = true) ∧
        (memTiles m ≤ (s.unit m).pos + 1 → ∃ t, exec (.scrubTile m x stuck) s = .next t ∧ (t.unit m).pos = 0 ∧
          (t.unit m).late = false ∧ t.timing (.scrub m.val) = true ∧ t.elapsed (.scrub m.val) = 0)) ∧
      (∀ ws, tileCheck (s.tileNow m (s.unit m).pos x) = .bad ws → ∃ t, exec (.scrubTile m x stuck) s = .next t ∧
        s.Raised t 0x0F03 [m.val, 64 * (s.unit m).pos] ∧ (∀ w ∈ ws, (m.val, 16 * (s.unit m).pos + w) ∈ t.mem.pois) ∧
        t.mem.wrote = some (m.val, (s.unit m).pos, tilePoison (s.tileNow m (s.unit m).pos x) ws))) ∧
    (∀ m : Fin 9,
      (s.due (.scrub m.val) (s.scrubLate m) = true → (s.unit m).late = false → ∃ t, exec (.scrubPassLate m) s = .next t ∧
        (t.unit m).late = true ∧ (t.unit m).urgent = true ∧ bit (t.fld MI_STATUS_LATE) m = true ∧ s.Raised t 0x0F06 [m.val]) ∧
      (s.due (.scrub m.val) (s.scrubLate m * 4 / 5) = true → s.due (.scrub m.val) (s.scrubLate m) = false →
        ∃ t, exec (.scrubPassLate m) s = .next t ∧ (t.unit m).urgent = true ∧ (t.unit m).late = (s.unit m).late ∧ s.Only [.mem] t)) ∧
    (∀ (c : Fin 8) (m : Fin 9) (a : BitVec 32) (x : Word),
      (m.val = 7 → ∃ t, exec (.fetchTrap c m a x false) s = .next t ∧ (m.val, a.toNat / 4) ∈ t.mem.pois ∧ t.log = s.log ∧
        t.fld (coreFld c) = s.fld (coreFld c)) ∧
      (m.val ≠ 7 → s.fld (coreFld c) = 1 → s.flag KB_BOOT_TRIAL = false → ∃ t, exec (.fetchTrap c m a x false) s = .next t ∧
        (m.val, a.toNat / 4) ∈ t.mem.pois ∧ t.fld (coreFld c) = 2 ∧ t.mode = s.mode ∧ s.Raised t 0x0F02 [m.val, a.toNat] ∧
        s.Raised t 0x0009 [c.val])) ∧
    (∀ (u : Fin 8) (crc : Word), s.fld (CVU_CFG_STATE u) = 2 → s.flag (CVU_CFG_SWEEP u) = true →
      s.due (.cvu u.val) (s.fld (CVU_CFG_PERIOD u) * sec) = true →
      (crc.toNat = s.fld (CVU_EXP_EXPECT u) → ∃ t, exec (.cvuSweep u crc false) s = .next t ∧ t.fld (CVU_ACC_ACC u) = crc.toNat ∧
        t.fld (CVU_CNT_SWEEPS u) = min 65535 (s.fld (CVU_CNT_SWEEPS u) + 1) ∧ t.elapsed (.cvu u.val) = 0 ∧ t.log = s.log) ∧
      (crc.toNat ≠ s.fld (CVU_EXP_EXPECT u) → s.mode ≠ 7 → s.fld (CVU_CFG_ACTION u) = 1 → s.fld (coreFld (memCore (cvuMem u))) = 1 →
        s.flag KB_BOOT_TRIAL = false → ∃ t, exec (.cvuSweep u crc false) s = .next t ∧ s.Raised t 0x0F0A [u.val, 0] ∧
          t.fld (CVU_CFG_STATE u) = 3 ∧ t.fld (coreFld (memCore (cvuMem u))) = 2 ∧
          t.fld (CVU_CNT_FAILS u) = min 255 (s.fld (CVU_CNT_FAILS u) + 1)) ∧
      (u.val = 0 → s.mode ≠ 7 → s.fld (CVU_CFG_ACTION u) ≠ 1 → s.noXfer = true → ∃ t, exec (.cvuSweep u crc true) s = .next t ∧
        s.Raised t 0x0F0A [0, 1] ∧ t.mode = 0 ∧ t.keys.begun = some 3)) ∧
    (∀ (u : Fin 8) (c : Fin 8) (a : BitVec 32), s.fld (CVU_CFG_STATE u) = 2 → s.flag (CVU_CFG_GUARD u) = true →
      s.fld (CVU_BASE_BASE u) ≤ a.toNat → a.toNat < s.fld (CVU_BASE_BASE u) + s.fld (CVU_LEN_LEN u) →
      (s.mode = 7 → ∃ t, exec (.cvuGuardHit u c a) s = .next t ∧ s.Raised t 0x0F09 [u.val, c.val, a.toNat] ∧ t.fld (CVU_CFG_STATE u) = 2) ∧
      (s.mode ≠ 7 → s.fld (CVU_CFG_ACTION u) = 1 → s.fld (coreFld (memCore (cvuMem u))) = 1 → s.flag KB_BOOT_TRIAL = false →
        ∃ t, exec (.cvuGuardHit u c a) s = .next t ∧ s.Raised t 0x0F09 [u.val, c.val, a.toNat] ∧ t.fld (CVU_CFG_STATE u) = 3 ∧
          t.fld (CVU_CNT_HITS u) = min 255 (s.fld (CVU_CNT_HITS u) + 1) ∧ t.fld (coreFld (memCore (cvuMem u))) = 2))

/-- An unpowered module starts with its cause once an input is inside. A request is carried out from the mode that allows it, or refused with MD_STAT.REASON and E:0x1001, with reason 6 in BENCH-ONLY and 8 from COMMISSION without a confirmed safety set; from RUN it waits for the transfer flags, and after 10 s the outputs are stopped. The BENCH window opens with E:0x1002 and expires with reason 7. In BENCH the hold, the step and its end with E:0x1010 act on the five cores. A deferred start is made once no transfer flag is 1. ACTIVATE begins the pause with E:0x0E0A or is refused; the pause ends with the new bank in TRIAL and E:0x0E0B, or fails with E:0x0E0D and a start. A trial is confirmed with E:0x0E0C, or fails with E:0x0E03 and a start on the other bank. -/
def Obligations.ModesStartsAndTrials : Prop :=
  ∀ s : State, s.wf = true →
    (∀ a b : BitVec 16, (s.pdOn 0 = false ∨ (s.mode = 0 ∧ s.keys.begun = none ∧ s.reg R_GLB_CORE_STATE = 0)) →
      (supOk a.toNat = true ∨ supOk b.toNat = true) → ∃ t, exec (.powerUp a b) s = .next t ∧ t.mode = 0 ∧
        t.keys.begun = some (if s.mode = 6 then 6 else if s.sys.shed.isSome = true then 1 else 0) ∧ t.fld SUP_V_A = a.toNat ∧
        t.fld SUP_V_B = b.toNat ∧ t.fld GLB_PD_STATE_ON = 1 ∧ t.reg R_GLB_CORE_STATE = 0) ∧
    (s.sys.shed = none → (s.mode = 1 ∨ s.mode = 3) → s.hvLocked = true → ∃ t, exec .mdReqStandby s = .next t ∧ t.mode = s.mode ∧
      t.fld MD_STAT_REASON = 6 ∧ s.Raised t 0x1001 [2]) ∧
    (s.sys.shed = none → s.mode = 2 → s.hvLocked = true →
      (∃ t, exec .mdReqCommission s = .next t ∧ t.mode = 2 ∧ t.fld MD_STAT_REASON = 6 ∧ s.Raised t 0x1001 [1]) ∧
      ∃ t, exec .mdReqRun s = .next t ∧ t.mode = 2 ∧ t.fld MD_STAT_REASON = 6 ∧ s.Raised t 0x1001 [3]) ∧
    (s.sys.shed = none → s.hvLocked = false →
      (s.mode = 2 → ∃ t, exec .mdReqCommission s = .next t ∧ t.mode = 1 ∧ t.flag GLB_CFG_COMMIT_COMMITTED = false ∧ s.Raised t 0x0001 [2, 1]) ∧
      (s.mode ≠ 2 → ∃ t, exec .mdReqCommission s = .next t ∧ t.mode = s.mode ∧ t.fld MD_STAT_REASON = 1 ∧ s.Raised t 0x1001 [1]) ∧
      (s.mode = 1 → s.isl.conf = true → s.flag GLB_CFG_COMMIT_COMMITTED = true → ∃ t, exec .mdReqStandby s = .next t ∧ t.mode = 2 ∧
        s.Raised t 0x0001 [1, 2]) ∧
      (s.mode = 1 → s.isl.conf = false → ∃ t, exec .mdReqStandby s = .next t ∧ t.mode = 1 ∧ t.fld MD_STAT_REASON = 8 ∧
        s.Raised t 0x1001 [2]) ∧
      (s.mode = 3 → ∃ t, exec .mdReqStandby s = .next t ∧ t.mode = 3 ∧ t.sys.req = 2 ∧ t.timing .reqStop = true) ∧
      (s.mode = 2 → s.runBars = [] → ∃ t, exec .mdReqRun s = .next t ∧ t.mode = 3 ∧ s.Raised t 0x0001 [2, 3]) ∧
      (∀ r rs, s.mode = 2 → s.runBars = r :: rs → ∃ t, exec .mdReqRun s = .next t ∧ t.mode = 2 ∧ t.fld MD_STAT_REASON = r ∧
        s.Raised t 0x1001 [3] ∧ (5 ∈ r :: rs → s.Raised t 0x1009 []) ∧ (4 ∈ r :: rs → s.Raised t 0x0112 []))) ∧
    (s.sys.shed = none →
      (s.mode = 1 → s.isl.conf = false → ∃ t, exec .mdReqBench s = .next t ∧ t.mode = 1 ∧ t.fld MD_STAT_REASON = 8 ∧ s.Raised t 0x1001 [7]) ∧
      ((s.mode = 1 ∧ s.isl.conf = true ∨ s.mode = 2) → s.lifecycle < 2 → ∃ t, exec .mdReqBench s = .next t ∧ t.flag MD_STAT_BENCH_WAIT = true ∧
        t.timing .bench = true ∧ t.mode = s.mode ∧ s.Raised t 0x1002 []) ∧
      ((s.mode = 1 ∧ s.isl.conf = true ∨ s.mode = 2) → 2 ≤ s.lifecycle → ∃ t, exec .mdReqBench s = .next t ∧ t.fld MD_STAT_REASON = 6 ∧ s.Raised t 0x1001 [7]) ∧
      (s.mode ≠ 3 → s.mode ≠ 4 → s.mode ≠ 6 → ∃ t, exec .mdReqStart s = .next t ∧ t.mode = 0 ∧ t.keys.begun = some 5) ∧
      ((s.mode = 3 ∨ s.mode = 4) → ∃ t, exec .mdReqStart s = .next t ∧ t.mode = s.mode ∧ t.sys.req = 15 ∧ t.timing .reqStop = true)) ∧
    (s.clocked = true →
      (s.sys.req = 2 → s.mode = 3 → s.noXfer = true → ∃ t, exec .standbyEntry s = .next t ∧ t.mode = 2 ∧ t.sys.req = 0) ∧
      (s.sys.req = 15 → s.noXfer = true → ∃ t, exec .standbyEntry s = .next t ∧ t.mode = 0 ∧ t.keys.begun = some 5) ∧
      (s.sys.req ≠ 0 → s.due .reqStop (10 * sec) = true → s.isl.outs.length = 8 → ∃ t, exec .standbyStopTimeout s = .next t ∧
        t.timing .reqStop = false ∧ ∀ j < s.nOuts, s.xfer j = true → (s.io j).stopFn = 0 → (t.io j).stopFn = 13) ∧
      (s.due .bench (60 * sec) = true → ∃ t, exec .benchWindowExpiry s = .next t ∧ t.timing .bench = false ∧
        t.flag MD_STAT_BENCH_WAIT = false ∧ t.fld MD_STAT_REASON = 7 ∧ s.Raised t 0x1001 [7]) ∧
      (s.mode = 7 → ∀ h, ∃ t, exec (.bnHold h) s = .next t ∧ t.flag BN_CTRL_HOLD = h ∧ s.RegsOnly [R_BN_CTRL] t ∧ s.Only [.regs] t) ∧
      (∀ n : BitVec 16, s.mode = 7 → s.flag BN_CTRL_HOLD = true → s.sys.step = none → n ≠ 0 →
        (benchCores.any fun i => s.fld (coreFld i) == 3) = true → ∃ t, exec (.bnStep n) s = .next t ∧ t.sys.step = some n.toNat ∧
          t.flag BN_CTRL_STEP = true ∧ t.fld BN_CTRL_STEP_N = n.toNat ∧ ∀ i ∈ benchCores, s.fld (coreFld i) = 3 → t.fld (coreFld i) = 1) ∧
      (s.sys.step = some 0 → ∃ t, exec .benchStepDone s = .next t ∧ t.sys.step = none ∧ t.flag BN_CTRL_STEP = false ∧
        s.Raised t 0x1010 [] ∧ ∀ i ∈ benchCores, s.fld (coreFld i) = 1 → t.fld (coreFld i) = 3) ∧
      (∀ c, c < 16 → s.keys.deferred = some c → s.noXfer = true → ∃ t, exec .deferredStart s = .next t ∧ t.mode = 0 ∧
        t.keys.begun = some c ∧ t.keys.deferred = none ∧ t.fld KB_BOOT_RCAUSE = c) ∧
      (∀ (n : Fin 64) (q : JSlot), s.awaits n 7 0x34 q = true → s.roleOf q.d.sess = some 2 →
        (∀ st r, s.activateBlock = some (st, r) → ∃ t, exec (.activate n) s = .next t ∧ t.Answered n q.num st r ∧
          t.flag GLB_MODE_ACT_PAUSE = s.flag GLB_MODE_ACT_PAUSE) ∧
        (s.activateBlock = none → s.rstate n = 1 → ∃ t, exec (.activate n) s = .next t ∧ t.flag GLB_MODE_ACT_PAUSE = true ∧
          t.keys.pause = some (n.val, q.num) ∧ t.timing .pause = true ∧ t.rstate n = 3 ∧ s.Raised t 0x0E0A [s.other])) ∧
      (∀ p laws, s.keys.pause = some p → (∀ i ∈ pauseCores, s.fld (coreFld i) = 0) →
        (s.due .pause (180 * ms) = false → (s.bank s.other).regionsOk [0, 4, 5, 6, 7, 8, 9] = true →
          (∀ c < 2, ∀ img, nth none laws c = some img → lawReason img s.tim.cfSel s.tim.longFibre = 0) →
          ∃ t, exec (.activationPauseEnd laws []) s = .next t ∧ t.fld KB_BOOT_ACTIVE = s.other ∧ t.flag KB_BOOT_TRIAL = true ∧
            t.fld (KB_BANK_STAT_STATE s.other) = 4 ∧ t.flag GLB_MODE_ACT_PAUSE = false ∧ t.keys.pause = none ∧ t.timing .trial = true ∧
            (∀ i ∈ pauseCores, t.fld (coreFld i) = 1) ∧ s.Raised t 0x0E0B [s.other]) ∧
        (∀ bad, s.due .pause (180 * ms) = true ∨ bad ≠ [] → ∃ t, exec (.activationPauseEnd laws bad) s = .next t ∧ t.mode = 0 ∧
          t.fld (KB_BANK_STAT_STATE s.other) = 5 ∧ s.Raised t 0x0E0D [s.other])) ∧
      (s.flag GLB_MODE_ACT_PAUSE = true → ∃ t, exec .activationFail s = .next t ∧ t.mode = 0 ∧ t.keys.begun = some 8 ∧
        t.flag GLB_MODE_ACT_PAUSE = false ∧ t.fld (KB_BANK_STAT_STATE s.other) = 5 ∧ s.Raised t 0x0E0D [s.other]) ∧
      (∀ (n : Fin 64) (q : JSlot), s.awaits n 7 0x35 q = true → s.roleOf q.d.sess = some 2 →
        (s.flag KB_BOOT_TRIAL = false → ∃ t, exec (.updateConfirm n) s = .next t ∧ t.Answered n q.num 1 20 ∧ t.fld UPD_STATUS_REASON = 20) ∧
        (s.flag KB_BOOT_TRIAL = true → s.flag UPD_CFG_MANUAL = true → s.confDue = false → ∃ t, exec (.updateConfirm n) s = .next t ∧
          t.Answered n q.num 0 0 ∧ t.flag KB_BOOT_TRIAL = false ∧ t.fld (KB_BANK_STAT_STATE (s.fld KB_BOOT_ACTIVE)) = 3 ∧
          s.Raised t 0x0E0C [s.fld KB_BOOT_ACTIVE, min 64 (max (s.fld KB_CNT_ARB) (s.fld (KB_BANK_STAT_SVN (s.fld KB_BOOT_ACTIVE))))])) ∧
      (s.flag KB_BOOT_TRIAL = true → s.confDue = true →
        (s.flag UPD_CFG_MANUAL = false → ∃ t, exec .trialConfirmTimer s = .next t ∧ t.flag KB_BOOT_TRIAL = false ∧
          t.fld (KB_BANK_STAT_STATE (s.fld KB_BOOT_ACTIVE)) = 3 ∧ t.timing .trial = false ∧ t.mode = s.mode ∧
          s.Raised t 0x0E0C [s.fld KB_BOOT_ACTIVE, min 64 (max (s.fld KB_CNT_ARB) (s.fld (KB_BANK_STAT_SVN (s.fld KB_BOOT_ACTIVE))))]) ∧
        (s.flag UPD_CFG_MANUAL = true → s.noXfer = true → ∃ t, exec .trialConfirmTimer s = .next t ∧ t.mode = 0 ∧
          t.keys.begun = some 8 ∧ t.fld KB_BOOT_ACTIVE = s.other ∧ t.fld (KB_BANK_STAT_STATE (s.fld KB_BOOT_ACTIVE)) = 5 ∧
          s.Raised t 0x0E03 [s.fld KB_BOOT_ACTIVE]) ∧
        (s.flag UPD_CFG_MANUAL = true → s.noXfer = false → ∃ t, exec .trialConfirmTimer s = .next t ∧ t.mode = s.mode ∧
          t.keys.deferred = some 8 ∧ s.Raised t 0x0E03 [s.fld KB_BOOT_ACTIVE])))

/-- One input outside gives E:0x1003; a dip enters and leaves the hold with E:0x1004 and E:0x1005. The store switch gives E:0x1006, sheds PD8 and begins the seven steps of the ramp, one at each SF tick, after the last of which the loads are off; the final commit gives E:0x060B and releases PD3; the end of the store gives E:0x1008; the supply's return makes a start, or PD0 goes off. The store and the capture engine are tested. A freeze request is told with E:0x100B or ignored with E:0x100F; a safe freeze begins with the safe state, in BENCH and after its waits the clocks stop in FROZEN with E:0x100C; a capture ends with its slot, E:0x100D and the domains off; the capture port reads the store and the headers. A pairing record, mirror frames, handover, takeover with E:0x1012, a withdrawn token with E:0x1013 and a lost twin link with E:0x1014 follow the twin rules. -/
def Obligations.SuppliesFreezesAndTwins : Prop :=
  ∀ s : State, s.wf = true → s.sys.slots.length = 4 →
    (∀ a b : BitVec 16,
      (supOk a.toNat ≠ supOk b.toNat → ∃ t, exec (.logicInputExcursion a b) s = .next t ∧ t.flag SUP_STAT_A_OK = supOk a.toNat ∧
        t.fld SUP_CNT_INPUT = min 255 (s.fld SUP_CNT_INPUT + 1) ∧ t.mode = s.mode ∧ s.Raised t 0x1003 [b2n (supOk a.toNat)]) ∧
      (max a.toNat b.toNat < 1650 → s.holding = false → s.flag SUP_STAT_STORE = false → ∀ met feeds, ∃ t, exec (.holdEntry a b met feeds) s = .next t ∧
        t.holding = true ∧ t.flag SH_STATUS_HOLD = true ∧ t.fld SUP_CNT_DIPS = min 255 (s.fld SUP_CNT_DIPS + 1) ∧ s.Raised t 0x1004 []) ∧
      (1750 ≤ max a.toNat b.toNat → s.holding = true → s.flag SUP_STAT_STORE = false → ∃ t, exec (.holdEnd a b) s = .next t ∧
        t.holding = false ∧ t.flag SH_STATUS_HOLD = false ∧ s.Raised t 0x1005 []) ∧
      (max a.toNat b.toNat < 1400 → s.flag SUP_STAT_STORE = false → s.pdOn 0 = true →
        (s.mode ≠ 6 → ∃ t, exec (.storeSwitch a b) s = .next t ∧ t.flag SUP_STAT_STORE = true ∧ t.flag SUP_STAT_STORE_RDY = false ∧
          t.sys.shed = some 0 ∧ t.sys.shedI = ((idx 8).map fun j => (s.fastI j).natAbs / 100) ∧ bit (t.fld GLB_PD_STATE_ON) 8 = false ∧
          s.Raised t 0x1006 []) ∧
        (s.mode = 6 → ∃ t, exec (.storeSwitch a b) s = .next t ∧ t.flag SUP_STAT_STORE = true ∧ t.sys.shedDone = true ∧
          t.sys.frozenLoss = true ∧ t.mode = 6 ∧ s.Raised t 0x1006 [])) ∧
      (s.sys.shedDone = true → s.pdOn 0 = true → (supOk a.toNat = true ∨ supOk b.toNat = true) → ∃ t, exec (.supplyRestart a b) s = .next t ∧
        t.mode = 0 ∧ t.keys.begun = some (if s.mode = 6 then 6 else 1) ∧ t.sys.shed = none ∧ t.flag SUP_STAT_STORE = false)) ∧
    (∀ v : BitVec 16, s.flag SUP_STAT_STORE = false → ∃ t, exec (.storeCharged v) s = .next t ∧ t.fld SUP_STORE_V = v.toNat ∧
      t.flag SUP_STAT_STORE_RDY = true ∧ s.Only [.regs] t) ∧
    (s.flag SUP_STAT_STORE = true → s.flag SUP_STAT_EOS = false → ∀ met feeds, ∃ t, exec (.endOfStore met feeds) s = .next t ∧ t.flag SUP_STAT_EOS = true ∧
      t.host.quiet = true ∧ t.sys.capturing = false ∧ s.Raised t 0x1008 [] ∧
      ((s.flag MET_STATUS_HOLDUP && s.metOn) = true → t.sys.cut = true ∧ s.Raised t 0x060C [])) ∧
    (s.flag SUP_STAT_STORE = true → (s.sys.shedDone = true ∨ s.flag SUP_STAT_EOS = true) → ∃ t, exec .storeEnd s = .next t ∧ t.fld GLB_PD_STATE_ON = 0) ∧
    (s.clocked = true →
      (∀ k, k < 6 → s.sys.shed = some k → s.tim.sfCount ≠ s.sys.shedSf → (∀ c < 2, (s.ce c).laneOut.length ≤ 4) → ∃ t, exec .sheddingStep s = .next t ∧
        t.sys.shed = some (k + 1) ∧ ∀ j < s.nOuts, ∀ l, s.outLane j = some l →
          t.fld (CE_CLAMP_ILIM (s.outCe j) l) = min 0xFFFFF (nth 0 s.sys.shedI j * (7 - (k + 1)) / 7)) ∧
      (s.sys.shed = some 6 → s.tim.sfCount ≠ s.sys.shedSf → ∃ t, exec .sheddingStep s = .next t ∧ t.sys.shed = some 7 ∧ t.fld GLB_PD_STATE_ON &&& 0x2F0 = 0 ∧
        t.host.quiet = true ∧ t.host.linkUp = false ∧ ∀ i ∈ benchCores, t.fld (coreFld i) = 0) ∧
      (s.flag MET_STATUS_HOLDUP = true → s.sys.cut = false → s.pdOn 3 = true → (∀ j < s.nOuts, (s.mo j).stopped = true) → (∀ f < 2, (s.mf f).stopped = true) →
        ∃ t, exec .holdupFinalCommit s = .next t ∧ t.pdOn 3 = false ∧ t.fld (coreFld 2) = 0 ∧ s.Raised t 0x060B [] ∧
          (s.sys.shed = some 7 → s.sys.shedDone = false → t.sys.shedDone = true ∧ t.fld KB_BOOT_RCAUSE = 1 ∧ t.pdOn 1 = false ∧
            t.pdOn 2 = false)) ∧
      (∀ e : BitVec 16, s.flag SUP_STAT_STORE = false → s.sys.storeDue = true → ∃ t, exec (.storeTest e) s = .next t ∧
        t.fld SUP_STORE_EUSE = e.toNat ∧ t.flag SUP_STAT_HOLDUP_LOW = decide (e.toNat < 2100) ∧ t.sys.storeDue = false ∧
        t.timing .storeTest = true ∧ (e.toNat < 2100 → s.Raised t 0x100A [])) ∧
      (∀ p, s.sys.capDue = true → ∃ t, exec (.captureEngineTest p) s = .next t ∧ t.flag FRZ_STAT_CAP_OK = p ∧ t.sys.capDue = false ∧
        t.timing .capTest = true ∧ (p = false → s.Raised t 0x100E [])) ∧
      (∀ r t0, s.sys.frz = some r → r.ready = some t0 → t0 + 300000 ≤ s.age → ∃ t, exec .freezeClockStop s = .next t ∧ t.mode = 6 ∧ t.sys.frz = none ∧
        t.sys.capturing = true ∧ s.Raised t 0x100C [s.above2.foldl (fun a j => a + 2 ^ j) 0] ∧
        (∀ i < 8, s.coreRuns i = true → t.fld (coreFld i) = 3) ∧
        (∀ k, s.flag FRZ_STAT_CAP_OK = true → s.capSlot = some k → t.sys.cap = some k ∧ t.sys.captures = s.sys.captures + 1 ∧
          ∃ c, nth none t.sys.slots k = some c ∧ c.index = s.sys.captures + 1 ∧ c.status = 0 ∧ c.mode = r.mode ∧ c.source = r.source))) ∧
    (s.frzBlocked = true → (∃ t, exec .freezeNAsserted s = .next t ∧ t.sys = s.sys ∧ t.mode = s.mode ∧ s.Raised t 0x100F [0]) ∧
      (∃ t, exec .frzReq s = .next t ∧ t.sys = s.sys ∧ t.mode = s.mode ∧ s.Raised t 0x100F [1])) ∧
    (s.frzBlocked = false → s.sys.frz = none →
      (s.mode = 7 → (∃ t, exec .freezeNAsserted s = .next t ∧ t.mode = 6 ∧ t.sys.capturing = true ∧ s.Raised t 0x100B [0]) ∧
        (∃ t, exec .frzReq s = .next t ∧ t.mode = 6 ∧ t.sys.capturing = true ∧ s.Raised t 0x100B [1])) ∧
      (s.mode ≠ 7 → s.mode ≠ 0 → s.isl.safe = false →
        (∃ t, exec .freezeNAsserted s = .next t ∧ t.mode = 5 ∧ t.isl.safe = true ∧ t.isl.cause = 0xC1 ∧ s.Raised t 0x100B [0] ∧
          t.sys.frz = some ⟨0, s.mode, (s.reg R_SI_STATUS).toNat, none⟩ ∧ t.timing .freeze = true) ∧
        (∃ t, exec .frzReq s = .next t ∧ t.mode = 5 ∧ t.isl.safe = true ∧ t.isl.cause = 0xC1 ∧ s.Raised t 0x100B [1] ∧
          t.sys.frz = some ⟨1, s.mode, (s.reg R_SI_STATUS).toNat, none⟩ ∧ t.timing .freeze = true))) ∧
    (s.sys.capturing = true → ∀ sections bytes ok,
      (s.flag FRZ_CFG_AUTO_RST = false → ∃ t, exec (.captureEnd sections bytes ok) s = .next t ∧ t.sys.capturing = false ∧
        t.fld GLB_PD_STATE_ON = s.fld GLB_PD_STATE_ON &&& 0x00D ∧
        ∀ k c, k < 4 → s.sys.cap = some k → nth none s.sys.slots k = some c → s.Raised t 0x100D [c.index, if ok then 1 else 3] ∧
          nth none t.sys.slots k = some { c with
            sections := if ok then 9 else min 9 sections, bytes := min (2 ^ 25) bytes, status := if ok then 1 else 3 }) ∧
      (s.flag FRZ_CFG_AUTO_RST = true → s.flag SUP_STAT_STORE = false → ∃ t, exec (.captureEnd sections bytes ok) s = .next t ∧
        t.mode = 0 ∧ t.keys.begun = some 6 ∧ t.sys.capturing = false)) ∧
    (s.pdGood 0 = true → s.pdGood 2 = true →
      (∀ (a : BitVec 32) (n : Nat), ∃ t, exec (.capRead a n) s = .next t ∧ s.Only [.sys] t ∧
        t.sys.capOut = (idx n).map fun i => s.capByte (a.toNat + i)) ∧
      (∀ n, ∃ t, exec (.readIndex n) s = .next t ∧ s.Only [.sys] t ∧
        t.sys.capOut = ((idx 4).flatMap fun k => (idx 256).map fun i => s.capByte (k * 2 ^ 25 + i)).take n)) ∧
    (s.clocked = true →
      (∀ (n : BitVec 64) (src : Fin 2) (chk hash : Word), s.twinHears = true → ∃ t, exec (.pairingRecord n src chk hash) s = .next t ∧
        t.twin.paired = true ∧ t.twin.src = src.val ∧ t.twin.chk = chk.toNat ∧ t.twin.hash = hash.toNat ∧ t.flag TW_STAT_LINK = true ∧
        t.fld TW_PEER_LO_SERIAL = n.toNat % 2 ^ 32 ∧ t.fld TW_PEER_HI_SERIAL = n.toNat / 2 ^ 32 ∧
        (src.val = s.fld CQ_GCFG_SRC_ID → t.fld TW_STAT_STATE = 5)) ∧
      (∀ (m : Mirror) (o : Option Nat), s.twinHears = true →
        (∃ t, exec (.mirrorFrame false m o) s = .next t ∧ t.fld TW_ERR_CRC = min 255 (s.fld TW_ERR_CRC + 1) ∧ t.twin = s.twin) ∧
        (s.flag CQ_GCFG_TOK = false → ∃ t, exec (.mirrorFrame true m o) s = .next t ∧ t.twin.got = true ∧ t.twin.last = some m ∧
          t.twin.missed = 0 ∧ t.flag TW_STAT_LINK = true ∧ t.fld TW_STAT_PEER_MODE = m.mode % 16 ∧
          ∀ off, o = some off → s.Raised t 0x08F2 [0xB, off]) ∧
        (s.flag CQ_GCFG_TOK = true → s.twinBad = false → s.fld CQ_GCFG_SRC_ID = 1 → ∃ t, exec (.mirrorFrame true m o) s = .next t ∧
          t.flag CQ_GCFG_TOK = false ∧ s.Raised t 0x1013 [])) ∧
      (s.flag CQ_GCFG_TWIN_EN = true → s.flag CQ_GCFG_TOK = true → s.twinBad = false → s.twin.passing = 0 →
        ∃ t, exec (.handover true) s = .next t ∧ t.twin.passing = 1 ∧ s.Only [.twin] t) ∧
      (s.twinHears = true → s.flag CQ_GCFG_TOK = false → s.twinBad = false → 2 ≤ s.twin.missed → s.halfLost = true → s.otherObeyed = false → s.isl.istate = 2 →
        ∃ t, exec .tokenTakeover s = .next t ∧ t.flag CQ_GCFG_TOK = true ∧ s.Raised t 0x1012 [] ∧
          t.fld TW_ERR_TAKE = min 255 (s.fld TW_ERR_TAKE + 1)) ∧
      (s.flag TW_STAT_LINK = true → ∃ t, exec .twinLinkLost s = .next t ∧ t.flag TW_STAT_LINK = false ∧ s.Raised t 0x1014 [] ∧
        t.fld TW_ERR_LOSS = min 255 (s.fld TW_ERR_LOSS + 1) ∧
        (s.clk = 6 → t.clk = if s.flag TIME_STATUS_VALID = true then 1 else 0)))
end

