-- ==== Sys2Proof/Laws/Sparse.lean ====
section
/-!
SUPPORT. Sparse tables: a write keeps the canonical form, a read after a write gives the value written at its key and what
was there elsewhere; the same for the lid tag's memory.
-/

namespace Sys2Proof.Machine

open Sys2Proof

theorem Sparse.put_wfFrom {α : Type} [DecidableEq α] (d : Nat → α) (k : Nat) (v : α) :
    ∀ (l : List (Nat × α)) (lo : Option Nat), Sparse.wfFrom d lo l = true → (∀ x, lo = some x → x < k) →
      Sparse.wfFrom d lo (Sparse.put (d k) k v l) = true
  | [], lo, _, hk => by
    cases lo <;> by_cases hv : v = d k <;> simp_all [Sparse.put, Sparse.wfFrom]
  | (k', v') :: t, lo, h, hk => by
    have ih := Sparse.put_wfFrom d k v t
    simp only [Sparse.wfFrom, Bool.and_eq_true] at h
    obtain ⟨⟨h1, h2⟩, h3⟩ := h
    simp only [Sparse.put]
    split
    · split
      · simp only [Sparse.wfFrom, Bool.and_eq_true]; exact ⟨⟨h1, h2⟩, h3⟩
      · simp only [Sparse.wfFrom, Bool.and_eq_true]
        refine ⟨⟨?_, by simpa using ‹¬ v = d k›⟩, ⟨by simpa using ‹k < k'›, h2⟩, h3⟩
        cases lo <;> simp_all
    · split
      · subst_vars
        have weak : ∀ (l : List (Nat × α)) (a b : Option Nat), Sparse.wfFrom d a l = true →
            (∀ y, b = some y → ∃ x, a = some x ∧ y ≤ x) → Sparse.wfFrom d b l = true := by
          intro l a b hl hab
          cases l with
          | nil => rfl
          | cons p l =>
            simp only [Sparse.wfFrom, Bool.and_eq_true] at hl ⊢
            refine ⟨⟨?_, hl.1.2⟩, hl.2⟩
            cases b with
            | none => rfl
            | some y =>
              obtain ⟨x, rfl, hy⟩ := hab y rfl
              have := hl.1.1
              simp at this ⊢; omega
        split
        · exact weak t _ _ h3 fun y hy => ⟨_, rfl, Nat.le_of_lt (hk y hy)⟩
        · simp only [Sparse.wfFrom, Bool.and_eq_true]
          refine ⟨⟨?_, by simpa using ‹¬ v = _›⟩, h3⟩
          cases lo <;> simp_all
      · simp only [Sparse.wfFrom, Bool.and_eq_true]
        exact ⟨⟨h1, h2⟩, ih (some k') h3 fun x hx => by
          have : x = k' := by simpa using hx.symm
          omega⟩

theorem Memory.write_wf {m : List Host.Cell} (h : Memory.wf m = true) (a : Nat) (b : Byte) : Memory.wf (Memory.write m a b) = true :=
  Sparse.put_wfFrom (fun _ => Memory.blank) a b m none h (by simp)

theorem Memory.writeN_wf : ∀ (b : List Byte) {m : List Host.Cell} (_ : Memory.wf m = true) (a : Nat),
    Memory.wf (Memory.writeN m a b) = true
  | [], _, h, _ => h
  | b :: t, _, h, a => Memory.writeN_wf t (Memory.write_wf h a b) (a + 1)

/-- A canonical list holds no key at or below its bound. -/
theorem Sparse.get_low {α : Type} [DecidableEq α] (d : Nat → α) :
    ∀ (l : List (Nat × α)) (lo k : Nat), Sparse.wfFrom d (some lo) l = true → k ≤ lo → ∀ x : α, Sparse.get x l k = x
  | [], _, _, _, _, _ => rfl
  | (k', v') :: t, lo, k, h, hk, x => by
    simp only [Sparse.wfFrom, Bool.and_eq_true, decide_eq_true_eq] at h
    have h1 : lo < k' := h.1.1
    simp only [Sparse.get]
    rw [if_neg (by omega), if_pos (by omega)]

/-- A read after a write (in a canonical table). -/
theorem Sparse.get_put {α : Type} [DecidableEq α] (d : Nat → α) (k : Nat) (v : α) (k2 : Nat) :
    ∀ (l : List (Nat × α)) (lo : Option Nat), Sparse.wfFrom d lo l = true →
      Sparse.get (d k2) (Sparse.put (d k) k v l) k2 = if k2 = k then v else Sparse.get (d k2) l k2
  | [], _, _ => by
    by_cases hv : v = d k <;> by_cases h2 : k2 = k <;> simp_all [Sparse.put, Sparse.get]
    
  | (k', v') :: t, lo, h => by
    have h' := h
    simp only [Sparse.wfFrom, Bool.and_eq_true] at h
    have ih := Sparse.get_put d k v k2 t _ h.2
    have low : k2 ≤ k' → ∀ x : α, Sparse.get x t k2 = x := fun hk x => Sparse.get_low d t k' k2 h.2 hk x
    simp only [Sparse.put]
    split
    · split
      · by_cases h2 : k2 = k
        · subst h2; simp only [Sparse.get, if_true]; rw [if_neg (by omega), if_pos (by omega)]; simp_all
        · simp [h2]
      · by_cases h2 : k2 = k
        · subst h2; simp [Sparse.get]
        · simp only [Sparse.get, h2, if_false]
          by_cases h3 : k2 < k
          · rw [if_pos h3, if_neg (by omega), if_pos (by omega)]
          · rw [if_neg h3]
    · split
      · subst_vars
        split
        · by_cases h2 : k2 = k'
          · subst h2; rw [low (Nat.le_refl _)]; simp_all
          · simp only [Sparse.get, h2, if_false]
            by_cases h3 : k2 < k'
            · rw [if_pos h3, low (by omega)]
            · rw [if_neg h3]
        · by_cases h2 : k2 = k' <;> simp [Sparse.get, h2]
      · simp only [Sparse.get]
        by_cases h2 : k2 = k'
        · subst h2; simp; omega
        · simp only [h2, if_false]
          by_cases h3 : k2 < k'
          · rw [if_pos h3, if_neg (by omega), if_pos h3]
          · rw [if_neg h3, ih, if_neg h3]

end Sys2Proof.Machine
end

