-- ==== Sys2Proof/Laws/Keeps.lean ====
section
/-!
SUPPORT. What every command keeps, for the operations that all the others are made of: one lemma per operation, of the form
"what is kept up to here is kept after it".
-/

namespace Sys2Proof.Machine

open Sys2Proof

theorem State.Keeps.refl (s : State) : s.Keeps s := ⟨rfl, List.suffix_refl _, Nat.le_refl _, id⟩

theorem State.Keeps.trans {s t u : State} (h : s.Keeps t) (k : t.Keeps u) : s.Keeps u :=
  ⟨k.pending.trans h.pending, h.log.trans k.log, h.fresh.trans k.fresh, fun w => k.wf (h.wf w)⟩

/-- A change of anything else, which leaves the numbers of instances as they are. -/
theorem State.Keeps.other {s0 s t : State} (h : s0.Keeps s) (h1 : t.pending = s.pending) (h2 : t.log = s.log)
    (h3 : t.fresh = s.fresh) (h4 : t.regs = s.regs) (h5 : t.tag.mem = s.tag.mem) (h6 : t.sized = s.sized) : s0.Keeps t :=
  ⟨h1.trans h.pending, h2 ▸ h.log, h3 ▸ h.fresh, fun w => by have := h.wf w; simpa only [State.wf, h4, h5, h6] using this⟩

/-- A record update that leaves the queue, the registers, the log, the free values, the tag and the numbers of instances as they
are. -/
theorem State.mk_keeps {s0 s : State} (h : s0.Keeps s) (timers : List (Timer × Nat)) (hostRead : Word) (glb : GlbSt) (tim : TimeSt)
    (links : List LinkSt) (linkc : LinkCommon) (ces : List CeSt) (sh : ShareSt) (veh : List Veh) (vehc : VehCommon) (met : MetSt)
    (leg : LegSt) (isl : IslSt) (ps : PsSt) (pnl : PnlSt) (nfc : List NfcPort) (ml : MlSt) (host : HostSt) (keys : KeySt)
    (mem : MemSt) (sys : SysSt) (twin : TwinSt) (h1 : links.length = s.links.length) (h2 : ces.length = s.ces.length)
    (h3 : veh.length = s.veh.length) (h4 : nfc.length = s.nfc.length) :
    s0.Keeps (State.mk s.pending s.regs s.log timers hostRead s.fresh glb tim links linkc ces sh veh vehc met leg isl ps pnl nfc
      s.tag ml host keys mem sys twin) :=
  h.other rfl rfl rfl rfl rfl (by simp only [State.sized, h1, h2, h3, h4])

theorem upd_length {α : Type} (l : List α) (i : Nat) (f : α → α) : (upd l i f).length = l.length := List.length_modify ..

theorem State.setReg_keeps {s0 s : State} (h : s0.Keeps s) (off : Nat) (w : Word) : s0.Keeps (s.setReg off w) :=
  ⟨h.pending, h.log, h.fresh, fun k => by
    have := h.wf k
    simp only [State.wf, Bool.and_eq_true, State.setReg] at this ⊢
    exact ⟨⟨Sparse.put_wfFrom regReset off w s.regs none this.1.1 (by simp), this.1.2⟩, this.2⟩⟩

theorem State.logEvent_keeps {s0 s : State} (h : s0.Keeps s) (c : Nat) (d : List Nat) : s0.Keeps (s.logEvent c d) :=
  ⟨h.pending, h.log.trans (List.suffix_cons _ _), h.fresh, h.wf⟩

theorem State.draw_keeps {s0 s : State} (h : s0.Keeps s) : s0.Keeps s.draw.2 :=
  ⟨h.pending, h.log, h.fresh.trans (Nat.le_succ _), h.wf⟩

theorem State.updTag_keeps {s0 s : State} (h : s0.Keeps s) (f : TagSt → TagSt)
    (hf : ∀ x, Memory.wf x.mem = true → Memory.wf (f x).mem = true) : s0.Keeps (s.updTag f) :=
  ⟨h.pending, h.log, h.fresh, fun k => by
    have := h.wf k
    simp only [State.wf, Bool.and_eq_true, State.updTag] at this ⊢
    exact ⟨⟨this.1.1, hf _ this.1.2⟩, this.2⟩⟩

theorem State.iff_keeps {s0 s : State} (h : s0.Keeps s) (c : Bool) (f : State → State) (hf : ∀ s, s0.Keeps s → s0.Keeps (f s)) :
    s0.Keeps (s.iff c f) := by
  unfold State.iff; split
  · exact hf s h
  · exact h

theorem foldl_keeps {α : Type} {s0 : State} (f : State → α → State) (hf : ∀ s a, s0.Keeps s → s0.Keeps (f s a)) :
    ∀ (l : List α) {s : State} (_ : s0.Keeps s), s0.Keeps (l.foldl f s)
  | [], _, h => h
  | a :: l, s, h => foldl_keeps f hf l (hf s a h)

theorem State.each_keeps {α : Type} {s0 s : State} (h : s0.Keeps s) (l : List α) (f : State → α → State)
    (hf : ∀ s a, s0.Keeps s → s0.Keeps (f s a)) : s0.Keeps (s.each l f) := foldl_keeps f hf l h

theorem id_keeps {s0 s : State} (h : s0.Keeps s) : s0.Keeps (id s) := h

theorem keepsOut_next {s t : State} (h : s.Keeps t) : s.KeepsOut (.next t) := ⟨t, rfl, h⟩

theorem State.live_keeps {s t : State} (h : s.Keeps t) : s.KeepsOut (s.live t) := by
  refine keepsOut_next ?_
  split
  · exact h
  · exact State.Keeps.refl s

theorem State.liveOn_keeps {s t : State} {pd : Nat} (h : s.Keeps t) : s.KeepsOut (s.liveOn pd t) := by
  refine keepsOut_next ?_
  split
  · exact h
  · exact State.Keeps.refl s

theorem State.setFld_keeps {s0 s : State} (h : s0.Keeps s) (f : Fld) (v : Nat) : s0.Keeps (s.setFld f v) :=
  State.setReg_keeps h _ _

theorem State.cupStart_keeps {s0 s : State} (h : s0.Keeps s) (c b : Nat) : s0.Keeps (s.cupStart c b) :=
  State.Keeps.other (State.setFld_keeps h _ _) rfl rfl rfl rfl rfl
    (by simp only [State.sized, State.cupStart, State.updCup, State.setFld, State.setReg, upd_length])

theorem State.eventN_keeps : ∀ (n : Nat) {s0 s : State} (_ : s0.Keeps s) (c : Nat) (d : List Nat), s0.Keeps (State.eventN n s c d)
  | 0, _, _, h, c, d => State.logEvent_keeps h c d
  | n + 1, _, _, h, c, d =>
    State.each_keeps (State.logEvent_keeps h c d) _ _ fun _ _ h1 =>
      State.each_keeps h1 _ _ fun _ _ h2 => State.eventN_keeps n (State.cupStart_keeps h2 _ _) _ _

/-- An event is raised by `event`, and stays raised whatever follows. -/
theorem State.eventN_raised (n : Nat) (s : State) (c : Nat) (d : List Nat) : s.Raised (State.eventN n s c d) c d := by
  have base : s.Raised (s.logEvent c d) c d :=
    ⟨s.newEvent c d, s.log, rfl, rfl, List.suffix_refl _, List.suffix_refl _⟩
  cases n with
  | zero => exact base
  | succ n =>
    obtain ⟨e, l, h1, h2, h3, h4⟩ := base
    refine ⟨e, l, h1, h2, h3, h4.trans ?_⟩
    exact (State.each_keeps (State.Keeps.refl _) _ _ fun _ _ h1 =>
      State.each_keeps h1 _ _ fun _ _ h2 => State.eventN_keeps n (State.cupStart_keeps h2 _ _) _ _).log

theorem State.event_raised (s : State) (c : Nat) (d : List Nat) : s.Raised (s.event c d) c d := State.eventN_raised 16 s c d

theorem State.Raised.then {s t u : State} {c : Nat} {d : List Nat} (h : s.Raised t c d) (k : t.Keeps u) : s.Raised u c d := by
  obtain ⟨e, l, h1, h2, h3, h4⟩ := h
  exact ⟨e, l, h1, h2, h3, h4.trans k.log⟩

theorem State.Raised.after {s t u : State} {c : Nat} {d : List Nat} (k : s.Keeps t) (h : t.Raised u c d) : s.Raised u c d := by
  obtain ⟨e, l, h1, h2, h3, h4⟩ := h
  exact ⟨e, l, h1, h2, k.log.trans h3, h4⟩

end Sys2Proof.Machine
end

