-- ==== Sys2Proof/Laws/KeepsOps.lean ====
section
/-!
SUPPORT. What every command keeps, for the operations and commands of Machine/Ops.lean.
-/

set_option linter.all false

namespace Sys2Proof.Machine

open Sys2Proof

theorem State.setSat_keeps {s0 s : State} (h : s0.Keeps s) (f : Fld) (v : Nat) :
    s0.Keeps (State.setSat s f v) := by
  unfold State.setSat
  repeat' first
    | (intro _)
    | with_reducible assumption
    | (with_reducible first | apply State.setFld_keeps)
    | with_reducible exact fun _ h => h
    | split

theorem State.setFldS_keeps {s0 s : State} (h : s0.Keeps s) (f : Fld) (v : Int) :
    s0.Keeps (State.setFldS s f v) := by
  unfold State.setFldS
  repeat' first
    | (intro _)
    | with_reducible assumption
    | (with_reducible first | apply State.setFld_keeps)
    | with_reducible exact fun _ h => h
    | split

theorem State.setFlag_keeps {s0 s : State} (h : s0.Keeps s) (f : Fld) (b : Bool) :
    s0.Keeps (State.setFlag s f b) := by
  unfold State.setFlag
  repeat' first
    | (intro _)
    | with_reducible assumption
    | (with_reducible first | apply State.setFld_keeps)
    | with_reducible exact fun _ h => h
    | split

theorem State.inc_keeps {s0 s : State} (h : s0.Keeps s) (f : Fld) :
    s0.Keeps (State.inc s f) := by
  unfold State.inc
  repeat' first
    | (intro _)
    | with_reducible assumption
    | (with_reducible first | apply State.setSat_keeps)
    | with_reducible exact fun _ h => h
    | split

theorem State.setLinkBit_keeps {s0 s : State} (h : s0.Keeps s) (lo : Nat) (hi : Nat) (k : Nat) (b : Bool) :
    s0.Keeps (State.setLinkBit s lo hi k b) := by
  unfold State.setLinkBit
  repeat' first
    | (intro _)
    | with_reducible assumption
    | (with_reducible first | apply State.setReg_keeps)
    | with_reducible exact fun _ h => h
    | split

theorem State.updCup_keeps {s0 s : State} (h : s0.Keeps s) (c : Nat) (b : Nat) (f : CupBuf → CupBuf) :
    s0.Keeps (State.updCup s c b f) := by
  unfold State.updCup
  repeat' first
    | (intro _)
    | with_reducible assumption
    | split
    | (with_reducible apply State.mk_keeps; (rotate_left); all_goals first | with_reducible rfl | exact upd_length _ _ _ | exact List.length_map _ | skip)
    | with_reducible exact fun _ h => h
    | split

theorem State.event_keeps {s0 s : State} (h : s0.Keeps s) (code : Nat) (data : List Nat) :
    s0.Keeps (State.event s code data) := by
  unfold State.event
  repeat' first
    | (intro _)
    | with_reducible assumption
    | (with_reducible first | apply State.eventN_keeps)
    | with_reducible exact fun _ h => h
    | split

theorem State.cupTrigger_keeps {s0 s : State} (h : s0.Keeps s) (c : Nat) (b : Nat) :
    s0.Keeps (State.cupTrigger s c b) := by
  unfold State.cupTrigger
  repeat' first
    | (intro _)
    | with_reducible assumption
    | (with_reducible first | apply State.cupStart_keeps | apply State.each_keeps | apply State.event_keeps)
    | with_reducible exact fun _ h => h
    | split

theorem State.stopTimer_keeps {s0 s : State} (h : s0.Keeps s) (t : Timer) :
    s0.Keeps (State.stopTimer s t) := by
  unfold State.stopTimer
  repeat' first
    | (intro _)
    | with_reducible assumption
    | split
    | (with_reducible apply State.mk_keeps; (rotate_left); all_goals first | with_reducible rfl | exact upd_length _ _ _ | exact List.length_map _ | skip)
    | with_reducible exact fun _ h => h
    | split

theorem State.startTimer_keeps {s0 s : State} (h : s0.Keeps s) (t : Timer) :
    s0.Keeps (State.startTimer s t) := by
  unfold State.startTimer
  repeat' first
    | (intro _)
    | with_reducible assumption
    | split
    | (with_reducible apply State.mk_keeps; (rotate_left); all_goals first | with_reducible rfl | exact upd_length _ _ _ | exact List.length_map _ | skip)
    | with_reducible exact fun _ h => h
    | split

theorem State.setTimer_keeps {s0 s : State} (h : s0.Keeps s) (t : Timer) (ns : Nat) :
    s0.Keeps (State.setTimer s t ns) := by
  unfold State.setTimer
  repeat' first
    | (intro _)
    | with_reducible assumption
    | split
    | (with_reducible apply State.mk_keeps; (rotate_left); all_goals first | with_reducible rfl | exact upd_length _ _ _ | exact List.length_map _ | skip)
    | with_reducible exact fun _ h => h
    | split

theorem State.updLk_keeps {s0 s : State} (h : s0.Keeps s) (n : Nat) (f : LinkSt → LinkSt) :
    s0.Keeps (State.updLk s n f) := by
  unfold State.updLk
  repeat' first
    | (intro _)
    | with_reducible assumption
    | split
    | (with_reducible apply State.mk_keeps; (rotate_left); all_goals first | with_reducible rfl | exact upd_length _ _ _ | exact List.length_map _ | skip)
    | with_reducible exact fun _ h => h
    | split

theorem State.updCe_keeps {s0 s : State} (h : s0.Keeps s) (c : Nat) (f : CeSt → CeSt) :
    s0.Keeps (State.updCe s c f) := by
  unfold State.updCe
  repeat' first
    | (intro _)
    | with_reducible assumption
    | split
    | (with_reducible apply State.mk_keeps; (rotate_left); all_goals first | with_reducible rfl | exact upd_length _ _ _ | exact List.length_map _ | skip)
    | with_reducible exact fun _ h => h
    | split

theorem State.updVh_keeps {s0 s : State} (h : s0.Keeps s) (j : Nat) (f : Veh → Veh) :
    s0.Keeps (State.updVh s j f) := by
  unfold State.updVh
  repeat' first
    | (intro _)
    | with_reducible assumption
    | split
    | (with_reducible apply State.mk_keeps; (rotate_left); all_goals first | with_reducible rfl | exact upd_length _ _ _ | exact List.length_map _ | skip)
    | with_reducible exact fun _ h => h
    | split

theorem State.updIsl_keeps {s0 s : State} (h : s0.Keeps s) (f : IslSt → IslSt) :
    s0.Keeps (State.updIsl s f) := by
  unfold State.updIsl
  repeat' first
    | (intro _)
    | with_reducible assumption
    | split
    | (with_reducible apply State.mk_keeps; (rotate_left); all_goals first | with_reducible rfl | exact upd_length _ _ _ | exact List.length_map _ | skip)
    | with_reducible exact fun _ h => h
    | split

theorem State.faultSeen_keeps {s0 s : State} (h : s0.Keeps s) (row : Nat) :
    s0.Keeps (State.faultSeen s row) := by
  unfold State.faultSeen
  repeat' first
    | (intro _)
    | with_reducible assumption
    | (with_reducible first | apply State.updIsl_keeps)
    | with_reducible exact fun _ h => h
    | split

theorem State.updSo_keeps {s0 s : State} (h : s0.Keeps s) (k : Nat) (f : SoPair → SoPair) :
    s0.Keeps (State.updSo s k f) := by
  unfold State.updSo
  repeat' first
    | (intro _)
    | with_reducible assumption
    | (with_reducible first | apply State.updIsl_keeps)
    | with_reducible exact fun _ h => h
    | split

theorem State.updSin_keeps {s0 s : State} (h : s0.Keeps s) (n : Nat) (f : SinSt → SinSt) :
    s0.Keeps (State.updSin s n f) := by
  unfold State.updSin
  repeat' first
    | (intro _)
    | with_reducible assumption
    | (with_reducible first | apply State.updIsl_keeps)
    | with_reducible exact fun _ h => h
    | split

theorem State.updIo_keeps {s0 s : State} (h : s0.Keeps s) (j : Nat) (f : IslOut → IslOut) :
    s0.Keeps (State.updIo s j f) := by
  unfold State.updIo
  repeat' first
    | (intro _)
    | with_reducible assumption
    | (with_reducible first | apply State.updIsl_keeps)
    | with_reducible exact fun _ h => h
    | split

theorem State.updSys_keeps {s0 s : State} (h : s0.Keeps s) (f : SysSt → SysSt) :
    s0.Keeps (State.updSys s f) := by
  unfold State.updSys
  repeat' first
    | (intro _)
    | with_reducible assumption
    | split
    | (with_reducible apply State.mk_keeps; (rotate_left); all_goals first | with_reducible rfl | exact upd_length _ _ _ | exact List.length_map _ | skip)
    | with_reducible exact fun _ h => h
    | split

theorem State.updTwin_keeps {s0 s : State} (h : s0.Keeps s) (f : TwinSt → TwinSt) :
    s0.Keeps (State.updTwin s f) := by
  unfold State.updTwin
  repeat' first
    | (intro _)
    | with_reducible assumption
    | split
    | (with_reducible apply State.mk_keeps; (rotate_left); all_goals first | with_reducible rfl | exact upd_length _ _ _ | exact List.length_map _ | skip)
    | with_reducible exact fun _ h => h
    | split

theorem State.twinAnnounce_keeps {s0 s : State} (h : s0.Keeps s) :
    s0.Keeps (State.twinAnnounce s) := by
  unfold State.twinAnnounce
  repeat' first
    | (intro _)
    | with_reducible assumption
    | (with_reducible first | apply State.updTwin_keeps)
    | with_reducible exact fun _ h => h
    | split

theorem State.frzMark_keeps {s0 s : State} (h : s0.Keeps s) (src : Nat) (mode : Nat) (si : Nat) :
    s0.Keeps (State.frzMark s src mode si) := by
  unfold State.frzMark
  repeat' first
    | (intro _)
    | with_reducible assumption
    | (extract_lets +onlyGivenNames x; first | (refine (fun hx => ?_ : State.Keeps s0 x → _) ?_; (on_goal 1 => clear_value x); (on_goal 2 => subst x)) | clear_value x)
    | (with_reducible first | apply State.twinAnnounce_keeps | apply State.startTimer_keeps | apply State.updSys_keeps | apply State.event_keeps)
    | with_reducible exact fun _ h => h
    | split

theorem State.frzAuto_keeps {s0 s : State} (h : s0.Keeps s) (cause : Nat) (mode : Nat) (si : Nat) :
    s0.Keeps (State.frzAuto s cause mode si) := by
  unfold State.frzAuto
  repeat' first
    | (intro _)
    | with_reducible assumption
    | (extract_lets +onlyGivenNames x; first | clear_value x)
    | (with_reducible first | apply State.frzMark_keeps)
    | with_reducible exact fun _ h => h
    | split

end Sys2Proof.Machine
end

