-- ==== Sys2Proof/Laws/KeepsChoquin.lean ====
section
/-!
SUPPORT. What every command keeps, for the operations and commands of Machine/Choquin.lean.
-/

set_option linter.all false

namespace Sys2Proof.Machine

open Sys2Proof

theorem State.setLst_keeps {s0 s : State} (h : s0.Keeps s) (n : Nat) (new : Nat) :
    s0.Keeps (State.setLst s n new) := by
  unfold State.setLst
  repeat' first
    | (intro _)
    | with_reducible assumption
    | (with_reducible first | apply State.setFld_keeps | apply State.event_keeps)
    | with_reducible exact fun _ h => h
    | split

theorem State.sendCmd_keeps {s0 s : State} (h : s0.Keeps s) (n : Nat) (cmd : Nat) (arg : Nat) :
    s0.Keeps (State.sendCmd s n cmd arg) := by
  unfold State.sendCmd
  repeat' first
    | (intro _)
    | with_reducible assumption
    | (extract_lets +onlyGivenNames x; first | (refine (fun hx => ?_ : State.Keeps s0 x → _) ?_; (on_goal 1 => clear_value x); (on_goal 2 => subst x)) | clear_value x)
    | (with_reducible first | apply State.updLk_keeps)
    | with_reducible exact fun _ h => h
    | split
    | (fail_if_no_progress beta_reduce)

theorem State.toTrain_keeps {s0 s : State} (h : s0.Keeps s) (n : Nat) :
    s0.Keeps (State.toTrain s n) := by
  unfold State.toTrain
  repeat' first
    | (intro _)
    | with_reducible assumption
    | (with_reducible first | apply State.startTimer_keeps | apply State.updLk_keeps | apply State.setLst_keeps)
    | with_reducible exact fun _ h => h
    | split

theorem State.linkPower_keeps {s0 s : State} (h : s0.Keeps s) (n : Nat) :
    s0.Keeps (State.linkPower s n) := by
  unfold State.linkPower
  repeat' first
    | (intro _)
    | with_reducible assumption
    | (with_reducible first | apply State.iff_keeps | apply State.setLst_keeps | apply State.setLinkBit_keeps | apply State.updLk_keeps)
    | with_reducible exact fun _ h => h
    | split

theorem State.launch_keeps {s0 s : State} (h : s0.Keeps s) (n : Nat) (hold : Bool) (iref : Int) (vlim : Nat) (vff : Int) :
    s0.Keeps (State.launch s n hold iref vlim vff) := by
  unfold State.launch
  repeat' first
    | (intro _)
    | with_reducible assumption
    | (extract_lets +onlyGivenNames x; first | (refine (fun hx => ?_ : State.Keeps s0 x → _) ?_; (on_goal 1 => clear_value x); (on_goal 2 => subst x)) | clear_value x)
    | (with_reducible first | apply State.updLk_keeps)
    | with_reducible exact fun _ h => h
    | split
    | (fail_if_no_progress beta_reduce)

end Sys2Proof.Machine
end

