-- ==== Sys2Proof/Laws/KeepsTimeBase.lean ====
section
/-!
SUPPORT. What every command keeps, for the operations and commands of Machine/TimeBase.lean.
-/

set_option linter.all false

namespace Sys2Proof.Machine

open Sys2Proof

theorem State.updTim_keeps {s0 s : State} (h : s0.Keeps s) (f : TimeSt → TimeSt) :
    s0.Keeps (State.updTim s f) := by
  unfold State.updTim
  repeat' first
    | (intro _)
    | with_reducible assumption
    | split
    | (with_reducible apply State.mk_keeps; (rotate_left); all_goals first | with_reducible rfl | exact upd_length _ _ _ | exact List.length_map _ | skip)
    | with_reducible exact fun _ h => h
    | split

theorem State.setClkV_keeps {s0 s : State} (h : s0.Keeps s) (new : Nat) (valid : Bool) :
    s0.Keeps (State.setClkV s new valid) := by
  unfold State.setClkV
  repeat' first
    | (intro _)
    | with_reducible assumption
    | (extract_lets +onlyGivenNames x; first | (refine (fun hx => ?_ : State.Keeps s0 x → _) ?_; (on_goal 1 => clear_value x); (on_goal 2 => subst x)) | clear_value x)
    | (with_reducible first | apply State.setFlag_keeps | apply State.setFld_keeps | apply State.iff_keeps | apply State.updTim_keeps | apply State.event_keeps)
    | with_reducible exact fun _ h => h
    | split
    | (fail_if_no_progress beta_reduce)

theorem State.setClk_keeps {s0 s : State} (h : s0.Keeps s) (new : Nat) :
    s0.Keeps (State.setClk s new) := by
  unfold State.setClk
  repeat' first
    | (intro _)
    | with_reducible assumption
    | (with_reducible first | apply State.setClkV_keeps)
    | with_reducible exact fun _ h => h
    | split

theorem State.fixNext_keeps {s0 s : State} (h : s0.Keeps s) :
    s0.Keeps (State.fixNext s) := by
  unfold State.fixNext
  repeat' first
    | (intro _)
    | with_reducible assumption
    | (extract_lets +onlyGivenNames x; first | (refine (fun hx => ?_ : State.Keeps s0 x → _) ?_; (on_goal 1 => clear_value x); (on_goal 2 => subst x)) | clear_value x)
    | split
    | (with_reducible apply State.mk_keeps; (rotate_left); all_goals first | with_reducible rfl | exact upd_length _ _ _ | exact List.length_map _ | skip)
    | with_reducible exact fun _ h => h
    | split
    | (fail_if_no_progress beta_reduce)

theorem State.realign_keeps {s0 s : State} (h : s0.Keeps s) :
    s0.Keeps (State.realign s) := by
  unfold State.realign
  repeat' first
    | (intro _)
    | with_reducible assumption
    | (extract_lets +onlyGivenNames x; first | clear_value x)
    | (with_reducible first | apply State.updTim_keeps | apply State.iff_keeps | apply State.event_keeps)
    | with_reducible exact fun _ h => h
    | split

theorem State.ppsRise_keeps {s0 s : State} (h : s0.Keeps s) (old : Nat) :
    s0.Keeps (State.ppsRise s old) := by
  unfold State.ppsRise
  repeat' first
    | (intro _)
    | with_reducible assumption
    | (extract_lets +onlyGivenNames x; first | (refine (fun hx => ?_ : State.Keeps s0 x → _) ?_; (on_goal 1 => clear_value x); (on_goal 2 => subst x)) | clear_value x)
    | (with_reducible first | apply State.iff_keeps | apply State.updTim_keeps)
    | with_reducible exact fun _ h => h
    | split
    | (fail_if_no_progress beta_reduce)

theorem State.advanceBy_keeps {s0 s : State} (h : s0.Keeps s) (inc : Int) :
    s0.Keeps (State.advanceBy s inc) := by
  unfold State.advanceBy
  repeat' first
    | (intro _)
    | with_reducible assumption
    | (extract_lets +onlyGivenNames x; first | (refine (fun hx => ?_ : State.Keeps s0 x → _) ?_; (on_goal 1 => clear_value x); (on_goal 2 => subst x)) | clear_value x)
    | (with_reducible first | apply State.ppsRise_keeps)
    | split
    | (with_reducible apply State.mk_keeps; (rotate_left); all_goals first | with_reducible rfl | exact upd_length _ _ _ | exact List.length_map _ | skip)
    | with_reducible exact fun _ h => h
    | split
    | (fail_if_no_progress beta_reduce)

theorem State.acceptCorr_keeps {s0 s : State} (h : s0.Keeps s) (c : Int) (gnss : Bool) :
    s0.Keeps (State.acceptCorr s c gnss) := by
  unfold State.acceptCorr
  repeat' first
    | (intro _)
    | with_reducible assumption
    | (with_reducible first | apply State.updTim_keeps)
    | with_reducible exact fun _ h => h
    | split

theorem State.badPps_keeps {s0 s : State} (h : s0.Keeps s) :
    s0.Keeps (State.badPps s) := by
  unfold State.badPps
  repeat' first
    | (intro _)
    | with_reducible assumption
    | (extract_lets +onlyGivenNames x; first | (refine (fun hx => ?_ : State.Keeps s0 x → _) ?_; (on_goal 1 => clear_value x); (on_goal 2 => subst x)) | clear_value x)
    | (with_reducible first | apply State.setClk_keeps | apply State.setFlag_keeps | apply State.updTim_keeps | apply State.iff_keeps)
    | with_reducible exact fun _ h => h
    | split

theorem State.invalidPps_keeps {s0 s : State} (h : s0.Keeps s) :
    s0.Keeps (State.invalidPps s) := by
  unfold State.invalidPps
  repeat' first
    | (intro _)
    | with_reducible assumption
    | (with_reducible first | apply State.badPps_keeps | apply State.event_keeps)
    | with_reducible exact fun _ h => h
    | split

theorem State.ppsWithin_keeps {s0 s : State} (h : s0.Keeps s) (ofs : Int) :
    s0.Keeps (State.ppsWithin s ofs) := by
  unfold State.ppsWithin
  repeat' first
    | (intro _)
    | with_reducible assumption
    | (extract_lets +onlyGivenNames x; first | (refine (fun hx => ?_ : State.Keeps s0 x → _) ?_; (on_goal 1 => clear_value x); (on_goal 2 => subst x)) | clear_value x)
    | (with_reducible first | apply State.setClk_keeps | apply State.updTim_keeps | apply State.iff_keeps | apply State.acceptCorr_keeps)
    | with_reducible exact fun _ h => h
    | split

theorem State.ppsBeyond_keeps {s0 s : State} (h : s0.Keeps s) (ofs : Int) :
    s0.Keeps (State.ppsBeyond s ofs) := by
  unfold State.ppsBeyond
  repeat' first
    | (intro _)
    | with_reducible assumption
    | (extract_lets +onlyGivenNames x; first | (refine (fun hx => ?_ : State.Keeps s0 x → _) ?_; (on_goal 1 => clear_value x); (on_goal 2 => subst x)) | clear_value x)
    | (with_reducible first | apply State.updTim_keeps | apply State.acceptCorr_keeps | apply State.event_keeps)
    | with_reducible exact fun _ h => h
    | split

theorem State.validPps_keeps {s0 s : State} (h : s0.Keeps s) (e : Nat) (ofs : Int) :
    s0.Keeps (State.validPps s e ofs) := by
  unfold State.validPps
  repeat' first
    | (intro _)
    | with_reducible assumption
    | (extract_lets +onlyGivenNames x; first | (refine (fun hx => ?_ : State.Keeps s0 x → _) ?_; (on_goal 1 => clear_value x); (on_goal 2 => subst x)) | clear_value x)
    | (with_reducible first | apply State.setFlag_keeps | apply State.updTim_keeps | apply State.ppsBeyond_keeps | apply State.ppsWithin_keeps | apply State.setFldS_keeps)
    | with_reducible exact fun _ h => h
    | split

theorem execGnssPpsEdge_keeps (s : State) (at_ : Nat) :
    State.KeepsOut s (execGnssPpsEdge at_ s) := by
  unfold execGnssPpsEdge
  first | apply State.live_keeps | apply State.liveOn_keeps | apply keepsOut_next
  repeat' first
    | (intro _)
    | with_reducible assumption
    | (extract_lets +onlyGivenNames x; first | (refine (fun hx => ?_ : State.Keeps s x → _) ?_; (on_goal 1 => clear_value x); (on_goal 2 => subst x)) | clear_value x)
    | with_reducible exact State.Keeps.refl _
    | (with_reducible first | apply State.iff_keeps | apply State.invalidPps_keeps | apply State.updTim_keeps | apply State.event_keeps | apply State.setFlag_keeps)
    | with_reducible exact fun _ h => h
    | split
    | (fail_if_no_progress beta_reduce)

theorem execGnssMessage_keeps (s : State) (msg : GnssMsg) :
    State.KeepsOut s (execGnssMessage msg s) := by
  unfold execGnssMessage
  first | apply State.live_keeps | apply State.liveOn_keeps | apply keepsOut_next
  repeat' first
    | (intro _)
    | with_reducible assumption
    | (extract_lets +onlyGivenNames x; first | (refine (fun hx => ?_ : State.Keeps s x → _) ?_; (on_goal 1 => clear_value x); (on_goal 2 => subst x)) | clear_value x)
    | with_reducible exact State.Keeps.refl _
    | (with_reducible first | apply State.validPps_keeps | apply State.invalidPps_keeps)
    | with_reducible exact fun _ h => h
    | split
    | (fail_if_no_progress beta_reduce)

theorem execPpsMissing_keeps (s : State) :
    State.KeepsOut s (execPpsMissing s) := by
  unfold execPpsMissing
  first | apply State.live_keeps | apply keepsOut_next
  repeat' first
    | (intro _)
    | with_reducible assumption
    | with_reducible exact State.Keeps.refl _
    | (with_reducible first | apply State.badPps_keeps)
    | with_reducible exact fun _ h => h
    | split

theorem State.applyCorr_keeps {s0 s : State} (h : s0.Keeps s) (c : Int) :
    s0.Keeps (State.applyCorr s c) := by
  unfold State.applyCorr
  repeat' first
    | (intro _)
    | with_reducible assumption
    | (extract_lets +onlyGivenNames x; first | (refine (fun hx => ?_ : State.Keeps s0 x → _) ?_; (on_goal 1 => clear_value x); (on_goal 2 => subst x)) | clear_value x)
    | (with_reducible first | apply State.updTim_keeps | apply State.iff_keeps | apply State.event_keeps | apply State.setFlag_keeps | apply State.setFld_keeps | apply State.setFldS_keeps | apply State.realign_keeps | apply State.fixNext_keeps | apply State.setClk_keeps | apply State.advanceBy_keeps)
    | with_reducible exact fun _ h => h
    | split
    | (fail_if_no_progress beta_reduce)

theorem execSlewEnd_keeps (s : State) :
    State.KeepsOut s (execSlewEnd s) := by
  unfold execSlewEnd
  first | apply State.live_keeps | apply State.liveOn_keeps | apply keepsOut_next
  repeat' first
    | (intro _)
    | with_reducible assumption
    | (extract_lets +onlyGivenNames x; first | (refine (fun hx => ?_ : State.Keeps s x → _) ?_; (on_goal 1 => clear_value x); (on_goal 2 => subst x)) | clear_value x)
    | with_reducible exact State.Keeps.refl _
    | (with_reducible first | apply State.updTim_keeps | apply State.advanceBy_keeps | apply State.setFlag_keeps | apply State.setFld_keeps | apply State.fixNext_keeps | apply State.realign_keeps | apply State.event_keeps)
    | with_reducible exact fun _ h => h
    | split
    | (fail_if_no_progress beta_reduce)

theorem State.hostLeap_keeps {s0 s : State} (h : s0.Keeps s) (value : Word) :
    s0.Keeps (State.hostLeap s value) := by
  unfold State.hostLeap
  repeat' first
    | (intro _)
    | with_reducible assumption
    | (extract_lets +onlyGivenNames x; first | (refine (fun hx => ?_ : State.Keeps s0 x → _) ?_; (on_goal 1 => clear_value x); (on_goal 2 => subst x)) | clear_value x)
    | (with_reducible first | apply State.setReg_keeps | apply State.setFld_keeps | apply State.event_keeps)
    | with_reducible exact fun _ h => h
    | split

theorem execTimeLeapWrite_keeps (s : State) (value : Word) :
    State.KeepsOut s (execTimeLeapWrite value s) := by
  unfold execTimeLeapWrite
  first | apply State.live_keeps | apply keepsOut_next
  repeat' first
    | (intro _)
    | with_reducible assumption
    | with_reducible exact State.Keeps.refl _
    | (with_reducible first | apply State.hostLeap_keeps)
    | with_reducible exact fun _ h => h
    | split

theorem State.applyLeap_keeps {s0 s : State} (h : s0.Keeps s) :
    s0.Keeps (State.applyLeap s) := by
  unfold State.applyLeap
  repeat' first
    | (intro _)
    | with_reducible assumption
    | (extract_lets +onlyGivenNames x; first | (refine (fun hx => ?_ : State.Keeps s0 x → _) ?_; (on_goal 1 => clear_value x); (on_goal 2 => subst x)) | (have y : State → State := x; clear y; subst x) | (have y : State → _ → State := x; clear y; subst x) | (have y : _ → State → State := x; clear y; subst x) | (have y : _ → _ → State → State := x; clear y; subst x) | (have y : State → _ → _ → State := x; clear y; subst x) | (have y : State → _ → State × _ := x; clear y; subst x) | clear_value x)
    | (with_reducible first | apply State.iff_keeps | apply State.setFldS_keeps | apply State.updTim_keeps | apply State.fixNext_keeps | apply State.event_keeps | apply State.setReg_keeps)
    | split
    | (with_reducible apply State.mk_keeps; (rotate_left); all_goals first | with_reducible rfl | exact upd_length _ _ _ | exact List.length_map _ | skip)
    | with_reducible exact fun _ h => h
    | split
    | (fail_if_no_progress beta_reduce)

theorem State.ptpRefresh_keeps {s0 s : State} (h : s0.Keeps s) :
    s0.Keeps (State.ptpRefresh s) := by
  unfold State.ptpRefresh
  repeat' first
    | (intro _)
    | with_reducible assumption
    | (extract_lets +onlyGivenNames x; first | clear_value x)
    | (with_reducible first | apply State.updTim_keeps | apply State.each_keeps | apply State.event_keeps)
    | with_reducible exact fun _ h => h
    | split

theorem State.ptpForce_keeps {s0 s : State} (h : s0.Keeps s) :
    s0.Keeps (State.ptpForce s) := by
  unfold State.ptpForce
  repeat' first
    | (intro _)
    | with_reducible assumption
    | (with_reducible first | apply State.iff_keeps | apply State.setFld_keeps)
    | with_reducible exact fun _ h => h
    | split

theorem execPtpDelayRequest_keeps (s : State) (port : Fin 2) (peer : Bool) :
    State.KeepsOut s (execPtpDelayRequest port peer s) := by
  unfold execPtpDelayRequest
  first | apply State.live_keeps | apply State.liveOn_keeps | apply keepsOut_next
  repeat' first
    | (intro _)
    | with_reducible assumption
    | with_reducible exact State.Keeps.refl _
    | (with_reducible first | apply State.updTim_keeps)
    | with_reducible exact fun _ h => h
    | split

theorem execPtpSyncAnnounce_keeps (s : State) :
    State.KeepsOut s (execPtpSyncAnnounce s) := by
  unfold execPtpSyncAnnounce
  first | apply State.live_keeps | apply State.liveOn_keeps | apply keepsOut_next
  repeat' first
    | (intro _)
    | with_reducible assumption
    | with_reducible exact State.Keeps.refl _
    | (with_reducible first | apply State.each_keeps | apply State.startTimer_keeps | apply State.updTim_keeps)
    | with_reducible exact fun _ h => h
    | split

theorem State.overrun_keeps {s0 s : State} (h : s0.Keeps s) (kind : Nat) (core : Nat) (tell : Bool) :
    s0.Keeps (State.overrun s kind core tell) := by
  unfold State.overrun
  repeat' first
    | (intro _)
    | with_reducible assumption
    | (extract_lets +onlyGivenNames x; first | (refine (fun hx => ?_ : State.Keeps s0 x → _) ?_; (on_goal 1 => clear_value x); (on_goal 2 => subst x)) | clear_value x)
    | (with_reducible first | apply State.updTim_keeps | apply State.inc_keeps | apply State.event_keeps)
    | with_reducible exact fun _ h => h
    | split

theorem State.sfAdvance_keeps {s0 s : State} (h : s0.Keeps s) (inc : Int) :
    s0.Keeps (State.sfAdvance s inc) := by
  unfold State.sfAdvance
  repeat' first
    | (intro _)
    | with_reducible assumption
    | (extract_lets +onlyGivenNames x; first | (refine (fun hx => ?_ : State.Keeps s0 x → _) ?_; (on_goal 1 => clear_value x); (on_goal 2 => subst x)) | clear_value x)
    | split
    | (with_reducible apply State.mk_keeps; (rotate_left); all_goals first | with_reducible rfl | exact upd_length _ _ _ | exact List.length_map _ | skip)
    | with_reducible exact fun _ h => h
    | split
    | (fail_if_no_progress beta_reduce)

theorem State.sfHold_keeps {s0 s : State} (h : s0.Keeps s) (len : Nat) :
    s0.Keeps (State.sfHold s len) := by
  unfold State.sfHold
  repeat' first
    | (intro _)
    | with_reducible assumption
    | (extract_lets +onlyGivenNames x; first | clear_value x)
    | (with_reducible first | apply State.setClk_keeps | apply State.updTim_keeps | apply State.iff_keeps | apply State.setSat_keeps)
    | with_reducible exact fun _ h => h
    | split

theorem State.sfEdge_keeps {s0 s : State} (h : s0.Keeps s) :
    s0.Keeps (State.sfEdge s) := by
  unfold State.sfEdge
  repeat' first
    | (intro _)
    | with_reducible assumption
    | (with_reducible first | apply State.iff_keeps | apply State.invalidPps_keeps)
    | with_reducible exact fun _ h => h
    | split

theorem State.sfTickTime_keeps {s0 s : State} (h : s0.Keeps s) :
    s0.Keeps (State.sfTickTime s) := by
  unfold State.sfTickTime
  repeat' first
    | (intro _)
    | with_reducible assumption
    | (extract_lets +onlyGivenNames x; first | (refine (fun hx => ?_ : State.Keeps s0 x → _) ?_; (on_goal 1 => clear_value x); (on_goal 2 => subst x)) | clear_value x)
    | (with_reducible first | apply State.ppsRise_keeps | apply State.sfAdvance_keeps | apply State.realign_keeps | apply State.updTim_keeps | apply State.setFld_keeps | apply State.fixNext_keeps | apply State.sfEdge_keeps | apply State.sfHold_keeps)
    | with_reducible exact fun _ h => h
    | split
    | (fail_if_no_progress beta_reduce)

theorem State.startClock_keeps {s0 s : State} (h : s0.Keeps s) (totalLoss : Bool) (rtcNs : Nat) :
    s0.Keeps (State.startClock s totalLoss rtcNs) := by
  unfold State.startClock
  repeat' first
    | (intro _)
    | with_reducible assumption
    | (extract_lets +onlyGivenNames x; first | (refine (fun hx => ?_ : State.Keeps s0 x → _) ?_; (on_goal 1 => clear_value x); (on_goal 2 => subst x)) | clear_value x)
    | (with_reducible first | apply State.updTim_keeps | apply State.setFlag_keeps | apply State.setReg_keeps | apply State.setFld_keeps | apply State.setClk_keeps | apply State.setClkV_keeps | apply State.realign_keeps)
    | with_reducible exact fun _ h => h
    | split
    | (fail_if_no_progress beta_reduce)

end Sys2Proof.Machine
end

