-- ==== Sys2Proof/Laws/KeepsCeAlu.lean ====
section
/-!
SUPPORT. What every command keeps, for the operations and commands of Machine/CeAlu.lean.
-/

set_option linter.all false

namespace Sys2Proof.Machine

open Sys2Proof

theorem State.setCtx_keeps {s0 s : State} (h : s0.Keeps s) (c : Nat) (w : CeCtx) :
    s0.Keeps (State.setCtx s c w) := by
  unfold State.setCtx
  repeat' first
    | (intro _)
    | with_reducible assumption
    | (with_reducible first | apply State.updCe_keeps)
    | with_reducible exact fun _ h => h
    | split

theorem State.ceSaturate_keeps {s0 s : State} (h : s0.Keeps s) (c : Nat) (m : Nat) :
    s0.Keeps (State.ceSaturate s c m) := by
  unfold State.ceSaturate
  repeat' first
    | (intro _)
    | with_reducible assumption
    | (extract_lets +onlyGivenNames x; first | (refine (fun hx => ?_ : State.Keeps s0 x → _) ?_; (on_goal 1 => clear_value x); (on_goal 2 => subst x)) | clear_value x)
    | (with_reducible first | apply State.setReg_keeps | apply State.updCe_keeps | apply State.event_keeps)
    | with_reducible exact fun _ h => h
    | split

theorem State.ceStep_keeps {s0 s : State} (h : s0.Keeps s) (c : Nat) (op : Nat) (d : BitVec 7) (a : BitVec 7) (b : BitVec 7) (k : BitVec 3) (f : CeEffect) :
    s0.Keeps (State.ceStep s c op d a b k f) := by
  unfold State.ceStep
  repeat' first
    | (intro _)
    | with_reducible assumption
    | (extract_lets +onlyGivenNames x; first | clear_value x)
    | (with_reducible first | apply State.ceSaturate_keeps | apply State.setCtx_keeps)
    | with_reducible exact fun _ h => h
    | split

theorem execNop_keeps (s : State) (ce : Fin 2) (d : BitVec 7) (a : BitVec 7) (b : BitVec 7) (k : BitVec 3) :
    State.KeepsOut s (execNop ce d a b k s) := by
  unfold execNop
  first | apply State.live_keeps | apply keepsOut_next
  repeat' first
    | (intro _)
    | with_reducible assumption
    | with_reducible exact State.Keeps.refl _
    | (with_reducible first | apply State.ceStep_keeps)
    | with_reducible exact fun _ h => h
    | split

theorem execEndProgram_keeps (s : State) (ce : Fin 2) (d : BitVec 7) (a : BitVec 7) (b : BitVec 7) (k : BitVec 3) :
    State.KeepsOut s (execEndProgram ce d a b k s) := by
  unfold execEndProgram
  first | apply State.live_keeps | apply State.liveOn_keeps | apply keepsOut_next
  repeat' first
    | (intro _)
    | with_reducible assumption
    | with_reducible exact State.Keeps.refl _
    | (with_reducible first | apply State.updCe_keeps | apply State.ceStep_keeps)
    | with_reducible exact fun _ h => h
    | split

theorem execLda_keeps (s : State) (ce : Fin 2) (d : BitVec 7) (a : BitVec 7) (b : BitVec 7) (k : BitVec 3) :
    State.KeepsOut s (execLda ce d a b k s) := by
  unfold execLda
  first | apply State.live_keeps | apply keepsOut_next
  repeat' first
    | (intro _)
    | with_reducible assumption
    | with_reducible exact State.Keeps.refl _
    | (with_reducible first | apply State.ceStep_keeps)
    | with_reducible exact fun _ h => h
    | split

theorem execAda_keeps (s : State) (ce : Fin 2) (d : BitVec 7) (a : BitVec 7) (b : BitVec 7) (k : BitVec 3) :
    State.KeepsOut s (execAda ce d a b k s) := by
  unfold execAda
  first | apply State.live_keeps | apply keepsOut_next
  repeat' first
    | (intro _)
    | with_reducible assumption
    | with_reducible exact State.Keeps.refl _
    | (with_reducible first | apply State.ceStep_keeps)
    | with_reducible exact fun _ h => h
    | split

theorem execSba_keeps (s : State) (ce : Fin 2) (d : BitVec 7) (a : BitVec 7) (b : BitVec 7) (k : BitVec 3) :
    State.KeepsOut s (execSba ce d a b k s) := by
  unfold execSba
  first | apply State.live_keeps | apply keepsOut_next
  repeat' first
    | (intro _)
    | with_reducible assumption
    | with_reducible exact State.Keeps.refl _
    | (with_reducible first | apply State.ceStep_keeps)
    | with_reducible exact fun _ h => h
    | split

theorem execMul_keeps (s : State) (ce : Fin 2) (d : BitVec 7) (a : BitVec 7) (b : BitVec 7) (k : BitVec 3) :
    State.KeepsOut s (execMul ce d a b k s) := by
  unfold execMul
  first | apply State.live_keeps | apply keepsOut_next
  repeat' first
    | (intro _)
    | with_reducible assumption
    | with_reducible exact State.Keeps.refl _
    | (with_reducible first | apply State.ceStep_keeps)
    | with_reducible exact fun _ h => h
    | split

theorem execMac_keeps (s : State) (ce : Fin 2) (d : BitVec 7) (a : BitVec 7) (b : BitVec 7) (k : BitVec 3) :
    State.KeepsOut s (execMac ce d a b k s) := by
  unfold execMac
  first | apply State.live_keeps | apply keepsOut_next
  repeat' first
    | (intro _)
    | with_reducible assumption
    | with_reducible exact State.Keeps.refl _
    | (with_reducible first | apply State.ceStep_keeps)
    | with_reducible exact fun _ h => h
    | split

theorem execMsu_keeps (s : State) (ce : Fin 2) (d : BitVec 7) (a : BitVec 7) (b : BitVec 7) (k : BitVec 3) :
    State.KeepsOut s (execMsu ce d a b k s) := by
  unfold execMsu
  first | apply State.live_keeps | apply keepsOut_next
  repeat' first
    | (intro _)
    | with_reducible assumption
    | with_reducible exact State.Keeps.refl _
    | (with_reducible first | apply State.ceStep_keeps)
    | with_reducible exact fun _ h => h
    | split

theorem execZra_keeps (s : State) (ce : Fin 2) (d : BitVec 7) (a : BitVec 7) (b : BitVec 7) (k : BitVec 3) :
    State.KeepsOut s (execZra ce d a b k s) := by
  unfold execZra
  first | apply State.live_keeps | apply keepsOut_next
  repeat' first
    | (intro _)
    | with_reducible assumption
    | with_reducible exact State.Keeps.refl _
    | (with_reducible first | apply State.ceStep_keeps)
    | with_reducible exact fun _ h => h
    | split

theorem execMin_keeps (s : State) (ce : Fin 2) (d : BitVec 7) (a : BitVec 7) (b : BitVec 7) (k : BitVec 3) :
    State.KeepsOut s (execMin ce d a b k s) := by
  unfold execMin
  first | apply State.live_keeps | apply keepsOut_next
  repeat' first
    | (intro _)
    | with_reducible assumption
    | with_reducible exact State.Keeps.refl _
    | (with_reducible first | apply State.ceStep_keeps)
    | with_reducible exact fun _ h => h
    | split

theorem execMax_keeps (s : State) (ce : Fin 2) (d : BitVec 7) (a : BitVec 7) (b : BitVec 7) (k : BitVec 3) :
    State.KeepsOut s (execMax ce d a b k s) := by
  unfold execMax
  first | apply State.live_keeps | apply keepsOut_next
  repeat' first
    | (intro _)
    | with_reducible assumption
    | with_reducible exact State.Keeps.refl _
    | (with_reducible first | apply State.ceStep_keeps)
    | with_reducible exact fun _ h => h
    | split

theorem execClp_keeps (s : State) (ce : Fin 2) (d : BitVec 7) (a : BitVec 7) (b : BitVec 7) (k : BitVec 3) :
    State.KeepsOut s (execClp ce d a b k s) := by
  unfold execClp
  first | apply State.live_keeps | apply keepsOut_next
  repeat' first
    | (intro _)
    | with_reducible assumption
    | with_reducible exact State.Keeps.refl _
    | (with_reducible first | apply State.ceStep_keeps)
    | with_reducible exact fun _ h => h
    | split

theorem execAbs_keeps (s : State) (ce : Fin 2) (d : BitVec 7) (a : BitVec 7) (b : BitVec 7) (k : BitVec 3) :
    State.KeepsOut s (execAbs ce d a b k s) := by
  unfold execAbs
  first | apply State.live_keeps | apply keepsOut_next
  repeat' first
    | (intro _)
    | with_reducible assumption
    | with_reducible exact State.Keeps.refl _
    | (with_reducible first | apply State.ceStep_keeps)
    | with_reducible exact fun _ h => h
    | split

theorem execNeg_keeps (s : State) (ce : Fin 2) (d : BitVec 7) (a : BitVec 7) (b : BitVec 7) (k : BitVec 3) :
    State.KeepsOut s (execNeg ce d a b k s) := by
  unfold execNeg
  first | apply State.live_keeps | apply keepsOut_next
  repeat' first
    | (intro _)
    | with_reducible assumption
    | with_reducible exact State.Keeps.refl _
    | (with_reducible first | apply State.ceStep_keeps)
    | with_reducible exact fun _ h => h
    | split

theorem execExa_keeps (s : State) (ce : Fin 2) (d : BitVec 7) (a : BitVec 7) (b : BitVec 7) (k : BitVec 3) :
    State.KeepsOut s (execExa ce d a b k s) := by
  unfold execExa
  first | apply State.live_keeps | apply keepsOut_next
  repeat' first
    | (intro _)
    | with_reducible assumption
    | with_reducible exact State.Keeps.refl _
    | (with_reducible first | apply State.ceStep_keeps)
    | with_reducible exact fun _ h => h
    | split

theorem execRcp_keeps (s : State) (ce : Fin 2) (d : BitVec 7) (a : BitVec 7) (b : BitVec 7) (k : BitVec 3) :
    State.KeepsOut s (execRcp ce d a b k s) := by
  unfold execRcp
  first | apply State.live_keeps | apply keepsOut_next
  repeat' first
    | (intro _)
    | with_reducible assumption
    | with_reducible exact State.Keeps.refl _
    | (with_reducible first | apply State.ceStep_keeps)
    | with_reducible exact fun _ h => h
    | split

theorem execSel_keeps (s : State) (ce : Fin 2) (d : BitVec 7) (a : BitVec 7) (b : BitVec 7) (k : BitVec 3) :
    State.KeepsOut s (execSel ce d a b k s) := by
  unfold execSel
  first | apply State.live_keeps | apply keepsOut_next
  repeat' first
    | (intro _)
    | with_reducible assumption
    | with_reducible exact State.Keeps.refl _
    | (with_reducible first | apply State.ceStep_keeps)
    | with_reducible exact fun _ h => h
    | split

theorem execRsum_keeps (s : State) (ce : Fin 2) (d : BitVec 7) (a : BitVec 7) (b : BitVec 7) (k : BitVec 3) :
    State.KeepsOut s (execRsum ce d a b k s) := by
  unfold execRsum
  first | apply State.live_keeps | apply keepsOut_next
  repeat' first
    | (intro _)
    | with_reducible assumption
    | with_reducible exact State.Keeps.refl _
    | (with_reducible first | apply State.ceStep_keeps)
    | with_reducible exact fun _ h => h
    | split

theorem execRmax_keeps (s : State) (ce : Fin 2) (d : BitVec 7) (a : BitVec 7) (b : BitVec 7) (k : BitVec 3) :
    State.KeepsOut s (execRmax ce d a b k s) := by
  unfold execRmax
  first | apply State.live_keeps | apply keepsOut_next
  repeat' first
    | (intro _)
    | with_reducible assumption
    | with_reducible exact State.Keeps.refl _
    | (with_reducible first | apply State.ceStep_keeps)
    | with_reducible exact fun _ h => h
    | split

theorem execSprd_keeps (s : State) (ce : Fin 2) (d : BitVec 7) (a : BitVec 7) (b : BitVec 7) (k : BitVec 3) :
    State.KeepsOut s (execSprd ce d a b k s) := by
  unfold execSprd
  first | apply State.live_keeps | apply keepsOut_next
  repeat' first
    | (intro _)
    | with_reducible assumption
    | with_reducible exact State.Keeps.refl _
    | (with_reducible first | apply State.ceStep_keeps)
    | with_reducible exact fun _ h => h
    | split

theorem execStf_keeps (s : State) (ce : Fin 2) (d : BitVec 7) (a : BitVec 7) (b : BitVec 7) (k : BitVec 3) :
    State.KeepsOut s (execStf ce d a b k s) := by
  unfold execStf
  first | apply State.live_keeps | apply keepsOut_next
  repeat' first
    | (intro _)
    | with_reducible assumption
    | with_reducible exact State.Keeps.refl _
    | (with_reducible first | apply State.ceStep_keeps)
    | with_reducible exact fun _ h => h
    | split

theorem execStn_keeps (s : State) (ce : Fin 2) (d : BitVec 7) (a : BitVec 7) (b : BitVec 7) (k : BitVec 3) :
    State.KeepsOut s (execStn ce d a b k s) := by
  unfold execStn
  first | apply State.live_keeps | apply keepsOut_next
  repeat' first
    | (intro _)
    | with_reducible assumption
    | with_reducible exact State.Keeps.refl _
    | (with_reducible first | apply State.ceStep_keeps)
    | with_reducible exact fun _ h => h
    | split

theorem execMov_keeps (s : State) (ce : Fin 2) (d : BitVec 7) (a : BitVec 7) (b : BitVec 7) (k : BitVec 3) :
    State.KeepsOut s (execMov ce d a b k s) := by
  unfold execMov
  first | apply State.live_keeps | apply keepsOut_next
  repeat' first
    | (intro _)
    | with_reducible assumption
    | with_reducible exact State.Keeps.refl _
    | (with_reducible first | apply State.ceStep_keeps)
    | with_reducible exact fun _ h => h
    | split

theorem execCgt_keeps (s : State) (ce : Fin 2) (d : BitVec 7) (a : BitVec 7) (b : BitVec 7) (k : BitVec 3) :
    State.KeepsOut s (execCgt ce d a b k s) := by
  unfold execCgt
  first | apply State.live_keeps | apply keepsOut_next
  repeat' first
    | (intro _)
    | with_reducible assumption
    | with_reducible exact State.Keeps.refl _
    | (with_reducible first | apply State.ceStep_keeps)
    | with_reducible exact fun _ h => h
    | split

theorem execCge_keeps (s : State) (ce : Fin 2) (d : BitVec 7) (a : BitVec 7) (b : BitVec 7) (k : BitVec 3) :
    State.KeepsOut s (execCge ce d a b k s) := by
  unfold execCge
  first | apply State.live_keeps | apply keepsOut_next
  repeat' first
    | (intro _)
    | with_reducible assumption
    | with_reducible exact State.Keeps.refl _
    | (with_reducible first | apply State.ceStep_keeps)
    | with_reducible exact fun _ h => h
    | split

theorem execKand_keeps (s : State) (ce : Fin 2) (d : BitVec 7) (a : BitVec 7) (b : BitVec 7) (k : BitVec 3) :
    State.KeepsOut s (execKand ce d a b k s) := by
  unfold execKand
  first | apply State.live_keeps | apply State.liveOn_keeps | apply keepsOut_next
  repeat' first
    | (intro _)
    | with_reducible assumption
    | with_reducible exact State.Keeps.refl _
    | (with_reducible first | apply State.ceStep_keeps)
    | with_reducible exact fun _ h => h
    | split

theorem execKor_keeps (s : State) (ce : Fin 2) (d : BitVec 7) (a : BitVec 7) (b : BitVec 7) (k : BitVec 3) :
    State.KeepsOut s (execKor ce d a b k s) := by
  unfold execKor
  first | apply State.live_keeps | apply State.liveOn_keeps | apply keepsOut_next
  repeat' first
    | (intro _)
    | with_reducible assumption
    | with_reducible exact State.Keeps.refl _
    | (with_reducible first | apply State.ceStep_keeps)
    | with_reducible exact fun _ h => h
    | split

theorem execKnot_keeps (s : State) (ce : Fin 2) (d : BitVec 7) (a : BitVec 7) (b : BitVec 7) (k : BitVec 3) :
    State.KeepsOut s (execKnot ce d a b k s) := by
  unfold execKnot
  first | apply State.live_keeps | apply State.liveOn_keeps | apply keepsOut_next
  repeat' first
    | (intro _)
    | with_reducible assumption
    | with_reducible exact State.Keeps.refl _
    | (with_reducible first | apply State.ceStep_keeps)
    | with_reducible exact fun _ h => h
    | split

theorem execSkz_keeps (s : State) (ce : Fin 2) (d : BitVec 7) (a : BitVec 7) (b : BitVec 7) (k : BitVec 3) :
    State.KeepsOut s (execSkz ce d a b k s) := by
  unfold execSkz
  first | apply State.live_keeps | apply keepsOut_next
  repeat' first
    | (intro _)
    | with_reducible assumption
    | with_reducible exact State.Keeps.refl _
    | (with_reducible first | apply State.ceStep_keeps)
    | with_reducible exact fun _ h => h
    | split

theorem execTrg_keeps (s : State) (ce : Fin 2) (d : BitVec 7) (a : BitVec 7) (b : BitVec 7) (k : BitVec 3) :
    State.KeepsOut s (execTrg ce d a b k s) := by
  unfold execTrg
  first | apply State.live_keeps | apply keepsOut_next
  repeat' first
    | (intro _)
    | with_reducible assumption
    | with_reducible exact State.Keeps.refl _
    | (with_reducible first | apply State.ceStep_keeps | apply State.cupTrigger_keeps)
    | with_reducible exact fun _ h => h
    | split

end Sys2Proof.Machine
end

