-- ==== Sys2Proof/Laws/KeepsMoves.lean ====
section
/-!
SUPPORT. What every command keeps, for the operations and commands of Machine/Moves.lean.
-/

set_option linter.all false

namespace Sys2Proof.Machine

open Sys2Proof

theorem State.updSh_keeps {s0 s : State} (h : s0.Keeps s) (f : ShareSt → ShareSt) :
    s0.Keeps (State.updSh s f) := by
  unfold State.updSh
  repeat' first
    | (intro _)
    | with_reducible assumption
    | split
    | (with_reducible apply State.mk_keeps; (rotate_left); all_goals first | with_reducible rfl | exact upd_length _ _ _ | exact List.length_map _ | skip)
    | with_reducible exact fun _ h => h
    | split

theorem State.updMv_keeps {s0 s : State} (h : s0.Keeps s) (n : Nat) (f : Move → Move) :
    s0.Keeps (State.updMv s n f) := by
  unfold State.updMv
  repeat' first
    | (intro _)
    | with_reducible assumption
    | (with_reducible first | apply State.updSh_keeps)
    | with_reducible exact fun _ h => h
    | split

theorem State.updBl_keeps {s0 s : State} (h : s0.Keeps s) (n : Nat) (f : BlockLane → BlockLane) :
    s0.Keeps (State.updBl s n f) := by
  unfold State.updBl
  repeat' first
    | (intro _)
    | with_reducible assumption
    | (with_reducible first | apply State.updCe_keeps)
    | with_reducible exact fun _ h => h
    | split

theorem State.dropK1_keeps {s0 s : State} (h : s0.Keeps s) (c : Nat) (lane : Nat) :
    s0.Keeps (State.dropK1 s c lane) := by
  unfold State.dropK1
  repeat' first
    | (intro _)
    | with_reducible assumption
    | (extract_lets +onlyGivenNames x; first | clear_value x)
    | (with_reducible first | apply State.updCe_keeps)
    | with_reducible exact fun _ h => h
    | split

theorem State.showStep_keeps {s0 s : State} (h : s0.Keeps s) (n : Nat) (st : Nat) (dest : Option Nat) :
    s0.Keeps (State.showStep s n st dest) := by
  unfold State.showStep
  repeat' first
    | (intro _)
    | with_reducible assumption
    | (with_reducible first | apply State.setFld_keeps)
    | with_reducible exact fun _ h => h
    | split

theorem State.moveAbandon_keeps {s0 s : State} (h : s0.Keeps s) (n : Nat) (ended : Bool) :
    s0.Keeps (State.moveAbandon s n ended) := by
  unfold State.moveAbandon
  repeat' first
    | (intro _)
    | with_reducible assumption
    | (extract_lets +onlyGivenNames x; first | (refine (fun hx => ?_ : State.Keeps s0 x → _) ?_; (on_goal 1 => clear_value x); (on_goal 2 => subst x)) | clear_value x)
    | (with_reducible first | apply State.updMv_keeps | apply State.event_keeps | apply State.stopTimer_keeps | apply State.showStep_keeps | apply State.updBl_keeps | apply State.iff_keeps | apply State.sendCmd_keeps)
    | with_reducible exact fun _ h => h
    | split
    | (fail_if_no_progress beta_reduce)

theorem State.moveAbort_keeps {s0 s : State} (h : s0.Keeps s) (n : Nat) :
    s0.Keeps (State.moveAbort s n) := by
  unfold State.moveAbort
  repeat' first
    | (intro _)
    | with_reducible assumption
    | (extract_lets +onlyGivenNames x; first | (refine (fun hx => ?_ : State.Keeps s0 x → _) ?_; (on_goal 1 => clear_value x); (on_goal 2 => subst x)) | clear_value x)
    | (with_reducible first | apply State.updMv_keeps | apply State.stopTimer_keeps | apply State.showStep_keeps | apply State.event_keeps | apply State.setLinkBit_keeps)
    | with_reducible exact fun _ h => h
    | split
    | (fail_if_no_progress beta_reduce)

theorem State.moveDrop_keeps {s0 s : State} (h : s0.Keeps s) (n : Nat) :
    s0.Keeps (State.moveDrop s n) := by
  unfold State.moveDrop
  repeat' first
    | (intro _)
    | with_reducible assumption
    | (with_reducible first | apply State.updMv_keeps | apply State.stopTimer_keeps | apply State.showStep_keeps)
    | with_reducible exact fun _ h => h
    | split

theorem State.closeStep_keeps {s0 s : State} (h : s0.Keeps s) (n : Nat) :
    s0.Keeps (State.closeStep s n) := by
  unfold State.closeStep
  repeat' first
    | (intro _)
    | with_reducible assumption
    | (extract_lets +onlyGivenNames x; first | (refine (fun hx => ?_ : State.Keeps s0 x → _) ?_; (on_goal 1 => clear_value x); (on_goal 2 => subst x)) | clear_value x)
    | (with_reducible first | apply State.sendCmd_keeps | apply State.updMv_keeps)
    | with_reducible exact fun _ h => h
    | split
    | (fail_if_no_progress beta_reduce)

theorem State.beginStep_keeps {s0 s : State} (h : s0.Keeps s) (n : Nat) (st : Nat) :
    s0.Keeps (State.beginStep s n st) := by
  unfold State.beginStep
  repeat' first
    | (intro _)
    | with_reducible assumption
    | (extract_lets +onlyGivenNames x; first | (refine (fun hx => ?_ : State.Keeps s0 x → _) ?_; (on_goal 1 => clear_value x); (on_goal 2 => subst x)) | clear_value x)
    | (with_reducible first | apply State.startTimer_keeps | apply State.showStep_keeps | apply State.sendCmd_keeps | apply State.closeStep_keeps | apply State.updMv_keeps)
    | with_reducible exact fun _ h => h
    | split
    | (fail_if_no_progress beta_reduce)

theorem State.moveStepEnd_keeps {s0 s : State} (h : s0.Keeps s) (n : Nat) :
    s0.Keeps (State.moveStepEnd s n) := by
  unfold State.moveStepEnd
  repeat' first
    | (intro _)
    | with_reducible assumption
    | (extract_lets +onlyGivenNames x; first | (refine (fun hx => ?_ : State.Keeps s0 x → _) ?_; (on_goal 1 => clear_value x); (on_goal 2 => subst x)) | clear_value x)
    | (with_reducible first | apply State.updMv_keeps | apply State.showStep_keeps | apply State.beginStep_keeps | apply State.stopTimer_keeps | apply State.event_keeps)
    | with_reducible exact fun _ h => h
    | split

theorem execMoveStepEnd_keeps (s : State) (link : Fin 48) :
    State.KeepsOut s (execMoveStepEnd link s) := by
  unfold execMoveStepEnd
  first | apply State.live_keeps | apply keepsOut_next
  repeat' first
    | (intro _)
    | with_reducible assumption
    | with_reducible exact State.Keeps.refl _
    | (with_reducible first | apply State.moveStepEnd_keeps)
    | with_reducible exact fun _ h => h
    | split

theorem execMoveStepTimeout_keeps (s : State) (link : Fin 48) :
    State.KeepsOut s (execMoveStepTimeout link s) := by
  unfold execMoveStepTimeout
  first | apply State.live_keeps | apply keepsOut_next
  repeat' first
    | (intro _)
    | with_reducible assumption
    | with_reducible exact State.Keeps.refl _
    | (with_reducible first | apply State.moveAbort_keeps)
    | with_reducible exact fun _ h => h
    | split

theorem State.mxExclClear_keeps {s0 s : State} (h : s0.Keeps s) (lo : Word) (hi : Word) :
    s0.Keeps (State.mxExclClear s lo hi) := by
  unfold State.mxExclClear
  repeat' first
    | (intro _)
    | with_reducible assumption
    | (extract_lets +onlyGivenNames x; first | (refine (fun hx => ?_ : State.Keeps s0 x → _) ?_; (on_goal 1 => clear_value x); (on_goal 2 => subst x)) | clear_value x)
    | (with_reducible first | apply State.setReg_keeps)
    | with_reducible exact fun _ h => h
    | split

theorem execMxExclClear_keeps (s : State) (lo : Word) (hi : Word) :
    State.KeepsOut s (execMxExclClear lo hi s) := by
  unfold execMxExclClear
  first | apply State.live_keeps | apply keepsOut_next
  repeat' first
    | (intro _)
    | with_reducible assumption
    | with_reducible exact State.Keeps.refl _
    | (with_reducible first | apply State.mxExclClear_keeps)
    | with_reducible exact fun _ h => h
    | split

theorem State.ceExclClear_keeps {s0 s : State} (h : s0.Keeps s) (c : Nat) (mask : Word) :
    s0.Keeps (State.ceExclClear s c mask) := by
  unfold State.ceExclClear
  repeat' first
    | (intro _)
    | with_reducible assumption
    | (extract_lets +onlyGivenNames x; first | (refine (fun hx => ?_ : State.Keeps s0 x → _) ?_; (on_goal 1 => clear_value x); (on_goal 2 => subst x)) | clear_value x)
    | (with_reducible first | apply State.setReg_keeps | apply State.updCe_keeps)
    | with_reducible exact fun _ h => h
    | split

theorem execCeExclClear_keeps (s : State) (ce : Fin 2) (mask : Word) :
    State.KeepsOut s (execCeExclClear ce mask s) := by
  unfold execCeExclClear
  first | apply State.live_keeps | apply keepsOut_next
  repeat' first
    | (intro _)
    | with_reducible assumption
    | with_reducible exact State.Keeps.refl _
    | (with_reducible first | apply State.ceExclClear_keeps)
    | with_reducible exact fun _ h => h
    | split

end Sys2Proof.Machine
end

