-- ==== Sys2Proof/Laws/KeepsSharing.lean ====
section
/-!
SUPPORT. What every command keeps, for the operations and commands of Machine/Sharing.lean.
-/

set_option linter.all false

namespace Sys2Proof.Machine

open Sys2Proof

theorem State.publishGrants_keeps {s0 s : State} (h : s0.Keeps s) (f : Fill) :
    s0.Keeps (State.publishGrants s f) := by
  unfold State.publishGrants
  repeat' first
    | (intro _)
    | with_reducible assumption
    | (extract_lets +onlyGivenNames x; first | (refine (fun hx => ?_ : State.Keeps s0 x → _) ?_; (on_goal 1 => clear_value x); (on_goal 2 => subst x)) | (refine (fun hx => ?_ : State.Keeps s0 x.1 → _) ?_; (on_goal 1 => clear_value x); (on_goal 2 => subst x)) | (refine (fun hx => ?_ : State.Keeps s0 x.2 → _) ?_; (on_goal 1 => clear_value x); (on_goal 2 => subst x)) | clear_value x)
    | (with_reducible first | apply State.each_keeps | apply State.updSh_keeps | apply State.setFld_keeps | apply State.setFldS_keeps | apply State.setSat_keeps | apply foldl_keeps)
    | with_reducible exact fun _ h => h
    | split
    | (fail_if_no_progress beta_reduce)

theorem State.reportBudgets_keeps {s0 s : State} (h : s0.Keeps s) (f : Fill) (b : Q) (b0 : Q) (b1 : Q) :
    s0.Keeps (State.reportBudgets s f b b0 b1) := by
  unfold State.reportBudgets
  repeat' first
    | (intro _)
    | with_reducible assumption
    | (extract_lets +onlyGivenNames x; first | (refine (fun hx => ?_ : State.Keeps s0 x → _) ?_; (on_goal 1 => clear_value x); (on_goal 2 => subst x)) | clear_value x)
    | (with_reducible first | apply State.setSat_keeps | apply State.setFlag_keeps | apply State.setFld_keeps | apply State.iff_keeps | apply State.event_keeps | apply State.updSh_keeps | apply State.each_keeps)
    | with_reducible exact fun _ h => h
    | split
    | (fail_if_no_progress beta_reduce)

theorem State.harmFactor_keeps {s0 s : State} (h : s0.Keeps s) :
    s0.Keeps (State.harmFactor s) := by
  unfold State.harmFactor
  repeat' first
    | (intro _)
    | with_reducible assumption
    | (extract_lets +onlyGivenNames x; first | (refine (fun hx => ?_ : State.Keeps s0 x → _) ?_; (on_goal 1 => clear_value x); (on_goal 2 => subst x)) | clear_value x)
    | (with_reducible first | apply State.each_keeps | apply State.iff_keeps | apply State.updSh_keeps | apply State.setFld_keeps | apply State.event_keeps)
    | with_reducible exact fun _ h => h
    | split
    | (fail_if_no_progress beta_reduce)

theorem State.countSpare_keeps {s0 s : State} (h : s0.Keeps s) (cs : List Cons) (needs : List (Nat × Nat)) :
    s0.Keeps (State.countSpare s cs needs) := by
  unfold State.countSpare
  repeat' first
    | (intro _)
    | with_reducible assumption
    | (extract_lets +onlyGivenNames x; first | (refine (fun hx => ?_ : State.Keeps s0 x → _) ?_; (on_goal 1 => clear_value x); (on_goal 2 => subst x)) | clear_value x)
    | (with_reducible first | apply State.updSh_keeps)
    | with_reducible exact fun _ h => h
    | split
    | (fail_if_no_progress beta_reduce)

theorem State.decideMove_keeps {s0 s : State} (h : s0.Keeps s) (n : Nat) (dest : Option Nat) :
    s0.Keeps (State.decideMove s n dest) := by
  unfold State.decideMove
  repeat' first
    | (intro _)
    | with_reducible assumption
    | (extract_lets +onlyGivenNames x; first | (refine (fun hx => ?_ : State.Keeps s0 x → _) ?_; (on_goal 1 => clear_value x); (on_goal 2 => subst x)) | clear_value x)
    | (with_reducible first | apply State.updMv_keeps)
    | with_reducible exact fun _ h => h
    | split
    | (fail_if_no_progress beta_reduce)

theorem State.serveNeed_keeps (cs : List Cons) (needs : List (Nat × Nat)) (j w : Nat) : ∀ (k : Nat) {s0 s : State} (_ : s0.Keeps s),
    s0.Keeps (State.serveNeed cs needs j w k s)
  | 0, _, _, h => h
  | k + 1, s0, s, h => by
    have ih := @State.serveNeed_keeps cs needs j w k s0
    unfold State.serveNeed
    repeat' first
      | (intro _)
      | with_reducible assumption
      | (extract_lets +onlyGivenNames x; first | (refine (fun hx => ?_ : State.Keeps s0 x → _) ?_; (on_goal 1 => clear_value x); (on_goal 2 => subst x)) | (refine (fun hx => ?_ : State.Keeps s0 x.1 → _) ?_; (on_goal 1 => clear_value x); (on_goal 2 => subst x)) | clear_value x)
      | (with_reducible first | apply ih | apply State.setFlag_keeps | apply State.decideMove_keeps | apply State.event_keeps | apply State.updSh_keeps)
      | with_reducible exact fun _ h => h
      | split

theorem State.assign_keeps {s0 s : State} (h : s0.Keeps s) (cs : List Cons) :
    s0.Keeps (State.assign s cs) := by
  unfold State.assign
  repeat' first
    | (intro _)
    | with_reducible assumption
    | (extract_lets +onlyGivenNames x; first | (refine (fun hx => ?_ : State.Keeps s0 x → _) ?_; (on_goal 1 => clear_value x); (on_goal 2 => subst x)) | clear_value x)
    | (with_reducible first | apply State.countSpare_keeps | apply State.each_keeps | apply State.iff_keeps | apply State.decideMove_keeps | apply State.serveNeed_keeps | apply State.setFlag_keeps)
    | with_reducible exact fun _ h => h
    | split
    | (fail_if_no_progress beta_reduce)

theorem State.updateMap_keeps {s0 s : State} (h : s0.Keeps s) :
    s0.Keeps (State.updateMap s) := by
  unfold State.updateMap
  repeat' first
    | (intro _)
    | with_reducible assumption
    | (extract_lets +onlyGivenNames x; first | (refine (fun hx => ?_ : State.Keeps s0 x → _) ?_; (on_goal 1 => clear_value x); (on_goal 2 => subst x)) | (have y : State → State := x; clear y; subst x) | (have y : State → _ → State := x; clear y; subst x) | (have y : _ → State → State := x; clear y; subst x) | (have y : _ → _ → State → State := x; clear y; subst x) | (have y : State → _ → _ → State := x; clear y; subst x) | (have y : State → _ → State × _ := x; clear y; subst x) | clear_value x)
    | (with_reducible first | apply State.each_keeps | apply State.updSh_keeps | apply State.updMv_keeps | apply State.iff_keeps | apply State.showStep_keeps)
    | with_reducible exact fun _ h => h
    | split
    | (fail_if_no_progress beta_reduce)

theorem State.allocWeights_keeps {s0 s : State} (h : s0.Keeps s) :
    s0.Keeps (State.allocWeights s) := by
  unfold State.allocWeights
  repeat' first
    | (intro _)
    | with_reducible assumption
    | (extract_lets +onlyGivenNames x; first | (refine (fun hx => ?_ : State.Keeps s0 x → _) ?_; (on_goal 1 => clear_value x); (on_goal 2 => subst x)) | clear_value x)
    | (with_reducible first | apply State.each_keeps | apply State.updSh_keeps)
    | with_reducible exact fun _ h => h
    | split
    | (fail_if_no_progress beta_reduce)

theorem State.capacityLost_keeps {s0 s : State} (h : s0.Keeps s) :
    s0.Keeps (State.capacityLost s) := by
  unfold State.capacityLost
  repeat' first
    | (intro _)
    | with_reducible assumption
    | (extract_lets +onlyGivenNames x; first | (refine (fun hx => ?_ : State.Keeps s0 x → _) ?_; (on_goal 1 => clear_value x); (on_goal 2 => subst x)) | clear_value x)
    | (with_reducible first | apply State.each_keeps | apply State.event_keeps | apply State.updMv_keeps)
    | with_reducible exact fun _ h => h
    | split
    | (fail_if_no_progress beta_reduce)

theorem State.allocSlot_keeps {s0 s : State} (h : s0.Keeps s) :
    s0.Keeps (State.allocSlot s) := by
  unfold State.allocSlot
  repeat' first
    | (intro _)
    | with_reducible assumption
    | (extract_lets +onlyGivenNames x; first | (refine (fun hx => ?_ : State.Keeps s0 x → _) ?_; (on_goal 1 => clear_value x); (on_goal 2 => subst x)) | clear_value x)
    | (with_reducible first | apply State.updSh_keeps | apply State.allocWeights_keeps | apply State.capacityLost_keeps | apply State.updateMap_keeps | apply State.reportBudgets_keeps | apply State.publishGrants_keeps | apply State.harmFactor_keeps | apply State.assign_keeps)
    | with_reducible exact fun _ h => h
    | split

theorem execAllocatorSlot_keeps (s : State) :
    State.KeepsOut s (execAllocatorSlot s) := by
  unfold execAllocatorSlot
  first | apply State.live_keeps | apply State.liveOn_keeps | apply keepsOut_next
  repeat' first
    | (intro _)
    | with_reducible assumption
    | with_reducible exact State.Keeps.refl _
    | (with_reducible first | apply State.allocSlot_keeps)
    | with_reducible exact fun _ h => h
    | split

theorem State.takePt_keeps {s0 s : State} (h : s0.Keeps s) (j : Nat) (raw : List Int) :
    s0.Keeps (State.takePt s j raw) := by
  unfold State.takePt
  repeat' first
    | (intro _)
    | with_reducible assumption
    | (extract_lets +onlyGivenNames x; first | (refine (fun hx => ?_ : State.Keeps s0 x → _) ?_; (on_goal 1 => clear_value x); (on_goal 2 => subst x)) | clear_value x)
    | (with_reducible first | apply State.updSh_keeps | apply State.iff_keeps | apply State.setFld_keeps | apply State.each_keeps | apply State.event_keeps)
    | with_reducible exact fun _ h => h
    | split

theorem State.derateStep_keeps {s0 s : State} (h : s0.Keeps s) (j : Nat) :
    s0.Keeps (State.derateStep s j) := by
  unfold State.derateStep
  repeat' first
    | (intro _)
    | with_reducible assumption
    | (extract_lets +onlyGivenNames x; first | (refine (fun hx => ?_ : State.Keeps s0 x → _) ?_; (on_goal 1 => clear_value x); (on_goal 2 => subst x)) | clear_value x)
    | (with_reducible first | apply State.setFld_keeps | apply State.updSh_keeps | apply State.event_keeps)
    | with_reducible exact fun _ h => h
    | split
    | (fail_if_no_progress beta_reduce)

theorem State.coolStep_keeps {s0 s : State} (h : s0.Keeps s) (j : Nat) :
    s0.Keeps (State.coolStep s j) := by
  unfold State.coolStep
  repeat' first
    | (intro _)
    | with_reducible assumption
    | (extract_lets +onlyGivenNames x; first | (refine (fun hx => ?_ : State.Keeps s0 x → _) ?_; (on_goal 1 => clear_value x); (on_goal 2 => subst x)) | clear_value x)
    | (with_reducible first | apply State.updSh_keeps | apply State.stopTimer_keeps | apply State.startTimer_keeps)
    | with_reducible exact fun _ h => h
    | split
    | (fail_if_no_progress beta_reduce)

theorem execCoolingFailed_keeps (s : State) (out : Fin 8) :
    State.KeepsOut s (execCoolingFailed out s) := by
  unfold execCoolingFailed
  first | apply State.live_keeps | apply keepsOut_next
  repeat' first
    | (intro _)
    | with_reducible assumption
    | with_reducible exact State.Keeps.refl _
    | (with_reducible first | apply State.setFlag_keeps | apply State.updSh_keeps | apply State.event_keeps)
    | with_reducible exact fun _ h => h
    | split

theorem execCoolingRestored_keeps (s : State) (out : Fin 8) :
    State.KeepsOut s (execCoolingRestored out s) := by
  unfold execCoolingRestored
  first | apply State.live_keeps | apply keepsOut_next
  repeat' first
    | (intro _)
    | with_reducible assumption
    | with_reducible exact State.Keeps.refl _
    | (with_reducible first | apply State.setFlag_keeps | apply State.event_keeps)
    | with_reducible exact fun _ h => h
    | split

theorem execPumpRunonEnd_keeps (s : State) (out : Fin 8) :
    State.KeepsOut s (execPumpRunonEnd out s) := by
  unfold execPumpRunonEnd
  first | apply State.live_keeps | apply keepsOut_next
  repeat' first
    | (intro _)
    | with_reducible assumption
    | with_reducible exact State.Keeps.refl _
    | (with_reducible first | apply State.updSh_keeps | apply State.stopTimer_keeps)
    | with_reducible exact fun _ h => h
    | split

theorem State.bundleTick_keeps {s0 s : State} (h : s0.Keeps s) :
    s0.Keeps (State.bundleTick s) := by
  unfold State.bundleTick
  repeat' first
    | (intro _)
    | with_reducible assumption
    | (extract_lets +onlyGivenNames x; first | (refine (fun hx => ?_ : State.Keeps s0 x → _) ?_; (on_goal 1 => clear_value x); (on_goal 2 => subst x)) | clear_value x)
    | (with_reducible first | apply State.each_keeps | apply State.iff_keeps | apply State.event_keeps | apply State.updSh_keeps | apply State.setFld_keeps | apply State.setFlag_keeps | apply foldl_keeps)
    | with_reducible exact fun _ h => h
    | split
    | (fail_if_no_progress beta_reduce)

theorem State.moveFrom_keeps {s0 s : State} (h : s0.Keeps s) (n : Nat) (st : Nat) :
    s0.Keeps (State.moveFrom s n st) := by
  unfold State.moveFrom
  repeat' first
    | (intro _)
    | with_reducible assumption
    | (with_reducible first | apply State.showStep_keeps | apply State.updBl_keeps | apply State.updMv_keeps | apply State.beginStep_keeps)
    | with_reducible exact fun _ h => h
    | split

theorem State.moveTick_keeps {s0 s : State} (h : s0.Keeps s) :
    s0.Keeps (State.moveTick s) := by
  unfold State.moveTick
  repeat' first
    | (intro _)
    | with_reducible assumption
    | (extract_lets +onlyGivenNames x; first | (refine (fun hx => ?_ : State.Keeps s0 x → _) ?_; (on_goal 1 => clear_value x); (on_goal 2 => subst x)) | clear_value x)
    | (with_reducible first | apply State.each_keeps | apply State.moveFrom_keeps | apply State.event_keeps | apply State.updMv_keeps | apply State.iff_keeps | apply State.moveAbandon_keeps | apply State.sendCmd_keeps)
    | with_reducible exact fun _ h => h
    | split
    | (fail_if_no_progress beta_reduce)

end Sys2Proof.Machine
end

