-- ==== Sys2Proof/Laws/KeepsLinks.lean ====
section
/-!
SUPPORT. What every command keeps, for the operations and commands of Machine/Links.lean.
-/

set_option linter.all false

namespace Sys2Proof.Machine

open Sys2Proof

theorem State.leaveService_keeps {s0 s : State} (h : s0.Keeps s) (n : Nat) :
    s0.Keeps (State.leaveService s n) := by
  unfold State.leaveService
  repeat' first
    | (intro _)
    | with_reducible assumption
    | (extract_lets +onlyGivenNames x; first | (refine (fun hx => ?_ : State.Keeps s0 x → _) ?_; (on_goal 1 => clear_value x); (on_goal 2 => subst x)) | clear_value x)
    | (with_reducible first | apply State.moveAbandon_keeps | apply State.dropK1_keeps)
    | with_reducible exact fun _ h => h
    | split

theorem State.retrainNow_keeps {s0 s : State} (h : s0.Keeps s) (n : Nat) :
    s0.Keeps (State.retrainNow s n) := by
  unfold State.retrainNow
  repeat' first
    | (intro _)
    | with_reducible assumption
    | (extract_lets +onlyGivenNames x; first | (refine (fun hx => ?_ : State.Keeps s0 x → _) ?_; (on_goal 1 => clear_value x); (on_goal 2 => subst x)) | clear_value x)
    | (with_reducible first | apply State.iff_keeps | apply State.toTrain_keeps | apply State.leaveService_keeps)
    | with_reducible exact fun _ h => h
    | split
    | (fail_if_no_progress beta_reduce)

theorem State.retrainLink_keeps {s0 s : State} (h : s0.Keeps s) (n : Nat) :
    s0.Keeps (State.retrainLink s n) := by
  unfold State.retrainLink
  repeat' first
    | (intro _)
    | with_reducible assumption
    | (with_reducible first | apply State.retrainNow_keeps | apply State.updLk_keeps)
    | with_reducible exact fun _ h => h
    | split

theorem State.toLock_keeps {s0 s : State} (h : s0.Keeps s) (n : Nat) :
    s0.Keeps (State.toLock s n) := by
  unfold State.toLock
  repeat' first
    | (intro _)
    | with_reducible assumption
    | (with_reducible first | apply State.updLk_keeps | apply State.stopTimer_keeps | apply State.setLst_keeps)
    | with_reducible exact fun _ h => h
    | split

theorem State.badFrame_keeps {s0 s : State} (h : s0.Keeps s) (n : Nat) (cnt : Option Fld) :
    s0.Keeps (State.badFrame s n cnt) := by
  unfold State.badFrame
  repeat' first
    | (intro _)
    | with_reducible assumption
    | (extract_lets +onlyGivenNames x; first | (refine (fun hx => ?_ : State.Keeps s0 x → _) ?_; (on_goal 1 => clear_value x); (on_goal 2 => subst x)) | clear_value x)
    | (with_reducible first | apply State.updLk_keeps | apply State.inc_keeps | apply State.event_keeps)
    | with_reducible exact fun _ h => h
    | split

theorem State.upAux_keeps {s0 s : State} (h : s0.Keeps s) (n : Nat) (u : UpFields) :
    s0.Keeps (State.upAux s n u) := by
  unfold State.upAux
  repeat' first
    | (intro _)
    | with_reducible assumption
    | (extract_lets +onlyGivenNames x; first | (refine (fun hx => ?_ : State.Keeps s0 x → _) ?_; (on_goal 1 => clear_value x); (on_goal 2 => subst x)) | clear_value x)
    | (with_reducible first | apply State.setFld_keeps | apply State.updLk_keeps | apply State.setFldS_keeps)
    | with_reducible exact fun _ h => h
    | split

theorem State.faultCode_keeps {s0 s : State} (h : s0.Keeps s) (n : Nat) (code : Nat) :
    s0.Keeps (State.faultCode s n code) := by
  unfold State.faultCode
  repeat' first
    | (intro _)
    | with_reducible assumption
    | (with_reducible first | apply State.setFld_keeps)
    | with_reducible exact fun _ h => h
    | split

theorem State.upFault_keeps {s0 s : State} (h : s0.Keeps s) (n : Nat) (u : UpFields) :
    s0.Keeps (State.upFault s n u) := by
  unfold State.upFault
  repeat' first
    | (intro _)
    | with_reducible assumption
    | (extract_lets +onlyGivenNames x; first | (refine (fun hx => ?_ : State.Keeps s0 x → _) ?_; (on_goal 1 => clear_value x); (on_goal 2 => subst x)) | clear_value x)
    | (with_reducible first | apply State.iff_keeps | apply State.moveAbort_keeps | apply State.faultCode_keeps | apply State.updLk_keeps | apply State.event_keeps)
    | with_reducible exact fun _ h => h
    | split

theorem State.takeFrame_keeps {s0 s : State} (h : s0.Keeps s) (n : Nat) (u : UpFields) :
    s0.Keeps (State.takeFrame s n u) := by
  unfold State.takeFrame
  repeat' first
    | (intro _)
    | with_reducible assumption
    | (extract_lets +onlyGivenNames x; first | (refine (fun hx => ?_ : State.Keeps s0 x → _) ?_; (on_goal 1 => clear_value x); (on_goal 2 => subst x)) | clear_value x)
    | (with_reducible first | apply State.setFlag_keeps | apply State.upFault_keeps | apply State.setFld_keeps | apply State.updLk_keeps | apply State.upAux_keeps)
    | with_reducible exact fun _ h => h
    | split

theorem State.linkNext_keeps {s0 s : State} (h : s0.Keeps s) (n : Nat) (u : UpFields) :
    s0.Keeps (State.linkNext s n u) := by
  unfold State.linkNext
  repeat' first
    | (intro _)
    | with_reducible assumption
    | (extract_lets +onlyGivenNames x; first | clear_value x)
    | (with_reducible first | apply State.iff_keeps | apply State.setLst_keeps | apply State.updLk_keeps | apply State.stopTimer_keeps)
    | with_reducible exact fun _ h => h
    | split

theorem State.failedToStop_keeps {s0 s : State} (h : s0.Keeps s) (n : Nat) (u : UpFields) :
    s0.Keeps (State.failedToStop s n u) := by
  unfold State.failedToStop
  repeat' first
    | (intro _)
    | with_reducible assumption
    | (extract_lets +onlyGivenNames x; first | (refine (fun hx => ?_ : State.Keeps s0 x → _) ?_; (on_goal 1 => clear_value x); (on_goal 2 => subst x)) | clear_value x)
    | (with_reducible first | apply State.event_keeps | apply State.updLk_keeps)
    | with_reducible exact fun _ h => h
    | split
    | (fail_if_no_progress beta_reduce)

theorem State.goodFrame_keeps {s0 s : State} (h : s0.Keeps s) (n : Nat) (u : UpFields) (dev : Int) :
    s0.Keeps (State.goodFrame s n u dev) := by
  unfold State.goodFrame
  repeat' first
    | (intro _)
    | with_reducible assumption
    | (extract_lets +onlyGivenNames x; first | (refine (fun hx => ?_ : State.Keeps s0 x → _) ?_; (on_goal 1 => clear_value x); (on_goal 2 => subst x)) | clear_value x)
    | (with_reducible first | apply State.iff_keeps | apply State.updLk_keeps | apply State.failedToStop_keeps | apply State.linkNext_keeps | apply State.takeFrame_keeps)
    | with_reducible exact fun _ h => h
    | split

theorem State.judgeFrame_keeps {s0 s : State} (h : s0.Keeps s) (n : Nat) (f : BitVec 144) (dev : Int) :
    s0.Keeps (State.judgeFrame s n f dev) := by
  unfold State.judgeFrame
  repeat' first
    | (intro _)
    | with_reducible assumption
    | (extract_lets +onlyGivenNames x; first | (refine (fun hx => ?_ : State.Keeps s0 x → _) ?_; (on_goal 1 => clear_value x); (on_goal 2 => subst x)) | clear_value x)
    | (with_reducible first | apply State.badFrame_keeps | apply State.iff_keeps | apply State.faultSeen_keeps | apply State.event_keeps | apply State.goodFrame_keeps)
    | with_reducible exact fun _ h => h
    | split
    | (fail_if_no_progress beta_reduce)

theorem State.abortFrame_keeps {s0 s : State} (h : s0.Keeps s) (n : Nat) :
    s0.Keeps (State.abortFrame s n) := by
  unfold State.abortFrame
  repeat' first
    | (intro _)
    | with_reducible assumption
    | (with_reducible first | apply State.badFrame_keeps | apply State.inc_keeps)
    | with_reducible exact fun _ h => h
    | split

theorem State.upChars_keeps {s0 s : State} (h : s0.Keeps s) (n : Nat) (cs : List (BitVec 10)) (dev : Int) :
    s0.Keeps (State.upChars s n cs dev) := by
  unfold State.upChars
  repeat' first
    | (intro _)
    | with_reducible assumption
    | (extract_lets +onlyGivenNames x; first | (refine (fun hx => ?_ : State.Keeps s0 x → _) ?_; (on_goal 1 => clear_value x); (on_goal 2 => subst x)) | clear_value x)
    | (with_reducible first | apply State.updLk_keeps | apply State.setSat_keeps | apply State.iff_keeps | apply State.inc_keeps | apply State.startTimer_keeps | apply State.badFrame_keeps | apply State.abortFrame_keeps | apply State.judgeFrame_keeps)
    | with_reducible exact fun _ h => h
    | split
    | (fail_if_no_progress beta_reduce)

theorem State.upstreamFrame_keeps {s0 s : State} (h : s0.Keeps s) (n : Nat) (a : UpArrival) :
    s0.Keeps (State.upstreamFrame s n a) := by
  unfold State.upstreamFrame
  repeat' first
    | (intro _)
    | with_reducible assumption
    | (with_reducible first | apply State.upChars_keeps | apply State.badFrame_keeps | apply State.inc_keeps | apply State.abortFrame_keeps | apply State.iff_keeps | apply State.startTimer_keeps | apply State.judgeFrame_keeps)
    | with_reducible exact fun _ h => h
    | split

theorem execUpstreamFrame_keeps (s : State) (link : Fin 48) (arrival : UpArrival) :
    State.KeepsOut s (execUpstreamFrame link arrival s) := by
  unfold execUpstreamFrame
  first | apply State.live_keeps | apply keepsOut_next
  repeat' first
    | (intro _)
    | with_reducible assumption
    | with_reducible exact State.Keeps.refl _
    | (with_reducible first | apply State.upstreamFrame_keeps)
    | with_reducible exact fun _ h => h
    | split

theorem State.laneDropped_keeps {s0 s : State} (h : s0.Keeps s) (n : Nat) :
    s0.Keeps (State.laneDropped s n) := by
  unfold State.laneDropped
  repeat' first
    | (intro _)
    | with_reducible assumption
    | (with_reducible first | apply State.updBl_keeps | apply State.dropK1_keeps | apply State.event_keeps)
    | with_reducible exact fun _ h => h
    | split

theorem State.linkLost_keeps {s0 s : State} (h : s0.Keeps s) (n : Nat) :
    s0.Keeps (State.linkLost s n) := by
  unfold State.linkLost
  repeat' first
    | (intro _)
    | with_reducible assumption
    | (extract_lets +onlyGivenNames x; first | (refine (fun hx => ?_ : State.Keeps s0 x → _) ?_; (on_goal 1 => clear_value x); (on_goal 2 => subst x)) | clear_value x)
    | (with_reducible first | apply State.event_keeps | apply State.setLst_keeps | apply State.startTimer_keeps | apply State.updLk_keeps | apply State.moveAbandon_keeps | apply State.laneDropped_keeps)
    | with_reducible exact fun _ h => h
    | split
    | (fail_if_no_progress beta_reduce)

theorem execLinkLost_keeps (s : State) (link : Fin 48) :
    State.KeepsOut s (execLinkLost link s) := by
  unfold execLinkLost
  first | apply State.live_keeps | apply keepsOut_next
  repeat' first
    | (intro _)
    | with_reducible assumption
    | with_reducible exact State.Keeps.refl _
    | (with_reducible first | apply State.linkLost_keeps)
    | with_reducible exact fun _ h => h
    | split

theorem execArrivalDrift_keeps (s : State) (link : Fin 48) :
    State.KeepsOut s (execArrivalDrift link s) := by
  unfold execArrivalDrift
  first | apply State.live_keeps | apply State.liveOn_keeps | apply keepsOut_next
  repeat' first
    | (intro _)
    | with_reducible assumption
    | with_reducible exact State.Keeps.refl _
    | (with_reducible first | apply State.updLk_keeps | apply State.sendCmd_keeps | apply State.event_keeps)
    | with_reducible exact fun _ h => h
    | split

theorem State.drainDone_keeps {s0 s : State} (h : s0.Keeps s) (n : Nat) :
    s0.Keeps (State.drainDone s n) := by
  unfold State.drainDone
  repeat' first
    | (intro _)
    | with_reducible assumption
    | (extract_lets +onlyGivenNames x; first | (refine (fun hx => ?_ : State.Keeps s0 x → _) ?_; (on_goal 1 => clear_value x); (on_goal 2 => subst x)) | clear_value x)
    | (with_reducible first | apply State.iff_keeps | apply State.retrainNow_keeps)
    | with_reducible exact fun _ h => h
    | split
    | (fail_if_no_progress beta_reduce)

theorem execBlockClockFault_keeps (s : State) (link : Fin 48) :
    State.KeepsOut s (execBlockClockFault link s) := by
  unfold execBlockClockFault
  first | apply State.live_keeps | apply keepsOut_next
  repeat' first
    | (intro _)
    | with_reducible assumption
    | with_reducible exact State.Keeps.refl _
    | (with_reducible first | apply State.retrainLink_keeps | apply State.event_keeps)
    | with_reducible exact fun _ h => h
    | split

theorem execCommaLock_keeps (s : State) (link : Fin 48) :
    State.KeepsOut s (execCommaLock link s) := by
  unfold execCommaLock
  first | apply State.live_keeps | apply keepsOut_next
  repeat' first
    | (intro _)
    | with_reducible assumption
    | with_reducible exact State.Keeps.refl _
    | (with_reducible first | apply State.toTrain_keeps)
    | with_reducible exact fun _ h => h
    | split

theorem execTrainMeasurement_keeps (s : State) (link : Fin 48) (sum : Nat) (least : Nat) (most : Nat) :
    State.KeepsOut s (execTrainMeasurement link sum least most s) := by
  unfold execTrainMeasurement
  first | apply State.live_keeps | apply keepsOut_next
  repeat' first
    | (intro _)
    | with_reducible assumption
    | (extract_lets +onlyGivenNames x; first | clear_value x)
    | with_reducible exact State.Keeps.refl _
    | (with_reducible first | apply State.setSat_keeps | apply State.updLk_keeps)
    | with_reducible exact fun _ h => h
    | split

theorem execTrainTimeout_keeps (s : State) (link : Fin 48) :
    State.KeepsOut s (execTrainTimeout link s) := by
  unfold execTrainTimeout
  first | apply State.live_keeps | apply keepsOut_next
  repeat' first
    | (intro _)
    | with_reducible assumption
    | (extract_lets +onlyGivenNames x; first | (refine (fun hx => ?_ : State.Keeps s x → _) ?_; (on_goal 1 => clear_value x); (on_goal 2 => subst x)) | clear_value x)
    | with_reducible exact State.Keeps.refl _
    | (with_reducible first | apply State.startTimer_keeps | apply State.updLk_keeps | apply State.stopTimer_keeps | apply State.event_keeps)
    | with_reducible exact fun _ h => h
    | split

theorem execLinkRetry_keeps (s : State) (link : Fin 48) :
    State.KeepsOut s (execLinkRetry link s) := by
  unfold execLinkRetry
  first | apply State.live_keeps | apply keepsOut_next
  repeat' first
    | (intro _)
    | with_reducible assumption
    | with_reducible exact State.Keeps.refl _
    | (with_reducible first | apply State.toLock_keeps | apply State.stopTimer_keeps)
    | with_reducible exact fun _ h => h
    | split

theorem execLinkSilent_keeps (s : State) (link : Fin 48) :
    State.KeepsOut s (execLinkSilent link s) := by
  unfold execLinkSilent
  first | apply State.live_keeps | apply keepsOut_next
  repeat' first
    | (intro _)
    | with_reducible assumption
    | with_reducible exact State.Keeps.refl _
    | (with_reducible first | apply State.toLock_keeps)
    | with_reducible exact fun _ h => h
    | split

theorem execStartSend_keeps (s : State) (link : Fin 48) :
    State.KeepsOut s (execStartSend link s) := by
  unfold execStartSend
  first | apply State.live_keeps | apply keepsOut_next
  repeat' first
    | (intro _)
    | with_reducible assumption
    | with_reducible exact State.Keeps.refl _
    | (with_reducible first | apply State.sendCmd_keeps | apply State.updLk_keeps)
    | with_reducible exact fun _ h => h
    | split

theorem State.hostRetrain_keeps {s0 s : State} (h : s0.Keeps s) (n : Nat) :
    s0.Keeps (State.hostRetrain s n) := by
  unfold State.hostRetrain
  repeat' first
    | (intro _)
    | with_reducible assumption
    | (with_reducible first | apply State.retrainLink_keeps | apply State.stopTimer_keeps | apply State.event_keeps)
    | with_reducible exact fun _ h => h
    | split

theorem execRetrain_keeps (s : State) (link : Fin 48) :
    State.KeepsOut s (execRetrain link s) := by
  unfold execRetrain
  first | apply State.live_keeps | apply keepsOut_next
  repeat' first
    | (intro _)
    | with_reducible assumption
    | with_reducible exact State.Keeps.refl _
    | (with_reducible first | apply State.hostRetrain_keeps)
    | with_reducible exact fun _ h => h
    | split

theorem State.stopLink_keeps {s0 s : State} (h : s0.Keeps s) (n : Nat) (why : Nat) :
    s0.Keeps (State.stopLink s n why) := by
  unfold State.stopLink
  repeat' first
    | (intro _)
    | with_reducible assumption
    | (extract_lets +onlyGivenNames x; first | (refine (fun hx => ?_ : State.Keeps s0 x → _) ?_; (on_goal 1 => clear_value x); (on_goal 2 => subst x)) | clear_value x)
    | (with_reducible first | apply State.updLk_keeps | apply State.iff_keeps | apply State.setLst_keeps | apply State.setLinkBit_keeps | apply State.stopTimer_keeps | apply State.leaveService_keeps)
    | with_reducible exact fun _ h => h
    | split
    | (fail_if_no_progress beta_reduce)

theorem State.stopLines_keeps {s0 s : State} (h : s0.Keeps s) (ns : List Nat) (why : Nat) :
    s0.Keeps (State.stopLines s ns why) := by
  unfold State.stopLines
  repeat' first
    | (intro _)
    | with_reducible assumption
    | (extract_lets +onlyGivenNames x; first | (refine (fun hx => ?_ : State.Keeps s0 x → _) ?_; (on_goal 1 => clear_value x); (on_goal 2 => subst x)) | clear_value x)
    | (with_reducible first | apply State.each_keeps | apply State.updLk_keeps | apply State.event_keeps | apply State.stopLink_keeps | apply State.cupTrigger_keeps)
    | with_reducible exact fun _ h => h
    | split
    | (fail_if_no_progress beta_reduce)

theorem State.releaseLines_keeps {s0 s : State} (h : s0.Keeps s) (ns : List Nat) (why : Nat) :
    s0.Keeps (State.releaseLines s ns why) := by
  unfold State.releaseLines
  repeat' first
    | (intro _)
    | with_reducible assumption
    | (extract_lets +onlyGivenNames x; first | (refine (fun hx => ?_ : State.Keeps s0 x → _) ?_; (on_goal 1 => clear_value x); (on_goal 2 => subst x)) | clear_value x)
    | (with_reducible first | apply State.each_keeps | apply State.updLk_keeps | apply State.event_keeps | apply State.iff_keeps | apply State.toLock_keeps)
    | with_reducible exact fun _ h => h
    | split
    | (fail_if_no_progress beta_reduce)

theorem execStopLineAssert_keeps (s : State) (links : List (Fin 48)) :
    State.KeepsOut s (execStopLineAssert links s) := by
  unfold execStopLineAssert
  first | apply State.live_keeps | apply keepsOut_next
  repeat' first
    | (intro _)
    | with_reducible assumption
    | (extract_lets +onlyGivenNames x; first | clear_value x)
    | with_reducible exact State.Keeps.refl _
    | (with_reducible first | apply State.each_keeps | apply State.stopLines_keeps)
    | with_reducible exact fun _ h => h
    | split

theorem State.releaseOutput_keeps {s0 s : State} (h : s0.Keeps s) (j : Nat) :
    s0.Keeps (State.releaseOutput s j) := by
  unfold State.releaseOutput
  repeat' first
    | (intro _)
    | with_reducible assumption
    | (extract_lets +onlyGivenNames x; first | (refine (fun hx => ?_ : State.Keeps s0 x → _) ?_; (on_goal 1 => clear_value x); (on_goal 2 => subst x)) | clear_value x)
    | (with_reducible first | apply State.iff_keeps | apply State.releaseLines_keeps)
    | with_reducible exact fun _ h => h
    | split

theorem execStopLineRelease_keeps (s : State) (out : Fin 8) :
    State.KeepsOut s (execStopLineRelease out s) := by
  unfold execStopLineRelease
  first | apply State.live_keeps | apply keepsOut_next
  repeat' first
    | (intro _)
    | with_reducible assumption
    | with_reducible exact State.Keeps.refl _
    | (with_reducible first | apply State.releaseOutput_keeps)
    | with_reducible exact fun _ h => h
    | split

theorem State.linkSend_keeps {s0 s : State} (h : s0.Keeps s) (n : Nat) :
    s0.Keeps (State.linkSend s n) := by
  unfold State.linkSend
  repeat' first
    | (intro _)
    | with_reducible assumption
    | (extract_lets +onlyGivenNames x; first | (refine (fun hx => ?_ : State.Keeps s0 x → _) ?_; (on_goal 1 => clear_value x); (on_goal 2 => subst x)) | clear_value x)
    | (with_reducible first | apply State.iff_keeps | apply State.setLinkBit_keeps | apply State.updLk_keeps)
    | with_reducible exact fun _ h => h
    | split
    | (fail_if_no_progress beta_reduce)

theorem State.linksCf_keeps {s0 s : State} (h : s0.Keeps s) :
    s0.Keeps (State.linksCf s) := by
  unfold State.linksCf
  repeat' first
    | (intro _)
    | with_reducible assumption
    | (extract_lets +onlyGivenNames x; first | (refine (fun hx => ?_ : State.Keeps s0 x → _) ?_; (on_goal 1 => clear_value x); (on_goal 2 => subst x)) | (have y : State → State := x; clear y; subst x) | (have y : State → _ → State := x; clear y; subst x) | (have y : _ → State → State := x; clear y; subst x) | (have y : _ → _ → State → State := x; clear y; subst x) | (have y : State → _ → _ → State := x; clear y; subst x) | (have y : State → _ → State × _ := x; clear y; subst x) | clear_value x)
    | (with_reducible first | apply State.each_keeps | apply State.linkSend_keeps | apply State.drainDone_keeps | apply State.closeStep_keeps)
    | split
    | (with_reducible apply State.mk_keeps; (rotate_left); all_goals first | with_reducible rfl | exact upd_length _ _ _ | exact List.length_map _ | skip)
    | with_reducible exact fun _ h => h
    | split
    | (fail_if_no_progress beta_reduce)

theorem State.linksSf_keeps {s0 s : State} (h : s0.Keeps s) :
    s0.Keeps (State.linksSf s) := by
  unfold State.linksSf
  repeat' first
    | (intro _)
    | with_reducible assumption
    | split
    | (with_reducible apply State.mk_keeps; (rotate_left); all_goals first | with_reducible rfl | exact upd_length _ _ _ | exact List.length_map _ | skip)
    | with_reducible exact fun _ h => h
    | split

theorem State.missFrames_keeps {s0 s : State} (h : s0.Keeps s) (c : Nat) :
    s0.Keeps (State.missFrames s c) := by
  unfold State.missFrames
  repeat' first
    | (intro _)
    | with_reducible assumption
    | (with_reducible first | apply State.badFrame_keeps | apply State.each_keeps)
    | with_reducible exact fun _ h => h
    | split

end Sys2Proof.Machine
end

