-- ==== Sys2Proof/Laws/KeepsVehicle.lean ====
section
/-!
SUPPORT. What every command keeps, for the operations and commands of Machine/Vehicle.lean.
-/

set_option linter.all false

namespace Sys2Proof.Machine

open Sys2Proof

theorem State.drive_keeps {s0 s : State} (h : s0.Keeps s) (j : Nat) (d : Nat) :
    s0.Keeps (State.drive s j d) := by
  unfold State.drive
  repeat' first
    | (intro _)
    | with_reducible assumption
    | (with_reducible first | apply State.updVh_keeps)
    | with_reducible exact fun _ h => h
    | split

theorem State.park_keeps {s0 s : State} (h : s0.Keeps s) (j : Nat) :
    s0.Keeps (State.park s j) := by
  unfold State.park
  repeat' first
    | (intro _)
    | with_reducible assumption
    | (extract_lets +onlyGivenNames x; first | (refine (fun hx => ?_ : State.Keeps s0 x → _) ?_; (on_goal 1 => clear_value x); (on_goal 2 => subst x)) | clear_value x)
    | (with_reducible first | apply State.drive_keeps | apply State.setFld_keeps | apply State.iff_keeps)
    | with_reducible exact fun _ h => h
    | split
    | (fail_if_no_progress beta_reduce)

theorem State.tlsDown_keeps {s0 s : State} (h : s0.Keeps s) (j : Nat) :
    s0.Keeps (State.tlsDown s j) := by
  unfold State.tlsDown
  repeat' first
    | (intro _)
    | with_reducible assumption
    | (with_reducible first | apply State.setFlag_keeps | apply State.updVh_keeps)
    | with_reducible exact fun _ h => h
    | split

theorem State.setSState_keeps {s0 s : State} (h : s0.Keeps s) (j : Nat) (new : Nat) (reason : Nat) :
    s0.Keeps (State.setSState s j new reason) := by
  unfold State.setSState
  repeat' first
    | (intro _)
    | with_reducible assumption
    | (extract_lets +onlyGivenNames x; first | (refine (fun hx => ?_ : State.Keeps s0 x → _) ?_; (on_goal 1 => clear_value x); (on_goal 2 => subst x)) | clear_value x)
    | (with_reducible first | apply State.iff_keeps | apply State.setFld_keeps | apply State.event_keeps)
    | with_reducible exact fun _ h => h
    | split

theorem State.quiet_keeps {s0 s : State} (h : s0.Keeps s) (j : Nat) :
    s0.Keeps (State.quiet s j) := by
  unfold State.quiet
  repeat' first
    | (intro _)
    | with_reducible assumption
    | (extract_lets +onlyGivenNames x; first | clear_value x)
    | split
    | (with_reducible apply State.mk_keeps; (rotate_left); all_goals first | with_reducible rfl | exact upd_length _ _ _ | exact List.length_map _ | skip)
    | with_reducible exact fun _ h => h
    | split

theorem State.expired_keeps {s0 s : State} (h : s0.Keeps s) (j : Nat) :
    s0.Keeps (State.expired s j) := by
  unfold State.expired
  repeat' first
    | (intro _)
    | with_reducible assumption
    | (with_reducible first | apply State.inc_keeps)
    | with_reducible exact fun _ h => h
    | split

theorem State.leaveJoin_keeps {s0 s : State} (h : s0.Keeps s) (j : Nat) :
    s0.Keeps (State.leaveJoin s j) := by
  unfold State.leaveJoin
  repeat' first
    | (intro _)
    | with_reducible assumption
    | (extract_lets +onlyGivenNames x; first | (refine (fun hx => ?_ : State.Keeps s0 x → _) ?_; (on_goal 1 => clear_value x); (on_goal 2 => subst x)) | clear_value x)
    | (with_reducible first | apply State.setFlag_keeps | apply State.updVh_keeps | apply State.event_keeps | apply State.each_keeps | apply foldl_keeps)
    | with_reducible exact fun _ h => h
    | split
    | (fail_if_no_progress beta_reduce)

theorem State.updLeg_keeps {s0 s : State} (h : s0.Keeps s) (f : LegSt → LegSt) :
    s0.Keeps (State.updLeg s f) := by
  unfold State.updLeg
  repeat' first
    | (intro _)
    | with_reducible assumption
    | split
    | (with_reducible apply State.mk_keeps; (rotate_left); all_goals first | with_reducible rfl | exact upd_length _ _ _ | exact List.length_map _ | skip)
    | with_reducible exact fun _ h => h
    | split

theorem State.tokRegs_keeps {s0 s : State} (h : s0.Keeps s) :
    s0.Keeps (State.tokRegs s) := by
  unfold State.tokRegs
  repeat' first
    | (intro _)
    | with_reducible assumption
    | (with_reducible first | apply State.setSat_keeps)
    | with_reducible exact fun _ h => h
    | split

theorem State.tokSettle_keeps {s0 s : State} (h : s0.Keeps s) (j : Nat) (ok : Bool) :
    s0.Keeps (State.tokSettle s j ok) := by
  unfold State.tokSettle
  repeat' first
    | (intro _)
    | with_reducible assumption
    | (extract_lets +onlyGivenNames x; first | (refine (fun hx => ?_ : State.Keeps s0 x → _) ?_; (on_goal 1 => clear_value x); (on_goal 2 => subst x)) | clear_value x)
    | (with_reducible first | apply State.updLeg_keeps | apply State.updVh_keeps | apply State.tokRegs_keeps)
    | with_reducible exact fun _ h => h
    | split

theorem State.dropReqs_keeps {s0 s : State} (h : s0.Keeps s) (j : Nat) :
    s0.Keeps (State.dropReqs s j) := by
  unfold State.dropReqs
  repeat' first
    | (intro _)
    | with_reducible assumption
    | (extract_lets +onlyGivenNames x; first | (refine (fun hx => ?_ : State.Keeps s0 x → _) ?_; (on_goal 1 => clear_value x); (on_goal 2 => subst x)) | clear_value x)
    | (with_reducible first | apply State.tokSettle_keeps)
    | split
    | (with_reducible apply State.mk_keeps; (rotate_left); all_goals first | with_reducible rfl | exact upd_length _ _ _ | exact List.length_map _ | skip)
    | with_reducible exact fun _ h => h
    | split

theorem State.endPause_keeps {s0 s : State} (h : s0.Keeps s) (j : Nat) :
    s0.Keeps (State.endPause s j) := by
  unfold State.endPause
  repeat' first
    | (intro _)
    | with_reducible assumption
    | (with_reducible first | apply State.iff_keeps | apply State.drive_keeps)
    | with_reducible exact fun _ h => h
    | split

theorem State.endNow_keeps {s0 s : State} (h : s0.Keeps s) (j : Nat) (reason : Nat) :
    s0.Keeps (State.endNow s j reason) := by
  unfold State.endNow
  repeat' first
    | (intro _)
    | with_reducible assumption
    | (extract_lets +onlyGivenNames x; first | (refine (fun hx => ?_ : State.Keeps s0 x → _) ?_; (on_goal 1 => clear_value x); (on_goal 2 => subst x)) | clear_value x)
    | (with_reducible first | apply State.leaveJoin_keeps | apply State.stopTimer_keeps | apply State.quiet_keeps | apply State.endPause_keeps | apply State.updVh_keeps | apply State.dropReqs_keeps | apply State.setSState_keeps)
    | with_reducible exact fun _ h => h
    | split
    | (fail_if_no_progress beta_reduce)

theorem State.stopNow_keeps {s0 s : State} (h : s0.Keeps s) (j : Nat) (reason : Nat) :
    s0.Keeps (State.stopNow s j reason) := by
  unfold State.stopNow
  repeat' first
    | (intro _)
    | with_reducible assumption
    | (extract_lets +onlyGivenNames x; first | (refine (fun hx => ?_ : State.Keeps s0 x → _) ?_; (on_goal 1 => clear_value x); (on_goal 2 => subst x)) | clear_value x)
    | (with_reducible first | apply State.updVh_keeps | apply State.stopTimer_keeps | apply State.setSState_keeps | apply State.leaveJoin_keeps)
    | with_reducible exact fun _ h => h
    | split
    | (fail_if_no_progress beta_reduce)

theorem State.finish_keeps {s0 s : State} (h : s0.Keeps s) (j : Nat) (reason : Nat) :
    s0.Keeps (State.finish s j reason) := by
  unfold State.finish
  repeat' first
    | (intro _)
    | with_reducible assumption
    | (with_reducible first | apply State.endNow_keeps | apply State.stopNow_keeps)
    | with_reducible exact fun _ h => h
    | split

theorem State.evseStopOne_keeps {s0 s : State} (h : s0.Keeps s) (j : Nat) (reason : Nat) :
    s0.Keeps (State.evseStopOne s j reason) := by
  unfold State.evseStopOne
  repeat' first
    | (intro _)
    | with_reducible assumption
    | (with_reducible first | apply State.updVh_keeps | apply State.endNow_keeps)
    | with_reducible exact fun _ h => h
    | split

theorem State.outFailed_keeps {s0 s : State} (h : s0.Keeps s) (j : Nat) :
    s0.Keeps (State.outFailed s j) := by
  unfold State.outFailed
  repeat' first
    | (intro _)
    | with_reducible assumption
    | (extract_lets +onlyGivenNames x; first | (refine (fun hx => ?_ : State.Keeps s0 x → _) ?_; (on_goal 1 => clear_value x); (on_goal 2 => subst x)) | clear_value x)
    | (with_reducible first | apply State.updVh_keeps | apply State.stopNow_keeps | apply State.evseStopOne_keeps | apply State.leaveJoin_keeps | apply State.iff_keeps | apply State.endNow_keeps)
    | with_reducible exact fun _ h => h
    | split
    | (fail_if_no_progress beta_reduce)

theorem State.evseStopAll_keeps {s0 s : State} (h : s0.Keeps s) (j : Nat) (reason : Nat) :
    s0.Keeps (State.evseStopAll s j reason) := by
  unfold State.evseStopAll
  repeat' first
    | (intro _)
    | with_reducible assumption
    | (extract_lets +onlyGivenNames x; first | clear_value x)
    | (with_reducible first | apply State.evseStopOne_keeps | apply State.each_keeps)
    | with_reducible exact fun _ h => h
    | split

theorem State.safetyEnd_keeps {s0 s : State} (h : s0.Keeps s) (j : Nat) :
    s0.Keeps (State.safetyEnd s j) := by
  unfold State.safetyEnd
  repeat' first
    | (intro _)
    | with_reducible assumption
    | (extract_lets +onlyGivenNames x; first | (refine (fun hx => ?_ : State.Keeps s0 x → _) ?_; (on_goal 1 => clear_value x); (on_goal 2 => subst x)) | clear_value x)
    | (with_reducible first | apply State.iff_keeps | apply State.updVh_keeps | apply State.each_keeps | apply State.finish_keeps)
    | with_reducible exact fun _ h => h
    | split

theorem State.vehMode_keeps {s0 s : State} (h : s0.Keeps s) (j : Nat) :
    s0.Keeps (State.vehMode s j) := by
  unfold State.vehMode
  repeat' first
    | (intro _)
    | with_reducible assumption
    | (extract_lets +onlyGivenNames x; first | (refine (fun hx => ?_ : State.Keeps s0 x → _) ?_; (on_goal 1 => clear_value x); (on_goal 2 => subst x)) | clear_value x)
    | (with_reducible first | apply State.setSState_keeps | apply State.setFld_keeps | apply State.updVh_keeps | apply State.dropReqs_keeps | apply State.leaveJoin_keeps | apply State.stopTimer_keeps | apply State.quiet_keeps | apply State.park_keeps | apply State.setFlag_keeps | apply State.tlsDown_keeps)
    | with_reducible exact fun _ h => h
    | split
    | (fail_if_no_progress beta_reduce)

theorem State.retryOr_keeps {s0 s : State} (h : s0.Keeps s) (j : Nat) (reason : Nat) :
    s0.Keeps (State.retryOr s j reason) := by
  unfold State.retryOr
  repeat' first
    | (intro _)
    | with_reducible assumption
    | (extract_lets +onlyGivenNames x; first | (refine (fun hx => ?_ : State.Keeps s0 x → _) ?_; (on_goal 1 => clear_value x); (on_goal 2 => subst x)) | clear_value x)
    | (with_reducible first | apply State.setFlag_keeps | apply State.updVh_keeps | apply State.quiet_keeps | apply State.dropReqs_keeps | apply State.tlsDown_keeps | apply State.startTimer_keeps | apply State.setSState_keeps | apply State.iff_keeps | apply State.drive_keeps | apply State.endNow_keeps)
    | with_reducible exact fun _ h => h
    | split
    | (fail_if_no_progress beta_reduce)

theorem State.commLost_keeps {s0 s : State} (h : s0.Keeps s) (j : Nat) (cause : Nat) :
    s0.Keeps (State.commLost s j cause) := by
  unfold State.commLost
  repeat' first
    | (intro _)
    | with_reducible assumption
    | (extract_lets +onlyGivenNames x; first | (refine (fun hx => ?_ : State.Keeps s0 x → _) ?_; (on_goal 1 => clear_value x); (on_goal 2 => subst x)) | clear_value x)
    | (with_reducible first | apply State.event_keeps | apply State.inc_keeps | apply State.retryOr_keeps | apply State.iff_keeps | apply State.updVh_keeps | apply State.leaveJoin_keeps | apply State.endNow_keeps | apply State.startTimer_keeps | apply State.setFlag_keeps | apply State.tlsDown_keeps)
    | with_reducible exact fun _ h => h
    | split
    | (fail_if_no_progress beta_reduce)

theorem State.reply_keeps {s0 s : State} (h : s0.Keeps s) (j : Nat) (code : Nat) (loop : Bool) :
    s0.Keeps (State.reply s j code loop) := by
  unfold State.reply
  repeat' first
    | (intro _)
    | with_reducible assumption
    | (extract_lets +onlyGivenNames x; first | (refine (fun hx => ?_ : State.Keeps s0 x → _) ?_; (on_goal 1 => clear_value x); (on_goal 2 => subst x)) | clear_value x)
    | (with_reducible first | apply State.updVh_keeps | apply State.setSat_keeps | apply State.iff_keeps | apply State.event_keeps | apply State.startTimer_keeps)
    | with_reducible exact fun _ h => h
    | split
    | (fail_if_no_progress beta_reduce)

theorem State.respond_keeps {s0 s : State} (h : s0.Keeps s) (j : Nat) (code : Nat) :
    s0.Keeps (State.respond s j code) := by
  unfold State.respond
  repeat' first
    | (intro _)
    | with_reducible assumption
    | (with_reducible first | apply State.reply_keeps)
    | with_reducible exact fun _ h => h
    | split

theorem State.seqError_keeps {s0 s : State} (h : s0.Keeps s) (j : Nat) :
    s0.Keeps (State.seqError s j) := by
  unfold State.seqError
  repeat' first
    | (intro _)
    | with_reducible assumption
    | (extract_lets +onlyGivenNames x; first | (refine (fun hx => ?_ : State.Keeps s0 x → _) ?_; (on_goal 1 => clear_value x); (on_goal 2 => subst x)) | clear_value x)
    | (with_reducible first | apply State.respond_keeps | apply State.endNow_keeps | apply State.finish_keeps)
    | with_reducible exact fun _ h => h
    | split
    | (fail_if_no_progress beta_reduce)

theorem State.request_keeps {s0 s : State} (h : s0.Keeps s) (j : Nat) (ok : Bool) (f : State → State) (hf : ∀ z0, s0.Keeps z0 → s0.Keeps (f z0)) :
    s0.Keeps (State.request s j ok f) := by
  unfold State.request
  repeat' first
    | (intro _)
    | with_reducible assumption
    | (extract_lets +onlyGivenNames x; first | (refine (fun hx => ?_ : State.Keeps s0 x → _) ?_; (on_goal 1 => clear_value x); (on_goal 2 => subst x)) | clear_value x)
    | (with_reducible first | apply hf | apply State.stopTimer_keeps | apply State.seqError_keeps)
    | with_reducible exact fun _ h => h
    | split
    | (fail_if_no_progress beta_reduce)

theorem State.postAuth_keeps {s0 s : State} (h : s0.Keeps s) (j : Nat) (idType : Nat) (ident : List Byte) (payload : List Byte) :
    s0.Keeps (State.postAuth s j idType ident payload) := by
  unfold State.postAuth
  repeat' first
    | (intro _)
    | with_reducible assumption
    | (extract_lets +onlyGivenNames x; first | (refine (fun hx => ?_ : State.Keeps s0 x → _) ?_; (on_goal 1 => clear_value x); (on_goal 2 => subst x)) | clear_value x)
    | (with_reducible first | apply State.tokSettle_keeps | apply State.iff_keeps | apply State.updVh_keeps | apply State.startTimer_keeps)
    | split
    | (with_reducible apply State.mk_keeps; (rotate_left); all_goals first | with_reducible rfl | exact upd_length _ _ _ | exact List.length_map _ | skip)
    | with_reducible exact fun _ h => h
    | split

theorem State.postCert_keeps {s0 s : State} (h : s0.Keeps s) (j : Nat) (payload : List Byte) :
    s0.Keeps (State.postCert s j payload) := by
  unfold State.postCert
  repeat' first
    | (intro _)
    | with_reducible assumption
    | (extract_lets +onlyGivenNames x; first | (refine (fun hx => ?_ : State.Keeps s0 x → _) ?_; (on_goal 1 => clear_value x); (on_goal 2 => subst x)) | (have y : State → State := x; clear y; subst x) | (have y : State → _ → State := x; clear y; subst x) | (have y : _ → State → State := x; clear y; subst x) | (have y : _ → _ → State → State := x; clear y; subst x) | (have y : State → _ → _ → State := x; clear y; subst x) | (have y : State → _ → State × _ := x; clear y; subst x) | clear_value x)
    | (with_reducible first | apply State.startTimer_keeps | apply State.updVh_keeps)
    | split
    | (with_reducible apply State.mk_keeps; (rotate_left); all_goals first | with_reducible rfl | exact upd_length _ _ _ | exact List.length_map _ | skip)
    | with_reducible exact fun _ h => h
    | split
    | (fail_if_no_progress beta_reduce)

theorem State.passAuth_keeps {s0 s : State} (h : s0.Keeps s) (j : Nat) :
    s0.Keeps (State.passAuth s j) := by
  unfold State.passAuth
  repeat' first
    | (intro _)
    | with_reducible assumption
    | (extract_lets +onlyGivenNames x; first | (refine (fun hx => ?_ : State.Keeps s0 x → _) ?_; (on_goal 1 => clear_value x); (on_goal 2 => subst x)) | clear_value x)
    | (with_reducible first | apply State.endNow_keeps | apply State.updVh_keeps | apply State.stopTimer_keeps | apply State.iff_keeps | apply State.startTimer_keeps | apply State.setSState_keeps)
    | with_reducible exact fun _ h => h
    | split
    | (fail_if_no_progress beta_reduce)

theorem State.joinTo_keeps {s0 s : State} (h : s0.Keeps s) (j : Nat) (k : Nat) :
    s0.Keeps (State.joinTo s j k) := by
  unfold State.joinTo
  repeat' first
    | (intro _)
    | with_reducible assumption
    | (extract_lets +onlyGivenNames x; first | (refine (fun hx => ?_ : State.Keeps s0 x → _) ?_; (on_goal 1 => clear_value x); (on_goal 2 => subst x)) | (have y : State → State := x; clear y; subst x) | (have y : State → _ → State := x; clear y; subst x) | (have y : _ → State → State := x; clear y; subst x) | (have y : _ → _ → State → State := x; clear y; subst x) | (have y : State → _ → _ → State := x; clear y; subst x) | (have y : State → _ → State × _ := x; clear y; subst x) | clear_value x)
    | (with_reducible first | apply State.iff_keeps | apply State.updVh_keeps | apply State.stopTimer_keeps | apply State.tokSettle_keeps | apply State.setFlag_keeps | apply State.event_keeps)
    | split
    | (with_reducible apply State.mk_keeps; (rotate_left); all_goals first | with_reducible rfl | exact upd_length _ _ _ | exact List.length_map _ | skip)
    | with_reducible exact fun _ h => h
    | split
    | (fail_if_no_progress beta_reduce)

theorem State.unplug_keeps {s0 s : State} (h : s0.Keeps s) (j : Nat) :
    s0.Keeps (State.unplug s j) := by
  unfold State.unplug
  repeat' first
    | (intro _)
    | with_reducible assumption
    | (extract_lets +onlyGivenNames x; first | (refine (fun hx => ?_ : State.Keeps s0 x → _) ?_; (on_goal 1 => clear_value x); (on_goal 2 => subst x)) | clear_value x)
    | (with_reducible first | apply State.leaveJoin_keeps | apply State.stopTimer_keeps | apply State.quiet_keeps | apply State.updVh_keeps | apply State.dropReqs_keeps | apply State.setFlag_keeps | apply State.tlsDown_keeps | apply State.setSState_keeps)
    | with_reducible exact fun _ h => h
    | split
    | (fail_if_no_progress beta_reduce)

theorem State.untold_keeps {s0 s : State} (h : s0.Keeps s) (j : Nat) :
    s0.Keeps (State.untold s j) := by
  unfold State.untold
  repeat' first
    | (intro _)
    | with_reducible assumption
    | (with_reducible first | apply State.updSh_keeps)
    | with_reducible exact fun _ h => h
    | split

theorem State.plugIn_keeps {s0 s : State} (h : s0.Keeps s) (j : Nat) :
    s0.Keeps (State.plugIn s j) := by
  unfold State.plugIn
  repeat' first
    | (intro _)
    | with_reducible assumption
    | (extract_lets +onlyGivenNames x; first | (refine (fun hx => ?_ : State.Keeps s0 x → _) ?_; (on_goal 1 => clear_value x); (on_goal 2 => subst x)) | (have y : State → State := x; clear y; subst x) | (have y : State → _ → State := x; clear y; subst x) | (have y : _ → State → State := x; clear y; subst x) | (have y : _ → _ → State → State := x; clear y; subst x) | (have y : State → _ → _ → State := x; clear y; subst x) | (have y : State → _ → State × _ := x; clear y; subst x) | clear_value x)
    | (with_reducible first | apply State.updVh_keeps | apply State.setFld_keeps | apply State.untold_keeps | apply State.setReg_keeps | apply State.iff_keeps | apply State.setSState_keeps | apply State.startTimer_keeps)
    | split
    | (with_reducible apply State.mk_keeps; (rotate_left); all_goals first | with_reducible rfl | exact upd_length _ _ _ | exact List.length_map _ | skip)
    | with_reducible exact fun _ h => h
    | split
    | (fail_if_no_progress beta_reduce)

theorem State.signalFault_keeps {s0 s : State} (h : s0.Keeps s) (j : Nat) :
    s0.Keeps (State.signalFault s j) := by
  unfold State.signalFault
  repeat' first
    | (intro _)
    | with_reducible assumption
    | (extract_lets +onlyGivenNames x; first | (refine (fun hx => ?_ : State.Keeps s0 x → _) ?_; (on_goal 1 => clear_value x); (on_goal 2 => subst x)) | clear_value x)
    | (with_reducible first | apply State.dropReqs_keeps | apply State.leaveJoin_keeps | apply State.stopTimer_keeps | apply State.quiet_keeps | apply State.endPause_keeps | apply State.updVh_keeps | apply State.setSState_keeps | apply State.iff_keeps | apply State.setFld_keeps)
    | with_reducible exact fun _ h => h
    | split
    | (fail_if_no_progress beta_reduce)

theorem State.acceptPilot_keeps {s0 s : State} (h : s0.Keeps s) (j : Nat) (st : Nat) (diode : Bool) :
    s0.Keeps (State.acceptPilot s j st diode) := by
  unfold State.acceptPilot
  repeat' first
    | (intro _)
    | with_reducible assumption
    | (extract_lets +onlyGivenNames x; first | (refine (fun hx => ?_ : State.Keeps s0 x → _) ?_; (on_goal 1 => clear_value x); (on_goal 2 => subst x)) | clear_value x)
    | (with_reducible first | apply State.setFld_keeps | apply State.event_keeps | apply State.inc_keeps | apply State.iff_keeps | apply State.signalFault_keeps | apply State.unplug_keeps | apply State.stopNow_keeps | apply State.plugIn_keeps)
    | with_reducible exact fun _ h => h
    | split
    | (fail_if_no_progress beta_reduce)

theorem execPilotStateAccepted_keeps (s : State) (out : Fin 8) (high : List Int) (low : List Int) :
    State.KeepsOut s (execPilotStateAccepted out high low s) := by
  unfold execPilotStateAccepted
  first | apply State.live_keeps | apply keepsOut_next
  repeat' first
    | (intro _)
    | with_reducible assumption
    | (extract_lets +onlyGivenNames x; first | (refine (fun hx => ?_ : State.Keeps s x → _) ?_; (on_goal 1 => clear_value x); (on_goal 2 => subst x)) | clear_value x)
    | with_reducible exact State.Keeps.refl _
    | (with_reducible first | apply State.acceptPilot_keeps | apply State.setFldS_keeps)
    | with_reducible exact fun _ h => h
    | split

theorem execMcsLineStateAccepted_keeps (s : State) (out : Fin 8) (isId : Bool) (mv : List Int) :
    State.KeepsOut s (execMcsLineStateAccepted out isId mv s) := by
  unfold execMcsLineStateAccepted
  first | apply State.live_keeps | apply State.liveOn_keeps | apply keepsOut_next
  repeat' first
    | (intro _)
    | with_reducible assumption
    | (extract_lets +onlyGivenNames x; first | (refine (fun hx => ?_ : State.Keeps s x → _) ?_; (on_goal 1 => clear_value x); (on_goal 2 => subst x)) | clear_value x)
    | with_reducible exact State.Keeps.refl _
    | (with_reducible first | apply State.updVh_keeps | apply State.setFldS_keeps | apply State.unplug_keeps | apply State.plugIn_keeps | apply State.iff_keeps | apply State.signalFault_keeps | apply State.event_keeps | apply State.inc_keeps | apply State.acceptPilot_keeps)
    | with_reducible exact fun _ h => h
    | split
    | (fail_if_no_progress beta_reduce)

theorem execCmSlacParmReq_keeps (s : State) (out : Fin 8) :
    State.KeepsOut s (execCmSlacParmReq out s) := by
  unfold execCmSlacParmReq
  first | apply State.live_keeps | apply State.liveOn_keeps | apply keepsOut_next
  repeat' first
    | (intro _)
    | with_reducible assumption
    | (extract_lets +onlyGivenNames x; first | (refine (fun hx => ?_ : State.Keeps s x → _) ?_; (on_goal 1 => clear_value x); (on_goal 2 => subst x)) | (refine (fun hx => ?_ : State.Keeps s x.1 → _) ?_; (on_goal 1 => clear_value x); (on_goal 2 => subst x)) | (refine (fun hx => ?_ : State.Keeps s x.2 → _) ?_; (on_goal 1 => clear_value x); (on_goal 2 => subst x)) | clear_value x)
    | with_reducible exact State.Keeps.refl _
    | (with_reducible first | apply State.draw_keeps | apply State.updVh_keeps)
    | with_reducible exact fun _ h => h
    | split
    | (fail_if_no_progress beta_reduce)

theorem execCmValidate_keeps (s : State) (out : Fin 8) :
    State.KeepsOut s (execCmValidate out s) := by
  unfold execCmValidate
  first | apply State.live_keeps | apply keepsOut_next
  repeat' first
    | (intro _)
    | with_reducible assumption
    | with_reducible exact State.Keeps.refl _
    | (with_reducible first | apply State.updVh_keeps)
    | with_reducible exact fun _ h => h
    | split

theorem State.linkUp_keeps {s0 s : State} (h : s0.Keeps s) (j : Nat) :
    s0.Keeps (State.linkUp s j) := by
  unfold State.linkUp
  repeat' first
    | (intro _)
    | with_reducible assumption
    | (extract_lets +onlyGivenNames x; first | (refine (fun hx => ?_ : State.Keeps s0 x → _) ?_; (on_goal 1 => clear_value x); (on_goal 2 => subst x)) | clear_value x)
    | (with_reducible first | apply State.setFlag_keeps | apply State.startTimer_keeps | apply State.stopTimer_keeps | apply State.setSState_keeps)
    | with_reducible exact fun _ h => h
    | split

theorem execSlacMatch_keeps (s : State) (out : Fin 8) (profile : List Byte) :
    State.KeepsOut s (execSlacMatch out profile s) := by
  unfold execSlacMatch
  first | apply State.live_keeps | apply State.liveOn_keeps | apply keepsOut_next
  repeat' first
    | (intro _)
    | with_reducible assumption
    | with_reducible exact State.Keeps.refl _
    | (with_reducible first | apply State.linkUp_keeps | apply State.updVh_keeps)
    | with_reducible exact fun _ h => h
    | split

theorem execPlcaLinkUp_keeps (s : State) (out : Fin 8) :
    State.KeepsOut s (execPlcaLinkUp out s) := by
  unfold execPlcaLinkUp
  first | apply State.live_keeps | apply keepsOut_next
  repeat' first
    | (intro _)
    | with_reducible assumption
    | with_reducible exact State.Keeps.refl _
    | (with_reducible first | apply State.linkUp_keeps)
    | with_reducible exact fun _ h => h
    | split

theorem execPhySignalLost_keeps (s : State) (out : Fin 8) :
    State.KeepsOut s (execPhySignalLost out s) := by
  unfold execPhySignalLost
  first | apply State.live_keeps | apply keepsOut_next
  repeat' first
    | (intro _)
    | with_reducible assumption
    | with_reducible exact State.Keeps.refl _
    | (with_reducible first | apply State.commLost_keeps)
    | with_reducible exact fun _ h => h
    | split

theorem execSeccDiscoveryReq_keeps (s : State) (out : Fin 8) :
    State.KeepsOut s (execSeccDiscoveryReq out s) := by
  unfold execSeccDiscoveryReq
  first | apply State.live_keeps | apply keepsOut_next
  repeat' first
    | (intro _)
    | with_reducible assumption
    | with_reducible exact State.Keeps.refl _
    | (with_reducible first | apply State.updVh_keeps)
    | with_reducible exact fun _ h => h
    | split

theorem State.tlsFailed_keeps {s0 s : State} (h : s0.Keeps s) (j : Nat) :
    s0.Keeps (State.tlsFailed s j) := by
  unfold State.tlsFailed
  repeat' first
    | (intro _)
    | with_reducible assumption
    | (with_reducible first | apply State.commLost_keeps | apply State.inc_keeps | apply State.event_keeps)
    | with_reducible exact fun _ h => h
    | split

theorem execTcpClosed_keeps (s : State) (out : Fin 8) :
    State.KeepsOut s (execTcpClosed out s) := by
  unfold execTcpClosed
  first | apply State.live_keeps | apply State.liveOn_keeps | apply keepsOut_next
  repeat' first
    | (intro _)
    | with_reducible assumption
    | with_reducible exact State.Keeps.refl _
    | (with_reducible first | apply State.commLost_keeps | apply State.updVh_keeps | apply State.tlsDown_keeps)
    | with_reducible exact fun _ h => h
    | split

theorem execSupportedAppProtocolReq_keeps (s : State) (out : Fin 8) (din : Bool) (iso2 : Bool) (iso20 : Bool) :
    State.KeepsOut s (execSupportedAppProtocolReq out din iso2 iso20 s) := by
  unfold execSupportedAppProtocolReq
  first | apply State.live_keeps | apply keepsOut_next
  repeat' first
    | (intro _)
    | with_reducible assumption
    | (extract_lets +onlyGivenNames x; first | (refine (fun hx => ?_ : State.Keeps s x → _) ?_; (on_goal 1 => clear_value x); (on_goal 2 => subst x)) | clear_value x)
    | with_reducible exact State.Keeps.refl _
    | (with_reducible first | apply State.updVh_keeps | apply State.setFld_keeps | apply State.endNow_keeps | apply State.request_keeps | apply State.respond_keeps | apply State.event_keeps)
    | with_reducible exact fun _ h => h
    | split

theorem State.portShow_keeps {s0 s : State} (h : s0.Keeps s) (n : Nat) (st : Nat) :
    s0.Keeps (State.portShow s n st) := by
  unfold State.portShow
  repeat' first
    | (intro _)
    | with_reducible assumption
    | (with_reducible first | apply State.setFld_keeps)
    | with_reducible exact fun _ h => h
    | split

theorem State.enterAuth_keeps {s0 s : State} (h : s0.Keeps s) (j : Nat) :
    s0.Keeps (State.enterAuth s j) := by
  unfold State.enterAuth
  repeat' first
    | (intro _)
    | with_reducible assumption
    | (extract_lets +onlyGivenNames x; first | (refine (fun hx => ?_ : State.Keeps s0 x → _) ?_; (on_goal 1 => clear_value x); (on_goal 2 => subst x)) | (have y : State → State := x; clear y; subst x) | (have y : State → _ → State := x; clear y; subst x) | (have y : _ → State → State := x; clear y; subst x) | (have y : _ → _ → State → State := x; clear y; subst x) | (have y : State → _ → _ → State := x; clear y; subst x) | (have y : State → _ → State × _ := x; clear y; subst x) | clear_value x)
    | (with_reducible first | apply State.updVh_keeps | apply State.setSState_keeps | apply State.portShow_keeps | apply State.startTimer_keeps | apply State.stopTimer_keeps | apply State.event_keeps | apply State.postAuth_keeps)
    | split
    | (with_reducible apply State.mk_keeps; (rotate_left); all_goals first | with_reducible rfl | exact upd_length _ _ _ | exact List.length_map _ | skip)
    | with_reducible exact fun _ h => h
    | split
    | (fail_if_no_progress beta_reduce)

theorem State.resume_keeps {s0 s : State} (h : s0.Keeps s) (j : Nat) :
    s0.Keeps (State.resume s j) := by
  unfold State.resume
  repeat' first
    | (intro _)
    | with_reducible assumption
    | (extract_lets +onlyGivenNames x; first | (refine (fun hx => ?_ : State.Keeps s0 x → _) ?_; (on_goal 1 => clear_value x); (on_goal 2 => subst x)) | clear_value x)
    | (with_reducible first | apply State.updVh_keeps | apply State.stopTimer_keeps | apply State.event_keeps | apply State.joinTo_keeps | apply State.setSState_keeps | apply State.enterAuth_keeps)
    | with_reducible exact fun _ h => h
    | split
    | (fail_if_no_progress beta_reduce)

theorem execSessionSetupReq_keeps (s : State) (out : Fin 8) (session : Nat) (evccid : BitVec 48) :
    State.KeepsOut s (execSessionSetupReq out session evccid s) := by
  unfold execSessionSetupReq
  first | apply State.live_keeps | apply State.liveOn_keeps | apply keepsOut_next
  repeat' first
    | (intro _)
    | with_reducible assumption
    | (extract_lets +onlyGivenNames x; first | (refine (fun hx => ?_ : State.Keeps s x → _) ?_; (on_goal 1 => clear_value x); (on_goal 2 => subst x)) | (have y : State → State := x; clear y; subst x) | (have y : State → _ → State := x; clear y; subst x) | (have y : _ → State → State := x; clear y; subst x) | (have y : _ → _ → State → State := x; clear y; subst x) | (have y : State → _ → _ → State := x; clear y; subst x) | (have y : State → _ → State × _ := x; clear y; subst x) | clear_value x)
    | with_reducible exact State.Keeps.refl _
    | (with_reducible first | apply State.request_keeps | apply State.stopTimer_keeps | apply State.setFld_keeps | apply State.respond_keeps | apply State.resume_keeps | apply State.leaveJoin_keeps | apply State.setSState_keeps | apply State.updVh_keeps | apply State.untold_keeps | apply State.joinTo_keeps)
    | split
    | (with_reducible apply State.mk_keeps; (rotate_left); all_goals first | with_reducible rfl | exact upd_length _ _ _ | exact List.length_map _ | skip)
    | with_reducible exact fun _ h => h
    | split
    | (fail_if_no_progress beta_reduce)

theorem execServiceDiscoveryReq_keeps (s : State) (out : Fin 8) :
    State.KeepsOut s (execServiceDiscoveryReq out s) := by
  unfold execServiceDiscoveryReq
  first | apply State.live_keeps | apply State.liveOn_keeps | apply keepsOut_next
  repeat' first
    | (intro _)
    | with_reducible assumption
    | with_reducible exact State.Keeps.refl _
    | (with_reducible first | apply State.request_keeps | apply State.updVh_keeps | apply State.respond_keeps)
    | with_reducible exact fun _ h => h
    | split

theorem execServiceDetailReq_keeps (s : State) (out : Fin 8) :
    State.KeepsOut s (execServiceDetailReq out s) := by
  unfold execServiceDetailReq
  first | apply State.live_keeps | apply State.liveOn_keeps | apply keepsOut_next
  repeat' first
    | (intro _)
    | with_reducible assumption
    | with_reducible exact State.Keeps.refl _
    | (with_reducible first | apply State.request_keeps | apply State.respond_keeps)
    | with_reducible exact fun _ h => h
    | split

theorem execServiceSelectionReq_keeps (s : State) (out : Fin 8) (bpt : Bool) (dynamic : Bool) :
    State.KeepsOut s (execServiceSelectionReq out bpt dynamic s) := by
  unfold execServiceSelectionReq
  first | apply State.live_keeps | apply State.liveOn_keeps | apply keepsOut_next
  repeat' first
    | (intro _)
    | with_reducible assumption
    | with_reducible exact State.Keeps.refl _
    | (with_reducible first | apply State.request_keeps | apply State.respond_keeps | apply State.event_keeps | apply State.updVh_keeps)
    | with_reducible exact fun _ h => h
    | split

theorem execPaymentSelectionReq_keeps (s : State) (out : Fin 8) (contract : Bool) :
    State.KeepsOut s (execPaymentSelectionReq out contract s) := by
  unfold execPaymentSelectionReq
  first | apply State.live_keeps | apply State.liveOn_keeps | apply keepsOut_next
  repeat' first
    | (intro _)
    | with_reducible assumption
    | (extract_lets +onlyGivenNames x; first | (refine (fun hx => ?_ : State.Keeps s x → _) ?_; (on_goal 1 => clear_value x); (on_goal 2 => subst x)) | clear_value x)
    | with_reducible exact State.Keeps.refl _
    | (with_reducible first | apply State.request_keeps | apply State.respond_keeps | apply State.enterAuth_keeps | apply State.updVh_keeps)
    | with_reducible exact fun _ h => h
    | split
    | (fail_if_no_progress beta_reduce)

theorem execPaymentDetailsReq_keeps (s : State) (out : Fin 8) (emaid : List Byte) (chain : List Byte) :
    State.KeepsOut s (execPaymentDetailsReq out emaid chain s) := by
  unfold execPaymentDetailsReq
  first | apply State.live_keeps | apply State.liveOn_keeps | apply keepsOut_next
  repeat' first
    | (intro _)
    | with_reducible assumption
    | (extract_lets +onlyGivenNames x; first | (refine (fun hx => ?_ : State.Keeps s x → _) ?_; (on_goal 1 => clear_value x); (on_goal 2 => subst x)) | clear_value x)
    | with_reducible exact State.Keeps.refl _
    | (with_reducible first | apply State.request_keeps | apply State.updVh_keeps | apply State.respond_keeps | apply State.iff_keeps | apply State.postAuth_keeps)
    | with_reducible exact fun _ h => h
    | split
    | (fail_if_no_progress beta_reduce)

theorem execCertificateInstallationReq_keeps (s : State) (out : Fin 8) (payload : List Byte) :
    State.KeepsOut s (execCertificateInstallationReq out payload s) := by
  unfold execCertificateInstallationReq
  first | apply State.live_keeps | apply State.liveOn_keeps | apply keepsOut_next
  repeat' first
    | (intro _)
    | with_reducible assumption
    | (extract_lets +onlyGivenNames x; first | (refine (fun hx => ?_ : State.Keeps s x → _) ?_; (on_goal 1 => clear_value x); (on_goal 2 => subst x)) | clear_value x)
    | with_reducible exact State.Keeps.refl _
    | (with_reducible first | apply State.request_keeps | apply State.updVh_keeps | apply State.respond_keeps | apply State.postCert_keeps)
    | with_reducible exact fun _ h => h
    | split
    | (fail_if_no_progress beta_reduce)

theorem execAuthorizationReq_keeps (s : State) (out : Fin 8) (ident : List Byte) (chain : List Byte) :
    State.KeepsOut s (execAuthorizationReq out ident chain s) := by
  unfold execAuthorizationReq
  first | apply State.live_keeps | apply State.liveOn_keeps | apply keepsOut_next
  repeat' first
    | (intro _)
    | with_reducible assumption
    | (extract_lets +onlyGivenNames x; first | (refine (fun hx => ?_ : State.Keeps s x → _) ?_; (on_goal 1 => clear_value x); (on_goal 2 => subst x)) | clear_value x)
    | with_reducible exact State.Keeps.refl _
    | (with_reducible first | apply State.request_keeps | apply State.endNow_keeps | apply State.respond_keeps | apply State.iff_keeps | apply State.setSState_keeps | apply State.passAuth_keeps | apply State.updVh_keeps | apply State.postAuth_keeps)
    | with_reducible exact fun _ h => h
    | split
    | (fail_if_no_progress beta_reduce)

theorem State.takeValues_keeps {s0 s : State} (h : s0.Keeps s) (j : Nat) (q : VehValues) :
    s0.Keeps (State.takeValues s j q) := by
  unfold State.takeValues
  repeat' first
    | (intro _)
    | with_reducible assumption
    | (extract_lets +onlyGivenNames x; first | (refine (fun hx => ?_ : State.Keeps s0 x → _) ?_; (on_goal 1 => clear_value x); (on_goal 2 => subst x)) | clear_value x)
    | (with_reducible first | apply State.setSat_keeps | apply State.updVh_keeps | apply State.setFldS_keeps)
    | with_reducible exact fun _ h => h
    | split

theorem State.valuesReq_keeps {s0 s : State} (h : s0.Keeps s) (j : Nat) (q : VehValues) (loop : Bool) :
    s0.Keeps (State.valuesReq s j q loop) := by
  unfold State.valuesReq
  repeat' first
    | (intro _)
    | with_reducible assumption
    | (with_reducible first | apply State.reply_keeps | apply State.event_keeps | apply State.takeValues_keeps)
    | with_reducible exact fun _ h => h
    | split

theorem execChargeParameterDiscoveryReq_keeps (s : State) (out : Fin 8) (v : VehValues) :
    State.KeepsOut s (execChargeParameterDiscoveryReq out v s) := by
  unfold execChargeParameterDiscoveryReq
  first | apply State.live_keeps | apply State.liveOn_keeps | apply keepsOut_next
  repeat' first
    | (intro _)
    | with_reducible assumption
    | with_reducible exact State.Keeps.refl _
    | (with_reducible first | apply State.request_keeps | apply State.updVh_keeps | apply State.valuesReq_keeps)
    | with_reducible exact fun _ h => h
    | split

theorem execScheduleExchangeReq_keeps (s : State) (out : Fin 8) :
    State.KeepsOut s (execScheduleExchangeReq out s) := by
  unfold execScheduleExchangeReq
  first | apply State.live_keeps | apply State.liveOn_keeps | apply keepsOut_next
  repeat' first
    | (intro _)
    | with_reducible assumption
    | with_reducible exact State.Keeps.refl _
    | (with_reducible first | apply State.request_keeps | apply State.updVh_keeps | apply State.respond_keeps)
    | with_reducible exact fun _ h => h
    | split

theorem execCableCheckReq_keeps (s : State) (out : Fin 8) :
    State.KeepsOut s (execCableCheckReq out s) := by
  unfold execCableCheckReq
  first | apply State.live_keeps | apply State.liveOn_keeps | apply keepsOut_next
  repeat' first
    | (intro _)
    | with_reducible assumption
    | (extract_lets +onlyGivenNames x; first | (refine (fun hx => ?_ : State.Keeps s x → _) ?_; (on_goal 1 => clear_value x); (on_goal 2 => subst x)) | clear_value x)
    | with_reducible exact State.Keeps.refl _
    | (with_reducible first | apply State.request_keeps | apply State.respond_keeps | apply State.updVh_keeps | apply State.stopTimer_keeps | apply State.startTimer_keeps | apply State.setSState_keeps | apply State.iff_keeps)
    | with_reducible exact fun _ h => h
    | split
    | (fail_if_no_progress beta_reduce)

theorem State.insulGood_keeps {s0 s : State} (h : s0.Keeps s) (j : Nat) :
    s0.Keeps (State.insulGood s j) := by
  unfold State.insulGood
  repeat' first
    | (intro _)
    | with_reducible assumption
    | (with_reducible first | apply State.updVh_keeps | apply State.stopTimer_keeps | apply State.setSState_keeps)
    | with_reducible exact fun _ h => h
    | split

theorem State.preCheck_keeps {s0 s : State} (h : s0.Keeps s) (j : Nat) :
    s0.Keeps (State.preCheck s j) := by
  unfold State.preCheck
  repeat' first
    | (intro _)
    | with_reducible assumption
    | (with_reducible first | apply State.updVh_keeps | apply State.stopTimer_keeps)
    | with_reducible exact fun _ h => h
    | split

theorem execPrechargeReq_keeps (s : State) (out : Fin 8) (vTgt : Nat) :
    State.KeepsOut s (execPrechargeReq out vTgt s) := by
  unfold execPrechargeReq
  first | apply State.live_keeps | apply keepsOut_next
  repeat' first
    | (intro _)
    | with_reducible assumption
    | (extract_lets +onlyGivenNames x; first | (refine (fun hx => ?_ : State.Keeps s x → _) ?_; (on_goal 1 => clear_value x); (on_goal 2 => subst x)) | clear_value x)
    | with_reducible exact State.Keeps.refl _
    | (with_reducible first | apply State.iff_keeps | apply State.setSat_keeps | apply State.updVh_keeps | apply State.startTimer_keeps | apply State.request_keeps | apply State.respond_keeps | apply State.preCheck_keeps)
    | with_reducible exact fun _ h => h
    | split

theorem execPowerDeliveryReq_keeps (s : State) (out : Fin 8) (kind : PowerKind) :
    State.KeepsOut s (execPowerDeliveryReq out kind s) := by
  unfold execPowerDeliveryReq
  first | apply State.live_keeps | apply State.liveOn_keeps | apply keepsOut_next
  repeat' first
    | (intro _)
    | with_reducible assumption
    | (extract_lets +onlyGivenNames x; first | (refine (fun hx => ?_ : State.Keeps s x → _) ?_; (on_goal 1 => clear_value x); (on_goal 2 => subst x)) | clear_value x)
    | with_reducible exact State.Keeps.refl _
    | (with_reducible first | apply State.request_keeps | apply State.respond_keeps | apply State.setSState_keeps | apply State.endNow_keeps | apply State.stopNow_keeps | apply State.stopTimer_keeps)
    | with_reducible exact fun _ h => h
    | split
    | (fail_if_no_progress beta_reduce)

theorem execChargeLoopReq_keeps (s : State) (out : Fin 8) (v : VehValues) :
    State.KeepsOut s (execChargeLoopReq out v s) := by
  unfold execChargeLoopReq
  first | apply State.live_keeps | apply State.liveOn_keeps | apply keepsOut_next
  repeat' first
    | (intro _)
    | with_reducible assumption
    | with_reducible exact State.Keeps.refl _
    | (with_reducible first | apply State.request_keeps | apply State.valuesReq_keeps | apply State.stopTimer_keeps)
    | with_reducible exact fun _ h => h
    | split

theorem execMeteringReceiptReq_keeps (s : State) (out : Fin 8) :
    State.KeepsOut s (execMeteringReceiptReq out s) := by
  unfold execMeteringReceiptReq
  first | apply State.live_keeps | apply keepsOut_next
  repeat' first
    | (intro _)
    | with_reducible assumption
    | with_reducible exact State.Keeps.refl _
    | (with_reducible first | apply State.request_keeps | apply State.respond_keeps)
    | with_reducible exact fun _ h => h
    | split

theorem execWeldingDetectionReq_keeps (s : State) (out : Fin 8) :
    State.KeepsOut s (execWeldingDetectionReq out s) := by
  unfold execWeldingDetectionReq
  first | apply State.live_keeps | apply keepsOut_next
  repeat' first
    | (intro _)
    | with_reducible assumption
    | with_reducible exact State.Keeps.refl _
    | (with_reducible first | apply State.request_keeps | apply State.respond_keeps)
    | with_reducible exact fun _ h => h
    | split

theorem execSessionStopReq_keeps (s : State) (out : Fin 8) :
    State.KeepsOut s (execSessionStopReq out s) := by
  unfold execSessionStopReq
  first | apply State.live_keeps | apply keepsOut_next
  repeat' first
    | (intro _)
    | with_reducible assumption
    | with_reducible exact State.Keeps.refl _
    | (with_reducible first | apply State.endNow_keeps | apply State.request_keeps | apply State.respond_keeps)
    | with_reducible exact fun _ h => h
    | split

theorem execUnsupportedRequest_keeps (s : State) (out : Fin 8) :
    State.KeepsOut s (execUnsupportedRequest out s) := by
  unfold execUnsupportedRequest
  first | apply State.live_keeps | apply keepsOut_next
  repeat' first
    | (intro _)
    | with_reducible assumption
    | with_reducible exact State.Keeps.refl _
    | (with_reducible first | apply State.request_keeps | apply id_keeps)
    | with_reducible exact fun _ h => h
    | split

theorem execSlacTmo_keeps (s : State) (out : Fin 8) :
    State.KeepsOut s (execSlacTmo out s) := by
  unfold execSlacTmo
  first | apply State.live_keeps | apply keepsOut_next
  repeat' first
    | (intro _)
    | with_reducible assumption
    | with_reducible exact State.Keeps.refl _
    | (with_reducible first | apply State.commLost_keeps | apply State.expired_keeps)
    | with_reducible exact fun _ h => h
    | split

theorem execSetupTmo_keeps (s : State) (out : Fin 8) :
    State.KeepsOut s (execSetupTmo out s) := by
  unfold execSetupTmo
  first | apply State.live_keeps | apply keepsOut_next
  repeat' first
    | (intro _)
    | with_reducible assumption
    | with_reducible exact State.Keeps.refl _
    | (with_reducible first | apply State.commLost_keeps | apply State.expired_keeps)
    | with_reducible exact fun _ h => h
    | split

theorem execSeqTmo_keeps (s : State) (out : Fin 8) :
    State.KeepsOut s (execSeqTmo out s) := by
  unfold execSeqTmo
  first | apply State.live_keeps | apply keepsOut_next
  repeat' first
    | (intro _)
    | with_reducible assumption
    | with_reducible exact State.Keeps.refl _
    | (with_reducible first | apply State.commLost_keeps | apply State.expired_keeps | apply State.stopTimer_keeps)
    | with_reducible exact fun _ h => h
    | split

theorem execAuthTmo_keeps (s : State) (out : Fin 8) :
    State.KeepsOut s (execAuthTmo out s) := by
  unfold execAuthTmo
  first | apply State.live_keeps | apply keepsOut_next
  repeat' first
    | (intro _)
    | with_reducible assumption
    | (extract_lets +onlyGivenNames x; first | (refine (fun hx => ?_ : State.Keeps s x → _) ?_; (on_goal 1 => clear_value x); (on_goal 2 => subst x)) | clear_value x)
    | with_reducible exact State.Keeps.refl _
    | (with_reducible first | apply State.tokSettle_keeps | apply State.updVh_keeps | apply State.endNow_keeps | apply State.expired_keeps | apply State.stopTimer_keeps | apply State.event_keeps)
    | with_reducible exact fun _ h => h
    | split

theorem execCertTmo_keeps (s : State) (out : Fin 8) :
    State.KeepsOut s (execCertTmo out s) := by
  unfold execCertTmo
  first | apply State.live_keeps | apply keepsOut_next
  repeat' first
    | (intro _)
    | with_reducible assumption
    | with_reducible exact State.Keeps.refl _
    | (with_reducible first | apply State.updVh_keeps | apply State.expired_keeps | apply State.stopTimer_keeps | apply State.event_keeps)
    | with_reducible exact fun _ h => h
    | split

theorem execCcTmo_keeps (s : State) (out : Fin 8) :
    State.KeepsOut s (execCcTmo out s) := by
  unfold execCcTmo
  first | apply State.live_keeps | apply keepsOut_next
  repeat' first
    | (intro _)
    | with_reducible assumption
    | with_reducible exact State.Keeps.refl _
    | (with_reducible first | apply State.endNow_keeps | apply State.expired_keeps | apply State.stopTimer_keeps | apply State.event_keeps)
    | with_reducible exact fun _ h => h
    | split

theorem execPcTmo_keeps (s : State) (out : Fin 8) :
    State.KeepsOut s (execPcTmo out s) := by
  unfold execPcTmo
  first | apply State.live_keeps | apply keepsOut_next
  repeat' first
    | (intro _)
    | with_reducible assumption
    | with_reducible exact State.Keeps.refl _
    | (with_reducible first | apply State.endNow_keeps | apply State.expired_keeps | apply State.stopTimer_keeps | apply State.event_keeps)
    | with_reducible exact fun _ h => h
    | split

theorem execLoopTmo_keeps (s : State) (out : Fin 8) :
    State.KeepsOut s (execLoopTmo out s) := by
  unfold execLoopTmo
  first | apply State.live_keeps | apply keepsOut_next
  repeat' first
    | (intro _)
    | with_reducible assumption
    | with_reducible exact State.Keeps.refl _
    | (with_reducible first | apply State.commLost_keeps | apply State.expired_keeps | apply State.stopTimer_keeps)
    | with_reducible exact fun _ h => h
    | split

theorem execStopTmo_keeps (s : State) (out : Fin 8) :
    State.KeepsOut s (execStopTmo out s) := by
  unfold execStopTmo
  first | apply State.live_keeps | apply State.liveOn_keeps | apply keepsOut_next
  repeat' first
    | (intro _)
    | with_reducible assumption
    | (extract_lets +onlyGivenNames x; first | (refine (fun hx => ?_ : State.Keeps s x → _) ?_; (on_goal 1 => clear_value x); (on_goal 2 => subst x)) | clear_value x)
    | with_reducible exact State.Keeps.refl _
    | (with_reducible first | apply State.expired_keeps | apply State.stopTimer_keeps | apply State.stopNow_keeps | apply State.iff_keeps | apply State.endNow_keeps)
    | with_reducible exact fun _ h => h
    | split
    | (fail_if_no_progress beta_reduce)

theorem execResumeWin_keeps (s : State) (out : Fin 8) :
    State.KeepsOut s (execResumeWin out s) := by
  unfold execResumeWin
  first | apply State.live_keeps | apply keepsOut_next
  repeat' first
    | (intro _)
    | with_reducible assumption
    | (extract_lets +onlyGivenNames x; first | (refine (fun hx => ?_ : State.Keeps s x → _) ?_; (on_goal 1 => clear_value x); (on_goal 2 => subst x)) | clear_value x)
    | with_reducible exact State.Keeps.refl _
    | (with_reducible first | apply State.iff_keeps | apply State.endNow_keeps | apply State.expired_keeps | apply State.stopTimer_keeps)
    | with_reducible exact fun _ h => h
    | split

theorem execJoinWin_keeps (s : State) (out : Fin 8) :
    State.KeepsOut s (execJoinWin out s) := by
  unfold execJoinWin
  first | apply State.live_keeps | apply keepsOut_next
  repeat' first
    | (intro _)
    | with_reducible assumption
    | with_reducible exact State.Keeps.refl _
    | (with_reducible first | apply State.expired_keeps | apply State.stopTimer_keeps)
    | with_reducible exact fun _ h => h
    | split

theorem execLockConfirmTimeout_keeps (s : State) (out : Fin 8) :
    State.KeepsOut s (execLockConfirmTimeout out s) := by
  unfold execLockConfirmTimeout
  first | apply State.live_keeps | apply keepsOut_next
  repeat' first
    | (intro _)
    | with_reducible assumption
    | with_reducible exact State.Keeps.refl _
    | (with_reducible first | apply State.endNow_keeps | apply State.stopTimer_keeps)
    | with_reducible exact fun _ h => h
    | split

theorem execParamModeTimeout_keeps (s : State) (out : Fin 8) :
    State.KeepsOut s (execParamModeTimeout out s) := by
  unfold execParamModeTimeout
  first | apply State.live_keeps | apply keepsOut_next
  repeat' first
    | (intro _)
    | with_reducible assumption
    | with_reducible exact State.Keeps.refl _
    | (with_reducible first | apply State.endNow_keeps | apply State.stopTimer_keeps)
    | with_reducible exact fun _ h => h
    | split

theorem execStopCurrentZero_keeps (s : State) (out : Fin 8) :
    State.KeepsOut s (execStopCurrentZero out s) := by
  unfold execStopCurrentZero
  first | apply State.live_keeps | apply keepsOut_next
  repeat' first
    | (intro _)
    | with_reducible assumption
    | with_reducible exact State.Keeps.refl _
    | (with_reducible first | apply State.updVh_keeps | apply State.startTimer_keeps | apply State.setSState_keeps)
    | with_reducible exact fun _ h => h
    | split

theorem execWeldcheckTimeout_keeps (s : State) (out : Fin 8) :
    State.KeepsOut s (execWeldcheckTimeout out s) := by
  unfold execWeldcheckTimeout
  first | apply State.live_keeps | apply keepsOut_next
  repeat' first
    | (intro _)
    | with_reducible assumption
    | with_reducible exact State.Keeps.refl _
    | (with_reducible first | apply State.endNow_keeps)
    | with_reducible exact fun _ h => h
    | split

theorem execCommRetry_keeps (s : State) (out : Fin 8) :
    State.KeepsOut s (execCommRetry out s) := by
  unfold execCommRetry
  first | apply State.live_keeps | apply keepsOut_next
  repeat' first
    | (intro _)
    | with_reducible assumption
    | (extract_lets +onlyGivenNames x; first | (refine (fun hx => ?_ : State.Keeps s x → _) ?_; (on_goal 1 => clear_value x); (on_goal 2 => subst x)) | clear_value x)
    | with_reducible exact State.Keeps.refl _
    | (with_reducible first | apply State.drive_keeps | apply State.startTimer_keeps | apply State.stopTimer_keeps)
    | with_reducible exact fun _ h => h
    | split

theorem State.hostStop_keeps {s0 s : State} (h : s0.Keeps s) (j : Nat) :
    s0.Keeps (State.hostStop s j) := by
  unfold State.hostStop
  repeat' first
    | (intro _)
    | with_reducible assumption
    | (with_reducible first | apply State.iff_keeps | apply State.evseStopAll_keeps)
    | with_reducible exact fun _ h => h
    | split

theorem execVdCtrlStop_keeps (s : State) (out : Fin 8) :
    State.KeepsOut s (execVdCtrlStop out s) := by
  unfold execVdCtrlStop
  first | apply State.live_keeps | apply keepsOut_next
  repeat' first
    | (intro _)
    | with_reducible assumption
    | with_reducible exact State.Keeps.refl _
    | (with_reducible first | apply State.hostStop_keeps)
    | with_reducible exact fun _ h => h
    | split

theorem State.hostJoin_keeps {s0 s : State} (h : s0.Keeps s) (j : Nat) (k : Nat) :
    s0.Keeps (State.hostJoin s j k) := by
  unfold State.hostJoin
  repeat' first
    | (intro _)
    | with_reducible assumption
    | (with_reducible first | apply State.joinTo_keeps | apply State.event_keeps)
    | with_reducible exact fun _ h => h
    | split

theorem execVdCtrlJoin_keeps (s : State) (out : Fin 8) (earlier : BitVec 4) :
    State.KeepsOut s (execVdCtrlJoin out earlier s) := by
  unfold execVdCtrlJoin
  first | apply State.live_keeps | apply State.liveOn_keeps | apply keepsOut_next
  repeat' first
    | (intro _)
    | with_reducible assumption
    | with_reducible exact State.Keeps.refl _
    | (with_reducible first | apply State.iff_keeps | apply State.hostJoin_keeps | apply State.setFld_keeps)
    | with_reducible exact fun _ h => h
    | split

theorem State.vehStep_keeps {s0 s : State} (h : s0.Keeps s) (j : Nat) :
    s0.Keeps (State.vehStep s j) := by
  unfold State.vehStep
  repeat' first
    | (intro _)
    | with_reducible assumption
    | (extract_lets +onlyGivenNames x; first | (refine (fun hx => ?_ : State.Keeps s0 x → _) ?_; (on_goal 1 => clear_value x); (on_goal 2 => subst x)) | clear_value x)
    | (with_reducible first | apply State.updVh_keeps | apply State.iff_keeps | apply State.stopTimer_keeps | apply State.preCheck_keeps | apply State.outFailed_keeps)
    | with_reducible exact fun _ h => h
    | split
    | (fail_if_no_progress beta_reduce)

theorem State.vehTick_keeps {s0 s : State} (h : s0.Keeps s) :
    s0.Keeps (State.vehTick s) := by
  unfold State.vehTick
  repeat' first
    | (intro _)
    | with_reducible assumption
    | (with_reducible first | apply State.iff_keeps | apply State.each_keeps | apply State.vehStep_keeps)
    | with_reducible exact fun _ h => h
    | split

end Sys2Proof.Machine
end

