-- ==== Sys2Proof/Laws/KeepsSwitches.lean ====
section
/-!
SUPPORT. What every command keeps, for the operations and commands of Machine/Switches.lean.
-/

set_option linter.all false

namespace Sys2Proof.Machine

open Sys2Proof

theorem State.updPs_keeps {s0 s : State} (h : s0.Keeps s) (f : PsSt → PsSt) :
    s0.Keeps (State.updPs s f) := by
  unfold State.updPs
  repeat' first
    | (intro _)
    | with_reducible assumption
    | split
    | (with_reducible apply State.mk_keeps; (rotate_left); all_goals first | with_reducible rfl | exact upd_length _ _ _ | exact List.length_map _ | skip)
    | with_reducible exact fun _ h => h
    | split

theorem State.updPc_keeps {s0 s : State} (h : s0.Keeps s) (n : Nat) (f : PsChan → PsChan) :
    s0.Keeps (State.updPc s n f) := by
  unfold State.updPc
  repeat' first
    | (intro _)
    | with_reducible assumption
    | (with_reducible first | apply State.updPs_keeps)
    | with_reducible exact fun _ h => h
    | split

theorem State.railShow_keeps {s0 s : State} (h : s0.Keeps s) (r : Nat) :
    s0.Keeps (State.railShow s r) := by
  unfold State.railShow
  repeat' first
    | (intro _)
    | with_reducible assumption
    | (with_reducible first | apply State.setSat_keeps)
    | with_reducible exact fun _ h => h
    | split

theorem State.psOffTo_keeps {s0 s : State} (h : s0.Keeps s) (n : Nat) (st : Nat) :
    s0.Keeps (State.psOffTo s n st) := by
  unfold State.psOffTo
  repeat' first
    | (intro _)
    | with_reducible assumption
    | (with_reducible first | apply State.updPc_keeps | apply State.railShow_keeps | apply State.setFld_keeps | apply State.setFlag_keeps | apply State.stopTimer_keeps)
    | with_reducible exact fun _ h => h
    | split

theorem State.psPause_keeps {s0 s : State} (h : s0.Keeps s) (n : Nat) (f : PsChan → PsChan) :
    s0.Keeps (State.psPause s n f) := by
  unfold State.psPause
  repeat' first
    | (intro _)
    | with_reducible assumption
    | (extract_lets +onlyGivenNames x; first | (refine (fun hx => ?_ : State.Keeps s0 x → _) ?_; (on_goal 1 => clear_value x); (on_goal 2 => subst x)) | clear_value x)
    | (with_reducible first | apply State.updPc_keeps)
    | with_reducible exact fun _ h => h
    | split
    | (fail_if_no_progress beta_reduce)

theorem State.psTurnOn_keeps {s0 s : State} (h : s0.Keeps s) (n : Nat) :
    s0.Keeps (State.psTurnOn s n) := by
  unfold State.psTurnOn
  repeat' first
    | (intro _)
    | with_reducible assumption
    | (extract_lets +onlyGivenNames x; first | (refine (fun hx => ?_ : State.Keeps s0 x → _) ?_; (on_goal 1 => clear_value x); (on_goal 2 => subst x)) | clear_value x)
    | (with_reducible first | apply State.psOffTo_keeps | apply State.updSh_keeps | apply State.updPc_keeps | apply State.startTimer_keeps | apply State.setFld_keeps)
    | with_reducible exact fun _ h => h
    | split
    | (fail_if_no_progress beta_reduce)

theorem State.psTrip_keeps {s0 s : State} (h : s0.Keeps s) (n : Nat) (cause : Nat) :
    s0.Keeps (State.psTrip s n cause) := by
  unfold State.psTrip
  repeat' first
    | (intro _)
    | with_reducible assumption
    | (extract_lets +onlyGivenNames x; first | (refine (fun hx => ?_ : State.Keeps s0 x → _) ?_; (on_goal 1 => clear_value x); (on_goal 2 => subst x)) | clear_value x)
    | (with_reducible first | apply State.updPc_keeps | apply State.psOffTo_keeps | apply State.startTimer_keeps | apply State.event_keeps | apply State.inc_keeps | apply State.setFld_keeps | apply State.updSh_keeps | apply State.iff_keeps | apply State.stopTimer_keeps)
    | with_reducible exact fun _ h => h
    | split
    | (fail_if_no_progress beta_reduce)

theorem State.psCommand_keeps {s0 s : State} (h : s0.Keeps s) (n : Nat) (on : Bool) :
    s0.Keeps (State.psCommand s n on) := by
  unfold State.psCommand
  repeat' first
    | (intro _)
    | with_reducible assumption
    | (extract_lets +onlyGivenNames x; first | (refine (fun hx => ?_ : State.Keeps s0 x → _) ?_; (on_goal 1 => clear_value x); (on_goal 2 => subst x)) | clear_value x)
    | (with_reducible first | apply State.updPc_keeps | apply State.setFld_keeps | apply State.psTurnOn_keeps | apply State.psOffTo_keeps)
    | with_reducible exact fun _ h => h
    | split
    | (fail_if_no_progress beta_reduce)

theorem State.psPowerDown_keeps {s0 s : State} (h : s0.Keeps s) :
    s0.Keeps (State.psPowerDown s) := by
  unfold State.psPowerDown
  repeat' first
    | (intro _)
    | with_reducible assumption
    | (extract_lets +onlyGivenNames x; first | (refine (fun hx => ?_ : State.Keeps s0 x → _) ?_; (on_goal 1 => clear_value x); (on_goal 2 => subst x)) | clear_value x)
    | (with_reducible first | apply State.each_keeps | apply State.updPc_keeps | apply State.setFlag_keeps | apply State.stopTimer_keeps | apply State.psOffTo_keeps | apply State.setFld_keeps | apply State.updPs_keeps)
    | with_reducible exact fun _ h => h
    | split
    | (fail_if_no_progress beta_reduce)

theorem State.mlStop_keeps {s0 s : State} (h : s0.Keeps s) :
    s0.Keeps (State.mlStop s) := by
  unfold State.mlStop
  repeat' first
    | (intro _)
    | with_reducible assumption
    | (extract_lets +onlyGivenNames x; first | (refine (fun hx => ?_ : State.Keeps s0 x → _) ?_; (on_goal 1 => clear_value x); (on_goal 2 => subst x)) | clear_value x)
    | (with_reducible first | apply State.setFld_keeps)
    | split
    | (with_reducible apply State.mk_keeps; (rotate_left); all_goals first | with_reducible rfl | exact upd_length _ _ _ | exact List.length_map _ | skip)
    | with_reducible exact fun _ h => h
    | split
    | (fail_if_no_progress beta_reduce)

theorem State.psCommit_keeps {s0 s : State} (h : s0.Keeps s) :
    s0.Keeps (State.psCommit s) := by
  unfold State.psCommit
  repeat' first
    | (intro _)
    | with_reducible assumption
    | (extract_lets +onlyGivenNames x; first | (refine (fun hx => ?_ : State.Keeps s0 x → _) ?_; (on_goal 1 => clear_value x); (on_goal 2 => subst x)) | clear_value x)
    | (with_reducible first | apply State.each_keeps | apply State.updPc_keeps | apply State.setFld_keeps | apply State.iff_keeps)
    | with_reducible exact fun _ h => h
    | split
    | (fail_if_no_progress beta_reduce)

theorem State.hostPs_keeps {s0 s : State} (h : s0.Keeps s) (n : Nat) (on : Bool) :
    s0.Keeps (State.hostPs s n on) := by
  unfold State.hostPs
  repeat' first
    | (intro _)
    | with_reducible assumption
    | (with_reducible first | apply State.setFlag_keeps | apply State.event_keeps)
    | with_reducible exact fun _ h => h
    | split

theorem execPsOn_keeps (s : State) (chan : Fin 24) (on : Bool) :
    State.KeepsOut s (execPsOn chan on s) := by
  unfold execPsOn
  first | apply State.live_keeps | apply keepsOut_next
  repeat' first
    | (intro _)
    | with_reducible assumption
    | with_reducible exact State.Keeps.refl _
    | (with_reducible first | apply State.hostPs_keeps)
    | with_reducible exact fun _ h => h
    | split

theorem execRefreshFrame_keeps (s : State) (err : BitVec 48) :
    State.KeepsOut s (execRefreshFrame err s) := by
  unfold execRefreshFrame
  first | apply State.live_keeps | apply State.liveOn_keeps | apply keepsOut_next
  repeat' first
    | (intro _)
    | with_reducible assumption
    | (extract_lets +onlyGivenNames x; first | (refine (fun hx => ?_ : State.Keeps s x → _) ?_; (on_goal 1 => clear_value x); (on_goal 2 => subst x)) | clear_value x)
    | with_reducible exact State.Keeps.refl _
    | (with_reducible first | apply State.updPs_keeps | apply State.inc_keeps | apply State.iff_keeps | apply State.event_keeps | apply State.startTimer_keeps | apply State.setFlag_keeps | apply State.each_keeps | apply State.psCommand_keeps)
    | with_reducible exact fun _ h => h
    | split
    | (fail_if_no_progress beta_reduce)

theorem execSerialWatchdogExpiry_keeps (s : State) :
    State.KeepsOut s (execSerialWatchdogExpiry s) := by
  unfold execSerialWatchdogExpiry
  first | apply State.live_keeps | apply keepsOut_next
  repeat' first
    | (intro _)
    | with_reducible assumption
    | (extract_lets +onlyGivenNames x; first | (refine (fun hx => ?_ : State.Keeps s x → _) ?_; (on_goal 1 => clear_value x); (on_goal 2 => subst x)) | clear_value x)
    | with_reducible exact State.Keeps.refl _
    | (with_reducible first | apply State.setFlag_keeps | apply State.each_keeps | apply State.updPs_keeps | apply State.inc_keeps | apply State.psCommand_keeps | apply State.event_keeps)
    | with_reducible exact fun _ h => h
    | split

theorem execPsRampComplete_keeps (s : State) (chan : Fin 24) :
    State.KeepsOut s (execPsRampComplete chan s) := by
  unfold execPsRampComplete
  first | apply State.live_keeps | apply State.liveOn_keeps | apply keepsOut_next
  repeat' first
    | (intro _)
    | with_reducible assumption
    | with_reducible exact State.Keeps.refl _
    | (with_reducible first | apply State.setFld_keeps)
    | with_reducible exact fun _ h => h
    | split

theorem execCurrentLimitTrip_keeps (s : State) (chan : Fin 24) :
    State.KeepsOut s (execCurrentLimitTrip chan s) := by
  unfold execCurrentLimitTrip
  first | apply State.live_keeps | apply State.liveOn_keeps | apply keepsOut_next
  repeat' first
    | (intro _)
    | with_reducible assumption
    | with_reducible exact State.Keeps.refl _
    | (with_reducible first | apply State.psTrip_keeps)
    | with_reducible exact fun _ h => h
    | split

theorem execRampTimeout_keeps (s : State) (chan : Fin 24) :
    State.KeepsOut s (execRampTimeout chan s) := by
  unfold execRampTimeout
  first | apply State.live_keeps | apply State.liveOn_keeps | apply keepsOut_next
  repeat' first
    | (intro _)
    | with_reducible assumption
    | with_reducible exact State.Keeps.refl _
    | (with_reducible first | apply State.psTrip_keeps)
    | with_reducible exact fun _ h => h
    | split

theorem State.psRelease_keeps {s0 s : State} (h : s0.Keeps s) (n : Nat) :
    s0.Keeps (State.psRelease s n) := by
  unfold State.psRelease
  repeat' first
    | (intro _)
    | with_reducible assumption
    | (with_reducible first | apply State.setFlag_keeps | apply State.event_keeps)
    | with_reducible exact fun _ h => h
    | split

theorem State.psLatch_keeps {s0 s : State} (h : s0.Keeps s) (n : Nat) :
    s0.Keeps (State.psLatch s n) := by
  unfold State.psLatch
  repeat' first
    | (intro _)
    | with_reducible assumption
    | (with_reducible first | apply State.setFlag_keeps | apply State.event_keeps)
    | with_reducible exact fun _ h => h
    | split

theorem State.psCurrent_keeps {s0 s : State} (h : s0.Keeps s) (n : Nat) (i : Nat) :
    s0.Keeps (State.psCurrent s n i) := by
  unfold State.psCurrent
  repeat' first
    | (intro _)
    | with_reducible assumption
    | (extract_lets +onlyGivenNames x; first | (refine (fun hx => ?_ : State.Keeps s0 x → _) ?_; (on_goal 1 => clear_value x); (on_goal 2 => subst x)) | clear_value x)
    | (with_reducible first | apply State.updPc_keeps | apply State.railShow_keeps | apply State.setFld_keeps)
    | with_reducible exact fun _ h => h
    | split
    | (fail_if_no_progress beta_reduce)

theorem execWireModelUpdate_keeps (s : State) (chan : Fin 24) (amps : BitVec 12) (inLimit : Bool) :
    State.KeepsOut s (execWireModelUpdate chan amps inLimit s) := by
  unfold execWireModelUpdate
  first | apply State.live_keeps | apply State.liveOn_keeps | apply keepsOut_next
  repeat' first
    | (intro _)
    | with_reducible assumption
    | (extract_lets +onlyGivenNames x; first | (refine (fun hx => ?_ : State.Keeps s x → _) ?_; (on_goal 1 => clear_value x); (on_goal 2 => subst x)) | clear_value x)
    | with_reducible exact State.Keeps.refl _
    | (with_reducible first | apply State.psCurrent_keeps | apply State.setSat_keeps | apply State.updPc_keeps | apply State.setFlag_keeps | apply State.iff_keeps | apply State.psLatch_keeps | apply State.psTrip_keeps | apply State.psRelease_keeps)
    | with_reducible exact fun _ h => h
    | split
    | (fail_if_no_progress beta_reduce)

theorem execDieTempCheck_keeps (s : State) (chan : Fin 24) (dt : BitVec 8) :
    State.KeepsOut s (execDieTempCheck chan dt s) := by
  unfold execDieTempCheck
  first | apply State.live_keeps | apply keepsOut_next
  repeat' first
    | (intro _)
    | with_reducible assumption
    | (extract_lets +onlyGivenNames x; first | (refine (fun hx => ?_ : State.Keeps s x → _) ?_; (on_goal 1 => clear_value x); (on_goal 2 => subst x)) | clear_value x)
    | with_reducible exact State.Keeps.refl _
    | (with_reducible first | apply State.psTrip_keeps | apply State.setFld_keeps | apply State.psLatch_keeps | apply State.psRelease_keeps)
    | with_reducible exact fun _ h => h
    | split

theorem execPsRetry_keeps (s : State) (chan : Fin 24) :
    State.KeepsOut s (execPsRetry chan s) := by
  unfold execPsRetry
  first | apply State.live_keeps | apply State.liveOn_keeps | apply keepsOut_next
  repeat' first
    | (intro _)
    | with_reducible assumption
    | (extract_lets +onlyGivenNames x; first | (refine (fun hx => ?_ : State.Keeps s x → _) ?_; (on_goal 1 => clear_value x); (on_goal 2 => subst x)) | clear_value x)
    | with_reducible exact State.Keeps.refl _
    | (with_reducible first | apply State.iff_keeps | apply State.event_keeps | apply State.updPc_keeps | apply State.psTurnOn_keeps | apply State.setFld_keeps | apply State.stopTimer_keeps)
    | with_reducible exact fun _ h => h
    | split
    | (fail_if_no_progress beta_reduce)

theorem execRetryRestore_keeps (s : State) (chan : Fin 24) :
    State.KeepsOut s (execRetryRestore chan s) := by
  unfold execRetryRestore
  first | apply State.live_keeps | apply State.liveOn_keeps | apply keepsOut_next
  repeat' first
    | (intro _)
    | with_reducible assumption
    | with_reducible exact State.Keeps.refl _
    | (with_reducible first | apply State.updPc_keeps | apply State.setFld_keeps)
    | with_reducible exact fun _ h => h
    | split

theorem State.hostPsClr_keeps {s0 s : State} (h : s0.Keeps s) (n : Nat) :
    s0.Keeps (State.hostPsClr s n) := by
  unfold State.hostPsClr
  repeat' first
    | (intro _)
    | with_reducible assumption
    | (extract_lets +onlyGivenNames x; first | (refine (fun hx => ?_ : State.Keeps s0 x → _) ?_; (on_goal 1 => clear_value x); (on_goal 2 => subst x)) | clear_value x)
    | (with_reducible first | apply State.updPc_keeps | apply State.event_keeps | apply State.setFld_keeps)
    | with_reducible exact fun _ h => h
    | split
    | (fail_if_no_progress beta_reduce)

theorem execPsClr_keeps (s : State) (chan : Fin 24) :
    State.KeepsOut s (execPsClr chan s) := by
  unfold execPsClr
  first | apply State.live_keeps | apply keepsOut_next
  repeat' first
    | (intro _)
    | with_reducible assumption
    | with_reducible exact State.Keeps.refl _
    | (with_reducible first | apply State.hostPsClr_keeps)
    | with_reducible exact fun _ h => h
    | split

theorem State.psAmps_keeps {s0 s : State} (h : s0.Keeps s) (r : Nat) (amps : List Nat) :
    s0.Keeps (State.psAmps s r amps) := by
  unfold State.psAmps
  repeat' first
    | (intro _)
    | with_reducible assumption
    | (with_reducible first | apply State.railShow_keeps | apply State.each_keeps | apply State.setSat_keeps)
    | with_reducible exact fun _ h => h
    | split

theorem execRailOvercurrent_keeps (s : State) (rail : Fin 4) (inLimit : BitVec 24) (amps : List Nat) :
    State.KeepsOut s (execRailOvercurrent rail inLimit amps s) := by
  unfold execRailOvercurrent
  first | apply State.live_keeps | apply State.liveOn_keeps | apply keepsOut_next
  repeat' first
    | (intro _)
    | with_reducible assumption
    | (extract_lets +onlyGivenNames x; first | (refine (fun hx => ?_ : State.Keeps s x → _) ?_; (on_goal 1 => clear_value x); (on_goal 2 => subst x)) | clear_value x)
    | with_reducible exact State.Keeps.refl _
    | (with_reducible first | apply State.psAmps_keeps | apply State.iff_keeps | apply State.updPs_keeps | apply State.setFld_keeps | apply State.each_keeps | apply State.event_keeps | apply State.psTrip_keeps | apply State.psPause_keeps)
    | with_reducible exact fun _ h => h
    | split
    | (fail_if_no_progress beta_reduce)

theorem execRailGuardShed_keeps (s : State) (rail : Fin 4) (amps : List Nat) :
    State.KeepsOut s (execRailGuardShed rail amps s) := by
  unfold execRailGuardShed
  first | apply State.live_keeps | apply State.liveOn_keeps | apply keepsOut_next
  repeat' first
    | (intro _)
    | with_reducible assumption
    | (extract_lets +onlyGivenNames x; first | (refine (fun hx => ?_ : State.Keeps s x → _) ?_; (on_goal 1 => clear_value x); (on_goal 2 => subst x)) | clear_value x)
    | with_reducible exact State.Keeps.refl _
    | (with_reducible first | apply State.psAmps_keeps | apply State.each_keeps | apply State.event_keeps | apply State.psTrip_keeps)
    | with_reducible exact fun _ h => h
    | split
    | (fail_if_no_progress beta_reduce)

theorem execRailRampsResume_keeps (s : State) (rail : Fin 4) (amps : List Nat) :
    State.KeepsOut s (execRailRampsResume rail amps s) := by
  unfold execRailRampsResume
  first | apply State.live_keeps | apply State.liveOn_keeps | apply keepsOut_next
  repeat' first
    | (intro _)
    | with_reducible assumption
    | (extract_lets +onlyGivenNames x; first | (refine (fun hx => ?_ : State.Keeps s x → _) ?_; (on_goal 1 => clear_value x); (on_goal 2 => subst x)) | clear_value x)
    | with_reducible exact State.Keeps.refl _
    | (with_reducible first | apply State.setFld_keeps | apply State.psAmps_keeps | apply State.iff_keeps | apply State.event_keeps | apply State.each_keeps | apply State.psPause_keeps)
    | with_reducible exact fun _ h => h
    | split
    | (fail_if_no_progress beta_reduce)

theorem State.railVolts_keeps {s0 s : State} (h : s0.Keeps s) (r : Nat) (dV : Nat) :
    s0.Keeps (State.railVolts s r dV) := by
  unfold State.railVolts
  repeat' first
    | (intro _)
    | with_reducible assumption
    | (extract_lets +onlyGivenNames x; first | (refine (fun hx => ?_ : State.Keeps s0 x → _) ?_; (on_goal 1 => clear_value x); (on_goal 2 => subst x)) | clear_value x)
    | (with_reducible first | apply State.setSat_keeps | apply State.setFld_keeps | apply State.iff_keeps | apply State.updPs_keeps | apply State.each_keeps | apply State.psPause_keeps)
    | with_reducible exact fun _ h => h
    | split
    | (fail_if_no_progress beta_reduce)

theorem execRailRampPause_keeps (s : State) (rail : Fin 4) (dV : BitVec 12) :
    State.KeepsOut s (execRailRampPause rail dV s) := by
  unfold execRailRampPause
  first | apply State.live_keeps | apply State.liveOn_keeps | apply keepsOut_next
  repeat' first
    | (intro _)
    | with_reducible assumption
    | with_reducible exact State.Keeps.refl _
    | (with_reducible first | apply State.railVolts_keeps)
    | with_reducible exact fun _ h => h
    | split

theorem execRailUndervoltage_keeps (s : State) (rail : Fin 4) (dV : BitVec 12) (heldUs : Nat) :
    State.KeepsOut s (execRailUndervoltage rail dV heldUs s) := by
  unfold execRailUndervoltage
  first | apply State.live_keeps | apply State.liveOn_keeps | apply keepsOut_next
  repeat' first
    | (intro _)
    | with_reducible assumption
    | (extract_lets +onlyGivenNames x; first | (refine (fun hx => ?_ : State.Keeps s x → _) ?_; (on_goal 1 => clear_value x); (on_goal 2 => subst x)) | clear_value x)
    | with_reducible exact State.Keeps.refl _
    | (with_reducible first | apply State.event_keeps | apply State.updPs_keeps | apply State.railVolts_keeps | apply State.each_keeps | apply State.psOffTo_keeps)
    | with_reducible exact fun _ h => h
    | split
    | (fail_if_no_progress beta_reduce)

theorem State.railRestore_keeps {s0 s : State} (h : s0.Keeps s) (r : Nat) :
    s0.Keeps (State.railRestore s r) := by
  unfold State.railRestore
  repeat' first
    | (intro _)
    | with_reducible assumption
    | (extract_lets +onlyGivenNames x; first | (refine (fun hx => ?_ : State.Keeps s0 x → _) ?_; (on_goal 1 => clear_value x); (on_goal 2 => subst x)) | clear_value x)
    | (with_reducible first | apply State.each_keeps | apply State.psOffTo_keeps | apply State.setFld_keeps | apply State.psTurnOn_keeps | apply State.updPs_keeps | apply State.event_keeps)
    | with_reducible exact fun _ h => h
    | split
    | (fail_if_no_progress beta_reduce)

theorem execRailRecovered_keeps (s : State) (rail : Fin 4) (dV : BitVec 12) (heldUs : Nat) :
    State.KeepsOut s (execRailRecovered rail dV heldUs s) := by
  unfold execRailRecovered
  first | apply State.live_keeps | apply State.liveOn_keeps | apply keepsOut_next
  repeat' first
    | (intro _)
    | with_reducible assumption
    | with_reducible exact State.Keeps.refl _
    | (with_reducible first | apply State.railRestore_keeps | apply State.railVolts_keeps | apply State.updPs_keeps)
    | with_reducible exact fun _ h => h
    | split

theorem State.railTick_keeps {s0 s : State} (h : s0.Keeps s) :
    s0.Keeps (State.railTick s) := by
  unfold State.railTick
  repeat' first
    | (intro _)
    | with_reducible assumption
    | (with_reducible first | apply State.each_keeps | apply State.railRestore_keeps)
    | with_reducible exact fun _ h => h
    | split

theorem execOpenLoad_keeps (s : State) (chan : Fin 24) :
    State.KeepsOut s (execOpenLoad chan s) := by
  unfold execOpenLoad
  first | apply State.live_keeps | apply State.liveOn_keeps | apply keepsOut_next
  repeat' first
    | (intro _)
    | with_reducible assumption
    | with_reducible exact State.Keeps.refl _
    | (with_reducible first | apply State.event_keeps | apply State.updPc_keeps)
    | with_reducible exact fun _ h => h
    | split

theorem execPsReadbackMismatch_keeps (s : State) (chan : Fin 24) :
    State.KeepsOut s (execPsReadbackMismatch chan s) := by
  unfold execPsReadbackMismatch
  first | apply State.live_keeps | apply State.liveOn_keeps | apply keepsOut_next
  repeat' first
    | (intro _)
    | with_reducible assumption
    | with_reducible exact State.Keeps.refl _
    | (with_reducible first | apply State.event_keeps)
    | with_reducible exact fun _ h => h
    | split

end Sys2Proof.Machine
end

