-- ==== Sys2Proof/Laws/KeepsPanels.lean ====
section
/-!
SUPPORT. What every command keeps, for the operations and commands of Machine/Panels.lean.
-/

set_option linter.all false

namespace Sys2Proof.Machine

open Sys2Proof

theorem State.updPnl_keeps {s0 s : State} (h : s0.Keeps s) (f : PnlSt → PnlSt) :
    s0.Keeps (State.updPnl s f) := by
  unfold State.updPnl
  repeat' first
    | (intro _)
    | with_reducible assumption
    | split
    | (with_reducible apply State.mk_keeps; (rotate_left); all_goals first | with_reducible rfl | exact upd_length _ _ _ | exact List.length_map _ | skip)
    | with_reducible exact fun _ h => h
    | split

theorem State.updPn_keeps {s0 s : State} (h : s0.Keeps s) (p : Nat) (f : Panel → Panel) :
    s0.Keeps (State.updPn s p f) := by
  unfold State.updPn
  repeat' first
    | (intro _)
    | with_reducible assumption
    | (with_reducible first | apply State.updPnl_keeps)
    | with_reducible exact fun _ h => h
    | split

theorem State.loadTable_keeps {s0 s : State} (h : s0.Keeps s) (p : Nat) (b : List Byte) :
    s0.Keeps (State.loadTable s p b) := by
  unfold State.loadTable
  repeat' first
    | (intro _)
    | with_reducible assumption
    | (extract_lets +onlyGivenNames x; first | (refine (fun hx => ?_ : State.Keeps s0 x → _) ?_; (on_goal 1 => clear_value x); (on_goal 2 => subst x)) | clear_value x)
    | (with_reducible first | apply State.setFlag_keeps | apply State.updPn_keeps | apply State.iff_keeps | apply State.setFld_keeps | apply State.event_keeps)
    | with_reducible exact fun _ h => h
    | split
    | (fail_if_no_progress beta_reduce)

theorem State.loadRoast_keeps {s0 s : State} (h : s0.Keeps s) (p : Nat) (b : List Byte) :
    s0.Keeps (State.loadRoast s p b) := by
  unfold State.loadRoast
  repeat' first
    | (intro _)
    | with_reducible assumption
    | (extract_lets +onlyGivenNames x; first | (refine (fun hx => ?_ : State.Keeps s0 x → _) ?_; (on_goal 1 => clear_value x); (on_goal 2 => subst x)) | (refine (fun hx => ?_ : State.Keeps s0 x.1 → _) ?_; (on_goal 1 => clear_value x); (on_goal 2 => subst x)) | (refine (fun hx => ?_ : State.Keeps s0 x.2 → _) ?_; (on_goal 1 => clear_value x); (on_goal 2 => subst x)) | clear_value x)
    | (with_reducible first | apply State.draw_keeps | apply State.setFld_keeps | apply State.loadTable_keeps)
    | with_reducible exact fun _ h => h
    | split
    | (fail_if_no_progress beta_reduce)

theorem State.takeTemp_keeps {s0 s : State} (h : s0.Keeps s) (p : Nat) (t : Option Int) :
    s0.Keeps (State.takeTemp s p t) := by
  unfold State.takeTemp
  repeat' first
    | (intro _)
    | with_reducible assumption
    | (extract_lets +onlyGivenNames x; first | (refine (fun hx => ?_ : State.Keeps s0 x → _) ?_; (on_goal 1 => clear_value x); (on_goal 2 => subst x)) | clear_value x)
    | (with_reducible first | apply State.setFlag_keeps | apply State.updPn_keeps | apply State.iff_keeps | apply State.setFld_keeps | apply State.updPnl_keeps | apply State.event_keeps)
    | with_reducible exact fun _ h => h
    | split

theorem State.pnBal_keeps {s0 s : State} (h : s0.Keeps s) (p : Nat) :
    s0.Keeps (State.pnBal s p) := by
  unfold State.pnBal
  repeat' first
    | (intro _)
    | with_reducible assumption
    | (extract_lets +onlyGivenNames x; first | clear_value x)
    | (with_reducible first | apply State.setSat_keeps | apply foldl_keeps)
    | with_reducible exact fun _ h => h
    | split

theorem State.pnShow_keeps {s0 s : State} (h : s0.Keeps s) (p : Nat) :
    s0.Keeps (State.pnShow s p) := by
  unfold State.pnShow
  repeat' first
    | (intro _)
    | with_reducible assumption
    | (extract_lets +onlyGivenNames x; first | clear_value x)
    | (with_reducible first | apply State.setFld_keeps)
    | with_reducible exact fun _ h => h
    | split

theorem execPanelRailStep_keeps (s : State) (panel : Fin 2) (ok : Bool) :
    State.KeepsOut s (execPanelRailStep panel ok s) := by
  unfold execPanelRailStep
  first | apply State.live_keeps | apply State.liveOn_keeps | apply keepsOut_next
  repeat' first
    | (intro _)
    | with_reducible assumption
    | (extract_lets +onlyGivenNames x; first | (refine (fun hx => ?_ : State.Keeps s x → _) ?_; (on_goal 1 => clear_value x); (on_goal 2 => subst x)) | clear_value x)
    | with_reducible exact State.Keeps.refl _
    | (with_reducible first | apply State.setFld_keeps | apply State.updPn_keeps | apply State.startTimer_keeps | apply State.event_keeps | apply State.inc_keeps | apply State.pnShow_keeps)
    | with_reducible exact fun _ h => h
    | split
    | (fail_if_no_progress beta_reduce)

theorem State.pnPower_keeps {s0 s : State} (h : s0.Keeps s) (p : Nat) :
    s0.Keeps (State.pnPower s p) := by
  unfold State.pnPower
  repeat' first
    | (intro _)
    | with_reducible assumption
    | (with_reducible first | apply State.iff_keeps | apply State.updPn_keeps)
    | with_reducible exact fun _ h => h
    | split

theorem State.railsDown_keeps {s0 s : State} (h : s0.Keeps s) :
    s0.Keeps (State.railsDown s) := by
  unfold State.railsDown
  repeat' first
    | (intro _)
    | with_reducible assumption
    | (with_reducible first | apply State.each_keeps | apply State.iff_keeps | apply State.updPn_keeps)
    | with_reducible exact fun _ h => h
    | split

theorem execPanelRailRetry_keeps (s : State) (panel : Fin 2) :
    State.KeepsOut s (execPanelRailRetry panel s) := by
  unfold execPanelRailRetry
  first | apply State.live_keeps | apply keepsOut_next
  repeat' first
    | (intro _)
    | with_reducible assumption
    | with_reducible exact State.Keeps.refl _
    | (with_reducible first | apply State.setFld_keeps | apply State.pnPower_keeps | apply State.stopTimer_keeps)
    | with_reducible exact fun _ h => h
    | split

theorem execPanelRailFault_keeps (s : State) (panel : Fin 2) (rails : BitVec 5) :
    State.KeepsOut s (execPanelRailFault panel rails s) := by
  unfold execPanelRailFault
  first | apply State.live_keeps | apply State.liveOn_keeps | apply keepsOut_next
  repeat' first
    | (intro _)
    | with_reducible assumption
    | (extract_lets +onlyGivenNames x; first | (refine (fun hx => ?_ : State.Keeps s x → _) ?_; (on_goal 1 => clear_value x); (on_goal 2 => subst x)) | clear_value x)
    | with_reducible exact State.Keeps.refl _
    | (with_reducible first | apply State.updPn_keeps | apply State.inc_keeps | apply State.setFld_keeps | apply State.pnBal_keeps | apply State.startTimer_keeps | apply State.event_keeps)
    | with_reducible exact fun _ h => h
    | split
    | (fail_if_no_progress beta_reduce)

theorem State.panelsStop_keeps {s0 s : State} (h : s0.Keeps s) :
    s0.Keeps (State.panelsStop s) := by
  unfold State.panelsStop
  repeat' first
    | (intro _)
    | with_reducible assumption
    | (extract_lets +onlyGivenNames x; first | (refine (fun hx => ?_ : State.Keeps s0 x → _) ?_; (on_goal 1 => clear_value x); (on_goal 2 => subst x)) | clear_value x)
    | (with_reducible first | apply State.each_keeps | apply State.iff_keeps | apply State.event_keeps | apply State.setSat_keeps | apply State.updPn_keeps | apply State.setFld_keeps | apply State.updPnl_keeps | apply State.pnBal_keeps | apply State.stopTimer_keeps | apply foldl_keeps)
    | with_reducible exact fun _ h => h
    | split
    | (fail_if_no_progress beta_reduce)

theorem State.pnQueue_keeps {s0 s : State} (h : s0.Keeps s) (p : Nat) (u : PnlUpd) :
    s0.Keeps (State.pnQueue s p u) := by
  unfold State.pnQueue
  repeat' first
    | (intro _)
    | with_reducible assumption
    | (extract_lets +onlyGivenNames x; first | (refine (fun hx => ?_ : State.Keeps s0 x → _) ?_; (on_goal 1 => clear_value x); (on_goal 2 => subst x)) | clear_value x)
    | (with_reducible first | apply State.event_keeps | apply State.inc_keeps | apply State.updPnl_keeps | apply State.updPn_keeps | apply State.pnPower_keeps | apply State.setFld_keeps)
    | with_reducible exact fun _ h => h
    | split
    | (fail_if_no_progress beta_reduce)

theorem State.pnBegin_keeps {s0 s : State} (h : s0.Keeps s) (p : Nat) (t0 : Int) (u : PnlUpd) :
    s0.Keeps (State.pnBegin s p t0 u) := by
  unfold State.pnBegin
  repeat' first
    | (intro _)
    | with_reducible assumption
    | (extract_lets +onlyGivenNames x; first | (refine (fun hx => ?_ : State.Keeps s0 x → _) ?_; (on_goal 1 => clear_value x); (on_goal 2 => subst x)) | clear_value x)
    | (with_reducible first | apply State.updPn_keeps | apply foldl_keeps)
    | with_reducible exact fun _ h => h
    | split
    | (fail_if_no_progress beta_reduce)

theorem execPanelFrame_keeps (s : State) (panel : Fin 2) (temp : Option Int) (droop : BitVec 5) :
    State.KeepsOut s (execPanelFrame panel temp droop s) := by
  unfold execPanelFrame
  first | apply State.live_keeps | apply State.liveOn_keeps | apply keepsOut_next
  repeat' first
    | (intro _)
    | with_reducible assumption
    | (extract_lets +onlyGivenNames x; first | (refine (fun hx => ?_ : State.Keeps s x → _) ?_; (on_goal 1 => clear_value x); (on_goal 2 => subst x)) | clear_value x)
    | with_reducible exact State.Keeps.refl _
    | (with_reducible first | apply State.iff_keeps | apply State.takeTemp_keeps | apply State.inc_keeps | apply State.setFld_keeps | apply State.event_keeps | apply State.updPn_keeps | apply State.each_keeps | apply State.pnQueue_keeps | apply State.pnBegin_keeps | apply State.pnBal_keeps | apply State.pnShow_keeps)
    | with_reducible exact fun _ h => h
    | split
    | (fail_if_no_progress beta_reduce)

theorem State.panelSf_keeps {s0 s : State} (h : s0.Keeps s) (present : Bool) :
    s0.Keeps (State.panelSf s present) := by
  unfold State.panelSf
  repeat' first
    | (intro _)
    | with_reducible assumption
    | (extract_lets +onlyGivenNames x; first | (refine (fun hx => ?_ : State.Keeps s0 x → _) ?_; (on_goal 1 => clear_value x); (on_goal 2 => subst x)) | clear_value x)
    | (with_reducible first | apply State.updPnl_keeps | apply State.setFlag_keeps | apply State.iff_keeps | apply State.event_keeps | apply State.each_keeps | apply State.pnQueue_keeps | apply State.pnPower_keeps)
    | with_reducible exact fun _ h => h
    | split
    | (fail_if_no_progress beta_reduce)

end Sys2Proof.Machine
end

