-- ==== Sys2Proof/Laws/KeepsIsland.lean ====
section
/-!
SUPPORT. What every command keeps, for the operations and commands of Machine/Island.lean.
-/

set_option linter.all false

namespace Sys2Proof.Machine

open Sys2Proof

theorem State.pdSwitch_keeps {s0 s : State} (h : s0.Keeps s) (stop : Bool) (mask : Nat) :
    s0.Keeps (State.pdSwitch s stop mask) := by
  unfold State.pdSwitch
  repeat' first
    | (intro _)
    | with_reducible assumption
    | (extract_lets +onlyGivenNames x; first | (refine (fun hx => ?_ : State.Keeps s0 x → _) ?_; (on_goal 1 => clear_value x); (on_goal 2 => subst x)) | (have y : State → State := x; clear y; subst x) | (have y : State → _ → State := x; clear y; subst x) | (have y : _ → State → State := x; clear y; subst x) | (have y : _ → _ → State → State := x; clear y; subst x) | (have y : State → _ → _ → State := x; clear y; subst x) | (have y : State → _ → State × _ := x; clear y; subst x) | clear_value x)
    | (with_reducible first | apply State.iff_keeps | apply State.panelsStop_keeps | apply State.mlStop_keeps | apply State.psPowerDown_keeps | apply State.stopLines_keeps | apply State.setFld_keeps | apply State.each_keeps | apply State.linkPower_keeps | apply foldl_keeps)
    | split
    | (with_reducible apply State.mk_keeps; (rotate_left); all_goals first | with_reducible rfl | exact upd_length _ _ _ | exact List.length_map _ | skip)
    | with_reducible exact fun _ h => h
    | split
    | (fail_if_no_progress beta_reduce)

theorem State.pdSet_keeps {s0 s : State} (h : s0.Keeps s) (mask : Nat) :
    s0.Keeps (State.pdSet s mask) := by
  unfold State.pdSet
  repeat' first
    | (intro _)
    | with_reducible assumption
    | (with_reducible first | apply State.pdSwitch_keeps)
    | with_reducible exact fun _ h => h
    | split

theorem State.setMode_keeps {s0 s : State} (h : s0.Keeps s) (m : Nat) :
    s0.Keeps (State.setMode s m) := by
  unfold State.setMode
  repeat' first
    | (intro _)
    | with_reducible assumption
    | (extract_lets +onlyGivenNames x; first | (refine (fun hx => ?_ : State.Keeps s0 x → _) ?_; (on_goal 1 => clear_value x); (on_goal 2 => subst x)) | clear_value x)
    | (with_reducible first | apply State.setFlag_keeps | apply State.vehMode_keeps | apply State.iff_keeps | apply State.setFld_keeps | apply State.each_keeps | apply State.pdSet_keeps | apply State.updSys_keeps | apply State.stopTimer_keeps | apply State.updIsl_keeps | apply State.event_keeps)
    | with_reducible exact fun _ h => h
    | split

theorem State.setIstate_keeps {s0 s : State} (h : s0.Keeps s) (n : Nat) :
    s0.Keeps (State.setIstate s n) := by
  unfold State.setIstate
  repeat' first
    | (intro _)
    | with_reducible assumption
    | (with_reducible first | apply State.updIsl_keeps | apply State.event_keeps)
    | with_reducible exact fun _ h => h
    | split

theorem State.pairOffNow_keeps {s0 s : State} (h : s0.Keeps s) (k : Nat) :
    s0.Keeps (State.pairOffNow s k) := by
  unfold State.pairOffNow
  repeat' first
    | (intro _)
    | with_reducible assumption
    | (with_reducible first | apply State.updSo_keeps | apply State.stopTimer_keeps)
    | with_reducible exact fun _ h => h
    | split

theorem State.pairOffSoon_keeps {s0 s : State} (h : s0.Keeps s) (k : Nat) :
    s0.Keeps (State.pairOffSoon s k) := by
  unfold State.pairOffSoon
  repeat' first
    | (intro _)
    | with_reducible assumption
    | (with_reducible first | apply State.startTimer_keeps)
    | with_reducible exact fun _ h => h
    | split

theorem State.onPair_keeps {s0 s : State} (h : s0.Keeps s) (j : Nat) (f : State → Nat → State) (hf : ∀ z0 z1, s0.Keeps z0 → s0.Keeps (f z0 z1)) :
    s0.Keeps (State.onPair s j f) := by
  unfold State.onPair
  repeat' first
    | (intro _)
    | with_reducible assumption
    | (with_reducible first | apply hf)
    | with_reducible exact fun _ h => h
    | split

theorem execPairOffDelay_keeps (s : State) (pair : Fin 8) :
    State.KeepsOut s (execPairOffDelay pair s) := by
  unfold execPairOffDelay
  first | apply State.live_keeps | apply State.liveOn_keeps | apply keepsOut_next
  repeat' first
    | (intro _)
    | with_reducible assumption
    | with_reducible exact State.Keeps.refl _
    | (with_reducible first | apply State.pairOffNow_keeps)
    | with_reducible exact fun _ h => h
    | split

theorem State.setClamp_keeps {s0 s : State} (h : s0.Keeps s) (j : Nat) (v : Nat) :
    s0.Keeps (State.setClamp s j v) := by
  unfold State.setClamp
  repeat' first
    | (intro _)
    | with_reducible assumption
    | (extract_lets +onlyGivenNames x; first | (refine (fun hx => ?_ : State.Keeps s0 x → _) ?_; (on_goal 1 => clear_value x); (on_goal 2 => subst x)) | clear_value x)
    | (with_reducible first | apply State.updSh_keeps | apply State.setSat_keeps)
    | with_reducible exact fun _ h => h
    | split
    | (fail_if_no_progress beta_reduce)

theorem State.tripOut_keeps {s0 s : State} (h : s0.Keeps s) (j : Nat) (fn : Nat) :
    s0.Keeps (State.tripOut s j fn) := by
  unfold State.tripOut
  repeat' first
    | (intro _)
    | with_reducible assumption
    | (extract_lets +onlyGivenNames x; first | (refine (fun hx => ?_ : State.Keeps s0 x → _) ?_; (on_goal 1 => clear_value x); (on_goal 2 => subst x)) | clear_value x)
    | (with_reducible first | apply State.updIo_keeps | apply State.onPair_keeps | apply State.setClamp_keeps | apply State.stopLines_keeps | apply State.pairOffSoon_keeps | apply State.event_keeps | apply State.safetyEnd_keeps)
    | with_reducible exact fun _ h => h
    | split
    | (fail_if_no_progress beta_reduce)

theorem State.tripNew_keeps {s0 s : State} (h : s0.Keeps s) (j : Nat) (fn : Nat) :
    s0.Keeps (State.tripNew s j fn) := by
  unfold State.tripNew
  repeat' first
    | (intro _)
    | with_reducible assumption
    | (extract_lets +onlyGivenNames x; first | clear_value x)
    | (with_reducible first | apply State.tripOut_keeps)
    | with_reducible exact fun _ h => h
    | split

theorem State.controlledStop_keeps {s0 s : State} (h : s0.Keeps s) (j : Nat) (fn : Nat) :
    s0.Keeps (State.controlledStop s j fn) := by
  unfold State.controlledStop
  repeat' first
    | (intro _)
    | with_reducible assumption
    | (extract_lets +onlyGivenNames x; first | (refine (fun hx => ?_ : State.Keeps s0 x → _) ?_; (on_goal 1 => clear_value x); (on_goal 2 => subst x)) | clear_value x)
    | (with_reducible first | apply State.updIo_keeps | apply State.setClamp_keeps | apply State.iff_keeps | apply State.startTimer_keeps)
    | with_reducible exact fun _ h => h
    | split
    | (fail_if_no_progress beta_reduce)

theorem execControlledStopStage2_keeps (s : State) (out : Fin 8) :
    State.KeepsOut s (execControlledStopStage2 out s) := by
  unfold execControlledStopStage2
  first | apply State.live_keeps | apply State.liveOn_keeps | apply keepsOut_next
  repeat' first
    | (intro _)
    | with_reducible assumption
    | (extract_lets +onlyGivenNames x; first | (refine (fun hx => ?_ : State.Keeps s x → _) ?_; (on_goal 1 => clear_value x); (on_goal 2 => subst x)) | clear_value x)
    | with_reducible exact State.Keeps.refl _
    | (with_reducible first | apply State.updIo_keeps | apply State.stopTimer_keeps | apply State.iff_keeps | apply State.onPair_keeps | apply State.stopLines_keeps | apply State.pairOffSoon_keeps)
    | with_reducible exact fun _ h => h
    | split
    | (fail_if_no_progress beta_reduce)

theorem State.safeState_keeps {s0 s : State} (h : s0.Keeps s) (cause : Nat) (at_ : List Nat) :
    s0.Keeps (State.safeState s cause at_) := by
  unfold State.safeState
  repeat' first
    | (intro _)
    | with_reducible assumption
    | (extract_lets +onlyGivenNames x; first | (refine (fun hx => ?_ : State.Keeps s0 x → _) ?_; (on_goal 1 => clear_value x); (on_goal 2 => subst x)) | clear_value x)
    | (with_reducible first | apply State.each_keeps | apply State.onPair_keeps | apply State.pairOffNow_keeps | apply State.updIsl_keeps | apply State.stopLines_keeps | apply State.stopTimer_keeps | apply State.setClamp_keeps | apply State.pairOffSoon_keeps | apply State.setIstate_keeps | apply State.event_keeps | apply State.iff_keeps | apply State.setMode_keeps | apply State.twinAnnounce_keeps | apply State.frzAuto_keeps)
    | with_reducible exact fun _ h => h
    | split
    | (fail_if_no_progress beta_reduce)

theorem State.faultHeld_keeps {s0 s : State} (h : s0.Keeps s) (row : Nat) :
    s0.Keeps (State.faultHeld s row) := by
  unfold State.faultHeld
  repeat' first
    | (intro _)
    | with_reducible assumption
    | (with_reducible first | apply State.safeState_keeps | apply State.updIsl_keeps)
    | with_reducible exact fun _ h => h
    | split

theorem State.faultSafe_keeps {s0 s : State} (h : s0.Keeps s) (row : Nat) :
    s0.Keeps (State.faultSafe s row) := by
  unfold State.faultSafe
  repeat' first
    | (intro _)
    | with_reducible assumption
    | (with_reducible first | apply State.faultHeld_keeps | apply State.faultSeen_keeps)
    | with_reducible exact fun _ h => h
    | split

theorem State.stopThenSafe_keeps {s0 s : State} (h : s0.Keeps s) (js : List Nat) (fn : Nat) (cause : Nat) :
    s0.Keeps (State.stopThenSafe s js fn cause) := by
  unfold State.stopThenSafe
  repeat' first
    | (intro _)
    | with_reducible assumption
    | (extract_lets +onlyGivenNames x; first | (refine (fun hx => ?_ : State.Keeps s0 x → _) ?_; (on_goal 1 => clear_value x); (on_goal 2 => subst x)) | clear_value x)
    | (with_reducible first | apply State.controlledStop_keeps | apply State.startTimer_keeps | apply State.each_keeps | apply State.updIsl_keeps)
    | with_reducible exact fun _ h => h
    | split

theorem execComparatorTrip_keeps (s : State) (out : Fin 8) (overvoltage : Bool) (value : Int) :
    State.KeepsOut s (execComparatorTrip out overvoltage value s) := by
  unfold execComparatorTrip
  first | apply State.live_keeps | apply State.liveOn_keeps | apply keepsOut_next
  repeat' first
    | (intro _)
    | with_reducible assumption
    | with_reducible exact State.Keeps.refl _
    | (with_reducible first | apply State.iff_keeps | apply State.tripNew_keeps)
    | with_reducible exact fun _ h => h
    | split

theorem execPilotLossTrip_keeps (s : State) (out : Fin 8) :
    State.KeepsOut s (execPilotLossTrip out s) := by
  unfold execPilotLossTrip
  first | apply State.live_keeps | apply State.liveOn_keeps | apply keepsOut_next
  repeat' first
    | (intro _)
    | with_reducible assumption
    | with_reducible exact State.Keeps.refl _
    | (with_reducible first | apply State.tripNew_keeps)
    | with_reducible exact fun _ h => h
    | split

theorem State.earthFault_keeps {s0 s : State} (h : s0.Keeps s) (j : Nat) :
    s0.Keeps (State.earthFault s j) := by
  unfold State.earthFault
  repeat' first
    | (intro _)
    | with_reducible assumption
    | (with_reducible first | apply State.tripNew_keeps | apply State.event_keeps)
    | with_reducible exact fun _ h => h
    | split

theorem execFastEarthFault_keeps (s : State) (out : Fin 8) :
    State.KeepsOut s (execFastEarthFault out s) := by
  unfold execFastEarthFault
  first | apply State.live_keeps | apply State.liveOn_keeps | apply keepsOut_next
  repeat' first
    | (intro _)
    | with_reducible assumption
    | with_reducible exact State.Keeps.refl _
    | (with_reducible first | apply State.earthFault_keeps)
    | with_reducible exact fun _ h => h
    | split

theorem execConnectorOvertemperature_keeps (s : State) (out : Fin 8) :
    State.KeepsOut s (execConnectorOvertemperature out s) := by
  unfold execConnectorOvertemperature
  first | apply State.live_keeps | apply State.liveOn_keeps | apply keepsOut_next
  repeat' first
    | (intro _)
    | with_reducible assumption
    | with_reducible exact State.Keeps.refl _
    | (with_reducible first | apply State.tripNew_keeps)
    | with_reducible exact fun _ h => h
    | split

theorem execPathDisagreement_keeps (s : State) (out : Fin 8) :
    State.KeepsOut s (execPathDisagreement out s) := by
  unfold execPathDisagreement
  first | apply State.live_keeps | apply State.liveOn_keeps | apply keepsOut_next
  repeat' first
    | (intro _)
    | with_reducible assumption
    | with_reducible exact State.Keeps.refl _
    | (with_reducible first | apply State.tripNew_keeps | apply State.event_keeps | apply State.faultSeen_keeps)
    | with_reducible exact fun _ h => h
    | split

theorem State.sampleSin_keeps {s0 s : State} (h : s0.Keeps s) (i : Nat) :
    s0.Keeps (State.sampleSin s i) := by
  unfold State.sampleSin
  repeat' first
    | (intro _)
    | with_reducible assumption
    | (extract_lets +onlyGivenNames x; first | (refine (fun hx => ?_ : State.Keeps s0 x → _) ?_; (on_goal 1 => clear_value x); (on_goal 2 => subst x)) | clear_value x)
    | (with_reducible first | apply State.updSin_keeps)
    | with_reducible exact fun _ h => h
    | split
    | (fail_if_no_progress beta_reduce)

theorem State.weldFound_keeps {s0 s : State} (h : s0.Keeps s) (j : Nat) :
    s0.Keeps (State.weldFound s j) := by
  unfold State.weldFound
  repeat' first
    | (intro _)
    | with_reducible assumption
    | (extract_lets +onlyGivenNames x; first | (refine (fun hx => ?_ : State.Keeps s0 x → _) ?_; (on_goal 1 => clear_value x); (on_goal 2 => subst x)) | clear_value x)
    | (with_reducible first | apply State.onPair_keeps | apply State.updIo_keeps | apply State.pairOffNow_keeps | apply State.event_keeps | apply State.safetyEnd_keeps)
    | with_reducible exact fun _ h => h
    | split
    | (fail_if_no_progress beta_reduce)

theorem State.reactSin_keeps {s0 s : State} (h : s0.Keeps s) (i : Nat) :
    s0.Keeps (State.reactSin s i) := by
  unfold State.reactSin
  repeat' first
    | (intro _)
    | with_reducible assumption
    | (extract_lets +onlyGivenNames x; first | (refine (fun hx => ?_ : State.Keeps s0 x → _) ?_; (on_goal 1 => clear_value x); (on_goal 2 => subst x)) | clear_value x)
    | (with_reducible first | apply State.safeState_keeps | apply State.each_keeps | apply State.tripNew_keeps | apply State.iff_keeps | apply State.event_keeps | apply State.updIsl_keeps | apply State.safetyEnd_keeps | apply State.controlledStop_keeps | apply State.tripOut_keeps | apply State.weldFound_keeps)
    | with_reducible exact fun _ h => h
    | split
    | (fail_if_no_progress beta_reduce)

theorem State.demandSin_keeps {s0 s : State} (h : s0.Keeps s) (i : Nat) :
    s0.Keeps (State.demandSin s i) := by
  unfold State.demandSin
  repeat' first
    | (intro _)
    | with_reducible assumption
    | (extract_lets +onlyGivenNames x; first | (refine (fun hx => ?_ : State.Keeps s0 x → _) ?_; (on_goal 1 => clear_value x); (on_goal 2 => subst x)) | clear_value x)
    | (with_reducible first | apply State.event_keeps | apply State.updSin_keeps | apply State.reactSin_keeps)
    | with_reducible exact fun _ h => h
    | split
    | (fail_if_no_progress beta_reduce)

theorem State.lowSide_keeps {s0 s : State} (h : s0.Keeps s) (j : Nat) :
    s0.Keeps (State.lowSide s j) := by
  unfold State.lowSide
  repeat' first
    | (intro _)
    | with_reducible assumption
    | (with_reducible first | apply State.onPair_keeps | apply State.updSo_keeps)
    | with_reducible exact fun _ h => h
    | split

theorem execGuardInputAccept_keeps (s : State) (sin : Fin 16) (isB : Bool) :
    State.KeepsOut s (execGuardInputAccept sin isB s) := by
  unfold execGuardInputAccept
  first | apply State.live_keeps | apply State.liveOn_keeps | apply keepsOut_next
  repeat' first
    | (intro _)
    | with_reducible assumption
    | (extract_lets +onlyGivenNames x; first | (refine (fun hx => ?_ : State.Keeps s x → _) ?_; (on_goal 1 => clear_value x); (on_goal 2 => subst x)) | clear_value x)
    | with_reducible exact State.Keeps.refl _
    | (with_reducible first | apply State.updSin_keeps | apply State.each_keeps | apply State.iff_keeps | apply State.demandSin_keeps | apply State.lowSide_keeps)
    | with_reducible exact fun _ h => h
    | split
    | (fail_if_no_progress beta_reduce)

theorem execDiscrepancyFault_keeps (s : State) (sin : Fin 16) :
    State.KeepsOut s (execDiscrepancyFault sin s) := by
  unfold execDiscrepancyFault
  first | apply State.live_keeps | apply State.liveOn_keeps | apply keepsOut_next
  repeat' first
    | (intro _)
    | with_reducible assumption
    | (extract_lets +onlyGivenNames x; first | (refine (fun hx => ?_ : State.Keeps s x → _) ?_; (on_goal 1 => clear_value x); (on_goal 2 => subst x)) | clear_value x)
    | with_reducible exact State.Keeps.refl _
    | (with_reducible first | apply State.event_keeps | apply State.updSin_keeps)
    | with_reducible exact fun _ h => h
    | split
    | (fail_if_no_progress beta_reduce)

theorem State.pulseEnd_keeps {s0 s : State} (h : s0.Keeps s) (i : Nat) (src : Nat) :
    s0.Keeps (State.pulseEnd s i src) := by
  unfold State.pulseEnd
  repeat' first
    | (intro _)
    | with_reducible assumption
    | (extract_lets +onlyGivenNames x; first | (refine (fun hx => ?_ : State.Keeps s0 x → _) ?_; (on_goal 1 => clear_value x); (on_goal 2 => subst x)) | clear_value x)
    | (with_reducible first | apply State.updSin_keeps | apply State.sampleSin_keeps | apply State.iff_keeps | apply State.demandSin_keeps)
    | with_reducible exact fun _ h => h
    | split
    | (fail_if_no_progress beta_reduce)

theorem execTestPulse_keeps (s : State) (source : Fin 2) (stuckA : BitVec 16) (stuckB : BitVec 16) :
    State.KeepsOut s (execTestPulse source stuckA stuckB s) := by
  unfold execTestPulse
  first | apply State.live_keeps | apply State.liveOn_keeps | apply keepsOut_next
  repeat' first
    | (intro _)
    | with_reducible assumption
    | (extract_lets +onlyGivenNames x; first | (refine (fun hx => ?_ : State.Keeps s x → _) ?_; (on_goal 1 => clear_value x); (on_goal 2 => subst x)) | clear_value x)
    | with_reducible exact State.Keeps.refl _
    | (with_reducible first | apply State.updIsl_keeps | apply State.each_keeps | apply State.pulseEnd_keeps | apply State.updSin_keeps | apply State.demandSin_keeps | apply State.event_keeps | apply State.faultSeen_keeps)
    | with_reducible exact fun _ h => h
    | split
    | (fail_if_no_progress beta_reduce)

theorem State.contactor_keeps {s0 s : State} (h : s0.Keeps s) (j : Nat) :
    s0.Keeps (State.contactor s j) := by
  unfold State.contactor
  repeat' first
    | (intro _)
    | with_reducible assumption
    | (extract_lets +onlyGivenNames x; first | (refine (fun hx => ?_ : State.Keeps s0 x → _) ?_; (on_goal 1 => clear_value x); (on_goal 2 => subst x)) | clear_value x)
    | (with_reducible first | apply State.iff_keeps | apply State.startTimer_keeps | apply State.updIo_keeps | apply State.stopTimer_keeps | apply State.lowSide_keeps | apply State.onPair_keeps | apply State.updSo_keeps | apply State.pairOffNow_keeps)
    | with_reducible exact fun _ h => h
    | split
    | (fail_if_no_progress beta_reduce)

theorem execContactorCurrentTimeout_keeps (s : State) (out : Fin 8) :
    State.KeepsOut s (execContactorCurrentTimeout out s) := by
  unfold execContactorCurrentTimeout
  first | apply State.live_keeps | apply State.liveOn_keeps | apply keepsOut_next
  repeat' first
    | (intro _)
    | with_reducible assumption
    | (extract_lets +onlyGivenNames x; first | (refine (fun hx => ?_ : State.Keeps s x → _) ?_; (on_goal 1 => clear_value x); (on_goal 2 => subst x)) | clear_value x)
    | with_reducible exact State.Keeps.refl _
    | (with_reducible first | apply State.updIo_keeps | apply State.stopTimer_keeps | apply State.onPair_keeps | apply State.stopLines_keeps | apply State.pairOffSoon_keeps)
    | with_reducible exact fun _ h => h
    | split
    | (fail_if_no_progress beta_reduce)

theorem execWeldTestEnd_keeps (s : State) (out : Fin 8) (hvMax : Int) :
    State.KeepsOut s (execWeldTestEnd out hvMax s) := by
  unfold execWeldTestEnd
  first | apply State.live_keeps | apply State.liveOn_keeps | apply keepsOut_next
  repeat' first
    | (intro _)
    | with_reducible assumption
    | (extract_lets +onlyGivenNames x; first | (refine (fun hx => ?_ : State.Keeps s x → _) ?_; (on_goal 1 => clear_value x); (on_goal 2 => subst x)) | clear_value x)
    | with_reducible exact State.Keeps.refl _
    | (with_reducible first | apply State.stopTimer_keeps | apply State.weldFound_keeps | apply State.updIo_keeps)
    | with_reducible exact fun _ h => h
    | split
    | (fail_if_no_progress beta_reduce)

theorem execWeldCheckEnd_keeps (s : State) (out : Fin 8) (hvMin : Int) (hvMax : Int) (diffMax : Nat) :
    State.KeepsOut s (execWeldCheckEnd out hvMin hvMax diffMax s) := by
  unfold execWeldCheckEnd
  first | apply State.live_keeps | apply State.liveOn_keeps | apply keepsOut_next
  repeat' first
    | (intro _)
    | with_reducible assumption
    | (extract_lets +onlyGivenNames x; first | (refine (fun hx => ?_ : State.Keeps s x → _) ?_; (on_goal 1 => clear_value x); (on_goal 2 => subst x)) | clear_value x)
    | with_reducible exact State.Keeps.refl _
    | (with_reducible first | apply State.stopTimer_keeps | apply State.event_keeps | apply State.weldFound_keeps)
    | with_reducible exact fun _ h => h
    | split
    | (fail_if_no_progress beta_reduce)

theorem State.imdMark_keeps {s0 s : State} (h : s0.Keeps s) (j : Nat) :
    s0.Keeps (State.imdMark s j) := by
  unfold State.imdMark
  repeat' first
    | (intro _)
    | with_reducible assumption
    | (with_reducible first | apply State.updIo_keeps)
    | with_reducible exact fun _ h => h
    | split

theorem State.imdTick_keeps {s0 s : State} (h : s0.Keeps s) (j : Nat) :
    s0.Keeps (State.imdTick s j) := by
  unfold State.imdTick
  repeat' first
    | (intro _)
    | with_reducible assumption
    | (extract_lets +onlyGivenNames x; first | (refine (fun hx => ?_ : State.Keeps s0 x → _) ?_; (on_goal 1 => clear_value x); (on_goal 2 => subst x)) | clear_value x)
    | (with_reducible first | apply State.updIo_keeps)
    | with_reducible exact fun _ h => h
    | split
    | (fail_if_no_progress beta_reduce)

theorem execInsulationResult_keeps (s : State) (out : Fin 8) (rf : BitVec 24) (selfTest : Bool) :
    State.KeepsOut s (execInsulationResult out rf selfTest s) := by
  unfold execInsulationResult
  first | apply State.live_keeps | apply State.liveOn_keeps | apply keepsOut_next
  repeat' first
    | (intro _)
    | with_reducible assumption
    | (extract_lets +onlyGivenNames x; first | (refine (fun hx => ?_ : State.Keeps s x → _) ?_; (on_goal 1 => clear_value x); (on_goal 2 => subst x)) | (have y : State → State := x; clear y; subst x) | (have y : State → _ → State := x; clear y; subst x) | (have y : _ → State → State := x; clear y; subst x) | (have y : _ → _ → State → State := x; clear y; subst x) | (have y : State → _ → _ → State := x; clear y; subst x) | (have y : State → _ → State × _ := x; clear y; subst x) | clear_value x)
    | with_reducible exact State.Keeps.refl _
    | (with_reducible first | apply State.iff_keeps | apply State.updIo_keeps | apply State.event_keeps | apply State.faultSeen_keeps | apply State.insulGood_keeps | apply State.endNow_keeps | apply State.tripNew_keeps)
    | with_reducible exact fun _ h => h
    | split
    | (fail_if_no_progress beta_reduce)

theorem State.degradedTick_keeps {s0 s : State} (h : s0.Keeps s) :
    s0.Keeps (State.degradedTick s) := by
  unfold State.degradedTick
  repeat' first
    | (intro _)
    | with_reducible assumption
    | (extract_lets +onlyGivenNames x; first | (refine (fun hx => ?_ : State.Keeps s0 x → _) ?_; (on_goal 1 => clear_value x); (on_goal 2 => subst x)) | clear_value x)
    | (with_reducible first | apply State.safeState_keeps | apply State.updIsl_keeps | apply State.event_keeps | apply State.setMode_keeps | apply State.setIstate_keeps)
    | with_reducible exact fun _ h => h
    | split
    | (fail_if_no_progress beta_reduce)

theorem State.degCount_keeps {s0 s : State} (h : s0.Keeps s) :
    s0.Keeps (State.degCount s) := by
  unfold State.degCount
  repeat' first
    | (intro _)
    | with_reducible assumption
    | (with_reducible first | apply State.updIsl_keeps | apply State.iff_keeps)
    | with_reducible exact fun _ h => h
    | split

theorem execDegradedExpiry_keeps (s : State) :
    State.KeepsOut s (execDegradedExpiry s) := by
  unfold execDegradedExpiry
  first | apply State.live_keeps | apply State.liveOn_keeps | apply keepsOut_next
  repeat' first
    | (intro _)
    | with_reducible assumption
    | with_reducible exact State.Keeps.refl _
    | (with_reducible first | apply State.event_keeps | apply State.stopThenSafe_keeps)
    | with_reducible exact fun _ h => h
    | split

theorem State.afterStopTick_keeps {s0 s : State} (h : s0.Keeps s) :
    s0.Keeps (State.afterStopTick s) := by
  unfold State.afterStopTick
  repeat' first
    | (intro _)
    | with_reducible assumption
    | (with_reducible first | apply State.safeState_keeps)
    | with_reducible exact fun _ h => h
    | split

theorem State.clearLatches_keeps {s0 s : State} (h : s0.Keeps s) (svc : Bool) :
    s0.Keeps (State.clearLatches s svc) := by
  unfold State.clearLatches
  repeat' first
    | (intro _)
    | with_reducible assumption
    | (extract_lets +onlyGivenNames x; first | (refine (fun hx => ?_ : State.Keeps s0 x → _) ?_; (on_goal 1 => clear_value x); (on_goal 2 => subst x)) | clear_value x)
    | (with_reducible first | apply State.each_keeps | apply State.updIo_keeps | apply State.iff_keeps | apply State.event_keeps | apply State.updIsl_keeps | apply State.sampleSin_keeps | apply State.updSin_keeps)
    | with_reducible exact fun _ h => h
    | split
    | (fail_if_no_progress beta_reduce)

theorem State.restoreDeg_keeps {s0 s : State} (h : s0.Keeps s) :
    s0.Keeps (State.restoreDeg s) := by
  unfold State.restoreDeg
  repeat' first
    | (intro _)
    | with_reducible assumption
    | (extract_lets +onlyGivenNames x; first | (refine (fun hx => ?_ : State.Keeps s0 x → _) ?_; (on_goal 1 => clear_value x); (on_goal 2 => subst x)) | clear_value x)
    | (with_reducible first | apply State.updIsl_keeps | apply State.event_keeps | apply State.setMode_keeps | apply State.setIstate_keeps)
    | with_reducible exact fun _ h => h
    | split
    | (fail_if_no_progress beta_reduce)

theorem State.resetRequest_keeps {s0 s : State} (h : s0.Keeps s) (svc : Bool) :
    s0.Keeps (State.resetRequest s svc) := by
  unfold State.resetRequest
  repeat' first
    | (intro _)
    | with_reducible assumption
    | (extract_lets +onlyGivenNames x; first | (refine (fun hx => ?_ : State.Keeps s0 x → _) ?_; (on_goal 1 => clear_value x); (on_goal 2 => subst x)) | clear_value x)
    | (with_reducible first | apply State.event_keeps | apply State.clearLatches_keeps | apply State.startTimer_keeps | apply State.updIsl_keeps | apply State.iff_keeps | apply State.restoreDeg_keeps)
    | with_reducible exact fun _ h => h
    | split
    | (fail_if_no_progress beta_reduce)

theorem State.hostReset_keeps {s0 s : State} (h : s0.Keeps s) :
    s0.Keeps (State.hostReset s) := by
  unfold State.hostReset
  repeat' first
    | (intro _)
    | with_reducible assumption
    | (with_reducible first | apply State.resetRequest_keeps | apply State.event_keeps)
    | with_reducible exact fun _ h => h
    | split

theorem execResetLatentComplete_keeps (s : State) (pass : Bool) :
    State.KeepsOut s (execResetLatentComplete pass s) := by
  unfold execResetLatentComplete
  first | apply State.live_keeps | apply State.liveOn_keeps | apply keepsOut_next
  repeat' first
    | (intro _)
    | with_reducible assumption
    | (extract_lets +onlyGivenNames x; first | (refine (fun hx => ?_ : State.Keeps s x → _) ?_; (on_goal 1 => clear_value x); (on_goal 2 => subst x)) | clear_value x)
    | with_reducible exact State.Keeps.refl _
    | (with_reducible first | apply State.updIsl_keeps | apply State.stopTimer_keeps | apply State.iff_keeps | apply State.restoreDeg_keeps | apply State.setMode_keeps | apply State.setIstate_keeps | apply State.releaseLines_keeps | apply State.event_keeps | apply State.faultSeen_keeps)
    | with_reducible exact fun _ h => h
    | split
    | (fail_if_no_progress beta_reduce)

theorem State.dropCand_keeps {s0 s : State} (h : s0.Keeps s) (why : Nat) :
    s0.Keeps (State.dropCand s why) := by
  unfold State.dropCand
  repeat' first
    | (intro _)
    | with_reducible assumption
    | (with_reducible first | apply State.stopTimer_keeps | apply State.updIsl_keeps | apply State.event_keeps)
    | with_reducible exact fun _ h => h
    | split

theorem State.takeCandidate_keeps {s0 s : State} (h : s0.Keeps s) (img : List Byte) :
    s0.Keeps (State.takeCandidate s img) := by
  unfold State.takeCandidate
  repeat' first
    | (intro _)
    | with_reducible assumption
    | (extract_lets +onlyGivenNames x; first | (refine (fun hx => ?_ : State.Keeps s0 x → _) ?_; (on_goal 1 => clear_value x); (on_goal 2 => subst x)) | clear_value x)
    | (with_reducible first | apply State.startTimer_keeps | apply State.stopTimer_keeps | apply State.updIsl_keeps | apply State.event_keeps)
    | with_reducible exact fun _ h => h
    | split

theorem State.hostConfirm_keeps {s0 s : State} (h : s0.Keeps s) (chk : Nat) :
    s0.Keeps (State.hostConfirm s chk) := by
  unfold State.hostConfirm
  repeat' first
    | (intro _)
    | with_reducible assumption
    | (with_reducible first | apply State.dropCand_keeps | apply State.startTimer_keeps | apply State.stopTimer_keeps | apply State.updIsl_keeps | apply State.event_keeps)
    | with_reducible exact fun _ h => h
    | split

theorem State.setThresholds_keeps {s0 s : State} (h : s0.Keeps s) :
    s0.Keeps (State.setThresholds s) := by
  unfold State.setThresholds
  repeat' first
    | (intro _)
    | with_reducible assumption
    | (with_reducible first | apply State.updIsl_keeps)
    | with_reducible exact fun _ h => h
    | split

theorem State.ackCandidate_keeps {s0 s : State} (h : s0.Keeps s) :
    s0.Keeps (State.ackCandidate s) := by
  unfold State.ackCandidate
  repeat' first
    | (intro _)
    | with_reducible assumption
    | (extract_lets +onlyGivenNames x; first | (refine (fun hx => ?_ : State.Keeps s0 x → _) ?_; (on_goal 1 => clear_value x); (on_goal 2 => subst x)) | clear_value x)
    | (with_reducible first | apply State.dropCand_keeps | apply State.event_keeps | apply State.iff_keeps | apply State.setFld_keeps | apply State.each_keeps | apply State.setReg_keeps | apply State.updIsl_keeps | apply State.stopTimer_keeps | apply State.setThresholds_keeps | apply State.setIstate_keeps)
    | with_reducible exact fun _ h => h
    | split
    | (fail_if_no_progress beta_reduce)

theorem State.latentTick_keeps {s0 s : State} (h : s0.Keeps s) (j : Nat) :
    s0.Keeps (State.latentTick s j) := by
  unfold State.latentTick
  repeat' first
    | (intro _)
    | with_reducible assumption
    | (extract_lets +onlyGivenNames x; first | (refine (fun hx => ?_ : State.Keeps s0 x → _) ?_; (on_goal 1 => clear_value x); (on_goal 2 => subst x)) | clear_value x)
    | (with_reducible first | apply State.updIo_keeps)
    | with_reducible exact fun _ h => h
    | split
    | (fail_if_no_progress beta_reduce)

theorem execLatentTestDue_keeps (s : State) (out : Fin 8) (res : LatentRes) :
    State.KeepsOut s (execLatentTestDue out res s) := by
  unfold execLatentTestDue
  first | apply State.live_keeps | apply State.liveOn_keeps | apply keepsOut_next
  repeat' first
    | (intro _)
    | with_reducible assumption
    | (extract_lets +onlyGivenNames x; first | (refine (fun hx => ?_ : State.Keeps s x → _) ?_; (on_goal 1 => clear_value x); (on_goal 2 => subst x)) | clear_value x)
    | with_reducible exact State.Keeps.refl _
    | (with_reducible first | apply State.event_keeps | apply State.updIo_keeps | apply State.onPair_keeps | apply State.updSo_keeps | apply State.faultSeen_keeps)
    | with_reducible exact fun _ h => h
    | split
    | (fail_if_no_progress beta_reduce)

theorem execClockMonitorFault_keeps (s : State) :
    State.KeepsOut s (execClockMonitorFault s) := by
  unfold execClockMonitorFault
  first | apply State.live_keeps | apply State.liveOn_keeps | apply keepsOut_next
  repeat' first
    | (intro _)
    | with_reducible assumption
    | with_reducible exact State.Keeps.refl _
    | (with_reducible first | apply State.faultSafe_keeps | apply State.event_keeps)
    | with_reducible exact fun _ h => h
    | split

theorem execIslandSupplyFault_keeps (s : State) (source : Fin 3) (good : Bool) :
    State.KeepsOut s (execIslandSupplyFault source good s) := by
  unfold execIslandSupplyFault
  first | apply State.live_keeps | apply State.liveOn_keeps | apply keepsOut_next
  repeat' first
    | (intro _)
    | with_reducible assumption
    | (extract_lets +onlyGivenNames x; first | (refine (fun hx => ?_ : State.Keeps s x → _) ?_; (on_goal 1 => clear_value x); (on_goal 2 => subst x)) | clear_value x)
    | with_reducible exact State.Keeps.refl _
    | (with_reducible first | apply State.updIsl_keeps | apply State.iff_keeps | apply State.event_keeps | apply State.faultSeen_keeps | apply State.faultHeld_keeps)
    | with_reducible exact fun _ h => h
    | split
    | (fail_if_no_progress beta_reduce)

theorem State.switchFault_keeps {s0 s : State} (h : s0.Keeps s) (k : Nat) (hs : Option Bool) (ls : Option Bool) :
    s0.Keeps (State.switchFault s k hs ls) := by
  unfold State.switchFault
  repeat' first
    | (intro _)
    | with_reducible assumption
    | (extract_lets +onlyGivenNames x; first | (refine (fun hx => ?_ : State.Keeps s0 x → _) ?_; (on_goal 1 => clear_value x); (on_goal 2 => subst x)) | clear_value x)
    | (with_reducible first | apply State.updSo_keeps | apply State.iff_keeps | apply State.safeState_keeps)
    | with_reducible exact fun _ h => h
    | split
    | (fail_if_no_progress beta_reduce)

theorem execSoReadbackFault_keeps (s : State) (pair : Fin 8) (hs : Bool) (ls : Bool) :
    State.KeepsOut s (execSoReadbackFault pair hs ls s) := by
  unfold execSoReadbackFault
  first | apply State.live_keeps | apply State.liveOn_keeps | apply keepsOut_next
  repeat' first
    | (intro _)
    | with_reducible assumption
    | (extract_lets +onlyGivenNames x; first | (refine (fun hx => ?_ : State.Keeps s x → _) ?_; (on_goal 1 => clear_value x); (on_goal 2 => subst x)) | clear_value x)
    | with_reducible exact State.Keeps.refl _
    | (with_reducible first | apply State.iff_keeps | apply State.event_keeps | apply State.switchFault_keeps | apply State.faultSeen_keeps)
    | with_reducible exact fun _ h => h
    | split
    | (fail_if_no_progress beta_reduce)

theorem execSoTestPulse_keeps (s : State) (pair : Fin 8) (low : Bool) (offUs : Option Nat) (onUs : Option Nat) :
    State.KeepsOut s (execSoTestPulse pair low offUs onUs s) := by
  unfold execSoTestPulse
  first | apply State.live_keeps | apply State.liveOn_keeps | apply keepsOut_next
  repeat' first
    | (intro _)
    | with_reducible assumption
    | (extract_lets +onlyGivenNames x; first | (refine (fun hx => ?_ : State.Keeps s x → _) ?_; (on_goal 1 => clear_value x); (on_goal 2 => subst x)) | (have y : State → State := x; clear y; subst x) | (have y : State → _ → State := x; clear y; subst x) | (have y : _ → State → State := x; clear y; subst x) | (have y : _ → _ → State → State := x; clear y; subst x) | (have y : State → _ → _ → State := x; clear y; subst x) | (have y : State → _ → State × _ := x; clear y; subst x) | clear_value x)
    | with_reducible exact State.Keeps.refl _
    | (with_reducible first | apply State.switchFault_keeps | apply State.event_keeps | apply State.faultSeen_keeps | apply State.inc_keeps | apply State.setSat_keeps | apply State.updSo_keeps)
    | with_reducible exact fun _ h => h
    | split
    | (fail_if_no_progress beta_reduce)

theorem execSoOvercurrent_keeps (s : State) (pair : Fin 8) :
    State.KeepsOut s (execSoOvercurrent pair s) := by
  unfold execSoOvercurrent
  first | apply State.live_keeps | apply State.liveOn_keeps | apply keepsOut_next
  repeat' first
    | (intro _)
    | with_reducible assumption
    | (extract_lets +onlyGivenNames x; first | (refine (fun hx => ?_ : State.Keeps s x → _) ?_; (on_goal 1 => clear_value x); (on_goal 2 => subst x)) | clear_value x)
    | with_reducible exact State.Keeps.refl _
    | (with_reducible first | apply State.event_keeps | apply State.updSo_keeps | apply State.pairOffNow_keeps | apply State.safetyEnd_keeps | apply State.stopLines_keeps)
    | with_reducible exact fun _ h => h
    | split
    | (fail_if_no_progress beta_reduce)

theorem execSoSupFault_keeps (s : State) (dV : Nat) :
    State.KeepsOut s (execSoSupFault dV s) := by
  unfold execSoSupFault
  first | apply State.live_keeps | apply State.liveOn_keeps | apply keepsOut_next
  repeat' first
    | (intro _)
    | with_reducible assumption
    | with_reducible exact State.Keeps.refl _
    | (with_reducible first | apply State.iff_keeps | apply State.setSat_keeps | apply State.event_keeps)
    | with_reducible exact fun _ h => h
    | split

theorem State.evalOut_keeps {s0 s : State} (h : s0.Keeps s) (j : Nat) (a2 : IslIn) :
    s0.Keeps (State.evalOut s j a2) := by
  unfold State.evalOut
  repeat' first
    | (intro _)
    | with_reducible assumption
    | (extract_lets +onlyGivenNames x; first | (refine (fun hx => ?_ : State.Keeps s0 x → _) ?_; (on_goal 1 => clear_value x); (on_goal 2 => subst x)) | clear_value x)
    | (with_reducible first | apply State.updIo_keeps | apply State.iff_keeps | apply State.tripNew_keeps | apply State.earthFault_keeps | apply State.controlledStop_keeps | apply id_keeps)
    | with_reducible exact fun _ h => h
    | split
    | (fail_if_no_progress beta_reduce)

theorem State.settle_keeps {s0 s : State} (h : s0.Keeps s) (j : Nat) :
    s0.Keeps (State.settle s j) := by
  unfold State.settle
  repeat' first
    | (intro _)
    | with_reducible assumption
    | (extract_lets +onlyGivenNames x; first | (refine (fun hx => ?_ : State.Keeps s0 x → _) ?_; (on_goal 1 => clear_value x); (on_goal 2 => subst x)) | clear_value x)
    | (with_reducible first | apply State.iff_keeps | apply State.event_keeps | apply State.updIo_keeps | apply State.stopTimer_keeps)
    | with_reducible exact fun _ h => h
    | split
    | (fail_if_no_progress beta_reduce)

theorem State.failedOpen_keeps {s0 s : State} (h : s0.Keeps s) (j : Nat) :
    s0.Keeps (State.failedOpen s j) := by
  unfold State.failedOpen
  repeat' first
    | (intro _)
    | with_reducible assumption
    | (with_reducible first | apply State.onPair_keeps | apply State.pairOffNow_keeps)
    | with_reducible exact fun _ h => h
    | split

theorem State.scPublish_keeps {s0 s : State} (h : s0.Keeps s) :
    s0.Keeps (State.scPublish s) := by
  unfold State.scPublish
  repeat' first
    | (intro _)
    | with_reducible assumption
    | (extract_lets +onlyGivenNames x; first | (refine (fun hx => ?_ : State.Keeps s0 x → _) ?_; (on_goal 1 => clear_value x); (on_goal 2 => subst x)) | clear_value x)
    | (with_reducible first | apply State.each_keeps | apply State.setClamp_keeps | apply State.updSh_keeps)
    | with_reducible exact fun _ h => h
    | split
    | (fail_if_no_progress beta_reduce)

theorem State.mirrorNow_keeps {s0 s : State} (h : s0.Keeps s) :
    s0.Keeps (State.mirrorNow s) := by
  unfold State.mirrorNow
  repeat' first
    | (intro _)
    | with_reducible assumption
    | (extract_lets +onlyGivenNames x; first | (refine (fun hx => ?_ : State.Keeps s0 x → _) ?_; (on_goal 1 => clear_value x); (on_goal 2 => subst x)) | clear_value x)
    | (with_reducible first | apply State.setFlag_keeps | apply State.setFld_keeps | apply State.setSat_keeps | apply State.each_keeps | apply foldl_keeps)
    | with_reducible exact fun _ h => h
    | split
    | (fail_if_no_progress beta_reduce)

theorem State.mirrorFill_keeps {s0 s : State} (h : s0.Keeps s) :
    s0.Keeps (State.mirrorFill s) := by
  unfold State.mirrorFill
  repeat' first
    | (intro _)
    | with_reducible assumption
    | (extract_lets +onlyGivenNames x; first | (refine (fun hx => ?_ : State.Keeps s0 x → _) ?_; (on_goal 1 => clear_value x); (on_goal 2 => subst x)) | clear_value x)
    | (with_reducible first | apply State.mirrorNow_keeps | apply State.updSh_keeps)
    | with_reducible exact fun _ h => h
    | split
    | (fail_if_no_progress beta_reduce)

theorem State.mirror_keeps {s0 s : State} (h : s0.Keeps s) :
    s0.Keeps (State.mirror s) := by
  unfold State.mirror
  repeat' first
    | (intro _)
    | with_reducible assumption
    | (with_reducible first | apply State.each_keeps | apply State.setReg_keeps)
    | with_reducible exact fun _ h => h
    | split

theorem State.sampleAll_keeps {s0 s : State} (h : s0.Keeps s) :
    s0.Keeps (State.sampleAll s) := by
  unfold State.sampleAll
  repeat' first
    | (intro _)
    | with_reducible assumption
    | (extract_lets +onlyGivenNames x; first | (refine (fun hx => ?_ : State.Keeps s0 x → _) ?_; (on_goal 1 => clear_value x); (on_goal 2 => subst x)) | clear_value x)
    | (with_reducible first | apply State.each_keeps | apply State.updSin_keeps | apply State.sampleSin_keeps)
    | with_reducible exact fun _ h => h
    | split
    | (fail_if_no_progress beta_reduce)

theorem State.safetyCycle_keeps {s0 s : State} (h : s0.Keeps s) (a1 : List IslIn) :
    s0.Keeps (State.safetyCycle s a1) := by
  unfold State.safetyCycle
  repeat' first
    | (intro _)
    | with_reducible assumption
    | (extract_lets +onlyGivenNames x; first | (refine (fun hx => ?_ : State.Keeps s0 x → _) ?_; (on_goal 1 => clear_value x); (on_goal 2 => subst x)) | clear_value x)
    | (with_reducible first | apply State.sampleAll_keeps | apply State.each_keeps | apply State.iff_keeps | apply State.demandSin_keeps | apply State.updIsl_keeps | apply State.safeState_keeps | apply State.updIo_keeps | apply State.evalOut_keeps | apply State.degradedTick_keeps | apply State.degCount_keeps | apply State.imdMark_keeps | apply State.latentTick_keeps | apply State.settle_keeps | apply State.failedOpen_keeps | apply State.imdTick_keeps | apply State.contactor_keeps | apply State.scPublish_keeps | apply State.afterStopTick_keeps)
    | with_reducible exact fun _ h => h
    | split
    | (fail_if_no_progress beta_reduce)

end Sys2Proof.Machine
end

