-- ==== Sys2Proof/Laws/KeepsMetrology.lean ====
section
/-!
SUPPORT. What every command keeps, for the operations and commands of Machine/Metrology.lean.
-/

set_option linter.all false

namespace Sys2Proof.Machine

open Sys2Proof

theorem State.updMet_keeps {s0 s : State} (h : s0.Keeps s) (f : MetSt → MetSt) :
    s0.Keeps (State.updMet s f) := by
  unfold State.updMet
  repeat' first
    | (intro _)
    | with_reducible assumption
    | split
    | (with_reducible apply State.mk_keeps; (rotate_left); all_goals first | with_reducible rfl | exact upd_length _ _ _ | exact List.length_map _ | skip)
    | with_reducible exact fun _ h => h
    | split

theorem State.updMo_keeps {s0 s : State} (h : s0.Keeps s) (j : Nat) (f : MetOut → MetOut) :
    s0.Keeps (State.updMo s j f) := by
  unfold State.updMo
  repeat' first
    | (intro _)
    | with_reducible assumption
    | (with_reducible first | apply State.updMet_keeps)
    | with_reducible exact fun _ h => h
    | split

theorem State.updMf_keeps {s0 s : State} (h : s0.Keeps s) (i : Nat) (f : MetFeed → MetFeed) :
    s0.Keeps (State.updMf s i f) := by
  unfold State.updMf
  repeat' first
    | (intro _)
    | with_reducible assumption
    | (with_reducible first | apply State.updMet_keeps)
    | with_reducible exact fun _ h => h
    | split

theorem State.updRot_keeps {s0 s : State} (h : s0.Keeps s) (e : Nat) (f : RotSt → RotSt) :
    s0.Keeps (State.updRot s e f) := by
  unfold State.updRot
  repeat' first
    | (intro _)
    | with_reducible assumption
    | (with_reducible first | apply State.updMet_keeps)
    | with_reducible exact fun _ h => h
    | split

theorem State.noLoad_keeps {s0 s : State} (h : s0.Keeps s) (j : Nat) (nl : Bool) :
    s0.Keeps (State.noLoad s j nl) := by
  unfold State.noLoad
  repeat' first
    | (intro _)
    | with_reducible assumption
    | (extract_lets +onlyGivenNames x; first | (refine (fun hx => ?_ : State.Keeps s0 x → _) ?_; (on_goal 1 => clear_value x); (on_goal 2 => subst x)) | clear_value x)
    | (with_reducible first | apply State.updMo_keeps | apply State.event_keeps)
    | with_reducible exact fun _ h => h
    | split
    | (fail_if_no_progress beta_reduce)

theorem State.legacy_keeps {s0 s : State} (h : s0.Keeps s) (j : Nat) (r : SfOut) (e : Nat × Nat) :
    s0.Keeps (State.legacy s j r e).1 := by
  unfold State.legacy
  repeat' first
    | (intro _)
    | with_reducible assumption
    | (extract_lets +onlyGivenNames x; first | (refine (fun hx => ?_ : State.Keeps s0 x → _) ?_; (on_goal 1 => clear_value x); (on_goal 2 => subst x)) | clear_value x)
    | (with_reducible first | apply State.setFlag_keeps | apply State.updMo_keeps)
    | with_reducible exact fun _ h => h
    | split
    | (fail_if_no_progress beta_reduce)

theorem State.publishOut_keeps {s0 s : State} (h : s0.Keeps s) (j : Nat) (r : SfOut) (valid : Bool) :
    s0.Keeps (State.publishOut s j r valid) := by
  unfold State.publishOut
  repeat' first
    | (intro _)
    | with_reducible assumption
    | (extract_lets +onlyGivenNames x; first | (refine (fun hx => ?_ : State.Keeps s0 x → _) ?_; (on_goal 1 => clear_value x); (on_goal 2 => subst x)) | clear_value x)
    | (with_reducible first | apply State.updSh_keeps | apply State.setFldS_keeps | apply State.setFlag_keeps | apply State.setSat_keeps | apply State.setFld_keeps)
    | with_reducible exact fun _ h => h
    | split
    | (fail_if_no_progress beta_reduce)

theorem State.captureRun_keeps {s0 s : State} (h : s0.Keeps s) (j : Nat) (u6 : List Int) (fi : List Int) :
    s0.Keeps (State.captureRun s j u6 fi) := by
  unfold State.captureRun
  repeat' first
    | (intro _)
    | with_reducible assumption
    | (extract_lets +onlyGivenNames x; first | (refine (fun hx => ?_ : State.Keeps s0 x → _) ?_; (on_goal 1 => clear_value x); (on_goal 2 => subst x)) | clear_value x)
    | (with_reducible first | apply State.updMo_keeps)
    | with_reducible exact fun _ h => h
    | split
    | (fail_if_no_progress beta_reduce)

theorem State.meterOut_keeps {s0 s : State} (h : s0.Keeps s) (j : Nat) (a2 : MetOutIn) :
    s0.Keeps (State.meterOut s j a2) := by
  unfold State.meterOut
  repeat' first
    | (intro _)
    | with_reducible assumption
    | (extract_lets +onlyGivenNames x; first | (refine (fun hx => ?_ : State.Keeps s0 x → _) ?_; (on_goal 1 => clear_value x); (on_goal 2 => subst x)) | (refine (fun hx => ?_ : State.Keeps s0 x.1 → _) ?_; (on_goal 1 => clear_value x); (on_goal 2 => subst x)) | (refine (fun hx => ?_ : State.Keeps s0 x.2 → _) ?_; (on_goal 1 => clear_value x); (on_goal 2 => subst x)) | clear_value x)
    | (with_reducible first | apply State.updMo_keeps | apply State.iff_keeps | apply State.event_keeps | apply State.captureRun_keeps | apply State.inc_keeps | apply State.legacy_keeps | apply State.noLoad_keeps | apply State.publishOut_keeps | apply State.setFlag_keeps)
    | with_reducible exact fun _ h => h
    | split
    | (fail_if_no_progress beta_reduce)

theorem State.windowMark_keeps {s0 s : State} (h : s0.Keeps s) (f : Nat) (t : Nat) (next : Nat) (freq : Nat) :
    s0.Keeps (State.windowMark s f t next freq) := by
  unfold State.windowMark
  repeat' first
    | (intro _)
    | with_reducible assumption
    | (extract_lets +onlyGivenNames x; first | (refine (fun hx => ?_ : State.Keeps s0 x → _) ?_; (on_goal 1 => clear_value x); (on_goal 2 => subst x)) | clear_value x)
    | (with_reducible first | apply State.updMf_keeps)
    | with_reducible exact fun _ h => h
    | split
    | (fail_if_no_progress beta_reduce)

theorem State.cycleDone_keeps {s0 s : State} (h : s0.Keeps s) (f : Nat) (t : Nat) (next : Nat) :
    s0.Keeps (State.cycleDone s f t next) := by
  unfold State.cycleDone
  repeat' first
    | (intro _)
    | with_reducible assumption
    | (extract_lets +onlyGivenNames x; first | (refine (fun hx => ?_ : State.Keeps s0 x → _) ?_; (on_goal 1 => clear_value x); (on_goal 2 => subst x)) | clear_value x)
    | (with_reducible first | apply State.updMf_keeps | apply State.iff_keeps | apply State.setFlag_keeps | apply State.event_keeps | apply State.windowMark_keeps)
    | with_reducible exact fun _ h => h
    | split
    | (fail_if_no_progress beta_reduce)

theorem State.feedSample_keeps {s0 s : State} (h : s0.Keeps s) (f : Nat) (a2 : List Int) (t : Nat) :
    s0.Keeps (State.feedSample s f a2 t) := by
  unfold State.feedSample
  repeat' first
    | (intro _)
    | with_reducible assumption
    | (extract_lets +onlyGivenNames x; first | (refine (fun hx => ?_ : State.Keeps s0 x → _) ?_; (on_goal 1 => clear_value x); (on_goal 2 => subst x)) | clear_value x)
    | (with_reducible first | apply State.cycleDone_keeps | apply State.updMf_keeps)
    | with_reducible exact fun _ h => h
    | split
    | (fail_if_no_progress beta_reduce)

theorem State.publishFeed_keeps {s0 s : State} (h : s0.Keeps s) (f : Nat) (a2 : List (List Int)) :
    s0.Keeps (State.publishFeed s f a2) := by
  unfold State.publishFeed
  repeat' first
    | (intro _)
    | with_reducible assumption
    | (extract_lets +onlyGivenNames x; first | (refine (fun hx => ?_ : State.Keeps s0 x → _) ?_; (on_goal 1 => clear_value x); (on_goal 2 => subst x)) | clear_value x)
    | (with_reducible first | apply State.updSh_keeps | apply State.updMf_keeps | apply State.each_keeps | apply State.setFldS_keeps | apply State.setSat_keeps | apply State.setFlag_keeps)
    | with_reducible exact fun _ h => h
    | split
    | (fail_if_no_progress beta_reduce)

theorem State.meterFeed_keeps {s0 s : State} (h : s0.Keeps s) (f : Nat) (a2 : FeedIn) :
    s0.Keeps (State.meterFeed s f a2) := by
  unfold State.meterFeed
  repeat' first
    | (intro _)
    | with_reducible assumption
    | (extract_lets +onlyGivenNames x; first | (refine (fun hx => ?_ : State.Keeps s0 x → _) ?_; (on_goal 1 => clear_value x); (on_goal 2 => subst x)) | clear_value x)
    | (with_reducible first | apply State.iff_keeps | apply State.event_keeps | apply State.inc_keeps | apply State.each_keeps | apply State.feedSample_keeps | apply State.publishFeed_keeps | apply State.updMf_keeps)
    | with_reducible exact fun _ h => h
    | split
    | (fail_if_no_progress beta_reduce)

theorem State.showRot_keeps {s0 s : State} (h : s0.Keeps s) (e : Nat) :
    s0.Keeps (State.showRot s e) := by
  unfold State.showRot
  repeat' first
    | (intro _)
    | with_reducible assumption
    | (extract_lets +onlyGivenNames x; first | (refine (fun hx => ?_ : State.Keeps s0 x → _) ?_; (on_goal 1 => clear_value x); (on_goal 2 => subst x)) | clear_value x)
    | (with_reducible first | apply State.setFlag_keeps | apply State.setFld_keeps)
    | with_reducible exact fun _ h => h
    | split

theorem State.rotStep_keeps {s0 s : State} (h : s0.Keeps s) (e : Nat) (st : Nat) :
    s0.Keeps (State.rotStep s e st) := by
  unfold State.rotStep
  repeat' first
    | (intro _)
    | with_reducible assumption
    | (with_reducible first | apply State.showRot_keeps | apply State.updRot_keeps)
    | with_reducible exact fun _ h => h
    | split

theorem State.rotAbandon_keeps {s0 s : State} (h : s0.Keeps s) :
    s0.Keeps (State.rotAbandon s) := by
  unfold State.rotAbandon
  repeat' first
    | (intro _)
    | with_reducible assumption
    | (with_reducible first | apply State.each_keeps | apply State.iff_keeps | apply State.event_keeps | apply State.stopTimer_keeps | apply State.updRot_keeps | apply State.rotStep_keeps)
    | with_reducible exact fun _ h => h
    | split

theorem State.enterBench_keeps {s0 s : State} (h : s0.Keeps s) :
    s0.Keeps (State.enterBench s) := by
  unfold State.enterBench
  repeat' first
    | (intro _)
    | with_reducible assumption
    | (extract_lets +onlyGivenNames x; first | (refine (fun hx => ?_ : State.Keeps s0 x → _) ?_; (on_goal 1 => clear_value x); (on_goal 2 => subst x)) | clear_value x)
    | (with_reducible first | apply State.setMode_keeps | apply State.iff_keeps | apply State.rotAbandon_keeps)
    | with_reducible exact fun _ h => h
    | split
    | (fail_if_no_progress beta_reduce)

theorem execRotationStepStart_keeps (s : State) (fe : Fin 10) :
    State.KeepsOut s (execRotationStepStart fe s) := by
  unfold execRotationStepStart
  first | apply State.live_keeps | apply keepsOut_next
  repeat' first
    | (intro _)
    | with_reducible assumption
    | with_reducible exact State.Keeps.refl _
    | (with_reducible first | apply State.rotStep_keeps | apply State.stopTimer_keeps)
    | with_reducible exact fun _ h => h
    | split

theorem State.refMonitor_keeps {s0 s : State} (h : s0.Keeps s) (e : Nat) (ppm : Int) :
    s0.Keeps (State.refMonitor s e ppm) := by
  unfold State.refMonitor
  repeat' first
    | (intro _)
    | with_reducible assumption
    | (extract_lets +onlyGivenNames x; first | (refine (fun hx => ?_ : State.Keeps s0 x → _) ?_; (on_goal 1 => clear_value x); (on_goal 2 => subst x)) | clear_value x)
    | (with_reducible first | apply State.setFlag_keeps | apply State.iff_keeps | apply State.setFld_keeps | apply State.updRot_keeps | apply State.setFldS_keeps | apply State.event_keeps | apply foldl_keeps)
    | with_reducible exact fun _ h => h
    | split

theorem execRotationStepEnd_keeps (s : State) (fe : Fin 10) (res : RotResult) :
    State.KeepsOut s (execRotationStepEnd fe res s) := by
  unfold execRotationStepEnd
  first | apply State.live_keeps | apply State.liveOn_keeps | apply keepsOut_next
  repeat' first
    | (intro _)
    | with_reducible assumption
    | (extract_lets +onlyGivenNames x; first | (refine (fun hx => ?_ : State.Keeps s x → _) ?_; (on_goal 1 => clear_value x); (on_goal 2 => subst x)) | clear_value x)
    | with_reducible exact State.Keeps.refl _
    | (with_reducible first | apply State.rotStep_keeps | apply State.updRot_keeps | apply State.refMonitor_keeps | apply State.iff_keeps | apply State.setFldS_keeps | apply State.event_keeps | apply State.inc_keeps | apply State.startTimer_keeps)
    | with_reducible exact fun _ h => h
    | split
    | (fail_if_no_progress beta_reduce)

theorem State.rotExchange_keeps {s0 s : State} (h : s0.Keeps s) (e : Nat) :
    s0.Keeps (State.rotExchange s e) := by
  unfold State.rotExchange
  repeat' first
    | (intro _)
    | with_reducible assumption
    | (with_reducible first | apply State.startTimer_keeps | apply State.showRot_keeps | apply State.updRot_keeps)
    | with_reducible exact fun _ h => h
    | split

theorem State.rotTick_keeps {s0 s : State} (h : s0.Keeps s) (e : Nat) (disc : Bool) :
    s0.Keeps (State.rotTick s e disc) := by
  unfold State.rotTick
  repeat' first
    | (intro _)
    | with_reducible assumption
    | (extract_lets +onlyGivenNames x; first | (refine (fun hx => ?_ : State.Keeps s0 x → _) ?_; (on_goal 1 => clear_value x); (on_goal 2 => subst x)) | clear_value x)
    | (with_reducible first | apply State.rotStep_keeps | apply State.iff_keeps | apply State.updRot_keeps | apply State.rotExchange_keeps)
    | with_reducible exact fun _ h => h
    | split
    | (fail_if_no_progress beta_reduce)

theorem State.metIdle_keeps {s0 s : State} (h : s0.Keeps s) :
    s0.Keeps (State.metIdle s) := by
  unfold State.metIdle
  repeat' first
    | (intro _)
    | with_reducible assumption
    | (with_reducible first | apply State.updMet_keeps)
    | with_reducible exact fun _ h => h
    | split

theorem State.metTick_keeps {s0 s : State} (h : s0.Keeps s) (outs : List MetOutIn) (feeds : List FeedIn) :
    s0.Keeps (State.metTick s outs feeds) := by
  unfold State.metTick
  repeat' first
    | (intro _)
    | with_reducible assumption
    | (extract_lets +onlyGivenNames x; first | (refine (fun hx => ?_ : State.Keeps s0 x → _) ?_; (on_goal 1 => clear_value x); (on_goal 2 => subst x)) | clear_value x)
    | (with_reducible first | apply State.metIdle_keeps | apply State.each_keeps | apply State.rotTick_keeps | apply State.meterOut_keeps | apply State.meterFeed_keeps | apply State.iff_keeps | apply State.setFlag_keeps | apply State.updMf_keeps | apply State.updMet_keeps | apply foldl_keeps)
    | with_reducible exact fun _ h => h
    | split
    | (fail_if_no_progress beta_reduce)

theorem State.pathCompare_keeps {s0 s : State} (h : s0.Keeps s) :
    s0.Keeps (State.pathCompare s) := by
  unfold State.pathCompare
  repeat' first
    | (intro _)
    | with_reducible assumption
    | (extract_lets +onlyGivenNames x; first | (refine (fun hx => ?_ : State.Keeps s0 x → _) ?_; (on_goal 1 => clear_value x); (on_goal 2 => subst x)) | clear_value x)
    | (with_reducible first | apply State.each_keeps | apply State.iff_keeps | apply State.updIo_keeps)
    | with_reducible exact fun _ h => h
    | split
    | (fail_if_no_progress beta_reduce)

theorem execOffsetCapture_keeps (s : State) (out : Fin 8) :
    State.KeepsOut s (execOffsetCapture out s) := by
  unfold execOffsetCapture
  first | apply State.live_keeps | apply State.liveOn_keeps | apply keepsOut_next
  repeat' first
    | (intro _)
    | with_reducible assumption
    | (extract_lets +onlyGivenNames x; first | (refine (fun hx => ?_ : State.Keeps s x → _) ?_; (on_goal 1 => clear_value x); (on_goal 2 => subst x)) | clear_value x)
    | with_reducible exact State.Keeps.refl _
    | (with_reducible first | apply State.updMo_keeps | apply State.event_keeps | apply State.setFldS_keeps)
    | with_reducible exact fun _ h => h
    | split
    | (fail_if_no_progress beta_reduce)

theorem State.metSnap_keeps {s0 s : State} (h : s0.Keeps s) :
    s0.Keeps (State.metSnap s) := by
  unfold State.metSnap
  repeat' first
    | (intro _)
    | with_reducible assumption
    | (with_reducible first | apply State.updMet_keeps)
    | with_reducible exact fun _ h => h
    | split

theorem execMetSnap_keeps (s : State) :
    State.KeepsOut s (execMetSnap s) := by
  unfold execMetSnap
  first | apply State.live_keeps | apply keepsOut_next
  repeat' first
    | (intro _)
    | with_reducible assumption
    | with_reducible exact State.Keeps.refl _
    | (with_reducible first | apply State.metSnap_keeps)
    | with_reducible exact fun _ h => h
    | split

theorem State.metSnapRel_keeps {s0 s : State} (h : s0.Keeps s) :
    s0.Keeps (State.metSnapRel s) := by
  unfold State.metSnapRel
  repeat' first
    | (intro _)
    | with_reducible assumption
    | (with_reducible first | apply State.updMet_keeps | apply State.setFlag_keeps)
    | with_reducible exact fun _ h => h
    | split

theorem execMetSnapRelease_keeps (s : State) :
    State.KeepsOut s (execMetSnapRelease s) := by
  unfold execMetSnapRelease
  first | apply State.live_keeps | apply keepsOut_next
  repeat' first
    | (intro _)
    | with_reducible assumption
    | with_reducible exact State.Keeps.refl _
    | (with_reducible first | apply State.metSnapRel_keeps)
    | with_reducible exact fun _ h => h
    | split

theorem State.fhRefresh_keeps {s0 s : State} (h : s0.Keeps s) (f : Nat) :
    s0.Keeps (State.fhRefresh s f) := by
  unfold State.fhRefresh
  repeat' first
    | (intro _)
    | with_reducible assumption
    | (extract_lets +onlyGivenNames x; first | (refine (fun hx => ?_ : State.Keeps s0 x → _) ?_; (on_goal 1 => clear_value x); (on_goal 2 => subst x)) | clear_value x)
    | (with_reducible first | apply State.setSat_keeps)
    | with_reducible exact fun _ h => h
    | split
    | (fail_if_no_progress beta_reduce)

theorem State.windowResult_keeps {s0 s : State} (h : s0.Keeps s) (f : Nat) (w : HarmWin) :
    s0.Keeps (State.windowResult s f w) := by
  unfold State.windowResult
  repeat' first
    | (intro _)
    | with_reducible assumption
    | (extract_lets +onlyGivenNames x; first | (refine (fun hx => ?_ : State.Keeps s0 x → _) ?_; (on_goal 1 => clear_value x); (on_goal 2 => subst x)) | clear_value x)
    | (with_reducible first | apply State.updMf_keeps | apply State.setSat_keeps | apply State.fhRefresh_keeps | apply State.setFlag_keeps | apply State.iff_keeps | apply State.event_keeps | apply State.inc_keeps | apply foldl_keeps)
    | with_reducible exact fun _ h => h
    | split
    | (fail_if_no_progress beta_reduce)

theorem State.residualCheck_keeps {s0 s : State} (h : s0.Keeps s) (f : Nat) (w : HarmWin) :
    s0.Keeps (State.residualCheck s f w) := by
  unfold State.residualCheck
  repeat' first
    | (intro _)
    | with_reducible assumption
    | (extract_lets +onlyGivenNames x; first | (refine (fun hx => ?_ : State.Keeps s0 x → _) ?_; (on_goal 1 => clear_value x); (on_goal 2 => subst x)) | clear_value x)
    | (with_reducible first | apply State.iff_keeps | apply State.setFlag_keeps | apply State.inc_keeps | apply State.event_keeps)
    | with_reducible exact fun _ h => h
    | split
    | (fail_if_no_progress beta_reduce)

theorem execHarmonicWindowEnd_keeps (s : State) (feed : Fin 2) :
    State.KeepsOut s (execHarmonicWindowEnd feed s) := by
  unfold execHarmonicWindowEnd
  first | apply State.live_keeps | apply State.liveOn_keeps | apply keepsOut_next
  repeat' first
    | (intro _)
    | with_reducible assumption
    | (extract_lets +onlyGivenNames x; first | (refine (fun hx => ?_ : State.Keeps s x → _) ?_; (on_goal 1 => clear_value x); (on_goal 2 => subst x)) | clear_value x)
    | with_reducible exact State.Keeps.refl _
    | (with_reducible first | apply State.updMf_keeps | apply State.residualCheck_keeps | apply State.windowResult_keeps)
    | with_reducible exact fun _ h => h
    | split
    | (fail_if_no_progress beta_reduce)

theorem State.precDiscard_keeps {s0 s : State} (h : s0.Keeps s) (e : Nat) (k : Nat) :
    s0.Keeps (State.precDiscard s e k) := by
  unfold State.precDiscard
  repeat' first
    | (intro _)
    | with_reducible assumption
    | (extract_lets +onlyGivenNames x; first | (refine (fun hx => ?_ : State.Keeps s0 x → _) ?_; (on_goal 1 => clear_value x); (on_goal 2 => subst x)) | clear_value x)
    | (with_reducible first | apply State.updMet_keeps | apply State.updMo_keeps | apply State.iff_keeps | apply State.inc_keeps | apply State.updMf_keeps | apply State.event_keeps)
    | with_reducible exact fun _ h => h
    | split

end Sys2Proof.Machine
end

