-- ==== Sys2Proof/Laws/KeepsKeys.lean ====
section
/-!
SUPPORT. What every command keeps, for the operations and commands of Machine/Keys.lean.
-/

set_option linter.all false

namespace Sys2Proof.Machine

open Sys2Proof

theorem State.updKeys_keeps {s0 s : State} (h : s0.Keeps s) (f : KeySt → KeySt) :
    s0.Keeps (State.updKeys s f) := by
  unfold State.updKeys
  repeat' first
    | (intro _)
    | with_reducible assumption
    | split
    | (with_reducible apply State.mk_keeps; (rotate_left); all_goals first | with_reducible rfl | exact upd_length _ _ _ | exact List.length_map _ | skip)
    | with_reducible exact fun _ h => h
    | split

theorem State.setSlot_keeps {s0 s : State} (h : s0.Keeps s) (k : Nat) (a2 : KeySlot) :
    s0.Keeps (State.setSlot s k a2) := by
  unfold State.setSlot
  repeat' first
    | (intro _)
    | with_reducible assumption
    | (with_reducible first | apply State.updKeys_keeps)
    | with_reducible exact fun _ h => h
    | split

theorem State.jobRefused_keeps {s0 s : State} (h : s0.Keeps s) (k : Nat) :
    s0.Keeps (State.jobRefused s k) := by
  unfold State.jobRefused
  repeat' first
    | (intro _)
    | with_reducible assumption
    | (with_reducible first | apply State.event_keeps)
    | with_reducible exact fun _ h => h
    | split

theorem State.touchRole_keeps {s0 s : State} (h : s0.Keeps s) (a1 : Nat) :
    s0.Keeps (State.touchRole s a1) := by
  unfold State.touchRole
  repeat' first
    | (intro _)
    | with_reducible assumption
    | (with_reducible first | apply State.startTimer_keeps)
    | with_reducible exact fun _ h => h
    | split

theorem State.roleStat_keeps {s0 s : State} (h : s0.Keeps s) :
    s0.Keeps (State.roleStat s) := by
  unfold State.roleStat
  repeat' first
    | (intro _)
    | with_reducible assumption
    | (extract_lets +onlyGivenNames x; first | clear_value x)
    | (with_reducible first | apply State.setSat_keeps)
    | with_reducible exact fun _ h => h
    | split

end Sys2Proof.Machine
end

