-- ==== Sys2Proof/Laws/KeepsLegal.lean ====
section
/-!
SUPPORT. What every command keeps, for the operations and commands of Machine/Legal.lean.
-/

set_option linter.all false

namespace Sys2Proof.Machine

open Sys2Proof

theorem State.audit_keeps {s0 s : State} (h : s0.Keeps s) (code : Nat) (data : List Nat) :
    s0.Keeps (State.audit s code data) := by
  unfold State.audit
  repeat' first
    | (intro _)
    | with_reducible assumption
    | (with_reducible first | apply State.updLeg_keeps | apply State.event_keeps)
    | with_reducible exact fun _ h => h
    | split

theorem State.updChan_keeps {s0 s : State} (h : s0.Keeps s) (c : Nat) (f : LegChan → LegChan) :
    s0.Keeps (State.updChan s c f) := by
  unfold State.updChan
  repeat' first
    | (intro _)
    | with_reducible assumption
    | (with_reducible first | apply State.updLeg_keeps)
    | with_reducible exact fun _ h => h
    | split

theorem State.setEarly_keeps {s0 s : State} (h : s0.Keeps s) (c : Nat) (e : Nat × Nat) :
    s0.Keeps (State.setEarly s c e) := by
  unfold State.setEarly
  repeat' first
    | (intro _)
    | with_reducible assumption
    | (with_reducible first | apply State.updMo_keeps | apply State.updMf_keeps)
    | with_reducible exact fun _ h => h
    | split

theorem State.addTotal_keeps {s0 s : State} (h : s0.Keeps s) (c : Nat) (e : Nat × Nat) :
    s0.Keeps (State.addTotal s c e) := by
  unfold State.addTotal
  repeat' first
    | (intro _)
    | with_reducible assumption
    | (extract_lets +onlyGivenNames x; first | (refine (fun hx => ?_ : State.Keeps s0 x → _) ?_; (on_goal 1 => clear_value x); (on_goal 2 => subst x)) | clear_value x)
    | (with_reducible first | apply State.updMo_keeps | apply State.updMf_keeps)
    | with_reducible exact fun _ h => h
    | split
    | (fail_if_no_progress beta_reduce)

theorem State.profEntry_keeps {s0 s : State} (h : s0.Keeps s) (c : Nat) (e : ProfEntry) :
    s0.Keeps (State.profEntry s c e) := by
  unfold State.profEntry
  repeat' first
    | (intro _)
    | with_reducible assumption
    | (extract_lets +onlyGivenNames x; first | (refine (fun hx => ?_ : State.Keeps s0 x → _) ?_; (on_goal 1 => clear_value x); (on_goal 2 => subst x)) | clear_value x)
    | (with_reducible first | apply State.updChan_keeps | apply State.inc_keeps | apply State.iff_keeps | apply State.event_keeps)
    | with_reducible exact fun _ h => h
    | split
    | (fail_if_no_progress beta_reduce)

theorem State.openSub_keeps {s0 s : State} (h : s0.Keeps s) (flags : Nat) :
    s0.Keeps (State.openSub s flags) := by
  unfold State.openSub
  repeat' first
    | (intro _)
    | with_reducible assumption
    | (extract_lets +onlyGivenNames x; first | (refine (fun hx => ?_ : State.Keeps s0 x → _) ?_; (on_goal 1 => clear_value x); (on_goal 2 => subst x)) | clear_value x)
    | (with_reducible first | apply State.updChan_keeps | apply State.updLeg_keeps | apply State.each_keeps)
    | with_reducible exact fun _ h => h
    | split

theorem State.closeSub_keeps {s0 s : State} (h : s0.Keeps s) (tick : Nat) (cap : Nat) (flags : Nat) :
    s0.Keeps (State.closeSub s tick cap flags) := by
  unfold State.closeSub
  repeat' first
    | (intro _)
    | with_reducible assumption
    | (extract_lets +onlyGivenNames x; first | (refine (fun hx => ?_ : State.Keeps s0 x → _) ?_; (on_goal 1 => clear_value x); (on_goal 2 => subst x)) | clear_value x)
    | (with_reducible first | apply State.updChan_keeps | apply State.updLeg_keeps | apply State.profEntry_keeps | apply State.each_keeps | apply foldl_keeps)
    | with_reducible exact fun _ h => h
    | split

theorem State.gapSubs_keeps {s0 s : State} (h : s0.Keeps s) (tick : Nat) (n : Nat) :
    s0.Keeps (State.gapSubs s tick n) := by
  unfold State.gapSubs
  repeat' first
    | (intro _)
    | with_reducible assumption
    | (extract_lets +onlyGivenNames x; first | (refine (fun hx => ?_ : State.Keeps s0 x → _) ?_; (on_goal 1 => clear_value x); (on_goal 2 => subst x)) | clear_value x)
    | (with_reducible first | apply State.each_keeps | apply State.updChan_keeps | apply State.profEntry_keeps)
    | with_reducible exact fun _ h => h
    | split
    | (fail_if_no_progress beta_reduce)

theorem State.putRecord_keeps {s0 s : State} (h : s0.Keeps s) (b : DmrBody) :
    s0.Keeps (State.putRecord s b) := by
  unfold State.putRecord
  repeat' first
    | (intro _)
    | with_reducible assumption
    | (with_reducible first | apply State.updLeg_keeps)
    | with_reducible exact fun _ h => h
    | split

theorem State.closePeriod_keeps {s0 s : State} (h : s0.Keeps s) (at_ : Nat) :
    s0.Keeps (State.closePeriod s at_) := by
  unfold State.closePeriod
  repeat' first
    | (intro _)
    | with_reducible assumption
    | (extract_lets +onlyGivenNames x; first | (refine (fun hx => ?_ : State.Keeps s0 x → _) ?_; (on_goal 1 => clear_value x); (on_goal 2 => subst x)) | clear_value x)
    | (with_reducible first | apply State.updLeg_keeps | apply State.audit_keeps | apply State.inc_keeps | apply State.putRecord_keeps | apply State.setFlag_keeps | apply State.setFld_keeps | apply State.event_keeps)
    | with_reducible exact fun _ h => h
    | split
    | (fail_if_no_progress beta_reduce)

theorem State.takeBoundaries_keeps {s0 s : State} (h : s0.Keeps s) (now : Nat) :
    s0.Keeps (State.takeBoundaries s now) := by
  unfold State.takeBoundaries
  repeat' first
    | (intro _)
    | with_reducible assumption
    | (extract_lets +onlyGivenNames x; first | (refine (fun hx => ?_ : State.Keeps s0 x → _) ?_; (on_goal 1 => clear_value x); (on_goal 2 => subst x)) | clear_value x)
    | (with_reducible first | apply State.updLeg_keeps | apply State.iff_keeps | apply State.closeSub_keeps | apply State.openSub_keeps | apply State.setFld_keeps | apply State.each_keeps | apply State.audit_keeps | apply State.closePeriod_keeps | apply State.gapSubs_keeps)
    | with_reducible exact fun _ h => h
    | split

theorem State.updSess_keeps {s0 s : State} (h : s0.Keeps s) (k : Nat) (f : LegSess → LegSess) :
    s0.Keeps (State.updSess s k f) := by
  unfold State.updSess
  repeat' first
    | (intro _)
    | with_reducible assumption
    | (with_reducible first | apply State.updLeg_keeps)
    | with_reducible exact fun _ h => h
    | split

theorem State.legJoin_keeps {s0 s : State} (h : s0.Keeps s) (j : Nat) (n : Nat) (key : Nat) :
    s0.Keeps (State.legJoin s j n key) := by
  unfold State.legJoin
  repeat' first
    | (intro _)
    | with_reducible assumption
    | (extract_lets +onlyGivenNames x; first | (refine (fun hx => ?_ : State.Keeps s0 x → _) ?_; (on_goal 1 => clear_value x); (on_goal 2 => subst x)) | clear_value x)
    | (with_reducible first | apply State.updLeg_keeps | apply State.updSess_keeps)
    | with_reducible exact fun _ h => h
    | split
    | (fail_if_no_progress beta_reduce)

theorem State.openMember_keeps {s0 s : State} (h : s0.Keeps s) (j : Nat) (n : Nat) :
    s0.Keeps (State.openMember s j n) := by
  unfold State.openMember
  repeat' first
    | (intro _)
    | with_reducible assumption
    | (extract_lets +onlyGivenNames x; first | (refine (fun hx => ?_ : State.Keeps s0 x → _) ?_; (on_goal 1 => clear_value x); (on_goal 2 => subst x)) | clear_value x)
    | (with_reducible first | apply State.updSess_keeps | apply State.updLeg_keeps)
    | with_reducible exact fun _ h => h
    | split
    | (fail_if_no_progress beta_reduce)

theorem State.endMember_keeps {s0 s : State} (h : s0.Keeps s) (key : Nat) (j : Nat) (n : Nat) (reason : Nat) (t : Nat) (clk : Nat) :
    s0.Keeps (State.endMember s key j n reason t clk) := by
  unfold State.endMember
  repeat' first
    | (intro _)
    | with_reducible assumption
    | (with_reducible first | apply State.updSess_keeps)
    | with_reducible exact fun _ h => h
    | split

theorem State.buildRecord_keeps {s0 s : State} (h : s0.Keeps s) (a1 : LegSess) :
    s0.Keeps (State.buildRecord s a1) := by
  unfold State.buildRecord
  repeat' first
    | (intro _)
    | with_reducible assumption
    | (extract_lets +onlyGivenNames x; first | (refine (fun hx => ?_ : State.Keeps s0 x → _) ?_; (on_goal 1 => clear_value x); (on_goal 2 => subst x)) | clear_value x)
    | (with_reducible first | apply State.putRecord_keeps | apply State.updLeg_keeps | apply foldl_keeps)
    | with_reducible exact fun _ h => h
    | split
    | (fail_if_no_progress beta_reduce)

theorem State.buildDone_keeps {s0 s : State} (h : s0.Keeps s) :
    s0.Keeps (State.buildDone s) := by
  unfold State.buildDone
  repeat' first
    | (intro _)
    | with_reducible assumption
    | (with_reducible first | apply State.each_keeps | apply State.updLeg_keeps | apply State.buildRecord_keeps)
    | with_reducible exact fun _ h => h
    | split

theorem State.sessionStarts_keeps {s0 s : State} (h : s0.Keeps s) (es : List Event) :
    s0.Keeps (State.sessionStarts s es) := by
  unfold State.sessionStarts
  repeat' first
    | (intro _)
    | with_reducible assumption
    | (extract_lets +onlyGivenNames x; first | (refine (fun hx => ?_ : State.Keeps s0 x → _) ?_; (on_goal 1 => clear_value x); (on_goal 2 => subst x)) | clear_value x)
    | (with_reducible first | apply State.each_keeps | apply State.legJoin_keeps | apply State.iff_keeps | apply State.openMember_keeps)
    | with_reducible exact fun _ h => h
    | split
    | (fail_if_no_progress beta_reduce)

theorem State.sessionEnds_keeps {s0 s : State} (h : s0.Keeps s) (es : List Event) :
    s0.Keeps (State.sessionEnds s es) := by
  unfold State.sessionEnds
  repeat' first
    | (intro _)
    | with_reducible assumption
    | (extract_lets +onlyGivenNames x; first | (refine (fun hx => ?_ : State.Keeps s0 x → _) ?_; (on_goal 1 => clear_value x); (on_goal 2 => subst x)) | clear_value x)
    | (with_reducible first | apply State.each_keeps | apply State.endMember_keeps | apply State.updLeg_keeps)
    | with_reducible exact fun _ h => h
    | split
    | (fail_if_no_progress beta_reduce)

theorem State.creditCheck_keeps {s0 s : State} (h : s0.Keeps s) :
    s0.Keeps (State.creditCheck s) := by
  unfold State.creditCheck
  repeat' first
    | (intro _)
    | with_reducible assumption
    | (extract_lets +onlyGivenNames x; first | (refine (fun hx => ?_ : State.Keeps s0 x → _) ?_; (on_goal 1 => clear_value x); (on_goal 2 => subst x)) | clear_value x)
    | (with_reducible first | apply State.each_keeps | apply State.iff_keeps | apply State.event_keeps | apply State.updSess_keeps | apply State.evseStopAll_keeps)
    | with_reducible exact fun _ h => h
    | split
    | (fail_if_no_progress beta_reduce)

theorem State.addRate_keeps {s0 s : State} (h : s0.Keeps s) (c : Nat) (e : Nat × Nat) :
    s0.Keeps (State.addRate s c e) := by
  unfold State.addRate
  repeat' first
    | (intro _)
    | with_reducible assumption
    | (extract_lets +onlyGivenNames x; first | (refine (fun hx => ?_ : State.Keeps s0 x → _) ?_; (on_goal 1 => clear_value x); (on_goal 2 => subst x)) | clear_value x)
    | (with_reducible first | apply State.updChan_keeps | apply State.iff_keeps | apply State.audit_keeps)
    | with_reducible exact fun _ h => h
    | split
    | (fail_if_no_progress beta_reduce)

theorem State.flagChan_keeps {s0 s : State} (h : s0.Keeps s) (c : Nat) (fl : Nat) :
    s0.Keeps (State.flagChan s c fl) := by
  unfold State.flagChan
  repeat' first
    | (intro _)
    | with_reducible assumption
    | (with_reducible first | apply State.updLeg_keeps | apply State.updChan_keeps)
    | with_reducible exact fun _ h => h
    | split

theorem State.accrue_keeps {s0 s : State} (h : s0.Keeps s) :
    s0.Keeps (State.accrue s) := by
  unfold State.accrue
  repeat' first
    | (intro _)
    | with_reducible assumption
    | (extract_lets +onlyGivenNames x; first | (refine (fun hx => ?_ : State.Keeps s0 x → _) ?_; (on_goal 1 => clear_value x); (on_goal 2 => subst x)) | clear_value x)
    | (with_reducible first | apply State.updLeg_keeps | apply State.each_keeps | apply State.iff_keeps | apply State.flagChan_keeps | apply State.setEarly_keeps | apply State.addRate_keeps)
    | with_reducible exact fun _ h => h
    | split
    | (fail_if_no_progress beta_reduce)

theorem State.earlyCommit_keeps {s0 s : State} (h : s0.Keeps s) (met : List MetOutIn) (feeds : List FeedIn) (cut : Bool) :
    s0.Keeps (State.earlyCommit s met feeds cut) := by
  unfold State.earlyCommit
  repeat' first
    | (intro _)
    | with_reducible assumption
    | (extract_lets +onlyGivenNames x; first | (refine (fun hx => ?_ : State.Keeps s0 x → _) ?_; (on_goal 1 => clear_value x); (on_goal 2 => subst x)) | (have y : State → State := x; clear y; subst x) | (have y : State → _ → State := x; clear y; subst x) | (have y : _ → State → State := x; clear y; subst x) | (have y : _ → _ → State → State := x; clear y; subst x) | (have y : State → _ → _ → State := x; clear y; subst x) | (have y : State → _ → State × _ := x; clear y; subst x) | clear_value x)
    | (with_reducible first | apply State.setEarly_keeps | apply State.addRate_keeps | apply State.addTotal_keeps | apply State.each_keeps | apply State.flagChan_keeps | apply State.setFlag_keeps | apply State.updMo_keeps | apply State.updMf_keeps)
    | with_reducible exact fun _ h => h
    | split
    | (fail_if_no_progress beta_reduce)

theorem State.legSuspend_keeps {s0 s : State} (h : s0.Keeps s) :
    s0.Keeps (State.legSuspend s) := by
  unfold State.legSuspend
  repeat' first
    | (intro _)
    | with_reducible assumption
    | (extract_lets +onlyGivenNames x; first | clear_value x)
    | (with_reducible first | apply State.setFlag_keeps | apply State.audit_keeps)
    | with_reducible exact fun _ h => h
    | split

theorem State.legCommit_keeps {s0 s : State} (h : s0.Keeps s) :
    s0.Keeps (State.legCommit s) := by
  unfold State.legCommit
  repeat' first
    | (intro _)
    | with_reducible assumption
    | (extract_lets +onlyGivenNames x; first | (refine (fun hx => ?_ : State.Keeps s0 x → _) ?_; (on_goal 1 => clear_value x); (on_goal 2 => subst x)) | clear_value x)
    | (with_reducible first | apply State.updLeg_keeps | apply State.setFld_keeps)
    | with_reducible exact fun _ h => h
    | split
    | (fail_if_no_progress beta_reduce)

theorem State.hwmInit_keeps {s0 s : State} (h : s0.Keeps s) :
    s0.Keeps (State.hwmInit s) := by
  unfold State.hwmInit
  repeat' first
    | (intro _)
    | with_reducible assumption
    | (extract_lets +onlyGivenNames x; first | clear_value x)
    | (with_reducible first | apply State.updLeg_keeps | apply State.setFld_keeps)
    | with_reducible exact fun _ h => h
    | split

theorem State.tokEnter_keeps {s0 s : State} (h : s0.Keeps s) :
    s0.Keeps (State.tokEnter s) := by
  unfold State.tokEnter
  repeat' first
    | (intro _)
    | with_reducible assumption
    | (extract_lets +onlyGivenNames x; first | (refine (fun hx => ?_ : State.Keeps s0 x → _) ?_; (on_goal 1 => clear_value x); (on_goal 2 => subst x)) | clear_value x)
    | (with_reducible first | apply State.updLeg_keeps | apply State.iff_keeps | apply State.updVh_keeps | apply State.tokRegs_keeps | apply State.setFld_keeps | apply State.postAuth_keeps | apply State.each_keeps | apply foldl_keeps)
    | with_reducible exact fun _ h => h
    | split

theorem State.reentered_keeps {s0 s : State} (h : s0.Keeps s) :
    s0.Keeps (State.reentered s) := by
  unfold State.reentered
  repeat' first
    | (intro _)
    | with_reducible assumption
    | (with_reducible first | apply State.iff_keeps | apply State.audit_keeps | apply State.setFlag_keeps)
    | with_reducible exact fun _ h => h
    | split

theorem State.legTick_keeps {s0 s : State} (h : s0.Keeps s) :
    s0.Keeps (State.legTick s) := by
  unfold State.legTick
  repeat' first
    | (intro _)
    | with_reducible assumption
    | (extract_lets +onlyGivenNames x; first | (refine (fun hx => ?_ : State.Keeps s0 x → _) ?_; (on_goal 1 => clear_value x); (on_goal 2 => subst x)) | clear_value x)
    | (with_reducible first | apply State.updLeg_keeps | apply State.iff_keeps | apply State.openSub_keeps | apply State.accrue_keeps | apply State.sessionStarts_keeps | apply State.takeBoundaries_keeps | apply State.hwmInit_keeps | apply State.buildDone_keeps | apply State.sessionEnds_keeps | apply State.reentered_keeps | apply State.legSuspend_keeps | apply State.legCommit_keeps | apply State.creditCheck_keeps | apply State.tokEnter_keeps)
    | with_reducible exact fun _ h => h
    | split
    | (fail_if_no_progress beta_reduce)

theorem State.legStep_keeps {s0 s : State} (h : s0.Keeps s) (old : Nat) :
    s0.Keeps (State.legStep s old) := by
  unfold State.legStep
  repeat' first
    | (intro _)
    | with_reducible assumption
    | (extract_lets +onlyGivenNames x; first | (refine (fun hx => ?_ : State.Keeps s0 x → _) ?_; (on_goal 1 => clear_value x); (on_goal 2 => subst x)) | clear_value x)
    | (with_reducible first | apply State.closeSub_keeps | apply State.updLeg_keeps | apply State.iff_keeps | apply State.takeBoundaries_keeps | apply State.hwmInit_keeps | apply State.openSub_keeps | apply State.reentered_keeps | apply State.audit_keeps | apply State.setFlag_keeps | apply State.legCommit_keeps | apply State.legSuspend_keeps)
    | with_reducible exact fun _ h => h
    | split
    | (fail_if_no_progress beta_reduce)

theorem State.legStart_keeps {s0 s : State} (h : s0.Keeps s) :
    s0.Keeps (State.legStart s) := by
  unfold State.legStart
  repeat' first
    | (intro _)
    | with_reducible assumption
    | (extract_lets +onlyGivenNames x; first | (refine (fun hx => ?_ : State.Keeps s0 x → _) ?_; (on_goal 1 => clear_value x); (on_goal 2 => subst x)) | clear_value x)
    | (with_reducible first | apply State.audit_keeps | apply State.openSub_keeps | apply State.closeSub_keeps | apply State.each_keeps | apply State.endMember_keeps | apply State.updSess_keeps | apply State.buildDone_keeps | apply State.updLeg_keeps | apply State.tokRegs_keeps)
    | with_reducible exact fun _ h => h
    | split
    | (fail_if_no_progress beta_reduce)

theorem State.legPass_keeps {s0 s : State} (h : s0.Keeps s) :
    s0.Keeps (State.legPass s) := by
  unfold State.legPass
  repeat' first
    | (intro _)
    | with_reducible assumption
    | (extract_lets +onlyGivenNames x; first | (refine (fun hx => ?_ : State.Keeps s0 x → _) ?_; (on_goal 1 => clear_value x); (on_goal 2 => subst x)) | clear_value x)
    | (with_reducible first | apply State.each_keeps | apply State.endMember_keeps | apply State.updSess_keeps | apply State.iff_keeps | apply State.buildDone_keeps | apply State.event_keeps)
    | with_reducible exact fun _ h => h
    | split
    | (fail_if_no_progress beta_reduce)

theorem State.legTake_keeps {s0 s : State} (h : s0.Keeps s) (j : Nat) (n : Nat) (join : Nat) (seg : Option Nat) :
    s0.Keeps (State.legTake s j n join seg) := by
  unfold State.legTake
  repeat' first
    | (intro _)
    | with_reducible assumption
    | (extract_lets +onlyGivenNames x; first | (refine (fun hx => ?_ : State.Keeps s0 x → _) ?_; (on_goal 1 => clear_value x); (on_goal 2 => subst x)) | clear_value x)
    | (with_reducible first | apply State.updLeg_keeps | apply State.updSess_keeps)
    | with_reducible exact fun _ h => h
    | split
    | (fail_if_no_progress beta_reduce)

theorem State.legSelect_keeps {s0 s : State} (h : s0.Keeps s) :
    s0.Keeps (State.legSelect s) := by
  unfold State.legSelect
  repeat' first
    | (intro _)
    | with_reducible assumption
    | (extract_lets +onlyGivenNames x; first | (refine (fun hx => ?_ : State.Keeps s0 x → _) ?_; (on_goal 1 => clear_value x); (on_goal 2 => subst x)) | clear_value x)
    | (with_reducible first | apply State.setFlag_keeps | apply State.setFld_keeps)
    | with_reducible exact fun _ h => h
    | split

theorem State.recRegs_keeps {s0 s : State} (h : s0.Keeps s) :
    s0.Keeps (State.recRegs s) := by
  unfold State.recRegs
  repeat' first
    | (intro _)
    | with_reducible assumption
    | (with_reducible first | apply State.setFlag_keeps | apply State.setSat_keeps)
    | with_reducible exact fun _ h => h
    | split

theorem State.signRecord_keeps {s0 s : State} (h : s0.Keeps s) (n : Nat) (ok : Bool) :
    s0.Keeps (State.signRecord s n ok) := by
  unfold State.signRecord
  repeat' first
    | (intro _)
    | with_reducible assumption
    | (extract_lets +onlyGivenNames x; first | (refine (fun hx => ?_ : State.Keeps s0 x → _) ?_; (on_goal 1 => clear_value x); (on_goal 2 => subst x)) | clear_value x)
    | (with_reducible first | apply State.updLeg_keeps | apply State.iff_keeps | apply State.recRegs_keeps | apply State.startTimer_keeps | apply State.inc_keeps | apply State.stopTimer_keeps | apply State.event_keeps | apply State.jobRefused_keeps)
    | with_reducible exact fun _ h => h
    | split

theorem execRecordSigned_keeps (s : State) (ok : Bool) :
    State.KeepsOut s (execRecordSigned ok s) := by
  unfold execRecordSigned
  first | apply State.live_keeps | apply keepsOut_next
  repeat' first
    | (intro _)
    | with_reducible assumption
    | with_reducible exact State.Keeps.refl _
    | (with_reducible first | apply State.signRecord_keeps)
    | with_reducible exact fun _ h => h
    | split

theorem execSigningRetry_keeps (s : State) (rec_ : Nat) (ok : Bool) :
    State.KeepsOut s (execSigningRetry rec_ ok s) := by
  unfold execSigningRetry
  first | apply State.live_keeps | apply keepsOut_next
  repeat' first
    | (intro _)
    | with_reducible assumption
    | with_reducible exact State.Keeps.refl _
    | (with_reducible first | apply State.signRecord_keeps)
    | with_reducible exact fun _ h => h
    | split

theorem State.recConsumed_keeps {s0 s : State} (h : s0.Keeps s) (n : Nat) (ocmf : Bool) :
    s0.Keeps (State.recConsumed s n ocmf) := by
  unfold State.recConsumed
  repeat' first
    | (intro _)
    | with_reducible assumption
    | (extract_lets +onlyGivenNames x; first | (refine (fun hx => ?_ : State.Keeps s0 x → _) ?_; (on_goal 1 => clear_value x); (on_goal 2 => subst x)) | clear_value x)
    | (with_reducible first | apply State.updLeg_keeps | apply State.recRegs_keeps)
    | with_reducible exact fun _ h => h
    | split

theorem State.tokRefuse_keeps {s0 s : State} (h : s0.Keeps s) (j : Nat) (why : Nat) :
    s0.Keeps (State.tokRefuse s j why) := by
  unfold State.tokRefuse
  repeat' first
    | (intro _)
    | with_reducible assumption
    | (extract_lets +onlyGivenNames x; first | (refine (fun hx => ?_ : State.Keeps s0 x → _) ?_; (on_goal 1 => clear_value x); (on_goal 2 => subst x)) | clear_value x)
    | (with_reducible first | apply State.setFlag_keeps | apply State.startTimer_keeps | apply State.inc_keeps | apply State.event_keeps)
    | with_reducible exact fun _ h => h
    | split

theorem State.tokValidate_keeps {s0 s : State} (h : s0.Keeps s) (j : Nat) (digits : List Nat) :
    s0.Keeps (State.tokValidate s j digits) := by
  unfold State.tokValidate
  repeat' first
    | (intro _)
    | with_reducible assumption
    | (extract_lets +onlyGivenNames x; first | (refine (fun hx => ?_ : State.Keeps s0 x → _) ?_; (on_goal 1 => clear_value x); (on_goal 2 => subst x)) | clear_value x)
    | (with_reducible first | apply State.tokSettle_keeps | apply State.updLeg_keeps | apply State.setFld_keeps | apply State.tokRefuse_keeps | apply State.event_keeps)
    | with_reducible exact fun _ h => h
    | split

theorem execTokenLockExpiry_keeps (s : State) :
    State.KeepsOut s (execTokenLockExpiry s) := by
  unfold execTokenLockExpiry
  first | apply State.live_keeps | apply keepsOut_next
  repeat' first
    | (intro _)
    | with_reducible assumption
    | with_reducible exact State.Keeps.refl _
    | (with_reducible first | apply State.setFlag_keeps | apply State.setFld_keeps | apply State.stopTimer_keeps)
    | with_reducible exact fun _ h => h
    | split

end Sys2Proof.Machine
end

