-- ==== Sys2Proof/Laws/KeepsLaw.lean ====
section
/-!
SUPPORT. What every command keeps, for the operations and commands of Machine/Law.lean.
-/

set_option linter.all false

namespace Sys2Proof.Machine

open Sys2Proof

theorem State.lawStart_keeps {s0 s : State} (h : s0.Keeps s) (c : Nat) (img : LawImage) :
    s0.Keeps (State.lawStart s c img) := by
  unfold State.lawStart
  repeat' first
    | (intro _)
    | with_reducible assumption
    | (extract_lets +onlyGivenNames x; first | (refine (fun hx => ?_ : State.Keeps s0 x → _) ?_; (on_goal 1 => clear_value x); (on_goal 2 => subst x)) | clear_value x)
    | (with_reducible first | apply State.updCe_keeps | apply State.setFld_keeps | apply State.event_keeps | apply State.setSat_keeps | apply id_keeps)
    | with_reducible exact fun _ h => h
    | split
    | (fail_if_no_progress beta_reduce)

theorem State.lawLoad_keeps {s0 s : State} (h : s0.Keeps s) (c : Nat) (o : Option LawImage) :
    s0.Keeps (State.lawLoad s c o) := by
  unfold State.lawLoad
  repeat' first
    | (intro _)
    | with_reducible assumption
    | (extract_lets +onlyGivenNames x; first | (refine (fun hx => ?_ : State.Keeps s0 x → _) ?_; (on_goal 1 => clear_value x); (on_goal 2 => subst x)) | clear_value x)
    | (with_reducible first | apply State.setFld_keeps | apply State.updCe_keeps | apply State.lawStart_keeps | apply State.event_keeps)
    | with_reducible exact fun _ h => h
    | split

theorem State.lawCheck_keeps {s0 s : State} (h : s0.Keeps s) (c : Nat) (cfSel : Nat) (long : Bool) :
    s0.Keeps (State.lawCheck s c cfSel long).1 := by
  unfold State.lawCheck
  repeat' first
    | (intro _)
    | with_reducible assumption
    | (extract_lets +onlyGivenNames x; first | clear_value x)
    | (with_reducible first | apply State.updCe_keeps | apply State.event_keeps)
    | with_reducible exact fun _ h => h
    | split

theorem State.copyCv_keeps {s0 s : State} (h : s0.Keeps s) (c : Nat) :
    s0.Keeps (State.copyCv s c) := by
  unfold State.copyCv
  repeat' first
    | (intro _)
    | with_reducible assumption
    | (extract_lets +onlyGivenNames x; first | clear_value x)
    | (with_reducible first | apply State.updCe_keeps)
    | with_reducible exact fun _ h => h
    | split

theorem State.assignLanes_keeps {s0 s : State} (h : s0.Keeps s) (c : Nat) :
    s0.Keeps (State.assignLanes s c) := by
  unfold State.assignLanes
  repeat' first
    | (intro _)
    | with_reducible assumption
    | (extract_lets +onlyGivenNames x; first | clear_value x)
    | (with_reducible first | apply State.updCe_keeps)
    | with_reducible exact fun _ h => h
    | split

theorem State.ceCommitApply_keeps {s0 s : State} (h : s0.Keeps s) (c : Nat) :
    s0.Keeps (State.ceCommitApply s c) := by
  unfold State.ceCommitApply
  repeat' first
    | (intro _)
    | with_reducible assumption
    | (extract_lets +onlyGivenNames x; first | (refine (fun hx => ?_ : State.Keeps s0 x → _) ?_; (on_goal 1 => clear_value x); (on_goal 2 => subst x)) | clear_value x)
    | (with_reducible first | apply State.setSat_keeps | apply State.setFld_keeps | apply State.updCe_keeps | apply State.assignLanes_keeps | apply State.copyCv_keeps | apply State.lawStart_keeps)
    | with_reducible exact fun _ h => h
    | split

theorem State.updOl_keeps {s0 s : State} (h : s0.Keeps s) (c : Nat) (l : Nat) (f : OutLane → OutLane) :
    s0.Keeps (State.updOl s c l f) := by
  unfold State.updOl
  repeat' first
    | (intro _)
    | with_reducible assumption
    | (with_reducible first | apply State.updCe_keeps)
    | with_reducible exact fun _ h => h
    | split

theorem State.genTick_keeps {s0 s : State} (h : s0.Keeps s) (c : Nat) (l : Nat) :
    s0.Keeps (State.genTick s c l) := by
  unfold State.genTick
  repeat' first
    | (intro _)
    | with_reducible assumption
    | (extract_lets +onlyGivenNames x; first | clear_value x)
    | (with_reducible first | apply State.updOl_keeps)
    | with_reducible exact fun _ h => h
    | split

theorem State.genStep_keeps {s0 s : State} (h : s0.Keeps s) (c : Nat) (l : Nat) (j : Nat) (pause : Bool) (enter : Bool) :
    s0.Keeps (State.genStep s c l j pause enter) := by
  unfold State.genStep
  repeat' first
    | (intro _)
    | with_reducible assumption
    | (extract_lets +onlyGivenNames x; first | (refine (fun hx => ?_ : State.Keeps s0 x → _) ?_; (on_goal 1 => clear_value x); (on_goal 2 => subst x)) | clear_value x)
    | (with_reducible first | apply State.updOl_keeps)
    | with_reducible exact fun _ h => h
    | split
    | (fail_if_no_progress beta_reduce)

theorem State.weights_keeps {s0 s : State} (h : s0.Keeps s) (j : Nat) (mem : List Nat) (new : List Nat) :
    s0.Keeps (State.weights s j mem new) := by
  unfold State.weights
  repeat' first
    | (intro _)
    | with_reducible assumption
    | (extract_lets +onlyGivenNames x; first | (refine (fun hx => ?_ : State.Keeps s0 x → _) ?_; (on_goal 1 => clear_value x); (on_goal 2 => subst x)) | clear_value x)
    | (with_reducible first | apply State.each_keeps | apply State.updBl_keeps | apply foldl_keeps)
    | with_reducible exact fun _ h => h
    | split
    | (fail_if_no_progress beta_reduce)

end Sys2Proof.Machine
end

