-- ==== Sys2Proof/Laws/KeepsMemCode.lean ====
section
/-!
SUPPORT. What every command keeps, for the operations and commands of Machine/MemCode.lean.
-/

set_option linter.all false

namespace Sys2Proof.Machine

open Sys2Proof


theorem State.updMem_keeps {s0 s : State} (h : s0.Keeps s) (f : MemSt → MemSt) :
    s0.Keeps (State.updMem s f) := by
  unfold State.updMem
  repeat' first
    | (intro _)
    | with_reducible assumption
    | split
    | (with_reducible apply State.mk_keeps; (rotate_left); all_goals first | with_reducible rfl | exact upd_length _ _ _ | exact List.length_map _ | skip)
    | with_reducible exact fun _ h => h
    | split

theorem State.updUnit_keeps {s0 s : State} (h : s0.Keeps s) (m : Nat) (f : MemUnit → MemUnit) :
    s0.Keeps (State.updUnit s m f) := by
  unfold State.updUnit
  repeat' first
    | (intro _)
    | with_reducible assumption
    | (with_reducible first | apply State.updMem_keeps)
    | with_reducible exact fun _ h => h
    | split

theorem State.poisRegs_keeps {s0 s : State} (h : s0.Keeps s) (m : Nat) :
    s0.Keeps (State.poisRegs s m) := by
  unfold State.poisRegs
  repeat' first
    | (intro _)
    | with_reducible assumption
    | (extract_lets +onlyGivenNames x; first | clear_value x)
    | (with_reducible first | apply State.setReg_keeps | apply State.setSat_keeps)
    | with_reducible exact fun _ h => h
    | split

theorem State.poisonWords_keeps {s0 s : State} (h : s0.Keeps s) (m : Nat) (ws : List Nat) :
    s0.Keeps (State.poisonWords s m ws) := by
  unfold State.poisonWords
  repeat' first
    | (intro _)
    | with_reducible assumption
    | (with_reducible first | apply State.poisRegs_keeps | apply State.updMem_keeps)
    | with_reducible exact fun _ h => h
    | split

theorem State.memTrace_keeps {s0 s : State} (h : s0.Keeps s) (m : Nat) (word : Nat) (syn : Word) :
    s0.Keeps (State.memTrace s m word syn) := by
  unfold State.memTrace
  repeat' first
    | (intro _)
    | with_reducible assumption
    | (with_reducible first | apply State.setFld_keeps)
    | with_reducible exact fun _ h => h
    | split

theorem State.hardFault_keeps {s0 s : State} (h : s0.Keeps s) (m : Nat) (tile : Nat) :
    s0.Keeps (State.hardFault s m tile) := by
  unfold State.hardFault
  repeat' first
    | (intro _)
    | with_reducible assumption
    | (extract_lets +onlyGivenNames x; first | (refine (fun hx => ?_ : State.Keeps s0 x → _) ?_; (on_goal 1 => clear_value x); (on_goal 2 => subst x)) | clear_value x)
    | (with_reducible first | apply State.updMem_keeps | apply State.updUnit_keeps | apply State.inc_keeps | apply State.event_keeps)
    | with_reducible exact fun _ h => h
    | split

theorem State.noteCorrection_keeps {s0 s : State} (h : s0.Keeps s) (a1 : Nat) (word : Nat) (syn : Word) :
    s0.Keeps (State.noteCorrection s a1 word syn) := by
  unfold State.noteCorrection
  repeat' first
    | (intro _)
    | with_reducible assumption
    | (extract_lets +onlyGivenNames x; first | (refine (fun hx => ?_ : State.Keeps s0 x → _) ?_; (on_goal 1 => clear_value x); (on_goal 2 => subst x)) | clear_value x)
    | (with_reducible first | apply State.memTrace_keeps | apply State.inc_keeps | apply State.iff_keeps | apply State.event_keeps | apply State.updUnit_keeps)
    | with_reducible exact fun _ h => h
    | split
    | (fail_if_no_progress beta_reduce)

theorem State.writeBack_keeps {s0 s : State} (h : s0.Keeps s) (a1 : Nat) (word : Nat) (t : MemTile) (stuck : Bool) :
    s0.Keeps (State.writeBack s a1 word t stuck) := by
  unfold State.writeBack
  repeat' first
    | (intro _)
    | with_reducible assumption
    | (extract_lets +onlyGivenNames x; first | (refine (fun hx => ?_ : State.Keeps s0 x → _) ?_; (on_goal 1 => clear_value x); (on_goal 2 => subst x)) | clear_value x)
    | (with_reducible first | apply State.updMem_keeps | apply State.hardFault_keeps)
    | with_reducible exact fun _ h => h
    | split
    | (fail_if_no_progress beta_reduce)

theorem State.corrected_keeps {s0 s : State} (h : s0.Keeps s) (a1 : Nat) (word : Nat) (syn : Word) (t : MemTile) (stuck : Bool) :
    s0.Keeps (State.corrected s a1 word syn t stuck) := by
  unfold State.corrected
  repeat' first
    | (intro _)
    | with_reducible assumption
    | (extract_lets +onlyGivenNames x; first | (refine (fun hx => ?_ : State.Keeps s0 x → _) ?_; (on_goal 1 => clear_value x); (on_goal 2 => subst x)) | clear_value x)
    | (with_reducible first | apply State.noteCorrection_keeps | apply State.updMem_keeps | apply State.writeBack_keeps)
    | with_reducible exact fun _ h => h
    | split
    | (fail_if_no_progress beta_reduce)

theorem State.backAll_keeps {s0 s : State} (h : s0.Keeps s) (a1 : Nat) :
    s0.Keeps (State.backAll s a1) := by
  unfold State.backAll
  repeat' first
    | (intro _)
    | with_reducible assumption
    | (extract_lets +onlyGivenNames x; first | (refine (fun hx => ?_ : State.Keeps s0 x → _) ?_; (on_goal 1 => clear_value x); (on_goal 2 => subst x)) | clear_value x)
    | (with_reducible first | apply State.each_keeps | apply State.updMem_keeps | apply State.writeBack_keeps)
    | with_reducible exact fun _ h => h
    | split
    | (fail_if_no_progress beta_reduce)

end Sys2Proof.Machine
end

