-- ==== Sys2Proof/Laws/KeepsControlEngine.lean ====
section
/-!
SUPPORT. What every command keeps, for the operations and commands of Machine/ControlEngine.lean.
-/

set_option linter.all false

namespace Sys2Proof.Machine

open Sys2Proof

theorem State.takeFast_keeps {s0 s : State} (h : s0.Keeps s) (c : Nat) (l : Nat) (f : FastSample) :
    s0.Keeps (State.takeFast s c l f) := by
  unfold State.takeFast
  repeat' first
    | (intro _)
    | with_reducible assumption
    | (extract_lets +onlyGivenNames x; first | (refine (fun hx => ?_ : State.Keeps s0 x → _) ?_; (on_goal 1 => clear_value x); (on_goal 2 => subst x)) | clear_value x)
    | (with_reducible first | apply State.updOl_keeps | apply foldl_keeps)
    | with_reducible exact fun _ h => h
    | split
    | (fail_if_no_progress beta_reduce)

theorem State.judgeBlock_keeps {s0 s : State} (h : s0.Keeps s) (c : Nat) (k : Nat) (n : Nat) :
    s0.Keeps (State.judgeBlock s c k n) := by
  unfold State.judgeBlock
  repeat' first
    | (intro _)
    | with_reducible assumption
    | (extract_lets +onlyGivenNames x; first | (refine (fun hx => ?_ : State.Keeps s0 x → _) ?_; (on_goal 1 => clear_value x); (on_goal 2 => subst x)) | clear_value x)
    | (with_reducible first | apply State.iff_keeps | apply State.event_keeps | apply State.updCe_keeps | apply State.updBl_keeps)
    | with_reducible exact fun _ h => h
    | split
    | (fail_if_no_progress beta_reduce)

theorem State.setHw_keeps {s0 s : State} (h : s0.Keeps s) (c : Nat) (ks : List Word) :
    s0.Keeps (State.setHw s c ks) := by
  unfold State.setHw
  repeat' first
    | (intro _)
    | with_reducible assumption
    | (extract_lets +onlyGivenNames x; first | clear_value x)
    | (with_reducible first | apply State.updCe_keeps)
    | with_reducible exact fun _ h => h
    | split

theorem State.outLaneWork_keeps {s0 s : State} (h : s0.Keeps s) (c : Nat) (l : Nat) (j : Nat) (was : Bool) (run : Bool) :
    s0.Keeps (State.outLaneWork s c l j was run) := by
  unfold State.outLaneWork
  repeat' first
    | (intro _)
    | with_reducible assumption
    | (extract_lets +onlyGivenNames x; first | (refine (fun hx => ?_ : State.Keeps s0 x → _) ?_; (on_goal 1 => clear_value x); (on_goal 2 => subst x)) | clear_value x)
    | (with_reducible first | apply State.iff_keeps | apply State.updOl_keeps | apply State.event_keeps | apply State.genStep_keeps)
    | with_reducible exact fun _ h => h
    | split
    | (fail_if_no_progress beta_reduce)

theorem State.windowStart_keeps {s0 s : State} (h : s0.Keeps s) (c : Nat) (fast : List FastSample) :
    s0.Keeps (State.windowStart s c fast) := by
  unfold State.windowStart
  repeat' first
    | (intro _)
    | with_reducible assumption
    | (extract_lets +onlyGivenNames x; first | (refine (fun hx => ?_ : State.Keeps s0 x → _) ?_; (on_goal 1 => clear_value x); (on_goal 2 => subst x)) | clear_value x)
    | (with_reducible first | apply State.missFrames_keeps | apply State.each_keeps | apply State.takeFast_keeps | apply State.judgeBlock_keeps | apply State.outLaneWork_keeps | apply State.updBl_keeps | apply State.iff_keeps | apply State.weights_keeps | apply State.setHw_keeps | apply State.updCe_keeps | apply State.setReg_keeps)
    | with_reducible exact fun _ h => h
    | split
    | (fail_if_no_progress beta_reduce)

theorem execCeWindowStart_keeps (s : State) (ce : Fin 2) (fast : List FastSample) :
    State.KeepsOut s (execCeWindowStart ce fast s) := by
  unfold execCeWindowStart
  first | apply State.live_keeps | apply keepsOut_next
  repeat' first
    | (intro _)
    | with_reducible assumption
    | with_reducible exact State.Keeps.refl _
    | (with_reducible first | apply State.windowStart_keeps)
    | with_reducible exact fun _ h => h
    | split

theorem State.launchPrev_keeps {s0 s : State} (h : s0.Keeps s) (n : Nat) (hold : Bool) :
    s0.Keeps (State.launchPrev s n hold) := by
  unfold State.launchPrev
  repeat' first
    | (intro _)
    | with_reducible assumption
    | (extract_lets +onlyGivenNames x; first | clear_value x)
    | (with_reducible first | apply State.launch_keeps)
    | with_reducible exact fun _ h => h
    | split

theorem State.launchNew_keeps {s0 s : State} (h : s0.Keeps s) (c : Nat) (k : Nat) (n : Nat) :
    s0.Keeps (State.launchNew s c k n) := by
  unfold State.launchNew
  repeat' first
    | (intro _)
    | with_reducible assumption
    | (extract_lets +onlyGivenNames x; first | clear_value x)
    | (with_reducible first | apply State.launch_keeps | apply State.updBl_keeps)
    | with_reducible exact fun _ h => h
    | split

theorem State.cupSample_keeps {s0 s : State} (h : s0.Keeps s) (c : Nat) (b : Nat) :
    s0.Keeps (State.cupSample s c b) := by
  unfold State.cupSample
  repeat' first
    | (intro _)
    | with_reducible assumption
    | (extract_lets +onlyGivenNames x; first | (refine (fun hx => ?_ : State.Keeps s0 x → _) ?_; (on_goal 1 => clear_value x); (on_goal 2 => subst x)) | clear_value x)
    | (with_reducible first | apply State.updCup_keeps | apply State.iff_keeps | apply State.setFld_keeps | apply State.cupTrigger_keeps)
    | with_reducible exact fun _ h => h
    | split

theorem State.windowEnd_keeps {s0 s : State} (h : s0.Keeps s) (c : Nat) :
    s0.Keeps (State.windowEnd s c) := by
  unfold State.windowEnd
  repeat' first
    | (intro _)
    | with_reducible assumption
    | (extract_lets +onlyGivenNames x; first | (refine (fun hx => ?_ : State.Keeps s0 x → _) ?_; (on_goal 1 => clear_value x); (on_goal 2 => subst x)) | clear_value x)
    | (with_reducible first | apply State.backAll_keeps | apply State.updCe_keeps | apply State.iff_keeps | apply State.overrun_keeps | apply State.setSat_keeps | apply State.setFld_keeps | apply State.each_keeps | apply State.launch_keeps | apply State.launchPrev_keeps | apply State.launchNew_keeps | apply State.cupSample_keeps)
    | with_reducible exact fun _ h => h
    | split
    | (fail_if_no_progress beta_reduce)

theorem execCeWindowEnd_keeps (s : State) (ce : Fin 2) :
    State.KeepsOut s (execCeWindowEnd ce s) := by
  unfold execCeWindowEnd
  first | apply State.live_keeps | apply keepsOut_next
  repeat' first
    | (intro _)
    | with_reducible assumption
    | with_reducible exact State.Keeps.refl _
    | (with_reducible first | apply State.windowEnd_keeps)
    | with_reducible exact fun _ h => h
    | split

theorem State.failLane_keeps {s0 s : State} (h : s0.Keeps s) (c : Nat) (l : Nat) :
    s0.Keeps (State.failLane s c l) := by
  unfold State.failLane
  repeat' first
    | (intro _)
    | with_reducible assumption
    | (extract_lets +onlyGivenNames x; first | (refine (fun hx => ?_ : State.Keeps s0 x → _) ?_; (on_goal 1 => clear_value x); (on_goal 2 => subst x)) | clear_value x)
    | (with_reducible first | apply State.sendCmd_keeps | apply State.each_keeps | apply State.dropK1_keeps | apply State.updOl_keeps)
    | with_reducible exact fun _ h => h
    | split

theorem State.failAll_keeps {s0 s : State} (h : s0.Keeps s) (c : Nat) :
    s0.Keeps (State.failAll s c) := by
  unfold State.failAll
  repeat' first
    | (intro _)
    | with_reducible assumption
    | (with_reducible first | apply State.each_keeps | apply State.failLane_keeps)
    | with_reducible exact fun _ h => h
    | split

theorem execThirdLawOverrun_keeps (s : State) (ce : Fin 2) :
    State.KeepsOut s (execThirdLawOverrun ce s) := by
  unfold execThirdLawOverrun
  first | apply State.live_keeps | apply keepsOut_next
  repeat' first
    | (intro _)
    | with_reducible assumption
    | with_reducible exact State.Keeps.refl _
    | (with_reducible first | apply State.updCe_keeps | apply State.failAll_keeps | apply State.event_keeps)
    | with_reducible exact fun _ h => h
    | split

theorem State.ceHalt_keeps {s0 s : State} (h : s0.Keeps s) (c : Nat) :
    s0.Keeps (State.ceHalt s c) := by
  unfold State.ceHalt
  repeat' first
    | (intro _)
    | with_reducible assumption
    | (with_reducible first | apply State.setFld_keeps | apply State.updCe_keeps | apply State.failAll_keeps | apply State.event_keeps)
    | with_reducible exact fun _ h => h
    | split

theorem execOutputFeedbackLost_keeps (s : State) (ce : Fin 2) (lane : Fin 4) :
    State.KeepsOut s (execOutputFeedbackLost ce lane s) := by
  unfold execOutputFeedbackLost
  first | apply State.live_keeps | apply keepsOut_next
  repeat' first
    | (intro _)
    | with_reducible assumption
    | with_reducible exact State.Keeps.refl _
    | (with_reducible first | apply State.failLane_keeps | apply State.event_keeps)
    | with_reducible exact fun _ h => h
    | split

theorem execFrozenFeedback_keeps (s : State) (ce : Fin 2) (lane : Fin 28) :
    State.KeepsOut s (execFrozenFeedback ce lane s) := by
  unfold execFrozenFeedback
  first | apply State.live_keeps | apply State.liveOn_keeps | apply keepsOut_next
  repeat' first
    | (intro _)
    | with_reducible assumption
    | (extract_lets +onlyGivenNames x; first | (refine (fun hx => ?_ : State.Keeps s x → _) ?_; (on_goal 1 => clear_value x); (on_goal 2 => subst x)) | clear_value x)
    | with_reducible exact State.Keeps.refl _
    | (with_reducible first | apply State.updBl_keeps | apply State.moveDrop_keeps | apply State.dropK1_keeps | apply State.sendCmd_keeps | apply State.event_keeps | apply State.setFld_keeps | apply State.updOl_keeps | apply State.failLane_keeps)
    | with_reducible exact fun _ h => h
    | split
    | (fail_if_no_progress beta_reduce)

theorem State.hostSwap_keeps {s0 s : State} (h : s0.Keeps s) (c : Nat) :
    s0.Keeps (State.hostSwap s c) := by
  unfold State.hostSwap
  repeat' first
    | (intro _)
    | with_reducible assumption
    | (with_reducible first | apply State.setFlag_keeps | apply State.event_keeps)
    | with_reducible exact fun _ h => h
    | split

theorem execSwap_keeps (s : State) (ce : Fin 2) :
    State.KeepsOut s (execSwap ce s) := by
  unfold execSwap
  first | apply State.live_keeps | apply keepsOut_next
  repeat' first
    | (intro _)
    | with_reducible assumption
    | with_reducible exact State.Keeps.refl _
    | (with_reducible first | apply State.hostSwap_keeps)
    | with_reducible exact fun _ h => h
    | split

theorem execCoefSwapApply_keeps (s : State) (ce : Fin 2) :
    State.KeepsOut s (execCoefSwapApply ce s) := by
  unfold execCoefSwapApply
  first | apply State.live_keeps | apply keepsOut_next
  repeat' first
    | (intro _)
    | with_reducible assumption
    | with_reducible exact State.Keeps.refl _
    | (with_reducible first | apply State.setFlag_keeps | apply State.updCe_keeps | apply State.copyCv_keeps | apply State.event_keeps)
    | with_reducible exact fun _ h => h
    | split

theorem State.cupArm_keeps {s0 s : State} (h : s0.Keeps s) (c : Nat) (b : Nat) :
    s0.Keeps (State.cupArm s c b) := by
  unfold State.cupArm
  repeat' first
    | (intro _)
    | with_reducible assumption
    | (extract_lets +onlyGivenNames x; first | (refine (fun hx => ?_ : State.Keeps s0 x → _) ?_; (on_goal 1 => clear_value x); (on_goal 2 => subst x)) | clear_value x)
    | (with_reducible first | apply State.updCup_keeps | apply State.setFlag_keeps | apply State.setFld_keeps)
    | with_reducible exact fun _ h => h
    | split

theorem execCupArm_keeps (s : State) (ce : Fin 2) (buf : Fin 8) :
    State.KeepsOut s (execCupArm ce buf s) := by
  unfold execCupArm
  first | apply State.live_keeps | apply keepsOut_next
  repeat' first
    | (intro _)
    | with_reducible assumption
    | with_reducible exact State.Keeps.refl _
    | (with_reducible first | apply State.cupArm_keeps)
    | with_reducible exact fun _ h => h
    | split

theorem State.cupMode_keeps {s0 s : State} (h : s0.Keeps s) (c : Nat) (b : Nat) :
    s0.Keeps (State.cupMode s c b) := by
  unfold State.cupMode
  repeat' first
    | (intro _)
    | with_reducible assumption
    | (with_reducible first | apply State.setFlag_keeps | apply State.setFld_keeps)
    | with_reducible exact fun _ h => h
    | split

theorem State.cupHostTrig_keeps {s0 s : State} (h : s0.Keeps s) (c : Nat) (b : Nat) :
    s0.Keeps (State.cupHostTrig s c b) := by
  unfold State.cupHostTrig
  repeat' first
    | (intro _)
    | with_reducible assumption
    | (with_reducible first | apply State.iff_keeps | apply State.cupTrigger_keeps)
    | with_reducible exact fun _ h => h
    | split

theorem execCupTrig_keeps (s : State) (ce : Fin 2) (buf : Fin 8) :
    State.KeepsOut s (execCupTrig ce buf s) := by
  unfold execCupTrig
  first | apply State.live_keeps | apply keepsOut_next
  repeat' first
    | (intro _)
    | with_reducible assumption
    | with_reducible exact State.Keeps.refl _
    | (with_reducible first | apply State.cupHostTrig_keeps)
    | with_reducible exact fun _ h => h
    | split

theorem execCupDone_keeps (s : State) (ce : Fin 2) (buf : Fin 8) :
    State.KeepsOut s (execCupDone ce buf s) := by
  unfold execCupDone
  first | apply State.live_keeps | apply keepsOut_next
  repeat' first
    | (intro _)
    | with_reducible assumption
    | (extract_lets +onlyGivenNames x; first | (refine (fun hx => ?_ : State.Keeps s x → _) ?_; (on_goal 1 => clear_value x); (on_goal 2 => subst x)) | clear_value x)
    | with_reducible exact State.Keeps.refl _
    | (with_reducible first | apply State.updCup_keeps | apply State.setFlag_keeps | apply State.setFld_keeps | apply State.event_keeps)
    | with_reducible exact fun _ h => h
    | split

theorem execCupStreamRecord_keeps (s : State) (ce : Fin 2) (buf : Fin 8) :
    State.KeepsOut s (execCupStreamRecord ce buf s) := by
  unfold execCupStreamRecord
  first | apply State.live_keeps | apply keepsOut_next
  repeat' first
    | (intro _)
    | with_reducible assumption
    | (extract_lets +onlyGivenNames x; first | (refine (fun hx => ?_ : State.Keeps s x → _) ?_; (on_goal 1 => clear_value x); (on_goal 2 => subst x)) | clear_value x)
    | with_reducible exact State.Keeps.refl _
    | (with_reducible first | apply State.updCup_keeps | apply State.iff_keeps | apply State.inc_keeps | apply State.event_keeps)
    | with_reducible exact fun _ h => h
    | split

theorem State.cupRecordSent_keeps {s0 s : State} (h : s0.Keeps s) (c : Nat) (b : Nat) :
    s0.Keeps (State.cupRecordSent s c b) := by
  unfold State.cupRecordSent
  repeat' first
    | (intro _)
    | with_reducible assumption
    | (extract_lets +onlyGivenNames x; first | (refine (fun hx => ?_ : State.Keeps s0 x → _) ?_; (on_goal 1 => clear_value x); (on_goal 2 => subst x)) | clear_value x)
    | (with_reducible first | apply State.updCup_keeps | apply State.iff_keeps | apply State.cupArm_keeps)
    | with_reducible exact fun _ h => h
    | split

theorem State.takeMaps_keeps {s0 s : State} (h : s0.Keeps s) (c : Nat) :
    s0.Keeps (State.takeMaps s c) := by
  unfold State.takeMaps
  repeat' first
    | (intro _)
    | with_reducible assumption
    | (extract_lets +onlyGivenNames x; first | clear_value x)
    | (with_reducible first | apply State.updCe_keeps)
    | with_reducible exact fun _ h => h
    | split

theorem State.ceTick_keeps {s0 s : State} (h : s0.Keeps s) (c : Nat) :
    s0.Keeps (State.ceTick s c) := by
  unfold State.ceTick
  repeat' first
    | (intro _)
    | with_reducible assumption
    | (extract_lets +onlyGivenNames x; first | (refine (fun hx => ?_ : State.Keeps s0 x → _) ?_; (on_goal 1 => clear_value x); (on_goal 2 => subst x)) | clear_value x)
    | (with_reducible first | apply State.genTick_keeps | apply State.takeMaps_keeps | apply State.updCe_keeps | apply State.each_keeps)
    | with_reducible exact fun _ h => h
    | split

theorem State.ceSfProgram_keeps {s0 s : State} (h : s0.Keeps s) (c : Nat) :
    s0.Keeps (State.ceSfProgram s c) := by
  unfold State.ceSfProgram
  repeat' first
    | (intro _)
    | with_reducible assumption
    | (extract_lets +onlyGivenNames x; first | (refine (fun hx => ?_ : State.Keeps s0 x → _) ?_; (on_goal 1 => clear_value x); (on_goal 2 => subst x)) | clear_value x)
    | (with_reducible first | apply State.each_keeps | apply State.iff_keeps | apply State.coolStep_keeps | apply State.derateStep_keeps | apply State.updSh_keeps | apply State.updOl_keeps)
    | with_reducible exact fun _ h => h
    | split
    | (fail_if_no_progress beta_reduce)

end Sys2Proof.Machine
end

