-- ==== Sys2Proof/Laws/KeepsRings.lean ====
section
/-!
SUPPORT. What every command keeps, for the operations and commands of Machine/Rings.lean.
-/

set_option linter.all false

namespace Sys2Proof.Machine

open Sys2Proof

theorem State.updHost_keeps {s0 s : State} (h : s0.Keeps s) (f : HostSt → HostSt) :
    s0.Keeps (State.updHost s f) := by
  unfold State.updHost
  repeat' first
    | (intro _)
    | with_reducible assumption
    | split
    | (with_reducible apply State.mk_keeps; (rotate_left); all_goals first | with_reducible rfl | exact upd_length _ _ _ | exact List.length_map _ | skip)
    | with_reducible exact fun _ h => h
    | split

theorem State.updRing_keeps {s0 s : State} (h : s0.Keeps s) (n : Nat) (f : RingSt → RingSt) :
    s0.Keeps (State.updRing s n f) := by
  unfold State.updRing
  repeat' first
    | (intro _)
    | with_reducible assumption
    | (with_reducible first | apply State.updHost_keeps)
    | with_reducible exact fun _ h => h
    | split

theorem State.hrRegs_keeps {s0 s : State} (h : s0.Keeps s) (n : Nat) :
    s0.Keeps (State.hrRegs s n) := by
  unfold State.hrRegs
  repeat' first
    | (intro _)
    | with_reducible assumption
    | (extract_lets +onlyGivenNames x; first | clear_value x)
    | (with_reducible first | apply State.setSat_keeps | apply State.setFld_keeps)
    | with_reducible exact fun _ h => h
    | split

theorem State.message_keeps {s0 s : State} (h : s0.Keeps s) (v : Nat) :
    s0.Keeps (State.message s v) := by
  unfold State.message
  repeat' first
    | (intro _)
    | with_reducible assumption
    | (extract_lets +onlyGivenNames x; first | (refine (fun hx => ?_ : State.Keeps s0 x → _) ?_; (on_goal 1 => clear_value x); (on_goal 2 => subst x)) | clear_value x)
    | (with_reducible first | apply State.updHost_keeps)
    | with_reducible exact fun _ h => h
    | split
    | (fail_if_no_progress beta_reduce)

theorem State.unmask_keeps {s0 s : State} (h : s0.Keeps s) (v : Nat) :
    s0.Keeps (State.unmask s v) := by
  unfold State.unmask
  repeat' first
    | (intro _)
    | with_reducible assumption
    | (extract_lets +onlyGivenNames x; first | (refine (fun hx => ?_ : State.Keeps s0 x → _) ?_; (on_goal 1 => clear_value x); (on_goal 2 => subst x)) | clear_value x)
    | (with_reducible first | apply State.updHost_keeps | apply State.iff_keeps | apply State.message_keeps)
    | with_reducible exact fun _ h => h
    | split
    | (fail_if_no_progress beta_reduce)

theorem State.signal_keeps {s0 s : State} (h : s0.Keeps s) (n : Nat) :
    s0.Keeps (State.signal s n) := by
  unfold State.signal
  repeat' first
    | (intro _)
    | with_reducible assumption
    | (extract_lets +onlyGivenNames x; first | (refine (fun hx => ?_ : State.Keeps s0 x → _) ?_; (on_goal 1 => clear_value x); (on_goal 2 => subst x)) | clear_value x)
    | (with_reducible first | apply State.iff_keeps | apply State.message_keeps | apply State.updRing_keeps)
    | with_reducible exact fun _ h => h
    | split

theorem State.statusBlock_keeps {s0 s : State} (h : s0.Keeps s) (n : Nat) :
    s0.Keeps (State.statusBlock s n) := by
  unfold State.statusBlock
  repeat' first
    | (intro _)
    | with_reducible assumption
    | (with_reducible first | apply State.iff_keeps | apply State.updRing_keeps)
    | with_reducible exact fun _ h => h
    | split

theorem State.setRing_keeps {s0 s : State} (h : s0.Keeps s) (n : Nat) (st : Nat) :
    s0.Keeps (State.setRing s n st) := by
  unfold State.setRing
  repeat' first
    | (intro _)
    | with_reducible assumption
    | (with_reducible first | apply State.setFld_keeps | apply State.statusBlock_keeps | apply State.signal_keeps | apply State.hrRegs_keeps | apply State.event_keeps)
    | with_reducible exact fun _ h => h
    | split

theorem State.haltRing_keeps {s0 s : State} (h : s0.Keeps s) (n : Nat) (err : Nat) :
    s0.Keeps (State.haltRing s n err) := by
  unfold State.haltRing
  repeat' first
    | (intro _)
    | with_reducible assumption
    | (with_reducible first | apply State.setFld_keeps | apply State.setRing_keeps | apply State.updRing_keeps | apply State.event_keeps)
    | with_reducible exact fun _ h => h
    | split

theorem State.updSlot_keeps {s0 s : State} (h : s0.Keeps s) (n : Nat) (num : Nat) (f : JSlot → JSlot) :
    s0.Keeps (State.updSlot s n num f) := by
  unfold State.updSlot
  repeat' first
    | (intro _)
    | with_reducible assumption
    | (with_reducible first | apply State.updRing_keeps)
    | with_reducible exact fun _ h => h
    | split

theorem State.completeWith_keeps {s0 s : State} (h : s0.Keeps s) (n : Nat) (num : Nat) (status : Nat) (result : Nat) (data : List Byte) (held : Held) (cflags : Nat) :
    s0.Keeps (State.completeWith s n num status result data held cflags) := by
  unfold State.completeWith
  repeat' first
    | (intro _)
    | with_reducible assumption
    | (extract_lets +onlyGivenNames x; first | (refine (fun hx => ?_ : State.Keeps s0 x → _) ?_; (on_goal 1 => clear_value x); (on_goal 2 => subst x)) | clear_value x)
    | (with_reducible first | apply State.updSlot_keeps | apply State.stopTimer_keeps | apply State.updRing_keeps | apply State.iff_keeps | apply State.inc_keeps | apply State.event_keeps)
    | with_reducible exact fun _ h => h
    | split
    | (fail_if_no_progress beta_reduce)

theorem State.complete_keeps {s0 s : State} (h : s0.Keeps s) (n : Nat) (num : Nat) (status : Nat) (result : Nat) :
    s0.Keeps (State.complete s n num status result) := by
  unfold State.complete
  repeat' first
    | (intro _)
    | with_reducible assumption
    | (with_reducible first | apply State.completeWith_keeps)
    | with_reducible exact fun _ h => h
    | split

theorem State.dmaError_keeps {s0 s : State} (h : s0.Keeps s) (n : Nat) :
    s0.Keeps (State.dmaError s n) := by
  unfold State.dmaError
  repeat' first
    | (intro _)
    | with_reducible assumption
    | (extract_lets +onlyGivenNames x; first | (refine (fun hx => ?_ : State.Keeps s0 x → _) ?_; (on_goal 1 => clear_value x); (on_goal 2 => subst x)) | clear_value x)
    | (with_reducible first | apply State.inc_keeps | apply State.event_keeps)
    | with_reducible exact fun _ h => h
    | split
    | (fail_if_no_progress beta_reduce)

theorem State.dmaFail_keeps {s0 s : State} (h : s0.Keeps s) (n : Nat) (num : Nat) :
    s0.Keeps (State.dmaFail s n num) := by
  unfold State.dmaFail
  repeat' first
    | (intro _)
    | with_reducible assumption
    | (with_reducible first | apply State.complete_keeps | apply State.dmaError_keeps)
    | with_reducible exact fun _ h => h
    | split

theorem State.completeData_keeps {s0 s : State} (h : s0.Keeps s) (n : Nat) (num : Nat) (result : Nat) (data : List Byte) (held : Held) :
    s0.Keeps (State.completeData s n num result data held) := by
  unfold State.completeData
  repeat' first
    | (intro _)
    | with_reducible assumption
    | (with_reducible first | apply State.completeWith_keeps | apply State.complete_keeps)
    | with_reducible exact fun _ h => h
    | split

theorem State.ackN_keeps : ∀ (k : Nat) {s0 s : State} (_ : s0.Keeps s) (n : Nat), s0.Keeps (State.ackN k s n)
  | 0, _, _, h, _ => h
  | k + 1, s0, s, h, n => by
    have ih := @State.ackN_keeps k s0
    unfold State.ackN
    repeat' first
      | (intro _)
      | with_reducible assumption
      | (extract_lets +onlyGivenNames x; first | (refine (fun hx => ?_ : State.Keeps s0 x → _) ?_; (on_goal 1 => clear_value x); (on_goal 2 => subst x)) | (refine (fun hx => ?_ : State.Keeps s0 x.1 → _) ?_; (on_goal 1 => clear_value x); (on_goal 2 => subst x)) | clear_value x)
      | (with_reducible first | apply ih | apply State.updRing_keeps | apply State.haltRing_keeps | apply State.setFld_keeps | apply State.updHost_keeps | apply State.setSat_keeps | apply State.complete_keeps | apply State.startTimer_keeps | apply State.hrRegs_keeps | apply State.iff_keeps | apply State.showIdx_keeps)
      | with_reducible exact fun _ h => h
      | split

theorem State.acknowledge_keeps {s0 s : State} (h : s0.Keeps s) (n : Nat) :
    s0.Keeps (State.acknowledge s n) := by
  unfold State.acknowledge
  repeat' first
    | (intro _)
    | with_reducible assumption
    | (with_reducible first | apply State.statusBlock_keeps | apply State.hrRegs_keeps | apply State.ackN_keeps)
    | with_reducible exact fun _ h => h
    | split

theorem State.closeRing_keeps {s0 s : State} (h : s0.Keeps s) (n : Nat) :
    s0.Keeps (State.closeRing s n) := by
  unfold State.closeRing
  repeat' first
    | (intro _)
    | with_reducible assumption
    | (with_reducible first | apply State.iff_keeps | apply State.setRing_keeps | apply State.updRing_keeps)
    | with_reducible exact fun _ h => h
    | split

theorem State.takeTail_keeps {s0 s : State} (h : s0.Keeps s) (n : Nat) (tail : Nat) (ds : List (Option Descr)) :
    s0.Keeps (State.takeTail s n tail ds) := by
  unfold State.takeTail
  repeat' first
    | (intro _)
    | with_reducible assumption
    | (extract_lets +onlyGivenNames x; first | clear_value x)
    | (with_reducible first | apply State.haltRing_keeps | apply State.acknowledge_keeps | apply State.updRing_keeps)
    | with_reducible exact fun _ h => h
    | split

theorem execDbTail_keeps (s : State) (ring : Fin 64) (tail : Word) (descs : List (Option Descr)) :
    State.KeepsOut s (execDbTail ring tail descs s) := by
  unfold execDbTail
  first | apply State.live_keeps | apply keepsOut_next
  repeat' first
    | (intro _)
    | with_reducible assumption
    | (extract_lets +onlyGivenNames x; first | clear_value x)
    | with_reducible exact State.Keeps.refl _
    | (with_reducible first | apply State.takeTail_keeps | apply State.updRing_keeps)
    | with_reducible exact fun _ h => h
    | split

theorem State.release_keeps {s0 s : State} (h : s0.Keeps s) (a1 : Held) :
    s0.Keeps (State.release s a1) := by
  unfold State.release
  repeat' first
    | (intro _)
    | with_reducible assumption
    | (with_reducible first | apply State.recConsumed_keeps | apply State.cupRecordSent_keeps)
    | with_reducible exact fun _ h => h
    | split

theorem State.resend_keeps {s0 s : State} (h : s0.Keeps s) (n : Nat) (a2 : Held) :
    s0.Keeps (State.resend s n a2) := by
  unfold State.resend
  repeat' first
    | (intro _)
    | with_reducible assumption
    | (extract_lets +onlyGivenNames x; first | clear_value x)
    | (with_reducible first | apply State.updCup_keeps | apply State.updLeg_keeps | apply State.updHost_keeps)
    | split
    | (with_reducible apply State.mk_keeps; (rotate_left); all_goals first | with_reducible rfl | exact upd_length _ _ _ | exact List.length_map _ | skip)
    | with_reducible exact fun _ h => h
    | split

theorem execCompletionDelivery_keeps (s : State) (ring : Fin 64) (ok : Bool) :
    State.KeepsOut s (execCompletionDelivery ring ok s) := by
  unfold execCompletionDelivery
  first | apply State.live_keeps | apply State.liveOn_keeps | apply keepsOut_next
  repeat' first
    | (intro _)
    | with_reducible assumption
    | (extract_lets +onlyGivenNames x; first | (refine (fun hx => ?_ : State.Keeps s x → _) ?_; (on_goal 1 => clear_value x); (on_goal 2 => subst x)) | clear_value x)
    | with_reducible exact State.Keeps.refl _
    | (with_reducible first | apply State.iff_keeps | apply State.event_keeps | apply State.inc_keeps | apply State.updRing_keeps | apply State.dmaError_keeps | apply State.statusBlock_keeps | apply State.setFld_keeps | apply State.hrRegs_keeps | apply State.closeRing_keeps | apply State.acknowledge_keeps | apply State.signal_keeps)
    | with_reducible exact fun _ h => h
    | split
    | (fail_if_no_progress beta_reduce)

theorem State.takeHead_keeps {s0 s : State} (h : s0.Keeps s) (n : Nat) (head : Nat) :
    s0.Keeps (State.takeHead s n head) := by
  unfold State.takeHead
  repeat' first
    | (intro _)
    | with_reducible assumption
    | (extract_lets +onlyGivenNames x; first | (refine (fun hx => ?_ : State.Keeps s0 x → _) ?_; (on_goal 1 => clear_value x); (on_goal 2 => subst x)) | clear_value x)
    | (with_reducible first | apply State.haltRing_keeps | apply State.setFld_keeps | apply State.updRing_keeps | apply State.each_keeps | apply State.release_keeps)
    | with_reducible exact fun _ h => h
    | split
    | (fail_if_no_progress beta_reduce)

theorem execDbChead_keeps (s : State) (ring : Fin 64) (head : Word) :
    State.KeepsOut s (execDbChead ring head s) := by
  unfold execDbChead
  first | apply State.live_keeps | apply State.liveOn_keeps | apply keepsOut_next
  repeat' first
    | (intro _)
    | with_reducible assumption
    | (extract_lets +onlyGivenNames x; first | (refine (fun hx => ?_ : State.Keeps s x → _) ?_; (on_goal 1 => clear_value x); (on_goal 2 => subst x)) | clear_value x)
    | with_reducible exact State.Keeps.refl _
    | (with_reducible first | apply State.takeHead_keeps | apply State.updRing_keeps)
    | with_reducible exact fun _ h => h
    | split
    | (fail_if_no_progress beta_reduce)

theorem execCoalesceTimeout_keeps (s : State) (ring : Fin 64) :
    State.KeepsOut s (execCoalesceTimeout ring s) := by
  unfold execCoalesceTimeout
  first | apply State.live_keeps | apply State.liveOn_keeps | apply keepsOut_next
  repeat' first
    | (intro _)
    | with_reducible assumption
    | with_reducible exact State.Keeps.refl _
    | (with_reducible first | apply State.signal_keeps)
    | with_reducible exact fun _ h => h
    | split

theorem execMsixUnmask_keeps (s : State) (vec : Fin 64) :
    State.KeepsOut s (execMsixUnmask vec s) := by
  unfold execMsixUnmask
  first | apply State.live_keeps | apply State.liveOn_keeps | apply keepsOut_next
  repeat' first
    | (intro _)
    | with_reducible assumption
    | with_reducible exact State.Keeps.refl _
    | (with_reducible first | apply State.unmask_keeps)
    | with_reducible exact fun _ h => h
    | split

theorem execDescriptorExpired_keeps (s : State) (ring : Fin 64) (didx : Nat) :
    State.KeepsOut s (execDescriptorExpired ring didx s) := by
  unfold execDescriptorExpired
  first | apply State.live_keeps | apply keepsOut_next
  repeat' first
    | (intro _)
    | with_reducible assumption
    | with_reducible exact State.Keeps.refl _
    | (with_reducible first | apply State.complete_keeps)
    | with_reducible exact fun _ h => h
    | split

theorem State.serve_keeps {s0 s : State} (h : s0.Keeps s) (n : Nat) (t : Nat) (op : Nat) (f : JSlot → State → State) (hf : ∀ z0 z1, s0.Keeps z1 → s0.Keeps (f z0 z1)) :
    s0.Keeps (State.serve s n t op f) := by
  unfold State.serve
  repeat' first
    | (intro _)
    | with_reducible assumption
    | (extract_lets +onlyGivenNames x; first | (refine (fun hx => ?_ : State.Keeps s0 x → _) ?_; (on_goal 1 => clear_value x); (on_goal 2 => subst x)) | clear_value x)
    | (with_reducible first | apply hf | apply State.complete_keeps | apply State.updHost_keeps | apply State.updSlot_keeps | apply State.stopTimer_keeps | apply State.touchRole_keeps | apply State.hrRegs_keeps | apply State.closeRing_keeps)
    | with_reducible exact fun _ h => h
    | split
    | (fail_if_no_progress beta_reduce)

theorem State.serveRecv_keeps {s0 s : State} (h : s0.Keeps s) (n : Nat) (t : Nat) (waiting : Nat) (dma : Bool) (f : JSlot → State → State) (hf : ∀ z0 z1, s0.Keeps z1 → s0.Keeps (f z0 z1)) :
    s0.Keeps (State.serveRecv s n t waiting dma f) := by
  unfold State.serveRecv
  repeat' first
    | (intro _)
    | with_reducible assumption
    | (with_reducible first | apply hf | apply State.iff_keeps | apply State.event_keeps | apply State.updRing_keeps | apply State.serve_keeps | apply State.dmaFail_keeps)
    | with_reducible exact fun _ h => h
    | split

theorem execRecvEvents_keeps (s : State) (ring : Fin 64) (dma : Bool) :
    State.KeepsOut s (execRecvEvents ring dma s) := by
  unfold execRecvEvents
  first | apply State.live_keeps | apply State.liveOn_keeps | apply keepsOut_next
  repeat' first
    | (intro _)
    | with_reducible assumption
    | (extract_lets +onlyGivenNames x; first | (refine (fun hx => ?_ : State.Keeps s x → _) ?_; (on_goal 1 => clear_value x); (on_goal 2 => subst x)) | clear_value x)
    | with_reducible exact State.Keeps.refl _
    | (with_reducible first | apply State.serveRecv_keeps | apply State.updHost_keeps | apply State.completeData_keeps)
    | with_reducible exact fun _ h => h
    | split
    | (fail_if_no_progress beta_reduce)

theorem execRecvRecord_keeps (s : State) (ring : Fin 64) (dma : Bool) :
    State.KeepsOut s (execRecvRecord ring dma s) := by
  unfold execRecvRecord
  first | apply State.live_keeps | apply State.liveOn_keeps | apply keepsOut_next
  repeat' first
    | (intro _)
    | with_reducible assumption
    | (extract_lets +onlyGivenNames x; first | (refine (fun hx => ?_ : State.Keeps s x → _) ?_; (on_goal 1 => clear_value x); (on_goal 2 => subst x)) | clear_value x)
    | with_reducible exact State.Keeps.refl _
    | (with_reducible first | apply State.serveRecv_keeps | apply State.updLeg_keeps | apply State.complete_keeps | apply State.resend_keeps | apply State.completeWith_keeps)
    | with_reducible exact fun _ h => h
    | split
    | (fail_if_no_progress beta_reduce)

theorem execRecvReq_keeps (s : State) (ring : Fin 64) (dma : Bool) :
    State.KeepsOut s (execRecvReq ring dma s) := by
  unfold execRecvReq
  first | apply State.live_keeps | apply State.liveOn_keeps | apply keepsOut_next
  repeat' first
    | (intro _)
    | with_reducible assumption
    | (extract_lets +onlyGivenNames x; first | (refine (fun hx => ?_ : State.Keeps s x → _) ?_; (on_goal 1 => clear_value x); (on_goal 2 => subst x)) | (have y : State → State := x; clear y; subst x) | (have y : State → _ → State := x; clear y; subst x) | (have y : _ → State → State := x; clear y; subst x) | (have y : _ → _ → State → State := x; clear y; subst x) | (have y : State → _ → _ → State := x; clear y; subst x) | (have y : State → _ → State × _ := x; clear y; subst x) | clear_value x)
    | with_reducible exact State.Keeps.refl _
    | (with_reducible first | apply State.serveRecv_keeps | apply State.complete_keeps | apply State.completeWith_keeps)
    | split
    | (with_reducible apply State.mk_keeps; (rotate_left); all_goals first | with_reducible rfl | exact upd_length _ _ _ | exact List.length_map _ | skip)
    | with_reducible exact fun _ h => h
    | split
    | (fail_if_no_progress beta_reduce)

theorem execRecvTrace_keeps (s : State) (ring : Fin 64) (dma : Bool) :
    State.KeepsOut s (execRecvTrace ring dma s) := by
  unfold execRecvTrace
  first | apply State.live_keeps | apply State.liveOn_keeps | apply keepsOut_next
  repeat' first
    | (intro _)
    | with_reducible assumption
    | (extract_lets +onlyGivenNames x; first | (refine (fun hx => ?_ : State.Keeps s x → _) ?_; (on_goal 1 => clear_value x); (on_goal 2 => subst x)) | clear_value x)
    | with_reducible exact State.Keeps.refl _
    | (with_reducible first | apply State.serveRecv_keeps | apply State.updCup_keeps | apply State.completeWith_keeps)
    | with_reducible exact fun _ h => h
    | split
    | (fail_if_no_progress beta_reduce)

theorem State.answerCert_keeps {s0 s : State} (h : s0.Keeps s) (j : Nat) (ok : Bool) (payload : List Byte) :
    s0.Keeps (State.answerCert s j ok payload) := by
  unfold State.answerCert
  repeat' first
    | (intro _)
    | with_reducible assumption
    | (extract_lets +onlyGivenNames x; first | (refine (fun hx => ?_ : State.Keeps s0 x → _) ?_; (on_goal 1 => clear_value x); (on_goal 2 => subst x)) | clear_value x)
    | (with_reducible first | apply State.updVh_keeps | apply State.stopTimer_keeps | apply State.iff_keeps | apply State.event_keeps)
    | with_reducible exact fun _ h => h
    | split
    | (fail_if_no_progress beta_reduce)

theorem State.answerAuth_keeps {s0 s : State} (h : s0.Keeps s) (j : Nat) (ok : Bool) (unit : Nat) (limit : Nat) :
    s0.Keeps (State.answerAuth s j ok unit limit) := by
  unfold State.answerAuth
  repeat' first
    | (intro _)
    | with_reducible assumption
    | (extract_lets +onlyGivenNames x; first | (refine (fun hx => ?_ : State.Keeps s0 x → _) ?_; (on_goal 1 => clear_value x); (on_goal 2 => subst x)) | clear_value x)
    | (with_reducible first | apply State.tokSettle_keeps | apply State.updVh_keeps | apply State.endNow_keeps | apply State.creditCheck_keeps | apply State.passAuth_keeps | apply State.event_keeps)
    | with_reducible exact fun _ h => h
    | split

theorem execAnswer_keeps (s : State) (ring : Fin 64) :
    State.KeepsOut s (execAnswer ring s) := by
  unfold execAnswer
  first | apply State.live_keeps | apply State.liveOn_keeps | apply keepsOut_next
  repeat' first
    | (intro _)
    | with_reducible assumption
    | (extract_lets +onlyGivenNames x; first | (refine (fun hx => ?_ : State.Keeps s x → _) ?_; (on_goal 1 => clear_value x); (on_goal 2 => subst x)) | (have y : State → State := x; clear y; subst x) | (have y : State → _ → State := x; clear y; subst x) | (have y : _ → State → State := x; clear y; subst x) | (have y : _ → _ → State → State := x; clear y; subst x) | (have y : State → _ → _ → State := x; clear y; subst x) | (have y : State → _ → State × _ := x; clear y; subst x) | clear_value x)
    | with_reducible exact State.Keeps.refl _
    | (with_reducible first | apply State.serve_keeps | apply State.complete_keeps | apply State.answerAuth_keeps | apply State.dmaFail_keeps | apply State.answerCert_keeps)
    | split
    | (with_reducible apply State.mk_keeps; (rotate_left); all_goals first | with_reducible rfl | exact upd_length _ _ _ | exact List.length_map _ | skip)
    | with_reducible exact fun _ h => h
    | split
    | (fail_if_no_progress beta_reduce)

theorem execStop_keeps (s : State) (ring : Fin 64) :
    State.KeepsOut s (execStop ring s) := by
  unfold execStop
  first | apply State.live_keeps | apply keepsOut_next
  repeat' first
    | (intro _)
    | with_reducible assumption
    | (extract_lets +onlyGivenNames x; first | clear_value x)
    | with_reducible exact State.Keeps.refl _
    | (with_reducible first | apply State.serve_keeps | apply State.hostStop_keeps | apply State.complete_keeps)
    | with_reducible exact fun _ h => h
    | split

theorem execPrice_keeps (s : State) (ring : Fin 64) (fits : Bool) :
    State.KeepsOut s (execPrice ring fits s) := by
  unfold execPrice
  first | apply State.live_keeps | apply State.liveOn_keeps | apply keepsOut_next
  repeat' first
    | (intro _)
    | with_reducible assumption
    | (extract_lets +onlyGivenNames x; first | (refine (fun hx => ?_ : State.Keeps s x → _) ?_; (on_goal 1 => clear_value x); (on_goal 2 => subst x)) | clear_value x)
    | with_reducible exact State.Keeps.refl _
    | (with_reducible first | apply State.serve_keeps | apply State.complete_keeps | apply State.dmaFail_keeps | apply State.updVh_keeps)
    | with_reducible exact fun _ h => h
    | split
    | (fail_if_no_progress beta_reduce)

theorem State.ringEnable_keeps {s0 s : State} (h : s0.Keeps s) (n : Nat) :
    s0.Keeps (State.ringEnable s n) := by
  unfold State.ringEnable
  repeat' first
    | (intro _)
    | with_reducible assumption
    | (with_reducible first | apply State.setRing_keeps | apply State.updRing_keeps)
    | with_reducible exact fun _ h => h
    | split

theorem State.ringDisable_keeps {s0 s : State} (h : s0.Keeps s) (n : Nat) :
    s0.Keeps (State.ringDisable s n) := by
  unfold State.ringDisable
  repeat' first
    | (intro _)
    | with_reducible assumption
    | (extract_lets +onlyGivenNames x; first | (refine (fun hx => ?_ : State.Keeps s0 x → _) ?_; (on_goal 1 => clear_value x); (on_goal 2 => subst x)) | clear_value x)
    | (with_reducible first | apply State.complete_keeps | apply State.each_keeps | apply State.hrRegs_keeps | apply State.closeRing_keeps | apply State.updRing_keeps)
    | with_reducible exact fun _ h => h
    | split

theorem State.ringResume_keeps {s0 s : State} (h : s0.Keeps s) (n : Nat) :
    s0.Keeps (State.ringResume s n) := by
  unfold State.ringResume
  repeat' first
    | (intro _)
    | with_reducible assumption
    | (extract_lets +onlyGivenNames x; first | (refine (fun hx => ?_ : State.Keeps s0 x → _) ?_; (on_goal 1 => clear_value x); (on_goal 2 => subst x)) | clear_value x)
    | (with_reducible first | apply State.updRing_keeps | apply State.each_keeps | apply State.completeWith_keeps | apply State.iff_keeps | apply State.event_keeps | apply State.setSat_keeps | apply State.setRing_keeps)
    | with_reducible exact fun _ h => h
    | split
    | (fail_if_no_progress beta_reduce)

theorem State.ringFlush_keeps {s0 s : State} (h : s0.Keeps s) (n : Nat) :
    s0.Keeps (State.ringFlush s n) := by
  unfold State.ringFlush
  repeat' first
    | (intro _)
    | with_reducible assumption
    | (extract_lets +onlyGivenNames x; first | (refine (fun hx => ?_ : State.Keeps s0 x → _) ?_; (on_goal 1 => clear_value x); (on_goal 2 => subst x)) | clear_value x)
    | (with_reducible first | apply State.each_keeps | apply State.resend_keeps | apply State.setFld_keeps | apply State.updRing_keeps | apply State.event_keeps | apply State.completeWith_keeps | apply State.iff_keeps | apply State.updSlot_keeps | apply State.setSat_keeps | apply State.hrRegs_keeps | apply State.setRing_keeps)
    | with_reducible exact fun _ h => h
    | split
    | (fail_if_no_progress beta_reduce)

theorem execEnable_keeps (s : State) (ring : Fin 64) :
    State.KeepsOut s (execEnable ring s) := by
  unfold execEnable
  first | apply State.live_keeps | apply keepsOut_next
  repeat' first
    | (intro _)
    | with_reducible assumption
    | with_reducible exact State.Keeps.refl _
    | (with_reducible first | apply State.ringEnable_keeps)
    | with_reducible exact fun _ h => h
    | split

theorem execDisable_keeps (s : State) (ring : Fin 64) :
    State.KeepsOut s (execDisable ring s) := by
  unfold execDisable
  first | apply State.live_keeps | apply keepsOut_next
  repeat' first
    | (intro _)
    | with_reducible assumption
    | with_reducible exact State.Keeps.refl _
    | (with_reducible first | apply State.ringDisable_keeps)
    | with_reducible exact fun _ h => h
    | split

theorem execResume_keeps (s : State) (ring : Fin 64) :
    State.KeepsOut s (execResume ring s) := by
  unfold execResume
  first | apply State.live_keeps | apply keepsOut_next
  repeat' first
    | (intro _)
    | with_reducible assumption
    | with_reducible exact State.Keeps.refl _
    | (with_reducible first | apply State.ringResume_keeps)
    | with_reducible exact fun _ h => h
    | split

theorem execFlush_keeps (s : State) (ring : Fin 64) :
    State.KeepsOut s (execFlush ring s) := by
  unfold execFlush
  first | apply State.live_keeps | apply keepsOut_next
  repeat' first
    | (intro _)
    | with_reducible assumption
    | with_reducible exact State.Keeps.refl _
    | (with_reducible first | apply State.ringFlush_keeps)
    | with_reducible exact fun _ h => h
    | split

theorem State.ringsRecover_keeps {s0 s : State} (h : s0.Keeps s) (start : Bool) :
    s0.Keeps (State.ringsRecover s start) := by
  unfold State.ringsRecover
  repeat' first
    | (intro _)
    | with_reducible assumption
    | (with_reducible first | apply State.each_keeps | apply State.setRing_keeps | apply State.updRing_keeps)
    | with_reducible exact fun _ h => h
    | split

theorem State.hostLinkDown_keeps {s0 s : State} (h : s0.Keeps s) :
    s0.Keeps (State.hostLinkDown s) := by
  unfold State.hostLinkDown
  repeat' first
    | (intro _)
    | with_reducible assumption
    | (extract_lets +onlyGivenNames x; first | (refine (fun hx => ?_ : State.Keeps s0 x → _) ?_; (on_goal 1 => clear_value x); (on_goal 2 => subst x)) | clear_value x)
    | (with_reducible first | apply State.updHost_keeps | apply State.setFld_keeps | apply State.inc_keeps | apply State.hrRegs_keeps | apply State.event_keeps | apply State.ringsRecover_keeps)
    | with_reducible exact fun _ h => h
    | split
    | (fail_if_no_progress beta_reduce)

theorem execLinkDown_keeps (s : State) :
    State.KeepsOut s (execLinkDown s) := by
  unfold execLinkDown
  first | apply State.live_keeps | apply State.liveOn_keeps | apply keepsOut_next
  repeat' first
    | (intro _)
    | with_reducible assumption
    | with_reducible exact State.Keeps.refl _
    | (with_reducible first | apply State.hostLinkDown_keeps)
    | with_reducible exact fun _ h => h
    | split

theorem State.linkGone_keeps {s0 s : State} (h : s0.Keeps s) :
    s0.Keeps (State.linkGone s) := by
  unfold State.linkGone
  repeat' first
    | (intro _)
    | with_reducible assumption
    | (with_reducible first | apply State.iff_keeps | apply State.setFld_keeps | apply State.updHost_keeps)
    | with_reducible exact fun _ h => h
    | split

theorem execFunctionLevelReset_keeps (s : State) :
    State.KeepsOut s (execFunctionLevelReset s) := by
  unfold execFunctionLevelReset
  first | apply State.live_keeps | apply State.liveOn_keeps | apply keepsOut_next
  repeat' first
    | (intro _)
    | with_reducible assumption
    | with_reducible exact State.Keeps.refl _
    | (with_reducible first | apply State.updHost_keeps | apply State.hrRegs_keeps | apply State.event_keeps | apply State.ringsRecover_keeps | apply State.inc_keeps)
    | with_reducible exact fun _ h => h
    | split

theorem execPcieLinkUp_keeps (s : State) (speed : Fin 3) (width : Fin 5) :
    State.KeepsOut s (execPcieLinkUp speed width s) := by
  unfold execPcieLinkUp
  first | apply State.live_keeps | apply State.liveOn_keeps | apply keepsOut_next
  repeat' first
    | (intro _)
    | with_reducible assumption
    | (extract_lets +onlyGivenNames x; first | (refine (fun hx => ?_ : State.Keeps s x → _) ?_; (on_goal 1 => clear_value x); (on_goal 2 => subst x)) | clear_value x)
    | with_reducible exact State.Keeps.refl _
    | (with_reducible first | apply State.iff_keeps | apply State.event_keeps | apply State.inc_keeps | apply State.hrRegs_keeps | apply State.setFld_keeps | apply State.updHost_keeps)
    | with_reducible exact fun _ h => h
    | split
    | (fail_if_no_progress beta_reduce)

theorem State.journalStart_keeps {s0 s : State} (h : s0.Keeps s) (torn : List Nat) (unread : List Nat) :
    s0.Keeps (State.journalStart s torn unread) := by
  unfold State.journalStart
  repeat' first
    | (intro _)
    | with_reducible assumption
    | (extract_lets +onlyGivenNames x; first | (refine (fun hx => ?_ : State.Keeps s0 x → _) ?_; (on_goal 1 => clear_value x); (on_goal 2 => subst x)) | (have y : State → State := x; clear y; subst x) | (have y : State → _ → State := x; clear y; subst x) | (have y : _ → State → State := x; clear y; subst x) | (have y : _ → _ → State → State := x; clear y; subst x) | (have y : State → _ → _ → State := x; clear y; subst x) | (have y : State → _ → State × _ := x; clear y; subst x) | clear_value x)
    | (with_reducible first | apply State.each_keeps | apply State.iff_keeps | apply State.setFld_keeps | apply State.updRing_keeps | apply State.updSlot_keeps | apply State.resend_keeps | apply State.inc_keeps | apply State.event_keeps | apply State.updHost_keeps | apply State.linkGone_keeps | apply State.setTimer_keeps | apply State.hrRegs_keeps | apply State.setReg_keeps | apply State.ringsRecover_keeps)
    | with_reducible exact fun _ h => h
    | split
    | (fail_if_no_progress beta_reduce)

theorem State.ringsHold_keeps {s0 s : State} (h : s0.Keeps s) (own : Nat) :
    s0.Keeps (State.ringsHold s own) := by
  unfold State.ringsHold
  repeat' first
    | (intro _)
    | with_reducible assumption
    | (extract_lets +onlyGivenNames x; first | (refine (fun hx => ?_ : State.Keeps s0 x → _) ?_; (on_goal 1 => clear_value x); (on_goal 2 => subst x)) | clear_value x)
    | (with_reducible first | apply State.each_keeps | apply State.setRing_keeps | apply State.complete_keeps | apply State.hrRegs_keeps | apply State.iff_keeps | apply State.event_keeps)
    | with_reducible exact fun _ h => h
    | split
    | (fail_if_no_progress beta_reduce)

theorem State.ringsUnhold_keeps {s0 s : State} (h : s0.Keeps s) :
    s0.Keeps (State.ringsUnhold s) := by
  unfold State.ringsUnhold
  repeat' first
    | (intro _)
    | with_reducible assumption
    | (extract_lets +onlyGivenNames x; first | (refine (fun hx => ?_ : State.Keeps s0 x → _) ?_; (on_goal 1 => clear_value x); (on_goal 2 => subst x)) | clear_value x)
    | (with_reducible first | apply State.each_keeps | apply State.setRing_keeps | apply State.updRing_keeps | apply State.takeHead_keeps | apply State.takeTail_keeps)
    | with_reducible exact fun _ h => h
    | split
    | (fail_if_no_progress beta_reduce)

theorem State.hostQuiet_keeps {s0 s : State} (h : s0.Keeps s) :
    s0.Keeps (State.hostQuiet s) := by
  unfold State.hostQuiet
  repeat' first
    | (intro _)
    | with_reducible assumption
    | (with_reducible first | apply State.hrRegs_keeps | apply State.updHost_keeps)
    | with_reducible exact fun _ h => h
    | split

theorem State.hostSf_keeps {s0 s : State} (h : s0.Keeps s) :
    s0.Keeps (State.hostSf s) := by
  unfold State.hostSf
  repeat' first
    | (intro _)
    | with_reducible assumption
    | (with_reducible first | apply State.updHost_keeps)
    | with_reducible exact fun _ h => h
    | split

theorem State.ringsNotHolder_keeps {s0 s : State} (h : s0.Keeps s) :
    s0.Keeps (State.ringsNotHolder s) := by
  unfold State.ringsNotHolder
  repeat' first
    | (intro _)
    | with_reducible assumption
    | (extract_lets +onlyGivenNames x; first | clear_value x)
    | (with_reducible first | apply State.complete_keeps | apply State.each_keeps | apply State.event_keeps)
    | with_reducible exact fun _ h => h
    | split

end Sys2Proof.Machine
end

