-- ==== Sys2Proof/Laws/KeepsToken.lean ====
section
/-!
SUPPORT. What every command keeps, for the operations and commands of Machine/Token.lean.
-/

set_option linter.all false

namespace Sys2Proof.Machine

open Sys2Proof

theorem State.twinRefresh_keeps {s0 s : State} (h : s0.Keeps s) :
    s0.Keeps (State.twinRefresh s) := by
  unfold State.twinRefresh
  repeat' first
    | (intro _)
    | with_reducible assumption
    | (extract_lets +onlyGivenNames x; first | clear_value x)
    | (with_reducible first | apply State.iff_keeps | apply State.setFld_keeps | apply State.event_keeps)
    | with_reducible exact fun _ h => h
    | split

theorem State.twinQuiet_keeps {s0 s : State} (h : s0.Keeps s) (j : Nat) :
    s0.Keeps (State.twinQuiet s j) := by
  unfold State.twinQuiet
  repeat' first
    | (intro _)
    | with_reducible assumption
    | (extract_lets +onlyGivenNames x; first | (refine (fun hx => ?_ : State.Keeps s0 x → _) ?_; (on_goal 1 => clear_value x); (on_goal 2 => subst x)) | clear_value x)
    | (with_reducible first | apply State.drive_keeps | apply State.dropReqs_keeps | apply State.stopTimer_keeps | apply State.quiet_keeps | apply State.updVh_keeps | apply State.setSState_keeps | apply State.setFlag_keeps | apply State.tlsDown_keeps)
    | with_reducible exact fun _ h => h
    | split
    | (fail_if_no_progress beta_reduce)

theorem State.twinRelease_keeps {s0 s : State} (h : s0.Keeps s) :
    s0.Keeps (State.twinRelease s) := by
  unfold State.twinRelease
  repeat' first
    | (intro _)
    | with_reducible assumption
    | (extract_lets +onlyGivenNames x; first | (refine (fun hx => ?_ : State.Keeps s0 x → _) ?_; (on_goal 1 => clear_value x); (on_goal 2 => subst x)) | clear_value x)
    | (with_reducible first | apply State.ringsNotHolder_keeps | apply State.setFlag_keeps | apply State.ptpRefresh_keeps | apply State.iff_keeps | apply State.twinQuiet_keeps | apply State.legPass_keeps | apply State.each_keeps | apply State.twinRefresh_keeps | apply State.event_keeps)
    | with_reducible exact fun _ h => h
    | split

theorem State.twinOut_keeps {s0 s : State} (h : s0.Keeps s) (ms : List MirOut) (cmd : Bool) (j : Nat) (a4 : MirOut) :
    s0.Keeps (State.twinOut s ms cmd j a4) := by
  unfold State.twinOut
  repeat' first
    | (intro _)
    | with_reducible assumption
    | (extract_lets +onlyGivenNames x; first | (refine (fun hx => ?_ : State.Keeps s0 x → _) ?_; (on_goal 1 => clear_value x); (on_goal 2 => subst x)) | (have y : State → State := x; clear y; subst x) | (have y : State → _ → State := x; clear y; subst x) | (have y : _ → State → State := x; clear y; subst x) | (have y : _ → _ → State → State := x; clear y; subst x) | (have y : State → _ → _ → State := x; clear y; subst x) | (have y : State → _ → State × _ := x; clear y; subst x) | clear_value x)
    | (with_reducible first | apply State.updVh_keeps | apply State.setFlag_keeps | apply State.setFld_keeps | apply State.iff_keeps | apply State.setSState_keeps | apply State.takeValues_keeps | apply State.startTimer_keeps | apply State.updIo_keeps | apply State.updSh_keeps | apply State.legTake_keeps | apply State.vehMode_keeps | apply State.commLost_keeps)
    | split
    | (with_reducible apply State.mk_keeps; (rotate_left); all_goals first | with_reducible rfl | exact upd_length _ _ _ | exact List.length_map _ | skip)
    | with_reducible exact fun _ h => h
    | split
    | (fail_if_no_progress beta_reduce)

theorem State.twinMove_keeps {s0 s : State} (h : s0.Keeps s) (n : Nat) :
    s0.Keeps (State.twinMove s n) := by
  unfold State.twinMove
  repeat' first
    | (intro _)
    | with_reducible assumption
    | (extract_lets +onlyGivenNames x; first | (refine (fun hx => ?_ : State.Keeps s0 x → _) ?_; (on_goal 1 => clear_value x); (on_goal 2 => subst x)) | clear_value x)
    | (with_reducible first | apply State.updMv_keeps | apply State.showStep_keeps)
    | with_reducible exact fun _ h => h
    | split
    | (fail_if_no_progress beta_reduce)

theorem State.twinTake_keeps {s0 s : State} (h : s0.Keeps s) (cmd : Bool) :
    s0.Keeps (State.twinTake s cmd) := by
  unfold State.twinTake
  repeat' first
    | (intro _)
    | with_reducible assumption
    | (extract_lets +onlyGivenNames x; first | (refine (fun hx => ?_ : State.Keeps s0 x → _) ?_; (on_goal 1 => clear_value x); (on_goal 2 => subst x)) | (have y : State → State := x; clear y; subst x) | (have y : State → _ → State := x; clear y; subst x) | (have y : _ → State → State := x; clear y; subst x) | (have y : _ → _ → State → State := x; clear y; subst x) | (have y : State → _ → _ → State := x; clear y; subst x) | (have y : State → _ → State × _ := x; clear y; subst x) | clear_value x)
    | (with_reducible first | apply State.event_keeps | apply State.inc_keeps | apply State.setFlag_keeps | apply State.iff_keeps | apply State.updTwin_keeps | apply State.setClk_keeps | apply State.each_keeps | apply State.updLk_keeps | apply State.updSh_keeps | apply State.twinMove_keeps | apply State.setReg_keeps | apply State.twinOut_keeps | apply State.twinRefresh_keeps | apply State.ptpRefresh_keeps)
    | split
    | (with_reducible apply State.mk_keeps; (rotate_left); all_goals first | with_reducible rfl | exact upd_length _ _ _ | exact List.length_map _ | skip)
    | with_reducible exact fun _ h => h
    | split
    | (fail_if_no_progress beta_reduce)

end Sys2Proof.Machine
end

