-- ==== Sys2Proof/Laws/KeepsBoot.lean ====
section
/-!
SUPPORT. What every command keeps, for the operations and commands of Machine/Boot.lean.
-/

set_option linter.all false

namespace Sys2Proof.Machine

open Sys2Proof

theorem State.beginStart_keeps {s0 s : State} (h : s0.Keeps s) (cause : Nat) :
    s0.Keeps (State.beginStart s cause) := by
  unfold State.beginStart
  repeat' first
    | (intro _)
    | with_reducible assumption
    | (extract_lets +onlyGivenNames x; first | (refine (fun hx => ?_ : State.Keeps s0 x → _) ?_; (on_goal 1 => clear_value x); (on_goal 2 => subst x)) | (have y : State → State := x; clear y; subst x) | (have y : State → _ → State := x; clear y; subst x) | (have y : _ → State → State := x; clear y; subst x) | (have y : _ → _ → State → State := x; clear y; subst x) | (have y : State → _ → _ → State := x; clear y; subst x) | (have y : State → _ → State × _ := x; clear y; subst x) | clear_value x)
    | (with_reducible first | apply State.iff_keeps | apply State.twinRelease_keeps | apply State.updTwin_keeps | apply State.updIsl_keeps | apply State.setReg_keeps | apply State.setFld_keeps | apply State.pdSet_keeps | apply State.setMode_keeps | apply State.setFlag_keeps | apply State.each_keeps | apply State.updMf_keeps | apply State.updMo_keeps | apply State.updSys_keeps | apply State.updKeys_keeps | apply State.roleStat_keeps)
    | split
    | (with_reducible apply State.mk_keeps; (rotate_left); all_goals first | with_reducible rfl | exact upd_length _ _ _ | exact List.length_map _ | skip)
    | with_reducible exact fun _ h => h
    | split
    | (fail_if_no_progress beta_reduce)

theorem State.deferStart_keeps {s0 s : State} (h : s0.Keeps s) (cause : Nat) :
    s0.Keeps (State.deferStart s cause) := by
  unfold State.deferStart
  repeat' first
    | (intro _)
    | with_reducible assumption
    | (with_reducible first | apply State.updKeys_keeps | apply State.beginStart_keeps)
    | with_reducible exact fun _ h => h
    | split

theorem execDeferredStart_keeps (s : State) :
    State.KeepsOut s (execDeferredStart s) := by
  unfold execDeferredStart
  first | apply State.live_keeps | apply keepsOut_next
  repeat' first
    | (intro _)
    | with_reducible assumption
    | with_reducible exact State.Keeps.refl _
    | (with_reducible first | apply State.beginStart_keeps)
    | with_reducible exact fun _ h => h
    | split

theorem State.servePublic_keeps {s0 s : State} (h : s0.Keeps s) (n : Nat) (op : Nat) (f : JSlot → State → State) (hf : ∀ z0 z1, s0.Keeps z1 → s0.Keeps (f z0 z1)) :
    s0.Keeps (State.servePublic s n op f) := by
  unfold State.servePublic
  repeat' first
    | (intro _)
    | with_reducible assumption
    | (with_reducible first | apply hf | apply State.serve_keeps | apply State.touchRole_keeps)
    | with_reducible exact fun _ h => h
    | split

theorem State.serveRole_keeps {s0 s : State} (h : s0.Keeps s) (n : Nat) (op : Nat) (roles : List Nat) (maker : Bool) (f : JSlot → Nat → State → State) (hf : ∀ z0 z1 z2, s0.Keeps z2 → s0.Keeps (f z0 z1 z2)) :
    s0.Keeps (State.serveRole s n op roles maker f) := by
  unfold State.serveRole
  repeat' first
    | (intro _)
    | with_reducible assumption
    | (extract_lets +onlyGivenNames x; first | (refine (fun hx => ?_ : State.Keeps s0 x → _) ?_; (on_goal 1 => clear_value x); (on_goal 2 => subst x)) | clear_value x)
    | (with_reducible first | apply hf | apply State.serve_keeps | apply State.touchRole_keeps | apply State.complete_keeps)
    | with_reducible exact fun _ h => h
    | split

theorem execRoleChallenge_keeps (s : State) (ring : Fin 64) :
    State.KeepsOut s (execRoleChallenge ring s) := by
  unfold execRoleChallenge
  first | apply State.live_keeps | apply keepsOut_next
  repeat' first
    | (intro _)
    | with_reducible assumption
    | (extract_lets +onlyGivenNames x; first | (refine (fun hx => ?_ : State.Keeps s x → _) ?_; (on_goal 1 => clear_value x); (on_goal 2 => subst x)) | (refine (fun hx => ?_ : State.Keeps s x.2 → _) ?_; (on_goal 1 => clear_value x); (on_goal 2 => subst x)) | clear_value x)
    | with_reducible exact State.Keeps.refl _
    | (with_reducible first | apply State.draw_keeps | apply State.startTimer_keeps | apply State.servePublic_keeps | apply State.completeData_keeps | apply State.updKeys_keeps)
    | with_reducible exact fun _ h => h
    | split

theorem execRoleOpen_keeps (s : State) (ring : Fin 64) :
    State.KeepsOut s (execRoleOpen ring s) := by
  unfold execRoleOpen
  first | apply State.live_keeps | apply State.liveOn_keeps | apply keepsOut_next
  repeat' first
    | (intro _)
    | with_reducible assumption
    | (extract_lets +onlyGivenNames x; first | (refine (fun hx => ?_ : State.Keeps s x → _) ?_; (on_goal 1 => clear_value x); (on_goal 2 => subst x)) | clear_value x)
    | with_reducible exact State.Keeps.refl _
    | (with_reducible first | apply State.servePublic_keeps | apply State.dmaFail_keeps | apply State.iff_keeps | apply State.updKeys_keeps | apply State.complete_keeps | apply State.event_keeps | apply State.startTimer_keeps | apply State.roleStat_keeps)
    | with_reducible exact fun _ h => h
    | split
    | (fail_if_no_progress beta_reduce)

theorem State.updStatus_keeps {s0 s : State} (h : s0.Keeps s) :
    s0.Keeps (State.updStatus s) := by
  unfold State.updStatus
  repeat' first
    | (intro _)
    | with_reducible assumption
    | (with_reducible first | apply State.setFld_keeps)
    | with_reducible exact fun _ h => h
    | split

theorem State.setBank_keeps {s0 s : State} (h : s0.Keeps s) (b : Nat) (a2 : Bank) (st : Nat) :
    s0.Keeps (State.setBank s b a2 st) := by
  unfold State.setBank
  repeat' first
    | (intro _)
    | with_reducible assumption
    | (extract_lets +onlyGivenNames x; first | (refine (fun hx => ?_ : State.Keeps s0 x → _) ?_; (on_goal 1 => clear_value x); (on_goal 2 => subst x)) | clear_value x)
    | (with_reducible first | apply State.setFld_keeps | apply State.updKeys_keeps)
    | with_reducible exact fun _ h => h
    | split

theorem State.unlockBank_keeps {s0 s : State} (h : s0.Keeps s) :
    s0.Keeps (State.unlockBank s) := by
  unfold State.unlockBank
  repeat' first
    | (intro _)
    | with_reducible assumption
    | (with_reducible first | apply State.setFld_keeps | apply State.updStatus_keeps | apply State.updKeys_keeps)
    | with_reducible exact fun _ h => h
    | split

theorem State.dropUpdate_keeps {s0 s : State} (h : s0.Keeps s) :
    s0.Keeps (State.dropUpdate s) := by
  unfold State.dropUpdate
  repeat' first
    | (intro _)
    | with_reducible assumption
    | (with_reducible first | apply State.setBank_keeps | apply State.unlockBank_keeps | apply State.event_keeps)
    | with_reducible exact fun _ h => h
    | split

theorem State.endRole_keeps {s0 s : State} (h : s0.Keeps s) (a1 : Nat) :
    s0.Keeps (State.endRole s a1) := by
  unfold State.endRole
  repeat' first
    | (intro _)
    | with_reducible assumption
    | (extract_lets +onlyGivenNames x; first | (refine (fun hx => ?_ : State.Keeps s0 x → _) ?_; (on_goal 1 => clear_value x); (on_goal 2 => subst x)) | clear_value x)
    | (with_reducible first | apply State.iff_keeps | apply State.dropUpdate_keeps | apply State.stopTimer_keeps | apply State.updKeys_keeps | apply State.roleStat_keeps)
    | with_reducible exact fun _ h => h
    | split

theorem execRoleClose_keeps (s : State) (ring : Fin 64) :
    State.KeepsOut s (execRoleClose ring s) := by
  unfold execRoleClose
  first | apply State.live_keeps | apply keepsOut_next
  repeat' first
    | (intro _)
    | with_reducible assumption
    | with_reducible exact State.Keeps.refl _
    | (with_reducible first | apply State.endRole_keeps | apply State.serve_keeps | apply State.complete_keeps)
    | with_reducible exact fun _ h => h
    | split

theorem execRoleSessionTimeout_keeps (s : State) (handle : Nat) :
    State.KeepsOut s (execRoleSessionTimeout handle s) := by
  unfold execRoleSessionTimeout
  first | apply State.live_keeps | apply keepsOut_next
  repeat' first
    | (intro _)
    | with_reducible assumption
    | with_reducible exact State.Keeps.refl _
    | (with_reducible first | apply State.endRole_keeps)
    | with_reducible exact fun _ h => h
    | split

theorem State.replaceKey_keeps {s0 s : State} (h : s0.Keeps s) (k : Nat) (c : KeyCopy) :
    s0.Keeps (State.replaceKey s k c) := by
  unfold State.replaceKey
  repeat' first
    | (intro _)
    | with_reducible assumption
    | (extract_lets +onlyGivenNames x; first | clear_value x)
    | (with_reducible first | apply State.setSlot_keeps)
    | with_reducible exact fun _ h => h
    | split

theorem execKeyImport_keeps (s : State) (ring : Fin 64) :
    State.KeepsOut s (execKeyImport ring s) := by
  unfold execKeyImport
  first | apply State.live_keeps | apply State.liveOn_keeps | apply keepsOut_next
  repeat' first
    | (intro _)
    | with_reducible assumption
    | (extract_lets +onlyGivenNames x; first | (refine (fun hx => ?_ : State.Keeps s x → _) ?_; (on_goal 1 => clear_value x); (on_goal 2 => subst x)) | clear_value x)
    | with_reducible exact State.Keeps.refl _
    | (with_reducible first | apply State.serve_keeps | apply State.touchRole_keeps | apply State.dmaFail_keeps | apply State.complete_keeps | apply State.event_keeps | apply State.replaceKey_keeps)
    | with_reducible exact fun _ h => h
    | split
    | (fail_if_no_progress beta_reduce)

theorem execKeyGenerate_keeps (s : State) (ring : Fin 64) :
    State.KeepsOut s (execKeyGenerate ring s) := by
  unfold execKeyGenerate
  first | apply State.live_keeps | apply keepsOut_next
  repeat' first
    | (intro _)
    | with_reducible assumption
    | (extract_lets +onlyGivenNames x; first | (refine (fun hx => ?_ : State.Keeps s x → _) ?_; (on_goal 1 => clear_value x); (on_goal 2 => subst x)) | (refine (fun hx => ?_ : State.Keeps s x.2 → _) ?_; (on_goal 1 => clear_value x); (on_goal 2 => subst x)) | clear_value x)
    | with_reducible exact State.Keeps.refl _
    | (with_reducible first | apply State.replaceKey_keeps | apply State.draw_keeps | apply State.serve_keeps | apply State.touchRole_keeps | apply State.complete_keeps)
    | with_reducible exact fun _ h => h
    | split

theorem execKeyFlip_keeps (s : State) (slot : BitVec 8) :
    State.KeepsOut s (execKeyFlip slot s) := by
  unfold execKeyFlip
  first | apply State.live_keeps | apply keepsOut_next
  repeat' first
    | (intro _)
    | with_reducible assumption
    | (extract_lets +onlyGivenNames x; first | (refine (fun hx => ?_ : State.Keeps s x → _) ?_; (on_goal 1 => clear_value x); (on_goal 2 => subst x)) | clear_value x)
    | with_reducible exact State.Keeps.refl _
    | (with_reducible first | apply State.iff_keeps | apply State.setSlot_keeps | apply State.audit_keeps | apply State.updKeys_keeps | apply State.event_keeps)
    | with_reducible exact fun _ h => h
    | split

theorem execKeyPublic_keeps (s : State) (ring : Fin 64) :
    State.KeepsOut s (execKeyPublic ring s) := by
  unfold execKeyPublic
  first | apply State.live_keeps | apply keepsOut_next
  repeat' first
    | (intro _)
    | with_reducible assumption
    | (extract_lets +onlyGivenNames x; first | clear_value x)
    | with_reducible exact State.Keeps.refl _
    | (with_reducible first | apply State.complete_keeps | apply State.servePublic_keeps | apply State.completeData_keeps | apply State.jobRefused_keeps)
    | with_reducible exact fun _ h => h
    | split

theorem execKeyDelete_keeps (s : State) (ring : Fin 64) :
    State.KeepsOut s (execKeyDelete ring s) := by
  unfold execKeyDelete
  first | apply State.live_keeps | apply keepsOut_next
  repeat' first
    | (intro _)
    | with_reducible assumption
    | (extract_lets +onlyGivenNames x; first | clear_value x)
    | with_reducible exact State.Keeps.refl _
    | (with_reducible first | apply State.complete_keeps | apply State.setSlot_keeps | apply State.serveRole_keeps)
    | with_reducible exact fun _ h => h
    | split

theorem execCertInstall_keeps (s : State) (ring : Fin 64) :
    State.KeepsOut s (execCertInstall ring s) := by
  unfold execCertInstall
  first | apply State.live_keeps | apply State.liveOn_keeps | apply keepsOut_next
  repeat' first
    | (intro _)
    | with_reducible assumption
    | (extract_lets +onlyGivenNames x; first | (refine (fun hx => ?_ : State.Keeps s x → _) ?_; (on_goal 1 => clear_value x); (on_goal 2 => subst x)) | clear_value x)
    | with_reducible exact State.Keeps.refl _
    | (with_reducible first | apply State.serveRole_keeps | apply State.complete_keeps | apply State.dmaFail_keeps | apply State.setSlot_keeps)
    | with_reducible exact fun _ h => h
    | split
    | (fail_if_no_progress beta_reduce)

theorem execAttest_keeps (s : State) (ring : Fin 64) :
    State.KeepsOut s (execAttest ring s) := by
  unfold execAttest
  first | apply State.live_keeps | apply keepsOut_next
  repeat' first
    | (intro _)
    | with_reducible assumption
    | (extract_lets +onlyGivenNames x; first | clear_value x)
    | with_reducible exact State.Keeps.refl _
    | (with_reducible first | apply State.complete_keeps | apply State.servePublic_keeps | apply State.completeData_keeps | apply State.jobRefused_keeps)
    | with_reducible exact fun _ h => h
    | split

theorem execFvkRevoke_keeps (s : State) (ring : Fin 64) (valid : Bool) :
    State.KeepsOut s (execFvkRevoke ring valid s) := by
  unfold execFvkRevoke
  first | apply State.live_keeps | apply keepsOut_next
  repeat' first
    | (intro _)
    | with_reducible assumption
    | (extract_lets +onlyGivenNames x; first | clear_value x)
    | with_reducible exact State.Keeps.refl _
    | (with_reducible first | apply State.setFld_keeps | apply State.complete_keeps | apply State.serveRole_keeps | apply State.event_keeps)
    | with_reducible exact fun _ h => h
    | split

theorem State.eraseKeys_keeps {s0 s : State} (h : s0.Keeps s) :
    s0.Keeps (State.eraseKeys s) := by
  unfold State.eraseKeys
  repeat' first
    | (intro _)
    | with_reducible assumption
    | (with_reducible first | apply State.updKeys_keeps)
    | with_reducible exact fun _ h => h
    | split

theorem execSetLimited_keeps (s : State) (ring : Fin 64) :
    State.KeepsOut s (execSetLimited ring s) := by
  unfold execSetLimited
  first | apply State.live_keeps | apply State.liveOn_keeps | apply keepsOut_next
  repeat' first
    | (intro _)
    | with_reducible assumption
    | (extract_lets +onlyGivenNames x; first | (refine (fun hx => ?_ : State.Keeps s x → _) ?_; (on_goal 1 => clear_value x); (on_goal 2 => subst x)) | clear_value x)
    | with_reducible exact State.Keeps.refl _
    | (with_reducible first | apply State.serveRole_keeps | apply State.complete_keeps | apply State.setFld_keeps | apply State.event_keeps | apply State.setFlag_keeps | apply State.iff_keeps | apply State.eraseKeys_keeps | apply State.beginStart_keeps)
    | with_reducible exact fun _ h => h
    | split
    | (fail_if_no_progress beta_reduce)

theorem State.openUpdate_keeps {s0 s : State} (h : s0.Keeps s) (sess : Nat) (b : List Byte) (legal : Bool) (force : Bool) :
    s0.Keeps (State.openUpdate s sess b legal force).1 := by
  unfold State.openUpdate
  repeat' first
    | (intro _)
    | with_reducible assumption
    | (extract_lets +onlyGivenNames x; first | (refine (fun hx => ?_ : State.Keeps s0 x → _) ?_; (on_goal 1 => clear_value x); (on_goal 2 => subst x)) | (have y : State → _ → State × _ := x; clear y; subst x) | clear_value x)
    | (with_reducible first | apply State.setFld_keeps | apply State.setBank_keeps | apply State.updStatus_keeps | apply State.updKeys_keeps | apply State.event_keeps)
    | with_reducible exact fun _ h => h
    | split
    | (fail_if_no_progress beta_reduce)

theorem execUpdateOpen_keeps (s : State) (ring : Fin 64) :
    State.KeepsOut s (execUpdateOpen ring s) := by
  unfold execUpdateOpen
  first | apply State.live_keeps | apply State.liveOn_keeps | apply keepsOut_next
  repeat' first
    | (intro _)
    | with_reducible assumption
    | (extract_lets +onlyGivenNames x; first | (refine (fun hx => ?_ : State.Keeps s x → _) ?_; (on_goal 1 => clear_value x); (on_goal 2 => subst x)) | (refine (fun hx => ?_ : State.Keeps s x.1 → _) ?_; (on_goal 1 => clear_value x); (on_goal 2 => subst x)) | (refine (fun hx => ?_ : State.Keeps s x.2 → _) ?_; (on_goal 1 => clear_value x); (on_goal 2 => subst x)) | clear_value x)
    | with_reducible exact State.Keeps.refl _
    | (with_reducible first | apply State.serveRole_keeps | apply State.dmaFail_keeps | apply State.openUpdate_keeps | apply State.complete_keeps)
    | with_reducible exact fun _ h => h
    | split
    | (fail_if_no_progress beta_reduce)

theorem State.writeUpdate_keeps {s0 s : State} (h : s0.Keeps s) (off : Nat) (b : List Byte) :
    s0.Keeps (State.writeUpdate s off b).1 := by
  unfold State.writeUpdate
  repeat' first
    | (intro _)
    | with_reducible assumption
    | (extract_lets +onlyGivenNames x; first | clear_value x)
    | (with_reducible first | apply State.setFld_keeps | apply State.updKeys_keeps)
    | with_reducible exact fun _ h => h
    | split

theorem State.serveHolder_keeps {s0 s : State} (h : s0.Keeps s) (n : Nat) (op : Nat) (f : JSlot → State → State) (hf : ∀ z0 z1, s0.Keeps z1 → s0.Keeps (f z0 z1)) :
    s0.Keeps (State.serveHolder s n op f) := by
  unfold State.serveHolder
  repeat' first
    | (intro _)
    | with_reducible assumption
    | (extract_lets +onlyGivenNames x; first | (refine (fun hx => ?_ : State.Keeps s0 x → _) ?_; (on_goal 1 => clear_value x); (on_goal 2 => subst x)) | clear_value x)
    | (with_reducible first | apply hf | apply State.serve_keeps | apply State.touchRole_keeps | apply State.complete_keeps)
    | with_reducible exact fun _ h => h
    | split

theorem execUpdateWrite_keeps (s : State) (ring : Fin 64) :
    State.KeepsOut s (execUpdateWrite ring s) := by
  unfold execUpdateWrite
  first | apply State.live_keeps | apply State.liveOn_keeps | apply keepsOut_next
  repeat' first
    | (intro _)
    | with_reducible assumption
    | (extract_lets +onlyGivenNames x; first | (refine (fun hx => ?_ : State.Keeps s x → _) ?_; (on_goal 1 => clear_value x); (on_goal 2 => subst x)) | (refine (fun hx => ?_ : State.Keeps s x.1 → _) ?_; (on_goal 1 => clear_value x); (on_goal 2 => subst x)) | (refine (fun hx => ?_ : State.Keeps s x.2 → _) ?_; (on_goal 1 => clear_value x); (on_goal 2 => subst x)) | clear_value x)
    | with_reducible exact State.Keeps.refl _
    | (with_reducible first | apply State.serveHolder_keeps | apply State.dmaFail_keeps | apply State.writeUpdate_keeps | apply State.complete_keeps)
    | with_reducible exact fun _ h => h
    | split
    | (fail_if_no_progress beta_reduce)

theorem State.verifyUpdate_keeps {s0 s : State} (h : s0.Keeps s) :
    s0.Keeps (State.verifyUpdate s).1 := by
  unfold State.verifyUpdate
  repeat' first
    | (intro _)
    | with_reducible assumption
    | (extract_lets +onlyGivenNames x; first | clear_value x)
    | (with_reducible first | apply State.setFld_keeps | apply State.setBank_keeps | apply State.unlockBank_keeps | apply State.event_keeps)
    | with_reducible exact fun _ h => h
    | split

theorem execUpdateVerify_keeps (s : State) (ring : Fin 64) :
    State.KeepsOut s (execUpdateVerify ring s) := by
  unfold execUpdateVerify
  first | apply State.live_keeps | apply keepsOut_next
  repeat' first
    | (intro _)
    | with_reducible assumption
    | (extract_lets +onlyGivenNames x; first | (refine (fun hx => ?_ : State.Keeps s x.1 → _) ?_; (on_goal 1 => clear_value x); (on_goal 2 => subst x)) | clear_value x)
    | with_reducible exact State.Keeps.refl _
    | (with_reducible first | apply State.serveHolder_keeps | apply State.iff_keeps | apply State.complete_keeps | apply State.verifyUpdate_keeps | apply State.beginStart_keeps)
    | with_reducible exact fun _ h => h
    | split

theorem execUpdateAbort_keeps (s : State) (ring : Fin 64) :
    State.KeepsOut s (execUpdateAbort ring s) := by
  unfold execUpdateAbort
  first | apply State.live_keeps | apply keepsOut_next
  repeat' first
    | (intro _)
    | with_reducible assumption
    | (extract_lets +onlyGivenNames x; first | (refine (fun hx => ?_ : State.Keeps s x → _) ?_; (on_goal 1 => clear_value x); (on_goal 2 => subst x)) | clear_value x)
    | with_reducible exact State.Keeps.refl _
    | (with_reducible first | apply State.serve_keeps | apply State.touchRole_keeps | apply State.complete_keeps | apply State.dropUpdate_keeps)
    | with_reducible exact fun _ h => h
    | split

theorem State.confirmTrial_keeps {s0 s : State} (h : s0.Keeps s) :
    s0.Keeps (State.confirmTrial s) := by
  unfold State.confirmTrial
  repeat' first
    | (intro _)
    | with_reducible assumption
    | (extract_lets +onlyGivenNames x; first | (refine (fun hx => ?_ : State.Keeps s0 x → _) ?_; (on_goal 1 => clear_value x); (on_goal 2 => subst x)) | clear_value x)
    | (with_reducible first | apply State.setFlag_keeps | apply State.iff_keeps | apply State.setFld_keeps | apply State.updStatus_keeps | apply State.stopTimer_keeps | apply State.event_keeps)
    | with_reducible exact fun _ h => h
    | split

theorem State.markFailed_keeps {s0 s : State} (h : s0.Keeps s) :
    s0.Keeps (State.markFailed s) := by
  unfold State.markFailed
  repeat' first
    | (intro _)
    | with_reducible assumption
    | (extract_lets +onlyGivenNames x; first | (refine (fun hx => ?_ : State.Keeps s0 x → _) ?_; (on_goal 1 => clear_value x); (on_goal 2 => subst x)) | clear_value x)
    | (with_reducible first | apply State.setFlag_keeps | apply State.setFld_keeps | apply State.updStatus_keeps | apply State.stopTimer_keeps | apply State.event_keeps)
    | with_reducible exact fun _ h => h
    | split

theorem State.trialFail_keeps {s0 s : State} (h : s0.Keeps s) :
    s0.Keeps (State.trialFail s) := by
  unfold State.trialFail
  repeat' first
    | (intro _)
    | with_reducible assumption
    | (with_reducible first | apply State.deferStart_keeps | apply State.markFailed_keeps)
    | with_reducible exact fun _ h => h
    | split

theorem execUpdateConfirm_keeps (s : State) (ring : Fin 64) :
    State.KeepsOut s (execUpdateConfirm ring s) := by
  unfold execUpdateConfirm
  first | apply State.live_keeps | apply keepsOut_next
  repeat' first
    | (intro _)
    | with_reducible assumption
    | with_reducible exact State.Keeps.refl _
    | (with_reducible first | apply State.trialFail_keeps | apply State.setFld_keeps | apply State.complete_keeps | apply State.serveRole_keeps | apply State.confirmTrial_keeps)
    | with_reducible exact fun _ h => h
    | split

theorem execTrialConfirmTimer_keeps (s : State) :
    State.KeepsOut s (execTrialConfirmTimer s) := by
  unfold execTrialConfirmTimer
  first | apply State.live_keeps | apply keepsOut_next
  repeat' first
    | (intro _)
    | with_reducible assumption
    | with_reducible exact State.Keeps.refl _
    | (with_reducible first | apply State.trialFail_keeps | apply State.confirmTrial_keeps)
    | with_reducible exact fun _ h => h
    | split

theorem execActivate_keeps (s : State) (ring : Fin 64) :
    State.KeepsOut s (execActivate ring s) := by
  unfold execActivate
  first | apply State.live_keeps | apply State.liveOn_keeps | apply keepsOut_next
  repeat' first
    | (intro _)
    | with_reducible assumption
    | (extract_lets +onlyGivenNames x; first | (refine (fun hx => ?_ : State.Keeps s x → _) ?_; (on_goal 1 => clear_value x); (on_goal 2 => subst x)) | clear_value x)
    | with_reducible exact State.Keeps.refl _
    | (with_reducible first | apply State.serveRole_keeps | apply State.complete_keeps | apply State.iff_keeps | apply State.setFld_keeps | apply State.event_keeps | apply State.setFlag_keeps | apply State.updKeys_keeps | apply State.startTimer_keeps | apply State.ringsHold_keeps | apply State.updStatus_keeps)
    | with_reducible exact fun _ h => h
    | split
    | (fail_if_no_progress beta_reduce)

theorem State.cvuToLoad_keeps {s0 s : State} (h : s0.Keeps s) (u : Nat) :
    s0.Keeps (State.cvuToLoad s u) := by
  unfold State.cvuToLoad
  repeat' first
    | (intro _)
    | with_reducible assumption
    | (with_reducible first | apply State.stopTimer_keeps | apply State.setFlag_keeps | apply State.setFld_keeps)
    | with_reducible exact fun _ h => h
    | split

theorem State.pauseTick_keeps {s0 s : State} (h : s0.Keeps s) :
    s0.Keeps (State.pauseTick s) := by
  unfold State.pauseTick
  repeat' first
    | (intro _)
    | with_reducible assumption
    | (with_reducible first | apply State.iff_keeps | apply State.each_keeps | apply State.setFld_keeps | apply State.cvuToLoad_keeps)
    | with_reducible exact fun _ h => h
    | split

theorem State.pauseCut_keeps {s0 s : State} (h : s0.Keeps s) :
    s0.Keeps (State.pauseCut s) := by
  unfold State.pauseCut
  repeat' first
    | (intro _)
    | with_reducible assumption
    | (with_reducible first | apply State.setFlag_keeps | apply State.updStatus_keeps | apply State.stopTimer_keeps | apply State.updKeys_keeps)
    | with_reducible exact fun _ h => h
    | split

theorem State.pauseFail_keeps {s0 s : State} (h : s0.Keeps s) :
    s0.Keeps (State.pauseFail s) := by
  unfold State.pauseFail
  repeat' first
    | (intro _)
    | with_reducible assumption
    | (extract_lets +onlyGivenNames x; first | clear_value x)
    | (with_reducible first | apply State.setFld_keeps | apply State.beginStart_keeps | apply State.event_keeps)
    | with_reducible exact fun _ h => h
    | split

theorem execActivationFail_keeps (s : State) :
    State.KeepsOut s (execActivationFail s) := by
  unfold execActivationFail
  first | apply State.live_keeps | apply keepsOut_next
  repeat' first
    | (intro _)
    | with_reducible assumption
    | with_reducible exact State.Keeps.refl _
    | (with_reducible first | apply State.pauseFail_keeps)
    | with_reducible exact fun _ h => h
    | split

theorem execTlsHandshake_keeps (s : State) (out : Fin 8) (slot : BitVec 8) (hello : TlsHello) (ok : Bool) :
    State.KeepsOut s (execTlsHandshake out slot hello ok s) := by
  unfold execTlsHandshake
  first | apply State.live_keeps | apply State.liveOn_keeps | apply keepsOut_next
  repeat' first
    | (intro _)
    | with_reducible assumption
    | (extract_lets +onlyGivenNames x; first | (refine (fun hx => ?_ : State.Keeps s x → _) ?_; (on_goal 1 => clear_value x); (on_goal 2 => subst x)) | clear_value x)
    | with_reducible exact State.Keeps.refl _
    | (with_reducible first | apply State.tlsFailed_keeps | apply State.jobRefused_keeps | apply State.setFlag_keeps | apply State.updVh_keeps)
    | with_reducible exact fun _ h => h
    | split
    | (fail_if_no_progress beta_reduce)

end Sys2Proof.Machine
end

