-- ==== Sys2Proof/Laws/KeepsObjects.lean ====
section
/-!
SUPPORT. What every command keeps, for the operations and commands of Machine/Objects.lean.
-/

set_option linter.all false

namespace Sys2Proof.Machine

open Sys2Proof

theorem State.objRefused_keeps {s0 s : State} (h : s0.Keeps s) (n : Nat) (num : Nat) (role : Nat) :
    s0.Keeps (State.objRefused s n num role) := by
  unfold State.objRefused
  repeat' first
    | (intro _)
    | with_reducible assumption
    | (with_reducible first | apply State.complete_keeps | apply State.inc_keeps | apply State.event_keeps)
    | with_reducible exact fun _ h => h
    | split

theorem State.legalRefused_keeps {s0 s : State} (h : s0.Keeps s) (n : Nat) (num : Nat) (right : Bool) (left : Bool) :
    s0.Keeps (State.legalRefused s n num right left) := by
  unfold State.legalRefused
  repeat' first
    | (intro _)
    | with_reducible assumption
    | (extract_lets +onlyGivenNames x; first | (refine (fun hx => ?_ : State.Keeps s0 x → _) ?_; (on_goal 1 => clear_value x); (on_goal 2 => subst x)) | (refine (fun hx => ?_ : State.Keeps s0 x.2 → _) ?_; (on_goal 1 => clear_value x); (on_goal 2 => subst x)) | clear_value x)
    | (with_reducible first | apply State.draw_keeps | apply State.iff_keeps | apply State.complete_keeps | apply State.audit_keeps | apply State.inc_keeps | apply State.event_keeps)
    | with_reducible exact fun _ h => h
    | split

theorem execGet_keeps (s : State) (ring : Fin 64) :
    State.KeepsOut s (execGet ring s) := by
  unfold execGet
  first | apply State.live_keeps | apply State.liveOn_keeps | apply keepsOut_next
  repeat' first
    | (intro _)
    | with_reducible assumption
    | (extract_lets +onlyGivenNames x; first | (refine (fun hx => ?_ : State.Keeps s x → _) ?_; (on_goal 1 => clear_value x); (on_goal 2 => subst x)) | clear_value x)
    | with_reducible exact State.Keeps.refl _
    | (with_reducible first | apply State.serve_keeps | apply State.touchRole_keeps | apply State.complete_keeps | apply State.objRefused_keeps | apply State.iff_keeps | apply State.updChan_keeps | apply State.completeData_keeps)
    | with_reducible exact fun _ h => h
    | split
    | (fail_if_no_progress beta_reduce)

theorem State.takeCalendar_keeps {s0 s : State} (h : s0.Keeps s) (c : Cal) (act : Nat) :
    s0.Keeps (State.takeCalendar s c act) := by
  unfold State.takeCalendar
  repeat' first
    | (intro _)
    | with_reducible assumption
    | (extract_lets +onlyGivenNames x; first | clear_value x)
    | (with_reducible first | apply State.updLeg_keeps | apply State.event_keeps)
    | with_reducible exact fun _ h => h
    | split

theorem State.takeCalib_keeps {s0 s : State} (h : s0.Keeps s) (b : Nat) (c : CalSet) :
    s0.Keeps (State.takeCalib s b c) := by
  unfold State.takeCalib
  repeat' first
    | (intro _)
    | with_reducible assumption
    | (extract_lets +onlyGivenNames x; first | (refine (fun hx => ?_ : State.Keeps s0 x → _) ?_; (on_goal 1 => clear_value x); (on_goal 2 => subst x)) | clear_value x)
    | (with_reducible first | apply State.setFlag_keeps | apply State.updMo_keeps | apply State.setFld_keeps | apply State.audit_keeps)
    | with_reducible exact fun _ h => h
    | split

theorem execSet_keeps (s : State) (ring : Fin 64) (value : ObjValue) :
    State.KeepsOut s (execSet ring value s) := by
  unfold execSet
  first | apply State.live_keeps | apply State.liveOn_keeps | apply keepsOut_next
  repeat' first
    | (intro _)
    | with_reducible assumption
    | (extract_lets +onlyGivenNames x; first | (refine (fun hx => ?_ : State.Keeps s x → _) ?_; (on_goal 1 => clear_value x); (on_goal 2 => subst x)) | clear_value x)
    | with_reducible exact State.Keeps.refl _
    | (with_reducible first | apply State.serve_keeps | apply State.touchRole_keeps | apply State.complete_keeps | apply State.legalRefused_keeps | apply State.takeCalib_keeps | apply State.objRefused_keeps | apply State.takeCalendar_keeps | apply State.setFlag_keeps | apply State.updLeg_keeps)
    | with_reducible exact fun _ h => h
    | split
    | (fail_if_no_progress beta_reduce)

theorem State.takeTime_keeps {s0 s : State} (h : s0.Keeps s) (n : Nat) (num : Nat) (tai : Nat) (ofs : Int) :
    s0.Keeps (State.takeTime s n num tai ofs) := by
  unfold State.takeTime
  repeat' first
    | (intro _)
    | with_reducible assumption
    | (with_reducible first | apply State.updTim_keeps | apply State.complete_keeps | apply State.event_keeps)
    | with_reducible exact fun _ h => h
    | split

theorem execSetTime_keeps (s : State) (ring : Fin 64) :
    State.KeepsOut s (execSetTime ring s) := by
  unfold execSetTime
  first | apply State.live_keeps | apply State.liveOn_keeps | apply keepsOut_next
  repeat' first
    | (intro _)
    | with_reducible assumption
    | with_reducible exact State.Keeps.refl _
    | (with_reducible first | apply State.serveRole_keeps | apply State.complete_keeps | apply State.iff_keeps | apply State.event_keeps | apply State.takeTime_keeps)
    | with_reducible exact fun _ h => h
    | split

theorem State.dropSlew_keeps {s0 s : State} (h : s0.Keeps s) :
    s0.Keeps (State.dropSlew s) := by
  unfold State.dropSlew
  repeat' first
    | (intro _)
    | with_reducible assumption
    | (extract_lets +onlyGivenNames x; first | (refine (fun hx => ?_ : State.Keeps s0 x → _) ?_; (on_goal 1 => clear_value x); (on_goal 2 => subst x)) | clear_value x)
    | (with_reducible first | apply State.updTim_keeps | apply State.iff_keeps | apply State.fixNext_keeps | apply State.event_keeps | apply State.setFlag_keeps)
    | with_reducible exact fun _ h => h
    | split
    | (fail_if_no_progress beta_reduce)

theorem execCorrectionApply_keeps (s : State) :
    State.KeepsOut s (execCorrectionApply s) := by
  unfold execCorrectionApply
  first | apply State.live_keeps | apply State.liveOn_keeps | apply keepsOut_next
  repeat' first
    | (intro _)
    | with_reducible assumption
    | (extract_lets +onlyGivenNames x; first | (refine (fun hx => ?_ : State.Keeps s x → _) ?_; (on_goal 1 => clear_value x); (on_goal 2 => subst x)) | clear_value x)
    | with_reducible exact State.Keeps.refl _
    | (with_reducible first | apply State.updTim_keeps | apply State.dropSlew_keeps | apply State.applyCorr_keeps | apply State.complete_keeps | apply State.fixNext_keeps | apply State.setClk_keeps | apply State.setFldS_keeps | apply State.iff_keeps | apply State.legStep_keeps)
    | with_reducible exact fun _ h => h
    | split
    | (fail_if_no_progress beta_reduce)

theorem execLeapSecondApply_keeps (s : State) :
    State.KeepsOut s (execLeapSecondApply s) := by
  unfold execLeapSecondApply
  first | apply State.live_keeps | apply State.liveOn_keeps | apply keepsOut_next
  repeat' first
    | (intro _)
    | with_reducible assumption
    | (extract_lets +onlyGivenNames x; first | (refine (fun hx => ?_ : State.Keeps s x → _) ?_; (on_goal 1 => clear_value x); (on_goal 2 => subst x)) | clear_value x)
    | with_reducible exact State.Keeps.refl _
    | (with_reducible first | apply State.applyLeap_keeps | apply State.updLeg_keeps)
    | with_reducible exact fun _ h => h
    | split
    | (fail_if_no_progress beta_reduce)

theorem State.legalActivate_keeps {s0 s : State} (h : s0.Keeps s) (n : Nat) (num : Nat) (right : Bool) :
    s0.Keeps (State.legalActivate s n num right) := by
  unfold State.legalActivate
  repeat' first
    | (intro _)
    | with_reducible assumption
    | (extract_lets +onlyGivenNames x; first | (refine (fun hx => ?_ : State.Keeps s0 x → _) ?_; (on_goal 1 => clear_value x); (on_goal 2 => subst x)) | clear_value x)
    | (with_reducible first | apply State.setFlag_keeps | apply State.iff_keeps | apply State.setFld_keeps | apply State.complete_keeps | apply State.legalRefused_keeps | apply State.startTimer_keeps | apply State.audit_keeps | apply State.beginStart_keeps)
    | with_reducible exact fun _ h => h
    | split

theorem State.transferAct_keeps {s0 s : State} (h : s0.Keeps s) (n : Nat) (q : JSlot) (arg : ActArg) (right : Bool) :
    s0.Keeps (State.transferAct s n q arg right) := by
  unfold State.transferAct
  repeat' first
    | (intro _)
    | with_reducible assumption
    | (extract_lets +onlyGivenNames x; first | (refine (fun hx => ?_ : State.Keeps s0 x.1 → _) ?_; (on_goal 1 => clear_value x); (on_goal 2 => subst x)) | clear_value x)
    | (with_reducible first | apply State.complete_keeps | apply State.openUpdate_keeps | apply State.verifyUpdate_keeps | apply State.legalActivate_keeps | apply State.writeUpdate_keeps)
    | with_reducible exact fun _ h => h
    | split

theorem execAction_keeps (s : State) (ring : Fin 64) (arg : ActArg) :
    State.KeepsOut s (execAction ring arg s) := by
  unfold execAction
  first | apply State.live_keeps | apply keepsOut_next
  repeat' first
    | (intro _)
    | with_reducible assumption
    | (extract_lets +onlyGivenNames x; first | (refine (fun hx => ?_ : State.Keeps s x → _) ?_; (on_goal 1 => clear_value x); (on_goal 2 => subst x)) | clear_value x)
    | with_reducible exact State.Keeps.refl _
    | (with_reducible first | apply State.serve_keeps | apply State.touchRole_keeps | apply State.updLeg_keeps | apply State.complete_keeps | apply State.transferAct_keeps | apply State.takeTime_keeps | apply State.objRefused_keeps | apply State.closePeriod_keeps)
    | with_reducible exact fun _ h => h
    | split

theorem State.settleConf_keeps {s0 s : State} (h : s0.Keeps s) (why : Nat) :
    s0.Keeps (State.settleConf s why) := by
  unfold State.settleConf
  repeat' first
    | (intro _)
    | with_reducible assumption
    | (with_reducible first | apply State.complete_keeps | apply State.updIsl_keeps)
    | with_reducible exact fun _ h => h
    | split

theorem execSafetyCandidate_keeps (s : State) (ring : Fin 64) :
    State.KeepsOut s (execSafetyCandidate ring s) := by
  unfold execSafetyCandidate
  first | apply State.live_keeps | apply State.liveOn_keeps | apply keepsOut_next
  repeat' first
    | (intro _)
    | with_reducible assumption
    | (extract_lets +onlyGivenNames x; first | (refine (fun hx => ?_ : State.Keeps s x → _) ?_; (on_goal 1 => clear_value x); (on_goal 2 => subst x)) | clear_value x)
    | with_reducible exact State.Keeps.refl _
    | (with_reducible first | apply State.serveRole_keeps | apply State.complete_keeps | apply State.dmaFail_keeps | apply State.takeCandidate_keeps | apply State.settleConf_keeps)
    | with_reducible exact fun _ h => h
    | split
    | (fail_if_no_progress beta_reduce)

theorem execSafetyConfirm_keeps (s : State) (ring : Fin 64) :
    State.KeepsOut s (execSafetyConfirm ring s) := by
  unfold execSafetyConfirm
  first | apply State.live_keeps | apply keepsOut_next
  repeat' first
    | (intro _)
    | with_reducible assumption
    | (extract_lets +onlyGivenNames x; first | (refine (fun hx => ?_ : State.Keeps s x → _) ?_; (on_goal 1 => clear_value x); (on_goal 2 => subst x)) | clear_value x)
    | with_reducible exact State.Keeps.refl _
    | (with_reducible first | apply State.hostConfirm_keeps | apply State.complete_keeps | apply State.serveRole_keeps | apply State.updIsl_keeps)
    | with_reducible exact fun _ h => h
    | split

theorem execConfirmWindowExpiry_keeps (s : State) :
    State.KeepsOut s (execConfirmWindowExpiry s) := by
  unfold execConfirmWindowExpiry
  first | apply State.live_keeps | apply keepsOut_next
  repeat' first
    | (intro _)
    | with_reducible assumption
    | with_reducible exact State.Keeps.refl _
    | (with_reducible first | apply State.dropCand_keeps | apply State.settleConf_keeps)
    | with_reducible exact fun _ h => h
    | split

theorem State.acknowledgeCand_keeps {s0 s : State} (h : s0.Keeps s) :
    s0.Keeps (State.acknowledgeCand s) := by
  unfold State.acknowledgeCand
  repeat' first
    | (intro _)
    | with_reducible assumption
    | (extract_lets +onlyGivenNames x; first | (refine (fun hx => ?_ : State.Keeps s0 x → _) ?_; (on_goal 1 => clear_value x); (on_goal 2 => subst x)) | clear_value x)
    | (with_reducible first | apply State.ackCandidate_keeps | apply State.settleConf_keeps)
    | with_reducible exact fun _ h => h
    | split

theorem State.candTick_keeps {s0 s : State} (h : s0.Keeps s) :
    s0.Keeps (State.candTick s) := by
  unfold State.candTick
  repeat' first
    | (intro _)
    | with_reducible assumption
    | (extract_lets +onlyGivenNames x; first | (refine (fun hx => ?_ : State.Keeps s0 x → _) ?_; (on_goal 1 => clear_value x); (on_goal 2 => subst x)) | clear_value x)
    | (with_reducible first | apply State.dropCand_keeps | apply State.iff_keeps | apply State.settleConf_keeps)
    | with_reducible exact fun _ h => h
    | split

theorem execSafetyReset_keeps (s : State) (ring : Fin 64) :
    State.KeepsOut s (execSafetyReset ring s) := by
  unfold execSafetyReset
  first | apply State.live_keeps | apply keepsOut_next
  repeat' first
    | (intro _)
    | with_reducible assumption
    | with_reducible exact State.Keeps.refl _
    | (with_reducible first | apply State.complete_keeps | apply State.serveRole_keeps | apply State.hostReset_keeps)
    | with_reducible exact fun _ h => h
    | split

end Sys2Proof.Machine
end

