-- ==== Sys2Proof/Laws/KeepsKeypad.lean ====
section
/-!
SUPPORT. What every command keeps, for the operations and commands of Machine/Keypad.lean.
-/

set_option linter.all false

namespace Sys2Proof.Machine

open Sys2Proof

theorem State.pd8On_keeps {s0 s : State} (h : s0.Keeps s) :
    s0.Keeps (State.pd8On s) := by
  unfold State.pd8On
  repeat' first
    | (intro _)
    | with_reducible assumption
    | (with_reducible first | apply State.pdSet_keeps)
    | with_reducible exact fun _ h => h
    | split

theorem State.pd8Off_keeps {s0 s : State} (h : s0.Keeps s) :
    s0.Keeps (State.pd8Off s) := by
  unfold State.pd8Off
  repeat' first
    | (intro _)
    | with_reducible assumption
    | (with_reducible first | apply State.startTimer_keeps | apply State.pdSet_keeps | apply State.stopTimer_keeps)
    | with_reducible exact fun _ h => h
    | split

theorem State.pd8Tick_keeps {s0 s : State} (h : s0.Keeps s) :
    s0.Keeps (State.pd8Tick s) := by
  unfold State.pd8Tick
  repeat' first
    | (intro _)
    | with_reducible assumption
    | (extract_lets +onlyGivenNames x; first | (refine (fun hx => ?_ : State.Keeps s0 x → _) ?_; (on_goal 1 => clear_value x); (on_goal 2 => subst x)) | clear_value x)
    | (with_reducible first | apply State.pd8Off_keeps | apply State.updPnl_keeps | apply State.iff_keeps | apply State.startTimer_keeps | apply State.stopTimer_keeps | apply State.pd8On_keeps)
    | with_reducible exact fun _ h => h
    | split
    | (fail_if_no_progress beta_reduce)

theorem execPd8IdleOff_keeps (s : State) :
    State.KeepsOut s (execPd8IdleOff s) := by
  unfold execPd8IdleOff
  first | apply State.live_keeps | apply State.liveOn_keeps | apply keepsOut_next
  repeat' first
    | (intro _)
    | with_reducible assumption
    | with_reducible exact State.Keeps.refl _
    | (with_reducible first | apply State.pd8Off_keeps)
    | with_reducible exact fun _ h => h
    | split

theorem execPanelTempWake_keeps (s : State) (temps : List (Option Int)) :
    State.KeepsOut s (execPanelTempWake temps s) := by
  unfold execPanelTempWake
  first | apply State.live_keeps | apply State.liveOn_keeps | apply keepsOut_next
  repeat' first
    | (intro _)
    | with_reducible assumption
    | (extract_lets +onlyGivenNames x; first | (refine (fun hx => ?_ : State.Keeps s x → _) ?_; (on_goal 1 => clear_value x); (on_goal 2 => subst x)) | clear_value x)
    | with_reducible exact State.Keeps.refl _
    | (with_reducible first | apply State.iff_keeps | apply State.pd8On_keeps | apply State.updPnl_keeps | apply State.each_keeps | apply State.startTimer_keeps | apply State.takeTemp_keeps)
    | with_reducible exact fun _ h => h
    | split
    | (fail_if_no_progress beta_reduce)

theorem execKeypadWake_keeps (s : State) :
    State.KeepsOut s (execKeypadWake s) := by
  unfold execKeypadWake
  first | apply State.live_keeps | apply keepsOut_next
  repeat' first
    | (intro _)
    | with_reducible assumption
    | with_reducible exact State.Keeps.refl _
    | (with_reducible first | apply State.pd8On_keeps)
    | with_reducible exact fun _ h => h
    | split

theorem execPanelUpdateRequest_keeps (s : State) (panel : Fin 2) (a1 : Nat) (y : Nat) (w : Nat) (a4 : Nat) (mode : Fin 3) (img : List Nat) :
    State.KeepsOut s (execPanelUpdateRequest panel a1 y w a4 mode img s) := by
  unfold execPanelUpdateRequest
  first | apply State.live_keeps | apply keepsOut_next
  repeat' first
    | (intro _)
    | with_reducible assumption
    | (extract_lets +onlyGivenNames x; first | clear_value x)
    | with_reducible exact State.Keeps.refl _
    | (with_reducible first | apply State.pnQueue_keeps | apply State.pd8On_keeps | apply State.event_keeps)
    | with_reducible exact fun _ h => h
    | split

theorem State.drawPage_keeps {s0 s : State} (h : s0.Keeps s) :
    s0.Keeps (State.drawPage s) := by
  unfold State.drawPage
  repeat' first
    | (intro _)
    | with_reducible assumption
    | (extract_lets +onlyGivenNames x; first | (refine (fun hx => ?_ : State.Keeps s0 x → _) ?_; (on_goal 1 => clear_value x); (on_goal 2 => subst x)) | clear_value x)
    | (with_reducible first | apply State.pnQueue_keeps | apply State.pd8On_keeps | apply State.updPnl_keeps)
    | with_reducible exact fun _ h => h
    | split
    | (fail_if_no_progress beta_reduce)

theorem execStripRedraw_keeps (s : State) :
    State.KeepsOut s (execStripRedraw s) := by
  unfold execStripRedraw
  first | apply State.live_keeps | apply State.liveOn_keeps | apply keepsOut_next
  repeat' first
    | (intro _)
    | with_reducible assumption
    | (extract_lets +onlyGivenNames x; first | (refine (fun hx => ?_ : State.Keeps s x → _) ?_; (on_goal 1 => clear_value x); (on_goal 2 => subst x)) | (refine (fun hx => ?_ : State.Keeps s x.1 → _) ?_; (on_goal 1 => clear_value x); (on_goal 2 => subst x)) | (refine (fun hx => ?_ : State.Keeps s x.2 → _) ?_; (on_goal 1 => clear_value x); (on_goal 2 => subst x)) | clear_value x)
    | with_reducible exact State.Keeps.refl _
    | (with_reducible first | apply State.startTimer_keeps | apply State.updPnl_keeps | apply State.drawPage_keeps | apply State.pnQueue_keeps | apply State.pd8On_keeps)
    | with_reducible exact fun _ h => h
    | split
    | (fail_if_no_progress beta_reduce)

theorem State.selectPage_keeps {s0 s : State} (h : s0.Keeps s) (k : Nat) :
    s0.Keeps (State.selectPage s k) := by
  unfold State.selectPage
  repeat' first
    | (intro _)
    | with_reducible assumption
    | (with_reducible first | apply State.drawPage_keeps | apply State.startTimer_keeps | apply State.setFld_keeps)
    | with_reducible exact fun _ h => h
    | split

theorem execPageTimeout_keeps (s : State) :
    State.KeepsOut s (execPageTimeout s) := by
  unfold execPageTimeout
  first | apply State.live_keeps | apply State.liveOn_keeps | apply keepsOut_next
  repeat' first
    | (intro _)
    | with_reducible assumption
    | with_reducible exact State.Keeps.refl _
    | (with_reducible first | apply State.drawPage_keeps | apply State.setFld_keeps | apply State.stopTimer_keeps)
    | with_reducible exact fun _ h => h
    | split

theorem execLegalLineRedraw_keeps (s : State) (line : Fin 4) :
    State.KeepsOut s (execLegalLineRedraw line s) := by
  unfold execLegalLineRedraw
  first | apply State.live_keeps | apply State.liveOn_keeps | apply keepsOut_next
  repeat' first
    | (intro _)
    | with_reducible assumption
    | (extract_lets +onlyGivenNames x; first | (refine (fun hx => ?_ : State.Keeps s x → _) ?_; (on_goal 1 => clear_value x); (on_goal 2 => subst x)) | clear_value x)
    | with_reducible exact State.Keeps.refl _
    | (with_reducible first | apply State.startTimer_keeps | apply State.updPnl_keeps | apply State.pnQueue_keeps | apply State.pd8On_keeps)
    | with_reducible exact fun _ h => h
    | split
    | (fail_if_no_progress beta_reduce)

theorem execKeyAccepted_keeps (s : State) (code : Fin 16) (pressed : Nat) :
    State.KeepsOut s (execKeyAccepted code pressed s) := by
  unfold execKeyAccepted
  first | apply State.live_keeps | apply State.liveOn_keeps | apply keepsOut_next
  repeat' first
    | (intro _)
    | with_reducible assumption
    | with_reducible exact State.Keeps.refl _
    | (with_reducible first | apply State.updPnl_keeps | apply State.event_keeps | apply State.inc_keeps | apply State.setFld_keeps)
    | with_reducible exact fun _ h => h
    | split

theorem execKeyReleased_keeps (s : State) (allOpen : Bool) :
    State.KeepsOut s (execKeyReleased allOpen s) := by
  unfold execKeyReleased
  first | apply State.live_keeps | apply keepsOut_next
  repeat' first
    | (intro _)
    | with_reducible assumption
    | with_reducible exact State.Keeps.refl _
    | (with_reducible first | apply State.updPnl_keeps)
    | with_reducible exact fun _ h => h
    | split

theorem State.keyRead_keeps {s0 s : State} (h : s0.Keeps s) :
    s0.Keeps (State.keyRead s) := by
  unfold State.keyRead
  repeat' first
    | (intro _)
    | with_reducible assumption
    | (with_reducible first | apply State.iff_keeps | apply State.updPnl_keeps | apply State.startTimer_keeps)
    | with_reducible exact fun _ h => h
    | split

theorem State.dropB_keeps {s0 s : State} (h : s0.Keeps s) :
    s0.Keeps (State.dropB s) := by
  unfold State.dropB
  repeat' first
    | (intro _)
    | with_reducible assumption
    | (with_reducible first | apply State.each_keeps | apply State.updPnl_keeps | apply State.keyRead_keeps)
    | with_reducible exact fun _ h => h
    | split

theorem State.takeKey_keeps {s0 s : State} (h : s0.Keeps s) (ks : List Nat) (f : Nat → State → State) (hf : ∀ z0 z1, s0.Keeps z1 → s0.Keeps (f z0 z1)) :
    s0.Keeps (State.takeKey s ks f) := by
  unfold State.takeKey
  repeat' first
    | (intro _)
    | with_reducible assumption
    | (extract_lets +onlyGivenNames x; first | (refine (fun hx => ?_ : State.Keeps s0 x → _) ?_; (on_goal 1 => clear_value x); (on_goal 2 => subst x)) | clear_value x)
    | (with_reducible first | apply hf | apply State.dropB_keeps | apply State.keyRead_keeps)
    | with_reducible exact fun _ h => h
    | split
    | (fail_if_no_progress beta_reduce)

theorem State.prompt_keeps {s0 s : State} (h : s0.Keeps s) (a1 : Nat) (v : Nat) :
    s0.Keeps (State.prompt s a1 v) := by
  unfold State.prompt
  repeat' first
    | (intro _)
    | with_reducible assumption
    | (with_reducible first | apply State.startTimer_keeps | apply State.updPnl_keeps)
    | with_reducible exact fun _ h => h
    | split

theorem State.endEntry_keeps {s0 s : State} (h : s0.Keeps s) (st : Nat) :
    s0.Keeps (State.endEntry s st) := by
  unfold State.endEntry
  repeat' first
    | (intro _)
    | with_reducible assumption
    | (with_reducible first | apply State.setFld_keeps | apply State.updPnl_keeps | apply State.stopTimer_keeps)
    | with_reducible exact fun _ h => h
    | split

theorem execKeyA_keeps (s : State) :
    State.KeepsOut s (execKeyA s) := by
  unfold execKeyA
  first | apply State.live_keeps | apply keepsOut_next
  repeat' first
    | (intro _)
    | with_reducible assumption
    | (extract_lets +onlyGivenNames x; first | (refine (fun hx => ?_ : State.Keeps s x → _) ?_; (on_goal 1 => clear_value x); (on_goal 2 => subst x)) | clear_value x)
    | with_reducible exact State.Keeps.refl _
    | (with_reducible first | apply State.prompt_keeps | apply State.setFld_keeps | apply State.takeKey_keeps | apply State.startTimer_keeps | apply State.endEntry_keeps | apply State.updPnl_keeps)
    | with_reducible exact fun _ h => h
    | split

theorem execKeyDigit_keeps (s : State) :
    State.KeepsOut s (execKeyDigit s) := by
  unfold execKeyDigit
  first | apply State.live_keeps | apply State.liveOn_keeps | apply keepsOut_next
  repeat' first
    | (intro _)
    | with_reducible assumption
    | (extract_lets +onlyGivenNames x; first | (refine (fun hx => ?_ : State.Keeps s x → _) ?_; (on_goal 1 => clear_value x); (on_goal 2 => subst x)) | clear_value x)
    | with_reducible exact State.Keeps.refl _
    | (with_reducible first | apply State.takeKey_keeps | apply State.setFld_keeps | apply State.prompt_keeps | apply State.updPnl_keeps | apply State.iff_keeps | apply State.selectPage_keeps)
    | with_reducible exact fun _ h => h
    | split
    | (fail_if_no_progress beta_reduce)

theorem execKeyStar_keeps (s : State) :
    State.KeepsOut s (execKeyStar s) := by
  unfold execKeyStar
  first | apply State.live_keeps | apply State.liveOn_keeps | apply keepsOut_next
  repeat' first
    | (intro _)
    | with_reducible assumption
    | (extract_lets +onlyGivenNames x; first | (refine (fun hx => ?_ : State.Keeps s x → _) ?_; (on_goal 1 => clear_value x); (on_goal 2 => subst x)) | clear_value x)
    | with_reducible exact State.Keeps.refl _
    | (with_reducible first | apply State.takeKey_keeps | apply State.updPnl_keeps | apply State.setFld_keeps)
    | with_reducible exact fun _ h => h
    | split
    | (fail_if_no_progress beta_reduce)

theorem execKeyHash_keeps (s : State) :
    State.KeepsOut s (execKeyHash s) := by
  unfold execKeyHash
  first | apply State.live_keeps | apply State.liveOn_keeps | apply keepsOut_next
  repeat' first
    | (intro _)
    | with_reducible assumption
    | (extract_lets +onlyGivenNames x; first | (refine (fun hx => ?_ : State.Keeps s x → _) ?_; (on_goal 1 => clear_value x); (on_goal 2 => subst x)) | clear_value x)
    | with_reducible exact State.Keeps.refl _
    | (with_reducible first | apply State.takeKey_keeps | apply State.tokValidate_keeps | apply State.endEntry_keeps | apply State.event_keeps | apply State.prompt_keeps | apply State.updPnl_keeps)
    | with_reducible exact fun _ h => h
    | split
    | (fail_if_no_progress beta_reduce)

theorem State.restTick_keeps {s0 s : State} (h : s0.Keeps s) :
    s0.Keeps (State.restTick s) := by
  unfold State.restTick
  repeat' first
    | (intro _)
    | with_reducible assumption
    | (extract_lets +onlyGivenNames x; first | (refine (fun hx => ?_ : State.Keeps s0 x → _) ?_; (on_goal 1 => clear_value x); (on_goal 2 => subst x)) | clear_value x)
    | (with_reducible first | apply State.iff_keeps | apply State.updPnl_keeps | apply State.stopTimer_keeps | apply State.setFld_keeps | apply State.pnQueue_keeps | apply State.pd8On_keeps)
    | with_reducible exact fun _ h => h
    | split
    | (fail_if_no_progress beta_reduce)

theorem State.cancelEntry_keeps {s0 s : State} (h : s0.Keeps s) :
    s0.Keeps (State.cancelEntry s) := by
  unfold State.cancelEntry
  repeat' first
    | (intro _)
    | with_reducible assumption
    | (with_reducible first | apply State.prompt_keeps | apply State.endEntry_keeps | apply State.event_keeps)
    | with_reducible exact fun _ h => h
    | split

theorem execKeyC_keeps (s : State) :
    State.KeepsOut s (execKeyC s) := by
  unfold execKeyC
  first | apply State.live_keeps | apply keepsOut_next
  repeat' first
    | (intro _)
    | with_reducible assumption
    | with_reducible exact State.Keeps.refl _
    | (with_reducible first | apply State.takeKey_keeps | apply State.updPnl_keeps | apply State.cancelEntry_keeps)
    | with_reducible exact fun _ h => h
    | split

theorem execKeyTimeout_keeps (s : State) :
    State.KeepsOut s (execKeyTimeout s) := by
  unfold execKeyTimeout
  first | apply State.live_keeps | apply keepsOut_next
  repeat' first
    | (intro _)
    | with_reducible assumption
    | with_reducible exact State.Keeps.refl _
    | (with_reducible first | apply State.stopTimer_keeps | apply State.cancelEntry_keeps)
    | with_reducible exact fun _ h => h
    | split

theorem State.showChk_keeps {s0 s : State} (h : s0.Keeps s) :
    s0.Keeps (State.showChk s) := by
  unfold State.showChk
  repeat' first
    | (intro _)
    | with_reducible assumption
    | (extract_lets +onlyGivenNames x; first | (refine (fun hx => ?_ : State.Keeps s0 x → _) ?_; (on_goal 1 => clear_value x); (on_goal 2 => subst x)) | clear_value x)
    | (with_reducible first | apply State.startTimer_keeps | apply State.updPnl_keeps | apply State.each_keeps | apply State.stopTimer_keeps | apply State.pnQueue_keeps | apply State.pd8On_keeps)
    | with_reducible exact fun _ h => h
    | split
    | (fail_if_no_progress beta_reduce)

theorem State.chkTick_keeps {s0 s : State} (h : s0.Keeps s) :
    s0.Keeps (State.chkTick s) := by
  unfold State.chkTick
  repeat' first
    | (intro _)
    | with_reducible assumption
    | (extract_lets +onlyGivenNames x; first | (refine (fun hx => ?_ : State.Keeps s0 x → _) ?_; (on_goal 1 => clear_value x); (on_goal 2 => subst x)) | clear_value x)
    | (with_reducible first | apply State.iff_keeps | apply State.updPnl_keeps | apply State.stopTimer_keeps | apply State.pnQueue_keeps | apply State.pd8On_keeps)
    | with_reducible exact fun _ h => h
    | split
    | (fail_if_no_progress beta_reduce)

theorem execKeyD_keeps (s : State) :
    State.KeepsOut s (execKeyD s) := by
  unfold execKeyD
  first | apply State.live_keeps | apply State.liveOn_keeps | apply keepsOut_next
  repeat' first
    | (intro _)
    | with_reducible assumption
    | with_reducible exact State.Keeps.refl _
    | (with_reducible first | apply State.takeKey_keeps | apply State.showChk_keeps)
    | with_reducible exact fun _ h => h
    | split

end Sys2Proof.Machine
end

