-- ==== Sys2Proof/Laws/KeepsContactless.lean ====
section
/-!
SUPPORT. What every command keeps, for the operations and commands of Machine/Contactless.lean.
-/

set_option linter.all false

namespace Sys2Proof.Machine

open Sys2Proof

theorem State.updPort_keeps {s0 s : State} (h : s0.Keeps s) (n : Nat) (f : NfcPort → NfcPort) :
    s0.Keeps (State.updPort s n f) := by
  unfold State.updPort
  repeat' first
    | (intro _)
    | with_reducible assumption
    | split
    | (with_reducible apply State.mk_keeps; (rotate_left); all_goals first | with_reducible rfl | exact upd_length _ _ _ | exact List.length_map _ | skip)
    | with_reducible exact fun _ h => h
    | split

theorem State.cardApplied_keeps {s0 s : State} (h : s0.Keeps s) (n : Nat) (uid : List Byte) :
    s0.Keeps (State.cardApplied s n uid) := by
  unfold State.cardApplied
  repeat' first
    | (intro _)
    | with_reducible assumption
    | (extract_lets +onlyGivenNames x; first | (refine (fun hx => ?_ : State.Keeps s0 x → _) ?_; (on_goal 1 => clear_value x); (on_goal 2 => subst x)) | clear_value x)
    | (with_reducible first | apply State.startTimer_keeps | apply State.stopTimer_keeps | apply State.updPort_keeps | apply State.postAuth_keeps | apply State.event_keeps | apply State.setFld_keeps | apply State.prompt_keeps)
    | with_reducible exact fun _ h => h
    | split
    | (fail_if_no_progress beta_reduce)

theorem State.showCard_keeps {s0 s : State} (h : s0.Keeps s) (n : Nat) (c : Card) :
    s0.Keeps (State.showCard s n c) := by
  unfold State.showCard
  repeat' first
    | (intro _)
    | with_reducible assumption
    | (extract_lets +onlyGivenNames x; first | (refine (fun hx => ?_ : State.Keeps s0 x → _) ?_; (on_goal 1 => clear_value x); (on_goal 2 => subst x)) | clear_value x)
    | (with_reducible first | apply State.setFld_keeps)
    | with_reducible exact fun _ h => h
    | split

theorem State.pollResult_keeps {s0 s : State} (h : s0.Keeps s) (n : Nat) (bad : Bool) (cs : List Card) :
    s0.Keeps (State.pollResult s n bad cs) := by
  unfold State.pollResult
  repeat' first
    | (intro _)
    | with_reducible assumption
    | (extract_lets +onlyGivenNames x; first | (refine (fun hx => ?_ : State.Keeps s0 x → _) ?_; (on_goal 1 => clear_value x); (on_goal 2 => subst x)) | clear_value x)
    | (with_reducible first | apply State.updPort_keeps | apply State.inc_keeps | apply State.showCard_keeps | apply State.event_keeps | apply State.prompt_keeps | apply State.cardApplied_keeps)
    | with_reducible exact fun _ h => h
    | split
    | (fail_if_no_progress beta_reduce)

theorem execPollCycle_keeps (s : State) (port : Fin 4) (iant : BitVec 16) (bad : Bool) (cards : List Card) :
    State.KeepsOut s (execPollCycle port iant bad cards s) := by
  unfold execPollCycle
  first | apply State.live_keeps | apply State.liveOn_keeps | apply keepsOut_next
  repeat' first
    | (intro _)
    | with_reducible assumption
    | (extract_lets +onlyGivenNames x; first | (refine (fun hx => ?_ : State.Keeps s x → _) ?_; (on_goal 1 => clear_value x); (on_goal 2 => subst x)) | clear_value x)
    | with_reducible exact State.Keeps.refl _
    | (with_reducible first | apply State.iff_keeps | apply State.portShow_keeps | apply State.setFld_keeps | apply State.startTimer_keeps | apply State.updPort_keeps | apply State.setSat_keeps | apply State.pollResult_keeps)
    | with_reducible exact fun _ h => h
    | split
    | (fail_if_no_progress beta_reduce)

theorem State.portTick_keeps {s0 s : State} (h : s0.Keeps s) :
    s0.Keeps (State.portTick s) := by
  unfold State.portTick
  repeat' first
    | (intro _)
    | with_reducible assumption
    | (with_reducible first | apply State.each_keeps | apply State.setFld_keeps | apply State.updPort_keeps | apply State.stopTimer_keeps | apply State.portShow_keeps)
    | with_reducible exact fun _ h => h
    | split

theorem execAntennaFault_keeps (s : State) (port : Fin 4) :
    State.KeepsOut s (execAntennaFault port s) := by
  unfold execAntennaFault
  first | apply State.live_keeps | apply keepsOut_next
  repeat' first
    | (intro _)
    | with_reducible assumption
    | with_reducible exact State.Keeps.refl _
    | (with_reducible first | apply State.setFld_keeps | apply State.startTimer_keeps | apply State.inc_keeps | apply State.event_keeps)
    | with_reducible exact fun _ h => h
    | split

theorem execAntennaRetry_keeps (s : State) (port : Fin 4) :
    State.KeepsOut s (execAntennaRetry port s) := by
  unfold execAntennaRetry
  first | apply State.live_keeps | apply keepsOut_next
  repeat' first
    | (intro _)
    | with_reducible assumption
    | (extract_lets +onlyGivenNames x; first | (refine (fun hx => ?_ : State.Keeps s x → _) ?_; (on_goal 1 => clear_value x); (on_goal 2 => subst x)) | clear_value x)
    | with_reducible exact State.Keeps.refl _
    | (with_reducible first | apply State.setFld_keeps | apply State.stopTimer_keeps | apply State.updPort_keeps)
    | with_reducible exact fun _ h => h
    | split

theorem execCardHoldExpiry_keeps (s : State) (port : Fin 4) :
    State.KeepsOut s (execCardHoldExpiry port s) := by
  unfold execCardHoldExpiry
  first | apply State.live_keeps | apply State.liveOn_keeps | apply keepsOut_next
  repeat' first
    | (intro _)
    | with_reducible assumption
    | (extract_lets +onlyGivenNames x; first | (refine (fun hx => ?_ : State.Keeps s x → _) ?_; (on_goal 1 => clear_value x); (on_goal 2 => subst x)) | clear_value x)
    | with_reducible exact State.Keeps.refl _
    | (with_reducible first | apply State.updPort_keeps | apply State.stopTimer_keeps | apply State.event_keeps | apply State.portShow_keeps)
    | with_reducible exact fun _ h => h
    | split
    | (fail_if_no_progress beta_reduce)

theorem execApdu_keeps (s : State) (ring : Fin 64) (resp : Option (List Byte)) :
    State.KeepsOut s (execApdu ring resp s) := by
  unfold execApdu
  first | apply State.live_keeps | apply State.liveOn_keeps | apply keepsOut_next
  repeat' first
    | (intro _)
    | with_reducible assumption
    | (extract_lets +onlyGivenNames x; first | (refine (fun hx => ?_ : State.Keeps s x → _) ?_; (on_goal 1 => clear_value x); (on_goal 2 => subst x)) | clear_value x)
    | with_reducible exact State.Keeps.refl _
    | (with_reducible first | apply State.serve_keeps | apply State.complete_keeps | apply State.dmaFail_keeps | apply State.completeData_keeps)
    | with_reducible exact fun _ h => h
    | split
    | (fail_if_no_progress beta_reduce)

theorem State.tagComplete_keeps {s0 s : State} (h : s0.Keeps s) (o : Option TagShadow) :
    s0.Keeps (State.tagComplete s o) := by
  unfold State.tagComplete
  repeat' first
    | (intro _)
    | with_reducible assumption
    | (with_reducible first | apply State.updTag_keeps | apply Memory.writeN_wf)
    | with_reducible exact fun _ h => h
    | split

theorem State.tagRecover_keeps {s0 s : State} (h : s0.Keeps s) :
    s0.Keeps (State.tagRecover s) := by
  unfold State.tagRecover
  repeat' first
    | (intro _)
    | with_reducible assumption
    | (extract_lets +onlyGivenNames x; first | (refine (fun hx => ?_ : State.Keeps s0 x → _) ?_; (on_goal 1 => clear_value x); (on_goal 2 => subst x)) | clear_value x)
    | (with_reducible first | apply State.updTag_keeps | apply State.tagComplete_keeps)
    | with_reducible exact fun _ h => h
    | split

theorem State.tagSlot_keeps {s0 s : State} (h : s0.Keeps s) (rf : Bool) (o : Option TagShadow) :
    s0.Keeps (State.tagSlot s rf o) := by
  unfold State.tagSlot
  repeat' first
    | (intro _)
    | with_reducible assumption
    | (with_reducible first | apply State.updTag_keeps)
    | with_reducible exact fun _ h => h
    | split

theorem State.tagPut_keeps {s0 s : State} (h : s0.Keeps s) (rf : Bool) (a : Nat) (b : List Byte) (cut : Cut) :
    s0.Keeps (State.tagPut s rf a b cut) := by
  unfold State.tagPut
  repeat' first
    | (intro _)
    | with_reducible assumption
    | (extract_lets +onlyGivenNames x; first | (refine (fun hx => ?_ : State.Keeps s0 x → _) ?_; (on_goal 1 => clear_value x); (on_goal 2 => subst x)) | clear_value x)
    | (with_reducible first | apply State.iff_keeps | apply State.updTag_keeps | apply State.tagComplete_keeps | apply State.tagSlot_keeps | apply Memory.writeN_wf)
    | with_reducible exact fun _ h => h
    | split
    | (fail_if_no_progress beta_reduce)

theorem State.tagModPut_keeps : ∀ (k : Nat) {s0 s : State} (_ : s0.Keeps s) (a : Nat) (b : List Byte), s0.Keeps (s.tagModPut k a b)
  | 0, _, _, h, _, _ => h
  | k + 1, s0, s, h, a, b => by
    have ih := @State.tagModPut_keeps k s0
    unfold State.tagModPut
    repeat' first
      | (intro _)
      | with_reducible assumption
      | (extract_lets +onlyGivenNames x; first | (refine (fun hx => ?_ : State.Keeps s0 x → _) ?_; (on_goal 1 => clear_value x); (on_goal 2 => subst x)) | (refine (fun hx => ?_ : State.Keeps s0 x.1 → _) ?_; (on_goal 1 => clear_value x); (on_goal 2 => subst x)) | clear_value x)
      | (with_reducible first | apply ih | apply State.tagPut_keeps)
      | with_reducible exact fun _ h => h
      | split

theorem State.tagIdentity_keeps {s0 s : State} (h : s0.Keeps s) :
    s0.Keeps (State.tagIdentity s) := by
  unfold State.tagIdentity
  repeat' first
    | (intro _)
    | with_reducible assumption
    | (extract_lets +onlyGivenNames x; first | (refine (fun hx => ?_ : State.Keeps s0 x → _) ?_; (on_goal 1 => clear_value x); (on_goal 2 => subst x)) | clear_value x)
    | (with_reducible first | apply State.tagModPut_keeps)
    | with_reducible exact fun _ h => h
    | split
    | (fail_if_no_progress beta_reduce)

theorem State.tagCapture_keeps {s0 s : State} (h : s0.Keeps s) (slot : Nat) (index : Nat) (status : Nat) (cause : Nat) (time : Nat) :
    s0.Keeps (State.tagCapture s slot index status cause time) := by
  unfold State.tagCapture
  repeat' first
    | (intro _)
    | with_reducible assumption
    | (with_reducible first | apply State.tagModPut_keeps)
    | with_reducible exact fun _ h => h
    | split

theorem State.tagStart_keeps {s0 s : State} (h : s0.Keeps s) :
    s0.Keeps (State.tagStart s) := by
  unfold State.tagStart
  repeat' first
    | (intro _)
    | with_reducible assumption
    | (with_reducible first | apply State.tagIdentity_keeps | apply State.updTag_keeps)
    | with_reducible exact fun _ h => h
    | split

theorem State.tagDiag_keeps {s0 s : State} (h : s0.Keeps s) :
    s0.Keeps (State.tagDiag s) := by
  unfold State.tagDiag
  repeat' first
    | (intro _)
    | with_reducible assumption
    | (extract_lets +onlyGivenNames x; first | clear_value x)
    | (with_reducible first | apply State.tagModPut_keeps)
    | with_reducible exact fun _ h => h
    | split

theorem State.tagSnap_keeps {s0 s : State} (h : s0.Keeps s) (cut : Cut) :
    s0.Keeps (State.tagSnap s cut) := by
  unfold State.tagSnap
  repeat' first
    | (intro _)
    | with_reducible assumption
    | (extract_lets +onlyGivenNames x; first | (refine (fun hx => ?_ : State.Keeps s0 x → _) ?_; (on_goal 1 => clear_value x); (on_goal 2 => subst x)) | clear_value x)
    | (with_reducible first | apply State.tagPut_keeps | apply State.startTimer_keeps | apply State.updTag_keeps)
    | with_reducible exact fun _ h => h
    | split
    | (fail_if_no_progress beta_reduce)

theorem State.tagRegs_keeps {s0 s : State} (h : s0.Keeps s) :
    s0.Keeps (State.tagRegs s) := by
  unfold State.tagRegs
  repeat' first
    | (intro _)
    | with_reducible assumption
    | (extract_lets +onlyGivenNames x; first | (refine (fun hx => ?_ : State.Keeps s0 x → _) ?_; (on_goal 1 => clear_value x); (on_goal 2 => subst x)) | clear_value x)
    | (with_reducible first | apply State.setFlag_keeps | apply State.setSat_keeps | apply State.setFld_keeps)
    | with_reducible exact fun _ h => h
    | split

theorem State.tagGcRead_keeps {s0 s : State} (h : s0.Keeps s) :
    s0.Keeps (State.tagGcRead s) := by
  unfold State.tagGcRead
  repeat' first
    | (intro _)
    | with_reducible assumption
    | (extract_lets +onlyGivenNames x; first | (refine (fun hx => ?_ : State.Keeps s0 x → _) ?_; (on_goal 1 => clear_value x); (on_goal 2 => subst x)) | clear_value x)
    | (with_reducible first | apply State.tagRegs_keeps | apply State.iff_keeps | apply State.setSat_keeps | apply State.each_keeps | apply State.updTag_keeps | apply State.inc_keeps | apply State.event_keeps)
    | with_reducible exact fun _ h => h
    | split

theorem State.tagKey_keeps {s0 s : State} (h : s0.Keeps s) :
    s0.Keeps (State.tagKey s) := by
  unfold State.tagKey
  repeat' first
    | (intro _)
    | with_reducible assumption
    | (extract_lets +onlyGivenNames x; first | clear_value x)
    | (with_reducible first | apply State.tagRegs_keeps | apply State.updTag_keeps | apply State.updKeys_keeps)
    | with_reducible exact fun _ h => h
    | split

theorem execTagPowerUp_keeps (s : State) (byField : Bool) :
    State.KeepsOut s (execTagPowerUp byField s) := by
  unfold execTagPowerUp
  first | apply State.live_keeps | apply keepsOut_next
  repeat' first
    | (intro _)
    | with_reducible assumption
    | with_reducible exact State.Keeps.refl _
    | (with_reducible first | apply State.tagRegs_keeps | apply State.updTag_keeps | apply State.tagRecover_keeps)
    | with_reducible exact fun _ h => h
    | split

theorem execFieldDetected_keeps (s : State) :
    State.KeepsOut s (execFieldDetected s) := by
  unfold execFieldDetected
  first | apply State.live_keeps | apply keepsOut_next
  repeat' first
    | (intro _)
    | with_reducible assumption
    | (extract_lets +onlyGivenNames x; first | (refine (fun hx => ?_ : State.Keeps s x → _) ?_; (on_goal 1 => clear_value x); (on_goal 2 => subst x)) | clear_value x)
    | with_reducible exact State.Keeps.refl _
    | (with_reducible first | apply State.tagRegs_keeps | apply State.tagDiag_keeps | apply State.tagSnap_keeps | apply State.updTag_keeps | apply State.tagGcRead_keeps | apply State.event_keeps | apply State.tagRecover_keeps)
    | with_reducible exact fun _ h => h
    | split

theorem State.tagEnd_keeps {s0 s : State} (h : s0.Keeps s) :
    s0.Keeps (State.tagEnd s) := by
  unfold State.tagEnd
  repeat' first
    | (intro _)
    | with_reducible assumption
    | (with_reducible first | apply State.tagRegs_keeps | apply State.updTag_keeps)
    | with_reducible exact fun _ h => h
    | split

theorem execTagFieldLost_keeps (s : State) :
    State.KeepsOut s (execTagFieldLost s) := by
  unfold execTagFieldLost
  first | apply State.live_keeps | apply keepsOut_next
  repeat' first
    | (intro _)
    | with_reducible assumption
    | with_reducible exact State.Keeps.refl _
    | (with_reducible first | apply State.tagEnd_keeps | apply State.updTag_keeps)
    | with_reducible exact fun _ h => h
    | split

theorem execHlta_keeps (s : State) :
    State.KeepsOut s (execHlta s) := by
  unfold execHlta
  first | apply State.live_keeps | apply keepsOut_next
  repeat' first
    | (intro _)
    | with_reducible assumption
    | with_reducible exact State.Keeps.refl _
    | (with_reducible first | apply State.tagEnd_keeps | apply State.updTag_keeps)
    | with_reducible exact fun _ h => h
    | split

theorem State.tagAnswer_keeps {s0 s : State} (h : s0.Keeps s) (st : Option Nat) (b : List Byte) :
    s0.Keeps (State.tagAnswer s st b) := by
  unfold State.tagAnswer
  repeat' first
    | (intro _)
    | with_reducible assumption
    | (with_reducible first | apply State.updTag_keeps)
    | with_reducible exact fun _ h => h
    | split

theorem State.tagCmd_keeps {s0 s : State} (h : s0.Keeps s) (f : State → State) (hf : ∀ z0, s0.Keeps z0 → s0.Keeps (f z0)) :
    s0.Keeps (State.tagCmd s f) := by
  unfold State.tagCmd
  repeat' first
    | (intro _)
    | with_reducible assumption
    | (with_reducible first | apply hf)
    | with_reducible exact fun _ h => h
    | split

theorem execTagRead_keeps (s : State) (addr : BitVec 16) (len : Nat) :
    State.KeepsOut s (execTagRead addr len s) := by
  unfold execTagRead
  first | apply State.live_keeps | apply keepsOut_next
  repeat' first
    | (intro _)
    | with_reducible assumption
    | (extract_lets +onlyGivenNames x; first | clear_value x)
    | with_reducible exact State.Keeps.refl _
    | (with_reducible first | apply State.tagCmd_keeps | apply State.tagAnswer_keeps)
    | with_reducible exact fun _ h => h
    | split

theorem execTagWrite_keeps (s : State) (addr : BitVec 16) (data : List Byte) (cut : Cut) :
    State.KeepsOut s (execTagWrite addr data cut s) := by
  unfold execTagWrite
  first | apply State.live_keeps | apply keepsOut_next
  repeat' first
    | (intro _)
    | with_reducible assumption
    | (extract_lets +onlyGivenNames x; first | (refine (fun hx => ?_ : State.Keeps s x → _) ?_; (on_goal 1 => clear_value x); (on_goal 2 => subst x)) | (have y : State → State := x; clear y; subst x) | clear_value x)
    | with_reducible exact State.Keeps.refl _
    | (with_reducible first | apply State.tagPut_keeps | apply State.tagCmd_keeps | apply State.tagEnd_keeps | apply State.updTag_keeps | apply State.tagAnswer_keeps)
    | with_reducible exact fun _ h => h
    | split
    | (fail_if_no_progress beta_reduce)

theorem execAuth1_keeps (s : State) (fieldMs : Nat) :
    State.KeepsOut s (execAuth1 fieldMs s) := by
  unfold execAuth1
  first | apply State.live_keeps | apply keepsOut_next
  repeat' first
    | (intro _)
    | with_reducible assumption
    | (extract_lets +onlyGivenNames x; first | (refine (fun hx => ?_ : State.Keeps s x.2 → _) ?_; (on_goal 1 => clear_value x); (on_goal 2 => subst x)) | clear_value x)
    | with_reducible exact State.Keeps.refl _
    | (with_reducible first | apply State.draw_keeps | apply State.tagCmd_keeps | apply State.updTag_keeps | apply State.tagAnswer_keeps)
    | with_reducible exact fun _ h => h
    | split

theorem State.authFail_keeps {s0 s : State} (h : s0.Keeps s) :
    s0.Keeps (State.authFail s) := by
  unfold State.authFail
  repeat' first
    | (intro _)
    | with_reducible assumption
    | (extract_lets +onlyGivenNames x; first | (refine (fun hx => ?_ : State.Keeps s0 x → _) ?_; (on_goal 1 => clear_value x); (on_goal 2 => subst x)) | clear_value x)
    | (with_reducible first | apply State.updTag_keeps | apply State.tagAnswer_keeps | apply State.each_keeps | apply State.event_keeps | apply State.inc_keeps | apply State.iff_keeps | apply State.tagRegs_keeps)
    | with_reducible exact fun _ h => h
    | split
    | (fail_if_no_progress beta_reduce)

theorem execAuth2_keeps (s : State) (data : List Byte) :
    State.KeepsOut s (execAuth2 data s) := by
  unfold execAuth2
  first | apply State.live_keeps | apply State.liveOn_keeps | apply keepsOut_next
  repeat' first
    | (intro _)
    | with_reducible assumption
    | (extract_lets +onlyGivenNames x; first | (refine (fun hx => ?_ : State.Keeps s x → _) ?_; (on_goal 1 => clear_value x); (on_goal 2 => subst x)) | clear_value x)
    | with_reducible exact State.Keeps.refl _
    | (with_reducible first | apply State.tagCmd_keeps | apply State.tagAnswer_keeps | apply State.authFail_keeps | apply State.updTag_keeps | apply State.tagRegs_keeps)
    | with_reducible exact fun _ h => h
    | split
    | (fail_if_no_progress beta_reduce)

theorem State.mbxDone_keeps {s0 s : State} (h : s0.Keeps s) (seq : Nat) (res : Nat) :
    s0.Keeps (State.mbxDone s seq res) := by
  unfold State.mbxDone
  repeat' first
    | (intro _)
    | with_reducible assumption
    | (extract_lets +onlyGivenNames x; first | (refine (fun hx => ?_ : State.Keeps s0 x → _) ?_; (on_goal 1 => clear_value x); (on_goal 2 => subst x)) | clear_value x)
    | (with_reducible first | apply State.tagRegs_keeps | apply State.updTag_keeps | apply State.tagModPut_keeps)
    | with_reducible exact fun _ h => h
    | split

theorem State.mbxSkip_keeps : ∀ (k : Nat) {s0 s : State} (_ : s0.Keeps s), s0.Keeps (State.mbxSkip k s)
  | 0, _, _, h => h
  | k + 1, s0, s, h => by
    have ih := @State.mbxSkip_keeps k s0
    unfold State.mbxSkip
    repeat' first
      | (intro _)
      | with_reducible assumption
      | (extract_lets +onlyGivenNames x; first | (refine (fun hx => ?_ : State.Keeps s0 x → _) ?_; (on_goal 1 => clear_value x); (on_goal 2 => subst x)) | (refine (fun hx => ?_ : State.Keeps s0 x.1 → _) ?_; (on_goal 1 => clear_value x); (on_goal 2 => subst x)) | clear_value x)
      | (with_reducible first | apply ih | apply State.mbxDone_keeps)
      | with_reducible exact fun _ h => h
      | split

theorem State.mbxRun_keeps {s0 s : State} (h : s0.Keeps s) (cmd : Nat) (f : Nat → Nat → State → State × Nat) (hf : ∀ z0 z1 z2, s0.Keeps z2 → s0.Keeps (f z0 z1 z2).1) :
    s0.Keeps (State.mbxRun s cmd f) := by
  unfold State.mbxRun
  repeat' first
    | (intro _)
    | with_reducible assumption
    | (extract_lets +onlyGivenNames x; first | (refine (fun hx => ?_ : State.Keeps s0 x → _) ?_; (on_goal 1 => clear_value x); (on_goal 2 => subst x)) | (refine (fun hx => ?_ : State.Keeps s0 x.1 → _) ?_; (on_goal 1 => clear_value x); (on_goal 2 => subst x)) | (refine (fun hx => ?_ : State.Keeps s0 x.2 → _) ?_; (on_goal 1 => clear_value x); (on_goal 2 => subst x)) | clear_value x)
    | (with_reducible first | apply hf | apply State.mbxSkip_keeps | apply State.mbxDone_keeps)
    | with_reducible exact fun _ h => h
    | split
    | (fail_if_no_progress beta_reduce)

theorem execMark_keeps (s : State) :
    State.KeepsOut s (execMark s) := by
  unfold execMark
  first | apply State.live_keeps | apply keepsOut_next
  repeat' first
    | (intro _)
    | with_reducible assumption
    | with_reducible exact State.Keeps.refl _
    | (with_reducible first | apply State.mbxRun_keeps | apply State.event_keeps)
    | with_reducible exact fun _ h => h
    | split

theorem execPage_keeps (s : State) :
    State.KeepsOut s (execPage s) := by
  unfold execPage
  first | apply State.live_keeps | apply keepsOut_next
  repeat' first
    | (intro _)
    | with_reducible assumption
    | with_reducible exact State.Keeps.refl _
    | (with_reducible first | apply State.mbxRun_keeps | apply State.selectPage_keeps)
    | with_reducible exact fun _ h => h
    | split

theorem execSnap_keeps (s : State) :
    State.KeepsOut s (execSnap s) := by
  unfold execSnap
  first | apply State.live_keeps | apply keepsOut_next
  repeat' first
    | (intro _)
    | with_reducible assumption
    | with_reducible exact State.Keeps.refl _
    | (with_reducible first | apply State.mbxRun_keeps | apply State.tagDiag_keeps | apply State.tagSnap_keeps)
    | with_reducible exact fun _ h => h
    | split

theorem execStatusSnapshot_keeps (s : State) (cut : Cut) :
    State.KeepsOut s (execStatusSnapshot cut s) := by
  unfold execStatusSnapshot
  first | apply State.live_keeps | apply keepsOut_next
  repeat' first
    | (intro _)
    | with_reducible assumption
    | with_reducible exact State.Keeps.refl _
    | (with_reducible first | apply State.tagSnap_keeps)
    | with_reducible exact fun _ h => h
    | split

theorem State.mirrorTake_keeps {s0 s : State} (h : s0.Keeps s) :
    s0.Keeps (State.mirrorTake s) := by
  unfold State.mirrorTake
  repeat' first
    | (intro _)
    | with_reducible assumption
    | (extract_lets +onlyGivenNames x; first | (refine (fun hx => ?_ : State.Keeps s0 x → _) ?_; (on_goal 1 => clear_value x); (on_goal 2 => subst x)) | clear_value x)
    | (with_reducible first | apply State.each_keeps | apply State.updTag_keeps | apply State.inc_keeps | apply State.tagRegs_keeps | apply State.iff_keeps | apply State.event_keeps)
    | with_reducible exact fun _ h => h
    | split
    | (fail_if_no_progress beta_reduce)

theorem State.mirrorHeader_keeps {s0 s : State} (h : s0.Keeps s) :
    s0.Keeps (State.mirrorHeader s) := by
  unfold State.mirrorHeader
  repeat' first
    | (intro _)
    | with_reducible assumption
    | (with_reducible first | apply State.tagModPut_keeps)
    | with_reducible exact fun _ h => h
    | split

theorem execMirrorWrite_keeps (s : State) (cut : Cut) :
    State.KeepsOut s (execMirrorWrite cut s) := by
  unfold execMirrorWrite
  first | apply State.live_keeps | apply State.liveOn_keeps | apply keepsOut_next
  repeat' first
    | (intro _)
    | with_reducible assumption
    | (extract_lets +onlyGivenNames x; first | (refine (fun hx => ?_ : State.Keeps s x → _) ?_; (on_goal 1 => clear_value x); (on_goal 2 => subst x)) | clear_value x)
    | with_reducible exact State.Keeps.refl _
    | (with_reducible first | apply State.mirrorTake_keeps | apply State.updTag_keeps | apply State.tagPut_keeps | apply State.tagRegs_keeps | apply State.mirrorHeader_keeps)
    | with_reducible exact fun _ h => h
    | split
    | (fail_if_no_progress beta_reduce)

end Sys2Proof.Machine
end

