-- ==== Sys2Proof/Laws/KeepsMallas.lean ====
section
/-!
SUPPORT. What every command keeps, for the operations and commands of Machine/Mallas.lean.
-/

set_option linter.all false

namespace Sys2Proof.Machine

open Sys2Proof

theorem State.updMl_keeps {s0 s : State} (h : s0.Keeps s) (f : MlSt → MlSt) :
    s0.Keeps (State.updMl s f) := by
  unfold State.updMl
  repeat' first
    | (intro _)
    | with_reducible assumption
    | split
    | (with_reducible apply State.mk_keeps; (rotate_left); all_goals first | with_reducible rfl | exact upd_length _ _ _ | exact List.length_map _ | skip)
    | with_reducible exact fun _ h => h
    | split

theorem State.updSl_keeps {s0 s : State} (h : s0.Keeps s) (n : Nat) (f : MlSlave → MlSlave) :
    s0.Keeps (State.updSl s n f) := by
  unfold State.updSl
  repeat' first
    | (intro _)
    | with_reducible assumption
    | (with_reducible first | apply State.updMl_keeps)
    | with_reducible exact fun _ h => h
    | split

theorem State.setHop_keeps {s0 s : State} (h : s0.Keeps s) (a1 : MlHop) :
    s0.Keeps (State.setHop s a1) := by
  unfold State.setHop
  repeat' first
    | (intro _)
    | with_reducible assumption
    | (with_reducible first | apply State.updMl_keeps)
    | with_reducible exact fun _ h => h
    | split

theorem State.hearHop_keeps {s0 s : State} (h : s0.Keeps s) (a : Nat) (b : Nat) (snr : Int) :
    s0.Keeps (State.hearHop s a b snr) := by
  unfold State.hearHop
  repeat' first
    | (intro _)
    | with_reducible assumption
    | (with_reducible first | apply State.setHop_keeps)
    | with_reducible exact fun _ h => h
    | split

theorem State.useHop_keeps {s0 s : State} (h : s0.Keeps s) (n : Nat) (a : Nat) (b : Nat) (snr : Int) :
    s0.Keeps (State.useHop s n a b snr) := by
  unfold State.useHop
  repeat' first
    | (intro _)
    | with_reducible assumption
    | (extract_lets +onlyGivenNames x; first | clear_value x)
    | (with_reducible first | apply State.iff_keeps | apply State.setHop_keeps | apply State.event_keeps)
    | with_reducible exact fun _ h => h
    | split

theorem State.showRoute_keeps {s0 s : State} (h : s0.Keeps s) (n : Nat) (r : Option (List Nat)) :
    s0.Keeps (State.showRoute s n r) := by
  unfold State.showRoute
  repeat' first
    | (intro _)
    | with_reducible assumption
    | (extract_lets +onlyGivenNames x; first | (refine (fun hx => ?_ : State.Keeps s0 x → _) ?_; (on_goal 1 => clear_value x); (on_goal 2 => subst x)) | clear_value x)
    | (with_reducible first | apply State.setFld_keeps | apply State.setFldS_keeps)
    | with_reducible exact fun _ h => h
    | split

theorem State.reroute_keeps {s0 s : State} (h : s0.Keeps s) (n : Nat) :
    s0.Keeps (State.reroute s n) := by
  unfold State.reroute
  repeat' first
    | (intro _)
    | with_reducible assumption
    | (extract_lets +onlyGivenNames x; first | (refine (fun hx => ?_ : State.Keeps s0 x → _) ?_; (on_goal 1 => clear_value x); (on_goal 2 => subst x)) | clear_value x)
    | (with_reducible first | apply State.updSl_keeps | apply State.iff_keeps | apply State.showRoute_keeps | apply State.event_keeps)
    | with_reducible exact fun _ h => h
    | split

theorem State.rerouteAll_keeps {s0 s : State} (h : s0.Keeps s) :
    s0.Keeps (State.rerouteAll s) := by
  unfold State.rerouteAll
  repeat' first
    | (intro _)
    | with_reducible assumption
    | (with_reducible first | apply State.reroute_keeps | apply State.each_keeps)
    | with_reducible exact fun _ h => h
    | split

theorem State.setSlave_keeps {s0 s : State} (h : s0.Keeps s) (n : Nat) (st : Nat) :
    s0.Keeps (State.setSlave s n st) := by
  unfold State.setSlave
  repeat' first
    | (intro _)
    | with_reducible assumption
    | (extract_lets +onlyGivenNames x; first | (refine (fun hx => ?_ : State.Keeps s0 x → _) ?_; (on_goal 1 => clear_value x); (on_goal 2 => subst x)) | clear_value x)
    | (with_reducible first | apply State.setFld_keeps | apply State.event_keeps)
    | with_reducible exact fun _ h => h
    | split

theorem State.pollOut_keeps {s0 s : State} (h : s0.Keeps s) :
    s0.Keeps (State.pollOut s) := by
  unfold State.pollOut
  repeat' first
    | (intro _)
    | with_reducible assumption
    | (with_reducible first | apply State.iff_keeps | apply State.updMl_keeps)
    | with_reducible exact fun _ h => h
    | split

theorem State.sendPoll_keeps {s0 s : State} (h : s0.Keeps s) (mode : Option Nat) (gap : Nat) :
    s0.Keeps (State.sendPoll s mode gap) := by
  unfold State.sendPoll
  repeat' first
    | (intro _)
    | with_reducible assumption
    | (extract_lets +onlyGivenNames x; first | (refine (fun hx => ?_ : State.Keeps s0 x → _) ?_; (on_goal 1 => clear_value x); (on_goal 2 => subst x)) | clear_value x)
    | (with_reducible first | apply State.updMl_keeps | apply State.pollOut_keeps)
    | with_reducible exact fun _ h => h
    | split
    | (fail_if_no_progress beta_reduce)

theorem State.nextPoll_keeps {s0 s : State} (h : s0.Keeps s) :
    s0.Keeps (State.nextPoll s) := by
  unfold State.nextPoll
  repeat' first
    | (intro _)
    | with_reducible assumption
    | (extract_lets +onlyGivenNames x; first | (refine (fun hx => ?_ : State.Keeps s0 x → _) ?_; (on_goal 1 => clear_value x); (on_goal 2 => subst x)) | clear_value x)
    | (with_reducible first | apply State.updSl_keeps | apply State.sendPoll_keeps | apply State.updMl_keeps)
    | with_reducible exact fun _ h => h
    | split
    | (fail_if_no_progress beta_reduce)

theorem State.dropPoll_keeps {s0 s : State} (h : s0.Keeps s) (n : Nat) :
    s0.Keeps (State.dropPoll s n) := by
  unfold State.dropPoll
  repeat' first
    | (intro _)
    | with_reducible assumption
    | (extract_lets +onlyGivenNames x; first | (refine (fun hx => ?_ : State.Keeps s0 x → _) ?_; (on_goal 1 => clear_value x); (on_goal 2 => subst x)) | clear_value x)
    | (with_reducible first | apply State.nextPoll_keeps | apply State.updMl_keeps)
    | with_reducible exact fun _ h => h
    | split
    | (fail_if_no_progress beta_reduce)

theorem State.mlStart_keeps {s0 s : State} (h : s0.Keeps s) :
    s0.Keeps (State.mlStart s) := by
  unfold State.mlStart
  repeat' first
    | (intro _)
    | with_reducible assumption
    | (extract_lets +onlyGivenNames x; first | (refine (fun hx => ?_ : State.Keeps s0 x → _) ?_; (on_goal 1 => clear_value x); (on_goal 2 => subst x)) | clear_value x)
    | (with_reducible first | apply State.updMl_keeps | apply State.stopTimer_keeps | apply State.each_keeps | apply State.updSl_keeps | apply State.setSlave_keeps | apply State.showRoute_keeps | apply State.setFld_keeps)
    | with_reducible exact fun _ h => h
    | split
    | (fail_if_no_progress beta_reduce)

theorem State.mlEnables_keeps {s0 s : State} (h : s0.Keeps s) :
    s0.Keeps (State.mlEnables s) := by
  unfold State.mlEnables
  repeat' first
    | (intro _)
    | with_reducible assumption
    | (extract_lets +onlyGivenNames x; first | (refine (fun hx => ?_ : State.Keeps s0 x → _) ?_; (on_goal 1 => clear_value x); (on_goal 2 => subst x)) | clear_value x)
    | (with_reducible first | apply State.each_keeps | apply State.setSlave_keeps | apply State.updSl_keeps | apply State.iff_keeps | apply State.dropPoll_keeps | apply State.updMl_keeps)
    | with_reducible exact fun _ h => h
    | split
    | (fail_if_no_progress beta_reduce)

theorem State.mlTick_keeps {s0 s : State} (h : s0.Keeps s) :
    s0.Keeps (State.mlTick s) := by
  unfold State.mlTick
  repeat' first
    | (intro _)
    | with_reducible assumption
    | (extract_lets +onlyGivenNames x; first | (refine (fun hx => ?_ : State.Keeps s0 x → _) ?_; (on_goal 1 => clear_value x); (on_goal 2 => subst x)) | clear_value x)
    | (with_reducible first | apply State.updMl_keeps | apply State.iff_keeps | apply State.pollOut_keeps | apply State.mlEnables_keeps | apply State.setFld_keeps | apply State.mlStart_keeps | apply State.mlStop_keeps)
    | with_reducible exact fun _ h => h
    | split
    | (fail_if_no_progress beta_reduce)

theorem execMallasCycle_keeps (s : State) (polls : List (List Byte)) :
    State.KeepsOut s (execMallasCycle polls s) := by
  unfold execMallasCycle
  first | apply State.live_keeps | apply State.liveOn_keeps | apply keepsOut_next
  repeat' first
    | (intro _)
    | with_reducible assumption
    | (extract_lets +onlyGivenNames x; first | (refine (fun hx => ?_ : State.Keeps s x → _) ?_; (on_goal 1 => clear_value x); (on_goal 2 => subst x)) | clear_value x)
    | with_reducible exact State.Keeps.refl _
    | (with_reducible first | apply State.iff_keeps | apply State.inc_keeps | apply State.updMl_keeps | apply State.each_keeps | apply State.setSlave_keeps | apply State.updSl_keeps | apply State.startTimer_keeps | apply State.sendPoll_keeps | apply State.rerouteAll_keeps)
    | with_reducible exact fun _ h => h
    | split
    | (fail_if_no_progress beta_reduce)

theorem execMallasAnswer_keeps (s : State) (fc : BitVec 36) (payload : List Byte) (hops : List (Int × Int)) (heard : List (Nat × Int)) :
    State.KeepsOut s (execMallasAnswer fc payload hops heard s) := by
  unfold execMallasAnswer
  first | apply State.live_keeps | apply State.liveOn_keeps | apply keepsOut_next
  repeat' first
    | (intro _)
    | with_reducible assumption
    | (extract_lets +onlyGivenNames x; first | (refine (fun hx => ?_ : State.Keeps s x → _) ?_; (on_goal 1 => clear_value x); (on_goal 2 => subst x)) | clear_value x)
    | with_reducible exact State.Keeps.refl _
    | (with_reducible first | apply State.setFld_keeps | apply State.startTimer_keeps | apply State.updSl_keeps | apply State.each_keeps | apply State.useHop_keeps | apply State.hearHop_keeps | apply State.nextPoll_keeps | apply State.rerouteAll_keeps)
    | with_reducible exact fun _ h => h
    | split
    | (fail_if_no_progress beta_reduce)

theorem execMallasExchangeFail_keeps (s : State) (slave : Fin 64) (missing : Bool) (snr : Int) (peaks : List Nat) :
    State.KeepsOut s (execMallasExchangeFail slave missing snr peaks s) := by
  unfold execMallasExchangeFail
  first | apply State.live_keeps | apply State.liveOn_keeps | apply keepsOut_next
  repeat' first
    | (intro _)
    | with_reducible assumption
    | (extract_lets +onlyGivenNames x; first | (refine (fun hx => ?_ : State.Keeps s x → _) ?_; (on_goal 1 => clear_value x); (on_goal 2 => subst x)) | clear_value x)
    | with_reducible exact State.Keeps.refl _
    | (with_reducible first | apply State.iff_keeps | apply State.inc_keeps | apply State.event_keeps | apply State.updMl_keeps | apply State.showRoute_keeps | apply State.useHop_keeps | apply State.sendPoll_keeps | apply State.nextPoll_keeps)
    | with_reducible exact fun _ h => h
    | split
    | (fail_if_no_progress beta_reduce)

theorem execSlaveLost_keeps (s : State) (slave : Fin 64) :
    State.KeepsOut s (execSlaveLost slave s) := by
  unfold execSlaveLost
  first | apply State.live_keeps | apply State.liveOn_keeps | apply keepsOut_next
  repeat' first
    | (intro _)
    | with_reducible assumption
    | (extract_lets +onlyGivenNames x; first | (refine (fun hx => ?_ : State.Keeps s x → _) ?_; (on_goal 1 => clear_value x); (on_goal 2 => subst x)) | clear_value x)
    | with_reducible exact State.Keeps.refl _
    | (with_reducible first | apply State.setSlave_keeps | apply State.event_keeps | apply State.updMl_keeps | apply State.dropPoll_keeps | apply State.rerouteAll_keeps)
    | with_reducible exact fun _ h => h
    | split
    | (fail_if_no_progress beta_reduce)

theorem execDiscovery_keeps (s : State) :
    State.KeepsOut s (execDiscovery s) := by
  unfold execDiscovery
  first | apply State.live_keeps | apply State.liveOn_keeps | apply keepsOut_next
  repeat' first
    | (intro _)
    | with_reducible assumption
    | (extract_lets +onlyGivenNames x; first | (refine (fun hx => ?_ : State.Keeps s x → _) ?_; (on_goal 1 => clear_value x); (on_goal 2 => subst x)) | clear_value x)
    | with_reducible exact State.Keeps.refl _
    | (with_reducible first | apply State.updMl_keeps | apply State.startTimer_keeps)
    | with_reducible exact fun _ h => h
    | split
    | (fail_if_no_progress beta_reduce)

theorem execDiscoveryAnswer_keeps (s : State) (id : BitVec 48) (slot : Fin 8) (snr : Int) :
    State.KeepsOut s (execDiscoveryAnswer id slot snr s) := by
  unfold execDiscoveryAnswer
  first | apply State.live_keeps | apply State.liveOn_keeps | apply keepsOut_next
  repeat' first
    | (intro _)
    | with_reducible assumption
    | (extract_lets +onlyGivenNames x; first | (refine (fun hx => ?_ : State.Keeps s x → _) ?_; (on_goal 1 => clear_value x); (on_goal 2 => subst x)) | clear_value x)
    | with_reducible exact State.Keeps.refl _
    | (with_reducible first | apply State.updMl_keeps | apply State.event_keeps | apply State.inc_keeps | apply State.setFld_keeps | apply State.hearHop_keeps | apply State.updSl_keeps | apply id_keeps)
    | with_reducible exact fun _ h => h
    | split
    | (fail_if_no_progress beta_reduce)

theorem execTimeFrame_keeps (s : State) :
    State.KeepsOut s (execTimeFrame s) := by
  unfold execTimeFrame
  first | apply State.live_keeps | apply State.liveOn_keeps | apply keepsOut_next
  repeat' first
    | (intro _)
    | with_reducible assumption
    | (extract_lets +onlyGivenNames x; first | (refine (fun hx => ?_ : State.Keeps s x → _) ?_; (on_goal 1 => clear_value x); (on_goal 2 => subst x)) | clear_value x)
    | with_reducible exact State.Keeps.refl _
    | (with_reducible first | apply State.updMl_keeps)
    | with_reducible exact fun _ h => h
    | split
    | (fail_if_no_progress beta_reduce)

end Sys2Proof.Machine
end

