-- ==== Sys2Proof/Laws/KeepsMemory.lean ====
section
/-!
SUPPORT. What every command keeps, for the operations and commands of Machine/Memory.lean.
-/

set_option linter.all false

namespace Sys2Proof.Machine

open Sys2Proof

theorem State.haltCore_keeps {s0 s : State} (h : s0.Keeps s) (i : Nat) :
    s0.Keeps (State.haltCore s i) := by
  unfold State.haltCore
  repeat' first
    | (intro _)
    | with_reducible assumption
    | (extract_lets +onlyGivenNames x; first | (refine (fun hx => ?_ : State.Keeps s0 x → _) ?_; (on_goal 1 => clear_value x); (on_goal 2 => subst x)) | clear_value x)
    | (with_reducible first | apply State.iff_keeps | apply State.trialFail_keeps | apply State.ceHalt_keeps | apply State.setFld_keeps | apply State.event_keeps)
    | with_reducible exact fun _ h => h
    | split

theorem State.readCost_keeps {s0 s : State} (h : s0.Keeps s) (a1 : Nat) :
    s0.Keeps (State.readCost s a1) := by
  unfold State.readCost
  repeat' first
    | (intro _)
    | with_reducible assumption
    | (with_reducible first | apply State.iff_keeps | apply State.updCe_keeps)
    | with_reducible exact fun _ h => h
    | split

theorem execCorrectionWriteBack_keeps (s : State) (mem : Fin 9) (tile : Nat) (t : MemTile) (stuck : Bool) :
    State.KeepsOut s (execCorrectionWriteBack mem tile t stuck s) := by
  unfold execCorrectionWriteBack
  first | apply State.live_keeps | apply State.liveOn_keeps | apply keepsOut_next
  repeat' first
    | (intro _)
    | with_reducible assumption
    | (extract_lets +onlyGivenNames x; first | (refine (fun hx => ?_ : State.Keeps s x → _) ?_; (on_goal 1 => clear_value x); (on_goal 2 => subst x)) | clear_value x)
    | with_reducible exact State.Keeps.refl _
    | (with_reducible first | apply State.readCost_keeps | apply State.corrected_keeps)
    | with_reducible exact fun _ h => h
    | split
    | (fail_if_no_progress beta_reduce)

theorem State.checkOld_keeps {s0 s : State} (h : s0.Keeps s) (a1 : Nat) (word : Nat) (t : MemTile) :
    s0.Keeps (State.checkOld s a1 word t) := by
  unfold State.checkOld
  repeat' first
    | (intro _)
    | with_reducible assumption
    | (with_reducible first | apply State.readCost_keeps | apply State.corrected_keeps | apply State.memTrace_keeps | apply State.poisonWords_keeps)
    | with_reducible exact fun _ h => h
    | split

theorem State.trapCore_keeps {s0 s : State} (h : s0.Keeps s) (core : Nat) (a2 : Nat) (addr : Nat) :
    s0.Keeps (State.trapCore s core a2 addr) := by
  unfold State.trapCore
  repeat' first
    | (intro _)
    | with_reducible assumption
    | (with_reducible first | apply State.haltCore_keeps | apply State.event_keeps)
    | with_reducible exact fun _ h => h
    | split

theorem State.drainOne_keeps {s0 s : State} (h : s0.Keeps s) (a1 : Nat) (t : MemTile) :
    s0.Keeps (State.drainOne s a1 t) := by
  unfold State.drainOne
  repeat' first
    | (intro _)
    | with_reducible assumption
    | (extract_lets +onlyGivenNames x; first | (refine (fun hx => ?_ : State.Keeps s0 x → _) ?_; (on_goal 1 => clear_value x); (on_goal 2 => subst x)) | clear_value x)
    | (with_reducible first | apply State.updUnit_keeps | apply State.checkOld_keeps | apply State.poisRegs_keeps | apply State.updMem_keeps | apply State.memTrace_keeps | apply State.poisonWords_keeps | apply State.trapCore_keeps | apply State.event_keeps)
    | with_reducible exact fun _ h => h
    | split
    | (fail_if_no_progress beta_reduce)

theorem State.writeGate_keeps {s0 s : State} (h : s0.Keeps s) (a1 : Nat) (w : Option MemWrite) :
    s0.Keeps (State.writeGate s a1 w).1 := by
  unfold State.writeGate
  repeat' first
    | (intro _)
    | with_reducible assumption
    | (with_reducible first | apply State.event_keeps)
    | with_reducible exact fun _ h => h
    | split

theorem execMergeDrain_keeps (s : State) (mem : Fin 9) (arrived : Option MemWrite) (busy : Bool) (t : MemTile) :
    State.KeepsOut s (execMergeDrain mem arrived busy t s) := by
  unfold execMergeDrain
  first | apply State.live_keeps | apply State.liveOn_keeps | apply keepsOut_next
  repeat' first
    | (intro _)
    | with_reducible assumption
    | (extract_lets +onlyGivenNames x; first | (refine (fun hx => ?_ : State.Keeps s x → _) ?_; (on_goal 1 => clear_value x); (on_goal 2 => subst x)) | (refine (fun hx => ?_ : State.Keeps s x.1 → _) ?_; (on_goal 1 => clear_value x); (on_goal 2 => subst x)) | (refine (fun hx => ?_ : State.Keeps s x.2 → _) ?_; (on_goal 1 => clear_value x); (on_goal 2 => subst x)) | clear_value x)
    | with_reducible exact State.Keeps.refl _
    | (with_reducible first | apply State.writeGate_keeps | apply State.drainOne_keeps | apply State.updUnit_keeps | apply State.inc_keeps)
    | with_reducible exact fun _ h => h
    | split
    | (fail_if_no_progress beta_reduce)

theorem execFetchTrap_keeps (s : State) (core : Fin 8) (mem : Fin 9) (addr : BitVec 32) (synd : Word) (unwritten : Bool) :
    State.KeepsOut s (execFetchTrap core mem addr synd unwritten s) := by
  unfold execFetchTrap
  first | apply State.live_keeps | apply State.liveOn_keeps | apply keepsOut_next
  repeat' first
    | (intro _)
    | with_reducible assumption
    | (extract_lets +onlyGivenNames x; first | (refine (fun hx => ?_ : State.Keeps s x → _) ?_; (on_goal 1 => clear_value x); (on_goal 2 => subst x)) | clear_value x)
    | with_reducible exact State.Keeps.refl _
    | (with_reducible first | apply State.iff_keeps | apply State.memTrace_keeps | apply State.poisonWords_keeps | apply State.trapCore_keeps)
    | with_reducible exact fun _ h => h
    | split
    | (fail_if_no_progress beta_reduce)

theorem State.cvuLoad_keeps {s0 s : State} (h : s0.Keeps s) (u : Nat) (ok : Bool) :
    s0.Keeps (State.cvuLoad s u ok) := by
  unfold State.cvuLoad
  repeat' first
    | (intro _)
    | with_reducible assumption
    | (extract_lets +onlyGivenNames x; first | (refine (fun hx => ?_ : State.Keeps s0 x → _) ?_; (on_goal 1 => clear_value x); (on_goal 2 => subst x)) | clear_value x)
    | (with_reducible first | apply State.setFlag_keeps | apply State.setFld_keeps | apply State.startTimer_keeps | apply State.stopTimer_keeps | apply State.event_keeps)
    | with_reducible exact fun _ h => h
    | split

theorem State.cvuAct_keeps {s0 s : State} (h : s0.Keeps s) (u : Nat) :
    s0.Keeps (State.cvuAct s u) := by
  unfold State.cvuAct
  repeat' first
    | (intro _)
    | with_reducible assumption
    | (extract_lets +onlyGivenNames x; first | (refine (fun hx => ?_ : State.Keeps s0 x → _) ?_; (on_goal 1 => clear_value x); (on_goal 2 => subst x)) | clear_value x)
    | (with_reducible first | apply State.deferStart_keeps | apply State.loadTable_keeps | apply State.haltCore_keeps | apply State.setFld_keeps | apply State.each_keeps | apply State.stopTimer_keeps)
    | with_reducible exact fun _ h => h
    | split

theorem execCvuSweep_keeps (s : State) (cvu : Fin 8) (crc : Word) (unc : Bool) :
    State.KeepsOut s (execCvuSweep cvu crc unc s) := by
  unfold execCvuSweep
  first | apply State.live_keeps | apply keepsOut_next
  repeat' first
    | (intro _)
    | with_reducible assumption
    | (extract_lets +onlyGivenNames x; first | (refine (fun hx => ?_ : State.Keeps s x → _) ?_; (on_goal 1 => clear_value x); (on_goal 2 => subst x)) | clear_value x)
    | with_reducible exact State.Keeps.refl _
    | (with_reducible first | apply State.iff_keeps | apply State.setFld_keeps | apply State.startTimer_keeps | apply State.cvuAct_keeps | apply State.inc_keeps | apply State.event_keeps)
    | with_reducible exact fun _ h => h
    | split

theorem execCvuGuardHit_keeps (s : State) (cvu : Fin 8) (writer : Fin 8) (addr : BitVec 32) :
    State.KeepsOut s (execCvuGuardHit cvu writer addr s) := by
  unfold execCvuGuardHit
  first | apply State.live_keeps | apply keepsOut_next
  repeat' first
    | (intro _)
    | with_reducible assumption
    | (extract_lets +onlyGivenNames x; first | clear_value x)
    | with_reducible exact State.Keeps.refl _
    | (with_reducible first | apply State.cvuAct_keeps | apply State.inc_keeps | apply State.event_keeps)
    | with_reducible exact fun _ h => h
    | split

theorem State.poisonHalt_keeps {s0 s : State} (h : s0.Keeps s) (m : Nat) (ws : List Nat) :
    s0.Keeps (State.poisonHalt s m ws) := by
  unfold State.poisonHalt
  repeat' first
    | (intro _)
    | with_reducible assumption
    | (with_reducible first | apply State.haltCore_keeps)
    | with_reducible exact fun _ h => h
    | split

theorem State.scrubNext_keeps {s0 s : State} (h : s0.Keeps s) (m : Nat) :
    s0.Keeps (State.scrubNext s m) := by
  unfold State.scrubNext
  repeat' first
    | (intro _)
    | with_reducible assumption
    | (extract_lets +onlyGivenNames x; first | (refine (fun hx => ?_ : State.Keeps s0 x → _) ?_; (on_goal 1 => clear_value x); (on_goal 2 => subst x)) | clear_value x)
    | (with_reducible first | apply State.setSat_keeps | apply State.setFld_keeps | apply State.startTimer_keeps | apply State.updUnit_keeps)
    | with_reducible exact fun _ h => h
    | split

theorem execScrubTile_keeps (s : State) (mem : Fin 9) (t : MemTile) (stuck : Bool) :
    State.KeepsOut s (execScrubTile mem t stuck s) := by
  unfold execScrubTile
  first | apply State.live_keeps | apply State.liveOn_keeps | apply keepsOut_next
  repeat' first
    | (intro _)
    | with_reducible assumption
    | (extract_lets +onlyGivenNames x; first | (refine (fun hx => ?_ : State.Keeps s x → _) ?_; (on_goal 1 => clear_value x); (on_goal 2 => subst x)) | clear_value x)
    | with_reducible exact State.Keeps.refl _
    | (with_reducible first | apply State.iff_keeps | apply State.startTimer_keeps | apply State.poisonWords_keeps | apply State.corrected_keeps | apply State.memTrace_keeps | apply State.inc_keeps | apply State.updMem_keeps | apply State.poisonHalt_keeps | apply State.event_keeps | apply State.scrubNext_keeps)
    | with_reducible exact fun _ h => h
    | split
    | (fail_if_no_progress beta_reduce)

theorem execScrubPassLate_keeps (s : State) (mem : Fin 9) :
    State.KeepsOut s (execScrubPassLate mem s) := by
  unfold execScrubPassLate
  first | apply State.live_keeps | apply keepsOut_next
  repeat' first
    | (intro _)
    | with_reducible assumption
    | (extract_lets +onlyGivenNames x; first | (refine (fun hx => ?_ : State.Keeps s x → _) ?_; (on_goal 1 => clear_value x); (on_goal 2 => subst x)) | clear_value x)
    | with_reducible exact State.Keeps.refl _
    | (with_reducible first | apply State.iff_keeps | apply State.setFld_keeps | apply State.updUnit_keeps | apply State.event_keeps)
    | with_reducible exact fun _ h => h
    | split

theorem State.memStart_keeps {s0 s : State} (h : s0.Keeps s) (bad : List (Nat × Nat)) :
    s0.Keeps (State.memStart s bad) := by
  unfold State.memStart
  repeat' first
    | (intro _)
    | with_reducible assumption
    | (extract_lets +onlyGivenNames x; first | (refine (fun hx => ?_ : State.Keeps s0 x → _) ?_; (on_goal 1 => clear_value x); (on_goal 2 => subst x)) | clear_value x)
    | (with_reducible first | apply State.updMem_keeps | apply State.each_keeps | apply State.setSat_keeps | apply State.updUnit_keeps | apply State.poisRegs_keeps | apply State.setFld_keeps | apply State.startTimer_keeps)
    | with_reducible exact fun _ h => h
    | split
    | (fail_if_no_progress beta_reduce)

theorem State.copyLost_keeps {s0 s : State} (h : s0.Keeps s) (i : Nat) (addr : Nat) :
    s0.Keeps (State.copyLost s i addr) := by
  unfold State.copyLost
  repeat' first
    | (intro _)
    | with_reducible assumption
    | (extract_lets +onlyGivenNames x; first | (refine (fun hx => ?_ : State.Keeps s0 x → _) ?_; (on_goal 1 => clear_value x); (on_goal 2 => subst x)) | clear_value x)
    | (with_reducible first | apply State.setFld_keeps | apply State.trapCore_keeps | apply State.event_keeps | apply State.updMem_keeps)
    | with_reducible exact fun _ h => h
    | split
    | (fail_if_no_progress beta_reduce)

theorem State.copiesTick_keeps {s0 s : State} (h : s0.Keeps s) :
    s0.Keeps (State.copiesTick s) := by
  unfold State.copiesTick
  repeat' first
    | (intro _)
    | with_reducible assumption
    | (with_reducible first | apply State.updMem_keeps)
    | with_reducible exact fun _ h => h
    | split

theorem State.memTick_keeps {s0 s : State} (h : s0.Keeps s) (bad : List (Nat × Nat)) (unwr : List (Nat × Nat)) :
    s0.Keeps (State.memTick s bad unwr) := by
  unfold State.memTick
  repeat' first
    | (intro _)
    | with_reducible assumption
    | (extract_lets +onlyGivenNames x; first | (refine (fun hx => ?_ : State.Keeps s0 x → _) ?_; (on_goal 1 => clear_value x); (on_goal 2 => subst x)) | clear_value x)
    | (with_reducible first | apply State.updMem_keeps | apply State.iff_keeps | apply State.each_keeps | apply State.updUnit_keeps | apply State.backAll_keeps | apply State.copiesTick_keeps | apply State.copyLost_keeps | apply State.event_keeps | apply State.setSat_keeps)
    | with_reducible exact fun _ h => h
    | split
    | (fail_if_no_progress beta_reduce)

end Sys2Proof.Machine
end

