-- ==== Sys2Proof/Laws/KeepsModes.lean ====
section
/-!
SUPPORT. What every command keeps, for the operations and commands of Machine/Modes.lean.
-/

set_option linter.all false

namespace Sys2Proof.Machine

open Sys2Proof

theorem State.modeRefuse_keeps {s0 s : State} (h : s0.Keeps s) (target : Nat) (reason : Nat) :
    s0.Keeps (State.modeRefuse s target reason) := by
  unfold State.modeRefuse
  repeat' first
    | (intro _)
    | with_reducible assumption
    | (with_reducible first | apply State.setFld_keeps | apply State.event_keeps)
    | with_reducible exact fun _ h => h
    | split

theorem State.modeStops_keeps {s0 s : State} (h : s0.Keeps s) (req : Nat) :
    s0.Keeps (State.modeStops s req) := by
  unfold State.modeStops
  repeat' first
    | (intro _)
    | with_reducible assumption
    | (extract_lets +onlyGivenNames x; first | (refine (fun hx => ?_ : State.Keeps s0 x → _) ?_; (on_goal 1 => clear_value x); (on_goal 2 => subst x)) | clear_value x)
    | (with_reducible first | apply State.evseStopAll_keeps | apply State.startTimer_keeps | apply State.each_keeps | apply State.updSys_keeps)
    | with_reducible exact fun _ h => h
    | split

theorem State.modeReq_keeps {s0 s : State} (h : s0.Keeps s) (target : Nat) :
    s0.Keeps (State.modeReq s target) := by
  unfold State.modeReq
  repeat' first
    | (intro _)
    | with_reducible assumption
    | (extract_lets +onlyGivenNames x; first | (refine (fun hx => ?_ : State.Keeps s0 x → _) ?_; (on_goal 1 => clear_value x); (on_goal 2 => subst x)) | clear_value x)
    | (with_reducible first | apply State.modeRefuse_keeps | apply State.setMode_keeps | apply State.modeStops_keeps | apply State.iff_keeps | apply State.event_keeps | apply State.setFlag_keeps | apply State.startTimer_keeps | apply State.beginStart_keeps)
    | with_reducible exact fun _ h => h
    | split
    | (fail_if_no_progress beta_reduce)

theorem execMdReqCommission_keeps (s : State) :
    State.KeepsOut s (execMdReqCommission s) := by
  unfold execMdReqCommission
  first | apply State.live_keeps | apply keepsOut_next
  repeat' first
    | (intro _)
    | with_reducible assumption
    | with_reducible exact State.Keeps.refl _
    | (with_reducible first | apply State.modeReq_keeps)
    | with_reducible exact fun _ h => h
    | split

theorem execMdReqStandby_keeps (s : State) :
    State.KeepsOut s (execMdReqStandby s) := by
  unfold execMdReqStandby
  first | apply State.live_keeps | apply keepsOut_next
  repeat' first
    | (intro _)
    | with_reducible assumption
    | with_reducible exact State.Keeps.refl _
    | (with_reducible first | apply State.modeReq_keeps)
    | with_reducible exact fun _ h => h
    | split

theorem execMdReqRun_keeps (s : State) :
    State.KeepsOut s (execMdReqRun s) := by
  unfold execMdReqRun
  first | apply State.live_keeps | apply keepsOut_next
  repeat' first
    | (intro _)
    | with_reducible assumption
    | with_reducible exact State.Keeps.refl _
    | (with_reducible first | apply State.modeReq_keeps)
    | with_reducible exact fun _ h => h
    | split

theorem execMdReqBench_keeps (s : State) :
    State.KeepsOut s (execMdReqBench s) := by
  unfold execMdReqBench
  first | apply State.live_keeps | apply keepsOut_next
  repeat' first
    | (intro _)
    | with_reducible assumption
    | with_reducible exact State.Keeps.refl _
    | (with_reducible first | apply State.modeReq_keeps)
    | with_reducible exact fun _ h => h
    | split

theorem execMdReqStart_keeps (s : State) :
    State.KeepsOut s (execMdReqStart s) := by
  unfold execMdReqStart
  first | apply State.live_keeps | apply keepsOut_next
  repeat' first
    | (intro _)
    | with_reducible assumption
    | with_reducible exact State.Keeps.refl _
    | (with_reducible first | apply State.modeReq_keeps)
    | with_reducible exact fun _ h => h
    | split

theorem execStandbyEntry_keeps (s : State) :
    State.KeepsOut s (execStandbyEntry s) := by
  unfold execStandbyEntry
  first | apply State.live_keeps | apply keepsOut_next
  repeat' first
    | (intro _)
    | with_reducible assumption
    | with_reducible exact State.Keeps.refl _
    | (with_reducible first | apply State.beginStart_keeps | apply State.setMode_keeps)
    | with_reducible exact fun _ h => h
    | split

theorem execStandbyStopTimeout_keeps (s : State) :
    State.KeepsOut s (execStandbyStopTimeout s) := by
  unfold execStandbyStopTimeout
  first | apply State.live_keeps | apply keepsOut_next
  repeat' first
    | (intro _)
    | with_reducible assumption
    | with_reducible exact State.Keeps.refl _
    | (with_reducible first | apply State.controlledStop_keeps | apply State.each_keeps | apply State.safetyEnd_keeps | apply State.stopTimer_keeps)
    | with_reducible exact fun _ h => h
    | split

theorem State.benchClose_keeps {s0 s : State} (h : s0.Keeps s) :
    s0.Keeps (State.benchClose s) := by
  unfold State.benchClose
  repeat' first
    | (intro _)
    | with_reducible assumption
    | (with_reducible first | apply State.setFlag_keeps | apply State.stopTimer_keeps)
    | with_reducible exact fun _ h => h
    | split

theorem execBenchWindowExpiry_keeps (s : State) :
    State.KeepsOut s (execBenchWindowExpiry s) := by
  unfold execBenchWindowExpiry
  first | apply State.live_keeps | apply keepsOut_next
  repeat' first
    | (intro _)
    | with_reducible assumption
    | with_reducible exact State.Keeps.refl _
    | (with_reducible first | apply State.modeRefuse_keeps | apply State.benchClose_keeps)
    | with_reducible exact fun _ h => h
    | split

theorem State.holdCore_keeps {s0 s : State} (h : s0.Keeps s) (i : Nat) (new : Nat) :
    s0.Keeps (State.holdCore s i new) := by
  unfold State.holdCore
  repeat' first
    | (intro _)
    | with_reducible assumption
    | (extract_lets +onlyGivenNames x; first | (refine (fun hx => ?_ : State.Keeps s0 x → _) ?_; (on_goal 1 => clear_value x); (on_goal 2 => subst x)) | clear_value x)
    | (with_reducible first | apply State.iff_keeps | apply State.setFld_keeps)
    | with_reducible exact fun _ h => h
    | split

theorem State.coresTo_keeps {s0 s : State} (h : s0.Keeps s) (now : Nat) (new : Nat) :
    s0.Keeps (State.coresTo s now new) := by
  unfold State.coresTo
  repeat' first
    | (intro _)
    | with_reducible assumption
    | (with_reducible first | apply State.iff_keeps | apply State.holdCore_keeps | apply State.each_keeps)
    | with_reducible exact fun _ h => h
    | split

theorem State.hostHold_keeps {s0 s : State} (h : s0.Keeps s) (hold : Bool) :
    s0.Keeps (State.hostHold s hold) := by
  unfold State.hostHold
  repeat' first
    | (intro _)
    | with_reducible assumption
    | (with_reducible first | apply State.setFlag_keeps)
    | with_reducible exact fun _ h => h
    | split

theorem execBnHold_keeps (s : State) (hold : Bool) :
    State.KeepsOut s (execBnHold hold s) := by
  unfold execBnHold
  first | apply State.live_keeps | apply keepsOut_next
  repeat' first
    | (intro _)
    | with_reducible assumption
    | with_reducible exact State.Keeps.refl _
    | (with_reducible first | apply State.hostHold_keeps)
    | with_reducible exact fun _ h => h
    | split

theorem State.benchTick_keeps {s0 s : State} (h : s0.Keeps s) :
    s0.Keeps (State.benchTick s) := by
  unfold State.benchTick
  repeat' first
    | (intro _)
    | with_reducible assumption
    | (with_reducible first | apply State.setFlag_keeps | apply State.iff_keeps | apply State.coresTo_keeps | apply State.updSys_keeps)
    | with_reducible exact fun _ h => h
    | split

theorem State.hostStep_keeps {s0 s : State} (h : s0.Keeps s) (n : Nat) :
    s0.Keeps (State.hostStep s n) := by
  unfold State.hostStep
  repeat' first
    | (intro _)
    | with_reducible assumption
    | (extract_lets +onlyGivenNames x; first | (refine (fun hx => ?_ : State.Keeps s0 x → _) ?_; (on_goal 1 => clear_value x); (on_goal 2 => subst x)) | clear_value x)
    | (with_reducible first | apply State.setFlag_keeps | apply State.coresTo_keeps | apply State.setFld_keeps | apply State.updSys_keeps)
    | with_reducible exact fun _ h => h
    | split

theorem execBnStep_keeps (s : State) (n : BitVec 16) :
    State.KeepsOut s (execBnStep n s) := by
  unfold execBnStep
  first | apply State.live_keeps | apply keepsOut_next
  repeat' first
    | (intro _)
    | with_reducible assumption
    | with_reducible exact State.Keeps.refl _
    | (with_reducible first | apply State.hostStep_keeps)
    | with_reducible exact fun _ h => h
    | split

theorem State.benchCf_keeps {s0 s : State} (h : s0.Keeps s) :
    s0.Keeps (State.benchCf s) := by
  unfold State.benchCf
  repeat' first
    | (intro _)
    | with_reducible assumption
    | (with_reducible first | apply State.updSys_keeps)
    | with_reducible exact fun _ h => h
    | split

theorem execBenchStepDone_keeps (s : State) :
    State.KeepsOut s (execBenchStepDone s) := by
  unfold execBenchStepDone
  first | apply State.live_keeps | apply keepsOut_next
  repeat' first
    | (intro _)
    | with_reducible assumption
    | with_reducible exact State.Keeps.refl _
    | (with_reducible first | apply State.setFlag_keeps | apply State.coresTo_keeps | apply State.updSys_keeps | apply State.event_keeps)
    | with_reducible exact fun _ h => h
    | split

theorem State.takeSup_keeps {s0 s : State} (h : s0.Keeps s) (a : Nat) (b : Nat) :
    s0.Keeps (State.takeSup s a b) := by
  unfold State.takeSup
  repeat' first
    | (intro _)
    | with_reducible assumption
    | (with_reducible first | apply State.setFlag_keeps | apply State.setSat_keeps)
    | with_reducible exact fun _ h => h
    | split

theorem execPowerUp_keeps (s : State) (a : BitVec 16) (b : BitVec 16) :
    State.KeepsOut s (execPowerUp a b s) := by
  unfold execPowerUp
  first | apply State.live_keeps | apply keepsOut_next
  repeat' first
    | (intro _)
    | with_reducible assumption
    | (extract_lets +onlyGivenNames x; first | clear_value x)
    | with_reducible exact State.Keeps.refl _
    | (with_reducible first | apply State.takeSup_keeps | apply State.beginStart_keeps)
    | with_reducible exact fun _ h => h
    | split

theorem execLogicInputExcursion_keeps (s : State) (a : BitVec 16) (b : BitVec 16) :
    State.KeepsOut s (execLogicInputExcursion a b s) := by
  unfold execLogicInputExcursion
  first | apply State.live_keeps | apply keepsOut_next
  repeat' first
    | (intro _)
    | with_reducible assumption
    | (extract_lets +onlyGivenNames x; first | (refine (fun hx => ?_ : State.Keeps s x → _) ?_; (on_goal 1 => clear_value x); (on_goal 2 => subst x)) | clear_value x)
    | with_reducible exact State.Keeps.refl _
    | (with_reducible first | apply State.takeSup_keeps | apply State.inc_keeps | apply State.event_keeps)
    | with_reducible exact fun _ h => h
    | split

theorem execHoldEntry_keeps (s : State) (a : BitVec 16) (b : BitVec 16) (met : List MetOutIn) (feeds : List FeedIn) :
    State.KeepsOut s (execHoldEntry a b met feeds s) := by
  unfold execHoldEntry
  first | apply State.live_keeps | apply State.liveOn_keeps | apply keepsOut_next
  repeat' first
    | (intro _)
    | with_reducible assumption
    | (extract_lets +onlyGivenNames x; first | (refine (fun hx => ?_ : State.Keeps s x → _) ?_; (on_goal 1 => clear_value x); (on_goal 2 => subst x)) | clear_value x)
    | with_reducible exact State.Keeps.refl _
    | (with_reducible first | apply State.takeSup_keeps | apply State.each_keeps | apply State.updVh_keeps | apply State.event_keeps | apply State.inc_keeps | apply State.setFlag_keeps | apply State.iff_keeps | apply State.earlyCommit_keeps)
    | with_reducible exact fun _ h => h
    | split
    | (fail_if_no_progress beta_reduce)

theorem execHoldEnd_keeps (s : State) (a : BitVec 16) (b : BitVec 16) :
    State.KeepsOut s (execHoldEnd a b s) := by
  unfold execHoldEnd
  first | apply State.live_keeps | apply keepsOut_next
  repeat' first
    | (intro _)
    | with_reducible assumption
    | (extract_lets +onlyGivenNames x; first | (refine (fun hx => ?_ : State.Keeps s x → _) ?_; (on_goal 1 => clear_value x); (on_goal 2 => subst x)) | clear_value x)
    | with_reducible exact State.Keeps.refl _
    | (with_reducible first | apply State.setFlag_keeps | apply State.updVh_keeps | apply State.takeSup_keeps | apply State.each_keeps | apply State.event_keeps)
    | with_reducible exact fun _ h => h
    | split

theorem State.shedCores_keeps {s0 s : State} (h : s0.Keeps s) (cores : List Nat) (mask : Nat) :
    s0.Keeps (State.shedCores s cores mask) := by
  unfold State.shedCores
  repeat' first
    | (intro _)
    | with_reducible assumption
    | (with_reducible first | apply State.setFld_keeps | apply State.each_keeps | apply State.pdSet_keeps)
    | with_reducible exact fun _ h => h
    | split

theorem State.closeOut_keeps {s0 s : State} (h : s0.Keeps s) :
    s0.Keeps (State.closeOut s) := by
  unfold State.closeOut
  repeat' first
    | (intro _)
    | with_reducible assumption
    | (with_reducible first | apply State.shedCores_keeps | apply State.setFld_keeps | apply State.updSys_keeps)
    | with_reducible exact fun _ h => h
    | split

theorem execStoreSwitch_keeps (s : State) (a : BitVec 16) (b : BitVec 16) :
    State.KeepsOut s (execStoreSwitch a b s) := by
  unfold execStoreSwitch
  first | apply State.live_keeps | apply State.liveOn_keeps | apply keepsOut_next
  repeat' first
    | (intro _)
    | with_reducible assumption
    | (extract_lets +onlyGivenNames x; first | (refine (fun hx => ?_ : State.Keeps s x → _) ?_; (on_goal 1 => clear_value x); (on_goal 2 => subst x)) | clear_value x)
    | with_reducible exact State.Keeps.refl _
    | (with_reducible first | apply State.takeSup_keeps | apply State.event_keeps | apply State.inc_keeps | apply State.setFlag_keeps | apply State.updSys_keeps | apply State.stopTimer_keeps | apply State.pauseCut_keeps | apply State.twinAnnounce_keeps | apply State.iff_keeps | apply State.rotAbandon_keeps | apply State.pdSet_keeps)
    | with_reducible exact fun _ h => h
    | split
    | (fail_if_no_progress beta_reduce)

theorem execSheddingStep_keeps (s : State) :
    State.KeepsOut s (execSheddingStep s) := by
  unfold execSheddingStep
  first | apply State.live_keeps | apply State.liveOn_keeps | apply keepsOut_next
  repeat' first
    | (intro _)
    | with_reducible assumption
    | (extract_lets +onlyGivenNames x; first | (refine (fun hx => ?_ : State.Keeps s x → _) ?_; (on_goal 1 => clear_value x); (on_goal 2 => subst x)) | clear_value x)
    | with_reducible exact State.Keeps.refl _
    | (with_reducible first | apply State.updSys_keeps | apply State.each_keeps | apply State.setClamp_keeps | apply State.stopLines_keeps | apply State.pairOffSoon_keeps | apply State.shedCores_keeps | apply State.closeOut_keeps | apply State.linkGone_keeps | apply State.hostQuiet_keeps)
    | with_reducible exact fun _ h => h
    | split
    | (fail_if_no_progress beta_reduce)

theorem execHoldupFinalCommit_keeps (s : State) :
    State.KeepsOut s (execHoldupFinalCommit s) := by
  unfold execHoldupFinalCommit
  first | apply State.live_keeps | apply State.liveOn_keeps | apply keepsOut_next
  repeat' first
    | (intro _)
    | with_reducible assumption
    | with_reducible exact State.Keeps.refl _
    | (with_reducible first | apply State.closeOut_keeps | apply State.shedCores_keeps | apply State.event_keeps)
    | with_reducible exact fun _ h => h
    | split

theorem State.slotRegs_keeps {s0 s : State} (h : s0.Keeps s) (k : Nat) (c : CapSlot) :
    s0.Keeps (State.slotRegs s k c) := by
  unfold State.slotRegs
  repeat' first
    | (intro _)
    | with_reducible assumption
    | (extract_lets +onlyGivenNames x; first | (refine (fun hx => ?_ : State.Keeps s0 x → _) ?_; (on_goal 1 => clear_value x); (on_goal 2 => subst x)) | clear_value x)
    | (with_reducible first | apply State.setSat_keeps | apply State.setFld_keeps)
    | with_reducible exact fun _ h => h
    | split

theorem State.capIndex_keeps {s0 s : State} (h : s0.Keeps s) (k : Nat) (c : CapSlot) :
    s0.Keeps (State.capIndex s k c) := by
  unfold State.capIndex
  repeat' first
    | (intro _)
    | with_reducible assumption
    | (extract_lets +onlyGivenNames x; first | (refine (fun hx => ?_ : State.Keeps s0 x → _) ?_; (on_goal 1 => clear_value x); (on_goal 2 => subst x)) | clear_value x)
    | (with_reducible first | apply State.slotRegs_keeps | apply State.setFld_keeps | apply State.updSys_keeps | apply State.tagCapture_keeps)
    | with_reducible exact fun _ h => h
    | split

theorem State.capDone_keeps {s0 s : State} (h : s0.Keeps s) (sections : Nat) (bytes : Nat) (status : Nat) :
    s0.Keeps (State.capDone s sections bytes status) := by
  unfold State.capDone
  repeat' first
    | (intro _)
    | with_reducible assumption
    | (extract_lets +onlyGivenNames x; first | (refine (fun hx => ?_ : State.Keeps s0 x → _) ?_; (on_goal 1 => clear_value x); (on_goal 2 => subst x)) | clear_value x)
    | (with_reducible first | apply State.capIndex_keeps | apply State.updSys_keeps | apply State.event_keeps)
    | with_reducible exact fun _ h => h
    | split

theorem State.capCut_keeps {s0 s : State} (h : s0.Keeps s) :
    s0.Keeps (State.capCut s) := by
  unfold State.capCut
  repeat' first
    | (intro _)
    | with_reducible assumption
    | (extract_lets +onlyGivenNames x; first | (refine (fun hx => ?_ : State.Keeps s0 x → _) ?_; (on_goal 1 => clear_value x); (on_goal 2 => subst x)) | (refine (fun hx => ?_ : State.Keeps s0 x.2 → _) ?_; (on_goal 1 => clear_value x); (on_goal 2 => subst x)) | clear_value x)
    | (with_reducible first | apply State.draw_keeps | apply State.capDone_keeps)
    | with_reducible exact fun _ h => h
    | split

theorem State.clockStop_keeps {s0 s : State} (h : s0.Keeps s) (kind : Nat) (r : FrzReq) :
    s0.Keeps (State.clockStop s kind r) := by
  unfold State.clockStop
  repeat' first
    | (intro _)
    | with_reducible assumption
    | (extract_lets +onlyGivenNames x; first | (refine (fun hx => ?_ : State.Keeps s0 x → _) ?_; (on_goal 1 => clear_value x); (on_goal 2 => subst x)) | clear_value x)
    | (with_reducible first | apply State.stopTimer_keeps | apply State.updSys_keeps | apply State.iff_keeps | apply State.rotAbandon_keeps | apply State.setMode_keeps | apply State.pdSwitch_keeps | apply State.hostQuiet_keeps | apply State.linkGone_keeps | apply State.each_keeps | apply State.holdCore_keeps | apply State.event_keeps | apply State.capIndex_keeps | apply State.tagCapture_keeps | apply foldl_keeps)
    | with_reducible exact fun _ h => h
    | split
    | (fail_if_no_progress beta_reduce)

theorem State.freezeReq_keeps {s0 s : State} (h : s0.Keeps s) (src : Nat) :
    s0.Keeps (State.freezeReq s src) := by
  unfold State.freezeReq
  repeat' first
    | (intro _)
    | with_reducible assumption
    | (extract_lets +onlyGivenNames x; first | (refine (fun hx => ?_ : State.Keeps s0 x → _) ?_; (on_goal 1 => clear_value x); (on_goal 2 => subst x)) | clear_value x)
    | (with_reducible first | apply State.pauseCut_keeps | apply State.clockStop_keeps | apply State.safeState_keeps | apply State.frzMark_keeps)
    | with_reducible exact fun _ h => h
    | split

theorem execFreezeNAsserted_keeps (s : State) :
    State.KeepsOut s (execFreezeNAsserted s) := by
  unfold execFreezeNAsserted
  first | apply State.live_keeps | apply keepsOut_next
  repeat' first
    | (intro _)
    | with_reducible assumption
    | with_reducible exact State.Keeps.refl _
    | (with_reducible first | apply State.freezeReq_keeps)
    | with_reducible exact fun _ h => h
    | split

theorem execFrzReq_keeps (s : State) :
    State.KeepsOut s (execFrzReq s) := by
  unfold execFrzReq
  first | apply State.live_keeps | apply keepsOut_next
  repeat' first
    | (intro _)
    | with_reducible assumption
    | with_reducible exact State.Keeps.refl _
    | (with_reducible first | apply State.freezeReq_keeps)
    | with_reducible exact fun _ h => h
    | split

theorem State.freezeTick_keeps {s0 s : State} (h : s0.Keeps s) :
    s0.Keeps (State.freezeTick s) := by
  unfold State.freezeTick
  repeat' first
    | (intro _)
    | with_reducible assumption
    | (with_reducible first | apply State.hostQuiet_keeps | apply State.updSys_keeps)
    | with_reducible exact fun _ h => h
    | split

theorem execFreezeClockStop_keeps (s : State) :
    State.KeepsOut s (execFreezeClockStop s) := by
  unfold execFreezeClockStop
  first | apply State.live_keeps | apply State.liveOn_keeps | apply keepsOut_next
  repeat' first
    | (intro _)
    | with_reducible assumption
    | with_reducible exact State.Keeps.refl _
    | (with_reducible first | apply State.clockStop_keeps)
    | with_reducible exact fun _ h => h
    | split

theorem execCaptureEnd_keeps (s : State) (sections : Nat) (bytes : Nat) (ok : Bool) :
    State.KeepsOut s (execCaptureEnd sections bytes ok s) := by
  unfold execCaptureEnd
  first | apply State.live_keeps | apply keepsOut_next
  repeat' first
    | (intro _)
    | with_reducible assumption
    | (extract_lets +onlyGivenNames x; first | (refine (fun hx => ?_ : State.Keeps s x → _) ?_; (on_goal 1 => clear_value x); (on_goal 2 => subst x)) | clear_value x)
    | with_reducible exact State.Keeps.refl _
    | (with_reducible first | apply State.iff_keeps | apply State.capDone_keeps | apply State.pdSwitch_keeps | apply State.beginStart_keeps)
    | with_reducible exact fun _ h => h
    | split

theorem execCaptureEngineTest_keeps (s : State) (pass : Bool) :
    State.KeepsOut s (execCaptureEngineTest pass s) := by
  unfold execCaptureEngineTest
  first | apply State.live_keeps | apply keepsOut_next
  repeat' first
    | (intro _)
    | with_reducible assumption
    | (extract_lets +onlyGivenNames x; first | (refine (fun hx => ?_ : State.Keeps s x → _) ?_; (on_goal 1 => clear_value x); (on_goal 2 => subst x)) | clear_value x)
    | with_reducible exact State.Keeps.refl _
    | (with_reducible first | apply State.setFlag_keeps | apply State.iff_keeps | apply State.startTimer_keeps | apply State.updSys_keeps | apply State.event_keeps | apply State.faultSeen_keeps)
    | with_reducible exact fun _ h => h
    | split

theorem State.capPort_keeps {s0 s : State} (h : s0.Keeps s) (b : List Byte) :
    s0.Keeps (State.capPort s b) := by
  unfold State.capPort
  repeat' first
    | (intro _)
    | with_reducible assumption
    | (with_reducible first | apply State.updSys_keeps)
    | with_reducible exact fun _ h => h
    | split

theorem execCapRead_keeps (s : State) (addr : BitVec 32) (n : Nat) :
    State.KeepsOut s (execCapRead addr n s) := by
  unfold execCapRead
  first | apply State.live_keeps | apply keepsOut_next
  repeat' first
    | (intro _)
    | with_reducible assumption
    | with_reducible exact State.Keeps.refl _
    | (with_reducible first | apply State.capPort_keeps)
    | with_reducible exact fun _ h => h
    | split

theorem execReadIndex_keeps (s : State) (n : Nat) :
    State.KeepsOut s (execReadIndex n s) := by
  unfold execReadIndex
  first | apply State.live_keeps | apply keepsOut_next
  repeat' first
    | (intro _)
    | with_reducible assumption
    | with_reducible exact State.Keeps.refl _
    | (with_reducible first | apply State.capPort_keeps)
    | with_reducible exact fun _ h => h
    | split

theorem execStoreCharged_keeps (s : State) (v : BitVec 16) :
    State.KeepsOut s (execStoreCharged v s) := by
  unfold execStoreCharged
  first | apply State.live_keeps | apply keepsOut_next
  repeat' first
    | (intro _)
    | with_reducible assumption
    | with_reducible exact State.Keeps.refl _
    | (with_reducible first | apply State.setFlag_keeps | apply State.setFld_keeps)
    | with_reducible exact fun _ h => h
    | split

theorem execStoreTest_keeps (s : State) (euse : BitVec 16) :
    State.KeepsOut s (execStoreTest euse s) := by
  unfold execStoreTest
  first | apply State.live_keeps | apply keepsOut_next
  repeat' first
    | (intro _)
    | with_reducible assumption
    | (extract_lets +onlyGivenNames x; first | (refine (fun hx => ?_ : State.Keeps s x → _) ?_; (on_goal 1 => clear_value x); (on_goal 2 => subst x)) | clear_value x)
    | with_reducible exact State.Keeps.refl _
    | (with_reducible first | apply State.setFlag_keeps | apply State.iff_keeps | apply State.setFld_keeps | apply State.startTimer_keeps | apply State.updSys_keeps | apply State.event_keeps | apply State.faultSeen_keeps)
    | with_reducible exact fun _ h => h
    | split

theorem execEndOfStore_keeps (s : State) (met : List MetOutIn) (feeds : List FeedIn) :
    State.KeepsOut s (execEndOfStore met feeds s) := by
  unfold execEndOfStore
  first | apply State.live_keeps | apply State.liveOn_keeps | apply keepsOut_next
  repeat' first
    | (intro _)
    | with_reducible assumption
    | (extract_lets +onlyGivenNames x; first | (refine (fun hx => ?_ : State.Keeps s x → _) ?_; (on_goal 1 => clear_value x); (on_goal 2 => subst x)) | clear_value x)
    | with_reducible exact State.Keeps.refl _
    | (with_reducible first | apply State.event_keeps | apply State.inc_keeps | apply State.setFlag_keeps | apply State.iff_keeps | apply State.updSys_keeps | apply State.earlyCommit_keeps | apply State.capCut_keeps | apply State.hostQuiet_keeps)
    | with_reducible exact fun _ h => h
    | split
    | (fail_if_no_progress beta_reduce)

theorem execSupplyRestart_keeps (s : State) (a : BitVec 16) (b : BitVec 16) :
    State.KeepsOut s (execSupplyRestart a b s) := by
  unfold execSupplyRestart
  first | apply State.live_keeps | apply keepsOut_next
  repeat' first
    | (intro _)
    | with_reducible assumption
    | with_reducible exact State.Keeps.refl _
    | (with_reducible first | apply State.takeSup_keeps | apply State.capCut_keeps | apply State.beginStart_keeps)
    | with_reducible exact fun _ h => h
    | split

theorem execStoreEnd_keeps (s : State) :
    State.KeepsOut s (execStoreEnd s) := by
  unfold execStoreEnd
  first | apply State.live_keeps | apply State.liveOn_keeps | apply keepsOut_next
  repeat' first
    | (intro _)
    | with_reducible assumption
    | with_reducible exact State.Keeps.refl _
    | (with_reducible first | apply State.pdSwitch_keeps)
    | with_reducible exact fun _ h => h
    | split

theorem State.resetOp_keeps {s0 s : State} (h : s0.Keeps s) :
    s0.Keeps (State.resetOp s) := by
  unfold State.resetOp
  repeat' first
    | (intro _)
    | with_reducible assumption
    | (with_reducible first | apply State.beginStart_keeps | apply State.capCut_keeps | apply State.enterBench_keeps | apply State.benchClose_keeps | apply State.acknowledgeCand_keeps | apply State.resetRequest_keeps)
    | with_reducible exact fun _ h => h
    | split

theorem execSinChannelChange_keeps (s : State) (sin : Fin 16) (isB : Bool) (level : Bool) :
    State.KeepsOut s (execSinChannelChange sin isB level s) := by
  unfold execSinChannelChange
  first | apply State.live_keeps | apply State.liveOn_keeps | apply keepsOut_next
  repeat' first
    | (intro _)
    | with_reducible assumption
    | (extract_lets +onlyGivenNames x; first | (refine (fun hx => ?_ : State.Keeps s x → _) ?_; (on_goal 1 => clear_value x); (on_goal 2 => subst x)) | clear_value x)
    | with_reducible exact State.Keeps.refl _
    | (with_reducible first | apply State.updSin_keeps | apply State.event_keeps | apply State.resetOp_keeps)
    | with_reducible exact fun _ h => h
    | split
    | (fail_if_no_progress beta_reduce)

theorem execWatchdogTimeout_keeps (s : State) (core : Fin 9) :
    State.KeepsOut s (execWatchdogTimeout core s) := by
  unfold execWatchdogTimeout
  first | apply State.live_keeps | apply State.liveOn_keeps | apply keepsOut_next
  repeat' first
    | (intro _)
    | with_reducible assumption
    | (extract_lets +onlyGivenNames x; first | (refine (fun hx => ?_ : State.Keeps s x → _) ?_; (on_goal 1 => clear_value x); (on_goal 2 => subst x)) | clear_value x)
    | with_reducible exact State.Keeps.refl _
    | (with_reducible first | apply State.faultSafe_keeps | apply State.event_keeps | apply State.haltCore_keeps | apply State.updIsl_keeps | apply State.faultSeen_keeps | apply State.stopThenSafe_keeps)
    | with_reducible exact fun _ h => h
    | split
    | (fail_if_no_progress beta_reduce)

theorem execLockstepMismatch_keeps (s : State) :
    State.KeepsOut s (execLockstepMismatch s) := by
  unfold execLockstepMismatch
  first | apply State.live_keeps | apply keepsOut_next
  repeat' first
    | (intro _)
    | with_reducible assumption
    | (extract_lets +onlyGivenNames x; first | (refine (fun hx => ?_ : State.Keeps s x → _) ?_; (on_goal 1 => clear_value x); (on_goal 2 => subst x)) | clear_value x)
    | with_reducible exact State.Keeps.refl _
    | (with_reducible first | apply State.iff_keeps | apply State.haltCore_keeps | apply State.faultSafe_keeps | apply State.frzMark_keeps | apply State.event_keeps)
    | with_reducible exact fun _ h => h
    | split

end Sys2Proof.Machine
end

