-- ==== Sys2Proof/Laws/KeepsTwin.lean ====
section
/-!
SUPPORT. What every command keeps, for the operations and commands of Machine/Twin.lean.
-/

set_option linter.all false

namespace Sys2Proof.Machine

open Sys2Proof

theorem State.islViolation_keeps {s0 s : State} (h : s0.Keeps s) (src : Nat) (off : Nat) :
    s0.Keeps (State.islViolation s src off) := by
  unfold State.islViolation
  repeat' first
    | (intro _)
    | with_reducible assumption
    | (extract_lets +onlyGivenNames x; first | (refine (fun hx => ?_ : State.Keeps s0 x → _) ?_; (on_goal 1 => clear_value x); (on_goal 2 => subst x)) | clear_value x)
    | (with_reducible first | apply State.setFlag_keeps | apply State.setFld_keeps | apply State.inc_keeps | apply State.event_keeps)
    | with_reducible exact fun _ h => h
    | split

theorem execPairingRecord_keeps (s : State) (serial : BitVec 64) (src : Fin 2) (chk : Word) (hash : Word) :
    State.KeepsOut s (execPairingRecord serial src chk hash s) := by
  unfold execPairingRecord
  first | apply State.live_keeps | apply keepsOut_next
  repeat' first
    | (intro _)
    | with_reducible assumption
    | (extract_lets +onlyGivenNames x; first | (refine (fun hx => ?_ : State.Keeps s x → _) ?_; (on_goal 1 => clear_value x); (on_goal 2 => subst x)) | clear_value x)
    | with_reducible exact State.Keeps.refl _
    | (with_reducible first | apply State.setFlag_keeps | apply State.setFld_keeps | apply State.updTwin_keeps | apply State.twinRefresh_keeps)
    | with_reducible exact fun _ h => h
    | split

theorem State.twinFollow_keeps {s0 s : State} (h : s0.Keeps s) (m : Mirror) :
    s0.Keeps (State.twinFollow s m) := by
  unfold State.twinFollow
  repeat' first
    | (intro _)
    | with_reducible assumption
    | (with_reducible first | apply State.setClk_keeps | apply State.setFlag_keeps | apply State.acceptCorr_keeps)
    | with_reducible exact fun _ h => h
    | split

theorem State.twinFrame_keeps {s0 s : State} (h : s0.Keeps s) (a1 : Mirror) :
    s0.Keeps (State.twinFrame s a1) := by
  unfold State.twinFrame
  repeat' first
    | (intro _)
    | with_reducible assumption
    | (extract_lets +onlyGivenNames x; first | (refine (fun hx => ?_ : State.Keeps s0 x → _) ?_; (on_goal 1 => clear_value x); (on_goal 2 => subst x)) | clear_value x)
    | (with_reducible first | apply State.setFld_keeps | apply State.setFlag_keeps | apply State.setFldS_keeps | apply State.updTwin_keeps | apply State.iff_keeps | apply State.event_keeps | apply State.twinFollow_keeps | apply State.each_keeps | apply State.onPair_keeps | apply State.updSo_keeps | apply State.twinRefresh_keeps)
    | with_reducible exact fun _ h => h
    | split
    | (fail_if_no_progress beta_reduce)

theorem execMirrorFrame_keeps (s : State) (ok : Bool) (m : Mirror) (isl : Option Nat) :
    State.KeepsOut s (execMirrorFrame ok m isl s) := by
  unfold execMirrorFrame
  first | apply State.live_keeps | apply keepsOut_next
  repeat' first
    | (intro _)
    | with_reducible assumption
    | (extract_lets +onlyGivenNames x; first | (refine (fun hx => ?_ : State.Keeps s x → _) ?_; (on_goal 1 => clear_value x); (on_goal 2 => subst x)) | clear_value x)
    | with_reducible exact State.Keeps.refl _
    | (with_reducible first | apply State.setFlag_keeps | apply State.twinRelease_keeps | apply State.iff_keeps | apply State.twinFrame_keeps | apply State.inc_keeps | apply State.islViolation_keeps)
    | with_reducible exact fun _ h => h
    | split

theorem State.hostHandover_keeps {s0 s : State} (h : s0.Keeps s) (ready : Bool) :
    s0.Keeps (State.hostHandover s ready) := by
  unfold State.hostHandover
  repeat' first
    | (intro _)
    | with_reducible assumption
    | (with_reducible first | apply State.twinAnnounce_keeps)
    | with_reducible exact fun _ h => h
    | split

theorem execHandover_keeps (s : State) (ready : Bool) :
    State.KeepsOut s (execHandover ready s) := by
  unfold execHandover
  first | apply State.live_keeps | apply keepsOut_next
  repeat' first
    | (intro _)
    | with_reducible assumption
    | with_reducible exact State.Keeps.refl _
    | (with_reducible first | apply State.hostHandover_keeps)
    | with_reducible exact fun _ h => h
    | split

theorem execTokenTakeover_keeps (s : State) :
    State.KeepsOut s (execTokenTakeover s) := by
  unfold execTokenTakeover
  first | apply State.live_keeps | apply State.liveOn_keeps | apply keepsOut_next
  repeat' first
    | (intro _)
    | with_reducible assumption
    | with_reducible exact State.Keeps.refl _
    | (with_reducible first | apply State.twinTake_keeps)
    | with_reducible exact fun _ h => h
    | split

theorem execTwinLinkLost_keeps (s : State) :
    State.KeepsOut s (execTwinLinkLost s) := by
  unfold execTwinLinkLost
  first | apply State.live_keeps | apply keepsOut_next
  repeat' first
    | (intro _)
    | with_reducible assumption
    | (extract_lets +onlyGivenNames x; first | (refine (fun hx => ?_ : State.Keeps s x → _) ?_; (on_goal 1 => clear_value x); (on_goal 2 => subst x)) | clear_value x)
    | with_reducible exact State.Keeps.refl _
    | (with_reducible first | apply State.setClk_keeps | apply State.setFlag_keeps | apply State.iff_keeps | apply State.updTwin_keeps | apply State.inc_keeps | apply State.twinRefresh_keeps | apply State.event_keeps)
    | with_reducible exact fun _ h => h
    | split

theorem State.twinTick_keeps {s0 s : State} (h : s0.Keeps s) :
    s0.Keeps (State.twinTick s) := by
  unfold State.twinTick
  repeat' first
    | (intro _)
    | with_reducible assumption
    | (extract_lets +onlyGivenNames x; first | (refine (fun hx => ?_ : State.Keeps s0 x → _) ?_; (on_goal 1 => clear_value x); (on_goal 2 => subst x)) | clear_value x)
    | (with_reducible first | apply State.updTwin_keeps | apply State.twinRefresh_keeps | apply State.twinRelease_keeps | apply State.iff_keeps | apply State.each_keeps | apply State.onPair_keeps | apply State.pairOffNow_keeps | apply State.inc_keeps | apply State.twinTake_keeps)
    | with_reducible exact fun _ h => h
    | split
    | (fail_if_no_progress beta_reduce)

end Sys2Proof.Machine
end

