-- ==== Sys2Proof/Laws/KeepsCommit.lean ====
section
/-!
SUPPORT. What every command keeps, for the operations and commands of Machine/Commit.lean.
-/

set_option linter.all false

namespace Sys2Proof.Machine

open Sys2Proof

theorem State.putEdit_keeps {s0 s : State} (h : s0.Keeps s) (off : Nat) (w : Word) :
    s0.Keeps (State.putEdit s off w) := by
  unfold State.putEdit
  repeat' first
    | (intro _)
    | with_reducible assumption
    | (extract_lets +onlyGivenNames x; first | clear_value x)
    | split
    | (with_reducible apply State.mk_keeps; (rotate_left); all_goals first | with_reducible rfl | exact upd_length _ _ _ | exact List.length_map _ | skip)
    | with_reducible exact fun _ h => h
    | split

theorem State.withEdit_keeps {s0 s : State} (h : s0.Keeps s) :
    s0.Keeps (State.withEdit s) := by
  unfold State.withEdit
  repeat' first
    | (intro _)
    | with_reducible assumption
    | (extract_lets +onlyGivenNames x; first | (refine (fun hx => ?_ : State.Keeps s0 x → _) ?_; (on_goal 1 => clear_value x); (on_goal 2 => subst x)) | clear_value x)
    | (with_reducible first | apply State.setReg_keeps | apply State.each_keeps)
    | split
    | (with_reducible apply State.mk_keeps; (rotate_left); all_goals first | with_reducible rfl | exact upd_length _ _ _ | exact List.length_map _ | skip)
    | with_reducible exact fun _ h => h
    | split

theorem State.restoreCfg_keeps {s0 s : State} (h : s0.Keeps s) :
    s0.Keeps (State.restoreCfg s) := by
  unfold State.restoreCfg
  repeat' first
    | (intro _)
    | with_reducible assumption
    | (extract_lets +onlyGivenNames x; first | (refine (fun hx => ?_ : State.Keeps s0 x → _) ?_; (on_goal 1 => clear_value x); (on_goal 2 => subst x)) | clear_value x)
    | (with_reducible first | apply State.setReg_keeps | apply State.each_keeps)
    | split
    | (with_reducible apply State.mk_keeps; (rotate_left); all_goals first | with_reducible rfl | exact upd_length _ _ _ | exact List.length_map _ | skip)
    | with_reducible exact fun _ h => h
    | split

theorem State.commitApply_keeps {s0 s : State} (h : s0.Keeps s) :
    s0.Keeps (State.commitApply s) := by
  unfold State.commitApply
  repeat' first
    | (intro _)
    | with_reducible assumption
    | (extract_lets +onlyGivenNames x; first | (refine (fun hx => ?_ : State.Keeps s0 x → _) ?_; (on_goal 1 => clear_value x); (on_goal 2 => subst x)) | (have y : State → State := x; clear y; subst x) | (have y : State → _ → State := x; clear y; subst x) | (have y : _ → State → State := x; clear y; subst x) | (have y : _ → _ → State → State := x; clear y; subst x) | (have y : State → _ → _ → State := x; clear y; subst x) | (have y : State → _ → State × _ := x; clear y; subst x) | clear_value x)
    | (with_reducible first | apply State.updTim_keeps | apply State.setFld_keeps | apply State.each_keeps | apply State.ceCommitApply_keeps | apply State.linkPower_keeps | apply State.ptpForce_keeps | apply State.psCommit_keeps | apply State.iff_keeps | apply State.park_keeps | apply State.setFlag_keeps | apply State.tagKey_keeps | apply State.tagIdentity_keeps | apply State.ptpRefresh_keeps | apply State.twinRefresh_keeps | apply State.event_keeps)
    | split
    | (with_reducible apply State.mk_keeps; (rotate_left); all_goals first | with_reducible rfl | exact upd_length _ _ _ | exact List.length_map _ | skip)
    | with_reducible exact fun _ h => h
    | split
    | (fail_if_no_progress beta_reduce)

theorem State.commit_keeps {s0 s : State} (h : s0.Keeps s) :
    s0.Keeps (State.commit s) := by
  unfold State.commit
  repeat' first
    | (intro _)
    | with_reducible assumption
    | (extract_lets +onlyGivenNames x; first | (refine (fun hx => ?_ : State.Keeps s0 x → _) ?_; (on_goal 1 => clear_value x); (on_goal 2 => subst x)) | (refine (fun hx => ?_ : State.Keeps s0 x.1 → _) ?_; (on_goal 1 => clear_value x); (on_goal 2 => subst x)) | clear_value x)
    | (with_reducible first | apply State.withEdit_keeps | apply State.lawCheck_keeps | apply State.commitApply_keeps | apply State.event_keeps)
    | with_reducible exact fun _ h => h
    | split

theorem State.hostCommit_keeps {s0 s : State} (h : s0.Keeps s) :
    s0.Keeps (State.hostCommit s) := by
  unfold State.hostCommit
  repeat' first
    | (intro _)
    | with_reducible assumption
    | (with_reducible first | apply State.commit_keeps | apply State.event_keeps)
    | with_reducible exact fun _ h => h
    | split

theorem execCommit_keeps (s : State) :
    State.KeepsOut s (execCommit s) := by
  unfold execCommit
  first | apply State.live_keeps | apply keepsOut_next
  repeat' first
    | (intro _)
    | with_reducible assumption
    | with_reducible exact State.Keeps.refl _
    | (with_reducible first | apply State.hostCommit_keeps)
    | with_reducible exact fun _ h => h
    | split

end Sys2Proof.Machine
end

