-- ==== Sys2Proof/Laws/KeepsStart.lean ====
section
/-!
SUPPORT. What every command keeps, for the operations and commands of Machine/Start.lean.
-/

set_option linter.all false

namespace Sys2Proof.Machine

open Sys2Proof

theorem State.endTrial_keeps {s0 s : State} (h : s0.Keeps s) (b : Nat) :
    s0.Keeps (State.endTrial s b) := by
  unfold State.endTrial
  repeat' first
    | (intro _)
    | with_reducible assumption
    | (with_reducible first | apply State.iff_keeps | apply State.stopTimer_keeps | apply State.setFlag_keeps)
    | with_reducible exact fun _ h => h
    | split

theorem State.tryBank_keeps {s0 s : State} (h : s0.Keeps s) (ok : List Bool) (b : Nat) :
    s0.Keeps (State.tryBank s ok b).1 := by
  unfold State.tryBank
  repeat' first
    | (intro _)
    | with_reducible assumption
    | (extract_lets +onlyGivenNames x; first | (refine (fun hx => ?_ : State.Keeps s0 x → _) ?_; (on_goal 1 => clear_value x); (on_goal 2 => subst x)) | clear_value x)
    | (with_reducible first | apply State.endTrial_keeps | apply State.setFld_keeps)
    | with_reducible exact fun _ h => h
    | split
    | (fail_if_no_progress beta_reduce)

theorem State.chooseBank_keeps {s0 s : State} (h : s0.Keeps s) (ok : List Bool) :
    s0.Keeps (State.chooseBank s ok).1 := by
  unfold State.chooseBank
  repeat' first
    | (intro _)
    | with_reducible assumption
    | (extract_lets +onlyGivenNames x; first | (refine (fun hx => ?_ : State.Keeps s0 x → _) ?_; (on_goal 1 => clear_value x); (on_goal 2 => subst x)) | (refine (fun hx => ?_ : State.Keeps s0 x.1 → _) ?_; (on_goal 1 => clear_value x); (on_goal 2 => subst x)) | clear_value x)
    | (with_reducible first | apply State.setFld_keeps | apply State.tryBank_keeps | apply State.event_keeps)
    | with_reducible exact fun _ h => h
    | split

theorem State.chooseLoaded_keeps {s0 s : State} (h : s0.Keeps s) (ok : List Bool) (loadBad : List Nat) :
    s0.Keeps (State.chooseLoaded s ok loadBad).1 := by
  unfold State.chooseLoaded
  repeat' first
    | (intro _)
    | with_reducible assumption
    | (extract_lets +onlyGivenNames x; first | (refine (fun hx => ?_ : State.Keeps s0 x → _) ?_; (on_goal 1 => clear_value x); (on_goal 2 => subst x)) | (refine (fun hx => ?_ : State.Keeps s0 x.1 → _) ?_; (on_goal 1 => clear_value x); (on_goal 2 => subst x)) | (refine (fun hx => ?_ : State.Keeps s0 x.2 → _) ?_; (on_goal 1 => clear_value x); (on_goal 2 => subst x)) | clear_value x)
    | (with_reducible first | apply State.chooseBank_keeps | apply State.endTrial_keeps | apply State.setFld_keeps | apply State.each_keeps | apply State.cvuLoad_keeps | apply State.tryBank_keeps | apply State.event_keeps)
    | with_reducible exact fun _ h => h
    | split
    | (fail_if_no_progress beta_reduce)

theorem State.takeBank_keeps {s0 s : State} (h : s0.Keeps s) (b : Nat) (fell : Bool) :
    s0.Keeps (State.takeBank s b fell) := by
  unfold State.takeBank
  repeat' first
    | (intro _)
    | with_reducible assumption
    | (extract_lets +onlyGivenNames x; first | (refine (fun hx => ?_ : State.Keeps s0 x → _) ?_; (on_goal 1 => clear_value x); (on_goal 2 => subst x)) | clear_value x)
    | (with_reducible first | apply State.setReg_keeps | apply State.setFlag_keeps | apply State.iff_keeps | apply State.setFld_keeps | apply State.startTimer_keeps)
    | with_reducible exact fun _ h => h
    | split

theorem State.legalCheck_keeps {s0 s : State} (h : s0.Keeps s) (b : Nat) :
    s0.Keeps (State.legalCheck s b) := by
  unfold State.legalCheck
  repeat' first
    | (intro _)
    | with_reducible assumption
    | (with_reducible first | apply State.setFld_keeps)
    | with_reducible exact fun _ h => h
    | split

theorem State.regStart_keeps {s0 s : State} (h : s0.Keeps s) (lost : Bool) :
    s0.Keeps (State.regStart s lost) := by
  unfold State.regStart
  repeat' first
    | (intro _)
    | with_reducible assumption
    | (with_reducible first | apply State.setReg_keeps | apply State.each_keeps)
    | with_reducible exact fun _ h => h
    | split

theorem State.runCore_keeps {s0 s : State} (h : s0.Keeps s) (i : Nat) :
    s0.Keeps (State.runCore s i) := by
  unfold State.runCore
  repeat' first
    | (intro _)
    | with_reducible assumption
    | (with_reducible first | apply State.setFld_keeps)
    | with_reducible exact fun _ h => h
    | split

theorem State.updGlb_keeps {s0 s : State} (h : s0.Keeps s) (f : GlbSt → GlbSt) :
    s0.Keeps (State.updGlb s f) := by
  unfold State.updGlb
  repeat' first
    | (intro _)
    | with_reducible assumption
    | split
    | (with_reducible apply State.mk_keeps; (rotate_left); all_goals first | with_reducible rfl | exact upd_length _ _ _ | exact List.length_map _ | skip)
    | with_reducible exact fun _ h => h
    | split

theorem State.islStart_keeps {s0 s : State} (h : s0.Keeps s) :
    s0.Keeps (State.islStart s) := by
  unfold State.islStart
  repeat' first
    | (intro _)
    | with_reducible assumption
    | (extract_lets +onlyGivenNames x; first | (refine (fun hx => ?_ : State.Keeps s0 x → _) ?_; (on_goal 1 => clear_value x); (on_goal 2 => subst x)) | clear_value x)
    | (with_reducible first | apply State.updIsl_keeps | apply State.setThresholds_keeps | apply State.setIstate_keeps)
    | with_reducible exact fun _ h => h
    | split
    | (fail_if_no_progress beta_reduce)

theorem State.engStart_keeps {s0 s : State} (h : s0.Keeps s) :
    s0.Keeps (State.engStart s) := by
  unfold State.engStart
  repeat' first
    | (intro _)
    | with_reducible assumption
    | (extract_lets +onlyGivenNames x; first | (refine (fun hx => ?_ : State.Keeps s0 x → _) ?_; (on_goal 1 => clear_value x); (on_goal 2 => subst x)) | clear_value x)
    | (with_reducible first | apply State.each_keeps | apply State.updCe_keeps | apply State.setFld_keeps | apply State.setReg_keeps | apply State.park_keeps | apply State.updVh_keeps | apply State.setSState_keeps)
    | split
    | (with_reducible apply State.mk_keeps; (rotate_left); all_goals first | with_reducible rfl | exact upd_length _ _ _ | exact List.length_map _ | skip)
    | with_reducible exact fun _ h => h
    | split
    | (fail_if_no_progress beta_reduce)

theorem State.gcStart_keeps {s0 s : State} (h : s0.Keeps s) (b : Nat) :
    s0.Keeps (State.gcStart s b) := by
  unfold State.gcStart
  repeat' first
    | (intro _)
    | with_reducible assumption
    | (extract_lets +onlyGivenNames x; first | (refine (fun hx => ?_ : State.Keeps s0 x → _) ?_; (on_goal 1 => clear_value x); (on_goal 2 => subst x)) | clear_value x)
    | (with_reducible first | apply State.each_keeps | apply State.loadRoast_keeps | apply State.endEntry_keeps | apply State.updPnl_keeps | apply State.setFld_keeps | apply State.mlStart_keeps | apply State.tagGcRead_keeps | apply State.updPc_keeps)
    | with_reducible exact fun _ h => h
    | split
    | (fail_if_no_progress beta_reduce)

theorem State.endBoot_keeps {s0 s : State} (h : s0.Keeps s) :
    s0.Keeps (State.endBoot s) := by
  unfold State.endBoot
  repeat' first
    | (intro _)
    | with_reducible assumption
    | (extract_lets +onlyGivenNames x; first | (refine (fun hx => ?_ : State.Keeps s0 x → _) ?_; (on_goal 1 => clear_value x); (on_goal 2 => subst x)) | clear_value x)
    | (with_reducible first | apply State.restoreCfg_keeps | apply State.commit_keeps | apply State.event_keeps | apply State.setMode_keeps | apply State.enterBench_keeps)
    | with_reducible exact fun _ h => h
    | split
    | (fail_if_no_progress beta_reduce)

theorem State.releaseAll_keeps {s0 s : State} (h : s0.Keeps s) (inp : StartIn) (b : Nat) :
    s0.Keeps (State.releaseAll s inp b) := by
  unfold State.releaseAll
  repeat' first
    | (intro _)
    | with_reducible assumption
    | (extract_lets +onlyGivenNames x; first | (refine (fun hx => ?_ : State.Keeps s0 x → _) ?_; (on_goal 1 => clear_value x); (on_goal 2 => subst x)) | clear_value x)
    | (with_reducible first | apply State.updSys_keeps | apply State.legStart_keeps | apply State.runCore_keeps | apply State.gcStart_keeps | apply State.pdSet_keeps | apply State.engStart_keeps | apply State.each_keeps | apply State.lawLoad_keeps | apply State.updGlb_keeps | apply State.setFld_keeps | apply State.cvuLoad_keeps | apply State.endBoot_keeps | apply State.event_keeps)
    | with_reducible exact fun _ h => h
    | split
    | (fail_if_no_progress beta_reduce)

theorem State.kcStart_keeps {s0 s : State} (h : s0.Keeps s) (cause : Nat) (inp : StartIn) :
    s0.Keeps (State.kcStart s cause inp) := by
  unfold State.kcStart
  repeat' first
    | (intro _)
    | with_reducible assumption
    | (extract_lets +onlyGivenNames x; first | (refine (fun hx => ?_ : State.Keeps s0 x → _) ?_; (on_goal 1 => clear_value x); (on_goal 2 => subst x)) | (refine (fun hx => ?_ : State.Keeps s0 x.1 → _) ?_; (on_goal 1 => clear_value x); (on_goal 2 => subst x)) | (refine (fun hx => ?_ : State.Keeps s0 x.2 → _) ?_; (on_goal 1 => clear_value x); (on_goal 2 => subst x)) | clear_value x)
    | (with_reducible first | apply State.memStart_keeps | apply State.runCore_keeps | apply State.iff_keeps | apply State.setFld_keeps | apply State.markFailed_keeps | apply State.chooseLoaded_keeps | apply State.journalStart_keeps | apply State.event_keeps | apply State.tagStart_keeps | apply State.updKeys_keeps | apply State.legalCheck_keeps | apply State.takeBank_keeps | apply State.cvuLoad_keeps | apply State.updSys_keeps | apply State.legStart_keeps | apply State.updGlb_keeps | apply State.pdSet_keeps | apply State.startTimer_keeps | apply State.releaseAll_keeps | apply State.islStart_keeps)
    | with_reducible exact fun _ h => h
    | split
    | (fail_if_no_progress beta_reduce)

theorem State.makeStart_keeps {s0 s : State} (h : s0.Keeps s) (cause : Nat) (inp : StartIn) :
    s0.Keeps (State.makeStart s cause inp) := by
  unfold State.makeStart
  repeat' first
    | (intro _)
    | with_reducible assumption
    | (extract_lets +onlyGivenNames x; first | (refine (fun hx => ?_ : State.Keeps s0 x → _) ?_; (on_goal 1 => clear_value x); (on_goal 2 => subst x)) | clear_value x)
    | (with_reducible first | apply State.updSys_keeps | apply State.startClock_keeps | apply State.iff_keeps | apply State.regStart_keeps | apply State.setReg_keeps | apply State.updGlb_keeps | apply State.updKeys_keeps | apply State.pdSet_keeps | apply State.kcStart_keeps | apply State.event_keeps)
    | with_reducible exact fun _ h => h
    | split
    | (fail_if_no_progress beta_reduce)

theorem execModuleStart_keeps (s : State) (inp : StartIn) :
    State.KeepsOut s (execModuleStart inp s) := by
  unfold execModuleStart
  first | apply State.live_keeps | apply keepsOut_next
  repeat' first
    | (intro _)
    | with_reducible assumption
    | with_reducible exact State.Keeps.refl _
    | (with_reducible first | apply State.makeStart_keeps | apply State.beginStart_keeps)
    | with_reducible exact fun _ h => h
    | split

theorem execScStartupTimeout_keeps (s : State) :
    State.KeepsOut s (execScStartupTimeout s) := by
  unfold execScStartupTimeout
  first | apply State.live_keeps | apply State.liveOn_keeps | apply keepsOut_next
  repeat' first
    | (intro _)
    | with_reducible assumption
    | with_reducible exact State.Keeps.refl _
    | (with_reducible first | apply State.iff_keeps | apply State.event_keeps | apply State.setFld_keeps | apply State.stopTimer_keeps | apply State.beginStart_keeps)
    | with_reducible exact fun _ h => h
    | split

theorem execActivationPauseEnd_keeps (s : State) (laws : List (Option LawImage)) (loadBad : List Nat) :
    State.KeepsOut s (execActivationPauseEnd laws loadBad s) := by
  unfold execActivationPauseEnd
  first | apply State.live_keeps | apply State.liveOn_keeps | apply keepsOut_next
  repeat' first
    | (intro _)
    | with_reducible assumption
    | (extract_lets +onlyGivenNames x; first | (refine (fun hx => ?_ : State.Keeps s x → _) ?_; (on_goal 1 => clear_value x); (on_goal 2 => subst x)) | clear_value x)
    | with_reducible exact State.Keeps.refl _
    | (with_reducible first | apply State.pauseFail_keeps | apply State.each_keeps | apply State.cvuLoad_keeps | apply State.lawLoad_keeps | apply State.updSh_keeps | apply State.runCore_keeps | apply State.loadRoast_keeps | apply State.setFlag_keeps | apply State.setFld_keeps | apply State.setReg_keeps | apply State.updKeys_keeps | apply State.startTimer_keeps | apply State.stopTimer_keeps | apply State.updStatus_keeps | apply State.event_keeps | apply State.ringsUnhold_keeps | apply State.complete_keeps)
    | with_reducible exact fun _ h => h
    | split
    | (fail_if_no_progress beta_reduce)

end Sys2Proof.Machine
end

