-- ==== Sys2Proof/Laws/KeepsAccess.lean ====
section
/-!
SUPPORT. What every command keeps, for the operations and commands of Machine/Access.lean.
-/

set_option linter.all false

namespace Sys2Proof.Machine

open Sys2Proof

theorem State.elapse_keeps {s0 s : State} (h : s0.Keeps s) :
    s0.Keeps (State.elapse s) := by
  unfold State.elapse
  repeat' first
    | (intro _)
    | with_reducible assumption
    | (extract_lets +onlyGivenNames x; first | (refine (fun hx => ?_ : State.Keeps s0 x → _) ?_; (on_goal 1 => clear_value x); (on_goal 2 => subst x)) | (refine (fun hx => ?_ : State.Keeps s0 x.1 → _) ?_; (on_goal 1 => clear_value x); (on_goal 2 => subst x)) | (refine (fun hx => ?_ : State.Keeps s0 x.2 → _) ?_; (on_goal 1 => clear_value x); (on_goal 2 => subst x)) | clear_value x)
    | (with_reducible first | apply State.draw_keeps | apply State.iff_keeps | apply State.updTim_keeps)
    | with_reducible exact fun _ h => h
    | split
    | (fail_if_no_progress beta_reduce)

theorem State.readPair_keeps {s0 s : State} (h : s0.Keeps s) (off : Nat) (x : Word × State) (hx : s.readPair off = some x) :
    s0.Keeps x.2 := by
  simp only [State.readPair] at hx
  repeat' split at hx
  all_goals first
    | (cases hx; dsimp only; exact State.updTim_keeps (State.elapse_keeps h) _)
    | (cases hx; dsimp only; exact State.updTim_keeps h _)
    | (cases hx; exact h)
    | cases hx

theorem State.readReg_keeps {s0 s : State} (h : s0.Keeps s) (off : Nat) :
    s0.Keeps (State.readReg s off).2 := by
  unfold State.readReg
  repeat' first
    | (intro _)
    | with_reducible assumption
    | (with_reducible first | (refine State.readPair_keeps ?_ _ _ (by assumption); assumption) | apply foldl_keeps)
    | with_reducible exact fun _ h => h
    | split

theorem State.readOff_keeps {s0 s : State} (h : s0.Keeps s) (pd : Nat) :
    s0.Keeps (State.readOff s pd) := by
  unfold State.readOff
  repeat' first
    | (intro _)
    | with_reducible assumption
    | (extract_lets +onlyGivenNames x; first | (refine (fun hx => ?_ : State.Keeps s0 x → _) ?_; (on_goal 1 => clear_value x); (on_goal 2 => subst x)) | (have y : State → State := x; clear y; subst x) | (have y : State → _ → State := x; clear y; subst x) | (have y : _ → State → State := x; clear y; subst x) | (have y : _ → _ → State → State := x; clear y; subst x) | (have y : State → _ → _ → State := x; clear y; subst x) | (have y : State → _ → State × _ := x; clear y; subst x) | clear_value x)
    | (with_reducible first | apply State.event_keeps | apply State.updGlb_keeps)
    | split
    | (with_reducible apply State.mk_keeps; (rotate_left); all_goals first | with_reducible rfl | exact upd_length _ _ _ | exact List.length_map _ | skip)
    | with_reducible exact fun _ h => h
    | split
    | (fail_if_no_progress beta_reduce)

theorem State.bar2Write_keeps {s0 s : State} (h : s0.Keeps s) (o : Nat) (w : Word) :
    s0.Keeps (State.bar2Write s o w) := by
  unfold State.bar2Write
  repeat' first
    | (intro _)
    | with_reducible assumption
    | (extract_lets +onlyGivenNames x; first | (refine (fun hx => ?_ : State.Keeps s0 x → _) ?_; (on_goal 1 => clear_value x); (on_goal 2 => subst x)) | clear_value x)
    | (with_reducible first | apply State.updHost_keeps | apply State.unmask_keeps)
    | with_reducible exact fun _ h => h
    | split
    | (fail_if_no_progress beta_reduce)

theorem State.answer_keeps {s0 s : State} (h : s0.Keeps s) (v : Nat) :
    s0.Keeps (State.answer s v) := by
  unfold State.answer
  repeat' first
    | (intro _)
    | with_reducible assumption
    | split
    | (with_reducible apply State.mk_keeps; (rotate_left); all_goals first | with_reducible rfl | exact upd_length _ _ _ | exact List.length_map _ | skip)
    | with_reducible exact fun _ h => h
    | split

theorem State.cfgRead_keeps {s0 s : State} (h : s0.Keeps s) (o : Nat) :
    s0.Keeps (State.cfgRead s o) := by
  unfold State.cfgRead
  repeat' first
    | (intro _)
    | with_reducible assumption
    | (extract_lets +onlyGivenNames x; first | (refine (fun hx => ?_ : State.Keeps s0 x → _) ?_; (on_goal 1 => clear_value x); (on_goal 2 => subst x)) | (refine (fun hx => ?_ : State.Keeps s0 x.1 → _) ?_; (on_goal 1 => clear_value x); (on_goal 2 => subst x)) | (refine (fun hx => ?_ : State.Keeps s0 x.2 → _) ?_; (on_goal 1 => clear_value x); (on_goal 2 => subst x)) | clear_value x)
    | (with_reducible first | apply State.answer_keeps | apply State.draw_keeps)
    | with_reducible exact fun _ h => h
    | split
    | (fail_if_no_progress beta_reduce)

theorem State.readFn_keeps {s0 s : State} (h : s0.Keeps s) (off : Nat) :
    s0.Keeps (State.readFn s off) := by
  unfold State.readFn
  repeat' first
    | (intro _)
    | with_reducible assumption
    | (with_reducible first | apply State.answer_keeps | apply State.cfgRead_keeps)
    | with_reducible exact fun _ h => h
    | split

theorem State.writeFn_keeps {s0 s : State} (h : s0.Keeps s) (off : Nat) (w : Word) :
    s0.Keeps (State.writeFn s off w) := by
  unfold State.writeFn
  repeat' first
    | (intro _)
    | with_reducible assumption
    | (with_reducible first | apply State.bar2Write_keeps | apply State.iff_keeps | apply State.updHost_keeps)
    | with_reducible exact fun _ h => h
    | split

theorem execRegisterRead_keeps (s : State) (offset : Nat) :
    State.KeepsOut s (execRegisterRead offset s) := by
  unfold execRegisterRead
  first | apply State.live_keeps | apply State.liveOn_keeps | apply keepsOut_next
  repeat' first
    | (intro _)
    | with_reducible assumption
    | (extract_lets +onlyGivenNames x; first | (refine (fun hx => ?_ : State.Keeps s x → _) ?_; (on_goal 1 => clear_value x); (on_goal 2 => subst x)) | (refine (fun hx => ?_ : State.Keeps s x.1 → _) ?_; (on_goal 1 => clear_value x); (on_goal 2 => subst x)) | (refine (fun hx => ?_ : State.Keeps s x.2 → _) ?_; (on_goal 1 => clear_value x); (on_goal 2 => subst x)) | (have y : State → State := x; clear y; subst x) | (have y : State → _ → State := x; clear y; subst x) | (have y : _ → State → State := x; clear y; subst x) | (have y : _ → _ → State → State := x; clear y; subst x) | (have y : State → _ → _ → State := x; clear y; subst x) | (have y : State → _ → State × _ := x; clear y; subst x) | clear_value x)
    | with_reducible exact State.Keeps.refl _
    | (with_reducible first | apply State.readFn_keeps | apply State.readOff_keeps | apply State.readReg_keeps)
    | split
    | (with_reducible apply State.mk_keeps; (rotate_left); all_goals first | with_reducible rfl | exact upd_length _ _ _ | exact List.length_map _ | skip)
    | with_reducible exact fun _ h => h
    | split
    | (fail_if_no_progress beta_reduce)

theorem execUnsupportedAccess_keeps (s : State) (_bar : Nat) (_offset : Nat) (_width : Nat) :
    State.KeepsOut s (execUnsupportedAccess _bar _offset _width s) := by
  unfold execUnsupportedAccess
  first | apply State.live_keeps | apply keepsOut_next
  repeat' first
    | (intro _)
    | with_reducible assumption
    | with_reducible exact State.Keeps.refl _
    | with_reducible exact fun _ h => h
    | split

theorem execReadOffDomain_keeps (s : State) (pd : Fin 10) (_offset : Nat) :
    State.KeepsOut s (execReadOffDomain pd _offset s) := by
  unfold execReadOffDomain
  first | apply State.live_keeps | apply State.liveOn_keeps | apply keepsOut_next
  repeat' first
    | (intro _)
    | with_reducible assumption
    | with_reducible exact State.Keeps.refl _
    | (with_reducible first | apply State.readOff_keeps)
    | with_reducible exact fun _ h => h
    | split

theorem State.refused_keeps {s0 s : State} (h : s0.Keeps s) (off : Nat) (cause : Nat) :
    s0.Keeps (State.refused s off cause) := by
  unfold State.refused
  repeat' first
    | (intro _)
    | with_reducible assumption
    | (with_reducible first | apply State.event_keeps)
    | with_reducible exact fun _ h => h
    | split

theorem State.writeField_keeps {s0 s : State} (h : s0.Keeps s) (w : Word) (off : Nat) (f : FieldSpec) :
    s0.Keeps (State.writeField w off s f) := by
  unfold State.writeField
  repeat' first
    | (intro _)
    | with_reducible assumption
    | (extract_lets +onlyGivenNames x; first | clear_value x)
    | (with_reducible first | apply State.refused_keeps | apply State.setFld_keeps | apply State.putEdit_keeps)
    | with_reducible exact fun _ h => h
    | split

theorem State.writeFields_keeps {s0 s : State} (h : s0.Keeps s) (off : Nat) (r : RegSpec) (w : Word) :
    s0.Keeps (State.writeFields s off r w) := by
  unfold State.writeFields
  repeat' first
    | (intro _)
    | with_reducible assumption
    | (extract_lets +onlyGivenNames x; first | (refine (fun hx => ?_ : State.Keeps s0 x → _) ?_; (on_goal 1 => clear_value x); (on_goal 2 => subst x)) | clear_value x)
    | (with_reducible first | apply State.setReg_keeps | apply State.writeField_keeps | apply State.iff_keeps | apply State.event_keeps | apply foldl_keeps)
    | with_reducible exact fun _ h => h
    | split
    | (fail_if_no_progress beta_reduce)

theorem State.hostBench_keeps {s0 s : State} (h : s0.Keeps s) (w : Word) :
    s0.Keeps (State.hostBench s w) := by
  unfold State.hostBench
  repeat' first
    | (intro _)
    | with_reducible assumption
    | (extract_lets +onlyGivenNames x; first | (refine (fun hx => ?_ : State.Keeps s0 x → _) ?_; (on_goal 1 => clear_value x); (on_goal 2 => subst x)) | clear_value x)
    | (with_reducible first | apply State.setFlag_keeps | apply State.iff_keeps | apply State.setFld_keeps | apply State.hostHold_keeps | apply State.hostStep_keeps | apply State.pdSet_keeps | apply State.rotAbandon_keeps)
    | with_reducible exact fun _ h => h
    | split

theorem State.wholeWrite_keeps {s0 s : State} (h : s0.Keeps s) (off : Nat) (w : Word) (x : State) (hx : s.wholeWrite off w = some x) :
    s0.Keeps x := by
  unfold State.wholeWrite at hx
  repeat' split at hx
  all_goals first
    | (rw [Option.some.injEq] at hx; subst hx
       first
         | exact State.hostLeap_keeps h _ | exact State.mxExclClear_keeps h _ _ | exact State.ceExclClear_keeps h _ _
         | exact State.modeReq_keeps h _ | exact State.hostBench_keeps h _)
    | cases hx

theorem State.writeAct1_keeps {s0 s : State} (h : s0.Keeps s) (off : Nat) (i : Nat) (w : Word) :
    s0.Keeps (State.writeAct1 s off i w) := by
  unfold State.writeAct1
  repeat' first
    | (intro _)
    | with_reducible assumption
    | (extract_lets +onlyGivenNames x; first | clear_value x)
    | (with_reducible first | apply State.hostSwap_keeps | apply State.iff_keeps | apply State.hostStop_keeps | apply State.fhRefresh_keeps | apply State.hostJoin_keeps | apply State.ringEnable_keeps | apply State.ringDisable_keeps | apply State.hostRetrain_keeps | apply State.ringFlush_keeps | apply State.ringResume_keeps)
    | with_reducible exact fun _ h => h
    | split

theorem State.writeAct_keeps {s0 s : State} (h : s0.Keeps s) (off : Nat) (is : List Nat) (w : Word) :
    s0.Keeps (State.writeAct s off is w) := by
  unfold State.writeAct
  repeat' first
    | (intro _)
    | with_reducible assumption
    | (extract_lets +onlyGivenNames x; first | (refine (fun hx => ?_ : State.Keeps s0 x → _) ?_; (on_goal 1 => clear_value x); (on_goal 2 => subst x)) | (refine (fun hx => ?_ : State.Keeps s0 x.2 → _) ?_; (on_goal 1 => clear_value x); (on_goal 2 => subst x)) | clear_value x)
    | (with_reducible first | apply State.draw_keeps | apply State.iff_keeps | apply State.cupMode_keeps | apply State.legSelect_keeps | apply State.metSnap_keeps | apply State.cupArm_keeps | apply State.writeAct1_keeps | apply State.hostCommit_keeps | apply State.hostHandover_keeps | apply State.freezeReq_keeps | apply State.cupHostTrig_keeps | apply State.selectPage_keeps | apply State.metSnapRel_keeps)
    | with_reducible exact fun _ h => h
    | split

theorem State.writePs_keeps {s0 s : State} (h : s0.Keeps s) (n : Nat) (w : Word) :
    s0.Keeps (State.writePs s n w) := by
  unfold State.writePs
  repeat' first
    | (intro _)
    | with_reducible assumption
    | (extract_lets +onlyGivenNames x; first | (refine (fun hx => ?_ : State.Keeps s0 x → _) ?_; (on_goal 1 => clear_value x); (on_goal 2 => subst x)) | clear_value x)
    | (with_reducible first | apply State.hostPs_keeps | apply State.iff_keeps | apply State.hostPsClr_keeps)
    | with_reducible exact fun _ h => h
    | split
    | (fail_if_no_progress beta_reduce)

theorem State.hostWrite_keeps {s0 s : State} (h : s0.Keeps s) (off : Nat) (w : Word) :
    s0.Keeps (State.hostWrite s off w) := by
  unfold State.hostWrite
  repeat' first
    | (intro _)
    | with_reducible assumption
    | (with_reducible first | apply State.writeFn_keeps | apply State.islViolation_keeps | (refine State.wholeWrite_keeps ?_ _ _ _ (by assumption); assumption) | apply State.writePs_keeps | apply State.writeAct_keeps | apply State.writeFields_keeps)
    | with_reducible exact fun _ h => h
    | split

theorem execRegisterWrite_keeps (s : State) (offset : Nat) (value : Word) :
    State.KeepsOut s (execRegisterWrite offset value s) := by
  unfold execRegisterWrite
  first | apply State.live_keeps | apply keepsOut_next
  repeat' first
    | (intro _)
    | with_reducible assumption
    | with_reducible exact State.Keeps.refl _
    | (with_reducible first | apply State.hostWrite_keeps)
    | with_reducible exact fun _ h => h
    | split

end Sys2Proof.Machine
end

