-- ==== Sys2Proof/Laws/KeepsTicks.lean ====
section
/-!
SUPPORT. What every command keeps, for the operations and commands of Machine/Ticks.lean.
-/

set_option linter.all false

namespace Sys2Proof.Machine

open Sys2Proof

theorem State.zoneTick_keeps {s0 s : State} (h : s0.Keeps s) (z : List Int) :
    s0.Keeps (State.zoneTick s z) := by
  unfold State.zoneTick
  repeat' first
    | (intro _)
    | with_reducible assumption
    | (extract_lets +onlyGivenNames x; first | (refine (fun hx => ?_ : State.Keeps s0 x → _) ?_; (on_goal 1 => clear_value x); (on_goal 2 => subst x)) | clear_value x)
    | (with_reducible first | apply State.setSat_keeps | apply State.updGlb_keeps | apply State.setFldS_keeps)
    | with_reducible exact fun _ h => h
    | split

theorem execZoneDiffExceeded_keeps (s : State) :
    State.KeepsOut s (execZoneDiffExceeded s) := by
  unfold execZoneDiffExceeded
  first | apply State.live_keeps | apply keepsOut_next
  repeat' first
    | (intro _)
    | with_reducible assumption
    | with_reducible exact State.Keeps.refl _
    | (with_reducible first | apply State.setFlag_keeps | apply State.event_keeps)
    | with_reducible exact fun _ h => h
    | split

theorem execZoneDiffCleared_keeps (s : State) :
    State.KeepsOut s (execZoneDiffCleared s) := by
  unfold execZoneDiffCleared
  first | apply State.live_keeps | apply keepsOut_next
  repeat' first
    | (intro _)
    | with_reducible assumption
    | with_reducible exact State.Keeps.refl _
    | (with_reducible first | apply State.setFlag_keeps | apply State.event_keeps)
    | with_reducible exact fun _ h => h
    | split

theorem State.railGone_keeps {s0 s : State} (h : s0.Keeps s) (pd : Nat) :
    s0.Keeps (State.railGone s pd) := by
  unfold State.railGone
  repeat' first
    | (intro _)
    | with_reducible assumption
    | (with_reducible first | apply State.updIsl_keeps | apply State.each_keeps | apply State.updCe_keeps | apply State.hostQuiet_keeps | apply State.hostLinkDown_keeps)
    | with_reducible exact fun _ h => h
    | split

theorem execDomainRailLost_keeps (s : State) (pd : Fin 10) :
    State.KeepsOut s (execDomainRailLost pd s) := by
  unfold execDomainRailLost
  first | apply State.live_keeps | apply keepsOut_next
  repeat' first
    | (intro _)
    | with_reducible assumption
    | (extract_lets +onlyGivenNames x; first | (refine (fun hx => ?_ : State.Keeps s x → _) ?_; (on_goal 1 => clear_value x); (on_goal 2 => subst x)) | clear_value x)
    | with_reducible exact State.Keeps.refl _
    | (with_reducible first | apply State.setReg_keeps | apply State.setFlag_keeps | apply State.setFld_keeps | apply State.railGone_keeps | apply State.each_keeps | apply State.pdSwitch_keeps | apply State.event_keeps)
    | with_reducible exact fun _ h => h
    | split

theorem execFrontEndSupplyFault_keeps (s : State) (fe : Fin 10) :
    State.KeepsOut s (execFrontEndSupplyFault fe s) := by
  unfold execFrontEndSupplyFault
  first | apply State.live_keeps | apply keepsOut_next
  repeat' first
    | (intro _)
    | with_reducible assumption
    | (extract_lets +onlyGivenNames x; first | (refine (fun hx => ?_ : State.Keeps s x → _) ?_; (on_goal 1 => clear_value x); (on_goal 2 => subst x)) | clear_value x)
    | with_reducible exact State.Keeps.refl _
    | (with_reducible first | apply State.setFlag_keeps | apply State.updGlb_keeps | apply State.event_keeps)
    | with_reducible exact fun _ h => h
    | split

theorem execBarrierTransferBad_keeps (s : State) (fe : Fin 10) (fast : Bool) (sample : Fin 32) :
    State.KeepsOut s (execBarrierTransferBad fe fast sample s) := by
  unfold execBarrierTransferBad
  first | apply State.live_keeps | apply State.liveOn_keeps | apply keepsOut_next
  repeat' first
    | (intro _)
    | with_reducible assumption
    | (extract_lets +onlyGivenNames x; first | (refine (fun hx => ?_ : State.Keeps s x → _) ?_; (on_goal 1 => clear_value x); (on_goal 2 => subst x)) | clear_value x)
    | with_reducible exact State.Keeps.refl _
    | (with_reducible first | apply State.updGlb_keeps | apply State.updOl_keeps | apply State.precDiscard_keeps)
    | with_reducible exact fun _ h => h
    | split
    | (fail_if_no_progress beta_reduce)

theorem State.access_keeps {s0 s : State} (h : s0.Keeps s) (a : PartAccess) :
    s0.Keeps (State.access s a) := by
  unfold State.access
  repeat' first
    | (intro _)
    | with_reducible assumption
    | (with_reducible first | apply State.iff_keeps | apply State.updSys_keeps | apply State.islViolation_keeps | apply State.event_keeps)
    | with_reducible exact fun _ h => h
    | split

theorem State.unpublished_keeps {s0 s : State} (h : s0.Keeps s) (core : Nat) (table : Nat) :
    s0.Keeps (State.unpublished s core table) := by
  unfold State.unpublished
  repeat' first
    | (intro _)
    | with_reducible assumption
    | (with_reducible first | apply State.iff_keeps | apply State.event_keeps)
    | with_reducible exact fun _ h => h
    | split

theorem State.fillBacks_keeps {s0 s : State} (h : s0.Keeps s) :
    s0.Keeps (State.fillBacks s) := by
  unfold State.fillBacks
  repeat' first
    | (intro _)
    | with_reducible assumption
    | (extract_lets +onlyGivenNames x; first | (refine (fun hx => ?_ : State.Keeps s0 x → _) ?_; (on_goal 1 => clear_value x); (on_goal 2 => subst x)) | clear_value x)
    | (with_reducible first | apply State.updSh_keeps | apply State.iff_keeps | apply State.mirrorFill_keeps)
    | with_reducible exact fun _ h => h
    | split
    | (fail_if_no_progress beta_reduce)

theorem State.swap0_keeps {s0 s : State} (h : s0.Keeps s) (v : Nat) (late : Bool) :
    s0.Keeps (State.swap0 s v late) := by
  unfold State.swap0
  repeat' first
    | (intro _)
    | with_reducible assumption
    | (with_reducible first | apply State.updSh_keeps | apply State.unpublished_keeps)
    | with_reducible exact fun _ h => h
    | split

theorem State.swap1_keeps {s0 s : State} (h : s0.Keeps s) (late : Bool) :
    s0.Keeps (State.swap1 s late) := by
  unfold State.swap1
  repeat' first
    | (intro _)
    | with_reducible assumption
    | (extract_lets +onlyGivenNames x; first | (refine (fun hx => ?_ : State.Keeps s0 x → _) ?_; (on_goal 1 => clear_value x); (on_goal 2 => subst x)) | clear_value x)
    | (with_reducible first | apply State.updSh_keeps | apply State.unpublished_keeps)
    | with_reducible exact fun _ h => h
    | split
    | (fail_if_no_progress beta_reduce)

theorem State.showMap_keeps {s0 s : State} (h : s0.Keeps s) : s0.Keeps (State.showMap s) :=
  State.each_keeps h _ _ fun _ _ h => State.setFld_keeps h _ _

theorem State.swap2_keeps {s0 s : State} (h : s0.Keeps s) :
    s0.Keeps (State.swap2 s) := by
  unfold State.swap2
  repeat' first
    | (intro _)
    | with_reducible assumption
    | (extract_lets +onlyGivenNames x; first | (refine (fun hx => ?_ : State.Keeps s0 x → _) ?_; (on_goal 1 => clear_value x); (on_goal 2 => subst x)) | clear_value x)
    | (with_reducible first | apply State.updSh_keeps | apply State.updGlb_keeps | apply State.showMap_keeps | apply State.unpublished_keeps)
    | with_reducible exact fun _ h => h
    | split

theorem State.seqRows_keeps {s0 s : State} (h : s0.Keeps s) (c : Nat) :
    s0.Keeps (State.seqRows s c) := by
  unfold State.seqRows
  repeat' first
    | (intro _)
    | with_reducible assumption
    | (with_reducible first | apply State.updSh_keeps)
    | with_reducible exact fun _ h => h
    | split

theorem State.swap3_keeps {s0 s : State} (h : s0.Keeps s) (c : Nat) (late : Bool) :
    s0.Keeps (State.swap3 s c late) := by
  unfold State.swap3
  repeat' first
    | (intro _)
    | with_reducible assumption
    | (extract_lets +onlyGivenNames x; first | (refine (fun hx => ?_ : State.Keeps s0 x → _) ?_; (on_goal 1 => clear_value x); (on_goal 2 => subst x)) | clear_value x)
    | (with_reducible first | apply State.updSh_keeps | apply State.iff_keeps | apply State.unpublished_keeps | apply State.seqRows_keeps | apply State.updTim_keeps | apply State.overrun_keeps)
    | with_reducible exact fun _ h => h
    | split
    | (fail_if_no_progress beta_reduce)

theorem State.swap4_keeps {s0 s : State} (h : s0.Keeps s) (late : Bool) :
    s0.Keeps (State.swap4 s late) := by
  unfold State.swap4
  repeat' first
    | (intro _)
    | with_reducible assumption
    | (with_reducible first | apply State.updSh_keeps | apply State.unpublished_keeps)
    | with_reducible exact fun _ h => h
    | split

theorem State.exchangeSwap_keeps {s0 s : State} (h : s0.Keeps s) (late : List Bool) :
    s0.Keeps (State.exchangeSwap s late) := by
  unfold State.exchangeSwap
  repeat' first
    | (intro _)
    | with_reducible assumption
    | (extract_lets +onlyGivenNames x; first | (refine (fun hx => ?_ : State.Keeps s0 x → _) ?_; (on_goal 1 => clear_value x); (on_goal 2 => subst x)) | clear_value x)
    | (with_reducible first | apply State.swap1_keeps | apply State.swap0_keeps | apply State.fillBacks_keeps | apply State.swap4_keeps | apply State.swap3_keeps | apply State.swap2_keeps | apply State.updSh_keeps | apply State.unpublished_keeps)
    | with_reducible exact fun _ h => h
    | split
    | (fail_if_no_progress beta_reduce)

theorem State.allocTakeover_keeps {s0 s : State} (h : s0.Keeps s) :
    s0.Keeps (State.allocTakeover s) := by
  unfold State.allocTakeover
  repeat' first
    | (intro _)
    | with_reducible assumption
    | (with_reducible first | apply State.setFld_keeps | apply State.event_keeps)
    | with_reducible exact fun _ h => h
    | split

theorem State.lateWork_keeps {s0 s : State} (h : s0.Keeps s) (late : List Bool) :
    s0.Keeps (State.lateWork s late) := by
  unfold State.lateWork
  repeat' first
    | (intro _)
    | with_reducible assumption
    | (extract_lets +onlyGivenNames x; first | (refine (fun hx => ?_ : State.Keeps s0 x → _) ?_; (on_goal 1 => clear_value x); (on_goal 2 => subst x)) | clear_value x)
    | (with_reducible first | apply State.iff_keeps | apply State.updPs_keeps | apply State.updIsl_keeps | apply State.overrun_keeps)
    | with_reducible exact fun _ h => h
    | split
    | (fail_if_no_progress beta_reduce)

theorem execCfTick_keeps (s : State) :
    State.KeepsOut s (execCfTick s) := by
  unfold execCfTick
  first | apply State.live_keeps | apply State.liveOn_keeps | apply keepsOut_next
  repeat' first
    | (intro _)
    | with_reducible assumption
    | (extract_lets +onlyGivenNames x; first | (refine (fun hx => ?_ : State.Keeps s x → _) ?_; (on_goal 1 => clear_value x); (on_goal 2 => subst x)) | clear_value x)
    | with_reducible exact State.Keeps.refl _
    | (with_reducible first | apply State.benchCf_keeps | apply State.linksCf_keeps | apply State.updTim_keeps)
    | with_reducible exact fun _ h => h
    | split
    | (fail_if_no_progress beta_reduce)

theorem State.sfControl_keeps {s0 s : State} (h : s0.Keeps s) (inp : SfIn) :
    s0.Keeps (State.sfControl s inp) := by
  unfold State.sfControl
  repeat' first
    | (intro _)
    | with_reducible assumption
    | (extract_lets +onlyGivenNames x; first | (refine (fun hx => ?_ : State.Keeps s0 x → _) ?_; (on_goal 1 => clear_value x); (on_goal 2 => subst x)) | clear_value x)
    | (with_reducible first | apply State.moveTick_keeps | apply State.bundleTick_keeps | apply State.benchTick_keeps | apply State.pauseTick_keeps | apply State.each_keeps | apply State.iff_keeps | apply State.takePt_keeps | apply State.ceSfProgram_keeps | apply State.ceTick_keeps | apply State.vehTick_keeps | apply State.benchCf_keeps)
    | with_reducible exact fun _ h => h
    | split
    | (fail_if_no_progress beta_reduce)

theorem State.railRegs_keeps {s0 s : State} (h : s0.Keeps s) (inp : SfIn) :
    s0.Keeps (State.railRegs s inp) := by
  unfold State.railRegs
  repeat' first
    | (intro _)
    | with_reducible assumption
    | (extract_lets +onlyGivenNames x; first | (refine (fun hx => ?_ : State.Keeps s0 x → _) ?_; (on_goal 1 => clear_value x); (on_goal 2 => subst x)) | clear_value x)
    | (with_reducible first | apply State.iff_keeps | apply State.railTick_keeps | apply State.each_keeps | apply State.railVolts_keeps | apply State.setSat_keeps)
    | with_reducible exact fun _ h => h
    | split
    | (fail_if_no_progress beta_reduce)

theorem State.sfServices_keeps {s0 s : State} (h : s0.Keeps s) (inp : SfIn) :
    s0.Keeps (State.sfServices s inp) := by
  unfold State.sfServices
  repeat' first
    | (intro _)
    | with_reducible assumption
    | (extract_lets +onlyGivenNames x; first | (refine (fun hx => ?_ : State.Keeps s0 x → _) ?_; (on_goal 1 => clear_value x); (on_goal 2 => subst x)) | clear_value x)
    | (with_reducible first | apply State.metTick_keeps | apply State.setFlag_keeps | apply State.hostSf_keeps | apply State.twinTick_keeps | apply State.iff_keeps | apply State.legTick_keeps | apply State.portTick_keeps | apply State.railsDown_keeps | apply State.chkTick_keeps | apply State.mlTick_keeps | apply State.pd8Tick_keeps | apply State.restTick_keeps | apply State.panelSf_keeps | apply State.dropB_keeps | apply State.updTag_keeps | apply State.updPs_keeps | apply State.memTick_keeps | apply State.updKeys_keeps | apply State.mirrorTake_keeps | apply State.tagKey_keeps)
    | with_reducible exact fun _ h => h
    | split
    | (fail_if_no_progress beta_reduce)

theorem State.islScrub_keeps {s0 s : State} (h : s0.Keeps s) (unc : Bool) :
    s0.Keeps (State.islScrub s unc) := by
  unfold State.islScrub
  repeat' first
    | (intro _)
    | with_reducible assumption
    | (extract_lets +onlyGivenNames x; first | (refine (fun hx => ?_ : State.Keeps s0 x → _) ?_; (on_goal 1 => clear_value x); (on_goal 2 => subst x)) | clear_value x)
    | (with_reducible first | apply State.haltCore_keeps | apply State.faultSafe_keeps | apply State.event_keeps | apply State.faultSeen_keeps)
    | with_reducible exact fun _ h => h
    | split

theorem State.sfIsland_keeps {s0 s : State} (h : s0.Keeps s) (inp : SfIn) :
    s0.Keeps (State.sfIsland s inp) := by
  unfold State.sfIsland
  repeat' first
    | (intro _)
    | with_reducible assumption
    | (extract_lets +onlyGivenNames x; first | (refine (fun hx => ?_ : State.Keeps s0 x → _) ?_; (on_goal 1 => clear_value x); (on_goal 2 => subst x)) | clear_value x)
    | (with_reducible first | apply State.pathCompare_keeps | apply State.iff_keeps | apply State.candTick_keeps | apply State.islScrub_keeps | apply State.safetyCycle_keeps | apply State.mirror_keeps)
    | with_reducible exact fun _ h => h
    | split

theorem execSfTick_keeps (s : State) (inp : SfIn) :
    State.KeepsOut s (execSfTick inp s) := by
  unfold execSfTick
  first | apply State.live_keeps | apply State.liveOn_keeps | apply keepsOut_next
  repeat' first
    | (intro _)
    | with_reducible assumption
    | (extract_lets +onlyGivenNames x; first | (refine (fun hx => ?_ : State.Keeps s x → _) ?_; (on_goal 1 => clear_value x); (on_goal 2 => subst x)) | clear_value x)
    | with_reducible exact State.Keeps.refl _
    | (with_reducible first | apply State.railsDown_keeps | apply State.sfTickTime_keeps | apply State.updTim_keeps | apply State.each_keeps | apply State.access_keeps | apply State.exchangeSwap_keeps | apply State.linksCf_keeps | apply State.linksSf_keeps | apply State.zoneTick_keeps | apply State.lateWork_keeps | apply State.updPs_keeps | apply State.sfControl_keeps | apply State.allocTakeover_keeps | apply State.railRegs_keeps | apply State.sfIsland_keeps | apply State.freezeTick_keeps | apply State.sfServices_keeps)
    | with_reducible exact fun _ h => h
    | split
    | (fail_if_no_progress beta_reduce)

theorem execLegalCommitOverrun_keeps (s : State) :
    State.KeepsOut s (execLegalCommitOverrun s) := by
  unfold execLegalCommitOverrun
  first | apply State.live_keeps | apply keepsOut_next
  repeat' first
    | (intro _)
    | with_reducible assumption
    | with_reducible exact State.Keeps.refl _
    | (with_reducible first | apply State.overrun_keeps | apply State.haltCore_keeps)
    | with_reducible exact fun _ h => h
    | split

end Sys2Proof.Machine
end

