-- ==== Sys2Proof/Laws/Only.lean ====
section
/-!
SUPPORT. The parts of the state that an operation changes, for the operations that all the others are made of. A set of parts
is a mask here: bit `n` stands for the `n`-th part. Each lemma reads: if nothing outside the mask has changed up to here,
and the operation's own parts are in the mask, nothing outside it has changed after it.
-/

set_option linter.all false

namespace Sys2Proof.Machine

open Sys2Proof

/-- Nothing outside the mask differs. -/
structure State.OnlyM (s : State) (m : Nat) (t : State) : Prop where
  same : ∀ p : Part, m.testBit p.ctorIdx = false → s.Same t p

/-- A next state comes that differs in nothing outside the mask. -/
def State.OnlyOut (s : State) (m : Nat) (o : Host.Outcome State Fault Refusal) : Prop := ∃ t, o = .next t ∧ s.OnlyM m t

theorem State.OnlyM.refl (s : State) (m : Nat) : s.OnlyM m s := ⟨fun p _ => by cases p <;> rfl⟩

/-- From a mask to a list of parts. -/
theorem State.OnlyM.toOnly {s t : State} {m : Nat} (h : s.OnlyM m t) (l : List Part)
    (hl : (∀ p : Part, p ∉ l → m.testBit p.ctorIdx = false)) : s.Only l t := fun p hp => h.same p (hl p hp)

theorem subM {k k' m : Nat} (h : k' ||| k = k) (hm : k ||| m = m) : k' ||| m = m := by
  rw [← hm, ← Nat.or_assoc, h]

theorem bitM {k m i : Nat} (h : k.testBit i = true) (hm : k ||| m = m) : m.testBit i = true := by
  rw [← hm, Nat.testBit_or, h, Bool.true_or]

theorem State.mk_only {m : Nat} {s0 s : State} (h : s0.OnlyM m s)
    (regs : List (Nat × Word))
    (log : List Event)
    (timers : List (Timer × Nat))
    (hostRead : Word)
    (fresh : Nat)
    (glb : GlbSt)
    (tim : TimeSt)
    (links : List LinkSt)
    (linkc : LinkCommon)
    (ces : List CeSt)
    (sh : ShareSt)
    (veh : List Veh)
    (vehc : VehCommon)
    (met : MetSt)
    (leg : LegSt)
    (isl : IslSt)
    (ps : PsSt)
    (pnl : PnlSt)
    (nfc : List NfcPort)
    (tag : TagSt)
    (ml : MlSt)
    (host : HostSt)
    (keys : KeySt)
    (mem : MemSt)
    (sys : SysSt)
    (twin : TwinSt)
    (hregs : regs = s.regs ∨ m.testBit 1 = true)
    (hlog : log = s.log ∨ m.testBit 2 = true)
    (htimers : timers = s.timers ∨ m.testBit 3 = true)
    (hhostRead : hostRead = s.hostRead ∨ m.testBit 4 = true)
    (hfresh : fresh = s.fresh ∨ m.testBit 5 = true)
    (hglb : glb = s.glb ∨ m.testBit 6 = true)
    (htim : tim = s.tim ∨ m.testBit 7 = true)
    (hlinks : links = s.links ∨ m.testBit 8 = true)
    (hlinkc : linkc = s.linkc ∨ m.testBit 9 = true)
    (hces : ces = s.ces ∨ m.testBit 10 = true)
    (hsh : sh = s.sh ∨ m.testBit 11 = true)
    (hveh : veh = s.veh ∨ m.testBit 12 = true)
    (hvehc : vehc = s.vehc ∨ m.testBit 13 = true)
    (hmet : met = s.met ∨ m.testBit 14 = true)
    (hleg : leg = s.leg ∨ m.testBit 15 = true)
    (hisl : isl = s.isl ∨ m.testBit 16 = true)
    (hps : ps = s.ps ∨ m.testBit 17 = true)
    (hpnl : pnl = s.pnl ∨ m.testBit 18 = true)
    (hnfc : nfc = s.nfc ∨ m.testBit 19 = true)
    (htag : tag = s.tag ∨ m.testBit 20 = true)
    (hml : ml = s.ml ∨ m.testBit 21 = true)
    (hhost : host = s.host ∨ m.testBit 22 = true)
    (hkeys : keys = s.keys ∨ m.testBit 23 = true)
    (hmem : mem = s.mem ∨ m.testBit 24 = true)
    (hsys : sys = s.sys ∨ m.testBit 25 = true)
    (htwin : twin = s.twin ∨ m.testBit 26 = true) :
    s0.OnlyM m (State.mk s.pending regs log timers hostRead fresh glb tim links linkc ces sh veh vehc met leg isl ps pnl nfc tag ml host keys mem sys twin) := by
  refine ⟨fun p hp => ?_⟩
  cases p
  · exact h.same .pending hp
  · rcases hregs with e | e
    · exact e.trans (h.same .regs hp)
    · exact absurd (hp.symm.trans e) Bool.false_ne_true
  · rcases hlog with e | e
    · exact e.trans (h.same .log hp)
    · exact absurd (hp.symm.trans e) Bool.false_ne_true
  · rcases htimers with e | e
    · exact e.trans (h.same .timers hp)
    · exact absurd (hp.symm.trans e) Bool.false_ne_true
  · rcases hhostRead with e | e
    · exact e.trans (h.same .hostRead hp)
    · exact absurd (hp.symm.trans e) Bool.false_ne_true
  · rcases hfresh with e | e
    · exact e.trans (h.same .fresh hp)
    · exact absurd (hp.symm.trans e) Bool.false_ne_true
  · rcases hglb with e | e
    · exact e.trans (h.same .glb hp)
    · exact absurd (hp.symm.trans e) Bool.false_ne_true
  · rcases htim with e | e
    · exact e.trans (h.same .tim hp)
    · exact absurd (hp.symm.trans e) Bool.false_ne_true
  · rcases hlinks with e | e
    · exact e.trans (h.same .links hp)
    · exact absurd (hp.symm.trans e) Bool.false_ne_true
  · rcases hlinkc with e | e
    · exact e.trans (h.same .linkc hp)
    · exact absurd (hp.symm.trans e) Bool.false_ne_true
  · rcases hces with e | e
    · exact e.trans (h.same .ces hp)
    · exact absurd (hp.symm.trans e) Bool.false_ne_true
  · rcases hsh with e | e
    · exact e.trans (h.same .sh hp)
    · exact absurd (hp.symm.trans e) Bool.false_ne_true
  · rcases hveh with e | e
    · exact e.trans (h.same .veh hp)
    · exact absurd (hp.symm.trans e) Bool.false_ne_true
  · rcases hvehc with e | e
    · exact e.trans (h.same .vehc hp)
    · exact absurd (hp.symm.trans e) Bool.false_ne_true
  · rcases hmet with e | e
    · exact e.trans (h.same .met hp)
    · exact absurd (hp.symm.trans e) Bool.false_ne_true
  · rcases hleg with e | e
    · exact e.trans (h.same .leg hp)
    · exact absurd (hp.symm.trans e) Bool.false_ne_true
  · rcases hisl with e | e
    · exact e.trans (h.same .isl hp)
    · exact absurd (hp.symm.trans e) Bool.false_ne_true
  · rcases hps with e | e
    · exact e.trans (h.same .ps hp)
    · exact absurd (hp.symm.trans e) Bool.false_ne_true
  · rcases hpnl with e | e
    · exact e.trans (h.same .pnl hp)
    · exact absurd (hp.symm.trans e) Bool.false_ne_true
  · rcases hnfc with e | e
    · exact e.trans (h.same .nfc hp)
    · exact absurd (hp.symm.trans e) Bool.false_ne_true
  · rcases htag with e | e
    · exact e.trans (h.same .tag hp)
    · exact absurd (hp.symm.trans e) Bool.false_ne_true
  · rcases hml with e | e
    · exact e.trans (h.same .ml hp)
    · exact absurd (hp.symm.trans e) Bool.false_ne_true
  · rcases hhost with e | e
    · exact e.trans (h.same .host hp)
    · exact absurd (hp.symm.trans e) Bool.false_ne_true
  · rcases hkeys with e | e
    · exact e.trans (h.same .keys hp)
    · exact absurd (hp.symm.trans e) Bool.false_ne_true
  · rcases hmem with e | e
    · exact e.trans (h.same .mem hp)
    · exact absurd (hp.symm.trans e) Bool.false_ne_true
  · rcases hsys with e | e
    · exact e.trans (h.same .sys hp)
    · exact absurd (hp.symm.trans e) Bool.false_ne_true
  · rcases htwin with e | e
    · exact e.trans (h.same .twin hp)
    · exact absurd (hp.symm.trans e) Bool.false_ne_true

theorem State.setReg_only {m : Nat} {s0 s : State} (h : s0.OnlyM m s) (hm : 2 ||| m = m) (off : Nat) (w : Word) :
    s0.OnlyM m (s.setReg off w) := by
  unfold State.setReg
  apply State.mk_only h <;> first | exact .inl rfl | exact .inr (bitM (by decide) hm)

theorem State.logEvent_only {m : Nat} {s0 s : State} (h : s0.OnlyM m s) (hm : 4 ||| m = m) (c : Nat) (d : List Nat) :
    s0.OnlyM m (s.logEvent c d) := by
  unfold State.logEvent
  apply State.mk_only h <;> first | exact .inl rfl | exact .inr (bitM (by decide) hm)

theorem State.draw_only {m : Nat} {s0 s : State} (h : s0.OnlyM m s) (hm : 32 ||| m = m) : s0.OnlyM m s.draw.2 := by
  unfold State.draw
  apply State.mk_only h <;> first | exact .inl rfl | exact .inr (bitM (by decide) hm)

theorem State.iff_only {m : Nat} {s0 s : State} (h : s0.OnlyM m s) (c : Bool) (f : State → State)
    (hf : ∀ s, s0.OnlyM m s → s0.OnlyM m (f s)) : s0.OnlyM m (s.iff c f) := by
  unfold State.iff; split
  · exact hf s h
  · exact h

theorem foldl_only {α : Type} {m : Nat} {s0 : State} (f : State → α → State) (hf : ∀ s a, s0.OnlyM m s → s0.OnlyM m (f s a)) :
    ∀ (l : List α) {s : State} (_ : s0.OnlyM m s), s0.OnlyM m (l.foldl f s)
  | [], _, h => h
  | a :: l, s, h => foldl_only f hf l (hf s a h)

theorem State.each_only {α : Type} {m : Nat} {s0 s : State} (h : s0.OnlyM m s) (l : List α) (f : State → α → State)
    (hf : ∀ s a, s0.OnlyM m s → s0.OnlyM m (f s a)) : s0.OnlyM m (s.each l f) := foldl_only f hf l h

theorem id_only {m : Nat} {s0 s : State} (h : s0.OnlyM m s) : s0.OnlyM m (id s) := h

theorem next_only {m : Nat} {s t : State} (h : s.OnlyM m t) : s.OnlyOut m (.next t) := ⟨t, rfl, h⟩

theorem State.live_only {m : Nat} {s t : State} (h : s.OnlyM m t) : s.OnlyOut m (s.live t) := by
  refine next_only ?_
  split
  · exact h
  · exact State.OnlyM.refl s m

theorem State.liveOn_only {m : Nat} {s t : State} {pd : Nat} (h : s.OnlyM m t) : s.OnlyOut m (s.liveOn pd t) := by
  refine next_only ?_
  split
  · exact h
  · exact State.OnlyM.refl s m

theorem State.setFld_only {m : Nat} {s0 s : State} (h : s0.OnlyM m s) (hm : 2 ||| m = m) (f : Fld) (v : Nat) :
    s0.OnlyM m (s.setFld f v) := State.setReg_only h hm _ _

theorem State.cupStart_only {m : Nat} {s0 s : State} (h : s0.OnlyM m s) (hm : 1026 ||| m = m) (c b : Nat) :
    s0.OnlyM m (s.cupStart c b) := by
  unfold State.cupStart State.updCup
  apply State.mk_only (State.setFld_only h (subM (by decide) hm) _ _) <;>
    first | exact .inl rfl | exact .inr (bitM (by decide) hm)

theorem State.eventN_only : ∀ (n : Nat) {m : Nat} {s0 s : State} (_ : s0.OnlyM m s) (hm : 1030 ||| m = m) (c : Nat) (d : List Nat),
    s0.OnlyM m (State.eventN n s c d)
  | 0, _, _, _, h, hm, c, d => State.logEvent_only h (subM (by decide) hm) c d
  | n + 1, _, _, _, h, hm, c, d =>
    State.each_only (State.logEvent_only h (subM (by decide) hm) c d) _ _ fun _ _ h1 =>
      State.each_only h1 _ _ fun _ _ h2 =>
        State.eventN_only n (State.cupStart_only h2 (subM (by decide) hm) _ _) hm _ _

theorem State.updTag_only {m : Nat} {s0 s : State} (h : s0.OnlyM m s) (hm : 1048576 ||| m = m) (f : TagSt → TagSt) :
    s0.OnlyM m (s.updTag f) := by
  unfold State.updTag
  apply State.mk_only h <;> first | exact .inl rfl | exact .inr (bitM (by decide) hm)

end Sys2Proof.Machine
end

