-- ==== Sys2Proof/Laws/OnlyOps.lean ====
section
/-!
SUPPORT. The parts of the state that the operations and commands of Machine/Ops.lean change.
-/

set_option linter.all false

namespace Sys2Proof.Machine

open Sys2Proof

theorem State.setSat_only {m : Nat} {s0 s : State} (h : s0.OnlyM m s) (hm : 2 ||| m = m) (f : Fld) (v : Nat) :
    s0.OnlyM m (State.setSat s f v) := by
  unfold State.setSat
  repeat' first
    | (intro _)
    | with_reducible assumption
    | with_reducible exact subM (by decide) hm
    | (with_reducible first | apply State.setFld_only)
    | with_reducible exact fun _ h => h
    | split

theorem State.setFldS_only {m : Nat} {s0 s : State} (h : s0.OnlyM m s) (hm : 2 ||| m = m) (f : Fld) (v : Int) :
    s0.OnlyM m (State.setFldS s f v) := by
  unfold State.setFldS
  repeat' first
    | (intro _)
    | with_reducible assumption
    | with_reducible exact subM (by decide) hm
    | (with_reducible first | apply State.setFld_only)
    | with_reducible exact fun _ h => h
    | split

theorem State.setFlag_only {m : Nat} {s0 s : State} (h : s0.OnlyM m s) (hm : 2 ||| m = m) (f : Fld) (b : Bool) :
    s0.OnlyM m (State.setFlag s f b) := by
  unfold State.setFlag
  repeat' first
    | (intro _)
    | with_reducible assumption
    | with_reducible exact subM (by decide) hm
    | (with_reducible first | apply State.setFld_only)
    | with_reducible exact fun _ h => h
    | split

theorem State.inc_only {m : Nat} {s0 s : State} (h : s0.OnlyM m s) (hm : 2 ||| m = m) (f : Fld) :
    s0.OnlyM m (State.inc s f) := by
  unfold State.inc
  repeat' first
    | (intro _)
    | with_reducible assumption
    | with_reducible exact subM (by decide) hm
    | (with_reducible first | apply State.setSat_only)
    | with_reducible exact fun _ h => h
    | split

theorem State.setLinkBit_only {m : Nat} {s0 s : State} (h : s0.OnlyM m s) (hm : 2 ||| m = m) (lo : Nat) (hi : Nat) (k : Nat) (b : Bool) :
    s0.OnlyM m (State.setLinkBit s lo hi k b) := by
  unfold State.setLinkBit
  repeat' first
    | (intro _)
    | with_reducible assumption
    | with_reducible exact subM (by decide) hm
    | (with_reducible first | apply State.setReg_only)
    | with_reducible exact fun _ h => h
    | split

theorem State.updCup_only {m : Nat} {s0 s : State} (h : s0.OnlyM m s) (hm : 1024 ||| m = m) (c : Nat) (b : Nat) (f : CupBuf → CupBuf) :
    s0.OnlyM m (State.updCup s c b f) := by
  unfold State.updCup
  repeat' first
    | (intro _)
    | with_reducible assumption
    | with_reducible exact subM (by decide) hm
    | split
    | (with_reducible apply State.mk_only; (rotate_left); all_goals first | with_reducible exact .inl rfl | exact .inr (bitM (by decide) hm) | skip)
    | with_reducible exact fun _ h => h
    | split

theorem State.event_only {m : Nat} {s0 s : State} (h : s0.OnlyM m s) (hm : 1030 ||| m = m) (code : Nat) (data : List Nat) :
    s0.OnlyM m (State.event s code data) := by
  unfold State.event
  repeat' first
    | (intro _)
    | with_reducible assumption
    | with_reducible exact subM (by decide) hm
    | (with_reducible first | apply State.eventN_only)
    | with_reducible exact fun _ h => h
    | split

theorem State.cupTrigger_only {m : Nat} {s0 s : State} (h : s0.OnlyM m s) (hm : 1030 ||| m = m) (c : Nat) (b : Nat) :
    s0.OnlyM m (State.cupTrigger s c b) := by
  unfold State.cupTrigger
  repeat' first
    | (intro _)
    | with_reducible assumption
    | with_reducible exact subM (by decide) hm
    | (with_reducible first | apply State.cupStart_only | apply State.each_only | apply State.event_only)
    | with_reducible exact fun _ h => h
    | split

theorem State.stopTimer_only {m : Nat} {s0 s : State} (h : s0.OnlyM m s) (hm : 8 ||| m = m) (t : Timer) :
    s0.OnlyM m (State.stopTimer s t) := by
  unfold State.stopTimer
  repeat' first
    | (intro _)
    | with_reducible assumption
    | with_reducible exact subM (by decide) hm
    | split
    | (with_reducible apply State.mk_only; (rotate_left); all_goals first | with_reducible exact .inl rfl | exact .inr (bitM (by decide) hm) | skip)
    | with_reducible exact fun _ h => h
    | split

theorem State.startTimer_only {m : Nat} {s0 s : State} (h : s0.OnlyM m s) (hm : 8 ||| m = m) (t : Timer) :
    s0.OnlyM m (State.startTimer s t) := by
  unfold State.startTimer
  repeat' first
    | (intro _)
    | with_reducible assumption
    | with_reducible exact subM (by decide) hm
    | split
    | (with_reducible apply State.mk_only; (rotate_left); all_goals first | with_reducible exact .inl rfl | exact .inr (bitM (by decide) hm) | skip)
    | with_reducible exact fun _ h => h
    | split

theorem State.setTimer_only {m : Nat} {s0 s : State} (h : s0.OnlyM m s) (hm : 8 ||| m = m) (t : Timer) (ns : Nat) :
    s0.OnlyM m (State.setTimer s t ns) := by
  unfold State.setTimer
  repeat' first
    | (intro _)
    | with_reducible assumption
    | with_reducible exact subM (by decide) hm
    | split
    | (with_reducible apply State.mk_only; (rotate_left); all_goals first | with_reducible exact .inl rfl | exact .inr (bitM (by decide) hm) | skip)
    | with_reducible exact fun _ h => h
    | split

theorem State.updLk_only {m : Nat} {s0 s : State} (h : s0.OnlyM m s) (hm : 256 ||| m = m) (n : Nat) (f : LinkSt → LinkSt) :
    s0.OnlyM m (State.updLk s n f) := by
  unfold State.updLk
  repeat' first
    | (intro _)
    | with_reducible assumption
    | with_reducible exact subM (by decide) hm
    | split
    | (with_reducible apply State.mk_only; (rotate_left); all_goals first | with_reducible exact .inl rfl | exact .inr (bitM (by decide) hm) | skip)
    | with_reducible exact fun _ h => h
    | split

theorem State.updCe_only {m : Nat} {s0 s : State} (h : s0.OnlyM m s) (hm : 1024 ||| m = m) (c : Nat) (f : CeSt → CeSt) :
    s0.OnlyM m (State.updCe s c f) := by
  unfold State.updCe
  repeat' first
    | (intro _)
    | with_reducible assumption
    | with_reducible exact subM (by decide) hm
    | split
    | (with_reducible apply State.mk_only; (rotate_left); all_goals first | with_reducible exact .inl rfl | exact .inr (bitM (by decide) hm) | skip)
    | with_reducible exact fun _ h => h
    | split

theorem State.updVh_only {m : Nat} {s0 s : State} (h : s0.OnlyM m s) (hm : 4096 ||| m = m) (j : Nat) (f : Veh → Veh) :
    s0.OnlyM m (State.updVh s j f) := by
  unfold State.updVh
  repeat' first
    | (intro _)
    | with_reducible assumption
    | with_reducible exact subM (by decide) hm
    | split
    | (with_reducible apply State.mk_only; (rotate_left); all_goals first | with_reducible exact .inl rfl | exact .inr (bitM (by decide) hm) | skip)
    | with_reducible exact fun _ h => h
    | split

theorem State.updIsl_only {m : Nat} {s0 s : State} (h : s0.OnlyM m s) (hm : 65536 ||| m = m) (f : IslSt → IslSt) :
    s0.OnlyM m (State.updIsl s f) := by
  unfold State.updIsl
  repeat' first
    | (intro _)
    | with_reducible assumption
    | with_reducible exact subM (by decide) hm
    | split
    | (with_reducible apply State.mk_only; (rotate_left); all_goals first | with_reducible exact .inl rfl | exact .inr (bitM (by decide) hm) | skip)
    | with_reducible exact fun _ h => h
    | split

theorem State.faultSeen_only {m : Nat} {s0 s : State} (h : s0.OnlyM m s) (hm : 65536 ||| m = m) (row : Nat) :
    s0.OnlyM m (State.faultSeen s row) := by
  unfold State.faultSeen
  repeat' first
    | (intro _)
    | with_reducible assumption
    | with_reducible exact subM (by decide) hm
    | (with_reducible first | apply State.updIsl_only)
    | with_reducible exact fun _ h => h
    | split

theorem State.updSo_only {m : Nat} {s0 s : State} (h : s0.OnlyM m s) (hm : 65536 ||| m = m) (k : Nat) (f : SoPair → SoPair) :
    s0.OnlyM m (State.updSo s k f) := by
  unfold State.updSo
  repeat' first
    | (intro _)
    | with_reducible assumption
    | with_reducible exact subM (by decide) hm
    | (with_reducible first | apply State.updIsl_only)
    | with_reducible exact fun _ h => h
    | split

theorem State.updSin_only {m : Nat} {s0 s : State} (h : s0.OnlyM m s) (hm : 65536 ||| m = m) (n : Nat) (f : SinSt → SinSt) :
    s0.OnlyM m (State.updSin s n f) := by
  unfold State.updSin
  repeat' first
    | (intro _)
    | with_reducible assumption
    | with_reducible exact subM (by decide) hm
    | (with_reducible first | apply State.updIsl_only)
    | with_reducible exact fun _ h => h
    | split

theorem State.updIo_only {m : Nat} {s0 s : State} (h : s0.OnlyM m s) (hm : 65536 ||| m = m) (j : Nat) (f : IslOut → IslOut) :
    s0.OnlyM m (State.updIo s j f) := by
  unfold State.updIo
  repeat' first
    | (intro _)
    | with_reducible assumption
    | with_reducible exact subM (by decide) hm
    | (with_reducible first | apply State.updIsl_only)
    | with_reducible exact fun _ h => h
    | split

theorem State.updSys_only {m : Nat} {s0 s : State} (h : s0.OnlyM m s) (hm : 33554432 ||| m = m) (f : SysSt → SysSt) :
    s0.OnlyM m (State.updSys s f) := by
  unfold State.updSys
  repeat' first
    | (intro _)
    | with_reducible assumption
    | with_reducible exact subM (by decide) hm
    | split
    | (with_reducible apply State.mk_only; (rotate_left); all_goals first | with_reducible exact .inl rfl | exact .inr (bitM (by decide) hm) | skip)
    | with_reducible exact fun _ h => h
    | split

theorem State.updTwin_only {m : Nat} {s0 s : State} (h : s0.OnlyM m s) (hm : 67108864 ||| m = m) (f : TwinSt → TwinSt) :
    s0.OnlyM m (State.updTwin s f) := by
  unfold State.updTwin
  repeat' first
    | (intro _)
    | with_reducible assumption
    | with_reducible exact subM (by decide) hm
    | split
    | (with_reducible apply State.mk_only; (rotate_left); all_goals first | with_reducible exact .inl rfl | exact .inr (bitM (by decide) hm) | skip)
    | with_reducible exact fun _ h => h
    | split

theorem State.twinAnnounce_only {m : Nat} {s0 s : State} (h : s0.OnlyM m s) (hm : 67108864 ||| m = m) :
    s0.OnlyM m (State.twinAnnounce s) := by
  unfold State.twinAnnounce
  repeat' first
    | (intro _)
    | with_reducible assumption
    | with_reducible exact subM (by decide) hm
    | (with_reducible first | apply State.updTwin_only)
    | with_reducible exact fun _ h => h
    | split

theorem State.frzMark_only {m : Nat} {s0 s : State} (h : s0.OnlyM m s) (hm : 100664334 ||| m = m) (src : Nat) (mode : Nat) (si : Nat) :
    s0.OnlyM m (State.frzMark s src mode si) := by
  unfold State.frzMark
  repeat' first
    | (intro _)
    | with_reducible assumption
    | with_reducible exact subM (by decide) hm
    | (extract_lets +onlyGivenNames x; first | (refine (fun hx => ?_ : State.OnlyM s0 m x → _) ?_; (on_goal 1 => clear_value x); (on_goal 2 => subst x)) | clear_value x)
    | (with_reducible first | apply State.twinAnnounce_only | apply State.startTimer_only | apply State.updSys_only | apply State.event_only)
    | with_reducible exact fun _ h => h
    | split

theorem State.frzAuto_only {m : Nat} {s0 s : State} (h : s0.OnlyM m s) (hm : 100664334 ||| m = m) (cause : Nat) (mode : Nat) (si : Nat) :
    s0.OnlyM m (State.frzAuto s cause mode si) := by
  unfold State.frzAuto
  repeat' first
    | (intro _)
    | with_reducible assumption
    | with_reducible exact subM (by decide) hm
    | (extract_lets +onlyGivenNames x; first | clear_value x)
    | (with_reducible first | apply State.frzMark_only)
    | with_reducible exact fun _ h => h
    | split

end Sys2Proof.Machine
end

