-- ==== Sys2Proof/Laws/OnlyChoquin.lean ====
section
/-!
SUPPORT. The parts of the state that the operations and commands of Machine/Choquin.lean change.
-/

set_option linter.all false

namespace Sys2Proof.Machine

open Sys2Proof

theorem State.setLst_only {m : Nat} {s0 s : State} (h : s0.OnlyM m s) (hm : 1030 ||| m = m) (n : Nat) (new : Nat) :
    s0.OnlyM m (State.setLst s n new) := by
  unfold State.setLst
  repeat' first
    | (intro _)
    | with_reducible assumption
    | with_reducible exact subM (by decide) hm
    | (with_reducible first | apply State.setFld_only | apply State.event_only)
    | with_reducible exact fun _ h => h
    | split

theorem State.sendCmd_only {m : Nat} {s0 s : State} (h : s0.OnlyM m s) (hm : 256 ||| m = m) (n : Nat) (cmd : Nat) (arg : Nat) :
    s0.OnlyM m (State.sendCmd s n cmd arg) := by
  unfold State.sendCmd
  repeat' first
    | (intro _)
    | with_reducible assumption
    | with_reducible exact subM (by decide) hm
    | (extract_lets +onlyGivenNames x; first | (refine (fun hx => ?_ : State.OnlyM s0 m x → _) ?_; (on_goal 1 => clear_value x); (on_goal 2 => subst x)) | clear_value x)
    | (with_reducible first | apply State.updLk_only)
    | with_reducible exact fun _ h => h
    | split
    | (fail_if_no_progress beta_reduce)

theorem State.toTrain_only {m : Nat} {s0 s : State} (h : s0.OnlyM m s) (hm : 1294 ||| m = m) (n : Nat) :
    s0.OnlyM m (State.toTrain s n) := by
  unfold State.toTrain
  repeat' first
    | (intro _)
    | with_reducible assumption
    | with_reducible exact subM (by decide) hm
    | (with_reducible first | apply State.startTimer_only | apply State.updLk_only | apply State.setLst_only)
    | with_reducible exact fun _ h => h
    | split

theorem State.linkPower_only {m : Nat} {s0 s : State} (h : s0.OnlyM m s) (hm : 1286 ||| m = m) (n : Nat) :
    s0.OnlyM m (State.linkPower s n) := by
  unfold State.linkPower
  repeat' first
    | (intro _)
    | with_reducible assumption
    | with_reducible exact subM (by decide) hm
    | (with_reducible first | apply State.iff_only | apply State.setLst_only | apply State.setLinkBit_only | apply State.updLk_only)
    | with_reducible exact fun _ h => h
    | split

theorem State.launch_only {m : Nat} {s0 s : State} (h : s0.OnlyM m s) (hm : 256 ||| m = m) (n : Nat) (hold : Bool) (iref : Int) (vlim : Nat) (vff : Int) :
    s0.OnlyM m (State.launch s n hold iref vlim vff) := by
  unfold State.launch
  repeat' first
    | (intro _)
    | with_reducible assumption
    | with_reducible exact subM (by decide) hm
    | (extract_lets +onlyGivenNames x; first | (refine (fun hx => ?_ : State.OnlyM s0 m x → _) ?_; (on_goal 1 => clear_value x); (on_goal 2 => subst x)) | clear_value x)
    | (with_reducible first | apply State.updLk_only)
    | with_reducible exact fun _ h => h
    | split
    | (fail_if_no_progress beta_reduce)

end Sys2Proof.Machine
end

