-- ==== Sys2Proof/Laws/OnlyTimeBase.lean ====
section
/-!
SUPPORT. The parts of the state that the operations and commands of Machine/TimeBase.lean change.
-/

set_option linter.all false

namespace Sys2Proof.Machine

open Sys2Proof

theorem State.updTim_only {m : Nat} {s0 s : State} (h : s0.OnlyM m s) (hm : 128 ||| m = m) (f : TimeSt → TimeSt) :
    s0.OnlyM m (State.updTim s f) := by
  unfold State.updTim
  repeat' first
    | (intro _)
    | with_reducible assumption
    | with_reducible exact subM (by decide) hm
    | split
    | (with_reducible apply State.mk_only; (rotate_left); all_goals first | with_reducible exact .inl rfl | exact .inr (bitM (by decide) hm) | skip)
    | with_reducible exact fun _ h => h
    | split

theorem State.setClkV_only {m : Nat} {s0 s : State} (h : s0.OnlyM m s) (hm : 1158 ||| m = m) (new : Nat) (valid : Bool) :
    s0.OnlyM m (State.setClkV s new valid) := by
  unfold State.setClkV
  repeat' first
    | (intro _)
    | with_reducible assumption
    | with_reducible exact subM (by decide) hm
    | (extract_lets +onlyGivenNames x; first | (refine (fun hx => ?_ : State.OnlyM s0 m x → _) ?_; (on_goal 1 => clear_value x); (on_goal 2 => subst x)) | clear_value x)
    | (with_reducible first | apply State.setFlag_only | apply State.setFld_only | apply State.iff_only | apply State.updTim_only | apply State.event_only)
    | with_reducible exact fun _ h => h
    | split
    | (fail_if_no_progress beta_reduce)

theorem State.setClk_only {m : Nat} {s0 s : State} (h : s0.OnlyM m s) (hm : 1158 ||| m = m) (new : Nat) :
    s0.OnlyM m (State.setClk s new) := by
  unfold State.setClk
  repeat' first
    | (intro _)
    | with_reducible assumption
    | with_reducible exact subM (by decide) hm
    | (with_reducible first | apply State.setClkV_only)
    | with_reducible exact fun _ h => h
    | split

theorem State.fixNext_only {m : Nat} {s0 s : State} (h : s0.OnlyM m s) (hm : 512 ||| m = m) :
    s0.OnlyM m (State.fixNext s) := by
  unfold State.fixNext
  repeat' first
    | (intro _)
    | with_reducible assumption
    | with_reducible exact subM (by decide) hm
    | (extract_lets +onlyGivenNames x; first | (refine (fun hx => ?_ : State.OnlyM s0 m x → _) ?_; (on_goal 1 => clear_value x); (on_goal 2 => subst x)) | clear_value x)
    | split
    | (with_reducible apply State.mk_only; (rotate_left); all_goals first | with_reducible exact .inl rfl | exact .inr (bitM (by decide) hm) | skip)
    | with_reducible exact fun _ h => h
    | split
    | (fail_if_no_progress beta_reduce)

theorem State.realign_only {m : Nat} {s0 s : State} (h : s0.OnlyM m s) (hm : 1158 ||| m = m) :
    s0.OnlyM m (State.realign s) := by
  unfold State.realign
  repeat' first
    | (intro _)
    | with_reducible assumption
    | with_reducible exact subM (by decide) hm
    | (extract_lets +onlyGivenNames x; first | clear_value x)
    | (with_reducible first | apply State.updTim_only | apply State.iff_only | apply State.event_only)
    | with_reducible exact fun _ h => h
    | split

theorem State.ppsRise_only {m : Nat} {s0 s : State} (h : s0.OnlyM m s) (hm : 128 ||| m = m) (old : Nat) :
    s0.OnlyM m (State.ppsRise s old) := by
  unfold State.ppsRise
  repeat' first
    | (intro _)
    | with_reducible assumption
    | with_reducible exact subM (by decide) hm
    | (extract_lets +onlyGivenNames x; first | (refine (fun hx => ?_ : State.OnlyM s0 m x → _) ?_; (on_goal 1 => clear_value x); (on_goal 2 => subst x)) | clear_value x)
    | (with_reducible first | apply State.iff_only | apply State.updTim_only)
    | with_reducible exact fun _ h => h
    | split
    | (fail_if_no_progress beta_reduce)

theorem State.advanceBy_only {m : Nat} {s0 s : State} (h : s0.OnlyM m s) (hm : 136 ||| m = m) (inc : Int) :
    s0.OnlyM m (State.advanceBy s inc) := by
  unfold State.advanceBy
  repeat' first
    | (intro _)
    | with_reducible assumption
    | with_reducible exact subM (by decide) hm
    | (extract_lets +onlyGivenNames x; first | (refine (fun hx => ?_ : State.OnlyM s0 m x → _) ?_; (on_goal 1 => clear_value x); (on_goal 2 => subst x)) | clear_value x)
    | (with_reducible first | apply State.ppsRise_only)
    | split
    | (with_reducible apply State.mk_only; (rotate_left); all_goals first | with_reducible exact .inl rfl | exact .inr (bitM (by decide) hm) | skip)
    | with_reducible exact fun _ h => h
    | split
    | (fail_if_no_progress beta_reduce)

theorem State.acceptCorr_only {m : Nat} {s0 s : State} (h : s0.OnlyM m s) (hm : 128 ||| m = m) (c : Int) (gnss : Bool) :
    s0.OnlyM m (State.acceptCorr s c gnss) := by
  unfold State.acceptCorr
  repeat' first
    | (intro _)
    | with_reducible assumption
    | with_reducible exact subM (by decide) hm
    | (with_reducible first | apply State.updTim_only)
    | with_reducible exact fun _ h => h
    | split

theorem State.badPps_only {m : Nat} {s0 s : State} (h : s0.OnlyM m s) (hm : 1158 ||| m = m) :
    s0.OnlyM m (State.badPps s) := by
  unfold State.badPps
  repeat' first
    | (intro _)
    | with_reducible assumption
    | with_reducible exact subM (by decide) hm
    | (extract_lets +onlyGivenNames x; first | (refine (fun hx => ?_ : State.OnlyM s0 m x → _) ?_; (on_goal 1 => clear_value x); (on_goal 2 => subst x)) | clear_value x)
    | (with_reducible first | apply State.setClk_only | apply State.setFlag_only | apply State.updTim_only | apply State.iff_only)
    | with_reducible exact fun _ h => h
    | split

theorem State.invalidPps_only {m : Nat} {s0 s : State} (h : s0.OnlyM m s) (hm : 1158 ||| m = m) :
    s0.OnlyM m (State.invalidPps s) := by
  unfold State.invalidPps
  repeat' first
    | (intro _)
    | with_reducible assumption
    | with_reducible exact subM (by decide) hm
    | (with_reducible first | apply State.badPps_only | apply State.event_only)
    | with_reducible exact fun _ h => h
    | split

theorem State.ppsWithin_only {m : Nat} {s0 s : State} (h : s0.OnlyM m s) (hm : 1158 ||| m = m) (ofs : Int) :
    s0.OnlyM m (State.ppsWithin s ofs) := by
  unfold State.ppsWithin
  repeat' first
    | (intro _)
    | with_reducible assumption
    | with_reducible exact subM (by decide) hm
    | (extract_lets +onlyGivenNames x; first | (refine (fun hx => ?_ : State.OnlyM s0 m x → _) ?_; (on_goal 1 => clear_value x); (on_goal 2 => subst x)) | clear_value x)
    | (with_reducible first | apply State.setClk_only | apply State.updTim_only | apply State.iff_only | apply State.acceptCorr_only)
    | with_reducible exact fun _ h => h
    | split

theorem State.ppsBeyond_only {m : Nat} {s0 s : State} (h : s0.OnlyM m s) (hm : 1158 ||| m = m) (ofs : Int) :
    s0.OnlyM m (State.ppsBeyond s ofs) := by
  unfold State.ppsBeyond
  repeat' first
    | (intro _)
    | with_reducible assumption
    | with_reducible exact subM (by decide) hm
    | (extract_lets +onlyGivenNames x; first | (refine (fun hx => ?_ : State.OnlyM s0 m x → _) ?_; (on_goal 1 => clear_value x); (on_goal 2 => subst x)) | clear_value x)
    | (with_reducible first | apply State.updTim_only | apply State.acceptCorr_only | apply State.event_only)
    | with_reducible exact fun _ h => h
    | split

theorem State.validPps_only {m : Nat} {s0 s : State} (h : s0.OnlyM m s) (hm : 1158 ||| m = m) (e : Nat) (ofs : Int) :
    s0.OnlyM m (State.validPps s e ofs) := by
  unfold State.validPps
  repeat' first
    | (intro _)
    | with_reducible assumption
    | with_reducible exact subM (by decide) hm
    | (extract_lets +onlyGivenNames x; first | (refine (fun hx => ?_ : State.OnlyM s0 m x → _) ?_; (on_goal 1 => clear_value x); (on_goal 2 => subst x)) | clear_value x)
    | (with_reducible first | apply State.setFlag_only | apply State.updTim_only | apply State.ppsBeyond_only | apply State.ppsWithin_only | apply State.setFldS_only)
    | with_reducible exact fun _ h => h
    | split

theorem execGnssPpsEdge_only (s : State) (at_ : Nat) :
    State.OnlyOut s 1158 (execGnssPpsEdge at_ s) := by
  have hm : 1158 ||| 1158 = 1158 := rfl
  have h : State.OnlyM s 1158 s := State.OnlyM.refl _ _
  unfold execGnssPpsEdge
  first | apply State.live_only | apply State.liveOn_only | apply next_only
  repeat' first
    | (intro _)
    | with_reducible assumption
    | with_reducible exact subM (by decide) hm
    | (extract_lets +onlyGivenNames x; first | (refine (fun hx => ?_ : State.OnlyM s 1158 x → _) ?_; (on_goal 1 => clear_value x); (on_goal 2 => subst x)) | clear_value x)
    | (with_reducible first | apply State.iff_only | apply State.invalidPps_only | apply State.updTim_only | apply State.event_only | apply State.setFlag_only)
    | with_reducible exact fun _ h => h
    | split
    | (fail_if_no_progress beta_reduce)

theorem execGnssMessage_only (s : State) (msg : GnssMsg) :
    State.OnlyOut s 1158 (execGnssMessage msg s) := by
  have hm : 1158 ||| 1158 = 1158 := rfl
  have h : State.OnlyM s 1158 s := State.OnlyM.refl _ _
  unfold execGnssMessage
  first | apply State.live_only | apply State.liveOn_only | apply next_only
  repeat' first
    | (intro _)
    | with_reducible assumption
    | with_reducible exact subM (by decide) hm
    | (extract_lets +onlyGivenNames x; first | (refine (fun hx => ?_ : State.OnlyM s 1158 x → _) ?_; (on_goal 1 => clear_value x); (on_goal 2 => subst x)) | clear_value x)
    | (with_reducible first | apply State.validPps_only | apply State.invalidPps_only)
    | with_reducible exact fun _ h => h
    | split
    | (fail_if_no_progress beta_reduce)

theorem execPpsMissing_only (s : State) :
    State.OnlyOut s 1158 (execPpsMissing s) := by
  have hm : 1158 ||| 1158 = 1158 := rfl
  have h : State.OnlyM s 1158 s := State.OnlyM.refl _ _
  unfold execPpsMissing
  first | apply State.live_only | apply next_only
  repeat' first
    | (intro _)
    | with_reducible assumption
    | with_reducible exact subM (by decide) hm
    | (with_reducible first | apply State.badPps_only)
    | with_reducible exact fun _ h => h
    | split

theorem State.applyCorr_only {m : Nat} {s0 s : State} (h : s0.OnlyM m s) (hm : 1678 ||| m = m) (c : Int) :
    s0.OnlyM m (State.applyCorr s c) := by
  unfold State.applyCorr
  repeat' first
    | (intro _)
    | with_reducible assumption
    | with_reducible exact subM (by decide) hm
    | (extract_lets +onlyGivenNames x; first | (refine (fun hx => ?_ : State.OnlyM s0 m x → _) ?_; (on_goal 1 => clear_value x); (on_goal 2 => subst x)) | clear_value x)
    | (with_reducible first | apply State.updTim_only | apply State.iff_only | apply State.event_only | apply State.setFlag_only | apply State.setFld_only | apply State.setFldS_only | apply State.realign_only | apply State.fixNext_only | apply State.setClk_only | apply State.advanceBy_only)
    | with_reducible exact fun _ h => h
    | split
    | (fail_if_no_progress beta_reduce)

theorem execSlewEnd_only (s : State) :
    State.OnlyOut s 1678 (execSlewEnd s) := by
  have hm : 1678 ||| 1678 = 1678 := rfl
  have h : State.OnlyM s 1678 s := State.OnlyM.refl _ _
  unfold execSlewEnd
  first | apply State.live_only | apply State.liveOn_only | apply next_only
  repeat' first
    | (intro _)
    | with_reducible assumption
    | with_reducible exact subM (by decide) hm
    | (extract_lets +onlyGivenNames x; first | (refine (fun hx => ?_ : State.OnlyM s 1678 x → _) ?_; (on_goal 1 => clear_value x); (on_goal 2 => subst x)) | clear_value x)
    | (with_reducible first | apply State.updTim_only | apply State.advanceBy_only | apply State.setFlag_only | apply State.setFld_only | apply State.fixNext_only | apply State.realign_only | apply State.event_only)
    | with_reducible exact fun _ h => h
    | split
    | (fail_if_no_progress beta_reduce)

theorem State.hostLeap_only {m : Nat} {s0 s : State} (h : s0.OnlyM m s) (hm : 1030 ||| m = m) (value : Word) :
    s0.OnlyM m (State.hostLeap s value) := by
  unfold State.hostLeap
  repeat' first
    | (intro _)
    | with_reducible assumption
    | with_reducible exact subM (by decide) hm
    | (extract_lets +onlyGivenNames x; first | (refine (fun hx => ?_ : State.OnlyM s0 m x → _) ?_; (on_goal 1 => clear_value x); (on_goal 2 => subst x)) | clear_value x)
    | (with_reducible first | apply State.setReg_only | apply State.setFld_only | apply State.event_only)
    | with_reducible exact fun _ h => h
    | split

theorem execTimeLeapWrite_only (s : State) (value : Word) :
    State.OnlyOut s 1030 (execTimeLeapWrite value s) := by
  have hm : 1030 ||| 1030 = 1030 := rfl
  have h : State.OnlyM s 1030 s := State.OnlyM.refl _ _
  unfold execTimeLeapWrite
  first | apply State.live_only | apply next_only
  repeat' first
    | (intro _)
    | with_reducible assumption
    | with_reducible exact subM (by decide) hm
    | (with_reducible first | apply State.hostLeap_only)
    | with_reducible exact fun _ h => h
    | split

theorem State.applyLeap_only {m : Nat} {s0 s : State} (h : s0.OnlyM m s) (hm : 34438 ||| m = m) :
    s0.OnlyM m (State.applyLeap s) := by
  unfold State.applyLeap
  repeat' first
    | (intro _)
    | with_reducible assumption
    | with_reducible exact subM (by decide) hm
    | (extract_lets +onlyGivenNames x; first | (refine (fun hx => ?_ : State.OnlyM s0 m x → _) ?_; (on_goal 1 => clear_value x); (on_goal 2 => subst x)) | (have y : State → State := x; clear y; subst x) | (have y : State → _ → State := x; clear y; subst x) | (have y : _ → State → State := x; clear y; subst x) | (have y : _ → _ → State → State := x; clear y; subst x) | (have y : State → _ → _ → State := x; clear y; subst x) | (have y : State → _ → State × _ := x; clear y; subst x) | clear_value x)
    | (with_reducible first | apply State.iff_only | apply State.setFldS_only | apply State.updTim_only | apply State.fixNext_only | apply State.event_only | apply State.setReg_only)
    | split
    | (with_reducible apply State.mk_only; (rotate_left); all_goals first | with_reducible exact .inl rfl | exact .inr (bitM (by decide) hm) | skip)
    | with_reducible exact fun _ h => h
    | split
    | (fail_if_no_progress beta_reduce)

theorem State.ptpRefresh_only {m : Nat} {s0 s : State} (h : s0.OnlyM m s) (hm : 1158 ||| m = m) :
    s0.OnlyM m (State.ptpRefresh s) := by
  unfold State.ptpRefresh
  repeat' first
    | (intro _)
    | with_reducible assumption
    | with_reducible exact subM (by decide) hm
    | (extract_lets +onlyGivenNames x; first | clear_value x)
    | (with_reducible first | apply State.updTim_only | apply State.each_only | apply State.event_only)
    | with_reducible exact fun _ h => h
    | split

theorem State.ptpForce_only {m : Nat} {s0 s : State} (h : s0.OnlyM m s) (hm : 2 ||| m = m) :
    s0.OnlyM m (State.ptpForce s) := by
  unfold State.ptpForce
  repeat' first
    | (intro _)
    | with_reducible assumption
    | with_reducible exact subM (by decide) hm
    | (with_reducible first | apply State.iff_only | apply State.setFld_only)
    | with_reducible exact fun _ h => h
    | split

theorem execPtpDelayRequest_only (s : State) (port : Fin 2) (peer : Bool) :
    State.OnlyOut s 128 (execPtpDelayRequest port peer s) := by
  have hm : 128 ||| 128 = 128 := rfl
  have h : State.OnlyM s 128 s := State.OnlyM.refl _ _
  unfold execPtpDelayRequest
  first | apply State.live_only | apply State.liveOn_only | apply next_only
  repeat' first
    | (intro _)
    | with_reducible assumption
    | with_reducible exact subM (by decide) hm
    | (with_reducible first | apply State.updTim_only)
    | with_reducible exact fun _ h => h
    | split

theorem execPtpSyncAnnounce_only (s : State) :
    State.OnlyOut s 136 (execPtpSyncAnnounce s) := by
  have hm : 136 ||| 136 = 136 := rfl
  have h : State.OnlyM s 136 s := State.OnlyM.refl _ _
  unfold execPtpSyncAnnounce
  first | apply State.live_only | apply State.liveOn_only | apply next_only
  repeat' first
    | (intro _)
    | with_reducible assumption
    | with_reducible exact subM (by decide) hm
    | (with_reducible first | apply State.each_only | apply State.startTimer_only | apply State.updTim_only)
    | with_reducible exact fun _ h => h
    | split

theorem State.overrun_only {m : Nat} {s0 s : State} (h : s0.OnlyM m s) (hm : 1158 ||| m = m) (kind : Nat) (core : Nat) (tell : Bool) :
    s0.OnlyM m (State.overrun s kind core tell) := by
  unfold State.overrun
  repeat' first
    | (intro _)
    | with_reducible assumption
    | with_reducible exact subM (by decide) hm
    | (extract_lets +onlyGivenNames x; first | (refine (fun hx => ?_ : State.OnlyM s0 m x → _) ?_; (on_goal 1 => clear_value x); (on_goal 2 => subst x)) | clear_value x)
    | (with_reducible first | apply State.updTim_only | apply State.inc_only | apply State.event_only)
    | with_reducible exact fun _ h => h
    | split

theorem State.sfAdvance_only {m : Nat} {s0 s : State} (h : s0.OnlyM m s) (hm : 136 ||| m = m) (inc : Int) :
    s0.OnlyM m (State.sfAdvance s inc) := by
  unfold State.sfAdvance
  repeat' first
    | (intro _)
    | with_reducible assumption
    | with_reducible exact subM (by decide) hm
    | (extract_lets +onlyGivenNames x; first | (refine (fun hx => ?_ : State.OnlyM s0 m x → _) ?_; (on_goal 1 => clear_value x); (on_goal 2 => subst x)) | clear_value x)
    | split
    | (with_reducible apply State.mk_only; (rotate_left); all_goals first | with_reducible exact .inl rfl | exact .inr (bitM (by decide) hm) | skip)
    | with_reducible exact fun _ h => h
    | split
    | (fail_if_no_progress beta_reduce)

theorem State.sfHold_only {m : Nat} {s0 s : State} (h : s0.OnlyM m s) (hm : 1158 ||| m = m) (len : Nat) :
    s0.OnlyM m (State.sfHold s len) := by
  unfold State.sfHold
  repeat' first
    | (intro _)
    | with_reducible assumption
    | with_reducible exact subM (by decide) hm
    | (extract_lets +onlyGivenNames x; first | clear_value x)
    | (with_reducible first | apply State.setClk_only | apply State.updTim_only | apply State.iff_only | apply State.setSat_only)
    | with_reducible exact fun _ h => h
    | split

theorem State.sfEdge_only {m : Nat} {s0 s : State} (h : s0.OnlyM m s) (hm : 1158 ||| m = m) :
    s0.OnlyM m (State.sfEdge s) := by
  unfold State.sfEdge
  repeat' first
    | (intro _)
    | with_reducible assumption
    | with_reducible exact subM (by decide) hm
    | (with_reducible first | apply State.iff_only | apply State.invalidPps_only)
    | with_reducible exact fun _ h => h
    | split

theorem State.sfTickTime_only {m : Nat} {s0 s : State} (h : s0.OnlyM m s) (hm : 1678 ||| m = m) :
    s0.OnlyM m (State.sfTickTime s) := by
  unfold State.sfTickTime
  repeat' first
    | (intro _)
    | with_reducible assumption
    | with_reducible exact subM (by decide) hm
    | (extract_lets +onlyGivenNames x; first | (refine (fun hx => ?_ : State.OnlyM s0 m x → _) ?_; (on_goal 1 => clear_value x); (on_goal 2 => subst x)) | clear_value x)
    | (with_reducible first | apply State.ppsRise_only | apply State.sfAdvance_only | apply State.realign_only | apply State.updTim_only | apply State.setFld_only | apply State.fixNext_only | apply State.sfEdge_only | apply State.sfHold_only)
    | with_reducible exact fun _ h => h
    | split
    | (fail_if_no_progress beta_reduce)

theorem State.startClock_only {m : Nat} {s0 s : State} (h : s0.OnlyM m s) (hm : 1158 ||| m = m) (totalLoss : Bool) (rtcNs : Nat) :
    s0.OnlyM m (State.startClock s totalLoss rtcNs) := by
  unfold State.startClock
  repeat' first
    | (intro _)
    | with_reducible assumption
    | with_reducible exact subM (by decide) hm
    | (extract_lets +onlyGivenNames x; first | (refine (fun hx => ?_ : State.OnlyM s0 m x → _) ?_; (on_goal 1 => clear_value x); (on_goal 2 => subst x)) | clear_value x)
    | (with_reducible first | apply State.updTim_only | apply State.setFlag_only | apply State.setReg_only | apply State.setFld_only | apply State.setClk_only | apply State.setClkV_only | apply State.realign_only)
    | with_reducible exact fun _ h => h
    | split
    | (fail_if_no_progress beta_reduce)

end Sys2Proof.Machine
end

