-- ==== Sys2Proof/Laws/OnlyCeAlu.lean ====
section
/-!
SUPPORT. The parts of the state that the operations and commands of Machine/CeAlu.lean change.
-/

set_option linter.all false

namespace Sys2Proof.Machine

open Sys2Proof

theorem State.setCtx_only {m : Nat} {s0 s : State} (h : s0.OnlyM m s) (hm : 1024 ||| m = m) (c : Nat) (w : CeCtx) :
    s0.OnlyM m (State.setCtx s c w) := by
  unfold State.setCtx
  repeat' first
    | (intro _)
    | with_reducible assumption
    | with_reducible exact subM (by decide) hm
    | (with_reducible first | apply State.updCe_only)
    | with_reducible exact fun _ h => h
    | split

theorem State.ceSaturate_only {m : Nat} {s0 s : State} (h : s0.OnlyM m s) (hm : 1030 ||| m = m) (c : Nat) (a2 : Nat) :
    s0.OnlyM m (State.ceSaturate s c a2) := by
  unfold State.ceSaturate
  repeat' first
    | (intro _)
    | with_reducible assumption
    | with_reducible exact subM (by decide) hm
    | (extract_lets +onlyGivenNames x; first | (refine (fun hx => ?_ : State.OnlyM s0 m x → _) ?_; (on_goal 1 => clear_value x); (on_goal 2 => subst x)) | clear_value x)
    | (with_reducible first | apply State.setReg_only | apply State.updCe_only | apply State.event_only)
    | with_reducible exact fun _ h => h
    | split

theorem State.ceStep_only {m : Nat} {s0 s : State} (h : s0.OnlyM m s) (hm : 1030 ||| m = m) (c : Nat) (op : Nat) (d : BitVec 7) (a : BitVec 7) (b : BitVec 7) (k : BitVec 3) (f : CeEffect) :
    s0.OnlyM m (State.ceStep s c op d a b k f) := by
  unfold State.ceStep
  repeat' first
    | (intro _)
    | with_reducible assumption
    | with_reducible exact subM (by decide) hm
    | (extract_lets +onlyGivenNames x; first | clear_value x)
    | (with_reducible first | apply State.ceSaturate_only | apply State.setCtx_only)
    | with_reducible exact fun _ h => h
    | split

theorem execNop_only (s : State) (ce : Fin 2) (d : BitVec 7) (a : BitVec 7) (b : BitVec 7) (k : BitVec 3) :
    State.OnlyOut s 1030 (execNop ce d a b k s) := by
  have hm : 1030 ||| 1030 = 1030 := rfl
  have h : State.OnlyM s 1030 s := State.OnlyM.refl _ _
  unfold execNop
  first | apply State.live_only | apply next_only
  repeat' first
    | (intro _)
    | with_reducible assumption
    | with_reducible exact subM (by decide) hm
    | (with_reducible first | apply State.ceStep_only)
    | with_reducible exact fun _ h => h
    | split

theorem execEndProgram_only (s : State) (ce : Fin 2) (d : BitVec 7) (a : BitVec 7) (b : BitVec 7) (k : BitVec 3) :
    State.OnlyOut s 1030 (execEndProgram ce d a b k s) := by
  have hm : 1030 ||| 1030 = 1030 := rfl
  have h : State.OnlyM s 1030 s := State.OnlyM.refl _ _
  unfold execEndProgram
  first | apply State.live_only | apply State.liveOn_only | apply next_only
  repeat' first
    | (intro _)
    | with_reducible assumption
    | with_reducible exact subM (by decide) hm
    | (with_reducible first | apply State.updCe_only | apply State.ceStep_only)
    | with_reducible exact fun _ h => h
    | split

theorem execLda_only (s : State) (ce : Fin 2) (d : BitVec 7) (a : BitVec 7) (b : BitVec 7) (k : BitVec 3) :
    State.OnlyOut s 1030 (execLda ce d a b k s) := by
  have hm : 1030 ||| 1030 = 1030 := rfl
  have h : State.OnlyM s 1030 s := State.OnlyM.refl _ _
  unfold execLda
  first | apply State.live_only | apply next_only
  repeat' first
    | (intro _)
    | with_reducible assumption
    | with_reducible exact subM (by decide) hm
    | (with_reducible first | apply State.ceStep_only)
    | with_reducible exact fun _ h => h
    | split

theorem execAda_only (s : State) (ce : Fin 2) (d : BitVec 7) (a : BitVec 7) (b : BitVec 7) (k : BitVec 3) :
    State.OnlyOut s 1030 (execAda ce d a b k s) := by
  have hm : 1030 ||| 1030 = 1030 := rfl
  have h : State.OnlyM s 1030 s := State.OnlyM.refl _ _
  unfold execAda
  first | apply State.live_only | apply next_only
  repeat' first
    | (intro _)
    | with_reducible assumption
    | with_reducible exact subM (by decide) hm
    | (with_reducible first | apply State.ceStep_only)
    | with_reducible exact fun _ h => h
    | split

theorem execSba_only (s : State) (ce : Fin 2) (d : BitVec 7) (a : BitVec 7) (b : BitVec 7) (k : BitVec 3) :
    State.OnlyOut s 1030 (execSba ce d a b k s) := by
  have hm : 1030 ||| 1030 = 1030 := rfl
  have h : State.OnlyM s 1030 s := State.OnlyM.refl _ _
  unfold execSba
  first | apply State.live_only | apply next_only
  repeat' first
    | (intro _)
    | with_reducible assumption
    | with_reducible exact subM (by decide) hm
    | (with_reducible first | apply State.ceStep_only)
    | with_reducible exact fun _ h => h
    | split

theorem execMul_only (s : State) (ce : Fin 2) (d : BitVec 7) (a : BitVec 7) (b : BitVec 7) (k : BitVec 3) :
    State.OnlyOut s 1030 (execMul ce d a b k s) := by
  have hm : 1030 ||| 1030 = 1030 := rfl
  have h : State.OnlyM s 1030 s := State.OnlyM.refl _ _
  unfold execMul
  first | apply State.live_only | apply next_only
  repeat' first
    | (intro _)
    | with_reducible assumption
    | with_reducible exact subM (by decide) hm
    | (with_reducible first | apply State.ceStep_only)
    | with_reducible exact fun _ h => h
    | split

theorem execMac_only (s : State) (ce : Fin 2) (d : BitVec 7) (a : BitVec 7) (b : BitVec 7) (k : BitVec 3) :
    State.OnlyOut s 1030 (execMac ce d a b k s) := by
  have hm : 1030 ||| 1030 = 1030 := rfl
  have h : State.OnlyM s 1030 s := State.OnlyM.refl _ _
  unfold execMac
  first | apply State.live_only | apply next_only
  repeat' first
    | (intro _)
    | with_reducible assumption
    | with_reducible exact subM (by decide) hm
    | (with_reducible first | apply State.ceStep_only)
    | with_reducible exact fun _ h => h
    | split

theorem execMsu_only (s : State) (ce : Fin 2) (d : BitVec 7) (a : BitVec 7) (b : BitVec 7) (k : BitVec 3) :
    State.OnlyOut s 1030 (execMsu ce d a b k s) := by
  have hm : 1030 ||| 1030 = 1030 := rfl
  have h : State.OnlyM s 1030 s := State.OnlyM.refl _ _
  unfold execMsu
  first | apply State.live_only | apply next_only
  repeat' first
    | (intro _)
    | with_reducible assumption
    | with_reducible exact subM (by decide) hm
    | (with_reducible first | apply State.ceStep_only)
    | with_reducible exact fun _ h => h
    | split

theorem execZra_only (s : State) (ce : Fin 2) (d : BitVec 7) (a : BitVec 7) (b : BitVec 7) (k : BitVec 3) :
    State.OnlyOut s 1030 (execZra ce d a b k s) := by
  have hm : 1030 ||| 1030 = 1030 := rfl
  have h : State.OnlyM s 1030 s := State.OnlyM.refl _ _
  unfold execZra
  first | apply State.live_only | apply next_only
  repeat' first
    | (intro _)
    | with_reducible assumption
    | with_reducible exact subM (by decide) hm
    | (with_reducible first | apply State.ceStep_only)
    | with_reducible exact fun _ h => h
    | split

theorem execMin_only (s : State) (ce : Fin 2) (d : BitVec 7) (a : BitVec 7) (b : BitVec 7) (k : BitVec 3) :
    State.OnlyOut s 1030 (execMin ce d a b k s) := by
  have hm : 1030 ||| 1030 = 1030 := rfl
  have h : State.OnlyM s 1030 s := State.OnlyM.refl _ _
  unfold execMin
  first | apply State.live_only | apply next_only
  repeat' first
    | (intro _)
    | with_reducible assumption
    | with_reducible exact subM (by decide) hm
    | (with_reducible first | apply State.ceStep_only)
    | with_reducible exact fun _ h => h
    | split

theorem execMax_only (s : State) (ce : Fin 2) (d : BitVec 7) (a : BitVec 7) (b : BitVec 7) (k : BitVec 3) :
    State.OnlyOut s 1030 (execMax ce d a b k s) := by
  have hm : 1030 ||| 1030 = 1030 := rfl
  have h : State.OnlyM s 1030 s := State.OnlyM.refl _ _
  unfold execMax
  first | apply State.live_only | apply next_only
  repeat' first
    | (intro _)
    | with_reducible assumption
    | with_reducible exact subM (by decide) hm
    | (with_reducible first | apply State.ceStep_only)
    | with_reducible exact fun _ h => h
    | split

theorem execClp_only (s : State) (ce : Fin 2) (d : BitVec 7) (a : BitVec 7) (b : BitVec 7) (k : BitVec 3) :
    State.OnlyOut s 1030 (execClp ce d a b k s) := by
  have hm : 1030 ||| 1030 = 1030 := rfl
  have h : State.OnlyM s 1030 s := State.OnlyM.refl _ _
  unfold execClp
  first | apply State.live_only | apply next_only
  repeat' first
    | (intro _)
    | with_reducible assumption
    | with_reducible exact subM (by decide) hm
    | (with_reducible first | apply State.ceStep_only)
    | with_reducible exact fun _ h => h
    | split

theorem execAbs_only (s : State) (ce : Fin 2) (d : BitVec 7) (a : BitVec 7) (b : BitVec 7) (k : BitVec 3) :
    State.OnlyOut s 1030 (execAbs ce d a b k s) := by
  have hm : 1030 ||| 1030 = 1030 := rfl
  have h : State.OnlyM s 1030 s := State.OnlyM.refl _ _
  unfold execAbs
  first | apply State.live_only | apply next_only
  repeat' first
    | (intro _)
    | with_reducible assumption
    | with_reducible exact subM (by decide) hm
    | (with_reducible first | apply State.ceStep_only)
    | with_reducible exact fun _ h => h
    | split

theorem execNeg_only (s : State) (ce : Fin 2) (d : BitVec 7) (a : BitVec 7) (b : BitVec 7) (k : BitVec 3) :
    State.OnlyOut s 1030 (execNeg ce d a b k s) := by
  have hm : 1030 ||| 1030 = 1030 := rfl
  have h : State.OnlyM s 1030 s := State.OnlyM.refl _ _
  unfold execNeg
  first | apply State.live_only | apply next_only
  repeat' first
    | (intro _)
    | with_reducible assumption
    | with_reducible exact subM (by decide) hm
    | (with_reducible first | apply State.ceStep_only)
    | with_reducible exact fun _ h => h
    | split

theorem execExa_only (s : State) (ce : Fin 2) (d : BitVec 7) (a : BitVec 7) (b : BitVec 7) (k : BitVec 3) :
    State.OnlyOut s 1030 (execExa ce d a b k s) := by
  have hm : 1030 ||| 1030 = 1030 := rfl
  have h : State.OnlyM s 1030 s := State.OnlyM.refl _ _
  unfold execExa
  first | apply State.live_only | apply next_only
  repeat' first
    | (intro _)
    | with_reducible assumption
    | with_reducible exact subM (by decide) hm
    | (with_reducible first | apply State.ceStep_only)
    | with_reducible exact fun _ h => h
    | split

theorem execRcp_only (s : State) (ce : Fin 2) (d : BitVec 7) (a : BitVec 7) (b : BitVec 7) (k : BitVec 3) :
    State.OnlyOut s 1030 (execRcp ce d a b k s) := by
  have hm : 1030 ||| 1030 = 1030 := rfl
  have h : State.OnlyM s 1030 s := State.OnlyM.refl _ _
  unfold execRcp
  first | apply State.live_only | apply next_only
  repeat' first
    | (intro _)
    | with_reducible assumption
    | with_reducible exact subM (by decide) hm
    | (with_reducible first | apply State.ceStep_only)
    | with_reducible exact fun _ h => h
    | split

theorem execSel_only (s : State) (ce : Fin 2) (d : BitVec 7) (a : BitVec 7) (b : BitVec 7) (k : BitVec 3) :
    State.OnlyOut s 1030 (execSel ce d a b k s) := by
  have hm : 1030 ||| 1030 = 1030 := rfl
  have h : State.OnlyM s 1030 s := State.OnlyM.refl _ _
  unfold execSel
  first | apply State.live_only | apply next_only
  repeat' first
    | (intro _)
    | with_reducible assumption
    | with_reducible exact subM (by decide) hm
    | (with_reducible first | apply State.ceStep_only)
    | with_reducible exact fun _ h => h
    | split

theorem execRsum_only (s : State) (ce : Fin 2) (d : BitVec 7) (a : BitVec 7) (b : BitVec 7) (k : BitVec 3) :
    State.OnlyOut s 1030 (execRsum ce d a b k s) := by
  have hm : 1030 ||| 1030 = 1030 := rfl
  have h : State.OnlyM s 1030 s := State.OnlyM.refl _ _
  unfold execRsum
  first | apply State.live_only | apply next_only
  repeat' first
    | (intro _)
    | with_reducible assumption
    | with_reducible exact subM (by decide) hm
    | (with_reducible first | apply State.ceStep_only)
    | with_reducible exact fun _ h => h
    | split

theorem execRmax_only (s : State) (ce : Fin 2) (d : BitVec 7) (a : BitVec 7) (b : BitVec 7) (k : BitVec 3) :
    State.OnlyOut s 1030 (execRmax ce d a b k s) := by
  have hm : 1030 ||| 1030 = 1030 := rfl
  have h : State.OnlyM s 1030 s := State.OnlyM.refl _ _
  unfold execRmax
  first | apply State.live_only | apply next_only
  repeat' first
    | (intro _)
    | with_reducible assumption
    | with_reducible exact subM (by decide) hm
    | (with_reducible first | apply State.ceStep_only)
    | with_reducible exact fun _ h => h
    | split

theorem execSprd_only (s : State) (ce : Fin 2) (d : BitVec 7) (a : BitVec 7) (b : BitVec 7) (k : BitVec 3) :
    State.OnlyOut s 1030 (execSprd ce d a b k s) := by
  have hm : 1030 ||| 1030 = 1030 := rfl
  have h : State.OnlyM s 1030 s := State.OnlyM.refl _ _
  unfold execSprd
  first | apply State.live_only | apply next_only
  repeat' first
    | (intro _)
    | with_reducible assumption
    | with_reducible exact subM (by decide) hm
    | (with_reducible first | apply State.ceStep_only)
    | with_reducible exact fun _ h => h
    | split

theorem execStf_only (s : State) (ce : Fin 2) (d : BitVec 7) (a : BitVec 7) (b : BitVec 7) (k : BitVec 3) :
    State.OnlyOut s 1030 (execStf ce d a b k s) := by
  have hm : 1030 ||| 1030 = 1030 := rfl
  have h : State.OnlyM s 1030 s := State.OnlyM.refl _ _
  unfold execStf
  first | apply State.live_only | apply next_only
  repeat' first
    | (intro _)
    | with_reducible assumption
    | with_reducible exact subM (by decide) hm
    | (with_reducible first | apply State.ceStep_only)
    | with_reducible exact fun _ h => h
    | split

theorem execStn_only (s : State) (ce : Fin 2) (d : BitVec 7) (a : BitVec 7) (b : BitVec 7) (k : BitVec 3) :
    State.OnlyOut s 1030 (execStn ce d a b k s) := by
  have hm : 1030 ||| 1030 = 1030 := rfl
  have h : State.OnlyM s 1030 s := State.OnlyM.refl _ _
  unfold execStn
  first | apply State.live_only | apply next_only
  repeat' first
    | (intro _)
    | with_reducible assumption
    | with_reducible exact subM (by decide) hm
    | (with_reducible first | apply State.ceStep_only)
    | with_reducible exact fun _ h => h
    | split

theorem execMov_only (s : State) (ce : Fin 2) (d : BitVec 7) (a : BitVec 7) (b : BitVec 7) (k : BitVec 3) :
    State.OnlyOut s 1030 (execMov ce d a b k s) := by
  have hm : 1030 ||| 1030 = 1030 := rfl
  have h : State.OnlyM s 1030 s := State.OnlyM.refl _ _
  unfold execMov
  first | apply State.live_only | apply next_only
  repeat' first
    | (intro _)
    | with_reducible assumption
    | with_reducible exact subM (by decide) hm
    | (with_reducible first | apply State.ceStep_only)
    | with_reducible exact fun _ h => h
    | split

theorem execCgt_only (s : State) (ce : Fin 2) (d : BitVec 7) (a : BitVec 7) (b : BitVec 7) (k : BitVec 3) :
    State.OnlyOut s 1030 (execCgt ce d a b k s) := by
  have hm : 1030 ||| 1030 = 1030 := rfl
  have h : State.OnlyM s 1030 s := State.OnlyM.refl _ _
  unfold execCgt
  first | apply State.live_only | apply next_only
  repeat' first
    | (intro _)
    | with_reducible assumption
    | with_reducible exact subM (by decide) hm
    | (with_reducible first | apply State.ceStep_only)
    | with_reducible exact fun _ h => h
    | split

theorem execCge_only (s : State) (ce : Fin 2) (d : BitVec 7) (a : BitVec 7) (b : BitVec 7) (k : BitVec 3) :
    State.OnlyOut s 1030 (execCge ce d a b k s) := by
  have hm : 1030 ||| 1030 = 1030 := rfl
  have h : State.OnlyM s 1030 s := State.OnlyM.refl _ _
  unfold execCge
  first | apply State.live_only | apply next_only
  repeat' first
    | (intro _)
    | with_reducible assumption
    | with_reducible exact subM (by decide) hm
    | (with_reducible first | apply State.ceStep_only)
    | with_reducible exact fun _ h => h
    | split

theorem execKand_only (s : State) (ce : Fin 2) (d : BitVec 7) (a : BitVec 7) (b : BitVec 7) (k : BitVec 3) :
    State.OnlyOut s 1030 (execKand ce d a b k s) := by
  have hm : 1030 ||| 1030 = 1030 := rfl
  have h : State.OnlyM s 1030 s := State.OnlyM.refl _ _
  unfold execKand
  first | apply State.live_only | apply State.liveOn_only | apply next_only
  repeat' first
    | (intro _)
    | with_reducible assumption
    | with_reducible exact subM (by decide) hm
    | (with_reducible first | apply State.ceStep_only)
    | with_reducible exact fun _ h => h
    | split

theorem execKor_only (s : State) (ce : Fin 2) (d : BitVec 7) (a : BitVec 7) (b : BitVec 7) (k : BitVec 3) :
    State.OnlyOut s 1030 (execKor ce d a b k s) := by
  have hm : 1030 ||| 1030 = 1030 := rfl
  have h : State.OnlyM s 1030 s := State.OnlyM.refl _ _
  unfold execKor
  first | apply State.live_only | apply State.liveOn_only | apply next_only
  repeat' first
    | (intro _)
    | with_reducible assumption
    | with_reducible exact subM (by decide) hm
    | (with_reducible first | apply State.ceStep_only)
    | with_reducible exact fun _ h => h
    | split

theorem execKnot_only (s : State) (ce : Fin 2) (d : BitVec 7) (a : BitVec 7) (b : BitVec 7) (k : BitVec 3) :
    State.OnlyOut s 1030 (execKnot ce d a b k s) := by
  have hm : 1030 ||| 1030 = 1030 := rfl
  have h : State.OnlyM s 1030 s := State.OnlyM.refl _ _
  unfold execKnot
  first | apply State.live_only | apply State.liveOn_only | apply next_only
  repeat' first
    | (intro _)
    | with_reducible assumption
    | with_reducible exact subM (by decide) hm
    | (with_reducible first | apply State.ceStep_only)
    | with_reducible exact fun _ h => h
    | split

theorem execSkz_only (s : State) (ce : Fin 2) (d : BitVec 7) (a : BitVec 7) (b : BitVec 7) (k : BitVec 3) :
    State.OnlyOut s 1030 (execSkz ce d a b k s) := by
  have hm : 1030 ||| 1030 = 1030 := rfl
  have h : State.OnlyM s 1030 s := State.OnlyM.refl _ _
  unfold execSkz
  first | apply State.live_only | apply next_only
  repeat' first
    | (intro _)
    | with_reducible assumption
    | with_reducible exact subM (by decide) hm
    | (with_reducible first | apply State.ceStep_only)
    | with_reducible exact fun _ h => h
    | split

theorem execTrg_only (s : State) (ce : Fin 2) (d : BitVec 7) (a : BitVec 7) (b : BitVec 7) (k : BitVec 3) :
    State.OnlyOut s 1030 (execTrg ce d a b k s) := by
  have hm : 1030 ||| 1030 = 1030 := rfl
  have h : State.OnlyM s 1030 s := State.OnlyM.refl _ _
  unfold execTrg
  first | apply State.live_only | apply next_only
  repeat' first
    | (intro _)
    | with_reducible assumption
    | with_reducible exact subM (by decide) hm
    | (with_reducible first | apply State.ceStep_only | apply State.cupTrigger_only)
    | with_reducible exact fun _ h => h
    | split

end Sys2Proof.Machine
end

