-- ==== Sys2Proof/Laws/OnlyMoves.lean ====
section
/-!
SUPPORT. The parts of the state that the operations and commands of Machine/Moves.lean change.
-/

set_option linter.all false

namespace Sys2Proof.Machine

open Sys2Proof

theorem State.updSh_only {m : Nat} {s0 s : State} (h : s0.OnlyM m s) (hm : 2048 ||| m = m) (f : ShareSt → ShareSt) :
    s0.OnlyM m (State.updSh s f) := by
  unfold State.updSh
  repeat' first
    | (intro _)
    | with_reducible assumption
    | with_reducible exact subM (by decide) hm
    | split
    | (with_reducible apply State.mk_only; (rotate_left); all_goals first | with_reducible exact .inl rfl | exact .inr (bitM (by decide) hm) | skip)
    | with_reducible exact fun _ h => h
    | split

theorem State.updMv_only {m : Nat} {s0 s : State} (h : s0.OnlyM m s) (hm : 2048 ||| m = m) (n : Nat) (f : Move → Move) :
    s0.OnlyM m (State.updMv s n f) := by
  unfold State.updMv
  repeat' first
    | (intro _)
    | with_reducible assumption
    | with_reducible exact subM (by decide) hm
    | (with_reducible first | apply State.updSh_only)
    | with_reducible exact fun _ h => h
    | split

theorem State.updBl_only {m : Nat} {s0 s : State} (h : s0.OnlyM m s) (hm : 1024 ||| m = m) (n : Nat) (f : BlockLane → BlockLane) :
    s0.OnlyM m (State.updBl s n f) := by
  unfold State.updBl
  repeat' first
    | (intro _)
    | with_reducible assumption
    | with_reducible exact subM (by decide) hm
    | (with_reducible first | apply State.updCe_only)
    | with_reducible exact fun _ h => h
    | split

theorem State.dropK1_only {m : Nat} {s0 s : State} (h : s0.OnlyM m s) (hm : 1024 ||| m = m) (c : Nat) (lane : Nat) :
    s0.OnlyM m (State.dropK1 s c lane) := by
  unfold State.dropK1
  repeat' first
    | (intro _)
    | with_reducible assumption
    | with_reducible exact subM (by decide) hm
    | (extract_lets +onlyGivenNames x; first | clear_value x)
    | (with_reducible first | apply State.updCe_only)
    | with_reducible exact fun _ h => h
    | split

theorem State.showStep_only {m : Nat} {s0 s : State} (h : s0.OnlyM m s) (hm : 2 ||| m = m) (n : Nat) (st : Nat) (dest : Option Nat) :
    s0.OnlyM m (State.showStep s n st dest) := by
  unfold State.showStep
  repeat' first
    | (intro _)
    | with_reducible assumption
    | with_reducible exact subM (by decide) hm
    | (with_reducible first | apply State.setFld_only)
    | with_reducible exact fun _ h => h
    | split

theorem State.moveAbandon_only {m : Nat} {s0 s : State} (h : s0.OnlyM m s) (hm : 3342 ||| m = m) (n : Nat) (ended : Bool) :
    s0.OnlyM m (State.moveAbandon s n ended) := by
  unfold State.moveAbandon
  repeat' first
    | (intro _)
    | with_reducible assumption
    | with_reducible exact subM (by decide) hm
    | (extract_lets +onlyGivenNames x; first | (refine (fun hx => ?_ : State.OnlyM s0 m x → _) ?_; (on_goal 1 => clear_value x); (on_goal 2 => subst x)) | clear_value x)
    | (with_reducible first | apply State.updMv_only | apply State.event_only | apply State.stopTimer_only | apply State.showStep_only | apply State.updBl_only | apply State.iff_only | apply State.sendCmd_only)
    | with_reducible exact fun _ h => h
    | split
    | (fail_if_no_progress beta_reduce)

theorem State.moveAbort_only {m : Nat} {s0 s : State} (h : s0.OnlyM m s) (hm : 3086 ||| m = m) (n : Nat) :
    s0.OnlyM m (State.moveAbort s n) := by
  unfold State.moveAbort
  repeat' first
    | (intro _)
    | with_reducible assumption
    | with_reducible exact subM (by decide) hm
    | (extract_lets +onlyGivenNames x; first | (refine (fun hx => ?_ : State.OnlyM s0 m x → _) ?_; (on_goal 1 => clear_value x); (on_goal 2 => subst x)) | clear_value x)
    | (with_reducible first | apply State.updMv_only | apply State.stopTimer_only | apply State.showStep_only | apply State.event_only | apply State.setLinkBit_only)
    | with_reducible exact fun _ h => h
    | split
    | (fail_if_no_progress beta_reduce)

theorem State.moveDrop_only {m : Nat} {s0 s : State} (h : s0.OnlyM m s) (hm : 2058 ||| m = m) (n : Nat) :
    s0.OnlyM m (State.moveDrop s n) := by
  unfold State.moveDrop
  repeat' first
    | (intro _)
    | with_reducible assumption
    | with_reducible exact subM (by decide) hm
    | (with_reducible first | apply State.updMv_only | apply State.stopTimer_only | apply State.showStep_only)
    | with_reducible exact fun _ h => h
    | split

theorem State.closeStep_only {m : Nat} {s0 s : State} (h : s0.OnlyM m s) (hm : 2304 ||| m = m) (n : Nat) :
    s0.OnlyM m (State.closeStep s n) := by
  unfold State.closeStep
  repeat' first
    | (intro _)
    | with_reducible assumption
    | with_reducible exact subM (by decide) hm
    | (extract_lets +onlyGivenNames x; first | (refine (fun hx => ?_ : State.OnlyM s0 m x → _) ?_; (on_goal 1 => clear_value x); (on_goal 2 => subst x)) | clear_value x)
    | (with_reducible first | apply State.sendCmd_only | apply State.updMv_only)
    | with_reducible exact fun _ h => h
    | split
    | (fail_if_no_progress beta_reduce)

theorem State.beginStep_only {m : Nat} {s0 s : State} (h : s0.OnlyM m s) (hm : 2314 ||| m = m) (n : Nat) (st : Nat) :
    s0.OnlyM m (State.beginStep s n st) := by
  unfold State.beginStep
  repeat' first
    | (intro _)
    | with_reducible assumption
    | with_reducible exact subM (by decide) hm
    | (extract_lets +onlyGivenNames x; first | (refine (fun hx => ?_ : State.OnlyM s0 m x → _) ?_; (on_goal 1 => clear_value x); (on_goal 2 => subst x)) | clear_value x)
    | (with_reducible first | apply State.startTimer_only | apply State.showStep_only | apply State.sendCmd_only | apply State.closeStep_only | apply State.updMv_only)
    | with_reducible exact fun _ h => h
    | split
    | (fail_if_no_progress beta_reduce)

theorem State.moveStepEnd_only {m : Nat} {s0 s : State} (h : s0.OnlyM m s) (hm : 3342 ||| m = m) (n : Nat) :
    s0.OnlyM m (State.moveStepEnd s n) := by
  unfold State.moveStepEnd
  repeat' first
    | (intro _)
    | with_reducible assumption
    | with_reducible exact subM (by decide) hm
    | (extract_lets +onlyGivenNames x; first | (refine (fun hx => ?_ : State.OnlyM s0 m x → _) ?_; (on_goal 1 => clear_value x); (on_goal 2 => subst x)) | clear_value x)
    | (with_reducible first | apply State.updMv_only | apply State.showStep_only | apply State.beginStep_only | apply State.stopTimer_only | apply State.event_only)
    | with_reducible exact fun _ h => h
    | split

theorem execMoveStepEnd_only (s : State) (link : Fin 48) :
    State.OnlyOut s 3342 (execMoveStepEnd link s) := by
  have hm : 3342 ||| 3342 = 3342 := rfl
  have h : State.OnlyM s 3342 s := State.OnlyM.refl _ _
  unfold execMoveStepEnd
  first | apply State.live_only | apply next_only
  repeat' first
    | (intro _)
    | with_reducible assumption
    | with_reducible exact subM (by decide) hm
    | (with_reducible first | apply State.moveStepEnd_only)
    | with_reducible exact fun _ h => h
    | split

theorem execMoveStepTimeout_only (s : State) (link : Fin 48) :
    State.OnlyOut s 3086 (execMoveStepTimeout link s) := by
  have hm : 3086 ||| 3086 = 3086 := rfl
  have h : State.OnlyM s 3086 s := State.OnlyM.refl _ _
  unfold execMoveStepTimeout
  first | apply State.live_only | apply next_only
  repeat' first
    | (intro _)
    | with_reducible assumption
    | with_reducible exact subM (by decide) hm
    | (with_reducible first | apply State.moveAbort_only)
    | with_reducible exact fun _ h => h
    | split

theorem State.mxExclClear_only {m : Nat} {s0 s : State} (h : s0.OnlyM m s) (hm : 2 ||| m = m) (lo : Word) (hi : Word) :
    s0.OnlyM m (State.mxExclClear s lo hi) := by
  unfold State.mxExclClear
  repeat' first
    | (intro _)
    | with_reducible assumption
    | with_reducible exact subM (by decide) hm
    | (extract_lets +onlyGivenNames x; first | (refine (fun hx => ?_ : State.OnlyM s0 m x → _) ?_; (on_goal 1 => clear_value x); (on_goal 2 => subst x)) | clear_value x)
    | (with_reducible first | apply State.setReg_only)
    | with_reducible exact fun _ h => h
    | split

theorem execMxExclClear_only (s : State) (lo : Word) (hi : Word) :
    State.OnlyOut s 2 (execMxExclClear lo hi s) := by
  have hm : 2 ||| 2 = 2 := rfl
  have h : State.OnlyM s 2 s := State.OnlyM.refl _ _
  unfold execMxExclClear
  first | apply State.live_only | apply next_only
  repeat' first
    | (intro _)
    | with_reducible assumption
    | with_reducible exact subM (by decide) hm
    | (with_reducible first | apply State.mxExclClear_only)
    | with_reducible exact fun _ h => h
    | split

theorem State.ceExclClear_only {m : Nat} {s0 s : State} (h : s0.OnlyM m s) (hm : 1026 ||| m = m) (c : Nat) (mask : Word) :
    s0.OnlyM m (State.ceExclClear s c mask) := by
  unfold State.ceExclClear
  repeat' first
    | (intro _)
    | with_reducible assumption
    | with_reducible exact subM (by decide) hm
    | (extract_lets +onlyGivenNames x; first | (refine (fun hx => ?_ : State.OnlyM s0 m x → _) ?_; (on_goal 1 => clear_value x); (on_goal 2 => subst x)) | clear_value x)
    | (with_reducible first | apply State.setReg_only | apply State.updCe_only)
    | with_reducible exact fun _ h => h
    | split

theorem execCeExclClear_only (s : State) (ce : Fin 2) (mask : Word) :
    State.OnlyOut s 1026 (execCeExclClear ce mask s) := by
  have hm : 1026 ||| 1026 = 1026 := rfl
  have h : State.OnlyM s 1026 s := State.OnlyM.refl _ _
  unfold execCeExclClear
  first | apply State.live_only | apply next_only
  repeat' first
    | (intro _)
    | with_reducible assumption
    | with_reducible exact subM (by decide) hm
    | (with_reducible first | apply State.ceExclClear_only)
    | with_reducible exact fun _ h => h
    | split

end Sys2Proof.Machine
end

