-- ==== Sys2Proof/Laws/OnlySharing.lean ====
section
/-!
SUPPORT. The parts of the state that the operations and commands of Machine/Sharing.lean change.
-/

set_option linter.all false

namespace Sys2Proof.Machine

open Sys2Proof

theorem State.publishGrants_only {m : Nat} {s0 s : State} (h : s0.OnlyM m s) (hm : 2050 ||| m = m) (f : Fill) :
    s0.OnlyM m (State.publishGrants s f) := by
  unfold State.publishGrants
  repeat' first
    | (intro _)
    | with_reducible assumption
    | with_reducible exact subM (by decide) hm
    | (extract_lets +onlyGivenNames x; first | (refine (fun hx => ?_ : State.OnlyM s0 m x → _) ?_; (on_goal 1 => clear_value x); (on_goal 2 => subst x)) | (refine (fun hx => ?_ : State.OnlyM s0 m x.1 → _) ?_; (on_goal 1 => clear_value x); (on_goal 2 => subst x)) | (refine (fun hx => ?_ : State.OnlyM s0 m x.2 → _) ?_; (on_goal 1 => clear_value x); (on_goal 2 => subst x)) | clear_value x)
    | (with_reducible first | apply State.each_only | apply State.updSh_only | apply State.setFld_only | apply State.setFldS_only | apply State.setSat_only | apply foldl_only)
    | with_reducible exact fun _ h => h
    | split
    | (fail_if_no_progress beta_reduce)

theorem State.reportBudgets_only {m : Nat} {s0 s : State} (h : s0.OnlyM m s) (hm : 3078 ||| m = m) (f : Fill) (b : Q) (b0 : Q) (b1 : Q) :
    s0.OnlyM m (State.reportBudgets s f b b0 b1) := by
  unfold State.reportBudgets
  repeat' first
    | (intro _)
    | with_reducible assumption
    | with_reducible exact subM (by decide) hm
    | (extract_lets +onlyGivenNames x; first | (refine (fun hx => ?_ : State.OnlyM s0 m x → _) ?_; (on_goal 1 => clear_value x); (on_goal 2 => subst x)) | clear_value x)
    | (with_reducible first | apply State.setSat_only | apply State.setFlag_only | apply State.setFld_only | apply State.iff_only | apply State.event_only | apply State.updSh_only | apply State.each_only)
    | with_reducible exact fun _ h => h
    | split
    | (fail_if_no_progress beta_reduce)

theorem State.harmFactor_only {m : Nat} {s0 s : State} (h : s0.OnlyM m s) (hm : 3078 ||| m = m) :
    s0.OnlyM m (State.harmFactor s) := by
  unfold State.harmFactor
  repeat' first
    | (intro _)
    | with_reducible assumption
    | with_reducible exact subM (by decide) hm
    | (extract_lets +onlyGivenNames x; first | (refine (fun hx => ?_ : State.OnlyM s0 m x → _) ?_; (on_goal 1 => clear_value x); (on_goal 2 => subst x)) | clear_value x)
    | (with_reducible first | apply State.each_only | apply State.iff_only | apply State.updSh_only | apply State.setFld_only | apply State.event_only)
    | with_reducible exact fun _ h => h
    | split
    | (fail_if_no_progress beta_reduce)

theorem State.countSpare_only {m : Nat} {s0 s : State} (h : s0.OnlyM m s) (hm : 2048 ||| m = m) (cs : List Cons) (needs : List (Nat × Nat)) :
    s0.OnlyM m (State.countSpare s cs needs) := by
  unfold State.countSpare
  repeat' first
    | (intro _)
    | with_reducible assumption
    | with_reducible exact subM (by decide) hm
    | (extract_lets +onlyGivenNames x; first | (refine (fun hx => ?_ : State.OnlyM s0 m x → _) ?_; (on_goal 1 => clear_value x); (on_goal 2 => subst x)) | clear_value x)
    | (with_reducible first | apply State.updSh_only)
    | with_reducible exact fun _ h => h
    | split
    | (fail_if_no_progress beta_reduce)

theorem State.decideMove_only {m : Nat} {s0 s : State} (h : s0.OnlyM m s) (hm : 2048 ||| m = m) (n : Nat) (dest : Option Nat) :
    s0.OnlyM m (State.decideMove s n dest) := by
  unfold State.decideMove
  repeat' first
    | (intro _)
    | with_reducible assumption
    | with_reducible exact subM (by decide) hm
    | (extract_lets +onlyGivenNames x; first | (refine (fun hx => ?_ : State.OnlyM s0 m x → _) ?_; (on_goal 1 => clear_value x); (on_goal 2 => subst x)) | clear_value x)
    | (with_reducible first | apply State.updMv_only)
    | with_reducible exact fun _ h => h
    | split
    | (fail_if_no_progress beta_reduce)

theorem State.serveNeed_only (cs : List Cons) (needs : List (Nat × Nat)) (j w : Nat) : ∀ (k : Nat) {m : Nat} {s0 s : State} (_ : s0.OnlyM m s) (hm : 3078 ||| m = m), s0.OnlyM m (State.serveNeed cs needs j w k s)
  | 0, _, _, _, h, hm => h
  | k + 1, m, s0, s, h, hm => by
    have ih := fun {s} h => @State.serveNeed_only cs needs j w k m s0 s h hm
    unfold State.serveNeed
    repeat' first
      | (intro _)
      | with_reducible assumption
      | (extract_lets +onlyGivenNames x; first | (refine (fun hx => ?_ : State.OnlyM s0 m x → _) ?_; (on_goal 1 => clear_value x); (on_goal 2 => subst x)) | (refine (fun hx => ?_ : State.OnlyM s0 m x.1 → _) ?_; (on_goal 1 => clear_value x); (on_goal 2 => subst x)) | clear_value x)
      | (with_reducible first | apply ih | apply State.setFlag_only (hm := subM (by decide) hm) | apply State.decideMove_only (hm := subM (by decide) hm) | apply State.event_only (hm := subM (by decide) hm) | apply State.updSh_only (hm := subM (by decide) hm))
      | with_reducible exact fun _ h => h
      | split

theorem State.assign_only {m : Nat} {s0 s : State} (h : s0.OnlyM m s) (hm : 3078 ||| m = m) (cs : List Cons) :
    s0.OnlyM m (State.assign s cs) := by
  unfold State.assign
  repeat' first
    | (intro _)
    | with_reducible assumption
    | with_reducible exact subM (by decide) hm
    | (extract_lets +onlyGivenNames x; first | (refine (fun hx => ?_ : State.OnlyM s0 m x → _) ?_; (on_goal 1 => clear_value x); (on_goal 2 => subst x)) | clear_value x)
    | (with_reducible first | apply State.countSpare_only | apply State.each_only | apply State.iff_only | apply State.decideMove_only | apply State.serveNeed_only | apply State.setFlag_only)
    | with_reducible exact fun _ h => h
    | split
    | (fail_if_no_progress beta_reduce)

theorem State.updateMap_only {m : Nat} {s0 s : State} (h : s0.OnlyM m s) (hm : 2050 ||| m = m) :
    s0.OnlyM m (State.updateMap s) := by
  unfold State.updateMap
  repeat' first
    | (intro _)
    | with_reducible assumption
    | with_reducible exact subM (by decide) hm
    | (extract_lets +onlyGivenNames x; first | (refine (fun hx => ?_ : State.OnlyM s0 m x → _) ?_; (on_goal 1 => clear_value x); (on_goal 2 => subst x)) | (have y : State → State := x; clear y; subst x) | (have y : State → _ → State := x; clear y; subst x) | (have y : _ → State → State := x; clear y; subst x) | (have y : _ → _ → State → State := x; clear y; subst x) | (have y : State → _ → _ → State := x; clear y; subst x) | (have y : State → _ → State × _ := x; clear y; subst x) | clear_value x)
    | (with_reducible first | apply State.each_only | apply State.updSh_only | apply State.updMv_only | apply State.iff_only | apply State.showStep_only)
    | with_reducible exact fun _ h => h
    | split
    | (fail_if_no_progress beta_reduce)

theorem State.allocWeights_only {m : Nat} {s0 s : State} (h : s0.OnlyM m s) (hm : 2048 ||| m = m) :
    s0.OnlyM m (State.allocWeights s) := by
  unfold State.allocWeights
  repeat' first
    | (intro _)
    | with_reducible assumption
    | with_reducible exact subM (by decide) hm
    | (extract_lets +onlyGivenNames x; first | (refine (fun hx => ?_ : State.OnlyM s0 m x → _) ?_; (on_goal 1 => clear_value x); (on_goal 2 => subst x)) | clear_value x)
    | (with_reducible first | apply State.each_only | apply State.updSh_only)
    | with_reducible exact fun _ h => h
    | split
    | (fail_if_no_progress beta_reduce)

theorem State.capacityLost_only {m : Nat} {s0 s : State} (h : s0.OnlyM m s) (hm : 3078 ||| m = m) :
    s0.OnlyM m (State.capacityLost s) := by
  unfold State.capacityLost
  repeat' first
    | (intro _)
    | with_reducible assumption
    | with_reducible exact subM (by decide) hm
    | (extract_lets +onlyGivenNames x; first | (refine (fun hx => ?_ : State.OnlyM s0 m x → _) ?_; (on_goal 1 => clear_value x); (on_goal 2 => subst x)) | clear_value x)
    | (with_reducible first | apply State.each_only | apply State.event_only | apply State.updMv_only)
    | with_reducible exact fun _ h => h
    | split
    | (fail_if_no_progress beta_reduce)

theorem State.allocSlot_only {m : Nat} {s0 s : State} (h : s0.OnlyM m s) (hm : 3078 ||| m = m) :
    s0.OnlyM m (State.allocSlot s) := by
  unfold State.allocSlot
  repeat' first
    | (intro _)
    | with_reducible assumption
    | with_reducible exact subM (by decide) hm
    | (extract_lets +onlyGivenNames x; first | (refine (fun hx => ?_ : State.OnlyM s0 m x → _) ?_; (on_goal 1 => clear_value x); (on_goal 2 => subst x)) | clear_value x)
    | (with_reducible first | apply State.updSh_only | apply State.allocWeights_only | apply State.capacityLost_only | apply State.updateMap_only | apply State.reportBudgets_only | apply State.publishGrants_only | apply State.harmFactor_only | apply State.assign_only)
    | with_reducible exact fun _ h => h
    | split

theorem execAllocatorSlot_only (s : State) :
    State.OnlyOut s 3078 (execAllocatorSlot s) := by
  have hm : 3078 ||| 3078 = 3078 := rfl
  have h : State.OnlyM s 3078 s := State.OnlyM.refl _ _
  unfold execAllocatorSlot
  first | apply State.live_only | apply State.liveOn_only | apply next_only
  repeat' first
    | (intro _)
    | with_reducible assumption
    | with_reducible exact subM (by decide) hm
    | (with_reducible first | apply State.allocSlot_only)
    | with_reducible exact fun _ h => h
    | split

theorem State.takePt_only {m : Nat} {s0 s : State} (h : s0.OnlyM m s) (hm : 3078 ||| m = m) (j : Nat) (raw : List Int) :
    s0.OnlyM m (State.takePt s j raw) := by
  unfold State.takePt
  repeat' first
    | (intro _)
    | with_reducible assumption
    | with_reducible exact subM (by decide) hm
    | (extract_lets +onlyGivenNames x; first | (refine (fun hx => ?_ : State.OnlyM s0 m x → _) ?_; (on_goal 1 => clear_value x); (on_goal 2 => subst x)) | clear_value x)
    | (with_reducible first | apply State.updSh_only | apply State.iff_only | apply State.setFld_only | apply State.each_only | apply State.event_only)
    | with_reducible exact fun _ h => h
    | split

theorem State.derateStep_only {m : Nat} {s0 s : State} (h : s0.OnlyM m s) (hm : 3078 ||| m = m) (j : Nat) :
    s0.OnlyM m (State.derateStep s j) := by
  unfold State.derateStep
  repeat' first
    | (intro _)
    | with_reducible assumption
    | with_reducible exact subM (by decide) hm
    | (extract_lets +onlyGivenNames x; first | (refine (fun hx => ?_ : State.OnlyM s0 m x → _) ?_; (on_goal 1 => clear_value x); (on_goal 2 => subst x)) | clear_value x)
    | (with_reducible first | apply State.setFld_only | apply State.updSh_only | apply State.event_only)
    | with_reducible exact fun _ h => h
    | split
    | (fail_if_no_progress beta_reduce)

theorem State.coolStep_only {m : Nat} {s0 s : State} (h : s0.OnlyM m s) (hm : 2056 ||| m = m) (j : Nat) :
    s0.OnlyM m (State.coolStep s j) := by
  unfold State.coolStep
  repeat' first
    | (intro _)
    | with_reducible assumption
    | with_reducible exact subM (by decide) hm
    | (extract_lets +onlyGivenNames x; first | (refine (fun hx => ?_ : State.OnlyM s0 m x → _) ?_; (on_goal 1 => clear_value x); (on_goal 2 => subst x)) | clear_value x)
    | (with_reducible first | apply State.updSh_only | apply State.stopTimer_only | apply State.startTimer_only)
    | with_reducible exact fun _ h => h
    | split
    | (fail_if_no_progress beta_reduce)

theorem execCoolingFailed_only (s : State) (out : Fin 8) :
    State.OnlyOut s 3078 (execCoolingFailed out s) := by
  have hm : 3078 ||| 3078 = 3078 := rfl
  have h : State.OnlyM s 3078 s := State.OnlyM.refl _ _
  unfold execCoolingFailed
  first | apply State.live_only | apply next_only
  repeat' first
    | (intro _)
    | with_reducible assumption
    | with_reducible exact subM (by decide) hm
    | (with_reducible first | apply State.setFlag_only | apply State.updSh_only | apply State.event_only)
    | with_reducible exact fun _ h => h
    | split

theorem execCoolingRestored_only (s : State) (out : Fin 8) :
    State.OnlyOut s 1030 (execCoolingRestored out s) := by
  have hm : 1030 ||| 1030 = 1030 := rfl
  have h : State.OnlyM s 1030 s := State.OnlyM.refl _ _
  unfold execCoolingRestored
  first | apply State.live_only | apply next_only
  repeat' first
    | (intro _)
    | with_reducible assumption
    | with_reducible exact subM (by decide) hm
    | (with_reducible first | apply State.setFlag_only | apply State.event_only)
    | with_reducible exact fun _ h => h
    | split

theorem execPumpRunonEnd_only (s : State) (out : Fin 8) :
    State.OnlyOut s 2056 (execPumpRunonEnd out s) := by
  have hm : 2056 ||| 2056 = 2056 := rfl
  have h : State.OnlyM s 2056 s := State.OnlyM.refl _ _
  unfold execPumpRunonEnd
  first | apply State.live_only | apply next_only
  repeat' first
    | (intro _)
    | with_reducible assumption
    | with_reducible exact subM (by decide) hm
    | (with_reducible first | apply State.updSh_only | apply State.stopTimer_only)
    | with_reducible exact fun _ h => h
    | split

theorem State.bundleTick_only {m : Nat} {s0 s : State} (h : s0.OnlyM m s) (hm : 3078 ||| m = m) :
    s0.OnlyM m (State.bundleTick s) := by
  unfold State.bundleTick
  repeat' first
    | (intro _)
    | with_reducible assumption
    | with_reducible exact subM (by decide) hm
    | (extract_lets +onlyGivenNames x; first | (refine (fun hx => ?_ : State.OnlyM s0 m x → _) ?_; (on_goal 1 => clear_value x); (on_goal 2 => subst x)) | clear_value x)
    | (with_reducible first | apply State.each_only | apply State.iff_only | apply State.event_only | apply State.updSh_only | apply State.setFld_only | apply State.setFlag_only | apply foldl_only)
    | with_reducible exact fun _ h => h
    | split
    | (fail_if_no_progress beta_reduce)

theorem State.moveFrom_only {m : Nat} {s0 s : State} (h : s0.OnlyM m s) (hm : 3338 ||| m = m) (n : Nat) (st : Nat) :
    s0.OnlyM m (State.moveFrom s n st) := by
  unfold State.moveFrom
  repeat' first
    | (intro _)
    | with_reducible assumption
    | with_reducible exact subM (by decide) hm
    | (with_reducible first | apply State.showStep_only | apply State.updBl_only | apply State.updMv_only | apply State.beginStep_only)
    | with_reducible exact fun _ h => h
    | split

theorem State.moveTick_only {m : Nat} {s0 s : State} (h : s0.OnlyM m s) (hm : 3342 ||| m = m) :
    s0.OnlyM m (State.moveTick s) := by
  unfold State.moveTick
  repeat' first
    | (intro _)
    | with_reducible assumption
    | with_reducible exact subM (by decide) hm
    | (extract_lets +onlyGivenNames x; first | (refine (fun hx => ?_ : State.OnlyM s0 m x → _) ?_; (on_goal 1 => clear_value x); (on_goal 2 => subst x)) | clear_value x)
    | (with_reducible first | apply State.each_only | apply State.moveFrom_only | apply State.event_only | apply State.updMv_only | apply State.iff_only | apply State.moveAbandon_only | apply State.sendCmd_only)
    | with_reducible exact fun _ h => h
    | split
    | (fail_if_no_progress beta_reduce)

end Sys2Proof.Machine
end

