-- ==== Sys2Proof/Laws/OnlyLinks.lean ====
section
/-!
SUPPORT. The parts of the state that the operations and commands of Machine/Links.lean change.
-/

set_option linter.all false

namespace Sys2Proof.Machine

open Sys2Proof

theorem State.leaveService_only {m : Nat} {s0 s : State} (h : s0.OnlyM m s) (hm : 3342 ||| m = m) (n : Nat) :
    s0.OnlyM m (State.leaveService s n) := by
  unfold State.leaveService
  repeat' first
    | (intro _)
    | with_reducible assumption
    | with_reducible exact subM (by decide) hm
    | (extract_lets +onlyGivenNames x; first | (refine (fun hx => ?_ : State.OnlyM s0 m x → _) ?_; (on_goal 1 => clear_value x); (on_goal 2 => subst x)) | clear_value x)
    | (with_reducible first | apply State.moveAbandon_only | apply State.dropK1_only)
    | with_reducible exact fun _ h => h
    | split

theorem State.retrainNow_only {m : Nat} {s0 s : State} (h : s0.OnlyM m s) (hm : 3342 ||| m = m) (n : Nat) :
    s0.OnlyM m (State.retrainNow s n) := by
  unfold State.retrainNow
  repeat' first
    | (intro _)
    | with_reducible assumption
    | with_reducible exact subM (by decide) hm
    | (extract_lets +onlyGivenNames x; first | (refine (fun hx => ?_ : State.OnlyM s0 m x → _) ?_; (on_goal 1 => clear_value x); (on_goal 2 => subst x)) | clear_value x)
    | (with_reducible first | apply State.iff_only | apply State.toTrain_only | apply State.leaveService_only)
    | with_reducible exact fun _ h => h
    | split
    | (fail_if_no_progress beta_reduce)

theorem State.retrainLink_only {m : Nat} {s0 s : State} (h : s0.OnlyM m s) (hm : 3342 ||| m = m) (n : Nat) :
    s0.OnlyM m (State.retrainLink s n) := by
  unfold State.retrainLink
  repeat' first
    | (intro _)
    | with_reducible assumption
    | with_reducible exact subM (by decide) hm
    | (with_reducible first | apply State.retrainNow_only | apply State.updLk_only)
    | with_reducible exact fun _ h => h
    | split

theorem State.toLock_only {m : Nat} {s0 s : State} (h : s0.OnlyM m s) (hm : 1294 ||| m = m) (n : Nat) :
    s0.OnlyM m (State.toLock s n) := by
  unfold State.toLock
  repeat' first
    | (intro _)
    | with_reducible assumption
    | with_reducible exact subM (by decide) hm
    | (with_reducible first | apply State.updLk_only | apply State.stopTimer_only | apply State.setLst_only)
    | with_reducible exact fun _ h => h
    | split

theorem State.badFrame_only {m : Nat} {s0 s : State} (h : s0.OnlyM m s) (hm : 1286 ||| m = m) (n : Nat) (cnt : Option Fld) :
    s0.OnlyM m (State.badFrame s n cnt) := by
  unfold State.badFrame
  repeat' first
    | (intro _)
    | with_reducible assumption
    | with_reducible exact subM (by decide) hm
    | (extract_lets +onlyGivenNames x; first | (refine (fun hx => ?_ : State.OnlyM s0 m x → _) ?_; (on_goal 1 => clear_value x); (on_goal 2 => subst x)) | clear_value x)
    | (with_reducible first | apply State.updLk_only | apply State.inc_only | apply State.event_only)
    | with_reducible exact fun _ h => h
    | split

theorem State.upAux_only {m : Nat} {s0 s : State} (h : s0.OnlyM m s) (hm : 258 ||| m = m) (n : Nat) (u : UpFields) :
    s0.OnlyM m (State.upAux s n u) := by
  unfold State.upAux
  repeat' first
    | (intro _)
    | with_reducible assumption
    | with_reducible exact subM (by decide) hm
    | (extract_lets +onlyGivenNames x; first | (refine (fun hx => ?_ : State.OnlyM s0 m x → _) ?_; (on_goal 1 => clear_value x); (on_goal 2 => subst x)) | clear_value x)
    | (with_reducible first | apply State.setFld_only | apply State.updLk_only | apply State.setFldS_only)
    | with_reducible exact fun _ h => h
    | split

theorem State.faultCode_only {m : Nat} {s0 s : State} (h : s0.OnlyM m s) (hm : 2 ||| m = m) (n : Nat) (code : Nat) :
    s0.OnlyM m (State.faultCode s n code) := by
  unfold State.faultCode
  repeat' first
    | (intro _)
    | with_reducible assumption
    | with_reducible exact subM (by decide) hm
    | (with_reducible first | apply State.setFld_only)
    | with_reducible exact fun _ h => h
    | split

theorem State.upFault_only {m : Nat} {s0 s : State} (h : s0.OnlyM m s) (hm : 3342 ||| m = m) (n : Nat) (u : UpFields) :
    s0.OnlyM m (State.upFault s n u) := by
  unfold State.upFault
  repeat' first
    | (intro _)
    | with_reducible assumption
    | with_reducible exact subM (by decide) hm
    | (extract_lets +onlyGivenNames x; first | (refine (fun hx => ?_ : State.OnlyM s0 m x → _) ?_; (on_goal 1 => clear_value x); (on_goal 2 => subst x)) | clear_value x)
    | (with_reducible first | apply State.iff_only | apply State.moveAbort_only | apply State.faultCode_only | apply State.updLk_only | apply State.event_only)
    | with_reducible exact fun _ h => h
    | split

theorem State.takeFrame_only {m : Nat} {s0 s : State} (h : s0.OnlyM m s) (hm : 3342 ||| m = m) (n : Nat) (u : UpFields) :
    s0.OnlyM m (State.takeFrame s n u) := by
  unfold State.takeFrame
  repeat' first
    | (intro _)
    | with_reducible assumption
    | with_reducible exact subM (by decide) hm
    | (extract_lets +onlyGivenNames x; first | (refine (fun hx => ?_ : State.OnlyM s0 m x → _) ?_; (on_goal 1 => clear_value x); (on_goal 2 => subst x)) | clear_value x)
    | (with_reducible first | apply State.setFlag_only | apply State.upFault_only | apply State.setFld_only | apply State.updLk_only | apply State.upAux_only)
    | with_reducible exact fun _ h => h
    | split

theorem State.linkNext_only {m : Nat} {s0 s : State} (h : s0.OnlyM m s) (hm : 1294 ||| m = m) (n : Nat) (u : UpFields) :
    s0.OnlyM m (State.linkNext s n u) := by
  unfold State.linkNext
  repeat' first
    | (intro _)
    | with_reducible assumption
    | with_reducible exact subM (by decide) hm
    | (extract_lets +onlyGivenNames x; first | clear_value x)
    | (with_reducible first | apply State.iff_only | apply State.setLst_only | apply State.updLk_only | apply State.stopTimer_only)
    | with_reducible exact fun _ h => h
    | split

theorem State.failedToStop_only {m : Nat} {s0 s : State} (h : s0.OnlyM m s) (hm : 1286 ||| m = m) (n : Nat) (u : UpFields) :
    s0.OnlyM m (State.failedToStop s n u) := by
  unfold State.failedToStop
  repeat' first
    | (intro _)
    | with_reducible assumption
    | with_reducible exact subM (by decide) hm
    | (extract_lets +onlyGivenNames x; first | (refine (fun hx => ?_ : State.OnlyM s0 m x → _) ?_; (on_goal 1 => clear_value x); (on_goal 2 => subst x)) | clear_value x)
    | (with_reducible first | apply State.event_only | apply State.updLk_only)
    | with_reducible exact fun _ h => h
    | split
    | (fail_if_no_progress beta_reduce)

theorem State.goodFrame_only {m : Nat} {s0 s : State} (h : s0.OnlyM m s) (hm : 3342 ||| m = m) (n : Nat) (u : UpFields) (dev : Int) :
    s0.OnlyM m (State.goodFrame s n u dev) := by
  unfold State.goodFrame
  repeat' first
    | (intro _)
    | with_reducible assumption
    | with_reducible exact subM (by decide) hm
    | (extract_lets +onlyGivenNames x; first | (refine (fun hx => ?_ : State.OnlyM s0 m x → _) ?_; (on_goal 1 => clear_value x); (on_goal 2 => subst x)) | clear_value x)
    | (with_reducible first | apply State.iff_only | apply State.updLk_only | apply State.failedToStop_only | apply State.linkNext_only | apply State.takeFrame_only)
    | with_reducible exact fun _ h => h
    | split

theorem State.judgeFrame_only {m : Nat} {s0 s : State} (h : s0.OnlyM m s) (hm : 68878 ||| m = m) (n : Nat) (f : BitVec 144) (dev : Int) :
    s0.OnlyM m (State.judgeFrame s n f dev) := by
  unfold State.judgeFrame
  repeat' first
    | (intro _)
    | with_reducible assumption
    | with_reducible exact subM (by decide) hm
    | (extract_lets +onlyGivenNames x; first | (refine (fun hx => ?_ : State.OnlyM s0 m x → _) ?_; (on_goal 1 => clear_value x); (on_goal 2 => subst x)) | clear_value x)
    | (with_reducible first | apply State.badFrame_only | apply State.iff_only | apply State.faultSeen_only | apply State.event_only | apply State.goodFrame_only)
    | with_reducible exact fun _ h => h
    | split
    | (fail_if_no_progress beta_reduce)

theorem State.abortFrame_only {m : Nat} {s0 s : State} (h : s0.OnlyM m s) (hm : 1286 ||| m = m) (n : Nat) :
    s0.OnlyM m (State.abortFrame s n) := by
  unfold State.abortFrame
  repeat' first
    | (intro _)
    | with_reducible assumption
    | with_reducible exact subM (by decide) hm
    | (with_reducible first | apply State.badFrame_only | apply State.inc_only)
    | with_reducible exact fun _ h => h
    | split

theorem State.upChars_only {m : Nat} {s0 s : State} (h : s0.OnlyM m s) (hm : 68878 ||| m = m) (n : Nat) (cs : List (BitVec 10)) (dev : Int) :
    s0.OnlyM m (State.upChars s n cs dev) := by
  unfold State.upChars
  repeat' first
    | (intro _)
    | with_reducible assumption
    | with_reducible exact subM (by decide) hm
    | (extract_lets +onlyGivenNames x; first | (refine (fun hx => ?_ : State.OnlyM s0 m x → _) ?_; (on_goal 1 => clear_value x); (on_goal 2 => subst x)) | clear_value x)
    | (with_reducible first | apply State.updLk_only | apply State.setSat_only | apply State.iff_only | apply State.inc_only | apply State.startTimer_only | apply State.badFrame_only | apply State.abortFrame_only | apply State.judgeFrame_only)
    | with_reducible exact fun _ h => h
    | split
    | (fail_if_no_progress beta_reduce)

theorem State.upstreamFrame_only {m : Nat} {s0 s : State} (h : s0.OnlyM m s) (hm : 68878 ||| m = m) (n : Nat) (a : UpArrival) :
    s0.OnlyM m (State.upstreamFrame s n a) := by
  unfold State.upstreamFrame
  repeat' first
    | (intro _)
    | with_reducible assumption
    | with_reducible exact subM (by decide) hm
    | (with_reducible first | apply State.upChars_only | apply State.badFrame_only | apply State.inc_only | apply State.abortFrame_only | apply State.iff_only | apply State.startTimer_only | apply State.judgeFrame_only)
    | with_reducible exact fun _ h => h
    | split

theorem execUpstreamFrame_only (s : State) (link : Fin 48) (arrival : UpArrival) :
    State.OnlyOut s 68878 (execUpstreamFrame link arrival s) := by
  have hm : 68878 ||| 68878 = 68878 := rfl
  have h : State.OnlyM s 68878 s := State.OnlyM.refl _ _
  unfold execUpstreamFrame
  first | apply State.live_only | apply next_only
  repeat' first
    | (intro _)
    | with_reducible assumption
    | with_reducible exact subM (by decide) hm
    | (with_reducible first | apply State.upstreamFrame_only)
    | with_reducible exact fun _ h => h
    | split

theorem State.laneDropped_only {m : Nat} {s0 s : State} (h : s0.OnlyM m s) (hm : 1030 ||| m = m) (n : Nat) :
    s0.OnlyM m (State.laneDropped s n) := by
  unfold State.laneDropped
  repeat' first
    | (intro _)
    | with_reducible assumption
    | with_reducible exact subM (by decide) hm
    | (with_reducible first | apply State.updBl_only | apply State.dropK1_only | apply State.event_only)
    | with_reducible exact fun _ h => h
    | split

theorem State.linkLost_only {m : Nat} {s0 s : State} (h : s0.OnlyM m s) (hm : 3342 ||| m = m) (n : Nat) :
    s0.OnlyM m (State.linkLost s n) := by
  unfold State.linkLost
  repeat' first
    | (intro _)
    | with_reducible assumption
    | with_reducible exact subM (by decide) hm
    | (extract_lets +onlyGivenNames x; first | (refine (fun hx => ?_ : State.OnlyM s0 m x → _) ?_; (on_goal 1 => clear_value x); (on_goal 2 => subst x)) | clear_value x)
    | (with_reducible first | apply State.event_only | apply State.setLst_only | apply State.startTimer_only | apply State.updLk_only | apply State.moveAbandon_only | apply State.laneDropped_only)
    | with_reducible exact fun _ h => h
    | split
    | (fail_if_no_progress beta_reduce)

theorem execLinkLost_only (s : State) (link : Fin 48) :
    State.OnlyOut s 3342 (execLinkLost link s) := by
  have hm : 3342 ||| 3342 = 3342 := rfl
  have h : State.OnlyM s 3342 s := State.OnlyM.refl _ _
  unfold execLinkLost
  first | apply State.live_only | apply next_only
  repeat' first
    | (intro _)
    | with_reducible assumption
    | with_reducible exact subM (by decide) hm
    | (with_reducible first | apply State.linkLost_only)
    | with_reducible exact fun _ h => h
    | split

theorem execArrivalDrift_only (s : State) (link : Fin 48) :
    State.OnlyOut s 1286 (execArrivalDrift link s) := by
  have hm : 1286 ||| 1286 = 1286 := rfl
  have h : State.OnlyM s 1286 s := State.OnlyM.refl _ _
  unfold execArrivalDrift
  first | apply State.live_only | apply State.liveOn_only | apply next_only
  repeat' first
    | (intro _)
    | with_reducible assumption
    | with_reducible exact subM (by decide) hm
    | (with_reducible first | apply State.updLk_only | apply State.sendCmd_only | apply State.event_only)
    | with_reducible exact fun _ h => h
    | split

theorem State.drainDone_only {m : Nat} {s0 s : State} (h : s0.OnlyM m s) (hm : 3342 ||| m = m) (n : Nat) :
    s0.OnlyM m (State.drainDone s n) := by
  unfold State.drainDone
  repeat' first
    | (intro _)
    | with_reducible assumption
    | with_reducible exact subM (by decide) hm
    | (extract_lets +onlyGivenNames x; first | (refine (fun hx => ?_ : State.OnlyM s0 m x → _) ?_; (on_goal 1 => clear_value x); (on_goal 2 => subst x)) | clear_value x)
    | (with_reducible first | apply State.iff_only | apply State.retrainNow_only)
    | with_reducible exact fun _ h => h
    | split
    | (fail_if_no_progress beta_reduce)

theorem execBlockClockFault_only (s : State) (link : Fin 48) :
    State.OnlyOut s 3342 (execBlockClockFault link s) := by
  have hm : 3342 ||| 3342 = 3342 := rfl
  have h : State.OnlyM s 3342 s := State.OnlyM.refl _ _
  unfold execBlockClockFault
  first | apply State.live_only | apply next_only
  repeat' first
    | (intro _)
    | with_reducible assumption
    | with_reducible exact subM (by decide) hm
    | (with_reducible first | apply State.retrainLink_only | apply State.event_only)
    | with_reducible exact fun _ h => h
    | split

theorem execCommaLock_only (s : State) (link : Fin 48) :
    State.OnlyOut s 1294 (execCommaLock link s) := by
  have hm : 1294 ||| 1294 = 1294 := rfl
  have h : State.OnlyM s 1294 s := State.OnlyM.refl _ _
  unfold execCommaLock
  first | apply State.live_only | apply next_only
  repeat' first
    | (intro _)
    | with_reducible assumption
    | with_reducible exact subM (by decide) hm
    | (with_reducible first | apply State.toTrain_only)
    | with_reducible exact fun _ h => h
    | split

theorem execTrainMeasurement_only (s : State) (link : Fin 48) (sum : Nat) (least : Nat) (most : Nat) :
    State.OnlyOut s 258 (execTrainMeasurement link sum least most s) := by
  have hm : 258 ||| 258 = 258 := rfl
  have h : State.OnlyM s 258 s := State.OnlyM.refl _ _
  unfold execTrainMeasurement
  first | apply State.live_only | apply next_only
  repeat' first
    | (intro _)
    | with_reducible assumption
    | with_reducible exact subM (by decide) hm
    | (extract_lets +onlyGivenNames x; first | clear_value x)
    | (with_reducible first | apply State.setSat_only | apply State.updLk_only)
    | with_reducible exact fun _ h => h
    | split

theorem execTrainTimeout_only (s : State) (link : Fin 48) :
    State.OnlyOut s 1294 (execTrainTimeout link s) := by
  have hm : 1294 ||| 1294 = 1294 := rfl
  have h : State.OnlyM s 1294 s := State.OnlyM.refl _ _
  unfold execTrainTimeout
  first | apply State.live_only | apply next_only
  repeat' first
    | (intro _)
    | with_reducible assumption
    | with_reducible exact subM (by decide) hm
    | (extract_lets +onlyGivenNames x; first | (refine (fun hx => ?_ : State.OnlyM s 1294 x → _) ?_; (on_goal 1 => clear_value x); (on_goal 2 => subst x)) | clear_value x)
    | (with_reducible first | apply State.startTimer_only | apply State.updLk_only | apply State.stopTimer_only | apply State.event_only)
    | with_reducible exact fun _ h => h
    | split

theorem execLinkRetry_only (s : State) (link : Fin 48) :
    State.OnlyOut s 1294 (execLinkRetry link s) := by
  have hm : 1294 ||| 1294 = 1294 := rfl
  have h : State.OnlyM s 1294 s := State.OnlyM.refl _ _
  unfold execLinkRetry
  first | apply State.live_only | apply next_only
  repeat' first
    | (intro _)
    | with_reducible assumption
    | with_reducible exact subM (by decide) hm
    | (with_reducible first | apply State.toLock_only | apply State.stopTimer_only)
    | with_reducible exact fun _ h => h
    | split

theorem execLinkSilent_only (s : State) (link : Fin 48) :
    State.OnlyOut s 1294 (execLinkSilent link s) := by
  have hm : 1294 ||| 1294 = 1294 := rfl
  have h : State.OnlyM s 1294 s := State.OnlyM.refl _ _
  unfold execLinkSilent
  first | apply State.live_only | apply next_only
  repeat' first
    | (intro _)
    | with_reducible assumption
    | with_reducible exact subM (by decide) hm
    | (with_reducible first | apply State.toLock_only)
    | with_reducible exact fun _ h => h
    | split

theorem execStartSend_only (s : State) (link : Fin 48) :
    State.OnlyOut s 256 (execStartSend link s) := by
  have hm : 256 ||| 256 = 256 := rfl
  have h : State.OnlyM s 256 s := State.OnlyM.refl _ _
  unfold execStartSend
  first | apply State.live_only | apply next_only
  repeat' first
    | (intro _)
    | with_reducible assumption
    | with_reducible exact subM (by decide) hm
    | (with_reducible first | apply State.sendCmd_only | apply State.updLk_only)
    | with_reducible exact fun _ h => h
    | split

theorem State.hostRetrain_only {m : Nat} {s0 s : State} (h : s0.OnlyM m s) (hm : 3342 ||| m = m) (n : Nat) :
    s0.OnlyM m (State.hostRetrain s n) := by
  unfold State.hostRetrain
  repeat' first
    | (intro _)
    | with_reducible assumption
    | with_reducible exact subM (by decide) hm
    | (with_reducible first | apply State.retrainLink_only | apply State.stopTimer_only | apply State.event_only)
    | with_reducible exact fun _ h => h
    | split

theorem execRetrain_only (s : State) (link : Fin 48) :
    State.OnlyOut s 3342 (execRetrain link s) := by
  have hm : 3342 ||| 3342 = 3342 := rfl
  have h : State.OnlyM s 3342 s := State.OnlyM.refl _ _
  unfold execRetrain
  first | apply State.live_only | apply next_only
  repeat' first
    | (intro _)
    | with_reducible assumption
    | with_reducible exact subM (by decide) hm
    | (with_reducible first | apply State.hostRetrain_only)
    | with_reducible exact fun _ h => h
    | split

theorem State.stopLink_only {m : Nat} {s0 s : State} (h : s0.OnlyM m s) (hm : 3342 ||| m = m) (n : Nat) (why : Nat) :
    s0.OnlyM m (State.stopLink s n why) := by
  unfold State.stopLink
  repeat' first
    | (intro _)
    | with_reducible assumption
    | with_reducible exact subM (by decide) hm
    | (extract_lets +onlyGivenNames x; first | (refine (fun hx => ?_ : State.OnlyM s0 m x → _) ?_; (on_goal 1 => clear_value x); (on_goal 2 => subst x)) | clear_value x)
    | (with_reducible first | apply State.updLk_only | apply State.iff_only | apply State.setLst_only | apply State.setLinkBit_only | apply State.stopTimer_only | apply State.leaveService_only)
    | with_reducible exact fun _ h => h
    | split
    | (fail_if_no_progress beta_reduce)

theorem State.stopLines_only {m : Nat} {s0 s : State} (h : s0.OnlyM m s) (hm : 3342 ||| m = m) (ns : List Nat) (why : Nat) :
    s0.OnlyM m (State.stopLines s ns why) := by
  unfold State.stopLines
  repeat' first
    | (intro _)
    | with_reducible assumption
    | with_reducible exact subM (by decide) hm
    | (extract_lets +onlyGivenNames x; first | (refine (fun hx => ?_ : State.OnlyM s0 m x → _) ?_; (on_goal 1 => clear_value x); (on_goal 2 => subst x)) | clear_value x)
    | (with_reducible first | apply State.each_only | apply State.updLk_only | apply State.event_only | apply State.stopLink_only | apply State.cupTrigger_only)
    | with_reducible exact fun _ h => h
    | split
    | (fail_if_no_progress beta_reduce)

theorem State.releaseLines_only {m : Nat} {s0 s : State} (h : s0.OnlyM m s) (hm : 1294 ||| m = m) (ns : List Nat) (why : Nat) :
    s0.OnlyM m (State.releaseLines s ns why) := by
  unfold State.releaseLines
  repeat' first
    | (intro _)
    | with_reducible assumption
    | with_reducible exact subM (by decide) hm
    | (extract_lets +onlyGivenNames x; first | (refine (fun hx => ?_ : State.OnlyM s0 m x → _) ?_; (on_goal 1 => clear_value x); (on_goal 2 => subst x)) | clear_value x)
    | (with_reducible first | apply State.each_only | apply State.updLk_only | apply State.event_only | apply State.iff_only | apply State.toLock_only)
    | with_reducible exact fun _ h => h
    | split
    | (fail_if_no_progress beta_reduce)

theorem execStopLineAssert_only (s : State) (links : List (Fin 48)) :
    State.OnlyOut s 3342 (execStopLineAssert links s) := by
  have hm : 3342 ||| 3342 = 3342 := rfl
  have h : State.OnlyM s 3342 s := State.OnlyM.refl _ _
  unfold execStopLineAssert
  first | apply State.live_only | apply next_only
  repeat' first
    | (intro _)
    | with_reducible assumption
    | with_reducible exact subM (by decide) hm
    | (extract_lets +onlyGivenNames x; first | clear_value x)
    | (with_reducible first | apply State.each_only | apply State.stopLines_only)
    | with_reducible exact fun _ h => h
    | split

theorem State.releaseOutput_only {m : Nat} {s0 s : State} (h : s0.OnlyM m s) (hm : 1294 ||| m = m) (j : Nat) :
    s0.OnlyM m (State.releaseOutput s j) := by
  unfold State.releaseOutput
  repeat' first
    | (intro _)
    | with_reducible assumption
    | with_reducible exact subM (by decide) hm
    | (extract_lets +onlyGivenNames x; first | (refine (fun hx => ?_ : State.OnlyM s0 m x → _) ?_; (on_goal 1 => clear_value x); (on_goal 2 => subst x)) | clear_value x)
    | (with_reducible first | apply State.iff_only | apply State.releaseLines_only)
    | with_reducible exact fun _ h => h
    | split

theorem execStopLineRelease_only (s : State) (out : Fin 8) :
    State.OnlyOut s 1294 (execStopLineRelease out s) := by
  have hm : 1294 ||| 1294 = 1294 := rfl
  have h : State.OnlyM s 1294 s := State.OnlyM.refl _ _
  unfold execStopLineRelease
  first | apply State.live_only | apply next_only
  repeat' first
    | (intro _)
    | with_reducible assumption
    | with_reducible exact subM (by decide) hm
    | (with_reducible first | apply State.releaseOutput_only)
    | with_reducible exact fun _ h => h
    | split

theorem State.linkSend_only {m : Nat} {s0 s : State} (h : s0.OnlyM m s) (hm : 258 ||| m = m) (n : Nat) :
    s0.OnlyM m (State.linkSend s n) := by
  unfold State.linkSend
  repeat' first
    | (intro _)
    | with_reducible assumption
    | with_reducible exact subM (by decide) hm
    | (extract_lets +onlyGivenNames x; first | (refine (fun hx => ?_ : State.OnlyM s0 m x → _) ?_; (on_goal 1 => clear_value x); (on_goal 2 => subst x)) | clear_value x)
    | (with_reducible first | apply State.iff_only | apply State.setLinkBit_only | apply State.updLk_only)
    | with_reducible exact fun _ h => h
    | split
    | (fail_if_no_progress beta_reduce)

theorem State.linksCf_only {m : Nat} {s0 s : State} (h : s0.OnlyM m s) (hm : 3854 ||| m = m) :
    s0.OnlyM m (State.linksCf s) := by
  unfold State.linksCf
  repeat' first
    | (intro _)
    | with_reducible assumption
    | with_reducible exact subM (by decide) hm
    | (extract_lets +onlyGivenNames x; first | (refine (fun hx => ?_ : State.OnlyM s0 m x → _) ?_; (on_goal 1 => clear_value x); (on_goal 2 => subst x)) | (have y : State → State := x; clear y; subst x) | (have y : State → _ → State := x; clear y; subst x) | (have y : _ → State → State := x; clear y; subst x) | (have y : _ → _ → State → State := x; clear y; subst x) | (have y : State → _ → _ → State := x; clear y; subst x) | (have y : State → _ → State × _ := x; clear y; subst x) | clear_value x)
    | (with_reducible first | apply State.each_only | apply State.linkSend_only | apply State.drainDone_only | apply State.closeStep_only)
    | split
    | (with_reducible apply State.mk_only; (rotate_left); all_goals first | with_reducible exact .inl rfl | exact .inr (bitM (by decide) hm) | skip)
    | with_reducible exact fun _ h => h
    | split
    | (fail_if_no_progress beta_reduce)

theorem State.linksSf_only {m : Nat} {s0 s : State} (h : s0.OnlyM m s) (hm : 256 ||| m = m) :
    s0.OnlyM m (State.linksSf s) := by
  unfold State.linksSf
  repeat' first
    | (intro _)
    | with_reducible assumption
    | with_reducible exact subM (by decide) hm
    | split
    | (with_reducible apply State.mk_only; (rotate_left); all_goals first | with_reducible exact .inl rfl | exact .inr (bitM (by decide) hm) | skip)
    | with_reducible exact fun _ h => h
    | split

theorem State.missFrames_only {m : Nat} {s0 s : State} (h : s0.OnlyM m s) (hm : 1286 ||| m = m) (c : Nat) :
    s0.OnlyM m (State.missFrames s c) := by
  unfold State.missFrames
  repeat' first
    | (intro _)
    | with_reducible assumption
    | with_reducible exact subM (by decide) hm
    | (with_reducible first | apply State.badFrame_only | apply State.each_only)
    | with_reducible exact fun _ h => h
    | split

end Sys2Proof.Machine
end

