-- ==== Sys2Proof/Laws/OnlyVehicle.lean ====
section
/-!
SUPPORT. The parts of the state that the operations and commands of Machine/Vehicle.lean change.
-/

set_option linter.all false

namespace Sys2Proof.Machine

open Sys2Proof

theorem State.drive_only {m : Nat} {s0 s : State} (h : s0.OnlyM m s) (hm : 4096 ||| m = m) (j : Nat) (d : Nat) :
    s0.OnlyM m (State.drive s j d) := by
  unfold State.drive
  repeat' first
    | (intro _)
    | with_reducible assumption
    | with_reducible exact subM (by decide) hm
    | (with_reducible first | apply State.updVh_only)
    | with_reducible exact fun _ h => h
    | split

theorem State.park_only {m : Nat} {s0 s : State} (h : s0.OnlyM m s) (hm : 4098 ||| m = m) (j : Nat) :
    s0.OnlyM m (State.park s j) := by
  unfold State.park
  repeat' first
    | (intro _)
    | with_reducible assumption
    | with_reducible exact subM (by decide) hm
    | (extract_lets +onlyGivenNames x; first | (refine (fun hx => ?_ : State.OnlyM s0 m x → _) ?_; (on_goal 1 => clear_value x); (on_goal 2 => subst x)) | clear_value x)
    | (with_reducible first | apply State.drive_only | apply State.setFld_only | apply State.iff_only)
    | with_reducible exact fun _ h => h
    | split
    | (fail_if_no_progress beta_reduce)

theorem State.tlsDown_only {m : Nat} {s0 s : State} (h : s0.OnlyM m s) (hm : 4098 ||| m = m) (j : Nat) :
    s0.OnlyM m (State.tlsDown s j) := by
  unfold State.tlsDown
  repeat' first
    | (intro _)
    | with_reducible assumption
    | with_reducible exact subM (by decide) hm
    | (with_reducible first | apply State.setFlag_only | apply State.updVh_only)
    | with_reducible exact fun _ h => h
    | split

theorem State.setSState_only {m : Nat} {s0 s : State} (h : s0.OnlyM m s) (hm : 1030 ||| m = m) (j : Nat) (new : Nat) (reason : Nat) :
    s0.OnlyM m (State.setSState s j new reason) := by
  unfold State.setSState
  repeat' first
    | (intro _)
    | with_reducible assumption
    | with_reducible exact subM (by decide) hm
    | (extract_lets +onlyGivenNames x; first | (refine (fun hx => ?_ : State.OnlyM s0 m x → _) ?_; (on_goal 1 => clear_value x); (on_goal 2 => subst x)) | clear_value x)
    | (with_reducible first | apply State.iff_only | apply State.setFld_only | apply State.event_only)
    | with_reducible exact fun _ h => h
    | split

theorem State.quiet_only {m : Nat} {s0 s : State} (h : s0.OnlyM m s) (hm : 8 ||| m = m) (j : Nat) :
    s0.OnlyM m (State.quiet s j) := by
  unfold State.quiet
  repeat' first
    | (intro _)
    | with_reducible assumption
    | with_reducible exact subM (by decide) hm
    | (extract_lets +onlyGivenNames x; first | clear_value x)
    | split
    | (with_reducible apply State.mk_only; (rotate_left); all_goals first | with_reducible exact .inl rfl | exact .inr (bitM (by decide) hm) | skip)
    | with_reducible exact fun _ h => h
    | split

theorem State.expired_only {m : Nat} {s0 s : State} (h : s0.OnlyM m s) (hm : 2 ||| m = m) (j : Nat) :
    s0.OnlyM m (State.expired s j) := by
  unfold State.expired
  repeat' first
    | (intro _)
    | with_reducible assumption
    | with_reducible exact subM (by decide) hm
    | (with_reducible first | apply State.inc_only)
    | with_reducible exact fun _ h => h
    | split

theorem State.leaveJoin_only {m : Nat} {s0 s : State} (h : s0.OnlyM m s) (hm : 5126 ||| m = m) (j : Nat) :
    s0.OnlyM m (State.leaveJoin s j) := by
  unfold State.leaveJoin
  repeat' first
    | (intro _)
    | with_reducible assumption
    | with_reducible exact subM (by decide) hm
    | (extract_lets +onlyGivenNames x; first | (refine (fun hx => ?_ : State.OnlyM s0 m x → _) ?_; (on_goal 1 => clear_value x); (on_goal 2 => subst x)) | clear_value x)
    | (with_reducible first | apply State.setFlag_only | apply State.updVh_only | apply State.event_only | apply State.each_only | apply foldl_only)
    | with_reducible exact fun _ h => h
    | split
    | (fail_if_no_progress beta_reduce)

theorem State.updLeg_only {m : Nat} {s0 s : State} (h : s0.OnlyM m s) (hm : 32768 ||| m = m) (f : LegSt → LegSt) :
    s0.OnlyM m (State.updLeg s f) := by
  unfold State.updLeg
  repeat' first
    | (intro _)
    | with_reducible assumption
    | with_reducible exact subM (by decide) hm
    | split
    | (with_reducible apply State.mk_only; (rotate_left); all_goals first | with_reducible exact .inl rfl | exact .inr (bitM (by decide) hm) | skip)
    | with_reducible exact fun _ h => h
    | split

theorem State.tokRegs_only {m : Nat} {s0 s : State} (h : s0.OnlyM m s) (hm : 2 ||| m = m) :
    s0.OnlyM m (State.tokRegs s) := by
  unfold State.tokRegs
  repeat' first
    | (intro _)
    | with_reducible assumption
    | with_reducible exact subM (by decide) hm
    | (with_reducible first | apply State.setSat_only)
    | with_reducible exact fun _ h => h
    | split

theorem State.tokSettle_only {m : Nat} {s0 s : State} (h : s0.OnlyM m s) (hm : 36866 ||| m = m) (j : Nat) (ok : Bool) :
    s0.OnlyM m (State.tokSettle s j ok) := by
  unfold State.tokSettle
  repeat' first
    | (intro _)
    | with_reducible assumption
    | with_reducible exact subM (by decide) hm
    | (extract_lets +onlyGivenNames x; first | (refine (fun hx => ?_ : State.OnlyM s0 m x → _) ?_; (on_goal 1 => clear_value x); (on_goal 2 => subst x)) | clear_value x)
    | (with_reducible first | apply State.updLeg_only | apply State.updVh_only | apply State.tokRegs_only)
    | with_reducible exact fun _ h => h
    | split

theorem State.dropReqs_only {m : Nat} {s0 s : State} (h : s0.OnlyM m s) (hm : 45058 ||| m = m) (j : Nat) :
    s0.OnlyM m (State.dropReqs s j) := by
  unfold State.dropReqs
  repeat' first
    | (intro _)
    | with_reducible assumption
    | with_reducible exact subM (by decide) hm
    | (extract_lets +onlyGivenNames x; first | (refine (fun hx => ?_ : State.OnlyM s0 m x → _) ?_; (on_goal 1 => clear_value x); (on_goal 2 => subst x)) | clear_value x)
    | (with_reducible first | apply State.tokSettle_only)
    | split
    | (with_reducible apply State.mk_only; (rotate_left); all_goals first | with_reducible exact .inl rfl | exact .inr (bitM (by decide) hm) | skip)
    | with_reducible exact fun _ h => h
    | split

theorem State.endPause_only {m : Nat} {s0 s : State} (h : s0.OnlyM m s) (hm : 4096 ||| m = m) (j : Nat) :
    s0.OnlyM m (State.endPause s j) := by
  unfold State.endPause
  repeat' first
    | (intro _)
    | with_reducible assumption
    | with_reducible exact subM (by decide) hm
    | (with_reducible first | apply State.iff_only | apply State.drive_only)
    | with_reducible exact fun _ h => h
    | split

theorem State.endNow_only {m : Nat} {s0 s : State} (h : s0.OnlyM m s) (hm : 46094 ||| m = m) (j : Nat) (reason : Nat) :
    s0.OnlyM m (State.endNow s j reason) := by
  unfold State.endNow
  repeat' first
    | (intro _)
    | with_reducible assumption
    | with_reducible exact subM (by decide) hm
    | (extract_lets +onlyGivenNames x; first | (refine (fun hx => ?_ : State.OnlyM s0 m x → _) ?_; (on_goal 1 => clear_value x); (on_goal 2 => subst x)) | clear_value x)
    | (with_reducible first | apply State.leaveJoin_only | apply State.stopTimer_only | apply State.quiet_only | apply State.endPause_only | apply State.updVh_only | apply State.dropReqs_only | apply State.setSState_only)
    | with_reducible exact fun _ h => h
    | split
    | (fail_if_no_progress beta_reduce)

theorem State.stopNow_only {m : Nat} {s0 s : State} (h : s0.OnlyM m s) (hm : 5134 ||| m = m) (j : Nat) (reason : Nat) :
    s0.OnlyM m (State.stopNow s j reason) := by
  unfold State.stopNow
  repeat' first
    | (intro _)
    | with_reducible assumption
    | with_reducible exact subM (by decide) hm
    | (extract_lets +onlyGivenNames x; first | (refine (fun hx => ?_ : State.OnlyM s0 m x → _) ?_; (on_goal 1 => clear_value x); (on_goal 2 => subst x)) | clear_value x)
    | (with_reducible first | apply State.updVh_only | apply State.stopTimer_only | apply State.setSState_only | apply State.leaveJoin_only)
    | with_reducible exact fun _ h => h
    | split
    | (fail_if_no_progress beta_reduce)

theorem State.finish_only {m : Nat} {s0 s : State} (h : s0.OnlyM m s) (hm : 46094 ||| m = m) (j : Nat) (reason : Nat) :
    s0.OnlyM m (State.finish s j reason) := by
  unfold State.finish
  repeat' first
    | (intro _)
    | with_reducible assumption
    | with_reducible exact subM (by decide) hm
    | (with_reducible first | apply State.endNow_only | apply State.stopNow_only)
    | with_reducible exact fun _ h => h
    | split

theorem State.evseStopOne_only {m : Nat} {s0 s : State} (h : s0.OnlyM m s) (hm : 46094 ||| m = m) (j : Nat) (reason : Nat) :
    s0.OnlyM m (State.evseStopOne s j reason) := by
  unfold State.evseStopOne
  repeat' first
    | (intro _)
    | with_reducible assumption
    | with_reducible exact subM (by decide) hm
    | (with_reducible first | apply State.updVh_only | apply State.endNow_only)
    | with_reducible exact fun _ h => h
    | split

theorem State.outFailed_only {m : Nat} {s0 s : State} (h : s0.OnlyM m s) (hm : 46094 ||| m = m) (j : Nat) :
    s0.OnlyM m (State.outFailed s j) := by
  unfold State.outFailed
  repeat' first
    | (intro _)
    | with_reducible assumption
    | with_reducible exact subM (by decide) hm
    | (extract_lets +onlyGivenNames x; first | (refine (fun hx => ?_ : State.OnlyM s0 m x → _) ?_; (on_goal 1 => clear_value x); (on_goal 2 => subst x)) | clear_value x)
    | (with_reducible first | apply State.updVh_only | apply State.stopNow_only | apply State.evseStopOne_only | apply State.leaveJoin_only | apply State.iff_only | apply State.endNow_only)
    | with_reducible exact fun _ h => h
    | split
    | (fail_if_no_progress beta_reduce)

theorem State.evseStopAll_only {m : Nat} {s0 s : State} (h : s0.OnlyM m s) (hm : 46094 ||| m = m) (j : Nat) (reason : Nat) :
    s0.OnlyM m (State.evseStopAll s j reason) := by
  unfold State.evseStopAll
  repeat' first
    | (intro _)
    | with_reducible assumption
    | with_reducible exact subM (by decide) hm
    | (extract_lets +onlyGivenNames x; first | clear_value x)
    | (with_reducible first | apply State.evseStopOne_only | apply State.each_only)
    | with_reducible exact fun _ h => h
    | split

theorem State.safetyEnd_only {m : Nat} {s0 s : State} (h : s0.OnlyM m s) (hm : 46094 ||| m = m) (j : Nat) :
    s0.OnlyM m (State.safetyEnd s j) := by
  unfold State.safetyEnd
  repeat' first
    | (intro _)
    | with_reducible assumption
    | with_reducible exact subM (by decide) hm
    | (extract_lets +onlyGivenNames x; first | (refine (fun hx => ?_ : State.OnlyM s0 m x → _) ?_; (on_goal 1 => clear_value x); (on_goal 2 => subst x)) | clear_value x)
    | (with_reducible first | apply State.iff_only | apply State.updVh_only | apply State.each_only | apply State.finish_only)
    | with_reducible exact fun _ h => h
    | split

theorem State.vehMode_only {m : Nat} {s0 s : State} (h : s0.OnlyM m s) (hm : 46094 ||| m = m) (j : Nat) :
    s0.OnlyM m (State.vehMode s j) := by
  unfold State.vehMode
  repeat' first
    | (intro _)
    | with_reducible assumption
    | with_reducible exact subM (by decide) hm
    | (extract_lets +onlyGivenNames x; first | (refine (fun hx => ?_ : State.OnlyM s0 m x → _) ?_; (on_goal 1 => clear_value x); (on_goal 2 => subst x)) | clear_value x)
    | (with_reducible first | apply State.setSState_only | apply State.setFld_only | apply State.updVh_only | apply State.dropReqs_only | apply State.leaveJoin_only | apply State.stopTimer_only | apply State.quiet_only | apply State.park_only | apply State.setFlag_only | apply State.tlsDown_only)
    | with_reducible exact fun _ h => h
    | split
    | (fail_if_no_progress beta_reduce)

theorem State.retryOr_only {m : Nat} {s0 s : State} (h : s0.OnlyM m s) (hm : 46094 ||| m = m) (j : Nat) (reason : Nat) :
    s0.OnlyM m (State.retryOr s j reason) := by
  unfold State.retryOr
  repeat' first
    | (intro _)
    | with_reducible assumption
    | with_reducible exact subM (by decide) hm
    | (extract_lets +onlyGivenNames x; first | (refine (fun hx => ?_ : State.OnlyM s0 m x → _) ?_; (on_goal 1 => clear_value x); (on_goal 2 => subst x)) | clear_value x)
    | (with_reducible first | apply State.setFlag_only | apply State.updVh_only | apply State.quiet_only | apply State.dropReqs_only | apply State.tlsDown_only | apply State.startTimer_only | apply State.setSState_only | apply State.iff_only | apply State.drive_only | apply State.endNow_only)
    | with_reducible exact fun _ h => h
    | split
    | (fail_if_no_progress beta_reduce)

theorem State.commLost_only {m : Nat} {s0 s : State} (h : s0.OnlyM m s) (hm : 46094 ||| m = m) (j : Nat) (cause : Nat) :
    s0.OnlyM m (State.commLost s j cause) := by
  unfold State.commLost
  repeat' first
    | (intro _)
    | with_reducible assumption
    | with_reducible exact subM (by decide) hm
    | (extract_lets +onlyGivenNames x; first | (refine (fun hx => ?_ : State.OnlyM s0 m x → _) ?_; (on_goal 1 => clear_value x); (on_goal 2 => subst x)) | clear_value x)
    | (with_reducible first | apply State.event_only | apply State.inc_only | apply State.retryOr_only | apply State.iff_only | apply State.updVh_only | apply State.leaveJoin_only | apply State.endNow_only | apply State.startTimer_only | apply State.setFlag_only | apply State.tlsDown_only)
    | with_reducible exact fun _ h => h
    | split
    | (fail_if_no_progress beta_reduce)

theorem State.reply_only {m : Nat} {s0 s : State} (h : s0.OnlyM m s) (hm : 5134 ||| m = m) (j : Nat) (code : Nat) (loop : Bool) :
    s0.OnlyM m (State.reply s j code loop) := by
  unfold State.reply
  repeat' first
    | (intro _)
    | with_reducible assumption
    | with_reducible exact subM (by decide) hm
    | (extract_lets +onlyGivenNames x; first | (refine (fun hx => ?_ : State.OnlyM s0 m x → _) ?_; (on_goal 1 => clear_value x); (on_goal 2 => subst x)) | clear_value x)
    | (with_reducible first | apply State.updVh_only | apply State.setSat_only | apply State.iff_only | apply State.event_only | apply State.startTimer_only)
    | with_reducible exact fun _ h => h
    | split
    | (fail_if_no_progress beta_reduce)

theorem State.respond_only {m : Nat} {s0 s : State} (h : s0.OnlyM m s) (hm : 5134 ||| m = m) (j : Nat) (code : Nat) :
    s0.OnlyM m (State.respond s j code) := by
  unfold State.respond
  repeat' first
    | (intro _)
    | with_reducible assumption
    | with_reducible exact subM (by decide) hm
    | (with_reducible first | apply State.reply_only)
    | with_reducible exact fun _ h => h
    | split

theorem State.seqError_only {m : Nat} {s0 s : State} (h : s0.OnlyM m s) (hm : 46094 ||| m = m) (j : Nat) :
    s0.OnlyM m (State.seqError s j) := by
  unfold State.seqError
  repeat' first
    | (intro _)
    | with_reducible assumption
    | with_reducible exact subM (by decide) hm
    | (extract_lets +onlyGivenNames x; first | (refine (fun hx => ?_ : State.OnlyM s0 m x → _) ?_; (on_goal 1 => clear_value x); (on_goal 2 => subst x)) | clear_value x)
    | (with_reducible first | apply State.respond_only | apply State.endNow_only | apply State.finish_only)
    | with_reducible exact fun _ h => h
    | split
    | (fail_if_no_progress beta_reduce)

theorem State.request_only {m : Nat} {s0 s : State} (h : s0.OnlyM m s) (hm : 46094 ||| m = m) (j : Nat) (ok : Bool) (f : State → State) (hf : ∀ z0, s0.OnlyM m z0 → s0.OnlyM m (f z0)) :
    s0.OnlyM m (State.request s j ok f) := by
  unfold State.request
  repeat' first
    | (intro _)
    | with_reducible assumption
    | with_reducible exact subM (by decide) hm
    | (extract_lets +onlyGivenNames x; first | (refine (fun hx => ?_ : State.OnlyM s0 m x → _) ?_; (on_goal 1 => clear_value x); (on_goal 2 => subst x)) | clear_value x)
    | (with_reducible first | apply hf | apply State.stopTimer_only | apply State.seqError_only)
    | with_reducible exact fun _ h => h
    | split
    | (fail_if_no_progress beta_reduce)

theorem State.postAuth_only {m : Nat} {s0 s : State} (h : s0.OnlyM m s) (hm : 45066 ||| m = m) (j : Nat) (idType : Nat) (ident : List Byte) (payload : List Byte) :
    s0.OnlyM m (State.postAuth s j idType ident payload) := by
  unfold State.postAuth
  repeat' first
    | (intro _)
    | with_reducible assumption
    | with_reducible exact subM (by decide) hm
    | (extract_lets +onlyGivenNames x; first | (refine (fun hx => ?_ : State.OnlyM s0 m x → _) ?_; (on_goal 1 => clear_value x); (on_goal 2 => subst x)) | clear_value x)
    | (with_reducible first | apply State.tokSettle_only | apply State.iff_only | apply State.updVh_only | apply State.startTimer_only)
    | split
    | (with_reducible apply State.mk_only; (rotate_left); all_goals first | with_reducible exact .inl rfl | exact .inr (bitM (by decide) hm) | skip)
    | with_reducible exact fun _ h => h
    | split

theorem State.postCert_only {m : Nat} {s0 s : State} (h : s0.OnlyM m s) (hm : 12296 ||| m = m) (j : Nat) (payload : List Byte) :
    s0.OnlyM m (State.postCert s j payload) := by
  unfold State.postCert
  repeat' first
    | (intro _)
    | with_reducible assumption
    | with_reducible exact subM (by decide) hm
    | (extract_lets +onlyGivenNames x; first | (refine (fun hx => ?_ : State.OnlyM s0 m x → _) ?_; (on_goal 1 => clear_value x); (on_goal 2 => subst x)) | (have y : State → State := x; clear y; subst x) | (have y : State → _ → State := x; clear y; subst x) | (have y : _ → State → State := x; clear y; subst x) | (have y : _ → _ → State → State := x; clear y; subst x) | (have y : State → _ → _ → State := x; clear y; subst x) | (have y : State → _ → State × _ := x; clear y; subst x) | clear_value x)
    | (with_reducible first | apply State.startTimer_only | apply State.updVh_only)
    | split
    | (with_reducible apply State.mk_only; (rotate_left); all_goals first | with_reducible exact .inl rfl | exact .inr (bitM (by decide) hm) | skip)
    | with_reducible exact fun _ h => h
    | split
    | (fail_if_no_progress beta_reduce)

theorem State.passAuth_only {m : Nat} {s0 s : State} (h : s0.OnlyM m s) (hm : 46094 ||| m = m) (j : Nat) :
    s0.OnlyM m (State.passAuth s j) := by
  unfold State.passAuth
  repeat' first
    | (intro _)
    | with_reducible assumption
    | with_reducible exact subM (by decide) hm
    | (extract_lets +onlyGivenNames x; first | (refine (fun hx => ?_ : State.OnlyM s0 m x → _) ?_; (on_goal 1 => clear_value x); (on_goal 2 => subst x)) | clear_value x)
    | (with_reducible first | apply State.endNow_only | apply State.updVh_only | apply State.stopTimer_only | apply State.iff_only | apply State.startTimer_only | apply State.setSState_only)
    | with_reducible exact fun _ h => h
    | split
    | (fail_if_no_progress beta_reduce)

theorem State.joinTo_only {m : Nat} {s0 s : State} (h : s0.OnlyM m s) (hm : 46094 ||| m = m) (j : Nat) (k : Nat) :
    s0.OnlyM m (State.joinTo s j k) := by
  unfold State.joinTo
  repeat' first
    | (intro _)
    | with_reducible assumption
    | with_reducible exact subM (by decide) hm
    | (extract_lets +onlyGivenNames x; first | (refine (fun hx => ?_ : State.OnlyM s0 m x → _) ?_; (on_goal 1 => clear_value x); (on_goal 2 => subst x)) | (have y : State → State := x; clear y; subst x) | (have y : State → _ → State := x; clear y; subst x) | (have y : _ → State → State := x; clear y; subst x) | (have y : _ → _ → State → State := x; clear y; subst x) | (have y : State → _ → _ → State := x; clear y; subst x) | (have y : State → _ → State × _ := x; clear y; subst x) | clear_value x)
    | (with_reducible first | apply State.iff_only | apply State.updVh_only | apply State.stopTimer_only | apply State.tokSettle_only | apply State.setFlag_only | apply State.event_only)
    | split
    | (with_reducible apply State.mk_only; (rotate_left); all_goals first | with_reducible exact .inl rfl | exact .inr (bitM (by decide) hm) | skip)
    | with_reducible exact fun _ h => h
    | split
    | (fail_if_no_progress beta_reduce)

theorem State.unplug_only {m : Nat} {s0 s : State} (h : s0.OnlyM m s) (hm : 46094 ||| m = m) (j : Nat) :
    s0.OnlyM m (State.unplug s j) := by
  unfold State.unplug
  repeat' first
    | (intro _)
    | with_reducible assumption
    | with_reducible exact subM (by decide) hm
    | (extract_lets +onlyGivenNames x; first | (refine (fun hx => ?_ : State.OnlyM s0 m x → _) ?_; (on_goal 1 => clear_value x); (on_goal 2 => subst x)) | clear_value x)
    | (with_reducible first | apply State.leaveJoin_only | apply State.stopTimer_only | apply State.quiet_only | apply State.updVh_only | apply State.dropReqs_only | apply State.setFlag_only | apply State.tlsDown_only | apply State.setSState_only)
    | with_reducible exact fun _ h => h
    | split
    | (fail_if_no_progress beta_reduce)

theorem State.untold_only {m : Nat} {s0 s : State} (h : s0.OnlyM m s) (hm : 2048 ||| m = m) (j : Nat) :
    s0.OnlyM m (State.untold s j) := by
  unfold State.untold
  repeat' first
    | (intro _)
    | with_reducible assumption
    | with_reducible exact subM (by decide) hm
    | (with_reducible first | apply State.updSh_only)
    | with_reducible exact fun _ h => h
    | split

theorem State.plugIn_only {m : Nat} {s0 s : State} (h : s0.OnlyM m s) (hm : 15374 ||| m = m) (j : Nat) :
    s0.OnlyM m (State.plugIn s j) := by
  unfold State.plugIn
  repeat' first
    | (intro _)
    | with_reducible assumption
    | with_reducible exact subM (by decide) hm
    | (extract_lets +onlyGivenNames x; first | (refine (fun hx => ?_ : State.OnlyM s0 m x → _) ?_; (on_goal 1 => clear_value x); (on_goal 2 => subst x)) | (have y : State → State := x; clear y; subst x) | (have y : State → _ → State := x; clear y; subst x) | (have y : _ → State → State := x; clear y; subst x) | (have y : _ → _ → State → State := x; clear y; subst x) | (have y : State → _ → _ → State := x; clear y; subst x) | (have y : State → _ → State × _ := x; clear y; subst x) | clear_value x)
    | (with_reducible first | apply State.updVh_only | apply State.setFld_only | apply State.untold_only | apply State.setReg_only | apply State.iff_only | apply State.setSState_only | apply State.startTimer_only)
    | split
    | (with_reducible apply State.mk_only; (rotate_left); all_goals first | with_reducible exact .inl rfl | exact .inr (bitM (by decide) hm) | skip)
    | with_reducible exact fun _ h => h
    | split
    | (fail_if_no_progress beta_reduce)

theorem State.signalFault_only {m : Nat} {s0 s : State} (h : s0.OnlyM m s) (hm : 46094 ||| m = m) (j : Nat) :
    s0.OnlyM m (State.signalFault s j) := by
  unfold State.signalFault
  repeat' first
    | (intro _)
    | with_reducible assumption
    | with_reducible exact subM (by decide) hm
    | (extract_lets +onlyGivenNames x; first | (refine (fun hx => ?_ : State.OnlyM s0 m x → _) ?_; (on_goal 1 => clear_value x); (on_goal 2 => subst x)) | clear_value x)
    | (with_reducible first | apply State.dropReqs_only | apply State.leaveJoin_only | apply State.stopTimer_only | apply State.quiet_only | apply State.endPause_only | apply State.updVh_only | apply State.setSState_only | apply State.iff_only | apply State.setFld_only)
    | with_reducible exact fun _ h => h
    | split
    | (fail_if_no_progress beta_reduce)

theorem State.acceptPilot_only {m : Nat} {s0 s : State} (h : s0.OnlyM m s) (hm : 48142 ||| m = m) (j : Nat) (st : Nat) (diode : Bool) :
    s0.OnlyM m (State.acceptPilot s j st diode) := by
  unfold State.acceptPilot
  repeat' first
    | (intro _)
    | with_reducible assumption
    | with_reducible exact subM (by decide) hm
    | (extract_lets +onlyGivenNames x; first | (refine (fun hx => ?_ : State.OnlyM s0 m x → _) ?_; (on_goal 1 => clear_value x); (on_goal 2 => subst x)) | clear_value x)
    | (with_reducible first | apply State.setFld_only | apply State.event_only | apply State.inc_only | apply State.iff_only | apply State.signalFault_only | apply State.unplug_only | apply State.stopNow_only | apply State.plugIn_only)
    | with_reducible exact fun _ h => h
    | split
    | (fail_if_no_progress beta_reduce)

theorem execPilotStateAccepted_only (s : State) (out : Fin 8) (high : List Int) (low : List Int) :
    State.OnlyOut s 48142 (execPilotStateAccepted out high low s) := by
  have hm : 48142 ||| 48142 = 48142 := rfl
  have h : State.OnlyM s 48142 s := State.OnlyM.refl _ _
  unfold execPilotStateAccepted
  first | apply State.live_only | apply next_only
  repeat' first
    | (intro _)
    | with_reducible assumption
    | with_reducible exact subM (by decide) hm
    | (extract_lets +onlyGivenNames x; first | (refine (fun hx => ?_ : State.OnlyM s 48142 x → _) ?_; (on_goal 1 => clear_value x); (on_goal 2 => subst x)) | clear_value x)
    | (with_reducible first | apply State.acceptPilot_only | apply State.setFldS_only)
    | with_reducible exact fun _ h => h
    | split

theorem execMcsLineStateAccepted_only (s : State) (out : Fin 8) (isId : Bool) (mv : List Int) :
    State.OnlyOut s 48142 (execMcsLineStateAccepted out isId mv s) := by
  have hm : 48142 ||| 48142 = 48142 := rfl
  have h : State.OnlyM s 48142 s := State.OnlyM.refl _ _
  unfold execMcsLineStateAccepted
  first | apply State.live_only | apply State.liveOn_only | apply next_only
  repeat' first
    | (intro _)
    | with_reducible assumption
    | with_reducible exact subM (by decide) hm
    | (extract_lets +onlyGivenNames x; first | (refine (fun hx => ?_ : State.OnlyM s 48142 x → _) ?_; (on_goal 1 => clear_value x); (on_goal 2 => subst x)) | clear_value x)
    | (with_reducible first | apply State.updVh_only | apply State.setFldS_only | apply State.unplug_only | apply State.plugIn_only | apply State.iff_only | apply State.signalFault_only | apply State.event_only | apply State.inc_only | apply State.acceptPilot_only)
    | with_reducible exact fun _ h => h
    | split
    | (fail_if_no_progress beta_reduce)

theorem execCmSlacParmReq_only (s : State) (out : Fin 8) :
    State.OnlyOut s 4128 (execCmSlacParmReq out s) := by
  have hm : 4128 ||| 4128 = 4128 := rfl
  have h : State.OnlyM s 4128 s := State.OnlyM.refl _ _
  unfold execCmSlacParmReq
  first | apply State.live_only | apply State.liveOn_only | apply next_only
  repeat' first
    | (intro _)
    | with_reducible assumption
    | with_reducible exact subM (by decide) hm
    | (extract_lets +onlyGivenNames x; first | (refine (fun hx => ?_ : State.OnlyM s 4128 x → _) ?_; (on_goal 1 => clear_value x); (on_goal 2 => subst x)) | (refine (fun hx => ?_ : State.OnlyM s 4128 x.1 → _) ?_; (on_goal 1 => clear_value x); (on_goal 2 => subst x)) | (refine (fun hx => ?_ : State.OnlyM s 4128 x.2 → _) ?_; (on_goal 1 => clear_value x); (on_goal 2 => subst x)) | clear_value x)
    | (with_reducible first | apply State.draw_only | apply State.updVh_only)
    | with_reducible exact fun _ h => h
    | split
    | (fail_if_no_progress beta_reduce)

theorem execCmValidate_only (s : State) (out : Fin 8) :
    State.OnlyOut s 4096 (execCmValidate out s) := by
  have hm : 4096 ||| 4096 = 4096 := rfl
  have h : State.OnlyM s 4096 s := State.OnlyM.refl _ _
  unfold execCmValidate
  first | apply State.live_only | apply next_only
  repeat' first
    | (intro _)
    | with_reducible assumption
    | with_reducible exact subM (by decide) hm
    | (with_reducible first | apply State.updVh_only)
    | with_reducible exact fun _ h => h
    | split

theorem State.linkUp_only {m : Nat} {s0 s : State} (h : s0.OnlyM m s) (hm : 1038 ||| m = m) (j : Nat) :
    s0.OnlyM m (State.linkUp s j) := by
  unfold State.linkUp
  repeat' first
    | (intro _)
    | with_reducible assumption
    | with_reducible exact subM (by decide) hm
    | (extract_lets +onlyGivenNames x; first | (refine (fun hx => ?_ : State.OnlyM s0 m x → _) ?_; (on_goal 1 => clear_value x); (on_goal 2 => subst x)) | clear_value x)
    | (with_reducible first | apply State.setFlag_only | apply State.startTimer_only | apply State.stopTimer_only | apply State.setSState_only)
    | with_reducible exact fun _ h => h
    | split

theorem execSlacMatch_only (s : State) (out : Fin 8) (profile : List Byte) :
    State.OnlyOut s 5134 (execSlacMatch out profile s) := by
  have hm : 5134 ||| 5134 = 5134 := rfl
  have h : State.OnlyM s 5134 s := State.OnlyM.refl _ _
  unfold execSlacMatch
  first | apply State.live_only | apply State.liveOn_only | apply next_only
  repeat' first
    | (intro _)
    | with_reducible assumption
    | with_reducible exact subM (by decide) hm
    | (with_reducible first | apply State.linkUp_only | apply State.updVh_only)
    | with_reducible exact fun _ h => h
    | split

theorem execPlcaLinkUp_only (s : State) (out : Fin 8) :
    State.OnlyOut s 1038 (execPlcaLinkUp out s) := by
  have hm : 1038 ||| 1038 = 1038 := rfl
  have h : State.OnlyM s 1038 s := State.OnlyM.refl _ _
  unfold execPlcaLinkUp
  first | apply State.live_only | apply next_only
  repeat' first
    | (intro _)
    | with_reducible assumption
    | with_reducible exact subM (by decide) hm
    | (with_reducible first | apply State.linkUp_only)
    | with_reducible exact fun _ h => h
    | split

theorem execPhySignalLost_only (s : State) (out : Fin 8) :
    State.OnlyOut s 46094 (execPhySignalLost out s) := by
  have hm : 46094 ||| 46094 = 46094 := rfl
  have h : State.OnlyM s 46094 s := State.OnlyM.refl _ _
  unfold execPhySignalLost
  first | apply State.live_only | apply next_only
  repeat' first
    | (intro _)
    | with_reducible assumption
    | with_reducible exact subM (by decide) hm
    | (with_reducible first | apply State.commLost_only)
    | with_reducible exact fun _ h => h
    | split

theorem execSeccDiscoveryReq_only (s : State) (out : Fin 8) :
    State.OnlyOut s 4096 (execSeccDiscoveryReq out s) := by
  have hm : 4096 ||| 4096 = 4096 := rfl
  have h : State.OnlyM s 4096 s := State.OnlyM.refl _ _
  unfold execSeccDiscoveryReq
  first | apply State.live_only | apply next_only
  repeat' first
    | (intro _)
    | with_reducible assumption
    | with_reducible exact subM (by decide) hm
    | (with_reducible first | apply State.updVh_only)
    | with_reducible exact fun _ h => h
    | split

theorem State.tlsFailed_only {m : Nat} {s0 s : State} (h : s0.OnlyM m s) (hm : 46094 ||| m = m) (j : Nat) :
    s0.OnlyM m (State.tlsFailed s j) := by
  unfold State.tlsFailed
  repeat' first
    | (intro _)
    | with_reducible assumption
    | with_reducible exact subM (by decide) hm
    | (with_reducible first | apply State.commLost_only | apply State.inc_only | apply State.event_only)
    | with_reducible exact fun _ h => h
    | split

theorem execTcpClosed_only (s : State) (out : Fin 8) :
    State.OnlyOut s 46094 (execTcpClosed out s) := by
  have hm : 46094 ||| 46094 = 46094 := rfl
  have h : State.OnlyM s 46094 s := State.OnlyM.refl _ _
  unfold execTcpClosed
  first | apply State.live_only | apply State.liveOn_only | apply next_only
  repeat' first
    | (intro _)
    | with_reducible assumption
    | with_reducible exact subM (by decide) hm
    | (with_reducible first | apply State.commLost_only | apply State.updVh_only | apply State.tlsDown_only)
    | with_reducible exact fun _ h => h
    | split

theorem execSupportedAppProtocolReq_only (s : State) (out : Fin 8) (din : Bool) (iso2 : Bool) (iso20 : Bool) :
    State.OnlyOut s 46094 (execSupportedAppProtocolReq out din iso2 iso20 s) := by
  have hm : 46094 ||| 46094 = 46094 := rfl
  have h : State.OnlyM s 46094 s := State.OnlyM.refl _ _
  unfold execSupportedAppProtocolReq
  first | apply State.live_only | apply next_only
  repeat' first
    | (intro _)
    | with_reducible assumption
    | with_reducible exact subM (by decide) hm
    | (extract_lets +onlyGivenNames x; first | (refine (fun hx => ?_ : State.OnlyM s 46094 x → _) ?_; (on_goal 1 => clear_value x); (on_goal 2 => subst x)) | clear_value x)
    | (with_reducible first | apply State.updVh_only | apply State.setFld_only | apply State.endNow_only | apply State.request_only | apply State.respond_only | apply State.event_only)
    | with_reducible exact fun _ h => h
    | split

theorem State.portShow_only {m : Nat} {s0 s : State} (h : s0.OnlyM m s) (hm : 2 ||| m = m) (n : Nat) (st : Nat) :
    s0.OnlyM m (State.portShow s n st) := by
  unfold State.portShow
  repeat' first
    | (intro _)
    | with_reducible assumption
    | with_reducible exact subM (by decide) hm
    | (with_reducible first | apply State.setFld_only)
    | with_reducible exact fun _ h => h
    | split

theorem State.enterAuth_only {m : Nat} {s0 s : State} (h : s0.OnlyM m s) (hm : 570382 ||| m = m) (j : Nat) :
    s0.OnlyM m (State.enterAuth s j) := by
  unfold State.enterAuth
  repeat' first
    | (intro _)
    | with_reducible assumption
    | with_reducible exact subM (by decide) hm
    | (extract_lets +onlyGivenNames x; first | (refine (fun hx => ?_ : State.OnlyM s0 m x → _) ?_; (on_goal 1 => clear_value x); (on_goal 2 => subst x)) | (have y : State → State := x; clear y; subst x) | (have y : State → _ → State := x; clear y; subst x) | (have y : _ → State → State := x; clear y; subst x) | (have y : _ → _ → State → State := x; clear y; subst x) | (have y : State → _ → _ → State := x; clear y; subst x) | (have y : State → _ → State × _ := x; clear y; subst x) | clear_value x)
    | (with_reducible first | apply State.updVh_only | apply State.setSState_only | apply State.portShow_only | apply State.startTimer_only | apply State.stopTimer_only | apply State.event_only | apply State.postAuth_only)
    | split
    | (with_reducible apply State.mk_only; (rotate_left); all_goals first | with_reducible exact .inl rfl | exact .inr (bitM (by decide) hm) | skip)
    | with_reducible exact fun _ h => h
    | split
    | (fail_if_no_progress beta_reduce)

theorem State.resume_only {m : Nat} {s0 s : State} (h : s0.OnlyM m s) (hm : 570382 ||| m = m) (j : Nat) :
    s0.OnlyM m (State.resume s j) := by
  unfold State.resume
  repeat' first
    | (intro _)
    | with_reducible assumption
    | with_reducible exact subM (by decide) hm
    | (extract_lets +onlyGivenNames x; first | (refine (fun hx => ?_ : State.OnlyM s0 m x → _) ?_; (on_goal 1 => clear_value x); (on_goal 2 => subst x)) | clear_value x)
    | (with_reducible first | apply State.updVh_only | apply State.stopTimer_only | apply State.event_only | apply State.joinTo_only | apply State.setSState_only | apply State.enterAuth_only)
    | with_reducible exact fun _ h => h
    | split
    | (fail_if_no_progress beta_reduce)

theorem execSessionSetupReq_only (s : State) (out : Fin 8) (session : Nat) (evccid : BitVec 48) :
    State.OnlyOut s 572430 (execSessionSetupReq out session evccid s) := by
  have hm : 572430 ||| 572430 = 572430 := rfl
  have h : State.OnlyM s 572430 s := State.OnlyM.refl _ _
  unfold execSessionSetupReq
  first | apply State.live_only | apply State.liveOn_only | apply next_only
  repeat' first
    | (intro _)
    | with_reducible assumption
    | with_reducible exact subM (by decide) hm
    | (extract_lets +onlyGivenNames x; first | (refine (fun hx => ?_ : State.OnlyM s 572430 x → _) ?_; (on_goal 1 => clear_value x); (on_goal 2 => subst x)) | (have y : State → State := x; clear y; subst x) | (have y : State → _ → State := x; clear y; subst x) | (have y : _ → State → State := x; clear y; subst x) | (have y : _ → _ → State → State := x; clear y; subst x) | (have y : State → _ → _ → State := x; clear y; subst x) | (have y : State → _ → State × _ := x; clear y; subst x) | clear_value x)
    | (with_reducible first | apply State.request_only | apply State.stopTimer_only | apply State.setFld_only | apply State.respond_only | apply State.resume_only | apply State.leaveJoin_only | apply State.setSState_only | apply State.updVh_only | apply State.untold_only | apply State.joinTo_only)
    | split
    | (with_reducible apply State.mk_only; (rotate_left); all_goals first | with_reducible exact .inl rfl | exact .inr (bitM (by decide) hm) | skip)
    | with_reducible exact fun _ h => h
    | split
    | (fail_if_no_progress beta_reduce)

theorem execServiceDiscoveryReq_only (s : State) (out : Fin 8) :
    State.OnlyOut s 46094 (execServiceDiscoveryReq out s) := by
  have hm : 46094 ||| 46094 = 46094 := rfl
  have h : State.OnlyM s 46094 s := State.OnlyM.refl _ _
  unfold execServiceDiscoveryReq
  first | apply State.live_only | apply State.liveOn_only | apply next_only
  repeat' first
    | (intro _)
    | with_reducible assumption
    | with_reducible exact subM (by decide) hm
    | (with_reducible first | apply State.request_only | apply State.updVh_only | apply State.respond_only)
    | with_reducible exact fun _ h => h
    | split

theorem execServiceDetailReq_only (s : State) (out : Fin 8) :
    State.OnlyOut s 46094 (execServiceDetailReq out s) := by
  have hm : 46094 ||| 46094 = 46094 := rfl
  have h : State.OnlyM s 46094 s := State.OnlyM.refl _ _
  unfold execServiceDetailReq
  first | apply State.live_only | apply State.liveOn_only | apply next_only
  repeat' first
    | (intro _)
    | with_reducible assumption
    | with_reducible exact subM (by decide) hm
    | (with_reducible first | apply State.request_only | apply State.respond_only)
    | with_reducible exact fun _ h => h
    | split

theorem execServiceSelectionReq_only (s : State) (out : Fin 8) (bpt : Bool) (dynamic : Bool) :
    State.OnlyOut s 46094 (execServiceSelectionReq out bpt dynamic s) := by
  have hm : 46094 ||| 46094 = 46094 := rfl
  have h : State.OnlyM s 46094 s := State.OnlyM.refl _ _
  unfold execServiceSelectionReq
  first | apply State.live_only | apply State.liveOn_only | apply next_only
  repeat' first
    | (intro _)
    | with_reducible assumption
    | with_reducible exact subM (by decide) hm
    | (with_reducible first | apply State.request_only | apply State.respond_only | apply State.event_only | apply State.updVh_only)
    | with_reducible exact fun _ h => h
    | split

theorem execPaymentSelectionReq_only (s : State) (out : Fin 8) (contract : Bool) :
    State.OnlyOut s 570382 (execPaymentSelectionReq out contract s) := by
  have hm : 570382 ||| 570382 = 570382 := rfl
  have h : State.OnlyM s 570382 s := State.OnlyM.refl _ _
  unfold execPaymentSelectionReq
  first | apply State.live_only | apply State.liveOn_only | apply next_only
  repeat' first
    | (intro _)
    | with_reducible assumption
    | with_reducible exact subM (by decide) hm
    | (extract_lets +onlyGivenNames x; first | (refine (fun hx => ?_ : State.OnlyM s 570382 x → _) ?_; (on_goal 1 => clear_value x); (on_goal 2 => subst x)) | clear_value x)
    | (with_reducible first | apply State.request_only | apply State.respond_only | apply State.enterAuth_only | apply State.updVh_only)
    | with_reducible exact fun _ h => h
    | split
    | (fail_if_no_progress beta_reduce)

theorem execPaymentDetailsReq_only (s : State) (out : Fin 8) (emaid : List Byte) (chain : List Byte) :
    State.OnlyOut s 46094 (execPaymentDetailsReq out emaid chain s) := by
  have hm : 46094 ||| 46094 = 46094 := rfl
  have h : State.OnlyM s 46094 s := State.OnlyM.refl _ _
  unfold execPaymentDetailsReq
  first | apply State.live_only | apply State.liveOn_only | apply next_only
  repeat' first
    | (intro _)
    | with_reducible assumption
    | with_reducible exact subM (by decide) hm
    | (extract_lets +onlyGivenNames x; first | (refine (fun hx => ?_ : State.OnlyM s 46094 x → _) ?_; (on_goal 1 => clear_value x); (on_goal 2 => subst x)) | clear_value x)
    | (with_reducible first | apply State.request_only | apply State.updVh_only | apply State.respond_only | apply State.iff_only | apply State.postAuth_only)
    | with_reducible exact fun _ h => h
    | split
    | (fail_if_no_progress beta_reduce)

theorem execCertificateInstallationReq_only (s : State) (out : Fin 8) (payload : List Byte) :
    State.OnlyOut s 46094 (execCertificateInstallationReq out payload s) := by
  have hm : 46094 ||| 46094 = 46094 := rfl
  have h : State.OnlyM s 46094 s := State.OnlyM.refl _ _
  unfold execCertificateInstallationReq
  first | apply State.live_only | apply State.liveOn_only | apply next_only
  repeat' first
    | (intro _)
    | with_reducible assumption
    | with_reducible exact subM (by decide) hm
    | (extract_lets +onlyGivenNames x; first | (refine (fun hx => ?_ : State.OnlyM s 46094 x → _) ?_; (on_goal 1 => clear_value x); (on_goal 2 => subst x)) | clear_value x)
    | (with_reducible first | apply State.request_only | apply State.updVh_only | apply State.respond_only | apply State.postCert_only)
    | with_reducible exact fun _ h => h
    | split
    | (fail_if_no_progress beta_reduce)

theorem execAuthorizationReq_only (s : State) (out : Fin 8) (ident : List Byte) (chain : List Byte) :
    State.OnlyOut s 46094 (execAuthorizationReq out ident chain s) := by
  have hm : 46094 ||| 46094 = 46094 := rfl
  have h : State.OnlyM s 46094 s := State.OnlyM.refl _ _
  unfold execAuthorizationReq
  first | apply State.live_only | apply State.liveOn_only | apply next_only
  repeat' first
    | (intro _)
    | with_reducible assumption
    | with_reducible exact subM (by decide) hm
    | (extract_lets +onlyGivenNames x; first | (refine (fun hx => ?_ : State.OnlyM s 46094 x → _) ?_; (on_goal 1 => clear_value x); (on_goal 2 => subst x)) | clear_value x)
    | (with_reducible first | apply State.request_only | apply State.endNow_only | apply State.respond_only | apply State.iff_only | apply State.setSState_only | apply State.passAuth_only | apply State.updVh_only | apply State.postAuth_only)
    | with_reducible exact fun _ h => h
    | split
    | (fail_if_no_progress beta_reduce)

theorem State.takeValues_only {m : Nat} {s0 s : State} (h : s0.OnlyM m s) (hm : 4098 ||| m = m) (j : Nat) (q : VehValues) :
    s0.OnlyM m (State.takeValues s j q) := by
  unfold State.takeValues
  repeat' first
    | (intro _)
    | with_reducible assumption
    | with_reducible exact subM (by decide) hm
    | (extract_lets +onlyGivenNames x; first | (refine (fun hx => ?_ : State.OnlyM s0 m x → _) ?_; (on_goal 1 => clear_value x); (on_goal 2 => subst x)) | clear_value x)
    | (with_reducible first | apply State.setSat_only | apply State.updVh_only | apply State.setFldS_only)
    | with_reducible exact fun _ h => h
    | split

theorem State.valuesReq_only {m : Nat} {s0 s : State} (h : s0.OnlyM m s) (hm : 5134 ||| m = m) (j : Nat) (q : VehValues) (loop : Bool) :
    s0.OnlyM m (State.valuesReq s j q loop) := by
  unfold State.valuesReq
  repeat' first
    | (intro _)
    | with_reducible assumption
    | with_reducible exact subM (by decide) hm
    | (with_reducible first | apply State.reply_only | apply State.event_only | apply State.takeValues_only)
    | with_reducible exact fun _ h => h
    | split

theorem execChargeParameterDiscoveryReq_only (s : State) (out : Fin 8) (v : VehValues) :
    State.OnlyOut s 46094 (execChargeParameterDiscoveryReq out v s) := by
  have hm : 46094 ||| 46094 = 46094 := rfl
  have h : State.OnlyM s 46094 s := State.OnlyM.refl _ _
  unfold execChargeParameterDiscoveryReq
  first | apply State.live_only | apply State.liveOn_only | apply next_only
  repeat' first
    | (intro _)
    | with_reducible assumption
    | with_reducible exact subM (by decide) hm
    | (with_reducible first | apply State.request_only | apply State.updVh_only | apply State.valuesReq_only)
    | with_reducible exact fun _ h => h
    | split

theorem execScheduleExchangeReq_only (s : State) (out : Fin 8) :
    State.OnlyOut s 46094 (execScheduleExchangeReq out s) := by
  have hm : 46094 ||| 46094 = 46094 := rfl
  have h : State.OnlyM s 46094 s := State.OnlyM.refl _ _
  unfold execScheduleExchangeReq
  first | apply State.live_only | apply State.liveOn_only | apply next_only
  repeat' first
    | (intro _)
    | with_reducible assumption
    | with_reducible exact subM (by decide) hm
    | (with_reducible first | apply State.request_only | apply State.updVh_only | apply State.respond_only)
    | with_reducible exact fun _ h => h
    | split

theorem execCableCheckReq_only (s : State) (out : Fin 8) :
    State.OnlyOut s 46094 (execCableCheckReq out s) := by
  have hm : 46094 ||| 46094 = 46094 := rfl
  have h : State.OnlyM s 46094 s := State.OnlyM.refl _ _
  unfold execCableCheckReq
  first | apply State.live_only | apply State.liveOn_only | apply next_only
  repeat' first
    | (intro _)
    | with_reducible assumption
    | with_reducible exact subM (by decide) hm
    | (extract_lets +onlyGivenNames x; first | (refine (fun hx => ?_ : State.OnlyM s 46094 x → _) ?_; (on_goal 1 => clear_value x); (on_goal 2 => subst x)) | clear_value x)
    | (with_reducible first | apply State.request_only | apply State.respond_only | apply State.updVh_only | apply State.stopTimer_only | apply State.startTimer_only | apply State.setSState_only | apply State.iff_only)
    | with_reducible exact fun _ h => h
    | split
    | (fail_if_no_progress beta_reduce)

theorem State.insulGood_only {m : Nat} {s0 s : State} (h : s0.OnlyM m s) (hm : 5134 ||| m = m) (j : Nat) :
    s0.OnlyM m (State.insulGood s j) := by
  unfold State.insulGood
  repeat' first
    | (intro _)
    | with_reducible assumption
    | with_reducible exact subM (by decide) hm
    | (with_reducible first | apply State.updVh_only | apply State.stopTimer_only | apply State.setSState_only)
    | with_reducible exact fun _ h => h
    | split

theorem State.preCheck_only {m : Nat} {s0 s : State} (h : s0.OnlyM m s) (hm : 4104 ||| m = m) (j : Nat) :
    s0.OnlyM m (State.preCheck s j) := by
  unfold State.preCheck
  repeat' first
    | (intro _)
    | with_reducible assumption
    | with_reducible exact subM (by decide) hm
    | (with_reducible first | apply State.updVh_only | apply State.stopTimer_only)
    | with_reducible exact fun _ h => h
    | split

theorem execPrechargeReq_only (s : State) (out : Fin 8) (vTgt : Nat) :
    State.OnlyOut s 46094 (execPrechargeReq out vTgt s) := by
  have hm : 46094 ||| 46094 = 46094 := rfl
  have h : State.OnlyM s 46094 s := State.OnlyM.refl _ _
  unfold execPrechargeReq
  first | apply State.live_only | apply next_only
  repeat' first
    | (intro _)
    | with_reducible assumption
    | with_reducible exact subM (by decide) hm
    | (extract_lets +onlyGivenNames x; first | (refine (fun hx => ?_ : State.OnlyM s 46094 x → _) ?_; (on_goal 1 => clear_value x); (on_goal 2 => subst x)) | clear_value x)
    | (with_reducible first | apply State.iff_only | apply State.setSat_only | apply State.updVh_only | apply State.startTimer_only | apply State.request_only | apply State.respond_only | apply State.preCheck_only)
    | with_reducible exact fun _ h => h
    | split

theorem execPowerDeliveryReq_only (s : State) (out : Fin 8) (kind : PowerKind) :
    State.OnlyOut s 46094 (execPowerDeliveryReq out kind s) := by
  have hm : 46094 ||| 46094 = 46094 := rfl
  have h : State.OnlyM s 46094 s := State.OnlyM.refl _ _
  unfold execPowerDeliveryReq
  first | apply State.live_only | apply State.liveOn_only | apply next_only
  repeat' first
    | (intro _)
    | with_reducible assumption
    | with_reducible exact subM (by decide) hm
    | (extract_lets +onlyGivenNames x; first | (refine (fun hx => ?_ : State.OnlyM s 46094 x → _) ?_; (on_goal 1 => clear_value x); (on_goal 2 => subst x)) | clear_value x)
    | (with_reducible first | apply State.request_only | apply State.respond_only | apply State.setSState_only | apply State.endNow_only | apply State.stopNow_only | apply State.stopTimer_only)
    | with_reducible exact fun _ h => h
    | split
    | (fail_if_no_progress beta_reduce)

theorem execChargeLoopReq_only (s : State) (out : Fin 8) (v : VehValues) :
    State.OnlyOut s 46094 (execChargeLoopReq out v s) := by
  have hm : 46094 ||| 46094 = 46094 := rfl
  have h : State.OnlyM s 46094 s := State.OnlyM.refl _ _
  unfold execChargeLoopReq
  first | apply State.live_only | apply State.liveOn_only | apply next_only
  repeat' first
    | (intro _)
    | with_reducible assumption
    | with_reducible exact subM (by decide) hm
    | (with_reducible first | apply State.request_only | apply State.valuesReq_only | apply State.stopTimer_only)
    | with_reducible exact fun _ h => h
    | split

theorem execMeteringReceiptReq_only (s : State) (out : Fin 8) :
    State.OnlyOut s 46094 (execMeteringReceiptReq out s) := by
  have hm : 46094 ||| 46094 = 46094 := rfl
  have h : State.OnlyM s 46094 s := State.OnlyM.refl _ _
  unfold execMeteringReceiptReq
  first | apply State.live_only | apply next_only
  repeat' first
    | (intro _)
    | with_reducible assumption
    | with_reducible exact subM (by decide) hm
    | (with_reducible first | apply State.request_only | apply State.respond_only)
    | with_reducible exact fun _ h => h
    | split

theorem execWeldingDetectionReq_only (s : State) (out : Fin 8) :
    State.OnlyOut s 46094 (execWeldingDetectionReq out s) := by
  have hm : 46094 ||| 46094 = 46094 := rfl
  have h : State.OnlyM s 46094 s := State.OnlyM.refl _ _
  unfold execWeldingDetectionReq
  first | apply State.live_only | apply next_only
  repeat' first
    | (intro _)
    | with_reducible assumption
    | with_reducible exact subM (by decide) hm
    | (with_reducible first | apply State.request_only | apply State.respond_only)
    | with_reducible exact fun _ h => h
    | split

theorem execSessionStopReq_only (s : State) (out : Fin 8) :
    State.OnlyOut s 46094 (execSessionStopReq out s) := by
  have hm : 46094 ||| 46094 = 46094 := rfl
  have h : State.OnlyM s 46094 s := State.OnlyM.refl _ _
  unfold execSessionStopReq
  first | apply State.live_only | apply next_only
  repeat' first
    | (intro _)
    | with_reducible assumption
    | with_reducible exact subM (by decide) hm
    | (with_reducible first | apply State.endNow_only | apply State.request_only | apply State.respond_only)
    | with_reducible exact fun _ h => h
    | split

theorem execUnsupportedRequest_only (s : State) (out : Fin 8) :
    State.OnlyOut s 46094 (execUnsupportedRequest out s) := by
  have hm : 46094 ||| 46094 = 46094 := rfl
  have h : State.OnlyM s 46094 s := State.OnlyM.refl _ _
  unfold execUnsupportedRequest
  first | apply State.live_only | apply next_only
  repeat' first
    | (intro _)
    | with_reducible assumption
    | with_reducible exact subM (by decide) hm
    | (with_reducible first | apply State.request_only | apply id_only)
    | with_reducible exact fun _ h => h
    | split

theorem execSlacTmo_only (s : State) (out : Fin 8) :
    State.OnlyOut s 46094 (execSlacTmo out s) := by
  have hm : 46094 ||| 46094 = 46094 := rfl
  have h : State.OnlyM s 46094 s := State.OnlyM.refl _ _
  unfold execSlacTmo
  first | apply State.live_only | apply next_only
  repeat' first
    | (intro _)
    | with_reducible assumption
    | with_reducible exact subM (by decide) hm
    | (with_reducible first | apply State.commLost_only | apply State.expired_only)
    | with_reducible exact fun _ h => h
    | split

theorem execSetupTmo_only (s : State) (out : Fin 8) :
    State.OnlyOut s 46094 (execSetupTmo out s) := by
  have hm : 46094 ||| 46094 = 46094 := rfl
  have h : State.OnlyM s 46094 s := State.OnlyM.refl _ _
  unfold execSetupTmo
  first | apply State.live_only | apply next_only
  repeat' first
    | (intro _)
    | with_reducible assumption
    | with_reducible exact subM (by decide) hm
    | (with_reducible first | apply State.commLost_only | apply State.expired_only)
    | with_reducible exact fun _ h => h
    | split

theorem execSeqTmo_only (s : State) (out : Fin 8) :
    State.OnlyOut s 46094 (execSeqTmo out s) := by
  have hm : 46094 ||| 46094 = 46094 := rfl
  have h : State.OnlyM s 46094 s := State.OnlyM.refl _ _
  unfold execSeqTmo
  first | apply State.live_only | apply next_only
  repeat' first
    | (intro _)
    | with_reducible assumption
    | with_reducible exact subM (by decide) hm
    | (with_reducible first | apply State.commLost_only | apply State.expired_only | apply State.stopTimer_only)
    | with_reducible exact fun _ h => h
    | split

theorem execAuthTmo_only (s : State) (out : Fin 8) :
    State.OnlyOut s 46094 (execAuthTmo out s) := by
  have hm : 46094 ||| 46094 = 46094 := rfl
  have h : State.OnlyM s 46094 s := State.OnlyM.refl _ _
  unfold execAuthTmo
  first | apply State.live_only | apply next_only
  repeat' first
    | (intro _)
    | with_reducible assumption
    | with_reducible exact subM (by decide) hm
    | (extract_lets +onlyGivenNames x; first | (refine (fun hx => ?_ : State.OnlyM s 46094 x → _) ?_; (on_goal 1 => clear_value x); (on_goal 2 => subst x)) | clear_value x)
    | (with_reducible first | apply State.tokSettle_only | apply State.updVh_only | apply State.endNow_only | apply State.expired_only | apply State.stopTimer_only | apply State.event_only)
    | with_reducible exact fun _ h => h
    | split

theorem execCertTmo_only (s : State) (out : Fin 8) :
    State.OnlyOut s 5134 (execCertTmo out s) := by
  have hm : 5134 ||| 5134 = 5134 := rfl
  have h : State.OnlyM s 5134 s := State.OnlyM.refl _ _
  unfold execCertTmo
  first | apply State.live_only | apply next_only
  repeat' first
    | (intro _)
    | with_reducible assumption
    | with_reducible exact subM (by decide) hm
    | (with_reducible first | apply State.updVh_only | apply State.expired_only | apply State.stopTimer_only | apply State.event_only)
    | with_reducible exact fun _ h => h
    | split

theorem execCcTmo_only (s : State) (out : Fin 8) :
    State.OnlyOut s 46094 (execCcTmo out s) := by
  have hm : 46094 ||| 46094 = 46094 := rfl
  have h : State.OnlyM s 46094 s := State.OnlyM.refl _ _
  unfold execCcTmo
  first | apply State.live_only | apply next_only
  repeat' first
    | (intro _)
    | with_reducible assumption
    | with_reducible exact subM (by decide) hm
    | (with_reducible first | apply State.endNow_only | apply State.expired_only | apply State.stopTimer_only | apply State.event_only)
    | with_reducible exact fun _ h => h
    | split

theorem execPcTmo_only (s : State) (out : Fin 8) :
    State.OnlyOut s 46094 (execPcTmo out s) := by
  have hm : 46094 ||| 46094 = 46094 := rfl
  have h : State.OnlyM s 46094 s := State.OnlyM.refl _ _
  unfold execPcTmo
  first | apply State.live_only | apply next_only
  repeat' first
    | (intro _)
    | with_reducible assumption
    | with_reducible exact subM (by decide) hm
    | (with_reducible first | apply State.endNow_only | apply State.expired_only | apply State.stopTimer_only | apply State.event_only)
    | with_reducible exact fun _ h => h
    | split

theorem execLoopTmo_only (s : State) (out : Fin 8) :
    State.OnlyOut s 46094 (execLoopTmo out s) := by
  have hm : 46094 ||| 46094 = 46094 := rfl
  have h : State.OnlyM s 46094 s := State.OnlyM.refl _ _
  unfold execLoopTmo
  first | apply State.live_only | apply next_only
  repeat' first
    | (intro _)
    | with_reducible assumption
    | with_reducible exact subM (by decide) hm
    | (with_reducible first | apply State.commLost_only | apply State.expired_only | apply State.stopTimer_only)
    | with_reducible exact fun _ h => h
    | split

theorem execStopTmo_only (s : State) (out : Fin 8) :
    State.OnlyOut s 46094 (execStopTmo out s) := by
  have hm : 46094 ||| 46094 = 46094 := rfl
  have h : State.OnlyM s 46094 s := State.OnlyM.refl _ _
  unfold execStopTmo
  first | apply State.live_only | apply State.liveOn_only | apply next_only
  repeat' first
    | (intro _)
    | with_reducible assumption
    | with_reducible exact subM (by decide) hm
    | (extract_lets +onlyGivenNames x; first | (refine (fun hx => ?_ : State.OnlyM s 46094 x → _) ?_; (on_goal 1 => clear_value x); (on_goal 2 => subst x)) | clear_value x)
    | (with_reducible first | apply State.expired_only | apply State.stopTimer_only | apply State.stopNow_only | apply State.iff_only | apply State.endNow_only)
    | with_reducible exact fun _ h => h
    | split
    | (fail_if_no_progress beta_reduce)

theorem execResumeWin_only (s : State) (out : Fin 8) :
    State.OnlyOut s 46094 (execResumeWin out s) := by
  have hm : 46094 ||| 46094 = 46094 := rfl
  have h : State.OnlyM s 46094 s := State.OnlyM.refl _ _
  unfold execResumeWin
  first | apply State.live_only | apply next_only
  repeat' first
    | (intro _)
    | with_reducible assumption
    | with_reducible exact subM (by decide) hm
    | (extract_lets +onlyGivenNames x; first | (refine (fun hx => ?_ : State.OnlyM s 46094 x → _) ?_; (on_goal 1 => clear_value x); (on_goal 2 => subst x)) | clear_value x)
    | (with_reducible first | apply State.iff_only | apply State.endNow_only | apply State.expired_only | apply State.stopTimer_only)
    | with_reducible exact fun _ h => h
    | split

theorem execJoinWin_only (s : State) (out : Fin 8) :
    State.OnlyOut s 10 (execJoinWin out s) := by
  have hm : 10 ||| 10 = 10 := rfl
  have h : State.OnlyM s 10 s := State.OnlyM.refl _ _
  unfold execJoinWin
  first | apply State.live_only | apply next_only
  repeat' first
    | (intro _)
    | with_reducible assumption
    | with_reducible exact subM (by decide) hm
    | (with_reducible first | apply State.expired_only | apply State.stopTimer_only)
    | with_reducible exact fun _ h => h
    | split

theorem execLockConfirmTimeout_only (s : State) (out : Fin 8) :
    State.OnlyOut s 46094 (execLockConfirmTimeout out s) := by
  have hm : 46094 ||| 46094 = 46094 := rfl
  have h : State.OnlyM s 46094 s := State.OnlyM.refl _ _
  unfold execLockConfirmTimeout
  first | apply State.live_only | apply next_only
  repeat' first
    | (intro _)
    | with_reducible assumption
    | with_reducible exact subM (by decide) hm
    | (with_reducible first | apply State.endNow_only | apply State.stopTimer_only)
    | with_reducible exact fun _ h => h
    | split

theorem execParamModeTimeout_only (s : State) (out : Fin 8) :
    State.OnlyOut s 46094 (execParamModeTimeout out s) := by
  have hm : 46094 ||| 46094 = 46094 := rfl
  have h : State.OnlyM s 46094 s := State.OnlyM.refl _ _
  unfold execParamModeTimeout
  first | apply State.live_only | apply next_only
  repeat' first
    | (intro _)
    | with_reducible assumption
    | with_reducible exact subM (by decide) hm
    | (with_reducible first | apply State.endNow_only | apply State.stopTimer_only)
    | with_reducible exact fun _ h => h
    | split

theorem execStopCurrentZero_only (s : State) (out : Fin 8) :
    State.OnlyOut s 5134 (execStopCurrentZero out s) := by
  have hm : 5134 ||| 5134 = 5134 := rfl
  have h : State.OnlyM s 5134 s := State.OnlyM.refl _ _
  unfold execStopCurrentZero
  first | apply State.live_only | apply next_only
  repeat' first
    | (intro _)
    | with_reducible assumption
    | with_reducible exact subM (by decide) hm
    | (with_reducible first | apply State.updVh_only | apply State.startTimer_only | apply State.setSState_only)
    | with_reducible exact fun _ h => h
    | split

theorem execWeldcheckTimeout_only (s : State) (out : Fin 8) :
    State.OnlyOut s 46094 (execWeldcheckTimeout out s) := by
  have hm : 46094 ||| 46094 = 46094 := rfl
  have h : State.OnlyM s 46094 s := State.OnlyM.refl _ _
  unfold execWeldcheckTimeout
  first | apply State.live_only | apply next_only
  repeat' first
    | (intro _)
    | with_reducible assumption
    | with_reducible exact subM (by decide) hm
    | (with_reducible first | apply State.endNow_only)
    | with_reducible exact fun _ h => h
    | split

theorem execCommRetry_only (s : State) (out : Fin 8) :
    State.OnlyOut s 4104 (execCommRetry out s) := by
  have hm : 4104 ||| 4104 = 4104 := rfl
  have h : State.OnlyM s 4104 s := State.OnlyM.refl _ _
  unfold execCommRetry
  first | apply State.live_only | apply next_only
  repeat' first
    | (intro _)
    | with_reducible assumption
    | with_reducible exact subM (by decide) hm
    | (extract_lets +onlyGivenNames x; first | (refine (fun hx => ?_ : State.OnlyM s 4104 x → _) ?_; (on_goal 1 => clear_value x); (on_goal 2 => subst x)) | clear_value x)
    | (with_reducible first | apply State.drive_only | apply State.startTimer_only | apply State.stopTimer_only)
    | with_reducible exact fun _ h => h
    | split

theorem State.hostStop_only {m : Nat} {s0 s : State} (h : s0.OnlyM m s) (hm : 46094 ||| m = m) (j : Nat) :
    s0.OnlyM m (State.hostStop s j) := by
  unfold State.hostStop
  repeat' first
    | (intro _)
    | with_reducible assumption
    | with_reducible exact subM (by decide) hm
    | (with_reducible first | apply State.iff_only | apply State.evseStopAll_only)
    | with_reducible exact fun _ h => h
    | split

theorem execVdCtrlStop_only (s : State) (out : Fin 8) :
    State.OnlyOut s 46094 (execVdCtrlStop out s) := by
  have hm : 46094 ||| 46094 = 46094 := rfl
  have h : State.OnlyM s 46094 s := State.OnlyM.refl _ _
  unfold execVdCtrlStop
  first | apply State.live_only | apply next_only
  repeat' first
    | (intro _)
    | with_reducible assumption
    | with_reducible exact subM (by decide) hm
    | (with_reducible first | apply State.hostStop_only)
    | with_reducible exact fun _ h => h
    | split

theorem State.hostJoin_only {m : Nat} {s0 s : State} (h : s0.OnlyM m s) (hm : 46094 ||| m = m) (j : Nat) (k : Nat) :
    s0.OnlyM m (State.hostJoin s j k) := by
  unfold State.hostJoin
  repeat' first
    | (intro _)
    | with_reducible assumption
    | with_reducible exact subM (by decide) hm
    | (with_reducible first | apply State.joinTo_only | apply State.event_only)
    | with_reducible exact fun _ h => h
    | split

theorem execVdCtrlJoin_only (s : State) (out : Fin 8) (earlier : BitVec 4) :
    State.OnlyOut s 46094 (execVdCtrlJoin out earlier s) := by
  have hm : 46094 ||| 46094 = 46094 := rfl
  have h : State.OnlyM s 46094 s := State.OnlyM.refl _ _
  unfold execVdCtrlJoin
  first | apply State.live_only | apply State.liveOn_only | apply next_only
  repeat' first
    | (intro _)
    | with_reducible assumption
    | with_reducible exact subM (by decide) hm
    | (with_reducible first | apply State.iff_only | apply State.hostJoin_only | apply State.setFld_only)
    | with_reducible exact fun _ h => h
    | split

theorem State.vehStep_only {m : Nat} {s0 s : State} (h : s0.OnlyM m s) (hm : 46094 ||| m = m) (j : Nat) :
    s0.OnlyM m (State.vehStep s j) := by
  unfold State.vehStep
  repeat' first
    | (intro _)
    | with_reducible assumption
    | with_reducible exact subM (by decide) hm
    | (extract_lets +onlyGivenNames x; first | (refine (fun hx => ?_ : State.OnlyM s0 m x → _) ?_; (on_goal 1 => clear_value x); (on_goal 2 => subst x)) | clear_value x)
    | (with_reducible first | apply State.updVh_only | apply State.iff_only | apply State.stopTimer_only | apply State.preCheck_only | apply State.outFailed_only)
    | with_reducible exact fun _ h => h
    | split
    | (fail_if_no_progress beta_reduce)

theorem State.vehTick_only {m : Nat} {s0 s : State} (h : s0.OnlyM m s) (hm : 46094 ||| m = m) :
    s0.OnlyM m (State.vehTick s) := by
  unfold State.vehTick
  repeat' first
    | (intro _)
    | with_reducible assumption
    | with_reducible exact subM (by decide) hm
    | (with_reducible first | apply State.iff_only | apply State.each_only | apply State.vehStep_only)
    | with_reducible exact fun _ h => h
    | split

end Sys2Proof.Machine
end

