-- ==== Sys2Proof/Laws/OnlySwitches.lean ====
section
/-!
SUPPORT. The parts of the state that the operations and commands of Machine/Switches.lean change.
-/

set_option linter.all false

namespace Sys2Proof.Machine

open Sys2Proof

theorem State.updPs_only {m : Nat} {s0 s : State} (h : s0.OnlyM m s) (hm : 131072 ||| m = m) (f : PsSt → PsSt) :
    s0.OnlyM m (State.updPs s f) := by
  unfold State.updPs
  repeat' first
    | (intro _)
    | with_reducible assumption
    | with_reducible exact subM (by decide) hm
    | split
    | (with_reducible apply State.mk_only; (rotate_left); all_goals first | with_reducible exact .inl rfl | exact .inr (bitM (by decide) hm) | skip)
    | with_reducible exact fun _ h => h
    | split

theorem State.updPc_only {m : Nat} {s0 s : State} (h : s0.OnlyM m s) (hm : 131072 ||| m = m) (n : Nat) (f : PsChan → PsChan) :
    s0.OnlyM m (State.updPc s n f) := by
  unfold State.updPc
  repeat' first
    | (intro _)
    | with_reducible assumption
    | with_reducible exact subM (by decide) hm
    | (with_reducible first | apply State.updPs_only)
    | with_reducible exact fun _ h => h
    | split

theorem State.railShow_only {m : Nat} {s0 s : State} (h : s0.OnlyM m s) (hm : 2 ||| m = m) (r : Nat) :
    s0.OnlyM m (State.railShow s r) := by
  unfold State.railShow
  repeat' first
    | (intro _)
    | with_reducible assumption
    | with_reducible exact subM (by decide) hm
    | (with_reducible first | apply State.setSat_only)
    | with_reducible exact fun _ h => h
    | split

theorem State.psOffTo_only {m : Nat} {s0 s : State} (h : s0.OnlyM m s) (hm : 131082 ||| m = m) (n : Nat) (st : Nat) :
    s0.OnlyM m (State.psOffTo s n st) := by
  unfold State.psOffTo
  repeat' first
    | (intro _)
    | with_reducible assumption
    | with_reducible exact subM (by decide) hm
    | (with_reducible first | apply State.updPc_only | apply State.railShow_only | apply State.setFld_only | apply State.setFlag_only | apply State.stopTimer_only)
    | with_reducible exact fun _ h => h
    | split

theorem State.psPause_only {m : Nat} {s0 s : State} (h : s0.OnlyM m s) (hm : 131072 ||| m = m) (n : Nat) (f : PsChan → PsChan) :
    s0.OnlyM m (State.psPause s n f) := by
  unfold State.psPause
  repeat' first
    | (intro _)
    | with_reducible assumption
    | with_reducible exact subM (by decide) hm
    | (extract_lets +onlyGivenNames x; first | (refine (fun hx => ?_ : State.OnlyM s0 m x → _) ?_; (on_goal 1 => clear_value x); (on_goal 2 => subst x)) | clear_value x)
    | (with_reducible first | apply State.updPc_only)
    | with_reducible exact fun _ h => h
    | split
    | (fail_if_no_progress beta_reduce)

theorem State.psTurnOn_only {m : Nat} {s0 s : State} (h : s0.OnlyM m s) (hm : 133130 ||| m = m) (n : Nat) :
    s0.OnlyM m (State.psTurnOn s n) := by
  unfold State.psTurnOn
  repeat' first
    | (intro _)
    | with_reducible assumption
    | with_reducible exact subM (by decide) hm
    | (extract_lets +onlyGivenNames x; first | (refine (fun hx => ?_ : State.OnlyM s0 m x → _) ?_; (on_goal 1 => clear_value x); (on_goal 2 => subst x)) | clear_value x)
    | (with_reducible first | apply State.psOffTo_only | apply State.updSh_only | apply State.updPc_only | apply State.startTimer_only | apply State.setFld_only)
    | with_reducible exact fun _ h => h
    | split
    | (fail_if_no_progress beta_reduce)

theorem State.psTrip_only {m : Nat} {s0 s : State} (h : s0.OnlyM m s) (hm : 134158 ||| m = m) (n : Nat) (cause : Nat) :
    s0.OnlyM m (State.psTrip s n cause) := by
  unfold State.psTrip
  repeat' first
    | (intro _)
    | with_reducible assumption
    | with_reducible exact subM (by decide) hm
    | (extract_lets +onlyGivenNames x; first | (refine (fun hx => ?_ : State.OnlyM s0 m x → _) ?_; (on_goal 1 => clear_value x); (on_goal 2 => subst x)) | clear_value x)
    | (with_reducible first | apply State.updPc_only | apply State.psOffTo_only | apply State.startTimer_only | apply State.event_only | apply State.inc_only | apply State.setFld_only | apply State.updSh_only | apply State.iff_only | apply State.stopTimer_only)
    | with_reducible exact fun _ h => h
    | split
    | (fail_if_no_progress beta_reduce)

theorem State.psCommand_only {m : Nat} {s0 s : State} (h : s0.OnlyM m s) (hm : 133130 ||| m = m) (n : Nat) (on : Bool) :
    s0.OnlyM m (State.psCommand s n on) := by
  unfold State.psCommand
  repeat' first
    | (intro _)
    | with_reducible assumption
    | with_reducible exact subM (by decide) hm
    | (extract_lets +onlyGivenNames x; first | (refine (fun hx => ?_ : State.OnlyM s0 m x → _) ?_; (on_goal 1 => clear_value x); (on_goal 2 => subst x)) | clear_value x)
    | (with_reducible first | apply State.updPc_only | apply State.setFld_only | apply State.psTurnOn_only | apply State.psOffTo_only)
    | with_reducible exact fun _ h => h
    | split
    | (fail_if_no_progress beta_reduce)

theorem State.psPowerDown_only {m : Nat} {s0 s : State} (h : s0.OnlyM m s) (hm : 131082 ||| m = m) :
    s0.OnlyM m (State.psPowerDown s) := by
  unfold State.psPowerDown
  repeat' first
    | (intro _)
    | with_reducible assumption
    | with_reducible exact subM (by decide) hm
    | (extract_lets +onlyGivenNames x; first | (refine (fun hx => ?_ : State.OnlyM s0 m x → _) ?_; (on_goal 1 => clear_value x); (on_goal 2 => subst x)) | clear_value x)
    | (with_reducible first | apply State.each_only | apply State.updPc_only | apply State.setFlag_only | apply State.stopTimer_only | apply State.psOffTo_only | apply State.setFld_only | apply State.updPs_only)
    | with_reducible exact fun _ h => h
    | split
    | (fail_if_no_progress beta_reduce)

theorem State.mlStop_only {m : Nat} {s0 s : State} (h : s0.OnlyM m s) (hm : 2097154 ||| m = m) :
    s0.OnlyM m (State.mlStop s) := by
  unfold State.mlStop
  repeat' first
    | (intro _)
    | with_reducible assumption
    | with_reducible exact subM (by decide) hm
    | (extract_lets +onlyGivenNames x; first | (refine (fun hx => ?_ : State.OnlyM s0 m x → _) ?_; (on_goal 1 => clear_value x); (on_goal 2 => subst x)) | clear_value x)
    | (with_reducible first | apply State.setFld_only)
    | split
    | (with_reducible apply State.mk_only; (rotate_left); all_goals first | with_reducible exact .inl rfl | exact .inr (bitM (by decide) hm) | skip)
    | with_reducible exact fun _ h => h
    | split
    | (fail_if_no_progress beta_reduce)

theorem State.psCommit_only {m : Nat} {s0 s : State} (h : s0.OnlyM m s) (hm : 131074 ||| m = m) :
    s0.OnlyM m (State.psCommit s) := by
  unfold State.psCommit
  repeat' first
    | (intro _)
    | with_reducible assumption
    | with_reducible exact subM (by decide) hm
    | (extract_lets +onlyGivenNames x; first | (refine (fun hx => ?_ : State.OnlyM s0 m x → _) ?_; (on_goal 1 => clear_value x); (on_goal 2 => subst x)) | clear_value x)
    | (with_reducible first | apply State.each_only | apply State.updPc_only | apply State.setFld_only | apply State.iff_only)
    | with_reducible exact fun _ h => h
    | split
    | (fail_if_no_progress beta_reduce)

theorem State.hostPs_only {m : Nat} {s0 s : State} (h : s0.OnlyM m s) (hm : 1030 ||| m = m) (n : Nat) (on : Bool) :
    s0.OnlyM m (State.hostPs s n on) := by
  unfold State.hostPs
  repeat' first
    | (intro _)
    | with_reducible assumption
    | with_reducible exact subM (by decide) hm
    | (with_reducible first | apply State.setFlag_only | apply State.event_only)
    | with_reducible exact fun _ h => h
    | split

theorem execPsOn_only (s : State) (chan : Fin 24) (on : Bool) :
    State.OnlyOut s 1030 (execPsOn chan on s) := by
  have hm : 1030 ||| 1030 = 1030 := rfl
  have h : State.OnlyM s 1030 s := State.OnlyM.refl _ _
  unfold execPsOn
  first | apply State.live_only | apply next_only
  repeat' first
    | (intro _)
    | with_reducible assumption
    | with_reducible exact subM (by decide) hm
    | (with_reducible first | apply State.hostPs_only)
    | with_reducible exact fun _ h => h
    | split

theorem execRefreshFrame_only (s : State) (err : BitVec 48) :
    State.OnlyOut s 134158 (execRefreshFrame err s) := by
  have hm : 134158 ||| 134158 = 134158 := rfl
  have h : State.OnlyM s 134158 s := State.OnlyM.refl _ _
  unfold execRefreshFrame
  first | apply State.live_only | apply State.liveOn_only | apply next_only
  repeat' first
    | (intro _)
    | with_reducible assumption
    | with_reducible exact subM (by decide) hm
    | (extract_lets +onlyGivenNames x; first | (refine (fun hx => ?_ : State.OnlyM s 134158 x → _) ?_; (on_goal 1 => clear_value x); (on_goal 2 => subst x)) | clear_value x)
    | (with_reducible first | apply State.updPs_only | apply State.inc_only | apply State.iff_only | apply State.event_only | apply State.startTimer_only | apply State.setFlag_only | apply State.each_only | apply State.psCommand_only)
    | with_reducible exact fun _ h => h
    | split
    | (fail_if_no_progress beta_reduce)

theorem execSerialWatchdogExpiry_only (s : State) :
    State.OnlyOut s 134158 (execSerialWatchdogExpiry s) := by
  have hm : 134158 ||| 134158 = 134158 := rfl
  have h : State.OnlyM s 134158 s := State.OnlyM.refl _ _
  unfold execSerialWatchdogExpiry
  first | apply State.live_only | apply next_only
  repeat' first
    | (intro _)
    | with_reducible assumption
    | with_reducible exact subM (by decide) hm
    | (extract_lets +onlyGivenNames x; first | (refine (fun hx => ?_ : State.OnlyM s 134158 x → _) ?_; (on_goal 1 => clear_value x); (on_goal 2 => subst x)) | clear_value x)
    | (with_reducible first | apply State.setFlag_only | apply State.each_only | apply State.updPs_only | apply State.inc_only | apply State.psCommand_only | apply State.event_only)
    | with_reducible exact fun _ h => h
    | split

theorem execPsRampComplete_only (s : State) (chan : Fin 24) :
    State.OnlyOut s 2 (execPsRampComplete chan s) := by
  have hm : 2 ||| 2 = 2 := rfl
  have h : State.OnlyM s 2 s := State.OnlyM.refl _ _
  unfold execPsRampComplete
  first | apply State.live_only | apply State.liveOn_only | apply next_only
  repeat' first
    | (intro _)
    | with_reducible assumption
    | with_reducible exact subM (by decide) hm
    | (with_reducible first | apply State.setFld_only)
    | with_reducible exact fun _ h => h
    | split

theorem execCurrentLimitTrip_only (s : State) (chan : Fin 24) :
    State.OnlyOut s 134158 (execCurrentLimitTrip chan s) := by
  have hm : 134158 ||| 134158 = 134158 := rfl
  have h : State.OnlyM s 134158 s := State.OnlyM.refl _ _
  unfold execCurrentLimitTrip
  first | apply State.live_only | apply State.liveOn_only | apply next_only
  repeat' first
    | (intro _)
    | with_reducible assumption
    | with_reducible exact subM (by decide) hm
    | (with_reducible first | apply State.psTrip_only)
    | with_reducible exact fun _ h => h
    | split

theorem execRampTimeout_only (s : State) (chan : Fin 24) :
    State.OnlyOut s 134158 (execRampTimeout chan s) := by
  have hm : 134158 ||| 134158 = 134158 := rfl
  have h : State.OnlyM s 134158 s := State.OnlyM.refl _ _
  unfold execRampTimeout
  first | apply State.live_only | apply State.liveOn_only | apply next_only
  repeat' first
    | (intro _)
    | with_reducible assumption
    | with_reducible exact subM (by decide) hm
    | (with_reducible first | apply State.psTrip_only)
    | with_reducible exact fun _ h => h
    | split

theorem State.psRelease_only {m : Nat} {s0 s : State} (h : s0.OnlyM m s) (hm : 1030 ||| m = m) (n : Nat) :
    s0.OnlyM m (State.psRelease s n) := by
  unfold State.psRelease
  repeat' first
    | (intro _)
    | with_reducible assumption
    | with_reducible exact subM (by decide) hm
    | (with_reducible first | apply State.setFlag_only | apply State.event_only)
    | with_reducible exact fun _ h => h
    | split

theorem State.psLatch_only {m : Nat} {s0 s : State} (h : s0.OnlyM m s) (hm : 1030 ||| m = m) (n : Nat) :
    s0.OnlyM m (State.psLatch s n) := by
  unfold State.psLatch
  repeat' first
    | (intro _)
    | with_reducible assumption
    | with_reducible exact subM (by decide) hm
    | (with_reducible first | apply State.setFlag_only | apply State.event_only)
    | with_reducible exact fun _ h => h
    | split

theorem State.psCurrent_only {m : Nat} {s0 s : State} (h : s0.OnlyM m s) (hm : 131074 ||| m = m) (n : Nat) (i : Nat) :
    s0.OnlyM m (State.psCurrent s n i) := by
  unfold State.psCurrent
  repeat' first
    | (intro _)
    | with_reducible assumption
    | with_reducible exact subM (by decide) hm
    | (extract_lets +onlyGivenNames x; first | (refine (fun hx => ?_ : State.OnlyM s0 m x → _) ?_; (on_goal 1 => clear_value x); (on_goal 2 => subst x)) | clear_value x)
    | (with_reducible first | apply State.updPc_only | apply State.railShow_only | apply State.setFld_only)
    | with_reducible exact fun _ h => h
    | split
    | (fail_if_no_progress beta_reduce)

theorem execWireModelUpdate_only (s : State) (chan : Fin 24) (amps : BitVec 12) (inLimit : Bool) :
    State.OnlyOut s 134158 (execWireModelUpdate chan amps inLimit s) := by
  have hm : 134158 ||| 134158 = 134158 := rfl
  have h : State.OnlyM s 134158 s := State.OnlyM.refl _ _
  unfold execWireModelUpdate
  first | apply State.live_only | apply State.liveOn_only | apply next_only
  repeat' first
    | (intro _)
    | with_reducible assumption
    | with_reducible exact subM (by decide) hm
    | (extract_lets +onlyGivenNames x; first | (refine (fun hx => ?_ : State.OnlyM s 134158 x → _) ?_; (on_goal 1 => clear_value x); (on_goal 2 => subst x)) | clear_value x)
    | (with_reducible first | apply State.psCurrent_only | apply State.setSat_only | apply State.updPc_only | apply State.setFlag_only | apply State.iff_only | apply State.psLatch_only | apply State.psTrip_only | apply State.psRelease_only)
    | with_reducible exact fun _ h => h
    | split
    | (fail_if_no_progress beta_reduce)

theorem execDieTempCheck_only (s : State) (chan : Fin 24) (dt : BitVec 8) :
    State.OnlyOut s 134158 (execDieTempCheck chan dt s) := by
  have hm : 134158 ||| 134158 = 134158 := rfl
  have h : State.OnlyM s 134158 s := State.OnlyM.refl _ _
  unfold execDieTempCheck
  first | apply State.live_only | apply next_only
  repeat' first
    | (intro _)
    | with_reducible assumption
    | with_reducible exact subM (by decide) hm
    | (extract_lets +onlyGivenNames x; first | (refine (fun hx => ?_ : State.OnlyM s 134158 x → _) ?_; (on_goal 1 => clear_value x); (on_goal 2 => subst x)) | clear_value x)
    | (with_reducible first | apply State.psTrip_only | apply State.setFld_only | apply State.psLatch_only | apply State.psRelease_only)
    | with_reducible exact fun _ h => h
    | split

theorem execPsRetry_only (s : State) (chan : Fin 24) :
    State.OnlyOut s 134158 (execPsRetry chan s) := by
  have hm : 134158 ||| 134158 = 134158 := rfl
  have h : State.OnlyM s 134158 s := State.OnlyM.refl _ _
  unfold execPsRetry
  first | apply State.live_only | apply State.liveOn_only | apply next_only
  repeat' first
    | (intro _)
    | with_reducible assumption
    | with_reducible exact subM (by decide) hm
    | (extract_lets +onlyGivenNames x; first | (refine (fun hx => ?_ : State.OnlyM s 134158 x → _) ?_; (on_goal 1 => clear_value x); (on_goal 2 => subst x)) | clear_value x)
    | (with_reducible first | apply State.iff_only | apply State.event_only | apply State.updPc_only | apply State.psTurnOn_only | apply State.setFld_only | apply State.stopTimer_only)
    | with_reducible exact fun _ h => h
    | split
    | (fail_if_no_progress beta_reduce)

theorem execRetryRestore_only (s : State) (chan : Fin 24) :
    State.OnlyOut s 131074 (execRetryRestore chan s) := by
  have hm : 131074 ||| 131074 = 131074 := rfl
  have h : State.OnlyM s 131074 s := State.OnlyM.refl _ _
  unfold execRetryRestore
  first | apply State.live_only | apply State.liveOn_only | apply next_only
  repeat' first
    | (intro _)
    | with_reducible assumption
    | with_reducible exact subM (by decide) hm
    | (with_reducible first | apply State.updPc_only | apply State.setFld_only)
    | with_reducible exact fun _ h => h
    | split

theorem State.hostPsClr_only {m : Nat} {s0 s : State} (h : s0.OnlyM m s) (hm : 132102 ||| m = m) (n : Nat) :
    s0.OnlyM m (State.hostPsClr s n) := by
  unfold State.hostPsClr
  repeat' first
    | (intro _)
    | with_reducible assumption
    | with_reducible exact subM (by decide) hm
    | (extract_lets +onlyGivenNames x; first | (refine (fun hx => ?_ : State.OnlyM s0 m x → _) ?_; (on_goal 1 => clear_value x); (on_goal 2 => subst x)) | clear_value x)
    | (with_reducible first | apply State.updPc_only | apply State.event_only | apply State.setFld_only)
    | with_reducible exact fun _ h => h
    | split
    | (fail_if_no_progress beta_reduce)

theorem execPsClr_only (s : State) (chan : Fin 24) :
    State.OnlyOut s 132102 (execPsClr chan s) := by
  have hm : 132102 ||| 132102 = 132102 := rfl
  have h : State.OnlyM s 132102 s := State.OnlyM.refl _ _
  unfold execPsClr
  first | apply State.live_only | apply next_only
  repeat' first
    | (intro _)
    | with_reducible assumption
    | with_reducible exact subM (by decide) hm
    | (with_reducible first | apply State.hostPsClr_only)
    | with_reducible exact fun _ h => h
    | split

theorem State.psAmps_only {m : Nat} {s0 s : State} (h : s0.OnlyM m s) (hm : 2 ||| m = m) (r : Nat) (amps : List Nat) :
    s0.OnlyM m (State.psAmps s r amps) := by
  unfold State.psAmps
  repeat' first
    | (intro _)
    | with_reducible assumption
    | with_reducible exact subM (by decide) hm
    | (with_reducible first | apply State.railShow_only | apply State.each_only | apply State.setSat_only)
    | with_reducible exact fun _ h => h
    | split

theorem execRailOvercurrent_only (s : State) (rail : Fin 4) (inLimit : BitVec 24) (amps : List Nat) :
    State.OnlyOut s 134158 (execRailOvercurrent rail inLimit amps s) := by
  have hm : 134158 ||| 134158 = 134158 := rfl
  have h : State.OnlyM s 134158 s := State.OnlyM.refl _ _
  unfold execRailOvercurrent
  first | apply State.live_only | apply State.liveOn_only | apply next_only
  repeat' first
    | (intro _)
    | with_reducible assumption
    | with_reducible exact subM (by decide) hm
    | (extract_lets +onlyGivenNames x; first | (refine (fun hx => ?_ : State.OnlyM s 134158 x → _) ?_; (on_goal 1 => clear_value x); (on_goal 2 => subst x)) | clear_value x)
    | (with_reducible first | apply State.psAmps_only | apply State.iff_only | apply State.updPs_only | apply State.setFld_only | apply State.each_only | apply State.event_only | apply State.psTrip_only | apply State.psPause_only)
    | with_reducible exact fun _ h => h
    | split
    | (fail_if_no_progress beta_reduce)

theorem execRailGuardShed_only (s : State) (rail : Fin 4) (amps : List Nat) :
    State.OnlyOut s 134158 (execRailGuardShed rail amps s) := by
  have hm : 134158 ||| 134158 = 134158 := rfl
  have h : State.OnlyM s 134158 s := State.OnlyM.refl _ _
  unfold execRailGuardShed
  first | apply State.live_only | apply State.liveOn_only | apply next_only
  repeat' first
    | (intro _)
    | with_reducible assumption
    | with_reducible exact subM (by decide) hm
    | (extract_lets +onlyGivenNames x; first | (refine (fun hx => ?_ : State.OnlyM s 134158 x → _) ?_; (on_goal 1 => clear_value x); (on_goal 2 => subst x)) | clear_value x)
    | (with_reducible first | apply State.psAmps_only | apply State.each_only | apply State.event_only | apply State.psTrip_only)
    | with_reducible exact fun _ h => h
    | split
    | (fail_if_no_progress beta_reduce)

theorem execRailRampsResume_only (s : State) (rail : Fin 4) (amps : List Nat) :
    State.OnlyOut s 132102 (execRailRampsResume rail amps s) := by
  have hm : 132102 ||| 132102 = 132102 := rfl
  have h : State.OnlyM s 132102 s := State.OnlyM.refl _ _
  unfold execRailRampsResume
  first | apply State.live_only | apply State.liveOn_only | apply next_only
  repeat' first
    | (intro _)
    | with_reducible assumption
    | with_reducible exact subM (by decide) hm
    | (extract_lets +onlyGivenNames x; first | (refine (fun hx => ?_ : State.OnlyM s 132102 x → _) ?_; (on_goal 1 => clear_value x); (on_goal 2 => subst x)) | clear_value x)
    | (with_reducible first | apply State.setFld_only | apply State.psAmps_only | apply State.iff_only | apply State.event_only | apply State.each_only | apply State.psPause_only)
    | with_reducible exact fun _ h => h
    | split
    | (fail_if_no_progress beta_reduce)

theorem State.railVolts_only {m : Nat} {s0 s : State} (h : s0.OnlyM m s) (hm : 131074 ||| m = m) (r : Nat) (dV : Nat) :
    s0.OnlyM m (State.railVolts s r dV) := by
  unfold State.railVolts
  repeat' first
    | (intro _)
    | with_reducible assumption
    | with_reducible exact subM (by decide) hm
    | (extract_lets +onlyGivenNames x; first | (refine (fun hx => ?_ : State.OnlyM s0 m x → _) ?_; (on_goal 1 => clear_value x); (on_goal 2 => subst x)) | clear_value x)
    | (with_reducible first | apply State.setSat_only | apply State.setFld_only | apply State.iff_only | apply State.updPs_only | apply State.each_only | apply State.psPause_only)
    | with_reducible exact fun _ h => h
    | split
    | (fail_if_no_progress beta_reduce)

theorem execRailRampPause_only (s : State) (rail : Fin 4) (dV : BitVec 12) :
    State.OnlyOut s 131074 (execRailRampPause rail dV s) := by
  have hm : 131074 ||| 131074 = 131074 := rfl
  have h : State.OnlyM s 131074 s := State.OnlyM.refl _ _
  unfold execRailRampPause
  first | apply State.live_only | apply State.liveOn_only | apply next_only
  repeat' first
    | (intro _)
    | with_reducible assumption
    | with_reducible exact subM (by decide) hm
    | (with_reducible first | apply State.railVolts_only)
    | with_reducible exact fun _ h => h
    | split

theorem execRailUndervoltage_only (s : State) (rail : Fin 4) (dV : BitVec 12) (heldUs : Nat) :
    State.OnlyOut s 132110 (execRailUndervoltage rail dV heldUs s) := by
  have hm : 132110 ||| 132110 = 132110 := rfl
  have h : State.OnlyM s 132110 s := State.OnlyM.refl _ _
  unfold execRailUndervoltage
  first | apply State.live_only | apply State.liveOn_only | apply next_only
  repeat' first
    | (intro _)
    | with_reducible assumption
    | with_reducible exact subM (by decide) hm
    | (extract_lets +onlyGivenNames x; first | (refine (fun hx => ?_ : State.OnlyM s 132110 x → _) ?_; (on_goal 1 => clear_value x); (on_goal 2 => subst x)) | clear_value x)
    | (with_reducible first | apply State.event_only | apply State.updPs_only | apply State.railVolts_only | apply State.each_only | apply State.psOffTo_only)
    | with_reducible exact fun _ h => h
    | split
    | (fail_if_no_progress beta_reduce)

theorem State.railRestore_only {m : Nat} {s0 s : State} (h : s0.OnlyM m s) (hm : 134158 ||| m = m) (r : Nat) :
    s0.OnlyM m (State.railRestore s r) := by
  unfold State.railRestore
  repeat' first
    | (intro _)
    | with_reducible assumption
    | with_reducible exact subM (by decide) hm
    | (extract_lets +onlyGivenNames x; first | (refine (fun hx => ?_ : State.OnlyM s0 m x → _) ?_; (on_goal 1 => clear_value x); (on_goal 2 => subst x)) | clear_value x)
    | (with_reducible first | apply State.each_only | apply State.psOffTo_only | apply State.setFld_only | apply State.psTurnOn_only | apply State.updPs_only | apply State.event_only)
    | with_reducible exact fun _ h => h
    | split
    | (fail_if_no_progress beta_reduce)

theorem execRailRecovered_only (s : State) (rail : Fin 4) (dV : BitVec 12) (heldUs : Nat) :
    State.OnlyOut s 134158 (execRailRecovered rail dV heldUs s) := by
  have hm : 134158 ||| 134158 = 134158 := rfl
  have h : State.OnlyM s 134158 s := State.OnlyM.refl _ _
  unfold execRailRecovered
  first | apply State.live_only | apply State.liveOn_only | apply next_only
  repeat' first
    | (intro _)
    | with_reducible assumption
    | with_reducible exact subM (by decide) hm
    | (with_reducible first | apply State.railRestore_only | apply State.railVolts_only | apply State.updPs_only)
    | with_reducible exact fun _ h => h
    | split

theorem State.railTick_only {m : Nat} {s0 s : State} (h : s0.OnlyM m s) (hm : 134158 ||| m = m) :
    s0.OnlyM m (State.railTick s) := by
  unfold State.railTick
  repeat' first
    | (intro _)
    | with_reducible assumption
    | with_reducible exact subM (by decide) hm
    | (with_reducible first | apply State.each_only | apply State.railRestore_only)
    | with_reducible exact fun _ h => h
    | split

theorem execOpenLoad_only (s : State) (chan : Fin 24) :
    State.OnlyOut s 132102 (execOpenLoad chan s) := by
  have hm : 132102 ||| 132102 = 132102 := rfl
  have h : State.OnlyM s 132102 s := State.OnlyM.refl _ _
  unfold execOpenLoad
  first | apply State.live_only | apply State.liveOn_only | apply next_only
  repeat' first
    | (intro _)
    | with_reducible assumption
    | with_reducible exact subM (by decide) hm
    | (with_reducible first | apply State.event_only | apply State.updPc_only)
    | with_reducible exact fun _ h => h
    | split

theorem execPsReadbackMismatch_only (s : State) (chan : Fin 24) :
    State.OnlyOut s 1030 (execPsReadbackMismatch chan s) := by
  have hm : 1030 ||| 1030 = 1030 := rfl
  have h : State.OnlyM s 1030 s := State.OnlyM.refl _ _
  unfold execPsReadbackMismatch
  first | apply State.live_only | apply State.liveOn_only | apply next_only
  repeat' first
    | (intro _)
    | with_reducible assumption
    | with_reducible exact subM (by decide) hm
    | (with_reducible first | apply State.event_only)
    | with_reducible exact fun _ h => h
    | split

end Sys2Proof.Machine
end

