-- ==== Sys2Proof/Laws/OnlyPanels.lean ====
section
/-!
SUPPORT. The parts of the state that the operations and commands of Machine/Panels.lean change.
-/

set_option linter.all false

namespace Sys2Proof.Machine

open Sys2Proof

theorem State.updPnl_only {m : Nat} {s0 s : State} (h : s0.OnlyM m s) (hm : 262144 ||| m = m) (f : PnlSt → PnlSt) :
    s0.OnlyM m (State.updPnl s f) := by
  unfold State.updPnl
  repeat' first
    | (intro _)
    | with_reducible assumption
    | with_reducible exact subM (by decide) hm
    | split
    | (with_reducible apply State.mk_only; (rotate_left); all_goals first | with_reducible exact .inl rfl | exact .inr (bitM (by decide) hm) | skip)
    | with_reducible exact fun _ h => h
    | split

theorem State.updPn_only {m : Nat} {s0 s : State} (h : s0.OnlyM m s) (hm : 262144 ||| m = m) (p : Nat) (f : Panel → Panel) :
    s0.OnlyM m (State.updPn s p f) := by
  unfold State.updPn
  repeat' first
    | (intro _)
    | with_reducible assumption
    | with_reducible exact subM (by decide) hm
    | (with_reducible first | apply State.updPnl_only)
    | with_reducible exact fun _ h => h
    | split

theorem State.loadTable_only {m : Nat} {s0 s : State} (h : s0.OnlyM m s) (hm : 263174 ||| m = m) (p : Nat) (b : List Byte) :
    s0.OnlyM m (State.loadTable s p b) := by
  unfold State.loadTable
  repeat' first
    | (intro _)
    | with_reducible assumption
    | with_reducible exact subM (by decide) hm
    | (extract_lets +onlyGivenNames x; first | (refine (fun hx => ?_ : State.OnlyM s0 m x → _) ?_; (on_goal 1 => clear_value x); (on_goal 2 => subst x)) | clear_value x)
    | (with_reducible first | apply State.setFlag_only | apply State.updPn_only | apply State.iff_only | apply State.setFld_only | apply State.event_only)
    | with_reducible exact fun _ h => h
    | split
    | (fail_if_no_progress beta_reduce)

theorem State.loadRoast_only {m : Nat} {s0 s : State} (h : s0.OnlyM m s) (hm : 263206 ||| m = m) (p : Nat) (b : List Byte) :
    s0.OnlyM m (State.loadRoast s p b) := by
  unfold State.loadRoast
  repeat' first
    | (intro _)
    | with_reducible assumption
    | with_reducible exact subM (by decide) hm
    | (extract_lets +onlyGivenNames x; first | (refine (fun hx => ?_ : State.OnlyM s0 m x → _) ?_; (on_goal 1 => clear_value x); (on_goal 2 => subst x)) | (refine (fun hx => ?_ : State.OnlyM s0 m x.1 → _) ?_; (on_goal 1 => clear_value x); (on_goal 2 => subst x)) | (refine (fun hx => ?_ : State.OnlyM s0 m x.2 → _) ?_; (on_goal 1 => clear_value x); (on_goal 2 => subst x)) | clear_value x)
    | (with_reducible first | apply State.draw_only | apply State.setFld_only | apply State.loadTable_only)
    | with_reducible exact fun _ h => h
    | split
    | (fail_if_no_progress beta_reduce)

theorem State.takeTemp_only {m : Nat} {s0 s : State} (h : s0.OnlyM m s) (hm : 263174 ||| m = m) (p : Nat) (t : Option Int) :
    s0.OnlyM m (State.takeTemp s p t) := by
  unfold State.takeTemp
  repeat' first
    | (intro _)
    | with_reducible assumption
    | with_reducible exact subM (by decide) hm
    | (extract_lets +onlyGivenNames x; first | (refine (fun hx => ?_ : State.OnlyM s0 m x → _) ?_; (on_goal 1 => clear_value x); (on_goal 2 => subst x)) | clear_value x)
    | (with_reducible first | apply State.setFlag_only | apply State.updPn_only | apply State.iff_only | apply State.setFld_only | apply State.updPnl_only | apply State.event_only)
    | with_reducible exact fun _ h => h
    | split

theorem State.pnBal_only {m : Nat} {s0 s : State} (h : s0.OnlyM m s) (hm : 2 ||| m = m) (p : Nat) :
    s0.OnlyM m (State.pnBal s p) := by
  unfold State.pnBal
  repeat' first
    | (intro _)
    | with_reducible assumption
    | with_reducible exact subM (by decide) hm
    | (extract_lets +onlyGivenNames x; first | clear_value x)
    | (with_reducible first | apply State.setSat_only | apply foldl_only)
    | with_reducible exact fun _ h => h
    | split

theorem State.pnShow_only {m : Nat} {s0 s : State} (h : s0.OnlyM m s) (hm : 2 ||| m = m) (p : Nat) :
    s0.OnlyM m (State.pnShow s p) := by
  unfold State.pnShow
  repeat' first
    | (intro _)
    | with_reducible assumption
    | with_reducible exact subM (by decide) hm
    | (extract_lets +onlyGivenNames x; first | clear_value x)
    | (with_reducible first | apply State.setFld_only)
    | with_reducible exact fun _ h => h
    | split

theorem execPanelRailStep_only (s : State) (panel : Fin 2) (ok : Bool) :
    State.OnlyOut s 263182 (execPanelRailStep panel ok s) := by
  have hm : 263182 ||| 263182 = 263182 := rfl
  have h : State.OnlyM s 263182 s := State.OnlyM.refl _ _
  unfold execPanelRailStep
  first | apply State.live_only | apply State.liveOn_only | apply next_only
  repeat' first
    | (intro _)
    | with_reducible assumption
    | with_reducible exact subM (by decide) hm
    | (extract_lets +onlyGivenNames x; first | (refine (fun hx => ?_ : State.OnlyM s 263182 x → _) ?_; (on_goal 1 => clear_value x); (on_goal 2 => subst x)) | clear_value x)
    | (with_reducible first | apply State.setFld_only | apply State.updPn_only | apply State.startTimer_only | apply State.event_only | apply State.inc_only | apply State.pnShow_only)
    | with_reducible exact fun _ h => h
    | split
    | (fail_if_no_progress beta_reduce)

theorem State.pnPower_only {m : Nat} {s0 s : State} (h : s0.OnlyM m s) (hm : 262144 ||| m = m) (p : Nat) :
    s0.OnlyM m (State.pnPower s p) := by
  unfold State.pnPower
  repeat' first
    | (intro _)
    | with_reducible assumption
    | with_reducible exact subM (by decide) hm
    | (with_reducible first | apply State.iff_only | apply State.updPn_only)
    | with_reducible exact fun _ h => h
    | split

theorem State.railsDown_only {m : Nat} {s0 s : State} (h : s0.OnlyM m s) (hm : 262144 ||| m = m) :
    s0.OnlyM m (State.railsDown s) := by
  unfold State.railsDown
  repeat' first
    | (intro _)
    | with_reducible assumption
    | with_reducible exact subM (by decide) hm
    | (with_reducible first | apply State.each_only | apply State.iff_only | apply State.updPn_only)
    | with_reducible exact fun _ h => h
    | split

theorem execPanelRailRetry_only (s : State) (panel : Fin 2) :
    State.OnlyOut s 262154 (execPanelRailRetry panel s) := by
  have hm : 262154 ||| 262154 = 262154 := rfl
  have h : State.OnlyM s 262154 s := State.OnlyM.refl _ _
  unfold execPanelRailRetry
  first | apply State.live_only | apply next_only
  repeat' first
    | (intro _)
    | with_reducible assumption
    | with_reducible exact subM (by decide) hm
    | (with_reducible first | apply State.setFld_only | apply State.pnPower_only | apply State.stopTimer_only)
    | with_reducible exact fun _ h => h
    | split

theorem execPanelRailFault_only (s : State) (panel : Fin 2) (rails : BitVec 5) :
    State.OnlyOut s 263182 (execPanelRailFault panel rails s) := by
  have hm : 263182 ||| 263182 = 263182 := rfl
  have h : State.OnlyM s 263182 s := State.OnlyM.refl _ _
  unfold execPanelRailFault
  first | apply State.live_only | apply State.liveOn_only | apply next_only
  repeat' first
    | (intro _)
    | with_reducible assumption
    | with_reducible exact subM (by decide) hm
    | (extract_lets +onlyGivenNames x; first | (refine (fun hx => ?_ : State.OnlyM s 263182 x → _) ?_; (on_goal 1 => clear_value x); (on_goal 2 => subst x)) | clear_value x)
    | (with_reducible first | apply State.updPn_only | apply State.inc_only | apply State.setFld_only | apply State.pnBal_only | apply State.startTimer_only | apply State.event_only)
    | with_reducible exact fun _ h => h
    | split
    | (fail_if_no_progress beta_reduce)

theorem State.panelsStop_only {m : Nat} {s0 s : State} (h : s0.OnlyM m s) (hm : 263182 ||| m = m) :
    s0.OnlyM m (State.panelsStop s) := by
  unfold State.panelsStop
  repeat' first
    | (intro _)
    | with_reducible assumption
    | with_reducible exact subM (by decide) hm
    | (extract_lets +onlyGivenNames x; first | (refine (fun hx => ?_ : State.OnlyM s0 m x → _) ?_; (on_goal 1 => clear_value x); (on_goal 2 => subst x)) | clear_value x)
    | (with_reducible first | apply State.each_only | apply State.iff_only | apply State.event_only | apply State.setSat_only | apply State.updPn_only | apply State.setFld_only | apply State.updPnl_only | apply State.pnBal_only | apply State.stopTimer_only | apply foldl_only)
    | with_reducible exact fun _ h => h
    | split
    | (fail_if_no_progress beta_reduce)

theorem State.pnQueue_only {m : Nat} {s0 s : State} (h : s0.OnlyM m s) (hm : 263174 ||| m = m) (p : Nat) (u : PnlUpd) :
    s0.OnlyM m (State.pnQueue s p u) := by
  unfold State.pnQueue
  repeat' first
    | (intro _)
    | with_reducible assumption
    | with_reducible exact subM (by decide) hm
    | (extract_lets +onlyGivenNames x; first | (refine (fun hx => ?_ : State.OnlyM s0 m x → _) ?_; (on_goal 1 => clear_value x); (on_goal 2 => subst x)) | clear_value x)
    | (with_reducible first | apply State.event_only | apply State.inc_only | apply State.updPnl_only | apply State.updPn_only | apply State.pnPower_only | apply State.setFld_only)
    | with_reducible exact fun _ h => h
    | split
    | (fail_if_no_progress beta_reduce)

theorem State.pnBegin_only {m : Nat} {s0 s : State} (h : s0.OnlyM m s) (hm : 262144 ||| m = m) (p : Nat) (t0 : Int) (u : PnlUpd) :
    s0.OnlyM m (State.pnBegin s p t0 u) := by
  unfold State.pnBegin
  repeat' first
    | (intro _)
    | with_reducible assumption
    | with_reducible exact subM (by decide) hm
    | (extract_lets +onlyGivenNames x; first | (refine (fun hx => ?_ : State.OnlyM s0 m x → _) ?_; (on_goal 1 => clear_value x); (on_goal 2 => subst x)) | clear_value x)
    | (with_reducible first | apply State.updPn_only | apply foldl_only)
    | with_reducible exact fun _ h => h
    | split
    | (fail_if_no_progress beta_reduce)

theorem execPanelFrame_only (s : State) (panel : Fin 2) (temp : Option Int) (droop : BitVec 5) :
    State.OnlyOut s 263174 (execPanelFrame panel temp droop s) := by
  have hm : 263174 ||| 263174 = 263174 := rfl
  have h : State.OnlyM s 263174 s := State.OnlyM.refl _ _
  unfold execPanelFrame
  first | apply State.live_only | apply State.liveOn_only | apply next_only
  repeat' first
    | (intro _)
    | with_reducible assumption
    | with_reducible exact subM (by decide) hm
    | (extract_lets +onlyGivenNames x; first | (refine (fun hx => ?_ : State.OnlyM s 263174 x → _) ?_; (on_goal 1 => clear_value x); (on_goal 2 => subst x)) | clear_value x)
    | (with_reducible first | apply State.iff_only | apply State.takeTemp_only | apply State.inc_only | apply State.setFld_only | apply State.event_only | apply State.updPn_only | apply State.each_only | apply State.pnQueue_only | apply State.pnBegin_only | apply State.pnBal_only | apply State.pnShow_only)
    | with_reducible exact fun _ h => h
    | split
    | (fail_if_no_progress beta_reduce)

theorem State.panelSf_only {m : Nat} {s0 s : State} (h : s0.OnlyM m s) (hm : 263174 ||| m = m) (present : Bool) :
    s0.OnlyM m (State.panelSf s present) := by
  unfold State.panelSf
  repeat' first
    | (intro _)
    | with_reducible assumption
    | with_reducible exact subM (by decide) hm
    | (extract_lets +onlyGivenNames x; first | (refine (fun hx => ?_ : State.OnlyM s0 m x → _) ?_; (on_goal 1 => clear_value x); (on_goal 2 => subst x)) | clear_value x)
    | (with_reducible first | apply State.updPnl_only | apply State.setFlag_only | apply State.iff_only | apply State.event_only | apply State.each_only | apply State.pnQueue_only | apply State.pnPower_only)
    | with_reducible exact fun _ h => h
    | split
    | (fail_if_no_progress beta_reduce)

end Sys2Proof.Machine
end

