-- ==== Sys2Proof/Laws/OnlyIsland.lean ====
section
/-!
SUPPORT. The parts of the state that the operations and commands of Machine/Island.lean change.
-/

set_option linter.all false

namespace Sys2Proof.Machine

open Sys2Proof

theorem State.pdSwitch_only {m : Nat} {s0 s : State} (h : s0.OnlyM m s) (hm : 2493774 ||| m = m) (stop : Bool) (mask : Nat) :
    s0.OnlyM m (State.pdSwitch s stop mask) := by
  unfold State.pdSwitch
  repeat' first
    | (intro _)
    | with_reducible assumption
    | with_reducible exact subM (by decide) hm
    | (extract_lets +onlyGivenNames x; first | (refine (fun hx => ?_ : State.OnlyM s0 m x → _) ?_; (on_goal 1 => clear_value x); (on_goal 2 => subst x)) | (have y : State → State := x; clear y; subst x) | (have y : State → _ → State := x; clear y; subst x) | (have y : _ → State → State := x; clear y; subst x) | (have y : _ → _ → State → State := x; clear y; subst x) | (have y : State → _ → _ → State := x; clear y; subst x) | (have y : State → _ → State × _ := x; clear y; subst x) | clear_value x)
    | (with_reducible first | apply State.iff_only | apply State.panelsStop_only | apply State.mlStop_only | apply State.psPowerDown_only | apply State.stopLines_only | apply State.setFld_only | apply State.each_only | apply State.linkPower_only | apply foldl_only)
    | split
    | (with_reducible apply State.mk_only; (rotate_left); all_goals first | with_reducible exact .inl rfl | exact .inr (bitM (by decide) hm) | skip)
    | with_reducible exact fun _ h => h
    | split
    | (fail_if_no_progress beta_reduce)

theorem State.pdSet_only {m : Nat} {s0 s : State} (h : s0.OnlyM m s) (hm : 2493774 ||| m = m) (mask : Nat) :
    s0.OnlyM m (State.pdSet s mask) := by
  unfold State.pdSet
  repeat' first
    | (intro _)
    | with_reducible assumption
    | with_reducible exact subM (by decide) hm
    | (with_reducible first | apply State.pdSwitch_only)
    | with_reducible exact fun _ h => h
    | split

theorem State.setMode_only {m : Nat} {s0 s : State} (h : s0.OnlyM m s) (hm : 36158798 ||| m = m) (a1 : Nat) :
    s0.OnlyM m (State.setMode s a1) := by
  unfold State.setMode
  repeat' first
    | (intro _)
    | with_reducible assumption
    | with_reducible exact subM (by decide) hm
    | (extract_lets +onlyGivenNames x; first | (refine (fun hx => ?_ : State.OnlyM s0 m x → _) ?_; (on_goal 1 => clear_value x); (on_goal 2 => subst x)) | clear_value x)
    | (with_reducible first | apply State.setFlag_only | apply State.vehMode_only | apply State.iff_only | apply State.setFld_only | apply State.each_only | apply State.pdSet_only | apply State.updSys_only | apply State.stopTimer_only | apply State.updIsl_only | apply State.event_only)
    | with_reducible exact fun _ h => h
    | split

theorem State.setIstate_only {m : Nat} {s0 s : State} (h : s0.OnlyM m s) (hm : 66566 ||| m = m) (n : Nat) :
    s0.OnlyM m (State.setIstate s n) := by
  unfold State.setIstate
  repeat' first
    | (intro _)
    | with_reducible assumption
    | with_reducible exact subM (by decide) hm
    | (with_reducible first | apply State.updIsl_only | apply State.event_only)
    | with_reducible exact fun _ h => h
    | split

theorem State.pairOffNow_only {m : Nat} {s0 s : State} (h : s0.OnlyM m s) (hm : 65544 ||| m = m) (k : Nat) :
    s0.OnlyM m (State.pairOffNow s k) := by
  unfold State.pairOffNow
  repeat' first
    | (intro _)
    | with_reducible assumption
    | with_reducible exact subM (by decide) hm
    | (with_reducible first | apply State.updSo_only | apply State.stopTimer_only)
    | with_reducible exact fun _ h => h
    | split

theorem State.pairOffSoon_only {m : Nat} {s0 s : State} (h : s0.OnlyM m s) (hm : 8 ||| m = m) (k : Nat) :
    s0.OnlyM m (State.pairOffSoon s k) := by
  unfold State.pairOffSoon
  repeat' first
    | (intro _)
    | with_reducible assumption
    | with_reducible exact subM (by decide) hm
    | (with_reducible first | apply State.startTimer_only)
    | with_reducible exact fun _ h => h
    | split

theorem State.onPair_only {m : Nat} {s0 s : State} (h : s0.OnlyM m s) (j : Nat) (f : State → Nat → State) (hf : ∀ z0 z1, s0.OnlyM m z0 → s0.OnlyM m (f z0 z1)) :
    s0.OnlyM m (State.onPair s j f) := by
  unfold State.onPair
  repeat' first
    | (intro _)
    | with_reducible assumption
    | with_reducible exact subM (by decide) hm
    | (with_reducible first | apply hf)
    | with_reducible exact fun _ h => h
    | split

theorem execPairOffDelay_only (s : State) (pair : Fin 8) :
    State.OnlyOut s 65544 (execPairOffDelay pair s) := by
  have hm : 65544 ||| 65544 = 65544 := rfl
  have h : State.OnlyM s 65544 s := State.OnlyM.refl _ _
  unfold execPairOffDelay
  first | apply State.live_only | apply State.liveOn_only | apply next_only
  repeat' first
    | (intro _)
    | with_reducible assumption
    | with_reducible exact subM (by decide) hm
    | (with_reducible first | apply State.pairOffNow_only)
    | with_reducible exact fun _ h => h
    | split

theorem State.setClamp_only {m : Nat} {s0 s : State} (h : s0.OnlyM m s) (hm : 2050 ||| m = m) (j : Nat) (v : Nat) :
    s0.OnlyM m (State.setClamp s j v) := by
  unfold State.setClamp
  repeat' first
    | (intro _)
    | with_reducible assumption
    | with_reducible exact subM (by decide) hm
    | (extract_lets +onlyGivenNames x; first | (refine (fun hx => ?_ : State.OnlyM s0 m x → _) ?_; (on_goal 1 => clear_value x); (on_goal 2 => subst x)) | clear_value x)
    | (with_reducible first | apply State.updSh_only | apply State.setSat_only)
    | with_reducible exact fun _ h => h
    | split
    | (fail_if_no_progress beta_reduce)

theorem State.tripOut_only {m : Nat} {s0 s : State} (h : s0.OnlyM m s) (hm : 113934 ||| m = m) (j : Nat) (fn : Nat) :
    s0.OnlyM m (State.tripOut s j fn) := by
  unfold State.tripOut
  repeat' first
    | (intro _)
    | with_reducible assumption
    | with_reducible exact subM (by decide) hm
    | (extract_lets +onlyGivenNames x; first | (refine (fun hx => ?_ : State.OnlyM s0 m x → _) ?_; (on_goal 1 => clear_value x); (on_goal 2 => subst x)) | clear_value x)
    | (with_reducible first | apply State.updIo_only | apply State.onPair_only | apply State.setClamp_only | apply State.stopLines_only | apply State.pairOffSoon_only | apply State.event_only | apply State.safetyEnd_only)
    | with_reducible exact fun _ h => h
    | split
    | (fail_if_no_progress beta_reduce)

theorem State.tripNew_only {m : Nat} {s0 s : State} (h : s0.OnlyM m s) (hm : 113934 ||| m = m) (j : Nat) (fn : Nat) :
    s0.OnlyM m (State.tripNew s j fn) := by
  unfold State.tripNew
  repeat' first
    | (intro _)
    | with_reducible assumption
    | with_reducible exact subM (by decide) hm
    | (extract_lets +onlyGivenNames x; first | clear_value x)
    | (with_reducible first | apply State.tripOut_only)
    | with_reducible exact fun _ h => h
    | split

theorem State.controlledStop_only {m : Nat} {s0 s : State} (h : s0.OnlyM m s) (hm : 67594 ||| m = m) (j : Nat) (fn : Nat) :
    s0.OnlyM m (State.controlledStop s j fn) := by
  unfold State.controlledStop
  repeat' first
    | (intro _)
    | with_reducible assumption
    | with_reducible exact subM (by decide) hm
    | (extract_lets +onlyGivenNames x; first | (refine (fun hx => ?_ : State.OnlyM s0 m x → _) ?_; (on_goal 1 => clear_value x); (on_goal 2 => subst x)) | clear_value x)
    | (with_reducible first | apply State.updIo_only | apply State.setClamp_only | apply State.iff_only | apply State.startTimer_only)
    | with_reducible exact fun _ h => h
    | split
    | (fail_if_no_progress beta_reduce)

theorem execControlledStopStage2_only (s : State) (out : Fin 8) :
    State.OnlyOut s 68878 (execControlledStopStage2 out s) := by
  have hm : 68878 ||| 68878 = 68878 := rfl
  have h : State.OnlyM s 68878 s := State.OnlyM.refl _ _
  unfold execControlledStopStage2
  first | apply State.live_only | apply State.liveOn_only | apply next_only
  repeat' first
    | (intro _)
    | with_reducible assumption
    | with_reducible exact subM (by decide) hm
    | (extract_lets +onlyGivenNames x; first | (refine (fun hx => ?_ : State.OnlyM s 68878 x → _) ?_; (on_goal 1 => clear_value x); (on_goal 2 => subst x)) | clear_value x)
    | (with_reducible first | apply State.updIo_only | apply State.stopTimer_only | apply State.iff_only | apply State.onPair_only | apply State.stopLines_only | apply State.pairOffSoon_only)
    | with_reducible exact fun _ h => h
    | split
    | (fail_if_no_progress beta_reduce)

theorem State.safeState_only {m : Nat} {s0 s : State} (h : s0.OnlyM m s) (hm : 103267662 ||| m = m) (cause : Nat) (at_ : List Nat) :
    s0.OnlyM m (State.safeState s cause at_) := by
  unfold State.safeState
  repeat' first
    | (intro _)
    | with_reducible assumption
    | with_reducible exact subM (by decide) hm
    | (extract_lets +onlyGivenNames x; first | (refine (fun hx => ?_ : State.OnlyM s0 m x → _) ?_; (on_goal 1 => clear_value x); (on_goal 2 => subst x)) | clear_value x)
    | (with_reducible first | apply State.each_only | apply State.onPair_only | apply State.pairOffNow_only | apply State.updIsl_only | apply State.stopLines_only | apply State.stopTimer_only | apply State.setClamp_only | apply State.pairOffSoon_only | apply State.setIstate_only | apply State.event_only | apply State.iff_only | apply State.setMode_only | apply State.twinAnnounce_only | apply State.frzAuto_only)
    | with_reducible exact fun _ h => h
    | split
    | (fail_if_no_progress beta_reduce)

theorem State.faultHeld_only {m : Nat} {s0 s : State} (h : s0.OnlyM m s) (hm : 103267662 ||| m = m) (row : Nat) :
    s0.OnlyM m (State.faultHeld s row) := by
  unfold State.faultHeld
  repeat' first
    | (intro _)
    | with_reducible assumption
    | with_reducible exact subM (by decide) hm
    | (with_reducible first | apply State.safeState_only | apply State.updIsl_only)
    | with_reducible exact fun _ h => h
    | split

theorem State.faultSafe_only {m : Nat} {s0 s : State} (h : s0.OnlyM m s) (hm : 103267662 ||| m = m) (row : Nat) :
    s0.OnlyM m (State.faultSafe s row) := by
  unfold State.faultSafe
  repeat' first
    | (intro _)
    | with_reducible assumption
    | with_reducible exact subM (by decide) hm
    | (with_reducible first | apply State.faultHeld_only | apply State.faultSeen_only)
    | with_reducible exact fun _ h => h
    | split

theorem State.stopThenSafe_only {m : Nat} {s0 s : State} (h : s0.OnlyM m s) (hm : 67594 ||| m = m) (js : List Nat) (fn : Nat) (cause : Nat) :
    s0.OnlyM m (State.stopThenSafe s js fn cause) := by
  unfold State.stopThenSafe
  repeat' first
    | (intro _)
    | with_reducible assumption
    | with_reducible exact subM (by decide) hm
    | (extract_lets +onlyGivenNames x; first | (refine (fun hx => ?_ : State.OnlyM s0 m x → _) ?_; (on_goal 1 => clear_value x); (on_goal 2 => subst x)) | clear_value x)
    | (with_reducible first | apply State.controlledStop_only | apply State.startTimer_only | apply State.each_only | apply State.updIsl_only)
    | with_reducible exact fun _ h => h
    | split

theorem execComparatorTrip_only (s : State) (out : Fin 8) (overvoltage : Bool) (value : Int) :
    State.OnlyOut s 113934 (execComparatorTrip out overvoltage value s) := by
  have hm : 113934 ||| 113934 = 113934 := rfl
  have h : State.OnlyM s 113934 s := State.OnlyM.refl _ _
  unfold execComparatorTrip
  first | apply State.live_only | apply State.liveOn_only | apply next_only
  repeat' first
    | (intro _)
    | with_reducible assumption
    | with_reducible exact subM (by decide) hm
    | (with_reducible first | apply State.iff_only | apply State.tripNew_only)
    | with_reducible exact fun _ h => h
    | split

theorem execPilotLossTrip_only (s : State) (out : Fin 8) :
    State.OnlyOut s 113934 (execPilotLossTrip out s) := by
  have hm : 113934 ||| 113934 = 113934 := rfl
  have h : State.OnlyM s 113934 s := State.OnlyM.refl _ _
  unfold execPilotLossTrip
  first | apply State.live_only | apply State.liveOn_only | apply next_only
  repeat' first
    | (intro _)
    | with_reducible assumption
    | with_reducible exact subM (by decide) hm
    | (with_reducible first | apply State.tripNew_only)
    | with_reducible exact fun _ h => h
    | split

theorem State.earthFault_only {m : Nat} {s0 s : State} (h : s0.OnlyM m s) (hm : 113934 ||| m = m) (j : Nat) :
    s0.OnlyM m (State.earthFault s j) := by
  unfold State.earthFault
  repeat' first
    | (intro _)
    | with_reducible assumption
    | with_reducible exact subM (by decide) hm
    | (with_reducible first | apply State.tripNew_only | apply State.event_only)
    | with_reducible exact fun _ h => h
    | split

theorem execFastEarthFault_only (s : State) (out : Fin 8) :
    State.OnlyOut s 113934 (execFastEarthFault out s) := by
  have hm : 113934 ||| 113934 = 113934 := rfl
  have h : State.OnlyM s 113934 s := State.OnlyM.refl _ _
  unfold execFastEarthFault
  first | apply State.live_only | apply State.liveOn_only | apply next_only
  repeat' first
    | (intro _)
    | with_reducible assumption
    | with_reducible exact subM (by decide) hm
    | (with_reducible first | apply State.earthFault_only)
    | with_reducible exact fun _ h => h
    | split

theorem execConnectorOvertemperature_only (s : State) (out : Fin 8) :
    State.OnlyOut s 113934 (execConnectorOvertemperature out s) := by
  have hm : 113934 ||| 113934 = 113934 := rfl
  have h : State.OnlyM s 113934 s := State.OnlyM.refl _ _
  unfold execConnectorOvertemperature
  first | apply State.live_only | apply State.liveOn_only | apply next_only
  repeat' first
    | (intro _)
    | with_reducible assumption
    | with_reducible exact subM (by decide) hm
    | (with_reducible first | apply State.tripNew_only)
    | with_reducible exact fun _ h => h
    | split

theorem execPathDisagreement_only (s : State) (out : Fin 8) :
    State.OnlyOut s 113934 (execPathDisagreement out s) := by
  have hm : 113934 ||| 113934 = 113934 := rfl
  have h : State.OnlyM s 113934 s := State.OnlyM.refl _ _
  unfold execPathDisagreement
  first | apply State.live_only | apply State.liveOn_only | apply next_only
  repeat' first
    | (intro _)
    | with_reducible assumption
    | with_reducible exact subM (by decide) hm
    | (with_reducible first | apply State.tripNew_only | apply State.event_only | apply State.faultSeen_only)
    | with_reducible exact fun _ h => h
    | split

theorem State.sampleSin_only {m : Nat} {s0 s : State} (h : s0.OnlyM m s) (hm : 65536 ||| m = m) (i : Nat) :
    s0.OnlyM m (State.sampleSin s i) := by
  unfold State.sampleSin
  repeat' first
    | (intro _)
    | with_reducible assumption
    | with_reducible exact subM (by decide) hm
    | (extract_lets +onlyGivenNames x; first | (refine (fun hx => ?_ : State.OnlyM s0 m x → _) ?_; (on_goal 1 => clear_value x); (on_goal 2 => subst x)) | clear_value x)
    | (with_reducible first | apply State.updSin_only)
    | with_reducible exact fun _ h => h
    | split
    | (fail_if_no_progress beta_reduce)

theorem State.weldFound_only {m : Nat} {s0 s : State} (h : s0.OnlyM m s) (hm : 111630 ||| m = m) (j : Nat) :
    s0.OnlyM m (State.weldFound s j) := by
  unfold State.weldFound
  repeat' first
    | (intro _)
    | with_reducible assumption
    | with_reducible exact subM (by decide) hm
    | (extract_lets +onlyGivenNames x; first | (refine (fun hx => ?_ : State.OnlyM s0 m x → _) ?_; (on_goal 1 => clear_value x); (on_goal 2 => subst x)) | clear_value x)
    | (with_reducible first | apply State.onPair_only | apply State.updIo_only | apply State.pairOffNow_only | apply State.event_only | apply State.safetyEnd_only)
    | with_reducible exact fun _ h => h
    | split
    | (fail_if_no_progress beta_reduce)

theorem State.reactSin_only {m : Nat} {s0 s : State} (h : s0.OnlyM m s) (hm : 103267662 ||| m = m) (i : Nat) :
    s0.OnlyM m (State.reactSin s i) := by
  unfold State.reactSin
  repeat' first
    | (intro _)
    | with_reducible assumption
    | with_reducible exact subM (by decide) hm
    | (extract_lets +onlyGivenNames x; first | (refine (fun hx => ?_ : State.OnlyM s0 m x → _) ?_; (on_goal 1 => clear_value x); (on_goal 2 => subst x)) | clear_value x)
    | (with_reducible first | apply State.safeState_only | apply State.each_only | apply State.tripNew_only | apply State.iff_only | apply State.event_only | apply State.updIsl_only | apply State.safetyEnd_only | apply State.controlledStop_only | apply State.tripOut_only | apply State.weldFound_only)
    | with_reducible exact fun _ h => h
    | split
    | (fail_if_no_progress beta_reduce)

theorem State.demandSin_only {m : Nat} {s0 s : State} (h : s0.OnlyM m s) (hm : 103267662 ||| m = m) (i : Nat) :
    s0.OnlyM m (State.demandSin s i) := by
  unfold State.demandSin
  repeat' first
    | (intro _)
    | with_reducible assumption
    | with_reducible exact subM (by decide) hm
    | (extract_lets +onlyGivenNames x; first | (refine (fun hx => ?_ : State.OnlyM s0 m x → _) ?_; (on_goal 1 => clear_value x); (on_goal 2 => subst x)) | clear_value x)
    | (with_reducible first | apply State.event_only | apply State.updSin_only | apply State.reactSin_only)
    | with_reducible exact fun _ h => h
    | split
    | (fail_if_no_progress beta_reduce)

theorem State.lowSide_only {m : Nat} {s0 s : State} (h : s0.OnlyM m s) (hm : 65536 ||| m = m) (j : Nat) :
    s0.OnlyM m (State.lowSide s j) := by
  unfold State.lowSide
  repeat' first
    | (intro _)
    | with_reducible assumption
    | with_reducible exact subM (by decide) hm
    | (with_reducible first | apply State.onPair_only | apply State.updSo_only)
    | with_reducible exact fun _ h => h
    | split

theorem execGuardInputAccept_only (s : State) (sin : Fin 16) (isB : Bool) :
    State.OnlyOut s 103267662 (execGuardInputAccept sin isB s) := by
  have hm : 103267662 ||| 103267662 = 103267662 := rfl
  have h : State.OnlyM s 103267662 s := State.OnlyM.refl _ _
  unfold execGuardInputAccept
  first | apply State.live_only | apply State.liveOn_only | apply next_only
  repeat' first
    | (intro _)
    | with_reducible assumption
    | with_reducible exact subM (by decide) hm
    | (extract_lets +onlyGivenNames x; first | (refine (fun hx => ?_ : State.OnlyM s 103267662 x → _) ?_; (on_goal 1 => clear_value x); (on_goal 2 => subst x)) | clear_value x)
    | (with_reducible first | apply State.updSin_only | apply State.each_only | apply State.iff_only | apply State.demandSin_only | apply State.lowSide_only)
    | with_reducible exact fun _ h => h
    | split
    | (fail_if_no_progress beta_reduce)

theorem execDiscrepancyFault_only (s : State) (sin : Fin 16) :
    State.OnlyOut s 66566 (execDiscrepancyFault sin s) := by
  have hm : 66566 ||| 66566 = 66566 := rfl
  have h : State.OnlyM s 66566 s := State.OnlyM.refl _ _
  unfold execDiscrepancyFault
  first | apply State.live_only | apply State.liveOn_only | apply next_only
  repeat' first
    | (intro _)
    | with_reducible assumption
    | with_reducible exact subM (by decide) hm
    | (extract_lets +onlyGivenNames x; first | (refine (fun hx => ?_ : State.OnlyM s 66566 x → _) ?_; (on_goal 1 => clear_value x); (on_goal 2 => subst x)) | clear_value x)
    | (with_reducible first | apply State.event_only | apply State.updSin_only)
    | with_reducible exact fun _ h => h
    | split
    | (fail_if_no_progress beta_reduce)

theorem State.pulseEnd_only {m : Nat} {s0 s : State} (h : s0.OnlyM m s) (hm : 103267662 ||| m = m) (i : Nat) (src : Nat) :
    s0.OnlyM m (State.pulseEnd s i src) := by
  unfold State.pulseEnd
  repeat' first
    | (intro _)
    | with_reducible assumption
    | with_reducible exact subM (by decide) hm
    | (extract_lets +onlyGivenNames x; first | (refine (fun hx => ?_ : State.OnlyM s0 m x → _) ?_; (on_goal 1 => clear_value x); (on_goal 2 => subst x)) | clear_value x)
    | (with_reducible first | apply State.updSin_only | apply State.sampleSin_only | apply State.iff_only | apply State.demandSin_only)
    | with_reducible exact fun _ h => h
    | split
    | (fail_if_no_progress beta_reduce)

theorem execTestPulse_only (s : State) (source : Fin 2) (stuckA : BitVec 16) (stuckB : BitVec 16) :
    State.OnlyOut s 103267662 (execTestPulse source stuckA stuckB s) := by
  have hm : 103267662 ||| 103267662 = 103267662 := rfl
  have h : State.OnlyM s 103267662 s := State.OnlyM.refl _ _
  unfold execTestPulse
  first | apply State.live_only | apply State.liveOn_only | apply next_only
  repeat' first
    | (intro _)
    | with_reducible assumption
    | with_reducible exact subM (by decide) hm
    | (extract_lets +onlyGivenNames x; first | (refine (fun hx => ?_ : State.OnlyM s 103267662 x → _) ?_; (on_goal 1 => clear_value x); (on_goal 2 => subst x)) | clear_value x)
    | (with_reducible first | apply State.updIsl_only | apply State.each_only | apply State.pulseEnd_only | apply State.updSin_only | apply State.demandSin_only | apply State.event_only | apply State.faultSeen_only)
    | with_reducible exact fun _ h => h
    | split
    | (fail_if_no_progress beta_reduce)

theorem State.contactor_only {m : Nat} {s0 s : State} (h : s0.OnlyM m s) (hm : 65544 ||| m = m) (j : Nat) :
    s0.OnlyM m (State.contactor s j) := by
  unfold State.contactor
  repeat' first
    | (intro _)
    | with_reducible assumption
    | with_reducible exact subM (by decide) hm
    | (extract_lets +onlyGivenNames x; first | (refine (fun hx => ?_ : State.OnlyM s0 m x → _) ?_; (on_goal 1 => clear_value x); (on_goal 2 => subst x)) | clear_value x)
    | (with_reducible first | apply State.iff_only | apply State.startTimer_only | apply State.updIo_only | apply State.stopTimer_only | apply State.lowSide_only | apply State.onPair_only | apply State.updSo_only | apply State.pairOffNow_only)
    | with_reducible exact fun _ h => h
    | split
    | (fail_if_no_progress beta_reduce)

theorem execContactorCurrentTimeout_only (s : State) (out : Fin 8) :
    State.OnlyOut s 68878 (execContactorCurrentTimeout out s) := by
  have hm : 68878 ||| 68878 = 68878 := rfl
  have h : State.OnlyM s 68878 s := State.OnlyM.refl _ _
  unfold execContactorCurrentTimeout
  first | apply State.live_only | apply State.liveOn_only | apply next_only
  repeat' first
    | (intro _)
    | with_reducible assumption
    | with_reducible exact subM (by decide) hm
    | (extract_lets +onlyGivenNames x; first | (refine (fun hx => ?_ : State.OnlyM s 68878 x → _) ?_; (on_goal 1 => clear_value x); (on_goal 2 => subst x)) | clear_value x)
    | (with_reducible first | apply State.updIo_only | apply State.stopTimer_only | apply State.onPair_only | apply State.stopLines_only | apply State.pairOffSoon_only)
    | with_reducible exact fun _ h => h
    | split
    | (fail_if_no_progress beta_reduce)

theorem execWeldTestEnd_only (s : State) (out : Fin 8) (hvMax : Int) :
    State.OnlyOut s 111630 (execWeldTestEnd out hvMax s) := by
  have hm : 111630 ||| 111630 = 111630 := rfl
  have h : State.OnlyM s 111630 s := State.OnlyM.refl _ _
  unfold execWeldTestEnd
  first | apply State.live_only | apply State.liveOn_only | apply next_only
  repeat' first
    | (intro _)
    | with_reducible assumption
    | with_reducible exact subM (by decide) hm
    | (extract_lets +onlyGivenNames x; first | (refine (fun hx => ?_ : State.OnlyM s 111630 x → _) ?_; (on_goal 1 => clear_value x); (on_goal 2 => subst x)) | clear_value x)
    | (with_reducible first | apply State.stopTimer_only | apply State.weldFound_only | apply State.updIo_only)
    | with_reducible exact fun _ h => h
    | split
    | (fail_if_no_progress beta_reduce)

theorem execWeldCheckEnd_only (s : State) (out : Fin 8) (hvMin : Int) (hvMax : Int) (diffMax : Nat) :
    State.OnlyOut s 111630 (execWeldCheckEnd out hvMin hvMax diffMax s) := by
  have hm : 111630 ||| 111630 = 111630 := rfl
  have h : State.OnlyM s 111630 s := State.OnlyM.refl _ _
  unfold execWeldCheckEnd
  first | apply State.live_only | apply State.liveOn_only | apply next_only
  repeat' first
    | (intro _)
    | with_reducible assumption
    | with_reducible exact subM (by decide) hm
    | (extract_lets +onlyGivenNames x; first | (refine (fun hx => ?_ : State.OnlyM s 111630 x → _) ?_; (on_goal 1 => clear_value x); (on_goal 2 => subst x)) | clear_value x)
    | (with_reducible first | apply State.stopTimer_only | apply State.event_only | apply State.weldFound_only)
    | with_reducible exact fun _ h => h
    | split
    | (fail_if_no_progress beta_reduce)

theorem State.imdMark_only {m : Nat} {s0 s : State} (h : s0.OnlyM m s) (hm : 65536 ||| m = m) (j : Nat) :
    s0.OnlyM m (State.imdMark s j) := by
  unfold State.imdMark
  repeat' first
    | (intro _)
    | with_reducible assumption
    | with_reducible exact subM (by decide) hm
    | (with_reducible first | apply State.updIo_only)
    | with_reducible exact fun _ h => h
    | split

theorem State.imdTick_only {m : Nat} {s0 s : State} (h : s0.OnlyM m s) (hm : 65536 ||| m = m) (j : Nat) :
    s0.OnlyM m (State.imdTick s j) := by
  unfold State.imdTick
  repeat' first
    | (intro _)
    | with_reducible assumption
    | with_reducible exact subM (by decide) hm
    | (extract_lets +onlyGivenNames x; first | (refine (fun hx => ?_ : State.OnlyM s0 m x → _) ?_; (on_goal 1 => clear_value x); (on_goal 2 => subst x)) | clear_value x)
    | (with_reducible first | apply State.updIo_only)
    | with_reducible exact fun _ h => h
    | split
    | (fail_if_no_progress beta_reduce)

theorem execInsulationResult_only (s : State) (out : Fin 8) (rf : BitVec 24) (selfTest : Bool) :
    State.OnlyOut s 113934 (execInsulationResult out rf selfTest s) := by
  have hm : 113934 ||| 113934 = 113934 := rfl
  have h : State.OnlyM s 113934 s := State.OnlyM.refl _ _
  unfold execInsulationResult
  first | apply State.live_only | apply State.liveOn_only | apply next_only
  repeat' first
    | (intro _)
    | with_reducible assumption
    | with_reducible exact subM (by decide) hm
    | (extract_lets +onlyGivenNames x; first | (refine (fun hx => ?_ : State.OnlyM s 113934 x → _) ?_; (on_goal 1 => clear_value x); (on_goal 2 => subst x)) | (have y : State → State := x; clear y; subst x) | (have y : State → _ → State := x; clear y; subst x) | (have y : _ → State → State := x; clear y; subst x) | (have y : _ → _ → State → State := x; clear y; subst x) | (have y : State → _ → _ → State := x; clear y; subst x) | (have y : State → _ → State × _ := x; clear y; subst x) | clear_value x)
    | (with_reducible first | apply State.iff_only | apply State.updIo_only | apply State.event_only | apply State.faultSeen_only | apply State.insulGood_only | apply State.endNow_only | apply State.tripNew_only)
    | with_reducible exact fun _ h => h
    | split
    | (fail_if_no_progress beta_reduce)

theorem State.degradedTick_only {m : Nat} {s0 s : State} (h : s0.OnlyM m s) (hm : 103267662 ||| m = m) :
    s0.OnlyM m (State.degradedTick s) := by
  unfold State.degradedTick
  repeat' first
    | (intro _)
    | with_reducible assumption
    | with_reducible exact subM (by decide) hm
    | (extract_lets +onlyGivenNames x; first | (refine (fun hx => ?_ : State.OnlyM s0 m x → _) ?_; (on_goal 1 => clear_value x); (on_goal 2 => subst x)) | clear_value x)
    | (with_reducible first | apply State.safeState_only | apply State.updIsl_only | apply State.event_only | apply State.setMode_only | apply State.setIstate_only)
    | with_reducible exact fun _ h => h
    | split
    | (fail_if_no_progress beta_reduce)

theorem State.degCount_only {m : Nat} {s0 s : State} (h : s0.OnlyM m s) (hm : 65536 ||| m = m) :
    s0.OnlyM m (State.degCount s) := by
  unfold State.degCount
  repeat' first
    | (intro _)
    | with_reducible assumption
    | with_reducible exact subM (by decide) hm
    | (with_reducible first | apply State.updIsl_only | apply State.iff_only)
    | with_reducible exact fun _ h => h
    | split

theorem execDegradedExpiry_only (s : State) :
    State.OnlyOut s 68622 (execDegradedExpiry s) := by
  have hm : 68622 ||| 68622 = 68622 := rfl
  have h : State.OnlyM s 68622 s := State.OnlyM.refl _ _
  unfold execDegradedExpiry
  first | apply State.live_only | apply State.liveOn_only | apply next_only
  repeat' first
    | (intro _)
    | with_reducible assumption
    | with_reducible exact subM (by decide) hm
    | (with_reducible first | apply State.event_only | apply State.stopThenSafe_only)
    | with_reducible exact fun _ h => h
    | split

theorem State.afterStopTick_only {m : Nat} {s0 s : State} (h : s0.OnlyM m s) (hm : 103267662 ||| m = m) :
    s0.OnlyM m (State.afterStopTick s) := by
  unfold State.afterStopTick
  repeat' first
    | (intro _)
    | with_reducible assumption
    | with_reducible exact subM (by decide) hm
    | (with_reducible first | apply State.safeState_only)
    | with_reducible exact fun _ h => h
    | split

theorem State.clearLatches_only {m : Nat} {s0 s : State} (h : s0.OnlyM m s) (hm : 66566 ||| m = m) (svc : Bool) :
    s0.OnlyM m (State.clearLatches s svc) := by
  unfold State.clearLatches
  repeat' first
    | (intro _)
    | with_reducible assumption
    | with_reducible exact subM (by decide) hm
    | (extract_lets +onlyGivenNames x; first | (refine (fun hx => ?_ : State.OnlyM s0 m x → _) ?_; (on_goal 1 => clear_value x); (on_goal 2 => subst x)) | clear_value x)
    | (with_reducible first | apply State.each_only | apply State.updIo_only | apply State.iff_only | apply State.event_only | apply State.updIsl_only | apply State.sampleSin_only | apply State.updSin_only)
    | with_reducible exact fun _ h => h
    | split
    | (fail_if_no_progress beta_reduce)

theorem State.restoreDeg_only {m : Nat} {s0 s : State} (h : s0.OnlyM m s) (hm : 36158798 ||| m = m) :
    s0.OnlyM m (State.restoreDeg s) := by
  unfold State.restoreDeg
  repeat' first
    | (intro _)
    | with_reducible assumption
    | with_reducible exact subM (by decide) hm
    | (extract_lets +onlyGivenNames x; first | (refine (fun hx => ?_ : State.OnlyM s0 m x → _) ?_; (on_goal 1 => clear_value x); (on_goal 2 => subst x)) | clear_value x)
    | (with_reducible first | apply State.updIsl_only | apply State.event_only | apply State.setMode_only | apply State.setIstate_only)
    | with_reducible exact fun _ h => h
    | split
    | (fail_if_no_progress beta_reduce)

theorem State.resetRequest_only {m : Nat} {s0 s : State} (h : s0.OnlyM m s) (hm : 36158798 ||| m = m) (svc : Bool) :
    s0.OnlyM m (State.resetRequest s svc) := by
  unfold State.resetRequest
  repeat' first
    | (intro _)
    | with_reducible assumption
    | with_reducible exact subM (by decide) hm
    | (extract_lets +onlyGivenNames x; first | (refine (fun hx => ?_ : State.OnlyM s0 m x → _) ?_; (on_goal 1 => clear_value x); (on_goal 2 => subst x)) | clear_value x)
    | (with_reducible first | apply State.event_only | apply State.clearLatches_only | apply State.startTimer_only | apply State.updIsl_only | apply State.iff_only | apply State.restoreDeg_only)
    | with_reducible exact fun _ h => h
    | split
    | (fail_if_no_progress beta_reduce)

theorem State.hostReset_only {m : Nat} {s0 s : State} (h : s0.OnlyM m s) (hm : 36158798 ||| m = m) :
    s0.OnlyM m (State.hostReset s) := by
  unfold State.hostReset
  repeat' first
    | (intro _)
    | with_reducible assumption
    | with_reducible exact subM (by decide) hm
    | (with_reducible first | apply State.resetRequest_only | apply State.event_only)
    | with_reducible exact fun _ h => h
    | split

theorem execResetLatentComplete_only (s : State) (pass : Bool) :
    State.OnlyOut s 36158798 (execResetLatentComplete pass s) := by
  have hm : 36158798 ||| 36158798 = 36158798 := rfl
  have h : State.OnlyM s 36158798 s := State.OnlyM.refl _ _
  unfold execResetLatentComplete
  first | apply State.live_only | apply State.liveOn_only | apply next_only
  repeat' first
    | (intro _)
    | with_reducible assumption
    | with_reducible exact subM (by decide) hm
    | (extract_lets +onlyGivenNames x; first | (refine (fun hx => ?_ : State.OnlyM s 36158798 x → _) ?_; (on_goal 1 => clear_value x); (on_goal 2 => subst x)) | clear_value x)
    | (with_reducible first | apply State.updIsl_only | apply State.stopTimer_only | apply State.iff_only | apply State.restoreDeg_only | apply State.setMode_only | apply State.setIstate_only | apply State.releaseLines_only | apply State.event_only | apply State.faultSeen_only)
    | with_reducible exact fun _ h => h
    | split
    | (fail_if_no_progress beta_reduce)

theorem State.dropCand_only {m : Nat} {s0 s : State} (h : s0.OnlyM m s) (hm : 66574 ||| m = m) (why : Nat) :
    s0.OnlyM m (State.dropCand s why) := by
  unfold State.dropCand
  repeat' first
    | (intro _)
    | with_reducible assumption
    | with_reducible exact subM (by decide) hm
    | (with_reducible first | apply State.stopTimer_only | apply State.updIsl_only | apply State.event_only)
    | with_reducible exact fun _ h => h
    | split

theorem State.takeCandidate_only {m : Nat} {s0 s : State} (h : s0.OnlyM m s) (hm : 66574 ||| m = m) (img : List Byte) :
    s0.OnlyM m (State.takeCandidate s img) := by
  unfold State.takeCandidate
  repeat' first
    | (intro _)
    | with_reducible assumption
    | with_reducible exact subM (by decide) hm
    | (extract_lets +onlyGivenNames x; first | (refine (fun hx => ?_ : State.OnlyM s0 m x → _) ?_; (on_goal 1 => clear_value x); (on_goal 2 => subst x)) | clear_value x)
    | (with_reducible first | apply State.startTimer_only | apply State.stopTimer_only | apply State.updIsl_only | apply State.event_only)
    | with_reducible exact fun _ h => h
    | split

theorem State.hostConfirm_only {m : Nat} {s0 s : State} (h : s0.OnlyM m s) (hm : 66574 ||| m = m) (chk : Nat) :
    s0.OnlyM m (State.hostConfirm s chk) := by
  unfold State.hostConfirm
  repeat' first
    | (intro _)
    | with_reducible assumption
    | with_reducible exact subM (by decide) hm
    | (with_reducible first | apply State.dropCand_only | apply State.startTimer_only | apply State.stopTimer_only | apply State.updIsl_only | apply State.event_only)
    | with_reducible exact fun _ h => h
    | split

theorem State.setThresholds_only {m : Nat} {s0 s : State} (h : s0.OnlyM m s) (hm : 65536 ||| m = m) :
    s0.OnlyM m (State.setThresholds s) := by
  unfold State.setThresholds
  repeat' first
    | (intro _)
    | with_reducible assumption
    | with_reducible exact subM (by decide) hm
    | (with_reducible first | apply State.updIsl_only)
    | with_reducible exact fun _ h => h
    | split

theorem State.ackCandidate_only {m : Nat} {s0 s : State} (h : s0.OnlyM m s) (hm : 66574 ||| m = m) :
    s0.OnlyM m (State.ackCandidate s) := by
  unfold State.ackCandidate
  repeat' first
    | (intro _)
    | with_reducible assumption
    | with_reducible exact subM (by decide) hm
    | (extract_lets +onlyGivenNames x; first | (refine (fun hx => ?_ : State.OnlyM s0 m x → _) ?_; (on_goal 1 => clear_value x); (on_goal 2 => subst x)) | clear_value x)
    | (with_reducible first | apply State.dropCand_only | apply State.event_only | apply State.iff_only | apply State.setFld_only | apply State.each_only | apply State.setReg_only | apply State.updIsl_only | apply State.stopTimer_only | apply State.setThresholds_only | apply State.setIstate_only)
    | with_reducible exact fun _ h => h
    | split
    | (fail_if_no_progress beta_reduce)

theorem State.latentTick_only {m : Nat} {s0 s : State} (h : s0.OnlyM m s) (hm : 65536 ||| m = m) (j : Nat) :
    s0.OnlyM m (State.latentTick s j) := by
  unfold State.latentTick
  repeat' first
    | (intro _)
    | with_reducible assumption
    | with_reducible exact subM (by decide) hm
    | (extract_lets +onlyGivenNames x; first | (refine (fun hx => ?_ : State.OnlyM s0 m x → _) ?_; (on_goal 1 => clear_value x); (on_goal 2 => subst x)) | clear_value x)
    | (with_reducible first | apply State.updIo_only)
    | with_reducible exact fun _ h => h
    | split
    | (fail_if_no_progress beta_reduce)

theorem execLatentTestDue_only (s : State) (out : Fin 8) (res : LatentRes) :
    State.OnlyOut s 66566 (execLatentTestDue out res s) := by
  have hm : 66566 ||| 66566 = 66566 := rfl
  have h : State.OnlyM s 66566 s := State.OnlyM.refl _ _
  unfold execLatentTestDue
  first | apply State.live_only | apply State.liveOn_only | apply next_only
  repeat' first
    | (intro _)
    | with_reducible assumption
    | with_reducible exact subM (by decide) hm
    | (extract_lets +onlyGivenNames x; first | (refine (fun hx => ?_ : State.OnlyM s 66566 x → _) ?_; (on_goal 1 => clear_value x); (on_goal 2 => subst x)) | clear_value x)
    | (with_reducible first | apply State.event_only | apply State.updIo_only | apply State.onPair_only | apply State.updSo_only | apply State.faultSeen_only)
    | with_reducible exact fun _ h => h
    | split
    | (fail_if_no_progress beta_reduce)

theorem execClockMonitorFault_only (s : State) :
    State.OnlyOut s 103267662 (execClockMonitorFault s) := by
  have hm : 103267662 ||| 103267662 = 103267662 := rfl
  have h : State.OnlyM s 103267662 s := State.OnlyM.refl _ _
  unfold execClockMonitorFault
  first | apply State.live_only | apply State.liveOn_only | apply next_only
  repeat' first
    | (intro _)
    | with_reducible assumption
    | with_reducible exact subM (by decide) hm
    | (with_reducible first | apply State.faultSafe_only | apply State.event_only)
    | with_reducible exact fun _ h => h
    | split

theorem execIslandSupplyFault_only (s : State) (source : Fin 3) (good : Bool) :
    State.OnlyOut s 103267662 (execIslandSupplyFault source good s) := by
  have hm : 103267662 ||| 103267662 = 103267662 := rfl
  have h : State.OnlyM s 103267662 s := State.OnlyM.refl _ _
  unfold execIslandSupplyFault
  first | apply State.live_only | apply State.liveOn_only | apply next_only
  repeat' first
    | (intro _)
    | with_reducible assumption
    | with_reducible exact subM (by decide) hm
    | (extract_lets +onlyGivenNames x; first | (refine (fun hx => ?_ : State.OnlyM s 103267662 x → _) ?_; (on_goal 1 => clear_value x); (on_goal 2 => subst x)) | clear_value x)
    | (with_reducible first | apply State.updIsl_only | apply State.iff_only | apply State.event_only | apply State.faultSeen_only | apply State.faultHeld_only)
    | with_reducible exact fun _ h => h
    | split
    | (fail_if_no_progress beta_reduce)

theorem State.switchFault_only {m : Nat} {s0 s : State} (h : s0.OnlyM m s) (hm : 103267662 ||| m = m) (k : Nat) (hs : Option Bool) (ls : Option Bool) :
    s0.OnlyM m (State.switchFault s k hs ls) := by
  unfold State.switchFault
  repeat' first
    | (intro _)
    | with_reducible assumption
    | with_reducible exact subM (by decide) hm
    | (extract_lets +onlyGivenNames x; first | (refine (fun hx => ?_ : State.OnlyM s0 m x → _) ?_; (on_goal 1 => clear_value x); (on_goal 2 => subst x)) | clear_value x)
    | (with_reducible first | apply State.updSo_only | apply State.iff_only | apply State.safeState_only)
    | with_reducible exact fun _ h => h
    | split
    | (fail_if_no_progress beta_reduce)

theorem execSoReadbackFault_only (s : State) (pair : Fin 8) (hs : Bool) (ls : Bool) :
    State.OnlyOut s 103267662 (execSoReadbackFault pair hs ls s) := by
  have hm : 103267662 ||| 103267662 = 103267662 := rfl
  have h : State.OnlyM s 103267662 s := State.OnlyM.refl _ _
  unfold execSoReadbackFault
  first | apply State.live_only | apply State.liveOn_only | apply next_only
  repeat' first
    | (intro _)
    | with_reducible assumption
    | with_reducible exact subM (by decide) hm
    | (extract_lets +onlyGivenNames x; first | (refine (fun hx => ?_ : State.OnlyM s 103267662 x → _) ?_; (on_goal 1 => clear_value x); (on_goal 2 => subst x)) | clear_value x)
    | (with_reducible first | apply State.iff_only | apply State.event_only | apply State.switchFault_only | apply State.faultSeen_only)
    | with_reducible exact fun _ h => h
    | split
    | (fail_if_no_progress beta_reduce)

theorem execSoTestPulse_only (s : State) (pair : Fin 8) (low : Bool) (offUs : Option Nat) (onUs : Option Nat) :
    State.OnlyOut s 103267662 (execSoTestPulse pair low offUs onUs s) := by
  have hm : 103267662 ||| 103267662 = 103267662 := rfl
  have h : State.OnlyM s 103267662 s := State.OnlyM.refl _ _
  unfold execSoTestPulse
  first | apply State.live_only | apply State.liveOn_only | apply next_only
  repeat' first
    | (intro _)
    | with_reducible assumption
    | with_reducible exact subM (by decide) hm
    | (extract_lets +onlyGivenNames x; first | (refine (fun hx => ?_ : State.OnlyM s 103267662 x → _) ?_; (on_goal 1 => clear_value x); (on_goal 2 => subst x)) | (have y : State → State := x; clear y; subst x) | (have y : State → _ → State := x; clear y; subst x) | (have y : _ → State → State := x; clear y; subst x) | (have y : _ → _ → State → State := x; clear y; subst x) | (have y : State → _ → _ → State := x; clear y; subst x) | (have y : State → _ → State × _ := x; clear y; subst x) | clear_value x)
    | (with_reducible first | apply State.switchFault_only | apply State.event_only | apply State.faultSeen_only | apply State.inc_only | apply State.setSat_only | apply State.updSo_only)
    | with_reducible exact fun _ h => h
    | split
    | (fail_if_no_progress beta_reduce)

theorem execSoOvercurrent_only (s : State) (pair : Fin 8) :
    State.OnlyOut s 113934 (execSoOvercurrent pair s) := by
  have hm : 113934 ||| 113934 = 113934 := rfl
  have h : State.OnlyM s 113934 s := State.OnlyM.refl _ _
  unfold execSoOvercurrent
  first | apply State.live_only | apply State.liveOn_only | apply next_only
  repeat' first
    | (intro _)
    | with_reducible assumption
    | with_reducible exact subM (by decide) hm
    | (extract_lets +onlyGivenNames x; first | (refine (fun hx => ?_ : State.OnlyM s 113934 x → _) ?_; (on_goal 1 => clear_value x); (on_goal 2 => subst x)) | clear_value x)
    | (with_reducible first | apply State.event_only | apply State.updSo_only | apply State.pairOffNow_only | apply State.safetyEnd_only | apply State.stopLines_only)
    | with_reducible exact fun _ h => h
    | split
    | (fail_if_no_progress beta_reduce)

theorem execSoSupFault_only (s : State) (dV : Nat) :
    State.OnlyOut s 1030 (execSoSupFault dV s) := by
  have hm : 1030 ||| 1030 = 1030 := rfl
  have h : State.OnlyM s 1030 s := State.OnlyM.refl _ _
  unfold execSoSupFault
  first | apply State.live_only | apply State.liveOn_only | apply next_only
  repeat' first
    | (intro _)
    | with_reducible assumption
    | with_reducible exact subM (by decide) hm
    | (with_reducible first | apply State.iff_only | apply State.setSat_only | apply State.event_only)
    | with_reducible exact fun _ h => h
    | split

theorem State.evalOut_only {m : Nat} {s0 s : State} (h : s0.OnlyM m s) (hm : 113934 ||| m = m) (j : Nat) (a2 : IslIn) :
    s0.OnlyM m (State.evalOut s j a2) := by
  unfold State.evalOut
  repeat' first
    | (intro _)
    | with_reducible assumption
    | with_reducible exact subM (by decide) hm
    | (extract_lets +onlyGivenNames x; first | (refine (fun hx => ?_ : State.OnlyM s0 m x → _) ?_; (on_goal 1 => clear_value x); (on_goal 2 => subst x)) | clear_value x)
    | (with_reducible first | apply State.updIo_only | apply State.iff_only | apply State.tripNew_only | apply State.earthFault_only | apply State.controlledStop_only | apply id_only)
    | with_reducible exact fun _ h => h
    | split
    | (fail_if_no_progress beta_reduce)

theorem State.settle_only {m : Nat} {s0 s : State} (h : s0.OnlyM m s) (hm : 66574 ||| m = m) (j : Nat) :
    s0.OnlyM m (State.settle s j) := by
  unfold State.settle
  repeat' first
    | (intro _)
    | with_reducible assumption
    | with_reducible exact subM (by decide) hm
    | (extract_lets +onlyGivenNames x; first | (refine (fun hx => ?_ : State.OnlyM s0 m x → _) ?_; (on_goal 1 => clear_value x); (on_goal 2 => subst x)) | clear_value x)
    | (with_reducible first | apply State.iff_only | apply State.event_only | apply State.updIo_only | apply State.stopTimer_only)
    | with_reducible exact fun _ h => h
    | split
    | (fail_if_no_progress beta_reduce)

theorem State.failedOpen_only {m : Nat} {s0 s : State} (h : s0.OnlyM m s) (hm : 65544 ||| m = m) (j : Nat) :
    s0.OnlyM m (State.failedOpen s j) := by
  unfold State.failedOpen
  repeat' first
    | (intro _)
    | with_reducible assumption
    | with_reducible exact subM (by decide) hm
    | (with_reducible first | apply State.onPair_only | apply State.pairOffNow_only)
    | with_reducible exact fun _ h => h
    | split

theorem State.scPublish_only {m : Nat} {s0 s : State} (h : s0.OnlyM m s) (hm : 2050 ||| m = m) :
    s0.OnlyM m (State.scPublish s) := by
  unfold State.scPublish
  repeat' first
    | (intro _)
    | with_reducible assumption
    | with_reducible exact subM (by decide) hm
    | (extract_lets +onlyGivenNames x; first | (refine (fun hx => ?_ : State.OnlyM s0 m x → _) ?_; (on_goal 1 => clear_value x); (on_goal 2 => subst x)) | clear_value x)
    | (with_reducible first | apply State.each_only | apply State.setClamp_only | apply State.updSh_only)
    | with_reducible exact fun _ h => h
    | split
    | (fail_if_no_progress beta_reduce)

theorem State.mirrorNow_only {m : Nat} {s0 s : State} (h : s0.OnlyM m s) (hm : 2 ||| m = m) :
    s0.OnlyM m (State.mirrorNow s) := by
  unfold State.mirrorNow
  repeat' first
    | (intro _)
    | with_reducible assumption
    | with_reducible exact subM (by decide) hm
    | (extract_lets +onlyGivenNames x; first | (refine (fun hx => ?_ : State.OnlyM s0 m x → _) ?_; (on_goal 1 => clear_value x); (on_goal 2 => subst x)) | clear_value x)
    | (with_reducible first | apply State.setFlag_only | apply State.setFld_only | apply State.setSat_only | apply State.each_only | apply foldl_only)
    | with_reducible exact fun _ h => h
    | split
    | (fail_if_no_progress beta_reduce)

theorem State.mirrorFill_only {m : Nat} {s0 s : State} (h : s0.OnlyM m s) (hm : 2050 ||| m = m) :
    s0.OnlyM m (State.mirrorFill s) := by
  unfold State.mirrorFill
  repeat' first
    | (intro _)
    | with_reducible assumption
    | with_reducible exact subM (by decide) hm
    | (extract_lets +onlyGivenNames x; first | (refine (fun hx => ?_ : State.OnlyM s0 m x → _) ?_; (on_goal 1 => clear_value x); (on_goal 2 => subst x)) | clear_value x)
    | (with_reducible first | apply State.mirrorNow_only | apply State.updSh_only)
    | with_reducible exact fun _ h => h
    | split
    | (fail_if_no_progress beta_reduce)

theorem State.mirror_only {m : Nat} {s0 s : State} (h : s0.OnlyM m s) (hm : 2 ||| m = m) :
    s0.OnlyM m (State.mirror s) := by
  unfold State.mirror
  repeat' first
    | (intro _)
    | with_reducible assumption
    | with_reducible exact subM (by decide) hm
    | (with_reducible first | apply State.each_only | apply State.setReg_only)
    | with_reducible exact fun _ h => h
    | split

theorem State.sampleAll_only {m : Nat} {s0 s : State} (h : s0.OnlyM m s) (hm : 65536 ||| m = m) :
    s0.OnlyM m (State.sampleAll s) := by
  unfold State.sampleAll
  repeat' first
    | (intro _)
    | with_reducible assumption
    | with_reducible exact subM (by decide) hm
    | (extract_lets +onlyGivenNames x; first | (refine (fun hx => ?_ : State.OnlyM s0 m x → _) ?_; (on_goal 1 => clear_value x); (on_goal 2 => subst x)) | clear_value x)
    | (with_reducible first | apply State.each_only | apply State.updSin_only | apply State.sampleSin_only)
    | with_reducible exact fun _ h => h
    | split
    | (fail_if_no_progress beta_reduce)

theorem State.safetyCycle_only {m : Nat} {s0 s : State} (h : s0.OnlyM m s) (hm : 103267662 ||| m = m) (a1 : List IslIn) :
    s0.OnlyM m (State.safetyCycle s a1) := by
  unfold State.safetyCycle
  repeat' first
    | (intro _)
    | with_reducible assumption
    | with_reducible exact subM (by decide) hm
    | (extract_lets +onlyGivenNames x; first | (refine (fun hx => ?_ : State.OnlyM s0 m x → _) ?_; (on_goal 1 => clear_value x); (on_goal 2 => subst x)) | clear_value x)
    | (with_reducible first | apply State.sampleAll_only | apply State.each_only | apply State.iff_only | apply State.demandSin_only | apply State.updIsl_only | apply State.safeState_only | apply State.updIo_only | apply State.evalOut_only | apply State.degradedTick_only | apply State.degCount_only | apply State.imdMark_only | apply State.latentTick_only | apply State.settle_only | apply State.failedOpen_only | apply State.imdTick_only | apply State.contactor_only | apply State.scPublish_only | apply State.afterStopTick_only)
    | with_reducible exact fun _ h => h
    | split
    | (fail_if_no_progress beta_reduce)

end Sys2Proof.Machine
end

