-- ==== Sys2Proof/Laws/OnlyMetrology.lean ====
section
/-!
SUPPORT. The parts of the state that the operations and commands of Machine/Metrology.lean change.
-/

set_option linter.all false

namespace Sys2Proof.Machine

open Sys2Proof

theorem State.updMet_only {m : Nat} {s0 s : State} (h : s0.OnlyM m s) (hm : 16384 ||| m = m) (f : MetSt → MetSt) :
    s0.OnlyM m (State.updMet s f) := by
  unfold State.updMet
  repeat' first
    | (intro _)
    | with_reducible assumption
    | with_reducible exact subM (by decide) hm
    | split
    | (with_reducible apply State.mk_only; (rotate_left); all_goals first | with_reducible exact .inl rfl | exact .inr (bitM (by decide) hm) | skip)
    | with_reducible exact fun _ h => h
    | split

theorem State.updMo_only {m : Nat} {s0 s : State} (h : s0.OnlyM m s) (hm : 16384 ||| m = m) (j : Nat) (f : MetOut → MetOut) :
    s0.OnlyM m (State.updMo s j f) := by
  unfold State.updMo
  repeat' first
    | (intro _)
    | with_reducible assumption
    | with_reducible exact subM (by decide) hm
    | (with_reducible first | apply State.updMet_only)
    | with_reducible exact fun _ h => h
    | split

theorem State.updMf_only {m : Nat} {s0 s : State} (h : s0.OnlyM m s) (hm : 16384 ||| m = m) (i : Nat) (f : MetFeed → MetFeed) :
    s0.OnlyM m (State.updMf s i f) := by
  unfold State.updMf
  repeat' first
    | (intro _)
    | with_reducible assumption
    | with_reducible exact subM (by decide) hm
    | (with_reducible first | apply State.updMet_only)
    | with_reducible exact fun _ h => h
    | split

theorem State.updRot_only {m : Nat} {s0 s : State} (h : s0.OnlyM m s) (hm : 16384 ||| m = m) (e : Nat) (f : RotSt → RotSt) :
    s0.OnlyM m (State.updRot s e f) := by
  unfold State.updRot
  repeat' first
    | (intro _)
    | with_reducible assumption
    | with_reducible exact subM (by decide) hm
    | (with_reducible first | apply State.updMet_only)
    | with_reducible exact fun _ h => h
    | split

theorem State.noLoad_only {m : Nat} {s0 s : State} (h : s0.OnlyM m s) (hm : 17414 ||| m = m) (j : Nat) (nl : Bool) :
    s0.OnlyM m (State.noLoad s j nl) := by
  unfold State.noLoad
  repeat' first
    | (intro _)
    | with_reducible assumption
    | with_reducible exact subM (by decide) hm
    | (extract_lets +onlyGivenNames x; first | (refine (fun hx => ?_ : State.OnlyM s0 m x → _) ?_; (on_goal 1 => clear_value x); (on_goal 2 => subst x)) | clear_value x)
    | (with_reducible first | apply State.updMo_only | apply State.event_only)
    | with_reducible exact fun _ h => h
    | split
    | (fail_if_no_progress beta_reduce)

theorem State.legacy_only {m : Nat} {s0 s : State} (h : s0.OnlyM m s) (hm : 16386 ||| m = m) (j : Nat) (r : SfOut) (e : Nat × Nat) :
    s0.OnlyM m (State.legacy s j r e).1 := by
  unfold State.legacy
  repeat' first
    | (intro _)
    | with_reducible assumption
    | with_reducible exact subM (by decide) hm
    | (extract_lets +onlyGivenNames x; first | (refine (fun hx => ?_ : State.OnlyM s0 m x → _) ?_; (on_goal 1 => clear_value x); (on_goal 2 => subst x)) | clear_value x)
    | (with_reducible first | apply State.setFlag_only | apply State.updMo_only)
    | with_reducible exact fun _ h => h
    | split
    | (fail_if_no_progress beta_reduce)

theorem State.publishOut_only {m : Nat} {s0 s : State} (h : s0.OnlyM m s) (hm : 2050 ||| m = m) (j : Nat) (r : SfOut) (valid : Bool) :
    s0.OnlyM m (State.publishOut s j r valid) := by
  unfold State.publishOut
  repeat' first
    | (intro _)
    | with_reducible assumption
    | with_reducible exact subM (by decide) hm
    | (extract_lets +onlyGivenNames x; first | (refine (fun hx => ?_ : State.OnlyM s0 m x → _) ?_; (on_goal 1 => clear_value x); (on_goal 2 => subst x)) | clear_value x)
    | (with_reducible first | apply State.updSh_only | apply State.setFldS_only | apply State.setFlag_only | apply State.setSat_only | apply State.setFld_only)
    | with_reducible exact fun _ h => h
    | split
    | (fail_if_no_progress beta_reduce)

theorem State.captureRun_only {m : Nat} {s0 s : State} (h : s0.OnlyM m s) (hm : 16384 ||| m = m) (j : Nat) (u6 : List Int) (fi : List Int) :
    s0.OnlyM m (State.captureRun s j u6 fi) := by
  unfold State.captureRun
  repeat' first
    | (intro _)
    | with_reducible assumption
    | with_reducible exact subM (by decide) hm
    | (extract_lets +onlyGivenNames x; first | (refine (fun hx => ?_ : State.OnlyM s0 m x → _) ?_; (on_goal 1 => clear_value x); (on_goal 2 => subst x)) | clear_value x)
    | (with_reducible first | apply State.updMo_only)
    | with_reducible exact fun _ h => h
    | split
    | (fail_if_no_progress beta_reduce)

theorem State.meterOut_only {m : Nat} {s0 s : State} (h : s0.OnlyM m s) (hm : 19462 ||| m = m) (j : Nat) (a2 : MetOutIn) :
    s0.OnlyM m (State.meterOut s j a2) := by
  unfold State.meterOut
  repeat' first
    | (intro _)
    | with_reducible assumption
    | with_reducible exact subM (by decide) hm
    | (extract_lets +onlyGivenNames x; first | (refine (fun hx => ?_ : State.OnlyM s0 m x → _) ?_; (on_goal 1 => clear_value x); (on_goal 2 => subst x)) | (refine (fun hx => ?_ : State.OnlyM s0 m x.1 → _) ?_; (on_goal 1 => clear_value x); (on_goal 2 => subst x)) | (refine (fun hx => ?_ : State.OnlyM s0 m x.2 → _) ?_; (on_goal 1 => clear_value x); (on_goal 2 => subst x)) | clear_value x)
    | (with_reducible first | apply State.updMo_only | apply State.iff_only | apply State.event_only | apply State.captureRun_only | apply State.inc_only | apply State.legacy_only | apply State.noLoad_only | apply State.publishOut_only | apply State.setFlag_only)
    | with_reducible exact fun _ h => h
    | split
    | (fail_if_no_progress beta_reduce)

theorem State.windowMark_only {m : Nat} {s0 s : State} (h : s0.OnlyM m s) (hm : 16384 ||| m = m) (f : Nat) (t : Nat) (next : Nat) (freq : Nat) :
    s0.OnlyM m (State.windowMark s f t next freq) := by
  unfold State.windowMark
  repeat' first
    | (intro _)
    | with_reducible assumption
    | with_reducible exact subM (by decide) hm
    | (extract_lets +onlyGivenNames x; first | (refine (fun hx => ?_ : State.OnlyM s0 m x → _) ?_; (on_goal 1 => clear_value x); (on_goal 2 => subst x)) | clear_value x)
    | (with_reducible first | apply State.updMf_only)
    | with_reducible exact fun _ h => h
    | split
    | (fail_if_no_progress beta_reduce)

theorem State.cycleDone_only {m : Nat} {s0 s : State} (h : s0.OnlyM m s) (hm : 17414 ||| m = m) (f : Nat) (t : Nat) (next : Nat) :
    s0.OnlyM m (State.cycleDone s f t next) := by
  unfold State.cycleDone
  repeat' first
    | (intro _)
    | with_reducible assumption
    | with_reducible exact subM (by decide) hm
    | (extract_lets +onlyGivenNames x; first | (refine (fun hx => ?_ : State.OnlyM s0 m x → _) ?_; (on_goal 1 => clear_value x); (on_goal 2 => subst x)) | clear_value x)
    | (with_reducible first | apply State.updMf_only | apply State.iff_only | apply State.setFlag_only | apply State.event_only | apply State.windowMark_only)
    | with_reducible exact fun _ h => h
    | split
    | (fail_if_no_progress beta_reduce)

theorem State.feedSample_only {m : Nat} {s0 s : State} (h : s0.OnlyM m s) (hm : 17414 ||| m = m) (f : Nat) (a2 : List Int) (t : Nat) :
    s0.OnlyM m (State.feedSample s f a2 t) := by
  unfold State.feedSample
  repeat' first
    | (intro _)
    | with_reducible assumption
    | with_reducible exact subM (by decide) hm
    | (extract_lets +onlyGivenNames x; first | (refine (fun hx => ?_ : State.OnlyM s0 m x → _) ?_; (on_goal 1 => clear_value x); (on_goal 2 => subst x)) | clear_value x)
    | (with_reducible first | apply State.cycleDone_only | apply State.updMf_only)
    | with_reducible exact fun _ h => h
    | split
    | (fail_if_no_progress beta_reduce)

theorem State.publishFeed_only {m : Nat} {s0 s : State} (h : s0.OnlyM m s) (hm : 18434 ||| m = m) (f : Nat) (a2 : List (List Int)) :
    s0.OnlyM m (State.publishFeed s f a2) := by
  unfold State.publishFeed
  repeat' first
    | (intro _)
    | with_reducible assumption
    | with_reducible exact subM (by decide) hm
    | (extract_lets +onlyGivenNames x; first | (refine (fun hx => ?_ : State.OnlyM s0 m x → _) ?_; (on_goal 1 => clear_value x); (on_goal 2 => subst x)) | clear_value x)
    | (with_reducible first | apply State.updSh_only | apply State.updMf_only | apply State.each_only | apply State.setFldS_only | apply State.setSat_only | apply State.setFlag_only)
    | with_reducible exact fun _ h => h
    | split
    | (fail_if_no_progress beta_reduce)

theorem State.meterFeed_only {m : Nat} {s0 s : State} (h : s0.OnlyM m s) (hm : 19462 ||| m = m) (f : Nat) (a2 : FeedIn) :
    s0.OnlyM m (State.meterFeed s f a2) := by
  unfold State.meterFeed
  repeat' first
    | (intro _)
    | with_reducible assumption
    | with_reducible exact subM (by decide) hm
    | (extract_lets +onlyGivenNames x; first | (refine (fun hx => ?_ : State.OnlyM s0 m x → _) ?_; (on_goal 1 => clear_value x); (on_goal 2 => subst x)) | clear_value x)
    | (with_reducible first | apply State.iff_only | apply State.event_only | apply State.inc_only | apply State.each_only | apply State.feedSample_only | apply State.publishFeed_only | apply State.updMf_only)
    | with_reducible exact fun _ h => h
    | split
    | (fail_if_no_progress beta_reduce)

theorem State.showRot_only {m : Nat} {s0 s : State} (h : s0.OnlyM m s) (hm : 2 ||| m = m) (e : Nat) :
    s0.OnlyM m (State.showRot s e) := by
  unfold State.showRot
  repeat' first
    | (intro _)
    | with_reducible assumption
    | with_reducible exact subM (by decide) hm
    | (extract_lets +onlyGivenNames x; first | (refine (fun hx => ?_ : State.OnlyM s0 m x → _) ?_; (on_goal 1 => clear_value x); (on_goal 2 => subst x)) | clear_value x)
    | (with_reducible first | apply State.setFlag_only | apply State.setFld_only)
    | with_reducible exact fun _ h => h
    | split

theorem State.rotStep_only {m : Nat} {s0 s : State} (h : s0.OnlyM m s) (hm : 16386 ||| m = m) (e : Nat) (st : Nat) :
    s0.OnlyM m (State.rotStep s e st) := by
  unfold State.rotStep
  repeat' first
    | (intro _)
    | with_reducible assumption
    | with_reducible exact subM (by decide) hm
    | (with_reducible first | apply State.showRot_only | apply State.updRot_only)
    | with_reducible exact fun _ h => h
    | split

theorem State.rotAbandon_only {m : Nat} {s0 s : State} (h : s0.OnlyM m s) (hm : 17422 ||| m = m) :
    s0.OnlyM m (State.rotAbandon s) := by
  unfold State.rotAbandon
  repeat' first
    | (intro _)
    | with_reducible assumption
    | with_reducible exact subM (by decide) hm
    | (with_reducible first | apply State.each_only | apply State.iff_only | apply State.event_only | apply State.stopTimer_only | apply State.updRot_only | apply State.rotStep_only)
    | with_reducible exact fun _ h => h
    | split

theorem State.enterBench_only {m : Nat} {s0 s : State} (h : s0.OnlyM m s) (hm : 36175182 ||| m = m) :
    s0.OnlyM m (State.enterBench s) := by
  unfold State.enterBench
  repeat' first
    | (intro _)
    | with_reducible assumption
    | with_reducible exact subM (by decide) hm
    | (extract_lets +onlyGivenNames x; first | (refine (fun hx => ?_ : State.OnlyM s0 m x → _) ?_; (on_goal 1 => clear_value x); (on_goal 2 => subst x)) | clear_value x)
    | (with_reducible first | apply State.setMode_only | apply State.iff_only | apply State.rotAbandon_only)
    | with_reducible exact fun _ h => h
    | split
    | (fail_if_no_progress beta_reduce)

theorem execRotationStepStart_only (s : State) (fe : Fin 10) :
    State.OnlyOut s 16394 (execRotationStepStart fe s) := by
  have hm : 16394 ||| 16394 = 16394 := rfl
  have h : State.OnlyM s 16394 s := State.OnlyM.refl _ _
  unfold execRotationStepStart
  first | apply State.live_only | apply next_only
  repeat' first
    | (intro _)
    | with_reducible assumption
    | with_reducible exact subM (by decide) hm
    | (with_reducible first | apply State.rotStep_only | apply State.stopTimer_only)
    | with_reducible exact fun _ h => h
    | split

theorem State.refMonitor_only {m : Nat} {s0 s : State} (h : s0.OnlyM m s) (hm : 17414 ||| m = m) (e : Nat) (ppm : Int) :
    s0.OnlyM m (State.refMonitor s e ppm) := by
  unfold State.refMonitor
  repeat' first
    | (intro _)
    | with_reducible assumption
    | with_reducible exact subM (by decide) hm
    | (extract_lets +onlyGivenNames x; first | (refine (fun hx => ?_ : State.OnlyM s0 m x → _) ?_; (on_goal 1 => clear_value x); (on_goal 2 => subst x)) | clear_value x)
    | (with_reducible first | apply State.setFlag_only | apply State.iff_only | apply State.setFld_only | apply State.updRot_only | apply State.setFldS_only | apply State.event_only | apply foldl_only)
    | with_reducible exact fun _ h => h
    | split

theorem execRotationStepEnd_only (s : State) (fe : Fin 10) (res : RotResult) :
    State.OnlyOut s 17422 (execRotationStepEnd fe res s) := by
  have hm : 17422 ||| 17422 = 17422 := rfl
  have h : State.OnlyM s 17422 s := State.OnlyM.refl _ _
  unfold execRotationStepEnd
  first | apply State.live_only | apply State.liveOn_only | apply next_only
  repeat' first
    | (intro _)
    | with_reducible assumption
    | with_reducible exact subM (by decide) hm
    | (extract_lets +onlyGivenNames x; first | (refine (fun hx => ?_ : State.OnlyM s 17422 x → _) ?_; (on_goal 1 => clear_value x); (on_goal 2 => subst x)) | clear_value x)
    | (with_reducible first | apply State.rotStep_only | apply State.updRot_only | apply State.refMonitor_only | apply State.iff_only | apply State.setFldS_only | apply State.event_only | apply State.inc_only | apply State.startTimer_only)
    | with_reducible exact fun _ h => h
    | split
    | (fail_if_no_progress beta_reduce)

theorem State.rotExchange_only {m : Nat} {s0 s : State} (h : s0.OnlyM m s) (hm : 16394 ||| m = m) (e : Nat) :
    s0.OnlyM m (State.rotExchange s e) := by
  unfold State.rotExchange
  repeat' first
    | (intro _)
    | with_reducible assumption
    | with_reducible exact subM (by decide) hm
    | (with_reducible first | apply State.startTimer_only | apply State.showRot_only | apply State.updRot_only)
    | with_reducible exact fun _ h => h
    | split

theorem State.rotTick_only {m : Nat} {s0 s : State} (h : s0.OnlyM m s) (hm : 16394 ||| m = m) (e : Nat) (disc : Bool) :
    s0.OnlyM m (State.rotTick s e disc) := by
  unfold State.rotTick
  repeat' first
    | (intro _)
    | with_reducible assumption
    | with_reducible exact subM (by decide) hm
    | (extract_lets +onlyGivenNames x; first | (refine (fun hx => ?_ : State.OnlyM s0 m x → _) ?_; (on_goal 1 => clear_value x); (on_goal 2 => subst x)) | clear_value x)
    | (with_reducible first | apply State.rotStep_only | apply State.iff_only | apply State.updRot_only | apply State.rotExchange_only)
    | with_reducible exact fun _ h => h
    | split
    | (fail_if_no_progress beta_reduce)

theorem State.metIdle_only {m : Nat} {s0 s : State} (h : s0.OnlyM m s) (hm : 16384 ||| m = m) :
    s0.OnlyM m (State.metIdle s) := by
  unfold State.metIdle
  repeat' first
    | (intro _)
    | with_reducible assumption
    | with_reducible exact subM (by decide) hm
    | (with_reducible first | apply State.updMet_only)
    | with_reducible exact fun _ h => h
    | split

theorem State.metTick_only {m : Nat} {s0 s : State} (h : s0.OnlyM m s) (hm : 19470 ||| m = m) (outs : List MetOutIn) (feeds : List FeedIn) :
    s0.OnlyM m (State.metTick s outs feeds) := by
  unfold State.metTick
  repeat' first
    | (intro _)
    | with_reducible assumption
    | with_reducible exact subM (by decide) hm
    | (extract_lets +onlyGivenNames x; first | (refine (fun hx => ?_ : State.OnlyM s0 m x → _) ?_; (on_goal 1 => clear_value x); (on_goal 2 => subst x)) | clear_value x)
    | (with_reducible first | apply State.metIdle_only | apply State.each_only | apply State.rotTick_only | apply State.meterOut_only | apply State.meterFeed_only | apply State.iff_only | apply State.setFlag_only | apply State.updMf_only | apply State.updMet_only | apply foldl_only)
    | with_reducible exact fun _ h => h
    | split
    | (fail_if_no_progress beta_reduce)

theorem State.pathCompare_only {m : Nat} {s0 s : State} (h : s0.OnlyM m s) (hm : 65536 ||| m = m) :
    s0.OnlyM m (State.pathCompare s) := by
  unfold State.pathCompare
  repeat' first
    | (intro _)
    | with_reducible assumption
    | with_reducible exact subM (by decide) hm
    | (extract_lets +onlyGivenNames x; first | (refine (fun hx => ?_ : State.OnlyM s0 m x → _) ?_; (on_goal 1 => clear_value x); (on_goal 2 => subst x)) | clear_value x)
    | (with_reducible first | apply State.each_only | apply State.iff_only | apply State.updIo_only)
    | with_reducible exact fun _ h => h
    | split
    | (fail_if_no_progress beta_reduce)

theorem execOffsetCapture_only (s : State) (out : Fin 8) :
    State.OnlyOut s 17414 (execOffsetCapture out s) := by
  have hm : 17414 ||| 17414 = 17414 := rfl
  have h : State.OnlyM s 17414 s := State.OnlyM.refl _ _
  unfold execOffsetCapture
  first | apply State.live_only | apply State.liveOn_only | apply next_only
  repeat' first
    | (intro _)
    | with_reducible assumption
    | with_reducible exact subM (by decide) hm
    | (extract_lets +onlyGivenNames x; first | (refine (fun hx => ?_ : State.OnlyM s 17414 x → _) ?_; (on_goal 1 => clear_value x); (on_goal 2 => subst x)) | clear_value x)
    | (with_reducible first | apply State.updMo_only | apply State.event_only | apply State.setFldS_only)
    | with_reducible exact fun _ h => h
    | split
    | (fail_if_no_progress beta_reduce)

theorem State.metSnap_only {m : Nat} {s0 s : State} (h : s0.OnlyM m s) (hm : 16384 ||| m = m) :
    s0.OnlyM m (State.metSnap s) := by
  unfold State.metSnap
  repeat' first
    | (intro _)
    | with_reducible assumption
    | with_reducible exact subM (by decide) hm
    | (with_reducible first | apply State.updMet_only)
    | with_reducible exact fun _ h => h
    | split

theorem execMetSnap_only (s : State) :
    State.OnlyOut s 16384 (execMetSnap s) := by
  have hm : 16384 ||| 16384 = 16384 := rfl
  have h : State.OnlyM s 16384 s := State.OnlyM.refl _ _
  unfold execMetSnap
  first | apply State.live_only | apply next_only
  repeat' first
    | (intro _)
    | with_reducible assumption
    | with_reducible exact subM (by decide) hm
    | (with_reducible first | apply State.metSnap_only)
    | with_reducible exact fun _ h => h
    | split

theorem State.metSnapRel_only {m : Nat} {s0 s : State} (h : s0.OnlyM m s) (hm : 16386 ||| m = m) :
    s0.OnlyM m (State.metSnapRel s) := by
  unfold State.metSnapRel
  repeat' first
    | (intro _)
    | with_reducible assumption
    | with_reducible exact subM (by decide) hm
    | (with_reducible first | apply State.updMet_only | apply State.setFlag_only)
    | with_reducible exact fun _ h => h
    | split

theorem execMetSnapRelease_only (s : State) :
    State.OnlyOut s 16386 (execMetSnapRelease s) := by
  have hm : 16386 ||| 16386 = 16386 := rfl
  have h : State.OnlyM s 16386 s := State.OnlyM.refl _ _
  unfold execMetSnapRelease
  first | apply State.live_only | apply next_only
  repeat' first
    | (intro _)
    | with_reducible assumption
    | with_reducible exact subM (by decide) hm
    | (with_reducible first | apply State.metSnapRel_only)
    | with_reducible exact fun _ h => h
    | split

theorem State.fhRefresh_only {m : Nat} {s0 s : State} (h : s0.OnlyM m s) (hm : 2 ||| m = m) (f : Nat) :
    s0.OnlyM m (State.fhRefresh s f) := by
  unfold State.fhRefresh
  repeat' first
    | (intro _)
    | with_reducible assumption
    | with_reducible exact subM (by decide) hm
    | (extract_lets +onlyGivenNames x; first | (refine (fun hx => ?_ : State.OnlyM s0 m x → _) ?_; (on_goal 1 => clear_value x); (on_goal 2 => subst x)) | clear_value x)
    | (with_reducible first | apply State.setSat_only)
    | with_reducible exact fun _ h => h
    | split
    | (fail_if_no_progress beta_reduce)

theorem State.windowResult_only {m : Nat} {s0 s : State} (h : s0.OnlyM m s) (hm : 17414 ||| m = m) (f : Nat) (w : HarmWin) :
    s0.OnlyM m (State.windowResult s f w) := by
  unfold State.windowResult
  repeat' first
    | (intro _)
    | with_reducible assumption
    | with_reducible exact subM (by decide) hm
    | (extract_lets +onlyGivenNames x; first | (refine (fun hx => ?_ : State.OnlyM s0 m x → _) ?_; (on_goal 1 => clear_value x); (on_goal 2 => subst x)) | clear_value x)
    | (with_reducible first | apply State.updMf_only | apply State.setSat_only | apply State.fhRefresh_only | apply State.setFlag_only | apply State.iff_only | apply State.event_only | apply State.inc_only | apply foldl_only)
    | with_reducible exact fun _ h => h
    | split
    | (fail_if_no_progress beta_reduce)

theorem State.residualCheck_only {m : Nat} {s0 s : State} (h : s0.OnlyM m s) (hm : 1030 ||| m = m) (f : Nat) (w : HarmWin) :
    s0.OnlyM m (State.residualCheck s f w) := by
  unfold State.residualCheck
  repeat' first
    | (intro _)
    | with_reducible assumption
    | with_reducible exact subM (by decide) hm
    | (extract_lets +onlyGivenNames x; first | (refine (fun hx => ?_ : State.OnlyM s0 m x → _) ?_; (on_goal 1 => clear_value x); (on_goal 2 => subst x)) | clear_value x)
    | (with_reducible first | apply State.iff_only | apply State.setFlag_only | apply State.inc_only | apply State.event_only)
    | with_reducible exact fun _ h => h
    | split
    | (fail_if_no_progress beta_reduce)

theorem execHarmonicWindowEnd_only (s : State) (feed : Fin 2) :
    State.OnlyOut s 17414 (execHarmonicWindowEnd feed s) := by
  have hm : 17414 ||| 17414 = 17414 := rfl
  have h : State.OnlyM s 17414 s := State.OnlyM.refl _ _
  unfold execHarmonicWindowEnd
  first | apply State.live_only | apply State.liveOn_only | apply next_only
  repeat' first
    | (intro _)
    | with_reducible assumption
    | with_reducible exact subM (by decide) hm
    | (extract_lets +onlyGivenNames x; first | (refine (fun hx => ?_ : State.OnlyM s 17414 x → _) ?_; (on_goal 1 => clear_value x); (on_goal 2 => subst x)) | clear_value x)
    | (with_reducible first | apply State.updMf_only | apply State.residualCheck_only | apply State.windowResult_only)
    | with_reducible exact fun _ h => h
    | split
    | (fail_if_no_progress beta_reduce)

theorem State.precDiscard_only {m : Nat} {s0 s : State} (h : s0.OnlyM m s) (hm : 17414 ||| m = m) (e : Nat) (k : Nat) :
    s0.OnlyM m (State.precDiscard s e k) := by
  unfold State.precDiscard
  repeat' first
    | (intro _)
    | with_reducible assumption
    | with_reducible exact subM (by decide) hm
    | (extract_lets +onlyGivenNames x; first | (refine (fun hx => ?_ : State.OnlyM s0 m x → _) ?_; (on_goal 1 => clear_value x); (on_goal 2 => subst x)) | clear_value x)
    | (with_reducible first | apply State.updMet_only | apply State.updMo_only | apply State.iff_only | apply State.inc_only | apply State.updMf_only | apply State.event_only)
    | with_reducible exact fun _ h => h
    | split

end Sys2Proof.Machine
end

