-- ==== Sys2Proof/Laws/OnlyKeys.lean ====
section
/-!
SUPPORT. The parts of the state that the operations and commands of Machine/Keys.lean change.
-/

set_option linter.all false

namespace Sys2Proof.Machine

open Sys2Proof

theorem State.updKeys_only {m : Nat} {s0 s : State} (h : s0.OnlyM m s) (hm : 8388608 ||| m = m) (f : KeySt → KeySt) :
    s0.OnlyM m (State.updKeys s f) := by
  unfold State.updKeys
  repeat' first
    | (intro _)
    | with_reducible assumption
    | with_reducible exact subM (by decide) hm
    | split
    | (with_reducible apply State.mk_only; (rotate_left); all_goals first | with_reducible exact .inl rfl | exact .inr (bitM (by decide) hm) | skip)
    | with_reducible exact fun _ h => h
    | split

theorem State.setSlot_only {m : Nat} {s0 s : State} (h : s0.OnlyM m s) (hm : 8388608 ||| m = m) (k : Nat) (a2 : KeySlot) :
    s0.OnlyM m (State.setSlot s k a2) := by
  unfold State.setSlot
  repeat' first
    | (intro _)
    | with_reducible assumption
    | with_reducible exact subM (by decide) hm
    | (with_reducible first | apply State.updKeys_only)
    | with_reducible exact fun _ h => h
    | split

theorem State.jobRefused_only {m : Nat} {s0 s : State} (h : s0.OnlyM m s) (hm : 1030 ||| m = m) (k : Nat) :
    s0.OnlyM m (State.jobRefused s k) := by
  unfold State.jobRefused
  repeat' first
    | (intro _)
    | with_reducible assumption
    | with_reducible exact subM (by decide) hm
    | (with_reducible first | apply State.event_only)
    | with_reducible exact fun _ h => h
    | split

theorem State.touchRole_only {m : Nat} {s0 s : State} (h : s0.OnlyM m s) (hm : 8 ||| m = m) (a1 : Nat) :
    s0.OnlyM m (State.touchRole s a1) := by
  unfold State.touchRole
  repeat' first
    | (intro _)
    | with_reducible assumption
    | with_reducible exact subM (by decide) hm
    | (with_reducible first | apply State.startTimer_only)
    | with_reducible exact fun _ h => h
    | split

theorem State.roleStat_only {m : Nat} {s0 s : State} (h : s0.OnlyM m s) (hm : 2 ||| m = m) :
    s0.OnlyM m (State.roleStat s) := by
  unfold State.roleStat
  repeat' first
    | (intro _)
    | with_reducible assumption
    | with_reducible exact subM (by decide) hm
    | (extract_lets +onlyGivenNames x; first | clear_value x)
    | (with_reducible first | apply State.setSat_only)
    | with_reducible exact fun _ h => h
    | split

end Sys2Proof.Machine
end

