-- ==== Sys2Proof/Laws/OnlyLegal.lean ====
section
/-!
SUPPORT. The parts of the state that the operations and commands of Machine/Legal.lean change.
-/

set_option linter.all false

namespace Sys2Proof.Machine

open Sys2Proof

theorem State.audit_only {m : Nat} {s0 s : State} (h : s0.OnlyM m s) (hm : 33798 ||| m = m) (code : Nat) (data : List Nat) :
    s0.OnlyM m (State.audit s code data) := by
  unfold State.audit
  repeat' first
    | (intro _)
    | with_reducible assumption
    | with_reducible exact subM (by decide) hm
    | (with_reducible first | apply State.updLeg_only | apply State.event_only)
    | with_reducible exact fun _ h => h
    | split

theorem State.updChan_only {m : Nat} {s0 s : State} (h : s0.OnlyM m s) (hm : 32768 ||| m = m) (c : Nat) (f : LegChan → LegChan) :
    s0.OnlyM m (State.updChan s c f) := by
  unfold State.updChan
  repeat' first
    | (intro _)
    | with_reducible assumption
    | with_reducible exact subM (by decide) hm
    | (with_reducible first | apply State.updLeg_only)
    | with_reducible exact fun _ h => h
    | split

theorem State.setEarly_only {m : Nat} {s0 s : State} (h : s0.OnlyM m s) (hm : 16384 ||| m = m) (c : Nat) (e : Nat × Nat) :
    s0.OnlyM m (State.setEarly s c e) := by
  unfold State.setEarly
  repeat' first
    | (intro _)
    | with_reducible assumption
    | with_reducible exact subM (by decide) hm
    | (with_reducible first | apply State.updMo_only | apply State.updMf_only)
    | with_reducible exact fun _ h => h
    | split

theorem State.addTotal_only {m : Nat} {s0 s : State} (h : s0.OnlyM m s) (hm : 16384 ||| m = m) (c : Nat) (e : Nat × Nat) :
    s0.OnlyM m (State.addTotal s c e) := by
  unfold State.addTotal
  repeat' first
    | (intro _)
    | with_reducible assumption
    | with_reducible exact subM (by decide) hm
    | (extract_lets +onlyGivenNames x; first | (refine (fun hx => ?_ : State.OnlyM s0 m x → _) ?_; (on_goal 1 => clear_value x); (on_goal 2 => subst x)) | clear_value x)
    | (with_reducible first | apply State.updMo_only | apply State.updMf_only)
    | with_reducible exact fun _ h => h
    | split
    | (fail_if_no_progress beta_reduce)

theorem State.profEntry_only {m : Nat} {s0 s : State} (h : s0.OnlyM m s) (hm : 33798 ||| m = m) (c : Nat) (e : ProfEntry) :
    s0.OnlyM m (State.profEntry s c e) := by
  unfold State.profEntry
  repeat' first
    | (intro _)
    | with_reducible assumption
    | with_reducible exact subM (by decide) hm
    | (extract_lets +onlyGivenNames x; first | (refine (fun hx => ?_ : State.OnlyM s0 m x → _) ?_; (on_goal 1 => clear_value x); (on_goal 2 => subst x)) | clear_value x)
    | (with_reducible first | apply State.updChan_only | apply State.inc_only | apply State.iff_only | apply State.event_only)
    | with_reducible exact fun _ h => h
    | split
    | (fail_if_no_progress beta_reduce)

theorem State.openSub_only {m : Nat} {s0 s : State} (h : s0.OnlyM m s) (hm : 32768 ||| m = m) (flags : Nat) :
    s0.OnlyM m (State.openSub s flags) := by
  unfold State.openSub
  repeat' first
    | (intro _)
    | with_reducible assumption
    | with_reducible exact subM (by decide) hm
    | (extract_lets +onlyGivenNames x; first | (refine (fun hx => ?_ : State.OnlyM s0 m x → _) ?_; (on_goal 1 => clear_value x); (on_goal 2 => subst x)) | clear_value x)
    | (with_reducible first | apply State.updChan_only | apply State.updLeg_only | apply State.each_only)
    | with_reducible exact fun _ h => h
    | split

theorem State.closeSub_only {m : Nat} {s0 s : State} (h : s0.OnlyM m s) (hm : 33798 ||| m = m) (tick : Nat) (cap : Nat) (flags : Nat) :
    s0.OnlyM m (State.closeSub s tick cap flags) := by
  unfold State.closeSub
  repeat' first
    | (intro _)
    | with_reducible assumption
    | with_reducible exact subM (by decide) hm
    | (extract_lets +onlyGivenNames x; first | (refine (fun hx => ?_ : State.OnlyM s0 m x → _) ?_; (on_goal 1 => clear_value x); (on_goal 2 => subst x)) | clear_value x)
    | (with_reducible first | apply State.updChan_only | apply State.updLeg_only | apply State.profEntry_only | apply State.each_only | apply foldl_only)
    | with_reducible exact fun _ h => h
    | split

theorem State.gapSubs_only {m : Nat} {s0 s : State} (h : s0.OnlyM m s) (hm : 33798 ||| m = m) (tick : Nat) (n : Nat) :
    s0.OnlyM m (State.gapSubs s tick n) := by
  unfold State.gapSubs
  repeat' first
    | (intro _)
    | with_reducible assumption
    | with_reducible exact subM (by decide) hm
    | (extract_lets +onlyGivenNames x; first | (refine (fun hx => ?_ : State.OnlyM s0 m x → _) ?_; (on_goal 1 => clear_value x); (on_goal 2 => subst x)) | clear_value x)
    | (with_reducible first | apply State.each_only | apply State.updChan_only | apply State.profEntry_only)
    | with_reducible exact fun _ h => h
    | split
    | (fail_if_no_progress beta_reduce)

theorem State.putRecord_only {m : Nat} {s0 s : State} (h : s0.OnlyM m s) (hm : 32768 ||| m = m) (b : DmrBody) :
    s0.OnlyM m (State.putRecord s b) := by
  unfold State.putRecord
  repeat' first
    | (intro _)
    | with_reducible assumption
    | with_reducible exact subM (by decide) hm
    | (with_reducible first | apply State.updLeg_only)
    | with_reducible exact fun _ h => h
    | split

theorem State.closePeriod_only {m : Nat} {s0 s : State} (h : s0.OnlyM m s) (hm : 33798 ||| m = m) (at_ : Nat) :
    s0.OnlyM m (State.closePeriod s at_) := by
  unfold State.closePeriod
  repeat' first
    | (intro _)
    | with_reducible assumption
    | with_reducible exact subM (by decide) hm
    | (extract_lets +onlyGivenNames x; first | (refine (fun hx => ?_ : State.OnlyM s0 m x → _) ?_; (on_goal 1 => clear_value x); (on_goal 2 => subst x)) | clear_value x)
    | (with_reducible first | apply State.updLeg_only | apply State.audit_only | apply State.inc_only | apply State.putRecord_only | apply State.setFlag_only | apply State.setFld_only | apply State.event_only)
    | with_reducible exact fun _ h => h
    | split
    | (fail_if_no_progress beta_reduce)

theorem State.takeBoundaries_only {m : Nat} {s0 s : State} (h : s0.OnlyM m s) (hm : 33798 ||| m = m) (now : Nat) :
    s0.OnlyM m (State.takeBoundaries s now) := by
  unfold State.takeBoundaries
  repeat' first
    | (intro _)
    | with_reducible assumption
    | with_reducible exact subM (by decide) hm
    | (extract_lets +onlyGivenNames x; first | (refine (fun hx => ?_ : State.OnlyM s0 m x → _) ?_; (on_goal 1 => clear_value x); (on_goal 2 => subst x)) | clear_value x)
    | (with_reducible first | apply State.updLeg_only | apply State.iff_only | apply State.closeSub_only | apply State.openSub_only | apply State.setFld_only | apply State.each_only | apply State.audit_only | apply State.closePeriod_only | apply State.gapSubs_only)
    | with_reducible exact fun _ h => h
    | split

theorem State.updSess_only {m : Nat} {s0 s : State} (h : s0.OnlyM m s) (hm : 32768 ||| m = m) (k : Nat) (f : LegSess → LegSess) :
    s0.OnlyM m (State.updSess s k f) := by
  unfold State.updSess
  repeat' first
    | (intro _)
    | with_reducible assumption
    | with_reducible exact subM (by decide) hm
    | (with_reducible first | apply State.updLeg_only)
    | with_reducible exact fun _ h => h
    | split

theorem State.legJoin_only {m : Nat} {s0 s : State} (h : s0.OnlyM m s) (hm : 32768 ||| m = m) (j : Nat) (n : Nat) (key : Nat) :
    s0.OnlyM m (State.legJoin s j n key) := by
  unfold State.legJoin
  repeat' first
    | (intro _)
    | with_reducible assumption
    | with_reducible exact subM (by decide) hm
    | (extract_lets +onlyGivenNames x; first | (refine (fun hx => ?_ : State.OnlyM s0 m x → _) ?_; (on_goal 1 => clear_value x); (on_goal 2 => subst x)) | clear_value x)
    | (with_reducible first | apply State.updLeg_only | apply State.updSess_only)
    | with_reducible exact fun _ h => h
    | split
    | (fail_if_no_progress beta_reduce)

theorem State.openMember_only {m : Nat} {s0 s : State} (h : s0.OnlyM m s) (hm : 32768 ||| m = m) (j : Nat) (n : Nat) :
    s0.OnlyM m (State.openMember s j n) := by
  unfold State.openMember
  repeat' first
    | (intro _)
    | with_reducible assumption
    | with_reducible exact subM (by decide) hm
    | (extract_lets +onlyGivenNames x; first | (refine (fun hx => ?_ : State.OnlyM s0 m x → _) ?_; (on_goal 1 => clear_value x); (on_goal 2 => subst x)) | clear_value x)
    | (with_reducible first | apply State.updSess_only | apply State.updLeg_only)
    | with_reducible exact fun _ h => h
    | split
    | (fail_if_no_progress beta_reduce)

theorem State.endMember_only {m : Nat} {s0 s : State} (h : s0.OnlyM m s) (hm : 32768 ||| m = m) (key : Nat) (j : Nat) (n : Nat) (reason : Nat) (t : Nat) (clk : Nat) :
    s0.OnlyM m (State.endMember s key j n reason t clk) := by
  unfold State.endMember
  repeat' first
    | (intro _)
    | with_reducible assumption
    | with_reducible exact subM (by decide) hm
    | (with_reducible first | apply State.updSess_only)
    | with_reducible exact fun _ h => h
    | split

theorem State.buildRecord_only {m : Nat} {s0 s : State} (h : s0.OnlyM m s) (hm : 32768 ||| m = m) (a1 : LegSess) :
    s0.OnlyM m (State.buildRecord s a1) := by
  unfold State.buildRecord
  repeat' first
    | (intro _)
    | with_reducible assumption
    | with_reducible exact subM (by decide) hm
    | (extract_lets +onlyGivenNames x; first | (refine (fun hx => ?_ : State.OnlyM s0 m x → _) ?_; (on_goal 1 => clear_value x); (on_goal 2 => subst x)) | clear_value x)
    | (with_reducible first | apply State.putRecord_only | apply State.updLeg_only | apply foldl_only)
    | with_reducible exact fun _ h => h
    | split
    | (fail_if_no_progress beta_reduce)

theorem State.buildDone_only {m : Nat} {s0 s : State} (h : s0.OnlyM m s) (hm : 32768 ||| m = m) :
    s0.OnlyM m (State.buildDone s) := by
  unfold State.buildDone
  repeat' first
    | (intro _)
    | with_reducible assumption
    | with_reducible exact subM (by decide) hm
    | (with_reducible first | apply State.each_only | apply State.updLeg_only | apply State.buildRecord_only)
    | with_reducible exact fun _ h => h
    | split

theorem State.sessionStarts_only {m : Nat} {s0 s : State} (h : s0.OnlyM m s) (hm : 32768 ||| m = m) (es : List Event) :
    s0.OnlyM m (State.sessionStarts s es) := by
  unfold State.sessionStarts
  repeat' first
    | (intro _)
    | with_reducible assumption
    | with_reducible exact subM (by decide) hm
    | (extract_lets +onlyGivenNames x; first | (refine (fun hx => ?_ : State.OnlyM s0 m x → _) ?_; (on_goal 1 => clear_value x); (on_goal 2 => subst x)) | clear_value x)
    | (with_reducible first | apply State.each_only | apply State.legJoin_only | apply State.iff_only | apply State.openMember_only)
    | with_reducible exact fun _ h => h
    | split
    | (fail_if_no_progress beta_reduce)

theorem State.sessionEnds_only {m : Nat} {s0 s : State} (h : s0.OnlyM m s) (hm : 32768 ||| m = m) (es : List Event) :
    s0.OnlyM m (State.sessionEnds s es) := by
  unfold State.sessionEnds
  repeat' first
    | (intro _)
    | with_reducible assumption
    | with_reducible exact subM (by decide) hm
    | (extract_lets +onlyGivenNames x; first | (refine (fun hx => ?_ : State.OnlyM s0 m x → _) ?_; (on_goal 1 => clear_value x); (on_goal 2 => subst x)) | clear_value x)
    | (with_reducible first | apply State.each_only | apply State.endMember_only | apply State.updLeg_only)
    | with_reducible exact fun _ h => h
    | split
    | (fail_if_no_progress beta_reduce)

theorem State.creditCheck_only {m : Nat} {s0 s : State} (h : s0.OnlyM m s) (hm : 46094 ||| m = m) :
    s0.OnlyM m (State.creditCheck s) := by
  unfold State.creditCheck
  repeat' first
    | (intro _)
    | with_reducible assumption
    | with_reducible exact subM (by decide) hm
    | (extract_lets +onlyGivenNames x; first | (refine (fun hx => ?_ : State.OnlyM s0 m x → _) ?_; (on_goal 1 => clear_value x); (on_goal 2 => subst x)) | clear_value x)
    | (with_reducible first | apply State.each_only | apply State.iff_only | apply State.event_only | apply State.updSess_only | apply State.evseStopAll_only)
    | with_reducible exact fun _ h => h
    | split
    | (fail_if_no_progress beta_reduce)

theorem State.addRate_only {m : Nat} {s0 s : State} (h : s0.OnlyM m s) (hm : 33798 ||| m = m) (c : Nat) (e : Nat × Nat) :
    s0.OnlyM m (State.addRate s c e) := by
  unfold State.addRate
  repeat' first
    | (intro _)
    | with_reducible assumption
    | with_reducible exact subM (by decide) hm
    | (extract_lets +onlyGivenNames x; first | (refine (fun hx => ?_ : State.OnlyM s0 m x → _) ?_; (on_goal 1 => clear_value x); (on_goal 2 => subst x)) | clear_value x)
    | (with_reducible first | apply State.updChan_only | apply State.iff_only | apply State.audit_only)
    | with_reducible exact fun _ h => h
    | split
    | (fail_if_no_progress beta_reduce)

theorem State.flagChan_only {m : Nat} {s0 s : State} (h : s0.OnlyM m s) (hm : 32768 ||| m = m) (c : Nat) (fl : Nat) :
    s0.OnlyM m (State.flagChan s c fl) := by
  unfold State.flagChan
  repeat' first
    | (intro _)
    | with_reducible assumption
    | with_reducible exact subM (by decide) hm
    | (with_reducible first | apply State.updLeg_only | apply State.updChan_only)
    | with_reducible exact fun _ h => h
    | split

theorem State.accrue_only {m : Nat} {s0 s : State} (h : s0.OnlyM m s) (hm : 50182 ||| m = m) :
    s0.OnlyM m (State.accrue s) := by
  unfold State.accrue
  repeat' first
    | (intro _)
    | with_reducible assumption
    | with_reducible exact subM (by decide) hm
    | (extract_lets +onlyGivenNames x; first | (refine (fun hx => ?_ : State.OnlyM s0 m x → _) ?_; (on_goal 1 => clear_value x); (on_goal 2 => subst x)) | clear_value x)
    | (with_reducible first | apply State.updLeg_only | apply State.each_only | apply State.iff_only | apply State.flagChan_only | apply State.setEarly_only | apply State.addRate_only)
    | with_reducible exact fun _ h => h
    | split
    | (fail_if_no_progress beta_reduce)

theorem State.earlyCommit_only {m : Nat} {s0 s : State} (h : s0.OnlyM m s) (hm : 50182 ||| m = m) (met : List MetOutIn) (feeds : List FeedIn) (cut : Bool) :
    s0.OnlyM m (State.earlyCommit s met feeds cut) := by
  unfold State.earlyCommit
  repeat' first
    | (intro _)
    | with_reducible assumption
    | with_reducible exact subM (by decide) hm
    | (extract_lets +onlyGivenNames x; first | (refine (fun hx => ?_ : State.OnlyM s0 m x → _) ?_; (on_goal 1 => clear_value x); (on_goal 2 => subst x)) | (have y : State → State := x; clear y; subst x) | (have y : State → _ → State := x; clear y; subst x) | (have y : _ → State → State := x; clear y; subst x) | (have y : _ → _ → State → State := x; clear y; subst x) | (have y : State → _ → _ → State := x; clear y; subst x) | (have y : State → _ → State × _ := x; clear y; subst x) | clear_value x)
    | (with_reducible first | apply State.setEarly_only | apply State.addRate_only | apply State.addTotal_only | apply State.each_only | apply State.flagChan_only | apply State.setFlag_only | apply State.updMo_only | apply State.updMf_only)
    | with_reducible exact fun _ h => h
    | split
    | (fail_if_no_progress beta_reduce)

theorem State.legSuspend_only {m : Nat} {s0 s : State} (h : s0.OnlyM m s) (hm : 33798 ||| m = m) :
    s0.OnlyM m (State.legSuspend s) := by
  unfold State.legSuspend
  repeat' first
    | (intro _)
    | with_reducible assumption
    | with_reducible exact subM (by decide) hm
    | (extract_lets +onlyGivenNames x; first | clear_value x)
    | (with_reducible first | apply State.setFlag_only | apply State.audit_only)
    | with_reducible exact fun _ h => h
    | split

theorem State.legCommit_only {m : Nat} {s0 s : State} (h : s0.OnlyM m s) (hm : 32770 ||| m = m) :
    s0.OnlyM m (State.legCommit s) := by
  unfold State.legCommit
  repeat' first
    | (intro _)
    | with_reducible assumption
    | with_reducible exact subM (by decide) hm
    | (extract_lets +onlyGivenNames x; first | (refine (fun hx => ?_ : State.OnlyM s0 m x → _) ?_; (on_goal 1 => clear_value x); (on_goal 2 => subst x)) | clear_value x)
    | (with_reducible first | apply State.updLeg_only | apply State.setFld_only)
    | with_reducible exact fun _ h => h
    | split
    | (fail_if_no_progress beta_reduce)

theorem State.hwmInit_only {m : Nat} {s0 s : State} (h : s0.OnlyM m s) (hm : 32770 ||| m = m) :
    s0.OnlyM m (State.hwmInit s) := by
  unfold State.hwmInit
  repeat' first
    | (intro _)
    | with_reducible assumption
    | with_reducible exact subM (by decide) hm
    | (extract_lets +onlyGivenNames x; first | clear_value x)
    | (with_reducible first | apply State.updLeg_only | apply State.setFld_only)
    | with_reducible exact fun _ h => h
    | split

theorem State.tokEnter_only {m : Nat} {s0 s : State} (h : s0.OnlyM m s) (hm : 45066 ||| m = m) :
    s0.OnlyM m (State.tokEnter s) := by
  unfold State.tokEnter
  repeat' first
    | (intro _)
    | with_reducible assumption
    | with_reducible exact subM (by decide) hm
    | (extract_lets +onlyGivenNames x; first | (refine (fun hx => ?_ : State.OnlyM s0 m x → _) ?_; (on_goal 1 => clear_value x); (on_goal 2 => subst x)) | clear_value x)
    | (with_reducible first | apply State.updLeg_only | apply State.iff_only | apply State.updVh_only | apply State.tokRegs_only | apply State.setFld_only | apply State.postAuth_only | apply State.each_only | apply foldl_only)
    | with_reducible exact fun _ h => h
    | split

theorem State.reentered_only {m : Nat} {s0 s : State} (h : s0.OnlyM m s) (hm : 33798 ||| m = m) :
    s0.OnlyM m (State.reentered s) := by
  unfold State.reentered
  repeat' first
    | (intro _)
    | with_reducible assumption
    | with_reducible exact subM (by decide) hm
    | (with_reducible first | apply State.iff_only | apply State.audit_only | apply State.setFlag_only)
    | with_reducible exact fun _ h => h
    | split

theorem State.legTick_only {m : Nat} {s0 s : State} (h : s0.OnlyM m s) (hm : 62478 ||| m = m) :
    s0.OnlyM m (State.legTick s) := by
  unfold State.legTick
  repeat' first
    | (intro _)
    | with_reducible assumption
    | with_reducible exact subM (by decide) hm
    | (extract_lets +onlyGivenNames x; first | (refine (fun hx => ?_ : State.OnlyM s0 m x → _) ?_; (on_goal 1 => clear_value x); (on_goal 2 => subst x)) | clear_value x)
    | (with_reducible first | apply State.updLeg_only | apply State.iff_only | apply State.openSub_only | apply State.accrue_only | apply State.sessionStarts_only | apply State.takeBoundaries_only | apply State.hwmInit_only | apply State.buildDone_only | apply State.sessionEnds_only | apply State.reentered_only | apply State.legSuspend_only | apply State.legCommit_only | apply State.creditCheck_only | apply State.tokEnter_only)
    | with_reducible exact fun _ h => h
    | split
    | (fail_if_no_progress beta_reduce)

theorem State.legStep_only {m : Nat} {s0 s : State} (h : s0.OnlyM m s) (hm : 33798 ||| m = m) (old : Nat) :
    s0.OnlyM m (State.legStep s old) := by
  unfold State.legStep
  repeat' first
    | (intro _)
    | with_reducible assumption
    | with_reducible exact subM (by decide) hm
    | (extract_lets +onlyGivenNames x; first | (refine (fun hx => ?_ : State.OnlyM s0 m x → _) ?_; (on_goal 1 => clear_value x); (on_goal 2 => subst x)) | clear_value x)
    | (with_reducible first | apply State.closeSub_only | apply State.updLeg_only | apply State.iff_only | apply State.takeBoundaries_only | apply State.hwmInit_only | apply State.openSub_only | apply State.reentered_only | apply State.audit_only | apply State.setFlag_only | apply State.legCommit_only | apply State.legSuspend_only)
    | with_reducible exact fun _ h => h
    | split
    | (fail_if_no_progress beta_reduce)

theorem State.legStart_only {m : Nat} {s0 s : State} (h : s0.OnlyM m s) (hm : 33798 ||| m = m) :
    s0.OnlyM m (State.legStart s) := by
  unfold State.legStart
  repeat' first
    | (intro _)
    | with_reducible assumption
    | with_reducible exact subM (by decide) hm
    | (extract_lets +onlyGivenNames x; first | (refine (fun hx => ?_ : State.OnlyM s0 m x → _) ?_; (on_goal 1 => clear_value x); (on_goal 2 => subst x)) | clear_value x)
    | (with_reducible first | apply State.audit_only | apply State.openSub_only | apply State.closeSub_only | apply State.each_only | apply State.endMember_only | apply State.updSess_only | apply State.buildDone_only | apply State.updLeg_only | apply State.tokRegs_only)
    | with_reducible exact fun _ h => h
    | split
    | (fail_if_no_progress beta_reduce)

theorem State.legPass_only {m : Nat} {s0 s : State} (h : s0.OnlyM m s) (hm : 33798 ||| m = m) :
    s0.OnlyM m (State.legPass s) := by
  unfold State.legPass
  repeat' first
    | (intro _)
    | with_reducible assumption
    | with_reducible exact subM (by decide) hm
    | (extract_lets +onlyGivenNames x; first | (refine (fun hx => ?_ : State.OnlyM s0 m x → _) ?_; (on_goal 1 => clear_value x); (on_goal 2 => subst x)) | clear_value x)
    | (with_reducible first | apply State.each_only | apply State.endMember_only | apply State.updSess_only | apply State.iff_only | apply State.buildDone_only | apply State.event_only)
    | with_reducible exact fun _ h => h
    | split
    | (fail_if_no_progress beta_reduce)

theorem State.legTake_only {m : Nat} {s0 s : State} (h : s0.OnlyM m s) (hm : 32768 ||| m = m) (j : Nat) (n : Nat) (join : Nat) (seg : Option Nat) :
    s0.OnlyM m (State.legTake s j n join seg) := by
  unfold State.legTake
  repeat' first
    | (intro _)
    | with_reducible assumption
    | with_reducible exact subM (by decide) hm
    | (extract_lets +onlyGivenNames x; first | (refine (fun hx => ?_ : State.OnlyM s0 m x → _) ?_; (on_goal 1 => clear_value x); (on_goal 2 => subst x)) | clear_value x)
    | (with_reducible first | apply State.updLeg_only | apply State.updSess_only)
    | with_reducible exact fun _ h => h
    | split
    | (fail_if_no_progress beta_reduce)

theorem State.legSelect_only {m : Nat} {s0 s : State} (h : s0.OnlyM m s) (hm : 2 ||| m = m) :
    s0.OnlyM m (State.legSelect s) := by
  unfold State.legSelect
  repeat' first
    | (intro _)
    | with_reducible assumption
    | with_reducible exact subM (by decide) hm
    | (extract_lets +onlyGivenNames x; first | (refine (fun hx => ?_ : State.OnlyM s0 m x → _) ?_; (on_goal 1 => clear_value x); (on_goal 2 => subst x)) | clear_value x)
    | (with_reducible first | apply State.setFlag_only | apply State.setFld_only)
    | with_reducible exact fun _ h => h
    | split

theorem State.recRegs_only {m : Nat} {s0 s : State} (h : s0.OnlyM m s) (hm : 2 ||| m = m) :
    s0.OnlyM m (State.recRegs s) := by
  unfold State.recRegs
  repeat' first
    | (intro _)
    | with_reducible assumption
    | with_reducible exact subM (by decide) hm
    | (with_reducible first | apply State.setFlag_only | apply State.setSat_only)
    | with_reducible exact fun _ h => h
    | split

theorem State.signRecord_only {m : Nat} {s0 s : State} (h : s0.OnlyM m s) (hm : 33806 ||| m = m) (n : Nat) (ok : Bool) :
    s0.OnlyM m (State.signRecord s n ok) := by
  unfold State.signRecord
  repeat' first
    | (intro _)
    | with_reducible assumption
    | with_reducible exact subM (by decide) hm
    | (extract_lets +onlyGivenNames x; first | (refine (fun hx => ?_ : State.OnlyM s0 m x → _) ?_; (on_goal 1 => clear_value x); (on_goal 2 => subst x)) | clear_value x)
    | (with_reducible first | apply State.updLeg_only | apply State.iff_only | apply State.recRegs_only | apply State.startTimer_only | apply State.inc_only | apply State.stopTimer_only | apply State.event_only | apply State.jobRefused_only)
    | with_reducible exact fun _ h => h
    | split

theorem execRecordSigned_only (s : State) (ok : Bool) :
    State.OnlyOut s 33806 (execRecordSigned ok s) := by
  have hm : 33806 ||| 33806 = 33806 := rfl
  have h : State.OnlyM s 33806 s := State.OnlyM.refl _ _
  unfold execRecordSigned
  first | apply State.live_only | apply next_only
  repeat' first
    | (intro _)
    | with_reducible assumption
    | with_reducible exact subM (by decide) hm
    | (with_reducible first | apply State.signRecord_only)
    | with_reducible exact fun _ h => h
    | split

theorem execSigningRetry_only (s : State) (rec_ : Nat) (ok : Bool) :
    State.OnlyOut s 33806 (execSigningRetry rec_ ok s) := by
  have hm : 33806 ||| 33806 = 33806 := rfl
  have h : State.OnlyM s 33806 s := State.OnlyM.refl _ _
  unfold execSigningRetry
  first | apply State.live_only | apply next_only
  repeat' first
    | (intro _)
    | with_reducible assumption
    | with_reducible exact subM (by decide) hm
    | (with_reducible first | apply State.signRecord_only)
    | with_reducible exact fun _ h => h
    | split

theorem State.recConsumed_only {m : Nat} {s0 s : State} (h : s0.OnlyM m s) (hm : 32770 ||| m = m) (n : Nat) (ocmf : Bool) :
    s0.OnlyM m (State.recConsumed s n ocmf) := by
  unfold State.recConsumed
  repeat' first
    | (intro _)
    | with_reducible assumption
    | with_reducible exact subM (by decide) hm
    | (extract_lets +onlyGivenNames x; first | (refine (fun hx => ?_ : State.OnlyM s0 m x → _) ?_; (on_goal 1 => clear_value x); (on_goal 2 => subst x)) | clear_value x)
    | (with_reducible first | apply State.updLeg_only | apply State.recRegs_only)
    | with_reducible exact fun _ h => h
    | split

theorem State.tokRefuse_only {m : Nat} {s0 s : State} (h : s0.OnlyM m s) (hm : 1038 ||| m = m) (j : Nat) (why : Nat) :
    s0.OnlyM m (State.tokRefuse s j why) := by
  unfold State.tokRefuse
  repeat' first
    | (intro _)
    | with_reducible assumption
    | with_reducible exact subM (by decide) hm
    | (extract_lets +onlyGivenNames x; first | (refine (fun hx => ?_ : State.OnlyM s0 m x → _) ?_; (on_goal 1 => clear_value x); (on_goal 2 => subst x)) | clear_value x)
    | (with_reducible first | apply State.setFlag_only | apply State.startTimer_only | apply State.inc_only | apply State.event_only)
    | with_reducible exact fun _ h => h
    | split

theorem State.tokValidate_only {m : Nat} {s0 s : State} (h : s0.OnlyM m s) (hm : 37902 ||| m = m) (j : Nat) (digits : List Nat) :
    s0.OnlyM m (State.tokValidate s j digits) := by
  unfold State.tokValidate
  repeat' first
    | (intro _)
    | with_reducible assumption
    | with_reducible exact subM (by decide) hm
    | (extract_lets +onlyGivenNames x; first | (refine (fun hx => ?_ : State.OnlyM s0 m x → _) ?_; (on_goal 1 => clear_value x); (on_goal 2 => subst x)) | clear_value x)
    | (with_reducible first | apply State.tokSettle_only | apply State.updLeg_only | apply State.setFld_only | apply State.tokRefuse_only | apply State.event_only)
    | with_reducible exact fun _ h => h
    | split

theorem execTokenLockExpiry_only (s : State) :
    State.OnlyOut s 10 (execTokenLockExpiry s) := by
  have hm : 10 ||| 10 = 10 := rfl
  have h : State.OnlyM s 10 s := State.OnlyM.refl _ _
  unfold execTokenLockExpiry
  first | apply State.live_only | apply next_only
  repeat' first
    | (intro _)
    | with_reducible assumption
    | with_reducible exact subM (by decide) hm
    | (with_reducible first | apply State.setFlag_only | apply State.setFld_only | apply State.stopTimer_only)
    | with_reducible exact fun _ h => h
    | split

end Sys2Proof.Machine
end

