-- ==== Sys2Proof/Laws/OnlyLaw.lean ====
section
/-!
SUPPORT. The parts of the state that the operations and commands of Machine/Law.lean change.
-/

set_option linter.all false

namespace Sys2Proof.Machine

open Sys2Proof

theorem State.lawStart_only {m : Nat} {s0 s : State} (h : s0.OnlyM m s) (hm : 1030 ||| m = m) (c : Nat) (img : LawImage) :
    s0.OnlyM m (State.lawStart s c img) := by
  unfold State.lawStart
  repeat' first
    | (intro _)
    | with_reducible assumption
    | with_reducible exact subM (by decide) hm
    | (extract_lets +onlyGivenNames x; first | (refine (fun hx => ?_ : State.OnlyM s0 m x → _) ?_; (on_goal 1 => clear_value x); (on_goal 2 => subst x)) | clear_value x)
    | (with_reducible first | apply State.updCe_only | apply State.setFld_only | apply State.event_only | apply State.setSat_only | apply id_only)
    | with_reducible exact fun _ h => h
    | split
    | (fail_if_no_progress beta_reduce)

theorem State.lawLoad_only {m : Nat} {s0 s : State} (h : s0.OnlyM m s) (hm : 1030 ||| m = m) (c : Nat) (o : Option LawImage) :
    s0.OnlyM m (State.lawLoad s c o) := by
  unfold State.lawLoad
  repeat' first
    | (intro _)
    | with_reducible assumption
    | with_reducible exact subM (by decide) hm
    | (extract_lets +onlyGivenNames x; first | (refine (fun hx => ?_ : State.OnlyM s0 m x → _) ?_; (on_goal 1 => clear_value x); (on_goal 2 => subst x)) | clear_value x)
    | (with_reducible first | apply State.setFld_only | apply State.updCe_only | apply State.lawStart_only | apply State.event_only)
    | with_reducible exact fun _ h => h
    | split

theorem State.lawCheck_only {m : Nat} {s0 s : State} (h : s0.OnlyM m s) (hm : 1030 ||| m = m) (c : Nat) (cfSel : Nat) (long : Bool) :
    s0.OnlyM m (State.lawCheck s c cfSel long).1 := by
  unfold State.lawCheck
  repeat' first
    | (intro _)
    | with_reducible assumption
    | with_reducible exact subM (by decide) hm
    | (extract_lets +onlyGivenNames x; first | clear_value x)
    | (with_reducible first | apply State.updCe_only | apply State.event_only)
    | with_reducible exact fun _ h => h
    | split

theorem State.copyCv_only {m : Nat} {s0 s : State} (h : s0.OnlyM m s) (hm : 1024 ||| m = m) (c : Nat) :
    s0.OnlyM m (State.copyCv s c) := by
  unfold State.copyCv
  repeat' first
    | (intro _)
    | with_reducible assumption
    | with_reducible exact subM (by decide) hm
    | (extract_lets +onlyGivenNames x; first | clear_value x)
    | (with_reducible first | apply State.updCe_only)
    | with_reducible exact fun _ h => h
    | split

theorem State.assignLanes_only {m : Nat} {s0 s : State} (h : s0.OnlyM m s) (hm : 1024 ||| m = m) (c : Nat) :
    s0.OnlyM m (State.assignLanes s c) := by
  unfold State.assignLanes
  repeat' first
    | (intro _)
    | with_reducible assumption
    | with_reducible exact subM (by decide) hm
    | (extract_lets +onlyGivenNames x; first | clear_value x)
    | (with_reducible first | apply State.updCe_only)
    | with_reducible exact fun _ h => h
    | split

theorem State.ceCommitApply_only {m : Nat} {s0 s : State} (h : s0.OnlyM m s) (hm : 1030 ||| m = m) (c : Nat) :
    s0.OnlyM m (State.ceCommitApply s c) := by
  unfold State.ceCommitApply
  repeat' first
    | (intro _)
    | with_reducible assumption
    | with_reducible exact subM (by decide) hm
    | (extract_lets +onlyGivenNames x; first | (refine (fun hx => ?_ : State.OnlyM s0 m x → _) ?_; (on_goal 1 => clear_value x); (on_goal 2 => subst x)) | clear_value x)
    | (with_reducible first | apply State.setSat_only | apply State.setFld_only | apply State.updCe_only | apply State.assignLanes_only | apply State.copyCv_only | apply State.lawStart_only)
    | with_reducible exact fun _ h => h
    | split

theorem State.updOl_only {m : Nat} {s0 s : State} (h : s0.OnlyM m s) (hm : 1024 ||| m = m) (c : Nat) (l : Nat) (f : OutLane → OutLane) :
    s0.OnlyM m (State.updOl s c l f) := by
  unfold State.updOl
  repeat' first
    | (intro _)
    | with_reducible assumption
    | with_reducible exact subM (by decide) hm
    | (with_reducible first | apply State.updCe_only)
    | with_reducible exact fun _ h => h
    | split

theorem State.genTick_only {m : Nat} {s0 s : State} (h : s0.OnlyM m s) (hm : 1024 ||| m = m) (c : Nat) (l : Nat) :
    s0.OnlyM m (State.genTick s c l) := by
  unfold State.genTick
  repeat' first
    | (intro _)
    | with_reducible assumption
    | with_reducible exact subM (by decide) hm
    | (extract_lets +onlyGivenNames x; first | clear_value x)
    | (with_reducible first | apply State.updOl_only)
    | with_reducible exact fun _ h => h
    | split

theorem State.genStep_only {m : Nat} {s0 s : State} (h : s0.OnlyM m s) (hm : 1024 ||| m = m) (c : Nat) (l : Nat) (j : Nat) (pause : Bool) (enter : Bool) :
    s0.OnlyM m (State.genStep s c l j pause enter) := by
  unfold State.genStep
  repeat' first
    | (intro _)
    | with_reducible assumption
    | with_reducible exact subM (by decide) hm
    | (extract_lets +onlyGivenNames x; first | (refine (fun hx => ?_ : State.OnlyM s0 m x → _) ?_; (on_goal 1 => clear_value x); (on_goal 2 => subst x)) | clear_value x)
    | (with_reducible first | apply State.updOl_only)
    | with_reducible exact fun _ h => h
    | split
    | (fail_if_no_progress beta_reduce)

theorem State.weights_only {m : Nat} {s0 s : State} (h : s0.OnlyM m s) (hm : 1024 ||| m = m) (j : Nat) (mem : List Nat) (new : List Nat) :
    s0.OnlyM m (State.weights s j mem new) := by
  unfold State.weights
  repeat' first
    | (intro _)
    | with_reducible assumption
    | with_reducible exact subM (by decide) hm
    | (extract_lets +onlyGivenNames x; first | (refine (fun hx => ?_ : State.OnlyM s0 m x → _) ?_; (on_goal 1 => clear_value x); (on_goal 2 => subst x)) | clear_value x)
    | (with_reducible first | apply State.each_only | apply State.updBl_only | apply foldl_only)
    | with_reducible exact fun _ h => h
    | split
    | (fail_if_no_progress beta_reduce)

end Sys2Proof.Machine
end

