-- ==== Sys2Proof/Laws/OnlyMemCode.lean ====
section
/-!
SUPPORT. The parts of the state that the operations and commands of Machine/MemCode.lean change.
-/

set_option linter.all false

namespace Sys2Proof.Machine

open Sys2Proof


theorem State.updMem_only {m : Nat} {s0 s : State} (h : s0.OnlyM m s) (hm : 16777216 ||| m = m) (f : MemSt → MemSt) :
    s0.OnlyM m (State.updMem s f) := by
  unfold State.updMem
  repeat' first
    | (intro _)
    | with_reducible assumption
    | with_reducible exact subM (by decide) hm
    | split
    | (with_reducible apply State.mk_only; (rotate_left); all_goals first | with_reducible exact .inl rfl | exact .inr (bitM (by decide) hm) | skip)
    | with_reducible exact fun _ h => h
    | split

theorem State.updUnit_only {m : Nat} {s0 s : State} (h : s0.OnlyM m s) (hm : 16777216 ||| m = m) (a1 : Nat) (f : MemUnit → MemUnit) :
    s0.OnlyM m (State.updUnit s a1 f) := by
  unfold State.updUnit
  repeat' first
    | (intro _)
    | with_reducible assumption
    | with_reducible exact subM (by decide) hm
    | (with_reducible first | apply State.updMem_only)
    | with_reducible exact fun _ h => h
    | split

theorem State.poisRegs_only {m : Nat} {s0 s : State} (h : s0.OnlyM m s) (hm : 2 ||| m = m) (a1 : Nat) :
    s0.OnlyM m (State.poisRegs s a1) := by
  unfold State.poisRegs
  repeat' first
    | (intro _)
    | with_reducible assumption
    | with_reducible exact subM (by decide) hm
    | (extract_lets +onlyGivenNames x; first | clear_value x)
    | (with_reducible first | apply State.setReg_only | apply State.setSat_only)
    | with_reducible exact fun _ h => h
    | split

theorem State.poisonWords_only {m : Nat} {s0 s : State} (h : s0.OnlyM m s) (hm : 16777218 ||| m = m) (a1 : Nat) (ws : List Nat) :
    s0.OnlyM m (State.poisonWords s a1 ws) := by
  unfold State.poisonWords
  repeat' first
    | (intro _)
    | with_reducible assumption
    | with_reducible exact subM (by decide) hm
    | (with_reducible first | apply State.poisRegs_only | apply State.updMem_only)
    | with_reducible exact fun _ h => h
    | split

theorem State.memTrace_only {m : Nat} {s0 s : State} (h : s0.OnlyM m s) (hm : 2 ||| m = m) (a1 : Nat) (word : Nat) (syn : Word) :
    s0.OnlyM m (State.memTrace s a1 word syn) := by
  unfold State.memTrace
  repeat' first
    | (intro _)
    | with_reducible assumption
    | with_reducible exact subM (by decide) hm
    | (with_reducible first | apply State.setFld_only)
    | with_reducible exact fun _ h => h
    | split

theorem State.hardFault_only {m : Nat} {s0 s : State} (h : s0.OnlyM m s) (hm : 16778246 ||| m = m) (a1 : Nat) (tile : Nat) :
    s0.OnlyM m (State.hardFault s a1 tile) := by
  unfold State.hardFault
  repeat' first
    | (intro _)
    | with_reducible assumption
    | with_reducible exact subM (by decide) hm
    | (extract_lets +onlyGivenNames x; first | (refine (fun hx => ?_ : State.OnlyM s0 m x → _) ?_; (on_goal 1 => clear_value x); (on_goal 2 => subst x)) | clear_value x)
    | (with_reducible first | apply State.updMem_only | apply State.updUnit_only | apply State.inc_only | apply State.event_only)
    | with_reducible exact fun _ h => h
    | split

theorem State.noteCorrection_only {m : Nat} {s0 s : State} (h : s0.OnlyM m s) (hm : 16778246 ||| m = m) (a1 : Nat) (word : Nat) (syn : Word) :
    s0.OnlyM m (State.noteCorrection s a1 word syn) := by
  unfold State.noteCorrection
  repeat' first
    | (intro _)
    | with_reducible assumption
    | with_reducible exact subM (by decide) hm
    | (extract_lets +onlyGivenNames x; first | (refine (fun hx => ?_ : State.OnlyM s0 m x → _) ?_; (on_goal 1 => clear_value x); (on_goal 2 => subst x)) | clear_value x)
    | (with_reducible first | apply State.memTrace_only | apply State.inc_only | apply State.iff_only | apply State.event_only | apply State.updUnit_only)
    | with_reducible exact fun _ h => h
    | split
    | (fail_if_no_progress beta_reduce)

theorem State.writeBack_only {m : Nat} {s0 s : State} (h : s0.OnlyM m s) (hm : 16778246 ||| m = m) (a1 : Nat) (word : Nat) (t : MemTile) (stuck : Bool) :
    s0.OnlyM m (State.writeBack s a1 word t stuck) := by
  unfold State.writeBack
  repeat' first
    | (intro _)
    | with_reducible assumption
    | with_reducible exact subM (by decide) hm
    | (extract_lets +onlyGivenNames x; first | (refine (fun hx => ?_ : State.OnlyM s0 m x → _) ?_; (on_goal 1 => clear_value x); (on_goal 2 => subst x)) | clear_value x)
    | (with_reducible first | apply State.updMem_only | apply State.hardFault_only)
    | with_reducible exact fun _ h => h
    | split
    | (fail_if_no_progress beta_reduce)

theorem State.corrected_only {m : Nat} {s0 s : State} (h : s0.OnlyM m s) (hm : 16778246 ||| m = m) (a1 : Nat) (word : Nat) (syn : Word) (t : MemTile) (stuck : Bool) :
    s0.OnlyM m (State.corrected s a1 word syn t stuck) := by
  unfold State.corrected
  repeat' first
    | (intro _)
    | with_reducible assumption
    | with_reducible exact subM (by decide) hm
    | (extract_lets +onlyGivenNames x; first | (refine (fun hx => ?_ : State.OnlyM s0 m x → _) ?_; (on_goal 1 => clear_value x); (on_goal 2 => subst x)) | clear_value x)
    | (with_reducible first | apply State.noteCorrection_only | apply State.updMem_only | apply State.writeBack_only)
    | with_reducible exact fun _ h => h
    | split
    | (fail_if_no_progress beta_reduce)

theorem State.backAll_only {m : Nat} {s0 s : State} (h : s0.OnlyM m s) (hm : 16778246 ||| m = m) (a1 : Nat) :
    s0.OnlyM m (State.backAll s a1) := by
  unfold State.backAll
  repeat' first
    | (intro _)
    | with_reducible assumption
    | with_reducible exact subM (by decide) hm
    | (extract_lets +onlyGivenNames x; first | (refine (fun hx => ?_ : State.OnlyM s0 m x → _) ?_; (on_goal 1 => clear_value x); (on_goal 2 => subst x)) | clear_value x)
    | (with_reducible first | apply State.each_only | apply State.updMem_only | apply State.writeBack_only)
    | with_reducible exact fun _ h => h
    | split
    | (fail_if_no_progress beta_reduce)

end Sys2Proof.Machine
end

