-- ==== Sys2Proof/Laws/OnlyControlEngine.lean ====
section
/-!
SUPPORT. The parts of the state that the operations and commands of Machine/ControlEngine.lean change.
-/

set_option linter.all false

namespace Sys2Proof.Machine

open Sys2Proof

theorem State.takeFast_only {m : Nat} {s0 s : State} (h : s0.OnlyM m s) (hm : 1024 ||| m = m) (c : Nat) (l : Nat) (f : FastSample) :
    s0.OnlyM m (State.takeFast s c l f) := by
  unfold State.takeFast
  repeat' first
    | (intro _)
    | with_reducible assumption
    | with_reducible exact subM (by decide) hm
    | (extract_lets +onlyGivenNames x; first | (refine (fun hx => ?_ : State.OnlyM s0 m x → _) ?_; (on_goal 1 => clear_value x); (on_goal 2 => subst x)) | clear_value x)
    | (with_reducible first | apply State.updOl_only | apply foldl_only)
    | with_reducible exact fun _ h => h
    | split
    | (fail_if_no_progress beta_reduce)

theorem State.judgeBlock_only {m : Nat} {s0 s : State} (h : s0.OnlyM m s) (hm : 1030 ||| m = m) (c : Nat) (k : Nat) (n : Nat) :
    s0.OnlyM m (State.judgeBlock s c k n) := by
  unfold State.judgeBlock
  repeat' first
    | (intro _)
    | with_reducible assumption
    | with_reducible exact subM (by decide) hm
    | (extract_lets +onlyGivenNames x; first | (refine (fun hx => ?_ : State.OnlyM s0 m x → _) ?_; (on_goal 1 => clear_value x); (on_goal 2 => subst x)) | clear_value x)
    | (with_reducible first | apply State.iff_only | apply State.event_only | apply State.updCe_only | apply State.updBl_only)
    | with_reducible exact fun _ h => h
    | split
    | (fail_if_no_progress beta_reduce)

theorem State.setHw_only {m : Nat} {s0 s : State} (h : s0.OnlyM m s) (hm : 1024 ||| m = m) (c : Nat) (ks : List Word) :
    s0.OnlyM m (State.setHw s c ks) := by
  unfold State.setHw
  repeat' first
    | (intro _)
    | with_reducible assumption
    | with_reducible exact subM (by decide) hm
    | (extract_lets +onlyGivenNames x; first | clear_value x)
    | (with_reducible first | apply State.updCe_only)
    | with_reducible exact fun _ h => h
    | split

theorem State.outLaneWork_only {m : Nat} {s0 s : State} (h : s0.OnlyM m s) (hm : 1030 ||| m = m) (c : Nat) (l : Nat) (j : Nat) (was : Bool) (run : Bool) :
    s0.OnlyM m (State.outLaneWork s c l j was run) := by
  unfold State.outLaneWork
  repeat' first
    | (intro _)
    | with_reducible assumption
    | with_reducible exact subM (by decide) hm
    | (extract_lets +onlyGivenNames x; first | (refine (fun hx => ?_ : State.OnlyM s0 m x → _) ?_; (on_goal 1 => clear_value x); (on_goal 2 => subst x)) | clear_value x)
    | (with_reducible first | apply State.iff_only | apply State.updOl_only | apply State.event_only | apply State.genStep_only)
    | with_reducible exact fun _ h => h
    | split
    | (fail_if_no_progress beta_reduce)

theorem State.windowStart_only {m : Nat} {s0 s : State} (h : s0.OnlyM m s) (hm : 1286 ||| m = m) (c : Nat) (fast : List FastSample) :
    s0.OnlyM m (State.windowStart s c fast) := by
  unfold State.windowStart
  repeat' first
    | (intro _)
    | with_reducible assumption
    | with_reducible exact subM (by decide) hm
    | (extract_lets +onlyGivenNames x; first | (refine (fun hx => ?_ : State.OnlyM s0 m x → _) ?_; (on_goal 1 => clear_value x); (on_goal 2 => subst x)) | clear_value x)
    | (with_reducible first | apply State.missFrames_only | apply State.each_only | apply State.takeFast_only | apply State.judgeBlock_only | apply State.outLaneWork_only | apply State.updBl_only | apply State.iff_only | apply State.weights_only | apply State.setHw_only | apply State.updCe_only | apply State.setReg_only)
    | with_reducible exact fun _ h => h
    | split
    | (fail_if_no_progress beta_reduce)

theorem execCeWindowStart_only (s : State) (ce : Fin 2) (fast : List FastSample) :
    State.OnlyOut s 1286 (execCeWindowStart ce fast s) := by
  have hm : 1286 ||| 1286 = 1286 := rfl
  have h : State.OnlyM s 1286 s := State.OnlyM.refl _ _
  unfold execCeWindowStart
  first | apply State.live_only | apply next_only
  repeat' first
    | (intro _)
    | with_reducible assumption
    | with_reducible exact subM (by decide) hm
    | (with_reducible first | apply State.windowStart_only)
    | with_reducible exact fun _ h => h
    | split

theorem State.launchPrev_only {m : Nat} {s0 s : State} (h : s0.OnlyM m s) (hm : 256 ||| m = m) (n : Nat) (hold : Bool) :
    s0.OnlyM m (State.launchPrev s n hold) := by
  unfold State.launchPrev
  repeat' first
    | (intro _)
    | with_reducible assumption
    | with_reducible exact subM (by decide) hm
    | (extract_lets +onlyGivenNames x; first | clear_value x)
    | (with_reducible first | apply State.launch_only)
    | with_reducible exact fun _ h => h
    | split

theorem State.launchNew_only {m : Nat} {s0 s : State} (h : s0.OnlyM m s) (hm : 1280 ||| m = m) (c : Nat) (k : Nat) (n : Nat) :
    s0.OnlyM m (State.launchNew s c k n) := by
  unfold State.launchNew
  repeat' first
    | (intro _)
    | with_reducible assumption
    | with_reducible exact subM (by decide) hm
    | (extract_lets +onlyGivenNames x; first | clear_value x)
    | (with_reducible first | apply State.launch_only | apply State.updBl_only)
    | with_reducible exact fun _ h => h
    | split

theorem State.cupSample_only {m : Nat} {s0 s : State} (h : s0.OnlyM m s) (hm : 1030 ||| m = m) (c : Nat) (b : Nat) :
    s0.OnlyM m (State.cupSample s c b) := by
  unfold State.cupSample
  repeat' first
    | (intro _)
    | with_reducible assumption
    | with_reducible exact subM (by decide) hm
    | (extract_lets +onlyGivenNames x; first | (refine (fun hx => ?_ : State.OnlyM s0 m x → _) ?_; (on_goal 1 => clear_value x); (on_goal 2 => subst x)) | clear_value x)
    | (with_reducible first | apply State.updCup_only | apply State.iff_only | apply State.setFld_only | apply State.cupTrigger_only)
    | with_reducible exact fun _ h => h
    | split

theorem State.windowEnd_only {m : Nat} {s0 s : State} (h : s0.OnlyM m s) (hm : 16778630 ||| m = m) (c : Nat) :
    s0.OnlyM m (State.windowEnd s c) := by
  unfold State.windowEnd
  repeat' first
    | (intro _)
    | with_reducible assumption
    | with_reducible exact subM (by decide) hm
    | (extract_lets +onlyGivenNames x; first | (refine (fun hx => ?_ : State.OnlyM s0 m x → _) ?_; (on_goal 1 => clear_value x); (on_goal 2 => subst x)) | clear_value x)
    | (with_reducible first | apply State.backAll_only | apply State.updCe_only | apply State.iff_only | apply State.overrun_only | apply State.setSat_only | apply State.setFld_only | apply State.each_only | apply State.launch_only | apply State.launchPrev_only | apply State.launchNew_only | apply State.cupSample_only)
    | with_reducible exact fun _ h => h
    | split
    | (fail_if_no_progress beta_reduce)

theorem execCeWindowEnd_only (s : State) (ce : Fin 2) :
    State.OnlyOut s 16778630 (execCeWindowEnd ce s) := by
  have hm : 16778630 ||| 16778630 = 16778630 := rfl
  have h : State.OnlyM s 16778630 s := State.OnlyM.refl _ _
  unfold execCeWindowEnd
  first | apply State.live_only | apply next_only
  repeat' first
    | (intro _)
    | with_reducible assumption
    | with_reducible exact subM (by decide) hm
    | (with_reducible first | apply State.windowEnd_only)
    | with_reducible exact fun _ h => h
    | split

theorem State.failLane_only {m : Nat} {s0 s : State} (h : s0.OnlyM m s) (hm : 1280 ||| m = m) (c : Nat) (l : Nat) :
    s0.OnlyM m (State.failLane s c l) := by
  unfold State.failLane
  repeat' first
    | (intro _)
    | with_reducible assumption
    | with_reducible exact subM (by decide) hm
    | (extract_lets +onlyGivenNames x; first | (refine (fun hx => ?_ : State.OnlyM s0 m x → _) ?_; (on_goal 1 => clear_value x); (on_goal 2 => subst x)) | clear_value x)
    | (with_reducible first | apply State.sendCmd_only | apply State.each_only | apply State.dropK1_only | apply State.updOl_only)
    | with_reducible exact fun _ h => h
    | split

theorem State.failAll_only {m : Nat} {s0 s : State} (h : s0.OnlyM m s) (hm : 1280 ||| m = m) (c : Nat) :
    s0.OnlyM m (State.failAll s c) := by
  unfold State.failAll
  repeat' first
    | (intro _)
    | with_reducible assumption
    | with_reducible exact subM (by decide) hm
    | (with_reducible first | apply State.each_only | apply State.failLane_only)
    | with_reducible exact fun _ h => h
    | split

theorem execThirdLawOverrun_only (s : State) (ce : Fin 2) :
    State.OnlyOut s 1286 (execThirdLawOverrun ce s) := by
  have hm : 1286 ||| 1286 = 1286 := rfl
  have h : State.OnlyM s 1286 s := State.OnlyM.refl _ _
  unfold execThirdLawOverrun
  first | apply State.live_only | apply next_only
  repeat' first
    | (intro _)
    | with_reducible assumption
    | with_reducible exact subM (by decide) hm
    | (with_reducible first | apply State.updCe_only | apply State.failAll_only | apply State.event_only)
    | with_reducible exact fun _ h => h
    | split

theorem State.ceHalt_only {m : Nat} {s0 s : State} (h : s0.OnlyM m s) (hm : 1286 ||| m = m) (c : Nat) :
    s0.OnlyM m (State.ceHalt s c) := by
  unfold State.ceHalt
  repeat' first
    | (intro _)
    | with_reducible assumption
    | with_reducible exact subM (by decide) hm
    | (with_reducible first | apply State.setFld_only | apply State.updCe_only | apply State.failAll_only | apply State.event_only)
    | with_reducible exact fun _ h => h
    | split

theorem execOutputFeedbackLost_only (s : State) (ce : Fin 2) (lane : Fin 4) :
    State.OnlyOut s 1286 (execOutputFeedbackLost ce lane s) := by
  have hm : 1286 ||| 1286 = 1286 := rfl
  have h : State.OnlyM s 1286 s := State.OnlyM.refl _ _
  unfold execOutputFeedbackLost
  first | apply State.live_only | apply next_only
  repeat' first
    | (intro _)
    | with_reducible assumption
    | with_reducible exact subM (by decide) hm
    | (with_reducible first | apply State.failLane_only | apply State.event_only)
    | with_reducible exact fun _ h => h
    | split

theorem execFrozenFeedback_only (s : State) (ce : Fin 2) (lane : Fin 28) :
    State.OnlyOut s 3342 (execFrozenFeedback ce lane s) := by
  have hm : 3342 ||| 3342 = 3342 := rfl
  have h : State.OnlyM s 3342 s := State.OnlyM.refl _ _
  unfold execFrozenFeedback
  first | apply State.live_only | apply State.liveOn_only | apply next_only
  repeat' first
    | (intro _)
    | with_reducible assumption
    | with_reducible exact subM (by decide) hm
    | (extract_lets +onlyGivenNames x; first | (refine (fun hx => ?_ : State.OnlyM s 3342 x → _) ?_; (on_goal 1 => clear_value x); (on_goal 2 => subst x)) | clear_value x)
    | (with_reducible first | apply State.updBl_only | apply State.moveDrop_only | apply State.dropK1_only | apply State.sendCmd_only | apply State.event_only | apply State.setFld_only | apply State.updOl_only | apply State.failLane_only)
    | with_reducible exact fun _ h => h
    | split
    | (fail_if_no_progress beta_reduce)

theorem State.hostSwap_only {m : Nat} {s0 s : State} (h : s0.OnlyM m s) (hm : 1030 ||| m = m) (c : Nat) :
    s0.OnlyM m (State.hostSwap s c) := by
  unfold State.hostSwap
  repeat' first
    | (intro _)
    | with_reducible assumption
    | with_reducible exact subM (by decide) hm
    | (with_reducible first | apply State.setFlag_only | apply State.event_only)
    | with_reducible exact fun _ h => h
    | split

theorem execSwap_only (s : State) (ce : Fin 2) :
    State.OnlyOut s 1030 (execSwap ce s) := by
  have hm : 1030 ||| 1030 = 1030 := rfl
  have h : State.OnlyM s 1030 s := State.OnlyM.refl _ _
  unfold execSwap
  first | apply State.live_only | apply next_only
  repeat' first
    | (intro _)
    | with_reducible assumption
    | with_reducible exact subM (by decide) hm
    | (with_reducible first | apply State.hostSwap_only)
    | with_reducible exact fun _ h => h
    | split

theorem execCoefSwapApply_only (s : State) (ce : Fin 2) :
    State.OnlyOut s 1030 (execCoefSwapApply ce s) := by
  have hm : 1030 ||| 1030 = 1030 := rfl
  have h : State.OnlyM s 1030 s := State.OnlyM.refl _ _
  unfold execCoefSwapApply
  first | apply State.live_only | apply next_only
  repeat' first
    | (intro _)
    | with_reducible assumption
    | with_reducible exact subM (by decide) hm
    | (with_reducible first | apply State.setFlag_only | apply State.updCe_only | apply State.copyCv_only | apply State.event_only)
    | with_reducible exact fun _ h => h
    | split

theorem State.cupArm_only {m : Nat} {s0 s : State} (h : s0.OnlyM m s) (hm : 1026 ||| m = m) (c : Nat) (b : Nat) :
    s0.OnlyM m (State.cupArm s c b) := by
  unfold State.cupArm
  repeat' first
    | (intro _)
    | with_reducible assumption
    | with_reducible exact subM (by decide) hm
    | (extract_lets +onlyGivenNames x; first | (refine (fun hx => ?_ : State.OnlyM s0 m x → _) ?_; (on_goal 1 => clear_value x); (on_goal 2 => subst x)) | clear_value x)
    | (with_reducible first | apply State.updCup_only | apply State.setFlag_only | apply State.setFld_only)
    | with_reducible exact fun _ h => h
    | split

theorem execCupArm_only (s : State) (ce : Fin 2) (buf : Fin 8) :
    State.OnlyOut s 1026 (execCupArm ce buf s) := by
  have hm : 1026 ||| 1026 = 1026 := rfl
  have h : State.OnlyM s 1026 s := State.OnlyM.refl _ _
  unfold execCupArm
  first | apply State.live_only | apply next_only
  repeat' first
    | (intro _)
    | with_reducible assumption
    | with_reducible exact subM (by decide) hm
    | (with_reducible first | apply State.cupArm_only)
    | with_reducible exact fun _ h => h
    | split

theorem State.cupMode_only {m : Nat} {s0 s : State} (h : s0.OnlyM m s) (hm : 2 ||| m = m) (c : Nat) (b : Nat) :
    s0.OnlyM m (State.cupMode s c b) := by
  unfold State.cupMode
  repeat' first
    | (intro _)
    | with_reducible assumption
    | with_reducible exact subM (by decide) hm
    | (with_reducible first | apply State.setFlag_only | apply State.setFld_only)
    | with_reducible exact fun _ h => h
    | split

theorem State.cupHostTrig_only {m : Nat} {s0 s : State} (h : s0.OnlyM m s) (hm : 1030 ||| m = m) (c : Nat) (b : Nat) :
    s0.OnlyM m (State.cupHostTrig s c b) := by
  unfold State.cupHostTrig
  repeat' first
    | (intro _)
    | with_reducible assumption
    | with_reducible exact subM (by decide) hm
    | (with_reducible first | apply State.iff_only | apply State.cupTrigger_only)
    | with_reducible exact fun _ h => h
    | split

theorem execCupTrig_only (s : State) (ce : Fin 2) (buf : Fin 8) :
    State.OnlyOut s 1030 (execCupTrig ce buf s) := by
  have hm : 1030 ||| 1030 = 1030 := rfl
  have h : State.OnlyM s 1030 s := State.OnlyM.refl _ _
  unfold execCupTrig
  first | apply State.live_only | apply next_only
  repeat' first
    | (intro _)
    | with_reducible assumption
    | with_reducible exact subM (by decide) hm
    | (with_reducible first | apply State.cupHostTrig_only)
    | with_reducible exact fun _ h => h
    | split

theorem execCupDone_only (s : State) (ce : Fin 2) (buf : Fin 8) :
    State.OnlyOut s 1030 (execCupDone ce buf s) := by
  have hm : 1030 ||| 1030 = 1030 := rfl
  have h : State.OnlyM s 1030 s := State.OnlyM.refl _ _
  unfold execCupDone
  first | apply State.live_only | apply next_only
  repeat' first
    | (intro _)
    | with_reducible assumption
    | with_reducible exact subM (by decide) hm
    | (extract_lets +onlyGivenNames x; first | (refine (fun hx => ?_ : State.OnlyM s 1030 x → _) ?_; (on_goal 1 => clear_value x); (on_goal 2 => subst x)) | clear_value x)
    | (with_reducible first | apply State.updCup_only | apply State.setFlag_only | apply State.setFld_only | apply State.event_only)
    | with_reducible exact fun _ h => h
    | split

theorem execCupStreamRecord_only (s : State) (ce : Fin 2) (buf : Fin 8) :
    State.OnlyOut s 1030 (execCupStreamRecord ce buf s) := by
  have hm : 1030 ||| 1030 = 1030 := rfl
  have h : State.OnlyM s 1030 s := State.OnlyM.refl _ _
  unfold execCupStreamRecord
  first | apply State.live_only | apply next_only
  repeat' first
    | (intro _)
    | with_reducible assumption
    | with_reducible exact subM (by decide) hm
    | (extract_lets +onlyGivenNames x; first | (refine (fun hx => ?_ : State.OnlyM s 1030 x → _) ?_; (on_goal 1 => clear_value x); (on_goal 2 => subst x)) | clear_value x)
    | (with_reducible first | apply State.updCup_only | apply State.iff_only | apply State.inc_only | apply State.event_only)
    | with_reducible exact fun _ h => h
    | split

theorem State.cupRecordSent_only {m : Nat} {s0 s : State} (h : s0.OnlyM m s) (hm : 1026 ||| m = m) (c : Nat) (b : Nat) :
    s0.OnlyM m (State.cupRecordSent s c b) := by
  unfold State.cupRecordSent
  repeat' first
    | (intro _)
    | with_reducible assumption
    | with_reducible exact subM (by decide) hm
    | (extract_lets +onlyGivenNames x; first | (refine (fun hx => ?_ : State.OnlyM s0 m x → _) ?_; (on_goal 1 => clear_value x); (on_goal 2 => subst x)) | clear_value x)
    | (with_reducible first | apply State.updCup_only | apply State.iff_only | apply State.cupArm_only)
    | with_reducible exact fun _ h => h
    | split

theorem State.takeMaps_only {m : Nat} {s0 s : State} (h : s0.OnlyM m s) (hm : 1024 ||| m = m) (c : Nat) :
    s0.OnlyM m (State.takeMaps s c) := by
  unfold State.takeMaps
  repeat' first
    | (intro _)
    | with_reducible assumption
    | with_reducible exact subM (by decide) hm
    | (extract_lets +onlyGivenNames x; first | clear_value x)
    | (with_reducible first | apply State.updCe_only)
    | with_reducible exact fun _ h => h
    | split

theorem State.ceTick_only {m : Nat} {s0 s : State} (h : s0.OnlyM m s) (hm : 1024 ||| m = m) (c : Nat) :
    s0.OnlyM m (State.ceTick s c) := by
  unfold State.ceTick
  repeat' first
    | (intro _)
    | with_reducible assumption
    | with_reducible exact subM (by decide) hm
    | (extract_lets +onlyGivenNames x; first | (refine (fun hx => ?_ : State.OnlyM s0 m x → _) ?_; (on_goal 1 => clear_value x); (on_goal 2 => subst x)) | clear_value x)
    | (with_reducible first | apply State.genTick_only | apply State.takeMaps_only | apply State.updCe_only | apply State.each_only)
    | with_reducible exact fun _ h => h
    | split

theorem State.ceSfProgram_only {m : Nat} {s0 s : State} (h : s0.OnlyM m s) (hm : 3086 ||| m = m) (c : Nat) :
    s0.OnlyM m (State.ceSfProgram s c) := by
  unfold State.ceSfProgram
  repeat' first
    | (intro _)
    | with_reducible assumption
    | with_reducible exact subM (by decide) hm
    | (extract_lets +onlyGivenNames x; first | (refine (fun hx => ?_ : State.OnlyM s0 m x → _) ?_; (on_goal 1 => clear_value x); (on_goal 2 => subst x)) | clear_value x)
    | (with_reducible first | apply State.each_only | apply State.iff_only | apply State.coolStep_only | apply State.derateStep_only | apply State.updSh_only | apply State.updOl_only)
    | with_reducible exact fun _ h => h
    | split
    | (fail_if_no_progress beta_reduce)

end Sys2Proof.Machine
end

