-- ==== Sys2Proof/Laws/OnlyRings.lean ====
section
/-!
SUPPORT. The parts of the state that the operations and commands of Machine/Rings.lean change.
-/

set_option linter.all false

namespace Sys2Proof.Machine

open Sys2Proof

theorem State.updHost_only {m : Nat} {s0 s : State} (h : s0.OnlyM m s) (hm : 4194304 ||| m = m) (f : HostSt → HostSt) :
    s0.OnlyM m (State.updHost s f) := by
  unfold State.updHost
  repeat' first
    | (intro _)
    | with_reducible assumption
    | with_reducible exact subM (by decide) hm
    | split
    | (with_reducible apply State.mk_only; (rotate_left); all_goals first | with_reducible exact .inl rfl | exact .inr (bitM (by decide) hm) | skip)
    | with_reducible exact fun _ h => h
    | split

theorem State.updRing_only {m : Nat} {s0 s : State} (h : s0.OnlyM m s) (hm : 4194304 ||| m = m) (n : Nat) (f : RingSt → RingSt) :
    s0.OnlyM m (State.updRing s n f) := by
  unfold State.updRing
  repeat' first
    | (intro _)
    | with_reducible assumption
    | with_reducible exact subM (by decide) hm
    | (with_reducible first | apply State.updHost_only)
    | with_reducible exact fun _ h => h
    | split

theorem State.hrRegs_only {m : Nat} {s0 s : State} (h : s0.OnlyM m s) (hm : 2 ||| m = m) (n : Nat) :
    s0.OnlyM m (State.hrRegs s n) := by
  unfold State.hrRegs
  repeat' first
    | (intro _)
    | with_reducible assumption
    | with_reducible exact subM (by decide) hm
    | (extract_lets +onlyGivenNames x; first | clear_value x)
    | (with_reducible first | apply State.setSat_only | apply State.setFld_only)
    | with_reducible exact fun _ h => h
    | split

theorem State.message_only {m : Nat} {s0 s : State} (h : s0.OnlyM m s) (hm : 4194304 ||| m = m) (v : Nat) :
    s0.OnlyM m (State.message s v) := by
  unfold State.message
  repeat' first
    | (intro _)
    | with_reducible assumption
    | with_reducible exact subM (by decide) hm
    | (extract_lets +onlyGivenNames x; first | (refine (fun hx => ?_ : State.OnlyM s0 m x → _) ?_; (on_goal 1 => clear_value x); (on_goal 2 => subst x)) | clear_value x)
    | (with_reducible first | apply State.updHost_only)
    | with_reducible exact fun _ h => h
    | split
    | (fail_if_no_progress beta_reduce)

theorem State.unmask_only {m : Nat} {s0 s : State} (h : s0.OnlyM m s) (hm : 4194304 ||| m = m) (v : Nat) :
    s0.OnlyM m (State.unmask s v) := by
  unfold State.unmask
  repeat' first
    | (intro _)
    | with_reducible assumption
    | with_reducible exact subM (by decide) hm
    | (extract_lets +onlyGivenNames x; first | (refine (fun hx => ?_ : State.OnlyM s0 m x → _) ?_; (on_goal 1 => clear_value x); (on_goal 2 => subst x)) | clear_value x)
    | (with_reducible first | apply State.updHost_only | apply State.iff_only | apply State.message_only)
    | with_reducible exact fun _ h => h
    | split
    | (fail_if_no_progress beta_reduce)

theorem State.signal_only {m : Nat} {s0 s : State} (h : s0.OnlyM m s) (hm : 4194304 ||| m = m) (n : Nat) :
    s0.OnlyM m (State.signal s n) := by
  unfold State.signal
  repeat' first
    | (intro _)
    | with_reducible assumption
    | with_reducible exact subM (by decide) hm
    | (extract_lets +onlyGivenNames x; first | (refine (fun hx => ?_ : State.OnlyM s0 m x → _) ?_; (on_goal 1 => clear_value x); (on_goal 2 => subst x)) | clear_value x)
    | (with_reducible first | apply State.iff_only | apply State.message_only | apply State.updRing_only)
    | with_reducible exact fun _ h => h
    | split

theorem State.statusBlock_only {m : Nat} {s0 s : State} (h : s0.OnlyM m s) (hm : 4194304 ||| m = m) (n : Nat) :
    s0.OnlyM m (State.statusBlock s n) := by
  unfold State.statusBlock
  repeat' first
    | (intro _)
    | with_reducible assumption
    | with_reducible exact subM (by decide) hm
    | (with_reducible first | apply State.iff_only | apply State.updRing_only)
    | with_reducible exact fun _ h => h
    | split

theorem State.setRing_only {m : Nat} {s0 s : State} (h : s0.OnlyM m s) (hm : 4195334 ||| m = m) (n : Nat) (st : Nat) :
    s0.OnlyM m (State.setRing s n st) := by
  unfold State.setRing
  repeat' first
    | (intro _)
    | with_reducible assumption
    | with_reducible exact subM (by decide) hm
    | (with_reducible first | apply State.setFld_only | apply State.statusBlock_only | apply State.signal_only | apply State.hrRegs_only | apply State.event_only)
    | with_reducible exact fun _ h => h
    | split

theorem State.haltRing_only {m : Nat} {s0 s : State} (h : s0.OnlyM m s) (hm : 4195334 ||| m = m) (n : Nat) (err : Nat) :
    s0.OnlyM m (State.haltRing s n err) := by
  unfold State.haltRing
  repeat' first
    | (intro _)
    | with_reducible assumption
    | with_reducible exact subM (by decide) hm
    | (with_reducible first | apply State.setFld_only | apply State.setRing_only | apply State.updRing_only | apply State.event_only)
    | with_reducible exact fun _ h => h
    | split

theorem State.updSlot_only {m : Nat} {s0 s : State} (h : s0.OnlyM m s) (hm : 4194304 ||| m = m) (n : Nat) (num : Nat) (f : JSlot → JSlot) :
    s0.OnlyM m (State.updSlot s n num f) := by
  unfold State.updSlot
  repeat' first
    | (intro _)
    | with_reducible assumption
    | with_reducible exact subM (by decide) hm
    | (with_reducible first | apply State.updRing_only)
    | with_reducible exact fun _ h => h
    | split

theorem State.completeWith_only {m : Nat} {s0 s : State} (h : s0.OnlyM m s) (hm : 4195342 ||| m = m) (n : Nat) (num : Nat) (status : Nat) (result : Nat) (data : List Byte) (held : Held) (cflags : Nat) :
    s0.OnlyM m (State.completeWith s n num status result data held cflags) := by
  unfold State.completeWith
  repeat' first
    | (intro _)
    | with_reducible assumption
    | with_reducible exact subM (by decide) hm
    | (extract_lets +onlyGivenNames x; first | (refine (fun hx => ?_ : State.OnlyM s0 m x → _) ?_; (on_goal 1 => clear_value x); (on_goal 2 => subst x)) | clear_value x)
    | (with_reducible first | apply State.updSlot_only | apply State.stopTimer_only | apply State.updRing_only | apply State.iff_only | apply State.inc_only | apply State.event_only)
    | with_reducible exact fun _ h => h
    | split
    | (fail_if_no_progress beta_reduce)

theorem State.complete_only {m : Nat} {s0 s : State} (h : s0.OnlyM m s) (hm : 4195342 ||| m = m) (n : Nat) (num : Nat) (status : Nat) (result : Nat) :
    s0.OnlyM m (State.complete s n num status result) := by
  unfold State.complete
  repeat' first
    | (intro _)
    | with_reducible assumption
    | with_reducible exact subM (by decide) hm
    | (with_reducible first | apply State.completeWith_only)
    | with_reducible exact fun _ h => h
    | split

theorem State.dmaError_only {m : Nat} {s0 s : State} (h : s0.OnlyM m s) (hm : 1030 ||| m = m) (n : Nat) :
    s0.OnlyM m (State.dmaError s n) := by
  unfold State.dmaError
  repeat' first
    | (intro _)
    | with_reducible assumption
    | with_reducible exact subM (by decide) hm
    | (extract_lets +onlyGivenNames x; first | (refine (fun hx => ?_ : State.OnlyM s0 m x → _) ?_; (on_goal 1 => clear_value x); (on_goal 2 => subst x)) | clear_value x)
    | (with_reducible first | apply State.inc_only | apply State.event_only)
    | with_reducible exact fun _ h => h
    | split
    | (fail_if_no_progress beta_reduce)

theorem State.dmaFail_only {m : Nat} {s0 s : State} (h : s0.OnlyM m s) (hm : 4195342 ||| m = m) (n : Nat) (num : Nat) :
    s0.OnlyM m (State.dmaFail s n num) := by
  unfold State.dmaFail
  repeat' first
    | (intro _)
    | with_reducible assumption
    | with_reducible exact subM (by decide) hm
    | (with_reducible first | apply State.complete_only | apply State.dmaError_only)
    | with_reducible exact fun _ h => h
    | split

theorem State.completeData_only {m : Nat} {s0 s : State} (h : s0.OnlyM m s) (hm : 4195342 ||| m = m) (n : Nat) (num : Nat) (result : Nat) (data : List Byte) (held : Held) :
    s0.OnlyM m (State.completeData s n num result data held) := by
  unfold State.completeData
  repeat' first
    | (intro _)
    | with_reducible assumption
    | with_reducible exact subM (by decide) hm
    | (with_reducible first | apply State.completeWith_only | apply State.complete_only)
    | with_reducible exact fun _ h => h
    | split

theorem State.ackN_only : ∀ (k : Nat) {m : Nat} {s0 s : State} (_ : s0.OnlyM m s) (hm : 4195342 ||| m = m) (n : Nat), s0.OnlyM m (State.ackN k s n)
  | 0, _, _, _, h, hm, _ => h
  | k + 1, m, s0, s, h, hm, n => by
    have ih := fun {s} h => @State.ackN_only  k m s0 s h hm
    unfold State.ackN
    repeat' first
      | (intro _)
      | with_reducible assumption
      | (extract_lets +onlyGivenNames x; first | (refine (fun hx => ?_ : State.OnlyM s0 m x → _) ?_; (on_goal 1 => clear_value x); (on_goal 2 => subst x)) | (refine (fun hx => ?_ : State.OnlyM s0 m x.1 → _) ?_; (on_goal 1 => clear_value x); (on_goal 2 => subst x)) | clear_value x)
      | (with_reducible first | apply ih | apply State.updRing_only (hm := subM (by decide) hm) | apply State.haltRing_only (hm := subM (by decide) hm) | apply State.setFld_only (hm := subM (by decide) hm) | apply State.updHost_only (hm := subM (by decide) hm) | apply State.setSat_only (hm := subM (by decide) hm) | apply State.complete_only (hm := subM (by decide) hm) | apply State.startTimer_only (hm := subM (by decide) hm) | apply State.hrRegs_only (hm := subM (by decide) hm) | apply State.iff_only | apply State.showIdx_only (hm := subM (by decide) hm))
      | with_reducible exact fun _ h => h
      | split

theorem State.acknowledge_only {m : Nat} {s0 s : State} (h : s0.OnlyM m s) (hm : 4195342 ||| m = m) (n : Nat) :
    s0.OnlyM m (State.acknowledge s n) := by
  unfold State.acknowledge
  repeat' first
    | (intro _)
    | with_reducible assumption
    | with_reducible exact subM (by decide) hm
    | (with_reducible first | apply State.statusBlock_only | apply State.hrRegs_only | apply State.ackN_only)
    | with_reducible exact fun _ h => h
    | split

theorem State.closeRing_only {m : Nat} {s0 s : State} (h : s0.OnlyM m s) (hm : 4195334 ||| m = m) (n : Nat) :
    s0.OnlyM m (State.closeRing s n) := by
  unfold State.closeRing
  repeat' first
    | (intro _)
    | with_reducible assumption
    | with_reducible exact subM (by decide) hm
    | (with_reducible first | apply State.iff_only | apply State.setRing_only | apply State.updRing_only)
    | with_reducible exact fun _ h => h
    | split

theorem State.takeTail_only {m : Nat} {s0 s : State} (h : s0.OnlyM m s) (hm : 4195342 ||| m = m) (n : Nat) (tail : Nat) (ds : List (Option Descr)) :
    s0.OnlyM m (State.takeTail s n tail ds) := by
  unfold State.takeTail
  repeat' first
    | (intro _)
    | with_reducible assumption
    | with_reducible exact subM (by decide) hm
    | (extract_lets +onlyGivenNames x; first | clear_value x)
    | (with_reducible first | apply State.haltRing_only | apply State.acknowledge_only | apply State.updRing_only)
    | with_reducible exact fun _ h => h
    | split

theorem execDbTail_only (s : State) (ring : Fin 64) (tail : Word) (descs : List (Option Descr)) :
    State.OnlyOut s 4195342 (execDbTail ring tail descs s) := by
  have hm : 4195342 ||| 4195342 = 4195342 := rfl
  have h : State.OnlyM s 4195342 s := State.OnlyM.refl _ _
  unfold execDbTail
  first | apply State.live_only | apply next_only
  repeat' first
    | (intro _)
    | with_reducible assumption
    | with_reducible exact subM (by decide) hm
    | (extract_lets +onlyGivenNames x; first | clear_value x)
    | (with_reducible first | apply State.takeTail_only | apply State.updRing_only)
    | with_reducible exact fun _ h => h
    | split

theorem State.release_only {m : Nat} {s0 s : State} (h : s0.OnlyM m s) (hm : 33794 ||| m = m) (a1 : Held) :
    s0.OnlyM m (State.release s a1) := by
  unfold State.release
  repeat' first
    | (intro _)
    | with_reducible assumption
    | with_reducible exact subM (by decide) hm
    | (with_reducible first | apply State.recConsumed_only | apply State.cupRecordSent_only)
    | with_reducible exact fun _ h => h
    | split

theorem State.resend_only {m : Nat} {s0 s : State} (h : s0.OnlyM m s) (hm : 4236288 ||| m = m) (n : Nat) (a2 : Held) :
    s0.OnlyM m (State.resend s n a2) := by
  unfold State.resend
  repeat' first
    | (intro _)
    | with_reducible assumption
    | with_reducible exact subM (by decide) hm
    | (extract_lets +onlyGivenNames x; first | clear_value x)
    | (with_reducible first | apply State.updCup_only | apply State.updLeg_only | apply State.updHost_only)
    | split
    | (with_reducible apply State.mk_only; (rotate_left); all_goals first | with_reducible exact .inl rfl | exact .inr (bitM (by decide) hm) | skip)
    | with_reducible exact fun _ h => h
    | split

theorem execCompletionDelivery_only (s : State) (ring : Fin 64) (ok : Bool) :
    State.OnlyOut s 4195342 (execCompletionDelivery ring ok s) := by
  have hm : 4195342 ||| 4195342 = 4195342 := rfl
  have h : State.OnlyM s 4195342 s := State.OnlyM.refl _ _
  unfold execCompletionDelivery
  first | apply State.live_only | apply State.liveOn_only | apply next_only
  repeat' first
    | (intro _)
    | with_reducible assumption
    | with_reducible exact subM (by decide) hm
    | (extract_lets +onlyGivenNames x; first | (refine (fun hx => ?_ : State.OnlyM s 4195342 x → _) ?_; (on_goal 1 => clear_value x); (on_goal 2 => subst x)) | clear_value x)
    | (with_reducible first | apply State.iff_only | apply State.event_only | apply State.inc_only | apply State.updRing_only | apply State.dmaError_only | apply State.statusBlock_only | apply State.setFld_only | apply State.hrRegs_only | apply State.closeRing_only | apply State.acknowledge_only | apply State.signal_only)
    | with_reducible exact fun _ h => h
    | split
    | (fail_if_no_progress beta_reduce)

theorem State.takeHead_only {m : Nat} {s0 s : State} (h : s0.OnlyM m s) (hm : 4228102 ||| m = m) (n : Nat) (head : Nat) :
    s0.OnlyM m (State.takeHead s n head) := by
  unfold State.takeHead
  repeat' first
    | (intro _)
    | with_reducible assumption
    | with_reducible exact subM (by decide) hm
    | (extract_lets +onlyGivenNames x; first | (refine (fun hx => ?_ : State.OnlyM s0 m x → _) ?_; (on_goal 1 => clear_value x); (on_goal 2 => subst x)) | clear_value x)
    | (with_reducible first | apply State.haltRing_only | apply State.setFld_only | apply State.updRing_only | apply State.each_only | apply State.release_only)
    | with_reducible exact fun _ h => h
    | split
    | (fail_if_no_progress beta_reduce)

theorem execDbChead_only (s : State) (ring : Fin 64) (head : Word) :
    State.OnlyOut s 4228102 (execDbChead ring head s) := by
  have hm : 4228102 ||| 4228102 = 4228102 := rfl
  have h : State.OnlyM s 4228102 s := State.OnlyM.refl _ _
  unfold execDbChead
  first | apply State.live_only | apply State.liveOn_only | apply next_only
  repeat' first
    | (intro _)
    | with_reducible assumption
    | with_reducible exact subM (by decide) hm
    | (extract_lets +onlyGivenNames x; first | (refine (fun hx => ?_ : State.OnlyM s 4228102 x → _) ?_; (on_goal 1 => clear_value x); (on_goal 2 => subst x)) | clear_value x)
    | (with_reducible first | apply State.takeHead_only | apply State.updRing_only)
    | with_reducible exact fun _ h => h
    | split
    | (fail_if_no_progress beta_reduce)

theorem execCoalesceTimeout_only (s : State) (ring : Fin 64) :
    State.OnlyOut s 4194304 (execCoalesceTimeout ring s) := by
  have hm : 4194304 ||| 4194304 = 4194304 := rfl
  have h : State.OnlyM s 4194304 s := State.OnlyM.refl _ _
  unfold execCoalesceTimeout
  first | apply State.live_only | apply State.liveOn_only | apply next_only
  repeat' first
    | (intro _)
    | with_reducible assumption
    | with_reducible exact subM (by decide) hm
    | (with_reducible first | apply State.signal_only)
    | with_reducible exact fun _ h => h
    | split

theorem execMsixUnmask_only (s : State) (vec : Fin 64) :
    State.OnlyOut s 4194304 (execMsixUnmask vec s) := by
  have hm : 4194304 ||| 4194304 = 4194304 := rfl
  have h : State.OnlyM s 4194304 s := State.OnlyM.refl _ _
  unfold execMsixUnmask
  first | apply State.live_only | apply State.liveOn_only | apply next_only
  repeat' first
    | (intro _)
    | with_reducible assumption
    | with_reducible exact subM (by decide) hm
    | (with_reducible first | apply State.unmask_only)
    | with_reducible exact fun _ h => h
    | split

theorem execDescriptorExpired_only (s : State) (ring : Fin 64) (didx : Nat) :
    State.OnlyOut s 4195342 (execDescriptorExpired ring didx s) := by
  have hm : 4195342 ||| 4195342 = 4195342 := rfl
  have h : State.OnlyM s 4195342 s := State.OnlyM.refl _ _
  unfold execDescriptorExpired
  first | apply State.live_only | apply next_only
  repeat' first
    | (intro _)
    | with_reducible assumption
    | with_reducible exact subM (by decide) hm
    | (with_reducible first | apply State.complete_only)
    | with_reducible exact fun _ h => h
    | split

theorem State.serve_only {m : Nat} {s0 s : State} (h : s0.OnlyM m s) (hm : 4195342 ||| m = m) (n : Nat) (t : Nat) (op : Nat) (f : JSlot → State → State) (hf : ∀ z0 z1, s0.OnlyM m z1 → s0.OnlyM m (f z0 z1)) :
    s0.OnlyM m (State.serve s n t op f) := by
  unfold State.serve
  repeat' first
    | (intro _)
    | with_reducible assumption
    | with_reducible exact subM (by decide) hm
    | (extract_lets +onlyGivenNames x; first | (refine (fun hx => ?_ : State.OnlyM s0 m x → _) ?_; (on_goal 1 => clear_value x); (on_goal 2 => subst x)) | clear_value x)
    | (with_reducible first | apply hf | apply State.complete_only | apply State.updHost_only | apply State.updSlot_only | apply State.stopTimer_only | apply State.touchRole_only | apply State.hrRegs_only | apply State.closeRing_only)
    | with_reducible exact fun _ h => h
    | split
    | (fail_if_no_progress beta_reduce)

theorem State.serveRecv_only {m : Nat} {s0 s : State} (h : s0.OnlyM m s) (hm : 4195342 ||| m = m) (n : Nat) (t : Nat) (waiting : Nat) (dma : Bool) (f : JSlot → State → State) (hf : ∀ z0 z1, s0.OnlyM m z1 → s0.OnlyM m (f z0 z1)) :
    s0.OnlyM m (State.serveRecv s n t waiting dma f) := by
  unfold State.serveRecv
  repeat' first
    | (intro _)
    | with_reducible assumption
    | with_reducible exact subM (by decide) hm
    | (with_reducible first | apply hf | apply State.iff_only | apply State.event_only | apply State.updRing_only | apply State.serve_only | apply State.dmaFail_only)
    | with_reducible exact fun _ h => h
    | split

theorem execRecvEvents_only (s : State) (ring : Fin 64) (dma : Bool) :
    State.OnlyOut s 4195342 (execRecvEvents ring dma s) := by
  have hm : 4195342 ||| 4195342 = 4195342 := rfl
  have h : State.OnlyM s 4195342 s := State.OnlyM.refl _ _
  unfold execRecvEvents
  first | apply State.live_only | apply State.liveOn_only | apply next_only
  repeat' first
    | (intro _)
    | with_reducible assumption
    | with_reducible exact subM (by decide) hm
    | (extract_lets +onlyGivenNames x; first | (refine (fun hx => ?_ : State.OnlyM s 4195342 x → _) ?_; (on_goal 1 => clear_value x); (on_goal 2 => subst x)) | clear_value x)
    | (with_reducible first | apply State.serveRecv_only | apply State.updHost_only | apply State.completeData_only)
    | with_reducible exact fun _ h => h
    | split
    | (fail_if_no_progress beta_reduce)

theorem execRecvRecord_only (s : State) (ring : Fin 64) (dma : Bool) :
    State.OnlyOut s 4236302 (execRecvRecord ring dma s) := by
  have hm : 4236302 ||| 4236302 = 4236302 := rfl
  have h : State.OnlyM s 4236302 s := State.OnlyM.refl _ _
  unfold execRecvRecord
  first | apply State.live_only | apply State.liveOn_only | apply next_only
  repeat' first
    | (intro _)
    | with_reducible assumption
    | with_reducible exact subM (by decide) hm
    | (extract_lets +onlyGivenNames x; first | (refine (fun hx => ?_ : State.OnlyM s 4236302 x → _) ?_; (on_goal 1 => clear_value x); (on_goal 2 => subst x)) | clear_value x)
    | (with_reducible first | apply State.serveRecv_only | apply State.updLeg_only | apply State.complete_only | apply State.resend_only | apply State.completeWith_only)
    | with_reducible exact fun _ h => h
    | split
    | (fail_if_no_progress beta_reduce)

theorem execRecvReq_only (s : State) (ring : Fin 64) (dma : Bool) :
    State.OnlyOut s 4203534 (execRecvReq ring dma s) := by
  have hm : 4203534 ||| 4203534 = 4203534 := rfl
  have h : State.OnlyM s 4203534 s := State.OnlyM.refl _ _
  unfold execRecvReq
  first | apply State.live_only | apply State.liveOn_only | apply next_only
  repeat' first
    | (intro _)
    | with_reducible assumption
    | with_reducible exact subM (by decide) hm
    | (extract_lets +onlyGivenNames x; first | (refine (fun hx => ?_ : State.OnlyM s 4203534 x → _) ?_; (on_goal 1 => clear_value x); (on_goal 2 => subst x)) | (have y : State → State := x; clear y; subst x) | (have y : State → _ → State := x; clear y; subst x) | (have y : _ → State → State := x; clear y; subst x) | (have y : _ → _ → State → State := x; clear y; subst x) | (have y : State → _ → _ → State := x; clear y; subst x) | (have y : State → _ → State × _ := x; clear y; subst x) | clear_value x)
    | (with_reducible first | apply State.serveRecv_only | apply State.complete_only | apply State.completeWith_only)
    | split
    | (with_reducible apply State.mk_only; (rotate_left); all_goals first | with_reducible exact .inl rfl | exact .inr (bitM (by decide) hm) | skip)
    | with_reducible exact fun _ h => h
    | split
    | (fail_if_no_progress beta_reduce)

theorem execRecvTrace_only (s : State) (ring : Fin 64) (dma : Bool) :
    State.OnlyOut s 4195342 (execRecvTrace ring dma s) := by
  have hm : 4195342 ||| 4195342 = 4195342 := rfl
  have h : State.OnlyM s 4195342 s := State.OnlyM.refl _ _
  unfold execRecvTrace
  first | apply State.live_only | apply State.liveOn_only | apply next_only
  repeat' first
    | (intro _)
    | with_reducible assumption
    | with_reducible exact subM (by decide) hm
    | (extract_lets +onlyGivenNames x; first | (refine (fun hx => ?_ : State.OnlyM s 4195342 x → _) ?_; (on_goal 1 => clear_value x); (on_goal 2 => subst x)) | clear_value x)
    | (with_reducible first | apply State.serveRecv_only | apply State.updCup_only | apply State.completeWith_only)
    | with_reducible exact fun _ h => h
    | split
    | (fail_if_no_progress beta_reduce)

theorem State.answerCert_only {m : Nat} {s0 s : State} (h : s0.OnlyM m s) (hm : 5134 ||| m = m) (j : Nat) (ok : Bool) (payload : List Byte) :
    s0.OnlyM m (State.answerCert s j ok payload) := by
  unfold State.answerCert
  repeat' first
    | (intro _)
    | with_reducible assumption
    | with_reducible exact subM (by decide) hm
    | (extract_lets +onlyGivenNames x; first | (refine (fun hx => ?_ : State.OnlyM s0 m x → _) ?_; (on_goal 1 => clear_value x); (on_goal 2 => subst x)) | clear_value x)
    | (with_reducible first | apply State.updVh_only | apply State.stopTimer_only | apply State.iff_only | apply State.event_only)
    | with_reducible exact fun _ h => h
    | split
    | (fail_if_no_progress beta_reduce)

theorem State.answerAuth_only {m : Nat} {s0 s : State} (h : s0.OnlyM m s) (hm : 46094 ||| m = m) (j : Nat) (ok : Bool) (unit : Nat) (limit : Nat) :
    s0.OnlyM m (State.answerAuth s j ok unit limit) := by
  unfold State.answerAuth
  repeat' first
    | (intro _)
    | with_reducible assumption
    | with_reducible exact subM (by decide) hm
    | (extract_lets +onlyGivenNames x; first | (refine (fun hx => ?_ : State.OnlyM s0 m x → _) ?_; (on_goal 1 => clear_value x); (on_goal 2 => subst x)) | clear_value x)
    | (with_reducible first | apply State.tokSettle_only | apply State.updVh_only | apply State.endNow_only | apply State.creditCheck_only | apply State.passAuth_only | apply State.event_only)
    | with_reducible exact fun _ h => h
    | split

theorem execAnswer_only (s : State) (ring : Fin 64) :
    State.OnlyOut s 4240398 (execAnswer ring s) := by
  have hm : 4240398 ||| 4240398 = 4240398 := rfl
  have h : State.OnlyM s 4240398 s := State.OnlyM.refl _ _
  unfold execAnswer
  first | apply State.live_only | apply State.liveOn_only | apply next_only
  repeat' first
    | (intro _)
    | with_reducible assumption
    | with_reducible exact subM (by decide) hm
    | (extract_lets +onlyGivenNames x; first | (refine (fun hx => ?_ : State.OnlyM s 4240398 x → _) ?_; (on_goal 1 => clear_value x); (on_goal 2 => subst x)) | (have y : State → State := x; clear y; subst x) | (have y : State → _ → State := x; clear y; subst x) | (have y : _ → State → State := x; clear y; subst x) | (have y : _ → _ → State → State := x; clear y; subst x) | (have y : State → _ → _ → State := x; clear y; subst x) | (have y : State → _ → State × _ := x; clear y; subst x) | clear_value x)
    | (with_reducible first | apply State.serve_only | apply State.complete_only | apply State.answerAuth_only | apply State.dmaFail_only | apply State.answerCert_only)
    | split
    | (with_reducible apply State.mk_only; (rotate_left); all_goals first | with_reducible exact .inl rfl | exact .inr (bitM (by decide) hm) | skip)
    | with_reducible exact fun _ h => h
    | split
    | (fail_if_no_progress beta_reduce)

theorem execStop_only (s : State) (ring : Fin 64) :
    State.OnlyOut s 4240398 (execStop ring s) := by
  have hm : 4240398 ||| 4240398 = 4240398 := rfl
  have h : State.OnlyM s 4240398 s := State.OnlyM.refl _ _
  unfold execStop
  first | apply State.live_only | apply next_only
  repeat' first
    | (intro _)
    | with_reducible assumption
    | with_reducible exact subM (by decide) hm
    | (extract_lets +onlyGivenNames x; first | clear_value x)
    | (with_reducible first | apply State.serve_only | apply State.hostStop_only | apply State.complete_only)
    | with_reducible exact fun _ h => h
    | split

theorem execPrice_only (s : State) (ring : Fin 64) (fits : Bool) :
    State.OnlyOut s 4199438 (execPrice ring fits s) := by
  have hm : 4199438 ||| 4199438 = 4199438 := rfl
  have h : State.OnlyM s 4199438 s := State.OnlyM.refl _ _
  unfold execPrice
  first | apply State.live_only | apply State.liveOn_only | apply next_only
  repeat' first
    | (intro _)
    | with_reducible assumption
    | with_reducible exact subM (by decide) hm
    | (extract_lets +onlyGivenNames x; first | (refine (fun hx => ?_ : State.OnlyM s 4199438 x → _) ?_; (on_goal 1 => clear_value x); (on_goal 2 => subst x)) | clear_value x)
    | (with_reducible first | apply State.serve_only | apply State.complete_only | apply State.dmaFail_only | apply State.updVh_only)
    | with_reducible exact fun _ h => h
    | split
    | (fail_if_no_progress beta_reduce)

theorem State.ringEnable_only {m : Nat} {s0 s : State} (h : s0.OnlyM m s) (hm : 4195334 ||| m = m) (n : Nat) :
    s0.OnlyM m (State.ringEnable s n) := by
  unfold State.ringEnable
  repeat' first
    | (intro _)
    | with_reducible assumption
    | with_reducible exact subM (by decide) hm
    | (with_reducible first | apply State.setRing_only | apply State.updRing_only)
    | with_reducible exact fun _ h => h
    | split

theorem State.ringDisable_only {m : Nat} {s0 s : State} (h : s0.OnlyM m s) (hm : 4195342 ||| m = m) (n : Nat) :
    s0.OnlyM m (State.ringDisable s n) := by
  unfold State.ringDisable
  repeat' first
    | (intro _)
    | with_reducible assumption
    | with_reducible exact subM (by decide) hm
    | (extract_lets +onlyGivenNames x; first | (refine (fun hx => ?_ : State.OnlyM s0 m x → _) ?_; (on_goal 1 => clear_value x); (on_goal 2 => subst x)) | clear_value x)
    | (with_reducible first | apply State.complete_only | apply State.each_only | apply State.hrRegs_only | apply State.closeRing_only | apply State.updRing_only)
    | with_reducible exact fun _ h => h
    | split

theorem State.ringResume_only {m : Nat} {s0 s : State} (h : s0.OnlyM m s) (hm : 4195342 ||| m = m) (n : Nat) :
    s0.OnlyM m (State.ringResume s n) := by
  unfold State.ringResume
  repeat' first
    | (intro _)
    | with_reducible assumption
    | with_reducible exact subM (by decide) hm
    | (extract_lets +onlyGivenNames x; first | (refine (fun hx => ?_ : State.OnlyM s0 m x → _) ?_; (on_goal 1 => clear_value x); (on_goal 2 => subst x)) | clear_value x)
    | (with_reducible first | apply State.updRing_only | apply State.each_only | apply State.completeWith_only | apply State.iff_only | apply State.event_only | apply State.setSat_only | apply State.setRing_only)
    | with_reducible exact fun _ h => h
    | split
    | (fail_if_no_progress beta_reduce)

theorem State.ringFlush_only {m : Nat} {s0 s : State} (h : s0.OnlyM m s) (hm : 4236302 ||| m = m) (n : Nat) :
    s0.OnlyM m (State.ringFlush s n) := by
  unfold State.ringFlush
  repeat' first
    | (intro _)
    | with_reducible assumption
    | with_reducible exact subM (by decide) hm
    | (extract_lets +onlyGivenNames x; first | (refine (fun hx => ?_ : State.OnlyM s0 m x → _) ?_; (on_goal 1 => clear_value x); (on_goal 2 => subst x)) | clear_value x)
    | (with_reducible first | apply State.each_only | apply State.resend_only | apply State.setFld_only | apply State.updRing_only | apply State.event_only | apply State.completeWith_only | apply State.iff_only | apply State.updSlot_only | apply State.setSat_only | apply State.hrRegs_only | apply State.setRing_only)
    | with_reducible exact fun _ h => h
    | split
    | (fail_if_no_progress beta_reduce)

theorem execEnable_only (s : State) (ring : Fin 64) :
    State.OnlyOut s 4195334 (execEnable ring s) := by
  have hm : 4195334 ||| 4195334 = 4195334 := rfl
  have h : State.OnlyM s 4195334 s := State.OnlyM.refl _ _
  unfold execEnable
  first | apply State.live_only | apply next_only
  repeat' first
    | (intro _)
    | with_reducible assumption
    | with_reducible exact subM (by decide) hm
    | (with_reducible first | apply State.ringEnable_only)
    | with_reducible exact fun _ h => h
    | split

theorem execDisable_only (s : State) (ring : Fin 64) :
    State.OnlyOut s 4195342 (execDisable ring s) := by
  have hm : 4195342 ||| 4195342 = 4195342 := rfl
  have h : State.OnlyM s 4195342 s := State.OnlyM.refl _ _
  unfold execDisable
  first | apply State.live_only | apply next_only
  repeat' first
    | (intro _)
    | with_reducible assumption
    | with_reducible exact subM (by decide) hm
    | (with_reducible first | apply State.ringDisable_only)
    | with_reducible exact fun _ h => h
    | split

theorem execResume_only (s : State) (ring : Fin 64) :
    State.OnlyOut s 4195342 (execResume ring s) := by
  have hm : 4195342 ||| 4195342 = 4195342 := rfl
  have h : State.OnlyM s 4195342 s := State.OnlyM.refl _ _
  unfold execResume
  first | apply State.live_only | apply next_only
  repeat' first
    | (intro _)
    | with_reducible assumption
    | with_reducible exact subM (by decide) hm
    | (with_reducible first | apply State.ringResume_only)
    | with_reducible exact fun _ h => h
    | split

theorem execFlush_only (s : State) (ring : Fin 64) :
    State.OnlyOut s 4236302 (execFlush ring s) := by
  have hm : 4236302 ||| 4236302 = 4236302 := rfl
  have h : State.OnlyM s 4236302 s := State.OnlyM.refl _ _
  unfold execFlush
  first | apply State.live_only | apply next_only
  repeat' first
    | (intro _)
    | with_reducible assumption
    | with_reducible exact subM (by decide) hm
    | (with_reducible first | apply State.ringFlush_only)
    | with_reducible exact fun _ h => h
    | split

theorem State.ringsRecover_only {m : Nat} {s0 s : State} (h : s0.OnlyM m s) (hm : 4195334 ||| m = m) (start : Bool) :
    s0.OnlyM m (State.ringsRecover s start) := by
  unfold State.ringsRecover
  repeat' first
    | (intro _)
    | with_reducible assumption
    | with_reducible exact subM (by decide) hm
    | (with_reducible first | apply State.each_only | apply State.setRing_only | apply State.updRing_only)
    | with_reducible exact fun _ h => h
    | split

theorem State.hostLinkDown_only {m : Nat} {s0 s : State} (h : s0.OnlyM m s) (hm : 4195334 ||| m = m) :
    s0.OnlyM m (State.hostLinkDown s) := by
  unfold State.hostLinkDown
  repeat' first
    | (intro _)
    | with_reducible assumption
    | with_reducible exact subM (by decide) hm
    | (extract_lets +onlyGivenNames x; first | (refine (fun hx => ?_ : State.OnlyM s0 m x → _) ?_; (on_goal 1 => clear_value x); (on_goal 2 => subst x)) | clear_value x)
    | (with_reducible first | apply State.updHost_only | apply State.setFld_only | apply State.inc_only | apply State.hrRegs_only | apply State.event_only | apply State.ringsRecover_only)
    | with_reducible exact fun _ h => h
    | split
    | (fail_if_no_progress beta_reduce)

theorem execLinkDown_only (s : State) :
    State.OnlyOut s 4195334 (execLinkDown s) := by
  have hm : 4195334 ||| 4195334 = 4195334 := rfl
  have h : State.OnlyM s 4195334 s := State.OnlyM.refl _ _
  unfold execLinkDown
  first | apply State.live_only | apply State.liveOn_only | apply next_only
  repeat' first
    | (intro _)
    | with_reducible assumption
    | with_reducible exact subM (by decide) hm
    | (with_reducible first | apply State.hostLinkDown_only)
    | with_reducible exact fun _ h => h
    | split

theorem State.linkGone_only {m : Nat} {s0 s : State} (h : s0.OnlyM m s) (hm : 4194306 ||| m = m) :
    s0.OnlyM m (State.linkGone s) := by
  unfold State.linkGone
  repeat' first
    | (intro _)
    | with_reducible assumption
    | with_reducible exact subM (by decide) hm
    | (with_reducible first | apply State.iff_only | apply State.setFld_only | apply State.updHost_only)
    | with_reducible exact fun _ h => h
    | split

theorem execFunctionLevelReset_only (s : State) :
    State.OnlyOut s 4195334 (execFunctionLevelReset s) := by
  have hm : 4195334 ||| 4195334 = 4195334 := rfl
  have h : State.OnlyM s 4195334 s := State.OnlyM.refl _ _
  unfold execFunctionLevelReset
  first | apply State.live_only | apply State.liveOn_only | apply next_only
  repeat' first
    | (intro _)
    | with_reducible assumption
    | with_reducible exact subM (by decide) hm
    | (with_reducible first | apply State.updHost_only | apply State.hrRegs_only | apply State.event_only | apply State.ringsRecover_only | apply State.inc_only)
    | with_reducible exact fun _ h => h
    | split

theorem execPcieLinkUp_only (s : State) (speed : Fin 3) (width : Fin 5) :
    State.OnlyOut s 4195334 (execPcieLinkUp speed width s) := by
  have hm : 4195334 ||| 4195334 = 4195334 := rfl
  have h : State.OnlyM s 4195334 s := State.OnlyM.refl _ _
  unfold execPcieLinkUp
  first | apply State.live_only | apply State.liveOn_only | apply next_only
  repeat' first
    | (intro _)
    | with_reducible assumption
    | with_reducible exact subM (by decide) hm
    | (extract_lets +onlyGivenNames x; first | (refine (fun hx => ?_ : State.OnlyM s 4195334 x → _) ?_; (on_goal 1 => clear_value x); (on_goal 2 => subst x)) | clear_value x)
    | (with_reducible first | apply State.iff_only | apply State.event_only | apply State.inc_only | apply State.hrRegs_only | apply State.setFld_only | apply State.updHost_only)
    | with_reducible exact fun _ h => h
    | split
    | (fail_if_no_progress beta_reduce)

theorem State.journalStart_only {m : Nat} {s0 s : State} (h : s0.OnlyM m s) (hm : 4236302 ||| m = m) (torn : List Nat) (unread : List Nat) :
    s0.OnlyM m (State.journalStart s torn unread) := by
  unfold State.journalStart
  repeat' first
    | (intro _)
    | with_reducible assumption
    | with_reducible exact subM (by decide) hm
    | (extract_lets +onlyGivenNames x; first | (refine (fun hx => ?_ : State.OnlyM s0 m x → _) ?_; (on_goal 1 => clear_value x); (on_goal 2 => subst x)) | (have y : State → State := x; clear y; subst x) | (have y : State → _ → State := x; clear y; subst x) | (have y : _ → State → State := x; clear y; subst x) | (have y : _ → _ → State → State := x; clear y; subst x) | (have y : State → _ → _ → State := x; clear y; subst x) | (have y : State → _ → State × _ := x; clear y; subst x) | clear_value x)
    | (with_reducible first | apply State.each_only | apply State.iff_only | apply State.setFld_only | apply State.updRing_only | apply State.updSlot_only | apply State.resend_only | apply State.inc_only | apply State.event_only | apply State.updHost_only | apply State.linkGone_only | apply State.setTimer_only | apply State.hrRegs_only | apply State.setReg_only | apply State.ringsRecover_only)
    | with_reducible exact fun _ h => h
    | split
    | (fail_if_no_progress beta_reduce)

theorem State.ringsHold_only {m : Nat} {s0 s : State} (h : s0.OnlyM m s) (hm : 4195342 ||| m = m) (own : Nat) :
    s0.OnlyM m (State.ringsHold s own) := by
  unfold State.ringsHold
  repeat' first
    | (intro _)
    | with_reducible assumption
    | with_reducible exact subM (by decide) hm
    | (extract_lets +onlyGivenNames x; first | (refine (fun hx => ?_ : State.OnlyM s0 m x → _) ?_; (on_goal 1 => clear_value x); (on_goal 2 => subst x)) | clear_value x)
    | (with_reducible first | apply State.each_only | apply State.setRing_only | apply State.complete_only | apply State.hrRegs_only | apply State.iff_only | apply State.event_only)
    | with_reducible exact fun _ h => h
    | split
    | (fail_if_no_progress beta_reduce)

theorem State.ringsUnhold_only {m : Nat} {s0 s : State} (h : s0.OnlyM m s) (hm : 4228110 ||| m = m) :
    s0.OnlyM m (State.ringsUnhold s) := by
  unfold State.ringsUnhold
  repeat' first
    | (intro _)
    | with_reducible assumption
    | with_reducible exact subM (by decide) hm
    | (extract_lets +onlyGivenNames x; first | (refine (fun hx => ?_ : State.OnlyM s0 m x → _) ?_; (on_goal 1 => clear_value x); (on_goal 2 => subst x)) | clear_value x)
    | (with_reducible first | apply State.each_only | apply State.setRing_only | apply State.updRing_only | apply State.takeHead_only | apply State.takeTail_only)
    | with_reducible exact fun _ h => h
    | split
    | (fail_if_no_progress beta_reduce)

theorem State.hostQuiet_only {m : Nat} {s0 s : State} (h : s0.OnlyM m s) (hm : 4194306 ||| m = m) :
    s0.OnlyM m (State.hostQuiet s) := by
  unfold State.hostQuiet
  repeat' first
    | (intro _)
    | with_reducible assumption
    | with_reducible exact subM (by decide) hm
    | (with_reducible first | apply State.hrRegs_only | apply State.updHost_only)
    | with_reducible exact fun _ h => h
    | split

theorem State.hostSf_only {m : Nat} {s0 s : State} (h : s0.OnlyM m s) (hm : 4194304 ||| m = m) :
    s0.OnlyM m (State.hostSf s) := by
  unfold State.hostSf
  repeat' first
    | (intro _)
    | with_reducible assumption
    | with_reducible exact subM (by decide) hm
    | (with_reducible first | apply State.updHost_only)
    | with_reducible exact fun _ h => h
    | split

theorem State.ringsNotHolder_only {m : Nat} {s0 s : State} (h : s0.OnlyM m s) (hm : 4195342 ||| m = m) :
    s0.OnlyM m (State.ringsNotHolder s) := by
  unfold State.ringsNotHolder
  repeat' first
    | (intro _)
    | with_reducible assumption
    | with_reducible exact subM (by decide) hm
    | (extract_lets +onlyGivenNames x; first | clear_value x)
    | (with_reducible first | apply State.complete_only | apply State.each_only | apply State.event_only)
    | with_reducible exact fun _ h => h
    | split

end Sys2Proof.Machine
end

