-- ==== Sys2Proof/Laws/OnlyToken.lean ====
section
/-!
SUPPORT. The parts of the state that the operations and commands of Machine/Token.lean change.
-/

set_option linter.all false

namespace Sys2Proof.Machine

open Sys2Proof

theorem State.twinRefresh_only {m : Nat} {s0 s : State} (h : s0.OnlyM m s) (hm : 1030 ||| m = m) :
    s0.OnlyM m (State.twinRefresh s) := by
  unfold State.twinRefresh
  repeat' first
    | (intro _)
    | with_reducible assumption
    | with_reducible exact subM (by decide) hm
    | (extract_lets +onlyGivenNames x; first | clear_value x)
    | (with_reducible first | apply State.iff_only | apply State.setFld_only | apply State.event_only)
    | with_reducible exact fun _ h => h
    | split

theorem State.twinQuiet_only {m : Nat} {s0 s : State} (h : s0.OnlyM m s) (hm : 46094 ||| m = m) (j : Nat) :
    s0.OnlyM m (State.twinQuiet s j) := by
  unfold State.twinQuiet
  repeat' first
    | (intro _)
    | with_reducible assumption
    | with_reducible exact subM (by decide) hm
    | (extract_lets +onlyGivenNames x; first | (refine (fun hx => ?_ : State.OnlyM s0 m x → _) ?_; (on_goal 1 => clear_value x); (on_goal 2 => subst x)) | clear_value x)
    | (with_reducible first | apply State.drive_only | apply State.dropReqs_only | apply State.stopTimer_only | apply State.quiet_only | apply State.updVh_only | apply State.setSState_only | apply State.setFlag_only | apply State.tlsDown_only)
    | with_reducible exact fun _ h => h
    | split
    | (fail_if_no_progress beta_reduce)

theorem State.twinRelease_only {m : Nat} {s0 s : State} (h : s0.OnlyM m s) (hm : 4240526 ||| m = m) :
    s0.OnlyM m (State.twinRelease s) := by
  unfold State.twinRelease
  repeat' first
    | (intro _)
    | with_reducible assumption
    | with_reducible exact subM (by decide) hm
    | (extract_lets +onlyGivenNames x; first | (refine (fun hx => ?_ : State.OnlyM s0 m x → _) ?_; (on_goal 1 => clear_value x); (on_goal 2 => subst x)) | clear_value x)
    | (with_reducible first | apply State.ringsNotHolder_only | apply State.setFlag_only | apply State.ptpRefresh_only | apply State.iff_only | apply State.twinQuiet_only | apply State.legPass_only | apply State.each_only | apply State.twinRefresh_only | apply State.event_only)
    | with_reducible exact fun _ h => h
    | split

theorem State.twinOut_only {m : Nat} {s0 s : State} (h : s0.OnlyM m s) (hm : 113678 ||| m = m) (ms : List MirOut) (cmd : Bool) (j : Nat) (a4 : MirOut) :
    s0.OnlyM m (State.twinOut s ms cmd j a4) := by
  unfold State.twinOut
  repeat' first
    | (intro _)
    | with_reducible assumption
    | with_reducible exact subM (by decide) hm
    | (extract_lets +onlyGivenNames x; first | (refine (fun hx => ?_ : State.OnlyM s0 m x → _) ?_; (on_goal 1 => clear_value x); (on_goal 2 => subst x)) | (have y : State → State := x; clear y; subst x) | (have y : State → _ → State := x; clear y; subst x) | (have y : _ → State → State := x; clear y; subst x) | (have y : _ → _ → State → State := x; clear y; subst x) | (have y : State → _ → _ → State := x; clear y; subst x) | (have y : State → _ → State × _ := x; clear y; subst x) | clear_value x)
    | (with_reducible first | apply State.updVh_only | apply State.setFlag_only | apply State.setFld_only | apply State.iff_only | apply State.setSState_only | apply State.takeValues_only | apply State.startTimer_only | apply State.updIo_only | apply State.updSh_only | apply State.legTake_only | apply State.vehMode_only | apply State.commLost_only)
    | split
    | (with_reducible apply State.mk_only; (rotate_left); all_goals first | with_reducible exact .inl rfl | exact .inr (bitM (by decide) hm) | skip)
    | with_reducible exact fun _ h => h
    | split
    | (fail_if_no_progress beta_reduce)

theorem State.twinMove_only {m : Nat} {s0 s : State} (h : s0.OnlyM m s) (hm : 2050 ||| m = m) (n : Nat) :
    s0.OnlyM m (State.twinMove s n) := by
  unfold State.twinMove
  repeat' first
    | (intro _)
    | with_reducible assumption
    | with_reducible exact subM (by decide) hm
    | (extract_lets +onlyGivenNames x; first | (refine (fun hx => ?_ : State.OnlyM s0 m x → _) ?_; (on_goal 1 => clear_value x); (on_goal 2 => subst x)) | clear_value x)
    | (with_reducible first | apply State.updMv_only | apply State.showStep_only)
    | with_reducible exact fun _ h => h
    | split
    | (fail_if_no_progress beta_reduce)

theorem State.twinTake_only {m : Nat} {s0 s : State} (h : s0.OnlyM m s) (hm : 67223438 ||| m = m) (cmd : Bool) :
    s0.OnlyM m (State.twinTake s cmd) := by
  unfold State.twinTake
  repeat' first
    | (intro _)
    | with_reducible assumption
    | with_reducible exact subM (by decide) hm
    | (extract_lets +onlyGivenNames x; first | (refine (fun hx => ?_ : State.OnlyM s0 m x → _) ?_; (on_goal 1 => clear_value x); (on_goal 2 => subst x)) | (have y : State → State := x; clear y; subst x) | (have y : State → _ → State := x; clear y; subst x) | (have y : _ → State → State := x; clear y; subst x) | (have y : _ → _ → State → State := x; clear y; subst x) | (have y : State → _ → _ → State := x; clear y; subst x) | (have y : State → _ → State × _ := x; clear y; subst x) | clear_value x)
    | (with_reducible first | apply State.event_only | apply State.inc_only | apply State.setFlag_only | apply State.iff_only | apply State.updTwin_only | apply State.setClk_only | apply State.each_only | apply State.updLk_only | apply State.updSh_only | apply State.twinMove_only | apply State.setReg_only | apply State.twinOut_only | apply State.twinRefresh_only | apply State.ptpRefresh_only)
    | split
    | (with_reducible apply State.mk_only; (rotate_left); all_goals first | with_reducible exact .inl rfl | exact .inr (bitM (by decide) hm) | skip)
    | with_reducible exact fun _ h => h
    | split
    | (fail_if_no_progress beta_reduce)

end Sys2Proof.Machine
end

