-- ==== Sys2Proof/Laws/OnlyBoot.lean ====
section
/-!
SUPPORT. The parts of the state that the operations and commands of Machine/Boot.lean change.
-/

set_option linter.all false

namespace Sys2Proof.Machine

open Sys2Proof

theorem State.beginStart_only {m : Nat} {s0 s : State} (h : s0.OnlyM m s) (hm : 115867086 ||| m = m) (cause : Nat) :
    s0.OnlyM m (State.beginStart s cause) := by
  unfold State.beginStart
  repeat' first
    | (intro _)
    | with_reducible assumption
    | with_reducible exact subM (by decide) hm
    | (extract_lets +onlyGivenNames x; first | (refine (fun hx => ?_ : State.OnlyM s0 m x → _) ?_; (on_goal 1 => clear_value x); (on_goal 2 => subst x)) | (have y : State → State := x; clear y; subst x) | (have y : State → _ → State := x; clear y; subst x) | (have y : _ → State → State := x; clear y; subst x) | (have y : _ → _ → State → State := x; clear y; subst x) | (have y : State → _ → _ → State := x; clear y; subst x) | (have y : State → _ → State × _ := x; clear y; subst x) | clear_value x)
    | (with_reducible first | apply State.iff_only | apply State.twinRelease_only | apply State.updTwin_only | apply State.updIsl_only | apply State.setReg_only | apply State.setFld_only | apply State.pdSet_only | apply State.setMode_only | apply State.setFlag_only | apply State.each_only | apply State.updMf_only | apply State.updMo_only | apply State.updSys_only | apply State.updKeys_only | apply State.roleStat_only)
    | split
    | (with_reducible apply State.mk_only; (rotate_left); all_goals first | with_reducible exact .inl rfl | exact .inr (bitM (by decide) hm) | skip)
    | with_reducible exact fun _ h => h
    | split
    | (fail_if_no_progress beta_reduce)

theorem State.deferStart_only {m : Nat} {s0 s : State} (h : s0.OnlyM m s) (hm : 115867086 ||| m = m) (cause : Nat) :
    s0.OnlyM m (State.deferStart s cause) := by
  unfold State.deferStart
  repeat' first
    | (intro _)
    | with_reducible assumption
    | with_reducible exact subM (by decide) hm
    | (with_reducible first | apply State.updKeys_only | apply State.beginStart_only)
    | with_reducible exact fun _ h => h
    | split

theorem execDeferredStart_only (s : State) :
    State.OnlyOut s 115867086 (execDeferredStart s) := by
  have hm : 115867086 ||| 115867086 = 115867086 := rfl
  have h : State.OnlyM s 115867086 s := State.OnlyM.refl _ _
  unfold execDeferredStart
  first | apply State.live_only | apply next_only
  repeat' first
    | (intro _)
    | with_reducible assumption
    | with_reducible exact subM (by decide) hm
    | (with_reducible first | apply State.beginStart_only)
    | with_reducible exact fun _ h => h
    | split

theorem State.servePublic_only {m : Nat} {s0 s : State} (h : s0.OnlyM m s) (hm : 4195342 ||| m = m) (n : Nat) (op : Nat) (f : JSlot → State → State) (hf : ∀ z0 z1, s0.OnlyM m z1 → s0.OnlyM m (f z0 z1)) :
    s0.OnlyM m (State.servePublic s n op f) := by
  unfold State.servePublic
  repeat' first
    | (intro _)
    | with_reducible assumption
    | with_reducible exact subM (by decide) hm
    | (with_reducible first | apply hf | apply State.serve_only | apply State.touchRole_only)
    | with_reducible exact fun _ h => h
    | split

theorem State.serveRole_only {m : Nat} {s0 s : State} (h : s0.OnlyM m s) (hm : 4195342 ||| m = m) (n : Nat) (op : Nat) (roles : List Nat) (maker : Bool) (f : JSlot → Nat → State → State) (hf : ∀ z0 z1 z2, s0.OnlyM m z2 → s0.OnlyM m (f z0 z1 z2)) :
    s0.OnlyM m (State.serveRole s n op roles maker f) := by
  unfold State.serveRole
  repeat' first
    | (intro _)
    | with_reducible assumption
    | with_reducible exact subM (by decide) hm
    | (extract_lets +onlyGivenNames x; first | (refine (fun hx => ?_ : State.OnlyM s0 m x → _) ?_; (on_goal 1 => clear_value x); (on_goal 2 => subst x)) | clear_value x)
    | (with_reducible first | apply hf | apply State.serve_only | apply State.touchRole_only | apply State.complete_only)
    | with_reducible exact fun _ h => h
    | split

theorem execRoleChallenge_only (s : State) (ring : Fin 64) :
    State.OnlyOut s 12583982 (execRoleChallenge ring s) := by
  have hm : 12583982 ||| 12583982 = 12583982 := rfl
  have h : State.OnlyM s 12583982 s := State.OnlyM.refl _ _
  unfold execRoleChallenge
  first | apply State.live_only | apply next_only
  repeat' first
    | (intro _)
    | with_reducible assumption
    | with_reducible exact subM (by decide) hm
    | (extract_lets +onlyGivenNames x; first | (refine (fun hx => ?_ : State.OnlyM s 12583982 x → _) ?_; (on_goal 1 => clear_value x); (on_goal 2 => subst x)) | (refine (fun hx => ?_ : State.OnlyM s 12583982 x.2 → _) ?_; (on_goal 1 => clear_value x); (on_goal 2 => subst x)) | clear_value x)
    | (with_reducible first | apply State.draw_only | apply State.startTimer_only | apply State.servePublic_only | apply State.completeData_only | apply State.updKeys_only)
    | with_reducible exact fun _ h => h
    | split

theorem execRoleOpen_only (s : State) (ring : Fin 64) :
    State.OnlyOut s 12583950 (execRoleOpen ring s) := by
  have hm : 12583950 ||| 12583950 = 12583950 := rfl
  have h : State.OnlyM s 12583950 s := State.OnlyM.refl _ _
  unfold execRoleOpen
  first | apply State.live_only | apply State.liveOn_only | apply next_only
  repeat' first
    | (intro _)
    | with_reducible assumption
    | with_reducible exact subM (by decide) hm
    | (extract_lets +onlyGivenNames x; first | (refine (fun hx => ?_ : State.OnlyM s 12583950 x → _) ?_; (on_goal 1 => clear_value x); (on_goal 2 => subst x)) | clear_value x)
    | (with_reducible first | apply State.servePublic_only | apply State.dmaFail_only | apply State.iff_only | apply State.updKeys_only | apply State.complete_only | apply State.event_only | apply State.startTimer_only | apply State.roleStat_only)
    | with_reducible exact fun _ h => h
    | split
    | (fail_if_no_progress beta_reduce)

theorem State.updStatus_only {m : Nat} {s0 s : State} (h : s0.OnlyM m s) (hm : 2 ||| m = m) :
    s0.OnlyM m (State.updStatus s) := by
  unfold State.updStatus
  repeat' first
    | (intro _)
    | with_reducible assumption
    | with_reducible exact subM (by decide) hm
    | (with_reducible first | apply State.setFld_only)
    | with_reducible exact fun _ h => h
    | split

theorem State.setBank_only {m : Nat} {s0 s : State} (h : s0.OnlyM m s) (hm : 8388610 ||| m = m) (b : Nat) (a2 : Bank) (st : Nat) :
    s0.OnlyM m (State.setBank s b a2 st) := by
  unfold State.setBank
  repeat' first
    | (intro _)
    | with_reducible assumption
    | with_reducible exact subM (by decide) hm
    | (extract_lets +onlyGivenNames x; first | (refine (fun hx => ?_ : State.OnlyM s0 m x → _) ?_; (on_goal 1 => clear_value x); (on_goal 2 => subst x)) | clear_value x)
    | (with_reducible first | apply State.setFld_only | apply State.updKeys_only)
    | with_reducible exact fun _ h => h
    | split

theorem State.unlockBank_only {m : Nat} {s0 s : State} (h : s0.OnlyM m s) (hm : 8388610 ||| m = m) :
    s0.OnlyM m (State.unlockBank s) := by
  unfold State.unlockBank
  repeat' first
    | (intro _)
    | with_reducible assumption
    | with_reducible exact subM (by decide) hm
    | (with_reducible first | apply State.setFld_only | apply State.updStatus_only | apply State.updKeys_only)
    | with_reducible exact fun _ h => h
    | split

theorem State.dropUpdate_only {m : Nat} {s0 s : State} (h : s0.OnlyM m s) (hm : 8389638 ||| m = m) :
    s0.OnlyM m (State.dropUpdate s) := by
  unfold State.dropUpdate
  repeat' first
    | (intro _)
    | with_reducible assumption
    | with_reducible exact subM (by decide) hm
    | (with_reducible first | apply State.setBank_only | apply State.unlockBank_only | apply State.event_only)
    | with_reducible exact fun _ h => h
    | split

theorem State.endRole_only {m : Nat} {s0 s : State} (h : s0.OnlyM m s) (hm : 8389646 ||| m = m) (a1 : Nat) :
    s0.OnlyM m (State.endRole s a1) := by
  unfold State.endRole
  repeat' first
    | (intro _)
    | with_reducible assumption
    | with_reducible exact subM (by decide) hm
    | (extract_lets +onlyGivenNames x; first | (refine (fun hx => ?_ : State.OnlyM s0 m x → _) ?_; (on_goal 1 => clear_value x); (on_goal 2 => subst x)) | clear_value x)
    | (with_reducible first | apply State.iff_only | apply State.dropUpdate_only | apply State.stopTimer_only | apply State.updKeys_only | apply State.roleStat_only)
    | with_reducible exact fun _ h => h
    | split

theorem execRoleClose_only (s : State) (ring : Fin 64) :
    State.OnlyOut s 12583950 (execRoleClose ring s) := by
  have hm : 12583950 ||| 12583950 = 12583950 := rfl
  have h : State.OnlyM s 12583950 s := State.OnlyM.refl _ _
  unfold execRoleClose
  first | apply State.live_only | apply next_only
  repeat' first
    | (intro _)
    | with_reducible assumption
    | with_reducible exact subM (by decide) hm
    | (with_reducible first | apply State.endRole_only | apply State.serve_only | apply State.complete_only)
    | with_reducible exact fun _ h => h
    | split

theorem execRoleSessionTimeout_only (s : State) (handle : Nat) :
    State.OnlyOut s 8389646 (execRoleSessionTimeout handle s) := by
  have hm : 8389646 ||| 8389646 = 8389646 := rfl
  have h : State.OnlyM s 8389646 s := State.OnlyM.refl _ _
  unfold execRoleSessionTimeout
  first | apply State.live_only | apply next_only
  repeat' first
    | (intro _)
    | with_reducible assumption
    | with_reducible exact subM (by decide) hm
    | (with_reducible first | apply State.endRole_only)
    | with_reducible exact fun _ h => h
    | split

theorem State.replaceKey_only {m : Nat} {s0 s : State} (h : s0.OnlyM m s) (hm : 8388608 ||| m = m) (k : Nat) (c : KeyCopy) :
    s0.OnlyM m (State.replaceKey s k c) := by
  unfold State.replaceKey
  repeat' first
    | (intro _)
    | with_reducible assumption
    | with_reducible exact subM (by decide) hm
    | (extract_lets +onlyGivenNames x; first | clear_value x)
    | (with_reducible first | apply State.setSlot_only)
    | with_reducible exact fun _ h => h
    | split

theorem execKeyImport_only (s : State) (ring : Fin 64) :
    State.OnlyOut s 12583950 (execKeyImport ring s) := by
  have hm : 12583950 ||| 12583950 = 12583950 := rfl
  have h : State.OnlyM s 12583950 s := State.OnlyM.refl _ _
  unfold execKeyImport
  first | apply State.live_only | apply State.liveOn_only | apply next_only
  repeat' first
    | (intro _)
    | with_reducible assumption
    | with_reducible exact subM (by decide) hm
    | (extract_lets +onlyGivenNames x; first | (refine (fun hx => ?_ : State.OnlyM s 12583950 x → _) ?_; (on_goal 1 => clear_value x); (on_goal 2 => subst x)) | clear_value x)
    | (with_reducible first | apply State.serve_only | apply State.touchRole_only | apply State.dmaFail_only | apply State.complete_only | apply State.event_only | apply State.replaceKey_only)
    | with_reducible exact fun _ h => h
    | split
    | (fail_if_no_progress beta_reduce)

theorem execKeyGenerate_only (s : State) (ring : Fin 64) :
    State.OnlyOut s 12583982 (execKeyGenerate ring s) := by
  have hm : 12583982 ||| 12583982 = 12583982 := rfl
  have h : State.OnlyM s 12583982 s := State.OnlyM.refl _ _
  unfold execKeyGenerate
  first | apply State.live_only | apply next_only
  repeat' first
    | (intro _)
    | with_reducible assumption
    | with_reducible exact subM (by decide) hm
    | (extract_lets +onlyGivenNames x; first | (refine (fun hx => ?_ : State.OnlyM s 12583982 x → _) ?_; (on_goal 1 => clear_value x); (on_goal 2 => subst x)) | (refine (fun hx => ?_ : State.OnlyM s 12583982 x.2 → _) ?_; (on_goal 1 => clear_value x); (on_goal 2 => subst x)) | clear_value x)
    | (with_reducible first | apply State.replaceKey_only | apply State.draw_only | apply State.serve_only | apply State.touchRole_only | apply State.complete_only)
    | with_reducible exact fun _ h => h
    | split

theorem execKeyFlip_only (s : State) (slot : BitVec 8) :
    State.OnlyOut s 8422406 (execKeyFlip slot s) := by
  have hm : 8422406 ||| 8422406 = 8422406 := rfl
  have h : State.OnlyM s 8422406 s := State.OnlyM.refl _ _
  unfold execKeyFlip
  first | apply State.live_only | apply next_only
  repeat' first
    | (intro _)
    | with_reducible assumption
    | with_reducible exact subM (by decide) hm
    | (extract_lets +onlyGivenNames x; first | (refine (fun hx => ?_ : State.OnlyM s 8422406 x → _) ?_; (on_goal 1 => clear_value x); (on_goal 2 => subst x)) | clear_value x)
    | (with_reducible first | apply State.iff_only | apply State.setSlot_only | apply State.audit_only | apply State.updKeys_only | apply State.event_only)
    | with_reducible exact fun _ h => h
    | split

theorem execKeyPublic_only (s : State) (ring : Fin 64) :
    State.OnlyOut s 4195342 (execKeyPublic ring s) := by
  have hm : 4195342 ||| 4195342 = 4195342 := rfl
  have h : State.OnlyM s 4195342 s := State.OnlyM.refl _ _
  unfold execKeyPublic
  first | apply State.live_only | apply next_only
  repeat' first
    | (intro _)
    | with_reducible assumption
    | with_reducible exact subM (by decide) hm
    | (extract_lets +onlyGivenNames x; first | clear_value x)
    | (with_reducible first | apply State.complete_only | apply State.servePublic_only | apply State.completeData_only | apply State.jobRefused_only)
    | with_reducible exact fun _ h => h
    | split

theorem execKeyDelete_only (s : State) (ring : Fin 64) :
    State.OnlyOut s 12583950 (execKeyDelete ring s) := by
  have hm : 12583950 ||| 12583950 = 12583950 := rfl
  have h : State.OnlyM s 12583950 s := State.OnlyM.refl _ _
  unfold execKeyDelete
  first | apply State.live_only | apply next_only
  repeat' first
    | (intro _)
    | with_reducible assumption
    | with_reducible exact subM (by decide) hm
    | (extract_lets +onlyGivenNames x; first | clear_value x)
    | (with_reducible first | apply State.complete_only | apply State.setSlot_only | apply State.serveRole_only)
    | with_reducible exact fun _ h => h
    | split

theorem execCertInstall_only (s : State) (ring : Fin 64) :
    State.OnlyOut s 12583950 (execCertInstall ring s) := by
  have hm : 12583950 ||| 12583950 = 12583950 := rfl
  have h : State.OnlyM s 12583950 s := State.OnlyM.refl _ _
  unfold execCertInstall
  first | apply State.live_only | apply State.liveOn_only | apply next_only
  repeat' first
    | (intro _)
    | with_reducible assumption
    | with_reducible exact subM (by decide) hm
    | (extract_lets +onlyGivenNames x; first | (refine (fun hx => ?_ : State.OnlyM s 12583950 x → _) ?_; (on_goal 1 => clear_value x); (on_goal 2 => subst x)) | clear_value x)
    | (with_reducible first | apply State.serveRole_only | apply State.complete_only | apply State.dmaFail_only | apply State.setSlot_only)
    | with_reducible exact fun _ h => h
    | split
    | (fail_if_no_progress beta_reduce)

theorem execAttest_only (s : State) (ring : Fin 64) :
    State.OnlyOut s 4195342 (execAttest ring s) := by
  have hm : 4195342 ||| 4195342 = 4195342 := rfl
  have h : State.OnlyM s 4195342 s := State.OnlyM.refl _ _
  unfold execAttest
  first | apply State.live_only | apply next_only
  repeat' first
    | (intro _)
    | with_reducible assumption
    | with_reducible exact subM (by decide) hm
    | (extract_lets +onlyGivenNames x; first | clear_value x)
    | (with_reducible first | apply State.complete_only | apply State.servePublic_only | apply State.completeData_only | apply State.jobRefused_only)
    | with_reducible exact fun _ h => h
    | split

theorem execFvkRevoke_only (s : State) (ring : Fin 64) (valid : Bool) :
    State.OnlyOut s 4195342 (execFvkRevoke ring valid s) := by
  have hm : 4195342 ||| 4195342 = 4195342 := rfl
  have h : State.OnlyM s 4195342 s := State.OnlyM.refl _ _
  unfold execFvkRevoke
  first | apply State.live_only | apply next_only
  repeat' first
    | (intro _)
    | with_reducible assumption
    | with_reducible exact subM (by decide) hm
    | (extract_lets +onlyGivenNames x; first | clear_value x)
    | (with_reducible first | apply State.setFld_only | apply State.complete_only | apply State.serveRole_only | apply State.event_only)
    | with_reducible exact fun _ h => h
    | split

theorem State.eraseKeys_only {m : Nat} {s0 s : State} (h : s0.OnlyM m s) (hm : 8388608 ||| m = m) :
    s0.OnlyM m (State.eraseKeys s) := by
  unfold State.eraseKeys
  repeat' first
    | (intro _)
    | with_reducible assumption
    | with_reducible exact subM (by decide) hm
    | (with_reducible first | apply State.updKeys_only)
    | with_reducible exact fun _ h => h
    | split

theorem execSetLimited_only (s : State) (ring : Fin 64) :
    State.OnlyOut s 115867086 (execSetLimited ring s) := by
  have hm : 115867086 ||| 115867086 = 115867086 := rfl
  have h : State.OnlyM s 115867086 s := State.OnlyM.refl _ _
  unfold execSetLimited
  first | apply State.live_only | apply State.liveOn_only | apply next_only
  repeat' first
    | (intro _)
    | with_reducible assumption
    | with_reducible exact subM (by decide) hm
    | (extract_lets +onlyGivenNames x; first | (refine (fun hx => ?_ : State.OnlyM s 115867086 x → _) ?_; (on_goal 1 => clear_value x); (on_goal 2 => subst x)) | clear_value x)
    | (with_reducible first | apply State.serveRole_only | apply State.complete_only | apply State.setFld_only | apply State.event_only | apply State.setFlag_only | apply State.iff_only | apply State.eraseKeys_only | apply State.beginStart_only)
    | with_reducible exact fun _ h => h
    | split
    | (fail_if_no_progress beta_reduce)

theorem State.openUpdate_only {m : Nat} {s0 s : State} (h : s0.OnlyM m s) (hm : 8389638 ||| m = m) (sess : Nat) (b : List Byte) (legal : Bool) (force : Bool) :
    s0.OnlyM m (State.openUpdate s sess b legal force).1 := by
  unfold State.openUpdate
  repeat' first
    | (intro _)
    | with_reducible assumption
    | with_reducible exact subM (by decide) hm
    | (extract_lets +onlyGivenNames x; first | (refine (fun hx => ?_ : State.OnlyM s0 m x → _) ?_; (on_goal 1 => clear_value x); (on_goal 2 => subst x)) | (have y : State → _ → State × _ := x; clear y; subst x) | clear_value x)
    | (with_reducible first | apply State.setFld_only | apply State.setBank_only | apply State.updStatus_only | apply State.updKeys_only | apply State.event_only)
    | with_reducible exact fun _ h => h
    | split
    | (fail_if_no_progress beta_reduce)

theorem execUpdateOpen_only (s : State) (ring : Fin 64) :
    State.OnlyOut s 12583950 (execUpdateOpen ring s) := by
  have hm : 12583950 ||| 12583950 = 12583950 := rfl
  have h : State.OnlyM s 12583950 s := State.OnlyM.refl _ _
  unfold execUpdateOpen
  first | apply State.live_only | apply State.liveOn_only | apply next_only
  repeat' first
    | (intro _)
    | with_reducible assumption
    | with_reducible exact subM (by decide) hm
    | (extract_lets +onlyGivenNames x; first | (refine (fun hx => ?_ : State.OnlyM s 12583950 x → _) ?_; (on_goal 1 => clear_value x); (on_goal 2 => subst x)) | (refine (fun hx => ?_ : State.OnlyM s 12583950 x.1 → _) ?_; (on_goal 1 => clear_value x); (on_goal 2 => subst x)) | (refine (fun hx => ?_ : State.OnlyM s 12583950 x.2 → _) ?_; (on_goal 1 => clear_value x); (on_goal 2 => subst x)) | clear_value x)
    | (with_reducible first | apply State.serveRole_only | apply State.dmaFail_only | apply State.openUpdate_only | apply State.complete_only)
    | with_reducible exact fun _ h => h
    | split
    | (fail_if_no_progress beta_reduce)

theorem State.writeUpdate_only {m : Nat} {s0 s : State} (h : s0.OnlyM m s) (hm : 8388610 ||| m = m) (off : Nat) (b : List Byte) :
    s0.OnlyM m (State.writeUpdate s off b).1 := by
  unfold State.writeUpdate
  repeat' first
    | (intro _)
    | with_reducible assumption
    | with_reducible exact subM (by decide) hm
    | (extract_lets +onlyGivenNames x; first | clear_value x)
    | (with_reducible first | apply State.setFld_only | apply State.updKeys_only)
    | with_reducible exact fun _ h => h
    | split

theorem State.serveHolder_only {m : Nat} {s0 s : State} (h : s0.OnlyM m s) (hm : 4195342 ||| m = m) (n : Nat) (op : Nat) (f : JSlot → State → State) (hf : ∀ z0 z1, s0.OnlyM m z1 → s0.OnlyM m (f z0 z1)) :
    s0.OnlyM m (State.serveHolder s n op f) := by
  unfold State.serveHolder
  repeat' first
    | (intro _)
    | with_reducible assumption
    | with_reducible exact subM (by decide) hm
    | (extract_lets +onlyGivenNames x; first | (refine (fun hx => ?_ : State.OnlyM s0 m x → _) ?_; (on_goal 1 => clear_value x); (on_goal 2 => subst x)) | clear_value x)
    | (with_reducible first | apply hf | apply State.serve_only | apply State.touchRole_only | apply State.complete_only)
    | with_reducible exact fun _ h => h
    | split

theorem execUpdateWrite_only (s : State) (ring : Fin 64) :
    State.OnlyOut s 12583950 (execUpdateWrite ring s) := by
  have hm : 12583950 ||| 12583950 = 12583950 := rfl
  have h : State.OnlyM s 12583950 s := State.OnlyM.refl _ _
  unfold execUpdateWrite
  first | apply State.live_only | apply State.liveOn_only | apply next_only
  repeat' first
    | (intro _)
    | with_reducible assumption
    | with_reducible exact subM (by decide) hm
    | (extract_lets +onlyGivenNames x; first | (refine (fun hx => ?_ : State.OnlyM s 12583950 x → _) ?_; (on_goal 1 => clear_value x); (on_goal 2 => subst x)) | (refine (fun hx => ?_ : State.OnlyM s 12583950 x.1 → _) ?_; (on_goal 1 => clear_value x); (on_goal 2 => subst x)) | (refine (fun hx => ?_ : State.OnlyM s 12583950 x.2 → _) ?_; (on_goal 1 => clear_value x); (on_goal 2 => subst x)) | clear_value x)
    | (with_reducible first | apply State.serveHolder_only | apply State.dmaFail_only | apply State.writeUpdate_only | apply State.complete_only)
    | with_reducible exact fun _ h => h
    | split
    | (fail_if_no_progress beta_reduce)

theorem State.verifyUpdate_only {m : Nat} {s0 s : State} (h : s0.OnlyM m s) (hm : 8389638 ||| m = m) :
    s0.OnlyM m (State.verifyUpdate s).1 := by
  unfold State.verifyUpdate
  repeat' first
    | (intro _)
    | with_reducible assumption
    | with_reducible exact subM (by decide) hm
    | (extract_lets +onlyGivenNames x; first | clear_value x)
    | (with_reducible first | apply State.setFld_only | apply State.setBank_only | apply State.unlockBank_only | apply State.event_only)
    | with_reducible exact fun _ h => h
    | split

theorem execUpdateVerify_only (s : State) (ring : Fin 64) :
    State.OnlyOut s 115867086 (execUpdateVerify ring s) := by
  have hm : 115867086 ||| 115867086 = 115867086 := rfl
  have h : State.OnlyM s 115867086 s := State.OnlyM.refl _ _
  unfold execUpdateVerify
  first | apply State.live_only | apply next_only
  repeat' first
    | (intro _)
    | with_reducible assumption
    | with_reducible exact subM (by decide) hm
    | (extract_lets +onlyGivenNames x; first | (refine (fun hx => ?_ : State.OnlyM s 115867086 x.1 → _) ?_; (on_goal 1 => clear_value x); (on_goal 2 => subst x)) | clear_value x)
    | (with_reducible first | apply State.serveHolder_only | apply State.iff_only | apply State.complete_only | apply State.verifyUpdate_only | apply State.beginStart_only)
    | with_reducible exact fun _ h => h
    | split

theorem execUpdateAbort_only (s : State) (ring : Fin 64) :
    State.OnlyOut s 12583950 (execUpdateAbort ring s) := by
  have hm : 12583950 ||| 12583950 = 12583950 := rfl
  have h : State.OnlyM s 12583950 s := State.OnlyM.refl _ _
  unfold execUpdateAbort
  first | apply State.live_only | apply next_only
  repeat' first
    | (intro _)
    | with_reducible assumption
    | with_reducible exact subM (by decide) hm
    | (extract_lets +onlyGivenNames x; first | (refine (fun hx => ?_ : State.OnlyM s 12583950 x → _) ?_; (on_goal 1 => clear_value x); (on_goal 2 => subst x)) | clear_value x)
    | (with_reducible first | apply State.serve_only | apply State.touchRole_only | apply State.complete_only | apply State.dropUpdate_only)
    | with_reducible exact fun _ h => h
    | split

theorem State.confirmTrial_only {m : Nat} {s0 s : State} (h : s0.OnlyM m s) (hm : 1038 ||| m = m) :
    s0.OnlyM m (State.confirmTrial s) := by
  unfold State.confirmTrial
  repeat' first
    | (intro _)
    | with_reducible assumption
    | with_reducible exact subM (by decide) hm
    | (extract_lets +onlyGivenNames x; first | (refine (fun hx => ?_ : State.OnlyM s0 m x → _) ?_; (on_goal 1 => clear_value x); (on_goal 2 => subst x)) | clear_value x)
    | (with_reducible first | apply State.setFlag_only | apply State.iff_only | apply State.setFld_only | apply State.updStatus_only | apply State.stopTimer_only | apply State.event_only)
    | with_reducible exact fun _ h => h
    | split

theorem State.markFailed_only {m : Nat} {s0 s : State} (h : s0.OnlyM m s) (hm : 1038 ||| m = m) :
    s0.OnlyM m (State.markFailed s) := by
  unfold State.markFailed
  repeat' first
    | (intro _)
    | with_reducible assumption
    | with_reducible exact subM (by decide) hm
    | (extract_lets +onlyGivenNames x; first | (refine (fun hx => ?_ : State.OnlyM s0 m x → _) ?_; (on_goal 1 => clear_value x); (on_goal 2 => subst x)) | clear_value x)
    | (with_reducible first | apply State.setFlag_only | apply State.setFld_only | apply State.updStatus_only | apply State.stopTimer_only | apply State.event_only)
    | with_reducible exact fun _ h => h
    | split

theorem State.trialFail_only {m : Nat} {s0 s : State} (h : s0.OnlyM m s) (hm : 115867086 ||| m = m) :
    s0.OnlyM m (State.trialFail s) := by
  unfold State.trialFail
  repeat' first
    | (intro _)
    | with_reducible assumption
    | with_reducible exact subM (by decide) hm
    | (with_reducible first | apply State.deferStart_only | apply State.markFailed_only)
    | with_reducible exact fun _ h => h
    | split

theorem execUpdateConfirm_only (s : State) (ring : Fin 64) :
    State.OnlyOut s 115867086 (execUpdateConfirm ring s) := by
  have hm : 115867086 ||| 115867086 = 115867086 := rfl
  have h : State.OnlyM s 115867086 s := State.OnlyM.refl _ _
  unfold execUpdateConfirm
  first | apply State.live_only | apply next_only
  repeat' first
    | (intro _)
    | with_reducible assumption
    | with_reducible exact subM (by decide) hm
    | (with_reducible first | apply State.trialFail_only | apply State.setFld_only | apply State.complete_only | apply State.serveRole_only | apply State.confirmTrial_only)
    | with_reducible exact fun _ h => h
    | split

theorem execTrialConfirmTimer_only (s : State) :
    State.OnlyOut s 115867086 (execTrialConfirmTimer s) := by
  have hm : 115867086 ||| 115867086 = 115867086 := rfl
  have h : State.OnlyM s 115867086 s := State.OnlyM.refl _ _
  unfold execTrialConfirmTimer
  first | apply State.live_only | apply next_only
  repeat' first
    | (intro _)
    | with_reducible assumption
    | with_reducible exact subM (by decide) hm
    | (with_reducible first | apply State.trialFail_only | apply State.confirmTrial_only)
    | with_reducible exact fun _ h => h
    | split

theorem execActivate_only (s : State) (ring : Fin 64) :
    State.OnlyOut s 12583950 (execActivate ring s) := by
  have hm : 12583950 ||| 12583950 = 12583950 := rfl
  have h : State.OnlyM s 12583950 s := State.OnlyM.refl _ _
  unfold execActivate
  first | apply State.live_only | apply State.liveOn_only | apply next_only
  repeat' first
    | (intro _)
    | with_reducible assumption
    | with_reducible exact subM (by decide) hm
    | (extract_lets +onlyGivenNames x; first | (refine (fun hx => ?_ : State.OnlyM s 12583950 x → _) ?_; (on_goal 1 => clear_value x); (on_goal 2 => subst x)) | clear_value x)
    | (with_reducible first | apply State.serveRole_only | apply State.complete_only | apply State.iff_only | apply State.setFld_only | apply State.event_only | apply State.setFlag_only | apply State.updKeys_only | apply State.startTimer_only | apply State.ringsHold_only | apply State.updStatus_only)
    | with_reducible exact fun _ h => h
    | split
    | (fail_if_no_progress beta_reduce)

theorem State.cvuToLoad_only {m : Nat} {s0 s : State} (h : s0.OnlyM m s) (hm : 10 ||| m = m) (u : Nat) :
    s0.OnlyM m (State.cvuToLoad s u) := by
  unfold State.cvuToLoad
  repeat' first
    | (intro _)
    | with_reducible assumption
    | with_reducible exact subM (by decide) hm
    | (with_reducible first | apply State.stopTimer_only | apply State.setFlag_only | apply State.setFld_only)
    | with_reducible exact fun _ h => h
    | split

theorem State.pauseTick_only {m : Nat} {s0 s : State} (h : s0.OnlyM m s) (hm : 10 ||| m = m) :
    s0.OnlyM m (State.pauseTick s) := by
  unfold State.pauseTick
  repeat' first
    | (intro _)
    | with_reducible assumption
    | with_reducible exact subM (by decide) hm
    | (with_reducible first | apply State.iff_only | apply State.each_only | apply State.setFld_only | apply State.cvuToLoad_only)
    | with_reducible exact fun _ h => h
    | split

theorem State.pauseCut_only {m : Nat} {s0 s : State} (h : s0.OnlyM m s) (hm : 8388618 ||| m = m) :
    s0.OnlyM m (State.pauseCut s) := by
  unfold State.pauseCut
  repeat' first
    | (intro _)
    | with_reducible assumption
    | with_reducible exact subM (by decide) hm
    | (with_reducible first | apply State.setFlag_only | apply State.updStatus_only | apply State.stopTimer_only | apply State.updKeys_only)
    | with_reducible exact fun _ h => h
    | split

theorem State.pauseFail_only {m : Nat} {s0 s : State} (h : s0.OnlyM m s) (hm : 115867086 ||| m = m) :
    s0.OnlyM m (State.pauseFail s) := by
  unfold State.pauseFail
  repeat' first
    | (intro _)
    | with_reducible assumption
    | with_reducible exact subM (by decide) hm
    | (extract_lets +onlyGivenNames x; first | clear_value x)
    | (with_reducible first | apply State.setFld_only | apply State.beginStart_only | apply State.event_only)
    | with_reducible exact fun _ h => h
    | split

theorem execActivationFail_only (s : State) :
    State.OnlyOut s 115867086 (execActivationFail s) := by
  have hm : 115867086 ||| 115867086 = 115867086 := rfl
  have h : State.OnlyM s 115867086 s := State.OnlyM.refl _ _
  unfold execActivationFail
  first | apply State.live_only | apply next_only
  repeat' first
    | (intro _)
    | with_reducible assumption
    | with_reducible exact subM (by decide) hm
    | (with_reducible first | apply State.pauseFail_only)
    | with_reducible exact fun _ h => h
    | split

theorem execTlsHandshake_only (s : State) (out : Fin 8) (slot : BitVec 8) (hello : TlsHello) (ok : Bool) :
    State.OnlyOut s 46094 (execTlsHandshake out slot hello ok s) := by
  have hm : 46094 ||| 46094 = 46094 := rfl
  have h : State.OnlyM s 46094 s := State.OnlyM.refl _ _
  unfold execTlsHandshake
  first | apply State.live_only | apply State.liveOn_only | apply next_only
  repeat' first
    | (intro _)
    | with_reducible assumption
    | with_reducible exact subM (by decide) hm
    | (extract_lets +onlyGivenNames x; first | (refine (fun hx => ?_ : State.OnlyM s 46094 x → _) ?_; (on_goal 1 => clear_value x); (on_goal 2 => subst x)) | clear_value x)
    | (with_reducible first | apply State.tlsFailed_only | apply State.jobRefused_only | apply State.setFlag_only | apply State.updVh_only)
    | with_reducible exact fun _ h => h
    | split
    | (fail_if_no_progress beta_reduce)

end Sys2Proof.Machine
end

