-- ==== Sys2Proof/Laws/OnlyObjects.lean ====
section
/-!
SUPPORT. The parts of the state that the operations and commands of Machine/Objects.lean change.
-/

set_option linter.all false

namespace Sys2Proof.Machine

open Sys2Proof

theorem State.objRefused_only {m : Nat} {s0 s : State} (h : s0.OnlyM m s) (hm : 4195342 ||| m = m) (n : Nat) (num : Nat) (role : Nat) :
    s0.OnlyM m (State.objRefused s n num role) := by
  unfold State.objRefused
  repeat' first
    | (intro _)
    | with_reducible assumption
    | with_reducible exact subM (by decide) hm
    | (with_reducible first | apply State.complete_only | apply State.inc_only | apply State.event_only)
    | with_reducible exact fun _ h => h
    | split

theorem State.legalRefused_only {m : Nat} {s0 s : State} (h : s0.OnlyM m s) (hm : 4228142 ||| m = m) (n : Nat) (num : Nat) (right : Bool) (left : Bool) :
    s0.OnlyM m (State.legalRefused s n num right left) := by
  unfold State.legalRefused
  repeat' first
    | (intro _)
    | with_reducible assumption
    | with_reducible exact subM (by decide) hm
    | (extract_lets +onlyGivenNames x; first | (refine (fun hx => ?_ : State.OnlyM s0 m x → _) ?_; (on_goal 1 => clear_value x); (on_goal 2 => subst x)) | (refine (fun hx => ?_ : State.OnlyM s0 m x.2 → _) ?_; (on_goal 1 => clear_value x); (on_goal 2 => subst x)) | clear_value x)
    | (with_reducible first | apply State.draw_only | apply State.iff_only | apply State.complete_only | apply State.audit_only | apply State.inc_only | apply State.event_only)
    | with_reducible exact fun _ h => h
    | split

theorem execGet_only (s : State) (ring : Fin 64) :
    State.OnlyOut s 4228110 (execGet ring s) := by
  have hm : 4228110 ||| 4228110 = 4228110 := rfl
  have h : State.OnlyM s 4228110 s := State.OnlyM.refl _ _
  unfold execGet
  first | apply State.live_only | apply State.liveOn_only | apply next_only
  repeat' first
    | (intro _)
    | with_reducible assumption
    | with_reducible exact subM (by decide) hm
    | (extract_lets +onlyGivenNames x; first | (refine (fun hx => ?_ : State.OnlyM s 4228110 x → _) ?_; (on_goal 1 => clear_value x); (on_goal 2 => subst x)) | clear_value x)
    | (with_reducible first | apply State.serve_only | apply State.touchRole_only | apply State.complete_only | apply State.objRefused_only | apply State.iff_only | apply State.updChan_only | apply State.completeData_only)
    | with_reducible exact fun _ h => h
    | split
    | (fail_if_no_progress beta_reduce)

theorem State.takeCalendar_only {m : Nat} {s0 s : State} (h : s0.OnlyM m s) (hm : 33798 ||| m = m) (c : Cal) (act : Nat) :
    s0.OnlyM m (State.takeCalendar s c act) := by
  unfold State.takeCalendar
  repeat' first
    | (intro _)
    | with_reducible assumption
    | with_reducible exact subM (by decide) hm
    | (extract_lets +onlyGivenNames x; first | clear_value x)
    | (with_reducible first | apply State.updLeg_only | apply State.event_only)
    | with_reducible exact fun _ h => h
    | split

theorem State.takeCalib_only {m : Nat} {s0 s : State} (h : s0.OnlyM m s) (hm : 50182 ||| m = m) (b : Nat) (c : CalSet) :
    s0.OnlyM m (State.takeCalib s b c) := by
  unfold State.takeCalib
  repeat' first
    | (intro _)
    | with_reducible assumption
    | with_reducible exact subM (by decide) hm
    | (extract_lets +onlyGivenNames x; first | (refine (fun hx => ?_ : State.OnlyM s0 m x → _) ?_; (on_goal 1 => clear_value x); (on_goal 2 => subst x)) | clear_value x)
    | (with_reducible first | apply State.setFlag_only | apply State.updMo_only | apply State.setFld_only | apply State.audit_only)
    | with_reducible exact fun _ h => h
    | split

theorem execSet_only (s : State) (ring : Fin 64) (value : ObjValue) :
    State.OnlyOut s 4244526 (execSet ring value s) := by
  have hm : 4244526 ||| 4244526 = 4244526 := rfl
  have h : State.OnlyM s 4244526 s := State.OnlyM.refl _ _
  unfold execSet
  first | apply State.live_only | apply State.liveOn_only | apply next_only
  repeat' first
    | (intro _)
    | with_reducible assumption
    | with_reducible exact subM (by decide) hm
    | (extract_lets +onlyGivenNames x; first | (refine (fun hx => ?_ : State.OnlyM s 4244526 x → _) ?_; (on_goal 1 => clear_value x); (on_goal 2 => subst x)) | clear_value x)
    | (with_reducible first | apply State.serve_only | apply State.touchRole_only | apply State.complete_only | apply State.legalRefused_only | apply State.takeCalib_only | apply State.objRefused_only | apply State.takeCalendar_only | apply State.setFlag_only | apply State.updLeg_only)
    | with_reducible exact fun _ h => h
    | split
    | (fail_if_no_progress beta_reduce)

theorem State.takeTime_only {m : Nat} {s0 s : State} (h : s0.OnlyM m s) (hm : 4195470 ||| m = m) (n : Nat) (num : Nat) (tai : Nat) (ofs : Int) :
    s0.OnlyM m (State.takeTime s n num tai ofs) := by
  unfold State.takeTime
  repeat' first
    | (intro _)
    | with_reducible assumption
    | with_reducible exact subM (by decide) hm
    | (with_reducible first | apply State.updTim_only | apply State.complete_only | apply State.event_only)
    | with_reducible exact fun _ h => h
    | split

theorem execSetTime_only (s : State) (ring : Fin 64) :
    State.OnlyOut s 4195470 (execSetTime ring s) := by
  have hm : 4195470 ||| 4195470 = 4195470 := rfl
  have h : State.OnlyM s 4195470 s := State.OnlyM.refl _ _
  unfold execSetTime
  first | apply State.live_only | apply State.liveOn_only | apply next_only
  repeat' first
    | (intro _)
    | with_reducible assumption
    | with_reducible exact subM (by decide) hm
    | (with_reducible first | apply State.serveRole_only | apply State.complete_only | apply State.iff_only | apply State.event_only | apply State.takeTime_only)
    | with_reducible exact fun _ h => h
    | split

theorem State.dropSlew_only {m : Nat} {s0 s : State} (h : s0.OnlyM m s) (hm : 1670 ||| m = m) :
    s0.OnlyM m (State.dropSlew s) := by
  unfold State.dropSlew
  repeat' first
    | (intro _)
    | with_reducible assumption
    | with_reducible exact subM (by decide) hm
    | (extract_lets +onlyGivenNames x; first | (refine (fun hx => ?_ : State.OnlyM s0 m x → _) ?_; (on_goal 1 => clear_value x); (on_goal 2 => subst x)) | clear_value x)
    | (with_reducible first | apply State.updTim_only | apply State.iff_only | apply State.fixNext_only | apply State.event_only | apply State.setFlag_only)
    | with_reducible exact fun _ h => h
    | split
    | (fail_if_no_progress beta_reduce)

theorem execCorrectionApply_only (s : State) :
    State.OnlyOut s 4228750 (execCorrectionApply s) := by
  have hm : 4228750 ||| 4228750 = 4228750 := rfl
  have h : State.OnlyM s 4228750 s := State.OnlyM.refl _ _
  unfold execCorrectionApply
  first | apply State.live_only | apply State.liveOn_only | apply next_only
  repeat' first
    | (intro _)
    | with_reducible assumption
    | with_reducible exact subM (by decide) hm
    | (extract_lets +onlyGivenNames x; first | (refine (fun hx => ?_ : State.OnlyM s 4228750 x → _) ?_; (on_goal 1 => clear_value x); (on_goal 2 => subst x)) | clear_value x)
    | (with_reducible first | apply State.updTim_only | apply State.dropSlew_only | apply State.applyCorr_only | apply State.complete_only | apply State.fixNext_only | apply State.setClk_only | apply State.setFldS_only | apply State.iff_only | apply State.legStep_only)
    | with_reducible exact fun _ h => h
    | split
    | (fail_if_no_progress beta_reduce)

theorem execLeapSecondApply_only (s : State) :
    State.OnlyOut s 34438 (execLeapSecondApply s) := by
  have hm : 34438 ||| 34438 = 34438 := rfl
  have h : State.OnlyM s 34438 s := State.OnlyM.refl _ _
  unfold execLeapSecondApply
  first | apply State.live_only | apply State.liveOn_only | apply next_only
  repeat' first
    | (intro _)
    | with_reducible assumption
    | with_reducible exact subM (by decide) hm
    | (extract_lets +onlyGivenNames x; first | (refine (fun hx => ?_ : State.OnlyM s 34438 x → _) ?_; (on_goal 1 => clear_value x); (on_goal 2 => subst x)) | clear_value x)
    | (with_reducible first | apply State.applyLeap_only | apply State.updLeg_only)
    | with_reducible exact fun _ h => h
    | split
    | (fail_if_no_progress beta_reduce)

theorem State.legalActivate_only {m : Nat} {s0 s : State} (h : s0.OnlyM m s) (hm : 115867118 ||| m = m) (n : Nat) (num : Nat) (right : Bool) :
    s0.OnlyM m (State.legalActivate s n num right) := by
  unfold State.legalActivate
  repeat' first
    | (intro _)
    | with_reducible assumption
    | with_reducible exact subM (by decide) hm
    | (extract_lets +onlyGivenNames x; first | (refine (fun hx => ?_ : State.OnlyM s0 m x → _) ?_; (on_goal 1 => clear_value x); (on_goal 2 => subst x)) | clear_value x)
    | (with_reducible first | apply State.setFlag_only | apply State.iff_only | apply State.setFld_only | apply State.complete_only | apply State.legalRefused_only | apply State.startTimer_only | apply State.audit_only | apply State.beginStart_only)
    | with_reducible exact fun _ h => h
    | split

theorem State.transferAct_only {m : Nat} {s0 s : State} (h : s0.OnlyM m s) (hm : 115867118 ||| m = m) (n : Nat) (q : JSlot) (arg : ActArg) (right : Bool) :
    s0.OnlyM m (State.transferAct s n q arg right) := by
  unfold State.transferAct
  repeat' first
    | (intro _)
    | with_reducible assumption
    | with_reducible exact subM (by decide) hm
    | (extract_lets +onlyGivenNames x; first | (refine (fun hx => ?_ : State.OnlyM s0 m x.1 → _) ?_; (on_goal 1 => clear_value x); (on_goal 2 => subst x)) | clear_value x)
    | (with_reducible first | apply State.complete_only | apply State.openUpdate_only | apply State.verifyUpdate_only | apply State.legalActivate_only | apply State.writeUpdate_only)
    | with_reducible exact fun _ h => h
    | split

theorem execAction_only (s : State) (ring : Fin 64) (arg : ActArg) :
    State.OnlyOut s 115867118 (execAction ring arg s) := by
  have hm : 115867118 ||| 115867118 = 115867118 := rfl
  have h : State.OnlyM s 115867118 s := State.OnlyM.refl _ _
  unfold execAction
  first | apply State.live_only | apply next_only
  repeat' first
    | (intro _)
    | with_reducible assumption
    | with_reducible exact subM (by decide) hm
    | (extract_lets +onlyGivenNames x; first | (refine (fun hx => ?_ : State.OnlyM s 115867118 x → _) ?_; (on_goal 1 => clear_value x); (on_goal 2 => subst x)) | clear_value x)
    | (with_reducible first | apply State.serve_only | apply State.touchRole_only | apply State.updLeg_only | apply State.complete_only | apply State.transferAct_only | apply State.takeTime_only | apply State.objRefused_only | apply State.closePeriod_only)
    | with_reducible exact fun _ h => h
    | split

theorem State.settleConf_only {m : Nat} {s0 s : State} (h : s0.OnlyM m s) (hm : 4260878 ||| m = m) (why : Nat) :
    s0.OnlyM m (State.settleConf s why) := by
  unfold State.settleConf
  repeat' first
    | (intro _)
    | with_reducible assumption
    | with_reducible exact subM (by decide) hm
    | (with_reducible first | apply State.complete_only | apply State.updIsl_only)
    | with_reducible exact fun _ h => h
    | split

theorem execSafetyCandidate_only (s : State) (ring : Fin 64) :
    State.OnlyOut s 4260878 (execSafetyCandidate ring s) := by
  have hm : 4260878 ||| 4260878 = 4260878 := rfl
  have h : State.OnlyM s 4260878 s := State.OnlyM.refl _ _
  unfold execSafetyCandidate
  first | apply State.live_only | apply State.liveOn_only | apply next_only
  repeat' first
    | (intro _)
    | with_reducible assumption
    | with_reducible exact subM (by decide) hm
    | (extract_lets +onlyGivenNames x; first | (refine (fun hx => ?_ : State.OnlyM s 4260878 x → _) ?_; (on_goal 1 => clear_value x); (on_goal 2 => subst x)) | clear_value x)
    | (with_reducible first | apply State.serveRole_only | apply State.complete_only | apply State.dmaFail_only | apply State.takeCandidate_only | apply State.settleConf_only)
    | with_reducible exact fun _ h => h
    | split
    | (fail_if_no_progress beta_reduce)

theorem execSafetyConfirm_only (s : State) (ring : Fin 64) :
    State.OnlyOut s 4260878 (execSafetyConfirm ring s) := by
  have hm : 4260878 ||| 4260878 = 4260878 := rfl
  have h : State.OnlyM s 4260878 s := State.OnlyM.refl _ _
  unfold execSafetyConfirm
  first | apply State.live_only | apply next_only
  repeat' first
    | (intro _)
    | with_reducible assumption
    | with_reducible exact subM (by decide) hm
    | (extract_lets +onlyGivenNames x; first | (refine (fun hx => ?_ : State.OnlyM s 4260878 x → _) ?_; (on_goal 1 => clear_value x); (on_goal 2 => subst x)) | clear_value x)
    | (with_reducible first | apply State.hostConfirm_only | apply State.complete_only | apply State.serveRole_only | apply State.updIsl_only)
    | with_reducible exact fun _ h => h
    | split

theorem execConfirmWindowExpiry_only (s : State) :
    State.OnlyOut s 4260878 (execConfirmWindowExpiry s) := by
  have hm : 4260878 ||| 4260878 = 4260878 := rfl
  have h : State.OnlyM s 4260878 s := State.OnlyM.refl _ _
  unfold execConfirmWindowExpiry
  first | apply State.live_only | apply next_only
  repeat' first
    | (intro _)
    | with_reducible assumption
    | with_reducible exact subM (by decide) hm
    | (with_reducible first | apply State.dropCand_only | apply State.settleConf_only)
    | with_reducible exact fun _ h => h
    | split

theorem State.acknowledgeCand_only {m : Nat} {s0 s : State} (h : s0.OnlyM m s) (hm : 4260878 ||| m = m) :
    s0.OnlyM m (State.acknowledgeCand s) := by
  unfold State.acknowledgeCand
  repeat' first
    | (intro _)
    | with_reducible assumption
    | with_reducible exact subM (by decide) hm
    | (extract_lets +onlyGivenNames x; first | (refine (fun hx => ?_ : State.OnlyM s0 m x → _) ?_; (on_goal 1 => clear_value x); (on_goal 2 => subst x)) | clear_value x)
    | (with_reducible first | apply State.ackCandidate_only | apply State.settleConf_only)
    | with_reducible exact fun _ h => h
    | split

theorem State.candTick_only {m : Nat} {s0 s : State} (h : s0.OnlyM m s) (hm : 4260878 ||| m = m) :
    s0.OnlyM m (State.candTick s) := by
  unfold State.candTick
  repeat' first
    | (intro _)
    | with_reducible assumption
    | with_reducible exact subM (by decide) hm
    | (extract_lets +onlyGivenNames x; first | (refine (fun hx => ?_ : State.OnlyM s0 m x → _) ?_; (on_goal 1 => clear_value x); (on_goal 2 => subst x)) | clear_value x)
    | (with_reducible first | apply State.dropCand_only | apply State.iff_only | apply State.settleConf_only)
    | with_reducible exact fun _ h => h
    | split

theorem execSafetyReset_only (s : State) (ring : Fin 64) :
    State.OnlyOut s 40353102 (execSafetyReset ring s) := by
  have hm : 40353102 ||| 40353102 = 40353102 := rfl
  have h : State.OnlyM s 40353102 s := State.OnlyM.refl _ _
  unfold execSafetyReset
  first | apply State.live_only | apply next_only
  repeat' first
    | (intro _)
    | with_reducible assumption
    | with_reducible exact subM (by decide) hm
    | (with_reducible first | apply State.complete_only | apply State.serveRole_only | apply State.hostReset_only)
    | with_reducible exact fun _ h => h
    | split

end Sys2Proof.Machine
end

