-- ==== Sys2Proof/Laws/OnlyKeypad.lean ====
section
/-!
SUPPORT. The parts of the state that the operations and commands of Machine/Keypad.lean change.
-/

set_option linter.all false

namespace Sys2Proof.Machine

open Sys2Proof

theorem State.pd8On_only {m : Nat} {s0 s : State} (h : s0.OnlyM m s) (hm : 2493774 ||| m = m) :
    s0.OnlyM m (State.pd8On s) := by
  unfold State.pd8On
  repeat' first
    | (intro _)
    | with_reducible assumption
    | with_reducible exact subM (by decide) hm
    | (with_reducible first | apply State.pdSet_only)
    | with_reducible exact fun _ h => h
    | split

theorem State.pd8Off_only {m : Nat} {s0 s : State} (h : s0.OnlyM m s) (hm : 2493774 ||| m = m) :
    s0.OnlyM m (State.pd8Off s) := by
  unfold State.pd8Off
  repeat' first
    | (intro _)
    | with_reducible assumption
    | with_reducible exact subM (by decide) hm
    | (with_reducible first | apply State.startTimer_only | apply State.pdSet_only | apply State.stopTimer_only)
    | with_reducible exact fun _ h => h
    | split

theorem State.pd8Tick_only {m : Nat} {s0 s : State} (h : s0.OnlyM m s) (hm : 2493774 ||| m = m) :
    s0.OnlyM m (State.pd8Tick s) := by
  unfold State.pd8Tick
  repeat' first
    | (intro _)
    | with_reducible assumption
    | with_reducible exact subM (by decide) hm
    | (extract_lets +onlyGivenNames x; first | (refine (fun hx => ?_ : State.OnlyM s0 m x → _) ?_; (on_goal 1 => clear_value x); (on_goal 2 => subst x)) | clear_value x)
    | (with_reducible first | apply State.pd8Off_only | apply State.updPnl_only | apply State.iff_only | apply State.startTimer_only | apply State.stopTimer_only | apply State.pd8On_only)
    | with_reducible exact fun _ h => h
    | split
    | (fail_if_no_progress beta_reduce)

theorem execPd8IdleOff_only (s : State) :
    State.OnlyOut s 2493774 (execPd8IdleOff s) := by
  have hm : 2493774 ||| 2493774 = 2493774 := rfl
  have h : State.OnlyM s 2493774 s := State.OnlyM.refl _ _
  unfold execPd8IdleOff
  first | apply State.live_only | apply State.liveOn_only | apply next_only
  repeat' first
    | (intro _)
    | with_reducible assumption
    | with_reducible exact subM (by decide) hm
    | (with_reducible first | apply State.pd8Off_only)
    | with_reducible exact fun _ h => h
    | split

theorem execPanelTempWake_only (s : State) (temps : List (Option Int)) :
    State.OnlyOut s 2493774 (execPanelTempWake temps s) := by
  have hm : 2493774 ||| 2493774 = 2493774 := rfl
  have h : State.OnlyM s 2493774 s := State.OnlyM.refl _ _
  unfold execPanelTempWake
  first | apply State.live_only | apply State.liveOn_only | apply next_only
  repeat' first
    | (intro _)
    | with_reducible assumption
    | with_reducible exact subM (by decide) hm
    | (extract_lets +onlyGivenNames x; first | (refine (fun hx => ?_ : State.OnlyM s 2493774 x → _) ?_; (on_goal 1 => clear_value x); (on_goal 2 => subst x)) | clear_value x)
    | (with_reducible first | apply State.iff_only | apply State.pd8On_only | apply State.updPnl_only | apply State.each_only | apply State.startTimer_only | apply State.takeTemp_only)
    | with_reducible exact fun _ h => h
    | split
    | (fail_if_no_progress beta_reduce)

theorem execKeypadWake_only (s : State) :
    State.OnlyOut s 2493774 (execKeypadWake s) := by
  have hm : 2493774 ||| 2493774 = 2493774 := rfl
  have h : State.OnlyM s 2493774 s := State.OnlyM.refl _ _
  unfold execKeypadWake
  first | apply State.live_only | apply next_only
  repeat' first
    | (intro _)
    | with_reducible assumption
    | with_reducible exact subM (by decide) hm
    | (with_reducible first | apply State.pd8On_only)
    | with_reducible exact fun _ h => h
    | split

theorem execPanelUpdateRequest_only (s : State) (panel : Fin 2) (a1 : Nat) (y : Nat) (w : Nat) (a4 : Nat) (mode : Fin 3) (img : List Nat) :
    State.OnlyOut s 2493774 (execPanelUpdateRequest panel a1 y w a4 mode img s) := by
  have hm : 2493774 ||| 2493774 = 2493774 := rfl
  have h : State.OnlyM s 2493774 s := State.OnlyM.refl _ _
  unfold execPanelUpdateRequest
  first | apply State.live_only | apply next_only
  repeat' first
    | (intro _)
    | with_reducible assumption
    | with_reducible exact subM (by decide) hm
    | (extract_lets +onlyGivenNames x; first | clear_value x)
    | (with_reducible first | apply State.pnQueue_only | apply State.pd8On_only | apply State.event_only)
    | with_reducible exact fun _ h => h
    | split

theorem State.drawPage_only {m : Nat} {s0 s : State} (h : s0.OnlyM m s) (hm : 2493774 ||| m = m) :
    s0.OnlyM m (State.drawPage s) := by
  unfold State.drawPage
  repeat' first
    | (intro _)
    | with_reducible assumption
    | with_reducible exact subM (by decide) hm
    | (extract_lets +onlyGivenNames x; first | (refine (fun hx => ?_ : State.OnlyM s0 m x → _) ?_; (on_goal 1 => clear_value x); (on_goal 2 => subst x)) | clear_value x)
    | (with_reducible first | apply State.pnQueue_only | apply State.pd8On_only | apply State.updPnl_only)
    | with_reducible exact fun _ h => h
    | split
    | (fail_if_no_progress beta_reduce)

theorem execStripRedraw_only (s : State) :
    State.OnlyOut s 2493774 (execStripRedraw s) := by
  have hm : 2493774 ||| 2493774 = 2493774 := rfl
  have h : State.OnlyM s 2493774 s := State.OnlyM.refl _ _
  unfold execStripRedraw
  first | apply State.live_only | apply State.liveOn_only | apply next_only
  repeat' first
    | (intro _)
    | with_reducible assumption
    | with_reducible exact subM (by decide) hm
    | (extract_lets +onlyGivenNames x; first | (refine (fun hx => ?_ : State.OnlyM s 2493774 x → _) ?_; (on_goal 1 => clear_value x); (on_goal 2 => subst x)) | (refine (fun hx => ?_ : State.OnlyM s 2493774 x.1 → _) ?_; (on_goal 1 => clear_value x); (on_goal 2 => subst x)) | (refine (fun hx => ?_ : State.OnlyM s 2493774 x.2 → _) ?_; (on_goal 1 => clear_value x); (on_goal 2 => subst x)) | clear_value x)
    | (with_reducible first | apply State.startTimer_only | apply State.updPnl_only | apply State.drawPage_only | apply State.pnQueue_only | apply State.pd8On_only)
    | with_reducible exact fun _ h => h
    | split
    | (fail_if_no_progress beta_reduce)

theorem State.selectPage_only {m : Nat} {s0 s : State} (h : s0.OnlyM m s) (hm : 2493774 ||| m = m) (k : Nat) :
    s0.OnlyM m (State.selectPage s k) := by
  unfold State.selectPage
  repeat' first
    | (intro _)
    | with_reducible assumption
    | with_reducible exact subM (by decide) hm
    | (with_reducible first | apply State.drawPage_only | apply State.startTimer_only | apply State.setFld_only)
    | with_reducible exact fun _ h => h
    | split

theorem execPageTimeout_only (s : State) :
    State.OnlyOut s 2493774 (execPageTimeout s) := by
  have hm : 2493774 ||| 2493774 = 2493774 := rfl
  have h : State.OnlyM s 2493774 s := State.OnlyM.refl _ _
  unfold execPageTimeout
  first | apply State.live_only | apply State.liveOn_only | apply next_only
  repeat' first
    | (intro _)
    | with_reducible assumption
    | with_reducible exact subM (by decide) hm
    | (with_reducible first | apply State.drawPage_only | apply State.setFld_only | apply State.stopTimer_only)
    | with_reducible exact fun _ h => h
    | split

theorem execLegalLineRedraw_only (s : State) (line : Fin 4) :
    State.OnlyOut s 2493774 (execLegalLineRedraw line s) := by
  have hm : 2493774 ||| 2493774 = 2493774 := rfl
  have h : State.OnlyM s 2493774 s := State.OnlyM.refl _ _
  unfold execLegalLineRedraw
  first | apply State.live_only | apply State.liveOn_only | apply next_only
  repeat' first
    | (intro _)
    | with_reducible assumption
    | with_reducible exact subM (by decide) hm
    | (extract_lets +onlyGivenNames x; first | (refine (fun hx => ?_ : State.OnlyM s 2493774 x → _) ?_; (on_goal 1 => clear_value x); (on_goal 2 => subst x)) | clear_value x)
    | (with_reducible first | apply State.startTimer_only | apply State.updPnl_only | apply State.pnQueue_only | apply State.pd8On_only)
    | with_reducible exact fun _ h => h
    | split
    | (fail_if_no_progress beta_reduce)

theorem execKeyAccepted_only (s : State) (code : Fin 16) (pressed : Nat) :
    State.OnlyOut s 263174 (execKeyAccepted code pressed s) := by
  have hm : 263174 ||| 263174 = 263174 := rfl
  have h : State.OnlyM s 263174 s := State.OnlyM.refl _ _
  unfold execKeyAccepted
  first | apply State.live_only | apply State.liveOn_only | apply next_only
  repeat' first
    | (intro _)
    | with_reducible assumption
    | with_reducible exact subM (by decide) hm
    | (with_reducible first | apply State.updPnl_only | apply State.event_only | apply State.inc_only | apply State.setFld_only)
    | with_reducible exact fun _ h => h
    | split

theorem execKeyReleased_only (s : State) (allOpen : Bool) :
    State.OnlyOut s 262144 (execKeyReleased allOpen s) := by
  have hm : 262144 ||| 262144 = 262144 := rfl
  have h : State.OnlyM s 262144 s := State.OnlyM.refl _ _
  unfold execKeyReleased
  first | apply State.live_only | apply next_only
  repeat' first
    | (intro _)
    | with_reducible assumption
    | with_reducible exact subM (by decide) hm
    | (with_reducible first | apply State.updPnl_only)
    | with_reducible exact fun _ h => h
    | split

theorem State.keyRead_only {m : Nat} {s0 s : State} (h : s0.OnlyM m s) (hm : 262152 ||| m = m) :
    s0.OnlyM m (State.keyRead s) := by
  unfold State.keyRead
  repeat' first
    | (intro _)
    | with_reducible assumption
    | with_reducible exact subM (by decide) hm
    | (with_reducible first | apply State.iff_only | apply State.updPnl_only | apply State.startTimer_only)
    | with_reducible exact fun _ h => h
    | split

theorem State.dropB_only {m : Nat} {s0 s : State} (h : s0.OnlyM m s) (hm : 262152 ||| m = m) :
    s0.OnlyM m (State.dropB s) := by
  unfold State.dropB
  repeat' first
    | (intro _)
    | with_reducible assumption
    | with_reducible exact subM (by decide) hm
    | (with_reducible first | apply State.each_only | apply State.updPnl_only | apply State.keyRead_only)
    | with_reducible exact fun _ h => h
    | split

theorem State.takeKey_only {m : Nat} {s0 s : State} (h : s0.OnlyM m s) (hm : 262152 ||| m = m) (ks : List Nat) (f : Nat → State → State) (hf : ∀ z0 z1, s0.OnlyM m z1 → s0.OnlyM m (f z0 z1)) :
    s0.OnlyM m (State.takeKey s ks f) := by
  unfold State.takeKey
  repeat' first
    | (intro _)
    | with_reducible assumption
    | with_reducible exact subM (by decide) hm
    | (extract_lets +onlyGivenNames x; first | (refine (fun hx => ?_ : State.OnlyM s0 m x → _) ?_; (on_goal 1 => clear_value x); (on_goal 2 => subst x)) | clear_value x)
    | (with_reducible first | apply hf | apply State.dropB_only | apply State.keyRead_only)
    | with_reducible exact fun _ h => h
    | split
    | (fail_if_no_progress beta_reduce)

theorem State.prompt_only {m : Nat} {s0 s : State} (h : s0.OnlyM m s) (hm : 262152 ||| m = m) (a1 : Nat) (v : Nat) :
    s0.OnlyM m (State.prompt s a1 v) := by
  unfold State.prompt
  repeat' first
    | (intro _)
    | with_reducible assumption
    | with_reducible exact subM (by decide) hm
    | (with_reducible first | apply State.startTimer_only | apply State.updPnl_only)
    | with_reducible exact fun _ h => h
    | split

theorem State.endEntry_only {m : Nat} {s0 s : State} (h : s0.OnlyM m s) (hm : 262154 ||| m = m) (st : Nat) :
    s0.OnlyM m (State.endEntry s st) := by
  unfold State.endEntry
  repeat' first
    | (intro _)
    | with_reducible assumption
    | with_reducible exact subM (by decide) hm
    | (with_reducible first | apply State.setFld_only | apply State.updPnl_only | apply State.stopTimer_only)
    | with_reducible exact fun _ h => h
    | split

theorem execKeyA_only (s : State) :
    State.OnlyOut s 262154 (execKeyA s) := by
  have hm : 262154 ||| 262154 = 262154 := rfl
  have h : State.OnlyM s 262154 s := State.OnlyM.refl _ _
  unfold execKeyA
  first | apply State.live_only | apply next_only
  repeat' first
    | (intro _)
    | with_reducible assumption
    | with_reducible exact subM (by decide) hm
    | (extract_lets +onlyGivenNames x; first | (refine (fun hx => ?_ : State.OnlyM s 262154 x → _) ?_; (on_goal 1 => clear_value x); (on_goal 2 => subst x)) | clear_value x)
    | (with_reducible first | apply State.prompt_only | apply State.setFld_only | apply State.takeKey_only | apply State.startTimer_only | apply State.endEntry_only | apply State.updPnl_only)
    | with_reducible exact fun _ h => h
    | split

theorem execKeyDigit_only (s : State) :
    State.OnlyOut s 2493774 (execKeyDigit s) := by
  have hm : 2493774 ||| 2493774 = 2493774 := rfl
  have h : State.OnlyM s 2493774 s := State.OnlyM.refl _ _
  unfold execKeyDigit
  first | apply State.live_only | apply State.liveOn_only | apply next_only
  repeat' first
    | (intro _)
    | with_reducible assumption
    | with_reducible exact subM (by decide) hm
    | (extract_lets +onlyGivenNames x; first | (refine (fun hx => ?_ : State.OnlyM s 2493774 x → _) ?_; (on_goal 1 => clear_value x); (on_goal 2 => subst x)) | clear_value x)
    | (with_reducible first | apply State.takeKey_only | apply State.setFld_only | apply State.prompt_only | apply State.updPnl_only | apply State.iff_only | apply State.selectPage_only)
    | with_reducible exact fun _ h => h
    | split
    | (fail_if_no_progress beta_reduce)

theorem execKeyStar_only (s : State) :
    State.OnlyOut s 262154 (execKeyStar s) := by
  have hm : 262154 ||| 262154 = 262154 := rfl
  have h : State.OnlyM s 262154 s := State.OnlyM.refl _ _
  unfold execKeyStar
  first | apply State.live_only | apply State.liveOn_only | apply next_only
  repeat' first
    | (intro _)
    | with_reducible assumption
    | with_reducible exact subM (by decide) hm
    | (extract_lets +onlyGivenNames x; first | (refine (fun hx => ?_ : State.OnlyM s 262154 x → _) ?_; (on_goal 1 => clear_value x); (on_goal 2 => subst x)) | clear_value x)
    | (with_reducible first | apply State.takeKey_only | apply State.updPnl_only | apply State.setFld_only)
    | with_reducible exact fun _ h => h
    | split
    | (fail_if_no_progress beta_reduce)

theorem execKeyHash_only (s : State) :
    State.OnlyOut s 300046 (execKeyHash s) := by
  have hm : 300046 ||| 300046 = 300046 := rfl
  have h : State.OnlyM s 300046 s := State.OnlyM.refl _ _
  unfold execKeyHash
  first | apply State.live_only | apply State.liveOn_only | apply next_only
  repeat' first
    | (intro _)
    | with_reducible assumption
    | with_reducible exact subM (by decide) hm
    | (extract_lets +onlyGivenNames x; first | (refine (fun hx => ?_ : State.OnlyM s 300046 x → _) ?_; (on_goal 1 => clear_value x); (on_goal 2 => subst x)) | clear_value x)
    | (with_reducible first | apply State.takeKey_only | apply State.tokValidate_only | apply State.endEntry_only | apply State.event_only | apply State.prompt_only | apply State.updPnl_only)
    | with_reducible exact fun _ h => h
    | split
    | (fail_if_no_progress beta_reduce)

theorem State.restTick_only {m : Nat} {s0 s : State} (h : s0.OnlyM m s) (hm : 2493774 ||| m = m) :
    s0.OnlyM m (State.restTick s) := by
  unfold State.restTick
  repeat' first
    | (intro _)
    | with_reducible assumption
    | with_reducible exact subM (by decide) hm
    | (extract_lets +onlyGivenNames x; first | (refine (fun hx => ?_ : State.OnlyM s0 m x → _) ?_; (on_goal 1 => clear_value x); (on_goal 2 => subst x)) | clear_value x)
    | (with_reducible first | apply State.iff_only | apply State.updPnl_only | apply State.stopTimer_only | apply State.setFld_only | apply State.pnQueue_only | apply State.pd8On_only)
    | with_reducible exact fun _ h => h
    | split
    | (fail_if_no_progress beta_reduce)

theorem State.cancelEntry_only {m : Nat} {s0 s : State} (h : s0.OnlyM m s) (hm : 263182 ||| m = m) :
    s0.OnlyM m (State.cancelEntry s) := by
  unfold State.cancelEntry
  repeat' first
    | (intro _)
    | with_reducible assumption
    | with_reducible exact subM (by decide) hm
    | (with_reducible first | apply State.prompt_only | apply State.endEntry_only | apply State.event_only)
    | with_reducible exact fun _ h => h
    | split

theorem execKeyC_only (s : State) :
    State.OnlyOut s 263182 (execKeyC s) := by
  have hm : 263182 ||| 263182 = 263182 := rfl
  have h : State.OnlyM s 263182 s := State.OnlyM.refl _ _
  unfold execKeyC
  first | apply State.live_only | apply next_only
  repeat' first
    | (intro _)
    | with_reducible assumption
    | with_reducible exact subM (by decide) hm
    | (with_reducible first | apply State.takeKey_only | apply State.updPnl_only | apply State.cancelEntry_only)
    | with_reducible exact fun _ h => h
    | split

theorem execKeyTimeout_only (s : State) :
    State.OnlyOut s 263182 (execKeyTimeout s) := by
  have hm : 263182 ||| 263182 = 263182 := rfl
  have h : State.OnlyM s 263182 s := State.OnlyM.refl _ _
  unfold execKeyTimeout
  first | apply State.live_only | apply next_only
  repeat' first
    | (intro _)
    | with_reducible assumption
    | with_reducible exact subM (by decide) hm
    | (with_reducible first | apply State.stopTimer_only | apply State.cancelEntry_only)
    | with_reducible exact fun _ h => h
    | split

theorem State.showChk_only {m : Nat} {s0 s : State} (h : s0.OnlyM m s) (hm : 2493774 ||| m = m) :
    s0.OnlyM m (State.showChk s) := by
  unfold State.showChk
  repeat' first
    | (intro _)
    | with_reducible assumption
    | with_reducible exact subM (by decide) hm
    | (extract_lets +onlyGivenNames x; first | (refine (fun hx => ?_ : State.OnlyM s0 m x → _) ?_; (on_goal 1 => clear_value x); (on_goal 2 => subst x)) | clear_value x)
    | (with_reducible first | apply State.startTimer_only | apply State.updPnl_only | apply State.each_only | apply State.stopTimer_only | apply State.pnQueue_only | apply State.pd8On_only)
    | with_reducible exact fun _ h => h
    | split
    | (fail_if_no_progress beta_reduce)

theorem State.chkTick_only {m : Nat} {s0 s : State} (h : s0.OnlyM m s) (hm : 2493774 ||| m = m) :
    s0.OnlyM m (State.chkTick s) := by
  unfold State.chkTick
  repeat' first
    | (intro _)
    | with_reducible assumption
    | with_reducible exact subM (by decide) hm
    | (extract_lets +onlyGivenNames x; first | (refine (fun hx => ?_ : State.OnlyM s0 m x → _) ?_; (on_goal 1 => clear_value x); (on_goal 2 => subst x)) | clear_value x)
    | (with_reducible first | apply State.iff_only | apply State.updPnl_only | apply State.stopTimer_only | apply State.pnQueue_only | apply State.pd8On_only)
    | with_reducible exact fun _ h => h
    | split
    | (fail_if_no_progress beta_reduce)

theorem execKeyD_only (s : State) :
    State.OnlyOut s 2493774 (execKeyD s) := by
  have hm : 2493774 ||| 2493774 = 2493774 := rfl
  have h : State.OnlyM s 2493774 s := State.OnlyM.refl _ _
  unfold execKeyD
  first | apply State.live_only | apply State.liveOn_only | apply next_only
  repeat' first
    | (intro _)
    | with_reducible assumption
    | with_reducible exact subM (by decide) hm
    | (with_reducible first | apply State.takeKey_only | apply State.showChk_only)
    | with_reducible exact fun _ h => h
    | split

end Sys2Proof.Machine
end

