-- ==== Sys2Proof/Laws/OnlyContactless.lean ====
section
/-!
SUPPORT. The parts of the state that the operations and commands of Machine/Contactless.lean change.
-/

set_option linter.all false

namespace Sys2Proof.Machine

open Sys2Proof

theorem State.updPort_only {m : Nat} {s0 s : State} (h : s0.OnlyM m s) (hm : 524288 ||| m = m) (n : Nat) (f : NfcPort → NfcPort) :
    s0.OnlyM m (State.updPort s n f) := by
  unfold State.updPort
  repeat' first
    | (intro _)
    | with_reducible assumption
    | with_reducible exact subM (by decide) hm
    | split
    | (with_reducible apply State.mk_only; (rotate_left); all_goals first | with_reducible exact .inl rfl | exact .inr (bitM (by decide) hm) | skip)
    | with_reducible exact fun _ h => h
    | split

theorem State.cardApplied_only {m : Nat} {s0 s : State} (h : s0.OnlyM m s) (hm : 832526 ||| m = m) (n : Nat) (uid : List Byte) :
    s0.OnlyM m (State.cardApplied s n uid) := by
  unfold State.cardApplied
  repeat' first
    | (intro _)
    | with_reducible assumption
    | with_reducible exact subM (by decide) hm
    | (extract_lets +onlyGivenNames x; first | (refine (fun hx => ?_ : State.OnlyM s0 m x → _) ?_; (on_goal 1 => clear_value x); (on_goal 2 => subst x)) | clear_value x)
    | (with_reducible first | apply State.startTimer_only | apply State.stopTimer_only | apply State.updPort_only | apply State.postAuth_only | apply State.event_only | apply State.setFld_only | apply State.prompt_only)
    | with_reducible exact fun _ h => h
    | split
    | (fail_if_no_progress beta_reduce)

theorem State.showCard_only {m : Nat} {s0 s : State} (h : s0.OnlyM m s) (hm : 2 ||| m = m) (n : Nat) (c : Card) :
    s0.OnlyM m (State.showCard s n c) := by
  unfold State.showCard
  repeat' first
    | (intro _)
    | with_reducible assumption
    | with_reducible exact subM (by decide) hm
    | (extract_lets +onlyGivenNames x; first | (refine (fun hx => ?_ : State.OnlyM s0 m x → _) ?_; (on_goal 1 => clear_value x); (on_goal 2 => subst x)) | clear_value x)
    | (with_reducible first | apply State.setFld_only)
    | with_reducible exact fun _ h => h
    | split

theorem State.pollResult_only {m : Nat} {s0 s : State} (h : s0.OnlyM m s) (hm : 832526 ||| m = m) (n : Nat) (bad : Bool) (cs : List Card) :
    s0.OnlyM m (State.pollResult s n bad cs) := by
  unfold State.pollResult
  repeat' first
    | (intro _)
    | with_reducible assumption
    | with_reducible exact subM (by decide) hm
    | (extract_lets +onlyGivenNames x; first | (refine (fun hx => ?_ : State.OnlyM s0 m x → _) ?_; (on_goal 1 => clear_value x); (on_goal 2 => subst x)) | clear_value x)
    | (with_reducible first | apply State.updPort_only | apply State.inc_only | apply State.showCard_only | apply State.event_only | apply State.prompt_only | apply State.cardApplied_only)
    | with_reducible exact fun _ h => h
    | split
    | (fail_if_no_progress beta_reduce)

theorem execPollCycle_only (s : State) (port : Fin 4) (iant : BitVec 16) (bad : Bool) (cards : List Card) :
    State.OnlyOut s 832526 (execPollCycle port iant bad cards s) := by
  have hm : 832526 ||| 832526 = 832526 := rfl
  have h : State.OnlyM s 832526 s := State.OnlyM.refl _ _
  unfold execPollCycle
  first | apply State.live_only | apply State.liveOn_only | apply next_only
  repeat' first
    | (intro _)
    | with_reducible assumption
    | with_reducible exact subM (by decide) hm
    | (extract_lets +onlyGivenNames x; first | (refine (fun hx => ?_ : State.OnlyM s 832526 x → _) ?_; (on_goal 1 => clear_value x); (on_goal 2 => subst x)) | clear_value x)
    | (with_reducible first | apply State.iff_only | apply State.portShow_only | apply State.setFld_only | apply State.startTimer_only | apply State.updPort_only | apply State.setSat_only | apply State.pollResult_only)
    | with_reducible exact fun _ h => h
    | split
    | (fail_if_no_progress beta_reduce)

theorem State.portTick_only {m : Nat} {s0 s : State} (h : s0.OnlyM m s) (hm : 524298 ||| m = m) :
    s0.OnlyM m (State.portTick s) := by
  unfold State.portTick
  repeat' first
    | (intro _)
    | with_reducible assumption
    | with_reducible exact subM (by decide) hm
    | (with_reducible first | apply State.each_only | apply State.setFld_only | apply State.updPort_only | apply State.stopTimer_only | apply State.portShow_only)
    | with_reducible exact fun _ h => h
    | split

theorem execAntennaFault_only (s : State) (port : Fin 4) :
    State.OnlyOut s 1038 (execAntennaFault port s) := by
  have hm : 1038 ||| 1038 = 1038 := rfl
  have h : State.OnlyM s 1038 s := State.OnlyM.refl _ _
  unfold execAntennaFault
  first | apply State.live_only | apply next_only
  repeat' first
    | (intro _)
    | with_reducible assumption
    | with_reducible exact subM (by decide) hm
    | (with_reducible first | apply State.setFld_only | apply State.startTimer_only | apply State.inc_only | apply State.event_only)
    | with_reducible exact fun _ h => h
    | split

theorem execAntennaRetry_only (s : State) (port : Fin 4) :
    State.OnlyOut s 524298 (execAntennaRetry port s) := by
  have hm : 524298 ||| 524298 = 524298 := rfl
  have h : State.OnlyM s 524298 s := State.OnlyM.refl _ _
  unfold execAntennaRetry
  first | apply State.live_only | apply next_only
  repeat' first
    | (intro _)
    | with_reducible assumption
    | with_reducible exact subM (by decide) hm
    | (extract_lets +onlyGivenNames x; first | (refine (fun hx => ?_ : State.OnlyM s 524298 x → _) ?_; (on_goal 1 => clear_value x); (on_goal 2 => subst x)) | clear_value x)
    | (with_reducible first | apply State.setFld_only | apply State.stopTimer_only | apply State.updPort_only)
    | with_reducible exact fun _ h => h
    | split

theorem execCardHoldExpiry_only (s : State) (port : Fin 4) :
    State.OnlyOut s 525326 (execCardHoldExpiry port s) := by
  have hm : 525326 ||| 525326 = 525326 := rfl
  have h : State.OnlyM s 525326 s := State.OnlyM.refl _ _
  unfold execCardHoldExpiry
  first | apply State.live_only | apply State.liveOn_only | apply next_only
  repeat' first
    | (intro _)
    | with_reducible assumption
    | with_reducible exact subM (by decide) hm
    | (extract_lets +onlyGivenNames x; first | (refine (fun hx => ?_ : State.OnlyM s 525326 x → _) ?_; (on_goal 1 => clear_value x); (on_goal 2 => subst x)) | clear_value x)
    | (with_reducible first | apply State.updPort_only | apply State.stopTimer_only | apply State.event_only | apply State.portShow_only)
    | with_reducible exact fun _ h => h
    | split
    | (fail_if_no_progress beta_reduce)

theorem execApdu_only (s : State) (ring : Fin 64) (resp : Option (List Byte)) :
    State.OnlyOut s 4195342 (execApdu ring resp s) := by
  have hm : 4195342 ||| 4195342 = 4195342 := rfl
  have h : State.OnlyM s 4195342 s := State.OnlyM.refl _ _
  unfold execApdu
  first | apply State.live_only | apply State.liveOn_only | apply next_only
  repeat' first
    | (intro _)
    | with_reducible assumption
    | with_reducible exact subM (by decide) hm
    | (extract_lets +onlyGivenNames x; first | (refine (fun hx => ?_ : State.OnlyM s 4195342 x → _) ?_; (on_goal 1 => clear_value x); (on_goal 2 => subst x)) | clear_value x)
    | (with_reducible first | apply State.serve_only | apply State.complete_only | apply State.dmaFail_only | apply State.completeData_only)
    | with_reducible exact fun _ h => h
    | split
    | (fail_if_no_progress beta_reduce)

theorem State.tagComplete_only {m : Nat} {s0 s : State} (h : s0.OnlyM m s) (hm : 1048576 ||| m = m) (o : Option TagShadow) :
    s0.OnlyM m (State.tagComplete s o) := by
  unfold State.tagComplete
  repeat' first
    | (intro _)
    | with_reducible assumption
    | with_reducible exact subM (by decide) hm
    | (with_reducible first | apply State.updTag_only)
    | with_reducible exact fun _ h => h
    | split

theorem State.tagRecover_only {m : Nat} {s0 s : State} (h : s0.OnlyM m s) (hm : 1048576 ||| m = m) :
    s0.OnlyM m (State.tagRecover s) := by
  unfold State.tagRecover
  repeat' first
    | (intro _)
    | with_reducible assumption
    | with_reducible exact subM (by decide) hm
    | (extract_lets +onlyGivenNames x; first | (refine (fun hx => ?_ : State.OnlyM s0 m x → _) ?_; (on_goal 1 => clear_value x); (on_goal 2 => subst x)) | clear_value x)
    | (with_reducible first | apply State.updTag_only | apply State.tagComplete_only)
    | with_reducible exact fun _ h => h
    | split

theorem State.tagSlot_only {m : Nat} {s0 s : State} (h : s0.OnlyM m s) (hm : 1048576 ||| m = m) (rf : Bool) (o : Option TagShadow) :
    s0.OnlyM m (State.tagSlot s rf o) := by
  unfold State.tagSlot
  repeat' first
    | (intro _)
    | with_reducible assumption
    | with_reducible exact subM (by decide) hm
    | (with_reducible first | apply State.updTag_only)
    | with_reducible exact fun _ h => h
    | split

theorem State.tagPut_only {m : Nat} {s0 s : State} (h : s0.OnlyM m s) (hm : 1048576 ||| m = m) (rf : Bool) (a : Nat) (b : List Byte) (cut : Cut) :
    s0.OnlyM m (State.tagPut s rf a b cut) := by
  unfold State.tagPut
  repeat' first
    | (intro _)
    | with_reducible assumption
    | with_reducible exact subM (by decide) hm
    | (extract_lets +onlyGivenNames x; first | (refine (fun hx => ?_ : State.OnlyM s0 m x → _) ?_; (on_goal 1 => clear_value x); (on_goal 2 => subst x)) | clear_value x)
    | (with_reducible first | apply State.iff_only | apply State.updTag_only | apply State.tagComplete_only | apply State.tagSlot_only)
    | with_reducible exact fun _ h => h
    | split
    | (fail_if_no_progress beta_reduce)

theorem State.tagModPut_only : ∀ (k : Nat) {m : Nat} {s0 s : State} (_ : s0.OnlyM m s) (hm : 1048576 ||| m = m) (a : Nat) (b : List Byte), s0.OnlyM m (s.tagModPut k a b)
  | 0, _, _, _, h, hm, _, _ => h
  | k + 1, m, s0, s, h, hm, a, b => by
    have ih := fun {s} h => @State.tagModPut_only  k m s0 s h hm
    unfold State.tagModPut
    repeat' first
      | (intro _)
      | with_reducible assumption
      | (extract_lets +onlyGivenNames x; first | (refine (fun hx => ?_ : State.OnlyM s0 m x → _) ?_; (on_goal 1 => clear_value x); (on_goal 2 => subst x)) | (refine (fun hx => ?_ : State.OnlyM s0 m x.1 → _) ?_; (on_goal 1 => clear_value x); (on_goal 2 => subst x)) | clear_value x)
      | (with_reducible first | apply ih | apply State.tagPut_only (hm := subM (by decide) hm))
      | with_reducible exact fun _ h => h
      | split

theorem State.tagIdentity_only {m : Nat} {s0 s : State} (h : s0.OnlyM m s) (hm : 1048576 ||| m = m) :
    s0.OnlyM m (State.tagIdentity s) := by
  unfold State.tagIdentity
  repeat' first
    | (intro _)
    | with_reducible assumption
    | with_reducible exact subM (by decide) hm
    | (extract_lets +onlyGivenNames x; first | (refine (fun hx => ?_ : State.OnlyM s0 m x → _) ?_; (on_goal 1 => clear_value x); (on_goal 2 => subst x)) | clear_value x)
    | (with_reducible first | apply State.tagModPut_only)
    | with_reducible exact fun _ h => h
    | split
    | (fail_if_no_progress beta_reduce)

theorem State.tagCapture_only {m : Nat} {s0 s : State} (h : s0.OnlyM m s) (hm : 1048576 ||| m = m) (slot : Nat) (index : Nat) (status : Nat) (cause : Nat) (time : Nat) :
    s0.OnlyM m (State.tagCapture s slot index status cause time) := by
  unfold State.tagCapture
  repeat' first
    | (intro _)
    | with_reducible assumption
    | with_reducible exact subM (by decide) hm
    | (with_reducible first | apply State.tagModPut_only)
    | with_reducible exact fun _ h => h
    | split

theorem State.tagStart_only {m : Nat} {s0 s : State} (h : s0.OnlyM m s) (hm : 1048576 ||| m = m) :
    s0.OnlyM m (State.tagStart s) := by
  unfold State.tagStart
  repeat' first
    | (intro _)
    | with_reducible assumption
    | with_reducible exact subM (by decide) hm
    | (with_reducible first | apply State.tagIdentity_only | apply State.updTag_only)
    | with_reducible exact fun _ h => h
    | split

theorem State.tagDiag_only {m : Nat} {s0 s : State} (h : s0.OnlyM m s) (hm : 1048576 ||| m = m) :
    s0.OnlyM m (State.tagDiag s) := by
  unfold State.tagDiag
  repeat' first
    | (intro _)
    | with_reducible assumption
    | with_reducible exact subM (by decide) hm
    | (extract_lets +onlyGivenNames x; first | clear_value x)
    | (with_reducible first | apply State.tagModPut_only)
    | with_reducible exact fun _ h => h
    | split

theorem State.tagSnap_only {m : Nat} {s0 s : State} (h : s0.OnlyM m s) (hm : 1048584 ||| m = m) (cut : Cut) :
    s0.OnlyM m (State.tagSnap s cut) := by
  unfold State.tagSnap
  repeat' first
    | (intro _)
    | with_reducible assumption
    | with_reducible exact subM (by decide) hm
    | (extract_lets +onlyGivenNames x; first | (refine (fun hx => ?_ : State.OnlyM s0 m x → _) ?_; (on_goal 1 => clear_value x); (on_goal 2 => subst x)) | clear_value x)
    | (with_reducible first | apply State.tagPut_only | apply State.startTimer_only | apply State.updTag_only)
    | with_reducible exact fun _ h => h
    | split
    | (fail_if_no_progress beta_reduce)

theorem State.tagRegs_only {m : Nat} {s0 s : State} (h : s0.OnlyM m s) (hm : 2 ||| m = m) :
    s0.OnlyM m (State.tagRegs s) := by
  unfold State.tagRegs
  repeat' first
    | (intro _)
    | with_reducible assumption
    | with_reducible exact subM (by decide) hm
    | (extract_lets +onlyGivenNames x; first | (refine (fun hx => ?_ : State.OnlyM s0 m x → _) ?_; (on_goal 1 => clear_value x); (on_goal 2 => subst x)) | clear_value x)
    | (with_reducible first | apply State.setFlag_only | apply State.setSat_only | apply State.setFld_only)
    | with_reducible exact fun _ h => h
    | split

theorem State.tagGcRead_only {m : Nat} {s0 s : State} (h : s0.OnlyM m s) (hm : 1049606 ||| m = m) :
    s0.OnlyM m (State.tagGcRead s) := by
  unfold State.tagGcRead
  repeat' first
    | (intro _)
    | with_reducible assumption
    | with_reducible exact subM (by decide) hm
    | (extract_lets +onlyGivenNames x; first | (refine (fun hx => ?_ : State.OnlyM s0 m x → _) ?_; (on_goal 1 => clear_value x); (on_goal 2 => subst x)) | clear_value x)
    | (with_reducible first | apply State.tagRegs_only | apply State.iff_only | apply State.setSat_only | apply State.each_only | apply State.updTag_only | apply State.inc_only | apply State.event_only)
    | with_reducible exact fun _ h => h
    | split

theorem State.tagKey_only {m : Nat} {s0 s : State} (h : s0.OnlyM m s) (hm : 9437186 ||| m = m) :
    s0.OnlyM m (State.tagKey s) := by
  unfold State.tagKey
  repeat' first
    | (intro _)
    | with_reducible assumption
    | with_reducible exact subM (by decide) hm
    | (extract_lets +onlyGivenNames x; first | clear_value x)
    | (with_reducible first | apply State.tagRegs_only | apply State.updTag_only | apply State.updKeys_only)
    | with_reducible exact fun _ h => h
    | split

theorem execTagPowerUp_only (s : State) (byField : Bool) :
    State.OnlyOut s 1048578 (execTagPowerUp byField s) := by
  have hm : 1048578 ||| 1048578 = 1048578 := rfl
  have h : State.OnlyM s 1048578 s := State.OnlyM.refl _ _
  unfold execTagPowerUp
  first | apply State.live_only | apply next_only
  repeat' first
    | (intro _)
    | with_reducible assumption
    | with_reducible exact subM (by decide) hm
    | (with_reducible first | apply State.tagRegs_only | apply State.updTag_only | apply State.tagRecover_only)
    | with_reducible exact fun _ h => h
    | split

theorem execFieldDetected_only (s : State) :
    State.OnlyOut s 1049614 (execFieldDetected s) := by
  have hm : 1049614 ||| 1049614 = 1049614 := rfl
  have h : State.OnlyM s 1049614 s := State.OnlyM.refl _ _
  unfold execFieldDetected
  first | apply State.live_only | apply next_only
  repeat' first
    | (intro _)
    | with_reducible assumption
    | with_reducible exact subM (by decide) hm
    | (extract_lets +onlyGivenNames x; first | (refine (fun hx => ?_ : State.OnlyM s 1049614 x → _) ?_; (on_goal 1 => clear_value x); (on_goal 2 => subst x)) | clear_value x)
    | (with_reducible first | apply State.tagRegs_only | apply State.tagDiag_only | apply State.tagSnap_only | apply State.updTag_only | apply State.tagGcRead_only | apply State.event_only | apply State.tagRecover_only)
    | with_reducible exact fun _ h => h
    | split

theorem State.tagEnd_only {m : Nat} {s0 s : State} (h : s0.OnlyM m s) (hm : 1048578 ||| m = m) :
    s0.OnlyM m (State.tagEnd s) := by
  unfold State.tagEnd
  repeat' first
    | (intro _)
    | with_reducible assumption
    | with_reducible exact subM (by decide) hm
    | (with_reducible first | apply State.tagRegs_only | apply State.updTag_only)
    | with_reducible exact fun _ h => h
    | split

theorem execTagFieldLost_only (s : State) :
    State.OnlyOut s 1048578 (execTagFieldLost s) := by
  have hm : 1048578 ||| 1048578 = 1048578 := rfl
  have h : State.OnlyM s 1048578 s := State.OnlyM.refl _ _
  unfold execTagFieldLost
  first | apply State.live_only | apply next_only
  repeat' first
    | (intro _)
    | with_reducible assumption
    | with_reducible exact subM (by decide) hm
    | (with_reducible first | apply State.tagEnd_only | apply State.updTag_only)
    | with_reducible exact fun _ h => h
    | split

theorem execHlta_only (s : State) :
    State.OnlyOut s 1048578 (execHlta s) := by
  have hm : 1048578 ||| 1048578 = 1048578 := rfl
  have h : State.OnlyM s 1048578 s := State.OnlyM.refl _ _
  unfold execHlta
  first | apply State.live_only | apply next_only
  repeat' first
    | (intro _)
    | with_reducible assumption
    | with_reducible exact subM (by decide) hm
    | (with_reducible first | apply State.tagEnd_only | apply State.updTag_only)
    | with_reducible exact fun _ h => h
    | split

theorem State.tagAnswer_only {m : Nat} {s0 s : State} (h : s0.OnlyM m s) (hm : 1048576 ||| m = m) (st : Option Nat) (b : List Byte) :
    s0.OnlyM m (State.tagAnswer s st b) := by
  unfold State.tagAnswer
  repeat' first
    | (intro _)
    | with_reducible assumption
    | with_reducible exact subM (by decide) hm
    | (with_reducible first | apply State.updTag_only)
    | with_reducible exact fun _ h => h
    | split

theorem State.tagCmd_only {m : Nat} {s0 s : State} (h : s0.OnlyM m s)  (f : State → State) (hf : ∀ z0, s0.OnlyM m z0 → s0.OnlyM m (f z0)) :
    s0.OnlyM m (State.tagCmd s f) := by
  unfold State.tagCmd
  repeat' first
    | (intro _)
    | with_reducible assumption
    | with_reducible exact subM (by decide) hm
    | (with_reducible first | apply hf)
    | with_reducible exact fun _ h => h
    | split

theorem execTagRead_only (s : State) (addr : BitVec 16) (len : Nat) :
    State.OnlyOut s 1048576 (execTagRead addr len s) := by
  have hm : 1048576 ||| 1048576 = 1048576 := rfl
  have h : State.OnlyM s 1048576 s := State.OnlyM.refl _ _
  unfold execTagRead
  first | apply State.live_only | apply next_only
  repeat' first
    | (intro _)
    | with_reducible assumption
    | with_reducible exact subM (by decide) hm
    | (extract_lets +onlyGivenNames x; first | clear_value x)
    | (with_reducible first | apply State.tagCmd_only | apply State.tagAnswer_only)
    | with_reducible exact fun _ h => h
    | split

theorem execTagWrite_only (s : State) (addr : BitVec 16) (data : List Byte) (cut : Cut) :
    State.OnlyOut s 1048578 (execTagWrite addr data cut s) := by
  have hm : 1048578 ||| 1048578 = 1048578 := rfl
  have h : State.OnlyM s 1048578 s := State.OnlyM.refl _ _
  unfold execTagWrite
  first | apply State.live_only | apply next_only
  repeat' first
    | (intro _)
    | with_reducible assumption
    | with_reducible exact subM (by decide) hm
    | (extract_lets +onlyGivenNames x; first | (refine (fun hx => ?_ : State.OnlyM s 1048578 x → _) ?_; (on_goal 1 => clear_value x); (on_goal 2 => subst x)) | (have y : State → State := x; clear y; subst x) | clear_value x)
    | (with_reducible first | apply State.tagPut_only | apply State.tagCmd_only | apply State.tagEnd_only | apply State.updTag_only | apply State.tagAnswer_only)
    | with_reducible exact fun _ h => h
    | split
    | (fail_if_no_progress beta_reduce)

theorem execAuth1_only (s : State) (fieldMs : Nat) :
    State.OnlyOut s 1048608 (execAuth1 fieldMs s) := by
  have hm : 1048608 ||| 1048608 = 1048608 := rfl
  have h : State.OnlyM s 1048608 s := State.OnlyM.refl _ _
  unfold execAuth1
  first | apply State.live_only | apply next_only
  repeat' first
    | (intro _)
    | with_reducible assumption
    | with_reducible exact subM (by decide) hm
    | (extract_lets +onlyGivenNames x; first | (refine (fun hx => ?_ : State.OnlyM s 1048608 x.2 → _) ?_; (on_goal 1 => clear_value x); (on_goal 2 => subst x)) | clear_value x)
    | (with_reducible first | apply State.draw_only | apply State.tagCmd_only | apply State.updTag_only | apply State.tagAnswer_only)
    | with_reducible exact fun _ h => h
    | split

theorem State.authFail_only {m : Nat} {s0 s : State} (h : s0.OnlyM m s) (hm : 1049606 ||| m = m) :
    s0.OnlyM m (State.authFail s) := by
  unfold State.authFail
  repeat' first
    | (intro _)
    | with_reducible assumption
    | with_reducible exact subM (by decide) hm
    | (extract_lets +onlyGivenNames x; first | (refine (fun hx => ?_ : State.OnlyM s0 m x → _) ?_; (on_goal 1 => clear_value x); (on_goal 2 => subst x)) | clear_value x)
    | (with_reducible first | apply State.updTag_only | apply State.tagAnswer_only | apply State.each_only | apply State.event_only | apply State.inc_only | apply State.iff_only | apply State.tagRegs_only)
    | with_reducible exact fun _ h => h
    | split
    | (fail_if_no_progress beta_reduce)

theorem execAuth2_only (s : State) (data : List Byte) :
    State.OnlyOut s 1049606 (execAuth2 data s) := by
  have hm : 1049606 ||| 1049606 = 1049606 := rfl
  have h : State.OnlyM s 1049606 s := State.OnlyM.refl _ _
  unfold execAuth2
  first | apply State.live_only | apply State.liveOn_only | apply next_only
  repeat' first
    | (intro _)
    | with_reducible assumption
    | with_reducible exact subM (by decide) hm
    | (extract_lets +onlyGivenNames x; first | (refine (fun hx => ?_ : State.OnlyM s 1049606 x → _) ?_; (on_goal 1 => clear_value x); (on_goal 2 => subst x)) | clear_value x)
    | (with_reducible first | apply State.tagCmd_only | apply State.tagAnswer_only | apply State.authFail_only | apply State.updTag_only | apply State.tagRegs_only)
    | with_reducible exact fun _ h => h
    | split
    | (fail_if_no_progress beta_reduce)

theorem State.mbxDone_only {m : Nat} {s0 s : State} (h : s0.OnlyM m s) (hm : 1048578 ||| m = m) (seq : Nat) (res : Nat) :
    s0.OnlyM m (State.mbxDone s seq res) := by
  unfold State.mbxDone
  repeat' first
    | (intro _)
    | with_reducible assumption
    | with_reducible exact subM (by decide) hm
    | (extract_lets +onlyGivenNames x; first | (refine (fun hx => ?_ : State.OnlyM s0 m x → _) ?_; (on_goal 1 => clear_value x); (on_goal 2 => subst x)) | clear_value x)
    | (with_reducible first | apply State.tagRegs_only | apply State.updTag_only | apply State.tagModPut_only)
    | with_reducible exact fun _ h => h
    | split

theorem State.mbxSkip_only : ∀ (k : Nat) {m : Nat} {s0 s : State} (_ : s0.OnlyM m s) (hm : 1048578 ||| m = m), s0.OnlyM m (State.mbxSkip k s)
  | 0, _, _, _, h, hm => h
  | k + 1, m, s0, s, h, hm => by
    have ih := fun {s} h => @State.mbxSkip_only  k m s0 s h hm
    unfold State.mbxSkip
    repeat' first
      | (intro _)
      | with_reducible assumption
      | (extract_lets +onlyGivenNames x; first | (refine (fun hx => ?_ : State.OnlyM s0 m x → _) ?_; (on_goal 1 => clear_value x); (on_goal 2 => subst x)) | (refine (fun hx => ?_ : State.OnlyM s0 m x.1 → _) ?_; (on_goal 1 => clear_value x); (on_goal 2 => subst x)) | clear_value x)
      | (with_reducible first | apply ih | apply State.mbxDone_only (hm := subM (by decide) hm))
      | with_reducible exact fun _ h => h
      | split

theorem State.mbxRun_only {m : Nat} {s0 s : State} (h : s0.OnlyM m s) (hm : 1048578 ||| m = m) (cmd : Nat) (f : Nat → Nat → State → State × Nat) (hf : ∀ z0 z1 z2, s0.OnlyM m z2 → s0.OnlyM m (f z0 z1 z2).1) :
    s0.OnlyM m (State.mbxRun s cmd f) := by
  unfold State.mbxRun
  repeat' first
    | (intro _)
    | with_reducible assumption
    | with_reducible exact subM (by decide) hm
    | (extract_lets +onlyGivenNames x; first | (refine (fun hx => ?_ : State.OnlyM s0 m x → _) ?_; (on_goal 1 => clear_value x); (on_goal 2 => subst x)) | (refine (fun hx => ?_ : State.OnlyM s0 m x.1 → _) ?_; (on_goal 1 => clear_value x); (on_goal 2 => subst x)) | (refine (fun hx => ?_ : State.OnlyM s0 m x.2 → _) ?_; (on_goal 1 => clear_value x); (on_goal 2 => subst x)) | clear_value x)
    | (with_reducible first | apply hf | apply State.mbxSkip_only | apply State.mbxDone_only)
    | with_reducible exact fun _ h => h
    | split
    | (fail_if_no_progress beta_reduce)

theorem execMark_only (s : State) :
    State.OnlyOut s 1049606 (execMark s) := by
  have hm : 1049606 ||| 1049606 = 1049606 := rfl
  have h : State.OnlyM s 1049606 s := State.OnlyM.refl _ _
  unfold execMark
  first | apply State.live_only | apply next_only
  repeat' first
    | (intro _)
    | with_reducible assumption
    | with_reducible exact subM (by decide) hm
    | (with_reducible first | apply State.mbxRun_only | apply State.event_only)
    | with_reducible exact fun _ h => h
    | split

theorem execPage_only (s : State) :
    State.OnlyOut s 3542350 (execPage s) := by
  have hm : 3542350 ||| 3542350 = 3542350 := rfl
  have h : State.OnlyM s 3542350 s := State.OnlyM.refl _ _
  unfold execPage
  first | apply State.live_only | apply next_only
  repeat' first
    | (intro _)
    | with_reducible assumption
    | with_reducible exact subM (by decide) hm
    | (with_reducible first | apply State.mbxRun_only | apply State.selectPage_only)
    | with_reducible exact fun _ h => h
    | split

theorem execSnap_only (s : State) :
    State.OnlyOut s 1048586 (execSnap s) := by
  have hm : 1048586 ||| 1048586 = 1048586 := rfl
  have h : State.OnlyM s 1048586 s := State.OnlyM.refl _ _
  unfold execSnap
  first | apply State.live_only | apply next_only
  repeat' first
    | (intro _)
    | with_reducible assumption
    | with_reducible exact subM (by decide) hm
    | (with_reducible first | apply State.mbxRun_only | apply State.tagDiag_only | apply State.tagSnap_only)
    | with_reducible exact fun _ h => h
    | split

theorem execStatusSnapshot_only (s : State) (cut : Cut) :
    State.OnlyOut s 1048584 (execStatusSnapshot cut s) := by
  have hm : 1048584 ||| 1048584 = 1048584 := rfl
  have h : State.OnlyM s 1048584 s := State.OnlyM.refl _ _
  unfold execStatusSnapshot
  first | apply State.live_only | apply next_only
  repeat' first
    | (intro _)
    | with_reducible assumption
    | with_reducible exact subM (by decide) hm
    | (with_reducible first | apply State.tagSnap_only)
    | with_reducible exact fun _ h => h
    | split

theorem State.mirrorTake_only {m : Nat} {s0 s : State} (h : s0.OnlyM m s) (hm : 1049606 ||| m = m) :
    s0.OnlyM m (State.mirrorTake s) := by
  unfold State.mirrorTake
  repeat' first
    | (intro _)
    | with_reducible assumption
    | with_reducible exact subM (by decide) hm
    | (extract_lets +onlyGivenNames x; first | (refine (fun hx => ?_ : State.OnlyM s0 m x → _) ?_; (on_goal 1 => clear_value x); (on_goal 2 => subst x)) | clear_value x)
    | (with_reducible first | apply State.each_only | apply State.updTag_only | apply State.inc_only | apply State.tagRegs_only | apply State.iff_only | apply State.event_only)
    | with_reducible exact fun _ h => h
    | split
    | (fail_if_no_progress beta_reduce)

theorem State.mirrorHeader_only {m : Nat} {s0 s : State} (h : s0.OnlyM m s) (hm : 1048576 ||| m = m) :
    s0.OnlyM m (State.mirrorHeader s) := by
  unfold State.mirrorHeader
  repeat' first
    | (intro _)
    | with_reducible assumption
    | with_reducible exact subM (by decide) hm
    | (with_reducible first | apply State.tagModPut_only)
    | with_reducible exact fun _ h => h
    | split

theorem execMirrorWrite_only (s : State) (cut : Cut) :
    State.OnlyOut s 1049606 (execMirrorWrite cut s) := by
  have hm : 1049606 ||| 1049606 = 1049606 := rfl
  have h : State.OnlyM s 1049606 s := State.OnlyM.refl _ _
  unfold execMirrorWrite
  first | apply State.live_only | apply State.liveOn_only | apply next_only
  repeat' first
    | (intro _)
    | with_reducible assumption
    | with_reducible exact subM (by decide) hm
    | (extract_lets +onlyGivenNames x; first | (refine (fun hx => ?_ : State.OnlyM s 1049606 x → _) ?_; (on_goal 1 => clear_value x); (on_goal 2 => subst x)) | clear_value x)
    | (with_reducible first | apply State.mirrorTake_only | apply State.updTag_only | apply State.tagPut_only | apply State.tagRegs_only | apply State.mirrorHeader_only)
    | with_reducible exact fun _ h => h
    | split
    | (fail_if_no_progress beta_reduce)

end Sys2Proof.Machine
end

