-- ==== Sys2Proof/Laws/OnlyMallas.lean ====
section
/-!
SUPPORT. The parts of the state that the operations and commands of Machine/Mallas.lean change.
-/

set_option linter.all false

namespace Sys2Proof.Machine

open Sys2Proof

theorem State.updMl_only {m : Nat} {s0 s : State} (h : s0.OnlyM m s) (hm : 2097152 ||| m = m) (f : MlSt → MlSt) :
    s0.OnlyM m (State.updMl s f) := by
  unfold State.updMl
  repeat' first
    | (intro _)
    | with_reducible assumption
    | with_reducible exact subM (by decide) hm
    | split
    | (with_reducible apply State.mk_only; (rotate_left); all_goals first | with_reducible exact .inl rfl | exact .inr (bitM (by decide) hm) | skip)
    | with_reducible exact fun _ h => h
    | split

theorem State.updSl_only {m : Nat} {s0 s : State} (h : s0.OnlyM m s) (hm : 2097152 ||| m = m) (n : Nat) (f : MlSlave → MlSlave) :
    s0.OnlyM m (State.updSl s n f) := by
  unfold State.updSl
  repeat' first
    | (intro _)
    | with_reducible assumption
    | with_reducible exact subM (by decide) hm
    | (with_reducible first | apply State.updMl_only)
    | with_reducible exact fun _ h => h
    | split

theorem State.setHop_only {m : Nat} {s0 s : State} (h : s0.OnlyM m s) (hm : 2097152 ||| m = m) (a1 : MlHop) :
    s0.OnlyM m (State.setHop s a1) := by
  unfold State.setHop
  repeat' first
    | (intro _)
    | with_reducible assumption
    | with_reducible exact subM (by decide) hm
    | (with_reducible first | apply State.updMl_only)
    | with_reducible exact fun _ h => h
    | split

theorem State.hearHop_only {m : Nat} {s0 s : State} (h : s0.OnlyM m s) (hm : 2097152 ||| m = m) (a : Nat) (b : Nat) (snr : Int) :
    s0.OnlyM m (State.hearHop s a b snr) := by
  unfold State.hearHop
  repeat' first
    | (intro _)
    | with_reducible assumption
    | with_reducible exact subM (by decide) hm
    | (with_reducible first | apply State.setHop_only)
    | with_reducible exact fun _ h => h
    | split

theorem State.useHop_only {m : Nat} {s0 s : State} (h : s0.OnlyM m s) (hm : 2098182 ||| m = m) (n : Nat) (a : Nat) (b : Nat) (snr : Int) :
    s0.OnlyM m (State.useHop s n a b snr) := by
  unfold State.useHop
  repeat' first
    | (intro _)
    | with_reducible assumption
    | with_reducible exact subM (by decide) hm
    | (extract_lets +onlyGivenNames x; first | clear_value x)
    | (with_reducible first | apply State.iff_only | apply State.setHop_only | apply State.event_only)
    | with_reducible exact fun _ h => h
    | split

theorem State.showRoute_only {m : Nat} {s0 s : State} (h : s0.OnlyM m s) (hm : 2 ||| m = m) (n : Nat) (r : Option (List Nat)) :
    s0.OnlyM m (State.showRoute s n r) := by
  unfold State.showRoute
  repeat' first
    | (intro _)
    | with_reducible assumption
    | with_reducible exact subM (by decide) hm
    | (extract_lets +onlyGivenNames x; first | (refine (fun hx => ?_ : State.OnlyM s0 m x → _) ?_; (on_goal 1 => clear_value x); (on_goal 2 => subst x)) | clear_value x)
    | (with_reducible first | apply State.setFld_only | apply State.setFldS_only)
    | with_reducible exact fun _ h => h
    | split

theorem State.reroute_only {m : Nat} {s0 s : State} (h : s0.OnlyM m s) (hm : 2098182 ||| m = m) (n : Nat) :
    s0.OnlyM m (State.reroute s n) := by
  unfold State.reroute
  repeat' first
    | (intro _)
    | with_reducible assumption
    | with_reducible exact subM (by decide) hm
    | (extract_lets +onlyGivenNames x; first | (refine (fun hx => ?_ : State.OnlyM s0 m x → _) ?_; (on_goal 1 => clear_value x); (on_goal 2 => subst x)) | clear_value x)
    | (with_reducible first | apply State.updSl_only | apply State.iff_only | apply State.showRoute_only | apply State.event_only)
    | with_reducible exact fun _ h => h
    | split

theorem State.rerouteAll_only {m : Nat} {s0 s : State} (h : s0.OnlyM m s) (hm : 2098182 ||| m = m) :
    s0.OnlyM m (State.rerouteAll s) := by
  unfold State.rerouteAll
  repeat' first
    | (intro _)
    | with_reducible assumption
    | with_reducible exact subM (by decide) hm
    | (with_reducible first | apply State.reroute_only | apply State.each_only)
    | with_reducible exact fun _ h => h
    | split

theorem State.setSlave_only {m : Nat} {s0 s : State} (h : s0.OnlyM m s) (hm : 1030 ||| m = m) (n : Nat) (st : Nat) :
    s0.OnlyM m (State.setSlave s n st) := by
  unfold State.setSlave
  repeat' first
    | (intro _)
    | with_reducible assumption
    | with_reducible exact subM (by decide) hm
    | (extract_lets +onlyGivenNames x; first | (refine (fun hx => ?_ : State.OnlyM s0 m x → _) ?_; (on_goal 1 => clear_value x); (on_goal 2 => subst x)) | clear_value x)
    | (with_reducible first | apply State.setFld_only | apply State.event_only)
    | with_reducible exact fun _ h => h
    | split

theorem State.pollOut_only {m : Nat} {s0 s : State} (h : s0.OnlyM m s) (hm : 2097152 ||| m = m) :
    s0.OnlyM m (State.pollOut s) := by
  unfold State.pollOut
  repeat' first
    | (intro _)
    | with_reducible assumption
    | with_reducible exact subM (by decide) hm
    | (with_reducible first | apply State.iff_only | apply State.updMl_only)
    | with_reducible exact fun _ h => h
    | split

theorem State.sendPoll_only {m : Nat} {s0 s : State} (h : s0.OnlyM m s) (hm : 2097152 ||| m = m) (mode : Option Nat) (gap : Nat) :
    s0.OnlyM m (State.sendPoll s mode gap) := by
  unfold State.sendPoll
  repeat' first
    | (intro _)
    | with_reducible assumption
    | with_reducible exact subM (by decide) hm
    | (extract_lets +onlyGivenNames x; first | (refine (fun hx => ?_ : State.OnlyM s0 m x → _) ?_; (on_goal 1 => clear_value x); (on_goal 2 => subst x)) | clear_value x)
    | (with_reducible first | apply State.updMl_only | apply State.pollOut_only)
    | with_reducible exact fun _ h => h
    | split
    | (fail_if_no_progress beta_reduce)

theorem State.nextPoll_only {m : Nat} {s0 s : State} (h : s0.OnlyM m s) (hm : 2097152 ||| m = m) :
    s0.OnlyM m (State.nextPoll s) := by
  unfold State.nextPoll
  repeat' first
    | (intro _)
    | with_reducible assumption
    | with_reducible exact subM (by decide) hm
    | (extract_lets +onlyGivenNames x; first | (refine (fun hx => ?_ : State.OnlyM s0 m x → _) ?_; (on_goal 1 => clear_value x); (on_goal 2 => subst x)) | clear_value x)
    | (with_reducible first | apply State.updSl_only | apply State.sendPoll_only | apply State.updMl_only)
    | with_reducible exact fun _ h => h
    | split
    | (fail_if_no_progress beta_reduce)

theorem State.dropPoll_only {m : Nat} {s0 s : State} (h : s0.OnlyM m s) (hm : 2097152 ||| m = m) (n : Nat) :
    s0.OnlyM m (State.dropPoll s n) := by
  unfold State.dropPoll
  repeat' first
    | (intro _)
    | with_reducible assumption
    | with_reducible exact subM (by decide) hm
    | (extract_lets +onlyGivenNames x; first | (refine (fun hx => ?_ : State.OnlyM s0 m x → _) ?_; (on_goal 1 => clear_value x); (on_goal 2 => subst x)) | clear_value x)
    | (with_reducible first | apply State.nextPoll_only | apply State.updMl_only)
    | with_reducible exact fun _ h => h
    | split
    | (fail_if_no_progress beta_reduce)

theorem State.mlStart_only {m : Nat} {s0 s : State} (h : s0.OnlyM m s) (hm : 2098190 ||| m = m) :
    s0.OnlyM m (State.mlStart s) := by
  unfold State.mlStart
  repeat' first
    | (intro _)
    | with_reducible assumption
    | with_reducible exact subM (by decide) hm
    | (extract_lets +onlyGivenNames x; first | (refine (fun hx => ?_ : State.OnlyM s0 m x → _) ?_; (on_goal 1 => clear_value x); (on_goal 2 => subst x)) | clear_value x)
    | (with_reducible first | apply State.updMl_only | apply State.stopTimer_only | apply State.each_only | apply State.updSl_only | apply State.setSlave_only | apply State.showRoute_only | apply State.setFld_only)
    | with_reducible exact fun _ h => h
    | split
    | (fail_if_no_progress beta_reduce)

theorem State.mlEnables_only {m : Nat} {s0 s : State} (h : s0.OnlyM m s) (hm : 2098182 ||| m = m) :
    s0.OnlyM m (State.mlEnables s) := by
  unfold State.mlEnables
  repeat' first
    | (intro _)
    | with_reducible assumption
    | with_reducible exact subM (by decide) hm
    | (extract_lets +onlyGivenNames x; first | (refine (fun hx => ?_ : State.OnlyM s0 m x → _) ?_; (on_goal 1 => clear_value x); (on_goal 2 => subst x)) | clear_value x)
    | (with_reducible first | apply State.each_only | apply State.setSlave_only | apply State.updSl_only | apply State.iff_only | apply State.dropPoll_only | apply State.updMl_only)
    | with_reducible exact fun _ h => h
    | split
    | (fail_if_no_progress beta_reduce)

theorem State.mlTick_only {m : Nat} {s0 s : State} (h : s0.OnlyM m s) (hm : 2098190 ||| m = m) :
    s0.OnlyM m (State.mlTick s) := by
  unfold State.mlTick
  repeat' first
    | (intro _)
    | with_reducible assumption
    | with_reducible exact subM (by decide) hm
    | (extract_lets +onlyGivenNames x; first | (refine (fun hx => ?_ : State.OnlyM s0 m x → _) ?_; (on_goal 1 => clear_value x); (on_goal 2 => subst x)) | clear_value x)
    | (with_reducible first | apply State.updMl_only | apply State.iff_only | apply State.pollOut_only | apply State.mlEnables_only | apply State.setFld_only | apply State.mlStart_only | apply State.mlStop_only)
    | with_reducible exact fun _ h => h
    | split
    | (fail_if_no_progress beta_reduce)

theorem execMallasCycle_only (s : State) (polls : List (List Byte)) :
    State.OnlyOut s 2098190 (execMallasCycle polls s) := by
  have hm : 2098190 ||| 2098190 = 2098190 := rfl
  have h : State.OnlyM s 2098190 s := State.OnlyM.refl _ _
  unfold execMallasCycle
  first | apply State.live_only | apply State.liveOn_only | apply next_only
  repeat' first
    | (intro _)
    | with_reducible assumption
    | with_reducible exact subM (by decide) hm
    | (extract_lets +onlyGivenNames x; first | (refine (fun hx => ?_ : State.OnlyM s 2098190 x → _) ?_; (on_goal 1 => clear_value x); (on_goal 2 => subst x)) | clear_value x)
    | (with_reducible first | apply State.iff_only | apply State.inc_only | apply State.updMl_only | apply State.each_only | apply State.setSlave_only | apply State.updSl_only | apply State.startTimer_only | apply State.sendPoll_only | apply State.rerouteAll_only)
    | with_reducible exact fun _ h => h
    | split
    | (fail_if_no_progress beta_reduce)

theorem execMallasAnswer_only (s : State) (fc : BitVec 36) (payload : List Byte) (hops : List (Int × Int)) (heard : List (Nat × Int)) :
    State.OnlyOut s 2098190 (execMallasAnswer fc payload hops heard s) := by
  have hm : 2098190 ||| 2098190 = 2098190 := rfl
  have h : State.OnlyM s 2098190 s := State.OnlyM.refl _ _
  unfold execMallasAnswer
  first | apply State.live_only | apply State.liveOn_only | apply next_only
  repeat' first
    | (intro _)
    | with_reducible assumption
    | with_reducible exact subM (by decide) hm
    | (extract_lets +onlyGivenNames x; first | (refine (fun hx => ?_ : State.OnlyM s 2098190 x → _) ?_; (on_goal 1 => clear_value x); (on_goal 2 => subst x)) | clear_value x)
    | (with_reducible first | apply State.setFld_only | apply State.startTimer_only | apply State.updSl_only | apply State.each_only | apply State.useHop_only | apply State.hearHop_only | apply State.nextPoll_only | apply State.rerouteAll_only)
    | with_reducible exact fun _ h => h
    | split
    | (fail_if_no_progress beta_reduce)

theorem execMallasExchangeFail_only (s : State) (slave : Fin 64) (missing : Bool) (snr : Int) (peaks : List Nat) :
    State.OnlyOut s 2098182 (execMallasExchangeFail slave missing snr peaks s) := by
  have hm : 2098182 ||| 2098182 = 2098182 := rfl
  have h : State.OnlyM s 2098182 s := State.OnlyM.refl _ _
  unfold execMallasExchangeFail
  first | apply State.live_only | apply State.liveOn_only | apply next_only
  repeat' first
    | (intro _)
    | with_reducible assumption
    | with_reducible exact subM (by decide) hm
    | (extract_lets +onlyGivenNames x; first | (refine (fun hx => ?_ : State.OnlyM s 2098182 x → _) ?_; (on_goal 1 => clear_value x); (on_goal 2 => subst x)) | clear_value x)
    | (with_reducible first | apply State.iff_only | apply State.inc_only | apply State.event_only | apply State.updMl_only | apply State.showRoute_only | apply State.useHop_only | apply State.sendPoll_only | apply State.nextPoll_only)
    | with_reducible exact fun _ h => h
    | split
    | (fail_if_no_progress beta_reduce)

theorem execSlaveLost_only (s : State) (slave : Fin 64) :
    State.OnlyOut s 2098182 (execSlaveLost slave s) := by
  have hm : 2098182 ||| 2098182 = 2098182 := rfl
  have h : State.OnlyM s 2098182 s := State.OnlyM.refl _ _
  unfold execSlaveLost
  first | apply State.live_only | apply State.liveOn_only | apply next_only
  repeat' first
    | (intro _)
    | with_reducible assumption
    | with_reducible exact subM (by decide) hm
    | (extract_lets +onlyGivenNames x; first | (refine (fun hx => ?_ : State.OnlyM s 2098182 x → _) ?_; (on_goal 1 => clear_value x); (on_goal 2 => subst x)) | clear_value x)
    | (with_reducible first | apply State.setSlave_only | apply State.event_only | apply State.updMl_only | apply State.dropPoll_only | apply State.rerouteAll_only)
    | with_reducible exact fun _ h => h
    | split
    | (fail_if_no_progress beta_reduce)

theorem execDiscovery_only (s : State) :
    State.OnlyOut s 2097160 (execDiscovery s) := by
  have hm : 2097160 ||| 2097160 = 2097160 := rfl
  have h : State.OnlyM s 2097160 s := State.OnlyM.refl _ _
  unfold execDiscovery
  first | apply State.live_only | apply State.liveOn_only | apply next_only
  repeat' first
    | (intro _)
    | with_reducible assumption
    | with_reducible exact subM (by decide) hm
    | (extract_lets +onlyGivenNames x; first | (refine (fun hx => ?_ : State.OnlyM s 2097160 x → _) ?_; (on_goal 1 => clear_value x); (on_goal 2 => subst x)) | clear_value x)
    | (with_reducible first | apply State.updMl_only | apply State.startTimer_only)
    | with_reducible exact fun _ h => h
    | split
    | (fail_if_no_progress beta_reduce)

theorem execDiscoveryAnswer_only (s : State) (id : BitVec 48) (slot : Fin 8) (snr : Int) :
    State.OnlyOut s 2098182 (execDiscoveryAnswer id slot snr s) := by
  have hm : 2098182 ||| 2098182 = 2098182 := rfl
  have h : State.OnlyM s 2098182 s := State.OnlyM.refl _ _
  unfold execDiscoveryAnswer
  first | apply State.live_only | apply State.liveOn_only | apply next_only
  repeat' first
    | (intro _)
    | with_reducible assumption
    | with_reducible exact subM (by decide) hm
    | (extract_lets +onlyGivenNames x; first | (refine (fun hx => ?_ : State.OnlyM s 2098182 x → _) ?_; (on_goal 1 => clear_value x); (on_goal 2 => subst x)) | clear_value x)
    | (with_reducible first | apply State.updMl_only | apply State.event_only | apply State.inc_only | apply State.setFld_only | apply State.hearHop_only | apply State.updSl_only | apply id_only)
    | with_reducible exact fun _ h => h
    | split
    | (fail_if_no_progress beta_reduce)

theorem execTimeFrame_only (s : State) :
    State.OnlyOut s 2097152 (execTimeFrame s) := by
  have hm : 2097152 ||| 2097152 = 2097152 := rfl
  have h : State.OnlyM s 2097152 s := State.OnlyM.refl _ _
  unfold execTimeFrame
  first | apply State.live_only | apply State.liveOn_only | apply next_only
  repeat' first
    | (intro _)
    | with_reducible assumption
    | with_reducible exact subM (by decide) hm
    | (extract_lets +onlyGivenNames x; first | (refine (fun hx => ?_ : State.OnlyM s 2097152 x → _) ?_; (on_goal 1 => clear_value x); (on_goal 2 => subst x)) | clear_value x)
    | (with_reducible first | apply State.updMl_only)
    | with_reducible exact fun _ h => h
    | split
    | (fail_if_no_progress beta_reduce)

end Sys2Proof.Machine
end

