-- ==== Sys2Proof/Laws/OnlyMemory.lean ====
section
/-!
SUPPORT. The parts of the state that the operations and commands of Machine/Memory.lean change.
-/

set_option linter.all false

namespace Sys2Proof.Machine

open Sys2Proof

theorem State.haltCore_only {m : Nat} {s0 s : State} (h : s0.OnlyM m s) (hm : 115867086 ||| m = m) (i : Nat) :
    s0.OnlyM m (State.haltCore s i) := by
  unfold State.haltCore
  repeat' first
    | (intro _)
    | with_reducible assumption
    | with_reducible exact subM (by decide) hm
    | (extract_lets +onlyGivenNames x; first | (refine (fun hx => ?_ : State.OnlyM s0 m x → _) ?_; (on_goal 1 => clear_value x); (on_goal 2 => subst x)) | clear_value x)
    | (with_reducible first | apply State.iff_only | apply State.trialFail_only | apply State.ceHalt_only | apply State.setFld_only | apply State.event_only)
    | with_reducible exact fun _ h => h
    | split

theorem State.readCost_only {m : Nat} {s0 s : State} (h : s0.OnlyM m s) (hm : 1024 ||| m = m) (a1 : Nat) :
    s0.OnlyM m (State.readCost s a1) := by
  unfold State.readCost
  repeat' first
    | (intro _)
    | with_reducible assumption
    | with_reducible exact subM (by decide) hm
    | (with_reducible first | apply State.iff_only | apply State.updCe_only)
    | with_reducible exact fun _ h => h
    | split

theorem execCorrectionWriteBack_only (s : State) (mem : Fin 9) (tile : Nat) (t : MemTile) (stuck : Bool) :
    State.OnlyOut s 16778246 (execCorrectionWriteBack mem tile t stuck s) := by
  have hm : 16778246 ||| 16778246 = 16778246 := rfl
  have h : State.OnlyM s 16778246 s := State.OnlyM.refl _ _
  unfold execCorrectionWriteBack
  first | apply State.live_only | apply State.liveOn_only | apply next_only
  repeat' first
    | (intro _)
    | with_reducible assumption
    | with_reducible exact subM (by decide) hm
    | (extract_lets +onlyGivenNames x; first | (refine (fun hx => ?_ : State.OnlyM s 16778246 x → _) ?_; (on_goal 1 => clear_value x); (on_goal 2 => subst x)) | clear_value x)
    | (with_reducible first | apply State.readCost_only | apply State.corrected_only)
    | with_reducible exact fun _ h => h
    | split
    | (fail_if_no_progress beta_reduce)

theorem State.checkOld_only {m : Nat} {s0 s : State} (h : s0.OnlyM m s) (hm : 16778246 ||| m = m) (a1 : Nat) (word : Nat) (t : MemTile) :
    s0.OnlyM m (State.checkOld s a1 word t) := by
  unfold State.checkOld
  repeat' first
    | (intro _)
    | with_reducible assumption
    | with_reducible exact subM (by decide) hm
    | (with_reducible first | apply State.readCost_only | apply State.corrected_only | apply State.memTrace_only | apply State.poisonWords_only)
    | with_reducible exact fun _ h => h
    | split

theorem State.trapCore_only {m : Nat} {s0 s : State} (h : s0.OnlyM m s) (hm : 115867086 ||| m = m) (core : Nat) (a2 : Nat) (addr : Nat) :
    s0.OnlyM m (State.trapCore s core a2 addr) := by
  unfold State.trapCore
  repeat' first
    | (intro _)
    | with_reducible assumption
    | with_reducible exact subM (by decide) hm
    | (with_reducible first | apply State.haltCore_only | apply State.event_only)
    | with_reducible exact fun _ h => h
    | split

theorem State.drainOne_only {m : Nat} {s0 s : State} (h : s0.OnlyM m s) (hm : 132644302 ||| m = m) (a1 : Nat) (t : MemTile) :
    s0.OnlyM m (State.drainOne s a1 t) := by
  unfold State.drainOne
  repeat' first
    | (intro _)
    | with_reducible assumption
    | with_reducible exact subM (by decide) hm
    | (extract_lets +onlyGivenNames x; first | (refine (fun hx => ?_ : State.OnlyM s0 m x → _) ?_; (on_goal 1 => clear_value x); (on_goal 2 => subst x)) | clear_value x)
    | (with_reducible first | apply State.updUnit_only | apply State.checkOld_only | apply State.poisRegs_only | apply State.updMem_only | apply State.memTrace_only | apply State.poisonWords_only | apply State.trapCore_only | apply State.event_only)
    | with_reducible exact fun _ h => h
    | split
    | (fail_if_no_progress beta_reduce)

theorem State.writeGate_only {m : Nat} {s0 s : State} (h : s0.OnlyM m s) (hm : 1030 ||| m = m) (a1 : Nat) (w : Option MemWrite) :
    s0.OnlyM m (State.writeGate s a1 w).1 := by
  unfold State.writeGate
  repeat' first
    | (intro _)
    | with_reducible assumption
    | with_reducible exact subM (by decide) hm
    | (with_reducible first | apply State.event_only)
    | with_reducible exact fun _ h => h
    | split

theorem execMergeDrain_only (s : State) (mem : Fin 9) (arrived : Option MemWrite) (busy : Bool) (t : MemTile) :
    State.OnlyOut s 132644302 (execMergeDrain mem arrived busy t s) := by
  have hm : 132644302 ||| 132644302 = 132644302 := rfl
  have h : State.OnlyM s 132644302 s := State.OnlyM.refl _ _
  unfold execMergeDrain
  first | apply State.live_only | apply State.liveOn_only | apply next_only
  repeat' first
    | (intro _)
    | with_reducible assumption
    | with_reducible exact subM (by decide) hm
    | (extract_lets +onlyGivenNames x; first | (refine (fun hx => ?_ : State.OnlyM s 132644302 x → _) ?_; (on_goal 1 => clear_value x); (on_goal 2 => subst x)) | (refine (fun hx => ?_ : State.OnlyM s 132644302 x.1 → _) ?_; (on_goal 1 => clear_value x); (on_goal 2 => subst x)) | (refine (fun hx => ?_ : State.OnlyM s 132644302 x.2 → _) ?_; (on_goal 1 => clear_value x); (on_goal 2 => subst x)) | clear_value x)
    | (with_reducible first | apply State.writeGate_only | apply State.drainOne_only | apply State.updUnit_only | apply State.inc_only)
    | with_reducible exact fun _ h => h
    | split
    | (fail_if_no_progress beta_reduce)

theorem execFetchTrap_only (s : State) (core : Fin 8) (mem : Fin 9) (addr : BitVec 32) (synd : Word) (unwritten : Bool) :
    State.OnlyOut s 132644302 (execFetchTrap core mem addr synd unwritten s) := by
  have hm : 132644302 ||| 132644302 = 132644302 := rfl
  have h : State.OnlyM s 132644302 s := State.OnlyM.refl _ _
  unfold execFetchTrap
  first | apply State.live_only | apply State.liveOn_only | apply next_only
  repeat' first
    | (intro _)
    | with_reducible assumption
    | with_reducible exact subM (by decide) hm
    | (extract_lets +onlyGivenNames x; first | (refine (fun hx => ?_ : State.OnlyM s 132644302 x → _) ?_; (on_goal 1 => clear_value x); (on_goal 2 => subst x)) | clear_value x)
    | (with_reducible first | apply State.iff_only | apply State.memTrace_only | apply State.poisonWords_only | apply State.trapCore_only)
    | with_reducible exact fun _ h => h
    | split
    | (fail_if_no_progress beta_reduce)

theorem State.cvuLoad_only {m : Nat} {s0 s : State} (h : s0.OnlyM m s) (hm : 1038 ||| m = m) (u : Nat) (ok : Bool) :
    s0.OnlyM m (State.cvuLoad s u ok) := by
  unfold State.cvuLoad
  repeat' first
    | (intro _)
    | with_reducible assumption
    | with_reducible exact subM (by decide) hm
    | (extract_lets +onlyGivenNames x; first | (refine (fun hx => ?_ : State.OnlyM s0 m x → _) ?_; (on_goal 1 => clear_value x); (on_goal 2 => subst x)) | clear_value x)
    | (with_reducible first | apply State.setFlag_only | apply State.setFld_only | apply State.startTimer_only | apply State.stopTimer_only | apply State.event_only)
    | with_reducible exact fun _ h => h
    | split

theorem State.cvuAct_only {m : Nat} {s0 s : State} (h : s0.OnlyM m s) (hm : 115867086 ||| m = m) (u : Nat) :
    s0.OnlyM m (State.cvuAct s u) := by
  unfold State.cvuAct
  repeat' first
    | (intro _)
    | with_reducible assumption
    | with_reducible exact subM (by decide) hm
    | (extract_lets +onlyGivenNames x; first | (refine (fun hx => ?_ : State.OnlyM s0 m x → _) ?_; (on_goal 1 => clear_value x); (on_goal 2 => subst x)) | clear_value x)
    | (with_reducible first | apply State.deferStart_only | apply State.loadTable_only | apply State.haltCore_only | apply State.setFld_only | apply State.each_only | apply State.stopTimer_only)
    | with_reducible exact fun _ h => h
    | split

theorem execCvuSweep_only (s : State) (cvu : Fin 8) (crc : Word) (unc : Bool) :
    State.OnlyOut s 115867086 (execCvuSweep cvu crc unc s) := by
  have hm : 115867086 ||| 115867086 = 115867086 := rfl
  have h : State.OnlyM s 115867086 s := State.OnlyM.refl _ _
  unfold execCvuSweep
  first | apply State.live_only | apply next_only
  repeat' first
    | (intro _)
    | with_reducible assumption
    | with_reducible exact subM (by decide) hm
    | (extract_lets +onlyGivenNames x; first | (refine (fun hx => ?_ : State.OnlyM s 115867086 x → _) ?_; (on_goal 1 => clear_value x); (on_goal 2 => subst x)) | clear_value x)
    | (with_reducible first | apply State.iff_only | apply State.setFld_only | apply State.startTimer_only | apply State.cvuAct_only | apply State.inc_only | apply State.event_only)
    | with_reducible exact fun _ h => h
    | split

theorem execCvuGuardHit_only (s : State) (cvu : Fin 8) (writer : Fin 8) (addr : BitVec 32) :
    State.OnlyOut s 115867086 (execCvuGuardHit cvu writer addr s) := by
  have hm : 115867086 ||| 115867086 = 115867086 := rfl
  have h : State.OnlyM s 115867086 s := State.OnlyM.refl _ _
  unfold execCvuGuardHit
  first | apply State.live_only | apply next_only
  repeat' first
    | (intro _)
    | with_reducible assumption
    | with_reducible exact subM (by decide) hm
    | (extract_lets +onlyGivenNames x; first | clear_value x)
    | (with_reducible first | apply State.cvuAct_only | apply State.inc_only | apply State.event_only)
    | with_reducible exact fun _ h => h
    | split

theorem State.poisonHalt_only {m : Nat} {s0 s : State} (h : s0.OnlyM m s) (hm : 115867086 ||| m = m) (a1 : Nat) (ws : List Nat) :
    s0.OnlyM m (State.poisonHalt s a1 ws) := by
  unfold State.poisonHalt
  repeat' first
    | (intro _)
    | with_reducible assumption
    | with_reducible exact subM (by decide) hm
    | (with_reducible first | apply State.haltCore_only)
    | with_reducible exact fun _ h => h
    | split

theorem State.scrubNext_only {m : Nat} {s0 s : State} (h : s0.OnlyM m s) (hm : 16777226 ||| m = m) (a1 : Nat) :
    s0.OnlyM m (State.scrubNext s a1) := by
  unfold State.scrubNext
  repeat' first
    | (intro _)
    | with_reducible assumption
    | with_reducible exact subM (by decide) hm
    | (extract_lets +onlyGivenNames x; first | (refine (fun hx => ?_ : State.OnlyM s0 m x → _) ?_; (on_goal 1 => clear_value x); (on_goal 2 => subst x)) | clear_value x)
    | (with_reducible first | apply State.setSat_only | apply State.setFld_only | apply State.startTimer_only | apply State.updUnit_only)
    | with_reducible exact fun _ h => h
    | split

theorem execScrubTile_only (s : State) (mem : Fin 9) (t : MemTile) (stuck : Bool) :
    State.OnlyOut s 132644302 (execScrubTile mem t stuck s) := by
  have hm : 132644302 ||| 132644302 = 132644302 := rfl
  have h : State.OnlyM s 132644302 s := State.OnlyM.refl _ _
  unfold execScrubTile
  first | apply State.live_only | apply State.liveOn_only | apply next_only
  repeat' first
    | (intro _)
    | with_reducible assumption
    | with_reducible exact subM (by decide) hm
    | (extract_lets +onlyGivenNames x; first | (refine (fun hx => ?_ : State.OnlyM s 132644302 x → _) ?_; (on_goal 1 => clear_value x); (on_goal 2 => subst x)) | clear_value x)
    | (with_reducible first | apply State.iff_only | apply State.startTimer_only | apply State.poisonWords_only | apply State.corrected_only | apply State.memTrace_only | apply State.inc_only | apply State.updMem_only | apply State.poisonHalt_only | apply State.event_only | apply State.scrubNext_only)
    | with_reducible exact fun _ h => h
    | split
    | (fail_if_no_progress beta_reduce)

theorem execScrubPassLate_only (s : State) (mem : Fin 9) :
    State.OnlyOut s 16778246 (execScrubPassLate mem s) := by
  have hm : 16778246 ||| 16778246 = 16778246 := rfl
  have h : State.OnlyM s 16778246 s := State.OnlyM.refl _ _
  unfold execScrubPassLate
  first | apply State.live_only | apply next_only
  repeat' first
    | (intro _)
    | with_reducible assumption
    | with_reducible exact subM (by decide) hm
    | (extract_lets +onlyGivenNames x; first | (refine (fun hx => ?_ : State.OnlyM s 16778246 x → _) ?_; (on_goal 1 => clear_value x); (on_goal 2 => subst x)) | clear_value x)
    | (with_reducible first | apply State.iff_only | apply State.setFld_only | apply State.updUnit_only | apply State.event_only)
    | with_reducible exact fun _ h => h
    | split

theorem State.memStart_only {m : Nat} {s0 s : State} (h : s0.OnlyM m s) (hm : 16777226 ||| m = m) (bad : List (Nat × Nat)) :
    s0.OnlyM m (State.memStart s bad) := by
  unfold State.memStart
  repeat' first
    | (intro _)
    | with_reducible assumption
    | with_reducible exact subM (by decide) hm
    | (extract_lets +onlyGivenNames x; first | (refine (fun hx => ?_ : State.OnlyM s0 m x → _) ?_; (on_goal 1 => clear_value x); (on_goal 2 => subst x)) | clear_value x)
    | (with_reducible first | apply State.updMem_only | apply State.each_only | apply State.setSat_only | apply State.updUnit_only | apply State.poisRegs_only | apply State.setFld_only | apply State.startTimer_only)
    | with_reducible exact fun _ h => h
    | split
    | (fail_if_no_progress beta_reduce)

theorem State.copyLost_only {m : Nat} {s0 s : State} (h : s0.OnlyM m s) (hm : 132644302 ||| m = m) (i : Nat) (addr : Nat) :
    s0.OnlyM m (State.copyLost s i addr) := by
  unfold State.copyLost
  repeat' first
    | (intro _)
    | with_reducible assumption
    | with_reducible exact subM (by decide) hm
    | (extract_lets +onlyGivenNames x; first | (refine (fun hx => ?_ : State.OnlyM s0 m x → _) ?_; (on_goal 1 => clear_value x); (on_goal 2 => subst x)) | clear_value x)
    | (with_reducible first | apply State.setFld_only | apply State.trapCore_only | apply State.event_only | apply State.updMem_only)
    | with_reducible exact fun _ h => h
    | split
    | (fail_if_no_progress beta_reduce)

theorem State.copiesTick_only {m : Nat} {s0 s : State} (h : s0.OnlyM m s) (hm : 16777216 ||| m = m) :
    s0.OnlyM m (State.copiesTick s) := by
  unfold State.copiesTick
  repeat' first
    | (intro _)
    | with_reducible assumption
    | with_reducible exact subM (by decide) hm
    | (with_reducible first | apply State.updMem_only)
    | with_reducible exact fun _ h => h
    | split

theorem State.memTick_only {m : Nat} {s0 s : State} (h : s0.OnlyM m s) (hm : 132644302 ||| m = m) (bad : List (Nat × Nat)) (unwr : List (Nat × Nat)) :
    s0.OnlyM m (State.memTick s bad unwr) := by
  unfold State.memTick
  repeat' first
    | (intro _)
    | with_reducible assumption
    | with_reducible exact subM (by decide) hm
    | (extract_lets +onlyGivenNames x; first | (refine (fun hx => ?_ : State.OnlyM s0 m x → _) ?_; (on_goal 1 => clear_value x); (on_goal 2 => subst x)) | clear_value x)
    | (with_reducible first | apply State.updMem_only | apply State.iff_only | apply State.each_only | apply State.updUnit_only | apply State.backAll_only | apply State.copiesTick_only | apply State.copyLost_only | apply State.event_only | apply State.setSat_only)
    | with_reducible exact fun _ h => h
    | split
    | (fail_if_no_progress beta_reduce)

end Sys2Proof.Machine
end

