-- ==== Sys2Proof/Laws/OnlyModes.lean ====
section
/-!
SUPPORT. The parts of the state that the operations and commands of Machine/Modes.lean change.
-/

set_option linter.all false

namespace Sys2Proof.Machine

open Sys2Proof

theorem State.modeRefuse_only {m : Nat} {s0 s : State} (h : s0.OnlyM m s) (hm : 1030 ||| m = m) (target : Nat) (reason : Nat) :
    s0.OnlyM m (State.modeRefuse s target reason) := by
  unfold State.modeRefuse
  repeat' first
    | (intro _)
    | with_reducible assumption
    | with_reducible exact subM (by decide) hm
    | (with_reducible first | apply State.setFld_only | apply State.event_only)
    | with_reducible exact fun _ h => h
    | split

theorem State.modeStops_only {m : Nat} {s0 s : State} (h : s0.OnlyM m s) (hm : 33600526 ||| m = m) (req : Nat) :
    s0.OnlyM m (State.modeStops s req) := by
  unfold State.modeStops
  repeat' first
    | (intro _)
    | with_reducible assumption
    | with_reducible exact subM (by decide) hm
    | (extract_lets +onlyGivenNames x; first | (refine (fun hx => ?_ : State.OnlyM s0 m x → _) ?_; (on_goal 1 => clear_value x); (on_goal 2 => subst x)) | clear_value x)
    | (with_reducible first | apply State.evseStopAll_only | apply State.startTimer_only | apply State.each_only | apply State.updSys_only)
    | with_reducible exact fun _ h => h
    | split

theorem State.modeReq_only {m : Nat} {s0 s : State} (h : s0.OnlyM m s) (hm : 115867086 ||| m = m) (target : Nat) :
    s0.OnlyM m (State.modeReq s target) := by
  unfold State.modeReq
  repeat' first
    | (intro _)
    | with_reducible assumption
    | with_reducible exact subM (by decide) hm
    | (extract_lets +onlyGivenNames x; first | (refine (fun hx => ?_ : State.OnlyM s0 m x → _) ?_; (on_goal 1 => clear_value x); (on_goal 2 => subst x)) | clear_value x)
    | (with_reducible first | apply State.modeRefuse_only | apply State.setMode_only | apply State.modeStops_only | apply State.iff_only | apply State.event_only | apply State.setFlag_only | apply State.startTimer_only | apply State.beginStart_only)
    | with_reducible exact fun _ h => h
    | split
    | (fail_if_no_progress beta_reduce)

theorem execMdReqCommission_only (s : State) :
    State.OnlyOut s 115867086 (execMdReqCommission s) := by
  have hm : 115867086 ||| 115867086 = 115867086 := rfl
  have h : State.OnlyM s 115867086 s := State.OnlyM.refl _ _
  unfold execMdReqCommission
  first | apply State.live_only | apply next_only
  repeat' first
    | (intro _)
    | with_reducible assumption
    | with_reducible exact subM (by decide) hm
    | (with_reducible first | apply State.modeReq_only)
    | with_reducible exact fun _ h => h
    | split

theorem execMdReqStandby_only (s : State) :
    State.OnlyOut s 115867086 (execMdReqStandby s) := by
  have hm : 115867086 ||| 115867086 = 115867086 := rfl
  have h : State.OnlyM s 115867086 s := State.OnlyM.refl _ _
  unfold execMdReqStandby
  first | apply State.live_only | apply next_only
  repeat' first
    | (intro _)
    | with_reducible assumption
    | with_reducible exact subM (by decide) hm
    | (with_reducible first | apply State.modeReq_only)
    | with_reducible exact fun _ h => h
    | split

theorem execMdReqRun_only (s : State) :
    State.OnlyOut s 115867086 (execMdReqRun s) := by
  have hm : 115867086 ||| 115867086 = 115867086 := rfl
  have h : State.OnlyM s 115867086 s := State.OnlyM.refl _ _
  unfold execMdReqRun
  first | apply State.live_only | apply next_only
  repeat' first
    | (intro _)
    | with_reducible assumption
    | with_reducible exact subM (by decide) hm
    | (with_reducible first | apply State.modeReq_only)
    | with_reducible exact fun _ h => h
    | split

theorem execMdReqBench_only (s : State) :
    State.OnlyOut s 115867086 (execMdReqBench s) := by
  have hm : 115867086 ||| 115867086 = 115867086 := rfl
  have h : State.OnlyM s 115867086 s := State.OnlyM.refl _ _
  unfold execMdReqBench
  first | apply State.live_only | apply next_only
  repeat' first
    | (intro _)
    | with_reducible assumption
    | with_reducible exact subM (by decide) hm
    | (with_reducible first | apply State.modeReq_only)
    | with_reducible exact fun _ h => h
    | split

theorem execMdReqStart_only (s : State) :
    State.OnlyOut s 115867086 (execMdReqStart s) := by
  have hm : 115867086 ||| 115867086 = 115867086 := rfl
  have h : State.OnlyM s 115867086 s := State.OnlyM.refl _ _
  unfold execMdReqStart
  first | apply State.live_only | apply next_only
  repeat' first
    | (intro _)
    | with_reducible assumption
    | with_reducible exact subM (by decide) hm
    | (with_reducible first | apply State.modeReq_only)
    | with_reducible exact fun _ h => h
    | split

theorem execStandbyEntry_only (s : State) :
    State.OnlyOut s 115867086 (execStandbyEntry s) := by
  have hm : 115867086 ||| 115867086 = 115867086 := rfl
  have h : State.OnlyM s 115867086 s := State.OnlyM.refl _ _
  unfold execStandbyEntry
  first | apply State.live_only | apply next_only
  repeat' first
    | (intro _)
    | with_reducible assumption
    | with_reducible exact subM (by decide) hm
    | (with_reducible first | apply State.beginStart_only | apply State.setMode_only)
    | with_reducible exact fun _ h => h
    | split

theorem execStandbyStopTimeout_only (s : State) :
    State.OnlyOut s 113678 (execStandbyStopTimeout s) := by
  have hm : 113678 ||| 113678 = 113678 := rfl
  have h : State.OnlyM s 113678 s := State.OnlyM.refl _ _
  unfold execStandbyStopTimeout
  first | apply State.live_only | apply next_only
  repeat' first
    | (intro _)
    | with_reducible assumption
    | with_reducible exact subM (by decide) hm
    | (with_reducible first | apply State.controlledStop_only | apply State.each_only | apply State.safetyEnd_only | apply State.stopTimer_only)
    | with_reducible exact fun _ h => h
    | split

theorem State.benchClose_only {m : Nat} {s0 s : State} (h : s0.OnlyM m s) (hm : 10 ||| m = m) :
    s0.OnlyM m (State.benchClose s) := by
  unfold State.benchClose
  repeat' first
    | (intro _)
    | with_reducible assumption
    | with_reducible exact subM (by decide) hm
    | (with_reducible first | apply State.setFlag_only | apply State.stopTimer_only)
    | with_reducible exact fun _ h => h
    | split

theorem execBenchWindowExpiry_only (s : State) :
    State.OnlyOut s 1038 (execBenchWindowExpiry s) := by
  have hm : 1038 ||| 1038 = 1038 := rfl
  have h : State.OnlyM s 1038 s := State.OnlyM.refl _ _
  unfold execBenchWindowExpiry
  first | apply State.live_only | apply next_only
  repeat' first
    | (intro _)
    | with_reducible assumption
    | with_reducible exact subM (by decide) hm
    | (with_reducible first | apply State.modeRefuse_only | apply State.benchClose_only)
    | with_reducible exact fun _ h => h
    | split

theorem State.holdCore_only {m : Nat} {s0 s : State} (h : s0.OnlyM m s) (hm : 2 ||| m = m) (i : Nat) (new : Nat) :
    s0.OnlyM m (State.holdCore s i new) := by
  unfold State.holdCore
  repeat' first
    | (intro _)
    | with_reducible assumption
    | with_reducible exact subM (by decide) hm
    | (extract_lets +onlyGivenNames x; first | (refine (fun hx => ?_ : State.OnlyM s0 m x → _) ?_; (on_goal 1 => clear_value x); (on_goal 2 => subst x)) | clear_value x)
    | (with_reducible first | apply State.iff_only | apply State.setFld_only)
    | with_reducible exact fun _ h => h
    | split

theorem State.coresTo_only {m : Nat} {s0 s : State} (h : s0.OnlyM m s) (hm : 2 ||| m = m) (now : Nat) (new : Nat) :
    s0.OnlyM m (State.coresTo s now new) := by
  unfold State.coresTo
  repeat' first
    | (intro _)
    | with_reducible assumption
    | with_reducible exact subM (by decide) hm
    | (with_reducible first | apply State.iff_only | apply State.holdCore_only | apply State.each_only)
    | with_reducible exact fun _ h => h
    | split

theorem State.hostHold_only {m : Nat} {s0 s : State} (h : s0.OnlyM m s) (hm : 2 ||| m = m) (hold : Bool) :
    s0.OnlyM m (State.hostHold s hold) := by
  unfold State.hostHold
  repeat' first
    | (intro _)
    | with_reducible assumption
    | with_reducible exact subM (by decide) hm
    | (with_reducible first | apply State.setFlag_only)
    | with_reducible exact fun _ h => h
    | split

theorem execBnHold_only (s : State) (hold : Bool) :
    State.OnlyOut s 2 (execBnHold hold s) := by
  have hm : 2 ||| 2 = 2 := rfl
  have h : State.OnlyM s 2 s := State.OnlyM.refl _ _
  unfold execBnHold
  first | apply State.live_only | apply next_only
  repeat' first
    | (intro _)
    | with_reducible assumption
    | with_reducible exact subM (by decide) hm
    | (with_reducible first | apply State.hostHold_only)
    | with_reducible exact fun _ h => h
    | split

theorem State.benchTick_only {m : Nat} {s0 s : State} (h : s0.OnlyM m s) (hm : 33554434 ||| m = m) :
    s0.OnlyM m (State.benchTick s) := by
  unfold State.benchTick
  repeat' first
    | (intro _)
    | with_reducible assumption
    | with_reducible exact subM (by decide) hm
    | (with_reducible first | apply State.setFlag_only | apply State.iff_only | apply State.coresTo_only | apply State.updSys_only)
    | with_reducible exact fun _ h => h
    | split

theorem State.hostStep_only {m : Nat} {s0 s : State} (h : s0.OnlyM m s) (hm : 33554434 ||| m = m) (n : Nat) :
    s0.OnlyM m (State.hostStep s n) := by
  unfold State.hostStep
  repeat' first
    | (intro _)
    | with_reducible assumption
    | with_reducible exact subM (by decide) hm
    | (extract_lets +onlyGivenNames x; first | (refine (fun hx => ?_ : State.OnlyM s0 m x → _) ?_; (on_goal 1 => clear_value x); (on_goal 2 => subst x)) | clear_value x)
    | (with_reducible first | apply State.setFlag_only | apply State.coresTo_only | apply State.setFld_only | apply State.updSys_only)
    | with_reducible exact fun _ h => h
    | split

theorem execBnStep_only (s : State) (n : BitVec 16) :
    State.OnlyOut s 33554434 (execBnStep n s) := by
  have hm : 33554434 ||| 33554434 = 33554434 := rfl
  have h : State.OnlyM s 33554434 s := State.OnlyM.refl _ _
  unfold execBnStep
  first | apply State.live_only | apply next_only
  repeat' first
    | (intro _)
    | with_reducible assumption
    | with_reducible exact subM (by decide) hm
    | (with_reducible first | apply State.hostStep_only)
    | with_reducible exact fun _ h => h
    | split

theorem State.benchCf_only {m : Nat} {s0 s : State} (h : s0.OnlyM m s) (hm : 33554432 ||| m = m) :
    s0.OnlyM m (State.benchCf s) := by
  unfold State.benchCf
  repeat' first
    | (intro _)
    | with_reducible assumption
    | with_reducible exact subM (by decide) hm
    | (with_reducible first | apply State.updSys_only)
    | with_reducible exact fun _ h => h
    | split

theorem execBenchStepDone_only (s : State) :
    State.OnlyOut s 33555462 (execBenchStepDone s) := by
  have hm : 33555462 ||| 33555462 = 33555462 := rfl
  have h : State.OnlyM s 33555462 s := State.OnlyM.refl _ _
  unfold execBenchStepDone
  first | apply State.live_only | apply next_only
  repeat' first
    | (intro _)
    | with_reducible assumption
    | with_reducible exact subM (by decide) hm
    | (with_reducible first | apply State.setFlag_only | apply State.coresTo_only | apply State.updSys_only | apply State.event_only)
    | with_reducible exact fun _ h => h
    | split

theorem State.takeSup_only {m : Nat} {s0 s : State} (h : s0.OnlyM m s) (hm : 2 ||| m = m) (a : Nat) (b : Nat) :
    s0.OnlyM m (State.takeSup s a b) := by
  unfold State.takeSup
  repeat' first
    | (intro _)
    | with_reducible assumption
    | with_reducible exact subM (by decide) hm
    | (with_reducible first | apply State.setFlag_only | apply State.setSat_only)
    | with_reducible exact fun _ h => h
    | split

theorem execPowerUp_only (s : State) (a : BitVec 16) (b : BitVec 16) :
    State.OnlyOut s 115867086 (execPowerUp a b s) := by
  have hm : 115867086 ||| 115867086 = 115867086 := rfl
  have h : State.OnlyM s 115867086 s := State.OnlyM.refl _ _
  unfold execPowerUp
  first | apply State.live_only | apply next_only
  repeat' first
    | (intro _)
    | with_reducible assumption
    | with_reducible exact subM (by decide) hm
    | (extract_lets +onlyGivenNames x; first | clear_value x)
    | (with_reducible first | apply State.takeSup_only | apply State.beginStart_only)
    | with_reducible exact fun _ h => h
    | split

theorem execLogicInputExcursion_only (s : State) (a : BitVec 16) (b : BitVec 16) :
    State.OnlyOut s 1030 (execLogicInputExcursion a b s) := by
  have hm : 1030 ||| 1030 = 1030 := rfl
  have h : State.OnlyM s 1030 s := State.OnlyM.refl _ _
  unfold execLogicInputExcursion
  first | apply State.live_only | apply next_only
  repeat' first
    | (intro _)
    | with_reducible assumption
    | with_reducible exact subM (by decide) hm
    | (extract_lets +onlyGivenNames x; first | (refine (fun hx => ?_ : State.OnlyM s 1030 x → _) ?_; (on_goal 1 => clear_value x); (on_goal 2 => subst x)) | clear_value x)
    | (with_reducible first | apply State.takeSup_only | apply State.inc_only | apply State.event_only)
    | with_reducible exact fun _ h => h
    | split

theorem execHoldEntry_only (s : State) (a : BitVec 16) (b : BitVec 16) (met : List MetOutIn) (feeds : List FeedIn) :
    State.OnlyOut s 54278 (execHoldEntry a b met feeds s) := by
  have hm : 54278 ||| 54278 = 54278 := rfl
  have h : State.OnlyM s 54278 s := State.OnlyM.refl _ _
  unfold execHoldEntry
  first | apply State.live_only | apply State.liveOn_only | apply next_only
  repeat' first
    | (intro _)
    | with_reducible assumption
    | with_reducible exact subM (by decide) hm
    | (extract_lets +onlyGivenNames x; first | (refine (fun hx => ?_ : State.OnlyM s 54278 x → _) ?_; (on_goal 1 => clear_value x); (on_goal 2 => subst x)) | clear_value x)
    | (with_reducible first | apply State.takeSup_only | apply State.each_only | apply State.updVh_only | apply State.event_only | apply State.inc_only | apply State.setFlag_only | apply State.iff_only | apply State.earlyCommit_only)
    | with_reducible exact fun _ h => h
    | split
    | (fail_if_no_progress beta_reduce)

theorem execHoldEnd_only (s : State) (a : BitVec 16) (b : BitVec 16) :
    State.OnlyOut s 5126 (execHoldEnd a b s) := by
  have hm : 5126 ||| 5126 = 5126 := rfl
  have h : State.OnlyM s 5126 s := State.OnlyM.refl _ _
  unfold execHoldEnd
  first | apply State.live_only | apply next_only
  repeat' first
    | (intro _)
    | with_reducible assumption
    | with_reducible exact subM (by decide) hm
    | (extract_lets +onlyGivenNames x; first | (refine (fun hx => ?_ : State.OnlyM s 5126 x → _) ?_; (on_goal 1 => clear_value x); (on_goal 2 => subst x)) | clear_value x)
    | (with_reducible first | apply State.setFlag_only | apply State.updVh_only | apply State.takeSup_only | apply State.each_only | apply State.event_only)
    | with_reducible exact fun _ h => h
    | split

theorem State.shedCores_only {m : Nat} {s0 s : State} (h : s0.OnlyM m s) (hm : 2493774 ||| m = m) (cores : List Nat) (mask : Nat) :
    s0.OnlyM m (State.shedCores s cores mask) := by
  unfold State.shedCores
  repeat' first
    | (intro _)
    | with_reducible assumption
    | with_reducible exact subM (by decide) hm
    | (with_reducible first | apply State.setFld_only | apply State.each_only | apply State.pdSet_only)
    | with_reducible exact fun _ h => h
    | split

theorem State.closeOut_only {m : Nat} {s0 s : State} (h : s0.OnlyM m s) (hm : 36048206 ||| m = m) :
    s0.OnlyM m (State.closeOut s) := by
  unfold State.closeOut
  repeat' first
    | (intro _)
    | with_reducible assumption
    | with_reducible exact subM (by decide) hm
    | (with_reducible first | apply State.shedCores_only | apply State.setFld_only | apply State.updSys_only)
    | with_reducible exact fun _ h => h
    | split

theorem execStoreSwitch_only (s : State) (a : BitVec 16) (b : BitVec 16) :
    State.OnlyOut s 111562062 (execStoreSwitch a b s) := by
  have hm : 111562062 ||| 111562062 = 111562062 := rfl
  have h : State.OnlyM s 111562062 s := State.OnlyM.refl _ _
  unfold execStoreSwitch
  first | apply State.live_only | apply State.liveOn_only | apply next_only
  repeat' first
    | (intro _)
    | with_reducible assumption
    | with_reducible exact subM (by decide) hm
    | (extract_lets +onlyGivenNames x; first | (refine (fun hx => ?_ : State.OnlyM s 111562062 x → _) ?_; (on_goal 1 => clear_value x); (on_goal 2 => subst x)) | clear_value x)
    | (with_reducible first | apply State.takeSup_only | apply State.event_only | apply State.inc_only | apply State.setFlag_only | apply State.updSys_only | apply State.stopTimer_only | apply State.pauseCut_only | apply State.twinAnnounce_only | apply State.iff_only | apply State.rotAbandon_only | apply State.pdSet_only)
    | with_reducible exact fun _ h => h
    | split
    | (fail_if_no_progress beta_reduce)

theorem execSheddingStep_only (s : State) :
    State.OnlyOut s 40242510 (execSheddingStep s) := by
  have hm : 40242510 ||| 40242510 = 40242510 := rfl
  have h : State.OnlyM s 40242510 s := State.OnlyM.refl _ _
  unfold execSheddingStep
  first | apply State.live_only | apply State.liveOn_only | apply next_only
  repeat' first
    | (intro _)
    | with_reducible assumption
    | with_reducible exact subM (by decide) hm
    | (extract_lets +onlyGivenNames x; first | (refine (fun hx => ?_ : State.OnlyM s 40242510 x → _) ?_; (on_goal 1 => clear_value x); (on_goal 2 => subst x)) | clear_value x)
    | (with_reducible first | apply State.updSys_only | apply State.each_only | apply State.setClamp_only | apply State.stopLines_only | apply State.pairOffSoon_only | apply State.shedCores_only | apply State.closeOut_only | apply State.linkGone_only | apply State.hostQuiet_only)
    | with_reducible exact fun _ h => h
    | split
    | (fail_if_no_progress beta_reduce)

theorem execHoldupFinalCommit_only (s : State) :
    State.OnlyOut s 36048206 (execHoldupFinalCommit s) := by
  have hm : 36048206 ||| 36048206 = 36048206 := rfl
  have h : State.OnlyM s 36048206 s := State.OnlyM.refl _ _
  unfold execHoldupFinalCommit
  first | apply State.live_only | apply State.liveOn_only | apply next_only
  repeat' first
    | (intro _)
    | with_reducible assumption
    | with_reducible exact subM (by decide) hm
    | (with_reducible first | apply State.closeOut_only | apply State.shedCores_only | apply State.event_only)
    | with_reducible exact fun _ h => h
    | split

theorem State.slotRegs_only {m : Nat} {s0 s : State} (h : s0.OnlyM m s) (hm : 2 ||| m = m) (k : Nat) (c : CapSlot) :
    s0.OnlyM m (State.slotRegs s k c) := by
  unfold State.slotRegs
  repeat' first
    | (intro _)
    | with_reducible assumption
    | with_reducible exact subM (by decide) hm
    | (extract_lets +onlyGivenNames x; first | (refine (fun hx => ?_ : State.OnlyM s0 m x → _) ?_; (on_goal 1 => clear_value x); (on_goal 2 => subst x)) | clear_value x)
    | (with_reducible first | apply State.setSat_only | apply State.setFld_only)
    | with_reducible exact fun _ h => h
    | split

theorem State.capIndex_only {m : Nat} {s0 s : State} (h : s0.OnlyM m s) (hm : 34603010 ||| m = m) (k : Nat) (c : CapSlot) :
    s0.OnlyM m (State.capIndex s k c) := by
  unfold State.capIndex
  repeat' first
    | (intro _)
    | with_reducible assumption
    | with_reducible exact subM (by decide) hm
    | (extract_lets +onlyGivenNames x; first | (refine (fun hx => ?_ : State.OnlyM s0 m x → _) ?_; (on_goal 1 => clear_value x); (on_goal 2 => subst x)) | clear_value x)
    | (with_reducible first | apply State.slotRegs_only | apply State.setFld_only | apply State.updSys_only | apply State.tagCapture_only)
    | with_reducible exact fun _ h => h
    | split

theorem State.capDone_only {m : Nat} {s0 s : State} (h : s0.OnlyM m s) (hm : 34604038 ||| m = m) (sections : Nat) (bytes : Nat) (status : Nat) :
    s0.OnlyM m (State.capDone s sections bytes status) := by
  unfold State.capDone
  repeat' first
    | (intro _)
    | with_reducible assumption
    | with_reducible exact subM (by decide) hm
    | (extract_lets +onlyGivenNames x; first | (refine (fun hx => ?_ : State.OnlyM s0 m x → _) ?_; (on_goal 1 => clear_value x); (on_goal 2 => subst x)) | clear_value x)
    | (with_reducible first | apply State.capIndex_only | apply State.updSys_only | apply State.event_only)
    | with_reducible exact fun _ h => h
    | split

theorem State.capCut_only {m : Nat} {s0 s : State} (h : s0.OnlyM m s) (hm : 34604070 ||| m = m) :
    s0.OnlyM m (State.capCut s) := by
  unfold State.capCut
  repeat' first
    | (intro _)
    | with_reducible assumption
    | with_reducible exact subM (by decide) hm
    | (extract_lets +onlyGivenNames x; first | (refine (fun hx => ?_ : State.OnlyM s0 m x → _) ?_; (on_goal 1 => clear_value x); (on_goal 2 => subst x)) | (refine (fun hx => ?_ : State.OnlyM s0 m x.2 → _) ?_; (on_goal 1 => clear_value x); (on_goal 2 => subst x)) | clear_value x)
    | (with_reducible first | apply State.draw_only | apply State.capDone_only)
    | with_reducible exact fun _ h => h
    | split

theorem State.clockStop_only {m : Nat} {s0 s : State} (h : s0.OnlyM m s) (hm : 41418062 ||| m = m) (kind : Nat) (r : FrzReq) :
    s0.OnlyM m (State.clockStop s kind r) := by
  unfold State.clockStop
  repeat' first
    | (intro _)
    | with_reducible assumption
    | with_reducible exact subM (by decide) hm
    | (extract_lets +onlyGivenNames x; first | (refine (fun hx => ?_ : State.OnlyM s0 m x → _) ?_; (on_goal 1 => clear_value x); (on_goal 2 => subst x)) | clear_value x)
    | (with_reducible first | apply State.stopTimer_only | apply State.updSys_only | apply State.iff_only | apply State.rotAbandon_only | apply State.setMode_only | apply State.pdSwitch_only | apply State.hostQuiet_only | apply State.linkGone_only | apply State.each_only | apply State.holdCore_only | apply State.event_only | apply State.capIndex_only | apply State.tagCapture_only | apply foldl_only)
    | with_reducible exact fun _ h => h
    | split
    | (fail_if_no_progress beta_reduce)

theorem State.freezeReq_only {m : Nat} {s0 s : State} (h : s0.OnlyM m s) (hm : 116915534 ||| m = m) (src : Nat) :
    s0.OnlyM m (State.freezeReq s src) := by
  unfold State.freezeReq
  repeat' first
    | (intro _)
    | with_reducible assumption
    | with_reducible exact subM (by decide) hm
    | (extract_lets +onlyGivenNames x; first | (refine (fun hx => ?_ : State.OnlyM s0 m x → _) ?_; (on_goal 1 => clear_value x); (on_goal 2 => subst x)) | clear_value x)
    | (with_reducible first | apply State.pauseCut_only | apply State.clockStop_only | apply State.safeState_only | apply State.frzMark_only)
    | with_reducible exact fun _ h => h
    | split

theorem execFreezeNAsserted_only (s : State) :
    State.OnlyOut s 116915534 (execFreezeNAsserted s) := by
  have hm : 116915534 ||| 116915534 = 116915534 := rfl
  have h : State.OnlyM s 116915534 s := State.OnlyM.refl _ _
  unfold execFreezeNAsserted
  first | apply State.live_only | apply next_only
  repeat' first
    | (intro _)
    | with_reducible assumption
    | with_reducible exact subM (by decide) hm
    | (with_reducible first | apply State.freezeReq_only)
    | with_reducible exact fun _ h => h
    | split

theorem execFrzReq_only (s : State) :
    State.OnlyOut s 116915534 (execFrzReq s) := by
  have hm : 116915534 ||| 116915534 = 116915534 := rfl
  have h : State.OnlyM s 116915534 s := State.OnlyM.refl _ _
  unfold execFrzReq
  first | apply State.live_only | apply next_only
  repeat' first
    | (intro _)
    | with_reducible assumption
    | with_reducible exact subM (by decide) hm
    | (with_reducible first | apply State.freezeReq_only)
    | with_reducible exact fun _ h => h
    | split

theorem State.freezeTick_only {m : Nat} {s0 s : State} (h : s0.OnlyM m s) (hm : 37748738 ||| m = m) :
    s0.OnlyM m (State.freezeTick s) := by
  unfold State.freezeTick
  repeat' first
    | (intro _)
    | with_reducible assumption
    | with_reducible exact subM (by decide) hm
    | (with_reducible first | apply State.hostQuiet_only | apply State.updSys_only)
    | with_reducible exact fun _ h => h
    | split

theorem execFreezeClockStop_only (s : State) :
    State.OnlyOut s 41418062 (execFreezeClockStop s) := by
  have hm : 41418062 ||| 41418062 = 41418062 := rfl
  have h : State.OnlyM s 41418062 s := State.OnlyM.refl _ _
  unfold execFreezeClockStop
  first | apply State.live_only | apply State.liveOn_only | apply next_only
  repeat' first
    | (intro _)
    | with_reducible assumption
    | with_reducible exact subM (by decide) hm
    | (with_reducible first | apply State.clockStop_only)
    | with_reducible exact fun _ h => h
    | split

theorem execCaptureEnd_only (s : State) (sections : Nat) (bytes : Nat) (ok : Bool) :
    State.OnlyOut s 116915662 (execCaptureEnd sections bytes ok s) := by
  have hm : 116915662 ||| 116915662 = 116915662 := rfl
  have h : State.OnlyM s 116915662 s := State.OnlyM.refl _ _
  unfold execCaptureEnd
  first | apply State.live_only | apply next_only
  repeat' first
    | (intro _)
    | with_reducible assumption
    | with_reducible exact subM (by decide) hm
    | (extract_lets +onlyGivenNames x; first | (refine (fun hx => ?_ : State.OnlyM s 116915662 x → _) ?_; (on_goal 1 => clear_value x); (on_goal 2 => subst x)) | clear_value x)
    | (with_reducible first | apply State.iff_only | apply State.capDone_only | apply State.pdSwitch_only | apply State.beginStart_only)
    | with_reducible exact fun _ h => h
    | split

theorem execCaptureEngineTest_only (s : State) (pass : Bool) :
    State.OnlyOut s 33621006 (execCaptureEngineTest pass s) := by
  have hm : 33621006 ||| 33621006 = 33621006 := rfl
  have h : State.OnlyM s 33621006 s := State.OnlyM.refl _ _
  unfold execCaptureEngineTest
  first | apply State.live_only | apply next_only
  repeat' first
    | (intro _)
    | with_reducible assumption
    | with_reducible exact subM (by decide) hm
    | (extract_lets +onlyGivenNames x; first | (refine (fun hx => ?_ : State.OnlyM s 33621006 x → _) ?_; (on_goal 1 => clear_value x); (on_goal 2 => subst x)) | clear_value x)
    | (with_reducible first | apply State.setFlag_only | apply State.iff_only | apply State.startTimer_only | apply State.updSys_only | apply State.event_only | apply State.faultSeen_only)
    | with_reducible exact fun _ h => h
    | split

theorem State.capPort_only {m : Nat} {s0 s : State} (h : s0.OnlyM m s) (hm : 33554432 ||| m = m) (b : List Byte) :
    s0.OnlyM m (State.capPort s b) := by
  unfold State.capPort
  repeat' first
    | (intro _)
    | with_reducible assumption
    | with_reducible exact subM (by decide) hm
    | (with_reducible first | apply State.updSys_only)
    | with_reducible exact fun _ h => h
    | split

theorem execCapRead_only (s : State) (addr : BitVec 32) (n : Nat) :
    State.OnlyOut s 33554432 (execCapRead addr n s) := by
  have hm : 33554432 ||| 33554432 = 33554432 := rfl
  have h : State.OnlyM s 33554432 s := State.OnlyM.refl _ _
  unfold execCapRead
  first | apply State.live_only | apply next_only
  repeat' first
    | (intro _)
    | with_reducible assumption
    | with_reducible exact subM (by decide) hm
    | (with_reducible first | apply State.capPort_only)
    | with_reducible exact fun _ h => h
    | split

theorem execReadIndex_only (s : State) (n : Nat) :
    State.OnlyOut s 33554432 (execReadIndex n s) := by
  have hm : 33554432 ||| 33554432 = 33554432 := rfl
  have h : State.OnlyM s 33554432 s := State.OnlyM.refl _ _
  unfold execReadIndex
  first | apply State.live_only | apply next_only
  repeat' first
    | (intro _)
    | with_reducible assumption
    | with_reducible exact subM (by decide) hm
    | (with_reducible first | apply State.capPort_only)
    | with_reducible exact fun _ h => h
    | split

theorem execStoreCharged_only (s : State) (v : BitVec 16) :
    State.OnlyOut s 2 (execStoreCharged v s) := by
  have hm : 2 ||| 2 = 2 := rfl
  have h : State.OnlyM s 2 s := State.OnlyM.refl _ _
  unfold execStoreCharged
  first | apply State.live_only | apply next_only
  repeat' first
    | (intro _)
    | with_reducible assumption
    | with_reducible exact subM (by decide) hm
    | (with_reducible first | apply State.setFlag_only | apply State.setFld_only)
    | with_reducible exact fun _ h => h
    | split

theorem execStoreTest_only (s : State) (euse : BitVec 16) :
    State.OnlyOut s 33621006 (execStoreTest euse s) := by
  have hm : 33621006 ||| 33621006 = 33621006 := rfl
  have h : State.OnlyM s 33621006 s := State.OnlyM.refl _ _
  unfold execStoreTest
  first | apply State.live_only | apply next_only
  repeat' first
    | (intro _)
    | with_reducible assumption
    | with_reducible exact subM (by decide) hm
    | (extract_lets +onlyGivenNames x; first | (refine (fun hx => ?_ : State.OnlyM s 33621006 x → _) ?_; (on_goal 1 => clear_value x); (on_goal 2 => subst x)) | clear_value x)
    | (with_reducible first | apply State.setFlag_only | apply State.iff_only | apply State.setFld_only | apply State.startTimer_only | apply State.updSys_only | apply State.event_only | apply State.faultSeen_only)
    | with_reducible exact fun _ h => h
    | split

theorem execEndOfStore_only (s : State) (met : List MetOutIn) (feeds : List FeedIn) :
    State.OnlyOut s 38847526 (execEndOfStore met feeds s) := by
  have hm : 38847526 ||| 38847526 = 38847526 := rfl
  have h : State.OnlyM s 38847526 s := State.OnlyM.refl _ _
  unfold execEndOfStore
  first | apply State.live_only | apply State.liveOn_only | apply next_only
  repeat' first
    | (intro _)
    | with_reducible assumption
    | with_reducible exact subM (by decide) hm
    | (extract_lets +onlyGivenNames x; first | (refine (fun hx => ?_ : State.OnlyM s 38847526 x → _) ?_; (on_goal 1 => clear_value x); (on_goal 2 => subst x)) | clear_value x)
    | (with_reducible first | apply State.event_only | apply State.inc_only | apply State.setFlag_only | apply State.iff_only | apply State.updSys_only | apply State.earlyCommit_only | apply State.capCut_only | apply State.hostQuiet_only)
    | with_reducible exact fun _ h => h
    | split
    | (fail_if_no_progress beta_reduce)

theorem execSupplyRestart_only (s : State) (a : BitVec 16) (b : BitVec 16) :
    State.OnlyOut s 116915694 (execSupplyRestart a b s) := by
  have hm : 116915694 ||| 116915694 = 116915694 := rfl
  have h : State.OnlyM s 116915694 s := State.OnlyM.refl _ _
  unfold execSupplyRestart
  first | apply State.live_only | apply next_only
  repeat' first
    | (intro _)
    | with_reducible assumption
    | with_reducible exact subM (by decide) hm
    | (with_reducible first | apply State.takeSup_only | apply State.capCut_only | apply State.beginStart_only)
    | with_reducible exact fun _ h => h
    | split

theorem execStoreEnd_only (s : State) :
    State.OnlyOut s 2493774 (execStoreEnd s) := by
  have hm : 2493774 ||| 2493774 = 2493774 := rfl
  have h : State.OnlyM s 2493774 s := State.OnlyM.refl _ _
  unfold execStoreEnd
  first | apply State.live_only | apply State.liveOn_only | apply next_only
  repeat' first
    | (intro _)
    | with_reducible assumption
    | with_reducible exact subM (by decide) hm
    | (with_reducible first | apply State.pdSwitch_only)
    | with_reducible exact fun _ h => h
    | split

theorem State.resetOp_only {m : Nat} {s0 s : State} (h : s0.OnlyM m s) (hm : 116915694 ||| m = m) :
    s0.OnlyM m (State.resetOp s) := by
  unfold State.resetOp
  repeat' first
    | (intro _)
    | with_reducible assumption
    | with_reducible exact subM (by decide) hm
    | (with_reducible first | apply State.beginStart_only | apply State.capCut_only | apply State.enterBench_only | apply State.benchClose_only | apply State.acknowledgeCand_only | apply State.resetRequest_only)
    | with_reducible exact fun _ h => h
    | split

theorem execSinChannelChange_only (s : State) (sin : Fin 16) (isB : Bool) (level : Bool) :
    State.OnlyOut s 116915694 (execSinChannelChange sin isB level s) := by
  have hm : 116915694 ||| 116915694 = 116915694 := rfl
  have h : State.OnlyM s 116915694 s := State.OnlyM.refl _ _
  unfold execSinChannelChange
  first | apply State.live_only | apply State.liveOn_only | apply next_only
  repeat' first
    | (intro _)
    | with_reducible assumption
    | with_reducible exact subM (by decide) hm
    | (extract_lets +onlyGivenNames x; first | (refine (fun hx => ?_ : State.OnlyM s 116915694 x → _) ?_; (on_goal 1 => clear_value x); (on_goal 2 => subst x)) | clear_value x)
    | (with_reducible first | apply State.updSin_only | apply State.event_only | apply State.resetOp_only)
    | with_reducible exact fun _ h => h
    | split
    | (fail_if_no_progress beta_reduce)

theorem execWatchdogTimeout_only (s : State) (core : Fin 9) :
    State.OnlyOut s 115867086 (execWatchdogTimeout core s) := by
  have hm : 115867086 ||| 115867086 = 115867086 := rfl
  have h : State.OnlyM s 115867086 s := State.OnlyM.refl _ _
  unfold execWatchdogTimeout
  first | apply State.live_only | apply State.liveOn_only | apply next_only
  repeat' first
    | (intro _)
    | with_reducible assumption
    | with_reducible exact subM (by decide) hm
    | (extract_lets +onlyGivenNames x; first | (refine (fun hx => ?_ : State.OnlyM s 115867086 x → _) ?_; (on_goal 1 => clear_value x); (on_goal 2 => subst x)) | clear_value x)
    | (with_reducible first | apply State.faultSafe_only | apply State.event_only | apply State.haltCore_only | apply State.updIsl_only | apply State.faultSeen_only | apply State.stopThenSafe_only)
    | with_reducible exact fun _ h => h
    | split
    | (fail_if_no_progress beta_reduce)

theorem execLockstepMismatch_only (s : State) :
    State.OnlyOut s 115867086 (execLockstepMismatch s) := by
  have hm : 115867086 ||| 115867086 = 115867086 := rfl
  have h : State.OnlyM s 115867086 s := State.OnlyM.refl _ _
  unfold execLockstepMismatch
  first | apply State.live_only | apply next_only
  repeat' first
    | (intro _)
    | with_reducible assumption
    | with_reducible exact subM (by decide) hm
    | (extract_lets +onlyGivenNames x; first | (refine (fun hx => ?_ : State.OnlyM s 115867086 x → _) ?_; (on_goal 1 => clear_value x); (on_goal 2 => subst x)) | clear_value x)
    | (with_reducible first | apply State.iff_only | apply State.haltCore_only | apply State.faultSafe_only | apply State.frzMark_only | apply State.event_only)
    | with_reducible exact fun _ h => h
    | split

end Sys2Proof.Machine
end

