-- ==== Sys2Proof/Laws/OnlyTwin.lean ====
section
/-!
SUPPORT. The parts of the state that the operations and commands of Machine/Twin.lean change.
-/

set_option linter.all false

namespace Sys2Proof.Machine

open Sys2Proof

theorem State.islViolation_only {m : Nat} {s0 s : State} (h : s0.OnlyM m s) (hm : 1030 ||| m = m) (src : Nat) (off : Nat) :
    s0.OnlyM m (State.islViolation s src off) := by
  unfold State.islViolation
  repeat' first
    | (intro _)
    | with_reducible assumption
    | with_reducible exact subM (by decide) hm
    | (extract_lets +onlyGivenNames x; first | (refine (fun hx => ?_ : State.OnlyM s0 m x → _) ?_; (on_goal 1 => clear_value x); (on_goal 2 => subst x)) | clear_value x)
    | (with_reducible first | apply State.setFlag_only | apply State.setFld_only | apply State.inc_only | apply State.event_only)
    | with_reducible exact fun _ h => h
    | split

theorem execPairingRecord_only (s : State) (serial : BitVec 64) (src : Fin 2) (chk : Word) (hash : Word) :
    State.OnlyOut s 67109894 (execPairingRecord serial src chk hash s) := by
  have hm : 67109894 ||| 67109894 = 67109894 := rfl
  have h : State.OnlyM s 67109894 s := State.OnlyM.refl _ _
  unfold execPairingRecord
  first | apply State.live_only | apply next_only
  repeat' first
    | (intro _)
    | with_reducible assumption
    | with_reducible exact subM (by decide) hm
    | (extract_lets +onlyGivenNames x; first | (refine (fun hx => ?_ : State.OnlyM s 67109894 x → _) ?_; (on_goal 1 => clear_value x); (on_goal 2 => subst x)) | clear_value x)
    | (with_reducible first | apply State.setFlag_only | apply State.setFld_only | apply State.updTwin_only | apply State.twinRefresh_only)
    | with_reducible exact fun _ h => h
    | split

theorem State.twinFollow_only {m : Nat} {s0 s : State} (h : s0.OnlyM m s) (hm : 1158 ||| m = m) (a1 : Mirror) :
    s0.OnlyM m (State.twinFollow s a1) := by
  unfold State.twinFollow
  repeat' first
    | (intro _)
    | with_reducible assumption
    | with_reducible exact subM (by decide) hm
    | (with_reducible first | apply State.setClk_only | apply State.setFlag_only | apply State.acceptCorr_only)
    | with_reducible exact fun _ h => h
    | split

theorem State.twinFrame_only {m : Nat} {s0 s : State} (h : s0.OnlyM m s) (hm : 67175558 ||| m = m) (a1 : Mirror) :
    s0.OnlyM m (State.twinFrame s a1) := by
  unfold State.twinFrame
  repeat' first
    | (intro _)
    | with_reducible assumption
    | with_reducible exact subM (by decide) hm
    | (extract_lets +onlyGivenNames x; first | (refine (fun hx => ?_ : State.OnlyM s0 m x → _) ?_; (on_goal 1 => clear_value x); (on_goal 2 => subst x)) | clear_value x)
    | (with_reducible first | apply State.setFld_only | apply State.setFlag_only | apply State.setFldS_only | apply State.updTwin_only | apply State.iff_only | apply State.event_only | apply State.twinFollow_only | apply State.each_only | apply State.onPair_only | apply State.updSo_only | apply State.twinRefresh_only)
    | with_reducible exact fun _ h => h
    | split
    | (fail_if_no_progress beta_reduce)

theorem execMirrorFrame_only (s : State) (ok : Bool) (a1 : Mirror) (isl : Option Nat) :
    State.OnlyOut s 71414926 (execMirrorFrame ok a1 isl s) := by
  have hm : 71414926 ||| 71414926 = 71414926 := rfl
  have h : State.OnlyM s 71414926 s := State.OnlyM.refl _ _
  unfold execMirrorFrame
  first | apply State.live_only | apply next_only
  repeat' first
    | (intro _)
    | with_reducible assumption
    | with_reducible exact subM (by decide) hm
    | (extract_lets +onlyGivenNames x; first | (refine (fun hx => ?_ : State.OnlyM s 71414926 x → _) ?_; (on_goal 1 => clear_value x); (on_goal 2 => subst x)) | clear_value x)
    | (with_reducible first | apply State.setFlag_only | apply State.twinRelease_only | apply State.iff_only | apply State.twinFrame_only | apply State.inc_only | apply State.islViolation_only)
    | with_reducible exact fun _ h => h
    | split

theorem State.hostHandover_only {m : Nat} {s0 s : State} (h : s0.OnlyM m s) (hm : 67108864 ||| m = m) (ready : Bool) :
    s0.OnlyM m (State.hostHandover s ready) := by
  unfold State.hostHandover
  repeat' first
    | (intro _)
    | with_reducible assumption
    | with_reducible exact subM (by decide) hm
    | (with_reducible first | apply State.twinAnnounce_only)
    | with_reducible exact fun _ h => h
    | split

theorem execHandover_only (s : State) (ready : Bool) :
    State.OnlyOut s 67108864 (execHandover ready s) := by
  have hm : 67108864 ||| 67108864 = 67108864 := rfl
  have h : State.OnlyM s 67108864 s := State.OnlyM.refl _ _
  unfold execHandover
  first | apply State.live_only | apply next_only
  repeat' first
    | (intro _)
    | with_reducible assumption
    | with_reducible exact subM (by decide) hm
    | (with_reducible first | apply State.hostHandover_only)
    | with_reducible exact fun _ h => h
    | split

theorem execTokenTakeover_only (s : State) :
    State.OnlyOut s 67223438 (execTokenTakeover s) := by
  have hm : 67223438 ||| 67223438 = 67223438 := rfl
  have h : State.OnlyM s 67223438 s := State.OnlyM.refl _ _
  unfold execTokenTakeover
  first | apply State.live_only | apply State.liveOn_only | apply next_only
  repeat' first
    | (intro _)
    | with_reducible assumption
    | with_reducible exact subM (by decide) hm
    | (with_reducible first | apply State.twinTake_only)
    | with_reducible exact fun _ h => h
    | split

theorem execTwinLinkLost_only (s : State) :
    State.OnlyOut s 67110022 (execTwinLinkLost s) := by
  have hm : 67110022 ||| 67110022 = 67110022 := rfl
  have h : State.OnlyM s 67110022 s := State.OnlyM.refl _ _
  unfold execTwinLinkLost
  first | apply State.live_only | apply next_only
  repeat' first
    | (intro _)
    | with_reducible assumption
    | with_reducible exact subM (by decide) hm
    | (extract_lets +onlyGivenNames x; first | (refine (fun hx => ?_ : State.OnlyM s 67110022 x → _) ?_; (on_goal 1 => clear_value x); (on_goal 2 => subst x)) | clear_value x)
    | (with_reducible first | apply State.setClk_only | apply State.setFlag_only | apply State.iff_only | apply State.updTwin_only | apply State.inc_only | apply State.twinRefresh_only | apply State.event_only)
    | with_reducible exact fun _ h => h
    | split

theorem State.twinTick_only {m : Nat} {s0 s : State} (h : s0.OnlyM m s) (hm : 71417742 ||| m = m) :
    s0.OnlyM m (State.twinTick s) := by
  unfold State.twinTick
  repeat' first
    | (intro _)
    | with_reducible assumption
    | with_reducible exact subM (by decide) hm
    | (extract_lets +onlyGivenNames x; first | (refine (fun hx => ?_ : State.OnlyM s0 m x → _) ?_; (on_goal 1 => clear_value x); (on_goal 2 => subst x)) | clear_value x)
    | (with_reducible first | apply State.updTwin_only | apply State.twinRefresh_only | apply State.twinRelease_only | apply State.iff_only | apply State.each_only | apply State.onPair_only | apply State.pairOffNow_only | apply State.inc_only | apply State.twinTake_only)
    | with_reducible exact fun _ h => h
    | split
    | (fail_if_no_progress beta_reduce)

end Sys2Proof.Machine
end

