-- ==== Sys2Proof/Laws/OnlyCommit.lean ====
section
/-!
SUPPORT. The parts of the state that the operations and commands of Machine/Commit.lean change.
-/

set_option linter.all false

namespace Sys2Proof.Machine

open Sys2Proof

theorem State.putEdit_only {m : Nat} {s0 s : State} (h : s0.OnlyM m s) (hm : 64 ||| m = m) (off : Nat) (w : Word) :
    s0.OnlyM m (State.putEdit s off w) := by
  unfold State.putEdit
  repeat' first
    | (intro _)
    | with_reducible assumption
    | with_reducible exact subM (by decide) hm
    | (extract_lets +onlyGivenNames x; first | clear_value x)
    | split
    | (with_reducible apply State.mk_only; (rotate_left); all_goals first | with_reducible exact .inl rfl | exact .inr (bitM (by decide) hm) | skip)
    | with_reducible exact fun _ h => h
    | split

theorem State.withEdit_only {m : Nat} {s0 s : State} (h : s0.OnlyM m s) (hm : 66 ||| m = m) :
    s0.OnlyM m (State.withEdit s) := by
  unfold State.withEdit
  repeat' first
    | (intro _)
    | with_reducible assumption
    | with_reducible exact subM (by decide) hm
    | (extract_lets +onlyGivenNames x; first | (refine (fun hx => ?_ : State.OnlyM s0 m x → _) ?_; (on_goal 1 => clear_value x); (on_goal 2 => subst x)) | clear_value x)
    | (with_reducible first | apply State.setReg_only | apply State.each_only)
    | split
    | (with_reducible apply State.mk_only; (rotate_left); all_goals first | with_reducible exact .inl rfl | exact .inr (bitM (by decide) hm) | skip)
    | with_reducible exact fun _ h => h
    | split

theorem State.restoreCfg_only {m : Nat} {s0 s : State} (h : s0.OnlyM m s) (hm : 66 ||| m = m) :
    s0.OnlyM m (State.restoreCfg s) := by
  unfold State.restoreCfg
  repeat' first
    | (intro _)
    | with_reducible assumption
    | with_reducible exact subM (by decide) hm
    | (extract_lets +onlyGivenNames x; first | (refine (fun hx => ?_ : State.OnlyM s0 m x → _) ?_; (on_goal 1 => clear_value x); (on_goal 2 => subst x)) | clear_value x)
    | (with_reducible first | apply State.setReg_only | apply State.each_only)
    | split
    | (with_reducible apply State.mk_only; (rotate_left); all_goals first | with_reducible exact .inl rfl | exact .inr (bitM (by decide) hm) | skip)
    | with_reducible exact fun _ h => h
    | split

theorem State.commitApply_only {m : Nat} {s0 s : State} (h : s0.OnlyM m s) (hm : 9573830 ||| m = m) :
    s0.OnlyM m (State.commitApply s) := by
  unfold State.commitApply
  repeat' first
    | (intro _)
    | with_reducible assumption
    | with_reducible exact subM (by decide) hm
    | (extract_lets +onlyGivenNames x; first | (refine (fun hx => ?_ : State.OnlyM s0 m x → _) ?_; (on_goal 1 => clear_value x); (on_goal 2 => subst x)) | (have y : State → State := x; clear y; subst x) | (have y : State → _ → State := x; clear y; subst x) | (have y : _ → State → State := x; clear y; subst x) | (have y : _ → _ → State → State := x; clear y; subst x) | (have y : State → _ → _ → State := x; clear y; subst x) | (have y : State → _ → State × _ := x; clear y; subst x) | clear_value x)
    | (with_reducible first | apply State.updTim_only | apply State.setFld_only | apply State.each_only | apply State.ceCommitApply_only | apply State.linkPower_only | apply State.ptpForce_only | apply State.psCommit_only | apply State.iff_only | apply State.park_only | apply State.setFlag_only | apply State.tagKey_only | apply State.tagIdentity_only | apply State.ptpRefresh_only | apply State.twinRefresh_only | apply State.event_only)
    | split
    | (with_reducible apply State.mk_only; (rotate_left); all_goals first | with_reducible exact .inl rfl | exact .inr (bitM (by decide) hm) | skip)
    | with_reducible exact fun _ h => h
    | split
    | (fail_if_no_progress beta_reduce)

theorem State.commit_only {m : Nat} {s0 s : State} (h : s0.OnlyM m s) (hm : 9573830 ||| m = m) :
    s0.OnlyM m (State.commit s) := by
  unfold State.commit
  repeat' first
    | (intro _)
    | with_reducible assumption
    | with_reducible exact subM (by decide) hm
    | (extract_lets +onlyGivenNames x; first | (refine (fun hx => ?_ : State.OnlyM s0 m x → _) ?_; (on_goal 1 => clear_value x); (on_goal 2 => subst x)) | (refine (fun hx => ?_ : State.OnlyM s0 m x.1 → _) ?_; (on_goal 1 => clear_value x); (on_goal 2 => subst x)) | clear_value x)
    | (with_reducible first | apply State.withEdit_only | apply State.lawCheck_only | apply State.commitApply_only | apply State.event_only)
    | with_reducible exact fun _ h => h
    | split

theorem State.hostCommit_only {m : Nat} {s0 s : State} (h : s0.OnlyM m s) (hm : 9573830 ||| m = m) :
    s0.OnlyM m (State.hostCommit s) := by
  unfold State.hostCommit
  repeat' first
    | (intro _)
    | with_reducible assumption
    | with_reducible exact subM (by decide) hm
    | (with_reducible first | apply State.commit_only | apply State.event_only)
    | with_reducible exact fun _ h => h
    | split

theorem execCommit_only (s : State) :
    State.OnlyOut s 9573830 (execCommit s) := by
  have hm : 9573830 ||| 9573830 = 9573830 := rfl
  have h : State.OnlyM s 9573830 s := State.OnlyM.refl _ _
  unfold execCommit
  first | apply State.live_only | apply next_only
  repeat' first
    | (intro _)
    | with_reducible assumption
    | with_reducible exact subM (by decide) hm
    | (with_reducible first | apply State.hostCommit_only)
    | with_reducible exact fun _ h => h
    | split

end Sys2Proof.Machine
end

