-- ==== Sys2Proof/Laws/OnlyStart.lean ====
section
/-!
SUPPORT. The parts of the state that the operations and commands of Machine/Start.lean change.
-/

set_option linter.all false

namespace Sys2Proof.Machine

open Sys2Proof

theorem State.endTrial_only {m : Nat} {s0 s : State} (h : s0.OnlyM m s) (hm : 10 ||| m = m) (b : Nat) :
    s0.OnlyM m (State.endTrial s b) := by
  unfold State.endTrial
  repeat' first
    | (intro _)
    | with_reducible assumption
    | with_reducible exact subM (by decide) hm
    | (with_reducible first | apply State.iff_only | apply State.stopTimer_only | apply State.setFlag_only)
    | with_reducible exact fun _ h => h
    | split

theorem State.tryBank_only {m : Nat} {s0 s : State} (h : s0.OnlyM m s) (hm : 10 ||| m = m) (ok : List Bool) (b : Nat) :
    s0.OnlyM m (State.tryBank s ok b).1 := by
  unfold State.tryBank
  repeat' first
    | (intro _)
    | with_reducible assumption
    | with_reducible exact subM (by decide) hm
    | (extract_lets +onlyGivenNames x; first | (refine (fun hx => ?_ : State.OnlyM s0 m x → _) ?_; (on_goal 1 => clear_value x); (on_goal 2 => subst x)) | clear_value x)
    | (with_reducible first | apply State.endTrial_only | apply State.setFld_only)
    | with_reducible exact fun _ h => h
    | split
    | (fail_if_no_progress beta_reduce)

theorem State.chooseBank_only {m : Nat} {s0 s : State} (h : s0.OnlyM m s) (hm : 1038 ||| m = m) (ok : List Bool) :
    s0.OnlyM m (State.chooseBank s ok).1 := by
  unfold State.chooseBank
  repeat' first
    | (intro _)
    | with_reducible assumption
    | with_reducible exact subM (by decide) hm
    | (extract_lets +onlyGivenNames x; first | (refine (fun hx => ?_ : State.OnlyM s0 m x → _) ?_; (on_goal 1 => clear_value x); (on_goal 2 => subst x)) | (refine (fun hx => ?_ : State.OnlyM s0 m x.1 → _) ?_; (on_goal 1 => clear_value x); (on_goal 2 => subst x)) | clear_value x)
    | (with_reducible first | apply State.setFld_only | apply State.tryBank_only | apply State.event_only)
    | with_reducible exact fun _ h => h
    | split

theorem State.chooseLoaded_only {m : Nat} {s0 s : State} (h : s0.OnlyM m s) (hm : 1038 ||| m = m) (ok : List Bool) (loadBad : List Nat) :
    s0.OnlyM m (State.chooseLoaded s ok loadBad).1 := by
  unfold State.chooseLoaded
  repeat' first
    | (intro _)
    | with_reducible assumption
    | with_reducible exact subM (by decide) hm
    | (extract_lets +onlyGivenNames x; first | (refine (fun hx => ?_ : State.OnlyM s0 m x → _) ?_; (on_goal 1 => clear_value x); (on_goal 2 => subst x)) | (refine (fun hx => ?_ : State.OnlyM s0 m x.1 → _) ?_; (on_goal 1 => clear_value x); (on_goal 2 => subst x)) | (refine (fun hx => ?_ : State.OnlyM s0 m x.2 → _) ?_; (on_goal 1 => clear_value x); (on_goal 2 => subst x)) | clear_value x)
    | (with_reducible first | apply State.chooseBank_only | apply State.endTrial_only | apply State.setFld_only | apply State.each_only | apply State.cvuLoad_only | apply State.tryBank_only | apply State.event_only)
    | with_reducible exact fun _ h => h
    | split
    | (fail_if_no_progress beta_reduce)

theorem State.takeBank_only {m : Nat} {s0 s : State} (h : s0.OnlyM m s) (hm : 10 ||| m = m) (b : Nat) (fell : Bool) :
    s0.OnlyM m (State.takeBank s b fell) := by
  unfold State.takeBank
  repeat' first
    | (intro _)
    | with_reducible assumption
    | with_reducible exact subM (by decide) hm
    | (extract_lets +onlyGivenNames x; first | (refine (fun hx => ?_ : State.OnlyM s0 m x → _) ?_; (on_goal 1 => clear_value x); (on_goal 2 => subst x)) | clear_value x)
    | (with_reducible first | apply State.setReg_only | apply State.setFlag_only | apply State.iff_only | apply State.setFld_only | apply State.startTimer_only)
    | with_reducible exact fun _ h => h
    | split

theorem State.legalCheck_only {m : Nat} {s0 s : State} (h : s0.OnlyM m s) (hm : 2 ||| m = m) (b : Nat) :
    s0.OnlyM m (State.legalCheck s b) := by
  unfold State.legalCheck
  repeat' first
    | (intro _)
    | with_reducible assumption
    | with_reducible exact subM (by decide) hm
    | (with_reducible first | apply State.setFld_only)
    | with_reducible exact fun _ h => h
    | split

theorem State.regStart_only {m : Nat} {s0 s : State} (h : s0.OnlyM m s) (hm : 2 ||| m = m) (lost : Bool) :
    s0.OnlyM m (State.regStart s lost) := by
  unfold State.regStart
  repeat' first
    | (intro _)
    | with_reducible assumption
    | with_reducible exact subM (by decide) hm
    | (with_reducible first | apply State.setReg_only | apply State.each_only)
    | with_reducible exact fun _ h => h
    | split

theorem State.runCore_only {m : Nat} {s0 s : State} (h : s0.OnlyM m s) (hm : 2 ||| m = m) (i : Nat) :
    s0.OnlyM m (State.runCore s i) := by
  unfold State.runCore
  repeat' first
    | (intro _)
    | with_reducible assumption
    | with_reducible exact subM (by decide) hm
    | (with_reducible first | apply State.setFld_only)
    | with_reducible exact fun _ h => h
    | split

theorem State.updGlb_only {m : Nat} {s0 s : State} (h : s0.OnlyM m s) (hm : 64 ||| m = m) (f : GlbSt → GlbSt) :
    s0.OnlyM m (State.updGlb s f) := by
  unfold State.updGlb
  repeat' first
    | (intro _)
    | with_reducible assumption
    | with_reducible exact subM (by decide) hm
    | split
    | (with_reducible apply State.mk_only; (rotate_left); all_goals first | with_reducible exact .inl rfl | exact .inr (bitM (by decide) hm) | skip)
    | with_reducible exact fun _ h => h
    | split

theorem State.islStart_only {m : Nat} {s0 s : State} (h : s0.OnlyM m s) (hm : 66566 ||| m = m) :
    s0.OnlyM m (State.islStart s) := by
  unfold State.islStart
  repeat' first
    | (intro _)
    | with_reducible assumption
    | with_reducible exact subM (by decide) hm
    | (extract_lets +onlyGivenNames x; first | (refine (fun hx => ?_ : State.OnlyM s0 m x → _) ?_; (on_goal 1 => clear_value x); (on_goal 2 => subst x)) | clear_value x)
    | (with_reducible first | apply State.updIsl_only | apply State.setThresholds_only | apply State.setIstate_only)
    | with_reducible exact fun _ h => h
    | split
    | (fail_if_no_progress beta_reduce)

theorem State.engStart_only {m : Nat} {s0 s : State} (h : s0.OnlyM m s) (hm : 7174 ||| m = m) :
    s0.OnlyM m (State.engStart s) := by
  unfold State.engStart
  repeat' first
    | (intro _)
    | with_reducible assumption
    | with_reducible exact subM (by decide) hm
    | (extract_lets +onlyGivenNames x; first | (refine (fun hx => ?_ : State.OnlyM s0 m x → _) ?_; (on_goal 1 => clear_value x); (on_goal 2 => subst x)) | clear_value x)
    | (with_reducible first | apply State.each_only | apply State.updCe_only | apply State.setFld_only | apply State.setReg_only | apply State.park_only | apply State.updVh_only | apply State.setSState_only)
    | split
    | (with_reducible apply State.mk_only; (rotate_left); all_goals first | with_reducible exact .inl rfl | exact .inr (bitM (by decide) hm) | skip)
    | with_reducible exact fun _ h => h
    | split
    | (fail_if_no_progress beta_reduce)

theorem State.gcStart_only {m : Nat} {s0 s : State} (h : s0.OnlyM m s) (hm : 3540014 ||| m = m) (b : Nat) :
    s0.OnlyM m (State.gcStart s b) := by
  unfold State.gcStart
  repeat' first
    | (intro _)
    | with_reducible assumption
    | with_reducible exact subM (by decide) hm
    | (extract_lets +onlyGivenNames x; first | (refine (fun hx => ?_ : State.OnlyM s0 m x → _) ?_; (on_goal 1 => clear_value x); (on_goal 2 => subst x)) | clear_value x)
    | (with_reducible first | apply State.each_only | apply State.loadRoast_only | apply State.endEntry_only | apply State.updPnl_only | apply State.setFld_only | apply State.mlStart_only | apply State.tagGcRead_only | apply State.updPc_only)
    | with_reducible exact fun _ h => h
    | split
    | (fail_if_no_progress beta_reduce)

theorem State.endBoot_only {m : Nat} {s0 s : State} (h : s0.OnlyM m s) (hm : 45612494 ||| m = m) :
    s0.OnlyM m (State.endBoot s) := by
  unfold State.endBoot
  repeat' first
    | (intro _)
    | with_reducible assumption
    | with_reducible exact subM (by decide) hm
    | (extract_lets +onlyGivenNames x; first | (refine (fun hx => ?_ : State.OnlyM s0 m x → _) ?_; (on_goal 1 => clear_value x); (on_goal 2 => subst x)) | clear_value x)
    | (with_reducible first | apply State.restoreCfg_only | apply State.commit_only | apply State.event_only | apply State.setMode_only | apply State.enterBench_only)
    | with_reducible exact fun _ h => h
    | split
    | (fail_if_no_progress beta_reduce)

theorem State.releaseAll_only {m : Nat} {s0 s : State} (h : s0.OnlyM m s) (hm : 45612526 ||| m = m) (inp : StartIn) (b : Nat) :
    s0.OnlyM m (State.releaseAll s inp b) := by
  unfold State.releaseAll
  repeat' first
    | (intro _)
    | with_reducible assumption
    | with_reducible exact subM (by decide) hm
    | (extract_lets +onlyGivenNames x; first | (refine (fun hx => ?_ : State.OnlyM s0 m x → _) ?_; (on_goal 1 => clear_value x); (on_goal 2 => subst x)) | clear_value x)
    | (with_reducible first | apply State.updSys_only | apply State.legStart_only | apply State.runCore_only | apply State.gcStart_only | apply State.pdSet_only | apply State.engStart_only | apply State.each_only | apply State.lawLoad_only | apply State.updGlb_only | apply State.setFld_only | apply State.cvuLoad_only | apply State.endBoot_only | apply State.event_only)
    | with_reducible exact fun _ h => h
    | split
    | (fail_if_no_progress beta_reduce)

theorem State.kcStart_only {m : Nat} {s0 s : State} (h : s0.OnlyM m s) (hm : 66584046 ||| m = m) (cause : Nat) (inp : StartIn) :
    s0.OnlyM m (State.kcStart s cause inp) := by
  unfold State.kcStart
  repeat' first
    | (intro _)
    | with_reducible assumption
    | with_reducible exact subM (by decide) hm
    | (extract_lets +onlyGivenNames x; first | (refine (fun hx => ?_ : State.OnlyM s0 m x → _) ?_; (on_goal 1 => clear_value x); (on_goal 2 => subst x)) | (refine (fun hx => ?_ : State.OnlyM s0 m x.1 → _) ?_; (on_goal 1 => clear_value x); (on_goal 2 => subst x)) | (refine (fun hx => ?_ : State.OnlyM s0 m x.2 → _) ?_; (on_goal 1 => clear_value x); (on_goal 2 => subst x)) | clear_value x)
    | (with_reducible first | apply State.memStart_only | apply State.runCore_only | apply State.iff_only | apply State.setFld_only | apply State.markFailed_only | apply State.chooseLoaded_only | apply State.journalStart_only | apply State.event_only | apply State.tagStart_only | apply State.updKeys_only | apply State.legalCheck_only | apply State.takeBank_only | apply State.cvuLoad_only | apply State.updSys_only | apply State.legStart_only | apply State.updGlb_only | apply State.pdSet_only | apply State.startTimer_only | apply State.releaseAll_only | apply State.islStart_only)
    | with_reducible exact fun _ h => h
    | split
    | (fail_if_no_progress beta_reduce)

theorem State.makeStart_only {m : Nat} {s0 s : State} (h : s0.OnlyM m s) (hm : 66584046 ||| m = m) (cause : Nat) (inp : StartIn) :
    s0.OnlyM m (State.makeStart s cause inp) := by
  unfold State.makeStart
  repeat' first
    | (intro _)
    | with_reducible assumption
    | with_reducible exact subM (by decide) hm
    | (extract_lets +onlyGivenNames x; first | (refine (fun hx => ?_ : State.OnlyM s0 m x → _) ?_; (on_goal 1 => clear_value x); (on_goal 2 => subst x)) | clear_value x)
    | (with_reducible first | apply State.updSys_only | apply State.startClock_only | apply State.iff_only | apply State.regStart_only | apply State.setReg_only | apply State.updGlb_only | apply State.updKeys_only | apply State.pdSet_only | apply State.kcStart_only | apply State.event_only)
    | with_reducible exact fun _ h => h
    | split
    | (fail_if_no_progress beta_reduce)

theorem execModuleStart_only (s : State) (inp : StartIn) :
    State.OnlyOut s 133692910 (execModuleStart inp s) := by
  have hm : 133692910 ||| 133692910 = 133692910 := rfl
  have h : State.OnlyM s 133692910 s := State.OnlyM.refl _ _
  unfold execModuleStart
  first | apply State.live_only | apply next_only
  repeat' first
    | (intro _)
    | with_reducible assumption
    | with_reducible exact subM (by decide) hm
    | (with_reducible first | apply State.makeStart_only | apply State.beginStart_only)
    | with_reducible exact fun _ h => h
    | split

theorem execScStartupTimeout_only (s : State) :
    State.OnlyOut s 115867086 (execScStartupTimeout s) := by
  have hm : 115867086 ||| 115867086 = 115867086 := rfl
  have h : State.OnlyM s 115867086 s := State.OnlyM.refl _ _
  unfold execScStartupTimeout
  first | apply State.live_only | apply State.liveOn_only | apply next_only
  repeat' first
    | (intro _)
    | with_reducible assumption
    | with_reducible exact subM (by decide) hm
    | (with_reducible first | apply State.iff_only | apply State.event_only | apply State.setFld_only | apply State.stopTimer_only | apply State.beginStart_only)
    | with_reducible exact fun _ h => h
    | split

theorem execActivationPauseEnd_only (s : State) (laws : List (Option LawImage)) (loadBad : List Nat) :
    State.OnlyOut s 115867118 (execActivationPauseEnd laws loadBad s) := by
  have hm : 115867118 ||| 115867118 = 115867118 := rfl
  have h : State.OnlyM s 115867118 s := State.OnlyM.refl _ _
  unfold execActivationPauseEnd
  first | apply State.live_only | apply State.liveOn_only | apply next_only
  repeat' first
    | (intro _)
    | with_reducible assumption
    | with_reducible exact subM (by decide) hm
    | (extract_lets +onlyGivenNames x; first | (refine (fun hx => ?_ : State.OnlyM s 115867118 x → _) ?_; (on_goal 1 => clear_value x); (on_goal 2 => subst x)) | clear_value x)
    | (with_reducible first | apply State.pauseFail_only | apply State.each_only | apply State.cvuLoad_only | apply State.lawLoad_only | apply State.updSh_only | apply State.runCore_only | apply State.loadRoast_only | apply State.setFlag_only | apply State.setFld_only | apply State.setReg_only | apply State.updKeys_only | apply State.startTimer_only | apply State.stopTimer_only | apply State.updStatus_only | apply State.event_only | apply State.ringsUnhold_only | apply State.complete_only)
    | with_reducible exact fun _ h => h
    | split
    | (fail_if_no_progress beta_reduce)

end Sys2Proof.Machine
end

