-- ==== Sys2Proof/Laws/OnlyAccess.lean ====
section
/-!
SUPPORT. The parts of the state that the operations and commands of Machine/Access.lean change.
-/

set_option linter.all false

namespace Sys2Proof.Machine

open Sys2Proof

theorem State.elapse_only {m : Nat} {s0 s : State} (h : s0.OnlyM m s) (hm : 160 ||| m = m) :
    s0.OnlyM m (State.elapse s) := by
  unfold State.elapse
  repeat' first
    | (intro _)
    | with_reducible assumption
    | with_reducible exact subM (by decide) hm
    | (extract_lets +onlyGivenNames x; first | (refine (fun hx => ?_ : State.OnlyM s0 m x → _) ?_; (on_goal 1 => clear_value x); (on_goal 2 => subst x)) | (refine (fun hx => ?_ : State.OnlyM s0 m x.1 → _) ?_; (on_goal 1 => clear_value x); (on_goal 2 => subst x)) | (refine (fun hx => ?_ : State.OnlyM s0 m x.2 → _) ?_; (on_goal 1 => clear_value x); (on_goal 2 => subst x)) | clear_value x)
    | (with_reducible first | apply State.draw_only | apply State.iff_only | apply State.updTim_only)
    | with_reducible exact fun _ h => h
    | split
    | (fail_if_no_progress beta_reduce)

theorem State.readPair_only {m : Nat} {s0 s : State} (h : s0.OnlyM m s) (hm : 160 ||| m = m) (off : Nat) (x : Word × State)
    (hx : s.readPair off = some x) : s0.OnlyM m x.2 := by
  simp only [State.readPair] at hx
  repeat' split at hx
  all_goals first
    | (cases hx; dsimp only; exact State.updTim_only (State.elapse_only h (subM (by decide) hm)) (subM (by decide) hm) _)
    | (cases hx; dsimp only; exact State.updTim_only h (subM (by decide) hm) _)
    | (cases hx; exact h)
    | cases hx

theorem State.readReg_only {m : Nat} {s0 s : State} (h : s0.OnlyM m s) (hm : 160 ||| m = m) (off : Nat) :
    s0.OnlyM m (State.readReg s off).2 := by
  unfold State.readReg
  repeat' first
    | (intro _)
    | with_reducible assumption
    | with_reducible exact subM (by decide) hm
    | (with_reducible first | (refine State.readPair_only ?_ (subM (by decide) hm) _ _ (by assumption); assumption) | apply foldl_only)
    | with_reducible exact fun _ h => h
    | split

theorem State.readOff_only {m : Nat} {s0 s : State} (h : s0.OnlyM m s) (hm : 1110 ||| m = m) (pd : Nat) :
    s0.OnlyM m (State.readOff s pd) := by
  unfold State.readOff
  repeat' first
    | (intro _)
    | with_reducible assumption
    | with_reducible exact subM (by decide) hm
    | (extract_lets +onlyGivenNames x; first | (refine (fun hx => ?_ : State.OnlyM s0 m x → _) ?_; (on_goal 1 => clear_value x); (on_goal 2 => subst x)) | (have y : State → State := x; clear y; subst x) | (have y : State → _ → State := x; clear y; subst x) | (have y : _ → State → State := x; clear y; subst x) | (have y : _ → _ → State → State := x; clear y; subst x) | (have y : State → _ → _ → State := x; clear y; subst x) | (have y : State → _ → State × _ := x; clear y; subst x) | clear_value x)
    | (with_reducible first | apply State.event_only | apply State.updGlb_only)
    | split
    | (with_reducible apply State.mk_only; (rotate_left); all_goals first | with_reducible exact .inl rfl | exact .inr (bitM (by decide) hm) | skip)
    | with_reducible exact fun _ h => h
    | split
    | (fail_if_no_progress beta_reduce)

theorem State.bar2Write_only {m : Nat} {s0 s : State} (h : s0.OnlyM m s) (hm : 4194304 ||| m = m) (o : Nat) (w : Word) :
    s0.OnlyM m (State.bar2Write s o w) := by
  unfold State.bar2Write
  repeat' first
    | (intro _)
    | with_reducible assumption
    | with_reducible exact subM (by decide) hm
    | (extract_lets +onlyGivenNames x; first | (refine (fun hx => ?_ : State.OnlyM s0 m x → _) ?_; (on_goal 1 => clear_value x); (on_goal 2 => subst x)) | clear_value x)
    | (with_reducible first | apply State.updHost_only | apply State.unmask_only)
    | with_reducible exact fun _ h => h
    | split
    | (fail_if_no_progress beta_reduce)

theorem State.answer_only {m : Nat} {s0 s : State} (h : s0.OnlyM m s) (hm : 16 ||| m = m) (v : Nat) :
    s0.OnlyM m (State.answer s v) := by
  unfold State.answer
  repeat' first
    | (intro _)
    | with_reducible assumption
    | with_reducible exact subM (by decide) hm
    | split
    | (with_reducible apply State.mk_only; (rotate_left); all_goals first | with_reducible exact .inl rfl | exact .inr (bitM (by decide) hm) | skip)
    | with_reducible exact fun _ h => h
    | split

theorem State.cfgRead_only {m : Nat} {s0 s : State} (h : s0.OnlyM m s) (hm : 48 ||| m = m) (o : Nat) :
    s0.OnlyM m (State.cfgRead s o) := by
  unfold State.cfgRead
  repeat' first
    | (intro _)
    | with_reducible assumption
    | with_reducible exact subM (by decide) hm
    | (extract_lets +onlyGivenNames x; first | (refine (fun hx => ?_ : State.OnlyM s0 m x → _) ?_; (on_goal 1 => clear_value x); (on_goal 2 => subst x)) | (refine (fun hx => ?_ : State.OnlyM s0 m x.1 → _) ?_; (on_goal 1 => clear_value x); (on_goal 2 => subst x)) | (refine (fun hx => ?_ : State.OnlyM s0 m x.2 → _) ?_; (on_goal 1 => clear_value x); (on_goal 2 => subst x)) | clear_value x)
    | (with_reducible first | apply State.answer_only | apply State.draw_only)
    | with_reducible exact fun _ h => h
    | split
    | (fail_if_no_progress beta_reduce)

theorem State.readFn_only {m : Nat} {s0 s : State} (h : s0.OnlyM m s) (hm : 48 ||| m = m) (off : Nat) :
    s0.OnlyM m (State.readFn s off) := by
  unfold State.readFn
  repeat' first
    | (intro _)
    | with_reducible assumption
    | with_reducible exact subM (by decide) hm
    | (with_reducible first | apply State.answer_only | apply State.cfgRead_only)
    | with_reducible exact fun _ h => h
    | split

theorem State.writeFn_only {m : Nat} {s0 s : State} (h : s0.OnlyM m s) (hm : 4194304 ||| m = m) (off : Nat) (w : Word) :
    s0.OnlyM m (State.writeFn s off w) := by
  unfold State.writeFn
  repeat' first
    | (intro _)
    | with_reducible assumption
    | with_reducible exact subM (by decide) hm
    | (with_reducible first | apply State.bar2Write_only | apply State.iff_only | apply State.updHost_only)
    | with_reducible exact fun _ h => h
    | split

theorem execRegisterRead_only (s : State) (offset : Nat) :
    State.OnlyOut s 1270 (execRegisterRead offset s) := by
  have hm : 1270 ||| 1270 = 1270 := rfl
  have h : State.OnlyM s 1270 s := State.OnlyM.refl _ _
  unfold execRegisterRead
  first | apply State.live_only | apply State.liveOn_only | apply next_only
  repeat' first
    | (intro _)
    | with_reducible assumption
    | with_reducible exact subM (by decide) hm
    | (extract_lets +onlyGivenNames x; first | (refine (fun hx => ?_ : State.OnlyM s 1270 x → _) ?_; (on_goal 1 => clear_value x); (on_goal 2 => subst x)) | (refine (fun hx => ?_ : State.OnlyM s 1270 x.1 → _) ?_; (on_goal 1 => clear_value x); (on_goal 2 => subst x)) | (refine (fun hx => ?_ : State.OnlyM s 1270 x.2 → _) ?_; (on_goal 1 => clear_value x); (on_goal 2 => subst x)) | (have y : State → State := x; clear y; subst x) | (have y : State → _ → State := x; clear y; subst x) | (have y : _ → State → State := x; clear y; subst x) | (have y : _ → _ → State → State := x; clear y; subst x) | (have y : State → _ → _ → State := x; clear y; subst x) | (have y : State → _ → State × _ := x; clear y; subst x) | clear_value x)
    | (with_reducible first | apply State.readFn_only | apply State.readOff_only | apply State.readReg_only)
    | split
    | (with_reducible apply State.mk_only; (rotate_left); all_goals first | with_reducible exact .inl rfl | exact .inr (bitM (by decide) hm) | skip)
    | with_reducible exact fun _ h => h
    | split
    | (fail_if_no_progress beta_reduce)

theorem execUnsupportedAccess_only (s : State) (_bar : Nat) (_offset : Nat) (_width : Nat) :
    State.OnlyOut s 0 (execUnsupportedAccess _bar _offset _width s) := by
  have hm : 0 ||| 0 = 0 := rfl
  have h : State.OnlyM s 0 s := State.OnlyM.refl _ _
  unfold execUnsupportedAccess
  first | apply State.live_only | apply next_only
  repeat' first
    | (intro _)
    | with_reducible assumption
    | with_reducible exact subM (by decide) hm
    | with_reducible exact fun _ h => h
    | split

theorem execReadOffDomain_only (s : State) (pd : Fin 10) (_offset : Nat) :
    State.OnlyOut s 1110 (execReadOffDomain pd _offset s) := by
  have hm : 1110 ||| 1110 = 1110 := rfl
  have h : State.OnlyM s 1110 s := State.OnlyM.refl _ _
  unfold execReadOffDomain
  first | apply State.live_only | apply State.liveOn_only | apply next_only
  repeat' first
    | (intro _)
    | with_reducible assumption
    | with_reducible exact subM (by decide) hm
    | (with_reducible first | apply State.readOff_only)
    | with_reducible exact fun _ h => h
    | split

theorem State.refused_only {m : Nat} {s0 s : State} (h : s0.OnlyM m s) (hm : 1030 ||| m = m) (off : Nat) (cause : Nat) :
    s0.OnlyM m (State.refused s off cause) := by
  unfold State.refused
  repeat' first
    | (intro _)
    | with_reducible assumption
    | with_reducible exact subM (by decide) hm
    | (with_reducible first | apply State.event_only)
    | with_reducible exact fun _ h => h
    | split

theorem State.writeField_only {m : Nat} {s0 s : State} (h : s0.OnlyM m s) (hm : 1094 ||| m = m) (w : Word) (off : Nat) (f : FieldSpec) :
    s0.OnlyM m (State.writeField w off s f) := by
  unfold State.writeField
  repeat' first
    | (intro _)
    | with_reducible assumption
    | with_reducible exact subM (by decide) hm
    | (extract_lets +onlyGivenNames x; first | clear_value x)
    | (with_reducible first | apply State.refused_only | apply State.setFld_only | apply State.putEdit_only)
    | with_reducible exact fun _ h => h
    | split

theorem State.writeFields_only {m : Nat} {s0 s : State} (h : s0.OnlyM m s) (hm : 1094 ||| m = m) (off : Nat) (r : RegSpec) (w : Word) :
    s0.OnlyM m (State.writeFields s off r w) := by
  unfold State.writeFields
  repeat' first
    | (intro _)
    | with_reducible assumption
    | with_reducible exact subM (by decide) hm
    | (extract_lets +onlyGivenNames x; first | (refine (fun hx => ?_ : State.OnlyM s0 m x → _) ?_; (on_goal 1 => clear_value x); (on_goal 2 => subst x)) | clear_value x)
    | (with_reducible first | apply State.setReg_only | apply State.writeField_only | apply State.iff_only | apply State.event_only | apply foldl_only)
    | with_reducible exact fun _ h => h
    | split
    | (fail_if_no_progress beta_reduce)

theorem State.hostBench_only {m : Nat} {s0 s : State} (h : s0.OnlyM m s) (hm : 36064590 ||| m = m) (w : Word) :
    s0.OnlyM m (State.hostBench s w) := by
  unfold State.hostBench
  repeat' first
    | (intro _)
    | with_reducible assumption
    | with_reducible exact subM (by decide) hm
    | (extract_lets +onlyGivenNames x; first | (refine (fun hx => ?_ : State.OnlyM s0 m x → _) ?_; (on_goal 1 => clear_value x); (on_goal 2 => subst x)) | clear_value x)
    | (with_reducible first | apply State.setFlag_only | apply State.iff_only | apply State.setFld_only | apply State.hostHold_only | apply State.hostStep_only | apply State.pdSet_only | apply State.rotAbandon_only)
    | with_reducible exact fun _ h => h
    | split

theorem State.wholeWrite_only {m : Nat} {s0 s : State} (h : s0.OnlyM m s) (hm : 115867086 ||| m = m) (off : Nat) (w : Word) (x : State)
    (hx : s.wholeWrite off w = some x) : s0.OnlyM m x := by
  unfold State.wholeWrite at hx
  repeat' split at hx
  all_goals first
    | (rw [Option.some.injEq] at hx; subst hx
       first
         | exact State.hostLeap_only h (subM (by decide) hm) _ | exact State.mxExclClear_only h (subM (by decide) hm) _ _
         | exact State.ceExclClear_only h (subM (by decide) hm) _ _
         | exact State.modeReq_only h (subM (by decide) hm) _ | exact State.hostBench_only h (subM (by decide) hm) _)
    | cases hx

theorem State.writeAct1_only {m : Nat} {s0 s : State} (h : s0.OnlyM m s) (hm : 4242702 ||| m = m) (off : Nat) (i : Nat) (w : Word) :
    s0.OnlyM m (State.writeAct1 s off i w) := by
  unfold State.writeAct1
  repeat' first
    | (intro _)
    | with_reducible assumption
    | with_reducible exact subM (by decide) hm
    | (extract_lets +onlyGivenNames x; first | clear_value x)
    | (with_reducible first | apply State.hostSwap_only | apply State.iff_only | apply State.hostStop_only | apply State.fhRefresh_only | apply State.hostJoin_only | apply State.ringEnable_only | apply State.ringDisable_only | apply State.hostRetrain_only | apply State.ringFlush_only | apply State.ringResume_only)
    | with_reducible exact fun _ h => h
    | split

theorem State.writeAct_only {m : Nat} {s0 s : State} (h : s0.OnlyM m s) (hm : 116915694 ||| m = m) (off : Nat) (is : List Nat) (w : Word) :
    s0.OnlyM m (State.writeAct s off is w) := by
  unfold State.writeAct
  repeat' first
    | (intro _)
    | with_reducible assumption
    | with_reducible exact subM (by decide) hm
    | (extract_lets +onlyGivenNames x; first | (refine (fun hx => ?_ : State.OnlyM s0 m x → _) ?_; (on_goal 1 => clear_value x); (on_goal 2 => subst x)) | (refine (fun hx => ?_ : State.OnlyM s0 m x.2 → _) ?_; (on_goal 1 => clear_value x); (on_goal 2 => subst x)) | clear_value x)
    | (with_reducible first | apply State.draw_only | apply State.iff_only | apply State.cupMode_only | apply State.legSelect_only | apply State.metSnap_only | apply State.cupArm_only | apply State.writeAct1_only | apply State.hostCommit_only | apply State.hostHandover_only | apply State.freezeReq_only | apply State.cupHostTrig_only | apply State.selectPage_only | apply State.metSnapRel_only)
    | with_reducible exact fun _ h => h
    | split

theorem State.writePs_only {m : Nat} {s0 s : State} (h : s0.OnlyM m s) (hm : 132102 ||| m = m) (n : Nat) (w : Word) :
    s0.OnlyM m (State.writePs s n w) := by
  unfold State.writePs
  repeat' first
    | (intro _)
    | with_reducible assumption
    | with_reducible exact subM (by decide) hm
    | (extract_lets +onlyGivenNames x; first | (refine (fun hx => ?_ : State.OnlyM s0 m x → _) ?_; (on_goal 1 => clear_value x); (on_goal 2 => subst x)) | clear_value x)
    | (with_reducible first | apply State.hostPs_only | apply State.iff_only | apply State.hostPsClr_only)
    | with_reducible exact fun _ h => h
    | split
    | (fail_if_no_progress beta_reduce)

theorem State.hostWrite_only {m : Nat} {s0 s : State} (h : s0.OnlyM m s) (hm : 116915694 ||| m = m) (off : Nat) (w : Word) :
    s0.OnlyM m (State.hostWrite s off w) := by
  unfold State.hostWrite
  repeat' first
    | (intro _)
    | with_reducible assumption
    | with_reducible exact subM (by decide) hm
    | (with_reducible first | apply State.writeFn_only | apply State.islViolation_only | (refine State.wholeWrite_only ?_ (subM (by decide) hm) _ _ _ (by assumption); assumption) | apply State.writePs_only | apply State.writeAct_only | apply State.writeFields_only)
    | with_reducible exact fun _ h => h
    | split

theorem execRegisterWrite_only (s : State) (offset : Nat) (value : Word) :
    State.OnlyOut s 116915694 (execRegisterWrite offset value s) := by
  have hm : 116915694 ||| 116915694 = 116915694 := rfl
  have h : State.OnlyM s 116915694 s := State.OnlyM.refl _ _
  unfold execRegisterWrite
  first | apply State.live_only | apply next_only
  repeat' first
    | (intro _)
    | with_reducible assumption
    | with_reducible exact subM (by decide) hm
    | (with_reducible first | apply State.hostWrite_only)
    | with_reducible exact fun _ h => h
    | split

end Sys2Proof.Machine
end

