-- ==== Sys2Proof/Laws/OnlyTicks.lean ====
section
/-!
SUPPORT. The parts of the state that the operations and commands of Machine/Ticks.lean change.
-/

set_option linter.all false

namespace Sys2Proof.Machine

open Sys2Proof

theorem State.zoneTick_only {m : Nat} {s0 s : State} (h : s0.OnlyM m s) (hm : 66 ||| m = m) (z : List Int) :
    s0.OnlyM m (State.zoneTick s z) := by
  unfold State.zoneTick
  repeat' first
    | (intro _)
    | with_reducible assumption
    | with_reducible exact subM (by decide) hm
    | (extract_lets +onlyGivenNames x; first | (refine (fun hx => ?_ : State.OnlyM s0 m x → _) ?_; (on_goal 1 => clear_value x); (on_goal 2 => subst x)) | clear_value x)
    | (with_reducible first | apply State.setSat_only | apply State.updGlb_only | apply State.setFldS_only)
    | with_reducible exact fun _ h => h
    | split

theorem execZoneDiffExceeded_only (s : State) :
    State.OnlyOut s 1030 (execZoneDiffExceeded s) := by
  have hm : 1030 ||| 1030 = 1030 := rfl
  have h : State.OnlyM s 1030 s := State.OnlyM.refl _ _
  unfold execZoneDiffExceeded
  first | apply State.live_only | apply next_only
  repeat' first
    | (intro _)
    | with_reducible assumption
    | with_reducible exact subM (by decide) hm
    | (with_reducible first | apply State.setFlag_only | apply State.event_only)
    | with_reducible exact fun _ h => h
    | split

theorem execZoneDiffCleared_only (s : State) :
    State.OnlyOut s 1030 (execZoneDiffCleared s) := by
  have hm : 1030 ||| 1030 = 1030 := rfl
  have h : State.OnlyM s 1030 s := State.OnlyM.refl _ _
  unfold execZoneDiffCleared
  first | apply State.live_only | apply next_only
  repeat' first
    | (intro _)
    | with_reducible assumption
    | with_reducible exact subM (by decide) hm
    | (with_reducible first | apply State.setFlag_only | apply State.event_only)
    | with_reducible exact fun _ h => h
    | split

theorem State.railGone_only {m : Nat} {s0 s : State} (h : s0.OnlyM m s) (hm : 4260870 ||| m = m) (pd : Nat) :
    s0.OnlyM m (State.railGone s pd) := by
  unfold State.railGone
  repeat' first
    | (intro _)
    | with_reducible assumption
    | with_reducible exact subM (by decide) hm
    | (with_reducible first | apply State.updIsl_only | apply State.each_only | apply State.updCe_only | apply State.hostQuiet_only | apply State.hostLinkDown_only)
    | with_reducible exact fun _ h => h
    | split

theorem execDomainRailLost_only (s : State) (pd : Fin 10) :
    State.OnlyOut s 6753614 (execDomainRailLost pd s) := by
  have hm : 6753614 ||| 6753614 = 6753614 := rfl
  have h : State.OnlyM s 6753614 s := State.OnlyM.refl _ _
  unfold execDomainRailLost
  first | apply State.live_only | apply next_only
  repeat' first
    | (intro _)
    | with_reducible assumption
    | with_reducible exact subM (by decide) hm
    | (extract_lets +onlyGivenNames x; first | (refine (fun hx => ?_ : State.OnlyM s 6753614 x → _) ?_; (on_goal 1 => clear_value x); (on_goal 2 => subst x)) | clear_value x)
    | (with_reducible first | apply State.setReg_only | apply State.setFlag_only | apply State.setFld_only | apply State.railGone_only | apply State.each_only | apply State.pdSwitch_only | apply State.event_only)
    | with_reducible exact fun _ h => h
    | split

theorem execFrontEndSupplyFault_only (s : State) (fe : Fin 10) :
    State.OnlyOut s 1094 (execFrontEndSupplyFault fe s) := by
  have hm : 1094 ||| 1094 = 1094 := rfl
  have h : State.OnlyM s 1094 s := State.OnlyM.refl _ _
  unfold execFrontEndSupplyFault
  first | apply State.live_only | apply next_only
  repeat' first
    | (intro _)
    | with_reducible assumption
    | with_reducible exact subM (by decide) hm
    | (extract_lets +onlyGivenNames x; first | (refine (fun hx => ?_ : State.OnlyM s 1094 x → _) ?_; (on_goal 1 => clear_value x); (on_goal 2 => subst x)) | clear_value x)
    | (with_reducible first | apply State.setFlag_only | apply State.updGlb_only | apply State.event_only)
    | with_reducible exact fun _ h => h
    | split

theorem execBarrierTransferBad_only (s : State) (fe : Fin 10) (fast : Bool) (sample : Fin 32) :
    State.OnlyOut s 17478 (execBarrierTransferBad fe fast sample s) := by
  have hm : 17478 ||| 17478 = 17478 := rfl
  have h : State.OnlyM s 17478 s := State.OnlyM.refl _ _
  unfold execBarrierTransferBad
  first | apply State.live_only | apply State.liveOn_only | apply next_only
  repeat' first
    | (intro _)
    | with_reducible assumption
    | with_reducible exact subM (by decide) hm
    | (extract_lets +onlyGivenNames x; first | (refine (fun hx => ?_ : State.OnlyM s 17478 x → _) ?_; (on_goal 1 => clear_value x); (on_goal 2 => subst x)) | clear_value x)
    | (with_reducible first | apply State.updGlb_only | apply State.updOl_only | apply State.precDiscard_only)
    | with_reducible exact fun _ h => h
    | split
    | (fail_if_no_progress beta_reduce)

theorem State.access_only {m : Nat} {s0 s : State} (h : s0.OnlyM m s) (hm : 33555462 ||| m = m) (a : PartAccess) :
    s0.OnlyM m (State.access s a) := by
  unfold State.access
  repeat' first
    | (intro _)
    | with_reducible assumption
    | with_reducible exact subM (by decide) hm
    | (with_reducible first | apply State.iff_only | apply State.updSys_only | apply State.islViolation_only | apply State.event_only)
    | with_reducible exact fun _ h => h
    | split

theorem State.unpublished_only {m : Nat} {s0 s : State} (h : s0.OnlyM m s) (hm : 1030 ||| m = m) (core : Nat) (table : Nat) :
    s0.OnlyM m (State.unpublished s core table) := by
  unfold State.unpublished
  repeat' first
    | (intro _)
    | with_reducible assumption
    | with_reducible exact subM (by decide) hm
    | (with_reducible first | apply State.iff_only | apply State.event_only)
    | with_reducible exact fun _ h => h
    | split

theorem State.fillBacks_only {m : Nat} {s0 s : State} (h : s0.OnlyM m s) (hm : 2050 ||| m = m) :
    s0.OnlyM m (State.fillBacks s) := by
  unfold State.fillBacks
  repeat' first
    | (intro _)
    | with_reducible assumption
    | with_reducible exact subM (by decide) hm
    | (extract_lets +onlyGivenNames x; first | (refine (fun hx => ?_ : State.OnlyM s0 m x → _) ?_; (on_goal 1 => clear_value x); (on_goal 2 => subst x)) | clear_value x)
    | (with_reducible first | apply State.updSh_only | apply State.iff_only | apply State.mirrorFill_only)
    | with_reducible exact fun _ h => h
    | split
    | (fail_if_no_progress beta_reduce)

theorem State.swap0_only {m : Nat} {s0 s : State} (h : s0.OnlyM m s) (hm : 3078 ||| m = m) (v : Nat) (late : Bool) :
    s0.OnlyM m (State.swap0 s v late) := by
  unfold State.swap0
  repeat' first
    | (intro _)
    | with_reducible assumption
    | with_reducible exact subM (by decide) hm
    | (with_reducible first | apply State.updSh_only | apply State.unpublished_only)
    | with_reducible exact fun _ h => h
    | split

theorem State.swap1_only {m : Nat} {s0 s : State} (h : s0.OnlyM m s) (hm : 3078 ||| m = m) (late : Bool) :
    s0.OnlyM m (State.swap1 s late) := by
  unfold State.swap1
  repeat' first
    | (intro _)
    | with_reducible assumption
    | with_reducible exact subM (by decide) hm
    | (extract_lets +onlyGivenNames x; first | (refine (fun hx => ?_ : State.OnlyM s0 m x → _) ?_; (on_goal 1 => clear_value x); (on_goal 2 => subst x)) | clear_value x)
    | (with_reducible first | apply State.updSh_only | apply State.unpublished_only)
    | with_reducible exact fun _ h => h
    | split
    | (fail_if_no_progress beta_reduce)

theorem State.showMap_only {m : Nat} {s0 s : State} (h : s0.OnlyM m s) (hm : 2 ||| m = m) : s0.OnlyM m (State.showMap s) := by
  unfold State.showMap
  repeat' first
    | (intro _)
    | with_reducible assumption
    | with_reducible exact subM (by decide) hm
    | (with_reducible first | apply State.each_only | apply State.setFld_only)
    | with_reducible exact fun _ h => h
    | split

theorem State.swap2_only {m : Nat} {s0 s : State} (h : s0.OnlyM m s) (hm : 3142 ||| m = m) :
    s0.OnlyM m (State.swap2 s) := by
  unfold State.swap2
  repeat' first
    | (intro _)
    | with_reducible assumption
    | with_reducible exact subM (by decide) hm
    | (extract_lets +onlyGivenNames x; first | (refine (fun hx => ?_ : State.OnlyM s0 m x → _) ?_; (on_goal 1 => clear_value x); (on_goal 2 => subst x)) | clear_value x)
    | (with_reducible first | apply State.updSh_only | apply State.updGlb_only | apply State.showMap_only | apply State.unpublished_only)
    | with_reducible exact fun _ h => h
    | split

theorem State.seqRows_only {m : Nat} {s0 s : State} (h : s0.OnlyM m s) (hm : 2048 ||| m = m) (c : Nat) :
    s0.OnlyM m (State.seqRows s c) := by
  unfold State.seqRows
  repeat' first
    | (intro _)
    | with_reducible assumption
    | with_reducible exact subM (by decide) hm
    | (with_reducible first | apply State.updSh_only)
    | with_reducible exact fun _ h => h
    | split

theorem State.swap3_only {m : Nat} {s0 s : State} (h : s0.OnlyM m s) (hm : 3206 ||| m = m) (c : Nat) (late : Bool) :
    s0.OnlyM m (State.swap3 s c late) := by
  unfold State.swap3
  repeat' first
    | (intro _)
    | with_reducible assumption
    | with_reducible exact subM (by decide) hm
    | (extract_lets +onlyGivenNames x; first | (refine (fun hx => ?_ : State.OnlyM s0 m x → _) ?_; (on_goal 1 => clear_value x); (on_goal 2 => subst x)) | clear_value x)
    | (with_reducible first | apply State.updSh_only | apply State.iff_only | apply State.unpublished_only | apply State.seqRows_only | apply State.updTim_only | apply State.overrun_only)
    | with_reducible exact fun _ h => h
    | split
    | (fail_if_no_progress beta_reduce)

theorem State.swap4_only {m : Nat} {s0 s : State} (h : s0.OnlyM m s) (hm : 3078 ||| m = m) (late : Bool) :
    s0.OnlyM m (State.swap4 s late) := by
  unfold State.swap4
  repeat' first
    | (intro _)
    | with_reducible assumption
    | with_reducible exact subM (by decide) hm
    | (with_reducible first | apply State.updSh_only | apply State.unpublished_only)
    | with_reducible exact fun _ h => h
    | split

theorem State.exchangeSwap_only {m : Nat} {s0 s : State} (h : s0.OnlyM m s) (hm : 3270 ||| m = m) (late : List Bool) :
    s0.OnlyM m (State.exchangeSwap s late) := by
  unfold State.exchangeSwap
  repeat' first
    | (intro _)
    | with_reducible assumption
    | with_reducible exact subM (by decide) hm
    | (extract_lets +onlyGivenNames x; first | (refine (fun hx => ?_ : State.OnlyM s0 m x → _) ?_; (on_goal 1 => clear_value x); (on_goal 2 => subst x)) | clear_value x)
    | (with_reducible first | apply State.swap1_only | apply State.swap0_only | apply State.fillBacks_only | apply State.swap4_only | apply State.swap3_only | apply State.swap2_only | apply State.updSh_only | apply State.unpublished_only)
    | with_reducible exact fun _ h => h
    | split
    | (fail_if_no_progress beta_reduce)

theorem State.allocTakeover_only {m : Nat} {s0 s : State} (h : s0.OnlyM m s) (hm : 1030 ||| m = m) :
    s0.OnlyM m (State.allocTakeover s) := by
  unfold State.allocTakeover
  repeat' first
    | (intro _)
    | with_reducible assumption
    | with_reducible exact subM (by decide) hm
    | (with_reducible first | apply State.setFld_only | apply State.event_only)
    | with_reducible exact fun _ h => h
    | split

theorem State.lateWork_only {m : Nat} {s0 s : State} (h : s0.OnlyM m s) (hm : 197766 ||| m = m) (late : List Bool) :
    s0.OnlyM m (State.lateWork s late) := by
  unfold State.lateWork
  repeat' first
    | (intro _)
    | with_reducible assumption
    | with_reducible exact subM (by decide) hm
    | (extract_lets +onlyGivenNames x; first | (refine (fun hx => ?_ : State.OnlyM s0 m x → _) ?_; (on_goal 1 => clear_value x); (on_goal 2 => subst x)) | clear_value x)
    | (with_reducible first | apply State.iff_only | apply State.updPs_only | apply State.updIsl_only | apply State.overrun_only)
    | with_reducible exact fun _ h => h
    | split
    | (fail_if_no_progress beta_reduce)

theorem execCfTick_only (s : State) :
    State.OnlyOut s 33558414 (execCfTick s) := by
  have hm : 33558414 ||| 33558414 = 33558414 := rfl
  have h : State.OnlyM s 33558414 s := State.OnlyM.refl _ _
  unfold execCfTick
  first | apply State.live_only | apply State.liveOn_only | apply next_only
  repeat' first
    | (intro _)
    | with_reducible assumption
    | with_reducible exact subM (by decide) hm
    | (extract_lets +onlyGivenNames x; first | (refine (fun hx => ?_ : State.OnlyM s 33558414 x → _) ?_; (on_goal 1 => clear_value x); (on_goal 2 => subst x)) | clear_value x)
    | (with_reducible first | apply State.benchCf_only | apply State.linksCf_only | apply State.updTim_only)
    | with_reducible exact fun _ h => h
    | split
    | (fail_if_no_progress beta_reduce)

theorem State.sfControl_only {m : Nat} {s0 s : State} (h : s0.OnlyM m s) (hm : 33602830 ||| m = m) (inp : SfIn) :
    s0.OnlyM m (State.sfControl s inp) := by
  unfold State.sfControl
  repeat' first
    | (intro _)
    | with_reducible assumption
    | with_reducible exact subM (by decide) hm
    | (extract_lets +onlyGivenNames x; first | (refine (fun hx => ?_ : State.OnlyM s0 m x → _) ?_; (on_goal 1 => clear_value x); (on_goal 2 => subst x)) | clear_value x)
    | (with_reducible first | apply State.moveTick_only | apply State.bundleTick_only | apply State.benchTick_only | apply State.pauseTick_only | apply State.each_only | apply State.iff_only | apply State.takePt_only | apply State.ceSfProgram_only | apply State.ceTick_only | apply State.vehTick_only | apply State.benchCf_only)
    | with_reducible exact fun _ h => h
    | split
    | (fail_if_no_progress beta_reduce)

theorem State.railRegs_only {m : Nat} {s0 s : State} (h : s0.OnlyM m s) (hm : 134158 ||| m = m) (inp : SfIn) :
    s0.OnlyM m (State.railRegs s inp) := by
  unfold State.railRegs
  repeat' first
    | (intro _)
    | with_reducible assumption
    | with_reducible exact subM (by decide) hm
    | (extract_lets +onlyGivenNames x; first | (refine (fun hx => ?_ : State.OnlyM s0 m x → _) ?_; (on_goal 1 => clear_value x); (on_goal 2 => subst x)) | clear_value x)
    | (with_reducible first | apply State.iff_only | apply State.railTick_only | apply State.each_only | apply State.railVolts_only | apply State.setSat_only)
    | with_reducible exact fun _ h => h
    | split
    | (fail_if_no_progress beta_reduce)

theorem State.sfServices_only {m : Nat} {s0 s : State} (h : s0.OnlyM m s) (hm : 134217678 ||| m = m) (inp : SfIn) :
    s0.OnlyM m (State.sfServices s inp) := by
  unfold State.sfServices
  repeat' first
    | (intro _)
    | with_reducible assumption
    | with_reducible exact subM (by decide) hm
    | (extract_lets +onlyGivenNames x; first | (refine (fun hx => ?_ : State.OnlyM s0 m x → _) ?_; (on_goal 1 => clear_value x); (on_goal 2 => subst x)) | clear_value x)
    | (with_reducible first | apply State.metTick_only | apply State.setFlag_only | apply State.hostSf_only | apply State.twinTick_only | apply State.iff_only | apply State.legTick_only | apply State.portTick_only | apply State.railsDown_only | apply State.chkTick_only | apply State.mlTick_only | apply State.pd8Tick_only | apply State.restTick_only | apply State.panelSf_only | apply State.dropB_only | apply State.updTag_only | apply State.updPs_only | apply State.memTick_only | apply State.updKeys_only | apply State.mirrorTake_only | apply State.tagKey_only)
    | with_reducible exact fun _ h => h
    | split
    | (fail_if_no_progress beta_reduce)

theorem State.islScrub_only {m : Nat} {s0 s : State} (h : s0.OnlyM m s) (hm : 115867086 ||| m = m) (unc : Bool) :
    s0.OnlyM m (State.islScrub s unc) := by
  unfold State.islScrub
  repeat' first
    | (intro _)
    | with_reducible assumption
    | with_reducible exact subM (by decide) hm
    | (extract_lets +onlyGivenNames x; first | (refine (fun hx => ?_ : State.OnlyM s0 m x → _) ?_; (on_goal 1 => clear_value x); (on_goal 2 => subst x)) | clear_value x)
    | (with_reducible first | apply State.haltCore_only | apply State.faultSafe_only | apply State.event_only | apply State.faultSeen_only)
    | with_reducible exact fun _ h => h
    | split

theorem State.sfIsland_only {m : Nat} {s0 s : State} (h : s0.OnlyM m s) (hm : 115867086 ||| m = m) (inp : SfIn) :
    s0.OnlyM m (State.sfIsland s inp) := by
  unfold State.sfIsland
  repeat' first
    | (intro _)
    | with_reducible assumption
    | with_reducible exact subM (by decide) hm
    | (extract_lets +onlyGivenNames x; first | (refine (fun hx => ?_ : State.OnlyM s0 m x → _) ?_; (on_goal 1 => clear_value x); (on_goal 2 => subst x)) | clear_value x)
    | (with_reducible first | apply State.pathCompare_only | apply State.iff_only | apply State.candTick_only | apply State.islScrub_only | apply State.safetyCycle_only | apply State.mirror_only)
    | with_reducible exact fun _ h => h
    | split

theorem execSfTick_only (s : State) (inp : SfIn) :
    State.OnlyOut s 134217678 (execSfTick inp s) := by
  have hm : 134217678 ||| 134217678 = 134217678 := rfl
  have h : State.OnlyM s 134217678 s := State.OnlyM.refl _ _
  unfold execSfTick
  first | apply State.live_only | apply State.liveOn_only | apply next_only
  repeat' first
    | (intro _)
    | with_reducible assumption
    | with_reducible exact subM (by decide) hm
    | (extract_lets +onlyGivenNames x; first | (refine (fun hx => ?_ : State.OnlyM s 134217678 x → _) ?_; (on_goal 1 => clear_value x); (on_goal 2 => subst x)) | clear_value x)
    | (with_reducible first | apply State.railsDown_only | apply State.sfTickTime_only | apply State.updTim_only | apply State.each_only | apply State.access_only | apply State.exchangeSwap_only | apply State.linksCf_only | apply State.linksSf_only | apply State.zoneTick_only | apply State.lateWork_only | apply State.updPs_only | apply State.sfControl_only | apply State.allocTakeover_only | apply State.railRegs_only | apply State.sfIsland_only | apply State.freezeTick_only | apply State.sfServices_only)
    | with_reducible exact fun _ h => h
    | split
    | (fail_if_no_progress beta_reduce)

theorem execLegalCommitOverrun_only (s : State) :
    State.OnlyOut s 115867086 (execLegalCommitOverrun s) := by
  have hm : 115867086 ||| 115867086 = 115867086 := rfl
  have h : State.OnlyM s 115867086 s := State.OnlyM.refl _ _
  unfold execLegalCommitOverrun
  first | apply State.live_only | apply next_only
  repeat' first
    | (intro _)
    | with_reducible assumption
    | with_reducible exact subM (by decide) hm
    | (with_reducible first | apply State.overrun_only | apply State.haltCore_only)
    | with_reducible exact fun _ h => h
    | split

end Sys2Proof.Machine
end

