-- ==== Sys2Proof/Laws/State.lean ====
section
/-!
SUPPORT. Each named update against each field of the state: what it becomes, or that it stays. A register is read through an
update of anything else.
-/

set_option linter.all false

namespace Sys2Proof.Machine

open Sys2Proof

@[simp] theorem State.setReg_pending (s : State) (off : Nat) (w : Word) : (s.setReg off w).pending = s.pending := rfl
@[simp] theorem State.setReg_regs (s : State) (off : Nat) (w : Word) : (s.setReg off w).regs = Sparse.put (regReset off) off w s.regs := rfl
@[simp] theorem State.setReg_log (s : State) (off : Nat) (w : Word) : (s.setReg off w).log = s.log := rfl
@[simp] theorem State.setReg_timers (s : State) (off : Nat) (w : Word) : (s.setReg off w).timers = s.timers := rfl
@[simp] theorem State.setReg_hostRead (s : State) (off : Nat) (w : Word) : (s.setReg off w).hostRead = s.hostRead := rfl
@[simp] theorem State.setReg_fresh (s : State) (off : Nat) (w : Word) : (s.setReg off w).fresh = s.fresh := rfl
@[simp] theorem State.setReg_glb (s : State) (off : Nat) (w : Word) : (s.setReg off w).glb = s.glb := rfl
@[simp] theorem State.setReg_tim (s : State) (off : Nat) (w : Word) : (s.setReg off w).tim = s.tim := rfl
@[simp] theorem State.setReg_links (s : State) (off : Nat) (w : Word) : (s.setReg off w).links = s.links := rfl
@[simp] theorem State.setReg_linkc (s : State) (off : Nat) (w : Word) : (s.setReg off w).linkc = s.linkc := rfl
@[simp] theorem State.setReg_ces (s : State) (off : Nat) (w : Word) : (s.setReg off w).ces = s.ces := rfl
@[simp] theorem State.setReg_sh (s : State) (off : Nat) (w : Word) : (s.setReg off w).sh = s.sh := rfl
@[simp] theorem State.setReg_veh (s : State) (off : Nat) (w : Word) : (s.setReg off w).veh = s.veh := rfl
@[simp] theorem State.setReg_vehc (s : State) (off : Nat) (w : Word) : (s.setReg off w).vehc = s.vehc := rfl
@[simp] theorem State.setReg_met (s : State) (off : Nat) (w : Word) : (s.setReg off w).met = s.met := rfl
@[simp] theorem State.setReg_leg (s : State) (off : Nat) (w : Word) : (s.setReg off w).leg = s.leg := rfl
@[simp] theorem State.setReg_isl (s : State) (off : Nat) (w : Word) : (s.setReg off w).isl = s.isl := rfl
@[simp] theorem State.setReg_ps (s : State) (off : Nat) (w : Word) : (s.setReg off w).ps = s.ps := rfl
@[simp] theorem State.setReg_pnl (s : State) (off : Nat) (w : Word) : (s.setReg off w).pnl = s.pnl := rfl
@[simp] theorem State.setReg_nfc (s : State) (off : Nat) (w : Word) : (s.setReg off w).nfc = s.nfc := rfl
@[simp] theorem State.setReg_tag (s : State) (off : Nat) (w : Word) : (s.setReg off w).tag = s.tag := rfl
@[simp] theorem State.setReg_ml (s : State) (off : Nat) (w : Word) : (s.setReg off w).ml = s.ml := rfl
@[simp] theorem State.setReg_host (s : State) (off : Nat) (w : Word) : (s.setReg off w).host = s.host := rfl
@[simp] theorem State.setReg_keys (s : State) (off : Nat) (w : Word) : (s.setReg off w).keys = s.keys := rfl
@[simp] theorem State.setReg_mem (s : State) (off : Nat) (w : Word) : (s.setReg off w).mem = s.mem := rfl
@[simp] theorem State.setReg_sys (s : State) (off : Nat) (w : Word) : (s.setReg off w).sys = s.sys := rfl
@[simp] theorem State.setReg_twin (s : State) (off : Nat) (w : Word) : (s.setReg off w).twin = s.twin := rfl

@[simp] theorem State.setFld_pending (s : State) (f : Fld) (v : Nat) : (s.setFld f v).pending = s.pending := rfl
@[simp] theorem State.setFld_log (s : State) (f : Fld) (v : Nat) : (s.setFld f v).log = s.log := rfl
@[simp] theorem State.setFld_timers (s : State) (f : Fld) (v : Nat) : (s.setFld f v).timers = s.timers := rfl
@[simp] theorem State.setFld_hostRead (s : State) (f : Fld) (v : Nat) : (s.setFld f v).hostRead = s.hostRead := rfl
@[simp] theorem State.setFld_fresh (s : State) (f : Fld) (v : Nat) : (s.setFld f v).fresh = s.fresh := rfl
@[simp] theorem State.setFld_glb (s : State) (f : Fld) (v : Nat) : (s.setFld f v).glb = s.glb := rfl
@[simp] theorem State.setFld_tim (s : State) (f : Fld) (v : Nat) : (s.setFld f v).tim = s.tim := rfl
@[simp] theorem State.setFld_links (s : State) (f : Fld) (v : Nat) : (s.setFld f v).links = s.links := rfl
@[simp] theorem State.setFld_linkc (s : State) (f : Fld) (v : Nat) : (s.setFld f v).linkc = s.linkc := rfl
@[simp] theorem State.setFld_ces (s : State) (f : Fld) (v : Nat) : (s.setFld f v).ces = s.ces := rfl
@[simp] theorem State.setFld_sh (s : State) (f : Fld) (v : Nat) : (s.setFld f v).sh = s.sh := rfl
@[simp] theorem State.setFld_veh (s : State) (f : Fld) (v : Nat) : (s.setFld f v).veh = s.veh := rfl
@[simp] theorem State.setFld_vehc (s : State) (f : Fld) (v : Nat) : (s.setFld f v).vehc = s.vehc := rfl
@[simp] theorem State.setFld_met (s : State) (f : Fld) (v : Nat) : (s.setFld f v).met = s.met := rfl
@[simp] theorem State.setFld_leg (s : State) (f : Fld) (v : Nat) : (s.setFld f v).leg = s.leg := rfl
@[simp] theorem State.setFld_isl (s : State) (f : Fld) (v : Nat) : (s.setFld f v).isl = s.isl := rfl
@[simp] theorem State.setFld_ps (s : State) (f : Fld) (v : Nat) : (s.setFld f v).ps = s.ps := rfl
@[simp] theorem State.setFld_pnl (s : State) (f : Fld) (v : Nat) : (s.setFld f v).pnl = s.pnl := rfl
@[simp] theorem State.setFld_nfc (s : State) (f : Fld) (v : Nat) : (s.setFld f v).nfc = s.nfc := rfl
@[simp] theorem State.setFld_tag (s : State) (f : Fld) (v : Nat) : (s.setFld f v).tag = s.tag := rfl
@[simp] theorem State.setFld_ml (s : State) (f : Fld) (v : Nat) : (s.setFld f v).ml = s.ml := rfl
@[simp] theorem State.setFld_host (s : State) (f : Fld) (v : Nat) : (s.setFld f v).host = s.host := rfl
@[simp] theorem State.setFld_keys (s : State) (f : Fld) (v : Nat) : (s.setFld f v).keys = s.keys := rfl
@[simp] theorem State.setFld_mem (s : State) (f : Fld) (v : Nat) : (s.setFld f v).mem = s.mem := rfl
@[simp] theorem State.setFld_sys (s : State) (f : Fld) (v : Nat) : (s.setFld f v).sys = s.sys := rfl
@[simp] theorem State.setFld_twin (s : State) (f : Fld) (v : Nat) : (s.setFld f v).twin = s.twin := rfl

@[simp] theorem State.setSat_pending (s : State) (f : Fld) (v : Nat) : (s.setSat f v).pending = s.pending := rfl
@[simp] theorem State.setSat_log (s : State) (f : Fld) (v : Nat) : (s.setSat f v).log = s.log := rfl
@[simp] theorem State.setSat_timers (s : State) (f : Fld) (v : Nat) : (s.setSat f v).timers = s.timers := rfl
@[simp] theorem State.setSat_hostRead (s : State) (f : Fld) (v : Nat) : (s.setSat f v).hostRead = s.hostRead := rfl
@[simp] theorem State.setSat_fresh (s : State) (f : Fld) (v : Nat) : (s.setSat f v).fresh = s.fresh := rfl
@[simp] theorem State.setSat_glb (s : State) (f : Fld) (v : Nat) : (s.setSat f v).glb = s.glb := rfl
@[simp] theorem State.setSat_tim (s : State) (f : Fld) (v : Nat) : (s.setSat f v).tim = s.tim := rfl
@[simp] theorem State.setSat_links (s : State) (f : Fld) (v : Nat) : (s.setSat f v).links = s.links := rfl
@[simp] theorem State.setSat_linkc (s : State) (f : Fld) (v : Nat) : (s.setSat f v).linkc = s.linkc := rfl
@[simp] theorem State.setSat_ces (s : State) (f : Fld) (v : Nat) : (s.setSat f v).ces = s.ces := rfl
@[simp] theorem State.setSat_sh (s : State) (f : Fld) (v : Nat) : (s.setSat f v).sh = s.sh := rfl
@[simp] theorem State.setSat_veh (s : State) (f : Fld) (v : Nat) : (s.setSat f v).veh = s.veh := rfl
@[simp] theorem State.setSat_vehc (s : State) (f : Fld) (v : Nat) : (s.setSat f v).vehc = s.vehc := rfl
@[simp] theorem State.setSat_met (s : State) (f : Fld) (v : Nat) : (s.setSat f v).met = s.met := rfl
@[simp] theorem State.setSat_leg (s : State) (f : Fld) (v : Nat) : (s.setSat f v).leg = s.leg := rfl
@[simp] theorem State.setSat_isl (s : State) (f : Fld) (v : Nat) : (s.setSat f v).isl = s.isl := rfl
@[simp] theorem State.setSat_ps (s : State) (f : Fld) (v : Nat) : (s.setSat f v).ps = s.ps := rfl
@[simp] theorem State.setSat_pnl (s : State) (f : Fld) (v : Nat) : (s.setSat f v).pnl = s.pnl := rfl
@[simp] theorem State.setSat_nfc (s : State) (f : Fld) (v : Nat) : (s.setSat f v).nfc = s.nfc := rfl
@[simp] theorem State.setSat_tag (s : State) (f : Fld) (v : Nat) : (s.setSat f v).tag = s.tag := rfl
@[simp] theorem State.setSat_ml (s : State) (f : Fld) (v : Nat) : (s.setSat f v).ml = s.ml := rfl
@[simp] theorem State.setSat_host (s : State) (f : Fld) (v : Nat) : (s.setSat f v).host = s.host := rfl
@[simp] theorem State.setSat_keys (s : State) (f : Fld) (v : Nat) : (s.setSat f v).keys = s.keys := rfl
@[simp] theorem State.setSat_mem (s : State) (f : Fld) (v : Nat) : (s.setSat f v).mem = s.mem := rfl
@[simp] theorem State.setSat_sys (s : State) (f : Fld) (v : Nat) : (s.setSat f v).sys = s.sys := rfl
@[simp] theorem State.setSat_twin (s : State) (f : Fld) (v : Nat) : (s.setSat f v).twin = s.twin := rfl

@[simp] theorem State.setFldS_pending (s : State) (f : Fld) (v : Int) : (s.setFldS f v).pending = s.pending := rfl
@[simp] theorem State.setFldS_log (s : State) (f : Fld) (v : Int) : (s.setFldS f v).log = s.log := rfl
@[simp] theorem State.setFldS_timers (s : State) (f : Fld) (v : Int) : (s.setFldS f v).timers = s.timers := rfl
@[simp] theorem State.setFldS_hostRead (s : State) (f : Fld) (v : Int) : (s.setFldS f v).hostRead = s.hostRead := rfl
@[simp] theorem State.setFldS_fresh (s : State) (f : Fld) (v : Int) : (s.setFldS f v).fresh = s.fresh := rfl
@[simp] theorem State.setFldS_glb (s : State) (f : Fld) (v : Int) : (s.setFldS f v).glb = s.glb := rfl
@[simp] theorem State.setFldS_tim (s : State) (f : Fld) (v : Int) : (s.setFldS f v).tim = s.tim := rfl
@[simp] theorem State.setFldS_links (s : State) (f : Fld) (v : Int) : (s.setFldS f v).links = s.links := rfl
@[simp] theorem State.setFldS_linkc (s : State) (f : Fld) (v : Int) : (s.setFldS f v).linkc = s.linkc := rfl
@[simp] theorem State.setFldS_ces (s : State) (f : Fld) (v : Int) : (s.setFldS f v).ces = s.ces := rfl
@[simp] theorem State.setFldS_sh (s : State) (f : Fld) (v : Int) : (s.setFldS f v).sh = s.sh := rfl
@[simp] theorem State.setFldS_veh (s : State) (f : Fld) (v : Int) : (s.setFldS f v).veh = s.veh := rfl
@[simp] theorem State.setFldS_vehc (s : State) (f : Fld) (v : Int) : (s.setFldS f v).vehc = s.vehc := rfl
@[simp] theorem State.setFldS_met (s : State) (f : Fld) (v : Int) : (s.setFldS f v).met = s.met := rfl
@[simp] theorem State.setFldS_leg (s : State) (f : Fld) (v : Int) : (s.setFldS f v).leg = s.leg := rfl
@[simp] theorem State.setFldS_isl (s : State) (f : Fld) (v : Int) : (s.setFldS f v).isl = s.isl := rfl
@[simp] theorem State.setFldS_ps (s : State) (f : Fld) (v : Int) : (s.setFldS f v).ps = s.ps := rfl
@[simp] theorem State.setFldS_pnl (s : State) (f : Fld) (v : Int) : (s.setFldS f v).pnl = s.pnl := rfl
@[simp] theorem State.setFldS_nfc (s : State) (f : Fld) (v : Int) : (s.setFldS f v).nfc = s.nfc := rfl
@[simp] theorem State.setFldS_tag (s : State) (f : Fld) (v : Int) : (s.setFldS f v).tag = s.tag := rfl
@[simp] theorem State.setFldS_ml (s : State) (f : Fld) (v : Int) : (s.setFldS f v).ml = s.ml := rfl
@[simp] theorem State.setFldS_host (s : State) (f : Fld) (v : Int) : (s.setFldS f v).host = s.host := rfl
@[simp] theorem State.setFldS_keys (s : State) (f : Fld) (v : Int) : (s.setFldS f v).keys = s.keys := rfl
@[simp] theorem State.setFldS_mem (s : State) (f : Fld) (v : Int) : (s.setFldS f v).mem = s.mem := rfl
@[simp] theorem State.setFldS_sys (s : State) (f : Fld) (v : Int) : (s.setFldS f v).sys = s.sys := rfl
@[simp] theorem State.setFldS_twin (s : State) (f : Fld) (v : Int) : (s.setFldS f v).twin = s.twin := rfl

@[simp] theorem State.setFlag_pending (s : State) (f : Fld) (b : Bool) : (s.setFlag f b).pending = s.pending := rfl
@[simp] theorem State.setFlag_log (s : State) (f : Fld) (b : Bool) : (s.setFlag f b).log = s.log := rfl
@[simp] theorem State.setFlag_timers (s : State) (f : Fld) (b : Bool) : (s.setFlag f b).timers = s.timers := rfl
@[simp] theorem State.setFlag_hostRead (s : State) (f : Fld) (b : Bool) : (s.setFlag f b).hostRead = s.hostRead := rfl
@[simp] theorem State.setFlag_fresh (s : State) (f : Fld) (b : Bool) : (s.setFlag f b).fresh = s.fresh := rfl
@[simp] theorem State.setFlag_glb (s : State) (f : Fld) (b : Bool) : (s.setFlag f b).glb = s.glb := rfl
@[simp] theorem State.setFlag_tim (s : State) (f : Fld) (b : Bool) : (s.setFlag f b).tim = s.tim := rfl
@[simp] theorem State.setFlag_links (s : State) (f : Fld) (b : Bool) : (s.setFlag f b).links = s.links := rfl
@[simp] theorem State.setFlag_linkc (s : State) (f : Fld) (b : Bool) : (s.setFlag f b).linkc = s.linkc := rfl
@[simp] theorem State.setFlag_ces (s : State) (f : Fld) (b : Bool) : (s.setFlag f b).ces = s.ces := rfl
@[simp] theorem State.setFlag_sh (s : State) (f : Fld) (b : Bool) : (s.setFlag f b).sh = s.sh := rfl
@[simp] theorem State.setFlag_veh (s : State) (f : Fld) (b : Bool) : (s.setFlag f b).veh = s.veh := rfl
@[simp] theorem State.setFlag_vehc (s : State) (f : Fld) (b : Bool) : (s.setFlag f b).vehc = s.vehc := rfl
@[simp] theorem State.setFlag_met (s : State) (f : Fld) (b : Bool) : (s.setFlag f b).met = s.met := rfl
@[simp] theorem State.setFlag_leg (s : State) (f : Fld) (b : Bool) : (s.setFlag f b).leg = s.leg := rfl
@[simp] theorem State.setFlag_isl (s : State) (f : Fld) (b : Bool) : (s.setFlag f b).isl = s.isl := rfl
@[simp] theorem State.setFlag_ps (s : State) (f : Fld) (b : Bool) : (s.setFlag f b).ps = s.ps := rfl
@[simp] theorem State.setFlag_pnl (s : State) (f : Fld) (b : Bool) : (s.setFlag f b).pnl = s.pnl := rfl
@[simp] theorem State.setFlag_nfc (s : State) (f : Fld) (b : Bool) : (s.setFlag f b).nfc = s.nfc := rfl
@[simp] theorem State.setFlag_tag (s : State) (f : Fld) (b : Bool) : (s.setFlag f b).tag = s.tag := rfl
@[simp] theorem State.setFlag_ml (s : State) (f : Fld) (b : Bool) : (s.setFlag f b).ml = s.ml := rfl
@[simp] theorem State.setFlag_host (s : State) (f : Fld) (b : Bool) : (s.setFlag f b).host = s.host := rfl
@[simp] theorem State.setFlag_keys (s : State) (f : Fld) (b : Bool) : (s.setFlag f b).keys = s.keys := rfl
@[simp] theorem State.setFlag_mem (s : State) (f : Fld) (b : Bool) : (s.setFlag f b).mem = s.mem := rfl
@[simp] theorem State.setFlag_sys (s : State) (f : Fld) (b : Bool) : (s.setFlag f b).sys = s.sys := rfl
@[simp] theorem State.setFlag_twin (s : State) (f : Fld) (b : Bool) : (s.setFlag f b).twin = s.twin := rfl

@[simp] theorem State.inc_pending (s : State) (f : Fld) : (s.inc f).pending = s.pending := rfl
@[simp] theorem State.inc_log (s : State) (f : Fld) : (s.inc f).log = s.log := rfl
@[simp] theorem State.inc_timers (s : State) (f : Fld) : (s.inc f).timers = s.timers := rfl
@[simp] theorem State.inc_hostRead (s : State) (f : Fld) : (s.inc f).hostRead = s.hostRead := rfl
@[simp] theorem State.inc_fresh (s : State) (f : Fld) : (s.inc f).fresh = s.fresh := rfl
@[simp] theorem State.inc_glb (s : State) (f : Fld) : (s.inc f).glb = s.glb := rfl
@[simp] theorem State.inc_tim (s : State) (f : Fld) : (s.inc f).tim = s.tim := rfl
@[simp] theorem State.inc_links (s : State) (f : Fld) : (s.inc f).links = s.links := rfl
@[simp] theorem State.inc_linkc (s : State) (f : Fld) : (s.inc f).linkc = s.linkc := rfl
@[simp] theorem State.inc_ces (s : State) (f : Fld) : (s.inc f).ces = s.ces := rfl
@[simp] theorem State.inc_sh (s : State) (f : Fld) : (s.inc f).sh = s.sh := rfl
@[simp] theorem State.inc_veh (s : State) (f : Fld) : (s.inc f).veh = s.veh := rfl
@[simp] theorem State.inc_vehc (s : State) (f : Fld) : (s.inc f).vehc = s.vehc := rfl
@[simp] theorem State.inc_met (s : State) (f : Fld) : (s.inc f).met = s.met := rfl
@[simp] theorem State.inc_leg (s : State) (f : Fld) : (s.inc f).leg = s.leg := rfl
@[simp] theorem State.inc_isl (s : State) (f : Fld) : (s.inc f).isl = s.isl := rfl
@[simp] theorem State.inc_ps (s : State) (f : Fld) : (s.inc f).ps = s.ps := rfl
@[simp] theorem State.inc_pnl (s : State) (f : Fld) : (s.inc f).pnl = s.pnl := rfl
@[simp] theorem State.inc_nfc (s : State) (f : Fld) : (s.inc f).nfc = s.nfc := rfl
@[simp] theorem State.inc_tag (s : State) (f : Fld) : (s.inc f).tag = s.tag := rfl
@[simp] theorem State.inc_ml (s : State) (f : Fld) : (s.inc f).ml = s.ml := rfl
@[simp] theorem State.inc_host (s : State) (f : Fld) : (s.inc f).host = s.host := rfl
@[simp] theorem State.inc_keys (s : State) (f : Fld) : (s.inc f).keys = s.keys := rfl
@[simp] theorem State.inc_mem (s : State) (f : Fld) : (s.inc f).mem = s.mem := rfl
@[simp] theorem State.inc_sys (s : State) (f : Fld) : (s.inc f).sys = s.sys := rfl
@[simp] theorem State.inc_twin (s : State) (f : Fld) : (s.inc f).twin = s.twin := rfl

@[simp] theorem State.logEvent_pending (s : State) (c : Nat) (d : List Nat) : (s.logEvent c d).pending = s.pending := rfl
@[simp] theorem State.logEvent_regs (s : State) (c : Nat) (d : List Nat) : (s.logEvent c d).regs = s.regs := rfl
@[simp] theorem State.logEvent_log (s : State) (c : Nat) (d : List Nat) : (s.logEvent c d).log = s.newEvent c d :: s.log := rfl
@[simp] theorem State.logEvent_timers (s : State) (c : Nat) (d : List Nat) : (s.logEvent c d).timers = s.timers := rfl
@[simp] theorem State.logEvent_hostRead (s : State) (c : Nat) (d : List Nat) : (s.logEvent c d).hostRead = s.hostRead := rfl
@[simp] theorem State.logEvent_fresh (s : State) (c : Nat) (d : List Nat) : (s.logEvent c d).fresh = s.fresh := rfl
@[simp] theorem State.logEvent_glb (s : State) (c : Nat) (d : List Nat) : (s.logEvent c d).glb = s.glb := rfl
@[simp] theorem State.logEvent_tim (s : State) (c : Nat) (d : List Nat) : (s.logEvent c d).tim = s.tim := rfl
@[simp] theorem State.logEvent_links (s : State) (c : Nat) (d : List Nat) : (s.logEvent c d).links = s.links := rfl
@[simp] theorem State.logEvent_linkc (s : State) (c : Nat) (d : List Nat) : (s.logEvent c d).linkc = s.linkc := rfl
@[simp] theorem State.logEvent_ces (s : State) (c : Nat) (d : List Nat) : (s.logEvent c d).ces = s.ces := rfl
@[simp] theorem State.logEvent_sh (s : State) (c : Nat) (d : List Nat) : (s.logEvent c d).sh = s.sh := rfl
@[simp] theorem State.logEvent_veh (s : State) (c : Nat) (d : List Nat) : (s.logEvent c d).veh = s.veh := rfl
@[simp] theorem State.logEvent_vehc (s : State) (c : Nat) (d : List Nat) : (s.logEvent c d).vehc = s.vehc := rfl
@[simp] theorem State.logEvent_met (s : State) (c : Nat) (d : List Nat) : (s.logEvent c d).met = s.met := rfl
@[simp] theorem State.logEvent_leg (s : State) (c : Nat) (d : List Nat) : (s.logEvent c d).leg = s.leg := rfl
@[simp] theorem State.logEvent_isl (s : State) (c : Nat) (d : List Nat) : (s.logEvent c d).isl = s.isl := rfl
@[simp] theorem State.logEvent_ps (s : State) (c : Nat) (d : List Nat) : (s.logEvent c d).ps = s.ps := rfl
@[simp] theorem State.logEvent_pnl (s : State) (c : Nat) (d : List Nat) : (s.logEvent c d).pnl = s.pnl := rfl
@[simp] theorem State.logEvent_nfc (s : State) (c : Nat) (d : List Nat) : (s.logEvent c d).nfc = s.nfc := rfl
@[simp] theorem State.logEvent_tag (s : State) (c : Nat) (d : List Nat) : (s.logEvent c d).tag = s.tag := rfl
@[simp] theorem State.logEvent_ml (s : State) (c : Nat) (d : List Nat) : (s.logEvent c d).ml = s.ml := rfl
@[simp] theorem State.logEvent_host (s : State) (c : Nat) (d : List Nat) : (s.logEvent c d).host = s.host := rfl
@[simp] theorem State.logEvent_keys (s : State) (c : Nat) (d : List Nat) : (s.logEvent c d).keys = s.keys := rfl
@[simp] theorem State.logEvent_mem (s : State) (c : Nat) (d : List Nat) : (s.logEvent c d).mem = s.mem := rfl
@[simp] theorem State.logEvent_sys (s : State) (c : Nat) (d : List Nat) : (s.logEvent c d).sys = s.sys := rfl
@[simp] theorem State.logEvent_twin (s : State) (c : Nat) (d : List Nat) : (s.logEvent c d).twin = s.twin := rfl
@[simp] theorem State.logEvent_reg (s : State) (c : Nat) (d : List Nat) (o : Nat) : (s.logEvent c d).reg o = s.reg o := rfl
@[simp] theorem State.logEvent_fld (s : State) (c : Nat) (d : List Nat) (g : Fld) : (s.logEvent c d).fld g = s.fld g := rfl
@[simp] theorem State.logEvent_flag (s : State) (c : Nat) (d : List Nat) (g : Fld) : (s.logEvent c d).flag g = s.flag g := rfl

@[simp] theorem State.startTimer_pending (s : State) (t : Timer) : (s.startTimer t).pending = s.pending := rfl
@[simp] theorem State.startTimer_regs (s : State) (t : Timer) : (s.startTimer t).regs = s.regs := rfl
@[simp] theorem State.startTimer_log (s : State) (t : Timer) : (s.startTimer t).log = s.log := rfl
@[simp] theorem State.startTimer_timers (s : State) (t : Timer) : (s.startTimer t).timers = s.timers.filter (fun p => !(p.1 == t)) ++ [(t, 0)] := rfl
@[simp] theorem State.startTimer_hostRead (s : State) (t : Timer) : (s.startTimer t).hostRead = s.hostRead := rfl
@[simp] theorem State.startTimer_fresh (s : State) (t : Timer) : (s.startTimer t).fresh = s.fresh := rfl
@[simp] theorem State.startTimer_glb (s : State) (t : Timer) : (s.startTimer t).glb = s.glb := rfl
@[simp] theorem State.startTimer_tim (s : State) (t : Timer) : (s.startTimer t).tim = s.tim := rfl
@[simp] theorem State.startTimer_links (s : State) (t : Timer) : (s.startTimer t).links = s.links := rfl
@[simp] theorem State.startTimer_linkc (s : State) (t : Timer) : (s.startTimer t).linkc = s.linkc := rfl
@[simp] theorem State.startTimer_ces (s : State) (t : Timer) : (s.startTimer t).ces = s.ces := rfl
@[simp] theorem State.startTimer_sh (s : State) (t : Timer) : (s.startTimer t).sh = s.sh := rfl
@[simp] theorem State.startTimer_veh (s : State) (t : Timer) : (s.startTimer t).veh = s.veh := rfl
@[simp] theorem State.startTimer_vehc (s : State) (t : Timer) : (s.startTimer t).vehc = s.vehc := rfl
@[simp] theorem State.startTimer_met (s : State) (t : Timer) : (s.startTimer t).met = s.met := rfl
@[simp] theorem State.startTimer_leg (s : State) (t : Timer) : (s.startTimer t).leg = s.leg := rfl
@[simp] theorem State.startTimer_isl (s : State) (t : Timer) : (s.startTimer t).isl = s.isl := rfl
@[simp] theorem State.startTimer_ps (s : State) (t : Timer) : (s.startTimer t).ps = s.ps := rfl
@[simp] theorem State.startTimer_pnl (s : State) (t : Timer) : (s.startTimer t).pnl = s.pnl := rfl
@[simp] theorem State.startTimer_nfc (s : State) (t : Timer) : (s.startTimer t).nfc = s.nfc := rfl
@[simp] theorem State.startTimer_tag (s : State) (t : Timer) : (s.startTimer t).tag = s.tag := rfl
@[simp] theorem State.startTimer_ml (s : State) (t : Timer) : (s.startTimer t).ml = s.ml := rfl
@[simp] theorem State.startTimer_host (s : State) (t : Timer) : (s.startTimer t).host = s.host := rfl
@[simp] theorem State.startTimer_keys (s : State) (t : Timer) : (s.startTimer t).keys = s.keys := rfl
@[simp] theorem State.startTimer_mem (s : State) (t : Timer) : (s.startTimer t).mem = s.mem := rfl
@[simp] theorem State.startTimer_sys (s : State) (t : Timer) : (s.startTimer t).sys = s.sys := rfl
@[simp] theorem State.startTimer_twin (s : State) (t : Timer) : (s.startTimer t).twin = s.twin := rfl
@[simp] theorem State.startTimer_reg (s : State) (t : Timer) (o : Nat) : (s.startTimer t).reg o = s.reg o := rfl
@[simp] theorem State.startTimer_fld (s : State) (t : Timer) (g : Fld) : (s.startTimer t).fld g = s.fld g := rfl
@[simp] theorem State.startTimer_flag (s : State) (t : Timer) (g : Fld) : (s.startTimer t).flag g = s.flag g := rfl
@[simp] theorem State.setTimer_pending (s : State) (t : Timer) (n : Nat) : (s.setTimer t n).pending = s.pending := rfl
@[simp] theorem State.setTimer_regs (s : State) (t : Timer) (n : Nat) : (s.setTimer t n).regs = s.regs := rfl
@[simp] theorem State.setTimer_log (s : State) (t : Timer) (n : Nat) : (s.setTimer t n).log = s.log := rfl
@[simp] theorem State.setTimer_timers (s : State) (t : Timer) (n : Nat) : (s.setTimer t n).timers = s.timers.filter (fun p => !(p.1 == t)) ++ [(t, n)] := rfl
@[simp] theorem State.setTimer_hostRead (s : State) (t : Timer) (n : Nat) : (s.setTimer t n).hostRead = s.hostRead := rfl
@[simp] theorem State.setTimer_fresh (s : State) (t : Timer) (n : Nat) : (s.setTimer t n).fresh = s.fresh := rfl
@[simp] theorem State.setTimer_glb (s : State) (t : Timer) (n : Nat) : (s.setTimer t n).glb = s.glb := rfl
@[simp] theorem State.setTimer_tim (s : State) (t : Timer) (n : Nat) : (s.setTimer t n).tim = s.tim := rfl
@[simp] theorem State.setTimer_links (s : State) (t : Timer) (n : Nat) : (s.setTimer t n).links = s.links := rfl
@[simp] theorem State.setTimer_linkc (s : State) (t : Timer) (n : Nat) : (s.setTimer t n).linkc = s.linkc := rfl
@[simp] theorem State.setTimer_ces (s : State) (t : Timer) (n : Nat) : (s.setTimer t n).ces = s.ces := rfl
@[simp] theorem State.setTimer_sh (s : State) (t : Timer) (n : Nat) : (s.setTimer t n).sh = s.sh := rfl
@[simp] theorem State.setTimer_veh (s : State) (t : Timer) (n : Nat) : (s.setTimer t n).veh = s.veh := rfl
@[simp] theorem State.setTimer_vehc (s : State) (t : Timer) (n : Nat) : (s.setTimer t n).vehc = s.vehc := rfl
@[simp] theorem State.setTimer_met (s : State) (t : Timer) (n : Nat) : (s.setTimer t n).met = s.met := rfl
@[simp] theorem State.setTimer_leg (s : State) (t : Timer) (n : Nat) : (s.setTimer t n).leg = s.leg := rfl
@[simp] theorem State.setTimer_isl (s : State) (t : Timer) (n : Nat) : (s.setTimer t n).isl = s.isl := rfl
@[simp] theorem State.setTimer_ps (s : State) (t : Timer) (n : Nat) : (s.setTimer t n).ps = s.ps := rfl
@[simp] theorem State.setTimer_pnl (s : State) (t : Timer) (n : Nat) : (s.setTimer t n).pnl = s.pnl := rfl
@[simp] theorem State.setTimer_nfc (s : State) (t : Timer) (n : Nat) : (s.setTimer t n).nfc = s.nfc := rfl
@[simp] theorem State.setTimer_tag (s : State) (t : Timer) (n : Nat) : (s.setTimer t n).tag = s.tag := rfl
@[simp] theorem State.setTimer_ml (s : State) (t : Timer) (n : Nat) : (s.setTimer t n).ml = s.ml := rfl
@[simp] theorem State.setTimer_host (s : State) (t : Timer) (n : Nat) : (s.setTimer t n).host = s.host := rfl
@[simp] theorem State.setTimer_keys (s : State) (t : Timer) (n : Nat) : (s.setTimer t n).keys = s.keys := rfl
@[simp] theorem State.setTimer_mem (s : State) (t : Timer) (n : Nat) : (s.setTimer t n).mem = s.mem := rfl
@[simp] theorem State.setTimer_sys (s : State) (t : Timer) (n : Nat) : (s.setTimer t n).sys = s.sys := rfl
@[simp] theorem State.setTimer_twin (s : State) (t : Timer) (n : Nat) : (s.setTimer t n).twin = s.twin := rfl
@[simp] theorem State.setTimer_reg (s : State) (t : Timer) (o : Nat) : (s.setTimer t n).reg o = s.reg o := rfl
@[simp] theorem State.setTimer_fld (s : State) (t : Timer) (g : Fld) : (s.setTimer t n).fld g = s.fld g := rfl
@[simp] theorem State.setTimer_flag (s : State) (t : Timer) (g : Fld) : (s.setTimer t n).flag g = s.flag g := rfl

@[simp] theorem State.stopTimer_pending (s : State) (t : Timer) : (s.stopTimer t).pending = s.pending := rfl
@[simp] theorem State.stopTimer_regs (s : State) (t : Timer) : (s.stopTimer t).regs = s.regs := rfl
@[simp] theorem State.stopTimer_log (s : State) (t : Timer) : (s.stopTimer t).log = s.log := rfl
@[simp] theorem State.stopTimer_timers (s : State) (t : Timer) : (s.stopTimer t).timers = s.timers.filter fun p => !(p.1 == t) := rfl
@[simp] theorem State.stopTimer_hostRead (s : State) (t : Timer) : (s.stopTimer t).hostRead = s.hostRead := rfl
@[simp] theorem State.stopTimer_fresh (s : State) (t : Timer) : (s.stopTimer t).fresh = s.fresh := rfl
@[simp] theorem State.stopTimer_glb (s : State) (t : Timer) : (s.stopTimer t).glb = s.glb := rfl
@[simp] theorem State.stopTimer_tim (s : State) (t : Timer) : (s.stopTimer t).tim = s.tim := rfl
@[simp] theorem State.stopTimer_links (s : State) (t : Timer) : (s.stopTimer t).links = s.links := rfl
@[simp] theorem State.stopTimer_linkc (s : State) (t : Timer) : (s.stopTimer t).linkc = s.linkc := rfl
@[simp] theorem State.stopTimer_ces (s : State) (t : Timer) : (s.stopTimer t).ces = s.ces := rfl
@[simp] theorem State.stopTimer_sh (s : State) (t : Timer) : (s.stopTimer t).sh = s.sh := rfl
@[simp] theorem State.stopTimer_veh (s : State) (t : Timer) : (s.stopTimer t).veh = s.veh := rfl
@[simp] theorem State.stopTimer_vehc (s : State) (t : Timer) : (s.stopTimer t).vehc = s.vehc := rfl
@[simp] theorem State.stopTimer_met (s : State) (t : Timer) : (s.stopTimer t).met = s.met := rfl
@[simp] theorem State.stopTimer_leg (s : State) (t : Timer) : (s.stopTimer t).leg = s.leg := rfl
@[simp] theorem State.stopTimer_isl (s : State) (t : Timer) : (s.stopTimer t).isl = s.isl := rfl
@[simp] theorem State.stopTimer_ps (s : State) (t : Timer) : (s.stopTimer t).ps = s.ps := rfl
@[simp] theorem State.stopTimer_pnl (s : State) (t : Timer) : (s.stopTimer t).pnl = s.pnl := rfl
@[simp] theorem State.stopTimer_nfc (s : State) (t : Timer) : (s.stopTimer t).nfc = s.nfc := rfl
@[simp] theorem State.stopTimer_tag (s : State) (t : Timer) : (s.stopTimer t).tag = s.tag := rfl
@[simp] theorem State.stopTimer_ml (s : State) (t : Timer) : (s.stopTimer t).ml = s.ml := rfl
@[simp] theorem State.stopTimer_host (s : State) (t : Timer) : (s.stopTimer t).host = s.host := rfl
@[simp] theorem State.stopTimer_keys (s : State) (t : Timer) : (s.stopTimer t).keys = s.keys := rfl
@[simp] theorem State.stopTimer_mem (s : State) (t : Timer) : (s.stopTimer t).mem = s.mem := rfl
@[simp] theorem State.stopTimer_sys (s : State) (t : Timer) : (s.stopTimer t).sys = s.sys := rfl
@[simp] theorem State.stopTimer_twin (s : State) (t : Timer) : (s.stopTimer t).twin = s.twin := rfl
@[simp] theorem State.stopTimer_reg (s : State) (t : Timer) (o : Nat) : (s.stopTimer t).reg o = s.reg o := rfl
@[simp] theorem State.stopTimer_fld (s : State) (t : Timer) (g : Fld) : (s.stopTimer t).fld g = s.fld g := rfl
@[simp] theorem State.stopTimer_flag (s : State) (t : Timer) (g : Fld) : (s.stopTimer t).flag g = s.flag g := rfl

@[simp] theorem State.draw_pending (s : State)  : (s.draw.2).pending = s.pending := rfl
@[simp] theorem State.draw_regs (s : State)  : (s.draw.2).regs = s.regs := rfl
@[simp] theorem State.draw_log (s : State)  : (s.draw.2).log = s.log := rfl
@[simp] theorem State.draw_timers (s : State)  : (s.draw.2).timers = s.timers := rfl
@[simp] theorem State.draw_hostRead (s : State)  : (s.draw.2).hostRead = s.hostRead := rfl
@[simp] theorem State.draw_fresh (s : State)  : (s.draw.2).fresh = s.fresh + 1 := rfl
@[simp] theorem State.draw_glb (s : State)  : (s.draw.2).glb = s.glb := rfl
@[simp] theorem State.draw_tim (s : State)  : (s.draw.2).tim = s.tim := rfl
@[simp] theorem State.draw_links (s : State)  : (s.draw.2).links = s.links := rfl
@[simp] theorem State.draw_linkc (s : State)  : (s.draw.2).linkc = s.linkc := rfl
@[simp] theorem State.draw_ces (s : State)  : (s.draw.2).ces = s.ces := rfl
@[simp] theorem State.draw_sh (s : State)  : (s.draw.2).sh = s.sh := rfl
@[simp] theorem State.draw_veh (s : State)  : (s.draw.2).veh = s.veh := rfl
@[simp] theorem State.draw_vehc (s : State)  : (s.draw.2).vehc = s.vehc := rfl
@[simp] theorem State.draw_met (s : State)  : (s.draw.2).met = s.met := rfl
@[simp] theorem State.draw_leg (s : State)  : (s.draw.2).leg = s.leg := rfl
@[simp] theorem State.draw_isl (s : State)  : (s.draw.2).isl = s.isl := rfl
@[simp] theorem State.draw_ps (s : State)  : (s.draw.2).ps = s.ps := rfl
@[simp] theorem State.draw_pnl (s : State)  : (s.draw.2).pnl = s.pnl := rfl
@[simp] theorem State.draw_nfc (s : State)  : (s.draw.2).nfc = s.nfc := rfl
@[simp] theorem State.draw_tag (s : State)  : (s.draw.2).tag = s.tag := rfl
@[simp] theorem State.draw_ml (s : State)  : (s.draw.2).ml = s.ml := rfl
@[simp] theorem State.draw_host (s : State)  : (s.draw.2).host = s.host := rfl
@[simp] theorem State.draw_keys (s : State)  : (s.draw.2).keys = s.keys := rfl
@[simp] theorem State.draw_mem (s : State)  : (s.draw.2).mem = s.mem := rfl
@[simp] theorem State.draw_sys (s : State)  : (s.draw.2).sys = s.sys := rfl
@[simp] theorem State.draw_twin (s : State)  : (s.draw.2).twin = s.twin := rfl
@[simp] theorem State.draw_reg (s : State)  (o : Nat) : (s.draw.2).reg o = s.reg o := rfl
@[simp] theorem State.draw_fld (s : State)  (g : Fld) : (s.draw.2).fld g = s.fld g := rfl
@[simp] theorem State.draw_flag (s : State)  (g : Fld) : (s.draw.2).flag g = s.flag g := rfl

@[simp] theorem State.withQueue_pending (s : State) (q : List Instr) : (s.withQueue q).pending = q := rfl
@[simp] theorem State.withQueue_regs (s : State) (q : List Instr) : (s.withQueue q).regs = s.regs := rfl
@[simp] theorem State.withQueue_log (s : State) (q : List Instr) : (s.withQueue q).log = s.log := rfl
@[simp] theorem State.withQueue_timers (s : State) (q : List Instr) : (s.withQueue q).timers = s.timers := rfl
@[simp] theorem State.withQueue_hostRead (s : State) (q : List Instr) : (s.withQueue q).hostRead = s.hostRead := rfl
@[simp] theorem State.withQueue_fresh (s : State) (q : List Instr) : (s.withQueue q).fresh = s.fresh := rfl
@[simp] theorem State.withQueue_glb (s : State) (q : List Instr) : (s.withQueue q).glb = s.glb := rfl
@[simp] theorem State.withQueue_tim (s : State) (q : List Instr) : (s.withQueue q).tim = s.tim := rfl
@[simp] theorem State.withQueue_links (s : State) (q : List Instr) : (s.withQueue q).links = s.links := rfl
@[simp] theorem State.withQueue_linkc (s : State) (q : List Instr) : (s.withQueue q).linkc = s.linkc := rfl
@[simp] theorem State.withQueue_ces (s : State) (q : List Instr) : (s.withQueue q).ces = s.ces := rfl
@[simp] theorem State.withQueue_sh (s : State) (q : List Instr) : (s.withQueue q).sh = s.sh := rfl
@[simp] theorem State.withQueue_veh (s : State) (q : List Instr) : (s.withQueue q).veh = s.veh := rfl
@[simp] theorem State.withQueue_vehc (s : State) (q : List Instr) : (s.withQueue q).vehc = s.vehc := rfl
@[simp] theorem State.withQueue_met (s : State) (q : List Instr) : (s.withQueue q).met = s.met := rfl
@[simp] theorem State.withQueue_leg (s : State) (q : List Instr) : (s.withQueue q).leg = s.leg := rfl
@[simp] theorem State.withQueue_isl (s : State) (q : List Instr) : (s.withQueue q).isl = s.isl := rfl
@[simp] theorem State.withQueue_ps (s : State) (q : List Instr) : (s.withQueue q).ps = s.ps := rfl
@[simp] theorem State.withQueue_pnl (s : State) (q : List Instr) : (s.withQueue q).pnl = s.pnl := rfl
@[simp] theorem State.withQueue_nfc (s : State) (q : List Instr) : (s.withQueue q).nfc = s.nfc := rfl
@[simp] theorem State.withQueue_tag (s : State) (q : List Instr) : (s.withQueue q).tag = s.tag := rfl
@[simp] theorem State.withQueue_ml (s : State) (q : List Instr) : (s.withQueue q).ml = s.ml := rfl
@[simp] theorem State.withQueue_host (s : State) (q : List Instr) : (s.withQueue q).host = s.host := rfl
@[simp] theorem State.withQueue_keys (s : State) (q : List Instr) : (s.withQueue q).keys = s.keys := rfl
@[simp] theorem State.withQueue_mem (s : State) (q : List Instr) : (s.withQueue q).mem = s.mem := rfl
@[simp] theorem State.withQueue_sys (s : State) (q : List Instr) : (s.withQueue q).sys = s.sys := rfl
@[simp] theorem State.withQueue_twin (s : State) (q : List Instr) : (s.withQueue q).twin = s.twin := rfl
@[simp] theorem State.withQueue_reg (s : State) (q : List Instr) (o : Nat) : (s.withQueue q).reg o = s.reg o := rfl
@[simp] theorem State.withQueue_fld (s : State) (q : List Instr) (g : Fld) : (s.withQueue q).fld g = s.fld g := rfl
@[simp] theorem State.withQueue_flag (s : State) (q : List Instr) (g : Fld) : (s.withQueue q).flag g = s.flag g := rfl

@[simp] theorem State.updGlb_pending (s : State) (f : GlbSt → GlbSt) : (s.updGlb f).pending = s.pending := rfl
@[simp] theorem State.updGlb_regs (s : State) (f : GlbSt → GlbSt) : (s.updGlb f).regs = s.regs := rfl
@[simp] theorem State.updGlb_log (s : State) (f : GlbSt → GlbSt) : (s.updGlb f).log = s.log := rfl
@[simp] theorem State.updGlb_timers (s : State) (f : GlbSt → GlbSt) : (s.updGlb f).timers = s.timers := rfl
@[simp] theorem State.updGlb_hostRead (s : State) (f : GlbSt → GlbSt) : (s.updGlb f).hostRead = s.hostRead := rfl
@[simp] theorem State.updGlb_fresh (s : State) (f : GlbSt → GlbSt) : (s.updGlb f).fresh = s.fresh := rfl
@[simp] theorem State.updGlb_glb (s : State) (f : GlbSt → GlbSt) : (s.updGlb f).glb = f s.glb := rfl
@[simp] theorem State.updGlb_tim (s : State) (f : GlbSt → GlbSt) : (s.updGlb f).tim = s.tim := rfl
@[simp] theorem State.updGlb_links (s : State) (f : GlbSt → GlbSt) : (s.updGlb f).links = s.links := rfl
@[simp] theorem State.updGlb_linkc (s : State) (f : GlbSt → GlbSt) : (s.updGlb f).linkc = s.linkc := rfl
@[simp] theorem State.updGlb_ces (s : State) (f : GlbSt → GlbSt) : (s.updGlb f).ces = s.ces := rfl
@[simp] theorem State.updGlb_sh (s : State) (f : GlbSt → GlbSt) : (s.updGlb f).sh = s.sh := rfl
@[simp] theorem State.updGlb_veh (s : State) (f : GlbSt → GlbSt) : (s.updGlb f).veh = s.veh := rfl
@[simp] theorem State.updGlb_vehc (s : State) (f : GlbSt → GlbSt) : (s.updGlb f).vehc = s.vehc := rfl
@[simp] theorem State.updGlb_met (s : State) (f : GlbSt → GlbSt) : (s.updGlb f).met = s.met := rfl
@[simp] theorem State.updGlb_leg (s : State) (f : GlbSt → GlbSt) : (s.updGlb f).leg = s.leg := rfl
@[simp] theorem State.updGlb_isl (s : State) (f : GlbSt → GlbSt) : (s.updGlb f).isl = s.isl := rfl
@[simp] theorem State.updGlb_ps (s : State) (f : GlbSt → GlbSt) : (s.updGlb f).ps = s.ps := rfl
@[simp] theorem State.updGlb_pnl (s : State) (f : GlbSt → GlbSt) : (s.updGlb f).pnl = s.pnl := rfl
@[simp] theorem State.updGlb_nfc (s : State) (f : GlbSt → GlbSt) : (s.updGlb f).nfc = s.nfc := rfl
@[simp] theorem State.updGlb_tag (s : State) (f : GlbSt → GlbSt) : (s.updGlb f).tag = s.tag := rfl
@[simp] theorem State.updGlb_ml (s : State) (f : GlbSt → GlbSt) : (s.updGlb f).ml = s.ml := rfl
@[simp] theorem State.updGlb_host (s : State) (f : GlbSt → GlbSt) : (s.updGlb f).host = s.host := rfl
@[simp] theorem State.updGlb_keys (s : State) (f : GlbSt → GlbSt) : (s.updGlb f).keys = s.keys := rfl
@[simp] theorem State.updGlb_mem (s : State) (f : GlbSt → GlbSt) : (s.updGlb f).mem = s.mem := rfl
@[simp] theorem State.updGlb_sys (s : State) (f : GlbSt → GlbSt) : (s.updGlb f).sys = s.sys := rfl
@[simp] theorem State.updGlb_twin (s : State) (f : GlbSt → GlbSt) : (s.updGlb f).twin = s.twin := rfl
@[simp] theorem State.updGlb_reg (s : State) (f : GlbSt → GlbSt) (o : Nat) : (s.updGlb f).reg o = s.reg o := rfl
@[simp] theorem State.updGlb_fld (s : State) (f : GlbSt → GlbSt) (g : Fld) : (s.updGlb f).fld g = s.fld g := rfl
@[simp] theorem State.updGlb_flag (s : State) (f : GlbSt → GlbSt) (g : Fld) : (s.updGlb f).flag g = s.flag g := rfl

@[simp] theorem State.updTim_pending (s : State) (f : TimeSt → TimeSt) : (s.updTim f).pending = s.pending := rfl
@[simp] theorem State.updTim_regs (s : State) (f : TimeSt → TimeSt) : (s.updTim f).regs = s.regs := rfl
@[simp] theorem State.updTim_log (s : State) (f : TimeSt → TimeSt) : (s.updTim f).log = s.log := rfl
@[simp] theorem State.updTim_timers (s : State) (f : TimeSt → TimeSt) : (s.updTim f).timers = s.timers := rfl
@[simp] theorem State.updTim_hostRead (s : State) (f : TimeSt → TimeSt) : (s.updTim f).hostRead = s.hostRead := rfl
@[simp] theorem State.updTim_fresh (s : State) (f : TimeSt → TimeSt) : (s.updTim f).fresh = s.fresh := rfl
@[simp] theorem State.updTim_glb (s : State) (f : TimeSt → TimeSt) : (s.updTim f).glb = s.glb := rfl
@[simp] theorem State.updTim_tim (s : State) (f : TimeSt → TimeSt) : (s.updTim f).tim = f s.tim := rfl
@[simp] theorem State.updTim_links (s : State) (f : TimeSt → TimeSt) : (s.updTim f).links = s.links := rfl
@[simp] theorem State.updTim_linkc (s : State) (f : TimeSt → TimeSt) : (s.updTim f).linkc = s.linkc := rfl
@[simp] theorem State.updTim_ces (s : State) (f : TimeSt → TimeSt) : (s.updTim f).ces = s.ces := rfl
@[simp] theorem State.updTim_sh (s : State) (f : TimeSt → TimeSt) : (s.updTim f).sh = s.sh := rfl
@[simp] theorem State.updTim_veh (s : State) (f : TimeSt → TimeSt) : (s.updTim f).veh = s.veh := rfl
@[simp] theorem State.updTim_vehc (s : State) (f : TimeSt → TimeSt) : (s.updTim f).vehc = s.vehc := rfl
@[simp] theorem State.updTim_met (s : State) (f : TimeSt → TimeSt) : (s.updTim f).met = s.met := rfl
@[simp] theorem State.updTim_leg (s : State) (f : TimeSt → TimeSt) : (s.updTim f).leg = s.leg := rfl
@[simp] theorem State.updTim_isl (s : State) (f : TimeSt → TimeSt) : (s.updTim f).isl = s.isl := rfl
@[simp] theorem State.updTim_ps (s : State) (f : TimeSt → TimeSt) : (s.updTim f).ps = s.ps := rfl
@[simp] theorem State.updTim_pnl (s : State) (f : TimeSt → TimeSt) : (s.updTim f).pnl = s.pnl := rfl
@[simp] theorem State.updTim_nfc (s : State) (f : TimeSt → TimeSt) : (s.updTim f).nfc = s.nfc := rfl
@[simp] theorem State.updTim_tag (s : State) (f : TimeSt → TimeSt) : (s.updTim f).tag = s.tag := rfl
@[simp] theorem State.updTim_ml (s : State) (f : TimeSt → TimeSt) : (s.updTim f).ml = s.ml := rfl
@[simp] theorem State.updTim_host (s : State) (f : TimeSt → TimeSt) : (s.updTim f).host = s.host := rfl
@[simp] theorem State.updTim_keys (s : State) (f : TimeSt → TimeSt) : (s.updTim f).keys = s.keys := rfl
@[simp] theorem State.updTim_mem (s : State) (f : TimeSt → TimeSt) : (s.updTim f).mem = s.mem := rfl
@[simp] theorem State.updTim_sys (s : State) (f : TimeSt → TimeSt) : (s.updTim f).sys = s.sys := rfl
@[simp] theorem State.updTim_twin (s : State) (f : TimeSt → TimeSt) : (s.updTim f).twin = s.twin := rfl
@[simp] theorem State.updTim_reg (s : State) (f : TimeSt → TimeSt) (o : Nat) : (s.updTim f).reg o = s.reg o := rfl
@[simp] theorem State.updTim_fld (s : State) (f : TimeSt → TimeSt) (g : Fld) : (s.updTim f).fld g = s.fld g := rfl
@[simp] theorem State.updTim_flag (s : State) (f : TimeSt → TimeSt) (g : Fld) : (s.updTim f).flag g = s.flag g := rfl

@[simp] theorem State.updLk_pending (s : State) (n : Nat) (f : LinkSt → LinkSt) : (s.updLk n f).pending = s.pending := rfl
@[simp] theorem State.updLk_regs (s : State) (n : Nat) (f : LinkSt → LinkSt) : (s.updLk n f).regs = s.regs := rfl
@[simp] theorem State.updLk_log (s : State) (n : Nat) (f : LinkSt → LinkSt) : (s.updLk n f).log = s.log := rfl
@[simp] theorem State.updLk_timers (s : State) (n : Nat) (f : LinkSt → LinkSt) : (s.updLk n f).timers = s.timers := rfl
@[simp] theorem State.updLk_hostRead (s : State) (n : Nat) (f : LinkSt → LinkSt) : (s.updLk n f).hostRead = s.hostRead := rfl
@[simp] theorem State.updLk_fresh (s : State) (n : Nat) (f : LinkSt → LinkSt) : (s.updLk n f).fresh = s.fresh := rfl
@[simp] theorem State.updLk_glb (s : State) (n : Nat) (f : LinkSt → LinkSt) : (s.updLk n f).glb = s.glb := rfl
@[simp] theorem State.updLk_tim (s : State) (n : Nat) (f : LinkSt → LinkSt) : (s.updLk n f).tim = s.tim := rfl
@[simp] theorem State.updLk_links (s : State) (n : Nat) (f : LinkSt → LinkSt) : (s.updLk n f).links = upd s.links n f := rfl
@[simp] theorem State.updLk_linkc (s : State) (n : Nat) (f : LinkSt → LinkSt) : (s.updLk n f).linkc = s.linkc := rfl
@[simp] theorem State.updLk_ces (s : State) (n : Nat) (f : LinkSt → LinkSt) : (s.updLk n f).ces = s.ces := rfl
@[simp] theorem State.updLk_sh (s : State) (n : Nat) (f : LinkSt → LinkSt) : (s.updLk n f).sh = s.sh := rfl
@[simp] theorem State.updLk_veh (s : State) (n : Nat) (f : LinkSt → LinkSt) : (s.updLk n f).veh = s.veh := rfl
@[simp] theorem State.updLk_vehc (s : State) (n : Nat) (f : LinkSt → LinkSt) : (s.updLk n f).vehc = s.vehc := rfl
@[simp] theorem State.updLk_met (s : State) (n : Nat) (f : LinkSt → LinkSt) : (s.updLk n f).met = s.met := rfl
@[simp] theorem State.updLk_leg (s : State) (n : Nat) (f : LinkSt → LinkSt) : (s.updLk n f).leg = s.leg := rfl
@[simp] theorem State.updLk_isl (s : State) (n : Nat) (f : LinkSt → LinkSt) : (s.updLk n f).isl = s.isl := rfl
@[simp] theorem State.updLk_ps (s : State) (n : Nat) (f : LinkSt → LinkSt) : (s.updLk n f).ps = s.ps := rfl
@[simp] theorem State.updLk_pnl (s : State) (n : Nat) (f : LinkSt → LinkSt) : (s.updLk n f).pnl = s.pnl := rfl
@[simp] theorem State.updLk_nfc (s : State) (n : Nat) (f : LinkSt → LinkSt) : (s.updLk n f).nfc = s.nfc := rfl
@[simp] theorem State.updLk_tag (s : State) (n : Nat) (f : LinkSt → LinkSt) : (s.updLk n f).tag = s.tag := rfl
@[simp] theorem State.updLk_ml (s : State) (n : Nat) (f : LinkSt → LinkSt) : (s.updLk n f).ml = s.ml := rfl
@[simp] theorem State.updLk_host (s : State) (n : Nat) (f : LinkSt → LinkSt) : (s.updLk n f).host = s.host := rfl
@[simp] theorem State.updLk_keys (s : State) (n : Nat) (f : LinkSt → LinkSt) : (s.updLk n f).keys = s.keys := rfl
@[simp] theorem State.updLk_mem (s : State) (n : Nat) (f : LinkSt → LinkSt) : (s.updLk n f).mem = s.mem := rfl
@[simp] theorem State.updLk_sys (s : State) (n : Nat) (f : LinkSt → LinkSt) : (s.updLk n f).sys = s.sys := rfl
@[simp] theorem State.updLk_twin (s : State) (n : Nat) (f : LinkSt → LinkSt) : (s.updLk n f).twin = s.twin := rfl
@[simp] theorem State.updLk_reg (s : State) (n : Nat) (f : LinkSt → LinkSt) (o : Nat) : (s.updLk n f).reg o = s.reg o := rfl
@[simp] theorem State.updLk_fld (s : State) (n : Nat) (f : LinkSt → LinkSt) (g : Fld) : (s.updLk n f).fld g = s.fld g := rfl
@[simp] theorem State.updLk_flag (s : State) (n : Nat) (f : LinkSt → LinkSt) (g : Fld) : (s.updLk n f).flag g = s.flag g := rfl

@[simp] theorem State.updCe_pending (s : State) (n : Nat) (f : CeSt → CeSt) : (s.updCe n f).pending = s.pending := rfl
@[simp] theorem State.updCe_regs (s : State) (n : Nat) (f : CeSt → CeSt) : (s.updCe n f).regs = s.regs := rfl
@[simp] theorem State.updCe_log (s : State) (n : Nat) (f : CeSt → CeSt) : (s.updCe n f).log = s.log := rfl
@[simp] theorem State.updCe_timers (s : State) (n : Nat) (f : CeSt → CeSt) : (s.updCe n f).timers = s.timers := rfl
@[simp] theorem State.updCe_hostRead (s : State) (n : Nat) (f : CeSt → CeSt) : (s.updCe n f).hostRead = s.hostRead := rfl
@[simp] theorem State.updCe_fresh (s : State) (n : Nat) (f : CeSt → CeSt) : (s.updCe n f).fresh = s.fresh := rfl
@[simp] theorem State.updCe_glb (s : State) (n : Nat) (f : CeSt → CeSt) : (s.updCe n f).glb = s.glb := rfl
@[simp] theorem State.updCe_tim (s : State) (n : Nat) (f : CeSt → CeSt) : (s.updCe n f).tim = s.tim := rfl
@[simp] theorem State.updCe_links (s : State) (n : Nat) (f : CeSt → CeSt) : (s.updCe n f).links = s.links := rfl
@[simp] theorem State.updCe_linkc (s : State) (n : Nat) (f : CeSt → CeSt) : (s.updCe n f).linkc = s.linkc := rfl
@[simp] theorem State.updCe_ces (s : State) (n : Nat) (f : CeSt → CeSt) : (s.updCe n f).ces = upd s.ces n f := rfl
@[simp] theorem State.updCe_sh (s : State) (n : Nat) (f : CeSt → CeSt) : (s.updCe n f).sh = s.sh := rfl
@[simp] theorem State.updCe_veh (s : State) (n : Nat) (f : CeSt → CeSt) : (s.updCe n f).veh = s.veh := rfl
@[simp] theorem State.updCe_vehc (s : State) (n : Nat) (f : CeSt → CeSt) : (s.updCe n f).vehc = s.vehc := rfl
@[simp] theorem State.updCe_met (s : State) (n : Nat) (f : CeSt → CeSt) : (s.updCe n f).met = s.met := rfl
@[simp] theorem State.updCe_leg (s : State) (n : Nat) (f : CeSt → CeSt) : (s.updCe n f).leg = s.leg := rfl
@[simp] theorem State.updCe_isl (s : State) (n : Nat) (f : CeSt → CeSt) : (s.updCe n f).isl = s.isl := rfl
@[simp] theorem State.updCe_ps (s : State) (n : Nat) (f : CeSt → CeSt) : (s.updCe n f).ps = s.ps := rfl
@[simp] theorem State.updCe_pnl (s : State) (n : Nat) (f : CeSt → CeSt) : (s.updCe n f).pnl = s.pnl := rfl
@[simp] theorem State.updCe_nfc (s : State) (n : Nat) (f : CeSt → CeSt) : (s.updCe n f).nfc = s.nfc := rfl
@[simp] theorem State.updCe_tag (s : State) (n : Nat) (f : CeSt → CeSt) : (s.updCe n f).tag = s.tag := rfl
@[simp] theorem State.updCe_ml (s : State) (n : Nat) (f : CeSt → CeSt) : (s.updCe n f).ml = s.ml := rfl
@[simp] theorem State.updCe_host (s : State) (n : Nat) (f : CeSt → CeSt) : (s.updCe n f).host = s.host := rfl
@[simp] theorem State.updCe_keys (s : State) (n : Nat) (f : CeSt → CeSt) : (s.updCe n f).keys = s.keys := rfl
@[simp] theorem State.updCe_mem (s : State) (n : Nat) (f : CeSt → CeSt) : (s.updCe n f).mem = s.mem := rfl
@[simp] theorem State.updCe_sys (s : State) (n : Nat) (f : CeSt → CeSt) : (s.updCe n f).sys = s.sys := rfl
@[simp] theorem State.updCe_twin (s : State) (n : Nat) (f : CeSt → CeSt) : (s.updCe n f).twin = s.twin := rfl
@[simp] theorem State.updCe_reg (s : State) (n : Nat) (f : CeSt → CeSt) (o : Nat) : (s.updCe n f).reg o = s.reg o := rfl
@[simp] theorem State.updCe_fld (s : State) (n : Nat) (f : CeSt → CeSt) (g : Fld) : (s.updCe n f).fld g = s.fld g := rfl
@[simp] theorem State.updCe_flag (s : State) (n : Nat) (f : CeSt → CeSt) (g : Fld) : (s.updCe n f).flag g = s.flag g := rfl

@[simp] theorem State.updVh_pending (s : State) (n : Nat) (f : Veh → Veh) : (s.updVh n f).pending = s.pending := rfl
@[simp] theorem State.updVh_regs (s : State) (n : Nat) (f : Veh → Veh) : (s.updVh n f).regs = s.regs := rfl
@[simp] theorem State.updVh_log (s : State) (n : Nat) (f : Veh → Veh) : (s.updVh n f).log = s.log := rfl
@[simp] theorem State.updVh_timers (s : State) (n : Nat) (f : Veh → Veh) : (s.updVh n f).timers = s.timers := rfl
@[simp] theorem State.updVh_hostRead (s : State) (n : Nat) (f : Veh → Veh) : (s.updVh n f).hostRead = s.hostRead := rfl
@[simp] theorem State.updVh_fresh (s : State) (n : Nat) (f : Veh → Veh) : (s.updVh n f).fresh = s.fresh := rfl
@[simp] theorem State.updVh_glb (s : State) (n : Nat) (f : Veh → Veh) : (s.updVh n f).glb = s.glb := rfl
@[simp] theorem State.updVh_tim (s : State) (n : Nat) (f : Veh → Veh) : (s.updVh n f).tim = s.tim := rfl
@[simp] theorem State.updVh_links (s : State) (n : Nat) (f : Veh → Veh) : (s.updVh n f).links = s.links := rfl
@[simp] theorem State.updVh_linkc (s : State) (n : Nat) (f : Veh → Veh) : (s.updVh n f).linkc = s.linkc := rfl
@[simp] theorem State.updVh_ces (s : State) (n : Nat) (f : Veh → Veh) : (s.updVh n f).ces = s.ces := rfl
@[simp] theorem State.updVh_sh (s : State) (n : Nat) (f : Veh → Veh) : (s.updVh n f).sh = s.sh := rfl
@[simp] theorem State.updVh_veh (s : State) (n : Nat) (f : Veh → Veh) : (s.updVh n f).veh = upd s.veh n f := rfl
@[simp] theorem State.updVh_vehc (s : State) (n : Nat) (f : Veh → Veh) : (s.updVh n f).vehc = s.vehc := rfl
@[simp] theorem State.updVh_met (s : State) (n : Nat) (f : Veh → Veh) : (s.updVh n f).met = s.met := rfl
@[simp] theorem State.updVh_leg (s : State) (n : Nat) (f : Veh → Veh) : (s.updVh n f).leg = s.leg := rfl
@[simp] theorem State.updVh_isl (s : State) (n : Nat) (f : Veh → Veh) : (s.updVh n f).isl = s.isl := rfl
@[simp] theorem State.updVh_ps (s : State) (n : Nat) (f : Veh → Veh) : (s.updVh n f).ps = s.ps := rfl
@[simp] theorem State.updVh_pnl (s : State) (n : Nat) (f : Veh → Veh) : (s.updVh n f).pnl = s.pnl := rfl
@[simp] theorem State.updVh_nfc (s : State) (n : Nat) (f : Veh → Veh) : (s.updVh n f).nfc = s.nfc := rfl
@[simp] theorem State.updVh_tag (s : State) (n : Nat) (f : Veh → Veh) : (s.updVh n f).tag = s.tag := rfl
@[simp] theorem State.updVh_ml (s : State) (n : Nat) (f : Veh → Veh) : (s.updVh n f).ml = s.ml := rfl
@[simp] theorem State.updVh_host (s : State) (n : Nat) (f : Veh → Veh) : (s.updVh n f).host = s.host := rfl
@[simp] theorem State.updVh_keys (s : State) (n : Nat) (f : Veh → Veh) : (s.updVh n f).keys = s.keys := rfl
@[simp] theorem State.updVh_mem (s : State) (n : Nat) (f : Veh → Veh) : (s.updVh n f).mem = s.mem := rfl
@[simp] theorem State.updVh_sys (s : State) (n : Nat) (f : Veh → Veh) : (s.updVh n f).sys = s.sys := rfl
@[simp] theorem State.updVh_twin (s : State) (n : Nat) (f : Veh → Veh) : (s.updVh n f).twin = s.twin := rfl
@[simp] theorem State.updVh_reg (s : State) (n : Nat) (f : Veh → Veh) (o : Nat) : (s.updVh n f).reg o = s.reg o := rfl
@[simp] theorem State.updVh_fld (s : State) (n : Nat) (f : Veh → Veh) (g : Fld) : (s.updVh n f).fld g = s.fld g := rfl
@[simp] theorem State.updVh_flag (s : State) (n : Nat) (f : Veh → Veh) (g : Fld) : (s.updVh n f).flag g = s.flag g := rfl

@[simp] theorem State.updSh_pending (s : State) (f : ShareSt → ShareSt) : (s.updSh f).pending = s.pending := rfl
@[simp] theorem State.updSh_regs (s : State) (f : ShareSt → ShareSt) : (s.updSh f).regs = s.regs := rfl
@[simp] theorem State.updSh_log (s : State) (f : ShareSt → ShareSt) : (s.updSh f).log = s.log := rfl
@[simp] theorem State.updSh_timers (s : State) (f : ShareSt → ShareSt) : (s.updSh f).timers = s.timers := rfl
@[simp] theorem State.updSh_hostRead (s : State) (f : ShareSt → ShareSt) : (s.updSh f).hostRead = s.hostRead := rfl
@[simp] theorem State.updSh_fresh (s : State) (f : ShareSt → ShareSt) : (s.updSh f).fresh = s.fresh := rfl
@[simp] theorem State.updSh_glb (s : State) (f : ShareSt → ShareSt) : (s.updSh f).glb = s.glb := rfl
@[simp] theorem State.updSh_tim (s : State) (f : ShareSt → ShareSt) : (s.updSh f).tim = s.tim := rfl
@[simp] theorem State.updSh_links (s : State) (f : ShareSt → ShareSt) : (s.updSh f).links = s.links := rfl
@[simp] theorem State.updSh_linkc (s : State) (f : ShareSt → ShareSt) : (s.updSh f).linkc = s.linkc := rfl
@[simp] theorem State.updSh_ces (s : State) (f : ShareSt → ShareSt) : (s.updSh f).ces = s.ces := rfl
@[simp] theorem State.updSh_sh (s : State) (f : ShareSt → ShareSt) : (s.updSh f).sh = f s.sh := rfl
@[simp] theorem State.updSh_veh (s : State) (f : ShareSt → ShareSt) : (s.updSh f).veh = s.veh := rfl
@[simp] theorem State.updSh_vehc (s : State) (f : ShareSt → ShareSt) : (s.updSh f).vehc = s.vehc := rfl
@[simp] theorem State.updSh_met (s : State) (f : ShareSt → ShareSt) : (s.updSh f).met = s.met := rfl
@[simp] theorem State.updSh_leg (s : State) (f : ShareSt → ShareSt) : (s.updSh f).leg = s.leg := rfl
@[simp] theorem State.updSh_isl (s : State) (f : ShareSt → ShareSt) : (s.updSh f).isl = s.isl := rfl
@[simp] theorem State.updSh_ps (s : State) (f : ShareSt → ShareSt) : (s.updSh f).ps = s.ps := rfl
@[simp] theorem State.updSh_pnl (s : State) (f : ShareSt → ShareSt) : (s.updSh f).pnl = s.pnl := rfl
@[simp] theorem State.updSh_nfc (s : State) (f : ShareSt → ShareSt) : (s.updSh f).nfc = s.nfc := rfl
@[simp] theorem State.updSh_tag (s : State) (f : ShareSt → ShareSt) : (s.updSh f).tag = s.tag := rfl
@[simp] theorem State.updSh_ml (s : State) (f : ShareSt → ShareSt) : (s.updSh f).ml = s.ml := rfl
@[simp] theorem State.updSh_host (s : State) (f : ShareSt → ShareSt) : (s.updSh f).host = s.host := rfl
@[simp] theorem State.updSh_keys (s : State) (f : ShareSt → ShareSt) : (s.updSh f).keys = s.keys := rfl
@[simp] theorem State.updSh_mem (s : State) (f : ShareSt → ShareSt) : (s.updSh f).mem = s.mem := rfl
@[simp] theorem State.updSh_sys (s : State) (f : ShareSt → ShareSt) : (s.updSh f).sys = s.sys := rfl
@[simp] theorem State.updSh_twin (s : State) (f : ShareSt → ShareSt) : (s.updSh f).twin = s.twin := rfl
@[simp] theorem State.updSh_reg (s : State) (f : ShareSt → ShareSt) (o : Nat) : (s.updSh f).reg o = s.reg o := rfl
@[simp] theorem State.updSh_fld (s : State) (f : ShareSt → ShareSt) (g : Fld) : (s.updSh f).fld g = s.fld g := rfl
@[simp] theorem State.updSh_flag (s : State) (f : ShareSt → ShareSt) (g : Fld) : (s.updSh f).flag g = s.flag g := rfl

@[simp] theorem State.updMet_pending (s : State) (f : MetSt → MetSt) : (s.updMet f).pending = s.pending := rfl
@[simp] theorem State.updMet_regs (s : State) (f : MetSt → MetSt) : (s.updMet f).regs = s.regs := rfl
@[simp] theorem State.updMet_log (s : State) (f : MetSt → MetSt) : (s.updMet f).log = s.log := rfl
@[simp] theorem State.updMet_timers (s : State) (f : MetSt → MetSt) : (s.updMet f).timers = s.timers := rfl
@[simp] theorem State.updMet_hostRead (s : State) (f : MetSt → MetSt) : (s.updMet f).hostRead = s.hostRead := rfl
@[simp] theorem State.updMet_fresh (s : State) (f : MetSt → MetSt) : (s.updMet f).fresh = s.fresh := rfl
@[simp] theorem State.updMet_glb (s : State) (f : MetSt → MetSt) : (s.updMet f).glb = s.glb := rfl
@[simp] theorem State.updMet_tim (s : State) (f : MetSt → MetSt) : (s.updMet f).tim = s.tim := rfl
@[simp] theorem State.updMet_links (s : State) (f : MetSt → MetSt) : (s.updMet f).links = s.links := rfl
@[simp] theorem State.updMet_linkc (s : State) (f : MetSt → MetSt) : (s.updMet f).linkc = s.linkc := rfl
@[simp] theorem State.updMet_ces (s : State) (f : MetSt → MetSt) : (s.updMet f).ces = s.ces := rfl
@[simp] theorem State.updMet_sh (s : State) (f : MetSt → MetSt) : (s.updMet f).sh = s.sh := rfl
@[simp] theorem State.updMet_veh (s : State) (f : MetSt → MetSt) : (s.updMet f).veh = s.veh := rfl
@[simp] theorem State.updMet_vehc (s : State) (f : MetSt → MetSt) : (s.updMet f).vehc = s.vehc := rfl
@[simp] theorem State.updMet_met (s : State) (f : MetSt → MetSt) : (s.updMet f).met = f s.met := rfl
@[simp] theorem State.updMet_leg (s : State) (f : MetSt → MetSt) : (s.updMet f).leg = s.leg := rfl
@[simp] theorem State.updMet_isl (s : State) (f : MetSt → MetSt) : (s.updMet f).isl = s.isl := rfl
@[simp] theorem State.updMet_ps (s : State) (f : MetSt → MetSt) : (s.updMet f).ps = s.ps := rfl
@[simp] theorem State.updMet_pnl (s : State) (f : MetSt → MetSt) : (s.updMet f).pnl = s.pnl := rfl
@[simp] theorem State.updMet_nfc (s : State) (f : MetSt → MetSt) : (s.updMet f).nfc = s.nfc := rfl
@[simp] theorem State.updMet_tag (s : State) (f : MetSt → MetSt) : (s.updMet f).tag = s.tag := rfl
@[simp] theorem State.updMet_ml (s : State) (f : MetSt → MetSt) : (s.updMet f).ml = s.ml := rfl
@[simp] theorem State.updMet_host (s : State) (f : MetSt → MetSt) : (s.updMet f).host = s.host := rfl
@[simp] theorem State.updMet_keys (s : State) (f : MetSt → MetSt) : (s.updMet f).keys = s.keys := rfl
@[simp] theorem State.updMet_mem (s : State) (f : MetSt → MetSt) : (s.updMet f).mem = s.mem := rfl
@[simp] theorem State.updMet_sys (s : State) (f : MetSt → MetSt) : (s.updMet f).sys = s.sys := rfl
@[simp] theorem State.updMet_twin (s : State) (f : MetSt → MetSt) : (s.updMet f).twin = s.twin := rfl
@[simp] theorem State.updMet_reg (s : State) (f : MetSt → MetSt) (o : Nat) : (s.updMet f).reg o = s.reg o := rfl
@[simp] theorem State.updMet_fld (s : State) (f : MetSt → MetSt) (g : Fld) : (s.updMet f).fld g = s.fld g := rfl
@[simp] theorem State.updMet_flag (s : State) (f : MetSt → MetSt) (g : Fld) : (s.updMet f).flag g = s.flag g := rfl

@[simp] theorem State.updLeg_pending (s : State) (f : LegSt → LegSt) : (s.updLeg f).pending = s.pending := rfl
@[simp] theorem State.updLeg_regs (s : State) (f : LegSt → LegSt) : (s.updLeg f).regs = s.regs := rfl
@[simp] theorem State.updLeg_log (s : State) (f : LegSt → LegSt) : (s.updLeg f).log = s.log := rfl
@[simp] theorem State.updLeg_timers (s : State) (f : LegSt → LegSt) : (s.updLeg f).timers = s.timers := rfl
@[simp] theorem State.updLeg_hostRead (s : State) (f : LegSt → LegSt) : (s.updLeg f).hostRead = s.hostRead := rfl
@[simp] theorem State.updLeg_fresh (s : State) (f : LegSt → LegSt) : (s.updLeg f).fresh = s.fresh := rfl
@[simp] theorem State.updLeg_glb (s : State) (f : LegSt → LegSt) : (s.updLeg f).glb = s.glb := rfl
@[simp] theorem State.updLeg_tim (s : State) (f : LegSt → LegSt) : (s.updLeg f).tim = s.tim := rfl
@[simp] theorem State.updLeg_links (s : State) (f : LegSt → LegSt) : (s.updLeg f).links = s.links := rfl
@[simp] theorem State.updLeg_linkc (s : State) (f : LegSt → LegSt) : (s.updLeg f).linkc = s.linkc := rfl
@[simp] theorem State.updLeg_ces (s : State) (f : LegSt → LegSt) : (s.updLeg f).ces = s.ces := rfl
@[simp] theorem State.updLeg_sh (s : State) (f : LegSt → LegSt) : (s.updLeg f).sh = s.sh := rfl
@[simp] theorem State.updLeg_veh (s : State) (f : LegSt → LegSt) : (s.updLeg f).veh = s.veh := rfl
@[simp] theorem State.updLeg_vehc (s : State) (f : LegSt → LegSt) : (s.updLeg f).vehc = s.vehc := rfl
@[simp] theorem State.updLeg_met (s : State) (f : LegSt → LegSt) : (s.updLeg f).met = s.met := rfl
@[simp] theorem State.updLeg_leg (s : State) (f : LegSt → LegSt) : (s.updLeg f).leg = f s.leg := rfl
@[simp] theorem State.updLeg_isl (s : State) (f : LegSt → LegSt) : (s.updLeg f).isl = s.isl := rfl
@[simp] theorem State.updLeg_ps (s : State) (f : LegSt → LegSt) : (s.updLeg f).ps = s.ps := rfl
@[simp] theorem State.updLeg_pnl (s : State) (f : LegSt → LegSt) : (s.updLeg f).pnl = s.pnl := rfl
@[simp] theorem State.updLeg_nfc (s : State) (f : LegSt → LegSt) : (s.updLeg f).nfc = s.nfc := rfl
@[simp] theorem State.updLeg_tag (s : State) (f : LegSt → LegSt) : (s.updLeg f).tag = s.tag := rfl
@[simp] theorem State.updLeg_ml (s : State) (f : LegSt → LegSt) : (s.updLeg f).ml = s.ml := rfl
@[simp] theorem State.updLeg_host (s : State) (f : LegSt → LegSt) : (s.updLeg f).host = s.host := rfl
@[simp] theorem State.updLeg_keys (s : State) (f : LegSt → LegSt) : (s.updLeg f).keys = s.keys := rfl
@[simp] theorem State.updLeg_mem (s : State) (f : LegSt → LegSt) : (s.updLeg f).mem = s.mem := rfl
@[simp] theorem State.updLeg_sys (s : State) (f : LegSt → LegSt) : (s.updLeg f).sys = s.sys := rfl
@[simp] theorem State.updLeg_twin (s : State) (f : LegSt → LegSt) : (s.updLeg f).twin = s.twin := rfl
@[simp] theorem State.updLeg_reg (s : State) (f : LegSt → LegSt) (o : Nat) : (s.updLeg f).reg o = s.reg o := rfl
@[simp] theorem State.updLeg_fld (s : State) (f : LegSt → LegSt) (g : Fld) : (s.updLeg f).fld g = s.fld g := rfl
@[simp] theorem State.updLeg_flag (s : State) (f : LegSt → LegSt) (g : Fld) : (s.updLeg f).flag g = s.flag g := rfl

@[simp] theorem State.updIsl_pending (s : State) (f : IslSt → IslSt) : (s.updIsl f).pending = s.pending := rfl
@[simp] theorem State.updIsl_regs (s : State) (f : IslSt → IslSt) : (s.updIsl f).regs = s.regs := rfl
@[simp] theorem State.updIsl_log (s : State) (f : IslSt → IslSt) : (s.updIsl f).log = s.log := rfl
@[simp] theorem State.updIsl_timers (s : State) (f : IslSt → IslSt) : (s.updIsl f).timers = s.timers := rfl
@[simp] theorem State.updIsl_hostRead (s : State) (f : IslSt → IslSt) : (s.updIsl f).hostRead = s.hostRead := rfl
@[simp] theorem State.updIsl_fresh (s : State) (f : IslSt → IslSt) : (s.updIsl f).fresh = s.fresh := rfl
@[simp] theorem State.updIsl_glb (s : State) (f : IslSt → IslSt) : (s.updIsl f).glb = s.glb := rfl
@[simp] theorem State.updIsl_tim (s : State) (f : IslSt → IslSt) : (s.updIsl f).tim = s.tim := rfl
@[simp] theorem State.updIsl_links (s : State) (f : IslSt → IslSt) : (s.updIsl f).links = s.links := rfl
@[simp] theorem State.updIsl_linkc (s : State) (f : IslSt → IslSt) : (s.updIsl f).linkc = s.linkc := rfl
@[simp] theorem State.updIsl_ces (s : State) (f : IslSt → IslSt) : (s.updIsl f).ces = s.ces := rfl
@[simp] theorem State.updIsl_sh (s : State) (f : IslSt → IslSt) : (s.updIsl f).sh = s.sh := rfl
@[simp] theorem State.updIsl_veh (s : State) (f : IslSt → IslSt) : (s.updIsl f).veh = s.veh := rfl
@[simp] theorem State.updIsl_vehc (s : State) (f : IslSt → IslSt) : (s.updIsl f).vehc = s.vehc := rfl
@[simp] theorem State.updIsl_met (s : State) (f : IslSt → IslSt) : (s.updIsl f).met = s.met := rfl
@[simp] theorem State.updIsl_leg (s : State) (f : IslSt → IslSt) : (s.updIsl f).leg = s.leg := rfl
@[simp] theorem State.updIsl_isl (s : State) (f : IslSt → IslSt) : (s.updIsl f).isl = f s.isl := rfl
@[simp] theorem State.updIsl_ps (s : State) (f : IslSt → IslSt) : (s.updIsl f).ps = s.ps := rfl
@[simp] theorem State.updIsl_pnl (s : State) (f : IslSt → IslSt) : (s.updIsl f).pnl = s.pnl := rfl
@[simp] theorem State.updIsl_nfc (s : State) (f : IslSt → IslSt) : (s.updIsl f).nfc = s.nfc := rfl
@[simp] theorem State.updIsl_tag (s : State) (f : IslSt → IslSt) : (s.updIsl f).tag = s.tag := rfl
@[simp] theorem State.updIsl_ml (s : State) (f : IslSt → IslSt) : (s.updIsl f).ml = s.ml := rfl
@[simp] theorem State.updIsl_host (s : State) (f : IslSt → IslSt) : (s.updIsl f).host = s.host := rfl
@[simp] theorem State.updIsl_keys (s : State) (f : IslSt → IslSt) : (s.updIsl f).keys = s.keys := rfl
@[simp] theorem State.updIsl_mem (s : State) (f : IslSt → IslSt) : (s.updIsl f).mem = s.mem := rfl
@[simp] theorem State.updIsl_sys (s : State) (f : IslSt → IslSt) : (s.updIsl f).sys = s.sys := rfl
@[simp] theorem State.updIsl_twin (s : State) (f : IslSt → IslSt) : (s.updIsl f).twin = s.twin := rfl
@[simp] theorem State.updIsl_reg (s : State) (f : IslSt → IslSt) (o : Nat) : (s.updIsl f).reg o = s.reg o := rfl
@[simp] theorem State.updIsl_fld (s : State) (f : IslSt → IslSt) (g : Fld) : (s.updIsl f).fld g = s.fld g := rfl
@[simp] theorem State.updIsl_flag (s : State) (f : IslSt → IslSt) (g : Fld) : (s.updIsl f).flag g = s.flag g := rfl

@[simp] theorem State.updPs_pending (s : State) (f : PsSt → PsSt) : (s.updPs f).pending = s.pending := rfl
@[simp] theorem State.updPs_regs (s : State) (f : PsSt → PsSt) : (s.updPs f).regs = s.regs := rfl
@[simp] theorem State.updPs_log (s : State) (f : PsSt → PsSt) : (s.updPs f).log = s.log := rfl
@[simp] theorem State.updPs_timers (s : State) (f : PsSt → PsSt) : (s.updPs f).timers = s.timers := rfl
@[simp] theorem State.updPs_hostRead (s : State) (f : PsSt → PsSt) : (s.updPs f).hostRead = s.hostRead := rfl
@[simp] theorem State.updPs_fresh (s : State) (f : PsSt → PsSt) : (s.updPs f).fresh = s.fresh := rfl
@[simp] theorem State.updPs_glb (s : State) (f : PsSt → PsSt) : (s.updPs f).glb = s.glb := rfl
@[simp] theorem State.updPs_tim (s : State) (f : PsSt → PsSt) : (s.updPs f).tim = s.tim := rfl
@[simp] theorem State.updPs_links (s : State) (f : PsSt → PsSt) : (s.updPs f).links = s.links := rfl
@[simp] theorem State.updPs_linkc (s : State) (f : PsSt → PsSt) : (s.updPs f).linkc = s.linkc := rfl
@[simp] theorem State.updPs_ces (s : State) (f : PsSt → PsSt) : (s.updPs f).ces = s.ces := rfl
@[simp] theorem State.updPs_sh (s : State) (f : PsSt → PsSt) : (s.updPs f).sh = s.sh := rfl
@[simp] theorem State.updPs_veh (s : State) (f : PsSt → PsSt) : (s.updPs f).veh = s.veh := rfl
@[simp] theorem State.updPs_vehc (s : State) (f : PsSt → PsSt) : (s.updPs f).vehc = s.vehc := rfl
@[simp] theorem State.updPs_met (s : State) (f : PsSt → PsSt) : (s.updPs f).met = s.met := rfl
@[simp] theorem State.updPs_leg (s : State) (f : PsSt → PsSt) : (s.updPs f).leg = s.leg := rfl
@[simp] theorem State.updPs_isl (s : State) (f : PsSt → PsSt) : (s.updPs f).isl = s.isl := rfl
@[simp] theorem State.updPs_ps (s : State) (f : PsSt → PsSt) : (s.updPs f).ps = f s.ps := rfl
@[simp] theorem State.updPs_pnl (s : State) (f : PsSt → PsSt) : (s.updPs f).pnl = s.pnl := rfl
@[simp] theorem State.updPs_nfc (s : State) (f : PsSt → PsSt) : (s.updPs f).nfc = s.nfc := rfl
@[simp] theorem State.updPs_tag (s : State) (f : PsSt → PsSt) : (s.updPs f).tag = s.tag := rfl
@[simp] theorem State.updPs_ml (s : State) (f : PsSt → PsSt) : (s.updPs f).ml = s.ml := rfl
@[simp] theorem State.updPs_host (s : State) (f : PsSt → PsSt) : (s.updPs f).host = s.host := rfl
@[simp] theorem State.updPs_keys (s : State) (f : PsSt → PsSt) : (s.updPs f).keys = s.keys := rfl
@[simp] theorem State.updPs_mem (s : State) (f : PsSt → PsSt) : (s.updPs f).mem = s.mem := rfl
@[simp] theorem State.updPs_sys (s : State) (f : PsSt → PsSt) : (s.updPs f).sys = s.sys := rfl
@[simp] theorem State.updPs_twin (s : State) (f : PsSt → PsSt) : (s.updPs f).twin = s.twin := rfl
@[simp] theorem State.updPs_reg (s : State) (f : PsSt → PsSt) (o : Nat) : (s.updPs f).reg o = s.reg o := rfl
@[simp] theorem State.updPs_fld (s : State) (f : PsSt → PsSt) (g : Fld) : (s.updPs f).fld g = s.fld g := rfl
@[simp] theorem State.updPs_flag (s : State) (f : PsSt → PsSt) (g : Fld) : (s.updPs f).flag g = s.flag g := rfl

@[simp] theorem State.updPnl_pending (s : State) (f : PnlSt → PnlSt) : (s.updPnl f).pending = s.pending := rfl
@[simp] theorem State.updPnl_regs (s : State) (f : PnlSt → PnlSt) : (s.updPnl f).regs = s.regs := rfl
@[simp] theorem State.updPnl_log (s : State) (f : PnlSt → PnlSt) : (s.updPnl f).log = s.log := rfl
@[simp] theorem State.updPnl_timers (s : State) (f : PnlSt → PnlSt) : (s.updPnl f).timers = s.timers := rfl
@[simp] theorem State.updPnl_hostRead (s : State) (f : PnlSt → PnlSt) : (s.updPnl f).hostRead = s.hostRead := rfl
@[simp] theorem State.updPnl_fresh (s : State) (f : PnlSt → PnlSt) : (s.updPnl f).fresh = s.fresh := rfl
@[simp] theorem State.updPnl_glb (s : State) (f : PnlSt → PnlSt) : (s.updPnl f).glb = s.glb := rfl
@[simp] theorem State.updPnl_tim (s : State) (f : PnlSt → PnlSt) : (s.updPnl f).tim = s.tim := rfl
@[simp] theorem State.updPnl_links (s : State) (f : PnlSt → PnlSt) : (s.updPnl f).links = s.links := rfl
@[simp] theorem State.updPnl_linkc (s : State) (f : PnlSt → PnlSt) : (s.updPnl f).linkc = s.linkc := rfl
@[simp] theorem State.updPnl_ces (s : State) (f : PnlSt → PnlSt) : (s.updPnl f).ces = s.ces := rfl
@[simp] theorem State.updPnl_sh (s : State) (f : PnlSt → PnlSt) : (s.updPnl f).sh = s.sh := rfl
@[simp] theorem State.updPnl_veh (s : State) (f : PnlSt → PnlSt) : (s.updPnl f).veh = s.veh := rfl
@[simp] theorem State.updPnl_vehc (s : State) (f : PnlSt → PnlSt) : (s.updPnl f).vehc = s.vehc := rfl
@[simp] theorem State.updPnl_met (s : State) (f : PnlSt → PnlSt) : (s.updPnl f).met = s.met := rfl
@[simp] theorem State.updPnl_leg (s : State) (f : PnlSt → PnlSt) : (s.updPnl f).leg = s.leg := rfl
@[simp] theorem State.updPnl_isl (s : State) (f : PnlSt → PnlSt) : (s.updPnl f).isl = s.isl := rfl
@[simp] theorem State.updPnl_ps (s : State) (f : PnlSt → PnlSt) : (s.updPnl f).ps = s.ps := rfl
@[simp] theorem State.updPnl_pnl (s : State) (f : PnlSt → PnlSt) : (s.updPnl f).pnl = f s.pnl := rfl
@[simp] theorem State.updPnl_nfc (s : State) (f : PnlSt → PnlSt) : (s.updPnl f).nfc = s.nfc := rfl
@[simp] theorem State.updPnl_tag (s : State) (f : PnlSt → PnlSt) : (s.updPnl f).tag = s.tag := rfl
@[simp] theorem State.updPnl_ml (s : State) (f : PnlSt → PnlSt) : (s.updPnl f).ml = s.ml := rfl
@[simp] theorem State.updPnl_host (s : State) (f : PnlSt → PnlSt) : (s.updPnl f).host = s.host := rfl
@[simp] theorem State.updPnl_keys (s : State) (f : PnlSt → PnlSt) : (s.updPnl f).keys = s.keys := rfl
@[simp] theorem State.updPnl_mem (s : State) (f : PnlSt → PnlSt) : (s.updPnl f).mem = s.mem := rfl
@[simp] theorem State.updPnl_sys (s : State) (f : PnlSt → PnlSt) : (s.updPnl f).sys = s.sys := rfl
@[simp] theorem State.updPnl_twin (s : State) (f : PnlSt → PnlSt) : (s.updPnl f).twin = s.twin := rfl
@[simp] theorem State.updPnl_reg (s : State) (f : PnlSt → PnlSt) (o : Nat) : (s.updPnl f).reg o = s.reg o := rfl
@[simp] theorem State.updPnl_fld (s : State) (f : PnlSt → PnlSt) (g : Fld) : (s.updPnl f).fld g = s.fld g := rfl
@[simp] theorem State.updPnl_flag (s : State) (f : PnlSt → PnlSt) (g : Fld) : (s.updPnl f).flag g = s.flag g := rfl

@[simp] theorem State.updPort_pending (s : State) (n : Nat) (f : NfcPort → NfcPort) : (s.updPort n f).pending = s.pending := rfl
@[simp] theorem State.updPort_regs (s : State) (n : Nat) (f : NfcPort → NfcPort) : (s.updPort n f).regs = s.regs := rfl
@[simp] theorem State.updPort_log (s : State) (n : Nat) (f : NfcPort → NfcPort) : (s.updPort n f).log = s.log := rfl
@[simp] theorem State.updPort_timers (s : State) (n : Nat) (f : NfcPort → NfcPort) : (s.updPort n f).timers = s.timers := rfl
@[simp] theorem State.updPort_hostRead (s : State) (n : Nat) (f : NfcPort → NfcPort) : (s.updPort n f).hostRead = s.hostRead := rfl
@[simp] theorem State.updPort_fresh (s : State) (n : Nat) (f : NfcPort → NfcPort) : (s.updPort n f).fresh = s.fresh := rfl
@[simp] theorem State.updPort_glb (s : State) (n : Nat) (f : NfcPort → NfcPort) : (s.updPort n f).glb = s.glb := rfl
@[simp] theorem State.updPort_tim (s : State) (n : Nat) (f : NfcPort → NfcPort) : (s.updPort n f).tim = s.tim := rfl
@[simp] theorem State.updPort_links (s : State) (n : Nat) (f : NfcPort → NfcPort) : (s.updPort n f).links = s.links := rfl
@[simp] theorem State.updPort_linkc (s : State) (n : Nat) (f : NfcPort → NfcPort) : (s.updPort n f).linkc = s.linkc := rfl
@[simp] theorem State.updPort_ces (s : State) (n : Nat) (f : NfcPort → NfcPort) : (s.updPort n f).ces = s.ces := rfl
@[simp] theorem State.updPort_sh (s : State) (n : Nat) (f : NfcPort → NfcPort) : (s.updPort n f).sh = s.sh := rfl
@[simp] theorem State.updPort_veh (s : State) (n : Nat) (f : NfcPort → NfcPort) : (s.updPort n f).veh = s.veh := rfl
@[simp] theorem State.updPort_vehc (s : State) (n : Nat) (f : NfcPort → NfcPort) : (s.updPort n f).vehc = s.vehc := rfl
@[simp] theorem State.updPort_met (s : State) (n : Nat) (f : NfcPort → NfcPort) : (s.updPort n f).met = s.met := rfl
@[simp] theorem State.updPort_leg (s : State) (n : Nat) (f : NfcPort → NfcPort) : (s.updPort n f).leg = s.leg := rfl
@[simp] theorem State.updPort_isl (s : State) (n : Nat) (f : NfcPort → NfcPort) : (s.updPort n f).isl = s.isl := rfl
@[simp] theorem State.updPort_ps (s : State) (n : Nat) (f : NfcPort → NfcPort) : (s.updPort n f).ps = s.ps := rfl
@[simp] theorem State.updPort_pnl (s : State) (n : Nat) (f : NfcPort → NfcPort) : (s.updPort n f).pnl = s.pnl := rfl
@[simp] theorem State.updPort_nfc (s : State) (n : Nat) (f : NfcPort → NfcPort) : (s.updPort n f).nfc = upd s.nfc n f := rfl
@[simp] theorem State.updPort_tag (s : State) (n : Nat) (f : NfcPort → NfcPort) : (s.updPort n f).tag = s.tag := rfl
@[simp] theorem State.updPort_ml (s : State) (n : Nat) (f : NfcPort → NfcPort) : (s.updPort n f).ml = s.ml := rfl
@[simp] theorem State.updPort_host (s : State) (n : Nat) (f : NfcPort → NfcPort) : (s.updPort n f).host = s.host := rfl
@[simp] theorem State.updPort_keys (s : State) (n : Nat) (f : NfcPort → NfcPort) : (s.updPort n f).keys = s.keys := rfl
@[simp] theorem State.updPort_mem (s : State) (n : Nat) (f : NfcPort → NfcPort) : (s.updPort n f).mem = s.mem := rfl
@[simp] theorem State.updPort_sys (s : State) (n : Nat) (f : NfcPort → NfcPort) : (s.updPort n f).sys = s.sys := rfl
@[simp] theorem State.updPort_twin (s : State) (n : Nat) (f : NfcPort → NfcPort) : (s.updPort n f).twin = s.twin := rfl
@[simp] theorem State.updPort_reg (s : State) (n : Nat) (f : NfcPort → NfcPort) (o : Nat) : (s.updPort n f).reg o = s.reg o := rfl
@[simp] theorem State.updPort_fld (s : State) (n : Nat) (f : NfcPort → NfcPort) (g : Fld) : (s.updPort n f).fld g = s.fld g := rfl
@[simp] theorem State.updPort_flag (s : State) (n : Nat) (f : NfcPort → NfcPort) (g : Fld) : (s.updPort n f).flag g = s.flag g := rfl

@[simp] theorem State.updTag_pending (s : State) (f : TagSt → TagSt) : (s.updTag f).pending = s.pending := rfl
@[simp] theorem State.updTag_regs (s : State) (f : TagSt → TagSt) : (s.updTag f).regs = s.regs := rfl
@[simp] theorem State.updTag_log (s : State) (f : TagSt → TagSt) : (s.updTag f).log = s.log := rfl
@[simp] theorem State.updTag_timers (s : State) (f : TagSt → TagSt) : (s.updTag f).timers = s.timers := rfl
@[simp] theorem State.updTag_hostRead (s : State) (f : TagSt → TagSt) : (s.updTag f).hostRead = s.hostRead := rfl
@[simp] theorem State.updTag_fresh (s : State) (f : TagSt → TagSt) : (s.updTag f).fresh = s.fresh := rfl
@[simp] theorem State.updTag_glb (s : State) (f : TagSt → TagSt) : (s.updTag f).glb = s.glb := rfl
@[simp] theorem State.updTag_tim (s : State) (f : TagSt → TagSt) : (s.updTag f).tim = s.tim := rfl
@[simp] theorem State.updTag_links (s : State) (f : TagSt → TagSt) : (s.updTag f).links = s.links := rfl
@[simp] theorem State.updTag_linkc (s : State) (f : TagSt → TagSt) : (s.updTag f).linkc = s.linkc := rfl
@[simp] theorem State.updTag_ces (s : State) (f : TagSt → TagSt) : (s.updTag f).ces = s.ces := rfl
@[simp] theorem State.updTag_sh (s : State) (f : TagSt → TagSt) : (s.updTag f).sh = s.sh := rfl
@[simp] theorem State.updTag_veh (s : State) (f : TagSt → TagSt) : (s.updTag f).veh = s.veh := rfl
@[simp] theorem State.updTag_vehc (s : State) (f : TagSt → TagSt) : (s.updTag f).vehc = s.vehc := rfl
@[simp] theorem State.updTag_met (s : State) (f : TagSt → TagSt) : (s.updTag f).met = s.met := rfl
@[simp] theorem State.updTag_leg (s : State) (f : TagSt → TagSt) : (s.updTag f).leg = s.leg := rfl
@[simp] theorem State.updTag_isl (s : State) (f : TagSt → TagSt) : (s.updTag f).isl = s.isl := rfl
@[simp] theorem State.updTag_ps (s : State) (f : TagSt → TagSt) : (s.updTag f).ps = s.ps := rfl
@[simp] theorem State.updTag_pnl (s : State) (f : TagSt → TagSt) : (s.updTag f).pnl = s.pnl := rfl
@[simp] theorem State.updTag_nfc (s : State) (f : TagSt → TagSt) : (s.updTag f).nfc = s.nfc := rfl
@[simp] theorem State.updTag_tag (s : State) (f : TagSt → TagSt) : (s.updTag f).tag = f s.tag := rfl
@[simp] theorem State.updTag_ml (s : State) (f : TagSt → TagSt) : (s.updTag f).ml = s.ml := rfl
@[simp] theorem State.updTag_host (s : State) (f : TagSt → TagSt) : (s.updTag f).host = s.host := rfl
@[simp] theorem State.updTag_keys (s : State) (f : TagSt → TagSt) : (s.updTag f).keys = s.keys := rfl
@[simp] theorem State.updTag_mem (s : State) (f : TagSt → TagSt) : (s.updTag f).mem = s.mem := rfl
@[simp] theorem State.updTag_sys (s : State) (f : TagSt → TagSt) : (s.updTag f).sys = s.sys := rfl
@[simp] theorem State.updTag_twin (s : State) (f : TagSt → TagSt) : (s.updTag f).twin = s.twin := rfl
@[simp] theorem State.updTag_reg (s : State) (f : TagSt → TagSt) (o : Nat) : (s.updTag f).reg o = s.reg o := rfl
@[simp] theorem State.updTag_fld (s : State) (f : TagSt → TagSt) (g : Fld) : (s.updTag f).fld g = s.fld g := rfl
@[simp] theorem State.updTag_flag (s : State) (f : TagSt → TagSt) (g : Fld) : (s.updTag f).flag g = s.flag g := rfl

@[simp] theorem State.updMl_pending (s : State) (f : MlSt → MlSt) : (s.updMl f).pending = s.pending := rfl
@[simp] theorem State.updMl_regs (s : State) (f : MlSt → MlSt) : (s.updMl f).regs = s.regs := rfl
@[simp] theorem State.updMl_log (s : State) (f : MlSt → MlSt) : (s.updMl f).log = s.log := rfl
@[simp] theorem State.updMl_timers (s : State) (f : MlSt → MlSt) : (s.updMl f).timers = s.timers := rfl
@[simp] theorem State.updMl_hostRead (s : State) (f : MlSt → MlSt) : (s.updMl f).hostRead = s.hostRead := rfl
@[simp] theorem State.updMl_fresh (s : State) (f : MlSt → MlSt) : (s.updMl f).fresh = s.fresh := rfl
@[simp] theorem State.updMl_glb (s : State) (f : MlSt → MlSt) : (s.updMl f).glb = s.glb := rfl
@[simp] theorem State.updMl_tim (s : State) (f : MlSt → MlSt) : (s.updMl f).tim = s.tim := rfl
@[simp] theorem State.updMl_links (s : State) (f : MlSt → MlSt) : (s.updMl f).links = s.links := rfl
@[simp] theorem State.updMl_linkc (s : State) (f : MlSt → MlSt) : (s.updMl f).linkc = s.linkc := rfl
@[simp] theorem State.updMl_ces (s : State) (f : MlSt → MlSt) : (s.updMl f).ces = s.ces := rfl
@[simp] theorem State.updMl_sh (s : State) (f : MlSt → MlSt) : (s.updMl f).sh = s.sh := rfl
@[simp] theorem State.updMl_veh (s : State) (f : MlSt → MlSt) : (s.updMl f).veh = s.veh := rfl
@[simp] theorem State.updMl_vehc (s : State) (f : MlSt → MlSt) : (s.updMl f).vehc = s.vehc := rfl
@[simp] theorem State.updMl_met (s : State) (f : MlSt → MlSt) : (s.updMl f).met = s.met := rfl
@[simp] theorem State.updMl_leg (s : State) (f : MlSt → MlSt) : (s.updMl f).leg = s.leg := rfl
@[simp] theorem State.updMl_isl (s : State) (f : MlSt → MlSt) : (s.updMl f).isl = s.isl := rfl
@[simp] theorem State.updMl_ps (s : State) (f : MlSt → MlSt) : (s.updMl f).ps = s.ps := rfl
@[simp] theorem State.updMl_pnl (s : State) (f : MlSt → MlSt) : (s.updMl f).pnl = s.pnl := rfl
@[simp] theorem State.updMl_nfc (s : State) (f : MlSt → MlSt) : (s.updMl f).nfc = s.nfc := rfl
@[simp] theorem State.updMl_tag (s : State) (f : MlSt → MlSt) : (s.updMl f).tag = s.tag := rfl
@[simp] theorem State.updMl_ml (s : State) (f : MlSt → MlSt) : (s.updMl f).ml = f s.ml := rfl
@[simp] theorem State.updMl_host (s : State) (f : MlSt → MlSt) : (s.updMl f).host = s.host := rfl
@[simp] theorem State.updMl_keys (s : State) (f : MlSt → MlSt) : (s.updMl f).keys = s.keys := rfl
@[simp] theorem State.updMl_mem (s : State) (f : MlSt → MlSt) : (s.updMl f).mem = s.mem := rfl
@[simp] theorem State.updMl_sys (s : State) (f : MlSt → MlSt) : (s.updMl f).sys = s.sys := rfl
@[simp] theorem State.updMl_twin (s : State) (f : MlSt → MlSt) : (s.updMl f).twin = s.twin := rfl
@[simp] theorem State.updMl_reg (s : State) (f : MlSt → MlSt) (o : Nat) : (s.updMl f).reg o = s.reg o := rfl
@[simp] theorem State.updMl_fld (s : State) (f : MlSt → MlSt) (g : Fld) : (s.updMl f).fld g = s.fld g := rfl
@[simp] theorem State.updMl_flag (s : State) (f : MlSt → MlSt) (g : Fld) : (s.updMl f).flag g = s.flag g := rfl

@[simp] theorem State.updHost_pending (s : State) (f : HostSt → HostSt) : (s.updHost f).pending = s.pending := rfl
@[simp] theorem State.updHost_regs (s : State) (f : HostSt → HostSt) : (s.updHost f).regs = s.regs := rfl
@[simp] theorem State.updHost_log (s : State) (f : HostSt → HostSt) : (s.updHost f).log = s.log := rfl
@[simp] theorem State.updHost_timers (s : State) (f : HostSt → HostSt) : (s.updHost f).timers = s.timers := rfl
@[simp] theorem State.updHost_hostRead (s : State) (f : HostSt → HostSt) : (s.updHost f).hostRead = s.hostRead := rfl
@[simp] theorem State.updHost_fresh (s : State) (f : HostSt → HostSt) : (s.updHost f).fresh = s.fresh := rfl
@[simp] theorem State.updHost_glb (s : State) (f : HostSt → HostSt) : (s.updHost f).glb = s.glb := rfl
@[simp] theorem State.updHost_tim (s : State) (f : HostSt → HostSt) : (s.updHost f).tim = s.tim := rfl
@[simp] theorem State.updHost_links (s : State) (f : HostSt → HostSt) : (s.updHost f).links = s.links := rfl
@[simp] theorem State.updHost_linkc (s : State) (f : HostSt → HostSt) : (s.updHost f).linkc = s.linkc := rfl
@[simp] theorem State.updHost_ces (s : State) (f : HostSt → HostSt) : (s.updHost f).ces = s.ces := rfl
@[simp] theorem State.updHost_sh (s : State) (f : HostSt → HostSt) : (s.updHost f).sh = s.sh := rfl
@[simp] theorem State.updHost_veh (s : State) (f : HostSt → HostSt) : (s.updHost f).veh = s.veh := rfl
@[simp] theorem State.updHost_vehc (s : State) (f : HostSt → HostSt) : (s.updHost f).vehc = s.vehc := rfl
@[simp] theorem State.updHost_met (s : State) (f : HostSt → HostSt) : (s.updHost f).met = s.met := rfl
@[simp] theorem State.updHost_leg (s : State) (f : HostSt → HostSt) : (s.updHost f).leg = s.leg := rfl
@[simp] theorem State.updHost_isl (s : State) (f : HostSt → HostSt) : (s.updHost f).isl = s.isl := rfl
@[simp] theorem State.updHost_ps (s : State) (f : HostSt → HostSt) : (s.updHost f).ps = s.ps := rfl
@[simp] theorem State.updHost_pnl (s : State) (f : HostSt → HostSt) : (s.updHost f).pnl = s.pnl := rfl
@[simp] theorem State.updHost_nfc (s : State) (f : HostSt → HostSt) : (s.updHost f).nfc = s.nfc := rfl
@[simp] theorem State.updHost_tag (s : State) (f : HostSt → HostSt) : (s.updHost f).tag = s.tag := rfl
@[simp] theorem State.updHost_ml (s : State) (f : HostSt → HostSt) : (s.updHost f).ml = s.ml := rfl
@[simp] theorem State.updHost_host (s : State) (f : HostSt → HostSt) : (s.updHost f).host = f s.host := rfl
@[simp] theorem State.updHost_keys (s : State) (f : HostSt → HostSt) : (s.updHost f).keys = s.keys := rfl
@[simp] theorem State.updHost_mem (s : State) (f : HostSt → HostSt) : (s.updHost f).mem = s.mem := rfl
@[simp] theorem State.updHost_sys (s : State) (f : HostSt → HostSt) : (s.updHost f).sys = s.sys := rfl
@[simp] theorem State.updHost_twin (s : State) (f : HostSt → HostSt) : (s.updHost f).twin = s.twin := rfl
@[simp] theorem State.updHost_reg (s : State) (f : HostSt → HostSt) (o : Nat) : (s.updHost f).reg o = s.reg o := rfl
@[simp] theorem State.updHost_fld (s : State) (f : HostSt → HostSt) (g : Fld) : (s.updHost f).fld g = s.fld g := rfl
@[simp] theorem State.updHost_flag (s : State) (f : HostSt → HostSt) (g : Fld) : (s.updHost f).flag g = s.flag g := rfl

@[simp] theorem State.updKeys_pending (s : State) (f : KeySt → KeySt) : (s.updKeys f).pending = s.pending := rfl
@[simp] theorem State.updKeys_regs (s : State) (f : KeySt → KeySt) : (s.updKeys f).regs = s.regs := rfl
@[simp] theorem State.updKeys_log (s : State) (f : KeySt → KeySt) : (s.updKeys f).log = s.log := rfl
@[simp] theorem State.updKeys_timers (s : State) (f : KeySt → KeySt) : (s.updKeys f).timers = s.timers := rfl
@[simp] theorem State.updKeys_hostRead (s : State) (f : KeySt → KeySt) : (s.updKeys f).hostRead = s.hostRead := rfl
@[simp] theorem State.updKeys_fresh (s : State) (f : KeySt → KeySt) : (s.updKeys f).fresh = s.fresh := rfl
@[simp] theorem State.updKeys_glb (s : State) (f : KeySt → KeySt) : (s.updKeys f).glb = s.glb := rfl
@[simp] theorem State.updKeys_tim (s : State) (f : KeySt → KeySt) : (s.updKeys f).tim = s.tim := rfl
@[simp] theorem State.updKeys_links (s : State) (f : KeySt → KeySt) : (s.updKeys f).links = s.links := rfl
@[simp] theorem State.updKeys_linkc (s : State) (f : KeySt → KeySt) : (s.updKeys f).linkc = s.linkc := rfl
@[simp] theorem State.updKeys_ces (s : State) (f : KeySt → KeySt) : (s.updKeys f).ces = s.ces := rfl
@[simp] theorem State.updKeys_sh (s : State) (f : KeySt → KeySt) : (s.updKeys f).sh = s.sh := rfl
@[simp] theorem State.updKeys_veh (s : State) (f : KeySt → KeySt) : (s.updKeys f).veh = s.veh := rfl
@[simp] theorem State.updKeys_vehc (s : State) (f : KeySt → KeySt) : (s.updKeys f).vehc = s.vehc := rfl
@[simp] theorem State.updKeys_met (s : State) (f : KeySt → KeySt) : (s.updKeys f).met = s.met := rfl
@[simp] theorem State.updKeys_leg (s : State) (f : KeySt → KeySt) : (s.updKeys f).leg = s.leg := rfl
@[simp] theorem State.updKeys_isl (s : State) (f : KeySt → KeySt) : (s.updKeys f).isl = s.isl := rfl
@[simp] theorem State.updKeys_ps (s : State) (f : KeySt → KeySt) : (s.updKeys f).ps = s.ps := rfl
@[simp] theorem State.updKeys_pnl (s : State) (f : KeySt → KeySt) : (s.updKeys f).pnl = s.pnl := rfl
@[simp] theorem State.updKeys_nfc (s : State) (f : KeySt → KeySt) : (s.updKeys f).nfc = s.nfc := rfl
@[simp] theorem State.updKeys_tag (s : State) (f : KeySt → KeySt) : (s.updKeys f).tag = s.tag := rfl
@[simp] theorem State.updKeys_ml (s : State) (f : KeySt → KeySt) : (s.updKeys f).ml = s.ml := rfl
@[simp] theorem State.updKeys_host (s : State) (f : KeySt → KeySt) : (s.updKeys f).host = s.host := rfl
@[simp] theorem State.updKeys_keys (s : State) (f : KeySt → KeySt) : (s.updKeys f).keys = f s.keys := rfl
@[simp] theorem State.updKeys_mem (s : State) (f : KeySt → KeySt) : (s.updKeys f).mem = s.mem := rfl
@[simp] theorem State.updKeys_sys (s : State) (f : KeySt → KeySt) : (s.updKeys f).sys = s.sys := rfl
@[simp] theorem State.updKeys_twin (s : State) (f : KeySt → KeySt) : (s.updKeys f).twin = s.twin := rfl
@[simp] theorem State.updKeys_reg (s : State) (f : KeySt → KeySt) (o : Nat) : (s.updKeys f).reg o = s.reg o := rfl
@[simp] theorem State.updKeys_fld (s : State) (f : KeySt → KeySt) (g : Fld) : (s.updKeys f).fld g = s.fld g := rfl
@[simp] theorem State.updKeys_flag (s : State) (f : KeySt → KeySt) (g : Fld) : (s.updKeys f).flag g = s.flag g := rfl

@[simp] theorem State.updMem_pending (s : State) (f : MemSt → MemSt) : (s.updMem f).pending = s.pending := rfl
@[simp] theorem State.updMem_regs (s : State) (f : MemSt → MemSt) : (s.updMem f).regs = s.regs := rfl
@[simp] theorem State.updMem_log (s : State) (f : MemSt → MemSt) : (s.updMem f).log = s.log := rfl
@[simp] theorem State.updMem_timers (s : State) (f : MemSt → MemSt) : (s.updMem f).timers = s.timers := rfl
@[simp] theorem State.updMem_hostRead (s : State) (f : MemSt → MemSt) : (s.updMem f).hostRead = s.hostRead := rfl
@[simp] theorem State.updMem_fresh (s : State) (f : MemSt → MemSt) : (s.updMem f).fresh = s.fresh := rfl
@[simp] theorem State.updMem_glb (s : State) (f : MemSt → MemSt) : (s.updMem f).glb = s.glb := rfl
@[simp] theorem State.updMem_tim (s : State) (f : MemSt → MemSt) : (s.updMem f).tim = s.tim := rfl
@[simp] theorem State.updMem_links (s : State) (f : MemSt → MemSt) : (s.updMem f).links = s.links := rfl
@[simp] theorem State.updMem_linkc (s : State) (f : MemSt → MemSt) : (s.updMem f).linkc = s.linkc := rfl
@[simp] theorem State.updMem_ces (s : State) (f : MemSt → MemSt) : (s.updMem f).ces = s.ces := rfl
@[simp] theorem State.updMem_sh (s : State) (f : MemSt → MemSt) : (s.updMem f).sh = s.sh := rfl
@[simp] theorem State.updMem_veh (s : State) (f : MemSt → MemSt) : (s.updMem f).veh = s.veh := rfl
@[simp] theorem State.updMem_vehc (s : State) (f : MemSt → MemSt) : (s.updMem f).vehc = s.vehc := rfl
@[simp] theorem State.updMem_met (s : State) (f : MemSt → MemSt) : (s.updMem f).met = s.met := rfl
@[simp] theorem State.updMem_leg (s : State) (f : MemSt → MemSt) : (s.updMem f).leg = s.leg := rfl
@[simp] theorem State.updMem_isl (s : State) (f : MemSt → MemSt) : (s.updMem f).isl = s.isl := rfl
@[simp] theorem State.updMem_ps (s : State) (f : MemSt → MemSt) : (s.updMem f).ps = s.ps := rfl
@[simp] theorem State.updMem_pnl (s : State) (f : MemSt → MemSt) : (s.updMem f).pnl = s.pnl := rfl
@[simp] theorem State.updMem_nfc (s : State) (f : MemSt → MemSt) : (s.updMem f).nfc = s.nfc := rfl
@[simp] theorem State.updMem_tag (s : State) (f : MemSt → MemSt) : (s.updMem f).tag = s.tag := rfl
@[simp] theorem State.updMem_ml (s : State) (f : MemSt → MemSt) : (s.updMem f).ml = s.ml := rfl
@[simp] theorem State.updMem_host (s : State) (f : MemSt → MemSt) : (s.updMem f).host = s.host := rfl
@[simp] theorem State.updMem_keys (s : State) (f : MemSt → MemSt) : (s.updMem f).keys = s.keys := rfl
@[simp] theorem State.updMem_mem (s : State) (f : MemSt → MemSt) : (s.updMem f).mem = f s.mem := rfl
@[simp] theorem State.updMem_sys (s : State) (f : MemSt → MemSt) : (s.updMem f).sys = s.sys := rfl
@[simp] theorem State.updMem_twin (s : State) (f : MemSt → MemSt) : (s.updMem f).twin = s.twin := rfl
@[simp] theorem State.updMem_reg (s : State) (f : MemSt → MemSt) (o : Nat) : (s.updMem f).reg o = s.reg o := rfl
@[simp] theorem State.updMem_fld (s : State) (f : MemSt → MemSt) (g : Fld) : (s.updMem f).fld g = s.fld g := rfl
@[simp] theorem State.updMem_flag (s : State) (f : MemSt → MemSt) (g : Fld) : (s.updMem f).flag g = s.flag g := rfl

@[simp] theorem State.updSys_pending (s : State) (f : SysSt → SysSt) : (s.updSys f).pending = s.pending := rfl
@[simp] theorem State.updSys_regs (s : State) (f : SysSt → SysSt) : (s.updSys f).regs = s.regs := rfl
@[simp] theorem State.updSys_log (s : State) (f : SysSt → SysSt) : (s.updSys f).log = s.log := rfl
@[simp] theorem State.updSys_timers (s : State) (f : SysSt → SysSt) : (s.updSys f).timers = s.timers := rfl
@[simp] theorem State.updSys_hostRead (s : State) (f : SysSt → SysSt) : (s.updSys f).hostRead = s.hostRead := rfl
@[simp] theorem State.updSys_fresh (s : State) (f : SysSt → SysSt) : (s.updSys f).fresh = s.fresh := rfl
@[simp] theorem State.updSys_glb (s : State) (f : SysSt → SysSt) : (s.updSys f).glb = s.glb := rfl
@[simp] theorem State.updSys_tim (s : State) (f : SysSt → SysSt) : (s.updSys f).tim = s.tim := rfl
@[simp] theorem State.updSys_links (s : State) (f : SysSt → SysSt) : (s.updSys f).links = s.links := rfl
@[simp] theorem State.updSys_linkc (s : State) (f : SysSt → SysSt) : (s.updSys f).linkc = s.linkc := rfl
@[simp] theorem State.updSys_ces (s : State) (f : SysSt → SysSt) : (s.updSys f).ces = s.ces := rfl
@[simp] theorem State.updSys_sh (s : State) (f : SysSt → SysSt) : (s.updSys f).sh = s.sh := rfl
@[simp] theorem State.updSys_veh (s : State) (f : SysSt → SysSt) : (s.updSys f).veh = s.veh := rfl
@[simp] theorem State.updSys_vehc (s : State) (f : SysSt → SysSt) : (s.updSys f).vehc = s.vehc := rfl
@[simp] theorem State.updSys_met (s : State) (f : SysSt → SysSt) : (s.updSys f).met = s.met := rfl
@[simp] theorem State.updSys_leg (s : State) (f : SysSt → SysSt) : (s.updSys f).leg = s.leg := rfl
@[simp] theorem State.updSys_isl (s : State) (f : SysSt → SysSt) : (s.updSys f).isl = s.isl := rfl
@[simp] theorem State.updSys_ps (s : State) (f : SysSt → SysSt) : (s.updSys f).ps = s.ps := rfl
@[simp] theorem State.updSys_pnl (s : State) (f : SysSt → SysSt) : (s.updSys f).pnl = s.pnl := rfl
@[simp] theorem State.updSys_nfc (s : State) (f : SysSt → SysSt) : (s.updSys f).nfc = s.nfc := rfl
@[simp] theorem State.updSys_tag (s : State) (f : SysSt → SysSt) : (s.updSys f).tag = s.tag := rfl
@[simp] theorem State.updSys_ml (s : State) (f : SysSt → SysSt) : (s.updSys f).ml = s.ml := rfl
@[simp] theorem State.updSys_host (s : State) (f : SysSt → SysSt) : (s.updSys f).host = s.host := rfl
@[simp] theorem State.updSys_keys (s : State) (f : SysSt → SysSt) : (s.updSys f).keys = s.keys := rfl
@[simp] theorem State.updSys_mem (s : State) (f : SysSt → SysSt) : (s.updSys f).mem = s.mem := rfl
@[simp] theorem State.updSys_sys (s : State) (f : SysSt → SysSt) : (s.updSys f).sys = f s.sys := rfl
@[simp] theorem State.updSys_twin (s : State) (f : SysSt → SysSt) : (s.updSys f).twin = s.twin := rfl
@[simp] theorem State.updSys_reg (s : State) (f : SysSt → SysSt) (o : Nat) : (s.updSys f).reg o = s.reg o := rfl
@[simp] theorem State.updSys_fld (s : State) (f : SysSt → SysSt) (g : Fld) : (s.updSys f).fld g = s.fld g := rfl
@[simp] theorem State.updSys_flag (s : State) (f : SysSt → SysSt) (g : Fld) : (s.updSys f).flag g = s.flag g := rfl

@[simp] theorem State.updTwin_pending (s : State) (f : TwinSt → TwinSt) : (s.updTwin f).pending = s.pending := rfl
@[simp] theorem State.updTwin_regs (s : State) (f : TwinSt → TwinSt) : (s.updTwin f).regs = s.regs := rfl
@[simp] theorem State.updTwin_log (s : State) (f : TwinSt → TwinSt) : (s.updTwin f).log = s.log := rfl
@[simp] theorem State.updTwin_timers (s : State) (f : TwinSt → TwinSt) : (s.updTwin f).timers = s.timers := rfl
@[simp] theorem State.updTwin_hostRead (s : State) (f : TwinSt → TwinSt) : (s.updTwin f).hostRead = s.hostRead := rfl
@[simp] theorem State.updTwin_fresh (s : State) (f : TwinSt → TwinSt) : (s.updTwin f).fresh = s.fresh := rfl
@[simp] theorem State.updTwin_glb (s : State) (f : TwinSt → TwinSt) : (s.updTwin f).glb = s.glb := rfl
@[simp] theorem State.updTwin_tim (s : State) (f : TwinSt → TwinSt) : (s.updTwin f).tim = s.tim := rfl
@[simp] theorem State.updTwin_links (s : State) (f : TwinSt → TwinSt) : (s.updTwin f).links = s.links := rfl
@[simp] theorem State.updTwin_linkc (s : State) (f : TwinSt → TwinSt) : (s.updTwin f).linkc = s.linkc := rfl
@[simp] theorem State.updTwin_ces (s : State) (f : TwinSt → TwinSt) : (s.updTwin f).ces = s.ces := rfl
@[simp] theorem State.updTwin_sh (s : State) (f : TwinSt → TwinSt) : (s.updTwin f).sh = s.sh := rfl
@[simp] theorem State.updTwin_veh (s : State) (f : TwinSt → TwinSt) : (s.updTwin f).veh = s.veh := rfl
@[simp] theorem State.updTwin_vehc (s : State) (f : TwinSt → TwinSt) : (s.updTwin f).vehc = s.vehc := rfl
@[simp] theorem State.updTwin_met (s : State) (f : TwinSt → TwinSt) : (s.updTwin f).met = s.met := rfl
@[simp] theorem State.updTwin_leg (s : State) (f : TwinSt → TwinSt) : (s.updTwin f).leg = s.leg := rfl
@[simp] theorem State.updTwin_isl (s : State) (f : TwinSt → TwinSt) : (s.updTwin f).isl = s.isl := rfl
@[simp] theorem State.updTwin_ps (s : State) (f : TwinSt → TwinSt) : (s.updTwin f).ps = s.ps := rfl
@[simp] theorem State.updTwin_pnl (s : State) (f : TwinSt → TwinSt) : (s.updTwin f).pnl = s.pnl := rfl
@[simp] theorem State.updTwin_nfc (s : State) (f : TwinSt → TwinSt) : (s.updTwin f).nfc = s.nfc := rfl
@[simp] theorem State.updTwin_tag (s : State) (f : TwinSt → TwinSt) : (s.updTwin f).tag = s.tag := rfl
@[simp] theorem State.updTwin_ml (s : State) (f : TwinSt → TwinSt) : (s.updTwin f).ml = s.ml := rfl
@[simp] theorem State.updTwin_host (s : State) (f : TwinSt → TwinSt) : (s.updTwin f).host = s.host := rfl
@[simp] theorem State.updTwin_keys (s : State) (f : TwinSt → TwinSt) : (s.updTwin f).keys = s.keys := rfl
@[simp] theorem State.updTwin_mem (s : State) (f : TwinSt → TwinSt) : (s.updTwin f).mem = s.mem := rfl
@[simp] theorem State.updTwin_sys (s : State) (f : TwinSt → TwinSt) : (s.updTwin f).sys = s.sys := rfl
@[simp] theorem State.updTwin_twin (s : State) (f : TwinSt → TwinSt) : (s.updTwin f).twin = f s.twin := rfl
@[simp] theorem State.updTwin_reg (s : State) (f : TwinSt → TwinSt) (o : Nat) : (s.updTwin f).reg o = s.reg o := rfl
@[simp] theorem State.updTwin_fld (s : State) (f : TwinSt → TwinSt) (g : Fld) : (s.updTwin f).fld g = s.fld g := rfl
@[simp] theorem State.updTwin_flag (s : State) (f : TwinSt → TwinSt) (g : Fld) : (s.updTwin f).flag g = s.flag g := rfl

@[simp] theorem State.event_pending (s : State) (c : Nat) (d : List Nat) : (s.event c d).pending = s.pending :=
  (State.event_only (m := 1030) (State.OnlyM.refl s _) rfl c d).same .pending rfl
@[simp] theorem State.event_timers (s : State) (c : Nat) (d : List Nat) : (s.event c d).timers = s.timers :=
  (State.event_only (m := 1030) (State.OnlyM.refl s _) rfl c d).same .timers rfl
@[simp] theorem State.event_hostRead (s : State) (c : Nat) (d : List Nat) : (s.event c d).hostRead = s.hostRead :=
  (State.event_only (m := 1030) (State.OnlyM.refl s _) rfl c d).same .hostRead rfl
@[simp] theorem State.event_fresh (s : State) (c : Nat) (d : List Nat) : (s.event c d).fresh = s.fresh :=
  (State.event_only (m := 1030) (State.OnlyM.refl s _) rfl c d).same .fresh rfl
@[simp] theorem State.event_glb (s : State) (c : Nat) (d : List Nat) : (s.event c d).glb = s.glb :=
  (State.event_only (m := 1030) (State.OnlyM.refl s _) rfl c d).same .glb rfl
@[simp] theorem State.event_tim (s : State) (c : Nat) (d : List Nat) : (s.event c d).tim = s.tim :=
  (State.event_only (m := 1030) (State.OnlyM.refl s _) rfl c d).same .tim rfl
@[simp] theorem State.event_links (s : State) (c : Nat) (d : List Nat) : (s.event c d).links = s.links :=
  (State.event_only (m := 1030) (State.OnlyM.refl s _) rfl c d).same .links rfl
@[simp] theorem State.event_linkc (s : State) (c : Nat) (d : List Nat) : (s.event c d).linkc = s.linkc :=
  (State.event_only (m := 1030) (State.OnlyM.refl s _) rfl c d).same .linkc rfl
@[simp] theorem State.event_sh (s : State) (c : Nat) (d : List Nat) : (s.event c d).sh = s.sh :=
  (State.event_only (m := 1030) (State.OnlyM.refl s _) rfl c d).same .sh rfl
@[simp] theorem State.event_veh (s : State) (c : Nat) (d : List Nat) : (s.event c d).veh = s.veh :=
  (State.event_only (m := 1030) (State.OnlyM.refl s _) rfl c d).same .veh rfl
@[simp] theorem State.event_vehc (s : State) (c : Nat) (d : List Nat) : (s.event c d).vehc = s.vehc :=
  (State.event_only (m := 1030) (State.OnlyM.refl s _) rfl c d).same .vehc rfl
@[simp] theorem State.event_met (s : State) (c : Nat) (d : List Nat) : (s.event c d).met = s.met :=
  (State.event_only (m := 1030) (State.OnlyM.refl s _) rfl c d).same .met rfl
@[simp] theorem State.event_leg (s : State) (c : Nat) (d : List Nat) : (s.event c d).leg = s.leg :=
  (State.event_only (m := 1030) (State.OnlyM.refl s _) rfl c d).same .leg rfl
@[simp] theorem State.event_isl (s : State) (c : Nat) (d : List Nat) : (s.event c d).isl = s.isl :=
  (State.event_only (m := 1030) (State.OnlyM.refl s _) rfl c d).same .isl rfl
@[simp] theorem State.event_ps (s : State) (c : Nat) (d : List Nat) : (s.event c d).ps = s.ps :=
  (State.event_only (m := 1030) (State.OnlyM.refl s _) rfl c d).same .ps rfl
@[simp] theorem State.event_pnl (s : State) (c : Nat) (d : List Nat) : (s.event c d).pnl = s.pnl :=
  (State.event_only (m := 1030) (State.OnlyM.refl s _) rfl c d).same .pnl rfl
@[simp] theorem State.event_nfc (s : State) (c : Nat) (d : List Nat) : (s.event c d).nfc = s.nfc :=
  (State.event_only (m := 1030) (State.OnlyM.refl s _) rfl c d).same .nfc rfl
@[simp] theorem State.event_tag (s : State) (c : Nat) (d : List Nat) : (s.event c d).tag = s.tag :=
  (State.event_only (m := 1030) (State.OnlyM.refl s _) rfl c d).same .tag rfl
@[simp] theorem State.event_ml (s : State) (c : Nat) (d : List Nat) : (s.event c d).ml = s.ml :=
  (State.event_only (m := 1030) (State.OnlyM.refl s _) rfl c d).same .ml rfl
@[simp] theorem State.event_host (s : State) (c : Nat) (d : List Nat) : (s.event c d).host = s.host :=
  (State.event_only (m := 1030) (State.OnlyM.refl s _) rfl c d).same .host rfl
@[simp] theorem State.event_keys (s : State) (c : Nat) (d : List Nat) : (s.event c d).keys = s.keys :=
  (State.event_only (m := 1030) (State.OnlyM.refl s _) rfl c d).same .keys rfl
@[simp] theorem State.event_mem (s : State) (c : Nat) (d : List Nat) : (s.event c d).mem = s.mem :=
  (State.event_only (m := 1030) (State.OnlyM.refl s _) rfl c d).same .mem rfl
@[simp] theorem State.event_sys (s : State) (c : Nat) (d : List Nat) : (s.event c d).sys = s.sys :=
  (State.event_only (m := 1030) (State.OnlyM.refl s _) rfl c d).same .sys rfl
@[simp] theorem State.event_twin (s : State) (c : Nat) (d : List Nat) : (s.event c d).twin = s.twin :=
  (State.event_only (m := 1030) (State.OnlyM.refl s _) rfl c d).same .twin rfl

end Sys2Proof.Machine
end

