-- ==== Sys2Proof/Laws/Registers.lean ====
section
/-!
SUPPORT. Reading a register or a field after a write of a register or a field: at the place written, elsewhere, and through an
event.
-/

namespace Sys2Proof.Machine

open Sys2Proof

theorem State.wf_of_keeps {s t : State} (h : s.Keeps t) (hw : s.wf = true) : t.wf = true := h.wf hw

theorem State.setReg_wf {s : State} (hw : s.wf = true) (off : Nat) (w : Word) : (s.setReg off w).wf = true :=
  (State.setReg_keeps (State.Keeps.refl s) off w).wf hw

theorem State.setFld_wf {s : State} (hw : s.wf = true) (f : Fld) (v : Nat) : (s.setFld f v).wf = true := State.setReg_wf hw _ _

theorem State.event_wf {s : State} (hw : s.wf = true) (c : Nat) (d : List Nat) : (s.event c d).wf = true :=
  (State.eventN_keeps 16 (State.Keeps.refl s) c d).wf hw

/-- A register after a write of a register. -/
theorem State.reg_setReg {s : State} (hw : s.wf = true) (off o : Nat) (w : Word) :
    (s.setReg off w).reg o = if o = off then w else s.reg o := by
  simp only [State.wf, Bool.and_eq_true] at hw
  exact Sparse.get_put regReset off w o s.regs none hw.1.1

theorem State.reg_setFld_ne {s : State} (hw : s.wf = true) (f : Fld) (v : Nat) {o : Nat} (h : o ≠ f.reg) :
    (s.setFld f v).reg o = s.reg o := by
  rw [State.setFld, State.reg_setReg hw, if_neg h]

theorem State.fld_setFld_ne {s : State} (hw : s.wf = true) (f g : Fld) (v : Nat) (h : g.reg ≠ f.reg) :
    (s.setFld f v).fld g = s.fld g := by
  rw [State.fld, State.reg_setFld_ne hw f v h, State.fld]

/-- The bits of a word with a field replaced. -/
theorem putBits_toNat (w : Word) {m l : Nat} (v : Nat) (h : l ≤ m) (hm : m < 32) :
    (putBits w m l v).toNat
      = w.toNat % 2 ^ l + v % 2 ^ (m + 1 - l) * 2 ^ l + w.toNat / 2 ^ (m + 1) * 2 ^ (m + 1) := by
  rw [putBits, BitVec.toNat_ofNat]
  apply Nat.mod_eq_of_lt
  have h1 : w.toNat % 2 ^ l < 2 ^ l := Nat.mod_lt _ (Nat.two_pow_pos _)
  have h2 : v % 2 ^ (m + 1 - l) < 2 ^ (m + 1 - l) := Nat.mod_lt _ (Nat.two_pow_pos _)
  have h3 : 2 ^ (m + 1 - l) * 2 ^ l = 2 ^ (m + 1) := by rw [← Nat.pow_add]; congr 1; omega
  have h4 : 2 ^ 32 = 2 ^ (m + 1) * 2 ^ (32 - (m + 1)) := by rw [← Nat.pow_add]; congr 1; omega
  have h5 : w.toNat / 2 ^ (m + 1) < 2 ^ (32 - (m + 1)) := by
    rw [Nat.div_lt_iff_lt_mul (Nat.two_pow_pos _), Nat.mul_comm, ← h4]; exact w.isLt
  have h6 : v % 2 ^ (m + 1 - l) * 2 ^ l + 2 ^ l ≤ 2 ^ (m + 1) := by
    rw [← h3]; nlinarith [Nat.two_pow_pos l]
  have h7 : w.toNat / 2 ^ (m + 1) * 2 ^ (m + 1) + 2 ^ (m + 1) ≤ 2 ^ 32 := by
    rw [h4]; nlinarith [Nat.two_pow_pos (m + 1)]
  omega

/-- A field after a write of it. -/
theorem getBits_putBits (w : Word) {m l : Nat} (v : Nat) (h : l ≤ m) (hm : m < 32) :
    getBits (putBits w m l v) m l = v % 2 ^ (m + 1 - l) := by
  rw [getBits, putBits_toNat w v h hm]
  have h3 : 2 ^ (m + 1) = 2 ^ l * 2 ^ (m + 1 - l) := by rw [← Nat.pow_add]; congr 1; omega
  have h1 : w.toNat % 2 ^ l < 2 ^ l := Nat.mod_lt _ (Nat.two_pow_pos _)
  rw [h3]
  have : w.toNat % 2 ^ l + v % 2 ^ (m + 1 - l) * 2 ^ l + w.toNat / (2 ^ l * 2 ^ (m + 1 - l)) * (2 ^ l * 2 ^ (m + 1 - l))
      = w.toNat % 2 ^ l + 2 ^ l * (v % 2 ^ (m + 1 - l) + 2 ^ (m + 1 - l) * (w.toNat / (2 ^ l * 2 ^ (m + 1 - l)))) := by ring
  rw [this, Nat.add_mul_div_left _ _ (Nat.two_pow_pos l), Nat.div_eq_of_lt h1, Nat.zero_add, Nat.add_mul_mod_self_left, Nat.mod_mod]

theorem State.fld_setFld {s : State} (hw : s.wf = true) (f : Fld) (v : Nat) (h : f.lsb ≤ f.msb) (hm : f.msb < 32) :
    (s.setFld f v).fld f = v % 2 ^ (f.msb + 1 - f.lsb) := by
  rw [State.fld, State.setFld, State.reg_setReg hw, if_pos rfl, getBits_putBits _ _ h hm]

/-- Bits of a word with a field replaced, outside the field. -/
theorem putBits_testBit (w : Word) {m l : Nat} (v i : Nat) (h : l ≤ m) (hm : m < 32) :
    (putBits w m l v).toNat.testBit i
      = if i < l then w.toNat.testBit i else if i ≤ m then v.testBit (i - l) else w.toNat.testBit i := by
  rw [putBits_toNat w v h hm]
  have h1 : w.toNat % 2 ^ l < 2 ^ l := Nat.mod_lt _ (Nat.two_pow_pos _)
  have h3 : 2 ^ (m + 1) = 2 ^ l * 2 ^ (m + 1 - l) := by rw [← Nat.pow_add]; congr 1; omega
  have e : w.toNat % 2 ^ l + v % 2 ^ (m + 1 - l) * 2 ^ l + w.toNat / 2 ^ (m + 1) * 2 ^ (m + 1)
      = 2 ^ l * (2 ^ (m + 1 - l) * (w.toNat / 2 ^ (m + 1)) + v % 2 ^ (m + 1 - l)) + w.toNat % 2 ^ l := by
    rw [h3]; ring
  rw [e, Nat.testBit_two_pow_mul_add _ h1]
  split
  · rw [Nat.testBit_mod_two_pow]; simp_all
  · rw [Nat.testBit_two_pow_mul_add _ (Nat.mod_lt _ (Nat.two_pow_pos _))]
    by_cases hi : i ≤ m
    · rw [if_pos (by omega), if_pos hi, Nat.testBit_mod_two_pow]; simp; omega
    · rw [if_neg (by omega), if_neg hi, Nat.testBit_div_two_pow]; congr 1; omega

/-- A field that lies beside the one written. -/
theorem getBits_putBits_disj (w : Word) {m l m' l' : Nat} (v : Nat) (h : l ≤ m) (hm : m < 32) (hd : m' < l ∨ m < l') :
    getBits (putBits w m l v) m' l' = getBits w m' l' := by
  apply Nat.eq_of_testBit_eq
  intro i
  simp only [getBits, Nat.testBit_mod_two_pow, Nat.testBit_div_two_pow, putBits_testBit w v _ h hm]
  by_cases hi : i < m' + 1 - l'
  · congr 1
    split
    · rfl
    · rw [if_neg (by omega)]
  · simp [hi]

theorem State.fld_setFld_disj {s : State} (hw : s.wf = true) (f g : Fld) (v : Nat) (h : f.lsb ≤ f.msb) (hm : f.msb < 32)
    (hd : g.msb < f.lsb ∨ f.msb < g.lsb) : (s.setFld f v).fld g = s.fld g := by
  by_cases hr : g.reg = f.reg
  · rw [State.fld, State.setFld, State.reg_setReg hw, if_pos hr, getBits_putBits_disj _ _ h hm hd, State.fld, hr]
  · exact State.fld_setFld_ne hw f g v hr

theorem isCupStat_block {o : Nat} (h : o / 0x10000 ≠ 3) : isCupStat o = false := by
  rw [← Bool.not_eq_true, isCupStat, List.contains_iff_mem, List.mem_map]
  rintro ⟨p, hp, rfl⟩
  have : ∀ p ∈ allCups, R_CUP_STAT p.1 p.2 / 0x10000 = 3 := by decide
  exact h (this p hp)

theorem State.cupStart_reg {s : State} (hw : s.wf = true) (c b : Nat) {o : Nat} (h : o ≠ R_CUP_STAT c b) :
    (s.cupStart c b).reg o = s.reg o := by
  rw [State.cupStart]; exact State.reg_setFld_ne hw (CUP_STAT_STATE c b) 3 h

theorem foldl_reg {α : Type} {o : Nat} (l : List α) (f : State → α → State)
    (hf : ∀ s a, a ∈ l → s.wf = true → (f s a).wf = true ∧ (f s a).reg o = s.reg o) :
    ∀ {s : State}, s.wf = true → (l.foldl f s).wf = true ∧ (l.foldl f s).reg o = s.reg o := by
  induction l with
  | nil => intro s hs; exact ⟨hs, rfl⟩
  | cons a l ih =>
    intro s hs
    obtain ⟨h1, h2⟩ := hf s a (by simp) hs
    obtain ⟨h3, h4⟩ := ih (fun s b hb => hf s b (by simp [hb])) h1
    exact ⟨h3, h4.trans h2⟩

theorem State.eventN_reg {o : Nat} (h : isCupStat o = false) :
    ∀ (n : Nat) {s : State} (_ : s.wf = true) (c : Nat) (d : List Nat), (State.eventN n s c d).reg o = s.reg o
  | 0, _, _, _, _ => rfl
  | n + 1, s, hw, c, d => by
    have hw' : (s.logEvent c d).wf = true := hw
    have key : ∀ p ∈ allCups, o ≠ R_CUP_STAT p.1 p.2 := by
      intro p hp he
      simp only [isCupStat, List.contains_iff_mem, ← Bool.not_eq_true, List.mem_map] at h
      exact h ⟨p, hp, he.symm⟩
    refine (foldl_reg (o := o) _ _ ?_ hw').2
    intro t p hp ht
    refine foldl_reg (o := o) _ _ ?_ ht
    intro u q hq hu
    have hq' : q ∈ allCups := by
      simp only [State.cupGroup, List.mem_filter] at hq; exact hq.1
    have hc : (u.cupStart q.1 q.2).wf = true := (State.cupStart_keeps (State.Keeps.refl u) _ _).wf hu
    refine ⟨(State.eventN_keeps n (State.Keeps.refl _) _ _).wf hc, ?_⟩
    rw [State.eventN_reg h n hc, State.cupStart_reg hu _ _ (key q hq')]

/-- An event changes no register but the CUP_STAT registers. -/
theorem State.event_reg {s : State} (hw : s.wf = true) (c : Nat) (d : List Nat) {o : Nat} (h : isCupStat o = false) :
    (s.event c d).reg o = s.reg o := State.eventN_reg h 16 hw c d

theorem State.event_fld {s : State} (hw : s.wf = true) (c : Nat) (d : List Nat) (g : Fld) (h : isCupStat g.reg = false) :
    (s.event c d).fld g = s.fld g := by
  rw [State.fld, State.event_reg hw c d h, State.fld]

/-- With the clocks running, a command that needs them has its effect. -/
theorem State.live_next {s : State} (hc : s.clocked = true) (t : State) : s.live t = .next t := by
  rw [State.live, if_pos hc]

/-- Without them it has none. -/
theorem State.live_rest {s : State} (hc : s.clocked = false) (t : State) : s.live t = .next s := by
  rw [State.live, hc]; rfl

end Sys2Proof.Machine
end

