-- ==== Sys2Proof/Tests/Slice0.lean ====
section
/-!
SUPPORT. The model's own tests: an ill-formed command for each check of WellFormed, small tests from spec/'s worked examples and
tables, and for every statement with hypotheses a state and operands that meet them.
-/

set_option linter.all false
set_option Elab.async false

open Sys2Proof Sys2Proof.Machine

/-- The state with these timers. -/
def Sys2Proof.Machine.State.timed (s : State) (l : List (Timer × Nat)) : State := { s with timers := l }

/-- The state after its clocks have run for 10^15 ns. -/
def Sys2Proof.Machine.State.aged (s : State) : State := s.updTim fun t => { t with life := 1000000000000000 }

namespace Sys2Proof.Tests

/-- A module in mode `m` with every domain on and inside its window, and every core running. -/
def on (m : Nat) : State :=
  (((State.reset.setFld GLB_MODE_MODE m).setFld GLB_PD_STATE_ON 0x3FF).setFld GLB_PD_STATE_PGOOD 0x3FF).setReg R_GLB_CORE_STATE 0x5555


/-- Past the instant of a pending leap second. -/
def late : State := ((on 3).setFld TIME_LEAP_AT_DAY 1).updTim fun t => { t with count := 400000000000000, life := 400000000000000 }

/-- A locked clock that has missed two edges, at the end of the third window; the same with an edge waiting. -/
def gnss : State :=
  (((on 3).setFld TIME_STATUS_STATE 3).setFlag TIME_CTRL_GNSS_EN true).updTim fun t =>
    { t with count := 6000000000, missRun := 2, lastPps := some 2000000000 }
def gnssEdge : State := gnss.updTim fun t => { t with edge := some 6000000000 }

/-- A correction of `c` ns that waits at this tick; a slew with 100 ns left. -/
def corr (c : Int) : State := (on 3).updTim fun t => { t with corr := some c, corrDue := true, count := 1000000000 }
def slewing : State :=
  ((on 3).setFlag TIME_STATUS_SLEWING true).updTim fun t => { t with slewLeft := 100, slewTicked := false }

/-- Two grandmaster ports. -/
def ptp : State := (on 3).updTim fun t => { t with ptpPort := [1, 1] }

/-- A CE that runs a law, outside and inside its window; one that skips; one with an armed buffer for TRG. -/
def ceOn : State := (on 3).setFld (CE_STATUS_STATE 0) 1
def ceWin : State := ceOn.updCe 0 fun e => { e with window := true }
def ceSkip : State := ceOn.updCe 0 fun e => { e with sf := { e.sf with skip := 3 } }
def ceTrg : State := (ceOn.setFld (CUP_TRIG_KIND 0 7) 6).setFld (CUP_STAT_STATE 0 7) 2

/-- The window after END; a third overrun with link 5 feeding output 2. -/
def ceEnd : State := ceOn.updCe 0 fun e => { e with window := true, work := { e.work with ended := true, cycles := 40 } }
def ceOver : State :=
  ((ceOn.setFld (CE_STATUS_OVR_RUN 0) 3).updCe 0 fun e => { e with laneOut := [some 2], laneLink := [none, none, none, some 5] }).updSh
    fun h => { h with t2 := { h.t2 with map := (idx 48).map fun n => if n = 5 then some 2 else none } }

/-- Output lane 0 with lost and frozen feedback, and block lane 3 with frozen feedback. -/
def ceLost : State := ceOver.updCe 0 fun e =>
  { e with
    outs := [{ OutLane.rest with lost := true, sameRun := 9999, in5s := [0, 999999999999999] }]
    blocks := (idx 24).map fun _ => { BlockLane.rest with sameRun := 9999, irefs := [0, 999999999] } }

/-- A coefficient swap that is due. -/
def ceSwap : State :=
  ((ceOn.setFlag CE_GCFG_LIVE_COEF true).setFlag (CE_CTRL_SWAP 0) true).updCe 0 fun e => { e with swapDue := true }

/-- Buffers 0 to 4 of CE 0: to arm, armed for a host trigger, full, streaming, and streaming 16 records behind. -/
def cupS : State :=
  ((((((ceOn.setFld (CUP_CFG_MODE 0 0) 1).setFld (CUP_TRIG_KIND 0 1) 7).setFld (CUP_STAT_STATE 0 1) 2).setFld (CUP_STAT_STATE 0 2) 3).setFld
    (CUP_STAT_STATE 0 3) 5).setFld (CUP_STAT_STATE 0 4) 5).updCe 0 fun e =>
    { e with
      cups := [CupBuf.off, CupBuf.off, CupBuf.off, { CupBuf.off with taken := 4096 },
        { CupBuf.off with taken := 4096, records := List.replicate 16 ⟨0, 4, 1, 0, none, 0, []⟩ },
        CupBuf.off, CupBuf.off, CupBuf.off] }

/-- Link 5 in a state; trained with an ENABLE under way; a NORMAL frame with BSTATE RUN and USEQ 1. -/
def linkIn (st : Nat) : State := (on 3).setFld (CQ_STATE_LSTATE 5) st
def linkUp : State := (linkIn 3).updLk 5 fun l => { l with cmd := cmdEnable, missed := 1 }
def goodUp : BitVec 144 := 0x10010000000000000000000000000000e7fc

/-- In TRAIN with a measurement and after 100 ms; after a failed training; silent in LOST; active with three faults. -/
def linkMeas : State :=
  (((linkIn 2).setFld (CQ_DELAY_TURN 5) 100).updLk 5 fun l => { l with tags := 0x7FE, tu := 30 }).timed [(.train 5, 100000000)]
def linkFail : State := ((linkIn 2).updLk 5 fun l => { l with failed := true }).timed [(.retry 5, 1000000000)]
def linkSil : State := ((linkIn 5).updLk 5 fun l => { l with validRun := 16 }).timed [(.silent 5, 1000000)]
def linkBad : State := (linkIn 4).updLk 5 fun l => { l with invalidRun := 3, driftRun := 16, clkRun := 2 }

/-- Stopped for output 2, without a delay. -/
def linkStop : State := (linkIn 6).updLk 5 fun l => { l with stopBy := [2] }

/-- Released since the last CF tick. -/
def linkFree : State := (linkIn 6).updLk 5 fun l => { l with freeing := true }

/-- The block of link 5 in a step of its move from output 1 to output 2. -/
def moving (st : Nat) : State :=
  ((((((on 3).setFld (MX_ASG_STEP 5) st).setFld (CQ_STATE_BSTATE 5) 1).updLk 5 fun l =>
        { l with mxState := if st = 4 then 4 else 0 }).updMv 5 fun m => { m with src := some 1, dest := some 2 }).updCe 0 fun e =>
      { e with laneLink := [some 5], com := { e.com with k := [0, 1, 0, 0, 0, 0, 0, 0] } }).timed [(.moveStep 5, 60000000)]

/-- The last CF of an SF; zones beyond and within the limits; cooling that fails and cooling to restore. -/
def lastCf : State := (on 3).updTim fun t => { t with cfIndex := 999 }
def zones : State := (on 3).updGlb fun g => { g with zoneOver := 10000, zoneUnder := 10000 }
def cool (ok : Nat) : State :=
  ((((on 3).setFld (OUT_STAT_COOL_FAIL 2) ok).setFlag (OUT_CFG_EN 2) true).updSh fun h =>
    { h with
      pt := (idx 8).map fun _ => if ok = 1 then [some 200, some 200, some 200, some 200] else [none, none, none, none]
      coolOkNs := (idx 8).map fun _ => 60 * sec }).timed [(.runOn 2, 10000000000000)]

/-- What a start finds: a root key and a bank that verifies. -/
def startIn : StartIn := ⟨some [], [true, true], true, 2, 0, [], [], [], [], []⟩
def scSilent : State := ((on 0).updGlb fun g => { g with islReleased := true }).timed [(.scStart, 200000000)]

/-- A value out of its range waits for the commit. -/
def badCfg : State := (on 1).putEdit R_TIME_CTRL (putBits (regReset R_TIME_CTRL) 13 10 0)

/-- Output 0 enabled as CCS, and as MCS with CE in B and no ID yet. -/
def vEn : State := ((on 3).setFlag (OUT_CFG_EN 0) true).setFld (OUT_CFG_TYPE 0) 0
def vMcs : State := (vEn.setFld (OUT_CFG_TYPE 0) 1).setFld (VD_STAT_PILOT 0) 1
def vMcs1 : State := vMcs.setFld (VD_STAT_SSTATE 0) 1

/-- A key that every engine may use. -/
def keyT : KeySlot := { KeySlot.empty with a := ⟨1, [1], 0xFFFF, false, true, 1⟩ }

/-- Output 0 in a session state with its link up, a key for TLS at hand. -/
def vIn (st : Nat) : State :=
  (((((vEn.setFld (VD_STAT_SSTATE 0) st).setFlag (VD_STAT_LINK 0) true).setFlag (VD_CFG_DIN 0) true).updVh 0 fun v =>
    { v with tcp := true, nmk := some 1 }).setSlot 16 keyT).timed [(.slac 0, 0)]

/-- In SETUP without TLS, ISO 15118-20 enabled, with slots 17 and 18 for the VC's engine alone, the former with a chain. -/
def vTls0 : State :=
  ((vIn 2).setFlag (VD_CFG_ISO20 0) true).setSlot 18 { keyT with a := { keyT.a with mask := 2 ^ engTls ((vIn 2).outVc 0) } }
def vTls : State :=
  vTls0.setSlot 17 { keyT with a := { keyT.a with mask := 2 ^ engTls ((vIn 2).outVc 0) }, chain := [1] }

/-- In SETUP under ISO 15118-20 at a phase, lost or not; in AUTH under contract of ISO 15118-2; in a state and a protocol with
the pilot in C. -/
def vPh (ph : Nat) (lost : Bool) : State :=
  ((((vIn 2).setFld (VD_STAT_PROTO 0) 3).setFlag (VD_CFG_EIM 0) true).updVh 0 fun v => { v with phase := ph, lost := lost }).timed
    [(.resume 0, 0)]
def vAuth (ans : Nat) (ok : Bool) : State :=
  ((vIn 3).setFld (VD_STAT_PROTO 0) 2).updVh 0 fun v => { v with payment := 2, certAns := ans, authOk := ok, authReq := some 7 }
def vRun (st p : Nat) : State :=
  (((vIn st).setFld (VD_STAT_PROTO 0) p).setFld (VD_STAT_PILOT 0) 2).updVh 0 fun v => { v with preOk := true, endReason := 3 }

/-- In a state with every timer long over, in STANDBY for PARAM. -/
def vDue (st : Nat) : State :=
  (((vIn st).setFld GLB_MODE_MODE (if st = 4 then 2 else 3)).updVh 0 fun v => { v with lost := st == 1 }).timed
    ([.slac 0, .setup 0, .seq 0, .auth 0, .cert 0, .cc 0, .pc 0, .loop 0, .stop 0, .resume 0, .join 0, .lockConfirm 0,
      .paramMode 0, .weldWait 0, .retryPause 0].map fun t => (t, 1000000000000))

/-- Output 0 may join output 1. -/
def vJoin : State :=
  ((((vIn 4).setFld (VD_STAT_SSTATE 1) 4).setFld (BND_CFG_MEMBERS 0) 3).updVh 1 fun v => { v with authOk := true }).timed [(.join 1, 0)]

/-- A module with a zero-flux sensor on output 0 after 64 quiet SFs, a neutral CT on feed 0, and a rotation of front end 0 at
the end of a step, where a failure of SHADOW has come before. -/
def metS (st k : Nat) : State :=
  ((((on 3).setFld (MET_OCFG_SENSOR 0) 2).setFld (MET_RSH_RCAL 0) 1000).setFlag (MET_FCFG_NCT 0) true).updMet fun m =>
    { m with
      outs := upd m.outs 0 fun o => { o with capRun := 64, capSum := 2048 + 100000000 * k }
      rots := upd m.rots 0 fun r => { r with step := st, fails := k } }

/-- A window whose frequency has moved, with a residual current, and a feed that has completed it. -/
def winT : HarmWin := ⟨0, [20000000, 0], [500000, 490000], [[], [], [], [], [10 ^ 12], [0], [0], [0]]⟩
def metW : State := (metS 0 0).updMet fun m => { m with feeds := upd m.feeds 0 fun f => { f with done := some winT } }

/-- A record not yet signed, and a module that holds it and the meter-signing keys. -/
def recT (failed : Bool) : LegRec := ⟨5, ⟨1, 9, 0, 0, 0, 0, 0, 0, 0, 0, 0, 0, 0, 0, [], 0, 0, 0, 0, [], [], [], []⟩, none, failed, 0, 0⟩
def legS (m : Nat) (failed : Bool) : State :=
  ((((on m).setSlot 2 keyT).setSlot 3 keyT).updLeg fun l => { l with store := [recT failed], nextRec := 6 }).timed
    (if failed then [(.signRetry 5, 1000000000)] else [])

/-- A descriptor in a journal slot, and a module whose ring 0 has it: type, operation, role (0: PUBLIC), INLINE bytes. -/
def slotT (ty op sess : Nat) (inl : List Byte) : JSlot := ⟨⟨7, 3, ty, op, 0, sess, 0, 65536, 0, inl, some []⟩, 1, 1, none, false, 0, false, false⟩
def ring (ty op role : Nat) (inl : List Byte) : State :=
  ((((on 3).setFld (RING_CFG_TYPE 0) ty).setFld (RING_STAT_STATE 0) 1).updHost fun h =>
    { h with rings := h.rings.set 0 { RingSt.off with slots := [slotT ty op role inl] }, nextSlot := 2, linkUp := true }).updKeys fun k =>
    { k with roles := if role = 0 then [] else [⟨role, role, 5, false⟩] }

/-- Output 0 in a session state with its pair on, every run long enough and every timer over. -/
def islS (st : Nat) : State :=
  let s := (((on 3).setFld (VD_STAT_SSTATE 0) st).setFld (SP_OUT_0_PAIR 0) 0).setFld (SP_OUT_3_R_WARN 0) 500
  let s := (s.setFld (SP_OUT_3_R_FAULT 0) 100).updCe 0 fun e =>
    { e with laneOut := [some 0], outs := [{ OutLane.rest with iMa := 500000000 }] }
  let s := s.updSh fun h => { h with t0 := upd h.t0 0 fun r => { r with sstate := st, xfer := st == 7 } }
  let s := s.updIsl fun i =>
    { i with
      pairs := upd i.pairs 0 fun p => { p with hsc := true, lsc := true }
      outs := upd i.outs 0 fun o =>
        { o with pathRun := 10, stopFn := 12, leaving := true, weldTest := 1, weldCheck := true, latDue := true } }
  s.timed [(.pairOff 0, sec), (.ctlStop 0, 10 * sec), (.leave50 0, sec), (.weldTest 0, sec), (.weldCheck 0, sec)]

/-- In DEGRADED with T_REM at 0. -/
def degS : State := (on 4).updIsl fun i => { i with tRem := 0 }

/-- Input 0 of role 2 in demand at one channel, input 1 of role 2 at rest under test source TSA. -/
def sinS : State :=
  (((((on 3).setFld (SP_SIN_ROLE 0) 2).setFld (SP_SIN_ROLE 1) 2).setFld (SP_SIN_TEST 1) 1).updTim fun t => { t with sfCount := 1000 }).updIsl
    fun i => { i with sins := upd i.sins 0 fun x => { x with a := false, sa := false, disFrom := some 0 } }

/-- In SA-2, input 0 disagrees on the Guard Logic's own levels. -/
def sinG : State :=
  (sinS.setFld SP_G0_ARCH 2).aged.updIsl fun i => { i with sins := upd i.sins 0 fun x => { x with disFrom := none, gdisAt := some 0 } }

/-- A COMMAND ring under SERVICE in COMMISSION: resets from the host allowed or not. -/
def islC (op rst : Nat) : State :=
  ((((on 1).setFld SP_G0_REMOTE_RST rst).setFld (RING_CFG_TYPE 0) 7).setFld (RING_STAT_STATE 0) 1).updHost (fun h =>
    { h with rings := h.rings.set 0 { RingSt.off with slots := [slotT 7 op 2 [0, 0, 0, 0]] }, nextSlot := 2, linkUp := true }) |>.updKeys
    fun k => { k with roles := [⟨2, 2, 5, false⟩] }

/-- Under SERVICE, a candidate at a stage of its confirmation with its windows over, in the safe state after a reset. -/
def islR (st : Nat) : State :=
  ((ring 7 0x11 2 [1, 0, 0, 0]).updIsl fun i =>
    { i with safe := true, resetting := true, cand := [0], candChk := 1, candStage := st }).timed
    [(.candHost, 300 * sec), (.candAck, 60 * sec)]

/-- A safety parameter set with one RESET input and neither output enabled. -/
def candT : List Byte :=
  toLE 4 1 ++ toLE 4 100 ++ toLE 4 100 ++ List.replicate 52 0 ++ toLE 4 0x284 ++ (List.replicate 15 (toLE 4 0x280)).flatten
    ++ List.replicate 128 0 ++ (List.replicate 8 (toLE 4 0x1F1F0F ++ toLE 4 0x00640064 ++ toLE 4 0x1E78 ++ toLE 4 0x00640032)).flatten
    ++ List.replicate 128 0

/-- Channel 0 in a state, commanded on after a trip, with its latch; its rail 0 guarded and in undervoltage; the watchdog over. -/
def psS (st th : Nat) : State :=
  let s := (((on 3).setFld (PS_CFG_OWNER 0) 0).setFld (PS_STAT_STATE 0) st).setFld (PS_STAT_THERM 0) th
  let s := ((s.setFld (PS_LIM_DT_LIM 0) 60).setFld (PS_LIM_OPEN 0) 1).setFld (PS_TRIP_LEFT 0) 2
  let s := ((s.setFld PS_RSTAT_GUARD 1).setFld PS_RSTAT_UV 1).setFlag (PS_CFG_EN 0) true
  let s := ((s.setFlag PS_WDG_ARMED true).setFld (PS_CFG_IRATE 0) 1).updPs fun p =>
    { p with chans := upd p.chans 0 fun c => { c with cmd := true, tripped := true, x := 1300000000000 } }
  s.timed [(.psOn 0, 60 * sec), (.psWdg, sec)]

/-- The same in WAIT with a cool wire, or OFF and never tripped. -/
def psX (th : Nat) : State :=
  (psS (if th = 1 then 3 else 0) th).updPc 0 fun c => { c with x := 0, tripped := th == 1 }

/-- Panel 0 in use in a state with updates queued, and timers over; the same module with PD8 off and a heater for PNL1. -/
def pnlS (st q : Nat) : State :=
  let s := (((on 3).setFlag PNL_GCFG_PNL0_EN true).setFlag (PNL_STAT_PRESENT 0) true).setFlag (PNL_TBL_OK 0) true
  let s := (((s.setFld (PNL_STAT_STATE 0) st).setFld KP_CFG_PNL0_OUTS 1).setFlag KP_CFG_EN true).updPn 0 fun x =>
    { x with queue := List.replicate q ⟨0, 0, 1, 1, 0, [0]⟩ }
  s.timed [(.railRetry 0, 10 * sec), (.pd8Idle, 100 * sec), (.page, 10000 * sec)]
def pd8S : State :=
  ((((pnlS 0 0).setFld GLB_PD_STATE_ON 0x2FF).setFld (PNL_HEAT_CH 1) 3).setFld (PNL_STAT_TEMP 1) 0xE0).timed [(.pnlWake, 60 * sec)]

/-- The keypad in a state with keys in its FIFO, and output 0 waiting for authorisation. -/
def keyS (st : Nat) (ks : List Nat) : State :=
  (((((pnlS 1 0).setFld KP_STAT_STATE st).setFld (VD_STAT_SSTATE 0) 3).updVh 0 fun v => { v with payment := 1 }).updPnl fun x =>
    { x with fifo := ks, digits := [7] }).timed [(.keyT, 1000 * sec)]

/-- Reader port 0 that always polls, with a session that waits (1), or with three bad cycles and a held card whose time is
over (3). -/
def nfcS (k : Nat) : State :=
  let s := (((on 3).setFlag (NR_CFG_EN 0) true).setFlag (NR_CFG_ALWAYS 0) true).setFlag (NR_CFG_A 0) true
  let s := ((s.setFld (NR_CFG_OUTS 0) 1).setFld (VD_STAT_SSTATE 0) 3).updVh 0 fun v => { v with payment := if k = 1 then 1 else 2 }
  if k = 3 then
    (s.updPort 0 fun p => { p with badCycles := 3, held := some [1] }).timed [(.antRetry 0, 60 * sec), (.cardHold 0, 10000 * sec)]
  else s

/-- An APDU waits, with a card selected and posted or none. -/
def apduS (u : Option (List Byte)) : State :=
  ((ring 6 1 0 [0]).updPort 0 fun p => { p with card := u, posted := u }).timed [(.posted 0, 0)]

/-- A tag in the field: a mailbox entry with this command and SEQ 1; a session and a committed shadow, or neither; one event to
mirror. -/
def tagS (cmd : Nat) (b : Bool) : State :=
  let s := ((on 3).setFlag NT_CFG_AUTH_EN true).setFlag NT_CFG_MBX_EN true
  { (s.updTag fun t =>
      { t with
        field := true, auth := b, rndT := some [9], key := [1], rf := some ⟨0x100, [1, 2], b⟩, looked := 1, queue := [0]
        mem := Memory.writeN [] 0x8820 [1, 0, BitVec.ofNat 8 cmd, 3, 5, 0, 0, 0] }) with log := [⟨7, [], 0, 0, false, 0⟩] }

/-- A Mallas link with slave 1 active and three misses, slave 2 of identity 77 found in a discovery. -/
def mlS (todo : List Nat) (retry : Option Nat) : State :=
  let s := (((on 3).setFld ML_STAT_STATE 1).setFld (ML_SST_STATE 1) 2).setFld (ML_SST_MISS 1) 3
  let s := ((s.setFlag (ML_ID_HI_EN 2) true).setFld (ML_ID_LO_ID 2) 77).setFlag ML_GCFG_TIME_EN true
  (s.setFlag TIME_STATUS_VALID true).updMl fun m =>
    { m with todo := todo, retry := retry, slots := [0], slaves := upd m.slaves 2 fun x => { x with confirm := true } }

/-- A descriptor of index `i` to submit, one in the journal whose deadline is over, a completion, and one that has it. -/
def dsc (i : Nat) : Descr := ⟨i, 3, 1, 1, 0, 0, 0, 65536, 0, [], none⟩
def waitT : JSlot := ⟨⟨7, 3, 1, 1, 0, 0, 0, 65536, 5, [], none⟩, 1, 1, none, false, 0, false, false⟩
def complT : Compl := ⟨0, 7, 3, 0, 1, 0, 0, 0, 0, [], true, .none⟩
def doneT : JSlot := ⟨dsc 7, 1, 3, some complT, false, 0, false, false⟩

/-- EVENT ring 0 in a state with journal slots; vector 0 unmasked with a message pending. -/
def rng (st : Nat) (q : List JSlot) : State :=
  let s := (((on 3).setFld (RING_CFG_TYPE 0) 1).setFld (RING_STAT_STATE 0) st).setFld (RING_COAL_COAL_T 0) 1
  ((s.setFld (RING_CFG_WIN 0) 16).updHost fun h =>
    { h with
      rings := h.rings.set 0 { RingSt.off with slots := q, unsig := 1 }, nextSlot := 2, linkUp := true
      mask := h.mask.set 0 false, pend := h.pend.set 0 true }).timed [(.deadline 1, 5000000)]

/-- A request of a kind, and a ring of a type with something to hand over. -/
def reqT (k : Nat) : HostReq := ⟨9, k, 0, 0, [], 0, 0, 0, [], false⟩
def rcv (ty : Nat) : State :=
  let s := ((ring ty 1 0 []).updLeg fun l => { l with store := [{ recT false with sig := some [1] }] }).updCup 0 0 fun u =>
    { u with records := [⟨0, 4, 1, 0, none, 0, []⟩] }
  { s with log := [⟨7, [], 0, 0, false, 0⟩], vehc := { s.vehc with posted := [reqT 1] } }

/-- A VEHICLE ring with an operation, where output 0 awaits the answer to a request of a kind. -/
def ans (op k : Nat) (inl : List Byte) : State :=
  let s := ((ring 4 op 0 inl).setFld (VD_STAT_SSTATE 0) 3).updVh 0 fun v =>
    { v with authReq := if k = 1 then some 9 else none, certReq := if k = 2 then some 9 else none }
  { s with vehc := { s.vehc with posted := [reqT k] } }

/-- The same for a certificate request, with a payload that cannot be read. -/
def ansN : State :=
  (ans 2 2 [9, 0, 0, 0, 1]).updRing 0 fun r => { r with slots := r.slots.map fun q => { q with d := { q.d with data := none } } }

/-- A COMMAND ring with an operation under a role; a key to flip, and an update in progress under SERVICE. -/
def updS (op role : Nat) (inl : List Byte) : State :=
  ((ring 7 op role inl).setSlot 1 { keyT with flip := true, due := true }).updKeys fun k =>
    { k with lock := some 2, upd := some BankHdr.empty }

/-- A tile of zeros with a word and a column word (parities of zeros, and of the column word). -/
def tileT (w c : Word) : MemTile := ⟨(w, 0, 3) :: List.replicate 15 (0, 0, 3), c, rowParity c⟩

/-- VC0's memory with `n` writes that wait and a pass that is late; units 0 and 2 armed, their periods over. -/
def memS (n : Nat) : State :=
  let s := (((on 3).setFld (CVU_CFG_STATE 2) 2).setFld (CVU_CFG_ACTION 2) 1).setFlag (CVU_CFG_SWEEP 2) true
  let s := ((s.setFlag (CVU_CFG_GUARD 2) true).setFld (CVU_LEN_LEN 2) 16).setFld (CVU_CFG_ACTION 0) 2
  let s := (s.setFld (CVU_CFG_STATE 0) 2).setFlag (CVU_CFG_SWEEP 0) true
  ((s.setFld (MI_REMAP_SPARE 2) 8).updUnit 2 fun u => { u with buf := (idx n).map fun i => ⟨80 + i, 7, 15, none⟩ }).timed
    [(.scrub 2, sec), (.cvu 0, 1000 * sec), (.cvu 2, 1000 * sec)]

/-- Committed, with a safety set in force, the Island armed and the store charged, in a mode; a change that waits. -/
def modS (m req : Nat) : State :=
  ((((on m).setFlag GLB_CFG_COMMIT_COMMITTED true).setFlag SUP_STAT_STORE_RDY true).updIsl fun i =>
    { i with conf := true, istate := 2 }).updSys (fun x => { x with req := req }) |>.timed [(.reqStop, 10 * sec), (.bench, 60 * sec)]

/-- STANDBY with a STAGED bank and an operation under SERVICE; the activation pause with its cores stopped. -/
def actS (op : Nat) : State := ((ring 7 op 2 []).setFld GLB_MODE_MODE 2).setFld (KB_BANK_STAT_STATE 1) 2
def pauS : State :=
  (((actS 0x34).setFlag GLB_MODE_ACT_PAUSE true).setReg R_GLB_CORE_STATE 0x15).updKeys fun k => { k with pause := some (0, 1) }

/-- On the store at a step of the sequence with metering over and output 0 on lane 0, or on supply with its tests due. -/
def supS (shed : Option Nat) : State :=
  let s := (((on 3).setFlag SUP_STAT_STORE shed.isSome).setFlag MET_STATUS_HOLDUP true).updCe 0 fun e => { e with laneOut := [some 0] }
  let s := s.updMet fun m =>
    { m with outs := m.outs.map fun o => { o with stopped := true }, feeds := m.feeds.map fun f => { f with stopped := true } }
  s.updSys fun x => { x with shed := shed, shedI := [700], storeDue := true, capDue := true, shedSf := 9 }

/-- A freeze whose waits are over, slot 0 protected; a capture in slot 0 in progress. -/
def frzS : State := (((on 3).aged.setFld FRZ_CTRL_PROT 1).setFlag FRZ_STAT_CAP_OK true).updSys fun x => { x with frz := some ⟨1, 3, 0, some 9⟩ }
def capS : State :=
  (on 6).updSys fun x =>
    { x with capturing := true, cap := some 0, slots := x.slots.set 0 (some ⟨1, 0, 0, 0, 1, 0, 3, 0, 0, 0, 0, 0, 0, [], [], [], State.reset.isl, State.reset.host,
        State.reset.sh⟩) }

/-- A module of a twin pair, with the token or as a standby that has missed frames and has lost its links. -/
def twnS (tok : Bool) : State :=
  let s := (((on 3).setFlag CQ_GCFG_TWIN_EN true).setFlag CQ_GCFG_TOK tok).setFld TIME_STATUS_STATE 6
  ((s.setFlag TW_STAT_LINK true).setReg R_CQ_EN_LO 1).updTwin (fun t => { t with missed := 2 }) |>.updIsl fun i => { i with istate := 2 }

end Sys2Proof.Tests

namespace Sys2Proof.Tests

/-! ### Well-formed commands: one term that each check refuses -/

theorem test_wf_bank_count : (Instr.moduleStart { startIn with bankOk := [true] }).wf = false := by decide
theorem test_wf_start_cause : (Instr.moduleStart { startIn with cause := 16 }).wf = false := by decide
theorem test_wf_start_tile : (Instr.moduleStart { startIn with tilesBad := [(9, 0)] }).wf = false := by decide
theorem test_wf_law_image : (Instr.moduleStart { startIn with laws := [some ⟨0, 3, [], [], [], []⟩] }).wf = false := by decide
theorem test_wf_law_stages : (Instr.activationPauseEnd [some ⟨0, 1, [], [0, 0, 0, 0], [], []⟩] []).wf = false := by decide
theorem test_wf_write_misaligned : (Instr.registerWrite 0x10002 0).wf = false := by decide
theorem test_wf_read_outside : (Instr.registerRead 0x230000).wf = false := by decide
theorem test_wf_read_off_domain : (Instr.readOffDomain 3 0x60001).wf = false := by decide
theorem test_wf_supported_access : (Instr.unsupportedAccess 0 0x10 4).wf = false := by decide
theorem test_wf_unknown_bar : (Instr.unsupportedAccess 6 0x10 2).wf = false := by decide
theorem test_wf_sf_inputs : (Instr.sfTick ⟨[], [], [], [], [], [], false, false, [], [], none, [], [], [], 0⟩).wf = false := by decide
theorem test_wf_gnss_second : (Instr.gnssMessage ⟨0, 86401, true, 0⟩).wf = false := by decide
theorem test_wf_train_order : (Instr.trainMeasurement 9 72704 285 283).wf = false := by decide
theorem test_wf_fast_samples : (Instr.ceWindowStart 0 []).wf = false := by decide
theorem test_wf_tag_read : (Instr.tagRead 0 256).wf = false := by decide
theorem test_wf_tag_write : (Instr.tagWrite 0 (List.replicate 256 0) .none).wf = false := by decide +kernel
theorem test_wf_rectangle : (Instr.panelUpdateRequest 0 0 0 0 1 0 []).wf = false := by decide
theorem test_wf_tile : (Instr.scrubTile 0 ⟨[], 0, 0⟩ false).wf = false := by decide
theorem test_wf_rail_currents : (Instr.railGuardShed 0 [1]).wf = false := by decide
theorem test_wf_stop_links : (Instr.stopLineAssert []).wf = false := by decide
theorem test_wf_uid : (Instr.pollCycle 0 0 false [⟨0, [1, 2, 3]⟩]).wf = false := by decide

/-! ### Single steps, with results from spec/ -/

/-- The command answers a next state of which `p` holds. -/
def after (o : Host.Outcome State Fault Refusal) (p : State → Bool) : Bool :=
  match o with
  | .next t => p t
  | _ => false

/-- AES-256 on the example vector of FIPS 197 (spec/08 R214 names the cipher). -/
theorem test_aes256 : aesEnc (aesKeys (idx 32)) ((idx 16).map (17 * ·)) =
    [0x8E, 0xA2, 0xB7, 0xCA, 0x51, 0x67, 0x45, 0xBF, 0xEA, 0xFC, 0x49, 0x90, 0x4B, 0x49, 0x60, 0x89] := by decide +kernel

/-- An empty queue idles; the front command runs on the rest of the queue. -/
theorem test_idle : after (step State.reset) (· == State.reset) = true := by decide
theorem test_front_runs : after (step ((on 3).withQueue [.bnHold true, .frzReq])) (fun t => t.pending == [.frzReq]) = true := by decide

/-- POWER_UP: two inputs at 24 V begin the first start, cause 0 (spec/17 R437). -/
theorem test_power_up : after (exec (.powerUp 2400 2400) State.reset) (fun t => t.keys.begun == some 0 && t.mode == 0) = true := by
  decide +kernel

/-- An access of the host to the Island's mirror is a violation by initiator 9 (spec/01 Table 1.19). -/
theorem test_island_write : after (exec (.registerWrite 0x80010 1) (on 3)) (fun t => t.fld GLB_ISO_VIOL_SRC == 9) = true := by decide

/-- A 22 m link: 256 round trips of 284 ns and TE = 64 ns give F = 110.0 ns, 1100 counts (spec/03, worked example). -/
theorem test_training : after (exec (.trainMeasurement 9 72704 283 285) (((linkIn 2).setFld (CQ_STATE_LSTATE 9) 2).setFld (CQ_DELAY_TURN 9) 64))
    (fun t => t.fld (CQ_DELAY_DLY 9) == 1100) = true := by decide

/-- D21.5 is 1010101010 whatever the disparity; K28.5 after positive disparity is 1100000101 (spec/03 R52: IEEE 802.3 Clause 36). -/
theorem test_line_code : (dataChar false 0xB5, dataChar true 0xB5, symChar true .idle) = (0x2AA, 0x2AA, 0x305) := by decide

/-- Word 133 of the program store of spec/16's worked example, read by Table 4.5: OP 0x0C is MAC. -/
theorem test_law_word : lawDecode 0 0x0C343A09 = some (.mac 0 0x1A 0x0E 0x41 1) := by decide

/-- A reserved operation is no instruction (Table 4.5). -/
theorem test_law_reserved : lawDecode 0 0x0F000000 = none := by decide

/-- The same word with bit 13 stuck at 0: the syndrome is 0x2000, and the word reads corrected (spec/16, worked example). -/
theorem test_stuck_bit :
    let t : MemTile := ⟨(idx 16).map fun w => if w = 5 then (0x0C341A09, rowParity 0x0C343A09, 3) else (0, 0, 3), 0x0C343A09, rowParity 0x0C343A09⟩
    (tileSyndrome t, match tileCheck t with | .fixed w u => (w, (tileAt u 5).1) | _ => (0, 0)) = (0x2000, 5, 0x0C343A09) := by decide +kernel

/-- P_DEG of 50 % of I_COOLED = 3000 A clamps at 1500 A in DEGRADED (spec/09 Table 9.7). -/
theorem test_degraded_clamp : (((on 4).setFld SP_G1_P_DEG 50).setFld (OUT_IRAT_I_COOLED 0) 3000).clampNow 0 = 15000 := by decide

/-- Of two UIDs that differ in the last bit sent, the one with a 1 comes first (spec/12, worked example). -/
theorem test_anticollision : orderCard [0x04, 0xA1, 0x3C, 0x5E] [[0x04, 0xA1, 0x3C, 0xDE]] = [[0x04, 0xA1, 0x3C, 0xDE], [0x04, 0xA1, 0x3C, 0x5E]] := by
  decide

/-- A poll of 16 bytes and an answer of 32 in ROB4: 24 and 39 symbols; D8PSK 10 and 11, DQPSK 10 and 12 (spec/13, worked example). -/
theorem test_mallas_symbols :
    (mlSymbols 3 16, mlSymbols 3 32, mlSymbols 0 16, mlSymbols 1 16, mlSymbols 1 32, mlSymbols 0 32) = (24, 39, 10, 10, 12, 11) := by decide

/-- 4 dB direct is ROB4, 20 dB D8PSK, 13 dB DQPSK (the same). -/
theorem test_mallas_modes : (mlFastest 8, mlFastest 40, mlFastest 26) = (3, 0, 1) := by decide

/-- A second source of images is BUSY with the holder of the lock, 0x4A21 (spec/15, worked example). -/
theorem test_update_busy : after (exec (.updateOpen 0) (((updS 0x30 2 []).updKeys fun k => { k with roles := ⟨2, 2, 0x4A21, false⟩ :: k.roles })))
    (fun t => ((t.ring 0).slots.map fun x => x.comp.map fun c => (c.status, c.result)) == [some (10, 0x4A21)]) = true := by decide

/-- V_LOGIC below 16.5 V enters the hold, and 17.5 V ends it (spec/17 Table 17.2). -/
theorem test_hold : after (exec (.holdEntry 1640 1600 [] []) (on 3)) (·.holding) = true := by decide
theorem test_hold_end : after (exec (.holdEnd 1750 1600) ((on 3).setFlag SUP_STAT_HOLD true)) (fun t => !t.holding) = true := by decide

/-- A freeze request in FROZEN is ignored (spec/17 R412); in RUN the safe state comes first, cause 0xC1 (R413). -/
theorem test_freeze_ignored : after (exec .freezeNAsserted (on 6)) (fun t => t.sys == (on 6).sys) = true := by decide +kernel
theorem test_freeze_safe : after (exec .freezeNAsserted (on 3)) (fun t => t.mode == 5 && t.isl.cause == 0xC1) = true := by decide +kernel

/-- A key that is accepted enters the FIFO (spec/11 R290). -/
theorem test_key : after (exec (.keyAccepted 7 1) (keyS 0 [])) (·.pnl.fifo == [7]) = true := by decide

/-- The third bad cycle takes the reader port to FAULT (spec/12 R301). -/
theorem test_antenna : after (exec (.antennaFault 0) (nfcS 3)) (fun t => t.fld (NR_STAT_STATE 0) == 5) = true := by decide

/-- A doorbell past the ring's size halts it with cause 3 (spec/14 R338). -/
theorem test_doorbell : after (exec (.dbTail 0 2000 []) (rng 1 [])) (fun t => t.rstate 0 == 4 && t.fld (RING_STAT_ERR 0) == 3) = true := by decide

/-- Nothing in the table gives bits to a command. -/
theorem test_no_word : decodeTableWord 32 0 = none := rfl

/-! ### The statements' hypotheses are met -/

end Sys2Proof.Tests

open Sys2Proof.Tests

/-- A state with a command at the front of its queue, and one with none. -/
theorem wit_FrontCommandRuns :
    ((on 3).withQueue [.ppsMissing, .slewEnd]).pending = .ppsMissing :: [.slewEnd] ∧ (on 3).pending = [] := by decide

/-- A canonical state from which a step answers a next state. -/
theorem wit_StepKeepsStateCanonical :
    ((on 3).withQueue [.ppsMissing]).wf = true ∧
    step ((on 3).withQueue [.ppsMissing]) = .next (((on 3).withQueue [])) := by
  refine ⟨by decide, rfl⟩

/-- A command that answers a next state, with its frame. -/
theorem wit_CommandsKeepOtherParts :
    exec .ppsMissing (on 3) = .next (on 3) ∧ (.isl : Part) ∉ touched .ppsMissing := by
  refine ⟨rfl, by decide⟩

/-- A frozen module and a command of its clocked logic. -/
theorem wit_StoppedClocksHoldState : (on 6).clocked = false ∧ actsUnclocked .allocatorSlot = false := by decide

/-- A canonical state. -/
theorem wit_EventEntersTheLog : (on 3).wf = true := by decide

/-- An instruction with its word, and a word that decodes. -/
theorem wit_LawWordsRoundTrip :
    lawEncode (.mac 1 0x35 0x20 0x41 3) = some 0x0C6A820B ∧ (lawDecode 0 0x01000000).isSome = true := by decide

/-- A running module and a reserved offset outside the Safety Island's mirror. -/
theorem wit_ReservedOffsetsReadZero :
    (on 3).clocked = true ∧ findReg 0x1FFFFC = none ∧ 0x1FFFFC / 0x10000 ≠ 8 ∧ 0x1FFFFC < bar2Base ∧
    (rng 1 []).clocked = true ∧ (rng 1 []).host.linkUp = true ∧ bar2Base ≤ bar2Base + 0xFFFC ∧ (rng 1 []).host.msix.length = 64 ∧
    (5 : Nat) ≠ (0 : Fin 64).val := by decide

/-- A canonical state; an LK field outside the unlocked modes and inside them; a SIW field with another value. -/
theorem wit_HostWritesObeyAccessTypes :
    (on 3).wf = true ∧ isShadow (R_OUT_RAMP 0) = false ∧ (on 3).unlocked = false ∧ (on 1).unlocked = true ∧
    getBits (1 : Word) 7 0 ≠ getBits ((on 3).shown (R_OUT_RAMP 0)) 7 0 ∧
    getBits (1 : Word) 7 0 ≠ getBits ((on 1).shown (R_OUT_RAMP 0)) 7 0 ∧
    getBits ((on 3).shown (R_OUT_RAMP 0)) 7 0 = getBits ((on 3).shown (R_OUT_RAMP 0)) 7 0 ∧
    getBits (0 : Word) 7 0 = 0 ∧ getBits (1 : Word) 7 0 ≠ 0 ∧
    getBits (1 : Word) 7 0 ≠ (on 3).fld ⟨R_SI_ARCH, 7, 0⟩ := by decide

/-- A running module inside a tick, with and without a latched high word; an offset in the mirror; a domain out of its window, not
yet read and read before. -/
theorem wit_HostRegisterCommandsComplete :
    (on 3).wf = true ∧ (on 3).clocked = true ∧ 0x80010 / 0x10000 = 8 ∧
    ((on 3).setFld GLB_PD_STATE_PGOOD 0x3FB).clocked = true ∧ ((on 3).setFld GLB_PD_STATE_PGOOD 0x3FB).wf = true ∧
    ((on 3).setFld GLB_PD_STATE_PGOOD 0x3FB).pdGood 2 = false ∧
    ((on 3).setFld GLB_PD_STATE_PGOOD 0x3FB).glb.offRead.contains 2 = false ∧ (on 3).pdGood 0 = true ∧ (on 3).pdGood 4 = true ∧
    (on 3).tim.sub < (on 3).tickNs ∧ ((on 3).updTim fun t => { t with nsHi := some 7 }).tim.nsHi = some 7 ∧
    ((on 3).updTim fun t => { t with nsHi := some 7 }).clocked = true ∧
    ((on 3).updTim fun t => { t with nsHi := some 7 }).pdGood 4 = true ∧ findReg R_KEY_SEL ≠ none ∧
    ((on 3).setFld GLB_PD_STATE_PGOOD 0x3FB).pdGood (regDomain R_KEY_SEL) = false ∧
    (((on 3).setFld GLB_PD_STATE_PGOOD 0x3FB).updGlb fun g => { g with offRead := [2] }).glb.offRead.contains (regDomain R_KEY_SEL)
      = true := by decide

/-- A leap second of the past, one to come, one that is due, and a step that is due. -/
theorem wit_LeapSecondAnnouncedAndApplied :
    (on 3).wf = true ∧ (on 3).clocked = true ∧ getBits (1 : Word) 15 0 ≠ 0 ∧
    (((on 3).now : Int) < ((getBits (1 : Word) 15 0 + 1 : Nat) * 86400
      + (if getBits (1 : Word) 31 31 = 1 then (on 3).utcOfs - 1 else (on 3).utcOfs + 1)) * 1000000000) ∧
    (((getBits (1 : Word) 15 0 + 1 : Nat) * 86400 + (if getBits (1 : Word) 31 31 = 1 then (late.utcOfs - 1) else late.utcOfs + 1))
      * 1000000000 ≤ (late.now : Int)) ∧ late.wf = true ∧ late.clocked = true ∧
    late.fld TIME_LEAP_AT_DAY ≠ 0 ∧ late.leapAt ≤ late.tim.count ∧ -32768 ≤ late.leapOfs ∧ late.leapOfs ≤ 32767 ∧
    late.stepDue = false ∧ (corr 3000000000).stepDue = true := by decide

/-- A clock that waits for an edge, one with an edge waiting, and one whose window has ended. -/
theorem wit_GnssEdgesAndMessages :
    gnss.wf = true ∧ gnss.clocked = true ∧ gnss.gnssOn = true ∧ gnss.tim.edge = none ∧ gnss.ppsWindow = some 5000000000 ∧
    ¬(5000000000 ≤ 1 + ms ∧ 1 ≤ 5000000000 + ms) ∧ 5000000000 + ms ≤ gnss.now ∧ gnss.clk = 3 ∧ 2 ≤ gnss.tim.missRun ∧
    gnssEdge.wf = true ∧ gnssEdge.clocked = true ∧ gnssEdge.gnssOn = true ∧ gnssEdge.tim.edge = some 6000000000 ∧
    gnssEdge.msgDayOk ⟨0, 6, true, 100⟩ = true ∧ gnssEdge.msgDayOk ⟨0, 86400, true, 100⟩ = false ∧
    (((0 * 86400 + 6 : Nat) + gnssEdge.msgOfs ⟨0, 6, true, 100⟩) * 1000000000 + gnssEdge.fldS GNSS_DLY_DLY_NS - (6000000000 : Nat)).natAbs
      ≤ gnssEdge.stepLimit := by decide

/-- A correction of 3 s, one of 1 µs, one of 0 during a slew, and a slew whose last increment is left. -/
theorem wit_CorrectionsStepOrSlew :
    (corr 3000000000).wf = true ∧ (corr 3000000000).clocked = true ∧ (corr 3000000000).tim.corr = some 3000000000 ∧
    (corr 3000000000).tim.corrDue = true ∧ (corr 3000000000).tim.setBy = none ∧
    (corr 3000000000).stepLimit < ((3000000000 : Int).natAbs : Int) ∧ 0 ≤ ((corr 3000000000).tim.count : Int) + 3000000000 ∧
    ((corr 0).setFlag TIME_STATUS_SLEWING true).wf = true ∧ ((corr 0).setFlag TIME_STATUS_SLEWING true).tim.corr = some 0 ∧
    ((corr 0).setFlag TIME_STATUS_SLEWING true).flag TIME_STATUS_SLEWING = true ∧ slewing.tim.corr = none ∧
    (corr 1000).tim.corr = some 1000 ∧ ((1000 : Int).natAbs : Int) ≤ (corr 1000).stepLimit ∧
    0 ≤ ((corr 1000).tim.count : Int) + (corr 1000).slewInc 1000 ∧ (corr 1000).flag TIME_STATUS_SLEWING = false ∧
    slewing.wf = true ∧ slewing.clocked = true ∧ slewing.flag TIME_STATUS_SLEWING = true ∧ slewing.tim.slewTicked = false ∧
    (slewing.tim.slewLeft.natAbs : Int) ≤ slewing.slewMax ∧ 0 ≤ (slewing.tim.count : Int) + slewing.tim.slewLeft := by decide

/-- Two grandmaster ports, the first with the default profile, before the first message, after 1 s and before it. -/
theorem wit_PtpPortsAnswerAndAnnounce :
    ptp.clocked = true ∧ ptp.pdGood 6 = true ∧ nth 0 ptp.tim.ptpPort 0 = 1 ∧ false = (ptp.ptpProfile 0 == 1) ∧
    ptp.tim.ptpPort = [1, 1] ∧ ptp.timing .ptp = false ∧ (ptp.timed [(.ptp, sec)]).due .ptp sec = true ∧
    (ptp.timed [(.ptp, 0)]).timing .ptp = true ∧ (ptp.timed [(.ptp, 0)]).due .ptp sec = false := by decide

/-- An active link, a frame with a wrong CRC and one with a right CRC. -/
theorem wit_UpstreamFramesAreJudged :
    linkUp.wf = true ∧ linkUp.clocked = true ∧ linkUp.alignedLink (5 : Fin 48) = true ∧ (linkUp.lk (5 : Fin 48)).judged = false ∧
    linkUp.lateFrame (5 : Fin 48) 0 = false ∧ upCrcOk 0 = false ∧ upCrcOk goodUp = true ∧ (upDecode goodUp).type = 0 ∧
    linkUp.useqOk (5 : Fin 48) (upDecode goodUp) = true ∧ linkUp.lst (5 : Fin 48) = 3 ∧ (upDecode goodUp).bstate = 2 ∧
    (linkUp.lk (5 : Fin 48)).cmd = cmdEnable ∧ (linkUp.lk (5 : Fin 48)).told204 = false := by decide +kernel
theorem wit_UpstreamFramesAreJudged_chars :
    linkUp.lateFrame (5 : Fin 48) 9999 = true ∧ (rxRun 18 false []).got = none ∧
    (rxRun 18 false [symChar false .idle, symChar true (.data 0), symChar true .idle]).got = some none := by decide +kernel

/-- A link in LOCK, links in TRAIN with a measurement, after 100 ms and after a failed training, and a silent one. -/
theorem wit_LinksTrain :
    (linkIn 1).wf = true ∧ (linkIn 1).clocked = true ∧ (linkIn 1).lst (5 : Fin 48) = 1 ∧
    linkMeas.wf = true ∧ linkMeas.clocked = true ∧ linkMeas.lst (5 : Fin 48) = 2 ∧ (linkMeas.lk (5 : Fin 48)).failed = false ∧
    (linkMeas.lk (5 : Fin 48)).measOk = false ∧
    2 * (256 * (1000 : Int) - (5 * (((51200 + 25600 : Nat)) : Int) - 1280 * linkMeas.fld (CQ_DELAY_TURN (5 : Fin 48)))).natAbs < 256 ∧
    (1000 : Int) ≤ maxDelay linkMeas.tim.cfSel linkMeas.tim.longFibre ∧ 16 ≤ linkMeas.fld (CQ_DELAY_TURN (5 : Fin 48)) ∧
    linkMeas.fld (CQ_DELAY_TURN (5 : Fin 48)) ≤ 200 ∧ (linkMeas.lk (5 : Fin 48)).tu ≤ 40 ∧
    bit (linkMeas.lk (5 : Fin 48)).tags 7 = true ∧ bit (linkMeas.lk (5 : Fin 48)).tags 8 = true ∧
    (linkMeas.fldS (CQ_BLK_FREQ (5 : Fin 48))).natAbs ≤ 1000 ∧ linkMeas.due (.train (5 : Fin 48)) (100 * ms) = true ∧
    linkFail.wf = true ∧ linkFail.clocked = true ∧ linkFail.lst (5 : Fin 48) = 2 ∧ (linkFail.lk (5 : Fin 48)).failed = true ∧
    linkFail.due (.retry (5 : Fin 48)) sec = true ∧ linkSil.wf = true ∧ linkSil.clocked = true ∧
    linkSil.lst (5 : Fin 48) = 5 ∧ linkSil.due (.silent (5 : Fin 48)) ms = true := by decide

/-- A usable link with invalid CFs, drift and a clock fault, one in ACTIVE, and one that is due for START. -/
theorem wit_LinksLeaveService :
    linkBad.wf = true ∧ linkBad.clocked = true ∧ linkBad.usable (5 : Fin 48) = true ∧ 3 ≤ (linkBad.lk (5 : Fin 48)).invalidRun ∧
    16 ≤ (linkBad.lk (5 : Fin 48)).driftRun ∧ 2 ≤ (linkBad.lk (5 : Fin 48)).clkRun ∧ linkBad.lst (5 : Fin 48) = 4 ∧
    linkUp.wf = true ∧ linkUp.clocked = true ∧ linkUp.lst (5 : Fin 48) = 3 ∧ linkSil.wf = true ∧ linkSil.clocked = true ∧
    linkSil.startDue (5 : Fin 48) = true ∧ (linkBad.lk (5 : Fin 48)).drainAt = none ∧ (linkBad.lk (5 : Fin 48)).cmdLeft = 0 ∧
    ((linkBad.updLk 5 fun l => { l with drainAt := some 0, cmdLeft := 2 }).lk (5 : Fin 48)).drainAt.isSome = true ∧
    ((linkBad.updLk 5 fun l => { l with drainAt := some 0, cmdLeft := 2 }).lk (5 : Fin 48)).cmdLeft ≠ 0 ∧
    (linkSil.lk (5 : Fin 48)).cmdLeft = 0 ∧ (5 : Fin 48).val < linkUp.nLinks ∧
    ((on 3).setFld GLB_HWREV_VARIANT 2).nLinks ≤ (40 : Fin 48).val := by decide

/-- A link to stop, and one that output 2 holds stopped. -/
theorem wit_StopLine :
    linkUp.wf = true ∧ linkUp.clocked = true ∧ linkUp.lst (5 : Fin 48) ≠ 0 ∧ (linkUp.lk (5 : Fin 48)).stopLine = false ∧
    linkStop.wf = true ∧ linkStop.clocked = true ∧ linkStop.pairReads (2 : Fin 8) = false ∧
    (linkStop.fastI (2 : Fin 8)).natAbs ≤ 2000 ∧ (linkStop.lk (5 : Fin 48)).stopBy = [(2 : Fin 8).val] ∧
    linkStop.lst (5 : Fin 48) = 6 ∧ (linkStop.lk (5 : Fin 48)).stopAligned = false ∧
    ((linkStop.updLk 5 fun l => { l with stopAligned := true }).lk (5 : Fin 48)).stopAligned = true ∧ linkFree.wf = true ∧
    linkFree.clocked = true ∧ linkFree.lst (5 : Fin 48) ≠ 0 ∧ linkFree.pdGood 7 = true ∧ (linkFree.lk (5 : Fin 48)).freeing = true ∧
    (linkFree.lk (5 : Fin 48)).stopLine = false := by decide

/-- A block in each step of its move. -/
theorem wit_MovesOfBlocks :
    (moving 1).wf = true ∧ (moving 1).clocked = true ∧ (moving 1).mvStep (5 : Fin 48) = 1 ∧ ((moving 1).bl (5 : Fin 48)).weight = 0 ∧
    (moving 2).mvStep (5 : Fin 48) = 2 ∧ (moving 2).bst (5 : Fin 48) = 1 ∧ ((moving 2).mv (5 : Fin 48)).src = some 1 ∧
    (moving 2).due (.moveStep (5 : Fin 48)) (2 * ms) = true ∧ (moving 3).due (.moveStep (5 : Fin 48)) (60 * ms) = true ∧
    (moving 3).mvStep (5 : Fin 48) = 3 ∧ bit ((moving 3).lk (5 : Fin 48)).mxState 1 = false ∧
    (5 : Fin 48) < (moving 3).sh.moves.length ∧ (moving 4).mvStep (5 : Fin 48) = 4 ∧
    ((moving 4).mv (5 : Fin 48)).dest = some 2 ∧ bit ((moving 4).lk (5 : Fin 48)).mxState 2 = true ∧
    (moving 5).wf = true ∧ (moving 5).mvStep (5 : Fin 48) = 5 ∧ ((moving 5).mv (5 : Fin 48)).joinDue = false ∧
    (moving 5).inK1 (5 : Fin 48) = true ∧ ((moving 5).bl (5 : Fin 48)).rampLeft = 0 ∧
    ((moving 1).ce (0 : Fin 2)).blocks.length = 24 := by decide

/-- A CE that runs a law takes each of the five. -/
theorem wit_CeAdditiveInstructions :
    (ceOn.src 0 0).ok = true ∧ (ceOn.acc 0 0x34).ok = true ∧ ceOn.ceReady 0 0x08 0x34 0 0 4 = true ∧
    ceOn.ceReady 0 0x09 0x34 0 0 4 = true ∧ ceOn.ceReady 0 0x0A 0x34 0 0 4 = true ∧ ceOn.ceReady 0 0x0E 0x34 0 5 4 = true ∧
    ceOn.ceReady 0 0x15 0x34 0 0x7F 4 = true ∧ -256 ≤ (ceOn.acc 0 0x34).ea + sext 7 (0x7F : BitVec 7).toNat ∧
    (ceOn.acc 0 0x34).ea + sext 7 (0x7F : BitVec 7).toNat ≤ 255 := by decide

/-- A CE that runs a law takes each of the four. -/
theorem wit_CeProductsAndReciprocal :
    (ceOn.src 0 0).ok = true ∧ (ceOn.src 0 1).ok = true ∧ (ceOn.acc 0 0x34).ok = true ∧
    ceOn.ceReady 0 0x0B 0x34 0 1 4 = true ∧ ceOn.ceReady 0 0x0C 0x34 0 1 4 = true ∧ ceOn.ceReady 0 0x0D 0x34 0 1 4 = true ∧
    ceOn.ceReady 0 0x16 0x34 0 0 4 = true := by decide

/-- A CE that runs a law takes each of the six. -/
theorem wit_CeLimitsAndSigns :
    (ceOn.src 0 0).ok = true ∧ (ceOn.src 0 1).ok = true ∧ (ceOn.acc 0 0x34).ok = true ∧
    ceOn.ceReady 0 0x10 0x34 0 0 4 = true ∧ ceOn.ceReady 0 0x11 0x34 0 0 4 = true ∧ ceOn.ceReady 0 0x12 0x34 0 1 4 = true ∧
    ceOn.ceReady 0 0x18 0x34 0 0 4 = true ∧ ceOn.ceReady 0 0x13 0x34 0 0 4 = true ∧ ceOn.ceReady 0 0x14 0x34 0 0 4 = true ∧
    (ceOn.src 0 0x21).ok = true := by decide

/-- A CE that runs a law takes each of the three, over either map. -/
theorem wit_CeGroupInstructions :
    (ceOn.src 0 0).ok = true ∧ (ceOn.acc 0 0x34).ok = true ∧ ceOn.ceReady 0 0x19 0x34 0 1 4 = true ∧
    ceOn.ceReady 0 0x1A 0x34 0 1 4 = true ∧ ceOn.ceReady 0 0x1B 0x34 0 0 4 = true ∧ ceOn.inK 0 0 3 = false := by decide

/-- A CE that runs a law takes each of the three. -/
theorem wit_CeStores :
    (ceOn.src 0 3).ok = true ∧ (ceOn.src 0 0x30).ok = true ∧ ceOn.ceReady 0 0x20 0x30 0x34 0 4 = true ∧
    ceOn.ceReady 0 0x21 3 0x34 0 4 = true ∧ ceOn.ceReady 0 0x22 0x32 0x21 0 0 = true := by decide

/-- A CE that runs a law takes each of the five. -/
theorem wit_CeMaskInstructions :
    (ceOn.src 0 0).ok = true ∧ (ceOn.src 0 0x21).ok = true ∧ ceOn.ceReady 0 0x28 4 0 0x21 1 = true ∧
    ceOn.ceReady 0 0x29 7 0 0x21 1 = true ∧ ceOn.ceReady 0 0x2A 4 0 1 0 = true ∧ ceOn.ceReady 0 0x2B 5 4 7 0 = true ∧
    ceOn.ceReady 0 0x2C 6 4 0 0 = true := by decide

/-- A CE that runs its law inside the window, one that skips, and an armed buffer of KIND 6. -/
theorem wit_CeProgramFlow :
    ceWin.ceReady 0 0x00 0 0 0 0 = true ∧ ceWin.ceReady 0 0x01 0 0 0 0 = true ∧ (ceWin.ce 0).window = true ∧
    (ceWin.ce 0).com.k.length = 8 ∧ ceWin.ceReady 0 0x30 0 4 127 0 = true ∧ ceSkip.wf = true ∧ ceSkip.clocked = true ∧
    ceSkip.ceTakes 0 (legalOperands 0x08 0x34 0 0 4) = true ∧ (ceSkip.ctx 0).skip ≠ 0 ∧
    ceTrg.ceReady 0 0x31 0 0 7 0 = true ∧ ceTrg.fld (CUP_TRIG_KIND 0 (7 : BitVec 7).toNat) = 6 ∧
    ceTrg.cupOpen 0 (7 : BitVec 7).toNat = true ∧ ceWin.pastWindow 0 = false ∧ (ceOn.ce 0).window = false ∧
    ceOn.ceReady 0 0x01 0 0 0 0 = true ∧ (ceSkip.ce 0).com.k.length = 8 ∧
    (ceWin.updCe 0 fun e => { e with work := { e.work with cycles := 4000 } }).pastWindow 0 = true ∧
    (ceWin.updCe 0 fun e => { e with work := { e.work with cycles := 4000 } }).clocked = true := by decide

/-- A state in which no kind has raised the event, and one in which kind 2 has. -/
theorem wit_OverrunsAreCountedAndToldOncePerSf :
    (on 3).wf = true ∧ (0 : Nat) ∉ (on 3).tim.ovrTold ∧ (2 : Nat) ∈ ((on 3).overrun 2 2 true).tim.ovrTold ∧
    ((on 3).overrun 2 2 true).wf = true := by decide

/-- A CE that runs its law, inside a window after END and before it, and after a third overrun with a link that feeds it. -/
theorem wit_ComputeWindows :
    ceOn.wf = true ∧ ceOn.clocked = true ∧ ceOn.ceRuns (0 : Fin 2) = true ∧ ceOn.pdGood 4 = true ∧
    ceWin.wf = true ∧ ceWin.clocked = true ∧
    ceWin.pdGood 4 = true ∧ (ceWin.ce (0 : Fin 2)).window = true ∧ (ceWin.ce (0 : Fin 2)).work.ended = false ∧
    ceEnd.wf = true ∧ ceEnd.clocked = true ∧ ceEnd.pdGood 4 = true ∧ (ceEnd.ce (0 : Fin 2)).window = true ∧
    (ceEnd.ce (0 : Fin 2)).work.ended = true ∧ (ceEnd.ce (0 : Fin 2)).work.cycles ≤ 65535 ∧
    ceOver.wf = true ∧ ceOver.clocked = true ∧ ceOver.fld (CE_STATUS_OVR_RUN (0 : Fin 2)) = 3 ∧
    (ceOver.ce (0 : Fin 2)).third = false ∧ ceOver.laneOut (0 : Fin 2) 0 = some 2 ∧ 5 ∈ ceOver.members 2 := by decide

/-- An output lane that has lost its feedback, one that is frozen, and a frozen block lane. -/
theorem wit_LostAndFrozenFeedback :
    ceLost.wf = true ∧ ceLost.clocked = true ∧ (ceLost.ol (0 : Fin 2) (0 : Fin 4)).lost = true ∧
    ceLost.laneOut (0 : Fin 2) (0 : Fin 4) = some 2 ∧ 5 ∈ ceLost.members 2 ∧
    ceLost.frozenOut (0 : Fin 2) (ceLost.ol (0 : Fin 2) ((24 : Fin 28).val - 24)) = true ∧
    (ceLost.ol (0 : Fin 2) ((24 : Fin 28).val - 24)).frozen = false ∧ ceLost.laneLink (0 : Fin 2) (3 : Fin 28) = some 5 ∧
    ceLost.frozenBlock (0 : Fin 2) (ceLost.bl 5) = true ∧ (ceLost.bl 5).frozen = false := by decide

/-- LIVE_COEF off and on, and a swap that is due. -/
theorem wit_CoefficientBanks :
    ceOn.wf = true ∧ ceOn.clocked = true ∧ ceOn.flag CE_GCFG_LIVE_COEF = false ∧ ceSwap.wf = true ∧ ceSwap.clocked = true ∧
    ceSwap.flag CE_GCFG_LIVE_COEF = true ∧ ceSwap.flag (CE_CTRL_SWAP (0 : Fin 2)) = true ∧
    (ceSwap.ce (0 : Fin 2)).swapDue = true := by decide

/-- A buffer to arm, one to trigger, a full one, and streams with no record and with sixteen waiting. -/
theorem wit_CuppingBuffers :
    ceTrg.wf = true ∧ ceTrg.clocked = true ∧ (ceTrg.ce (0 : Fin 2)).cups.length = 8 ∧
    ceTrg.fld (CUP_CFG_MODE (0 : Fin 2) (0 : Fin 8)) = 0 ∧ cupS.wf = true ∧ cupS.clocked = true ∧
    (cupS.ce (0 : Fin 2)).cups.length = 8 ∧ cupS.fld (CUP_CFG_MODE (0 : Fin 2) (0 : Fin 8)) ≠ 0 ∧
    cupS.fld (CUP_TRIG_KIND (0 : Fin 2) (1 : Fin 8)) = 7 ∧ cupS.cupOpen (0 : Fin 2) (1 : Fin 8) = true ∧
    cupS.fld (CUP_STAT_STATE (0 : Fin 2) (2 : Fin 8)) = 3 ∧ (cupS.cup (0 : Fin 2) (2 : Fin 8)).postLeft = 0 ∧
    cupS.fld (CUP_STAT_STATE (0 : Fin 2) (3 : Fin 8)) = 5 ∧ 4096 ≤ (cupS.cup (0 : Fin 2) (3 : Fin 8)).taken ∧
    (cupS.cup (0 : Fin 2) (3 : Fin 8)).records.length < 16 ∧
    cupS.fld (CUP_STAT_STATE (0 : Fin 2) (4 : Fin 8)) = 5 ∧ 4096 ≤ (cupS.cup (0 : Fin 2) (4 : Fin 8)).taken ∧
    (cupS.cup (0 : Fin 2) (4 : Fin 8)).records.length = 16 := by decide

/-- A running module inside its SF and at the end of it, and a frozen one. -/
theorem wit_FrameTicks :
    (on 3).wf = true ∧ (on 3).clocked = true ∧ ((on 3).tim.cfIndex + 1) * cfNs (on 3).tim.cfSel < ms ∧
    lastCf.wf = true ∧ lastCf.clocked = true ∧ ms ≤ (lastCf.tim.cfIndex + 1) * cfNs lastCf.tim.cfSel ∧
    (on 3).pdOn 0 = true ∧ (on 6).wf = true ∧ (on 6).pdOn 0 = true ∧ (on 6).mode = 6 ∧ (on 6).flag TIME_STATUS_SLEWING = false := by
  decide

/-- A module with the allocator's core and the MC running, and one with the allocator's core halted. -/
theorem wit_AllocatorAndCommitSlots :
    (on 3).wf = true ∧ (on 3).clocked = true ∧ (on 3).coreRuns (on 3).allocCore = true ∧ (on 3).coreRuns 2 = true ∧
    (on 3).flag KB_BOOT_TRIAL = false ∧ 2 ∉ (on 3).tim.ovrTold ∧ ((on 3).setFld (coreFld 3) 2).clocked = true ∧
    ((on 3).setFld (coreFld 3) 2).coreRuns ((on 3).setFld (coreFld 3) 2).allocCore = false ∧ (on 3).inSf < 600000 ∧
    600000 ≤ ((on 3).updTim fun t => { t with cfIndex := 700 }).inSf ∧ ((on 3).updTim fun t => { t with cfIndex := 700 }).inSf < 900000 ∧
    ((on 3).updTim fun t => { t with cfIndex := 700 }).sh.t2Mark = false ∧ ((on 3).updTim fun t => { t with cfIndex := 700 }).wf = true := by decide

/-- Zones above and below the limits, a module with every rail good, and an output with a lane. -/
theorem wit_RailsZonesAndSupplies :
    zones.wf = true ∧ zones.clocked = true ∧ 10000 ≤ zones.glb.zoneOver ∧ zones.flag GLB_STATUS_ZONE_DT = false ∧
    (zones.setFlag GLB_STATUS_ZONE_DT true).wf = true ∧ (zones.setFlag GLB_STATUS_ZONE_DT true).clocked = true ∧
    10000 ≤ (zones.setFlag GLB_STATUS_ZONE_DT true).glb.zoneUnder ∧
    (zones.setFlag GLB_STATUS_ZONE_DT true).flag GLB_STATUS_ZONE_DT = true ∧ (4 : Fin 10).val ≠ 0 ∧ zones.pdGood (4 : Fin 10) = true ∧
    (3 : Fin 10).val ∉ zones.glb.feNotReady ∧ zones.pdGood 3 = true ∧ ceOver.wf = true ∧ ceOver.clocked = true ∧
    (2 : Fin 10).val < 8 ∧ (2 : Fin 10).val < ceOver.glb.fastDisc.length ∧ ceOver.outLane (2 : Fin 10) = some 0 ∧ ceOver.outCe (2 : Fin 10) < 2 ∧
    0 < (ceOver.ce (ceOver.outCe (2 : Fin 10))).outs.length := by decide

/-- Cooling that fails, cooling to restore, and a run-on that has ended. -/
theorem wit_CoolingLoops :
    (cool 0).wf = true ∧ (cool 0).clocked = true ∧ (cool 0).coolBad (2 : Fin 8) = true ∧
    (cool 0).flag (OUT_STAT_COOL_FAIL (2 : Fin 8)) = false ∧ (cool 1).wf = true ∧ (cool 1).clocked = true ∧
    (cool 1).coolBad (2 : Fin 8) = false ∧ (cool 1).flag (OUT_STAT_COOL_FAIL (2 : Fin 8)) = true ∧
    60 * sec ≤ nth 0 (cool 1).sh.coolOkNs (2 : Fin 8) ∧
    (cool 1).due (.runOn (2 : Fin 8)) ((cool 1).fld (OUT_COOLT_RUNON (2 : Fin 8)) * 10 * sec) = true ∧
    (cool 1).pumpNeeded (2 : Fin 8) = false := by decide

/-- A deployed module with an active bank, one whose SC is silent, one in RUN and two in COMMISSION, of which the second has a
value out of its range. -/
theorem wit_StartsAndCommits :
    (on 3).wf = true ∧ (on 3).pdOn 0 = true ∧ (on 3).keys.begun = none ∧ ({ startIn with puf := none } : StartIn).puf = none ∧
    startIn.puf = some [] ∧ startIn.scOk = true ∧ startIn.loadBad = [] ∧ (on 3).lifecycle = 1 ∧ (on 3).flag KB_BOOT_TRIAL = false ∧ (on 3).glb.storedCfg = none ∧
    (on 3).fld (KB_BANK_STAT_STATE ((on 3).fld KB_BOOT_ACTIVE)) = 3 ∧
    (on 3).bankBoots (nth false startIn.bankOk ((on 3).fld KB_BOOT_ACTIVE)) ((on 3).fld KB_BOOT_ACTIVE) = true ∧
    scSilent.wf = true ∧ scSilent.clocked = true ∧ scSilent.mode = 0 ∧ scSilent.glb.islReleased = true ∧
    scSilent.glb.scReported = false ∧ scSilent.coreRuns 0 = true ∧ scSilent.due .scStart (200 * ms) = true ∧ scSilent.flag KB_BOOT_TRIAL = false ∧
    (on 3).clocked = true ∧ ¬((on 3).mode = 1 ∨ (on 3).mode = 2 ∨ (on 3).mode = 7) ∧ (on 1).clocked = true ∧ (on 1).mode = 1 ∧
    (on 1).withEdit.namesUnfitted = false ∧ (on 1).withEdit.pdGood 2 = true := by decide

/-- The fields as reset pass every check; a STEP_LIMIT of 0 that waits does not. -/
theorem wit_StartsAndCommits_checks :
    (on 1).withEdit.cfgOk = true ∧ (∀ c < 2, ((on 1).lawCheck c 0 false).2 = true) ∧ badCfg.clocked = true ∧ badCfg.mode = 1 ∧
    badCfg.withEdit.namesUnfitted = false ∧ badCfg.withEdit.cfgOk = false := by decide +kernel

/-- A free CCS output with B, A and an invalid state, and a free MCS output. -/
theorem wit_VehiclesArePluggedInAndOut :
    vEn.wf = true ∧ vEn.clocked = true ∧ vEn.served (0 : Fin 8) = true ∧ vEn.ccs (0 : Fin 8) = true ∧
    (([900, 900, 900, 900] : List Int).zip [0, 0, 0, 0]).map (fun p => vEn.pilotEval (0 : Fin 8) p.1 p.2)
      = [(1, false), (1, false), (1, false), (1, false)] ∧
    (([1200, 1200, 1200, 1200] : List Int).zip [0, 0, 0, 0]).map (fun p => vEn.pilotEval (0 : Fin 8) p.1 p.2)
      = [(0, false), (0, false), (0, false), (0, false)] ∧
    (([1400, 1400, 1400, 1400] : List Int).zip [0, 0, 0, 0]).map (fun p => vEn.pilotEval (0 : Fin 8) p.1 p.2)
      = [(6, false), (6, false), (6, false), (6, false)] ∧
    (([600, 600, 600, 600] : List Int).zip [0, 0, 0, 0]).map (fun p => vEn.pilotEval (0 : Fin 8) p.1 p.2)
      = [(2, false), (2, false), (2, false), (2, false)] ∧
    vEn.sstate (0 : Fin 8) = 0 ∧ vEn.outFree (0 : Fin 8) = true ∧ vEn.fld (VD_STAT_PILOT (0 : Fin 8)) ≠ 6 ∧
    vMcs.wf = true ∧ vMcs.clocked = true ∧ vMcs.served (0 : Fin 8) = true ∧ vMcs.ccs (0 : Fin 8) = false ∧ idWin 2500 = 1 ∧
    idWin 4500 = 0 ∧ idWin 100 = 2 ∧ vMcs.fld (VD_STAT_PILOT (0 : Fin 8)) = 1 ∧ vMcs.sstate (0 : Fin 8) = 0 ∧
    vMcs.outFree (0 : Fin 8) = true ∧ (vMcs.vh (0 : Fin 8)).idState ≠ 2 := by decide

/-- Plugged outputs of both kinds, one in SETUP with a key for TLS, one in TRANSFER, and one in its retry pause. -/
theorem wit_VehicleLinks :
    (vIn 1).wf = true ∧ (vIn 1).clocked = true ∧ (vIn 1).served (0 : Fin 8) = true ∧ (vIn 1).sstate (0 : Fin 8) = 1 ∧
    (vIn 1).timing (.retryPause (0 : Fin 8)) = false ∧ (vIn 1).ccs (0 : Fin 8) = true ∧ (vIn 1).timing (.slac (0 : Fin 8)) = true ∧
    ((vIn 1).vh (0 : Fin 8)).nmk ≠ none ∧ vMcs1.served (0 : Fin 8) = true ∧ vMcs1.sstate (0 : Fin 8) = 1 ∧
    vMcs1.timing (.retryPause (0 : Fin 8)) = false ∧ vMcs1.ccs (0 : Fin 8) = false ∧ (vIn 2).takesReq (0 : Fin 8) 2 = true ∧
    ((vIn 2).vh (0 : Fin 8)).tcp = true ∧ (vIn 2).flag (VD_STAT_TLS (0 : Fin 8)) = false ∧
    ((vIn 2).keyFor (16 : BitVec 8).toNat (engTls ((vIn 2).outVc (0 : Fin 8)))).isSome = true ∧ (vIn 7).sstate (0 : Fin 8) = 7 ∧
    (vIn 7).flag (VD_STAT_LINK (0 : Fin 8)) = true ∧ (vIn 7).dialog (0 : Fin 8) = true ∧ ((vIn 7).vh (0 : Fin 8)).tcp = true ∧
    (vDue 1).due (.retryPause (0 : Fin 8)) (3 * sec) = true ∧ (vDue 1).sstate (0 : Fin 8) = 1 ∧ (vDue 1).ccs (0 : Fin 8) = true := by
  decide
/-- Hellos that the module takes and does not, and slots whose masks name the VC's engine alone and others. -/
theorem wit_VehicleLinks_tls :
    vTls.takesReq (0 : Fin 8) 2 = true ∧ (vTls.vh (0 : Fin 8)).tcp = true ∧ vTls.flag (VD_STAT_TLS (0 : Fin 8)) = false ∧
    vTls.tlsPick (0 : Fin 8) ⟨true, true, [.chacha20Poly1305Sha256], [.x448], []⟩ = some ⟨true, .chacha20Poly1305Sha256, .x448⟩ ∧
    vTls.tlsPick (0 : Fin 8) ⟨true, false, [.chacha20Poly1305Sha256], [.x448], []⟩ = none ∧
    (vTls.slot (18 : BitVec 8).toNat).now.mask = 2 ^ engTls (vTls.outVc (0 : Fin 8)) ∧
    vTls0.takesReq (0 : Fin 8) 2 = true ∧ (vTls0.vh (0 : Fin 8)).tcp = true ∧ vTls0.flag (VD_STAT_TLS (0 : Fin 8)) = false ∧
    (vTls.slot (17 : BitVec 8).toNat).now.mask = 2 ^ engTls (vTls.outVc (0 : Fin 8)) ∧
    (vTls.slot (16 : BitVec 8).toNat).now.mask ≠ 2 ^ engTls (vTls.outVc (0 : Fin 8)) ∧
    (vTls.keyFor (17 : BitVec 8).toNat (engTls (vTls.outVc (0 : Fin 8)))).isSome = true ∧
    (vTls.keyFor (16 : BitVec 8).toNat (engTls (vTls.outVc (0 : Fin 8)))).isSome = true := by decide
theorem wit_VehicleLinks_slot :
    vTls.tlsSlot (0 : Fin 8) ⟨true, true, [.chacha20Poly1305Sha256], [.x448], []⟩ = some (17 : BitVec 8).toNat ∧
    vTls.tlsSlot (0 : Fin 8) ⟨true, false, [.chacha20Poly1305Sha256], [.x448], []⟩ = some (17 : BitVec 8).toNat ∧
    vTls0.tlsSlot (0 : Fin 8) ⟨true, true, [.chacha20Poly1305Sha256], [.x448], []⟩ = none ∧ (17 : Nat) ≠ (18 : BitVec 8).toNat := by
  decide +kernel

/-- Outputs in SETUP: before the protocol, before the session, with a lost session, and with a session under ISO 15118-20. -/
theorem wit_SessionsAreSetUp :
    (vIn 2).takesReq (0 : Fin 8) 2 = true ∧ ((vIn 2).vh (0 : Fin 8)).phase = 0 ∧ ((vIn 2).vh (0 : Fin 8)).tcp = true ∧
    (ranking ((vIn 2).fld VD_GCFG_PPRIO)).find? ((vIn 2).protoOk (0 : Fin 8) true true true) = some 1 ∧
    (ranking ((vIn 2).fld VD_GCFG_PPRIO)).find? ((vIn 2).protoOk (0 : Fin 8) false false true) = none ∧
    (vPh 1 false).takesReq (0 : Fin 8) 2 = true ∧ ((vPh 1 false).vh (0 : Fin 8)).phase = 1 ∧
    ((vPh 1 false).vh (0 : Fin 8)).lost = false ∧ (vPh 1 true).takesReq (0 : Fin 8) 2 = true ∧
    ((vPh 1 true).vh (0 : Fin 8)).phase = 1 ∧ ((vPh 1 true).vh (0 : Fin 8)).lost = true ∧
    (vPh 1 true).timing (.resume (0 : Fin 8)) = true ∧ (vPh 2 false).takesReq (0 : Fin 8) 2 = true ∧
    2 ≤ ((vPh 2 false).vh (0 : Fin 8)).phase ∧ (vPh 2 false).proto (0 : Fin 8) = 3 ∧
    (vPh 2 false).bptOffered (0 : Fin 8) = false ∧ (vPh 2 false).flag (VD_CFG_EIM (0 : Fin 8)) = true ∧
    ((vPh 2 false).vh (0 : Fin 8)).lead = none ∧ (vPh 2 false).heldCard (0 : Fin 8) = none := by decide

/-- The resume window open, and services offered or not. -/
theorem wit_SessionsAreSetUp_services :
    (vPh 1 true).due (.resume (0 : Fin 8)) ((vPh 1 true).fld VD_GCFG_RESUME_WIN * sec) = false ∧ ((vPh 2 false).vh (0 : Fin 8)).svc = 0 ∧
    1 ≤ (((vPh 2 false).updVh 0 fun v => { v with svc := 1 }).vh (0 : Fin 8)).svc ∧
    ((vPh 2 false).updVh 0 fun v => { v with svc := 1 }).takesReq (0 : Fin 8) 2 = true ∧
    ((vPh 2 false).updVh 0 fun v => { v with svc := 1 }).wf = true := by decide

/-- Outputs in AUTH: under contract, with an answer to a certificate request, authorised and waiting; and both timers. -/
theorem wit_AuthorisationOfSessions :
    (vAuth 0 false).takesReq (0 : Fin 8) 3 = true ∧ (vAuth 0 false).proto (0 : Fin 8) = 2 ∧
    ((vAuth 0 false).vh (0 : Fin 8)).payment = 2 ∧ ((vAuth 0 false).vh (0 : Fin 8)).lead = none ∧
    ((vAuth 0 false).vh (0 : Fin 8)).certAns = 0 ∧ ((vAuth 0 false).vh (0 : Fin 8)).certReq = none ∧
    (vAuth 0 false).flag LEG_STATUS_FULL = false ∧ ((vAuth 0 false).vh (0 : Fin 8)).authReq.isSome = true ∧
    ((vAuth 0 false).vh (0 : Fin 8)).authOk = false ∧ (vAuth 2 true).takesReq (0 : Fin 8) 3 = true ∧
    (vAuth 2 true).proto (0 : Fin 8) = 2 ∧ ((vAuth 2 true).vh (0 : Fin 8)).payment = 2 ∧
    ((vAuth 2 true).vh (0 : Fin 8)).certAns ≠ 0 ∧ ((vAuth 2 true).vh (0 : Fin 8)).authOk = true ∧
    (vAuth 2 true).flag LEG_STATUS_FULL = false ∧ (vDue 3).wf = true ∧ (vDue 3).clocked = true ∧ (vDue 3).sstate (0 : Fin 8) ≠ 11 ∧
    (vDue 3).due (.auth (0 : Fin 8)) ((vDue 3).fld VD_TMO0_AUTH_TMO * 10 * ms) = true ∧
    (vDue 3).due (.cert (0 : Fin 8)) ((vDue 3).fld VD_TMO0_CERT_TMO * 100 * ms) = true := by decide

/-- Dialogues in PARAM, PRECHARGE, TRANSFER and WELDCHECK under each protocol, and a target that is not offered. -/
theorem wit_ChargingIsStartedAndStopped :
    (vRun 4 3).takesReq (0 : Fin 8) 4 = true ∧ ¬((⟨0, 100, 0, 4000, 5000, 50, 0⟩ : VehValues).iTgt < 0 ∧ ((vRun 4 3).vh (0 : Fin 8)).bpt = false) ∧
    (⟨-10, 100, 0, 4000, 5000, 50, 0⟩ : VehValues).iTgt < 0 ∧ (vRun 4 3).proto (0 : Fin 8) = 3 ∧
    (vRun 4 3).fld (VD_STAT_PILOT (0 : Fin 8)) = 2 ∧ (vRun 4 3).running = true ∧ (vRun 6 2).takesReq (0 : Fin 8) 6 = true ∧
    ((vRun 6 2).vh (0 : Fin 8)).preOk = true ∧ (vRun 7 2).takesReq (0 : Fin 8) 7 = true ∧ ((vRun 7 2).vh (0 : Fin 8)).bpt = false ∧
    ((vRun 7 2).vh (0 : Fin 8)).evseStop = 0 ∧ (vRun 7 2).proto (0 : Fin 8) = 2 ∧ (vRun 7 3).takesReq (0 : Fin 8) 7 = true ∧
    (vRun 7 3).proto (0 : Fin 8) = 3 ∧ (vRun 10 2).takesReq (0 : Fin 8) 10 = true ∧ ((vRun 10 2).vh (0 : Fin 8)).endReason = 3 := by
  decide
theorem wit_AuthorisationOfSessions_details :
    (((vAuth 2 true).updVh 0 fun v => { v with payDone := true }).vh (0 : Fin 8)).payDone = true ∧
    ((vAuth 2 true).updVh 0 fun v => { v with payDone := true }).takesReq (0 : Fin 8) 3 = true := by decide
theorem wit_ChargingIsStartedAndStopped_steps :
    (((vRun 4 3).updVh 0 fun v => { v with paramDone := true, schedDone := true, svc := 2 }).vh (0 : Fin 8)).svc = 2 ∧
    (((vRun 4 3).updVh 0 fun v => { v with paramDone := true, schedDone := true, svc := 2 }).vh (0 : Fin 8)).schedDone = true ∧
    ((vRun 4 3).updVh 0 fun v => { v with paramDone := true, schedDone := true, svc := 2 }).takesReq (0 : Fin 8) 4 = true ∧
    ((vRun 4 3).io (0 : Fin 8)).latDone = false ∧ (((vRun 4 3).updIo 0 fun o => { o with latDone := true }).io (0 : Fin 8)).latDone = true ∧
    (vRun 6 2).glb.feNotReady.contains (0 : Fin 8).val = false ∧
    ((vRun 6 2).updGlb fun g => { g with feNotReady := [0] }).glb.feNotReady.contains (0 : Fin 8).val = true ∧
    ((vRun 6 2).updGlb fun g => { g with feNotReady := [0] }).takesReq (0 : Fin 8) 6 = true := by decide
theorem wit_ChargingIsStartedAndStopped_more :
    (vRun 4 3).bptOffered (0 : Fin 8) = false ∧ ((vRun 4 3).vh (0 : Fin 8)).paramDone = false ∧ (vRun 10 2).takesReq (0 : Fin 8) 10 = true ∧
    (((vRun 4 3).updVh 0 fun v => { v with paramDone := true }).vh (0 : Fin 8)).paramDone = true ∧
    ((vRun 4 3).updVh 0 fun v => { v with paramDone := true }).takesReq (0 : Fin 8) 4 = true := by decide

/-- Outputs in each state with every timer due. -/
theorem wit_DialogueTimers :
    (vDue 1).wf = true ∧ (vDue 1).clocked = true ∧ (vDue 1).due (.slac (0 : Fin 8)) ((vDue 1).fld VD_TMO0_SLAC_TMO * sec) = true ∧
    ((vDue 1).vh (0 : Fin 8)).retries < (vDue 1).fld VD_GCFG_RETRY ∧ (vDue 2).due (.setup (0 : Fin 8)) (20 * sec) = true ∧
    (vDue 2).sstate (0 : Fin 8) = 2 ∧ (vDue 7).due (.seq (0 : Fin 8)) (60 * sec) = true ∧
    (vDue 7).due (.loop (0 : Fin 8)) ((vDue 7).fld VD_TMO1_LOOP_TMO * 50 * ms) = true ∧
    (vDue 5).due (.cc (0 : Fin 8)) ((vDue 5).fld VD_TMO1_CC_TMO * sec) = true ∧ (vDue 5).sstate (0 : Fin 8) = 5 ∧
    ((vDue 5).vh (0 : Fin 8)).lockOk = false ∧ (vDue 5).due (.lockConfirm (0 : Fin 8)) sec = true ∧
    (vDue 6).due (.pc (0 : Fin 8)) ((vDue 6).fld VD_TMO1_PC_TMO * sec) = true ∧ (vDue 6).sstate (0 : Fin 8) = 6 ∧
    (vDue 4).due (.paramMode (0 : Fin 8)) (60 * sec) = true ∧ (vDue 4).sstate (0 : Fin 8) = 4 ∧ (vDue 4).running = false ∧
    (vDue 7).due (.stop (0 : Fin 8)) ((vDue 7).fld VD_TMO1_STOP_TMO * 100 * ms) = true ∧
    (vDue 1).due (.resume (0 : Fin 8)) ((vDue 1).fld VD_GCFG_RESUME_WIN * sec) = true ∧ ((vDue 1).vh (0 : Fin 8)).lost = true ∧
    (vDue 1).due (.join (0 : Fin 8)) ((vDue 1).fld VD_GCFG_JOIN_WIN * sec) = true ∧ (vDue 9).sstate (0 : Fin 8) = 9 ∧
    ((vDue 9).fastI (0 : Fin 8)).natAbs ≤ 2000 ∧ (vDue 10).due (.weldWait (0 : Fin 8)) (5 * sec) = true ∧
    (vDue 10).sstate (0 : Fin 8) = 10 ∧ (vDue 4).due (.stop (0 : Fin 8)) ((vDue 4).fld VD_TMO1_STOP_TMO * 100 * ms) = true ∧
    ((vDue 4).vh (0 : Fin 8)).evseStop < 32 := by decide

/-- Outputs in TRANSFER and in PARAM, and one that may join output 1. -/
theorem wit_HostStopsAndJoins :
    (vIn 7).wf = true ∧ (vIn 7).clocked = true ∧ ((vIn 7).vh (0 : Fin 8)).lead = none ∧ (vIn 7).sstate (0 : Fin 8) = 7 ∧
    ((vIn 7).vh (0 : Fin 8)).evseStop = 0 ∧ (vIn 4).sstate (0 : Fin 8) = 4 ∧ ((vIn 4).vh (0 : Fin 8)).lead = none ∧
    vJoin.wf = true ∧ vJoin.clocked = true ∧ (1 : BitVec 4).toNat < 8 ∧ vJoin.joinable (0 : Fin 8) (1 : BitVec 4).toNat = true ∧
    2 ≤ vJoin.sstate (0 : Fin 8) ∧ vJoin.sstate (0 : Fin 8) ≤ 8 ∧ ¬((9 : BitVec 4).toNat < 8) ∧ (0 : Fin 8).val < vJoin.nOuts ∧
    (0 : Fin 8).val < (vIn 7).nOuts ∧ ((vIn 7).setFld GLB_HWREV_VARIANT 2).nOuts ≤ (5 : Fin 8).val ∧
    ((vIn 7).setFld GLB_HWREV_VARIANT 2).wf = true ∧ ((vIn 7).setFld GLB_HWREV_VARIANT 2).clocked = true ∧
    (vDue 1).sstate (0 : Fin 8) = 1 ∧ ((vDue 1).vh (0 : Fin 8)).lead = none ∧ (0 : Fin 8).val < (vDue 1).nOuts := by decide

/-- Output 0 with a zero-flux sensor after 64 quiet SFs, rotations at rest and at the end of each step, a feed with a neutral CT. -/
theorem wit_PrecisionFrontEnds :
    (metS 0 0).wf = true ∧ (metS 0 0).clocked = true ∧ 64 ≤ ((metS 0 0).mo (0 : Fin 8)).capRun ∧
    (metS 0 0).fld (MET_OCFG_SENSOR (0 : Fin 8)) = 2 ∧
    (((metS 0 0).mo (0 : Fin 8)).capSum * ((metS 0 0).fld (MET_RSH_RCAL (0 : Fin 8)) : Int)).natAbs ≤ 2000000 * 12288 ∧
    2000000 * 12288 < (((metS 0 1).mo (0 : Fin 8)).capSum * ((metS 0 1).fld (MET_RSH_RCAL (0 : Fin 8)) : Int)).natAbs ∧
    (metS 0 0).rotMay = true ∧ ((metS 0 0).rot (0 : Fin 10)).step = 0 ∧ (0 : Fin 10).val < (metS 0 0).met.rots.length ∧
    (metS 0 0).coreRuns 7 = true ∧ (metS 0 0).timing (.rot (0 : Fin 10).val) = false ∧
    (∀ k < 5, ((metS k 1).rot (0 : Fin 10)).step = k ∧ ((metS k 1).rot (0 : Fin 10)).left = 0 ∧ (metS k 1).rotMay = true) ∧
    ((metS 2 0).rot (0 : Fin 10)).refDev.natAbs ≤ 100 ∧ ((metS 3 0).rot (0 : Fin 10)).fails = 0 ∧
    ((metS 3 1).rot (0 : Fin 10)).fails ≠ 0 ∧ (metS 3 0).fullScale (0 : Fin 10) 0 = 1600000000 ∧
    (metS 0 0).met.snapHeld = false := by decide

/-- A rotation at the last tick of SWITCH, sums of SHADOW inside and outside the limits, and harmonic windows inside and outside the
tracking range, in order and with a residual current. -/
theorem wit_PrecisionFrontEnds_windows :
    ((metS 4 0).updMet fun m => { m with rots := upd m.rots 0 fun r => { r with left := 1 } }).rotMay = true ∧
    (((metS 4 0).updMet fun m => { m with rots := upd m.rots 0 fun r => { r with left := 1 } }).rot (0 : Fin 10)).left = 1 ∧
    (((metS 3 0).shadowSums (0 : Fin 10) ⟨0, 0, []⟩).1 - ((metS 3 0).shadowSums (0 : Fin 10) ⟨0, 0, []⟩).2).natAbs = 0 ∧
    (50 * ((metS 3 0).shadowSums (0 : Fin 10) ⟨0, 0, [(10 ^ 15, 0)]⟩).2.natAbs : Int)
        + 10 * (metS 3 0).fullScale (0 : Fin 10) ((metS 3 0).rot (0 : Fin 10)).tgt
          * ((metS 3 0).shadowKept (0 : Fin 10) ⟨0, 0, [(10 ^ 15, 0)]⟩).length <
      ((((metS 3 0).shadowSums (0 : Fin 10) ⟨0, 0, [(10 ^ 15, 0)]⟩).1 - ((metS 3 0).shadowSums (0 : Fin 10) ⟨0, 0, [(10 ^ 15, 0)]⟩).2).natAbs
        * 1000000 : Int) ∧
    metW.wf = true ∧ metW.clocked = true ∧ metW.metOn = true ∧ (metW.mf (0 : Fin 2)).stopped = false ∧
    (metW.mf (0 : Fin 2)).done = some winT ∧ metW.flag (MET_FSTAT_FTRACK (0 : Fin 2)) = false ∧
    (metW.setFlag (MET_FSTAT_FTRACK 0) true).flag (MET_FSTAT_FTRACK (0 : Fin 2)) = true ∧ winT.dips = false ∧ winT.moved = true ∧
    metW.flag (MET_FCFG_NCT (0 : Fin 2)) = true ∧ winT.residual (metW.feedIn (0 : Fin 2)) = true ∧
    metW.flag (MET_FSTAT_RES_FAIL (0 : Fin 2)) = false := by decide

/-- A record to sign with keys at hand, and one whose second has passed. -/
theorem wit_RecordsAreSigned :
    (legS 3 false).wf = true ∧ (legS 3 false).clocked = true ∧ (legS 3 false).metOn = true ∧
    ((legS 3 false).leg.store.find? fun r => r.sig.isNone && !(legS 3 false).timing (.signRetry r.num)) = some (recT false) ∧
    ((legS 3 false).keyFor 3 engSig).isSome = true ∧ ((legS 3 false).keyFor 2 engSig).isSome = true ∧
    (legS 3 true).wf = true ∧ (legS 3 true).metOn = true ∧ (legS 3 true).due (.signRetry 5) sec = true ∧
    ((legS 3 true).leg.store.find? fun x => x.num == 5 && x.sig.isNone) = some (recT true) := by decide

/-- OBJECT and COMMAND rings with a descriptor for each object and operation, under OPERATOR and under PUBLIC. -/
theorem wit_LegalObjects :
    (ring 3 1 1 [8, 0, 0, 0, 1, 0, 0, 255]).awaits (0 : Fin 64) 3 1 (slotT 3 1 1 [8, 0, 0, 0, 1, 0, 0, 255]) = true ∧
    (ring 3 1 1 [8, 0, 0, 0, 1, 0, 0, 255]).objAt (slotT 3 1 1 [8, 0, 0, 0, 1, 0, 0, 255]) = some .clock ∧
    (ring 3 1 1 [8, 0, 0, 0, 1, 0, 0, 255]).roleOf 1 = some 1 ∧
    Obj.reads .clock ((ring 3 1 1 []).effRole 1) = true ∧
    (ring 3 1 0 [7, 0, 0, 0, 128, 1, 0, 255]).awaits (0 : Fin 64) 3 1 (slotT 3 1 0 [7, 0, 0, 0, 128, 1, 0, 255]) = true ∧
    (ring 3 1 0 [7, 0, 0, 0, 128, 1, 0, 255]).objAt (slotT 3 1 0 [7, 0, 0, 0, 128, 1, 0, 255]) = some .records ∧
    (ring 3 1 0 []).roleOf 0 = some 0 ∧ Obj.reads .records ((ring 3 1 0 []).effRole 0) = false ∧
    (ring 3 2 1 [20, 0, 0, 0, 13, 0, 0, 255]).awaits (0 : Fin 64) 3 2 (slotT 3 2 1 [20, 0, 0, 0, 13, 0, 0, 255]) = true ∧
    (ring 3 2 1 []).objAt (slotT 3 2 1 [20, 0, 0, 0, 13, 0, 0, 255]) = some .calendar ∧ calOk Cal.rest = true ∧
    (ring 3 2 1 []).objAt (slotT 3 2 1 [1, 0, 1, 0, 0, 8, 0, 255]) = some .demCfg ∧ demOk 15 3 1 = true ∧
    (ring 3 2 1 []).objAt (slotT 3 2 1 [1, 0, 1, 1, 128, 0, 0, 255]) = some (.calib 1) ∧ (ring 3 2 1 []).metroRights 1 = false ∧
    (ring 3 3 1 [9, 0, 0, 0, 10, 0, 1, 255]).awaits (0 : Fin 64) 3 3 (slotT 3 3 1 [9, 0, 0, 0, 10, 0, 1, 255]) = true ∧
    (ring 3 3 1 []).objAt (slotT 3 3 1 [9, 0, 0, 0, 10, 0, 1, 255]) = some .billing ∧
    ((ring 3 3 1 []).updLeg fun l => { l with passive := some (Cal.rest, 7, 2) }).leg.passive = some (Cal.rest, 7, 2) ∧
    (ring 7 1 1 []).awaits (0 : Fin 64) 7 1 (slotT 7 1 1 []) = true ∧ (ring 7 1 1 []).tim.setBy = none ∧
    (ring 7 1 1 []).holdsToken = true ∧ (ring 7 1 1 []).clk = 0 ∧ 1 < ((ring 7 1 1 []).setFld TIME_STATUS_STATE 3).clk ∧
    ((ring 7 1 1 []).setFld TIME_STATUS_STATE 3).awaits (0 : Fin 64) 7 1 (slotT 7 1 1 []) = true := by decide

/-- A GET with an unknown selector, and an APDU longer than its buffer. -/
theorem wit_LegalObjects_selector :
    (ring 3 1 1 [8, 0, 0, 0, 1, 0, 0, 255, 2, 2]).awaits (0 : Fin 64) 3 1 (slotT 3 1 1 [8, 0, 0, 0, 1, 0, 0, 255, 2, 2]) = true ∧
    1 < (slotT 3 1 1 [8, 0, 0, 0, 1, 0, 0, 255, 2, 2]).inl 9 1 ∧ (slotT 3 1 1 [8, 0, 0, 0, 1, 0, 0, 255]).inl 9 1 ≤ 1 ∧
    (ring 6 1 0 [0, 0, 0, 0, 1, 0, 2, 0]).awaits (0 : Fin 64) 6 1 (slotT 6 1 0 [0, 0, 0, 0, 1, 0, 2, 0]) = true ∧
    (slotT 6 1 0 [0, 0, 0, 0, 1, 0, 2, 0]).d.len < (slotT 6 1 0 [0, 0, 0, 0, 1, 0, 2, 0]).inl 4 4 ∧
    (slotT 6 1 0 [0]).inl 4 4 ≤ (slotT 6 1 0 [0]).d.len := by decide

/-- Output 0 with its pair on in TRANSFER after 10 SFs of disagreement, and in CABLECHECK with every test at its end. -/
theorem wit_OutputsAreTrippedAndOpened :
    (islS 7).wf = true ∧ (islS 7).clocked = true ∧ ((islS 7).t0 (0 : Fin 8)).xfer = true ∧ 10 ≤ ((islS 7).io (0 : Fin 8)).pathRun ∧
    ((islS 7).io (0 : Fin 8)).latched = [] ∧ ((islS 7).io (0 : Fin 8)).unlatched = 0 ∧
    (islS 7).outLane (0 : Fin 8) = some 0 ∧ (islS 7).pairOf (0 : Fin 8) = some 0 ∧ ((islS 7).so 0).hsc = true ∧
    (islS 7).due (.pairOff (0 : Fin 8).val) ((islS 7).fld SP_G0_SO_DLY * ms) = true ∧
    ((islS 7).io (0 : Fin 8)).stopFn ≠ 0 ∧ ((islS 7).io (0 : Fin 8)).stage2 = false ∧
    (islS 7).due (.ctlStop (0 : Fin 8).val) ((islS 7).fld SP_G2_STOP1_T * ms) = true ∧ (islS 7).above5 (0 : Fin 8) = true ∧
    ((islS 7).io (0 : Fin 8)).leaving = true ∧ (islS 7).due (.leave50 (0 : Fin 8).val) (50 * ms) = true ∧
    ((islS 5).io (0 : Fin 8)).weldTest = 1 ∧ (islS 5).due (.weldTest (0 : Fin 8).val) (200 * ms) = true ∧
    ((islS 5).io (0 : Fin 8)).weld = false ∧ ((islS 5).io (0 : Fin 8)).weldCheck = true ∧
    (islS 5).due (.weldCheck (0 : Fin 8).val) (100 * ms) = true ∧ (islS 5).sstate (0 : Fin 8) = 5 ∧ ((islS 5).t0 (0 : Fin 8)).sstate = 5 ∧
    ((islS 5).io (0 : Fin 8)).selfFail = false ∧ ((islS 5).io (0 : Fin 8)).selfDue = false ∧ 7 ∉ ((islS 5).io (0 : Fin 8)).latched ∧
    0 < (islS 5).fld (SP_OUT_3_R_FAULT (0 : Fin 8)) * (islS 5).imdU (0 : Fin 8) ∧
    (islS 5).fld (SP_OUT_3_R_FAULT (0 : Fin 8)) * (islS 5).imdU (0 : Fin 8)
      < (islS 5).fld (SP_OUT_3_R_WARN (0 : Fin 8)) * (islS 5).imdU (0 : Fin 8) ∧
    (islS 5).fld (SP_OUT_3_R_WARN (0 : Fin 8)) * (islS 5).imdU (0 : Fin 8) ≤ ((islS 5).io (0 : Fin 8)).rf * 100 ∧
    ((islS 5).io (0 : Fin 8)).latDue = true ∧ (islS 4).wf = true ∧ (islS 4).clocked = true ∧ ((islS 4).io (0 : Fin 8)).latDue = true ∧
    ((islS 4).t0 (0 : Fin 8)).xfer = false ∧ ((islS 7).io (0 : Fin 8)).latDue = true ∧
    (islS 5).wf = true ∧ (islS 5).clocked = true ∧ (islS 7).pdGood 1 = true ∧ (islS 5).pdGood 1 = true ∧ (islS 4).pdGood 1 = true ∧
    ((islS 7).io (0 : Fin 8)).weld = false := by decide

/-- Values beyond and within thresholds, a self-test that is due, a trip standing for a failed one, and latent results that pass and fail. -/
theorem wit_OutputsAreTrippedAndOpened_values :
    (nth (0, 0, 0, 0) (islS 7).isl.thr (0 : Fin 8)).1 * 1000 < (10 ^ 9 : Int).natAbs ∧
    (nth (0, 0, 0, 0) (islS 7).isl.thr (0 : Fin 8)).2.1 * 1000 < (-10 ^ 9 : Int).natAbs ∧
    (0 : Int).natAbs ≤ (nth (0, 0, 0, 0) (islS 7).isl.thr (0 : Fin 8)).1 * 1000 ∧
    (0 : Int).natAbs ≤ (nth (0, 0, 0, 0) (islS 7).isl.thr (0 : Fin 8)).2.1 * 1000 ∧
    (((islS 5).updIo 0 fun o => { o with selfDue := true }).io (0 : Fin 8)).selfDue = true ∧
    (((islS 5).updIo 0 fun o => { o with selfDue := true }).io (0 : Fin 8)).selfFail = false ∧
    (((islS 5).updIo 0 fun o => { o with selfDue := true }).t0 (0 : Fin 8)).sstate = 5 ∧
    ((islS 5).updIo 0 fun o => { o with selfDue := true }).wf = true ∧
    ((true = true) ↔ (⟨31, 0, true, true, true⟩ : LatentRes).comps = 31 ∧ (⟨31, 0, true, true, true⟩ : LatentRes).hs = true ∧
      (⟨31, 0, true, true, true⟩ : LatentRes).ls = true ∧ (⟨31, 0, true, true, true⟩ : LatentRes).imd = true ∧
      ∀ n < (islS 4).nLinks, (islS 4).wired n (0 : Fin 8) = true → (islS 4).usable n = true →
        (⟨31, 0, true, true, true⟩ : LatentRes).stops.getLsbD n = true) ∧
    ((false = true) ↔ (⟨30, 0, true, true, true⟩ : LatentRes).comps = 31 ∧ (⟨30, 0, true, true, true⟩ : LatentRes).hs = true ∧
      (⟨30, 0, true, true, true⟩ : LatentRes).ls = true ∧ (⟨30, 0, true, true, true⟩ : LatentRes).imd = true ∧
      ∀ n < (islS 4).nLinks, (islS 4).wired n (0 : Fin 8) = true → (islS 4).usable n = true →
        (⟨30, 0, true, true, true⟩ : LatentRes).stops.getLsbD n = true) := by decide

/-- A running module, one in DEGRADED at the end of T_REM, inputs in each condition, one in reset, a candidate at each stage. -/
theorem wit_IslandFaultsAndResets :
    (islS 7).wf = true ∧ (islS 7).clocked = true ∧ (islS 7).isl.safe = false ∧ (islS 7).mode = 3 ∧
    (islS 7).flag KB_BOOT_TRIAL = false ∧ (islS 7).fld (coreFld 0) = 1 ∧ (islS 7).coreRuns 0 = true ∧
    (islS 7).fld (coreFld 3) = 1 ∧ (islS 7).isl.afterStop = 0 ∧ degS.wf = true ∧ degS.clocked = true ∧ degS.mode = 4 ∧ degS.isl.tRem = 0 ∧
    degS.isl.afterStop = 0 ∧ 0 < degS.nOuts ∧ 0 < degS.isl.outs.length ∧ (degS.io 0).stopFn = 0 ∧
    sinS.wf = true ∧ sinS.clocked = true ∧ (0 : Fin 16).val < sinS.isl.sins.length ∧ sinS.resetInput (0 : Fin 16) = false ∧
    sinS.sinRole (0 : Fin 16) = 2 ∧ chanDem (sinS.sinType (0 : Fin 16)) false (sinS.sin (0 : Fin 16)).a = true ∧
    (sinS.sin (0 : Fin 16)).told = false ∧ (sinS.sin (0 : Fin 16)).disFrom = some 0 ∧
    sinDisagree (sinS.sinType (0 : Fin 16)) (sinS.sin (0 : Fin 16)).sa (sinS.sin (0 : Fin 16)).sb = true ∧
    (sinS.sin (0 : Fin 16)).fault = false ∧ 0 + sinS.fld (SP_SIN_WIN (0 : Fin 16)) ≤ sinS.tim.sfCount ∧
    (sinS.ces.all fun e => e.laneOut.length ≤ 4) = true ∧ CeSt.reset.laneOut.length ≤ 4 ∧ sinS.sinRole (1 : Fin 16) = 2 ∧ (sinS.sin (1 : Fin 16)).fault = false ∧ sinS.testSrc (1 : Fin 16) false = (0 : Fin 2).val + 1 ∧
    (islR 0).wf = true ∧ (islR 0).clocked = true ∧ (islR 0).isl.safe = true ∧ (islR 0).isl.resetting = true ∧
    (islR 1).isl.candStage = 1 ∧ (islR 1).due .candHost (300 * sec) = true ∧ (islR 2).isl.candStage = 2 ∧
    (islR 2).due .candAck (60 * sec) = true ∧ (islR 1).roleOf 2 = some 2 ∧
    (islC 0x10 0).awaits (0 : Fin 64) 7 0x10 (slotT 7 0x10 2 [0, 0, 0, 0]) = true ∧ (islC 0x10 0).mode = 1 ∧
    (islC 0x10 0).candReason [] ≠ 0 ∧ (islR 1).awaits (0 : Fin 64) 7 0x11 (slotT 7 0x11 2 [1, 0, 0, 0]) = true ∧
    (slotT 7 0x11 2 [1, 0, 0, 0]).inl 0 4 = (islR 1).isl.candChk ∧ (islR 2).isl.candChk = 1 ∧
    (islC 0x12 1).awaits (0 : Fin 64) 7 0x12 (slotT 7 0x12 2 [0, 0, 0, 0]) = true ∧ (islC 0x12 1).hostResetBlock = none ∧
    (islC 0x12 0).awaits (0 : Fin 64) 7 0x12 (slotT 7 0x12 2 [0, 0, 0, 0]) = true ∧ (islC 0x12 0).hostResetBlock = some 0 ∧
    (islS 7).pdGood 1 = true ∧ degS.pdGood 1 = true ∧ sinS.pdGood 1 = true ∧ (islR 0).pdGood 1 = true ∧ (islR 0).hvLocked = false ∧
    ((islR 0).setFld GLB_LIFECYCLE_STATE 2).hvLocked = true ∧ ((on 3).setFld GLB_PD_STATE_PGOOD 0x3FD).pdGood 1 = false ∧
    ((on 3).setFld GLB_PD_STATE_PGOOD 0x3FD).wf = true ∧ ((on 3).setFld GLB_PD_STATE_PGOOD 0x3FD).clocked = true := by decide

/-- A disagreement on the Guard Logic's own levels, and the ms of the first test source. -/
theorem wit_IslandFaultsAndResets_guard :
    sinS.coreRuns 0 = true ∧ sinG.wf = true ∧ sinG.clocked = true ∧ sinG.pdGood 1 = true ∧ sinG.sinRole (0 : Fin 16) ≠ 0 ∧
    (sinG.sin (0 : Fin 16)).fault = false ∧ sinG.fld SP_G0_ARCH = 2 ∧ (sinG.sin (0 : Fin 16)).gdisAt = some 0 ∧
    0 + sinG.fld (SP_SIN_WIN (0 : Fin 16)) * 1050000 + ms ≤ sinG.age ∧ sinS.tim.sfCount % 100 = (0 : Fin 2).val * 50 ∧ sinS.inPulse (0 : Fin 16) false = false ∧ 5 ∉ (islS 7).isl.faults ∧
    (sinS.sin (1 : Fin 16)).a = true ∧ chanDem (sinS.sinType (1 : Fin 16)) false true = false ∧
    (sinS.updSin 1 fun x => { x with a := false }).inPulse (1 : Fin 16) false = true ∧ (sinS.updSin 1 fun x => { x with a := false }).wf = true ∧
    ((sinS.updSin 1 fun x => { x with a := false }).sin (1 : Fin 16)).a = false := by decide

/-- A candidate that passes every check, on a module without an enabled output. -/
theorem wit_IslandFaultsAndResets_candidate : State.reset.candReason candT = 0 := by decide +kernel

/-- Channel 0 in each state, on its own owner's command, with its latch set or clear, and the watchdog over. -/
theorem wit_SwitchChannels :
    (psS 0 0).wf = true ∧ (psS 0 0).clocked = true ∧ (0 : Fin 24).val < (psS 0 0).ps.chans.length ∧
    (psS 0 0).fld (PS_CFG_OWNER (0 : Fin 24)) = 0 ∧ ((psS 0 0).setFld (PS_CFG_OWNER 0) 2).fld (PS_CFG_OWNER (0 : Fin 24)) ≠ 0 ∧
    ((psS 0 0).setFld (PS_CFG_OWNER 0) 2).mode ≠ 7 ∧ (psS 4 0).psState (0 : Fin 24) = 4 ∧ (psS 2 0).psIsOn (0 : Fin 24) = true ∧
    (psS 1 0).psState (0 : Fin 24) = 1 ∧ ((psS 1 0).pc (0 : Fin 24)).pauseG = false ∧ ((psS 1 0).pc (0 : Fin 24)).pauseU = false ∧
    (psS 2 0).pdGood 9 = true ∧ (psS 2 0).fld (PS_LIM_DT_LIM (0 : Fin 24)) ≤ (60 : BitVec 8).toNat ∧
    1210000000000 ≤ wireStep ((psS 2 0).pc (0 : Fin 24)).x (4095 : BitVec 12).toNat (max 1 ((psS 2 0).fld (PS_CFG_IRATE (0 : Fin 24))))
      (wireTau ((psS 2 0).fld (PS_CFG_WIRE (0 : Fin 24)))) ∧
    (psS 2 0).fld (PS_TRIP_LEFT (0 : Fin 24)) = 2 ∧ ((psS 2 0).setFld (PS_TRIP_LEFT 0) 0).fld (PS_TRIP_LEFT (0 : Fin 24)) = 0 ∧
    (psS 0 0).psIsOn (0 : Fin 24) = false ∧ (10 : BitVec 8).toNat + 20 ≤ (psS 3 1).fld (PS_LIM_DT_LIM (0 : Fin 24)) ∧
    (psS 3 1).flag (PS_STAT_THERM (0 : Fin 24)) = true ∧ ((psX 1).pc (0 : Fin 24)).x ≤ 500000000000 ∧
    (psS 1 0).flag (PS_STAT_LIMIT (0 : Fin 24)) = false ∧ (psS 3 0).psState (0 : Fin 24) = 3 ∧ ((psS 3 0).pc (0 : Fin 24)).cmd = true ∧
    (psS 3 0).timing (.psDelay (0 : Fin 24).val) = false ∧ (psS 3 0).flag (PS_STAT_THERM (0 : Fin 24)) = false ∧
    ((psS 3 0).pc (0 : Fin 24)).tripped = true ∧ ((psS 3 1).pc (0 : Fin 24)).told903 = false ∧
    (psS 2 0).due (.psOn (0 : Fin 24).val) (60 * sec) = true ∧ (psS 2 0).fld (PS_LIM_OPEN (0 : Fin 24)) ≠ 0 ∧
    ((psS 2 0).pc (0 : Fin 24)).told908 = false ∧ (psS 2 0).tok = true ∧ (psS 2 0).psState (0 : Fin 24) = 2 ∧
    (psS 2 0).flag PS_WDG_FSA = false ∧ (psS 2 0).flag GLB_MODE_ACT_PAUSE = false ∧ (psS 2 0).flag (PS_CFG_EN (0 : Fin 24)) = true ∧
    (psS 2 0).psWanted (0 : Fin 24) = false ∧ ((psS 0 0).setFlag (PS_CMD_ON 0) true).psWanted (0 : Fin 24) = true ∧
    ((psX 0).pc (0 : Fin 24)).tripped = false ∧ (psX 0).psState (0 : Fin 24) = 0 ∧ (psS 2 0).ps.told912 = false ∧
    (psS 2 0).flag PS_WDG_ARMED = true ∧ (psS 2 0).due .psWdg (10 * ms) = true ∧ ((psS 2 0).pc (0 : Fin 24)).fs = 0 := by decide
theorem wit_SwitchChannels_times :
    (psS 2 0).psInWindow (0 : Fin 24) = false ∧ ((psS 1 0).timed [(.psOn 0, 0)]).psInWindow (0 : Fin 24) = true ∧ ((psS 1 0).timed [(.psOn 0, 0)]).wf = true ∧
    (psS 1 0).due (.psOn (0 : Fin 24).val) ((psS 1 0).psRampNs (0 : Fin 24) + (psS 1 0).psWindowNs (0 : Fin 24) + ((psS 1 0).pc (0 : Fin 24)).pauseNs) = true ∧
    (psS 1 0).due (.psOn (0 : Fin 24).val) ((psS 1 0).psRampNs (0 : Fin 24) + ((psS 1 0).pc (0 : Fin 24)).pauseNs) = true ∧
    (∃ t0, (((psS 2 0).aged.updPc 0 fun c => { c with lowAt := some 0 }).pc (0 : Fin 24)).lowAt = some t0 ∧
      t0 + sec ≤ ((psS 2 0).aged.updPc 0 fun c => { c with lowAt := some 0 }).age) ∧ (psS 2 0).flag (PS_STAT_LIMIT (0 : Fin 24)) = false ∧
    (psS 3 0).railUv (0 : Fin 24) ≠ 2 ∧ (psX 0).railUv (0 : Fin 24) ≠ 2 ∧ (psS 2 0).coreRuns 7 = true ∧
    (psS 2 0).ps.sent = false ∧ (psS 2 0).psSeqOk (BitVec.ofNat 8 (((psS 2 0).ps.txSeq + 1) % 256)) = true := by decide

/-- A frame with a bit turned over, and one that is out of sequence. -/
theorem wit_SwitchChannels_frames :
    (psFrameOk ((psS 2 0).psNextFrame ^^^ 1) && (psS 2 0).psSeqOk (psFrameSeq ((psS 2 0).psNextFrame ^^^ 1))) = false ∧
    psFrameOk ((psS 2 0).psNextFrame ^^^ 1) = false ∧ psFrameOk ((psS 2 0).psNextFrame ^^^ 0) = true ∧
    ((psS 2 0).updPs fun p => { p with rxSeq := some 9 }).psSeqOk (psFrameSeq (((psS 2 0).updPs fun p => { p with rxSeq := some 9 }).psNextFrame ^^^ 0)) = false := by
  decide +kernel

/-- Rail 0 with channels on, ramping and off for undervoltage; pair 0 on for 10 ms, in the ms of its test pulses. -/
theorem wit_SwitchRailsAndPairs :
    nth 0 (psS 2 0).aged.ps.guardAt (0 : Fin 4) + ms ≤ (psS 2 0).aged.age ∧ bit ((psS 2 0).aged.fld PS_RSTAT_GUARD) (0 : Fin 4) = true ∧
    (psS 2 0).aged.pdGood 9 = true ∧ (psS 2 0).aged.wf = true ∧ (psS 2 0).aged.clocked = true ∧
    (∀ low : Bool, ((late.updSo 0 fun p => { p with hsc := true }).updTim fun t => { t with sfCount := if low = true then 75 else 25 }).tim.sfCount % 100
      = (if low = true then 75 else 25) + (0 : Fin 8).val) ∧
    (∀ low : Bool, ((late.updSo 0 fun p => { p with hsc := true }).updTim fun t => { t with sfCount := if low = true then 75 else 25 }).wf = true) ∧
    (∀ low : Bool, ((late.updSo 0 fun p => { p with hsc := true }).updTim fun t => { t with sfCount := if low = true then 75 else 25 }).clocked = true) ∧
    (psS 2 0).wf = true ∧ (psS 2 0).clocked = true ∧ (psS 2 0).pdGood 9 = true ∧ 0 ∈ onRail (0 : Fin 4) ∧
    (psS 2 0).psIsOn 0 = true ∧ (psS 2 0).psInWindow 0 = false ∧ bit ((psS 2 0).fld PS_RSTAT_GUARD) (0 : Fin 4) = true ∧
    (psS 1 0).psState 0 = 1 ∧ 0 < (psS 1 0).ps.chans.length ∧ bit ((psS 5 0).fld PS_RSTAT_UV) (0 : Fin 4) = true ∧
    (psS 5 0).psState 0 = 5 ∧ ((psS 5 0).pc 0).cmd = true ∧ (psS 5 0).flag (PS_STAT_THERM 0) = false ∧
    (islS 7).pdGood 1 = true ∧ late.pdGood 1 = true ∧ ((islS 7).so (0 : Fin 8)).on = true ∧ (0 : Fin 8).val < (islS 7).isl.pairs.length ∧ (islS 7).isl.safe = false ∧
    ((islS 7).so (0 : Fin 8)).lsStuck = none ∧ ((islS 7).so (0 : Fin 8)).hsStuck = none ∧ ((islS 7).so (0 : Fin 8)).hsc = true ∧
    (late.updSo 0 fun p => { p with hsc := true }).wf = true ∧ (late.updSo 0 fun p => { p with hsc := true }).clocked = true ∧
    ((late.updSo 0 fun p => { p with hsc := true }).so (0 : Fin 8)).hsc = true ∧
    ((late.updSo 0 fun p => { p with hsc := true }).so (0 : Fin 8)).onAt + 10 * ms ≤ (late.updSo 0 fun p => { p with hsc := true }).age := by
  decide

/-- Currents of rail 0 above ILIM, at it, and 2 A below it; voltages and times of its undervoltage; a pair just turned off. -/
theorem wit_SwitchRailsAndPairs_values :
    (psS 2 0).fld (PS_RAIL_ILIM (0 : Fin 4)) * 100 < (psS 2 0).ampSum (0 : Fin 4) [5000] ∧
    (psS 2 0).ampSum (0 : Fin 4) [0] ≤ (psS 2 0).fld (PS_RAIL_ILIM (0 : Fin 4)) * 100 ∧
    (psS 2 0).ampSum (0 : Fin 4) [0] + 200 ≤ (psS 2 0).fld (PS_RAIL_ILIM (0 : Fin 4)) * 100 ∧ (119 : BitVec 12).toNat < 120 ∧
    nth 0 (psS 2 0).ps.uv (0 : Fin 4) ≠ 2 ∧ (170 : BitVec 12).toNat = 170 ∧
    ((psS 5 0).updPs fun p => { p with uv := [2, 0, 0, 0] }).wf = true ∧ nth 0 ((psS 5 0).updPs fun p => { p with uv := [2, 0, 0, 0] }).ps.uv (0 : Fin 4) = 2 ∧
    (((psS 5 0).updPs fun p => { p with uv := [2, 0, 0, 0] }).updPc 0 fun c => { c with tripped := false }).psState 0 = 5 ∧
    (((psS 5 0).updPc 0 fun c => { c with cmd := false }).pc 0).cmd = false ∧
    (∀ low : Bool, ((late.updSo 0 fun p => { p with offAt := some late.age }).updTim fun t => { t with sfCount := if low = true then 75 else 25 }).wf = true) ∧
    ((late.updSo 0 fun p => { p with offAt := some late.age }).so (0 : Fin 8)).hsc = false ∧
    ((late.updSo 0 fun p => { p with offAt := some late.age }).so (0 : Fin 8)).offAt = some late.age ∧ late.age < late.age + 300000 := by decide

/-- Panels idle, updating, with a queue and in rail faults, PD8 off, and the keypad in each state. -/
theorem wit_PanelsAndKeypad :
    (pnlS 2 0).wf = true ∧ (pnlS 2 0).clocked = true ∧ (0 : Fin 2).val < (pnlS 2 0).pnl.panels.length ∧ (pnlS 2 0).coreRuns 7 = true ∧
    0 + 1 ≤ (pnlS 2 0).fld (PNL_CFG_WIDTH (0 : Fin 2)) ∧ 0 + 1 ≤ (pnlS 2 0).fld (PNL_CFG_HEIGHT (0 : Fin 2)) ∧
    (pnlS 2 0).inLegal (0 : Fin 2) 0 1 = false ∧ (pnlS 2 0).inLegal (0 : Fin 2) ((pnlS 2 0).fld (PNL_CFG_HEIGHT 0) - 1) 1 = true ∧
    (pnlS 2 0).flag (PNL_TBL_OK (0 : Fin 2)) = true ∧ (pnlS 2 0).pnUsed (0 : Fin 2) = true ∧
    bit ((pnlS 2 0).fld GLB_PD_STATE_ON) 8 = true ∧ ((pnlS 2 0).pn (0 : Fin 2)).queue.length < 32 ∧
    32 ≤ ((pnlS 2 32).pn (0 : Fin 2)).queue.length ∧ (pnlS 2 32).pnState (0 : Fin 2) = 2 ∧ (pnlS 2 0).pdGood 8 = true ∧
    (pnlS 2 0).holding = false ∧ (∀ q ∈ ((pnlS 2 0).pn (0 : Fin 2)).pix, q.2.pend = none) ∧ ((pnlS 2 32).pn (0 : Fin 2)).run = false ∧ (pnlS 2 0).sys.shed = none ∧
    ((pnlS 6 0).pn (0 : Fin 2)).downAt = none ∧ ((pnlS 2 0).pn (0 : Fin 2)).queue = [] ∧
    ((pnlS 2 32).pn (0 : Fin 2)).hold = 0 ∧ ((pnlS 2 0).setFlag SUP_STAT_HOLD true).holding = true ∧
    ((pnlS 2 0).updPn 0 fun p => { p with step := 5 }).pdGood 8 = true ∧
    (((pnlS 0 0).updPn 0 fun p => { p with step := 5 }).pn (0 : Fin 2)).step = 5 ∧ (pnlS 6 0).pnState (0 : Fin 2) = 6 ∧
    ((pnlS 6 0).pn (0 : Fin 2)).step = 0 ∧ (pnlS 6 0).due (.railRetry (0 : Fin 2).val) (10 * sec) = true ∧
    (pnlS 2 0).due .pd8Idle ((pnlS 2 0).fld PNL_GCFG_PD8_IDLE * sec) = true ∧ (pnlS 2 0).flag KP_CFG_EN = true ∧
    pd8S.wf = true ∧ pd8S.clocked = true ∧ pd8S.flag KP_CFG_EN = true ∧ bit (pd8S.fld GLB_PD_STATE_ON) 8 = false ∧
    bit (pd8S.fld GLB_PD_STATE_ON) 0 = true ∧ pd8S.mode = 3 ∧ pd8S.due .pnlWake (60 * sec) = true ∧
    pd8S.fld (PNL_HEAT_CH 1) ≠ 0x1F ∧ pd8S.fldS (PNL_STAT_TEMP 1) < pd8S.fldS (PNL_HEAT_HEAT_ON 1) + 5 ∧
    (pnlS 2 0).timing .strip = false ∧ (pnlS 2 0).due .page ((pnlS 2 0).fld PNL_GCFG_PAGE_T * 10 * sec) = true ∧
    (pnlS 2 0).lineOut (0 : Fin 4) = some 0 ∧ (pnlS 2 0).coreRuns 2 = true ∧ (pnlS 2 0).pnl0Ok = true ∧
    (pnlS 2 0).timing (.line (0 : Fin 4).val) = false ∧ (0 : Fin 4).val < (pnlS 2 0).pnl.lines.length ∧
    (keyS 0 [0xA]).wf = true ∧ (keyS 0 [0xA]).clocked = true ∧ (keyS 0 [0xA]).pnl.multi = false ∧ (keyS 0 [0xA]).pnl.fifo.length < 16 ∧
    16 ≤ (keyS 0 (List.replicate 16 1)).pnl.fifo.length ∧ (keyS 0 [0xA]).pnl.fifo = [0xA] ∧ (keyS 0 [0xA]).coreRuns 7 = true ∧
    (keyS 0 [0xA]).kp = 0 ∧ (keyS 0 [0xA]).pnl0Ok = true ∧ (keyS 0 [0xA]).flag TOK_STAT_LOCKED = false ∧
    (keyS 0 [0xA]).waiting = [0] ∧ (keyS 2 [5]).kp = 2 ∧ (keyS 2 [5]).pnl.digits.length < 20 ∧ (keyS 2 [0xF]).coreRuns 2 = true ∧
    (keyS 2 [5]).due .keyT ((keyS 2 [5]).fld KP_CFG_KEY_T * sec) = true := by decide
theorem wit_PanelsAndKeypad_times :
    (pnlS 2 0).aged.wf = true ∧ (pnlS 2 0).aged.clocked = true ∧ (pnlS 2 32).aged.pdGood 8 = true ∧ (pnlS 2 32).aged.pnState (0 : Fin 2) = 2 ∧
    ((pnlS 2 32).aged.pn (0 : Fin 2)).frameAt + ((pnlS 2 32).aged.pn (0 : Fin 2)).period ≤ (pnlS 2 32).aged.age ∧
    ((pnlS 2 0).aged.pn (0 : Fin 2)).frameAt + ((pnlS 2 0).aged.pn (0 : Fin 2)).period ≤ (pnlS 2 0).aged.age ∧
    ((pnlS 0 0).aged.pn (0 : Fin 2)).stepAt + 10 * ms ≤ (pnlS 0 0).aged.age ∧ ((pnlS 0 0).aged.pn (0 : Fin 2)).stepAt + ms ≤ (pnlS 0 0).aged.age ∧
    (pnlS 2 0).pd8Need = false ∧ pd8S.pnUsed 1 = true ∧ pd8S.coreRuns 7 = true ∧
    pd8S.wf = true ∧ pd8S.clocked = true ∧
    pd8S.mode = 3 ∧ pd8S.due .pnlWake (60 * sec) = true ∧
    (pd8S.timed []).timing .pnlWake = false ∧ pd8S.fld (PNL_HEAT_CH 1) ≠ 0x1F := by
  decide
theorem wit_PanelsAndKeypad_shown :
    (keyS 0 [0xD]).wf = true ∧ (keyS 0 [0xD]).clocked = true ∧ (keyS 0 [0xD]).pnl.fifo = [0xD] ∧
    (keyS 0 [0xD]).coreRuns 2 = true ∧ (keyS 0 [0xD]).pnl0Ok = true ∧ (pnlS 2 0).pnl.chk = none ∧
    ((pnlS 2 0).timed [(.chkShow, 10 * sec)]).due .chkShow (10 * sec) = true ∧
    (((pnlS 2 0).setFld (coreFld 7) 2).coreRuns 7 = false) := by decide

/-- Panel 0 with a waveform in flight in a supply-warning hold; an open entry that PNL0 cannot go on with. -/
theorem wit_PanelsAndKeypad_held :
    (((pnlS 2 0).updPn 0 fun x => { x with pix := [(0, { Pix.rest with drive := some ⟨0, 0, 0, 0, 5, false, none, ⟨0, 0, 1, 1⟩⟩ })] }).setFlag SUP_STAT_HOLD true).holding = true ∧
    (((pnlS 2 0).updPn 0 fun x => { x with pix := [(0, { Pix.rest with drive := some ⟨0, 0, 0, 0, 5, false, none, ⟨0, 0, 1, 1⟩⟩ })] }).setFlag SUP_STAT_HOLD true).wf = true ∧
    ((keyS 2 [5]).updPn 0 fun x => { x with hold := 1 }).pnl0Ok = false ∧ ((keyS 2 [5]).updPn 0 fun x => { x with hold := 1 }).kp = 2 ∧
    (keyS 2 [5]).pnl0Ok = true ∧ (keyS 2 [0xF]).pnl0Ok = true ∧ ((keyS 2 [5]).updPn 0 fun x => { x with hold := 1 }).wf = true := by decide

/-- A token of one digit submitted as the last refusal and before it, a locked entry, and a lock that runs and is over. -/
theorem wit_TokenEntryIsLockedAfterRefusals :
    (keyS 2 [0xF]).wf = true ∧ (keyS 2 [0xF]).clocked = true ∧ (keyS 2 [0xF]).pnl.fifo = 0xF :: [] ∧ (keyS 2 [0xF]).coreRuns 7 = true ∧
    (keyS 2 [0xF]).coreRuns 2 = true ∧ (keyS 2 [0xF]).kp = 2 ∧ ((keyS 2 [0xF]).tokCheck (keyS 2 [0xF]).pnl.digits).1 = 1 ∧
    ((keyS 2 [0xF]).setFld TOK_CFG_LOCK_N 1).fld TOK_CFG_LOCK_N ≤ min 15 (((keyS 2 [0xF]).setFld TOK_CFG_LOCK_N 1).fld TOK_STAT_FAILS + 1) ∧
    (keyS 2 [0xF]).flag TOK_STAT_LOCKED = false ∧
    min 15 ((keyS 2 [0xF]).fld TOK_STAT_FAILS + 1) < (keyS 2 [0xF]).fld TOK_CFG_LOCK_N ∧
    ((keyS 0 [0xA]).setFlag TOK_STAT_LOCKED true).flag TOK_STAT_LOCKED = true ∧
    (keyS 0 [0xA]).due .tokenLock ((keyS 0 [0xA]).fld TOK_CFG_LOCK_T * 300 * sec) = false ∧
    ((keyS 0 [0xA]).timed [(.tokenLock, 10000000 * sec)]).due .tokenLock
      (((keyS 0 [0xA]).timed [(.tokenLock, 10000000 * sec)]).fld TOK_CFG_LOCK_T * 300 * sec) = true := by decide

/-- Ports that poll with a card in the field, one in fault, a card held and a card posted; a tag in the field in each state. -/
theorem wit_ReadersAndLidTag :
    (nfcS 0).wf = true ∧ (nfcS 0).clocked = true ∧ (nfcS 0).portPolls (0 : Fin 4) = true ∧ (nfcS 0).pdGood 8 = true ∧
    (nfcS 0).coreRuns 7 = true ∧ ((nfcS 0).port (0 : Fin 4)).badCycles < 3 ∧ (nfcS 0).timing (.poll (0 : Fin 4).val) = false ∧
    (nfcS 0).cardsFound (0 : Fin 4) [⟨0, [4, 2, 3, 4, 5, 6, 7]⟩] = [⟨0, [4, 2, 3, 4, 5, 6, 7]⟩] ∧
    (∀ r ∈ ((nfcS 0).port (0 : Fin 4)).recent, r.1 ≠ [4, 2, 3, 4, 5, 6, 7]) ∧ (nfcS 0).windows = [] ∧ (nfcS 0).authWaiting (0 : Fin 4) = none ∧
    (nfcS 1).authWaiting (0 : Fin 4) = some 0 ∧
    ((nfcS 0).cardsFound (0 : Fin 4) [⟨0, [4]⟩, ⟨0, [5]⟩]).length = 2 ∧ 3 ≤ ((nfcS 3).port (0 : Fin 4)).badCycles ∧
    (nfcS 3).fld (NR_STAT_STATE (0 : Fin 4)) ≠ 5 ∧ (nfcS 3).due (.antRetry (0 : Fin 4).val) (60 * sec) = true ∧
    (nfcS 3).due (.cardHold (0 : Fin 4).val) ((nfcS 3).fld NR_GCFG_CARD_HOLD * sec) = true ∧
    ((nfcS 3).port (0 : Fin 4)).held.isSome = true ∧
    (apduS none).awaits (0 : Fin 64) 6 1 (slotT 6 1 0 [0]) = true ∧ (apduS none).holdsToken = true ∧
    ((apduS none).port (0 : Fin 4)).card = none ∧ (apduS (some [1])).awaits (0 : Fin 64) 6 1 (slotT 6 1 0 [0]) = true ∧
    ((apduS (some [1])).port (0 : Fin 4)).card = some [1] ∧ ((apduS (some [1])).port (0 : Fin 4)).posted = some [1] ∧
    (apduS (some [1])).timing (.posted (0 : Fin 4).val) = true ∧
    (apduS (some [1])).due (.posted (0 : Fin 4).val) ((apduS (some [1])).fld VD_TMO0_AUTH_TMO * 10 * ms) = false ∧
    (tagS 1 true).wf = true ∧ (tagS 1 true).tag.mod = none ∧ ((tagS 1 true).tag.rf.map (·.committed)) = some true ∧
    ((tagS 1 false).tag.rf.map (·.committed)) = some false ∧ (tagS 1 true).tagGc = true ∧ (tagS 1 true).tag.field = true ∧
    (tagS 1 true).tag.auth = true ∧ (tagS 1 false).tag.auth = false ∧ (tagS 1 true).flag NT_CFG_AUTH_EN = true ∧
    (tagS 1 true).tag.fails < 3 ∧ (tagS 1 true).tag.rndT = some [9] ∧ (tagS 1 true).tag.key ≠ [] ∧
    (tagS 1 true).flag NT_CFG_MBX_EN = true ∧ (tagS 1 true).timing .snap = false ∧ (tagS 1 true).pdGood 0 = true ∧
    (tagS 1 true).tag.looked = (tagS 1 true).logged.length ∧ (tagS 1 true).tag.queue = [0] ∧
    ((tagS 1 true).logged.reverse)[0]? = some ⟨7, [], 0, 0, false, 0⟩ := by decide

/-- The same without a committed shadow, with and without a session. -/
theorem wit_ReadersAndLidTag_answers :
    (∀ b : Bool, ((tagS 1 b).updTag fun t => { t with rf := none }).tag.shadowed = false ∧
      ((tagS 1 b).updTag fun t => { t with rf := none }).tag.field = true ∧ ((tagS 1 b).updTag fun t => { t with rf := none }).tag.auth = b ∧
      ((tagS 1 b).updTag fun t => { t with rf := none }).tagGc = true ∧ ((tagS 1 b).updTag fun t => { t with rf := none }).tag.rndT = some [9] ∧
      ((tagS 1 b).updTag fun t => { t with rf := none }).tag.fails < 3 ∧ ((tagS 1 b).updTag fun t => { t with rf := none }).tag.key ≠ [] ∧
      ((tagS 1 b).updTag fun t => { t with rf := none }).flag NT_CFG_AUTH_EN = true ∧
      ((tagS 1 b).updTag fun t => { t with rf := none }).flag NT_CFG_MBX_EN = true ∧
      ((tagS 1 b).updTag fun t => { t with rf := none }).wf = true) := by decide

/-- The first mailbox slot holds each command. -/
theorem wit_ReadersAndLidTag_mailbox :
    (tagS 1 true).mbxNext = some 1 ∧ ((tagS 1 true).mbx 1).2.1 = 1 ∧ (tagS 2 true).mbxNext = some 1 ∧ ((tagS 2 true).mbx 1).2.1 = 2 ∧
    ((tagS 2 true).mbx 1).2.2.1 ≤ 15 ∧ (tagS 3 true).mbxNext = some 1 ∧ ((tagS 3 true).mbx 1).2.1 = 3 := by decide +kernel

/-- A link with slave 1 found, polled, retried and missed, and an identity in the table. -/
theorem wit_MallasLink :
    (mlS [] none).wf = true ∧ (mlS [] none).clocked = true ∧ (mlS [] none).mlRuns = true ∧ (mlS [] none).coreRuns 7 = true ∧
    (mlS [] none).timing .mlCyc = false ∧ (mlS [] none).ml.todo = [] ∧ (mlS [] none).ml.slaves.length = 63 ∧
    ((mlS [] none).sl 2).confirm = true ∧ (mlS [] none).slSt 2 ≠ 2 ∧ (mlS [1] none).ml.todo = [1] ∧ (mlS [1] none).ml.late = false ∧
    (mlS [1] none).wf = true ∧ (mlS [1] none).clocked = true ∧ (mlS [1] none).ml.retry = none ∧
    isImpulse ((mlS [1] none).firstMode (1 : Fin 64)) 0 [3] = true ∧ (mlS [1] (some 4)).ml.retry = some 4 ∧
    (mlS [] none).slSt (1 : Fin 64) = 2 ∧ 3 ≤ (mlS [] none).fld (ML_SST_MISS (1 : Fin 64)) ∧ (mlS [] none).timing .mlDisc = false ∧
    (((mlS [] none).timed [(.mlDisc, 10 * ms)]).discOpen (0 : Fin 8) || ((mlS [] none).timed [(.mlDisc, 50 * ms)]).discOpen (0 : Fin 8)) = true ∧ (mlS [1] none).ml.next = none ∧ (mlS [] none).slSt 2 ≠ 2 ∧ 2 < (mlS [] none).ml.slaves.length ∧
    (mlS [] none).flag ML_GCFG_TIME_EN = true ∧ (mlS [] none).flag TIME_STATUS_VALID = true ∧
    (mlS [] none).ml.lastSec ≠ some ((mlS [] none).now / sec) ∧ (mlS [] none).now % sec < (mlS [] none).tim.sfLen := by decide

/-- The identity of slave 2 is found, another one is not, and a response frame of slave 1 passes its checks. -/
theorem wit_MallasLink_frames :
    (slaveNos.find? fun n => (mlS [] none).flag (ML_ID_HI_EN n) &&
      (mlS [] none).fld (ML_ID_LO_ID n) + (mlS [] none).fld (ML_ID_HI_ID n) * 2 ^ 32 == (77 : BitVec 48).toNat) = some 2 ∧
    (slaveNos.find? fun n => (mlS [] none).flag (ML_ID_HI_EN n) &&
      (mlS [] none).fld (ML_ID_LO_ID n) + (mlS [] none).fld (ML_ID_HI_ID n) * 2 ^ 32 == (78 : BitVec 48).toNat) = none ∧
    mlControlOk (BitVec.ofNat 36 (mlControl 1 4 (mlPayload 4 1) 1 0 0)).toNat = true ∧ bits (BitVec.ofNat 36 (mlControl 1 4 (mlPayload 4 1) 1 0 0)).toNat 35 34 = 1 ∧
    bits (BitVec.ofNat 36 (mlControl 1 4 (mlPayload 4 1) 1 0 0)).toNat 21 16 = 1 ∧ bits (BitVec.ofNat 36 (mlControl 1 4 (mlPayload 4 1) 1 0 0)).toNat 15 10 = 0 ∧
    mlLenOk (BitVec.ofNat 36 (mlControl 1 4 (mlPayload 4 1) 1 0 0)).toNat (mlSeal [5]).length = true ∧ mlPayloadOk (mlSeal [5]) = true ∧ (mlSeal [5]).length ≤ 34 := by decide +kernel

/-- Rings with nothing, with a completion, halted, held, in RECOVER, and each kind of descriptor. -/
theorem wit_HostRings :
    (rng 1 []).wf = true ∧ (rng 1 []).clocked = true ∧ (rng 1 []).host.rings.length = 64 ∧ (rng 1 []).host.msgs.length = 64 ∧
    (rng 1 []).host.evSent.length = 64 ∧ (rng 1 []).hostOn = true ∧ (rng 1 []).rstate (0 : Fin 64) = 1 ∧
    2 ^ 31 ≤ dist32 (0xFFFFFFFF : Word).toNat ((rng 1 []).ring (0 : Fin 64)).dtail ∧
    dist32 (2000 : Word).toNat ((rng 1 []).ring (0 : Fin 64)).dtail < 2 ^ 31 ∧
    (rng 1 []).rsize (0 : Fin 64) < dist32 (2000 : Word).toNat ((rng 1 []).fld (RING_ACK_ACK_IDX (0 : Fin 64))) ∧
    dist32 (1 : Word).toNat ((rng 1 []).fld (RING_ACK_ACK_IDX (0 : Fin 64))) = 1 ∧ ((rng 1 []).ring (0 : Fin 64)).closing = false ∧
    ((rng 1 []).ring (0 : Fin 64)).slots.length < (rng 1 []).fld (RING_CFG_WIN (0 : Fin 64)) ∧ (rng 1 []).jused < 4096 ∧
    ((rng 1 []).descFault (0 : Fin 64) (dsc 0)) = none ∧ (rng 1 []).descFault (0 : Fin 64) { dsc 0 with type := 3 } = some (3, 8) ∧
    (rng 1 []).pdGood 2 = true ∧ ((rng 1 []).setFld GLB_PD_STATE_PGOOD 0x3FB).pdGood 2 = false ∧
    ((rng 1 []).setFld GLB_PD_STATE_PGOOD 0x3FB).hostOn = true ∧ ((rng 1 []).setFld GLB_PD_STATE_PGOOD 0x3FB).rstate (0 : Fin 64) = 1 ∧
    dist32 (1 : Word).toNat (((rng 1 []).setFld GLB_PD_STATE_PGOOD 0x3FB).fld (RING_ACK_ACK_IDX (0 : Fin 64))) ≤
      ((rng 1 []).setFld GLB_PD_STATE_PGOOD 0x3FB).rsize (0 : Fin 64) ∧
    (dsc 0).idx = (rng 1 []).fld (RING_ACK_ACK_IDX (0 : Fin 64)) ∧ (dsc 5).idx ≠ (rng 1 []).fld (RING_ACK_ACK_IDX (0 : Fin 64)) := by decide

/-- Completions to deliver, with a full ring and with room, completions to consume, a deadline, and messages. -/
theorem wit_HostRings_delivery :
    (((rng 1 [doneT]).ring (0 : Fin 64)).slots.find? fun q =>
      (q.comp.map (·.cidx)) == some ((rng 1 [doneT]).fld (RING_CPROD_CPROD (0 : Fin 64)))) = some doneT ∧ doneT.comp = some complT ∧
    (rng 1 [doneT]).rsize (0 : Fin 64) > dist32 ((rng 1 [doneT]).fld (RING_CPROD_CPROD (0 : Fin 64)))
      ((rng 1 [doneT]).fld (RING_CHEAD_CHEAD (0 : Fin 64))) ∧ ((rng 1 [doneT]).ring (0 : Fin 64)).told07 = false ∧
    ((rng 1 [doneT]).setFld (RING_CHEAD_CHEAD 0) 0x80000000).rsize (0 : Fin 64) ≤
      dist32 (((rng 1 [doneT]).setFld (RING_CHEAD_CHEAD 0) 0x80000000).fld (RING_CPROD_CPROD (0 : Fin 64)))
        (((rng 1 [doneT]).setFld (RING_CHEAD_CHEAD 0) 0x80000000).fld (RING_CHEAD_CHEAD (0 : Fin 64))) ∧
    ((rng 1 [doneT]).ring (0 : Fin 64)).waiting = [] ∧ complT.irq = true ∧
    nth false (rng 1 [doneT]).host.mask ((rng 1 [doneT]).fld (RING_CFG_VEC (0 : Fin 64))) = false ∧
    dist32 ((rng 1 []).fld (RING_CPROD_CPROD (0 : Fin 64))) ((rng 1 []).fld (RING_CHEAD_CHEAD (0 : Fin 64))) <
      dist32 (5 : Word).toNat ((rng 1 []).fld (RING_CHEAD_CHEAD (0 : Fin 64))) ∧
    dist32 (0 : Word).toNat ((rng 1 []).fld (RING_CHEAD_CHEAD (0 : Fin 64))) ≤
      dist32 ((rng 1 []).fld (RING_CPROD_CPROD (0 : Fin 64))) ((rng 1 []).fld (RING_CHEAD_CHEAD (0 : Fin 64))) ∧
    (rng 3 []).hostOn = true ∧ (rng 3 []).rstate (0 : Fin 64) = 3 ∧ (rng 1 [waitT]).wf = true ∧ (rng 1 [waitT]).clocked = true ∧
    (((rng 1 [waitT]).ring (0 : Fin 64)).slots.find? fun q => q.step == 1 && q.d.idx == 7) = some waitT ∧
    (rng 1 [waitT]).due (.deadline waitT.num) (waitT.d.deadline * ms) = true ∧ 0 < ((rng 1 []).ring (0 : Fin 64)).unsig ∧
    ((rng 1 []).aged.ring (0 : Fin 64)).unsigAt + (rng 1 []).aged.fld (RING_COAL_COAL_T (0 : Fin 64)) * 1000 ≤ (rng 1 []).aged.age ∧
    (rng 1 []).aged.hostOn = true ∧ 0 < ((rng 1 []).aged.ring (0 : Fin 64)).unsig ∧ (rng 1 []).aged.fld (RING_COAL_COAL_T (0 : Fin 64)) ≠ 0 ∧
    nth false (rng 1 []).aged.host.mask ((rng 1 []).aged.fld (RING_CFG_VEC (0 : Fin 64))) = false ∧ (rng 1 []).aged.wf = true ∧
    (rng 1 []).aged.clocked = true ∧ (rng 1 []).fld (RING_COAL_COAL_T (0 : Fin 64)) ≠ 0 ∧ nth false (rng 1 []).host.pend (0 : Fin 64) = true := by decide

/-- Rings OFF, in RECOVER and in ERROR, with descriptors of each step; a link that is up. -/
theorem wit_HostRings_control :
    (rng 0 []).hostOn = true ∧ (rng 0 []).rstate (0 : Fin 64) = 0 ∧ (rng 0 []).rtype (0 : Fin 64) ≠ 0 ∧
    (rng 2 []).rstate (0 : Fin 64) = 2 ∧ ((rng 2 []).ring (0 : Fin 64)).restart = false ∧ (rng 2 [waitT]).wf = true ∧
    ((rng 2 [doneT]).updRing 0 fun r => { r with restart := true }).hostOn = true ∧
    ((((rng 2 [doneT]).updRing 0 fun r => { r with restart := true }).ring (0 : Fin 64)).slots.any fun q => q.step == 3) = true ∧
    ((((rng 2 [doneT]).updRing 0 fun r => { r with restart := true }).ring (0 : Fin 64)).slots.map (·.num)).Nodup ∧
    (rng 2 [waitT]).afterStart (0 : Fin 64) { waitT with step := 2 } = some (6, 0) ∧ (rng 4 [waitT]).rstate (0 : Fin 64) = 4 ∧
    ((rng 4 [waitT]).ring (0 : Fin 64)).slots ≠ [] ∧ isRecv ((rng 1 [waitT]).rtype (0 : Fin 64)) waitT.d.op = true ∧
    (rng 1 []).host.linkUp = true ∧ (rng 1 []).pdGood 6 = true := by decide

/-- Events, records, requests and trace records to hand over. -/
theorem wit_HostRings_data :
    (rcv 1).wf = true ∧ (rcv 1).clocked = true ∧ (rcv 1).rtype (0 : Fin 64) = 1 ∧ (rcv 1).rstate (0 : Fin 64) = 1 ∧
    ((rcv 1).updRing 0 fun r => { r with slots := [] }).nextDesc (0 : Fin 64) 1 = none ∧
    nth 0 (rcv 1).host.evSent (0 : Fin 64) < (rcv 1).logged.length ∧ ((rcv 1).ring (0 : Fin 64)).told08 = false ∧
    (rcv 1).awaits (0 : Fin 64) 1 1 (slotT 1 1 0 []) = true ∧ (rcv 2).awaits (0 : Fin 64) 2 1 (slotT 2 1 0 []) = true ∧
    (rcv 2).rinst (0 : Fin 64) ≠ 1 ∧
    ((rcv 2).leg.store.find? fun r => r.sig.isSome && r.dmr == 0) = some { recT false with sig := some [1] } ∧
    (rcv 4).awaits (0 : Fin 64) 4 1 (slotT 4 1 0 []) = true ∧
    ((rcv 4).vehc.posted.find? fun r => !r.sent && (rcv 4).outVc r.out == (rcv 4).rinst (0 : Fin 64)) = some (reqT 1) ∧
    (rcv 5).awaits (0 : Fin 64) 5 1 (slotT 5 1 0 []) = true ∧
    ((idx 8).findSome? fun b => ((rcv 5).cup ((rcv 5).rinst (0 : Fin 64)) b).records.head?) = some ⟨0, 4, 1, 0, none, 0, []⟩ := by decide
theorem wit_HostRings_sizes :
    ((rcv 2).dmrBytes (recT false).body ++ [1]).length ≤ (slotT 2 1 0 []).d.len ∧ (reqBytes (reqT 1)).length ≤ (slotT 4 1 0 []).d.len := by
  decide +kernel

/-- The host's answers, stop and price, with and without the token. -/
theorem wit_HostRings_answers :
    (ans 2 1 [9, 0, 0, 0, 0]).awaits (0 : Fin 64) 4 2 (slotT 4 2 0 [9, 0, 0, 0, 0]) = true ∧ (ans 2 1 [9, 0, 0, 0, 0]).holdsToken = true ∧
    ((ans 2 1 [9, 0, 0, 0, 0]).setFlag CQ_GCFG_TWIN_EN true |>.setFlag CQ_GCFG_TOK false).holdsToken = false ∧
    (ans 2 1 [9, 0, 0, 0, 0]).wf = true ∧ (ans 2 1 [9, 0, 0, 0, 0]).clocked = true ∧
    ((ans 2 1 [9, 0, 0, 0, 0]).vehc.posted.find? fun r => r.rid == (slotT 4 2 0 [9, 0, 0, 0, 0]).inl 0 4) = some (reqT 1) ∧
    ((ans 2 2 [9, 0, 0, 0, 0]).vehc.posted.find? fun r => r.rid == (slotT 4 2 0 [9, 0, 0, 0, 0]).inl 0 4) = some (reqT 2) ∧
    ((ans 2 1 [9, 0, 0, 0, 0]).vehc.posted.find? fun r => r.rid == (slotT 4 2 0 [8, 0, 0, 0, 0]).inl 0 4) = none ∧
    ((ans 2 1 [9, 0, 0, 0, 0]).vh 0).authReq = some 9 ∧ ((ans 2 2 [9, 0, 0, 0, 0]).vh 0).certReq = some 9 ∧ ((ans 2 2 [9, 0, 0, 0, 0]).vh 0).authReq ≠ some 9 ∧ ((ans 2 1 [9, 0, 0, 0, 0]).vh 0).certReq ≠ some 9 ∧
    (ans 2 1 [9, 0, 0, 0, 0]).due (.auth 0) ((ans 2 1 [9, 0, 0, 0, 0]).fld VD_TMO0_AUTH_TMO * 10 * ms) = false ∧
    (ans 2 2 [9, 0, 0, 0, 0]).due (.cert 0) ((ans 2 2 [9, 0, 0, 0, 0]).fld VD_TMO0_CERT_TMO * 100 * ms) = false ∧ (slotT 4 2 0 [9, 0, 0, 0, 0]).inl 4 1 ≠ 1 ∧
    (slotT 4 2 0 [9, 0, 0, 0, 1]).inl 4 1 = 1 ∧ (slotT 4 2 0 [9, 0, 0, 0, 1]).d.data ≠ none ∧
    ((ansN.ring (0 : Fin 64)).slots.map fun q => (q.inl 4 1, q.d.data)) = [(1, none)] ∧ (ansN.vh 0).certReq = some 9 ∧
    ansN.due (.cert 0) (ansN.fld VD_TMO0_CERT_TMO * 100 * ms) = false ∧
    ansN.awaits (0 : Fin 64) 4 2 { slotT 4 2 0 [9, 0, 0, 0, 1] with d := { (slotT 4 2 0 [9, 0, 0, 0, 1]).d with data := none } } = true ∧
    (ans 3 1 [0]).awaits (0 : Fin 64) 4 3 (slotT 4 3 0 [0]) = true ∧ 0 < (ans 3 1 [0]).nOuts ∧ ((ans 3 1 [0]).vh 0).lead = none ∧
    1 ≤ (ans 3 1 [0]).sstate 0 ∧ (ans 3 1 [0]).sstate 0 ≤ 6 ∧ (slotT 4 3 0 [0]).inl 0 1 < (ans 3 1 [0]).nOuts ∧
    (ans 4 1 [0]).awaits (0 : Fin 64) 4 4 (slotT 4 4 0 [0]) = true ∧ (slotT 4 4 0 [0]).d.data = some [] := by decide

/-- A link that a shed took, slots that the journal lost, and an answer whose verdict has no name. -/
theorem wit_HostRings_lost :
    ((rng 1 []).updHost fun h => { h with linkUp := false, linkLost := true }).pdGood 6 = true ∧
    ((rng 1 []).updHost fun h => { h with linkUp := false, linkLost := true }).host.linkLost = true ∧
    ((rng 1 []).updHost fun h => { h with linkUp := false, linkLost := true }).clocked = true ∧
    (rng 2 [{ waitT with lost := true }]).rstate (0 : Fin 64) = 2 ∧
    (rng 2 [{ waitT with lost := true }]).afterStart (0 : Fin 64) { waitT with lost := true } = some (6, 2) ∧
    (ans 2 1 [9, 0, 0, 0, 3]).awaits (0 : Fin 64) 4 2 (slotT 4 2 0 [9, 0, 0, 0, 3]) = true ∧
    2 < (slotT 4 2 0 [9, 0, 0, 0, 3]).inl 4 1 ∧ (slotT 4 2 0 [9, 0, 0, 0, 1]).inl 4 1 ≤ 2 := by decide

/-- Sessions to end, a key to flip, and each operation under its role. -/
theorem wit_RolesKeysAndUpdates :
    (updS 0x22 2 []).wf = true ∧ (updS 0x22 2 []).clocked = true ∧
    Sparse.wfFrom (fun _ => KeySlot.empty) none (updS 0x22 2 []).keys.slots = true ∧ (updS 0x22 2 []).keys.banks.length = 2 ∧
    (updS 0x22 2 []).due (.roleIdle 2) (900 * sec) = false ∧ ((updS 0x22 2 []).timed [(.roleIdle 2, 900 * sec)]).due (.roleIdle 2) (900 * sec) = true ∧
    ((updS 0x22 2 []).keys.roles.any fun r => r.handle == 2) = true ∧ (updS 0x22 2 []).keys.lock = some 2 ∧
    ((updS 0x22 2 []).slot (1 : BitVec 8).toNat).flip = true ∧ ((updS 0x22 2 []).slot (1 : BitVec 8).toNat).due = true ∧
    (updS 0x20 0 []).awaits (0 : Fin 64) 7 0x20 (slotT 7 0x20 0 []) = true ∧ 32 ≤ (slotT 7 0x20 0 []).d.len ∧
    (updS 0x21 0 []).awaits (0 : Fin 64) 7 0x21 (slotT 7 0x21 0 []) = true ∧ (slotT 7 0x21 0 []).d.data = some [] ∧
    (updS 0x22 2 []).awaits (0 : Fin 64) 7 0x22 (slotT 7 0x22 2 []) = true ∧
    (updS 0x22 2 []).roleOf (slotT 7 0x22 2 []).d.sess = some (1 + 1) ∧ (updS 0x24 2 []).awaits (0 : Fin 64) 7 0x24 (slotT 7 0x24 2 []) = true ∧
    (updS 0x25 1 [16, 2]).awaits (0 : Fin 64) 7 0x25 (slotT 7 0x25 1 [16, 2]) = true ∧ (slotT 7 0x25 1 [16, 2]).inl 0 1 = 16 ∧
    (slotRule 16).gen = true ∧ (updS 0x25 1 [16, 2]).slotOpen 16 = true ∧ (slotRule 16).algs.contains ((slotT 7 0x25 1 [16, 2]).inl 1 1) = true ∧
    (updS 0x25 1 [16, 2]).slotRole 16 1 = true ∧ (updS 0x26 0 [16]).awaits (0 : Fin 64) 7 0x26 (slotT 7 0x26 0 [16]) = true ∧
    ((updS 0x26 0 [16]).slot 16).now.alg = 0 ∧ 1 ≤ ((updS 0x26 0 [1]).slot 1).now.alg ∧ ((updS 0x26 0 [1]).slot 1).now.alg ≤ 4 ∧
    ((updS 0x26 0 [1]).keyFor 1 engSig).isSome = true := by decide

/-- The signed report, TLS slots, revocation, the limited settings and the update. -/
theorem wit_RolesKeysAndUpdates_updates :
    (updS 0x29 0 [1]).awaits (0 : Fin 64) 7 0x29 (slotT 7 0x29 0 [1]) = true ∧ (ring 7 0x29 0 [1]).keyFor 1 engSig = none ∧
    (updS 0x27 1 [16]).awaits (0 : Fin 64) 7 0x27 (slotT 7 0x27 1 [16]) = true ∧ (updS 0x27 1 [16]).roleOf 1 = some 1 ∧
    16 ≤ (slotT 7 0x27 1 [16]).inl 0 1 ∧ (updS 0x28 1 [16]).awaits (0 : Fin 64) 7 0x28 (slotT 7 0x28 1 [16]) = true ∧
    (updS 0x2A 4 [2]).awaits (0 : Fin 64) 7 0x2A (slotT 7 0x2A 4 [2]) = true ∧ (updS 0x2A 4 [2]).roleOf 4 = some 4 ∧
    setBit ((updS 0x2A 4 [2]).fld KB_BOOT_REVOKED) 2 true ≠ 15 ∧ ((updS 0x2A 4 [2]).bank 0).hdr.fvk ≠ 2 ∧
    ((updS 0x2A 4 [2]).bank 1).hdr.fvk ≠ 2 ∧ ((updS 0x2C 4 [0]).setFld GLB_LIFECYCLE_STATE 0).lifecycle = 0 ∧
    ((updS 0x2C 4 [0]).setFlag KB_CNT_ID_LEFT true).flag KB_CNT_ID_LEFT = true ∧
    (updS 0x2C 4 [0]).awaits (0 : Fin 64) 7 0x2C (slotT 7 0x2C 4 [0]) = true ∧
    ((updS 0x2C 2 [1, 0, 0, 0, 0, 0, 0, 0, 3]).setFld GLB_MODE_MODE 2).lifeOk 2 ((slotT 7 0x2C 2 [1, 0, 0, 0, 0, 0, 0, 0, 3]).inl 8 8) = true ∧
    (updS 0x30 2 [0]).awaits (0 : Fin 64) 7 0x30 (slotT 7 0x30 2 [0]) = true ∧ (updS 0x30 2 [0]).roleOf 2 = some 2 ∧
    (ring 7 0x30 2 [0]).keys.lock = none ∧ (ring 7 0x30 2 [0]).flag KB_BOOT_TRIAL = false ∧
    (updS 0x31 2 [0, 0x10]).awaits (0 : Fin 64) 7 0x31 (slotT 7 0x31 2 [0, 0x10]) = true ∧
    (slotT 7 0x31 2 [0, 0x10]).inl 0 4 = 4096 + (updS 0x31 2 [0, 0x10]).keys.stream.length ∧
    (slotT 7 0x31 2 [0]).inl 0 4 ≠ 4096 + (updS 0x31 2 [0]).keys.stream.length ∧ (updS 0x31 2 [0]).keys.upd = some BankHdr.empty ∧
    (updS 0x32 2 []).awaits (0 : Fin 64) 7 0x32 (slotT 7 0x32 2 []) = true ∧ (updS 0x32 2 []).keys.noBank = false ∧
    buildBank ((updS 0x32 2 []).bank ((updS 0x32 2 []).fld KB_BOOT_ACTIVE)) BankHdr.empty (updS 0x32 2 []).keys.stream =
      some ⟨BankHdr.empty, []⟩ ∧ (updS 0x33 2 []).awaits (0 : Fin 64) 7 0x33 (slotT 7 0x33 2 []) = true := by decide

/-- Tiles with one flipped bit, with none, and uncorrectable; a memory with writes waiting, and spares used up. -/
theorem wit_MemoryIntegrity :
    (memS 1).wf = true ∧ (memS 1).clocked = true ∧ (memS 1).mem.mems.length = 9 ∧
    tileCheck ((memS 1).tileNow (2 : Fin 9) 5 (tileT 1 0)) = .fixed 0 (tileT 0 0) ∧
    ((memS 1).mem.fixed.any fun p => p.1 == (2 : Fin 9).val && p.2.1 == 16 * 5 + 0 && decide ((memS 1).age < p.2.2 + 86400 * sec)) = false ∧
    ((memS 1).unit (2 : Fin 9)).told01 = false ∧ (memS 1).fld (MI_REMAP_USED (2 : Fin 9)) < (memS 1).fld (MI_REMAP_SPARE (2 : Fin 9)) ∧
    ((memS 1).setFld (MI_REMAP_USED 2) 255).fld (MI_REMAP_SPARE (2 : Fin 9)) ≤ ((memS 1).setFld (MI_REMAP_USED 2) 255).fld (MI_REMAP_USED (2 : Fin 9)) ∧
    (memS 1).mayWrite (2 : Fin 9) (3 : Fin 8) = true ∧ (memS 1).mayWrite (2 : Fin 9) (5 : Fin 8) = false ∧
    ((memS 1).unit (2 : Fin 9)).buf.length < 8 ∧ 8 ≤ ((memS 8).unit (2 : Fin 9)).buf.length ∧
    (((memS 8).unit (2 : Fin 9)).buf.any fun y => y.word == 99) = false ∧ ((memS 1).unit (2 : Fin 9)).buf = [⟨80, 7, 15, none⟩] ∧
    tileCheck ((memS 1).tileNow (2 : Fin 9) (80 / 16) (tileT 0 0)) = .good ∧
    (writeTile ((memS 1).tileNow (2 : Fin 9) (80 / 16) (tileT 0 0)) ⟨80, 7, 15, none⟩).isSome = true ∧
    writeTile ((memS 1).tileNow (2 : Fin 9) (80 / 16) (tileT 1 2)) ⟨80, 7, 15, none⟩ = none ∧ (memS 1).pdGood (memDomain (2 : Fin 9)) = true ∧
    ((memS 1).unit (2 : Fin 9)).pos + 1 < memTiles (2 : Fin 9) ∧
    tileCheck ((memS 1).tileNow (2 : Fin 9) ((memS 1).unit (2 : Fin 9)).pos (tileT 0 0)) = .good ∧
    tileCheck ((memS 1).tileNow (2 : Fin 9) ((memS 1).unit (2 : Fin 9)).pos (tileT 0 1)) =
      .bad [0, 1, 2, 3, 4, 5, 6, 7, 8, 9, 10, 11, 12, 13, 14, 15] ∧
    (memS 1).scrubPaced (2 : Fin 9) = true ∧ (memS 1).flag KB_BOOT_TRIAL = false ∧
    (((memS 1).updUnit 2 fun u => { u with buf := [⟨80, 7, 15, some 3⟩] }).unit (2 : Fin 9)).buf = [⟨80, 7, 15, some 3⟩] ∧
    (memS 1).fld (coreFld (3 : Fin 8)) = 1 ∧ writeTile ((memS 1).tileNow (2 : Fin 9) (80 / 16) (tileT 1 2)) ⟨80, 7, 15, some 3⟩ = none ∧
    memTiles (2 : Fin 9) ≤ (((memS 1).updUnit 2 fun u => { u with pos := 65535 }).unit (2 : Fin 9)).pos + 1 := by decide +kernel

/-- A CE's memory inside and outside its compute window, a tile without a waiting correction, and a channel's write. -/
theorem wit_MemoryIntegrity_window :
    (memS 1).inWindow (2 : Fin 9) = false ∧ ((memS 1).updCe 0 fun e => { e with window := true }).inWindow (4 : Fin 9) = true ∧
    tileCheck (((memS 1).updCe 0 fun e => { e with window := true }).tileNow (4 : Fin 9) 5 (tileT 1 0)) = .fixed 0 (tileT 0 0) ∧
    ((memS 1).updCe 0 fun e => { e with window := true }).clocked = true ∧
    ((memS 1).mem.back.any fun p => p.1 == (2 : Fin 9).val && p.2.1 / 16 == 80 / 16) = false := by decide +kernel

/-- A pass that is late or nearly so, a running core, and check-value units armed. -/
theorem wit_MemoryIntegrity_units :
    (memS 1).due (.scrub (2 : Fin 9).val) ((memS 1).scrubLate (2 : Fin 9)) = true ∧ ((memS 1).unit (2 : Fin 9)).late = false ∧
    ((memS 1).timed [(.scrub 2, 900000000)]).due (.scrub (2 : Fin 9).val) ((memS 1).scrubLate (2 : Fin 9) * 4 / 5) = true ∧
    ((memS 1).timed [(.scrub 2, 900000000)]).due (.scrub (2 : Fin 9).val) ((memS 1).scrubLate (2 : Fin 9)) = false ∧
    (memS 1).fld (coreFld (3 : Fin 8)) = 1 ∧ (memS 1).flag KB_BOOT_TRIAL = false ∧
    (memS 1).fld (CVU_CFG_STATE (2 : Fin 8)) = 2 ∧ (memS 1).flag (CVU_CFG_SWEEP (2 : Fin 8)) = true ∧
    (memS 1).due (.cvu (2 : Fin 8).val) ((memS 1).fld (CVU_CFG_PERIOD (2 : Fin 8)) * sec) = true ∧
    (0 : Word).toNat = (memS 1).fld (CVU_EXP_EXPECT (2 : Fin 8)) ∧ (1 : Word).toNat ≠ (memS 1).fld (CVU_EXP_EXPECT (2 : Fin 8)) ∧
    (memS 1).mode ≠ 7 ∧ (memS 1).fld (CVU_CFG_ACTION (2 : Fin 8)) = 1 ∧ (memS 1).fld (coreFld (memCore (cvuMem (2 : Fin 8)))) = 1 ∧
    (memS 1).fld (CVU_CFG_STATE (0 : Fin 8)) = 2 ∧ (memS 1).flag (CVU_CFG_SWEEP (0 : Fin 8)) = true ∧
    (memS 1).due (.cvu (0 : Fin 8).val) ((memS 1).fld (CVU_CFG_PERIOD (0 : Fin 8)) * sec) = true ∧
    (memS 1).fld (CVU_CFG_ACTION (0 : Fin 8)) ≠ 1 ∧ (memS 1).noXfer = true ∧ (memS 1).flag (CVU_CFG_GUARD (2 : Fin 8)) = true ∧
    (memS 1).fld (CVU_BASE_BASE (2 : Fin 8)) ≤ (5 : BitVec 32).toNat ∧
    (5 : BitVec 32).toNat < (memS 1).fld (CVU_BASE_BASE (2 : Fin 8)) + (memS 1).fld (CVU_LEN_LEN (2 : Fin 8)) ∧
    (((memS 1).setFld GLB_MODE_MODE 7).mode = 7) := by decide +kernel

/-- A module without supply, one in each mode that a request names, and one that waits for its sessions. -/
theorem wit_ModesStartsAndTrials :
    ((on 0).setReg R_GLB_PD_STATE 0).wf = true ∧ ((on 0).setReg R_GLB_PD_STATE 0).pdOn 0 = false ∧ supOk (2400 : BitVec 16).toNat = true ∧
    (∀ m ∈ [0, 1, 2, 3, 4, 6, 7], (on m).wf = true ∧ (on m).mode = m ∧ (on m).sys.shed = none) ∧ (modS 1 0).isl.conf = true ∧
    (modS 1 0).mode = 1 ∧ (modS 1 0).flag GLB_CFG_COMMIT_COMMITTED = true ∧ (on 1).isl.conf = false ∧ (modS 2 0).runBars = [] ∧
    (modS 1 0).mode = 1 ∧ (modS 1 0).isl.conf = true ∧ (on 1).isl.conf = false ∧ (on 1).sys.shed = none ∧ (modS 2 0).mode = 2 ∧ (on 2).runBars = [2, 3, 5] ∧ (on 2).lifecycle < 2 ∧ 2 ≤ ((on 2).setFld GLB_LIFECYCLE_STATE 2).lifecycle ∧
    (modS 3 2).wf = true ∧ (modS 3 2).clocked = true ∧ (modS 3 2).sys.req = 2 ∧ (modS 3 2).mode = 3 ∧ (modS 3 2).noXfer = true ∧
    (modS 3 15).sys.req = 15 ∧ (modS 3 15).noXfer = true ∧ (modS 3 2).due .reqStop (10 * sec) = true ∧ (modS 3 2).isl.outs.length = 8 ∧
    (modS 3 0).hvLocked = false ∧ (∀ m ∈ [1, 2, 3], ((modS m 0).setFld GLB_LIFECYCLE_STATE 2).hvLocked = true ∧
      ((modS m 0).setFld GLB_LIFECYCLE_STATE 2).mode = m ∧ ((modS m 0).setFld GLB_LIFECYCLE_STATE 2).sys.shed = none) ∧
    ((modS 3 2).setFld (VD_STAT_SSTATE 0) 7).xfer 0 = true ∧ ((modS 3 2).io 0).stopFn = 0 ∧ (modS 2 0).due .bench (60 * sec) = true := by decide

/-- BENCH with held cores and a step that is over; a deferred start. -/
theorem wit_ModesStartsAndTrials_bench :
    ((modS 7 0).setFlag BN_CTRL_HOLD true).mode = 7 ∧ ((modS 7 0).setFlag BN_CTRL_HOLD true).flag BN_CTRL_HOLD = true ∧
    (modS 7 0).sys.step = none ∧ (5 : BitVec 16) ≠ 0 ∧ (benchCores.any fun i => ((modS 7 0).setFld (coreFld 5) 3).fld (coreFld i) == 3) = true ∧
    ((modS 7 0).updSys fun x => { x with step := some 0 }).sys.step = some 0 ∧ (modS 7 0).clocked = true ∧ (modS 7 0).wf = true ∧
    ((modS 2 0).updKeys fun k => { k with deferred := some 3 }).keys.deferred = some 3 ∧ (modS 2 0).noXfer = true := by decide

/-- An activation refused, accepted, in its pause, and late; trials to confirm and to fail. -/
theorem wit_ModesStartsAndTrials_trials :
    (ring 7 0x34 2 []).awaits (0 : Fin 64) 7 0x34 (slotT 7 0x34 2 []) = true ∧ (ring 7 0x34 2 []).roleOf 2 = some 2 ∧
    (ring 7 0x34 2 []).activateBlock = some (12, 3) ∧ (actS 0x34).awaits (0 : Fin 64) 7 0x34 (slotT 7 0x34 2 []) = true ∧
    (actS 0x34).activateBlock = none ∧ (actS 0x34).rstate (0 : Fin 64) = 1 ∧ pauS.wf = true ∧ pauS.clocked = true ∧
    pauS.keys.pause = some (0, 1) ∧ (∀ i ∈ pauseCores, pauS.fld (coreFld i) = 0) ∧ pauS.due .pause (180 * ms) = false ∧
    (pauS.bank pauS.other).regionsOk [0, 4, 5, 6, 7, 8, 9] = true ∧ (pauS.timed [(.pause, 180 * ms)]).due .pause (180 * ms) = true ∧
    pauS.flag GLB_MODE_ACT_PAUSE = true ∧ (actS 0x35).awaits (0 : Fin 64) 7 0x35 (slotT 7 0x35 2 []) = true ∧
    (actS 0x35).flag KB_BOOT_TRIAL = false ∧ ((actS 0x35).setFlag KB_BOOT_TRIAL true).flag KB_BOOT_TRIAL = true ∧
    ((actS 0x35).setFlag UPD_CFG_MANUAL true).flag UPD_CFG_MANUAL = true ∧ (actS 0x35).confDue = false ∧
    (((actS 0x35).setFlag KB_BOOT_TRIAL true).timed [(.trial, 100000 * sec)]).confDue = true ∧ (actS 0x35).flag UPD_CFG_MANUAL = false ∧
    (actS 0x35).noXfer = true ∧ ((actS 0x35).setFld (VD_STAT_SSTATE 0) 7).noXfer = false := by decide

/-- Inputs in and out, the store in use at each step, and the module frozen. -/
theorem wit_SuppliesFreezesAndTwins :
    (supS none).wf = true ∧ (supS none).sys.slots.length = 4 ∧ supOk (2400 : BitVec 16).toNat ≠ supOk (100 : BitVec 16).toNat ∧
    max (1600 : BitVec 16).toNat (100 : BitVec 16).toNat < 1650 ∧ (on 3).holding = false ∧ (on 3).flag SUP_STAT_STORE = false ∧
    1750 ≤ max (1800 : BitVec 16).toNat (100 : BitVec 16).toNat ∧ ((on 3).setFlag SUP_STAT_HOLD true).holding = true ∧
    max (1300 : BitVec 16).toNat (100 : BitVec 16).toNat < 1400 ∧ (on 3).pdOn 0 = true ∧ (on 6).mode = 6 ∧ (on 6).pdOn 0 = true ∧
    ((supS (some 7)).updSys fun x => { x with shedDone := true }).sys.shedDone = true ∧ (supS (some 7)).pdOn 0 = true ∧
    (supS (some 7)).flag SUP_STAT_STORE = true ∧ (supS (some 7)).flag SUP_STAT_EOS = false ∧
    ((supS (some 7)).flag MET_STATUS_HOLDUP && (supS (some 7)).metOn) = true ∧ (supS (some 3)).clocked = true ∧
    (supS (some 3)).sys.shed = some 3 ∧ (supS (some 3)).tim.sfCount ≠ (supS (some 3)).sys.shedSf ∧
    (supS (some 6)).tim.sfCount ≠ (supS (some 6)).sys.shedSf ∧ (supS (some 3)).outLane 0 = some 0 ∧ 0 < (supS (some 3)).nOuts ∧ (supS (some 6)).sys.shed = some 6 ∧
    (supS (some 7)).pdOn 3 = true ∧ (∀ j < (supS (some 7)).nOuts, ((supS (some 7)).mo j).stopped = true) ∧
    (∀ f < 2, ((supS (some 7)).mf f).stopped = true) ∧ (supS (some 7)).sys.shedDone = false ∧ (supS none).sys.storeDue = true ∧
    (supS none).sys.capDue = true ∧ (supS (some 7)).sys.cut = false ∧
    ((supS (some 7)).setFlag SUP_STAT_EOS true).flag SUP_STAT_EOS = true ∧ (on 3).pdGood 0 = true ∧ (on 3).pdGood 2 = true := by decide
theorem wit_SuppliesFreezesAndTwins_lanes : ∀ c < 2, ((supS (some 3)).ce c).laneOut.length ≤ 4 := by decide

/-- Freezes that are ignored, instant, safe and waiting; captures; a twin pair with and without the token. -/
theorem wit_SuppliesFreezesAndTwins_freeze :
    (on 6).frzBlocked = true ∧ (on 7).frzBlocked = false ∧ (on 7).sys.frz = none ∧ (on 7).mode = 7 ∧ (on 3).frzBlocked = false ∧
    (on 3).mode ≠ 7 ∧ (on 3).mode ≠ 0 ∧ (on 3).isl.safe = false ∧ frzS.wf = true ∧ frzS.clocked = true ∧
    frzS.sys.frz = some ⟨1, 3, 0, some 9⟩ ∧ 9 + 300000 ≤ frzS.age ∧ frzS.coreRuns 3 = true ∧
    frzS.flag FRZ_STAT_CAP_OK = true ∧ frzS.capSlot = some 1 ∧ frzS.sys.slots.length = 4 ∧ capS.sys.capturing = true ∧
    capS.flag FRZ_CFG_AUTO_RST = false ∧ (capS.setFlag FRZ_CFG_AUTO_RST true).flag FRZ_CFG_AUTO_RST = true ∧
    capS.flag SUP_STAT_STORE = false ∧ capS.sys.cap = some 0 ∧ (nth none capS.sys.slots 0).isSome = true ∧
    (twnS false).wf = true ∧ (twnS false).clocked = true ∧ (twnS false).twinHears = true ∧ (0 : Fin 2).val = (twnS false).fld CQ_GCFG_SRC_ID ∧
    (twnS false).flag CQ_GCFG_TOK = false ∧ (twnS true).flag CQ_GCFG_TOK = true ∧ (twnS true).twinBad = false ∧
    ((twnS true).setFld CQ_GCFG_SRC_ID 1).fld CQ_GCFG_SRC_ID = 1 ∧ (twnS true).flag CQ_GCFG_TWIN_EN = true ∧ (twnS true).twin.passing = 0 ∧
    (twnS false).twinBad = false ∧ 2 ≤ (twnS false).twin.missed ∧ (twnS false).halfLost = true ∧ (twnS false).isl.istate = 2 ∧
    (twnS false).otherObeyed = false ∧ (twnS false).flag TW_STAT_LINK = true ∧ (twnS false).clk = 6 := by decide
end

section
/-!
What a step keeps: the law of each command's meaning carried through the dispatch of `exec` and the queue of `step`, and the two
statements that follow from it.
-/

namespace Sys2Proof.Machine

open Sys2Proof

/-- What is kept by an answer is kept by the state it answers with. -/
theorem State.KeepsOut.keeps {s t : State} {o : Host.Outcome State Fault Refusal} (h : s.KeepsOut o) (ho : o = .next t) :
    s.Keeps t := by
  obtain ⟨u, hu, hk⟩ := h
  obtain rfl : u = t := Host.Outcome.next.inj (hu.symm.trans ho)
  exact hk

/-- Every command answers a next state and keeps what every command keeps: each arm of the dispatch calls one meaning, and the
law of that meaning says so. -/
theorem exec_keepsOut (s : State) : ∀ c : Instr, s.KeepsOut (exec c s)
  -- starts and host accesses
  | .powerUp a b => execPowerUp_keeps s a b
  | .moduleStart inp => execModuleStart_keeps s inp
  | .scStartupTimeout => execScStartupTimeout_keeps s
  | .registerWrite offset value => execRegisterWrite_keeps s offset value
  | .unsupportedAccess bar offset width => execUnsupportedAccess_keeps s bar offset width
  | .readOffDomain pd offset => execReadOffDomain_keeps s pd offset
  | .commit => execCommit_keeps s
  -- supplies and zones
  | .domainRailLost pd => execDomainRailLost_keeps s pd
  | .frontEndSupplyFault fe => execFrontEndSupplyFault_keeps s fe
  | .barrierTransferBad fe fast sample => execBarrierTransferBad_keeps s fe fast sample
  | .zoneDiffExceeded => execZoneDiffExceeded_keeps s
  | .zoneDiffCleared => execZoneDiffCleared_keeps s
  -- the ticks and the allocator
  | .cfTick => execCfTick_keeps s
  | .sfTick inp => execSfTick_keeps s inp
  | .legalCommitOverrun => execLegalCommitOverrun_keeps s
  | .allocatorSlot => execAllocatorSlot_keeps s
  | .moveStepEnd link => execMoveStepEnd_keeps s link
  | .moveStepTimeout link => execMoveStepTimeout_keeps s link
  | .mxExclClear lo hi => execMxExclClear_keeps s lo hi
  | .ceExclClear ce mask => execCeExclClear_keeps s ce mask
  | .coolingFailed out => execCoolingFailed_keeps s out
  | .coolingRestored out => execCoolingRestored_keeps s out
  | .pumpRunonEnd out => execPumpRunonEnd_keeps s out
  -- the time base
  | .timeLeapWrite value => execTimeLeapWrite_keeps s value
  | .leapSecondApply => execLeapSecondApply_keeps s
  | .gnssPpsEdge at_ => execGnssPpsEdge_keeps s at_
  | .gnssMessage msg => execGnssMessage_keeps s msg
  | .ppsMissing => execPpsMissing_keeps s
  | .correctionApply => execCorrectionApply_keeps s
  | .slewEnd => execSlewEnd_keeps s
  | .setTime ring => execSetTime_keeps s ring
  | .ptpDelayRequest port peer => execPtpDelayRequest_keeps s port peer
  -- the Choquin links
  | .upstreamFrame link arrival => execUpstreamFrame_keeps s link arrival
  | .linkLost link => execLinkLost_keeps s link
  | .arrivalDrift link => execArrivalDrift_keeps s link
  | .blockClockFault link => execBlockClockFault_keeps s link
  | .commaLock link => execCommaLock_keeps s link
  | .trainMeasurement link sum least most => execTrainMeasurement_keeps s link sum least most
  | .trainTimeout link => execTrainTimeout_keeps s link
  | .linkRetry link => execLinkRetry_keeps s link
  | .linkSilent link => execLinkSilent_keeps s link
  | .startSend link => execStartSend_keeps s link
  | .retrain link => execRetrain_keeps s link
  | .stopLineAssert links => execStopLineAssert_keeps s links
  | .stopLineRelease out => execStopLineRelease_keeps s out
  -- the control engines
  | .ceWindowStart ce fast => execCeWindowStart_keeps s ce fast
  | .ceWindowEnd ce => execCeWindowEnd_keeps s ce
  | .thirdLawOverrun ce => execThirdLawOverrun_keeps s ce
  | .nop ce d a b k => execNop_keeps s ce d a b k
  | .endProgram ce d a b k => execEndProgram_keeps s ce d a b k
  | .lda ce d a b k => execLda_keeps s ce d a b k
  | .ada ce d a b k => execAda_keeps s ce d a b k
  | .sba ce d a b k => execSba_keeps s ce d a b k
  | .mul ce d a b k => execMul_keeps s ce d a b k
  | .mac ce d a b k => execMac_keeps s ce d a b k
  | .msu ce d a b k => execMsu_keeps s ce d a b k
  | .zra ce d a b k => execZra_keeps s ce d a b k
  | .min ce d a b k => execMin_keeps s ce d a b k
  | .max ce d a b k => execMax_keeps s ce d a b k
  | .clp ce d a b k => execClp_keeps s ce d a b k
  | .abs ce d a b k => execAbs_keeps s ce d a b k
  | .neg ce d a b k => execNeg_keeps s ce d a b k
  | .exa ce d a b k => execExa_keeps s ce d a b k
  | .rcp ce d a b k => execRcp_keeps s ce d a b k
  | .sel ce d a b k => execSel_keeps s ce d a b k
  | .rsum ce d a b k => execRsum_keeps s ce d a b k
  | .rmax ce d a b k => execRmax_keeps s ce d a b k
  | .sprd ce d a b k => execSprd_keeps s ce d a b k
  | .stf ce d a b k => execStf_keeps s ce d a b k
  | .stn ce d a b k => execStn_keeps s ce d a b k
  | .mov ce d a b k => execMov_keeps s ce d a b k
  | .cgt ce d a b k => execCgt_keeps s ce d a b k
  | .cge ce d a b k => execCge_keeps s ce d a b k
  | .kand ce d a b k => execKand_keeps s ce d a b k
  | .kor ce d a b k => execKor_keeps s ce d a b k
  | .knot ce d a b k => execKnot_keeps s ce d a b k
  | .skz ce d a b k => execSkz_keeps s ce d a b k
  | .trg ce d a b k => execTrg_keeps s ce d a b k
  | .swap ce => execSwap_keeps s ce
  | .coefSwapApply ce => execCoefSwapApply_keeps s ce
  | .outputFeedbackLost ce lane => execOutputFeedbackLost_keeps s ce lane
  | .frozenFeedback ce lane => execFrozenFeedback_keeps s ce lane
  | .cupArm ce buf => execCupArm_keeps s ce buf
  | .cupTrig ce buf => execCupTrig_keeps s ce buf
  | .cupDone ce buf => execCupDone_keeps s ce buf
  | .cupStreamRecord ce buf => execCupStreamRecord_keeps s ce buf
  -- the vehicle dialogue
  | .pilotStateAccepted out high low => execPilotStateAccepted_keeps s out high low
  | .mcsLineStateAccepted out isId mv => execMcsLineStateAccepted_keeps s out isId mv
  | .cmSlacParmReq out => execCmSlacParmReq_keeps s out
  | .cmValidate out => execCmValidate_keeps s out
  | .slacMatch out profile => execSlacMatch_keeps s out profile
  | .plcaLinkUp out => execPlcaLinkUp_keeps s out
  | .phySignalLost out => execPhySignalLost_keeps s out
  | .seccDiscoveryReq out => execSeccDiscoveryReq_keeps s out
  | .tlsHandshake out slot hello ok => execTlsHandshake_keeps s out slot hello ok
  | .tcpClosed out => execTcpClosed_keeps s out
  | .supportedAppProtocolReq out din iso2 iso20 => execSupportedAppProtocolReq_keeps s out din iso2 iso20
  | .sessionSetupReq out session evccid => execSessionSetupReq_keeps s out session evccid
  | .serviceDiscoveryReq out => execServiceDiscoveryReq_keeps s out
  | .serviceDetailReq out => execServiceDetailReq_keeps s out
  | .serviceSelectionReq out bpt dynamic => execServiceSelectionReq_keeps s out bpt dynamic
  | .paymentSelectionReq out contract => execPaymentSelectionReq_keeps s out contract
  | .paymentDetailsReq out emaid chain => execPaymentDetailsReq_keeps s out emaid chain
  | .certificateInstallationReq out payload => execCertificateInstallationReq_keeps s out payload
  | .authorizationReq out ident chain => execAuthorizationReq_keeps s out ident chain
  | .chargeParameterDiscoveryReq out v => execChargeParameterDiscoveryReq_keeps s out v
  | .scheduleExchangeReq out => execScheduleExchangeReq_keeps s out
  | .cableCheckReq out => execCableCheckReq_keeps s out
  | .prechargeReq out vTgt => execPrechargeReq_keeps s out vTgt
  | .powerDeliveryReq out kind => execPowerDeliveryReq_keeps s out kind
  | .chargeLoopReq out v => execChargeLoopReq_keeps s out v
  | .meteringReceiptReq out => execMeteringReceiptReq_keeps s out
  | .weldingDetectionReq out => execWeldingDetectionReq_keeps s out
  | .sessionStopReq out => execSessionStopReq_keeps s out
  | .unsupportedRequest out => execUnsupportedRequest_keeps s out
  | .slacTmo out => execSlacTmo_keeps s out
  | .setupTmo out => execSetupTmo_keeps s out
  | .seqTmo out => execSeqTmo_keeps s out
  | .authTmo out => execAuthTmo_keeps s out
  | .certTmo out => execCertTmo_keeps s out
  | .ccTmo out => execCcTmo_keeps s out
  | .pcTmo out => execPcTmo_keeps s out
  | .loopTmo out => execLoopTmo_keeps s out
  | .stopTmo out => execStopTmo_keeps s out
  | .resumeWin out => execResumeWin_keeps s out
  | .joinWin out => execJoinWin_keeps s out
  | .lockConfirmTimeout out => execLockConfirmTimeout_keeps s out
  | .paramModeTimeout out => execParamModeTimeout_keeps s out
  | .stopCurrentZero out => execStopCurrentZero_keeps s out
  | .weldcheckTimeout out => execWeldcheckTimeout_keeps s out
  | .commRetry out => execCommRetry_keeps s out
  | .vdCtrlStop out => execVdCtrlStop_keeps s out
  | .vdCtrlJoin out earlier => execVdCtrlJoin_keeps s out earlier
  -- metrology and the legal part
  | .offsetCapture out => execOffsetCapture_keeps s out
  | .rotationStepStart fe => execRotationStepStart_keeps s fe
  | .rotationStepEnd fe res => execRotationStepEnd_keeps s fe res
  | .harmonicWindowEnd feed => execHarmonicWindowEnd_keeps s feed
  | .metSnap => execMetSnap_keeps s
  | .metSnapRelease => execMetSnapRelease_keeps s
  | .recordSigned ok => execRecordSigned_keeps s ok
  | .signingRetry rec_ ok => execSigningRetry_keeps s rec_ ok
  | .tokenLockExpiry => execTokenLockExpiry_keeps s
  | .get ring => execGet_keeps s ring
  | .set ring value => execSet_keeps s ring value
  | .action ring arg => execAction_keeps s ring arg
  -- the Safety Island
  | .sinChannelChange sin isB level => execSinChannelChange_keeps s sin isB level
  | .guardInputAccept sin isB => execGuardInputAccept_keeps s sin isB
  | .resetLatentComplete pass => execResetLatentComplete_keeps s pass
  | .discrepancyFault sin => execDiscrepancyFault_keeps s sin
  | .testPulse source stuckA stuckB => execTestPulse_keeps s source stuckA stuckB
  | .comparatorTrip out overvoltage value => execComparatorTrip_keeps s out overvoltage value
  | .pilotLossTrip out => execPilotLossTrip_keeps s out
  | .fastEarthFault out => execFastEarthFault_keeps s out
  | .pathDisagreement out => execPathDisagreement_keeps s out
  | .controlledStopStage2 out => execControlledStopStage2_keeps s out
  | .pairOffDelay pair => execPairOffDelay_keeps s pair
  | .contactorCurrentTimeout out => execContactorCurrentTimeout_keeps s out
  | .weldTestEnd out hvMax => execWeldTestEnd_keeps s out hvMax
  | .weldCheckEnd out hvMin hvMax diffMax => execWeldCheckEnd_keeps s out hvMin hvMax diffMax
  | .insulationResult out rf selfTest => execInsulationResult_keeps s out rf selfTest
  | .degradedExpiry => execDegradedExpiry_keeps s
  | .safetyCandidate ring => execSafetyCandidate_keeps s ring
  | .safetyConfirm ring => execSafetyConfirm_keeps s ring
  | .safetyReset ring => execSafetyReset_keeps s ring
  | .confirmWindowExpiry => execConfirmWindowExpiry_keeps s
  | .latentTestDue out res => execLatentTestDue_keeps s out res
  | .watchdogTimeout core => execWatchdogTimeout_keeps s core
  | .lockstepMismatch => execLockstepMismatch_keeps s
  | .clockMonitorFault => execClockMonitorFault_keeps s
  | .islandSupplyFault source good => execIslandSupplyFault_keeps s source good
  | .fetchTrap core mem addr synd unwritten => execFetchTrap_keeps s core mem addr synd unwritten
  -- the protected switches
  | .refreshFrame err => execRefreshFrame_keeps s err
  | .serialWatchdogExpiry => execSerialWatchdogExpiry_keeps s
  | .psOn chan on => execPsOn_keeps s chan on
  | .psClr chan => execPsClr_keeps s chan
  | .currentLimitTrip chan => execCurrentLimitTrip_keeps s chan
  | .rampTimeout chan => execRampTimeout_keeps s chan
  | .wireModelUpdate chan amps inLimit => execWireModelUpdate_keeps s chan amps inLimit
  | .dieTempCheck chan dt => execDieTempCheck_keeps s chan dt
  | .psRetry chan => execPsRetry_keeps s chan
  | .retryRestore chan => execRetryRestore_keeps s chan
  | .railOvercurrent rail inLimit amps => execRailOvercurrent_keeps s rail inLimit amps
  | .railGuardShed rail amps => execRailGuardShed_keeps s rail amps
  | .railUndervoltage rail dV heldUs => execRailUndervoltage_keeps s rail dV heldUs
  | .railRecovered rail dV heldUs => execRailRecovered_keeps s rail dV heldUs
  | .openLoad chan => execOpenLoad_keeps s chan
  | .psReadbackMismatch chan => execPsReadbackMismatch_keeps s chan
  | .soReadbackFault pair hs ls => execSoReadbackFault_keeps s pair hs ls
  | .soTestPulse pair low offUs onUs => execSoTestPulse_keeps s pair low offUs onUs
  | .soOvercurrent pair => execSoOvercurrent_keeps s pair
  | .soSupFault dV => execSoSupFault_keeps s dV
  -- the panels and the keypad
  | .panelUpdateRequest panel x y w h mode img => execPanelUpdateRequest_keeps s panel x y w h mode img
  | .panelFrame panel temp droop => execPanelFrame_keeps s panel temp droop
  | .panelRailFault panel rails => execPanelRailFault_keeps s panel rails
  | .panelRailStep panel ok => execPanelRailStep_keeps s panel ok
  | .panelRailRetry panel => execPanelRailRetry_keeps s panel
  | .pd8IdleOff => execPd8IdleOff_keeps s
  | .panelTempWake temps => execPanelTempWake_keeps s temps
  | .keypadWake => execKeypadWake_keeps s
  | .keyAccepted code pressed => execKeyAccepted_keeps s code pressed
  | .keyA => execKeyA_keeps s
  | .keyDigit => execKeyDigit_keeps s
  | .keyStar => execKeyStar_keeps s
  | .keyHash => execKeyHash_keeps s
  | .keyC => execKeyC_keeps s
  | .keyD => execKeyD_keeps s
  | .keyTimeout => execKeyTimeout_keeps s
  | .stripRedraw => execStripRedraw_keeps s
  | .pageTimeout => execPageTimeout_keeps s
  | .legalLineRedraw line => execLegalLineRedraw_keeps s line
  -- the contactless readers and the lid tag
  | .pollCycle port iant bad cards => execPollCycle_keeps s port iant bad cards
  | .antennaFault port => execAntennaFault_keeps s port
  | .antennaRetry port => execAntennaRetry_keeps s port
  | .cardHoldExpiry port => execCardHoldExpiry_keeps s port
  | .apdu ring resp => execApdu_keeps s ring resp
  | .tagPowerUp byField => execTagPowerUp_keeps s byField
  | .fieldDetected => execFieldDetected_keeps s
  | .tagFieldLost => execTagFieldLost_keeps s
  | .tagRead addr len => execTagRead_keeps s addr len
  | .tagWrite addr data cut => execTagWrite_keeps s addr data cut
  | .auth1 fieldMs => execAuth1_keeps s fieldMs
  | .auth2 data => execAuth2_keeps s data
  | .hlta => execHlta_keeps s
  | .mark => execMark_keeps s
  | .page => execPage_keeps s
  | .snap => execSnap_keeps s
  | .statusSnapshot cut => execStatusSnapshot_keeps s cut
  | .mirrorWrite cut => execMirrorWrite_keeps s cut
  -- the Mallas link
  | .mallasCycle polls => execMallasCycle_keeps s polls
  | .mallasAnswer fc payload hops heard => execMallasAnswer_keeps s fc payload hops heard
  | .mallasExchangeFail slave missing snr peaks => execMallasExchangeFail_keeps s slave missing snr peaks
  | .slaveLost slave => execSlaveLost_keeps s slave
  | .discovery => execDiscovery_keeps s
  | .discoveryAnswer id slot snr => execDiscoveryAnswer_keeps s id slot snr
  | .timeFrame => execTimeFrame_keeps s
  -- the rings of the host
  | .dbTail ring tail descs => execDbTail_keeps s ring tail descs
  | .dbChead ring head => execDbChead_keeps s ring head
  | .completionDelivery ring ok => execCompletionDelivery_keeps s ring ok
  | .descriptorExpired ring didx => execDescriptorExpired_keeps s ring didx
  | .coalesceTimeout ring => execCoalesceTimeout_keeps s ring
  | .enable ring => execEnable_keeps s ring
  | .disable ring => execDisable_keeps s ring
  | .resume ring => execResume_keeps s ring
  | .flush ring => execFlush_keeps s ring
  | .linkDown => execLinkDown_keeps s
  | .functionLevelReset => execFunctionLevelReset_keeps s
  | .recvEvents ring dma => execRecvEvents_keeps s ring dma
  | .recvRecord ring dma => execRecvRecord_keeps s ring dma
  | .recvReq ring dma => execRecvReq_keeps s ring dma
  | .answer ring => execAnswer_keeps s ring
  | .stop ring => execStop_keeps s ring
  | .price ring fits => execPrice_keeps s ring fits
  | .recvTrace ring dma => execRecvTrace_keeps s ring dma
  -- roles, keys, banks and activation
  | .roleChallenge ring => execRoleChallenge_keeps s ring
  | .roleOpen ring => execRoleOpen_keeps s ring
  | .roleClose ring => execRoleClose_keeps s ring
  | .roleSessionTimeout handle => execRoleSessionTimeout_keeps s handle
  | .keyImport ring => execKeyImport_keeps s ring
  | .keyGenerate ring => execKeyGenerate_keeps s ring
  | .keyPublic ring => execKeyPublic_keeps s ring
  | .keyDelete ring => execKeyDelete_keeps s ring
  | .certInstall ring => execCertInstall_keeps s ring
  | .attest ring => execAttest_keeps s ring
  | .fvkRevoke ring valid => execFvkRevoke_keeps s ring valid
  | .setLimited ring => execSetLimited_keeps s ring
  | .keyFlip slot => execKeyFlip_keeps s slot
  | .updateOpen ring => execUpdateOpen_keeps s ring
  | .updateWrite ring => execUpdateWrite_keeps s ring
  | .updateVerify ring => execUpdateVerify_keeps s ring
  | .updateAbort ring => execUpdateAbort_keeps s ring
  | .activate ring => execActivate_keeps s ring
  | .activationPauseEnd laws loadBad => execActivationPauseEnd_keeps s laws loadBad
  | .activationFail => execActivationFail_keeps s
  | .updateConfirm ring => execUpdateConfirm_keeps s ring
  | .trialConfirmTimer => execTrialConfirmTimer_keeps s
  | .deferredStart => execDeferredStart_keeps s
  -- memory integrity
  | .correctionWriteBack mem tile t stuck => execCorrectionWriteBack_keeps s mem tile t stuck
  | .mergeDrain mem arrived busy t => execMergeDrain_keeps s mem arrived busy t
  | .scrubTile mem t stuck => execScrubTile_keeps s mem t stuck
  | .scrubPassLate mem => execScrubPassLate_keeps s mem
  | .cvuSweep cvu crc unc => execCvuSweep_keeps s cvu crc unc
  | .cvuGuardHit cvu writer addr => execCvuGuardHit_keeps s cvu writer addr
  -- modes, supplies, freeze and capture
  | .mdReqCommission => execMdReqCommission_keeps s
  | .mdReqStandby => execMdReqStandby_keeps s
  | .mdReqRun => execMdReqRun_keeps s
  | .mdReqBench => execMdReqBench_keeps s
  | .mdReqStart => execMdReqStart_keeps s
  | .standbyEntry => execStandbyEntry_keeps s
  | .standbyStopTimeout => execStandbyStopTimeout_keeps s
  | .benchWindowExpiry => execBenchWindowExpiry_keeps s
  | .bnHold hold => execBnHold_keeps s hold
  | .bnStep n => execBnStep_keeps s n
  | .benchStepDone => execBenchStepDone_keeps s
  | .logicInputExcursion a b => execLogicInputExcursion_keeps s a b
  | .holdEntry a b met feeds => execHoldEntry_keeps s a b met feeds
  | .holdEnd a b => execHoldEnd_keeps s a b
  | .storeSwitch a b => execStoreSwitch_keeps s a b
  | .sheddingStep => execSheddingStep_keeps s
  | .holdupFinalCommit => execHoldupFinalCommit_keeps s
  | .endOfStore met feeds => execEndOfStore_keeps s met feeds
  | .supplyRestart a b => execSupplyRestart_keeps s a b
  | .storeCharged v => execStoreCharged_keeps s v
  | .storeTest euse => execStoreTest_keeps s euse
  | .freezeNAsserted => execFreezeNAsserted_keeps s
  | .frzReq => execFrzReq_keeps s
  | .freezeClockStop => execFreezeClockStop_keeps s
  | .captureEnd sections bytes ok => execCaptureEnd_keeps s sections bytes ok
  | .captureEngineTest pass => execCaptureEngineTest_keeps s pass
  | .capRead addr n => execCapRead_keeps s addr n
  | .readIndex n => execReadIndex_keeps s n
  -- the twin
  | .pairingRecord serial src chk hash => execPairingRecord_keeps s serial src chk hash
  | .mirrorFrame ok m isl => execMirrorFrame_keeps s ok m isl
  | .handover ready => execHandover_keeps s ready
  | .tokenTakeover => execTokenTakeover_keeps s
  | .twinLinkLost => execTwinLinkLost_keeps s
  -- the rows that the table gives last
  | .storeEnd => execStoreEnd_keeps s
  | .connectorOvertemperature out => execConnectorOvertemperature_keeps s out
  | .railRampPause rail dV => execRailRampPause_keeps s rail dV
  | .railRampsResume rail amps => execRailRampsResume_keeps s rail amps
  | .psRampComplete chan => execPsRampComplete_keeps s chan
  | .pcieLinkUp speed width => execPcieLinkUp_keeps s speed width
  | .registerRead offset => execRegisterRead_keeps s offset
  | .msixUnmask vec => execMsixUnmask_keeps s vec
  | .keyReleased allOpen => execKeyReleased_keeps s allOpen
  | .ptpSyncAnnounce => execPtpSyncAnnounce_keeps s

theorem step_of_pending_nil {s : State} (h : s.pending = []) : step s = .next s := by
  rw [step, h]

theorem step_of_pending_cons {s : State} {c : Instr} {rest : List Instr} (h : s.pending = c :: rest) :
    step s = exec c (s.withQueue rest) := by
  rw [step, h]

theorem State.withQueue_of_pending {s : State} {q : List Instr} (h : s.pending = q) : s.withQueue q = s := by
  subst h; rfl

/-- A step is a command on the state whose oldest command has left the queue, or nothing at all. -/
theorem step_keepsOut (s : State) : (s.withQueue s.pending.tail).KeepsOut (step s) := by
  cases hq : s.pending with
  | nil =>
    rw [step_of_pending_nil hq, List.tail_nil, State.withQueue_of_pending hq]
    exact keepsOut_next (State.Keeps.refl s)
  | cons c rest =>
    rw [step_of_pending_cons hq, List.tail_cons]
    exact exec_keepsOut (s.withQueue rest) c

end Sys2Proof.Machine

open Sys2Proof Sys2Proof.Machine

/-- Settles O4: `step_keepsOut` gives the next state; no arm of the dispatch answers a fault or a refusal (a command whose
conditions are not met leaves the state as it is, log entry 37). -/
theorem everyStepAnswersNext : Obligations.EveryStepAnswersNext := by
  intro s
  obtain ⟨t, ht, -⟩ := step_keepsOut s
  exact ⟨t, ht⟩

/-- Settles O3: the step's law `step_keepsOut` on the state without its first command, whose log, counter and canonical form are
the old state's (log entries 1 and 2: the queue and the counter are the model's own). -/
theorem stepKeepsStateCanonical : Obligations.StepKeepsStateCanonical := by
  intro s t hwf hstep
  obtain ⟨hpending, hlog, hfresh, hwf'⟩ := (step_keepsOut s).keeps hstep
  exact ⟨hwf' hwf, hpending, hlog, hfresh⟩
end

section
/-!
The frame of every command: the laws `exec…_only` carried through the dispatch of `exec`, and the state that a reset leaves.
-/

namespace Sys2Proof.Machine

open Sys2Proof

/-- The mask that stands for a list of parts: bit `n` for the `n`-th part of `State`. -/
def partsMask (l : List Part) : Nat := l.foldr (fun p m => 2 ^ p.ctorIdx ||| m) 0

theorem Part.ctorIdx_inj {p q : Machine.Part} (h : p.ctorIdx = q.ctorIdx) : p = q := by
  rw [← Part.ofNat_ctorIdx p, h, Part.ofNat_ctorIdx]

theorem partsMask_testBit_of_notMem {p : Machine.Part} {l : List Machine.Part} (h : p ∉ l) :
    (partsMask l).testBit p.ctorIdx = false := by
  induction l with
  | nil => exact Nat.zero_testBit _
  | cons q l ih =>
    obtain ⟨hpq, hpl⟩ := not_or.mp (mt List.mem_cons.mpr h)
    have hidx : q.ctorIdx ≠ p.ctorIdx := fun e => hpq (Part.ctorIdx_inj e.symm)
    change (2 ^ q.ctorIdx ||| partsMask l).testBit p.ctorIdx = false
    rw [Nat.testBit_or, Nat.testBit_two_pow_of_ne hidx, ih hpl, Bool.or_false]

/-- The mask of a list of parts says what the list says. -/
theorem State.OnlyOut.only {s t : State} {l : List Machine.Part} {o : Host.Outcome State Fault Refusal}
    (h : s.OnlyOut (partsMask l) o) (ho : o = .next t) : s.Only l t := by
  obtain ⟨u, hu, honly⟩ := h
  obtain rfl : u = t := Host.Outcome.next.inj (hu.symm.trans ho)
  exact honly.toOnly l fun _ => partsMask_testBit_of_notMem

/-- Every command changes only the parts listed for it: each arm of the dispatch calls one meaning, and the mask in the law of that
meaning is the mask of the list. -/
theorem exec_onlyOut (s : State) : ∀ c : Instr, s.OnlyOut (partsMask (touched c)) (exec c s)
  -- starts and host accesses
  | .powerUp a b => execPowerUp_only s a b
  | .moduleStart inp => execModuleStart_only s inp
  | .scStartupTimeout => execScStartupTimeout_only s
  | .registerWrite offset value => execRegisterWrite_only s offset value
  | .unsupportedAccess bar offset width => execUnsupportedAccess_only s bar offset width
  | .readOffDomain pd offset => execReadOffDomain_only s pd offset
  | .commit => execCommit_only s
  -- supplies and zones
  | .domainRailLost pd => execDomainRailLost_only s pd
  | .frontEndSupplyFault fe => execFrontEndSupplyFault_only s fe
  | .barrierTransferBad fe fast sample => execBarrierTransferBad_only s fe fast sample
  | .zoneDiffExceeded => execZoneDiffExceeded_only s
  | .zoneDiffCleared => execZoneDiffCleared_only s
  -- the ticks and the allocator
  | .cfTick => execCfTick_only s
  | .sfTick inp => execSfTick_only s inp
  | .legalCommitOverrun => execLegalCommitOverrun_only s
  | .allocatorSlot => execAllocatorSlot_only s
  | .moveStepEnd link => execMoveStepEnd_only s link
  | .moveStepTimeout link => execMoveStepTimeout_only s link
  | .mxExclClear lo hi => execMxExclClear_only s lo hi
  | .ceExclClear ce mask => execCeExclClear_only s ce mask
  | .coolingFailed out => execCoolingFailed_only s out
  | .coolingRestored out => execCoolingRestored_only s out
  | .pumpRunonEnd out => execPumpRunonEnd_only s out
  -- the time base
  | .timeLeapWrite value => execTimeLeapWrite_only s value
  | .leapSecondApply => execLeapSecondApply_only s
  | .gnssPpsEdge at_ => execGnssPpsEdge_only s at_
  | .gnssMessage msg => execGnssMessage_only s msg
  | .ppsMissing => execPpsMissing_only s
  | .correctionApply => execCorrectionApply_only s
  | .slewEnd => execSlewEnd_only s
  | .setTime ring => execSetTime_only s ring
  | .ptpDelayRequest port peer => execPtpDelayRequest_only s port peer
  -- the Choquin links
  | .upstreamFrame link arrival => execUpstreamFrame_only s link arrival
  | .linkLost link => execLinkLost_only s link
  | .arrivalDrift link => execArrivalDrift_only s link
  | .blockClockFault link => execBlockClockFault_only s link
  | .commaLock link => execCommaLock_only s link
  | .trainMeasurement link sum least most => execTrainMeasurement_only s link sum least most
  | .trainTimeout link => execTrainTimeout_only s link
  | .linkRetry link => execLinkRetry_only s link
  | .linkSilent link => execLinkSilent_only s link
  | .startSend link => execStartSend_only s link
  | .retrain link => execRetrain_only s link
  | .stopLineAssert links => execStopLineAssert_only s links
  | .stopLineRelease out => execStopLineRelease_only s out
  -- the control engines
  | .ceWindowStart ce fast => execCeWindowStart_only s ce fast
  | .ceWindowEnd ce => execCeWindowEnd_only s ce
  | .thirdLawOverrun ce => execThirdLawOverrun_only s ce
  | .nop ce d a b k => execNop_only s ce d a b k
  | .endProgram ce d a b k => execEndProgram_only s ce d a b k
  | .lda ce d a b k => execLda_only s ce d a b k
  | .ada ce d a b k => execAda_only s ce d a b k
  | .sba ce d a b k => execSba_only s ce d a b k
  | .mul ce d a b k => execMul_only s ce d a b k
  | .mac ce d a b k => execMac_only s ce d a b k
  | .msu ce d a b k => execMsu_only s ce d a b k
  | .zra ce d a b k => execZra_only s ce d a b k
  | .min ce d a b k => execMin_only s ce d a b k
  | .max ce d a b k => execMax_only s ce d a b k
  | .clp ce d a b k => execClp_only s ce d a b k
  | .abs ce d a b k => execAbs_only s ce d a b k
  | .neg ce d a b k => execNeg_only s ce d a b k
  | .exa ce d a b k => execExa_only s ce d a b k
  | .rcp ce d a b k => execRcp_only s ce d a b k
  | .sel ce d a b k => execSel_only s ce d a b k
  | .rsum ce d a b k => execRsum_only s ce d a b k
  | .rmax ce d a b k => execRmax_only s ce d a b k
  | .sprd ce d a b k => execSprd_only s ce d a b k
  | .stf ce d a b k => execStf_only s ce d a b k
  | .stn ce d a b k => execStn_only s ce d a b k
  | .mov ce d a b k => execMov_only s ce d a b k
  | .cgt ce d a b k => execCgt_only s ce d a b k
  | .cge ce d a b k => execCge_only s ce d a b k
  | .kand ce d a b k => execKand_only s ce d a b k
  | .kor ce d a b k => execKor_only s ce d a b k
  | .knot ce d a b k => execKnot_only s ce d a b k
  | .skz ce d a b k => execSkz_only s ce d a b k
  | .trg ce d a b k => execTrg_only s ce d a b k
  | .swap ce => execSwap_only s ce
  | .coefSwapApply ce => execCoefSwapApply_only s ce
  | .outputFeedbackLost ce lane => execOutputFeedbackLost_only s ce lane
  | .frozenFeedback ce lane => execFrozenFeedback_only s ce lane
  | .cupArm ce buf => execCupArm_only s ce buf
  | .cupTrig ce buf => execCupTrig_only s ce buf
  | .cupDone ce buf => execCupDone_only s ce buf
  | .cupStreamRecord ce buf => execCupStreamRecord_only s ce buf
  -- the vehicle dialogue
  | .pilotStateAccepted out high low => execPilotStateAccepted_only s out high low
  | .mcsLineStateAccepted out isId mv => execMcsLineStateAccepted_only s out isId mv
  | .cmSlacParmReq out => execCmSlacParmReq_only s out
  | .cmValidate out => execCmValidate_only s out
  | .slacMatch out profile => execSlacMatch_only s out profile
  | .plcaLinkUp out => execPlcaLinkUp_only s out
  | .phySignalLost out => execPhySignalLost_only s out
  | .seccDiscoveryReq out => execSeccDiscoveryReq_only s out
  | .tlsHandshake out slot hello ok => execTlsHandshake_only s out slot hello ok
  | .tcpClosed out => execTcpClosed_only s out
  | .supportedAppProtocolReq out din iso2 iso20 => execSupportedAppProtocolReq_only s out din iso2 iso20
  | .sessionSetupReq out session evccid => execSessionSetupReq_only s out session evccid
  | .serviceDiscoveryReq out => execServiceDiscoveryReq_only s out
  | .serviceDetailReq out => execServiceDetailReq_only s out
  | .serviceSelectionReq out bpt dynamic => execServiceSelectionReq_only s out bpt dynamic
  | .paymentSelectionReq out contract => execPaymentSelectionReq_only s out contract
  | .paymentDetailsReq out emaid chain => execPaymentDetailsReq_only s out emaid chain
  | .certificateInstallationReq out payload => execCertificateInstallationReq_only s out payload
  | .authorizationReq out ident chain => execAuthorizationReq_only s out ident chain
  | .chargeParameterDiscoveryReq out v => execChargeParameterDiscoveryReq_only s out v
  | .scheduleExchangeReq out => execScheduleExchangeReq_only s out
  | .cableCheckReq out => execCableCheckReq_only s out
  | .prechargeReq out vTgt => execPrechargeReq_only s out vTgt
  | .powerDeliveryReq out kind => execPowerDeliveryReq_only s out kind
  | .chargeLoopReq out v => execChargeLoopReq_only s out v
  | .meteringReceiptReq out => execMeteringReceiptReq_only s out
  | .weldingDetectionReq out => execWeldingDetectionReq_only s out
  | .sessionStopReq out => execSessionStopReq_only s out
  | .unsupportedRequest out => execUnsupportedRequest_only s out
  | .slacTmo out => execSlacTmo_only s out
  | .setupTmo out => execSetupTmo_only s out
  | .seqTmo out => execSeqTmo_only s out
  | .authTmo out => execAuthTmo_only s out
  | .certTmo out => execCertTmo_only s out
  | .ccTmo out => execCcTmo_only s out
  | .pcTmo out => execPcTmo_only s out
  | .loopTmo out => execLoopTmo_only s out
  | .stopTmo out => execStopTmo_only s out
  | .resumeWin out => execResumeWin_only s out
  | .joinWin out => execJoinWin_only s out
  | .lockConfirmTimeout out => execLockConfirmTimeout_only s out
  | .paramModeTimeout out => execParamModeTimeout_only s out
  | .stopCurrentZero out => execStopCurrentZero_only s out
  | .weldcheckTimeout out => execWeldcheckTimeout_only s out
  | .commRetry out => execCommRetry_only s out
  | .vdCtrlStop out => execVdCtrlStop_only s out
  | .vdCtrlJoin out earlier => execVdCtrlJoin_only s out earlier
  -- metrology and the legal part
  | .offsetCapture out => execOffsetCapture_only s out
  | .rotationStepStart fe => execRotationStepStart_only s fe
  | .rotationStepEnd fe res => execRotationStepEnd_only s fe res
  | .harmonicWindowEnd feed => execHarmonicWindowEnd_only s feed
  | .metSnap => execMetSnap_only s
  | .metSnapRelease => execMetSnapRelease_only s
  | .recordSigned ok => execRecordSigned_only s ok
  | .signingRetry rec_ ok => execSigningRetry_only s rec_ ok
  | .tokenLockExpiry => execTokenLockExpiry_only s
  | .get ring => execGet_only s ring
  | .set ring value => execSet_only s ring value
  | .action ring arg => execAction_only s ring arg
  -- the Safety Island
  | .sinChannelChange sin isB level => execSinChannelChange_only s sin isB level
  | .guardInputAccept sin isB => execGuardInputAccept_only s sin isB
  | .resetLatentComplete pass => execResetLatentComplete_only s pass
  | .discrepancyFault sin => execDiscrepancyFault_only s sin
  | .testPulse source stuckA stuckB => execTestPulse_only s source stuckA stuckB
  | .comparatorTrip out overvoltage value => execComparatorTrip_only s out overvoltage value
  | .pilotLossTrip out => execPilotLossTrip_only s out
  | .fastEarthFault out => execFastEarthFault_only s out
  | .pathDisagreement out => execPathDisagreement_only s out
  | .controlledStopStage2 out => execControlledStopStage2_only s out
  | .pairOffDelay pair => execPairOffDelay_only s pair
  | .contactorCurrentTimeout out => execContactorCurrentTimeout_only s out
  | .weldTestEnd out hvMax => execWeldTestEnd_only s out hvMax
  | .weldCheckEnd out hvMin hvMax diffMax => execWeldCheckEnd_only s out hvMin hvMax diffMax
  | .insulationResult out rf selfTest => execInsulationResult_only s out rf selfTest
  | .degradedExpiry => execDegradedExpiry_only s
  | .safetyCandidate ring => execSafetyCandidate_only s ring
  | .safetyConfirm ring => execSafetyConfirm_only s ring
  | .safetyReset ring => execSafetyReset_only s ring
  | .confirmWindowExpiry => execConfirmWindowExpiry_only s
  | .latentTestDue out res => execLatentTestDue_only s out res
  | .watchdogTimeout core => execWatchdogTimeout_only s core
  | .lockstepMismatch => execLockstepMismatch_only s
  | .clockMonitorFault => execClockMonitorFault_only s
  | .islandSupplyFault source good => execIslandSupplyFault_only s source good
  | .fetchTrap core mem addr synd unwritten => execFetchTrap_only s core mem addr synd unwritten
  -- the protected switches
  | .refreshFrame err => execRefreshFrame_only s err
  | .serialWatchdogExpiry => execSerialWatchdogExpiry_only s
  | .psOn chan on => execPsOn_only s chan on
  | .psClr chan => execPsClr_only s chan
  | .currentLimitTrip chan => execCurrentLimitTrip_only s chan
  | .rampTimeout chan => execRampTimeout_only s chan
  | .wireModelUpdate chan amps inLimit => execWireModelUpdate_only s chan amps inLimit
  | .dieTempCheck chan dt => execDieTempCheck_only s chan dt
  | .psRetry chan => execPsRetry_only s chan
  | .retryRestore chan => execRetryRestore_only s chan
  | .railOvercurrent rail inLimit amps => execRailOvercurrent_only s rail inLimit amps
  | .railGuardShed rail amps => execRailGuardShed_only s rail amps
  | .railUndervoltage rail dV heldUs => execRailUndervoltage_only s rail dV heldUs
  | .railRecovered rail dV heldUs => execRailRecovered_only s rail dV heldUs
  | .openLoad chan => execOpenLoad_only s chan
  | .psReadbackMismatch chan => execPsReadbackMismatch_only s chan
  | .soReadbackFault pair hs ls => execSoReadbackFault_only s pair hs ls
  | .soTestPulse pair low offUs onUs => execSoTestPulse_only s pair low offUs onUs
  | .soOvercurrent pair => execSoOvercurrent_only s pair
  | .soSupFault dV => execSoSupFault_only s dV
  -- the panels and the keypad
  | .panelUpdateRequest panel x y w h mode img => execPanelUpdateRequest_only s panel x y w h mode img
  | .panelFrame panel temp droop => execPanelFrame_only s panel temp droop
  | .panelRailFault panel rails => execPanelRailFault_only s panel rails
  | .panelRailStep panel ok => execPanelRailStep_only s panel ok
  | .panelRailRetry panel => execPanelRailRetry_only s panel
  | .pd8IdleOff => execPd8IdleOff_only s
  | .panelTempWake temps => execPanelTempWake_only s temps
  | .keypadWake => execKeypadWake_only s
  | .keyAccepted code pressed => execKeyAccepted_only s code pressed
  | .keyA => execKeyA_only s
  | .keyDigit => execKeyDigit_only s
  | .keyStar => execKeyStar_only s
  | .keyHash => execKeyHash_only s
  | .keyC => execKeyC_only s
  | .keyD => execKeyD_only s
  | .keyTimeout => execKeyTimeout_only s
  | .stripRedraw => execStripRedraw_only s
  | .pageTimeout => execPageTimeout_only s
  | .legalLineRedraw line => execLegalLineRedraw_only s line
  -- the contactless readers and the lid tag
  | .pollCycle port iant bad cards => execPollCycle_only s port iant bad cards
  | .antennaFault port => execAntennaFault_only s port
  | .antennaRetry port => execAntennaRetry_only s port
  | .cardHoldExpiry port => execCardHoldExpiry_only s port
  | .apdu ring resp => execApdu_only s ring resp
  | .tagPowerUp byField => execTagPowerUp_only s byField
  | .fieldDetected => execFieldDetected_only s
  | .tagFieldLost => execTagFieldLost_only s
  | .tagRead addr len => execTagRead_only s addr len
  | .tagWrite addr data cut => execTagWrite_only s addr data cut
  | .auth1 fieldMs => execAuth1_only s fieldMs
  | .auth2 data => execAuth2_only s data
  | .hlta => execHlta_only s
  | .mark => execMark_only s
  | .page => execPage_only s
  | .snap => execSnap_only s
  | .statusSnapshot cut => execStatusSnapshot_only s cut
  | .mirrorWrite cut => execMirrorWrite_only s cut
  -- the Mallas link
  | .mallasCycle polls => execMallasCycle_only s polls
  | .mallasAnswer fc payload hops heard => execMallasAnswer_only s fc payload hops heard
  | .mallasExchangeFail slave missing snr peaks => execMallasExchangeFail_only s slave missing snr peaks
  | .slaveLost slave => execSlaveLost_only s slave
  | .discovery => execDiscovery_only s
  | .discoveryAnswer id slot snr => execDiscoveryAnswer_only s id slot snr
  | .timeFrame => execTimeFrame_only s
  -- the rings of the host
  | .dbTail ring tail descs => execDbTail_only s ring tail descs
  | .dbChead ring head => execDbChead_only s ring head
  | .completionDelivery ring ok => execCompletionDelivery_only s ring ok
  | .descriptorExpired ring didx => execDescriptorExpired_only s ring didx
  | .coalesceTimeout ring => execCoalesceTimeout_only s ring
  | .enable ring => execEnable_only s ring
  | .disable ring => execDisable_only s ring
  | .resume ring => execResume_only s ring
  | .flush ring => execFlush_only s ring
  | .linkDown => execLinkDown_only s
  | .functionLevelReset => execFunctionLevelReset_only s
  | .recvEvents ring dma => execRecvEvents_only s ring dma
  | .recvRecord ring dma => execRecvRecord_only s ring dma
  | .recvReq ring dma => execRecvReq_only s ring dma
  | .answer ring => execAnswer_only s ring
  | .stop ring => execStop_only s ring
  | .price ring fits => execPrice_only s ring fits
  | .recvTrace ring dma => execRecvTrace_only s ring dma
  -- roles, keys, banks and activation
  | .roleChallenge ring => execRoleChallenge_only s ring
  | .roleOpen ring => execRoleOpen_only s ring
  | .roleClose ring => execRoleClose_only s ring
  | .roleSessionTimeout handle => execRoleSessionTimeout_only s handle
  | .keyImport ring => execKeyImport_only s ring
  | .keyGenerate ring => execKeyGenerate_only s ring
  | .keyPublic ring => execKeyPublic_only s ring
  | .keyDelete ring => execKeyDelete_only s ring
  | .certInstall ring => execCertInstall_only s ring
  | .attest ring => execAttest_only s ring
  | .fvkRevoke ring valid => execFvkRevoke_only s ring valid
  | .setLimited ring => execSetLimited_only s ring
  | .keyFlip slot => execKeyFlip_only s slot
  | .updateOpen ring => execUpdateOpen_only s ring
  | .updateWrite ring => execUpdateWrite_only s ring
  | .updateVerify ring => execUpdateVerify_only s ring
  | .updateAbort ring => execUpdateAbort_only s ring
  | .activate ring => execActivate_only s ring
  | .activationPauseEnd laws loadBad => execActivationPauseEnd_only s laws loadBad
  | .activationFail => execActivationFail_only s
  | .updateConfirm ring => execUpdateConfirm_only s ring
  | .trialConfirmTimer => execTrialConfirmTimer_only s
  | .deferredStart => execDeferredStart_only s
  -- memory integrity
  | .correctionWriteBack mem tile t stuck => execCorrectionWriteBack_only s mem tile t stuck
  | .mergeDrain mem arrived busy t => execMergeDrain_only s mem arrived busy t
  | .scrubTile mem t stuck => execScrubTile_only s mem t stuck
  | .scrubPassLate mem => execScrubPassLate_only s mem
  | .cvuSweep cvu crc unc => execCvuSweep_only s cvu crc unc
  | .cvuGuardHit cvu writer addr => execCvuGuardHit_only s cvu writer addr
  -- modes, supplies, freeze and capture
  | .mdReqCommission => execMdReqCommission_only s
  | .mdReqStandby => execMdReqStandby_only s
  | .mdReqRun => execMdReqRun_only s
  | .mdReqBench => execMdReqBench_only s
  | .mdReqStart => execMdReqStart_only s
  | .standbyEntry => execStandbyEntry_only s
  | .standbyStopTimeout => execStandbyStopTimeout_only s
  | .benchWindowExpiry => execBenchWindowExpiry_only s
  | .bnHold hold => execBnHold_only s hold
  | .bnStep n => execBnStep_only s n
  | .benchStepDone => execBenchStepDone_only s
  | .logicInputExcursion a b => execLogicInputExcursion_only s a b
  | .holdEntry a b met feeds => execHoldEntry_only s a b met feeds
  | .holdEnd a b => execHoldEnd_only s a b
  | .storeSwitch a b => execStoreSwitch_only s a b
  | .sheddingStep => execSheddingStep_only s
  | .holdupFinalCommit => execHoldupFinalCommit_only s
  | .endOfStore met feeds => execEndOfStore_only s met feeds
  | .supplyRestart a b => execSupplyRestart_only s a b
  | .storeCharged v => execStoreCharged_only s v
  | .storeTest euse => execStoreTest_only s euse
  | .freezeNAsserted => execFreezeNAsserted_only s
  | .frzReq => execFrzReq_only s
  | .freezeClockStop => execFreezeClockStop_only s
  | .captureEnd sections bytes ok => execCaptureEnd_only s sections bytes ok
  | .captureEngineTest pass => execCaptureEngineTest_only s pass
  | .capRead addr n => execCapRead_only s addr n
  | .readIndex n => execReadIndex_only s n
  -- the twin
  | .pairingRecord serial src chk hash => execPairingRecord_only s serial src chk hash
  | .mirrorFrame ok m isl => execMirrorFrame_only s ok m isl
  | .handover ready => execHandover_only s ready
  | .tokenTakeover => execTokenTakeover_only s
  | .twinLinkLost => execTwinLinkLost_only s
  -- the rows that the table gives last
  | .storeEnd => execStoreEnd_only s
  | .connectorOvertemperature out => execConnectorOvertemperature_only s out
  | .railRampPause rail dV => execRailRampPause_only s rail dV
  | .railRampsResume rail amps => execRailRampsResume_only s rail amps
  | .psRampComplete chan => execPsRampComplete_only s chan
  | .pcieLinkUp speed width => execPcieLinkUp_only s speed width
  | .registerRead offset => execRegisterRead_only s offset
  | .msixUnmask vec => execMsixUnmask_only s vec
  | .keyReleased allOpen => execKeyReleased_only s allOpen
  | .ptpSyncAnnounce => execPtpSyncAnnounce_only s

end Sys2Proof.Machine

open Sys2Proof Sys2Proof.Machine

/-- Settles O5: `exec_onlyOut` gives the mask of each command, and no part outside the list has its bit in it. -/
theorem commandsKeepOtherParts : Obligations.CommandsKeepOtherParts := fun c s _ h => (exec_onlyOut s c).only h

/-- Settles O2: a reset leaves the register map and the tag's memory empty, and an empty map reads the reset value everywhere. -/
theorem resetStateIsCanonical : Obligations.ResetStateIsCanonical :=
  ⟨by decide, rfl, rfl, by decide, fun _ => rfl⟩
end

section
/-!
What a start rests on: registers of the global block, the boot records of the key block, the key core's part, the stored
configuration and the log. `State.Holds` says that an operation leaves them as they are, but for the fields listed; one rule for
each operation, stated backwards: what holds up to here holds after it.
-/

namespace Sys2Proof.Machine

open Sys2Proof

/-- The register map is in its canonical form. -/
def State.canon (s : State) : Prop := Sparse.wfFrom regReset none s.regs = true

theorem State.canon_of_wf {s : State} (h : s.wf = true) : s.canon := by
  simp only [State.wf, Bool.and_eq_true] at h
  exact h.1.1

theorem State.canon.setReg {s : State} (h : s.canon) (off : Nat) (w : Word) : (s.setReg off w).canon :=
  Sparse.put_wfFrom regReset off w s.regs none h (by simp)

theorem State.canon.reg_setReg {s : State} (h : s.canon) (off o : Nat) (w : Word) :
    (s.setReg off w).reg o = if o = off then w else s.reg o :=
  Sparse.get_put regReset off w o s.regs none h

theorem State.canon.setFld {s : State} (h : s.canon) (f : Fld) (v : Nat) : (s.setFld f v).canon := h.setReg _ _

theorem State.canon.setFlag {s : State} (h : s.canon) (f : Fld) (b : Bool) : (s.setFlag f b).canon := h.setReg _ _

theorem State.canon.fld_setFld {s : State} (h : s.canon) {f : Fld} (v : Nat) (hlo : f.lsb ≤ f.msb) (hhi : f.msb < 32) :
    (s.setFld f v).fld f = v % 2 ^ (f.msb + 1 - f.lsb) := by
  rw [State.fld, State.setFld, h.reg_setReg, if_pos rfl, getBits_putBits _ _ hlo hhi]

theorem State.canon.fld_setFld_of_lt {s : State} (h : s.canon) {f : Fld} {v : Nat} (hlo : f.lsb ≤ f.msb) (hhi : f.msb < 32)
    (hv : v < 2 ^ (f.msb + 1 - f.lsb)) : (s.setFld f v).fld f = v := by
  rw [h.fld_setFld v hlo hhi, Nat.mod_eq_of_lt hv]

theorem State.canon.flag_setFlag {s : State} (h : s.canon) {f : Fld} (b : Bool) (hbit : f.msb = f.lsb) (hhi : f.msb < 32) :
    (s.setFlag f b).flag f = b := by
  rw [State.flag, State.setFlag, h.fld_setFld _ hbit.ge hhi, hbit, Nat.add_sub_cancel_left]
  cases b <;> rfl

/-- A field that shares no bit with the one written. -/
theorem State.canon.fld_setFld_of_apart {s : State} (h : s.canon) {f g : Fld} (v : Nat) (hlo : f.lsb ≤ f.msb) (hhi : f.msb < 32)
    (hfg : g.reg ≠ f.reg ∨ g.msb < f.lsb ∨ f.msb < g.lsb) : (s.setFld f v).fld g = s.fld g := by
  rw [State.fld, State.setFld, h.reg_setReg]
  split
  · next e => rw [getBits_putBits_disj _ _ hlo hhi (hfg.resolve_left (not_not_intro e)), State.fld, e]
  · rfl

/-! ### The registers watched -/

/-- The boot records of the key block. -/
def bootRecords : List Nat := [R_KB_BOOT, R_KB_BANK_STAT 0, R_KB_BANK_STAT 1, R_KB_CNT]

/-- The registers of the global block that a start rests on. -/
def globalState : List Nat := [R_GLB_LIFECYCLE, R_GLB_MODE, R_GLB_CFG_COMMIT, R_GLB_CORE_STATE, R_GLB_PD_STATE, R_GLB_STATUS]

def watched (o : Nat) : Bool := globalState.contains o || bootRecords.contains o

theorem watched_eq_false {o : Nat} (hglb : 0x10000 ≤ o) (hrec : o ∉ bootRecords) : watched o = false := by
  have hlow : ∀ g ∈ globalState, g < 0x10000 := by decide
  simp only [watched, Bool.or_eq_false_iff, List.contains_eq_mem, decide_eq_false_iff_not]
  exact ⟨fun h => Nat.not_le.mpr (hlow o h) hglb, hrec⟩

/-- A register of a row whose stride leaves out every boot record. -/
theorem watched_stride {b n st : Nat} (h : 0x10000 ≤ b ∧ ∀ o ∈ bootRecords, o < b ∨ o % st ≠ b % st) :
    watched (b + n * st) = false := by
  refine watched_eq_false (Nat.le_add_right_of_le h.1) fun ho => ?_
  rcases h.2 _ ho with hlt | hmod
  · omega
  · exact hmod (Nat.add_mul_mod_self_right b n st)

/-- A register of a row that lies below the key block. -/
theorem watched_below {b n st k : Nat} (hn : n < k) (h : 0x10000 ≤ b ∧ 0 < st ∧ b + k * st ≤ 0xE0000) :
    watched (b + n * st) = false := by
  have hlt : n * st < k * st := (Nat.mul_lt_mul_right h.2.1).mpr hn
  refine watched_eq_false (Nat.le_add_right_of_le h.1) fun ho => ?_
  have : ∀ o ∈ bootRecords, 0xE0000 ≤ o := by decide
  have := this _ ho
  omega

theorem watched_cupStat {p : Nat × Nat} (h : p ∈ allCups) : watched (R_CUP_STAT p.1 p.2) = false := by
  revert p
  decide

theorem State.mem_allCups_of_cupGroup {s : State} {c b : Nat} {p : Nat × Nat} (h : p ∈ s.cupGroup c b) : p ∈ allCups :=
  (List.mem_filter.mp h).1

/-! ### Fields -/

/-- The field of a whole register. -/
abbrev wordFld (r : Nat) : Fld := ⟨r, 31, 0⟩

theorem State.reg_eq_of_wordFld {s t : State} {r : Nat} (h : t.fld (wordFld r) = s.fld (wordFld r)) : t.reg r = s.reg r := by
  have hword (u : State) : u.fld (wordFld r) = (u.reg r).toNat := by
    simp only [State.fld, getBits, Nat.pow_zero, Nat.div_one]
    exact Nat.mod_eq_of_lt (u.reg r).isLt
  exact BitVec.eq_of_toNat_eq ((hword t).symm.trans (h.trans (hword s)))

theorem State.fld_congr {s t : State} (h : t.regs = s.regs) (f : Fld) : t.fld f = s.fld f := by
  rw [State.fld, State.fld, State.reg, State.reg, h]

theorem State.flag_congr {s t : State} (h : t.regs = s.regs) (f : Fld) : t.flag f = s.flag f := by
  rw [State.flag, State.fld_congr h, State.flag]

theorem getBits_beyond (w : Word) (m : Nat) {l : Nat} (h : 32 ≤ l) : getBits w m l = 0 := by
  rw [getBits, Nat.div_eq_of_lt (Nat.lt_of_lt_of_le w.isLt (Nat.pow_le_pow_right (by decide) h)), Nat.zero_mod]

/-- Two fields share no bit. -/
def Fld.apart (f g : Fld) : Bool := f.reg != g.reg || decide (f.msb < g.lsb ∨ g.msb < f.lsb)

/-- A field lies within one of a list of fields. -/
def Fld.within (f : Fld) (w : List Fld) : Bool :=
  w.any fun g => g.reg == f.reg && decide (g.lsb ≤ f.lsb ∧ f.lsb ≤ f.msb ∧ f.msb ≤ g.msb ∧ g.msb < 32)

/-- A field that is apart from every field listed is apart from what lies within them. -/
theorem Fld.apart_of_within {f g : Fld} {w : List Fld} (hf : f.within w = true) (hg : w.all g.apart = true) :
    (g.reg ≠ f.reg ∨ g.msb < f.lsb ∨ f.msb < g.lsb) ∧ f.lsb ≤ f.msb ∧ f.msb < 32 := by
  obtain ⟨x, hx, hin⟩ := List.any_eq_true.mp hf
  have hapart := List.all_eq_true.mp hg x hx
  simp only [Fld.apart, Bool.and_eq_true, beq_iff_eq, Bool.or_eq_true, bne_iff_ne, decide_eq_true_eq] at hin hapart
  obtain ⟨hreg, hlsb, hle, hmsb, hlt⟩ := hin
  refine ⟨?_, hle, by omega⟩
  rcases hapart with hne | hbits
  · exact .inl (hreg ▸ hne)
  · exact .inr (by omega)

theorem Fld.within_of_word {f : Fld} {w : List Fld} (h : (wordFld f.reg).within w = true) (hf : f.lsb ≤ f.msb ∧ f.msb < 32) :
    f.within w = true := by
  obtain ⟨g, hg, hin⟩ := List.any_eq_true.mp h
  simp only [Bool.and_eq_true, beq_iff_eq, decide_eq_true_eq] at hin
  obtain ⟨hreg, hlsb, -, hmsb, hlt⟩ := hin
  refine List.any_eq_true.mpr ⟨g, hg, ?_⟩
  simp only [Bool.and_eq_true, beq_iff_eq, decide_eq_true_eq]
  exact ⟨hreg, by omega⟩

/-! ### What holds -/

/-- From `s` to `t` the key core's part, the stored configuration and every watched field apart from those listed stay as they
are, no shedding begins, and events are only added. -/
structure State.Holds (s : State) (w : List Fld) (t : State) : Prop where
  keys : t.keys = s.keys
  cfg : t.glb.storedCfg = s.glb.storedCfg
  shed : s.sys.shed = none → t.sys.shed = none
  log : s.log <:+ t.log
  canon : s.canon → t.canon
  fld_of : s.canon → ∀ f, watched f.reg = true → w.all f.apart = true → t.fld f = s.fld f

namespace State.Holds

variable {s0 s : State} {w : List Fld}

theorem refl (s : State) (w : List Fld) : s.Holds w s := ⟨rfl, rfl, id, List.suffix_refl _, id, fun _ _ _ _ => rfl⟩

theorem trans {t u : State} (h : s.Holds w t) (k : t.Holds w u) : s.Holds w u :=
  ⟨k.keys.trans h.keys, k.cfg.trans h.cfg, fun c => k.shed (h.shed c), h.log.trans k.log, fun c => k.canon (h.canon c),
    fun c f ho hw => (k.fld_of (h.canon c) f ho hw).trans (h.fld_of c f ho hw)⟩

theorem mono {t : State} {w' : List Fld} (h : s.Holds w t) (hw : w ⊆ w') : s.Holds w' t :=
  ⟨h.keys, h.cfg, h.shed, h.log, h.canon, fun c f ho hl =>
    h.fld_of c f ho (List.all_eq_true.mpr fun g hg => List.all_eq_true.mp hl g (hw hg))⟩

theorem fld {t : State} (h : s.Holds w t) (c : s.canon) (f : Fld) (hf : watched f.reg = true ∧ w.all f.apart = true) :
    t.fld f = s.fld f := h.fld_of c f hf.1 hf.2

theorem flag {t : State} (h : s.Holds w t) (c : s.canon) (f : Fld) (hf : watched f.reg = true ∧ w.all f.apart = true) :
    t.flag f = s.flag f := by
  rw [State.flag, h.fld c f hf, State.flag]

/-- What is raised between two states is raised between any before and after them. -/
theorem raised {t u : State} {w' : List Fld} {code : Nat} {data : List Nat} (h : s.Holds w t)
    (k : (t.event code data).Holds w' u) : s.Raised u code data := by
  obtain ⟨e, l, hcode, hdata, hl, he⟩ := t.event_raised code data
  exact ⟨e, l, hcode, hdata, h.log.trans hl, he.trans k.log⟩

/-- What changes no register does not change a field. -/
theorem same_regs {t : State} (h : s0.Holds w s) (hregs : t.regs = s.regs) (hkeys : t.keys = s.keys)
    (hcfg : t.glb.storedCfg = s.glb.storedCfg) (hshed : s.sys.shed = none → t.sys.shed = none) (hlog : s.log <:+ t.log) :
    s0.Holds w t := by
  refine ⟨hkeys.trans h.keys, hcfg.trans h.cfg, fun c => hshed (h.shed c), h.log.trans hlog, fun c => ?_,
    fun c f hw hl => (State.fld_congr hregs f).trans (h.fld_of c f hw hl)⟩
  rw [State.canon, hregs]
  exact h.canon c

theorem setReg {off : Nat} {v : Word} (h : s0.Holds w s) (ho : watched off = false) : s0.Holds w (s.setReg off v) := by
  refine ⟨h.keys, h.cfg, h.shed, h.log, fun c => (h.canon c).setReg off v, fun c f hw hl => ?_⟩
  have hne : f.reg ≠ off := fun e => Bool.false_ne_true (ho.symm.trans (e ▸ hw))
  rw [State.fld, (h.canon c).reg_setReg, if_neg hne]
  exact h.fld_of c f hw hl

theorem setFld {f : Fld} {v : Nat} (h : s0.Holds w s) (hf : watched f.reg = false) : s0.Holds w (s.setFld f v) :=
  h.setReg hf

/-- A write of a field that is listed, or that lies within one listed. -/
theorem setFld_listed {f : Fld} {v : Nat} (h : s0.Holds w s) (hf : f.within w = true) : s0.Holds w (s.setFld f v) := by
  refine ⟨h.keys, h.cfg, h.shed, h.log, fun c => (h.canon c).setFld f v, fun c g hw hl => ?_⟩
  obtain ⟨hapart, hle, hlt⟩ := Fld.apart_of_within hf hl
  rw [(h.canon c).fld_setFld_of_apart v hle hlt hapart, h.fld_of c g hw hl]

theorem setFlag_listed {f : Fld} {b : Bool} (h : s0.Holds w s) (hf : f.within w = true) : s0.Holds w (s.setFlag f b) :=
  h.setFld_listed hf

/-- A write of a whole register that is listed. -/
theorem setReg_listed {off : Nat} {v : Word} (h : s0.Holds w s) (hoff : (wordFld off).within w = true) :
    s0.Holds w (s.setReg off v) := by
  refine ⟨h.keys, h.cfg, h.shed, h.log, fun c => (h.canon c).setReg off v, fun c g hw hl => ?_⟩
  obtain ⟨hapart, -, -⟩ := Fld.apart_of_within hoff hl
  rw [← h.fld_of c g hw hl, State.fld, (h.canon c).reg_setReg]
  split
  · next e =>
    have hbeyond : 32 ≤ g.lsb := (hapart.resolve_left (not_not_intro e)).resolve_left (Nat.not_lt_zero _)
    rw [State.fld, getBits_beyond _ _ hbeyond, getBits_beyond _ _ hbeyond]
  · rfl

theorem setFlag {f : Fld} {b : Bool} (h : s0.Holds w s) (hf : watched f.reg = false) : s0.Holds w (s.setFlag f b) :=
  h.setFld hf

theorem setSat {f : Fld} {v : Nat} (h : s0.Holds w s) (hf : watched f.reg = false) : s0.Holds w (s.setSat f v) :=
  h.setFld hf

theorem setFldS {f : Fld} {v : Int} (h : s0.Holds w s) (hf : watched f.reg = false) : s0.Holds w (s.setFldS f v) :=
  h.setFld hf

theorem inc {f : Fld} (h : s0.Holds w s) (hf : watched f.reg = false) : s0.Holds w (s.inc f) :=
  h.setFld hf

theorem setLinkBit {lo hi k : Nat} {b : Bool} (h : s0.Holds w s) (hlo : watched lo = false)
    (hhi : watched hi = false) : s0.Holds w (s.setLinkBit lo hi k b) := by
  unfold State.setLinkBit
  split
  · exact h.setReg hlo
  · exact h.setReg hhi

section Put

variable {pending : List Instr} {log : List Event} {timers : List (Timer × Nat)} {hostRead : Word} {fresh : Nat} {glb : GlbSt}
  {tim : TimeSt} {links : List LinkSt} {linkc : LinkCommon} {ces : List CeSt} {sh : ShareSt} {veh : List Veh} {vehc : VehCommon}
  {met : MetSt} {leg : LegSt} {isl : IslSt} {ps : PsSt} {pnl : PnlSt} {nfc : List NfcPort} {tag : TagSt} {ml : MlSt}
  {host : HostSt} {mem : MemSt} {sys : SysSt} {twin : TwinSt}

/-- A change of anything but the registers, the keys, the stored configuration and the shedding. -/
theorem putAll (h : s0.Holds w s) (hcfg : glb.storedCfg = s.glb.storedCfg) (hshed : s.sys.shed = none → sys.shed = none)
    (hlog : s.log <:+ log) :
    s0.Holds w (State.mk pending s.regs log timers hostRead fresh glb tim links linkc ces sh veh vehc met leg isl ps pnl nfc tag
      ml host s.keys mem sys twin) := h.same_regs rfl rfl hcfg hshed hlog

/-- A change that leaves the log, the global part and the system's part too. -/
theorem put (h : s0.Holds w s) :
    s0.Holds w (State.mk pending s.regs s.log timers hostRead fresh s.glb tim links linkc ces sh veh vehc met leg isl ps pnl nfc tag
      ml host s.keys mem s.sys twin) := h.putAll rfl id (List.suffix_refl _)

theorem putGlb (h : s0.Holds w s) (hcfg : glb.storedCfg = s.glb.storedCfg) :
    s0.Holds w (State.mk pending s.regs s.log timers hostRead fresh glb tim links linkc ces sh veh vehc met leg isl ps pnl nfc tag
      ml host s.keys mem s.sys twin) := h.putAll hcfg id (List.suffix_refl _)

theorem putSys (h : s0.Holds w s) (hshed : s.sys.shed = none → sys.shed = none) :
    s0.Holds w (State.mk pending s.regs s.log timers hostRead fresh s.glb tim links linkc ces sh veh vehc met leg isl ps pnl nfc tag
      ml host s.keys mem sys twin) := h.putAll rfl hshed (List.suffix_refl _)

end Put

/-- An operation whose law says that it changes none of them. -/
theorem of_only {t : State} {m : Nat} (h : s0.Holds w s) (k : s.OnlyM m t)
    (hm : [Part.regs, .log, .glb, .keys, .sys].all (fun p => !m.testBit p.ctorIdx) = true) : s0.Holds w t := by
  have hsame (p : Machine.Part) (hp : p ∈ [Part.regs, .log, .glb, .keys, .sys]) : s.Same t p :=
    k.same p (Bool.not_eq_true' _ |>.mp (List.all_eq_true.mp hm p hp))
  have hregs : t.regs = s.regs := hsame .regs (by decide)
  have hlog : t.log = s.log := hsame .log (by decide)
  have hglb : t.glb = s.glb := hsame .glb (by decide)
  have hkeys : t.keys = s.keys := hsame .keys (by decide)
  have hsys : t.sys = s.sys := hsame .sys (by decide)
  exact h.same_regs hregs hkeys (by rw [hglb]) (by rw [hsys]; exact id) (hlog ▸ List.suffix_refl _)

/-- A change of the key core's part: the rest holds as it did. -/
theorem rekeyed {f : KeySt → KeySt} (h : s0.Holds w s) : ({ s0 with keys := f s0.keys } : State).Holds w (s.updKeys f) :=
  ⟨congrArg f h.keys, h.cfg, h.shed, h.log, h.canon, h.fld_of⟩

theorem ite {c : Prop} [Decidable c] {a b : State} (ha : s0.Holds w a) (hb : s0.Holds w b) : s0.Holds w (if c then a else b) := by
  split
  · exact ha
  · exact hb

theorem iff {c : Bool} {f : State → State} (h : s0.Holds w s) (hf : ∀ {s}, s0.Holds w s → s0.Holds w (f s)) :
    s0.Holds w (s.iff c f) := ite (hf h) h

theorem foldl {α : Type} {f : State → α → State} : ∀ {l : List α} {s : State}, s0.Holds w s →
    (∀ {s a}, a ∈ l → s0.Holds w s → s0.Holds w (f s a)) → s0.Holds w (l.foldl f s)
  | [], _, h, _ => h
  | a :: l, _, h, hf => foldl (l := l) (hf (a := a) List.mem_cons_self h) fun ha h => hf (List.mem_cons_of_mem _ ha) h

theorem each {α : Type} {l : List α} {f : State → α → State} (h : s0.Holds w s)
    (hf : ∀ {s a}, a ∈ l → s0.Holds w s → s0.Holds w (f s a)) : s0.Holds w (s.each l f) := foldl h hf

theorem cupStart {p : Nat × Nat} (h : s0.Holds w s) (hp : p ∈ allCups) : s0.Holds w (s.cupStart p.1 p.2) :=
  .put (.setFld h (watched_cupStat hp))

theorem logEvent {code : Nat} {data : List Nat} (h : s0.Holds w s) : s0.Holds w (s.logEvent code data) :=
  .putAll h rfl id (List.suffix_cons _ _)

theorem eventN {code : Nat} {data : List Nat} : ∀ {n : Nat} {s : State}, s0.Holds w s → s0.Holds w (State.eventN n s code data) := by
  intro n
  induction n generalizing code data with
  | zero => exact .logEvent
  | succ n ih =>
    exact fun h => .each (.logEvent h) fun _ h => .each h fun hq h => ih (.cupStart h (mem_allCups_of_cupGroup hq))

theorem event {code : Nat} {data : List Nat} (h : s0.Holds w s) : s0.Holds w (s.event code data) := eventN h

end State.Holds

end Sys2Proof.Machine
end

section
/-!
What the switching of a domain leaves alone (spec/01 R13, Table 1.2): the links, the switch channels and the panels that go with it.
-/

namespace Sys2Proof.Machine

open Sys2Proof

theorem mem_idx {n i : Nat} (h : i ∈ idx n) : i < n := List.mem_range.mp h

theorem State.lt_of_mem_links {s : State} {n : Nat} (h : n ∈ idx s.nLinks) : n < 48 := by
  have := mem_idx h
  rw [State.nLinks] at this
  split at this <;> omega

namespace State.Holds

variable {s0 s : State} {w : List Fld}

/-! ### Links -/

theorem setLst {n v : Nat} (h : s0.Holds w s) (hn : n < 48) : s0.Holds w (s.setLst n v) :=
  .ite h (.event (.setFld h (watched_below hn (by decide))))

theorem linkPower {n : Nat} (h : s0.Holds w s) (hn : n < 48) : s0.Holds w (s.linkPower n) :=
  .ite (.iff h fun h => .setLst h hn) (.iff h fun h => .setLinkBit (.put (.setLst h hn)) rfl rfl)

theorem updBl {n : Nat} {f : BlockLane → BlockLane} (h : s0.Holds w s) : s0.Holds w (s.updBl n f) := by
  unfold State.updBl
  split
  · exact .put h
  · exact h

theorem sendCmd {n cmd arg : Nat} (h : s0.Holds w s) : s0.Holds w (s.sendCmd n cmd arg) :=
  .ite h (.ite (.put h) (.ite h (.put h)))

theorem showStep {n st : Nat} {dest : Option Nat} (h : s0.Holds w s) (hn : n < 48) : s0.Holds w (s.showStep n st dest) :=
  .setFld (.setFld h (watched_below hn (by decide))) (watched_below hn (by decide))

theorem moveAbandon {n : Nat} {ended : Bool} (h : s0.Holds w s) (hn : n < 48) : s0.Holds w (s.moveAbandon n ended) :=
  have stopped {t : State} (h : s0.Holds w t) : s0.Holds w (((t.showStep n 0 none).stopTimer (.moveStep n)).event 0x0404 [n]) :=
    .event (.put (.showStep h hn))
  .ite (.put (.put h)) (.ite (.put (.updBl (stopped (.put h)))) (.iff (.put (stopped (.put h))) .sendCmd))

theorem leaveService {n : Nat} (h : s0.Holds w s) (hn : n < 48) : s0.Holds w (s.leaveService n) := by
  unfold State.leaveService
  split
  · exact .moveAbandon (.put h) hn
  · exact .moveAbandon h hn

theorem stopLink {n why : Nat} (h : s0.Holds w s) (hn : n < 48) : s0.Holds w (s.stopLink n why) :=
  .iff (.setLinkBit (.put (.put (.put (.put (.iff (.put h) fun h => .put (.setLst h hn)))))) rfl rfl) fun h => .leaveService h hn

theorem cupTrigger {c b : Nat} (h : s0.Holds w s) : s0.Holds w (s.cupTrigger c b) :=
  .ite (.each h fun hq h => .event (.cupStart h (mem_allCups_of_cupGroup hq))) h

theorem stopLines {ns : List Nat} {why : Nat} (h : s0.Holds w s) (hns : ∀ n ∈ ns, n < 48) : s0.Holds w (s.stopLines ns why) :=
  have marked {l : List Nat} {f : Nat → LinkSt → LinkSt} : s0.Holds w (s.each l fun s n => s.updLk n (f n)) := .each h fun _ h => .put h
  .ite marked (.each (.event (.each marked fun hn h =>
    .stopLink h (hns _ (List.mem_of_mem_filter (List.mem_of_mem_filter hn))))) fun _ h => .cupTrigger h)

/-! ### Switch channels and panels -/

theorem railShow {r : Nat} (h : s0.Holds w s) (hr : r < 4) : s0.Holds w (s.railShow r) :=
  .setSat h (watched_below hr (by decide))

theorem psOffTo {n st : Nat} (h : s0.Holds w s) (hn : n < 24) : s0.Holds w (s.psOffTo n st) :=
  .put (.railShow (.setFld (.setFlag (.setFld (.put h) (watched_below hn (by decide))) (watched_below hn (by decide)))
    (watched_below hn (by decide))) (by unfold railOf; omega))

theorem psPowerDown (h : s0.Holds w s) : s0.Holds w s.psPowerDown :=
  .put (.put (.setFlag (.setFlag (.each (.each h fun hn h =>
      .put (.setFlag (.put (.psOffTo h (mem_idx hn))) (watched_below (mem_idx hn) (by decide))))
    fun hn h => .setFld (.setFld (.setFlag h (watched_below (mem_idx hn) (by decide))) (watched_below (mem_idx hn) (by decide)))
      (watched_below (mem_idx hn) (by decide))) rfl) rfl))

theorem mlStop (h : s0.Holds w s) : s0.Holds w s.mlStop := .put (.setFld h rfl)

theorem pnBal {p : Nat} (h : s0.Holds w s) (hp : p < 2) : s0.Holds w (s.pnBal p) :=
  .setSat (.setSat h (watched_below hp (by decide))) (watched_below hp (by decide))

theorem panelsStop (h : s0.Holds w s) : s0.Holds w s.panelsStop :=
  .each h fun hp h =>
    have hp := mem_idx hp
    .put (.pnBal (.put (.iff (.setFld (.put (.iff h fun h => .event (.setSat h (watched_below hp (by decide)))))
      (watched_below hp (by decide))) fun h => .setFld h (watched_below hp (by decide)))) hp)

/-! ### Domains -/

theorem pdSwitch {stop : Bool} {mask : Nat} (h : s0.Holds w s) (hw : (wordFld R_GLB_PD_STATE).within w = true) :
    s0.Holds w (s.pdSwitch stop mask) :=
  have hon := Fld.within_of_word (f := GLB_PD_STATE_ON) hw (by decide)
  have hgood := Fld.within_of_word (f := GLB_PD_STATE_PGOOD) hw (by decide)
  .iff (.putGlb (.setFld_listed (.setFld_listed (.iff (.iff (.iff h .panelsStop) fun h => .mlStop (.psPowerDown h)) fun h =>
    .stopLines h fun _ hn => State.lt_of_mem_links (List.mem_of_mem_filter hn)) hon) hgood) (by rfl)) fun h =>
      .each h fun hn h => .linkPower h (State.lt_of_mem_links hn)

theorem pdSet {mask : Nat} (h : s0.Holds w s) (hw : (wordFld R_GLB_PD_STATE).within w = true) : s0.Holds w (s.pdSet mask) := .pdSwitch h hw

end State.Holds

end Sys2Proof.Machine
end

section
/-!
Zones, rails, front-end supplies and barrier transfers (spec/01 R13, R23, spec/07 R166).
-/

namespace Sys2Proof.Machine

open Sys2Proof

namespace State.Holds

variable {s0 s : State} {w : List Fld}

/-! ### The host link -/

theorem hrRegs {n : Nat} (h : s0.Holds w s) (hn : n < 64) : s0.Holds w (s.hrRegs n) :=
  .setFld (.setSat (.setSat h (watched_below hn (by decide))) rfl) rfl

theorem statusBlock {n : Nat} (h : s0.Holds w s) : s0.Holds w (s.statusBlock n) := .iff h fun h => .put h

theorem signal {n : Nat} (h : s0.Holds w s) : s0.Holds w (s.signal n) := .iff (.put h) fun h => .put h

theorem setRing {n st : Nat} (h : s0.Holds w s) (hn : n < 64) : s0.Holds w (s.setRing n st) :=
  .ite h (.hrRegs (.signal (.statusBlock (.event (.setFld h (watched_below hn (by decide)))))) hn)

theorem ringsRecover {start : Bool} (h : s0.Holds w s) : s0.Holds w (s.ringsRecover start) :=
  .each h fun hn h => .ite (.setRing (.put h) (mem_idx hn)) h

theorem hostLinkDown (h : s0.Holds w s) : s0.Holds w s.hostLinkDown :=
  .ite (.hrRegs (.event (.ringsRecover (.setFld (.setFld (.inc (.put h) rfl) rfl) rfl))) (by decide)) h

theorem hostQuiet (h : s0.Holds w s) : s0.Holds w s.hostQuiet := .hrRegs (.put h) (by decide)

theorem railGone {pd : Nat} (h : s0.Holds w s) : s0.Holds w (s.railGone pd) := by
  unfold State.railGone
  split
  · exact .put h
  · exact .each h fun _ h => .put h
  · exact .hostQuiet (.hostLinkDown h)
  · exact h

end State.Holds


/-! ### Domains after a switching -/

theorem bit_eq_testBit (n k : Nat) : bit n k = n.testBit k := by
  rw [bit, Nat.testBit_eq_decide_div_mod_eq]
  rfl

/-- The number below `2 ^ k` whose bits are given. -/
def bitSum (c : Nat → Bool) (k : Nat) : Nat := (List.range k).foldl (fun a n => if c n then a + 2 ^ n else a) 0

theorem bitSum_succ (c : Nat → Bool) (k : Nat) : bitSum c (k + 1) = if c k then bitSum c k + 2 ^ k else bitSum c k := by
  rw [bitSum, List.range_succ, List.foldl_append]
  rfl

theorem bitSum_lt (c : Nat → Bool) (k : Nat) : bitSum c k < 2 ^ k := by
  induction k with
  | zero => exact Nat.one_pos
  | succ k ih =>
    rw [bitSum_succ]
    split <;> omega

theorem bitSum_testBit (c : Nat → Bool) {k i : Nat} (hi : i < k) : (bitSum c k).testBit i = c i := by
  induction k with
  | zero => omega
  | succ k ih =>
    rw [bitSum_succ]
    rcases Nat.lt_succ_iff_lt_or_eq.mp hi with hlt | rfl
    · split
      · rw [Nat.add_comm, Nat.testBit_two_pow_add_gt hlt, ih hlt]
      · exact ih hlt
    · split
      · next hc => rw [Nat.add_comm, Nat.testBit_two_pow_add_eq, Nat.testBit_lt_two_pow (bitSum_lt c i), hc, Bool.not_false]
      · next hc => rw [Nat.testBit_lt_two_pow (bitSum_lt c i), Bool.eq_false_of_not_eq_true hc]

/-- The mask that a switching leaves on: while the module sheds load nothing but PD0 to PD3 comes on (spec/17 R407). -/
def State.pdMask (s : State) (mask : Nat) : Nat :=
  if s.sys.shed.isSome then mask &&& (s.fld GLB_PD_STATE_ON ||| 0xF) else mask

/-- What stops with a domain before it goes off. -/
def State.pdStops (s : State) (stop : Bool) (mask : Nat) : State :=
  let on := s.fld GLB_PD_STATE_ON
  let s := s.iff (bit on 8 && !bit mask 8) (·.panelsStop)
  let s := s.iff (bit on 9 && !bit mask 9) fun s => (s.psPowerDown).mlStop
  s.iff (stop && bit on 7 && !bit mask 7) fun s => s.stopLines ((idx s.nLinks).filter fun n => s.lst n != 0) 9

/-- A domain stays good where it was on and good, and comes on good. -/
def State.pdStaysGood (s : State) (on mask n : Nat) : Bool := bit mask n && (!bit on n || bit (s.fld GLB_PD_STATE_PGOOD) n)

theorem State.pdStops_holds (s : State) (stop : Bool) (mask : Nat) : s.Holds [] (s.pdStops stop mask) :=
  .iff (.iff (.iff (.refl s []) .panelsStop) fun h => .mlStop (.psPowerDown h)) fun h =>
    .stopLines h fun _ hn => State.lt_of_mem_links (List.mem_of_mem_filter hn)

/-- After the stops a switching writes the two fields of GLB_PD_STATE, and what follows leaves them. -/
theorem State.pdSwitch_holds_stops (s : State) (stop : Bool) (mask : Nat) :
    (((s.pdStops stop (s.pdMask mask)).setFld GLB_PD_STATE_ON (s.pdMask mask)).setFld GLB_PD_STATE_PGOOD
      (bitSum ((s.pdStops stop (s.pdMask mask)).pdStaysGood (s.fld GLB_PD_STATE_ON) (s.pdMask mask)) 10)).Holds [] (s.pdSwitch stop mask) :=
  .iff (.putGlb (.refl _ _) (by rfl)) fun h => .each h fun hn h => .linkPower h (State.lt_of_mem_links hn)

theorem State.canon.pdSwitch_on {s : State} (c : s.canon) (stop : Bool) (mask : Nat) :
    (s.pdSwitch stop mask).fld GLB_PD_STATE_ON = s.pdMask mask % 2 ^ 10 := by
  have cstops := (s.pdStops_holds stop (s.pdMask mask)).canon c
  have con := cstops.setFld GLB_PD_STATE_ON (s.pdMask mask)
  rw [(s.pdSwitch_holds_stops stop mask).fld (con.setFld _ _) GLB_PD_STATE_ON ⟨rfl, rfl⟩,
    con.fld_setFld_of_apart _ (by decide) (by decide) (by decide)]
  exact cstops.fld_setFld _ (by decide) (by decide)

theorem State.canon.pdSwitch_pgood {s : State} (c : s.canon) (stop : Bool) (mask : Nat) {n : Nat} (hn : n < 10) :
    bit ((s.pdSwitch stop mask).fld GLB_PD_STATE_PGOOD) n = s.pdStaysGood (s.fld GLB_PD_STATE_ON) (s.pdMask mask) n := by
  have hstops := s.pdStops_holds stop (s.pdMask mask)
  have con := (hstops.canon c).setFld GLB_PD_STATE_ON (s.pdMask mask)
  rw [(s.pdSwitch_holds_stops stop mask).fld (con.setFld _ _) GLB_PD_STATE_PGOOD ⟨rfl, rfl⟩,
    con.fld_setFld_of_lt (by decide) (by decide) (bitSum_lt _ 10), bit_eq_testBit, bitSum_testBit _ hn, State.pdStaysGood,
    hstops.fld c GLB_PD_STATE_PGOOD ⟨rfl, rfl⟩, State.pdStaysGood]

end Sys2Proof.Machine
end

section
/-!
Zone differences, lost rails, front-end supplies and bad transfers (spec/01 R13, R23, spec/07 R166).
-/

namespace Sys2Proof.Machine

open Sys2Proof

theorem nth_upd_same {α : Type} (d : α) {l : List α} {i : Nat} (h : i < l.length) (f : α → α) :
    nth d (upd l i f) i = f (nth d l i) := by
  simp [nth, upd, List.getD_eq_getElem?_getD, h]

theorem State.ces_length {s : State} (hwf : s.wf = true) : s.ces.length = 2 := by
  simp only [State.wf, State.sized, Bool.and_eq_true, beq_iff_eq] at hwf
  exact hwf.2.1.1.2

theorem State.fld_lt (s : State) (f : Fld) : s.fld f < 2 ^ (f.msb + 1 - f.lsb) := Nat.mod_lt _ (Nat.two_pow_pos _)

theorem State.setFlag_wf {s : State} (hwf : s.wf = true) (f : Fld) (b : Bool) : (s.setFlag f b).wf = true := State.setFld_wf hwf _ _

/-! ### A flag set with its event -/

section FlagWithEvent

variable {s : State} (hwf : s.wf = true) (f : Fld) (b : Bool) (code : Nat) (data : List Nat)

include hwf

theorem State.flag_setFlag_event (h1 : f.msb = f.lsb) (hhi : f.msb < 32) (hcup : isCupStat f.reg = false) :
    ((s.setFlag f b).event code data).flag f = b := by
  rw [State.flag, State.event_fld (State.setFlag_wf hwf f b) _ _ _ hcup]
  exact (State.canon_of_wf hwf).flag_setFlag b h1 hhi

theorem State.setFlag_event_regsOnly : s.RegsOnly [f.reg] ((s.setFlag f b).event code data) := by
  intro o ho hcup
  rw [State.event_reg (State.setFlag_wf hwf f b) _ _ hcup]
  exact State.reg_setFld_ne hwf f _ (mt List.mem_singleton.mpr ho)

omit hwf in
theorem State.setFlag_event_raised : s.Raised ((s.setFlag f b).event code data) code data :=
  (State.event_raised _ _ _).after (State.setFlag_keeps (.refl s) _ _)

end FlagWithEvent

/-! ### The commands -/

theorem execZoneDiffExceeded_of_due {s : State} (hclk : s.clocked = true) (hover : 10000 ≤ s.glb.zoneOver)
    (hflag : s.flag GLB_STATUS_ZONE_DT = false) :
    exec .zoneDiffExceeded s = .next ((s.setFlag GLB_STATUS_ZONE_DT true).event 0x0006 []) := by
  change execZoneDiffExceeded s = _
  rw [execZoneDiffExceeded, State.live_next hclk, if_pos ⟨hover, by simp [hflag]⟩]

theorem execZoneDiffCleared_of_due {s : State} (hclk : s.clocked = true) (hunder : 10000 ≤ s.glb.zoneUnder)
    (hflag : s.flag GLB_STATUS_ZONE_DT = true) :
    exec .zoneDiffCleared s = .next ((s.setFlag GLB_STATUS_ZONE_DT false).event 0x0007 []) := by
  change execZoneDiffCleared s = _
  rw [execZoneDiffCleared, State.live_next hclk, if_pos ⟨hunder, hflag⟩]

theorem execFrontEndSupplyFault_of_good {s : State} (hclk : s.clocked = true) {fe : Fin 10} (hfe : fe.val ∉ s.glb.feNotReady)
    (hpd : s.pdGood 3 = true) :
    exec (.frontEndSupplyFault fe) s = .next (((s.updGlb fun g => { g with feNotReady := g.feNotReady ++ [fe.val] }).setFlag
      GLB_STATUS_PD_LOST true).event 0x0004 [3, fe]) := by
  change execFrontEndSupplyFault fe s = _
  rw [execFrontEndSupplyFault, State.live_next hclk, if_neg (by simp [hfe, hpd])]

theorem execBarrierTransferBad_of_lane {s : State} (hclk : s.clocked = true) {fe : Fin 10} (x : Fin 32) {l : Nat} (hfe : fe.val < 8)
    (hlane : s.outLane fe = some l) :
    exec (.barrierTransferBad fe true x) s = .next ((s.updGlb fun g => { g with fastDisc := upd g.fastDisc fe (· + 1) }).updOl
      (s.outCe fe) l fun o => { o with badFast := true }) := by
  have hlane' : (s.updGlb fun g => { g with fastDisc := upd g.fastDisc fe (· + 1) }).outLane fe = some l := hlane
  change execBarrierTransferBad fe true x s = _
  simp only [execBarrierTransferBad, State.live_next hclk, if_true, if_pos hfe, hlane']
  rfl

theorem State.ol_updOl_same {s : State} {c l : Nat} (hc : c < s.ces.length) (hl : l < (s.ce c).outs.length) (f : OutLane → OutLane) :
    (s.updOl c l f).ol c l = f (s.ol c l) := by
  have hce : (s.updOl c l f).ce c = { s.ce c with outs := upd (s.ce c).outs l f } := nth_upd_same CeSt.reset hc _
  rw [State.ol, hce]
  exact nth_upd_same OutLane.rest hl f

/-! ### A rail lost -/

/-- The cores listed no longer run. -/
theorem State.canon.fld_clearCores {i : Nat} {l : List Nat} (hi : i < 8) (hl : ∀ k ∈ l, k < 8) : ∀ {s : State}, s.canon →
    (s.each l fun s k => s.setFld (coreFld k) 0).fld (coreFld i) = if i ∈ l then 0 else s.fld (coreFld i) := by
  induction l with
  | nil => exact fun _ => rfl
  | cons k l ih =>
    intro s c
    have hk := hl k List.mem_cons_self
    have hfirst : (s.setFld (coreFld k) 0).fld (coreFld i) = if i = k then 0 else s.fld (coreFld i) := by
      split
      · next e => rw [e, c.fld_setFld_of_lt (by simp [coreFld]) (by simp [coreFld]; omega) (Nat.two_pow_pos _)]
      · next e => exact c.fld_setFld_of_apart 0 (by simp [coreFld]) (by simp [coreFld]; omega) (by simp [coreFld]; omega)
    refine (ih (fun m hm => hl m (List.mem_cons_of_mem _ hm)) (c.setFld _ _)).trans ?_
    rw [hfirst]
    by_cases hik : i = k <;> by_cases hil : i ∈ l <;> simp [hik, hil]

theorem coreDomain_filter_lt {n : Nat} : ∀ k ∈ (idx 8).filter fun i => coreDomain i == n, k < 8 :=
  fun _ hk => mem_idx (List.mem_of_mem_filter hk)

theorem coreFld_within {i : Nat} {w : List Fld} (hi : i < 8) (hw : (wordFld R_GLB_CORE_STATE).within w = true) :
    (coreFld i).within w = true := Fld.within_of_word hw ⟨by simp [coreFld], by simp [coreFld]; omega⟩

/-- The mask without domain `n` leaves it off, shedding load or not. -/
theorem State.pdMask_without (s : State) (on : Nat) {n : Nat} (hn : n < 10) : bit (s.pdMask (on &&& (0x3FF ^^^ 2 ^ n))) n = false := by
  have hoff : ∀ n < 10, (0x3FF ^^^ 2 ^ n).testBit n = false := by decide
  rw [bit_eq_testBit, State.pdMask]
  split <;> simp only [Nat.testBit_and, hoff n hn, Bool.and_false, Bool.false_and]

/-- What a rail's loss does first: it is marked and told, and the domain goes off with what depends on it. -/
def State.railMarked (s : State) (n : Nat) : State := (s.setFlag GLB_STATUS_PD_LOST true).event 0x0004 [n]

def State.railOff (s : State) (n : Nat) : State :=
  (s.railMarked n).pdSwitch false (s.fld GLB_PD_STATE_ON &&& (0x3FF ^^^ 2 ^ n))

/-- Then the domain shows as commanded on again, and what its rail carried is gone. -/
def State.railLost (s : State) (n : Nat) : State := ((s.railOff n).setFld GLB_PD_STATE_ON (s.fld GLB_PD_STATE_ON)).railGone n

/-- At last its cores no longer run. -/
def State.railLostCores (s : State) (n : Nat) : State :=
  (s.railLost n).each ((idx 8).filter fun i => coreDomain i == n) fun s i => s.setFld (coreFld i) 0

theorem execDomainRailLost_of_good {s : State} {pd : Fin 10} (hpd : pd.val ≠ 0) (hgood : s.pdGood pd = true) :
    exec (.domainRailLost pd) s = .next (s.railLostCores pd) := by
  change execDomainRailLost pd s = _
  simp only [execDomainRailLost, hgood, Bool.not_true, Bool.false_eq_true, if_false, if_neg hpd]
  rfl

theorem State.railMarked_holds (s : State) (n : Nat) : s.Holds [GLB_STATUS_PD_LOST] (s.railMarked n) :=
  .event (.setFlag_listed (.refl _ _) rfl)

theorem State.railOff_holds (s : State) (n : Nat) : (s.railMarked n).Holds [wordFld R_GLB_PD_STATE] (s.railOff n) :=
  .pdSwitch (.refl _ _) rfl

theorem State.railLost_holds (s : State) (n : Nat) : (s.railOff n).Holds [wordFld R_GLB_PD_STATE] (s.railLost n) :=
  .railGone (.setFld_listed (.refl _ _) rfl)

theorem State.railLostCores_holds (s : State) (n : Nat) : (s.railLost n).Holds [wordFld R_GLB_CORE_STATE] (s.railLostCores n) :=
  .each (.refl _ _) fun hi h => .setFld_listed h (coreFld_within (coreDomain_filter_lt _ hi) rfl)

theorem State.railLostCores_raised (s : State) (n : Nat) : s.Raised (s.railLostCores n) 0x0004 [n] :=
  (s.setFlag_event_raised _ _ _ _).then (State.each_keeps (State.railGone_keeps (State.setFld_keeps
    (State.pdSwitch_keeps (.refl _) _ _) _ _) _) _ _ fun _ _ h => State.setFld_keeps h _ _)

section RailLost

variable {s : State} (c : s.canon) {n : Nat}

include c

theorem State.railOff_canon : (s.railOff n).canon := (s.railOff_holds n).canon ((s.railMarked_holds n).canon c)

theorem State.railLostCores_on : (s.railLostCores n).fld GLB_PD_STATE_ON = s.fld GLB_PD_STATE_ON := by
  have coff : (s.railOff n).canon := State.railOff_canon c
  rw [(s.railLostCores_holds n).fld ((s.railLost_holds n).canon coff) GLB_PD_STATE_ON ⟨rfl, rfl⟩, State.railLost,
    (State.Holds.railGone (.refl _ [])).fld (coff.setFld _ _) GLB_PD_STATE_ON ⟨rfl, rfl⟩]
  exact coff.fld_setFld_of_lt (by decide) (by decide) (s.fld_lt _)

theorem State.railLostCores_pgood (hn : n < 10) : bit ((s.railLostCores n).fld GLB_PD_STATE_PGOOD) n = false := by
  have cmarked := (s.railMarked_holds n).canon c
  have coff : (s.railOff n).canon := State.railOff_canon c
  rw [(s.railLostCores_holds n).fld ((s.railLost_holds n).canon coff) GLB_PD_STATE_PGOOD ⟨rfl, rfl⟩, State.railLost,
    (State.Holds.railGone (.refl _ [])).fld (coff.setFld _ _) GLB_PD_STATE_PGOOD ⟨rfl, rfl⟩,
    coff.fld_setFld_of_apart _ (by decide) (by decide) (by decide), State.railOff, cmarked.pdSwitch_pgood _ _ hn,
    State.pdStaysGood, State.pdMask_without _ _ hn, Bool.false_and]

theorem State.railLostCores_status : (s.railLostCores n).fld GLB_STATUS_PD_LOST = 1 := by
  have hrest : (s.railMarked n).Holds [wordFld R_GLB_PD_STATE, wordFld R_GLB_CORE_STATE] (s.railLostCores n) :=
    .each (.railGone (.setFld_listed (.pdSwitch (.refl _ _) rfl) rfl)) fun hi h =>
      .setFld_listed h (coreFld_within (coreDomain_filter_lt _ hi) rfl)
  rw [hrest.fld ((s.railMarked_holds n).canon c) GLB_STATUS_PD_LOST ⟨rfl, rfl⟩, State.railMarked,
    (State.Holds.event (.refl _ [])).fld (c.setFlag GLB_STATUS_PD_LOST true) GLB_STATUS_PD_LOST ⟨rfl, rfl⟩]
  exact c.fld_setFld_of_lt (by decide) (by decide) (by decide)

theorem State.railLostCores_rest {i : Nat} (hi : i < 8) (hdom : coreDomain i = n) : (s.railLostCores n).coreRuns i = false := by
  have clost := (s.railLost_holds n).canon (State.railOff_canon c)
  have hmem : i ∈ (idx 8).filter fun i => coreDomain i == n := List.mem_filter.mpr ⟨List.mem_range.mpr hi, by simp [hdom]⟩
  rw [State.coreRuns, State.railLostCores, clost.fld_clearCores hi coreDomain_filter_lt, if_pos hmem]
  rfl

end RailLost

end Sys2Proof.Machine

open Sys2Proof Sys2Proof.Machine

/-- Settles O35, a command at a time: what each answers with the clocks running, and what its fields then hold. -/
theorem railsZonesAndSupplies : Obligations.RailsZonesAndSupplies := by
  intro s hwf hclk
  refine ⟨fun hover hflag => ?_, fun hunder hflag => ?_, fun pd hpd hgood => ?_, fun fe hfe hgood => ?_,
    fun fe x l hfe hdisc hlane hce hl => ?_⟩
  · exact ⟨_, execZoneDiffExceeded_of_due hclk hover hflag, State.flag_setFlag_event hwf _ _ _ _ rfl (by decide) (by decide),
      State.setFlag_event_raised _ _ _ _, State.setFlag_event_regsOnly hwf GLB_STATUS_ZONE_DT _ _ _⟩
  · exact ⟨_, execZoneDiffCleared_of_due hclk hunder hflag, State.flag_setFlag_event hwf _ _ _ _ rfl (by decide) (by decide),
      State.setFlag_event_raised _ _ _ _, State.setFlag_event_regsOnly hwf GLB_STATUS_ZONE_DT _ _ _⟩
  · have c := State.canon_of_wf hwf
    refine ⟨_, execDomainRailLost_of_good hpd hgood, ?_, ?_, ?_, s.railLostCores_raised pd,
      fun i hi hdom => State.railLostCores_rest c hi hdom⟩
    · rw [State.pdGood, State.railLostCores_pgood c pd.isLt, Bool.and_false]
    · rw [State.pdOn, State.railLostCores_on c]
      exact (Bool.and_eq_true_iff.mp hgood).1
    · rw [State.flag, State.railLostCores_status c]
      rfl
  · refine ⟨_, execFrontEndSupplyFault_of_good hclk hfe hgood, ?_, ?_, ?_, ?_⟩
    · simp
    · exact State.flag_setFlag_event (s := s.updGlb _) hwf _ _ _ _ rfl (by decide) (by decide)
    · exact (State.setFlag_event_raised _ _ _ _).after (State.updGlb_keeps (.refl s) _)
    · exact fun o ho => State.setFlag_event_regsOnly (s := s.updGlb _) hwf GLB_STATUS_PD_LOST _ _ _ o ho
  · refine ⟨_, execBarrierTransferBad_of_lane hclk x hfe hlane, ?_, nth_upd_same 0 hdisc _, ?_⟩
    · rw [State.ol_updOl_same (s := s.updGlb _) ((State.ces_length hwf).symm ▸ hce) hl]
    · have honly := State.updOl_only (State.updGlb_only (.refl s (partsMask [.glb, .ces])) rfl
        fun g => { g with fastDisc := upd g.fastDisc fe (· + 1) }) rfl (s.outCe fe) l fun o => { o with badFast := true }
      exact honly.toOnly _ fun _ => partsMask_testBit_of_notMem
end

section
/-!
The allocator's slot and a late legal commit (spec/01 R18, spec/02 R31, spec/05 R118).
-/

namespace Sys2Proof.Machine

open Sys2Proof

/-- The front buffers of the exchange tables 0 to 5 (spec/01 R16). -/
def ShareSt.fronts (h : ShareSt) :
    List VehRow × List MetRow × List FeedRow × LimTable × List SumRow × List LinkRow × List (Nat × Word) × ScBlock :=
  (h.t0, h.t1, h.feeds, h.t2, h.t3, h.t3l, h.t4, h.t5)

/-- From `s` to `t` every front table stays as it is. -/
def State.KeepsFronts (s t : State) : Prop := t.sh.fronts = s.sh.fronts

namespace State.KeepsFronts

variable {s0 s : State}

theorem refl (s : State) : s.KeepsFronts s := rfl

/-- A change of anything but the tables. -/
theorem put {pending : List Instr} {regs : List (Nat × Word)} {log : List Event} {timers : List (Timer × Nat)} {hostRead : Word}
    {fresh : Nat} {glb : GlbSt} {tim : TimeSt} {links : List LinkSt} {linkc : LinkCommon} {ces : List CeSt} {veh : List Veh}
    {vehc : VehCommon} {met : MetSt} {leg : LegSt} {isl : IslSt} {ps : PsSt} {pnl : PnlSt} {nfc : List NfcPort} {tag : TagSt}
    {ml : MlSt} {host : HostSt} {mem : MemSt} {sys : SysSt} {twin : TwinSt} (h : s0.KeepsFronts s) :
    s0.KeepsFronts (State.mk pending regs log timers hostRead fresh glb tim links linkc ces s.sh veh vehc met leg isl ps pnl nfc tag
      ml host s.keys mem sys twin) := h

theorem updSh {f : ShareSt → ShareSt} (h : s0.KeepsFronts s) (hf : ∀ x, (f x).fronts = x.fronts) : s0.KeepsFronts (s.updSh f) :=
  (hf s.sh).trans h

theorem event {code : Nat} {data : List Nat} (h : s0.KeepsFronts s) : s0.KeepsFronts (s.event code data) := by
  rw [State.KeepsFronts, State.event_sh]
  exact h

theorem ite {c : Prop} [Decidable c] {a b : State} (ha : s0.KeepsFronts a) (hb : s0.KeepsFronts b) :
    s0.KeepsFronts (if c then a else b) := by
  split
  · exact ha
  · exact hb

theorem iff {c : Bool} {f : State → State} (h : s0.KeepsFronts s) (hf : ∀ {s}, s0.KeepsFronts s → s0.KeepsFronts (f s)) :
    s0.KeepsFronts (s.iff c f) := ite (hf h) h

theorem each {α : Type} {l : List α} {f : State → α → State} (h : s0.KeepsFronts s)
    (hf : ∀ {s a}, s0.KeepsFronts s → s0.KeepsFronts (f s a)) : s0.KeepsFronts (s.each l f) :=
  List.foldlRecOn l f h fun _ h _ _ => hf h

/-! ### The steps of the slot -/

theorem harmFactor (h : s0.KeepsFronts s) : s0.KeepsFronts s.harmFactor :=
  .each h fun h =>
    have told := .iff h .put
    .ite (.put told) (.ite (.event (.put told)) (.ite (.iff (.put told) .event) told))

theorem publishGrants {f : Fill} (h : s0.KeepsFronts s) : s0.KeepsFronts (s.publishGrants f) :=
  .each (.each h fun h => .put (.put (.put (.put (.put (.put (.put h))))))) fun h => .put (.put (.put h))

theorem reportBudgets {f : Fill} {b b0 b1 : Q} (h : s0.KeepsFronts s) : s0.KeepsFronts (s.reportBudgets f b b0 b1) := by
  unfold State.reportBudgets
  extract_lets unsat bindS bindF kw s1 s2 s3 s4 s5 again s6
  have h5 : s0.KeepsFronts s5 := .put (.put (.put (.put (.put (.put (.put (.put h)))))))
  clear_value s5
  exact .each (.ite (.iff h5 fun h => .event (.put h)) (.put h5)) fun h => .ite (.iff h fun h => .event (.put h)) (.put h)

theorem capacityLost (h : s0.KeepsFronts s) : s0.KeepsFronts s.capacityLost :=
  .each h fun h => by
    split
    · exact .ite (.event (.put h)) (.ite (.put h) h)
    · exact .put h

theorem serveNeed {cs : List Cons} {needs : List (Nat × Nat)} {j w : Nat} : ∀ {k : Nat} {s : State}, s0.KeepsFronts s →
    s0.KeepsFronts (State.serveNeed cs needs j w k s)
  | 0, _, h => h
  | k + 1, s, h => by
    unfold State.serveNeed
    refine .ite (.put h) ?_
    split
    · exact .ite h (serveNeed (.put h))
    · exact .ite (.put h) (.event (.put (.put h)))

theorem assign {cs : List Cons} (h : s0.KeepsFronts s) : s0.KeepsFronts (s.assign cs) := by
  refine .each (.each (.put h) fun h => ?_) fun h => ?_
  · split
    · exact .iff h .put
    · exact h
  · split
    · exact .serveNeed h
    · exact .put h

theorem updateMap (h : s0.KeepsFronts s) : s0.KeepsFronts s.updateMap :=
  .each h fun h => .ite (.put (.put h)) (.ite (.put (.put h)) (.ite (.put (.put h))
    (.ite (.ite (.put (.put h)) (.iff (.put h) fun h => .put (.put (.put h)))) h)))

theorem allocWeights (h : s0.KeepsFronts s) : s0.KeepsFronts s.allocWeights := .each h fun h => .each h .put

theorem allocSlot (h : s0.KeepsFronts s) : s0.KeepsFronts s.allocSlot := by
  unfold State.allocSlot
  extract_lets s1
  split
  next f b b0 b1 _ =>
    exact .updSh (.allocWeights (.updateMap (.assign (.capacityLost (.reportBudgets (.publishGrants (.harmFactor h)))))))
      fun _ => rfl

end State.KeepsFronts

theorem execAllocatorSlot_of_inSlot {s : State} (hclk : s.clocked = true) (hrun : s.coreRuns s.allocCore = true)
    (hfrom : 600000 ≤ s.inSf) (hto : s.inSf < 900000) (hmark : s.sh.t2Mark = false) :
    exec .allocatorSlot s = .next s.allocSlot := by
  change execAllocatorSlot s = _
  rw [execAllocatorSlot, State.live_next hclk, if_pos (by simp [hrun, State.inSlot, hfrom, hto, hmark])]

theorem execAllocatorSlot_of_not_inSlot {s : State} (hclk : s.clocked = true)
    (h : s.coreRuns s.allocCore = false ∨ s.inSf < 600000 ∨ 900000 ≤ s.inSf ∨ s.sh.t2Mark = true) :
    exec .allocatorSlot s = .next s := by
  have hoff : (s.coreRuns s.allocCore && s.inSlot) = false := by
    rw [State.inSlot]
    rcases h with h | h | h | h
    · simp [h]
    · simp [Nat.not_le.mpr h]
    · simp [Nat.not_lt.mpr h]
    · simp [h]
  change execAllocatorSlot s = _
  rw [execAllocatorSlot, State.live_next hclk, hoff, if_neg Bool.false_ne_true]

/-! ### A commit that overruns -/

section Overrun

variable {s : State} (hwf : s.wf = true)

/-- A late commit counts, and is told once in an SF. -/
theorem State.overrun_commit (s : State) : s.overrun 2 2 true = if 2 ∈ s.tim.ovrTold then s.inc FRM_OVR_MC_COMMIT else
    ((s.inc FRM_OVR_MC_COMMIT).updTim fun t => { t with ovrTold := 2 :: t.ovrTold }).event 0x0120 [2, 2, s.tim.sfCount] := by
  split
  · next hold => exact if_neg (show ¬(true && !s.tim.ovrTold.contains 2) = true by simp [hold])
  · next hold => exact if_pos (show (true && !s.tim.ovrTold.contains 2) = true by simp [hold])

theorem State.overrun_raised (hold : 2 ∉ s.tim.ovrTold) : s.Raised (s.overrun 2 2 true) 0x0120 [2, 2, s.tim.sfCount] := by
  rw [State.overrun_commit, if_neg hold]
  exact (State.event_raised _ _ _).after (State.updTim_keeps (State.inc_keeps (.refl s) _) _)

include hwf

theorem State.overrun_reg {o : Nat} (ho : isCupStat o = false) : (s.overrun 2 2 true).reg o = (s.inc FRM_OVR_MC_COMMIT).reg o := by
  rw [State.overrun_commit]
  split
  · rfl
  · exact State.event_reg (s := (s.inc FRM_OVR_MC_COMMIT).updTim _) (State.setFld_wf hwf _ _) _ _ ho

theorem State.overrun_count :
    (s.overrun 2 2 true).fld FRM_OVR_MC_COMMIT = min 255 (s.fld FRM_OVR_MC_COMMIT + 1) := by
  rw [State.fld, State.overrun_reg hwf (by decide)]
  refine ((State.canon_of_wf hwf).fld_setFld_of_lt (f := FRM_OVR_MC_COMMIT) (by decide) (by decide) ?_).trans (Nat.min_comm _ _)
  exact Nat.lt_of_le_of_lt (Nat.min_le_right _ _) (by decide)

theorem State.overrun_fld_of_ne {f : Fld} (hcup : isCupStat f.reg = false) (hreg : f.reg ≠ R_FRM_OVR) :
    (s.overrun 2 2 true).fld f = s.fld f := by
  rw [State.fld, State.overrun_reg hwf hcup]
  exact State.fld_setFld_ne hwf FRM_OVR_MC_COMMIT f _ hreg

theorem State.overrun_wf : (s.overrun 2 2 true).wf = true := (State.overrun_keeps (.refl s) 2 2 true).wf hwf

/-- A running MC that halts outside a trial shows it and tells it, and no more. -/
theorem State.haltCore_of_runs (hrun : s.coreRuns 2 = true) (htrial : s.flag KB_BOOT_TRIAL = false) :
    s.haltCore 2 = (s.setFld (coreFld 2) 2).event 0x0009 [2] := by
  have hfld : s.fld (coreFld 2) = 1 := beq_iff_eq.mp hrun
  have htrial' : ((s.setFld (coreFld 2) 2).event 0x0009 [2]).flag KB_BOOT_TRIAL = false := by
    rw [State.flag, State.event_fld (State.setFld_wf hwf _ _) _ _ _ (by decide), State.fld_setFld_ne hwf _ _ _ (by decide)]
    exact htrial
  rw [State.haltCore, if_neg (by omega)]
  exact if_neg (htrial' ▸ Bool.false_ne_true)

end Overrun

theorem execLegalCommitOverrun_of_runs {s : State} (hwf : s.wf = true) (hclk : s.clocked = true) (hrun : s.coreRuns 2 = true)
    (htrial : s.flag KB_BOOT_TRIAL = false) :
    exec .legalCommitOverrun s = .next (((s.overrun 2 2 true).setFld (coreFld 2) 2).event 0x0009 [2]) := by
  have hrun' : (s.overrun 2 2 true).coreRuns 2 = true := by
    rw [State.coreRuns, State.overrun_fld_of_ne hwf (by decide) (by decide)]
    exact hrun
  have htrial' : (s.overrun 2 2 true).flag KB_BOOT_TRIAL = false := by
    rw [State.flag, State.overrun_fld_of_ne hwf (by decide) (by decide)]
    exact htrial
  change execLegalCommitOverrun s = _
  rw [execLegalCommitOverrun, State.live_next hclk, if_pos hrun, State.haltCore_of_runs (State.overrun_wf hwf) hrun' htrial']

end Sys2Proof.Machine

open Sys2Proof Sys2Proof.Machine

/-- Settles O34: the slot's steps write back buffers alone (`State.KeepsFronts`); a late commit counts, then the MC halts. -/
theorem allocatorAndCommitSlots : Obligations.AllocatorAndCommitSlots := by
  intro s hwf hclk
  refine ⟨fun hrun hfrom hto hmark => ?_, execAllocatorSlot_of_not_inSlot hclk, fun hrun htrial => ?_⟩
  · have hfronts : s.KeepsFronts s.allocSlot := .allocSlot (.refl s)
    simp only [State.KeepsFronts, ShareSt.fronts, Prod.mk.injEq] at hfronts
    obtain ⟨h0, h1, hfeeds, h2, h3, h3l, h4, h5⟩ := hfronts
    exact ⟨_, execAllocatorSlot_of_inSlot hclk hrun hfrom hto hmark, rfl, h2, h0, h1, hfeeds, h3, h3l, h4, h5⟩
  · have hover := State.overrun_wf hwf
    have hset := State.setFld_wf hover (coreFld 2) 2
    refine ⟨_, execLegalCommitOverrun_of_runs hwf hclk hrun htrial, ?_, ?_, ?_, fun hold => ?_⟩
    · rw [State.event_fld hset _ _ _ (by decide), State.fld_setFld_ne hover _ _ _ (by decide), State.overrun_count hwf]
    · rw [State.event_fld hset _ _ _ (by decide), State.fld_setFld hover _ _ (by decide) (by decide)]
      rfl
    · exact (State.event_raised _ _ _).after (State.setFld_keeps (State.overrun_keeps (.refl s) _ _ _) _ _)
    · exact (State.overrun_raised hold).then (State.event_keeps (State.setFld_keeps (.refl _) _ _) _ _)
end

section
/-!
What the end of sessions, a release of the twin's token and a change of the mode leave alone (spec/06, spec/14, spec/17 Table 17.1).
-/

namespace Sys2Proof.Machine

open Sys2Proof

theorem watched_vdStat (j : Nat) : watched (R_VD_STAT j) = false := watched_stride (by decide)

namespace State.Holds

variable {s0 s : State} {w : List Fld}

/-! ### Sessions -/

theorem setSState {j new reason : Nat} (h : s0.Holds w s) : s0.Holds w (s.setSState j new reason) :=
  .ite h (.event (.iff (.setFld h (watched_vdStat j)) fun h => .setFld h (watched_vdStat j)))

theorem drive {j d : Nat} (h : s0.Holds w s) : s0.Holds w (s.drive j d) := .put h

theorem park {j : Nat} (h : s0.Holds w s) : s0.Holds w (s.park j) :=
  .ite (.setFld (.drive h) (watched_vdStat j)) (.iff (.drive h) fun h => .setFld h (watched_vdStat j))

theorem tlsDown {j : Nat} (h : s0.Holds w s) : s0.Holds w (s.tlsDown j) := .setFlag (.put h) (watched_vdStat j)

theorem quiet {j : Nat} (h : s0.Holds w s) : s0.Holds w (s.quiet j) := .put h

theorem tokRegs (h : s0.Holds w s) : s0.Holds w s.tokRegs := .setSat (.setSat h rfl) rfl

theorem tokSettle {j : Nat} {ok : Bool} (h : s0.Holds w s) : s0.Holds w (s.tokSettle j ok) := by
  unfold State.tokSettle
  split
  · exact h
  · exact .tokRegs (.put (.put h))

theorem dropReqs {j : Nat} (h : s0.Holds w s) : s0.Holds w (s.dropReqs j) := .put (.tokSettle h)

theorem leaveJoin {j : Nat} (h : s0.Holds w s) : s0.Holds w (s.leaveJoin j) := by
  have hleft {j : Nat} {f : Veh → Veh} {s : State} (h : s0.Holds w s) : s0.Holds w ((s.updVh j f).setFlag (VD_STAT_JOINED j) false) :=
    .setFlag (.put h) (watched_vdStat j)
  unfold State.leaveJoin
  split
  · exact h
  · extract_lets rest left told
    have htold : s0.Holds w told := .event (hleft h)
    clear_value rest told
    split
    · exact hleft htold
    · exact .ite (.each htold fun _ h => .put h) htold
    · exact htold

theorem vehMode {j : Nat} (h : s0.Holds w s) : s0.Holds w (s.vehMode j) :=
  .ite (.ite (.setSState (.setFld (.put h) (watched_vdStat j))) h)
    (.ite h (.setSState (.setFlag (.tlsDown (.park (.put (.dropReqs (.leaveJoin (.put (.quiet h))))))) (watched_vdStat j))))

/-! ### The mode -/

theorem setMode {m : Nat} (h : s0.Holds w s) (hmode : (wordFld R_GLB_MODE).within w = true) (hpd : (wordFld R_GLB_PD_STATE).within w = true)
    (hcommit : (wordFld R_GLB_CFG_COMMIT).within w = true) : s0.Holds w (s.setMode m) :=
  have hprev := Fld.within_of_word (f := GLB_MODE_PREV) hmode (by decide)
  have hnew := Fld.within_of_word (f := GLB_MODE_MODE) hmode (by decide)
  have hmark := Fld.within_of_word (f := GLB_CFG_COMMIT_COMMITTED) hcommit (by decide)
  .ite h (.each (.iff (.iff (.pdSet (.iff (.iff (.event (.setFld_listed (.setFld_listed h hprev) hnew)) fun h => .setFld h rfl)
    fun h => .put (.putSys h id)) hpd) fun h => .setFlag_listed h hmark) fun h => .put h) fun _ h => .vehMode h)

/-! ### The twin's token -/

theorem buildDone (h : s0.Holds w s) : s0.Holds w s.buildDone := .each h fun _ h => .ite (.put h) (.put (.put h))

theorem legPass (h : s0.Holds w s) : s0.Holds w s.legPass :=
  .each h fun _ h => .iff (.buildDone (.put (.each h fun _ h => .put h))) .event

theorem completeWith {n num status result : Nat} {data : List Byte} {held : Held} {cflags : Nat} (h : s0.Holds w s) :
    s0.Holds w (s.completeWith n num status result data held cflags) := by
  unfold State.completeWith
  split
  · exact h
  · exact .iff (.iff (.put (.put (.put h))) fun h => .inc h (watched_stride (by decide))) .event

theorem ringsNotHolder (h : s0.Holds w s) : s0.Holds w s.ringsNotHolder :=
  .each h fun _ h => .ite h (.event (.each h fun _ h => .completeWith h))

theorem ptpRefresh (h : s0.Holds w s) : s0.Holds w s.ptpRefresh := .each h fun _ h => .ite h (.event (.put h))

theorem twinRefresh (h : s0.Holds w s) : s0.Holds w s.twinRefresh := .ite h (.iff (.event (.setFld h rfl)) .event)

theorem twinQuiet {j : Nat} (h : s0.Holds w s) : s0.Holds w (s.twinQuiet j) :=
  .ite (.drive h)
    (.setSState (.setFlag (.setFlag (.tlsDown (.put (.dropReqs (.put (.put (.quiet h)))))) (watched_vdStat j)) (watched_vdStat j)))

theorem twinRelease (h : s0.Holds w s) : s0.Holds w s.twinRelease :=
  .ite (.twinRefresh (.each (.ptpRefresh (.ringsNotHolder (.iff (.event (.setFlag h rfl)) .legPass))) fun _ h => .twinQuiet h)) h

theorem roleStat (h : s0.Holds w s) : s0.Holds w s.roleStat := .setSat (.setSat (.setSat (.setSat h rfl) rfl) rfl) rfl

end State.Holds

end Sys2Proof.Machine
end

section
/-!
What a start does to the registers (spec/01 R22, spec/15 R368, spec/17 R401): of those watched only the fields listed change.
-/

namespace Sys2Proof.Machine

open Sys2Proof

/-- A register of a row that lies above the boot records. -/
theorem watched_above {b n st : Nat} (h : 0xE0100 ≤ b) : watched (b + n * st) = false := by
  refine watched_eq_false (by omega) fun ho => ?_
  have : ∀ o ∈ bootRecords, o < 0xE0100 := by decide
  have := this _ ho
  omega

theorem watched_cup {c b : Nat} (hc : c < 2) (hb : b < 8) : watched (R_CUP_STAT c b) = false := by
  refine watched_eq_false (by simp only [R_CUP_STAT]; omega) fun ho => ?_
  have : ∀ o ∈ bootRecords, 0xE0000 ≤ o := by decide
  have := this _ ho
  simp only [R_CUP_STAT] at this
  omega

/-! ### The registers at a start -/

/-- An entry of a canonical table is what a read of its key gives. -/
theorem Sparse.get_of_mem {α : Type} [DecidableEq α] (d : Nat → α) (x v : α) (k : Nat) :
    ∀ (l : List (Nat × α)) (lo : Option Nat), Sparse.wfFrom d lo l = true → (k, v) ∈ l →
      (∀ y, lo = some y → y < k) ∧ Sparse.get x l k = v
  | (k', v') :: l, lo, hl, hmem => by
    simp only [Sparse.wfFrom, Bool.and_eq_true] at hl
    obtain ⟨⟨hlo, -⟩, hl⟩ := hl
    have hlow : ∀ y, lo = some y → y < k' := by
      rintro y rfl
      exact of_decide_eq_true hlo
    rcases List.mem_cons.mp hmem with heq | hmem
    · obtain ⟨rfl, rfl⟩ := Prod.mk.inj heq
      exact ⟨hlow, if_pos rfl⟩
    · obtain ⟨hk, hget⟩ := Sparse.get_of_mem d x v k l _ hl hmem
      have hk := hk k' rfl
      exact ⟨fun y hy => (hlow y hy).trans hk, by rw [Sparse.get, if_neg (by omega), if_neg (by omega), hget]⟩

theorem State.canon.reg_of_mem {s : State} (c : s.canon) {p : Nat × Word} (hp : p ∈ s.regs) : s.reg p.1 = p.2 :=
  (Sparse.get_of_mem regReset _ p.2 p.1 s.regs none c hp).2

/-- A start clears none of the watched registers but GLB_STATUS: they have no field that a write changes. -/
theorem wordStart_of_watched {o : Nat} (h : watched o = true) (hstatus : o ≠ R_GLB_STATUS) (w : Word) :
    startClears true o = false ∨ wordStart o w = w := by
  have hcases : o ∈ globalState ++ bootRecords := by
    simpa [watched, List.contains_eq_mem] using h
  simp only [globalState, bootRecords, List.cons_append, List.nil_append, List.mem_cons, List.not_mem_nil, or_false] at hcases
  rcases hcases with rfl | rfl | rfl | rfl | rfl | rfl | hboot
  · exact .inr rfl
  · exact .inr rfl
  · exact .inr rfl
  · exact .inr rfl
  · exact .inr rfl
  · exact absurd rfl hstatus
  · refine .inl ?_
    rcases hboot with rfl | rfl | rfl | rfl <;> decide

theorem startClears_mono {lost : Bool} {o : Nat} (h : startClears lost o = true) : startClears true o = true := by
  cases lost
  · simp only [startClears] at h ⊢
    split at h
    · contradiction
    · next hs => rw [if_neg hs, h]
  · exact h

namespace State.Holds

variable {s0 s : State} {w : List Fld}

/-- A write of the word that a register holds. -/
theorem setReg_same {off : Nat} {v : Word} (h : s0.Holds w s) (hv : s0.canon → s.reg off = v) : s0.Holds w (s.setReg off v) := by
  refine ⟨h.keys, h.cfg, h.shed, h.log, fun c => (h.canon c).setReg off v, fun c g hw hl => ?_⟩
  rw [← h.fld_of c g hw hl, State.fld, (h.canon c).reg_setReg]
  split
  · next e => rw [State.fld, e, hv c]
  · rfl

/-- A register with none of its fields listed. -/
theorem reg {t : State} (h : s.Holds w t) (c : s.canon) (r : Nat) (hr : watched r = true ∧ w.all (wordFld r).apart = true := by decide) :
    t.reg r = s.reg r := State.reg_eq_of_wordFld (h.fld_of c (wordFld r) hr.1 hr.2)

theorem regStart (s : State) (lost : Bool) : s.Holds [wordFld R_GLB_STATUS] (s.regStart lost) :=
  .each (.refl _ _) fun {t p} hp h => by
    obtain ⟨hmem, hclears⟩ := List.mem_filter.mp hp
    by_cases hw : watched p.1 = true
    · by_cases hstatus : p.1 = R_GLB_STATUS
      · exact .setReg_listed h (by rw [hstatus]; decide)
      · refine .setReg_same h fun c => ?_
        have happart : [wordFld R_GLB_STATUS].all (wordFld p.1).apart = true := by
          simp [Fld.apart, hstatus]
        rw [h.reg c p.1 ⟨hw, happart⟩, c.reg_of_mem hmem]
        exact ((wordStart_of_watched hw hstatus p.2).resolve_left (by rw [startClears_mono hclears]; decide)).symm
    · exact .setReg h (Bool.eq_false_of_not_eq_true hw)

/-! ### The clock -/

theorem setClkV {new : Nat} {valid : Bool} (h : s0.Holds w s) : s0.Holds w (s.setClkV new valid) := by
  unfold State.setClkV
  split
  · exact h
  · extract_lets old state cls held ofs
    have hstate : s0.Holds w state := .setFlag (.setFld h rfl) rfl
    have hcls : s0.Holds w cls := by
      clear_value state
      unfold cls
      split
      · exact .setFld hstate rfl
      · exact hstate
    clear_value cls
    exact .event (.iff (.iff hcls fun h => .put h) fun h => .setFld h rfl)

theorem setClk {new : Nat} (h : s0.Holds w s) : s0.Holds w (s.setClk new) := .setClkV h

theorem realign (h : s0.Holds w s) : s0.Holds w s.realign := .iff (.put h) .event

theorem startClock {lost : Bool} {rtcNs : Nat} (h : s0.Holds w s) : s0.Holds w (s.startClock lost rtcNs) := by
  unfold State.startClock
  extract_lets counts frames resumed marked shown
  have hframes : s0.Holds w frames := .setReg (.put (.setFlag h rfl)) rfl
  have hmarked : s0.Holds w marked := .setFlag (.setFld (.put hframes) rfl) rfl
  clear_value frames marked
  unfold shown
  refine .realign (.ite (.setFlag (.setClk hmarked) rfl) ?_)
  split
  · exact .setClk hframes
  · exact .setClk hframes
  · exact .setClkV hframes
  · exact hframes

end State.Holds

end Sys2Proof.Machine
end

section
/-!
What the parts released at a start do first (spec/01 R22): none of it touches a watched register.
-/

namespace Sys2Proof.Machine

open Sys2Proof

namespace State.Holds

variable {s0 s : State} {w : List Fld}

theorem runCore {i : Nat} (h : s0.Holds w s) (hi : i < 8) (hw : (wordFld R_GLB_CORE_STATE).within w = true) : s0.Holds w (s.runCore i) :=
  .setFld_listed h (coreFld_within hi hw)

/-! ### The memories and the rings -/

theorem poisRegs {m : Nat} (h : s0.Holds w s) : s0.Holds w (s.poisRegs m) := .setReg (.setSat h (watched_above (by decide))) rfl

theorem memStart {bad : List (Nat × Nat)} (h : s0.Holds w s) : s0.Holds w (s.memStart bad) :=
  .each (.each (.put h) fun _ h => .poisRegs (.setFld (.setSat (.put h) (watched_above (by decide))) (watched_above (by decide))))
    fun _ h => .put h

theorem resend {n : Nat} {x : Held} (h : s0.Holds w s) : s0.Holds w (s.resend n x) := by
  cases x with
  | record num ocmf => exact .put h
  | cup r => exact .put h
  | events first => exact .put h
  | request rid => exact .put h
  | none => exact h

theorem linkGone (h : s0.Holds w s) : s0.Holds w s.linkGone := .iff h fun h => .setFld (.setFld (.put h) rfl) rfl

theorem journalStart {torn unread : List Nat} (h : s0.Holds w s) : s0.Holds w (s.journalStart torn unread) := by
  unfold State.journalStart
  extract_lets has
  refine .hrRegs (.setReg (.ringsRecover (.each (.setFld (.put (.linkGone ?_)) rfl) fun _ h => .put h)) rfl) (by decide)
  refine .each (.each h fun {s num} _ h => ?_) fun {s num} _ h => ?_
  · split
    · exact h
    · next n q _ =>
      extract_lets acked resent undone
      have hresent : s0.Holds w resent := by
        unfold resent
        split
        · exact .resend h
        · exact h
      refine .event (.inc (show s0.Holds w undone from ?_) rfl)
      clear_value resent
      unfold undone
      split
      · exact .put (.iff h fun h => .setFld h (watched_stride (by decide)))
      · exact .put h
      · exact .put (.put hresent)
  · split
    · exact h
    · next n q _ =>
      extract_lets counted told resent
      have htold : s0.Holds w told := .event (.inc h rfl)
      clear_value told
      have hresent : s0.Holds w resent := by
        unfold resent
        split
        · exact .resend htold
        · exact htold
      exact .ite (.put hresent) (.put htold)

/-! ### The check-value units and the laws -/

theorem cvuLoad {u : Nat} {ok : Bool} (h : s0.Holds w s) : s0.Holds w (s.cvuLoad u ok) :=
  have hbase : watched (R_CVU_BASE u) = false := watched_above (by decide)
  have hlen : watched (R_CVU_LEN u) = false := watched_above (by decide)
  have hexp : watched (R_CVU_EXP u) = false := watched_above (by decide)
  have hcfg : watched (R_CVU_CFG u) = false := watched_above (by decide)
  have hloaded := .setFlag (.setFlag (.setFld (.setFld (.setFld (.setFld h hbase) hlen) hexp) hcfg) hcfg) hcfg
  .ite (.put hloaded) (.event (.put hloaded))

theorem lawStart {c : Nat} {img : LawImage} (h : s0.Holds w s) (hc : c < 2) : s0.Holds w (s.lawStart c img) :=
  have hst := watched_below (b := 0x30104) (st := 0x100) hc (by decide)
  .event (.setSat (.setFld (.setFld (.setFld (.setFld (.put h) hst) hst) hst) hst) (watched_below hc (by decide)))

theorem lawLoad {c : Nat} {o : Option LawImage} (h : s0.Holds w s) (hc : c < 2) : s0.Holds w (s.lawLoad c o) := by
  unfold State.lawLoad
  have hoff {img : Option LawImage} :
      s0.Holds w ((s.updCe c fun e => { e with image := img, refusedFor := 0 }).setFld (CE_STATUS_STATE c) 0) :=
    .setFld (.put h) (watched_below hc (by decide))
  split
  · exact hoff
  · exact .ite (.lawStart hoff hc) (.event (.put hoff))

/-! ### The legal registers -/

theorem profEntry {c : Nat} {e : ProfEntry} (h : s0.Holds w s) : s0.Holds w (s.profEntry c e) :=
  .ite (.iff (.inc (.put h) rfl) fun h => .event (.put h)) (.put h)

theorem closeSub {tick cap flags : Nat} (h : s0.Holds w s) : s0.Holds w (s.closeSub tick cap flags) :=
  .ite h (.put (.each h fun _ h => .put (.profEntry h)))

theorem openSub {flags : Nat} (h : s0.Holds w s) : s0.Holds w (s.openSub flags) := .each (.put h) fun _ h => .put h

theorem audit {code : Nat} {data : List Nat} (h : s0.Holds w s) : s0.Holds w (s.audit code data) := .put (.event h)

theorem legStart (h : s0.Holds w s) : s0.Holds w s.legStart :=
  .tokRegs (.put (.buildDone (.each (.ite (.audit (.openSub (.closeSub h))) h) fun _ h => .put (.each h fun _ h => .put h))))

theorem legalCheck {b : Nat} (h : s0.Holds w s) : s0.Holds w (s.legalCheck b) := .setFld h rfl

/-! ### The Island -/

theorem setIstate {n : Nat} (h : s0.Holds w s) : s0.Holds w (s.setIstate n) := .ite h (.event (.put h))

theorem islStart (h : s0.Holds w s) : s0.Holds w s.islStart := .put (.setIstate (.put h))

/-! ### The GC -/

theorem loadTable {p : Nat} {b : List Byte} (h : s0.Holds w s) (hp : p < 2) : s0.Holds w (s.loadTable p b) :=
  have htbl : watched (R_PNL_TBL p) = false := watched_below hp (by decide)
  have hstat : watched (R_PNL_STAT p) = false := watched_below hp (by decide)
  .ite (.iff (.setFld (.setFlag (.put h) htbl) htbl) fun h => .setFld h hstat)
    (.event (.setFld (.setFld (.setFlag (.put h) htbl) hstat) hstat))

theorem loadRoast {p : Nat} {b : List Byte} (h : s0.Holds w s) (hp : p < 2) : s0.Holds w (s.loadRoast p b) :=
  .setFld (.loadTable (.put h) hp) (watched_below hp (by decide))

theorem endEntry {st : Nat} (h : s0.Holds w s) : s0.Holds w (s.endEntry st) := .put (.setFld (.setFld (.setFld (.put h) rfl) rfl) rfl)

theorem tagStart (h : s0.Holds w s) : s0.Holds w s.tagStart := h.of_only (State.tagStart_only (.refl s 1048576) rfl) (by decide)

theorem tagRegs (h : s0.Holds w s) : s0.Holds w s.tagRegs :=
  .setFld (.setFld (.setSat (.setSat (.setFlag (.setFlag (.setFlag h rfl) rfl) rfl) rfl) rfl) rfl) rfl

theorem tagGcRead (h : s0.Holds w s) : s0.Holds w s.tagGcRead :=
  .tagRegs (.put (.iff (.each (.iff (.iff (.iff h .event) fun h => .event (.setSat h rfl)) fun h => .event (.setSat h rfl))
    fun _ h => .event (.inc h rfl)) .event))

theorem showRoute {n : Nat} {r : Option (List Nat)} (h : s0.Holds w s) (hn : n < 63) : s0.Holds w (s.showRoute n r) := by
  have hlq : watched (R_ML_LQ n) = false := watched_below hn (by decide)
  unfold State.showRoute
  extract_lets route first rpt shown
  have hshown : s0.Holds w shown := .setFld (.setFld (.setFld (.setFld h hlq) hlq) hlq) hlq
  clear_value shown first
  split
  · exact .setFldS hshown hlq
  · exact hshown

theorem setSlave {n st : Nat} (h : s0.Holds w s) (hn : n < 63) : s0.Holds w (s.setSlave n st) :=
  .ite h (.event (.setFld (.setFld (.setFld h (watched_below hn (by decide))) rfl) rfl))

theorem mlStart (h : s0.Holds w s) : s0.Holds w s.mlStart :=
  .each (.put (.put (.put h))) fun hn h =>
    have hn := mem_idx (List.mem_of_mem_drop hn)
    have hsst := watched_below (b := 0xC010C) (st := 0x10) hn (by decide)
    .setSlave (.showRoute (.setFld (.setFld (.put (.put h)) hsst) hsst) hn) hn

theorem gcStart {b : Nat} (h : s0.Holds w s) : s0.Holds w (s.gcStart b) :=
  .each (.setFld (.mlStart (.tagGcRead (.put (.endEntry (.put (.each h fun hp h => .loadRoast h (mem_idx hp))))))) rfl) fun _ h => .put h

/-! ### The engines -/

theorem engStart (h : s0.Holds w s) : s0.Holds w s.engStart :=
  .put (.each (.each (.each (.each h fun _ h => .put h) fun hc h => .each h fun hb h => .setFld h (watched_cup (mem_idx hc) (mem_idx hb)))
    fun hn h => .setReg h (watched_below (mem_idx hn) (by decide))) fun _ h => .setSState (.park (.put h)))

end State.Holds

end Sys2Proof.Machine
end

section
/-!
A start that begins: the module is in BOOT, no core runs and nothing is committed (spec/01 R22).
-/

namespace Sys2Proof.Machine

open Sys2Proof

/-! ### The mode after a change -/

theorem State.setMode_holds {s : State} {m : Nat} (hne : s.mode ≠ m) :
    ((s.setFld GLB_MODE_PREV s.mode).setFld GLB_MODE_MODE m).Holds [wordFld R_GLB_PD_STATE, wordFld R_GLB_CFG_COMMIT] (s.setMode m) := by
  unfold State.setMode
  rw [if_neg hne]
  exact .each (.iff (.iff (.pdSet (.iff (.iff (.event (.refl _ _)) fun h => .setFld h rfl) fun h => .put (.putSys h id)) rfl)
    fun h => .setFlag_listed h rfl) fun h => .put h) fun _ h => .vehMode h

theorem State.canon.setMode_mode {s : State} (c : s.canon) {m : Nat} (hm : m < 16) : (s.setMode m).mode = m := by
  by_cases hmode : s.mode = m
  · rw [State.setMode, if_pos hmode, hmode]
  · have cprev := c.setFld GLB_MODE_PREV s.mode
    rw [State.mode, (State.setMode_holds hmode).fld (cprev.setFld _ _) GLB_MODE_MODE ⟨rfl, rfl⟩]
    exact cprev.fld_setFld_of_lt (by decide) (by decide) hm

/-! ### The boot records of the banks -/

/-- A start that begins ends a write of a bank (spec/15 Table 15.9). -/
def State.endWrites (s : State) : State :=
  s.each (idx 2) fun s b => s.iff (s.fld (KB_BANK_STAT_STATE b) == 1) (·.setFld (KB_BANK_STAT_STATE b) 0)

theorem State.endWrites_holds (s : State) : s.Holds [KB_BANK_STAT_STATE 0, KB_BANK_STAT_STATE 1] s.endWrites :=
  .each (.refl _ _) fun {t b} hb h => .iff h fun h => .setFld_listed h <| by
    have hb := mem_idx hb
    interval_cases b <;> decide

theorem State.canon.endWrites_fld {s : State} (c : s.canon) {b : Nat} (hb : s.fld (KB_BANK_STAT_STATE b) ≠ 1) :
    s.endWrites.fld (KB_BANK_STAT_STATE b) = s.fld (KB_BANK_STAT_STATE b) := by
  have hstep : s.endWrites.canon ∧ s.endWrites.fld (KB_BANK_STAT_STATE b) = s.fld (KB_BANK_STAT_STATE b) := by
    refine List.foldlRecOn (idx 2) _ (motive := fun t : State => t.canon ∧ t.fld (KB_BANK_STAT_STATE b) = s.fld (KB_BANK_STAT_STATE b))
      ⟨c, rfl⟩ fun t ⟨ct, ht⟩ a _ => ?_
    unfold State.iff
    split
    · next hwriting =>
      have hab : a ≠ b := by
        rintro rfl
        exact hb (ht.symm.trans (beq_iff_eq.mp hwriting))
      exact ⟨ct.setFld _ _, (ct.fld_setFld_of_apart 0 (by simp) (by simp) (.inl (by simp [R_KB_BANK_STAT]; omega))).trans ht⟩
    · exact ⟨ct, ht⟩
  exact hstep.2

/-! ### A start that begins -/

/-- What a start that begins writes of the watched registers, but for the states of the banks. -/
def beginMarks : List Fld :=
  [wordFld R_GLB_MODE, wordFld R_GLB_PD_STATE, wordFld R_GLB_CORE_STATE, wordFld R_GLB_CFG_COMMIT, KB_BOOT_RCAUSE]

def bankStates : List Fld := [KB_BANK_STAT_STATE 0, KB_BANK_STAT_STATE 1]

/-- The keys after a start has begun: every session, nonce and update is gone, banks and fuses stay. -/
def KeySt.begin (k : KeySt) (cause : Nat) : KeySt :=
  { k with
    slots := k.slots.map fun p => (p.1, { p.2 with flip := false, due := false })
    roles := [], nonces := [], lock := none, upd := none, stream := [], legal := false, pause := none, deferred := none
    begun := some cause }

/-- From `s` a start has begun in `t`. -/
structure State.Begun (s : State) (cause : Nat) (t : State) : Prop where
  holds : ({ s with keys := s.keys.begin cause } : State).Holds (beginMarks ++ bankStates) t
  shed : t.sys.shed = none
  mode : t.mode = 0
  cores : t.reg R_GLB_CORE_STATE = 0
  uncommitted : t.flag GLB_CFG_COMMIT_COMMITTED = false
  bank : ∀ b < 2, s.fld (KB_BANK_STAT_STATE b) ≠ 1 → t.fld (KB_BANK_STAT_STATE b) = s.fld (KB_BANK_STAT_STATE b)

/-- BOOT entered with every domain but PD0 off and no core running. -/
def State.inBoot (s : State) : State := (((s.setMode 0).pdSet 1).setFld GLB_PD_STATE_PGOOD 1).setReg R_GLB_CORE_STATE 0

theorem State.inBoot_holds (s : State) : s.Holds beginMarks s.inBoot :=
  .setReg_listed (.setFld_listed (.pdSet (.setMode (.refl _ _) rfl rfl rfl) rfl) rfl) rfl

theorem State.canon.inBoot_mode {s : State} (c : s.canon) : s.inBoot.mode = 0 := by
  have hpd : (s.setMode 0).Holds [wordFld R_GLB_PD_STATE, wordFld R_GLB_CORE_STATE] s.inBoot :=
    .setReg_listed (.setFld_listed (.pdSet (.refl _ _) rfl) rfl) rfl
  exact (hpd.fld ((State.Holds.setMode (.refl _ beginMarks) rfl rfl rfl).canon c) GLB_MODE_MODE ⟨rfl, rfl⟩).trans
    (c.setMode_mode (by decide))

theorem State.canon.inBoot_cores {s : State} (c : s.canon) : s.inBoot.reg R_GLB_CORE_STATE = 0 := by
  have hon : s.Holds beginMarks (((s.setMode 0).pdSet 1).setFld GLB_PD_STATE_PGOOD 1) :=
    .setFld_listed (.pdSet (.setMode (.refl _ _) rfl rfl rfl) rfl) rfl
  exact ((hon.canon c).reg_setReg _ _ _).trans (if_pos rfl)

theorem State.canon.beginStart {s : State} (c : s.canon) (cause : Nat) : s.Begun cause (s.beginStart cause) := by
  unfold State.beginStart
  extract_lets released parted off marked held stopped feeds outs idle alone ended timed keyed shown
  have hparted : s.Holds beginMarks parted := .put (.iff (.refl _ _) fun h => .twinRelease (.iff h fun h => .put h))
  have cparted := hparted.canon c
  clear_value parted
  have hoff : s.Holds beginMarks off := hparted.trans parted.inBoot_holds
  have hmode : off.mode = 0 := cparted.inBoot_mode
  have hcores : off.reg R_GLB_CORE_STATE = 0 := cparted.inBoot_cores
  have coff := hoff.canon c
  clear_value off
  have halone : marked.Holds [] alone :=
    .put (.putSys (.each (.each
      (.setFlag (.setReg (.setFlag (.setFlag (.setFlag (.setFlag (.setFlag (.refl _ _) rfl) rfl) rfl) rfl) rfl) rfl) rfl)
      fun hf h => .put (.setFlag h (watched_below (mem_idx hf) (by decide))))
      fun hj h => .put (.setFlag h (watched_below (mem_idx hj) (by decide)))) fun _ => rfl)
  have hshed : alone.sys.shed = none := rfl
  have hmarked : off.Holds [GLB_CFG_COMMIT_COMMITTED, GLB_MODE_ACT_PAUSE, KB_BOOT_RCAUSE] marked :=
    .setFld_listed (.setFlag_listed (.setFlag_listed (.refl _ _) rfl) rfl) rfl
  have huncommitted : marked.flag GLB_CFG_COMMIT_COMMITTED = false := by
    have hrest : (off.setFlag GLB_CFG_COMMIT_COMMITTED false).Holds [GLB_MODE_ACT_PAUSE, KB_BOOT_RCAUSE] marked :=
      .setFld_listed (.setFlag_listed (.refl _ _) rfl) rfl
    rw [hrest.flag (coff.setFlag _ _) GLB_CFG_COMMIT_COMMITTED ⟨rfl, rfl⟩]
    exact coff.flag_setFlag false rfl (by decide)
  have hbefore : s.Holds beginMarks alone :=
    (hoff.trans (.setFld_listed (.setFlag_listed (.setFlag_listed (.refl off _) rfl) rfl) rfl)).trans (halone.mono (List.nil_subset _))
  have cmarked := hmarked.canon coff
  clear_value alone marked
  have hended : alone.Holds bankStates timed := .put alone.endWrites_holds
  have hkeyed : ({ s with keys := s.keys.begin cause } : State).Holds (beginMarks ++ bankStates) keyed :=
    .rekeyed (f := (·.begin cause)) ((hbefore.mono (List.subset_append_left _ _)).trans (hended.mono (List.subset_append_right _ _)))
  have hshown : keyed.Holds [] shown.roleStat := .roleStat (.setFld (.setFld (.setFld (.refl _ _) rfl) rfl) rfl)
  have ckeyed := hkeyed.canon c
  have calone := hbefore.canon c
  have hkept (f : Fld) (hf : watched f.reg = true ∧ bankStates.all f.apart = true) : shown.roleStat.fld f = marked.fld f :=
    calc shown.roleStat.fld f
      _ = keyed.fld f := hshown.fld ckeyed f ⟨hf.1, rfl⟩
      _ = timed.fld f := State.fld_congr rfl f
      _ = alone.fld f := hended.fld calone f hf
      _ = marked.fld f := halone.fld cmarked f ⟨hf.1, rfl⟩
  refine ⟨hkeyed.trans (hshown.mono (List.nil_subset _)), hshown.shed (hended.shed hshed),
    (hkept GLB_MODE_MODE ⟨rfl, rfl⟩).trans ((hmarked.fld coff GLB_MODE_MODE ⟨rfl, rfl⟩).trans hmode),
    (State.reg_eq_of_wordFld (hkept (wordFld R_GLB_CORE_STATE) ⟨rfl, rfl⟩)).trans
      ((hmarked.reg coff R_GLB_CORE_STATE ⟨rfl, rfl⟩).trans hcores),
    ?_, fun b hb hstate => ?_⟩
  · rw [State.flag, hkept GLB_CFG_COMMIT_COMMITTED ⟨rfl, rfl⟩]
    exact huncommitted
  · have hw : watched (R_KB_BANK_STAT b) = true ∧ beginMarks.all (KB_BANK_STAT_STATE b).apart = true := by
      interval_cases b <;> exact ⟨rfl, rfl⟩
    have hsame := hbefore.fld c (KB_BANK_STAT_STATE b) hw
    calc shown.roleStat.fld (KB_BANK_STAT_STATE b)
      _ = keyed.fld (KB_BANK_STAT_STATE b) := hshown.fld ckeyed _ ⟨hw.1, rfl⟩
      _ = alone.endWrites.fld (KB_BANK_STAT_STATE b) := State.fld_congr rfl _
      _ = alone.fld (KB_BANK_STAT_STATE b) := calone.endWrites_fld (hsame ▸ hstate)
      _ = s.fld (KB_BANK_STAT_STATE b) := hsame

end Sys2Proof.Machine
end

section
/-!
MODULE_START (spec/01 R22, spec/15 R355, R368, spec/17 R401).
-/

namespace Sys2Proof.Machine

open Sys2Proof

/-! ### The start up to the root key -/

/-- The keys when a start is made: the root key is not derived yet. -/
def KeySt.start (k : KeySt) (noRoot : Bool) : KeySt := { k with begun := none, noBank := false, noRoot := noRoot, root := [] }

/-- What a start may change of the watched registers before the root key is derived. -/
def startFlds : List Fld := [wordFld R_GLB_STATUS, wordFld R_GLB_PD_STATE]

/-- `r` is the state in which the KC derives the root key. -/
structure State.ReadyFrom (s : State) (noRoot : Bool) (r : State) : Prop where
  holds : ({ s with keys := s.keys.start noRoot } : State).Holds startFlds r
  on : s.canon → s.sys.shed = none → r.fld GLB_PD_STATE_ON = 0x24D

theorem State.makeStart_ready (s : State) (cause : Nat) (inp : StartIn) : ∃ r, s.ReadyFrom inp.puf.isNone r ∧
    (inp.puf = none → s.makeStart cause inp = r.event 0x0E04 [r.fld KB_BOOT_ACTIVE]) ∧
    ∀ p, inp.puf = some p → s.makeStart cause inp = (r.updKeys fun k => { k with root := r.deriveRoot p }).kcStart cause inp := by
  unfold State.makeStart
  extract_lets lost clocked unkeyed ready
  have hclocked : s.Holds startFlds clocked :=
    .putSys (.startClock (.iff ((State.Holds.regStart s lost).mono (by decide)) fun h => .setReg h rfl)) id
  have hunkeyed : ({ s with keys := s.keys.start inp.puf.isNone } : State).Holds startFlds unkeyed :=
    .putGlb (.rekeyed (f := (·.start inp.puf.isNone)) hclocked) rfl
  refine ⟨ready, ⟨.pdSet hunkeyed rfl, fun c hshed => ?_⟩, fun h => ?_, fun p h => ?_⟩
  · have hmask : unkeyed.pdMask 0x24D = 0x24D := by
      rw [State.pdMask, hunkeyed.shed hshed]
      rfl
    refine (State.canon.pdSwitch_on (hunkeyed.canon c) true 0x24D).trans ?_
    rw [hmask]
    rfl
  · rw [h]
  · rw [h]

/-! ### The end of BOOT -/

/-- No watched register has a field that a commit locks. -/
theorem lkMask_of_watched {o : Nat} (h : watched o = true) : lkMask o = 0#32 := by
  have hall : ∀ r ∈ globalState ++ bootRecords, lkMask r = 0#32 := by decide
  refine hall o (List.mem_append.mpr ?_)
  simpa [watched, List.contains_eq_mem] using h

theorem State.Holds.restoreCfg {s0 s : State} {w : List Fld} (h : s0.Holds w s) : s0.Holds w s.restoreCfg :=
  .putGlb (.each h fun {t p} _ h => by
    by_cases hw : watched p.1 = true
    · exact .setReg_same h fun _ => by
        rw [lkMask_of_watched hw, BitVec.not_zero, BitVec.and_allOnes, BitVec.and_zero, BitVec.or_zero]
    · exact .setReg h (Bool.eq_false_of_not_eq_true hw)) rfl

/-- Without a stored configuration a deployed module leaves BOOT for COMMISSION. -/
theorem State.canon.endBoot_of_no_cfg {s : State} (c : s.canon) (hcfg : s.glb.storedCfg = none) (hlife : s.lifecycle = 1)
    (hunc : s.flag GLB_CFG_COMMIT_COMMITTED = false) :
    s.Holds [wordFld R_GLB_MODE, wordFld R_GLB_PD_STATE, wordFld R_GLB_CFG_COMMIT] s.endBoot ∧ s.endBoot.mode = 1 := by
  have hrest : s.Holds [] (s.restoreCfg.event 0x0003 []) := .event (.restoreCfg (.refl s []))
  have hnone : s.restoreCfg.glb.storedCfg.isSome = false := by
    rw [(State.Holds.restoreCfg (.refl s [])).cfg, hcfg, Option.isSome_none]
  have hboot : s.endBoot = (s.restoreCfg.event 0x0003 []).setMode 1 := by
    have hlife' : (s.restoreCfg.event 0x0003 []).lifecycle = 1 := (hrest.fld c GLB_LIFECYCLE_STATE ⟨rfl, rfl⟩).trans hlife
    have hunc' := (hrest.flag c GLB_CFG_COMMIT_COMMITTED ⟨rfl, rfl⟩).trans hunc
    rw [State.endBoot]
    simp only [hnone, Bool.false_eq_true, if_false, hlife', hunc', Bool.false_and]
  rw [hboot]
  exact ⟨(hrest.mono (List.nil_subset _)).trans (.setMode (.refl _ _) rfl rfl rfl), (hrest.canon c).setMode_mode (by decide)⟩

/-! ### The KC's part -/

/-- What the KC and the cores it releases may change of the watched registers. -/
def kcFlds : List Fld := [wordFld R_GLB_CORE_STATE, wordFld R_GLB_PD_STATE, KB_BOOT_PEND, KB_BOOT_FVK]

/-- Bank `b` is the active one, and its flash, FVK and SVN pass. -/
structure State.Boots (s : State) (ok : List Bool) (b : Nat) : Prop where
  active : s.fld KB_BOOT_ACTIVE = b
  state : s.fld (KB_BANK_STAT_STATE b) = 3
  passes : s.bankBoots (nth false ok b) b = true

theorem State.Boots.chooseLoaded {s : State} {ok : List Bool} {b : Nat} (h : s.Boots ok b) : s.chooseLoaded ok [] = (s, some b) := by
  obtain ⟨rfl, hstate, hpasses⟩ := h
  have htry : s.tryBank ok (s.fld KB_BOOT_ACTIVE) = (s, true) := by
    simp only [State.tryBank, hstate]
    rw [if_neg (by decide), if_pos hpasses]
  have hchoose : s.chooseBank ok = (s, some (s.fld KB_BOOT_ACTIVE)) := by
    simp only [State.chooseBank, htry, if_true]
  simp only [State.chooseLoaded, hchoose]

theorem State.Holds.takeBank {s0 s : State} {w : List Fld} {b : Nat} {fell : Bool} (h : s0.Holds w s)
    (hstate : s.fld (KB_BANK_STAT_STATE b) = 3) (hpend : KB_BOOT_PEND.within w = true) (hfvk : KB_BOOT_FVK.within w = true) :
    s0.Holds w (s.takeBank b fell) := by
  unfold State.takeBank
  simp only [hstate]
  exact .setReg (.setReg (.setFld_listed (.setFlag_listed h hpend) hfvk) rfl) rfl

theorem State.releaseAll_boots (s : State) (inp : StartIn) (b : Nat) :
    ∃ r, s.Holds kcFlds r ∧ s.releaseAll inp b = (r.event 0x0E01 [b, (r.bank b).hdr.version]).endBoot := by
  unfold State.releaseAll
  extract_lets legal panels vehicles powered engines lawful shared checked capturing
  refine ⟨capturing, ?_, rfl⟩
  have hengines : s.Holds kcFlds engines :=
    .engStart (.pdSet (.runCore (.runCore (.pdSet (.gcStart (.runCore (.putSys (.legStart (.runCore (.refl _ _) (by decide) rfl)) id)
      (by decide) rfl)) rfl) (by decide) rfl) (by decide) rfl) rfl)
  have hlawful : s.Holds kcFlds lawful := .each hengines fun hc h =>
    .lawLoad (.runCore h (by have := mem_idx hc; omega) rfl) (mem_idx hc)
  exact .putSys (.each (.putGlb (.setFld hlawful rfl) rfl) fun _ h => .cvuLoad h) id

theorem State.Boots.lt {s : State} {ok : List Bool} {b : Nat} (h : s.Boots ok b) : b < 2 := h.active ▸ s.fld_lt KB_BOOT_ACTIVE

/-- The boot records that decide whether bank `b` boots, but for its state. -/
def bootFlds (b : Nat) : List Fld := [KB_BOOT_ACTIVE, KB_BOOT_REVOKED, KB_CNT_ARB, KB_BANK_STAT_SVN b]

theorem State.Boots.congr {s t : State} {ok : List Bool} {b : Nat} (h : s.Boots ok b) (hbanks : t.keys.banks = s.keys.banks)
    (hstate : t.fld (KB_BANK_STAT_STATE b) = s.fld (KB_BANK_STAT_STATE b))
    (hfld : ∀ f ∈ bootFlds b, t.fld f = s.fld f) : t.Boots ok b := by
  simp only [bootFlds, List.forall_mem_cons] at hfld
  obtain ⟨hactive, hrevoked, harb, hsvn, -⟩ := hfld
  refine ⟨hactive.trans h.active, hstate.trans h.state, ?_⟩
  rw [State.bankBoots, State.bank, hbanks, hrevoked, harb, hsvn]
  exact h.passes

theorem State.Holds.boots {s t : State} {w : List Fld} {ok : List Bool} {b : Nat} (h : s.Holds w t) (c : s.canon) (hb : s.Boots ok b)
    (hw : ∀ b < 2, (KB_BANK_STAT_STATE b :: bootFlds b).all (fun f => watched f.reg && w.all f.apart) = true) : t.Boots ok b := by
  have hkept (f : Fld) (hf : f ∈ KB_BANK_STAT_STATE b :: bootFlds b) : t.fld f = s.fld f :=
    h.fld c f ((Bool.and_eq_true _ _).mp (List.all_eq_true.mp (hw b hb.lt) f hf))
  exact hb.congr (by rw [h.keys]) (hkept _ List.mem_cons_self) fun f hf => hkept f (List.mem_cons_of_mem _ hf)

theorem State.canon.kcStart_boots {s : State} (c : s.canon) (cause : Nat) {inp : StartIn} {b : Nat} (hsc : inp.scOk = true)
    (hload : inp.loadBad = []) (hlife : s.lifecycle = 1) (htrial : s.flag KB_BOOT_TRIAL = false) (hb : s.Boots inp.bankOk b) :
    ∃ r, s.Holds kcFlds r ∧ s.kcStart cause inp = (r.event 0x0E01 [b, (r.bank b).hdr.version]).endBoot := by
  unfold State.kcStart
  extract_lets running fail failed fell chosen loaded bank journal
  have hrunning : s.Holds [wordFld R_GLB_CORE_STATE] running := .memStart (.runCore (.refl _ _) (by decide) rfl)
  have hfailed : failed = running := by
    have hfail : fail = false := by
      unfold fail
      rw [hrunning.flag c KB_BOOT_TRIAL ⟨rfl, rfl⟩, htrial]
      rfl
    unfold failed
    rw [hfail]
    rfl
  have hboots : running.Boots inp.bankOk b := hrunning.boots c hb fun b hb => by interval_cases b <;> rfl
  have hchosen : chosen = (running, some b) := by
    unfold chosen
    rw [hfailed, hload, hboots.chooseLoaded]
  have hjournal : running.Holds [] journal := by
    unfold journal loaded
    rw [hchosen]
    exact .journalStart (.refl _ _)
  have hbank : bank = some b := by
    unfold bank
    rw [hchosen]
  have crunning := hrunning.canon c
  have hstart : s.Holds kcFlds journal := (hrunning.mono (by decide)).trans (hjournal.mono (List.nil_subset _))
  have hstate : journal.fld (KB_BANK_STAT_STATE b) = 3 :=
    (hjournal.boots crunning hboots fun b hb => by interval_cases b <;> rfl).state
  clear_value running journal bank fell
  subst hbank
  dsimp (zeta := false) only
  extract_lets tagged cores served released
  have htagged : s.Holds kcFlds tagged := .tagStart (.legalCheck (.takeBank hstart hstate rfl rfl))
  have hlife' : tagged.lifecycle = 1 := (htagged.fld c GLB_LIFECYCLE_STATE ⟨rfl, rfl⟩).trans hlife
  have hserved : s.Holds kcFlds served := .putGlb (.runCore (.pdSet htagged rfl) (by decide) rfl) rfl
  have hreleased : released = served := by
    unfold released
    rw [hsc]
    rfl
  obtain ⟨r, hr, heq⟩ := State.releaseAll_boots served.islStart inp b
  refine ⟨r, (State.Holds.islStart hserved).trans hr, ?_⟩
  rw [if_neg (by rw [hlife']; decide), if_pos hsc, hreleased, heq]

/-- With a bank that boots, a deployed module without a stored configuration leaves BOOT for COMMISSION. -/
theorem State.canon.kcStart_commissions {s : State} (c : s.canon) (cause : Nat) {inp : StartIn} {b : Nat} (hsc : inp.scOk = true)
    (hload : inp.loadBad = []) (hlife : s.lifecycle = 1) (htrial : s.flag KB_BOOT_TRIAL = false) (hb : s.Boots inp.bankOk b)
    (hcfg : s.glb.storedCfg = none) (hunc : s.flag GLB_CFG_COMMIT_COMMITTED = false) :
    (s.kcStart cause inp).mode = 1 ∧ (s.kcStart cause inp).keys = s.keys ∧
      s.Raised (s.kcStart cause inp) 0x0E01 [b, (s.bank b).hdr.version] := by
  obtain ⟨r, hr, hkc⟩ := c.kcStart_boots cause hsc hload hlife htrial hb
  have htold : s.Holds kcFlds (r.event 0x0E01 [b, (r.bank b).hdr.version]) := .event hr
  have hbank : r.bank b = s.bank b := by rw [State.bank, hr.keys, State.bank]
  obtain ⟨hend, hmode⟩ := (htold.canon c).endBoot_of_no_cfg (htold.cfg.trans hcfg)
    ((htold.fld c GLB_LIFECYCLE_STATE ⟨rfl, rfl⟩).trans hlife) ((htold.flag c GLB_CFG_COMMIT_COMMITTED ⟨rfl, rfl⟩).trans hunc)
  rw [hkc, ← hbank]
  exact ⟨hmode, hend.keys.trans htold.keys, hr.raised hend⟩

end Sys2Proof.Machine
end

section
/-!
A start begun and made in one step (spec/01 R22, spec/15 R355, R368).
-/

namespace Sys2Proof.Machine

open Sys2Proof

/-- What a start may change of the watched registers before the root key is derived. -/
def startedFlds : List Fld := beginMarks ++ bankStates ++ startFlds

/-- `r` is the state in which the KC derives the root key, in a start that begins in `s`. -/
structure State.Started (s : State) (inp : StartIn) (r : State) : Prop where
  holds : ({ s with keys := (s.keys.begin inp.cause).start inp.puf.isNone } : State).Holds startedFlds r
  on : r.fld GLB_PD_STATE_ON = 0x24D
  mode : r.mode = 0
  cores : r.reg R_GLB_CORE_STATE = 0
  uncommitted : r.flag GLB_CFG_COMMIT_COMMITTED = false
  bank : ∀ b < 2, s.fld (KB_BANK_STAT_STATE b) ≠ 1 → r.fld (KB_BANK_STAT_STATE b) = s.fld (KB_BANK_STAT_STATE b)

theorem State.Begun.started {s t r : State} {inp : StartIn} (c : s.canon) (h : s.Begun inp.cause t) (k : t.ReadyFrom inp.puf.isNone r) :
    s.Started inp r := by
  have ct : t.canon := h.holds.canon c
  have hready (f : Fld) (hf : watched f.reg = true ∧ startFlds.all f.apart = true) : r.fld f = t.fld f :=
    (k.holds.fld ct f hf).trans (State.fld_congr rfl f)
  have hbegun := State.Holds.rekeyed (f := (·.start inp.puf.isNone)) h.holds
  refine ⟨(hbegun.mono (List.subset_append_left _ _)).trans (k.holds.mono (List.subset_append_right _ _)), k.on ct h.shed,
    (hready GLB_MODE_MODE ⟨rfl, rfl⟩).trans h.mode,
    (State.reg_eq_of_wordFld (hready (wordFld R_GLB_CORE_STATE) ⟨rfl, rfl⟩)).trans h.cores, ?_, fun b hb hstate => ?_⟩
  · rw [State.flag, hready GLB_CFG_COMMIT_COMMITTED ⟨rfl, rfl⟩]
    exact h.uncommitted
  · exact (hready _ (by interval_cases b <;> exact ⟨rfl, rfl⟩)).trans (h.bank b hb hstate)

theorem execModuleStart_begun {s : State} {inp : StartIn} (hpd : s.pdOn 0 = true) (hbegun : s.keys.begun = none) :
    exec (.moduleStart inp) s = .next ((s.beginStart inp.cause).makeStart inp.cause inp) := by
  change execModuleStart inp s = _
  simp only [execModuleStart, hpd, hbegun, Bool.not_true, Bool.false_eq_true, if_false]

/-- The root key derived. -/
def State.withRoot (s : State) (key : List Byte) : State := s.updKeys fun k => { k with root := key }

theorem State.withRoot_keys (s : State) (key : List Byte) : (s.withRoot key).keys = { s.keys with root := key } := rfl

/-- A start from before to the root key, and what follows without one and with one. -/
theorem State.canon.moduleStart {s : State} (c : s.canon) (inp : StartIn) (hpd : s.pdOn 0 = true) (hbegun : s.keys.begun = none) :
    ∃ r, s.Started inp r ∧
      (inp.puf = none → exec (.moduleStart inp) s = .next (r.event 0x0E04 [r.fld KB_BOOT_ACTIVE])) ∧
      ∀ p, inp.puf = some p →
        exec (.moduleStart inp) s = .next ((r.withRoot (r.deriveRoot p)).kcStart inp.cause inp) := by
  have hbegin := c.beginStart inp.cause
  rw [execModuleStart_begun hpd hbegun]
  obtain ⟨r, hr, hnone, hsome⟩ := (s.beginStart inp.cause).makeStart_ready inp.cause inp
  exact ⟨r, hbegin.started c hr, fun h => by rw [hnone h], fun p h => by rw [hsome p h, State.withRoot]⟩

theorem State.Started.fld {s r : State} {inp : StartIn} (h : s.Started inp r) (c : s.canon) (f : Fld)
    (hf : watched f.reg = true ∧ startedFlds.all f.apart = true) : r.fld f = s.fld f :=
  (h.holds.fld c f hf).trans (State.fld_congr rfl f)

theorem State.Started.flag {s r : State} {inp : StartIn} (h : s.Started inp r) (c : s.canon) (f : Fld)
    (hf : watched f.reg = true ∧ startedFlds.all f.apart = true) : r.flag f = s.flag f := by
  rw [State.flag, h.fld c f hf, State.flag]

theorem State.Raised.of_suffix {s t u : State} {code : Nat} {data : List Nat} (h : s.log <:+ t.log) (k : t.Raised u code data) :
    s.Raised u code data := by
  obtain ⟨e, l, hcode, hdata, hl, he⟩ := k
  exact ⟨e, l, hcode, hdata, h.trans hl, he⟩

/-! ### Without a root key -/

/-- Without a root key the module stays in BOOT, no core released. -/
theorem moduleStart_without_root {s : State} (c : s.canon) {inp : StartIn} (hpd : s.pdOn 0 = true) (hbegun : s.keys.begun = none)
    (hpuf : inp.puf = none) :
    ∃ t, exec (.moduleStart inp) s = .next t ∧ t.mode = 0 ∧ t.fld GLB_PD_STATE_ON = 0x24D ∧ t.reg R_GLB_CORE_STATE = 0 ∧
      t.keys.begun = none ∧ s.Raised t 0x0E04 [s.fld KB_BOOT_ACTIVE] := by
  obtain ⟨r, hr, hexec, -⟩ := c.moduleStart inp hpd hbegun
  have hevent : r.Holds [] (r.event 0x0E04 [r.fld KB_BOOT_ACTIVE]) := .event (.refl _ _)
  have cr : r.canon := hr.holds.canon c
  refine ⟨_, hexec hpuf, (hevent.fld cr GLB_MODE_MODE ⟨rfl, rfl⟩).trans hr.mode, (hevent.fld cr GLB_PD_STATE_ON ⟨rfl, rfl⟩).trans hr.on,
    (hevent.reg cr R_GLB_CORE_STATE ⟨rfl, rfl⟩).trans hr.cores, ?_, ?_⟩
  · rw [hevent.keys, hr.holds.keys]
    rfl
  · rw [← hr.fld c KB_BOOT_ACTIVE ⟨rfl, rfl⟩]
    exact .of_suffix hr.holds.log (r.event_raised _ _)

/-! ### With a good bank -/

/-- With a root key and a bank that boots, a deployed module without a stored configuration leaves BOOT. -/
theorem moduleStart_from_bank {s : State} (c : s.canon) {inp : StartIn} {p : List Byte} {b : Nat} (hpd : s.pdOn 0 = true)
    (hbegun : s.keys.begun = none) (hpuf : inp.puf = some p) (hsc : inp.scOk = true) (hload : inp.loadBad = []) (hlife : s.lifecycle = 1)
    (htrial : s.flag KB_BOOT_TRIAL = false) (hcfg : s.glb.storedCfg = none) (hb : s.Boots inp.bankOk b) :
    ∃ t, exec (.moduleStart inp) s = .next t ∧ t.mode = 1 ∧ t.keys.begun = none ∧ t.keys.root = s.deriveRoot p ∧
      s.Raised t 0x0E01 [b, (s.bank b).hdr.version] := by
  obtain ⟨r, hr, -, hexec⟩ := c.moduleStart inp hpd hbegun
  have cr : r.canon := hr.holds.canon c
  have hboots : r.Boots inp.bankOk b := by
    refine hb.congr (by rw [hr.holds.keys]; rfl) (hr.bank b hb.lt (by rw [hb.state]; decide)) fun f hf => hr.fld c f ?_
    have hflds : ∀ b < 2, ∀ f ∈ bootFlds b, watched f.reg = true ∧ startedFlds.all f.apart = true := by decide
    exact hflds b hb.lt f hf
  obtain ⟨hmode, hkeys, hraised⟩ := State.canon.kcStart_commissions (s := r.withRoot (r.deriveRoot p)) cr inp.cause hsc hload
    ((State.fld_congr rfl _).trans ((hr.fld c GLB_LIFECYCLE_STATE ⟨rfl, rfl⟩).trans hlife))
    ((State.flag_congr rfl _).trans ((hr.flag c KB_BOOT_TRIAL ⟨rfl, rfl⟩).trans htrial))
    (hboots.congr rfl (State.fld_congr rfl _) fun f _ => State.fld_congr rfl f)
    (hr.holds.cfg.trans hcfg) ((State.flag_congr rfl _).trans hr.uncommitted)
  have hbank : (r.withRoot (r.deriveRoot p)).bank b = s.bank b := by
    rw [State.bank, State.withRoot_keys, hr.holds.keys]
    rfl
  refine ⟨_, hexec p hpuf, hmode, ?_, ?_, ?_⟩
  · rw [hkeys, State.withRoot_keys, hr.holds.keys]
    rfl
  · have hfuse : r.keys.fuse = s.keys.fuse := by
      rw [hr.holds.keys]
      rfl
    rw [hkeys, State.withRoot_keys, State.deriveRoot, hfuse, State.deriveRoot]
  · rw [← hbank]
    exact .of_suffix hr.holds.log hraised

end Sys2Proof.Machine
end

section
/-!
COMMIT (spec/01 R25, spec/17 R401).
-/

namespace Sys2Proof.Machine

open Sys2Proof

/-! ### The check of the laws -/

theorem State.lawCheck_cases (s : State) (c cfSel : Nat) (long : Bool) :
    s.lawCheck c cfSel long = (s, true) ∨
      ∃ r, s.lawCheck c cfSel long = ((s.updCe c fun e => { e with refusedFor := r }).event 0x0302 [c, r], false) := by
  unfold State.lawCheck
  split
  · exact .inl rfl
  · next img _ =>
    extract_lets r
    split
    · exact .inl rfl
    · exact .inr ⟨r, rfl⟩

/-- A law that passes changes nothing. -/
theorem State.lawCheck_of_ok {s : State} {c cfSel : Nat} {long : Bool} (h : (s.lawCheck c cfSel long).2 = true) :
    s.lawCheck c cfSel long = (s, true) := by
  rcases s.lawCheck_cases c cfSel long with hok | ⟨r, hbad⟩
  · exact hok
  · rw [hbad] at h
    contradiction

theorem State.lawCheck_regsOnly {s : State} (hwf : s.wf = true) (c cfSel : Nat) (long : Bool) :
    s.RegsOnly [] (s.lawCheck c cfSel long).1 := by
  intro o _ hcup
  rcases s.lawCheck_cases c cfSel long with hok | ⟨r, hbad⟩
  · rw [hok]
  · rw [hbad, State.event_reg ((State.updCe_keeps (.refl s) _ _).wf hwf) _ _ hcup]
    rfl

theorem State.lawCheck_glb (s : State) (c cfSel : Nat) (long : Bool) : (s.lawCheck c cfSel long).1.glb = s.glb :=
  (State.lawCheck_only (.refl s 1030) rfl c cfSel long).same .glb rfl

/-! ### What a commit comes to -/

/-- Both laws checked against the configuration that waits. -/
def State.lawsChecked (s : State) : State :=
  let sel := s.withEdit.fld FRM_CFG_CF_SEL
  let long := s.withEdit.flag FRM_CFG_LONG_FIBRE
  ((s.lawCheck 0 sel long).1.lawCheck 1 sel long).1

theorem State.lawsChecked_keeps (s : State) : s.Keeps s.lawsChecked := State.lawCheck_keeps (State.lawCheck_keeps (.refl s) _ _ _) _ _ _

theorem State.lawsChecked_glb (s : State) : s.lawsChecked.glb = s.glb := (State.lawCheck_glb _ _ _ _).trans (State.lawCheck_glb _ _ _ _)

theorem State.lawsChecked_regsOnly {s : State} (hwf : s.wf = true) : s.RegsOnly [] s.lawsChecked := fun o ho hcup =>
  (State.lawCheck_regsOnly ((State.lawCheck_keeps (.refl s) _ _ _).wf hwf) _ _ _ o ho hcup).trans
    (State.lawCheck_regsOnly hwf _ _ _ o ho hcup)

theorem State.commit_of_bad {s : State} (hnames : s.withEdit.namesUnfitted = false) (hcfg : s.withEdit.cfgOk = false) :
    s.commit = s.lawsChecked.event 0x0003 [] := by
  simp only [State.commit, hnames, hcfg, Bool.false_eq_true, if_false, Bool.false_and]
  rfl

theorem State.commit_of_ok {s : State} (hnames : s.withEdit.namesUnfitted = false) (hcfg : s.withEdit.cfgOk = true)
    (hlaw : ∀ c < 2, (s.lawCheck c (s.withEdit.fld FRM_CFG_CF_SEL) (s.withEdit.flag FRM_CFG_LONG_FIBRE)).2 = true) :
    s.commit = s.withEdit.commitApply := by
  simp only [State.commit, State.lawCheck_of_ok (hlaw 0 (by decide)), State.lawCheck_of_ok (hlaw 1 (by decide)), hnames, hcfg,
    Bool.false_eq_true, if_false, Bool.and_self, if_true]

theorem execCommit_in_mode {s : State} (hclk : s.clocked = true) (hmode : s.mode = 1 ∨ s.mode = 2 ∨ s.mode = 7) :
    exec .commit s = .next s.commit := by
  change execCommit s = _
  rw [execCommit, State.live_next hclk, State.hostCommit, if_pos hmode]

theorem execCommit_elsewhere {s : State} (hclk : s.clocked = true) (hmode : ¬(s.mode = 1 ∨ s.mode = 2 ∨ s.mode = 7)) :
    exec .commit s = .next (s.event 0x0003 []) := by
  change execCommit s = _
  rw [execCommit, State.live_next hclk, State.hostCommit, if_neg hmode]

/-! ### The waiting fields come into force -/

namespace State.Holds

variable {s0 s : State} {w : List Fld}

theorem ceCommitApply {c : Nat} (h : s0.Holds w s) (hc : c < 2) : s0.Holds w (s.ceCommitApply c) := by
  have hcyc : watched (R_CE_CYC c) = false := watched_below hc (by decide)
  unfold State.ceCommitApply
  extract_lets assigned
  have hassigned : s0.Holds w assigned := .put (.setFld (.put (.put h)) hcyc)
  clear_value assigned
  split
  · exact .ite (.setSat hassigned hcyc) (.lawStart (.setSat hassigned hcyc) hc)
  · exact hassigned

theorem psCommit (h : s0.Holds w s) : s0.Holds w s.psCommit := .each h fun hn h =>
  .iff (.put (.setFld h (watched_below (mem_idx hn) (by decide)))) fun h => .setFld h (watched_below (mem_idx hn) (by decide))

theorem ptpForce (h : s0.Holds w s) : s0.Holds w s.ptpForce := .iff (.iff h fun h => .setFld h rfl) fun h => .setFld h rfl

theorem tagIdentity (h : s0.Holds w s) : s0.Holds w s.tagIdentity := h.of_only (State.tagIdentity_only (.refl s 1048576) rfl) (by decide)

/-- Only the mark of a lid tag key that is due changes in the key core's part. -/
theorem tagKey (h : s0.Holds w s) : ({ s0 with keys := { s0.keys with tagKeyDue := false } } : State).Holds w s.tagKey :=
  .tagRegs (.rekeyed (f := fun k => { k with tagKeyDue := false }) (.put h))

end State.Holds

/-- The configuration in force is stored where PD2 is powered. -/
def State.stored (s : State) : State :=
  if s.pdGood 2 then { s with glb := { s.glb with storedCfg := some s.cfgNow } } else s

/-- The mark and the event of a commit. -/
def State.committed (s : State) (h : Nat) : State :=
  ((((((s.setFld TW_HASH_HASH h).setFlag GLB_CFG_COMMIT_COMMITTED true).ptpRefresh).tagIdentity).tagKey).event 0x0002 []).twinRefresh

/-- The engines, links, switch channels, ports and outputs follow; then the copy is stored and the commit is marked. -/
theorem State.commitApply_split (s : State) :
    ∃ f, s.Holds [] f ∧ f.glb = s.glb ∧ s.commitApply = f.stored.committed (cfgHash f.cfgNow) := by
  unfold State.commitApply
  extract_lets sel long timed framed engines links forced inForce
  refine ⟨inForce, ?_, ?_, rfl⟩
  · exact .each (.ptpForce (.psCommit (.each (.each (.setFld (.setFld (.put (.refl _ _)) rfl) rfl)
      fun hc h => .ceCommitApply h (mem_idx hc)) fun hn h => .linkPower h (State.lt_of_mem_links hn)))) fun _ h => .iff h .park
  · have honly : s.OnlyM 136582 inForce :=
      State.each_only (State.ptpForce_only (State.psCommit_only (State.each_only (State.each_only (State.setFld_only (State.setFld_only
        (State.updTim_only (.refl _ _) rfl _) rfl _ _) rfl _ _) _ _ fun _ _ h => State.ceCommitApply_only h rfl _) _ _
        fun _ _ h => State.linkPower_only h rfl _) rfl) rfl) _ _ fun _ _ h => State.iff_only h _ _ fun _ h => State.park_only h rfl _
    exact honly.same .glb rfl

theorem State.stored_glb (s : State) : s.stored.glb.edit = s.glb.edit ∧ (s.pdGood 2 = true → s.stored.glb.storedCfg ≠ none) := by
  unfold State.stored
  split
  · exact ⟨rfl, fun _ => Option.some_ne_none _⟩
  · next h => exact ⟨rfl, fun hpd => absurd hpd h⟩

theorem State.stored_regs (s : State) : s.stored.regs = s.regs := by
  unfold State.stored
  split <;> rfl

theorem State.stored_log (s : State) : s.stored.log = s.log := by
  unfold State.stored
  split <;> rfl

theorem State.committed_glb (s : State) (h : Nat) : (s.committed h).glb = s.glb :=
  (State.twinRefresh_only (State.event_only (State.tagKey_only (State.tagIdentity_only (State.ptpRefresh_only (State.setFlag_only
    (State.setFld_only (.refl s 9438342) rfl _ _) rfl _ _) rfl) rfl) rfl) rfl _ _) rfl).same .glb rfl

theorem State.committed_raised (s : State) (h : Nat) : s.Raised (s.committed h) 0x0002 [] :=
  ((State.event_raised _ _ _).after (State.tagKey_keeps (State.tagIdentity_keeps (State.ptpRefresh_keeps (State.setFlag_keeps
    (State.setFld_keeps (.refl s) _ _) _ _))))).then (State.twinRefresh_keeps (.refl _))

theorem State.canon.flag_announced {s : State} (c : s.canon) :
    (((((s.ptpRefresh).tagIdentity).tagKey).event 0x0002 []).twinRefresh).flag GLB_CFG_COMMIT_COMMITTED =
      s.flag GLB_CFG_COMMIT_COMMITTED := by
  have hafter : ({ s with keys := { s.keys with tagKeyDue := false } } : State).Holds []
      (((((s.ptpRefresh).tagIdentity).tagKey).event 0x0002 []).twinRefresh) :=
    .twinRefresh (.event (.tagKey (.tagIdentity (.ptpRefresh (.refl _ _)))))
  exact (hafter.flag c GLB_CFG_COMMIT_COMMITTED ⟨rfl, rfl⟩).trans (State.flag_congr rfl _)

theorem State.canon.committed_flag {s : State} (c : s.canon) (h : Nat) : (s.committed h).flag GLB_CFG_COMMIT_COMMITTED = true :=
  (((c.setFld _ _).setFlag _ _).flag_announced).trans ((c.setFld _ _).flag_setFlag true rfl (by decide))

/-- A commit with a check of the fields failed keeps the waiting fields. -/
theorem commit_refused {s : State} (hwf : s.wf = true) (hclk : s.clocked = true) (hmode : s.mode = 1 ∨ s.mode = 2 ∨ s.mode = 7)
    (hnames : s.withEdit.namesUnfitted = false) (hcfg : s.withEdit.cfgOk = false) :
    ∃ t, exec .commit s = .next t ∧ t.glb.edit = s.glb.edit ∧ s.RegsOnly [] t ∧ s.Raised t 0x0003 [] := by
  refine ⟨_, execCommit_in_mode hclk hmode, ?_, fun o ho hcup => ?_, ?_⟩
  · rw [State.commit_of_bad hnames hcfg, State.event_glb, State.lawsChecked_glb]
  · rw [State.commit_of_bad hnames hcfg, State.event_reg (s.lawsChecked_keeps.wf hwf) _ _ hcup]
    exact State.lawsChecked_regsOnly hwf o ho hcup
  · rw [State.commit_of_bad hnames hcfg]
    exact (State.event_raised _ _ _).after s.lawsChecked_keeps

/-- A commit with every check passed brings the waiting fields into force. -/
theorem commit_applied {s : State} (hwf : s.wf = true) (hclk : s.clocked = true) (hmode : s.mode = 1 ∨ s.mode = 2 ∨ s.mode = 7)
    (hnames : s.withEdit.namesUnfitted = false) (hcfg : s.withEdit.cfgOk = true)
    (hlaw : ∀ c < 2, (s.lawCheck c (s.withEdit.fld FRM_CFG_CF_SEL) (s.withEdit.flag FRM_CFG_LONG_FIBRE)).2 = true) :
    ∃ t, exec .commit s = .next t ∧ t.flag GLB_CFG_COMMIT_COMMITTED = true ∧ t.glb.edit = [] ∧
      (s.withEdit.pdGood 2 = true → t.glb.storedCfg ≠ none) ∧ s.Raised t 0x0002 [] := by
  have hedit : s.Keeps s.withEdit := State.withEdit_keeps (.refl s)
  have cedit : s.withEdit.canon := State.canon_of_wf (hedit.wf hwf)
  obtain ⟨f, hf, hglb, hsplit⟩ := s.withEdit.commitApply_split
  obtain ⟨hstoredEdit, hstoredCfg⟩ := f.stored_glb
  have hpd : f.pdGood 2 = s.withEdit.pdGood 2 := by
    rw [State.pdGood, hf.fld cedit GLB_PD_STATE_ON ⟨rfl, rfl⟩, hf.fld cedit GLB_PD_STATE_PGOOD ⟨rfl, rfl⟩, State.pdGood]
  have cstored : f.stored.canon := by
    rw [State.canon, f.stored_regs]
    exact hf.canon cedit
  have hlog : s.log <:+ f.stored.log := f.stored_log ▸ hedit.log.trans hf.log
  refine ⟨_, execCommit_in_mode hclk hmode, ?_⟩
  rw [State.commit_of_ok hnames hcfg hlaw, hsplit, State.committed_glb, hstoredEdit, hglb, ← hpd]
  exact ⟨cstored.committed_flag _, rfl, hstoredCfg, .of_suffix hlog (f.stored.committed_raised _)⟩

/-! ### The SC's start -/

/-- The SC that has not reported in time shows as halted, and the module stays in BOOT. -/
theorem scStartupTimeout_halts {s : State} (hwf : s.wf = true) (hclk : s.clocked = true) (hmode : s.mode = 0)
    (hreleased : s.glb.islReleased = true) (hreported : s.glb.scReported = false) (hruns : s.coreRuns 0 = true)
    (hdue : s.due .scStart (200 * ms) = true) (htrial : s.flag KB_BOOT_TRIAL = false) :
    ∃ t, exec .scStartupTimeout s = .next t ∧ t.fld (coreFld 0) = 2 ∧ t.mode = 0 ∧ s.Raised t 0x0009 [0] := by
  have c : (s.stopTimer .scStart).canon := State.canon_of_wf hwf
  have hexec : exec .scStartupTimeout s = .next (((s.stopTimer .scStart).setFld (coreFld 0) 2).event 0x0009 [0]) := by
    change execScStartupTimeout s = _
    rw [execScStartupTimeout, State.live_next hclk, if_pos ⟨hmode, hreleased, by rw [hreported]; rfl, hruns, hdue⟩, htrial]
    rfl
  have hset : s.Holds [coreFld 0] (((s.stopTimer .scStart).setFld (coreFld 0) 2).event 0x0009 [0]) :=
    .event (.setFld_listed (.put (.refl _ _)) rfl)
  refine ⟨_, hexec, ?_, (hset.fld (State.canon_of_wf hwf) GLB_MODE_MODE ⟨rfl, rfl⟩).trans hmode, ?_⟩
  · rw [(State.Holds.event (.refl _ [])).fld (c.setFld _ _) (coreFld 0) ⟨rfl, rfl⟩]
    exact c.fld_setFld_of_lt (by decide) (by decide) (by decide)
  · exact (State.event_raised _ _ _).after (State.setFld_keeps (State.stopTimer_keeps (.refl s) _) _ _)

end Sys2Proof.Machine

open Sys2Proof Sys2Proof.Machine

/-- Settles O37: starts and commits. The registers that a start rests on, the keys and the stored configuration are followed through
every part that is released (`State.Holds`); a commit is followed through the engines to the copy that it stores. -/
theorem startsAndCommits : Obligations.StartsAndCommits := by
  intro s hwf
  have c := State.canon_of_wf hwf
  refine ⟨fun inp hpd hbegun hpuf => ?_, fun inp p hpd hbegun hpuf hsc hload hlife htrial hcfg hstate hboots => ?_,
    fun hclk hmode hreleased hreported hruns hdue htrial => ?_, fun hclk hmode => ?_, fun hclk hmode hnames hcfg hlaw => ?_,
    fun hclk hmode hnames hcfg => ?_⟩
  · exact moduleStart_without_root c hpd hbegun hpuf
  · exact moduleStart_from_bank c hpd hbegun hpuf hsc hload hlife htrial hcfg ⟨rfl, hstate, hboots⟩
  · exact scStartupTimeout_halts hwf hclk hmode hreleased hreported hruns hdue htrial
  · exact execCommit_elsewhere hclk hmode
  · exact commit_applied hwf hclk hmode hnames hcfg hlaw
  · exact commit_refused hwf hclk hmode hnames hcfg
end

section
/-!
What an operation leaves alone, one thing at a time. `State.Leaves f`: the register field `f`; `State.TimKeeps p`: what `p` reads of
the clock's part. Each rule is stated backwards: what is left alone up to here is left alone after it.
-/

namespace Sys2Proof.Machine

open Sys2Proof

/-! ### A field -/

/-- From `s` to `t` what every command keeps is kept, and field `f` of a canonical state stays as it is. -/
structure State.Leaves (s : State) (f : Fld) (t : State) : Prop where
  keeps : s.Keeps t
  fld_of : s.wf = true → t.fld f = s.fld f

/-- A write of field `g`, which lies in its register, touches no bit of `f`. -/
def Fld.sparedBy (f g : Fld) : Bool := f.apart g && decide (g.lsb ≤ g.msb ∧ g.msb < 32)

theorem Fld.sparedBy_of_reg_ne {f g : Fld} (h : f.reg ≠ g.reg) (hb : g.lsb ≤ g.msb ∧ g.msb < 32) : f.sparedBy g = true := by
  simp [Fld.sparedBy, Fld.apart, h, hb]

namespace State.Leaves

variable {f : Fld} {s0 s : State}

theorem refl (s : State) : s.Leaves f s := ⟨.refl s, fun _ => rfl⟩

theorem trans {t u : State} (h : s.Leaves f t) (k : t.Leaves f u) : s.Leaves f u :=
  ⟨h.keeps.trans k.keeps, fun w => (k.fld_of (h.keeps.wf w)).trans (h.fld_of w)⟩

theorem flag_of {t : State} (h : s.Leaves f t) (w : s.wf = true) : t.flag f = s.flag f := by
  rw [State.flag, h.fld_of w, State.flag]

/-- What changes no register leaves every field. -/
theorem same_regs {t : State} (h : s0.Leaves f s) (k : s.Keeps t) (hregs : t.regs = s.regs) : s0.Leaves f t :=
  ⟨h.keeps.trans k, fun w => (State.fld_congr hregs f).trans (h.fld_of w)⟩

theorem setReg {off : Nat} {v : Word} (h : s0.Leaves f s) (hoff : f.reg ≠ off) : s0.Leaves f (s.setReg off v) :=
  ⟨State.setReg_keeps h.keeps _ _, fun w => by
    rw [State.fld, State.reg_setReg (h.keeps.wf w), if_neg hoff]
    exact h.fld_of w⟩

theorem setFld {g : Fld} {v : Nat} (h : s0.Leaves f s) (hg : f.sparedBy g = true) :
    s0.Leaves f (s.setFld g v) :=
  ⟨State.setFld_keeps h.keeps _ _, fun w => by
    simp only [Fld.sparedBy, Fld.apart, Bool.and_eq_true, Bool.or_eq_true, bne_iff_ne, decide_eq_true_eq] at hg
    obtain ⟨hapart, hlsb, hmsb⟩ := hg
    rw [(State.canon_of_wf (h.keeps.wf w)).fld_setFld_of_apart v hlsb hmsb hapart]
    exact h.fld_of w⟩

theorem setFlag {g : Fld} {b : Bool} (h : s0.Leaves f s) (hg : f.sparedBy g = true) :
    s0.Leaves f (s.setFlag g b) := h.setFld hg

theorem setSat {g : Fld} {v : Nat} (h : s0.Leaves f s) (hg : f.sparedBy g = true) :
    s0.Leaves f (s.setSat g v) := h.setFld hg

theorem setFldS {g : Fld} {v : Int} (h : s0.Leaves f s) (hg : f.sparedBy g = true) :
    s0.Leaves f (s.setFldS g v) := h.setFld hg

theorem event {code : Nat} {data : List Nat} (h : s0.Leaves f s) (hf : isCupStat f.reg = false) : s0.Leaves f (s.event code data) :=
  ⟨State.event_keeps h.keeps _ _, fun w => (State.event_fld (h.keeps.wf w) _ _ f hf).trans (h.fld_of w)⟩

theorem ite {c : Prop} [Decidable c] {a b : State} (ha : s0.Leaves f a) (hb : s0.Leaves f b) : s0.Leaves f (if c then a else b) := by
  split
  · exact ha
  · exact hb

theorem iff {c : Bool} {g : State → State} (h : s0.Leaves f s) (hg : ∀ {s}, s0.Leaves f s → s0.Leaves f (g s)) :
    s0.Leaves f (s.iff c g) := ite (hg h) h

theorem each {α : Type} {l : List α} {g : State → α → State} (h : s0.Leaves f s)
    (hg : ∀ {s a}, a ∈ l → s0.Leaves f s → s0.Leaves f (g s a)) : s0.Leaves f (s.each l g) :=
  List.foldlRecOn l g h fun _ h _ ha => hg ha h

theorem updTim {g : TimeSt → TimeSt} (h : s0.Leaves f s) : s0.Leaves f (s.updTim g) :=
  h.same_regs (State.updTim_keeps (.refl s) g) rfl

theorem updLeg {g : LegSt → LegSt} (h : s0.Leaves f s) : s0.Leaves f (s.updLeg g) :=
  h.same_regs (State.updLeg_keeps (.refl s) g) rfl

end State.Leaves

/-- Registers that are left alone one by one are left alone together. -/
theorem State.RegsOnly.of_leaves {s t : State} {l : List Nat} (hwf : s.wf = true)
    (h : ∀ o, o ∉ l → isCupStat o = false → s.Leaves (wordFld o) t) : s.RegsOnly l t :=
  fun o ho hcup => State.reg_eq_of_wordFld ((h o ho hcup).fld_of hwf)

/-! ### The clock's part -/

/-- What `p` reads of the clock's part is the same in `s` and in `t`. -/
def State.TimKeeps {α : Type} (s : State) (p : TimeSt → α) (t : State) : Prop := p t.tim = p s.tim

/-- Every part of the state but the clock's, as a mask. -/
def noTim : Nat := 0x7FFFF7F

namespace State.TimKeeps

variable {α : Type} {p : TimeSt → α} {s0 s : State}

theorem refl (s : State) : s.TimKeeps p s := rfl

/-- An operation whose law says that it does not change the clock's part. -/
theorem of_only {t : State} (h : s0.TimKeeps p s) (k : s.OnlyM noTim t) : s0.TimKeeps p t :=
  (congrArg p (show t.tim = s.tim from k.same .tim rfl)).trans h

theorem updTim {g : TimeSt → TimeSt} (h : s0.TimKeeps p s) (hg : ∀ {x}, p (g x) = p x) :
    s0.TimKeeps p (s.updTim g) :=
  hg.trans h

theorem event {code : Nat} {data : List Nat} (h : s0.TimKeeps p s) : s0.TimKeeps p (s.event code data) :=
  h.of_only (State.event_only (.refl s _) rfl code data)

theorem setFld {f : Fld} {v : Nat} (h : s0.TimKeeps p s) : s0.TimKeeps p (s.setFld f v) := h

theorem ite {c : Prop} [Decidable c] {a b : State} (ha : s0.TimKeeps p a) (hb : s0.TimKeeps p b) :
    s0.TimKeeps p (if c then a else b) := by
  split
  · exact ha
  · exact hb

theorem iff {c : Bool} {g : State → State} (h : s0.TimKeeps p s) (hg : ∀ {s}, s0.TimKeeps p s → s0.TimKeeps p (g s)) :
    s0.TimKeeps p (s.iff c g) := ite (hg h) h

theorem each {β : Type} {l : List β} {g : State → β → State} (h : s0.TimKeeps p s)
    (hg : ∀ {s b}, s0.TimKeeps p s → s0.TimKeeps p (g s b)) : s0.TimKeeps p (s.each l g) :=
  List.foldlRecOn l g h fun _ h _ _ => hg h

end State.TimKeeps

end Sys2Proof.Machine
end

section
/-!
The clock's operations (spec/02 R36 to R44): what each leaves alone of the registers and of the clock's part, and what a change of
the clock state, an invalid PPS and a valid one set.
-/

namespace Sys2Proof.Machine

open Sys2Proof

/-- The fields that a change of the clock state writes. -/
def clockStateFlds : List Fld := [TIME_STATUS_STATE, TIME_STATUS_VALID, TIME_STATUS_CLKCLASS, TIME_HOLD_ERR_ERR_NS]

namespace State.Leaves

variable {f : Fld} {s0 s : State}

theorem setClkV {new : Nat} {valid : Bool} (h : s0.Leaves f s) (hf : clockStateFlds.all f.sparedBy = true)
    (hcup : isCupStat f.reg = false) : s0.Leaves f (s.setClkV new valid) := by
  simp only [clockStateFlds, List.all_cons, List.all_nil, Bool.and_true, Bool.and_eq_true] at hf
  obtain ⟨hstate, hvalid, hclass, hhold⟩ := hf
  have hstep : s0.Leaves f ((s.setFld TIME_STATUS_STATE new).setFlag TIME_STATUS_VALID valid) := .setFlag (.setFld h hstate) hvalid
  unfold State.setClkV
  refine .ite h (.event (.iff (.iff ?_ .updTim) fun h => .setFld h hhold) hcup)
  split
  · exact .setFld hstep hclass
  · exact hstep

theorem setClk {new : Nat} (h : s0.Leaves f s) (hf : clockStateFlds.all f.sparedBy = true) (hcup : isCupStat f.reg = false) :
    s0.Leaves f (s.setClk new) := .setClkV h hf hcup

theorem fixNext (h : s0.Leaves f s) : s0.Leaves f s.fixNext := h.same_regs (State.fixNext_keeps (.refl s)) rfl

theorem realign (h : s0.Leaves f s) (hcup : isCupStat f.reg = false) : s0.Leaves f s.realign :=
  .iff (.updTim h) fun h => .event h hcup

theorem ppsRise {old : Nat} (h : s0.Leaves f s) : s0.Leaves f (s.ppsRise old) := .iff h .updTim

theorem advanceBy {inc : Int} (h : s0.Leaves f s) : s0.Leaves f (s.advanceBy inc) := by
  have hregs : (s.advanceBy inc).regs = s.regs := (State.advanceBy_only (.refl s 136) rfl inc).same .regs rfl
  exact h.same_regs (State.advanceBy_keeps (.refl s) inc) hregs

theorem acceptCorr {c : Int} {gnss : Bool} (h : s0.Leaves f s) : s0.Leaves f (s.acceptCorr c gnss) := .ite h (.updTim h)

theorem badPps (h : s0.Leaves f s) (hf : clockStateFlds.all f.sparedBy = true) (hok : f.sparedBy TIME_STATUS_GNSS_OK = true)
    (hcup : isCupStat f.reg = false) : s0.Leaves f s.badPps :=
  .iff (.updTim (.setFlag h hok)) fun h => .setClk h hf hcup

theorem ppsWithin {ofs : Int} (h : s0.Leaves f s) (hf : clockStateFlds.all f.sparedBy = true) (hcup : isCupStat f.reg = false) :
    s0.Leaves f (s.ppsWithin ofs) :=
  .acceptCorr (.ite (.updTim (.setClk (.updTim h) hf hcup)) (.ite (.iff (.updTim h) fun h => .updTim (.setClk h hf hcup))
    (.ite (.iff (.updTim h) fun h => .updTim (.setClk h hf hcup)) (.updTim h))))

end State.Leaves

namespace State.TimKeeps

variable {α : Type} {p : TimeSt → α} {s0 s : State}

theorem setClkV {new : Nat} {valid : Bool} (h : s0.TimKeeps p s)
    (hp : ∀ {x : TimeSt} {a z m}, p { x with holdAcc := a, zcEntry := z, zcMoved := m } = p x) :
    s0.TimKeeps p (s.setClkV new valid) := by
  unfold State.setClkV
  refine .ite h (.event (.iff (.iff ?_ fun h => .updTim h hp) .setFld))
  split
  · exact h
  · exact h

theorem setClk {new : Nat} (h : s0.TimKeeps p s)
    (hp : ∀ {x : TimeSt} {a z m}, p { x with holdAcc := a, zcEntry := z, zcMoved := m } = p x) :
    s0.TimKeeps p (s.setClk new) := .setClkV h hp

theorem fixNext (h : s0.TimKeeps p s) : s0.TimKeeps p s.fixNext := h

theorem realign (h : s0.TimKeeps p s) (hp : ∀ {x : TimeSt} {n}, p { x with sfLen := n } = p x) :
    s0.TimKeeps p s.realign := .iff (.updTim h hp) .event

theorem ppsRise {old : Nat} (h : s0.TimKeeps p s)
    (hp : ∀ {x : TimeSt} {r n}, p { x with ppsRose := r, ppsCount := n } = p x) : s0.TimKeeps p (s.ppsRise old) :=
  .iff h fun h => .updTim h hp

theorem acceptCorr {c : Int} {gnss : Bool} (h : s0.TimKeeps p s)
    (hp : ∀ {x : TimeSt} {c d g}, p { x with corr := c, corrDue := d, corrGnss := g } = p x) :
    s0.TimKeeps p (s.acceptCorr c gnss) := .ite h (.updTim h hp)

end State.TimKeeps

end Sys2Proof.Machine
end

section
/-!
Leap seconds: announced by a write, refused when past, and applied at their instant (spec/02 R33, R34, R43).
-/

namespace Sys2Proof.Machine

open Sys2Proof

theorem getBits_lt (w : Word) (m l : Nat) : getBits w m l < 2 ^ (m + 1 - l) := Nat.mod_lt _ (Nat.two_pow_pos _)

/-- The UTC offset holds what was written, within its 16 bits. -/
theorem State.utcOfs_setFldS {s : State} (hwf : s.wf = true) {v : Int} (hlo : -32768 ≤ v) (hhi : v ≤ 32767) :
    (s.setFldS TIME_UTC_UTC_OFS v).utcOfs = v := by
  have hsat : satS 16 v = v := by simp only [satS, clampI]; omega
  have hcode : enc 16 v < 2 ^ 16 := by simp only [enc]; omega
  have hfld : (s.setFldS TIME_UTC_UTC_OFS v).fld TIME_UTC_UTC_OFS = enc 16 v := by
    rw [State.setFldS, show TIME_UTC_UTC_OFS.msb + 1 - TIME_UTC_UTC_OFS.lsb = 16 from rfl, hsat]
    exact (State.canon_of_wf hwf).fld_setFld_of_lt (by decide) (by decide) hcode
  have hsext : sext 16 (enc 16 v) = v := by
    simp only [sext, enc, Nat.reducePow, Nat.reduceSub, Nat.cast_ofNat]
    split_ifs <;> omega
  rw [State.utcOfs, State.fldS, hfld]
  exact hsext

/-- TIME_LEAP with the two fields of a word written. -/
def State.leapSet (s : State) (v : Word) : State :=
  (s.setFld TIME_LEAP_DIR (getBits v 31 31)).setFld TIME_LEAP_AT_DAY (getBits v 15 0)

theorem State.leapSet_keeps (s : State) (v : Word) : s.Keeps (s.leapSet v) := State.setFld_keeps (State.setFld_keeps (.refl s) _ _) _ _

theorem State.Leaves.leapSet {s : State} {o : Nat} (ho : o ∉ [R_TIME_LEAP]) (v : Word) : s.Leaves (wordFld o) (s.leapSet v) :=
  have hreg := mt List.mem_singleton.mpr ho
  .setFld (.setFld (.refl s) (Fld.sparedBy_of_reg_ne hreg (by decide))) (Fld.sparedBy_of_reg_ne hreg (by decide))

section LeapSet

variable {s : State} (hwf : s.wf = true) (v : Word)

include hwf

theorem State.leapSet_day : (s.leapSet v).fld TIME_LEAP_AT_DAY = getBits v 15 0 :=
  ((State.canon_of_wf hwf).setFld _ _).fld_setFld_of_lt (by decide) (by decide) (getBits_lt _ _ _)

theorem State.leapSet_dir : (s.leapSet v).fld TIME_LEAP_DIR = getBits v 31 31 := by
  rw [State.leapSet, ((State.canon_of_wf hwf).setFld _ _).fld_setFld_of_apart _ (by decide) (by decide) (by decide)]
  exact (State.canon_of_wf hwf).fld_setFld_of_lt (by decide) (by decide) (getBits_lt _ _ _)

theorem State.leapSet_utcOfs : (s.leapSet v).utcOfs = s.utcOfs := by
  rw [State.utcOfs, State.fldS, State.leapSet, State.fld_setFld_ne (State.setFld_wf hwf _ _) _ _ _ (by decide),
    State.fld_setFld_ne hwf _ _ _ (by decide), State.utcOfs, State.fldS]

theorem State.leapSet_leapAt : (s.leapSet v).leapAt =
    ((getBits v 15 0 + 1 : Nat) * 86400 + (if getBits v 31 31 = 1 then s.utcOfs - 1 else s.utcOfs + 1)) * 1000000000 := by
  rw [State.leapAt, State.leapOfs, State.flag, State.leapSet_day hwf, State.leapSet_dir hwf, State.leapSet_utcOfs hwf]
  simp only [beq_iff_eq]

/-- A leap second whose instant is past is refused. -/
theorem execTimeLeapWrite_of_past (hclk : s.clocked = true) (hday : getBits v 15 0 ≠ 0) (hpast : (s.leapSet v).leapAt ≤ s.now) :
    exec (.timeLeapWrite v) s = .next (((s.leapSet v).setReg R_TIME_LEAP 0).event 0x0111 []) := by
  change s.live (s.hostLeap v) = _
  rw [State.live_next hclk]
  exact congrArg _ (if_pos ⟨(State.leapSet_day hwf v).trans_ne hday, hpast⟩)

/-- One that is to come is announced; a write of day 0 announces none. -/
theorem execTimeLeapWrite_of_ahead (hclk : s.clocked = true) (h : getBits v 15 0 = 0 ∨ s.now < (s.leapSet v).leapAt) :
    exec (.timeLeapWrite v) s = .next (s.leapSet v) := by
  change s.live (s.hostLeap v) = _
  rw [State.live_next hclk]
  refine congrArg _ (if_neg fun ⟨hday, hpast⟩ => ?_)
  rcases h with h | h
  · exact hday ((State.leapSet_day hwf v).trans h)
  · exact absurd hpast (Int.not_le.mpr h)

end LeapSet

/-! ### The instant comes -/

/-- The boundaries keep their instants of UTC. -/
def State.hwmMoved (s : State) : State :=
  s.updLeg fun l => { l with hwm := l.hwm.map fun h => ((h : Int) + (s.leapOfs - s.utcOfs) * sec).toNat }

/-- The offset takes its new value; a day that lost its last second is noted. -/
def State.leapShift (s : State) : State :=
  (s.setFldS TIME_UTC_UTC_OFS s.leapOfs).iff (s.flag TIME_LEAP_DIR) (·.updTim fun t => { t with skipDay := some (s.fld TIME_LEAP_AT_DAY) })

theorem State.applyLeap_eq (s : State) : s.applyLeap = ((s.hwmMoved.leapShift.setReg R_TIME_LEAP 0).event 0x0108 []).fixNext := rfl

theorem State.hwmMoved_keeps (s : State) : s.Keeps s.hwmMoved := State.updLeg_keeps (.refl s) _

theorem State.leapShift_keeps (s : State) : s.Keeps s.leapShift :=
  State.iff_keeps (State.setFldS_keeps (.refl s) _ _) _ _ fun _ h => State.updTim_keeps h _

theorem State.leapShift_utcOfs {s : State} (hwf : s.wf = true) (hlo : -32768 ≤ s.leapOfs) (hhi : s.leapOfs ≤ 32767) :
    s.leapShift.utcOfs = s.leapOfs := by
  refine Eq.trans ?_ (State.utcOfs_setFldS hwf hlo hhi)
  rw [State.leapShift, State.iff]
  split <;> rfl

/-- A leap second that is due, with no step due at the same tick, is applied and recorded. -/
theorem execLeapSecondApply_of_due {s : State} (hclk : s.clocked = true) (hstep : s.stepDue = false)
    (hday : s.fld TIME_LEAP_AT_DAY ≠ 0) (hat : s.leapAt ≤ s.tim.count) :
    exec .leapSecondApply s = .next (s.applyLeap.updLeg fun l => { l with audit := s.applyLeap.newEvent 0x0108 [] :: l.audit }) := by
  change execLeapSecondApply s = _
  rw [execLeapSecondApply, State.live_next hclk, if_pos (by simp [State.leapDue, hday, hat, hstep])]

theorem execLeapSecondApply_of_stepDue {s : State} (hclk : s.clocked = true) (hstep : s.stepDue = true) :
    exec .leapSecondApply s = .next s := by
  change execLeapSecondApply s = _
  rw [execLeapSecondApply, State.live_next hclk, if_neg (by simp [hstep])]

section ApplyLeap

variable {s : State} (hwf : s.wf = true)

include hwf

theorem State.hwmMoved_leapShift_wf : s.hwmMoved.leapShift.wf = true := s.hwmMoved.leapShift_keeps.wf (s.hwmMoved_keeps.wf hwf)

theorem State.applyLeap_reg {o : Nat} (hcup : isCupStat o = false) :
    s.applyLeap.reg o = if o = R_TIME_LEAP then 0 else s.hwmMoved.leapShift.reg o := by
  have hshift := State.hwmMoved_leapShift_wf hwf
  rw [State.applyLeap_eq]
  exact (State.event_reg (State.setReg_wf hshift _ _) _ _ hcup).trans (State.reg_setReg hshift _ _ _)

theorem State.applyLeap_utcOfs (hlo : -32768 ≤ s.leapOfs) (hhi : s.leapOfs ≤ 32767) : s.applyLeap.utcOfs = s.leapOfs := by
  rw [State.utcOfs, State.fldS, State.fld, State.applyLeap_reg hwf (by decide), if_neg (by decide)]
  exact State.leapShift_utcOfs (s := s.hwmMoved) (s.hwmMoved_keeps.wf hwf) hlo hhi

theorem State.applyLeap_regsOnly : s.RegsOnly [R_TIME_LEAP, R_TIME_UTC] s.applyLeap := by
  intro o ho hcup
  simp only [List.mem_cons, List.not_mem_nil, or_false, not_or] at ho
  have hset : s.Leaves (wordFld o) (s.hwmMoved.setFldS TIME_UTC_UTC_OFS s.hwmMoved.leapOfs) :=
    .setFldS (.updLeg (.refl s)) (Fld.sparedBy_of_reg_ne ho.2 (by decide))
  have hshift : s.Leaves (wordFld o) s.hwmMoved.leapShift := .iff hset .updTim
  rw [State.applyLeap_reg hwf hcup, if_neg ho.1]
  exact State.reg_eq_of_wordFld (hshift.fld_of hwf)

end ApplyLeap

theorem State.leapShift_leg (s : State) : s.leapShift.leg = s.leg := by
  rw [State.leapShift, State.iff]
  split <;> rfl

theorem State.applyLeap_audit (s : State) : s.applyLeap.leg.audit = s.leg.audit := by
  have hleg : s.applyLeap.leg = s.hwmMoved.leapShift.leg := by
    rw [State.applyLeap_eq]
    exact State.event_leg _ _ _
  rw [hleg, State.leapShift_leg]
  rfl

theorem State.applyLeap_raised (s : State) : s.Raised s.applyLeap 0x0108 [] := by
  rw [State.applyLeap_eq]
  exact ((State.event_raised _ _ _).then (State.fixNext_keeps (.refl _))).after
    (State.setReg_keeps (s.hwmMoved_keeps.trans s.hwmMoved.leapShift_keeps) _ _)

end Sys2Proof.Machine

open Sys2Proof Sys2Proof.Machine

/-- Settles O12: the write leaves its two fields or is refused by the instant they name; the instant's tick writes the offset, clears
TIME_LEAP and records the event, unless a step is due. -/
theorem leapSecondAnnouncedAndApplied : Obligations.LeapSecondAnnouncedAndApplied := by
  intro s hwf hclk
  refine ⟨fun v hday hpast => ?_, fun v h => ?_, execLeapSecondApply_of_stepDue hclk, fun hstep hday hat hlo hhi => ?_⟩
  · rw [← State.leapSet_leapAt hwf v] at hpast
    have hset := (s.leapSet_keeps v).wf hwf
    refine ⟨_, execTimeLeapWrite_of_past hwf v hclk hday hpast, ?_, ?_, .of_leaves hwf fun o ho hcup => ?_⟩
    · rw [State.event_reg (State.setReg_wf hset _ _) _ _ (by decide), State.reg_setReg hset, if_pos rfl]
    · exact (State.event_raised _ _ _).after (State.setReg_keeps (s.leapSet_keeps v) _ _)
    · exact .event (.setReg (.leapSet ho v) (mt List.mem_singleton.mpr ho)) hcup
  · rw [← State.leapSet_leapAt hwf v] at h
    exact ⟨_, execTimeLeapWrite_of_ahead hwf v hclk h, State.leapSet_day hwf v, State.leapSet_dir hwf v, rfl,
      .of_leaves hwf fun o ho _ => .leapSet ho v⟩
  · refine ⟨_, execLeapSecondApply_of_due hclk hstep hday hat, State.applyLeap_utcOfs hwf hlo hhi, ?_, ?_, ?_, ?_⟩
    · exact (State.applyLeap_reg hwf (by decide)).trans (if_pos rfl)
    · exact s.applyLeap_raised
    · exact congrArg (·.length + 1) s.applyLeap_audit
    · exact State.applyLeap_regsOnly hwf
end

section
/-!
The edges of a GNSS receiver, their messages, and the windows without an edge (spec/02 R37, R38).
-/

namespace Sys2Proof.Machine

open Sys2Proof

/-- A change of the clock state writes the new one and raises E:0x0101. -/
theorem State.setClkV_of_ne {s : State} {new : Nat} (valid : Bool) (h : s.clk ≠ new) :
    ∃ u, (s.setFld TIME_STATUS_STATE new).Leaves TIME_STATUS_STATE u ∧ s.setClkV new valid = u.event 0x0101 [s.clk, new] := by
  rw [State.setClkV, if_neg h]
  refine ⟨_, .iff (.iff ?_ .updTim) fun h => .setFld h (by decide), rfl⟩
  split
  · exact .setFld (.setFlag (.refl _) (by decide)) (by decide)
  · exact .setFlag (.refl _) (by decide)

theorem State.setClk_raised {s : State} {new : Nat} (h : s.clk ≠ new) : s.Raised (s.setClk new) 0x0101 [s.clk, new] := by
  obtain ⟨u, hu, he⟩ := State.setClkV_of_ne (new != 0) h
  rw [State.setClk, he]
  exact (State.event_raised _ _ _).after (.trans (State.setFld_keeps (.refl s) _ _) hu.keeps)

theorem State.setClk_clk {s : State} (hwf : s.wf = true) {new : Nat} (h : s.clk ≠ new) (hnew : new < 8) : (s.setClk new).clk = new := by
  obtain ⟨u, hu, he⟩ := State.setClkV_of_ne (new != 0) h
  have hset := State.setFld_wf hwf TIME_STATUS_STATE new
  rw [State.setClk, he, State.clk, State.event_fld (hu.keeps.wf hset) _ _ _ (by decide), hu.fld_of hset]
  exact (State.canon_of_wf hwf).fld_setFld_of_lt (by decide) (by decide) hnew

/-- What the receiver's work keeps of the clock's part: the run of missing edges, the last PPS and the edge that waits. -/
def TimeSt.fix (t : TimeSt) : Nat × Option Nat × Option Nat := (t.missRun, t.lastPps, t.edge)

/-! ### Edges -/

section Edge

variable {s : State} (hclk : s.clocked = true) (hon : s.gnssOn = true) (hedge : s.tim.edge = none)

include hclk hon hedge

/-- An edge inside its window, or where any instant is accepted, waits for its message. -/
theorem execGnssPpsEdge_of_inside (e : Nat) (hin : ∀ w, s.ppsWindow = some w → w ≤ e + ms ∧ e ≤ w + ms) :
    exec (.gnssPpsEdge e) s = .next (s.updTim fun t =>
      { t with
        edge := some e, edgeOfs := s.utcOfs
        edgeLeap := if s.fld TIME_LEAP_AT_DAY = 0 then none else some (s.fld TIME_LEAP_AT_DAY, s.leapOfs) }) := by
  change execGnssPpsEdge e s = _
  rw [execGnssPpsEdge, State.live_next hclk, if_pos hon]
  simp only [hedge, Option.isSome_none, State.iff, Bool.false_eq_true, if_false]
  cases hw : s.ppsWindow with
  | none => rfl
  | some w => simp only [hin w hw, and_self, decide_true, if_true]

/-- An edge outside its window is no fix and waits for nothing. -/
theorem execGnssPpsEdge_of_outside {e w : Nat} (hw : s.ppsWindow = some w) (hout : ¬(w ≤ e + ms ∧ e ≤ w + ms)) :
    exec (.gnssPpsEdge e) s = .next ((s.setFlag TIME_STATUS_GNSS_OK false).event 0x0105 []) := by
  change execGnssPpsEdge e s = _
  rw [execGnssPpsEdge, State.live_next hclk, if_pos hon]
  simp only [hedge, Option.isSome_none, State.iff, Bool.false_eq_true, if_false, hw, hout, decide_false]

/-- The window has ended without an edge. -/
theorem execPpsMissing_of_ended {w : Nat} (hw : s.ppsWindow = some w) (hend : w + ms ≤ s.now) :
    exec .ppsMissing s = .next s.badPps := by
  change execPpsMissing s = _
  simp only [execPpsMissing, hw, hon, hedge, Option.isNone_none, hend, decide_true, Bool.and_self, if_true]
  exact State.live_next hclk _

end Edge

/-! ### A PPS that is invalid or missing -/

/-- It is no fix and counts. -/
def State.ppsLost (s : State) : State :=
  (s.setFlag TIME_STATUS_GNSS_OK false).updTim fun t =>
    { t with missRun := t.missRun + 1, goodRun := 0, farRun := 0, r39Run := 0, edge := none }

theorem State.badPps_eq (s : State) :
    s.badPps = s.ppsLost.iff (s.ppsLost.clk == 3 && decide (3 ≤ s.ppsLost.tim.missRun)) (·.setClk 4) := rfl

theorem State.badPps_fix (s : State) : s.badPps.tim.fix = (s.tim.missRun + 1, s.tim.lastPps, none) := by
  have hkeep : s.ppsLost.TimKeeps TimeSt.fix s.badPps := .iff (.refl _) (.setClk · rfl)
  exact hkeep

section Lost

variable {s : State} (hwf : s.wf = true)

include hwf

theorem State.ppsLost_wf : s.ppsLost.wf = true := (State.updTim_keeps (State.setFlag_keeps (.refl s) _ _) _).wf hwf

theorem State.ppsLost_clk : s.ppsLost.clk = s.clk :=
  (State.canon_of_wf hwf).fld_setFld_of_apart (f := TIME_STATUS_GNSS_OK) _ (by decide) (by decide) (by decide)

theorem State.badPps_ok : s.badPps.flag TIME_STATUS_GNSS_OK = false := by
  have hkeep : s.ppsLost.Leaves TIME_STATUS_GNSS_OK s.badPps := .iff (.refl _) fun h => .setClk h (by decide) (by decide)
  rw [hkeep.flag_of (State.ppsLost_wf hwf)]
  exact (State.canon_of_wf hwf).flag_setFlag false rfl (by decide)

theorem State.badPps_of_third (hlocked : s.clk = 3) (hmiss : 2 ≤ s.tim.missRun) :
    s.badPps.clk = 4 ∧ s.Raised s.badPps 0x0101 [3, 4] := by
  have hclk : s.ppsLost.clk = 3 := (State.ppsLost_clk hwf).trans hlocked
  have hne : s.ppsLost.clk ≠ 4 := by omega
  have hthird : 3 ≤ s.ppsLost.tim.missRun := Nat.succ_le_succ hmiss
  have hbad : s.badPps = s.ppsLost.setClk 4 := by
    rw [State.badPps_eq, hclk]
    exact if_pos (by simp [hthird])
  have hraised := State.setClk_raised hne
  rw [hclk] at hraised
  rw [hbad]
  exact ⟨State.setClk_clk (State.ppsLost_wf hwf) hne (by decide),
    hraised.after (State.updTim_keeps (State.setFlag_keeps (.refl s) _ _) _)⟩

theorem State.badPps_log (hlocked : s.clk ≠ 3) : s.badPps.log = s.log := by
  rw [State.badPps_eq, State.ppsLost_clk hwf, beq_false_of_ne hlocked]
  rfl

theorem State.invalidPps_ok : s.invalidPps.flag TIME_STATUS_GNSS_OK = false := by
  have hkeep : s.badPps.Leaves TIME_STATUS_GNSS_OK s.invalidPps := .event (.refl _) (by decide)
  rw [hkeep.flag_of ((State.badPps_keeps (.refl s)).wf hwf), State.badPps_ok hwf]

end Lost

theorem State.invalidPps_raised (s : State) : s.Raised s.invalidPps 0x0105 [] :=
  (State.event_raised _ _ _).after (State.badPps_keeps (.refl s))

theorem State.invalidPps_fix (s : State) : s.invalidPps.tim.fix = (s.tim.missRun + 1, s.tim.lastPps, none) :=
  (congrArg TimeSt.fix (State.event_tim _ _ _)).trans s.badPps_fix

/-! ### A valid PPS -/

/-- A valid PPS is a fix, shows its offset and is the last one. -/
def State.ppsTaken (s : State) (e : Nat) (ofs : Int) : State :=
  ((s.setFlag TIME_STATUS_GNSS_OK true).setFldS TIME_OFFSET_OFS_NS ofs).updTim fun t =>
    { t with missRun := 0, lastPps := some e, edge := none }

section Taken

variable {s : State} (hwf : s.wf = true) (e : Nat) (ofs : Int)

include hwf

theorem State.ppsTaken_wf : (s.ppsTaken e ofs).wf = true :=
  (State.updTim_keeps (State.setFldS_keeps (State.setFlag_keeps (.refl s) _ _) _ _) _).wf hwf

theorem State.ppsTaken_stepLimit : (s.ppsTaken e ofs).stepLimit = s.stepLimit := by
  have hlimit : s.Leaves TIME_CTRL_STEP_LIMIT (s.ppsTaken e ofs) := .updTim (.setFldS (.setFlag (.refl s) (by decide)) (by decide))
  rw [State.stepLimit, hlimit.fld_of hwf, State.stepLimit]

theorem State.ppsTaken_ok : (s.ppsTaken e ofs).flag TIME_STATUS_GNSS_OK = true := by
  have hkeep : (s.setFlag TIME_STATUS_GNSS_OK true).Leaves TIME_STATUS_GNSS_OK (s.ppsTaken e ofs) :=
    .updTim (.setFldS (.refl _) (by decide))
  rw [hkeep.flag_of (State.setFlag_wf hwf _ _)]
  exact (State.canon_of_wf hwf).flag_setFlag true rfl (by decide)

theorem State.validPps_of_within (h : (ofs.natAbs : Int) ≤ s.stepLimit) : s.validPps e ofs = (s.ppsTaken e ofs).ppsWithin ofs :=
  if_pos (h.trans_eq (State.ppsTaken_stepLimit hwf e ofs).symm)

end Taken

theorem State.TimKeeps.ppsWithin {s0 s : State} {ofs : Int} (h : s0.TimKeeps TimeSt.fix s) : s0.TimKeeps TimeSt.fix (s.ppsWithin ofs) :=
  .acceptCorr (.ite (.updTim (.setClk (.updTim h rfl) rfl) rfl) (.ite (.iff (.updTim h rfl) fun h => .updTim (.setClk h rfl) rfl)
    (.ite (.iff (.updTim h rfl) fun h => .updTim (.setClk h rfl) rfl) (.updTim h rfl)))) rfl

/-! ### Messages -/

section Message

variable {s : State} (hclk : s.clocked = true) (hon : s.gnssOn = true) {m : GnssMsg} {e : Nat} (hedge : s.tim.edge = some e)

include hclk hon hedge

/-- The message of a waiting edge measures it. -/
theorem execGnssMessage_of_valid (ha : m.statusA = true) (hfrom : 50 ≤ m.endMs) (hto : m.endMs ≤ 950) (hday : s.msgDayOk m = true) :
    exec (.gnssMessage m) s = .next (s.validPps e
      (((m.day * 86400 + m.sec : Nat) + s.msgOfs m) * 1000000000 + s.fldS GNSS_DLY_DLY_NS - e)) := by
  change execGnssMessage m s = _
  simp only [execGnssMessage, State.live_next hclk, hon, hedge, ha, hfrom, hto, hday, and_self, decide_true, Bool.and_self, if_true]

/-- Any other message makes its edge invalid. -/
theorem execGnssMessage_of_invalid (h : m.statusA = false ∨ m.endMs < 50 ∨ 950 < m.endMs ∨ s.msgDayOk m = false) :
    exec (.gnssMessage m) s = .next s.invalidPps := by
  have hbad : (m.statusA && decide (50 ≤ m.endMs ∧ m.endMs ≤ 950) && s.msgDayOk m) = false := by
    rcases h with h | h | h | h
    · simp [h]
    · simp [Nat.not_le.mpr h]
    · simp [Nat.not_le.mpr h]
    · simp [h]
  change execGnssMessage m s = _
  simp only [execGnssMessage, State.live_next hclk, hon, hedge, hbad, if_true, Bool.false_eq_true, if_false]

end Message

end Sys2Proof.Machine

open Sys2Proof Sys2Proof.Machine

/-- Settles O13, a command at a time; what an edge outside its window leaves as it is, is log entry 51 (DESIGN CHOICE). -/
theorem gnssEdgesAndMessages : Obligations.GnssEdgesAndMessages := by
  intro s hwf hclk hon
  refine ⟨fun e hedge => execGnssPpsEdge_of_inside hclk hon hedge e, fun e w hedge hw hout => ?_,
    fun m e hedge ha hfrom hto hday hofs => ?_, fun m e hedge h => ?_, fun w hw hedge hend => ?_⟩
  · exact ⟨_, execGnssPpsEdge_of_outside hclk hon hedge hw hout, State.flag_setFlag_event hwf _ _ _ _ rfl (by decide) (by decide),
      State.setFlag_event_raised _ _ _ _, State.event_tim _ _ _, State.setFlag_event_regsOnly hwf TIME_STATUS_GNSS_OK _ _ _⟩
  · refine ⟨_, execGnssMessage_of_valid hclk hon hedge ha hfrom hto hday, ?_⟩
    rw [State.validPps_of_within hwf e _ hofs]
    generalize ((m.day * 86400 + m.sec : Nat) + s.msgOfs m) * 1000000000 + s.fldS GNSS_DLY_DLY_NS - e = ofs
    have hok : (s.ppsTaken e ofs).Leaves TIME_STATUS_GNSS_OK ((s.ppsTaken e ofs).ppsWithin ofs) :=
      .ppsWithin (.refl _) (by decide) (by decide)
    have hfix : ((s.ppsTaken e ofs).ppsWithin ofs).tim.fix = (0, some e, none) := State.TimKeeps.ppsWithin (.refl (s.ppsTaken e ofs))
    simp only [TimeSt.fix, Prod.mk.injEq] at hfix
    exact ⟨(hok.flag_of (State.ppsTaken_wf hwf e ofs)).trans (State.ppsTaken_ok hwf e ofs), hfix⟩
  · have hfix := s.invalidPps_fix
    simp only [TimeSt.fix, Prod.mk.injEq] at hfix
    obtain ⟨hmiss, -, hedge'⟩ := hfix
    exact ⟨_, execGnssMessage_of_invalid hclk hon hedge h, State.invalidPps_ok hwf, s.invalidPps_raised, hmiss, hedge'⟩
  · have hfix := s.badPps_fix
    simp only [TimeSt.fix, Prod.mk.injEq] at hfix
    exact ⟨_, execPpsMissing_of_ended hclk hon hedge hw hend, State.badPps_ok hwf,
      hfix.1, State.badPps_of_third hwf, State.badPps_log hwf⟩
end

section
/-!
A step of the count at the legal registers: it writes nothing in the clock's block (spec/08 R198 to R201).
-/

namespace Sys2Proof.Machine

open Sys2Proof

/-- A field of the clock's block shares no bit with one of another block. -/
theorem Fld.sparedBy_of_block {f g : Fld} (hf : f.reg / 0x10000 = 1) (hg : g.reg / 0x10000 ≠ 1 ∧ g.lsb ≤ g.msb ∧ g.msb < 32) :
    f.sparedBy g = true :=
  Fld.sparedBy_of_reg_ne (fun e => hg.1 (e ▸ hf)) hg.2

namespace State.Leaves

variable {f : Fld} (hf : f.reg / 0x10000 = 1) {s0 s : State}

include hf

theorem event_of_block {code : Nat} {data : List Nat} (h : s0.Leaves f s) : s0.Leaves f (s.event code data) :=
  .event h (isCupStat_block (by omega))

theorem audit {code : Nat} {data : List Nat} (h : s0.Leaves f s) : s0.Leaves f (s.audit code data) := .updLeg (event_of_block hf h)

/-- A write of a field of another block. -/
theorem setFld_of_block {g : Fld} {v : Nat} (h : s0.Leaves f s) (hg : g.reg / 0x10000 ≠ 1 ∧ g.lsb ≤ g.msb ∧ g.msb < 32) :
    s0.Leaves f (s.setFld g v) := .setFld h (Fld.sparedBy_of_block hf hg)

theorem profEntry {c : Nat} {e : ProfEntry} (h : s0.Leaves f s) : s0.Leaves f (s.profEntry c e) :=
  .ite (.iff (setFld_of_block hf (g := LEG_ERR_OVW) (.updLeg h) (by decide)) fun h => event_of_block hf (.updLeg h)) (.updLeg h)

omit hf in
theorem openSub {flags : Nat} (h : s0.Leaves f s) : s0.Leaves f (s.openSub flags) := .each (.updLeg h) fun _ h => .updLeg h

theorem closeSub {tick cap flags : Nat} (h : s0.Leaves f s) : s0.Leaves f (s.closeSub tick cap flags) :=
  .ite h (.updLeg (.each h fun _ h => .updLeg (profEntry hf h)))

theorem gapSubs {tick n : Nat} (h : s0.Leaves f s) : s0.Leaves f (s.gapSubs tick n) := .each h fun _ h => .updLeg (profEntry hf h)

theorem closePeriod {at_ : Nat} (h : s0.Leaves f s) : s0.Leaves f (s.closePeriod at_) := by
  unfold State.closePeriod
  extract_lets l chans perRate b s1 s2
  have hclosed : s0.Leaves f s2 := audit hf (setFld_of_block hf (.updLeg (.updLeg h)) (by decide))
  clear_value s2
  split
  · exact hclosed
  · exact event_of_block hf (setFld_of_block hf (setFld_of_block hf (setFld_of_block hf (setFld_of_block hf (.updLeg hclosed)
      (by decide)) (by decide)) (by decide)) (by decide))

theorem hwmInit (h : s0.Leaves f s) : s0.Leaves f s.hwmInit := by
  unfold State.hwmInit
  split
  · exact h
  · exact setFld_of_block hf (.updLeg h) (by decide)

theorem takeBoundaries {now : Nat} (h : s0.Leaves f s) : s0.Leaves f (s.takeBoundaries now) := by
  unfold State.takeBoundaries
  extract_lets hwm
  split
  refine .ite h (.iff (.iff (.updLeg (.each h fun _ h => ?_)) (gapSubs hf)) openSub)
  extract_lets at_ s1 s2 s3 s4
  have hclosed : s0.Leaves f s2 := .iff (.iff h (closeSub hf)) (closePeriod hf)
  clear_value s2
  have hactive : s0.Leaves f s3 := by
    refine .ite ?_ hclosed
    split
    · exact setFld_of_block hf (.updLeg hclosed) (by decide)
    · exact hclosed
  clear_value s3
  refine .updLeg (show s0.Leaves f s4 from ?_)
  unfold s4
  split
  · exact .ite (audit hf (setFld_of_block hf hactive (by decide))) hactive
  · exact hactive

theorem reentered (h : s0.Leaves f s) : s0.Leaves f s.reentered :=
  .iff h fun h => audit hf (setFld_of_block hf (g := LEG_STATUS_REENTER) h (by decide))

theorem legSuspend (h : s0.Leaves f s) : s0.Leaves f s.legSuspend :=
  .ite (audit hf (setFld_of_block hf (g := LEG_STATUS_SUSPEND) h (by decide)))
    (.ite (audit hf (setFld_of_block hf (g := LEG_STATUS_SUSPEND) h (by decide))) h)

theorem legCommit (h : s0.Leaves f s) : s0.Leaves f s.legCommit :=
  setFld_of_block hf (g := LEG_MAXT_HI_T) (setFld_of_block hf (g := LEG_MAXT_LO_T) (setFld_of_block hf (g := LEG_HWM_HI_T)
    (setFld_of_block hf (g := LEG_HWM_LO_T) (.updLeg h) (by decide)) (by decide)) (by decide)) (by decide)

theorem legStep {old : Nat} (h : s0.Leaves f s) : s0.Leaves f (s.legStep old) :=
  have hclosed : s0.Leaves f ((s.closeSub old old (2 ^ fStep)).updLeg fun l =>
      { l with pFlags := l.pFlags ||| 2 ^ fStep, sessions := l.sessions.map fun x => { x with flags := x.flags ||| 2 ^ fStep } }) :=
    .updLeg (closeSub hf h)
  legCommit hf (legSuspend hf (.ite
    (openSub (reentered hf (audit hf (.iff hclosed fun h => takeBoundaries hf (hwmInit hf h)))))
    (openSub (audit hf (setFld_of_block hf (g := LEG_STATUS_REENTER) (.updLeg hclosed) (by decide))))))

end State.Leaves

end Sys2Proof.Machine
end

section
/-!
Corrections of the count at the SF tick: steps, slews, and the end of a slew (spec/02 R42, R43).
-/

namespace Sys2Proof.Machine

open Sys2Proof

/-! ### A step -/

/-- The correction is taken. -/
def State.corrTaken (s : State) : State := s.updTim fun t => { t with corr := none, corrDue := false }

/-- A slew that runs is given up. -/
def State.slewDropped (s : State) : State :=
  s.iff (s.flag TIME_STATUS_SLEWING) fun s =>
    ((s.setFlag TIME_STATUS_SLEWING false).updTim fun t => { t with slewLeft := 0 }).event 0x0104 []

/-- The count and the instants on it move by `c`. -/
def State.countStepped (s : State) (c : Int) : State :=
  let sh (o : Option Nat) : Option Nat := o.map fun n => ((n : Int) + c).toNat
  s.updTim fun t =>
    { t with count := ((t.count : Int) + c).toNat, lastPps := sh t.lastPps, edge := sh t.edge, floor := 0, ppsRose := none }

/-- The step is shown and told, and the SF is realigned. -/
def State.stepShown (s : State) (c : Int) : State :=
  (((s.setFldS TIME_LAST_STEP_STEP_MS (clampI (-0x7FFFFFFF) 0x7FFFFFFF (Int.tdiv c 1000000))).setFld TICK_PHASE_PHASE_NS
    (s.tim.count % ms)).event 0x0102 []).realign

/-- A step that GNSS confirmed takes the clock back to LOCKING. -/
def State.stepLocks (s : State) : State := s.iff s.tim.corrGnss fun s => (s.setClk 2).updTim fun t => { t with goodRun := 0, farRun := 0 }

/-- The state in which a step has moved the count, before what follows from it. -/
def State.stepMade (s : State) (c : Int) : State := s.corrTaken.slewDropped.countStepped c

theorem State.applyCorr_of_step {s : State} {c : Int} (h : s.stepLimit < (c.natAbs : Int)) :
    s.applyCorr c = ((s.stepMade c).stepShown c).stepLocks.fixNext := if_pos h

/-- What a step fixes of the clock's part. -/
def TimeSt.stepView (t : TimeSt) : Nat × Option Int := (t.count, t.corr)

theorem State.slewDropped_keeps (s : State) : s.Keeps s.slewDropped :=
  State.iff_keeps (.refl s) _ _ fun _ h => State.event_keeps (State.updTim_keeps (State.setFlag_keeps h _ _) _) _ _

theorem State.slewDropped_slewing {s : State} (hwf : s.wf = true) : s.slewDropped.flag TIME_STATUS_SLEWING = false := by
  rw [State.slewDropped, State.iff]
  split
  · have hkeep : (s.setFlag TIME_STATUS_SLEWING false).Leaves TIME_STATUS_SLEWING
        (((s.setFlag TIME_STATUS_SLEWING false).updTim fun t => { t with slewLeft := 0 }).event 0x0104 []) :=
      .event (.updTim (.refl _)) (by decide)
    rw [hkeep.flag_of (State.setFlag_wf hwf _ _)]
    exact (State.canon_of_wf hwf).flag_setFlag false rfl (by decide)
  · next h => exact Bool.eq_false_of_not_eq_true h

theorem State.slewDropped_of_slewing {s : State} (h : s.flag TIME_STATUS_SLEWING = true) :
    s.slewDropped = ((s.setFlag TIME_STATUS_SLEWING false).updTim fun t => { t with slewLeft := 0 }).event 0x0104 [] := if_pos h

theorem State.slewDropped_raised {s : State} (h : s.flag TIME_STATUS_SLEWING = true) : s.Raised s.slewDropped 0x0104 [] := by
  rw [State.slewDropped_of_slewing h]
  exact (State.event_raised _ _ _).after (State.updTim_keeps (State.setFlag_keeps (.refl s) _ _) _)

section Step

variable {s : State} (c : Int)

theorem State.countStepped_keeps : s.Keeps (s.countStepped c) := by
  unfold State.countStepped
  exact State.updTim_keeps (.refl s) _

theorem State.countStepped_stepView : (s.countStepped c).tim.stepView = (((s.tim.count : Int) + c).toNat, s.tim.corr) := rfl

theorem State.stepMade_keeps : s.Keeps (s.stepMade c) :=
  .trans (.trans (State.updTim_keeps (.refl s) _) s.corrTaken.slewDropped_keeps) (State.countStepped_keeps c)

theorem State.stepMade_stepView : (s.stepMade c).tim.stepView = (((s.tim.count : Int) + c).toNat, none) := by
  have hdrop : s.corrTaken.TimKeeps TimeSt.stepView s.corrTaken.slewDropped := .iff (.refl _) fun h => .event (.updTim h rfl)
  simp only [State.TimKeeps, TimeSt.stepView, Prod.mk.injEq] at hdrop
  rw [State.stepMade, State.countStepped_stepView, hdrop.1, hdrop.2]
  rfl

theorem State.stepMade_slewing (hwf : s.wf = true) : (s.stepMade c).flag TIME_STATUS_SLEWING = false :=
  State.slewDropped_slewing (s := s.corrTaken) hwf

/-- The flag that shows a slew stays as it is after a step. -/
theorem State.stepDone_leaves (old : Nat) :
    (s.stepMade c).Leaves TIME_STATUS_SLEWING (((s.stepMade c).stepShown c).stepLocks.fixNext.legStep old) :=
  have hshown : (s.stepMade c).Leaves TIME_STATUS_SLEWING ((s.stepMade c).stepShown c) :=
    .realign (.event (.setFld (.setFldS (.refl _) (by decide)) (by decide)) (by decide)) (by decide)
  .legStep (by decide) (.fixNext (.iff hshown fun h => .updTim (.setClk h (by decide) (by decide))))

theorem State.stepDone_timKeeps (old : Nat) :
    (s.stepMade c).TimKeeps TimeSt.stepView (((s.stepMade c).stepShown c).stepLocks.fixNext.legStep old) := by
  have hshown : (s.stepMade c).TimKeeps TimeSt.stepView ((s.stepMade c).stepShown c) :=
    .realign (.event (.setFld (.setFld (.refl _)))) rfl
  have hlocks : (s.stepMade c).TimKeeps TimeSt.stepView ((s.stepMade c).stepShown c).stepLocks :=
    .iff hshown fun h => .updTim (.setClk h rfl) rfl
  exact .of_only (.fixNext hlocks) (State.legStep_only (.refl _ _) rfl old)

theorem State.stepDone_raised (old : Nat) :
    (s.stepMade c).Raised (((s.stepMade c).stepShown c).stepLocks.fixNext.legStep old) 0x0102 [] :=
  ((State.event_raised _ _ _).then (State.legStep_keeps (State.fixNext_keeps (State.iff_keeps (State.realign_keeps (.refl _)) _ _
    fun _ h => State.updTim_keeps (State.setClk_keeps h _) _)) old)).after
    (State.setFld_keeps (State.setFldS_keeps (.refl _) _ _) _ _)

end Step

/-! ### A slew -/

/-- An increment is added, and `left` of the correction stays to be slewed. -/
def State.slewStep (s : State) (inc left : Int) : State :=
  let s := (s.advanceBy inc).updTim fun t => { t with slewLeft := left, slewTicked := true }
  s.setFld TICK_PHASE_PHASE_NS (s.tim.count % ms)

/-- A slew that did not run before is shown and told. -/
def State.slewTold (s : State) (was : Bool) : State := if was then s else (s.setFlag TIME_STATUS_SLEWING true).event 0x0103 []

theorem State.applyCorr_of_slew {s : State} {c : Int} (h : ¬s.stepLimit < (c.natAbs : Int)) :
    s.applyCorr c =
      ((s.corrTaken.slewStep (s.slewInc c) (c - s.slewInc c)).realign.slewTold (s.flag TIME_STATUS_SLEWING)).fixNext := if_neg h

/-- What a slew's increment fixes of the clock's part. -/
def TimeSt.slewView (t : TimeSt) : Nat × Int := (t.count, t.slewLeft)

section Slew

variable {s : State} (inc left : Int)

theorem State.slewStep_keeps : s.Keeps (s.slewStep inc left) :=
  State.setFld_keeps (State.updTim_keeps (State.advanceBy_keeps (.refl s) inc) _) _ _

theorem State.Leaves.slewStep {f : Fld} (hf : f.sparedBy TICK_PHASE_PHASE_NS = true) : s.Leaves f (s.slewStep inc left) :=
  .setFld (.updTim (.advanceBy (.refl s))) hf

theorem State.advanceBy_count : (s.advanceBy inc).tim.count = ((s.tim.count : Int) + inc).toNat := by
  rw [State.advanceBy, State.ppsRise, State.iff]
  split <;> rfl

theorem State.slewStep_slewView : (s.slewStep inc left).tim.slewView = (((s.tim.count : Int) + inc).toNat, left) :=
  congrArg (·, left) (State.advanceBy_count inc)

end Slew

/-! ### The commands -/

/-- Without a host's setting that waits there is none to take. -/
theorem State.updTim_setBy_none {s : State} (h : s.tim.setBy = none) : (s.updTim fun t => { t with setBy := none }) = s := by
  rw [State.updTim, ← h]

/-- A correction that is due and is no host's setting. -/
theorem execCorrectionApply_of_due {s : State} (hclk : s.clocked = true) {c : Int} (hcorr : s.tim.corr = some c)
    (hdue : s.tim.corrDue = true) (hset : s.tim.setBy = none) :
    exec .correctionApply s = .next ((if c = 0 then s.dropSlew else s.applyCorr c).iff (decide (s.stepLimit < (c.natAbs : Int)))
      (·.legStep s.tim.count)) := by
  change execCorrectionApply s = _
  simp only [execCorrectionApply, State.live_next hclk, hcorr, hdue, hset, Bool.not_true, Bool.false_eq_true, if_false,
    State.updTim_setBy_none hset]

theorem execSlewEnd_of_last {s : State} (hclk : s.clocked = true) (hslew : s.flag TIME_STATUS_SLEWING = true) (hcorr : s.tim.corr = none)
    (htick : s.tim.slewTicked = false) (hlast : (s.tim.slewLeft.natAbs : Int) ≤ s.slewMax) :
    exec .slewEnd s = .next ((((s.slewStep s.tim.slewLeft 0).setFlag TIME_STATUS_SLEWING false).event 0x0104 []).realign.fixNext) := by
  change execSlewEnd s = _
  rw [execSlewEnd, State.live_next hclk, decide_eq_true hlast, if_pos (by simp [hslew, hcorr, htick])]
  rfl

theorem State.stepLimit_nonneg (s : State) : 0 ≤ s.stepLimit := Int.natCast_nonneg _

/-- A correction beyond the limit steps the count. -/
theorem State.correction_steps {s : State} (hclk : s.clocked = true) {c : Int} (hcorr : s.tim.corr = some c)
    (hdue : s.tim.corrDue = true) (hset : s.tim.setBy = none) (hbig : s.stepLimit < (c.natAbs : Int)) :
    exec .correctionApply s = .next (((s.stepMade c).stepShown c).stepLocks.fixNext.legStep s.tim.count) := by
  have hne : c ≠ 0 := by
    rintro rfl
    exact absurd s.stepLimit_nonneg (Int.not_le.mpr hbig)
  rw [execCorrectionApply_of_due hclk hcorr hdue hset, if_neg hne, State.applyCorr_of_step hbig]
  exact congrArg _ (if_pos (decide_eq_true hbig))

/-- One within the limit starts or replaces a slew. -/
theorem State.correction_slews {s : State} (hclk : s.clocked = true) {c : Int} (hcorr : s.tim.corr = some c)
    (hdue : s.tim.corrDue = true) (hset : s.tim.setBy = none) (hsmall : (c.natAbs : Int) ≤ s.stepLimit) (hne : c ≠ 0) :
    exec .correctionApply s = .next (s.applyCorr c) := by
  rw [execCorrectionApply_of_due hclk hcorr hdue hset, if_neg hne]
  exact congrArg _ (if_neg (by simpa using hsmall))

/-- One of 0 ends it. -/
theorem State.correction_ends {s : State} (hclk : s.clocked = true) (hcorr : s.tim.corr = some 0)
    (hdue : s.tim.corrDue = true) (hset : s.tim.setBy = none) (hslew : s.flag TIME_STATUS_SLEWING = true) :
    exec .correctionApply s = .next s.corrTaken.slewDropped.fixNext := by
  have hnostep : ¬s.stepLimit < ((0 : Int).natAbs : Int) := Int.not_lt.mpr s.stepLimit_nonneg
  have hflag : s.corrTaken.flag TIME_STATUS_SLEWING = true := hslew
  rw [execCorrectionApply_of_due hclk hcorr hdue hset, if_pos rfl, decide_eq_false hnostep, State.slewDropped_of_slewing hflag]
  exact congrArg _ (if_pos hflag)

/-! ### What a slew's commands come to -/

section Outcome

variable {s : State}

/-- A slew that is given up leaves nothing to slew. -/
theorem State.slewDropped_tim (h : s.flag TIME_STATUS_SLEWING = true) :
    s.slewDropped.tim.slewView = (s.tim.count, 0) ∧ s.slewDropped.tim.corr = s.tim.corr := by
  rw [State.slewDropped_of_slewing h, State.event_tim]
  exact ⟨rfl, rfl⟩

theorem State.slewDropped_leaves {f : Fld} (hf : f.sparedBy TIME_STATUS_SLEWING = true) (hcup : isCupStat f.reg = false) :
    s.Leaves f s.slewDropped := .iff (.refl s) fun h => .event (.updTim (.setFlag h hf)) hcup

/-- What a correction within the limit fixes of the clock's part. -/
theorem State.applyCorr_slewView {c : Int} (hsmall : (c.natAbs : Int) ≤ s.stepLimit) :
    (s.applyCorr c).tim.slewView = (((s.tim.count : Int) + s.slewInc c).toNat, c - s.slewInc c) := by
  have hview := State.slewStep_slewView (s := s.corrTaken) (s.slewInc c) (c - s.slewInc c)
  rw [State.applyCorr_of_slew (Int.not_lt.mpr hsmall)]
  generalize s.corrTaken.slewStep (s.slewInc c) (c - s.slewInc c) = u at hview ⊢
  have hkeep : u.TimKeeps TimeSt.slewView (u.realign.slewTold (s.flag TIME_STATUS_SLEWING)).fixNext :=
    .fixNext (.ite (.realign (.refl u) rfl) (.event (.setFld (.realign (.refl u) rfl))))
  exact Eq.trans hkeep hview

theorem State.slewTold_slewing (hwf : s.wf = true) {was : Bool} (h : was = true → s.flag TIME_STATUS_SLEWING = true) :
    (s.slewTold was).flag TIME_STATUS_SLEWING = true := by
  cases was with
  | true => exact h rfl
  | false => exact State.flag_setFlag_event hwf TIME_STATUS_SLEWING true _ _ rfl (by decide) (by decide)

theorem State.applyCorr_slewing (hwf : s.wf = true) {c : Int} (hsmall : (c.natAbs : Int) ≤ s.stepLimit) :
    (s.applyCorr c).flag TIME_STATUS_SLEWING = true := by
  have hstep : s.Leaves TIME_STATUS_SLEWING (s.corrTaken.slewStep (s.slewInc c) (c - s.slewInc c)).realign :=
    .realign (.trans (.updTim (.refl s)) (.slewStep _ _ (by decide))) (by decide)
  rw [State.applyCorr_of_slew (Int.not_lt.mpr hsmall)]
  exact State.slewTold_slewing (hstep.keeps.wf hwf) ((hstep.flag_of hwf).trans ·)

theorem State.applyCorr_raised (hslew : s.flag TIME_STATUS_SLEWING = false) {c : Int} (hsmall : (c.natAbs : Int) ≤ s.stepLimit) :
    s.Raised (s.applyCorr c) 0x0103 [] := by
  rw [State.applyCorr_of_slew (Int.not_lt.mpr hsmall), hslew]
  exact ((State.event_raised _ _ _).then (State.fixNext_keeps (.refl _))).after
    (State.setFlag_keeps (State.realign_keeps (.trans (State.updTim_keeps (.refl s) _) (State.slewStep_keeps _ _))) _ _)

end Outcome

end Sys2Proof.Machine

open Sys2Proof Sys2Proof.Machine

/-- Settles O14: a step, the end of a slew by a correction of 0, a slew's first increment, and its last; E:0x0104 before E:0x0102 and no
second E:0x0103 are log entry 52 (DESIGN CHOICE). -/
theorem correctionsStepOrSlew : Obligations.CorrectionsStepOrSlew := by
  intro s hwf hclk
  refine ⟨fun c hcorr hdue hset hbig hcount => ?_, fun hcorr hdue hset hslew => ?_,
    fun c hcorr hdue hset hsmall hne hcount => ?_, fun hslew hcorr htick hlast hcount => ?_⟩
  · have hmade := (State.stepMade_keeps (s := s) c).wf hwf
    have hleft := State.stepDone_leaves (s := s) c s.tim.count
    have htim := Eq.trans (State.stepDone_timKeeps (s := s) c s.tim.count) (State.stepMade_stepView c)
    simp only [TimeSt.stepView, Prod.mk.injEq] at htim
    refine ⟨_, State.correction_steps hclk hcorr hdue hset hbig, ?_, ?_, htim.2, ?_, fun hslew => ?_⟩
    · rw [htim.1, Int.toNat_of_nonneg hcount]
    · rw [hleft.flag_of hmade, State.stepMade_slewing c hwf]
    · exact (State.stepDone_raised c _).after (State.stepMade_keeps c)
    · have hdrop : s.corrTaken.Raised s.corrTaken.slewDropped 0x0104 [] := State.slewDropped_raised hslew
      exact (hdrop.after (State.updTim_keeps (.refl s) _)).then (.trans (State.countStepped_keeps c) hleft.keeps)
  · have hflag : s.corrTaken.flag TIME_STATUS_SLEWING = true := hslew
    obtain ⟨hview, hcorr'⟩ := State.slewDropped_tim hflag
    have hdrop := (State.slewDropped_raised hflag).then (State.fixNext_keeps (.refl _))
    refine ⟨_, State.correction_ends hclk hcorr hdue hset hslew, congrArg Prod.fst hview,
      State.slewDropped_slewing (s := s.corrTaken) hwf, congrArg Prod.snd hview, hcorr',
      hdrop.after (State.updTim_keeps (.refl s) _), .of_leaves hwf fun o ho hcup => ?_⟩
    have hleft : s.corrTaken.Leaves (wordFld o) s.corrTaken.slewDropped :=
      State.slewDropped_leaves (Fld.sparedBy_of_reg_ne (mt List.mem_singleton.mpr ho) (by decide)) hcup
    exact .fixNext (.trans (.updTim (.refl s)) hleft)
  · have hview := State.applyCorr_slewView hsmall
    simp only [TimeSt.slewView, Prod.mk.injEq] at hview
    refine ⟨_, State.correction_slews hclk hcorr hdue hset hsmall hne, ?_, hview.2, State.applyCorr_slewing hwf hsmall,
      fun hslew => State.applyCorr_raised hslew hsmall⟩
    rw [hview.1, Int.toNat_of_nonneg hcount]
  · have hview := State.slewStep_slewView (s := s) s.tim.slewLeft 0
    have hkeeps := State.slewStep_keeps (s := s) s.tim.slewLeft 0
    have hwas : ∀ {f : Fld}, f.sparedBy TICK_PHASE_PHASE_NS = true → s.Leaves f (s.slewStep s.tim.slewLeft 0) := .slewStep _ _
    refine ⟨_, execSlewEnd_of_last hclk hslew hcorr htick hlast, ?_⟩
    generalize s.slewStep s.tim.slewLeft 0 = u at *
    have htim : u.TimKeeps TimeSt.slewView (((u.setFlag TIME_STATUS_SLEWING false).event 0x0104 []).realign.fixNext) :=
      .fixNext (.realign (.event (.setFld (.refl u))) rfl)
    have hends := Eq.trans htim hview
    simp only [TimeSt.slewView, Prod.mk.injEq] at hends
    have hshown : ((u.setFlag TIME_STATUS_SLEWING false).event 0x0104 []).Leaves TIME_STATUS_SLEWING
        (((u.setFlag TIME_STATUS_SLEWING false).event 0x0104 []).realign.fixNext) := .fixNext (.realign (.refl _) (by decide))
    refine ⟨?_, hends.2, ?_, ?_, .of_leaves hwf fun o ho hcup => ?_⟩
    · rw [hends.1, Int.toNat_of_nonneg hcount]
    · rw [hshown.flag_of (State.event_keeps (State.setFlag_keeps hkeeps _ _) _ _ |>.wf hwf)]
      exact State.flag_setFlag_event (hkeeps.wf hwf) TIME_STATUS_SLEWING false _ _ rfl (by decide) (by decide)
    · exact ((State.event_raised _ _ _).then hshown.keeps).after (State.setFlag_keeps hkeeps _ _)
    · simp only [List.mem_cons, List.not_mem_nil, or_false, not_or] at ho
      have hphase : s.Leaves (wordFld o) u := hwas (Fld.sparedBy_of_reg_ne ho.1 (by decide))
      exact .fixNext (.realign (.event (.setFlag hphase (Fld.sparedBy_of_reg_ne ho.2 (by decide))) hcup) hcup)
end

section
/-!
The PTP ports (spec/02 R45, R46).
-/

namespace Sys2Proof.Machine

open Sys2Proof

/-- A timer that is started afresh has counted nothing. -/
theorem State.elapsed_startTimer (s : State) (t : Timer) : (s.startTimer t).elapsed t = 0 := by
  have hnone : (s.timers.filter fun p => !(p.1 == t)).find? (fun p => p.1 == t) = none :=
    List.find?_eq_none.mpr fun p hp => by simpa using (List.mem_filter.mp hp).2
  simp [State.elapsed, State.startTimer, List.find?_append, hnone]

/-- Under the power profile the domain is 0. -/
theorem State.ptpDomain_eq (s : State) (p : Nat) :
    s.ptpDomain p = if s.ptpProfile p = 1 then 0 else s.fld (if p = 0 then PTP_CFG0_DOMAIN else PTP_CFG1_DOMAIN) :=
  if_congr beq_iff_eq rfl rfl

/-- Port `p` has sent its messages. -/
def State.ptpSend (s : State) (p : Nat) : State :=
  s.updTim fun t => { t with ptpSent := upd t.ptpSent p (· + 1), ptpLast := t.ptpLast.set p (some (s.ptpMsg p)) }

/-- With both ports grandmaster, both send. -/
theorem execPtpSyncAnnounce_of_due {s : State} (hclk : s.clocked = true) (hpd : s.pdGood 6 = true) (hports : s.tim.ptpPort = [1, 1])
    (hdue : s.timing .ptp = false ∨ s.due .ptp sec = true) :
    exec .ptpSyncAnnounce s = .next (((s.startTimer .ptp).ptpSend 0).ptpSend 1) := by
  have hnot : (s.timing .ptp && !s.due .ptp sec) = false := by rcases hdue with h | h <;> simp [h]
  have hfirst : (nth 0 s.tim.ptpPort 0 == 1 && s.pdGood 6) = true := by simp [hports, hpd, nth]
  have hsecond : (nth 0 s.tim.ptpPort 1 == 1 && s.pdGood 6) = true := by simp [hports, hpd, nth]
  have hsends : (s.startTimer .ptp).each (idx 2) (fun s p => if nth 0 s.tim.ptpPort p == 1 && s.pdGood 6 then s.ptpSend p else s) =
      ((s.startTimer .ptp).ptpSend 0).ptpSend 1 :=
    (congrArg (fun u : State => if nth 0 u.tim.ptpPort 1 == 1 && u.pdGood 6 then u.ptpSend 1 else u) (if_pos hfirst)).trans
      (if_pos hsecond)
  change execPtpSyncAnnounce s = _
  rw [execPtpSyncAnnounce, State.live_next hclk, if_neg (by simp [hnot]), ← hsends]
  rfl

end Sys2Proof.Machine

open Sys2Proof Sys2Proof.Machine

/-- Settles O15: the answer to a delay request, the messages of both ports, and no message before 1 s has passed. -/
theorem ptpPortsAnswerAndAnnounce : Obligations.PtpPortsAnswerAndAnnounce := by
  intro s hclk hpd
  refine ⟨fun p peer hport hpeer => ?_, fun hports hdue => ?_, fun htiming hdue => ?_⟩
  · change execPtpDelayRequest p peer s = _
    rw [execPtpDelayRequest, State.live_next hclk, if_pos (by simp [hport, hpd, hpeer]), State.ptpDomain_eq]
    simp only [Fin.val_eq_zero_iff]
  · have hexec := execPtpSyncAnnounce_of_due hclk hpd hports hdue
    obtain ⟨t, ht, honly⟩ := execPtpSyncAnnounce_only s
    obtain rfl := Host.Outcome.next.inj (ht.symm.trans hexec)
    refine ⟨_, hexec, rfl, rfl, rfl, by simp [State.ptpMsg], fun h => ?_, s.elapsed_startTimer .ptp,
      honly.toOnly _ fun p hp => partsMask_testBit_of_notMem hp⟩
    exact (State.ptpDomain_eq s 0).trans (if_pos h)
  · change execPtpSyncAnnounce s = _
    rw [execPtpSyncAnnounce, State.live_next hclk, if_pos (by simp [htiming, hdue])]
end

section
/-!
The count and the number of the SF at an SF tick (spec/02 R33): nothing that the tick does after the count has advanced changes them.
-/

namespace Sys2Proof.Machine

open Sys2Proof

/-- The count of legal time and the count of SFs. -/
def TimeSt.sfView (t : TimeSt) : Nat × Nat := (t.count, t.sfCount)

/-- The count of legal time and the count of SFs are the same in `s` and in `t`. -/
abbrev State.SfKept (s t : State) : Prop := s.TimKeeps TimeSt.sfView t

theorem State.TimKeeps.setReg {α : Type} {p : TimeSt → α} {s0 s : State} {off : Nat} {w : Word} (h : s0.TimKeeps p s) :
    s0.TimKeeps p (s.setReg off w) := h

namespace State.SfKept

variable {s0 s : State}

/-! ### The clock -/

theorem invalidPps (h : s0.SfKept s) : s0.SfKept s.invalidPps := .event (.iff (.updTim (.setFld h) rfl) (.setClk · rfl))

theorem sfEdge (h : s0.SfKept s) : s0.SfKept s.sfEdge := by
  unfold State.sfEdge
  split
  · exact .iff h invalidPps
  · exact h

theorem sfHold {len : Nat} (h : s0.SfKept s) : s0.SfKept (s.sfHold len) := .ite (.iff (.setFld (.updTim h rfl)) (.setClk · rfl)) h

theorem ptpRefresh (h : s0.SfKept s) : s0.SfKept s.ptpRefresh := .each h fun h => .ite h (.event (.updTim h rfl))

theorem overrun {kind core : Nat} {tell : Bool} (h : s0.SfKept s) : s0.SfKept (s.overrun kind core tell) :=
  .ite (.event (.updTim (.setFld h) rfl)) (.setFld h)

/-! ### The exchange tables -/

theorem unpublished {core table : Nat} (h : s0.SfKept s) : s0.SfKept (s.unpublished core table) := .iff h .event

theorem swap3 {c : Nat} {late : Bool} (h : s0.SfKept s) : s0.SfKept (s.swap3 c late) := by
  unfold State.swap3
  extract_lets s1 second s2
  have hlate : s0.SfKept s2 := .updTim h rfl
  exact .ite (.iff h fun h => .iff (unpublished h) id) (.ite (unpublished (overrun hlate)) hlate)

theorem exchangeSwap {late : List Bool} (h : s0.SfKept s) : s0.SfKept (s.exchangeSwap late) := by
  unfold State.exchangeSwap
  extract_lets l s1 s2 s3
  have hfirst : s0.SfKept s1 := .of_only h (State.swap1_only (State.swap0_only (State.swap0_only
    (State.fillBacks_only (.refl _ _) rfl) rfl _ _) rfl _ _) rfl _)
  have hsecond : s0.SfKept s2 := .of_only (swap3 (swap3 (.of_only hfirst (State.swap2_only (.refl _ _) rfl))))
    (State.swap4_only (.refl _ _) rfl _)
  exact .ite hsecond (unpublished hsecond)

theorem lateWork {late : List Bool} (h : s0.SfKept s) : s0.SfKept (s.lateWork late) := by
  have hswitch : ∀ {s : State}, s0.SfKept s → s0.SfKept (s.overrun 3 7 true) := overrun
  exact .iff (.iff h fun h => .iff (.iff (.iff h hswitch) overrun) overrun) overrun

/-! ### The twin -/

theorem twinRelease (h : s0.SfKept s) : s0.SfKept s.twinRelease :=
  .ite (.of_only (.each (ptpRefresh (.of_only (.iff (.event (.setFld h)) fun h => .of_only h (State.legPass_only (.refl _ _) rfl))
    (State.ringsNotHolder_only (.refl _ _) rfl))) fun h => .of_only h (State.twinQuiet_only (.refl _ _) rfl _))
    (State.twinRefresh_only (.refl _ _) rfl)) h

theorem twinTake {cmd : Bool} (h : s0.SfKept s) : s0.SfKept (s.twinTake cmd) := by
  unfold State.twinTake
  extract_lets s1 c s2 s3 s4 s5
  have htoken : s0.SfKept s2 := .event (.setFld (.setFld h))
  have hclock : s0.SfKept s3 := .iff htoken (.setClk · rfl)
  have hlinks : s0.SfKept s4 := .each hclock fun h => h
  have hmirror : s0.SfKept s5 := ?_
  · exact .of_only (ptpRefresh hmirror) (State.twinRefresh_only (.refl s5.ptpRefresh _) rfl)
  unfold s5
  split
  · exact hlinks
  · exact .each (.each hlinks fun h => .of_only h (State.twinMove_only (State.setReg_only (.refl _ _) rfl _ _) rfl _))
      fun h => .of_only h (State.twinOut_only (.refl _ _) rfl _ _ _ _)

theorem twinTick (h : s0.SfKept s) : s0.SfKept s.twinTick := by
  unfold State.twinTick
  extract_lets s1 s2 s3 s4
  have hrecord : s0.SfKept s1 := h
  refine .ite (.of_only hrecord (State.twinRefresh_only (State.updTwin_only (.refl _ _) rfl _) rfl)) (.ite ?_ ?_)
  · split
    · exact .of_only (twinRelease hrecord) (State.twinRefresh_only (State.updTwin_only (.refl _ _) rfl _) rfl)
    · exact .of_only hrecord (State.twinRefresh_only (State.updTwin_only (.refl _ _) rfl _) rfl)
  · have hpairs : s0.SfKept s2 := .iff hrecord fun h => .each h fun h => by
      unfold State.onPair
      split
      · exact .of_only h (State.pairOffNow_only (.refl _ _) rfl _)
      · exact h
    have hmissed : s0.SfKept s3 := .iff hpairs id
    have htimed : s0.SfKept s4 := hmissed
    clear_value s4
    have htaken : s0.SfKept (s4.iff (s4.twin.passing == 2) (·.twinTake true)) := .iff htimed twinTake
    exact .of_only htaken (State.twinRefresh_only (.refl _ _) rfl)

/-! ### A core that halts -/

theorem beginStart {cause : Nat} (h : s0.SfKept s) : s0.SfKept (s.beginStart cause) := by
  unfold State.beginStart
  extract_lets s1 s2 s3 s4 s5 s6 s7 s8 s9 s10 s11 s12 s13 s14
  have hreleased : s0.SfKept s1 := .iff h fun h => twinRelease (.iff h id)
  clear_value s1
  have hisl : s0.SfKept s2 := hreleased
  clear_value s2
  have hmode : s0.SfKept (s2.setMode 0) := .of_only hisl (State.setMode_only (.refl _ _) rfl _)
  have hdomains : s0.SfKept ((s2.setMode 0).pdSet 1) := .of_only hmode (State.pdSet_only (.refl _ _) rfl _)
  have hcores : s0.SfKept s3 := .setReg (.setFld hdomains)
  clear_value s3
  have hpause : s0.SfKept s4 := .setFld (.setFld (.setFld hcores))
  clear_value s4
  have hsupply : s0.SfKept s5 := .setFld (.setFld (.setFld hpause))
  clear_value s5
  have hbench : s0.SfKept s6 := .setFld (.setReg (.setFld (.setFld hsupply)))
  clear_value s6
  have hfronts : s0.SfKept s7 := .each hbench fun h => .of_only h (State.updMf_only (State.setFlag_only (.refl _ _) rfl _ _) rfl _ _)
  clear_value s7
  have houts : s0.SfKept s8 := .each hfronts fun h => .of_only h (State.updMo_only (State.setFlag_only (.refl _ _) rfl _ _) rfl _ _)
  clear_value s8
  have hsys : s0.SfKept s10 := .of_only houts (State.updTwin_only (State.updSys_only (.refl _ _) rfl _) rfl _)
  clear_value s10
  have hbanks : s0.SfKept s11 := .each hsys fun h => .iff h .setFld
  clear_value s11
  have hroles : s0.SfKept s13 := hbanks
  clear_value s13
  have hstate : s0.SfKept s14 := .setFld (.setFld (.setFld hroles))
  exact .of_only hstate (State.roleStat_only (.refl s14 _) rfl)

theorem trialFail (h : s0.SfKept s) : s0.SfKept s.trialFail :=
  have hmarked : s0.SfKept s.markFailed := .of_only h (State.markFailed_only (.refl _ _) rfl)
  .ite (.ite (beginStart hmarked) hmarked) h

theorem haltCore {i : Nat} (h : s0.SfKept s) : s0.SfKept (s.haltCore i) :=
  .ite h (trialFail (.iff (.event (.setFld h)) fun h => .of_only h (State.ceHalt_only (.refl _ _) rfl _)))

theorem trapCore {core m addr : Nat} (h : s0.SfKept s) : s0.SfKept (s.trapCore core m addr) := .ite h (haltCore (.event h))

/-! ### The services and the Island -/

theorem copyLost {i addr : Nat} (h : s0.SfKept s) : s0.SfKept (s.copyLost i addr) := .ite (trapCore (.setFld h)) (.event h)

theorem memTick {bad unwr : List (Nat × Nat)} (h : s0.SfKept s) : s0.SfKept (s.memTick bad unwr) := by
  unfold State.memTick
  extract_lets s1 s2 s3 s4
  have hpace : s0.SfKept s2 := .iff h fun h => .each h id
  have hwindow : s0.SfKept s3 := .each hpace fun h => .iff h fun h => .of_only h (State.backAll_only (.refl _ _) rfl _)
  have hcopies : s0.SfKept s4 := .each (.of_only hwindow (State.copiesTick_only (.refl _ _) rfl)) fun h => .iff h copyLost
  refine .each hcopies fun h => ?_
  split
  · exact h
  · exact .event (.setFld h)

theorem islScrub {unc : Bool} (h : s0.SfKept s) : s0.SfKept (s.islScrub unc) :=
  .ite (haltCore (.of_only (.event h) (State.faultSafe_only (.refl _ _) rfl _)))
    (.of_only (.event h) (State.faultSeen_only (.refl _ _) rfl _))

theorem sfIsland {inp : SfIn} (h : s0.SfKept s) : s0.SfKept (s.sfIsland inp) := by
  have hpaths : s0.SfKept (((s.mirror).pathCompare).candTick) :=
    .of_only h (State.candTick_only (State.pathCompare_only (State.mirror_only (.refl _ _) rfl) rfl) rfl)
  refine .ite ?_ h
  split
  · exact .of_only hpaths (State.safetyCycle_only (.refl _ _) rfl _)
  · exact .iff (islScrub hpaths) fun h => .of_only h (State.safetyCycle_only (.refl _ _) rfl _)

end State.SfKept

/-! ### The tick -/

theorem State.SfKept.sfServices {s0 s : State} {inp : SfIn} (h : s0.SfKept s) : s0.SfKept (s.sfServices inp) := by
  unfold State.sfServices
  extract_lets s1 s2 s3 s4 s5 s6
  have hmet : s0.SfKept s1 := .of_only h (State.metTick_only (State.setFlag_only (.refl _ _) rfl _ _) rfl _ _)
  clear_value s1
  have hlegal : s0.SfKept (s1.iff (s1.metOn && s1.pdGood 2) (·.legTick)) :=
    .iff hmet fun h => .of_only h (State.legTick_only (.refl _ _) rfl)
  have htwin : s0.SfKept s2 := .of_only (twinTick hlegal) (State.hostSf_only (.refl _ _) rfl)
  clear_value s2
  have hports : s0.SfKept s3 := .iff (.of_only htwin (State.portTick_only (State.railsDown_only (.refl _ _) rfl) rfl))
    fun h => .of_only h (State.chkTick_only (.refl _ _) rfl)
  clear_value s3
  have hpanels : s0.SfKept s4 := by
    refine .of_only (.iff hports fun {u} h => ?_) (State.mlTick_only (.refl (s3.iff _ _) _) rfl)
    exact .of_only h (State.pd8Tick_only (State.restTick_only (State.panelSf_only (State.dropB_only (.refl _ _) rfl) rfl _) rfl) rfl)
  clear_value s4
  have hmems : s0.SfKept s5 := .of_only (memTick hpanels) (State.updTag_only (State.updPs_only (.refl _ _) rfl _) rfl _)
  clear_value s5
  have hkeys : s0.SfKept s6 := .of_only hmems (State.updKeys_only (.refl _ _) rfl _)
  clear_value s6
  exact .of_only (.iff hkeys fun h => .of_only h (State.tagKey_only (.refl _ _) rfl)) (State.mirrorTake_only (.refl (s6.iff _ _) _) rfl)

/-- What the tick does in every mode but FROZEN once the count has advanced. -/
def State.sfWork (s : State) (inp : SfIn) : State :=
  let s := (((s.zoneTick inp.zones).linksSf).linksCf).exchangeSwap inp.late
  let s := (s.updPs fun p => { p with sent := false }).lateWork inp.late
  let s := ((s.railRegs inp).allocTakeover).sfControl inp
  ((s.sfServices inp).freezeTick).sfIsland inp

theorem State.SfKept.sfWork {s0 s : State} {inp : SfIn} (h : s0.SfKept s) : s0.SfKept (s.sfWork inp) := by
  unfold State.sfWork
  extract_lets s1 s2 s3
  have htables : s0.SfKept s1 :=
    exchangeSwap (.of_only h (State.linksCf_only (State.linksSf_only (State.zoneTick_only (.refl _ _) rfl _) rfl) rfl))
  clear_value s1
  have hlate : s0.SfKept s2 := lateWork (.of_only htables (State.updPs_only (.refl _ _) rfl _))
  clear_value s2
  have hcontrol : s0.SfKept s3 := .of_only hlate
    (State.sfControl_only (State.allocTakeover_only (State.railRegs_only (.refl _ _) rfl _) rfl) rfl _)
  clear_value s3
  exact sfIsland (.of_only (sfServices hcontrol) (State.freezeTick_only (.refl _ _) rfl))

/-- The slew increment that the tick adds. -/
def State.sfInc (s : State) : Int :=
  if s.flag TIME_STATUS_SLEWING && s.tim.corr.isNone && decide (s.slewMax < (s.tim.slewLeft.natAbs : Int)) then
    s.slewInc s.tim.slewLeft
  else 0

section Tick

variable {s : State}

theorem State.sfTickTime_sfView :
    s.sfTickTime.tim.sfView = (s.tim.count + ((s.tim.sfLen : Int) + s.sfInc).toNat, s.tim.sfCount + 1) := by
  have hkept : (s.sfAdvance s.sfInc).SfKept s.sfTickTime :=
    .fixNext (State.SfKept.sfEdge (State.SfKept.sfHold (.realign (.updTim (.setFld (.ppsRise (.refl _) rfl)) rfl) rfl)))
  exact hkept

theorem State.Leaves.sfTickTime {f : Fld} (hf : clockStateFlds.all f.sparedBy = true)
    (htick : f.sparedBy TICK_PHASE_PHASE_NS = true) (hok : f.sparedBy TIME_STATUS_GNSS_OK = true)
    (hhold : f.sparedBy TIME_HOLD_ERR_ERR_NS = true) (hcup : isCupStat f.reg = false) : s.Leaves f s.sfTickTime := by
  have hcount : s.Leaves f (s.sfAdvance s.sfInc) := .same_regs (.refl s) (State.sfAdvance_keeps (.refl s) _) rfl
  have hedge : ∀ {u : State}, s.Leaves f u → s.Leaves f u.sfEdge := fun {u} h => by
    unfold State.sfEdge
    split
    · exact .iff h fun h => .event (.badPps h hf hok hcup) hcup
    · exact h
  have hholdover : ∀ {u : State} {len : Nat}, s.Leaves f u → s.Leaves f (u.sfHold len) := fun h =>
    .ite (.iff (.setSat (.updTim h) hhold) fun h => .setClk h hf hcup) h
  exact .fixNext (hedge (hholdover (.realign (.updTim (.setFld (.ppsRise hcount) htick)) hcup)))

end Tick

/-- The SF tick in FROZEN. -/
theorem execSfTick_of_frozen {s : State} {inp : SfIn} (hpd : s.pdOn 0 = true) (hmode : s.mode = 6) :
    exec (.sfTick inp) s = .next ((s.updTim fun t => { t with edge := none }).sfTickTime).railsDown := by
  change execSfTick inp s = _
  rw [execSfTick, if_neg (by simp [hpd]), if_pos hmode]

/-- The SF tick in every other mode. -/
theorem execSfTick_of_not_frozen {s : State} {inp : SfIn} (hpd : s.pdOn 0 = true) (hmode : s.mode ≠ 6) :
    exec (.sfTick inp) s =
      .next ((((s.each inp.access (·.access ·)).updTim fun t => { t with zcNow := nth 0 inp.zones 2 }).sfTickTime).sfWork inp) := by
  change execSfTick inp s = _
  rw [execSfTick, if_neg (by simp [hpd]), if_neg hmode]
  rfl

/-- In every mode the tick counts one SF. -/
theorem execSfTick_sfCount {s : State} {inp : SfIn} (hpd : s.pdOn 0 = true) :
    ∃ t, exec (.sfTick inp) s = .next t ∧ t.tim.sfCount = s.tim.sfCount + 1 := by
  by_cases hmode : s.mode = 6
  · have hrails := State.railsDown_only (.refl ((s.updTim fun t => { t with edge := none }).sfTickTime) noTim) rfl
    have hview := Eq.trans (State.TimKeeps.of_only (p := TimeSt.sfView) (.refl _) hrails) State.sfTickTime_sfView
    exact ⟨_, execSfTick_of_frozen hpd hmode, congrArg Prod.snd hview⟩
  · have haccess : s.SfKept (s.each inp.access (·.access ·)) :=
      .of_only (.refl s) (State.each_only (.refl s _) _ _ fun _ _ h => State.access_only h rfl _)
    refine ⟨_, execSfTick_of_not_frozen hpd hmode, ?_⟩
    generalize s.each inp.access (·.access ·) = u at haccess
    have hview := Eq.trans (State.SfKept.sfWork (inp := inp) (.refl _))
      (State.sfTickTime_sfView (s := u.updTim fun t => { t with zcNow := nth 0 inp.zones 2 }))
    have hcount : u.tim.sfCount = s.tim.sfCount := congrArg Prod.snd haccess
    exact (congrArg Prod.snd hview).trans (congrArg (· + 1) hcount)

end Sys2Proof.Machine
end

section
/-!
The CF tick (spec/02 R28): every link awaits a frame of the new CF.
-/

namespace Sys2Proof.Machine

open Sys2Proof

/-- Every part of the state but the links' own, as a mask. -/
def noLinks : Nat := 0x7FFFEFF

/-- No link's frame of this CF is judged, and none has come. -/
def State.Unjudged (s : State) : Prop := ∀ l ∈ s.links, l.judged = false ∧ l.valid = false

namespace State.Unjudged

variable {s : State}

theorem lk (h : s.Unjudged) (n : Nat) : (s.lk n).judged = false ∧ (s.lk n).valid = false := by
  rw [State.lk, nth, List.getD_eq_getElem?_getD]
  rcases hn : s.links[n]? with _ | l
  · exact ⟨rfl, rfl⟩
  · exact h l (List.mem_of_getElem? hn)

/-- What changes no link. -/
theorem of_only {t : State} (h : s.Unjudged) (k : s.OnlyM noLinks t) : t.Unjudged := by
  rw [State.Unjudged, show t.links = s.links from k.same .links rfl]
  exact h

/-- What changes a link leaves what it awaits. -/
theorem updLk {n : Nat} {f : LinkSt → LinkSt} (h : s.Unjudged)
    (hf : ∀ {l}, (f l).judged = l.judged ∧ (f l).valid = l.valid) : (s.updLk n f).Unjudged := by
  intro l hl
  obtain ⟨i, hi⟩ := List.mem_iff_getElem?.mp hl
  rw [State.updLk, upd, List.getElem?_modify] at hi
  obtain ⟨l', hl', rfl⟩ := Option.map_eq_some_iff.mp hi
  obtain ⟨hjudged, hvalid⟩ := h l' (List.mem_of_getElem? hl')
  split
  · exact ⟨hf.1.trans hjudged, hf.2.trans hvalid⟩
  · exact ⟨hjudged, hvalid⟩

theorem ite {c : Prop} [Decidable c] {a b : State} (ha : a.Unjudged) (hb : b.Unjudged) : (if c then a else b).Unjudged := by
  split
  · exact ha
  · exact hb

theorem iff {c : Bool} {g : State → State} (h : s.Unjudged) (hg : ∀ {s : State}, s.Unjudged → (g s).Unjudged) :
    (s.iff c g).Unjudged := ite (hg h) h

theorem each {α : Type} {l : List α} {g : State → α → State} (h : s.Unjudged)
    (hg : ∀ {s : State} {a}, s.Unjudged → (g s a).Unjudged) : (s.each l g).Unjudged :=
  List.foldlRecOn l g h fun _ h _ _ => hg h

theorem sendCmd {n cmd arg : Nat} (h : s.Unjudged) : (s.sendCmd n cmd arg).Unjudged :=
  ite h (ite (updLk h ⟨rfl, rfl⟩) (ite h (updLk h ⟨rfl, rfl⟩)))

theorem moveAbandon {n : Nat} {ended : Bool} (h : s.Unjudged) : (s.moveAbandon n ended).Unjudged := by
  unfold State.moveAbandon
  extract_lets st s1 s2 home s3
  have hresume : s1.Unjudged := of_only h (State.updMv_only (.refl _ _) rfl _ _)
  have htold : s2.Unjudged :=
    of_only hresume (State.event_only (State.stopTimer_only (State.showStep_only (.refl _ _) rfl _ _ _) rfl _) rfl _ _)
  have hhome : s3.Unjudged := of_only htold (State.updMv_only (.refl _ _) rfl _ _)
  exact ite (of_only hresume (State.updMv_only (.refl _ _) rfl _ _))
    (ite (of_only htold (State.updMv_only (State.updBl_only (.refl _ _) rfl _ _) rfl _ _)) (iff hhome sendCmd))

theorem leaveService {n : Nat} (h : s.Unjudged) : (s.leaveService n).Unjudged := by
  refine moveAbandon ?_
  split
  · exact of_only h (State.dropK1_only (.refl _ _) rfl _ _)
  · exact h

theorem toTrain {n : Nat} (h : s.Unjudged) : (s.toTrain n).Unjudged := by
  refine of_only ?_ (State.startTimer_only (.refl _ _) rfl (.train n))
  exact updLk (of_only h (State.setLst_only (.refl _ _) rfl _ _)) ⟨rfl, rfl⟩

theorem retrainNow {n : Nat} (h : s.Unjudged) : (s.retrainNow n).Unjudged := iff (toTrain h) leaveService

theorem linkSend {n : Nat} (h : s.Unjudged) : (s.linkSend n).Unjudged := 
  ite h (updLk (iff h fun h => of_only h (State.setLinkBit_only (.refl _ _) rfl _ _ _ _)) ⟨rfl, rfl⟩)

theorem drainDone {n : Nat} (h : s.Unjudged) : (s.drainDone n).Unjudged := iff h retrainNow

theorem closeStep {n : Nat} (h : s.Unjudged) : (s.closeStep n).Unjudged := ite (sendCmd h) h

end State.Unjudged

/-- The tick clears what the frames of the last CF have left. -/
theorem State.linksCf_unjudged (s : State) : s.linksCf.Unjudged := by
  unfold State.linksCf
  extract_lets c s1 s2
  have hnew : s1.Unjudged := fun l hl => by
    obtain ⟨l', -, rfl⟩ := List.mem_map.mp hl
    exact ⟨rfl, rfl⟩
  have hdrained : s2.Unjudged := .each (.each hnew .linkSend) .drainDone
  exact .each hdrained .closeStep

/-- The next CF of the SF begins. -/
def State.nextCf (s : State) : State := s.updTim fun t => { t with cfIndex := t.cfIndex + 1, sub := 0 }

/-- The CF tick before the last regular CF of the SF. -/
theorem execCfTick_of_regular {s : State} (hclk : s.clocked = true) (h : (s.tim.cfIndex + 1) * cfNs s.tim.cfSel < ms) :
    exec .cfTick s = .next s.nextCf.linksCf.benchCf := by
  change execCfTick s = _
  rw [execCfTick, State.live_next hclk, if_pos h]
  rfl

/-- Any other CF tick. -/
theorem execCfTick_of_added {s : State} (hclk : s.clocked = true) (h : ms ≤ (s.tim.cfIndex + 1) * cfNs s.tim.cfSel) :
    exec .cfTick s = .next s := by
  change execCfTick s = _
  rw [execCfTick, State.live_next hclk, if_neg (Nat.not_lt.mpr h)]

/-! ### FROZEN -/

/-- The SF tick in FROZEN: legal time goes on, and the rails finish their power-down. -/
def State.frozenTick (s : State) : State := ((s.updTim fun t => { t with edge := none }).sfTickTime).railsDown

section Frozen

variable {s : State}

theorem State.frozenTick_only : s.OnlyM (partsMask [.regs, .log, .timers, .tim, .linkc, .ces, .pnl]) s.frozenTick :=
  State.railsDown_only (State.sfTickTime_only (State.updTim_only (.refl s _) rfl _) rfl) rfl

theorem State.frozenTick_count (hslew : s.flag TIME_STATUS_SLEWING = false) : s.frozenTick.tim.count = s.tim.count + s.tim.sfLen := by
  have hrails := State.railsDown_only (.refl ((s.updTim fun t => { t with edge := none }).sfTickTime) noTim) rfl
  have hview := Eq.trans (State.TimKeeps.of_only (p := TimeSt.sfView) (.refl _) hrails) State.sfTickTime_sfView
  have hinc : (s.updTim fun t => { t with edge := none }).sfInc = 0 := if_neg (by simp [State.updTim_flag, hslew])
  rw [hinc, Int.add_zero, Int.toNat_natCast] at hview
  exact congrArg Prod.fst hview

theorem State.frozenTick_mode (hwf : s.wf = true) : s.frozenTick.mode = s.mode := by
  have htick : s.Leaves GLB_MODE_MODE ((s.updTim fun t => { t with edge := none }).sfTickTime) :=
    .trans (.updTim (.refl s)) (.sfTickTime (by decide) (by decide) (by decide) (by decide) (by decide))
  have hrails : s.frozenTick.regs = ((s.updTim fun t => { t with edge := none }).sfTickTime).regs :=
    (State.railsDown_only (.refl _ 262144) rfl).same .regs rfl
  exact (State.fld_congr hrails GLB_MODE_MODE).trans (htick.fld_of hwf)

end Frozen

end Sys2Proof.Machine

open Sys2Proof Sys2Proof.Machine

/-- Settles O33: the CF ticks of the regular CFs and of the added time, the count of SFs in every mode, and the SF tick in FROZEN. -/
theorem frameTicks : Obligations.FrameTicks := by
  intro s hwf
  refine ⟨fun hclk hcf => ?_, fun hclk hcf => execCfTick_of_added hclk hcf, fun inp hpd => execSfTick_sfCount hpd,
    fun inp hpd hmode hslew => ?_⟩
  · have htim : s.nextCf.linksCf.benchCf.tim = s.nextCf.tim :=
      State.TimKeeps.of_only (p := id) (.refl _) (State.benchCf_only (State.linksCf_only (.refl _ _) rfl) rfl)
    have hlinks : s.nextCf.linksCf.benchCf.Unjudged := s.nextCf.linksCf_unjudged.of_only (State.benchCf_only (.refl _ _) rfl)
    refine ⟨_, execCfTick_of_regular hclk hcf, ?_, ?_, ?_, fun n _ => hlinks.lk n⟩ <;> rw [htim] <;> rfl
  · have hsame : ∀ p, p ∉ [Part.regs, .log, .timers, .tim, .linkc, .ces, .pnl] → s.Same s.frozenTick p :=
      State.frozenTick_only.toOnly _ fun _ => partsMask_testBit_of_notMem
    refine ⟨_, execSfTick_of_frozen hpd hmode, State.frozenTick_count hslew, (State.frozenTick_mode hwf).trans hmode,
      hsame .links ?_, hsame .veh ?_, hsame .isl ?_, hsame .met ?_, hsame .keys ?_, hsame .ps ?_⟩ <;> decide
end

section
/-!
What a compute window's work leaves alone of a control engine and of the registers (spec/04 R81, R88): `q` reads the engine, and `f`
is a field of a register.
-/

namespace Sys2Proof.Machine

open Sys2Proof

/-- What `q` reads and the field `f` are none of what the windows' work on lanes, buffers, links and memories writes. -/
structure WindowView {α : Type} (q : CeSt → α) (f : Fld) : Prop where
  cups : ∀ {e : CeSt} {x}, q { e with cups := x } = q e
  blocks : ∀ {e : CeSt} {x}, q { e with blocks := x } = q e
  outs : ∀ {e : CeSt} {x}, q { e with outs := x } = q e
  told : ∀ {e : CeSt} {x}, q { e with told316 := x } = q e
  cup : isCupStat f.reg = false
  link : f.reg / 0x10000 ≠ 2
  mem : f.reg / 0x10000 ≠ 15

/-- From `s` to `t` field `f` of a canonical state stays, and what `q` reads of each engine. -/
structure State.CeKeeps {α : Type} (s : State) (q : CeSt → α) (f : Fld) (t : State) : Prop where
  leaves : s.Leaves f t
  ce : ∀ c, q (t.ce c) = q (s.ce c)

/-- Every part of the state but the registers and the engines, as a mask. -/
def noRegsCes : Nat := 0x7FFFBFD

/-- A change that `q` does not see leaves what `q` reads of every entry. -/
theorem nth_upd_view {α β : Type} {q : α → β} {g : α → α} (hg : ∀ {a}, q (g a) = q a) (d : α) (l : List α) (i j : Nat) :
    q (nth d (upd l i g) j) = q (nth d l j) := by
  simp only [nth, upd, List.getD_eq_getElem?_getD, List.getElem?_modify]
  cases l[j]? with
  | none => rfl
  | some a =>
    simp only [Option.getD_some]
    split
    · exact hg
    · rfl

theorem isCupStat_of_mem_allCups {p : Nat × Nat} (h : p ∈ allCups) : isCupStat (R_CUP_STAT p.1 p.2) = true :=
  List.contains_iff_mem.mpr (List.mem_map_of_mem h)

theorem ne_cupStat {o : Nat} (h : isCupStat o = false) {p : Nat × Nat} (hp : p ∈ allCups) : o ≠ R_CUP_STAT p.1 p.2 := by
  rintro rfl
  exact absurd (isCupStat_of_mem_allCups hp) (by simp [h])

/-- The field lies in no buffer's status register. -/
theorem WindowView.spared_cup {α : Type} {q : CeSt → α} {f : Fld} (hv : WindowView q f) {p : Nat × Nat} (hp : p ∈ allCups) :
    f.sparedBy (CUP_STAT_STATE p.1 p.2) = true := Fld.sparedBy_of_reg_ne (ne_cupStat hv.cup hp) (by simp)

namespace State.CeKeeps

variable {α : Type} {q : CeSt → α} {f : Fld} {s0 s : State}

theorem refl (s : State) : s.CeKeeps q f s := ⟨.refl s, fun _ => rfl⟩

/-- An operation whose law says that it changes neither registers nor engines. -/
theorem of_only {t : State} (h : s0.CeKeeps q f s) (k : s.Keeps t) (m : s.OnlyM noRegsCes t) : s0.CeKeeps q f t :=
  ⟨h.leaves.same_regs k (m.same .regs rfl), fun c => by
    rw [State.ce, show t.ces = s.ces from m.same .ces rfl]
    exact h.ce c⟩

/-- An operation on the registers alone. -/
theorem of_leaves {t : State} (h : s0.CeKeeps q f s) (k : s.Leaves f t) (hces : t.ces = s.ces) : s0.CeKeeps q f t :=
  ⟨h.leaves.trans k, fun c => by
    rw [State.ce, hces]
    exact h.ce c⟩

theorem updCe {c : Nat} {g : CeSt → CeSt} (h : s0.CeKeeps q f s) (hg : ∀ {e}, q (g e) = q e) :
    s0.CeKeeps q f (s.updCe c g) :=
  ⟨h.leaves.same_regs (State.updCe_keeps (.refl s) c g) rfl, fun c' => (nth_upd_view hg _ _ _ _).trans (h.ce c')⟩

theorem setFld {g : Fld} {v : Nat} (h : s0.CeKeeps q f s) (hg : f.sparedBy g = true) : s0.CeKeeps q f (s.setFld g v) :=
  h.of_leaves (.setFld (.refl s) hg) rfl

theorem setReg {off : Nat} {v : Word} (h : s0.CeKeeps q f s) (hoff : f.reg ≠ off) : s0.CeKeeps q f (s.setReg off v) :=
  h.of_leaves (.setReg (.refl s) hoff) rfl

theorem updLk {n : Nat} {g : LinkSt → LinkSt} (h : s0.CeKeeps q f s) : s0.CeKeeps q f (s.updLk n g) :=
  h.of_only (State.updLk_keeps (.refl s) n g) (State.updLk_only (.refl s _) rfl n g)

theorem ite {c : Prop} [Decidable c] {a b : State} (ha : s0.CeKeeps q f a) (hb : s0.CeKeeps q f b) :
    s0.CeKeeps q f (if c then a else b) := by
  split
  · exact ha
  · exact hb

theorem iff {c : Bool} {g : State → State} (h : s0.CeKeeps q f s) (hg : ∀ {s}, s0.CeKeeps q f s → s0.CeKeeps q f (g s)) :
    s0.CeKeeps q f (s.iff c g) := ite (hg h) h

theorem each {β : Type} {l : List β} {g : State → β → State} (h : s0.CeKeeps q f s)
    (hg : ∀ {s a}, a ∈ l → s0.CeKeeps q f s → s0.CeKeeps q f (g s a)) : s0.CeKeeps q f (s.each l g) :=
  List.foldlRecOn l g h fun _ h _ ha => hg ha h

theorem logEvent {code : Nat} {data : List Nat} (h : s0.CeKeeps q f s) : s0.CeKeeps q f (s.logEvent code data) :=
  h.of_only (State.logEvent_keeps (.refl s) _ _) (State.logEvent_only (.refl s _) rfl _ _)

section Work

variable (hv : WindowView q f)

include hv

/-! ### Events and cupping buffers -/

theorem updCup {c b : Nat} {g : CupBuf → CupBuf} (h : s0.CeKeeps q f s) : s0.CeKeeps q f (s.updCup c b g) :=
  h.updCe hv.cups

theorem cupStart {p : Nat × Nat} (h : s0.CeKeeps q f s) (hp : p ∈ allCups) : s0.CeKeeps q f (s.cupStart p.1 p.2) :=
  updCup hv (.setFld h (hv.spared_cup hp))

theorem eventN {code : Nat} {data : List Nat} {n : Nat} (h : s0.CeKeeps q f s) : s0.CeKeeps q f (State.eventN n s code data) := by
  induction n generalizing s code data with
  | zero => exact .logEvent h
  | succ n ih => exact .each (.logEvent h) fun _ h => .each h fun hp h => ih (cupStart hv h (State.mem_allCups_of_cupGroup hp))

theorem event {code : Nat} {data : List Nat} (h : s0.CeKeeps q f s) : s0.CeKeeps q f (s.event code data) := eventN hv h

theorem cupTrigger {c b : Nat} (h : s0.CeKeeps q f s) : s0.CeKeeps q f (s.cupTrigger c b) :=
  .ite (.each h fun hp h => event hv (cupStart hv h (State.mem_allCups_of_cupGroup hp))) h

theorem cupSample {c b : Nat} (hp : (c, b) ∈ allCups) (h : s0.CeKeeps q f s) : s0.CeKeeps q f (s.cupSample c b) := by
  unfold State.cupSample
  extract_lets st u v level kind hit s1 keep x s2
  have htriggered : s0.CeKeeps q f s1 := .iff h (cupTrigger hv)
  have hsampled : s0.CeKeeps q f s2 := updCup hv htriggered
  have hspared : f.sparedBy (CUP_STAT_STATE c b) = true := hv.spared_cup (p := (c, b)) hp
  exact .ite h (.ite (updCup hv h) (.iff hsampled fun h => .setFld h hspared))

/-! ### Lanes -/

theorem updOl {c l : Nat} {g : OutLane → OutLane} (h : s0.CeKeeps q f s) : s0.CeKeeps q f (s.updOl c l g) := h.updCe hv.outs

theorem updBl {n : Nat} {g : BlockLane → BlockLane} (h : s0.CeKeeps q f s) : s0.CeKeeps q f (s.updBl n g) := by
  unfold State.updBl
  split
  · exact h.updCe hv.blocks
  · exact h

theorem badFrame {n : Nat} {cnt : Fld} (hcnt : cnt.reg / 0x10000 = 2) (hb : cnt.lsb ≤ cnt.msb ∧ cnt.msb < 32)
    (h : s0.CeKeeps q f s) : s0.CeKeeps q f (s.badFrame n (some cnt)) := by
  unfold State.badFrame
  extract_lets s1 s2 s3
  have hcounted : s0.CeKeeps q f s3 := .updLk (.setFld (.updLk h) (Fld.sparedBy_of_reg_ne (fun e => hv.link (e ▸ hcnt)) hb))
  exact .ite (.ite hcounted (event hv (.updLk hcounted))) (.updLk h)

theorem missFrames {c : Nat} (h : s0.CeKeeps q f s) : s0.CeKeeps q f (s.missFrames c) :=
  .each h fun hn h => badFrame hv (by
    have := State.lt_of_mem_links (List.mem_of_mem_filter hn)
    show (0x2100C + _ * 0x20) / 0x10000 = 2
    omega) ⟨by simp, by simp⟩ h

theorem judgeBlock {c k n : Nat} (h : s0.CeKeeps q f s) : s0.CeKeeps q f (s.judgeBlock c k n) := by
  unfold State.judgeBlock
  extract_lets b l bst base dOk s1 same b1 valid
  have htold : s0.CeKeeps q f s1 := .iff h fun h => event hv (.updCe h hv.told)
  exact updBl hv htold

theorem genStep {c l j : Nat} {pause enter : Bool} (h : s0.CeKeeps q f s) : s0.CeKeeps q f (s.genStep c l j pause enter) := updOl hv h

theorem takeFast {c l : Nat} {x : FastSample} (h : s0.CeKeeps q f s) : s0.CeKeeps q f (s.takeFast c l x) := updOl hv h

theorem outLaneWork {c l j : Nat} {was run : Bool} (h : s0.CeKeeps q f s) : s0.CeKeeps q f (s.outLaneWork c l j was run) :=
  genStep hv (.iff (.iff (.iff h (updOl hv)) (updOl hv)) fun h => event hv (updOl hv h))

theorem weights {j : Nat} {mem new : List Nat} (h : s0.CeKeeps q f s) : s0.CeKeeps q f (s.weights j mem new) := by
  unfold State.weights
  extract_lets iOut frac leavingW s1 ramp rest sumOf steady leaving sh sh2 s2 total ms
  have hramped : s0.CeKeeps q f s1 := .each h fun _ h => .ite (updBl hv h) (.ite (updBl hv h) h)
  have hshared : s0.CeKeeps q f s2 := .ite (.each hramped fun _ h => updBl hv h) (.each hramped fun _ h => updBl hv h)
  exact .each hshared fun _ h => updBl hv h

/-! ### Links and memories -/

omit hv in
theorem launch {n : Nat} {hold : Bool} {iref : Int} {vlim : Nat} {vff : Int} (h : s0.CeKeeps q f s) :
    s0.CeKeeps q f (s.launch n hold iref vlim vff) := .ite h (.updLk h)

theorem launchNew {c k n : Nat} (h : s0.CeKeeps q f s) : s0.CeKeeps q f (s.launchNew c k n) := launch (updBl hv h)

theorem hardFault {m tile : Nat} (hm : m < 9) (h : s0.CeKeeps q f s) : s0.CeKeeps q f (s.hardFault m tile) := by
  have hused : f.sparedBy (MI_REMAP_USED m) = true := by
    refine Fld.sparedBy_of_reg_ne (fun e => hv.mem ?_) (by simp)
    rw [e]
    show (0xF0110 + m * 0x20) / 0x10000 = 15
    omega
  unfold State.hardFault
  extract_lets s1 s2
  have hmoved : s0.CeKeeps q f s2 := .of_only (.setFld h hused)
    (State.updMem_keeps (State.updUnit_keeps (.refl _) _ _) _) (State.updMem_only (State.updUnit_only (.refl _ _) rfl _ _) rfl _)
  exact .ite (event hv hmoved) (event hv h)

theorem backAll {m : Nat} (hm : m < 9) (h : s0.CeKeeps q f s) : s0.CeKeeps q f (s.backAll m) := by
  have hmem : ∀ {s : State} {g : MemSt → MemSt}, s0.CeKeeps q f s → s0.CeKeeps q f (s.updMem g) := fun {s} g h =>
    h.of_only (State.updMem_keeps (.refl s) g) (State.updMem_only (.refl s _) rfl g)
  exact .each (hmem h) fun _ h => .ite (hardFault hv hm (hmem h)) (hmem h)

/-- What follows the count of a law that did not end in its window. -/
theorem lawOverrun {core : Nat} (h : s0.CeKeeps q f (s.inc FRM_OVR_CE_LAW)) : s0.CeKeeps q f (s.overrun 0 core true) := by
  have htold : s0.CeKeeps q f ((s.inc FRM_OVR_CE_LAW).updTim fun t => { t with ovrTold := 0 :: t.ovrTold }) :=
    h.of_only (State.updTim_keeps (.refl _) _) (State.updTim_only (.refl _ _) rfl _)
  exact .ite (event hv htold) h

end Work

end State.CeKeeps

end Sys2Proof.Machine
end

section
/-!
The compute window (spec/04 R81, R88; spec/02 R31): its start on working copies, and its end with and without END.
-/

namespace Sys2Proof.Machine

open Sys2Proof

/-- What a window works on: the committed law stages and output stages, and the masks from K4 (R80). -/
def CeSt.lawView (e : CeSt) : List Stage × List Stage × List Word := (e.com.st, e.com.dn, e.com.k.drop 4)

/-- What a window's end sets of the engine, and the committed stages. -/
def CeSt.endView (e : CeSt) : Bool × Bool × Bool × List Stage := (e.window, e.overran, e.third, e.com.st)

theorem State.ce_updCe {s : State} (hwf : s.wf = true) (c : Fin 2) (g : CeSt → CeSt) : (s.updCe c g).ce c = g (s.ce c) :=
  nth_upd_same _ (by rw [State.ces_length hwf]; exact c.isLt) g

/-! ### Its start -/

/-- The law starts on working copies. -/
def State.openWindow (s : State) (c : Nat) : State :=
  s.updCe c fun e => { e with window := true, work := { e.com with skip := 0, ended := false, cycles := 0 } }

/-- The window's own work leaves the committed stages, the masks from K4, and every field but those of its own registers. -/
theorem State.windowStart_eq (s : State) (c : Nat) (fast : List FastSample) :
    ∃ u : State, s.windowStart c fast = u.iff (u.ceRuns c) (·.openWindow c) ∧
      ∀ f : Fld, WindowView CeSt.lawView f → f.reg ≠ R_CE_RUN c → f.reg ≠ R_CE_VALID c → s.CeKeeps CeSt.lawView f u := by
  unfold State.windowStart
  extract_lets s1 outs blks s2 s3 old ks k1 s4 s5 s6 s7 s8 s9
  refine ⟨s9, rfl, fun f hv hrun hvalid => ?_⟩
  have hmissed : s.CeKeeps CeSt.lawView f s1 := .missFrames hv (.refl s)
  have hsampled : s.CeKeeps CeSt.lawView f s2 := .each hmissed fun _ => .takeFast hv
  have hjudged : s.CeKeeps CeSt.lawView f s3 := .each hsampled fun _ => .judgeBlock hv
  have hgenerated : s.CeKeeps CeSt.lawView f s4 := .each hjudged fun _ => .outLaneWork hv
  have hheld : s.CeKeeps CeSt.lawView f s5 := .each hgenerated fun _ => .updBl hv
  have hshared : s.CeKeeps CeSt.lawView f s6 := .each hheld fun _ h => .iff h (.weights hv)
  have hmasked : s.CeKeeps CeSt.lawView f s7 := .updCe hshared rfl
  have hinputs : s.CeKeeps CeSt.lawView f s8 := .updCe hmasked rfl
  exact .iff hinputs fun h => .setReg (.setReg h hrun) hvalid

/-- The registers that a window's start and end read or write lie in no cupping buffer's status, no link and no memory. -/
theorem ceStatus_outside : ∀ c : Fin 2,
    isCupStat (R_CE_STATUS c) = false ∧ R_CE_STATUS c / 0x10000 ≠ 2 ∧ R_CE_STATUS c / 0x10000 ≠ 15 := by decide

theorem ceStatus_ne_lanes : ∀ c : Fin 2, R_CE_STATUS c ≠ R_CE_RUN c ∧ R_CE_STATUS c ≠ R_CE_VALID c := by decide

theorem ceStatus_ne_ceCyc : ∀ c : Fin 2, R_CE_STATUS c ≠ R_CE_CYC c := by decide

theorem ceStatus_ne_frmOvr : ∀ c : Fin 2, R_CE_STATUS c ≠ R_FRM_OVR := by decide

theorem ceCyc_outside : ∀ c : Fin 2,
    isCupStat (R_CE_CYC c) = false ∧ R_CE_CYC c / 0x10000 ≠ 2 ∧ R_CE_CYC c / 0x10000 ≠ 15 := by decide

theorem core_outside : ∀ c : Fin 2, R_GLB_CORE_STATE ≠ R_CE_RUN c ∧ R_GLB_CORE_STATE ≠ R_CE_VALID c ∧
    isCupStat R_GLB_CORE_STATE = false ∧ R_GLB_CORE_STATE / 0x10000 ≠ 2 ∧ R_GLB_CORE_STATE / 0x10000 ≠ 15 := by decide

/-- A law that runs is started. -/
theorem State.windowStart_of_runs {s : State} (hwf : s.wf = true) {c : Fin 2} (hrun : s.ceRuns c = true) (fast : List FastSample) :
    ∃ u : State, s.windowStart c fast = u.openWindow c ∧ u.wf = true ∧ (u.ce c).lawView = (s.ce c).lawView := by
  obtain ⟨u, heq, hkeep⟩ := s.windowStart_eq c fast
  obtain ⟨hcup, hlink, hmem⟩ := ceStatus_outside c
  obtain ⟨hlanes, hvalid⟩ := ceStatus_ne_lanes c
  have hstatus : s.CeKeeps CeSt.lawView (CE_STATUS_STATE c) u := hkeep _ ⟨rfl, rfl, rfl, rfl, hcup, hlink, hmem⟩ hlanes hvalid
  obtain ⟨hcrun, hcvalid, hccup, hclink, hcmem⟩ := core_outside c
  have hcore : s.CeKeeps CeSt.lawView (coreFld (5 + c)) u := hkeep _ ⟨rfl, rfl, rfl, rfl, hccup, hclink, hcmem⟩ hcrun hcvalid
  have hruns : u.ceRuns c = true := by
    rw [State.ceRuns, State.coreRuns, hstatus.leaves.fld_of hwf, hcore.leaves.fld_of hwf]
    exact hrun
  exact ⟨u, heq.trans (if_pos hruns), hstatus.leaves.keeps.wf hwf, hstatus.ce c⟩

/-! ### Its end -/

/-- The window is closed, and the words that lie ready are written back. -/
def State.windowClosed (s : State) (c : Nat) (unfinished : Bool) : State :=
  (s.updCe c fun e => { e with window := false, overran := unfinished }).backAll (4 + c)

/-- A window without END is counted. -/
def State.windowOverrun (s : State) (c : Nat) : State :=
  (s.setSat (CE_STATUS_OVR_RUN c) (min 3 (s.fld (CE_STATUS_OVR_RUN c) + 1))).overrun 0 (5 + c) true

/-- One with END ends the run of overruns, and its cycles enter the peak. -/
def State.windowDone (s : State) (c cycles : Nat) : State :=
  let s := (s.setFld (CE_STATUS_OVR_RUN c) 0).updCe c fun e => { e with third := false }
  s.setSat (CE_CYC_PEAK c) (max (s.fld (CE_CYC_PEAK c)) cycles)

theorem mem_allCups {c b : Nat} (hc : c < 2) (hb : b < 8) : (c, b) ∈ allCups :=
  List.mem_flatMap.mpr ⟨c, List.mem_range.mpr hc, List.mem_map_of_mem (List.mem_range.mpr hb)⟩

/-- The frames and the samples that follow leave what the end has set. -/
theorem State.windowEnd_eq (s : State) (c : Fin 2) {f : Fld} (hv : WindowView CeSt.endView f) :
    (((s.windowClosed c ((s.ce c).window && !(s.ce c).work.ended)).iff
      ((s.ce c).window && !(s.ce c).work.ended) (·.windowOverrun c)).iff
      ((s.ce c).window && (s.ce c).work.ended) (·.windowDone c (s.ce c).work.cycles)).CeKeeps CeSt.endView f (s.windowEnd c) := by
  unfold State.windowEnd
  extract_lets e done unfinished s1 s2 s3 stopped pause s4
  have hframes : s3.CeKeeps CeSt.endView f s4 :=
    .each (.refl s3) fun _ h => .ite (.launch h) (.ite (.launch h) (.ite (.launch h) (.launchNew hv h)))
  exact .each hframes fun hb h => .cupSample hv (mem_allCups c.isLt (mem_idx hb)) h

theorem State.setFld_ce (s : State) (f : Fld) (v c : Nat) : (s.setFld f v).ce c = s.ce c := rfl

theorem State.fld_setSat {s : State} (hwf : s.wf = true) {f : Fld} (hlo : f.lsb ≤ f.msb) (hhi : f.msb < 32) (v : Nat) :
    (s.setSat f v).fld f = min v (2 ^ (f.msb + 1 - f.lsb) - 1) :=
  (State.canon_of_wf hwf).fld_setFld_of_lt hlo hhi
    (Nat.lt_of_le_of_lt (Nat.min_le_right _ _) (Nat.sub_lt (Nat.two_pow_pos _) Nat.one_pos))

section End

variable {s : State} (hwf : s.wf = true) (c : Fin 2)

/-- Closing leaves a field that memories do not write. -/
theorem State.windowClosed_keeps {f : Fld} (hv : WindowView CeSt.endView f) (unfinished : Bool) :
    (s.updCe c fun e => { e with window := false, overran := unfinished }).CeKeeps CeSt.endView f (s.windowClosed c unfinished) :=
  .backAll hv (by omega) (.refl _)

theorem WindowView.ceStatus (hi lo : Nat) : WindowView CeSt.endView ⟨R_CE_STATUS c, hi, lo⟩ :=
  have ⟨hcup, hlink, hmem⟩ := ceStatus_outside c
  ⟨rfl, rfl, rfl, rfl, hcup, hlink, hmem⟩

theorem WindowView.ceCyc (hi lo : Nat) : WindowView CeSt.endView ⟨R_CE_CYC c, hi, lo⟩ :=
  have ⟨hcup, hlink, hmem⟩ := ceCyc_outside c
  ⟨rfl, rfl, rfl, rfl, hcup, hlink, hmem⟩

theorem WindowView.lawOverruns : WindowView CeSt.endView FRM_OVR_CE_LAW := ⟨rfl, rfl, rfl, rfl, by decide, by decide, by decide⟩

include hwf

theorem State.windowClosed_wf (unfinished : Bool) : (s.windowClosed c unfinished).wf = true :=
  (State.windowClosed_keeps c (.ceStatus c 0 0) unfinished).leaves.keeps.wf ((State.updCe_keeps (.refl s) _ _).wf hwf)

theorem State.windowClosed_fld {f : Fld} (hv : WindowView CeSt.endView f) (unfinished : Bool) :
    (s.windowClosed c unfinished).fld f = s.fld f :=
  (State.windowClosed_keeps c hv unfinished).leaves.fld_of ((State.updCe_keeps (.refl s) _ _).wf hwf)

theorem State.windowClosed_endView (unfinished : Bool) :
    ((s.windowClosed c unfinished).ce c).endView = (false, unfinished, (s.ce c).third, (s.ce c).com.st) := by
  rw [(State.windowClosed_keeps c (.ceStatus c 0 0) unfinished).ce, State.ce_updCe hwf]
  rfl

/-! With END. -/

theorem State.windowDone_wf (cycles : Nat) : (s.windowDone c cycles).wf = true :=
  (State.setSat_keeps (State.updCe_keeps (State.setFld_keeps (.refl s) _ _) _ _) _ _).wf hwf

theorem State.windowDone_endView (cycles : Nat) :
    ((s.windowDone c cycles).ce c).endView = ((s.ce c).window, (s.ce c).overran, false, (s.ce c).com.st) := by
  rw [State.windowDone, State.setSat, State.setFld_ce, State.ce_updCe (State.setFld_wf hwf (CE_STATUS_OVR_RUN c) 0), State.setFld_ce]
  rfl

theorem State.windowDone_run (cycles : Nat) : (s.windowDone c cycles).fld (CE_STATUS_OVR_RUN c) = 0 := by
  have hpeak : (s.setFld (CE_STATUS_OVR_RUN c) 0).Leaves (CE_STATUS_OVR_RUN c) (s.windowDone c cycles) :=
    .setSat (.same_regs (.refl _) (State.updCe_keeps (.refl _) _ _) rfl)
      (Fld.sparedBy_of_reg_ne (ceStatus_ne_ceCyc c) (by simp))
  rw [hpeak.fld_of (State.setFld_wf hwf _ _)]
  exact (State.canon_of_wf hwf).fld_setFld_of_lt (by simp) (by simp) (by simp)

theorem State.windowDone_peak {cycles : Nat} (hcycles : cycles ≤ 65535) :
    (s.windowDone c cycles).fld (CE_CYC_PEAK c) = max (s.fld (CE_CYC_PEAK c)) cycles := by
  have hclear : s.Leaves (CE_CYC_PEAK c) ((s.setFld (CE_STATUS_OVR_RUN c) 0).updCe c fun e => { e with third := false }) :=
    .same_regs (.setFld (.refl s) (Fld.sparedBy_of_reg_ne (ceStatus_ne_ceCyc c).symm (by simp)))
      (State.updCe_keeps (.refl _) _ _) rfl
  have hold : s.fld (CE_CYC_PEAK c) < 2 ^ 16 := s.fld_lt _
  refine (State.fld_setSat (hclear.keeps.wf hwf) (by simp) (by simp) _).trans ?_
  rw [hclear.fld_of hwf]
  exact Nat.min_eq_left (show max (s.fld (CE_CYC_PEAK c)) cycles ≤ 2 ^ 16 - 1 by omega)

/-! Without END. -/

theorem State.windowOverrun_wf : (s.windowOverrun c).wf = true :=
  (State.overrun_keeps (State.setSat_keeps (.refl s) _ _) _ _ _).wf hwf

theorem State.windowOverrun_run : (s.windowOverrun c).fld (CE_STATUS_OVR_RUN c) = min 3 (s.fld (CE_STATUS_OVR_RUN c) + 1) := by
  have hcount : (s.setSat (CE_STATUS_OVR_RUN c) (min 3 (s.fld (CE_STATUS_OVR_RUN c) + 1))).CeKeeps CeSt.endView (CE_STATUS_OVR_RUN c)
      (s.windowOverrun c) :=
    .lawOverrun (.ceStatus c 5 4) (.setFld (.refl _) (Fld.sparedBy_of_reg_ne (ceStatus_ne_frmOvr c) (by decide)))
  rw [hcount.leaves.fld_of (State.setFld_wf hwf _ _), State.fld_setSat hwf (by simp) (by simp)]
  exact Nat.min_eq_left (Nat.min_le_left 3 _)

omit hwf in
theorem State.windowOverrun_law :
    ((s.setSat (CE_STATUS_OVR_RUN c) (min 3 (s.fld (CE_STATUS_OVR_RUN c) + 1))).inc FRM_OVR_CE_LAW).CeKeeps CeSt.endView FRM_OVR_CE_LAW
      (s.windowOverrun c) := .lawOverrun .lawOverruns (.refl _)

omit hwf in
theorem State.windowOverrun_endView : ((s.windowOverrun c).ce c).endView = (s.ce c).endView := by
  rw [(State.windowOverrun_law c).ce, State.inc, State.setSat, State.setSat, State.setFld_ce, State.setFld_ce]

theorem State.windowOverrun_count : (s.windowOverrun c).fld FRM_OVR_CE_LAW = min 255 (s.fld FRM_OVR_CE_LAW + 1) := by
  have hrun : s.Leaves FRM_OVR_CE_LAW (s.setSat (CE_STATUS_OVR_RUN c) (min 3 (s.fld (CE_STATUS_OVR_RUN c) + 1))) :=
    .setSat (.refl s) (Fld.sparedBy_of_reg_ne (ceStatus_ne_frmOvr c).symm (by simp))
  have hset := hrun.keeps.wf hwf
  rw [(State.windowOverrun_law c).leaves.fld_of (State.setFld_wf hset _ _), State.inc, State.fld_setSat hset (by decide) (by decide),
    hrun.fld_of hwf]
  exact Nat.min_comm _ _

end End

/-! ### The commands -/

section Commands

variable {s : State} (hwf : s.wf = true) {c : Fin 2} (hopen : (s.ce c).window = true)

include hwf hopen

/-- A window that reached END. -/
theorem State.windowEnd_of_ended (hended : (s.ce c).work.ended = true) (hcycles : (s.ce c).work.cycles ≤ 65535) :
    ((s.windowEnd c).ce c).endView = (false, false, false, (s.ce c).com.st) ∧ (s.windowEnd c).fld (CE_STATUS_OVR_RUN c) = 0 ∧
      (s.windowEnd c).fld (CE_CYC_PEAK c) = max (s.fld (CE_CYC_PEAK c)) (s.ce c).work.cycles := by
  have hkeep : ∀ {f : Fld}, WindowView CeSt.endView f → ((s.windowClosed c false).windowDone c (s.ce c).work.cycles).CeKeeps
      CeSt.endView f (s.windowEnd c) := fun hv => by
    have := State.windowEnd_eq s c hv
    rw [hopen, hended] at this
    exact this
  have hclosed := State.windowClosed_wf hwf c false
  have hdone := State.windowDone_wf hclosed c (s.ce c).work.cycles
  have hview := State.windowClosed_endView hwf c false
  simp only [CeSt.endView, Prod.mk.injEq] at hview
  obtain ⟨hwindow, hoverran, -, hst⟩ := hview
  refine ⟨?_, ?_, ?_⟩
  · rw [(hkeep (.ceStatus c 0 0)).ce, State.windowDone_endView hclosed, hwindow, hoverran, hst]
  · rw [(hkeep (.ceStatus c 5 4)).leaves.fld_of hdone, State.windowDone_run hclosed]
  · rw [(hkeep (.ceCyc c 31 16)).leaves.fld_of hdone, State.windowDone_peak hclosed c hcycles,
      State.windowClosed_fld hwf c (.ceCyc c 31 16)]

/-- One that did not. -/
theorem State.windowEnd_of_not_ended (hended : (s.ce c).work.ended = false) :
    ((s.windowEnd c).ce c).endView = (false, true, (s.ce c).third, (s.ce c).com.st) ∧
      (s.windowEnd c).fld (CE_STATUS_OVR_RUN c) = min 3 (s.fld (CE_STATUS_OVR_RUN c) + 1) ∧
      (s.windowEnd c).fld FRM_OVR_CE_LAW = min 255 (s.fld FRM_OVR_CE_LAW + 1) := by
  have hkeep : ∀ {f : Fld}, WindowView CeSt.endView f →
      ((s.windowClosed c true).windowOverrun c).CeKeeps CeSt.endView f (s.windowEnd c) := fun hv => by
      have := State.windowEnd_eq s c hv
      rw [hopen, hended] at this
      exact this
  have hclosed := State.windowClosed_wf hwf c true
  have hcounted := State.windowOverrun_wf hclosed c
  refine ⟨?_, ?_, ?_⟩
  · rw [(hkeep (.ceStatus c 0 0)).ce, State.windowOverrun_endView, State.windowClosed_endView hwf]
  · rw [(hkeep (.ceStatus c 5 4)).leaves.fld_of hcounted, State.windowOverrun_run hclosed,
      State.windowClosed_fld hwf c (.ceStatus c 5 4)]
  · rw [(hkeep .lawOverruns).leaves.fld_of hcounted, State.windowOverrun_count hclosed, State.windowClosed_fld hwf c .lawOverruns]

end Commands

end Sys2Proof.Machine
end

section
/-!
DISABLE to every link that feeds an output of the engine (spec/04 R88): the command goes out in 4 frames, or waits as the last one.
-/

namespace Sys2Proof.Machine

open Sys2Proof

theorem nth_upd_other {α : Type} (d : α) (l : List α) {i j : Nat} (h : i ≠ j) (f : α → α) :
    nth d (upd l i f) j = nth d l j := by
  simp [nth, upd, List.getD_eq_getElem?_getD, h]

/-- What has been sent since `l`, a link's state before. -/
def LinkSt.Sent (l l' : LinkSt) (cmd arg : Nat) : Prop :=
  (l.cmdLeft = 0 → l'.cmd = cmd ∧ l'.cmdArg = arg ∧ l'.cmdLeft = 4) ∧
    (l.cmdLeft ≠ 0 → l'.cmdNext.getLastD (l'.cmd, l'.cmdArg) = (cmd, arg))

/-- The state of a link to which a command is sent outside TRAIN. -/
def LinkSt.given (l : LinkSt) (cmd arg : Nat) : LinkSt :=
  if l.cmdLeft = 0 then l.begin cmd arg
  else if l.cmdNext.getLastD (l.cmd, l.cmdArg) = (cmd, arg) then l
  else { l with cmdNext := l.cmdNext ++ [(cmd, arg)] }

theorem LinkSt.sent_given (l : LinkSt) (cmd arg : Nat) : l.Sent (l.given cmd arg) cmd arg := by
  unfold LinkSt.given
  refine ⟨fun hidle => ?_, fun hbusy => ?_⟩
  · rw [if_pos hidle]
    exact ⟨rfl, rfl, rfl⟩
  · rw [if_neg hbusy]
    split
    · next hlast => exact hlast
    · simp

/-- A command that has been sent stays sent when it is sent again. -/
theorem LinkSt.Sent.given {l l' : LinkSt} {cmd arg : Nat} (h : l.Sent l' cmd arg) : l.Sent (l'.given cmd arg) cmd arg := by
  unfold LinkSt.given
  split
  · refine ⟨fun _ => ⟨rfl, rfl, rfl⟩, fun hbusy => ?_⟩
    have hlast := h.2 hbusy
    change l'.cmdNext.getLastD (cmd, arg) = (cmd, arg)
    cases hnext : l'.cmdNext with
    | nil => rfl
    | cons a as =>
      rw [hnext] at hlast
      exact hlast
  · split
    · exact h
    · exact ⟨h.1, fun _ => by simp⟩

theorem State.links_length {s : State} (hwf : s.wf = true) : s.links.length = 48 := by
  simp only [State.wf, State.sized, Bool.and_eq_true, beq_iff_eq] at hwf
  exact hwf.2.1.1.1

section SendCmd

variable {s : State} {n m : Nat}

theorem State.lk_sendCmd_of_ne (h : n ≠ m) (cmd arg : Nat) : (s.sendCmd n cmd arg).lk m = s.lk m := by
  have hother : ∀ f, (s.updLk n f).lk m = s.lk m := nth_upd_other _ _ h
  unfold State.sendCmd
  simp only
  split
  · rfl
  · split
    · exact hother _
    · split
      · rfl
      · exact hother _

theorem State.lk_sendCmd (h : s.lst n ≠ 2) (hn : n < s.links.length) (cmd arg : Nat) :
    (s.sendCmd n cmd arg).lk n = (s.lk n).given cmd arg := by
  have hself : ∀ f, (s.updLk n f).lk n = f (s.lk n) := nth_upd_same _ hn
  unfold State.sendCmd LinkSt.given
  rw [if_neg (by simp [h])]
  split
  · exact hself _
  · split
    · rfl
    · exact hself _

end SendCmd

/-! ### The engine's lanes -/

/-- From `s` to `t` DISABLE has gone to some links, and nothing has changed that says which links a lane of engine `c` feeds. -/
structure State.Disabling (s : State) (c : Nat) (t : State) : Prop where
  keeps : s.Keeps t
  regs : t.regs = s.regs
  sh : t.sh = s.sh
  laneOut : (t.ce c).laneOut = (s.ce c).laneOut
  lk : ∀ n, t.lk n = s.lk n ∨ s.Sent t n cmdDisable 0

theorem State.updOl_laneOut (s : State) (c l c' : Nat) (g : OutLane → OutLane) :
    ((s.updOl c l g).ce c').laneOut = (s.ce c').laneOut :=
  nth_upd_view (q := CeSt.laneOut) (g := fun e => { e with outs := upd e.outs l g }) rfl _ _ _ _

theorem State.dropK1_laneOut (s : State) (c l c' : Nat) : ((s.dropK1 c l).ce c').laneOut = (s.ce c').laneOut := by
  refine nth_upd_view (q := CeSt.laneOut) ?_ _ _ _ _
  intro _
  rfl

namespace State.Disabling

variable {s t : State} {c : Nat}

theorem refl (s : State) : s.Disabling c s := ⟨.refl s, rfl, rfl, rfl, fun _ => .inl rfl⟩

theorem lst (h : s.Disabling c t) (n : Nat) : t.lst n = s.lst n := State.fld_congr h.regs _

/-- What changes no link, no register and no lane's output. -/
theorem of_same {u : State} (h : s.Disabling c t) (k : t.Keeps u) (hregs : u.regs = t.regs) (hsh : u.sh = t.sh)
    (hlane : (u.ce c).laneOut = (t.ce c).laneOut) (hlinks : u.links = t.links) : s.Disabling c u := by
  have hlk : ∀ n, u.lk n = t.lk n := fun n => by rw [State.lk, State.lk, hlinks]
  refine ⟨h.keeps.trans k, hregs.trans h.regs, hsh.trans h.sh, hlane.trans h.laneOut, fun n => ?_⟩
  simpa only [State.Sent, hlk] using h.lk n

section Send

variable (hwf : s.wf = true) {n : Nat} (hn : n < 48)

include hwf hn

/-- DISABLE reaches the link. -/
theorem sent_sendCmd (h : s.Disabling c t) : s.Sent (t.sendCmd n cmdDisable 0) n cmdDisable 0 := by
  intro hlst
  have hlen : n < t.links.length := by rwa [State.links_length (h.keeps.wf hwf)]
  have hgiven := State.lk_sendCmd (by rwa [h.lst]) hlen cmdDisable 0
  rw [hgiven]
  rcases h.lk n with hsame | hsent
  · rw [hsame]
    exact LinkSt.sent_given _ _ _
  · exact LinkSt.Sent.given (hsent hlst)

/-- What has been sent stays sent. -/
theorem sent_mono (h : s.Disabling c t) {m : Nat} (hm : s.Sent t m cmdDisable 0) :
    s.Sent (t.sendCmd n cmdDisable 0) m cmdDisable 0 := by
  by_cases hnm : n = m
  · exact hnm ▸ sent_sendCmd hwf hn h
  · intro hlst
    rw [State.lk_sendCmd_of_ne hnm]
    exact hm hlst

theorem sendCmd (h : s.Disabling c t) : s.Disabling c (t.sendCmd n cmdDisable 0) := by
  have hces : (t.sendCmd n cmdDisable 0).ces = t.ces := (State.sendCmd_only (.refl t 256) rfl n _ _).same .ces rfl
  refine ⟨State.sendCmd_keeps h.keeps n _ _, ((State.sendCmd_only (.refl t 256) rfl n _ _).same .regs rfl).trans h.regs,
    ((State.sendCmd_only (.refl t 256) rfl n _ _).same .sh rfl).trans h.sh, ?_, fun m => ?_⟩
  · rw [State.ce, hces]
    exact h.laneOut
  · by_cases hnm : n = m
    · exact .inr (hnm ▸ sent_sendCmd hwf hn h)
    · exact (h.lk m).imp ((State.lk_sendCmd_of_ne hnm _ _).trans ·) (sent_mono hwf hn h)

end Send

section Lanes

variable (hwf : s.wf = true)

include hwf

/-- DISABLE to a list of links reaches each of them. -/
theorem each_sendCmd {ns : List Nat} (hns : ∀ n ∈ ns, n < 48) (h : s.Disabling c t) :
    s.Disabling c (t.each ns fun s n => s.sendCmd n cmdDisable 0) ∧
      ∀ n, n ∈ ns ∨ s.Sent t n cmdDisable 0 → s.Sent (t.each ns fun s n => s.sendCmd n cmdDisable 0) n cmdDisable 0 := by
  induction ns generalizing t with
  | nil => exact ⟨h, fun n hn => hn.resolve_left List.not_mem_nil⟩
  | cons m ns ih =>
    have hm := hns m List.mem_cons_self
    obtain ⟨hall, hsent⟩ := ih (fun n hn => hns n (List.mem_cons_of_mem _ hn)) (sendCmd hwf hm h)
    refine ⟨hall, fun n hn => hsent n ?_⟩
    rcases hn with hn | hn
    · rcases List.mem_cons.mp hn with rfl | hn
      · exact .inr (sent_sendCmd hwf hm h)
      · exact .inl hn
    · exact .inr (sent_mono hwf hm h hn)

/-- A lane that fails gives DISABLE to the links of its output. -/
theorem failLane (l : Nat) (h : s.Disabling c t) :
    s.Disabling c (t.failLane c l) ∧
      ∀ n, (∃ j, s.laneOut c l = some j ∧ n ∈ s.members j) ∨ s.Sent t n cmdDisable 0 →
        s.Sent (t.failLane c l) n cmdDisable 0 := by
  have hlane : t.laneOut c l = s.laneOut c l := by rw [State.laneOut, h.laneOut, State.laneOut]
  unfold State.failLane
  rw [hlane]
  split
  · next hnone => exact ⟨h, fun n hn => hn.resolve_left fun ⟨j, hj, _⟩ => by simp [hnone] at hj⟩
  · next j hj =>
    have hmembers : t.members j = s.members j := by
      simp only [State.members, State.mapOf, h.sh]
    rw [hmembers]
    obtain ⟨hall, hsent⟩ := each_sendCmd hwf (ns := s.members j) (fun n hn => mem_idx (List.mem_of_mem_filter hn)) h
    generalize t.each (s.members j) _ = u at *
    have hlanes : (((u.updOl c l fun o => { o with failed := true, lost := false }).dropK1 c (24 + l)).ce c).laneOut =
        (u.ce c).laneOut := (State.dropK1_laneOut _ _ _ _).trans (State.updOl_laneOut _ _ _ _ _)
    have hkeeps := State.dropK1_keeps (State.updOl_keeps (.refl u) c l fun o => { o with failed := true, lost := false }) c (24 + l)
    refine ⟨hall.of_same hkeeps rfl rfl hlanes rfl, fun n hn => hsent n (hn.imp_left ?_)⟩
    rintro ⟨j', hj', hmem⟩
    rw [hj] at hj'
    rwa [Option.some.inj hj']

/-- What the failure of all lanes reaches. -/
theorem each_failLane {ls : List Nat} (h : s.Disabling c t) :
    s.Disabling c (t.each ls fun s l => s.failLane c l) ∧
      ∀ n, (∃ l ∈ ls, ∃ j, s.laneOut c l = some j ∧ n ∈ s.members j) ∨ s.Sent t n cmdDisable 0 →
        s.Sent (t.each ls fun s l => s.failLane c l) n cmdDisable 0 := by
  induction ls generalizing t with
  | nil => exact ⟨h, fun n hn => hn.resolve_left (by simp)⟩
  | cons m ls ih =>
    obtain ⟨hlane, hfirst⟩ := failLane hwf m h
    obtain ⟨hall, hsent⟩ := ih hlane
    refine ⟨hall, fun n hn => hsent n ?_⟩
    rcases hn with ⟨l, hl, hout⟩ | hn
    · rcases List.mem_cons.mp hl with rfl | hl
      · exact .inr (hfirst n (.inl hout))
      · exact .inl ⟨l, hl, hout⟩
    · exact .inr (hfirst n (.inr hn))

end Lanes

end State.Disabling

/-! ### The command -/

/-- The engine has acted on the third overrun in a row, and told it. -/
def State.thirdTold (s : State) (c : Nat) : State := (s.updCe c fun e => { e with third := true }).event 0x0121 [5 + c]

theorem State.thirdTold_third {s : State} (hwf : s.wf = true) (c : Fin 2) : ((s.thirdTold c).ce c).third = true := by
  have hkept : (s.updCe c fun e => { e with third := true }).CeKeeps CeSt.endView FRM_OVR_CE_LAW (s.thirdTold c) :=
    .event .lawOverruns (.refl _)
  have hview := hkept.ce c
  rw [State.ce_updCe hwf] at hview
  exact congrArg (·.2.2.1) hview

theorem State.thirdTold_lk (s : State) (c n : Nat) : (s.thirdTold c).lk n = s.lk n := by
  have hlinks : (s.thirdTold c).links = s.links := (State.event_only (.refl _ noLinks) rfl _ _).same .links rfl
  rw [State.lk, hlinks, State.lk]

theorem State.thirdTold_raised (s : State) (c : Nat) : s.Raised (s.thirdTold c) 0x0121 [5 + c] :=
  (State.event_raised _ _ _).after (State.updCe_keeps (.refl s) _ _)

theorem execThirdLawOverrun_of_third {s : State} (hclk : s.clocked = true) {c : Fin 2} (hrun : s.fld (CE_STATUS_OVR_RUN c) = 3)
    (hthird : (s.ce c).third = false) : exec (.thirdLawOverrun c) s = .next ((s.failAll c).thirdTold c) := by
  change execThirdLawOverrun c s = _
  rw [execThirdLawOverrun, State.live_next hclk, if_pos (by simp [hrun, hthird]), State.thirdTold]

theorem execCeWindowEnd_eq {s : State} (hclk : s.clocked = true) (hpd : s.pdGood 4 = true) (c : Fin 2) :
    exec (.ceWindowEnd c) s = .next (s.windowEnd c) := by
  change execCeWindowEnd c s = _
  rw [execCeWindowEnd, State.live_next hclk, if_pos hpd]

theorem execCeWindowStart_eq {s : State} (hclk : s.clocked = true) (hpd : s.pdGood 4 = true) (c : Fin 2) (fast : List FastSample) :
    exec (.ceWindowStart c fast) s = .next (s.windowStart c fast) := by
  change execCeWindowStart c fast s = _
  rw [execCeWindowStart, State.live_next hclk, if_pos hpd]

end Sys2Proof.Machine

open Sys2Proof Sys2Proof.Machine

/-- Settles O29: a window's start on working copies, its end with END and without, and what the third overrun in a row does. -/
theorem computeWindows : Obligations.ComputeWindows := by
  intro s c hwf hclk
  refine ⟨fun fast hrun hpd => ?_, fun hpd hopen hended hcycles => ?_, fun hpd hopen hended => ?_, fun hrun hthird => ?_⟩
  · obtain ⟨u, hstart, huwf, hview⟩ := State.windowStart_of_runs hwf hrun fast
    simp only [CeSt.lawView, Prod.mk.injEq] at hview
    obtain ⟨hst, hdn, hk⟩ := hview
    refine ⟨_, execCeWindowStart_eq hclk hpd c fast, ?_⟩
    rw [hstart, State.openWindow, State.ce_updCe huwf c]
    exact ⟨rfl, hst, hdn, hk, rfl, rfl, hst⟩
  · obtain ⟨hview, hrun, hpeak⟩ := State.windowEnd_of_ended hwf hopen hended hcycles
    simp only [CeSt.endView, Prod.mk.injEq] at hview
    obtain ⟨hwindow, -, hthird, hst⟩ := hview
    exact ⟨_, execCeWindowEnd_eq hclk hpd c, hwindow, hrun, hthird, hst, hpeak⟩
  · obtain ⟨hview, hrun, hcount⟩ := State.windowEnd_of_not_ended hwf hopen hended
    simp only [CeSt.endView, Prod.mk.injEq] at hview
    obtain ⟨hwindow, hoverran, -, hst⟩ := hview
    exact ⟨_, execCeWindowEnd_eq hclk hpd c, hwindow, hoverran, hrun, hst, hcount⟩
  · obtain ⟨hfailed, hsent⟩ := State.Disabling.each_failLane hwf (ls := idx 4) (.refl (c := c.val) s)
    refine ⟨_, execThirdLawOverrun_of_third hclk hrun hthird, (State.thirdTold_raised _ _).after hfailed.keeps,
      State.thirdTold_third (hfailed.keeps.wf hwf) c, fun l hl j hj n hn => ?_⟩
    have hreached := hsent n (.inl ⟨l, List.mem_range.mpr hl, j, hj, hn⟩)
    rw [State.Sent, State.thirdTold_lk]
    exact hreached
end

section
/-!
Rules for a link (spec/03): its part of the state, its state in CQ_STATE, its bit of CQ_STOP and its timers, after each of the
operations that change some of them, and through all those that leave them alone.
-/

namespace Sys2Proof.Machine

open Sys2Proof

/-! ### One bit per link -/

/-- The bit of link `k` in a pair of LO and HI registers, as a field. -/
def linkFld (lo hi k : Nat) : Fld := if k < 32 then ⟨lo, k, k⟩ else ⟨hi, k - 32, k - 32⟩

/-- The bit of link `n` in CQ_STOP. -/
abbrev stopFld (n : Nat) : Fld := linkFld R_CQ_STOP_LO R_CQ_STOP_HI n

theorem linkFld_one_bit (lo hi k : Nat) : (linkFld lo hi k).msb = (linkFld lo hi k).lsb := by
  unfold linkFld
  split <;> rfl

theorem linkFld_in_word {k : Nat} (hk : k < 64) (lo hi : Nat) :
    (linkFld lo hi k).lsb ≤ (linkFld lo hi k).msb ∧ (linkFld lo hi k).msb < 32 := by
  unfold linkFld
  split
  · exact ⟨Nat.le_refl _, ‹_›⟩
  · exact ⟨Nat.le_refl _, by show k - 32 < 32; omega⟩

theorem linkFld_reg (lo hi k : Nat) : (linkFld lo hi k).reg = lo ∨ (linkFld lo hi k).reg = hi := by
  unfold linkFld
  split
  · exact .inl rfl
  · exact .inr rfl

theorem stopFld_reg_le (n : Nat) : (stopFld n).reg ≤ 0x20010 := by
  rcases linkFld_reg R_CQ_STOP_LO R_CQ_STOP_HI n with h | h
  · exact h.trans_le (by decide)
  · exact h.trans_le (by decide)

theorem getBits_one_bit (w : Word) (k : Nat) : getBits w k k = w.toNat / 2 ^ k % 2 := by
  rw [getBits, Nat.add_sub_cancel_left, Nat.pow_one]

theorem State.linkBit_eq_flag (s : State) (lo hi k : Nat) : s.linkBit lo hi k = s.flag (linkFld lo hi k) := by
  unfold State.linkBit linkFld
  split <;> simp only [State.flag, State.fld, getBits_one_bit, bit]

theorem setBit_eq (w k : Nat) (b : Bool) : setBit w k b = w % 2 ^ k + b2n b * 2 ^ k + w / 2 ^ (k + 1) * 2 ^ (k + 1) := by
  have hw : 2 ^ k * (w / 2 ^ k) + w % 2 ^ k = w := Nat.div_add_mod w (2 ^ k)
  have hq : w / 2 ^ (k + 1) = w / 2 ^ k / 2 := by rw [Nat.pow_succ, Nat.div_div_eq_div_mul]
  have hhalf : w / 2 ^ (k + 1) * 2 ^ (k + 1) = 2 ^ k * (2 * (w / 2 ^ k / 2)) := by rw [hq, Nat.pow_succ]; ring
  rw [hhalf, setBit, bit, b2n]
  rcases Nat.mod_two_eq_zero_or_one (w / 2 ^ k) with h | h
  · have heven : 2 * (w / 2 ^ k / 2) = w / 2 ^ k := by omega
    rw [heven, h]
    cases b <;> simp <;> omega
  · have hodd : w / 2 ^ k = 2 * (w / 2 ^ k / 2) + 1 := by omega
    have hmul : 2 ^ k * (w / 2 ^ k) = 2 ^ k * (2 * (w / 2 ^ k / 2)) + 2 ^ k := by conv_lhs => rw [hodd, Nat.mul_succ]
    rw [h]
    cases b <;> simp <;> omega

theorem putBits_one_bit (w : Word) (k : Nat) (b : Bool) : putBits w k k (b2n b) = BitVec.ofNat 32 (setBit w.toNat k b) := by
  have hb : b2n b % 2 = b2n b := by cases b <;> rfl
  rw [putBits, Nat.add_sub_cancel_left, Nat.pow_one, hb, setBit_eq]

theorem State.setLinkBit_eq_setFlag (s : State) (lo hi k : Nat) (b : Bool) :
    s.setLinkBit lo hi k b = s.setFlag (linkFld lo hi k) b := by
  unfold State.setLinkBit linkFld
  split <;> simp only [State.setFlag, State.setFld, putBits_one_bit]

/-! ### Timers -/

theorem State.timing_startTimer (s : State) (t : Timer) : (s.startTimer t).timing t = true := by
  simp [State.timing]

theorem State.timing_stopTimer (s : State) (t : Timer) : (s.stopTimer t).timing t = false := by
  simp [State.timing]

theorem any_filter_ne {x y : Timer} (h : x ≠ y) (l : List (Timer × Nat)) :
    ((l.filter fun p => !(p.1 == y)).any fun p => p.1 == x) = l.any fun p => p.1 == x := by
  rw [List.any_filter]
  refine congrArg (List.any l) (funext fun p => ?_)
  by_cases hp : p.1 = x <;> simp [hp, h]

theorem State.timing_stopTimer_of_ne (s : State) {x y : Timer} (h : x ≠ y) : (s.stopTimer y).timing x = s.timing x :=
  any_filter_ne h s.timers

theorem State.timing_startTimer_of_ne (s : State) {x y : Timer} (h : x ≠ y) : (s.startTimer y).timing x = s.timing x := by
  rw [State.timing, State.startTimer_timers, List.any_append, any_filter_ne h]
  simp [State.timing, Ne.symm h]

/-! ### What is left of a link -/

/-- Every part of the state but the registers, the timers and the links, as a mask. -/
def noLinkParts : Nat := 0x7FFFEF5

/-- The timers of a link's training, of its pause and of its silence. -/
def linkTimers (n : Nat) : List Timer := [.train n, .retry n, .silent n]

/-- From `s` to `t` what `q` reads of link `n` stays, and so do its state, its bit of CQ_STOP and its timers. -/
structure State.LinkKeeps {α : Type} (s : State) (q : LinkSt → α) (n : Nat) (t : State) : Prop where
  lk : q (t.lk n) = q (s.lk n)
  lst : s.Leaves (CQ_STATE_LSTATE n) t
  stop : s.Leaves (stopFld n) t
  timing : ∀ x ∈ linkTimers n, t.timing x = s.timing x

/-- A field that is no state of link `n` and no bit of CQ_STOP. -/
def Fld.besides (n : Nat) (g : Fld) : Prop := (CQ_STATE_LSTATE n).sparedBy g = true ∧ (stopFld n).sparedBy g = true

/-- A field above CQ_STOP, in another register than the link's state or above it there. -/
theorem Fld.besides.of_above {n : Nat} {g : Fld} (hreg : 0x20010 < g.reg) (hbits : g.lsb ≤ g.msb ∧ g.msb < 32)
    (hst : g.reg ≠ 0x21004 + n * 0x20 ∨ 2 < g.lsb) : g.besides n := by
  refine ⟨?_, Fld.sparedBy_of_reg_ne (Nat.ne_of_lt (Nat.lt_of_le_of_lt (stopFld_reg_le n) hreg)) hbits⟩
  rcases hst with hne | hlsb
  · exact Fld.sparedBy_of_reg_ne (Ne.symm hne) hbits
  · simp [Fld.sparedBy, Fld.apart, hlsb, hbits]

/-- A field of a subject block above that of the links. -/
theorem Fld.besides.of_block {n : Nat} (hn : n < 48) {g : Fld} (hreg : 0x30000 ≤ g.reg) (hbits : g.lsb ≤ g.msb ∧ g.msb < 32) :
    g.besides n :=
  .of_above (by omega) hbits (.inl (by omega))

theorem Fld.besides.lstate {m n : Nat} (h : m ≠ n) : (CQ_STATE_LSTATE m).besides n :=
  .of_above (Nat.lt_add_right _ (by decide)) ⟨by simp, by simp⟩ (.inl (show 0x21004 + m * 0x20 ≠ _ by omega))

theorem linkFld_sparedBy {lo hi m n : Nat} (h : m ≠ n) (hm : m < 64) (hlohi : lo ≠ hi) :
    (linkFld lo hi n).sparedBy (linkFld lo hi m) = true := by
  have hbits := linkFld_in_word hm lo hi
  rw [Fld.sparedBy, decide_eq_true hbits, Bool.and_true]
  simp only [Fld.apart, Bool.or_eq_true, bne_iff_ne, linkFld]
  split <;> split <;> simp [hlohi, Ne.symm hlohi] <;> omega

theorem Fld.besides.stopFld {m n : Nat} (h : m ≠ n) (hm : m < 64) : (stopFld m).besides n := by
  have hreg : (CQ_STATE_LSTATE n).reg ≠ (Machine.stopFld m).reg :=
    Nat.ne_of_gt (Nat.lt_of_le_of_lt (stopFld_reg_le m) (Nat.lt_add_right _ (by decide)))
  exact ⟨Fld.sparedBy_of_reg_ne hreg (linkFld_in_word hm _ _), linkFld_sparedBy h hm (by decide)⟩

namespace State.LinkKeeps

variable {α : Type} {q : LinkSt → α} {n : Nat} {s0 s : State}

theorem refl (s : State) : s.LinkKeeps q n s := ⟨rfl, .refl s, .refl s, fun _ _ => rfl⟩

theorem keeps {t : State} (h : s.LinkKeeps q n t) : s.Keeps t := h.lst.keeps

theorem trans {t u : State} (h : s.LinkKeeps q n t) (k : t.LinkKeeps q n u) : s.LinkKeeps q n u :=
  ⟨k.lk.trans h.lk, h.lst.trans k.lst, h.stop.trans k.stop, fun x hx => (k.timing x hx).trans (h.timing x hx)⟩

theorem lst_eq {t : State} (h : s.LinkKeeps q n t) (hwf : s.wf = true) : t.lst n = s.lst n := h.lst.fld_of hwf

theorem stop_eq {t : State} (h : s.LinkKeeps q n t) (hwf : s.wf = true) :
    t.linkBit R_CQ_STOP_LO R_CQ_STOP_HI n = s.linkBit R_CQ_STOP_LO R_CQ_STOP_HI n := by
  rw [State.linkBit_eq_flag, State.linkBit_eq_flag, h.stop.flag_of hwf]

/-- A change of neither registers, timers nor links. -/
theorem of_only {t : State} (h : s0.LinkKeeps q n s) (k : s.Keeps t) (m : s.OnlyM noLinkParts t) : s0.LinkKeeps q n t := by
  have hregs : t.regs = s.regs := m.same .regs rfl
  have hlinks : t.links = s.links := m.same .links rfl
  have htimers : t.timers = s.timers := m.same .timers rfl
  refine ⟨?_, h.lst.same_regs k hregs, h.stop.same_regs k hregs, fun x hx => ?_⟩
  · rw [State.lk, hlinks]
    exact h.lk
  · rw [State.timing, htimers]
    exact h.timing x hx

theorem setFld {g : Fld} {v : Nat} (h : s0.LinkKeeps q n s) (hg : g.besides n) : s0.LinkKeeps q n (s.setFld g v) :=
  ⟨h.lk, h.lst.setFld hg.1, h.stop.setFld hg.2, h.timing⟩

theorem setFlag {g : Fld} {b : Bool} (h : s0.LinkKeeps q n s) (hg : g.besides n) : s0.LinkKeeps q n (s.setFlag g b) := h.setFld hg

theorem setLinkBit {lo hi k : Nat} {b : Bool} (h : s0.LinkKeeps q n s) (hg : (linkFld lo hi k).besides n) :
    s0.LinkKeeps q n (s.setLinkBit lo hi k b) := by
  rw [State.setLinkBit_eq_setFlag]
  exact h.setFlag hg

theorem updLk {m : Nat} {g : LinkSt → LinkSt} (h : s0.LinkKeeps q n s) (hg : ∀ {l}, q (g l) = q l) :
    s0.LinkKeeps q n (s.updLk m g) :=
  have k := State.updLk_keeps (.refl s) m g
  ⟨(nth_upd_view hg _ _ _ _).trans h.lk, h.lst.same_regs k rfl, h.stop.same_regs k rfl, h.timing⟩

theorem updLk_other {m : Nat} {g : LinkSt → LinkSt} (h : s0.LinkKeeps q n s) (hm : m ≠ n) : s0.LinkKeeps q n (s.updLk m g) :=
  have k := State.updLk_keeps (.refl s) m g
  ⟨(congrArg q (nth_upd_other _ _ hm _)).trans h.lk, h.lst.same_regs k rfl, h.stop.same_regs k rfl, h.timing⟩

theorem stopTimer {x : Timer} (h : s0.LinkKeeps q n s) (hx : x ∉ linkTimers n) : s0.LinkKeeps q n (s.stopTimer x) :=
  have k := State.stopTimer_keeps (.refl s) x
  ⟨h.lk, h.lst.same_regs k rfl, h.stop.same_regs k rfl, fun y hy =>
    (s.timing_stopTimer_of_ne (ne_of_mem_of_not_mem hy hx)).trans (h.timing y hy)⟩

theorem event (hn : n < 48) {code : Nat} {data : List Nat} (h : s0.LinkKeeps q n s) : s0.LinkKeeps q n (s.event code data) := by
  refine ⟨?_, h.lst.event (isCupStat_block ?_), h.stop.event (isCupStat_block ?_), fun x hx => ?_⟩
  · rw [State.lk, State.event_links]
    exact h.lk
  · show (0x21004 + n * 0x20) / 0x10000 ≠ 3
    omega
  · rcases linkFld_reg R_CQ_STOP_LO R_CQ_STOP_HI n with hreg | hreg <;> rw [hreg] <;> decide
  · rw [State.timing, State.event_timers]
    exact h.timing x hx

theorem ite {c : Prop} [Decidable c] {a b : State} (ha : s0.LinkKeeps q n a) (hb : s0.LinkKeeps q n b) :
    s0.LinkKeeps q n (if c then a else b) := by
  split
  · exact ha
  · exact hb

theorem iff {c : Bool} {g : State → State} (h : s0.LinkKeeps q n s) (hg : ∀ {s}, s0.LinkKeeps q n s → s0.LinkKeeps q n (g s)) :
    s0.LinkKeeps q n (s.iff c g) := ite (hg h) h

theorem each {β : Type} {l : List β} {g : State → β → State} (h : s0.LinkKeeps q n s)
    (hg : ∀ {s a}, a ∈ l → s0.LinkKeeps q n s → s0.LinkKeeps q n (g s a)) : s0.LinkKeeps q n (s.each l g) :=
  List.foldlRecOn l g h fun _ h _ ha => hg ha h

/-! ### Moves and lanes -/

theorem updMv {m : Nat} {g : Move → Move} (h : s0.LinkKeeps q n s) : s0.LinkKeeps q n (s.updMv m g) :=
  h.of_only (State.updMv_keeps (.refl s) m g) (State.updMv_only (.refl s _) rfl m g)

theorem updBl {m : Nat} {g : BlockLane → BlockLane} (h : s0.LinkKeeps q n s) : s0.LinkKeeps q n (s.updBl m g) :=
  h.of_only (State.updBl_keeps (.refl s) m g) (State.updBl_only (.refl s _) rfl m g)

theorem dropK1 {c lane : Nat} (h : s0.LinkKeeps q n s) : s0.LinkKeeps q n (s.dropK1 c lane) :=
  h.of_only (State.dropK1_keeps (.refl s) c lane) (State.dropK1_only (.refl s _) rfl c lane)

theorem moveTimer_notMem {m : Nat} : Timer.moveStep m ∉ linkTimers n := by simp [linkTimers]

section Fitted

variable (hn : n < 48)

include hn

theorem showStep {m st : Nat} {dest : Option Nat} (h : s0.LinkKeeps q n s) : s0.LinkKeeps q n (s.showStep m st dest) :=
  have hasg : 0x30000 ≤ R_MX_ASG m := Nat.le_add_right_of_le (by decide)
  .setFld (.setFld h (.of_block hn hasg ⟨by simp, by simp⟩)) (.of_block hn hasg ⟨by simp, by simp⟩)

/-- A move that is abandoned with no end of a session sends nothing to its block. -/
theorem moveAbandon {m : Nat} (h : s0.LinkKeeps q n s) : s0.LinkKeeps q n (s.moveAbandon m false) := by
  unfold State.moveAbandon
  have htold {t : State} (h : s0.LinkKeeps q n t) : s0.LinkKeeps q n (((t.showStep m 0 none).stopTimer (.moveStep m)).event 0x0404 [m]) :=
    .event hn (.stopTimer (.showStep hn h) moveTimer_notMem)
  exact .ite (.updMv (.updMv h)) (.ite (.updMv (.updBl (htold (.updMv h)))) (.updMv (htold (.updMv h))))

theorem leaveService {m : Nat} (h : s0.LinkKeeps q n s) : s0.LinkKeeps q n (s.leaveService m) := by
  unfold State.leaveService
  refine .moveAbandon hn ?_
  split
  · exact .dropK1 h
  · exact h

theorem laneDropped {m : Nat} (h : s0.LinkKeeps q n s) : s0.LinkKeeps q n (s.laneDropped m) := by
  unfold State.laneDropped
  split
  · exact .ite (.event hn (.updBl (.dropK1 h))) h
  · exact h

theorem moveAbort {m : Nat} (hm : m < 64) (h : s0.LinkKeeps q n s) : s0.LinkKeeps q n (s.moveAbort m) := by
  have hexcl : (linkFld R_MX_EXCL_LO R_MX_EXCL_HI m).besides n := .of_block hn
    (by rcases linkFld_reg R_MX_EXCL_LO R_MX_EXCL_HI m with h | h <;> rw [h] <;> decide) (linkFld_in_word hm _ _)
  exact .event hn (.setLinkBit (.updMv (.stopTimer (.showStep hn h) moveTimer_notMem)) hexcl)

/-! ### The state of another link -/

theorem setLst_other {m v : Nat} (h : s0.LinkKeeps q n s) (hm : m ≠ n) : s0.LinkKeeps q n (s.setLst m v) :=
  .ite h (.event hn (.setFld h (.lstate hm)))

end Fitted

end State.LinkKeeps

/-! ### Changes of a link -/

section Change

variable {s : State} (hwf : s.wf = true) {n : Nat} (hn : n < 48)

theorem State.setLst_links (s : State) (n v : Nat) : (s.setLst n v).links = s.links :=
  (State.setLst_only (.refl s 1030) rfl n v).same .links rfl

theorem State.setLst_lk (s : State) (n v m : Nat) : (s.setLst n v).lk m = s.lk m := by
  rw [State.lk, State.setLst_links, State.lk]

theorem State.setLst_timing (s : State) (n v : Nat) (x : Timer) : (s.setLst n v).timing x = s.timing x := by
  rw [State.timing, show (s.setLst n v).timers = s.timers from (State.setLst_only (.refl s 1030) rfl n v).same .timers rfl, State.timing]

/-- A change of the state is told with the state before and the one after (R73). -/
theorem State.setLst_raised {v : Nat} (h : s.lst n ≠ v) : s.Raised (s.setLst n v) 0x0201 [n, s.lst n, v] := by
  rw [State.setLst, if_neg h]
  exact (State.event_raised _ _ _).after (State.setFld_keeps (.refl s) _ _)

theorem State.Leaves.setLst {f : Fld} {s0 : State} {v : Nat} (h : s0.Leaves f s) (hf : f.sparedBy (CQ_STATE_LSTATE n) = true)
    (hcup : isCupStat f.reg = false) : s0.Leaves f (s.setLst n v) := .ite h (.event (.setFld h hf) hcup)

include hn

theorem State.isCupStat_lstate : isCupStat (CQ_STATE_LSTATE n).reg = false :=
  isCupStat_block (show (0x21004 + n * 0x20) / 0x10000 ≠ 3 by omega)

include hwf

theorem State.lk_updLk (g : LinkSt → LinkSt) : (s.updLk n g).lk n = g (s.lk n) :=
  nth_upd_same _ (by rwa [State.links_length hwf]) g

theorem State.setLst_lst {v : Nat} (hv : v < 8) : (s.setLst n v).lst n = v := by
  unfold State.setLst
  split
  · next h => exact h
  · rw [State.lst, State.event_fld (State.setFld_wf hwf _ _) _ _ _ (State.isCupStat_lstate hn)]
    exact (State.canon_of_wf hwf).fld_setFld_of_lt (by simp) (by simp) hv

end Change

/-! ### Training and locking -/

/-- A link as a training begins (R445). -/
def LinkSt.training (l : LinkSt) : LinkSt :=
  { l with
    tags := 0, measOk := false, fOut := false, failed := false, useqKnown := false, validRun := 0, invalidRun := 0, driftRun := 0
    clkRun := 0, drainAt := none, retrainDue := false, startSent := false, disabling := false, cmdLeft := 0, cmdNext := [] }

/-- A link that holds no measured delay (Table 3.15). -/
def LinkSt.locking (l : LinkSt) : LinkSt :=
  { l with
    failed := false, useqKnown := false, validRun := 0, invalidRun := 0, measOk := false, tags := 0, disabling := false
    startSent := false, cmdLeft := 0, cmdNext := [], drainAt := none, retrainDue := false, stopAligned := false }

theorem State.toTrain_eq (s : State) (n : Nat) : s.toTrain n = ((s.setLst n 2).updLk n .training).startTimer (.train n) := rfl

theorem State.toLock_eq (s : State) (n : Nat) :
    s.toLock n = (((s.setLst n 1).stopTimer (.train n)).stopTimer (.silent n)).updLk n .locking := rfl

section Train

variable {s : State} {n : Nat}

theorem State.toTrain_raised (h : s.lst n ≠ 2) : s.Raised (s.toTrain n) 0x0201 [n, s.lst n, 2] :=
  (State.setLst_raised h).then (State.startTimer_keeps (State.updLk_keeps (.refl _) _ _) _)

theorem State.toLock_raised (h : s.lst n ≠ 1) : s.Raised (s.toLock n) 0x0201 [n, s.lst n, 1] :=
  (State.setLst_raised h).then (State.updLk_keeps (State.stopTimer_keeps (State.stopTimer_keeps (.refl _) _) _) _ _)

theorem State.toTrain_timing (s : State) (n : Nat) : (s.toTrain n).timing (.train n) = true := State.timing_startTimer _ _

theorem State.toTrain_timing_other (s : State) (n : Nat) {x : Timer} (hx : x ≠ .train n) : (s.toTrain n).timing x = s.timing x :=
  (State.timing_startTimer_of_ne _ hx).trans (State.setLst_timing s n 2 x)

theorem State.toLock_timing_silent (s : State) (n : Nat) : (s.toLock n).timing (.silent n) = false := State.timing_stopTimer _ _

theorem State.toLock_timing_retry (s : State) (n : Nat) : (s.toLock n).timing (.retry n) = s.timing (.retry n) :=
  (State.timing_stopTimer_of_ne _ (by simp)).trans ((State.timing_stopTimer_of_ne _ (by simp)).trans (State.setLst_timing s n 1 _))

variable (hwf : s.wf = true) (hn : n < 48)

include hwf hn

theorem State.toTrain_lk : (s.toTrain n).lk n = (s.lk n).training :=
  (State.lk_updLk ((State.setLst_keeps (.refl s) n 2).wf hwf) hn LinkSt.training).trans
    (congrArg LinkSt.training (State.setLst_lk s n 2 n))

theorem State.toTrain_lst : (s.toTrain n).lst n = 2 := State.setLst_lst hwf hn (by decide)

theorem State.toLock_lk : (s.toLock n).lk n = (s.lk n).locking :=
  (State.lk_updLk (s := ((s.setLst n 1).stopTimer (.train n)).stopTimer (.silent n)) ((State.setLst_keeps (.refl s) n 1).wf hwf) hn
    LinkSt.locking).trans (congrArg LinkSt.locking (State.setLst_lk s n 1 n))

theorem State.toLock_lst : (s.toLock n).lst n = 1 := State.setLst_lst hwf hn (by decide)

end Train

end Sys2Proof.Machine
end

section
/-!
The training of a link (spec/03 R60, R73, R445): from LOCK to TRAIN, the measurement, and the ways back to LOCK.
-/

namespace Sys2Proof.Machine

open Sys2Proof

/-! ### The measurement -/

/-- A quotient that is less than a half away is the rounded one. -/
theorem divRound_of_near {a F : Int} (h : 2 * (256 * F - a).natAbs < 256) (hF : 0 ≤ F) : divRound a 256 = F := by
  unfold divRound
  split <;> omega

theorem delayOf_of_near {sum te : Nat} {F : Int} (h : 2 * (256 * F - (5 * (sum : Int) - 1280 * te)).natAbs < 256) (hF : 0 ≤ F) :
    delayOf sum te = F :=
  divRound_of_near (by omega) hF

theorem maxDelay_le (sel : Nat) (long : Bool) : maxDelay sel long ≤ 25000 := by
  unfold maxDelay
  split
  · decide
  · decide
  · split <;> decide
  · decide

/-- A block's declarations and the measured spread are within their limits (R60, R64, R445). -/
structure State.Measurable (s : State) (n least most : Nat) : Prop where
  spread : most ≤ least + 4
  turnMin : 16 ≤ s.fld (CQ_DELAY_TURN n)
  turnMax : s.fld (CQ_DELAY_TURN n) ≤ 200
  turnVar : (s.lk n).tu ≤ 40
  tag7 : bit (s.lk n).tags 7 = true
  tag8 : bit (s.lk n).tags 8 = true
  clock : (s.fldS (CQ_BLK_FREQ n)).natAbs ≤ 1000

/-- The state after a measurement that is accepted with delay `f`. -/
def State.measured (s : State) (n f : Nat) : State :=
  (s.setSat (CQ_DELAY_DLY n) f).updLk n fun l => { l with measOk := true, fOut := false }

section Commands

variable {s : State} (hclk : s.clocked = true) {n : Fin 48}

include hclk

theorem execCommaLock_of_lock (hlst : s.lst n = 1) : exec (.commaLock n) s = .next (s.toTrain n) := by
  change execCommaLock n s = _
  rw [execCommaLock, State.live_next hclk, if_pos (beq_iff_eq.mpr hlst)]

theorem execTrainMeasurement_of_measurable {sum least most : Nat} (hlst : s.lst n = 2) (hfailed : (s.lk n).failed = false)
    (hopen : (s.lk n).measOk = false) (h : s.Measurable n least most) {F : Int}
    (hF : delayOf sum (s.fld (CQ_DELAY_TURN n)) = F) (hmin : 0 ≤ F) (hmax : F ≤ maxDelay s.tim.cfSel s.tim.longFibre) :
    exec (.trainMeasurement n sum least most) s = .next (s.measured n F.toNat) := by
  obtain ⟨hspread, hmin', hmax', hvar, h7, h8, hfreq⟩ := h
  have hin : decide (F < 0 ∨ (maxDelay s.tim.cfSel s.tim.longFibre : Int) < F) = false := decide_eq_false (by omega)
  change execTrainMeasurement n sum least most s = _
  simp only [execTrainMeasurement, State.live_next hclk, hlst, hfailed, hopen, hF, hin, hspread, hmin', hmax', hvar, h7, h8, hfreq]
  rfl

/-- The event of a training that is not complete in time: the delay was out of range, or something else. -/
def LinkSt.trainFault (l : LinkSt) : Nat := if l.fOut = true then 0x0202 else 0x0203

theorem execTrainTimeout_of_due (hlst : s.lst n = 2) (hdue : s.due (.train n) (100 * ms) = true) :
    exec (.trainTimeout n) s = .next (((((s.event (s.lk n).trainFault [n]).stopTimer (.train n)).startTimer (.retry n))).updLk n
      fun l => { l with failed := true }) := by
  change execTrainTimeout n s = _
  rw [execTrainTimeout, State.live_next hclk, if_pos (by simp [hlst, hdue])]
  rfl

theorem execLinkRetry_of_due (hlst : s.lst n = 2) (hfailed : (s.lk n).failed = true) (hdue : s.due (.retry n) sec = true) :
    exec (.linkRetry n) s = .next ((s.stopTimer (.retry n)).toLock n) := by
  change execLinkRetry n s = _
  rw [execLinkRetry, State.live_next hclk, if_pos (by simp [hlst, hfailed, hdue])]

theorem execLinkSilent_of_due (hlst : s.lst n = 5) (hdue : s.due (.silent n) ms = true) :
    exec (.linkSilent n) s = .next (s.toLock n) := by
  change execLinkSilent n s = _
  rw [execLinkSilent, State.live_next hclk, if_pos (by simp [hlst, hdue])]

end Commands

section Measured

variable {s : State} (hwf : s.wf = true) {n : Nat}

include hwf

theorem State.measured_lk (hn : n < 48) (f : Nat) : (s.measured n f).lk n = { s.lk n with measOk := true, fOut := false } :=
  State.lk_updLk (s := s.setSat (CQ_DELAY_DLY n) f) (State.setFld_wf hwf _ _) hn _

theorem State.measured_dly {f : Nat} (hf : f < 2 ^ 16) : (s.measured n f).fld (CQ_DELAY_DLY n) = f := by
  have hsat : satU 16 f = f := Nat.min_eq_left (by omega)
  refine ((State.canon_of_wf hwf).fld_setFld_of_lt (f := CQ_DELAY_DLY n) (v := satU 16 f) (by simp) (by simp) ?_).trans hsat
  rwa [hsat]

theorem State.measured_regsOnly (f : Nat) : s.RegsOnly [R_CQ_DELAY n] (s.measured n f) := fun _ ho _ =>
  State.reg_setFld_ne hwf (CQ_DELAY_DLY n) _ (mt List.mem_singleton.mpr ho)

theorem State.toTrain_regsOnly (n : Nat) : s.RegsOnly [R_CQ_STATE n] (s.toTrain n) := .of_leaves hwf fun o ho hcup =>
  have hset : s.Leaves (wordFld o) (s.setLst n 2) :=
    .setLst (.refl s) (Fld.sparedBy_of_reg_ne (mt List.mem_singleton.mpr ho) ⟨by simp, by simp⟩) hcup
  hset.same_regs (State.startTimer_keeps (State.updLk_keeps (.refl _) n LinkSt.training) (.train n)) rfl

end Measured

end Sys2Proof.Machine

open Sys2Proof Sys2Proof.Machine

/-- Settles O17, a command at a time: what each answers in its state of the link, and what the link, its field and its timers then hold. -/
theorem linksTrain : Obligations.LinksTrain := by
  intro s n hwf hclk
  refine ⟨fun hlst => ?_, fun sum least most F hlst hfailed hopen hnear hmin hmax hspread hte hte' htu h7 h8 hfreq => ?_,
    fun hlst hdue => ?_, fun hlst hfailed hdue => ?_, fun hlst hdue => ?_⟩
  · have hlk : (s.toTrain n).lk n = (s.lk n).training := State.toTrain_lk hwf n.isLt
    refine ⟨_, execCommaLock_of_lock hclk hlst, State.toTrain_lst hwf n.isLt, ?_, s.toTrain_timing n, State.elapsed_startTimer _ _,
      congrArg LinkSt.tags hlk, congrArg LinkSt.measOk hlk, State.toTrain_regsOnly hwf n⟩
    rw [← hlst]
    exact State.toTrain_raised (by rw [hlst]; decide)
  · have hbound : F ≤ 25000 := hmax.trans (Int.ofNat_le.mpr (maxDelay_le _ _))
    refine ⟨_, execTrainMeasurement_of_measurable hclk hlst hfailed hopen ⟨hspread, hte, hte', htu, h7, h8, hfreq⟩
      (delayOf_of_near hnear hmin) hmin hmax, congrArg LinkSt.measOk (State.measured_lk hwf n.isLt _), ?_, rfl,
      State.measured_regsOnly hwf _⟩
    rw [State.measured_dly hwf (by omega), Int.toNat_of_nonneg hmin]
  · refine ⟨_, execTrainTimeout_of_due hclk hlst hdue, ?_, ?_, ?_, ?_, State.timing_startTimer _ _⟩
    · exact (State.event_raised s (s.lk n).trainFault [n.val]).then
        (State.updLk_keeps (State.startTimer_keeps (State.stopTimer_keeps (.refl _) _) _) _ _)
    · exact congrArg LinkSt.failed (State.lk_updLk (s := (s.event _ _).stopTimer _ |>.startTimer _) (State.event_wf hwf _ _) n.isLt _)
    · exact (State.event_fld hwf _ _ _ (State.isCupStat_lstate n.isLt)).trans hlst
    · exact (State.timing_startTimer_of_ne _ (by simp)).trans (State.timing_stopTimer _ _)
  · refine ⟨_, execLinkRetry_of_due hclk hlst hfailed hdue, State.toLock_lst (s := s.stopTimer _) hwf n.isLt, ?_,
      congrArg LinkSt.failed (State.toLock_lk (s := s.stopTimer _) hwf n.isLt), ?_⟩
    · have hraised := State.toLock_raised (s := s.stopTimer (.retry n)) (n := n) (by show s.lst n ≠ 1; rw [hlst]; decide)
      rw [show (s.stopTimer (.retry n)).lst n = 2 from hlst] at hraised
      exact hraised
    · exact (State.toLock_timing_retry _ _).trans (State.timing_stopTimer _ _)
  · refine ⟨_, execLinkSilent_of_due hclk hlst hdue, State.toLock_lst hwf n.isLt, ?_, s.toLock_timing_silent n⟩
    rw [← hlst]
    exact State.toLock_raised (by rw [hlst]; decide)
end

section
/-!
The ways a link leaves service (spec/03 R63, R64, R66, R68, R73): lost, drained after a drift, retrained, and started again.
-/

namespace Sys2Proof.Machine

open Sys2Proof

/-! ### A link that is lost -/

/-- A link as it is lost: DISABLE goes out from now on, and no command waits (R66). -/
def LinkSt.lost (l : LinkSt) : LinkSt :=
  { l with
    disabling := true, cmdLeft := 0, cmdNext := [], useqKnown := false, validRun := 0, startSent := false, drainAt := none
    retrainDue := false }

/-- The link is LOST, which is told, and its silence is timed. -/
def State.lostLink (s : State) (n : Nat) : State := (((s.setLst n 5).event 0x0205 [n]).updLk n .lost).startTimer (.silent n)

theorem State.usable_iff {s : State} {n : Nat} : s.usable n = true ↔ s.lst n = 3 ∨ s.lst n = 4 := by
  simp [State.usable]

theorem State.linkLost_of_three {s : State} {n : Nat} (huse : s.usable n = true) (hrun : 3 ≤ (s.lk n).invalidRun) :
    s.linkLost n = ((s.lostLink n).laneDropped n).moveAbandon n false := by
  rw [State.linkLost, if_pos (by simp [huse, State.threeInvalid, hrun])]
  rfl

theorem State.lostLink_raised (s : State) (n : Nat) : s.Raised (s.lostLink n) 0x0205 [n] :=
  ((State.event_raised _ _ _).after (State.setLst_keeps (.refl s) n 5)).then
    (State.startTimer_keeps (State.updLk_keeps (.refl _) _ _) _)

section Lost

variable {s : State} (hwf : s.wf = true) {n : Nat} (hn : n < 48)

include hwf

theorem State.lostLink_wf (n : Nat) : (s.lostLink n).wf = true :=
  (State.startTimer_keeps (State.updLk_keeps (State.event_keeps (State.setLst_keeps (.refl s) n 5) _ _) _ _) _).wf hwf

include hn

theorem State.lostLink_lst : (s.lostLink n).lst n = 5 :=
  (State.event_fld ((State.setLst_keeps (.refl s) n 5).wf hwf) _ _ _ (State.isCupStat_lstate hn)).trans
    (State.setLst_lst hwf hn (by decide))

theorem State.lostLink_disabling : ((s.lostLink n).lk n).disabling = true :=
  congrArg LinkSt.disabling (State.lk_updLk (s := (s.setLst n 5).event 0x0205 [n])
    (State.event_wf ((State.setLst_keeps (.refl s) n 5).wf hwf) _ _) hn LinkSt.lost)

end Lost

/-! ### A retrain -/

/-- Once the link is in TRAIN, its lane and its move alone are left (Table 3.15). -/
theorem State.retrainNow_keepsLink (s : State) {n : Nat} (hn : n < 48) : (s.toTrain n).LinkKeeps id n (s.retrainNow n) :=
  .iff (.refl _) (.leaveService hn)

theorem State.retrainLink_of_idle {s : State} {n : Nat} (h : (s.lk n).cmdLeft = 0) : s.retrainLink n = s.retrainNow n := if_pos h

theorem State.retrainLink_of_busy {s : State} {n : Nat} (h : (s.lk n).cmdLeft ≠ 0) :
    s.retrainLink n = s.updLk n fun l => { l with retrainDue := true } := if_neg h

/-- A retrain of link `n` from `s` to `t`: at once, or after the commands under way (R56). -/
structure State.Retrained (s : State) (n : Nat) (t : State) : Prop where
  idle : (s.lk n).cmdLeft = 0 → t.lst n = 2 ∧ (t.lk n).measOk = false ∧ t.timing (.train n) = true
  busy : (s.lk n).cmdLeft ≠ 0 → t.lst n = s.lst n ∧ (t.lk n).retrainDue = true ∧ t.log = s.log
  silent : t.timing (.silent n) = s.timing (.silent n)

theorem State.retrainLink_retrained {s : State} (hwf : s.wf = true) {n : Nat} (hn : n < 48) : s.Retrained n (s.retrainLink n) := by
  by_cases hidle : (s.lk n).cmdLeft = 0
  · have hkept := s.retrainNow_keepsLink hn
    rw [State.retrainLink_of_idle hidle]
    refine ⟨fun _ => ⟨?_, ?_, ?_⟩, fun hbusy => absurd hidle hbusy, ?_⟩
    · exact (hkept.lst_eq ((State.toTrain_keeps (.refl s) n).wf hwf)).trans (State.toTrain_lst hwf hn)
    · exact congrArg LinkSt.measOk (hkept.lk.trans (State.toTrain_lk hwf hn))
    · exact (hkept.timing _ (by simp [linkTimers])).trans (s.toTrain_timing n)
    · exact (hkept.timing _ (by simp [linkTimers])).trans (s.toTrain_timing_other n (by simp))
  · rw [State.retrainLink_of_busy hidle]
    exact ⟨fun h => absurd h hidle, fun _ => ⟨rfl, congrArg LinkSt.retrainDue (State.lk_updLk hwf hn _), rfl⟩, rfl⟩

/-! ### Commands that go out -/

/-- START goes out in TRAIN too (R445). -/
theorem State.lk_sendCmd_start {s : State} (hwf : s.wf = true) {n : Nat} (hn : n < 48) :
    (s.sendCmd n cmdStart 0).lk n = (s.lk n).given cmdStart 0 := by
  unfold State.sendCmd LinkSt.given
  rw [if_neg (by simp [cmdStart])]
  split
  · exact State.lk_updLk hwf hn _
  · split
    · rfl
    · exact State.lk_updLk hwf hn _

/-- DISABLE begins before a retrain, and the instant is kept (R63). -/
def State.drained (s : State) (n : Nat) : State :=
  ((s.event 0x0208 [n]).sendCmd n cmdDisable 0).updLk n fun l => { l with driftRun := 0, drainAt := some s.age }

theorem State.sendCmd_regs (s : State) (n cmd arg : Nat) : (s.sendCmd n cmd arg).regs = s.regs :=
  (State.sendCmd_only (.refl s 256) rfl n cmd arg).same .regs rfl

section Drained

variable {s : State} (hwf : s.wf = true) {n : Nat} (hn : n < 48)

theorem State.drained_raised (s : State) (n : Nat) : s.Raised (s.drained n) 0x0208 [n] :=
  (State.event_raised _ _ _).then (State.updLk_keeps (State.sendCmd_keeps (.refl _) _ _ _) _ _)

include hwf

theorem State.drained_reg {o : Nat} (hcup : isCupStat o = false) : (s.drained n).reg o = s.reg o := by
  rw [← State.event_reg hwf 0x0208 [n] hcup, State.reg, State.reg]
  exact congrArg (Sparse.get _ · o) (State.sendCmd_regs _ _ _ _)

include hn

theorem State.drained_lst : (s.drained n).lst n = s.lst n := by
  rw [State.lst, State.fld, State.drained_reg hwf (State.isCupStat_lstate hn), State.lst, State.fld]

theorem State.drained_lk (hlst : s.lst n ≠ 2) :
    (s.drained n).lk n = { (s.lk n).given cmdDisable 0 with driftRun := 0, drainAt := some s.age } := by
  have htold := State.event_wf hwf 0x0208 [n]
  have hlst' : (s.event 0x0208 [n]).lst n ≠ 2 := by rwa [State.lst, State.event_fld hwf _ _ _ (State.isCupStat_lstate hn)]
  have hlk : (s.event 0x0208 [n]).lk n = s.lk n := by rw [State.lk, State.event_links, State.lk]
  rw [State.drained, State.lk_updLk ((State.sendCmd_keeps (.refl _) _ _ _).wf htold) hn,
    State.lk_sendCmd hlst' (by rwa [State.links_length htold]), hlk]

end Drained

/-- The state after START has been given to link `n`. -/
def State.started (s : State) (n : Nat) : State :=
  (s.sendCmd n cmdStart 0).updLk n fun l => { l with startSent := true, disabling := false }

theorem State.started_lk {s : State} (hwf : s.wf = true) {n : Nat} (hn : n < 48) :
    (s.started n).lk n = { (s.lk n).given cmdStart 0 with startSent := true, disabling := false } := by
  rw [State.started, State.lk_updLk ((State.sendCmd_keeps (.refl s) _ _ _).wf hwf) hn, State.lk_sendCmd_start hwf hn]

theorem State.started_only (s : State) (n : Nat) : s.Only [.links] (s.started n) :=
  (State.updLk_only (State.sendCmd_only (.refl s (partsMask [.links])) rfl n _ _) rfl n _).toOnly _ fun _ =>
    partsMask_testBit_of_notMem

/-! ### The commands -/

section Commands

variable {s : State} (hclk : s.clocked = true) {n : Fin 48}

include hclk

theorem execLinkLost_of_three (huse : s.usable n = true) (hrun : 3 ≤ (s.lk n).invalidRun) :
    exec (.linkLost n) s = .next (((s.lostLink n).laneDropped n).moveAbandon n false) := by
  change execLinkLost n s = _
  rw [execLinkLost, State.live_next hclk, State.linkLost_of_three huse hrun]

theorem execArrivalDrift_of_due (huse : s.usable n = true) (hrun : 16 ≤ (s.lk n).driftRun) (hfree : (s.lk n).drainAt = none) :
    exec (.arrivalDrift n) s = .next (s.drained n) := by
  change execArrivalDrift n s = _
  rw [execArrivalDrift, State.live_next hclk, if_pos (by simp [huse, hrun, hfree])]
  rfl

theorem execArrivalDrift_of_draining (h : (s.lk n).drainAt.isSome = true) : exec (.arrivalDrift n) s = .next s := by
  change execArrivalDrift n s = _
  rw [execArrivalDrift, State.live_next hclk, if_neg (by simp [Option.isNone_eq_false_iff.mpr h])]

theorem execBlockClockFault_of_two (huse : s.usable n = true) (hrun : 2 ≤ (s.lk n).clkRun) :
    exec (.blockClockFault n) s = .next ((s.event 0x0207 [n]).retrainLink n) := by
  change execBlockClockFault n s = _
  rw [execBlockClockFault, State.live_next hclk, if_pos (by simp [huse, hrun])]

theorem execRetrain_of_taken (hfit : n.val < s.nLinks) (hlst : s.lst n = 1 ∨ s.lst n = 2 ∨ s.lst n = 3 ∨ s.lst n = 5) :
    exec (.retrain n) s = .next (((s.stopTimer (.retry n)).stopTimer (.silent n)).retrainLink n) := by
  change execRetrain n s = _
  rw [execRetrain, State.live_next hclk, State.hostRetrain, if_neg (Nat.not_le.mpr hfit)]
  rcases hlst with h | h | h | h <;> rw [h] <;> rfl

theorem execRetrain_of_refused (hfit : n.val < s.nLinks) (hlst : s.lst n = 4 ∨ s.lst n = 6) :
    exec (.retrain n) s = .next (s.event 0x020E [n.val, s.lst n]) := by
  change execRetrain n s = _
  rw [execRetrain, State.live_next hclk, State.hostRetrain, if_neg (Nat.not_le.mpr hfit)]
  rcases hlst with h | h <;> rw [h] <;> rfl

theorem execRetrain_of_unfitted (hfit : s.nLinks ≤ n.val) : exec (.retrain n) s = .next s := by
  change execRetrain n s = _
  rw [execRetrain, State.live_next hclk, State.hostRetrain, if_pos hfit]

theorem execStartSend_of_due (hdue : s.startDue n = true) : exec (.startSend n) s = .next (s.started n) := by
  change execStartSend n s = _
  rw [execStartSend, State.live_next hclk, if_pos hdue]
  rfl

end Commands

end Sys2Proof.Machine

open Sys2Proof Sys2Proof.Machine

/-- Settles O18, a command at a time. What follows the change of the link's state - its lane leaves K1, its move is abandoned - leaves the
link as it is (`State.LinkKeeps`); a retrain is made at once or waits (`State.Retrained`). -/
theorem linksLeaveService : Obligations.LinksLeaveService := by
  intro s n hwf hclk
  refine ⟨fun huse hrun => ?_, fun huse hrun hfree => ?_, execArrivalDrift_of_draining hclk, fun huse hrun => ?_,
    fun hfit hlst => ?_, execRetrain_of_refused hclk, execRetrain_of_unfitted hclk, fun hdue => ?_⟩
  · have hkept : (s.lostLink n).LinkKeeps id n (((s.lostLink n).laneDropped n).moveAbandon n false) :=
      .moveAbandon n.isLt (.laneDropped n.isLt (.refl _))
    refine ⟨_, execLinkLost_of_three hclk huse hrun, ?_, (s.lostLink_raised n).then hkept.keeps, ?_, ?_⟩
    · exact (hkept.lst_eq (State.lostLink_wf hwf _)).trans (State.lostLink_lst hwf n.isLt)
    · exact (congrArg LinkSt.disabling hkept.lk).trans (State.lostLink_disabling hwf n.isLt)
    · exact (hkept.timing _ (by simp [linkTimers])).trans (State.timing_startTimer _ _)
  · have hnot : s.lst n ≠ 2 := by rcases State.usable_iff.mp huse with h | h <;> rw [h] <;> decide
    have hlk := State.drained_lk hwf n.isLt hnot
    refine ⟨_, execArrivalDrift_of_due hclk huse hrun hfree, s.drained_raised n, congrArg LinkSt.drainAt hlk,
      State.drained_lst hwf n.isLt, fun o _ hcup => State.drained_reg hwf hcup, fun _ => ?_⟩
    rw [hlk]
    exact LinkSt.sent_given (s.lk n) cmdDisable 0
  · have htrain := State.retrainLink_retrained (State.event_wf hwf 0x0207 [n.val]) n.isLt
    have hlk : (s.event 0x0207 [n.val]).lk n = s.lk n := by rw [State.lk, State.event_links, State.lk]
    refine ⟨_, execBlockClockFault_of_two hclk huse hrun,
      (State.event_raised _ _ _).then (State.retrainLink_keeps (.refl _) n), fun hidle => ?_, fun hbusy => ?_⟩
    · exact htrain.idle (hlk ▸ hidle)
    · obtain ⟨hlst, hdue, -⟩ := htrain.busy (hlk ▸ hbusy)
      exact ⟨hlst.trans (State.event_fld hwf _ _ _ (State.isCupStat_lstate n.isLt)), hdue⟩
  · have htrain := State.retrainLink_retrained (s := (s.stopTimer (.retry n)).stopTimer (.silent n)) hwf n.isLt
    exact ⟨_, execRetrain_of_taken hclk hfit hlst, htrain.silent.trans (State.timing_stopTimer _ _), htrain.idle, htrain.busy⟩
  · have hlk := State.started_lk hwf n.isLt
    obtain ⟨hidle, hbusy⟩ := LinkSt.sent_given (s.lk n) cmdStart 0
    refine ⟨_, execStartSend_of_due hclk hdue, fun h => ?_, fun h => ?_, congrArg LinkSt.startSent hlk, congrArg LinkSt.disabling hlk,
      s.started_only n⟩
    · obtain ⟨hcmd, -, hleft⟩ := hidle h
      rw [hlk]
      exact ⟨hcmd, hleft⟩
    · rw [hlk]
      exact hbusy h
end

section
/-!
The stop line (spec/03 R68, R446, R73): asserted for links, released by an output, and resumed at a CF tick.
-/

namespace Sys2Proof.Machine

open Sys2Proof

/-- What an entry of a list does to a state holds once all have been handled, where no other entry undoes it. -/
theorem State.each_reaches {α : Type} {P Q : State → Prop} {g : State → α → State} {a : α} {l : List α} (ha : a ∈ l)
    (hP : ∀ {s b}, b ∈ l → b ≠ a → P s → P (g s b)) (hat : ∀ {s}, P s → Q (g s a)) (hQ : ∀ {s b}, b ∈ l → Q s → Q (g s b)) :
    ∀ {s : State}, P s → Q (s.each l g) := by
  induction l with
  | nil => exact absurd ha List.not_mem_nil
  | cons b l ih =>
    intro s hs
    by_cases hb : b = a
    · have hafter : Q (g s b) := hb ▸ hat hs
      exact List.foldlRecOn l g hafter fun _ h _ hc => hQ (List.mem_cons_of_mem _ hc) h
    · exact ih ((List.mem_cons.mp ha).resolve_left (Ne.symm hb)) (fun hc => hP (List.mem_cons_of_mem _ hc))
        (fun hc => hQ (List.mem_cons_of_mem _ hc)) (hP List.mem_cons_self hb hs)

/-! ### Other links and cupping buffers -/

namespace State.LinkKeeps

variable {α : Type} {q : LinkSt → α} {n : Nat} {s0 s : State} (hn : n < 48)

theorem linkTimer_other {m : Nat} (hm : m ≠ n) : ∀ x ∈ linkTimers m, x ∉ linkTimers n := by
  simp [linkTimers, hm]

include hn

theorem toLock_other {m : Nat} (h : s0.LinkKeeps q n s) (hm : m ≠ n) : s0.LinkKeeps q n (s.toLock m) :=
  have hx := linkTimer_other hm
  .updLk_other (.stopTimer (.stopTimer (.setLst_other hn h hm) (hx _ (by simp [linkTimers]))) (hx _ (by simp [linkTimers]))) hm

theorem stopLink_other {m why : Nat} (h : s0.LinkKeeps q n s) (hm : m ≠ n) (hfit : m < 48) : s0.LinkKeeps q n (s.stopLink m why) := by
  have hx := linkTimer_other hm
  refine .iff (.setLinkBit (.stopTimer (.stopTimer (.stopTimer (.updLk_other (.iff (.updLk_other h hm) fun h => ?_) hm) ?_) ?_) ?_)
    (.stopFld hm (by omega))) (.leaveService hn)
  · exact .updLk_other (.setLst_other hn h hm) hm
  · exact hx _ (by simp [linkTimers])
  · exact hx _ (by simp [linkTimers])
  · exact hx _ (by simp [linkTimers])

theorem cupStart {c b : Nat} (h : s0.LinkKeeps q n s) : s0.LinkKeeps q n (s.cupStart c b) := by
  have hset : s0.LinkKeeps q n (s.setFld (CUP_STAT_STATE c b) 3) :=
    .setFld h (.of_block hn (by simp only [R_CUP_STAT]; omega) ⟨by simp, by simp⟩)
  exact hset.of_only (State.updCup_keeps (.refl _) _ _ _) (State.updCup_only (.refl _ _) rfl _ _ _)

theorem cupTrigger {c b : Nat} (h : s0.LinkKeeps q n s) : s0.LinkKeeps q n (s.cupTrigger c b) :=
  .ite (.each h fun _ h => .event hn (.cupStart hn h)) h

end State.LinkKeeps

/-! ### The line is asserted -/

/-- One reason more asserts the line. -/
def LinkSt.assertedBy (l : LinkSt) (why : Nat) : LinkSt :=
  { l with stopBy := if l.stopBy.contains why then l.stopBy else l.stopBy ++ [why] }

theorem LinkSt.assertedBy_stopLine (l : LinkSt) (why : Nat) : (l.assertedBy why).stopLine = true := by
  unfold LinkSt.stopLine LinkSt.assertedBy
  split
  · next h =>
    cases hl : l.stopBy with
    | nil => simp [hl] at h
    | cons a as => rfl
  · simp

/-- The link is in STOP, its line is asserted, and CQ_STOP shows it. -/
structure State.Stopped (s : State) (n : Nat) : Prop where
  wf : s.wf = true
  lst : s.lst n = 6
  line : (s.lk n).stopLine = true
  shown : s.linkBit R_CQ_STOP_LO R_CQ_STOP_HI n = true

theorem State.Stopped.of_kept {s t : State} {n : Nat} (h : s.Stopped n) (k : s.LinkKeeps LinkSt.stopLine n t) : t.Stopped n :=
  ⟨k.keeps.wf h.wf, (k.lst_eq h.wf).trans h.lst, k.lk.trans h.line, (k.stop_eq h.wf).trans h.shown⟩

theorem State.shown_setLinkBit {s : State} (hwf : s.wf = true) {n : Nat} (hn : n < 48) (b : Bool) :
    (s.setLinkBit R_CQ_STOP_LO R_CQ_STOP_HI n b).linkBit R_CQ_STOP_LO R_CQ_STOP_HI n = b := by
  rw [State.setLinkBit_eq_setFlag, State.linkBit_eq_flag]
  exact (State.canon_of_wf hwf).flag_setFlag b (linkFld_one_bit _ _ _) (linkFld_in_word (by omega) _ _).2

theorem State.lst_setLinkBit {s : State} (hwf : s.wf = true) {n : Nat} (b : Bool) :
    (s.setLinkBit R_CQ_STOP_LO R_CQ_STOP_HI n b).lst n = s.lst n := by
  rw [State.setLinkBit_eq_setFlag]
  exact State.fld_setFld_ne hwf _ _ _ (Nat.ne_of_gt (Nat.lt_of_le_of_lt (stopFld_reg_le n) (Nat.lt_add_right _ (by decide))))

/-- The serialiser sends STOP from `at'` on, and nothing that waited goes out. -/
def LinkSt.sendingStop (l : LinkSt) (at' : Nat) : LinkSt :=
  { l with
    stopAt := at', stopTold := false, validRun := 0, invalidRun := 0, startSent := false, cmdLeft := 0, cmdNext := []
    disabling := false, drainAt := none, retrainDue := false, freeing := false
    tx := if l.freeing then l.tx else l.tx ++ [(1, .stop)] }

/-- The line is asserted for `why`, and a link that is in another state enters STOP. -/
def State.stopEntered (s : State) (n why : Nat) : State :=
  (s.updLk n (·.assertedBy why)).iff (s.lst n != 6) fun u =>
    (u.setLst n 6).updLk n fun l => { l with stopAligned := s.lst n == 3 || s.lst n == 4 || s.lst n == 5 }

/-- The link's timers are stopped, and CQ_STOP shows the stop. -/
def State.untimed (s : State) (n : Nat) : State := ((s.stopTimer (.train n)).stopTimer (.retry n)).stopTimer (.silent n)
def State.stopShown (s : State) (n : Nat) : State := (s.untimed n).setLinkBit R_CQ_STOP_LO R_CQ_STOP_HI n true

theorem State.stopLink_eq (s : State) (n why : Nat) :
    s.stopLink n why = (((s.stopEntered n why).updLk n (·.sendingStop (if (s.lk n).freeing then (s.lk n).stopAt else s.stopStart n))).stopShown
      n).iff (s.lst n != 6) (·.leaveService n) := rfl

section Enter

variable {s : State} (hwf : s.wf = true) {n : Nat} (hn : n < 48)

theorem State.stopEntered_keeps (s : State) (n why : Nat) : s.Keeps (s.stopEntered n why) :=
  State.iff_keeps (State.updLk_keeps (.refl s) _ _) _ _ fun _ h => State.updLk_keeps (State.setLst_keeps h _ _) _ _

include hwf hn

theorem State.stopEntered_lst (why : Nat) : (s.stopEntered n why).lst n = 6 := by
  unfold State.stopEntered State.iff
  split
  · exact State.setLst_lst (s := s.updLk n _) ((State.updLk_keeps (.refl s) _ _).wf hwf) hn (by decide)
  · next h => exact bne_eq_false_iff_eq.mp (Bool.eq_false_of_not_eq_true h)

theorem State.stopEntered_line (why : Nat) : ((s.stopEntered n why).lk n).stopLine = true := by
  have hmarked := (State.updLk_keeps (.refl s) n (·.assertedBy why)).wf hwf
  have hline : ((s.updLk n (·.assertedBy why)).lk n).stopLine = true := by
    rw [State.lk_updLk hwf hn, LinkSt.assertedBy_stopLine]
  unfold State.stopEntered State.iff
  split
  · rw [State.lk_updLk ((State.setLst_keeps (.refl _) n 6).wf hmarked) hn, State.setLst_lk]
    exact hline
  · exact hline

theorem State.stopShown_stopped (hlst : s.lst n = 6) (hline : (s.lk n).stopLine = true) : (s.stopShown n).Stopped n := by
  have hset : (s.stopShown n).lst n = s.lst n := State.lst_setLinkBit (s := s.untimed n) hwf true
  refine ⟨(State.setLinkBit_keeps (.refl (s.untimed n)) _ _ _ _).wf hwf, hset.trans hlst, ?_,
    State.shown_setLinkBit (s := s.untimed n) hwf hn true⟩
  rw [State.stopShown, State.setLinkBit_eq_setFlag]
  exact hline

/-- A link that the line takes is in STOP, whatever state it was in (R73). -/
theorem State.stopLink_stopped (why : Nat) : (s.stopLink n why).Stopped n := by
  have hentered : (s.stopEntered n why).wf = true := (s.stopEntered_keeps n why).wf hwf
  rw [State.stopLink_eq]
  refine State.Stopped.of_kept (State.stopShown_stopped ((State.updLk_keeps (.refl _) _ _).wf hentered) hn
    (State.stopEntered_lst hwf hn why) ?_) (.iff (.refl _) (.leaveService hn))
  rw [State.lk_updLk hentered hn]
  exact State.stopEntered_line hwf hn why

end Enter

/-- The links among those named that are not OFF and whose line is asserted already, and the others. -/
def State.oldStops (s : State) (ns : List Nat) : List Nat := (ns.filter fun n => s.lst n != 0).filter fun n => (s.lk n).stopLine
def State.newStops (s : State) (ns : List Nat) : List Nat := (ns.filter fun n => s.lst n != 0).filter fun n => !(s.lk n).stopLine

/-- The cupping buffers that a stop of links triggers (spec/04 R104). -/
def State.stopCups (s : State) (ns : List Nat) : State :=
  s.each (allCups.filter fun p => ((idx 2).filter fun c => ns.any fun n => s.linkCe n == c).contains p.1 &&
    s.fld (CUP_TRIG_KIND p.1 p.2) == 5) fun s p => s.cupTrigger p.1 p.2

/-- The links whose line was asserted already have one reason more. -/
def State.markOld (s : State) (ns : List Nat) (why : Nat) : State := s.each (s.oldStops ns) fun s n => s.updLk n (·.assertedBy why)

/-- The others go to STOP. -/
def State.stopNew (s : State) (ns new : List Nat) (why : Nat) : State := (s.markOld ns why).each new fun s n => s.stopLink n why

theorem State.stopLines_eq (s : State) (ns : List Nat) (why : Nat) :
    s.stopLines ns why = if (s.newStops ns).isEmpty then s.markOld ns why
      else ((s.stopNew ns (s.newStops ns) why).event 0x0209 ((s.newStops ns).headD 0 :: linkMasks (s.newStops ns))).stopCups (s.newStops ns) :=
  rfl

theorem State.mem_newStops {s : State} {ns : List Nat} {n : Nat} :
    n ∈ s.newStops ns ↔ n ∈ ns ∧ s.lst n ≠ 0 ∧ (s.lk n).stopLine = false := by
  rw [State.newStops, List.mem_filter, List.mem_filter, and_assoc]
  simp

theorem State.mem_of_oldStops {s : State} {ns : List Nat} {n : Nat} (h : n ∈ s.oldStops ns) : n ∈ ns :=
  List.mem_of_mem_filter (List.mem_of_mem_filter h)

section Assert

variable {s : State} {n : Nat} (hn : n < 48) {ns : List Nat} (hns : ∀ m ∈ ns, m < 48)

include hn

theorem State.LinkKeeps.stopCups {s0 : State} {α : Type} {q : LinkSt → α} (h : s0.LinkKeeps q n s) : s0.LinkKeeps q n (s.stopCups ns) :=
  .each h fun _ h => .cupTrigger hn h

include hns

/-- A link that is not named stays as it is. -/
theorem State.LinkKeeps.stopLines_other {s0 : State} {α : Type} {q : LinkSt → α} (h : s0.LinkKeeps q n s) (hnot : n ∉ ns) (why : Nat) :
    s0.LinkKeeps q n (s.stopLines ns why) := by
  have hold : s0.LinkKeeps q n (s.markOld ns why) := .each h fun hm h => .updLk_other h (ne_of_mem_of_not_mem (State.mem_of_oldStops hm) hnot)
  rw [State.stopLines_eq]
  refine .ite hold (.stopCups hn (.event hn (.each hold fun hm h => ?_)))
  have hmem := (State.mem_newStops.mp hm).1
  exact .stopLink_other hn h (ne_of_mem_of_not_mem hmem hnot) (hns _ hmem)

omit hns in
theorem State.Stopped.stopLink (h : s.Stopped n) {m : Nat} (hm : m < 48) (why : Nat) : (s.stopLink m why).Stopped n := by
  by_cases hmn : m = n
  · exact hmn ▸ State.stopLink_stopped h.wf (hmn ▸ hn) why
  · exact h.of_kept (.stopLink_other hn (.refl s) hmn hm)

omit hns in
theorem State.Stopped.assertedBy (h : s.Stopped n) (m why : Nat) : (s.updLk m (·.assertedBy why)).Stopped n := by
  by_cases hmn : m = n
  · refine ⟨(State.updLk_keeps (.refl s) _ _).wf h.wf, h.lst, ?_, h.shown⟩
    rw [hmn, State.lk_updLk h.wf hn, LinkSt.assertedBy_stopLine]
  · exact h.of_kept (.updLk_other (.refl s) hmn)

/-- A stopped link stays stopped, named or not. -/
theorem State.Stopped.stopLines (h : s.Stopped n) (why : Nat) : (s.stopLines ns why).Stopped n := by
  have hold : (s.markOld ns why).Stopped n := List.foldlRecOn (motive := fun u : State => u.Stopped n) _ _ h fun _ h m _ => State.Stopped.assertedBy hn h m why
  rw [State.stopLines_eq]
  split
  · exact hold
  · have hnew : (s.stopNew ns (s.newStops ns) why).Stopped n :=
      List.foldlRecOn (motive := fun u : State => u.Stopped n) _ _ hold fun _ h m hm => State.Stopped.stopLink hn h (hns m (State.mem_newStops.mp hm).1) why
    exact hnew.of_kept (.stopCups hn (.event hn (.refl _)))

/-- A link that is named, is not OFF and has no line asserted goes to STOP. -/
theorem State.stopLines_stopped (hwf : s.wf = true) (hmem : n ∈ ns) (hlst : s.lst n ≠ 0) (hline : (s.lk n).stopLine = false) (why : Nat) :
    (s.stopLines ns why).Stopped n := by
  have hin : n ∈ s.newStops ns := State.mem_newStops.mpr ⟨hmem, hlst, hline⟩
  have hold : (s.markOld ns why).wf = true := (State.each_keeps (.refl s) _ _ fun _ _ h => State.updLk_keeps h _ _).wf hwf
  have hnew : (s.stopNew ns (s.newStops ns) why).Stopped n :=
    State.each_reaches (P := fun u => u.wf = true) (Q := fun u => u.Stopped n) (g := fun u m => u.stopLink m why) hin
      (fun _ _ h => (State.stopLink_keeps (.refl _) _ _).wf h)
      (fun h => State.stopLink_stopped h hn why) (fun hm h => State.Stopped.stopLink hn h (hns _ (State.mem_newStops.mp hm).1) why) hold
  rw [State.stopLines_eq, if_neg (by simp [List.isEmpty_iff, List.ne_nil_of_mem hin])]
  exact hnew.of_kept (.stopCups hn (.event hn (.refl _)))

end Assert

/-- The links of one reason after those of another. -/
def State.stopGroups (s : State) (ls whys : List Nat) : State :=
  s.each whys fun s' w => s'.stopLines (ls.filter fun n => s.stopReason n == w) w

theorem execStopLineAssert_eq {s : State} (hclk : s.clocked = true) (links : List (Fin 48)) :
    exec (.stopLineAssert links) s = .next (s.stopGroups (links.map (·.val)) ((links.map (·.val)).map s.stopReason).eraseDups) := by
  change execStopLineAssert links s = _
  rw [execStopLineAssert, State.live_next hclk]
  rfl

/-- Every link named is reached: those of other reasons leave it as it is before, and stopped after. -/
theorem State.stopGroups_stopped {s : State} (hwf : s.wf = true) {n : Nat} (hn : n < 48) {ls whys : List Nat} (hls : ∀ m ∈ ls, m < 48)
    (hmem : n ∈ ls) (hwhy : s.stopReason n ∈ whys) (hlst : s.lst n ≠ 0) (hline : (s.lk n).stopLine = false) :
    (s.stopGroups ls whys).Stopped n := by
  have hgroup (w : Nat) : ∀ m ∈ ls.filter (fun n => s.stopReason n == w), m < 48 := fun m hm => hls m (List.mem_of_mem_filter hm)
  refine State.each_reaches (P := fun u => s.LinkKeeps id n u) (Q := fun u => u.Stopped n) hwhy (fun _ hne h => ?_) (fun h => ?_)
    (fun _ h => State.Stopped.stopLines hn (hgroup _) h _) (.refl s)
  · exact h.stopLines_other hn (hgroup _) (fun hin => hne (beq_iff_eq.mp (List.mem_filter.mp hin).2).symm) _
  · refine State.stopLines_stopped hn (hgroup _) (h.keeps.wf hwf) (List.mem_filter.mpr ⟨hmem, by simp⟩) ?_ ?_ _
    · rwa [h.lst_eq hwf]
    · exact (congrArg LinkSt.stopLine h.lk).trans hline

/-! ### The event of one link -/

theorem linkMasks_single (n : Nat) : linkMasks [n] = if n < 32 then [2 ^ n, 0] else [0, 2 ^ (n - 32)] := by
  have hbit (k : Nat) : setBit 0 k true = 2 ^ k := by simp [setBit, bit]
  by_cases h : n < 32
  · simp [linkMasks, h, hbit]
  · simp [linkMasks, h, Nat.not_lt.mp h, hbit]

theorem State.stopLines_single_raised {s : State} {n : Nat} (hlst : s.lst n ≠ 0) (hline : (s.lk n).stopLine = false) (why : Nat) :
    s.Raised (s.stopLines [n] why) 0x0209 (n :: linkMasks [n]) := by
  have hnew : s.newStops [n] = [n] := by simp [State.newStops, hlst, hline]
  rw [State.stopLines_eq, hnew]
  exact ((State.event_raised _ _ _).after (State.each_keeps (State.each_keeps (.refl s) _ _ fun _ _ h => State.updLk_keeps h _ _) _ _
    fun _ _ h => State.stopLink_keeps h _ _)).then (State.each_keeps (.refl _) _ _ fun _ _ h => State.cupTrigger_keeps h _ _)

theorem State.stopGroups_single (s : State) (n : Nat) : s.stopGroups [n] ([n].map s.stopReason).eraseDups = s.stopLines [n] (s.stopReason n) := by
  simp [State.stopGroups, State.each, List.eraseDups_cons]

/-! ### The line is released -/

/-- One reason less asserts the line. -/
def LinkSt.releasedBy (l : LinkSt) (why : Nat) : LinkSt := { l with stopBy := l.stopBy.filter (· != why) }

/-- The line is free, and the serialiser resumes at the next CF tick. -/
def LinkSt.freed (l : LinkSt) : LinkSt := { l with validRun := 0, startSent := false, freeing := true }

/-- The links among those named whose line is asserted, without one reason; of these the ones that nothing asserts any more. -/
def State.heldLines (s : State) (ns : List Nat) : List Nat := ns.filter fun n => (s.lk n).stopLine
def State.lessWhy (s : State) (ns : List Nat) (why : Nat) : State := s.each (s.heldLines ns) fun s n => s.updLk n (·.releasedBy why)
def State.freeLines (s : State) (ns : List Nat) (why : Nat) : List Nat :=
  (s.heldLines ns).filter fun n => !((s.lessWhy ns why).lk n).stopLine

/-- The free lines are marked and told. -/
def State.freeTold (s : State) (ns freed : List Nat) (why : Nat) : State :=
  ((s.lessWhy ns why).each freed fun s n => s.updLk n .freed).event 0x020A (freed.headD 0 :: linkMasks freed)

/-- A link in STOP that held no delay goes to LOCK (Table 3.15). -/
def State.unheldToLock (s : State) (n : Nat) : State := s.iff (s.lst n == 6 && !(s.lk n).stopAligned) (·.toLock n)

theorem State.releaseLines_eq (s : State) (ns : List Nat) (why : Nat) :
    s.releaseLines ns why = if (s.freeLines ns why).isEmpty then s.lessWhy ns why
      else (s.freeTold ns (s.freeLines ns why) why).each (s.freeLines ns why) fun s n => s.unheldToLock n := rfl

theorem State.mem_heldLines {s : State} {ns : List Nat} {n : Nat} : n ∈ s.heldLines ns ↔ n ∈ ns ∧ (s.lk n).stopLine = true :=
  List.mem_filter

/-- From `s` to `u` nothing asserts the line of link `n` any more; whether it held a delay, its state and its bit of CQ_STOP stay. -/
structure State.LineFree (s : State) (n : Nat) (u : State) : Prop where
  kept : s.LinkKeeps LinkSt.stopAligned n u
  line : (u.lk n).stopBy = []

section Release

variable {s : State} (hwf : s.wf = true) {n : Nat} (hn : n < 48) {ns : List Nat} {why : Nat}

include hn

theorem State.LinkKeeps.unheldToLock_other {s0 : State} {α : Type} {q : LinkSt → α} (h : s0.LinkKeeps q n s) {m : Nat} (hm : m ≠ n) :
    s0.LinkKeeps q n (s.unheldToLock m) := .iff h fun h => .toLock_other hn h hm

/-- A link whose line is not asserted stays as it is. -/
theorem State.LinkKeeps.releaseLines_other {s0 : State} {α : Type} {q : LinkSt → α} (h : s0.LinkKeeps q n s)
    (hline : (s.lk n).stopLine = false) (ns : List Nat) (why : Nat) : s0.LinkKeeps q n (s.releaseLines ns why) := by
  have hother : ∀ m ∈ s.heldLines ns, m ≠ n := fun m hm e => by
    have := (State.mem_heldLines.mp hm).2
    rw [e, hline] at this
    contradiction
  have hless : s0.LinkKeeps q n (s.lessWhy ns why) := .each h fun hm h => .updLk_other h (hother _ hm)
  have hfreed : ∀ m ∈ s.freeLines ns why, m ≠ n := fun m hm => hother m (List.mem_of_mem_filter hm)
  rw [State.releaseLines_eq]
  exact .ite hless (.each (.event hn (.each hless fun hm h => .updLk_other h (hfreed _ hm))) fun hm h =>
    .unheldToLock_other hn h (hfreed _ hm))

include hwf

theorem State.LineFree.updLk {u : State} (h : s.LineFree n u) (m : Nat) {g : LinkSt → LinkSt}
    (hg : ∀ l, (g l).stopAligned = l.stopAligned ∧ (l.stopBy = [] → (g l).stopBy = [])) : s.LineFree n (u.updLk m g) := by
  refine ⟨.updLk h.kept fun {l} => (hg l).1, ?_⟩
  by_cases hmn : m = n
  · rw [hmn, State.lk_updLk (h.kept.keeps.wf hwf) hn]
    exact (hg _).2 h.line
  · exact (congrArg LinkSt.stopBy (nth_upd_other _ _ hmn _)).trans h.line

/-- The one reason that asserts the line is gone. -/
theorem State.lessWhy_free (hmem : n ∈ ns) (hby : (s.lk n).stopBy = [why]) : s.LineFree n (s.lessWhy ns why) := by
  have hheld : n ∈ s.heldLines ns := State.mem_heldLines.mpr ⟨hmem, by simp [LinkSt.stopLine, hby]⟩
  have hgone : ∀ l : LinkSt, (l.releasedBy why).stopAligned = l.stopAligned ∧ (l.stopBy = [] → (l.releasedBy why).stopBy = []) :=
    fun l => ⟨rfl, fun h => by simp [LinkSt.releasedBy, h]⟩
  refine State.each_reaches (P := fun u => s.LinkKeeps id n u) (Q := fun u => s.LineFree n u)
    (g := fun u m => u.updLk m (·.releasedBy why)) hheld (fun _ hne h => .updLk_other h hne) (fun {u} h => ?_)
    (fun {u b} _ h => h.updLk hwf hn b hgone) (.refl s)
  refine ⟨.updLk ⟨congrArg LinkSt.stopAligned h.lk, h.lst, h.stop, h.timing⟩ rfl, ?_⟩
  have hlk : u.lk n = s.lk n := h.lk
  rw [State.lk_updLk (h.keeps.wf hwf) hn, LinkSt.releasedBy, hlk, hby]
  simp

theorem State.mem_freeLines (hmem : n ∈ ns) (hby : (s.lk n).stopBy = [why]) : n ∈ s.freeLines ns why := by
  refine List.mem_filter.mpr ⟨State.mem_heldLines.mpr ⟨hmem, by simp [LinkSt.stopLine, hby]⟩, ?_⟩
  simp [LinkSt.stopLine, (State.lessWhy_free hwf hn hmem hby).line]

/-- It is marked as free. -/
theorem State.freeTold_free (hmem : n ∈ ns) (hby : (s.lk n).stopBy = [why]) :
    s.LineFree n (s.freeTold ns (s.freeLines ns why) why) ∧ ((s.freeTold ns (s.freeLines ns why) why).lk n).freeing = true := by
  have hmarked : s.LineFree n ((s.lessWhy ns why).each (s.freeLines ns why) fun u m => u.updLk m .freed) ∧
      (((s.lessWhy ns why).each (s.freeLines ns why) fun u m => u.updLk m .freed).lk n).freeing = true := by
    refine State.each_reaches (P := fun u => s.LineFree n u) (Q := fun u => s.LineFree n u ∧ (u.lk n).freeing = true)
      (g := fun u m => u.updLk m .freed) (State.mem_freeLines hwf hn hmem hby)
      (fun {u b} _ _ h => h.updLk hwf hn b fun _ => ⟨rfl, id⟩) (fun {u} h => ⟨h.updLk hwf hn n fun _ => ⟨rfl, id⟩, ?_⟩)
      (fun {u b} _ h => ⟨h.1.updLk hwf hn b fun _ => ⟨rfl, id⟩, ?_⟩) (State.lessWhy_free hwf hn hmem hby)
    · rw [State.lk_updLk (h.kept.keeps.wf hwf) hn]
      rfl
    · obtain ⟨hfree, hfreeing⟩ := h
      by_cases hbn : b = n
      · rw [hbn, State.lk_updLk (hfree.kept.keeps.wf hwf) hn]
        rfl
      · exact (congrArg LinkSt.freeing (nth_upd_other _ _ hbn _)).trans hfreeing
  obtain ⟨⟨hkept, hline⟩, hfreeing⟩ := hmarked
  refine ⟨⟨.event hn hkept, ?_⟩, ?_⟩
  · rwa [State.lk, State.freeTold, State.event_links]
  · rwa [State.lk, State.freeTold, State.event_links]

/-! ### The way to LOCK -/

/-- The line stays free whichever link goes to LOCK. -/
theorem State.unheldToLock_line (m : Nat) :
    ((s.unheldToLock m).lk n).stopBy = (s.lk n).stopBy ∧ ((s.unheldToLock m).lk n).freeing = (s.lk n).freeing ∧
      s.Leaves (stopFld n) (s.unheldToLock m) := by
  by_cases hmn : m = n
  · subst hmn
    have hspared : (stopFld m).sparedBy (CQ_STATE_LSTATE m) = true := Fld.sparedBy_of_reg_ne
      (Nat.ne_of_lt (Nat.lt_of_le_of_lt (stopFld_reg_le m) (Nat.lt_add_right _ (by decide)))) ⟨by simp, by simp⟩
    have hcup : isCupStat (stopFld m).reg = false :=
      isCupStat_block (Nat.ne_of_lt (Nat.lt_of_le_of_lt (Nat.div_le_div_right (stopFld_reg_le m)) (by decide)))
    have hset : s.Leaves (stopFld m) (s.setLst m 1) := .setLst (.refl s) hspared hcup
    have hlock : s.Leaves (stopFld m) (s.toLock m) :=
      hset.same_regs (State.updLk_keeps (State.stopTimer_keeps (State.stopTimer_keeps (.refl _) _) _) m LinkSt.locking) rfl
    unfold State.unheldToLock State.iff
    split
    · rw [State.toLock_lk hwf hn]
      exact ⟨rfl, rfl, hlock⟩
    · exact ⟨rfl, rfl, .refl s⟩
  · have hkept : s.LinkKeeps id n (s.unheldToLock m) := .unheldToLock_other hn (.refl s) hmn
    exact ⟨congrArg LinkSt.stopBy hkept.lk, congrArg LinkSt.freeing hkept.lk, hkept.stop⟩

omit hwf in
/-- A link that held a delay stays in STOP. -/
theorem State.LinkKeeps.unheldToLock_held {s0 : State} (hheld : (s0.lk n).stopAligned = true) (h : s0.LinkKeeps id n s) (m : Nat) :
    s0.LinkKeeps id n (s.unheldToLock m) := by
  by_cases hmn : m = n
  · subst hmn
    have hlk : s.lk m = s0.lk m := h.lk
    rw [State.unheldToLock, hlk, hheld, Bool.not_true, Bool.and_false]
    exact h
  · exact .unheldToLock_other hn h hmn

/-- One that held none is in LOCK once all have been handled. -/
theorem State.each_unheldToLock_lst {l : List Nat} (hmem : n ∈ l) (hlst : s.lst n = 6) (hheld : (s.lk n).stopAligned = false) :
    (s.each l fun u m => u.unheldToLock m).lst n = 1 := by
  have hreach : (s.each l fun u m => u.unheldToLock m).wf = true ∧ (s.each l fun u m => u.unheldToLock m).lst n = 1 := by
    refine State.each_reaches (P := fun u => s.LinkKeeps id n u) (Q := fun u => u.wf = true ∧ u.lst n = 1) hmem
      (fun _ hne h => .unheldToLock_other hn h hne) (fun {u} h => ?_) (fun {u b} _ h => ?_) (.refl s)
    · have hlk : u.lk n = s.lk n := h.lk
      have hlock : u.unheldToLock n = u.toLock n := if_pos (by simp [h.lst_eq hwf, hlst, hlk, hheld])
      have hu := h.keeps.wf hwf
      rw [hlock]
      exact ⟨(State.toLock_keeps (.refl u) n).wf hu, State.toLock_lst hu hn⟩
    · obtain ⟨hu, hone⟩ := h
      by_cases hbn : b = n
      · have hstay : u.unheldToLock b = u := if_neg (by simp [hbn, hone])
        rw [hstay]
        exact ⟨hu, hone⟩
      · have hkept : u.LinkKeeps id n (u.unheldToLock b) := .unheldToLock_other hn (.refl u) hbn
        exact ⟨hkept.keeps.wf hu, (hkept.lst_eq hu).trans hone⟩
  exact hreach.2

end Release

/-- The line of link `n` is released between `s` and `t`, and the serialiser sends STOP until the next CF tick. -/
structure State.Released (s : State) (n : Nat) (t : State) : Prop where
  line : (t.lk n).stopBy = []
  freeing : (t.lk n).freeing = true
  shown : t.linkBit R_CQ_STOP_LO R_CQ_STOP_HI n = s.linkBit R_CQ_STOP_LO R_CQ_STOP_HI n
  toLock : s.lst n = 6 → (s.lk n).stopAligned = false → t.lst n = 1
  stays : s.lst n = 6 → (s.lk n).stopAligned = true → t.lst n = 6
  wf : t.wf = true
  raised : ∃ m, s.Raised t 0x020A m

theorem State.Released.of_kept {s t u : State} {n : Nat} (h : s.Released n t) (k : t.LinkKeeps id n u) : s.Released n u := by
  obtain ⟨m, hraised⟩ := h.raised
  have hlst := k.lst_eq h.wf
  exact ⟨(congrArg LinkSt.stopBy k.lk).trans h.line, (congrArg LinkSt.freeing k.lk).trans h.freeing, (k.stop_eq h.wf).trans h.shown,
    fun h6 ha => hlst.trans (h.toLock h6 ha), fun h6 ha => hlst.trans (h.stays h6 ha), k.keeps.wf h.wf, m, hraised.then k.keeps⟩

theorem State.Released.stopLine {s t : State} {n : Nat} (h : s.Released n t) : (t.lk n).stopLine = false := by
  simp [LinkSt.stopLine, h.line]

theorem State.freeTold_raised (s : State) (ns freed : List Nat) (why : Nat) :
    s.Raised (s.freeTold ns freed why) 0x020A (freed.headD 0 :: linkMasks freed) :=
  (State.event_raised _ _ _).after (State.each_keeps (State.each_keeps (.refl s) _ _ fun _ _ h => State.updLk_keeps h _ _) _ _
    fun _ _ h => State.updLk_keeps h _ _)

theorem State.unheldToLock_keeps {s0 s : State} (h : s0.Keeps s) (n : Nat) : s0.Keeps (s.unheldToLock n) :=
  State.iff_keeps h _ _ fun _ h => State.toLock_keeps h n

/-- A line that one reason alone asserts is released with it (R68). -/
theorem State.releaseLines_released {s : State} (hwf : s.wf = true) {n : Nat} (hn : n < 48) {ns : List Nat} {why : Nat} (hmem : n ∈ ns)
    (hby : (s.lk n).stopBy = [why]) : s.Released n (s.releaseLines ns why) := by
  have hin := State.mem_freeLines hwf hn hmem hby
  obtain ⟨⟨hkept, hline⟩, hfreeing⟩ := State.freeTold_free hwf hn hmem hby
  have hraised := s.freeTold_raised ns (s.freeLines ns why) why
  rw [State.releaseLines_eq, if_neg (by simp [List.isEmpty_iff, List.ne_nil_of_mem hin])]
  generalize s.freeTold ns (s.freeLines ns why) why = v at *
  generalize s.freeLines ns why = freed at *
  have hv := hkept.keeps.wf hwf
  have hkeeps : v.Keeps (v.each freed fun u m => u.unheldToLock m) :=
    State.each_keeps (.refl v) _ _ fun _ m h => State.unheldToLock_keeps h m
  have hfree : ((v.each freed fun u m => u.unheldToLock m).lk n).stopBy = [] ∧
      ((v.each freed fun u m => u.unheldToLock m).lk n).freeing = true ∧
      v.Leaves (stopFld n) (v.each freed fun u m => u.unheldToLock m) := by
    refine List.foldlRecOn (motive := fun u : State => (u.lk n).stopBy = [] ∧ (u.lk n).freeing = true ∧ v.Leaves (stopFld n) u)
      _ _ ⟨hline, hfreeing, .refl v⟩ fun u hu m _ => ?_
    obtain ⟨hby', hfreeing', hstop⟩ := hu
    obtain ⟨h1, h2, h3⟩ := State.unheldToLock_line (hstop.keeps.wf hv) hn m
    exact ⟨h1.trans hby', h2.trans hfreeing', hstop.trans h3⟩
  refine ⟨hfree.1, hfree.2.1, ?_, fun h6 ha => ?_, fun h6 ha => ?_, hkeeps.wf hv, _, hraised.then hkeeps⟩
  · rw [State.linkBit_eq_flag, hfree.2.2.flag_of hv, ← State.linkBit_eq_flag, hkept.stop_eq hwf]
  · exact State.each_unheldToLock_lst hv hn hin ((hkept.lst_eq hwf).trans h6) (hkept.lk.trans ha)
  · have hsame : v.LinkKeeps id n (v.each freed fun u m => u.unheldToLock m) :=
      .each (.refl v) fun {u m} _ h => h.unheldToLock_held hn (hkept.lk.trans ha) m
    exact (hsame.lst_eq hv).trans ((hkept.lst_eq hwf).trans h6)

/-- An output whose pair reads off, with its current at rest, releases its own line; the releases that follow leave a free line. -/
theorem State.releaseOutput_released {s : State} (hwf : s.wf = true) {n : Nat} (hn : n < 48) {j : Nat} (hoff : s.pairReads j = false)
    (hrest : (s.fastI j).natAbs ≤ 2000) (hby : (s.lk n).stopBy = [j]) : s.Released n (s.releaseOutput j) := by
  have hown := State.releaseLines_released hwf hn (List.mem_range.mpr hn) hby
  have hpool := hown.of_kept (.releaseLines_other hn (.refl _) hown.stopLine (idx 48) 10)
  rw [State.releaseOutput, if_pos (by simp [hoff, hrest])]
  extract_lets freed
  unfold State.iff
  split
  · exact hpool.of_kept (.releaseLines_other hn (.refl _) hpool.stopLine _ 8)
  · exact hpool

theorem execStopLineRelease_eq {s : State} (hclk : s.clocked = true) (j : Fin 8) :
    exec (.stopLineRelease j) s = .next (s.releaseOutput j) := State.live_next hclk _

/-! ### The serialiser resumes -/

theorem LinkSt.cfTick_sendsStop {l : LinkSt} (hline : l.stopLine = false) (total : Nat) (x : LineSym) :
    (l.cfTick total x).sendsStop = false := by
  have hsame : (l.cfTick total x).stopLine = l.stopLine := rfl
  rw [LinkSt.sendsStop, hsame, hline]
  rfl

/-- At the CF tick the serialiser of a released line resumes, and its bit of CQ_STOP clears (R68). -/
theorem State.linkSend_resumes {s : State} (hwf : s.wf = true) {n : Nat} (hn : n < 48) (hlst : s.lst n ≠ 0) (hpd : s.pdGood 7 = true)
    (hfreeing : (s.lk n).freeing = true) (hline : (s.lk n).stopLine = false) :
    (s.linkSend n).linkBit R_CQ_STOP_LO R_CQ_STOP_HI n = false ∧ ((s.linkSend n).lk n).sendsStop = false := by
  have hlk : (s.setLinkBit R_CQ_STOP_LO R_CQ_STOP_HI n false).lk n = s.lk n := by
    rw [State.setLinkBit_eq_setFlag]
    rfl
  rw [State.linkSend, if_neg (by simp [hlst, hpd])]
  simp only [State.iff, hfreeing, hline, Bool.not_false, Bool.and_self, if_true]
  refine ⟨State.shown_setLinkBit hwf hn false, ?_⟩
  rw [State.lk_updLk ((State.setLinkBit_keeps (.refl s) _ _ _ _).wf hwf) hn, hlk]
  exact LinkSt.cfTick_sendsStop hline _ _

end Sys2Proof.Machine

open Sys2Proof Sys2Proof.Machine

/-- Settles O19: the links of each reason are taken in turn, none undoing what another does (`State.Stopped`, `State.LinkKeeps`); a
release frees a line that its reason alone holds (`State.Released`), and the next CF tick resumes the serialiser. -/
theorem stopLine : Obligations.StopLine := by
  intro s hwf hclk
  refine ⟨fun links => ⟨_, execStopLineAssert_eq hclk links, fun n hmem hlst hline => ?_⟩, fun n hlst hline => ?_,
    fun j n hoff hrest hby => ?_, fun n hlst hpd hfreeing hline => State.linkSend_resumes hwf n.isLt hlst hpd hfreeing hline⟩
  · have hls : ∀ m ∈ links.map (·.val), m < 48 := fun m hm => by
      obtain ⟨k, -, rfl⟩ := List.mem_map.mp hm
      exact k.isLt
    have hin : n.val ∈ links.map (·.val) := List.mem_map_of_mem hmem
    have hstopped := State.stopGroups_stopped hwf n.isLt hls hin (List.mem_eraseDups.mpr (List.mem_map_of_mem hin)) hlst hline
    exact ⟨hstopped.lst, hstopped.line, hstopped.shown⟩
  · refine ⟨_, execStopLineAssert_eq hclk [n], ?_⟩
    have hraised := State.stopLines_single_raised hlst hline (s.stopReason n)
    rw [linkMasks_single, ← State.stopGroups_single] at hraised
    split
    · next h =>
      rw [if_pos h] at hraised
      exact hraised
    · next h =>
      rw [if_neg h] at hraised
      exact hraised
  · have hfree := State.releaseOutput_released hwf n.isLt hoff hrest hby
    obtain ⟨m, hraised⟩ := hfree.raised
    exact ⟨_, m, execStopLineRelease_eq hclk j, hfree.stopLine, hraised, hfree.shown, by simp [LinkSt.sendsStop, hfree.freeing],
      hfree.toLock, hfree.stays⟩
end

section
/-!
The judgement of an upstream frame (spec/03 R53 to R55, R66): frames that are missing, late, violated or corrupted.
-/

namespace Sys2Proof.Machine

open Sys2Proof

/-! ### A frame that is counted -/

/-- A link whose frame of this CF brings no sample. -/
def LinkSt.lacking (l : LinkSt) : LinkSt := { l with judged := true, valid := false, validRun := 0, driftRun := 0 }

/-- A link whose frame of this CF is invalid. -/
def LinkSt.invalid (l : LinkSt) : LinkSt := { l.lacking with invalidRun := l.invalidRun + 1 }

/-- The CF is invalid for the link, which is told once in an SF (R66). -/
def State.invalidFrame (s : State) (n : Nat) : State :=
  if (s.lk n).told204 then s.updLk n .invalid
  else ((s.updLk n .invalid).updLk n fun l => { l with told204 := true }).event 0x0204 [n]

theorem State.updLk_updLk (s : State) (n : Nat) (f g : LinkSt → LinkSt) : (s.updLk n f).updLk n g = s.updLk n (g ∘ f) := by
  simp only [State.updLk, upd, List.modify_modify_eq]

theorem State.alignedLink_congr {s t : State} {n : Nat} (hlst : t.lst n = s.lst n)
    (hheld : (t.lk n).stopAligned = (s.lk n).stopAligned) : t.alignedLink n = s.alignedLink n := by
  rw [State.alignedLink, hlst, hheld, State.alignedLink]

theorem State.alignedLink_lst {s : State} {n : Nat} (h : s.alignedLink n = true) : s.lst n ≠ 0 ∧ s.lst n ≠ 1 ∧ s.lst n ≠ 2 := by
  simp only [State.alignedLink, Bool.or_eq_true, Bool.and_eq_true, beq_iff_eq] at h
  omega

theorem State.updLk_view {α : Type} {q : LinkSt → α} {g : LinkSt → LinkSt} (hg : ∀ l, q (g l) = q l) (s : State) (n m : Nat) :
    q ((s.updLk n g).lk m) = q (s.lk m) :=
  nth_upd_view (hg _) _ _ _ _

theorem State.alignedLink_lacking (s : State) (n : Nat) : (s.updLk n .lacking).alignedLink n = s.alignedLink n :=
  State.alignedLink_congr rfl (State.updLk_view (q := LinkSt.stopAligned) (g := .lacking) (fun _ => rfl) s n n)

theorem State.told204_invalid (s : State) (n : Nat) : ((s.updLk n .invalid).lk n).told204 = (s.lk n).told204 :=
  State.updLk_view (q := LinkSt.told204) (g := .invalid) (fun _ => rfl) s n n

theorem State.invalidFrame_eq (s : State) (n : Nat) :
    s.invalidFrame n =
      let t := (s.updLk n .lacking).updLk n fun l => { l with invalidRun := l.invalidRun + 1 }
      if (t.lk n).told204 then t else (t.updLk n fun l => { l with told204 := true }).event 0x0204 [n] := by
  have htwo : (s.updLk n .lacking).updLk n (fun l => { l with invalidRun := l.invalidRun + 1 }) = s.updLk n .invalid :=
    State.updLk_updLk _ _ _ _
  simp only [htwo, State.told204_invalid, State.invalidFrame]

theorem State.badFrame_none {s : State} {n : Nat} (h : s.alignedLink n = true) : s.badFrame n none = s.invalidFrame n := by
  rw [State.invalidFrame_eq]
  exact if_pos ((State.alignedLink_lacking s n).trans h)

theorem State.badFrame_some {s : State} {n : Nat} (h : s.alignedLink n = true) (f : Fld) :
    s.badFrame n (some f) = (s.inc f).invalidFrame n := by
  rw [State.invalidFrame_eq]
  exact if_pos ((State.alignedLink_lacking s n).trans h)

section Invalid

variable {s : State} (hwf : s.wf = true) {n : Nat} (hn : n < 48)

theorem State.invalidFrame_raised (h : (s.lk n).told204 = false) : s.Raised (s.invalidFrame n) 0x0204 [n] := by
  rw [State.invalidFrame, if_neg (by simp [h])]
  exact (State.event_raised _ _ _).after (State.updLk_keeps (State.updLk_keeps (.refl s) _ _) _ _)

theorem State.invalidFrame_log (h : (s.lk n).told204 = true) : (s.invalidFrame n).log = s.log := by
  rw [State.invalidFrame, if_pos h]
  rfl

theorem State.Leaves.invalidFrame {f : Fld} {s0 : State} (h : s0.Leaves f s) (hcup : isCupStat f.reg = false) (n : Nat) :
    s0.Leaves f (s.invalidFrame n) :=
  have hmarked : s0.Leaves f (s.updLk n .invalid) := h.same_regs (State.updLk_keeps (.refl s) _ _) rfl
  .ite hmarked (.event (hmarked.same_regs (State.updLk_keeps (.refl _) n _) rfl) hcup)

include hwf hn

/-- But for the mark of the event the link is as `LinkSt.invalid` says. -/
theorem State.invalidFrame_view {α : Type} {q : LinkSt → α} (hq : ∀ l, q { l with told204 := true } = q l) :
    q ((s.invalidFrame n).lk n) = q (s.lk n).invalid := by
  have hmarked : (s.updLk n .invalid).wf = true := (State.updLk_keeps (.refl s) _ _).wf hwf
  unfold State.invalidFrame
  split
  · rw [State.lk_updLk hwf hn]
  · rw [State.lk, State.event_links, ← State.lk, State.lk_updLk hmarked hn, State.lk_updLk hwf hn, hq]

end Invalid

/-! ### The counts of CQ_ERR -/

/-- A count of invalid frames of link `n`: eight bits of CQ_ERR. -/
structure ErrFld (n : Nat) (f : Fld) : Prop where
  reg : f.reg = R_CQ_ERR n
  low : f.lsb ≤ f.msb
  high : f.msb < 32
  width : f.msb + 1 - f.lsb = 8

theorem ErrFld.miss (n : Nat) : ErrFld n (CQ_ERR_MISS n) := ⟨rfl, by simp, by simp, rfl⟩
theorem ErrFld.code (n : Nat) : ErrFld n (CQ_ERR_CODE n) := ⟨rfl, by simp, by simp, rfl⟩
theorem ErrFld.crc (n : Nat) : ErrFld n (CQ_ERR_CRC n) := ⟨rfl, by simp, by simp, rfl⟩

section Count

variable {s : State} (hwf : s.wf = true) {n : Nat} (hn : n < 48) {f : Fld} (hf : ErrFld n f)

include hf

theorem ErrFld.not_cup (hn : n < 48) : isCupStat f.reg = false :=
  isCupStat_block (by rw [hf.reg]; show (0x2100C + n * 0x20) / 0x10000 ≠ 3; omega)

theorem ErrFld.spares {g : Fld} (h : g.reg ≠ R_CQ_ERR n) : g.sparedBy f = true :=
  Fld.sparedBy_of_reg_ne (hf.reg ▸ h) ⟨hf.low, hf.high⟩

theorem ErrFld.spares_lstate : (CQ_STATE_LSTATE n).sparedBy f = true :=
  hf.spares (show 0x21004 + n * 0x20 ≠ 0x2100C + n * 0x20 by omega)

include hwf

/-- A count stops at 255. -/
theorem ErrFld.fld_setSat (v : Nat) : (s.setSat f v).fld f = min 255 v := by
  have hsat : satU 8 v < 2 ^ 8 := Nat.lt_of_le_of_lt (Nat.min_le_right _ _) (by decide)
  rw [State.setSat, hf.width]
  exact ((State.canon_of_wf hwf).fld_setFld_of_lt hf.low hf.high (by rwa [hf.width])).trans (Nat.min_comm _ _)

theorem ErrFld.fld_inc : (s.inc f).fld f = min 255 (s.fld f + 1) := hf.fld_setSat hwf _

theorem ErrFld.inc_aligned (h : s.alignedLink n = true) : (s.inc f).alignedLink n = true :=
  (State.alignedLink_congr ((State.Leaves.refl s).setSat hf.spares_lstate |>.fld_of hwf) rfl).trans h

end Count

/-! ### What is heard of a link -/

/-- From `s` to `u` no register, no link, no event and nothing of the clock's part changes. -/
structure State.Alike (s u : State) : Prop where
  keeps : s.Keeps u
  regs : u.regs = s.regs
  links : u.links = s.links
  log : u.log = s.log
  tim : u.tim = s.tim

/-- A LOST link that is heard is not silent: its time begins afresh (Table 3.15). -/
def State.heard (s : State) (n : Nat) : State := s.iff (s.lst n == 5) (·.startTimer (.silent n))

namespace State.Alike

variable {s u : State}

theorem refl (s : State) : s.Alike s := ⟨.refl s, rfl, rfl, rfl, rfl⟩

theorem heard (h : s.Alike u) (n : Nat) : s.Alike (u.heard n) := by
  unfold State.heard State.iff
  split
  · exact ⟨State.startTimer_keeps h.keeps _, h.regs, h.links, h.log, h.tim⟩
  · exact h

theorem faultSeen (h : s.Alike u) (row : Nat) : s.Alike (u.faultSeen row) :=
  ⟨State.faultSeen_keeps h.keeps row, h.regs, h.links, h.log, h.tim⟩

theorem lk (h : s.Alike u) (n : Nat) : u.lk n = s.lk n := by rw [State.lk, h.links, State.lk]

theorem lst (h : s.Alike u) (n : Nat) : u.lst n = s.lst n := State.fld_congr h.regs _

theorem aligned (h : s.Alike u) (n : Nat) : u.alignedLink n = s.alignedLink n :=
  State.alignedLink_congr (h.lst n) (by rw [h.lk])

theorem lateFrame (h : s.Alike u) (n : Nat) (dev : Int) : u.lateFrame n dev = s.lateFrame n dev := by
  rw [State.lateFrame, h.tim, h.lk, State.fld_congr h.regs, State.lateFrame]

theorem useqOk (h : s.Alike u) (n : Nat) (f : UpFields) : u.useqOk n f = s.useqOk n f := by
  rw [State.useqOk, h.lk, State.fld_congr h.regs, State.useqOk]

end State.Alike

/-! ### The frame of this CF -/

section Arrival

variable {s : State} {n : Nat} (hal : s.alignedLink n = true)

include hal

theorem State.upstreamFrame_chars (cs : List (BitVec 10)) (dev : Int) : s.upstreamFrame n (.chars cs dev) = s.upChars n cs dev := by
  obtain ⟨h0, h1, -⟩ := State.alignedLink_lst hal
  rw [State.upstreamFrame, if_neg (by simp [h0, h1])]

variable (hj : (s.lk n).judged = false)

include hj

theorem State.upstreamFrame_missing : s.upstreamFrame n .missing = s.badFrame n (some (CQ_ERR_MISS n)) := by
  obtain ⟨h0, h1, -⟩ := State.alignedLink_lst hal
  rw [State.upstreamFrame, if_neg (by simp [h0, h1])]
  exact if_neg (by simp [hj])

theorem State.upstreamFrame_violation : s.upstreamFrame n .violation = (s.heard n).abortFrame n := by
  obtain ⟨h0, h1, -⟩ := State.alignedLink_lst hal
  rw [State.upstreamFrame, if_neg (by simp [h0, h1])]
  exact if_neg (by simp [hj])

theorem State.upstreamFrame_frame (w : BitVec 144) (dev : Int) :
    s.upstreamFrame n (.frame w dev) = (s.heard n).judgeFrame n w dev := by
  obtain ⟨h0, h1, -⟩ := State.alignedLink_lst hal
  rw [State.upstreamFrame, if_neg (by simp [h0, h1])]
  exact if_neg (by simp [hj])

end Arrival

/-! ### A frame that is invalid -/

/-- The frame of link `n` is counted in `f` and its CF is invalid (R66). -/
structure State.Counted (s : State) (n : Nat) (f : Fld) (t : State) : Prop where
  count : t.fld f = min 255 (s.fld f + 1)
  invalidRun : (t.lk n).invalidRun = (s.lk n).invalidRun + 1
  validRun : (t.lk n).validRun = 0
  valid : (t.lk n).valid = false
  judged : (t.lk n).judged = true
  rxRd : (t.lk n).rxRd = (s.lk n).rxRd
  told : (s.lk n).told204 = false → s.Raised t 0x0204 [n]
  silent : (s.lk n).told204 = true → t.log = s.log
  regs : s.RegsOnly [R_CQ_ERR n] t

section Counted

variable {s u : State} (hwf : s.wf = true) {n : Nat} (hn : n < 48) {f : Fld}

theorem ErrFld.leaves_invalidFrame {g : Fld} (hg : g.sparedBy f = true) (hcup : isCupStat g.reg = false) (s : State) :
    s.Leaves g ((s.inc f).invalidFrame n) := .invalidFrame (.setSat (.refl s) hg) hcup n

include hwf hn

theorem ErrFld.fld_invalidFrame (hf : ErrFld n f) : ((s.inc f).invalidFrame n).fld f = min 255 (s.fld f + 1) :=
  (((State.Leaves.refl (s.inc f)).invalidFrame (hf.not_cup hn) n).fld_of ((State.inc_keeps (.refl s) f).wf hwf)).trans
    (hf.fld_inc hwf)

theorem ErrFld.counted (hf : ErrFld n f) (hu : s.Alike u) : s.Counted n f ((u.inc f).invalidFrame n) := by
  have hinc : u.Keeps (u.inc f) := State.inc_keeps (.refl u) f
  have huwf : u.wf = true := hu.keeps.wf hwf
  have hlk : (u.inc f).lk n = s.lk n := hu.lk n
  have hview {α : Type} {q : LinkSt → α} (hq : ∀ l, q { l with told204 := true } = q l) :
      q (((u.inc f).invalidFrame n).lk n) = q (s.lk n).invalid := hlk ▸ State.invalidFrame_view (hinc.wf huwf) hn hq
  exact {
    count := (hf.fld_invalidFrame huwf hn).trans (by rw [State.fld_congr hu.regs])
    invalidRun := hview (q := LinkSt.invalidRun) fun _ => rfl
    validRun := hview (q := LinkSt.validRun) fun _ => rfl
    valid := hview (q := LinkSt.valid) fun _ => rfl
    judged := hview (q := LinkSt.judged) fun _ => rfl
    rxRd := hview (q := LinkSt.rxRd) fun _ => rfl
    told := fun h => .after (hu.keeps.trans hinc) (State.invalidFrame_raised (hlk ▸ h))
    silent := fun h => (State.invalidFrame_log (hlk ▸ h)).trans hu.log
    regs := .of_leaves hwf fun o ho hcup =>
      have hspared : (wordFld o).sparedBy f = true := hf.spares (by simpa using ho)
      .trans (.same_regs (.refl s) hu.keeps hu.regs) (ErrFld.leaves_invalidFrame hspared hcup u) }

end Counted

/-! ### Frames that are counted -/

/-- The counted frames of `UPSTREAM_FRAME`: none, a code violation, one that came late, and one whose CRC is wrong. -/
def State.CountsIn (s : State) (n : Nat) (a : UpArrival) (f : Fld) : Prop :=
  (a = .missing ∧ f = CQ_ERR_MISS n) ∨ (a = .violation ∧ f = CQ_ERR_CODE n) ∨
    (∃ w dev, a = .frame w dev ∧ s.lateFrame n dev = true ∧ f = CQ_ERR_MISS n) ∨
    ∃ w dev, a = .frame w dev ∧ s.lateFrame n dev = false ∧ upCrcOk w = false ∧ f = CQ_ERR_CRC n

section Judge

variable {s : State} {n : Nat} (hal : s.alignedLink n = true) {w : BitVec 144} {dev : Int}

include hal

theorem State.abortFrame_eq (hwf : s.wf = true) : s.abortFrame n = (s.inc (CQ_ERR_CODE n)).invalidFrame n :=
  State.badFrame_none ((ErrFld.code n).inc_aligned hwf hal)

theorem State.judgeFrame_late (h : s.lateFrame n dev = true) : s.judgeFrame n w dev = (s.inc (CQ_ERR_MISS n)).invalidFrame n :=
  (if_pos (by simp [State.judges, hal, h])).trans (State.badFrame_some hal _)

variable (hlate : s.lateFrame n dev = false)

include hlate

theorem State.judgeFrame_of_inTime :
    s.judgeFrame n w dev =
      if upCrcOk w = false then ((s.faultSeen 4).inc (CQ_ERR_CRC n)).invalidFrame n
      else if 2 ≤ (upDecode w).type then s.invalidFrame n
      else if s.useqOk n (upDecode w) = false then (s.event 0x0206 [n]).badFrame n (some (CQ_ERR_SEQ n))
      else s.goodFrame n (upDecode w) dev := by
  have hcrc : (s.faultSeen 4).badFrame n (some (CQ_ERR_CRC n)) = ((s.faultSeen 4).inc (CQ_ERR_CRC n)).invalidFrame n :=
    State.badFrame_some ((((State.Alike.refl s).faultSeen 4).aligned n).trans hal) _
  simp [State.judgeFrame, State.judges, State.iff, hal, hlate, State.badFrame_none hal, hcrc]

end Judge

theorem State.CountsIn.counted {s : State} (hwf : s.wf = true) {n : Nat} (hn : n < 48) (hal : s.alignedLink n = true)
    (hj : (s.lk n).judged = false) {a : UpArrival} {f : Fld} (h : s.CountsIn n a f) : s.Counted n f (s.upstreamFrame n a) := by
  have hu : s.Alike (s.heard n) := .heard (.refl s) n
  have hual : (s.heard n).alignedLink n = true := (hu.aligned n).trans hal
  rcases h with ⟨rfl, rfl⟩ | ⟨rfl, rfl⟩ | ⟨w, dev, rfl, hlate, rfl⟩ | ⟨w, dev, rfl, hlate, hcrc, rfl⟩
  · rw [State.upstreamFrame_missing hal hj, State.badFrame_some hal]
    exact (ErrFld.miss n).counted hwf hn (.refl s)
  · rw [State.upstreamFrame_violation hal hj, State.abortFrame_eq hual (hu.keeps.wf hwf)]
    exact (ErrFld.code n).counted hwf hn hu
  · rw [State.upstreamFrame_frame hal hj, State.judgeFrame_late hual ((hu.lateFrame n dev).trans hlate)]
    exact (ErrFld.miss n).counted hwf hn hu
  · rw [State.upstreamFrame_frame hal hj, State.judgeFrame_of_inTime hual ((hu.lateFrame n dev).trans hlate), if_pos hcrc]
    exact (ErrFld.crc n).counted hwf hn (hu.faultSeen 4)

end Sys2Proof.Machine
end

section
/-!
A frame that is taken (spec/03 R66, R73, R127): what its fields change of a link, and the state that it brings.
-/

namespace Sys2Proof.Machine

open Sys2Proof

/-! ### The fields of a frame -/

/-- What the fields of a frame leave of a link: the counts of its frames, its receiver, its own last command. -/
def LinkSt.carried (l : LinkSt) : Nat × Bool × Nat := (l.validRun, l.rxRd, l.cmd)

/-- A field of the link's block in a register after that of its state. -/
theorem Fld.besides.of_linkReg {n r : Nat} (hr : 0x21004 < r) {hi lo : Nat} (hbits : lo ≤ hi ∧ hi < 32) :
    Fld.besides n ⟨r + n * 0x20, hi, lo⟩ :=
  .of_above (show 0x20010 < r + n * 0x20 by omega) hbits (.inl (show r + n * 0x20 ≠ _ by omega))

/-- A field of the link's state register above its state. -/
theorem Fld.besides.of_stateReg {n : Nat} {hi lo : Nat} (hlo : 2 < lo) (hbits : lo ≤ hi ∧ hi < 32) :
    Fld.besides n ⟨R_CQ_STATE n, hi, lo⟩ :=
  .of_above (Nat.lt_add_right _ (by decide)) hbits (.inr hlo)

namespace State.LinkKeeps

variable {n : Nat} {s0 s : State} (u : UpFields)

theorem setLinkReg {α : Type} {q : LinkSt → α} {r hi lo v : Nat} (h : s0.LinkKeeps q n s) (hr : 0x21004 < r)
    (hbits : lo ≤ hi ∧ hi < 32) : s0.LinkKeeps q n (s.setFld ⟨r + n * 0x20, hi, lo⟩ v) := h.setFld (.of_linkReg hr hbits)

theorem upAux (h : s0.LinkKeeps LinkSt.carried n s) : s0.LinkKeeps LinkSt.carried n (s.upAux n u) := by
  have htags : s0.LinkKeeps LinkSt.carried n
      (s.updLk n fun l => { l with tags := if 1 ≤ u.tag ∧ u.tag ≤ 10 then setBit l.tags u.tag true else l.tags }) := h.updLk rfl
  unfold State.upAux
  extract_lets s1
  split
  · exact htags.setLinkReg (by decide) (by decide)
  · exact htags.setLinkReg (by decide) (by decide)
  · exact (htags.setLinkReg (by decide) (by decide)).setLinkReg (by decide) (by decide)
  · exact htags.setLinkReg (by decide) (by decide)
  · exact htags.updLk rfl
  · exact htags.setLinkReg (by decide) (by decide)
  · exact htags.updLk rfl
  · exact (htags.setLinkReg (by decide) (by decide)).updLk rfl
  · exact htags.updLk rfl
  · exact htags

theorem faultCode {α : Type} {q : LinkSt → α} {code : Nat} (h : s0.LinkKeeps q n s) : s0.LinkKeeps q n (s.faultCode n code) :=
  .ite h (h.setLinkReg (by decide) (by decide))

variable (hn : n < 48)

include hn

theorem upFault (h : s0.LinkKeeps LinkSt.carried n s) : s0.LinkKeeps LinkSt.carried n (s.upFault n u) := by
  unfold State.upFault
  extract_lets rose fresh report coded told
  have hcoded : s0.LinkKeeps LinkSt.carried n coded := .updLk (.faultCode h) rfl
  have htold : s0.LinkKeeps LinkSt.carried n told := .iff hcoded fun h => .event hn (.updLk h rfl)
  have hrefused : s0.LinkKeeps LinkSt.carried n (told.iff (told.lk n).lastMx fun s =>
      (s.event 0x020C [n, u.data]).iff (2 ≤ s.mvStep n && s.mvStep n ≤ 4) (·.moveAbort n)) :=
    .iff htold fun h => .iff (.event hn h) fun h => .moveAbort hn (by omega) h
  exact .ite (.ite (.ite hrefused (.ite (.event hn htold) (.ite (.event hn htold) htold))) hcoded)
    (.updLk (.iff h .faultCode) rfl)

end State.LinkKeeps

/-- A link with the sample of its block's frame (Tables 3.7 and 3.8). -/
def LinkSt.sampled (u : UpFields) (l : LinkSt) : LinkSt :=
  { l with
    imeas := u.imeas, vout := u.vout, vdc := u.vdc, temp := u.temp, iavail := u.iavail, mxState := u.mx
    srcEcho := u.srcEcho, useqKnown := true, missed := 0 }

/-- The block's declarations, its fault report and its sample. -/
def State.sampled (s : State) (n : Nat) (u : UpFields) : State := ((s.upAux n u).upFault n u).updLk n (.sampled u)

theorem State.takeFrame_eq (s : State) (n : Nat) (u : UpFields) :
    s.takeFrame n u =
      ((((((s.sampled n u).setFld (CQ_STATE_DSEQ n) u.dseq).setFld (CQ_STATE_USEQ n) u.useq).setFlag (CQ_STATE_OBEYS n)
        (u.srcEcho == (s.sampled n u).fld CQ_GCFG_SRC_ID)).setFlag (CQ_STATE_FLT n) u.flt).setFld (CQ_STATE_BSTATE n) u.bstate).setFld
          (MX_ASG_MX_STATE n) u.mx := rfl

section Take

variable {s : State} (hwf : s.wf = true) {n : Nat} (hn : n < 48) (u : UpFields)

include hn

theorem State.sampled_keepsLink : s.LinkKeeps LinkSt.carried n (s.sampled n u) :=
  .updLk (.upFault u hn (.upAux u (.refl s))) rfl

theorem State.takeFrame_keepsLink : s.LinkKeeps LinkSt.carried n (s.takeFrame n u) := by
  have hmx : (MX_ASG_MX_STATE n).besides n := .of_block hn (Nat.le_add_right_of_le (by decide)) ⟨by simp, by simp⟩
  rw [State.takeFrame_eq]
  have hst {hi lo : Nat} (hlo : 2 < lo) (hbits : lo ≤ hi ∧ hi < 32) : Fld.besides n ⟨R_CQ_STATE n, hi, lo⟩ := .of_stateReg hlo hbits
  have hseqs : s.LinkKeeps LinkSt.carried n
      (((s.sampled n u).setFld (CQ_STATE_DSEQ n) u.dseq).setFld (CQ_STATE_USEQ n) u.useq) :=
    .setFld (.setFld (State.sampled_keepsLink hn u) (hst (by decide) (by decide))) (hst (by decide) (by decide))
  exact .setFld (.setFld (.setFlag (.setFlag hseqs (hst (by decide) (by decide))) (hst (by decide) (by decide)))
    (hst (by decide) (by decide))) hmx

include hwf

theorem State.takeFrame_imeas : ((s.takeFrame n u).lk n).imeas = u.imeas :=
  congrArg LinkSt.imeas (State.lk_updLk ((State.LinkKeeps.upFault u hn (.upAux u (.refl s))).keeps.wf hwf) hn (.sampled u))

theorem State.takeFrame_bst (hb : u.bstate < 8) : (s.takeFrame n u).bst n = u.bstate := by
  have hmx : (CQ_STATE_BSTATE n).sparedBy (MX_ASG_MX_STATE n) = true :=
    Fld.sparedBy_of_reg_ne (show 0x21004 + n * 0x20 ≠ 0x40500 + n * 4 by omega) ⟨by simp, by simp⟩
  have hflt := State.setFlag_wf (State.setFlag_wf (State.setFld_wf (State.setFld_wf ((State.sampled_keepsLink hn u).keeps.wf hwf)
    (CQ_STATE_DSEQ n) u.dseq) (CQ_STATE_USEQ n) u.useq) (CQ_STATE_OBEYS n) (u.srcEcho == (s.sampled n u).fld CQ_GCFG_SRC_ID))
    (CQ_STATE_FLT n) u.flt
  rw [State.takeFrame_eq, State.bst, ((State.Leaves.refl _).setFld hmx).fld_of (State.setFld_wf hflt _ _)]
  exact (State.canon_of_wf hflt).fld_setFld_of_lt (by simp) (by simp) hb

theorem State.takeFrame_useq (hq : u.useq < 256) : (s.takeFrame n u).fld (CQ_STATE_USEQ n) = u.useq := by
  have hmx : (CQ_STATE_USEQ n).sparedBy (MX_ASG_MX_STATE n) = true :=
    Fld.sparedBy_of_reg_ne (show 0x21004 + n * 0x20 ≠ 0x40500 + n * 4 by omega) ⟨by simp, by simp⟩
  have hbelow {hi lo : Nat} (hbits : lo ≤ hi ∧ hi < 16) : (CQ_STATE_USEQ n).sparedBy ⟨R_CQ_STATE n, hi, lo⟩ = true := by
    simp [Fld.sparedBy, Fld.apart]
    omega
  have hdseq := State.setFld_wf ((State.sampled_keepsLink hn u).keeps.wf hwf) (CQ_STATE_DSEQ n) u.dseq
  have hrest := ((((State.Leaves.refl (((s.sampled n u).setFld (CQ_STATE_DSEQ n) u.dseq).setFld (CQ_STATE_USEQ n) u.useq)).setFlag
    (g := CQ_STATE_OBEYS n) (b := u.srcEcho == (s.sampled n u).fld CQ_GCFG_SRC_ID) (hbelow (by decide))).setFlag
    (g := CQ_STATE_FLT n) (b := u.flt) (hbelow (by decide))).setFld (g := CQ_STATE_BSTATE n) (v := u.bstate) (hbelow (by decide))).setFld
    (v := u.mx) hmx
  rw [State.takeFrame_eq, hrest.fld_of (State.setFld_wf hdseq _ _)]
  exact (State.canon_of_wf hdseq).fld_setFld_of_lt (by simp) (by simp) hq

end Take

/-! ### A frame that is taken -/

/-- A link whose frame of this CF is valid (R63, R66). -/
def LinkSt.accepted (u : UpFields) (drifting : Bool) (l : LinkSt) : LinkSt :=
  { l with
    judged := true, valid := u.type == 0, invalidRun := 0, validRun := if u.type = 0 then l.validRun + 1 else 0
    driftRun := if drifting then l.driftRun + 1 else 0 }

/-- The frame's fields are taken and the link's frame of this CF is valid. -/
def State.accepted (s : State) (n : Nat) (u : UpFields) (dev : Int) : State :=
  (s.takeFrame n u).updLk n (.accepted u ((s.takeFrame n u).usable n && decide (8 < dev.natAbs)))

theorem State.usable_updLk (t : State) (n m : Nat) (g : LinkSt → LinkSt) : (t.updLk n g).usable m = t.usable m := by
  rw [State.usable, show (t.updLk n g).lst m = t.lst m from State.fld_congr rfl _, State.usable]

theorem State.updLk_accepted (t : State) (n : Nat) (u : UpFields) (drifting : Bool) :
    (t.updLk n fun l =>
      { l with judged := true, valid := u.type == 0, invalidRun := 0, validRun := if u.type = 0 then l.validRun + 1 else 0 }).updLk n
        (fun l => { l with driftRun := if drifting then l.driftRun + 1 else 0 }) = t.updLk n (.accepted u drifting) :=
  State.updLk_updLk _ _ _ _

theorem State.goodFrame_eq (s : State) (n : Nat) (u : UpFields) (dev : Int) :
    s.goodFrame n u dev = ((s.accepted n u dev).failedToStop n u).iff (u.type == 0) (·.linkNext n u) := by
  rw [State.accepted, ← State.updLk_accepted, State.goodFrame]
  simp only [State.usable_updLk]

theorem State.LinkKeeps.failedToStop {α : Type} {q : LinkSt → α} (hq : ∀ {l}, q { l with stopTold := true } = q l) {n : Nat}
    (hn : n < 48) {s0 s : State} (h : s0.LinkKeeps q n s) (u : UpFields) : s0.LinkKeeps q n (s.failedToStop n u) :=
  .ite (.event hn (.updLk h hq)) h

theorem State.Leaves.failedToStop {f : Fld} {s0 s : State} (h : s0.Leaves f s) (hcup : isCupStat f.reg = false) (n : Nat) (u : UpFields) :
    s0.Leaves f (s.failedToStop n u) :=
  .ite (.event (.same_regs h (State.updLk_keeps (.refl s) n _) rfl) hcup) h

/-- The state of the link is the one register field that a frame's state change writes. -/
theorem State.Leaves.linkNext {f : Fld} {n : Nat} (hf : f.sparedBy (CQ_STATE_LSTATE n) = true) (hcup : isCupStat f.reg = false)
    {s0 s : State} (h : s0.Leaves f s) (u : UpFields) : s0.Leaves f (s.linkNext n u) := by
  have hset {v : Nat} {s : State} (h : s0.Leaves f s) : s0.Leaves f (s.setLst n v) := h.setLst hf hcup
  have hstop {x : Timer} {s : State} (h : s0.Leaves f s) : s0.Leaves f (s.stopTimer x) :=
    h.same_regs (State.stopTimer_keeps (.refl s) x) rfl
  unfold State.linkNext
  extract_lets l
  split
  · exact .ite (.same_regs (hstop (hset h)) (State.updLk_keeps (.refl _) n _) rfl) h
  · exact .iff h hset
  · exact .iff h hset
  · exact .iff h fun h => hstop (hset h)
  · exact .iff h hset
  · exact h

/-- Outside TRAIN a frame's state change leaves the link's own part of the state alone. -/
theorem State.linkNext_lk {s : State} {n : Nat} (h : s.lst n ≠ 2) (u : UpFields) (m : Nat) : (s.linkNext n u).lk m = s.lk m := by
  have hset (b : Bool) (v : Nat) : (s.iff b (·.setLst n v)).lk m = s.lk m := by
    unfold State.iff
    split
    · exact State.setLst_lk s n v m
    · rfl
  unfold State.linkNext
  extract_lets l
  split
  · contradiction
  · exact hset _ _
  · exact hset _ _
  · unfold State.iff
    split
    · exact State.setLst_lk s n 3 m
    · rfl
  · exact hset _ _
  · rfl

/-- ALIGNED goes to ACTIVE on a block in RUN after an ENABLE (Table 3.15). -/
theorem State.linkNext_of_run {s : State} {n : Nat} {u : UpFields} (hlst : s.lst n = 3) (hrun : u.bstate = 2)
    (hcmd : (s.lk n).cmd = cmdEnable) : s.linkNext n u = s.setLst n 4 := by
  simp [State.linkNext, hlst, hrun, hcmd, State.iff]

/-- ACTIVE goes to ALIGNED on a block in READY (Table 3.15). -/
theorem State.linkNext_of_ready {s : State} {n : Nat} {u : UpFields} (hlst : s.lst n = 4) (hready : u.bstate = 1) :
    s.linkNext n u = s.setLst n 3 := by
  simp [State.linkNext, hlst, hready, State.iff]

/-- The link as it stands before the frame's state change. -/
def State.received (s : State) (n : Nat) (u : UpFields) (dev : Int) : State := (s.accepted n u dev).failedToStop n u

/-- A NORMAL frame may change the link's state. -/
theorem State.goodFrame_of_normal (s : State) (n : Nat) {u : UpFields} (h : u.type = 0) (dev : Int) :
    s.goodFrame n u dev = (s.received n u dev).linkNext n u := by
  rw [State.goodFrame_eq]
  exact if_pos (by simp [h])

/-- Another frame leaves it as it is (log entry 57). -/
theorem State.goodFrame_of_other (s : State) (n : Nat) {u : UpFields} (h : u.type ≠ 0) (dev : Int) :
    s.goodFrame n u dev = s.received n u dev := by
  rw [State.goodFrame_eq]
  exact if_neg (by simp [h])

section Good

variable {s : State} (hwf : s.wf = true) {n : Nat} (u : UpFields) (dev : Int)

theorem State.leaves_received {f : Fld} (hcup : isCupStat f.reg = false) : (s.takeFrame n u).Leaves f (s.received n u dev) :=
  .failedToStop (.same_regs (.refl _) (State.updLk_keeps (.refl _) n _) rfl) hcup n u

variable (hn : n < 48)

include hn

theorem State.received_keeps : s.Keeps (s.received n u dev) :=
  have haccepted : s.Keeps (s.accepted n u dev) := State.updLk_keeps (State.takeFrame_keepsLink hn u).keeps _ _
  haccepted.trans (State.LinkKeeps.failedToStop (q := fun _ => ()) rfl hn (.refl _) u).keeps

include hwf

theorem State.received_lst : (s.received n u dev).lst n = s.lst n :=
  ((State.leaves_received u dev (State.isCupStat_lstate hn)).fld_of ((State.takeFrame_keepsLink hn u).keeps.wf hwf)).trans
    ((State.takeFrame_keepsLink hn u).lst_eq hwf)

/-- But for the mark of a block that failed to stop the link is as `LinkSt.accepted` says. -/
theorem State.received_view {α : Type} {q : LinkSt → α} (hq : ∀ {l}, q { l with stopTold := true } = q l) :
    q ((s.received n u dev).lk n) =
      q (((s.takeFrame n u).lk n).accepted u ((s.takeFrame n u).usable n && decide (8 < dev.natAbs))) :=
  (State.LinkKeeps.failedToStop hq hn (.refl _) u).lk.trans
    (congrArg q (State.lk_updLk ((State.takeFrame_keepsLink hn u).keeps.wf hwf) hn _))

theorem State.received_invalidRun : ((s.received n u dev).lk n).invalidRun = 0 :=
  State.received_view hwf u dev hn (q := LinkSt.invalidRun) rfl

theorem State.received_valid : ((s.received n u dev).lk n).valid = (u.type == 0) :=
  State.received_view hwf u dev hn (q := LinkSt.valid) rfl

theorem State.received_judged : ((s.received n u dev).lk n).judged = true :=
  State.received_view hwf u dev hn (q := LinkSt.judged) rfl

theorem State.received_imeas : ((s.received n u dev).lk n).imeas = u.imeas :=
  (State.received_view hwf u dev hn (q := LinkSt.imeas) rfl).trans (State.takeFrame_imeas hwf hn u)

theorem State.received_validRun (h : u.type = 0) : ((s.received n u dev).lk n).validRun = (s.lk n).validRun + 1 := by
  have hrun : ((s.takeFrame n u).lk n).validRun = (s.lk n).validRun := congrArg (·.1) (State.takeFrame_keepsLink hn u).lk
  exact (State.received_view hwf u dev hn (q := LinkSt.validRun) rfl).trans ((if_pos h).trans (by rw [hrun]))

theorem State.received_rxRd : ((s.received n u dev).lk n).rxRd = (s.lk n).rxRd :=
  (State.received_view hwf u dev hn (q := LinkSt.rxRd) rfl).trans (congrArg (·.2.1) (State.takeFrame_keepsLink (s := s) hn u).lk)

theorem State.received_cmd : ((s.received n u dev).lk n).cmd = (s.lk n).cmd :=
  (State.received_view hwf u dev hn (q := LinkSt.cmd) rfl).trans (congrArg (·.2.2) (State.takeFrame_keepsLink (s := s) hn u).lk)

/-- A field that a frame's fields have written is found after its state change. -/
theorem State.goodFrame_fld {f : Fld} (hf : f.sparedBy (CQ_STATE_LSTATE n) = true) (hcup : isCupStat f.reg = false) (h : u.type = 0) :
    (s.goodFrame n u dev).fld f = (s.takeFrame n u).fld f := by
  rw [State.goodFrame_of_normal s n h]
  exact ((State.leaves_received u dev hcup).linkNext hf hcup u).fld_of ((State.takeFrame_keepsLink hn u).keeps.wf hwf)

end Good

/-! ### A NORMAL frame -/

/-- The NORMAL frame `u` of link `n` is valid and taken (R55, R66, R73). -/
structure State.Takes (s : State) (n : Nat) (u : UpFields) (t : State) : Prop where
  invalidRun : (t.lk n).invalidRun = 0
  validRun : (t.lk n).validRun = (s.lk n).validRun + 1
  valid : (t.lk n).valid = true
  imeas : (t.lk n).imeas = u.imeas
  useq : t.fld (CQ_STATE_USEQ n) = u.useq
  bst : t.bst n = u.bstate
  run : s.lst n = 3 → u.bstate = 2 → (s.lk n).cmd = cmdEnable → t.lst n = 4 ∧ s.Raised t 0x0201 [n, 3, 4]
  ready : s.lst n = 4 → u.bstate = 1 → t.lst n = 3 ∧ s.Raised t 0x0201 [n, 4, 3]

theorem State.Takes.of_alike {s v t : State} {n : Nat} {u : UpFields} (h : v.Takes n u t) (hv : s.Alike v) : s.Takes n u t where
  invalidRun := h.invalidRun
  validRun := h.validRun.trans (by rw [hv.lk])
  valid := h.valid
  imeas := h.imeas
  useq := h.useq
  bst := h.bst
  run := fun h3 hrun hcmd =>
    have ⟨hlst, hraised⟩ := h.run ((hv.lst n).trans h3) hrun (by rw [hv.lk, hcmd])
    ⟨hlst, .after hv.keeps hraised⟩
  ready := fun h4 hready =>
    have ⟨hlst, hraised⟩ := h.ready ((hv.lst n).trans h4) hready
    ⟨hlst, .after hv.keeps hraised⟩

/-- A link whose state is `v` is taken to another, with its event. -/
theorem State.setLst_told {s t : State} (k : s.Keeps t) (hwf : t.wf = true) {n : Nat} (hn : n < 48) {v v' : Nat} (h : t.lst n = v)
    (hv : v' < 8) (hne : v ≠ v') : (t.setLst n v').lst n = v' ∧ s.Raised (t.setLst n v') 0x0201 [n, v, v'] := by
  subst h
  exact ⟨State.setLst_lst hwf hn hv, .after k (State.setLst_raised hne)⟩

theorem State.goodFrame_takes {s : State} (hwf : s.wf = true) {n : Nat} (hn : n < 48) (hal : s.alignedLink n = true) {u : UpFields}
    (htype : u.type = 0) (hq : u.useq < 256) (hb : u.bstate < 8) (dev : Int) : s.Takes n u (s.goodFrame n u dev) := by
  have hcup : isCupStat (R_CQ_STATE n) = false := State.isCupStat_lstate hn
  have hkeeps : s.Keeps (s.received n u dev) := State.received_keeps u dev hn
  have hlst : (s.received n u dev).lst n = s.lst n := State.received_lst hwf u dev hn
  have hlk : (s.goodFrame n u dev).lk n = (s.received n u dev).lk n := by
    rw [State.goodFrame_of_normal s n htype]
    exact State.linkNext_lk (hlst ▸ (State.alignedLink_lst hal).2.2) u n
  exact {
    invalidRun := hlk ▸ State.received_invalidRun hwf u dev hn
    validRun := hlk ▸ State.received_validRun hwf u dev hn htype
    valid := hlk ▸ (State.received_valid hwf u dev hn).trans (by simp [htype])
    imeas := hlk ▸ State.received_imeas hwf u dev hn
    useq := (State.goodFrame_fld hwf u dev hn (by simp [Fld.sparedBy, Fld.apart]) hcup htype).trans (State.takeFrame_useq hwf hn u hq)
    bst := (State.goodFrame_fld hwf u dev hn (by simp [Fld.sparedBy, Fld.apart]) hcup htype).trans (State.takeFrame_bst hwf hn u hb)
    run := fun h3 hrun hcmd => by
      rw [State.goodFrame_of_normal s n htype,
        State.linkNext_of_run (hlst.trans h3) hrun ((State.received_cmd hwf u dev hn).trans hcmd)]
      exact State.setLst_told hkeeps (hkeeps.wf hwf) hn (hlst.trans h3) (by decide) (by decide)
    ready := fun h4 hready => by
      rw [State.goodFrame_of_normal s n htype, State.linkNext_of_ready (hlst.trans h4) hready]
      exact State.setLst_told hkeeps (hkeeps.wf hwf) hn (hlst.trans h4) (by decide) (by decide) }

end Sys2Proof.Machine
end

section
/-!
The characters of a CF (spec/03 R52 to R54), and the judgement of the upstream frames of a trained link (R55, R66, R73).
-/

namespace Sys2Proof.Machine

open Sys2Proof

/-! ### A frame that is judged -/

/-- The frame of this CF is judged, and the receiver's disparity stays. -/
structure State.Judged (s : State) (n : Nat) (t : State) : Prop where
  judged : (t.lk n).judged = true
  rxRd : (t.lk n).rxRd = (s.lk n).rxRd

theorem State.Judged.of_lk {s u t : State} {n : Nat} (h : u.Judged n t) (hlk : u.lk n = s.lk n) : s.Judged n t :=
  ⟨h.judged, h.rxRd.trans (by rw [hlk])⟩

section Judge

variable {s : State} (hwf : s.wf = true) {n : Nat} (hn : n < 48)

include hwf hn

theorem State.invalidFrame_judged : s.Judged n (s.invalidFrame n) :=
  ⟨State.invalidFrame_view (q := LinkSt.judged) hwf hn fun _ => rfl, State.invalidFrame_view (q := LinkSt.rxRd) hwf hn fun _ => rfl⟩

theorem State.inc_invalidFrame_judged (f : Fld) : s.Judged n ((s.inc f).invalidFrame n) :=
  (State.invalidFrame_judged ((State.inc_keeps (.refl s) f).wf hwf) hn).of_lk rfl

variable (hal : s.alignedLink n = true) {w : BitVec 144} {dev : Int}

include hal

theorem State.goodFrame_judged (u : UpFields) : s.Judged n (s.goodFrame n u dev) := by
  have hreceived : s.Judged n (s.received n u dev) := ⟨State.received_judged hwf u dev hn, State.received_rxRd hwf u dev hn⟩
  by_cases h : u.type = 0
  · have hlk : (s.goodFrame n u dev).lk n = (s.received n u dev).lk n := by
      rw [State.goodFrame_of_normal s n h]
      exact State.linkNext_lk (State.received_lst hwf u dev hn ▸ (State.alignedLink_lst hal).2.2) u n
    exact ⟨hlk ▸ hreceived.judged, hlk ▸ hreceived.rxRd⟩
  · rw [State.goodFrame_of_other s n h]
    exact hreceived

/-- Each branch of the judgement leaves the frame judged. -/
theorem State.judgeFrame_judged : s.Judged n (s.judgeFrame n w dev) := by
  by_cases hlate : s.lateFrame n dev = true
  · rw [State.judgeFrame_late hal hlate]
    exact State.inc_invalidFrame_judged hwf hn _
  · rw [State.judgeFrame_of_inTime hal (Bool.eq_false_of_not_eq_true hlate)]
    split_ifs
    · exact (State.inc_invalidFrame_judged ((State.faultSeen_keeps (.refl s) 4).wf hwf) hn _).of_lk rfl
    · exact State.invalidFrame_judged hwf hn
    · have hevent : s.LinkKeeps id n (s.event 0x0206 [n]) := .event hn (.refl s)
      have hlk : (s.event 0x0206 [n]).lk n = s.lk n := hevent.lk
      have heal : (s.event 0x0206 [n]).alignedLink n = true :=
        (State.alignedLink_congr (hevent.lst_eq hwf) (by rw [hlk])).trans hal
      rw [State.badFrame_some heal]
      exact (State.inc_invalidFrame_judged (hevent.keeps.wf hwf) hn _).of_lk hlk
    · exact State.goodFrame_judged hwf hn hal _

end Judge

/-! ### The characters of a CF -/

/-- A link whose receiver has the disparity `rd`. -/
def LinkSt.receiving (rd : Bool) (l : LinkSt) : LinkSt := { l with rxRd := rd }

/-- The errors outside the first frame are counted, and the receiver keeps its disparity (R53, R54). -/
def State.strayCounted (s : State) (n : Nat) (r : Rx) : State :=
  (s.updLk n (.receiving r.rd)).setSat (CQ_ERR_CODE n) (s.fld (CQ_ERR_CODE n) + r.stray)

/-- The characters of a CF are decoded, and a LOST link is heard (R52 to R54). -/
def State.decoded (s : State) (n : Nat) (r : Rx) : State :=
  (s.strayCounted n r).iff ((s.strayCounted n r).lst n == 5 && r.any) (·.startTimer (.silent n))

theorem State.Alike.iff_startTimer (s : State) (c : Bool) (x : Timer) : s.Alike (s.iff c (·.startTimer x)) := by
  unfold State.iff
  split
  · exact ⟨State.startTimer_keeps (.refl s) x, rfl, rfl, rfl, rfl⟩
  · exact .refl s

section Decoded

variable {s : State} {n : Nat} (r : Rx)

theorem State.decoded_alike : (s.strayCounted n r).Alike (s.decoded n r) := .iff_startTimer _ _ _

theorem State.leaves_decoded {f : Fld} (hf : f.sparedBy (CQ_ERR_CODE n) = true) : s.Leaves f (s.decoded n r) :=
  have hcounted : s.Leaves f (s.strayCounted n r) := .setSat (.same_regs (.refl s) (State.updLk_keeps (.refl s) n _) rfl) hf
  hcounted.same_regs (State.decoded_alike r).keeps (State.decoded_alike r).regs

theorem State.leaves_lst_decoded : s.Leaves (CQ_STATE_LSTATE n) (s.decoded n r) := State.leaves_decoded r (ErrFld.code n).spares_lstate

variable (hwf : s.wf = true)

include hwf

theorem State.decoded_wf : (s.decoded n r).wf = true := (State.leaves_lst_decoded r).keeps.wf hwf

theorem State.decoded_code : (s.decoded n r).fld (CQ_ERR_CODE n) = min 255 (s.fld (CQ_ERR_CODE n) + r.stray) := by
  rw [State.fld_congr (State.decoded_alike r).regs]
  exact (ErrFld.code n).fld_setSat ((State.updLk_keeps (.refl s) n _).wf hwf) _

variable (hn : n < 48)

include hn

theorem State.decoded_lk : (s.decoded n r).lk n = (s.lk n).receiving r.rd :=
  ((State.decoded_alike r).lk n).trans (State.lk_updLk hwf hn _)

theorem State.decoded_aligned (hal : s.alignedLink n = true) : (s.decoded n r).alignedLink n = true := by
  have hheld : ((s.decoded n r).lk n).stopAligned = (s.lk n).stopAligned := by
    rw [State.decoded_lk r hwf hn]
    rfl
  exact (State.alignedLink_congr ((State.leaves_lst_decoded r).fld_of hwf) hheld).trans hal

end Decoded

/-- The judgement of a CF's characters: of none, of a frame they abort, of the frame they bring (R54, R55). -/
def State.judgeChars (s : State) (n : Nat) (dev : Int) : Option (Option (List Byte)) → State
  | none => s.badFrame n (some (CQ_ERR_MISS n))
  | some none => s.abortFrame n
  | some (some bs) => s.judgeFrame n (BitVec.ofNat 144 (leNat bs.reverse)) dev

theorem State.upChars_eq {s : State} {n : Nat} (hj : (s.lk n).judged = false) (cs : List (BitVec 10)) (dev : Int) {r : Rx}
    (hr : rxRun 18 (s.lk n).rxRd (cs.map (·.toNat)) = r) : s.upChars n cs dev = (s.decoded n r).judgeChars n dev r.got := by
  subst hr
  have hopen (rd : Bool) : ((s.updLk n (.receiving rd)).lk n).judged = false :=
    (State.updLk_view (q := LinkSt.judged) (g := .receiving rd) (fun _ => rfl) s n n).trans hj
  exact if_neg (Bool.eq_false_iff.mp (hopen _))

section Chars

variable {s : State} (hwf : s.wf = true) {n : Nat} (hn : n < 48) (hal : s.alignedLink n = true) {dev : Int} {r : Rx}

include hwf hn hal

/-- Whatever the characters bring, the frame of this CF is judged. -/
theorem State.judgeChars_judged (got : Option (Option (List Byte))) : s.Judged n (s.judgeChars n dev got) := by
  match got with
  | none =>
    rw [State.judgeChars, State.badFrame_some hal]
    exact State.inc_invalidFrame_judged hwf hn _
  | some none =>
    rw [State.judgeChars, State.abortFrame_eq hal hwf]
    exact State.inc_invalidFrame_judged hwf hn _
  | some (some bs) => exact State.judgeFrame_judged hwf hn hal

theorem State.judgeChars_none_fld :
    ((s.judgeChars n dev none).fld (CQ_ERR_MISS n) = min 255 (s.fld (CQ_ERR_MISS n) + 1)) ∧
      (s.judgeChars n dev none).fld (CQ_ERR_CODE n) = s.fld (CQ_ERR_CODE n) := by
  rw [State.judgeChars, State.badFrame_some hal]
  have hspared : (CQ_ERR_CODE n).sparedBy (CQ_ERR_MISS n) = true := by simp [Fld.sparedBy, Fld.apart]
  exact ⟨(ErrFld.miss n).fld_invalidFrame hwf hn, (ErrFld.leaves_invalidFrame hspared ((ErrFld.code n).not_cup hn) s).fld_of hwf⟩

theorem State.judgeChars_abort_fld : (s.judgeChars n dev (some none)).fld (CQ_ERR_CODE n) = min 255 (s.fld (CQ_ERR_CODE n) + 1) := by
  rw [State.judgeChars, State.abortFrame_eq hal hwf]
  exact (ErrFld.code n).fld_invalidFrame hwf hn

end Chars

/-! ### The statement -/

theorem execUpstreamFrame_next {s : State} (hclk : s.clocked = true) (n : Fin 48) (a : UpArrival) :
    exec (.upstreamFrame n a) s = .next (s.upstreamFrame n a) := State.live_next hclk _

theorem bits_lt (w : Nat) {hi lo k : Nat} (h : hi + 1 - lo = k) : bits w hi lo < 2 ^ k := h ▸ Nat.mod_lt _ (Nat.two_pow_pos _)

theorem upDecode_useq_lt (w : BitVec 144) : (upDecode w).useq < 256 := bits_lt (k := 8) _ rfl

theorem upDecode_bstate_lt (w : BitVec 144) : (upDecode w).bstate < 8 := bits_lt (k := 3) _ rfl

theorem State.upstreamFrame_takes {s : State} (hwf : s.wf = true) {n : Nat} (hn : n < 48) (hal : s.alignedLink n = true)
    (hj : (s.lk n).judged = false) {w : BitVec 144} {dev : Int} (hlate : s.lateFrame n dev = false) (hcrc : upCrcOk w = true)
    (htype : (upDecode w).type = 0) (hseq : s.useqOk n (upDecode w) = true) :
    s.Takes n (upDecode w) (s.upstreamFrame n (.frame w dev)) := by
  have hu : s.Alike (s.heard n) := .heard (.refl s) n
  have hual : (s.heard n).alignedLink n = true := (hu.aligned n).trans hal
  rw [State.upstreamFrame_frame hal hj, State.judgeFrame_of_inTime hual ((hu.lateFrame n dev).trans hlate), if_neg (by simp [hcrc]),
    if_neg (by simp [htype]), if_neg (by simp [hu.useqOk, hseq])]
  exact (State.goodFrame_takes (hu.keeps.wf hwf) hn hual htype (upDecode_useq_lt w) (upDecode_bstate_lt w) dev).of_alike hu

end Sys2Proof.Machine

open Sys2Proof Sys2Proof.Machine

/-- Settles O16: a counted frame is `State.Counted`, the characters of a CF are decoded and then judged, and a NORMAL frame is
`State.Takes`. -/
theorem upstreamFramesAreJudged : Obligations.UpstreamFramesAreJudged := by
  unfold Obligations.UpstreamFramesAreJudged
  intro s n hwf hclk hal hj
  refine ⟨fun a f ha => ?_, fun cs dev => ?_, fun w dev hlate hcrc htype hseq => ?_⟩
  · have h : s.Counted n f (s.upstreamFrame n a) := State.CountsIn.counted hwf n.isLt hal hj ha
    exact ⟨_, execUpstreamFrame_next hclk n a, h.count, h.invalidRun, h.validRun, h.valid, h.judged, h.told, h.silent, h.regs⟩
  · refine ⟨_, execUpstreamFrame_next hclk n _, ?_⟩
    rw [State.upstreamFrame_chars hal]
    generalize hr : rxRun 18 (s.lk n).rxRd (cs.map (·.toNat)) = r
    have hdwf : (s.decoded n r).wf = true := State.decoded_wf r hwf
    have hdal : (s.decoded n r).alignedLink n = true := State.decoded_aligned r hwf n.isLt hal
    have hmiss : (s.decoded n r).fld (CQ_ERR_MISS n) = s.fld (CQ_ERR_MISS n) :=
      (State.leaves_decoded r (by simp [Fld.sparedBy, Fld.apart])).fld_of hwf
    have hcode := State.decoded_code (n := n) r hwf
    have hjudged := State.judgeChars_judged hdwf n.isLt hdal (dev := dev) r.got
    rw [State.upChars_eq hj cs dev hr]
    refine ⟨hjudged.rxRd.trans (congrArg LinkSt.rxRd (State.decoded_lk r hwf n.isLt)), hjudged.judged, fun hgot => ?_, fun hgot => ?_⟩
    · obtain ⟨hcount, hkept⟩ := State.judgeChars_none_fld hdwf n.isLt hdal (dev := dev)
      rw [hgot, hcount, hmiss]
      exact ⟨rfl, hkept.trans hcode⟩
    · rw [hgot, State.judgeChars_abort_fld hdwf n.isLt hdal, hcode]
      omega
  · have h := State.upstreamFrame_takes hwf n.isLt hal hj hlate hcrc htype hseq
    exact ⟨_, execUpstreamFrame_next hclk n _, h.invalidRun, h.validRun, h.valid, h.imeas, h.useq, h.bst, h.run, h.ready⟩
end

section
/-!
The words of a law image (spec/04 R86): a word is made of the five fields of its instruction, and gives them back.
-/

namespace Sys2Proof.Machine

open Sys2Proof

/-! ### The word of an instruction -/

section Word

variable {op : Nat} (hop : op < 256) (d a b : BitVec 7) (k : BitVec 3)

include hop

theorem insWord_toNat :
    (insWord op d a b k).toNat = op * 2 ^ 24 + d.toNat * 2 ^ 17 + a.toNat * 2 ^ 10 + b.toNat * 2 ^ 3 + k.toNat := by
  rw [insWord, BitVec.toNat_ofNat, Nat.mod_eq_of_lt hop]
  omega

theorem insOp_insWord : insOp (insWord op d a b k) = op := by
  rw [insOp, getBits, insWord_toNat hop]
  omega

theorem insD_insWord : insD (insWord op d a b k) = d := by
  apply BitVec.eq_of_toNat_eq
  rw [insD, getBits, insWord_toNat hop, BitVec.toNat_ofNat]
  omega

theorem insA_insWord : insA (insWord op d a b k) = a := by
  apply BitVec.eq_of_toNat_eq
  rw [insA, getBits, insWord_toNat hop, BitVec.toNat_ofNat]
  omega

theorem insB_insWord : insB (insWord op d a b k) = b := by
  apply BitVec.eq_of_toNat_eq
  rw [insB, getBits, insWord_toNat hop, BitVec.toNat_ofNat]
  omega

theorem insK_insWord : insK (insWord op d a b k) = k := by
  apply BitVec.eq_of_toNat_eq
  rw [insK, getBits, insWord_toNat hop, BitVec.toNat_ofNat]
  omega

end Word

/-- A word is the word of its own five fields. -/
theorem insWord_fields (w : Word) : insWord (insOp w) (insD w) (insA w) (insB w) (insK w) = w := by
  apply BitVec.eq_of_toNat_eq
  have hop : insOp w < 256 := Nat.mod_lt _ (by decide)
  rw [insWord_toNat hop, insD, insA, insB, insK, insOp]
  simp only [getBits, BitVec.toNat_ofNat]
  omega

/-- What decodes under an opcode encodes under it. -/
theorem insWord_of_insOp {w : Word} {op : Nat} (h : insOp w = op) : insWord op (insD w) (insA w) (insB w) (insK w) = w := by
  rw [← h, insWord_fields]

/-- Every opcode of Table 4.5 that a word decodes under is the one its instruction encodes to. -/
theorem lawEncode_lawDecode {c : Fin 2} {w : Word} {i : Instr} (h : lawDecode c w = some i) : lawEncode i = some w := by
  unfold lawDecode at h
  split at h
  case h_31 => exact absurd h (by simp)
  all_goals
    next hop =>
      obtain rfl := Option.some.inj h
      exact congrArg some (insWord_of_insOp hop)

end Sys2Proof.Machine

open Sys2Proof Sys2Proof.Machine

/-- Settles O8: an instruction's word gives back its five fields, and a word that decodes is the word of its own. -/
theorem lawWordsRoundTrip : Obligations.LawWordsRoundTrip := by
  refine ⟨fun c d a b k i w hi hw => ?_, fun c w i h => lawEncode_lawDecode h⟩
  simp only [List.mem_cons, List.not_mem_nil, or_false] at hi
  rcases hi with rfl | rfl | rfl | rfl | rfl | rfl | rfl | rfl | rfl | rfl | rfl | rfl | rfl | rfl | rfl | rfl | rfl | rfl | rfl | rfl |
    rfl | rfl | rfl | rfl | rfl | rfl | rfl | rfl | rfl | rfl
  all_goals
    obtain rfl := Option.some.inj hw
    rw [lawDecode, insOp_insWord (by decide), insD_insWord (by decide), insA_insWord (by decide), insB_insWord (by decide),
      insK_insWord (by decide)]
    rfl
end

section
/-!
One instruction of a control engine (spec/04 R79, R84 to R88): what it reads, what its context is afterwards, and which lanes
CE_SAT shows.
-/

namespace Sys2Proof.Machine

open Sys2Proof

/-! ### Entries of a list of operands -/

theorem nth_set_same {α : Type} (d : α) {l : List α} {i : Nat} (h : i < l.length) (a : α) : nth d (l.set i a) i = a := by
  simp [nth, List.getD_eq_getElem?_getD, h]

theorem nth_set_other {α : Type} (d : α) (l : List α) {i j : Nat} (h : i ≠ j) (a : α) : nth d (l.set i a) j = nth d l j := by
  simp [nth, List.getD_eq_getElem?_getD, h]

theorem mem_lanes {i : Nat} : i ∈ lanes ↔ i < 32 := List.mem_range

/-- Lane `i` of what is given lane by lane. -/
theorem nth_map_lanes {α β : Type} (d : β) (g : α → β) (f : Nat → α) {i : Nat} (h : i < 32) :
    nth d ((lanes.map f).map g) i = g (f i) := by
  simp [nth, lanes, List.getD_eq_getElem?_getD, List.getElem?_range h]

/-! ### Masks -/

/-- The sum of the powers of two that `p` selects below `n` has exactly those bits. -/
theorem foldl_bits (p : Nat → Bool) (n : Nat) :
    (List.range n).foldl (fun a i => if p i then a + 2 ^ i else a) 0 < 2 ^ n ∧
      ∀ i, ((List.range n).foldl (fun a i => if p i then a + 2 ^ i else a) 0).testBit i = (decide (i < n) && p i) := by
  induction n with
  | zero => simp
  | succ n ih =>
    obtain ⟨hlt, hbit⟩ := ih
    rw [List.range_succ, List.foldl_append, List.foldl_cons, List.foldl_nil]
    generalize (List.range n).foldl _ 0 = a at *
    have hbelow : a.testBit n = false := Nat.testBit_lt_two_pow hlt
    cases hp : p n with
    | false =>
      refine ⟨by simp only [Bool.false_eq_true, if_false]; omega, fun i => ?_⟩
      rw [if_neg (by simp), hbit]
      rcases Nat.lt_trichotomy i n with h | rfl | h
      · simp [h, Nat.lt_succ_of_lt h]
      · simp [hp]
      · simp [Nat.not_lt.mpr h.le, Nat.not_lt.mpr (Nat.succ_le_of_lt h)]
    | true =>
      refine ⟨by simp only [if_true]; omega, fun i => ?_⟩
      rw [if_pos rfl, Nat.add_comm]
      rcases Nat.lt_trichotomy i n with h | rfl | h
      · rw [Nat.testBit_two_pow_add_gt h, hbit]
        simp [h, Nat.lt_succ_of_lt h]
      · rw [Nat.testBit_two_pow_add_eq, hbelow]
        simp [hp]
      · rw [Nat.testBit_lt_two_pow (i := i) (x := 2 ^ n + a) (by
          have : 2 ^ (n + 1) ≤ 2 ^ i := Nat.pow_le_pow_right (by decide) h
          omega)]
        simp [Nat.not_lt.mpr (Nat.succ_le_of_lt h)]

theorem inMask_maskOf (p : Nat → Bool) {i : Nat} (h : i < 32) : inMask (maskOf p) i = p i := by
  have hbit := (foldl_bits p 32).2 i
  rw [inMask, maskOf, BitVec.getLsbD_ofNat, lanes, hbit]
  simp [h]

/-- The bits of the mask of saturated lanes. -/
theorem testBit_satMask (f : Nat → Lane) {i : Nat} (h : i < 32) : (satMask (lanes.map f)).testBit i = (f i).sat := by
  have hzip := List.zip_map' (f := id) (g := f) (l := lanes)
  rw [List.map_id] at hzip
  rw [satMask, hzip, List.foldl_map]
  exact ((foldl_bits (fun i => (f i).sat) 32).2 i).trans (by simp [h])

/-! ### The context of an instruction -/

/-- What the instructions of an engine read of it. -/
def CeSt.operands (e : CeSt) : Bool × CeCtx × CeCtx × CeCtx × List Stage × List Stage := (e.window, e.work, e.sf, e.com, e.inp, e.cv)

theorem WindowView.mode : WindowView CeSt.operands GLB_MODE_MODE := ⟨rfl, rfl, rfl, rfl, by decide, by decide, by decide⟩

/-- An event leaves the operands. -/
theorem State.event_operands (s : State) (code : Nat) (data : List Nat) (c : Nat) :
    ((s.event code data).ce c).operands = (s.ce c).operands :=
  have hkept : s.CeKeeps CeSt.operands GLB_MODE_MODE (s.event code data) := .event .mode (.refl s)
  hkept.ce c

/-- The flags of saturated lanes, and the event that tells them, leave the operands. -/
theorem State.ceSaturate_operands (s : State) (c c' m : Nat) : ((s.ceSaturate c m).ce c').operands = (s.ce c').operands := by
  have hsat : GLB_MODE_MODE.reg ≠ R_CE_SAT c := Nat.ne_of_lt (Nat.lt_add_right _ (by decide))
  have hflagged : s.CeKeeps CeSt.operands GLB_MODE_MODE (s.setReg (R_CE_SAT c) (s.reg (R_CE_SAT c) ||| BitVec.ofNat 32 m)) :=
    .setReg (.refl s) hsat
  have hkept : s.CeKeeps CeSt.operands GLB_MODE_MODE (s.ceSaturate c m) :=
    .ite (.refl s) (.ite hflagged (.event .mode (.updCe hflagged rfl)))
  exact hkept.ce c'

/-- The engine takes the instruction now: the clocks run, it is not skipped, and its operands are legal and all there. -/
structure State.Ready (s : State) (c op : Nat) (d a b : BitVec 7) (k : BitVec 3) : Prop where
  wf : s.wf = true
  clocked : s.clocked = true
  takes : s.ceTakes c (legalOperands op d a b k) = true
  skip : (s.ctx c).skip = 0
  acc : (s.ctx c).acc.length = 4
  st : (s.ctx c).st.length = 32
  dn : (s.ctx c).dn.length = 3
  k : (s.ctx c).k.length = 8
  com : (s.ce c).com.k.length = 8

theorem State.ready_of_ceReady {s : State} {c op : Nat} {d a b : BitVec 7} {k : BitVec 3} (h : s.ceReady c op d a b k = true) :
    s.Ready c op d a b k := by
  simp only [State.ceReady, Bool.and_eq_true, beq_iff_eq] at h
  obtain ⟨⟨⟨⟨⟨⟨⟨⟨hwf, hclk⟩, htakes⟩, hskip⟩, hacc⟩, hst⟩, hdn⟩, hk⟩, hcom⟩ := h
  exact ⟨hwf, hclk, htakes, hskip, hacc, hst, hdn, hk, hcom⟩

theorem State.Ready.legal {s : State} {c op : Nat} {d a b : BitVec 7} {k : BitVec 3} (h : s.Ready c op d a b k) :
    legalOperands op d a b k = true := by
  have htakes := h.takes
  simp only [State.ceTakes, Bool.and_eq_true] at htakes
  exact htakes.1.1

/-- The context in which the instruction has its effect: its cycles are spent. -/
def State.spent (s : State) (c op : Nat) : CeCtx := { s.ctx c with cycles := (s.ctx c).cycles + (opCycles op).getD 0 }

/-- From `s` to `t` engine `c` has come to the context `w`; its inputs and its coefficients are the same. -/
structure State.Took (s : State) (c : Nat) (w : CeCtx) (t : State) : Prop where
  ctx : t.ctx c = w
  inp : (t.ce c).inp = (s.ce c).inp
  cv : (t.ce c).cv = (s.ce c).cv

/-- A context that has the masks of the hardware is the engine's once it is put back. -/
theorem State.took_setCtx {s : State} (hwf : s.wf = true) {c : Fin 2} (hcom : (s.ce c).com.k.length = 8) {w : CeCtx}
    (hk : w.k.take 4 = (s.ctx c).k.take 4) : s.Took c w (s.setCtx c w) := by
  have hce := State.ce_updCe hwf c fun e => if e.window then { e with work := w } else { e with sf := w }
  cases hwin : (s.ce c).window with
  | true =>
    rw [hwin, if_pos rfl] at hce
    have hctx : (s.setCtx c w).ctx c = w := by
      rw [State.ctx, State.setCtx, hce]
      simp
    refine ⟨hctx, ?_, ?_⟩ <;> rw [State.setCtx, hce]
  | false =>
    rw [hwin, if_neg (by simp)] at hce
    have hhw : w.k.take 4 = (s.ce c).com.k.take 4 := by
      simpa [State.ctx, hwin, hcom] using hk
    have hctx : (s.setCtx c w).ctx c = w := by
      rw [State.ctx, State.setCtx, hce]
      simp [← hhw]
    refine ⟨hctx, ?_, ?_⟩ <;> rw [State.setCtx, hce]

theorem State.Took.of_operands {s t u : State} {c : Nat} {w : CeCtx} (h : s.Took c w t)
    (hops : (u.ce c).operands = (t.ce c).operands) : s.Took c w u := by
  simp only [CeSt.operands, Prod.mk.injEq] at hops
  obtain ⟨hwin, hwork, hsf, hcom, hinp, hcv⟩ := hops
  refine ⟨?_, hinp.trans h.inp, hcv.trans h.cv⟩
  rw [← h.ctx, State.ctx, State.ctx, hwin, hwork, hsf, hcom]

section Step

variable {s : State} {c : Fin 2} {op : Nat} {d a b : BitVec 7} {k : BitVec 3} (h : s.Ready c op d a b k) (f : CeEffect)

include h

/-- The effect is put back, and what saturated is flagged. -/
theorem State.Ready.ceStep_eq : s.ceStep c op d a b k f =
    (s.setCtx c (f (s.ce c) (s.spent c op)).1).ceSaturate c (f (s.ce c) (s.spent c op)).2 := by
  rw [State.ceStep, if_pos h.takes]
  exact if_neg (by simp [h.skip])

variable {f}

theorem State.Ready.took {w : CeCtx} (heff : (f (s.ce c) (s.spent c op)).1 = w) (hk : w.k.take 4 = (s.ctx c).k.take 4) :
    s.Took c w (s.ceStep c op d a b k f) := by
  rw [h.ceStep_eq, heff]
  exact (State.took_setCtx h.wf h.com hk).of_operands (State.ceSaturate_operands _ _ _ _)

end Step

/-! ### Accumulators -/

/-- The opcodes that write an accumulator (Table 4.5). -/
def accOps : List Nat :=
  [0x08, 0x09, 0x0A, 0x0B, 0x0C, 0x0D, 0x0E, 0x10, 0x11, 0x12, 0x13, 0x14, 0x15, 0x16, 0x18, 0x19, 0x1A, 0x1B]

theorem isAcc_of_legal {op : Nat} {d a b : BitVec 7} {k : BitVec 3} (h : legalOperands op d a b k = true) (hop : op ∈ accOps) :
    isAcc d = true := by
  simp only [accOps, List.mem_cons, List.not_mem_nil, or_false] at hop
  rcases hop with rfl | rfl | rfl | rfl | rfl | rfl | rfl | rfl | rfl | rfl | rfl | rfl | rfl | rfl | rfl | rfl | rfl | rfl
  all_goals simp_all [legalOperands]

/-- Accumulator `d` at exponent `ea` with the lanes `f`, and the mask of those that saturated. -/
def accPut (w : CeCtx) (d : BitVec 7) (ea : Int) (f : Nat → Lane) : CeCtx × Nat :=
  (writeAcc w d ⟨ea, laneVals (lanes.map f)⟩, satMask (lanes.map f))

theorem readAcc_writeAcc_same {w : CeCtx} (hlen : w.acc.length = 4) {d : BitVec 7} (hd : isAcc d = true) (x : Acc) :
    readAcc (writeAcc w d x) d = x := by
  simp only [isAcc, decide_eq_true_eq] at hd
  exact nth_set_same _ (by omega) x

theorem readAcc_writeAcc_other (w : CeCtx) {d n : BitVec 7} (hd : isAcc d = true) (hn : isAcc n = true) (hne : n ≠ d) (x : Acc) :
    readAcc (writeAcc w d x) n = readAcc w n := by
  simp only [isAcc, decide_eq_true_eq] at hd hn
  have hne' : n.toNat ≠ d.toNat := fun e => hne (BitVec.eq_of_toNat_eq e)
  exact nth_set_other _ _ (by omega) x

theorem State.AccSet.congr {s t : State} {c : Nat} {d : BitVec 7} {ea : Int} {f g : Nat → Int} (h : s.AccSet c d ea f t)
    (hfg : ∀ i < 32, f i = g i) : s.AccSet c d ea g t := by
  obtain ⟨hea, hlane, hrest⟩ := h
  exact ⟨hea, fun i hi => (hlane i hi).trans (hfg i hi), hrest⟩

section Lanes

variable {s t : State} {c : Nat} {d : BitVec 7} {ea : Int} {k : BitVec 3} {f g : Nat → Int}
  (h : s.AccSet c d ea (fun i => if s.inK c k i then f i else g i) t) {i : Nat} (hi : i < 32)

include h hi

theorem State.AccSet.lane_in (hin : s.inK c k i = true) : (t.acc c d).lane i = f i := (h.2.1 i hi).trans (if_pos hin)

theorem State.AccSet.lane_out (hout : s.inK c k i = false) : (t.acc c d).lane i = g i := (h.2.1 i hi).trans (if_neg (by simp [hout]))

end Lanes

section Acc

variable {s : State} {c : Fin 2} {op : Nat} {d a b : BitVec 7} {k : BitVec 3} (h : s.Ready c op d a b k) (hop : op ∈ accOps)
  {f : CeEffect}

include h hop

/-- An effect that puts lanes into accumulator `d` sets it and nothing else. -/
theorem State.Ready.accSet_put {ea : Int} {g : Nat → Lane} (heff : (f (s.ce c) (s.spent c op)).1 = (accPut (s.spent c op) d ea g).1) :
    s.AccSet c d ea (fun i => (g i).v) (s.ceStep c op d a b k f) := by
  have hd := isAcc_of_legal h.legal hop
  have htook := h.took heff rfl
  have hacc : (s.ceStep c op d a b k f).acc c d = ⟨ea, laneVals (lanes.map g)⟩ := by
    rw [State.acc, htook.ctx]
    exact readAcc_writeAcc_same h.acc hd _
  refine ⟨by rw [hacc], fun i hi => ?_, fun n hn hne => ?_, ?_, ?_, ?_⟩
  · rw [hacc]
    exact nth_map_lanes 0 Lane.v g hi
  · rw [State.acc, htook.ctx]
    exact readAcc_writeAcc_other _ hd hn hne _
  · rw [htook.ctx]
    rfl
  · rw [htook.ctx]
    rfl
  · rw [htook.ctx]
    rfl

end Acc

/-! ### Alignment and saturation -/

theorem clampI_of_le {lo hi x : Int} (hlo : lo ≤ x) (hhi : x ≤ hi) : clampI lo hi x = x := by
  rw [clampI]
  omega

theorem scale_zero (x : Int) : scale x 0 = x := by simp [scale]

/-- A term at the exponent of the accumulator is taken as it is. -/
theorem alignTo_self (e x : Int) : alignTo e e x = ⟨x, false⟩ := by
  rw [alignTo, if_pos (le_refl e), if_neg (by omega), Int.sub_self, scale_zero]

section Effects

variable {s : State} {c : Fin 2} {op : Nat} {d a b : BitVec 7} {k : BitVec 3} (h : s.Ready c op d a b k) (hop : op ∈ accOps)
  {f : CeEffect}

include h hop

/-- An accumulator set at exponent `ef`: the lanes in K take `g`, saturated, and the others are re-expressed (R79, R86). -/
theorem State.Ready.accSet_at {ef : Int} {g : Nat → Int} (heff : (f (s.ce c) (s.spent c op)).1 = (accAt (s.spent c op) d k ef g).1)
    (hlo : -256 ≤ ef) (hhi : ef ≤ 255) :
    s.AccSet c d ef (fun i => if s.inK c k i then clampI accMin accMax (g i)
      else (alignTo ef (s.acc c d).ea ((s.acc c d).lane i)).v) (s.ceStep c op d a b k f) := by
  have hset := h.accSet_put hop heff
  rw [show clampEa ef = ef from clampI_of_le hlo hhi] at hset
  refine hset.congr fun i _ => ?_
  rw [alignTo_self]
  change (if s.inK c k i then satAcc (g i) else alignTo ef (s.acc c d).ea ((s.acc c d).lane i)).v = _
  split
  · rfl
  · rfl

/-- An accumulator changed at its own exponent: the lanes in K take `g`, the others stay (R86). -/
theorem State.Ready.accSet_on {g : Acc → Nat → Lane} (heff : (f (s.ce c) (s.spent c op)).1 = (accOn (s.spent c op) d k g).1) :
    s.AccSet c d (s.acc c d).ea (fun i => if s.inK c k i then (g (s.acc c d) i).v else (s.acc c d).lane i)
      (s.ceStep c op d a b k f) := by
  refine (h.accSet_put hop heff).congr fun i _ => ?_
  change (if s.inK c k i then g (s.acc c d) i else ⟨(s.acc c d).lane i, false⟩).v = _
  split
  · rfl
  · rfl

end Effects

/-! ### Lanes of well-formed operands -/

theorem Stage.exp_of_ok {t : Stage} (h : t.ok = true) : -128 ≤ t.e ∧ t.e ≤ 127 := by
  simp only [Stage.ok, Bool.and_eq_true, decide_eq_true_eq] at h
  exact h.1

theorem Stage.lane_of_ok {t : Stage} (h : t.ok = true) {i : Nat} (hi : i < 32) : -(2 ^ 23) ≤ t.lane i ∧ t.lane i ≤ 2 ^ 23 - 1 := by
  simp only [Stage.ok, Bool.and_eq_true, List.all_eq_true, decide_eq_true_eq] at h
  exact h.2 i (mem_lanes.mpr hi)

theorem Acc.lane_of_ok {x : Acc} (h : x.ok = true) {i : Nat} (hi : i < 32) : accMin ≤ x.lane i ∧ x.lane i ≤ accMax := by
  simp only [Acc.ok, Bool.and_eq_true, List.all_eq_true, decide_eq_true_eq] at h
  exact h.2 i (mem_lanes.mpr hi)

/-- A mantissa as an accumulator value does not saturate. -/
theorem clampI_mant {x : Int} (h : -(2 ^ 23) ≤ x ∧ x ≤ 2 ^ 23 - 1) : clampI accMin accMax (x * 2 ^ 23) = x * 2 ^ 23 :=
  clampI_of_le (by rw [accMin]; omega) (by rw [accMax]; omega)

theorem sext7_bounds (n : BitVec 7) : -64 ≤ sext 7 n.toNat ∧ sext 7 n.toNat ≤ 63 := by
  have := n.isLt
  simp only [sext]
  split <;> omega

end Sys2Proof.Machine

open Sys2Proof Sys2Proof.Machine

/-- Settles O21: LDA, ZRA and EXA set the accumulator at an exponent of their own (`accSet_at`), ADA and SBA change it at its own
(`accSet_on`). -/
theorem ceAdditiveInstructions : Obligations.CeAdditiveInstructions := by
  intro s c d a b k ha hd
  have hea := Stage.exp_of_ok ha
  have himm := sext7_bounds b
  refine ⟨fun hr => ?_, fun hr => ?_, fun hr => ?_, fun hr => ?_, fun hr hlo hhi => ?_⟩
  all_goals
    have h := State.ready_of_ceReady hr
    refine ⟨_, State.live_next h.clocked _, ?_⟩
  · refine (h.accSet_at (by decide) rfl (by omega) (by omega)).congr fun i hi => ?_
    exact congrArg (ite _ · _) (clampI_mant (Stage.lane_of_ok ha hi))
  · refine (h.accSet_on (g := fun x i => addTerm 1 x i (s.src c a).e (srcQ (s.src c a) i)) (by decide) rfl).congr fun i _ => ?_
    rw [addTerm, one_mul]
    rfl
  · refine (h.accSet_on (g := fun x i => addTerm (-1) x i (s.src c a).e (srcQ (s.src c a) i)) (by decide) rfl).congr fun i _ => ?_
    rw [addTerm, neg_one_mul]
    rfl
  · exact (h.accSet_at (by decide) rfl (by omega) (by omega)).congr fun i _ => rfl
  · refine (h.accSet_at (by decide) rfl hlo hhi).congr fun i hi => ?_
    obtain ⟨hmin, hmax⟩ := Acc.lane_of_ok hd hi
    exact congrArg (ite _ · _) (clampI_of_le hmin hmax)
end

section
/-!
Products of mantissas and reciprocals (spec/04 R83, R86): what they round to, and that they do not saturate.
-/

namespace Sys2Proof.Machine

open Sys2Proof

/-- Rounding to nearest misses by half a unit at most. -/
theorem rneDiv_near (n : Int) {d : Int} (hd : 0 < d) : 2 * (rneDiv n d * d - n).natAbs ≤ d.natAbs := by
  have hrem := Int.emod_nonneg n hd.ne'
  have hlt := Int.emod_lt_of_pos n hd
  have hdiv : n / d * d = n - n % d := by rw [Int.emod_def, mul_comm]; omega
  have hup : (n / d + 1) * d = n - n % d + d := by rw [add_mul, one_mul, hdiv]
  have hr : n - n / d * d = n % d := by omega
  rw [rneDiv]
  simp only [hr]
  split
  · rw [hdiv]; omega
  · split
    · rw [hup]; omega
    · split
      · rw [hdiv]; omega
      · rw [hup]; omega

/-- The reciprocal of a mantissa as RCP gives it, before saturation (R86). -/
def recip (m : Int) : Int := if m = 0 then accMax else if m < 0 then -(rneDiv (2 ^ 54) (-m)) else rneDiv (2 ^ 54) m

theorem recip_near {m : Int} (hm : m ≠ 0) : 2 * (recip m * m - 2 ^ 54).natAbs ≤ m.natAbs := by
  rw [recip, if_neg hm]
  split
  · next hneg =>
    have hnear := rneDiv_near (2 ^ 54) (d := -m) (by omega)
    rwa [Int.natAbs_neg, mul_neg, ← neg_mul] at hnear
  · exact rneDiv_near _ (by omega)

/-- No reciprocal saturates. -/
theorem clampI_recip (m : Int) : clampI accMin accMax (recip m) = recip m := by
  by_cases hm : m = 0
  · rw [recip, if_pos hm]
    decide
  · have hnear := recip_near hm
    have hsmall : (recip m).natAbs ≤ 2 ^ 55 - 1 := by
      have hprod : (recip m * m).natAbs = (recip m).natAbs * m.natAbs := Int.natAbs_mul _ _
      have hle : 2 * (recip m * m).natAbs ≤ 2 ^ 55 + m.natAbs := by omega
      have hpos : 1 ≤ m.natAbs := by omega
      rw [hprod] at hle
      by_contra hbig
      have := Nat.mul_le_mul_right m.natAbs (show 2 ^ 55 ≤ (recip m).natAbs by omega)
      omega
    exact clampI_of_le (by rw [accMin]; omega) (by rw [accMax]; omega)

/-- The product of two mantissas does not saturate. -/
theorem clampI_product {x y : Int} (hx : -(2 ^ 23) ≤ x ∧ x ≤ 2 ^ 23 - 1) (hy : -(2 ^ 23) ≤ y ∧ y ≤ 2 ^ 23 - 1) :
    clampI accMin accMax (x * y) = x * y := by
  have hprod : (x * y).natAbs ≤ 2 ^ 23 * 2 ^ 23 := by
    rw [Int.natAbs_mul]
    exact Nat.mul_le_mul (by omega) (by omega)
  exact clampI_of_le (by rw [accMin]; omega) (by rw [accMax]; omega)

end Sys2Proof.Machine

open Sys2Proof Sys2Proof.Machine

/-- Settles O22: a product of mantissas is exact in a lane, and so is a reciprocal (`recip_near`). -/
theorem ceProductsAndReciprocal : Obligations.CeProductsAndReciprocal := by
  intro s c d a b k ha hb hd
  have hea := Stage.exp_of_ok ha
  have heb := Stage.exp_of_ok hb
  refine ⟨fun hr => ?_, fun hr => ?_, fun hr => ?_, fun hr => ?_⟩
  all_goals
    have h := State.ready_of_ceReady hr
    refine ⟨_, State.live_next h.clocked _, ?_⟩
  · refine (h.accSet_at (by decide) rfl (by omega) (by omega)).congr fun i hi => ?_
    exact congrArg (ite _ · _) (clampI_product (Stage.lane_of_ok ha hi) (Stage.lane_of_ok hb hi))
  · refine (h.accSet_on (g := fun x i => addTerm 1 x i ((s.src c a).e + (s.src c b).e) ((s.src c a).lane i * (s.src c b).lane i))
      (by decide) rfl).congr fun i _ => ?_
    rw [addTerm, one_mul]
    rfl
  · refine (h.accSet_on (g := fun x i => addTerm (-1) x i ((s.src c a).e + (s.src c b).e) ((s.src c a).lane i * (s.src c b).lane i))
      (by decide) rfl).congr fun i _ => ?_
    rw [addTerm, neg_one_mul]
    rfl
  · have hset := h.accSet_at (f := ceRcp d a k) (ef := 15 - (s.src c a).e) (g := fun i => recip ((s.src c a).lane i)) (by decide) rfl
      (by omega) (by omega)
    refine ⟨hset.1, fun i hi hin hzero => ?_, fun i hi hin hne => ?_, fun i hi hout => hset.lane_out hi hout⟩
    · rw [hset.lane_in hi hin, clampI_recip, hzero]
      rfl
    · rw [hset.lane_in hi hin, clampI_recip]
      exact recip_near hne
end

section
/-!
The lanes that an instruction saturates, as CE_SAT shows them, and the magnitude and the negative of a lane (spec/04 R84, R86).
-/

namespace Sys2Proof.Machine

open Sys2Proof

/-! ### CE_SAT -/

theorem ceSat_not_cupStat : ∀ c : Fin 2, isCupStat (R_CE_SAT c) = false := by decide

/-- CE_SAT gathers the lanes that saturated (R84). -/
theorem State.inMask_ceSaturate {s : State} (hwf : s.wf = true) (c : Fin 2) (m : Nat) {i : Nat} (hi : i < 32) :
    inMask ((s.ceSaturate c m).reg (R_CE_SAT c)) i = (inMask (s.reg (R_CE_SAT c)) i || m.testBit i) := by
  by_cases hm : m = 0
  · rw [State.ceSaturate, if_pos hm, hm, Nat.zero_testBit, Bool.or_false]
  · have hset : (s.setReg (R_CE_SAT c) (s.reg (R_CE_SAT c) ||| BitVec.ofNat 32 m)).reg (R_CE_SAT c) =
        s.reg (R_CE_SAT c) ||| BitVec.ofNat 32 m := by rw [State.reg_setReg hwf, if_pos rfl]
    have hreg : (s.ceSaturate c m).reg (R_CE_SAT c) = s.reg (R_CE_SAT c) ||| BitVec.ofNat 32 m := by
      rw [State.ceSaturate, if_neg hm]
      simp only
      split
      · exact hset
      · rw [State.event_reg ((State.updCe_keeps (State.setReg_keeps (.refl s) _ _) _ _).wf hwf) _ _ (ceSat_not_cupStat c)]
        exact hset
    rw [hreg, inMask, BitVec.getLsbD_or, BitVec.getLsbD_ofNat]
    simp [inMask, hi]

/-- The lanes that an effect on accumulator `d` saturates are flagged. -/
theorem State.Ready.inMask_sat {s : State} {c : Fin 2} {op : Nat} {d a b : BitVec 7} {k : BitVec 3} (h : s.Ready c op d a b k)
    {f : CeEffect} {g : Acc → Nat → Lane} (heff : f (s.ce c) (s.spent c op) = accOn (s.spent c op) d k g) {i : Nat} (hi : i < 32) :
    inMask ((s.ceStep c op d a b k f).reg (R_CE_SAT c)) i =
      (inMask (s.reg (R_CE_SAT c)) i || (s.inK c k i && (g (s.acc c d) i).sat)) := by
  have hmask : (accOn (s.spent c op) d k g).2.testBit i = (s.inK c k i && (g (s.acc c d) i).sat) := by
    refine (testBit_satMask (fun i => if s.inK c k i then g (s.acc c d) i else ⟨(s.acc c d).lane i, false⟩) hi).trans ?_
    cases s.inK c k i <;> rfl
  rw [h.ceStep_eq, heff, State.inMask_ceSaturate ((State.setCtx_keeps (.refl s) _ _).wf h.wf) c _ hi, hmask]
  rfl

/-! ### Magnitude and sign -/

section Lane

variable {x : Int} (hx : accMin ≤ x ∧ x ≤ accMax)

include hx

/-- The most negative value has no magnitude and no negative: it saturates (R84). -/
theorem satAcc_natAbs : (satAcc x.natAbs).v = if x = accMin then accMax else (x.natAbs : Int) := by
  have hmin : accMin = -(2 ^ 55) := rfl
  have hmax : accMax = 2 ^ 55 - 1 := rfl
  by_cases hleast : x = accMin
  · rw [if_pos hleast, hleast]
    decide
  · rw [if_neg hleast]
    exact clampI_of_le (by omega) (by omega)

theorem satAcc_neg : (satAcc (-x)).v = if x = accMin then accMax else -x := by
  have hmin : accMin = -(2 ^ 55) := rfl
  have hmax : accMax = 2 ^ 55 - 1 := rfl
  by_cases hleast : x = accMin
  · rw [if_pos hleast, hleast]
    decide
  · rw [if_neg hleast]
    exact clampI_of_le (by omega) (by omega)

theorem satAcc_neg_sat : (satAcc (-x)).sat = (x == accMin) := by
  have hmin : accMin = -(2 ^ 55) := rfl
  have hmax : accMax = 2 ^ 55 - 1 := rfl
  rw [Bool.eq_iff_iff, beq_iff_eq]
  exact decide_eq_true_iff.trans (by omega)

end Lane

end Sys2Proof.Machine

open Sys2Proof Sys2Proof.Machine

/-- Settles O23: each changes the lanes of K at the accumulator's exponent (`accSet_on`); NEG flags the most negative value. -/
theorem ceLimitsAndSigns : Obligations.CeLimitsAndSigns := by
  intro s c d a b k ha hb hd
  refine ⟨fun hr => ?_, fun hr => ?_, fun hr => ?_, fun hr => ?_, fun hr => ?_, fun hr => ?_⟩
  all_goals
    have h := State.ready_of_ceReady hr
    refine ⟨_, State.live_next h.clocked _, ?_⟩
  · exact h.accSet_on (g := fun x i =>
      ⟨min (x.lane i) (alignTo x.ea (s.src c a).e (srcQ (s.src c a) i)).v, (alignTo x.ea (s.src c a).e (srcQ (s.src c a) i)).sat⟩)
      (by decide) rfl
  · exact h.accSet_on (g := fun x i =>
      ⟨max (x.lane i) (alignTo x.ea (s.src c a).e (srcQ (s.src c a) i)).v, (alignTo x.ea (s.src c a).e (srcQ (s.src c a) i)).sat⟩)
      (by decide) rfl
  · exact h.accSet_on (g := fun x i =>
      ⟨max (alignTo x.ea (s.src c a).e (srcQ (s.src c a) i)).v
          (min (x.lane i) (alignTo x.ea (s.src c b).e (srcQ (s.src c b) i)).v),
        (alignTo x.ea (s.src c a).e (srcQ (s.src c a) i)).sat || (alignTo x.ea (s.src c b).e (srcQ (s.src c b) i)).sat⟩)
      (by decide) rfl
  · exact h.accSet_on (g := fun x i => alignTo x.ea (s.src c a).e (srcQ (s.src c a) i)) (by decide) rfl
  · exact (h.accSet_on (g := fun x i => satAcc (x.lane i).natAbs) (by decide) rfl).congr fun i hi =>
      congrArg (ite _ · _) (satAcc_natAbs (Acc.lane_of_ok hd hi))
  · refine ⟨(h.accSet_on (g := fun x i => satAcc (-x.lane i)) (by decide) rfl).congr fun i hi =>
      congrArg (ite _ · _) (satAcc_neg (Acc.lane_of_ok hd hi)), fun i hi => ?_⟩
    rw [h.inMask_sat (g := fun x i => satAcc (-x.lane i)) rfl hi, satAcc_neg_sat (Acc.lane_of_ok hd hi)]
end

section
/-!
Reductions and spreads over the groups of a map (spec/04 R77, R86).
-/

namespace Sys2Proof.Machine

open Sys2Proof

/-! ### Sums and greatest values of a group -/

theorem sumL_eq_sum (l : List Int) : sumL l = l.sum := List.sum_eq_foldl.symm

theorem natAbs_sum_le {l : List Int} {B : Nat} (h : ∀ x ∈ l, x.natAbs ≤ B) : l.sum.natAbs ≤ l.length * B := by
  induction l with
  | nil => exact Nat.zero_le _
  | cons x l ih =>
    have hx := h x List.mem_cons_self
    have hl := ih fun y hy => h y (List.mem_cons_of_mem _ hy)
    rw [List.sum_cons, List.length_cons, Nat.succ_mul]
    omega

/-- The greatest of a list that is not empty is one of it, and the others are no greater. -/
theorem maxL_spec {l : List Int} (h : l ≠ []) : maxL l ∈ l ∧ ∀ x ∈ l, x ≤ maxL l := by
  obtain ⟨x, t, rfl⟩ := List.exists_cons_of_ne_nil h
  exact List.max?_eq_some_iff.mp List.max?_cons'

theorem clampI_zero : clampI accMin accMax 0 = 0 := by decide

section Group

variable {t : Stage} (ht : t.ok = true)

include ht

theorem natAbs_srcQ_le {i : Nat} (hi : i < 32) : (srcQ t i).natAbs ≤ 2 ^ 46 := by
  obtain ⟨hlo, hhi⟩ := Stage.lane_of_ok ht hi
  rw [srcQ]
  omega

theorem clampI_srcQ {i : Nat} (hi : i < 32) : clampI accMin accMax (srcQ t i) = srcQ t i := clampI_mant (Stage.lane_of_ok ht hi)

omit ht in
theorem srcQ_of_mem_group {mp : Nat → Option Nat} {g : Nat} {x : Int} (hx : x ∈ (membersOf mp g).map (srcQ t)) :
    ∃ m < 32, mp m = some g ∧ x = srcQ t m := by
  obtain ⟨m, hm, rfl⟩ := List.mem_map.mp hx
  obtain ⟨hlane, hmp⟩ := List.mem_filter.mp hm
  exact ⟨m, mem_lanes.mp hlane, beq_iff_eq.mp hmp, rfl⟩

/-- Neither the sum of a group nor its greatest value saturates. -/
theorem clampI_sum (mp : Nat → Option Nat) (g : Nat) :
    clampI accMin accMax (sumL ((membersOf mp g).map (srcQ t))) = sumL ((membersOf mp g).map (srcQ t)) := by
  have hlen : ((membersOf mp g).map (srcQ t)).length ≤ 32 := by
    rw [List.length_map]
    exact List.length_filter_le _ _
  have hsum := natAbs_sum_le (l := (membersOf mp g).map (srcQ t)) (B := 2 ^ 46) fun x hx => by
    obtain ⟨m, hm, -, rfl⟩ := srcQ_of_mem_group hx
    exact natAbs_srcQ_le ht hm
  have hle := hsum.trans (Nat.mul_le_mul_right _ hlen)
  rw [sumL_eq_sum]
  exact clampI_of_le (by rw [accMin]; omega) (by rw [accMax]; omega)

end Group

theorem mem_membersOf {mp : Nat → Option Nat} {g j : Nat} : j ∈ membersOf mp g ↔ j < 32 ∧ mp j = some g := by
  rw [membersOf, List.mem_filter, mem_lanes, beq_iff_eq]

/-- A lane that RMAX writes: 0 without members, else the greatest of them. -/
theorem reduceMax_spec {t : Stage} (ht : t.ok = true) (mp : Nat → Option Nat) (g : Nat) :
    ((∀ j < 32, mp j ≠ some g) → clampI accMin accMax (maxL ((membersOf mp g).map (srcQ t))) = 0) ∧
    ∀ j < 32, mp j = some g → srcQ t j ≤ clampI accMin accMax (maxL ((membersOf mp g).map (srcQ t))) ∧
      ∃ m < 32, mp m = some g ∧ clampI accMin accMax (maxL ((membersOf mp g).map (srcQ t))) = srcQ t m := by
  refine ⟨fun hnone => ?_, fun j hj hmp => ?_⟩
  · have hempty : membersOf mp g = [] := List.eq_nil_iff_forall_not_mem.mpr fun j hj =>
      hnone j (mem_membersOf.mp hj).1 (mem_membersOf.mp hj).2
    rw [hempty]
    exact clampI_zero
  · have hmem : srcQ t j ∈ (membersOf mp g).map (srcQ t) := List.mem_map_of_mem (mem_membersOf.mpr ⟨hj, hmp⟩)
    obtain ⟨hin, hle⟩ := maxL_spec (List.ne_nil_of_mem hmem)
    obtain ⟨m, hm, hmpm, heq⟩ := srcQ_of_mem_group hin
    have hjle := hle _ hmem
    rw [heq] at hjle ⊢
    rw [clampI_srcQ ht hm]
    exact ⟨hjle, m, hm, hmpm, rfl⟩

end Sys2Proof.Machine

open Sys2Proof Sys2Proof.Machine

/-- Settles O24: the lanes of K as each effect gives them (`accSet_at`); no sum of a group of 32 lanes saturates. -/
theorem ceGroupInstructions : Obligations.CeGroupInstructions := by
  intro s c d a b k ha _
  have hea := Stage.exp_of_ok ha
  refine ⟨fun hr => ?_, fun hr => ?_, fun hr => ?_⟩
  all_goals
    have h := State.ready_of_ceReady hr
    refine ⟨_, State.live_next h.clocked _, ?_⟩
  · have hset := h.accSet_at (f := ceReduce sumL d a b k) (ef := (s.src c a).e)
      (g := fun i => if isTarget b i then sumL ((membersOf (groupMap (s.ce c) b) i).map (srcQ (s.src c a))) else 0)
      (by decide) rfl (by omega) (by omega)
    refine ⟨hset.1, fun i hi hin => (hset.lane_in hi hin).trans ?_⟩
    split
    · rw [clampI_sum ha, sumL_eq_sum]
      rfl
    · exact clampI_zero
  · have hset := h.accSet_at (f := ceReduce maxL d a b k) (ef := (s.src c a).e)
      (g := fun i => if isTarget b i then maxL ((membersOf (groupMap (s.ce c) b) i).map (srcQ (s.src c a))) else 0)
      (by decide) rfl (by omega) (by omega)
    refine ⟨hset.1, fun i hi hin => ?_⟩
    obtain ⟨hnone, hmax⟩ := reduceMax_spec ha (groupMap (s.ce c) b) i
    rw [hset.lane_in hi hin]
    cases htarget : isTarget b i with
    | false => exact ⟨fun _ => clampI_zero, by simp, by simp⟩
    | true => exact ⟨fun h => hnone (h.resolve_left (by simp)), fun j hj _ hmp => (hmax j hj hmp).1, fun j hj _ hmp => (hmax j hj hmp).2⟩
  · have hset := h.accSet_at (f := ceSprd d a b k) (ef := (s.src c a).e)
      (g := fun i => if isTarget b i then (if inMask (s.msk c 0) i then srcQ (s.src c a) i else 0)
        else match groupMap (s.ce c) b i with | some g => srcQ (s.src c a) g | none => 0)
      (by decide) rfl (by omega) (by omega)
    refine ⟨hset.1, fun i hi hin => ?_⟩
    rw [hset.lane_in hi hin]
    refine ⟨fun htarget => ?_, fun g hg htarget hmp => ?_, fun htarget hmp => ?_⟩
    · rw [if_pos htarget]
      split
      · exact clampI_srcQ ha hi
      · exact clampI_zero
    · rw [if_neg (by simp [htarget]), hmp]
      exact clampI_srcQ ha hg
    · rw [if_neg (by simp [htarget]), hmp]
      exact clampI_zero
end

section
/-!
The stages that stores write (spec/04 R85, R86).
-/

namespace Sys2Proof.Machine

open Sys2Proof

/-! ### Stages -/

/-- The opcodes that write a stage (Table 4.5). -/
def stageOps : List Nat := [0x20, 0x21, 0x22]

theorem isDst_of_legal {op : Nat} {d a b : BitVec 7} {k : BitVec 3} (h : legalOperands op d a b k = true) (hop : op ∈ stageOps) :
    isDst d = true := by
  simp only [stageOps, List.mem_cons, List.not_mem_nil, or_false] at hop
  rcases hop with rfl | rfl | rfl
  all_goals simp_all [legalOperands]

/-- Law stages and output stages lie in two lists. -/
theorem writeStage_law (w : CeCtx) {d : BitVec 7} (h : d.toNat < 0x20) (t : Stage) :
    writeStage w d t = { w with st := w.st.set d.toNat t } := if_pos h

theorem writeStage_out (w : CeCtx) {d : BitVec 7} (h : ¬ d.toNat < 0x20) (t : Stage) :
    writeStage w d t = { w with dn := w.dn.set (d.toNat - 0x30) t } := if_neg h

theorem writeStage_acc (w : CeCtx) (d : BitVec 7) (t : Stage) : (writeStage w d t).acc = w.acc := by
  unfold writeStage
  split <;> rfl

theorem writeStage_k (w : CeCtx) (d : BitVec 7) (t : Stage) : (writeStage w d t).k = w.k := by
  unfold writeStage
  split <;> rfl

theorem writeStage_cycles (w : CeCtx) (d : BitVec 7) (t : Stage) : (writeStage w d t).cycles = w.cycles := by
  unfold writeStage
  split <;> rfl

theorem readStage_law (e : CeSt) (w : CeCtx) {n : BitVec 7} (h : n.toNat < 0x20) : readStage e w n = nth Stage.zero w.st n.toNat := if_pos h

theorem readStage_out (e : CeSt) (w : CeCtx) {n : BitVec 7} (hlo : 0x30 ≤ n.toNat) (hhi : n.toNat < 0x33) :
    readStage e w n = nth Stage.zero w.dn (n.toNat - 0x30) := by
  rw [readStage, if_neg (by omega), if_neg (by omega), if_pos hhi]

/-- Any other number reads neither list. -/
theorem readStage_fixed (e : CeSt) (w w' : CeCtx) {n : BitVec 7} (hst : ¬ n.toNat < 0x20) (hdn : ¬ (0x30 ≤ n.toNat ∧ n.toNat < 0x33)) :
    readStage e w n = readStage e w' n := by
  simp only [readStage, if_neg hst]
  split
  · rfl
  · next hinp =>
    have hcv : ¬ n.toNat < 0x33 := fun h => hdn ⟨Nat.le_of_not_lt hinp, h⟩
    simp only [if_neg hcv]

theorem readStage_congr {e e' : CeSt} (hinp : e.inp = e'.inp) (hcv : e.cv = e'.cv) (w : CeCtx) (n : BitVec 7) :
    readStage e w n = readStage e' w n := by
  simp only [readStage, hinp, hcv]

theorem isDst_cases {d : BitVec 7} (hd : isDst d = true) :
    d.toNat < 0x20 ∨ (¬ d.toNat < 0x20 ∧ 0x30 ≤ d.toNat ∧ d.toNat < 0x33) := by
  simp only [isDst, decide_eq_true_eq] at hd
  omega

theorem readStage_writeStage_same {w : CeCtx} (hst : w.st.length = 32) (hdn : w.dn.length = 3) {d : BitVec 7} (hd : isDst d = true)
    (e : CeSt) (t : Stage) : readStage e (writeStage w d t) d = t := by
  rcases isDst_cases hd with hlaw | ⟨hout, hlo, hhi⟩
  · rw [readStage_law _ _ hlaw, writeStage_law _ hlaw]
    exact nth_set_same _ (by omega) t
  · rw [readStage_out _ _ hlo hhi, writeStage_out _ hout]
    exact nth_set_same _ (by omega) t

theorem readStage_writeStage_other (w : CeCtx) {d n : BitVec 7} (hd : isDst d = true) (hne : n ≠ d) (e : CeSt) (t : Stage) :
    readStage e (writeStage w d t) n = readStage e w n := by
  have hne' : d.toNat ≠ n.toNat := fun h => hne (BitVec.eq_of_toNat_eq h.symm)
  by_cases hlaw : n.toNat < 0x20
  · rw [readStage_law _ _ hlaw, readStage_law _ _ hlaw]
    rcases isDst_cases hd with hd | ⟨hd, -⟩
    · rw [writeStage_law _ hd]
      exact nth_set_other _ _ hne' t
    · rw [writeStage_out _ hd]
  · by_cases hout : 0x30 ≤ n.toNat ∧ n.toNat < 0x33
    · rw [readStage_out _ _ hout.1 hout.2, readStage_out _ _ hout.1 hout.2]
      rcases isDst_cases hd with hd | ⟨hd, hlo, -⟩
      · rw [writeStage_law _ hd]
      · rw [writeStage_out _ hd]
        exact nth_set_other _ _ (by omega) t
    · exact readStage_fixed e _ _ hlaw hout

section Store

variable {s : State} {c : Fin 2} {op : Nat} {d a b : BitVec 7} {k : BitVec 3} (h : s.Ready c op d a b k) (hop : op ∈ stageOps)
  {f : CeEffect} {x : Stage} (heff : (f (s.ce c) (s.spent c op)).1 = writeStage (s.spent c op) d x)

include h heff

theorem State.Ready.took_store : s.Took c (writeStage (s.spent c op) d x) (s.ceStep c op d a b k f) := by
  refine h.took heff ?_
  rw [writeStage_k]
  rfl

theorem State.Ready.store_cycles : ((s.ceStep c op d a b k f).ctx c).cycles = (s.ctx c).cycles + (opCycles op).getD 0 := by
  rw [(h.took_store heff).ctx, writeStage_cycles]
  rfl

include hop

/-- A store sets stage `d` and nothing else. -/
theorem State.Ready.stageSet {g : Nat → Int} (hlane : ∀ i < 32, x.lane i = g i) :
    s.StageSet c d x.e g (s.ceStep c op d a b k f) := by
  have hd := isDst_of_legal h.legal hop
  have htook := h.took_store heff
  have hsrc : ∀ n, (s.ceStep c op d a b k f).src c n = readStage (s.ce c) (writeStage (s.spent c op) d x) n := fun n => by
    rw [State.src, htook.ctx, readStage_congr htook.inp htook.cv]
  have hread : (s.ceStep c op d a b k f).src c d = x := (hsrc d).trans (readStage_writeStage_same (w := s.spent c op) h.st h.dn hd _ _)
  refine ⟨by rw [hread], fun i hi => by rw [hread, hlane i hi], fun n hne => ?_, ?_, ?_⟩
  · exact (hsrc n).trans (readStage_writeStage_other _ hd hne _ _)
  · rw [htook.ctx, writeStage_acc]
    rfl
  · rw [htook.ctx, writeStage_k]
    rfl

end Store

/-! ### What a store writes -/

/-- Lane `i` after a store of accumulator `x`: in K in the units of exponent `e`, else re-expressed there (R85). -/
def storedLane (old : Stage) (x : Acc) (e : Int) (m : Word) (i : Nat) : Lane :=
  if inMask m i then satMant (toStage e x.ea (x.lane i)) else satMant (scale (old.lane i) (old.e - e))

def stored (old : Stage) (x : Acc) (e : Int) (m : Word) : Stage := ⟨e, laneVals (lanes.map (storedLane old x e m))⟩

theorem storeAt_fst (w : CeCtx) (d a : BitVec 7) (k : BitVec 3) (old : Stage) (e : Int) :
    (storeAt w d a k old e).1 = writeStage w d (stored old (readAcc w a) e (readMask w k.toNat)) := rfl

theorem stored_lane (old : Stage) (x : Acc) (e : Int) (m : Word) {i : Nat} (hi : i < 32) :
    (stored old x e m).lane i = clampI mantMin mantMax
      (if inMask m i then scale (x.lane i) (x.ea - e - 23) else scale (old.lane i) (old.e - e)) := by
  refine (nth_map_lanes 0 Lane.v (storedLane old x e m) hi).trans ?_
  rw [storedLane]
  split <;> rfl

/-- The exponent of a normalised store fits a stage (R85). -/
theorem normExp_bounds {old : Stage} (h : old.ok = true) (x : Acc) (m : Word) :
    -128 ≤ normExp old x m ∧ normExp old x m ≤ 127 := by
  rw [normExp]
  split
  · exact Stage.exp_of_ok h
  · rw [clampI]
    omega

end Sys2Proof.Machine

open Sys2Proof Sys2Proof.Machine

/-- Settles O25: a store writes one stage (`stageSet`), whose lanes are those of `stored`; MOV writes the stage that it reads. -/
theorem ceStores : Obligations.CeStores := by
  intro s c d a b k
  refine ⟨fun hr => ?_, fun hd i hi => ?_, fun hr => ?_, fun hr => ?_⟩
  · have h := State.ready_of_ceReady hr
    refine ⟨_, State.live_next h.clocked _, h.store_cycles (storeAt_fst _ d a k _ _), ?_⟩
    refine h.stageSet (x := stored (s.src c d) (s.acc c a) (s.src c d).e (s.msk c k.toNat)) (by decide) rfl
      fun i hi => (stored_lane _ _ _ _ hi).trans ?_
    rw [Int.sub_self, scale_zero]
    rfl
  · obtain ⟨hlo, hhi⟩ := Stage.lane_of_ok hd hi
    exact clampI_of_le hlo hhi
  · have h := State.ready_of_ceReady hr
    refine ⟨_, _, State.live_next h.clocked _, h.store_cycles (storeAt_fst _ d a k _ _), rfl, ?_, fun hd => normExp_bounds hd _ _⟩
    exact h.stageSet (x := stored (s.src c d) (s.acc c a) (normExp (s.src c d) (s.acc c a) (s.msk c k.toNat)) (s.msk c k.toNat))
      (by decide) rfl fun i hi => stored_lane _ _ _ _ hi
  · have h := State.ready_of_ceReady hr
    exact ⟨_, State.live_next h.clocked _, h.store_cycles rfl, h.stageSet (by decide) rfl fun i _ => rfl⟩
end

section
/-!
The masks that comparisons and mask operations write (spec/04 R80, R86).
-/

namespace Sys2Proof.Machine

open Sys2Proof

/-! ### Mask registers -/

/-- The opcodes that write a mask (Table 4.5). -/
def maskOps : List Nat := [0x28, 0x29, 0x2A, 0x2B, 0x2C]

theorem isMaskW_of_legal {op : Nat} {d a b : BitVec 7} {k : BitVec 3} (h : legalOperands op d a b k = true) (hop : op ∈ maskOps) :
    isMaskW d = true := by
  simp only [maskOps, List.mem_cons, List.not_mem_nil, or_false] at hop
  rcases hop with rfl | rfl | rfl | rfl | rfl
  all_goals simp_all [legalOperands]

section Mask

variable {s : State} {c : Fin 2} {op : Nat} {d a b : BitVec 7} {k : BitVec 3} (h : s.Ready c op d a b k) (hop : op ∈ maskOps)
  {f : CeEffect} {m : Word} (heff : (f (s.ce c) (s.spent c op)).1 = writeMask (s.spent c op) d m)

include h hop heff

/-- A mask instruction sets mask `d`, which hardware does not write, and nothing else. -/
theorem State.Ready.maskSet {g : Nat → Bool} (hm : ∀ i < 32, inMask m i = g i) : s.MaskSet c d g (s.ceStep c op d a b k f) := by
  have hd := isMaskW_of_legal h.legal hop
  simp only [isMaskW, decide_eq_true_eq] at hd
  have htook := h.took heff (List.take_set_of_le (l := (s.spent c op).k) hd.1)
  refine ⟨fun i hi => ?_, fun n hne => ?_, ?_, ?_, ?_⟩
  · rw [State.msk, htook.ctx, ← hm i hi]
    have hlen : d.toNat < (s.spent c op).k.length := Nat.lt_of_le_of_lt hd.2 (h.k.symm ▸ by decide)
    exact congrArg (inMask · i) (nth_set_same _ hlen m)
  · rw [State.msk, htook.ctx]
    exact nth_set_other _ _ hne.symm m
  · rw [htook.ctx]
    rfl
  · rw [htook.ctx]
    rfl
  · rw [htook.ctx]
    rfl

end Mask

/-! ### Comparisons and logic -/

/-- Aligned at the smaller exponent or at the least of all, two values are the same multiple of a power of two apart. -/
theorem mul_pow_align {e m : Int} (hm : m ≤ e) (hlo : -128 ≤ m) (x : Int) :
    x * 2 ^ (e + 128).toNat = x * 2 ^ (e - m).toNat * 2 ^ (m + 128).toNat := by
  rw [mul_assoc, ← pow_add]
  congr 2
  omega

section Compare

variable {x y : Stage} (hx : x.ok = true) (hy : y.ok = true) (i : Nat)

include hx hy

theorem cmpLane_gt : cmpLane (fun x y => decide (y < x)) x y i =
    decide (y.lane i * 2 ^ (y.e + 128).toNat < x.lane i * 2 ^ (x.e + 128).toNat) := by
  have hxe := Stage.exp_of_ok hx
  have hye := Stage.exp_of_ok hy
  have hmin : -128 ≤ min x.e y.e := by omega
  rw [mul_pow_align (min_le_left _ _) hmin (x.lane i), mul_pow_align (min_le_right _ _) hmin (y.lane i)]
  exact (decide_eq_decide.mpr (Int.mul_lt_mul_right (by positivity))).symm

theorem cmpLane_ge : cmpLane (fun x y => decide (y ≤ x)) x y i =
    decide (y.lane i * 2 ^ (y.e + 128).toNat ≤ x.lane i * 2 ^ (x.e + 128).toNat) := by
  have hxe := Stage.exp_of_ok hx
  have hye := Stage.exp_of_ok hy
  have hmin : -128 ≤ min x.e y.e := by omega
  rw [mul_pow_align (min_le_left _ _) hmin (x.lane i), mul_pow_align (min_le_right _ _) hmin (y.lane i)]
  exact (decide_eq_decide.mpr (Int.mul_le_mul_right (by positivity))).symm

end Compare

/-- The lanes in K take the result, the others stay (R86). -/
theorem inMask_merge (r m old : Word) {i : Nat} (hi : i < 32) :
    inMask ((r &&& m) ||| (old &&& ~~~m)) i = if inMask m i then inMask r i else inMask old i := by
  have hlane : inMask ((r &&& m) ||| (old &&& ~~~m)) i = (inMask r i && inMask m i || inMask old i && !inMask m i) := by
    simp [inMask, hi]
  rw [hlane]
  cases inMask m i <;> simp

theorem inMask_and (x y : Word) (i : Nat) : inMask (x &&& y) i = (inMask x i && inMask y i) := BitVec.getLsbD_and

theorem inMask_or (x y : Word) (i : Nat) : inMask (x ||| y) i = (inMask x i || inMask y i) := BitVec.getLsbD_or

theorem inMask_not (x : Word) {i : Nat} (hi : i < 32) : inMask (~~~x) i = !inMask x i := by
  rw [inMask, BitVec.getLsbD_not, inMask]
  simp [hi]

end Sys2Proof.Machine

open Sys2Proof Sys2Proof.Machine

/-- Settles O26: each writes one mask (`maskSet`); a comparison is exact whatever the exponents (`cmpLane_gt`, `cmpLane_ge`). -/
theorem ceMaskInstructions : Obligations.CeMaskInstructions := by
  intro s c d a b k
  refine ⟨fun hr ha hb => ?_, fun hr ha hb => ?_, fun hr => ?_, fun hr => ?_, fun hr => ?_⟩
  all_goals
    have h := State.ready_of_ceReady hr
    refine ⟨_, State.live_next h.clocked _, ?_⟩
  · refine h.maskSet (by decide) rfl fun i hi => (inMask_maskOf _ hi).trans ?_
    rw [← cmpLane_gt ha hb]
    rfl
  · refine h.maskSet (by decide) rfl fun i hi => (inMask_maskOf _ hi).trans ?_
    rw [← cmpLane_ge ha hb]
    rfl
  · refine h.maskSet (by decide) rfl fun i hi => (inMask_merge _ _ _ hi).trans ?_
    rw [inMask_and]
    rfl
  · refine h.maskSet (by decide) rfl fun i hi => (inMask_merge _ _ _ hi).trans ?_
    rw [inMask_or]
    rfl
  · refine h.maskSet (by decide) rfl fun i hi => (inMask_merge _ _ _ hi).trans ?_
    rw [inMask_not _ hi]
    rfl
end

section
/-!
The state of a cupping buffer and its triggers, and the flow of a program (spec/04 R86, R88, R104).
-/

namespace Sys2Proof.Machine

open Sys2Proof

/-! ### Buffers apart from one another -/

theorem cupStat_injective : ∀ p ∈ allCups, ∀ q ∈ allCups, R_CUP_STAT p.1 p.2 = R_CUP_STAT q.1 q.2 → p = q := by decide

theorem State.cup_updCup {s : State} (hwf : s.wf = true) {c : Fin 2} {b : Nat} (hb : b < (s.ce c).cups.length) (f : CupBuf → CupBuf) :
    (s.updCup c b f).cup c b = f (s.cup c b) := by
  have hce : (s.updCup c b f).ce c = { s.ce c with cups := upd (s.ce c).cups b f } := State.ce_updCe hwf c _
  exact (congrArg (fun e => nth CupBuf.off e.cups b) hce).trans (nth_upd_same _ hb f)

theorem State.cup_updCup_of_ne {s : State} {p q : Nat × Nat} (h : q ≠ p) (f : CupBuf → CupBuf) :
    (s.updCup q.1 q.2 f).cup p.1 p.2 = s.cup p.1 p.2 := by
  by_cases hc : q.1 = p.1
  · have hb : q.2 ≠ p.2 := fun hb => h (Prod.ext hc hb)
    have hview : ∀ {e : CeSt}, nth CupBuf.off { e with cups := upd e.cups q.2 f }.cups p.2 = nth CupBuf.off e.cups p.2 :=
      nth_upd_other _ _ hb f
    exact nth_upd_view (q := fun e : CeSt => nth CupBuf.off e.cups p.2) hview _ _ _ _
  · exact congrArg (fun e : CeSt => nth CupBuf.off e.cups p.2) (nth_upd_other _ _ hc _)

/-! ### A buffer that takes no trigger -/

/-- From `s` to `t` the status register of buffer `p` and its samples and records stay as they are. -/
structure State.CupStays (s : State) (p : Nat × Nat) (t : State) : Prop where
  keeps : s.Keeps t
  reg : t.reg (R_CUP_STAT p.1 p.2) = s.reg (R_CUP_STAT p.1 p.2)
  buf : t.cup p.1 p.2 = s.cup p.1 p.2

namespace State.CupStays

variable {s t u : State} {p : Nat × Nat}

theorem refl (s : State) (p : Nat × Nat) : s.CupStays p s := ⟨.refl s, rfl, rfl⟩

theorem trans (h : s.CupStays p t) (k : t.CupStays p u) : s.CupStays p u :=
  ⟨h.keeps.trans k.keeps, k.reg.trans h.reg, k.buf.trans h.buf⟩

theorem fld (h : s.CupStays p t) (hi lo : Nat) : t.fld ⟨R_CUP_STAT p.1 p.2, hi, lo⟩ = s.fld ⟨R_CUP_STAT p.1 p.2, hi, lo⟩ := by
  rw [State.fld, State.fld, h.reg]

theorem cupOpen (h : s.CupStays p t) : t.cupOpen p.1 p.2 = s.cupOpen p.1 p.2 := by
  rw [State.cupOpen, State.cupOpen, h.fld]

/-- Another buffer starts. -/
theorem cupStart (hwf : s.wf = true) (hp : p ∈ allCups) {q : Nat × Nat} (hq : q ∈ allCups) (hne : q ≠ p) :
    s.CupStays p (s.cupStart q.1 q.2) := by
  refine ⟨State.cupStart_keeps (.refl s) _ _, State.cupStart_reg hwf _ _ fun e => hne (cupStat_injective p hp q hq e).symm, ?_⟩
  exact State.cup_updCup_of_ne (s := s.setFld (CUP_STAT_STATE q.1 q.2) 3) hne _

theorem eventN (hp : p ∈ allCups) (n : Nat) (hwf : s.wf = true) (hshut : s.cupOpen p.1 p.2 = false) (code : Nat) (data : List Nat) :
    s.CupStays p (State.eventN n s code data) := by
  induction n generalizing s code data with
  | zero => exact ⟨State.logEvent_keeps (.refl s) _ _, rfl, rfl⟩
  | succ n ih =>
    have hlog : s.CupStays p (s.logEvent code data) := ⟨State.logEvent_keeps (.refl s) _ _, rfl, rfl⟩
    refine List.foldlRecOn (motive := fun u => s.CupStays p u) _ _ hlog fun u hu r _ => ?_
    have hout : p ∉ u.cupGroup r.1 r.2 := fun hmem => by
      have hopen := (Bool.and_eq_true_iff.mp (List.mem_filter.mp hmem).2).1
      rw [hu.cupOpen, hshut] at hopen
      exact Bool.false_ne_true hopen
    refine List.foldlRecOn (motive := fun v => s.CupStays p v) _ _ hu fun v hv q hq => ?_
    have hstart := CupStays.cupStart (hv.keeps.wf hwf) hp (State.mem_allCups_of_cupGroup hq) (ne_of_mem_of_not_mem hq hout)
    have hthere := hv.trans hstart
    exact hthere.trans (ih (hthere.keeps.wf hwf) (hthere.cupOpen.trans hshut) _ _)

/-- An event triggers no buffer that is not armed (R104). -/
theorem event (hp : p ∈ allCups) (hwf : s.wf = true) (hshut : s.cupOpen p.1 p.2 = false) (code : Nat) (data : List Nat) :
    s.CupStays p (s.event code data) := eventN hp 16 hwf hshut code data

end State.CupStays

/-! ### A trigger -/

/-- A buffer starts, which is told. -/
def State.cupFire (s : State) (q : Nat × Nat) : State := (s.cupStart q.1 q.2).event 0x0320 [q.1, q.2]

theorem State.cupTrigger_of_open {s : State} {p : Nat × Nat} (hopen : s.cupOpen p.1 p.2 = true) :
    s.cupTrigger p.1 p.2 = s.each (s.cupGroup p.1 p.2) State.cupFire := if_pos hopen

theorem State.cupFire_keeps {s0 s : State} (h : s0.Keeps s) (q : Nat × Nat) : s0.Keeps (s.cupFire q) :=
  State.event_keeps (State.cupStart_keeps h _ _) _ _

theorem State.cupFire_raised (s : State) (q : Nat × Nat) : s.Raised (s.cupFire q) 0x0320 [q.1, q.2] :=
  (State.event_raised _ _ _).after (State.cupStart_keeps (.refl s) _ _)

theorem State.fld_cupStart {s : State} (hwf : s.wf = true) (q : Nat × Nat) :
    (s.cupStart q.1 q.2).fld (CUP_STAT_STATE q.1 q.2) = 3 :=
  (State.canon_of_wf hwf).fld_setFld_of_lt (f := CUP_STAT_STATE q.1 q.2) (by simp) (by simp) (by simp)

section Trigger

variable {s : State} {p : Nat × Nat} (hp : p ∈ allCups)

include hp

/-- A buffer that records goes on recording, whichever fires. -/
theorem State.cupFire_state (hwf : s.wf = true) {q : Nat × Nat} (hq : q ∈ allCups)
    (hrec : q = p ∨ s.fld (CUP_STAT_STATE p.1 p.2) = 3) : (s.cupFire q).fld (CUP_STAT_STATE p.1 p.2) = 3 := by
  have hstart : (s.cupStart q.1 q.2).fld (CUP_STAT_STATE p.1 p.2) = 3 := by
    by_cases hqp : q = p
    · rw [hqp]
      exact State.fld_cupStart hwf p
    · exact ((State.CupStays.cupStart hwf hp hq hqp).fld 2 0).trans (hrec.resolve_left hqp)
  have hshut : (s.cupStart q.1 q.2).cupOpen p.1 p.2 = false := by rw [State.cupOpen, hstart]; rfl
  exact ((State.CupStays.event hp ((State.cupStart_keeps (.refl s) _ _).wf hwf) hshut _ _).fld 2 0).trans hstart

variable (hopen : s.cupOpen p.1 p.2 = true)

include hopen

theorem State.mem_cupGroup : p ∈ s.cupGroup p.1 p.2 := List.mem_filter.mpr ⟨hp, by simp [hopen]⟩

/-- A trigger starts the buffer, which records from now on (R104). -/
theorem State.cupTrigger_state (hwf : s.wf = true) : (s.cupTrigger p.1 p.2).fld (CUP_STAT_STATE p.1 p.2) = 3 := by
  have hkeep {u : State} {q : Nat × Nat} (h : u.wf = true) : (u.cupFire q).wf = true := (State.cupFire_keeps (.refl u) q).wf h
  have hreach : (s.cupTrigger p.1 p.2).wf = true ∧ (s.cupTrigger p.1 p.2).fld (CUP_STAT_STATE p.1 p.2) = 3 := by
    rw [State.cupTrigger_of_open hopen]
    exact State.each_reaches (g := State.cupFire) (P := fun u => u.wf = true)
      (Q := fun u => u.wf = true ∧ u.fld (CUP_STAT_STATE p.1 p.2) = 3)
      (State.mem_cupGroup hp hopen) (fun _ _ h => hkeep h)
      (fun h => ⟨hkeep h, State.cupFire_state hp h hp (.inl rfl)⟩)
      (fun hq h => ⟨hkeep h.1, State.cupFire_state hp h.1 (State.mem_allCups_of_cupGroup hq) (.inr h.2)⟩) hwf
  exact hreach.2

theorem State.cupTrigger_raised : s.Raised (s.cupTrigger p.1 p.2) 0x0320 [p.1, p.2] := by
  rw [State.cupTrigger_of_open hopen]
  exact State.each_reaches (g := State.cupFire) (P := fun u => s.Keeps u) (Q := fun u => s.Raised u 0x0320 [p.1, p.2])
    (State.mem_cupGroup hp hopen)
    (fun _ _ h => State.cupFire_keeps h _) (fun h => (State.cupFire_raised _ p).after h)
    (fun _ h => h.then (State.cupFire_keeps (.refl _) _)) (.refl s)

end Trigger

/-! ### An instruction without a result -/

section Flow

variable {s : State} {c : Fin 2} {op : Nat} {d a b : BitVec 7} {k : BitVec 3}

/-- NOP, END and TRG spend their cycles. -/
theorem State.Ready.ceStep_idle (h : s.Ready c op d a b k) : s.ceStep c op d a b k (fun _ w => (w, 0)) = s.setCtx c (s.spent c op) :=
  h.ceStep_eq _

theorem State.Ready.took_spent (h : s.Ready c op d a b k) : s.Took c (s.spent c op) (s.setCtx c (s.spent c op)) :=
  State.took_setCtx h.wf h.com rfl

/-- One that is skipped only counts (R86). -/
theorem State.ceStep_skipped (htakes : s.ceTakes c (legalOperands op d a b k) = true) (hskip : (s.ctx c).skip ≠ 0) (f : CeEffect) :
    s.ceStep c op d a b k f = s.setCtx c { s.ctx c with skip := (s.ctx c).skip - 1 } := by
  rw [State.ceStep, if_pos htakes]
  exact if_pos hskip

/-! ### END -/

theorem execEndProgram_of_past (hclk : s.clocked = true) (hpast : s.pastWindow c = true) :
    exec (.endProgram c d a b k) s = .next s := by
  change execEndProgram c d a b k s = _
  rw [execEndProgram, State.live_next hclk, if_pos hpast]

theorem execEndProgram_of_taken (h : s.Ready c 0x01 d a b k) (hpast : s.pastWindow c = false) :
    exec (.endProgram c d a b k) s = .next ((s.setCtx c (s.spent c 0x01)).updCe c ceCommit) := by
  change execEndProgram c d a b k s = _
  rw [execEndProgram, State.live_next h.clocked, if_neg (by simp [hpast]), if_pos (by simp [h.takes, h.skip]), h.ceStep_idle]

/-- The engine after END, as it was before: its context put back and committed (R88). -/
theorem State.ce_committed (hwf : s.wf = true) (w : CeCtx) :
    ((s.setCtx c w).updCe c ceCommit).ce c =
      ceCommit (if (s.ce c).window then { s.ce c with work := w } else { s.ce c with sf := w }) := by
  rw [State.ce_updCe ((State.setCtx_keeps (.refl s) _ _).wf hwf), State.setCtx, State.ce_updCe hwf]

/-- Masks K0 to K3 of one list and the others of another. -/
theorem nth_masks {l m : List Word} (hl : l.length = 8) (i : Nat) :
    nth 0 (l.take 4 ++ m.drop 4) i = if i < 4 then nth 0 l i else nth 0 m i := by
  simp only [nth, List.getD_eq_getElem?_getD]
  split
  · next h => rw [List.getElem?_append_left (by simp [hl, h]), List.getElem?_take_of_lt h]
  · next h =>
    rw [List.getElem?_append_right (by simp [hl]; omega), List.getElem?_drop]
    congr 2
    simp [hl]
    omega

end Flow

/-! ### TRG -/

theorem trg_buffer {d a b : BitVec 7} {k : BitVec 3} (h : legalOperands 0x31 d a b k = true) : b.toNat < 8 := by
  simp only [legalOperands, Bool.and_eq_true, decide_eq_true_eq] at h
  omega

theorem execTrg_of_kind {s : State} {c : Fin 2} {d a b : BitVec 7} {k : BitVec 3} (h : s.Ready c 0x31 d a b k)
    (hkind : s.fld (CUP_TRIG_KIND c b.toNat) = 6) :
    exec (.trg c d a b k) s = .next ((s.setCtx c (s.spent c 0x31)).cupTrigger c b.toNat) := by
  change execTrg c d a b k s = _
  rw [execTrg, State.live_next h.clocked, if_pos (by simp [h.takes, h.skip, hkind]), h.ceStep_idle]

end Sys2Proof.Machine

open Sys2Proof Sys2Proof.Machine

/-- Settles O27, a clause at a time. TRG acts on the registers as they were, since spending its cycle changes none. -/
theorem ceProgramFlow : Obligations.CeProgramFlow := by
  intro s c d a b k
  refine ⟨fun hr => ?_, execEndProgram_of_past, fun hr hwin => ?_, fun hr hwin hpast => ?_, fun hr => ?_,
    fun hwf hclk htakes hskip hcom => ?_, fun hr hkind hopen => ?_⟩
  · have h := State.ready_of_ceReady hr
    refine ⟨_, State.live_next h.clocked _, ?_⟩
    rw [h.ceStep_idle]
    exact ⟨h.took_spent.ctx, rfl, rfl⟩
  · have h := State.ready_of_ceReady hr
    refine ⟨_, execEndProgram_of_taken h (by simp [State.pastWindow, hwin]), ?_⟩
    rw [State.ce_committed h.wf, if_neg (by simp [hwin]), ceCommit, if_neg (by simp [hwin])]
    exact ⟨rfl, rfl⟩
  · have h := State.ready_of_ceReady hr
    refine ⟨_, execEndProgram_of_taken h hpast, ?_⟩
    rw [State.ce_committed h.wf, if_pos hwin, ceCommit, if_pos hwin]
    exact ⟨rfl, rfl, rfl, fun i _ => nth_masks h.com i⟩
  · have h := State.ready_of_ceReady hr
    refine ⟨_, State.live_next h.clocked _, ?_⟩
    by_cases hmask : s.msk c a.toNat = 0
    · rw [if_pos hmask, (h.took (f := ceSkz a b) (w := { s.spent c 0x30 with skip := b.toNat }) ?_ rfl).ctx]
      exact if_pos hmask
    · rw [if_neg hmask, (h.took (f := ceSkz a b) (w := s.spent c 0x30) ?_ rfl).ctx]
      · exact h.skip
      · exact if_neg hmask
  · refine ⟨_, State.live_next hclk _, ?_⟩
    rw [State.ceStep_skipped htakes hskip]
    exact ⟨(State.took_setCtx (w := { s.ctx c with skip := (s.ctx c).skip - 1 }) hwf hcom rfl).ctx, rfl⟩
  · have h := State.ready_of_ceReady hr
    have hwf := (State.setCtx_keeps (.refl s) c (s.spent c 0x31)).wf h.wf
    have hmem := mem_allCups c.isLt (trg_buffer h.legal)
    exact ⟨_, execTrg_of_kind h hkind,
      (State.cupTrigger_raised (s := s.setCtx c (s.spent c 0x31)) (p := (c.val, b.toNat)) hmem hopen).after
        (State.setCtx_keeps (.refl s) _ _),
      State.cupTrigger_state (p := (c.val, b.toNat)) hmem hopen hwf⟩
end

section
/-!
The life of a cupping buffer: arm, trigger, completion and stream records (spec/04 R103 to R106).
-/

namespace Sys2Proof.Machine

open Sys2Proof

theorem State.cups_length_updCup (s : State) (c c' b : Nat) (f : CupBuf → CupBuf) :
    ((s.updCup c b f).ce c').cups.length = (s.ce c').cups.length :=
  nth_upd_view (q := fun e : CeSt => e.cups.length) (upd_length _ _ _) _ _ _ _

/-! ### Arming -/

/-- The buffer is emptied and ARM is set (R105). -/
def State.cupEmptied (s : State) (c b : Nat) : State :=
  (s.updCup c b fun u => { u with samples := [], skipCf := 0, postLeft := 0, taken := 0, records := [], sent := 0 }).setFlag
    (CUP_CFG_ARM c b) true

/-- The state in which an armed buffer begins (Table 4.26). -/
def armedState (mode pre : Nat) : Nat := if mode = 3 then 5 else if pre = 0 then 2 else 1

theorem armedState_lt (mode pre : Nat) : armedState mode pre < 8 := by
  unfold armedState
  split
  · decide
  · split <;> decide

theorem cupPre_ne_cupCfg (c b : Nat) : R_CUP_PRE c b ≠ R_CUP_CFG c b := by
  simp only [R_CUP_PRE, R_CUP_CFG]
  omega

theorem cupCfg_ne_cupStat (c b : Nat) : R_CUP_CFG c b ≠ R_CUP_STAT c b := by
  simp only [R_CUP_CFG, R_CUP_STAT]
  omega

section Arm

variable {s : State} (hwf : s.wf = true) {c : Fin 2} {b : Nat}

include hwf

theorem State.cupEmptied_wf : (s.cupEmptied c b).wf = true :=
  (State.setFlag_keeps (State.updCup_keeps (.refl s) c b _) (CUP_CFG_ARM c b) true).wf hwf

theorem State.cupArm_of_mode (hmode : s.fld (CUP_CFG_MODE c b) ≠ 0) : s.cupArm c b =
    (s.cupEmptied c b).setFld (CUP_STAT_STATE c b) (armedState (s.fld (CUP_CFG_MODE c b)) (s.fld (CUP_PRE_PRE c b))) := by
  have hupd := (State.updCup_keeps (.refl s) c b fun u =>
    { u with samples := [], skipCf := 0, postLeft := 0, taken := 0, records := [], sent := 0 }).wf hwf
  have hpre : (s.cupEmptied c b).fld (CUP_PRE_PRE c b) = s.fld (CUP_PRE_PRE c b) :=
    State.fld_setFld_ne hupd (CUP_CFG_ARM c b) (CUP_PRE_PRE c b) _ (cupPre_ne_cupCfg c b)
  rw [← hpre]
  exact if_neg hmode

end Arm

/-! ### Records -/

/-- The 16 records of a full buffer, oldest sample first, the trigger sample in the one that holds it (R105, Table 4.8). -/
def State.cupRecords (s : State) (c b : Nat) : List CupRecord :=
  (idx 16).map fun r =>
    s.cupRecord c b (if s.fld (CUP_PRE_PRE c b) / 4096 = r then some (s.fld (CUP_PRE_PRE c b) % 4096) else none) 0
      (((s.cup c b).samples.reverse.drop (r * 4096)).take 4096)

theorem State.cupRecords_length (s : State) (c b : Nat) : (s.cupRecords c b).length = 16 := by
  rw [State.cupRecords, List.length_map]
  rfl

/-- The buffer is DONE and ARM is clear; then its records wait. -/
def State.cupShutDown (s : State) (c b : Nat) : State := (s.setFld (CUP_STAT_STATE c b) 4).setFlag (CUP_CFG_ARM c b) false

def State.cupFinished (s : State) (c b : Nat) : State :=
  (s.cupShutDown c b).updCup c b fun u => { u with records := s.cupRecords c b, sent := 0 }

/-- A stream's buffer after a record, with the records that then wait. -/
def CupBuf.streamed (u : CupBuf) (rs : List CupRecord) : CupBuf := { u with samples := [], taken := 0, records := rs }

/-- The record that a stream has gathered. -/
def State.streamRecord (s : State) (c b : Nat) (xs : List CupSample) : CupRecord := s.cupRecord c b none 0 xs.reverse

/-- What is left of the records that wait when the oldest is overwritten: the next one counts it (R105). -/
def overwritten : List CupRecord → List CupRecord
  | lost :: next :: t => { next with gaps := next.gaps + lost.gaps + 1 } :: t
  | _ => []

theorem overwritten_length {l : List CupRecord} (h : l.length = 16) : (overwritten l).length = 15 := by
  match l, h with
  | _ :: _ :: t, h => exact Nat.succ.inj h

/-- A record is added where the oldest has been overwritten and counted. -/
def State.streamBehind (s : State) (c b : Nat) : State :=
  (s.inc (CUP_STAT_GAPS c b)).updCup c b fun u =>
    u.streamed (overwritten (s.cup c b).records ++ [(s.inc (CUP_STAT_GAPS c b)).streamRecord c b (s.cup c b).samples])

/-- The overwriting is told. -/
def State.streamTold (s : State) (c b : Nat) : State := (s.updCup c b fun u => { u with told322 := true }).event 0x0322 [c, b]

/-! ### The commands -/

section Commands

variable {s : State} (hclk : s.clocked = true) {c : Fin 2} {b : Fin 8}

include hclk

theorem execCupTrig_of_kind (hkind : s.fld (CUP_TRIG_KIND c b) = 7) : exec (.cupTrig c b) s = .next (s.cupTrigger c b) := by
  change execCupTrig c b s = _
  rw [execCupTrig, State.live_next hclk, State.cupHostTrig, State.iff, if_pos (by simp [hkind])]

theorem execCupDone_of_full (hst : s.fld (CUP_STAT_STATE c b) = 3) (hpost : (s.cup c b).postLeft = 0) :
    exec (.cupDone c b) s = .next ((s.cupFinished c b).event 0x0321 [c, b]) := by
  change execCupDone c b s = _
  rw [execCupDone, State.live_next hclk, if_pos (by simp [hst, hpost])]
  rfl

variable (hst : s.fld (CUP_STAT_STATE c b) = 5) (htaken : 4096 ≤ (s.cup c b).taken)

include hst htaken

theorem execCupStreamRecord_of_room (hroom : (s.cup c b).records.length < 16) :
    exec (.cupStreamRecord c b) s = .next (s.updCup c b fun u =>
      u.streamed ((s.cup c b).records ++ [s.streamRecord c b (s.cup c b).samples])) := by
  change execCupStreamRecord c b s = _
  rw [execCupStreamRecord, State.live_next hclk, if_pos (by simp [hst, htaken])]
  simp only [decide_eq_false (Nat.not_le.mpr hroom)]
  rfl

theorem execCupStreamRecord_of_behind (hfull : (s.cup c b).records.length = 16) :
    exec (.cupStreamRecord c b) s = .next (if (s.cup c b).told322 then s.streamBehind c b else (s.streamBehind c b).streamTold c b) := by
  change execCupStreamRecord c b s = _
  rw [execCupStreamRecord, State.live_next hclk, if_pos (by simp [hst, htaken])]
  simp only [decide_eq_true hfull.ge]
  cases (s.cup c b).told322 <;> rfl

end Commands

/-! ### What they leave -/

section Done

variable {s : State} (hwf : s.wf = true) (c : Fin 2) (b : Fin 8)

include hwf

omit hwf in
theorem State.cupFinished_keeps (s : State) (c b : Nat) : s.Keeps (s.cupFinished c b) :=
  State.updCup_keeps (State.setFlag_keeps (State.setFld_keeps (.refl s) _ _) _ _) _ _ _

theorem State.cupShutDown_wf : (s.cupShutDown c b).wf = true := State.setFlag_wf (State.setFld_wf hwf _ _) _ _

theorem State.cupFinished_state : (s.cupFinished c b).fld (CUP_STAT_STATE c b) = 4 := by
  have harm : (s.cupShutDown c b).fld (CUP_STAT_STATE c b) = (s.setFld (CUP_STAT_STATE c b) 4).fld (CUP_STAT_STATE c b) :=
    State.fld_setFld_ne (State.setFld_wf hwf _ _) (CUP_CFG_ARM c b) (CUP_STAT_STATE c b) _ (cupCfg_ne_cupStat c b).symm
  rw [State.fld_congr (t := s.cupFinished c b) (s := s.cupShutDown c b) rfl, harm]
  exact (State.canon_of_wf hwf).fld_setFld_of_lt (by simp) (by simp) (by simp)

theorem State.cupFinished_arm : (s.cupFinished c b).flag (CUP_CFG_ARM c b) = false := by
  rw [State.flag_congr (t := s.cupFinished c b) (s := s.cupShutDown c b) rfl]
  exact (State.canon_of_wf (State.setFld_wf hwf (CUP_STAT_STATE c b) 4)).flag_setFlag (f := CUP_CFG_ARM c b) false rfl (by simp)

theorem State.cupFinished_records (hcups : (s.ce c).cups.length = 8) : ((s.cupFinished c b).cup c b).records.length = 16 := by
  have hlen : b.val < ((s.cupShutDown c b).ce c).cups.length := hcups.symm ▸ b.isLt
  rw [State.cupFinished, State.cup_updCup (State.cupShutDown_wf hwf c b) hlen]
  exact s.cupRecords_length c b

end Done

theorem cupCfg_not_cupStat : ∀ (c : Fin 2) (b : Fin 8), isCupStat (R_CUP_CFG c b) = false := by decide

section Behind

variable {s : State} (hwf : s.wf = true) (c : Fin 2) (b : Fin 8)

theorem State.streamBehind_keeps (s : State) (c b : Nat) : s.Keeps (s.streamBehind c b) :=
  State.updCup_keeps (State.inc_keeps (.refl s) _) _ _ _

include hwf

theorem State.streamBehind_gaps : (s.streamBehind c b).fld (CUP_STAT_GAPS c b) = min 65535 (s.fld (CUP_STAT_GAPS c b) + 1) :=
  (State.fld_setSat hwf (f := CUP_STAT_GAPS c b) (by simp) (by simp) _).trans (Nat.min_comm _ _)

theorem State.streamBehind_state : (s.streamBehind c b).fld (CUP_STAT_STATE c b) = s.fld (CUP_STAT_STATE c b) :=
  State.fld_setFld_disj hwf (CUP_STAT_GAPS c b) (CUP_STAT_STATE c b) _ (by simp) (by simp) (.inl (by simp))

variable (hcups : (s.ce c).cups.length = 8)

include hcups

theorem State.streamBehind_records (hfull : (s.cup c b).records.length = 16) : ((s.streamBehind c b).cup c b).records.length = 16 := by
  have hlen : b.val < ((s.inc (CUP_STAT_GAPS c b)).ce c).cups.length := hcups.symm ▸ b.isLt
  rw [State.streamBehind, State.cup_updCup ((State.inc_keeps (.refl s) _).wf hwf) hlen, CupBuf.streamed, List.length_append,
    overwritten_length hfull]
  rfl

/-- The telling leaves the records and the status register. -/
theorem State.streamTold_spec (hst : s.fld (CUP_STAT_STATE c b) = 5) :
    ((s.streamTold c b).cup c b).records = (s.cup c b).records ∧
      (s.streamTold c b).fld (CUP_STAT_GAPS c b) = s.fld (CUP_STAT_GAPS c b) := by
  have htold := (State.updCup_keeps (.refl s) c b fun u => { u with told322 := true }).wf hwf
  have hshut : (s.updCup c b fun u => { u with told322 := true }).cupOpen c b = false := by
    rw [State.cupOpen, show (s.updCup c b _).fld (CUP_STAT_STATE c b) = 5 from hst]
    rfl
  have hstays := State.CupStays.event (p := (c.val, b.val)) (mem_allCups c.isLt b.isLt) htold hshut 0x0322 [c, b]
  have hself := State.cup_updCup hwf (show b.val < (s.ce c).cups.length from hcups.symm ▸ b.isLt) fun u => { u with told322 := true }
  refine ⟨(congrArg CupBuf.records hstays.buf).trans ?_, hstays.fld 31 16⟩
  rw [hself]

end Behind

end Sys2Proof.Machine

open Sys2Proof Sys2Proof.Machine

/-- Settles O32, a command at a time. The events that end a recording or tell an overwriting trigger no buffer that is not armed
(`State.CupStays`). -/
theorem cuppingBuffers : Obligations.CuppingBuffers := by
  intro s c b hwf hclk hcups
  have hmem := mem_allCups c.isLt b.isLt
  have hlen : b.val < (s.ce c).cups.length := hcups.symm ▸ b.isLt
  refine ⟨fun hmode => ?_, fun hmode => ?_, fun hkind hopen => ?_, fun hst hpost => ?_, fun hst htaken hroom => ?_,
    fun hst htaken hfull => ?_⟩
  · refine ⟨_, State.live_next hclk _, ?_⟩
    have hemptied := State.cupEmptied_wf hwf (c := c) (b := b)
    rw [State.cupArm_of_mode hwf hmode]
    generalize hst : armedState _ _ = st
    have hst8 : st < 8 := hst ▸ armedState_lt _ _
    have hcup : (((s.cupEmptied c b).setFld (CUP_STAT_STATE c b) st).cup c b) =
        { s.cup c b with samples := [], skipCf := 0, postLeft := 0, taken := 0, records := [], sent := 0 } :=
      State.cup_updCup hwf hlen _
    refine ⟨?_, ?_, by rw [hcup], by rw [hcup], by rw [hcup], rfl⟩
    · rw [State.flag, State.fld_setFld_ne hemptied (CUP_STAT_STATE c b) (CUP_CFG_ARM c b) _ (cupCfg_ne_cupStat c b)]
      exact (State.canon_of_wf ((State.updCup_keeps (.refl s) c b _).wf hwf)).flag_setFlag (f := CUP_CFG_ARM c b) true rfl (by simp)
    · exact ((State.canon_of_wf hemptied).fld_setFld_of_lt (by simp) (by simp) hst8).trans hst.symm
  · rw [show exec (.cupArm c b) s = .next (s.cupArm c b) from State.live_next hclk _, State.cupArm]
    exact congrArg _ (if_pos hmode)
  · exact ⟨_, execCupTrig_of_kind hclk hkind, State.cupTrigger_state (p := (c.val, b.val)) hmem hopen hwf,
      State.cupTrigger_raised (p := (c.val, b.val)) hmem hopen⟩
  · have hkept := s.cupFinished_keeps c b
    have hfin := hkept.wf hwf
    have hstate := State.cupFinished_state hwf c b
    have hshut : (s.cupFinished c b).cupOpen c b = false := by rw [State.cupOpen, hstate]; rfl
    have hstays := State.CupStays.event (p := (c.val, b.val)) hmem hfin hshut 0x0321 [c, b]
    refine ⟨_, execCupDone_of_full hclk hst hpost, (hstays.fld 2 0).trans hstate, ?_, ?_, ?_⟩
    · rw [State.flag, State.event_fld hfin _ _ _ (cupCfg_not_cupStat c b)]
      exact State.cupFinished_arm hwf c b
    · rw [hstays.buf]
      exact State.cupFinished_records hwf c b hcups
    · exact (State.event_raised _ _ _).after hkept
  · have hcup := State.cup_updCup hwf hlen (·.streamed ((s.cup c b).records ++ [s.streamRecord c b (s.cup c b).samples]))
    exact ⟨_, _, execCupStreamRecord_of_room hclk hst htaken hroom, congrArg CupBuf.records hcup, rfl, rfl, congrArg CupBuf.taken hcup,
      rfl, rfl⟩
  · have hbehind := s.streamBehind_keeps c b
    have hbwf := hbehind.wf hwf
    have hlenb : ((s.streamBehind c b).ce c).cups.length = 8 := (State.cups_length_updCup _ _ _ _ _).trans hcups
    have hrecs := State.streamBehind_records hwf c b hcups hfull
    have hgaps := State.streamBehind_gaps hwf c b
    refine ⟨_, execCupStreamRecord_of_behind hclk hst htaken hfull, ?_⟩
    cases htold : (s.cup c b).told322 with
    | true => exact ⟨hrecs, hgaps, by simp, fun _ => rfl⟩
    | false =>
      obtain ⟨hsame, hsameGaps⟩ := State.streamTold_spec hbwf c b hlenb ((State.streamBehind_state hwf c b).trans hst)
      exact ⟨hsame ▸ hrecs, hsameGaps.trans hgaps,
        fun _ => (State.event_raised _ _ _).after (State.updCup_keeps hbehind _ _ _), by simp⟩
end

section
/-!
The banks of the coefficients (spec/04 R91).
-/

namespace Sys2Proof.Machine

open Sys2Proof

/-! ### The shadow bank -/

/-- A coefficient vector of the shadow bank. -/
def State.shadow (s : State) (c v : Nat) : Stage := ⟨s.fldS (CE_CVE_EXP c v), (idx 32).map fun l => s.fldS (CE_CV_MANT c v l)⟩

theorem nth_map_idx {α : Type} (d : α) (f : Nat → α) {n i : Nat} (h : i < n) : nth d ((idx n).map f) i = f i := by
  simp [nth, idx, List.getD_eq_getElem?_getD, List.getElem?_range h]

theorem State.shadow_lane (s : State) (c v : Nat) {l : Nat} (hl : l < 32) : (s.shadow c v).lane l = s.fldS (CE_CV_MANT c v l) :=
  nth_map_idx 0 _ hl

/-- The shadow bank is in force, and SWAP is clear (R91). -/
def State.swapped (s : State) (c : Nat) : State :=
  ((s.copyCv c).setFlag (CE_CTRL_SWAP c) false).updCe c fun e => { e with swapDue := false }

theorem ceCtrl_not_cupStat : ∀ c : Fin 2, isCupStat (R_CE_CTRL c) = false := by decide

section Swap

variable {s : State} (hclk : s.clocked = true) {c : Fin 2}

section Exec

include hclk

theorem execSwap_of_live (hlive : s.flag CE_GCFG_LIVE_COEF = true) :
    exec (.swap c) s = .next (s.setFlag (CE_CTRL_SWAP c) true) := by
  change execSwap c s = _
  rw [execSwap, State.live_next hclk, State.hostSwap, if_pos hlive]

theorem execSwap_of_fixed (hfixed : s.flag CE_GCFG_LIVE_COEF = false) : exec (.swap c) s = .next (s.event 0x0331 [c.val]) := by
  change execSwap c s = _
  rw [execSwap, State.live_next hclk, State.hostSwap, if_neg (by simp [hfixed])]

theorem execCoefSwapApply_of_due (hswap : s.flag (CE_CTRL_SWAP c) = true) (hdue : (s.ce c).swapDue = true) :
    exec (.coefSwapApply c) s = .next ((s.swapped c).event 0x0330 [c.val]) := by
  change execCoefSwapApply c s = _
  rw [execCoefSwapApply, State.live_next hclk, if_pos (by simp [hswap, hdue])]
  rfl

end Exec

theorem State.swapped_keeps (s : State) (c : Nat) : s.Keeps (s.swapped c) :=
  State.updCe_keeps (State.setFlag_keeps (State.copyCv_keeps (.refl s) c) _ _) _ _

variable (hwf : s.wf = true) (c)

include hwf

theorem State.swapped_cv : ((s.swapped c).ce c).cv = (idx 64).map (s.shadow c) := by
  have hcopy : (s.copyCv c).wf = true := (State.copyCv_keeps (.refl s) c).wf hwf
  have hce : (s.swapped c).ce c = { (s.copyCv c).ce c with swapDue := false } :=
    State.ce_updCe (s := (s.copyCv c).setFlag (CE_CTRL_SWAP c) false) (State.setFlag_wf hcopy _ _) c _
  rw [hce, State.copyCv, State.ce_updCe hwf]
  rfl

theorem State.swapped_flag : (s.swapped c).flag (CE_CTRL_SWAP c) = false := by
  have hcopy : (s.copyCv c).wf = true := (State.copyCv_keeps (.refl s) c).wf hwf
  rw [State.flag_congr (t := s.swapped c) (s := (s.copyCv c).setFlag (CE_CTRL_SWAP c) false) rfl]
  exact (State.canon_of_wf hcopy).flag_setFlag (f := CE_CTRL_SWAP c) false rfl (by simp)

theorem State.swapped_regsOnly : s.RegsOnly [R_CE_CTRL c] (s.swapped c) := fun _ ho _ =>
  State.reg_setFld_ne (s := s.copyCv c) ((State.copyCv_keeps (.refl s) c).wf hwf) (CE_CTRL_SWAP c) _ (mt List.mem_singleton.mpr ho)

end Swap

end Sys2Proof.Machine

open Sys2Proof Sys2Proof.Machine

/-- Settles O31: SWAP writes one flag; the application copies the shadow bank, and its event leaves the engine's operands. -/
theorem coefficientBanks : Obligations.CoefficientBanks := by
  intro s c hwf hclk
  refine ⟨fun hlive => ?_, execSwap_of_fixed hclk, fun hswap hdue => ?_⟩
  · refine ⟨_, execSwap_of_live hclk hlive, ?_, fun _ ho _ => ?_, rfl, rfl⟩
    · exact (State.canon_of_wf hwf).flag_setFlag (f := CE_CTRL_SWAP c) true rfl (by simp)
    · exact State.reg_setFld_ne hwf (CE_CTRL_SWAP c) _ (mt List.mem_singleton.mpr ho)
  · have hkeeps := s.swapped_keeps c
    have hswf := hkeeps.wf hwf
    have hcv : (((s.swapped c).event 0x0330 [c.val]).ce c).cv = (idx 64).map (s.shadow c) := by
      rw [← State.swapped_cv c hwf]
      exact congrArg (·.2.2.2.2.2) (State.event_operands _ _ _ _)
    refine ⟨_, execCoefSwapApply_of_due hclk hswap hdue, ?_, (State.event_raised _ _ _).after hkeeps, fun v hv => ?_, fun o ho hcup => ?_⟩
    · rw [State.flag, State.event_fld hswf _ _ _ (ceCtrl_not_cupStat c)]
      exact State.swapped_flag c hwf
    · rw [hcv, nth_map_idx _ _ hv]
      exact ⟨rfl, fun l hl => s.shadow_lane c v hl⟩
    · exact (State.event_reg hswf _ _ hcup).trans (State.swapped_regsOnly c hwf o ho hcup)
end

section
/-!
Lost and frozen feedback (spec/04 R98 to R101).
-/

namespace Sys2Proof.Machine

open Sys2Proof

/-! ### Bits and masks -/

theorem bit_setBit_true (w k : Nat) : bit (setBit w k true) k = true := by
  have hlow : w % 2 ^ k < 2 ^ k := Nat.mod_lt _ (Nat.two_pow_pos k)
  have hsplit : setBit w k true = 2 ^ (k + 1) * (w / 2 ^ (k + 1)) + (2 ^ k + w % 2 ^ k) := by
    rw [setBit_eq, b2n, if_pos rfl]
    ring
  rw [bit_eq_testBit, hsplit, Nat.testBit_two_pow_mul_add _ (by rw [Nat.pow_succ]; omega), if_pos (Nat.lt_succ_self k),
    Nat.testBit_two_pow_add_eq, Nat.testBit_lt_two_pow hlow]
  rfl

/-- A lane that is cleared is in the mask no more. -/
theorem inMask_setBit_false (w : Word) {k : Nat} (hk : k < 32) : inMask (BitVec.ofNat 32 (setBit w.toNat k false)) k = false := by
  rw [← putBits_one_bit, inMask, BitVec.getLsbD, putBits_testBit _ _ _ (le_refl k) hk, if_neg (lt_irrefl k), if_pos (le_refl k),
    Nat.sub_self]
  rfl

section Drop

variable {s : State} (hwf : s.wf = true) (c : Fin 2) {lane : Nat} (hlane : lane < 32)

include hwf hlane

/-- The lane is out of K1. -/
theorem State.inMask_dropK1 : inMask ((s.dropK1 c lane).hwMask c 1) lane = false := by
  have hmask : (s.dropK1 c lane).hwMask c 1 =
      nth 0 (upd (s.ce c).com.k 1 fun w => BitVec.ofNat 32 (setBit w.toNat lane false)) 1 := by
    rw [State.hwMask, State.dropK1, State.ce_updCe hwf]
  rw [hmask]
  by_cases hlen : 1 < (s.ce c).com.k.length
  · rw [nth_upd_same _ hlen]
    exact inMask_setBit_false _ hlane
  · have hnone : nth 0 (upd (s.ce c).com.k 1 fun w => BitVec.ofNat 32 (setBit w.toNat lane false)) 1 = 0 := by
      simp [nth, upd, List.getD_eq_getElem?_getD, Nat.not_lt.mp hlen]
    rw [hnone]
    exact BitVec.getLsbD_zero

end Drop

/-- The masks of the hardware are the engine's operands. -/
theorem State.hwMask_of_operands {s t : State} {c : Nat} (h : (t.ce c).operands = (s.ce c).operands) (i : Nat) :
    t.hwMask c i = s.hwMask c i := by
  have hcom : (t.ce c).com = (s.ce c).com := congrArg (·.2.2.2.1) h
  rw [State.hwMask, hcom, State.hwMask]

theorem State.updOl_operands (s : State) (c l c' : Nat) (g : OutLane → OutLane) :
    ((s.updOl c l g).ce c').operands = (s.ce c').operands :=
  nth_upd_view (q := CeSt.operands) (g := fun e => { e with outs := upd e.outs l g }) rfl _ _ _ _

/-! ### An output lane that fails -/

/-- From `s` to `t` output lane `l` with output `j` is ramped down: DISABLE goes to the links that feed the output, and the lane is out of
K1 (R98, R101). -/
structure State.RampedDown (s : State) (c l j : Nat) (t : State) : Prop where
  keeps : s.Keeps t
  out : inMask (t.hwMask c 1) (24 + l) = false
  sent : ∀ n ∈ s.members j, s.Sent t n cmdDisable 0

namespace State.RampedDown

variable {s t u : State} {c : Fin 2} {l j : Nat}

theorem failLane (hwf : s.wf = true) (hl : l < 8) (hj : s.laneOut c l = some j) : s.RampedDown c l j (s.failLane c l) := by
  obtain ⟨hdisabling, hsent⟩ := State.Disabling.failLane hwf l (.refl (c := c.val) s)
  refine ⟨hdisabling.keeps, ?_, fun n hn => hsent n (.inl ⟨j, hj, hn⟩)⟩
  have hfail : s.failLane c l = ((s.each (s.members j) fun s n => s.sendCmd n cmdDisable 0).updOl c l fun o =>
      { o with failed := true, lost := false }).dropK1 c (24 + l) := by rw [State.failLane, hj]
  rw [hfail]
  exact State.inMask_dropK1 ((State.updOl_keeps (State.each_keeps (.refl s) _ _ fun _ _ h => State.sendCmd_keeps h _ _ _) _ _ _).wf hwf) c
    (by omega)

/-- What changes neither links nor operands leaves it so. -/
theorem of_same (h : s.RampedDown c l j t) (k : t.Keeps u) (hlinks : u.links = t.links)
    (hops : (u.ce c).operands = (t.ce c).operands) : s.RampedDown c l j u := by
  refine ⟨h.keeps.trans k, ?_, fun n hn => ?_⟩
  · rw [State.hwMask_of_operands hops]
    exact h.out
  · have hlk : u.lk n = t.lk n := by rw [State.lk, hlinks, State.lk]
    rw [State.Sent, hlk]
    exact h.sent n hn

theorem updOl {g : OutLane → OutLane} (h : s.RampedDown c l j t) : s.RampedDown c l j (t.updOl c l g) :=
  h.of_same (State.updOl_keeps (.refl t) _ _ _) rfl (t.updOl_operands _ _ _ _)

theorem event {code : Nat} {data : List Nat} (h : s.RampedDown c l j t) : s.RampedDown c l j (t.event code data) :=
  h.of_same (State.event_keeps (.refl t) _ _) (State.event_links _ _ _) (t.event_operands _ _ _)

end State.RampedDown

/-! ### A move that is dropped -/

/-- The rest of a dropped move changes no register. -/
theorem State.moveDrop_regs (s : State) (n : Nat) : (s.moveDrop n).regs = (s.showStep n 0 none).regs := rfl

/-- The move's step reads 0. -/
theorem State.mvStep_moveDrop {s : State} (hwf : s.wf = true) (n : Nat) : (s.moveDrop n).mvStep n = 0 := by
  have hstep : (s.setFld (MX_ASG_STEP n) 0).fld (MX_ASG_STEP n) = 0 := State.fld_setFld hwf _ _ (by simp) (by simp)
  rw [State.mvStep, State.fld_congr (s.moveDrop_regs n), State.showStep,
    State.fld_setFld_disj (State.setFld_keeps (.refl s) _ _ |>.wf hwf) _ _ _ (by simp) (by simp) (.inr (by simp))]
  exact hstep

/-- A dropped move writes the register of its assignment only. -/
theorem State.Leaves.moveDrop {s0 s : State} {f : Fld} {n : Nat} (h : s0.Leaves f s) (hf : f.reg ≠ R_MX_ASG n) :
    s0.Leaves f (s.moveDrop n) :=
  have hstep := Fld.sparedBy_of_reg_ne (g := MX_ASG_STEP n) hf ⟨by simp, by simp⟩
  have hdest := Fld.sparedBy_of_reg_ne (g := MX_ASG_DEST n) hf ⟨by simp, by simp⟩
  ((h.setFld (v := 0) hstep).setFld (v := 15) hdest).same_regs (State.updMv_keeps (State.stopTimer_keeps (.refl _) _) _ _) rfl

theorem State.LinkKeeps.moveDrop {α : Type} {q : LinkSt → α} {s0 s : State} {n m : Nat} (hn : n < 48) (h : s0.LinkKeeps q n s) :
    s0.LinkKeeps q n (s.moveDrop m) :=
  .updMv (.stopTimer (.showStep hn h) State.LinkKeeps.moveTimer_notMem)

theorem State.Leaves.updBl {s0 s : State} {f : Fld} {n : Nat} {g : BlockLane → BlockLane} (h : s0.Leaves f s) :
    s0.Leaves f (s.updBl n g) :=
  h.same_regs (State.updBl_keeps (.refl s) _ _) ((State.updBl_only (.refl s 1024) rfl n g).same .regs rfl)

/-! ### A block lane that freezes -/

theorem exclLane_not_cupStat : ∀ c : Fin 2, isCupStat (CE_EXCL_LANE c).reg = false := by decide

theorem asgStep_not_cupStat {n : Nat} (hn : n < 48) : isCupStat (MX_ASG_STEP n).reg = false :=
  isCupStat_block (show (0x40500 + n * 4) / 0x10000 ≠ 3 by omega)

/-- What the freezing of a block lane does to its link, its lane and its move (R101). -/
def State.blockStopped (s : State) (c lane n : Nat) : State :=
  (((s.sendCmd n cmdDisable 0).dropK1 c lane).moveDrop n).updBl n fun b =>
    { b with frozen := true, valid := false, sameRun := 0, weight := 0, rampLeft := 0 }

/-- The lane is excluded as well. -/
def State.blockExcluded (s : State) (c lane n : Nat) : State :=
  let t := s.blockStopped c lane n
  t.setFld (CE_EXCL_LANE c) (setBit (t.fld (CE_EXCL_LANE c)) lane true)

section Frozen

variable (s : State) (c lane : Nat) {n : Nat}

theorem State.blockStopped_keeps : s.Keeps (s.blockStopped c lane n) :=
  State.updBl_keeps (State.moveDrop_keeps (State.dropK1_keeps (State.sendCmd_keeps (.refl s) _ _ _) _ _) _) _ _

theorem State.blockExcluded_keeps : s.Keeps (s.blockExcluded c lane n) := State.setFld_keeps (s.blockStopped_keeps c lane) _ _

/-- After the command nothing more happens to the link. -/
theorem State.blockExcluded_linkKeeps (hn : n < 48) : (s.sendCmd n cmdDisable 0).LinkKeeps id n (s.blockExcluded c lane n) :=
  have hexcl : (CE_EXCL_LANE c).besides n := .of_block hn (Nat.le_add_right_of_le (by decide)) ⟨by simp, by simp⟩
  .setFld (.updBl (.moveDrop hn (.dropK1 (.refl _)))) hexcl

theorem State.blockExcluded_leaves {f : Fld} (hexcl : f.reg ≠ R_CE_EXCL c) (hasg : f.reg ≠ R_MX_ASG n) :
    s.Leaves f (s.blockExcluded c lane n) := by
  have hcmd : s.Leaves f (s.sendCmd n cmdDisable 0) :=
    State.Leaves.same_regs (.refl s) (State.sendCmd_keeps (.refl s) _ _ _) (s.sendCmd_regs _ _ _)
  have hdrop : s.Leaves f ((s.sendCmd n cmdDisable 0).dropK1 c lane) := hcmd.same_regs (State.dropK1_keeps (.refl _) _ _) rfl
  exact .setFld (.updBl (hdrop.moveDrop hasg)) (Fld.sparedBy_of_reg_ne hexcl ⟨by simp, by simp⟩)

section Bit

variable (hwf : s.wf = true)

include hwf

theorem State.blockExcluded_bit (hlane : lane < 24) : bit ((s.blockExcluded c lane n).fld (CE_EXCL_LANE c)) lane = true := by
  have hinside : lane < (CE_EXCL_LANE c).msb + 1 - (CE_EXCL_LANE c).lsb := hlane
  rw [State.blockExcluded, State.fld_setFld ((s.blockStopped_keeps c lane).wf hwf) _ _ (by simp) (by simp), bit_eq_testBit,
    Nat.testBit_mod_two_pow, decide_eq_true hinside, Bool.true_and, ← bit_eq_testBit, bit_setBit_true]

theorem State.blockExcluded_mvStep (hn : n < 48) (hc : c < 2) : (s.blockExcluded c lane n).mvStep n = 0 := by
  have hdrop := State.dropK1_keeps (State.sendCmd_keeps (.refl s) n cmdDisable 0) c lane
  have hne : (MX_ASG_STEP n).reg ≠ (CE_EXCL_LANE c).reg := show 0x40500 + n * 4 ≠ 0x30120 + c * 0x100 by omega
  have hleft : State.Leaves (((s.sendCmd n cmdDisable 0).dropK1 c lane).moveDrop n) (MX_ASG_STEP n) (s.blockExcluded c lane n) :=
    .setFld (.updBl (.refl _)) (Fld.sparedBy_of_reg_ne hne ⟨by simp, by simp⟩)
  exact (hleft.fld_of ((State.moveDrop_keeps hdrop n).wf hwf)).trans (State.mvStep_moveDrop (hdrop.wf hwf) n)

/-- DISABLE reaches the link's queue, and nothing after it changes the link. -/
theorem State.blockExcluded_sent {code : Nat} {data : List Nat} (hn : n < 48) :
    s.Sent ((s.blockExcluded c lane n).event code data) n cmdDisable 0 := by
  intro hlst
  have hkept := (State.LinkKeeps.event hn (code := code) (data := data) (s.blockExcluded_linkKeeps c lane hn)).lk
  rw [id, id, State.lk_sendCmd hlst (by rw [State.links_length hwf]; exact hn)] at hkept
  rw [hkept]
  exact LinkSt.sent_given _ _ _

end Bit

end Frozen

/-! ### The commands -/

section Commands

variable {s : State} {c : Fin 2}

theorem execOutputFeedbackLost_of_lost (hclk : s.clocked = true) {l : Fin 4} {j : Nat} (hlost : (s.ol c l).lost = true)
    (hj : s.laneOut c l = some j) :
    exec (.outputFeedbackLost c l) s = .next ((s.failLane c l).event 0x0313 [c.val, 24 + l.val, j]) := by
  change s.live (if (s.ol c l).lost then (s.failLane c l).event 0x0313 [c.val, 24 + l.val, (s.laneOut c l).getD 15] else s) = _
  rw [State.live_next hclk, if_pos hlost, hj, Option.getD_some]

variable {k : Fin 28} (hclk : s.clocked = true)

include hclk

theorem execFrozenFeedback_of_output {j : Nat} (hk : 24 ≤ k.val) (hj : s.laneOut c (k.val - 24) = some j)
    (hfrozen : s.frozenOut c (s.ol c (k.val - 24)) = true) (hnew : (s.ol c (k.val - 24)).frozen = false) :
    exec (.frozenFeedback c k) s = .next (((s.failLane c (k.val - 24)).updOl c (k.val - 24) fun o =>
      { o with frozen := true, sameRun := 0 }).event 0x0315 [c.val, k.val, j]) := by
  change execFrozenFeedback c k s = _
  rw [execFrozenFeedback, State.live_next hclk, if_neg (Nat.not_lt.mpr hk)]
  simp only [hj, hfrozen, hnew, Option.isSome_some, Bool.not_false, Bool.and_self, if_true, Option.getD_some]

theorem execFrozenFeedback_of_block {n : Nat} (hk : k.val < 24) (hn : s.laneLink c k = some n)
    (hfrozen : s.frozenBlock c (s.bl n) = true) (hnew : (s.bl n).frozen = false) :
    exec (.frozenFeedback c k) s = .next ((s.blockExcluded c k n).event 0x0314 [c.val, k.val, n]) := by
  change execFrozenFeedback c k s = _
  rw [execFrozenFeedback, State.live_next hclk, if_pos hk]
  simp only [hn, hfrozen, hnew, Bool.not_false, Bool.and_self, if_true]
  rfl

end Commands

end Sys2Proof.Machine

open Sys2Proof Sys2Proof.Machine

/-- Settles O30: an output lane that fails is ramped down; a block lane that freezes is stopped and excluded. -/
theorem lostAndFrozenFeedback : Obligations.LostAndFrozenFeedback := by
  intro s c hwf hclk
  refine ⟨fun l j hlost hj => ?_, fun k j hk hj hfrozen hnew => ?_, fun k n hk hn hlink hfrozen hnew => ?_⟩
  · have hdown := State.RampedDown.failLane hwf (by omega) hj
    exact ⟨_, execOutputFeedbackLost_of_lost hclk hlost hj, (State.event_raised _ _ _).after hdown.keeps, hdown.event.out,
      hdown.event.sent⟩
  · have hdown := (State.RampedDown.failLane hwf (by omega) hj).updOl (g := fun o => { o with frozen := true, sameRun := 0 })
    have htold := hdown.event (code := 0x0315) (data := [c.val, k.val, j])
    have hout := htold.out
    rw [Nat.add_sub_cancel' hk] at hout
    exact ⟨_, execFrozenFeedback_of_output hclk hk hj hfrozen hnew, (State.event_raised _ _ _).after hdown.keeps, hout, htold.sent⟩
  · have hkeeps := s.blockExcluded_keeps c k (n := n)
    have hxwf := hkeeps.wf hwf
    refine ⟨_, execFrozenFeedback_of_block hclk hk hlink hfrozen hnew, (State.event_raised _ _ _).after hkeeps, ?_,
      State.blockExcluded_sent s c k hwf hn, ?_, fun o ho hcup => ?_⟩
    · rw [State.event_fld hxwf _ _ _ (exclLane_not_cupStat c)]
      exact s.blockExcluded_bit c k hwf hk
    · rw [State.mvStep, State.event_fld hxwf _ _ _ (asgStep_not_cupStat hn)]
      exact s.blockExcluded_mvStep c k hwf hn c.isLt
    · have hne : o ≠ R_CE_EXCL c ∧ o ≠ R_MX_ASG n := by simpa using ho
      exact (State.event_reg hxwf _ _ hcup).trans (State.reg_eq_of_wordFld ((s.blockExcluded_leaves c k hne.1 hne.2).fld_of hwf))
end

section
/-!
Moves of blocks (spec/05 R123, R126, R127), and the exclusions that the host clears (R127, spec/04 R101).
-/

namespace Sys2Proof.Machine

open Sys2Proof

/-! ### The step shown in MX_ASG -/

theorem State.mvStep_congr {s t : State} (h : t.regs = s.regs) (n : Nat) : t.mvStep n = s.mvStep n := State.fld_congr h _

theorem State.mvStep_showStep {s : State} (hwf : s.wf = true) (n : Nat) {st : Nat} (hst : st < 16) (dest : Option Nat) :
    (s.showStep n st dest).mvStep n = st := by
  rw [State.mvStep, State.showStep, State.fld_setFld_disj (State.setFld_wf hwf _ _) _ _ _ (by simp) (by simp) (.inr (by simp))]
  exact (State.canon_of_wf hwf).fld_setFld_of_lt (by simp) (by simp) hst

theorem State.Leaves.showStep {s0 s : State} {f : Fld} {n st : Nat} {dest : Option Nat} (h : s0.Leaves f s)
    (hf : f.reg ≠ R_MX_ASG n) : s0.Leaves f (s.showStep n st dest) :=
  .setFld (.setFld h (Fld.sparedBy_of_reg_ne hf ⟨by simp, by simp⟩)) (Fld.sparedBy_of_reg_ne hf ⟨by simp, by simp⟩)

/-! ### The rest of a move -/

theorem State.mv_updMv {s : State} {n : Nat} (hn : n < s.sh.moves.length) (g : Move → Move) : (s.updMv n g).mv n = g (s.mv n) :=
  nth_upd_same _ hn g

theorem State.src_updMv {g : Move → Move} (s : State) (m n : Nat) (hg : ∀ m, (g m).src = m.src) :
    ((s.updMv m g).mv n).src = (s.mv n).src := nth_upd_view (q := Move.src) (hg _) _ _ _ _

theorem State.mv_sendCmd (s : State) (n cmd arg m : Nat) : (s.sendCmd n cmd arg).mv m = s.mv m := by
  rw [State.mv, (State.sendCmd_only (.refl s (partsMask [.links])) rfl n cmd arg).same .sh rfl, State.mv]

/-- CLOSE goes out or waits; the source stays as it is. -/
theorem State.src_closeStep (s : State) (n : Nat) : ((s.closeStep n).mv n).src = (s.mv n).src := by
  unfold State.closeStep
  extract_lets m
  split
  · rw [State.mv_sendCmd]
    exact State.src_updMv s n n fun _ => rfl
  · rfl

/-! ### A step that begins -/

section BeginStep

variable (s : State) (n st : Nat)

/-- A step that begins is shown and timed; what else it does concerns links and moves. -/
theorem State.beginStep_only_of_shown :
    State.OnlyM ((s.showStep n st (s.mv n).dest).startTimer (.moveStep n)) (partsMask [.links, .sh]) (s.beginStep n st) := by
  unfold State.beginStep
  extract_lets m u
  split
  · exact State.sendCmd_only (.refl u _) rfl n _ _
  · exact State.sendCmd_only (.refl u _) rfl n _ _
  · exact State.closeStep_only (State.updMv_only (.refl u _) rfl n _) rfl n
  · exact .refl u _

theorem State.timing_beginStep : (s.beginStep n st).timing (.moveStep n) = true := by
  rw [State.timing, (s.beginStep_only_of_shown n st).same .timers rfl]
  exact State.timing_startTimer _ _

theorem State.src_beginStep_close : ((s.beginStep n 4).mv n).src = (s.mv n).src :=
  (State.src_closeStep _ n).trans
    (State.src_updMv ((s.showStep n 4 (s.mv n).dest).startTimer (.moveStep n)) n n fun _ => rfl)

variable {s n st} (hwf : s.wf = true)

include hwf

theorem State.mvStep_beginStep (hst : st < 16) : (s.beginStep n st).mvStep n = st :=
  (State.mvStep_congr ((s.beginStep_only_of_shown n st).same .regs rfl) n).trans (State.mvStep_showStep hwf n hst _)

/-- A command sent as a step begins reaches the link. -/
theorem State.sent_of_shown (hn : n < 48) (dest : Option Nat) (cmd arg : Nat) :
    s.Sent (((s.showStep n st dest).startTimer (.moveStep n)).sendCmd n cmd arg) n cmd arg := by
  intro hlst
  have hne : (CQ_STATE_LSTATE n).reg ≠ R_MX_ASG n := show 0x21004 + n * 0x20 ≠ 0x40500 + n * 4 by omega
  have hkept : ((s.showStep n st dest).startTimer (.moveStep n)).lst n = s.lst n :=
    (State.Leaves.showStep (.refl s) hne).fld_of hwf
  rw [State.lk_sendCmd (by rwa [hkept]) (by rw [State.startTimer_links]; exact (State.links_length hwf).symm ▸ hn)]
  exact LinkSt.sent_given _ _ _

theorem State.sent_beginStep_disable (hn : n < 48) : s.Sent (s.beginStep n 2) n cmdDisable 0 := State.sent_of_shown hwf hn _ _ _

theorem State.sent_beginStep_open (hn : n < 48) {k : Nat} (hsrc : (s.mv n).src = some k) :
    s.Sent (s.beginStep n 3) n cmdMxOpen k := by
  have hcmd := State.sent_of_shown (st := 3) hwf hn (s.mv n).dest cmdMxOpen ((s.mv n).src.getD 0)
  rw [hsrc] at hcmd
  rw [State.beginStep, hsrc]
  exact hcmd

end BeginStep

/-! ### The ends of the steps (Table 5.2) -/

/-- OPEN has ended: the block belongs to no output. -/
def State.moveOpened (s : State) (n : Nat) : State := s.updMv n fun m => { m with unmap := true, src := none }

/-- OPEN of a return to the pool has ended, and the move with it. -/
def State.moveReturned (s : State) (n : Nat) : State := ((s.moveOpened n).showStep n 0 none).stopTimer (.moveStep n)

/-- CLOSE has ended: the next slot names the destination. -/
def State.moveClosed (s : State) (n : Nat) : State :=
  ((s.showStep n 5 (s.mv n).dest).stopTimer (.moveStep n)).updMv n fun m => { m with joinDue := true }

/-- JOIN has ended, and the move with it. -/
def State.moveJoined (s : State) (n : Nat) : State := (s.showStep n 0 none).updMv n fun m => { m with dest := none, reenter := false }

section Ends

variable {s : State} {n : Nat}

theorem State.moveStepEnd_of_leave (hst : s.mvStep n = 1) (hleft : (s.bl n).weight = 0 ∨ s.inK1 n = false) :
    s.moveStepEnd n = s.beginStep n 2 := by
  rw [State.moveStepEnd, hst]
  exact if_pos (by simpa using hleft)

theorem State.moveStepEnd_of_disable {k : Nat} (hst : s.mvStep n = 2) (hready : s.bst n = 1) (hsrc : (s.mv n).src = some k) :
    s.moveStepEnd n = s.beginStep n 3 := by
  rw [State.moveStepEnd, hst]
  exact (if_pos hready).trans (if_pos (by simp [hsrc]))

theorem State.moveStepEnd_of_open {k : Nat} (hst : s.mvStep n = 3) (hsrc : (s.mv n).src = some k)
    (hopen : bit (s.lk n).mxState k = false) :
    s.moveStepEnd n = if (s.mv n).dest = none then s.moveReturned n else (s.moveOpened n).beginStep n 4 := by
  rw [State.moveStepEnd, hst]
  refine (if_pos (by simp [hsrc, hopen])).trans ?_
  simp only [Option.isNone_iff_eq_none]
  rfl

theorem State.moveStepEnd_of_close {k : Nat} (hst : s.mvStep n = 4) (hdest : (s.mv n).dest = some k)
    (hclosed : bit (s.lk n).mxState k = true) : s.moveStepEnd n = s.moveClosed n := by
  rw [State.moveStepEnd, hst]
  exact if_pos (by simp [hdest, hclosed])

theorem State.moveStepEnd_of_join (hst : s.mvStep n = 5) (hdue : (s.mv n).joinDue = false) (hk1 : s.inK1 n = true)
    (hramp : (s.bl n).rampLeft = 0) : s.moveStepEnd n = (s.moveJoined n).event 0x0402 [n] := by
  rw [State.moveStepEnd, hst]
  exact if_pos (by simp [hdue, hk1, hramp])

section Source

variable (hn : n < s.sh.moves.length)

include hn

theorem State.src_moveOpened : ((s.moveOpened n).mv n).src = none := congrArg Move.src (State.mv_updMv hn _)

theorem State.src_moveReturned : ((s.moveReturned n).mv n).src = none := State.src_moveOpened hn

end Source

variable (hwf : s.wf = true)

theorem State.moveJoined_keeps (s : State) (n : Nat) : s.Keeps (s.moveJoined n) :=
  State.updMv_keeps (State.showStep_keeps (.refl s) n 0 none) n _

include hwf

theorem State.moveOpened_wf : (s.moveOpened n).wf = true := (State.updMv_keeps (.refl s) n _).wf hwf

theorem State.mvStep_moveReturned : (s.moveReturned n).mvStep n = 0 := by
  have hregs : (s.moveReturned n).regs = ((s.moveOpened n).showStep n 0 none).regs := State.stopTimer_regs _ _
  exact (State.mvStep_congr hregs n).trans (State.mvStep_showStep (State.moveOpened_wf hwf) n (by decide) none)

theorem State.mvStep_moveClosed : (s.moveClosed n).mvStep n = 5 := State.mvStep_showStep hwf n (by decide) (s.mv n).dest

theorem State.mvStep_moveJoined_event (hn : n < 48) (code : Nat) (data : List Nat) : ((s.moveJoined n).event code data).mvStep n = 0 :=
  (State.event_fld ((s.moveJoined_keeps n).wf hwf) code data _ (asgStep_not_cupStat hn)).trans
    (State.mvStep_showStep hwf n (by decide) none)

end Ends

/-! ### A step that exceeds its limit (R127) -/

/-- The move has ended, its block in no output. -/
def State.moveEnded (s : State) (n : Nat) : State :=
  ((s.showStep n 0 none).stopTimer (.moveStep n)).updMv n fun m =>
    { m with dest := none, start := 0, resume := 0, unmap := true, joinDue := false, joinMapped := false, reenter := false }

section Abort

variable (s : State) (n : Nat)

theorem State.moveAbort_eq :
    s.moveAbort n = ((s.moveEnded n).setFlag (linkFld R_MX_EXCL_LO R_MX_EXCL_HI n) true).event 0x0403 [n] := by
  rw [← State.setLinkBit_eq_setFlag]
  rfl

theorem State.moveEnded_keeps : s.Keeps (s.moveEnded n) :=
  State.updMv_keeps (State.stopTimer_keeps (State.showStep_keeps (.refl s) n 0 none) _) n _

theorem State.moveAbort_raised : s.Raised (s.moveAbort n) 0x0403 [n] := by
  rw [State.moveAbort_eq]
  exact (State.setFlag_event_raised _ _ _ _).after (s.moveEnded_keeps n)

theorem State.timing_moveAbort : (s.moveAbort n).timing (.moveStep n) = false := by
  rw [State.moveAbort_eq, State.timing, State.event_timers]
  exact State.timing_stopTimer _ _

/-- The exclusions lie above the assignments, and in no buffer's status. -/
theorem exclFld_outside (n : Nat) : 0x40600 ≤ (linkFld R_MX_EXCL_LO R_MX_EXCL_HI n).reg ∧
    isCupStat (linkFld R_MX_EXCL_LO R_MX_EXCL_HI n).reg = false := by
  rcases linkFld_reg R_MX_EXCL_LO R_MX_EXCL_HI n with h | h <;> rw [h] <;> decide

variable {s n} (hwf : s.wf = true) (hn : n < 48)

include hwf hn

theorem State.mvStep_moveAbort : (s.moveAbort n).mvStep n = 0 := by
  obtain ⟨hle, -⟩ := exclFld_outside n
  have hne : (MX_ASG_STEP n).reg ≠ (linkFld R_MX_EXCL_LO R_MX_EXCL_HI n).reg :=
    Nat.ne_of_lt (Nat.lt_of_lt_of_le (show 0x40500 + n * 4 < 0x40600 by omega) hle)
  have hleft : (s.moveEnded n).Leaves (MX_ASG_STEP n) (s.moveAbort n) := by
    rw [State.moveAbort_eq]
    exact .event (.setFlag (.refl _) (Fld.sparedBy_of_reg_ne hne (linkFld_in_word (by omega) _ _))) (asgStep_not_cupStat hn)
  exact (hleft.fld_of ((s.moveEnded_keeps n).wf hwf)).trans (State.mvStep_showStep hwf n (by decide) none)

theorem State.linkBit_moveAbort : (s.moveAbort n).linkBit R_MX_EXCL_LO R_MX_EXCL_HI n = true := by
  rw [State.linkBit_eq_flag, State.moveAbort_eq]
  exact State.flag_setFlag_event ((s.moveEnded_keeps n).wf hwf) _ _ _ _ (linkFld_one_bit _ _ _)
    (linkFld_in_word (by omega) _ _).2 (exclFld_outside n).2

end Abort

/-! ### The exclusions cleared -/

theorem nth_mapIdx {α : Type} (d : α) (f : Nat → α → α) {l : List α} {i : Nat} (h : i < l.length) :
    nth d (l.mapIdx f) i = f i (nth d l i) := by
  simp [nth, List.getD_eq_getElem?_getD, h]

section Clear

variable {s : State} (hwf : s.wf = true)

include hwf

theorem State.mxExclClear_reg (lo hi : Word) (o : Nat) :
    (s.mxExclClear lo hi).reg o = if o = R_MX_EXCL_HI then s.reg R_MX_EXCL_HI &&& ~~~hi
      else if o = R_MX_EXCL_LO then s.reg R_MX_EXCL_LO &&& ~~~lo else s.reg o := by
  have hhi : (s.setReg R_MX_EXCL_LO (s.reg R_MX_EXCL_LO &&& ~~~lo)).reg R_MX_EXCL_HI = s.reg R_MX_EXCL_HI := by
    rw [State.reg_setReg hwf, if_neg (by decide)]
  rw [State.mxExclClear, hhi, State.reg_setReg (State.setReg_wf hwf _ _), State.reg_setReg hwf]

theorem State.ceExclClear_reg (c : Nat) (mask : Word) (o : Nat) :
    (s.ceExclClear c mask).reg o = if o = R_CE_EXCL c then s.reg (R_CE_EXCL c) &&& ~~~mask else s.reg o :=
  State.reg_setReg hwf _ _ _

theorem State.ceExclClear_frozen (c : Fin 2) (mask : Word) {k : Nat} (hk : k < (s.ce c).blocks.length) :
    (nth BlockLane.rest ((s.ceExclClear c mask).ce c).blocks k).frozen
      = ((nth BlockLane.rest (s.ce c).blocks k).frozen && !inMask mask k) := by
  rw [State.ceExclClear, State.ce_updCe (State.setReg_wf hwf _ _)]
  refine (congrArg BlockLane.frozen (nth_mapIdx _ _ hk)).trans ?_
  cases hmask : inMask mask k
  · simp [State.ce]
  · simp

end Clear

/-! ### The commands -/

section Commands

variable {s : State} (hclk : s.clocked = true)

include hclk

theorem execMoveStepEnd_eq (n : Fin 48) : exec (.moveStepEnd n) s = .next (s.moveStepEnd n) := State.live_next hclk _

/-- DISABLE has 2 ms, OPEN and CLOSE have 60 ms. -/
theorem execMoveStepTimeout_of_due {n : Fin 48} (hdue : s.mvStep n = 2 ∧ s.due (.moveStep n) (2 * ms) = true ∨
    (s.mvStep n = 3 ∨ s.mvStep n = 4) ∧ s.due (.moveStep n) (60 * ms) = true) :
    exec (.moveStepTimeout n) s = .next (s.moveAbort n) := by
  change execMoveStepTimeout n s = _
  rw [execMoveStepTimeout, State.live_next hclk, if_pos]
  rcases hdue with ⟨hst, h⟩ | ⟨hst | hst, h⟩ <;> simp [hst, stepLimit, h]

theorem execMxExclClear_eq (lo hi : Word) : exec (.mxExclClear lo hi) s = .next (s.mxExclClear lo hi) := State.live_next hclk _

theorem execCeExclClear_eq (c : Fin 2) (mask : Word) : exec (.ceExclClear c mask) s = .next (s.ceExclClear c mask) :=
  State.live_next hclk _

end Commands

end Sys2Proof.Machine

open Sys2Proof Sys2Proof.Machine

/-- Settles O20: each step of Table 5.2 ends in the next one, a step over its limit excludes the block, and the host's clears. -/
theorem movesOfBlocks : Obligations.MovesOfBlocks := by
  intro s hwf hclk
  refine ⟨fun n => ⟨fun hst hleft => ?_, fun k hst hready hsrc => ?_, fun k hst hsrc hopen hn => ?_, fun k hst hdest hclosed hn => ?_,
    fun hst hdue hk1 hramp => ?_, fun hdue => ?_⟩, fun lo hi => ?_, fun c mask hlen => ?_⟩
  · refine ⟨_, execMoveStepEnd_eq hclk n, ?_⟩
    rw [State.moveStepEnd_of_leave hst hleft]
    exact ⟨State.mvStep_beginStep hwf (by decide), State.sent_beginStep_disable hwf n.isLt, s.timing_beginStep n 2⟩
  · refine ⟨_, execMoveStepEnd_eq hclk n, ?_⟩
    rw [State.moveStepEnd_of_disable hst hready hsrc]
    exact ⟨State.mvStep_beginStep hwf (by decide), State.sent_beginStep_open hwf n.isLt hsrc⟩
  · refine ⟨_, execMoveStepEnd_eq hclk n, ?_⟩
    rw [State.moveStepEnd_of_open hst hsrc hopen]
    split
    · exact ⟨State.mvStep_moveReturned hwf, State.src_moveReturned hn⟩
    · exact ⟨State.mvStep_beginStep (State.moveOpened_wf hwf) (by decide),
        (State.src_beginStep_close _ n).trans (State.src_moveOpened hn)⟩
  · refine ⟨_, execMoveStepEnd_eq hclk n, ?_⟩
    rw [State.moveStepEnd_of_close hst hdest hclosed]
    exact ⟨State.mvStep_moveClosed hwf, congrArg Move.joinDue (State.mv_updMv hn _), State.timing_stopTimer _ _⟩
  · refine ⟨_, execMoveStepEnd_eq hclk n, ?_⟩
    rw [State.moveStepEnd_of_join hst hdue hk1 hramp]
    exact ⟨State.mvStep_moveJoined_event hwf n.isLt _ _, (State.event_raised _ _ _).after (s.moveJoined_keeps n)⟩
  · exact ⟨_, execMoveStepTimeout_of_due hclk hdue, State.mvStep_moveAbort hwf n.isLt, State.linkBit_moveAbort hwf n.isLt,
      s.moveAbort_raised n, s.timing_moveAbort n⟩
  · refine ⟨_, execMxExclClear_eq hclk lo hi, ?_, ?_, fun o ho _ => ?_, ?_⟩
    · rw [State.mxExclClear_reg hwf, if_neg (by decide), if_pos rfl]
    · rw [State.mxExclClear_reg hwf, if_pos rfl]
    · obtain ⟨hlo, hhi⟩ : o ≠ R_MX_EXCL_LO ∧ o ≠ R_MX_EXCL_HI := by simpa using ho
      rw [State.mxExclClear_reg hwf, if_neg hhi, if_neg hlo]
    · exact (State.mxExclClear_only (.refl s (partsMask [.regs])) rfl lo hi).toOnly _ fun _ => partsMask_testBit_of_notMem
  · refine ⟨_, execCeExclClear_eq hclk c mask, ?_, fun o ho _ => ?_,
      fun k hk => State.ceExclClear_frozen hwf c mask (hlen.symm ▸ hk)⟩
    · rw [State.ceExclClear_reg hwf, if_pos rfl]
    · rw [State.ceExclClear_reg hwf, if_neg (mt List.mem_singleton.mpr ho)]
end

section
/-!
The cooling loops (spec/05 R131, R132): cooling that fails and is restored, and the end of the pump's run-on.
-/

namespace Sys2Proof.Machine

open Sys2Proof

/-- The failure is told, and the time without a condition begins afresh. -/
def State.coolingLost (s : State) (j : Nat) : State :=
  ((s.updSh fun h => { h with coolOkNs := h.coolOkNs.set j 0 }).setFlag (OUT_STAT_COOL_FAIL j) true).event 0x0408 [j]

/-- The pump's request is taken back. -/
def State.pumpStopped (s : State) (j : Nat) : State :=
  (s.stopTimer (.runOn j)).updSh fun h => { h with pump := h.pump.set j false, runOn := h.runOn.set j false }

theorem coolFail_not_cupStat {j : Nat} (hj : j < 8) : isCupStat (OUT_STAT_COOL_FAIL j).reg = false :=
  isCupStat_block (show (0x40120 + j * 0x40) / 0x10000 ≠ 3 by omega)

theorem nth_set_default {α : Type} (d : α) (l : List α) (i : Nat) : nth d (l.set i d) i = d := by
  by_cases hi : i < l.length
  · exact nth_set_same d hi d
  · rw [List.set_eq_of_length_le (Nat.not_lt.mp hi), nth, List.getD_eq_default _ _ (Nat.not_lt.mp hi)]

section Commands

variable {s : State} (hclk : s.clocked = true) {j : Fin 8}

include hclk

theorem execCoolingFailed_of_bad (hbad : s.coolBad j = true) (hfail : s.flag (OUT_STAT_COOL_FAIL j) = false) :
    exec (.coolingFailed j) s = .next (s.coolingLost j) := by
  change execCoolingFailed j s = _
  rw [execCoolingFailed, State.live_next hclk, if_pos (by simp [hbad, hfail])]
  rfl

theorem execCoolingRestored_of_good (hgood : s.coolBad j = false) (hfail : s.flag (OUT_STAT_COOL_FAIL j) = true)
    (hlong : 60 * sec ≤ nth 0 s.sh.coolOkNs j) :
    exec (.coolingRestored j) s = .next ((s.setFlag (OUT_STAT_COOL_FAIL j) false).event 0x0409 [j]) := by
  change execCoolingRestored j s = _
  rw [execCoolingRestored, State.live_next hclk, if_pos (by simp [hgood, hfail, hlong])]

theorem execPumpRunonEnd_of_due (hdue : s.due (.runOn j) (s.fld (OUT_COOLT_RUNON j) * 10 * sec) = true)
    (hneed : s.pumpNeeded j = false) : exec (.pumpRunonEnd j) s = .next (s.pumpStopped j) := by
  change execPumpRunonEnd j s = _
  rw [execPumpRunonEnd, State.live_next hclk, if_pos (by simp [hdue, hneed])]
  rfl

end Commands

end Sys2Proof.Machine

open Sys2Proof Sys2Proof.Machine

/-- Settles O36: both events go with one flag, and the end of the run-on concerns the pump alone. -/
theorem coolingLoops : Obligations.CoolingLoops := by
  intro s j hwf hclk
  have hcup := coolFail_not_cupStat j.isLt
  refine ⟨fun hbad hfail => ?_, fun hgood hfail hlong => ?_, fun hdue hneed => ?_⟩
  · have htimed := State.updSh_keeps (.refl s) fun h => { h with coolOkNs := h.coolOkNs.set j 0 }
    exact ⟨_, execCoolingFailed_of_bad hclk hbad hfail,
      State.flag_setFlag_event (htimed.wf hwf) (OUT_STAT_COOL_FAIL j) true _ _ rfl (by simp) hcup,
      (State.setFlag_event_raised _ _ _ _).after htimed,
      State.setFlag_event_regsOnly (htimed.wf hwf) (OUT_STAT_COOL_FAIL j) true _ _⟩
  · exact ⟨_, execCoolingRestored_of_good hclk hgood hfail hlong,
      State.flag_setFlag_event hwf (OUT_STAT_COOL_FAIL j) false _ _ rfl (by simp) hcup, State.setFlag_event_raised _ _ _ _,
      State.setFlag_event_regsOnly hwf (OUT_STAT_COOL_FAIL j) false _ _⟩
  · exact ⟨_, execPumpRunonEnd_of_due hclk hdue hneed, nth_set_default false _ _, State.timing_stopTimer _ _, rfl, rfl,
      fun k hk => nth_set_other false _ hk.symm false⟩
end

section
/-!
Rules for a vehicle dialogue (spec/06): its part of the state, its register fields and its timers, through the operations that leave
them alone. Each rule is stated backwards: what is left alone up to here is left alone after it.
-/

namespace Sys2Proof.Machine

open Sys2Proof

/-! ### The dialogue's part of the state -/

theorem State.veh_length {s : State} (hwf : s.wf = true) : s.veh.length = 8 := by
  simp only [State.wf, State.sized, Bool.and_eq_true, beq_iff_eq] at hwf
  exact hwf.2.1.2

theorem State.vh_updVh {s : State} (hwf : s.wf = true) (j : Fin 8) (g : Veh → Veh) : (s.updVh j g).vh j = g (s.vh j) :=
  nth_upd_same _ (by rw [State.veh_length hwf]; exact j.isLt) g

@[simp] theorem State.stopTimer_vh (s : State) (x : Timer) (j : Nat) : (s.stopTimer x).vh j = s.vh j := rfl

theorem State.vh_congr {s t : State} (h : t.veh = s.veh) (j : Nat) : t.vh j = s.vh j := by rw [State.vh, h, State.vh]

/-- A dialogue without its place in a bundle, its authorisation and what its circuit drives. -/
def Veh.core (v : Veh) : Veh :=
  { v with
    drive := 0, authReq := none, idType := 0, ident := [], authAt := 0, token := none, lead := none, joinNo := 0, wasJoined := false }

/-- From `s` to `t` the core of output `j`'s dialogue stays. -/
def State.CoreKeeps (s : State) (j : Nat) (t : State) : Prop := (t.vh j).core = (s.vh j).core

namespace State.CoreKeeps

variable {j : Nat} {s0 s : State}

theorem refl (s : State) : s.CoreKeeps j s := rfl

theorem same_veh {t : State} (h : s0.CoreKeeps j s) (hveh : t.veh = s.veh) : s0.CoreKeeps j t :=
  (congrArg Veh.core (State.vh_congr hveh j)).trans h

theorem updVh {k : Nat} {g : Veh → Veh} (h : s0.CoreKeeps j s) (hg : ∀ {v}, (g v).core = v.core := by exact rfl) :
    s0.CoreKeeps j (s.updVh k g) :=
  (nth_upd_view hg _ _ _ _).trans h

theorem ite {c : Prop} [Decidable c] {a b : State} (ha : s0.CoreKeeps j a) (hb : s0.CoreKeeps j b) :
    s0.CoreKeeps j (if c then a else b) := by
  split
  · exact ha
  · exact hb

theorem iff {c : Bool} {g : State → State} (h : s0.CoreKeeps j s) (hg : ∀ {s}, s0.CoreKeeps j s → s0.CoreKeeps j (g s)) :
    s0.CoreKeeps j (s.iff c g) := ite (hg h) h

theorem each {α : Type} {l : List α} {g : State → α → State} (h : s0.CoreKeeps j s)
    (hg : ∀ {s a}, s0.CoreKeeps j s → s0.CoreKeeps j (g s a)) : s0.CoreKeeps j (s.each l g) :=
  List.foldlRecOn l g h fun _ h _ _ => hg h

theorem event {code : Nat} {data : List Nat} (h : s0.CoreKeeps j s) : s0.CoreKeeps j (s.event code data) :=
  h.same_veh (State.event_veh _ _ _)

theorem setSState {k new why : Nat} (h : s0.CoreKeeps j s) : s0.CoreKeeps j (s.setSState k new why) :=
  h.same_veh ((State.setSState_only (.refl s 1030) rfl k new why).same .veh rfl)

theorem leaveJoin {k : Nat} (h : s0.CoreKeeps j s) : s0.CoreKeeps j (s.leaveJoin k) := by
  unfold State.leaveJoin
  split
  · exact h
  · have hleft : s0.CoreKeeps j (((s.updVh k fun v => { v with lead := none, wasJoined := true }).setFlag (VD_STAT_JOINED k) false).event
        0x0511 [k, ((s.updVh k fun v => { v with lead := none, wasJoined := true }).setFlag (VD_STAT_JOINED k) false).sess k]) :=
      .event (.updVh h)
    dsimp only
    split
    · exact .updVh hleft
    · exact .ite (.each hleft .updVh) hleft
    · exact hleft

theorem tokSettle {k : Nat} {ok : Bool} (h : s0.CoreKeeps j s) : s0.CoreKeeps j (s.tokSettle k ok) := by
  unfold State.tokSettle
  split
  · exact h
  · exact .updVh h

theorem dropReqs {k : Nat} (h : s0.CoreKeeps j s) : s0.CoreKeeps j (s.dropReqs k) := .tokSettle h

theorem endPause {k : Nat} (h : s0.CoreKeeps j s) : s0.CoreKeeps j (s.endPause k) := .iff h .updVh

theorem postAuth {k idType : Nat} {ident payload : List Byte} (h : s0.CoreKeeps j s) :
    s0.CoreKeeps j (s.postAuth k idType ident payload) :=
  have hsettled : s0.CoreKeeps j (s.iff (idType != 4) (·.tokSettle k false)) := .iff h .tokSettle
  .updVh (s := { (s.iff (idType != 4) (·.tokSettle k false)) with vehc := _ }) hsettled

theorem joinTo {i k : Nat} (h : s0.CoreKeeps j s) : s0.CoreKeeps j (s.joinTo i k) := by
  unfold State.joinTo
  extract_lets lead n s1 s2 s3 c s4 s5 full s6
  have h1 : s0.CoreKeeps j s1 := .iff h .updVh
  have h3 : s0.CoreKeeps j s3 := .updVh (.tokSettle (.updVh h1))
  exact .event (.iff h3 id)

theorem enterAuth {k : Nat} (h : s0.CoreKeeps j s) : s0.CoreKeeps j (s.enterAuth k) := by
  unfold State.enterAuth
  extract_lets s1 v
  have h1 : s0.CoreKeeps j s1 := .updVh (.setSState h)
  refine .ite h1 (.ite ?_ h1)
  split
  · extract_lets s2 s3
    have h3 : s0.CoreKeeps j s3 := h1.same_veh ((State.portShow_only (.refl _ 2) rfl _ _).same .veh rfl)
    exact .event (.postAuth h3)
  · exact .postAuth h1

end State.CoreKeeps

/-! ### Its register fields -/

/-- A write of field `g` of one output touches no bit of field `f` of any. -/
def Fld.beside (f g : Fld) : Bool :=
  (f.reg % 0x40 != g.reg % 0x40 || decide (f.msb < g.lsb ∨ g.msb < f.lsb)) && decide (g.lsb ≤ g.msb ∧ g.msb < 32)

theorem Fld.sparedBy_of_beside {f g : Fld} (h : f.beside g = true) : f.sparedBy g = true := by
  simp only [Fld.beside, Fld.sparedBy, Fld.apart, Bool.and_eq_true, Bool.or_eq_true, bne_iff_ne] at h ⊢
  exact ⟨h.1.imp_left fun hne e => hne (e ▸ rfl), h.2⟩

/-- A field above the control engines' that no joint session and no token writes. -/
def Fld.ofTalk (f : Fld) : Bool :=
  decide (0x40000 ≤ f.reg) && [VD_STAT_JOINED 0, TOK_STAT_WIN, TOK_STAT_PEND].all f.beside

theorem Fld.beside_row (b m l j : Nat) (g : Fld) : (⟨b + j * 0x40, m, l⟩ : Fld).beside g = (⟨b, m, l⟩ : Fld).beside g := by
  simp only [Fld.beside, Nat.add_mul_mod_self_right]

/-- A field of a row of registers with one for each output. -/
theorem Fld.ofTalk_row {b m l : Nat} (h : (⟨b, m, l⟩ : Fld).ofTalk = true) (j : Nat) : (⟨b + j * 0x40, m, l⟩ : Fld).ofTalk = true := by
  simp only [Fld.ofTalk, Bool.and_eq_true, decide_eq_true_eq, List.all_cons, List.all_nil, Fld.beside_row] at h ⊢
  exact ⟨Nat.le_add_right_of_le h.1, h.2⟩

section OfTalk

variable {f : Fld} (hf : f.ofTalk = true)

include hf

theorem Fld.ofTalk.not_cupStat : isCupStat f.reg = false := by
  simp only [Fld.ofTalk, Bool.and_eq_true, decide_eq_true_eq] at hf
  exact isCupStat_block (by omega)

theorem Fld.ofTalk.joined (k : Nat) : f.sparedBy (VD_STAT_JOINED k) = true := by
  simp only [Fld.ofTalk, List.all_cons, Bool.and_eq_true] at hf
  refine Fld.sparedBy_of_beside ?_
  have := hf.2.1
  simp only [Fld.beside, Nat.add_mul_mod_self_right] at this ⊢
  exact this

theorem Fld.ofTalk.token : f.sparedBy TOK_STAT_WIN = true ∧ f.sparedBy TOK_STAT_PEND = true := by
  simp only [Fld.ofTalk, List.all_cons, Bool.and_eq_true] at hf
  exact ⟨Fld.sparedBy_of_beside hf.2.2.1, Fld.sparedBy_of_beside hf.2.2.2.1⟩

end OfTalk

namespace State.Leaves

variable {f : Fld} {s0 s : State}

theorem updVh {k : Nat} {g : Veh → Veh} (h : s0.Leaves f s) : s0.Leaves f (s.updVh k g) :=
  h.same_regs (State.updVh_keeps (.refl s) k g) rfl

theorem startTimer {x : Timer} (h : s0.Leaves f s) : s0.Leaves f (s.startTimer x) := h.same_regs (State.startTimer_keeps (.refl s) x) rfl

theorem stopTimer {x : Timer} (h : s0.Leaves f s) : s0.Leaves f (s.stopTimer x) := h.same_regs (State.stopTimer_keeps (.refl s) x) rfl

theorem updVehc {c : VehCommon} (h : s0.Leaves f s) : s0.Leaves f { s with vehc := c } :=
  h.same_regs (State.mk_keeps (.refl _) _ _ _ _ _ _ _ _ _ _ _ _ _ _ _ _ _ _ _ _ _ _ rfl rfl rfl rfl) rfl

theorem quiet {k : Nat} (h : s0.Leaves f s) : s0.Leaves f (s.quiet k) := h.same_regs (State.quiet_keeps (.refl s) k) rfl

theorem endPause {k : Nat} (h : s0.Leaves f s) : s0.Leaves f (s.endPause k) := .iff h .updVh

section Talk

variable (hf : f.ofTalk = true)

include hf

theorem told {code : Nat} {data : List Nat} (h : s0.Leaves f s) : s0.Leaves f (s.event code data) := .event h (Fld.ofTalk.not_cupStat hf)

theorem leaveJoin {k : Nat} (h : s0.Leaves f s) : s0.Leaves f (s.leaveJoin k) := by
  unfold State.leaveJoin
  split
  · exact h
  · have hleft : s0.Leaves f (((s.updVh k fun v => { v with lead := none, wasJoined := true }).setFlag (VD_STAT_JOINED k) false).event
        0x0511 [k, ((s.updVh k fun v => { v with lead := none, wasJoined := true }).setFlag (VD_STAT_JOINED k) false).sess k]) :=
      told hf (.setFlag (.updVh h) (Fld.ofTalk.joined hf k))
    dsimp only
    split
    · exact .setFlag (.updVh hleft) (Fld.ofTalk.joined hf _)
    · exact .ite (.each hleft fun _ => .updVh) hleft
    · exact hleft

theorem tokSettle {k : Nat} {ok : Bool} (h : s0.Leaves f s) : s0.Leaves f (s.tokSettle k ok) := by
  unfold State.tokSettle
  split
  · exact h
  · exact .setSat (.setSat (.updLeg (.updVh h)) (Fld.ofTalk.token hf).1) (Fld.ofTalk.token hf).2

theorem dropReqs {k : Nat} (h : s0.Leaves f s) : s0.Leaves f (s.dropReqs k) :=
  .updVehc (tokSettle hf h)

theorem postAuth {k idType : Nat} {ident payload : List Byte} (h : s0.Leaves f s) : s0.Leaves f (s.postAuth k idType ident payload) := by
  unfold State.postAuth
  extract_lets s1 rid r
  have h1 : s0.Leaves f s1 := .iff h (tokSettle hf)
  exact .startTimer (.updVh (.updVehc h1))

theorem joinTo {i k : Nat} (h : s0.Leaves f s) : s0.Leaves f (s.joinTo i k) := by
  unfold State.joinTo
  extract_lets lead n s1 s2 s3 c s4 s5 full s6
  have h1 : s0.Leaves f s1 := .iff h .updVh
  have h3 : s0.Leaves f s3 := .updVh (tokSettle hf (.stopTimer (.updVh h1)))
  have h5 : s0.Leaves f s5 := .setFlag (.setFlag (.updVehc h3) (Fld.ofTalk.joined hf _)) (Fld.ofTalk.joined hf _)
  exact told hf (.iff h5 .stopTimer)

end Talk

end State.Leaves

/-! ### Timers -/

/-- From `s` to `t` timer `x` runs as it did. -/
def State.TimingKeeps (s : State) (x : Timer) (t : State) : Prop := t.timing x = s.timing x

namespace State.TimingKeeps

variable {x : Timer} {s0 s : State}

theorem refl (s : State) : s.TimingKeeps x s := rfl

theorem same_timers {t : State} (h : s0.TimingKeeps x s) (htimers : t.timers = s.timers) : s0.TimingKeeps x t := by
  rw [State.TimingKeeps, State.timing, htimers]
  exact h

theorem stopTimer {y : Timer} (h : s0.TimingKeeps x s) (hxy : x ≠ y) : s0.TimingKeeps x (s.stopTimer y) :=
  (State.timing_stopTimer_of_ne s hxy).trans h

theorem startTimer {y : Timer} (h : s0.TimingKeeps x s) (hxy : x ≠ y) : s0.TimingKeeps x (s.startTimer y) :=
  (State.timing_startTimer_of_ne s hxy).trans h

theorem ite {c : Prop} [Decidable c] {a b : State} (ha : s0.TimingKeeps x a) (hb : s0.TimingKeeps x b) :
    s0.TimingKeeps x (if c then a else b) := by
  split
  · exact ha
  · exact hb

theorem iff {c : Bool} {g : State → State} (h : s0.TimingKeeps x s) (hg : ∀ {s}, s0.TimingKeeps x s → s0.TimingKeeps x (g s)) :
    s0.TimingKeeps x (s.iff c g) := ite (hg h) h

theorem event {code : Nat} {data : List Nat} (h : s0.TimingKeeps x s) : s0.TimingKeeps x (s.event code data) :=
  h.same_timers (State.event_timers _ _ _)

theorem setSState {j new why : Nat} (h : s0.TimingKeeps x s) : s0.TimingKeeps x (s.setSState j new why) :=
  h.same_timers ((State.setSState_only (.refl s 1030) rfl j new why).same .timers rfl)

theorem tokSettle {j : Nat} {ok : Bool} (h : s0.TimingKeeps x s) : s0.TimingKeeps x (s.tokSettle j ok) :=
  h.same_timers ((State.tokSettle_only (.refl s 36866) rfl j ok).same .timers rfl)

theorem postAuth {j idType : Nat} {ident payload : List Byte} (h : s0.TimingKeeps x s) (hx : x ≠ .auth j) :
    s0.TimingKeeps x (s.postAuth j idType ident payload) := by
  have hsettled : s0.TimingKeeps x (s.iff (idType != 4) (·.tokSettle j false)) := .iff h .tokSettle
  exact .startTimer (s := State.updVh _ _ _) hsettled hx

theorem joinTo {j k : Nat} (h : s0.TimingKeeps x s) (hauth : x ≠ .auth j) (hjoin : ∀ i, x ≠ .join i) :
    s0.TimingKeeps x (s.joinTo j k) := by
  unfold State.joinTo
  extract_lets lead n s1 s2 s3 c s4 s5 full s6
  have h1 : s0.TimingKeeps x s1 := .iff h id
  have h3 : s0.TimingKeeps x s3 := .tokSettle (.stopTimer h1 hauth)
  exact .event (.iff (s := s5) h3 fun h => .stopTimer h (hjoin _))

theorem enterAuth {j : Nat} (h : s0.TimingKeeps x s) (hauth : x ≠ .auth j) (hport : ∀ p, x ≠ .cardHold p ∧ x ≠ .posted p) :
    s0.TimingKeeps x (s.enterAuth j) := by
  unfold State.enterAuth
  extract_lets s1 v
  have h1 : s0.TimingKeeps x s1 := .setSState h
  refine .ite h1 (.ite ?_ h1)
  split
  · next p u _ =>
    extract_lets s2 s3
    have h3 : s0.TimingKeeps x s3 :=
      .same_timers (.startTimer (.stopTimer (s := s2) h1 (hport p).1) (hport p).2) ((State.portShow_only (.refl _ 2) rfl _ _).same .timers rfl)
    exact .event (.postAuth h3 hauth)
  · exact .postAuth h1 hauth

end State.TimingKeeps

theorem State.timing_quiet {s : State} {j : Nat} {x : Timer}
    (hx : x ∈ [.slac j, .setup j, .seq j, .auth j, .cert j, .cc j, .pc j, .loop j, .stop j, .lockConfirm j, .paramMode j, .weldWait j,
      .retryPause j]) : (s.quiet j).timing x = false := by
  rw [State.timing, List.any_eq_false]
  intro p hp hpx
  have hkept := (List.mem_filter.mp hp).2
  rw [beq_iff_eq.mp hpx] at hkept
  simp [hx] at hkept

end Sys2Proof.Machine
end

section
/-!
The session state (spec/06 R145, R147, R149), its end and its stop, responses and requests (R142, R143): what each sets, and what it
leaves alone.
-/

namespace Sys2Proof.Machine

open Sys2Proof

/-! ### Fields of a dialogue -/

theorem sstate_ofTalk (j : Nat) : (VD_STAT_SSTATE j).ofTalk = true := Fld.ofTalk_row (by decide) j
theorem reason_ofTalk (j : Nat) : (VD_STAT_REASON j).ofTalk = true := Fld.ofTalk_row (by decide) j
theorem sess_ofTalk (j : Nat) : (VD_SESS_SESSION j).ofTalk = true := Fld.ofTalk_row (by decide) j

/-- The fields that show the session state and the reason of its end. -/
abbrev stateFlds (j : Nat) : List Fld := [VD_STAT_SSTATE j, VD_STAT_REASON j]

/-- The fields that show the limits last announced. -/
abbrev limitFlds (j : Nat) : List Fld := [VD_EVSE_ILIM j, VD_EVSE_IDLIM j]

theorem sess_beside_state (j : Nat) : (stateFlds j).all (VD_SESS_SESSION j).beside = true := by simp [Fld.beside]
theorem sstate_beside_limits (j : Nat) : (limitFlds j).all (VD_STAT_SSTATE j).beside = true := by simp [Fld.beside]

theorem Fld.sparedBy_of_all {f : Fld} {l : List Fld} (h : l.all f.beside = true) {g : Fld} (hg : g ∈ l) : f.sparedBy g = true :=
  Fld.sparedBy_of_beside (List.all_eq_true.mp h g hg)

/-! ### The session state -/

/-- The registers after a change of the session state. -/
def State.stateShown (s : State) (j new why : Nat) : State :=
  (s.setFld (VD_STAT_SSTATE j) new).iff (why != 0) (·.setFld (VD_STAT_REASON j) why)

theorem State.setSState_of_ne {s : State} {j new : Nat} (h : s.sstate j ≠ new) (why : Nat) :
    s.setSState j new why = (s.stateShown j new why).event 0x0501
      [j, (s.stateShown j new why).sess j, s.sstate j, new, if new = 11 then why else 0] := if_neg h

theorem State.setSState_of_eq {s : State} {j new : Nat} (h : s.sstate j = new) (why : Nat) : s.setSState j new why = s := if_pos h

namespace State.Leaves

variable {f : Fld} {s0 s : State} {j : Nat}

theorem stateShown {new why : Nat} (h : s0.Leaves f s) (hf : (stateFlds j).all f.beside = true) :
    s0.Leaves f (s.stateShown j new why) :=
  .iff (.setFld h (Fld.sparedBy_of_all hf (by simp))) fun h => .setFld h (Fld.sparedBy_of_all hf (by simp))

theorem setSState {new why : Nat} (hf : f.ofTalk = true) (h : s0.Leaves f s) (hst : (stateFlds j).all f.beside = true) :
    s0.Leaves f (s.setSState j new why) :=
  .ite h (told hf (.stateShown h hst))

end State.Leaves

section SessionState

variable {s : State} (hwf : s.wf = true) (j : Nat)

include hwf

theorem State.setSState_sstate {new : Nat} (hnew : new < 16) (why : Nat) : (s.setSState j new why).sstate j = new := by
  by_cases h : s.sstate j = new
  · rw [State.setSState_of_eq h, h]
  · have hset := State.setFld_wf hwf (VD_STAT_SSTATE j) new
    have hleft : State.Leaves (s.setFld (VD_STAT_SSTATE j) new) (VD_STAT_SSTATE j) (s.setSState j new why) := by
      rw [State.setSState_of_ne h]
      exact .told (sstate_ofTalk j) (.iff (.refl _) fun h => .setFld h (Fld.sparedBy_of_beside (by simp [Fld.beside])))
    rw [State.sstate, hleft.fld_of hset]
    exact (State.canon_of_wf hwf).fld_setFld_of_lt (by simp) (by simp) hnew

theorem State.setSState_reason {new why : Nat} (hne : s.sstate j ≠ new) (h0 : why ≠ 0) (h32 : why < 32) :
    (s.setSState j new why).fld (VD_STAT_REASON j) = why := by
  have hset := State.setFld_wf hwf (VD_STAT_SSTATE j) new
  rw [State.setSState_of_ne hne, State.stateShown, State.iff, if_pos (by simpa using h0),
    State.event_fld (State.setFld_wf hset _ _) _ _ _ (Fld.ofTalk.not_cupStat (reason_ofTalk j))]
  exact (State.canon_of_wf hset).fld_setFld_of_lt (by simp) (by simp) h32

theorem State.setSState_raised {new : Nat} (hne : s.sstate j ≠ new) (why : Nat) :
    s.Raised (s.setSState j new why) 0x0501 [j, s.sess j, s.sstate j, new, if new = 11 then why else 0] := by
  have hshown : s.Leaves (VD_SESS_SESSION j) (s.stateShown j new why) := .stateShown (.refl s) (sess_beside_state j)
  rw [State.setSState_of_ne hne, show (s.stateShown j new why).sess j = s.sess j from hshown.fld_of hwf]
  exact (State.event_raised _ _ _).after hshown.keeps

end SessionState

/-! ### The end and the stop of a session -/

/-- What the end of a session does before its state changes. -/
def State.closing (s : State) (j why : Nat) : State :=
  (((((s.endPause j).quiet j).stopTimer (.resume j)).leaveJoin j).dropReqs j).updVh j fun v =>
    { v with lost := false, authReq := none, certReq := none, evseStop := 0, stopTold := false, endReason := why
             pairAsked := false, row := VehRow.rest }

theorem State.endNow_eq (s : State) (j why : Nat) : s.endNow j why = (s.closing j why).setSState j 11 why := rfl

/-- What a stop does before the session state changes. -/
def State.stopping (s : State) (j why : Nat) : State :=
  (((s.stopTimer (.stop j)).stopTimer (.loop j)).updVh j fun v =>
    { v with endReason := why, evseStop := 0, stopTold := false }).leaveJoin j

theorem State.stopNow_eq (s : State) (j why : Nat) : s.stopNow j why = (s.stopping j why).setSState j 9 0 := rfl

namespace State.Leaves

variable {f : Fld} {s0 s : State} {j : Nat} (hf : f.ofTalk = true)

include hf

theorem closing {why : Nat} (h : s0.Leaves f s) : s0.Leaves f (s.closing j why) :=
  .updVh (dropReqs hf (leaveJoin hf (.stopTimer (.quiet (.endPause h)))))

theorem stopping {why : Nat} (h : s0.Leaves f s) : s0.Leaves f (s.stopping j why) :=
  leaveJoin hf (.updVh (.stopTimer (.stopTimer h)))

theorem endNow {why : Nat} (h : s0.Leaves f s) (hst : (stateFlds j).all f.beside = true) : s0.Leaves f (s.endNow j why) := by
  rw [State.endNow_eq]
  exact setSState hf (closing hf h) hst

theorem stopNow {why : Nat} (h : s0.Leaves f s) (hst : (stateFlds j).all f.beside = true) : s0.Leaves f (s.stopNow j why) := by
  rw [State.stopNow_eq]
  exact setSState hf (stopping hf h) hst

end State.Leaves

section Ends

variable {s : State} (hwf : s.wf = true) (j : Fin 8) (why : Nat)

theorem State.closing_keeps : s.Keeps (s.closing j why) := (State.Leaves.closing (sstate_ofTalk j) (.refl s)).keeps

theorem State.stopping_keeps : s.Keeps (s.stopping j why) := (State.Leaves.stopping (sstate_ofTalk j) (.refl s)).keeps

include hwf

theorem State.endNow_sstate : (s.endNow j why).sstate j = 11 := State.setSState_sstate ((State.closing_keeps j why).wf hwf) j (by decide) why

variable {why} in
theorem State.endNow_reason (hopen : s.sstate j ≠ 11) (h0 : why ≠ 0) (h32 : why < 32) :
    (s.endNow j why).fld (VD_STAT_REASON j) = why := by
  have hleft : s.Leaves (VD_STAT_SSTATE j) (s.closing j why) := .closing (sstate_ofTalk j) (.refl s)
  exact State.setSState_reason (hleft.keeps.wf hwf) j ((hleft.fld_of hwf).trans_ne hopen) h0 h32

theorem State.endNow_core : ((s.endNow j why).vh j).core =
    { (s.vh j).core with
      lost := false, certReq := none, evseStop := 0, stopTold := false, endReason := why, pairAsked := false, row := VehRow.rest } := by
  let quieted := ((((s.endPause j).quiet j).stopTimer (.resume j)).leaveJoin j).dropReqs j
  have hquiet : s.Leaves (VD_STAT_SSTATE j) quieted :=
    .dropReqs (sstate_ofTalk j) (.leaveJoin (sstate_ofTalk j) (.stopTimer (.quiet (.endPause (.refl s)))))
  have hkept : s.CoreKeeps j quieted := .dropReqs (.leaveJoin (.endPause (.refl s)))
  have hend : State.CoreKeeps (s.closing j why) j (s.endNow j why) := .setSState (.refl _)
  rw [hend, ← hkept, State.closing, State.vh_updVh (hquiet.keeps.wf hwf)]
  rfl

theorem State.stopNow_sstate : (s.stopNow j why).sstate j = 9 := State.setSState_sstate ((State.stopping_keeps j why).wf hwf) j (by decide) 0

theorem State.stopNow_core : ((s.stopNow j why).vh j).core =
    { (s.vh j).core with endReason := why, evseStop := 0, stopTold := false } := by
  have hstop : State.CoreKeeps (((s.stopTimer (.stop j)).stopTimer (.loop j)).updVh j fun v =>
    { v with endReason := why, evseStop := 0, stopTold := false }) j (s.stopNow j why) := .setSState (.leaveJoin (.refl _))
  have htimed := State.stopTimer_keeps (State.stopTimer_keeps (.refl s) (.stop j)) (.loop j)
  rw [hstop, State.vh_updVh (htimed.wf hwf)]
  rfl

end Ends

theorem State.timing_endNow_auth (s : State) (j : Fin 8) (why : Nat) : (s.endNow j why).timing (.auth j) = false := by
  let quieted := ((s.endPause j).quiet j).stopTimer (.resume j)
  have hleft : State.TimingKeeps quieted (.auth j) (s.endNow j why) :=
    .setSState (.same_timers (.refl quieted) ((State.dropReqs_only (State.leaveJoin_only (.refl quieted 0x7FFFFF7) rfl _) rfl _).same .timers rfl))
  exact hleft.trans ((State.timing_stopTimer_of_ne _ (by simp)).trans (State.timing_quiet (by simp)))

/-! ### Responses -/

theorem State.Leaves.reply {f : Fld} {s0 s : State} {j code : Nat} {loop : Bool} (hf : f.ofTalk = true) (h : s0.Leaves f s)
    (hl : (limitFlds j).all f.beside = true) : s0.Leaves f (s.reply j code loop) := by
  unfold State.reply
  extract_lets v st lim t3 m tell s1 s2 s3
  have h2 : s0.Leaves f s2 := .setSat (.setSat (.updVh h) (Fld.sparedBy_of_all hl (by simp))) (Fld.sparedBy_of_all hl (by simp))
  have h3 : s0.Leaves f s3 := .iff h2 fun h => .iff (.told hf h) .startTimer
  exact .ite (.startTimer h3) (.ite (.startTimer h3) h3)

theorem State.TimingKeeps.reply {x : Timer} {s0 s : State} {j code : Nat} {loop : Bool} (h : s0.TimingKeeps x s)
    (hx : x ≠ .stop j ∧ (loop = true → x ≠ .loop j) ∧ x ≠ .seq j) : s0.TimingKeeps x (s.reply j code loop) := by
  unfold State.reply
  extract_lets v st lim t3 m tell s1 s2 s3
  obtain ⟨hstop, hloop, hseq⟩ := hx
  have h3 : s0.TimingKeeps x s3 := .iff (s := s2) h fun h => .iff (.event h) fun h => .startTimer h hstop
  split_ifs with hlast hopen
  · exact .startTimer h3 (hloop hlast.1)
  · exact .startTimer h3 hseq
  · exact h3

section Reply

variable {s : State} (hwf : s.wf = true) (j : Fin 8) (code : Nat) (loop : Bool)

include hwf

/-- A response changes of the dialogue what it says and whether it told a stop. -/
theorem State.reply_vh : ∃ stop told m,
    (s.reply j code loop).vh j = { s.vh j with resp := code, respStop := stop, stopTold := told, msg := m } := by
  unfold State.reply
  extract_lets v st lim t3 m tell s1 s2 s3
  have h3 : s2.OnlyM 1038 s3 :=
    State.iff_only (.refl s2 _) _ _ fun _ h => State.iff_only (State.event_only h rfl _ _) _ _ fun _ h => State.startTimer_only h rfl _
  have hveh : (if loop = true ∧ st = 7 then s3.startTimer (.loop j) else if 2 ≤ st ∧ st ≤ 10 then s3.startTimer (.seq j) else s3).veh =
      s1.veh := by
    refine Eq.trans ?_ (h3.same .veh rfl)
    split_ifs <;> rfl
  exact ⟨_, _, _, (State.vh_congr hveh j).trans (State.vh_updVh hwf j _)⟩

theorem State.reply_resp : ((s.reply j code loop).vh j).resp = code := by
  obtain ⟨stop, told, m, hvh⟩ := State.reply_vh hwf j code loop
  exact congrArg Veh.resp hvh

theorem State.reply_sstate : (s.reply j code loop).sstate j = s.sstate j :=
  (State.Leaves.reply (sstate_ofTalk j) (.refl s) (sstate_beside_limits j)).fld_of hwf

end Reply

/-- A session state entered and then announced by a response. -/
theorem State.setSState_respond {s : State} (hwf : s.wf = true) (j : Fin 8) {new : Nat} (hne : s.sstate j ≠ new) (hnew : new < 11)
    (code : Nat) : ((s.setSState j new 0).respond j code).sstate j = new ∧ (((s.setSState j new 0).respond j code).vh j).resp = code ∧
      s.Raised ((s.setSState j new 0).respond j code) 0x0501 [j.val, s.sess j, s.sstate j, new, 0] := by
  have hwf' := (State.setSState_keeps (.refl s) j new 0).wf hwf
  have hraised := State.setSState_raised hwf j hne 0
  rw [if_neg (Nat.ne_of_lt hnew)] at hraised
  exact ⟨(State.reply_sstate hwf' j code false).trans (State.setSState_sstate hwf j (by omega) 0), State.reply_resp hwf' j code false,
    hraised.then (State.respond_keeps (.refl _) _ _)⟩

section ReplyTimers

variable (s : State) (j : Fin 8) (code : Nat)

theorem State.reply_vehc (loop : Bool) : (s.reply j code loop).vehc = s.vehc := (State.reply_only (.refl s 5134) rfl _ _ _).same .vehc rfl

/-- A response outside the charge loop waits for the next request under SEQ_TMO. -/
theorem State.timing_respond_seq (h : 2 ≤ s.sstate j ∧ s.sstate j ≤ 10) : (s.respond j code).timing (.seq j) = true := by
  unfold State.respond State.reply
  extract_lets v st lim t3 m tell s1 s2 s3
  rw [if_neg (by simp), if_pos h]
  exact State.timing_startTimer _ _

/-- A response of the charge loop starts LOOP_TMO last. -/
theorem State.reply_loop (h : s.sstate j = 7) : ∃ u : State, s.reply j code true = u.startTimer (.loop j) ∧
    (s.timing (.seq j) = false → u.timing (.seq j) = false) := by
  unfold State.reply
  extract_lets v st lim t3 m tell s1 s2 s3
  have h3 : s.TimingKeeps (.seq j) s3 := .iff (.refl s) fun h => .iff (.event h) fun h => .startTimer h (by simp)
  exact ⟨s3, if_pos ⟨rfl, h⟩, fun hseq => h3.trans hseq⟩

end ReplyTimers

/-! ### Requests -/

theorem State.takesReq_iff {s : State} {j st : Nat} :
    s.takesReq j st = true ↔ s.wf = true ∧ s.clocked = true ∧ s.dialog j = true ∧ s.sstate j = st := by
  simp only [State.takesReq, Bool.and_eq_true, beq_iff_eq, and_assoc]

/-- A request of a dialogue, answered as `f` says where it may come, else as a sequence error. -/
theorem State.request_ok {s : State} {j : Nat} {ok : Bool} (hclk : s.clocked = true) (hdlg : s.dialog j = true) (hok : ok = true)
    (f : State → State) : s.live (s.request j ok f) = .next (f (s.stopTimer (.seq j))) := by
  rw [State.live_next hclk, State.request, if_pos hdlg, if_pos hok]

theorem State.request_not_ok {s : State} {j : Nat} {ok : Bool} (hclk : s.clocked = true) (hdlg : s.dialog j = true) (hok : ok = false)
    (f : State → State) : s.live (s.request j ok f) = .next ((s.stopTimer (.seq j)).seqError j) := by
  rw [State.live_next hclk, State.request, if_pos hdlg, if_neg (by simp [hok])]

section SequenceError

variable {s : State} (hwf : s.wf = true) (j : Fin 8)

include hwf

/-- A sequence error ends the session at once where no current flows. -/
theorem State.seqError_ends (hst : 2 ≤ s.sstate j ∧ s.sstate j ≤ 6 ∨ 9 ≤ s.sstate j ∧ s.sstate j ≤ 10) :
    (s.seqError j).sstate j = 11 ∧ (s.seqError j).fld (VD_STAT_REASON j) = 8 ∧ ((s.seqError j).vh j).resp = 4 := by
  have hsame : (s.respond j 4).sstate j = s.sstate j := State.reply_sstate hwf j 4 false
  have hends : s.seqError j = (s.respond j 4).endNow j 8 := by
    rw [State.seqError, State.finish, hsame]
    generalize s.sstate j = st at hst
    obtain ⟨h2, h6⟩ | ⟨h9, h10⟩ := hst
    · interval_cases st <;> rfl
    · interval_cases st <;> rfl
  have hrwf := (State.respond_keeps (.refl s) j 4).wf hwf
  obtain ⟨stop, told, m, hvh⟩ := State.reply_vh hwf j 4 false
  rw [hends]
  refine ⟨State.endNow_sstate hrwf j 8, State.endNow_reason hrwf j (by rw [hsame]; omega) (by decide) (by decide), ?_⟩
  exact (congrArg Veh.resp (State.endNow_core hrwf j 8)).trans (congrArg Veh.resp hvh)

/-- In transfer it goes through STOPPING. -/
theorem State.seqError_stops (hst : s.sstate j = 7) :
    (s.seqError j).sstate j = 9 ∧ ((s.seqError j).vh j).endReason = 8 ∧ ((s.seqError j).vh j).resp = 4 := by
  have hsame : (s.respond j 4).sstate j = 7 := (State.reply_sstate hwf j 4 false).trans hst
  have hstops : s.seqError j = (s.respond j 4).stopNow j 8 := by
    rw [State.seqError, State.finish, hsame]
    rfl
  have hrwf := (State.respond_keeps (.refl s) j 4).wf hwf
  obtain ⟨stop, told, m, hvh⟩ := State.reply_vh hwf j 4 false
  have hcore := State.stopNow_core hrwf j 8
  rw [hstops]
  exact ⟨State.stopNow_sstate hrwf j 8, congrArg Veh.endReason hcore, (congrArg Veh.resp hcore).trans (congrArg Veh.resp hvh)⟩

end SequenceError

end Sys2Proof.Machine
end

section
/-!
Authorisation (spec/06 R143, R144, R151): identifiers and certificate requests posted to the host, its answers, and their timeouts.
-/

namespace Sys2Proof.Machine

open Sys2Proof

/-! ### Requests to the host -/

/-- The request that an identifier posts. -/
def State.authRequest (s : State) (j idType : Nat) (ident payload : List Byte) : HostReq where
  rid := s.vehc.nextReq
  kind := 1
  out := j
  idType := idType
  ident := ident
  session := s.sess j
  tai := s.now
  deadlineMs := s.fld VD_TMO0_AUTH_TMO * 10
  payload := payload
  sent := false

/-- The state in which it is posted: a token that waited is settled, unless it is the identifier. -/
def State.settled (s : State) (j idType : Nat) : State := s.iff (idType != 4) (·.tokSettle j false)

theorem State.settled_only (s : State) (j idType : Nat) : s.OnlyM 36866 (s.settled j idType) :=
  State.iff_only (.refl s _) _ _ fun _ h => State.tokSettle_only h rfl _ _

theorem State.Leaves.settled {f : Fld} {s0 s : State} {j idType : Nat} (hf : f.ofTalk = true) (h : s0.Leaves f s) :
    s0.Leaves f (s.settled j idType) := .iff h (.tokSettle hf)

theorem State.settled_vehc (s : State) (j idType : Nat) : (s.settled j idType).vehc = s.vehc := (s.settled_only j idType).same .vehc rfl

theorem State.postAuth_posted (s : State) (j idType : Nat) (ident payload : List Byte) :
    (s.postAuth j idType ident payload).vehc.posted = s.vehc.posted ++ [(s.settled j idType).authRequest j idType ident payload] := by
  rw [← s.settled_vehc j idType]
  rfl

theorem State.timing_postAuth (s : State) (j idType : Nat) (ident payload : List Byte) :
    (s.postAuth j idType ident payload).timing (.auth j) = true := State.timing_startTimer _ _

theorem State.postAuth_authReq {s : State} (hwf : s.wf = true) (j : Fin 8) (idType : Nat) (ident payload : List Byte) :
    ((s.postAuth j idType ident payload).vh j).authReq = some s.vehc.nextReq := by
  have hsettled : s.Keeps (s.settled j idType) := (State.Leaves.settled (sess_ofTalk j) (.refl s)).keeps
  have hwf' : State.wf { s.settled j idType with vehc := { (s.settled j idType).vehc with
      nextReq := (s.settled j idType).vehc.nextReq + 1
      posted := (s.settled j idType).vehc.posted ++ [(s.settled j idType).authRequest j idType ident payload] } } = true := hsettled.wf hwf
  refine (congrArg Veh.authReq (State.vh_updVh hwf' j _)).trans ?_
  rw [← s.settled_vehc j idType]
  rfl

/-- The request that asks for a certificate. -/
def State.certRequest (s : State) (j : Nat) (payload : List Byte) : HostReq where
  rid := s.vehc.nextReq
  kind := 2
  out := j
  idType := 0
  ident := []
  session := s.sess j
  tai := s.now
  deadlineMs := s.fld VD_TMO0_CERT_TMO * 100
  payload := payload
  sent := false

theorem State.postCert_posted (s : State) (j : Nat) (payload : List Byte) :
    (s.postCert j payload).vehc.posted = s.vehc.posted ++ [s.certRequest j payload] := rfl

theorem State.timing_postCert (s : State) (j : Nat) (payload : List Byte) : (s.postCert j payload).timing (.cert j) = true :=
  State.timing_startTimer _ _

theorem State.postCert_certReq {s : State} (hwf : s.wf = true) (j : Fin 8) (payload : List Byte) :
    ((s.postCert j payload).vh j).certReq = some s.vehc.nextReq := by
  have hwf' : State.wf { s with vehc := { s.vehc with
      nextReq := s.vehc.nextReq + 1, posted := s.vehc.posted ++ [s.certRequest j payload] } } = true := hwf
  exact congrArg Veh.certReq (State.vh_updVh hwf' j _)

/-! ### The commands -/

section Requests

variable {s : State} {j : Fin 8} (h : s.takesReq j 3 = true)

include h

theorem execPaymentDetailsReq_of_contract (hproto : s.proto j = 2) (hpay : (s.vh j).payment = 2) (hlead : (s.vh j).lead = none)
    (emaid chain : List Byte) :
    exec (.paymentDetailsReq j emaid chain) s = .next (((((s.stopTimer (.seq j)).updVh j fun v =>
      { v with chain := chain, payDone := true }).postAuth j 2 emaid chain).respond j 1)) := by
  obtain ⟨hwf, hclk, hdlg, hst⟩ := State.takesReq_iff.mp h
  have hsame : (((s.stopTimer (.seq j)).updVh j fun v => { v with chain := chain, payDone := true }).vh j).lead = none :=
    (congrArg Veh.lead (State.vh_updVh (s := s.stopTimer (.seq j)) hwf j _)).trans hlead
  refine (State.request_ok hclk hdlg (by simp [hst, hproto, hpay]) _).trans (congrArg _ ?_)
  simp only [hsame, Option.isSome_none, Bool.false_and, Bool.not_false, State.iff, if_true]

theorem execCertificateInstallationReq_of_new (hproto : 2 ≤ s.proto j) (hpay : (s.vh j).payment = 2) (hans : (s.vh j).certAns = 0)
    (hreq : (s.vh j).certReq = none) (payload : List Byte) :
    exec (.certificateInstallationReq j payload) s = .next (((s.stopTimer (.seq j)).postCert j payload).respond j 2) := by
  obtain ⟨-, hclk, hdlg, hst⟩ := State.takesReq_iff.mp h
  refine (State.request_ok hclk hdlg (by simp [hst, hproto, hpay]) _).trans (congrArg _ ?_)
  exact (if_neg (not_not_intro hans)).trans (if_neg (by simp [hreq]))

theorem execCertificateInstallationReq_of_answered (hproto : 2 ≤ s.proto j) (hpay : (s.vh j).payment = 2) (hans : (s.vh j).certAns ≠ 0)
    (payload : List Byte) :
    exec (.certificateInstallationReq j payload) s = .next ((((s.stopTimer (.seq j)).updVh j fun v =>
      { v with certAns := 0, certPay := [] }).respond j (if (s.vh j).certAns = 1 then 1 else 3)).updVh j fun x =>
        { x with msg := { x.msg with payload := (s.vh j).certPay } }) := by
  obtain ⟨-, hclk, hdlg, hst⟩ := State.takesReq_iff.mp h
  exact (State.request_ok hclk hdlg (by simp [hst, hproto, hpay]) _).trans (congrArg _ (if_pos hans))

variable (hask : s.proto j ≠ 2 ∨ (s.vh j).payment ≠ 2 ∨ (s.vh j).payDone = true) (hroom : s.flag LEG_STATUS_FULL = false)

include hask hroom

theorem execAuthorizationReq_of_authorised (hok : (s.vh j).authOk = true) (ident chain : List Byte) :
    exec (.authorizationReq j ident chain) s = .next (((s.stopTimer (.seq j)).setSState j 4 0).respond j 1) := by
  obtain ⟨-, hclk, hdlg, hst⟩ := State.takesReq_iff.mp h
  have hasks : s.authAsk j = true := by
    rcases hask with hask | hask | hask <;> simp [State.authAsk, hst, hask]
  refine (State.request_ok hclk hdlg hasks _).trans (congrArg _ ?_)
  refine (if_neg (by rw [State.stopTimer_flag, hroom]; simp)).trans ((if_pos hok).trans ?_)
  exact congrArg (State.respond · j 1) (if_pos (beq_iff_eq.mpr hst))

theorem execAuthorizationReq_of_outstanding (hok : (s.vh j).authOk = false) (hlead : (s.vh j).lead = none)
    (hreq : (s.vh j).authReq.isSome = true) (ident chain : List Byte) :
    exec (.authorizationReq j ident chain) s = .next ((s.stopTimer (.seq j)).respond j 2) := by
  obtain ⟨-, hclk, hdlg, hst⟩ := State.takesReq_iff.mp h
  have hasks : s.authAsk j = true := by
    rcases hask with hask | hask | hask <;> simp [State.authAsk, hst, hask]
  refine (State.request_ok hclk hdlg hasks _).trans (congrArg _ ?_)
  simp only [State.stopTimer_flag, hroom, Bool.false_and, State.stopTimer_vh, hok, hlead, hreq, if_true, if_false, Bool.false_eq_true]

end Requests

/-! ### Timeouts -/

theorem tmo_ofTalk (j : Nat) : (VD_ERR_TMO j).ofTalk = true := Fld.ofTalk_row (by decide) j

theorem State.Leaves.expired {f : Fld} {s0 s : State} {j : Nat} (h : s0.Leaves f s) (hf : f.beside (VD_ERR_TMO j) = true) :
    s0.Leaves f (s.expired j) := .setSat h (Fld.sparedBy_of_beside hf)

theorem State.expired_fld {s : State} (hwf : s.wf = true) (j : Nat) :
    (s.expired j).fld (VD_ERR_TMO j) = min 255 (s.fld (VD_ERR_TMO j) + 1) :=
  (State.fld_setSat hwf (by simp) (by simp) _).trans (Nat.min_comm _ _)

/-- AUTH_TMO has passed: it is counted, a token that waited is settled. -/
def State.authExpired (s : State) (j : Nat) : State := ((s.stopTimer (.auth j)).expired j).tokSettle j false

/-- Then it is told, and the request is awaited no longer. -/
def State.authRefused (s : State) (j : Nat) : State :=
  ((s.authExpired j).event 0x0509 [j, s.sess j]).updVh j fun v => { v with authReq := none }

/-- CERT_TMO has passed: it is counted. -/
def State.certExpired (s : State) (j : Nat) : State := (s.stopTimer (.cert j)).expired j

/-- Then it is told. -/
def State.certTold (s : State) (j : Nat) : State := (s.certExpired j).event 0x050B [j, s.sess j]

theorem State.Leaves.authExpired {f : Fld} {s : State} {j : Nat} (hf : f.ofTalk = true) (htmo : f.beside (VD_ERR_TMO j) = true) :
    s.Leaves f (s.authExpired j) := .tokSettle hf (.expired (.stopTimer (.refl s)) htmo)

theorem State.Leaves.certExpired {f : Fld} {s : State} {j : Nat} (htmo : f.beside (VD_ERR_TMO j) = true) :
    s.Leaves f (s.certExpired j) := .expired (.stopTimer (.refl s)) htmo

section Timeouts

variable {s : State} {j : Fin 8} (hclk : s.clocked = true)

include hclk

theorem execAuthTmo_of_due (hdue : s.due (.auth j) (s.fld VD_TMO0_AUTH_TMO * 10 * ms) = true) :
    exec (.authTmo j) s = .next ((s.authRefused j).endNow j 4) := (State.live_next hclk _).trans (congrArg _ (if_pos hdue))

theorem execCertTmo_of_due (hdue : s.due (.cert j) (s.fld VD_TMO0_CERT_TMO * 100 * ms) = true) :
    exec (.certTmo j) s = .next ((s.certTold j).updVh j fun v => { v with certReq := none, certAns := 2 }) :=
  (State.live_next hclk _).trans (congrArg _ (if_pos hdue))

end Timeouts

theorem State.authExpired_keeps (s : State) (j : Nat) : s.Keeps (s.authExpired j) :=
  (State.Leaves.authExpired (sstate_ofTalk j) (by simp [Fld.beside])).keeps

theorem State.authRefused_raised (s : State) (j : Nat) : s.Raised (s.authRefused j) 0x0509 [j, s.sess j] :=
  ((State.event_raised _ _ _).after (s.authExpired_keeps j)).then (State.updVh_keeps (.refl _) _ _)

theorem State.Leaves.authRefused {f : Fld} {s0 s : State} {j : Nat} (hf : f.ofTalk = true) (h : s0.Leaves f (s.authExpired j)) :
    s0.Leaves f (s.authRefused j) := .updVh (.told hf h)

theorem State.certTold_raised (s : State) (j : Nat) : s.Raised (s.certTold j) 0x050B [j, s.sess j] :=
  (State.event_raised _ _ _).after (State.Leaves.certExpired (f := VD_STAT_SSTATE j) (by simp [Fld.beside])).keeps

/-! ### The clauses -/

section RequestClauses

variable {s : State} {j : Fin 8} (h : s.takesReq j 3 = true)

include h

/-- The contract's identifier and chain are posted for the host, under AUTH_TMO. -/
theorem paymentDetailsReq_posts (emaid chain : List Byte) (hproto : s.proto j = 2) (hpay : (s.vh j).payment = 2)
    (hlead : (s.vh j).lead = none) : ∃ (t : State) (r : HostReq), exec (.paymentDetailsReq j emaid chain) s = .next t ∧
      t.vehc.posted = s.vehc.posted ++ [r] ∧
      r.kind = 1 ∧ r.idType = 2 ∧ r.ident = emaid ∧ r.payload = chain ∧ r.out = j.val ∧ r.session = s.sess j ∧
      (t.vh j).authReq = some r.rid ∧ t.timing (.auth j) = true ∧ (t.vh j).resp = 1 := by
  obtain ⟨hwf, -, -, -⟩ := State.takesReq_iff.mp h
  let u := (s.stopTimer (.seq j)).updVh j fun v => { v with chain := chain, payDone := true }
  have hu : s.Keeps u := State.updVh_keeps (State.stopTimer_keeps (.refl s) _) _ _
  have hsettled : u.Leaves (VD_SESS_SESSION j) (u.settled j 2) := .settled (sess_ofTalk j) (.refl u)
  have hposted := (State.postAuth_keeps (.refl u) j 2 emaid chain).wf (hu.wf hwf)
  obtain ⟨stop, told, m, hvh⟩ := State.reply_vh hposted j 1 false
  have hreq : ((u.postAuth j 2 emaid chain).vh j).authReq = some ((u.settled j 2).authRequest j 2 emaid chain).rid :=
    (State.postAuth_authReq (hu.wf hwf) j _ _ _).trans (congrArg (fun c => some (VehCommon.nextReq c)) (u.settled_vehc j 2).symm)
  exact ⟨_, _, execPaymentDetailsReq_of_contract h hproto hpay hlead emaid chain,
    (congrArg VehCommon.posted (State.reply_vehc _ j 1 false)).trans (State.postAuth_posted u j 2 emaid chain), rfl, rfl, rfl, rfl, rfl,
    hsettled.fld_of (hu.wf hwf), (congrArg Veh.authReq hvh).trans hreq,
    (State.TimingKeeps.reply (.refl _) (by simp)).trans (u.timing_postAuth j 2 emaid chain), congrArg Veh.resp hvh⟩

/-- The first request for a certificate is posted, under CERT_TMO, and answered Ongoing. -/
theorem certificateInstallationReq_posts (payload : List Byte) (hproto : 2 ≤ s.proto j) (hpay : (s.vh j).payment = 2)
    (hans : (s.vh j).certAns = 0) (hreq : (s.vh j).certReq = none) : ∃ (t : State) (r : HostReq),
      exec (.certificateInstallationReq j payload) s = .next t ∧
      t.vehc.posted = s.vehc.posted ++ [r] ∧ r.kind = 2 ∧ r.payload = payload ∧ r.out = j.val ∧ (t.vh j).certReq = some r.rid ∧
      t.timing (.cert j) = true ∧ (t.vh j).resp = 2 := by
  obtain ⟨hwf, -, -, -⟩ := State.takesReq_iff.mp h
  have hu := (State.stopTimer_keeps (.refl s) (.seq j)).wf hwf
  obtain ⟨stop, told, m, hvh⟩ := State.reply_vh ((State.postCert_keeps (.refl (s.stopTimer (.seq j))) j payload).wf hu) j 2 false
  exact ⟨_, _, execCertificateInstallationReq_of_new h hproto hpay hans hreq payload,
    (congrArg VehCommon.posted (State.reply_vehc _ j 2 false)).trans (State.postCert_posted _ _ _), rfl, rfl, rfl,
    (congrArg Veh.certReq hvh).trans (State.postCert_certReq hu j payload),
    (State.TimingKeeps.reply (.refl _) (by simp)).trans (State.timing_postCert _ _ _), congrArg Veh.resp hvh⟩

/-- With the host's answer at hand, it is passed on. -/
theorem certificateInstallationReq_answered (payload : List Byte) (hproto : 2 ≤ s.proto j) (hpay : (s.vh j).payment = 2)
    (hans : (s.vh j).certAns ≠ 0) : ∃ t, exec (.certificateInstallationReq j payload) s = .next t ∧ (t.vh j).certAns = 0 ∧
      (t.vh j).msg.payload = (s.vh j).certPay ∧ (t.vh j).resp = (if (s.vh j).certAns = 1 then 1 else 3) := by
  obtain ⟨hwf, -, -, -⟩ := State.takesReq_iff.mp h
  have hu := (State.stopTimer_keeps (.refl s) (.seq j)).wf hwf
  have htaken := (State.updVh_keeps (.refl (s.stopTimer (.seq j))) j fun v => { v with certAns := 0, certPay := [] }).wf hu
  have hnone := State.vh_updVh hu j fun v => { v with certAns := 0, certPay := [] }
  obtain ⟨stop, told, m, hvh⟩ := State.reply_vh htaken j (if (s.vh j).certAns = 1 then 1 else 3) false
  have hlast := State.vh_updVh ((State.respond_keeps (.refl _) j (if (s.vh j).certAns = 1 then 1 else 3)).wf htaken) j fun x =>
    { x with msg := { x.msg with payload := (s.vh j).certPay } }
  exact ⟨_, execCertificateInstallationReq_of_answered h hproto hpay hans payload,
    (congrArg Veh.certAns hlast).trans ((congrArg Veh.certAns hvh).trans (congrArg Veh.certAns hnone)), congrArg (·.msg.payload) hlast,
    (congrArg Veh.resp hlast).trans (congrArg Veh.resp hvh)⟩

section Authorization

variable (ident chain : List Byte) (hask : s.proto j ≠ 2 ∨ (s.vh j).payment ≠ 2 ∨ (s.vh j).payDone = true)
  (hroom : s.flag LEG_STATUS_FULL = false)

include hask hroom

/-- Once authorised, with room for records, the session enters PARAM. -/
theorem authorizationReq_grants (hok : (s.vh j).authOk = true) : ∃ t, exec (.authorizationReq j ident chain) s = .next t ∧
    t.sstate j = 4 ∧ (t.vh j).resp = 1 ∧ s.Raised t 0x0501 [j.val, s.sess j, 3, 4, 0] := by
  obtain ⟨hwf, -, -, hst⟩ := State.takesReq_iff.mp h
  have hu := State.stopTimer_keeps (.refl s) (.seq j)
  have hst' : (s.stopTimer (.seq j)).sstate j = 3 := hst
  obtain ⟨hnew, hresp, hraised⟩ := State.setSState_respond (hu.wf hwf) j (new := 4) (by rw [hst']; decide) (by decide) 1
  rw [hst'] at hraised
  exact ⟨_, execAuthorizationReq_of_authorised h hask hroom hok ident chain, hnew, hresp, hraised.after hu⟩

/-- While the host's answer is outstanding it is Ongoing. -/
theorem authorizationReq_waits (hok : (s.vh j).authOk = false) (hlead : (s.vh j).lead = none) (hreq : (s.vh j).authReq.isSome = true) :
    ∃ t, exec (.authorizationReq j ident chain) s = .next t ∧ t.sstate j = 3 ∧ (t.vh j).resp = 2 ∧ t.vehc.posted = s.vehc.posted := by
  obtain ⟨hwf, -, -, hst⟩ := State.takesReq_iff.mp h
  have hu := (State.stopTimer_keeps (.refl s) (.seq j)).wf hwf
  exact ⟨_, execAuthorizationReq_of_outstanding h hask hroom hok hlead hreq ident chain, (State.reply_sstate hu j 2 false).trans hst,
    State.reply_resp hu j 2 false, congrArg VehCommon.posted (State.reply_vehc _ j 2 false)⟩

end Authorization

end RequestClauses

section TimeoutClauses

variable {s : State} {j : Fin 8} (hwf : s.wf = true) (hclk : s.clocked = true)

include hwf hclk

theorem authTmo_ends (hopen : s.sstate j ≠ 11) (hdue : s.due (.auth j) (s.fld VD_TMO0_AUTH_TMO * 10 * ms) = true) :
    ∃ t, exec (.authTmo j) s = .next t ∧ t.sstate j = 11 ∧ t.fld (VD_STAT_REASON j) = 4 ∧ s.Raised t 0x0509 [j.val, s.sess j] ∧
      t.fld (VD_ERR_TMO j) = min 255 (s.fld (VD_ERR_TMO j) + 1) ∧ t.timing (.auth j) = false := by
  have hleft : s.Leaves (VD_STAT_SSTATE j) (s.authRefused j) :=
    .authRefused (sstate_ofTalk j) (.authExpired (sstate_ofTalk j) (by simp [Fld.beside]))
  have hrwf := hleft.keeps.wf hwf
  have hcount : State.Leaves ((s.stopTimer (.auth j)).expired j) (VD_ERR_TMO j) ((s.authRefused j).endNow j 4) :=
    .endNow (tmo_ofTalk j) (.authRefused (tmo_ofTalk j) (.tokSettle (tmo_ofTalk j) (.refl _))) (by simp [Fld.beside])
  have htimed := State.stopTimer_keeps (.refl s) (.auth j)
  exact ⟨_, execAuthTmo_of_due hclk hdue, State.endNow_sstate hrwf j 4,
    State.endNow_reason hrwf j ((hleft.fld_of hwf).trans_ne hopen) (by decide) (by decide),
    (s.authRefused_raised j).then (State.endNow_keeps (.refl _) _ _),
    (hcount.fld_of ((State.expired_keeps htimed _).wf hwf)).trans (State.expired_fld (htimed.wf hwf) j),
    State.timing_endNow_auth _ j 4⟩

theorem certTmo_tells (hdue : s.due (.cert j) (s.fld VD_TMO0_CERT_TMO * 100 * ms) = true) :
    ∃ t, exec (.certTmo j) s = .next t ∧ t.sstate j = s.sstate j ∧ (t.vh j).certAns = 2 ∧ (t.vh j).certReq = none ∧
      s.Raised t 0x050B [j.val, s.sess j] ∧ t.fld (VD_ERR_TMO j) = min 255 (s.fld (VD_ERR_TMO j) + 1) ∧ t.timing (.cert j) = false ∧
      s.RegsOnly [R_VD_ERR j] t := by
  have htimed := State.stopTimer_keeps (.refl s) (.cert j)
  have hewf : (s.certExpired j).wf = true := (State.expired_keeps htimed j).wf hwf
  have hdone := State.updVh_keeps (.refl (s.certTold j)) j fun v => { v with certReq := none, certAns := 2 }
  have hstate : s.Leaves (VD_STAT_SSTATE j) (s.certTold j) := .told (sstate_ofTalk j) (.certExpired (by simp [Fld.beside]))
  have hcount : State.Leaves (s.certExpired j) (VD_ERR_TMO j) (s.certTold j) := .told (tmo_ofTalk j) (.refl _)
  have htiming : State.TimingKeeps (s.stopTimer (.cert j)) (.cert j) (s.certTold j) := .event (.refl _)
  have hregs : s.RegsOnly [R_VD_ERR j] ((s.certTold j).updVh j fun v => { v with certReq := none, certAns := 2 }) :=
    .of_leaves hwf fun o ho hcup =>
      .updVh (.event (.setSat (.stopTimer (.refl s)) (Fld.sparedBy_of_reg_ne (mt List.mem_singleton.mpr ho) (by simp))) hcup)
  have hvh := State.vh_updVh (hstate.keeps.wf hwf) j fun v => { v with certReq := none, certAns := 2 }
  exact ⟨_, execCertTmo_of_due hclk hdue, hstate.fld_of hwf, congrArg Veh.certAns hvh, congrArg Veh.certReq hvh,
    (s.certTold_raised j).then hdone, (hcount.fld_of hewf).trans (State.expired_fld (htimed.wf hwf) j),
    htiming.trans (State.timing_stopTimer s _), hregs⟩

end TimeoutClauses

end Sys2Proof.Machine

open Sys2Proof Sys2Proof.Machine

/-- Settles O41: each request of AUTH is answered from the state after SEQ_TMO has stopped, and a response leaves what was posted. -/
theorem authorisationOfSessions : Obligations.AuthorisationOfSessions := by
  intro s j
  exact ⟨fun h => ⟨paymentDetailsReq_posts h, certificateInstallationReq_posts h, certificateInstallationReq_answered h,
      fun ident chain hask hroom hok => authorizationReq_grants h ident chain hask hroom hok,
      fun ident chain hask hroom hok hlead hreq => authorizationReq_waits h ident chain hask hroom hok hlead hreq⟩,
    fun hwf hclk hopen hdue => authTmo_ends hwf hclk hopen hdue, fun hwf hclk hdue => certTmo_tells hwf hclk hdue⟩
end

section
/-!
Charging (spec/06 R142 to R149, R155): the vehicle's values, the schedule, the cable check, the precharge, power delivery, receipts and
the session's stop.
-/

namespace Sys2Proof.Machine

open Sys2Proof

/-! ### The vehicle's values -/

/-- An exchange row with the values that a request brings. -/
def VehRow.taking (r : VehRow) (q : VehValues) : VehRow :=
  { r with iTgt := q.iTgt, iMax := q.iMax, idMax := q.idMax, vTgt := q.vTgt, vMax := q.vMax, pMax := q.pMax, pdMax := q.pdMax }

theorem vmax_ofTalk (j : Nat) : (VD_EVV_VMAX j).ofTalk = true := Fld.ofTalk_row (by decide) j
theorem pmax_ofTalk (j : Nat) : (VD_EVP_PMAX j).ofTalk = true := Fld.ofTalk_row (by decide) j

/-- The fields that show the vehicle's values. -/
abbrev valueFlds (j : Nat) : List Fld :=
  [VD_EVI_IMAX j, VD_EVI_ITGT j, VD_EVV_VMAX j, VD_EVV_VTGT j, VD_EVP_PDMAX j, VD_EVP_PMAX j]

/-- The currents taken and shown, then the voltages. -/
def State.currentsTaken (s : State) (j : Nat) (q : VehValues) : State :=
  ((s.updVh j fun v => { v with row := v.row.taking q }).setSat (VD_EVI_IMAX j) (q.iMax / 10)).setFldS (VD_EVI_ITGT j) (Int.tdiv q.iTgt 10)

def State.voltagesTaken (s : State) (j : Nat) (q : VehValues) : State :=
  ((s.currentsTaken j q).setSat (VD_EVV_VMAX j) q.vMax).setSat (VD_EVV_VTGT j) q.vTgt

theorem State.takeValues_eq (s : State) (j : Nat) (q : VehValues) :
    s.takeValues j q = ((s.voltagesTaken j q).setSat (VD_EVP_PDMAX j) q.pdMax).setSat (VD_EVP_PMAX j) q.pMax := rfl

theorem State.currentsTaken_keeps (s : State) (j : Nat) (q : VehValues) : s.Keeps (s.currentsTaken j q) :=
  State.setFldS_keeps (State.setSat_keeps (State.updVh_keeps (.refl s) _ _) _ _) _ _

theorem State.Leaves.takeValues {f : Fld} {s0 s : State} {j : Nat} {q : VehValues} (h : s0.Leaves f s)
    (hf : (valueFlds j).all f.beside = true) : s0.Leaves f (s.takeValues j q) := by
  have hfs {g : Fld} (hg : g ∈ valueFlds j) := Fld.sparedBy_of_all hf hg
  rw [State.takeValues_eq]
  exact .setSat (.setSat (.setSat (.setSat (.setFldS (.setSat (.updVh h) (hfs (by simp))) (hfs (by simp))) (hfs (by simp))) (hfs (by simp)))
    (hfs (by simp))) (hfs (by simp))

section Values

variable {s : State} (hwf : s.wf = true) (j : Fin 8) (q : VehValues)

include hwf

theorem State.takeValues_vh : (s.takeValues j q).vh j = { s.vh j with row := (s.vh j).row.taking q } := State.vh_updVh hwf j _

theorem State.takeValues_vmax : (s.takeValues j q).fld (VD_EVV_VMAX j) = min 65535 q.vMax := by
  have hcurrents := (s.currentsTaken_keeps j q).wf hwf
  have hafter : State.Leaves ((s.currentsTaken j q).setSat (VD_EVV_VMAX j) q.vMax) (VD_EVV_VMAX j) (s.takeValues j q) :=
    .setSat (.setSat (.setSat (.refl _) (Fld.sparedBy_of_beside (by simp [Fld.beside]))) (Fld.sparedBy_of_beside (by simp [Fld.beside])))
      (Fld.sparedBy_of_beside (by simp [Fld.beside]))
  exact (hafter.fld_of (State.setFld_wf hcurrents _ _)).trans
    ((State.fld_setSat hcurrents (by simp) (by simp) _).trans (Nat.min_comm _ _))

theorem State.takeValues_pmax : (s.takeValues j q).fld (VD_EVP_PMAX j) = min 65535 q.pMax := by
  have hpower : ((s.voltagesTaken j q).setSat (VD_EVP_PDMAX j) q.pdMax).wf = true :=
    (State.setSat_keeps (State.setSat_keeps (State.setSat_keeps (s.currentsTaken_keeps j q) _ _) _ _) _ _).wf hwf
  exact (State.fld_setSat hpower (by simp) (by simp) _).trans (Nat.min_comm _ _)

end Values

/-- A discharge that is not offered, or for which no bidirectional service was selected. -/
def State.refuses (s : State) (j : Nat) (q : VehValues) : Prop := q.iTgt < 0 ∧ ((s.vh j).bpt = false ∨ s.bptOffered j = false)

theorem State.valuesReq_of_refused {s : State} {j : Nat} {q : VehValues} (h : s.refuses j q) (loop : Bool) :
    s.valuesReq j q loop = (s.event 0x0516 [j, s.sess j]).reply j 5 loop := by
  obtain ⟨hneg, hbpt | hbpt⟩ := h
  · exact if_pos (by simp [hneg, hbpt])
  · exact if_pos (by simp [hneg, hbpt])

theorem State.valuesReq_of_taken {s : State} {j : Nat} {q : VehValues} (h : ¬s.refuses j q) (loop : Bool) :
    s.valuesReq j q loop = (s.takeValues j q).reply j 1 loop := by
  refine if_neg fun hrefused => h ?_
  simpa [State.refuses, ← Bool.not_eq_true, imp_iff_not_or] using hrefused

/-- What a response to values that were taken leaves behind. -/
theorem State.valuesReq_takes {s : State} (hwf : s.wf = true) (j : Fin 8) {q : VehValues} (h : ¬s.refuses j q) (loop : Bool) :
    ((s.valuesReq j q loop).vh j).resp = 1 ∧ ((s.valuesReq j q loop).vh j).row = (s.vh j).row.taking q ∧
      (s.valuesReq j q loop).sstate j = s.sstate j ∧ (s.valuesReq j q loop).fld (VD_EVV_VMAX j) = min 65535 q.vMax ∧
      (s.valuesReq j q loop).fld (VD_EVP_PMAX j) = min 65535 q.pMax := by
  have hstate : s.Leaves (VD_STAT_SSTATE j) (s.takeValues j q) := .takeValues (.refl s) (by simp [Fld.beside])
  have hwf' := hstate.keeps.wf hwf
  obtain ⟨stop, told, m, hvh⟩ := State.reply_vh hwf' j 1 loop
  rw [State.valuesReq_of_taken h]
  refine ⟨congrArg Veh.resp hvh, (congrArg Veh.row hvh).trans (congrArg Veh.row (State.takeValues_vh hwf j q)),
    (State.reply_sstate hwf' j 1 loop).trans (hstate.fld_of hwf), ?_, ?_⟩
  · exact (State.Leaves.fld_of (.reply (vmax_ofTalk j) (.refl _) (by simp [Fld.beside])) hwf').trans (State.takeValues_vmax hwf j q)
  · exact (State.Leaves.fld_of (.reply (pmax_ofTalk j) (.refl _) (by simp [Fld.beside])) hwf').trans (State.takeValues_pmax hwf j q)

section ValueRequests

variable {s : State} {j : Fin 8} {q : VehValues}

theorem execChargeParameterDiscoveryReq_of_param (h : s.takesReq j 4 = true) (hsvc : s.proto j ≠ 3 ∨ (s.vh j).svc = 2) :
    exec (.chargeParameterDiscoveryReq j q) s = .next (((s.stopTimer (.seq j)).valuesReq j q false).updVh j fun x =>
      { x with paramDone := true }) := by
  obtain ⟨-, hclk, hdlg, hst⟩ := State.takesReq_iff.mp h
  refine State.request_ok hclk hdlg ?_ _
  rcases hsvc with hsvc | hsvc <;> simp [hst, hsvc]

theorem execChargeLoopReq_of_transfer (h : s.takesReq j 7 = true) :
    exec (.chargeLoopReq j q) s = .next (((s.stopTimer (.seq j)).stopTimer (.loop j)).valuesReq j q true) := by
  obtain ⟨-, hclk, hdlg, hst⟩ := State.takesReq_iff.mp h
  exact State.request_ok hclk hdlg (by simp [hst]) _

/-- The response to a request of the charge loop starts LOOP_TMO afresh, and no SEQ_TMO. -/
theorem chargeLoopReq_timers (h : s.takesReq j 7 = true) : ∃ t, exec (.chargeLoopReq j q) s = .next t ∧ t.timing (.loop j) = true ∧
    t.elapsed (.loop j) = 0 ∧ t.timing (.seq j) = false ∧ t.sstate j = 7 := by
  obtain ⟨hwf, hclk, hdlg, hst⟩ := State.takesReq_iff.mp h
  let u := (s.stopTimer (.seq j)).stopTimer (.loop j)
  have huwf : u.wf = true := (State.stopTimer_keeps (State.stopTimer_keeps (.refl s) _) _).wf hwf
  have hquiet : u.timing (.seq j) = false := (State.timing_stopTimer_of_ne _ (by simp)).trans (State.timing_stopTimer s _)
  have hanswer : ∃ w code, u.valuesReq j q true = w.reply j code true ∧ w.timing (.seq j) = false ∧ u.Leaves (VD_STAT_SSTATE j) w := by
    by_cases hrefused : u.refuses j q
    · exact ⟨_, _, State.valuesReq_of_refused hrefused true, (State.TimingKeeps.event (.refl u)).trans hquiet,
        .told (sstate_ofTalk j) (.refl u)⟩
    · exact ⟨_, _, State.valuesReq_of_taken hrefused true, hquiet, .takeValues (.refl u) (by simp [Fld.beside])⟩
  obtain ⟨w, code, hw, hwquiet, hleft⟩ := hanswer
  have hwst : w.sstate j = 7 := (hleft.fld_of huwf).trans hst
  obtain ⟨x, hx, hxquiet⟩ := State.reply_loop w j code hwst
  refine ⟨_, execChargeLoopReq_of_transfer h, ?_⟩
  rw [show ((s.stopTimer (.seq j)).stopTimer (.loop j)).valuesReq j q true = w.reply j code true from hw]
  refine ⟨?_, ?_, ?_, (State.reply_sstate (hleft.keeps.wf huwf) j code true).trans hwst⟩
  · rw [hx]
    exact State.timing_startTimer _ _
  · rw [hx]
    exact State.elapsed_startTimer _ _
  · rw [hx, State.timing_startTimer_of_ne _ (by simp)]
    exact hxquiet hwquiet

/-- A discharge that is not offered is answered so, and none of the values is taken. -/
theorem chargeLoopReq_refused (h : s.takesReq j 7 = true) (hrefused : s.refuses j q) : ∃ t, exec (.chargeLoopReq j q) s = .next t ∧
    (t.vh j).resp = 5 ∧ (t.vh j).row = (s.vh j).row ∧ s.Raised t 0x0516 [j.val, s.sess j] := by
  obtain ⟨hwf, -, -, -⟩ := State.takesReq_iff.mp h
  let u := (s.stopTimer (.seq j)).stopTimer (.loop j)
  have hu : s.Keeps u := State.stopTimer_keeps (State.stopTimer_keeps (.refl s) _) _
  obtain ⟨stop, told, m, hvh⟩ := State.reply_vh (State.event_wf (hu.wf hwf) 0x0516 [j.val, u.sess j]) j 5 true
  have hrow : ((u.event 0x0516 [j.val, u.sess j]).vh j).row = (s.vh j).row := congrArg Veh.row (State.vh_congr (State.event_veh _ _ _) j)
  refine ⟨_, execChargeLoopReq_of_transfer h, ?_⟩
  rw [show ((s.stopTimer (.seq j)).stopTimer (.loop j)).valuesReq j q true = (u.event 0x0516 [j.val, u.sess j]).reply j 5 true from
    State.valuesReq_of_refused (s := u) hrefused true]
  exact ⟨congrArg Veh.resp hvh, (congrArg Veh.row hvh).trans hrow,
    ((State.event_raised _ _ _).after hu).then (State.reply_keeps (.refl _) _ _ _)⟩

end ValueRequests

/-- The values of both requests are taken, and OK is answered. -/
theorem valuesReq_taken {s : State} {j : Fin 8} {q : VehValues} (hgood : ¬s.refuses j q) {c : Instr}
    (hc : c = .chargeParameterDiscoveryReq j q ∧ s.takesReq j 4 = true ∧ (s.proto j ≠ 3 ∨ (s.vh j).svc = 2) ∨
      c = .chargeLoopReq j q ∧ s.takesReq j 7 = true) :
    ∃ t, exec c s = .next t ∧ (t.vh j).resp = 1 ∧ (t.vh j).row = (s.vh j).row.taking q ∧ t.sstate j = s.sstate j ∧
      t.fld (VD_EVV_VMAX j) = min 65535 q.vMax ∧ t.fld (VD_EVP_PMAX j) = min 65535 q.pMax := by
  obtain ⟨rfl, h, hsvc⟩ | ⟨rfl, h⟩ := hc
  · obtain ⟨hwf, -, -, -⟩ := State.takesReq_iff.mp h
    have hu := (State.stopTimer_keeps (.refl s) (.seq j)).wf hwf
    obtain ⟨hresp, hrow, hst, hvmax, hpmax⟩ := State.valuesReq_takes hu j (q := q) hgood false
    have hvh := State.vh_updVh ((State.valuesReq_keeps (.refl _) j q false).wf hu) j fun x => { x with paramDone := true }
    exact ⟨_, execChargeParameterDiscoveryReq_of_param h hsvc, (congrArg Veh.resp hvh).trans hresp, (congrArg Veh.row hvh).trans hrow,
      hst, hvmax, hpmax⟩
  · obtain ⟨hwf, -, -, -⟩ := State.takesReq_iff.mp h
    have hu := (State.stopTimer_keeps (State.stopTimer_keeps (.refl s) (.seq j)) (.loop j)).wf hwf
    exact ⟨_, execChargeLoopReq_of_transfer h, State.valuesReq_takes hu j hgood true⟩

/-! ### Schedule, cable check and precharge -/

section Preparation

variable {s : State} {j : Fin 8}

/-- The schedule carries the limits announced and the price, in Scheduled mode. -/
theorem scheduleExchangeReq_answered (h : s.takesReq j 4 = true) (hproto : s.proto j = 3) (hparam : (s.vh j).paramDone = true) :
    ∃ t, exec (.scheduleExchangeReq j) s = .next t ∧ (t.vh j).resp = 1 ∧ t.sstate j = 4 ∧
      (t.vh j).msg.sched = (if (s.vh j).dynamic = true then none else some ⟨24, (t.vh j).msg.lim, (s.vh j).price⟩) := by
  obtain ⟨hwf, hclk, hdlg, hst⟩ := State.takesReq_iff.mp h
  have hu := (State.stopTimer_keeps (.refl s) (.seq j)).wf hwf
  obtain ⟨stop, told, m, hvh⟩ := State.reply_vh hu j 1 false
  have hsched := State.vh_updVh ((State.respond_keeps (.refl _) j 1).wf hu) j fun v =>
    { v with schedDone := true, msg := { v.msg with sched := if v.dynamic then none else some ⟨24, v.msg.lim, v.price⟩ } }
  rw [State.respond, hvh] at hsched
  refine ⟨_, State.request_ok hclk hdlg (by simp [hst, hproto, hparam]) _, congrArg Veh.resp hsched,
    (State.reply_sstate hu j 1 false).trans hst, ?_⟩
  rw [State.respond, hsched]
  rfl

/-- Before the parameters, or the schedule of ISO 15118-20, the cable check is out of sequence. -/
theorem cableCheckReq_early (h : s.takesReq j 4 = true) (hearly : (s.vh j).paramDone = false ∨ s.proto j = 3 ∧ (s.vh j).schedDone = false) :
    ∃ t, exec (.cableCheckReq j) s = .next t ∧ t.sstate j = 11 ∧ t.fld (VD_STAT_REASON j) = 8 ∧ (t.vh j).resp = 4 := by
  obtain ⟨hwf, hclk, hdlg, hst⟩ := State.takesReq_iff.mp h
  have hst' : (s.stopTimer (.seq j)).sstate j = 4 := hst
  refine ⟨_, State.request_not_ok hclk hdlg ?_ _,
    State.seqError_ends ((State.stopTimer_keeps (.refl s) _).wf hwf) j (by rw [hst']; decide)⟩
  rcases hearly with hearly | ⟨hproto, hearly⟩
  · simp [hst, hearly]
  · simp [hst, hproto, hearly]

/-- A cable check about to start: the lock is commanded, and nothing of an earlier one stands. -/
def State.cableCheckReady (s : State) (j : Nat) : State := (s.stopTimer (.paramMode j)).updVh j fun v =>
  { v with lockCmd := true, lockOk := false, pairAsked := false, insulOk := false, preAsked := false, preOk := false }

/-- A precharge request taken: its target, PC_TMO with the first, and the voltage checked. -/
def State.precharging (s : State) (j v : Nat) : State :=
  (((s.updVh j fun x => { x with preAsked := true, row := { x.row with vTgt := v } }).setSat (VD_EVV_VTGT j) v).iff (!(s.vh j).preAsked)
    (·.startTimer (.pc j))).preCheck j

theorem State.Leaves.preCheck {f : Fld} {s0 s : State} {j : Nat} (h : s0.Leaves f s) : s0.Leaves f (s.preCheck j) :=
  .ite (.updVh (.stopTimer h)) h

theorem State.preCheck_vh {s : State} (hwf : s.wf = true) (j : Fin 8) : ∃ ok, (s.preCheck j).vh j = { s.vh j with preOk := ok } := by
  unfold State.preCheck
  split
  · exact ⟨_, State.vh_updVh (s := s.stopTimer (.pc j)) hwf j _⟩
  · exact ⟨_, rfl⟩

theorem State.precharging_vh {s : State} (hwf : s.wf = true) (j : Fin 8) (v : Nat) :
    ((s.precharging j v).vh j).preAsked = true ∧ ((s.precharging j v).vh j).row.vTgt = v := by
  let w := ((s.updVh j fun x => { x with preAsked := true, row := { x.row with vTgt := v } }).setSat (VD_EVV_VTGT j) v).iff
    (!(s.vh j).preAsked) (·.startTimer (.pc j))
  have hw : s.Keeps w := State.iff_keeps (State.setSat_keeps (State.updVh_keeps (.refl s) _ _) _ _) _ _ fun _ h => State.startTimer_keeps h _
  obtain ⟨ok, hok⟩ := State.preCheck_vh (hw.wf hwf) j
  have htaken := State.vh_updVh hwf j fun x => { x with preAsked := true, row := { x.row with vTgt := v } }
  have hsame : w.vh j = { s.vh j with preAsked := true, row := { (s.vh j).row with vTgt := v } } :=
    (State.vh_congr (by unfold w State.iff; split <;> rfl) j).trans htaken
  rw [hsame] at hok
  exact ⟨congrArg Veh.preAsked hok, congrArg (·.row.vTgt) hok⟩

section CableCheck

variable (h : s.takesReq j 4 = true) (hparam : (s.vh j).paramDone = true) (hsched : s.proto j = 3 → (s.vh j).schedDone = true)
  (hpilot : s.fld (VD_STAT_PILOT j) = 2)

include h hparam hsched hpilot

/-- With the pilot in state C the cable check waits for the module's mode and the output's latent test. -/
theorem execCableCheckReq_in_c : exec (.cableCheckReq j) s = .next (if (s.running && (s.io j).latDone) = true
    then ((((s.stopTimer (.seq j)).cableCheckReady j).setSState j 5 0).startTimer (.lockConfirm j) |>.startTimer (.cc j)).respond j 2
    else ((s.stopTimer (.seq j)).iff (!(s.stopTimer (.seq j)).timing (.paramMode j)) (·.startTimer (.paramMode j))).respond j 2) := by
  obtain ⟨-, hclk, hdlg, hst⟩ := State.takesReq_iff.mp h
  refine (State.request_ok hclk hdlg (by by_cases hp : s.proto j = 3 <;> simp [hst, hparam, hp, hsched]) _).trans (congrArg _ ?_)
  have hst' : (s.stopTimer (.seq j)).sstate j = 4 := hst
  simp only [hst']
  exact if_neg (not_not_intro hpilot)

/-- While one of the two lacks, it is answered Ongoing, under the 60 s of PARAM. -/
theorem cableCheckReq_waits (hwait : s.running = false ∨ (s.io j).latDone = false) : ∃ t, exec (.cableCheckReq j) s = .next t ∧
    t.sstate j = 4 ∧ (t.vh j).resp = 2 ∧ t.timing (.paramMode j) = true := by
  obtain ⟨hwf, -, -, hst⟩ := State.takesReq_iff.mp h
  let u := (s.stopTimer (.seq j)).iff (!(s.stopTimer (.seq j)).timing (.paramMode j)) (·.startTimer (.paramMode j))
  have hleft : s.Leaves (VD_STAT_SSTATE j) u := .iff (.stopTimer (.refl s)) .startTimer
  have htiming : u.timing (.paramMode j) = true := by
    cases hon : (s.stopTimer (.seq j)).timing (.paramMode j) with
    | true => simp [u, State.iff, hon]
    | false => simp [u, State.iff, hon, State.timing_startTimer]
  have huwf := hleft.keeps.wf hwf
  refine ⟨_, (execCableCheckReq_in_c h hparam hsched hpilot).trans (congrArg _ (if_neg ?_)),
    (State.reply_sstate huwf j 2 false).trans ((hleft.fld_of hwf).trans hst), State.reply_resp huwf j 2 false,
    (State.TimingKeeps.reply (.refl u) (by simp)).trans htiming⟩
  rcases hwait with hwait | hwait <;> simp [hwait]

/-- With both it commands the lock and starts the cable check. -/
theorem cableCheckReq_begins (hrun : s.running = true) (hlat : (s.io j).latDone = true) : ∃ t, exec (.cableCheckReq j) s = .next t ∧
    t.sstate j = 5 ∧ (t.vh j).lockCmd = true ∧ (t.vh j).resp = 2 ∧ t.timing (.cc j) = true ∧ t.timing (.lockConfirm j) = true ∧
    s.Raised t 0x0501 [j.val, s.sess j, 4, 5, 0] := by
  obtain ⟨hwf, -, -, hst⟩ := State.takesReq_iff.mp h
  let r := (s.stopTimer (.seq j)).cableCheckReady j
  let u := ((r.setSState j 5 0).startTimer (.lockConfirm j)).startTimer (.cc j)
  have hready : s.Keeps r := State.updVh_keeps (State.stopTimer_keeps (State.stopTimer_keeps (.refl s) _) _) _ _
  have hrwf := hready.wf hwf
  have hu : r.Keeps u := State.startTimer_keeps (State.startTimer_keeps (State.setSState_keeps (.refl r) _ _ _) _) _
  have hlock : (u.vh j).lockCmd = true := by
    have hset : State.CoreKeeps r j u := .setSState (.refl r)
    exact (congrArg Veh.lockCmd hset).trans (congrArg Veh.lockCmd (State.vh_updVh (s := (s.stopTimer (.seq j)).stopTimer (.paramMode j)) hwf j _))
  have hne : r.sstate j ≠ 5 := fun hr => absurd (hst.symm.trans hr) (by decide)
  have hraised : s.Raised u 0x0501 [j.val, s.sess j, s.sstate j, 5, 0] := ((State.setSState_raised hrwf j hne 0).after hready).then
    (State.startTimer_keeps (State.startTimer_keeps (.refl _) _) _)
  obtain ⟨stop, told, m, hvh⟩ := State.reply_vh (hu.wf hrwf) j 2 false
  refine ⟨_, (execCableCheckReq_in_c h hparam hsched hpilot).trans (congrArg _ (if_pos (by rw [hrun, hlat]; rfl))),
    (State.reply_sstate (hu.wf hrwf) j 2 false).trans (State.setSState_sstate hrwf j (by decide) 0), (congrArg Veh.lockCmd hvh).trans hlock,
    congrArg Veh.resp hvh, (State.TimingKeeps.reply (.refl u) (by simp)).trans (State.timing_startTimer _ _),
    (State.TimingKeeps.reply (.startTimer (.refl _) (by simp)) (by simp)).trans (State.timing_startTimer (r.setSState j 5 0) _), ?_⟩
  rw [hst] at hraised
  exact hraised.then (State.respond_keeps (.refl _) _ _)

end CableCheck

/-- The precharge takes the target, and is OK once the voltage is near. -/
theorem prechargeReq_answered (h : s.takesReq j 6 = true) (v : Nat) : ∃ t, exec (.prechargeReq j v) s = .next t ∧
    (t.vh j).preAsked = true ∧ (t.vh j).row.vTgt = v ∧ t.sstate j = 6 ∧ (t.vh j).resp = if (t.vh j).preOk = true then 1 else 2 := by
  obtain ⟨hwf, hclk, hdlg, hst⟩ := State.takesReq_iff.mp h
  let u := (s.stopTimer (.seq j)).precharging j v
  have hleft : s.Leaves (VD_STAT_SSTATE j) u :=
    .preCheck (.iff (.setSat (.updVh (.stopTimer (.refl s))) (Fld.sparedBy_of_beside (by simp [Fld.beside]))) .startTimer)
  obtain ⟨hasked, htgt⟩ := State.precharging_vh (s := s.stopTimer (.seq j)) hwf j v
  obtain ⟨stop, told, m, hvh⟩ := State.reply_vh (hleft.keeps.wf hwf) j (if (u.vh j).preOk = true then 1 else 2) false
  refine ⟨_, State.request_ok hclk hdlg (by simp [hst]) _, (congrArg Veh.preAsked hvh).trans hasked,
    (congrArg (·.row.vTgt) hvh).trans htgt, (State.reply_sstate (hleft.keeps.wf hwf) j _ false).trans ((hleft.fld_of hwf).trans hst), ?_⟩
  exact (congrArg Veh.resp hvh).trans (congrArg (fun v : Veh => if v.preOk = true then 1 else 2) hvh).symm

end Preparation

/-! ### Power delivery and the session's stop -/

section Delivery

variable {s : State} {j : Fin 8}

/-- Until the front end is ready no energy is delivered. -/
theorem powerDeliveryReq_refused (h : s.takesReq j 6 = true) (hfe : s.glb.feNotReady.contains j.val = true) :
    ∃ t, exec (.powerDeliveryReq j .start) s = .next t ∧ t.sstate j = 6 ∧ (t.vh j).resp = 3 := by
  obtain ⟨hwf, hclk, hdlg, hst⟩ := State.takesReq_iff.mp h
  have hu := (State.stopTimer_keeps (.refl s) (.seq j)).wf hwf
  refine ⟨_, (State.request_ok hclk hdlg (by simp [hst]) _).trans (congrArg _ (if_pos ?_)),
    (State.reply_sstate hu j 3 false).trans hst, State.reply_resp hu j 3 false⟩
  rw [show (s.stopTimer (.seq j)).glb = s.glb from rfl, hfe]
  rfl

/-- After the precharge, energy transfer starts. -/
theorem powerDeliveryReq_starts (h : s.takesReq j 6 = true) (hfe : s.glb.feNotReady.contains j.val = false) (hpre : (s.vh j).preOk = true) :
    ∃ t, exec (.powerDeliveryReq j .start) s = .next t ∧ t.sstate j = 7 ∧ (t.vh j).resp = 1 ∧ t.timing (.seq j) = true ∧
      s.Raised t 0x0501 [j.val, s.sess j, 6, 7, 0] := by
  obtain ⟨hwf, hclk, hdlg, hst⟩ := State.takesReq_iff.mp h
  have hst' : (s.stopTimer (.seq j)).sstate j = 6 := hst
  have hstop := State.stopTimer_keeps (.refl s) (.seq j)
  obtain ⟨hnew, hresp, hraised⟩ := State.setSState_respond (hstop.wf hwf) j (new := 7) (by rw [hst']; decide) (by decide) 1
  have hset := State.setSState_sstate (hstop.wf hwf) j (new := 7) (by decide) 0
  rw [hst'] at hraised
  refine ⟨_, (State.request_ok hclk hdlg (by simp [hst]) _).trans (congrArg _ (if_neg ?_)), hnew, hresp,
    State.timing_respond_seq _ j 1 (by rw [hset]; decide), hraised.after hstop⟩
  rw [show (s.stopTimer (.seq j)).glb = s.glb from rfl, hfe, State.stopTimer_vh, hpre]
  simp

/-- A stop that the vehicle asks for has reason 1. -/
theorem powerDeliveryReq_stops (h : s.takesReq j 7 = true) (hstop : (s.vh j).evseStop = 0) :
    ∃ t, exec (.powerDeliveryReq j .stop) s = .next t ∧ t.sstate j = 9 ∧ (t.vh j).endReason = 1 ∧ (t.vh j).resp = 1 := by
  obtain ⟨hwf, hclk, hdlg, hst⟩ := State.takesReq_iff.mp h
  have hu := (State.stopTimer_keeps (.refl s) (.seq j)).wf hwf
  have hrwf := (State.stopNow_keeps (.refl (s.stopTimer (.seq j))) j 1).wf hu
  obtain ⟨stop, told, m, hvh⟩ := State.reply_vh hrwf j 1 false
  have hexec : exec (.powerDeliveryReq j .stop) s = .next (((s.stopTimer (.seq j)).stopNow j 1).respond j 1) := by
    refine (State.request_ok hclk hdlg (by simp [hst]) _).trans (congrArg _ ?_)
    simp [hst, hstop]
  exact ⟨_, hexec, (State.reply_sstate hrwf j 1 false).trans (State.stopNow_sstate hu j 1),
    (congrArg Veh.endReason hvh).trans (congrArg Veh.endReason (State.stopNow_core hu j 1)), congrArg Veh.resp hvh⟩

/-- Standby (ISO 15118-20) and renegotiation (ISO 15118-2) pause the charge loop. -/
theorem powerDeliveryReq_pauses (h : s.takesReq j 7 = true) {kind : PowerKind}
    (hkind : kind = .standby ∧ s.proto j = 3 ∨ kind = .renegotiate ∧ s.proto j = 2) :
    ∃ t, exec (.powerDeliveryReq j kind) s = .next t ∧ t.sstate j = 8 ∧ (t.vh j).resp = 1 ∧ t.timing (.loop j) = false := by
  obtain ⟨hwf, hclk, hdlg, hst⟩ := State.takesReq_iff.mp h
  let u := (s.stopTimer (.seq j)).stopTimer (.loop j)
  have huwf : u.wf = true := (State.stopTimer_keeps (State.stopTimer_keeps (.refl s) _) _).wf hwf
  have hne : u.sstate j ≠ 8 := fun hu => absurd (hst.symm.trans hu) (by decide)
  obtain ⟨hnew, hresp, -⟩ := State.setSState_respond huwf j hne (by decide) 1
  have hexec : exec (.powerDeliveryReq j kind) s = .next ((u.setSState j 8 0).respond j 1) := by
    obtain ⟨rfl, hproto⟩ | ⟨rfl, hproto⟩ := hkind
    · exact State.request_ok hclk hdlg (by simp [hst, hproto]) _
    · exact State.request_ok hclk hdlg (by simp [hst, hproto]) _
  have hquiet : u.TimingKeeps (.loop j) ((u.setSState j 8 0).respond j 1) := .reply (.setSState (.refl u)) (by simp)
  exact ⟨_, hexec, hnew, hresp, hquiet.trans (State.timing_stopTimer _ _)⟩

theorem meteringReceiptReq_answered (h : s.takesReq j 7 = true) (hproto : s.proto j = 2) :
    ∃ t, exec (.meteringReceiptReq j) s = .next t ∧ t.sstate j = 7 ∧ (t.vh j).resp = 1 := by
  obtain ⟨hwf, hclk, hdlg, hst⟩ := State.takesReq_iff.mp h
  have hu := (State.stopTimer_keeps (.refl s) (.seq j)).wf hwf
  exact ⟨_, State.request_ok hclk hdlg (by simp [hst, hproto]) _, (State.reply_sstate hu j 1 false).trans hst, State.reply_resp hu j 1 false⟩

theorem weldingDetectionReq_answered (h : s.takesReq j 10 = true) :
    ∃ t, exec (.weldingDetectionReq j) s = .next t ∧ t.sstate j = 10 ∧ (t.vh j).resp = 1 := by
  obtain ⟨hwf, hclk, hdlg, hst⟩ := State.takesReq_iff.mp h
  have hu := (State.stopTimer_keeps (.refl s) (.seq j)).wf hwf
  exact ⟨_, State.request_ok hclk hdlg (by simp [hst]) _, (State.reply_sstate hu j 1 false).trans hst, State.reply_resp hu j 1 false⟩

/-- The session's stop ends it with the reason it was stopped for. -/
theorem sessionStopReq_ends (h : s.takesReq j 10 = true) : ∃ t, exec (.sessionStopReq j) s = .next t ∧ t.sstate j = 11 ∧
    (t.vh j).resp = 1 ∧ ((s.vh j).endReason ≠ 0 → (s.vh j).endReason < 32 → t.fld (VD_STAT_REASON j) = (s.vh j).endReason) := by
  obtain ⟨hwf, hclk, hdlg, hst⟩ := State.takesReq_iff.mp h
  have hu := (State.stopTimer_keeps (.refl s) (.seq j)).wf hwf
  have hrwf := (State.respond_keeps (.refl (s.stopTimer (.seq j))) j 1).wf hu
  have hsame : ((s.stopTimer (.seq j)).respond j 1).sstate j = 10 := (State.reply_sstate hu j 1 false).trans hst
  exact ⟨_, State.request_ok hclk hdlg (by simp [hst]) _, State.endNow_sstate hrwf j _,
    (congrArg Veh.resp (State.endNow_core hrwf j _)).trans (State.reply_resp hu j 1 false),
    fun h0 h32 => State.endNow_reason hrwf j (by rw [hsame]; decide) h0 h32⟩

/-- A request that the module does not support goes through STOPPING while energy flows. -/
theorem unsupportedRequest_stops (h : s.takesReq j 7 = true) : ∃ t, exec (.unsupportedRequest j) s = .next t ∧ t.sstate j = 9 ∧
    (t.vh j).endReason = 8 ∧ (t.vh j).resp = 4 := by
  obtain ⟨hwf, hclk, hdlg, hst⟩ := State.takesReq_iff.mp h
  exact ⟨_, State.request_not_ok hclk hdlg rfl _, State.seqError_stops ((State.stopTimer_keeps (.refl s) _).wf hwf) j hst⟩

/-- In PARAM and in WELDCHECK it ends the session at once. -/
theorem unsupportedRequest_ends (h : s.takesReq j 4 = true ∨ s.takesReq j 10 = true) : ∃ t, exec (.unsupportedRequest j) s = .next t ∧
    t.sstate j = 11 ∧ t.fld (VD_STAT_REASON j) = 8 ∧ (t.vh j).resp = 4 := by
  obtain ⟨st, hends, h⟩ : ∃ st, (2 ≤ st ∧ st ≤ 6 ∨ 9 ≤ st ∧ st ≤ 10) ∧ s.takesReq j st = true :=
    h.elim (fun h => ⟨4, by decide, h⟩) fun h => ⟨10, by decide, h⟩
  obtain ⟨hwf, hclk, hdlg, rfl⟩ := State.takesReq_iff.mp h
  exact ⟨_, State.request_not_ok hclk hdlg rfl _, State.seqError_ends ((State.stopTimer_keeps (.refl s) _).wf hwf) j hends⟩

end Delivery

end Sys2Proof.Machine

open Sys2Proof Sys2Proof.Machine

/-- Settles O42, request by request in the order of Table 6.7. -/
theorem chargingIsStartedAndStopped : Obligations.ChargingIsStartedAndStopped := by
  intro s j
  refine ⟨fun v hgood c hc => ?_, fun v => chargeLoopReq_timers, fun v hneg hbpt h => chargeLoopReq_refused h ⟨hneg, hbpt⟩,
    scheduleExchangeReq_answered, cableCheckReq_early, cableCheckReq_waits, cableCheckReq_begins, fun v h => prechargeReq_answered h v,
    powerDeliveryReq_refused, powerDeliveryReq_starts, fun h => ?_,
    fun h => ⟨weldingDetectionReq_answered h, sessionStopReq_ends h⟩, unsupportedRequest_ends⟩
  · obtain ⟨t, hexec, hresp, hrow, hshown⟩ := valuesReq_taken hgood hc
    exact ⟨t, hexec, hresp, congrArg VehRow.iTgt hrow, congrArg VehRow.iMax hrow, congrArg VehRow.vTgt hrow, congrArg VehRow.vMax hrow,
      congrArg VehRow.pMax hrow, hshown⟩
  · exact ⟨powerDeliveryReq_stops h, fun hproto => powerDeliveryReq_pauses h (.inl ⟨rfl, hproto⟩),
      fun hproto => powerDeliveryReq_pauses h (.inr ⟨rfl, hproto⟩), meteringReceiptReq_answered h, unsupportedRequest_stops h⟩
end

section
/-!
The start of a session (spec/06 R141, R142, R150, R155): the protocol, the session, its services and its payment.
-/

namespace Sys2Proof.Machine

open Sys2Proof

/-! ### What a timer stopped leaves of the others -/

theorem State.elapsed_stopTimer_of_ne (s : State) {x y : Timer} (h : x ≠ y) : (s.stopTimer y).elapsed x = s.elapsed x := by
  have hkept : (s.timers.filter fun p => !(p.1 == y)).find? (fun p => p.1 == x) = s.timers.find? fun p => p.1 == x := by
    rw [List.find?_filter]
    congr 1
    funext p
    by_cases hp : p.1 = x
    · simp [hp, h]
    · simp [hp]
  rw [State.elapsed, State.stopTimer, hkept, State.elapsed]

theorem State.due_stopTimer_of_ne (s : State) {x y : Timer} (h : x ≠ y) (ns : Nat) : (s.stopTimer y).due x ns = s.due x ns := by
  rw [State.due, State.timing_stopTimer_of_ne s h, State.elapsed_stopTimer_of_ne s h, State.due]

theorem State.due_congr {s t : State} (h : t.timers = s.timers) (x : Timer) (ns : Nat) : t.due x ns = s.due x ns := by
  rw [State.due, State.timing, State.elapsed, h, State.due, State.timing, State.elapsed]

/-! ### The protocol -/

theorem ranking_lt {r p : Nat} (h : p ∈ ranking r) : p < 4 := by
  unfold ranking at h
  split at h <;> simp only [List.mem_cons, List.not_mem_nil, or_false] at h <;> omega

theorem proto_ofTalk (j : Nat) : (VD_STAT_PROTO j).ofTalk = true := Fld.ofTalk_row (by decide) j

section Protocol

variable {s : State} {j : Fin 8} (h : s.takesReq j 2 = true) {din iso2 iso20 : Bool} (hphase : (s.vh j).phase = 0)
  (htcp : (s.vh j).tcp = true)

include h hphase htcp

/-- The highest-ranked protocol that both sides allow is selected and shown. -/
theorem supportedAppProtocolReq_selects {p : Nat} (hp : (ranking (s.fld VD_GCFG_PPRIO)).find? (s.protoOk j din iso2 iso20) = some p) :
    ∃ t, exec (.supportedAppProtocolReq j din iso2 iso20) s = .next t ∧ t.proto j = p ∧ (t.vh j).phase = 1 ∧ (t.vh j).resp = 1 ∧
      s.Raised t 0x0506 [j.val, s.sess j, p] := by
  obtain ⟨hwf, hclk, hdlg, hst⟩ := State.takesReq_iff.mp h
  let r := (s.stopTimer (.seq j)).setFld (VD_STAT_PROTO j) p
  let u := (r.updVh j fun v => { v with phase := 1 }).event 0x0506 [j, s.sess j, p]
  have hexec : exec (.supportedAppProtocolReq j din iso2 iso20) s = .next (u.respond j 1) := by
    refine (State.request_ok hclk hdlg (by simp [hst, hphase, htcp]) _).trans (congrArg _ ?_)
    rw [show (ranking ((s.stopTimer (.seq j)).fld VD_GCFG_PPRIO)).find? ((s.stopTimer (.seq j)).protoOk j din iso2 iso20) = some p from hp]
    rfl
  have hset : s.Keeps r := State.setFld_keeps (State.stopTimer_keeps (.refl s) _) _ _
  have hrwf := hset.wf hwf
  have hu : s.Keeps u := State.event_keeps (State.updVh_keeps hset _ _) _ _
  have hraised : s.Raised u 0x0506 [j, s.sess j, p] := (State.event_raised _ _ _).after (State.updVh_keeps hset _ _)
  have hshown : r.Leaves (VD_STAT_PROTO j) (u.respond j 1) :=
    .reply (proto_ofTalk j) (.told (proto_ofTalk j) (.updVh (.refl _))) (by simp [Fld.beside])
  have hproto : r.proto j = p := (State.canon_of_wf ((State.stopTimer_keeps (.refl s) (.seq j)).wf hwf)).fld_setFld_of_lt
    (by simp) (by simp) (ranking_lt (List.mem_of_find?_eq_some hp))
  have hphased : (u.vh j).phase = 1 :=
    (congrArg Veh.phase (State.vh_congr (State.event_veh _ _ _) j)).trans (congrArg Veh.phase (State.vh_updVh hrwf j _))
  obtain ⟨stop, told, m, hvh⟩ := State.reply_vh (hu.wf hwf) j 1 false
  exact ⟨_, hexec, (hshown.fld_of hrwf).trans hproto, (congrArg Veh.phase hvh).trans hphased, congrArg Veh.resp hvh,
    hraised.then (State.respond_keeps (.refl _) _ _)⟩

/-- Without one the session ends. -/
theorem supportedAppProtocolReq_ends (hnone : (ranking (s.fld VD_GCFG_PPRIO)).find? (s.protoOk j din iso2 iso20) = none) :
    ∃ t, exec (.supportedAppProtocolReq j din iso2 iso20) s = .next t ∧ t.sstate j = 11 ∧ t.fld (VD_STAT_REASON j) = 5 ∧
      (t.vh j).resp = 3 ∧ s.Raised t 0x0507 [j.val, s.sess j] := by
  obtain ⟨hwf, hclk, hdlg, hst⟩ := State.takesReq_iff.mp h
  let u := (s.stopTimer (.seq j)).respond j 3
  have hexec : exec (.supportedAppProtocolReq j din iso2 iso20) s = .next ((u.event 0x0507 [j, s.sess j]).endNow j 5) := by
    refine (State.request_ok hclk hdlg (by simp [hst, hphase, htcp]) _).trans (congrArg _ ?_)
    rw [show (ranking ((s.stopTimer (.seq j)).fld VD_GCFG_PPRIO)).find? ((s.stopTimer (.seq j)).protoOk j din iso2 iso20) = none from hnone]
    rfl
  have hleft : s.Leaves (VD_STAT_SSTATE j) (u.event 0x0507 [j, s.sess j]) :=
    .told (sstate_ofTalk j) (.reply (sstate_ofTalk j) (.stopTimer (.refl s)) (sstate_beside_limits j))
  have hopen : (u.event 0x0507 [j, s.sess j]).sstate j ≠ 11 := by
    rw [show (u.event 0x0507 [j, s.sess j]).sstate j = 2 from (hleft.fld_of hwf).trans hst]
    decide
  have hresp : ((u.event 0x0507 [j, s.sess j]).vh j).resp = 3 :=
    (congrArg Veh.resp (State.vh_congr (State.event_veh u _ _) j)).trans
      (State.reply_resp (State.stopTimer_keeps (.refl s) (.seq j) |>.wf hwf) j 3 false)
  have huwf := hleft.keeps.wf hwf
  exact ⟨_, hexec, State.endNow_sstate huwf j 5, State.endNow_reason huwf j hopen (by decide) (by decide),
    (congrArg Veh.resp (State.endNow_core huwf j 5)).trans hresp,
    ((State.event_raised u _ _).after (State.respond_keeps (State.stopTimer_keeps (.refl s) _) _ _)).then (State.endNow_keeps (.refl _) _ _)⟩

end Protocol

/-! ### The session -/

/-- The dialogue of output `j` joins the session found for it. -/
def State.joinFound (s : State) (j : Nat) (mate : Option Nat) : State :=
  match mate with
  | some k => s.joinTo j k
  | none => s

/-- SESSION_SETUP_REQ has come: SETUP_TMO stops, and the vehicle's identifier is recorded. -/
def State.evccTaken (s : State) (j : Nat) (ev : BitVec 48) : State :=
  ((s.stopTimer (.setup j)).setFld (VD_EVCC_LO_EVCCID j) (ev.toNat % 2 ^ 32)).setFld (VD_EVCC_HI_EVCCID j) (ev.toNat / 2 ^ 32)

/-- The session goes on, under way to payment. -/
def State.sessionOpened (s : State) (j : Nat) : State := s.updVh j fun v => { v with phase := 2, started := true }

theorem evccLo_ofTalk (j : Nat) : (VD_EVCC_LO_EVCCID j).ofTalk = true := Fld.ofTalk_row (by decide) j
theorem evccHi_ofTalk (j : Nat) : (VD_EVCC_HI_EVCCID j).ofTalk = true := Fld.ofTalk_row (by decide) j

theorem State.Leaves.joinFound {f : Fld} {s0 s : State} {j : Nat} {mate : Option Nat} (hf : f.ofTalk = true) (h : s0.Leaves f s) :
    s0.Leaves f (s.joinFound j mate) := by
  cases mate with
  | none => exact h
  | some k => exact .joinTo hf h

theorem State.CoreKeeps.joinFound {i j : Nat} {s0 s : State} {mate : Option Nat} (h : s0.CoreKeeps i s) :
    s0.CoreKeeps i (s.joinFound j mate) := by
  cases mate with
  | none => exact h
  | some k => exact .joinTo h

theorem State.TimingKeeps.joinFound {x : Timer} {j : Nat} {s0 s : State} {mate : Option Nat} (h : s0.TimingKeeps x s) (hauth : x ≠ .auth j)
    (hjoin : ∀ i, x ≠ .join i) : s0.TimingKeeps x (s.joinFound j mate) := by
  cases mate with
  | none => exact h
  | some k => exact .joinTo h hauth hjoin

theorem State.Leaves.evccTaken {f : Fld} {s0 s : State} {j : Nat} {ev : BitVec 48} (h : s0.Leaves f s)
    (hf : [VD_EVCC_LO_EVCCID j, VD_EVCC_HI_EVCCID j].all f.beside = true) : s0.Leaves f (s.evccTaken j ev) :=
  .setFld (.setFld (.stopTimer h) (Fld.sparedBy_of_all hf (by simp))) (Fld.sparedBy_of_all hf (by simp))

theorem State.evccTaken_evcc {s : State} (hwf : s.wf = true) (j : Nat) (ev : BitVec 48) : (s.evccTaken j ev).evcc j = ev.toNat := by
  have hlo := State.setFld_wf (State.stopTimer_keeps (.refl s) (.setup j) |>.wf hwf) (VD_EVCC_LO_EVCCID j) (ev.toNat % 2 ^ 32)
  have hshown : (s.evccTaken j ev).fld (VD_EVCC_LO_EVCCID j) = ev.toNat % 2 ^ 32 :=
    ((State.canon_of_wf hlo).fld_setFld_of_apart _ (by simp) (by simp) (.inl (by simp))).trans
      ((State.canon_of_wf hwf).fld_setFld_of_lt (s := s.stopTimer (.setup j)) (by simp) (by simp) (by simp; omega))
  have hhigh : (s.evccTaken j ev).fld (VD_EVCC_HI_EVCCID j) = ev.toNat / 2 ^ 32 :=
    (State.canon_of_wf hlo).fld_setFld_of_lt (by simp) (by simp) (by have := ev.isLt; simp; omega)
  rw [State.evcc, hshown, hhigh]
  exact Nat.mod_add_div' _ _

section SessionSetup

variable {s : State} {j : Fin 8} (h : s.takesReq j 2 = true) (hphase : (s.vh j).phase = 1) (ev : BitVec 48)

include h hphase

theorem execSessionSetupReq_of_kept (hlost : (s.vh j).lost = false) (session : Nat) : ∃ mate, exec (.sessionSetupReq j session ev) s =
    .next (((((s.stopTimer (.seq j)).evccTaken j ev).sessionOpened j).joinFound j mate).respond j 1) := by
  obtain ⟨-, hclk, hdlg, hst⟩ := State.takesReq_iff.mp h
  let w := ((s.stopTimer (.seq j)).evccTaken j ev).sessionOpened j
  use (idx 8).find? fun k => w.joinable j k && w.evcc k == ev.toNat
  refine (State.request_ok hclk hdlg (by simp [hst, hphase]) _).trans (congrArg _ ?_)
  simp only [State.stopTimer_vh, hlost, Bool.false_and, Bool.false_eq_true, if_false]
  rfl

/-- A session set up records the vehicle's identifier, and waits for its requests under SEQ_TMO. -/
theorem sessionSetupReq_answered (hlost : (s.vh j).lost = false) (session : Nat) :
    ∃ t, exec (.sessionSetupReq j session ev) s = .next t ∧ t.evcc j = ev.toNat ∧ (t.vh j).phase = 2 ∧ (t.vh j).resp = 1 ∧
      t.timing (.setup j) = false ∧ t.timing (.seq j) = true := by
  obtain ⟨hwf, -, -, hst⟩ := State.takesReq_iff.mp h
  obtain ⟨mate, hexec⟩ := execSessionSetupReq_of_kept h hphase ev hlost session
  let r := (s.stopTimer (.seq j)).evccTaken j ev
  let u := (r.sessionOpened j).joinFound j mate
  have hfirst : s.Leaves (VD_STAT_SSTATE j) r := .evccTaken (.stopTimer (.refl s)) (by simp [Fld.beside])
  have hrwf := hfirst.keeps.wf hwf
  have hshown {f : Fld} (hf : f.ofTalk = true) (hl : (limitFlds j).all f.beside = true) : r.Leaves f (u.respond j 1) :=
    .reply hf (.joinFound hf (.updVh (.refl r))) hl
  have hopen : r.Leaves (VD_STAT_SSTATE j) u := .joinFound (sstate_ofTalk j) (.updVh (.refl r))
  have hust : u.sstate j = 2 := (hopen.fld_of hrwf).trans ((hfirst.fld_of hwf).trans hst)
  have hcore : State.CoreKeeps (r.sessionOpened j) j u := .joinFound (.refl _)
  have hphased : (u.vh j).phase = 2 :=
    (congrArg Veh.phase hcore).trans (congrArg Veh.phase (State.vh_updVh hrwf j _))
  obtain ⟨stop, told, m, hvh⟩ := State.reply_vh (hopen.keeps.wf hrwf) j 1 false
  have hquiet : State.TimingKeeps ((s.stopTimer (.seq j)).stopTimer (.setup j)) (.setup j) (u.respond j 1) :=
    .reply (.joinFound (.refl _) (by simp) (by simp)) (by simp)
  refine ⟨_, hexec, Eq.trans ?_ (State.evccTaken_evcc (State.stopTimer_keeps (.refl s) (.seq j) |>.wf hwf) j ev),
    (congrArg Veh.phase hvh).trans hphased, congrArg Veh.resp hvh, hquiet.trans (State.timing_stopTimer _ _),
    State.timing_respond_seq _ j 1 (by rw [hust]; decide)⟩
  rw [State.evcc, (hshown (evccLo_ofTalk j) (by simp [Fld.beside])).fld_of hrwf, (hshown (evccHi_ofTalk j) (by simp [Fld.beside])).fld_of hrwf,
    State.evcc]

/-- The lost session, named before RESUME_WIN has passed, is resumed. -/
theorem execSessionSetupReq_of_resumed (hlost : (s.vh j).lost = true) (hwin : s.timing (.resume j) = true)
    (hopen : s.due (.resume j) (s.fld VD_GCFG_RESUME_WIN * sec) = false) :
    exec (.sessionSetupReq j (s.sess j) ev) s = .next ((((s.stopTimer (.seq j)).evccTaken j ev).resume j).respond j 1) := by
  obtain ⟨hwf, hclk, hdlg, hst⟩ := State.takesReq_iff.mp h
  let r := (s.stopTimer (.seq j)).evccTaken j ev
  have hsess : s.Leaves (VD_SESS_SESSION j) r := .evccTaken (.stopTimer (.refl s)) (by simp [Fld.beside])
  have hconf : s.Leaves VD_GCFG_RESUME_WIN r := .evccTaken (.stopTimer (.refl s)) (by simp [Fld.beside])
  have hsame : r.sess j = s.sess j := hsess.fld_of hwf
  have hruns : r.timing (.resume j) = true :=
    ((State.timing_stopTimer_of_ne (s.stopTimer (.seq j)) (by simp)).trans (State.timing_stopTimer_of_ne s (by simp))).trans hwin
  have hdue : r.due (.resume j) (r.fld VD_GCFG_RESUME_WIN * sec) = false := by
    rw [hconf.fld_of hwf]
    exact ((State.due_stopTimer_of_ne (s.stopTimer (.seq j)) (by simp) _).trans (State.due_stopTimer_of_ne s (by simp) _)).trans hopen
  refine (State.request_ok hclk hdlg (by simp [hst, hphase]) _).trans (congrArg _ (if_pos ?_))
  show ((s.vh j).lost && s.sess j == r.sess j && r.timing (.resume j) && !r.due (.resume j) (r.fld VD_GCFG_RESUME_WIN * sec)) = true
  rw [hlost, hsame, hruns, hdue]
  simp

end SessionSetup

/-! ### Authorisation entered -/

/-- AUTH entered, with the time of it. -/
def State.authEntered (s : State) (j : Nat) : State := (s.setSState j 3 0).updVh j fun v => { v with authAt := s.now }

/-- A session of its own, paid for externally with no card held at a reader, posts the vehicle's identifier. -/
theorem State.enterAuth_posts {s : State} {j : Nat} (hlead : ((s.authEntered j).vh j).lead = none)
    (hpay : ((s.authEntered j).vh j).payment = 1) (hcard : (s.authEntered j).heldCard j = none) :
    s.enterAuth j = (s.authEntered j).postAuth j 1 (toLE 6 ((s.authEntered j).evcc j)).reverse [] := by
  have hown : ¬(((s.authEntered j).vh j).lead.isSome = true ∧ ((s.authEntered j).vh j).lead ≠ some j) := by
    rw [hlead]
    simp
  refine (if_neg hown).trans ((if_pos hpay).trans ?_)
  simp only [show State.heldCard ((s.setSState j 3 0).updVh j fun v => { v with authAt := s.now }) j = none from hcard]
  rfl

theorem State.Leaves.portShow {f : Fld} {s0 s : State} {n st : Nat} (h : s0.Leaves f s) (hf : f.reg < 0xB0000) :
    s0.Leaves f (s.portShow n st) := .ite h (.setFld h (Fld.sparedBy_of_reg_ne (show f.reg ≠ 0xB0104 + n * 0x20 by omega) (by simp)))

/-- What follows the entry writes no field of a dialogue. -/
theorem State.Leaves.enterAuth {f : Fld} {s : State} {j : Nat} (hf : f.ofTalk = true) (hreg : f.reg < 0xB0000) :
    State.Leaves (s.authEntered j) f (s.enterAuth j) := by
  unfold State.enterAuth
  extract_lets u v
  refine .ite (.refl u) (.ite ?_ (.refl u))
  split
  · next p card _ =>
    extract_lets r w
    have hr : u.Leaves f r := .same_regs (.refl u)
      (State.mk_keeps (.refl _) _ _ _ _ _ _ _ _ _ _ _ _ _ _ _ _ _ _ _ _ _ _ rfl rfl rfl (upd_length ..)) rfl
    exact .told hf (.postAuth hf (.portShow (.startTimer (.stopTimer hr)) hreg))
  · exact .postAuth hf (.refl u)

theorem State.enterAuth_sstate {s : State} (hwf : s.wf = true) (j : Fin 8) : (s.enterAuth j).sstate j = 3 := by
  have hset := State.setSState_sstate hwf j (new := 3) (by decide) 0
  have hentered : (s.authEntered j).wf = true := (State.updVh_keeps (State.setSState_keeps (.refl s) _ _ _) _ _).wf hwf
  exact ((State.Leaves.enterAuth (sstate_ofTalk j) (show 0x50104 + j.val * 0x40 < 0xB0000 by omega)).fld_of hentered).trans hset

/-- The card held for an output is told by its port, the port's configuration and its hold time. -/
theorem State.heldCard_congr {s t : State} {j : Nat} (hnfc : t.nfc = s.nfc) (houts : ∀ p, t.fld (NR_CFG_OUTS p) = s.fld (NR_CFG_OUTS p))
    (hhold : t.fld NR_GCFG_CARD_HOLD = s.fld NR_GCFG_CARD_HOLD) (htiming : ∀ p, t.timing (.cardHold p) = s.timing (.cardHold p))
    (hdue : ∀ p ns, t.due (.cardHold p) ns = s.due (.cardHold p) ns) : t.heldCard j = s.heldCard j := by
  unfold State.heldCard
  simp only [hnfc, houts, hhold, htiming, hdue]

/-- A change of the session state leaves the readers' registers. -/
theorem State.Leaves.setSState_of_reader {f : Fld} (s : State) (j : Fin 8) {new why : Nat} (hf : 0xB0000 ≤ f.reg) :
    s.Leaves f (s.setSState j new why) := by
  have hspared {m l : Nat} (hb : l ≤ m ∧ m < 32) : f.sparedBy ⟨R_VD_STAT j, m, l⟩ = true :=
    Fld.sparedBy_of_reg_ne (show f.reg ≠ 0x50104 + j.val * 0x40 by omega) hb
  exact .ite (.refl s) (.event (.iff (.setFld (.refl s) (hspared (by decide))) fun h => .setFld h (hspared (by decide)))
    (isCupStat_block (by omega)))

/-- No change of a dialogue's state or of its requests' timer concerns the card held. -/
theorem State.heldCard_authEntered {s : State} (hwf : s.wf = true) (j : Fin 8) {g : Veh → Veh} (i : Nat) :
    ((((s.stopTimer (.seq i)).updVh i g).authEntered j).heldCard j) = s.heldCard j := by
  let u := (s.stopTimer (.seq i)).updVh i g
  have hu : s.Keeps u := State.updVh_keeps (State.stopTimer_keeps (.refl s) _) _ _
  have honly : u.OnlyM 1030 (u.setSState j 3 0) := State.setSState_only (.refl u _) rfl j 3 0
  have htimers : (u.setSState j 3 0).timers = u.timers := honly.same .timers rfl
  refine State.heldCard_congr (honly.same .nfc rfl) (fun p => ?_) ?_ (fun p => ?_) fun p ns => ?_
  · exact (State.Leaves.setSState_of_reader u j (show 0xB0000 ≤ 0xB0100 + p * 0x20 by omega)).fld_of (hu.wf hwf)
  · exact (State.Leaves.setSState_of_reader u j (by decide)).fld_of (hu.wf hwf)
  · exact (State.TimingKeeps.same_timers (s := u) (.refl u) htimers).trans (State.timing_stopTimer_of_ne s (by simp))
  · exact (State.due_congr htimers _ ns).trans (State.due_stopTimer_of_ne s (by simp) ns)

/-! ### Resumption -/

section Resume

variable {s : State} (hwf : s.wf = true) (j : Fin 8)

/-- The lost session is taken up again, and told so. -/
def State.takenUp (s : State) (j : Nat) : State :=
  ((s.stopTimer (.resume j)).updVh j fun v => { v with lost := false, endReason := 0, phase := 2, paramDone := false, schedDone := false }).event
    0x0515 [j, s.sess j]

theorem State.resume_eq (s : State) (j : Nat) : ∃ mate, s.resume j =
    if (((s.takenUp j).joinFound j mate).vh j).authOk = true then ((s.takenUp j).joinFound j mate).setSState j 4 0
    else ((s.takenUp j).joinFound j mate).enterAuth j :=
  ⟨(idx 8).find? fun k => ((s.takenUp j).vh j).wasJoined && (s.takenUp j).joinable j k && (s.takenUp j).evcc k == (s.takenUp j).evcc j, rfl⟩

theorem State.takenUp_keeps (s : State) (j : Nat) : s.Keeps (s.takenUp j) :=
  State.event_keeps (State.updVh_keeps (State.stopTimer_keeps (.refl s) _) _ _) _ _

include hwf

/-- A resumed session has the state that its authorisation calls for. -/
theorem State.resume_resumes : ((s.resume j).vh j).lost = false ∧ (s.resume j).timing (.resume j) = false ∧
    (s.resume j).sstate j = (if (s.vh j).authOk = true then 4 else 3) ∧ s.Raised (s.resume j) 0x0515 [j.val, s.sess j] := by
  obtain ⟨mate, hresume⟩ := s.resume_eq j
  let u := (s.takenUp j).joinFound j mate
  have hu : State.Keeps (s.takenUp j) u := (State.Leaves.joinFound (sstate_ofTalk j) (.refl _)).keeps
  have huwf := ((s.takenUp_keeps j).trans hu).wf hwf
  have hcore : State.CoreKeeps (s.takenUp j) j u := .joinFound (.refl _)
  have hresumed : State.CoreKeeps (s.takenUp j) j (s.resume j) := by
    rw [hresume]
    exact .ite (.setSState hcore) (.enterAuth hcore)
  have htaken : (s.takenUp j).vh j = { s.vh j with lost := false, endReason := 0, phase := 2, paramDone := false, schedDone := false } :=
    (State.vh_congr (State.event_veh _ _ _) j).trans (State.vh_updVh (s := s.stopTimer (.resume j)) hwf j _)
  have hauth : (u.vh j).authOk = (s.vh j).authOk := (congrArg Veh.authOk (hcore.trans (congrArg Veh.core htaken))).trans rfl
  have hquiet : State.TimingKeeps (s.stopTimer (.resume j)) (.resume j) u := .joinFound (.event (.refl _)) (by simp) (by simp)
  have htimed : State.TimingKeeps (s.stopTimer (.resume j)) (.resume j) (s.resume j) := by
    rw [hresume]
    exact .ite (.setSState hquiet) (.enterAuth hquiet (by simp) (by simp))
  refine ⟨(congrArg Veh.lost hresumed).trans (congrArg Veh.lost htaken), htimed.trans (State.timing_stopTimer _ _), ?_, ?_⟩
  · rw [hresume, hauth]
    split
    · exact State.setSState_sstate huwf j (by decide) 0
    · exact State.enterAuth_sstate huwf j
  · have hlast : u.Keeps (s.resume j) := by
      rw [hresume]
      split
      · exact State.setSState_keeps (.refl u) _ _ _
      · exact State.enterAuth_keeps (.refl u) _
    exact ((State.event_raised _ _ _).after (State.updVh_keeps (State.stopTimer_keeps (.refl s) _) _ _)).then (hu.trans hlast)

end Resume

/-! ### Services and payment -/

section Services

variable {s : State} {j : Fin 8} (h : s.takesReq j 2 = true)

include h

theorem sessionSetupReq_resumes (hphase : (s.vh j).phase = 1) (ev : BitVec 48) (hlost : (s.vh j).lost = true)
    (hwin : s.timing (.resume j) = true) (hopen : s.due (.resume j) (s.fld VD_GCFG_RESUME_WIN * sec) = false) :
    ∃ t, exec (.sessionSetupReq j (s.sess j) ev) s = .next t ∧ (t.vh j).lost = false ∧ t.timing (.resume j) = false ∧
      t.sstate j = (if (s.vh j).authOk = true then 4 else 3) ∧ s.Raised t 0x0515 [j.val, s.sess j] := by
  obtain ⟨hwf, -, -, -⟩ := State.takesReq_iff.mp h
  let r := (s.stopTimer (.seq j)).evccTaken j ev
  have hsess : s.Leaves (VD_SESS_SESSION j) r := .evccTaken (.stopTimer (.refl s)) (by simp [Fld.beside])
  have hrwf := hsess.keeps.wf hwf
  obtain ⟨hfound, hquiet, hst, hraised⟩ := State.resume_resumes hrwf j
  rw [show r.sess j = s.sess j from hsess.fld_of hwf] at hraised
  have hres := (State.resume_keeps (.refl r) j).wf hrwf
  obtain ⟨stop, told, m, hvh⟩ := State.reply_vh hres j 1 false
  exact ⟨_, execSessionSetupReq_of_resumed h hphase ev hlost hwin hopen, (congrArg Veh.lost hvh).trans hfound,
    (State.TimingKeeps.reply (.refl (r.resume j)) (by simp)).trans hquiet, (State.reply_sstate hres j 1 false).trans hst,
    (hraised.after hsess.keeps).then (State.respond_keeps (.refl _) _ _)⟩

/-- A request answered without more leaves the state, and waits for the next one. -/
theorem State.respond_waits : (((s.stopTimer (.seq j)).respond j 1).vh j).resp = 1 ∧ ((s.stopTimer (.seq j)).respond j 1).sstate j = 2 ∧
    ((s.stopTimer (.seq j)).respond j 1).timing (.seq j) = true := by
  obtain ⟨hwf, -, -, hst⟩ := State.takesReq_iff.mp h
  have hu := (State.stopTimer_keeps (.refl s) (.seq j)).wf hwf
  have hst' : (s.stopTimer (.seq j)).sstate j = 2 := hst
  exact ⟨State.reply_resp hu j 1 false, (State.reply_sstate hu j 1 false).trans hst', State.timing_respond_seq _ j 1 (by rw [hst']; decide)⟩

/-- Before the services were asked for, it is out of sequence. -/
theorem serviceSelectionReq_early (bpt dyn : Bool) (hsvc : (s.vh j).svc = 0) : ∃ t, exec (.serviceSelectionReq j bpt dyn) s = .next t ∧
    (t.vh j).resp = 4 ∧ t.sstate j = 11 ∧ t.fld (VD_STAT_REASON j) = 8 := by
  obtain ⟨hwf, hclk, hdlg, hst⟩ := State.takesReq_iff.mp h
  have hst' : (s.stopTimer (.seq j)).sstate j = 2 := hst
  obtain ⟨hend, hreason, hresp⟩ :=
    State.seqError_ends ((State.stopTimer_keeps (.refl s) (.seq j)).wf hwf) j (.inl (by rw [hst']; decide))
  exact ⟨_, State.request_not_ok hclk hdlg (by simp [hsvc]) _, hresp, hend, hreason⟩

section Offered

variable (hphase : 2 ≤ (s.vh j).phase)

include hphase

theorem State.svcOk_of_setup : s.svcOk j = true := by
  obtain ⟨-, -, -, hst⟩ := State.takesReq_iff.mp h
  simp [State.svcOk, hst, hphase]

/-- The services offered are the output's own, and the bidirectional one where its conditions hold. -/
theorem serviceDiscoveryReq_answered : ∃ t, exec (.serviceDiscoveryReq j) s = .next t ∧ (t.vh j).resp = 1 ∧ t.sstate j = 2 ∧
    t.timing (.seq j) = true ∧ 1 ≤ (t.vh j).svc ∧ (t.vh j).msg.services = s.offer j := by
  obtain ⟨hwf, hclk, hdlg, -⟩ := State.takesReq_iff.mp h
  obtain ⟨hresp, hst, hseq⟩ := State.respond_waits h
  have hrwf := (State.respond_keeps (State.stopTimer_keeps (.refl s) (.seq j)) j 1).wf hwf
  have hvh := State.vh_updVh hrwf j fun v => { v with svc := max v.svc 1, msg := { v.msg with services := (s.stopTimer (.seq j)).offer j } }
  refine ⟨_, State.request_ok hclk hdlg (State.svcOk_of_setup h hphase) _, (congrArg Veh.resp hvh).trans hresp, hst, hseq, ?_,
    congrArg (·.msg.services) hvh⟩
  exact le_of_le_of_eq (Nat.le_max_right _ 1) (congrArg Veh.svc hvh).symm

theorem serviceDetailReq_answered (hproto : 2 ≤ s.proto j) (hsvc : 1 ≤ (s.vh j).svc) :
    ∃ t, exec (.serviceDetailReq j) s = .next t ∧ (t.vh j).resp = 1 ∧ t.sstate j = 2 ∧ t.timing (.seq j) = true := by
  obtain ⟨-, hclk, hdlg, -⟩ := State.takesReq_iff.mp h
  exact ⟨_, State.request_ok hclk hdlg (by simp [State.svcOk_of_setup h hphase, hproto, hsvc]) _, State.respond_waits h⟩

variable (hproto : s.proto j = 3)

include hproto

/-- The service selected is kept for the session. -/
theorem serviceSelectionReq_taken {bpt : Bool} (dyn : Bool) (hsvc : 1 ≤ (s.vh j).svc) (hoffer : bpt = false ∨ s.bptOffered j = true) :
    ∃ t, exec (.serviceSelectionReq j bpt dyn) s = .next t ∧ (t.vh j).bpt = bpt ∧ (t.vh j).dynamic = dyn ∧ (t.vh j).resp = 1 := by
  obtain ⟨hwf, hclk, hdlg, -⟩ := State.takesReq_iff.mp h
  have hu := (State.stopTimer_keeps (.refl s) (.seq j)).wf hwf
  have htaken := State.updVh_keeps (.refl (s.stopTimer (.seq j))) j fun v => { v with bpt := bpt, dynamic := dyn, svc := 2 }
  obtain ⟨stop, told, m, hvh⟩ := State.reply_vh (htaken.wf hu) j 1 false
  have hold := State.vh_updVh hu j fun v => { v with bpt := bpt, dynamic := dyn, svc := 2 }
  refine ⟨_, (State.request_ok hclk hdlg (by simp [State.svcOk_of_setup h hphase, hproto, hsvc]) _).trans (congrArg _ (if_neg ?_)),
    (congrArg Veh.bpt hvh).trans (congrArg Veh.bpt hold), (congrArg Veh.dynamic hvh).trans (congrArg Veh.dynamic hold), congrArg Veh.resp hvh⟩
  rw [show (s.stopTimer (.seq j)).bptOffered j = s.bptOffered j from rfl]
  rcases hoffer with hoffer | hoffer <;> simp [hoffer]

/-- A bidirectional service that is not offered is refused. -/
theorem serviceSelectionReq_refused (dyn : Bool) (hsvc : 1 ≤ (s.vh j).svc) (hoffer : s.bptOffered j = false) :
    ∃ t, exec (.serviceSelectionReq j true dyn) s = .next t ∧ (t.vh j).resp = 5 ∧ (t.vh j).bpt = (s.vh j).bpt ∧
      s.Raised t 0x0516 [j.val, s.sess j] := by
  obtain ⟨hwf, hclk, hdlg, -⟩ := State.takesReq_iff.mp h
  have hu := State.stopTimer_keeps (.refl s) (.seq j)
  obtain ⟨stop, told, m, hvh⟩ := State.reply_vh (State.event_wf (hu.wf hwf) 0x0516 [j.val, s.sess j]) j 5 false
  rw [State.vh_congr (State.event_veh (s.stopTimer (.seq j)) 0x0516 _) j] at hvh
  refine ⟨_, (State.request_ok hclk hdlg (by simp [State.svcOk_of_setup h hphase, hproto, hsvc]) _).trans (congrArg _ (if_pos ?_)),
    congrArg Veh.resp hvh, (congrArg Veh.bpt hvh).trans rfl, ((State.event_raised _ _ _).after hu).then (State.respond_keeps (.refl _) _ _)⟩
  rw [show (s.stopTimer (.seq j)).bptOffered j = false from hoffer]
  rfl

end Offered

/-- The payment is taken, for which AUTH is entered. -/
def State.payExternally (s : State) (j : Nat) : State := (s.stopTimer (.seq j)).updVh j fun v => { v with payment := 1, phase := 3 }

theorem execPaymentSelectionReq_of_external (hphase : 2 ≤ (s.vh j).phase) (heim : s.flag (VD_CFG_EIM j) = true) (hproto : s.proto j ≠ 2)
    (hsvc : s.proto j = 3 ∨ 1 ≤ (s.vh j).svc) :
    exec (.paymentSelectionReq j false) s = .next (((s.payExternally j).enterAuth j).respond j 1) := by
  obtain ⟨-, hclk, hdlg, hst⟩ := State.takesReq_iff.mp h
  refine (State.request_ok hclk hdlg (by rcases hsvc with hsvc | hsvc <;> simp [hst, hphase, hsvc]) _).trans (congrArg _ (if_pos ?_))
  simp [heim, show (s.stopTimer (.seq j)).proto j ≠ 2 from hproto]

/-- External payment enters AUTH, and posts a request for the host. -/
theorem paymentSelectionReq_posts (hphase : 2 ≤ (s.vh j).phase) (heim : s.flag (VD_CFG_EIM j) = true) (hproto : s.proto j ≠ 2)
    (hsvc : s.proto j = 3 ∨ 1 ≤ (s.vh j).svc) (hlead : (s.vh j).lead = none) (hcard : s.heldCard j = none) :
    ∃ t, exec (.paymentSelectionReq j false) s = .next t ∧ t.sstate j = 3 ∧ (t.vh j).payment = 1 ∧ (t.vh j).resp = 1 ∧
      (t.vh j).authReq = some s.vehc.nextReq ∧ t.timing (.auth j) = true ∧ s.Raised t 0x0501 [j.val, s.sess j, 2, 3, 0] := by
  obtain ⟨hwf, -, -, hst⟩ := State.takesReq_iff.mp h
  let u := s.payExternally j
  have hu : s.Keeps u := State.updVh_keeps (State.stopTimer_keeps (.refl s) _) _ _
  have huwf := hu.wf hwf
  have hentered : u.Keeps (u.authEntered j) := State.updVh_keeps (State.setSState_keeps (.refl u) _ _ _) _ _
  have hset : (u.setSState j 3 0).wf = true := (State.setSState_keeps (.refl u) _ _ _).wf huwf
  have honly := State.setSState_only (.refl u 1030) rfl j 3 0
  have hpaid : u.vh j = { s.vh j with payment := 1, phase := 3 } := State.vh_updVh (s := s.stopTimer (.seq j)) hwf j _
  have hvh : (u.authEntered j).vh j = { u.vh j with authAt := u.now } :=
    (State.vh_updVh hset j _).trans (congrArg (fun v : Veh => { v with authAt := u.now }) (State.vh_congr (honly.same .veh rfl) j))
  have hposts := State.enterAuth_posts ((congrArg Veh.lead hvh).trans ((congrArg Veh.lead hpaid).trans hlead))
    ((congrArg Veh.payment hvh).trans (congrArg Veh.payment hpaid)) ((State.heldCard_authEntered hwf j j).trans hcard)
  have hposted := State.postAuth_authReq (hentered.wf huwf) j 1 (toLE 6 ((u.authEntered j).evcc j)).reverse []
  rw [← hposts, show (u.authEntered j).vehc = s.vehc from honly.same .vehc rfl] at hposted
  have hcore : State.CoreKeeps u j (u.enterAuth j) := .enterAuth (.refl u)
  have hauth := State.enterAuth_keeps (.refl u) j
  obtain ⟨stop, told, m, hreply⟩ := State.reply_vh (hauth.wf huwf) j 1 false
  have hne : u.sstate j ≠ 3 := fun hu => absurd (hst.symm.trans hu) (by decide)
  have hraised : u.Raised (u.setSState j 3 0) 0x0501 [j.val, s.sess j, s.sstate j, 3, 0] := State.setSState_raised huwf j hne 0
  rw [hst] at hraised
  refine ⟨_, execPaymentSelectionReq_of_external h hphase heim hproto hsvc, (State.reply_sstate (hauth.wf huwf) j 1 false).trans
      (State.enterAuth_sstate huwf j), ?_, congrArg Veh.resp hreply, (congrArg Veh.authReq hreply).trans hposted,
    (State.TimingKeeps.reply (.refl (u.enterAuth j)) (by simp)).trans ?_, ?_⟩
  · exact (congrArg Veh.payment hreply).trans ((congrArg Veh.payment (hcore.trans (congrArg Veh.core hpaid))).trans rfl)
  · rw [hposts]
    exact State.timing_postAuth _ _ _ _ _
  · have hlast : State.Keeps (u.setSState j 3 0) (u.enterAuth j) := by
      rw [hposts]
      exact State.postAuth_keeps (State.updVh_keeps (.refl _) _ _) _ _ _ _
    exact ((hraised.after hu).then hlast).then (State.respond_keeps (.refl _) _ _)

end Services

/-- The output's own service is offered, and with it the bidirectional one where its conditions hold. -/
theorem State.mem_offer (s : State) (j : Nat) : ((if s.ccs j = true then SvcKind.dc else .mcs) ∈ s.offer j) ∧
    ((if s.ccs j = true then SvcKind.dcBpt else .mcsBpt) ∈ s.offer j ↔ s.bptOffered j = true) := by
  unfold State.offer
  split <;> cases s.bptOffered j <;> simp

end Sys2Proof.Machine

open Sys2Proof Sys2Proof.Machine

/-- Settles O40, request by request in the order of Table 6.5. -/
theorem sessionsAreSetUp : Obligations.SessionsAreSetUp := by
  intro s j h
  refine ⟨fun din iso2 iso20 hphase htcp => ⟨fun p hp => supportedAppProtocolReq_selects h hphase htcp hp,
      supportedAppProtocolReq_ends h hphase htcp⟩,
    fun session ev hphase hlost => sessionSetupReq_answered h hphase ev hlost session,
    fun ev hphase hlost hwin hopen => sessionSetupReq_resumes h hphase ev hlost hwin hopen, fun hphase => ⟨?_,
    fun hproto hsvc bpt dyn => serviceSelectionReq_early h bpt dyn hsvc,
    serviceDetailReq_answered h hphase,
    fun bpt dyn hproto hsvc hoffer => serviceSelectionReq_taken h hphase hproto dyn hsvc hoffer,
    fun dyn hproto hsvc hoffer => serviceSelectionReq_refused h hphase hproto dyn hsvc hoffer,
    paymentSelectionReq_posts h hphase⟩⟩
  obtain ⟨t, hexec, hresp, hst, hseq, hsvc, hservices⟩ := serviceDiscoveryReq_answered h hphase
  refine ⟨t, hexec, hresp, hst, hseq, hsvc, ?_⟩
  rw [hservices]
  exact s.mem_offer j
end

section
/-!
Signalling (spec/06 R135, R136, R137, R145): what an accepted state of the pilot or of the ID line does.
-/

namespace Sys2Proof.Machine

open Sys2Proof

/-! ### Conditions outside the dialogue -/

/-- A field outside the registers of the vehicle dialogues. -/
def Fld.outsideTalk (f : Fld) : Bool := decide (f.reg < 0x50000 ∨ 0x60000 ≤ f.reg)

theorem Fld.reg_ne_of_outside {f : Fld} (hf : f.outsideTalk = true) (j : Fin 8) {b : Nat} (hb : 0x50000 ≤ b ∧ b < 0x5FE00) :
    f.reg ≠ b + j.val * 0x40 := by
  simp only [Fld.outsideTalk, decide_eq_true_eq] at hf
  omega

theorem Fld.sparedBy_row_of_outside {f : Fld} (hf : f.outsideTalk = true) (j : Fin 8) {b m l : Nat} (hb : 0x50000 ≤ b ∧ b < 0x5FE00)
    (hm : l ≤ m ∧ m < 32) : f.sparedBy ⟨b + j.val * 0x40, m, l⟩ = true := Fld.sparedBy_of_reg_ne (Fld.reg_ne_of_outside hf j hb) hm

theorem Fld.outsideTalk_outCfg (j : Fin 8) (m l : Nat) : (⟨R_OUT_CFG j, m, l⟩ : Fld).outsideTalk = true :=
  decide_eq_true (.inl (show 0x40100 + j.val * 0x40 < 0x50000 by omega))

theorem Fld.outsideTalk_pair (j : Nat) : (SP_OUT_0_PAIR j).outsideTalk = true :=
  decide_eq_true (.inr (show 0x60000 ≤ 0x80200 + j * 0x10 by omega))

section Outside

variable {s t : State} (j : Fin 8) (hfld : ∀ f : Fld, f.outsideTalk = true → t.fld f = s.fld f)

include hfld

theorem State.ccs_congr : t.ccs j = s.ccs j := by
  rw [State.ccs, hfld _ (Fld.outsideTalk_outCfg j _ _), State.ccs]

/-- Whether the output is served does not hang on its dialogue. -/
theorem State.served_congr (hlinkc : t.linkc = s.linkc) : t.served j = s.served j := by
  have hflag (f : Fld) (hf : f.outsideTalk = true) : t.flag f = s.flag f := by rw [State.flag, hfld f hf, State.flag]
  have hmode : t.mode = s.mode := hfld _ (by decide)
  have hvc : t.outVc j = s.outVc j := hfld _ (Fld.outsideTalk_outCfg j _ _)
  have hvariant : t.nOuts = s.nOuts := by rw [State.nOuts, hfld _ (by decide), State.nOuts]
  have hcore : t.coreRuns (3 + s.outVc j) = s.coreRuns (3 + s.outVc j) := by rw [State.coreRuns, hfld _ rfl, State.coreRuns]
  simp only [State.served, State.tok, State.running, hflag (OUT_CFG_EN j) (Fld.outsideTalk_outCfg j _ _),
    hflag CQ_GCFG_TWIN_EN (by decide), hflag CQ_GCFG_TOK (by decide), hmode, hvc, hvariant, hcore, hlinkc]

/-- Nor does whether it is free for a session. -/
theorem State.outFree_congr (hisl : t.isl = s.isl) (hglb : t.glb = s.glb) (hces : t.ces = s.ces) : t.outFree j = s.outFree j := by
  have hce : t.outCe j = s.outCe j := hfld _ (Fld.outsideTalk_outCfg j _ _)
  have hpair : t.pairOf j = s.pairOf j := by rw [State.pairOf, hfld _ (Fld.outsideTalk_pair j), State.pairOf]
  simp only [State.outFree, State.io, State.so, State.ce, hce, hpair, hisl, hglb, hces]

end Outside

/-! ### A session opened -/

theorem State.Leaves.untold {f : Fld} {s0 s : State} {j : Nat} (h : s0.Leaves f s) : s0.Leaves f (s.untold j) :=
  h.same_regs (State.untold_keeps (.refl s) j) rfl

/-- The dialogue and the number of a new session. -/
def State.numbered (s : State) (j : Nat) : State :=
  let n := s.vehc.nextSession
  let s : State := { s with vehc := { s.vehc with nextSession := (n + 1) % 2 ^ 32 } }
  let s := s.updVh j fun v => { Veh.idle with drive := s.driveOf j 1, idState := v.idState, lockCmd := v.lockCmd, price := v.price, holdI := v.holdI }
  (s.untold j).setFld (VD_SESS_SESSION j) n

/-- Then nothing is shown of the vehicle's protocol and identifier. -/
def State.opening (s : State) (j : Nat) : State :=
  (((s.numbered j).setFld (VD_STAT_PROTO j) 0).setReg (R_VD_EVCC_LO j) 0).setReg (R_VD_EVCC_HI j) 0

theorem State.plugIn_of_free {s : State} {j : Nat} (h : s.sstate j = 0 ∧ s.served j = true ∧ s.outFree j = true) :
    s.plugIn j = ((s.opening j).setSState j 1 0).iff ((s.opening j).ccs j) (·.startTimer (.slac j)) := if_pos h

theorem State.Leaves.numbered {f : Fld} (s : State) (j : Nat) (hf : f.sparedBy (VD_SESS_SESSION j) = true) : s.Leaves f (s.numbered j) :=
  .setFld (.untold (.updVh (.updVehc (.refl s)))) hf

theorem State.Leaves.opening {f : Fld} {s0 s : State} {j : Nat} (h : s0.Leaves f (s.numbered j)) (hproto : f.sparedBy (VD_STAT_PROTO j) = true)
    (hevcc : f.reg ≠ R_VD_EVCC_LO j ∧ f.reg ≠ R_VD_EVCC_HI j) : s0.Leaves f (s.opening j) :=
  .setReg (.setReg (.setFld h hproto) hevcc.1) hevcc.2

theorem State.numbered_sess {s : State} (hwf : s.wf = true) (j : Nat) : (s.numbered j).sess j = s.vehc.nextSession % 2 ^ 32 := by
  let r : State := { s with vehc := { s.vehc with nextSession := (s.vehc.nextSession + 1) % 2 ^ 32 } }
  have hr : r.wf = true := hwf
  exact State.fld_setFld ((State.untold_keeps (State.updVh_keeps (.refl r) j _) j).wf hr) _ _ (by simp) (by simp)

/-- A free idle output that is served takes the next session. -/
theorem State.plugIn_opens {s : State} (hwf : s.wf = true) (j : Fin 8) (hidle : s.sstate j = 0) (hserved : s.served j = true)
    (hfree : s.outFree j = true) : (s.plugIn j).sstate j = 1 ∧ (s.plugIn j).sess j = s.vehc.nextSession % 2 ^ 32 ∧
      (s.ccs j = true → (s.plugIn j).timing (.slac j) = true) ∧
      s.Raised (s.plugIn j) 0x0501 [j.val, s.vehc.nextSession % 2 ^ 32, 0, 1, 0] := by
  have hstate : s.Leaves (VD_STAT_SSTATE j) (s.opening j) :=
    .opening (.numbered s j (by simp [Fld.sparedBy, Fld.apart])) (by simp [Fld.sparedBy, Fld.apart]) (by simp)
  have hwf' := hstate.keeps.wf hwf
  have hnumbered : (s.numbered j).wf = true := (State.Leaves.numbered (f := VD_STAT_SSTATE j) s j (by simp [Fld.sparedBy, Fld.apart])).keeps.wf hwf
  have hshown : State.Leaves (s.numbered j) (VD_SESS_SESSION j) (s.opening j) := .opening (.refl _) (by simp [Fld.sparedBy, Fld.apart]) (by simp)
  have hsess : (s.opening j).sess j = s.vehc.nextSession % 2 ^ 32 := (hshown.fld_of hnumbered).trans (State.numbered_sess hwf j)
  have hccs : (s.opening j).ccs j = s.ccs j := State.ccs_congr j fun f hf => by
    have hspared {b m l : Nat} := Fld.sparedBy_row_of_outside hf j (b := b) (m := m) (l := l)
    have hreg {b : Nat} := Fld.reg_ne_of_outside hf j (b := b)
    exact (State.Leaves.opening (.numbered s j (hspared (by decide) (by decide))) (hspared (by decide) (by decide))
      ⟨hreg (by decide), hreg (by decide)⟩).fld_of hwf
  have hraised := State.setSState_raised hwf' j (new := 1) (by rw [show (s.opening j).sstate j = 0 from (hstate.fld_of hwf).trans hidle]; decide) 0
  rw [hsess, show (s.opening j).sstate j = 0 from (hstate.fld_of hwf).trans hidle] at hraised
  have hlast : State.Keeps ((s.opening j).setSState j 1 0) (s.plugIn j) := by
    rw [State.plugIn_of_free ⟨hidle, hserved, hfree⟩]
    exact State.iff_keeps (.refl _) _ _ fun _ h => State.startTimer_keeps h _
  have hleft {f : Fld} (hf : f.ofTalk = true) : State.Leaves ((s.opening j).setSState j 1 0) f (s.plugIn j) := by
    rw [State.plugIn_of_free ⟨hidle, hserved, hfree⟩]
    exact .iff (.refl _) .startTimer
  have hset := (State.setSState_keeps (.refl (s.opening j)) j 1 0).wf hwf'
  refine ⟨((hleft (sstate_ofTalk j)).fld_of hset).trans (State.setSState_sstate hwf' j (by decide) 0), ?_, fun hon => ?_,
    (hraised.after hstate.keeps).then hlast⟩
  · exact ((hleft (sess_ofTalk j)).fld_of hset).trans
      (((State.Leaves.setSState (sess_ofTalk j) (.refl _) (sess_beside_state j)).fld_of hwf').trans hsess)
  · rw [State.plugIn_of_free ⟨hidle, hserved, hfree⟩, hccs, hon]
    exact State.timing_startTimer _ _

/-! ### A connector pulled, and a fault of the signalling -/

/-- What pulling the connector leaves of a session, before its state is idle. -/
def State.unplugging (s : State) (j : Nat) : State :=
  ((((((((s.quiet j).stopTimer (.resume j)).stopTimer (.join j)).leaveJoin j).dropReqs j).updVh j fun v =>
    { Veh.idle with
      idState := v.idState, lockCmd := v.lockCmd, started := v.started, price := v.price, holdI := v.holdI
      endReason := if (s.sstate j != 0 && s.sstate j != 11 && s.sstate j != 12) = true then 17 else v.endReason }).tlsDown j).setFlag
        (VD_STAT_LINK j) false)

theorem State.unplug_of_available {s : State} {j : Nat} (h : s.sstate j ≠ 13) :
    s.unplug j = (s.unplugging j).setSState j 0 (if (s.sstate j != 0 && s.sstate j != 11 && s.sstate j != 12) = true then 17 else 0) := if_neg h

/-- What a fault of the signalling leaves of a session, before its state shows it. -/
def State.faulting (s : State) (j : Nat) : State :=
  ((((((s.endPause j).quiet j).stopTimer (.resume j)).leaveJoin j).dropReqs j).updVh j fun v =>
    { v with lost := false, row := VehRow.rest, pairAsked := false, evseStop := 0, stopTold := false }).iff
      (s.sstate j != 0 && s.sstate j != 11 && s.sstate j != 12) (·.setFld (VD_STAT_REASON j) 0)

theorem State.signalFault_eq (s : State) (j : Nat) : s.signalFault j = (s.faulting j).setSState j 12 0 := rfl

/-- The fields that show the session state and the links. -/
abbrev linkFlds (j : Nat) : List Fld := [VD_STAT_SSTATE j, VD_STAT_REASON j, VD_STAT_TLS j, VD_STAT_LINK j]

theorem stateFlds_of_linkFlds {f : Fld} {j : Nat} (hf : (linkFlds j).all f.beside = true) : (stateFlds j).all f.beside = true :=
  List.all_eq_true.mpr fun g hg => List.all_eq_true.mp hf g (by simp only [List.mem_cons] at hg ⊢; tauto)

namespace State.Leaves

variable {f : Fld} {s0 s : State} {j : Nat}

theorem tlsDown (h : s0.Leaves f s) (ht : f.beside (VD_STAT_TLS j) = true) : s0.Leaves f (s.tlsDown j) :=
  .setFlag (.updVh h) (Fld.sparedBy_of_beside ht)

variable (hf : f.ofTalk = true)

include hf

theorem unplugging (h : s0.Leaves f s) (hl : (linkFlds j).all f.beside = true) : s0.Leaves f (s.unplugging j) := by
  have hfs {g : Fld} (hg : g ∈ linkFlds j) := List.all_eq_true.mp hl g hg
  have hgone : s0.Leaves f ((((s.quiet j).stopTimer (.resume j)).stopTimer (.join j)).leaveJoin j) :=
    leaveJoin hf (.stopTimer (.stopTimer (.quiet h)))
  exact .setFlag (.tlsDown (.updVh (dropReqs hf hgone)) (hfs (by simp))) (Fld.sparedBy_of_beside (hfs (by simp)))

theorem unplug (h : s0.Leaves f s) (hl : (linkFlds j).all f.beside = true) : s0.Leaves f (s.unplug j) :=
  .ite h (setSState hf (unplugging hf h hl) (stateFlds_of_linkFlds hl))

theorem faulting (h : s0.Leaves f s) (hst : (stateFlds j).all f.beside = true) : s0.Leaves f (s.faulting j) :=
  .iff (.updVh (dropReqs hf (leaveJoin hf (.stopTimer (.quiet (.endPause h)))))) fun h => .setFld h (Fld.sparedBy_of_all hst (by simp))

theorem signalFault (h : s0.Leaves f s) (hst : (stateFlds j).all f.beside = true) : s0.Leaves f (s.signalFault j) := by
  rw [State.signalFault_eq]
  exact setSState hf (faulting hf h hst) hst

theorem plugIn (h : s0.Leaves f s) (hst : (stateFlds j).all f.beside = true) (hsess : f.beside (VD_SESS_SESSION j) = true)
    (hproto : f.beside (VD_STAT_PROTO j) = true) (hevcc : f.reg ≠ R_VD_EVCC_LO j ∧ f.reg ≠ R_VD_EVCC_HI j) : s0.Leaves f (s.plugIn j) := by
  have hopening : s0.Leaves f (s.opening j) :=
    .opening (h.trans (.numbered s j (Fld.sparedBy_of_beside hsess))) (Fld.sparedBy_of_beside hproto) hevcc
  exact .ite (.iff (setSState hf hopening hst) .startTimer) h

end State.Leaves

section Signals

variable {s : State} (hwf : s.wf = true) (j : Fin 8)

include hwf

theorem State.unplug_sstate (h : s.sstate j ≠ 13) : (s.unplug j).sstate j = 0 := by
  have hwf' := (State.Leaves.unplugging (f := VD_SESS_SESSION j) (j := j) (sess_ofTalk j) (.refl s) (by simp [Fld.beside])).keeps.wf hwf
  rw [State.unplug_of_available h]
  exact State.setSState_sstate hwf' j (by decide) _

theorem State.signalFault_sstate : (s.signalFault j).sstate j = 12 :=
  State.setSState_sstate ((State.Leaves.faulting (sess_ofTalk j) (.refl s) (sess_beside_state j)).keeps.wf hwf) j (by decide) 0

end Signals

/-! ### Accepted states -/

/-- A newly invalid state is counted and told. -/
def State.signalInvalid (s : State) (j : Nat) : State := (s.inc (VD_ERR_PILOT j)).event 0x0502 [j, s.sess j]

theorem pilot_ofTalk (j : Nat) : (VD_STAT_PILOT j).ofTalk = true := Fld.ofTalk_row (by decide) j
theorem pilotErr_ofTalk (j : Nat) : (VD_ERR_PILOT j).ofTalk = true := Fld.ofTalk_row (by decide) j

/-- The two levels of the pilot shown. -/
def State.levelsShown (s : State) (j : Nat) (high low : Int) : State := (s.setFldS (VD_PILOT_HIGH j) high).setFldS (VD_PILOT_LOW j) low

theorem State.Leaves.levelsShown {f : Fld} {s0 s : State} {j : Nat} {high low : Int} (h : s0.Leaves f s)
    (hhigh : f.sparedBy (VD_PILOT_HIGH j) = true) (hlow : f.sparedBy (VD_PILOT_LOW j) = true) : s0.Leaves f (s.levelsShown j high low) :=
  .setFldS (.setFldS h hhigh) hlow

/-- A fault of the signalling that is counted and told, and perhaps told once more. -/
theorem State.invalid_faults {s u : State} (hwf : s.wf = true) (j : Fin 8) (hu : (s.signalInvalid j).Leaves (VD_ERR_PILOT j) u) :
    (u.signalFault j).sstate j = 12 ∧ s.Raised (u.signalFault j) 0x0502 [j.val, s.sess j] ∧
      (u.signalFault j).fld (VD_ERR_PILOT j) = min 255 (s.fld (VD_ERR_PILOT j) + 1) := by
  have hinc : s.Keeps (s.inc (VD_ERR_PILOT j)) := State.inc_keeps (.refl s) _
  have hraised : s.Raised (s.signalInvalid j) 0x0502 [j.val, s.sess j] := (State.event_raised _ _ _).after hinc
  have hkeeps : s.Keeps (s.signalInvalid j) := State.event_keeps hinc _ _
  have hshown : State.Leaves (s.inc (VD_ERR_PILOT j)) (VD_ERR_PILOT j) (u.signalFault j) :=
    .signalFault (pilotErr_ofTalk j) ((State.Leaves.told (pilotErr_ofTalk j) (.refl _)).trans hu) (by simp [Fld.beside])
  refine ⟨State.signalFault_sstate (hu.keeps.wf (hkeeps.wf hwf)) j, (hraised.then hu.keeps).then (State.signalFault_keeps (.refl u) _), ?_⟩
  exact (hshown.fld_of (hinc.wf hwf)).trans ((State.fld_setSat hwf (by simp) (by simp) _).trans (Nat.min_comm _ _))

section AcceptPilot

variable (s : State) (j : Fin 8) (d : Bool)

theorem State.acceptPilot_unplugged : s.acceptPilot j 0 d = (s.setFld (VD_STAT_PILOT j) 0).unplug j := by
  unfold State.acceptPilot
  rw [if_neg (show (0 : Nat) ≠ 6 by decide), if_pos rfl]

theorem State.acceptPilot_charging {st : Nat} (h : 2 ≤ st ∧ st ≤ 4) : s.acceptPilot j st d = s.setFld (VD_STAT_PILOT j) st :=
  (if_neg (by omega)).trans ((if_neg (by omega)).trans (if_neg (by omega)))

theorem State.acceptPilot_invalid (hnew : s.fld (VD_STAT_PILOT j) ≠ 6) : s.acceptPilot j 6 d =
    (((s.setFld (VD_STAT_PILOT j) 6).signalInvalid j).iff d fun u => u.event 0x0503 [j, u.sess j]).signalFault j :=
  if_neg hnew

theorem State.acceptPilot_plugged {s : State} (hwf : s.wf = true) (j : Fin 8) (d : Bool) (hidle : s.sstate j = 0) (hccs : s.ccs j = true) :
    s.acceptPilot j 1 d = (s.setFld (VD_STAT_PILOT j) 1).plugIn j := by
  let r := s.setFld (VD_STAT_PILOT j) 1
  have hstate : s.Leaves (VD_STAT_SSTATE j) r := .setFld (.refl s) (by simp [Fld.sparedBy, Fld.apart])
  have hidle' : r.sstate j = 0 := (hstate.fld_of hwf).trans hidle
  have hccs' : r.ccs j = true := (State.ccs_congr j fun f hf => (State.Leaves.setFld (.refl s)
    (Fld.sparedBy_row_of_outside hf j (by decide) (by decide))).fld_of hwf).trans hccs
  have hfirst : ¬(r.sstate j = 7 ∧ s.fld (VD_STAT_PILOT j) = 2) := fun h => absurd (hidle'.symm.trans h.1) (by decide)
  unfold State.acceptPilot
  extract_lets old u
  rw [if_neg (show (1 : Nat) ≠ 6 by decide), if_neg (show (1 : Nat) ≠ 0 by decide), if_pos rfl, if_neg hfirst, if_pos (.inl hccs')]

/-- The pilot's state is shown whatever follows from it. -/
theorem State.acceptPilot_pilot {s : State} (hwf : s.wf = true) (j : Fin 8) (st : Nat) (d : Bool) :
    (s.acceptPilot j st d).fld (VD_STAT_PILOT j) = st % 16 := by
  let r := s.setFld (VD_STAT_PILOT j) st
  have hset : r.fld (VD_STAT_PILOT j) = st % 16 := State.fld_setFld hwf _ _ (by simp) (by simp)
  have hf := pilot_ofTalk j
  have hst : (stateFlds j).all (VD_STAT_PILOT j).beside = true := by simp [Fld.beside]
  have hleft : r.Leaves (VD_STAT_PILOT j) (s.acceptPilot j st d) := by
    unfold State.acceptPilot
    refine .ite (.ite (.refl r) ?_) (.ite (.unplug hf (.refl r) (by simp [Fld.beside])) (.ite (.ite (.stopNow hf (.refl r) hst)
      (.ite (.plugIn hf (.refl r) hst (by simp [Fld.beside]) (by simp [Fld.beside]) (by simp)) (.refl r))) (.refl r)))
    exact .signalFault hf (.iff (.told hf (.setSat (.refl r) (Fld.sparedBy_of_beside (by simp [Fld.beside])))) (.told hf)) hst
  exact (hleft.fld_of (State.setFld_wf hwf _ _)).trans hset

end AcceptPilot

section Accepted

variable {s : State} (hwf : s.wf = true) (j : Fin 8)

include hwf

/-- What the levels shown leave of the conditions for a new session. -/
theorem State.plugIn_of_accepted {u : State} (hu : s.Keeps u) (hfld : ∀ f : Fld, f.outsideTalk = true → u.fld f = s.fld f)
    (hstate : u.sstate j = s.sstate j) (hrest : u.linkc = s.linkc ∧ u.isl = s.isl ∧ u.glb = s.glb ∧ u.ces = s.ces ∧ u.vehc = s.vehc)
    (hserved : s.served j = true) (hidle : s.sstate j = 0) (hfree : s.outFree j = true) :
    (u.plugIn j).sstate j = 1 ∧ (u.plugIn j).sess j = s.vehc.nextSession % 2 ^ 32 ∧ (s.ccs j = true → (u.plugIn j).timing (.slac j) = true) ∧
      s.Raised (u.plugIn j) 0x0501 [j.val, s.vehc.nextSession % 2 ^ 32, 0, 1, 0] := by
  obtain ⟨hlinkc, hisl, hglb, hces, hvehc⟩ := hrest
  obtain ⟨hplugged, hsess, hslac, hraised⟩ := State.plugIn_opens (hu.wf hwf) j (hstate.trans hidle)
    ((State.served_congr j hfld hlinkc).trans hserved) ((State.outFree_congr j hfld hisl hglb hces).trans hfree)
  rw [hvehc] at hsess hraised
  exact ⟨hplugged, hsess, fun hon => hslac ((State.ccs_congr j hfld).trans hon), hraised.after hu⟩

end Accepted

/-- Four equal evaluations of the pilot are accepted. -/
theorem execPilotStateAccepted_of_equal {s : State} {j : Fin 8} (hclk : s.clocked = true) (hserved : s.served j = true)
    (hccs : s.ccs j = true) {h l : List Int} {st : Nat} {d : Bool} (hh : h.length = 4) (hl : l.length = 4)
    (heval : (h.zip l).map (fun p => s.pilotEval j p.1 p.2) = [(st, d), (st, d), (st, d), (st, d)]) :
    exec (.pilotStateAccepted j h l) s = .next ((s.levelsShown j (nth 0 h 3) (nth 0 l 3)).acceptPilot j st d) := by
  have hzip : h.zip (l ++ List.replicate h.length 0) = h.zip l := by
    rw [← List.append_nil h, List.zip_append (by simp [hh, hl])]
    simp
  refine (State.live_next hclk _).trans (congrArg _ ?_)
  simp only [hzip, heval, hccs, hserved, beq_self_eq_true, Bool.and_self, if_true]
  rfl

/-- What was last accepted of the ID line. -/
def State.idShown (s : State) (j st : Nat) (d : Int) : State :=
  (s.setFldS (VD_PILOT_LOW j) (d / 10)).updVh j fun v => { v with idState := st }

/-- What an accepted state of the ID line does. -/
def State.acceptId (s : State) (j st : Nat) (d : Int) : State :=
  let u := s.idShown j st d
  match st with
  | 0 => u.unplug j
  | 1 => if u.fld (VD_STAT_PILOT j) = 1 then u.plugIn j else u
  | _ => u.iff ((s.vh j).idState != 2) fun u => (u.signalInvalid j).signalFault j

/-- Four equal voltages of the ID line are accepted. -/
theorem execMcsLineStateAccepted_of_equal {s : State} {j : Fin 8} (hclk : s.clocked = true) (hserved : s.served j = true)
    (hmcs : s.ccs j = false) {a b c d : Int} (hab : idWin a = idWin b) (hbc : idWin b = idWin c) (hcd : idWin c = idWin d) :
    exec (.mcsLineStateAccepted j true [a, b, c, d]) s = .next (s.acceptId j (idWin a) d) := by
  refine (State.live_next hclk _).trans (congrArg _ ?_)
  simp only [hmcs, hserved, hab, hbc, hcd, beq_self_eq_true, Bool.not_false, Bool.and_self, if_true]
  rfl

/-- The fields of the signalling. -/
abbrev pilotFlds (j : Nat) : List Fld := [VD_PILOT_HIGH j, VD_PILOT_LOW j, VD_STAT_PILOT j]

section CcsStates

variable {s : State} (hwf : s.wf = true) (j : Fin 8) (high low : Int) (d : Bool)

/-- The pilot's levels and state shown. -/
theorem State.Leaves.pilotShown {f : Fld} {s : State} {j : Nat} {high low : Int} {st : Nat} (hf : (pilotFlds j).all f.sparedBy = true) :
    s.Leaves f ((s.levelsShown j high low).setFld (VD_STAT_PILOT j) st) := by
  have hfs {g : Fld} (hg : g ∈ pilotFlds j) := List.all_eq_true.mp hf g hg
  exact .setFld (.levelsShown (.refl s) (hfs (by simp)) (hfs (by simp))) (hfs (by simp))

include hwf

theorem State.accept_plugged (hccs : s.ccs j = true) (hserved : s.served j = true) (hidle : s.sstate j = 0) (hfree : s.outFree j = true) :
    (((s.levelsShown j high low).acceptPilot j 1 d).sstate j = 1) ∧
      ((s.levelsShown j high low).acceptPilot j 1 d).sess j = s.vehc.nextSession % 2 ^ 32 ∧
      ((s.levelsShown j high low).acceptPilot j 1 d).timing (.slac j) = true ∧
      s.Raised ((s.levelsShown j high low).acceptPilot j 1 d) 0x0501 [j.val, s.vehc.nextSession % 2 ^ 32, 0, 1, 0] := by
  let r := s.levelsShown j high low
  have hr {f : Fld} (hf : (pilotFlds j).all f.sparedBy = true) : s.Leaves f r :=
    have hfs {g : Fld} (hg : g ∈ pilotFlds j) := List.all_eq_true.mp hf g hg
    .levelsShown (.refl s) (hfs (by simp)) (hfs (by simp))
  have houtside {f : Fld} (hf : f.outsideTalk = true) : (pilotFlds j).all f.sparedBy = true := by
    simp only [List.all_cons, List.all_nil, Bool.and_true, Bool.and_eq_true]
    exact ⟨Fld.sparedBy_row_of_outside hf j (by decide) (by decide), Fld.sparedBy_row_of_outside hf j (by decide) (by decide),
      Fld.sparedBy_row_of_outside hf j (by decide) (by decide)⟩
  have hstate : (pilotFlds j).all (VD_STAT_SSTATE j).sparedBy = true := by simp [Fld.sparedBy, Fld.apart]
  have hccs' : r.ccs j = true := (State.ccs_congr j fun f hf => (hr (houtside hf)).fld_of hwf).trans hccs
  rw [State.acceptPilot_plugged ((hr hstate).keeps.wf hwf) j d (((hr hstate).fld_of hwf).trans hidle) hccs']
  obtain ⟨hplugged, hsess, hslac, hraised⟩ := State.plugIn_of_accepted hwf j (u := r.setFld (VD_STAT_PILOT j) 1)
    (State.Leaves.pilotShown hstate).keeps (fun f hf => (State.Leaves.pilotShown (houtside hf)).fld_of hwf)
    ((State.Leaves.pilotShown hstate).fld_of hwf) ⟨rfl, rfl, rfl, rfl, rfl⟩ hserved hidle hfree
  exact ⟨hplugged, hsess, hslac hccs, hraised⟩

theorem State.accept_unplugged (hopen : s.sstate j ≠ 13) : ((s.levelsShown j high low).acceptPilot j 0 d).sstate j = 0 := by
  have hleft : s.Leaves (VD_STAT_SSTATE j) ((s.levelsShown j high low).setFld (VD_STAT_PILOT j) 0) :=
    .pilotShown (by simp [Fld.sparedBy, Fld.apart])
  rw [State.acceptPilot_unplugged]
  exact State.unplug_sstate (hleft.keeps.wf hwf) j ((hleft.fld_of hwf).trans_ne hopen)

theorem State.accept_invalid (hnew : s.fld (VD_STAT_PILOT j) ≠ 6) :
    ((s.levelsShown j high low).acceptPilot j 6 d).sstate j = 12 ∧
      s.Raised ((s.levelsShown j high low).acceptPilot j 6 d) 0x0502 [j.val, s.sess j] ∧
      ((s.levelsShown j high low).acceptPilot j 6 d).fld (VD_ERR_PILOT j) = min 255 (s.fld (VD_ERR_PILOT j) + 1) := by
  let u := (s.levelsShown j high low).setFld (VD_STAT_PILOT j) 6
  have hold : s.Leaves (VD_STAT_PILOT j) (s.levelsShown j high low) :=
    .levelsShown (.refl s) (by simp [Fld.sparedBy, Fld.apart]) (by simp [Fld.sparedBy, Fld.apart])
  have hsess : s.Leaves (VD_SESS_SESSION j) u := .pilotShown (by simp [Fld.sparedBy, Fld.apart])
  have hcount : s.Leaves (VD_ERR_PILOT j) u := .pilotShown (by simp [Fld.sparedBy, Fld.apart])
  obtain ⟨hfault, hraised, herr⟩ := State.invalid_faults (hsess.keeps.wf hwf) j
    (u := (u.signalInvalid j).iff d fun w => w.event 0x0503 [j, w.sess j]) (.iff (.refl _) (.told (pilotErr_ofTalk j)))
  rw [State.acceptPilot_invalid _ j d ((hold.fld_of hwf).trans_ne hnew)]
  rw [show u.sess j = s.sess j from hsess.fld_of hwf] at hraised
  rw [hcount.fld_of hwf] at herr
  exact ⟨hfault, hraised.after hsess.keeps, herr⟩

end CcsStates

section IdStates

variable {s : State} (hwf : s.wf = true) (j : Fin 8) (d : Int)

theorem State.Leaves.idShown {f : Fld} {s : State} {j st : Nat} {d : Int} (hf : f.sparedBy (VD_PILOT_LOW j) = true) :
    s.Leaves f (s.idShown j st d) := .updVh (.setFldS (.refl s) hf)

include hwf

theorem State.acceptId_inserted (hpilot : s.fld (VD_STAT_PILOT j) = 1) (hserved : s.served j = true) (hidle : s.sstate j = 0)
    (hfree : s.outFree j = true) : (s.acceptId j 1 d).sstate j = 1 ∧ (s.acceptId j 1 d).sess j = s.vehc.nextSession % 2 ^ 32 := by
  have hstate : s.Leaves (VD_STAT_SSTATE j) (s.idShown j 1 d) := .idShown (by simp [Fld.sparedBy, Fld.apart])
  have hshown : s.Leaves (VD_STAT_PILOT j) (s.idShown j 1 d) := .idShown (by simp [Fld.sparedBy, Fld.apart])
  obtain ⟨hplugged, hsess, -, -⟩ := State.plugIn_of_accepted hwf j hstate.keeps (fun f hf =>
    (State.Leaves.idShown (Fld.sparedBy_row_of_outside hf j (by decide) (by decide))).fld_of hwf) (hstate.fld_of hwf)
    ⟨rfl, rfl, rfl, rfl, rfl⟩ hserved hidle hfree
  rw [show s.acceptId j 1 d = (s.idShown j 1 d).plugIn j from if_pos ((hshown.fld_of hwf).trans hpilot)]
  exact ⟨hplugged, hsess⟩

theorem State.acceptId_removed (hopen : s.sstate j ≠ 13) : (s.acceptId j 0 d).sstate j = 0 := by
  have hstate : s.Leaves (VD_STAT_SSTATE j) (s.idShown j 0 d) := .idShown (by simp [Fld.sparedBy, Fld.apart])
  exact State.unplug_sstate (hstate.keeps.wf hwf) j ((hstate.fld_of hwf).trans_ne hopen)

theorem State.acceptId_invalid (hnew : (s.vh j).idState ≠ 2) :
    (s.acceptId j 2 d).sstate j = 12 ∧ s.Raised (s.acceptId j 2 d) 0x0502 [j.val, s.sess j] := by
  have hsess : s.Leaves (VD_SESS_SESSION j) (s.idShown j 2 d) := .idShown (by simp [Fld.sparedBy, Fld.apart])
  obtain ⟨hfault, hraised, -⟩ := State.invalid_faults (hsess.keeps.wf hwf) j (.refl _)
  rw [show s.acceptId j 2 d = ((s.idShown j 2 d).signalInvalid j).signalFault j from if_pos (by simpa using hnew)]
  rw [show (s.idShown j 2 d).sess j = s.sess j from hsess.fld_of hwf] at hraised
  exact ⟨hfault, hraised.after hsess.keeps⟩

end IdStates

end Sys2Proof.Machine

open Sys2Proof Sys2Proof.Machine

/-- Settles O38: what an accepted state does, from the dialogue in which its voltages are shown. -/
theorem vehiclesArePluggedInAndOut : Obligations.VehiclesArePluggedInAndOut := by
  intro s j hwf hclk hserved
  refine ⟨fun hccs h l st d hh hl heval => ?_, fun hmcs a b c d hab hbc hcd => ?_⟩
  · have hlevels : s.Leaves (VD_STAT_SSTATE j) (s.levelsShown j (nth 0 h 3) (nth 0 l 3)) :=
      .levelsShown (.refl s) (by simp [Fld.sparedBy, Fld.apart]) (by simp [Fld.sparedBy, Fld.apart])
    refine ⟨_, execPilotStateAccepted_of_equal hclk hserved hccs hh hl heval,
      State.acceptPilot_pilot (hlevels.keeps.wf hwf) j st d, ?_, ?_, ?_, ?_⟩
    · rintro rfl hidle hfree
      exact State.accept_plugged hwf j _ _ d hccs hserved hidle hfree
    · rintro rfl hopen
      exact State.accept_unplugged hwf j _ _ d hopen
    · rintro rfl hnew
      exact State.accept_invalid hwf j _ _ d hnew
    · intro hlo hhi
      rw [State.acceptPilot_charging _ j d ⟨hlo, hhi⟩]
      exact ⟨(State.Leaves.pilotShown (by simp [Fld.sparedBy, Fld.apart])).fld_of hwf, rfl⟩
  · refine ⟨_, execMcsLineStateAccepted_of_equal hclk hserved hmcs hab hbc hcd, ?_, ?_, ?_⟩
    · intro hin hpilot hidle hfree
      rw [hin]
      exact State.acceptId_inserted hwf j d hpilot hserved hidle hfree
    · intro hout hopen
      rw [hout]
      exact State.acceptId_removed hwf j d hopen
    · intro hbad hnew
      rw [hbad]
      exact State.acceptId_invalid hwf j d hnew
end

section
/-!
The vehicle's link (spec/06 R138, R139, R140, R150, spec/15 R358): matching, discovery, TLS, and a link that is lost.
-/

namespace Sys2Proof.Machine

open Sys2Proof

/-! ### Matching -/

theorem link_ofTalk (j : Nat) : (VD_STAT_LINK j).ofTalk = true := Fld.ofTalk_row (by decide) j
theorem tlsErr_ofTalk (j : Nat) : (VD_ERR_TLS j).ofTalk = true := Fld.ofTalk_row (by decide) j

theorem State.updVh_only_veh (s : State) (j : Nat) (g : Veh → Veh) : s.Only [.veh] (s.updVh j g) :=
  (State.updVh_only (.refl s (partsMask [.veh])) rfl j g).toOnly _ fun _ => partsMask_testBit_of_notMem

section Matching

variable {s : State} (hwf : s.wf = true) (hclk : s.clocked = true) {j : Fin 8} (hserved : s.served j = true) (hst : s.sstate j = 1)

include hwf hclk hserved hst

/-- The membership key is drawn for the request. -/
theorem cmSlacParmReq_answered (hretry : s.timing (.retryPause j) = false) (hccs : s.ccs j = true)
    (hwin : s.timing (.slac j) = true ∨ (s.vh j).lost = true) : ∃ t k, exec (.cmSlacParmReq j) s = .next t ∧ (t.vh j).nmk = some k ∧
      k < 2 ^ 128 ∧ t.fresh = s.fresh + 1 ∧ (t.vh j).resp = 1 ∧ s.Only [.veh, .fresh] t := by
  have hvh := State.vh_updVh ((State.draw_keeps (.refl s)).wf hwf) j fun v => { v with nmk := some (s.draw.1 % 2 ^ 128), atten := [], resp := 1 }
  refine ⟨_, s.draw.1 % 2 ^ 128, (State.live_next hclk _).trans (congrArg _ (if_pos ?_)), congrArg Veh.nmk hvh,
    Nat.mod_lt _ (by decide), rfl, congrArg Veh.resp hvh, ?_⟩
  · rcases hwin with hwin | hwin <;> simp [hccs, hserved, hst, hretry, hwin]
  · exact (State.updVh_only (State.draw_only (.refl s (partsMask [.veh, .fresh])) rfl) rfl j _).toOnly _ fun _ => partsMask_testBit_of_notMem

theorem cmValidate_answered (hccs : s.ccs j = true) :
    ∃ t, exec (.cmValidate j) s = .next t ∧ (t.vh j).resp = 6 ∧ s.Only [.veh] t :=
  ⟨_, (State.live_next hclk _).trans (congrArg _ (if_pos (by simp [hccs, hserved, hst]))), congrArg Veh.resp (State.vh_updVh hwf j _),
    s.updVh_only_veh j _⟩

end Matching

/-- The link is up: SETUP under its timer. -/
theorem State.linkUp_enters {s : State} (hwf : s.wf = true) (j : Fin 8) (hserved : s.served j = true) (hst : s.sstate j = 1)
    (hretry : s.timing (.retryPause j) = false) : (s.linkUp j).vh j = s.vh j ∧ (s.linkUp j).sstate j = 2 ∧
      (s.linkUp j).flag (VD_STAT_LINK j) = true ∧ (s.linkUp j).timing (.slac j) = false ∧ (s.linkUp j).timing (.setup j) = true ∧
      s.Raised (s.linkUp j) 0x0501 [j.val, s.sess j, 1, 2, 0] := by
  let r := (s.stopTimer (.slac j)).setFlag (VD_STAT_LINK j) true
  let u := r.startTimer (.setup j)
  have hlink : s.linkUp j = u.setSState j 2 0 := if_pos (by simp [hserved, hst, hretry])
  have hu {f : Fld} (hf : f.beside (VD_STAT_LINK j) = true) : s.Leaves f u :=
    .startTimer (.setFlag (.stopTimer (.refl s)) (Fld.sparedBy_of_beside hf))
  have hsst : s.Leaves (VD_STAT_SSTATE j) u := hu (by simp [Fld.beside])
  have huwf := hsst.keeps.wf hwf
  have hold : u.sstate j = 1 := (hsst.fld_of hwf).trans hst
  have hraised := State.setSState_raised huwf j (new := 2) (by rw [hold]; decide) 0
  rw [show u.sess j = s.sess j from (hu (by simp [Fld.beside])).fld_of hwf, hold] at hraised
  have honly := State.setSState_only (.refl u 1030) rfl j 2 0
  rw [hlink]
  refine ⟨State.vh_congr (honly.same .veh rfl) j, State.setSState_sstate huwf j (by decide) 0, ?_, ?_, ?_, hraised.after hsst.keeps⟩
  · exact ((State.Leaves.setSState (link_ofTalk j) (.refl u) (by simp [Fld.beside])).flag_of huwf).trans
      ((State.canon_of_wf hwf).flag_setFlag (s := s.stopTimer (.slac j)) true rfl (by simp))
  · exact (State.TimingKeeps.setSState (.startTimer (s := r) (.refl r) (by simp))).trans (State.timing_stopTimer s _)
  · exact (State.TimingKeeps.setSState (.refl u)).trans (State.timing_startTimer r _)

/-- SLAC_MATCH and PLCA_LINK_UP bring the link up. -/
theorem linkUp_commands {s : State} (hwf : s.wf = true) (hclk : s.clocked = true) {j : Fin 8} (hserved : s.served j = true)
    (hst : s.sstate j = 1) (hretry : s.timing (.retryPause j) = false) {c : Instr} {p : List Byte}
    (hc : c = .slacMatch j p ∧ s.ccs j = true ∧ (s.vh j).nmk ≠ none ∨ c = .plcaLinkUp j ∧ s.ccs j = false ∧ p = (s.vh j).atten) :
    ∃ t, exec c s = .next t ∧ (t.vh j).atten = p ∧ t.sstate j = 2 ∧ t.flag (VD_STAT_LINK j) = true ∧ t.timing (.slac j) = false ∧
      t.timing (.setup j) = true ∧ s.Raised t 0x0501 [j.val, s.sess j, 1, 2, 0] := by
  obtain ⟨rfl, hccs, hnmk⟩ | ⟨rfl, hccs, rfl⟩ := hc
  · have hu := State.updVh_keeps (.refl s) j fun v => { v with atten := p }
    obtain ⟨hvh, hup, hlink, hslac, hsetup, hraised⟩ := State.linkUp_enters (hu.wf hwf) j hserved hst hretry
    exact ⟨_, (State.live_next hclk _).trans (congrArg _ (if_pos (by simp [hccs, Option.isSome_iff_ne_none, hnmk]))),
      congrArg Veh.atten (hvh.trans (State.vh_updVh hwf j _)), hup, hlink, hslac, hsetup, hraised.after hu⟩
  · obtain ⟨hvh, hup⟩ := State.linkUp_enters hwf j hserved hst hretry
    exact ⟨_, (State.live_next hclk _).trans (congrArg _ (if_neg (by simp [hccs]))), congrArg Veh.atten hvh, hup⟩

theorem seccDiscoveryReq_answered {s : State} {j : Fin 8} (h : s.takesReq j 2 = true) : ∃ t, exec (.seccDiscoveryReq j) s = .next t ∧
    (t.vh j).tcp = true ∧ (t.vh j).resp = 1 ∧ s.Only [.veh] t := by
  obtain ⟨hwf, hclk, hdlg, hst⟩ := State.takesReq_iff.mp h
  have hvh := State.vh_updVh hwf j fun v => { v with sdp := true, tcp := true, resp := 1 }
  exact ⟨_, (State.live_next hclk _).trans (congrArg _ (if_pos (by simp [hdlg, hst]))), congrArg Veh.tcp hvh, congrArg Veh.resp hvh,
    s.updVh_only_veh j _⟩

/-! ### A link lost -/

/-- A dialogue that has to match and connect again; a lost session keeps what it selected. -/
def Veh.unlinked (v : Veh) : Veh :=
  { v with
    sdp := false, tcp := false, phase := 0, pairAsked := false, nmk := none, svc := if v.lost = true then v.svc else 0
    payDone := v.lost && v.payDone }

/-- The link is down, with no timer left of its dialogue. -/
def State.unlinked (s : State) (j : Nat) : State := ((s.quiet j).updVh j Veh.unlinked).setFlag (VD_STAT_LINK j) false

/-- Then TLS is down as well, and nothing is awaited of the host. -/
def State.hungUp (s : State) (j : Nat) : State :=
  (((s.unlinked j).tlsDown j).dropReqs j).updVh j fun v => { v with authReq := none, certReq := none }

/-- A retry is left: it is counted, and a CCS output drives +12 V before it. -/
def State.retried (s : State) (j : Nat) : State :=
  (s.updVh j fun v => { v with retries := v.retries + 1, drive := if s.ccs j = true then 0 else v.drive })

theorem State.retryOr_eq (s : State) (j reason : Nat) : s.retryOr j reason =
    if (s.vh j).retries < (s.hungUp j).fld VD_GCFG_RETRY then (((s.hungUp j).retried j).setSState j 1 0).startTimer (.retryPause j)
    else if (s.vh j).lost = true then ((s.hungUp j).iff ((s.hungUp j).ccs j) (·.drive j 1)).setSState j 1 0
    else (s.hungUp j).endNow j reason := rfl

namespace State.Leaves

variable {f : Fld} {s0 s : State} {j : Nat} (hf : f.ofTalk = true)

include hf

theorem hungUp (h : s0.Leaves f s) (hl : (linkFlds j).all f.beside = true) : s0.Leaves f (s.hungUp j) := by
  have hfs {g : Fld} (hg : g ∈ linkFlds j) := List.all_eq_true.mp hl g hg
  exact .updVh (dropReqs hf (.tlsDown (.setFlag (.updVh (.quiet h)) (Fld.sparedBy_of_beside (hfs (by simp)))) (hfs (by simp))))

theorem retryOr {reason : Nat} (h : s0.Leaves f s) (hl : (linkFlds j).all f.beside = true) : s0.Leaves f (s.retryOr j reason) := by
  have hst := stateFlds_of_linkFlds hl
  have hdown := hungUp hf h hl
  rw [State.retryOr_eq]
  exact .ite (.startTimer (setSState hf (.updVh hdown) hst)) (.ite (setSState hf (.iff hdown .updVh) hst) (endNow hf hdown hst))

end State.Leaves

/-- A bundle that a link lost in SETUP leaves as if it had not been joined. -/
def State.setupLost (s : State) (j : Nat) : State :=
  s.iff (s.vh j).lead.isSome fun s => (s.leaveJoin j).updVh j fun v => { v with wasJoined := false }

/-- TLS that fails once in SETUP is tried again with the link. -/
theorem State.commLost_of_tls {s : State} {j : Nat} (hst : s.sstate j = 2) : s.commLost j 1 =
    if (s.vh j).tlsRetried = true then (s.setupLost j).endNow j 7
    else ((s.setupLost j).updVh j fun v => { v with tlsRetried := v.tlsRetried || true }).retryOr j 7 := by
  unfold State.commLost
  simp only [hst, true_and]
  rfl

/-- The session that a lost link leaves to be resumed. -/
def State.sessionLost (s : State) (j : Nat) : State :=
  ((s.event 0x050F [j, s.sess j]).leaveJoin j).updVh j fun v =>
    { v with
      lost := true, endReason := 10, stopTold := false, paramDone := false, schedDone := false
      row := if s.sstate j = 5 ∨ s.sstate j = 6 then { v.row with vTgt := 0 } else v.row }

theorem State.commLost_of_session {s : State} {j : Nat} (hlo : 3 ≤ s.sstate j) (hhi : s.sstate j ≤ 8) :
    s.commLost j 0 = ((s.sessionLost j).retryOr j 10).startTimer (.resume j) := by
  unfold State.commLost State.sessionLost
  generalize s.sstate j = st at hlo hhi
  interval_cases st <;> rfl

section HungUp

variable {s : State} (hwf : s.wf = true) (j : Fin 8)

include hwf

theorem State.tlsDown_vh : (s.tlsDown j).vh j = { s.vh j with tls := none } := by
  rw [State.tlsDown, State.vh_congr (State.setFlag_veh _ _ _) j]
  exact State.vh_updVh hwf j _

theorem State.unlinked_vh : (s.unlinked j).vh j = (s.vh j).unlinked := by
  rw [State.unlinked, State.vh_congr (State.setFlag_veh _ _ _) j]
  exact State.vh_updVh ((State.quiet_keeps (.refl s) j).wf hwf) j _

theorem State.hungUp_core : ((s.hungUp j).vh j).core = { (s.vh j).unlinked.core with tls := none, certReq := none } := by
  have hlink : s.Keeps (s.unlinked j) := State.setFlag_keeps (State.updVh_keeps (State.quiet_keeps (.refl s) _) _ _) _ _
  have hdown : State.Keeps (s.unlinked j) (((s.unlinked j).tlsDown j).dropReqs j) := State.dropReqs_keeps (State.tlsDown_keeps (.refl _) _) _
  have hkept : State.CoreKeeps ((s.unlinked j).tlsDown j) j (((s.unlinked j).tlsDown j).dropReqs j) := .dropReqs (.refl _)
  have htls : ((s.unlinked j).tlsDown j).vh j = { (s.unlinked j).vh j with tls := none } := State.tlsDown_vh (hlink.wf hwf) j
  have hlast : (s.hungUp j).vh j = { (((s.unlinked j).tlsDown j).dropReqs j).vh j with authReq := none, certReq := none } :=
    State.vh_updVh ((hlink.trans hdown).wf hwf) j _
  calc ((s.hungUp j).vh j).core = { ((((s.unlinked j).tlsDown j).dropReqs j).vh j).core with certReq := none } := congrArg Veh.core hlast
    _ = { (((s.unlinked j).tlsDown j).vh j).core with certReq := none } := by rw [hkept]
    _ = { (s.vh j).unlinked.core with tls := none, certReq := none } := by
      rw [htls, State.unlinked_vh hwf j]
      rfl

theorem State.hungUp_link : (s.hungUp j).flag (VD_STAT_LINK j) = false := by
  have hw := (State.updVh_keeps (State.quiet_keeps (.refl s) j) j Veh.unlinked).wf hwf
  have hleft : State.Leaves (s.unlinked j) (VD_STAT_LINK j) (s.hungUp j) :=
    .updVh (.dropReqs (link_ofTalk j) (.tlsDown (.refl _) (by simp [Fld.beside])))
  exact (hleft.flag_of (State.setFlag_wf hw _ _)).trans ((State.canon_of_wf hw).flag_setFlag false rfl (by simp))

theorem State.hungUp_wf : (s.hungUp j).wf = true :=
  (State.Leaves.hungUp (f := VD_SESS_SESSION j) (j := j) (sess_ofTalk j) (.refl s) (by simp [Fld.beside])).keeps.wf hwf

end HungUp

/-- A lost session waits in PLUGGED for its link. -/
theorem State.retryOr_of_lost {s : State} (hwf : s.wf = true) (j : Fin 8) (hlost : (s.vh j).lost = true) (reason : Nat) :
    (s.retryOr j reason).sstate j = 1 ∧ ((s.retryOr j reason).vh j).lost = true ∧ ((s.retryOr j reason).vh j).tcp = false ∧
      (s.retryOr j reason).flag (VD_STAT_LINK j) = false := by
  have hcore := State.hungUp_core hwf j
  have hwf' := State.hungUp_wf hwf j
  have hlink := State.hungUp_link hwf j
  have hstill : ((s.hungUp j).vh j).lost = true := ((congrArg Veh.lost hcore).trans rfl).trans hlost
  have htcp : ((s.hungUp j).vh j).tcp = false := (congrArg Veh.tcp hcore).trans rfl
  rw [State.retryOr_eq, if_pos hlost]
  split
  · have hu := State.updVh_keeps (.refl (s.hungUp j)) j fun v =>
      { v with retries := v.retries + 1, drive := if (s.hungUp j).ccs j = true then 0 else v.drive }
    have hset : State.CoreKeeps ((s.hungUp j).retried j) j (((s.hungUp j).retried j).setSState j 1 0) := .setSState (.refl _)
    have hvh : ((s.hungUp j).retried j).vh j = _ := State.vh_updVh hwf' j _
    have hleft : State.Leaves (s.hungUp j) (VD_STAT_LINK j) ((((s.hungUp j).retried j).setSState j 1 0).startTimer (.retryPause j)) :=
      .startTimer (.setSState (link_ofTalk j) (.updVh (.refl _)) (by simp [Fld.beside]))
    exact ⟨State.setSState_sstate (hu.wf hwf') j (by decide) 0,
      ((congrArg Veh.lost (hset.trans (congrArg Veh.core hvh))).trans rfl).trans hstill,
      ((congrArg Veh.tcp (hset.trans (congrArg Veh.core hvh))).trans rfl).trans htcp, (hleft.flag_of hwf').trans hlink⟩
  · have hu : (s.hungUp j).Leaves (VD_STAT_LINK j) ((s.hungUp j).iff ((s.hungUp j).ccs j) (·.drive j 1)) := .iff (.refl _) .updVh
    have hset : State.CoreKeeps (s.hungUp j) j (((s.hungUp j).iff ((s.hungUp j).ccs j) (·.drive j 1)).setSState j 1 0) :=
      .setSState (.iff (.refl _) .updVh)
    exact ⟨State.setSState_sstate (hu.keeps.wf hwf') j (by decide) 0, ((congrArg Veh.lost hset).trans rfl).trans hstill,
      ((congrArg Veh.tcp hset).trans rfl).trans htcp,
      ((State.Leaves.setSState (link_ofTalk j) hu (by simp [Fld.beside])).flag_of hwf').trans hlink⟩

/-- A link lost past SETUP keeps the session for RESUME_WIN. -/
theorem State.commLost_keeps_session {s : State} (hwf : s.wf = true) (j : Fin 8) (hlo : 3 ≤ s.sstate j) (hhi : s.sstate j ≤ 8) :
    (s.commLost j 0).sstate j = 1 ∧ ((s.commLost j 0).vh j).lost = true ∧ ((s.commLost j 0).vh j).tcp = false ∧
      (s.commLost j 0).timing (.resume j) = true ∧ (s.commLost j 0).flag (VD_STAT_LINK j) = false ∧
      s.Raised (s.commLost j 0) 0x050F [j.val, s.sess j] := by
  have hleft : State.Keeps (s.event 0x050F [j, s.sess j]) ((s.event 0x050F [j, s.sess j]).leaveJoin j) := State.leaveJoin_keeps (.refl _) _
  have hgone := (State.event_keeps (.refl s) 0x050F [j, s.sess j]).trans hleft
  have hlost : ((s.sessionLost j).vh j).lost = true := congrArg Veh.lost (State.vh_updVh (hgone.wf hwf) j _)
  have hsession := State.updVh_keeps (.refl ((s.event 0x050F [j, s.sess j]).leaveJoin j)) j
  obtain ⟨hst, hkept, htcp, hlink⟩ := State.retryOr_of_lost ((hsession _).wf (hgone.wf hwf)) j hlost 10
  rw [State.commLost_of_session hlo hhi]
  exact ⟨hst, hkept, htcp, State.timing_startTimer _ _, hlink, (((State.event_raised _ _ _).then hleft).then (hsession _)).then
    (State.startTimer_keeps (State.retryOr_keeps (.refl _) _ _) _)⟩

section LostLinks

variable {s : State} (hwf : s.wf = true) (hclk : s.clocked = true) {j : Fin 8} (hlo : 3 ≤ s.sstate j) (hhi : s.sstate j ≤ 8)

include hwf hclk hlo hhi

theorem phySignalLost_keeps_session (hlink : s.flag (VD_STAT_LINK j) = true) : ∃ t, exec (.phySignalLost j) s = .next t ∧ t.sstate j = 1 ∧
    (t.vh j).lost = true ∧ t.timing (.resume j) = true ∧ t.flag (VD_STAT_LINK j) = false ∧ s.Raised t 0x050F [j.val, s.sess j] := by
  obtain ⟨hst, hlost, -, hwin, hdown, hraised⟩ := State.commLost_keeps_session hwf j hlo hhi
  exact ⟨_, (State.live_next hclk _).trans (congrArg _ (if_pos (by simp [hlink]))), hst, hlost, hwin, hdown, hraised⟩

theorem tcpClosed_keeps_session (hdlg : s.dialog j = true) (htcp : (s.vh j).tcp = true) : ∃ t, exec (.tcpClosed j) s = .next t ∧
    t.sstate j = 1 ∧ (t.vh j).lost = true ∧ (t.vh j).tcp = false ∧ t.timing (.resume j) = true ∧ s.Raised t 0x050F [j.val, s.sess j] := by
  have hu := State.updVh_keeps (.refl s) j fun v => { v with tcp := false }
  obtain ⟨hst, hlost, hclosed, hwin, -, hraised⟩ := State.commLost_keeps_session (hu.wf hwf) j hlo hhi
  exact ⟨_, (State.live_next hclk _).trans (congrArg _ (if_pos (by simp [hdlg, htcp]))), hst, hlost, hclosed, hwin, hraised.after hu⟩

end LostLinks

/-- After the pause a CCS output drives its duty cycle again, and waits for the match. -/
theorem commRetry_retries {s : State} (hwf : s.wf = true) (hclk : s.clocked = true) {j : Fin 8}
    (hdue : s.due (.retryPause j) (3 * sec) = true) (hst : s.sstate j = 1) (hccs : s.ccs j = true) : ∃ t, exec (.commRetry j) s = .next t ∧
      (t.vh j).drive = 1 ∧ t.timing (.slac j) = true ∧ t.timing (.retryPause j) = false ∧ t.regs = s.regs := by
  let u := (s.stopTimer (.retryPause j)).drive j 1
  have hexec : exec (.commRetry j) s = .next (u.startTimer (.slac j)) :=
    (State.live_next hclk _).trans (congrArg _ ((if_pos (by simp [hdue, hst])).trans (if_pos hccs)))
  have hvh : u.vh j = { s.vh j with drive := 1 } := State.vh_updVh (s := s.stopTimer (.retryPause j)) hwf j _
  exact ⟨_, hexec, congrArg Veh.drive hvh, State.timing_startTimer u _,
    (State.timing_startTimer_of_ne u (by simp)).trans (State.timing_stopTimer s _), rfl⟩

/-! ### TLS -/

/-- The slots whose chain the VC can offer: keys of its own engine, with a chain. -/
def State.tlsSlots (s : State) (j : Nat) : List Nat := ((idx 256).drop 16).filter fun k =>
  (s.slot k).now.alg != 0 && (s.slot k).now.mask == 2 ^ engTls (s.outVc j) && !(s.slot k).chain.isEmpty

theorem State.mem_tlsSlots {s : State} {j k : Nat} : k ∈ s.tlsSlots j ↔ (16 ≤ k ∧ k < 256) ∧
    (s.slot k).now.alg ≠ 0 ∧ (s.slot k).now.mask = 2 ^ engTls (s.outVc j) ∧ (s.slot k).chain.isEmpty = false := by
  have hrange : k ∈ (idx 256).drop 16 ↔ 16 ≤ k ∧ k < 256 := by
    simp [idx, List.range_eq_range', List.drop_range', List.mem_range'_1]
  simp only [State.tlsSlots, List.mem_filter, hrange, Bool.and_eq_true, bne_iff_ne, beq_iff_eq, Bool.not_eq_true', and_assoc]

theorem State.alg_of_keyFor {s : State} {k e : Nat} (h : (s.keyFor k e).isSome = true) : (s.slot k).now.alg ≠ 0 := by
  intro hempty
  rw [State.keyFor, if_neg fun hc => hc.1 hempty] at h
  contradiction

theorem State.tlsSlot_mem {s : State} {j k : Nat} {hello : TlsHello} (h : s.tlsSlot j hello = some k) : k ∈ s.tlsSlots j := by
  unfold State.tlsSlot at h
  extract_lets ks at h
  split at h
  · next k' hfound =>
    exact Option.some.inj h ▸ List.mem_of_find?_eq_some hfound
  · exact List.mem_of_head? h

theorem State.tlsSlots_of_none {s : State} {j : Nat} {hello : TlsHello} (h : s.tlsSlot j hello = none) : s.tlsSlots j = [] := by
  unfold State.tlsSlot at h
  extract_lets ks at h
  split at h
  · contradiction
  · exact List.head?_eq_none_iff.mp h

/-- TLS that fails in SETUP is counted and told. -/
theorem State.tlsFailed_told {s : State} (hwf : s.wf = true) (j : Fin 8) (hst : s.sstate j = 2) :
    s.Raised (s.tlsFailed j) 0x0508 [j.val, s.sess j] ∧
      (s.tlsFailed j).fld (VD_ERR_TLS j) = min 255 (s.fld (VD_ERR_TLS j) + 1) := by
  let r := s.inc (VD_ERR_TLS j)
  let u := r.event 0x0508 [j, s.sess j]
  have hr : s.Leaves (VD_STAT_SSTATE j) r := .setSat (.refl s) (by simp [Fld.sparedBy, Fld.apart])
  have hu : r.Leaves (VD_STAT_SSTATE j) u := .told (sstate_ofTalk j) (.refl r)
  have hst' : u.sstate j = 2 := ((hu.fld_of (hr.keeps.wf hwf)).trans (hr.fld_of hwf)).trans hst
  have hleft : r.Leaves (VD_ERR_TLS j) (u.commLost j 1) := by
    have hf := tlsErr_ofTalk j
    have hlost : r.Leaves (VD_ERR_TLS j) (u.setupLost j) := .iff (.told hf (.refl r)) fun h => .updVh (.leaveJoin hf h)
    rw [State.commLost_of_tls hst']
    exact .ite (.endNow hf hlost (by simp [Fld.beside])) (.retryOr hf (.updVh hlost) (by simp [Fld.beside]))
  refine ⟨((State.event_raised r _ _).after hr.keeps).then (State.commLost_keeps (.refl u) _ _), (hleft.fld_of (hr.keeps.wf hwf)).trans ?_⟩
  exact (State.fld_setSat hwf (by simp) (by simp) _).trans (Nat.min_comm _ _)

section Tls

variable {s : State} {j : Fin 8} {slot : BitVec 8} {hello : TlsHello} (h : s.takesReq j 2 = true) (htcp : (s.vh j).tcp = true)
  (hplain : s.flag (VD_STAT_TLS j) = false) (hkey : (s.keyFor slot.toNat (engTls (s.outVc j))).isSome = true) (hslot : 16 ≤ slot.toNat)

/-- What a handshake does whose slot holds a chain of the VC's own. -/
def State.tlsResult (s : State) (j : Nat) (hello : TlsHello) (ok : Bool) : State :=
  match s.tlsPick j hello with
  | some c => if ok = true then (s.updVh j fun v => { v with tls := some c }).setFlag (VD_STAT_TLS j) true else s.tlsFailed j
  | none => s.tlsFailed j

include h htcp hplain hkey hslot

theorem execTlsHandshake_of_key (ok : Bool) : exec (.tlsHandshake j slot hello ok) s = .next (
    if (s.slot slot.toNat).now.mask ≠ 2 ^ engTls (s.outVc j) then s.tlsFailed j
    else if (s.tlsSlot j hello).any (· != slot.toNat) = true then s
    else if (s.slot slot.toNat).chain.isEmpty = true then s.tlsFailed j
    else s.tlsResult j hello ok) := by
  obtain ⟨-, hclk, hdlg, hst⟩ := State.takesReq_iff.mp h
  refine (State.live_next hclk _).trans (congrArg _ ?_)
  have hnone : (s.keyFor slot.toNat (engTls (s.outVc j))).isNone = false := by simp [Option.isNone_eq_false_iff, hkey]
  have hopen : (!(s.dialog j && s.sstate j == 2 && (s.vh j).tcp && !s.flag (VD_STAT_TLS j))) = false := by simp [hdlg, hst, htcp, hplain]
  simp only [hopen, hnone, Nat.not_lt.mpr hslot, decide_false, Bool.or_self, Bool.false_eq_true, if_false, bne_iff_ne]
  rfl

/-- On the slot whose chain the VC offers, TLS is in use once the handshake completes. -/
theorem tlsHandshake_completes {con : TlsConn} (hpick : s.tlsPick j hello = some con) (hoffer : s.tlsSlot j hello = some slot.toNat) :
    ∃ t, exec (.tlsHandshake j slot hello true) s = .next t ∧ t.flag (VD_STAT_TLS j) = true ∧ (t.vh j).tls = some con ∧
      s.RegsOnly [R_VD_STAT j] t ∧ t.log = s.log := by
  obtain ⟨hwf, -, -, -⟩ := State.takesReq_iff.mp h
  obtain ⟨-, -, hmask, hchain⟩ := State.mem_tlsSlots.mp (State.tlsSlot_mem hoffer)
  have hu := State.updVh_keeps (.refl s) j fun v => { v with tls := some con }
  have hexec : exec (.tlsHandshake j slot hello true) s = .next ((s.updVh j fun v => { v with tls := some con }).setFlag (VD_STAT_TLS j) true) := by
    rw [execTlsHandshake_of_key h htcp hplain hkey hslot, if_neg (not_not_intro hmask), if_neg (by simp [hoffer]), if_neg (by simp [hchain]),
      State.tlsResult, hpick]
    rfl
  refine ⟨_, hexec, (State.canon_of_wf (hu.wf hwf)).flag_setFlag true rfl (by simp), ?_, ?_, rfl⟩
  · rw [State.vh_congr (State.setFlag_veh _ _ _) j]
    exact congrArg Veh.tls (State.vh_updVh hwf j _)
  · exact .of_leaves hwf fun o ho _ => .setFlag (.updVh (.refl s)) (Fld.sparedBy_of_reg_ne (mt List.mem_singleton.mpr ho) (by simp))

/-- A command that names another slot than the one offered changes nothing. -/
theorem tlsHandshake_elsewhere {k : Nat} (hoffer : s.tlsSlot j hello = some k) (hk : k ≠ slot.toNat)
    (hmask : (s.slot slot.toNat).now.mask = 2 ^ engTls (s.outVc j)) (ok : Bool) : exec (.tlsHandshake j slot hello ok) s = .next s := by
  rw [execTlsHandshake_of_key h htcp hplain hkey hslot, if_neg (not_not_intro hmask), if_pos (by simp [hoffer, hk])]

/-- TLS fails on another engine's slot, without a chain to offer, or in the handshake. -/
theorem execTlsHandshake_of_failed {ok : Bool} (hfail : (s.slot slot.toNat).now.mask ≠ 2 ^ engTls (s.outVc j) ∨ s.tlsSlot j hello = none ∨
      s.tlsSlot j hello = some slot.toNat ∧ (ok = false ∨ s.tlsPick j hello = none)) :
    exec (.tlsHandshake j slot hello ok) s = .next (s.tlsFailed j) := by
  rw [execTlsHandshake_of_key h htcp hplain hkey hslot]
  by_cases hmask : (s.slot slot.toNat).now.mask = 2 ^ engTls (s.outVc j)
  · rw [if_neg (not_not_intro hmask)]
    obtain hother | hnone | ⟨hoffer, hbroken⟩ := hfail
    · contradiction
    · have hchain : (s.slot slot.toNat).chain.isEmpty = true := by
        by_contra hchain
        have hmem : slot.toNat ∈ s.tlsSlots j :=
          State.mem_tlsSlots.mpr ⟨⟨hslot, slot.isLt⟩, State.alg_of_keyFor hkey, hmask, Bool.eq_false_iff.mpr hchain⟩
        rw [State.tlsSlots_of_none hnone] at hmem
        contradiction
      rw [if_neg (by simp [hnone]), if_pos hchain]
    · obtain ⟨-, -, -, hchain⟩ := State.mem_tlsSlots.mp (State.tlsSlot_mem hoffer)
      rw [if_neg (by simp [hoffer]), if_neg (by simp [hchain]), State.tlsResult]
      obtain rfl | hpick := hbroken
      · cases s.tlsPick j hello <;> rfl
      · rw [hpick]
  · rw [if_pos hmask]

end Tls

end Sys2Proof.Machine

open Sys2Proof Sys2Proof.Machine

/-- Settles O39: the link step by step, from matching to its loss and the retry. -/
theorem vehicleLinks : Obligations.VehicleLinks := by
  intro s j hwf hclk
  refine ⟨fun hserved hst hretry => ⟨fun hccs hwin => cmSlacParmReq_answered hwf hclk hserved hst hretry hccs hwin,
      cmValidate_answered hwf hclk hserved hst, fun c p hc => linkUp_commands hwf hclk hserved hst hretry hc⟩,
    seccDiscoveryReq_answered, fun slot hello h htcp hplain hkey hslot => ⟨fun con hpick hoffer => ?_, fun k hoffer hk hmask ok => ?_,
      fun ok hfail => ?_⟩, fun hlo hhi => ⟨phySignalLost_keeps_session hwf hclk hlo hhi, tcpClosed_keeps_session hwf hclk hlo hhi⟩,
    commRetry_retries hwf hclk⟩
  · exact tlsHandshake_completes h htcp hplain hkey hslot hpick hoffer
  · exact tlsHandshake_elsewhere h htcp hplain hkey hslot hoffer hk hmask ok
  · obtain ⟨-, -, -, hst⟩ := State.takesReq_iff.mp h
    exact ⟨_, execTlsHandshake_of_failed h htcp hplain hkey hslot hfail, State.tlsFailed_told hwf j hst⟩
end

section
/-!
The host's stop and join (spec/06 R149, R152, R158).
-/

namespace Sys2Proof.Machine

open Sys2Proof

/-! ### Stop -/

section Stop

variable {s : State} (hwf : s.wf = true) (hclk : s.clocked = true) {j : Fin 8} (hfit : j.val < s.nOuts) (hlead : (s.vh j).lead = none)

theorem execVdCtrlStop_of_unfitted (hclk : s.clocked = true) (hfit : s.nOuts ≤ j.val) : exec (.vdCtrlStop j) s = .next s :=
  (State.live_next hclk _).trans (congrArg _ (if_neg (by simpa using hfit)))

theorem execVdCtrlJoin_of_unfitted (hclk : s.clocked = true) (hfit : s.nOuts ≤ j.val) (k : BitVec 4) : exec (.vdCtrlJoin j k) s = .next s :=
  (State.live_next hclk _).trans (congrArg _ (if_neg (by simpa using hfit)))

include hclk hfit hlead

/-- A session of its own is stopped alone. -/
theorem execVdCtrlStop_of_alone : exec (.vdCtrlStop j) s = .next (s.evseStopOne j 2) := by
  have hjoined : s.joined j = [] := by rw [State.joined, hlead]
  refine (State.live_next hclk _).trans (congrArg _ ((if_pos (by simpa using hfit)).trans ?_))
  rw [State.evseStopAll, hjoined]
  rfl

include hwf

/-- With a link, the stop is left for the next response. -/
theorem vdCtrlStop_announced (hlo : 2 ≤ s.sstate j) (hhi : s.sstate j ≤ 8) (hnone : (s.vh j).evseStop = 0) :
    ∃ t, exec (.vdCtrlStop j) s = .next t ∧ (t.vh j).evseStop = 2 ∧ t.sstate j = s.sstate j ∧ t.regs = s.regs := by
  have hstop : s.evseStopOne j 2 = s.updVh j fun v => { v with evseStop := 2, stopTold := false } := by
    unfold State.evseStopOne
    generalize s.sstate j = st at hlo hhi
    interval_cases st <;> exact if_pos hnone
  refine ⟨_, execVdCtrlStop_of_alone hclk hfit hlead, ?_⟩
  rw [hstop]
  exact ⟨congrArg Veh.evseStop (State.vh_updVh hwf j _), rfl, rfl⟩

/-- Without one the session ends. -/
theorem vdCtrlStop_ends (hst : s.sstate j = 1) : ∃ t, exec (.vdCtrlStop j) s = .next t ∧ t.sstate j = 11 ∧ t.fld (VD_STAT_REASON j) = 2 := by
  have hstop : s.evseStopOne j 2 = s.endNow j 2 := by simp only [State.evseStopOne, hst]
  refine ⟨_, execVdCtrlStop_of_alone hclk hfit hlead, ?_⟩
  rw [hstop]
  exact ⟨State.endNow_sstate hwf j 2, State.endNow_reason hwf j (by rw [hst]; decide) (by decide) (by decide)⟩

end Stop

/-! ### Join -/

/-- The session that a join with output `k` leads to. -/
def State.leadOf (s : State) (k : Nat) : Nat := (s.vh k).lead.getD k

/-- Both members of the joint session. -/
def State.led (s : State) (j k : Nat) : State :=
  (s.iff (s.vh k).lead.isNone (·.updVh k fun v => { v with lead := some k, joinNo := s.vehc.joins + 1 })).updVh j fun v =>
    { v with lead := some (s.leadOf k), joinNo := s.vehc.joins + 2 }

/-- The member that joins awaits no authorisation of its own. -/
def State.unasked (s : State) (j k : Nat) : State :=
  (((s.led j k).stopTimer (.auth j)).tokSettle j false).updVh j fun v => { v with authReq := none }

/-- Nor is its request posted any longer. -/
def State.unposted (s : State) (j k : Nat) : State :=
  { s.unasked j k with vehc := { (s.unasked j k).vehc with
      joins := s.vehc.joins + 2
      posted := (s.unasked j k).vehc.posted.filter fun r => r.out != j || r.sent || r.kind != 1 } }

/-- Both are shown as joined. -/
def State.joining (s : State) (j k : Nat) : State :=
  ((s.unposted j k).setFlag (VD_STAT_JOINED j) true).setFlag (VD_STAT_JOINED k) true

theorem State.joinTo_eq (s : State) (j k : Nat) : ∃ full, s.joinTo j k = ((s.joining j k).iff full (·.stopTimer (.join (s.leadOf k)))).event
    0x0510 [j, ((s.joining j k).iff full (·.stopTimer (.join (s.leadOf k)))).sess (s.leadOf k)] := ⟨_, rfl⟩

theorem State.Leaves.joining {f : Fld} {s0 s : State} {j k : Nat} (hf : f.ofTalk = true) (h : s0.Leaves f s) : s0.Leaves f (s.joining j k) :=
  .setFlag (.setFlag (.updVehc (.updVh (.tokSettle hf (.stopTimer (.updVh (.iff h .updVh)))))) (Fld.ofTalk.joined hf _)) (Fld.ofTalk.joined hf _)

theorem State.updVh_lead (s : State) {g : Veh → Veh} (hg : ∀ {v}, (g v).lead = v.lead) (k i : Nat) :
    ((s.updVh k g).vh i).lead = (s.vh i).lead := nth_upd_view hg _ _ _ _

theorem State.tokSettle_lead (s : State) (j : Nat) (ok : Bool) (i : Nat) : ((s.tokSettle j ok).vh i).lead = (s.vh i).lead := by
  unfold State.tokSettle
  split
  · rfl
  · exact s.updVh_lead (by exact rfl) j i

/-- Of two outputs shown as joined, the second leaves the flag of the first. -/
theorem State.joinedFlags_set {u : State} (hwf : u.wf = true) {j k : Fin 8} (hne : j ≠ k) :
    ((u.setFlag (VD_STAT_JOINED j) true).setFlag (VD_STAT_JOINED k) true).flag (VD_STAT_JOINED j) = true ∧
      ((u.setFlag (VD_STAT_JOINED j) true).setFlag (VD_STAT_JOINED k) true).flag (VD_STAT_JOINED k) = true := by
  have hfirst := State.canon_of_wf (State.setFlag_wf hwf (VD_STAT_JOINED j) true)
  have hapart : R_VD_STAT j.val ≠ R_VD_STAT k.val := fun h => hne (Fin.ext (by simpa using h))
  have hshown := hfirst.fld_setFld_of_apart (f := VD_STAT_JOINED k) (g := VD_STAT_JOINED j) (b2n true) (by simp) (by simp) (.inl hapart)
  exact ⟨(congrArg (· == 1) hshown).trans ((State.canon_of_wf hwf).flag_setFlag true rfl (by simp)), hfirst.flag_setFlag true rfl (by simp)⟩

theorem State.iff_stopTimer_regs (s : State) (c : Bool) (x : Timer) : (s.iff c (·.stopTimer x)).regs = s.regs := by cases c <;> rfl
theorem State.iff_stopTimer_veh (s : State) (c : Bool) (x : Timer) : (s.iff c (·.stopTimer x)).veh = s.veh := by cases c <;> rfl

/-- A join raises its event last. -/
theorem State.joinTo_ends (s : State) (j k : Nat) : ∃ u : State, s.joinTo j k = u.event 0x0510 [j, u.sess (s.leadOf k)] ∧
    u.regs = (s.joining j k).regs ∧ u.veh = (s.joining j k).veh ∧ (s.joining j k).Keeps u := by
  obtain ⟨full, hjoin⟩ := s.joinTo_eq j k
  exact ⟨_, hjoin, State.iff_stopTimer_regs _ _ _, State.iff_stopTimer_veh _ _ _,
    State.iff_keeps (.refl _) _ _ fun _ h => State.stopTimer_keeps h _⟩

section Join

variable {s : State} (hwf : s.wf = true) {j k : Fin 8} (hne : j ≠ k)

theorem State.joining_lead (i : Nat) : ((s.joining j k).vh i).lead = ((s.led j k).vh i).lead :=
  (State.updVh_lead (((s.led j k).stopTimer (.auth j)).tokSettle j false) (by exact rfl) j i).trans
    (State.tokSettle_lead ((s.led j k).stopTimer (.auth j)) j false i)

include hwf

theorem State.led_lead_joined : ((s.led j k).vh j).lead = some (s.leadOf k) := by
  have hu : s.Keeps (s.iff (s.vh k).lead.isNone (·.updVh k fun v => { v with lead := some k, joinNo := s.vehc.joins + 1 })) :=
    State.iff_keeps (.refl s) _ _ fun _ h => State.updVh_keeps h _ _
  exact congrArg Veh.lead (State.vh_updVh (hu.wf hwf) j _)

include hne

theorem State.led_lead_leader : ((s.led j k).vh k).lead = some (s.leadOf k) := by
  have hother : (s.led j k).vh k = (s.iff (s.vh k).lead.isNone (·.updVh k fun v => { v with lead := some k, joinNo := s.vehc.joins + 1 })).vh k :=
    nth_upd_other _ _ (fun h => hne (Fin.ext h)) _
  rw [hother, State.leadOf]
  cases hlead : (s.vh k).lead with
  | none => exact congrArg Veh.lead (State.vh_updVh hwf k _)
  | some l => exact hlead

/-- A join makes both outputs members of the session that output `k` leads or is led to. -/
theorem State.joinTo_joins : ((s.joinTo j k).vh j).lead = some (s.leadOf k) ∧ ((s.joinTo j k).vh k).lead = some (s.leadOf k) ∧
    (s.joinTo j k).flag (VD_STAT_JOINED j) = true ∧ (s.joinTo j k).flag (VD_STAT_JOINED k) = true ∧
    s.Raised (s.joinTo j k) 0x0510 [j.val, s.sess (s.leadOf k)] := by
  obtain ⟨u, hjoin, hregs, hveh, hu⟩ := s.joinTo_ends j k
  have hsess : s.Leaves (VD_SESS_SESSION (s.leadOf k)) (s.joining j k) := .joining (sess_ofTalk _) (.refl s)
  have hwf' := hsess.keeps.wf hwf
  have hlead (i : Nat) : ((s.joinTo j k).vh i).lead = ((s.led j k).vh i).lead := by
    rw [hjoin, State.vh_congr (State.event_veh _ _ _) i, State.vh_congr hveh i, State.joining_lead]
  have hflag (i : Nat) : (s.joinTo j k).flag (VD_STAT_JOINED i) = (s.joining j k).flag (VD_STAT_JOINED i) := by
    have hcup : isCupStat (VD_STAT_JOINED i).reg = false := isCupStat_block (show (0x50104 + i * 0x40) / 0x10000 ≠ 3 by omega)
    rw [hjoin, State.flag, State.event_fld (hu.wf hwf') _ _ _ hcup, State.fld_congr hregs, State.flag]
  have hraised : s.Raised (s.joinTo j k) 0x0510 [j.val, u.sess (s.leadOf k)] := by
    rw [hjoin]
    exact (State.event_raised u _ _).after (hsess.keeps.trans hu)
  rw [show u.sess (s.leadOf k) = s.sess (s.leadOf k) from (State.fld_congr hregs _).trans (hsess.fld_of hwf)] at hraised
  have hunposted : s.Leaves (VD_SESS_SESSION j) (s.unposted j k) :=
    .updVehc (.updVh (.tokSettle (sess_ofTalk j) (.stopTimer (.updVh (.iff (.refl s) .updVh)))))
  obtain ⟨hj, hk⟩ := State.joinedFlags_set (hunposted.keeps.wf hwf) hne
  exact ⟨(hlead j).trans (State.led_lead_joined hwf), (hlead k).trans (State.led_lead_leader hwf hne), (hflag j).trans hj,
    (hflag k).trans hk, hraised⟩

end Join

/-! ### The command -/

section JoinCommand

variable {s : State} (hwf : s.wf = true) (hclk : s.clocked = true) {j : Fin 8}

/-- The output that VD_CTRL names is shown in it. -/
def State.joinNamed (s : State) (j : Nat) (k : BitVec 4) : State := s.setFld (VD_CTRL_JOIN_OUT j) k.toNat

theorem execVdCtrlJoin_of_fitted (hclk : s.clocked = true) (hfit : j.val < s.nOuts) (k : BitVec 4) :
    exec (.vdCtrlJoin j k) s = .next ((s.joinNamed j k).hostJoin j k.toNat) :=
  (State.live_next hclk _).trans (congrArg _ (if_pos (by simpa using hfit)))

theorem State.Leaves.joinNamed {f : Fld} {s : State} {j : Nat} {k : BitVec 4} (hf : f.sparedBy (VD_CTRL_JOIN_OUT j) = true) :
    s.Leaves f (s.joinNamed j k) := .setFld (.refl s) hf

include hwf

theorem State.joinNamed_sstate (k : BitVec 4) (i : Nat) : (s.joinNamed j k).sstate i = s.sstate i :=
  (State.Leaves.joinNamed (Fld.sparedBy_of_beside (by simp [Fld.beside]))).fld_of hwf

theorem State.joinNamed_sess (k : BitVec 4) (i : Nat) : (s.joinNamed j k).sess i = s.sess i :=
  (State.Leaves.joinNamed (Fld.sparedBy_of_beside (by simp [Fld.beside]))).fld_of hwf

/-- Whom an output may join does not hang on the one that VD_CTRL names. -/
theorem State.joinNamed_joinable (k : BitVec 4) (i m : Nat) : (s.joinNamed j k).joinable i m = s.joinable i m := by
  have hmembers (b : Nat) : (s.joinNamed j k).fld (BND_CFG_MEMBERS b) = s.fld (BND_CFG_MEMBERS b) :=
    (State.Leaves.joinNamed (Fld.sparedBy_of_reg_ne (show 0x40300 + b * 0x10 ≠ 0x5012C + j.val * 0x40 by omega) (by simp))).fld_of hwf
  have hwin : (s.joinNamed j k).fld VD_GCFG_JOIN_WIN = s.fld VD_GCFG_JOIN_WIN :=
    (State.Leaves.joinNamed (Fld.sparedBy_of_beside (by simp [Fld.beside]))).fld_of hwf
  have hbundle (n : Nat) : (s.joinNamed j k).bundleOf n = s.bundleOf n := by simp only [State.bundleOf, hmembers]
  have hvh (n : Nat) : (s.joinNamed j k).vh n = s.vh n := rfl
  have htiming (x : Timer) : (s.joinNamed j k).timing x = s.timing x := rfl
  have helapsed (x : Timer) : (s.joinNamed j k).elapsed x = s.elapsed x := rfl
  simp only [State.joinable, hbundle, hvh, htiming, helapsed, hwin, State.joinNamed_sstate hwf]

include hclk

/-- A join within the window is made. -/
theorem vdCtrlJoin_joins {k : BitVec 4} (hfit : j.val < s.nOuts) (hk : k.toNat < 8) (hjoin : s.joinable j k.toNat = true)
    (hlo : 2 ≤ s.sstate j) (hhi : s.sstate j ≤ 8) : ∃ t, exec (.vdCtrlJoin j k) s = .next t ∧ (t.vh j).lead = some (s.leadOf k.toNat) ∧
      (t.vh k.toNat).lead = (t.vh j).lead ∧ t.flag (VD_STAT_JOINED j) = true ∧ t.flag (VD_STAT_JOINED k.toNat) = true ∧
      s.Raised t 0x0510 [j.val, s.sess (s.leadOf k.toNat)] := by
  let u := s.joinNamed j k
  have hu : s.Keeps u := State.setFld_keeps (.refl s) _ _
  have hne : j ≠ ⟨k.toNat, hk⟩ := by
    rintro rfl
    simp [State.joinable] at hjoin
  have hexec : exec (.vdCtrlJoin j k) s = .next (u.joinTo j k.toNat) := by
    rw [execVdCtrlJoin_of_fitted hclk hfit, State.hostJoin,
      if_pos ⟨hk, (State.joinNamed_joinable hwf k j k.toNat).trans hjoin, by rw [State.joinNamed_sstate hwf]; exact ⟨hlo, hhi⟩⟩]
  obtain ⟨hled, hleader, hshown, hshows, hraised⟩ := State.joinTo_joins (hu.wf hwf) hne
  rw [State.joinNamed_sess hwf] at hraised
  exact ⟨_, hexec, hled, hleader.trans hled.symm, hshown, hshows, hraised.after hu⟩

/-- Any other is refused. -/
theorem vdCtrlJoin_refused {k : BitVec 4} (hfit : j.val < s.nOuts)
    (hbad : ¬(k.toNat < 8 ∧ s.joinable j k.toNat = true ∧ 2 ≤ s.sstate j ∧ s.sstate j ≤ 8)) : ∃ t, exec (.vdCtrlJoin j k) s = .next t ∧
      s.Raised t 0x0512 [j.val, s.sess j] ∧ t.veh = s.veh ∧ s.RegsOnly [R_VD_CTRL j] t := by
  have hexec : exec (.vdCtrlJoin j k) s = .next ((s.joinNamed j k).event 0x0512 [j, s.sess j]) := by
    rw [execVdCtrlJoin_of_fitted hclk hfit, State.hostJoin, State.joinNamed_joinable hwf, State.joinNamed_sstate hwf, if_neg hbad,
      State.joinNamed_sess hwf]
  exact ⟨_, hexec, (State.event_raised _ _ _).after (State.setFld_keeps (.refl s) _ _), State.event_veh _ _ _,
    .of_leaves hwf fun o ho hcup => .event (.joinNamed (Fld.sparedBy_of_reg_ne (mt List.mem_singleton.mpr ho) (by simp))) hcup⟩

end JoinCommand

end Sys2Proof.Machine

open Sys2Proof Sys2Proof.Machine

/-- Settles O44: a stop of a session of its own, and the joins that the window admits. -/
theorem hostStopsAndJoins : Obligations.HostStopsAndJoins := by
  intro s j hwf hclk
  exact ⟨fun hfit => ⟨execVdCtrlStop_of_unfitted hclk hfit, execVdCtrlJoin_of_unfitted hclk hfit⟩,
    fun hfit hlead hlo hhi hnone => vdCtrlStop_announced hwf hclk hfit hlead hlo hhi hnone,
    fun hfit hlead hst => vdCtrlStop_ends hwf hclk hfit hlead hst,
    fun k hfit hk hjoin hlo hhi => vdCtrlJoin_joins hwf hclk hfit hk hjoin hlo hhi,
    fun k hfit hbad => vdCtrlJoin_refused hwf hclk hfit hbad⟩
end

section
/-!
STOP_TMO (spec/06 Table 6.6) without a stop announced: the session ends with no reason of its own.
-/

namespace Sys2Proof.Machine

open Sys2Proof

/-- A session state entered without a reason leaves the one shown. -/
theorem State.Leaves.setSState_reason (s : State) (j new : Nat) : s.Leaves (VD_STAT_REASON j) (s.setSState j new 0) :=
  .ite (.refl s) (.told (reason_ofTalk j) (.setFld (.refl s) (by simp [Fld.sparedBy, Fld.apart])))

theorem State.Leaves.endNow_reason (s : State) (j : Nat) : s.Leaves (VD_STAT_REASON j) (s.endNow j 0) :=
  (State.Leaves.closing (reason_ofTalk j) (.refl s)).trans (.setSState_reason _ j 11)

/-- STOP_TMO that expires with no stop announced leaves the reason shown as it was. -/
theorem stopTmo_keeps_reason {s : State} (hwf : s.wf = true) (hclk : s.clocked = true) {j : Fin 8}
    (hdue : s.due (.stop j) (s.fld VD_TMO1_STOP_TMO * 100 * ms) = true) (hst : s.sstate j = 2) (hnone : (s.vh j).evseStop = 0) :
    ∃ t, exec (.stopTmo j) s = .next t ∧ t.fld (VD_STAT_REASON j) = s.fld (VD_STAT_REASON j) := by
  let u := (s.stopTimer (.stop j)).expired j
  have hcount {f : Fld} (hf : f.beside (VD_ERR_TMO j) = true) : s.Leaves f u := .expired (.stopTimer (.refl s)) hf
  have hst' : u.sstate j = 2 := ((hcount (by simp [Fld.beside])).fld_of hwf).trans hst
  have hexec : exec (.stopTmo j) s = .next (u.endNow j 0) := by
    refine (State.live_next hclk _).trans (congrArg _ ((if_pos hdue).trans ?_))
    rw [hnone]
    exact (if_neg (by rw [hst']; decide)).trans (if_pos (by rw [hst']; decide))
  exact ⟨_, hexec, ((hcount (by simp [Fld.beside])).trans (.endNow_reason u j)).fld_of hwf⟩

/-- A session in SETUP on a module in RUN, with STOP_TMO due, no stop announced, and the reason of the session before still shown. -/
def stopUnannounced : State :=
  let s := (State.reset.setFld GLB_MODE_MODE 3).setFld GLB_PD_STATE_ON 0x3FF
  { (s.setFld (VD_STAT_SSTATE 0) 2).setFld (VD_STAT_REASON 0) 5 with timers := [(.stop 0, 1000000000000)] }

end Sys2Proof.Machine

open Sys2Proof Sys2Proof.Machine

/-- Refutes O43: STOP_TMO need not have a stop announced, and then ends a session without a reason, so that the one shown stays. -/
theorem not_dialogueTimers : ¬ Obligations.DialogueTimers := by
  intro h
  have hwf : stopUnannounced.wf = true := by decide
  have hclk : stopUnannounced.clocked = true := by decide
  have hdue : stopUnannounced.due (.stop (0 : Fin 8)) (stopUnannounced.fld VD_TMO1_STOP_TMO * 100 * ms) = true := by decide
  obtain ⟨t, hexec, hkept⟩ := stopTmo_keeps_reason hwf hclk hdue (by decide) (by decide)
  obtain ⟨-, -, -, -, -, -, -, -, hstop, -⟩ := h stopUnannounced 0 hwf hclk
  obtain ⟨u, hexec', -, hreason⟩ := hstop hdue (by decide) (by decide) (by decide)
  obtain rfl : t = u := Host.Outcome.next.inj (hexec.symm.trans hexec')
  exact absurd (hreason.symm.trans hkept) (by decide)
end
